-- ==== Sys2Proof/Word.lean ====
section
/-!
DEFINITION. The plain data types of the model: bytes, words, and the sparse table that every large array of the
VX9 is held in. A table lists only the entries that differ from the default value of its kind; the operations on
it stand in Machine/Table.lean.
-/
namespace Sys2Proof

/-- One byte. -/
abbrev Byte := BitVec 8

/-- A 32-bit word: a semaphore, a ring index, a bound register, an FP32 pattern. -/
abbrev W32 := BitVec 32

/-- A 64-bit word: the register size of BAR0, T-tick. -/
abbrev W64 := BitVec 64

/-- A sparse array: (key, value) pairs with strictly rising keys. -/
abbrev Tab (α : Type) := List (Nat × α)

/-- Byte memory: a sparse array of bytes keyed by address. -/
abbrev Memory := Tab Byte

end Sys2Proof
end

