-- ==== Sys2Proof/Syntax.lean ====
section
/-!
DEFINITION. The commands of the VX9: one constructor for each row of the table of operations and events, with the operands
that the row's rule names: the function that sends an access, the queue, stream, core or channel an event is about, and the
values that come from outside the device (pins, sensors, the results of the codecs that the manual takes from the video
standards). Numbers with a fixed range are bit vectors or bounded naturals; what else can go wrong stands in WellFormed.lean.
-/
namespace Sys2Proof

/-- The function that sends a host access (R351): the physical function, or VF n + 1. -/
inductive Fn where
  | pf
  | vf (n : Fin 16)
deriving DecidableEq, Repr

/-- The number of a function: 0 for the PF, n for VFn. -/
def Fn.num : Fn → Nat
  | .pf => 0
  | .vf n => n.val + 1

/-- MSI-X vectors of a function (R351). -/
def Fn.vectors : Fn → Nat
  | .pf => 2048
  | .vf _ => 64

/-- A die-to-die link (R13): module m between Hearth h and the Mantel, or the Flue link between H n and H (n + 1) mod 4. -/
inductive D2d where
  | mantel (hearth : Fin 4) (mod : Fin 2)
  | flue (link : Fin 4)
deriving DecidableEq, Repr

/-- What the check code of a word or sector finds on a read (R34, R433). -/
inductive EccFound where
  | clean
  | single
  | uncorrectable
deriving DecidableEq, Repr

/-- A structure inside an engine, with no physical address (R433, R489). -/
inductive InnerStore where
  | accumulator (core : Fin 16) (bank : Bool)
  | elementRegs (core : Fin 16)
  | programs (core : Fin 16)
  | queueState
  | dispatcher (hearth : Fin 4)
  | ispStaging (pipe : Fin 2)
deriving DecidableEq, Repr

/-- Who meets a word inside an engine: nobody but the scrub, the descriptor in EXEC of a partition, one that the queue manager holds, or a sensor
whose lines the image pipe reads. -/
inductive InnerUser where
  | none
  | exec (part : Fin 16)
  | held (q : BitVec 16) (uid : Nat)
  | sensor (n : Fin 16)
deriving DecidableEq, Repr

/-- A line that SSCRUB reads (R437, R489), or a word that its user reads: one with a physical address, one of media staging with the stream whose
engine reads it, one of the firmware complex SRAM with the control core that reads it, one inside an engine with its user; and an entry of a TLB or of
a walk cache (R433), by the virtual address that it stands for. -/
inductive ScrubWord where
  | addr (a : Nat)
  | mediaStaging (off : Nat) (user : Option (Fin 1024))
  | fwSram (off : Nat) (readBy : Option Nat)
  | inner (store : InnerStore) (off : Nat) (user : InnerUser)
  | tlb (core : Fin 16) (va : Nat)
  | walk (hearth : Fin 4) (part : Fin 16) (level va : Nat)
deriving DecidableEq, Repr

/-- A step of a periodic retraining (R437): it trains the channel, and the PHY temperature of the channel has moved 10 °C since the last one. -/
structure RetrainStep where
  trained : Bool
  moved : Bool
deriving DecidableEq, Repr

/-- The mode of the XSPI flash (R485), as the JESD216 parameter table of the device gives it. -/
inductive XspiMode where
  | octalDtr
  | quad
deriving DecidableEq, Repr

/-- The data of a write to BAR2, and whether the TLP carries the poisoned (EP) bit (R351). -/
structure TlpData where
  bytes : List Byte
  poisoned : Bool
deriving DecidableEq, Repr

/-- What the sensors of a rail read over a window (R410): mean voltage and current. -/
structure RailReading where
  mv : Nat
  ma : Nat
deriving DecidableEq, Repr

/-- What a GDDR6 channel has done in a window (R410). -/
structure GddrCounts where
  activates : Nat
  reads : Nat
  writes : Nat
  refreshes : Nat
deriving DecidableEq, Repr

/-- What the Damper measures in a window of 40 µs (R410): VDD_H0 to VDD_H3, VDD_MAN, VDD_AON, VDDQ_G, VDD_IO18 and the PHY rails, and the channels. -/
structure PowerReadings where
  rails : List RailReading
  gddr : List GddrCounts
deriving DecidableEq, Repr

/-- What the ageing check measures of a Hearth (R428): the mean of its ring oscillators in kHz, at a voltage and at a temperature in 1/8 °C. -/
structure AgeReading where
  khz : Nat
  mv : Nat
  temp : Int
deriving DecidableEq, Repr

/-- The activities of R430. The first twelve are the events of a Hearth; leakage is counted per µs powered. -/
inductive Activity where
  | steps4
  | steps8
  | steps16
  | matvecClock
  | elementInstr
  | coreBank
  | hearthBank
  | mantelTransfer
  | flueTransfer
  | leakage
  | gddrTransfer
  | bitSymbol
  | pixelSample
  | encodeSample
  | ispSample
  | jpegSample
  | shaperPixel
  | ingestByte
  | trackerUpdate
  | scrub
  | retraining
  | traceLine
  | remoteTransfer
  | firmware
  | mantelStatic
  | phyStatic
  | gddrRefresh
  | gddrStatic
deriving DecidableEq, Repr

/-- Whose activity it is (R430): a core, an MMU walk or transfer of a core, the owner of a stream, sensor, ingest channel, or shaper or tracker ring, or
the device. -/
inductive ActBy where
  | core (c : Fin 16)
  | stream (h : Fin 1024)
  | sensor (n : Fin 16)
  | channel (c : Fin 16)
  | ring (p : Fin 16)
  | device
deriving DecidableEq, Repr

/-- A count of an activity over the last 1 ms (R430). -/
structure ActCount where
  act : Activity
  of : ActBy
  count : Nat
deriving DecidableEq, Repr

/-- What a core that runs a unit does in the sampled A-clock (R463): it advances, waits for operands, or waits for its write path. -/
inductive UnitWait where
  | run
  | operand
  | output
deriving DecidableEq, Repr

/-- What Stage 1 finds at a start (R399): cores that fail BIST, channels that fail training or hold a fault without a spare,
the trained modules, the build and new repair-map entries. -/
structure StartResult where
  failedCores : BitVec 16
  untrained : BitVec 16
  unrepairable : BitVec 16
  failedModules : BitVec 8
  failedFlue : BitVec 4
  /-- The GDDR6 devices are those of the 32 GiB build (R31). -/
  build32 : Bool
  repairs : List Nat
  /-- VDDQ_G as Stage 1 measures it, in mV (R478), and the mode of the XSPI flash (R485). -/
  vddqMv : Nat
  xspi : XspiMode
deriving DecidableEq, Repr

/-- A sequence header as a bit engine reads it (R256): picture size, level, the buffering that it states (sps_max_dec_pic_buffering of the highest
sub-layer, or max_dec_frame_buffering; none without VUI), ten-bit samples, a feature outside R231. -/
structure SeqHeader where
  picW : Nat
  picH : Nat
  level : Nat
  buffering : Option Nat
  ten : Bool
  unsupported : Bool
deriving DecidableEq, Repr

/-- What the parser finds for the prediction block that covers the top-left sample of a 16 x 16 luma block (R252): mode, vector as the bitstream gives
it, whether in eighth samples, and the number of its coding unit. -/
structure BlockInfo where
  mode : BitVec 3
  vx : BitVec 16
  vy : BitVec 16
  eighth : Bool
  unit : Nat
deriving DecidableEq, Repr

/-- What a bit engine finds in an access unit (R231, R251 to R256): the video standards decide it. -/
structure AuResult where
  /-- It starts with a random-access point; it is a RASL picture; it is a reference; it is to be output. -/
  rap : Bool
  rasl : Bool
  reference : Bool
  shown : Bool
  /-- Units with an invalid header; no picture is left. -/
  badUnits : Nat
  noPicture : Bool
  seq : Option SeqHeader
  truncated : Bool
  badSlices : Nat
  missingRefs : Nat
  /-- Buffers that the picture would need. -/
  dpbNeed : Nat
  filmGrain : Bool
  /-- A frame of two fields in one access unit (MBAFF); the first field of a frame; the second one of the frame before (R231). -/
  fieldPair : Bool
  firstField : Bool
  secondField : Bool
  /-- Its key in output order: bumping order, or the AV1 show order (R249). -/
  order : Nat
  picW : Nat
  picH : Nat
  syntaxBytes : Nat
  /-- The blocks, row by row, the bits of each coding unit, and the blocks that truncation or invalid syntax leaves without syntax. -/
  blocks : List BlockInfo
  unitBits : List Nat
  lost : List Nat
  /-- Sectors of the syntax ring whose reads were poisoned (R258). -/
  poisoned : List Nat
deriving DecidableEq, Repr

/-- A change of the reference marks of a buffer by the reference process (R245). -/
structure RefChange where
  buf : Fin 16384
  short : Option Bool
  long : Option Bool
deriving DecidableEq, Repr

/-- The first reference of a picture (R257): it has none, it is absent, or it lies in a buffer. -/
inductive FirstRef where
  | none
  | absent
  | buf (b : Fin 16384)
deriving DecidableEq, Repr

/-- A reconstructed picture (R244, R257, R258): its planes without padding, line by line or one field after the other, as its blocks' syntax makes
them; its first reference, the buffers whose samples it read, and the blocks whose reference samples were poisoned, with the sector of each. -/
structure ReconResult where
  luma : List Byte
  chroma : List Byte
  mono : Bool
  byField : Bool
  first : FirstRef
  reads : List (Fin 16384)
  poisoned : List (Nat × Nat)
  refs : List RefChange
deriving DecidableEq, Repr

/-- What the check code of a CSI-2 packet header finds (R268). -/
inductive HdrErr where
  | clean
  | single
  | bad
deriving DecidableEq, Repr

/-- A JPEG's frame header as far as R288 asks for it: a sequential DCT process with Huffman coding, the bits of a sample, the sampling factors of
each component, and the size. -/
structure JpegHeader where
  sequential : Bool
  huffman : Bool
  bits : Nat
  comps : List (Nat × Nat)
  picW : Nat
  picH : Nat
deriving DecidableEq, Repr

/-- How a JPEG's data ends (R289). -/
inductive JpegEnd where
  | complete
  | syntaxError
  | truncated
deriving DecidableEq, Repr

/-- What the JPEG decoder reads (R288, R289): the frame header, or none before an error; how the data ends; the MCUs that were not decoded, by
number; and its planes line by line without padding. -/
structure JpegResult where
  header : Option JpegHeader
  ends : JpegEnd
  missing : List Nat
  planes : List Byte
deriving DecidableEq, Repr

/-- The commands of the VX9, one constructor per row of the table of operations and events. -/
inductive Instr where
  /-- POR_ASSERT (R482): POR_N is held low for at least 10 µs and the whole device enters reset. -/
  | porAssert (lowNs : Nat)
  /-- POR_RELEASE (R402): Release of POR_N resets everything, samples the straps and starts the power-on order. -/
  | porRelease (bootSrc twinRole : BitVec 2) (smbAddr : BitVec 3)
  /-- PERST_ASSERT (R402): PERST_N is asserted and resets the scope that BOOT_SRC selects. -/
  | perstAssert (lowNs : Nat)
  /-- PERST_RELEASE (R24): PERST_N is released, and reset release and the PCIe bring-up follow. -/
  | perstRelease
  /-- AON_BROWNOUT (R481): VDD_AON stays below 0.68 V for 1 µs or longer and the device resets as if POR_N were low. -/
  | aonBrownout (lowNs : Nat)
  /-- REFCLK_LOSS (R482): REFCLK shows no edge for 1 µs and the device resets as under a POR_N assertion. -/
  | refclkLoss (quietNs : Nat)
  /-- REFCLK_RETURN (R482): REFCLK runs again, and the internal reset is released 100 µs later. -/
  | refclkReturn (bootSrc twinRole : BitVec 2) (smbAddr : BitVec 3)
  /-- RESET_RELEASE (R24): Hardware brings up AON, the limiter, the PLLs and the fabric, and PCIe training starts. -/
  | resetRelease
  /-- STAGE0_START (R397): Stage 0 chooses a Stage 1 slot or enters recovery wait, then verifies, copies, measures and jumps to Stage 1. -/
  | stage0Start (off : Nat) (found : EccFound)
  /-- STAGE1_START (R399): Stage 1 raises the Hearth rails, trains the links and GDDR6, runs BIST and repair, opens the staging window and loads the firmware. -/
  | stage1Start (p : StartResult)
  /-- CONTAINER_BLOCK_LANDED (R391): A 64 KiB payload block lands in firmware SRAM and its digest is compared. -/
  | containerBlockLanded
  /-- MAIN_FW_START (R401): Main firmware applies the configuration block, starts its loops and pipelines, sets READY and posts READY. -/
  | mainFwStart
  /-- PUSH_S1 (R401): A SEC_PUSH write with S1 set hands a host Stage 1 container to Stage 0 in recovery wait. -/
  | pushS1 (fn : Fn)
  /-- PUSH_FW (R401): A SEC_PUSH write with FW set hands the firmware container in the staging window to Stage 1. -/
  | pushFw (fn : Fn)
  /-- PUSH_CFG (R401): A SEC_PUSH write with CFG set marks a host configuration block as pushed. -/
  | pushCfg (fn : Fn)
  /-- LINK_TRAINED (R352): The PCIe link finishes training and NARROW is set and logged when it trained below Gen5 x8. -/
  | linkTrained (speed : BitVec 3) (width : BitVec 5)
  /-- LINK_DOWN (R370): The PCIe link goes down and writes to host memory are dropped and counted. -/
  | linkDown
  /-- HOT_RESET (R369): A hot reset or link-down reset of the PF link acts as a PF FLR. -/
  | hotReset
  /-- VF_FLR (R369): A VF function-level reset cancels, stops, closes and releases everything that the VF drives on its partition. -/
  | vfFlr (vf : Fin 16)
  /-- PF_FLR (R369): A PF function-level reset performs the VF FLR steps for each partition without an autonomous pipeline and restarts the mail area. -/
  | pfFlr
  /-- BAR2_RESIZE (R353): A Resizable BAR change of the PF BAR2 size takes effect when BAR2 is next programmed. -/
  | bar2Resize (gib : Nat)
  /-- BAR2_READ (R354): A host read through BAR2 is mapped onto the device physical map and answered within its bound. -/
  | bar2Read (fn : Fn) (off len : Nat)
  /-- BAR2_WRITE (R354): A host write through BAR2 is mapped onto the device physical map, or dropped as a violation. -/
  | bar2Write (fn : Fn) (off : Nat) (data : TlpData)
  /-- BAR0_HALF_WRITE (R355): A 4-byte half write of a 64-bit register is held, or combined with the held low half. -/
  | bar0HalfWrite (fn : Fn) (off : Nat) (value : W32)
  /-- BAR0_HALF_READ (R355): A 4-byte half read of a 64-bit register returns its half and latches or consumes the high half. -/
  | bar0HalfRead (fn : Fn) (off : Nat)
  /-- REGISTER_WRITE (R8): A write to a register that has no row of its own is applied according to its access code. -/
  | registerWrite (fn : Fn) (off : Nat) (data : List Byte)
  /-- RC_READ (R10): A read of an rc register returns its value and clears it, and keeps a coinciding hardware update. -/
  | rcRead (fn : Fn) (off len : Nat)
  /-- GLB_TIME_WRITE (R22): A PF write to GLB_TIME sets every time copy to the new value. -/
  | glbTimeWrite (fn : Fn) (ns : W64)
  /-- PPS_EDGE (R360): A rising edge of TIME_PPS is stamped and the time copies are aligned or the edge is ignored. -/
  | ppsEdge
  /-- PPS_HOLD_END (R360): The hold of a backward alignment ends and the time copies advance again. -/
  | ppsHoldEnd
  /-- PPS_LOCK_LOST (R360): No edge has been aligned for 2 s and LOCKED clears. -/
  | ppsLockLost
  /-- MSIX_UNMASK (R368): A masked vector with its pending bit set is unmasked and sends one message. -/
  | msixUnmask (fn : Fn) (vector : Fin 2048)
  /-- MAIL_DOORBELL (R365): A write of HIF_MAIL_DB.H2F tells firmware that new host-to-firmware requests are in the ring. -/
  | mailDoorbell (fn : Fn)
  /-- F2H_POST (R365): Firmware posts a waiting F2H message once the ring has room, advances F2H_PI and raises PF vector 0. -/
  | f2hPost
  /-- HELLO (R366): A HELLO request negotiates the mail session version and feature set. -/
  | hello
  /-- PING (R364): A PING request is answered with its payload echoed. -/
  | ping
  /-- QUOTE (R405): A QUOTE request writes a signed quote of the selected measurement registers over the nonce. -/
  | quote
  /-- CERT (R405): A CERT request writes the identity certificate to host-given memory. -/
  | cert
  /-- EVENT_LOG (R404): An EVENT_LOG request writes the measurement event log with its header. -/
  | eventLog
  /-- EXTEND (R406): An EXTEND request extends M7 with a host digest, or is refused when the log is full. -/
  | extend
  /-- UPDATE_LOAD (R407): An UPDATE_LOAD request verifies a firmware container into the idle bank, or refuses it. -/
  | updateLoad
  /-- UPDATE_COMMIT (R408): An UPDATE_COMMIT request runs the live-update handover to the loaded image. -/
  | updateCommit
  /-- UPDATE_ABORT (R407): An UPDATE_ABORT request discards the loaded but uncommitted image. -/
  | updateAbort
  /-- STAGE1_WRITE (R406): A STAGE1_WRITE request verifies a Stage 1 container and writes it to the slot not chosen at this start. -/
  | stage1Write
  /-- NVM_WRITE (R406): An NVM_WRITE request copies bytes into the NVM without verification. -/
  | nvmWrite
  /-- NEW_IMAGE_LOOPS_STARTED (R408): The new image starts its loops, which ends the limiter hold, then extends M5 and M4 and answers the commit. -/
  | newImageLoopsStarted
  /-- HANDOVER_TIMEOUT (R409): The new image has not started its loops 500 µs after the blob write, and the old image is restarted. -/
  | handoverTimeout
  /-- SET_CAP (R411): A SET_CAP request sets the board power cap at run time. -/
  | setCap
  /-- SET_ACLK_MAX (R412): A SET_ACLK_MAX request sets the A-clock ceiling F_CEIL. -/
  | setAclkMax
  /-- IDLE_ENTER (R424): An IDLE_ENTER request enters DEEP_IDLE when the device is quiescent, and is answered BUSY otherwise. -/
  | idleEnter
  /-- IDLE_EXIT (R425): An IDLE_EXIT request starts the wake sequence from DEEP_IDLE. -/
  | idleExit
  /-- WAKE_DONE (R425): The wake sequence completes, STATE reads ACTIVE and the IDLE_EXIT reply is sent. -/
  | wakeDone
  /-- IDENTITY (R372): The SMBus IDENTITY command returns the part identity and versions. -/
  | smbIdentity (pec : Option Bool)
  /-- STATUS (R373): The SMBus STATUS command returns the GLB_STATUS bits and the log flags, then clears those flags. -/
  | smbStatus (pec : Option Bool)
  /-- TEMP (R372): The SMBus TEMP command returns the highest junction temperature. -/
  | smbTemp (pec : Option Bool)
  /-- TEMP_ALL (R372): The SMBus TEMP_ALL command returns the temperature of each die. -/
  | smbTempAll (pec : Option Bool)
  /-- POWER (R372): The SMBus POWER command returns the 10 ms mean board power. -/
  | smbPower (pec : Option Bool)
  /-- POWER_CAP (R372): The SMBus POWER_CAP command returns the board power cap in force. -/
  | smbPowerCap (pec : Option Bool)
  /-- EMBER_TAIL (R373): The SMBus EMBER_TAIL command returns the Ember log entry at its own cursor and advances the cursor. -/
  | smbEmberTail (pec : Option Bool)
  /-- REPLACE (R372): The SMBus REPLACE command returns the replacement bits. -/
  | smbReplace (pec : Option Bool)
  /-- D2D_FLIT_RETRY (R14): A die-to-die flit fails its CRC, is retried and delivered once, and the retry is counted. -/
  | d2dFlitRetry (link : D2d)
  /-- MODULE_FAILED (R15): A die-to-die module fails its retraining and the device degrades by the module concerned. -/
  | moduleFailed (link : D2d)
  /-- EDC_FAILURE (R33): A GDDR6 transfer fails its link EDC and is retried, or its channel is retrained once the retries are exhausted. -/
  | edcFailure (addr : Nat) (write : Bool) (failed : Fin 5)
  /-- EDC_RETRAIN_DONE (R33): The on-demand channel retraining ends and the transfer is tried once more, or poisoned or dropped. -/
  | edcRetrainDone (addr : Nat) (trained ok : Bool)
  /-- GDDR6_READ (R34): A GDDR6 read returns a sector, corrected and written back or delivered as poisoned. -/
  | gddr6Read (addr : Nat) (found : EccFound)
  /-- SPLIT_WINDOW_END (R37): A window of 256 transfer slots ends and unused credit expires. -/
  | splitWindowEnd (channel : Fin 16) (reads writes remotes : Nat)
  /-- WALK_DONE (R48): A page-table walk ends and fills the TLB, or yields a translation fault. -/
  | walkDone (core : Fin 16) (va : BitVec 48)
  /-- INV_PARTITION (R49): MMU_INV_CMD with SCOPE 0 invalidates every translation of a partition. -/
  | invPartition (fn : Fn) (part : Fin 16)
  /-- INV_RANGE (R49): MMU_INV_CMD with SCOPE 1 invalidates the page range in MMU_INV_ADDR. -/
  | invRange (fn : Fn) (part : Fin 16)
  /-- INV_SLOT (R49): MMU_INV_CMD with SCOPE 2 invalidates one sequence slot. -/
  | invSlot (fn : Fn) (part : Fin 16) (slot : Fin 1024)
  /-- INV_DONE (R49): An invalidation completes and MMU_INV_STATUS.DONE is set. -/
  | invDone
  /-- MMU_COMMIT (R490): A write of MMU_COMMIT.GO accepts or rejects the pending MMU set. -/
  | mmuCommit (fn : Fn)
  /-- QUEUE_DOORBELL (R188): A queue doorbell write sets the new tail and completion consumer index, or is dropped. -/
  | queueDoorbell (fn : Fn) (off : Nat) (data : List Byte)
  /-- ENABLE (R186): The ENABLE command reads the queue entry and activates the queue, or fails. -/
  | enable (fn : Fn) (q : BitVec 16)
  /-- DISABLE (R189): The DISABLE command stops fetching and withdraws unfinished REPEATs. -/
  | disable (fn : Fn) (q : BitVec 16)
  /-- QUEUE_DISABLED (R189): Every issued descriptor of a disabling queue has completed or been withdrawn, and the queue becomes DISABLED. -/
  | queueDisabled (q : BitVec 16)
  /-- CANCEL (R210): The CANCEL command stops the queue and stops granting tiles to its descriptors. -/
  | cancel (fn : Fn) (q : BitVec 16)
  /-- CANCEL_DRAINED (R210): All descriptors of a cancelled queue have drained, CANCELLED records and the queue record are written, and the queue becomes DISABLED. -/
  | cancelDrained (q : BitVec 16)
  /-- RESUME (R209): The RESUME command reruns the faulting descriptor of a FAULTED queue from its start. -/
  | resume (fn : Fn) (q : BitVec 16)
  /-- RESUME_SKIP (R209): The RESUME_SKIP command continues a FAULTED queue after the faulting descriptor or its enclosing REPEAT body. -/
  | resumeSkip (fn : Fn) (q : BitVec 16)
  /-- SEMOP_ADD (R190): A host QM_SEMOP write with OP ADD adds to a semaphore with release semantics. -/
  | semopAdd (fn : Fn) (sem : BitVec 14) (value : W32)
  /-- SEMOP_SET (R190): A host QM_SEMOP write with OP SET writes a semaphore with release semantics. -/
  | semopSet (fn : Fn) (sem : BitVec 14) (value : W32)
  /-- DESCRIPTOR_FETCH (R156): The queue manager reads a descriptor whole and checks the conditions that depend only on its bytes. -/
  | descriptorFetch (q : BitVec 16)
  /-- DESCRIPTOR_REFUSE (R192): An invalid descriptor is refused once its conditions hold and completes with an error under R185. -/
  | descriptorRefuse (q : BitVec 16)
  /-- NOP (R166): A NOP descriptor issues and does nothing. -/
  | dNop (q : BitVec 16)
  /-- WAIT (R57): A WAIT descriptor issues once its semaphore wait is satisfied, with acquire semantics. -/
  | dWait (q : BitVec 16)
  /-- SIGNAL (R57): A SIGNAL descriptor updates its semaphore after every earlier descriptor has completed. -/
  | dSignal (q : BitVec 16)
  /-- FENCE (R56): A FENCE descriptor completes when every earlier descriptor of its queue has completed. -/
  | dFence (q : BitVec 16)
  /-- BARRIER (R166): A BARRIER descriptor holds its whole partition until every earlier issued descriptor has completed. -/
  | dBarrier (q : BitVec 16)
  /-- REPEAT (R176): A REPEAT descriptor reads its count and runs its body that many times. -/
  | dRepeat (q : BitVec 16)
  /-- LOADB (R177): A LOADB descriptor loads words into bound registers. -/
  | dLoadb (q : BitVec 16)
  /-- COPY (R178): A COPY descriptor copies bytes, including over the Flue into another Hearth's buffer. -/
  | dCopy (q : BitVec 16)
  /-- PREFETCH (R178): A PREFETCH descriptor has Bellows copy data into the local window of every core of the partition. -/
  | dPrefetch (q : BitVec 16)
  /-- GATHER (R171): A GATHER descriptor copies indexed rows out of a table. -/
  | dGather (q : BitVec 16)
  /-- SCATTER (R171): A SCATTER descriptor writes rows into a table at indexed positions. -/
  | dScatter (q : BitVec 16)
  /-- MATMUL (R99): A MATMUL descriptor computes a matrix product on the array. -/
  | dMatmul (q : BitVec 16)
  /-- MATVEC (R114): A MATVEC descriptor runs a thin product on the matrix-vector path. -/
  | dMatvec (q : BitVec 16)
  /-- CONV (R116): A CONV descriptor computes a convolution as an implicit matrix product. -/
  | dConv (q : BitVec 16)
  /-- CONVW (R117): A CONVW descriptor computes a 3 × 3 convolution by Winograd F(2×2,3×3). -/
  | dConvw (q : BitVec 16)
  /-- DWCONV (R120): A DWCONV descriptor computes a depthwise convolution. -/
  | dDwconv (q : BitVec 16)
  /-- DIST (R97): A DIST descriptor computes distances in a distance cell mode. -/
  | dDist (q : BitVec 16)
  /-- ELEM (R137): An ELEM descriptor applies a resident program to streams on the element engine. -/
  | dElem (q : BitVec 16)
  /-- PLOAD (R124): The program-load form of ELEM fills a program slot on every core of the partition. -/
  | dPload (q : BitVec 16)
  /-- REDUCE (R151): A REDUCE descriptor combines rows on the element engine. -/
  | dReduce (q : BitVec 16)
  /-- ATTN (R211): An ATTN descriptor runs a fused attention block across the four Hearths. -/
  | dAttn (q : BitVec 16)
  /-- AHEAD_REQUEST (R195): A core asks its dispatcher for the next unit of its own range. -/
  | aheadRequest (core : Fin 16)
  /-- LOCAL_STEAL (R195): A core with an empty range steals the upper half of the largest range in its Hearth. -/
  | localSteal (core : Fin 16)
  /-- REMOTE_STEAL (R195): Another Hearth's dispatcher serves a steal request with a range or none. -/
  | remoteSteal (core : Fin 16) (victim : Fin 4)
  /-- TILE_DRAIN (R104): The epilogue drains a finished accumulator bank and writes its outputs. -/
  | tileDrain (core : Fin 16) (bank : Fin 2)
  /-- ELEM_BATCH (R137): The element engine finishes one batch of a descriptor and takes its outputs. -/
  | elemBatch (core : Fin 16)
  /-- WIDEN_RERUN (R89): A saturating descriptor with WIDEN_ON_SAT is run again in widened BF16 form. -/
  | widenRerun (part : Fin 16)
  /-- DESCRIPTOR_FINISH (R193): A descriptor's work ends and all its writes arrive, and the NEXT descriptor moves into EXEC. -/
  | descriptorFinish (part : Fin 16) (slot : Fin 3)
  /-- DESCRIPTOR_COMPLETE (R193): A finished descriptor completes in order, with its count register, releases, signal, record, IRQ and SNUFF_DONE. -/
  | descriptorComplete (q : BitVec 16)
  /-- WAIT_TIMEOUT (R200): A wait timer reaches the queue timeout and the descriptor completes with WAIT_TIMEOUT. -/
  | waitTimeout (q : BitVec 16)
  /-- PARTITION_STALL (R202): A partition stays stalled longer than QM_STALL_TIME and PARTITION_STALL is reported. -/
  | partitionStall (part : Fin 16)
  /-- ATTN_BLOCK_READ (R217): A home Hearth reads a key/value block from sequence space once its rotation has free space. -/
  | attnBlockRead (hearth : Fin 4)
  /-- ATTN_BLOCK_ARRIVE (R217): A whole block arrives at a Hearth over the Flue and is forwarded to the next Hearth. -/
  | attnBlockArrive (hearth : Fin 4)
  /-- ATTN_BLOCK_ABSORB (R220): A core absorbs a block into the online softmax state of its rows. -/
  | attnBlockAbsorb (core : Fin 16)
  /-- ATTN_MERGE (R222): After the last block, a tile merges its two states and writes its output rows. -/
  | attnMerge (core : Fin 16)
  /-- CYCLE_START (R344): A cycle of the cyclic table begins at its T-tick value. -/
  | cycleStart
  /-- QUIET_PERIOD_START (R346): A slot's guard opens a quiet period and withdraws a foreign descriptor from NEXT. -/
  | quietPeriodStart (slot : Fin 1024)
  /-- SLOT_START (R345): A slot starts, admits its group and starts measuring lateness. -/
  | slotStart (slot : Fin 1024)
  /-- SLOT_END (R345): A slot ends and its group loses admission. -/
  | slotEnd (slot : Fin 1024)
  /-- OPEN (R236): The OPEN command checks and reserves a decode stream. -/
  | mediaOpen (fn : Fn) (h : Fin 1024)
  /-- OPEN_ENC (R236): The OPEN_ENC command checks and reserves an encode session. -/
  | mediaOpenEnc (fn : Fn) (h : Fin 1024)
  /-- CLOSE (R237): The CLOSE command stops a stream and returns its buffers as their marks clear. -/
  | mediaClose (fn : Fn) (h : Fin 1024)
  /-- FLUSH (R237): The FLUSH command decodes and emits everything and enters FLUSHED. -/
  | mediaFlush (fn : Fn) (h : Fin 1024)
  /-- SKIP_TO_RAP (R237): The SKIP_TO_RAP command discards input up to the next random-access point. -/
  | mediaSkipToRap (fn : Fn) (h : Fin 1024)
  /-- FORCE_IDR (R237): The FORCE_IDR command makes the next encoded frame an IDR frame. -/
  | mediaForceIdr (fn : Fn) (h : Fin 1024)
  /-- MEDIA_DOORBELL (R239): A decode stream doorbell makes bitstream bytes available and can complete access units. -/
  | mediaDoorbell (fn : Fn) (h : Fin 1024) (value : W64) (ends : List W32)
  /-- AU_PARSE_START (R242): A bit engine loads a stream context and begins parsing a complete access unit. -/
  | auParseStart (h : Fin 1024) (engine : Fin 8)
  /-- AU_PARSE_DONE (R251): A bit engine ends an access unit, writes its syntax and coding-map slot and saves the context. -/
  | auParseDone (h : Fin 1024) (r : AuResult)
  /-- RECON_DECISION (R254): A non-reference frame becomes the oldest and is either reconstructed or skipped. -/
  | reconDecision (h : Fin 1024)
  /-- PIXEL_FRAME_START (R242): A pixel pipe starts reconstructing a frame of a stream. -/
  | pixelFrameStart (h : Fin 1024) (pipe : Fin 16) (buf : Fin 16384) (refs : List RefChange)
  /-- RECON_DONE (R244): A pixel pipe ends reconstruction of a frame into its pool buffer. -/
  | reconDone (h : Fin 1024) (pipe : Fin 16) (r : ReconResult)
  /-- FRAME_EMIT (R249): A picture is emitted in output order once the emission waits allow it. -/
  | frameEmit (h : Fin 1024) (buf : Fin 16384)
  /-- MEDIA_COMMIT (R243): A MEDIA_COMMIT write checks the shadow set and places it pending on the selected stream. -/
  | mediaCommit (fn : Fn)
  /-- RELEASE_OUT (R245): MEDIA_RELEASE with OUT set clears OUT_PENDING on a pool buffer. -/
  | releaseOut (fn : Fn) (buf : Fin 16384)
  /-- RELEASE_HOLD (R245): MEDIA_RELEASE with HOLD set clears ANALYTICS_HOLD on a pool buffer. -/
  | releaseHold (fn : Fn) (buf : Fin 16384)
  /-- RECON_REQ (R255): A MEDIA_RECON_REQ write asks that a frame be reconstructed. -/
  | reconReq (fn : Fn) (h : Fin 1024) (next : Bool) (num : W32)
  /-- ENCODE_SUBMIT (R260): An encode doorbell queues a source buffer and updates OUT_CONSUMED. -/
  | encodeSubmit (fn : Fn) (h : Fin 1024) (value : W64)
  /-- ENCODE_FRAME_START (R262): An encode pipe starts a frame once the output ring has room. -/
  | encodeFrameStart (h : Fin 1024) (pipe : Fin 2) (recon : Fin 16384)
  /-- ENCODE_PASS_DONE (R263): An encode pass ends and rate control keeps the frame, runs a second pass or skips it. -/
  | encodePassDone (h : Fin 1024) (bytes luma chroma : List Byte)
  /-- CAP_COMMIT (R270): CAP_COMMIT.GO accepts or rejects the capture shadow set, opening and closing sensors and assigning ISP contexts. -/
  | capCommit (fn : Fn)
  /-- FRAME_START_PACKET (R272): A frame-start short packet is stamped and takes a free buffer, or the frame is dropped. -/
  | frameStartPacket (port : Fin 4) (vc : BitVec 4) (hdr : HdrErr)
  /-- LONG_PACKET (R268): A CSI-2 long packet carries a line into the line queue, or is discarded. -/
  | longPacket (port : Fin 4) (vc : BitVec 4) (dt : BitVec 6) (hdr : HdrErr) (crcOk full : Bool) (payload : List Byte)
  /-- FRAME_END_PACKET (R272): A frame-end short packet closes the frame and emits a RAW or bypass frame. -/
  | frameEndPacket (port : Fin 4) (vc : BitVec 4) (hdr : HdrErr)
  /-- ISP_FRAME_DONE (R277): An ISP pipe writes the last line of a frame and its statistics, and the frame is emitted. -/
  | ispFrameDone (sensor : Fin 16) (colours medians filtered : List (BitVec 16))
  /-- FSYNC_WORD_A (R275): A write of CAP_FSYNCn word A takes effect together with any held word B. -/
  | fsyncWordA (fn : Fn) (n : Fin 4) (value : W64)
  /-- FSYNC_WORD_B (R275): A write of CAP_FSYNCn word B is held until the next write of word A. -/
  | fsyncWordB (fn : Fn) (n : Fin 4) (value : W64)
  /-- FSYNC_ASSERT (R275): An FSYNC pin asserts at its phase in the period. -/
  | fsyncAssert (n : Fin 4)
  /-- FSYNC_DEASSERT (R275): An FSYNC pin deasserts WIDTH_NS after its assertion. -/
  | fsyncDeassert (n : Fin 4)
  /-- SHAPE_RING_WRITE (R280): A write of SHAPE_RINGp enables a shaper ring, resetting head and tail, or stops it. -/
  | shapeRingWrite (fn : Fn) (p : Fin 16) (value : W64)
  /-- SHAPE_DOORBELL (R280): A shaper doorbell sets the ring's new tail. -/
  | shapeDoorbell (fn : Fn) (p : Fin 16) (tail : W32)
  /-- SHAPE_OP_START (R285): A shaper operation starts once its wait is satisfied, taking T_start and checking its regions. -/
  | shapeOpStart (p : Fin 16)
  /-- SHAPE_OP_DONE (R285): A shaper operation's writes arrive, its result record is written, holds are released, and it signals and advances. -/
  | shapeOpDone
  /-- JPEG_DONE (R289): The JPEG decoder ends an image and reports its result. -/
  | jpegDone (c : Fin 16) (id : W32) (r : JpegResult)
  /-- INGEST_ENABLE (R294): Setting INGEST_RINGc.EN copies the parameters, opens the stream and reserves buffers, or fails. -/
  | ingestEnable (fn : Fn) (c : Fin 16) (value : W64)
  /-- INGEST_DISABLE (R295): Clearing INGEST_RINGc.EN stops parsing, closes the open batch and closes the stream. -/
  | ingestDisable (fn : Fn) (c : Fin 16)
  /-- INGEST_DOORBELL (R293): An ingest doorbell advances WRITE of the record ring. -/
  | ingestDoorbell (fn : Fn) (c : Fin 16) (write : W32)
  /-- INGEST_EOS (R303): An ingest doorbell with EOS closes the batch once every sample has been emitted. -/
  | ingestEos (fn : Fn) (c : Fin 16) (write : W32)
  /-- SLOT_DONE (R296): An ingest doorbell's SLOT_DONE releases sample slots. -/
  | slotDone (fn : Fn) (c : Fin 16) (n : BitVec 14)
  /-- ROW_DONE (R301): An ingest doorbell's ROW_DONE releases packed rows. -/
  | rowDone (fn : Fn) (c : Fin 16) (n : BitVec 16)
  /-- RECORD_HEADER (R297): The ingest engine parses a record header, gives a sample its id, or resynchronises. -/
  | recordHeader (c : Fin 16)
  /-- SAMPLE_DISPATCH (R298): A sample's payload is dispatched to the JPEG decoder or the copy path once a buffer or slot is free. -/
  | sampleDispatch (c : Fin 16) (id : W32)
  /-- SAMPLE_FINISH (R298): A sample finishes, its data or substitute is written, it is packed and its record is emitted. -/
  | sampleFinish (c : Fin 16) (id : W32)
  /-- SAMPLE_SLOW (R300): A sample exceeds ING_SLOW_LIMIT, is aborted and replaced. -/
  | sampleSlow (c : Fin 16) (id : W32)
  /-- BATCH_DEADLINE (R303): DEADLINE_US passes after a batch's first sample and the batch closes. -/
  | batchDeadline (c : Fin 16)
  /-- BIND (R308): The BIND command checks a bind block and reserves track contexts for a stream. -/
  | bind (fn : Fn) (h : Fin 1024)
  /-- UNBIND (R309): The UNBIND command frees a stream's contexts and releases its reservation. -/
  | unbind (fn : Fn) (h : Fin 1024)
  /-- CLEAR (R309): The CLEAR command frees every context of a stream without records. -/
  | clear (fn : Fn) (h : Fin 1024)
  /-- TRACK_RING_WRITE (R310): A write of TRACK_RINGp enables or stops a tracker ring. -/
  | trackRingWrite (fn : Fn) (p : Fin 16) (value : W64)
  /-- TRACK_DOORBELL (R310): A tracker doorbell sets the ring's new tail. -/
  | trackDoorbell (fn : Fn) (p : Fin 16) (tail : W32)
  /-- PREDICT (R314): A PREDICT op advances a stream's tracks and writes the predictions, embeddings and count. -/
  | predict (p : Fin 16)
  /-- ASSOCIATE (R318): An ASSOCIATE op matches, updates, creates and retires tracks and writes metadata. -/
  | associate (p : Fin 16)
  /-- TRACK_MDB (R324): A TRACK_MDBs write returns consumed metadata slots. -/
  | trackMdb (fn : Fn) (h : Fin 1024) (consumed : W32)
  /-- PIPE_FRAME_START (R330): The pipeline sequencer takes the newest capture record and writes the shaper op. -/
  | pipeFrameStart (k : Fin 16)
  /-- PIPE_SHAPED (R330): The shaper semaphore signals, and the sequencer writes the PREDICT and rings the queue. -/
  | pipeShaped (k : Fin 16)
  /-- PIPE_CHAIN_DONE (R330): The chain signals SEM_BASE + 2 and the sequencer writes the ASSOCIATE. -/
  | pipeChainDone (k : Fin 16)
  /-- PIPE_FRAME_END (R330): The ASSOCIATE signals SEM_BASE + 3 and the pipeline's frame ends. -/
  | pipeFrameEnd (k : Fin 16)
  /-- PIPE_TIMEOUT (R331): A pipeline frame exceeds TIMEOUT_US, and the queue is cancelled and the frame missed. -/
  | pipeTimeout (k : Fin 16)
  /-- PIPE_FAULT (R332): A pipeline queue faults during a frame, and it is cancelled and re-enabled and the frame missed. -/
  | pipeFault (k : Fin 16)
  /-- POWER_WINDOW (R415): A 40 µs power window ends, board power is estimated and the limiter updates F_LIM. -/
  | powerWindow (r : PowerReadings)
  /-- GRANT_HOLD_END (R416): The 20 µs grant hold ends and grants resume. -/
  | grantHoldEnd
  /-- CAP_UNMET (R417): Power stays above the cap at 300 MHz for 100 ms and CAP_UNMET is set. -/
  | capUnmet
  /-- THERMAL_SAMPLE (R420): A 100 µs sample of all sensors updates T_MAX and the thermal ceiling. -/
  | thermalSample (h0 h1 h2 h3 m : BitVec 16)
  /-- THERMAL_CEILING_STEP (R420): The 1 ms or 10 ms timer of the thermal ceiling lowers or raises F_TH by 25 MHz. -/
  | thermalCeilingStep
  /-- PLL_STEP_ACK (R413): All four PLLs acknowledge a 25 MHz step and the sequencer takes the next step or lowers the rails. -/
  | pllStepAck
  /-- RAIL_SETTLED (R413): The Hearth rails report settled and the sequencer steps the PLLs up. -/
  | railSettled
  /-- RAIL_SETTLE_TIMEOUT (R479): A rail has not settled 50 µs after a raise, and the raise is abandoned and logged. -/
  | railSettleTimeout (hearth : Fin 4)
  /-- DROOP_FIRE (R418): A droop detector fires and the Hearth's A-clock period doubles. -/
  | droopFire (hearth : Fin 4)
  /-- DROOP_END (R418): 32 A-clocks after the last detector clears, the stretch ends. -/
  | droopEnd (hearth : Fin 4)
  /-- POWER_LOOP (R422): The 1 ms firmware power loop sets F_REQ and applies cap and ceiling changes. -/
  | powerLoop
  /-- MARGIN_LOOP (R427): The 1 s margin loop raises M_n of Hearths with replica warnings and recomputes F_SUS. -/
  | marginLoop (warnings : BitVec 4)
  /-- AGEING_CHECK (R428): The hourly ageing check compares ring-oscillator frequencies with the baseline. -/
  | ageingCheck (readings : List AgeReading)
  /-- ENERGY_TICK (R430): Every 1 ms the energy counters add the modelled energy of each activity. -/
  | energyTick (counts : List ActCount)
  /-- CAL (R437): Sweep runs an impedance calibration step on a GDDR6 channel. -/
  | cal (channel : Fin 16)
  /-- RETRAIN (R437): Sweep runs a periodic retraining step on a GDDR6 channel. -/
  | retrain (channel : Fin 16) (step : RetrainStep)
  /-- GSCRUB (R440): Sweep scrubs one 256-byte GDDR6 unit. -/
  | gscrub (addr : Nat) (found : List EccFound) (endsPass : Bool)
  /-- SSCRUB (R440): Sweep scrubs one 64-byte SRAM line in an idle bank cycle. -/
  | sscrub (word : ScrubWord) (found : List EccFound) (endsPass : Bool)
  /-- WEAR (R437): Sweep wear-levels a journal block of on-chip flash. -/
  | wear (off : Nat) (found : EccFound)
  /-- TELEM (R437): Sweep samples a Hearth's ring oscillators and replicas. -/
  | telem (hearth : Fin 4)
  /-- EMBER_WRITE (R445): The Ember log writer takes a pending report and coalesces it or writes a new entry. -/
  | emberWrite
  /-- TWIN_HELLO_SEND (R453): Every 100 µs an unpaired device sends a HELLO flit. -/
  | twinHelloSend
  /-- TWIN_HELLO (R453): A received HELLO flit forms the pair when PAIR_ID, role and echoed UID match. -/
  | twinHello (ack : BitVec 16) (pairId : W32) (role : Byte) (uid echo : W64)
  /-- HEARTBEAT_SEND (R452): Every 1 µs a paired device sends a HEARTBEAT flit. -/
  | heartbeatSend
  /-- HEARTBEAT (R452): A received HEARTBEAT flit records the partner's echo. -/
  | heartbeat (ack : BitVec 16) (hb echo : W32) (tick : W64)
  /-- PARTNER_LOST (R452): 5 µs pass without an echo of a sent heartbeat and the partner is declared lost. -/
  | partnerLost (ends : List (Fin 1024 × List W32))
  /-- NAK (R451): A received NAK makes the sender replay from the named SEQ. -/
  | nak (ack : BitVec 16)
  /-- REPLAY_TIMEOUT (R451): ACK has not advanced for 2 µs and the sender replays from the oldest unacknowledged flit. -/
  | replayTimeout
  /-- TWIN_OPEN (R455): A received OPEN flit makes the secondary allocate a mirror for a stream. -/
  | twinOpen (seq ack : BitVec 16) (cont : Bool) (h : BitVec 16) (data : List Byte)
  /-- BITS (R455): A received BITS flit stores mirrored bitstream bytes. -/
  | bits (seq ack : BitVec 16) (h : BitVec 16) (index : W32) (data : List Byte)
  /-- POS (R455): A received POS flit records an access-unit start of a mirrored stream. -/
  | pos (seq ack : BitVec 16) (h : BitVec 16) (rap : Bool) (num start : W32)
  /-- TRACK_FLIT (R456): A received TRACK flit stores a context image in the delta log. -/
  | trackFlit (seq ack : BitVec 16) (h : BitVec 16) (ctx : W32) (image : List Byte)
  /-- COMMIT (R456): A received COMMIT flit applies a frame's deltas to the context mirror and answers with ACKF. -/
  | commit (seq ack : BitVec 16) (h : BitVec 16) (frameSeq metaSeq nextId fin : W32) (arrival : W64)
  /-- TWIN_CLOSE (R455): A received CLOSE flit ends the mirroring of a stream. -/
  | twinClose (seq ack : BitVec 16) (h : BitVec 16)
  /-- ACKF (R456): A received ACKF releases a frame's metadata on the primary and clears MIRROR_HOLD. -/
  | ackf (seq ack : BitVec 16) (h : BitVec 16) (status : BitVec 16) (metaSeq : W32)
  /-- CNT_RESET (R462): A DBG_CNTCMD write resets the selected byte counter groups and advances their epochs. -/
  | cntReset (fn : Fn) (groups : Byte)
  /-- DBG_MATCH_ARM (R470): A write of DBG_MATCH arms a counter match at the counter's current value. -/
  | dbgMatchArm (fn : Fn) (value : W64)
  /-- TRACE_CFG_WRITE (R465): A write of DBG_TRACE_CFG starts trace, or stops it and flushes the partial lines. -/
  | traceCfgWrite (fn : Fn) (value : W64)
  /-- TRACE_SAMPLE (R463): A traced core takes a sample every 2^K A-clocks. -/
  | traceSample (core : Fin 16) (wait : UnitWait) (capped : Bool)
  /-- TRACE_LINE_FLUSH (R465): A partial trace line is written 100 µs after its first sample. -/
  | traceLineFlush (hearth : Fin 4)
  /-- SNUFF_GO (R466): A write of DBG_SNUFF.GO triggers Snuff. -/
  | snuffGo (fn : Fn)
  /-- SNUFF_PIN (R466): SNUFF_N sampled low while armed triggers Snuff. -/
  | snuffPin
  /-- SNUFF_MATCH (R470): An armed counter advances by DELTA and triggers Snuff. -/
  | snuffMatch
  /-- SNUFF_STOPPED (R467): After the drain, GDDR6 is in self-refresh and SNUFFED becomes 1. -/
  | snuffStopped
  /-- SNUFF_RESUME (R472): A write of DBG_SNUFF.RESUME restarts GDDR6, the engines and the Hearths. -/
  | snuffResume (fn : Fn)
  /-- SCAN_START (R473): A write of DBG_SCAN.START presents the scan-out image and extends M6. -/
  | scanStart (fn : Fn)
  /-- EXTEST (R486): The JTAG EXTEST instruction scans the boundary while POR_N is low. -/
  | extest (scanIn balls : List Bool)
  /-- SAMPLE_PRELOAD (R486): The JTAG SAMPLE/PRELOAD instruction samples and preloads the boundary. -/
  | samplePreload (scanIn balls : List Bool)
  /-- IDCODE (R486): The JTAG IDCODE instruction shifts out the identity code. -/
  | idcode
  /-- CLAMP (R486): The JTAG CLAMP instruction clamps the balls while POR_N is low. -/
  | clamp
  /-- HIGHZ (R486): The JTAG HIGHZ instruction floats the balls while POR_N is low. -/
  | highz
  /-- SNUFF_SCAN (R473): The JTAG SNUFF_SCAN instruction shifts out the scan-out image and extends M6. -/
  | snuffScan
  /-- BYPASS (R486): The JTAG BYPASS instruction selects the bypass register. -/
  | bypass (ir : BitVec 8)
  /-- SNUFF_RESUMED (R472): The resume sequence ends: GDDR6 is out of self-refresh, the Hearths continue, SNUFFED clears, STATE becomes RUNNING and recorded doorbells and commands are acted on. -/
  | snuffResumed
  /-- VDD_AON_RETURN (R481): VDD_AON comes back after a brownout and the reset that acted as POR_N low is released. -/
  | vddAonReturn (bootSrc twinRole : BitVec 2) (smbAddr : BitVec 3)
  /-- BAD_FLIT (R451): A twin-link flit with a bad CRC or an unexpected SEQ is discarded and the receiver sends a NAK. -/
  | badFlit
  /-- IDLE_FLIT (R450): A received IDLE flit carries the partner's ACK, which frees acknowledged flits in the replay buffer. -/
  | idleFlit (ack : BitVec 16)
  /-- TWIN_BLOCK_LOCK (R452): The twin-link lanes gain or lose block lock and alignment, which changes REL_TWIN.LINK_UP. -/
  | twinBlockLock (up : Bool)
  /-- SNUFF_PIN_REARM (R469): SNUFF_N is sampled high for 2 consecutive AON-clocks after release and the pin input is re-armed. -/
  | snuffPinRearm
  /-- TEST_LOGIC_RESET (R486): The test access port enters Test-Logic-Reset through TRST_N or TMS and loads IDCODE into the instruction register. -/
  | testLogicReset
deriving DecidableEq, Repr

end Sys2Proof
end

