-- ==== Sys2Proof/Decode.lean ====
section
/-!
DEFINITION. The words of the commands. The table of operations and events gives none of its rows any bits: a command comes as a register
access, a packet, a flit, a pin event or an end of internal work, not as a word that the VX9 decodes. No word spells a command.
-/
namespace Sys2Proof

/-- The command that a word spells by the table's bits: the table gives no row bits. -/
def decodeTableWord (_nbits _w : Nat) : Option Instr := none

end Sys2Proof
end

