-- ==== Sys2Proof/Machine/Table.lean ====
section
/-!
DEFINITION. The sparse array: reading with a default, writing in canonical form (keys strictly rising, no entry
equal to the default), and byte sequences over a byte memory in little-endian order (R63, R155).
-/
namespace Sys2Proof.Machine

/-- The entry at key `k`, or `d` where none is listed. -/
def tget {α : Type} (d : α) : Tab α → Nat → α
  | [], _ => d
  | (j, v) :: t, k => if j = k then v else tget d t k

/-- The entry at key `k`, when one is listed. -/
def tfind {α : Type} : Tab α → Nat → Option α
  | [], _ => none
  | (j, v) :: t, k => if j = k then some v else tfind t k

/-- Takes the entries at key `k` out. -/
def terase {α : Type} : Tab α → Nat → Tab α
  | [], _ => []
  | (j, v) :: t, k => if j = k then terase t k else (j, v) :: terase t k

/-- Lists `v` at key `k`, whatever `v` is. -/
def tput {α : Type} : Tab α → Nat → α → Tab α
  | [], k, v => [(k, v)]
  | (j, w) :: t, k, v =>
    if j = k then (k, v) :: t else if k < j then (k, v) :: (j, w) :: t else (j, w) :: tput t k v

/-- Writes `v` at key `k`; writing the default takes the entry out, so that equal arrays are equal data. -/
def tset {α : Type} [DecidableEq α] (d : α) (t : Tab α) (k : Nat) (v : α) : Tab α :=
  if v = d then terase t k else tput t k v

/-- Changes the entry at key `k` by `f`. -/
def tmod {α : Type} [DecidableEq α] (d : α) (t : Tab α) (k : Nat) (f : α → α) : Tab α :=
  tset d t k (f (tget d t k))

/-- Changes every listed entry by `f`. -/
def tmap {α : Type} [DecidableEq α] (d : α) (f : α → α) : Tab α → Tab α
  | [] => []
  | (j, v) :: t => if f v = d then tmap d f t else (j, f v) :: tmap d f t

/-- The canonical form: keys strictly rising and no entry equal to the default. -/
def twf {α : Type} [DecidableEq α] (d : α) : Tab α → Bool
  | [] => true
  | [(_, v)] => decide (v ≠ d)
  | (j, v) :: (k, w) :: t => decide (v ≠ d) && decide (j < k) && twf d ((k, w) :: t)

/-- What an unlisted byte of memory reads as (log 2: DESIGN CHOICE). -/
def memDefault : Byte := 0

/-- One byte of memory. -/
def mget (m : Memory) (a : Nat) : Byte := tget memDefault m a

/-- One byte written. -/
def mset (m : Memory) (a : Nat) (b : Byte) : Memory := tset memDefault m a b

/-- The canonical form of a byte memory. -/
def Memory.wf (m : Memory) : Bool := twf memDefault m

/-- `n` bytes from address `a` upward. -/
def mread (m : Memory) (a : Nat) : Nat → List Byte
  | 0 => []
  | n + 1 => mget m a :: mread m (a + 1) n

/-- The bytes of a list stored from address `a` upward. -/
def mwrite (m : Memory) (a : Nat) : List Byte → Memory
  | [] => m
  | b :: bs => mwrite (mset m a b) (a + 1) bs

/-- `n` bytes from address `a` upward become those of `f`, by address. -/
def mpaint (m : Memory) (a n : Nat) (f : Nat → Byte) : Memory :=
  (m.filter fun x => decide (x.1 < a)) ++ ((List.range' a n).filterMap fun k => if f k = memDefault then none else some (k, f k)) ++
    m.filter fun x => decide (a + n ≤ x.1)

/-- `n` bytes of the value `b` from address `a` upward. -/
def mfill (m : Memory) (a : Nat) (b : Byte) : Nat → Memory
  | 0 => m
  | n + 1 => mfill (mset m a b) (a + 1) b n

/-- The number that a list of bytes spells, byte 0 least significant. -/
def leNat : List Byte → Nat
  | [] => 0
  | b :: bs => b.toNat + 256 * leNat bs

/-- The `n` low bytes of a number, byte 0 least significant. -/
def leBytes : Nat → Nat → List Byte
  | 0, _ => []
  | n + 1, x => BitVec.ofNat 8 x :: leBytes n (x / 256)

/-- The number that a list of bytes spells, first byte most significant. -/
def beNat (bs : List Byte) : Nat := leNat bs.reverse

/-- The little-endian number in the `n` bytes at offset `o` of a list. -/
def leAt (bs : List Byte) (o n : Nat) : Nat := leNat ((bs.drop o).take n)

/-- A list of bytes cut or filled with zeros to `n` bytes. -/
def padTo (n : Nat) (bs : List Byte) : List Byte := (bs ++ List.replicate (n - bs.length) 0).take n

/-- The little-endian number in the `n` bytes of memory at `a`. -/
def mnat (m : Memory) (a n : Nat) : Nat := leNat (mread m a n)

/-- Bits hi..lo of a number. -/
def nbits (x hi lo : Nat) : Nat := (x >>> lo) % 2 ^ (hi + 1 - lo)

/-- Bit `b` of a number. -/
def nbit (x b : Nat) : Bool := x.testBit b

/-- The number with bits hi..lo replaced by the low bits of `v`. -/
def nput (x hi lo v : Nat) : Nat :=
  x - (nbits x hi lo <<< lo) + ((v % 2 ^ (hi + 1 - lo)) <<< lo)

/-- The signed value of the `w` low bits of `x`. -/
def sext (w x : Nat) : Int :=
  let y := x % 2 ^ w
  if y < 2 ^ (w - 1) then (y : Int) else (y : Int) - 2 ^ w

/-- The `w`-bit pattern of an integer in two's complement. -/
def toPat (w : Nat) (x : Int) : Nat := (x % (2 ^ w : Int)).toNat

/-- ceil(a / b). -/
def cdiv (a b : Nat) : Nat := (a + b - 1) / b

/-- The next multiple of `b` at or above `a`. -/
def alignUp (a b : Nat) : Nat := cdiv a b * b

/-- Adds to a counter of `w` bits that stops at its largest value. -/
def satAdd (w x n : Nat) : Nat := min (x + n) (2 ^ w - 1)

/-- `a` lies ahead of or at `b`, counted modulo 2^32 (R161, R188): (a - b) mod 2^32 is below 2^31. -/
def ahead32 (a b : W32) : Bool := (a - b).toNat < 2 ^ 31

/-- Free-running 32-bit distance from `b` to `a`. -/
def dist32 (a b : W32) : Nat := (a - b).toNat

end Sys2Proof.Machine
end

