-- ==== Sys2Proof/Machine/Crypto.lean ====
section
/-!
DEFINITION. CRC32C (R291), SHA-512 and the RSASSA-PSS check that R388 names. The manual names the standards (RFC 8017, SHA-512)
without writing them out; they are taken from those standards (log 11: PRESUMED).
-/
namespace Sys2Proof.Machine

/-! ### CRC32C -/

/-- One bit step of the reflected CRC register. -/
def crcBit : Nat → Nat → Nat
  | 0, c => c
  | n + 1, c => crcBit n (if c % 2 = 1 then (c / 2) ^^^ 0x82F63B78 else c / 2)

/-- The CRC register after a list of bytes. -/
def crcRun (c : Nat) (bs : List Byte) : Nat := bs.foldl (fun c b => crcBit 8 (c ^^^ b.toNat)) c

/-- CRC32C of a list of bytes (R291). -/
def crc32c (bs : List Byte) : Nat := crcRun 0xFFFFFFFF bs ^^^ 0xFFFFFFFF

/-! ### SHA-512 -/

/-- floor of the cube root, bit by bit from bit `n - 1`. -/
def icbrt (x : Nat) : Nat → Nat → Nat
  | 0, r => r
  | n + 1, r => let t := r + 2 ^ n; icbrt x n (if t * t * t ≤ x then t else r)

/-- No divisor of `p` from 2 up to d. -/
def noDivisor (p : Nat) : Nat → Bool
  | 0 => true
  | 1 => true
  | d + 1 => p % (d + 1) != 0 && noDivisor p d

def smallPrimes : List Nat := (List.range 410).filter fun p => decide (2 ≤ p) && noDivisor p (min (p - 1) (Nat.sqrt p))

/-- Round constants: the first 64 fractional bits of the cube roots of the first 80 primes. -/
def shaK : List W64 := (smallPrimes.take 80).map fun p => BitVec.ofNat 64 (icbrt (p * 2 ^ 192) 68 0)

/-- Initial values: the first 64 fractional bits of the square roots of the first 8 primes. -/
def shaH0 : List W64 := (smallPrimes.take 8).map fun p => BitVec.ofNat 64 (Nat.sqrt (p * 2 ^ 128))

/-- The working variables and the last 16 schedule words, oldest first. -/
structure ShaSt where
  a : W64
  b : W64
  c : W64
  d : W64
  e : W64
  f : W64
  g : W64
  h : W64
  w : List W64

/-- One round. -/
def shaRound (s : ShaSt) (k : W64) : ShaSt :=
  let w0 := s.w.headD 0
  let s1 := s.e.rotateRight 14 ^^^ s.e.rotateRight 18 ^^^ s.e.rotateRight 41
  let ch := (s.e &&& s.f) ^^^ (~~~s.e &&& s.g)
  let t1 := s.h + s1 + ch + k + w0
  let s0 := s.a.rotateRight 28 ^^^ s.a.rotateRight 34 ^^^ s.a.rotateRight 39
  let maj := (s.a &&& s.b) ^^^ (s.a &&& s.c) ^^^ (s.b &&& s.c)
  let x := s.w.getD 1 0
  let y := s.w.getD 14 0
  let n := (y.rotateRight 19 ^^^ y.rotateRight 61 ^^^ y >>> 6) + s.w.getD 9 0 +
    (x.rotateRight 1 ^^^ x.rotateRight 8 ^^^ x >>> 7) + w0
  ⟨t1 + s0 + maj, s.a, s.b, s.c, s.d + t1, s.e, s.f, s.g, s.w.tail ++ [n]⟩

/-- The big-endian words of a block. -/
def beWords : Nat → List Byte → List W64
  | 0, _ => []
  | n + 1, bs => BitVec.ofNat 64 (beNat (bs.take 8)) :: beWords n (bs.drop 8)

/-- One 128-byte block. -/
def shaBlock (h : List W64) (bs : List Byte) : List W64 :=
  let g := fun i => h.getD i 0
  let s := shaK.foldl shaRound ⟨g 0, g 1, g 2, g 3, g 4, g 5, g 6, g 7, beWords 16 bs⟩
  [g 0 + s.a, g 1 + s.b, g 2 + s.c, g 3 + s.d, g 4 + s.e, g 5 + s.f, g 6 + s.g, g 7 + s.h]

def shaBlocks : Nat → List W64 → List Byte → List W64
  | 0, h, _ => h
  | n + 1, h, bs => shaBlocks n (shaBlock h (bs.take 128)) (bs.drop 128)

/-- The `n` bytes of a number, most significant first. -/
def beBytes (n x : Nat) : List Byte := (leBytes n x).reverse

/-- SHA-512 of a list of bytes, output byte 0 first. -/
def sha512 (m : List Byte) : List Byte :=
  let z := (239 - m.length % 128) % 128
  let p := m ++ [0x80] ++ List.replicate z 0 ++ beBytes 16 (8 * m.length)
  (shaBlocks (p.length / 128) shaH0 p).flatMap fun w => beBytes 8 w.toNat

/-- A 64-byte value as the manual's 512-bit registers hold it: byte 0 least significant (R409). -/
def toB512 (bs : List Byte) : BitVec 512 := BitVec.ofNat 512 (leNat bs)

/-- The 64 bytes of a 512-bit register. -/
def ofB512 (x : BitVec 512) : List Byte := leBytes 64 x.toNat

/-- SHA-512 as a 512-bit register value. -/
def sha (m : List Byte) : BitVec 512 := toB512 (sha512 m)

/-! ### RSASSA-PSS (RFC 8017, SHA-512, MGF1 with SHA-512, salt of 64 bytes) -/

/-- b^e mod n over `k` bits of e. -/
def powMod (n : Nat) : Nat → Nat → Nat → Nat → Nat
  | 0, _, _, acc => acc
  | k + 1, b, e, acc => powMod n k (b * b % n) (e / 2) (if e % 2 = 1 then acc * b % n else acc)

/-- MGF1: `k` hash outputs of a seed. -/
def mgf1 (seed : List Byte) (k : Nat) : List Byte :=
  (List.range k).flatMap fun i => sha512 (seed ++ beBytes 4 i)

/-- The signature check of R390 under a 4,096-bit modulus and an exponent. -/
def pssVerify (nBytes : List Byte) (e : Nat) (msg sig : List Byte) : Bool :=
  let n := beNat nBytes
  let sg := beNat sig
  if n < 2 ^ 4095 ∨ n ≤ sg then false
  else
    let em := beBytes 512 (powMod n 32 sg e 1)
    let masked := em.take 447
    let h := (em.drop 447).take 64
    let db := List.zipWith (fun x y => x ^^^ y) masked ((mgf1 h 7).take 447)
    let db := ((db.headD 0) &&& 0x7F) :: db.tail
    let salt := db.drop 383
    em.getD 511 0 == 0xBC && (em.headD 0).toNat < 128 &&
      (db.take 382).all (· == 0) && db.getD 382 0 == 1 &&
      sha512 (List.replicate 8 0 ++ sha512 msg ++ salt) == h

end Sys2Proof.Machine
end

