-- ==== Sys2Proof/Machine/CfgBlock.lean ====
section
/-!
DEFINITION. The configuration block as a sequence of TLVs (R376, R378), and the lengths, counts and order of the TLV types (R382). What each
TLV sets stands in Machine/Apply.lean.
-/
namespace Sys2Proof.Machine

/-- A TLV: its TYPE and CRITICAL, its byte offset in the block, its value, and whether a reserved or pad byte is set. -/
structure Tlv where
  typ : Nat
  critical : Bool
  off : Nat
  val : List Byte
  dirty : Bool
deriving DecidableEq, Repr

/-- The TLVs from byte offset `o` on: none when one runs past the end. -/
def tlvWalk : Nat → Nat → List Byte → Option (List Tlv)
  | 0, _, bs => if bs.isEmpty then some [] else none
  | f + 1, o, bs =>
    if bs.isEmpty then some []
    else
      let n := leAt bs 2 2
      let whole := 8 + alignUp n 8
      if bs.length < whole then none
      else
        let rest := (bs.drop (8 + n)).take (whole - 8 - n)
        let t : Tlv := ⟨nbits (leAt bs 0 2) 14 0, nbit (leAt bs 0 2) 15, o, (bs.drop 8).take n, leAt bs 4 4 != 0 || rest.any (· != 0)⟩
        (tlvWalk f (o + whole) (bs.drop whole)).map (t :: ·)

/-- The VX9 knows a TYPE. -/
def tlvKnown (typ : Nat) : Bool := decide (1 ≤ typ) && decide (typ ≤ 16)

/-- LENGTH of a block's header. -/
def cfgLength (b : List Byte) : Nat := leAt b 8 4

/-- The TLVs of a block, or none when the whole block is rejected (R378). -/
def cfgBlock (b : List Byte) : Option (List Tlv) :=
  let n := cfgLength b
  let sound := leAt b 0 4 == 0x47464346 && leAt b 4 2 == 1 && n % 8 == 0 && decide (32 ≤ n) && decide (n ≤ 262144) && decide (n ≤ b.length) &&
    leAt b 20 4 == crc32c (b.take 20) && leAt b 16 4 == crc32c ((b.take n).drop 32)
  if sound then
    match tlvWalk (n / 8) 32 ((b.take n).drop 32) with
    | some ts => if ts.any (fun t => t.critical && !tlvKnown t.typ) then none else some ts
    | none => none
  else none

/-- LEN of a TYPE (R382). -/
def tlvLenOk (typ n : Nat) : Bool :=
  match typ with
  | 1 => n == 8
  | 2 => n == 4
  | 3 => n == 4
  | 4 => n == 32
  | 5 => n == 8
  | 6 => n % 8 == 0
  | 7 => n == 8
  | 8 => n == 4
  | 9 => decide (8 ≤ n)
  | 10 => n == 80
  | 11 => n == 88
  | 12 => n == 8
  | 13 => n == 72
  | 14 => n == 288
  | 15 => n == 32
  | 16 => n == 288
  | _ => false

/-- How many instances of a TYPE may stand in a block; none without a limit. A CSLOT TLV counts its slots. -/
def tlvMax (typ : Nat) : Option Nat :=
  match typ with
  | 1 => some 16
  | 2 => some 16
  | 6 => some 1024
  | 9 => none
  | 10 => some 64
  | 11 => some 16
  | 13 => some 512
  | 16 => some 16
  | _ => some 1

/-- What an instance counts. -/
def Tlv.weight (t : Tlv) : Nat := if t.typ = 6 then t.val.length / 8 else 1

/-- What the instances of a TLV's TYPE count before it. -/
def Tlv.before (t : Tlv) (ts : List Tlv) : Nat := ((ts.filter fun u => u.typ == t.typ && decide (u.off < t.off)).map Tlv.weight).sum

/-- The count of the TYPE is reached (R379). -/
def Tlv.over (t : Tlv) (ts : List Tlv) : Bool :=
  match tlvMax t.typ with
  | some m => decide (m < t.before ts + t.weight)
  | none => false

/-- LEN, a reserved or pad byte, or the count rejects the TLV before its fields are looked at. -/
def Tlv.broken (t : Tlv) (ts : List Tlv) : Bool := t.dirty || !tlvLenOk t.typ t.val.length || t.over ts

/-- The order column of R382. -/
def tlvGroup (typ : Nat) : Nat :=
  match typ with
  | 1 => 2
  | 2 => 3
  | 3 => 0
  | 4 => 4
  | 5 => 5
  | 6 => 5
  | 7 => 6
  | 8 => 6
  | 9 => 1
  | 10 => 1
  | 11 => 3
  | 12 => 3
  | 13 => 3
  | 14 => 7
  | 15 => 8
  | _ => 9

/-- The first of a list of fields that breaks its rule, numbered from 1. -/
def firstBad (bad : List Bool) : Option Nat :=
  match bad.findIdx? id with
  | some i => some (i + 1)
  | none => none

/-- The field of a MEM_SPLIT value that breaks R39, or none: 0 its reserved byte, 1 READ, 2 WRITE, 3 REMOTE or the sum. -/
def splitBad (v : List Byte) : Option Nat :=
  let r := leAt v 0 1
  let w := leAt v 1 1
  let m := leAt v 2 1
  if leAt v 3 1 ≠ 0 then some 0 else firstBad [decide (r < 4), decide (w < 2), decide (m < 1) || r + w + m != 16]

end Sys2Proof.Machine
end

