-- ==== Sys2Proof/Config.lean ====
section
/-!
DEFINITION. What the manual leaves open: values that no rule fixes are opaque constants, applied to a running
number of the state and to the place they are used at, so that nothing can evaluate them or prove a value of them.
-/
namespace Sys2Proof.Config

/-- FREE VALUE (log 6). The FP32 pattern that a sum of floating products takes; the model accepts it only within the
bound that R91 gives for the sum, or for EXP2, LOG2, RCP and RSQ, or where the overflow of an intermediate value gives it (R92). First argument: the run's number (State.free); second: the place inside the run. -/
opaque fpChoice : Nat → Nat → BitVec 32

/-- FREE VALUE (log 11). The signature bytes that the key vault makes: RSASSA-PSS has a random salt, and the device key
is no value of the manual (R387, R405). -/
opaque signByte : Nat → Nat → BitVec 8

/-- FREE VALUE (log 11). The bytes of the device identity certificate (R405), and their number. -/
opaque certByte : Nat → BitVec 8
opaque certLen : Nat

/-- FREE VALUE (log 14). Bytes whose content the manual leaves unspecified: the handover blob of an image (R408). -/
opaque blobByte : Nat → Nat → BitVec 8

/-- Per-part: the manufacturer identity code of Airnauz in IDCODE (R486). -/
opaque jtagManufacturer : BitVec 11

/-- Per-part: the calibration voltage of Hearth n at f MHz, in mV (R413), from on-chip flash. -/
opaque vcal : Nat → Nat → Nat

/-- Per-part: SHA-512 of the Airnauz root public key, in the Stage 0 sector (R387, R390). -/
opaque rootKeyHash : BitVec 512

/-- FREE VALUE (log 15). Whether a low pulse on POR_N of this many ns, between the 1 us that is ignored and the 10 us that R482
asks for, acts as an assertion. -/
opaque shortPor : Nat → Bool

/-- FREE VALUE (log 20). Whether a COPY, PREFETCH, GATHER or SCATTER that was stopped part way had written a byte; R108 leaves it open. -/
opaque partialByte : Nat → Nat → Bool

/-- FREE VALUE (log 61). What an ATTN leaves in the buffer regions that R213 gives it: by running number and physical address. -/
opaque attnByte : Nat → Nat → BitVec 8

/-- FREE VALUE (log 44). The stream state of the mirror area (R454): the manual gives its size alone. By running number and place. -/
opaque streamState : Nat → Nat → BitVec 8

/-- FREE VALUE (log 29). Words and bytes of the scan-out image that show state below the model: stationary registers, Bellows slots, the step
within a unit, leftovers of an accumulator bank, predicates (R473). By running number and place. -/
opaque scanWord : Nat → Nat → BitVec 32

/-- FREE VALUE (log 26). FLAGS [2] SLOTS of a batch record: R303 names the bit and gives it no meaning. -/
opaque batchSlots : Nat → Bool

/-- FREE VALUE (log 18). Where the producer index of an output or analytics ring of this base and size stands: the manual says that it is
written (R249) and gives it no address. -/
opaque ringPi : Nat → Nat → Nat

/-- FREE VALUE (log 19). The code from 0x0800 up of an event that R444 does not name: by source and event. -/
opaque eventCode : Nat → Nat → Nat

/-- FREE VALUE (log 30). Where in device memory the chain of a pipeline's model image stands: R329 has main firmware place it in the queue's
ring and does not say where the model image holds it. By pipeline. -/
opaque chainAt : Nat → Nat

/-- FREE VALUE (log 63). The vendor ID assigned to Airnauz (R351): the manual does not give it. -/
opaque vendorId : BitVec 16

/-- FREE VALUE (log 64). The sample of a plane at a scale of 1 to `f` from the `f` × `f` samples that it stands for (R261): the filter is not given. -/
opaque shrunk (f : Nat) (samples : List Nat) : Nat

/-- FREE VALUE (log 64). Which of `n` candidates of equal cost the encoder takes (R261). -/
opaque tie (n : Nat) : Nat

/-- FREE VALUE (log 64). The predicted sample at a fraction of a sample, from the 8 × 8 samples around it (R261): the filter of the standard. -/
opaque subSample (std fx fy : Nat) (around : List Nat) : Nat

/-- FREE VALUE (log 64). The bits that a vector takes beside its neighbours (R261): the standard decides. -/
opaque vectorBits (std : Nat) (v : Int × Int) (near : List (Int × Int)) : Nat

/-- FREE VALUES (log 64). The SATD of an intra mode of a block in a pass, and the bits of a mode (R261): the standard's prediction and coding
decide. -/
opaque intraSatd (run std x y size mode : Nat) : Nat
opaque modeBits (run std x y size mode : Nat) : Nat

/-- FREE VALUES (log 64). The vector in quarter samples of a block that is skipped, which the standard predicts, and of an inter unit of a size that the
search gives no vector for (R261). -/
opaque skipVector (run std x y size : Nat) : Int × Int
opaque unitVector (run std x y size : Nat) : Int × Int

/-- FREE VALUES (log 65), for an image pipe (R277): the U4.12 gain of a tile of the local tone map, from the strength and the tile means of the
frame before; a sample outside the picture; and the mean of a tile that no pixel falls into. -/
opaque ispTileGain (strength : Nat) (means : List (BitVec 16)) (tile : Nat) : BitVec 16
opaque ispBeyond (picture : List (List Nat)) (y x : Int) : BitVec 16
opaque ispEmptyTile : BitVec 16

/-- Per-part (R387): the coefficients in pJ of an activate, a read, a write and a refresh of a GDDR6 channel (R410). -/
opaque gddrPj : Nat → Nat

/-- Per-part (R387): the coefficient in pJ of an activity, by its place in the list of activities, and the core's leakage and clock tree in pJ per µs, from the table by
steps of 5 °C and of 25 mV (R430). -/
opaque energyPj : Nat → Nat
opaque leakPj : Int → Nat → Nat

/-- Per-part (R387): the monitor baselines of a Hearth recorded at test: mean ring-oscillator frequency in kHz, voltage in mV, and temperature in 1/8 °C
(R428). -/
opaque baseKhz : Nat → Nat
opaque baseMv : Nat → Nat
opaque baseTemp : Nat → Int

/-- FREE VALUE (log 14). F_REQ after a live update whose handover blob is refused: a safe default, a step of the menu of R412. By running number. -/
opaque safeStep : Nat → Nat

/-- FREE VALUE (log 13). Whether a reset interrupts the journal write in progress, and the record and the copy (the newer one) that stand at a byte of
on-chip flash: the manual gives no layout (R435). -/
opaque journalCut : Nat → Bool
opaque journalPlace : Nat → Option (Nat × Bool)

/-- FREE VALUES (log 52). Whether the row of a GDDR6 address belongs to a sixteenth of the rows that the march test samples, and whether two addresses lie in
one row (R399): the devices' rows are not given. -/
opaque marched : Nat → Nat → Bool
opaque sameRow : Nat → Nat → Bool

/-- FREE VALUE (log 52). The settings at a measured VDDQ_G exactly between 1.25 V and 1.35 V: those of 1.35 V (R478). -/
opaque vddqTie : Bool

end Sys2Proof.Config
end

