-- ==== Sys2Proof/Machine/Numeric.lean ====
section
/-!
DEFINITION. Numbers: the formats of R63 and R66, exact dyadic arithmetic, rounding to nearest-even (R84), the FP32
operations every engine uses, conversions under SAT_MODE (R82) and the free results that R91 bounds.
-/
namespace Sys2Proof.Machine

/-- An exact dyadic number: mantissa and binary exponent. -/
structure Dy where
  m : Int
  e : Int
deriving DecidableEq, Repr

/-- The value of a floating element: NaN, an infinity, or (-1)^neg * m * 2^e. -/
inductive FVal where
  | nan
  | inf (neg : Bool)
  | fin (neg : Bool) (m : Nat) (e : Int)
deriving DecidableEq, Repr

/-- 2^n as a natural number for a non-negative integer exponent. -/
def pow2 (n : Int) : Int := ((2 ^ n.toNat : Nat) : Int)

/-- Both dyadics at their lower exponent. -/
def Dy.align (a b : Dy) : Int × Int × Int :=
  let e := min a.e b.e
  (a.m * pow2 (a.e - e), b.m * pow2 (b.e - e), e)

def Dy.add (a b : Dy) : Dy := let (x, y, e) := Dy.align a b; ⟨x + y, e⟩
def Dy.neg (a : Dy) : Dy := ⟨-a.m, a.e⟩
def Dy.sub (a b : Dy) : Dy := Dy.add a (Dy.neg b)
def Dy.mul (a b : Dy) : Dy := ⟨a.m * b.m, a.e + b.e⟩
def Dy.abs (a : Dy) : Dy := ⟨(a.m.natAbs : Int), a.e⟩
def Dy.le (a b : Dy) : Bool := let (x, y, _) := Dy.align a b; decide (x ≤ y)
def Dy.lt (a b : Dy) : Bool := let (x, y, _) := Dy.align a b; decide (x < y)
def Dy.ofInt (i : Int) : Dy := ⟨i, 0⟩
def Dy.zero : Dy := ⟨0, 0⟩

/-- A binary floating format of R66 and R67: exponent bits, mantissa bits, whether it has infinities, and the NaN that
the VX9 writes (none for FP4 E2M1). -/
structure FFmt where
  ebits : Nat
  mbits : Nat
  hasInf : Bool
  nanPat : Option Nat
  maxPat : Nat
deriving DecidableEq, Repr

def ffE4M3 : FFmt := ⟨4, 3, false, some 0x7F, 0x7E⟩
def ffE5M2 : FFmt := ⟨5, 2, true, some 0x7E, 0x7B⟩
def ffE2M1 : FFmt := ⟨2, 1, false, none, 0x7⟩
def ffFP16 : FFmt := ⟨5, 10, true, some 0x7E00, 0x7BFF⟩
def ffBF16 : FFmt := ⟨8, 7, true, some 0x7FC0, 0x7F7F⟩
def ffFP32 : FFmt := ⟨8, 23, true, some 0x7FC00000, 0x7F7FFFFF⟩

def FFmt.bias (f : FFmt) : Int := (2 ^ (f.ebits - 1) : Int) - 1
/-- The exponent of the smallest normal. -/
def FFmt.emin (f : FFmt) : Int := 1 - f.bias
/-- The weight of the last place of a subnormal, as a power of two. -/
def FFmt.qmin (f : FFmt) : Int := f.emin - f.mbits

/-- Reads a pattern (R66, R67): every NaN encoding is a NaN, subnormals are honoured. -/
def fdecode (f : FFmt) (x : Nat) : FVal :=
  let s := x.testBit (f.ebits + f.mbits)
  let ex := (x >>> f.mbits) % 2 ^ f.ebits
  let m := x % 2 ^ f.mbits
  let top := 2 ^ f.ebits - 1
  if f.hasInf && ex == top then (if m = 0 then .inf s else .nan)
  else if f.nanPat.isSome && !f.hasInf && ex == top && m == 2 ^ f.mbits - 1 then .nan
  else if ex = 0 then .fin s m f.qmin
  else .fin s (2 ^ f.mbits + m) ((ex : Int) - f.bias - f.mbits)

/-- A quotient rounded to the nearest integer, ties to even (R84). -/
def divEven (num : Int) (den : Nat) : Int :=
  let q := num / den
  let r := 2 * (num % den)
  if r < den ∨ (r = den ∧ q % 2 = 0) then q else q + 1

/-- m * 2^e rounded to nearest-even at the quantum 2^q: the multiple of 2^q. -/
def rneAt (m : Nat) (e q : Int) : Nat :=
  if q ≤ e then m * 2 ^ (e - q).toNat
  else
    let k := (q - e).toNat
    let hi := m >>> k
    let r := m % 2 ^ k
    let half := 2 ^ (k - 1)
    if r > half ∨ (r = half ∧ hi % 2 = 1) then hi + 1 else hi

/-- The quantum at which m * 2^e (m ≠ 0) is rounded in the format. -/
def FFmt.quantum (f : FFmt) (m : Nat) (e : Int) : Int :=
  max ((Nat.log2 m : Int) + e - f.mbits) f.qmin

/-- Magnitude rounded to nearest-even with unbounded exponent above (R84): mantissa and quantum. -/
def FFmt.round (f : FFmt) (m : Nat) (e : Int) : Nat × Int :=
  if m = 0 then (0, f.qmin) else
    let q := f.quantum m e
    (rneAt m e q, q)

/-- The largest finite magnitude of the format. -/
def FFmt.maxVal (f : FFmt) : Dy :=
  match fdecode f f.maxPat with
  | .fin _ m e => ⟨m, e⟩
  | _ => Dy.zero

/-- Packs a rounded magnitude that does not exceed the largest finite one. -/
def FFmt.pack (f : FFmt) (s : Bool) (m : Nat) (q : Int) : Nat :=
  let sb := if s then 2 ^ (f.ebits + f.mbits) else 0
  if m < 2 ^ f.mbits then sb + m
  else
    let (m, q) := if m = 2 ^ (f.mbits + 1) then (m / 2, q + 1) else (m, q)
    sb + ((q + f.mbits + f.bias).toNat <<< f.mbits) + (m - 2 ^ f.mbits)

/-- The pattern of an infinity. -/
def FFmt.infPat (f : FFmt) (s : Bool) : Nat :=
  (if s then 2 ^ (f.ebits + f.mbits) else 0) + ((2 ^ f.ebits - 1) <<< f.mbits)

/-- IEEE 754 conversion to the format: overflow gives an infinity; a format without one clamps. -/
def fencode (f : FFmt) : FVal → Nat
  | .nan => f.nanPat.getD 0
  | .inf s => if f.hasInf then f.infPat s else (if s then 2 ^ (f.ebits + f.mbits) else 0) + f.maxPat
  | .fin s m e =>
    let (r, q) := f.round m e
    if Dy.lt f.maxVal ⟨r, q⟩ then
      (if f.hasInf then f.infPat s else (if s then 2 ^ (f.ebits + f.mbits) else 0) + f.maxPat)
    else f.pack s r q

/-- A value rounded to the format. -/
def fround (f : FFmt) (x : FVal) : FVal := fdecode f (fencode f x)

/-- A value rounded to FP32 (R84). -/
def r32 (x : FVal) : FVal := fround ffFP32 x

/-- The FP32 value of a pattern. -/
def f32 (x : Nat) : FVal := fdecode ffFP32 x

/-- The FP32 pattern of a value. -/
def p32 (x : FVal) : Nat := fencode ffFP32 x

/-- The exact dyadic of a finite value. -/
def FVal.dy : FVal → Dy
  | .fin s m e => ⟨if s then -(m : Int) else m, e⟩
  | _ => Dy.zero

def FVal.isNaN : FVal → Bool
  | .nan => true
  | _ => false

def FVal.isFin : FVal → Bool
  | .fin _ _ _ => true
  | _ => false

def FVal.isZero : FVal → Bool
  | .fin _ m _ => m == 0
  | _ => false

def FVal.sign : FVal → Bool
  | .nan => false
  | .inf s => s
  | .fin s _ _ => s

def FVal.neg : FVal → FVal
  | .nan => .nan
  | .inf s => .inf !s
  | .fin s m e => .fin (!s) m e

def FVal.abs : FVal → FVal
  | .nan => .nan
  | .inf _ => .inf false
  | .fin _ m e => .fin false m e

/-- A dyadic as a value; zero is +0. -/
def FVal.ofDy (d : Dy) : FVal := .fin (decide (d.m < 0)) d.m.natAbs d.e

def FVal.ofInt (i : Int) : FVal := FVal.ofDy ⟨i, 0⟩
def FVal.zero : FVal := .fin false 0 0

/-- Exact sum of two values under IEEE 754 (opposite infinities give NaN; x + (-x) is +0). -/
def fadd (a b : FVal) : FVal :=
  match a, b with
  | .nan, _ => .nan
  | _, .nan => .nan
  | .inf s, .inf t => if s == t then .inf s else .nan
  | .inf s, .fin _ _ _ => .inf s
  | .fin _ _ _, .inf t => .inf t
  | .fin s m e, .fin t n g =>
    let d := Dy.add (FVal.fin s m e).dy (FVal.fin t n g).dy
    if d.m = 0 then .fin (s && t) 0 0 else FVal.ofDy d

def fsub (a b : FVal) : FVal := fadd a b.neg

/-- Exact product of two values under IEEE 754 (zero times infinity gives NaN). -/
def fmul (a b : FVal) : FVal :=
  match a, b with
  | .nan, _ => .nan
  | _, .nan => .nan
  | .inf s, .inf t => .inf (s != t)
  | .inf s, .fin t n _ => if n = 0 then .nan else .inf (s != t)
  | .fin s m _, .inf t => if m = 0 then .nan else .inf (s != t)
  | .fin s m e, .fin t n g => .fin (s != t) (m * n) (e + g)

/-- FP32 addition, one rounding. -/
def add32 (a b : FVal) : FVal := r32 (fadd a b)
/-- FP32 subtraction, one rounding. -/
def sub32 (a b : FVal) : FVal := r32 (fsub a b)
/-- FP32 multiplication, one rounding. -/
def mul32 (a b : FVal) : FVal := r32 (fmul a b)
/-- FP32 fused multiply-add, one rounding. -/
def fma32 (a b c : FVal) : FVal := r32 (fadd (fmul a b) c)

/-- a / b as an exact fraction rounded to nearest-even in the format; used where a rule divides (R263, R319). -/
def fdiv (f : FFmt) (a b : FVal) : FVal :=
  match a, b with
  | .nan, _ => .nan
  | _, .nan => .nan
  | .inf _, .inf _ => .nan
  | .inf s, .fin t _ _ => .inf (s != t)
  | .fin s _ _, .inf t => .fin (s != t) 0 0
  | .fin s m e, .fin t n g =>
    if n = 0 then (if m = 0 then .nan else .inf (s != t))
    else
      -- 2^400 guard bits: the quotient and a sticky bit below it
      let q := (m <<< 400) / n
      let sticky := if (m <<< 400) % n = 0 then 0 else 1
      fround f (.fin (s != t) (2 * q + sticky) (e - g - 401))

def div32 (a b : FVal) : FVal := fdiv ffFP32 a b

/-- Order of two values as numbers; false when either is NaN; -0 equals +0 (R133). -/
def flt (a b : FVal) : Bool :=
  match a, b with
  | .nan, _ => false
  | _, .nan => false
  | .inf s, .inf t => s && !t
  | .inf s, .fin _ _ _ => s
  | .fin _ _ _, .inf t => !t
  | .fin s m e, .fin t n g => Dy.lt (FVal.fin s m e).dy (FVal.fin t n g).dy

def feq (a b : FVal) : Bool := !a.isNaN && !b.isNaN && !flt a b && !flt b a
def fle (a b : FVal) : Bool := flt a b || feq a b

/-- Floating minimum and maximum of R133: NaN when either input is NaN; -0 is below +0. -/
def fmin (a b : FVal) : FVal :=
  if a.isNaN || b.isNaN then .nan
  else if flt a b then a else if flt b a then b else if a.sign then a else b
def fmax (a b : FVal) : FVal :=
  if a.isNaN || b.isNaN then .nan
  else if flt a b then b else if flt b a then a else if a.sign then b else a

/-- Rounds a finite value to the nearest integer, ties to even (R84). -/
def toIntRne : FVal → Int
  | .fin s m e => let r := rneAt m e 0; if s then -(r : Int) else r
  | _ => 0

/-- floor of a finite value. -/
def toIntFloor : FVal → Int
  | .fin s m e =>
    let d := (FVal.fin s m e).dy
    if 0 ≤ e then d.m * pow2 e else d.m.fdiv (pow2 (-e))
  | _ => 0

/-- An integer clamped to lo..hi. -/
def clampI (lo hi x : Int) : Int := max lo (min hi x)

/-- Conversion of a value to an integer range by clamping: NaN gives 0 (R82, R133). -/
def toIntSat (lo hi : Int) (x : FVal) : Int :=
  match x with
  | .nan => 0
  | .inf s => if s then lo else hi
  | .fin _ _ _ => clampI lo hi (toIntRne x)

/-! ### Formats of R63 -/

/-- The format codes of R63. -/
inductive Fmt where
  | int4 | int8 | uint8 | bs4 | e4m3 | e5m2 | bs8 | fp16 | bf16 | fp32 | int32 | int10 | bin1
deriving DecidableEq, Repr

/-- The format of a code; 0xD to 0xF are reserved (R63). -/
def Fmt.ofCode : Nat → Option Fmt
  | 0 => some .int4 | 1 => some .int8 | 2 => some .uint8 | 3 => some .bs4 | 4 => some .e4m3
  | 5 => some .e5m2 | 6 => some .bs8 | 7 => some .fp16 | 8 => some .bf16 | 9 => some .fp32
  | 10 => some .int32 | 11 => some .int10 | 12 => some .bin1 | _ => none

/-- Stored bits of one element (INT10 in its 16-bit container). -/
def Fmt.bits : Fmt → Nat
  | .int4 | .bs4 => 4
  | .bin1 => 1
  | .int8 | .uint8 | .e4m3 | .e5m2 | .bs8 => 8
  | .fp16 | .bf16 | .int10 => 16
  | .fp32 | .int32 => 32

/-- Formats that pack several elements in a byte (R64). -/
def Fmt.packed : Fmt → Bool
  | .int4 | .bs4 | .bin1 => true
  | _ => false

/-- The element size in bytes; 1 for the packed formats. -/
def Fmt.bytes (f : Fmt) : Nat := if f.packed then 1 else f.bits / 8

def Fmt.isInt : Fmt → Bool
  | .int4 | .int8 | .uint8 | .int32 | .int10 | .bin1 => true
  | _ => false

/-- The floating layout of a floating format. -/
def Fmt.ff : Fmt → FFmt
  | .bs4 => ffE2M1
  | .e4m3 | .bs8 => ffE4M3
  | .e5m2 => ffE5M2
  | .fp16 => ffFP16
  | .bf16 => ffBF16
  | _ => ffFP32

/-- Smallest and largest value of an integer format. -/
def Fmt.range : Fmt → Int × Int
  | .int4 => (-8, 7)
  | .int8 => (-128, 127)
  | .uint8 => (0, 255)
  | .int10 => (-512, 511)
  | .bin1 => (0, 1)
  | _ => (-2147483648, 2147483647)

/-- The integer value of a pattern of an integer format (R63, R65: INT10 ignores bits 15..10). -/
def Fmt.toInt (f : Fmt) (x : Nat) : Int :=
  match f with
  | .int4 => sext 4 x
  | .int8 => sext 8 x
  | .uint8 => ((x % 256 : Nat) : Int)
  | .int10 => sext 10 x
  | .bin1 => ((x % 2 : Nat) : Int)
  | _ => sext 32 x

/-- The value of a pattern of any format. -/
def Fmt.decode (f : Fmt) (x : Nat) : FVal :=
  if f.isInt then FVal.ofInt (f.toInt x) else fdecode f.ff x

/-- Picks element `i` of a packed or unpacked element from the bytes at its address (R64). -/
def Fmt.pick (f : Fmt) (i : Nat) (bytes : List Byte) : Nat :=
  let x := leNat bytes
  match f with
  | .int4 | .bs4 => if i % 2 = 0 then x % 16 else x / 16 % 16
  | .bin1 => x / 2 ^ (i % 8) % 2
  | _ => x % 2 ^ f.bits

/-- Conversion of an epilogue value to an output format under SAT_MODE (R82, R83): the pattern, and whether the output
counts as saturated (R85): clamped, wrapped or overflowed; an infinity that the format keeps is none of these. DESIGN CHOICE (log 56): a NaN to an integer format gives 0 and counts as
saturated under WRAP as under the other modes. -/
def convertOut (f : Fmt) (mode : Nat) (t : FVal) : Nat × Bool :=
  if f.isInt then
    let (lo0, hi) := f.range
    let lo := if mode = 1 && lo0 < 0 then -hi else lo0
    match t with
    | .nan => (0, true)
    | _ =>
      if mode = 2 then
        let i := toIntSat (-2147483648) 2147483647 t
        let big := match t with
          | .inf _ => true
          | _ => decide (toIntRne t < -2147483648 ∨ 2147483647 < toIntRne t)
        (toPat f.bits i, big || decide (i < lo0 ∨ hi < i))
      else
        let i := toIntSat lo hi t
        let clamped := match t with
          | .inf _ => true
          | _ => decide (toIntRne t ≠ i)
        (toPat f.bits i, clamped)
  else if f = .fp32 then (p32 t, false)   -- R83: convert is the identity
  else
    let ff := f.ff
    let sb := fun s : Bool => if s then 2 ^ (ff.ebits + ff.mbits) else 0
    match t with
    | .nan => match ff.nanPat with
      | some n => (n, false)
      | none => (0, true)
    | .inf s => if mode = 2 && ff.hasInf then (ff.infPat s, false) else (sb s + ff.maxPat, true)
    | .fin s m e =>
      let (r, q) := ff.round m e
      if Dy.lt ff.maxVal ⟨r, q⟩ then
        if mode = 2 && ff.hasInf then (ff.infPat s, true) else (sb s + ff.maxPat, true)
      else (ff.pack s r q, false)

/-! ### Results that R91 bounds -/

/-- 2^-24, the unit roundoff of FP32, times 2^-149 and the like: a dyadic power of two. -/
def Dy.two (e : Int) : Dy := ⟨1, e⟩

/-- The binary exponent with the trailing zeros of the mantissa taken out. -/
def stripZeros : Nat → Nat → Int → Int
  | 0, _, e => e
  | f + 1, m, e => if m % 2 = 0 then stripZeros f (m / 2) (e + 1) else e

/-- What a list of terms adds up to under IEEE 754, before rounding is considered: the special terms met, the sums of the positive terms and
of the magnitudes of the negative ones, and the largest power of two that every nonzero term is a multiple of. -/
structure FSum where
  nan : Bool
  posInf : Bool
  negInf : Bool
  pos : Dy
  neg : Dy
  q : Option Int
deriving DecidableEq, Repr

def FSum.empty : FSum := ⟨false, false, false, Dy.zero, Dy.zero, none⟩

/-- The exact sum of the finite terms. -/
def FSum.exact (s : FSum) : Dy := Dy.sub s.pos s.neg

/-- The sum of their magnitudes. -/
def FSum.absSum (s : FSum) : Dy := Dy.add s.pos s.neg

/-- One more term. -/
def FSum.add (s : FSum) (t : FVal) : FSum :=
  match t with
  | .nan => { s with nan := true }
  | .inf true => { s with negInf := true }
  | .inf false => { s with posInf := true }
  | .fin a m e =>
    if m = 0 then s
    else
      let e' := stripZeros (Nat.log2 m + 1) m e
      { s with
        pos := if a then s.pos else Dy.add s.pos ⟨m, e⟩
        neg := if a then Dy.add s.neg ⟨m, e⟩ else s.neg
        q := some (match s.q with
          | none => e'
          | some x => min x e') }

/-- The exact value of a sum. -/
def FSum.val (s : FSum) : FVal :=
  if s.nan || (s.posInf && s.negInf) then .nan
  else if s.posInf then .inf false
  else if s.negInf then .inf true
  else FVal.ofDy s.exact

/-- Every partial sum, in whatever order, is an FP32 value, so that no addition rounds. -/
def FSum.noRounding (s : FSum) : Bool :=
  match s.q with
  | none => true
  | some q => decide (-149 ≤ q) && Dy.le s.absSum ⟨2 ^ 24, q⟩ && Dy.le s.absSum ffFP32.maxVal

/-- What R91 allows a sum to miss: `n * 2^e * p + k * 2^-149`. -/
def missBound (n : Nat) (e : Int) (k : Nat) (p : Dy) : Dy := Dy.add (Dy.mul ⟨n, e⟩ p) ⟨k, -149⟩

/-- What the overflow of an intermediate FP32 value may turn a sum into (R76, R92): an infinity of either sign, and NaN. -/
structure Spill where
  pos : Bool
  neg : Bool
  nan : Bool
deriving DecidableEq, Repr

/-- The result is one that an overflow on the way gives. -/
def Spill.allows (w : Spill) : FVal → Bool
  | .nan => w.nan
  | .inf s => if s then w.neg else w.pos
  | .fin _ _ _ => false

/-- The least magnitude that rounds to an infinity of FP32: 2^128 - 2^103. -/
def overflow32 : Dy := ⟨2 ^ 25 - 1, 103⟩

/-- Some order of the additions overflows, where each partial sum may miss its exact value by `slack`: upward when the positive terms alone reach
the threshold, downward when the negative ones do, and to infinity minus infinity when both can (R76, R92). -/
def FSum.spill (s : FSum) (slack : Dy) : Spill :=
  let up := Dy.le overflow32 (Dy.add s.pos slack)
  let down := Dy.le overflow32 (Dy.add s.neg slack)
  ⟨up, down, up && down⟩

/-- The free choice of an FP32 result (R91, R92): its bits where no addition can round (`fixed`); else any FP32 value within `bound` of the exact
result `want`, or a result that the overflow of an intermediate value gives. A choice that is neither gives the exact result rounded once. -/
def freeResult (run place : Nat) (fixed : Bool) (w : Spill) (bound : Dy) (bits : FVal) (want : Dy) : FVal :=
  if fixed then bits
  else
    let y := f32 (Config.fpChoice run place).toNat
    if (y.isFin && Dy.le (Dy.abs (Dy.sub y.dy want)) bound) || w.allows y then y else r32 (FVal.ofDy want)

/-- The sum of the terms `met` in FP32 in some order, where `want` sums the same terms before their own rounding (R97) and `w` says what an overflow
on the way may give: NaN and infinities follow IEEE 754; a finite result is free within `bound` of the exact one, and `fixed` where no addition
can round. DESIGN CHOICE (log 6): where one infinity is met and the finite terms can overflow to the other one first, the order decides
between that infinity and NaN, and the result is free between the two. -/
def spillSum (run place : Nat) (fixed : Bool) (w : Spill) (bound : Dy) (met want : FSum) : FVal :=
  match met.val with
  | .nan => .nan
  | .inf b =>
    if (w.nan || (if b then w.pos else w.neg)) && (f32 (Config.fpChoice run place).toNat).isNaN then .nan else .inf b
  | .fin _ _ _ => freeResult run place fixed w bound (r32 (FVal.ofDy met.exact)) want.exact

/-- The same where an overflow comes from the additions alone. -/
def sumOf (run place : Nat) (bound : Dy) (met want : FSum) : FVal := spillSum run place met.noRounding (met.spill bound) bound met want

/-- A result that is NaN although none of the terms is, for infinity met minus infinity on the way (R76). -/
def FSum.oddResult (s : FSum) (y : FVal) : Bool := y.isNaN && !s.nan

/-- The FP32 sum of exact terms within `n * 2^e * P + k * sigma` of the exact sum (R91), P the sum of magnitudes. -/
def boundedSum (run place n : Nat) (e : Int) (k : Nat) (s : FSum) : FVal := sumOf run place (missBound n e k s.absSum) s s

/-- Terms taken together. -/
def fsum (ts : List FVal) : FSum := ts.foldl FSum.add FSum.empty

/-- The FP32 sum of a list of terms (R76, R91): NaN and infinities follow IEEE 754; a finite sum is within
`(n * u * P + k * sigma)` of the exact one. -/
def sum32 (run place n k : Nat) (ts : List FVal) : FVal := boundedSum run place n (-24) k (fsum ts)

/-- The same where the terms round before they are added (R97): `ts` as they are added, `ex` exact. -/
def sum32Rounded (run place n k : Nat) (ts ex : List FVal) : FVal :=
  sumOf run place (missBound n (-24) k (fsum ex).absSum) (fsum ts) (fsum ex)

/-! ### Transcendentals of R146, to 100 bits, and the free miss inside the ulp bound of R91 -/

/-- Fixed-point precision of the approximations. -/
def fxP : Nat := 128

/-- The factors 2^(2^-i) for i = 1.. in fixed point, by repeated square roots. -/
def exp2Factors : Nat → Nat → List Nat
  | 0, _ => []
  | n + 1, c =>
    let d := Nat.sqrt (c <<< fxP)
    d :: exp2Factors n d

/-- The product of the factors selected by the bits of a 64-bit fraction, most significant first. -/
def exp2Frac (frac : Nat) : List Nat → Nat → Nat → Nat
  | [], _, acc => acc
  | c :: cs, i, acc => exp2Frac frac cs (i - 1) (if frac.testBit i then (acc * c) >>> fxP else acc)

/-- 2^x for a finite x as a positive dyadic, to about 2^-60 relative. -/
def exp2Dy (x : FVal) : Dy :=
  let n := toIntFloor x
  let fr := Dy.sub x.dy (Dy.ofInt n)
  let frac := if 0 ≤ fr.e + 64 then (fr.m * pow2 (fr.e + 64)).toNat else (fr.m / pow2 (-(fr.e + 64))).toNat
  ⟨(exp2Frac frac (exp2Factors 64 (2 <<< fxP)) 63 (1 <<< fxP) : Nat), n - fxP⟩

/-- Bits of log2 of a mantissa in [1, 2) in fixed point, by repeated squaring. -/
def log2Bits : Nat → Nat → Nat → Nat
  | 0, _, acc => acc
  | n + 1, y, acc =>
    let y2 := (y * y) >>> fxP
    if y2 ≥ 2 <<< fxP then log2Bits n (y2 >>> 1) (2 * acc + 1) else log2Bits n y2 (2 * acc)

/-- log2 of a positive finite value as a dyadic, to about 2^-90. -/
def log2Dy (m : Nat) (e : Int) : Dy :=
  let k := Nat.log2 m
  let y := (m <<< fxP) >>> k
  ⟨(e + k) * pow2 96 + (log2Bits 96 y 0 : Nat), -96⟩

/-- 1 / sqrt(m * 2^e) as a dyadic, to about 2^-100. -/
def rsqDy (m : Nat) (e : Int) : Dy :=
  let (m, e) := if e % 2 = 0 then (m, e) else (2 * m, e - 1)
  let k := Nat.log2 m
  ⟨(Nat.sqrt ((1 <<< (2 * k + 512)) / m) : Nat), -(e / 2) - ((k : Int) + 256)⟩

/-- 1 / (m * 2^e) as a dyadic. -/
def rcpDy (m : Nat) (e : Int) : Dy :=
  let k := Nat.log2 m
  ⟨((1 <<< (k + 256)) / m : Nat), -e - ((k : Int) + 256)⟩

/-- A value lies within `n` ulp of FP32, or within an absolute bound, whichever is the larger, of the signed value `v`. The bound has 2^-50 of
itself for the error of the approximation. -/
def ulpOk (n : Nat) (absOk v : Dy) (y : FVal) : Bool :=
  let q := if v.m = 0 then ffFP32.qmin else ffFP32.quantum v.m.natAbs v.e
  let ulps := Dy.mul ⟨n, 0⟩ ⟨2 ^ 50 + 1, q - 50⟩
  let bound := if Dy.lt ulps absOk then absOk else ulps
  y.isFin && Dy.le (Dy.abs (Dy.sub y.dy v)) bound

/-- A result within the bound of `ulpOk`: a free FP32 value, kept when it lies inside the bound; else the value rounded once. -/
def withinUlp (run place n : Nat) (absOk : Dy) (v : Dy) : FVal :=
  let cand := f32 (Config.fpChoice run place).toNat
  if ulpOk n absOk v cand then cand else r32 (FVal.ofDy v)

/-- EXP2 of R146 in FP32: special values, else within 2 ulp. -/
def exp2F (run place : Nat) : FVal → FVal
  | .nan => .nan
  | .inf s => if s then .fin false 0 0 else .inf false
  | .fin s m e =>
    let x := FVal.fin s m e
    if m = 0 then FVal.ofInt 1
    else if Dy.le (Dy.ofInt 129) x.dy then .inf false
    else if Dy.le x.dy (Dy.ofInt (-160)) then .fin false 0 0
    else withinUlp run place 2 Dy.zero (exp2Dy x)

/-- LOG2 of R146 in FP32: within 2 ulp, or 2^-22 absolute for inputs in [0.5, 2] (R91). -/
def log2F (run place : Nat) : FVal → FVal
  | .nan => .nan
  | .inf s => if s then .nan else .inf false
  | .fin s m e =>
    if m = 0 then .inf true
    else if s then .nan
    else
      let v := log2Dy m e
      let x := (FVal.fin s m e).dy
      let near := Dy.le ⟨1, -1⟩ x && Dy.le x ⟨2, 0⟩
      withinUlp run place 2 (if near then ⟨1, -22⟩ else Dy.zero) v

/-- RCP of R146 in FP32: within 1 ulp. -/
def rcpF (run place : Nat) : FVal → FVal
  | .nan => .nan
  | .inf s => .fin s 0 0
  | .fin s m e => if m = 0 then .inf s else withinUlp run place 1 Dy.zero (if s then Dy.neg (rcpDy m e) else rcpDy m e)

/-- RSQ of R146 in FP32: within 2 ulp. -/
def rsqF (run place : Nat) : FVal → FVal
  | .nan => .nan
  | .inf s => if s then .nan else .fin false 0 0
  | .fin s m e =>
    if m = 0 then .inf s
    else if s then .nan
    else withinUlp run place 2 Dy.zero (rsqDy m e)

end Sys2Proof.Machine
end

