-- ==== Sys2Proof/Machine/RegMap.lean ====
section
/-!
DEFINITION. The register map: one row for every register of the manual's tables, with its BAR0 offset, its repetition,
its width, and the masks of its fields by access code (R8): rw, w1c, rc; the reset value (R359 and the tables of each
chapter). A field without a bit in a mask is read-only, write-only or reserved. Values that the manual gives "Per part" or
"From journal" are 0 here (log 4: DESIGN CHOICE).
-/
namespace Sys2Proof.Machine

/-- Which accesses of a virtual function a register refuses (R53 and the chapter that owns the register); the rules that
name a partition are checked by the operation of the register. -/
inductive VfAccess where
  /-- Open to a virtual function, or checked by the operation that the access starts. -/
  | any
  /-- Only the physical function may write it. -/
  | pfWrite
  /-- Only the physical function may read or write it. -/
  | pfOnly
deriving DecidableEq, Repr

/-- One row of the register map: `count` registers `stride` bytes apart, each with `count2` copies `stride2` apart. -/
structure RegRow where
  name : String
  off : Nat
  count : Nat
  stride : Nat
  count2 : Nat
  stride2 : Nat
  bytes : Nat
  perFn : Bool
  vf : VfAccess
  rw : Nat
  w1c : Nat
  rc : Nat
  reset : Nat
deriving DecidableEq, Repr

/-- GLB_ID (R359). -/
def Reg.glbId : Nat := 0x0
/-- GLB_UID (R359). -/
def Reg.glbUid : Nat := 0x8
/-- GLB_STATUS (R359). -/
def Reg.glbStatus : Nat := 0x10
/-- GLB_TIME (R359). -/
def Reg.glbTime : Nat := 0x18
/-- GLB_PPS (R360). -/
def Reg.glbPps : Nat := 0x20
/-- GLB_PPS_STAT (R360). -/
def Reg.glbPpsStat : Nat := 0x28
/-- GLB_CAPS0 (R361). -/
def Reg.glbCaps0 : Nat := 0x40
/-- GLB_CAPS1 (R361). -/
def Reg.glbCaps1 : Nat := 0x48
/-- GLB_CAPS2 (R361). -/
def Reg.glbCaps2 : Nat := 0x50
/-- GLB_CAPS3 (R361). -/
def Reg.glbCaps3 : Nat := 0x58
/-- GLB_CAPS4 (R361). -/
def Reg.glbCaps4 : Nat := 0x60
/-- GLB_CAPS5 (R361). -/
def Reg.glbCaps5 : Nat := 0x68
/-- GLB_CAPS6 (R361). -/
def Reg.glbCaps6 : Nat := 0x70
/-- GLB_CAPS7 (R361). -/
def Reg.glbCaps7 : Nat := 0x78
/-- HIF_LINK (R362). -/
def Reg.hifLink : Nat := 0x10000
/-- HIF_B2WIN (R362). -/
def Reg.hifB2win : Nat := 0x10008
/-- HIF_MAIL_DB (R362). -/
def Reg.hifMailDb : Nat := 0x10010
/-- HIF_MAIL_STAT (R362). -/
def Reg.hifMailStat : Nat := 0x10018
/-- HIF_NOTE (R362). -/
def Reg.hifNote : Nat := 0x10020
/-- HIF_HDROP (R362). -/
def Reg.hifHdrop : Nat := 0x10028
/-- QM_QTAB (R189). -/
def Reg.qmQtab : Nat := 0x20000
/-- QM_QCMD (R189). -/
def Reg.qmQcmd : Nat := 0x20010
/-- QM_QSEL (R189). -/
def Reg.qmQsel : Nat := 0x20018
/-- QM_QINFO (R189). -/
def Reg.qmQinfo : Nat := 0x20020
/-- QM_SEMOP (R190). -/
def Reg.qmSemop : Nat := 0x20040
/-- QM_SEMs (R161). -/
def Reg.qmSem (i : Nat) : Nat := 0x30000 + 0x4 * i
/-- QM_STALL_TIME (R202). -/
def Reg.qmStallTime : Nat := 0x20050
/-- QM_STALL (R202). -/
def Reg.qmStall : Nat := 0x20058
/-- QM_PARTp (R336). -/
def Reg.qmPart (i : Nat) : Nat := 0x20100 + 0x8 * i
/-- QM_CYCLE (R344). -/
def Reg.qmCycle : Nat := 0x20200
/-- QM_CSEL (R350). -/
def Reg.qmCsel : Nat := 0x20208
/-- QM_CSLOT (R350). -/
def Reg.qmCslot : Nat := 0x20210
/-- QM_CNOW (R350). -/
def Reg.qmCnow : Nat := 0x20218
/-- QM_LATEp (R350). -/
def Reg.qmLate (i : Nat) : Nat := 0x20300 + 0x8 * i
/-- MMU_ROOT (R49). -/
def Reg.mmuRoot (i : Nat) : Nat := 0x40000 + 0x100 * i
/-- MMU_SEQROOT (R49). -/
def Reg.mmuSeqroot (i : Nat) : Nat := 0x40008 + 0x100 * i
/-- MMU_APERa (R49). -/
def Reg.mmuAper (i : Nat) (j : Nat) : Nat := 0x40010 + 0x100 * i + 0x10 * j
/-- MMU_INV_ADDR (R49). -/
def Reg.mmuInvAddr : Nat := 0x41000
/-- MMU_INV_CMD (R49). -/
def Reg.mmuInvCmd : Nat := 0x41008
/-- MMU_INV_STATUS (R49). -/
def Reg.mmuInvStatus : Nat := 0x41010
/-- MMU_COMMIT (R490). -/
def Reg.mmuCommit : Nat := 0x41100
/-- MEM_CAPACITY (R39). -/
def Reg.memCapacity : Nat := 0x80000
/-- MEM_SPLIT (R39). -/
def Reg.memSplit : Nat := 0x80010
/-- HEARTH_RTABt (R77). -/
def Reg.hearthRtab (i : Nat) (j : Nat) : Nat := 0x100800 + 0x10000 * i + 0x8 * j
/-- HEARTH_EPSTAT (R127). -/
def Reg.hearthEpstat (i : Nat) : Nat := 0x100900 + 0x10000 * i
/-- HEARTH_EFLAG (R127). -/
def Reg.hearthEflag (i : Nat) : Nat := 0x100908 + 0x10000 * i
/-- MEDIA_SCMD_ADDR (R237). -/
def Reg.mediaScmdAddr : Nat := 0x200000
/-- MEDIA_SCMD (R237). -/
def Reg.mediaScmd : Nat := 0x200008
/-- MEDIA_SCMD_STAT (R237). -/
def Reg.mediaScmdStat : Nat := 0x200010
/-- MEDIA_POOL (R248). -/
def Reg.mediaPool : Nat := 0x200020
/-- MEDIA_BUFSEL (R248). -/
def Reg.mediaBufsel : Nat := 0x200030
/-- MEDIA_BUFINFO (R248). -/
def Reg.mediaBufinfo : Nat := 0x200038
/-- MEDIA_RELEASE (R245). -/
def Reg.mediaRelease : Nat := 0x200040
/-- MEDIA_RECON_REQ (R255). -/
def Reg.mediaReconReq : Nat := 0x200048
/-- MEDIA_SSEL (R243). -/
def Reg.mediaSsel : Nat := 0x200100
/-- MEDIA_SP0 (R243). -/
def Reg.mediaSp0 : Nat := 0x200108
/-- MEDIA_SP0_PEND (R243). -/
def Reg.mediaSp0Pend : Nat := 0x200110
/-- MEDIA_SP1 (R243). -/
def Reg.mediaSp1 : Nat := 0x200118
/-- MEDIA_SP1_PEND (R243). -/
def Reg.mediaSp1Pend : Nat := 0x200120
/-- MEDIA_COMMIT (R243). -/
def Reg.mediaCommit : Nat := 0x200128
/-- MEDIA_DBs (R239). -/
def Reg.mediaDb (i : Nat) : Nat := 0x210000 + 0x8 * i
/-- CAP_PORTn (R267). -/
def Reg.capPort (i : Nat) : Nat := 0x240000 + 0x10 * i
/-- CAP_PORTSTATn (R267). -/
def Reg.capPortstat (i : Nat) : Nat := 0x240008 + 0x10 * i
/-- CAP_SENSORs (R269). -/
def Reg.capSensor (i : Nat) : Nat := 0x240100 + 0x10 * i
/-- CAP_COMMIT (R270). -/
def Reg.capCommit : Nat := 0x240200
/-- CAP_FSYNCnA (R275). -/
def Reg.capFsyncA (i : Nat) : Nat := 0x240300 + 0x10 * i
/-- CAP_FSYNCnB (R275). -/
def Reg.capFsyncB (i : Nat) : Nat := 0x240308 + 0x10 * i
/-- SHAPE_RINGp (R280). -/
def Reg.shapeRing (i : Nat) : Nat := 0x260000 + 0x10 * i
/-- SHAPE_DBp (R280). -/
def Reg.shapeDb (i : Nat) : Nat := 0x260200 + 0x8 * i
/-- SHAPE_HEADp (R280). -/
def Reg.shapeHead (i : Nat) : Nat := 0x260300 + 0x8 * i
/-- INGEST_RINGc (R293). -/
def Reg.ingestRing (i : Nat) : Nat := 0x270000 + 0x40 * i
/-- INGEST_PARAMc (R293). -/
def Reg.ingestParam (i : Nat) : Nat := 0x270008 + 0x40 * i
/-- INGEST_DBc (R293). -/
def Reg.ingestDb (i : Nat) : Nat := 0x270010 + 0x40 * i
/-- INGEST_STATc (R293). -/
def Reg.ingestStat (i : Nat) : Nat := 0x270018 + 0x40 * i
/-- INGEST_LIMITS (R293). -/
def Reg.ingestLimits : Nat := 0x270800
/-- TRACK_CMD_ADDR (R309). -/
def Reg.trackCmdAddr : Nat := 0x280000
/-- TRACK_CMD (R309). -/
def Reg.trackCmd : Nat := 0x280008
/-- TRACK_CMD_STAT (R309). -/
def Reg.trackCmdStat : Nat := 0x280010
/-- TRACK_POOL (R309). -/
def Reg.trackPool : Nat := 0x280020
/-- TRACK_RINGp (R310). -/
def Reg.trackRing (i : Nat) : Nat := 0x280100 + 0x10 * i
/-- TRACK_DBp (R310). -/
def Reg.trackDb (i : Nat) : Nat := 0x280200 + 0x8 * i
/-- TRACK_HEADp (R310). -/
def Reg.trackHead (i : Nat) : Nat := 0x280300 + 0x8 * i
/-- TRACK_PIPESTATk (R332). -/
def Reg.trackPipestat (i : Nat) : Nat := 0x280400 + 0x8 * i
/-- TRACK_MDBs (R324). -/
def Reg.trackMdb (i : Nat) : Nat := 0x282000 + 0x8 * i
/-- PWR_STATUS (R432). -/
def Reg.pwrStatus : Nat := 0x2C0000
/-- PWR_POWER (R432). -/
def Reg.pwrPower : Nat := 0x2C0008
/-- PWR_TEMP0 (R432). -/
def Reg.pwrTemp0 : Nat := 0x2C0010
/-- PWR_TEMP1 (R432). -/
def Reg.pwrTemp1 : Nat := 0x2C0018
/-- PWR_VOLT (R432). -/
def Reg.pwrVolt : Nat := 0x2C0020
/-- PWR_MARGIN (R432). -/
def Reg.pwrMargin : Nat := 0x2C0028
/-- PWR_THROT (R432). -/
def Reg.pwrThrot : Nat := 0x2C0030
/-- PWR_ENERGYp (R431). -/
def Reg.pwrEnergy (i : Nat) : Nat := 0x2C0100 + 0x8 * i
/-- PWR_ENERGY_DEV (R431). -/
def Reg.pwrEnergyDev : Nat := 0x2C0180
/-- REL_CNTk (R459). -/
def Reg.relCnt (i : Nat) : Nat := 0x2D0000 + 0x4 * i
/-- REL_LOG (R459). -/
def Reg.relLog : Nat := 0x2D0100
/-- REL_FIRSTs (R459). -/
def Reg.relFirst (i : Nat) : Nat := 0x2D0200 + 0x20 * i
/-- REL_SWEEP (R459). -/
def Reg.relSweep : Nat := 0x2D0400
/-- REL_TWIN (R459). -/
def Reg.relTwin : Nat := 0x2D0500
/-- DBG_SNUFF (R471). -/
def Reg.dbgSnuff : Nat := 0x2E0000
/-- DBG_SNUFF_TIME (R471). -/
def Reg.dbgSnuffTime : Nat := 0x2E0008
/-- DBG_MATCH (R470). -/
def Reg.dbgMatch : Nat := 0x2E0020
/-- DBG_CNTCMD (R462). -/
def Reg.dbgCntcmd : Nat := 0x2E0040
/-- DBG_VIOL_COUNT (R53). -/
def Reg.dbgViolCount : Nat := 0x2E0100
/-- DBG_VIOL_LAST (R53). -/
def Reg.dbgViolLast : Nat := 0x2E0108
/-- DBG_TRACE_CFG (R465). -/
def Reg.dbgTraceCfg : Nat := 0x2E0200
/-- DBG_TRACE_STAT (R465). -/
def Reg.dbgTraceStat : Nat := 0x2E0208
/-- DBG_SCAN (R474). -/
def Reg.dbgScan : Nat := 0x2E0300
/-- DBG_BCNTi (R462). -/
def Reg.dbgBcnt (i : Nat) : Nat := 0x2E1000 + 0x8 * i
/-- SEC_BOOTSTAT (R409). -/
def Reg.secBootstat : Nat := 0x2F0000
/-- SEC_VERSIONS (R409). -/
def Reg.secVersions : Nat := 0x2F0008
/-- SEC_ARB0 (R409). -/
def Reg.secArb0 : Nat := 0x2F0010
/-- SEC_ARB1 (R409). -/
def Reg.secArb1 : Nat := 0x2F0018
/-- SEC_PUSH (R401). -/
def Reg.secPush : Nat := 0x2F0020
/-- SEC_CFGINFO (R382). -/
def Reg.secCfginfo : Nat := 0x2F0080
/-- SEC_MEASn (R409). -/
def Reg.secMeas (i : Nat) : Nat := 0x2F0400 + 0x40 * i

/-- Rows of the register map, part 1. -/
def regRows1 : List RegRow :=
  [ ⟨"GLB_ID", 0x0, 1, 0x1, 1, 0x1, 8, false, .any, 0x0, 0x0, 0x0, 0xa09⟩,
    ⟨"GLB_UID", 0x8, 1, 0x1, 1, 0x1, 8, false, .any, 0x0, 0x0, 0x0, 0x1⟩,
    ⟨"GLB_STATUS", 0x10, 1, 0x1, 1, 0x1, 8, false, .any, 0x0, 0x0, 0x0, 0x0⟩,
    ⟨"GLB_TIME", 0x18, 1, 0x1, 1, 0x1, 8, false, .pfWrite, 0xffffffffffffffff, 0x0, 0x0, 0x0⟩,
    ⟨"GLB_PPS", 0x20, 1, 0x1, 1, 0x1, 8, false, .pfWrite, 0xffffffff00000001, 0x0, 0x0, 0x186a000000000⟩,
    ⟨"GLB_PPS_STAT", 0x28, 1, 0x1, 1, 0x1, 8, false, .any, 0x0, 0x0, 0xffff000000000000, 0x0⟩,
    ⟨"GLB_CAPS0", 0x40, 1, 0x1, 1, 0x1, 8, false, .any, 0x0, 0x0, 0x0, 0x8959868688688777⟩,
    ⟨"GLB_CAPS1", 0x48, 1, 0x1, 1, 0x1, 8, false, .any, 0x0, 0x0, 0x0, 0x84a48595⟩,
    ⟨"GLB_CAPS2", 0x50, 1, 0x1, 1, 0x1, 8, false, .any, 0x0, 0x0, 0x0, 0xff104000000004⟩,
    ⟨"GLB_CAPS3", 0x58, 1, 0x1, 1, 0x1, 8, false, .any, 0x0, 0x0, 0x0, 0x801080010000⟩,
    ⟨"GLB_CAPS4", 0x60, 1, 0x1, 1, 0x1, 8, false, .any, 0x0, 0x0, 0x0, 0x400004000⟩,
    ⟨"GLB_CAPS5", 0x68, 1, 0x1, 1, 0x1, 8, false, .any, 0x0, 0x0, 0x0, 0x120010020100000⟩ ]

/-- Rows of the register map, part 2. -/
def regRows2 : List RegRow :=
  [ ⟨"GLB_CAPS6", 0x70, 1, 0x1, 1, 0x1, 8, false, .any, 0x0, 0x0, 0x0, 0x200042081fff⟩,
    ⟨"GLB_CAPS7", 0x78, 1, 0x1, 1, 0x1, 8, false, .any, 0x0, 0x0, 0x0, 0x19012c02ee0384⟩,
    ⟨"HIF_LINK", 0x10000, 1, 0x1, 1, 0x1, 4, false, .any, 0x0, 0x0, 0x0, 0x0⟩,
    ⟨"HIF_B2WIN", 0x10008, 1, 0x1, 1, 0x1, 8, true, .any, 0xffffe00000, 0x0, 0x0, 0x0⟩,
    ⟨"HIF_MAIL_DB", 0x10010, 1, 0x1, 1, 0x1, 4, false, .pfWrite, 0x0, 0x0, 0x0, 0x0⟩,
    ⟨"HIF_MAIL_STAT", 0x10018, 1, 0x1, 1, 0x1, 4, false, .any, 0x0, 0x0, 0x0, 0x0⟩,
    ⟨"HIF_NOTE", 0x10020, 1, 0x1, 1, 0x1, 4, false, .any, 0x0, 0x3f, 0x0, 0x0⟩,
    ⟨"HIF_HDROP", 0x10028, 1, 0x1, 1, 0x1, 4, false, .any, 0x0, 0x0, 0xffffffff, 0x0⟩,
    ⟨"QM_QTAB", 0x20000, 1, 0x1, 1, 0x1, 8, false, .pfWrite, 0xfffffff001, 0x0, 0x0, 0x0⟩,
    ⟨"QM_QCMD", 0x20010, 1, 0x1, 1, 0x1, 4, false, .any, 0x0, 0x0, 0x0, 0x0⟩,
    ⟨"QM_QSEL", 0x20018, 1, 0x1, 1, 0x1, 4, false, .any, 0xffff, 0x0, 0x0, 0x0⟩,
    ⟨"QM_QINFO", 0x20020, 1, 0x1, 1, 0x1, 8, false, .any, 0x0, 0x0, 0x0, 0x0⟩ ]

/-- Rows of the register map, part 3. -/
def regRows3 : List RegRow :=
  [ ⟨"QM_SEMOP", 0x20040, 1, 0x1, 1, 0x1, 8, false, .any, 0x0, 0x0, 0x0, 0x0⟩,
    ⟨"QM_SEMs", 0x30000, 16384, 0x4, 1, 0x1, 4, false, .any, 0x0, 0x0, 0x0, 0x0⟩,
    ⟨"QM_STALL_TIME", 0x20050, 1, 0x1, 1, 0x1, 4, false, .pfWrite, 0xffffffff, 0x0, 0x0, 0x2710⟩,
    ⟨"QM_STALL", 0x20058, 1, 0x1, 1, 0x1, 4, false, .any, 0x0, 0xffff, 0x0, 0x0⟩,
    ⟨"QM_PARTp", 0x20100, 16, 0x8, 1, 0x1, 8, false, .any, 0x0, 0x0, 0x0, 0x0⟩,
    ⟨"QM_CYCLE", 0x20200, 1, 0x1, 1, 0x1, 8, false, .any, 0x0, 0x0, 0x0, 0x0⟩,
    ⟨"QM_CSEL", 0x20208, 1, 0x1, 1, 0x1, 4, false, .any, 0x3ff, 0x0, 0x0, 0x0⟩,
    ⟨"QM_CSLOT", 0x20210, 1, 0x1, 1, 0x1, 8, false, .any, 0x0, 0x0, 0x0, 0x0⟩,
    ⟨"QM_CNOW", 0x20218, 1, 0x1, 1, 0x1, 8, false, .any, 0x0, 0x0, 0x0, 0x0⟩,
    ⟨"QM_LATEp", 0x20300, 16, 0x8, 1, 0x1, 8, false, .any, 0x0, 0x0, 0xffffffffffffffff, 0x0⟩,
    ⟨"MMU_ROOT", 0x40000, 16, 0x100, 1, 0x1, 8, false, .pfWrite, 0xfffffff001, 0x0, 0x0, 0x0⟩,
    ⟨"MMU_SEQROOT", 0x40008, 16, 0x100, 1, 0x1, 8, false, .pfWrite, 0xfffffff001, 0x0, 0x0, 0x0⟩ ]

/-- Rows of the register map, part 4. -/
def regRows4 : List RegRow :=
  [ ⟨"MMU_APERa", 0x40010, 16, 0x100, 4, 0x10, 16, false, .pfWrite, 0xfffffff000000000fffffff001, 0x0, 0x0, 0x0⟩,
    ⟨"MMU_INV_ADDR", 0x41000, 1, 0x1, 1, 0x1, 8, true, .any, 0xfffffffffffff000, 0x0, 0x0, 0x0⟩,
    ⟨"MMU_INV_CMD", 0x41008, 1, 0x1, 1, 0x1, 4, true, .any, 0x0, 0x0, 0x0, 0x0⟩,
    ⟨"MMU_INV_STATUS", 0x41010, 1, 0x1, 1, 0x1, 4, true, .any, 0x0, 0x2, 0x0, 0x0⟩,
    ⟨"MMU_COMMIT", 0x41100, 1, 0x1, 1, 0x1, 4, false, .pfWrite, 0x0, 0x100, 0x0, 0x0⟩,
    ⟨"MEM_CAPACITY", 0x80000, 1, 0x1, 1, 0x1, 8, false, .any, 0x0, 0x0, 0x0, 0x0⟩,
    ⟨"MEM_SPLIT", 0x80010, 1, 0x1, 1, 0x1, 4, false, .any, 0x0, 0x0, 0x0, 0x24a⟩,
    ⟨"HEARTH_RTABt", 0x100800, 16, 0x10000, 16, 0x8, 8, false, .any, 0x1ffffffffffffff1, 0x0, 0x0, 0x0⟩,
    ⟨"HEARTH_EPSTAT", 0x100900, 16, 0x10000, 1, 0x1, 8, false, .any, 0x0, 0x0, 0x0, 0x0⟩,
    ⟨"HEARTH_EFLAG", 0x100908, 16, 0x10000, 1, 0x1, 4, false, .any, 0x0, 0x1f, 0x0, 0x0⟩,
    ⟨"MEDIA_SCMD_ADDR", 0x200000, 1, 0x1, 1, 0x1, 8, false, .any, 0xffffffffc0, 0x0, 0x0, 0x0⟩,
    ⟨"MEDIA_SCMD", 0x200008, 1, 0x1, 1, 0x1, 4, false, .any, 0x0, 0x0, 0x0, 0x0⟩ ]

/-- Rows of the register map, part 5. -/
def regRows5 : List RegRow :=
  [ ⟨"MEDIA_SCMD_STAT", 0x200010, 1, 0x1, 1, 0x1, 4, false, .any, 0x0, 0x2, 0x0, 0x0⟩,
    ⟨"MEDIA_POOL", 0x200020, 1, 0x1, 1, 0x1, 8, false, .any, 0x0, 0x0, 0x0, 0x0⟩,
    ⟨"MEDIA_BUFSEL", 0x200030, 1, 0x1, 1, 0x1, 4, true, .any, 0x3fff, 0x0, 0x0, 0x0⟩,
    ⟨"MEDIA_BUFINFO", 0x200038, 1, 0x1, 1, 0x1, 8, false, .any, 0x0, 0x0, 0x0, 0x0⟩,
    ⟨"MEDIA_RELEASE", 0x200040, 1, 0x1, 1, 0x1, 4, false, .any, 0x0, 0x0, 0x0, 0x0⟩,
    ⟨"MEDIA_RECON_REQ", 0x200048, 1, 0x1, 1, 0x1, 8, false, .any, 0x0, 0x0, 0x0, 0x0⟩,
    ⟨"MEDIA_SSEL", 0x200100, 1, 0x1, 1, 0x1, 4, true, .any, 0x3ff, 0x0, 0x0, 0x0⟩,
    ⟨"MEDIA_SP0", 0x200108, 1, 0x1, 1, 0x1, 8, false, .any, 0x0, 0x0, 0x0, 0x0⟩,
    ⟨"MEDIA_SP0_PEND", 0x200110, 1, 0x1, 1, 0x1, 8, true, .any, 0xffffffff003fff03, 0x0, 0x0, 0x0⟩,
    ⟨"MEDIA_SP1", 0x200118, 1, 0x1, 1, 0x1, 8, false, .any, 0x0, 0x0, 0x0, 0x0⟩,
    ⟨"MEDIA_SP1_PEND", 0x200120, 1, 0x1, 1, 0x1, 8, true, .any, 0xffffffffffffffff, 0x0, 0x0, 0x0⟩,
    ⟨"MEDIA_COMMIT", 0x200128, 1, 0x1, 1, 0x1, 4, false, .any, 0x0, 0x100, 0x0, 0x0⟩ ]

/-- Rows of the register map, part 6. -/
def regRows6 : List RegRow :=
  [ ⟨"MEDIA_DBs", 0x210000, 1024, 0x8, 1, 0x1, 8, false, .any, 0x0, 0x0, 0x0, 0x0⟩,
    ⟨"CAP_PORTn", 0x240000, 4, 0x10, 1, 0x1, 4, false, .any, 0x1fffffff, 0x0, 0x0, 0x720⟩,
    ⟨"CAP_PORTSTATn", 0x240008, 4, 0x10, 1, 0x1, 4, false, .any, 0x0, 0x0, 0xffffffff, 0x0⟩,
    ⟨"CAP_SENSORs", 0x240100, 16, 0x10, 1, 0x1, 16, false, .any, 0xffffffffc0ffffffff01ffffff, 0x0, 0x0, 0x0⟩,
    ⟨"CAP_COMMIT", 0x240200, 1, 0x1, 1, 0x1, 4, false, .any, 0x0, 0x100, 0x0, 0x0⟩,
    ⟨"CAP_FSYNCnA", 0x240300, 4, 0x10, 1, 0x1, 8, false, .any, 0xffffffff00000003, 0x0, 0x0, 0x0⟩,
    ⟨"CAP_FSYNCnB", 0x240308, 4, 0x10, 1, 0x1, 8, false, .any, 0xffffffffffffffff, 0x0, 0x0, 0x0⟩,
    ⟨"SHAPE_RINGp", 0x260000, 16, 0x10, 1, 0x1, 8, false, .any, 0xfffffff03f, 0x0, 0x0, 0x0⟩,
    ⟨"SHAPE_DBp", 0x260200, 16, 0x8, 1, 0x1, 4, false, .any, 0x0, 0x0, 0x0, 0x0⟩,
    ⟨"SHAPE_HEADp", 0x260300, 16, 0x8, 1, 0x1, 4, false, .any, 0x0, 0x0, 0x0, 0x0⟩,
    ⟨"INGEST_RINGc", 0x270000, 16, 0x40, 1, 0x1, 8, false, .any, 0xfffffff03f, 0x0, 0x0, 0x0⟩,
    ⟨"INGEST_PARAMc", 0x270008, 16, 0x40, 1, 0x1, 8, false, .any, 0xffffffffc0, 0x0, 0x0, 0x0⟩ ]

/-- Rows of the register map, part 7. -/
def regRows7 : List RegRow :=
  [ ⟨"INGEST_DBc", 0x270010, 16, 0x40, 1, 0x1, 8, false, .any, 0x0, 0x0, 0x0, 0x0⟩,
    ⟨"INGEST_STATc", 0x270018, 16, 0x40, 1, 0x1, 8, false, .any, 0x0, 0x0, 0x0, 0x0⟩,
    ⟨"INGEST_LIMITS", 0x270800, 1, 0x1, 1, 0x1, 4, false, .any, 0xffffffff, 0x0, 0x0, 0xf42400⟩,
    ⟨"TRACK_CMD_ADDR", 0x280000, 1, 0x1, 1, 0x1, 8, false, .any, 0xffffffffc0, 0x0, 0x0, 0x0⟩,
    ⟨"TRACK_CMD", 0x280008, 1, 0x1, 1, 0x1, 4, false, .any, 0x0, 0x0, 0x0, 0x0⟩,
    ⟨"TRACK_CMD_STAT", 0x280010, 1, 0x1, 1, 0x1, 4, false, .any, 0x0, 0x2, 0x0, 0x0⟩,
    ⟨"TRACK_POOL", 0x280020, 1, 0x1, 1, 0x1, 8, false, .any, 0x0, 0x0, 0x0, 0x0⟩,
    ⟨"TRACK_RINGp", 0x280100, 16, 0x10, 1, 0x1, 8, false, .any, 0xfffffff03f, 0x0, 0x0, 0x0⟩,
    ⟨"TRACK_DBp", 0x280200, 16, 0x8, 1, 0x1, 4, false, .any, 0x0, 0x0, 0x0, 0x0⟩,
    ⟨"TRACK_HEADp", 0x280300, 16, 0x8, 1, 0x1, 4, false, .any, 0x0, 0x0, 0x0, 0x0⟩,
    ⟨"TRACK_PIPESTATk", 0x280400, 16, 0x8, 1, 0x1, 8, false, .any, 0x0, 0x0, 0xffffffffffff0000, 0x0⟩,
    ⟨"TRACK_MDBs", 0x282000, 1024, 0x8, 1, 0x1, 8, false, .any, 0x0, 0x0, 0x0, 0x0⟩ ]

/-- Rows of the register map, part 8. -/
def regRows8 : List RegRow :=
  [ ⟨"PWR_STATUS", 0x2c0000, 1, 0x1, 1, 0x1, 8, false, .pfWrite, 0x0, 0x0, 0x0, 0xe1384e1000⟩,
    ⟨"PWR_POWER", 0x2c0008, 1, 0x1, 1, 0x1, 8, false, .pfWrite, 0x0, 0x0, 0x0, 0x1d4c00000000⟩,
    ⟨"PWR_TEMP0", 0x2c0010, 1, 0x1, 1, 0x1, 8, false, .pfWrite, 0x0, 0x0, 0x0, 0x0⟩,
    ⟨"PWR_TEMP1", 0x2c0018, 1, 0x1, 1, 0x1, 8, false, .pfWrite, 0x0, 0x0, 0x0, 0x0⟩,
    ⟨"PWR_VOLT", 0x2c0020, 1, 0x1, 1, 0x1, 8, false, .pfOnly, 0x0, 0x0, 0x0, 0x0⟩,
    ⟨"PWR_MARGIN", 0x2c0028, 1, 0x1, 1, 0x1, 8, false, .pfOnly, 0x0, 0x0, 0x0, 0x0⟩,
    ⟨"PWR_THROT", 0x2c0030, 1, 0x1, 1, 0x1, 8, false, .pfOnly, 0x0, 0x0, 0xffffffffffffffff, 0x0⟩,
    ⟨"PWR_ENERGYp", 0x2c0100, 16, 0x8, 1, 0x1, 8, false, .pfWrite, 0x0, 0x0, 0x0, 0x0⟩,
    ⟨"PWR_ENERGY_DEV", 0x2c0180, 1, 0x1, 1, 0x1, 8, false, .pfOnly, 0x0, 0x0, 0x0, 0x0⟩,
    ⟨"REL_CNTk", 0x2d0000, 10, 0x4, 1, 0x1, 4, false, .any, 0x0, 0x0, 0xffffffff, 0x0⟩,
    ⟨"REL_LOG", 0x2d0100, 1, 0x1, 1, 0x1, 8, false, .any, 0x0, 0x0, 0x0, 0x0⟩,
    ⟨"REL_FIRSTs", 0x2d0220, 14, 0x20, 1, 0x1, 32, false, .any, 0x0, 0x0, 0x0, 0x0⟩ ]

/-- Rows of the register map, part 9. -/
def regRows9 : List RegRow :=
  [ ⟨"REL_SWEEP", 0x2d0400, 1, 0x1, 1, 0x1, 8, false, .any, 0x0, 0x0, 0x0, 0x0⟩,
    ⟨"REL_TWIN", 0x2d0500, 1, 0x1, 1, 0x1, 8, false, .any, 0x0, 0x0, 0x0, 0x0⟩,
    ⟨"DBG_SNUFF", 0x2e0000, 1, 0x1, 1, 0x1, 8, false, .pfOnly, 0xc, 0x0, 0x0, 0x0⟩,
    ⟨"DBG_SNUFF_TIME", 0x2e0008, 1, 0x1, 1, 0x1, 8, false, .pfOnly, 0x0, 0x0, 0x0, 0x0⟩,
    ⟨"DBG_MATCH", 0x2e0020, 1, 0x1, 1, 0x1, 8, false, .pfOnly, 0xffffffffffff00ff, 0x0, 0x0, 0x0⟩,
    ⟨"DBG_CNTCMD", 0x2e0040, 1, 0x1, 1, 0x1, 4, false, .pfOnly, 0x0, 0x0, 0x0, 0x0⟩,
    ⟨"DBG_VIOL_COUNT", 0x2e0100, 1, 0x1, 1, 0x1, 4, false, .pfOnly, 0x0, 0x0, 0xffffffff, 0x0⟩,
    ⟨"DBG_VIOL_LAST", 0x2e0108, 1, 0x1, 1, 0x1, 8, false, .pfOnly, 0x0, 0x0, 0x0, 0x0⟩,
    ⟨"DBG_TRACE_CFG", 0x2e0200, 1, 0x1, 1, 0x1, 8, false, .pfOnly, 0x1ffffffffffff07f, 0x0, 0x0, 0x0⟩,
    ⟨"DBG_TRACE_STAT", 0x2e0208, 1, 0x1, 1, 0x1, 8, false, .pfOnly, 0x0, 0x0, 0xffff000000000000, 0x0⟩,
    ⟨"DBG_SCAN", 0x2e0300, 1, 0x1, 1, 0x1, 8, false, .pfOnly, 0xffff8002, 0x0, 0x0, 0x0⟩,
    ⟨"DBG_BCNTi", 0x2e1000, 96, 0x8, 1, 0x1, 8, false, .pfOnly, 0x0, 0x0, 0x0, 0x0⟩ ]

/-- Rows of the register map, part 10. -/
def regRows10 : List RegRow :=
  [ ⟨"SEC_BOOTSTAT", 0x2f0000, 1, 0x1, 1, 0x1, 8, false, .pfOnly, 0x0, 0x0, 0x0, 0xc0⟩,
    ⟨"SEC_VERSIONS", 0x2f0008, 1, 0x1, 1, 0x1, 8, false, .pfOnly, 0x0, 0x0, 0x0, 0x0⟩,
    ⟨"SEC_ARB0", 0x2f0010, 1, 0x1, 1, 0x1, 8, false, .pfOnly, 0x0, 0x0, 0x0, 0x0⟩,
    ⟨"SEC_ARB1", 0x2f0018, 1, 0x1, 1, 0x1, 8, false, .pfOnly, 0x0, 0x0, 0x0, 0x0⟩,
    ⟨"SEC_PUSH", 0x2f0020, 1, 0x1, 1, 0x1, 4, false, .pfOnly, 0x0, 0x0, 0x0, 0x0⟩,
    ⟨"SEC_CFGINFO", 0x2f0080, 1, 0x1, 1, 0x1, 8, false, .pfOnly, 0x0, 0x0, 0x0, 0x0⟩,
    ⟨"SEC_MEASn", 0x2f0400, 8, 0x40, 1, 0x1, 64, false, .pfOnly, 0x0, 0x0, 0x0, 0x0⟩ ]

/-- The whole register map. -/
def regRows : List RegRow :=
  regRows1 ++ regRows2 ++ regRows3 ++ regRows4 ++ regRows5 ++ regRows6 ++ regRows7 ++ regRows8 ++ regRows9 ++ regRows10

/-- The register of a row that starts at or before BAR0 offset `o` and holds its byte, by its own offset. -/
def RegRow.base? (r : RegRow) (o : Nat) : Option Nat :=
  if o < r.off then none
  else
    let i := if r.count = 1 then 0 else (o - r.off) / r.stride
    let j := if r.count2 = 1 then 0 else (o - r.off - r.stride * i) / r.stride2
    let b := r.off + r.stride * i + r.stride2 * j
    if i < r.count && j < r.count2 && o < b + r.bytes then some b else none

/-- The row that holds byte offset `o`, with the register's own offset. -/
def findRow : List RegRow → Nat → Option (RegRow × Nat)
  | [], _ => none
  | r :: rs, o => match r.base? o with
    | some b => some (r, b)
    | none => findRow rs o

/-- The register at BAR0 offset `o`. -/
def regAt (o : Nat) : Option (RegRow × Nat) := findRow regRows o

end Sys2Proof.Machine
end

