-- ==== Sys2Proof/Machine/State.lean ====
section
/-!
DEFINITION. The state of the VX9: one structure per block, all of it plain data, the machine after reset, and the reasons a
step can stop. Registers of the manual's register tables live in the register file `regs` (Machine/RegMap.lean gives every
one by name, offset, fields and reset value); what the manual gives a block beside its registers stands in the block's own
structure.
-/
namespace Sys2Proof.Machine

/-- Reasons for a fault. No command of the VX9 ends in one: every event the manual describes has an effect. -/
inductive Fault where
  /-- Raised by nothing: kept so that the type of outcomes has the three arms of the interface. Safe. -/
  | internal
deriving DecidableEq, Repr

/-- Reasons for a refusal. -/
inductive Refusal where
  /-- Raised by the arm of a command that has no meaning yet. Safe: the machine stops where the hardware goes on. -/
  | notModelled (mnemonic : String)
deriving DecidableEq, Repr

/-! ### Time, pins and reset -/

/-- The copies of T-tick (R22) and the hold of a backward alignment (R360). -/
structure Clock where
  /-- F-clock copy: Ember log, trace, completion records, GLB_TIME reads. -/
  timeF : W64 := 0
  /-- M-clock copy: capture and media. -/
  timeM : W64 := 0
  /-- C-clock copy: firmware. -/
  timeC : W64 := 0
  /-- Nanoseconds for which every copy still holds its value. -/
  hold : Nat := 0
  /-- A TIME_PPS edge that arrived while a hold was in force. -/
  ppsQueued : Bool := false
  /-- What the dual-clock queues bring every copy at the next tick (R22): the value of a write, and a forward step. -/
  write : Option W64 := none
  step : W64 := 0
deriving DecidableEq, Repr

/-- What drives the balls of R485: the device, the boundary register (EXTEST, CLAMP), or nothing (HIGHZ). -/
inductive Balls where
  | device
  | boundary
  | floating
deriving DecidableEq, Repr

/-- Balls that carry state (R485) and the straps sampled at the release of POR_N (R374). -/
structure Pins where
  porLow : Bool := false
  perstLow : Bool := false
  refclkLost : Bool := false
  aonLow : Bool := false
  bootSrc : BitVec 2 := 0
  twinRole : BitVec 2 := 0
  smbAddr : BitVec 3 := 0
  /-- HPWR_EN is high (R479), and when it went low last. -/
  hpwrEn : Bool := false
  hpwrLowAt : W64 := 0
  /-- REPLACE_N is driven low (R448). -/
  replaceLow : Bool := false
  /-- SNUFF_N is driven low by this device (R469). -/
  snuffDrive : Bool := false
  /-- The SNUFF_N input is armed (R469). -/
  snuffArmed : Bool := true
  /-- The instruction register of the test access port (R486). -/
  jtagIr : BitVec 8 := 2
  /-- A JTAG access has happened since the last full reset (R403: M6). -/
  jtagUsed : Bool := false
  /-- The bytes that the last JTAG data scan shifted out. -/
  jtagOut : List Byte := []
  /-- The boundary register: what the last EXTEST or SAMPLE/PRELOAD scan loaded. -/
  jtagBoundary : List Bool := []
  /-- Who drives the balls (R486). -/
  balls : Balls := .device
deriving DecidableEq, Repr

/-! ### Boot, firmware and trust -/

/-- What a container's header says of its image, and how its verification ended (R388, R390). -/
structure Image where
  version : W32
  arbSet : W32
  entry : W32
  blobOut : BitVec 16
  blobMin : BitVec 16
  /-- Bank of the firmware complex SRAM that holds it (R393). -/
  bank : BitVec 1
  /-- SOURCE of the verification record (R403). -/
  source : Byte
  cause : Byte
  /-- The image measurement (R403). -/
  measure : BitVec 512
deriving DecidableEq, Repr

/-- A container whose payload is landing block by block (R391). -/
structure Loader where
  /-- KIND of the container: 1 Stage 1, 2 main firmware, 3 configuration block. -/
  kind : Nat
  source : Byte
  /-- Bytes 0 to 4,095 of the container as the manifest checks read them. -/
  head : List Byte
  /-- The source: an NVM offset, or a physical address in GDDR6 or shared staging. -/
  fromNvm : Bool
  base : Nat
  /-- Blocks landed so far. -/
  landed : Nat
  /-- The first failed check of R390 so far. -/
  cause : Byte
  /-- The computed digests, oldest first. -/
  digests : List (BitVec 512)
  /-- A read of the container met a poisoned sector. -/
  poisoned : Bool
deriving DecidableEq, Repr

/-- One entry of the measurement event log (R404). -/
structure EvEntry where
  reg : BitVec 3
  kind : Byte
  source : Byte
  cause : Byte
  version : W32
  time : W64
  x : BitVec 512
deriving DecidableEq, Repr

/-- An UPDATE_COMMIT whose new image has been started (R408). -/
structure Handover where
  /-- The new image accepted the blob. -/
  blob : Bool
deriving DecidableEq, Repr

/-- A copy of a record of the journal (R435): its generation count, its words, and its CRC32C as it stands. -/
structure JournalCopy where
  gen : Nat
  words : List Nat
  crc : W32
deriving DecidableEq, Repr

/-- A record of the journal: its two copies, the one written last first. -/
structure JournalRecord where
  newer : Option JournalCopy := none
  older : Option JournalCopy := none
deriving DecidableEq, Repr

/-- The records of the journal (R387). -/
inductive JournalName where
  | counters
  | repairMap
  | margin
deriving DecidableEq, Repr

/-- The firmware complex and the on-chip flash (R387 to R409). What the identity and calibration area holds beside GLB_UID is per part: V_CAL, the
energy coefficients and the monitor baselines are constants of Config (`vcal`, `gddrPj`, `energyPj`, `leakPj`, `baseKhz`, `baseMv`, `baseTemp`). -/
structure Boot where
  /-- The last step of R24 that has been reached, 0 to 9. -/
  step : Nat := 0
  loader : Option Loader := none
  bank0 : List Byte := []
  bank1 : List Byte := []
  cfgCopy : List Byte := []
  /-- The Stage 1 image that ran, the running firmware, the loaded firmware, the configuration block. -/
  s1 : Option Image := none
  running : Option Image := none
  loaded : Option Image := none
  cfg : Option Image := none
  /-- A SEC_PUSH with CFG = 1 has been accepted (R400). -/
  cfgPushed : Bool := false
  /-- SOURCE of the configuration block in the numbering of SEC_CFGINFO: 0 none, 1 NVM, 2 host. -/
  cfgSource : BitVec 2 := 0
  evLog : List EvEntry := []
  hostLost : W32 := 0
  devLost : W32 := 0
  handover : Option Handover := none
  /-- The handover blob: its version, and the number of the free bytes that the running image wrote (R408, log 14). -/
  blob : Option (BitVec 16 × Nat) := none
  /-- On-chip flash: what the Stage 1 slots of 512 KiB hold, and the records of the journal. -/
  flashA : List Byte := []
  flashB : List Byte := []
  counters : JournalRecord := {}
  mapRecord : JournalRecord := {}
  marginRecord : JournalRecord := {}
  /-- The record that is being written (R435). -/
  writing : Option JournalName := none
  /-- The repair map in force. -/
  repairMap : List Nat := []
  /-- The sixteenth of each channel's rows that the next start tests (R399). -/
  march : Nat := 0
  /-- The mode of the XSPI flash that Stage 1 has selected (R485). -/
  xspi : Option XspiMode := none
  /-- The NVM behind the XSPI balls. -/
  nvm : Memory := []
  /-- Bytes of the NVM device (log 16). -/
  nvmSize : Nat := 0x4000000
  /-- Channels and Hearths that failed at run time and are excluded at the next start (R15, R448). -/
  nextChannels : BitVec 16 := 0
  nextHearths : BitVec 4 := 0
  /-- A control core of the firmware complex has stopped (R434). -/
  fwStopped : Bool := false
deriving DecidableEq, Repr

/-! ### Host interface -/

/-- A low half held for the next high-half write, or the high half latched by a low-half read (R355). -/
structure Half where
  off : Nat
  value : W32
deriving DecidableEq, Repr

/-- What the last read access returned. -/
structure Reply where
  bytes : List Byte
  /-- The completion carries the poisoned (EP) bit. -/
  poisoned : Bool
deriving DecidableEq, Repr

/-- What a function's configuration space holds that changes (R351): PCI-PM D3hot, and the AER status, mask and severity registers, with the reset
values of the PCI Express standard. PRESUMED, log 63. -/
structure ConfigSpace where
  d3hot : Bool := false
  uncStatus : W32 := 0
  uncMask : W32 := 0x00400000
  uncSeverity : W32 := 0x00462030
  corStatus : W32 := 0
  corMask : W32 := 0x0000E000
  /-- ASPM L1 is enabled (R351, R423). -/
  aspmL1 : Bool := false
deriving DecidableEq, Repr

/-- The PCI Express endpoint beside its registers. Keys of `held` and `latch` are function numbers (PF 0, VFn n). -/
structure Hif where
  linkUp : Bool := false
  /-- Size of BAR2 of the PF in GiB (R353). -/
  bar2 : Nat := 1
  held : Tab Half := []
  latch : Tab Half := []
  /-- MSI-X table dwords, key 8,192 * function + 4 * vector + dword; an unlisted control dword reads 1 (masked). -/
  msix : Tab W32 := []
  /-- Pending bits, key 2,048 * function + vector. -/
  pend : Tab Bool := []
  /-- Messages sent per vector, same key. -/
  sent : Tab Nat := []
  /-- The first drop of this outage has been logged (R370). -/
  outage : Bool := false
  reply : Option Reply := none
  /-- Configuration spaces by function number; an unlisted one is as after reset. -/
  config : Tab ConfigSpace := []
  /-- The link is in L1 (R423). -/
  l1 : Bool := false
  /-- Function-level resets that have begun, by function number: the partitions that still drain hold them open (R369). -/
  flr : Tab (List Nat) := []
deriving DecidableEq, Repr

/-- Firmware's side of the mail rings (R363 to R367). -/
structure Mail where
  /-- Main firmware has initialised the mail area. -/
  up : Bool := false
  /-- H2F_PI as firmware saw it at the last doorbell. -/
  known : W32 := 0
  /-- Messages that wait for room in the F2H ring, oldest first. -/
  waiting : List (List Byte) := []
  /-- Held NOTICEs: source and code, oldest first; at most 16. -/
  notices : List (Byte × BitVec 16) := []
  /-- NOTICEs dropped since the last one posted. -/
  dropped : W32 := 0
  /-- The feature set of the session. -/
  features : BitVec 256 := 0
  /-- The request that firmware has taken and not answered yet: its TYPE and SEQ (IDLE_EXIT, UPDATE_COMMIT). -/
  busy : Option (BitVec 16 × W32) := none
deriving DecidableEq, Repr

/-- The SMBus target (R371 to R373). -/
structure Smbus where
  /-- SEQ of the next entry that EMBER_TAIL returns; none before the first read. -/
  cursor : Option Nat := none
  lapped : Bool := false
  empty : Bool := false
  pecRequired : Bool := false
  tailOff : Bool := false
  powerOff : Bool := false
  /-- What the last command returned; none when it was not acknowledged. -/
  reply : Option (List Byte) := none
deriving DecidableEq, Repr

/-! ### Links and memory -/

/-- A GDDR6 transfer that is being retried after an EDC failure (R33). -/
structure Edc where
  addr : Nat
  write : Bool
  /-- Retries that have been made. -/
  retries : Nat
deriving DecidableEq, Repr

/-- Die-to-die links and GDDR6 channels (R13 to R15, R31 to R39). -/
structure Fabric where
  /-- Bit 2 h + m: module m between Hearth h and the Mantel has failed. -/
  modFailed : BitVec 8 := 0
  /-- Bit n: the Flue link from H n to H (n + 1) mod 4 has failed. -/
  flueFailed : BitVec 4 := 0
  gddrTrained : Bool := false
  /-- The channels run with the settings of 1.35 V, or else of 1.25 V (R478). -/
  gddr135 : Bool := false
  chOffline : BitVec 16 := 0
  /-- Channels that failed retraining at run time (R448). -/
  chFailed : BitVec 16 := 0
  /-- Transfers in retry, by channel. -/
  edc : Tab Edc := []
  /-- Sectors whose next read (false) returns poisoned data, or whose next write (true) is dropped, because the link failed (R33). -/
  lost : List (Nat × Bool) := []
  /-- Steps of a periodic retraining that have been done, by channel (R437). -/
  retrain : Tab Nat := []
  /-- Slots served in the last window of each channel: key 4 * channel + class (0 read, 1 write, 2 remote, 3 idle). -/
  served : Tab Nat := []
  selfRefresh : Bool := false
  /-- Times of recent corrected errors by word or sector address (R436). -/
  corrected : Tab (List Nat) := []
deriving DecidableEq, Repr

/-- What Sweep keeps of its activities (R437 to R441), by channel or Hearth: when the last CAL and the last step of a RETRAIN began, when the last
RETRAIN ended, until when the channel is offline, when a Hearth was last sampled, and the channels whose RETRAIN comes first after a suspension. -/
structure Sweep where
  calAt : Tab W64 := []
  stepAt : Tab W64 := []
  retrainAt : Tab W64 := []
  offUntil : Tab W64 := []
  telemAt : Tab W64 := []
  resumed : BitVec 16 := 0
deriving DecidableEq, Repr

/-! ### The Ember log -/

/-- A report to the Ember log. -/
structure Report where
  code : BitVec 16
  a0 : W32
  a1 : W32
  a2 : W32
  /-- The F-clock copy when the event was reported (R442). -/
  time : W64 := 0
deriving DecidableEq, Repr

/-- The writer of the Ember log (R442 to R446); its entries stand in memory at 0x20_0160_0000. -/
structure Ember where
  /-- Pending reports of each source, oldest first; at most 4. -/
  queues : Tab (List Report) := []
  /-- Reports of each source dropped since the last one carried. -/
  dropped : Tab Nat := []
  /-- The source after which the next round-robin search starts. -/
  turn : Nat := 0
  /-- SEQ + 1 of the newest entry of each source. -/
  newest : Tab Nat := []
  /-- Entries that exist, at most 4,096. -/
  count : Nat := 0
deriving DecidableEq, Repr

/-! ### Queues, partitions and cores -/

/-- The states of a queue (R189). -/
inductive QState where
  | disabled
  | active
  | faulted
  | cancelling
deriving DecidableEq, Repr

/-- An open REPEAT around a descriptor: its own number, its body's first and last ring index, its count, the running
iteration and its RSTRIDE values (R176). -/
structure Frame where
  rep : Nat
  first : W32
  last : W32
  count : Nat
  iter : Nat
  strides : List W32
deriving DecidableEq, Repr

/-- A descriptor read ahead (R156), with what its read-time checks found (R182): status and INFO. -/
structure Fetched where
  idx : W32
  bytes : List Byte
  bad : Option (Byte × BitVec 48)
deriving DecidableEq, Repr

/-- An issued or refused descriptor that has not completed. -/
structure Item where
  /-- Its number in the order of issue over all queues. -/
  uid : Nat
  idx : W32
  bytes : List Byte
  /-- The enclosing REPEATs, innermost first. -/
  frames : List Frame
  /-- The six bounds in force at issue (R165). -/
  bounds : List Nat
  /-- The rescale slot captured at issue (R78): the slot register of each core of the partition, in core order. -/
  rtab : List W64
  /-- It issued and holds its scoreboard reservations; a refused descriptor holds none (R185). -/
  reserves : Bool
  /-- Its own work has ended and its writes have arrived. -/
  finished : Bool
  /-- For a REPEAT: body descriptors are still to be issued. -/
  isOpen : Bool
  /-- A quiet period has returned it to the unissued state, and it holds nothing until it issues again (R346). -/
  back : Bool := false
  status : Byte
  info : BitVec 48
  detail : Byte
  count : W32
  flags : BitVec 5
  /-- Words that LOADB has read, written to the bound registers at completion. -/
  loads : List W32
deriving DecidableEq, Repr

/-- A queue: its state, the copy of its entry (R186), its indices (R187) and its descriptors in flight. -/
structure Queue where
  state : QState := .disabled
  ringLog : Nat := 0
  ringBase : Nat := 0
  cplHost : Bool := false
  cplLog : Nat := 0
  cplBase : Nat := 0
  cplPi : Nat := 0
  /-- Wait timeout in µs; 0 means none. -/
  timeoutUs : Nat := 0
  vector : Nat := 0
  part : Nat := 0
  /-- CLASS 1: latency-critical. -/
  lc : Bool := false
  prio : Nat := 0
  group : Nat := 0
  weight : Nat := 0
  tail : W32 := 0
  ci : W32 := 0
  pi : W32 := 0
  /-- Ring index of the next descriptor to issue, and the REPEATs open around it. -/
  ip : W32 := 0
  frames : List Frame := []
  ahead : List Fetched := []
  items : List Item := []
  bound : Tab W32 := []
  lastStatus : Byte := 0
  /-- The faulting descriptor's ring index and the REPEATs around it. -/
  fault : Option (W32 × List Frame × List Byte) := none
  /-- DISABLE has been given and descriptors are still in flight. -/
  disabling : Bool := false
deriving DecidableEq, Repr

/-- What a fold has gathered so far (R145): the elements that took part, the sum of the positive keys and of the magnitudes of the negative ones as
dyadic numbers, a power of two that all of them are multiples of, the special keys met, the wrapped integer sum, and the winner: index, key and payload. -/
structure Fold where
  took : Nat := 0
  nan : Bool := false
  posInf : Bool := false
  negInf : Bool := false
  posM : Int := 0
  posE : Int := 0
  negM : Int := 0
  negE : Int := 0
  sumQ : Option Int := none
  isum : W32 := 0
  best : Option (Nat × W32 × List W32) := none
deriving DecidableEq, Repr

/-- The descriptor that runs its units on a partition's cores (R191, R194, R195). -/
structure Run where
  q : BitVec 16
  uid : Nat
  units : Nat
  /-- Ungranted units of each core: first and one past the last. -/
  ranges : Tab (Nat × Nat) := []
  /-- Hearths that have answered "none" to a core since it last held a unit: key 4 * core + Hearth (R195). -/
  dry : Tab Bool := []
  /-- Granted units that have not drained. -/
  out : Nat := 0
  /-- Saturated outputs and outputs written, for R86. -/
  sat : Nat := 0
  outputs : Nat := 0
  /-- The run is the widened re-run of R89. -/
  widened : Bool := false
  fold : Fold := {}
  /-- Flags raised so far (R148), and the lowest element index that raised a trapped one. -/
  flags : BitVec 5 := 0
  trapAt : Option Nat := none
  /-- Elements kept by COMPRESS, or compact elements consumed by EXPAND. -/
  kept : Nat := 0
  /-- A fault, a flag trap or a cancellation has stopped it: no further unit is granted. -/
  stopped : Bool := false
  /-- The writes of the granted units of a GATHER or SCATTER by core, in the order of the grants: they arrive when it ends, or in part when it is
  stopped (R108). -/
  held : List (Nat × Memory) := []
deriving DecidableEq, Repr

/-- A partition's issue window and the scheduler's turn (R191, R340, R341, R345, R350). -/
structure Window where
  exec : Option Run := none
  next : Option (BitVec 16 × Nat) := none
  movers : List (BitVec 16 × Nat) := []
  /-- The queue that issued last, by 16 * step + PRIO. -/
  lastAt : Tab Nat := []
  beTurn : Nat := 0
  beLeft : Nat := 0
  /-- PARTITION_STALL has been reported and no descriptor has issued since. -/
  stallTold : Bool := false
  /-- The slot of the cyclic table in force, its start S_i, and the slot whose quiet period is in force. -/
  slot : Option Nat := none
  slotAt : W64 := 0
  quiet : Option Nat := none
  /-- Slot starts whose lateness is still being measured: S_i and the group. -/
  late : List (W64 × Nat) := []
deriving DecidableEq, Repr

/-- One accumulator (R101): an INT32 or FP32 pattern, and whether it saturated on its way (R76). -/
structure Accu where
  val : W32
  isInt : Bool
  sat : Bool
  /-- The invalid flag of R70 and R76 was raised. -/
  inv : Bool := false
deriving DecidableEq, Repr

/-- The accumulator bank of a tile before its drain (R101): the tile's unit, and its number among the N-tiles that an argument reduction runs in
the unit (R107; 0 otherwise). -/
structure Bank where
  uid : Nat
  unit : Nat
  tile : Nat
  cells : List Accu
deriving DecidableEq, Repr

/-- A stationary set of the cells (R102): by cell number, row-major in the 128 × 128 grid, the patterns that R99 and R100 place. A cell that is not
listed holds 0, or a free pattern where the manual does not say what the cell holds: `layout` is the number that the free patterns go by. -/
structure StatSet where
  cells : Tab (BitVec 16) := []
  layout : Option Nat := none
deriving DecidableEq, Repr

/-- The unit whose N-tiles an argument reduction accumulates on a core one after the other, and the next of them (R107). -/
structure ArgRun where
  uid : Nat
  unit : Nat
  next : Nat
deriving DecidableEq, Repr

/-- An element of a REDUCE row that takes part: its position, segment and key (R151, R153). -/
structure RowElem where
  pos : Nat
  seg : Nat
  key : W32
deriving DecidableEq, Repr

/-- What the batches of a REDUCE row have gathered so far: the elements that take part, the folds of the segments, and the last segment id. -/
structure RowAcc where
  els : List RowElem := []
  folds : Tab Fold := []
  last : Nat := 0
deriving DecidableEq, Repr

/-- A core: its accumulator banks and which was filled last, the unit that its element engine works on and the next one
granted ahead, the elements of the unit processed so far and what a row has gathered from them, the descriptor whose setup section has run on it, its program slots (R124: an empty slot lists nothing), its registers v0 to v15 of lanes 0 to 63 (entry 16 * lane +
register; an empty list reads 0), the predicates p1 to p3 of each element in bits 1 to 3 (an empty list reads 0), and what it loaded for the descriptor: the broadcast elements as they lie in memory, and the LUT table. -/
structure CoreSt where
  bank0 : Option Bank := none
  bank1 : Option Bank := none
  lastBank1 : Bool := false
  /-- The stationary registers of the cells: primary and shadow (R102). -/
  primary : StatSet := {}
  shadow : StatSet := {}
  /-- The unit of an argument reduction whose tiles are being accumulated, and the records of the one that drains (R107): channel and FP32 pattern
  by row. -/
  arg : Option ArgRun := none
  recs : List (Nat × W32) := []
  unit : Option Nat := none
  ahead : Option Nat := none
  pos : Nat := 0
  row : RowAcc := {}
  started : Option Nat := none
  progs : Tab (List Byte) := []
  vregs : List W32 := []
  preds : List Byte := []
  bcast : List W32 := []
  lut : List Byte := []
  /-- Bellows read slots that hold data for the partition's NEXT descriptor: physical addresses of 256 bytes each (R41, R198). -/
  slots : List Nat := []
deriving DecidableEq, Repr

/-- The queue manager, the windows, the cores and the cyclic table. -/
structure Qm where
  queues : Tab Queue := []
  sems : Tab W32 := []
  wins : Tab Window := []
  cores : Tab CoreSt := []
  /-- Descriptors issued so far. -/
  issued : Nat := 0
  /-- Slot entries of the cyclic table (R344). -/
  slots : List W64 := []
  /-- Cycles begun since READY, and the T-tick of the last cycle start. -/
  cycles : W32 := 0
  cycleAt : W64 := 0
deriving DecidableEq, Repr

/-! ### Translation -/

/-- A TLB entry (R48): the first virtual address of the page, its size, the physical address and the write permission. -/
structure TlbEntry where
  va : Nat
  size : Nat
  pa : Nat
  w : Bool
deriving DecidableEq, Repr

/-- An upper-level entry of a Hearth's walk cache (R48): the partition, the level that it leads to (3, 2 or 1), the virtual
address with the bits below that level at 0, and the table's physical address. -/
structure WalkEntry where
  part : Nat
  level : Nat
  va : Nat
  table : Nat
deriving DecidableEq, Repr

/-- An accepted invalidation (R49): the function's number, the partition, SCOPE, and the first page and page count or the
slot. -/
structure Inval where
  fn : Nat
  part : Nat
  scope : Nat
  first : Nat
  count : Nat
deriving DecidableEq, Repr

/-- The MMU beside its registers (R42 to R50, R490). -/
structure Mmu where
  /-- TLB of each core, most recently used first; at most 512 entries. -/
  tlb : Tab (List TlbEntry) := []
  /-- Walk cache of each Hearth, newest first; at most 64 entries (log 59). -/
  walks : Tab (List WalkEntry) := []
  /-- Invalidations in the order of arrival; the first is being carried out. -/
  invs : List Inval := []
  /-- Pending values of the shadow set, by register key; an unlisted register's pending value is its active value. -/
  pend : Tab W64 := []
deriving DecidableEq, Repr

/-! ### The attention ring -/

/-- One partial softmax state of a query row (R220), as FP32 patterns: running maximum, sum, and output vector. The MODEL's own: the exact score and
the values of every position absorbed, from which the bound of R91 on the outputs is computed. -/
structure RowState where
  m : W32
  l : W32
  o : List W32
  seen : List (Dy × List W32) := []
deriving DecidableEq, Repr

/-- A key/value block in a Hearth's regions 88 to 95 (R217): its number, its rotation (counter-clockwise or not), the keys,
values and segment ids it carries, the cores that have processed it, and whether it has gone on in each direction. -/
structure Held where
  hearth : Nat
  block : Nat
  ccw : Bool
  keys : List W32
  vals : List W32
  segs : List (BitVec 16)
  done : List Nat
  sent : Bool
  sentBack : Bool
deriving DecidableEq, Repr

/-- The ATTN in execution on the device (R214): its pass (R215) and its running state. Rows are numbered in the problem. -/
structure AttnRun where
  part : Nat
  q : BitVec 16
  uid : Nat
  /-- The problem: head fastest, then batch; the pass's first tile. -/
  prob : Nat
  tile0 : Nat
  /-- Line mode (R226). -/
  line : Bool
  cw : Tab RowState := []
  ccw : Tab RowState := []
  /-- Rows with a score that is NaN or infinite (R221). -/
  odd : Tab Bool := []
  /-- Query rows that the cores hold. -/
  rows : Tab (List W32) := []
  /-- Segment ids of the query rows. -/
  ids : Tab Nat := []
  /-- Blocks read so far by each home and rotation, and blocks that have come into each Hearth: key 2 * Hearth + rotation. -/
  read : Tab Nat := []
  got : Tab Nat := []
  held : List Held := []
  /-- Blocks absorbed by each core. -/
  absorbed : Tab Nat := []
  /-- Tiles of the pass that have merged. -/
  merged : List Nat := []
deriving DecidableEq, Repr

/-! ### The frame buffer pool and streams -/

/-- The areas of the MEDIA_AREAS TLV (R379). -/
structure Areas where
  ctxBase : Nat
  synBase : Nat
  synChunks : Nat
  poolGran : Nat
  poolBase : Nat
deriving DecidableEq, Repr

/-- A reserved pool descriptor (R240, R244, R245): its owner stream and partition, its kind, its address and granules, the luma pitch and plane
height of its layout and whether samples take two bytes, its marks, whether an engine holds it without a mark, and what is known of its
picture: size and arrival stamp. -/
structure Buf where
  owner : Nat
  part : Nat
  segment : Bool
  addr : Nat
  grans : Nat
  pitch : Nat := 0
  lines : Nat := 0
  wide : Bool := false
  marks : BitVec 8 := 0
  taken : Bool := false
  picW : Nat := 0
  picH : Nat := 0
  arrival : W64 := 0
deriving DecidableEq, Repr

/-- What a stream handle is open as. -/
inductive StreamKind where
  | decode
  | encode
  | capture (sensor : Nat)
  | ingest (chan : Nat)
deriving DecidableEq, Repr

/-- How far a parsed frame has come: a non-reference frame whose decision is open, a frame to be reconstructed, or one on a
pixel pipe with its buffer. -/
inductive PicStage where
  | undecided
  | chosen
  | onPipe (pipe buf : Nat)
deriving DecidableEq, Repr

/-- A parsed frame that has been neither reconstructed nor skipped (R233, R254). -/
structure Pic where
  num : W32
  flags : Nat
  picW : Nat
  picH : Nat
  arrival : W64
  /-- The policy set that the frame carries (R243), its motion energy, and its count among non-reference frames. -/
  policy : W64
  energy : W32
  count : Nat
  /-- Bytes of its syntax. -/
  syn : Nat
  /-- It is to be output, and its key in output order (R249). -/
  shown : Bool
  order : Nat := 0
  /-- Blocks that are concealed (R257). -/
  lost : List Nat := []
  stage : PicStage
deriving DecidableEq, Repr

/-- A 16 × 16 luma block of a coding map (R252): its mode, its vector in quarter samples, and its bits. -/
structure MapBlock where
  mode : Nat
  vx : Int
  vy : Int
  bits : Nat
deriving DecidableEq, Repr

/-- A parsed frame that waits for its second field (R231): its map, whether it is a random-access point, and where its access unit starts and
ends. -/
structure HalfFrame where
  pic : Pic
  map : List MapBlock
  rap : Bool
  start : W32
  fin : W32
deriving DecidableEq, Repr

/-- A reconstructed picture or a capture frame that waits for its emission. -/
structure Due where
  buf : Nat
  num : W32
  flags : Nat
  picW : Nat
  picH : Nat
  arrival : W64
  order : Nat := 0
deriving DecidableEq, Repr

/-- An access unit on a bit engine. -/
structure Parsing where
  engine : Nat
  start : W32
  fin : W32
  arrival : W64
  policy : W64
deriving DecidableEq, Repr

/-- Decode state of a stream (R238 to R257). -/
structure Dec where
  write : W32 := 0
  pos : W32 := 0
  cons : W32 := 0
  /-- Ends and arrival stamps of the complete access units not yet parsed. -/
  units : List (W32 × W64) := []
  needRap : Bool := true
  /-- Decoding began at the last random-access point: its RASL pictures are discarded. -/
  rasl : Bool := false
  flushing : Bool := false
  parsing : Option Parsing := none
  num : W32 := 0
  count : Nat := 0
  half : Option HalfFrame := none
  frames : List Pic := []
  /-- The buffer of the picture reconstructed last, which stands in for an absent reference (R256). -/
  lastRecon : Option Nat := none
  due : List Due := []
  /-- Requests of R255, oldest first: a frame number, or the next decision. -/
  reqs : List (Option W32) := []
  /-- The twin: mirrored, and the last random-access point passed (R455); after a takeover, frames up to this number are
  references only (R459). -/
  mirrored : Bool := false
  rapSeen : Bool := false
  /-- Random-access points whose frames the partner has not acknowledged yet: frame number and byte index. -/
  raps : List (W32 × W32) := []
  /-- Frames of a mirrored stream and the byte index where the access unit of each ends. -/
  ends : List (W32 × W32) := []
  refsTo : Option W32 := none
deriving DecidableEq, Repr

/-- A mode that an encode pass has decided on (R261): the block's place in luma samples, its size, and the mode. -/
structure Choice where
  col : Nat
  row : Nat
  size : Nat
  mode : Nat
deriving DecidableEq, Repr

/-- The final vectors of a 16 × 16 block in quarter samples (R261): of the block, and of its four 8 × 8 blocks. -/
structure Vectors where
  whole : Int × Int
  parts : List (Int × Int)
deriving DecidableEq, Repr

/-- A frame on an encode pipe (R262, R263). -/
structure EncRun where
  pipe : Nat
  src : Nat
  recon : Nat
  idr : Bool
  forced : Bool
  q : Nat
  retried : Bool
  /-- A pass has met an uncorrectable word of media staging (R258, R433). -/
  staged : Bool := false
  /-- What the motion search and the mode decision of the last pass have found (R261). -/
  vectors : List Vectors := []
  choices : List Choice := []
deriving DecidableEq, Repr

/-- Encode state of a session (R259 to R265). -/
structure Enc where
  subs : List Nat := []
  consumed : W32 := 0
  produced : W32 := 0
  run : Option EncRun := none
  ref : Option Nat := none
  num : W32 := 0
  /-- Frames since the last IDR, an IDR frame is due, and consecutive skips of it. -/
  sinceIdr : Nat := 0
  idrDue : Bool := true
  skips : Nat := 0
  fill : Nat := 0
  off : Nat := 0
  /-- Vectors of the frame encoded last, for its co-located blocks (R261), and its modes. -/
  vectors : List Vectors := []
  choices : List Choice := []
deriving DecidableEq, Repr

/-- An open stream. -/
structure Stream where
  kind : StreamKind
  /-- The open parameter block (R235). -/
  par : List Byte
  /-- STATE of the status block: 1 RUN, 2 WAIT_RAP, 3 FLUSHED. -/
  st : Nat := 1
  closing : Bool := false
  /-- MEDIA_SP0 and MEDIA_SP1 in force, and an accepted set not yet adopted. -/
  sp0 : W64 := 0
  sp1 : W64 := 0
  pend : Option (W64 × W64) := none
  outPi : W32 := 0
  anaPi : W32 := 0
  /-- Counters of the status block by byte offset, and the start of a wait whose µs are being counted. -/
  cnt : Tab Nat := []
  waitAt : Option W64 := none
  dec : Dec := {}
  enc : Enc := {}
deriving DecidableEq, Repr

/-- The pool, the streams and the last stream each engine served. -/
structure Media where
  areas : Option Areas := none
  pool : Tab Buf := []
  streams : Tab Stream := []
  bitLast : Tab Nat := []
  pixLast : Tab Nat := []
  encLast : Tab Nat := []
  /-- Written values of _PEND registers, by function key (R384). -/
  pend : Tab W64 := []
  /-- Mirrored streams that have closed while buffers of theirs still carry marks (R240). -/
  closed : Tab Stream := []
  /-- The stream whose CLOSE is running. -/
  busy : Option Nat := none
deriving DecidableEq, Repr

/-! ### Capture -/

/-- A frame being captured (R268, R272): its buffer (none: dropped), its stamp, and what has been received. -/
structure CapFrame where
  buf : Option Nat
  num : W32
  arrival : W64
  /-- It runs through an ISP context; the area in force. -/
  isp : Bool
  area : List Byte
  /-- Length of the first line; lines so far, missing ones included; lines received. -/
  width : Option Nat := none
  line : Nat := 0
  got : Nat := 0
  flags : Nat := 0
  /-- It is the first after an adoption; the lines that enter the image pipe, as layout 1 writes them. -/
  first : Bool := false
  raw : List (List Byte) := []
deriving DecidableEq, Repr

/-- An enabled sensor (R269 to R273): its two words and parameter area in force, and those accepted but not adopted. -/
structure Sensor where
  idx : Nat
  lo : W64
  hi : W64
  area : List Byte
  next : Option (W64 × W64 × List Byte) := none
  /-- The ISP pipe of its context, and whether the context has taken effect. -/
  ctx : Option Nat := none
  num : W32 := 0
  /-- Lines of the first frame after adoption. -/
  height : Option Nat := none
  cur : Option CapFrame := none
  /-- Frames that have ended and wait for the ISP, oldest first. -/
  tail : List CapFrame := []
  /-- Tile means of the frame that left the image pipe last. -/
  tiles : List (BitVec 16) := []
  disabling : Bool := false
deriving DecidableEq, Repr

/-- A frame-sync output (R275): word B held for the next word A, words A and B accepted and not yet in effect, words in effect, and the time and
width of the pulse that is asserted, and the level of the pin. -/
structure Fsync where
  heldB : Option W64 := none
  next : Option (W64 × W64) := none
  a : W64 := 0
  b : W64 := 0
  since : Option (W64 × Nat) := none
  level : Bool := false
deriving DecidableEq, Repr

structure Capture where
  /-- Enabled sensors by number, and those that finish after a commit that disabled them at 16 + handle. -/
  sensors : Tab Sensor := []
  /-- The set accepted last, by BAR0 offset (R385). -/
  acc : Tab W64 := []
  /-- Written values of the shadow set, by function key. -/
  pend : Tab W64 := []
  fsync : Tab Fsync := []
deriving DecidableEq, Repr

/-! ### The frame shaper -/

/-- A shaper or tracker ring (R280, R310). -/
structure OpRing where
  en : Bool := false
  /-- The ring was enabled anew while an operation of its earlier use runs. -/
  stopping : Bool := false
  log : Nat := 0
  base : Nat := 0
  head : W32 := 0
  tail : W32 := 0
deriving DecidableEq, Repr

/-- The operation that the shaper runs (R285): its partition, header, region entries, start time, and the valid, stale and invalid regions; from a
pipeline, its number. -/
structure ShapeRun where
  part : Nat
  header : List Byte
  regs : List (List Byte)
  start : W64
  valid : List Nat
  stale : List Nat
  bad : List Nat
  pipe : Option Nat := none
  /-- It holds a place in the partition's ring. -/
  ring : Bool := true
deriving DecidableEq, Repr

structure Shaper where
  rings : Tab OpRing := []
  last : Nat := 15
  run : Option ShapeRun := none
deriving DecidableEq, Repr

/-! ### Record ingest -/

/-- How far a sample has come: parsed, dispatched (when, with its JPEG buffer), waiting for the decoder's result of its substitute. -/
structure Sample where
  id : W32
  kind : Nat
  arrival : W64
  /-- Byte index and length of the payload, and of its label. -/
  start : W32
  len : Nat
  label : Option (W32 × Nat) := none
  /-- A later header has been parsed. -/
  whole : Bool := false
  sent : Option W64 := none
  buf : Option Nat := none
  /-- The decoder's result with the picture's size. -/
  jpeg : Option (Nat × Nat × Nat) := none
  /-- FLAGS found so far and JPEG_RESULT, once its substitute is being decoded. -/
  flags : Nat := 0
  code : Nat := 0
  redo : Bool := false
  /-- Label of the copy that is decoded again; ING_SLOW_LIMIT has passed. -/
  redoLabel : Option (List Byte) := none
  slow : Bool := false
deriving DecidableEq, Repr

/-- A packed row that is open (R302): its free-running index, the positions used and the segments placed. -/
structure PackRow where
  row : W32
  used : Nat
  segs : Nat
deriving DecidableEq, Repr

/-- The latest good sample of a kind (R299): which copy holds it, its payload length and its label. -/
structure Good where
  copy : Nat
  len : Nat
  label : Option Nat
deriving DecidableEq, Repr

/-- An ingest channel (R293 to R303). -/
structure Chan where
  /-- STATE: 0 DISABLED, 1 RUN, 2 DRAINED. -/
  st : Nat := 0
  par : List Byte := []
  log : Nat := 0
  base : Nat := 0
  write : W32 := 0
  pos : W32 := 0
  /-- Bytes of records to be passed over that are not in the ring yet. -/
  skip : Nat := 0
  resync : Bool := false
  /-- The record before was a primary record, or its label. -/
  afterPrimary : Bool := false
  id : W32 := 0
  slotDone : Nat := 0
  rowDone : Nat := 0
  /-- The byte index up to which EOS or a doorbell made input known; the end of input has come; EN has been cleared. -/
  eos : Bool := false
  stopping : Bool := false
  flight : List Sample := []
  good : Tab Good := []
  batch : W32 := 0
  samples : Nat := 0
  firstAt : Option W64 := none
  nextRow : W32 := 0
  firstRow : W32 := 0
  rows : List PackRow := []
  rowsUsed : Nat := 0
  pad : Nat := 0
deriving DecidableEq, Repr

/-! ### The tracker and the pipelines -/

/-- A predicted track (R314, R315): its context, its eight STATE values and twelve COV values as FP32 patterns, and the LIFE, CONF and class it
had. -/
structure Pred where
  ctx : Nat
  st : List W32
  cov : List W32
deriving DecidableEq, Repr

/-- A frame whose producer index is not released yet (R324): its op's ring and index (none for a pipeline's), META_SEQ, the producer index to
write, and the op's signal. -/
structure Release where
  ring : Option (Nat × W32)
  metaSeq : W32
  num : W32
  pi : W32
  sig : Option (Nat × W32)
deriving DecidableEq, Repr

/-- A bound stream (R307, R308). -/
structure Bound where
  /-- The bind parameter block. -/
  par : List Byte
  nextId : W32
  predicted : Bool := false
  /-- ARRIVAL of the previous PREDICT. -/
  last : Option W64 := none
  /-- ARRIVAL, FRAME_SEQ and FRAME_FLAGS of the last PREDICT, and its tracks in column order. -/
  arrival : W64 := 0
  frameSeq : W32 := 0
  frameFlags : Nat := 0
  preds : List Pred := []
  metaSeq : W32 := 0
  /-- Producer index of the records written, the one released, and the consumed index. -/
  pi : W32 := 0
  out : W32 := 0
  ci : W32 := 0
  held : List Release := []
  cnt : Tab Nat := []
  waitAt : Option W64 := none
  /-- The stream was taken over and its first frame record is still to come; its restored slots take the next match's embedding. -/
  resumed : Bool := false
  /-- A function-level reset unbinds the stream once no op of it is in progress (R369). -/
  leaving : Bool := false
  /-- Contexts freed since the last frame whose TRACKs have gone out to the twin (R455). -/
  gone : List Nat := []
  fresh : List Nat := []
deriving DecidableEq, Repr

structure Track where
  bound : Tab Bound := []
  rings : Tab OpRing := []
  /-- Completed ops beyond the head of each ring. -/
  doneOps : Tab (List W32) := []
  last : Nat := 15
  /-- UNBIND (true) or CLEAR of a stream that waits for the op in progress. -/
  cmd : Option (Nat × Bool) := none
deriving DecidableEq, Repr

/-- An autonomous pipeline (R329 to R332): its record, the index of the next ANA record it takes, the step of R330 it is in,
the capture record of its frame, and the queue's tail. -/
structure Pipe where
  par : List Byte
  anaAt : W32 := 0
  step : Nat := 1
  frame : List Byte := []
  tail : W32 := 0
  /-- The region shaped last was stale. -/
  stale : Bool := false
  /-- The header and region written for the shaper, with the index in the partition's ring (none: outside it, log 43), and the ops written for the
  tracker, oldest first, each with its index. -/
  shape : Option (List Byte × List Byte) := none
  shapeAt : Option W32 := none
  ops : List (Option W32 × List Byte) := []
deriving DecidableEq, Repr

/-! ### The twin pair -/

/-- A flit of the twin link (R449): its type, sequence number (0 when it has none) and payload. -/
structure Flit where
  typ : Nat
  cont : Bool := false
  seq : BitVec 16 := 0
  /-- Next SEQ expected from the partner when the flit left. -/
  ack : BitVec 16 := 0
  payload : List Byte
  /-- How often it has been sent (R451). -/
  sends : Nat := 1
deriving DecidableEq, Repr

/-- What the secondary keeps of a mirrored stream (R454 to R459). -/
structure Mirror where
  /-- The primary's open parameter block, its first half until the second has come. -/
  par : List Byte
  /-- Physical address and size of its bitstream mirror. -/
  base : Nat
  size : Nat
  /-- Byte index one past the last mirrored byte. -/
  fin : W32 := 0
  /-- Access-unit starts that carried RAP: frame number and byte index, oldest first; the newest committed one. -/
  raps : List (W32 × W32) := []
  rap : Option (W32 × W32) := none
  /-- Images in the delta log that await their COMMIT: context index, and place in the log's ring. -/
  delta : List (Nat × Nat) := []
  /-- The last COMMIT: FRAME_SEQ, META_SEQ, NEXT_ID, byte index and ARRIVAL. -/
  last : Option (W32 × W32 × W32 × W32 × W64) := none
  /-- Commits that await the bytes up to their frame's end. -/
  waits : List (W32 × W32) := []
deriving DecidableEq, Repr

/-- The twin link and the pair (R449 to R459). -/
structure Twin where
  pairId : W32 := 0
  mirrorBase : Nat := 0
  mirrorSize : Nat := 0
  /-- The partner's UID last received, and whether a TWIN TLV was accepted. -/
  peer : W64 := 0
  on : Bool := false
  /-- Next SEQ to send, next SEQ expected, and the flits sent and not acknowledged, oldest first; at most 512. -/
  txSeq : BitVec 16 := 0
  rxSeq : BitVec 16 := 0
  replay : List Flit := []
  /-- Sequenced flits that wait for room in the replay buffer. -/
  waiting : List Flit := []
  /-- The last flit without a sequence number that has been sent. -/
  lastSent : Option Flit := none
  /-- The 128 bytes of the flit that left last. -/
  lane : List Byte := []
  /-- When ACK last advanced, or the oldest flit that is outstanding was sent (R451). -/
  ackAt : W64 := 0
  /-- The next place in the ring of the delta log (R454). -/
  deltaAt : Nat := 0
  /-- Next HB to send, the last HB received, and the newest ECHO received. -/
  hb : W32 := 0
  hbSeen : W32 := 0
  echo : Option W32 := none
  /-- The oldest heartbeat without an echo, and when it was sent. -/
  sentAt : List (W32 × W64) := []
  /-- The lanes hold block lock. -/
  lock : Bool := false
  mirrors : Tab Mirror := []
deriving DecidableEq, Repr

/-! ### The Damper -/

/-- What the voltage and frequency sequencer waits for (R413). -/
inductive Seq where
  | idle
  /-- All four PLLs step; the acknowledgement is awaited. -/
  | steps
  /-- The rails are raised; their settling is awaited. -/
  | rails
deriving DecidableEq, Repr

/-- The Damper beside its registers (R410 to R432). -/
structure Pwr where
  /-- F_REQ and F_CEIL of R412, in MHz. -/
  fReq : Nat := 750
  fCeil : Nat := 900
  /-- Values of SET_CAP and SET_ACLK_MAX that the power loop has still to apply. -/
  capNext : Option Nat := none
  ceilNext : Option Nat := none
  /-- F_REQ is held at this value for so many further power loops (R479). -/
  heldFreq : Nat := 0
  heldLoops : Nat := 0
  /-- The last 250 window estimates, newest first, in 10 mW. -/
  hist : List Nat := []
  /-- Windows since F_LIM changed. -/
  sameWindows : Nat := 0
  /-- The last sample had T_MAX at 115 °C or above. -/
  hotOnce : Bool := false
  /-- The last sample had T_MAX at 110 °C or above. -/
  holdHot : Bool := false
  seq : Seq := .idle
  /-- The target F of R412, the frequency being stepped to, and the highest frequency the rails are up for. -/
  target : Nat := 750
  stepTo : Nat := 750
  railsFor : Nat := 750
  /-- Hearths whose A-clock period is doubled (R418). -/
  stretched : BitVec 4 := 0
  /-- Fractions of a microjoule carried by each energy counter, in parts of 562,500 of a pJ: partitions 0 to 15, then the device (R430). -/
  frac : Tab Nat := []
deriving DecidableEq, Repr

/-! ### Observation and Snuff -/

/-- Trace samples a Hearth holds until their line is written (R465): 16 bytes each, oldest first. -/
structure TraceHold where
  samples : List (List Byte)
deriving DecidableEq, Repr

/-- The DBG block beside its registers (R460 to R474). -/
structure Dbg where
  /-- Host writes recorded under Snuff, in arrival order (R468, R472). -/
  recorded : List Instr := []
  /-- The counter's value at arming (R470). -/
  matchBase : Nat := 0
  /-- Samples held by each Hearth (R465). -/
  lines : Tab TraceHold := []
  /-- The scan-out image while it is presented (R473). -/
  image : List Byte := []
  /-- The thermal trip has turned the rails off (R421). -/
  tripped : Bool := false
  /-- The trigger that has been recorded waits for the end of the wake sequence (R466). -/
  waiting : Bool := false
  /-- The number that the free words of the scan-out image go by, from the stop to the resume (R473). -/
  scanRun : Nat := 0
deriving DecidableEq, Repr


/-! ### The whole state -/

/-- The state of the VX9. -/
structure State where
  /-- The register file: key 2^26 * function + BAR0 offset; each key holds at most 64 bits of a register. An unlisted key
  reads its reset value. -/
  regs : Tab W64 := []
  /-- Device memory by physical address (R30). -/
  mem : Memory := []
  /-- Host memory as the VX9 has written it, by host address. -/
  hostMem : Memory := []
  /-- Poisoned granules: the first byte's physical address of a 32-byte GDDR6 sector or an 8-byte SRAM word. -/
  poison : Tab Bool := []
  clock : Clock := {}
  pins : Pins := {}
  boot : Boot := {}
  hif : Hif := {}
  mail : Mail := {}
  smbus : Smbus := {}
  fabric : Fabric := {}
  sweep : Sweep := {}
  ember : Ember := {}
  qm : Qm := {}
  mmu : Mmu := {}
  attn : Option AttnRun := none
  media : Media := {}
  capture : Capture := {}
  shaper : Shaper := {}
  ingest : Tab Chan := []
  track : Track := {}
  pipes : Tab Pipe := []
  twin : Twin := {}
  pwr : Pwr := {}
  dbg : Dbg := {}
  /-- The running number of free values (log 6): the model's own. -/
  free : Nat := 0
  /-- The commands that wait, first in first out. -/
  pending : List Instr := []
deriving DecidableEq, Repr

/-- The VX9 right after the release of POR_N and of PERST_N, with every strap open (R483), before step 1 of R24. -/
def State.reset : State := {}

end Sys2Proof.Machine
end

