-- ==== Sys2Proof/Machine/Ops.lean ====
section
/-!
DEFINITION. The named operations every block uses: the register file and its fields (R8), the status bits and their notice
(R359, R362), the Ember log's report queues (R445), silent violations (R53, R447), the device physical map (R30), accesses
of an agent to device memory with poison (R34, R35) and the byte counters (R460), writes to host memory (R370) and MSI-X
messages (R368).
-/
namespace Sys2Proof.Machine

/-- The outcome of a command. -/
abbrev Out := Host.Outcome State Fault Refusal

/-! ### Functions and reset -/

/-- The device is held in reset (R481, R482). -/
def State.inReset (s : State) : Bool := s.pins.porLow || s.pins.refclkLost || s.pins.aonLow

/-- The commands that wait are their sender's: no command changes them (log 9). -/
def keepQueue (s t : State) : State := { t with pending := s.pending }

/-- A command of the pins and of the always-on hardware, in every state. -/
def always (s : State) (k : State → State) : Out := .next (keepQueue s (k s))

/-- A command that needs a condition of the state: else nothing happens. -/
def gated (c : Bool) (s : State) (k : State → State) : Out := always s fun s => if c then k s else s

/-- The fabric is up: the device is out of reset and past step 2 of R24. -/
def State.up (s : State) : Bool := !s.inReset && decide (2 ≤ s.boot.step)

/-- A command that needs the device out of reset and the fabric up (step 2 of R24): else nothing happens. -/
def live (s : State) (k : State → State) : Out := gated s.up s k

/-! ### The register file -/

/-- The reset value of a register-file key. -/
def regReset (k : Nat) : W64 :=
  match regAt (k % 2 ^ 26) with
  | some (r, b) => BitVec.ofNat 64 ((r.reset >>> (8 * (k % 2 ^ 26 - b))) % 2 ^ (8 * min r.bytes 8))
  | none => 0

/-- A register-file key read. -/
def rget (t : Tab W64) (k : Nat) : W64 :=
  match tfind t k with
  | some v => v
  | none => regReset k

/-- A register-file key written: a reset value is not listed. -/
def rset (t : Tab W64) (k : Nat) (v : W64) : Tab W64 :=
  if v = regReset k then terase t k else tput t k v

/-- Keys strictly rising and no listed key at its reset value. -/
def rwf : Tab W64 → Bool
  | [] => true
  | [(j, v)] => decide (v ≠ regReset j)
  | (j, v) :: (k, w) :: t => decide (v ≠ regReset j) && decide (j < k) && rwf ((k, w) :: t)

/-- The key of a register of function number `f`. -/
def fnKey (f off : Nat) : Nat := f * 2 ^ 26 + off

/-- The 64 bits at a key. -/
def State.reg (s : State) (k : Nat) : W64 := rget s.regs k

/-- The 64 bits at a key replaced. -/
def State.setReg (s : State) (k : Nat) (v : W64) : State := { s with regs := rset s.regs k v }

/-- Bits hi..lo of the register at key `k`; bits from 64 up lie in the following keys. -/
def State.fld (s : State) (k hi lo : Nat) : Nat :=
  nbits (s.reg (k + lo / 64 * 8)).toNat (hi - lo / 64 * 64) (lo % 64)

/-- Bits hi..lo of the register at key `k` replaced. -/
def State.setFld (s : State) (k hi lo v : Nat) : State :=
  let j := k + lo / 64 * 8
  s.setReg j (BitVec.ofNat 64 (nput (s.reg j).toNat (hi - lo / 64 * 64) (lo % 64) v))

/-- One bit of a register. -/
def State.bit (s : State) (k b : Nat) : Bool := s.fld k b b == 1

/-- One bit of a register replaced. -/
def State.setBit (s : State) (k b : Nat) (v : Bool) : State := s.setFld k b b v.toNat

/-- A field raised by `n`, stopping at its largest value. -/
def State.addSat (s : State) (k hi lo n : Nat) : State :=
  s.setFld k hi lo (satAdd (hi + 1 - lo) (s.fld k hi lo) n)

/-- The status bits of GLB_STATUS (R359). -/
def State.ready (s : State) : Bool := s.bit Reg.glbStatus 0
def State.snuffed (s : State) : Bool := s.bit Reg.glbStatus 5
/-- DBG_SNUFF.STATE is not RUNNING: the engines are stopped, stopping or resuming (R467, R472). -/
def State.stopped (s : State) : Bool := s.fld Reg.dbgSnuff 9 8 != 0

/-! ### The Ember log: reports (R445 step 1) -/

/-- A report to the Ember log of source `src`: it waits in its source's queue of 4, or is dropped and counted. -/
def report (s : State) (src code : Nat) (a0 a1 a2 : Nat) : State :=
  let q := tget [] s.ember.queues src
  if q.length < 4 then
    let r : Report := ⟨BitVec.ofNat 16 code, BitVec.ofNat 32 a0, BitVec.ofNat 32 a1, BitVec.ofNat 32 a2, s.clock.timeF⟩
    { s with ember := { s.ember with queues := tset [] s.ember.queues src (q ++ [r]) } }
  else { s with ember := { s.ember with dropped := tmod 0 s.ember.dropped src (· + 1) } }

/-- An event that R444 does not name: a code of its source from 0x0800 up (log 19). -/
def reportUnnamed (s : State) (src event : Nat) (a0 a1 a2 : Nat) : State :=
  report s src (0x800 + Config.eventCode src event % 0xF800) a0 a1 a2

/-! ### Silent violations (R53, R447) -/

/-- A permission violation: counted, and recorded as the last one. -/
def viol (s : State) (addr kind part : Nat) : State :=
  let s := s.addSat Reg.dbgViolCount 31 0 1
  s.setReg Reg.dbgViolLast (BitVec.ofNat 64 (addr % 2 ^ 40 + kind % 16 * 2 ^ 40 + part % 16 * 2 ^ 44))

/-! ### Partitions (R333 to R337) -/

/-- Partition `p` is enabled. -/
def State.partEn (s : State) (p : Nat) : Bool := s.bit (Reg.qmPart p) 16
/-- The cores in service of partition `p`. -/
def State.partCores (s : State) (p : Nat) : Nat := s.fld (Reg.qmPart p) 15 0
/-- The core numbers of partition `p`, ascending. -/
def State.coreList (s : State) (p : Nat) : List Nat := (List.range 16).filter (nbit (s.partCores p))
/-- The partition that holds a core. -/
def State.partOfCore (s : State) (c : Nat) : Option Nat :=
  (List.range 16).find? fun p => s.partEn p && nbit (s.partCores p) c
/-- The partition of a virtual function (R337). -/
def State.partOfVf (s : State) (n : Nat) : Option Nat :=
  (List.range 16).find? fun p => s.partEn p && s.bit (Reg.qmPart p) 18 && s.fld (Reg.qmPart p) 22 19 == n
/-- The function that serves partition `p`: its VF, or the PF. -/
def State.fnOfPart (s : State) (p : Nat) : Nat :=
  if s.bit (Reg.qmPart p) 18 then s.fld (Reg.qmPart p) 22 19 + 1 else 0
/-- A function may act for partition `p`: the PF for each, a VF for its own. -/
def State.mayPart (s : State) (fn : Fn) (p : Nat) : Bool :=
  match fn with
  | .pf => true
  | .vf n => s.partOfVf n.val == some p
/-- A virtual function that is mapped to no enabled partition: it reaches no register of the QM, MMU, MEDIA, CAP, SHAPE, INGEST and TRACK
blocks (R337). -/
def State.outside (s : State) (fn : Fn) : Bool :=
  match fn with
  | .pf => false
  | .vf n => (s.partOfVf n.val).isNone
/-- The partition that DBG_VIOL_LAST names for an access of a function. -/
def State.violPart (s : State) (fn : Fn) : Nat :=
  match fn with
  | .pf => 0
  | .vf n => (s.partOfVf n.val).getD 0

/-! ### The device physical map (R30) -/

inductive Place where
  | gddr
  | core (c : Nat)
  | hearth (n : Nat)
  | tracker
  | staging
  | ember
  | none
deriving DecidableEq, Repr

def ddrBase : Nat := 0
def bufBase : Nat := 0x1000000000
def trackBase : Nat := 0x2000000000
def stagingBase : Nat := 0x2001400000
def stagingSize : Nat := 0x1E0000
def emberBase : Nat := 0x2001600000
def mailBase : Nat := 0x2001400000

/-- Physical address of core c's buffer. -/
def coreBase (c : Nat) : Nat := bufBase + c / 4 * 0x4000000 + c % 4 * 0x800000
/-- Physical address of Hearth n's buffer. -/
def hearthBase (n : Nat) : Nat := bufBase + n * 0x4000000 + 0x2000000

/-- Usable GDDR6 bytes. -/
def State.usable (s : State) : Nat := s.fld Reg.memCapacity 39 0

/-- What stands at a physical address. -/
def State.placeOf (s : State) (a : Nat) : Place :=
  if a < s.usable then .gddr
  else if bufBase ≤ a && a < bufBase + 0x10000000 then
    let n := (a - bufBase) / 0x4000000
    let o := (a - bufBase) % 0x4000000
    if o < 0x2000000 then (if o % 0x800000 < 0x600000 then .core (4 * n + o / 0x800000) else .none)
    else if o < 0x2400000 then .hearth n else .none
  else if trackBase ≤ a && a < trackBase + 0x1000000 then .tracker
  else if stagingBase ≤ a && a < stagingBase + stagingSize then .staging
  else if emberBase ≤ a && a < emberBase + 0x20000 then .ember
  else .none

/-- Every byte of a range is implemented, in one place. -/
def State.rangePlace (s : State) (a n : Nat) : Place :=
  if n = 0 then s.placeOf a
  else if s.placeOf a = s.placeOf (a + n - 1) then s.placeOf a else .none

/-- A range lies wholly in usable GDDR6. -/
def State.inGddr (s : State) (a n : Nat) : Bool := decide (a + n ≤ s.usable)
/-- A range lies wholly in shared staging. -/
def inStaging (a n : Nat) : Bool := decide (stagingBase ≤ a ∧ a + n ≤ stagingBase + stagingSize)
/-- A range lies in usable GDDR6 or in shared staging. -/
def State.inGddrStaging (s : State) (a n : Nat) : Bool := s.inGddr a n || inStaging a n
/-- A range of the tracker store, read-only for the host and cores (R26, R305), or of the Ember log. -/
def readOnlyPlace : Place → Bool
  | .ember => true
  | .tracker => true
  | _ => false

/-- Channels in service (MEM_CAPACITY.CHAN_MASK). -/
def State.chanMask (s : State) : Nat := s.fld Reg.memCapacity 55 40

/-- The channel of a GDDR6 address (R32). -/
def State.chanOf (s : State) (a : Nat) : Nat :=
  if s.chanMask = 0xFFFF then
    (nbits a 11 8) ^^^ (nbits a 15 12) ^^^ (nbits a 19 16) ^^^ (nbits a 23 20)
  else
    let chans := (List.range 16).filter (nbit s.chanMask)
    chans.getD (a / 256 % max 1 chans.length) 0

/-- The channel-local unit address of a GDDR6 address (R32): with all 16 channels a[39:12] and a[7:0], else its unit's number by the channels in
service. -/
def State.chanUnit (s : State) (a : Nat) : Nat :=
  if s.chanMask = 0xFFFF then nbits a 39 12 * 256 + nbits a 7 0
  else a / 256 / max 1 ((List.range 16).filter (nbit s.chanMask)).length

/-! ### Byte counters (R460 to R462) -/

/-- Adds to byte counter `i`, modulo 2^48. -/
def bump (s : State) (i n : Nat) : State :=
  s.setFld (Reg.dbgBcnt i) 47 0 (s.fld (Reg.dbgBcnt i) 47 0 + n)

/-- Who makes an access to device memory. -/
inductive Agent where
  | pcie
  | twin
  | mantel
  | core (c : Nat)
deriving DecidableEq, Repr

/-- Counts the 32-byte transfers of a GDDR6 access, one 256-byte unit after the other. -/
def countGddr (write : Bool) : Nat → State → Nat → Nat → State
  | 0, s, _, _ => s
  | f + 1, s, a, n =>
    if n = 0 then s
    else
      let m := min n (256 - a % 256)
      let sectors := cdiv (a % 32 + m) 32
      let g := s.chanOf a
      let partials := (if a % 32 ≠ 0 ∨ m < 32 - a % 32 then 1 else 0) +
        (if (a + m) % 32 ≠ 0 ∧ a / 32 ≠ (a + m) / 32 then 1 else 0)
      let s := if write then bump (if partials = 0 then s else bump s (56 + 2 * g) (32 * partials)) (57 + 2 * g) (32 * sectors)
        else bump s (56 + 2 * g) (32 * sectors)
      countGddr write f s (a + m) (n - m)

/-- Flue link n, which joins H n and H (n + 1) mod 4, works. -/
def flueUp (s : State) (n : Nat) : Bool := !s.fabric.flueFailed.toNat.testBit n

/-- Payload goes from Hearth `a` to Hearth `b` along the Flue, over working links the shorter way, and each link that it crosses counts it (R460):
clockwise at 40 + 2l, counter-clockwise at 41 + 2l. DESIGN CHOICE (log 23): clockwise where both ways are two links long. -/
def flueBytes (s : State) (a b n : Nat) : State :=
  let up := (b + 4 - a) % 4
  let upOk := (List.range up).all fun k => flueUp s ((a + k) % 4)
  let downOk := (List.range (4 - up)).all fun k => flueUp s ((b + k) % 4)
  if a = b then s
  else if upOk && (!downOk || decide (up ≤ 2)) then (List.range up).foldl (fun s k => bump s (40 + 2 * ((a + k) % 4)) n) s
  else if downOk then (List.range (4 - up)).foldl (fun s k => bump s (41 + 2 * ((a + 3 - k) % 4)) n) s
  else s

/-- An access of a core of Hearth `a` in a buffer of Hearth `b`: a write goes to it along the Flue (R58), and what is read comes from it. -/
def flueAccess (s : State) (write : Bool) (a b n : Nat) : State := if write then flueBytes s a b n else flueBytes s b a n

/-- Counts an access at the counters of its place, and of the Hearth-Mantel port or the Flue links that it crosses. -/
def countAccess (ag : Agent) (write : Bool) (s : State) (a n : Nat) : State :=
  let w := if write then 1 else 0
  match s.placeOf a with
  | .gddr =>
    let s := countGddr write (n / 256 + 2) s a n
    match ag with
    | .core c => bump s (48 + 2 * (c / 4) + (1 - w)) n
    | _ => s
  | .core c =>
    let s := bump s (2 * c + w) n
    match ag with
    | .core k => flueAccess s write (k / 4) (c / 4) n
    | _ => bump s (48 + 2 * (c / 4) + w) n
  | .hearth h =>
    let s := bump s (32 + 2 * h + w) n
    match ag with
    | .core k => flueAccess s write (k / 4) h n
    | _ => bump s (48 + 2 * h + w) n
  | .none => s
  | _ =>
    match ag with
    | .core c => bump s (48 + 2 * (c / 4) + (1 - w)) n
    | _ => s

/-! ### Device memory accesses -/

/-- Size of a protected granule at an address: a 32-byte sector of GDDR6, a 64-bit word of SRAM. -/
def State.granule (s : State) (a : Nat) : Nat := if a < s.usable then 32 else 8

/-- Two byte ranges meet. -/
def meets (a n b m : Nat) : Bool := decide (a < b + m) && decide (b < a + n)

/-- The sector of a range whose transfer in this direction the link has failed (R33). -/
def State.lostIn (s : State) (write : Bool) (a n : Nat) : Option Nat :=
  (s.fabric.lost.find? fun x => x.2 == write && meets a n x.1 32).map (·.1)

/-- Every sector of a range whose transfer in this direction the link has failed. -/
def State.lostsIn (s : State) (write : Bool) (a n : Nat) : List Nat :=
  (s.fabric.lost.filter fun x => x.2 == write && meets a n x.1 32).map (·.1)

/-- The failed transfers of a range are over. -/
def State.lostTaken (s : State) (write : Bool) (a n : Nat) : State :=
  { s with fabric := { s.fabric with lost := s.fabric.lost.filter fun x => !(x.2 == write && meets a n x.1 32) } }

/-- The first granule of a range that is marked as poisoned. -/
def State.markIn (s : State) (a n : Nat) : Option Nat :=
  match s.poison.find? fun (k, v) => v && decide (k < a + n) && decide (a < k + s.granule k) with
  | some (k, _) => some k
  | none => none

/-- Every granule of a range that is marked as poisoned. -/
def State.marksIn (s : State) (a n : Nat) : List Nat :=
  (s.poison.filter fun (k, v) => v && decide (k < a + n) && decide (a < k + s.granule k)).map (·.1)

/-- Every poisoned granule of a range: those marked, and the sectors on channels that failed at run time (R448). -/
def State.poisonsIn (s : State) (a n : Nat) : List Nat :=
  s.marksIn a n ++ (if s.fabric.chFailed = 0 then []
    else ((List.range (cdiv (a % 32 + n) 32)).map fun i => a / 32 * 32 + 32 * i).filter fun k =>
      decide (k < s.usable) && s.fabric.chFailed.toNat.testBit (s.chanOf k))

/-- The first sector of a range that lies on a channel that failed at run time (R448). -/
def State.deadIn (s : State) (a n : Nat) : Option Nat :=
  if s.fabric.chFailed = 0 then none
  else ((List.range (cdiv (a % 256 + n) 256)).find? fun i =>
      let u := a / 256 * 256 + 256 * i
      decide (u < s.usable) && s.fabric.chFailed.toNat.testBit (s.chanOf u)).map fun i => max a (a / 256 * 256 + 256 * i) / 32 * 32

/-- The first poisoned granule that a range touches: marked as poisoned, or on a channel that failed at run time. -/
def State.poisonIn (s : State) (a n : Nat) : Option Nat :=
  match s.markIn a n with
  | some k => some k
  | none => s.deadIn a n

/-- The first granule of a range whose read returns poisoned data: a poisoned one, or one whose transfer the link has failed (R33). -/
def State.badIn (s : State) (a n : Nat) : Option Nat :=
  match s.poisonIn a n with
  | some k => some k
  | none => s.lostIn false a n

/-! ### Errors of protected words (R433, R436, R489) -/

/-- Source and structure code of a place. -/
def errCodes : Place → Nat × Nat
  | .gddr => (1, 1)
  | .core _ => (2, 2)
  | .hearth _ => (2, 3)
  | .tracker => (8, 9)
  | .ember => (2, 12)
  | _ => (2, 11)

/-! ### The journal in on-chip flash (R387, R435) -/

/-- The CRC32C of a copy's generation count and words. -/
def journalCrc (gen : Nat) (words : List Nat) : W32 := BitVec.ofNat 32 (crc32c (leBytes 4 gen ++ words.flatMap (leBytes 8)))

/-- The CRC of a copy holds. -/
def copyHolds (c : JournalCopy) : Bool := c.crc == journalCrc c.gen c.words

/-- What a reader takes from a record: the words of its newest copy whose CRC holds. -/
def recordRead (r : JournalRecord) : Option (List Nat) :=
  match r.newer.filter copyHolds with
  | some c => some c.words
  | none => (r.older.filter copyHolds).map (·.words)

/-- A record written: the new copy takes the place of the one that a reader does not take, at the next generation. -/
def recordWrite (words : List Nat) (r : JournalRecord) : JournalRecord :=
  let keep := match r.newer.filter copyHolds with
    | some c => some c
    | none => r.older.filter copyHolds
  let gen := ((r.newer.map (·.gen)).getD 0 + 1) % 2 ^ 32
  { newer := some ⟨gen, words, journalCrc gen words⟩, older := keep }

/-- A copy whose CRC fails from now on. -/
def copyBroken (c : JournalCopy) : JournalCopy := { c with crc := ~~~(journalCrc c.gen c.words) }

/-- The copy written last of a record, or the other one, breaks. -/
def recordBreak (newer : Bool) (r : JournalRecord) : JournalRecord :=
  if newer then { r with newer := r.newer.map copyBroken } else { r with older := r.older.map copyBroken }

/-- A record of the journal changes. -/
def modJournal (n : JournalName) (k : JournalRecord → JournalRecord) (s : State) : State :=
  match n with
  | .counters => { s with boot := { s.boot with counters := k s.boot.counters } }
  | .repairMap => { s with boot := { s.boot with mapRecord := k s.boot.mapRecord } }
  | .margin => { s with boot := { s.boot with marginRecord := k s.boot.marginRecord } }

/-- A record of the journal is written; a reset before the next tick can interrupt it (log 13). -/
def journalWrite (n : JournalName) (words : List Nat) (s : State) : State :=
  let s := modJournal n (recordWrite words) s
  { s with boot := { s.boot with writing := some n } }

/-- A reset meets a journal write in progress: it may leave the new copy broken (R435, R481). Which it is, is free: log 13. -/
def journalTear (s : State) : State :=
  match s.boot.writing with
  | none => s
  | some n =>
    let t := { s with boot := { s.boot with writing := none }, free := s.free + 1 }
    if Config.journalCut s.free then modJournal n (recordBreak true) t else t

/-- A word is entered in the repair map, once, and the map is written to the journal (R436). -/
def repairAdd (s : State) (k : Nat) : State :=
  if s.boot.repairMap.contains k then s
  else
    let s := { s with boot := { s.boot with repairMap := s.boot.repairMap ++ [k] } }.addSat (Reg.relCnt 9) 31 0 1
    journalWrite .repairMap s.boot.repairMap s

/-- An uncorrectable error is met at a word or sector: counted, logged and entered in the repair map. -/
def errUncorrectable (s : State) (k : Nat) : State :=
  let (src, code) := errCodes (s.placeOf k)
  let s := s.addSat (Reg.relCnt (if src = 1 then 1 else 4)) 31 0 1
  repairAdd (report s src 2 (k % 2 ^ 32) (k / 2 ^ 32) code) k

/-- 24 hours in nanoseconds. -/
def dayNs : Nat := 86400000000000

/-- A word that has a corrected error for the third time within 24 hours enters the repair map (R436). -/
def thirdInDay (s : State) (k : Nat) : State :=
  let now := s.clock.timeF.toNat
  let ts := now :: (tget [] s.fabric.corrected k).filter fun t => decide (now < t + dayNs)
  let s := { s with fabric := { s.fabric with corrected := tset [] s.fabric.corrected k (ts.take 3) } }
  if 3 ≤ ts.length then repairAdd s k else s

/-- A corrected error: counted, logged, and entered in the repair map at the third one within 24 hours. -/
def errCorrected (s : State) (k : Nat) : State :=
  let (src, code) := errCodes (s.placeOf k)
  let s := s.addSat (Reg.relCnt (if src = 1 then 0 else 3)) 31 0 1
  thirdInDay (report s src 1 (k % 2 ^ 32) (k / 2 ^ 32) code) k

/-- The key in the repair map of a word that no address reaches: above every address (R489). -/
def insideKey (code inst off : Nat) : Nat := (code * 64 + inst) * 2 ^ 40 + off

/-- What is found in the word at byte `off` of an instance of a structure that no address reaches (R433, R489): counted in REL_CNT `k` or `k` + 1,
logged under the structure's source, and entered in the repair map as R436 says. -/
def eccInside (k src code inst off : Nat) (found : EccFound) (s : State) : State :=
  match found with
  | .clean => s
  | .single => thirdInDay (report (s.addSat (Reg.relCnt k) 31 0 1) src 1 off inst code) (insideKey code inst off)
  | .uncorrectable => repairAdd (report (s.addSat (Reg.relCnt (k + 1)) 31 0 1) src 2 off inst code) (insideKey code inst off)

/-- What a read of on-chip flash finds in the word at byte `off` of the 8 MiB. -/
def flashFinds (off : Nat) (found : EccFound) (s : State) : State := eccInside 7 0x0A 14 0 off found s

/-- The bytes of a range and the poisoned granule it met, with the access counted and an uncorrectable word logged; a transfer that the link
has failed returns poisoned data once. -/
def devRead (ag : Agent) (s : State) (a n : Nat) : State × List Byte × Option Nat :=
  let s' := countAccess ag false s a n
  match s.markIn a n with
  | some k => (errUncorrectable s' k, mread s.mem a n, some k)
  | none =>
    match s.lostIn false a n with
    | some k => (s'.lostTaken false a n, mread s.mem a n, some k)
    | none => (s', mread s.mem a n, s.deadIn a n)

/-- Granules that a write covers whole lose their poison (R35, R440). -/
def State.unpoison (s : State) (a n : Nat) : Tab Bool :=
  s.poison.filter fun (k, _) => !(decide (a ≤ k) && decide (k + s.granule k ≤ a + n))

/-- Stores bytes sector by sector: a sector of a failed channel is dropped and logged (R448), and one whose transfer the link has failed is
dropped (R33). -/
def storeSectors : Nat → State → Nat → List Byte → State
  | 0, s, _, _ => s
  | f + 1, s, a, bs =>
    match bs with
    | [] => s
    | b :: t =>
      let m := min (t.length + 1) (32 - a % 32)
      let part := (b :: t).take m
      let s' :=
        if decide (a < s.usable) && s.fabric.chFailed.toNat.testBit (s.chanOf a) then
          report s 0x01 0x10 a (a / 2 ^ 32) (s.chanOf a)
        else if (s.lostIn true a m).isSome then s.lostTaken true a m
        else { s with mem := mwrite s.mem a part, poison := s.unpoison a m }
      storeSectors f s' (a + m) ((b :: t).drop m)

/-- The sectors of GDDR6 that a write covers in part. -/
def partSectors (a n : Nat) : List Nat :=
  let x := a / 32 * 32
  let y := (a + n) / 32 * 32
  (if a % 32 ≠ 0 ∧ n ≠ 0 then [x] else []) ++ (if (a + n) % 32 ≠ 0 ∧ n ≠ 0 ∧ (x ≠ y ∨ a % 32 = 0) then [y] else [])

/-- The read of a read-modify-write meets a poisoned sector: it is logged, and the sector stays poisoned (R35). -/
def rmwErrors (s : State) (a n : Nat) : State :=
  if a < s.usable then (partSectors a n).foldl (fun s k => if tget false s.poison k then errUncorrectable s k else s) s else s

/-- A device write of bytes to a physical range. -/
def devWrite (ag : Agent) (s : State) (a : Nat) (bs : List Byte) : State :=
  let s := rmwErrors (countAccess ag true s a bs.length) a bs.length
  if s.fabric.chFailed = 0 ∧ s.fabric.lost = [] then { s with mem := mwrite s.mem a bs, poison := s.unpoison a bs.length }
  else storeSectors (bs.length / 32 + 2) s a bs

/-- The `n`-byte little-endian number at a physical address. -/
def State.num (s : State) (a n : Nat) : Nat := mnat s.mem a n

/-! ### Writes to host memory and MSI-X -/

/-- A posted write to host memory (R60), or a counted drop while the link is down (R370). -/
def hostWrite (s : State) (a : Nat) (bs : List Byte) : State :=
  if s.hif.linkUp then bump { s with hostMem := mwrite s.hostMem a bs } 89 bs.length
  else
    let s := s.addSat Reg.hifHdrop 31 0 1
    if s.hif.outage then s
    else
      let s := report s 0x04 0x31 (s.fld Reg.hifLink 2 0) (s.fld Reg.hifLink 7 3) 0
      { s with hif := { s.hif with outage := true } }

/-- Key of a dword of the MSI-X table. -/
def msixKey (f v d : Nat) : Nat := 8192 * f + 4 * v + d

/-- The reset value of a dword of the MSI-X table: masked, all else 0 (log 10: PRESUMED, the PCI Express standard). -/
def msixReset (k : Nat) : W32 := if k % 4 = 3 then 1 else 0

/-- A dword of the MSI-X table. -/
def State.msixGet (s : State) (k : Nat) : W32 :=
  match tfind s.hif.msix k with
  | some v => v
  | none => msixReset k

/-- A dword of the MSI-X table replaced. -/
def State.msixSet (s : State) (k : Nat) (v : W32) : State :=
  { s with hif := { s.hif with msix := if v = msixReset k then terase s.hif.msix k else tput s.hif.msix k v } }

/-- The message of a vector: one posted write of its data to its address. -/
def sendMsix (s : State) (f v : Nat) : State :=
  let a := (s.msixGet (msixKey f v 0)).toNat + 2 ^ 32 * (s.msixGet (msixKey f v 1)).toNat
  let d := (s.msixGet (msixKey f v 2)).toNat
  let s := hostWrite s a (leBytes 4 d)
  { s with hif := { s.hif with sent := tmod 0 s.hif.sent (2048 * f + v) (· + 1) } }

/-- An interrupt event on vector `v` of function `f` (R368): one message, or a pending bit while it is masked. -/
def raiseMsix (s : State) (f v : Nat) : State :=
  if (s.msixGet (msixKey f v 3)).toNat.testBit 0 then
    { s with hif := { s.hif with pend := tset false s.hif.pend (2048 * f + v) true } }
  else sendMsix s f v

/-! ### Accesses of the Mantel's engines -/

/-- Bytes that an engine of the Mantel reads, and the poisoned granule it met; zeros, uncounted, where nothing is implemented. DESIGN CHOICE,
log 60. -/
def engRead (s : State) (a n : Nat) : State × List Byte × Option Nat :=
  if s.rangePlace a n = .none then (s, List.replicate n 0, none) else devRead .mantel s a n

/-- Bytes that an engine of the Mantel writes: dropped as a violation, recorded with PART 0, where nothing is implemented or the place is
read-only. DESIGN CHOICE, log 60. -/
def engWrite (s : State) (a : Nat) (bs : List Byte) : State :=
  match s.rangePlace a bs.length with
  | .none => viol s a 4 0
  | pl => if readOnlyPlace pl then viol s a 5 0 else devWrite .mantel s a bs

/-- A write to a ring or block that lies in host memory or in device memory. -/
def spaceWrite (s : State) (host : Bool) (a : Nat) (bs : List Byte) : State := if host then hostWrite s a bs else engWrite s a bs

/-! ### Status bits (R359, R362) -/

/-- Bit `b` of GLB_STATUS takes `v`; a change sets bit b of HIF_NOTE, and a bit newly set there raises PF vector 1. -/
def setStatus (s : State) (b : Nat) (v : Bool) : State :=
  if s.bit Reg.glbStatus b = v then s
  else
    let s := s.setBit Reg.glbStatus b v
    if s.bit Reg.hifNote b then s else raiseMsix (s.setBit Reg.hifNote b true) 0 1

/-- The device asks to be replaced: DEGRADED, REPLACE_REQUESTED and REPLACE_N (R448). -/
def degrade (s : State) : State :=
  let s := setStatus (setStatus s 3 true) 2 true
  { s with pins := { s.pins with replaceLow := true } }

/-- A fresh number for free values. -/
def State.fresh (s : State) : Nat × State := (s.free, { s with free := s.free + 1 })

/-- PWR_STATUS.STATE (R432). -/
def State.pwrState (s : State) : Nat := s.fld Reg.pwrStatus 41 40

/-- Doorbells are dropped and counted: before READY (R25), and in DEEP_IDLE (R425). -/
def State.noBells (s : State) : Bool := !s.ready || s.pwrState == 1

/-! ### Snuff: writes that wait for the resume (R468) -/

/-- The function of a host write that starts an action (R468). -/
def writerOf : Instr → Option Fn
  | .fsyncWordA fn _ _ => some fn
  | .fsyncWordB fn _ _ => some fn
  | .mediaDoorbell fn _ _ _ => some fn
  | .encodeSubmit fn _ _ => some fn
  | .mediaOpen fn _ => some fn
  | .mediaOpenEnc fn _ => some fn
  | .mediaClose fn _ => some fn
  | .mediaFlush fn _ => some fn
  | .mediaSkipToRap fn _ => some fn
  | .mediaForceIdr fn _ => some fn
  | .releaseOut fn _ => some fn
  | .releaseHold fn _ => some fn
  | .ingestEnable fn _ _ => some fn
  | .ingestDisable fn _ => some fn
  | .ingestDoorbell fn _ _ => some fn
  | .ingestEos fn _ _ => some fn
  | .slotDone fn _ _ => some fn
  | .rowDone fn _ _ => some fn
  | .reconReq fn _ _ _ => some fn
  | .invPartition fn _ => some fn
  | .invRange fn _ => some fn
  | .invSlot fn _ _ => some fn
  | .queueDoorbell fn _ _ => some fn
  | .enable fn _ => some fn
  | .disable fn _ => some fn
  | .cancel fn _ => some fn
  | .resume fn _ => some fn
  | .resumeSkip fn _ => some fn
  | .semopAdd fn _ _ => some fn
  | .semopSet fn _ _ => some fn
  | .shapeRingWrite fn _ _ => some fn
  | .shapeDoorbell fn _ _ => some fn
  | .bind fn _ => some fn
  | .unbind fn _ => some fn
  | .clear fn _ => some fn
  | .trackRingWrite fn _ _ => some fn
  | .trackDoorbell fn _ _ => some fn
  | .trackMdb fn _ _ => some fn
  | .registerWrite fn _ _ => some fn
  | _ => none

/-- The low half that BAR0 holds for a function is discarded by its next BAR0 write, a violation of its own (R355). -/
def State.dropHeld (s : State) (fn : Fn) : State :=
  match tfind s.hif.held fn.num with
  | some h => viol { s with hif := { s.hif with held := terase s.hif.held fn.num } } h.off 7 (s.violPart fn)
  | none => s

/-- Bytes of a host write that starts an action: the register's, or those of a BAR4 write. -/
def writeBytes : Instr → Nat
  | .mediaOpen _ _ => 4
  | .mediaOpenEnc _ _ => 4
  | .mediaClose _ _ => 4
  | .mediaFlush _ _ => 4
  | .mediaSkipToRap _ _ => 4
  | .mediaForceIdr _ _ => 4
  | .releaseOut _ _ => 4
  | .releaseHold _ _ => 4
  | .invPartition _ _ => 4
  | .invRange _ _ => 4
  | .invSlot _ _ _ => 4
  | .enable _ _ => 4
  | .disable _ _ => 4
  | .cancel _ _ => 4
  | .resume _ _ => 4
  | .resumeSkip _ _ => 4
  | .shapeDoorbell _ _ _ => 4
  | .bind _ _ => 4
  | .unbind _ _ => 4
  | .clear _ _ => 4
  | .trackDoorbell _ _ _ => 4
  | .queueDoorbell _ _ bs => bs.length
  | _ => 8

/-- A host write arrives: its bytes are counted (R460), and a half that BAR0 holds is discarded, but by a queue doorbell, which is a write of
BAR4. -/
def State.beforeWrite (s : State) (i : Instr) : State :=
  let s := bump s 88 (writeBytes i)
  match i with
  | .queueDoorbell _ _ _ => s
  | _ => match writerOf i with
    | some fn => s.dropHeld fn
    | none => s

/-! ### Function-level resets that have not ended (R369) -/

/-- Work of a partition that a function-level reset has stopped is still in progress: the shaper's operation, a tracker stream that leaves after
the op in progress, or a media stream that closes. -/
def partDrains (s : State) (p : Nat) : Bool :=
  let part := fun (par : List Byte) => nbits (leAt par 2 1) 3 0
  (s.shaper.run.any fun r => r.ring && r.part == p) || (s.track.bound.any fun x => x.2.leaving && part x.2.par == p) ||
  s.media.streams.any fun x => x.2.closing && part x.2.par == p

/-- Function-level resets whose partitions have drained are over. -/
def flrSettle (s : State) : State := { s with hif := { s.hif with flr := s.hif.flr.filter fun x => x.2.any (partDrains s) } }

/-- The function-level reset of a function has not ended: its doorbells and register writes are dropped, without being counted (step 1 of R369). -/
def State.inFlr (s : State) (fn : Fn) : Bool :=
  match tfind s.hif.flr fn.num with
  | some ps => ps.any (partDrains s)
  | none => false

/-- A host write of `n` bytes reaches the registers of its function, unless a function-level reset has not ended. -/
def pastFlr (fn : Fn) (k : State → State) (s : State) : State := if (flrSettle s).inFlr fn then flrSettle s else k (flrSettle s)

/-- A BAR0 write of `n` bytes that acts at once. -/
def bar0 (fn : Fn) (n : Nat) (s : State) (k : State → State) : Out :=
  live s fun s => pastFlr fn (fun s => k (s.dropHeld fn)) (bump s 88 n)


/-- A doorbell of a descriptor queue or of a stream (R25). -/
def isBell : Instr → Bool
  | .mediaDoorbell _ _ _ _ => true
  | .encodeSubmit _ _ _ => true
  | .ingestDoorbell _ _ _ => true
  | .ingestEos _ _ _ => true
  | .slotDone _ _ _ => true
  | .rowDone _ _ _ => true
  | .queueDoorbell _ _ _ => true
  | .shapeDoorbell _ _ _ => true
  | .trackDoorbell _ _ _ => true
  | .trackMdb _ _ _ => true
  | .registerWrite _ r _ => decide (Reg.ingestRing 0 ≤ r) && decide (r < Reg.ingestRing 16) && (r - Reg.ingestRing 0) % 0x40 != 0
  | _ => false

/-- A write whose function is being reset (R369) is dropped, and any other is given to `k`. -/
def writerPasses (i : Instr) (k : State → State) (s : State) : State :=
  match writerOf i with
  | some fn => pastFlr fn k s
  | none => k s

/-- A host write that starts an action: recorded while Snuff is in force, stopping or resuming, else done. A doorbell that is dropped and counted
in either case is dropped at once (R25, R425). -/
def orRecord (i : Instr) (k : State → State) (s : State) : State :=
  writerPasses i (fun s =>
    if s.stopped && !(isBell i && s.noBells) then { s with dbg := { s.dbg with recorded := s.dbg.recorded ++ [i] } } else k s) (s.beforeWrite i)

/-- An event of an engine that Snuff stops (R467, R473): nothing happens unless the device runs. -/
def running (s : State) (k : State → State) : Out := live s fun s => if s.stopped then s else k s

/-- CAUSE, ORIGIN and QUEUE of a trigger (R466). -/
def snuffCause (cause origin queue : Nat) (s : State) : State :=
  ((s.setFld Reg.dbgSnuff 18 16 cause).setFld Reg.dbgSnuff 27 24 origin).setFld Reg.dbgSnuff 47 32 queue

/-- A trigger is recorded with its time and logged (R466). -/
def snuffRecord (cause origin queue : Nat) (s : State) : State :=
  report ((snuffCause cause origin queue s).setReg Reg.dbgSnuffTime s.clock.timeF) 0x0D 0xA0 cause origin queue

/-- A trigger of a lower CAUSE in the same F-clock takes the place of the one recorded, and of its log entry where that waits still (R466). The model
takes triggers with the same T-tick for triggers in the same F-clock. DEDUCED, log 32. -/
def snuffAmend (cause origin queue : Nat) (s : State) : State :=
  let fix := fun (r : Report) =>
    if r.code = 0xA0 ∧ r.time = s.clock.timeF then { r with a0 := BitVec.ofNat 32 cause, a1 := BitVec.ofNat 32 origin, a2 := BitVec.ofNat 32 queue } else r
  let s := snuffCause cause origin queue s
  { s with ember := { s.ember with queues := tset [] s.ember.queues 0x0D ((tget [] s.ember.queues 0x0D).map fix) } }

/-- The stop order begins (R467), or in DEEP_IDLE Snuff is in force at once; SNUFF_N is driven (R469), and the number of the image's free words is fixed
up to the resume (R473). -/
def snuffStart (s : State) : State :=
  let d := Reg.dbgSnuff
  let (k, s) := s.fresh
  let s := { s with dbg := { s.dbg with scanRun := k } }
  let s := if s.bit d 3 then { s with pins := { s.pins with snuffDrive := true, snuffArmed := false } } else s
  if s.pwrState = 1 then setStatus (s.setFld d 9 8 2) 5 true else s.setFld d 9 8 1

/-- Snuff is triggered (R466, R467). A trigger under Snuff, or behind one that waits, changes nothing but a CAUSE of the same F-clock; one in WAKING is
recorded and waits for the end of the wake, but for a trip, which does not wait. -/
def snuffTrigger (cause origin queue : Nat) (s : State) : State :=
  if s.dbg.waiting && cause == 6 then snuffStart (snuffRecord 6 origin queue { s with dbg := { s.dbg with waiting := false } })
  else if s.stopped || s.dbg.waiting then
    (if s.reg Reg.dbgSnuffTime = s.clock.timeF ∧ cause < s.fld Reg.dbgSnuff 18 16 ∧ s.fld Reg.dbgSnuff 9 8 ≠ 3 then snuffAmend cause origin queue s else s)
  else
    let s := snuffRecord cause origin queue s
    if s.pwrState = 2 ∧ cause ≠ 6 then { s with dbg := { s.dbg with waiting := true } } else snuffStart s

end Sys2Proof.Machine
end

