-- ==== Sys2Proof/Machine/Power.lean ====
section
/-!
DEFINITION. The Damper: power windows and the limiter (R410, R415 to R417), the A-clock target and its sequencer (R412,
R413, R479), droop (R418), heat and the trip (R419 to R421), the firmware loops (R422, R427, R428), the margin (R426, R429)
and energy (R430, R431). Sensor readings and modelled energies come with the commands.
-/
namespace Sys2Proof.Machine

/-! ### Voltage and margin -/

/-- M_n in mV. -/
def State.marginMv (s : State) (n : Nat) : Nat := 5 * s.fld Reg.pwrMargin (8 * n + 7) (8 * n)

/-- V_n(f) in mV (R413), held at 850 where no frequency qualifies (R429). -/
def State.vOf (s : State) (n f : Nat) : Nat := min 850 (max 550 (Config.vcal n f + s.marginMv n))

/-- Sends the setpoints V_n(f) of all four rails. -/
def setRails (f : Nat) (s : State) : State :=
  (List.range 4).foldl (fun s n => s.setFld Reg.pwrVolt (10 * n + 9) (10 * n) (s.vOf n f)) s

/-- Hearths with a core in service. -/
def State.hearthsIn (s : State) : List Nat :=
  (List.range 4).filter fun n => s.fld Reg.glbCaps2 (31 - 4 * (3 - n)) (16 + 4 * n) != 0

/-- Multiples of 25 MHz from 300 to 900, highest first. -/
def aclkMenu : List Nat := (List.range 25).map fun i => 900 - 25 * i

/-- The highest frequency at which Hearth n needs at most 0.85 V. -/
def State.susOf (s : State) (n : Nat) : Option Nat :=
  aclkMenu.find? fun f => decide (Config.vcal n f + s.marginMv n ≤ 850)

/-- F_SUS of R429: the highest frequency at which every Hearth in service needs at most 0.85 V; none when there is no such frequency. -/
def State.fSus (s : State) : Option Nat :=
  aclkMenu.find? fun f => s.hearthsIn.all fun n => decide (Config.vcal n f + s.marginMv n ≤ 850)

/-- The Hearth that a log entry of R429 names: the lowest one that does not allow the next step above F_SUS. DESIGN CHOICE, log 52. -/
def State.susHearth (s : State) (f : Nat) : Nat :=
  ((s.hearthsIn.find? fun n => (s.susOf n).isNone).orElse fun _ =>
    s.hearthsIn.find? fun n => decide (850 < Config.vcal n (f + 25) + s.marginMv n)).getD 0

/-- F_SUS recomputed, with the outcomes of R429 when it changes. -/
def recomputeSus (s : State) : State :=
  let f := s.fSus.getD 300
  if s.fld Reg.pwrStatus 39 30 = f ∧ s.fSus.isSome then s
  else
    let s := s.setFld Reg.pwrStatus 39 30 f
    if 900 ≤ f then s
    else
      let s := report s 0x09 0x53 f (s.susHearth f) 0
      if 750 ≤ f then s
      else
        let lost := s.hearthsIn.filter fun n => (s.susOf n).isNone
        let s := degrade (s.setBit Reg.pwrStatus 45 true)
        { s with boot := { s.boot with nextHearths := s.boot.nextHearths ||| BitVec.ofNat 4 (lost.foldl (fun m n => m + 2 ^ n) 0) } }

/-! ### The A-clock target and its sequencer (R412, R413) -/

/-- F = min(F_REQ, F_CEIL, F_SUS, F_LIM, F_TH). -/
def State.targetF (s : State) : Nat :=
  min (min s.pwr.fReq s.pwr.fCeil) (min (s.fld Reg.pwrStatus 39 30) (min (s.fld Reg.pwrStatus 19 10) (s.fld Reg.pwrStatus 29 20)))

/-- The next step towards the target, from a step boundary: down at once, up once the rails are up, or done with the rails
lowered to V_n(F). -/
def seqNext (s : State) : State :=
  let f := s.fld Reg.pwrStatus 9 0
  let t := s.pwr.target
  if t < f then { s with pwr := { s.pwr with seq := .steps, stepTo := f - 25 } }
  else if f < t then
    if t ≤ s.pwr.railsFor then { s with pwr := { s.pwr with seq := .steps, stepTo := f + 25 } }
    else let s := setRails t s; { s with pwr := { s.pwr with seq := .rails } }
  else let s := setRails f s; { s with pwr := { s.pwr with seq := .idle, railsFor := f } }

/-- The A-clocks run: from step 5 of R24 on, while the Hearth rails are on. -/
def State.clocksUp (s : State) : Bool := s.pins.hpwrEn && decide (5 ≤ s.boot.step) && s.pwrState == 0

/-- The window's target: kept for the start of the A-clocks while they are down (log 52), else taken at once when the sequencer is idle, or when it
cancels or extends a rail wait; else at the next step boundary. -/
def retarget (s : State) : State :=
  let t := s.targetF
  if t = s.pwr.target then s
  else
    let s := { s with pwr := { s.pwr with target := t } }
    if !s.clocksUp then s
    else match s.pwr.seq with
    | .steps => s
    | _ => seqNext s

/-- PLL_STEP_ACK: the step has been taken by all four PLLs. -/
def pllStepAck (s : State) : State :=
  match s.pwr.seq with
  | .steps => seqNext (s.setFld Reg.pwrStatus 9 0 s.pwr.stepTo)
  | _ => s

/-- RAIL_SETTLED: all four rails have settled at V_n(F). -/
def railSettled (s : State) : State :=
  match s.pwr.seq with
  | .rails => seqNext { s with pwr := { s.pwr with railsFor := s.pwr.target } }
  | _ => s

/-- RAIL_SETTLE_TIMEOUT: the raise is abandoned, F_REQ is held at F for 1 s, and the rail is logged (R479). -/
def railTimeout (n : Fin 4) (s : State) : State :=
  match s.pwr.seq with
  | .rails =>
    let f := s.fld Reg.pwrStatus 9 0
    let s := setRails f s
    let s := { s with pwr := { s.pwr with seq := .idle, target := f, railsFor := f, fReq := f, heldFreq := f, heldLoops := 1000 } }
    reportUnnamed s 0x09 0 n.val 0 0
  | _ => s

/-! ### Power windows (R410, R415, R416, R417) -/

/-- Lowers F_LIM by `d` MHz, not below 300, and counts a fall. -/
def lowerLim (d : Nat) (s : State) : State :=
  let f := s.fld Reg.pwrStatus 19 10
  let g := max 300 (f - d)
  if g = f then s
  else
    let s := (s.setFld Reg.pwrStatus 19 10 g).addSat Reg.pwrThrot 15 0 1
    { s with pwr := { s.pwr with sameWindows := 0 } }

/-- The estimate of board power in a window, in units of 10 mW (R410): the rails' mean voltages and currents, and the energies of the channels' counts over
the 40 µs, the sum rounded down as R415 says of its values. DEDUCED, log 52. -/
def windowPower (r : PowerReadings) : Nat :=
  let railsNw := (r.rails.map fun x => x.mv * x.ma * 1000).sum
  let gddrPj := (r.gddr.map fun c => c.activates * Config.gddrPj 0 + c.reads * Config.gddrPj 1 + c.writes * Config.gddrPj 2 +
    c.refreshes * Config.gddrPj 3).sum
  (railsNw + 25 * gddrPj) / 10000000

/-- POWER_WINDOW with an estimate `p` (10 mW): the limiter's row, a grant hold, and the new target. The thresholds are rounded down, as R415 says. -/
def limiterWindow (p : Nat) (s : State) : State :=
  let hist := (p :: s.pwr.hist).take 250
  let ps := hist.sum / hist.length
  let cap := s.fld Reg.pwrPower 47 32
  let s := (s.setFld Reg.pwrPower 31 16 (min p 65535)).setFld Reg.pwrPower 15 0 (min ps 65535)
  let s := { s with pwr := { s.pwr with hist := hist, sameWindows := s.pwr.sameWindows + 1 } }
  let excess := decide (cap * 5 / 4 < p)
  let s :=
    if excess then lowerLim 100 s
    else if cap < p ∧ cap < ps then lowerLim 25 s
    else if p < cap * 95 / 100 ∧ ps < cap * 95 / 100 ∧ 25 ≤ s.pwr.sameWindows ∧ s.fld Reg.pwrStatus 19 10 < 900 then
      let s := s.setFld Reg.pwrStatus 19 10 (min 900 (s.fld Reg.pwrStatus 19 10 + 25))
      { s with pwr := { s.pwr with sameWindows := 0 } }
    else s
  let s := if excess || s.pwr.holdHot then (s.setBit Reg.pwrStatus 44 true).addSat Reg.pwrThrot 47 32 1 else s
  let s := if ps ≤ cap then s.setBit Reg.pwrStatus 43 false else s
  retarget s

/-- POWER_WINDOW: the estimate of the window, and what follows from it. -/
def powerWindow (r : PowerReadings) (s : State) : State := limiterWindow (windowPower r) s

/-- GRANT_HOLD_END: grants resume, except while the hold of DEEP_IDLE lasts, which the wake ends (R424, R425). -/
def grantHoldEnd (s : State) : State := if s.pwrState = 1 ∨ s.pwrState = 2 then s else s.setBit Reg.pwrStatus 44 false

/-- CAP_UNMET: F has stood at 300 MHz with P_S above CAP for 100 ms (R417). -/
def capUnmet (s : State) : State :=
  if s.fld Reg.pwrStatus 9 0 = 300 ∧ s.fld Reg.pwrPower 47 32 < s.fld Reg.pwrPower 15 0 ∧ !s.bit Reg.pwrStatus 43 then
    report (s.setBit Reg.pwrStatus 43 true) 0x09 0x50 (s.fld Reg.pwrPower 15 0) 0 0
  else s

/-! ### Droop and heat -/

/-- DROOP_FIRE: the Hearth's A-clock period doubles; each stretch counts once. -/
def droopFire (n : Fin 4) (s : State) : State :=
  if s.pwr.stretched.toNat.testBit n.val then s
  else { s with pwr := { s.pwr with stretched := s.pwr.stretched ||| BitVec.ofNat 4 (2 ^ n.val) } }.addSat Reg.pwrThrot 63 48 1

/-- DROOP_END: 32 A-clocks after the last detector has cleared. -/
def droopEnd (n : Fin 4) (s : State) : State :=
  { s with pwr := { s.pwr with stretched := s.pwr.stretched &&& ~~~(BitVec.ofNat 4 (2 ^ n.val)) } }

/-- F_TH takes a lower value, counted as a fall. -/
def lowerTh (g : Nat) (s : State) : State :=
  if s.fld Reg.pwrStatus 29 20 ≤ g then s
  else (s.setFld Reg.pwrStatus 29 20 g).addSat Reg.pwrThrot 31 16 1

/-- THERMAL_CEILING_STEP: the 1 ms timer lowers F_TH at 100 °C or above; the 10 ms timer raises it below 97 °C. -/
def thermalStep (s : State) : State :=
  let t := sext 16 (s.fld Reg.pwrTemp1 31 16)
  let f := s.fld Reg.pwrStatus 29 20
  if 800 ≤ t then lowerTh (max 300 (f - 25)) s
  else if t < 776 then s.setFld Reg.pwrStatus 29 20 (min 900 (f + 25))
  else s

/-! ### Firmware loops (R422, R427, R428) -/

/-- The firmware loops run: step 9 reached, firmware alive, no hold of a live update. -/
def State.loopsRun (s : State) : Bool := s.boot.step == 9 && !s.boot.fwStopped && !s.bit Reg.pwrStatus 42

/-- POWER_LOOP: SET_CAP and SET_ACLK_MAX take force, and F_REQ is set: F_CEIL, or the value held under R479. -/
def powerLoop (s : State) : State :=
  if !s.loopsRun then s
  else
    let p := s.pwr
    let ceil := p.ceilNext.getD p.fCeil
    let s := match p.capNext with
      | some c => s.setFld Reg.pwrPower 47 32 c
      | none => s
    { s with pwr := { s.pwr with capNext := none, ceilNext := none, fCeil := ceil
                                 fReq := if p.heldLoops = 0 then ceil else p.heldFreq
                                 heldLoops := p.heldLoops - 1 } }

/-- The frequency that the rails are set for: the target while a raise waits for them (R413). -/
def State.railF (s : State) : Nat :=
  match s.pwr.seq with
  | .rails => s.pwr.target
  | _ => s.pwr.railsFor

/-- The rail of Hearth `n` is raised to what its margin asks for. -/
def raiseRail (s : State) (n : Nat) : State :=
  s.setFld Reg.pwrVolt (10 * n + 9) (10 * n) (max (s.fld Reg.pwrVolt (10 * n + 9) (10 * n)) (s.vOf n s.railF))

/-- MARGIN_LOOP: Hearths with a replica warning take one 5 mV step of M_n, up to 300 mV, their rails rise at once, and F_SUS follows. -/
def marginLoop (warn : BitVec 4) (s : State) : State :=
  if !s.loopsRun then s
  else
    let up := (List.range 4).filter fun n => warn.toNat.testBit n && decide (s.marginMv n < 300)
    if up.isEmpty then s
    else
      let s := up.foldl (fun s n => s.setFld Reg.pwrMargin (8 * n + 7) (8 * n) (s.fld Reg.pwrMargin (8 * n + 7) (8 * n) + 1)) s
      recomputeSus (up.foldl raiseRail (journalWrite .margin [(s.reg Reg.pwrMargin).toNat] s))

/-- A reading that the ageing check may compare with the baseline of Hearth `n`: the same voltage, and within 5 °C of its temperature (R428). -/
def ageComparable (n : Nat) (x : AgeReading) : Bool := x.mv == Config.baseMv n && decide ((x.temp - Config.baseTemp n).natAbs ≤ 40)

/-- The mean ring-oscillator frequency of Hearth `n` has fallen by 5 % or more from the baseline. -/
def ageFallen (n : Nat) (x : AgeReading) : Bool := decide (x.khz * 100 ≤ Config.baseKhz n * 95)

/-- AGEING_CHECK: one log entry for each Hearth whose mean frequency has fallen, as R428 says. Its value is the fall in percent, rounded down. DESIGN CHOICE,
log 52. -/
def ageingCheck (readings : List AgeReading) (s : State) : State :=
  if !s.loopsRun then s
  else (List.range 4).foldl (fun s n =>
    match readings[n]? with
    | some x =>
      if ageComparable n x && ageFallen n x then report s 0x09 0x52 ((Config.baseKhz n - x.khz) * 100 / Config.baseKhz n) n 0 else s
    | none => s) s

/-! ### Energy (R430, R431) -/

/-- The place of an activity in the list of R430. -/
def actNumber : Activity → Nat
  | .steps4 => 0
  | .steps8 => 1
  | .steps16 => 2
  | .matvecClock => 3
  | .elementInstr => 4
  | .coreBank => 5
  | .hearthBank => 6
  | .mantelTransfer => 7
  | .flueTransfer => 8
  | .leakage => 9
  | .gddrTransfer => 10
  | .bitSymbol => 11
  | .pixelSample => 12
  | .encodeSample => 13
  | .ispSample => 14
  | .jpegSample => 15
  | .shaperPixel => 16
  | .ingestByte => 17
  | .trackerUpdate => 18
  | .scrub => 19
  | .retraining => 20
  | .traceLine => 21
  | .remoteTransfer => 22
  | .firmware => 23
  | .mantelStatic => 24
  | .phyStatic => 25
  | .gddrRefresh => 26
  | .gddrStatic => 27

/-- The activities that R430 always charges to the device. -/
def actOfDevice (a : Activity) : Bool := decide (19 ≤ actNumber a)

/-- The partition of a parameter block of a stream, a channel or a bound. -/
def blockPart (par : List Byte) : Nat := nbits (leAt par 2 1) 3 0

/-- The counter that pays for an activity: 0 to 15 a partition, 16 the device (R430). -/
def actPayer (s : State) (x : ActCount) : Nat :=
  if actOfDevice x.act then 16
  else match x.of with
    | .core c => (s.partOfCore c.val).getD 16
    | .stream h => ((tfind s.media.streams h.val).map fun y => blockPart y.par).getD 16
    | .sensor n =>
      let handle := ((s.capture.sensors.map (·.2)).find? fun y => y.idx == n.val).map fun y => nbits y.lo.toNat 22 13
      ((handle.bind fun h => tfind s.media.streams h).map fun y => blockPart y.par).getD 16
    | .channel c => ((tfind s.ingest c.val).map fun y => blockPart y.par).getD 16
    | .ring p => p.val
    | .device => 16

/-- The Hearth of a core event; the device's events have none. -/
def actHearth : ActBy → Nat
  | .core c => c.val / 4
  | _ => 0

/-- The rail of a Hearth in mV. -/
def State.railMv (s : State) (n : Nat) : Nat := s.fld Reg.pwrVolt (10 * n + 9) (10 * n)

/-- The energy of a count, in parts of 562,500 of a pJ (R430): Hearth events scaled by (V_n / 0.75 V)², and leakage by the table's step of 5 °C of the
Hearth's hottest sensor and of 25 mV of its rail. DEDUCED, log 52: a step is taken rounded down. -/
def actEnergy (s : State) (x : ActCount) : Nat :=
  let n := actHearth x.of
  if x.act = .leakage then
    x.count * Config.leakPj (sext 16 (s.fld Reg.pwrTemp0 (16 * n + 15) (16 * n)) / 40) (s.railMv n / 25) * 562500
  else if actNumber x.act < 9 then x.count * Config.energyPj (actNumber x.act) * s.railMv n ^ 2
  else x.count * Config.energyPj (actNumber x.act) * 562500

/-- A counter of R431. -/
def energyReg (i : Nat) : Nat := if i = 16 then Reg.pwrEnergyDev else Reg.pwrEnergy i

/-- Energy is added to a counter in whole microjoules, and the fraction is carried. -/
def energyAdd (s : State) (i e : Nat) : State :=
  let x := tget 0 s.pwr.frac i + e
  let s := s.setReg (energyReg i) (s.reg (energyReg i) + BitVec.ofNat 64 (x / 562500000000))
  { s with pwr := { s.pwr with frac := tset 0 s.pwr.frac i (x % 562500000000) } }

/-- ENERGY_TICK: the activity counts of the last 1 ms are charged. -/
def energyTick (counts : List ActCount) (s : State) : State := counts.foldl (fun t x => energyAdd t (actPayer s x) (actEnergy s x)) s

/-! ### Meanings -/

/-- A meaning of the always-on hardware of the Damper, which runs from step 1 of R24. -/
def damper (s : State) (k : State → State) : Out := gated (!s.inReset) s k

/-- POWER_WINDOW (R415). -/
def execPowerWindow (r : PowerReadings) (s : State) : Out := damper s (powerWindow r)
/-- GRANT_HOLD_END (R416). -/
def execGrantHoldEnd (s : State) : Out := damper s grantHoldEnd
/-- CAP_UNMET (R417). -/
def execCapUnmet (s : State) : Out := damper s capUnmet
/-- THERMAL_CEILING_STEP (R420). -/
def execThermalCeilingStep (s : State) : Out := damper s thermalStep
/-- PLL_STEP_ACK (R413). -/
def execPllStepAck (s : State) : Out := damper s pllStepAck
/-- RAIL_SETTLED (R413). -/
def execRailSettled (s : State) : Out := damper s railSettled
/-- RAIL_SETTLE_TIMEOUT (R479). -/
def execRailSettleTimeout (hearth : Fin 4) (s : State) : Out := damper s (railTimeout hearth)
/-- DROOP_FIRE (R418). -/
def execDroopFire (hearth : Fin 4) (s : State) : Out := damper s (droopFire hearth)
/-- DROOP_END (R418). -/
def execDroopEnd (hearth : Fin 4) (s : State) : Out := damper s (droopEnd hearth)
/-- POWER_LOOP (R422). -/
def execPowerLoop (s : State) : Out := live s powerLoop
/-- MARGIN_LOOP (R427). -/
def execMarginLoop (warnings : BitVec 4) (s : State) : Out := live s (marginLoop warnings)
/-- AGEING_CHECK (R428). -/
def execAgeingCheck (readings : List AgeReading) (s : State) : Out := live s (ageingCheck readings)
/-- ENERGY_TICK (R430). -/
def execEnergyTick (counts : List ActCount) (s : State) : Out := damper s (energyTick counts)

end Sys2Proof.Machine
end

