-- ==== Sys2Proof/Machine/Boot.lean ====
section
/-!
DEFINITION. Boot and trust: containers and their checks (R388 to R390), copying block by block (R391, R392), slot choice
(R395), measurements and the event log (R403, R404), Stage 0 (R397, R398), Stage 1 (R399, R400) and SEC_PUSH (R401).
-/
namespace Sys2Proof.Machine

/-! ### Containers (R388, R389) -/

def allZero (bs : List Byte) : Bool := bs.all (· == 0)

/-- PAYLOAD_LEN, BLOCKS and other header fields of a container's first 4,096 bytes. -/
def hdrLen (h : List Byte) : Nat := leAt h 16 4
def hdrVersion (h : List Byte) : Nat := leAt h 8 4
def hdrBlocks (h : List Byte) : Nat := cdiv (hdrLen h) 65536
/-- DIGEST_i of the manifest. -/
def hdrDigest (h : List Byte) (i : Nat) : BitVec 512 := toB512 ((h.drop (768 + 64 * i)).take 64)

/-- A container is structurally sound (R389): its first 4,096 bytes, its place's KIND and the bytes its place offers. -/
def sound (kind limit : Nat) (h : List Byte) : Bool :=
  decide (4096 ≤ limit) && leAt h 0 4 == 0x4D495746 && leAt h 4 2 == 1 && leAt h 6 1 == kind && leAt h 7 1 == 0 &&
  leAt h 124 4 == crc32c (h.take 124) &&
  allZero ((h.drop 28).take 96) && allZero ((h.drop 644).take 124) &&
  decide (1 ≤ hdrLen h ∧ hdrLen h ≤ (if kind = 2 then 786432 else 262144)) &&
  (if kind = 3 then leAt h 20 4 == 0 else leAt h 20 4 % 4 == 0 && decide (leAt h 20 4 < hdrLen h)) &&
  decide (leAt h 12 4 ≤ hdrVersion h) &&
  (if kind = 2 then decide (leAt h 26 2 ≤ leAt h 24 2) else leAt h 24 4 == 0) &&
  decide (4096 + hdrLen h ≤ limit)

/-- Checks 1 to 3 of R390: the first that fails, or 0. -/
def manifestCause (counter : Nat) (h : List Byte) : Byte :=
  let m := 768 + 64 * hdrBlocks h
  if hdrVersion h < counter then 1
  else if sha ((h.drop 128).take 516) ≠ Config.rootKeyHash then 2
  else if !pssVerify ((h.drop 128).take 512) (leAt h 640 4) (h.take m) ((h.drop m).take 512) then 3
  else 0

/-- The image measurement (R403): header bytes 0 to 123 and the computed digests. -/
def imageMeasure (h : List Byte) (digests : List (BitVec 512)) : BitVec 512 :=
  sha (h.take 124 ++ digests.flatMap ofB512)

/-- The image that a container's header describes. -/
def imageOf (h : List Byte) (bank : BitVec 1) (source cause : Byte) (digests : List (BitVec 512)) : Image :=
  { version := BitVec.ofNat 32 (hdrVersion h), arbSet := BitVec.ofNat 32 (leAt h 12 4), entry := BitVec.ofNat 32 (leAt h 20 4)
    blobOut := BitVec.ofNat 16 (leAt h 24 2), blobMin := BitVec.ofNat 16 (leAt h 26 2), bank := bank, source := source
    cause := cause, measure := imageMeasure h digests }

/-- Blocks of a payload, 64 KiB each but the last. -/
def blocksOf : Nat → List Byte → List (List Byte)
  | 0, _ => []
  | n + 1, p => p.take 65536 :: blocksOf n (p.drop 65536)

/-- A container verified and copied at once: its digests and CAUSE (R390). -/
def verifyWhole (counter : Nat) (poisoned : Bool) (c : List Byte) : List (BitVec 512) × Byte :=
  let h := padTo 4096 c
  let payload := (c.drop 4096).take (hdrLen h)
  let ds := (blocksOf (hdrBlocks h) payload).map sha
  let bad := (List.range (hdrBlocks h)).any fun i => decide (ds.getD i 0 ≠ hdrDigest h i)
  let m := manifestCause counter h
  (ds, if m ≠ 0 then m else if bad then 4 else if poisoned then 5 else 0)

/-- The anti-rollback counter of a KIND (R396). -/
def State.arb (s : State) (kind : Nat) : Nat :=
  if kind = 1 then s.fld Reg.secArb0 31 0 else if kind = 2 then s.fld Reg.secArb0 63 32 else s.fld Reg.secArb1 31 0

/-! ### Measurements (R403, R404) -/

/-- The 64 bytes of measurement register `n`. -/
def State.meas (s : State) (n : Nat) : List Byte :=
  (List.range 8).flatMap fun i => leBytes 8 (s.reg (Reg.secMeas n + 8 * i)).toNat

/-- Measurement register `n` replaced. -/
def setMeas (s : State) (n : Nat) (x : BitVec 512) : State :=
  (List.range 8).foldl (fun s i => s.setReg (Reg.secMeas n + 8 * i) (x.extractLsb' (64 * i) 64)) s

/-- Takes the first entry that satisfies `p` out of a list. -/
def dropFirst {α : Type} (p : α → Bool) : List α → List α
  | [] => []
  | x :: xs => if p x then xs else x :: dropFirst p xs

/-- One entry appended to the event log; a full log loses its oldest host entry, or else its oldest entry of M4 to M6. -/
def logEvent (s : State) (e : EvEntry) : State :=
  let b := s.boot
  if b.evLog.length < 256 then { s with boot := { b with evLog := b.evLog ++ [e] } }
  else if b.evLog.any (fun x => x.reg == 7) then
    { s with boot := { b with evLog := dropFirst (fun x => x.reg == 7) b.evLog ++ [e], hostLost := b.hostLost + 1 } }
  else
    { s with boot := { b with evLog := dropFirst (fun x => decide (4 ≤ x.reg.toNat)) b.evLog ++ [e], devLost := b.devLost + 1 } }

/-- Extends Mn with x: SHA-512(M ∥ x), and appends the log entry. -/
def extendM (s : State) (n : Nat) (x : BitVec 512) (kind source cause : Byte) (version : W32) : State :=
  logEvent (setMeas s n (sha (s.meas n ++ ofB512 x))) ⟨BitVec.ofNat 3 n, kind, source, cause, version, s.clock.timeC, x⟩

/-- The verification record (R403). -/
def verRecord (kind source cause : Byte) (version : W32) : List Byte :=
  [kind, source, cause, 0] ++ leBytes 4 version.toNat ++ List.replicate 56 0

/-- The image's own register and M4 extended after a verification. -/
def measureImage (s : State) (n : Nat) (kind : Byte) (im : Image) : State :=
  let s := extendM s n im.measure kind im.source im.cause im.version
  extendM s 4 (sha (verRecord kind im.source im.cause im.version)) 5 im.source im.cause im.version

/-- The key vault locks (R394). -/
def lockVault (s : State) : State := (setStatus s 1 true).setBit Reg.secBootstat 11 true

/-- A verification that has failed is reported (R443): the KIND of what was verified and the CAUSE. -/
def verifyFailed (s : State) (kind : Nat) (cause : Byte) : State := if cause = 0 then s else reportUnnamed s 0x0A 3 kind cause.toNat 0

/-- Bit `k` of FAIL, the vault lock and the report, when a container has failed. -/
def noteFailure (s : State) (k : Nat) (cause : Byte) : State :=
  if cause = 0 then s else verifyFailed (lockVault (s.setBit Reg.secBootstat (8 + k) true)) (k + 1) cause

/-! ### Slot choice (R395) and the NVM directory (R375) -/

/-- Chooses between two slots by structure and VERSION: none, some false for A, some true for B. -/
def chooseSlot (kind : Nat) (limitA limitB : Nat) (a b : List Byte) : Option Bool :=
  match sound kind limitA a, sound kind limitB b with
  | true, true => some (decide (hdrVersion a < hdrVersion b))
  | true, false => some false
  | false, true => some true
  | false, false => none

/-- An entry of the NVM directory. -/
structure NvmEntry where
  kind : Nat
  off : Nat
  len : Nat
deriving DecidableEq, Repr

/-- Entry `e` of the directory as it stands. -/
def State.nvmRaw (s : State) (e : Nat) : NvmEntry :=
  let a := 64 + 32 * e
  ⟨mnat s.boot.nvm a 2, mnat s.boot.nvm (a + 4) 4, mnat s.boot.nvm (a + 8) 4⟩

/-- MAGIC, VERSION, ENTRIES and DCRC hold. -/
def State.nvmDirOk (s : State) : Bool :=
  let m := s.boot.nvm
  let n := mnat m 6 2
  mnat m 0 4 == 0x44564E46 && mnat m 4 2 == 1 && decide (n ≤ 62) &&
  mnat m 12 4 == crc32c (mread m 0 12 ++ mread m 64 (32 * n))

/-- Entry `e` keeps the rules of R375 against the entries of the directory. -/
def State.nvmEntryOk (s : State) (n e : Nat) : Bool :=
  let x := s.nvmRaw e
  let a := 64 + 32 * e
  decide (1 ≤ x.kind ∧ x.kind ≤ 4) && mnat s.boot.nvm (a + 2) 2 == 0 && allZero (mread s.boot.nvm (a + 12) 20) &&
  x.off % 4096 == 0 && decide (4096 ≤ x.off ∧ x.off + x.len ≤ s.boot.nvmSize) &&
  (List.range n).all fun f =>
    let y := s.nvmRaw f
    f == e || ((x.kind == 4 || x.kind != y.kind || decide (e < f)) && (decide (x.off + x.len ≤ y.off) || decide (y.off + y.len ≤ x.off)))

/-- The directory's usable entries, by index; empty when the directory is invalid. -/
def State.nvmDir (s : State) : List (Nat × NvmEntry) :=
  if s.nvmDirOk then
    let n := mnat s.boot.nvm 6 2
    ((List.range n).filter (s.nvmEntryOk n)).map fun e => (e, s.nvmRaw e)
  else []

/-- The reports of the ignored entries (R375). -/
def nvmReports (s : State) : State :=
  if s.nvmDirOk then
    let n := mnat s.boot.nvm 6 2
    ((List.range n).filter fun e => !s.nvmEntryOk n e).foldl (fun t e => reportUnnamed t 0x0A 0 e 0 0) s
  else s

/-- The region of a KIND in the NVM directory. -/
def State.nvmKind (s : State) (k : Nat) : Option NvmEntry :=
  ((s.nvmDir.find? fun x => x.2.kind == k).map (·.2))

/-! ### Loading block by block (R391) -/

/-- The bytes at offset `o` of a loader's source. -/
def Loader.read (l : Loader) (s : State) (o n : Nat) : List Byte :=
  if l.fromNvm then mread s.boot.nvm (l.base + o) n else mread s.mem (l.base + o) n

/-- The read of a range of a loader's source meets a poisoned sector. -/
def Loader.poison (l : Loader) (s : State) (o n : Nat) : Bool :=
  !l.fromNvm && (s.badIn (l.base + o) n).isSome

/-- Transfers of a range of device memory that the link has failed are over once the range has been read (R33). -/
def loaderTaken (s : State) (l : Loader) (o n : Nat) : State := if l.fromNvm then s else s.lostTaken false (l.base + o) n

/-- A loader for the container at a place, after the manifest checks. -/
def startLoader (s : State) (kind : Nat) (source : Byte) (fromNvm : Bool) (base : Nat) : State :=
  let h := if fromNvm then mread s.boot.nvm base 4096 else mread s.mem base 4096
  let p := !fromNvm && (s.badIn base 4096).isSome
  let l : Loader := ⟨kind, source, h, fromNvm, base, 0, manifestCause (s.arb kind) h, [], p⟩
  let s := if fromNvm then s else s.lostTaken false base 4096
  let b := s.boot
  { s with boot := { b with loader := some l
                            bank0 := if kind = 2 then [] else b.bank0
                            bank1 := if kind = 1 then [] else b.bank1
                            cfgCopy := if kind = 3 then [] else b.cfgCopy } }

/-- The configuration container that R374 selects: its source, or none. -/
def State.cfgPlace (s : State) : Option (Bool × Nat) :=
  let host := s.boot.cfgPushed && sound 3 266240 (mread s.mem 0x100000 4096)
  let nvm := match s.nvmKind 3 with
    | some e => if sound 3 e.len (mread s.boot.nvm e.off 4096) then some (true, e.off) else none
    | none => none
  let src := s.pins.bootSrc.toNat
  if src ≠ 1 && host then some (false, 0x100000)
  else if src = 3 then none
  else nvm

/-- The configuration block is taken once the last firmware block has landed (R400). -/
def takeConfig (s : State) : State :=
  let s := if s.boot.cfgPushed && !sound 3 266240 (mread s.mem 0x100000 4096) then s.setFld Reg.secBootstat 27 24 2 else s
  match s.cfgPlace with
  | some (nvm, a) =>
    let s := startLoader s 3 (if nvm then 3 else 2) nvm a
    { s with boot := { s.boot with cfgSource := if nvm then 1 else 2 } }
  | none => { s with boot := { s.boot with step := 8, cfgSource := 0 } }

/-- A MEM_SPLIT TLV (R39): the shares in force, or the log entry of its rejection. -/
def splitTlv (ts : List Tlv) (s : State) (t : Tlv) : State :=
  match if t.broken ts then some 0 else splitBad t.val with
  | some f => reportUnnamed s 0x01 0 t.typ t.off f
  | none => ((s.setFld Reg.memSplit 3 0 (leAt t.val 0 1)).setFld Reg.memSplit 7 4 (leAt t.val 1 1)).setFld Reg.memSplit 11 8 (leAt t.val 2 1)

/-- Stage 1 applies MEM_SPLIT as soon as the block has been verified (R380). -/
def applySplit (s : State) : State :=
  match cfgBlock s.boot.cfgCopy with
  | some ts => (ts.filter fun t => t.typ == 3).foldl (splitTlv ts) s
  | none => s

/-- What follows the last block of a container (R397, R399, R400). -/
def finishLoad (s : State) (l : Loader) : State :=
  let cause := if l.cause ≠ 0 then l.cause else if l.poisoned then 5 else 0
  let s := { s with boot := { s.boot with loader := none } }
  match l.kind with
  | 1 =>
    let im := imageOf l.head 1 l.source cause l.digests
    let s := { s with boot := { s.boot with s1 := some im, step := 3 } }
    let s := ((s.setFld Reg.secBootstat 2 0 1).setFld Reg.secBootstat 5 4 2).setFld Reg.secBootstat 15 12 cause.toNat
    measureImage (noteFailure (s.setFld Reg.secVersions 31 0 im.version.toNat) 0 cause) 0 1 im
  | 2 =>
    let im := imageOf l.head 0 l.source cause l.digests
    let s := { s with boot := { s.boot with running := some im } }
    let s := s.setFld Reg.secBootstat 19 16 cause.toNat
    takeConfig (measureImage (noteFailure s 1 cause) 1 2 im)
  | _ =>
    let im := imageOf l.head 0 l.source cause l.digests
    let s := { s with boot := { s.boot with cfg := some im, step := 8 } }
    applySplit (measureImage (noteFailure (s.setFld Reg.secBootstat 23 20 cause.toNat) 2 cause) 2 3 im)

/-- CONTAINER_BLOCK_LANDED: the next block lands, its digest is computed from the same bytes and compared (R391, R392). -/
def blockLanded (s : State) : State :=
  match s.boot.loader with
  | none => s
  | some l =>
    let n := min 65536 (hdrLen l.head - 65536 * l.landed)
    let o := 4096 + 65536 * l.landed
    let bs := l.read s o n
    let d := sha bs
    let l' : Loader := { l with landed := l.landed + 1, digests := l.digests ++ [d], poisoned := l.poisoned || l.poison s o n
                                cause := if l.cause = 0 ∧ d ≠ hdrDigest l.head l.landed then 4 else l.cause }
    let s := loaderTaken s l o n
    let b := s.boot
    let s := { s with boot := { b with loader := some l'
                                       bank0 := if l.kind = 2 then b.bank0 ++ bs else b.bank0
                                       bank1 := if l.kind = 1 then b.bank1 ++ bs else b.bank1
                                       cfgCopy := if l.kind = 3 then b.cfgCopy ++ bs else b.cfgCopy } }
    if l'.landed < hdrBlocks l.head then s else finishLoad s l'

/-! ### Reset release, Stage 0 and Stage 1 -/

/-- RESET_RELEASE: steps 1 and 2 of R24, once POR_N, and with BOOT_SRC other than 1 also PERST_N, is released. The first log entry names the
reset (R444): 1 POR_N, 2 PERST_N; a TWIN_ROLE of 3 is logged after the straps have been sampled (R374). -/
def resetRelease (s : State) : State :=
  if s.boot.step < 2 ∧ !s.inReset ∧ (s.pins.bootSrc = 1 ∨ !s.pins.perstLow) then
    let por := s.boot.step == 0
    let s := report s 0x0A 0x60 (if por then 1 else 2) s.pins.bootSrc.toNat 0
    let s := if por && s.pins.twinRole == 3 then reportUnnamed s 0x0B 2 0 0 0 else s
    let s := s.setFld Reg.pwrPower 47 32 7500
    { s with boot := { s.boot with step := 2 } }
  else s

/-- Bytes of a Stage 1 slot in on-chip flash (R387). -/
def slotSize : Nat := 0x80000

/-- Stage 0 (R397): recovery wait, or the chosen slot verified, copied to bank 1, measured and started. `found` is what its read finds in the
word of on-chip flash at `off` (R390, R433). -/
def stage0 (off : Nat) (found : EccFound) (s : State) : State :=
  if s.boot.step ≠ 2 ∨ s.fld Reg.secBootstat 2 0 ≠ 0 ∨ s.boot.loader.isSome then s
  else
    let slot := if s.pins.bootSrc = 3 then none
      else chooseSlot 1 slotSize slotSize s.boot.flashA s.boot.flashB
    match slot with
    | none => s.setFld Reg.secBootstat 2 0 3
    | some b =>
      let c := if b then s.boot.flashB else s.boot.flashA
      let h := padTo 4096 c
      let (ds, cause) := verifyWhole (s.arb 1) (found == .uncorrectable) c
      let s := flashFinds off found s
      let src : Byte := if b then 1 else 0
      let im := imageOf h 1 src cause ds
      let s := { s with boot := { s.boot with s1 := some im, step := 3, bank1 := (c.drop 4096).take (hdrLen h) } }
      let s := ((s.setFld Reg.secBootstat 2 0 1).setFld Reg.secBootstat 5 4 src.toNat).setFld Reg.secBootstat 15 12 cause.toNat
      measureImage (noteFailure (s.setFld Reg.secVersions 31 0 im.version.toNat) 0 cause) 0 1 im

/-- Usable bytes with `n` channels in service (R31). -/
def usableBytes (build32 : Bool) (n : Nat) : Nat := n * (if build32 then 0x80000000 else 0x40000000) / 32 * 31

/-- The loading of the main firmware begins: from the window (STAGE 4), or from an NVM slot (R400). -/
def startFirmware (s : State) : State :=
  let s := nvmReports s
  if s.pins.bootSrc = 0 ∨ s.pins.bootSrc = 3 then s.setFld Reg.secBootstat 2 0 4
  else
    let a := s.nvmKind 1
    let b := s.nvmKind 2
    let ha := (a.map fun e => mread s.boot.nvm e.off 4096).getD []
    let hb := (b.map fun e => mread s.boot.nvm e.off 4096).getD []
    match chooseSlot 2 ((a.map (·.len)).getD 0) ((b.map (·.len)).getD 0) ha hb with
    | none => (reportUnnamed s 0x0A 1 0 0 0).setFld Reg.secBootstat 2 0 4
    | some sel =>
      let e := if sel then b else a
      let s := startLoader s 2 (if sel then 1 else 0) true ((e.map (·.off)).getD 0)
      s.setFld Reg.secBootstat 7 6 (if sel then 1 else 0)

/-- The reports of a start's exclusions: channels by cause, modules and Flue links (R15). -/
def startReports (s : State) (p : StartResult) : State :=
  let s := (List.range 16).foldl (fun s g =>
    if p.untrained.toNat.testBit g then report s 0x01 0x11 g 1 0
    else if p.unrepairable.toNat.testBit g then report s 0x01 0x11 g 2 0
    else if s.boot.nextChannels.toNat.testBit g then report s 0x01 0x11 g 4 0 else s) s
  let s := (List.range 8).foldl (fun s m => if p.failedModules.toNat.testBit m then report s 0x03 0x20 (m / 2) (m % 2) 4 else s) s
  (List.range 4).foldl (fun s n => if p.failedFlue.toNat.testBit n then report s 0x03 0x20 n 0 ((n + 1) % 4) else s) s

/-- Hearths with both modules failed (R15). -/
def cutHearths (m : BitVec 8) : List Nat := (List.range 4).filter fun h => nbits m.toNat (2 * h + 1) (2 * h) == 3

/-- Step 5 of R24: F_SUS is computed and the A-clocks run at min(750 MHz, F_SUS), with the rails at V_n (R429). -/
def startClock (s : State) : State :=
  let s := recomputeSus s
  let f := min 750 (s.fld Reg.pwrStatus 39 30)
  let s := setRails f (s.setFld Reg.pwrStatus 9 0 f)
  { s with pwr := { s.pwr with target := f, stepTo := f, railsFor := f, seq := .idle } }

/-- The setting that lies nearer to the measured VDDQ_G (R478): that of 1.35 V. Exactly between the two it is free: log 52. -/
def near135 (mv : Nat) : Bool := if mv = 1300 then Config.vddqTie else decide (1300 < mv)

/-- A new repair that this start can find (R399): of SRAM, of a row that the repair map names, or of a row in the sixteenth of the rows that the march
test samples at this start. -/
def marchFinds (s : State) (usable k : Nat) : Bool :=
  !s.boot.repairMap.contains k && (decide (usable ≤ k) || s.boot.repairMap.any (fun j => decide (j < usable) && Config.sameRow j k) ||
    Config.marched s.boot.march k)

/-- Stage 1, steps 5 to 7 of R24 and the start of step 8 (R399, R400). The Hearth rails stay off after a trip (R421). -/
def stage1 (s : State) (p : StartResult) : State :=
  if s.boot.step ≠ 3 then s
  else
    let cut := (List.range 4).filter fun h => (cutHearths p.failedModules).contains h || s.boot.nextHearths.toNat.testBit h
    let cores := (List.range 16).filter fun c => !p.failedCores.toNat.testBit c && !cut.contains (c / 4)
    let mask := cores.foldl (fun m c => m + 2 ^ c) 0
    let out := p.untrained ||| p.unrepairable ||| s.boot.nextChannels
    let chans := (~~~out).toNat
    let nch := ((List.range 16).filter (nbit chans)).length
    let bad := decide (p.failedCores ≠ 0 ∨ out ≠ 0 ∨ p.failedModules ≠ 0 ∨ p.failedFlue ≠ 0 ∨ s.boot.nextHearths ≠ 0)
    let s := startReports s p
    let usable := usableBytes p.build32 nch
    let new := (p.repairs.filter (marchFinds s usable)).dedup
    let s := { s with pins := { s.pins with hpwrEn := !s.dbg.tripped }
                      fabric := { s.fabric with modFailed := p.failedModules, flueFailed := p.failedFlue, gddrTrained := true, chFailed := 0, gddr135 := near135 p.vddqMv }
                      boot := { s.boot with step := 7, nextChannels := 0, nextHearths := 0
                                            repairMap := s.boot.repairMap ++ new, march := (s.boot.march + 1) % 16, xspi := some p.xspi } }
    let s := if new.isEmpty then s else journalWrite .repairMap s.boot.repairMap s
    let s := s.addSat (Reg.relCnt 9) 31 0 new.length
    let s := ((s.setFld Reg.glbCaps2 8 4 cores.length).setFld Reg.glbCaps2 31 16 mask).setFld Reg.glbCaps4 44 40 nch
    let s := (s.setFld Reg.memCapacity 39 0 usable).setFld Reg.memCapacity 55 40 chans
    let s := (startClock s).setBit Reg.secBootstat 3 true
    startFirmware (if bad then degrade s else s)

/-! ### SEC_PUSH (R401) -/

/-- A SEC_PUSH write, judged bit by bit against one state; PF only. -/
def secPush (fn : Fn) (bits : Nat) (s : State) : State :=
  if fn ≠ .pf then viol s Reg.secPush 4 (s.violPart fn)
  else
    let stage := s.fld Reg.secBootstat 2 0
    let okS1 := stage = 3
    let okFw := stage = 4
    let okCfg := s.bit Reg.secBootstat 3 ∧ s.pins.bootSrc ≠ 1 ∧ s.boot.running = none
    let res := fun (s : State) (ok : Prop) (_ : Decidable ok) => s.setFld Reg.secBootstat 27 24 (if ok then 1 else 4)
    let s := if nbit bits 2 then
        let s := res s okCfg inferInstance
        if okCfg then { s with boot := { s.boot with cfgPushed := true } } else s
      else s
    let s := if nbit bits 0 then
        let s := res s okS1 inferInstance
        if okS1 then
          let h := mread s.mem 0x2001410000 4096
          if sound 1 0x1D0000 h then (startLoader s 1 2 false 0x2001410000).setFld Reg.secBootstat 2 0 0 else s.setFld Reg.secBootstat 27 24 2
        else s
      else s
    if nbit bits 1 then
      let s := res s okFw inferInstance
      if okFw then
        let h := mread s.mem 0 4096
        if sound 2 0x100000 h then
          ((startLoader s 2 2 false 0).setFld Reg.secBootstat 2 0 1).setFld Reg.secBootstat 7 6 2
        else s.setFld Reg.secBootstat 27 24 2
      else s
    else s

/-! ### Meanings -/

/-- RESET_RELEASE (R24). -/
def execResetRelease (s : State) : Out := always s resetRelease
/-- STAGE0_START (R397). -/
def execStage0Start (off : Nat) (found : EccFound) (s : State) : Out := live s (stage0 off found)
/-- STAGE1_START (R399). -/
def execStage1Start (p : StartResult) (s : State) : Out := live s fun s => stage1 s p
/-- CONTAINER_BLOCK_LANDED (R391). -/
def execContainerBlockLanded (s : State) : Out := live s blockLanded
/-- PUSH_S1 (R401). -/
def execPushS1 (fn : Fn) (s : State) : Out := bar0 fn 4 s (secPush fn 1)
/-- PUSH_FW (R401). -/
def execPushFw (fn : Fn) (s : State) : Out := bar0 fn 4 s (secPush fn 2)
/-- PUSH_CFG (R401). -/
def execPushCfg (fn : Fn) (s : State) : Out := bar0 fn 4 s (secPush fn 4)

end Sys2Proof.Machine
end

