-- ==== Sys2Proof/Machine/Mail.lean ====
section
/-!
DEFINITION. The mail rings (R363 to R367) and the firmware messages: sessions, attestation (R405), the event log (R404), live
update (R406 to R409) and power messages (R411, R412, R425, R432). IDLE_ENTER stands in Machine/Idle.lean.
-/
namespace Sys2Proof.Machine

/-! ### Rings (R363 to R365) -/

def State.h2fCi (s : State) : W32 := BitVec.ofNat 32 (s.num (mailBase + 0x80) 4)
def State.f2hPi (s : State) : W32 := BitVec.ofNat 32 (s.num (mailBase + 0xC0) 4)
def State.f2hCi (s : State) : W32 := BitVec.ofNat 32 (s.num (mailBase + 0x100) 4)

/-- The F2H ring has room for a message. -/
def State.f2hRoom (s : State) : Bool := decide (dist32 s.f2hPi s.f2hCi < 256)

/-- A request as it stands in its slot (R364). -/
structure Req where
  type : Nat
  len : Nat
  seq : W32
  payload : List Byte
deriving DecidableEq, Repr

/-- The request that firmware takes next: main firmware runs, no handover is under way (R408), no request is being worked on, a doorbell has announced it, and
no reply waits behind a full ring. -/
def State.request (s : State) : Option Req :=
  if s.mail.up && !s.boot.fwStopped && s.boot.handover.isNone && s.mail.busy.isNone && decide (s.h2fCi ≠ s.mail.known) &&
      (s.mail.waiting.isEmpty || s.f2hRoom) then
    let m := mread s.mem (mailBase + 0x1000 + 64 * (s.h2fCi.toNat % 256)) 64
    some ⟨leAt m 0 2, leAt m 2 1, BitVec.ofNat 32 (leAt m 4 4), m.drop 8⟩
  else none

/-- Firmware takes a request: H2F_CI advances. -/
def takeReq (s : State) : State := devWrite .mantel s (mailBase + 0x80) (leBytes 4 (s.h2fCi.toNat + 1))

/-- A message of 64 bytes. -/
def message (type flags : Nat) (seq : W32) (payload : List Byte) : List Byte :=
  leBytes 2 type ++ leBytes 1 payload.length ++ leBytes 1 flags ++ leBytes 4 seq.toNat ++ padTo 56 payload

/-- A message waits to be posted. -/
def queueMsg (m : List Byte) (s : State) : State := { s with mail := { s.mail with waiting := s.mail.waiting ++ [m] } }

/-- The status of a HELLO reply is kept in HIF_MAIL_STAT.REASON (R362). -/
def helloReason (type status : Nat) (s : State) : State := if type = 1 then s.setFld Reg.hifMailStat 7 2 status else s

/-- The reply to a request: STATUS, then the rest (a refusal carries its STATUS alone, log 17). -/
def reply (type : Nat) (seq : W32) (status : Nat) (rest : List Byte) (s : State) : State :=
  queueMsg (message type 1 seq (leBytes 2 status ++ rest)) s

/-- Feature bit that a request type needs (R367), or none for an unknown type. -/
def featureOf (type : Nat) : Option Nat :=
  if type = 1 ∨ type = 4 ∨ (0x101 ≤ type ∧ type ≤ 0x104) then some 0
  else if 0x110 ≤ type ∧ type ≤ 0x114 then some 32
  else if 0x201 ≤ type ∧ type ≤ 0x204 then some 34
  else none

/-- SESSION is OPEN. -/
def State.sessionOpen (s : State) : Bool := s.fld Reg.hifMailStat 1 0 == 1

/-- A request that no message of the session answers: its STATUS (R366, R367). -/
def State.refusal (s : State) (type : Nat) : Option Nat :=
  if type = 1 ∨ type = 4 then none
  else if !s.sessionOpen then some 3
  else match featureOf type with
    | none => some 1
    | some b => if s.mail.features.toNat.testBit b then none else some 1

/-- The requests at the head of the ring that have no message of the session are answered, up to `n` of them. -/
def answerRefused : Nat → State → State
  | 0, s => s
  | n + 1, s =>
    match s.request with
    | none => s
    | some r =>
      match s.refusal r.type with
      | some st => answerRefused n (reply r.type r.seq st [] (takeReq s))
      | none => s

/-- A message type's request: taken when it is next in the ring, refused outside the session, given to `k` otherwise. Then the
requests behind it that have no message are answered. -/
def onRequest (type len : Nat) (k : Req → State → State) (s : State) : State :=
  match s.request with
  | none => s
  | some r =>
    if r.type ≠ type then s
    else
      let s' := takeReq s
      match s.refusal type with
      | some st => answerRefused 256 (reply type r.seq st [] s')
      | none => answerRefused 256 (if r.len ≠ len then helloReason type 2 (reply type r.seq 2 [] s') else k r s')

/-- MAIL_DOORBELL: PF only; firmware learns of the requests up to H2F_PI. -/
def mailDoorbell (fn : Fn) (s : State) : State :=
  if fn ≠ .pf then viol s Reg.hifMailDb 4 (s.violPart fn)
  else
    let s := { s with mail := { s.mail with known := BitVec.ofNat 32 (s.num (mailBase + 0x40) 4) } }
    answerRefused 256 s

/-- One message written to the F2H ring: the message, F2H_PI, then PF vector 0. -/
def post (m : List Byte) (s : State) : State :=
  let s := devWrite .mantel s (mailBase + 0x5000 + 64 * (s.f2hPi.toNat % 256)) m
  raiseMsix (devWrite .mantel s (mailBase + 0xC0) (leBytes 4 (s.f2hPi.toNat + 1))) 0 0

/-- NOTICE is in the session's feature set (R367). -/
def State.notices (s : State) : Bool := s.mail.features.toNat.testBit 33

/-- F2H_POST: the oldest waiting message, or else in a session with NOTICE the oldest held NOTICE, once the ring has room. -/
def f2hPost (s : State) : State :=
  if !s.mail.up || s.boot.fwStopped || !s.f2hRoom then s
  else
    match s.mail.waiting with
    | m :: t => answerRefused 256 (post m { s with mail := { s.mail with waiting := t } })
    | [] =>
      match if s.notices then s.mail.notices else [] with
      | (src, code) :: t =>
        let d := s.mail.dropped
        post (message 3 0 0 ([src] ++ leBytes 2 code.toNat ++ leBytes 4 d.toNat)) { s with mail := { s.mail with notices := t, dropped := 0 } }
      | [] => s

/-- Main firmware initialises the mail area: the indices, LAYOUT, then MAGIC; READY is the first message (R363). -/
def mailInit (s : State) : State :=
  let w := fun (s : State) (o v : Nat) => devWrite .mantel s (mailBase + o) (leBytes 4 v)
  let s := w (w (w (w (w s 0x40 0) 0x80 0) 0xC0 0) 0x100 0) 4 1
  let s := w s 0 0x4C49414D
  let ready := message 2 0 0 (leBytes 8 (s.reg Reg.glbStatus).toNat ++ leBytes 4 (s.fld Reg.secVersions 63 32))
  { s with mail := { s.mail with up := true, known := 0, waiting := [ready], notices := [], dropped := 0, busy := none } }

/-! ### Sessions (R366, R367) -/

/-- The feature bits of this firmware: BASE, LIVE_UPDATE, NOTICE, POWER_MSG. -/
def fwFeatures : Nat := 1 + 2 ^ 32 + 2 ^ 33 + 2 ^ 34

/-- HELLO: the versions and mandatory bits are judged, and the session opened or refused. Held NOTICEs go with a session that had them (R367). -/
def hello (s : State) : State :=
  onRequest 1 40 (fun r s =>
    let major := leAt r.payload 0 2
    let minor := leAt r.payload 2 2
    let f := leAt r.payload 8 32
    let st := if major ≠ 1 then 4 else if f % 2 ^ 32 ≠ fwFeatures % 2 ^ 32 then 5 else 0
    let s := reply 1 r.seq st (leBytes 2 1 ++ leBytes 2 0 ++ leBytes 2 0 ++ leBytes 32 fwFeatures) s
    let m := Reg.hifMailStat
    let s := helloReason 1 st (s.setFld m 1 0 (if st = 0 then 1 else 2))
    let s := if st = 0 then
        let s := (s.setFld m 15 8 1).setFld m 23 16 (min minor 0)
        { s with mail := { s.mail with features := BitVec.ofNat 256 (f &&& fwFeatures) } }
      else { s with mail := { s.mail with features := 0 } }
    if s.notices then s else { s with mail := { s.mail with notices := [], dropped := 0 } }) s

/-- PING: the payload is echoed after STATUS; a payload that leaves no room for STATUS is BAD_LENGTH. -/
def ping (s : State) : State :=
  match s.request with
  | none => s
  | some r => if 54 < r.len then onRequest 4 55 (fun r s => reply 4 r.seq 2 [] s) s
    else onRequest 4 r.len (fun r s => reply 4 r.seq 0 (r.payload.take r.len) s) s

/-! ### Attestation messages (R404 to R406) -/

/-- The quote without its signature (R405). -/
def quoteBytes (s : State) (mask : Nat) (nonce : List Byte) : List Byte :=
  let sel := (List.range 8).filter (nbit mask)
  let flags := (s.bit Reg.glbStatus 3).toNat + 2 * (!(allZero (s.meas 6))).toNat
  leBytes 4 0x31545146 ++ leBytes 2 1 ++ leBytes 1 mask ++ leBytes 1 flags ++ leBytes 8 (s.reg Reg.glbUid).toNat ++
  leBytes 8 (s.reg Reg.glbId).toNat ++ leBytes 8 s.clock.timeC.toNat ++ leBytes 4 (s.fld Reg.secVersions 31 0) ++
  leBytes 4 (s.fld Reg.secVersions 63 32) ++ leBytes 4 (leAt (s.boot.cfgCopy.take 16) 12 4) ++
  leBytes 4 (624 + 64 * sel.length) ++ padTo 64 nonce ++ sel.flatMap s.meas

/-- QUOTE: the quote and its signature over the nonce, or KEY_LOCKED. -/
def quote (s : State) : State :=
  onRequest 0x101 16 (fun r s =>
    let a := leAt r.payload 0 8
    let mask := leAt r.payload 8 1
    let n := 624 + 64 * ((List.range 8).filter (nbit mask)).length
    if s.bit Reg.secBootstat 11 then reply 0x101 r.seq 7 [] s
    else if !s.inGddrStaging a n then reply 0x101 r.seq 11 [] s
    else
      let (run, s) := s.fresh
      let q := quoteBytes s mask (mread s.mem a 64)
      let sig := (List.range 512).map (Config.signByte run)
      reply 0x101 r.seq 0 ([0, 0] ++ leBytes 4 n) (devWrite .mantel s a (q ++ sig))) s

/-- A message that writes data of `bs` to ADDR when MAX allows it. -/
def writeOut (type : Nat) (data : State → List Byte) (s : State) : State :=
  onRequest type 16 (fun r s =>
    let a := leAt r.payload 0 8
    let bs := data s
    if leAt r.payload 8 4 < bs.length then reply type r.seq 2 [] s
    else if !s.inGddrStaging a bs.length then reply type r.seq 11 [] s
    else reply type r.seq 0 ([0, 0] ++ leBytes 4 bs.length) (devWrite .mantel s a bs)) s

/-- The certificate (R405): bytes that the manual does not give. -/
def certBytes : List Byte := (List.range Config.certLen).map Config.certByte

/-- One entry of the event log as bytes (R404). -/
def EvEntry.bytes (e : EvEntry) : List Byte :=
  leBytes 1 e.reg.toNat ++ [e.kind, e.source, e.cause] ++ leBytes 4 e.version.toNat ++ leBytes 8 e.time.toNat ++ ofB512 e.x ++
  List.replicate 48 0

/-- The event log with its header (R404). -/
def eventLogBytes (s : State) : List Byte :=
  let b := s.boot
  leBytes 4 0x4C564546 ++ leBytes 2 1 ++ leBytes 2 b.evLog.length ++ leBytes 4 b.hostLost.toNat ++ leBytes 4 b.devLost.toNat ++
  leBytes 8 s.clock.timeC.toNat ++ List.replicate 40 0 ++ b.evLog.flatMap EvEntry.bytes

/-- EXTEND: M7 takes a host digest, or LOG_FULL. -/
def extendMsg (s : State) : State :=
  onRequest 0x104 8 (fun r s =>
    let a := leAt r.payload 0 8
    if !s.inGddrStaging a 64 then reply 0x104 r.seq 11 [] s
    else if 256 ≤ s.boot.evLog.length then reply 0x104 r.seq 13 [] s
    else reply 0x104 r.seq 0 [] (extendM s 7 (toB512 (mread s.mem a 64)) 8 2 0 0)) s

/-! ### Images (R406 to R409) -/

/-- Bytes from an address to the end of the region of R406 that holds it. -/
def State.room (s : State) (a : Nat) : Nat :=
  if a < s.usable then s.usable - a else if inStaging a 1 then stagingBase + stagingSize - a else 0

/-- A container of a KIND at an address, checked whole: its bytes, digests and CAUSE; a broken one has none. -/
def State.checkContainer (s : State) (kind a : Nat) : Option (List Byte × List (BitVec 512) × Byte) :=
  let h := mread s.mem a 4096
  if !sound kind (s.room a) h then none
  else
    let c := mread s.mem a (4096 + hdrLen h)
    let (ds, cause) := verifyWhole (s.arb kind) (s.badIn a c.length).isSome c
    some (c, ds, cause)

/-- A bank of the firmware complex SRAM filled. -/
def Boot.setBank (b : Boot) (bank : BitVec 1) (bs : List Byte) : Boot :=
  if bank = 0 then { b with bank0 := bs } else { b with bank1 := bs }

/-- STATUS of a container refused by its CAUSE (R406, R407). -/
def causeStatus (cause : Byte) : Nat := if cause = 0 then 0 else if cause = 1 then 9 else 8

/-- UPDATE_LOAD: the container is copied into the bank that is not running, and loaded, or refused; one that a CAUSE refuses has replaced what stood in
the bank (log 52). -/
def updateLoad (s : State) : State :=
  onRequest 0x110 8 (fun r s =>
    let a := leAt r.payload 0 8
    if !s.inGddrStaging a 4096 then reply 0x110 r.seq 11 [] s
    else
      match s.checkContainer 2 a, s.boot.running with
      | some (c, ds, cause), some run =>
        let s := verifyFailed (s.lostTaken false a c.length) 2 cause
        let im := imageOf c (run.bank + 1) 2 cause ds
        let tail := fun (acc : Nat) => [0, 0] ++ leBytes 4 im.version.toNat ++ [cause] ++ leBytes 1 acc
        let s := { s with boot := { (s.boot.setBank im.bank ((c.drop 4096).take (hdrLen c))) with loaded := if cause = 0 then some im else none } }
        if cause ≠ 0 then reply 0x110 r.seq (causeStatus cause) (tail 0) s
        else
          let acc := decide (im.blobMin.toNat ≤ run.blobOut.toNat ∧ run.blobOut.toNat ≤ im.blobOut.toNat)
          reply 0x110 r.seq 0 (tail acc.toNat) s
      | _, _ => reply 0x110 r.seq 8 [] s) s

/-- UPDATE_COMMIT: NOT_LOADED, BUSY under Snuff, or the handover up to the start of the new image (R408 steps 1 to 3), with the
blob written at the BLOB_OUT version of the running image. -/
def updateCommit (s : State) : State :=
  onRequest 0x111 0 (fun r s =>
    match s.boot.loaded, s.boot.running with
    | some im, some run =>
      if s.snuffed then reply 0x111 r.seq 6 [] s
      else
        let acc := decide (im.blobMin.toNat ≤ run.blobOut.toNat ∧ run.blobOut.toNat ≤ im.blobOut.toNat)
        let s := { (s.setBit Reg.pwrStatus 42 true).setBit Reg.relSweep 48 true with sweep := { s.sweep with resumed := 0xFFFF } }
        let (k, s) := s.fresh
        { s with boot := { s.boot with handover := some ⟨acc⟩, blob := some (run.blobOut, k) }, mail := { s.mail with busy := some (0x111, r.seq) } }
    | _, _ => reply 0x111 r.seq 10 [] s) s

/-- A counter raised to the ARB_SET of an image (R396), and the record of the journal written. -/
def raiseArb (kind : Nat) (im : Image) (s : State) : State :=
  if s.ready && !s.bit Reg.glbStatus 1 && decide (s.arb kind < im.arbSet.toNat) then
    let s := if kind = 1 then s.setFld Reg.secArb0 31 0 im.arbSet.toNat
      else if kind = 2 then s.setFld Reg.secArb0 63 32 im.arbSet.toNat else s.setFld Reg.secArb1 31 0 im.arbSet.toNat
    journalWrite .counters [(s.reg Reg.secArb0).toNat, (s.reg Reg.secArb1).toNat] s
  else s

/-- Sweep stays suspended after a handover in DEEP_IDLE and on the way out of it (R441). -/
def State.asleep (s : State) : Bool := s.pwrState == 1 || s.pwrState == 2

/-- The answer to UPDATE_COMMIT, when the request is still known (a PF FLR forgets it). -/
def commitReply (status : Nat) (rest : List Byte) (s : State) : State :=
  match s.mail.busy with
  | some (ty, seq) =>
    if ty = 0x111 then answerRefused 256 (reply 0x111 seq status rest { s with mail := { s.mail with busy := none } }) else s
  | none => s

/-- Every loop starts from safe defaults (R408 step 4): what firmware alone held is gone, and F_REQ is a free step of the menu of R412 (log 14). -/
def safeDefaults (s : State) : State :=
  let (k, s) := s.fresh
  { s with pwr := { s.pwr with fReq := 300 + 25 * (Config.safeStep k % 25), capNext := none, ceilNext := none, heldFreq := 0, heldLoops := 0 } }

/-- NEW_IMAGE_LOOPS_STARTED: the hold ends, M5 and M4 are extended, the counter follows and the commit is answered. -/
def newImageStarted (s : State) : State :=
  match (if s.boot.fwStopped then none else s.boot.handover), s.boot.loaded with
  | some h, some im =>
    let s := (s.setBit Reg.pwrStatus 42 false).setBit Reg.relSweep 48 s.asleep
    let s := { s with boot := { s.boot with running := some im, loaded := none, handover := none } }
    let s := if h.blob then s else safeDefaults s
    let s := raiseArb 2 im (measureImage s 5 6 im)
    let s := s.setFld Reg.secVersions 63 32 im.version.toNat
    commitReply 0 ([0, 0] ++ leBytes 4 im.version.toNat ++ leBytes 1 h.blob.toNat) s
  | _, _ => s

/-- HANDOVER_TIMEOUT: the old image is restarted and the commit answered HANDOVER_FAILED (R409). -/
def handoverTimeout (s : State) : State :=
  match (if s.boot.fwStopped then none else s.boot.handover) with
  | some _ =>
    let s := (s.setBit Reg.pwrStatus 42 false).setBit Reg.relSweep 48 s.asleep
    let s := { s with boot := { s.boot with loaded := none, handover := none } }
    commitReply 12 [] (report s 0x0E 0x91 0 0 0)
  | none => s

/-- UPDATE_ABORT: the loaded image is discarded. -/
def updateAbort (s : State) : State :=
  onRequest 0x112 0 (fun r s => reply 0x112 r.seq 0 [] { s with boot := { s.boot with loaded := none } }) s

/-- STAGE1_WRITE: a verified Stage 1 container goes to the slot not chosen at this start. -/
def stage1Write (s : State) : State :=
  onRequest 0x113 8 (fun r s =>
    let a := leAt r.payload 0 8
    if !s.inGddrStaging a 4096 then reply 0x113 r.seq 11 [] s
    else
      match s.checkContainer 1 a with
      | none => reply 0x113 r.seq 8 [] s
      | some (c, _, cause) =>
        let s := verifyFailed (s.lostTaken false a c.length) 1 cause
        if cause ≠ 0 then reply 0x113 r.seq (causeStatus cause) [] s
        else
          let toB := decide (s.fld Reg.secBootstat 5 4 = 0)
          let s := if toB then { s with boot := { s.boot with flashB := c } } else { s with boot := { s.boot with flashA := c } }
          reply 0x113 r.seq 0 (leBytes 1 toB.toNat) s) s

/-- NVM_WRITE: bytes copied to the NVM, unverified. -/
def nvmWrite (s : State) : State :=
  onRequest 0x114 16 (fun r s =>
    let a := leAt r.payload 0 8
    let o := leAt r.payload 8 4
    let n := leAt r.payload 12 4
    if !s.inGddrStaging a n || o % 4096 != 0 || n % 4096 != 0 || decide (s.boot.nvmSize < o + n) then reply 0x114 r.seq 11 [] s
    else reply 0x114 r.seq 0 [] { s with boot := { s.boot with nvm := mwrite s.boot.nvm o (mread s.mem a n) } }) s

/-! ### Power messages (R411, R412, R425, R432) -/

/-- SET_CAP: the power loop brings the new cap into force. -/
def setCap (s : State) : State :=
  onRequest 0x201 8 (fun r s =>
    let c := leAt r.payload 0 2
    if s.pwrState = 3 then reply 0x201 r.seq 6 [] s
    else if c < 2500 ∨ 7500 < c then reply 0x201 r.seq 14 [] s
    else reply 0x201 r.seq 0 [] { s with pwr := { s.pwr with capNext := some c } }) s

/-- SET_ACLK_MAX: the power loop brings the new F_CEIL into force. -/
def setAclkMax (s : State) : State :=
  onRequest 0x202 8 (fun r s =>
    let f := leAt r.payload 0 2
    if s.pwrState = 3 then reply 0x202 r.seq 6 [] s
    else if f < 300 ∨ 900 < f ∨ f % 25 ≠ 0 then reply 0x202 r.seq 14 [] s
    else reply 0x202 r.seq 0 [] { s with pwr := { s.pwr with ceilNext := some f } }) s

/-- HPWR_EN has been low for 2 ms (R479). -/
def State.hpwrRested (s : State) : Bool := s.pins.hpwrEn || decide (s.pins.hpwrLowAt.toNat + 2000000 ≤ s.clock.timeF.toNat)

/-- HPWR_EN goes low. -/
def hpwrOff (s : State) : State :=
  { s with pins := { s.pins with hpwrEn := false, hpwrLowAt := if s.pins.hpwrEn then s.clock.timeF else s.pins.hpwrLowAt } }

/-- IDLE_EXIT: OK at once in ACTIVE, BUSY under Snuff or after a trip, else the wake sequence begins: the link leaves L1 (R423), and HPWR_EN goes high once it
has been low for 2 ms (R479). -/
def idleExit (s : State) : State :=
  onRequest 0x204 0 (fun r s =>
    if s.pwrState = 0 then reply 0x204 r.seq 0 [] s
    else if s.pwrState = 3 ∨ s.stopped then reply 0x204 r.seq 6 [] s
    else
      let s := s.setFld Reg.pwrStatus 41 40 2
      { s with pins := { s.pins with hpwrEn := s.hpwrRested }, mail := { s.mail with busy := some (0x204, r.seq) }, hif := { s.hif with l1 := false } }) s

/-- The answer to IDLE_EXIT, when the request is still known. -/
def exitReply (status : Nat) (s : State) : State :=
  match s.mail.busy with
  | some (ty, seq) =>
    if ty = 0x204 then answerRefused 256 (reply 0x204 seq status [] { s with mail := { s.mail with busy := none } }) else s
  | none => s

/-- WAKE_DONE, not before HPWR_EN has been low for 2 ms: the rails are at V_n(F) and the PLLs at F, the links and GDDR6 are back, STATE reads ACTIVE, the
reply goes out, and a Snuff trigger that waited begins its stop order (R425, R466, R479). -/
def wakeDone (s : State) : State :=
  if s.pwrState ≠ 2 ∨ !s.hpwrRested then s
  else
    let f := s.targetF
    let s := setRails f (s.setFld Reg.pwrStatus 9 0 f)
    let s := ((s.setFld Reg.pwrStatus 41 40 0).setBit Reg.pwrStatus 44 false).setBit Reg.relSweep 48 s.boot.handover.isSome
    let s := { s with fabric := { s.fabric with selfRefresh := false }, pins := { s.pins with hpwrEn := true }
                      pwr := { s.pwr with seq := .idle, target := f, stepTo := f, railsFor := f } }
    let s := answerRefused 256 (exitReply 0 s)
    if s.dbg.waiting then snuffStart { s with dbg := { s.dbg with waiting := false } } else s

/-! ### The thermal trip (R420, R421) -/

/-- The hottest die: 0 to 3 a Hearth, 4 the Mantel; the lowest number of equals. DESIGN CHOICE, log 52. -/
def hottest (ts : List Int) : Nat := (ts.findIdx? fun t => ts.all fun u => decide (u ≤ t)).getD 0

/-- The thermal trip (R421): Snuff, the Hearth rails off, TRIPPED and a log entry. An IDLE_EXIT on its way is answered BUSY, as after a trip (R425). DEDUCED,
log 52. -/
def thermalTrip (tMax die : Nat) (s : State) : State :=
  let s := hpwrOff (snuffTrigger 6 0xF 0 s)
  let s := { s with dbg := { s.dbg with tripped := true }, pwr := { s.pwr with seq := .idle } }
  exitReply 6 (report (s.setFld Reg.pwrStatus 41 40 3) 0x09 0x51 tMax die 0)

/-- THERMAL_SAMPLE: the hottest sensor of each die in 1/8 °C, T_MAX, and the immediate rows of R420. -/
def thermalSample (h0 h1 h2 h3 m : BitVec 16) (s : State) : State :=
  let t := max (max h0.toInt h1.toInt) (max (max h2.toInt h3.toInt) m.toInt)
  let pat := toPat 16 t
  let s := s.setReg Reg.pwrTemp0 (BitVec.ofNat 64 (h0.toNat + 2 ^ 16 * h1.toNat + 2 ^ 32 * h2.toNat + 2 ^ 48 * h3.toNat))
  let s := (s.setFld Reg.pwrTemp1 15 0 m.toNat).setFld Reg.pwrTemp1 31 16 pat
  let trip := decide (920 ≤ t) && s.pwr.hotOnce
  let s := { s with pwr := { s.pwr with hotOnce := decide (920 ≤ t), holdHot := decide (880 ≤ t) } }
  let s := if 880 ≤ t then lowerTh 300 s else s
  if trip ∧ s.pwrState ≠ 3 then thermalTrip pat (hottest [h0.toInt, h1.toInt, h2.toInt, h3.toInt, m.toInt]) s else s

/-! ### Meanings -/

/-- MAIL_DOORBELL (R365). -/
def execMailDoorbell (fn : Fn) (s : State) : Out := bar0 fn 4 s (mailDoorbell fn)
/-- F2H_POST (R365). -/
def execF2hPost (s : State) : Out := live s f2hPost
/-- HELLO (R366). -/
def execHello (s : State) : Out := live s hello
/-- PING (R364). -/
def execPing (s : State) : Out := live s ping
/-- QUOTE (R405). -/
def execQuote (s : State) : Out := live s quote
/-- CERT (R405). -/
def execCert (s : State) : Out := live s (writeOut 0x102 fun _ => certBytes)
/-- EVENT_LOG (R404). -/
def execEventLog (s : State) : Out := live s (writeOut 0x103 eventLogBytes)
/-- EXTEND (R406). -/
def execExtend (s : State) : Out := live s extendMsg
/-- UPDATE_LOAD (R407). -/
def execUpdateLoad (s : State) : Out := live s updateLoad
/-- UPDATE_COMMIT (R408). -/
def execUpdateCommit (s : State) : Out := live s updateCommit
/-- UPDATE_ABORT (R407). -/
def execUpdateAbort (s : State) : Out := live s updateAbort
/-- STAGE1_WRITE (R406). -/
def execStage1Write (s : State) : Out := live s stage1Write
/-- NVM_WRITE (R406). -/
def execNvmWrite (s : State) : Out := live s nvmWrite
/-- NEW_IMAGE_LOOPS_STARTED (R408). -/
def execNewImageLoopsStarted (s : State) : Out := live s newImageStarted
/-- HANDOVER_TIMEOUT (R409). -/
def execHandoverTimeout (s : State) : Out := live s handoverTimeout
/-- THERMAL_SAMPLE (R420). -/
def execThermalSample (h0 h1 h2 h3 m : BitVec 16) (s : State) : Out := damper s (thermalSample h0 h1 h2 h3 m)
/-- SET_CAP (R411). -/
def execSetCap (s : State) : Out := live s setCap
/-- SET_ACLK_MAX (R412). -/
def execSetAclkMax (s : State) : Out := live s setAclkMax
/-- IDLE_EXIT (R425). -/
def execIdleExit (s : State) : Out := live s idleExit
/-- WAKE_DONE (R425). -/
def execWakeDone (s : State) : Out := live s wakeDone

end Sys2Proof.Machine
end

