-- ==== Sys2Proof/Machine/Operands.lean ====
section
/-!
DEFINITION. The descriptor as it lies in its 256 bytes (R158 to R177) and the address of every operand element: the
affine form with its REPEAT terms (R168, R169), the convolution geometry (R170), the scale, block-scale and packed layouts
(R64, R69, R72), and the extent of an operand from its lowest to its highest reachable byte (R180).
-/
namespace Sys2Proof.Machine

/-- The opcodes of R166. -/
inductive Op where
  | nop | wait | signal | fence | barrier | repeat | loadb
  | copy | prefetch | gather | scatter
  | matmul | matvec | conv | convw | dwconv | dist
  | elem | reduce | attn
deriving DecidableEq, Repr

/-- The opcode of a value; every value not listed is reserved (R166). -/
def Op.ofCode : Nat → Option Op
  | 0x00 => some .nop | 0x01 => some .wait | 0x02 => some .signal | 0x03 => some .fence
  | 0x04 => some .barrier | 0x05 => some .repeat | 0x06 => some .loadb
  | 0x08 => some .copy | 0x09 => some .prefetch | 0x0A => some .gather | 0x0B => some .scatter
  | 0x10 => some .matmul | 0x11 => some .matvec | 0x12 => some .conv | 0x13 => some .convw
  | 0x14 => some .dwconv | 0x15 => some .dist
  | 0x18 => some .elem | 0x19 => some .reduce | 0x20 => some .attn
  | _ => none

/-- Control descriptors: carried out by the queue manager itself. -/
def Op.isControl : Op → Bool
  | .nop | .wait | .signal | .fence | .barrier | .repeat => true
  | _ => false

/-- Movers: COPY, PREFETCH and LOADB. -/
def Op.isMover : Op → Bool
  | .copy | .prefetch | .loadb => true
  | _ => false

/-- Opcodes with the array layout (R173). -/
def Op.isArray : Op → Bool
  | .matmul | .matvec | .conv | .convw | .dwconv | .dist => true
  | _ => false

/-- The convolution opcodes. -/
def Op.isConv : Op → Bool
  | .conv | .convw | .dwconv => true
  | _ => false

/-- Opcodes with the element layout (R174). -/
def Op.isElem : Op → Bool
  | .elem | .reduce => true
  | _ => false

/-- A descriptor's bytes. -/
abbrev Desc := List Byte

/-- Bits hi..lo of the 8 bytes at offset `o`. -/
def dBits (d : Desc) (o hi lo : Nat) : Nat := nbits (leAt d o 8) hi lo
/-- One bit of the 8 bytes at offset `o`. -/
def dBit (d : Desc) (o b : Nat) : Bool := nbit (leAt d o 8) b

/-! ### Header and dependence block (R159, R160) -/

def dCode (d : Desc) : Nat := leAt d 0 1
def dOp (d : Desc) : Op := (Op.ofCode (dCode d)).getD .nop
def dMode (d : Desc) : Nat := dBits d 1 3 0
def dShape (d : Desc) : Nat := dBits d 2 2 0
def dAmode (d : Desc) : Bool := dBit d 2 4
def dMvAllow (d : Desc) : Bool := dBit d 4 0
def dWiden (d : Desc) : Bool := dBit d 4 1
def dSnuffIssue (d : Desc) : Bool := dBit d 4 2
def dSnuffDone (d : Desc) : Bool := dBit d 4 3
def dCrec (d : Desc) : Bool := dBit d 4 4
def dIrq (d : Desc) : Bool := dBit d 4 5
def dPload (d : Desc) : Bool := dBit d 4 6
def dTag (d : Desc) : Nat := leAt d 8 8
def dSbRd (d : Desc) : Nat := leAt d 16 16
def dSbWr (d : Desc) : Nat := leAt d 32 16
def dWaitSem (d : Desc) : Nat := dBits d 48 13 0
def dWaitEn (d : Desc) : Bool := dBit d 48 14
def dSigSem (d : Desc) : Nat := dBits d 50 13 0
def dSigEn (d : Desc) : Bool := dBit d 50 14
def dSigSet (d : Desc) : Bool := dBit d 50 15
def dWaitValue (d : Desc) : W32 := BitVec.ofNat 32 (leAt d 52 4)
def dSigValue (d : Desc) : W32 := BitVec.ofNat 32 (leAt d 56 4)

/-- The descriptor is the program-load form of ELEM (R124). -/
def dIsPload (d : Desc) : Bool := dOp d == .elem && dPload d

/-- Neither control nor mover (R191). -/
def dIsCompute (d : Desc) : Bool := !(dOp d).isControl && !(dOp d).isMover

/-! ### Operands (R162) -/

/-- An operand block. -/
structure Opnd where
  base : Nat
  fmt : Nat
  plev : Nat
  en : Bool
  rmask : Nat
  ncomp : Nat
  bcast : Bool
  strides : List Int
deriving DecidableEq, Repr

/-- The operand block x: 0 for A, 1 for B, 2 for C, 3 for aux. -/
def opnd (d : Desc) (x : Nat) : Opnd :=
  let o := 64 + 32 * x
  { base := leAt d o 6
    fmt := dBits d (o + 6) 3 0
    plev := dBits d (o + 6) 6 4
    en := dBit d (o + 6) 7
    rmask := dBits d (o + 7) 3 0
    ncomp := dBits d (o + 7) 6 4
    bcast := dBit d (o + 7) 7
    strides := (List.range 6).map fun l => sext 32 (leAt d (o + 8 + 4 * l) 4) }

/-- The format of an operand; a reserved code is refused before it is used. -/
def Opnd.format (o : Opnd) : Fmt := (Fmt.ofCode o.fmt).getD .int8

def Opnd.stride (o : Opnd) (l : Nat) : Int := o.strides.getD l 0

/-- Components per element (R135). -/
def Opnd.comps (o : Opnd) : Nat := o.ncomp + 1

/-! ### Loop nest (R164, R165) -/

def dBoundField (d : Desc) (l : Nat) : Nat := leAt d (192 + 2 * l) 2
def dBref (d : Desc) (l : Nat) : Bool := dBit d 204 l
def dIdxOob (d : Desc) : Bool := dBit d 204 6
def dIdxLimit (d : Desc) : Nat := leAt d 205 3

/-- Bound l: its immediate, or the bound register that it names. -/
def dBound (bound : Tab W32) (d : Desc) (l : Nat) : Nat :=
  if dBref d l then (tget 0 bound (dBoundField d l % 32)).toNat else dBoundField d l

/-- The six bounds with the bound registers as they stand. -/
def dBounds (bound : Tab W32) (d : Desc) : List Nat := (List.range 6).map (dBound bound d)

/-- Bound l of a captured list. -/
def bnd (bs : List Nat) (l : Nat) : Nat := bs.getD l 0

/-! ### Operation blocks (R173 to R177) -/

def dSatT (d : Desc) : Nat := leAt d 208 2
def dAscale (d : Desc) : Nat := dBits d 210 1 0
def dTscale (d : Desc) : Nat := leAt d 212 4
def dBscale (d : Desc) : Nat := leAt d 216 6
def dRtab (d : Desc) : Nat := dBits d 224 3 0
def dRtabEn (d : Desc) : Bool := dBit d 224 4
def dArg (d : Desc) : Nat := dBits d 224 6 5
def dClampLo (d : Desc) : Nat := leAt d 228 4
def dClampHi (d : Desc) : Nat := leAt d 232 4
def dInH (d : Desc) : Nat := leAt d 236 2
def dInW (d : Desc) : Nat := leAt d 238 2
def dPadT (d : Desc) : Nat := leAt d 240 1
def dPadL (d : Desc) : Nat := leAt d 241 1
def dStrY (d : Desc) : Nat := dBits d 242 3 0
def dStrX (d : Desc) : Nat := dBits d 242 7 4
def dDilY (d : Desc) : Nat := dBits d 243 3 0
def dDilX (d : Desc) : Nat := dBits d 243 7 4
def dGroups (d : Desc) : Nat := leAt d 244 2

def dProg (d : Desc) : Nat := dBits d 208 3 0
def dOutmode (d : Desc) : Nat := dBits d 208 5 4
def dFold (d : Desc) : Nat := dBits d 209 2 0
def dFoldP1 (d : Desc) : Bool := dBit d 209 3
def dFoldKey (d : Desc) : Nat := dBits d 209 7 4
def dFoldNpay (d : Desc) : Nat := dBits d 210 2 0
def dProgEn (d : Desc) : Bool := dBit d 210 3
def dAuxRole (d : Desc) : Nat := dBits d 210 5 4
def dCntReg (d : Desc) : Nat := dBits d 211 4 0
def dCntEn (d : Desc) : Bool := dBit d 211 5
def dFill (d : Desc) : Nat := leAt d 212 4
def dTrap (d : Desc) : Nat := dBits d 216 4 0
def dNout (d : Desc) : Nat := dBits d 217 3 0
def dLtypeA (d : Desc) : Nat := dBits d 218 2 0
def dLtypeB (d : Desc) : Nat := dBits d 218 6 4
def dLtypeAux (d : Desc) : Nat := dBits d 219 2 0
def dLtypeOut (d : Desc) : Nat := dBits d 219 6 4
def dTopkK (d : Desc) : Nat := leAt d 220 2
def dSMax (d : Desc) : Nat := leAt d 222 2

def dVBase (d : Desc) : Nat := leAt d 208 6
def dMask (d : Desc) : Nat := dBits d 214 1 0
def dScale (d : Desc) : Nat := leAt d 216 4
def dQPos0 (d : Desc) : Nat := leAt d 220 4
/-- The value strides of ATTN at L0, L2, L3, L4 and L5; the stride at L1 is 0 (R175). -/
def dVStrides (d : Desc) : List Int :=
  let v := fun j => sext 32 (leAt d (224 + 4 * j) 4)
  [v 0, 0, v 1, v 2, v 3, v 4]

def dBody (d : Desc) : Nat := leAt d 208 1
def dRepReg (d : Desc) : Nat := dBits d 209 4 0
def dRepFromReg (d : Desc) : Bool := dBit d 209 5
def dRepCount (d : Desc) : Nat := leAt d 210 2
/-- RSTRIDE_A, _B, _C and _AUX, as patterns. -/
def dRstrides (d : Desc) : List W32 := (List.range 4).map fun x => BitVec.ofNat 32 (leAt d (212 + 4 * x) 4)

def dLbFirst (d : Desc) : Nat := dBits d 208 4 0
def dLbCount (d : Desc) : Nat := dBits d 209 5 0

/-- COMPRESS with a count register (R143). -/
def dWritesCount (d : Desc) : Bool := dOp d == .elem && !dPload d && dCntEn d

/-! ### Dimensions (R167) -/

/-- K: the reduction extent. -/
def dimK (d : Desc) (bs : List Nat) : Nat :=
  match dOp d with
  | .conv | .convw | .dwconv => bnd bs 0 * bnd bs 1 * bnd bs 2
  | _ => bnd bs 0

/-- N: output channels, of one group for CONV. -/
def dimN (d : Desc) (bs : List Nat) : Nat :=
  match dOp d with
  | .conv | .convw | .dwconv => bnd bs 3
  | _ => bnd bs 1

/-- M: output rows or pixels. -/
def dimM (d : Desc) (bs : List Nat) : Nat :=
  match dOp d with
  | .conv | .convw | .dwconv => bnd bs 4 * bnd bs 5
  | _ => bnd bs 2

/-- Batch problems of MATMUL, MATVEC and DIST. -/
def dimBatch (d : Desc) (bs : List Nat) : Nat :=
  match dOp d with
  | .conv | .convw | .dwconv => 1
  | _ => bnd bs 3 * bnd bs 4 * bnd bs 5

/-- Independent groups of a CONV; 1 otherwise. -/
def dimG (d : Desc) : Nat :=
  match dOp d with
  | .conv => dGroups d
  | _ => 1

/-- The product of the six bounds. -/
def prodBounds (bs : List Nat) : Nat := bs.foldl (· * ·) 1

/-- The six indices of flattened element `i`, L0 varying fastest. -/
def unflatten : List Nat → Nat → List Nat
  | [], _ => []
  | b :: bs, i => i % max b 1 :: unflatten bs (i / max b 1)

/-- The shape menu of R100: M, N and K step. -/
def shapeDims : Nat → Nat × Nat × Nat
  | 0 => (128, 128, 128)
  | 1 => (256, 64, 256)
  | 2 => (64, 256, 64)
  | 3 => (512, 32, 512)
  | 4 => (32, 512, 32)
  | _ => (16, 1024, 16)

/-- A 4-bit pair at rate 2 (R75). -/
def rateTwo (d : Desc) : Bool :=
  let a := (opnd d 0).format
  let b := (opnd d 1).format
  (a == .int4 && b == .int4) || (a == .bs4 && b == .bs4)

/-- An FP16 or BF16 pair, which works in groups of 2 by 2 (R95). -/
def groupForm (d : Desc) : Bool :=
  let a := (opnd d 0).format
  a == .fp16 || a == .bf16

/-- M, N and K step of a descriptor's tile, with the changes that its formats make (R95, R100), and in the widened form when
`wide` (R89). -/
def tileDims (d : Desc) (wide : Bool) : Nat × Nat × Nat :=
  let (m, n, k) := shapeDims (dShape d)
  if dOp d == .dist && dMode d == 7 then (m, n, 8 * k)
  else if wide || groupForm d then (m, n / 2, k / 2)
  else if rateTwo d then (m, n, 2 * k)
  else (m, n, k)

/-- The descriptor runs on the matrix-vector path (R113, whose rows are tried in order, and R114). -/
def onMatvec (d : Desc) (bs : List Nat) : Bool :=
  dOp d == .matvec ||
    (dMvAllow d && (dMode d == 0 || dMode d == 1) && (dOp d == .matmul || dOp d == .dist) &&
      dimK d bs != 0 && (decide (dimM d bs ≤ 8) || dimN d bs == 1))

/-! ### Addresses (R168 to R171) -/

/-- The repeat terms of an operand: for each enclosing REPEAT that RMASK selects, its iteration times its RSTRIDE. `y` is the
operand whose RSTRIDE is taken. -/
def repTermFrom (rmask y : Nat) : List Frame → Nat → Int
  | [], _ => 0
  | f :: fs, dep =>
    (if nbit rmask dep then (f.iter : Int) * sext 32 (f.strides.getD y 0).toNat else 0) + repTermFrom rmask y fs (dep + 1)

def repTerm (o : Opnd) (y : Nat) (frames : List Frame) : Int := repTermFrom o.rmask y frames 0

/-- The sum of index times stride over the levels, leaving out the packing level of a packed operand. -/
def affine (skip : Option Nat) : List Int → List Nat → Nat → Int
  | s :: ss, i :: is, l => (if skip = some l then 0 else (i : Int) * s) + affine skip ss is (l + 1)
  | _, _, _ => 0

/-- The packing level of a packed operand. -/
def Opnd.skip (o : Opnd) : Option Nat := if o.format.packed then some o.plev else none

/-- Bytes that the packed index moves: two INT4 or BS4 elements, eight BIN1 elements in a byte (R64, R166). -/
def packOff (f : Fmt) (i : Nat) : Nat := if f = .bin1 then i / 8 else i / 2

/-- The byte address of the element of operand `x` at an index vector (R168). -/
def elemAddr (o : Opnd) (x : Nat) (frames : List Frame) (is : List Nat) : Int :=
  let a := (o.base : Int) + affine o.skip o.strides is 0 + repTerm o x frames
  if o.format.packed then a + packOff o.format (is.getD o.plev 0) else a

/-- The position inside its byte of a packed element. -/
def elemPos (o : Opnd) (is : List Nat) : Nat := is.getD o.plev 0

/-- The index vector with level `l` replaced. -/
def setIdx (is : List Nat) (l v : Nat) : List Nat := is.set l v

/-- Input row and column of a convolution tap (R170), which may lie in the padding. -/
def convRow (d : Desc) (oy ky : Nat) : Int := (oy * dStrY d : Nat) + (ky * dDilY d : Nat) - (dPadT d : Nat)
def convCol (d : Desc) (ox kx : Nat) : Int := (ox * dStrX d : Nat) + (kx * dDilX d : Nat) - (dPadL d : Nat)

/-- A position of the input map that lies inside it. -/
def inMap (d : Desc) (iy ix : Int) : Bool :=
  decide (0 ≤ iy ∧ iy < (dInH d : Nat) ∧ 0 ≤ ix ∧ ix < (dInW d : Nat))

/-- The indices of channel `cc` at an input position inside the map: operand A's STRIDE0, STRIDE1 and STRIDE2 are the channel, pixel and row
pitches (R170), so that its address and its place in a packed byte follow R168. -/
def convIdx (iy ix : Int) (cc : Nat) : List Nat := [cc, ix.toNat, iy.toNat]

/-- Row pitch of a GROUP32 scale tensor of `g` groups: padded to a multiple of 64 bytes (R72). -/
def groupPitch (g : Nat) : Nat := alignUp (2 * g) 64

/-- Row pitch of a block-scale array (R69). -/
def blockPitch (k : Nat) : Nat := alignUp (cdiv k 16) 64

/-! ### Extents (R180) -/

/-- The lowest and highest byte offset that levels with their counts reach. -/
def affineExt (skip : Option Nat) (pk : Fmt) : List Int → List Nat → Nat → Int × Int
  | s :: ss, n :: ns, l =>
    let (lo, hi) := affineExt skip pk ss ns (l + 1)
    let t : Int := if skip = some l then packOff pk (n - 1) else ((n - 1 : Nat) : Int) * s
    (lo + min t 0, hi + max t 0)
  | _, _, _ => (0, 0)

/-- First and last byte of an operand whose indices run over the given counts, with `size` bytes at each address; none when
it touches nothing. -/
def opExtent (o : Opnd) (x : Nat) (frames : List Frame) (counts : List Nat) (size : Nat) : Option (Int × Int) :=
  if counts.any (· == 0) then none
  else
    let (lo, hi) := affineExt o.skip o.format o.strides counts 0
    let b := (o.base : Int) + repTerm o x frames
    some (b + lo, b + hi + size - 1)

/-- Bytes from that of element `e` to the last one of its `n` adjacent components (R64, R135): those of a packed format begin inside a byte. -/
def compBytes (f : Fmt) (n e : Nat) : Nat := if f.packed then cdiv (f.bits * (e % (8 / f.bits) + n)) 8 else f.bytes * n

/-- Bytes of the last element of an ELEM or REDUCE stream of `n` components whose indices run over the given counts. -/
def streamBytes (o : Opnd) (n : Nat) (counts : List Nat) : Nat := compBytes o.format n (counts.getD o.plev 1 - 1)

/-- The lowest and highest input coordinate, inside 0 to size − 1, that some output and tap reach (R170): `n` outputs `str`
apart, `k` taps `dil` apart. -/
def convReach (n str dil pad size : Nat) : Nat → Option (Int × Int)
  | 0 => none
  | k + 1 =>
    let c : Int := (k * dil : Nat) - (pad : Int)
    -- first output whose coordinate is not negative, last one whose coordinate stays below size
    let o0 := if c < 0 then cdiv (-c).toNat (max str 1) else 0
    let rest := convReach n str dil pad size k
    if (size : Int) - 1 - c < 0 ∨ n = 0 then rest
    else
      let o1 := min (n - 1) (((size : Int) - 1 - c).toNat / max str 1)
      if o1 < o0 then rest
      else
        let lo : Int := (o0 * str : Nat) + c
        let hi : Int := (o1 * str : Nat) + c
        match rest with
        | some (a, b) => some (min a lo, max b hi)
        | none => some (lo, hi)

/-- The input rows and columns that a convolution reaches; for CONVW the 4 × 4 patches of its 2 × 2 blocks (R118). -/
def convReachY (d : Desc) (bs : List Nat) : Option (Int × Int) :=
  if dOp d = .convw then convReach (cdiv (bnd bs 5) 2) 2 1 (dPadT d) (dInH d) (if bnd bs 2 = 0 then 0 else 4)
  else convReach (bnd bs 5) (dStrY d) (dDilY d) (dPadT d) (dInH d) (bnd bs 2)
def convReachX (d : Desc) (bs : List Nat) : Option (Int × Int) :=
  if dOp d = .convw then convReach (cdiv (bnd bs 4) 2) 2 1 (dPadL d) (dInW d) (if bnd bs 1 = 0 then 0 else 4)
  else convReach (bnd bs 4) (dStrX d) (dDilX d) (dPadL d) (dInW d) (bnd bs 1)

/-- Extent of a convolution input (R180: the geometry of R170 is used). -/
def convExtent (d : Desc) (bs : List Nat) (frames : List Frame) : Option (Int × Int) :=
  let o := opnd d 0
  let chans := if dOp d = .dwconv then bnd bs 3 else dimG d * bnd bs 0
  if bs.any (· == 0) || chans == 0 then none
  else
    match convReachY d bs, convReachX d bs with
    | some (y0, y1), some (x0, x1) =>
      let term := fun (l : Nat) (lo hi : Int) =>
        if o.skip = some l then ((packOff o.format lo.toNat : Int), (packOff o.format hi.toNat : Int))
        else (min (o.stride l * lo) (o.stride l * hi), max (o.stride l * lo) (o.stride l * hi))
      let (ya, yb) := term 2 y0 y1
      let (xa, xb) := term 1 x0 x1
      let (ca, cb) := term 0 0 ((chans - 1 : Nat) : Int)
      let b := (o.base : Int) + repTerm o 0 frames
      some (b + ya + xa + ca, b + yb + xb + cb + o.format.bytes - 1)
    | _, _ => none

/-- Bounds with some levels set to one index: levels that an operand of the array opcodes does not run over. -/
def oneAt (bs : List Nat) (ls : List Nat) : List Nat := ls.foldl (fun b l => b.set l 1) bs

/-- Bytes of an activation scale tensor of `m` rows over `k` positions (R72, R74): one row contiguous for ROW, padded rows
for GROUP32. -/
def scaleBytes (ascale m k : Nat) : Nat :=
  if ascale = 1 then 2 * m else if m = 0 then 0 else (m - 1) * groupPitch (cdiv k 32) + 2 * cdiv k 32

/-- The K over which GROUP32 groups: input channels for CONVW (R74). -/
def scaleK (d : Desc) (bs : List Nat) : Nat := if dOp d = .convw then bnd bs 0 else dimK d bs

/-- What a descriptor does with a place. -/
inductive Use where
  | read
  | write
deriving DecidableEq, Repr

/-- One extent of a descriptor: the operand (0 to 3, 4 block scales, 5 rescale table, 6 values of ATTN), its use and its
first and last byte. -/
structure Extent where
  x : Nat
  use : Use
  lo : Int
  hi : Int
deriving DecidableEq, Repr

/-- An extent, when the operand touches something. -/
def mkExt (x : Nat) (u : Use) (e : Option (Int × Int)) : List Extent :=
  match e with
  | some (lo, hi) => [⟨x, u, lo, hi⟩]
  | none => []

/-- Extents of an array descriptor: `n` output channels count each group once. The rescale table of slot value `rt`. -/
def arrayExtents (d : Desc) (bs : List Nat) (frames : List Frame) (rt : Option W64) : List Extent :=
  let a := opnd d 0
  let b := opnd d 1
  let c := opnd d 2
  let x := opnd d 3
  let k := dimK d bs
  let n := dimN d bs
  let m := dimM d bs
  let none? := decide (n = 0 ∨ m = 0 ∨ dimBatch d bs = 0 ∨ dimG d = 0)
  if none? then []
  else
    let wide := dWiden d
    let csize := if dArg d ≠ 0 then 4 else if wide && c.format.bytes == 1 then 2 else c.format.bytes
    let rows := if dAmode d then bs.set 2 (max 1 (dIdxLimit d)) else bs
    let ra := if k = 0 then [] else
      if (dOp d).isConv then mkExt 0 .read (convExtent d bs frames)
      else mkExt 0 .read (opExtent a 0 frames rows a.format.bytes)
    let wbs := match dOp d with
      | .convw => (bs.set 1 4).set 2 4
      | .conv => bs.set 3 (dimG d * bnd bs 3)
      | _ => bs
    let rb := if k = 0 then [] else mkExt 1 .read (opExtent b 1 frames wbs b.format.bytes)
    let cbs := match dOp d with
      | .conv => oneAt (bs.set 3 (dimG d * bnd bs 3)) [0, 1, 2]
      | .convw | .dwconv => oneAt bs [0, 1, 2]
      | _ => oneAt bs [0]
    let cbs := if dArg d = 0 then cbs else if (dOp d).isConv then cbs.set 3 1 else cbs.set 1 1
    -- widened outputs stand at twice the byte offset from the output base (R89)
    let scale : Int := if wide && csize == 2 && c.format.bytes == 1 then 2 else 1
    let wc := match opExtent { c with strides := c.strides.map (· * scale), plev := 0, fmt := 1 } 2 frames cbs csize with
      | some e => mkExt 2 .write (some e)
      | none => []
    let rs := if dAscale d = 0 || k == 0 then [] else
      mkExt 3 .read (opExtent { x with fmt := 7 } 3 frames (if (dOp d).isConv then [1, 1, 1, 1, 1, 1] else oneAt bs [0, 1, 2])
        (scaleBytes (dAscale d) m (scaleK d bs)))
    let ri := if dAmode d then mkExt 3 .read (opExtent x 3 frames (oneAt bs [0, 1]) 4) else []
    let rk := if (b.format == .bs4 || b.format == .bs8) && k ≠ 0 then
        [⟨4, .read, (dBscale d : Int), (dBscale d : Int) + (dimG d * n - 1) * blockPitch k + cdiv k 16 - 1⟩] else []
    let rr := match rt with
      | some v => [⟨5, .read, (v.toNat / 16 % 2 ^ 44 * 16 : Nat), (v.toNat / 16 % 2 ^ 44 * 16 + 16 * (dimG d * n) : Nat) - 1⟩]
      | none => []
    ra ++ rb ++ wc ++ rs ++ ri ++ rk ++ rr

/-- Extents of an ELEM descriptor (R174). -/
def elemExtents (d : Desc) (bs : List Nat) (frames : List Frame) : List Extent :=
  let a := opnd d 0
  let b := opnd d 1
  let c := opnd d 2
  let x := opnd d 3
  if dPload d then [⟨0, .read, (a.base : Int) + repTerm a 0 frames, (a.base : Int) + repTerm a 0 frames + 259⟩]
  else
    let ones := [1, 1, 1, 1, 1, 1]
    let n := prodBounds bs
    if n = 0 then []
    else
      let abs := if dAmode d then bs.set 1 (max 1 (dIdxLimit d)) else bs
      let ra := mkExt 0 .read (opExtent a 0 frames abs (streamBytes a a.comps abs))
      let rb := if !b.en then [] else
        if dFold d ≠ 0 then mkExt 1 .write (opExtent { b with fmt := 1 } 1 frames ones 32)
        else mkExt 1 .read (let n := if b.bcast then ones else bs; opExtent b 1 frames n (streamBytes b b.comps n))
      let wc := if c.en then mkExt 2 .write (opExtent c 2 frames bs (streamBytes c (max 1 (dNout d)) bs)) else []
      let rx := if !x.en then [] else
        if dAmode d then mkExt 3 .read (opExtent x 3 frames (oneAt bs [0]) 4)
        else match dAuxRole d with
          | 0 => mkExt 3 .read (let n := if x.bcast then ones else bs; opExtent x 3 frames n (streamBytes x x.comps n))
          | 1 => mkExt 3 .read (opExtent { x with fmt := 1 } 3 frames ones 1032)
          | _ => mkExt 3 (if dOutmode d = 1 then .write else .read) (opExtent x 3 frames bs 1)
      ra ++ rb ++ wc ++ rx

/-- Result slots and bytes of a REDUCE row (R151, R153, R174). -/
def reduceSlots (d : Desc) : Nat × Nat :=
  let segs := if dAuxRole d = 3 then max 1 (dSMax d) else 1
  let per := if dFold d = 6 then dTopkK d else 1
  let c := opnd d 2
  (segs * per, if dFold d ≥ 4 then 8 else c.format.bytes)

/-- Extents of a REDUCE descriptor. -/
def reduceExtents (d : Desc) (bs : List Nat) (frames : List Frame) : List Extent :=
  let a := opnd d 0
  let c := opnd d 2
  let x := opnd d 3
  let (slots, size) := reduceSlots d
  let ra := mkExt 0 .read (opExtent a 0 frames bs (streamBytes a a.comps bs))
  let wc := mkExt 2 .write (opExtent { c with fmt := if dFold d ≥ 4 then 1 else c.fmt } 2 frames (bs.set 0 slots) size)
  let rx := if !x.en then [] else
    match dAuxRole d with
    | 1 => mkExt 3 .read (opExtent { x with fmt := 1 } 3 frames [1, 1, 1, 1, 1, 1] 1032)
    | 3 => mkExt 3 .read (opExtent { x with fmt := 11 } 3 frames bs 2)
    | _ => []
  ra ++ wc ++ rx

/-- Extents of the movers, GATHER and SCATTER. -/
def moveExtents (d : Desc) (bs : List Nat) (frames : List Frame) : List Extent :=
  let a := opnd d 0
  let c := opnd d 2
  let x := opnd d 3
  match dOp d with
  | .loadb =>
    let lo := (a.base : Int) + repTerm a 0 frames
    [⟨0, .read, lo, lo + 4 * dLbCount d - 1⟩]
  | op =>
    let lim := max 1 (dIdxLimit d)
    let abs := if dAmode d && op ≠ .scatter then bs.set 1 lim else bs
    let cbs := if dAmode d && op = .scatter then bs.set 1 lim else bs
    if bs.any (· == 0) then []
    else
      mkExt 0 .read (opExtent a 0 frames abs a.format.bytes) ++
      mkExt 2 .write (opExtent c 2 frames cbs c.format.bytes) ++
      (if dAmode d then mkExt 3 .read (opExtent x 3 frames (oneAt bs [0]) 4) else [])

/-- Extents of an ATTN descriptor (R175; aux segment ids one 16-bit id for each key/value position). With no position it writes C alone
(R212, R221). -/
def attnExtents (d : Desc) (bs : List Nat) (frames : List Frame) : List Extent :=
  let a := opnd d 0
  let b := opnd d 1
  let c := opnd d 2
  let x := opnd d 3
  let wc := mkExt 2 .write (opExtent c 2 frames (oneAt bs [2]) c.format.bytes)
  if (oneAt bs [2]).any (· == 0) then []
  else if bnd bs 2 = 0 then wc
  else
    let v := { b with base := dVBase d, strides := dVStrides d }
    mkExt 0 .read (opExtent a 0 frames (oneAt bs [2]) a.format.bytes) ++
    mkExt 1 .read (opExtent b 1 frames (oneAt bs [1]) b.format.bytes) ++
    wc ++
    mkExt 6 .read (opExtent v 1 frames (oneAt bs [1]) v.format.bytes) ++
    (if x.en then mkExt 3 .read (opExtent { x with fmt := 7 } 3 frames bs 2) else [])

/-- Every extent of a descriptor with the bounds in force and the REPEAT terms of the current iteration. -/
def extents (d : Desc) (bs : List Nat) (frames : List Frame) (rt : Option W64) : List Extent :=
  match dOp d with
  | .elem => elemExtents d bs frames
  | .reduce => reduceExtents d bs frames
  | .attn => attnExtents d bs frames
  | .loadb | .copy | .prefetch | .gather | .scatter => moveExtents d bs frames
  | op => if op.isArray then arrayExtents d bs frames rt else []

/-! ### The local window (R28) -/

/-- A virtual address with bits [47:40] equal to 0xFF. -/
def isLocal (va : Nat) : Bool := va / 2 ^ 40 % 256 == 0xFF

/-- The region of a window offset (R28). -/
def regionOf (off : Nat) : Option Nat :=
  if off < 0x600000 then some (off / 98304)
  else if off < 0xA00000 then some (64 + (off - 0x600000) / 131072)
  else none

/-- The regions that window offsets lo..hi touch, as a mask. -/
def regionMask (lo hi : Nat) : Nat :=
  match regionOf lo, regionOf hi with
  | some a, some b => 2 ^ (b + 1) - 2 ^ a
  | some a, none => 2 ^ 96 - 2 ^ a
  | none, _ => 0

end Sys2Proof.Machine
end

