-- ==== Sys2Proof/Machine/DescCheck.lean ====
section
/-!
DEFINITION. When a descriptor is invalid (R182 to R185): the checks made when it is read, which depend on its own bytes
alone and name the lowest failing field (R205), and the checks made when it issues, which depend on bound registers, rescale
slots, program slots, the REPEAT nesting and the operand extents.
-/
namespace Sys2Proof.Machine

/-- A failed check: the byte offset of the field that it names. -/
abbrev Check := Nat × Bool

/-- Bytes lo to hi − 1 must be zero. -/
def zeroBytes (d : Desc) (lo hi : Nat) : List Check :=
  (List.range (hi - lo)).map fun i => (lo + i, d.getD (lo + i) 0 != 0)

/-- A field of `n` bytes must be zero; it is named at its first byte (R205). -/
def zeroField (d : Desc) (o n : Nat) : Check := (o, leAt d o n != 0)

/-- The fields of the loop nest, all zero in an opcode without one (R164): the bounds, BREF and IDX_OOB, and IDX_LIMIT. -/
def zeroNest (d : Desc) : List Check :=
  ((List.range 6).map fun l => zeroField d (192 + 2 * l) 2) ++ [zeroField d 204 1, zeroField d 205 3]

/-- The fields of the convolution geometry, all zero outside a convolution (R173). -/
def zeroGeometry (d : Desc) : List Check :=
  [zeroField d 236 2, zeroField d 238 2, zeroField d 240 1, zeroField d 241 1, zeroField d 242 1, zeroField d 243 1, zeroField d 244 2]

/-- The bits of a mask in one byte must be zero. -/
def zeroMask (d : Desc) (o mask : Nat) : Check := (o, (leAt d o 1 &&& mask) != 0)

/-! ### Reading: header, dependence block and reserved bits (R159, R160) -/

/-- Reserved bits of the operation block, and the whole block of an opcode without one (R172). -/
def reservedBlock (d : Desc) : Op → List Check
  | .repeat => [zeroMask d 209 0xC0] ++ zeroBytes d 228 256
  | .loadb => [zeroMask d 208 0xE0, zeroMask d 209 0xC0] ++ zeroBytes d 210 256
  | .elem | .reduce =>
    [zeroMask d 208 0xC0, zeroMask d 210 0xC0, zeroMask d 211 0xC0, zeroMask d 216 0xE0, zeroMask d 217 0xF0,
      zeroMask d 218 0x88, zeroMask d 219 0x88] ++ zeroBytes d 224 256
  | .attn => [zeroMask d 214 0xFC, zeroMask d 215 0xFF] ++ zeroBytes d 244 256
  | op =>
    if op.isArray then
      [zeroMask d 210 0xFC, zeroMask d 211 0xFF, zeroMask d 224 0x80] ++ zeroBytes d 222 224 ++ zeroBytes d 225 228 ++
        zeroBytes d 246 256 ++ (if op.isConv then [] else zeroGeometry d)
    else zeroBytes d 208 256

/-- Reserved bits that every descriptor has. -/
def reservedCommon (d : Desc) : List Check :=
  [zeroMask d 1 0xF0, zeroMask d 2 0xE8, zeroMask d 3 0xFF, zeroMask d 4 0x80] ++ zeroBytes d 5 8 ++ zeroBytes d 28 32 ++
    zeroBytes d 44 48 ++ [zeroMask d 49 0x80] ++ zeroBytes d 60 64 ++ [zeroMask d 204 0x80]

/-- Cell modes of an opcode (R97, R166). -/
def modeOk (op : Op) (m : Nat) : Bool :=
  match op with
  | .matvec => m ≤ 1
  | .dist => 1 ≤ m && m ≤ 7
  | _ => m == 0

/-- Tile shapes of an opcode (R117, R120, R166, R181). -/
def shapeOk (op : Op) (x : Nat) : Bool :=
  match op with
  | .matmul | .conv | .dist => x ≤ 5
  | .convw => x == 0 || x == 1 || x == 3
  | _ => x == 0

/-- AMODE of an opcode (R171). -/
def amodeOk (op : Op) (a : Bool) : Bool :=
  match op with
  | .gather | .scatter => a
  | .matmul | .matvec | .dist | .copy | .elem => true
  | _ => !a

def headerChecks (d : Desc) (op : Op) : List Check :=
  [ (1, !modeOk op (dMode d)),
    (2, !shapeOk op (dShape d) || !amodeOk op (dAmode d)),
    (4, (dPload d && op != .elem) || (op == .attn && (dMvAllow d || dWiden d))),
    (49, op == .wait && !dWaitEn d),
    (51, op == .signal && !dSigEn d) ]

/-! ### Reading: operands (R162, R163, R166) -/

/-- Which operands an opcode uses: some true or false, or none where it may be either. -/
def opUse (d : Desc) (op : Op) : List (Option Bool) :=
  let t := some true
  let f := some false
  match op with
  | .nop | .wait | .signal | .fence | .barrier | .repeat => [f, f, f, f]
  | .loadb => [t, f, f, f]
  | .copy => [t, f, t, some (dAmode d)]
  | .prefetch => [t, f, t, f]
  | .gather | .scatter => [t, f, t, t]
  | .elem =>
    if dPload d then [t, f, f, f]
    else [t, if dFold d ≠ 0 then t else none, some (dOutmode d != 3),
      if dAuxRole d ≠ 0 ∨ dAmode d then t else none]
  | .reduce => [t, f, t, some (dAuxRole d != 0)]
  | .attn => [t, t, t, some (dMask d ≥ 2)]
  | _ => [t, t, t, some (dAscale d != 0 || dAmode d)]

/-- The record size of an operand bound to records (R163); 0 for any other. -/
def recSize (d : Desc) (op : Op) (x : Nat) : Nat :=
  if op == .elem && x == 1 && dFold d != 0 && !dPload d then 32
  else if op.isArray && x == 2 && dArg d != 0 then 4
  else if op == .reduce && x == 2 && 4 ≤ dFold d && dFold d ≤ 6 then 8
  else 0

/-- Operand `x` holds 16-bit segment ids, whose FMT is 0 by definition (R174, R211). -/
def isSegIds (d : Desc) (op : Op) (x : Nat) : Bool :=
  x == 3 && ((op == .reduce && dAuxRole d == 3) || op == .attn)

/-- C's FMT is ignored when ARG is set (R107). -/
def fmtIgnored (d : Desc) (op : Op) (x : Nat) : Bool := op.isArray && x == 2 && dArg d != 0

/-- Element size that alignment is held to (R163). -/
def alignSize (d : Desc) (op : Op) (x : Nat) : Nat :=
  let o := opnd d x
  if recSize d op x ≠ 0 then recSize d op x
  else if isSegIds d op x then 2
  else if fmtIgnored d op x then 1
  else o.format.bytes

/-- Every field of an operand that is not used is zero (R162, R183); its first byte is named. -/
def unusedChecks (d : Desc) (x : Nat) : List Check :=
  let o := 64 + 32 * x
  [(o, leAt d o 6 != 0), (o + 6, leAt d (o + 6) 1 != 0), (o + 7, leAt d (o + 7) 1 != 0)] ++
    (List.range 6).map fun l => (o + 8 + 4 * l, leAt d (o + 8 + 4 * l) 4 != 0)

def operandChecks (d : Desc) (op : Op) (x : Nat) : List Check :=
  let o := 64 + 32 * x
  let p := opnd d x
  let use := (opUse d op).getD x none
  let en : Check := (o + 6, use == some (!p.en))
  -- R162: an operand that is not enabled, or that R166 dashes, has every field zero
  if !p.en || use == some false then en :: unusedChecks d x
  else
    let sz := alignSize d op x
    let ign := fmtIgnored d op x || isSegIds d op x
    let packed := p.format.packed && !ign
    [ en,
      (o + 6, !ign && (Fmt.ofCode p.fmt).isNone),
      (o + 6, isSegIds d op x && p.fmt != 0),
      (o + 6, if packed then decide (5 < p.plev) || p.stride p.plev != 0 else p.plev != 0),
      (o + 7, p.ncomp != 0 && !op.isElem),
      (o + 7, p.bcast && !(op == .elem && !dPload d && (x == 1 || x == 3))),
      (o, p.base % sz != 0) ] ++
    (List.range 6).map fun l => (o + 8 + 4 * l, p.stride l % (sz : Int) != 0)

/-! ### Reading: formats of the array opcodes (R73, R75, R97) -/

/-- Pairs of the table of R75, INT10 and BIN1 apart. -/
def pairTable (a b : Fmt) : Bool :=
  match a, b with
  | .int8, .int8 | .uint8, .int8 | .int4, .int4 | .int8, .int4 | .uint8, .int4 => true
  | .e4m3, .e4m3 | .e4m3, .e5m2 | .e4m3, .bs8 | .e5m2, .e4m3 | .e5m2, .e5m2 | .e5m2, .bs8 => true
  | .bs4, .bs4 | .e4m3, .bs4 | .e5m2, .bs4 => true
  | .fp16, .fp16 | .bf16, .bf16 => true
  | _, _ => false

/-- The format list of modes L1 and L2SQ, and of MAXPLUS, MINPLUS and CMPCOUNT. -/
def modeFmt (mode : Nat) (f : Fmt) : Bool :=
  match f with
  | .int8 | .uint8 | .e4m3 | .e5m2 | .fp16 | .bf16 => true
  | .int4 => mode == 2 || mode == 3
  | _ => false

/-- The pair of formats is allowed for the opcode and mode. -/
def pairOk (op : Op) (mode : Nat) (a b : Fmt) : Bool :=
  if op == .convw then (a == .int8 || a == .uint8) && b == .int10
  else if mode == 7 then a == .bin1 && b == .bin1
  else if mode ≤ 1 then pairTable a b
  else modeFmt mode a && modeFmt mode b && (a == b || pairTable a b)

/-- Formats of operand A that take activation scales (R73). -/
def scaledA (f : Fmt) : Bool :=
  match f with
  | .int4 | .int8 | .uint8 | .e4m3 | .e5m2 | .bs4 => true
  | _ => false

/-- Output formats of the array opcodes (R173). -/
def arrayOut (f : Fmt) : Bool :=
  match f with
  | .int8 | .uint8 | .e4m3 | .e5m2 | .fp16 | .bf16 | .fp32 | .int32 => true
  | _ => false

/-- Modes that an argument reduction allows (R107). -/
def argOk (arg mode : Nat) : Bool :=
  match arg with
  | 0 => true
  | 1 => mode == 0 || mode == 1 || mode == 6 || mode == 4
  | 2 => mode == 1 || mode == 2 || mode == 3 || mode == 7 || mode == 5
  | _ => false

/-- The immediate bound of a level; none when a register gives it. -/
def immBound (d : Desc) (l : Nat) : Option Nat := if dBref d l then none else some (dBoundField d l)

/-- A condition on an immediate bound fails. -/
def immFails (d : Desc) (l : Nat) (ok : Nat → Bool) : Bool :=
  match immBound d l with
  | some v => !ok v
  | none => false

def arrayChecks (d : Desc) (op : Op) : List Check :=
  let a := opnd d 0
  let b := opnd d 1
  let c := opnd d 2
  let x := opnd d 3
  let asc := dAscale d
  let bs := b.format == .bs4 || b.format == .bs8
  let known := (Fmt.ofCode a.fmt).isSome && (Fmt.ofCode b.fmt).isSome
  let lo := f32 (dClampLo d)
  let hi := f32 (dClampHi d)
  [ (70, known && !pairOk op (dMode d) a.format b.format),
    (210, asc == 3 || (asc != 0 && ((op == .dist && dMode d != 1) || !scaledA a.format || dAmode d))
      || (a.format == .bs4 && asc != 2)),
    (166 + 0, asc != 0 && x.en && x.fmt != 7),
    (166, dAmode d && x.en && x.fmt != 10),
    (134, dArg d == 0 && !arrayOut c.format),
    (224, !argOk (dArg d) (dMode d)),
    (228, lo.isNaN || flt hi lo),
    (232, hi.isNaN),
    (212, !bs && dTscale d != 0),
    (216, if bs then dBscale d % 64 != 0 else dBscale d != 0) ] ++
  (if asc != 0 then (List.range 3).map fun l => (168 + 4 * l, x.stride l != 0) else []) ++
  (if bs then [3, 4, 5].map fun l => (104 + 4 * l, b.stride l != 0) else []) ++
  (if op.isConv then
    [ (242, dStrY d == 0 || dStrX d == 0), (243, dDilY d == 0 || dDilX d == 0),
      (244, dGroups d == 0 || (dGroups d != 1 && op != .conv)) ] ++
    ([3, 4, 5].map fun l => (72 + 4 * l, a.stride l != 0))
   else []) ++
  (match op with
   | .matvec => [(196, immFails d 2 (· ≤ 8))]
   | .conv => [(194, immFails d 1 (· ≤ 63)), (196, immFails d 2 (· ≤ 63))]
   | .convw =>
     [ (194, immFails d 1 fun k => k == 0 || k == 3), (196, immFails d 2 fun k => k == 0 || k == 3),
       (242, dStrY d != 1 || dStrX d != 1), (243, dDilY d != 1 || dDilX d != 1) ]
   | .dwconv =>
     [ (192, immFails d 0 (· ≤ 1)),
       (194, match immBound d 1, immBound d 2 with
         | some v, some w => decide (121 < v * w)
         | _, _ => false) ]
   | _ => [])

/-! ### Reading: the element layout (R135, R136, R174) -/

/-- Memory formats of streams (R136). -/
def streamFmt (f : Fmt) : Bool :=
  match f with
  | .int4 | .int8 | .uint8 | .e4m3 | .e5m2 | .fp16 | .bf16 | .fp32 | .int32 => true
  | _ => false

/-- B is an input stream of an ELEM. -/
def bIsStream (d : Desc) : Bool := dOp d == .elem && (opnd d 1).en && dFold d == 0
/-- aux is an input stream of an ELEM. -/
def auxIsStream (d : Desc) : Bool := dOp d == .elem && (opnd d 3).en && dAuxRole d == 0 && !dAmode d

/-- Input components in all (R135). -/
def inputComps (d : Desc) : Nat :=
  (opnd d 0).comps + (if bIsStream d then (opnd d 1).comps else 0) + (if auxIsStream d then (opnd d 3).comps else 0)

def elemChecks (d : Desc) (op : Op) : List Check :=
  if dPload d then
    -- every field of the layout but PROG is 0 (R174)
    [(208, dOutmode d != 0), (209, leAt d 209 1 != 0), (210, leAt d 210 1 != 0), (211, leAt d 211 1 != 0),
      (212, dFill d != 0), (216, dTrap d != 0), (217, dNout d != 0), (218, leAt d 218 1 != 0), (219, leAt d 219 1 != 0),
      (220, dTopkK d != 0), (222, dSMax d != 0)] ++
    ((List.range 6).map fun l => (72 + 4 * l, (opnd d 0).stride l != 0)) ++
    ((List.range 6).map fun l => (192 + 2 * l, immFails d l (· == 1)))
  else
    let red := op == .reduce
    let fold := dFold d
    let om := dOutmode d
    let role := dAuxRole d
    let x := opnd d 3
    let b := opnd d 1
    [ (208, red && om != 0),
      (209, fold == 7 || (fold == 6 && !red)),
      (210, !red && !dProgEn d),
      (210, role != 0 && dAmode d),
      (210, role == 3 && !red),
      (210, role == 2 && (red || om == 0 || om == 3)),
      (210, om == 2 && role != 2),
      (210, decide (6 < dFoldNpay d)),
      (166, role == 2 && x.en && x.format != .bin1),
      (166, dAmode d && x.en && x.fmt != 10),
      (211, dCntEn d && (red || om != 1)),
      (217, (red || om == 3) != (dNout d == 0) || decide (8 < dNout d)),
      (218, dLtypeA d == 7 || dLtypeB d == 7), (219, dLtypeAux d == 7 || dLtypeOut d == 7),
      (220, if fold == 6 then dTopkK d == 0 || decide (1024 < dTopkK d) else dTopkK d != 0),
      (222, if role == 3 then dSMax d == 0 || decide (4096 < dSMax d) else dSMax d != 0),
      (71, decide (12 < inputComps d)),
      (70, !streamFmt (opnd d 0).format),
      (102, bIsStream d && !streamFmt b.format),
      (134, (opnd d 2).en && !(red && 4 ≤ fold) && !streamFmt (opnd d 2).format),
      (166, auxIsStream d && !streamFmt x.format),
      (192, (List.range 6).all (fun l => !dBref d l) && decide (2 ^ 32 ≤ prodBounds ((List.range 6).map (dBoundField d)))) ] ++
    (if !red && fold != 0 && b.en then
      [(102, leAt d 102 1 % 128 != 0), (103, leAt d 103 1 / 16 != 0)] ++
        (List.range 6).map fun l => (104 + 4 * l, b.stride l != 0)
     else [])

/-! ### Reading: movers, REPEAT and ATTN -/

def moverChecks (d : Desc) (op : Op) : List Check :=
  let a := opnd d 0
  let c := opnd d 2
  match op with
  | .loadb =>
    [(70, a.fmt != 10), (209, dLbCount d == 0 || decide (32 < dLbFirst d + dLbCount d))] ++
      ((List.range 6).map fun l => (72 + 4 * l, a.stride l != 0)) ++
      ((List.range 6).map fun l => (192 + 2 * l, immFails d l (· == 1)))
  | .copy | .gather | .scatter => [(134, a.fmt != c.fmt), (166, dAmode d && (opnd d 3).en && (opnd d 3).fmt != 10)]
  | .prefetch => [(134, a.fmt != c.fmt), (128, !isLocal c.base), (64, isLocal a.base)]
  | .repeat => [(208, dBody d == 0)]
  | _ => []

/-- Strides of an index tensor below the row level are 0 (R171). -/
def indexChecks (d : Desc) (op : Op) : List Check :=
  if !dAmode d then []
  else
    let row := match op with
      | .matmul | .matvec | .dist => 2
      | _ => 1
    (List.range row).map fun l => (168 + 4 * l, (opnd d 3).stride l != 0)

/-- Partition space: bits [47:46] 0b00 or 0b01 (R42). -/
def inPartSpace (va : Nat) : Bool := va / 2 ^ 46 % 4 ≤ 1
/-- Sequence space: bits [47:46] 0b10 (R42). -/
def inSeqSpace (va : Nat) : Bool := va / 2 ^ 46 % 4 == 2
/-- The sequence slot of an address. -/
def seqSlot (va : Nat) : Nat := va / 2 ^ 36 % 1024

/-- The masks that ATTN must carry: no reads, and regions 48 to 63 and 88 to 95 written (R213). -/
def attnRegions : Nat := (2 ^ 64 - 2 ^ 48) + (2 ^ 96 - 2 ^ 88)

def attnChecks (d : Desc) : List Check :=
  let a := opnd d 0
  let b := opnd d 1
  let c := opnd d 2
  let x := opnd d 3
  let pair := match a.format, b.format with
    | .fp16, .fp16 | .bf16, .bf16 => true
    | .e4m3, .e4m3 | .e4m3, .e5m2 | .e5m2, .e4m3 | .e5m2, .e5m2 => true
    | _, _ => false
  let seg := decide (2 ≤ dMask d)
  [ (16, dSbRd d != 0), (32, dSbWr d != attnRegions),
    (70, !pair), (80, a.stride 2 != 0), (64, !inPartSpace a.base),
    (96, !inSeqSpace b.base), (108, b.stride 1 != 0),
    (128, !inPartSpace c.base), (144, c.stride 2 != 0),
    (134, !(c.format == .fp16 || c.format == .bf16 || c.format == .fp32)),
    (160, x.en && !inPartSpace x.base && !inSeqSpace x.base),
    (168, x.en && x.stride 0 != 0), (172, x.en && x.stride 1 != 0), (180, x.en && x.stride 3 != 0),
    (192, immFails d 0 (· ≤ 256)),
    (208, !inSeqSpace (dVBase d) || seqSlot (dVBase d) != seqSlot b.base || dVBase d % b.format.bytes != 0),
    (220, match immBound d 1, immBound d 2 with
      | some m, some n => seg && decide (m ≠ 0) && decide (n ≤ dQPos0 d + m - 1)
      | _, _ => false) ] ++
  ([0, 1, 2, 3, 4].map fun j => (224 + 4 * j, leAt d (224 + 4 * j) 4 % b.format.bytes != 0))

/-! ### Reading: the whole check -/

/-- Bound fields: BOUNDl[15:5] is 0 where a register is named (R164). -/
def brefChecks (d : Desc) : List Check := (List.range 6).map fun l => (192 + 2 * l, dBref d l && decide (32 ≤ dBoundField d l))

/-- Every read-time check of a descriptor with its field. -/
def readChecks (d : Desc) : List Check :=
  match Op.ofCode (dCode d) with
  | none => [(0, true)]
  | some op =>
    reservedCommon d ++ reservedBlock d op ++ headerChecks d op ++
    operandChecks d op 0 ++ operandChecks d op 1 ++ operandChecks d op 2 ++ operandChecks d op 3 ++
    (if op.isControl then zeroNest d else brefChecks d) ++
    (if op.isArray then arrayChecks d op else if op.isElem then elemChecks d op
      else if op == .attn then attnChecks d else moverChecks d op) ++
    indexChecks d op

/-- The lowest offset among the failing fields; none when the descriptor passes (R182, R205). -/
def readBad (d : Desc) : Option Nat :=
  ((readChecks d).filter (·.2)).foldl (fun m c => match m with
    | none => some c.1
    | some x => some (min x c.1)) none

/-! ### Program images (R125, R126) -/

/-- The lane types that a width carries (R121). -/
def widthTypes : Nat → List Nat
  | 0 => [0, 1]
  | 1 => [2, 3, 4]
  | 2 => [5, 6]
  | _ => []

/-- Elements per lane of a width. -/
def widthElems : Nat → Nat
  | 0 => 1
  | 1 => 2
  | _ => 4

/-- Fields of an instruction word (R128). -/
def iOp (w : Nat) : Nat := nbits w 31 26
def iDst (w : Nat) : Nat := nbits w 25 22
def iGp (w : Nat) : Nat := nbits w 21 20
def iGn (w : Nat) : Bool := nbit w 19
def iSa (w : Nat) : Nat := nbits w 18 15
def iSb (w : Nat) : Nat := nbits w 14 11
def iSc (w : Nat) : Nat := nbits w 10 7
def iType (w : Nat) : Nat := nbits w 6 4
def iFn (w : Nat) : Nat := nbits w 3 0
def iSub (w : Nat) : Nat := nbits w 18 16
def iImm (w : Nat) : Nat := nbits w 15 0

/-- Floating lane types. -/
def isFloatType (t : Nat) : Bool := t == 0 || t == 2 || t == 3

/-- One instruction is well formed in a program of width `w` (R126, R129 to R131, R133): `setup` tells whether it stands in
the setup section. DESIGN CHOICE (log 68): MOV, CMP and SEL ask for a TYPE of the width like the arithmetic, and PSET for TYPE 0 in every width. -/
def instrOk (w : Nat) (setup : Bool) (i : Nat) : Bool :=
  let ty := iType i
  let legal := (widthTypes w).contains ty
  let fl := isFloatType ty
  let noB := iSb i == 0
  let noC := iSc i == 0
  let arithFn := iFn i < 4 && (!fl || iFn i < 2)
  match iOp i with
  | 0x00 | 0x01 | 0x02 => i % 2 ^ 26 == 0
  | 0x03 => if w = 0 then iSub i ≤ 3 else iSub i == 0
  | 0x04 => legal && noB && noC && iFn i == 0
  | 0x05 => w == 0 && !setup && ty == 1 && iSa i == 0 && noB && noC && iFn i == 0
  | 0x08 | 0x09 | 0x0A | 0x0C | 0x0D => legal && noC && arithFn
  | 0x0B => legal && arithFn
  | 0x0E => legal && noB && noC && arithFn
  | 0x10 => legal && noC && iFn i < 8 && 1 ≤ iDst i && iDst i ≤ 3
  | 0x11 => legal && noC && iFn i < 4
  | 0x12 => 1 ≤ iDst i && iDst i ≤ 3 && iSa i ≤ 3 && iSb i ≤ 3 && noC && ty == 0
  | 0x18 | 0x19 | 0x1A | 0x1B | 0x1C => legal && fl && noB && noC && iFn i == 0
  | 0x20 => legal && noB && noC && (widthTypes w).contains (iFn i)
  | 0x24 | 0x25 | 0x26 | 0x28 | 0x29 | 0x2A => legal && !fl && noC && iFn i == 0
  | 0x27 => legal && !fl && noB && noC && iFn i == 0
  | _ => false

/-- The instruction words of an image. -/
def progWords (img : List Byte) : List Nat := (List.range (leAt img 1 1)).map fun i => leAt img (4 + 4 * i) 4
/-- The width of an image. -/
def progWidth (img : List Byte) : Nat := nbits (leAt img 0 1) 1 0

/-- Words before and after BEGIN: the setup section and the body with its END. -/
def splitBegin (ws : List Nat) : List Nat × List Nat :=
  if ws.any (fun w => iOp w == 2) then
    (ws.takeWhile (fun w => iOp w != 2), (ws.dropWhile (fun w => iOp w != 2)).drop 1)
  else ([], ws)

/-- The image of 4 + 4 · LEN bytes is valid (R126). -/
def progOk (img : List Byte) : Bool :=
  let h := leAt img 0 4
  let len := nbits h 15 8
  let w := nbits h 1 0
  let ws := progWords img
  let (setup, body) := splitBegin ws
  w != 3 && 1 ≤ len && len ≤ 64 && nbits h 7 2 == 0 && nbits h 31 16 == 0 &&
    setup.all (instrOk w true) && body.all (instrOk w false) && !body.any (fun i => iOp i == 2) &&
    ws.all (fun i => iOp i != 2 || i % 2 ^ 26 == 0) &&
    !setup.any (fun i => iOp i == 1) &&
    (match body.getLast? with
      | some i => iOp i == 1
      | none => false) &&
    !(body.dropLast.any fun i => iOp i == 1)

/-- The program uses LUT (R147). -/
def progUsesLut (img : List Byte) : Bool := (progWords img).any fun i => iOp i == 0x1C

/-! ### At issue (R80, R113, R135, R180 to R184, R213) -/

/-- A failed issue-time check: the levels of the bounds it used. -/
abbrev IssueFail := List Nat

def limitFails (d : Desc) (bs : List Nat) : List IssueFail :=
  let big := 2 ^ 32 - 1
  let f := fun (bad : Bool) (ls : List Nat) => if bad then [ls] else []
  match dOp d with
  | .matmul | .dist => f (dArg d != 0 && decide (65536 < bnd bs 1)) [1]
  | .matvec => f (dArg d != 0 && decide (65536 < bnd bs 1)) [1] ++ f (decide (8 < bnd bs 2)) [2]
  | .conv =>
    f (decide (big < dimK d bs)) [0, 1, 2] ++ f (decide (63 < bnd bs 1)) [1] ++ f (decide (63 < bnd bs 2)) [2] ++
      f (decide (big < dimM d bs)) [4, 5] ++ f (dArg d != 0 && decide (65536 < bnd bs 3)) [3]
  | .convw =>
    f (decide (big < dimK d bs)) [0, 1, 2] ++ f (!(bnd bs 1 == 0 || bnd bs 1 == 3)) [1] ++
      f (!(bnd bs 2 == 0 || bnd bs 2 == 3)) [2] ++ f (decide (big < dimM d bs)) [4, 5] ++
      f (dArg d != 0 && decide (65536 < bnd bs 3)) [3]
  | .dwconv =>
    f (decide (1 < bnd bs 0)) [0] ++ f (decide (121 < bnd bs 1 * bnd bs 2)) [1, 2] ++
      f (decide (big < dimM d bs)) [4, 5] ++ f (dArg d != 0 && decide (65536 < bnd bs 3)) [3]
  | .elem | .reduce =>
    if dPload d then (List.range 6).flatMap fun l => f (bnd bs l != 1) [l]
    else f (decide (big < prodBounds bs)) [0, 1, 2, 3, 4, 5]
  | .loadb => (List.range 6).flatMap fun l => f (bnd bs l != 1) [l]
  | .attn =>
    f (decide (256 < bnd bs 0)) [0] ++ f (decide (1048576 < bnd bs 2)) [2] ++
      f (decide (2 ≤ dMask d) && bnd bs 1 != 0 && decide (bnd bs 2 ≤ dQPos0 d + bnd bs 1 - 1)) [1, 2]
  | _ => []

/-- Levels of the index tensor of an opcode: those from the row level up (R171). -/
def indexLevels (d : Desc) : List Nat := if (dOp d).isArray then [2, 3, 4, 5] else [1, 2, 3, 4, 5]

/-- Levels that the scales of operand A run over: rows, for GROUP32 also K, and the batch (R72, R173). -/
def scaleLevels (d : Desc) : List Nat :=
  let rows := if (dOp d).isConv then [4, 5] else [2, 3, 4, 5]
  let k := if dAscale d = 1 then [] else if dOp d = .conv then [0, 1, 2] else [0]
  k ++ rows

/-- The levels whose bounds enter the extent of a place `x` of an array descriptor. -/
def arrayLevels (d : Desc) (x : Nat) : List Nat :=
  let conv := (dOp d).isConv
  match x with
  | 0 => if dOp d = .dwconv then [1, 2, 3, 4, 5] else if conv then [0, 1, 2, 4, 5] else if dAmode d then [0, 1, 3, 4, 5]
    else [0, 1, 2, 3, 4, 5]
  | 1 => if dOp d = .convw then [0, 3, 4, 5] else [0, 1, 2, 3, 4, 5]
  | 2 => (if conv then [3, 4, 5] else [1, 2, 3, 4, 5]).filter fun l => dArg d == 0 || l != (if conv then 3 else 1)
  | 3 => if dAmode d then indexLevels d else scaleLevels d
  | 4 => if conv then [0, 1, 2, 3] else [0, 1]
  | _ => if conv then [3] else [1]

/-- The levels whose bounds enter the extent of a place `x` (R205). -/
def extentLevels (d : Desc) (x : Nat) : List Nat :=
  let all := [0, 1, 2, 3, 4, 5]
  let row := if dAmode d then [0, 2, 3, 4, 5] else all
  match dOp d with
  | .loadb => []
  | .elem =>
    if dPload d then []
    else match x with
      | 0 => row
      | 1 => if dFold d ≠ 0 ∨ (opnd d 1).bcast then [] else all
      | 3 => if dAmode d then indexLevels d else if dAuxRole d = 1 ∨ (dAuxRole d = 0 ∧ (opnd d 3).bcast) then [] else all
      | _ => all
  | .reduce =>
    match x with
    | 2 => [1, 2, 3, 4, 5]
    | 3 => if dAuxRole d = 1 then [] else all
    | _ => all
  | .attn =>
    match x with
    | 0 | 2 => [0, 1, 3, 4, 5]
    | 3 => [2, 4, 5]
    | _ => [0, 2, 3, 4, 5]
  | .scatter => if x = 2 then row else if x = 3 then indexLevels d else all
  | op => if op.isArray then arrayLevels d x else if x = 3 then indexLevels d else if x = 0 then row else all

/-- An extent that leaves the address range, reaches beyond the window's buffers, or touches a region missing from its mask (R180, R183). -/
def extentBad (d : Desc) (e : Extent) : Bool :=
  let w := 0xFF * 2 ^ 40
  if e.lo < 0 ∨ (2 ^ 48 : Int) ≤ e.hi then true
  else if e.hi.toNat < w then false
  else if w + 0xA00000 ≤ e.hi.toNat then true
  else
    let need := regionMask (e.lo.toNat - w) (e.hi.toNat - w)
    let have' := match e.use with
      | .read => dSbRd d
      | .write => dSbWr d
    decide (need &&& have' ≠ need)

/-- Where PREFETCH must lie (R178), and where ATTN must (R211): an extent outside it. -/
def extentPlace (d : Desc) (e : Extent) : Bool :=
  let lo := e.lo.toNat
  let hi := e.hi.toNat
  match dOp d with
  | .prefetch => if e.x = 2 then !(isLocal lo && isLocal hi) else if e.x = 0 then isLocal lo || isLocal hi else false
  | .attn =>
    if e.x = 1 ∨ e.x = 6 then
      !(inSeqSpace lo && inSeqSpace hi && seqSlot lo == seqSlot hi && seqSlot lo == seqSlot (opnd d 1).base)
    else if e.x = 3 then !((inPartSpace lo || inSeqSpace lo) && (inPartSpace hi || inSeqSpace hi))
    else !(inPartSpace lo && inPartSpace hi)
  | _ => false

/-- RMASK names a depth with no enclosing REPEAT (R183). -/
def rmaskBad (d : Desc) (frames : List Frame) : Bool :=
  [0, 1, 2, 3].any fun x => let o := opnd d x; o.en && decide (2 ^ frames.length ≤ o.rmask)

/-- The REPEAT nests too deep or its body ends beyond the enclosing body (R176). -/
def nestBad (d : Desc) (idx : W32) (frames : List Frame) : Bool :=
  dOp d == .repeat && (decide (4 ≤ frames.length) ||
    (match frames with
      | f :: _ => decide (2 ^ 31 ≤ (f.last - (idx + BitVec.ofNat 32 (dBody d))).toNat)
      | [] => false))

/-- Output channels that the rescale table serves (R80). -/
def tableChannels (d : Desc) (bs : List Nat) : Nat := dimG d * dimN d bs

/-- A captured slot breaks R80. -/
def slotBad (d : Desc) (bs : List Nat) (v : W64) : Bool :=
  !v.toNat.testBit 0 || decide (nbits v.toNat 60 48 + 1 < tableChannels d bs)

/-- The program of an ELEM or REDUCE is missing or cannot carry what the descriptor names (R121, R126, R136, R147). -/
def progBad (d : Desc) (img : List Byte) : Bool :=
  if img.isEmpty then true
  else
    let w := progWidth img
    let ok := fun t => (widthTypes w).contains t
    let f8 := fun (f : Fmt) => w != 2 || f == .int4 || f == .int8 || f == .uint8
    !ok (dLtypeA d) || !f8 (opnd d 0).format ||
      (bIsStream d && (!ok (dLtypeB d) || !f8 (opnd d 1).format)) ||
      (auxIsStream d && (!ok (dLtypeAux d) || !f8 (opnd d 3).format)) ||
      ((dNout d != 0 || dFold d != 0) && !ok (dLtypeOut d)) || (dNout d != 0 && !f8 (opnd d 2).format) ||
      (progUsesLut img && dAuxRole d != 1)

/-- The lowest level of a list whose bound a register gives. -/
def brefLevel (d : Desc) (ls : List Nat) : Option Nat := ls.find? (dBref d)

/-- What the issue-time checks need of the state. -/
structure IssueCtx where
  bound : Tab W32
  frames : List Frame
  idx : W32
  /-- The rescale slot RTAB of each core of the partition. -/
  rtab : List W64
  /-- The program slot PROG of each core. -/
  progs : List (List Byte)
  /-- The partition is attention-capable (R334). -/
  attnOk : Bool
deriving DecidableEq, Repr

/-- The issue-time checks (R182): the status and INFO of the refusal, or none. A check that used a bound register gives
BOUND_INVALID; among errors found together the lowest code stands (R204). -/
def issueBad (c : IssueCtx) (d : Desc) : Option (Byte × Nat) :=
  let bs := dBounds c.bound d
  let op := dOp d
  let rts := if op.isArray && dRtabEn d then c.rtab.map some else [none]
  let exts := if op.isControl then [] else rts.flatMap fun rt => extents d bs c.frames rt
  let fails := limitFails d bs ++ (exts.filter fun e => extentBad d e || extentPlace d e).map fun e => extentLevels d e.x
  let slots := op.isArray && dRtabEn d && c.rtab.any (slotBad d bs)
  let slotBound := if slots && !c.rtab.any (fun v => !v.toNat.testBit 0) then
      [if op.isConv then [3] else [1]] else []
  let slotDead := op.isArray && dRtabEn d && c.rtab.any fun v => !v.toNat.testBit 0
  let state := rmaskBad d c.frames || nestBad d c.idx c.frames || slotDead ||
    (op.isElem && !dPload d && dProgEn d && c.progs.any (progBad d)) || (op == .attn && !c.attnOk)
  let fails := fails ++ slotBound
  let plain := fails.any fun ls => (brefLevel d ls).isNone
  if state || plain then some (0x12, 0xFFFF)
  else if op == .repeat && dRepFromReg d && decide (65535 < (tget 0 c.bound (dRepReg d)).toNat) then
    some (0x13, (tget 0 c.bound (dRepReg d)).toNat)
  else
    match fails with
    | [] => none
    | ls :: _ => some (0x13, match brefLevel d ls with
        | some l => bnd bs l
        | none => 0)

end Sys2Proof.Machine
end

