-- ==== Sys2Proof/Machine/Access.lean ====
section
/-!
DEFINITION. Accesses of a core (R42 to R53): the local window, the page-table walk with its TLB and walk cache, the
apertures, and reads and writes that gather the writes of one unit, so that they arrive together.
-/
namespace Sys2Proof.Machine

/-! ### Walks (R44 to R48) -/

/-- How a walk ends: a leaf (first virtual address, size, physical address, write permission), a fault with DETAIL of R205,
or a poisoned entry with its physical address. -/
inductive Walk where
  | leaf (e : TlbEntry)
  | fault (detail : Nat)
  | poison (pa : Nat)
deriving DecidableEq, Repr

/-- Fields of an entry (R45). -/
def pteV (x : Nat) : Bool := nbit x 0
def pteLeaf (x : Nat) : Bool := nbit x 1
def pteW (x : Nat) : Bool := nbit x 2
def pteP64 (x : Nat) : Bool := nbit x 3
def ptePa (x : Nat) : Nat := nbits x 39 12 * 4096

/-- Malformed at a level: 4 root, 3, 2, 1 (R46). -/
def pteMalformed (level x : Nat) : Bool :=
  nbits x 7 4 != 0 || nbits x 63 40 != 0 ||
    (pteLeaf x && 3 ≤ level) || (!pteLeaf x && level == 1) ||
    (pteP64 x && !(level == 1 && pteLeaf x)) ||
    (level == 2 && pteLeaf x && nbits x 20 12 != 0) ||
    (level == 1 && pteLeaf x && pteP64 x && nbits x 15 12 != 0)

/-- Bits below the index of a level: what one entry of it spans. -/
def levelShift (seq : Bool) (level : Nat) : Nat :=
  match level with
  | 1 => 12
  | 2 => 21
  | 3 => 30
  | _ => if seq then 36 else 39

/-- The index of a virtual address at a level (R44). -/
def levelIdx (seq : Bool) (level va : Nat) : Nat :=
  match level with
  | 4 => if seq then va / 2 ^ 36 % 1024 else va / 2 ^ 39 % 512
  | 3 => if seq then va / 2 ^ 30 % 64 else va / 2 ^ 30 % 512
  | 2 => va / 2 ^ 21 % 512
  | _ => va / 2 ^ 12 % 512

/-- The page that a leaf maps. -/
def leafEntry (level va x : Nat) : TlbEntry :=
  let size := if level = 2 then 2 ^ 21 else if pteP64 x then 2 ^ 16 else 2 ^ 12
  ⟨va / size * size, size, ptePa x, pteW x⟩

/-- The walk from the table of a level down; entries of upper levels enter the Hearth's walk cache. DESIGN CHOICE (log 59): an entry with V = 0
is unmapped whatever else it holds; the walk cache keeps its 64 newest entries in the order in which they came; a table outside
usable GDDR6 is read as whatever stands there. -/
def walkFrom (c part : Nat) (seq : Bool) (va : Nat) : Nat → Nat → State → State × Walk
  | 0, _, s => (s, .fault 2)
  | level + 1, table, s =>
    let lv := level + 1
    let a := table + 8 * levelIdx seq lv va
    let (s, bs, p) := devRead (.core c) s a 8
    match p with
    | some k => (s, .poison k)
    | none =>
      let x := leNat bs
      if !pteV x then (s, .fault 1)
      else if pteMalformed lv x then (s, .fault 2)
      else if pteLeaf x then (s, .leaf (leafEntry lv va x))
      else
        let base := va / 2 ^ levelShift seq lv * 2 ^ levelShift seq lv
        let w : WalkEntry := ⟨part, level, base, ptePa x⟩
        let h := c / 4
        let ws := (w :: (tget [] s.mmu.walks h).filter fun e => !(e.part == part && e.level == level && e.va == base)).take 64
        walkFrom c part seq va level (ptePa x) { s with mmu := { s.mmu with walks := tset [] s.mmu.walks h ws } }

/-- The deepest cached table that leads to an address: its level and address. -/
def cachedTable (s : State) (c part : Nat) (seq : Bool) (va : Nat) : Option (Nat × Nat) :=
  let hit := fun level =>
    ((tget [] s.mmu.walks (c / 4)).find? fun e =>
      e.part == part && e.level == level && e.va == va / 2 ^ levelShift seq (level + 1) * 2 ^ levelShift seq (level + 1)).map
        fun e => (level, e.table)
  match hit 1 with
  | some r => some r
  | none => match hit 2 with
    | some r => some r
    | none => hit 3

/-- The root that an address is walked from (R42). -/
def rootWord (s : State) (part va : Nat) : Nat := (s.reg (if inSeqSpace va then Reg.mmuSeqroot part else Reg.mmuRoot part)).toNat

/-- The address lies in a space whose root is enabled: with EN = 0 every access to it is unmapped (R49, R51). -/
def spaceOn (s : State) (part va : Nat) : Bool := va / 2 ^ 46 % 4 != 3 && nbit (rootWord s part va) 0

/-- A whole walk (R42, R44). -/
def walk (s : State) (c part va : Nat) : State × Walk :=
  let seq := inSeqSpace va
  if !spaceOn s part va then (s, .fault 1)
  else
    match cachedTable s c part seq va with
    | some (level, table) => walkFrom c part seq va level table s
    | none => walkFrom c part seq va 4 (nbits (rootWord s part va) 39 12 * 4096) s

/-- An entry becomes the most recently used of a core's TLB; the least recently used leaves (R48). -/
def tlbUse (s : State) (c : Nat) (e : TlbEntry) : State :=
  let es := (e :: (tget [] s.mmu.tlb c).filter fun x => x != e).take 512
  { s with mmu := { s.mmu with tlb := tset [] s.mmu.tlb c es } }

/-- The TLB entry that covers an address. -/
def tlbHit (s : State) (c va : Nat) : Option TlbEntry :=
  (tget [] s.mmu.tlb c).find? fun e => decide (e.va ≤ va) && decide (va < e.va + e.size)

/-- The page of an address: from the TLB, or from a walk that fills it; none where the root is disabled. -/
def translate (s : State) (c part va : Nat) : State × Walk :=
  if !spaceOn s part va then (s, .fault 1)
  else
    match tlbHit s c va with
    | some e => (tlbUse s c e, .leaf e)
    | none =>
      let (s, w) := walk s c part va
      match w with
      | .leaf e => (tlbUse s c e, w)
      | _ => (s, w)

/-! ### Permission of a translated access (R50, R53, R179) -/

/-- A physical address lies in an enabled aperture of a partition. -/
def inAperture (s : State) (part pa : Nat) : Bool :=
  (List.range 4).any fun a =>
    let lo := s.reg (Reg.mmuAper part a)
    let hi := s.reg (Reg.mmuAper part a + 8)
    lo.toNat.testBit 0 && decide (nbits lo.toNat 39 12 ≤ pa / 4096) && decide (pa / 4096 ≤ nbits hi.toNat 39 12)

/-- The KIND of the violation that a translated access is, if it is one. An opcode other than COPY in a core or Hearth buffer is KIND 4 whatever
the page allows (R179). DESIGN CHOICE (log 60): of several broken lines the read-only page is named first, then the aperture; and every opcode
reaches shared staging inside an aperture. -/
def accessKind (s : State) (part pa : Nat) (write w copy : Bool) : Option Nat :=
  let inside := inAperture s part pa
  let page := write && !w
  match s.placeOf pa with
  | .core _ | .hearth _ => if !copy then some 4 else if page then some 1 else if inside then none else some 2
  | .none => if page then some 1 else if inside then some 4 else some 2
  | pl => if page then some 1 else if !inside then some 2 else if write && readOnlyPlace pl then some 5 else none

/-! ### The accesses of one unit -/

/-- Why a descriptor stops: status, INFO and DETAIL (R205). -/
structure Stop where
  status : Byte
  info : Nat
  detail : Nat
deriving DecidableEq, Repr

/-- The accesses made so far: what has been read once already and is not counted again (log 23), the bytes to be written by
physical address, the first error, and the lowest address of a violation. -/
structure Acc where
  s : State
  seen : Tab Bool := []
  out : Memory := []
  stop : Option Stop := none
  low : Option Nat := none
deriving DecidableEq, Repr

/-- The descriptor stops with an error; the first one stands (R204). -/
def Acc.fail (a : Acc) (st : Nat) (info detail : Nat) : Acc :=
  if a.stop.isSome then a else { a with stop := some ⟨BitVec.ofNat 8 st, info, detail⟩ }

/-- A violation among the accesses of one unit: each is counted, and DBG_VIOL_LAST keeps the one with the lowest address (R447): the model takes them for
violations of the same F-clock. DEDUCED, log 48. -/
def Acc.viol (a : Acc) (addr kind part : Nat) : Acc :=
  if a.low.any fun l => decide (l ≤ addr) then { a with s := a.s.addSat Reg.dbgViolCount 31 0 1 }
  else { a with s := Sys2Proof.Machine.viol a.s addr kind part, low := some addr }

/-- Where an access goes: a physical address, or nothing (a violation). -/
def resolve (c part : Nat) (copy write : Bool) (va : Nat) (a : Acc) : Option Nat × Acc :=
  if isLocal va then
    let off := va % 2 ^ 24
    if va / 2 ^ 24 % 2 ^ 16 ≠ 0 ∨ 0xA00000 ≤ off then (none, a.viol off 3 part)
    else (some (if off < 0x600000 then coreBase c + off else hearthBase (c / 4) + (off - 0x600000)), a)
  else
    let (s, w) := translate a.s c part va
    match w with
    | .fault d => (none, { a with s := s }.fail 0x11 va d)
    | .poison k => (none, { a with s := s }.fail 0x20 k 0)
    | .leaf e =>
      let pa := e.pa + (va - e.va)
      match accessKind s part pa write e.w copy with
      | some k => (none, { a with s := s }.viol pa k part)
      | none => (some pa, { a with s := s })

/-- Counts the sectors of a GDDR6 read that the unit has not read before (log 23). -/
def countSectors (c : Nat) : Nat → Nat → Nat → Acc → Acc
  | 0, _, _, a => a
  | f + 1, pa, n, a =>
    if n = 0 then a
    else
      let m := min n (32 - pa % 32)
      let key := pa / 32 * 32
      let a := if tget false a.seen key then a
        else { a with s := countAccess (.core c) false a.s pa m, seen := tset false a.seen key true }
      countSectors c f (pa + m) (n - m) a

/-- A read inside one page: zeros for a violation (R53), ECC_UNCORRECTABLE for poison (R34) and for a sector whose transfer the link has failed
(R33). -/
def readPage (c part : Nat) (copy : Bool) (va n : Nat) (a : Acc) : List Byte × Acc :=
  let (r, a) := resolve c part copy false va a
  match r with
  | none => (List.replicate n 0, a)
  | some pa =>
    let bs := mread a.s.mem pa n
    match a.s.poisonIn pa n with
    | some k =>
      let s := if (a.s.markIn pa n).isSome then errUncorrectable a.s k else a.s
      (bs, { a with s := s }.fail 0x20 k 0)
    | none =>
      match a.s.lostIn false pa n with
      | some k =>
        let a := countSectors c (n / 32 + 2) pa n a
        (bs, { a with s := a.s.lostTaken false pa n }.fail 0x20 k 0)
      | none =>
        if pa < a.s.usable then (bs, countSectors c (n / 32 + 2) pa n a)
        else if tget false a.seen pa then (bs, a)
        else (bs, { a with s := countAccess (.core c) false a.s pa n, seen := tset false a.seen pa true })

/-- A read of `n` bytes, page by page. -/
def readPages (c part : Nat) (copy : Bool) : Nat → Nat → Nat → Acc → List Byte × Acc
  | 0, _, _, a => ([], a)
  | f + 1, va, n, a =>
    if n = 0 then ([], a)
    else if a.stop.isSome then (List.replicate n 0, a)
    else
      let m := min n (4096 - va % 4096)
      let (bs, a) := readPage c part copy va m a
      let (t, a) := readPages c part copy f (va + m) (n - m) a
      (bs ++ t, a)

/-- A core's read of `n` bytes at a virtual address. -/
def coreRead (c part : Nat) (copy : Bool) (va n : Nat) (a : Acc) : List Byte × Acc :=
  readPages c part copy (n / 4096 + 2) va n a

/-- Bytes that a unit will write. -/
def putBytes (m : Memory) (pa : Nat) : List Byte → Memory
  | [] => m
  | b :: bs => putBytes (tput m pa b) (pa + 1) bs

def writePages (c part : Nat) (copy : Bool) : Nat → Nat → List Byte → Acc → Acc
  | 0, _, _, a => a
  | f + 1, va, bs, a =>
    match bs with
    | [] => a
    | b :: t =>
      if a.stop.isSome then a
      else
        let m := min (t.length + 1) (4096 - va % 4096)
        let (r, a) := resolve c part copy true va a
        let a := match r with
          | none => a
          | some pa => { a with out := putBytes a.out pa ((b :: t).take m) }
        writePages c part copy f (va + m) ((b :: t).drop m) a

/-- A core's write of bytes at a virtual address; they arrive with the unit's other writes. -/
def coreWrite (c part : Nat) (copy : Bool) (va : Nat) (bs : List Byte) (a : Acc) : Acc :=
  writePages c part copy (bs.length / 4096 + 2) va bs a

/-- The runs of consecutive bytes of a sorted table. -/
def byteRuns : Memory → List (Nat × List Byte)
  | [] => []
  | (k, b) :: t =>
    match byteRuns t with
    | (j, bs) :: rs => if j = k + 1 then (k, b :: bs) :: rs else (k, [b]) :: (j, bs) :: rs
    | [] => [(k, [b])]

/-- The writes of a unit arrive. -/
def Acc.land (c : Nat) (a : Acc) : State :=
  (byteRuns a.out).foldl (fun s r => devWrite (.core c) s r.1 r.2) a.s

/-- One element at a byte address: its pattern (R64). -/
def readElem (c part : Nat) (copy : Bool) (f : Fmt) (va : Int) (pos : Nat) (a : Acc) : Nat × Acc :=
  let (bs, a) := coreRead c part copy va.toNat f.bytes a
  (f.pick pos bs, a)

end Sys2Proof.Machine
end

