-- ==== Sys2Proof/Machine/Movers.lean ====
section
/-!
DEFINITION. The descriptors that copy (R171, R177, R178): COPY, PREFETCH and LOADB whole, GATHER and SCATTER by units of 256
rows, with indirect rows, and what a mover leaves when it is stopped part way (R108).
-/
namespace Sys2Proof.Machine

/-- The cell of one element at a byte address becomes `x`: whole bytes, or its bits of a packed byte. The bits above it become zero where `clear`
holds: the element is its row's last one (R64). Otherwise they keep what they hold. -/
def writeElem (c part : Nat) (copy : Bool) (f : Fmt) (va : Int) (pos : Nat) (clear : Bool) (x : Nat) (a : Acc) : Acc :=
  if !f.packed then coreWrite c part copy va.toNat (leBytes f.bytes x) a
  else
    let w := f.bits
    let k := pos % (8 / w)
    let (r, a') := resolve c part copy true va.toNat a
    match r with
    | none => a'
    | some pa =>
      let old := ((tfind a.out pa).getD (mget a.s.mem pa)).toNat
      let above := if clear then 0 else old / 2 ^ (w * (k + 1)) * 2 ^ (w * (k + 1))
      let b := old % 2 ^ (w * k) + x % 2 ^ w * 2 ^ (w * k) + above
      { a' with out := tput a'.out pa (BitVec.ofNat 8 b) }

/-- The element at an index vector is the last one of its row along the operand's packing level. -/
def rowEnd (o : Opnd) (bs is : List Nat) : Bool := decide (bs.getD o.plev 0 ≤ is.getD o.plev 0 + 1)

/-- An index of R171 from aux: a row, or none when it is out of range and IDX_OOB fills or skips. -/
def fetchIndex (c part : Nat) (copy : Bool) (d : Desc) (frames : List Frame) (is : List Nat) (a : Acc) : Option Nat × Acc :=
  let (x, a) := readElem c part copy .int32 (elemAddr (opnd d 3) 3 frames is) 0 a
  let v := sext 32 x
  if 0 ≤ v ∧ v < (dIdxLimit d : Nat) then (some v.toNat, a)
  else if dIdxOob d then (none, a)
  else (none, a.fail 0x13 (toPat 48 v) 0)

/-- One element of a copying descriptor. -/
def copyElem (c part : Nat) (d : Desc) (frames : List Frame) (bs is : List Nat) (a : Acc) : Acc :=
  if a.stop.isSome then a
  else
    let src := opnd d 0
    let dst := opnd d 2
    let copy := dOp d == .copy
    let f := src.format
    let (row, a) := if dAmode d then fetchIndex c part copy d frames is a else (some (is.getD 1 0), a)
    if a.stop.isSome then a
    else
      match row with
      | none =>
        -- R171: a row out of range reads as zeros, and a SCATTER row is not written
        if dOp d == .scatter then a else writeElem c part copy f (elemAddr dst 2 frames is) (elemPos dst is) (rowEnd dst bs is) 0 a
      | some r =>
        let ia := if dAmode d && dOp d != .scatter then setIdx is 1 r else is
        let ic := if dAmode d && dOp d == .scatter then setIdx is 1 r else is
        let (x, a) := readElem c part copy f (elemAddr src 0 frames ia) (elemPos src ia) a
        if a.stop.isSome then a else writeElem c part copy f (elemAddr dst 2 frames ic) (elemPos dst ic)
          (rowEnd dst (if dAmode d && dOp d == .scatter then setIdx bs 1 (dIdxLimit d) else bs) ic) x a

/-- Elements lo to lo + n − 1 of a copying descriptor, in ascending order. -/
def copyRange (c part : Nat) (i : Item) (lo n : Nat) (a : Acc) : Acc :=
  (List.range n).foldl (fun a k => copyElem c part i.bytes i.frames i.bounds (unflatten i.bounds (lo + k)) a) a

/-- Bytes of the unit's writes that a core's own copy of PREFETCH makes: the core buffer always, the Hearth buffer for the
first core of its Hearth (R178). -/
def prefetchKeep (first : Bool) (m : Memory) : Memory :=
  m.filter fun x => first || decide ((x.1 - bufBase) % 0x4000000 < 0x2000000)

/-- PREFETCH on each core of the partition in turn. -/
def prefetchAll (part : Nat) (i : Item) : List Nat → List Nat → Acc → Acc
  | [], _, a => a
  | c :: cs, seen, a =>
    let b := copyRange c part i 0 (prodBounds i.bounds) { a with out := [] }
    let keep := prefetchKeep (!seen.contains (c / 4)) b.out
    prefetchAll part i cs (c / 4 :: seen) { b with out := keep.foldl (fun m x => tput m x.1 x.2) a.out }

/-- The whole work of a COPY or PREFETCH. -/
def moveAll (s : State) (part : Nat) (i : Item) : Acc :=
  let cs := s.coreList part
  if dOp i.bytes = .prefetch then prefetchAll part i cs [] { s := s }
  else copyRange (cs.headD 0) part i 0 (prodBounds i.bounds) { s := s }

/-- The words of a LOADB. -/
def loadWords (s : State) (part : Nat) (i : Item) : List W32 × Acc :=
  let a := opnd i.bytes 0
  let n := dLbCount i.bytes
  let (bs, acc) := coreRead ((s.coreList part).headD 0) part false ((a.base : Int) + repTerm a 0 i.frames).toNat (4 * n) { s := s }
  ((List.range n).map fun k => BitVec.ofNat 32 (leAt bs (4 * k) 4), acc)

/-- Writes of a mover that is stopped: each byte has been written or not, and which is free (R108). -/
def movePartial (s : State) (part : Nat) (i : Item) : State :=
  if dOp i.bytes = .loadb then s
  else
    let (run, s) := s.fresh
    let a := moveAll s part i
    let out := a.out.filter fun x => Config.partialByte run x.1
    { a with out := out }.land ((s.coreList part).headD 0)

/-- Units of GATHER and SCATTER: 256 rows of one outer index (R194). -/
def gatherUnits (bs : List Nat) : Nat := cdiv (bnd bs 1) 256 * (bnd bs 2 * bnd bs 3 * bnd bs 4 * bnd bs 5)

/-- One unit of GATHER or SCATTER on a core. -/
def gatherUnit (s : State) (c part : Nat) (i : Item) (u : Nat) : Acc :=
  let b0 := bnd i.bounds 0
  let b1 := bnd i.bounds 1
  let per := max 1 (cdiv b1 256)
  let r0 := u % per * 256
  let rows := min b1 (r0 + 256) - r0
  copyRange c part i ((u / per * b1 + r0) * b0) (rows * b0) { s := s }

/-- A unit of GATHER or SCATTER that a core works on when its descriptor is stopped: each of its bytes has been written or not (R108). -/
def gatherPartial (part : Nat) (i : Item) (s : State) (c u : Nat) : State :=
  let (run, s) := s.fresh
  let a := gatherUnit s c part i u
  { a with out := a.out.filter fun x => Config.partialByte run x.1 }.land c

end Sys2Proof.Machine
end

