-- ==== Sys2Proof/Machine/Queue.lean ====
section
/-!
DEFINITION. Queues (R186 to R190, R200 to R210): the queue table entry, doorbells, the commands of QM_QCMD, reading ahead
(R156), completion records (R203, R206), withdrawal (R208), cancellation (R210), timeouts and stalls.
-/
namespace Sys2Proof.Machine

/-! ### Parts of the queue manager -/

def State.queue (s : State) (q : Nat) : Queue := tget {} s.qm.queues q
def State.setQueue (s : State) (q : Nat) (x : Queue) : State := { s with qm := { s.qm with queues := tset {} s.qm.queues q x } }
def State.modQueue (s : State) (q : Nat) (f : Queue → Queue) : State := s.setQueue q (f (s.queue q))
def State.win (s : State) (p : Nat) : Window := tget {} s.qm.wins p
def State.modWin (s : State) (p : Nat) (f : Window → Window) : State :=
  { s with qm := { s.qm with wins := tset {} s.qm.wins p (f (s.win p)) } }
def State.core (s : State) (c : Nat) : CoreSt := tget {} s.qm.cores c
def State.modCore (s : State) (c : Nat) (f : CoreSt → CoreSt) : State :=
  { s with qm := { s.qm with cores := tset {} s.qm.cores c (f (s.core c)) } }
def State.sem (s : State) (n : Nat) : W32 := tget 0 s.qm.sems n
def State.setSem (s : State) (n : Nat) (v : W32) : State := { s with qm := { s.qm with sems := tset 0 s.qm.sems n v } }

/-- A semaphore update (R161): ADD modulo 2^32, or SET. -/
def semUpdate (s : State) (n : Nat) (set : Bool) (v : W32) : State := s.setSem n (if set then v else s.sem n + v)

/-- A wait is satisfied (R161). -/
def semOk (s : State) (n : Nat) (target : W32) : Bool := ahead32 (s.sem n) target

/-- The queues of a partition, ascending. -/
def State.queuesOf (s : State) (p : Nat) : List (Nat × Queue) := s.qm.queues.filter fun x => x.2.part == p && x.2.state != .disabled

/-- Both modules between Hearth `h` and the Mantel have failed (R15). -/
def State.hearthCut (s : State) (h : Nat) : Bool := s.fabric.modFailed.toNat / 4 ^ h % 4 == 3

/-- The partition has lost a Hearth and issues nothing more (R15, R335). -/
def State.partCut (s : State) (p : Nat) : Bool := (s.coreList p).any fun c => s.hearthCut (c / 4)

/-- The index of the oldest descriptor not yet completed (QM_QINFO.HEAD). -/
def Queue.head (x : Queue) : W32 :=
  match x.items with
  | i :: _ => if ahead32 x.ip i.idx then i.idx else x.ip
  | [] => x.ip

/-- QM_QINFO of a queue (R189). -/
def Queue.infoWord (x : Queue) : Nat :=
  (match x.state with
    | .disabled => 0
    | .active => 1
    | .faulted => 2
    | .cancelling => 3) + 256 * x.lastStatus.toNat + 2 ^ 32 * x.head.toNat

/-! ### Dropped writes -/

/-- A dropped command or doorbell of a function (KIND 6). -/
def dropCmd (s : State) (fn : Fn) (addr : Nat) : State := viol s addr 6 (s.violPart fn)

/-- A write that its function may not make (KIND 4). -/
def denied (s : State) (fn : Fn) (addr : Nat) : State := viol s addr 4 (s.violPart fn)

/-! ### Windows and cores -/

/-- The item of an issued descriptor. -/
def State.item (s : State) (q uid : Nat) : Option Item := (s.queue q).items.find? fun i => i.uid == uid

def State.modItem (s : State) (q uid : Nat) (f : Item → Item) : State :=
  s.modQueue q fun x => { x with items := x.items.map fun i => if i.uid == uid then f i else i }

/-- A core drops whatever it holds of a descriptor: units still accumulating are discarded (R108). -/
def CoreSt.dropUid (c : CoreSt) (uid : Nat) : CoreSt :=
  let keep := fun (b : Option Bank) => match b with
    | some x => if x.uid == uid then none else b
    | none => none
  { c with
    bank0 := keep c.bank0
    bank1 := keep c.bank1
    arg := match c.arg with
      | some x => if x.uid == uid then none else c.arg
      | none => none
    recs := [] }

/-- The cores of a partition give up the units of its EXEC descriptor. -/
def clearCores (s : State) (p uid : Nat) : State :=
  (s.coreList p).foldl (fun s c => s.modCore c fun x => { x.dropUid uid with unit := none, ahead := none, pos := 0, row := {}, started := none, slots := [] }) s

/-- Movers of a queue that leave the window unfinished have written part of their bytes (R108). -/
def dropMovers (s : State) (p q : Nat) (uids : List Nat) : State :=
  (s.win p).movers.foldl (fun s x =>
    if x.1.toNat == q && uids.contains x.2 then
      (match s.item q x.2 with
        | some i => if i.finished then s else movePartial s p i
        | none => s)
    else s) s

/-- The time from S_i to now enters QM_LATE (R350). Less than one step of the time copy counts as none (R349). -/
def countLate (s : State) (p : Nat) (start : W64) : State :=
  let ns := (s.clock.timeF - start).toNat
  if ns < 10 then s
  else
    let k := Reg.qmLate p
    let s := s.addSat k 31 0 1
    let v := min ns (2 ^ 32 - 1)
    if s.fld k 63 32 < v then s.setFld k 63 32 v else s

/-- EXEC of a window holds no descriptor from a queue outside a group. -/
def onlyGroup (s : State) (w : Window) (g : Nat) : Bool :=
  match w.exec with
  | none => true
  | some r => (s.queue r.q.toNat).lc && (s.queue r.q.toNat).group == g

/-- A slot's lateness ends when EXEC holds no descriptor from a queue outside its group (R350). -/
def lateCheck (p : Nat) (s : State) : State :=
  let w := s.win p
  let ended := w.late.filter fun x => onlyGroup s w x.2
  let s := ended.foldl (fun s x => countLate s p x.1) s
  s.modWin p fun w' => { w' with late := w.late.filter fun x => !onlyGroup s w x.2 }

/-- The writes of the granted units of a GATHER or SCATTER arrive, all of them or those for which `keep` holds. -/
def landHeld (r : Run) (keep : Nat → Bool) (s : State) : State :=
  r.held.foldl (fun s x => Acc.land x.1 { s := s, out := x.2.filter fun y => keep y.1 }) s

/-- A GATHER or SCATTER that is stopped: each byte of the units granted so far, and of those that the cores take up next, has been written or not, and
which is free (R108). -/
def gatherStopped (p : Nat) (r : Run) (i : Item) (s : State) : State :=
  if i.finished || !(dOp i.bytes == .gather || dOp i.bytes == .scatter) then s
  else
    let (run, s) := s.fresh
    r.ranges.foldl (fun s x => if x.2.1 < x.2.2 then gatherPartial p i s x.1 x.2.1 else s) (landHeld r (Config.partialByte run) s)

/-- FLAGS of a descriptor (R203): those gathered by an ELEM or REDUCE, else 0. -/
def okFlags (d : Desc) (r : Run) : BitVec 5 := if (dOp d).isElem && !dIsPload d then r.flags else 0

/-- What the EXEC descriptor leaves when it is stopped from outside: the writes of its cores, and the flags gathered so far. -/
def execStopped (p : Nat) (r : Run) (s : State) : State :=
  match s.item r.q.toNat r.uid with
  | some i => (gatherStopped p r i s).modItem r.q.toNat r.uid fun i => { i with flags := okFlags i.bytes r }
  | none => s

/-- What Bellows has read for a NEXT descriptor that is withdrawn is discarded (R208, R346). -/
def dropSlots (p : Nat) (s : State) : State := (s.coreList p).foldl (fun s c => s.modCore c fun k => { k with slots := [] }) s

/-- Descriptors of a queue leave the window: their units are discarded. -/
def dropFromWindow (s : State) (q : Nat) (uids : List Nat) : State :=
  let p := (s.queue q).part
  let s := dropMovers s p q uids
  let w := s.win p
  let mine := fun (x : BitVec 16 × Nat) => x.1.toNat == q && uids.contains x.2
  let s := match w.exec with
    | some r =>
      if r.q.toNat == q && uids.contains r.uid then
        let s := (clearCores (execStopped p r s) p r.uid).modWin p fun w => { w with exec := none }
        let mine := match s.attn with
          | some a => a.uid == r.uid
          | none => false
        lateCheck p (if mine then { s with attn := none } else s)
      else s
    | none => s
  let s := match w.next with
    | some x => if mine x then dropSlots p s else s
    | none => s
  s.modWin p fun w => { w with
    next := match w.next with
      | some x => if mine x then none else some x
      | none => none
    movers := w.movers.filter fun x => !mine x }

/-! ### Completion records (R203, R206) -/

/-- The 32 bytes of a record. -/
def recordBytes (tag status opcode q index time mid flags detail : Nat) : List Byte :=
  leBytes 8 tag ++ leBytes 1 status ++ leBytes 1 opcode ++ leBytes 2 q ++ leBytes 4 index ++ leBytes 8 time ++
    leBytes 6 mid ++ leBytes 1 flags ++ leBytes 1 detail

/-- A record is written at the producer index, and then the new producer index. -/
def writeRecord (s : State) (q tag status opcode index mid flags detail : Nat) : State :=
  let x := s.queue q
  let r := recordBytes tag status opcode q index s.clock.timeF.toNat mid flags detail
  let s := spaceWrite s x.cplHost (x.cplBase + x.pi.toNat % 2 ^ x.cplLog * 32) r
  let s := s.modQueue q fun x => { x with pi := x.pi + 1 }
  spaceWrite s x.cplHost x.cplPi (leBytes 4 (x.pi + 1).toNat)

/-- The record of a completed descriptor (R205): COUNT for a status below 0x10, else INFO and DETAIL. -/
def itemRecord (s : State) (q : Nat) (i : Item) : State :=
  let ok := decide (i.status.toNat < 0x10)
  writeRecord s q (dTag i.bytes) i.status.toNat (dCode i.bytes) i.idx.toNat
    (if ok then i.count.toNat else i.info.toNat) i.flags.toNat (if ok then 0 else i.detail.toNat)

/-! ### Doorbells (R188, R356) -/

/-- A queue doorbell. -/
def queueDoorbell (fn : Fn) (q : Nat) (tail ci : W32) (s : State) : State :=
  let x := s.queue q
  let own := match fn with
    | .pf => true
    | .vf n => x.state == .disabled || s.partOfVf n.val == some x.part
  if !own then denied s fn (8 * q)
  else if s.noBells || x.state != .active then dropCmd s fn (8 * q)
  else if 2 ^ x.ringLog < dist32 tail x.head ∨ !ahead32 tail x.tail ∨ !ahead32 ci x.ci ∨ !ahead32 x.pi ci then
    dropCmd s fn (8 * q)
  else s.setQueue q { x with tail := tail, ci := ci }

/-- The doorbells of a BAR4 write at offset `o`, in ascending order: 8 bytes each, the tail and then the consumer index (R356). -/
def queueDoorbells (fn : Fn) (o : Nat) (bs : List Byte) (s : State) : State :=
  (List.range (bs.length / 8)).foldl (fun s i =>
    queueDoorbell fn (o / 8 + i) (BitVec.ofNat 32 (leAt bs (8 * i) 4)) (BitVec.ofNat 32 (leAt bs (8 * i + 4) 4)) s) s

/-- The size of BAR4 (R353). -/
def bar4Size : Nat := 0x80000

/-! ### ENABLE (R186, R187, R335, R338) -/

/-- The 64 bytes of an entry are well formed. -/
def entryOk (e : List Byte) : Bool :=
  let w0 := leAt e 0 8
  let w1 := leAt e 8 8
  let t := leAt e 24 4
  let sc := leAt e 32 8
  let lc := nbit sc 0
  nbits w0 11 5 == 0 && nbits w0 63 40 == 0 && nbits w1 11 6 == 0 && nbits (leAt e 28 2) 15 11 == 0 &&
    nbits (leAt e 30 1) 7 4 == 0 && leAt e 31 1 == 0 && leAt e 40 24 == 0 &&
    decide (4 ≤ nbits w0 4 0 ∧ nbits w0 4 0 ≤ 20) && decide (4 ≤ nbits w1 5 1 ∧ nbits w1 5 1 ≤ 16) &&
    (nbit t 31 || nbits t 30 0 == 0) &&
    nbits sc 3 1 == 0 && nbits sc 15 14 == 0 && nbits sc 63 24 == 0 &&
    (if lc then nbits sc 23 16 == 0 else nbits sc 7 4 == 0 && nbits sc 13 8 == 0 && nbits sc 23 16 != 0)

/-- The queue that an entry describes, enabled. -/
def entryQueue (e : List Byte) : Queue :=
  let w0 := leAt e 0 8
  let w1 := leAt e 8 8
  let t := leAt e 24 4
  let sc := leAt e 32 8
  { state := .active
    ringLog := nbits w0 4 0
    ringBase := nbits w0 39 12 * 4096
    cplHost := nbit w1 0
    cplLog := nbits w1 5 1
    cplBase := nbits w1 63 12 * 4096
    cplPi := leAt e 16 8
    timeoutUs := if nbit t 31 then nbits t 30 0 else 100000
    vector := nbits (leAt e 28 2) 10 0
    part := nbits (leAt e 30 1) 3 0
    lc := nbit sc 0
    prio := nbits sc 7 4
    group := nbits sc 13 8
    weight := nbits sc 23 16 }

/-- The partition of an entry is enabled (R335), and its VECTOR lies in the table of the function that receives its interrupts (R368). -/
def queueFits (s : State) (x : Queue) : Bool :=
  s.partEn x.part && decide (x.vector < if s.bit (Reg.qmPart x.part) 18 then 64 else 2048)

/-- The bound registers and indices start at 0 with the fresh queue (R187); LAST_STATUS stays that of the last descriptor (R189). -/
def enableQueue (fn : Fn) (q : Nat) (s : State) : State :=
  let tab := s.reg Reg.qmQtab
  if (s.queue q).state != .disabled || !tab.toNat.testBit 0 then dropCmd s fn Reg.qmQcmd
  else
    let (s, e, p) := devRead .mantel s (nbits tab.toNat 39 12 * 4096 + 64 * q) 64
    let x := entryQueue e
    if !s.mayPart fn x.part then denied s fn Reg.qmQcmd
    else if p.isSome || !entryOk e || !queueFits s x then dropCmd s fn Reg.qmQcmd
    else s.setQueue q { x with lastStatus := (s.queue q).lastStatus }

/-- A command on an enabled queue: of the queue's own partition, in one of the states it is allowed in. -/
def queueCmd (fn : Fn) (q : Nat) (ok : QState → Bool) (k : State → State) (s : State) : State :=
  let x := s.queue q
  if x.state == .disabled then dropCmd s fn Reg.qmQcmd
  else if !s.mayPart fn x.part then denied s fn Reg.qmQcmd
  else if ok x.state then k s
  else dropCmd s fn Reg.qmQcmd

/-! ### DISABLE (R189) -/

/-- An item that DISABLE withdraws: an open REPEAT, a descriptor that a quiet period has returned to the unissued state, and a REPEAT that encloses
such a one, whose body is then not wholly issued (R189). -/
def Queue.withdrawn (x : Queue) (i : Item) : Bool :=
  i.isOpen || i.back || x.items.any fun j => j.back && j.frames.any fun f => f.rep == i.uid

/-- Fetching stops; what cannot complete is withdrawn with its completion slot, and the place goes back to the first of it. -/
def disableQueue (q : Nat) (s : State) : State :=
  s.modQueue q fun x =>
    let back := match x.items.find? x.withdrawn with
      | some i => i.idx
      | none => x.ip
    { x with disabling := true, ahead := [], items := x.items.filter fun i => !x.withdrawn i, ip := back, frames := [] }

/-- The queue has nothing in flight and becomes DISABLED. -/
def queueDisabled (q : Nat) (s : State) : State :=
  let x := s.queue q
  if x.disabling && x.items.isEmpty && (x.state == .active || x.state == .faulted) then
    s.setQueue q { x with state := .disabled, disabling := false, fault := none, ahead := [] }
  else s

/-! ### RESUME and RESUME_SKIP (R209) -/

def resumeQueue (q : Nat) (s : State) : State :=
  s.modQueue q fun x =>
    match x.fault with
    | some (i, fs, _) => { x with state := .active, ip := i, frames := fs, ahead := [], fault := none }
    | none => x

/-- Where the queue goes on after the faulting descriptor: past its body when it is a REPEAT, past the body of the outermost
REPEAT that encloses it. -/
def skipTo (i : W32) (fs : List Frame) (d : Desc) : W32 :=
  match fs.getLast? with
  | some f => f.last + 1
  | none => if dCode d = 5 then i + 1 + BitVec.ofNat 32 (dBody d) else i + 1

def resumeSkipQueue (q : Nat) (s : State) : State :=
  s.modQueue q fun x =>
    match x.fault with
    | some (i, fs, d) =>
      { x with state := .active, ip := skipTo i fs d, frames := [], ahead := [], fault := none,
               items := x.items.filter fun it => !(fs.any fun f => f.rep == it.uid) }
    | none => x

/-! ### Cancellation (R210) -/

/-- The queue is being cancelled: none of its descriptors is granted a unit, and each ends by R210 alone. -/
def State.cancelling (s : State) (q : Nat) : Bool := (s.queue q).state == .cancelling

/-- Step 1 and 2: the queue stops and its descriptors grant no more units; one in NEXT stays there. -/
def cancelQueue (q : Nat) (s : State) : State :=
  let s := s.modQueue q fun x => { x with state := .cancelling, ahead := [] }
  s.modWin (s.queue q).part fun w => { w with exec := w.exec.map fun r => if r.q.toNat == q then { r with stopped := true } else r }

/-- The CANCELLED record of one descriptor. -/
def cancelRecord (q : Nat) (s : State) (i : Item) : State :=
  writeRecord s q (dTag i.bytes) 0x14 (dCode i.bytes) i.idx.toNat 0 i.flags.toNat 1

/-- Steps 3 to 5: everything has drained, the records are written, and the queue becomes DISABLED with HEAD at the tail. LAST_STATUS is that of
a descriptor (R189): the record of the queue itself leaves it. DEDUCED, log 55. -/
def cancelDrained (q : Nat) (s : State) : State :=
  let x := s.queue q
  if x.state != .cancelling then s
  else
    let s := dropFromWindow s q (x.items.map (·.uid))
    let s := ((s.queue q).items.filter fun i => !i.back).foldl (cancelRecord q) s
    let s := writeRecord s q 0 0x14 0xFF x.tail.toNat (dist32 x.tail x.head) 0 0xFF
    s.modQueue q fun x => { x with state := .disabled, items := [], ip := x.tail, frames := [], ahead := [], fault := none,
                                   disabling := false, lastStatus := if x.items.all (·.back) then x.lastStatus else 0x14 }

/-! ### Host semaphore writes (R190, R336) -/

def hostSem (fn : Fn) (n : Nat) (set : Bool) (v : W32) (s : State) : State :=
  let ok := match fn with
    | .pf => true
    | .vf k => match s.partOfVf k.val with
      | some p => decide (s.fld (Reg.qmPart p) 45 32 ≤ n ∧ n ≤ s.fld (Reg.qmPart p) 61 48)
      | none => false
  if ok then semUpdate s n set v else denied s fn Reg.qmSemop

/-! ### Reading descriptors (R155, R156, R192) -/

/-- The ring index after a descriptor, with the REPEATs open there: the body's start again while iterations remain. -/
def advance (idx : W32) : List Frame → W32 × List Frame
  | [] => (idx + 1, [])
  | f :: fs =>
    if idx = f.last then
      if f.iter + 1 < f.count then (f.first, { f with iter := f.iter + 1 } :: fs) else advance idx fs
    else (idx + 1, f :: fs)

/-- A descriptor that nothing is read past until it is satisfied or complete (R156): a WAIT without WAIT_EN is never satisfied, and is refused. -/
def stopsReading (s : State) (d : Desc) : Bool :=
  dOp d == .fence || dOp d == .barrier || (dOp d == .wait && !dWaitEn d) || (dWaitEn d && !semOk s (dWaitSem d) (dWaitValue d))

/-- Descriptors of a queue that lie past the one that is issuing: those read ahead of it, and after a quiet period, where the returned one issues next,
every later one that has been read or has issued (R156, R346). -/
def readPast (x : Queue) : Nat :=
  match x.items.find? (·.back) with
  | some b => x.ahead.length + 1 + (x.items.filter fun i => decide (b.uid < i.uid)).length
  | none => x.ahead.length

/-- The place of the next read, when one may be made: nothing is read past a refused descriptor, which faults its queue when it completes. -/
def fetchAt (s : State) (x : Queue) : Option W32 :=
  let p := x.ip + BitVec.ofNat 32 x.ahead.length
  if x.state == .active && !x.disabling && p != x.tail && ahead32 x.tail p && decide (readPast x ≤ 4) &&
      !(x.ahead.any fun f => stopsReading s f.bytes) &&
      !(x.items.any fun i => !i.back && (!i.reserves || dOp i.bytes == .fence || dOp i.bytes == .barrier)) &&
      !(x.frames.any fun f => decide (f.iter + 1 < f.count) && !ahead32 f.last p)
  then some p else none

/-- DESCRIPTOR_FETCH: the descriptor is read whole and its read-time checks are made. -/
def fetchDesc (q : Nat) (s : State) : State :=
  let x := s.queue q
  match fetchAt s x with
  | none => s
  | some p =>
    let (s, bs, poison) := devRead .mantel s (x.ringBase + p.toNat % 2 ^ x.ringLog * 256) 256
    let bad : Option (Byte × BitVec 48) := match poison with
      | some k => some (0x20, BitVec.ofNat 48 k)
      | none => (readBad bs).map fun o => (0x12, BitVec.ofNat 48 o)
    s.setQueue q { x with ahead := x.ahead ++ [⟨p, bs, bad⟩] }

/-! ### Withdrawal (R208) -/

/-- A REPEAT that encloses body descriptors still to be issued is open. -/
def Item.reopened (j : Item) (fs : List Frame) : Item := if fs.any (fun f => f.rep == j.uid) then { j with isOpen := true } else j

/-- A fault at an item: the queue becomes FAULTED, or goes on disabling, and every later issued descriptor is withdrawn. The REPEATs that
enclose the item stay open (R176, R209), or are withdrawn when the queue is being disabled (R189). -/
def faultQueue (q : Nat) (i : Item) (s : State) : State :=
  let x := s.queue q
  let later := x.items.filter fun j => decide (i.uid < j.uid)
  let s := dropFromWindow s q (later.map (·.uid))
  s.modQueue q fun x =>
    { x with
      state := if x.state == .active && !x.disabling then .faulted else x.state
      items := (x.items.filter fun j => decide (j.uid < i.uid) && !(x.disabling && i.frames.any fun f => f.rep == j.uid)).map (·.reopened i.frames)
      ahead := []
      fault := some (i.idx, i.frames, i.bytes)
      ip := if x.disabling then x.ip else i.idx + 1
      frames := [] }

/-! ### Stalls (R202) -/

def Queue.runnable (x : Queue) : Bool := x.state == .active && x.head != x.tail

end Sys2Proof.Machine
end

