-- ==== Sys2Proof/Machine/Issue.lean ====
section
/-!
DEFINITION. From ring to issue (R191 to R198, R214, R338 to R346): the conditions of R192 in their order, the choice of the
next queue, the issue window, the division of a descriptor's units among cores (R194, R195), and issue itself.
-/
namespace Sys2Proof.Machine

/-- The window part that a descriptor needs (R191). -/
inductive Part where
  | control
  | mover
  | compute
deriving DecidableEq, Repr

def partKind (d : Desc) : Part := if (dOp d).isControl then .control else if (dOp d).isMover then .mover else .compute

/-- The descriptors in flight on a partition: issued and not completed. -/
def partItems (s : State) (p : Nat) : List Item := (s.queuesOf p).flatMap fun x => x.2.items.filter fun i => !i.back

/-- The descriptor that a quiet period has returned to the unissued state: it issues before anything later of its queue (R192, R346). -/
def Queue.backItem (x : Queue) : Option Item := x.items.find? (·.back)

/-- The next descriptor of a queue, as read. -/
def nextUp (x : Queue) : Option Fetched :=
  match x.backItem with
  | some i => some ⟨i.idx, i.bytes, none⟩
  | none => x.ahead.head?

/-! ### Conditions 1 and 3 (R192) -/

/-- Condition 1: the queue is ACTIVE and a REPEAT's whole body lies before the tail. -/
def condActive (x : Queue) (f : Fetched) : Bool :=
  x.state == .active && !x.disabling && (x.backItem.isSome || f.idx == x.ip) && decide (1 ≤ dist32 x.tail f.idx) &&
    (dCode f.bytes != 5 || decide (dBody f.bytes + 1 ≤ dist32 x.tail f.idx))

/-- A descriptor that holds back later ones until it completes: FENCE and a refused one in its queue, BARRIER and a program
load on its partition (R56, R127, R166). -/
def holdsQueue (i : Item) : Bool := !i.reserves || dOp i.bytes == .fence
def holdsPart (i : Item) : Bool := i.reserves && (dOp i.bytes == .barrier || dIsPload i.bytes)

/-- The rule of R127 for a program load: every earlier descriptor of the partition has completed, apart from a REPEAT that encloses the load. -/
def loadAlone (s : State) (x : Queue) (f : Fetched) (frames : List Frame) : Bool :=
  !dIsPload f.bytes || (partItems s x.part).all fun i => frames.any fun g => g.rep == i.uid

/-- Condition 3, and the rule of R127. Of a descriptor that issues again only other queues can hold an earlier BARRIER or load. -/
def condEarlier (s : State) (x : Queue) (f : Fetched) : Bool :=
  match x.backItem with
  | some b => !((partItems s x.part).any fun i => holdsPart i && !(x.items.any fun j => j.uid == i.uid)) && loadAlone s x f b.frames
  | none => !x.items.any holdsQueue && !(partItems s x.part).any holdsPart && loadAlone s x f x.frames

/-! ### Condition 4: the wait and the bound registers (R143, R161, R177) -/

/-- Bound registers that a descriptor writes at its completion. -/
def targetRegs (d : Desc) : List Nat :=
  match dOp d with
  | .loadb => (List.range (dLbCount d)).map (· + dLbFirst d)
  | .elem => if dWritesCount d then [dCntReg d] else []
  | _ => []

/-- Bound registers that a descriptor reads. -/
def sourceRegs (d : Desc) : List Nat :=
  (if (dOp d).isControl then [] else ((List.range 6).filter (dBref d)).map (dBoundField d)) ++
    (if dOp d == .repeat && dRepFromReg d then [dRepReg d] else [])

/-- Bound registers of a queue that are pending. -/
def pendingRegs (x : Queue) : List Nat := x.items.flatMap fun i => if i.reserves then targetRegs i.bytes else []

def waitOk (s : State) (d : Desc) : Bool := !dWaitEn d || semOk s (dWaitSem d) (dWaitValue d)

def condWait (s : State) (x : Queue) (f : Fetched) : Bool :=
  waitOk s f.bytes && (x.backItem.isSome || !((sourceRegs f.bytes ++ targetRegs f.bytes).any fun r => (pendingRegs x).contains r))

/-! ### Condition 8 -/

/-- Two completion slots are free: those without an unconsumed record and not taken by an issued descriptor. -/
def condSlots (x : Queue) : Bool := decide (dist32 x.pi x.ci + (x.items.filter fun i => !i.back).length + 2 ≤ 2 ^ x.cplLog)

/-! ### Condition 6 -/

def issueCtx (s : State) (x : Queue) (f : Fetched) : IssueCtx :=
  let cs := s.coreList x.part
  { bound := x.bound
    frames := match x.backItem with
      | some i => i.frames
      | none => x.frames
    idx := f.idx
    rtab := cs.map fun c => s.reg (Reg.hearthRtab c (dRtab f.bytes))
    progs := cs.map fun c => tget [] (s.core c).progs (dProg f.bytes)
    attnOk := s.bit (Reg.qmPart x.part) 17 }

def condValid (s : State) (x : Queue) (f : Fetched) : Bool := (issueBad (issueCtx s x f) f.bytes).isNone

/-! ### Condition 7: the scoreboard (R197) and the attention regions (R214) -/

def clears (d e : Desc) : Bool :=
  (dSbWr e &&& (dSbRd d ||| dSbWr d)) == 0 && (dSbRd e &&& dSbWr d) == 0

/-- Regions 88 to 95. -/
def ringRegions : Nat := 2 ^ 96 - 2 ^ 88

def namesRing (d : Desc) : Bool := ((dSbRd d ||| dSbWr d) &&& ringRegions) != 0

/-- An ATTN is in EXEC on another partition. -/
def attnElsewhere (s : State) (p : Nat) : Bool :=
  match s.attn with
  | some a => a.part != p
  | none => false

def condBoard (s : State) (x : Queue) (f : Fetched) : Bool :=
  (partItems s x.part).all (fun i => !i.reserves || clears f.bytes i.bytes) && !(namesRing f.bytes && attnElsewhere s x.part)

/-! ### Admission and the order of the queues (R339 to R346) -/

/-- Fields of a slot entry (R344). -/
def slotPart (e : W64) : Nat := nbits e.toNat 3 0
def slotGroup (e : W64) : Nat := nbits e.toNat 9 4
def slotLen (e : W64) : Nat := nbits e.toNat 32 16
def slotGuard (e : W64) : Nat := nbits e.toNat 63 48
def State.slotEntry (s : State) (i : Nat) : W64 := s.qm.slots.getD i 0
/-- The cyclic table is in force. -/
def State.cyclic (s : State) : Bool := s.fld Reg.qmCycle 16 0 != 0

/-- The queue's group has the slot in force on its partition. -/
def inSlot (s : State) (x : Queue) : Bool :=
  match (s.win x.part).slot with
  | some i => x.lc && slotGroup (s.slotEntry i) == x.group
  | none => false

def admitted (s : State) (x : Queue) : Bool := !x.lc || x.group == 0 || !s.cyclic || inSlot s x

/-- A quiet period keeps compute descriptors of the queue out of NEXT and EXEC (R346). -/
def quietHeld (s : State) (x : Queue) : Bool :=
  match (s.win x.part).quiet with
  | some i => !(x.lc && slotGroup (s.slotEntry i) == x.group)
  | none => false

/-- The step of R340 that a queue is offered in. -/
def offerStep (s : State) (x : Queue) : Nat :=
  if !x.lc then 3 else if s.cyclic && x.group != 0 then 1 else 2

/-- Ascending ids from after `last`, wrapping round. -/
def rotateAfter (last : Nat) (ids : List Nat) : List Nat := ids.filter (fun q => decide (last < q)) ++ ids.filter fun q => decide (q ≤ last)

/-- LC queues of one step in the order of the offers. -/
def lcOrder (s : State) (p step : Nat) (qs : List (Nat × Queue)) : List Nat :=
  (List.range 16).flatMap fun prio =>
    let ids := (qs.filter fun x => offerStep s x.2 == step && x.2.prio == prio).map (·.1)
    match tfind (s.win p).lastAt (16 * step + prio) with
    | some last => rotateAfter last ids
    | none => ids

/-- BE queues from the holder of the turn (R341). -/
def beOrder (s : State) (p : Nat) (qs : List (Nat × Queue)) : List Nat :=
  let ids := (qs.filter fun x => !x.2.lc).map (·.1)
  let t := (s.win p).beTurn
  ids.filter (fun q => decide (t ≤ q)) ++ ids.filter fun q => decide (q < t)

/-- The order in which a free window part is offered (R340). -/
def offerOrder (s : State) (p : Nat) : List Nat :=
  let qs := (s.queuesOf p).filter fun x => admitted s x.2
  lcOrder s p 1 qs ++ lcOrder s p 2 qs ++ beOrder s p qs

/-- The next descriptor of a queue, read and without a read-time error. -/
def nextGood (x : Queue) : Option Fetched :=
  match nextUp x with
  | some f => if f.bad.isNone then some f else none
  | none => none

/-- Conditions 1 to 4 hold and the descriptor needs the part: the queue is offered it. -/
def offered (s : State) (k : Part) (x : Queue) : Bool :=
  match nextGood x with
  | some f => partKind f.bytes == k && condActive x f && condEarlier s x f && condWait s x f && !(k == .compute && quietHeld s x)
  | none => false

/-- Conditions 6 to 8 hold as well. -/
def canIssue (s : State) (k : Part) (x : Queue) : Bool :=
  offered s k x && (match nextGood x with
    | some f => condSlots x && condValid s x f && condBoard s x f
    | none => false)

/-- A grant hold of the Damper is in force (R416). -/
def State.grantHold (s : State) : Bool := s.bit Reg.pwrStatus 44

/-- An ATTN may enter EXEC: no other ATTN runs, and no descriptor of another partition that names regions 88 to 95 is issued
and not completed (R214). -/
def attnMayStart (s : State) (p : Nat) : Bool :=
  s.attn.isNone && s.qm.queues.all fun x => x.2.part == p || x.2.items.all fun i => !(i.reserves && namesRing i.bytes)

/-- EXEC is empty and a descriptor may enter it. -/
def execFree (s : State) (p : Nat) (d : Desc) : Bool :=
  (s.win p).exec.isNone && (s.win p).next.isNone && !s.grantHold && (dOp d != .attn || attnMayStart s p)

/-- The window part that the kind needs is free. -/
def partFree (s : State) (p : Nat) (k : Part) : Bool :=
  match k with
  | .control => true
  | .mover => decide ((s.win p).movers.length < 2)
  | .compute => (s.win p).next.isNone

/-- Condition 5: the part is free and no queue earlier in the order can issue into it. -/
def condSelected (s : State) (q : Nat) (x : Queue) (k : Part) : Bool :=
  partFree s x.part k && !s.partCut x.part && admitted s x &&
    (k == .control || (offerOrder s x.part).find? (fun r => r == q || canIssue s k (s.queue r)) == some q)

/-- Every condition of R192 for the next descriptor of queue q. -/
def mayIssue (s : State) (q : Nat) (f : Fetched) : Bool :=
  let x := s.queue q
  let k := partKind f.bytes
  nextGood x == some f && canIssue s k x && condSelected s q x k

/-! ### Units and ranges (R194, R195) -/

/-- 2 × 2 output blocks of a CONVW. -/
def convBlocks (bs : List Nat) : Nat := cdiv (bnd bs 4) 2 * cdiv (bnd bs 5) 2

/-- Rows that tiles divide: pixels for CONVW counted four to a block (R119). -/
def tileRows (d : Desc) (bs : List Nat) : Nat := if dOp d = .convw then 4 * convBlocks bs else dimM d bs

/-- Tiles of an ATTN problem, and problems (R215). -/
def attnTiles (bs : List Nat) : Nat := cdiv (bnd bs 1) 128
def attnProbs (bs : List Nat) : Nat := bnd bs 3 * bnd bs 4 * bnd bs 5

/-- The units of a compute descriptor (R194); none when a dimension is zero (R113, R134, R212). A row of REDUCE without positions is a unit and
has the empty result of R145. -/
def unitCount (d : Desc) (bs : List Nat) (wide : Bool) : Nat :=
  match dOp d with
  | .gather | .scatter => if bnd bs 0 = 0 then 0 else gatherUnits bs
  | .elem =>
    if dPload d then 1
    else if prodBounds bs = 0 then 0
    else if dOutmode d = 1 ∨ dOutmode d = 2 then 1 else cdiv (prodBounds bs) 4096
  | .reduce => bnd bs 1 * bnd bs 2 * bnd bs 3 * bnd bs 4 * bnd bs 5
  | .attn => if bnd bs 0 = 0 then 0 else attnTiles bs * attnProbs bs
  | op =>
    if !op.isArray then 0
    else if dimM d bs = 0 ∨ dimN d bs = 0 then 0
    else if onMatvec d bs && !wide then
      -- R114: with N = 1 operand A is the matrix, and its rows are the channels
      (if dimN d bs = 1 then dimBatch d bs * cdiv (dimM d bs) 256
        else if dArg d ≠ 0 then dimBatch d bs else dimBatch d bs * cdiv (dimN d bs) 256)
    else
      let (m, n, _) := tileDims d wide
      let mt := cdiv (tileRows d bs) m
      if dArg d ≠ 0 then dimBatch d bs * mt
      else dimBatch d bs * (dimG d * (mt * cdiv (dimN d bs) n))

/-- `n` units divided into contiguous ranges over a list of cores: the first n mod c take one more (R195). -/
def splitRanges (n c : Nat) : List Nat → Nat → Tab (Nat × Nat)
  | [], _ => []
  | k :: ks, i =>
    let len := fun j => if j < n % c then n / c + 1 else n / c
    let start := fun j => j * (n / c) + min j (n % c)
    let rest := splitRanges n c ks (i + 1)
    if len i = 0 then rest else (k, (start i, start i + len i)) :: rest

def runRanges (s : State) (p n : Nat) : Tab (Nat × Nat) :=
  let cs := s.coreList p
  splitRanges n (max 1 cs.length) cs 0

/-! ### Entering EXEC -/

/-- A pass of ATTN begins with fresh row states (R215, R220). -/
def attnPass (a : AttnRun) (prob tile0 : Nat) (line : Bool) : AttnRun :=
  { part := a.part, q := a.q, uid := a.uid, prob := prob, tile0 := tile0, line := line }

/-- Hearth `b` is connected to `a` going up, or going down. -/
def connected (s : State) (a b : Nat) : Bool :=
  let up := (b + 4 - a) % 4
  (List.range up).all (fun k => flueUp s ((a + k) % 4)) || (List.range (4 - up)).all (fun k => flueUp s ((b + k) % 4)) || a == b

/-- Hearths of a partition. -/
def partHearths (s : State) (p : Nat) : List Nat := (List.range 4).filter fun h => (s.coreList p).any fun c => c / 4 == h

/-- The lowest Hearth of a partition that is not connected to that of its lowest core (R227). -/
def cutHearth (s : State) (p : Nat) : Option Nat :=
  match s.coreList p with
  | c :: _ => (partHearths s p).find? fun h => !connected s (c / 4) h
  | [] => none

/-- Regions 48 to 63 of the partition's cores and 88 to 95 of every Hearth hold what an ATTN works with (R213), in a layout that the manual does not
give: their bytes are free (log 61). -/
def attnScratch (p : Nat) (s : State) : State :=
  let (run, s) := s.fresh
  let f := Config.attnByte run
  let m := (s.coreList p).foldl (fun m c => mpaint m (coreBase c + 48 * 98304) (16 * 98304) f) s.mem
  { s with mem := (List.range 4).foldl (fun m h => mpaint m (hearthBase h + 24 * 131072) (8 * 131072) f) m }

/-- A descriptor enters EXEC: its ranges are set up (R195), and an ATTN begins its first pass. -/
def enterExec (s : State) (p q : Nat) (i : Item) : State :=
  let n := unitCount i.bytes i.bounds false
  let attn := dOp i.bytes == .attn
  let r : Run := { q := BitVec.ofNat 16 q, uid := i.uid, units := n, ranges := if attn then [] else runRanges s p n }
  let s := s.modWin p fun w => { w with exec := some r }
  if !attn then s
  else
    -- R214: an ATTN without units stands in EXEC like any other
    let s := if n = 0 then s else attnScratch p s
    let s := { s with attn := some { part := p, q := BitVec.ofNat 16 q, uid := i.uid, prob := 0, tile0 := 0, line := s.fabric.flueFailed != 0 } }
    match if n = 0 then none else cutHearth s p with
    | none => s
    | some h =>
      (s.modItem q i.uid fun i => { i with status := 0x21, info := BitVec.ofNat 48 h }).modWin p fun w =>
        { w with exec := some { r with stopped := true } }

/-- The NEXT descriptor moves into an empty EXEC, unless a grant hold, a quiet period, another ATTN or the cancellation of its queue keeps it
out. -/
def promote (p : Nat) (s : State) : State :=
  let w := s.win p
  match w.exec, w.next with
  | none, some (q, uid) =>
    let x := s.queue q.toNat
    (match s.item q.toNat uid with
      | none => s.modWin p fun w => { w with next := none }
      | some i =>
        if s.grantHold || quietHeld s x || s.cancelling q.toNat || (dOp i.bytes == .attn && !attnMayStart s p) then s
        else enterExec (s.modWin p fun w => { w with next := none }) p q.toNat i)
  | _, _ => s

/-! ### Issue -/

/-- The item of a descriptor that issues or is refused. -/
def newItem (s : State) (x : Queue) (f : Fetched) (reserves : Bool) : Item :=
  { uid := s.qm.issued
    idx := f.idx
    bytes := f.bytes
    frames := x.frames
    bounds := dBounds x.bound f.bytes
    rtab := (s.coreList x.part).map fun c => s.reg (Reg.hearthRtab c (dRtab f.bytes))
    reserves := reserves
    finished := false
    isOpen := false
    status := 0
    info := 0
    detail := 0
    count := 0
    flags := 0
    loads := [] }

/-- The queue's place after a descriptor that is no open REPEAT: descriptors read ahead serve on unless the body starts
again, and REPEATs left behind are closed. -/
def stepPast (x : Queue) (idx : W32) (drop : Nat) : Queue :=
  let (ip, frames) := advance idx x.frames
  let left := x.frames.filter fun f => !(frames.any fun g => g.rep == f.rep)
  { x with
    ip := ip
    frames := frames
    ahead := if ip = idx + 1 then x.ahead.drop drop else []
    items := x.items.map fun i => if left.any (fun f => f.rep == i.uid) then { i with isOpen := false } else i }

/-- Snuff by SNUFF_ISSUE or SNUFF_DONE: the origin is the Hearth of the partition's lowest core (R466). -/
def descSnuff (cause p q : Nat) (s : State) : State := snuffTrigger cause ((s.coreList p).headD 0 / 4) q s

/-- The scheduler's memory of an issue into a window part (R340, R341). -/
def noteIssue (q : Nat) (k : Part) (s : State) : State :=
  let x := s.queue q
  s.modWin x.part fun w =>
    let w := { w with stallTold := false }
    if k == .control then w
    else if x.lc then { w with lastAt := tput w.lastAt (16 * offerStep s x + x.prio) q }
    else
      let left := (if w.beTurn = q ∧ w.beLeft ≠ 0 then w.beLeft else x.weight) - 1
      if left = 0 then { w with beTurn := q + 1, beLeft := 0 } else { w with beTurn := q, beLeft := left }

/-- The item of queue q's next descriptor as it issues: a new one, which joins the queue, or the one that issues again, with its rescale slots captured
anew. `f` finishes its making, `past` moves the queue's place on. -/
def placeItem (s : State) (q : Nat) (g : Fetched) (f : Item → Item) (past : Queue → Item → Queue) : Item × State :=
  let x := s.queue q
  match x.backItem with
  | some b =>
    let i := f { b with back := false, reserves := true, rtab := (newItem s x g true).rtab }
    (i, s.setQueue q { x with items := x.items.map fun j => if j.uid == b.uid then i else j })
  | none =>
    let i := f (newItem s x g true)
    let s := { s with qm := { s.qm with issued := s.qm.issued + 1 } }
    (i, s.setQueue q (past { x with items := x.items ++ [i] } i))

/-- The next descriptor of queue q issues, `put` places it in the window, and SNUFF_ISSUE triggers. -/
def doIssue (s : State) (q : Nat) (g : Fetched) (f : Item → Item) (past : Queue → Item → Queue) (put : Item → State → State) : State :=
  let p := (s.queue q).part
  let (i, s) := placeItem s q g f past
  let s := noteIssue q (partKind g.bytes) s
  let s := put i s
  if dSnuffIssue g.bytes then descSnuff 4 p q s else s

/-- The next descriptor of queue q issues when it has the opcode and every condition of R192 holds. -/
def issueIf (q : Nat) (want : Desc → Bool) (k : Fetched → State → State) (s : State) : State :=
  match nextUp (s.queue q) with
  | some f => if f.bad.isNone && want f.bytes && mayIssue s q f then k f s else s
  | none => s

/-- A control descriptor whose own work is done at once. -/
def issueControl (q : Nat) (op : Op) (s : State) : State :=
  issueIf q (fun d => dOp d == op && dCode d != 5) (fun f s =>
    doIssue s q f (fun i => { i with finished := true }) (fun x i => stepPast x i.idx 1) (fun _ s => s)) s

/-- A mover enters the window. -/
def issueMover (q : Nat) (op : Op) (s : State) : State :=
  issueIf q (fun d => dOp d == op) (fun f s =>
    doIssue s q f id (fun x i => stepPast x i.idx 1) (fun i s =>
      s.modWin (s.queue q).part fun w => { w with movers := w.movers ++ [(BitVec.ofNat 16 q, i.uid)] })) s

/-- A compute descriptor enters EXEC when it is empty, or NEXT. -/
def issueCompute (q : Nat) (want : Desc → Bool) (s : State) : State :=
  issueIf q want (fun f s =>
    doIssue s q f id (fun x i => stepPast x i.idx 1) (fun i s =>
      let p := (s.queue q).part
      if execFree s p i.bytes then enterExec s p q i
      else s.modWin p fun w => { w with next := some (BitVec.ofNat 16 q, i.uid) })) s

/-- The count of a REPEAT (R176). -/
def repCount (x : Queue) (d : Desc) : Nat := if dRepFromReg d then (tget 0 x.bound (dRepReg d)).toNat else dRepCount d

/-- The queue's place after a REPEAT: into its body, or past it when the count is 0. -/
def enterBody (x : Queue) (i : Item) : Queue :=
  let n := repCount x i.bytes
  let body := dBody i.bytes
  if n = 0 then stepPast x (i.idx + BitVec.ofNat 32 body) (body + 1)
  else
    let f : Frame := ⟨i.uid, i.idx + 1, i.idx + BitVec.ofNat 32 body, n, 0, dRstrides i.bytes⟩
    let rest := x.ahead.drop 1
    { x with ip := i.idx + 1, frames := f :: x.frames, ahead := if n = 1 then rest else rest.take body }

/-- A REPEAT reads its count and opens its body. -/
def issueRepeat (q : Nat) (s : State) : State :=
  issueIf q (fun d => dCode d == 5) (fun f s =>
    doIssue s q f (fun i => { i with finished := true, isOpen := decide (repCount (s.queue q) f.bytes ≠ 0) }) enterBody (fun _ s => s)) s

/-! ### Refusal, timeout and stall -/

/-- A descriptor that is refused or timed out takes a completion slot and no reservation; the queue faults when it completes
(R185, R200). -/
def refuseWith (q : Nat) (f : Fetched) (status : Byte) (info : BitVec 48) (s : State) : State :=
  let x := s.queue q
  match x.backItem with
  | some b =>
    s.setQueue q { x with ahead := [], items := x.items.map fun j =>
      if j.uid == b.uid then { b with back := false, finished := true, status := status, info := info } else j }
  | none =>
    let i := { newItem s x f false with finished := true, status := status, info := info }
    let s := { s with qm := { s.qm with issued := s.qm.issued + 1 } }
    s.setQueue q { x with items := x.items ++ [i], ahead := [] }

/-- The turn passes on from BE queue `q` (R341). -/
def passOver (q : Nat) (s : State) : State := s.modWin (s.queue q).part fun w => { w with beTurn := q + 1, beLeft := 0 }

/-- DESCRIPTOR_REFUSE: a read-time failure under conditions 1, 3 and 8; an issue-time failure under 1 to 5 and 8 (R192), at which a BE
queue that was offered a part and cannot issue gives up its turn (R341). -/
def refuseDesc (q : Nat) (s : State) : State :=
  let x := s.queue q
  match nextUp x with
  | none => s
  | some f =>
    match f.bad with
    | some (st, info) =>
      if condActive x f && condEarlier s x { f with bytes := [] } && condSlots x then refuseWith q f st info s else s
    | none =>
      match issueBad (issueCtx s x f) f.bytes with
      | none => s
      | some (st, info) =>
        let k := partKind f.bytes
        if offered s k x && condSelected s q x k && condSlots x then
          refuseWith q f st (BitVec.ofNat 48 info) (if x.lc || k == .control then s else passOver q s)
        else s

/-- WAIT_TIMEOUT: conditions 1 to 3 hold, the wait is not satisfied, and the queue has a timeout (R200). -/
def waitTimeout (q : Nat) (s : State) : State :=
  let x := s.queue q
  match nextGood x with
  | none => s
  | some f =>
    if condActive x f && condEarlier s x f && dWaitEn f.bytes && !waitOk s f.bytes && x.timeoutUs != 0 && condSlots x then
      refuseWith q f 0x10 (BitVec.ofNat 48 (dWaitSem f.bytes)) s
    else s

/-- A queue is held at condition 4 by a semaphore (R202), which comes before its admission (R192); one held by its admission alone is not
(R339). -/
def heldBySem (s : State) (x : Queue) : Bool :=
  match nextGood x with
  | some f => condActive x f && condEarlier s x f && !waitOk s f.bytes
  | none => false

/-- PARTITION_STALL (R202). -/
def partStall (p : Nat) (s : State) : State :=
  let rs := (s.queuesOf p).filter fun x => x.2.runnable
  if s.fld Reg.qmStallTime 31 0 != 0 && !rs.isEmpty && rs.all (fun x => heldBySem s x.2) && (partItems s p).isEmpty && !(s.win p).stallTold then
    let s := s.setBit Reg.qmStall p true
    let s := report s 0x0C 0x80 p rs.length ((rs.map (·.1)).headD 0)
    s.modWin p fun w => { w with stallTold := true }
  else s

end Sys2Proof.Machine
end

