-- ==== Sys2Proof/Machine/ArrayUnit.lean ====
section
/-!
DEFINITION. One unit of an array descriptor (R93 to R120, R194): the outputs that it covers, the operands of each output, the
accumulation over K in every cell mode, the Winograd form, the widened form (R89), and the epilogue with its argument reduction
(R83, R85, R106, R107).
-/
namespace Sys2Proof.Machine

/-! ### What a unit covers (R194) -/

/-- The outputs of a unit: a batch problem, output rows (2 × 2 blocks for CONVW), and output channels with their group. -/
structure Area where
  bt : Nat
  rows : List Nat
  chans : List (Nat × Nat)
deriving DecidableEq, Repr

/-- lo, lo + 1, … below hi. -/
def span (lo hi : Nat) : List Nat := (List.range (hi - lo)).map (· + lo)

/-- Channels lo to hi − 1 of one group. -/
def chansOf (g lo hi : Nat) : List (Nat × Nat) := (span lo hi).map fun n => (g, n)

/-- Every channel of every group. -/
def allChans (d : Desc) (bs : List Nat) : List (Nat × Nat) := (List.range (dimG d)).flatMap fun g => chansOf g 0 (dimN d bs)

/-- Unit `u` of a descriptor. -/
def areaOf (d : Desc) (bs : List Nat) (wide : Bool) (u : Nat) : Area :=
  let n := dimN d bs
  let m := dimM d bs
  if onMatvec d bs && !wide then
    if n = 1 then
      let c := cdiv m 256
      ⟨u / max 1 c, span (u % max 1 c * 256) (min m (u % max 1 c * 256 + 256)), chansOf 0 0 1⟩
    else if dArg d ≠ 0 then ⟨u, span 0 m, chansOf 0 0 n⟩
    else
      let c := max 1 (cdiv n 256)
      ⟨u / c, span 0 m, chansOf 0 (u % c * 256) (min n (u % c * 256 + 256))⟩
  else
    let (tm, tn, _) := tileDims d wide
    let all := if dOp d = .convw then convBlocks bs else m
    let per := if dOp d = .convw then tm / 4 else tm
    let mt := max 1 (cdiv (tileRows d bs) tm)
    let rows := fun j => span (j * per) (min all (j * per + per))
    if dArg d ≠ 0 then ⟨u / mt, rows (u % mt), allChans d bs⟩
    else
      let nt := max 1 (cdiv n tn)
      let v := u / nt
      let g := v / mt % max 1 (dimG d)
      ⟨v / mt / max 1 (dimG d), rows (v % mt), chansOf g (u % nt * tn) (min n (u % nt * tn + tn))⟩

/-- Output channels of an N-tile: those of the shape, or the 256 of the matrix-vector path (R100, R194). -/
def tileWidth (d : Desc) (bs : List Nat) (wide : Bool) : Nat := if onMatvec d bs && !wide then 256 else max 1 (tileDims d wide).2.1

/-- N-tiles that a core runs in one unit: all of them with an argument reduction, else one (R107, R194). -/
def unitTiles (d : Desc) (bs : List Nat) (wide : Bool) : Nat :=
  if dArg d = 0 then 1 else max 1 (dimG d * cdiv (dimN d bs) (tileWidth d bs wide))

/-- N-tile `t` of a unit: the unit's own area, or a slice of its channels (R107). -/
def tileArea (d : Desc) (bs : List Nat) (wide : Bool) (u t : Nat) : Area :=
  let ar := areaOf d bs wide u
  if dArg d = 0 then ar
  else
    let n := dimN d bs
    let w := tileWidth d bs wide
    let nt := max 1 (cdiv n w)
    { ar with chans := chansOf (t / nt) (t % nt * w) (min n (t % nt * w + w)) }

/-- The K step of a unit's accumulation: that of its tile shape, or the 4,096 elements of the matrix-vector path (R115). -/
def kStep (d : Desc) (bs : List Nat) (wide : Bool) : Nat :=
  if onMatvec d bs && !wide then 4096 else max 1 (tileDims d wide).2.2

/-! ### Where an output's operands lie -/

/-- The output channel over all groups (R80, R170). -/
def chanOfGroup (bs : List Nat) (g n : Nat) : Nat := g * bnd bs 3 + n

/-- The indices at L3 to L5 of a batch problem. -/
def batchIdx (bs : List Nat) (bt : Nat) : List Nat := unflatten (bs.drop 3) bt

/-- The index vector of position k of output (m, n). -/
def posIdx (d : Desc) (bs : List Nat) (bt g m n k : Nat) : List Nat :=
  if (dOp d).isConv then
    let cin := max 1 (bnd bs 0)
    let kw := max 1 (bnd bs 1)
    [k % cin, k / cin % kw, k / cin / kw, if dOp d = .conv then chanOfGroup bs g n else n, m % max 1 (bnd bs 4), m / max 1 (bnd bs 4)]
  else [k, n, m] ++ batchIdx bs bt

/-- Operand A at position k: its pattern, or none where the position is filled (R110, R171). A padding position of a convolution
holds the value 0 (R110, R170). -/
def readA (c part : Nat) (i : Item) (row : Option Nat) (bt g m n k : Nat) (a : Acc) : Option Nat × Acc :=
  let d := i.bytes
  let o := opnd d 0
  match row with
  | none => (none, a)
  | some r =>
    let is := posIdx d i.bounds bt g m n k
    if (dOp d).isConv then
      let iy := convRow d (is.getD 5 0) (is.getD 2 0)
      let ix := convCol d (is.getD 4 0) (is.getD 1 0)
      let cc := if dOp d = .dwconv then n else g * bnd i.bounds 0 + is.getD 0 0
      if inMap d iy ix then
        let (x, a) := readElem c part false o.format (elemAddr o 0 i.frames (convIdx iy ix cc)) (elemPos o (convIdx iy ix cc)) a
        (some x, a)
      else (some 0, a)
    else
      let is := if dAmode d then setIdx is 2 r else is
      let (x, a) := readElem c part false o.format (elemAddr o 0 i.frames is) (elemPos o is) a
      (some x, a)

/-- Operand B at position k. -/
def readB (c part : Nat) (i : Item) (bt g m n k : Nat) (a : Acc) : Nat × Acc :=
  let o := opnd i.bytes 1
  let is := posIdx i.bytes i.bounds bt g m n k
  readElem c part false o.format (elemAddr o 1 i.frames is) (elemPos o is) a

/-- The positions of an output that hold real operands: k, the A pattern and the B pattern. -/
def readPairs (c part : Nat) (i : Item) (row : Option Nat) (bt g m n : Nat) (a : Acc) : List (Nat × Nat × Nat) × Acc :=
  (List.range (dimK i.bytes i.bounds)).foldl (fun (ps, a) k =>
    if a.stop.isSome then (ps, a)
    else
      let (x, a) := readA c part i row bt g m n k a
      match x with
      | none => (ps, a)
      | some x =>
        let (y, a) := readB c part i bt g m n k a
        (ps ++ [(k, x, y)], a)) ([], a)

/-- The row of operand A that output row m takes: m, or its index (R171). -/
def rowIndex (c part : Nat) (i : Item) (bt m : Nat) (a : Acc) : Option Nat × Acc :=
  if dAmode i.bytes then fetchIndex c part false i.bytes i.frames ([0, 0, m] ++ batchIdx i.bounds bt) a else (some m, a)

/-- The block scales of an output channel (R69), one for each 16 positions. -/
def readBlockScales (c part : Nat) (i : Item) (ch : Nat) (a : Acc) : List FVal × Acc :=
  let d := i.bytes
  let k := dimK d i.bounds
  let f := (opnd d 1).format
  if (f == .bs4 || f == .bs8) && k != 0 then
    let (bs, a) := coreRead c part false (dBscale d + ch * blockPitch k) (cdiv k 16) a
    (bs.map fun b => fdecode ffE4M3 b.toNat, a)
  else ([], a)

/-- The first byte of the activation scale tensor of a batch problem (R72, R173). -/
def scaleBase (d : Desc) (bs : List Nat) (frames : List Frame) (bt : Nat) : Int :=
  let o := opnd d 3
  let is := if (dOp d).isConv then [0, 0, 0, 0, 0, 0] else [0, 0, 0] ++ batchIdx bs bt
  (o.base : Int) + affine none o.strides is 0 + repTerm o 3 frames

/-- The ROW scale of an output row. -/
def readRowScale (c part : Nat) (i : Item) (bt m : Nat) (a : Acc) : FVal × Acc :=
  let (x, a) := readElem c part false .fp16 (scaleBase i.bytes i.bounds i.frames bt + 2 * m) 0 a
  (fdecode ffFP16 x, a)

/-- The GROUP32 scales of an output row (R72, R74). -/
def readGroupScales (c part : Nat) (i : Item) (bt m : Nat) (a : Acc) : List FVal × Acc :=
  let g := cdiv (scaleK i.bytes i.bounds) 32
  let (bs, a) := coreRead c part false (scaleBase i.bytes i.bounds i.frames bt + m * groupPitch g).toNat (2 * g) a
  ((List.range g).map fun j => fdecode ffFP16 (leAt bs (2 * j) 2), a)

/-! ### Accumulation (R74, R76, R96 to R98) -/

/-- An FP32 accumulator. -/
def fpAccu (x : FVal) : Accu := { val := BitVec.ofNat 32 (p32 x), isInt := false, sat := false }

/-- An addition into an INT32 accumulator, with its saturation (R76). -/
def accAdd (a : Int × Bool) (x : Int) : Int × Bool :=
  let y := clampI (-2147483648) 2147483647 (a.1 + x)
  (y, a.2 || decide (y ≠ a.1 + x))

/-- An INT32 accumulator. -/
def intAccu (a : Int × Bool) : Accu := { val := BitVec.ofInt 32 a.1, isInt := true, sat := a.2 }

/-- The accumulator of an output that combines nothing (R113). -/
def zeroAccu (ints : Bool) : Accu := { val := 0, isInt := ints, sat := false }

/-- An accumulator with the invalid flag of R76 where one of its steps raised it. -/
def Accu.raise (a : Accu) (b : Bool) : Accu := { a with inv := a.inv || b }

/-- The terms meet infinity minus infinity (R76): both infinities and, DESIGN CHOICE (log 57), no NaN among them. -/
def FSum.infMinusInf (s : FSum) : Bool := s.posInf && s.negInf && !s.nan

/-- The sum `y` of the terms met infinity minus infinity, among the terms or after an overflow on the way (R76). -/
def FSum.oddSum (s : FSum) (y : FVal) : Bool := s.infMinusInf || s.oddResult y

/-- A product or a difference makes a NaN of operands that are none (R76). -/
def makesNaN (x y t : FVal) : Bool := t.isNaN && !x.isNaN && !y.isNaN

/-- Column sums of one K step after the other, exact, each added into the accumulator (R96): terms with their positions. -/
def stepAccum (ks : Nat) : List (Nat × Int) → Nat → Int → Int × Bool → Int × Bool
  | [], _, col, acc => accAdd acc col
  | (k, x) :: t, step, col, acc =>
    if k / ks = step then stepAccum ks t step (col + x) acc else stepAccum ks t (k / ks) x (accAdd acc col)

/-- Integer terms of the sum modes (R97). -/
def intTerm (mode : Nat) (x y : Int) : Int :=
  match mode with
  | 0 => x * y
  | 1 => -(x * y)
  | 2 => ((x - y).natAbs : Int)
  | 3 => (x - y) * (x - y)
  | _ => if y < x then 1 else 0

/-- HAMMING: 1 where the bits differ. -/
def hamTerm (x y : Nat) : Int := if x % 2 = y % 2 then 0 else 1

/-- Floating terms of the sum modes as they enter the reduction (R96, R97): products are exact, a difference rounds once to FP32, and its square
once more. -/
def fpTerm (mode : Nat) (x y : FVal) : FVal :=
  match mode with
  | 0 => fmul x y
  | 1 => (fmul x y).neg
  | 2 => (sub32 x y).abs
  | 3 => let d := sub32 x y; mul32 d d
  | _ => if flt y x then FVal.ofInt 1 else FVal.zero

/-- The same terms exact, which R91 measures a result against. -/
def exactTerm (mode : Nat) (x y : FVal) : FVal :=
  match mode with
  | 0 => fmul x y
  | 1 => (fmul x y).neg
  | 2 => (fsub x y).abs
  | 3 => let d := fsub x y; fmul d d
  | _ => if flt y x then FVal.ofInt 1 else FVal.zero

/-- The largest or smallest of the integer sums; a row with no real position stays at its infinity (R98). -/
def intExtreme (mx : Bool) (xs : List Int) : Accu :=
  match xs with
  | [] => fpAccu (.inf mx)
  | x :: t => intAccu (t.foldl (fun m y => if mx then max m y else min m y) x, false)

/-- The same on FP32 sums: a NaN stays (R98). -/
def fpExtreme (mx : Bool) (xs : List FVal) : Accu :=
  fpAccu (xs.foldl (fun m y => if mx then fmax m y else fmin m y) (.inf mx))

/-- What the overflow of a partial sum makes of its product with the group scale: an infinity, or NaN at a scale of 0 (R74, R76). -/
def groupSpill (s : FSum) (scale : FVal) : List FVal :=
  let w := s.spill (missBound 34 (-24) 32 s.absSum)
  (if w.pos then [fmul (.inf false) scale] else []) ++ (if w.neg then [fmul (.inf true) scale] else []) ++ (if w.nan then [.nan] else [])

/-- The sum of a GROUP32 output over its groups: terms with their positions, the group scales, and the number of positions; the partial sums of an
integer pair are exact (R74, R91). A partial sum that no addition rounds has one product. -/
def groupAccum (run pl : Nat) (ints : Bool) (k : Nat) (gs : List FVal) (ts : List (Nat × FVal)) : Accu :=
  let parts := (List.range (cdiv k 32)).map fun j => (fsum ((ts.filter fun t => t.1 / 32 == j).map (·.2)), gs.getD j FVal.zero)
  let sure := fun (x : FSum × FVal) => ints || x.1.noRounding
  let s := fsum (parts.map fun x => if sure x then mul32 (r32 x.1.val) x.2 else fmul x.1.val x.2)
  let p := fsum (ts.map fun t => fmul t.2 (gs.getD (t.1 / 32) FVal.zero))
  let inv := s.infMinusInf || parts.any fun x => x.1.infMinusInf || makesNaN x.1.val x.2 (fmul x.1.val x.2)
  -- K + K / 32 + 2 as a number of 32nds
  let bound := missBound (33 * k + 64) (-29) k p.absSum
  let odd := parts.flatMap fun x => if sure x then [] else groupSpill x.1 x.2
  let w := s.spill bound
  let up := w.pos || odd.contains (.inf false)
  let down := w.neg || odd.contains (.inf true)
  let y := spillSum run pl (s.noRounding && parts.all sure) ⟨up, down, (up && down) || odd.contains .nan⟩ bound s p
  (fpAccu y).raise (inv || s.oddResult y)

/-- The accumulator type of the pair and mode is INT32 (R75, R97). -/
def intMode (d : Desc) : Bool :=
  dMode d == 6 || dMode d == 7 || ((opnd d 0).format.isInt && (opnd d 1).format.isInt)

/-- The value of a weight with its block scale (R68, R70). -/
def weightVal (d : Desc) (bsc : List FVal) (k y : Nat) : FVal :=
  let v := (opnd d 1).format.decode y
  if bsc.isEmpty then v else fmul v (bsc.getD (k / 16) FVal.zero)

/-- A product with a block scale raises the invalid flag (R70): a NaN element or activation, or an infinite activation that meets a zero. -/
def blockInvalid (act elem sc : FVal) : Bool :=
  act.isNaN || elem.isNaN || (!act.isFin && (elem.isZero || sc.isZero))

/-- A term raises the invalid flag: by R70 where a block scale enters it, else where it makes a NaN of operands that are none. -/
def pairInvalid (d : Desc) (bsc : List FVal) (mode k : Nat) (x : FVal) (y : Nat) : Bool :=
  let e := (opnd d 1).format.decode y
  if bsc.isEmpty then makesNaN x e (fpTerm mode x e) else blockInvalid x e (bsc.getD (k / 16) FVal.zero)

/-- One output over K (R76, R96, R97): real positions, block scales, group scales (empty but for GROUP32). -/
def accumulate (run pl : Nat) (d : Desc) (ks k : Nat) (ps : List (Nat × Nat × Nat)) (bsc gs : List FVal) : Accu :=
  let fa := (opnd d 0).format
  let fb := (opnd d 1).format
  let mode := dMode d
  let ints := fa.isInt && fb.isInt
  if k = 0 then zeroAccu (intMode d && gs.isEmpty)
  else if mode = 7 then intAccu (stepAccum ks (ps.map fun p => (p.1, hamTerm p.2.1 p.2.2)) 0 0 (0, false))
  else if mode = 4 ∨ mode = 5 then
    if ints then intExtreme (mode == 4) (ps.map fun p => fa.toInt p.2.1 + fb.toInt p.2.2)
    else
      (fpExtreme (mode == 4) (ps.map fun p => add32 (fa.decode p.2.1) (fb.decode p.2.2))).raise
        (ps.any fun p => makesNaN (fa.decode p.2.1) (fb.decode p.2.2) (add32 (fa.decode p.2.1) (fb.decode p.2.2)))
  else if !gs.isEmpty then
    (groupAccum run pl ints k gs (ps.map fun p => (p.1, fpTerm mode (fa.decode p.2.1) (weightVal d bsc p.1 p.2.2)))).raise
      (ps.any fun p => pairInvalid d bsc mode p.1 (fa.decode p.2.1) p.2.2)
  else if mode = 6 then
    intAccu (stepAccum ks (ps.map fun p => (p.1, if flt (fb.decode p.2.2) (fa.decode p.2.1) then 1 else 0)) 0 0 (0, false))
  else if ints then
    intAccu (stepAccum ks (ps.map fun p => (p.1, intTerm mode (fa.toInt p.2.1) (fb.toInt p.2.2))) 0 0 (0, false))
  else
    -- R70: the activation times the weight's element times its block scale
    let ts := fun (f : Nat → FVal → FVal → FVal) => ps.map fun p => f mode (fa.decode p.2.1) (weightVal d bsc p.1 p.2.2)
    let y := sum32Rounded run pl (k + 2) k (ts fpTerm) (ts exactTerm)
    (fpAccu y).raise ((fsum (ts fpTerm)).oddSum y || ps.any fun p => pairInvalid d bsc mode p.1 (fa.decode p.2.1) p.2.2)

/-- Rounded once to BF16 (R89). -/
def bf16 (x : FVal) : FVal := fround ffBF16 x

/-- One output of a widened re-run (R89): A with its activation scale and B with its block scale each rounded to BF16. CMPCOUNT accumulates in INT32
here too (R97). -/
def accumulateWide (run pl : Nat) (d : Desc) (ks k : Nat) (ps : List (Nat × Nat × Nat)) (bsc gs : List FVal) (srow : Option FVal) : Accu :=
  let fa := (opnd d 0).format
  let mode := dMode d
  let av := fun (j x : Nat) =>
    let v := fa.decode x
    match srow with
    | some s => bf16 (fmul v s)
    | none => if gs.isEmpty then bf16 v else bf16 (fmul v (gs.getD (j / 32) FVal.zero))
  let ts := fun (f : FVal → FVal → FVal) => ps.map fun p => f (av p.1 p.2.1) (bf16 (weightVal d bsc p.1 p.2.2))
  if k = 0 then zeroAccu false
  else
    let made := fun (f : FVal → FVal → FVal) => (ts fun x y => if makesNaN x y (f x y) then .nan else .zero).any FVal.isNaN
    if mode = 4 ∨ mode = 5 then (fpExtreme (mode == 4) (ts add32)).raise (made add32)
    else if mode = 6 then
      intAccu (stepAccum ks (ps.map fun p => (p.1, if flt (bf16 (weightVal d bsc p.1 p.2.2)) (av p.1 p.2.1) then 1 else 0)) 0 0 (0, false))
    else
      let y := sum32Rounded run pl (k + 2) k (ts (fpTerm mode)) (ts (exactTerm mode))
      (fpAccu y).raise ((fsum (ts (fpTerm mode))).oddSum y || made (fpTerm mode))

/-! ### Winograd F(2×2, 3×3) (R117 to R119) -/

/-- Rows of B^T and of A^T. -/
def winB : Nat → List Int
  | 0 => [1, 0, -1, 0]
  | 1 => [0, 1, 1, 0]
  | 2 => [0, -1, 1, 0]
  | _ => [0, 1, 0, -1]
def winA : Nat → List Int
  | 0 => [1, 1, 1, 0]
  | _ => [0, 1, -1, -1]

/-- Element (i, j) of V = B^T d B for a 4 × 4 patch in row-major order. -/
def winV (patch : List Int) (i j : Nat) : Int :=
  (List.range 16).foldl (fun s x => s + (winB i).getD (x / 4) 0 * patch.getD x 0 * (winB j).getD (x % 4) 0) 0

/-- The sign with which position ξ = 4 i + j enters pixel (p, q). -/
def winSign (p q x : Nat) : Int := (winA p).getD (x / 4) 0 * (winA q).getD (x % 4) 0

/-- The 4 × 4 input patch of a block at a channel. R118 subtracts 128 from UINT8 inputs and adds the exact correction, which
gives the results of the plain inputs. -/
def readPatch (c part : Nat) (i : Item) (by' bx cc : Nat) (a : Acc) : List Int × Acc :=
  let d := i.bytes
  let o := opnd d 0
  (List.range 16).foldl (fun (xs, a) x =>
    let iy : Int := (2 * by' + x / 4 : Nat) - (dPadT d : Int)
    let ix : Int := (2 * bx + x % 4 : Nat) - (dPadL d : Int)
    if a.stop.isSome || !inMap d iy ix then (xs ++ [0], a)
    else
      let (v, a) := readElem c part false o.format (elemAddr o 0 i.frames (convIdx iy ix cc)) (elemPos o (convIdx iy ix cc)) a
      (xs ++ [o.format.toInt v], a)) ([], a)

/-- The transformed weights of a channel pair, by ξ. -/
def readWin (c part : Nat) (i : Item) (cc n : Nat) (a : Acc) : List Int × Acc :=
  let o := opnd i.bytes 1
  (List.range 16).foldl (fun (xs, a) x =>
    let (v, a) := readElem c part false o.format (elemAddr o 1 i.frames [cc, x % 4, x / 4, n, 0, 0]) 0 a
    (xs ++ [o.format.toInt v], a)) ([], a)

/-- The products V · U of a block and output channel: for every input channel, by ξ. -/
def readWinTerms (c part : Nat) (i : Item) (blk n : Nat) (a : Acc) : List (List Int) × Acc :=
  let bw := max 1 (cdiv (bnd i.bounds 4) 2)
  (List.range (bnd i.bounds 0)).foldl (fun (ts, a) cc =>
    if a.stop.isSome then (ts, a)
    else
      let (patch, a) := readPatch c part i (blk / bw) (blk % bw) cc a
      let (us, a) := readWin c part i cc n a
      (ts ++ [(List.range 16).map fun x => winV patch (x / 4) (x % 4) * us.getD x 0], a)) ([], a)

/-- Positions of a pixel in the order of the accumulation: ξ in the outer loop, then the input channel. -/
def winTerms (p q cin : Nat) (ts : List (List Int)) : List (Nat × Nat × Int) :=
  (List.range 16).flatMap fun x =>
    if winSign p q x = 0 then [] else (List.range cin).map fun cc => (x, cc, winSign p q x * (ts.getD cc []).getD x 0)

/-- One pixel of a block (R74, R119): integers, GROUP32 partial sums of each position, or FP32 in a widened re-run. -/
def winPixel (run pl ks : Nat) (wide : Bool) (p q cin k : Nat) (gs : List FVal) (ts : List (List Int)) : Accu :=
  let xs := winTerms p q cin ts
  if k = 0 then zeroAccu (gs.isEmpty && !wide)
  else if !gs.isEmpty then
    -- group j % ng of position ξ = j / ng: its sum and its scale
    let ng := max 1 (cdiv cin 32)
    let parts := ((List.range (16 * cdiv cin 32)).filter fun j => winSign p q (j / ng) != 0).map fun j =>
      (FVal.ofInt ((xs.filter fun t => t.1 == j / ng && t.2.1 / 32 == j % ng).foldl (fun y t => y + t.2.2) 0), gs.getD (j % ng) FVal.zero)
    let s := fsum (parts.map fun x => fmul x.1 x.2)
    let nc := 9 * cdiv cin 32
    let y := boundedSum run pl (3 * nc + 2) (-24) nc s
    (fpAccu y).raise (s.oddSum y || parts.any fun x => makesNaN x.1 x.2 (fmul x.1 x.2))
  else if wide then fpAccu (sum32 run pl (k + 2) k (xs.map fun t => FVal.ofInt t.2.2))
  else
    let w := cdiv cin ks * ks
    intAccu (stepAccum ks (xs.map fun t => (t.1 * w + t.2.1, t.2.2)) 0 0 (0, false))

/-! ### A whole unit -/

/-- The pixels of a block that lie inside the output: (p, q, m). -/
def blockPixels (bs : List Nat) (blk : Nat) : List (Nat × Nat × Nat) :=
  let bw := max 1 (cdiv (bnd bs 4) 2)
  ([(0, 0), (0, 1), (1, 0), (1, 1)].filter fun x =>
      decide (2 * (blk / bw) + x.1 < bnd bs 5) && decide (2 * (blk % bw) + x.2 < bnd bs 4)).map fun x =>
    (x.1, x.2, (2 * (blk / bw) + x.1) * bnd bs 4 + 2 * (blk % bw) + x.2)

/-- The output rows of an area. -/
def areaRows (d : Desc) (bs : List Nat) (ar : Area) : List Nat :=
  if dOp d = .convw then ar.rows.flatMap fun b => (blockPixels bs b).map fun x => x.2.2 else ar.rows

/-- The accumulators of one output row of every opcode but CONVW. -/
def rowCells (c part run : Nat) (wide : Bool) (i : Item) (ar : Area) (m : Nat) (a : Acc) : List Accu × Acc :=
  let d := i.bytes
  let bs := i.bounds
  let k := dimK d bs
  let (row, a) := if k = 0 then (some m, a) else rowIndex c part i ar.bt m a
  let (gs, a) := if dAscale d = 2 && k != 0 && !a.stop.isSome then readGroupScales c part i ar.bt m a else ([], a)
  let (srow, a) := if wide && dAscale d = 1 && k != 0 && !a.stop.isSome then
      let (x, a) := readRowScale c part i ar.bt m a
      (some x, a)
    else (none, a)
  ar.chans.foldl (fun (cs, a) ch =>
    if a.stop.isSome then (cs, a)
    else
      let chn := if (dOp d) = .conv then chanOfGroup bs ch.1 ch.2 else ch.2
      let (ps, a) := readPairs c part i row ar.bt ch.1 m ch.2 a
      let (bsc, a) := readBlockScales c part i chn a
      let pl := m * 65536 * 65536 + chn
      let x := if wide then accumulateWide run pl d (kStep d bs wide) k ps bsc gs srow else accumulate run pl d (kStep d bs wide) k ps bsc gs
      (cs ++ [x], a)) ([], a)

/-- The accumulators of one CONVW block: pixel by pixel, channel by channel. -/
def blockCells (c part run : Nat) (wide : Bool) (i : Item) (ar : Area) (blk : Nat) (a : Acc) : List Accu × Acc :=
  let d := i.bytes
  let bs := i.bounds
  let k := dimK d bs
  let (ts, a) := ar.chans.foldl (fun (ts, a) ch =>
    if k = 0 then (ts ++ [[]], a)
    else
      let (t, a) := readWinTerms c part i blk ch.2 a
      (ts ++ [t], a)) (([] : List (List (List Int))), a)
  (blockPixels bs blk).foldl (fun (cs, a) px =>
    let (gs, a) := if dAscale d = 2 && k != 0 && !a.stop.isSome then readGroupScales c part i 0 px.2.2 a else ([], a)
    let row := (List.range ar.chans.length).map fun j =>
      winPixel run (px.2.2 * 65536 * 65536 + (ar.chans.getD j (0, 0)).2) (kStep d bs wide) wide px.1 px.2.1 (bnd bs 0) k gs (ts.getD j [])
    (cs ++ row, a)) ([], a)

/-- A tile is computed over all of K: its accumulators, row by row. -/
def tileCells (c part run : Nat) (wide : Bool) (i : Item) (ar : Area) (a : Acc) : List Accu × Acc :=
  ar.rows.foldl (fun (cs, a) r =>
    if a.stop.isSome then (cs, a)
    else
      let (x, a) := if dOp i.bytes = .convw then blockCells c part run wide i ar r a else rowCells c part run wide i ar r a
      (cs ++ x, a)) ([], a)

/-! ### The stationary registers (R99, R100, R102, R103) -/

/-- Weights of the format that one cell holds: two of a 4-bit pair at rate 2, eight BIN1 elements, else one; none where a group of cells
holds a weight (R94, R95). -/
def cellWeights (d : Desc) : Nat :=
  let fa := (opnd d 0).format
  let fb := (opnd d 1).format
  if fb == .bin1 then 8 else if fa.bits == 4 && fb.bits == 4 then 2 else if fb == .fp16 || fb == .bf16 then 0 else 1

/-- The channel column and first K row of a cell: column groups hold successive K ranges, row segments successive channels (R99). `kr` and
`n` are the grid's K rows and channels of the shape. -/
def cellPlace (kr n cell : Nat) : Nat × Nat :=
  let r := cell / 128
  let col := cell % 128
  if 128 ≤ kr then (col % n, col / n * 128 + r) else (r / kr * 128 + col, r % kr)

/-- The indices of operand B at position k of an output channel. -/
def weightIdx (i : Item) (ar : Area) (ch : Nat × Nat) (k : Nat) : List Nat :=
  if dOp i.bytes = .convw then
    let cin := max 1 (bnd i.bounds 0)
    [k % cin, k / cin % 4, k / cin / 4, ch.2, 0, 0]
  else posIdx i.bytes i.bounds ar.bt ch.1 (ar.rows.headD 0) ch.2 k

/-- The weight at position k of an output channel. -/
def weightAt (c part : Nat) (i : Item) (ar : Area) (ch : Nat × Nat) (k : Nat) (a : Acc) : Nat :=
  let o := opnd i.bytes 1
  let is := weightIdx i ar ch k
  (readElem c part false o.format (elemAddr o 1 i.frames is) (elemPos o is) a).1

/-- The K range of step `j` of a tile: its first position and one past the last. A step of CONVW takes one position ξ and a K step of its input
channels (R119). -/
def stepRange (d : Desc) (bs : List Nat) (wide : Bool) (j : Nat) : Nat × Nat :=
  let ks := max 1 (kStep d bs wide)
  if dOp d = .convw then
    let cin := bnd bs 0
    let n := max 1 (cdiv cin ks)
    (j / n * cin + j % n * ks, j / n * cin + min cin (j % n * ks + ks))
  else (j * ks, min (dimK d bs) (j * ks + ks))

/-- The pattern of a cell in K step `j` of a tile: its weights, the lowest position in the lowest bits, and the fill value 0 beyond the step's range
(R110); none where no weight is real and the fill is an infinity. DESIGN CHOICE (log 58): how one cell packs several weights. -/
def cellPat (c part : Nat) (i : Item) (ar : Area) (kr n j cell : Nat) (a : Acc) : Option (BitVec 16) :=
  let d := i.bytes
  let w := cellWeights d
  let (col, row) := cellPlace kr n cell
  let (k0, k1) := stepRange d i.bounds false j
  let inf := dMode d == 4 || dMode d == 5
  match ar.chans[col]? with
  | none => if inf then none else some 0
  | some ch =>
    if inf && decide (k1 ≤ k0 + row * w) then none
    else
      some (BitVec.ofNat 16 ((List.range w).foldl (fun x b =>
        let k := k0 + row * w + b
        let y := if k < k1 then weightAt c part i ar ch k a % 2 ^ (16 / w) else 0
        x + y * 2 ^ ((opnd d 1).format.bits * b)) 0))

/-- The stationary set of K step `j` of a tile. The manual does not say how a cell holds the infinities that fill MAXPLUS and MINPLUS (R98: integers
hold them by a flag), nor how the cells of a group hold a 16-bit float (R95): there the patterns are free (log 58). -/
def statSet (c part run : Nat) (wide : Bool) (i : Item) (ar : Area) (j : Nat) (a : Acc) : StatSet :=
  let d := i.bytes
  let (_, n, ks) := tileDims d wide
  let w := cellWeights d
  let inf := dMode d == 4 || dMode d == 5
  if wide || w == 0 then { layout := some (2 * run + j % 2) }
  else
    { cells := (List.range 16384).filterMap fun cell =>
        (cellPat c part i ar (max 1 (ks / w)) (max 1 n) j cell a).bind fun p => if p = 0 && !inf then none else some (cell, p)
      layout := if inf then some (2 * run + j % 2) else none }

/-- The virtual addresses of 256 bytes that the first stationary set of a unit lies in, 64 of them at most (R198). -/
def setLines (i : Item) (ar : Area) : List Nat :=
  let (k0, k1) := stepRange i.bytes i.bounds false 0
  ((ar.chans.flatMap fun ch => (span k0 k1).map fun k =>
    (elemAddr (opnd i.bytes 1) 1 i.frames (weightIdx i ar ch k)).toNat / 256 * 256).dedup).take 64

/-- K steps of a tile (R100); for CONVW those of each of the 16 positions (R119). -/
def kSteps (d : Desc) (bs : List Nat) (wide : Bool) : Nat :=
  let ks := max 1 (kStep d bs wide)
  if dOp d = .convw then 16 * cdiv (bnd bs 0) ks else cdiv (dimK d bs) ks

/-- The stationary registers after a tile: every K step loads the shadow and swaps it with the primary (R102, R103). The matrix-vector path
uses none. -/
def swapSets (c part run : Nat) (wide : Bool) (i : Item) (ar : Area) (a : Acc) (p sh : StatSet) : StatSet × StatSet :=
  let n := kSteps i.bytes i.bounds wide
  if onMatvec i.bytes i.bounds && !wide then (p, sh)
  else if n = 0 then (p, sh)
  else if n = 1 then (statSet c part run wide i ar 0 a, p)
  else (statSet c part run wide i ar (n - 1) a, statSet c part run wide i ar (n - 2) a)

/-! ### The epilogue (R81, R83, R106) -/

/-- An entry of a rescale table: MULT, BIAS and SAT_MODE. -/
structure Rescale where
  mult : FVal
  bias : FVal
  mode : Nat
deriving DecidableEq, Repr

/-- The entry of an output channel; without a table 1.0, 0.0 and SAT (R80). -/
def readRescale (c part : Nat) (i : Item) (slot : W64) (ch : Nat) (a : Acc) : Rescale × Acc :=
  if dRtabEn i.bytes then
    let (bs, a) := coreRead c part false (nbits slot.toNat 47 4 * 16 + 16 * ch) 16 a
    (⟨f32 (leAt bs 0 4), f32 (leAt bs 4 4), nbits (leAt bs 8 1) 1 0⟩, a)
  else (⟨FVal.ofInt 1, FVal.zero, 0⟩, a)

/-- The activation clamp: a NaN passes. -/
def clampAct (lo hi t : FVal) : FVal := if t.isNaN then t else fmin (fmax t lo) hi

/-- The value of an accumulator in FP32. -/
def Accu.fp (x : Accu) : FVal := if x.isInt then r32 (FVal.ofInt x.val.toInt) else f32 x.val.toNat

/-- t of R83 up to and with the clamp. -/
def epilogue (d : Desc) (k : Nat) (x : Accu) (srow : Option FVal) (r : Rescale) : FVal :=
  let t := x.fp
  let t := match srow with
    | some s => mul32 t s
    | none => t
  let fb := (opnd d 1).format
  let t := if (fb == .bs4 || fb == .bs8) && k != 0 then mul32 t (f32 (dTscale d)) else t
  clampAct (f32 (dClampLo d)) (f32 (dClampHi d)) (fma32 t r.mult r.bias)

/-- What a drain has formed so far: the accesses, the writes to be made, the outputs, and how many of them saturated. -/
structure Drain where
  a : Acc
  writes : List (Int × List Byte)
  outputs : Nat
  sats : Nat
deriving DecidableEq, Repr

/-- The address of output (m, channel), at twice its offset from the output base in a widened re-run (R89). -/
def outAddr (d : Desc) (bs : List Nat) (frames : List Frame) (wide : Bool) (bt g m n : Nat) : Int :=
  let o := opnd d 2
  let is := (posIdx d bs bt g m n 0).set 0 0
  let is := if (dOp d).isConv then (is.set 1 0).set 2 0 else is
  let off := affine none o.strides is 0
  (o.base : Int) + repTerm o 2 frames + (if wide then 2 * off else off)

/-- One output converted (R85). -/
def drainOut (i : Item) (wide : Bool) (bt g m n : Nat) (x : Accu) (t : FVal) (mode : Nat) (w : Drain) : Drain :=
  let f := if wide then Fmt.bf16 else (opnd i.bytes 2).format
  let (p, sat) := convertOut f mode t
  { a := w.a
    writes := w.writes ++ [(outAddr i.bytes i.bounds i.frames wide bt g m n, leBytes f.bytes p)]
    outputs := w.outputs + 1
    sats := w.sats + (x.sat || sat).toNat }

/-- The running record of an argument reduction (R107): a channel wins when it is strictly greater, or smaller; the first number
replaces NaN. -/
def argStep (isMin : Bool) (rec : Nat × FVal) (ch : Nat) (t : FVal) : Nat × FVal :=
  if t.isNaN then rec
  else if rec.2.isNaN then (ch, t)
  else if (if isMin then flt t rec.2 else flt rec.2 t) then (ch, t) else rec

/-- The record of a row: index and FP16 value. -/
def drainArg (i : Item) (bt m : Nat) (rec : Nat × FVal) (w : Drain) : Drain :=
  let (p, sat) := convertOut .fp16 0 rec.2
  { a := w.a
    writes := w.writes ++ [(outAddr i.bytes i.bounds i.frames false bt 0 m 0, leBytes 2 rec.1 ++ leBytes 2 p)]
    outputs := w.outputs + 1
    sats := w.sats + sat.toNat }

/-- The channels of one row through the epilogue; for an argument reduction the running record before and after (R107). DESIGN CHOICE (log 67): with
GROUPS above 1 one record runs over the channels of all groups, and the index is that of the channel over all groups, cut to 16 bits. -/
def drainRow (c part : Nat) (i : Item) (slot : W64) (wide : Bool) (ar : Area) (m : Nat) (cells : List Accu) (rec : Nat × FVal)
    (w : Drain) : (Nat × FVal) × Drain :=
  let d := i.bytes
  let bs := i.bounds
  let k := dimK d bs
  let useRow := dAscale d = 1 && k != 0 && (!wide || dOp d == .convw)
  let (srow, a) := if useRow then
      let (x, a) := readRowScale c part i ar.bt m w.a
      (some x, a)
    else (none, w.a)
  let step := fun (st : (Nat × FVal) × Drain) (j : Nat) =>
    let w := st.2
    if w.a.stop.isSome then st
    else
      let ch := ar.chans.getD j (0, 0)
      let chn := if dOp d = .conv then chanOfGroup bs ch.1 ch.2 else ch.2
      let x := cells.getD j (zeroAccu false)
      let (r, a) := readRescale c part i slot chn w.a
      let w := { w with a := a }
      let t := epilogue d k x srow r
      if dArg d = 0 then (st.1, drainOut i wide ar.bt ch.1 m ch.2 x t r.mode w)
      else (argStep (dArg d == 2) st.1 chn t, w)
  (List.range ar.chans.length).foldl step (rec, { w with a := a })

/-- The writes of a drain, each made whether or not another one faults (R108); the first error stands. -/
def drainWrites (c part : Nat) (w : Drain) : Drain :=
  let a := w.writes.foldl (fun (a : Acc) x =>
    let b := coreWrite c part false x.1.toNat x.2 { a with stop := none }
    { b with stop := match a.stop with
        | some st => some st
        | none => b.stop }) w.a
  { w with a := a }

/-- The rows of a tile through the epilogue, with their running records. -/
def drainRows (s : State) (c part : Nat) (i : Item) (slot : W64) (wide : Bool) (ar : Area) (rows : List Nat) (cells : List Accu)
    (recs : List (Nat × W32)) : List (Nat × W32) × Drain :=
  let n := ar.chans.length
  (List.range rows.length).foldl (fun st r =>
    if st.2.a.stop.isSome then st
    else
      let r0 := recs.getD r (0, 0x7FC00000#32)
      let (rec, w) := drainRow c part i slot wide ar (rows.getD r 0) ((cells.drop (r * n)).take n) (r0.1, f32 r0.2.toNat) st.2
      (st.1 ++ [(rec.1, BitVec.ofNat 32 (p32 rec.2))], w)) ([], ⟨{ s := s }, [], 0, 0⟩)

/-! ### The words of a bank (R101, R110, R111) -/

/-- The initial accumulator of a mode (R97), which a position that combines nothing keeps. -/
def initWord (d : Desc) (k : Nat) : W32 :=
  if k = 0 ∨ (dMode d ≠ 4 ∧ dMode d ≠ 5) then 0 else BitVec.ofNat 32 (ffFP32.infPat (dMode d == 4))

/-- Word `j` of a bank that holds a tile (R101), none where it is a leftover. A partial tile is computed in full (R111): a position outside the bounds
combines nothing and keeps the initial accumulator (R97, R110). DESIGN CHOICE (log 29): the outputs lie row by row, M rows of N words, four rows for
each block of CONVW; on the matrix-vector path they stand from word 0 on; and a pixel of a CONVW block beyond the output is a leftover. -/
def bankWord (d : Desc) (bs : List Nat) (wide : Bool) (b : Bank) (j : Nat) : Option W32 :=
  let ar := tileArea d bs wide b.unit b.tile
  let (tm, tn, _) := tileDims d wide
  let n := ar.chans.length
  let at' := fun (r : Nat) => (b.cells[r * n + j % max 1 tn]?).map fun (x : Accu) => x.val
  let init := some (initWord d (dimK d bs))
  if onMatvec d bs && !wide then (b.cells[j]?).map fun (x : Accu) => x.val
  else if tm * tn ≤ j then none
  else if n ≤ j % max 1 tn then init
  else if dOp d = .convw then
    match ar.rows[j / max 1 tn / 4]? with
    | none => init
    | some blk =>
      let before := ((ar.rows.take (j / max 1 tn / 4)).map fun x => (blockPixels bs x).length).sum
      match (blockPixels bs blk).findIdx? fun px => 2 * px.1 + px.2.1 == j / max 1 tn % 4 with
      | some k => at' (before + k)
      | none => none
  else if j / max 1 tn < ar.rows.length then at' (j / max 1 tn)
  else init

/-- The records of the rows, written after the last N-tile (R107). -/
def drainRecs (i : Item) (ar : Area) (rows : List Nat) (recs : List (Nat × W32)) (w : Drain) : Drain :=
  (List.range rows.length).foldl (fun w r =>
    let x := recs.getD r (0, 0x7FC00000#32)
    drainArg i ar.bt (rows.getD r 0) (x.1, f32 x.2.toNat) w) w

/-- A bank drains (R83, R112): the running records of an argument reduction, and the outputs. A fault of the table or of a scale comes before any
write (R79). -/
def drainUnit (s : State) (c part : Nat) (i : Item) (slot : W64) (wide : Bool) (b : Bank) (recs : List (Nat × W32)) :
    List (Nat × W32) × Drain :=
  let ar := tileArea i.bytes i.bounds wide b.unit b.tile
  let rows := areaRows i.bytes i.bounds ar
  let (recs, w) := drainRows s c part i slot wide ar rows b.cells (if b.tile = 0 then [] else recs)
  if w.a.stop.isSome then (recs, w)
  else
    let w := if dArg i.bytes ≠ 0 ∧ b.tile + 1 = unitTiles i.bytes i.bounds wide then drainRecs i ar rows recs w else w
    (recs, drainWrites c part w)

end Sys2Proof.Machine
end

