-- ==== Sys2Proof/Machine/Flags.lean ====
section
/-!
DEFINITION. The lanes of the element engine (R121 to R133, R146 to R148): lane types, the arithmetic of every instruction with
the five flags it raises, conversions on load, by CVT and on store, and a program run for one element.
-/
namespace Sys2Proof.Machine

/-- Flags of R148 as bits of a number. -/
def flInvalid : Nat := 1
def flOverflow : Nat := 2
def flUnderflow : Nat := 4
def flDivZero : Nat := 8
def flSat : Nat := 16

/-- A flag when a condition holds. -/
def flagIf (f : Nat) (b : Bool) : Nat := if b then f else 0

/-! ### Lane types (R121, R130) -/

/-- Bits of an element in a width. -/
def laneBits (w : Nat) : Nat := 32 / widthElems w

/-- The width that carries a lane type. -/
def typeWidth (t : Nat) : Nat := if t ≤ 1 then 0 else if t ≤ 4 then 1 else 2

/-- The floating format of a floating lane type. -/
def laneFf (t : Nat) : FFmt := if t = 2 then ffFP16 else if t = 3 then ffBF16 else ffFP32

/-- Smallest and largest value of an integer lane type. -/
def laneRange (t : Nat) : Int × Int :=
  match t with
  | 4 => (-32768, 32767)
  | 5 => (-128, 127)
  | 6 => (0, 255)
  | _ => (-2147483648, 2147483647)

/-- The integer that a pattern spells in an integer lane type. -/
def laneInt (t x : Nat) : Int := if t = 6 then ((x % 256 : Nat) : Int) else sext (laneBits (typeWidth t)) x

/-- The pattern of an integer in a lane type. -/
def intLane (t : Nat) (i : Int) : Nat := toPat (laneBits (typeWidth t)) i

/-- The value of a pattern in any lane type. -/
def laneVal (t x : Nat) : FVal := if isFloatType t then fdecode (laneFf t) x else FVal.ofInt (laneInt t x)

/-! ### Floating results (R84, R133, R148) -/

/-- A finite exact result is tiny: rounded with an unbounded exponent it lies below the smallest normal, and is not zero. -/
def isTiny (f : FFmt) (m : Nat) (e : Int) : Bool :=
  decide (m ≠ 0) &&
    (let q : Int := (Nat.log2 m : Int) + e - f.mbits
     Dy.lt ⟨(rneAt m e q : Nat), q⟩ ⟨1, f.emin⟩)

/-- The pattern of an exact result in a floating format and the overflow and underflow flags that rounding raises. -/
def roundResult (f : FFmt) (x : FVal) : Nat × Nat :=
  match x with
  | .fin s m e =>
    let p := fencode f (.fin s m e)
    let y := fdecode f p
    (p, flagIf flOverflow (!y.isFin) |||
      flagIf flUnderflow (y.isFin && isTiny f m e && (Dy.sub y.dy (FVal.fin s m e).dy).m != 0))
  | _ => (fencode f x, 0)

/-- A result under an instruction: a NaN that no input was raises invalid. -/
def floatResult (f : FFmt) (anyNaN : Bool) (x : FVal) : Nat × Nat :=
  let (p, g) := roundResult f x
  (p, g ||| flagIf flInvalid (x.isNaN && !anyNaN))

/-- FN[0] Z on a floating result: the maximum with +0; a NaN stays NaN. -/
def floatZ (f : FFmt) (p : Nat) : Nat :=
  let x := fdecode f p
  if x.isNaN then p else if x.sign then 0 else p

/-- ADD, SUB, MUL, FMA, MIN, MAX and ABS on floating lanes. -/
def floatArith (op t : Nat) (a b c : FVal) : Nat × Nat :=
  let f := laneFf t
  match op with
  | 0x08 => floatResult f (a.isNaN || b.isNaN) (fadd a b)
  | 0x09 => floatResult f (a.isNaN || b.isNaN) (fsub a b)
  | 0x0A => floatResult f (a.isNaN || b.isNaN) (fmul a b)
  | 0x0B => floatResult f (a.isNaN || b.isNaN || c.isNaN) (fadd (fmul a b) c)
  | 0x0C => (fencode f (fmin a b), 0)
  | 0x0D => (fencode f (fmax a b), 0)
  | _ => (fencode f a.abs, 0)

/-! ### Integer results (R131, R133, R148) -/

/-- An exact integer result, saturated or wrapped. -/
def intResult (t : Nat) (sat : Bool) (x : Int) : Int × Nat :=
  let (lo, hi) := laneRange t
  if lo ≤ x ∧ x ≤ hi then (x, 0)
  else if sat then (clampI lo hi x, flSat)
  else (laneInt t (intLane t x), flOverflow)

/-- The integer operations. -/
def intArith (op t : Nat) (sat : Bool) (a b c : Int) : Int × Nat :=
  match op with
  | 0x08 => intResult t sat (a + b)
  | 0x09 => intResult t sat (a - b)
  | 0x0A => intResult t sat (a * b)
  | 0x0B => intResult t sat (a * b + c)
  | 0x0C => (min a b, 0)
  | 0x0D => (max a b, 0)
  | _ => intResult t sat (a.natAbs : Int)

/-- ADD, SUB, MUL, FMA, MIN, MAX and ABS with FN. -/
def arith (op t fn a b c : Nat) : Nat × Nat :=
  if isFloatType t then
    let f := laneFf t
    let (p, g) := floatArith op t (fdecode f a) (fdecode f b) (fdecode f c)
    (if fn % 2 = 1 then floatZ f p else p, g)
  else
    let (x, g) := intArith op t (fn / 2 % 2 == 1) (laneInt t a) (laneInt t b) (laneInt t c)
    (intLane t (if fn % 2 = 1 then max x 0 else x), g)

/-- The conditions of CMP (R131, R133). -/
def compare (cond : Nat) (a b : FVal) : Bool :=
  let un := a.isNaN || b.isNaN
  match cond with
  | 0 => feq a b
  | 1 => !feq a b
  | 2 => flt a b
  | 3 => fle a b
  | 4 => flt b a
  | 5 => fle b a
  | 6 => un
  | _ => !un

/-! ### Conversions (R133, R136, R148) -/

/-- A value to an integer lane type: nearest-even, saturated; NaN becomes 0 and raises invalid. -/
def toLaneInt (t : Nat) (x : FVal) : Nat × Nat :=
  let (lo, hi) := laneRange t
  let i := toIntSat lo hi x
  match x with
  | .nan => (0, flInvalid)
  | .inf _ => (intLane t i, flSat)
  | .fin _ _ _ => (intLane t i, flagIf flSat (toIntRne x != i))

/-- A value converted to a lane type: CVT, and the load of a stream element. -/
def toLane (t : Nat) (x : FVal) : Nat × Nat :=
  if isFloatType t then roundResult (laneFf t) x else toLaneInt t x

/-- A value stored in a memory format under SAT_MODE 0: the pattern and the flags of a store. -/
def storeVal (f : Fmt) (x : FVal) : Nat × Nat :=
  let (p, sat) := convertOut f 0 x
  (p, if x.isNaN then flagIf flInvalid f.isInt else flagIf flSat sat)

/-! ### Transcendentals and the table (R146, R147) -/

/-- 1 and the flags of a result whose FP32 value is `y`: `exact` tells that y is the very result. -/
def transResult (t : Nat) (inFin exact : Bool) (y : FVal) : Nat × Nat :=
  let f := laneFf t
  match y with
  | .fin s m e =>
    let (p, g) := roundResult f (.fin s m e)
    (p, g ||| flagIf flUnderflow (isTiny f m e && !exact) ||| flagIf flUnderflow (m == 0 && !exact))
  | _ => (fencode f y, flagIf flOverflow (inFin && !y.isNaN))

/-- EXP2, LOG2, RCP and RSQ. -/
def transcend (run place op t : Nat) (x : FVal) : Nat × Nat :=
  let f := laneFf t
  match op with
  | 0x18 =>
    let y := exp2F run place x
    let exact := decide (Dy.lt ⟨-150, 0⟩ x.dy) && x.isFin && (Dy.sub x.dy (Dy.ofInt (toIntRne x))).m == 0 &&
      y.isFin && (Dy.sub y.dy ⟨1, toIntRne x⟩).m == 0
    transResult t x.isFin (exact || !x.isFin) y
  | 0x19 =>
    if x.isZero then (f.infPat true, flDivZero)
    else if !x.isNaN && x.sign then (fencode f .nan, flInvalid)
    else transResult t false true (log2F run place x)
  | 0x1A =>
    if x.isZero then (f.infPat x.sign, flDivZero)
    else
      let y := rcpF run place x
      transResult t x.isFin (!x.isFin || (y.isFin && (Dy.sub (Dy.mul x.dy y.dy) (Dy.ofInt 1)).m == 0)) y
  | _ =>
    if x.isZero then (f.infPat x.sign, flDivZero)
    else if !x.isNaN && x.sign then (fencode f .nan, flInvalid)
    else transResult t false true (rsqF run place x)

/-- The FP32 word j of a LUT table: X0, INV_STEP, then T[0] to T[255]. -/
def lutWord (tab : List Byte) (j : Nat) : FVal := f32 (leAt tab (4 * j) 4)

/-- LUT in FP32 (R147). DESIGN CHOICE (log 66): the rounded steps of R147 can leave R91's 1 ulp of the exact interpolant where two entries nearly
cancel; the steps' value stands where it keeps that bound or a step overflows (R92), else the result is free within the bound. -/
def lutF (run place : Nat) (tab : List Byte) (x : FVal) : FVal :=
  let u := mul32 (sub32 x (lutWord tab 0)) (lutWord tab 1)
  if u.isNaN then .nan
  else
    let u := fmin (fmax u FVal.zero) (FVal.ofInt 255)
    let k := min (toIntFloor u).toNat 254
    let f := sub32 u (FVal.ofInt k)
    let t0 := lutWord tab (2 + k)
    let t1 := lutWord tab (3 + k)
    if feq u (FVal.ofInt 255) then t1
    else
      let y := fma32 f (sub32 t1 t0) t0
      let v := fadd t0 (fmul f (fsub t1 t0))
      if !v.isFin || !(sub32 t1 t0).isFin || !y.isFin || ulpOk 1 Dy.zero v.dy y then y else withinUlp run place 1 Dy.zero v.dy

/-- LUT in a lane type: invalid exactly when it returns NaN. -/
def lutLane (run place : Nat) (tab : List Byte) (t : Nat) (x : FVal) : Nat × Nat :=
  let y := lutF run place tab x
  (fencode (laneFf t) y, flagIf flInvalid y.isNaN)

/-! ### One element's program (R122, R129, R132) -/

/-- What a program works on for one element: its sixteen registers as patterns of the width, its predicates p1 to p3, and the
flags raised. -/
structure Lane where
  regs : List Nat
  p : List Bool
  flags : Nat
deriving DecidableEq, Repr

def Lane.get (l : Lane) (r : Nat) : Nat := l.regs.getD r 0
def Lane.set (l : Lane) (r x : Nat) : Lane := { l with regs := l.regs.set r x }
/-- Predicate p0 always reads true. -/
def Lane.pred (l : Lane) (i : Nat) : Bool := if i = 0 then true else l.p.getD (i - 1) false
def Lane.setPred (l : Lane) (i : Nat) (b : Bool) : Lane := if i = 0 then l else { l with p := l.p.set (i - 1) b }

/-- The guard of an instruction (R132). -/
def Lane.guard (l : Lane) (ins : Nat) : Bool := l.pred (iGp ins) != iGn ins

/-- Bitwise operations and shifts on a raw pattern of `n` bits (R130). -/
def rawOp (op n a b : Nat) : Nat :=
  let sh := b % n
  match op with
  | 0x24 => a &&& b
  | 0x25 => a ||| b
  | 0x26 => a ^^^ b
  | 0x27 => 2 ^ n - 1 - a
  | 0x28 => (a <<< sh) % 2 ^ n
  | 0x29 => a >>> sh
  | _ => toPat n (sext n a / 2 ^ sh)

/-- MOVI (R133). -/
def movi (w ins old : Nat) : Nat :=
  let imm := iImm ins
  match w with
  | 0 =>
    match iSub ins with
    | 0 => toPat 32 (sext 16 imm)
    | 1 => imm
    | 2 => imm * 65536 + old % 65536
    | _ => old / 65536 * 65536 + imm
  | 1 => imm
  | _ => imm % 256

/-- One instruction on one element whose guard is true. `idx` is the element index, `pl` numbers free values. -/
def execLane (run pl w idx : Nat) (tab : List Byte) (ins : Nat) (l : Lane) : Lane :=
  let d := iDst ins
  let t := iType ins
  let fn := iFn ins
  let a := l.get (iSa ins)
  let b := l.get (iSb ins)
  let c := l.get (iSc ins)
  let res := fun (r : Nat × Nat) => { l.set d r.1 with flags := l.flags ||| r.2 }
  match iOp ins with
  | 0x00 | 0x01 | 0x02 => l
  | 0x03 => l.set d (movi w ins (l.get d))
  | 0x04 => l.set d a
  | 0x05 => l.set d (idx % 2 ^ 32)
  | 0x10 => l.setPred d (compare fn (laneVal t a) (laneVal t b))
  | 0x11 => l.set d (if l.pred (fn % 4) then a else b)
  | 0x12 => l.setPred d (fn.testBit (2 * (l.pred (iSa ins)).toNat + (l.pred (iSb ins)).toNat))
  | 0x1C => res (lutLane run pl tab t (laneVal t a))
  | 0x20 => res (toLane (fn % 8) (laneVal t a))
  | op =>
    if 0x24 ≤ op then l.set d (rawOp op (laneBits w) a b)
    else if 0x18 ≤ op then res (transcend run pl op t (laneVal t a))
    else res (arith op t fn a b c)

/-- A section of a program on one element: instruction by instruction, guarded. -/
def runLane (run w idx : Nat) (tab : List Byte) : List Nat → Nat → Lane → Lane
  | [], _, l => l
  | ins :: rest, pl, l =>
    runLane run w idx tab rest (pl + 1) (if l.guard ins then execLane run pl w idx tab ins l else l)

end Sys2Proof.Machine
end

