-- ==== Sys2Proof/Machine/Element.lean ====
section
/-!
DEFINITION. ELEM and REDUCE on the element engine (R134 to R154): the streams of a batch, the program on its lanes, the output
modes, folds, REDUCE rows with segments and TOPK, and the program load (R124 to R127).
-/
namespace Sys2Proof.Machine

/-! ### Streams (R135, R136) -/

/-- The program that a descriptor runs: its width, its setup section and its body (R137). -/
structure Prog where
  width : Nat
  setup : List Nat
  body : List Nat
  lut : Bool
deriving DecidableEq, Repr

/-- The program of a descriptor on a core; a REDUCE without one has an empty body in the width of A's lane type (R151). -/
def progOf (d : Desc) (img : List Byte) : Prog :=
  if dProgEn d then
    let (a, b) := splitBegin (progWords img)
    ⟨progWidth img, a, b, progUsesLut img⟩
  else ⟨typeWidth (dLtypeA d), [], [], false⟩

/-- Elements in a batch (R121). -/
def Prog.batch (p : Prog) : Nat := 64 * widthElems p.width

/-- An input stream: its operand, lane type and first register. -/
structure InStream where
  x : Nat
  ltype : Nat
  reg : Nat
deriving DecidableEq, Repr

/-- The input streams in the order of their registers (R135). -/
def streamsOf (d : Desc) : List InStream :=
  let na := (opnd d 0).comps
  let b := if bIsStream d then [(⟨1, dLtypeB d, na⟩ : InStream)] else []
  let nb := if bIsStream d then (opnd d 1).comps else 0
  let x := if auxIsStream d then [(⟨3, dLtypeAux d, na + nb⟩ : InStream)] else []
  ⟨0, dLtypeA d, 0⟩ :: (b ++ x)

/-- Byte offset and packed position of a component: the components of one element are adjacent (R135). -/
def compPlace (f : Fmt) (pos k : Nat) : Nat × Nat :=
  if f.packed then
    let p := (pos % (8 / f.bits) + k) * f.bits
    (p / 8, p % 8 / f.bits)
  else (k * f.bytes, 0)

/-- The components of the element of operand `x` at an index vector, as they lie in memory. -/
def readComps (c part : Nat) (i : Item) (x : Nat) (is : List Nat) (a : Acc) : List Nat × Acc :=
  let o := opnd i.bytes x
  (List.range o.comps).foldl (fun (xs, a) k =>
    let (off, pos) := compPlace o.format (elemPos o is) k
    let (v, a) := readElem c part false o.format (elemAddr o x i.frames is + off) pos a
    (xs ++ [v], a)) ([], a)

/-- The components of A, whose row an index may give; a row out of range reads as zeros (R171). -/
def readStreamA (c part : Nat) (i : Item) (is : List Nat) (a : Acc) : List Nat × Acc :=
  if dAmode i.bytes then
    let (row, a) := fetchIndex c part false i.bytes i.frames is a
    match row with
    | some r => if a.stop.isSome then ([], a) else readComps c part i 0 (setIdx is 1 r) a
    | none => (List.replicate (opnd i.bytes 0).comps 0, a)
  else readComps c part i 0 is a

/-- Patterns of a stream element enter consecutive registers, converted to its lane type (R136). -/
def loadRegs (f : Fmt) (t : Nat) : List Nat → Nat → Lane → Lane
  | [], _, l => l
  | x :: xs, r, l =>
    let (v, g) := toLane t (f.decode x)
    loadRegs f t xs (r + 1) { l.set r v with flags := l.flags ||| g }

/-- The broadcast streams of a descriptor. -/
def bcastStreams (d : Desc) : List InStream := (streamsOf d).filter fun t => (opnd d t.x).bcast

/-- Every broadcast element enters a lane. -/
def loadBcast (d : Desc) (bcast : List W32) (l : Lane) : Lane :=
  ((bcastStreams d).foldl (fun (l, bs) t =>
    let o := opnd d t.x
    (loadRegs o.format t.ltype ((bs.take o.comps).map (·.toNat)) t.reg l, bs.drop o.comps)) (l, bcast)).1

/-! ### Registers of the lanes (R122, R123) -/

/-- The lane view of element e of a batch. -/
def laneOf (w : Nat) (vregs : List W32) (e : Nat) : Lane :=
  let n := widthElems w
  let bits := laneBits w
  { regs := (List.range 16).map fun r => (vregs.getD (16 * (e / n) + r) 0).toNat / 2 ^ (bits * (e % n)) % 2 ^ bits
    p := [false, false, false]
    flags := 0 }

/-- The predicates of the elements of a batch in bits 0 to 3, p0 always true (R122). -/
def predsBack (ls : List Lane) : List Byte := ls.map fun l => BitVec.ofNat 8 (1 + 2 * (l.pred 1).toNat + 4 * (l.pred 2).toNat + 8 * (l.pred 3).toNat)

/-- The registers of 64 lanes from the elements of a batch. -/
def lanesBack (w : Nat) (ls : List Lane) : List W32 :=
  let n := widthElems w
  let bits := laneBits w
  (List.range 64).flatMap fun lane => (List.range 16).map fun r =>
    BitVec.ofNat 32 ((List.range n).foldl (fun x k => x + (ls.getD (n * lane + k) ⟨[], [], 0⟩).get r * 2 ^ (bits * k)) 0)

/-! ### A batch (R137) -/

/-- What the lanes of a batch are: the number of its first element, how many are real, which positions take an element, and the
index vectors that A and the other streams take for each. -/
structure BatchIn where
  first : Nat
  cnt : Nat
  on : List Bool
  isA : List (List Nat)
  isO : List (List Nat)
deriving DecidableEq, Repr

/-- One lane loaded and run: an element with its streams, or a padding lane, which raises no flag. DESIGN CHOICE (log 68): the stream registers of a
padding lane keep what they held. -/
def runElem (run c part : Nat) (i : Item) (p : Prog) (core : CoreSt) (b : BatchIn) (e : Nat) (a : Acc) : Lane × Acc :=
  let d := i.bytes
  let l := laneOf p.width core.vregs e
  let go := runLane run p.width (b.first + e) core.lut p.body ((b.first + e) * 64)
  if b.cnt ≤ e then ({ go { loadBcast d core.bcast l with flags := 0 } with flags := 0 }, a)
  else if !b.on.getD e true then (l, a)
  else
    let (l, a) := (streamsOf d).foldl (fun (l, a) t =>
      let o := opnd d t.x
      if o.bcast || a.stop.isSome then (l, a)
      else
        let (xs, a) := if t.x = 0 then readStreamA c part i (b.isA.getD e []) a else readComps c part i t.x (b.isO.getD e []) a
        (loadRegs o.format t.ltype xs t.reg l, a)) (l, a)
    (go (loadBcast d core.bcast l), a)

/-- Every lane of a batch. -/
def runBatch (run c part : Nat) (i : Item) (p : Prog) (core : CoreSt) (b : BatchIn) (a : Acc) : List Lane × Acc :=
  (List.range p.batch).foldl (fun (ls, a) e =>
    let (l, a) := runElem run c part i p core b e a
    (ls ++ [l], a)) ([], a)

/-- The start of a descriptor on a core (R123, R137): broadcast elements and the table are loaded, and the setup section runs on
every lane. The core's new contents, the flags raised, and the accesses. -/
def startCore (run c part : Nat) (i : Item) (core : CoreSt) (a : Acc) : CoreSt × Nat × Acc :=
  let d := i.bytes
  let p := progOf d (tget [] core.progs (dProg d))
  let zero := [0, 0, 0, 0, 0, 0]
  let (bc, a) := (bcastStreams d).foldl (fun (bs, a) t =>
    if a.stop.isSome then (bs, a)
    else
      let (xs, a) := readComps c part i t.x zero a
      (bs ++ xs.map (BitVec.ofNat 32), a)) ([], a)
  let x := opnd d 3
  let (lut, a) := if p.lut && !a.stop.isSome then coreRead c part false ((x.base : Int) + repTerm x 3 i.frames).toNat 1032 a else ([], a)
  let ls := (List.range p.batch).map fun e =>
    runLane run p.width 0 lut p.setup (2 ^ 60 + e * 64) { loadBcast d bc (laneOf p.width [] e) with flags := 0 }
  let fl := ls.foldl (fun g l => g ||| l.flags) 0
  ({ core with started := some i.uid, bcast := bc, lut := lut, vregs := if p.setup.isEmpty then [] else lanesBack p.width ls, preds := predsBack ls }, fl, a)

/-! ### Folds (R145) -/

/-- A key or payload component widened to FP32 or INT32. -/
def widen (t x : Nat) : W32 :=
  if isFloatType t then BitVec.ofNat 32 (p32 (laneVal t x)) else BitVec.ofInt 32 (laneInt t x)

/-- Key `a` is strictly better than `b`: greater for a maximum, smaller for a minimum. -/
def keyBetter (fl mx : Bool) (a b : W32) : Bool :=
  if fl then (if mx then flt (f32 b.toNat) (f32 a.toNat) else flt (f32 a.toNat) (f32 b.toNat))
  else (if mx then decide (b.toInt < a.toInt) else decide (a.toInt < b.toInt))

/-- The fold function takes a maximum: MAX, ARGMAX and TOPK. -/
def foldMax (fn : Nat) : Bool := fn == 2 || fn == 4 || fn == 6

/-- The key of a fold that no element won. -/
def emptyKey (fl : Bool) (fn : Nat) : W32 :=
  if fn = 1 then 0
  else if fl then BitVec.ofNat 32 (ffFP32.infPat (foldMax fn))
  else if foldMax fn then 0x80000000#32 else 0x7FFFFFFF#32

/-- What a fold has summed. -/
def Fold.sum (f : Fold) : FSum :=
  ⟨f.nan, f.posInf, f.negInf, ⟨f.posM, f.posE⟩, ⟨f.negM, f.negE⟩, f.sumQ⟩

/-- One more element: its index, key and payload. Invalid is raised when a floating sum of numbers comes to infinity minus infinity, and Overflow
when an integer sum wraps (R145, R148). DESIGN CHOICE (log 68): a REDUCE with FOLD 0 takes the minimum. -/
def Fold.add (fn : Nat) (fl : Bool) (f : Fold) (idx : Nat) (key : W32) (pay : List W32) : Fold × Nat :=
  let f := { f with took := f.took + 1 }
  if fn = 1 then
    if fl then
      let s := f.sum.add (f32 key.toNat)
      let made := !s.nan && s.posInf && s.negInf
      ({ f with nan := s.nan || made, posInf := s.posInf, negInf := s.negInf, posM := s.pos.m, posE := s.pos.e,
                negM := s.neg.m, negE := s.neg.e, sumQ := s.q }, flagIf flInvalid made)
    else
      let y := f.isum + key
      ({ f with isum := y }, flagIf flOverflow (y.toInt != f.isum.toInt + key.toInt))
  else if fl && (f32 key.toNat).isNaN then (f, 0)
  else
    match f.best with
    | none => ({ f with best := some (idx, key, pay) }, 0)
    | some (j, k, _) =>
      if keyBetter fl (foldMax fn) key k || (!keyBetter fl (foldMax fn) k key && decide (idx < j)) then
        ({ f with best := some (idx, key, pay) }, 0)
      else (f, 0)

/-- The combined value of a fold. -/
def Fold.result (run pl fn : Nat) (fl : Bool) (f : Fold) : W32 :=
  if fn = 1 then
    if fl then BitVec.ofNat 32 (p32 (boundedSum run pl (f.took + 1) (-24) f.took f.sum)) else f.isum
  else match f.best with
    | some (_, k, _) => k
    | none => emptyKey fl fn

/-- The index of the winner. -/
def Fold.winner (f : Fold) : Nat :=
  match f.best with
  | some (j, _, _) => j
  | none => 0xFFFFFFFF

/-- The 32 bytes of a fold record. -/
def Fold.record (run fn npay : Nat) (fl : Bool) (f : Fold) : List Byte :=
  let w := fun (x : W32) => leBytes 4 x.toNat
  let pay := match f.best with
    | some (_, _, p) => if 4 ≤ fn then p else []
    | none => []
  w (f.result run 0 fn fl) ++ leBytes 4 (if 4 ≤ fn then f.winner % 2 ^ 32 else f.took % 2 ^ 32) ++
    ((List.range 6).flatMap fun j => w (if j < npay then pay.getD j 0 else 0))

/-- The lane type that keys and payload are read in: that of the output, or of A without a program (R145, R151). -/
def keyType (d : Desc) : Nat := if dProgEn d then dLtypeOut d else dLtypeA d

/-- The key register: v0 without a program. -/
def keyReg (d : Desc) : Nat := if dProgEn d then dFoldKey d else 0

def laneKey (d : Desc) (l : Lane) : W32 := widen (keyType d) (l.get (keyReg d))
def lanePay (d : Desc) (l : Lane) : List W32 := (List.range (dFoldNpay d)).map fun k => widen (keyType d) (l.get k)

/-! ### Outputs of an ELEM batch (R141 to R144) -/

/-- The output components of an element written at an index vector; the flags of the stores. `clear`: the bits above the last component become
zero (R64). -/
def storeComps (c part : Nat) (i : Item) (is : List Nat) (clear : Bool) (vals : List FVal) (a : Acc) : Nat × Acc :=
  let o := opnd i.bytes 2
  (List.range vals.length).foldl (fun (g, a) k =>
    let (off, pos) := compPlace o.format (elemPos o is) k
    let (p, f) := storeVal o.format (vals.getD k FVal.zero)
    (g ||| f, writeElem c part false o.format (elemAddr o 2 i.frames is + off) pos (clear && k + 1 == vals.length) p a)) (0, a)

/-- The output components of a lane. -/
def laneOut (d : Desc) (l : Lane) : List FVal := (List.range (dNout d)).map fun k => laneVal (dLtypeOut d) (l.get k)

/-- FILL as a value of the output lane type (R144). -/
def fillOut (d : Desc) : List FVal :=
  let v := laneVal (dLtypeOut d) (dFill d % 2 ^ laneBits (typeWidth (dLtypeOut d)))
  List.replicate (dNout d) v

/-- What a batch does: its accesses, the registers and predicates it leaves, every flag it raised, the lowest element that raised a trapped
one, the fold and the count of kept or consumed elements, and what the row of a REDUCE has gathered. -/
structure BatchOut where
  a : Acc
  vregs : List W32
  preds : List Byte
  flags : Nat
  trap : Option Nat
  fold : Fold
  kept : Nat
  row : RowAcc := {}
deriving DecidableEq, Repr

/-- An element's flags join the batch's. -/
def BatchOut.flag (b : BatchOut) (d : Desc) (idx g : Nat) : BatchOut :=
  let hit := (g &&& dTrap d) != 0
  { b with
    flags := b.flags ||| g
    trap := if hit then some (match b.trap with
      | some t => min t idx
      | none => idx) else b.trap }

/-- The outputs of one element of an ELEM batch: its position's output, its mask bit and its part in the fold. DESIGN CHOICE (log 68): where the kept
count ends in the low half of a byte of an INT4 output, the high half is written as zero. -/
def elemOut (c part : Nat) (i : Item) (b : BatchIn) (e : Nat) (l : Lane) (o : BatchOut) : BatchOut :=
  let d := i.bytes
  let idx := b.first + e
  let is := b.isO.getD e []
  let on := b.on.getD e true
  let p1 := l.pred 1
  let om := dOutmode d
  let o := if on then o.flag d idx l.flags else o
  -- the element's output
  let o := match om with
    | 0 => let (g, a) := storeComps c part i is (rowEnd (opnd d 2) i.bounds is) (laneOut d l) o.a; { o with a := a }.flag d idx g
    | 1 =>
      if p1 then
        let (g, a) := storeComps c part i (unflatten i.bounds o.kept) true (laneOut d l) o.a
        { o with a := a }.flag d idx g
      else o
    | 2 =>
      if on then let (g, a) := storeComps c part i is true (laneOut d l) o.a; { o with a := a }.flag d idx g
      else { o with a := (storeComps c part i is true (fillOut d) o.a).2 }
    | _ => o
  let x := opnd d 3
  let o := if om = 1 && dAuxRole d = 2 then
      { o with a := writeElem c part false .bin1 (elemAddr x 3 i.frames is) (elemPos x is) true p1.toNat o.a }
    else o
  -- the fold
  let o := if dFold d ≠ 0 && on && (!dFoldP1 d || p1) then
      let n := if om = 1 && dFoldP1 d then o.kept else idx
      let (f, g) := o.fold.add (dFold d) (isFloatType (keyType d)) n (laneKey d l) (lanePay d l)
      { o with fold := f }.flag d idx g
    else o
  if om = 1 && p1 then { o with kept := o.kept + 1 } else o

/-- The mask bits of an EXPAND batch (R144). -/
def readMask (c part : Nat) (i : Item) (first cnt : Nat) (a : Acc) : List Bool × Acc :=
  let x := opnd i.bytes 3
  (List.range cnt).foldl (fun (bs, a) e =>
    let is := unflatten i.bounds (first + e)
    let (v, a) := readElem c part false .bin1 (elemAddr x 3 i.frames is) (elemPos x is) a
    (bs ++ [v != 0], a)) ([], a)

/-- The compact index of each position of an EXPAND batch. -/
def compactIdx : List Bool → Nat → List Nat
  | [], _ => []
  | b :: bs, k => k :: compactIdx bs (if b then k + 1 else k)

/-- One batch of an ELEM on a core: elements first to first + cnt − 1. -/
def elemBatch (run c part : Nat) (i : Item) (core : CoreSt) (r : Run) (first cnt : Nat) (a : Acc) : BatchOut :=
  let d := i.bytes
  let p := progOf d (tget [] core.progs (dProg d))
  let (on, a) := if dOutmode d = 2 then readMask c part i first cnt a else (List.replicate cnt true, a)
  let isO := (List.range cnt).map fun e => unflatten i.bounds (first + e)
  let isA := if dOutmode d = 2 then (compactIdx on r.kept).map (unflatten i.bounds) else isO
  let b : BatchIn := ⟨first, cnt, on, isA, isO⟩
  let (ls, a) := runBatch run c part i p core b a
  let kept := if dOutmode d = 2 then r.kept + (on.filter id).length else r.kept
  (List.range cnt).foldl (fun o e => if o.a.stop.isSome then o else elemOut c part i b e (ls.getD e ⟨[], [], 0⟩) o)
    { a := a, vregs := lanesBack p.width ls, preds := predsBack ls, flags := 0, trap := none, fold := r.fold, kept := kept }

/-! ### REDUCE (R151 to R153) -/

/-- The list of TOPK (R152): strictly greater than the last entry, or room. Entries are (index, key), best first. -/
def topkInsert (k : Nat) (fl : Bool) (pos : Nat) (key : W32) (es : List (Nat × W32)) : List (Nat × W32) :=
  if fl && (f32 key.toNat).isNaN then es
  else
    let ahead := es.takeWhile fun e => !keyBetter fl true key e.2
    (ahead ++ [(pos, key)] ++ es.drop ahead.length).take k

/-- A record of ARGMAX, ARGMIN or TOPK: index, then value (R151). -/
def rec8 (idx : Nat) (k : W32) : List Byte := leBytes 4 (idx % 2 ^ 32) ++ leBytes 4 k.toNat

/-- The results of one segment of a row, or of the whole row, as records or as one value of the output format; the flags of its store. -/
def reduceResult (run pl : Nat) (d : Desc) (els : List RowElem) (f : Fold) : List (List Byte) × Nat :=
  let fn := dFold d
  let fl := isFloatType (keyType d)
  if fn = 6 then
    let es := els.foldl (fun es x => topkInsert (dTopkK d) fl x.pos x.key es) []
    ((es ++ List.replicate (dTopkK d - es.length) (0xFFFFFFFF, emptyKey fl 6)).map fun (e : Nat × W32) => rec8 e.1 e.2, 0)
  else
    let v := f.result run pl fn fl
    if fn ≥ 4 then ([rec8 f.winner v], 0)
    else
      let o := (opnd d 2).format
      let (p, h) := storeVal o (if fl then f32 v.toNat else FVal.ofInt v.toInt)
      ([leBytes o.bytes p], h)

/-- Segment ids of a row: they must not decrease and must lie below S_MAX (R153). -/
def readSeg (c part : Nat) (i : Item) (is : List Nat) (last : Nat) (a : Acc) : Option Nat × Acc :=
  let x := opnd i.bytes 3
  let (bs, a) := coreRead c part false (elemAddr { x with fmt := 7 } 3 i.frames is).toNat 2 a
  let v := leNat bs
  if v = 0xFFFF ∨ a.stop.isSome then (none, a)
  else if dSMax i.bytes ≤ v ∨ v < last then (none, a.fail 0x13 v 0)
  else (some v, a)

/-- An element of a row enters its segment: its own flags, the check of its segment id, and its part in the fold (R145, R153). DESIGN CHOICE (log 68):
the flags of a position with id 0xFFFF are gathered like those of any other. -/
def rowElem (c part : Nat) (i : Item) (idx pos : Nat) (rest : List Nat) (l : Lane) (x : BatchOut) : BatchOut :=
  let d := i.bytes
  let o := x.flag d idx l.flags
  let (seg, a) := if dAuxRole d = 3 then readSeg c part i (pos :: rest) o.row.last o.a else (some 0, o.a)
  let o := { o with a := a }
  match seg with
  | none => o
  | some sg =>
    if dFoldP1 d && !l.pred 1 then { o with row := { o.row with last := sg } }
    else
      let key := laneKey d l
      let (f, g) := if dFold d = 6 then (({} : Fold), 0) else (tget {} o.row.folds sg).add (dFold d) (isFloatType (keyType d)) pos key []
      let row : RowAcc := { els := o.row.els ++ [⟨pos, sg, key⟩], folds := tset {} o.row.folds sg f, last := sg }
      { o with row := row }.flag d idx g

/-- Result `k` of a row is written at its slot of C: a record, or a value in C's format and packing (R168, R174). -/
def writeResult (c part : Nat) (i : Item) (slots k : Nat) (rest : List Nat) (bs : List Byte) (a : Acc) : Acc :=
  let o := opnd i.bytes 2
  let is := k :: rest
  if 4 ≤ dFold i.bytes then coreWrite c part false (elemAddr { o with fmt := 1 } 2 i.frames is).toNat bs a
  else writeElem c part false o.format (elemAddr o 2 i.frames is) (elemPos o is) (rowEnd o (i.bounds.set 0 slots) is) (leNat bs) a

/-- The results of a row that has ended are written at C's slots. An error of a store counts at the segment's first element. -/
def rowResults (run c part : Nat) (i : Item) (row : Nat) (b : BatchOut) : BatchOut :=
  let d := i.bytes
  let rest := unflatten (i.bounds.drop 1) row
  let segs := if dAuxRole d = 3 then dSMax d else 1
  let per := if dFold d = 6 then dTopkK d else 1
  (List.range segs).foldl (fun b sg =>
    let els := b.row.els.filter fun y => y.seg == sg
    let (rs, g) := reduceResult run (row * 65536 + sg) d els (tget {} b.row.folds sg)
    let b := b.flag d (row * bnd i.bounds 0 + (els.head?.map (·.pos)).getD 0) g
    (List.range rs.length).foldl (fun b k =>
      { b with a := writeResult c part i (segs * per) (sg * per + k) rest (rs.getD k []) b.a }) b) b

/-- One batch of a REDUCE row, from position `core.pos` on: the program on each element; after the last batch, unless it faulted or raised a trapped
flag (R150), the results of the row. -/
def reduceBatch (run c part : Nat) (i : Item) (core : CoreSt) (r : Run) (row : Nat) (a : Acc) : BatchOut :=
  let d := i.bytes
  let rest := unflatten (i.bounds.drop 1) row
  let n := bnd i.bounds 0
  let p := progOf d (tget [] core.progs (dProg d))
  let cnt := min p.batch (n - core.pos)
  let isO := (List.range cnt).map fun e => (core.pos + e) :: rest
  let (ls, a) := runBatch run c part i p core ⟨row * n + core.pos, cnt, [], isO, isO⟩ a
  let b := (List.range cnt).foldl
    (fun x e => rowElem c part i (row * n + core.pos + e) (core.pos + e) rest (ls.getD e ⟨[], [], 0⟩) x)
    { a := a, vregs := lanesBack p.width ls, preds := predsBack ls, flags := 0, trap := none, fold := r.fold, kept := r.kept, row := core.row }
  if b.a.stop.isSome || b.trap.isSome || decide (core.pos + cnt < n) then b else rowResults run c part i row b

/-! ### The program load (R124 to R127) -/

/-- The image of a program load: its header, then 4 · LEN bytes; nothing beyond a header that is out of range. -/
def readImage (c part : Nat) (i : Item) (a : Acc) : List Byte × Acc :=
  let o := opnd i.bytes 0
  let va := ((o.base : Int) + repTerm o 0 i.frames).toNat
  let (h, a) := coreRead c part false va 4 a
  let len := leAt h 1 1
  if a.stop.isSome ∨ 64 < len then (h, a)
  else
    let (t, a) := coreRead c part false (va + 4) (4 * len) a
    (h ++ t, a)

end Sys2Proof.Machine
end

