-- ==== Sys2Proof/Machine/Exec.lean ====
section
/-!
DEFINITION. Units on the cores (R101, R108, R137, R150, R194 to R196): grants of a core's own range, steals, the drain of a bank,
a batch of the element engine, and the widened re-run (R88, R89).
-/
namespace Sys2Proof.Machine

/-! ### The descriptor in EXEC -/

/-- The descriptor in EXEC on a partition. -/
structure Running where
  part : Nat
  run : Run
  item : Item
deriving DecidableEq, Repr

/-- The run of a partition with its item. -/
def State.running? (s : State) (p : Nat) : Option Running :=
  match (s.win p).exec with
  | none => none
  | some r => (s.item r.q.toNat r.uid).map fun i => ⟨p, r, i⟩

/-- The run that a core takes part in. -/
def State.coreRun (s : State) (c : Nat) : Option Running :=
  match s.partOfCore c with
  | none => none
  | some p => s.running? p

def State.modRun (s : State) (p : Nat) (f : Run → Run) : State := s.modWin p fun w => { w with exec := w.exec.map f }

/-- The descriptor stops with an error, unless one was found before (R204): no further unit is granted. -/
def stopRun (x : Running) (st : Stop) (s : State) : State :=
  (s.modItem x.run.q.toNat x.run.uid fun i =>
    if 0x10 ≤ i.status.toNat then i
    else { i with status := st.status, info := BitVec.ofNat 48 st.info, detail := BitVec.ofNat 8 st.detail }).modRun x.part
      fun r => { r with stopped := true }

/-- An engine of flags: descriptor and core gather them (R149). -/
def noteFlags (p c g : Nat) (s : State) : State :=
  let s := s.modRun p fun r => { r with flags := r.flags ||| BitVec.ofNat 5 g }
  let k := Reg.hearthEflag c
  s.setFld k 4 0 (s.fld k 4 0 ||| g)

/-! ### Grants (R195) -/

/-- The descriptor has one unit that runs on the lowest-numbered core (R140, R194). -/
def oneCore (d : Desc) : Bool := dIsPload d || (dOp d == .elem && (dOutmode d == 1 || dOutmode d == 2))

/-- The last element of an ELEM unit, plus one. -/
def unitEnd (d : Desc) (bs : List Nat) (u : Nat) : Nat :=
  if dOutmode d = 0 ∨ dOutmode d = 3 then min (prodBounds bs) (4096 * u + 4096) else prodBounds bs

/-- The core's element engine has come to the last batch or row of its unit. -/
def lastBatch (s : State) (c : Nat) (i : Item) : Bool :=
  let k := s.core c
  match k.unit with
  | none => true
  | some u =>
    let n := (progOf i.bytes (tget [] k.progs (dProg i.bytes))).batch
    if dOp i.bytes = .reduce then decide (bnd i.bounds 0 ≤ k.pos + n) else decide (unitEnd i.bytes i.bounds u ≤ 4096 * u + k.pos + n)

/-- A bank whose drain has finished (R101). -/
def CoreSt.freeBank (k : CoreSt) : Bool := k.bank0.isNone || k.bank1.isNone

/-- The core still has N-tiles of an argument reduction to accumulate (R107). -/
def tilesLeft (k : CoreSt) (i : Item) (wide : Bool) : Bool :=
  match k.arg with
  | some x => x.uid == i.uid && decide (x.next < unitTiles i.bytes i.bounds wide)
  | none => false

/-- A core may ask for a unit: a free bank and no tile of its unit left (R101), or the engine's last batch (R195). -/
def wantsUnit (s : State) (c : Nat) (i : Item) : Bool :=
  let k := s.core c
  if (dOp i.bytes).isArray then k.freeBank && !tilesLeft k i false
  else if (dOp i.bytes).isElem && !dIsPload i.bytes then k.unit.isNone || (k.ahead.isNone && lastBatch s c i)
  else true

/-- The program slot of every core of a partition, and its bits of HEARTH_EPSTAT (R124). -/
def fillSlot (p slot : Nat) (img : List Byte) (s : State) : State :=
  (s.coreList p).foldl (fun s c =>
    let s := s.modCore c fun k => { k with progs := tset [] k.progs slot img }
    let k := Reg.hearthEpstat c
    (s.setBit k slot (!img.isEmpty)).setFld k (17 + 2 * slot) (16 + 2 * slot) (progWidth img)) s

/-- Flags that a tile's accumulators raise (R70, R76). -/
def cellFlags (cells : List Accu) : Nat := flagIf flInvalid (cells.any (·.inv)) ||| flagIf flOverflow (cells.any (·.sat))

/-- The tile takes a free bank. DESIGN CHOICE (log 67): bank 0 when both are free. -/
def CoreSt.fill (k : CoreSt) (b : Bank) : CoreSt :=
  if k.bank0.isNone then { k with bank0 := some b, lastBank1 := false } else { k with bank1 := some b, lastBank1 := true }

/-- The sectors that Bellows has read for a core already. -/
def slotsSeen (slots : List Nat) : Tab Bool := slots.foldl (fun t pa => (List.range 8).foldl (fun t k => tset false t (pa + 32 * k) true) t) []

/-- N-tile `t` of a unit accumulates into a free bank over all of K, and its stationary sets pass through the cells (R101 to R103); poison or a
fault stops the descriptor and the tile is discarded (R108). DESIGN CHOICE (log 58): the stationary registers then hold what they held before the tile. -/
def accumTile (c u t : Nat) (x : Running) (s : State) : State :=
  let (run, s) := s.fresh
  let ar := tileArea x.item.bytes x.item.bounds x.run.widened u t
  let (cells, a) := tileCells c x.part run x.run.widened x.item ar { s := s, seen := slotsSeen (s.core c).slots }
  match a.stop with
  | some st => stopRun x st a.s
  | none =>
    let s := a.s.modRun x.part fun r => { r with flags := r.flags ||| BitVec.ofNat 5 (cellFlags cells) }
    s.modCore c fun k =>
      let sets := swapSets c x.part run x.run.widened x.item ar a k.primary k.shadow
      let k := { k with slots := [], primary := sets.1, shadow := sets.2, arg := if dArg x.item.bytes = 0 then k.arg else some ⟨x.run.uid, u, t + 1⟩ }
      k.fill ⟨x.run.uid, u, t, cells⟩

/-- A unit of an array descriptor is granted: each of its N-tiles will drain, and the first accumulates. -/
def grantTile (c u : Nat) (x : Running) (s : State) : State :=
  accumTile c u 0 x (s.modRun x.part fun r => { r with out := r.out + unitTiles x.item.bytes x.item.bounds x.run.widened })

/-- The next N-tile of the unit that the core works on. -/
def nextTile (c : Nat) (x : Running) (s : State) : State :=
  match (s.core c).arg with
  | some g => accumTile c g.unit g.next x s
  | none => s

/-- A unit of GATHER or SCATTER is copied: its writes arrive by the end of the descriptor, and when that is stopped those that were issued do (R108). -/
def grantRows (c u : Nat) (x : Running) (s : State) : State :=
  let a := gatherUnit s c x.part x.item u
  let s := a.s.modRun x.part fun r => { r with held := r.held ++ [(c, a.out)] }
  match a.stop with
  | none => s
  | some st => stopRun x st s

/-- A program load: a valid image fills the slot, an invalid one leaves it empty (R126). -/
def grantLoad (c : Nat) (x : Running) (s : State) : State :=
  let (img, a) := readImage c x.part x.item { s := s }
  match a.stop with
  | some st => stopRun x st a.s
  | none =>
    if progOk img then fillSlot x.part (dProg x.item.bytes) img a.s
    else stopRun x ⟨0x12, 0xFFFF, 0⟩ (fillSlot x.part (dProg x.item.bytes) [] a.s)

/-- A unit is granted to a core. -/
def grantUnit (c u : Nat) (x : Running) (s : State) : State :=
  let s := s.modRun x.part fun r => { r with dry := r.dry.filter fun e => e.1 / 4 != c }
  let d := x.item.bytes
  if (dOp d).isArray then grantTile c u x s
  else if dIsPload d then grantLoad c x s
  else if (dOp d).isElem then
    let s := s.modRun x.part fun r => { r with out := r.out + 1 }
    s.modCore c fun k => if k.unit.isNone then { k with unit := some u, pos := 0 } else { k with ahead := some u }
  else grantRows c u x s

/-- Grants are open: the descriptor has not stopped and the Damper holds no grants (R416). -/
def grantsOpen (s : State) (x : Running) : Bool := !x.run.stopped && !s.grantHold

/-- The range of a core. -/
def Run.range (r : Run) (c : Nat) : Nat × Nat := tget (0, 0) r.ranges c

/-- A range replaced; an empty one leaves the list. -/
def Run.setRange (r : Run) (c lo hi : Nat) : Run :=
  { r with ranges := if lo < hi then tput r.ranges c (lo, hi) else terase r.ranges c }

/-- AHEAD_REQUEST: the lowest index of the core's own range; a core with N-tiles of its unit left takes up the next of them (R107). -/
def aheadRequest (c : Nat) (s : State) : State :=
  let s := match s.partOfCore c with
    | some p => promote p s
    | none => s
  match s.coreRun c with
  | none => s
  | some x =>
    let (lo, hi) := x.run.range c
    if tilesLeft (s.core c) x.item x.run.widened then (if (s.core c).freeBank && !x.run.stopped then nextTile c x s else s)
    else if grantsOpen s x && decide (lo < hi) && wantsUnit s c x.item then
      grantUnit c lo x (s.modRun x.part fun r => r.setRange c (lo + 1) hi)
    else s

/-! ### The prefetch for NEXT (R41, R198) -/

/-- Bellows reads 256 bytes for a core: the page is translated, and the sectors are counted and held in a read slot. It stops at a page or at bytes
that the descriptor itself will have to report. -/
def slotRead (c p : Nat) (st : State × List Nat × Bool) (va : Nat) : State × List Nat × Bool :=
  let (s, held, go) := st
  if !go then st
  else
    let (s, w) := translate s c p va
    match w with
    | .leaf e =>
      let pa := e.pa + (va - e.va)
      if (accessKind s p pa false e.w false).isSome || decide (s.usable < pa + 256) || (s.poisonIn pa 256).isSome || (s.lostIn false pa 256).isSome then
        (s, held, false)
      else ((countSectors c 10 pa 256 { s := s }).s, held ++ [pa], true)
    | _ => (s, held, false)

/-- Bellows prefetches the first stationary set of the first unit of a core for the NEXT descriptor of its partition, once, and only after the
descriptor has issued (R198). DESIGN CHOICE (log 69): of what NEXT may have read ahead, the model reads this much of operand B, as far as it lies in
GDDR6. -/
def prefetchCore (p : Nat) (i : Item) (ranges : Tab (Nat × Nat)) (s : State) (c : Nat) : State :=
  match tfind ranges c with
  | some (u, _) =>
    if (s.core c).slots.isEmpty then
      let vas := (setLines i (tileArea i.bytes i.bounds false u 0)).filter fun va => !isLocal va
      let (s, held, _) := vas.foldl (slotRead c p) (s, [], true)
      s.modCore c fun k => { k with slots := held }
    else s
  | none => s

/-- Bellows works for the NEXT descriptor of a partition while another one is in EXEC. -/
def prefetchNext (s : State) (p : Nat) : State :=
  let w := s.win p
  match w.exec, w.next with
  | some _, some (q, uid) =>
    (match s.item q.toNat uid with
      | some i =>
        if (dOp i.bytes).isArray then
          let n := unitCount i.bytes i.bounds false
          let ranges := runRanges s p n
          (s.coreList p).foldl (prefetchCore p i ranges) s
        else s
      | none => s)
  | _, _ => s

/-! ### Steals (R195, R196) -/

/-- The core of a Hearth with the largest range; on equal lengths the lowest-numbered one. -/
def richest (r : Run) (h c : Nat) : Option Nat :=
  (span (4 * h) (4 * h + 4)).foldl (fun best v =>
    let len := fun k => (r.range k).2 - (r.range k).1
    if v = c ∨ len v = 0 then best
    else match best with
      | none => some v
      | some b => if len b < len v then some v else best) none

/-- The thief takes the upper ceil(r / 2) units of a victim's range and is granted the first of them. -/
def stealFrom (c v : Nat) (x : Running) (s : State) : State :=
  let (lo, hi) := x.run.range v
  let k := cdiv (hi - lo) 2
  grantUnit c (hi - k) x (s.modRun x.part fun r => (r.setRange v lo (hi - k)).setRange c (hi - k + 1) hi)

/-- A core that may steal: its own range is empty and it has not come out dry. -/
def mayThieve (s : State) (c : Nat) (x : Running) : Bool :=
  grantsOpen s x && !oneCore x.item.bytes && dOp x.item.bytes != .attn && wantsUnit s c x.item &&
    (x.run.range c).1 == (x.run.range c).2

/-- LOCAL_STEAL: a range of the core's own Hearth, or the answer "none". -/
def localSteal (c : Nat) (s : State) : State :=
  match s.coreRun c with
  | none => s
  | some x =>
    let key := 4 * c + c / 4
    if mayThieve s c x && !tget false x.run.dry key then
      match richest x.run (c / 4) c with
      | some v => stealFrom c v x s
      | none => s.modRun x.part fun r => { r with dry := tset false r.dry key true }
    else s

/-- Hops along the Flue from Hearth a to Hearth b over working links. -/
def flueHops (s : State) (a b : Nat) : Option Nat :=
  let up := (b + 4 - a) % 4
  let upOk := (List.range up).all fun k => flueUp s ((a + k) % 4)
  let downOk := (List.range (4 - up)).all fun k => flueUp s ((b + k) % 4)
  if a = b then some 0
  else if upOk && downOk then some (min up (4 - up)) else if upOk then some up else if downOk then some (4 - up) else none

/-- Hearth h is the next one a thief on Hearth a asks: every nearer one, and every lower-numbered one at the same distance, has
answered "none". -/
def nextAsked (s : State) (c h : Nat) (x : Running) : Bool :=
  let a := c / 4
  match flueHops s a h with
  | none => false
  | some n =>
    (partHearths s x.part).contains h && h != a && tget false x.run.dry (4 * c + a) && !tget false x.run.dry (4 * c + h) &&
      (partHearths s x.part).all fun g =>
        g == a || g == h || (match flueHops s a g with
          | none => true
          | some m => decide (n < m) || (n == m && decide (h < g)) || tget false x.run.dry (4 * c + g))

/-- REMOTE_STEAL: the dispatcher of another Hearth applies the local-steal rule, or answers "none". -/
def remoteSteal (c h : Nat) (s : State) : State :=
  match s.coreRun c with
  | none => s
  | some x =>
    if mayThieve s c x && nextAsked s c h x then
      match richest x.run h c with
      | some v => stealFrom c v x s
      | none => s.modRun x.part fun r => { r with dry := tset false r.dry (4 * c + h) true }
    else s

/-! ### The drain of a bank (R101, R104, R108) -/

/-- The rescale slot that a core captured at issue. -/
def coreSlot (s : State) (c : Nat) (x : Running) : W64 :=
  x.item.rtab.getD ((s.coreList x.part).findIdx (· == c)) 0

/-- The bank's descriptor is the one in EXEC, and no bank was filled before it. -/
def drainable (k : CoreSt) (second : Bool) (uid : Nat) : Option Bank :=
  let b := if second then k.bank1 else k.bank0
  let other := if second then k.bank0 else k.bank1
  match b with
  | none => none
  | some x => if x.uid == uid && (other.isNone || k.lastBank1 != second) then some x else none

/-- A bank has drained: it is free, and after the last N-tile the core is done with the unit. -/
def CoreSt.drained (k : CoreSt) (second : Bool) (unit : Nat) (last : Bool) (recs : List (Nat × W32)) : CoreSt :=
  { k with
    bank0 := if second then k.bank0 else none
    bank1 := if second then none else k.bank1
    recs := recs
    arg := match k.arg with
      | some g => if last && g.unit == unit then none else some g
      | none => none }

/-- TILE_DRAIN: the outputs of the bank are written. -/
def tileDrain (c : Nat) (second : Bool) (s : State) : State :=
  match s.coreRun c with
  | none => s
  | some x =>
    match drainable (s.core c) second x.run.uid with
    | none => s
    | some b =>
      let (recs, w) := drainUnit s c x.part x.item (coreSlot s c x) x.run.widened b (s.core c).recs
      let s := w.a.land c
      let s := s.modCore c fun k => k.drained second b.unit (decide (b.tile + 1 = unitTiles x.item.bytes x.item.bounds x.run.widened)) recs
      match w.a.stop with
      | some st => stopRun x st (s.modRun x.part fun r => { r with out := r.out - 1 })
      | none => s.modRun x.part fun r => { r with out := r.out - 1, sat := r.sat + w.sats, outputs := r.outputs + w.outputs }

/-! ### A batch (R137, R150) -/

/-- The core's engine goes on to the unit granted ahead; after a stop it holds none. -/
def nextUnit (s : State) (c p : Nat) : State :=
  let stopped := match (s.win p).exec with
    | some r => r.stopped
    | none => true
  let s := s.modRun p fun r => { r with out := r.out - 1 }
  s.modCore c fun k => { k with unit := if stopped then none else k.ahead, ahead := none, pos := 0, row := {} }

/-- A trapped flag: the descriptor stops with FLAG_TRAP and the lowest element index (R150). -/
def trapRun (x : Running) (idx : Nat) (s : State) : State :=
  let s := s.modRun x.part fun r => { r with trapAt := some (match r.trapAt with
    | some t => min t idx
    | none => idx) }
  let s := stopRun x ⟨0x15, idx, 0⟩ s
  let low := match (s.win x.part).exec with
    | some r => r.trapAt.getD idx
    | none => idx
  s.modItem x.run.q.toNat x.run.uid fun i => if i.status = 0x15 then { i with info := BitVec.ofNat 48 low } else i

/-- The setup on a core, once per descriptor: whether the batch goes on. -/
def ensureStarted (c run : Nat) (x : Running) (s : State) : State × Bool :=
  let k := s.core c
  if k.started = some x.run.uid then (s, true)
  else
    let (k, g, a) := startCore run c x.part x.item k { s := s }
    let s := a.s.modCore c fun _ => k
    match a.stop with
    | some st => (nextUnit (stopRun x st s) c x.part, false)
    | none =>
      let s := noteFlags x.part c g s
      if g &&& dTrap x.item.bytes = 0 then (s, true) else (nextUnit (trapRun x 0xFFFFFFFF s) c x.part, false)

/-- The end of a batch: its writes arrive, or none of them when it faulted or raised a trapped flag; the core then stops (R150). -/
def finishBatch (c : Nat) (x : Running) (b : BatchOut) (whole : Bool) (cnt : Nat) : State :=
  match b.a.stop with
  | some st => nextUnit (stopRun x st b.a.s) c x.part
  | none =>
    match b.trap with
    | some t => nextUnit (trapRun x t (noteFlags x.part c b.flags b.a.s)) c x.part
    | none =>
      let s := noteFlags x.part c b.flags (b.a.land c)
      let s := s.modCore c fun k => { k with vregs := b.vregs, preds := b.preds, pos := k.pos + cnt, row := b.row }
      let s := s.modRun x.part fun r => { r with fold := b.fold, kept := b.kept }
      if whole || x.run.stopped then nextUnit s c x.part else s

/-- ELEM_BATCH: the next batch of the core's unit, a range of elements or a row. -/
def elemStep (c : Nat) (s : State) : State :=
  match s.coreRun c with
  | none => s
  | some x =>
    match (s.core c).unit with
    | none => s
    | some u =>
      let (run, s) := s.fresh
      let (s, go) := ensureStarted c run x s
      if !go then s
      else
        let i := x.item
        let d := i.bytes
        let k := s.core c
        let p := progOf d (tget [] k.progs (dProg d))
        if dOp d = .reduce then
          let n := bnd i.bounds 0
          let cnt := min p.batch (n - k.pos)
          finishBatch c x (reduceBatch run c x.part i k x.run u { s := s }) (decide (n ≤ k.pos + cnt)) cnt
        else
          let first := (if dOutmode d = 0 ∨ dOutmode d = 3 then 4096 * u else 0) + k.pos
          let fin := unitEnd d i.bounds u
          let cnt := min p.batch (fin - first)
          finishBatch c x (elemBatch run c x.part i k x.run first cnt { s := s }) (decide (fin ≤ first + cnt)) cnt

/-! ### The widened re-run (R86, R88, R89) -/

/-- The descriptor has a saturation event (R86). -/
def satEvent (d : Desc) (r : Run) : Bool := decide (dSatT d * r.outputs < r.sat * 65536)

/-- Operand A lies wholly in regions that the read mask names and the write mask does not; a descriptor that reads no element of
A meets the condition (R88). -/
def aProtected (i : Item) : Bool :=
  (extents i.bytes i.bounds i.frames none).all fun e =>
    e.x != 0 ||
      (isLocal e.lo.toNat && isLocal e.hi.toNat &&
        (let m := regionMask (e.lo.toNat % 2 ^ 40) (e.hi.toNat % 2 ^ 40)
         (m &&& dSbRd i.bytes) == m && (m &&& dSbWr i.bytes) == 0))

/-- Output formats that a widened re-run serves. -/
def narrowOut (f : Fmt) : Bool := f == .int8 || f == .uint8 || f == .e4m3 || f == .e5m2

/-- A widened re-run is due: the first run has ended with a saturation event and every condition of R88 holds. -/
def widenDue (x : Running) : Bool :=
  let d := x.item.bytes
  !x.run.stopped && !x.run.widened && x.run.ranges.isEmpty && x.run.out == 0 && (dOp d).isArray && dWiden d && satEvent d x.run &&
    narrowOut (opnd d 2).format && dArg d == 0 && dMode d != 7 && aProtected x.item

/-- WIDEN_RERUN: the descriptor's units start again in widened form, with the counts at zero. -/
def widenRerun (p : Nat) (s : State) : State :=
  match s.running? p with
  | none => s
  | some x =>
    if widenDue x then
      let n := unitCount x.item.bytes x.item.bounds true
      s.modRun p fun r => { q := r.q, uid := r.uid, units := n, ranges := runRanges s p n, widened := true, flags := r.flags }
    else s

end Sys2Proof.Machine
end

