-- ==== Sys2Proof/Machine/Attn.lean ====
section
/-!
DEFINITION. The attention ring (R211 to R228): passes of query tiles, blocks of keys and values on their two rotations or on the
line, the online softmax of each row, and the merge that writes the output.
-/
namespace Sys2Proof.Machine

/-! ### Passes and tiles (R215) -/

/-- Query rows that a core holds. -/
def qCore (d : Nat) : Nat := 1024 / max 1 (cdiv d 64)

/-- Cores of a partition on a Hearth, ascending. -/
def hearthCores (s : State) (p h : Nat) : List Nat := (s.coreList p).filter fun c => c / 4 == h

/-- Tiles of a pass at most. -/
def passTiles (s : State) (p : Nat) (bs : List Nat) : Nat :=
  4 * (List.range 4).foldl (fun m h => min m (hearthCores s p h).length) 16 * (qCore (bnd bs 0) / 128)

/-- Tiles of the pass that is running. -/
def tilesNow (s : State) (a : AttnRun) (bs : List Nat) : Nat := min (passTiles s a.part bs) (attnTiles bs - a.tile0)

/-- The tiles of the pass that a core owns: tile t belongs to Hearth t mod 4, whose cores take contiguous ranges. -/
def tilesOfCore (s : State) (a : AttnRun) (bs : List Nat) (c : Nat) : List Nat :=
  let h := c / 4
  let cs := hearthCores s a.part h
  let n := (tilesNow s a bs + 3 - h) / 4
  let r := tget (0, 0) (splitRanges n (max 1 cs.length) cs 0) c
  (span r.1 r.2).map fun j => 4 * j + h

/-- The query rows of a tile of the pass. -/
def tileQRows (a : AttnRun) (bs : List Nat) (t : Nat) : List Nat :=
  span ((a.tile0 + t) * 128) (min (bnd bs 1) ((a.tile0 + t) * 128 + 128))

/-- The query rows of a core. -/
def rowsOfCore (s : State) (a : AttnRun) (bs : List Nat) (c : Nat) : List Nat := (tilesOfCore s a bs c).flatMap (tileQRows a bs)

/-- Blocks of a problem. -/
def attnBlocks (bs : List Nat) : Nat := cdiv (bnd bs 2) 256

/-- The index vector of component j, query row i and position t of the problem in hand. -/
def attnIdx (a : AttnRun) (bs : List Nat) (j i t : Nat) : List Nat := [j, i, t] ++ batchIdx bs a.prob

/-- The value tensor as an operand (R175). -/
def valueOpnd (d : Desc) : Opnd := { opnd d 1 with base := dVBase d, strides := dVStrides d }

/-! ### The way of a block (R216, R217, R226) -/

/-- The rotation of a block: odd rounds run counter-clockwise; line mode has one. -/
def blockCcw (line : Bool) (b : Nat) : Bool := !line && b / 4 % 2 == 1

/-- The block that a home reads as its k-th on a rotation. -/
def kthBlock (line ccw : Bool) (h k : Nat) : Nat := if line then 4 * k + h else 4 * (2 * k + ccw.toNat) + h

/-- Block spaces that a rotation has in a Hearth. -/
def blockSpaces (line : Bool) : Nat := if line then 4 else 2

/-- Blocks of a rotation that stand in a Hearth. -/
def heldIn (a : AttnRun) (h : Nat) (ccw : Bool) : Nat := (a.held.filter fun x => x.hearth == h && x.ccw == ccw).length

def hasSpace (a : AttnRun) (h : Nat) (ccw : Bool) : Bool := decide (heldIn a h ccw < blockSpaces a.line)

/-- The place of a Hearth on the line that a failed link leaves. -/
def linePos (s : State) (h : Nat) : Nat :=
  let f := ((List.range 4).find? fun n => !flueUp s n).getD 3
  (h + 3 - f) % 4

/-- A held block has still to go to the Hearth after it: on the ring along its rotation, on the line upward. -/
def goesOn (s : State) (a : AttnRun) (x : Held) : Bool :=
  let home := x.block % 4
  if a.line then !x.sent && decide (linePos s home ≤ linePos s x.hearth) && linePos s x.hearth != 3
  else !x.sent && (x.hearth + (if x.ccw then 3 else 1)) % 4 != home

/-- On the line, a held block has still to go downward. -/
def goesBack (s : State) (a : AttnRun) (x : Held) : Bool :=
  a.line && !x.sentBack && decide (linePos s x.hearth ≤ linePos s (x.block % 4)) && linePos s x.hearth != 0

/-- The Hearth that a block goes to next. -/
def nextHearth (s : State) (a : AttnRun) (x : Held) (back : Bool) : Nat :=
  if a.line then
    let want := if back then linePos s x.hearth - 1 else linePos s x.hearth + 1
    ((List.range 4).find? fun h => linePos s h == want).getD x.hearth
  else (x.hearth + (if x.ccw then 3 else 1)) % 4

/-- Every core of the Hearth with tiles has processed the block, and it has gone on: it leaves. -/
def blockDone (s : State) (a : AttnRun) (bs : List Nat) (x : Held) : Bool :=
  (hearthCores s a.part x.hearth).all (fun c => (tilesOfCore s a bs c).isEmpty || x.done.contains c) &&
    !goesOn s a x && !goesBack s a x

def sweepBlocks (s : State) (a : AttnRun) (bs : List Nat) : AttnRun := { a with held := a.held.filter fun x => !blockDone s a bs x }

/-- A count of the run raised by one. -/
def bumpTab (t : Tab Nat) (k : Nat) : Tab Nat := tmod 0 t k (· + 1)

/-! ### The running ATTN -/

/-- The ATTN in execution with its window entry; none once it has stopped or every problem has ended. -/
def State.attnNow (s : State) : Option (AttnRun × Running) :=
  match s.attn with
  | none => none
  | some a =>
    match s.running? a.part with
    | none => none
    | some x =>
      if x.run.uid = a.uid && !x.run.stopped && x.run.units != 0 && decide (a.prob < attnProbs x.item.bounds) then some (a, x) else none

/-- Every problem has ended, or there is none (R212). -/
def attnDone (s : State) (x : Running) : Bool :=
  match s.attn with
  | none => true
  | some a => a.uid != x.run.uid || x.run.units == 0 || decide (attnProbs x.item.bounds ≤ a.prob)

/-- A list of elements of an operand. -/
def readList (c part : Nat) (o : Opnd) (frames : List Frame) (is : List (List Nat)) (a : Acc) : List W32 × Acc :=
  is.foldl (fun (xs, a) i =>
    if a.stop.isSome then (xs, a)
    else
      let (v, a) := readElem c part false o.format (elemAddr o 1 frames i) 0 a
      (xs ++ [BitVec.ofNat 32 v], a)) ([], a)

/-- Segment ids of positions (R174, R219). -/
def readSegs (c part : Nat) (i : Item) (ar : AttnRun) (ts : List Nat) (a : Acc) : List (BitVec 16) × Acc :=
  if 2 ≤ dMask i.bytes then
    ts.foldl (fun (xs, a) t =>
      if a.stop.isSome then (xs, a)
      else
        let o := { opnd i.bytes 3 with fmt := 7 }
        let (bs, a) := coreRead c part false (elemAddr o 3 i.frames (attnIdx ar i.bounds 0 0 t)).toNat 2 a
        (xs ++ [BitVec.ofNat 16 (leNat bs)], a)) ([], a)
  else ([], a)

/-- Bytes of a block: its keys and its values (R218). -/
def blockBytes (fb : Fmt) (x : Held) : Nat := (x.keys.length + x.vals.length) * fb.bytes

/-- The next pass when every tile of this one has merged (R215). -/
def nextPass (s : State) (a : AttnRun) (bs : List Nat) : AttnRun :=
  let n := tilesNow s a bs
  if a.merged.length < n then a
  else
    let line := s.fabric.flueFailed != 0
    if a.tile0 + n < attnTiles bs then attnPass a a.prob (a.tile0 + n) line else attnPass a (a.prob + 1) 0 line

/-- A pass that has merged gives way to the next one, whose query tiles are handed out unless a grant hold is in force (R215, R416). -/
def openPass (s : State) : State :=
  match s.attnNow with
  | none => s
  | some (a, x) =>
    let b := nextPass s a x.item.bounds
    if s.grantHold && decide (b.prob < attnProbs x.item.bounds) then s else { s with attn := some b }

/-- The keys, values and segment ids of block `b` of the problem in hand. -/
def readBlock (c : Nat) (i : Item) (a : AttnRun) (b : Nat) (acc : Acc) : (List W32 × List W32 × List (BitVec 16)) × Acc :=
  let ts := span (256 * b) (min (bnd i.bounds 2) (256 * b + 256))
  let at' := ts.flatMap fun t => (List.range (bnd i.bounds 0)).map fun j => attnIdx a i.bounds j 0 t
  let (ks, acc) := readList c a.part (opnd i.bytes 1) i.frames at' acc
  let (vs, acc) := readList c a.part (valueOpnd i.bytes) i.frames at' acc
  let (sg, acc) := readSegs c a.part i a ts acc
  ((ks, vs, sg), acc)

/-- ATTN_BLOCK_READ: the home Hearth reads its next block, of the lower number when both rotations have space and turn. -/
def attnBlockRead (h : Nat) (s : State) : State :=
  let s := openPass s
  match s.attnNow with
  | none => s
  | some (a, x) =>
    let i := x.item
    let bs := i.bounds
    let ready := fun (ccw : Bool) =>
      let k := tget 0 a.read (2 * h + ccw.toNat)
      let b := kthBlock a.line ccw h k
      -- R216: a rotation takes its rounds in ascending order
      if decide (b < attnBlocks bs) && hasSpace a h ccw && decide (4 * k ≤ tget 0 a.got (2 * h + ccw.toNat)) then some b else none
    let pick := match ready false, (if a.line then none else ready true) with
      | some b, some b' => some (min b b')
      | some b, none => some b
      | none, r => r
    match pick, hearthCores s a.part h with
    | some b, c :: _ =>
      let (r, acc) := readBlock c i a b { s := s }
      let s := acc.s
      (match acc.stop with
        | some st => stopRun x st { s with attn := some { a with held := [] } }
        | none =>
          let ccw := blockCcw a.line b
          let key := 2 * h + ccw.toNat
          let x' : Held := ⟨h, b, ccw, r.1, r.2.1, r.2.2, [], false, false⟩
          let s := bump s (33 + 2 * h) (blockBytes (opnd i.bytes 1).format x')
          let a := { a with read := bumpTab a.read key, got := bumpTab a.got key, held := a.held ++ [x'] }
          { s with attn := some (sweepBlocks s a bs) })
    | _, _ => s

/-- Blocks that a Hearth of the ring processes on a rotation before block `b`: every one of the earlier rounds, and those of the earlier steps of b's
round that exist (R216). -/
def stepsBefore (h b blocks : Nat) : Nat :=
  let r := b / 4
  let ccw := r % 2 == 1
  let home := fun (k : Nat) => if ccw then (h + k) % 4 else (h + 4 - k) % 4
  let step := if ccw then (b + 4 - h % 4) % 4 else (h + 4 - b % 4) % 4
  4 * (r / 2) + ((List.range step).filter fun k => decide (4 * r + home k < blocks)).length

/-- A Hearth is ready for a block: on the ring it takes the blocks of a rotation in the order of the steps (R216). -/
def stepReady (a : AttnRun) (blocks h : Nat) (x : Held) : Bool :=
  a.line || tget 0 a.got (2 * h + x.ccw.toNat) == stepsBefore h x.block blocks

/-- The block that comes into a Hearth next: its holder, and whether it goes downward on the line. -/
def arrival (s : State) (a : AttnRun) (blocks h : Nat) : Option (Held × Bool) :=
  match a.held.find? fun x => goesOn s a x && nextHearth s a x false == h && hasSpace a h x.ccw && stepReady a blocks h x with
  | some x => some (x, false)
  | none => (a.held.find? fun x => goesBack s a x && nextHearth s a x true == h && hasSpace a h x.ccw).map fun x => (x, true)

/-- A block passes from one Hearth's buffer to another's over the Flue (R217, R460). -/
def countBlock (s : State) (src dst n : Nat) : State := bump (flueBytes (bump s (32 + 2 * src) n) src dst n) (33 + 2 * dst) n

/-- ATTN_BLOCK_ARRIVE: a whole block has come to Hearth h. -/
def attnBlockArrive (h : Nat) (s : State) : State :=
  match s.attnNow with
  | none => s
  | some (a, x) =>
    match arrival s a (attnBlocks x.item.bounds) h with
    | none => s
    | some (b, back) =>
      let held := a.held.map fun y => if y == b then (if back then { y with sentBack := true } else { y with sent := true }) else y
      let n : Held := { b with hearth := h, done := [], sent := false, sentBack := false }
      let a := { a with held := held ++ [n], got := bumpTab a.got (2 * h + b.ccw.toNat) }
      let s := countBlock s b.hearth h (blockBytes (opnd x.item.bytes 1).format b)
      { s with attn := some (sweepBlocks s a x.item.bounds) }

/-! ### The online softmax (R219, R220) -/

/-- log2(e) in FP32. -/
def log2e : FVal := f32 0x3FB8AA3B

/-- exp(x) to the accuracy of EXP2. -/
def expF (run pl : Nat) (x : FVal) : FVal := exp2F run pl (mul32 x log2e)

/-- An FP32 value rounded to a 20-bit significand. -/
def p20 (x : FVal) : FVal := fround ⟨8, 19, true, some 0x7FC00, 0x7F7FF⟩ x

/-- Position t of a block is admitted to a row (R219). -/
def admits (d : Desc) (row rowId t : Nat) (seg : BitVec 16) : Bool :=
  let m := dMask d
  (m % 2 == 0 || decide (t ≤ dQPos0 d + row)) && (m < 2 || (rowId == seg.toNat && rowId != 0xFFFF))

/-- The fresh state of a row. -/
def rowFresh (dim : Nat) : RowState := { m := BitVec.ofNat 32 (ffFP32.infPat true), l := 0, o := List.replicate dim 0 }

def fv (x : W32) : FVal := f32 x.toNat
def pat (x : FVal) : W32 := BitVec.ofNat 32 (p32 x)

/-- The score of a query and key (R219). -/
def score (run pl : Nat) (d : Desc) (q k : List W32) : FVal :=
  let fa := (opnd d 0).format
  let fb := (opnd d 1).format
  let n := q.length
  let ts := (List.range n).map fun j => fmul (fa.decode (q.getD j 0).toNat) (fb.decode (k.getD j 0).toNat)
  mul32 (f32 (dScale d)) (sum32 run pl (n + 2) n ts)

/-- The same in real numbers. -/
def exactScore (d : Desc) (q k : List W32) : Dy :=
  let fa := (opnd d 0).format
  let fb := (opnd d 1).format
  Dy.mul (f32 (dScale d)).dy (fsum ((List.range q.length).map fun j => fmul (fa.decode (q.getD j 0).toNat) (fb.decode (k.getD j 0).toNat))).exact

/-- A row state absorbs admitted positions: their number, score and values. -/
def absorbRow (run pl : Nat) (fb : Fmt) (st : RowState) (adm : List (Nat × FVal × List W32)) : RowState :=
  if adm.isEmpty then st
  else
    let m := fv st.m
    let mn := adm.foldl (fun x t => fmax x t.2.1) m
    let al := if m == .inf true then FVal.zero else expF run pl (sub32 m mn)
    let ps := adm.map fun t => (p20 (expF run (pl + 1 + t.1) (sub32 t.2.1 mn)), t.2.2)
    let n := ps.length
    let l := add32 (mul32 (fv st.l) al) (sum32 run (pl + 300) (n + 2) n (ps.map (·.1)))
    let o := (List.range st.o.length).map fun j =>
      pat (add32 (mul32 (fv (st.o.getD j 0)) al)
        (sum32 run (pl + 301 + j) (n + 2) n (ps.map fun p => fmul p.1 (fb.decode (p.2.getD j 0).toNat))))
    { m := pat mn, l := pat l, o := o, seen := st.seen }

/-- The query row and its own segment id. -/
def readQuery (c : Nat) (i : Item) (a : AttnRun) (row : Nat) (acc : Acc) : List W32 × Nat × Acc :=
  let d := i.bytes
  let o := opnd d 0
  let (q, acc) := (List.range (bnd i.bounds 0)).foldl (fun (st : List W32 × Acc) j =>
    if st.2.stop.isSome then st
    else
      let (v, acc) := readElem c a.part false o.format (elemAddr o 0 i.frames (attnIdx a i.bounds j row 0)) 0 st.2
      (st.1 ++ [BitVec.ofNat 32 v], acc)) ([], acc)
  let (sg, acc) := readSegs c a.part i a [dQPos0 d + row] acc
  (q, (sg.headD 0).toNat, acc)

/-- One row of a core absorbs a block: its queries and its segment id are read when it meets its first block. -/
def absorbFor (c run : Nat) (i : Item) (b : Held) (row : Nat) (st : AttnRun × Acc) : AttnRun × Acc :=
  let (a, acc) := st
  if acc.stop.isSome then st
  else
    let d := i.bytes
    let dim := bnd i.bounds 0
    let (q, id, acc) := match tfind a.rows row with
      | some q => (q, tget 0xFFFF a.ids row, acc)
      | none => readQuery c i a row acc
    if acc.stop.isSome then (a, acc)
    else
      let a := { a with rows := tput a.rows row q, ids := tput a.ids row id }
      let pl := row * 65536 * 1024
      let cnt := b.keys.length / max 1 dim
      let adm := (List.range cnt).filterMap fun k =>
        if admits d row id (256 * b.block + k) (b.segs.getD k 0) then
          some (k, score run (pl + 600 + k) d q ((b.keys.drop (k * dim)).take dim), (b.vals.drop (k * dim)).take dim)
        else none
      let odd := adm.any fun t => !t.2.1.isFin
      let old := tget (rowFresh dim) (if b.ccw then a.ccw else a.cw) row
      let exact := (List.range cnt).filterMap fun k =>
        if admits d row id (256 * b.block + k) (b.segs.getD k 0) then
          some (exactScore d q ((b.keys.drop (k * dim)).take dim), (b.vals.drop (k * dim)).take dim)
        else none
      let new := absorbRow run pl (opnd d 1).format old adm
      let new := { new with seen := new.seen ++ exact }
      let a := if b.ccw then { a with ccw := tput a.ccw row new } else { a with cw := tput a.cw row new }
      (if odd then { a with odd := tset false a.odd row true } else a, acc)

/-- ATTN_BLOCK_ABSORB: a core works the oldest block of its Hearth that it has not processed into the state of its rows. -/
def attnBlockAbsorb (c : Nat) (s : State) : State :=
  match s.attnNow with
  | none => s
  | some (a, x) =>
    let bs := x.item.bounds
    let rows := rowsOfCore s a bs c
    match a.held.find? fun b => b.hearth == c / 4 && !b.done.contains c with
    | none => s
    | some b =>
      if rows.isEmpty then s
      else
        let (run, s) := (bump s (32 + 2 * (c / 4)) (blockBytes (opnd x.item.bytes 1).format b)).fresh
        let (a, acc) := rows.foldl (fun st row => absorbFor c run x.item b row st) (a, { s := s })
        let s := acc.s
        match acc.stop with
        | some st => stopRun x st { s with attn := some { a with held := [] } }
        | none =>
          let held := a.held.map fun y => if y.hearth == b.hearth && y.block == b.block then { y with done := y.done ++ [c] } else y
          let a := { a with held := held, absorbed := bumpTab a.absorbed c }
          { s with attn := some (sweepBlocks s a bs) }

/-! ### The merge (R221, R222) -/

/-- log2(e) to 120 bits. -/
def log2eDy : Dy := ⟨1917670637729674084946755258930051709, -120⟩

/-- The softmax weights of the positions, relative to the highest score, to about 2^-60; below 2^-400 nothing. -/
def exactWeights (xs : List (Dy × List W32)) : List (Dy × List W32) :=
  match xs with
  | [] => []
  | x :: t =>
    let top := t.foldl (fun m y => if Dy.lt m y.1 then y.1 else m) x.1
    xs.map fun y =>
      let e := Dy.mul (Dy.sub y.1 top) log2eDy
      (if Dy.lt e (Dy.ofInt (-400)) then Dy.zero else exp2Dy (FVal.ofDy e), y.2)

/-- Component `j` of the output of a row held to the bound of R91: `y` where it is within (d + n_b + 24) · u · Σ p |v| + 2^-20 · max |v| of the exact
softmax, else the exact one rounded. The bound has 2^-50 of itself for the error of the weights. It holds only while no intermediate value
overflows (R92), which leaves no finite `y`, and for values that are numbers. -/
def holdOut (fb : Fmt) (ws : List (Dy × List W32)) (dim blocks j : Nat) (y : FVal) : FVal :=
  let vs := ws.map fun w => (w.1, fb.decode (w.2.getD j 0).toNat)
  let sum := fun (f : Dy × FVal → Dy) => vs.foldl (fun t x => Dy.add t (f x)) Dy.zero
  if vs.any (fun x => !x.2.isFin) || !y.isFin then y
  else
    let w := sum fun x => x.1
    let v := sum fun x => Dy.mul x.1 x.2.dy
    let p := sum fun x => Dy.mul x.1 (Dy.abs x.2.dy)
    let top := vs.foldl (fun m x => if Dy.lt m (Dy.abs x.2.dy) then Dy.abs x.2.dy else m) Dy.zero
    let bound := Dy.add (Dy.mul ⟨(dim + blocks + 24 : Nat), -24⟩ p) (Dy.mul ⟨1, -20⟩ (Dy.mul top w))
    if Dy.le (Dy.abs (Dy.sub (Dy.mul y.dy w) v)) (Dy.mul ⟨2 ^ 50 + 1, -50⟩ bound) then y
    else div32 (FVal.ofDy v) (FVal.ofDy w)

/-- The output of a row: NaN after an odd score, zeros without an admitted position, else the merged states, within the bound of R91. -/
def rowOut (run pl dim blocks : Nat) (fb : Fmt) (odd : Bool) (cw ccw : RowState) : List FVal :=
  if odd then List.replicate dim .nan
  else
    let mx := fmax (fv cw.m) (fv ccw.m)
    if mx == .inf true then List.replicate dim FVal.zero
    else
      let al := fun (k : Nat) (m : FVal) => if m == .inf true then FVal.zero else expF run (pl + k) (sub32 m mx)
      let a1 := al 0 (fv cw.m)
      let a2 := al 1 (fv ccw.m)
      let r := rcpF run (pl + 2) (add32 (mul32 (fv cw.l) a1) (mul32 (fv ccw.l) a2))
      let ws := exactWeights (cw.seen ++ ccw.seen)
      (List.range dim).map fun j =>
        holdOut fb ws dim blocks j (mul32 (add32 (mul32 (fv (cw.o.getD j 0)) a1) (mul32 (fv (ccw.o.getD j 0)) a2)) r)

/-- A row of the output is written. -/
def writeRow (c run : Nat) (i : Item) (a : AttnRun) (row : Nat) (acc : Acc) : Acc :=
  let dim := bnd i.bounds 0
  let o := opnd i.bytes 2
  let out := rowOut run (row * 65536 * 1024) dim (attnBlocks i.bounds) (opnd i.bytes 1).format (tget false a.odd row) (tget (rowFresh dim) a.cw row) (tget (rowFresh dim) a.ccw row)
  (List.range dim).foldl (fun acc j =>
    if acc.stop.isSome then acc
    else coreWrite c a.part false (elemAddr o 2 i.frames (attnIdx a i.bounds j row 0)).toNat
      (leBytes o.format.bytes (convertOut o.format 0 (out.getD j FVal.zero)).1) acc) acc

/-- ATTN_MERGE: the core's lowest tile that has not merged, once the core has absorbed every block. -/
def attnMerge (c : Nat) (s : State) : State :=
  let s := openPass s
  match s.attnNow with
  | none => s
  | some (a, x) =>
    let bs := x.item.bounds
    if tget 0 a.absorbed c < attnBlocks bs then s
    else
      match (tilesOfCore s a bs c).find? fun t => !a.merged.contains t with
      | none => s
      | some t =>
        let (run, s) := s.fresh
        let acc := (tileQRows a bs t).foldl (fun acc row => writeRow c run x.item a row acc) { s := s }
        let s := acc.land c
        match acc.stop with
        | some st => stopRun x st s
        | none => openPass { s with attn := some { a with merged := a.merged ++ [t] } }

/-- A Flue link has failed while an ATTN runs (R227): its pass restarts in line mode, unless every core with tiles has absorbed the
last block; a partition that is no longer connected ends it with LINK_FAILURE. -/
def attnFlueFailed (s : State) : State :=
  match s.attnNow with
  | none => s
  | some (a, x) =>
    match cutHearth s a.part with
    | some h => stopRun x ⟨0x21, h, 0⟩ { s with attn := some { a with held := [] } }
    | none =>
      let bs := x.item.bounds
      let all := (s.coreList a.part).all fun c => (tilesOfCore s a bs c).isEmpty || decide (attnBlocks bs ≤ tget 0 a.absorbed c)
      if all then s else { s with attn := some (attnPass a a.prob a.tile0 true) }

end Sys2Proof.Machine
end

