-- ==== Sys2Proof/Machine/Finish.lean ====
section
/-!
DEFINITION. Finish and completion (R193): the end of a descriptor's own work, and the effects of its completion in their
order, with the fault of R208.
-/
namespace Sys2Proof.Machine

/-! ### The end of the EXEC descriptor -/

/-- The EXEC descriptor's work has ended: every unit has drained, or a stop has let the units with lower indices go (R150). -/
def execEnded (s : State) (x : Running) : Bool :=
  if x.run.stopped then x.run.trapAt.isNone || (s.coreList x.part).all fun c => (s.core c).unit.isNone
  else x.run.ranges.isEmpty && x.run.out == 0 && !widenDue x && attnDone s x

/-- STATUS of a descriptor that has met no error (R86, R87, R89). -/
def okStatus (d : Desc) (r : Run) : Byte :=
  if r.widened then 0x01 else if (dOp d).isArray && satEvent d r then 0x02 else 0x00

/-- COUNT of a descriptor (R203): saturated outputs, or the kept count of a COMPRESS. -/
def okCount (d : Desc) (r : Run) : W32 :=
  if (dOp d).isArray then BitVec.ofNat 32 (min r.sat (2 ^ 32 - 1))
  else if dOp d = .elem ∧ !dPload d ∧ dOutmode d = 1 then BitVec.ofNat 32 r.kept
  else 0

/-- The fold record is written through operand B (R145). -/
def writeFold (x : Running) (s : State) : State × Option Stop :=
  let d := x.item.bytes
  if dOp d ≠ .elem ∨ dPload d ∨ dFold d = 0 ∨ x.run.units = 0 then (s, none)
  else
    let (run, s) := s.fresh
    let b := opnd d 1
    let c := (s.coreList x.part).headD 0
    let bytes := x.run.fold.record run (dFold d) (dFoldNpay d) (isFloatType (keyType d))
    let a := coreWrite c x.part false ((b.base : Int) + repTerm b 1 x.item.frames).toNat bytes { s := s }
    (a.land c, a.stop)

/-- The item of the EXEC descriptor as it finishes. -/
def finishItem (x : Running) (stop : Option Stop) (i : Item) : Item :=
  let d := i.bytes
  let i := match stop with
    | some st => { i with status := st.status, info := BitVec.ofNat 48 st.info, detail := BitVec.ofNat 8 st.detail }
    | none => if i.status.toNat < 0x10 then { i with status := okStatus d x.run, count := okCount d x.run } else i
  { i with finished := true, flags := okFlags d x.run }

/-- EXEC becomes empty and the NEXT descriptor moves in (R191). -/
def leaveExec (x : Running) (s : State) : State :=
  let s := (clearCores s x.part x.run.uid).modWin x.part fun w => { w with exec := none }
  let mine := match s.attn with
    | some a => a.uid == x.run.uid
    | none => false
  let s := if mine && x.run.units != 0 then attnScratch x.part { s with attn := none } else if mine then { s with attn := none } else s
  promote x.part (lateCheck x.part s)

/-- DESCRIPTOR_FINISH of the EXEC descriptor. -/
def finishExec (p : Nat) (s : State) : State :=
  match s.running? p with
  | none => s
  | some x =>
    if s.cancelling x.run.q.toNat || !execEnded s x then s
    else
      let (s, stop) := if x.run.stopped then (gatherStopped p x.run x.item s, none) else writeFold x (landHeld x.run (fun _ => true) s)
      leaveExec x (s.modItem x.run.q.toNat x.run.uid (finishItem x stop))

/-! ### The end of a mover -/

/-- A mover ends with an error: some of its bytes have been written (R108). -/
def moverItem (stop : Option Stop) (loads : List W32) (i : Item) : Item :=
  match stop with
  | some st => { i with finished := true, status := st.status, info := BitVec.ofNat 48 st.info, detail := BitVec.ofNat 8 st.detail }
  | none => { i with finished := true, loads := loads }

/-- The accesses of a mover: the words of a LOADB, or the copies, all of them or those made before its stop. -/
def moverWork (s : State) (p : Nat) (i : Item) : List W32 × State × Option Stop :=
  let c := (s.coreList p).headD 0
  if dOp i.bytes = .loadb then
    let (ws, a) := loadWords s p i
    (ws, a.s, a.stop)
  else
    let (run, s) := s.fresh
    let a := moveAll s p i
    match a.stop with
    | none => ([], a.land c, none)
    | some st => ([], { a with out := a.out.filter fun y => Config.partialByte run y.1 }.land c, some st)

/-- DESCRIPTOR_FINISH of the mover at place `k` of the window. -/
def finishMover (p k : Nat) (s : State) : State :=
  match (s.win p).movers[k]? with
  | none => s
  | some (q, uid) =>
    match s.item q.toNat uid with
    | none => s
    | some i =>
      if s.cancelling q.toNat then s
      else
        let (ws, s, stop) := moverWork s p i
        let s := s.modItem q.toNat uid (moverItem stop ws)
        s.modWin p fun w => { w with movers := w.movers.filter fun y => !(y.1 == q && y.2 == uid) }

/-- DESCRIPTOR_FINISH: of EXEC (slot 0) or of one of the two movers. -/
def finishSlot (p : Nat) (slot : Fin 3) (s : State) : State :=
  if slot.val = 0 then finishExec p s else finishMover p (slot.val - 1) s

/-! ### Completion (R193) -/

/-- Descriptors of queue `q` that a BARRIER waits for: issued before it on its partition, apart from a REPEAT that encloses it. -/
def barrierHeld (s : State) (p : Nat) (i : Item) : Bool :=
  (partItems s p).any fun j => decide (j.uid < i.uid) && !(i.frames.any fun f => f.rep == j.uid)

/-- A REPEAT's body has been issued and has completed. -/
def bodyDone (x : Queue) (i : Item) : Bool := !i.isOpen && !(x.items.any fun j => j.frames.any fun f => f.rep == i.uid)

/-- An item may complete: it has finished, and every earlier one has completed, apart from a REPEAT that encloses it. -/
def mayComplete (s : State) (x : Queue) (i : Item) : Bool :=
  i.finished && bodyDone x i && (x.items.all fun j => !decide (j.uid < i.uid) || i.frames.any fun f => f.rep == j.uid) &&
    !(i.reserves && dOp i.bytes == .barrier && barrierHeld s x.part i)

/-- The words of a LOADB enter its bound registers. -/
def putLoads (first : Nat) : List W32 → Tab W32 → Tab W32
  | [], t => t
  | w :: ws, t => putLoads (first + 1) ws (tset 0 t first w)

/-- Step 1: the count register and the words of a LOADB, for a status below 0x10. -/
def regEffect (i : Item) (x : Queue) : Queue :=
  if 0x10 ≤ i.status.toNat then x
  else if dWritesCount i.bytes then { x with bound := tset 0 x.bound (dCntReg i.bytes) i.count }
  else if dOp i.bytes == .loadb && i.reserves then { x with bound := putLoads (dLbFirst i.bytes) i.loads x.bound }
  else x

/-- Steps 3 to 6 of R193, and the fault of R208. -/
def completeEffects (q : Nat) (i : Item) (s : State) : State :=
  let ok := decide (i.status.toNat < 0x10)
  let p := (s.queue q).part
  let s := if ok && dSigEn i.bytes then semUpdate s (dSigSem i.bytes) (dSigSet i.bytes) (dSigValue i.bytes) else s
  let s := if !ok || dCrec i.bytes then itemRecord s q i else s
  let s := if dIrq i.bytes then raiseMsix s (s.fnOfPart p) (s.queue q).vector else s
  let s := s.modQueue q fun x => { x with lastStatus := i.status }
  let s := if ok then s else promote p (faultQueue q i s)
  if dSnuffDone i.bytes then descSnuff 5 p q s else s

/-- DESCRIPTOR_COMPLETE: the oldest item of the queue that may complete does. -/
def completeDesc (q : Nat) (s : State) : State :=
  let x := s.queue q
  if x.state == .cancelling || x.state == .disabled then s
  else
    match x.items.find? (mayComplete s x) with
    | none => s
    | some i =>
      let s := s.modQueue q (regEffect i)
      let s := s.modQueue q fun x => { x with items := x.items.filter fun j => j.uid != i.uid }
      completeEffects q i s

end Sys2Proof.Machine
end

