-- ==== Sys2Proof/Machine/Hif.lean ====
section
/-!
DEFINITION. The PCI Express endpoint: link training and loss (R352, R370), BAR2 accesses (R354, R358), time (R22, R360) and
MSI-X unmasking (R368).
-/
namespace Sys2Proof.Machine

/-- LINK_TRAINED: the trained speed and width; NARROW and one log entry below 32.0 GT/s or x8 (R352). -/
def linkTrained (speed : BitVec 3) (width : BitVec 5) (s : State) : State :=
  let s := (s.setFld Reg.hifLink 2 0 speed.toNat).setFld Reg.hifLink 7 3 width.toNat
  let s := { s with hif := { s.hif with linkUp := true, outage := false } }
  if speed.toNat < 5 ∨ width.toNat < 8 then
    report (s.setBit Reg.hifLink 8 true) 0x04 0x30 speed.toNat width.toNat 0
  else s.setBit Reg.hifLink 8 false

/-- LINK_DOWN: writes to host memory are dropped from here on (R370). -/
def linkDown (s : State) : State := { s with hif := { s.hif with linkUp := false, outage := false } }

/-- BAR2_RESIZE: the size S of R354 for the PF, 1 to 32 GiB (R353). -/
def bar2Resize (gib : Nat) (s : State) : State :=
  if gib ∈ [1, 2, 4, 8, 16, 32] then { s with hif := { s.hif with bar2 := gib } } else s

/-- Identity of a function in its configuration space (R351): the vendor ID is assigned to Airnauz, and the manual does not give it (log 63). -/
def vendorOf : BitVec 16 := Config.vendorId
def deviceId (fn : Fn) : Nat := if fn = .pf then 0x0A09 else 0x0A19
def classCode : Nat := 0x120000

/-- The size in bytes of a function's BAR2. -/
def State.bar2Size (s : State) (fn : Fn) : Nat :=
  match fn with
  | .pf => s.hif.bar2 * 0x40000000
  | .vf _ => 0x40000000

/-- The physical address of a BAR2 offset (R354). -/
def State.bar2Addr (s : State) (fn : Fn) (o : Nat) : Nat :=
  let z := s.bar2Size fn
  if o < z - 0x20000000 then s.fld (fnKey fn.num Reg.hifB2win) 39 21 * 0x200000 + o
  else if o < z - 0x10000000 then bufBase + (o - (z - 0x20000000))
  else trackBase + (o - (z - 0x10000000))

/-- Aperture `a` of partition `p` holds a byte (R50). -/
def State.aperHas (s : State) (p a x : Nat) : Bool :=
  let r := Reg.mmuAper p a
  s.bit r 0 && decide (s.fld r 39 12 ≤ x / 4096) && decide (x / 4096 ≤ s.fld r 103 76)

/-- Every 4 KiB page of a range lies in an enabled aperture of the partition. -/
def State.inAper (s : State) (p x n : Nat) : Bool :=
  (List.range (cdiv (x % 4096 + max n 1) 4096)).all fun i => (List.range 4).any fun a => s.aperHas p a (x / 4096 * 4096 + 4096 * i)

/-- A function may reach a physical range through BAR2: the PF all of it, a VF inside the apertures of its partition. -/
def State.bar2May (s : State) (fn : Fn) (x n : Nat) : Bool :=
  match fn with
  | .pf => true
  | .vf k => match s.partOfVf k.val with
    | some p => s.inAper p x n
    | none => false

/-- GDDR6 does not answer: untrained (R398), or in self-refresh under Snuff (R358) or in DEEP_IDLE (R425). -/
def State.gddrAsleep (s : State) : Bool := !s.fabric.gddrTrained || s.snuffed || s.fabric.selfRefresh

/-- The Hearths are off: DEEP_IDLE, or WAKING (R425). -/
def State.hearthsOff (s : State) : Bool := s.pwrState == 1 || s.pwrState == 2

/-- A BAR2 offset falls in the GDDR6 window. -/
def State.bar2Gddr (s : State) (fn : Fn) (o : Nat) : Bool := decide (o < s.bar2Size fn - 0x20000000)

/-- A BAR2 offset falls in a window that does not answer now: GDDR6 asleep, or the buffers of Hearths that are off, or have not come up yet: step 5
of R24. The buffers of a Hearth that R15 has cut off go on answering. DESIGN CHOICE, log 62. -/
def State.bar2Quiet (s : State) (fn : Fn) (o : Nat) : Bool :=
  if s.bar2Gddr fn o then s.gddrAsleep
  else decide (o < s.bar2Size fn - 0x10000000) && (s.hearthsOff || decide (s.boot.step < 5))

/-- What an access to a physical range is refused as: a KIND of DBG_VIOL_LAST, or nothing. -/
def State.bar2Viol (s : State) (fn : Fn) (x n : Nat) (write : Bool) : Option Nat :=
  match s.rangePlace x n with
  | .none => some 4
  | pl => if !s.bar2May fn x n then some 2 else if write && readOnlyPlace pl then some 5 else none

/-- BAR2_READ: data, or zeros for a violation; a poisoned granule poisons the completion (R34, R354, R358). -/
def bar2Read (fn : Fn) (o n : Nat) (s : State) : State :=
  if o + n > s.bar2Size fn ∨ n = 0 then s
  else
    let x := s.bar2Addr fn o
    let zero : Reply := ⟨List.replicate n 0, false⟩
    match s.bar2Viol fn x n false with
    | some k => bump (viol { s with hif := { s.hif with reply := some zero } } x k (s.violPart fn)) 89 n
    | none =>
      if s.bar2Quiet fn o then bump { s with hif := { s.hif with reply := some zero } } 89 n
      else
        let (s, bs, p) := devRead .pcie s x n
        bump { s with hif := { s.hif with reply := some ⟨bs, p.isSome⟩ } } 89 n

/-- The configuration space of a function. -/
def State.configOf (s : State) (fn : Fn) : ConfigSpace := (tfind s.hif.config fn.num).getD {}

/-- A poisoned TLP has come in for a function (R351): AER records it as an uncorrectable error, Poisoned TLP Received, unless the mask keeps it. PRESUMED,
log 63: the bit is the PCI Express standard's, which records a masked error too. -/
def aerPoisoned (fn : Fn) (s : State) : State :=
  let c := s.configOf fn
  { s with hif := { s.hif with config := tput s.hif.config fn.num { c with uncStatus := c.uncStatus ||| 0x1000 } } }

/-- The granules that a range meets are marked as poisoned. -/
def poisonRange (a n : Nat) (s : State) : State :=
  let g := s.granule a
  (List.range (cdiv (a % g + n) g)).foldl (fun s i => { s with poison := tset false s.poison (a / g * g + g * i) true }) s

/-- BAR2_WRITE: stored, or dropped as a violation (R354); dropped while its window does not answer, which counts as a violation in DEEP_IDLE
(R425). A poisoned TLP is recorded by AER, and what it writes is poisoned. DEDUCED, log 63. -/
def bar2Write (fn : Fn) (o : Nat) (data : TlpData) (s : State) : State :=
  let n := data.bytes.length
  if o + n > s.bar2Size fn ∨ n = 0 then s
  else
    let s := bump s 88 n
    let s := if data.poisoned then aerPoisoned fn s else s
    let x := s.bar2Addr fn o
    match s.bar2Viol fn x n true with
    | some k => viol s x k (s.violPart fn)
    | none =>
      if s.bar2Quiet fn o then (if s.hearthsOff then viol s x 4 (s.violPart fn) else s)
      else
        let s := devWrite .pcie s x data.bytes
        if data.poisoned then poisonRange x n s else s

/-- A read of `n` bytes of BAR4: zeros (R356), answered in every state from step 2 on (R357). The table has no row for it (log 63). -/
def bar4Read (n : Nat) (s : State) : State := bump { s with hif := { s.hif with reply := some ⟨List.replicate n 0, false⟩ } } 89 n

/-! ### Time (R22, R360) -/

/-- GLB_TIME_WRITE: PF only; the value waits for the next tick, at which every copy takes it, a forward step that waited with it included (R22), and
LOCKED clears. -/
def glbTimeWrite (fn : Fn) (t : W64) (s : State) : State :=
  if fn ≠ .pf then viol s Reg.glbTime 4 (s.violPart fn)
  else { s with clock := { s.clock with write := some t, step := 0 } }.setBit Reg.glbPpsStat 32 false

/-- The multiple of 10^9 nearest to t; the higher one half-way. -/
def nearestSecond (t : Nat) : Nat := (t + 500000000) / 1000000000 * 1000000000

/-- Steps 1 to 4 of R360 for an edge. -/
def ppsAlign (s : State) : State :=
  let t := s.clock.timeF.toNat
  let a := nearestSecond t
  let w := min (s.fld Reg.glbPps 63 32) 1000000
  let d := if a ≤ t then t - a else a - t
  if w < d then s.addSat Reg.glbPpsStat 63 48 1
  else
    let s := (s.setFld Reg.glbPpsStat 31 0 (toPat 32 ((t : Int) - a))).setBit Reg.glbPpsStat 32 true
    if t ≤ a then { s with clock := { s.clock with step := s.clock.step + BitVec.ofNat 64 (a - t) } }
    else { s with clock := { s.clock with hold := t - a } }

/-- PPS_EDGE: handled at once, or when the hold in force ends. -/
def ppsEdge (s : State) : State :=
  if !s.bit Reg.glbPps 0 then s
  else if s.clock.hold ≠ 0 then { s with clock := { s.clock with ppsQueued := true } }
  else ppsAlign s

/-- PPS_HOLD_END: the copies advance again; an edge that waited is handled. -/
def ppsHoldEnd (s : State) : State :=
  if s.clock.hold = 0 then s
  else
    let q := s.clock.ppsQueued
    let s := { s with clock := { s.clock with hold := 0, ppsQueued := false } }
    if q && s.bit Reg.glbPps 0 then ppsAlign s else s

/-- A copy of the time at the next tick (R22): the value written, or 10 ns more, or what it is while a hold lasts (R360), and the forward step of an
alignment. -/
def Clock.next (c : Clock) (t : W64) : W64 :=
  (match c.write with
    | some v => v
    | none => if c.hold = 0 then t + 10 else t) + c.step

/-- One tick of the AON-clock (R22, log 9) for the three copies of the time; none is made while the device is in reset. -/
def tick (s : State) : State :=
  if s.up then
    let c := s.clock
    { s with clock := { c with timeF := c.next c.timeF, timeM := c.next c.timeM, timeC := c.next c.timeC, write := none, step := 0 }
             boot := { s.boot with writing := none } }
  else s

/-- PPS_LOCK_LOST: no edge aligned for 2 s. -/
def ppsLockLost (s : State) : State := s.setBit Reg.glbPpsStat 32 false

/-! ### MSI-X -/

/-- MSIX_UNMASK: the vector is unmasked, and a pending bit sends one message (R368). -/
def msixUnmask (fn : Fn) (v : Fin 2048) (s : State) : State :=
  if fn.vectors ≤ v.val then s
  else
    let k := msixKey fn.num v.val 3
    let s := s.msixSet k (BitVec.ofNat 32 (nput (s.msixGet k).toNat 0 0 0))
    if tget false s.hif.pend (2048 * fn.num + v.val) then
      sendMsix { s with hif := { s.hif with pend := tset false s.hif.pend (2048 * fn.num + v.val) false } } fn.num v.val
    else s

/-! ### Meanings -/

/-- LINK_TRAINED (R352). -/
def execLinkTrained (speed : BitVec 3) (width : BitVec 5) (s : State) : Out := live s (linkTrained speed width)
/-- LINK_DOWN (R370). -/
def execLinkDown (s : State) : Out := live s linkDown
/-- BAR2_RESIZE (R353). -/
def execBar2Resize (gib : Nat) (s : State) : Out := live s (bar2Resize gib)
/-- BAR2_READ (R354). -/
def execBar2Read (fn : Fn) (off len : Nat) (s : State) : Out := live s (bar2Read fn off len)
/-- BAR2_WRITE (R354). -/
def execBar2Write (fn : Fn) (off : Nat) (data : TlpData) (s : State) : Out := live s (bar2Write fn off data)
/-- PPS_LOCK_LOST (R360). -/
def execPpsLockLost (s : State) : Out := live s ppsLockLost
/-- MSIX_UNMASK (R368). -/
def execMsixUnmask (fn : Fn) (vector : Fin 2048) (s : State) : Out := bar0 fn 4 s (msixUnmask fn vector)

end Sys2Proof.Machine
end

