-- ==== Sys2Proof/Machine/Cyclic.lean ====
section
/-!
DEFINITION. The cyclic table (R344 to R350): the position in the cycle, the timeline of each partition, slots, quiet periods and
lateness, and the events that step the time copies (R22, R349, R360).
-/
namespace Sys2Proof.Machine

/-! ### Positions, in nanoseconds -/

/-- The cycle's length, the position in it and the time copy's value at its start. -/
def State.cycleLen (s : State) : Nat := s.fld Reg.qmCycle 16 0 * 10000
def State.cyclePos (s : State) : Nat :=
  let l := s.cycleLen
  ((s.clock.timeF.toNat : Int) - (10000 * s.fld Reg.qmCycle 48 32 : Nat)).emod (max 1 l) |>.toNat
def State.cycleBegin (s : State) : W64 := s.clock.timeF - BitVec.ofNat 64 s.cyclePos

/-- The slots of a partition's timeline, in table order. -/
def State.timeline (s : State) (p : Nat) : List Nat := (List.range s.qm.slots.length).filter fun i => slotPart (s.slotEntry i) == p

/-- Where slot i starts on its partition's timeline, and its length. -/
def slotOff (s : State) (i : Nat) : Nat :=
  (((s.timeline (slotPart (s.slotEntry i))).filter fun j => decide (j < i)).map fun j => slotLen (s.slotEntry j) * 10000).sum
def slotNs (s : State) (i : Nat) : Nat := slotLen (s.slotEntry i) * 10000

/-- The position lies inside slot i. -/
def inSlotNow (s : State) (i : Nat) : Bool := decide (slotOff s i ≤ s.cyclePos) && decide (s.cyclePos < slotOff s i + slotNs s i)

/-- The position lies in the guard before slot i, taken cyclically. -/
def inGuardNow (s : State) (i : Nat) : Bool :=
  let l := max 1 s.cycleLen
  let d := (slotOff s i + l - s.cyclePos) % l
  decide (0 < d) && decide (d ≤ slotGuard (s.slotEntry i) * 1000)

/-- The group that the interval right before slot i admits; none for an open one. -/
def groupBefore (s : State) (i : Nat) : Option Nat :=
  let line := s.timeline (slotPart (s.slotEntry i))
  match (line.filter fun j => decide (j < i)).getLast? with
  | some j => some (slotGroup (s.slotEntry j))
  | none =>
    match line.getLast? with
    | some j => if slotOff s j + slotNs s j = s.cycleLen then some (slotGroup (s.slotEntry j)) else none
    | none => none

/-- The table is in force: a cycle length, after READY. -/
def State.tableOn (s : State) : Bool := s.ready && s.cyclic

/-- Slot i stands in the table in force. -/
def slotOn (s : State) (i : Nat) : Bool := s.tableOn && decide (i < s.qm.slots.length)

/-! ### Events -/

/-- CYCLE_START: one more cycle has begun. -/
def cycleStart (s : State) : State :=
  if s.tableOn && decide (s.cyclePos < 10) && (s.qm.cycles == 0 || s.qm.cycleAt != s.cycleBegin) then
    { s with qm := { s.qm with cycles := s.qm.cycles + 1, cycleAt := s.cycleBegin } }
  else s

/-- Slot i comes into force: its group is admitted, its quiet period ends, and its lateness is measured (R345, R350). -/
def enterSlot (i : Nat) (s : State) : State :=
  let p := slotPart (s.slotEntry i)
  let start := s.cycleBegin + BitVec.ofNat 64 (slotOff s i)
  lateCheck p (s.modWin p fun w => { w with slot := some i, slotAt := start, quiet := none, late := w.late ++ [(start, slotGroup (s.slotEntry i))] })

/-- Slot i has not been entered since its last start. -/
def slotNew (s : State) (i : Nat) : Bool :=
  let w := s.win (slotPart (s.slotEntry i))
  w.slot != some i || w.slotAt != s.cycleBegin + BitVec.ofNat 64 (slotOff s i)

/-- SLOT_START. A slot as long as the cycle starts anew in every cycle. -/
def slotStart (i : Nat) (s : State) : State :=
  let p := slotPart (s.slotEntry i)
  if slotOn s i && inSlotNow s i && slotNew s i then promote p (enterSlot i s) else s

/-- SLOT_END: the group loses admission. -/
def slotEnd (i : Nat) (s : State) : State :=
  let p := slotPart (s.slotEntry i)
  if slotOn s i && !inSlotNow s i && (s.win p).slot == some i then s.modWin p fun w => { w with slot := none } else s

/-- A compute descriptor in NEXT goes back to the unissued state: it gives up its reservations, its completion slot and its place in the window. What its
queue has issued after it goes on (R343, R346). -/
def withdrawNext (q uid : Nat) (s : State) : State :=
  let p := (s.queue q).part
  (dropSlots p (s.modItem q uid fun i => { i with back := true, reserves := false })).modWin p fun w => { w with next := none }

/-- QUIET_PERIOD_START (R346). -/
def quietStart (i : Nat) (s : State) : State :=
  let p := slotPart (s.slotEntry i)
  let g := slotGroup (s.slotEntry i)
  if slotOn s i && inGuardNow s i && groupBefore s i != some g && (s.win p).quiet != some i then
    let s := s.modWin p fun w => { w with quiet := some i }
    match (s.win p).next with
    | some (q, uid) => if quietHeld s (s.queue q.toNat) then withdrawNext q.toNat uid s else s
    | none => s
  else s

/-! ### Steps of the time copies (R349) -/

/-- The table of one partition moves to the position of the new time: the slot there is entered, or a quiet period that the position lies in
begins. -/
def moveLine (s : State) (p : Nat) : State :=
  let s := s.modWin p fun w => { w with quiet := match w.quiet with
    | some i => if inGuardNow s i then some i else none
    | none => none }
  let s := match (s.timeline p).find? (inSlotNow s) with
    | some i => if slotNew s i then enterSlot i s else s
    | none => s.modWin p fun w => { w with slot := none }
  match (s.timeline p).find? fun i => inGuardNow s i && groupBefore s i != some (slotGroup (s.slotEntry i)) with
  | some i => quietStart i s
  | none => s

/-- A step of the time copies waits for the next tick (R22). -/
def Clock.stepped (c : Clock) : Bool := c.write.isSome || c.step != 0

/-- The table moves at once when the time copy has been stepped; under Snuff at the resume (R468). -/
def moveTable (s : State) : State := if s.tableOn then (List.range 16).foldl moveLine s else s

/-! ### The block without a command: one tick -/

/-- The BE queue that holds the turn of partition `p` is offered a free part, and cannot issue: the turn passes on (R341). -/
def passTurn (k : Part) (s : State) (p : Nat) : State :=
  match beOrder s p (s.queuesOf p) with
  | [] => s
  | q :: _ =>
    let x := s.queue q
    if partFree s p k && !s.partCut p && offered s k x && !canIssue s k x &&
        !((offerOrder s p).takeWhile (· != q)).any fun r => canIssue s k (s.queue r) then
      passOver q s
    else s

/-- What the block does when no command waits (log 9): one tick of the AON-clock. The copies of the time take their next value, a step of them moves
the cyclic table (R349), and turns pass on (R341). -/
def idle (s : State) : State :=
  let t := tick s
  let t := if s.clock.stepped && s.up && !s.stopped then moveTable t else t
  if t.ready && !t.stopped then (List.range 16).foldl (fun s p => passTurn .mover (passTurn .compute s p) p) t else t

/-- GLB_TIME_WRITE (R22). -/
def execGlbTimeWrite (fn : Fn) (ns : W64) (s : State) : Out := bar0 fn 8 s (glbTimeWrite fn ns)
/-- PPS_EDGE (R360). -/
def execPpsEdge (s : State) : Out := live s ppsEdge
/-- PPS_HOLD_END (R360). -/
def execPpsHoldEnd (s : State) : Out := live s ppsHoldEnd
/-- CYCLE_START (R344). -/
def execCycleStart (s : State) : Out := running s cycleStart
/-- QUIET_PERIOD_START (R346). -/
def execQuietPeriodStart (slot : Fin 1024) (s : State) : Out := running s (quietStart slot.val)
/-- SLOT_START (R345). -/
def execSlotStart (slot : Fin 1024) (s : State) : Out := running s (slotStart slot.val)
/-- SLOT_END (R345). -/
def execSlotEnd (slot : Fin 1024) (s : State) : Out := running s (slotEnd slot.val)

end Sys2Proof.Machine
end

