-- ==== Sys2Proof/Machine/Mmu.lean ====
section
/-!
DEFINITION. Translation control (R48, R49, R51, R384, R490): invalidations, the commit of the MMU set, and a walk that ends before
its access.
-/
namespace Sys2Proof.Machine

/-! ### Invalidations (R49) -/

/-- A write of MMU_INV_CMD by a function: accepted, dropped, or not permitted. -/
def invCmd (fn : Fn) (p scope first count : Nat) (s : State) : State :=
  let st := fnKey fn.num Reg.mmuInvStatus
  if !s.mayPart fn p then denied s fn Reg.mmuInvCmd
  else if s.bit st 0 || (scope == 1 && count == 0) then dropCmd s fn Reg.mmuInvCmd
  else
    let s := (s.setBit st 0 true).setBit st 1 false
    { s with mmu := { s.mmu with invs := s.mmu.invs ++ [⟨fn.num, p, scope, first, count⟩] } }

/-- The range of MMU_INV_ADDR of a function: first page and number of pages. -/
def invRange (fn : Fn) (p : Nat) (s : State) : State :=
  let a := fnKey fn.num Reg.mmuInvAddr
  invCmd fn p 1 (s.fld a 47 12) (s.fld a 63 48) s

/-- Virtual addresses lo to hi − 1 meet what an invalidation covers. -/
def Inval.covers (v : Inval) (lo hi : Nat) : Bool :=
  match v.scope with
  | 0 => true
  | 1 => decide (lo < (v.first + v.count) * 4096) && decide (v.first * 4096 < hi)
  | _ => inSeqSpace lo && seqSlot lo == v.first

/-- Entries that match leave the TLBs of the partition's cores and the walk caches. -/
def dropEntries (v : Inval) (s : State) : State :=
  let s := (s.coreList v.part).foldl (fun s c =>
    let es := (tget [] s.mmu.tlb c).filter fun e => !v.covers e.va (e.va + e.size)
    { s with mmu := { s.mmu with tlb := tset [] s.mmu.tlb c es } }) s
  (List.range 4).foldl (fun s h =>
    let ws := (tget [] s.mmu.walks h).filter fun e =>
      !(e.part == v.part && v.covers e.va (e.va + 2 ^ levelShift (inSeqSpace e.va) (e.level + 1)))
    { s with mmu := { s.mmu with walks := tset [] s.mmu.walks h ws } }) s

/-- INV_DONE: the oldest invalidation completes. -/
def invDone (s : State) : State :=
  match s.mmu.invs with
  | [] => s
  | v :: vs =>
    let s := dropEntries v { s with mmu := { s.mmu with invs := vs } }
    let st := fnKey v.fn Reg.mmuInvStatus
    (s.setBit st 0 false).setBit st 1 true

/-! ### MMU_COMMIT (R384, R490) -/

/-- The pending value of a register of the MMU set. -/
def State.mmuPend (s : State) (k : Nat) : W64 := (tfind s.mmu.pend k).getD (s.reg k)

/-- A root register names a table of `n` bytes that does not lie wholly in usable GDDR6. -/
def rootBad (s : State) (v : W64) (n : Nat) : Bool := nbit v.toNat 0 && !s.inGddr (nbits v.toNat 39 12 * 4096) n

/-- An enabled aperture is empty or covers an address that does not exist. -/
def aperBad (s : State) (lo hi : W64) : Bool :=
  let b := nbits lo.toNat 39 12
  let l := nbits hi.toNat 39 12
  nbit lo.toNat 0 && (decide (l < b) || s.rangePlace (b * 4096) ((l + 1 - b) * 4096) == .none)

/-- The pending set is inconsistent. -/
def mmuSetBad (s : State) : Bool :=
  (List.range 16).any fun p =>
    rootBad s (s.mmuPend (Reg.mmuRoot p)) 4096 || rootBad s (s.mmuPend (Reg.mmuSeqroot p)) 8192 ||
      (List.range 4).any fun a => aperBad s (s.mmuPend (Reg.mmuAper p a)) (s.mmuPend (Reg.mmuAper p a + 8))

/-- The pending set is judged and, when it holds, becomes the active set. DESIGN CHOICE (log 35): a set that moves the TABLE of a root whose EN stays 1
drops no entry, so that pages of the old table are used until software invalidates them (R49). -/
def mmuJudge (s : State) : State :=
  if mmuSetBad s then s.setBit Reg.mmuCommit 8 true
  else
    let s := s.mmu.pend.foldl (fun s x => s.setReg x.1 x.2) s
    { s with mmu := { s.mmu with pend := [] } }.setBit Reg.mmuCommit 8 false

/-- MMU_COMMIT with GO. -/
def mmuCommit (fn : Fn) (s : State) : State :=
  if fn ≠ .pf then denied s fn Reg.mmuCommit
  else if !s.ready then dropCmd s fn Reg.mmuCommit
  else mmuJudge s

/-! ### A walk (R48, R51) -/

/-- A byte that a running descriptor can touch. -/
def touches (s : State) (c : Nat) (x : Running) (va : Nat) : Bool :=
  (extents x.item.bytes x.item.bounds x.item.frames (some (coreSlot s c x))).any fun e =>
    decide (e.lo ≤ (va : Int)) && decide ((va : Int) ≤ e.hi)

/-- WALK_DONE: a walk for the descriptor in EXEC ends and fills the core's TLB, or stops the descriptor. -/
def walkDone (c va : Nat) (s : State) : State :=
  match s.coreRun c with
  | none => s
  | some x =>
    if isLocal va || (tlbHit s c va).isSome || x.run.stopped || !touches s c x va then s
    else
      match translate s c x.part va with
      | (s, .leaf _) => s
      | (s, .fault d) => stopRun x ⟨0x11, va, d⟩ s
      | (s, .poison k) => stopRun x ⟨0x20, k, 0⟩ s

/-! ### Meanings -/

/-- INV_PARTITION (R49). -/
def execInvPartition (fn : Fn) (part : Fin 16) (s : State) : Out :=
  live s (orRecord (.invPartition fn part) (invCmd fn part.val 0 0 0))
/-- INV_RANGE (R49). -/
def execInvRange (fn : Fn) (part : Fin 16) (s : State) : Out := live s (orRecord (.invRange fn part) (invRange fn part.val))
/-- INV_SLOT (R49). -/
def execInvSlot (fn : Fn) (part : Fin 16) (slot : Fin 1024) (s : State) : Out :=
  live s (orRecord (.invSlot fn part slot) (invCmd fn part.val 2 slot.val 0))
/-- INV_DONE (R49). -/
def execInvDone (s : State) : Out := live s invDone
/-- MMU_COMMIT (R490). -/
def execMmuCommit (fn : Fn) (s : State) : Out := bar0 fn 4 s (mmuCommit fn)
/-- WALK_DONE (R48, R51). -/
def execWalkDone (core : Fin 16) (va : BitVec 48) (s : State) : Out := running s (walkDone core.val va.toNat)

end Sys2Proof.Machine
end

