-- ==== Sys2Proof/Machine/QmCmds.lean ====
section
/-!
DEFINITION. The commands of the queue manager and the events of descriptors, one meaning each.
-/
namespace Sys2Proof.Machine

/-! ### Host writes (R186 to R190, R209, R210) -/

/-- QUEUE_DOORBELL (R188, R356): a BAR4 write of whole aligned doorbells, or one that is dropped (KIND 7). -/
def execQueueDoorbell (fn : Fn) (off : Nat) (data : List Byte) (s : State) : Out :=
  live s fun s =>
    if data.isEmpty ∨ bar4Size < off + data.length then s
    else if off % 8 ≠ 0 ∨ data.length % 8 ≠ 0 then viol (s.beforeWrite (.queueDoorbell fn off data)) off 7 (s.violPart fn)
    else orRecord (.queueDoorbell fn off data) (queueDoorbells fn off data) s
/-- ENABLE (R186). -/
def execEnable (fn : Fn) (q : BitVec 16) (s : State) : Out := live s (orRecord (.enable fn q) (enableQueue fn q.toNat))
/-- DISABLE (R189). -/
def execDisable (fn : Fn) (q : BitVec 16) (s : State) : Out :=
  live s (orRecord (.disable fn q) (queueCmd fn q.toNat (fun st => st == .active || st == .faulted) (disableQueue q.toNat)))
/-- CANCEL (R210). -/
def execCancel (fn : Fn) (q : BitVec 16) (s : State) : Out :=
  live s (orRecord (.cancel fn q) (queueCmd fn q.toNat (fun st => st == .active || st == .faulted) (cancelQueue q.toNat)))
/-- RESUME (R209). -/
def execResume (fn : Fn) (q : BitVec 16) (s : State) : Out :=
  live s (orRecord (.resume fn q) (queueCmd fn q.toNat (· == .faulted) (resumeQueue q.toNat)))
/-- RESUME_SKIP (R209). -/
def execResumeSkip (fn : Fn) (q : BitVec 16) (s : State) : Out :=
  live s (orRecord (.resumeSkip fn q) (queueCmd fn q.toNat (· == .faulted) (resumeSkipQueue q.toNat)))
/-- SEMOP_ADD (R190). -/
def execSemopAdd (fn : Fn) (sem : BitVec 14) (value : W32) (s : State) : Out :=
  live s (orRecord (.semopAdd fn sem value) (hostSem fn sem.toNat false value))
/-- SEMOP_SET (R190). -/
def execSemopSet (fn : Fn) (sem : BitVec 14) (value : W32) (s : State) : Out :=
  live s (orRecord (.semopSet fn sem value) (hostSem fn sem.toNat true value))

/-! ### Ends of DISABLE and CANCEL -/

/-- QUEUE_DISABLED (R189). -/
def execQueueDisabled (q : BitVec 16) (s : State) : Out := running s (queueDisabled q.toNat)
/-- CANCEL_DRAINED (R210): the partition's NEXT descriptor may now move into EXEC. -/
def execCancelDrained (q : BitVec 16) (s : State) : Out :=
  running s fun s => promote (s.queue q.toNat).part (cancelDrained q.toNat s)

/-! ### From ring to issue (R156, R185, R192) -/

/-- DESCRIPTOR_FETCH (R156). -/
def execDescriptorFetch (q : BitVec 16) (s : State) : Out := running s (fetchDesc q.toNat)
/-- DESCRIPTOR_REFUSE (R192). -/
def execDescriptorRefuse (q : BitVec 16) (s : State) : Out := running s (refuseDesc q.toNat)
/-- NOP (R166). -/
def execDNop (q : BitVec 16) (s : State) : Out := running s (issueControl q.toNat .nop)
/-- WAIT (R57). -/
def execDWait (q : BitVec 16) (s : State) : Out := running s (issueControl q.toNat .wait)
/-- SIGNAL (R57). -/
def execDSignal (q : BitVec 16) (s : State) : Out := running s (issueControl q.toNat .signal)
/-- FENCE (R56). -/
def execDFence (q : BitVec 16) (s : State) : Out := running s (issueControl q.toNat .fence)
/-- BARRIER (R166). -/
def execDBarrier (q : BitVec 16) (s : State) : Out := running s (issueControl q.toNat .barrier)
/-- REPEAT (R176). -/
def execDRepeat (q : BitVec 16) (s : State) : Out := running s (issueRepeat q.toNat)
/-- LOADB (R177). -/
def execDLoadb (q : BitVec 16) (s : State) : Out := running s (issueMover q.toNat .loadb)
/-- COPY (R178). -/
def execDCopy (q : BitVec 16) (s : State) : Out := running s (issueMover q.toNat .copy)
/-- PREFETCH (R178). -/
def execDPrefetch (q : BitVec 16) (s : State) : Out := running s (issueMover q.toNat .prefetch)
/-- GATHER (R171). -/
def execDGather (q : BitVec 16) (s : State) : Out := running s (issueCompute q.toNat fun d => dOp d == .gather)
/-- SCATTER (R171). -/
def execDScatter (q : BitVec 16) (s : State) : Out := running s (issueCompute q.toNat fun d => dOp d == .scatter)
/-- MATMUL (R99). -/
def execDMatmul (q : BitVec 16) (s : State) : Out := running s (issueCompute q.toNat fun d => dOp d == .matmul)
/-- MATVEC (R114). -/
def execDMatvec (q : BitVec 16) (s : State) : Out := running s (issueCompute q.toNat fun d => dOp d == .matvec)
/-- CONV (R116). -/
def execDConv (q : BitVec 16) (s : State) : Out := running s (issueCompute q.toNat fun d => dOp d == .conv)
/-- CONVW (R117). -/
def execDConvw (q : BitVec 16) (s : State) : Out := running s (issueCompute q.toNat fun d => dOp d == .convw)
/-- DWCONV (R120). -/
def execDDwconv (q : BitVec 16) (s : State) : Out := running s (issueCompute q.toNat fun d => dOp d == .dwconv)
/-- DIST (R97). -/
def execDDist (q : BitVec 16) (s : State) : Out := running s (issueCompute q.toNat fun d => dOp d == .dist)
/-- ELEM (R137). -/
def execDElem (q : BitVec 16) (s : State) : Out := running s (issueCompute q.toNat fun d => dOp d == .elem && !dPload d)
/-- PLOAD (R124). -/
def execDPload (q : BitVec 16) (s : State) : Out := running s (issueCompute q.toNat dIsPload)
/-- REDUCE (R151). -/
def execDReduce (q : BitVec 16) (s : State) : Out := running s (issueCompute q.toNat fun d => dOp d == .reduce)
/-- ATTN (R211). -/
def execDAttn (q : BitVec 16) (s : State) : Out := running s (issueCompute q.toNat fun d => dOp d == .attn)

/-! ### Units -/

/-- AHEAD_REQUEST (R195). -/
def execAheadRequest (core : Fin 16) (s : State) : Out := running s (aheadRequest core.val)
/-- LOCAL_STEAL (R195). -/
def execLocalSteal (core : Fin 16) (s : State) : Out := running s (localSteal core.val)
/-- REMOTE_STEAL (R195). -/
def execRemoteSteal (core : Fin 16) (victim : Fin 4) (s : State) : Out := running s (remoteSteal core.val victim.val)
/-- TILE_DRAIN (R104). -/
def execTileDrain (core : Fin 16) (bank : Fin 2) (s : State) : Out := running s (tileDrain core.val (bank == 1))
/-- ELEM_BATCH (R137). -/
def execElemBatch (core : Fin 16) (s : State) : Out := running s (elemStep core.val)
/-- WIDEN_RERUN (R89). -/
def execWidenRerun (part : Fin 16) (s : State) : Out := running s (widenRerun part.val)
/-- DESCRIPTOR_FINISH (R193). -/
def execDescriptorFinish (part : Fin 16) (slot : Fin 3) (s : State) : Out := running s (finishSlot part.val slot)
/-- DESCRIPTOR_COMPLETE (R193). -/
def execDescriptorComplete (q : BitVec 16) (s : State) : Out := running s (completeDesc q.toNat)
/-- WAIT_TIMEOUT (R200). -/
def execWaitTimeout (q : BitVec 16) (s : State) : Out := running s (waitTimeout q.toNat)
/-- PARTITION_STALL (R202). -/
def execPartitionStall (part : Fin 16) (s : State) : Out := running s (partStall part.val)

/-! ### The attention ring -/

/-- ATTN_BLOCK_READ (R217). -/
def execAttnBlockRead (hearth : Fin 4) (s : State) : Out := running s (attnBlockRead hearth.val)
/-- ATTN_BLOCK_ARRIVE (R217). -/
def execAttnBlockArrive (hearth : Fin 4) (s : State) : Out := running s (attnBlockArrive hearth.val)
/-- ATTN_BLOCK_ABSORB (R220). -/
def execAttnBlockAbsorb (core : Fin 16) (s : State) : Out := running s (attnBlockAbsorb core.val)
/-- ATTN_MERGE (R222). -/
def execAttnMerge (core : Fin 16) (s : State) : Out := running s (attnMerge core.val)

end Sys2Proof.Machine
end

