-- ==== Sys2Proof/Machine/Pool.lean ====
section
/-!
DEFINITION. The frame buffer pool and what every stream has (R235 to R237, R244 to R250): open parameter blocks, pool descriptors and
marks, reservation and return, record rings, and status blocks.
-/
namespace Sys2Proof.Machine

/-! ### Open parameter blocks (R235) -/

def pStd (p : List Byte) : Nat := nbits (leAt p 0 1) 1 0
def pTen (p : List Byte) : Bool := nbit (leAt p 0 1) 2
def pLevel (p : List Byte) : Nat := leAt p 1 1
def pPart (p : List Byte) : Nat := nbits (leAt p 2 1) 3 0
def pPipes (p : List Byte) : Nat := nbits (leAt p 2 1) 6 4
def pDpb (p : List Byte) : Nat := nbits (leAt p 3 1) 4 0
def pMaxW (p : List Byte) : Nat := leAt p 4 2
def pMaxH (p : List Byte) : Nat := leAt p 6 2
def pOutDepth (p : List Byte) : Nat := nbits (leAt p 8 1) 4 0
def pHold (p : List Byte) : Nat := nbits (leAt p 9 1) 4 0
def pSegCount (p : List Byte) : Nat := nbits (leAt p 10 1) 6 0
def pSegLog (p : List Byte) : Nat := nbits (leAt p 11 1) 4 0
def pMaxAu (p : List Byte) : Nat := leAt p 12 2 * 1024
def pSynChunks (p : List Byte) : Nat := nbits (leAt p 14 2) 10 0
def pBsBase (p : List Byte) : Nat := nbits (leAt p 16 8) 39 12 * 4096
/-- A record ring field: OUT at byte 24, ANA at byte 32. -/
def pRing (p : List Byte) (ana : Bool) : Nat := leAt p (if ana then 32 else 24) 8
def rEn (r : Nat) : Bool := nbit r 0
def rHost (r : Nat) : Bool := nbit r 1
def rLog (r : Nat) : Nat := nbits r 5 2
def rBase (r : Nat) : Nat := nbits r 63 12 * 4096
def pMap (p : List Byte) : Nat := leAt p 40 8
def pMapEn (p : List Byte) : Bool := nbit (pMap p) 0
def pMapDepth (p : List Byte) : Nat := nbits (pMap p) 6 1 + 1
def pMapBase (p : List Byte) : Nat := nbits (pMap p) 39 12 * 4096
def pAnaSem (p : List Byte) : Nat := leAt p 48 2
def pMapSem (p : List Byte) : Nat := leAt p 50 2
def pStat (p : List Byte) : Nat := leAt p 52 8
def pRecon (p : List Byte) : Nat := nbits (leAt p 60 1) 1 0
def pReconN (p : List Byte) : Nat := leAt p 61 1
def pMotion (p : List Byte) : Nat := leAt p 64 4
def pQt (p : List Byte) : Nat := nbits (leAt p 68 1) 5 0
def pGop (p : List Byte) : Nat := leAt p 70 2
def pRate (p : List Byte) : Nat := leAt p 72 4
def pBucket (p : List Byte) : Nat := leAt p 76 4
def pFpsNum (p : List Byte) : Nat := leAt p 80 2
def pFpsDen (p : List Byte) : Nat := leAt p 82 2
/-- Bytes of the bitstream ring. -/
def pBsSize (p : List Byte) : Nat := pSegCount p * 2 ^ pSegLog p

/-- Bytes lo to hi of a block are zero. -/
def zeros (p : List Byte) (lo hi : Nat) : Bool := leAt p lo (hi + 1 - lo) == 0

/-- MEDIA_SP0 and MEDIA_SP1 as the open block sets them (R243). -/
def openSp0 (p : List Byte) : W64 := BitVec.ofNat 64 (pRecon p + pReconN p * 2 ^ 8 + pQt p * 2 ^ 16 + pMotion p * 2 ^ 32)
def openSp1 (p : List Byte) : W64 := BitVec.ofNat 64 (pRate p + pBucket p * 2 ^ 32)

/-! ### Levels of the standards (R230, R246; log 24: PRESUMED, the standards' level tables) -/

/-- H.264: largest frame in macroblocks and largest DPB in macroblocks, by level_idc. -/
def avcLevel : Nat → Option (Nat × Nat)
  | 9 => some (99, 396)
  | 10 => some (99, 396)
  | 11 => some (396, 900)
  | 12 => some (396, 2376)
  | 13 => some (396, 2376)
  | 20 => some (396, 2376)
  | 21 => some (792, 4752)
  | 22 => some (1620, 8100)
  | 30 => some (1620, 8100)
  | 31 => some (3600, 18000)
  | 32 => some (5120, 20480)
  | 40 => some (8192, 32768)
  | 41 => some (8192, 32768)
  | 42 => some (8704, 34816)
  | 50 => some (22080, 110400)
  | 51 => some (36864, 184320)
  | 52 => some (36864, 184320)
  | _ => none

/-- HEVC: MaxLumaPs by level_idc. -/
def hevcLevel : Nat → Option Nat
  | 30 => some 36864
  | 60 => some 122880
  | 63 => some 245760
  | 90 => some 552960
  | 93 => some 983040
  | 120 => some 2228224
  | 123 => some 2228224
  | 150 => some 8912896
  | 153 => some 8912896
  | 156 => some 8912896
  | 180 => some 35651584
  | 183 => some 35651584
  | _ => none

/-- AV1: MaxPicSize by seq_level_idx. -/
def av1Level : Nat → Option Nat
  | 0 => some 147456
  | 1 => some 278784
  | 4 => some 665856
  | 5 => some 1065024
  | 8 => some 2359296
  | 9 => some 2359296
  | 12 => some 8912896
  | 13 => some 8912896
  | 14 => some 8912896
  | 15 => some 8912896
  | 16 => some 35651584
  | _ => none

/-- The largest picture of a level in luma samples, when R230 lists the level. -/
def levelSamples (std level : Nat) : Option Nat :=
  match std with
  | 0 => (avcLevel level).map fun x => x.1 * 256
  | 1 => hevcLevel level
  | 2 => av1Level level
  | _ => none

/-- The level maximum of DPB_DECL (R246). -/
def dpbMax (std level w h : Nat) : Nat :=
  match std with
  | 0 => match avcLevel level with
    | some (_, m) => min (m / max 1 (cdiv w 16 * cdiv h 16)) 16 + 1
    | none => 0
  | 1 => match hevcLevel level with
    | some ps => if 4 * (w * h) ≤ ps then 16 else if 2 * (w * h) ≤ ps then 12 else if 4 * (w * h) ≤ 3 * ps then 8 else 6
    | none => 0
  | _ => 9

/-- S of R233, the largest syntax of a frame, for a picture size and an access unit of `au` bytes; 1.25 AU rounded up. -/
def synBound (w h au : Nat) : Nat := 8 * (cdiv w 16 * cdiv h 16) + cdiv (5 * au) 4 + 4096

/-! ### The checks of R235 and R236 -/

/-- A ring field that is enabled has LOG2 4 to 12; reserved bits are zero. -/
def ringBad (r : Nat) (ana : Bool) : Bool :=
  nbits r 11 6 != 0 || (ana && rHost r) || (rEn r && !(decide (4 ≤ rLog r) && decide (rLog r ≤ 12)))

/-- Fields that every kind of stream checks: sizes, depths, rings and semaphores. -/
def commonBad (p : List Byte) : Bool :=
  let w := pMaxW p
  let h := pMaxH p
  decide (w < 16 ∨ h < 16 ∨ w % 2 ≠ 0 ∨ h % 2 ≠ 0) || nbits (leAt p 0 1) 7 3 != 0 || nbit (leAt p 2 1) 7 ||
    nbits (leAt p 3 1) 7 5 != 0 ||
    decide (16 < leAt p 8 1 ∨ 16 < leAt p 9 1) || ringBad (pRing p false) false || ringBad (pRing p true) true ||
    nbit (pAnaSem p) 15 || nbit (pMapSem p) 15 || nbits (pStat p) 5 2 != 0 ||
    !zeros p 62 63 || !zeros p 69 69 || !zeros p 84 127

/-- What OPEN asks of the quotas of the rings in use (R236, R249). -/
def quotaBad (p : List Byte) : Bool :=
    (rEn (pRing p false) && (pOutDepth p == 0 || decide (2 ^ rLog (pRing p false) < pOutDepth p))) ||
    (rEn (pRing p true) && (pHold p == 0 || decide (2 ^ rLog (pRing p true) < pHold p)))

/-- The bitstream ring. -/
def bsBad (p : List Byte) : Bool :=
  nbit (leAt p 10 1) 7 || decide (pSegCount p < 2 ∨ 64 < pSegCount p) || nbits (leAt p 11 1) 7 5 != 0 ||
    decide (pSegLog p < 12 ∨ 20 < pSegLog p) || nbits (leAt p 16 8) 11 0 != 0 || nbits (leAt p 16 8) 63 40 != 0

/-- The size fits the level and R230. -/
def sizeBad (p : List Byte) (w h : Nat) : Bool :=
  decide (w < pMaxW p ∨ h < pMaxH p) || (match levelSamples (pStd p) (pLevel p) with
    | some m => decide (m < pMaxW p * pMaxH p)
    | none => true)

/-- Fields of a decode open. -/
def decodeBad (p : List Byte) : Bool :=
  let lim : Nat × Nat := if pStd p = 0 then (4096, 2304) else (8192, 4320)
  commonBad p || quotaBad p || bsBad p || pStd p == 3 || sizeBad p lim.1 lim.2 || decide (pPipes p < 1 ∨ 4 < pPipes p) ||
    decide (pDpb p < 1 ∨ 17 < pDpb p) || decide (dpbMax (pStd p) (pLevel p) (pMaxW p) (pMaxH p) < pDpb p) ||
    decide (pMaxAu p = 0) || nbits (leAt p 14 2) 15 11 != 0 || decide (pSynChunks p < 1 ∨ 1024 < pSynChunks p) ||
    nbits (pMap p) 11 7 != 0 || nbits (pMap p) 63 40 != 0 || nbits (leAt p 60 1) 7 2 != 0 || (pRecon p == 1 && pReconN p == 0) ||
    decide (pSynChunks p * 65536 < synBound (pMaxW p) (pMaxH p) (pMaxAu p)) || !zeros p 68 68 || !zeros p 70 83

/-- Fields of an encode open. -/
def encodeBad (p : List Byte) : Bool :=
  commonBad p || quotaBad p || bsBad p || decide (1 < pStd p) || (pStd p == 0 && pTen p) || sizeBad p 4096 2304 || pPipes p != 1 ||
    decide (pMaxW p < 64 ∨ pMaxH p < 64) || !zeros p 3 3 || !zeros p 12 15 || !zeros p 40 47 || !zeros p 60 61 || !zeros p 64 67 ||
    nbits (leAt p 68 1) 7 6 != 0 || decide (51 < pQt p) || decide (pFpsNum p = 0 ∨ pFpsDen p = 0)

/-! ### Pool descriptors (R244, R245, R247) -/

def State.stream? (s : State) (h : Nat) : Option Stream := tfind s.media.streams h
def State.putStream (s : State) (h : Nat) (x : Stream) : State := { s with media := { s.media with streams := tput s.media.streams h x } }
def State.modStream (s : State) (h : Nat) (f : Stream → Stream) : State :=
  match s.stream? h with
  | some x => s.putStream h (f x)
  | none => s
def State.modDec (s : State) (h : Nat) (f : Dec → Dec) : State := s.modStream h fun x => { x with dec := f x.dec }
def State.modEnc (s : State) (h : Nat) (f : Enc → Enc) : State := s.modStream h fun x => { x with enc := f x.enc }
def State.buf? (s : State) (b : Nat) : Option Buf := tfind s.media.pool b
def State.modBuf (s : State) (b : Nat) (f : Buf → Buf) : State :=
  match s.buf? b with
  | some x => { s with media := { s.media with pool := tput s.media.pool b (f x) } }
  | none => s

def mkShort : Nat := 0
def mkLong : Nat := 1
def mkOut : Nat := 2
def mkHold : Nat := 3
def mkEnc : Nat := 4
def mkMirror : Nat := 5

def Buf.has (b : Buf) (m : Nat) : Bool := b.marks.toNat.testBit m
def Buf.mark (b : Buf) (m : Nat) (v : Bool) : Buf := { b with marks := BitVec.ofNat 8 (nput b.marks.toNat m m v.toNat) }
/-- The buffer is on its stream's free list. -/
def Buf.idle (b : Buf) : Bool := b.marks == 0 && !b.taken && !b.segment

/-- The descriptors of a stream. -/
def State.bufsOf (s : State) (h : Nat) : List (Nat × Buf) := s.media.pool.filter fun x => x.2.owner == h

/-- The buffer is a free frame buffer of a stream. -/
def State.freeBuf (s : State) (h b : Nat) : Bool :=
  match s.buf? b with
  | some x => x.owner == h && x.idle
  | none => false

/-- The lowest-numbered free frame buffer of a stream. -/
def State.anyFree (s : State) (h : Nat) : Option Nat := ((s.bufsOf h).find? fun x => x.2.idle).map (·.1)

/-- Descriptors of a handle that is not open return to the global free list when their marks clear. -/
def reclaim (s : State) (h : Nat) : State :=
  if (s.stream? h).isSome then s
  else
    let pool := s.media.pool.filter fun x => !(x.2.owner == h && x.2.marks == 0 && !x.2.taken)
    { s with media := { s.media with
      pool := pool
      closed := if pool.any fun x => x.2.owner == h then s.media.closed else terase s.media.closed h } }

/-- Sets or clears a mark. -/
def setMark (b m : Nat) (v : Bool) (s : State) : State :=
  match s.buf? b with
  | some x => let s := s.modBuf b fun x => x.mark m v; if v then s else reclaim s x.owner
  | none => s

/-- The lowest descriptor index from `k` up that is not reserved. -/
def freeIdx (t : Tab Buf) : Nat → Nat → Nat
  | 0, k => k
  | f + 1, k => if (tfind t k).isSome then freeIdx t f (k + 1) else k

/-- Granules that a frame buffer starts at, when `g` of them are free together: the lowest (log 8). -/
def fitGran (a : Areas) (t : Tab Buf) (g : Nat) : Option Nat :=
  let used := (t.filter fun x => !x.2.segment).map fun x => ((x.2.addr - a.poolBase) / 65536, x.2.grans)
  let ok := fun st => decide (st + g ≤ a.poolGran) && used.all fun u => decide (st + g ≤ u.1) || decide (u.1 + u.2 ≤ st)
  (0 :: used.map fun u => u.1 + u.2).foldl (fun best st =>
    if ok st then (match best with
      | some b => some (min b st)
      | none => some st)
    else best) none

/-- `n` frame buffers of the granules of a pattern for a stream; none when the pool cannot supply them. -/
def takeFrames (a : Areas) (pat : Buf) : Nat → Tab Buf → Option (Tab Buf)
  | 0, t => some t
  | n + 1, t =>
    match fitGran a t pat.grans with
    | none => none
    | some st => takeFrames a pat n (tput t (freeIdx t t.length 0) { pat with addr := a.poolBase + st * 65536 })

/-- Segment descriptors of a bitstream ring. -/
def takeSegs (h part base size : Nat) : Nat → Tab Buf → Tab Buf
  | 0, t => t
  | n + 1, t =>
    let t := takeSegs h part base size n t
    tput t (freeIdx t t.length 0) { owner := h, part := part, segment := true, addr := base + n * size, grans := 0 }

/-- Luma pitch and plane height of a stream's buffers (R244). -/
def pitchOf (p : List Byte) : Nat := alignUp (pMaxW p * (if pTen p then 2 else 1)) 256
def planeH (p : List Byte) : Nat := alignUp (pMaxH p) 64
/-- Granules of `bytes` bytes. -/
def granules (bytes : Nat) : Nat := cdiv bytes 65536
/-- A frame buffer of R244. -/
def framePat (h : Nat) (p : List Byte) : Buf :=
  { owner := h, part := pPart p, segment := false, addr := 0, grans := granules (pitchOf p * planeH p + pitchOf p * (planeH p / 2))
    pitch := pitchOf p, lines := planeH p, wide := pTen p }

/-- Syntax chunks reserved by open streams. -/
def synUsed (s : State) : Nat := (s.media.streams.map fun x => if x.2.kind = .decode then pSynChunks x.2.par else 0).sum

/-- Reservation of frame buffers, segments and syntax chunks (R247): the pool, or the result code of R237. -/
def reserve (s : State) (frames : Nat) (pat : Buf) (segs syn : Nat) (p : List Byte) : Except Nat (Tab Buf) :=
  match s.media.areas with
  | none => .error 4
  | some a =>
    if 16384 < s.media.pool.length + frames + segs then .error 3
    else
      match takeFrames a pat frames s.media.pool with
      | none => .error 4
      | some t => if a.synChunks < synUsed s + syn then .error 5 else .ok (takeSegs pat.owner pat.part (pBsBase p) (2 ^ pSegLog p) segs t)

/-- The handle is in use, or buffers of an earlier use still carry marks (NO_HANDLE). -/
def handleBusy (s : State) (h : Nat) : Bool := (s.stream? h).isSome || !(s.bufsOf h).isEmpty

/-! ### Status blocks (R250) -/

/-- A counter of the status block raised by `n`, saturating. -/
def count (h off n : Nat) (s : State) : State :=
  s.modStream h fun x => { x with cnt := tset 0 x.cnt off (satAdd 32 (tget 0 x.cnt off) n) }

/-- What the status block holds at a word that is no plain counter. -/
def statWord (x : Stream) (off : Nat) : Nat :=
  match x.kind, off with
  | _, 0 => x.st
  | .decode, 4 => x.dec.num.toNat
  | .decode, 8 => x.dec.cons.toNat
  | .encode, 8 => x.enc.produced.toNat
  | .encode, 24 => min x.enc.fill (2 ^ 32 - 1)
  | .encode, 28 => x.enc.off
  | _, k => tget 0 x.cnt k

/-- Writes the 128-byte status block. -/
def writeStat (h : Nat) (s : State) : State :=
  match s.stream? h with
  | none => s
  | some x =>
    let r := pStat x.par
    if nbit r 0 then spaceWrite s (rHost r) (nbits r 63 6 * 64) ((List.range 32).flatMap fun k => leBytes 4 (statWord x (4 * k)))
    else s

/-! ### Record rings (R249) -/

/-- A record to a stream's OUT or ANA ring, at its producer index. -/
def ringPut (h : Nat) (ana : Bool) (bs : List Byte) (s : State) : State :=
  match s.stream? h with
  | none => s
  | some x =>
    let r := pRing x.par ana
    let pi := if ana then x.anaPi else x.outPi
    let s := spaceWrite s (rHost r) (rBase r + pi.toNat % 2 ^ rLog r * 32) bs
    s.modStream h fun x => if ana then { x with anaPi := pi + 1 } else { x with outPi := pi + 1 }

/-- The ring's producer index is written; its address is open (log 18). -/
def ringIndex (h : Nat) (ana : Bool) (s : State) : State :=
  match s.stream? h with
  | none => s
  | some x =>
    let r := pRing x.par ana
    spaceWrite s (rHost r) (Config.ringPi (rBase r) (2 ^ rLog r)) (leBytes 4 (if ana then x.anaPi else x.outPi).toNat)

/-- The 32-byte output record (R249, R273). -/
def outRecord (num buf flags w h pitch handle : Nat) (arrival : W64) (addr h64 layout : Nat) : List Byte :=
  leBytes 4 num ++ leBytes 2 buf ++ leBytes 2 flags ++ leBytes 2 w ++ leBytes 2 h ++ leBytes 2 pitch ++ leBytes 2 handle ++
    leBytes 8 arrival.toNat ++ leBytes 5 addr ++ leBytes 2 h64 ++ leBytes 1 layout

/-- A semaphore field with its enable bit: 1 is added. -/
def semField (f : Nat) (s : State) : State := if nbit f 14 then semUpdate s (nbits f 13 0) false 1 else s

/-- Steps 1 to 3 of R249 for a buffer of a stream with a record. -/
def emitFrame (h b : Nat) (rec : List Byte) (s : State) : State :=
  match s.stream? h with
  | none => s
  | some x =>
    let out := rEn (pRing x.par false)
    let ana := rEn (pRing x.par true)
    let s := if out then ringPut h false rec s else setMark b mkOut false s
    let s := if ana then semField (pAnaSem x.par) (ringPut h true rec (setMark b mkHold true s)) else s
    let s := if out then ringIndex h false s else s
    if ana then ringIndex h true s else s

/-! ### Access to a ring of bytes -/

/-- `n` bytes of a bitstream or record ring of `size` bytes from a free-running index. -/
def ringRead (s : State) (base size : Nat) (i : W32) (n : Nat) : State × List Byte × Option Nat :=
  let o := i.toNat % size
  let m := min n (size - o)
  let (s, a, p) := engRead s (base + o) m
  if m = n then (s, a, p)
  else
    let (s, b, q) := engRead s base (n - m)
    (s, a ++ b, match p with
      | some k => some k
      | none => q)

/-- Bytes stored in a ring of `size` bytes from a free-running index. -/
def ringStore (s : State) (base size : Nat) (i : W32) (bs : List Byte) : State :=
  let o := i.toNat % size
  let m := min bs.length (size - o)
  let s := engWrite s (base + o) (bs.take m)
  if m = bs.length then s else engWrite s base (bs.drop m)

/-- A function may act on a stream: its PART is the function's partition. -/
def mayStream (s : State) (fn : Fn) (x : Stream) : Bool := s.mayPart fn (pPart x.par)

/-- Ascending keys from after `last`, wrapping round: the first that qualifies is served next. -/
def nextInTurn (last : Nat) (ids : List Nat) : Option Nat := (rotateAfter last ids).head?

end Sys2Proof.Machine
end

