-- ==== Sys2Proof/Machine/TwinTx.lean ====
section
/-!
DEFINITION. Sending on the twin link (R449 to R451, R455): sequence numbers, the replay buffer, and the flits that carry a mirrored
stream.
-/
namespace Sys2Proof.Machine

/-- The pair is formed (REL_TWIN.STATE). -/
def State.paired (s : State) : Bool := s.fld Reg.relTwin 1 0 == 2
/-- This device is the primary, or the secondary, of a pair. -/
def State.primary (s : State) : Bool := s.paired && s.fld Reg.relTwin 3 2 == 1
def State.secondary (s : State) : Bool := s.paired && s.fld Reg.relTwin 3 2 == 2

/-- The 128 bytes of a flit (R449): its header with LEN, its payload, and the CRC32C of bytes 0 to 123. -/
def Flit.image (f : Flit) : List Byte :=
  let body := leBytes 1 f.typ ++ leBytes 1 f.cont.toNat ++ leBytes 2 f.seq.toNat ++ leBytes 2 f.ack.toNat ++ leBytes 2 f.payload.length ++
    padTo 116 f.payload
  body ++ leBytes 4 (crc32c body)

/-- A flit takes its sequence number and a place in the replay buffer, and leaves; its LEN bytes are counted (R460). -/
def sendFlit (f : Flit) (s : State) : State :=
  let t := s.twin
  let f := { f with seq := t.txSeq, ack := t.rxSeq }
  let since := if t.replay.isEmpty then s.clock.timeF else t.ackAt
  bump { s with twin := { t with replay := t.replay ++ [f], txSeq := t.txSeq + 1, lane := f.image, ackAt := since } } 91 f.payload.length

/-- Waiting flits take room in the replay buffer of 512 and are sent. -/
def pumpFlits : Nat → State → State
  | 0, s => s
  | n + 1, s =>
    match s.twin.waiting with
    | [] => s
    | f :: fs => if s.twin.replay.length < 512 then pumpFlits n (sendFlit f { s with twin := { s.twin with waiting := fs } }) else s

/-- Flits that wait are sent, unless Snuff holds them (R468). -/
def pumpAll (s : State) : State := if s.stopped then s else pumpFlits s.twin.waiting.length s

/-- A sequenced flit to the partner. -/
def twinSend (typ : Nat) (cont : Bool) (payload : List Byte) (s : State) : State :=
  pumpAll { s with twin := { s.twin with waiting := s.twin.waiting ++ [{ typ := typ, cont := cont, payload := payload }] } }

/-- Handle and two zero bytes. -/
def flitHead (h : Nat) : List Byte := leBytes 2 h ++ leBytes 2 0

/-- OPEN: the open parameter block in two flits. -/
def sendOpen (h : Nat) (par : List Byte) (s : State) : State :=
  twinSend 0x10 false (flitHead h ++ par.drop 112) (twinSend 0x10 true (flitHead h ++ par.take 112) s)

/-- BITS: at most 108 bytes of the stream in each flit. -/
def sendBits (h : Nat) : Nat → W32 → List Byte → State → State
  | 0, _, _, s => s
  | f + 1, i, bs, s =>
    match bs with
    | [] => s
    | b :: t => sendBits h f (i + 108) ((b :: t).drop 108)
        (twinSend 0x11 false (flitHead h ++ leBytes 4 i.toNat ++ (b :: t).take 108) s)

/-- POS: an access unit's start. -/
def sendPos (h : Nat) (rap : Bool) (num start : W32) (s : State) : State :=
  twinSend 0x12 false (leBytes 2 h ++ leBytes 2 rap.toNat ++ leBytes 4 num.toNat ++ leBytes 4 start.toNat) s

/-- TRACK: a context image. -/
def sendTrack (h ctx : Nat) (img : List Byte) (s : State) : State := twinSend 0x13 false (flitHead h ++ leBytes 4 ctx ++ img) s

/-- COMMIT: a frame's metadata sequence. -/
def sendCommit (h : Nat) (frameSeq metaSeq nextId fin : W32) (arrival : W64) (s : State) : State :=
  twinSend 0x14 false (flitHead h ++ leBytes 4 frameSeq.toNat ++ leBytes 4 metaSeq.toNat ++ leBytes 4 nextId.toNat ++
    leBytes 4 fin.toNat ++ leBytes 8 arrival.toNat) s

/-- CLOSE. -/
def sendClose (h : Nat) (s : State) : State := twinSend 0x15 false (leBytes 2 h) s

/-- ACKF: 0 stored, 1 no mirror space. -/
def sendAckf (h status : Nat) (metaSeq : W32) (s : State) : State :=
  twinSend 0x20 false (leBytes 2 h ++ leBytes 2 status ++ leBytes 4 metaSeq.toNat) s

end Sys2Proof.Machine
end

