-- ==== Sys2Proof/Machine/Media.lean ====
section
/-!
DEFINITION. Video decode (R233, R234, R238 to R258): bitstream input, access units on bit engines, coding maps, the decision on
non-reference frames, reconstruction, and emission. What the video standards decide comes as an operand (log 7).
-/
namespace Sys2Proof.Machine

/-! ### Bitstream input (R238 to R240) -/

/-- Where the complete access units known so far end. -/
def Dec.known (d : Dec) : W32 :=
  match d.units.getLast? with
  | some (e, _) => e
  | none => match d.parsing with
    | some p => p.fin
    | none => d.pos

/-- Ends of access units that lie in order after the known ones and before the new WRITE. -/
def addEnds (write : W32) (t : W64) : List W32 → Dec → Dec
  | [], d => d
  | e :: es, d =>
    let k := d.known
    if e ≠ k ∧ dist32 e k < dist32 write k then addEnds write t es { d with units := d.units ++ [(e, t)] } else addEnds write t es d

/-- WRITE ends an access unit. -/
def closeUnit (t : W64) (d : Dec) : Dec := if d.write = d.known then d else { d with units := d.units ++ [(d.write, t)] }

/-- The segment descriptor of a byte index. -/
def segOf (s : State) (h : Nat) (x : Stream) (i : W32) : Option (Nat × Buf) :=
  let z := 2 ^ pSegLog x.par
  (s.bufsOf h).find? fun b => b.2.segment && b.2.addr == pBsBase x.par + i.toNat / z % pSegCount x.par * z

/-- BS_CONSUMED advances past segments that are consumed and carry no MIRROR_HOLD. -/
def moveCons (s : State) (h : Nat) (x : Stream) : Nat → W32 → W32
  | 0, c => c
  | f + 1, c =>
    let z := 2 ^ pSegLog x.par
    let held := match segOf s h x c with
      | some b => b.2.has mkMirror
      | none => false
    if z ≤ dist32 x.dec.pos c ∧ !held then moveCons s h x f (c + BitVec.ofNat 32 z) else c

def consume (h : Nat) (s : State) : State :=
  match s.stream? h with
  | none => s
  | some x => s.modDec h fun d => { d with cons := moveCons s h x (pSegCount x.par + 1) d.cons }

/-- Every segment that bytes i to j − 1 fall in takes MIRROR_HOLD. -/
def holdSegs (h : Nat) (x : Stream) (i j : W32) (s : State) : State :=
  let z := 2 ^ pSegLog x.par
  let n := (i.toNat % z + dist32 j i + z - 1) / z
  (List.range (min n (pSegCount x.par))).foldl (fun s k =>
    match segOf s h x (i + BitVec.ofNat 32 (z * k)) with
    | some b => setMark b.1 mkMirror true s
    | none => s) s

/-- The bytes that a doorbell makes available are mirrored (R240, R455). -/
def mirrorInput (h : Nat) (x : Stream) (i j : W32) (s : State) : State :=
  if s.primary && x.dec.mirrored then
    let n := dist32 j i
    let (s, bs, _) := ringRead (holdSegs h x i j s) (pBsBase x.par) (pBsSize x.par) i n
    sendBits h (n / 108 + 1) i bs s
  else s

/-- Everything of a flushed stream has been decoded and emitted: it enters FLUSHED. -/
def settle (h : Nat) (s : State) : State :=
  s.modStream h fun x =>
    let d := x.dec
    if d.flushing && d.units.isEmpty && d.parsing.isNone && d.half.isNone && d.frames.isEmpty && d.due.isEmpty then
      { x with st := 3, dec := { d with flushing := false } }
    else x

/-! ### Coding maps (R251 to R253) -/

/-- Half of an integer, to nearest even (R252). -/
def halfEven (v : Int) : Int := divEven v 2

/-- The bits of a coding unit that go to block `i` of those it covers (R252): its share, and the remainder to the top left one. -/
def shareBits (blocks : List BlockInfo) (unitBits : List Nat) (i unit : Nat) : Nat :=
  let mine := (List.range blocks.length).filter fun j => match blocks[j]? with
    | some b => b.unit == unit
    | none => false
  let v := unitBits.getD unit 0
  v / max 1 mine.length + if mine.head? == some i then v % max 1 mine.length else 0

/-- The map of a picture (R252): a block without syntax is concealed, mode 5 (R257). -/
def mapOf (r : AuResult) : List MapBlock :=
  let n := cdiv r.picW 16 * cdiv r.picH 16
  ((List.range r.blocks.length).zip r.blocks).take n |>.map fun (i, b) =>
    let v := fun (x : BitVec 16) => if b.eighth then halfEven x.toInt else x.toInt
    let mode := if r.lost.contains i then 5 else b.mode.toNat
    if mode = 0 ∨ mode = 5 then ⟨mode, 0, 0, shareBits r.blocks r.unitBits i b.unit⟩
    else ⟨mode, v b.vx, v b.vy, shareBits r.blocks r.unitBits i b.unit⟩

/-- The motion energy of a picture of `b` blocks (R253). -/
def motionEnergy (blocks : List MapBlock) (b : Nat) : W32 :=
  let q := fun (x : MapBlock) => if 1 ≤ x.mode ∧ x.mode ≤ 4 then x.vx.natAbs + x.vy.natAbs else 64
  BitVec.ofNat 32 (p32 (div32 (FVal.ofDy ⟨((blocks.map q).sum : Nat), -2⟩) (FVal.ofInt b)))

/-- Block (row, column) of a picture `wb` blocks across and `hb` down; nothing beyond. -/
def blockAt (blocks : List MapBlock) (wb hb row col : Nat) : Option MapBlock :=
  if row < hb ∧ col < wb then blocks[row * wb + col]? else none

/-- A list of `n` entries over the declared blocks, row by row. -/
def mapBytes (par : List Byte) (f : Nat → Nat → List Byte) : List Byte :=
  (List.range (cdiv (pMaxH par) 16)).flatMap fun r => (List.range (cdiv (pMaxW par) 16)).flatMap fun c => f r c

/-- Vector bytes of a block (R252). -/
def vecBytes : Option MapBlock → List Byte
  | some b => leBytes 2 (toPat 16 b.vx) ++ leBytes 2 (toPat 16 b.vy)
  | none => leBytes 4 0

/-- One slot of the map ring (R251). -/
def mapSlot (h : Nat) (par : List Byte) (p : Pic) (picked : Bool) (blocks : List MapBlock) : List Byte :=
  let across := cdiv p.picW 16
  let wb := min across (cdiv (pMaxW par) 16)
  let hb := min (cdiv p.picH 16) (cdiv (pMaxH par) 16)
  let n := cdiv (pMaxW par) 16 * cdiv (pMaxH par) 16
  let at' := fun r c => if c < wb then blockAt blocks across hb r c else none
  padTo 256 (leBytes 4 p.num.toNat ++ leBytes 2 wb ++ leBytes 2 hb ++ leBytes 4 p.energy.toNat ++
    leBytes 2 (p.flags + if picked then 256 else 0) ++ leBytes 2 h ++ leBytes 8 p.arrival.toNat) ++
  padTo (alignUp (4 * n) 256) (mapBytes par fun r c => vecBytes (at' r c)) ++
  padTo (alignUp n 256) (mapBytes par fun r c => leBytes 1 (match at' r c with
    | some b => b.mode
    | none => 0)) ++
  padTo (alignUp (2 * n) 256) (mapBytes par fun r c => leBytes 2 (match at' r c with
    | some b => min b.bits 65535
    | none => 0))

/-- The slot of a frame is written, and MAP_SEM is added to. -/
def writeMap (h : Nat) (par : List Byte) (p : Pic) (picked : Bool) (blocks : List MapBlock) (s : State) : State :=
  if !pMapEn par then s
  else
    let bs := mapSlot h par p picked blocks
    semField (pMapSem par) (engWrite s (pMapBase par + p.num.toNat % pMapDepth par * bs.length) bs)

/-! ### Frames that have been parsed (R231, R254) -/

/-- A non-reference frame is picked by its policy (R254). -/
def policyPick (pol : W64) (c : Nat) (e : W32) : Bool :=
  match nbits pol.toNat 1 0 with
  | 0 => true
  | 1 => decide (nbits pol.toNat 15 8 ≠ 0) && c % nbits pol.toNat 15 8 == 0
  | 2 => flt (f32 (nbits pol.toNat 63 32)) (f32 e.toNat)
  | _ => false

/-- After a takeover the frame serves as a reference only (R459). -/
def Dec.refsOnly (d : Dec) (num : W32) : Bool :=
  match d.refsTo with
  | some n => ahead32 n num
  | none => false

/-- A frame is picked as things stand: a reference, its policy, or a request. -/
def pickedNow (x : Stream) (p : Pic) (refsOnly : Bool) : Bool :=
  p.stage != .undecided || (!refsOnly && (policyPick p.policy p.count p.energy || x.dec.reqs.any fun q => q == none || q == some p.num))

/-- A frame has been parsed whole: its map is written, and it takes its number and its place among the frames. -/
def frameParsed (h : Nat) (f : HalfFrame) (s : State) : State :=
  match s.stream? h with
  | none => s
  | some x =>
    let refsOnly := x.dec.refsOnly f.pic.num
    let s := if refsOnly then s else writeMap h x.par f.pic (pickedNow x f.pic refsOnly) f.map s
    s.modDec h fun d => { d with
      num := f.pic.num + 1
      count := f.pic.count + (if nbit f.pic.flags 0 then 0 else 1)
      frames := d.frames ++ [f.pic]
      raps := if f.rap then d.raps ++ [(f.pic.num, f.start)] else d.raps
      ends := if d.mirrored then d.ends ++ [(f.pic.num, f.fin)] else [] }

/-- A frame that waits for a second field which does not come is whole as it is. -/
def halfParsed (h : Nat) (s : State) : State :=
  match s.stream? h with
  | none => s
  | some x =>
    match x.dec.half with
    | some f => frameParsed h f (s.modDec h fun d => { d with half := none })
    | none => s

/-- Nothing more comes from the input of a stream that flushes: its last frame is whole. -/
def flushHalf (h : Nat) (s : State) : State :=
  match s.stream? h with
  | none => s
  | some x => if x.dec.flushing && x.dec.units.isEmpty && x.dec.parsing.isNone then halfParsed h s else s

/-- The end of input: what is left counts as an access unit, and the stream flushes. -/
def flushStream (h : Nat) (s : State) : State :=
  settle h (flushHalf h (s.modDec h fun d => { closeUnit s.clock.timeF d with flushing := true }))

/-- A decode doorbell (R239); the end of the stream is a frame boundary (R250). -/
def decodeDb (fn : Fn) (h : Nat) (x : Stream) (v : W64) (ends : List W32) (s : State) : State :=
  let d := x.dec
  let w := BitVec.ofNat 32 v.toNat
  if pBsSize x.par < dist32 w d.cons ∨ !ahead32 w d.write then dropCmd s fn (Reg.mediaDb h)
  else
    let t := s.clock.timeF
    let s := mirrorInput h x d.write w s
    let again := decide (w ≠ d.write) && x.st == 3
    let s := s.modStream h fun x =>
      let d := addEnds w t ends x.dec
      let d := { d with write := w, needRap := d.needRap || again }
      { x with st := if again then 1 else x.st, dec := if nbit v.toNat 32 then closeUnit t d else d }
    if nbit v.toNat 33 then writeStat h (flushStream h s) else s

/-! ### Access units on bit engines (R241 to R243, R251 to R256) -/

/-- Syntax ring bytes that a stream's frames hold, a frame that waits for its second field among them. -/
def synHeld (x : Stream) : Nat := (x.dec.frames.map (·.syn)).sum + (x.dec.half.toList.map (·.pic.syn)).sum

/-- S of the next access unit. -/
def nextSyn (x : Stream) (fin : W32) : Nat := synBound (pMaxW x.par) (pMaxH x.par) (min (dist32 fin x.dec.pos) (pMaxAu x.par))

/-- A bit engine may start a stream (R233, R242). -/
def mayParse (x : Stream) : Bool :=
  x.kind == .decode && !x.closing && x.dec.parsing.isNone && (x.dec.frames.head?.all fun p => decide (dist32 x.dec.num p.num ≤ 8)) &&
    (match x.dec.units with
      | (e, _) :: _ => decide (synHeld x + nextSyn x e ≤ pSynChunks x.par * 65536)
      | [] => false)

/-- An engine takes streams round-robin from after the last one it served. -/
def turnOf (s : State) (last : Tab Nat) (engine h : Nat) (ok : Nat → Stream → Bool) : Bool :=
  nextInTurn (tget 1023 last engine) ((s.media.streams.filter fun x => ok x.1 x.2).map (·.1)) == some h

/-- The next accepted set is adopted (R243). -/
def adoptSet (x : Stream) : Stream :=
  match x.pend with
  | some (a, b) => { x with sp0 := a, sp1 := b, pend := none }
  | none => x

/-- AU_PARSE_START: the engine loads the context and begins the oldest complete access unit. -/
def parseStart (h engine : Nat) (s : State) : State :=
  let busy := s.media.streams.any fun x => match x.2.dec.parsing with
    | some p => p.engine == engine
    | none => false
  if busy || !turnOf s s.media.bitLast engine h (fun _ x => mayParse x) then s
  else
    let s := s.modStream h fun x =>
      let x := adoptSet x
      match x.dec.units with
      | (e, t) :: us => { x with dec := { x.dec with units := us, parsing := some ⟨engine, x.dec.pos, e, t, x.sp0⟩ } }
      | [] => x
    { s with media := { s.media with bitLast := tput s.media.bitLast engine h } }

/-- References of a stream are dropped. -/
def dropRefs (h : Nat) (s : State) : State :=
  (s.bufsOf h).foldl (fun s b => setMark b.1 mkShort false (setMark b.1 mkLong false s)) s

/-- SEQ_EXCEEDS_CONTEXT and DPB_OVERRUN: the stream waits for a random-access point (R256). -/
def exceedContext (h : Nat) (log : Bool) (s : State) : State :=
  let s := dropRefs h s
  let s := s.modStream h fun x => { x with st := 2, dec := { x.dec with needRap := true } }
  if log then reportUnnamed (count h 20 1 s) 0x05 0 h 0 0 else count h 40 1 s

/-- The DPB need of a sequence header (R256): what it states, in H.264 one more, or the level maximum without VUI; 9 in AV1. -/
def dpbNeed (std : Nat) (q : SeqHeader) : Nat :=
  if std = 2 then 9
  else match q.buffering with
    | some n => if std = 0 then n + 1 else n
    | none => dpbMax std q.level q.picW q.picH

/-- A sequence header exceeds what the stream declared. -/
def seqExceeds (par : List Byte) (q : SeqHeader) : Bool :=
  decide (pMaxW par < q.picW ∨ pMaxH par < q.picH ∨ pDpb par < dpbNeed (pStd par) q) || (q.ten && !pTen par) || q.unsupported

/-- A poisoned granule that a media engine has read: logged, and counted at a word of the status block (R258). A transfer that the link has failed
is over with it (R33). -/
def mediaPoison (h off : Nat) (ks : List Nat) (s : State) : State :=
  ks.foldl (fun s k => count h off 1 (reportUnnamed (if tget false s.poison k then errUncorrectable s k else s.lostTaken false k 1) 0x05 1 k
    (k / 2 ^ 32) 0)) s

/-- A media engine reads a range: every poisoned granule in it is such an event. -/
def mediaRead (h off : Nat) (a n : Nat) (s : State) : State × Bool :=
  if s.rangePlace a n = .none then (s, false)
  else
    let ks := s.poisonsIn a n
    let ks := ks ++ (s.lostsIn false a n).filter fun k => !ks.contains k
    (mediaPoison h off ks ((countAccess .mantel false s a n).lostTaken false a n), !ks.isEmpty)

/-- The access unit from byte index `i` is read from its ring. -/
def unitRead (h : Nat) (par : List Byte) (i : W32) (n : Nat) (s : State) : State × Bool :=
  let z := pBsSize par
  let o := i.toNat % z
  let m := min n (z - o)
  let (s, p) := mediaRead h 48 (pBsBase par + o) m s
  if m = n then (s, p)
  else
    let (s, q) := mediaRead h 48 (pBsBase par) (n - m) s
    (s, p || q)

/-- The sectors among those named whose read is poisoned. -/
def State.poisonedAmong (s : State) (ks : List Nat) : List Nat := ks.filter fun k => (s.badIn k 1).isSome

/-- A parsed frame with what the parser found. -/
def newPic (x : Stream) (p : Parsing) (r : AuResult) (concealed : Bool) : Pic :=
  let d := x.dec
  let map := mapOf r
  let bad := (List.range map.length).filter fun i => (map[i]?.map (·.mode)) == some 5
  { num := d.num
    flags := (if r.reference then 1 else 0) + (if concealed || !bad.isEmpty then 2 else 0) + (if r.filmGrain then 4 else 0) +
      (if r.fieldPair then 8 else 0) + (if pTen x.par then 16 else 0) + (if r.rap then 32 else 0)
    picW := r.picW
    picH := r.picH
    arrival := p.arrival
    policy := p.policy
    energy := motionEnergy map (cdiv r.picW 16 * cdiv r.picH 16)
    count := if r.rap then 0 else d.count
    syn := min r.syntaxBytes (nextSyn x p.fin)
    shown := r.shown && !d.refsOnly d.num
    order := r.order
    lost := bad
    stage := if r.reference then .chosen else .undecided }

/-- The second field joins the frame of the first: one frame of both, with FIELD_PAIR, its map that of the whole frame (R231). -/
def HalfFrame.join (f g : HalfFrame) : HalfFrame :=
  let p := f.pic
  let q := g.pic
  { pic := { p with flags := (p.flags ||| q.flags ||| 8), energy := q.energy, syn := p.syn + q.syn, shown := p.shown || q.shown
                    order := min p.order q.order, lost := q.lost
                    stage := if p.stage == .chosen || q.stage == .chosen then .chosen else .undecided }
    map := g.map
    rap := f.rap
    start := f.start
    fin := g.fin }

/-- The start of an access unit goes to the partner of a mirrored stream, from its first random-access point on (R455). -/
def unitPos (h : Nat) (rap : Bool) (start : W32) (s : State) : State :=
  match s.stream? h with
  | none => s
  | some x =>
    if s.primary && x.dec.mirrored && (x.dec.rapSeen || rap) then
      sendPos h rap x.dec.num start (s.modDec h fun d => { d with rapSeen := true })
    else s

/-- The picture of an access unit: a frame, the first field of one, or the second field of the frame that waits for it. -/
def pictureParsed (h : Nat) (f : HalfFrame) (r : AuResult) (s : State) : State :=
  let s := unitPos h f.rap f.start s
  match s.stream? h with
  | none => s
  | some x =>
    match x.dec.half with
    | some g => frameParsed h (g.join f) (s.modDec h fun d => { d with half := none })
    | none => if r.firstField then s.modDec h fun d => { d with half := some f } else frameParsed h f s

/-- The row of R256, from the fourth on, that a picture meets first: the counter's byte and what is added; 0 for none. -/
def pictureRow (par : List Byte) (p : Parsing) (r : AuResult) (ecc : Bool) : Nat × Nat :=
  if pMaxAu par < dist32 p.fin p.start then (28, 1)
  else if r.truncated then (24, 1)
  else if r.badSlices + ecc.toNat ≠ 0 then (32, r.badSlices + ecc.toNat)
  else if r.missingRefs ≠ 0 then (36, r.missingRefs)
  else if pDpb par < r.dpbNeed then (40, 1)
  else (0, 0)

/-- The access unit ends with a picture: the row that it meets, and its place among the frames. A frame that waits for its second field is whole when
another picture comes. -/
def parsePicture (h : Nat) (p : Parsing) (r : AuResult) (ecc : Bool) (s : State) : State :=
  let s := if r.secondField then s else halfParsed h s
  match s.stream? h with
  | none => s
  | some x =>
    let (row, n) := pictureRow x.par p r ecc
    if row = 40 then exceedContext h false (unitPos h false p.start s)
    else
      let s := if row = 0 then s else count h row n s
      let s := s.modStream h fun x => { x with st := 1, dec := { x.dec with needRap := false, rasl := if r.rap then x.dec.needRap else x.dec.rasl } }
      pictureParsed h ⟨newPic x p r (row != 0), mapOf r, r.rap, p.start, p.fin⟩ r s

/-- The rows of R256 that an access unit meets, in their order. -/
def parseRows (h : Nat) (x : Stream) (p : Parsing) (r : AuResult) (ecc : Bool) (s : State) : State :=
  let len := dist32 p.fin p.start
  let pos := unitPos h false p.start
  if (x.dec.needRap && !r.rap) || (x.dec.rasl && r.rasl && !r.rap) then count h 16 len (pos s)
  else
    let s := count h 44 r.badUnits s
    if (match r.seq with
      | some q => seqExceeds x.par q
      | none => false) then exceedContext h true (pos s)
    else if r.noPicture then pos s
    else parsePicture h p r ecc s

/-- A stream whose CLOSE is running leaves once no engine holds a frame of it. -/
def closeStep (h : Nat) (s : State) : State :=
  match s.stream? h with
  | none => s
  | some x =>
    if x.closing && x.dec.parsing.isNone && x.dec.frames.isEmpty && x.enc.run.isNone then
      let s := writeStat h (s.modStream h fun x => { x with st := 0 })
      let mine := s.primary && x.dec.mirrored
      let s := if mine then sendClose h s else s
      let s := { s with media := { s.media with
        streams := terase s.media.streams h
        closed := if mine then tput s.media.closed h x else s.media.closed } }
      let s := reclaim s h
      if s.media.busy = some h then
        ({ s with media := { s.media with busy := none } }.setBit Reg.mediaScmdStat 0 false).setBit Reg.mediaScmdStat 1 true
      else s
    else s

/-- The frames of a closed stream that no engine holds go (R237). -/
def dropParsed (d : Dec) : Dec :=
  { d with half := none, frames := d.frames.filter fun p => match p.stage with
    | .onPipe _ _ => true
    | _ => false }

/-- AU_PARSE_DONE: the engine ends the access unit and saves the context. That of a stream being closed still ends (R237). -/
def parseDone (h : Nat) (r : AuResult) (s : State) : State :=
  match s.stream? h with
  | none => s
  | some x =>
    match x.dec.parsing with
    | none => s
    | some p =>
      let len := min (dist32 p.fin p.start) (pMaxAu x.par)
      let (s, poison) := unitRead h x.par p.start len s
      let syn := s.poisonedAmong r.poisoned
      let s := parseRows h x p r (poison || !syn.isEmpty) (mediaPoison h 48 syn s)
      let s := s.modDec h fun d => { d with parsing := none, pos := p.fin }
      let s := if x.closing then s.modDec h dropParsed else flushHalf h s
      closeStep h (writeStat h (settle h (consume h s)))

/-! ### The decision on non-reference frames (R254, R255) -/

/-- RECON_DECISION: the oldest frame, when its decision is open. -/
def reconDecision (h : Nat) (s : State) : State :=
  match s.stream? h with
  | none => s
  | some x =>
    match x.dec.frames with
    | [] => s
    | p :: ps =>
      if p.stage != .undecided then s
      else
        let refsOnly := x.dec.refsOnly p.num
        let left := x.dec.reqs.filter fun q => q != none && q != some p.num
        if pickedNow x p refsOnly then
          s.modDec h fun d => { d with frames := { p with stage := .chosen } :: ps, reqs := left }
        else
          let s := if refsOnly then s else count h 52 1 s
          writeStat h (settle h (s.modDec h fun d => { d with frames := ps, reqs := left }))

/-- A MEDIA_RECON_REQ write. -/
def reconReq (fn : Fn) (h : Nat) (next : Bool) (num : W32) (s : State) : State :=
  match s.stream? h with
  | none => dropCmd s fn Reg.mediaReconReq
  | some x =>
    if !mayStream s fn x then denied s fn Reg.mediaReconReq
    else if x.kind != .decode then dropCmd s fn Reg.mediaReconReq
    else
      let open' := ahead32 num x.dec.num || x.dec.frames.any fun p => p.num == num && p.stage == .undecided
      if !next && !open' then count h 56 1 s
      else
        let q : Option W32 := if next then none else some num
        if x.dec.reqs.length < 8 then s.modDec h fun d => { d with reqs := d.reqs ++ [q] }
        else count h 56 1 (s.modDec h fun d => { d with reqs := d.reqs.drop 1 ++ [q] })

/-! ### Reconstruction (R234, R242, R244, R257, R258) -/

/-- Frames of a stream on pixel pipes. -/
def onPipes (x : Stream) : Nat := (x.dec.frames.filter fun p => match p.stage with
  | .onPipe _ _ => true
  | _ => false).length

/-- The frames before the first that is not on a pipe, and the rest. -/
def splitRunning : List Pic → List Pic × List Pic
  | [] => ([], [])
  | p :: ps =>
    match p.stage with
    | .onPipe _ _ => let (a, b) := splitRunning ps; (p :: a, b)
    | _ => ([], p :: ps)

/-- A pixel pipe may start the next frame of a stream. -/
def mayPixel (s : State) (h : Nat) (x : Stream) : Bool :=
  x.kind == .decode && decide (onPipes x < pPipes x.par) && (s.anyFree h).isSome &&
    (match (splitRunning x.dec.frames).2 with
      | p :: _ => p.stage == .chosen
      | [] => false)

/-- The reference process changes marks of the stream's own buffers (R245). -/
def applyRefs (h : Nat) (rs : List RefChange) (s : State) : State :=
  rs.foldl (fun s r =>
    match s.buf? r.buf.val with
    | some b =>
      if b.owner == h && !b.segment then
        let put := fun (m : Nat) (v : Option Bool) (s : State) => match v with
          | some v => setMark r.buf.val m v s
          | none => s
        put mkLong r.long (put mkShort r.short s)
      else s
    | none => s) s

/-- PIXEL_FRAME_START: the frame takes a free buffer. -/
def pixelStart (h pipe b : Nat) (rs : List RefChange) (s : State) : State :=
  let s' := applyRefs h rs s
  let busy := s.media.streams.any fun x => x.2.dec.frames.any fun p => match p.stage with
    | .onPipe k _ => k == pipe
    | _ => false
  if busy || !s'.freeBuf h b || !turnOf s' s.media.pixLast pipe h (mayPixel s') then s
  else
    let s := s'.modBuf b fun x => { x with taken := true }
    let s := s.modDec h fun d =>
      match splitRunning d.frames with
      | (a, p :: ps) => { d with frames := a ++ { p with stage := .onPipe pipe b } :: ps }
      | _ => d
    { s with media := { s.media with pixLast := tput s.media.pixLast pipe h } }

/-- The low six bits of each 16-bit sample are zero. -/
def tenClean : List Byte → List Byte
  | a :: b :: t => (a &&& 0xC0) :: b :: tenClean t
  | l => l

/-- Rows of `n` bytes stored at a pitch. -/
def putRows (n pitch : Nat) : Nat → Nat → List Byte → State → State
  | 0, _, _, s => s
  | k + 1, a, bs, s => putRows n pitch k (a + pitch) (bs.drop n) (engWrite s a (padTo n bs))

/-- A picture of two planes in the top left corner of a buffer (R244). -/
def putPicture (par : List Byte) (addr w h : Nat) (luma chroma : List Byte) (s : State) : State :=
  let e := if pTen par then 2 else 1
  let fix := fun bs => if pTen par then tenClean bs else bs
  let p := pitchOf par
  let s := putRows (w * e) p h addr (fix (padTo (w * e * h) luma)) s
  putRows (cdiv w 2 * 2 * e) p (cdiv h 2) (addr + p * planeH par) (fix (padTo (cdiv w 2 * 2 * e * cdiv h 2) chroma)) s

/-- The CbCr plane of a monochrome picture. -/
def monoChroma (par : List Byte) (w h : Nat) : List Byte :=
  let n := cdiv w 2 * 2 * cdiv h 2
  if pTen par then (List.replicate n (leBytes 2 0x8000)).flatten else List.replicate n 0x80

/-- Lines given one field after the other, interleaved by line (R231). -/
def weave (n lines : Nat) (bs : List Byte) : List Byte :=
  let top := cdiv lines 2
  (List.range lines).flatMap fun y => padTo n ((bs.drop (n * (y / 2 + if y % 2 = 0 then 0 else top))).take n)

/-- A plane of rows of `n` bytes with blocks of `bw` bytes and `bh` lines replaced: `new` gives the bytes of a replaced block's line, from its byte
offset and line. -/
def patchPlane (n lines bw bh : Nat) (bad : Nat → Nat → Bool) (new : Nat → Nat → Nat → List Byte) (bs : List Byte) : List Byte :=
  (List.range lines).flatMap fun y => (List.range (cdiv n bw)).flatMap fun c =>
    let m := min bw (n - c * bw)
    if bad (y / bh) c then padTo m (new (c * bw) y m) else padTo m ((bs.drop (n * y + c * bw)).take m)

/-- 128 or 512 in every sample of `n` bytes (R257). -/
def grey (ten : Bool) (n : Nat) : List Byte := if ten then (List.replicate (n / 2) (leBytes 2 0x8000)).flatten else List.replicate n 0x80

/-- The buffer from which a picture's concealed blocks are copied (R257): of its first reference, or of the picture that stands in for an absent
one. -/
def concealFrom (x : Stream) : FirstRef → Option Nat
  | .none => none
  | .absent => x.dec.lastRecon
  | .buf b => some b.val

/-- A plane of a reconstructed picture with its concealed blocks (R257, R258): `off` is the plane's place in a buffer, `bh` the lines of a block. -/
def concealPlane (s : State) (x : Stream) (p : Pic) (r : ReconResult) (off n lines bh : Nat) (bs : List Byte) : List Byte :=
  let e := if pTen x.par then 2 else 1
  let wb := cdiv p.picW 16
  let clean := (r.poisoned.filter fun k => (s.badIn k.2 1).isSome).map (·.1)
  let from' := ((concealFrom x r.first).bind s.buf?).map (·.addr)
  patchPlane n lines (16 * e) bh (fun row col => p.lost.contains (row * wb + col) || clean.contains (row * wb + col))
    (fun o y m => match if clean.contains (y / bh * wb + o / (16 * e)) then none else from' with
      | some a => mread s.mem (a + off + pitchOf x.par * y + o) m
      | none => grey (pTen x.par) m) bs

/-- The planes of a reconstructed picture: its samples, its fields interleaved, its concealed blocks filled. -/
def reconPlanes (s : State) (x : Stream) (p : Pic) (r : ReconResult) : List Byte × List Byte :=
  let e := if pTen x.par then 2 else 1
  let fix := fun bs => if pTen x.par then tenClean bs else bs
  let n := p.picW * e
  let m := cdiv p.picW 2 * 2 * e
  let place := fun (k lines : Nat) bs => if r.byField && nbit p.flags 3 then weave k lines bs else bs
  (concealPlane s x p r 0 n p.picH 16 (fix (place n p.picH (padTo (n * p.picH) r.luma))),
    if r.mono then monoChroma x.par p.picW p.picH
    else concealPlane s x p r (pitchOf x.par * planeH x.par) m (cdiv p.picH 2) 8 (fix (place m (cdiv p.picH 2) (padTo (m * cdiv p.picH 2) r.chroma))))

/-- A frame before `p` that is still on its pipe in a buffer whose samples `p` reads (R234). -/
def readsRunning (x : Stream) (p : Pic) (r : ReconResult) : Bool :=
  (x.dec.frames.takeWhile fun q => q.num != p.num).any fun q => match q.stage with
    | .onPipe _ b => r.reads.any fun k => k.val == b
    | _ => false

/-- RECON_DONE: the frame on a pipe ends in its buffer, once every reference sample it reads has been written (R234). -/
def reconDone (h pipe : Nat) (r : ReconResult) (s : State) : State :=
  match s.stream? h with
  | none => s
  | some x =>
    let mine := fun (p : Pic) => match p.stage with
      | .onPipe k _ => k == pipe
      | _ => false
    match x.dec.frames.find? mine with
    | none => s
    | some p =>
      match p.stage with
      | .onPipe _ b =>
        if readsRunning x p r then s
        else
          let ks := s.poisonedAmong (r.poisoned.map (·.2))
          let (luma, chroma) := reconPlanes s x p r
          let s := mediaPoison h 48 ks s
          let addr := match s.buf? b with
            | some y => y.addr
            | none => 0
          let s := putPicture x.par addr p.picW p.picH luma chroma s
          let s := s.modBuf b fun y => { y with taken := false, picW := p.picW, picH := p.picH, arrival := p.arrival }
          let s := applyRefs h r.refs s
          let shown := p.shown && !x.closing
          let s := if shown then setMark b mkOut true s else s
          let flags := if !ks.isEmpty && p.flags / 2 % 2 = 0 then p.flags + 2 else p.flags
          let s := s.modDec h fun d => { d with
            frames := d.frames.filter fun q => !mine q
            lastRecon := some b
            due := if shown then d.due ++ [{ buf := b, num := p.num, flags := flags, picW := p.picW, picH := p.picH, arrival := p.arrival
                                             order := p.order }] else d.due }
          let s := if x.closing then setMark b mkLong false (setMark b mkShort false s) else s
          closeStep h (writeStat h (settle h s))
      | _ => s

/-! ### Emission (R248, R249) -/

/-- Emitted frames of a stream that still carry OUT_PENDING. -/
def pendingOut (s : State) (h : Nat) (x : Stream) : Nat :=
  ((s.bufsOf h).filter fun b => b.2.has mkOut && !(x.dec.due.any fun e => e.buf == b.1)).length
/-- Buffers of a stream held for analytics or encoding. -/
def heldAna (s : State) (h : Nat) : Nat := ((s.bufsOf h).filter fun b => b.2.has mkHold || b.2.has mkEnc).length

/-- Emission waits (R248). -/
def emitWaits (s : State) (h : Nat) (x : Stream) : Bool :=
  (rEn (pRing x.par false) && decide (pOutDepth x.par ≤ pendingOut s h x)) || (rEn (pRing x.par true) && decide (pHold x.par ≤ heldAna s h))

/-- A wait begins to be counted. -/
def startWait (h : Nat) (s : State) : State :=
  s.modStream h fun x => { x with waitAt := some (x.waitAt.getD s.clock.timeM) }

/-- A wait ends: its µs are added to the counter at byte 60. -/
def endWait (h : Nat) (s : State) : State :=
  match s.stream? h with
  | some x => match x.waitAt with
    | some t => (count h 60 ((s.clock.timeM - t).toNat / 1000) s).modStream h fun x => { x with waitAt := none }
    | none => s
  | none => s

/-- No picture that comes before this one in output order is still to be emitted (R249), a frame that waits for its second field among them. -/
def emitTurn (d : Dec) (e : Due) : Bool :=
  !(d.due.any fun f => decide (f.order < e.order)) &&
    !((d.frames ++ d.half.toList.map (·.pic)).any fun p => p.shown && decide (p.order < e.order))

/-- FRAME_EMIT: a picture whose turn in output order has come. -/
def frameEmit (h b : Nat) (s : State) : State :=
  match s.stream? h with
  | none => s
  | some x =>
    match x.dec.due.find? fun e => e.buf == b with
    | none => s
    | some e =>
      if x.closing || !emitTurn x.dec e then s
      else if emitWaits s h x then startWait h s
      else
        let s := endWait h s
        let addr := match s.buf? b with
          | some y => y.addr
          | none => 0
        let rec' := outRecord e.num.toNat b e.flags e.picW e.picH (pitchOf x.par) h e.arrival addr (planeH x.par) 0
        let s := emitFrame h b rec' (s.modDec h fun d => { d with due := d.due.filter fun y => y.buf != b })
        writeStat h (settle h (count h 12 1 s))

/-! ### Meanings -/

/-- AU_PARSE_START (R242). -/
def execAuParseStart (h : Fin 1024) (engine : Fin 8) (s : State) : Out := running s (parseStart h.val engine.val)
/-- AU_PARSE_DONE (R251, R256). -/
def execAuParseDone (h : Fin 1024) (r : AuResult) (s : State) : Out := running s (parseDone h.val r)
/-- RECON_DECISION (R254). -/
def execReconDecision (h : Fin 1024) (s : State) : Out := running s (reconDecision h.val)
/-- PIXEL_FRAME_START (R242). -/
def execPixelFrameStart (h : Fin 1024) (pipe : Fin 16) (buf : Fin 16384) (refs : List RefChange) (s : State) : Out :=
  running s (pixelStart h.val pipe.val buf.val refs)
/-- RECON_DONE (R244). -/
def execReconDone (h : Fin 1024) (pipe : Fin 16) (r : ReconResult) (s : State) : Out := running s (reconDone h.val pipe.val r)
/-- FRAME_EMIT (R249). -/
def execFrameEmit (h : Fin 1024) (buf : Fin 16384) (s : State) : Out := running s (frameEmit h.val buf.val)
/-- RECON_REQ (R255). -/
def execReconReq (fn : Fn) (h : Fin 1024) (next : Bool) (num : W32) (s : State) : Out :=
  live s (orRecord (.reconReq fn h next num) (reconReq fn h.val next num))

end Sys2Proof.Machine
end

