-- ==== Sys2Proof/Machine/Motion.lean ====
section
/-!
DEFINITION. What an encode pass looks at: the samples of its source (R258, R260), the motion search and the mode decision (R261). Filters, vector
bits and the trials of the modes belong to the video standards; they are free values (log 64).
-/
namespace Sys2Proof.Machine

/-! ### Source and reference samples (R258, R260) -/

/-- A ten-bit sample shifted right by 2 to nearest even; a result above 255 is 255 (log 64). -/
def tenToEight (v : Nat) : Nat :=
  let q := v / 4
  let r := v % 4
  min 255 (if 2 < r ∨ (r = 2 ∧ q % 2 = 1) then q + 1 else q)

/-- A sample of a buffer as its layout holds it: ten bits in bits 15 to 6, or eight. -/
def bufSample (s : State) (y : Buf) (off col row : Nat) : Nat :=
  if y.wide then mnat s.mem (y.addr + off + row * y.pitch + 2 * col) 2 / 64 else mnat s.mem (y.addr + off + row * y.pitch + col) 1

/-- A sample that a session reads from its source: zero from a poisoned sector, converted to the session's bit depth. -/
def srcSample (s : State) (ten : Bool) (y : Buf) (off col row : Nat) : Nat :=
  let a := y.addr + off + row * y.pitch + col * (if y.wide then 2 else 1)
  let v := if (s.badIn a 1).isNone then bufSample s y off col row else 0
  if y.wide == ten then v else if ten then v * 4 else tenToEight v

/-- A plane as rows of samples. -/
abbrev Samples := List (List Nat)

/-- The top left `w` × `h` luma samples of a buffer. -/
def lumaOf (get : Nat → Nat → Nat) (w h : Nat) : Samples := (List.range h).map fun y => (List.range w).map fun x => get x y

/-- A sample of a plane with its edges extended by replication. -/
def edgeSample (p : Samples) (x y : Int) : Nat :=
  let row := p.getD (min y.toNat (p.length - 1)) []
  row.getD (min x.toNat (row.length - 1)) 0

/-- The block of `n` × `n` samples at a place of a plane. -/
def blockOf (p : Samples) (n : Nat) (x y : Int) : List Nat :=
  (List.range n).flatMap fun (j : Nat) => (List.range n).map fun (i : Nat) => edgeSample p (x + i) (y + j)

/-- A plane at a scale of 1 to `f`: a sample stands for `f` × `f` (the filter is open, log 64). -/
def shrink (f : Nat) (p : Samples) : Samples :=
  (List.range (p.length / f)).map fun y => (List.range ((p.getD 0 []).length / f)).map fun x =>
    Config.shrunk f (blockOf p f (x * f : Nat) (y * f : Nat))

/-! ### Costs (R261) -/

/-- The sum of absolute differences. -/
def sad (a b : List Nat) : Nat := ((a.zip b).map fun (x, y) => max x y - min x y).sum

/-- The four-point Hadamard transform of a row. -/
def had4 : List Int → List Int
  | [a, b, c, d] => [a + b + c + d, a + b - c - d, a - b - c + d, a - b + c - d]
  | l => l

/-- Column `i` of four rows. -/
def column (m : List (List Int)) (i : Nat) : List Int := m.map fun r => r.getD i 0

/-- The SATD of a 4 × 4 block: the absolute coefficients of the Hadamard transform of the difference. PRESUMED, log 64: R261 gives the name alone. -/
def satd4 (a b : List Nat) : Nat :=
  let d := (a.zip b).map fun (x, y) => (x : Int) - y
  let rows := (List.range 4).map fun j => had4 ((d.drop (4 * j)).take 4)
  ((List.range 4).flatMap fun i => had4 (column rows i)).foldl (fun n v => n + v.natAbs) 0

/-- The SATD of a block of n × n samples, 4 × 4 by 4 × 4. -/
def satd (n : Nat) (a b : List Nat) : Nat :=
  let part := fun (l : List Nat) (x y : Nat) => (List.range 4).flatMap fun j => (l.drop ((y + j) * n + x)).take 4
  ((List.range (n / 4)).flatMap fun y => (List.range (n / 4)).map fun x => satd4 (part a (4 * x) (4 * y)) (part b (4 * x) (4 * y))).sum

/-- A candidate's SATD and bits. -/
structure Trial where
  satd : Nat
  bits : Nat
deriving DecidableEq, Repr

/-- SATD + λ · bits of one candidate is less than that of another, for λ = 0.85 · 2^((q − 12) / 3): compared exactly by cubes. -/
def Trial.lt (q : Nat) (a b : Trial) : Bool :=
  let m : Int := (b.satd : Int) - a.satd
  let n : Int := (a.bits : Int) - b.bits
  decide (4913 * 2 ^ q * n ^ 3 < 8000 * 2 ^ 12 * m ^ 3)

/-- The candidate of least cost; between equals the choice is open (log 64). -/
def leastBy {α : Type} (lt : α → α → Bool) (l : List α) (d : α) : α :=
  let best := l.filter fun x => !l.any fun y => lt y x
  best.getD (Config.tie best.length % max 1 best.length) d

/-! ### The motion search (R261) -/

/-- Integer vectors of at most `r` in each direction, row by row. -/
def window (r : Nat) : List (Int × Int) :=
  (List.range (2 * r + 1)).flatMap fun j => (List.range (2 * r + 1)).map fun i => ((i : Int) - r, (j : Int) - r)

/-- A vector moved. -/
def vadd (a b : Int × Int) : Int × Int := (a.1 + b.1, a.2 + b.2)

/-- The vector of least SAD among some, for the block of n × n samples at (x, y). -/
def leastSad (src ref : Samples) (n x y : Nat) (vs : List (Int × Int)) : Int × Int :=
  let b := blockOf src n x y
  (leastBy (fun (u v : Nat × (Int × Int)) => decide (u.1 < v.1))
    (vs.map fun v => (sad b (blockOf ref n (x + v.1) (y + v.2)), v)) (0, (0, 0))).2

/-- A prediction of n × n samples at a vector in quarter samples; at a fraction the standard's filter gives each sample. -/
def predict (std : Nat) (ref : Samples) (n x y : Nat) (v : Int × Int) : List Nat :=
  let fx := (v.1 % 4).toNat
  let fy := (v.2 % 4).toNat
  if fx = 0 ∧ fy = 0 then blockOf ref n (x + v.1 / 4) (y + v.2 / 4)
  else (List.range n).flatMap fun (j : Nat) => (List.range n).map fun (i : Nat) =>
    Config.subSample std fx fy (blockOf ref 8 (x + v.1 / 4 + i - 3) (y + v.2 / 4 + j - 3))

/-- The cost of a vector in quarter samples. -/
def vectorTrial (std : Nat) (src ref : Samples) (n x y : Nat) (near : List (Int × Int)) (v : Int × Int) : Trial :=
  ⟨satd n (blockOf src n x y) (predict std ref n x y v), Config.vectorBits std v near⟩

/-- Level 4: the half-sample neighbours of a full-sample vector, then the quarter-sample neighbours of the best. -/
def refine (std q : Nat) (src ref : Samples) (n x y : Nat) (near : List (Int × Int)) (v : Int × Int) : Int × Int :=
  let best := fun (vs : List (Int × Int)) => (leastBy (fun (a b : Trial × (Int × Int)) => a.1.lt q b.1)
    (vs.map fun u => (vectorTrial std src ref n x y near u, u)) (⟨0, 0⟩, (0, 0))).2
  let half := best ((window 1).map fun d => (4 * v.1 + 2 * d.1, 4 * v.2 + 2 * d.2))
  best ((window 1).map fun d => vadd half d)

/-- The planes that the search works on: full, half and quarter scale. -/
structure Scales where
  full : Samples
  half : Samples
  quarter : Samples

def scalesOf (p : Samples) : Scales := ⟨p, shrink 2 p, shrink 4 p⟩

/-- The vectors of the 16 × 16 block at (x, y): levels 1 to 4. `near` are the vectors of the left, the top and the co-located block. -/
def searchBlock (std q : Nat) (src ref : Scales) (x y : Nat) (near : List (Int × Int)) : Vectors :=
  let all := window 32
  let first := leastSad src.quarter ref.quarter 4 (x / 4) (y / 4) all
  let second := leastSad src.quarter ref.quarter 4 (x / 4) (y / 4) (all.filter (· != first))
  let carried := [first, second].map (fun v => (2 * v.1, 2 * v.2)) ++ near.map fun v => (divEven v.1 8, divEven v.2 8)
  let l2 := leastSad src.half ref.half 8 (x / 2) (y / 2) (carried.flatMap fun c => (window 8).map (vadd c))
  let l3 := (window 4).map (vadd (2 * l2.1, 2 * l2.2))
  let part := fun (k : Nat) =>
    let px := x + 8 * (k % 2)
    let py := y + 8 * (k / 2)
    refine std q src.full ref.full 8 px py near (leastSad src.full ref.full 8 px py l3)
  ⟨refine std q src.full ref.full 16 x y near (leastSad src.full ref.full 16 x y l3), (List.range 4).map part⟩

/-- The search over a picture of `wb` blocks across, block by block; `old` are the vectors of the frame before. -/
def searchFrom (std q wb : Nat) (src ref : Scales) (old : List Vectors) : Nat → List Vectors → List Vectors
  | 0, vs => vs
  | n + 1, vs =>
    let i := vs.length
    let at' := fun (l : List Vectors) (k : Nat) => (l[k]?.map (·.whole)).toList
    let near := (if i % wb = 0 then [] else at' vs (i - 1)) ++ (if i < wb then [] else at' vs (i - wb)) ++ at' old i
    searchFrom std q wb src ref old n (vs ++ [searchBlock std q src ref (16 * (i % wb)) (16 * (i / wb)) near])

/-! ### The mode decision (R261) -/

/-- Modes of H.264: 0 skip, 1 inter 16 × 16, 2 inter 8 × 8, 3 intra 16 × 16, 4 intra 4 × 4; of HEVC: 0 skip, 1 inter, 3 intra. An IDR frame has
intra modes alone. -/
def modesOf (std : Nat) (idr : Bool) : List Nat := (if std = 0 then [0, 1, 2, 3, 4] else [0, 1, 3]).filter fun m => !idr || decide (3 ≤ m)

/-- What the mode decision of a pass looks at: the pass's number, the standard, the quality index, the 16 × 16 blocks across, the luma planes of source
and reference, and the vectors that the search found. -/
structure Pass where
  run : Nat
  std : Nat
  q : Nat
  idr : Bool
  across : Nat
  src : Samples
  ref : Samples
  vectors : List Vectors

/-- The vector that the search found for the block of 16 × 16 or 8 × 8 samples at (x, y); for a unit of another size it is open (log 64). -/
def Pass.vectorAt (p : Pass) (x y size : Nat) : Int × Int :=
  let free := Config.unitVector p.run p.std x y size
  match (if x / 16 < p.across then p.vectors[y / 16 * p.across + x / 16]? else none) with
  | none => free
  | some v => if size = 16 then v.whole else if size = 8 then v.parts.getD (y / 8 % 2 * 2 + x / 8 % 2) free else free

/-- The SATD of a block's prediction at a vector. -/
def Pass.satdAt (p : Pass) (x y size : Nat) (v : Int × Int) : Nat := satd size (blockOf p.src size x y) (predict p.std p.ref size x y v)

/-- The SATD of a mode of the block at (x, y): an inter mode's at the vectors found, a skipped block's at the vector that the standard predicts, and an
intra mode's as its standard predicts (log 64). -/
def Pass.modeSatd (p : Pass) (x y size mode : Nat) : Nat :=
  match mode with
  | 0 => p.satdAt x y size (Config.skipVector p.run p.std x y size)
  | 1 => p.satdAt x y size (p.vectorAt x y size)
  | 2 => ((List.range 4).map fun k => p.satdAt (x + 8 * (k % 2)) (y + 8 * (k / 2)) 8 (p.vectorAt (x + 8 * (k % 2)) (y + 8 * (k / 2)) 8)).sum
  | _ => Config.intraSatd p.run p.std x y size mode

/-- What a mode of the block at (x, y) costs in a pass; its bits are the standard's (log 64). -/
def modeTrial (p : Pass) (x y size mode : Nat) : Trial := ⟨p.modeSatd x y size mode, Config.modeBits p.run p.std x y size mode⟩

/-- The mode of a block of one size, with its cost. -/
def bestMode (p : Pass) (x y size : Nat) : Trial × List Choice :=
  leastBy (fun (a b : Trial × List Choice) => a.1.lt p.q b.1)
    ((modesOf p.std p.idr).map fun m => (modeTrial p x y size m, [⟨x, y, size, m⟩])) (⟨0, 0⟩, [])

/-- The decision of an HEVC block: whole, or in four of half the size, down to 8 × 8. -/
def decideUnit (p : Pass) : Nat → Nat → Nat → Nat → Trial × List Choice
  | 0, size, x, y => bestMode p x y size
  | n + 1, size, x, y =>
    let whole := bestMode p x y size
    let parts := (List.range 4).map fun k => decideUnit p n (size / 2) (x + size / 2 * (k % 2)) (y + size / 2 * (k / 2))
    let split : Trial × List Choice :=
      (⟨(parts.map (·.1.satd)).sum, (parts.map (·.1.bits)).sum⟩, parts.flatMap (·.2))
    if split.1.lt p.q whole.1 then split else whole

/-- The modes of a picture: macroblocks in H.264, units of 32 × 32 in HEVC. -/
def decideModes (p : Pass) (w h : Nat) : List Choice :=
  let n := if p.std = 0 then 16 else 32
  (List.range (cdiv h n)).flatMap fun r => (List.range (cdiv w n)).flatMap fun c =>
    (if p.std = 0 then bestMode p (n * c) (n * r) 16 else decideUnit p 2 32 (n * c) (n * r)).2

/-- What a pass of a frame finds: the vectors against the reference, and the modes. -/
def passSearch (s : State) (x : Stream) (r : EncRun) (run : Nat) : List Vectors × List Choice :=
  let w := pMaxW x.par
  let h := pMaxH x.par
  let src := match s.buf? r.src with
    | some y => lumaOf (srcSample s (pTen x.par) y 0) w h
    | none => []
  let ref := match x.enc.ref.bind s.buf? with
    | some y => lumaOf (bufSample s y 0) w h
    | none => []
  let vs := if r.idr ∨ ref = [] then [] else
    searchFrom (pStd x.par) r.q (cdiv w 16) (scalesOf src) (scalesOf ref) x.enc.vectors (cdiv w 16 * cdiv h 16) []
  (vs, decideModes ⟨run, pStd x.par, r.q, r.idr, cdiv w 16, src, ref, vs⟩ w h)

end Sys2Proof.Machine
end

