-- ==== Sys2Proof/Machine/Encode.lean ====
section
/-!
DEFINITION. Encoding (R259 to R265), the commands of streams (R236, R237), doorbells (R239, R260), MEDIA_COMMIT (R243) and
MEDIA_RELEASE (R245).
-/
namespace Sys2Proof.Machine

/-! ### Submission (R260) -/

/-- A buffer that a session accepts as a source. -/
def sourceOk (s : State) (x : Stream) (b : Nat) : Bool :=
  match s.buf? b with
  | some y => !y.segment && y.has mkHold && decide (pMaxW x.par ≤ y.picW) && decide (pMaxH x.par ≤ y.picH) && decide (x.enc.subs.length < 8)
  | none => false

/-- An encode doorbell: OUT_CONSUMED, and a source buffer when SUBMIT is set. -/
def encodeDb (fn : Fn) (h : Nat) (x : Stream) (v : W64) (s : State) : State :=
  let b := nbits v.toNat 13 0
  let s := s.modEnc h fun e => { e with consumed := BitVec.ofNat 32 (v.toNat / 2 ^ 32) }
  if !nbit v.toNat 14 then s
  else if sourceOk s x b then (setMark b mkEnc true s).modEnc h fun e => { e with subs := e.subs ++ [b] }
  else count h 36 1 (dropCmd s fn (Reg.mediaDb h))

/-- A write of MEDIA_DB of a stream. -/
def mediaDb (fn : Fn) (h : Nat) (v : W64) (ends : List W32) (s : State) : State :=
  match s.stream? h with
  | none => dropCmd s fn (Reg.mediaDb h)
  | some x =>
    if !mayStream s fn x then denied s fn (Reg.mediaDb h)
    else if s.noBells || x.closing then dropCmd s fn (Reg.mediaDb h)
    else
      match x.kind with
      | .decode => decodeDb fn h x v ends s
      | .encode => encodeDb fn h x v s
      | _ => dropCmd s fn (Reg.mediaDb h)

/-! ### Frames on encode pipes (R262 to R265) -/

/-- RATE_KBPS, the bucket size in bits, and Q_T in force. -/
def rateOf (x : Stream) : Nat := nbits x.sp1.toNat 31 0
def bucketBits (x : Stream) : Nat := nbits x.sp1.toNat 63 32 * 1000
def targetQ (x : Stream) : Nat := nbits x.sp0.toNat 21 16

/-- The output ring has room for a frame. -/
def encRoom (x : Stream) : Bool :=
  decide (3 * (pMaxW x.par * pMaxH x.par) / 2 + 1024 + dist32 x.enc.produced x.enc.consumed ≤ pBsSize x.par)

/-- A session has a frame to start. -/
def encReady (x : Stream) : Bool := x.kind == .encode && !x.closing && x.enc.run.isNone && !x.enc.subs.isEmpty

/-- The bucket before a frame: fill, quality offset and quality index (R263). -/
def rateStep (x : Stream) : Nat × Nat × Nat :=
  let rate := rateOf x
  let size := bucketBits x
  let drain := rate * 1000 * pFpsDen x.par / max 1 (pFpsNum x.par)
  let fill := if rate = 0 then 0 else x.enc.fill - drain
  let off := if size * 8 < fill * 10 then min (x.enc.off + 1) 12 else if fill * 2 < size ∧ 0 < x.enc.off then x.enc.off - 1 else x.enc.off
  (fill, off, min (targetQ x + if rate = 0 then 0 else off) 51)

/-- The session's next frame goes on a pipe. -/
def encBegin (pipe recon : Nat) (x : Stream) : Stream :=
  let x := adoptSet x
  let e := x.enc
  match e.subs with
  | [] => x
  | b :: bs =>
    let (fill, off, q) := rateStep x
    let idr := e.idrDue || e.ref.isNone || (pGop x.par != 0 && decide (pGop x.par ≤ e.sinceIdr))
    let forced := idr && decide (8 ≤ e.skips)
    { x with enc := { e with subs := bs, fill := fill, off := off, idrDue := false,
                             run := some ⟨pipe, b, recon, idr, forced, if forced then 51 else q, false, false, [], []⟩ } }

/-- ENCODE_FRAME_START. -/
def encStart (h pipe recon : Nat) (s : State) : State :=
  let busy := s.media.streams.any fun x => match x.2.enc.run with
    | some r => r.pipe == pipe
    | none => false
  match s.stream? h with
  | none => s
  | some x =>
    if !encReady x then s
    else if !encRoom x then startWait h s
    else if busy || !s.freeBuf h recon || !turnOf s s.media.encLast pipe h (fun _ x => encReady x && encRoom x) then s
    else
      let s := ((endWait h s).modBuf recon fun y => { y with taken := true }).modStream h (encBegin pipe recon)
      { s with media := { s.media with encLast := tput s.media.encLast pipe h } }

/-- The part of a source that a session of size w × h reads, row by row of both planes; whether any of it was poisoned (R258). -/
def sourceRead (h : Nat) (y : Buf) (w lines : Nat) (s : State) : State × Bool :=
  let e := if y.wide then 2 else 1
  let rows := (List.range lines).map (fun r => y.addr + r * y.pitch) ++
    (List.range (lines / 2)).map fun r => y.addr + y.pitch * y.lines + r * y.pitch
  rows.foldl (fun (s, p) a =>
    let (s, q) := mediaRead h 32 a (w * e) s
    (s, p || q)) (s, false)

/-- The record of a frame (R265) and the producer index. -/
def encRecord (h : Nat) (x : Stream) (r : EncRun) (flags len : Nat) (s : State) : State :=
  let e := x.enc
  let rec' := leBytes 4 e.num.toNat ++ leBytes 2 r.src ++ leBytes 2 flags ++ leBytes 4 e.produced.toNat ++ leBytes 4 len ++
    leBytes 8 s.clock.timeM.toNat ++ leBytes 1 r.q ++ leBytes 7 0
  if rEn (pRing x.par false) then ringIndex h false (ringPut h false rec' s) else s

/-- The frame leaves its pipe: the source loses ENC_SOURCE, and the status block is written. -/
def encEnd (h : Nat) (r : EncRun) (s : State) : State :=
  let s := (setMark r.src mkEnc false s).modBuf r.recon fun y => { y with taken := false }
  closeStep h (writeStat h s)

/-- A skipped frame (R264). -/
def encSkip (h : Nat) (x : Stream) (r : EncRun) (damaged : Bool) (s : State) : State :=
  let s := encRecord h x r ((if r.retried then 2 else 0) + 4 + (if damaged then 16 else 0)) 0 s
  let s := s.modEnc h fun e => { e with run := none, num := e.num + 1, sinceIdr := e.sinceIdr + 1, idrDue := e.idrDue || r.idr,
                                        skips := if r.idr then e.skips + 1 else e.skips }
  encEnd h r (count h 16 1 s)

/-- A kept frame: its bytes, its reconstruction as the new reference, and the bucket. -/
def encKeep (h : Nat) (x : Stream) (r : EncRun) (damaged : Bool) (bytes luma chroma : List Byte) (s : State) : State :=
  let len := bytes.length
  let flags := r.idr.toNat + (if r.retried then 2 else 0) + (if r.forced then 8 else 0) + (if damaged then 16 else 0)
  let s := ringStore s (pBsBase x.par) (pBsSize x.par) x.enc.produced bytes
  let addr := match s.buf? r.recon with
    | some y => y.addr
    | none => 0
  let s := putPicture x.par addr (pMaxW x.par) (pMaxH x.par) luma chroma s
  let s := encRecord h x r flags len s
  let s := s.modEnc h fun e => { e with
    run := none
    num := e.num + 1
    produced := e.produced + BitVec.ofNat 32 len
    fill := if rateOf x = 0 then 0 else e.fill + 8 * len
    sinceIdr := if r.idr then 1 else e.sinceIdr + 1
    skips := if r.idr then 0 else e.skips
    vectors := r.vectors
    choices := r.choices
    ref := some r.recon }
  let s := match x.enc.ref with
    | some b => setMark b mkShort false s
    | none => s
  let s := setMark r.recon mkShort (!x.closing) s
  let s := count h 4 1 (if r.retried then count h 12 1 s else s)
  encEnd h r (if r.forced then count h 20 1 s else s)

/-- ENCODE_PASS_DONE: the pass has searched and decided; the frame is kept, encoded again, or skipped (R263). -/
def encodePass (h : Nat) (bytes luma chroma : List Byte) (s : State) : State :=
  match s.stream? h with
  | none => s
  | some x =>
    match x.enc.run with
    | none => s
    | some r =>
      let (run, s) := s.fresh
      let (vs, cs) := passSearch s x r run
      let (s, poison) := match s.buf? r.src with
        | some y => sourceRead h y (pMaxW x.par) (pMaxH x.par) s
        | none => (s, false)
      let r := { r with vectors := vs, choices := cs }
      let over' := decide (rateOf x ≠ 0) && decide (bucketBits x < x.enc.fill + 8 * bytes.length) && !r.forced
      if over' && !r.retried && decide (r.q < 51) then
        s.modEnc h fun e => { e with run := some { r with q := min (r.q + 6) 51, retried := true } }
      else
        if over' then encSkip h x r (poison || r.staged) s else encKeep h x r (poison || r.staged) bytes luma chroma s

/-! ### Stream commands (R236, R237) -/

/-- A command ends with a result. -/
def scmdEnd (code : Nat) (s : State) : State :=
  (s.setFld Reg.mediaScmdStat 11 8 code).setBit Reg.mediaScmdStat 1 true

/-- A stream of a kind opens with its reservation: the state and the result code. -/
def openStream (h : Nat) (kind : StreamKind) (par : List Byte) (frames segs syn : Nat) (pat : Buf) (s : State) : State × Nat :=
  if handleBusy s h then (s, 2)
  else
    match reserve s frames pat segs syn par with
    | .error e => (s, e)
    | .ok pool =>
      let s := { s with media := { s.media with pool := pool } }
      (s.putStream h { kind := kind, par := par, sp0 := openSp0 par, sp1 := openSp1 par }, 0)

/-- The decode stream of a parameter block (R236). -/
def openDecode (h : Nat) (par : List Byte) (s : State) : State × Nat :=
  if decodeBad par then (s, 1)
  else openStream h .decode par (pDpb par + pOutDepth par + pHold par) (pSegCount par) (pSynChunks par) (framePat h par) s

/-- The encode session of a parameter block (R236, R247). -/
def openEncode (h : Nat) (par : List Byte) (s : State) : State × Nat :=
  if encodeBad par then (s, 1) else openStream h .encode par (2 + pOutDepth par) (pSegCount par) 0 (framePat h par) s

/-- OPEN and OPEN_ENC: the block is read, a VF is held to its own partition, and the stream opens or the command fails. -/
def scmdOpen (fn : Fn) (h : Nat) (enc : Bool) (s : State) : State :=
  if s.bit Reg.mediaScmdStat 0 then dropCmd s fn Reg.mediaScmd
  else
    let (s, par, poison) := engRead s (s.fld Reg.mediaScmdAddr 39 6 * 64) 128
    if !s.mayPart fn (pPart par) then denied s fn Reg.mediaScmd
    else
      let (s, code) := if poison.isSome then (s, 1) else if enc then openEncode h par s else openDecode h par s
      let s := if code = 0 && !enc && s.primary then sendOpen h par (s.modDec h fun d => { d with mirrored := true }) else s
      scmdEnd code (if code = 0 || (s.stream? h).any (mayStream s fn) then writeStat h s else s)

/-- A command on an open stream of a wanted kind. -/
def scmdOn (fn : Fn) (h : Nat) (want : StreamKind → Bool) (k : State → State) (s : State) : State :=
  if s.outside fn then denied s fn Reg.mediaScmd
  else if s.bit Reg.mediaScmdStat 0 then dropCmd s fn Reg.mediaScmd
  else
    match s.stream? h with
    | none => scmdEnd 6 s
    | some x =>
      if !mayStream s fn x then denied s fn Reg.mediaScmd
      else if want x.kind && !x.closing then k s else scmdEnd 6 (writeStat h s)

/-- What CLOSE stops: input, frames that no engine holds, references, pictures not yet emitted, and queued sources. -/
def closeStream (h : Nat) (s : State) : State :=
  match s.stream? h with
  | none => s
  | some x =>
    let s := x.dec.due.foldl (fun s e => setMark e.buf mkOut false s) (dropRefs h s)
    let s := x.enc.subs.foldl (fun s b => setMark b mkEnc false s) s
    s.modStream h fun x => { x with
      closing := true
      dec := { dropParsed x.dec with
        units := []
        due := []
        reqs := [] }
      enc := { x.enc with subs := [] } }

/-- CLOSE: it ends when no engine holds a frame of the stream. -/
def scmdClose (h : Nat) (s : State) : State :=
  let s := ((s.setFld Reg.mediaScmdStat 11 8 0).setBit Reg.mediaScmdStat 0 true).setBit Reg.mediaScmdStat 1 false
  closeStep h { closeStream h s with media := { (closeStream h s).media with busy := some h } }

def isDecode (k : StreamKind) : Bool := k == .decode
def isEncode (k : StreamKind) : Bool := k == .encode

/-! ### MEDIA_COMMIT (R243, R384) -/

/-- The set accepted last for a stream. -/
def acceptedSet (x : Stream) : W64 × W64 := x.pend.getD (x.sp0, x.sp1)

/-- A set is inconsistent: the decode fields of a decode stream, the encode fields of a session; the others are ignored. -/
def mediaSetBad (k : StreamKind) (a b : W64) : Bool :=
  if isEncode k then decide (51 < nbits a.toNat 21 16) || (nbits b.toNat 31 0 != 0 && nbits b.toNat 63 32 == 0)
  else
    let t := f32 (nbits a.toNat 63 32)
    (nbits a.toNat 1 0 == 1 && nbits a.toNat 15 8 == 0) || t.isNaN || flt t FVal.zero

def mediaCommit (fn : Fn) (s : State) : State :=
  let h := s.fld (fnKey fn.num Reg.mediaSsel) 9 0
  let k0 := fnKey fn.num Reg.mediaSp0Pend
  let k1 := fnKey fn.num Reg.mediaSp1Pend
  if s.outside fn then denied s fn Reg.mediaCommit
  else if !s.ready then dropCmd s fn Reg.mediaCommit
  else
    match s.stream? h with
    | none => s.setBit Reg.mediaCommit 8 true
    | some x =>
      if !mayStream s fn x then denied s fn Reg.mediaCommit
      else
        let (a, b) := acceptedSet x
        let a := (tfind s.media.pend k0).getD a
        let b := (tfind s.media.pend k1).getD b
        if mediaSetBad x.kind a b then s.setBit Reg.mediaCommit 8 true
        else
          let s := s.modStream h fun x => { x with pend := some (a, b) }
          { s with media := { s.media with pend := terase (terase s.media.pend k0) k1 } }.setBit Reg.mediaCommit 8 false

/-! ### MEDIA_RELEASE (R245) -/

/-- A release of a mark of a pool buffer. -/
def releaseMark (fn : Fn) (b m : Nat) (s : State) : State :=
  match s.buf? b with
  | none => s
  | some y => if s.mayPart fn y.part then setMark b m false s else denied s fn Reg.mediaRelease

/-! ### Meanings -/

/-- MEDIA_DOORBELL (R239). -/
def execMediaDoorbell (fn : Fn) (h : Fin 1024) (value : W64) (ends : List W32) (s : State) : Out :=
  live s (orRecord (.mediaDoorbell fn h value ends) (mediaDb fn h.val value ends))
/-- ENCODE_SUBMIT (R260). -/
def execEncodeSubmit (fn : Fn) (h : Fin 1024) (value : W64) (s : State) : Out :=
  live s (orRecord (.encodeSubmit fn h value) (mediaDb fn h.val value []))
/-- ENCODE_FRAME_START (R262). -/
def execEncodeFrameStart (h : Fin 1024) (pipe : Fin 2) (recon : Fin 16384) (s : State) : Out := running s (encStart h.val pipe.val recon.val)
/-- ENCODE_PASS_DONE (R263). -/
def execEncodePassDone (h : Fin 1024) (bytes luma chroma : List Byte) (s : State) : Out := running s (encodePass h.val bytes luma chroma)
/-- OPEN (R236). -/
def execMediaOpen (fn : Fn) (h : Fin 1024) (s : State) : Out := live s (orRecord (.mediaOpen fn h) (scmdOpen fn h.val false))
/-- OPEN_ENC (R236). -/
def execMediaOpenEnc (fn : Fn) (h : Fin 1024) (s : State) : Out := live s (orRecord (.mediaOpenEnc fn h) (scmdOpen fn h.val true))
/-- CLOSE (R237). -/
def execMediaClose (fn : Fn) (h : Fin 1024) (s : State) : Out :=
  live s (orRecord (.mediaClose fn h) (scmdOn fn h.val (fun k => isDecode k || isEncode k) (scmdClose h.val)))
/-- FLUSH (R237). -/
def execMediaFlush (fn : Fn) (h : Fin 1024) (s : State) : Out :=
  live s (orRecord (.mediaFlush fn h) (scmdOn fn h.val isDecode fun s => scmdEnd 0 (writeStat h.val (flushStream h.val s))))
/-- SKIP_TO_RAP (R237). -/
def execMediaSkipToRap (fn : Fn) (h : Fin 1024) (s : State) : Out :=
  live s (orRecord (.mediaSkipToRap fn h) (scmdOn fn h.val isDecode fun s =>
    scmdEnd 0 (writeStat h.val (s.modDec h.val fun d => { d with needRap := true }))))
/-- FORCE_IDR (R237). -/
def execMediaForceIdr (fn : Fn) (h : Fin 1024) (s : State) : Out :=
  live s (orRecord (.mediaForceIdr fn h) (scmdOn fn h.val isEncode fun s =>
    scmdEnd 0 (writeStat h.val (s.modEnc h.val fun e => { e with idrDue := true }))))
/-- MEDIA_COMMIT (R243). -/
def execMediaCommit (fn : Fn) (s : State) : Out := bar0 fn 4 s (mediaCommit fn)
/-- RELEASE_OUT (R245). -/
def execReleaseOut (fn : Fn) (buf : Fin 16384) (s : State) : Out := live s (orRecord (.releaseOut fn buf) (releaseMark fn buf.val mkOut))
/-- RELEASE_HOLD (R245). -/
def execReleaseHold (fn : Fn) (buf : Fin 16384) (s : State) : Out := live s (orRecord (.releaseHold fn buf) (releaseMark fn buf.val mkHold))

end Sys2Proof.Machine
end

