-- ==== Sys2Proof/Machine/Isp.lean ====
section
/-!
DEFINITION. The stages of an image pipe (R277) over its parameters (R278), and the statistics that it writes (R279). What the manual names
without giving an equation is a free value (log 65).
-/
namespace Sys2Proof.Machine

/-! ### Parameters (R278), at offsets counted from byte 128 of the parameter area -/

def ispAt (area : List Byte) (o n : Nat) : Nat := leAt area (128 + o) n
def ispCfa (area : List Byte) : Nat := nbits (ispAt area 0 1) 2 0
def ispCsc (area : List Byte) : Nat := nbits (ispAt area 0 1) 4 3
def ispDpc (area : List Byte) : Bool := nbit (ispAt area 0 1) 5
def ispNr (area : List Byte) : Nat := nbits (ispAt area 1 1) 3 0
def ispLtm (area : List Byte) : Nat := ispAt area 2 1
def ispBlack (area : List Byte) (pos : Nat) : Nat := ispAt area (4 + 2 * pos) 2
def ispDpcThr (area : List Byte) : Nat := ispAt area 12 2
def ispGain (area : List Byte) (c : Nat) : Nat := ispAt area (16 + 2 * c) 2
def ispGamma (area : List Byte) (j : Nat) : Nat := ispAt area (56 + 2 * j) 2
/-- STATS_ADDR, when STATS_EN is set. -/
def ispStats (area : List Byte) : Option Nat := if nbit (ispAt area 0 1) 6 then some (nbits (ispAt area 48 8) 39 6 * 64) else none

/-- A 16-bit field as a signed number. -/
def ispSigned (area : List Byte) (o : Nat) : Int := (BitVec.ofNat 16 (ispAt area o 2)).toInt

/-- The ISP parameters break R278. -/
def ispBad (area : List Byte) : Bool :=
  let z := fun o n => ispAt area o n != 0
  nbit (ispAt area 0 1) 7 || nbits (ispAt area 1 1) 7 4 != 0 || z 3 1 || z 14 2 || z 46 2 || nbits (ispAt area 48 8) 5 0 != 0 ||
    nbits (ispAt area 48 8) 63 40 != 0 || z 186 70

/-! ### Numbers -/

/-- Every stage clamps to 0 to 65,535. -/
def clamp16 (v : Int) : Nat := min 65535 v.toNat

/-- R, G and B of a pixel, by number 0, 1 and 2. -/
abbrev Rgb := List Nat
def rgbAt (p : Rgb) (c : Nat) : Nat := p.getD c 0

/-- A function of every position of a picture, line by line. -/
def tabulate {α : Type} (w h : Nat) (f : Nat → Nat → α) : List (List α) :=
  (List.range h).map fun y => (List.range w).map fun x => f y x

/-- A sample at a position that may lie outside the picture, where its value is free (log 65). -/
def rawSample (p : List (List Nat)) (w h : Nat) (y x : Int) : Nat :=
  if 0 ≤ y ∧ y < h ∧ 0 ≤ x ∧ x < w then (p.getD y.toNat []).getD x.toNat 0 else (Config.ispBeyond p y x).toNat

/-! ### Stages 1 to 4: samples of the colour filter array -/

/-- A position of the colour filter array: 0 and 1 on even lines, 2 and 3 on odd ones. -/
def cfaPos (y x : Nat) : Nat := 2 * (y % 2) + x % 2

/-- Colour of a position; C of the RCCB phases takes the place of G. -/
def cfaColour (cfa pos : Nat) : Nat :=
  (match cfa % 4 with
    | 0 => [0, 1, 1, 2]
    | 1 => [1, 0, 2, 1]
    | 2 => [1, 2, 0, 1]
    | _ => [2, 1, 1, 0]).getD pos 1

/-- Lines of 16-bit samples as layout 1 writes them: missing ones are zero (R271). -/
def ispInput (w : Nat) (lines : List (List Byte)) : List (List Nat) :=
  lines.map fun l => (List.range w).map fun x => leAt l (2 * x) 2

/-- Stage 2. -/
def ispBlacked (area : List Byte) (p : List (List Nat)) (w : Nat) : List (List Nat) :=
  tabulate w p.length fun y x => (p.getD y []).getD x 0 - ispBlack area (cfaPos y x)

/-- The neighbours of the same colour: the 4 nearest, then the 4 after them. -/
def sameColour (green : Bool) : List (Int × Int) × List (Int × Int) :=
  let diag := fun (d : Int) => [(-d, -d), (-d, d), (d, -d), (d, d)]
  let axes := [(-2, 0), (0, -2), (0, 2), (2, 0)]
  if green then (diag 1, axes) else (axes, diag 2)

/-- A median of four: a value from the second to the third (log 65). -/
def median4 (vs : List Nat) (pick : Nat) : Nat :=
  let vs := vs.mergeSort
  vs.getD 1 0 + pick % (vs.getD 2 0 - vs.getD 1 0 + 1)

/-- What the stages that have no equation make of a frame, as the command brings it (log 65): the interpolated colours of stage 4 and the filtered
colours of stage 8, pixel by pixel and line by line; and for each sample of stage 3 where the median of four lies between its two middle values. -/
structure IspMade where
  colours : List (BitVec 16)
  medians : List (BitVec 16)
  filtered : List (BitVec 16)
deriving DecidableEq, Repr

/-- Stage 3. -/
def ispDefects (area : List Byte) (m : IspMade) (p : List (List Nat)) (w : Nat) : List (List Nat) :=
  if !ispDpc area then p
  else tabulate w p.length fun y x =>
    let v := (p.getD y []).getD x 0
    let (near, far) := sameColour (cfaColour (ispCfa area) (cfaPos y x) == 1)
    let look := fun (d : Int × Int) => rawSample p w p.length (y + d.1) (x + d.2)
    let all := (near ++ far).map look
    if (all.all fun n => decide (n + ispDpcThr area < v)) || (all.all fun n => decide (v + ispDpcThr area < n)) then
      median4 (near.map look) (m.medians.getD (y * w + x) 0).toNat
    else v

/-- Stage 4: the sample itself gives its own colour, and the interpolation the others. -/
def ispDemosaic (area : List Byte) (m : IspMade) (p : List (List Nat)) (w : Nat) : List (List Rgb) :=
  tabulate w p.length fun y x => (List.range 3).map fun c =>
    if cfaColour (ispCfa area) (cfaPos y x) = c then (p.getD y []).getD x 0 else (m.colours.getD (3 * (y * w + x) + c) 0).toNat

/-! ### Stages 5 to 10: pixels -/

/-- Stage 5. -/
def ispBalance (area : List Byte) (p : Rgb) : Rgb := (List.range 3).map fun c => clamp16 (divEven (rgbAt p c * ispGain area c : Nat) 4096)

/-- Stage 6. -/
def ispMatrix (area : List Byte) (p : Rgb) : Rgb :=
  (List.range 3).map fun r =>
    clamp16 (divEven ((List.range 3).map fun c => ispSigned area (22 + 2 * (3 * r + c)) * (rgbAt p c : Int)).sum 4096 + ispSigned area (40 + 2 * r))

/-- Where a position lies among the centres of the 16 tiles of a row of `w` pixels, in halves of `w`-ths of a tile: the tile before it, the tile after
it, and the weight of the latter out of 2 w. A position outside the outermost centres takes the outermost tile. DESIGN CHOICE, log 65. -/
def tileBetween (w x : Nat) : Nat × Nat × Nat :=
  let u := 16 * (2 * x + 1) - w
  (min 15 (u / (2 * w)), min 15 (u / (2 * w) + 1), u % (2 * w))

/-- The gain of stage 7 at a position, as a number of 4 w h 4096-ths: the gains of the four tiles around it, interpolated bilinearly. A tile's U4.12
gain is a free value that the strength and the means of the frame before give (log 65). -/
def ispToneGain (strength : Nat) (tiles : List (BitVec 16)) (w h y x : Nat) : Nat :=
  let (i, i', v) := tileBetween h y
  let (j, j', u) := tileBetween w x
  let g := fun a b => (Config.ispTileGain strength tiles (16 * a + b)).toNat
  (2 * h - v) * ((2 * w - u) * g i j + u * g i j') + v * ((2 * w - u) * g i' j + u * g i' j')

/-- Stage 7: unity gain on the first frame (no tile means yet) and with strength 0; else the gain of the position. -/
def ispToneMap (area : List Byte) (tiles : List (BitVec 16)) (p : List (List Rgb)) (w : Nat) : List (List Rgb) :=
  if ispLtm area = 0 ∨ tiles = [] then p
  else tabulate w p.length fun y x =>
    let g := ispToneGain (ispLtm area) tiles w p.length y x
    (List.range 3).map fun c => clamp16 (divEven (rgbAt ((p.getD y []).getD x []) c * g : Nat) (4 * w * p.length * 4096))

/-- Stage 8: strength 0 leaves the picture as it is. -/
def ispDenoise (area : List Byte) (m : IspMade) (p : List (List Rgb)) (w : Nat) : List (List Rgb) :=
  if ispNr area = 0 then p
  else tabulate w p.length fun y x => (List.range 3).map fun c => (m.filtered.getD (3 * (y * w + x) + c) 0).toNat

/-- Stage 9. -/
def ispCurve (area : List Byte) (v : Nat) : Nat :=
  let j := v / 1024
  clamp16 (divEven (ispGamma area j * (1024 - v % 1024) + ispGamma area (j + 1) * (v % 1024) : Nat) 1024)

/-- Weights of R, G and B in luma, in ten-thousandths, and the ranges of CSC (log 65). -/
def ispWeights (csc : Nat) : List Nat := if csc / 2 = 0 then [2990, 5870, 1140] else [2126, 7152, 722]
/-- Offset and span of luma, and span of chroma, in 8-bit units. -/
def cscRange (csc : Nat) : Nat × Nat × Nat := if csc % 2 = 0 then (16, 219, 224) else (0, 255, 255)

/-- Luma of a pixel times 10,000. -/
def lumaSum (csc : Nat) (p : Rgb) : Nat := ((List.range 3).map fun c => (ispWeights csc).getD c 0 * rgbAt p c).sum

/-- An output value: offset plus span times a fraction. In ten bits the limited range scales by 4 and the full range is 0 to 1,023. -/
def outLevel (ten full : Bool) (off span : Nat) (num : Int) (den : Nat) : Nat :=
  let (off, span) := if ten then (4 * off, if full then 1023 else 4 * span) else (off, span)
  min (if ten then 1023 else 255) (off + divEven (span * num) den).toNat

/-- Stage 10: a value as NV12 or P010 holds it. -/
def outBytes (ten : Bool) (v : Nat) : List Byte := if ten then leBytes 2 (v * 64) else [BitVec.ofNat 8 v]

def ispLuma (csc : Nat) (ten : Bool) (p : Rgb) : Nat :=
  outLevel ten (csc % 2 == 1) (cscRange csc).1 (cscRange csc).2.1 (lumaSum csc p) (10000 * 65535)

/-- Cb (2) or Cr (0) of a 2 × 2 block; at an odd edge the pixels that exist are averaged. -/
def ispChroma (csc : Nat) (ten : Bool) (ps : List Rgb) (c : Nat) : Nat :=
  let num := (ps.map fun p => (10000 * rgbAt p c : Int) - lumaSum csc p).sum
  outLevel ten (csc % 2 == 1) 128 (cscRange csc).2.2 num (2 * (10000 - (ispWeights csc).getD c 0) * 65535 * max 1 ps.length)

/-- What a frame becomes: its planes, and the mean R, G and B after white balance of a 16 × 16 grid. -/
structure IspOut where
  luma : List Byte
  chroma : List Byte
  means : List (BitVec 16)
deriving DecidableEq, Repr

/-- Mean of a colour over a tile; one without a pixel has a free mean (log 65). -/
def tileMean (p : List (List Rgb)) (w i j c : Nat) : BitVec 16 :=
  let h := p.length
  let vs := ((List.range h).filter fun y => y * 16 / h == i).flatMap fun y =>
    ((List.range w).filter fun x => x * 16 / w == j).map fun x => rgbAt ((p.getD y []).getD x []) c
  if vs = [] then Config.ispEmptyTile else BitVec.ofNat 16 (divEven (vs.sum : Nat) vs.length).toNat

/-- The ten stages over the lines of a frame, with the tile means of the frame before it (none: unity gain). -/
def ispFrame (area : List Byte) (m : IspMade) (ten : Bool) (w : Nat) (lines : List (List Byte)) (tiles : List (BitVec 16)) : IspOut :=
  let csc := ispCsc area
  let raw := ispDefects area m (ispBlacked area (ispInput w lines) w) w
  let balanced := (ispDemosaic area m raw w).map (·.map (ispBalance area))
  let mapped := ispToneMap area tiles (balanced.map (·.map (ispMatrix area))) w
  let out := (ispDenoise area m mapped w).map (·.map (·.map (ispCurve area)))
  let block := fun y x => (List.range 4).filterMap fun k => (out.getD (2 * y + k / 2) [])[2 * x + k % 2]?
  { luma := out.flatMap (·.flatMap fun p => outBytes ten (ispLuma csc ten p))
    chroma := (List.range (cdiv out.length 2)).flatMap fun y => (List.range (cdiv w 2)).flatMap fun x =>
      outBytes ten (ispChroma csc ten (block y x) 2) ++ outBytes ten (ispChroma csc ten (block y x) 0)
    means := (List.range 768).map fun i => tileMean balanced w (i / 48) (i / 3 % 16) (i % 3) }

/-- Statistics of an ISP frame (R279): a header, 8-bit bins of the output luma, and the means of the grid. -/
def statBytes (num : W32) (arrival : W64) (ten : Bool) (o : IspOut) : List Byte :=
  let bins := (List.range o.luma.length).foldl (fun (t : Tab Nat) i =>
    if ten && i % 2 = 0 then t else tmod 0 t (o.luma.getD i 0).toNat (· + 1)) []
  padTo 8 (leBytes 4 num.toNat) ++ padTo 56 (leBytes 8 arrival.toNat) ++
    ((List.range 256).flatMap fun v => leBytes 4 (tget 0 bins v)) ++ o.means.flatMap fun m => leBytes 2 m.toNat

end Sys2Proof.Machine
end

