-- ==== Sys2Proof/Machine/Capture.lean ====
section
/-!
DEFINITION. Camera capture (R266 to R279): the capture shadow set and its commit, CSI-2 packets, frames and their records, image pipe
contexts, and the frame-sync outputs.
-/
namespace Sys2Proof.Machine

/-! ### Sensor words (R269) and parameter areas (R269, R278) -/

def cEn (lo : W64) : Bool := nbit lo.toNat 0
def cPort (lo : W64) : Nat := nbits lo.toNat 2 1
def cVc (lo : W64) : Nat := nbits lo.toNat 6 3
def cDt (lo : W64) : Nat := nbits lo.toNat 12 7
def cHandle (lo : W64) : Nat := nbits lo.toNat 22 13
def cPipe (lo : W64) : Nat := nbits lo.toNat 24 23
def cMaxAge (lo : W64) : Nat := nbits lo.toNat 63 32
def cParam (hi : W64) : Nat := nbits hi.toNat 39 6 * 64

/-- RAW data types and the bits of a sample (R266). -/
def rawBits (dt : Nat) : Option Nat :=
  if dt = 0x2A then some 8 else if dt = 0x2B then some 10 else if dt = 0x2C then some 12 else if dt = 0x2D then some 14 else none
def dtYuv : Nat := 0x1E
def dtRgb : Nat := 0x24
def dtOk (dt : Nat) : Bool := (rawBits dt).isSome || dt == dtYuv || dt == dtRgb

/-- The open parameter block of a capture stream breaks R235 or R269. -/
def captureBad (p : List Byte) : Bool :=
  commonBad p || decide (8192 < pMaxW p ∨ 8192 < pMaxH p) || nbits (leAt p 0 1) 1 0 != 0 || !zeros p 1 1 || nbits (leAt p 2 1) 7 4 != 0 ||
    !zeros p 3 3 || !zeros p 10 23 || !zeros p 40 47 || !zeros p 50 51 || !zeros p 60 79 || decide (pFpsNum p = 0 ∨ pFpsDen p = 0)

/-! ### Layouts (R271) -/

/-- Pitch of a layout. -/
def layPitch (p : List Byte) (layout : Nat) : Nat :=
  match layout with
  | 0 => pitchOf p
  | 3 => alignUp (3 * pMaxW p) 256
  | _ => alignUp (2 * pMaxW p) 256

/-- Granules of a layout. -/
def layGran (p : List Byte) (layout : Nat) : Nat :=
  granules (layPitch p layout * planeH p + if layout = 0 then layPitch p 0 * (planeH p / 2) else 0)

/-- The layout of a sensor's frames. -/
def layoutOf (dt : Nat) (isp : Bool) : Nat := if dt = dtYuv then 2 else if dt = dtRgb then 3 else if isp then 0 else 1

/-- The frame buffer of a sensor: the largest layout that its data type can produce. -/
def capturePat (h dt : Nat) (p : List Byte) : Buf :=
  let lay := layoutOf dt false
  { owner := h, part := pPart p, segment := false, addr := 0
    grans := if lay = 1 then max (layGran p 0) (layGran p 1) else layGran p lay
    pitch := layPitch p (layoutOf dt true), lines := planeH p, wide := pTen p }

/-- F_cap. -/
def capFrames (p : List Byte) : Nat := 2 + pOutDepth p + pHold p

/-! ### The shadow set (R270, R384, R385) -/

/-- A word of the set accepted last. -/
def capAcc (s : State) (off : Nat) : W64 := (tfind s.capture.acc off).getD (regReset off)
/-- A word of a function's pending set. -/
def capPend (s : State) (f off : Nat) : W64 := (tfind s.capture.pend (fnKey f off)).getD (capAcc s off)

/-- Offsets of the set's words. -/
def capWords : List Nat :=
  (List.range 4).map Reg.capPort ++ (List.range 16).flatMap fun i => [Reg.capSensor i, Reg.capSensor i + 8]

/-- A sensor of a pending set: its number, words and parameter area. -/
structure SensorSet where
  idx : Nat
  lo : W64
  hi : W64
  area : List Byte
deriving DecidableEq, Repr

/-- The parameter areas that the pending set names are copied; a poisoned one is inconsistent. -/
def capAreas (f : Nat) : List Nat → State → State × List SensorSet × Bool
  | [], s => (s, [], false)
  | i :: is, s =>
    let lo := capPend s f (Reg.capSensor i)
    let hi := capPend s f (Reg.capSensor i + 8)
    if cEn lo then
      let (s, area, poison) := engRead s (cParam hi) 384
      let (s, r, bad) := capAreas f is s
      (s, ⟨i, lo, hi, area⟩ :: r, bad || poison.isSome)
    else capAreas f is s

/-- The sensor was enabled in the set accepted last. -/
def wasOn (s : State) (i : Nat) : Bool := cEn (capAcc s (Reg.capSensor i))

/-- What a sensor may not change while it stays enabled. -/
def sensorMoved (s : State) (x : SensorSet) : Bool :=
  let lo := capAcc s (Reg.capSensor x.idx)
  wasOn s x.idx && (cPort lo != cPort x.lo || cVc lo != cVc x.lo || cDt lo != cDt x.lo || cHandle lo != cHandle x.lo ||
    cParam (capAcc s (Reg.capSensor x.idx + 8)) != cParam x.hi)

/-- What a port may not change while it stays enabled: LANES, LANE_MAP, POL and RATE_MBPS. -/
def portMoved (s : State) (f i : Nat) : Bool :=
  let a := (capAcc s (Reg.capPort i)).toNat
  let b := (capPend s f (Reg.capPort i)).toNat
  nbit a 0 && nbit b 0 && (nbits a 14 1 != nbits b 14 1 || nbits a 28 16 != nbits b 28 16)

/-- Rows of R270 that make the set inconsistent, but for handles and reservations. -/
def capSetBad (s : State) (f : Nat) (xs : List SensorSet) : Bool :=
  (xs.any fun x => xs.any fun y => decide (x.idx < y.idx) && cPort x.lo == cPort y.lo && cVc x.lo == cVc y.lo && cDt x.lo == cDt y.lo) ||
  (xs.any fun x => !nbit (capPend s f (Reg.capPort (cPort x.lo))).toNat 0 || !dtOk (cDt x.lo) ||
    (pTen x.area && (cDt x.lo == dtYuv || cDt x.lo == dtRgb)) || captureBad (x.area.take 128) || ispBad x.area || sensorMoved s x) ||
  (List.range 4).any (portMoved s f)

/-- The reservations of the sensors that the commit enables (R247, R271): the pool, or a result code. -/
def capReserve (s : State) (xs : List SensorSet) : Except Nat (Tab Buf) :=
  let need := (xs.map fun x => capFrames x.area).sum
  if xs.isEmpty then .ok s.media.pool
  else
    match s.media.areas with
    | none => .error 4
    | some a =>
      if 16384 < s.media.pool.length + need then .error 3
      else
        (xs.foldl (fun (t : Option (Tab Buf)) x => match t with
          | some t => takeFrames a (capturePat (cHandle x.lo) (cDt x.lo) (x.area.take 128)) (capFrames x.area) t
          | none => none) (some s.media.pool)).elim (.error 4) .ok

/-- Two sensors that the commit enables ask for one handle, or a handle is in use. -/
def capHandles (s : State) (xs : List SensorSet) : Bool :=
  xs.any fun x => handleBusy s (cHandle x.lo) || xs.any fun y => decide (x.idx < y.idx) && cHandle x.lo == cHandle y.lo

/-! ### Image pipe contexts (R276) -/

/-- Declared pixel rate as a fraction. -/
def capRate (s : State) (x : Sensor) : Nat × Nat :=
  match s.stream? (cHandle x.lo) with
  | some y => (pMaxW y.par * pMaxH y.par * pFpsNum y.par, max 1 (pFpsDen y.par))
  | none => (0, 1)

def fracAdd (a b : Nat × Nat) : Nat × Nat := (a.1 * b.2 + b.1 * a.2, a.2 * b.2)
def fracLe (a b : Nat × Nat) : Bool := decide (a.1 * b.2 ≤ b.1 * a.2)

/-- The sensors that hold a context of a pipe, and their sum of declared rates. -/
def pipeUsers (s : State) (p : Nat) : List Sensor := (s.capture.sensors.map (·.2)).filter fun x => x.ctx == some p
def pipeRate (s : State) (p : Nat) : Nat × Nat := (pipeUsers s p).foldl (fun a x => fracAdd a (capRate s x)) (0, 1)

/-- A pipe accepts a sensor. -/
def pipeTakes (s : State) (x : Sensor) (p : Nat) : Bool :=
  decide ((pipeUsers s p).length < 8) && fracLe (fracAdd (pipeRate s p) (capRate s x)) (2000000000, 1)

/-- PIPE of the set accepted last. -/
def wantPipe (x : Sensor) : Nat := match x.next with
  | some (lo, _, _) => cPipe lo
  | none => cPipe x.lo

/-- The pipe that a waiting sensor gets. -/
def findPipe (s : State) (x : Sensor) : Option Nat :=
  let first := if fracLe (pipeRate s 0) (pipeRate s 1) then 0 else 1
  let tries := match wantPipe x with
    | 0 => [0]
    | 1 => [1]
    | 2 => [first, 1 - first]
    | _ => []
  tries.find? (pipeTakes s x)

def State.sensor? (s : State) (k : Nat) : Option Sensor := tfind s.capture.sensors k
def State.putSensor (s : State) (k : Nat) (x : Sensor) : State :=
  { s with capture := { s.capture with sensors := tput s.capture.sensors k x } }

/-- Sensors that need a context and hold none are tried in ascending order. -/
def giveContexts (s : State) : State :=
  (List.range 16).foldl (fun s i =>
    match s.sensor? i with
    | some x =>
      if (rawBits (cDt x.lo)).isSome && x.ctx.isNone then
        match findPipe s x with
        | some p => s.putSensor i { x with ctx := some p }
        | none => s
      else s
    | none => s) s

/-! ### Frames (R268, R272, R273) -/

/-- The status word of a flag of R273 that a line sets: its bit of FLAGS and its counter. -/
def flLoss : Nat := 7
def flShort : Nat := 8
def flOver : Nat := 9
def flCrc : Nat := 10

def setFlag (f b : Nat) : Nat := if nbit f b then f else f + 2 ^ b

/-- The fill byte at an offset of a line (R271). -/
def fillBytes (layout from' to' : Nat) : List Byte :=
  (List.range (to' - from')).map fun i => if layout = 2 ∧ (from' + i) % 2 = 1 then 128 else 0

/-- Bytes of a pixel as written. -/
def pixBytes (layout : Nat) : Nat := if layout = 3 then 3 else 2

/-- A line of the frame's buffer from byte offset `o`, when the frame has one and does not run through the ISP. -/
def putLine (x : Sensor) (c : CapFrame) (row o : Nat) (bs : List Byte) (s : State) : State :=
  match c.buf with
  | none => s
  | some b =>
    let lay := layoutOf (cDt x.lo) c.isp
    match s.buf? b, s.stream? (cHandle x.lo) with
    | some y, some st => if lay = 0 ∨ bs = [] then s else engWrite s (y.addr + row * layPitch st.par lay + o) bs
    | _, _ => s

/-- MAX_W of a sensor's stream. -/
def capMaxW (s : State) (x : Sensor) : Nat := match s.stream? (cHandle x.lo) with
  | some st => pMaxW st.par
  | none => 0

/-- A missing line: it takes the fill values, over MAX_W pixels where no line has given the frame its length (log 65). In an image pipe it is one of
zero samples. -/
def missLine (x : Sensor) (c : CapFrame) (s : State) : State × CapFrame :=
  let w := c.width.getD (capMaxW s x)
  let lay := layoutOf (cDt x.lo) c.isp
  (putLine x c c.line 0 (fillBytes lay 0 (w * pixBytes lay)) s, { c with line := c.line + 1, raw := if c.isp then c.raw ++ [[]] else c.raw })

/-- Samples of `b` bits of a RAW payload, left-aligned to 16 bits, group by group as CSI-2 packs them (log 7). -/
def rawGroup (b : Nat) (g : List Byte) : List Nat :=
  let n := fun i => (g.getD i 0).toNat
  match b with
  | 8 => [n 0 * 256]
  | 10 => (List.range 4).map fun i => (n i * 4 + nbits (n 4) (2 * i + 1) (2 * i)) * 64
  | 12 => (List.range 2).map fun i => (n i * 16 + nbits (n 2) (4 * i + 3) (4 * i)) * 16
  | _ => (List.range 4).map fun i => (n i * 64 + nbits (leNat (g.drop 4)) (6 * i + 5) (6 * i)) * 4

/-- Bytes and samples of a group. -/
def rawPack (b : Nat) : Nat × Nat := if b = 8 then (1, 1) else if b = 10 then (5, 4) else if b = 12 then (3, 2) else (7, 4)

def rawLine (b : Nat) : Nat → List Byte → List Nat
  | 0, _ => []
  | f + 1, bs => if bs.length < (rawPack b).1 then [] else rawGroup b (bs.take (rawPack b).1) ++ rawLine b f (bs.drop (rawPack b).1)

/-- Pixels of a payload, and the bytes that its line is written as. -/
def linePixels (dt : Nat) (bs : List Byte) : Nat × List Byte :=
  match rawBits dt with
  | some b => let px := rawLine b bs.length bs; (px.length, px.flatMap fun v => leBytes 2 v)
  | none => if dt = dtYuv then (bs.length / 2, bs) else (bs.length / 3, bs)

/-- Pixels of a RAW payload beyond whole groups do not count; a line within MAX_H (R268). -/
def goodLine (x : Sensor) (c : CapFrame) (maxW : Nat) (payload : List Byte) (s : State) : State × CapFrame :=
  let h := cHandle x.lo
  let lay := layoutOf (cDt x.lo) c.isp
  let (n, bs) := linePixels (cDt x.lo) payload
  let m := min n maxW
  let (s, c) := if maxW < n then (count h 32 1 s, { c with flags := setFlag c.flags flOver }) else (s, c)
  let w := c.width.getD m
  let s := putLine x c c.line 0 (bs.take (m * pixBytes lay)) s
  let (s, c) := if m < w then (count h 24 1 (putLine x c c.line (m * pixBytes lay) (fillBytes lay (m * pixBytes lay) (w * pixBytes lay)) s),
      { c with flags := setFlag c.flags flLoss }) else (s, c)
  (s, { c with width := some w, line := c.line + 1, got := c.got + 1, raw := if c.isp then c.raw ++ [bs.take (m * 2)] else c.raw })

/-- A line counted in LINE_LOSS or CRC_ERR. -/
def lostLine (x : Sensor) (c : CapFrame) (flag off : Nat) (s : State) : State × CapFrame :=
  missLine x { c with flags := setFlag c.flags flag } (count (cHandle x.lo) off 1 s)

/-- A long packet of a sensor's frame. -/
def capLine (k : Nat) (x : Sensor) (hdr : HdrErr) (crcOk full : Bool) (payload : List Byte) (s : State) : State :=
  match x.cur, s.stream? (cHandle x.lo) with
  | some c, some st =>
    let h := cHandle x.lo
    let s := if hdr = .single && !s.stopped then count h 40 1 s else s
    if c.buf.isNone || s.stopped then s
    else
      let (s, c) :=
        if pMaxH st.par ≤ c.line then (count h 32 1 s, { c with flags := setFlag c.flags flOver })
        else if hdr = .bad ∨ full then lostLine x c flLoss 24 s
        else if !crcOk then lostLine x c flCrc 36 s
        else goodLine x c (pMaxW st.par) payload s
      s.putSensor k { x with cur := some c }
  | _, _ => s

/-- Emission of a frame (R272, R273). -/
def capEmit (x : Sensor) (c : CapFrame) (s : State) : State :=
  let h := cHandle x.lo
  match c.buf, s.stream? h with
  | some b, some st =>
    let lay := layoutOf (cDt x.lo) c.isp
    let s := s.modBuf b fun y => { y with taken := false, picW := c.width.getD 0, picH := c.got, arrival := c.arrival }
    let s := setMark b mkOut true s
    let addr := match s.buf? b with
      | some y => y.addr
      | none => 0
    let r := outRecord c.num.toNat b c.flags (c.width.getD 0) c.got (layPitch st.par lay) h c.arrival addr (planeH st.par) lay
    let s := emitFrame h b r s
    let s := count h 8 1 s
    writeStat h (if lay = 1 then count h 12 1 s else s)
  | _, _ => s

/-- A sensor leaves: its context is released, and its stream closes (R270). -/
def capGone (k : Nat) (x : Sensor) (s : State) : State :=
  let h := cHandle x.lo
  let s := writeStat h (s.modStream h fun y => { y with st := 0 })
  let s := { s with capture := { s.capture with sensors := terase s.capture.sensors k } }
  reclaim { s with media := { s.media with streams := terase s.media.streams h } } h

/-- Nothing of a sensor waits for emission. -/
def Sensor.idle (x : Sensor) : Bool := x.cur.isNone && x.tail.isEmpty

/-- A sensor that a commit disabled leaves once its frames have been emitted; sensors that wait for a context are tried again (R276). -/
def capLeave (k : Nat) (s : State) : State :=
  match s.sensor? k with
  | none => s
  | some x => if x.disabling && x.idle then giveContexts (capGone k x s) else s

/-- Missing lines at the end of a frame are filled. -/
def fillRest (x : Sensor) : Nat → State × CapFrame → State × CapFrame
  | 0, a => a
  | n + 1, (s, c) => fillRest x n (missLine x c s)

/-- The open frame of a sensor ends; it is SHORT_FRAME when it is cut, or has fewer lines than the first after adoption. -/
def capClose (k : Nat) (cut : Bool) (s : State) : State :=
  match s.sensor? k with
  | none => s
  | some x =>
    match x.cur with
    | none => s
    | some c =>
      let h := cHandle x.lo
      if c.buf.isNone then capLeave k (s.putSensor k { x with cur := none })
      else
        let full := x.height.getD c.line
        let short := cut || decide (c.line < full)
        let s := if short then count h 28 1 s else s
        let c := if short then { c with flags := setFlag c.flags flShort } else c
        let (s, c) := fillRest x (full - c.line) (s, c)
        let s := s.putSensor k { x with cur := none, height := some full, tail := if c.isp then x.tail ++ [c] else x.tail }
        capLeave k (if c.isp then s else capEmit x c s)

/-- A sensor's frame begins: adoption, a buffer, or a dropped frame (R270, R272, R468). Under Snuff nothing is adopted (R386). -/
def capOpen (k : Nat) (s : State) : State :=
  match s.sensor? k with
  | none => s
  | some x =>
    let x := match x.next with
      | some (lo, hi, area) => if s.stopped then x else { x with lo := lo, hi := hi, area := area, next := none, height := none }
      | none => x
    let h := cHandle x.lo
    let s := (s.setReg (Reg.capSensor x.idx) x.lo).setReg (Reg.capSensor x.idx + 8) x.hi
    let isp := x.ctx.isSome && cPipe x.lo != 3
    let b := if s.stopped then none else s.anyFree h
    let ten := match s.stream? h with
      | some st => pTen st.par
      | none => false
    let flags := (if ten then 16 else 0) + 32 + (if layoutOf (cDt x.lo) isp = 1 then 64 else 0)
    let s := s.putSensor k { x with num := x.num + 1, cur := some { buf := b, num := x.num, arrival := s.clock.timeM, isp := isp, area := x.area, flags := flags,
                                                                           first := x.height.isNone } }
    let s := count h 4 1 s
    writeStat h (match b with
      | some b => s.modBuf b fun y => { y with taken := true }
      | none => count h 16 1 s)

/-- A frame start on an enabled sensor. -/
def capStart (k : Nat) (hdr : HdrErr) (s : State) : State :=
  match s.sensor? k with
  | none => s
  | some x =>
    let s := if hdr = .single then count (cHandle x.lo) 40 1 s else s
    let s := capClose k true s
    if x.disabling then s else capOpen k s

/-- Keys of the sensors on a virtual channel of a port. -/
def sensorsOn (s : State) (port vc : Nat) : List (Nat × Sensor) :=
  s.capture.sensors.filter fun x => cPort x.2.lo == port && cVc x.2.lo == vc

/-- The port receives: it is enabled, or a sensor of it is finishing. -/
def portOn (s : State) (port : Nat) : Bool := s.bit (Reg.capPort port) 0 || s.capture.sensors.any fun x => cPort x.2.lo == port

/-- A packet that is discarded as unmatched (R267). -/
def unmatched (port : Nat) (s : State) : State := if portOn s port then s.addSat (Reg.capPortstat port) 31 0 1 else s

/-- FRAME_START_PACKET. A sensor that a commit disabled is enabled no more: the start ends its open frame, and is unmatched where no enabled sensor
takes it. -/
def frameStart (port vc : Nat) (hdr : HdrErr) (s : State) : State :=
  let ks := sensorsOn s port vc
  if hdr = .bad then s
  else ks.foldl (fun s k => capStart k.1 hdr s) (if ks.all fun k => k.2.disabling then unmatched port s else s)

/-- FRAME_END_PACKET. -/
def frameEnd (port vc : Nat) (hdr : HdrErr) (s : State) : State :=
  let ks := (sensorsOn s port vc).filter fun k => k.2.cur.isSome
  if hdr = .bad then s
  else if ks.isEmpty then unmatched port s
  else ks.foldl (fun s k => capClose k.1 s.stopped (if hdr = .single then count (cHandle k.2.lo) 40 1 s else s)) s

/-- LONG_PACKET. The payload under a good or corrected header is counted at its port (R460). -/
def longPacket (port vc dt : Nat) (hdr : HdrErr) (crcOk full : Bool) (payload : List Byte) (s : State) : State :=
  let s := if hdr ≠ .bad ∧ portOn s port then bump s (92 + port) payload.length else s
  match (sensorsOn s port vc).find? fun k => cDt k.2.lo == dt && k.2.cur.isSome with
  | some k => capLine k.1 k.2 hdr crcOk full payload s
  | none => if hdr = .bad then s else unmatched port s

/-- ISP_FRAME_DONE: the oldest ended frame of a sensor leaves its image pipe. Its tile means stay for the next one (R277). -/
def ispDone (i : Nat) (m : IspMade) (s : State) : State :=
  match (s.capture.sensors.filter fun k => k.2.idx == i && !k.2.tail.isEmpty).getLast? with
  | none => s
  | some (k, x) =>
    match x.tail, s.stream? (cHandle x.lo) with
    | c :: cs, some st =>
      let addr := match c.buf.bind s.buf? with
        | some y => y.addr
        | none => 0
      let w := c.width.getD (pMaxW st.par)
      let o := ispFrame c.area m (pTen st.par) w c.raw (if c.first then [] else x.tiles)
      let s := s.putSensor k { x with tail := cs, tiles := o.means }
      let s := putPicture st.par addr w c.line o.luma o.chroma s
      let s := match ispStats c.area with
        | some a => engWrite s a (statBytes c.num c.arrival (pTen st.par) o)
        | none => s
      capLeave k (capEmit x c s)
    | _, _ => s

/-- At the stop, an open frame ends with SHORT_FRAME (R468). -/
def capSnuffed (s : State) : State := (s.capture.sensors.map (·.1)).foldl (fun s k => capClose k true s) s

/-! ### CAP_COMMIT (R270) -/

/-- The commit ends with a result. -/
def capResult (code : Nat) (s : State) : State := (s.setBit Reg.capCommit 8 (code != 0)).setFld Reg.capCommit 15 12 code

/-- A sensor that the accepted set does not enable any more finishes. One with no frame leaves before the commit gives out contexts. -/
def capDisable (i : Nat) (s : State) : State :=
  match s.sensor? i with
  | none => s
  | some x =>
    let s := { s with capture := { s.capture with sensors := terase s.capture.sensors i } }
    let k := 16 + cHandle x.lo
    if x.idle then capGone k x s else s.putSensor k { x with disabling := true, next := none }

/-- A sensor of the accepted set: newly enabled, or with parameters to adopt. -/
def capEnable (x : SensorSet) (s : State) : State :=
  match s.sensor? x.idx with
  | some y => s.putSensor x.idx { y with next := some (x.lo, x.hi, x.area) }
  | none =>
    let par := x.area.take 128
    let s := s.putStream (cHandle x.lo) { kind := .capture x.idx, par := par }
    let s := s.putSensor x.idx { idx := x.idx, lo := x.lo, hi := x.hi, area := x.area }
    let s := { s with pipes := s.pipes.map fun k => (k.1, if leAt k.2.par 1 1 % 16 = x.idx then { k.2 with anaAt := 0 } else k.2) }
    writeStat (cHandle x.lo) s

/-- The accepted set replaces the set accepted last; words of sensors that stay enabled come into force at their next frame. -/
def capAccept (f : Nat) (xs : List SensorSet) (pool : Tab Buf) (s : State) : State :=
  let words := capWords.map fun o => (o, capPend s f o)
  let stay := xs.filter fun x => wasOn s x.idx
  let gone := (List.range 16).filter fun i => wasOn s i && !(xs.any fun x => x.idx == i)
  let s := { s with media := { s.media with pool := pool } }
  let held := stay.flatMap fun x => [Reg.capSensor x.idx, Reg.capSensor x.idx + 8]
  let s := words.foldl (fun s w => if held.contains w.1 then s else s.setReg w.1 w.2) s
  let s := { s with capture := { s.capture with
    acc := words.foldl (fun t w => if w.2 = regReset w.1 then terase t w.1 else tput t w.1 w.2) s.capture.acc
    pend := capWords.foldl (fun t o => terase t (fnKey f o)) s.capture.pend } }
  let s := gone.foldl (fun s i => capDisable i s) s
  giveContexts (xs.foldl (fun s x => capEnable x s) s)

/-- The pending set of a function number is judged and, when it holds, accepted. -/
def capJudge (f : Nat) (s : State) : State :=
  let (s, xs, poison) := capAreas f (List.range 16) s
  let new := xs.filter fun x => !wasOn s x.idx
  if poison || capSetBad s f xs then capResult 1 s
  else if capHandles s new then capResult 2 s
  else
    match capReserve s new with
    | .error e => capResult e s
    | .ok pool => capResult 0 (capAccept f xs pool s)

/-- CAP_COMMIT with GO. -/
def capCommit (fn : Fn) (s : State) : State :=
  if s.outside fn then denied s fn Reg.capCommit
  else if !s.ready then dropCmd s fn Reg.capCommit
  else capJudge fn.num s

/-! ### Frame-sync outputs (R275) -/

def State.fsync (s : State) (n : Nat) : Fsync := tget {} s.capture.fsync n
def State.modFsync (s : State) (n : Nat) (f : Fsync → Fsync) : State :=
  { s with capture := { s.capture with fsync := tmod {} s.capture.fsync n f } }

def fsPeriod (a : W64) : Nat := nbits a.toNat 63 32
def fsPhase (b : W64) : Nat := nbits b.toNat 31 0
def fsWidth (b : W64) : Nat := nbits b.toNat 63 32

/-- Words within the limits. -/
def fsyncOk (a b : W64) : Bool :=
  let p := fsPeriod a
  let w := fsWidth b
  p % 10 == 0 && decide (10000 ≤ p) && fsPhase b % 10 == 0 && decide (fsPhase b < p) && w % 10 == 0 && decide (10 ≤ w) && decide (w + 10 ≤ p)

/-- A time value at which words produce an assertion. -/
def fsyncDue (a b t : W64) : Bool :=
  nbit a.toNat 0 && ((t.toNat : Int) - (fsPhase b : Int)).emod (max 1 (fsPeriod a) : Nat) == 0

/-- A write of word A, with word B as last written. EN 0 drives the inactive level at once, but a pulse that is asserted keeps its width (log 39). -/
def fsyncA (fn : Fn) (n : Nat) (v : W64) (s : State) : State :=
  if s.outside fn then denied s fn (Reg.capFsyncA n)
  else
    let f := s.fsync n
    let b := match f.heldB, f.next with
      | some b, _ => b
      | none, some (_, b) => b
      | none, none => f.b
    if !fsyncOk v b then dropCmd s fn (Reg.capFsyncA n)
    else
      let s := s.setReg (Reg.capFsyncA n) (v &&& 0xFFFFFFFF00000003)
      if nbit v.toNat 0 then s.modFsync n fun f => { f with heldB := none, next := some (v, b) }
      else s.modFsync n fun f => { f with heldB := none, next := none, a := v, b := b, level := if f.since.isSome then f.level else nbit v.toNat 1 }

/-- A write of word B: it waits for word A. -/
def fsyncB (fn : Fn) (n : Nat) (v : W64) (s : State) : State :=
  if s.outside fn then denied s fn (Reg.capFsyncB n)
  else (s.setReg (Reg.capFsyncB n) v).modFsync n fun f => { f with heldB := some v }

/-- A pulse of words begins at a time value. POL set makes the active level low. -/
def pulseOf (f : Fsync) (a b t : W64) : Fsync := { f with a := a, b := b, since := some (t, fsWidth b), level := !nbit a.toNat 1 }

/-- An assertion at this value of the M-clock copy, of words that wait for it or of those in force. -/
def fsyncAssert (n : Nat) (s : State) : State :=
  let f := s.fsync n
  let t := s.clock.timeM
  match f.next.filter fun w => fsyncDue w.1 w.2 t with
  | some (a, b) => s.modFsync n fun f => pulseOf { f with next := none } a b t
  | none => if fsyncDue f.a f.b t then s.modFsync n fun f => pulseOf f f.a f.b t else s

/-- The pulse ends when its width has passed. -/
def fsyncDeassert (n : Nat) (s : State) : State :=
  match (s.fsync n).since with
  | some (t, w) => if w ≤ (s.clock.timeM - t).toNat then s.modFsync n fun f => { f with since := none, level := nbit f.a.toNat 1 } else s
  | none => s

/-! ### Meanings -/

/-- CAP_COMMIT (R270). -/
def execCapCommit (fn : Fn) (s : State) : Out := bar0 fn 4 s (capCommit fn)
/-- FRAME_START_PACKET (R268, R272). -/
def execFrameStartPacket (port : Fin 4) (vc : BitVec 4) (hdr : HdrErr) (s : State) : Out := live s (frameStart port.val vc.toNat hdr)
/-- LONG_PACKET (R268). -/
def execLongPacket (port : Fin 4) (vc : BitVec 4) (dt : BitVec 6) (hdr : HdrErr) (crcOk full : Bool) (payload : List Byte) (s : State) : Out :=
  live s (longPacket port.val vc.toNat dt.toNat hdr crcOk full payload)
/-- FRAME_END_PACKET (R268, R272). -/
def execFrameEndPacket (port : Fin 4) (vc : BitVec 4) (hdr : HdrErr) (s : State) : Out := live s (frameEnd port.val vc.toNat hdr)
/-- ISP_FRAME_DONE (R272, R277, R279). -/
def execIspFrameDone (sensor : Fin 16) (colours medians filtered : List (BitVec 16)) (s : State) : Out :=
  running s (ispDone sensor.val ⟨colours, medians, filtered⟩)
/-- FSYNC_WORD_A (R275). -/
def execFsyncWordA (fn : Fn) (n : Fin 4) (value : W64) (s : State) : Out := live s (orRecord (.fsyncWordA fn n value) (fsyncA fn n.val value))
/-- FSYNC_WORD_B (R275). -/
def execFsyncWordB (fn : Fn) (n : Fin 4) (value : W64) (s : State) : Out := live s (orRecord (.fsyncWordB fn n value) (fsyncB fn n.val value))
/-- FSYNC_ASSERT (R275). -/
def execFsyncAssert (n : Fin 4) (s : State) : Out := live s (fsyncAssert n.val)
/-- FSYNC_DEASSERT (R275). -/
def execFsyncDeassert (n : Fin 4) (s : State) : Out := live s (fsyncDeassert n.val)

end Sys2Proof.Machine
end

