-- ==== Sys2Proof/Machine/Links.lean ====
section
/-!
DEFINITION. The links and what guards them: die-to-die retries and failures (R14, R15, R227, R448), GDDR6 link errors and sector errors (R33,
R34, R436), the fixed split (R36 to R38), and Sweep (R437 to R441). What the check codes find comes with the commands.
-/
namespace Sys2Proof.Machine

/-! ### Die-to-die modules (R14, R15) -/

/-- The numbers of a link in the Ember log: the Hearth, the module, and the peer (R444). -/
def linkArgs : D2d → Nat × Nat × Nat
  | .mantel h m => (h.val, m.val, 4)
  | .flue n => (n.val, 0, (n.val + 1) % 4)

/-- A flit is retried: counted (R14), and reported (R443). -/
def flitRetry (l : D2d) (s : State) : State :=
  let x := linkArgs l
  reportUnnamed (s.addSat (Reg.relCnt 5) 31 0 1) 0x03 0 x.1 x.2.1 x.2.2

/-- The issued computes and movers of a partition: queue and number. -/
def windowItems (s : State) (p : Nat) : List (Nat × Nat) :=
  let w := s.win p
  (match w.exec with
    | some r => [(r.q.toNat, r.uid)]
    | none => []) ++
  (match w.next with
    | some x => [(x.1.toNat, x.2)]
    | none => []) ++ w.movers.map fun x => (x.1.toNat, x.2)

/-- A descriptor in a window ends at once with an error, unless one was found before (R204). -/
def endAs (st : Stop) (s : State) (x : Nat × Nat) : State :=
  (dropFromWindow s x.1 [x.2]).modItem x.1 x.2 fun i =>
    if 0x10 ≤ i.status.toNat then { i with finished := true }
    else { i with finished := true, status := st.status, info := BitVec.ofNat 48 st.info, detail := BitVec.ofNat 8 st.detail }

/-- A descriptor in execution ends with LINK_FAILURE (R15), unless an error was found before. -/
def endLink (h : Nat) (s : State) (x : Nat × Nat) : State := endAs ⟨0x21, h, 0⟩ s x

/-- Hearth `h` is cut off: every descriptor in execution on a partition with one of its cores ends, and its cores go at the next start. -/
def cutOff (h : Nat) (s : State) : State :=
  let ps := (List.range 16).filter fun p => s.partEn p && (s.coreList p).any fun c => c / 4 == h
  let s := ps.foldl (fun s p => (windowItems s p).foldl (endLink h) s) s
  { s with boot := { s.boot with nextHearths := s.boot.nextHearths ||| BitVec.ofNat 4 (2 ^ h) } }

/-- MODULE_FAILED: logged, the device degrades, and what R15 says of the module follows. A module fails once. -/
def moduleFailed (l : D2d) (s : State) : State :=
  match l with
  | .mantel h m =>
    let k := 2 * h.val + m.val
    if s.fabric.modFailed.toNat.testBit k then s
    else
      let s := { s with fabric := { s.fabric with modFailed := s.fabric.modFailed ||| BitVec.ofNat 8 (2 ^ k) } }
      let s := degrade (report s 0x03 0x20 h.val m.val 4)
      if s.hearthCut h.val then cutOff h.val s else s
  | .flue n =>
    if s.fabric.flueFailed.toNat.testBit n.val then s
    else
      let s := { s with fabric := { s.fabric with flueFailed := s.fabric.flueFailed ||| BitVec.ofNat 4 (2 ^ n.val) } }
      attnFlueFailed (degrade (report s 0x03 0x20 n.val 0 ((n.val + 1) % 4)))

/-! ### GDDR6 link errors (R33) -/

/-- A sector's transfer has failed for good: a read returns poisoned data, a write is dropped, and either is logged (R33, R443). -/
def transferLost (a : Nat) (write : Bool) (s : State) : State :=
  let k := a / 32 * 32
  let s := { s with fabric := { s.fabric with lost := s.fabric.lost ++ [(k, write)] } }
  if write then report s 0x01 0x10 k (k / 2 ^ 32) (s.chanOf k) else reportUnnamed s 0x01 1 k (k / 2 ^ 32) (s.chanOf k)

/-- A channel fails retraining at run time (R448): logged, excluded at the next start, the device degrades. -/
def channelFailed (g : Nat) (s : State) : State :=
  let m := BitVec.ofNat 16 (2 ^ g)
  let s := { s with fabric := { s.fabric with chFailed := s.fabric.chFailed ||| m, chOffline := s.fabric.chOffline &&& ~~~m }
                    boot := { s.boot with nextChannels := s.boot.nextChannels ||| m } }
  degrade (report s 0x01 0x11 g 3 0)

/-- The channel is out of service for transfers: failed, or offline for retraining. -/
def State.chDown (s : State) (g : Nat) : Bool := s.fabric.chFailed.toNat.testBit g || s.fabric.chOffline.toNat.testBit g

/-- EDC_FAILURE: the attempt at a sector that `failed` retries came before has failed too. A retry follows, or after the fourth one the channel
goes offline and is retrained. -/
def edcFailure (a : Nat) (write : Bool) (failed : Nat) (s : State) : State :=
  let k := a / 32 * 32
  let g := s.chanOf a
  let due := match tfind s.fabric.edc g with
    | some e => e.addr == k && e.write == write && e.retries == failed
    | none => false
  if !s.fabric.gddrTrained || decide (s.usable ≤ a) || s.chDown g || !(failed == 0 || due) then s
  else if failed < 4 then
    let s := s.addSat (Reg.relCnt 2) 31 0 1
    { s with fabric := { s.fabric with edc := tput s.fabric.edc g ⟨k, write, failed + 1⟩ } }
  else { s with fabric := { s.fabric with chOffline := s.fabric.chOffline ||| BitVec.ofNat 16 (2 ^ g) } }

/-- EDC_RETRAIN_DONE: the retraining of the channel ends; the transfer is tried once more, and lost when that fails too. -/
def edcRetrainDone (a : Nat) (trained ok : Bool) (s : State) : State :=
  let g := s.chanOf a
  match tfind s.fabric.edc g with
  | none => s
  | some e =>
    if !s.fabric.chOffline.toNat.testBit g then s
    else
      let m := BitVec.ofNat 16 (2 ^ g)
      let s := { s with fabric := { s.fabric with edc := terase s.fabric.edc g, chOffline := s.fabric.chOffline &&& ~~~m } }
      if !trained then channelFailed g s
      else if ok then s else transferLost e.addr e.write s

/-! ### Sector errors (R34, R436) -/

/-- The bytes that an agent other than a core's descriptors moves in the banks of the SRAM word or line at `a`, counted (R460). -/
def bankBytes (write : Bool) (a n : Nat) (s : State) : State :=
  match s.placeOf a with
  | .core c => bump s (2 * c + write.toNat) n
  | .hearth h => bump s (32 + 2 * h + write.toNat) n
  | _ => s

/-- A corrected sector or word is written back (R34, R433, R440): one write transfer of its channel, or a bank's bytes. -/
def writeBack (k : Nat) (s : State) : State :=
  if k < s.usable then bump s (57 + 2 * s.chanOf k) 32 else bankBytes true k 8 s

/-- A protected word or sector is read: a single-bit error is corrected and written back, an uncorrectable one leaves the granule poisoned. A
granule that is poisoned reads as uncorrectable (R35). -/
def eccRead (k : Nat) (found : EccFound) (s : State) : State :=
  if tget false s.poison k then errUncorrectable s k
  else
    match found with
    | .clean => s
    | .single => writeBack k (errCorrected s k)
    | .uncorrectable => errUncorrectable { s with poison := tset false s.poison k true } k

/-- GDDR6_READ: a sector is read. -/
def gddr6Read (a : Nat) (found : EccFound) (s : State) : State :=
  if s.usable ≤ a then s else bump (eccRead (a / 32 * 32) found s) (56 + 2 * s.chanOf a) 32

/-! ### The fixed split (R36 to R38) -/

/-- Credited slots of a share in sixteenths, of the 248 that carry data. -/
def credit (share : Nat) : Nat := share * 248 / 16

/-- Slots served in one window: read, write, remote, idle. Credited slots go first; what is left is lent to reads, then writes, then remote. -/
def splitServe (sr sw sm r w m : Nat) : Nat × Nat × Nat × Nat :=
  let r0 := min r (credit sr)
  let w0 := min w (credit sw)
  let m0 := min m (credit sm)
  let left := 248 - (r0 + w0 + m0)
  let r1 := min (r - r0) left
  let w1 := min (w - w0) (left - r1)
  let m1 := min (m - m0) (left - r1 - w1)
  (r0 + r1, w0 + w1, m0 + m1, left - r1 - w1 - m1)

/-- SPLIT_WINDOW_END: the window's service is recorded and unused credit expires. -/
def splitWindowEnd (g r w m : Nat) (s : State) : State :=
  if !nbit s.chanMask g then s
  else
    let k := Reg.memSplit
    let v := splitServe (s.fld k 3 0) (s.fld k 7 4) (s.fld k 11 8) r w m
    let t := tset 0 (tset 0 (tset 0 (tset 0 s.fabric.served (4 * g) v.1) (4 * g + 1) v.2.1) (4 * g + 2) v.2.2.1) (4 * g + 3) v.2.2.2
    { s with fabric := { s.fabric with served := t } }

/-! ### Sweep (R437 to R441) -/

/-- Sweep runs: step 9 of R24, firmware alive, and not suspended (R441). -/
def State.sweepRuns (s : State) : Bool := s.boot.step == 9 && !s.boot.fwStopped && !s.bit Reg.relSweep 48

/-- An activity on a channel may start: GDDR6 is awake, and the channel is in service and not being retrained on demand. -/
def State.sweepChan (s : State) (g : Nat) : Bool := s.sweepRuns && !s.fabric.selfRefresh && nbit s.chanMask g && !s.chDown g

/-- A span of T-tick has passed since a time that is kept by channel or Hearth; before the first one, since T-tick 0 (log 47). -/
def since (t : Tab W64) (k ns : Nat) (s : State) : Bool := decide ((tget 0 t k).toNat + ns ≤ s.clock.timeF.toNat)

/-- A channel is offline for an activity of Sweep (R437). -/
def State.sweepOff (s : State) (g : Nat) : Bool := decide (s.clock.timeF.toNat < (tget 0 s.sweep.offUntil g).toNat)

/-- CAL of a channel is due: every 128 ms (R437). -/
def calDue (g : Nat) (s : State) : Bool := since s.sweep.calAt g 128000000 s

/-- A step of a RETRAIN is due: the next one of a retraining that has begun, 2 ms after the last, or the first, 1 hour after the last retraining. That the PHY
temperature has moved is known with the command. -/
def retrainDue (g : Nat) (s : State) : Bool :=
  if tget 0 s.fabric.retrain g ≠ 0 then since s.sweep.stepAt g 2000000 s else since s.sweep.retrainAt g 3600000000000 s

/-- A retraining comes before the other activities of a channel that has been suspended (R441, R472). -/
def retrainFirst (g : Nat) (s : State) : Bool := s.sweep.resumed.toNat.testBit g && retrainDue g s

/-- An activity has started on a channel: it is offline for it, and the suspension is behind it. -/
def sweepStart (g ns : Nat) (s : State) : State :=
  { s with sweep := { s.sweep with offUntil := tset 0 s.sweep.offUntil g (s.clock.timeF + BitVec.ofNat 64 ns)
                                   resumed := s.sweep.resumed &&& ~~~(BitVec.ofNat 16 (2 ^ g)) } }

/-- CAL: one calibration step of a channel that is due, unless a retraining comes first; the channel is offline for 1 µs (R437, R438). -/
def calStep (g : Nat) (s : State) : State :=
  if !s.sweepChan g || s.sweepOff g || !calDue g s || retrainFirst g s then s
  else sweepStart g 1000 { s with sweep := { s.sweep with calAt := tset 0 s.sweep.calAt g s.clock.timeF } }

/-- A step of a retraining may start: its trigger is met and 2 ms have passed since the step before, and CAL is not due, or comes after it. -/
def retrainMay (g : Nat) (moved : Bool) (s : State) : Bool :=
  s.sweepChan g && !s.sweepOff g && (retrainDue g s || (moved && tget 0 s.fabric.retrain g == 0)) && (!calDue g s || s.sweep.resumed.toNat.testBit g)

/-- RETRAIN: one of the three steps of a periodic retraining, for which the channel is offline; the last one counts, and a failed one fails the channel. -/
def retrainStep (g : Nat) (x : RetrainStep) (s : State) : State :=
  if !retrainMay g x.moved s then s
  else
    let n := tget 0 s.fabric.retrain g + 1
    let s := sweepStart g (if n < 3 then 16000 else 8000) { s with sweep := { s.sweep with stepAt := tset 0 s.sweep.stepAt g s.clock.timeF } }
    if !x.trained then channelFailed g { s with fabric := { s.fabric with retrain := tset 0 s.fabric.retrain g 0 } }
    else
      let s := { s with fabric := { s.fabric with retrain := tset 0 s.fabric.retrain g (n % 3) } }
      if n < 3 then s
      else
        { s with sweep := { s.sweep with retrainAt := tset 0 s.sweep.retrainAt g s.clock.timeF } }.setFld Reg.relSweep 47 32
          (s.fld Reg.relSweep 47 32 + 1)

/-- A sector that a scrub reads: one read transfer, and a second one where it is to be corrected (R440). -/
def scrubSector (k : Nat) (found : EccFound) (s : State) : State :=
  let again := found == .single && !tget false s.poison k
  bump (eccRead k found s) (56 + 2 * s.chanOf k) (if again then 64 else 32)

/-- GSCRUB: one 256-byte unit is read, and its eight sectors meet what `found` says of each; it waits for CAL and RETRAIN of its channel (R438). The last
unit ends a full pass. -/
def gscrub (a : Nat) (found : List EccFound) (endsPass : Bool) (s : State) : State :=
  let g := s.chanOf a
  if s.usable ≤ a || !s.sweepChan g || s.sweepOff g || calDue g s || retrainDue g s then s
  else
    let s := (List.range 8).foldl (fun s i => scrubSector (a / 256 * 256 + 32 * i) (found.getD i .clean) s) s
    if endsPass then s.setFld Reg.relSweep 15 0 (s.fld Reg.relSweep 15 0 + 1) else s

/-- R434: the control core that reads the uncorrectable word found at `off` of firmware complex SRAM stops, and with it every firmware loop; the
hold of the live update applies from then on. -/
def fwMeets (off : Nat) (found : EccFound) (core : Option Nat) (s : State) : State :=
  match found, core with
  | .uncorrectable, some c => report ({ s with boot := { s.boot with fwStopped := true } }.setBit Reg.pwrStatus 42 true) 0x0E 0x90 c off 0
  | _, _ => s

/-- An address of on-chip SRAM. -/
def State.isSram (s : State) (a : Nat) : Bool :=
  match s.placeOf a with
  | .gddr => false
  | .none => false
  | _ => true

/-- Structure code, instance and source of a structure inside an engine (R443, R489). -/
def innerCodes : InnerStore → Nat × Nat × Nat
  | .accumulator c b => (4, 2 * c.val + b.toNat, 0x02)
  | .elementRegs c => (5, c.val, 0x02)
  | .programs c => (6, c.val, 0x02)
  | .queueState => (7, 0, 0x02)
  | .dispatcher h => (8, h.val, 0x02)
  | .ispStaging p => (15, p.val, 0x06)

/-- Partition `p` works with the structure: it holds the core, or a core of the Hearth; all work with the queue manager. -/
def innerServes (s : State) (p : Nat) : InnerStore → Bool
  | .accumulator c _ => (s.coreList p).contains c.val
  | .elementRegs c => (s.coreList p).contains c.val
  | .programs c => (s.coreList p).contains c.val
  | .queueState => true
  | .dispatcher h => (s.coreList p).any fun c => c / 4 == h.val
  | .ispStaging _ => false

/-- The error of a descriptor that meets an uncorrectable word inside an engine (R433). -/
def innerStop : Stop := ⟨0x20, 0xFFFFFFFFFFFF, 0⟩

/-- A descriptor meets an uncorrectable word of a structure it uses: the one in EXEC stops as at any other error, and one that the queue manager
holds in NEXT or as a mover ends (R433). One that a sensor's image pipe meets adds to ECC of its stream (R258, R273). -/
def innerMeets (st : InnerStore) (u : InnerUser) (s : State) : State :=
  match u with
  | .none => s
  | .exec p =>
    match s.running? p.val with
    | some x => if innerServes s p.val st then stopRun x innerStop s else s
    | none => s
  | .held q uid =>
    if st == .queueState && (windowItems s (s.queue q.toNat).part).contains (q.toNat, uid) &&
        !((s.win (s.queue q.toNat).part).exec.any fun r => r.q == q && r.uid == uid) then endAs innerStop s (q.toNat, uid)
    else s
  | .sensor i =>
    match st, (s.capture.sensors.map (·.2)).find? fun x => x.idx == i.val with
    | .ispStaging p, some x => if x.ctx == some p.val then count (cHandle x.lo) 44 1 s else s
    | _, _ => s

/-- A media engine that works for stream `h` meets an uncorrectable word of media staging: handled as a poisoned read under R258. A decode stream counts it
in ECC, and its frame on a pixel pipe is flagged CONCEALED; an encode session counts it in DAMAGED, and its frame is marked. Which of its frames the
engine works on is DEDUCED, log 13; what a bit engine then parses comes with AU_PARSE_DONE. -/
def stagingMet (h : Nat) (s : State) : State :=
  match s.stream? h with
  | none => s
  | some x =>
    if isEncode x.kind then
      count h 32 1 (s.modEnc h fun e => { e with run := e.run.map fun r => { r with staged := true } })
    else if isDecode x.kind then
      count h 48 1 (s.modDec h fun d => { d with frames := d.frames.map fun p =>
        match p.stage with
        | .onPipe _ _ => if p.flags / 2 % 2 = 0 then { p with flags := p.flags + 2 } else p
        | _ => p })
    else s

/-- A parity error of a TLB entry: the entry is invalidated and walked again at its next use; counted, with no record (R433). -/
def tlbParity (c va : Nat) (s : State) : State :=
  let l := tget [] s.mmu.tlb c
  let m := l.filter fun e => !(decide (e.va ≤ va) && decide (va < e.va + e.size))
  if m.length = l.length then s else { s with mmu := { s.mmu with tlb := tset [] s.mmu.tlb c m } }.addSat (Reg.relCnt 3) 31 0 1

/-- A parity error of an entry of a walk cache. -/
def walkParity (h part level va : Nat) (s : State) : State :=
  let l := tget [] s.mmu.walks h
  let m := l.filter fun e => !(e.part == part && e.level == level && e.va == va)
  if m.length = l.length then s else { s with mmu := { s.mmu with walks := tset [] s.mmu.walks h m } }.addSat (Reg.relCnt 3) 31 0 1

/-- A read of the word by its user comes whether or not Sweep runs. -/
def wordInUse : ScrubWord → Bool
  | .inner _ _ u => u != .none
  | .fwSram _ c => c.isSome
  | .mediaStaging _ u => u.isSome
  | .tlb _ _ => true
  | .walk _ _ _ _ => true
  | .addr _ => false

/-- The eight words of the 64-byte line that holds byte `o`: the offset of each, with what is found there. -/
def lineWords (o : Nat) (found : List EccFound) : List (Nat × EccFound) := (List.range 8).map fun i => (o / 64 * 64 + 8 * i, found.getD i .clean)

/-- Something uncorrectable is among what is found in a line. -/
def anyLost (found : List EccFound) : Bool := (found.take 8).contains .uncorrectable

/-- SSCRUB: one 64-byte line is read in an idle bank cycle, and its words meet what `found` says of each; the last line ends a full pass. A word inside an
engine may be read by its user instead, which is then the command's operand (log 13). -/
def sscrub (w : ScrubWord) (found : List EccFound) (endsPass : Bool) (s : State) : State :=
  if !s.sweepRuns && !wordInUse w then s
  else
    let each := fun (k : Nat → EccFound → State → State) (o : Nat) (s : State) => (lineWords o found).foldl (fun s x => k x.1 x.2 s) s
    let s := match w with
      | .addr a => if s.isSram a then bankBytes false a 64 (each eccRead a s) else s
      | .mediaStaging o u =>
        let s := each (eccInside 3 0x05 10 0) o s
        (match u with
          | some h => if anyLost found then stagingMet h.val s else s
          | none => s)
      | .fwSram o core => (lineWords o found).foldl (fun s x => eccInside 3 0x0E 13 0 x.1 x.2 s |> fwMeets x.1 x.2 core) s
      | .inner st o u =>
        let s := each (eccInside 3 (innerCodes st).2.2 (innerCodes st).1 (innerCodes st).2.1) o s
        if anyLost found then innerMeets st u s else s
      | .tlb c va => if found.any (· != .clean) then tlbParity c.val va s else s
      | .walk h p level va => if found.any (· != .clean) then walkParity h.val p.val level va s else s
    if endsPass && s.sweepRuns then s.setFld Reg.relSweep 31 16 (s.fld Reg.relSweep 31 16 + 1) else s

/-- An uncorrectable word of the journal breaks the copy of the record that stands there; a reader falls back to the other copy (R433, R435). Where the
copies stand is free: log 13. -/
def journalFinds (off : Nat) (found : EccFound) (s : State) : State :=
  match found, Config.journalPlace off with
  | .uncorrectable, some (0, newer) => modJournal .counters (recordBreak newer) s
  | .uncorrectable, some (1, newer) => modJournal .repairMap (recordBreak newer) s
  | .uncorrectable, some (2, newer) => modJournal .margin (recordBreak newer) s
  | _, _ => s

/-- WEAR: wear levelling moves a journal block, which is not visible (R437); what its read finds is (R433). -/
def wearStep (off : Nat) (found : EccFound) (s : State) : State := if s.sweepRuns then journalFinds off found (flashFinds off found s) else s

/-- TELEM: the monitors of a Hearth are sampled, every 1 s; nothing else of it is visible (R437). -/
def telemStep (h : Nat) (s : State) : State :=
  if s.sweepRuns && since s.sweep.telemAt h 1000000000 s then
    { s with sweep := { s.sweep with telemAt := tset 0 s.sweep.telemAt h s.clock.timeF } }
  else s

/-! ### Meanings -/

/-- D2D_FLIT_RETRY (R14). -/
def execD2dFlitRetry (link : D2d) (s : State) : Out := live s (flitRetry link)
/-- MODULE_FAILED (R15). -/
def execModuleFailed (link : D2d) (s : State) : Out := live s (moduleFailed link)
/-- EDC_FAILURE (R33). -/
def execEdcFailure (addr : Nat) (write : Bool) (failed : Fin 5) (s : State) : Out := live s (edcFailure addr write failed.val)
/-- EDC_RETRAIN_DONE (R33). -/
def execEdcRetrainDone (addr : Nat) (trained ok : Bool) (s : State) : Out := live s (edcRetrainDone addr trained ok)
/-- GDDR6_READ (R34). -/
def execGddr6Read (addr : Nat) (found : EccFound) (s : State) : Out := live s (gddr6Read addr found)
/-- SPLIT_WINDOW_END (R37). -/
def execSplitWindowEnd (channel : Fin 16) (reads writes remotes : Nat) (s : State) : Out :=
  live s (splitWindowEnd channel.val reads writes remotes)
/-- CAL (R437). -/
def execCal (channel : Fin 16) (s : State) : Out := live s (calStep channel.val)
/-- RETRAIN (R437). -/
def execRetrain (channel : Fin 16) (step : RetrainStep) (s : State) : Out := live s (retrainStep channel.val step)
/-- GSCRUB (R437, R440). -/
def execGscrub (addr : Nat) (found : List EccFound) (endsPass : Bool) (s : State) : Out := live s (gscrub addr found endsPass)
/-- SSCRUB (R440). -/
def execSscrub (word : ScrubWord) (found : List EccFound) (endsPass : Bool) (s : State) : Out := live s (sscrub word found endsPass)
/-- WEAR (R437). -/
def execWear (off : Nat) (found : EccFound) (s : State) : Out := live s (wearStep off found)
/-- TELEM (R437). -/
def execTelem (hearth : Fin 4) (s : State) : Out := live s (telemStep hearth.val)

end Sys2Proof.Machine
end

