-- ==== Sys2Proof/Machine/Observe.lean ====
section
/-!
DEFINITION. Observation: byte counters and their reset (R460 to R462), the counter match (R470), trace (R463 to R465, R471), the triggers and
the stop of Snuff (R466 to R469), the scan-out image (R473, R474) and the test access port (R486). The resume stands with the replay of
recorded writes in Resume.lean.
-/
namespace Sys2Proof.Machine

/-- A write of a DBG register: the PF alone (R53). -/
def dbgWrite (fn : Fn) (addr : Nat) (k : State → State) (s : State) : State := if fn = .pf then k s else denied s fn addr

/-! ### Counters (R462) -/

/-- The reset group of a counter. -/
def cntGroup (i : Nat) : Nat :=
  if i < 32 then 0 else if i < 40 then 1 else if i < 48 then 2 else if i < 56 then 3 else if i < 88 then 4 else if i < 90 then 5
  else if i < 92 then 6 else 7

/-- One counter at 0, with its epoch advanced. -/
def cntZero (s : State) (i : Nat) : State := (s.setFld (Reg.dbgBcnt i) 47 0 0).setFld (Reg.dbgBcnt i) 55 48 (s.fld (Reg.dbgBcnt i) 55 48 + 1)

/-- CNT_RESET: the counters of the groups start again; a match on one of them is armed anew at 0 (R470). -/
def cntReset (fn : Fn) (groups : Byte) (s : State) : State :=
  dbgWrite fn Reg.dbgCntcmd (fun s =>
    let s := ((List.range 96).filter fun i => groups.toNat.testBit (cntGroup i)).foldl cntZero s
    if groups.toNat.testBit (cntGroup (s.fld Reg.dbgMatch 7 1)) then { s with dbg := { s.dbg with matchBase := 0 } } else s) s

/-- DBG_MATCH_ARM: a write of DBG_MATCH; arming takes the counter's value. -/
def matchWrite (fn : Fn) (v : W64) (s : State) : State :=
  dbgWrite fn Reg.dbgMatch (fun s =>
    let i := nbits v.toNat 7 1
    if 96 ≤ i then dropCmd s fn Reg.dbgMatch
    else
      let s := s.setReg Reg.dbgMatch (v &&& 0xFFFFFFFFFFFF00FF)
      if nbit v.toNat 0 then { s with dbg := { s.dbg with matchBase := s.fld (Reg.dbgBcnt i) 47 0 } } else s) s

/-- SNUFF_MATCH: the armed counter has advanced by DELTA; Snuff is triggered and EN clears. -/
def matchFire (s : State) : State :=
  let d := Reg.dbgMatch
  let moved := (s.fld (Reg.dbgBcnt (s.fld d 7 1)) 47 0 + 2 ^ 48 - s.dbg.matchBase) % 2 ^ 48
  if s.bit d 0 && decide (s.fld d 63 16 ≤ moved) then snuffTrigger 3 0xF 0 (s.setBit d 0 false) else s

/-! ### Trace (R463 to R465) -/

/-- Physical address of a descriptor in its ring. -/
def Queue.descAddr (x : Queue) (i : W32) : Nat := x.ringBase + i.toNat % 2 ^ x.ringLog * 256

/-- The EXEC descriptor of a core's partition: queue and physical address. -/
def State.execAt (s : State) (c : Nat) : Option (Nat × Nat) :=
  (s.coreRun c).map fun x => (x.run.q.toNat, (s.queue x.run.q.toNat).descAddr x.item.idx)

/-- A core holds a query tile of the running ATTN that has not merged (R194, R215). -/
def runsTile (s : State) (c : Nat) : Bool :=
  match s.attnNow with
  | none => false
  | some (a, x) => (tilesOfCore s a x.item.bounds c).any fun t => !a.merged.contains t

/-- A core runs a unit: one is with its element engine, a bank of it waits for its drain, it has N-tiles of its unit left (R107), or it holds a query
tile of an ATTN. -/
def runsUnit (s : State) (c : Nat) : Bool :=
  let k := s.core c
  k.unit.isSome || k.bank0.isSome || k.bank1.isSome || k.arg.isSome || runsTile s c

/-- A queue is held by the scoreboard alone (R197, R199). -/
def heldByBoard (s : State) (x : Queue) : Bool :=
  match nextGood x with
  | some f =>
    let k := partKind f.bytes
    offered s k x && condSlots x && condValid s x f && !condBoard s x f && partFree s x.part k && !s.partCut x.part && admitted s x
  | none => false

/-- A queue is held: its next descriptor has been read and fails a condition of R192. -/
def heldQueue (s : State) (q : Nat) (x : Queue) : Bool :=
  match nextUp x with
  | some f => condActive x f && !mayIssue s q f
  | none => false

/-- The NEXT descriptor of a partition is an ATTN that R214 alone keeps out of EXEC. -/
def attnHeld (s : State) (p : Nat) : Bool :=
  let w := s.win p
  match w.exec, w.next with
  | none, some (q, uid) =>
    (match s.item q.toNat uid with
      | some i => dOp i.bytes == .attn && !attnMayStart s p && !quietHeld s (s.queue q.toNat) && !s.cancelling q.toNat
      | none => false)
  | _, _ => false

/-- The state code of a core (R199, R214, R463). -/
def traceState (s : State) (c : Nat) (w : UnitWait) : Nat :=
  if s.stopped then 6
  else if runsUnit s c then
    match w with
    | .run => 0
    | .operand => 3
    | .output => 4
  else if s.grantHold then 5
  else
    match s.partOfCore c with
    | none => 7
    | some p =>
      let hs := (s.queuesOf p).filter fun x => heldQueue s x.1 x.2
      if attnHeld s p || hs.any fun x => heldByBoard s x.2 then 1
      else if !hs.isEmpty && hs.all fun x => heldBySem s x.2 then 2 else 7

/-- The 16 bytes of a sample (R464). -/
def traceBytes (s : State) (c state : Nat) : List Byte :=
  let (q, a) := (s.execAt c).getD (0xFFFF, 0)
  leBytes 4 (a / 256) ++ leBytes 2 q ++ leBytes 1 c ++ leBytes 1 (0x80 + state) ++ leBytes 8 s.clock.timeF.toNat

def State.traceOn (s : State) (c : Nat) : Bool := s.bit Reg.dbgTraceCfg 0 && nbit (s.fld Reg.dbgTraceCfg 55 40) c

def State.traceHeld (s : State) (h : Nat) : List (List Byte) := (tget ⟨[]⟩ s.dbg.lines h).samples

def State.setTraceHeld (s : State) (h : Nat) (l : List (List Byte)) : State :=
  { s with dbg := { s.dbg with lines := tset ⟨[]⟩ s.dbg.lines h ⟨l⟩ } }

/-- Bytes of the trace ring. -/
def State.traceSize (s : State) : Nat := 2 ^ s.fld Reg.dbgTraceCfg 60 56

/-- `n` samples are dropped. -/
def traceDrop (s : State) (n : Nat) : State := s.addSat Reg.dbgTraceStat 63 48 n

/-- The oldest line of a Hearth is written to the ring: wrapped in MODE 0, dropped when the ring is full in MODE 1. -/
def traceLine (h : Nat) (s : State) : State :=
  let l := (s.traceHeld h).take 16
  if l.isEmpty then s
  else
    let s := s.setTraceHeld h ((s.traceHeld h).drop 16)
    let wr := s.fld Reg.dbgTraceStat 47 0
    if s.bit Reg.dbgTraceCfg 1 && decide (s.traceSize ≤ wr) then traceDrop s l.length
    else
      let a := s.fld Reg.dbgTraceCfg 39 12 * 4096 + wr % s.traceSize
      let s := if s.inGddrStaging a 256 then devWrite (.core (4 * h)) s a (padTo 256 l.flatten) else s
      s.setFld Reg.dbgTraceStat 47 0 (wr + 256)

/-- Every held line of a Hearth is written. -/
def traceDrain (s : State) (h : Nat) : State := traceLine h (traceLine h (traceLine h (traceLine h s)))

/-- A sample enters its Hearth's holding, or is dropped when 64 are held. -/
def traceHold (c state : Nat) (s : State) : State :=
  let h := c / 4
  let l := s.traceHeld h
  if s.bit Reg.dbgTraceCfg 1 && decide (s.traceSize ≤ s.fld Reg.dbgTraceStat 47 0) then traceDrop s 1
  else if 64 ≤ l.length then traceDrop s 1
  else s.setTraceHeld h (l ++ [traceBytes s c state])

/-- TRACE_SAMPLE: the sample, and the line it fills unless the cap on trace writes holds it back (R38). -/
def traceSample (c : Nat) (w : UnitWait) (capped : Bool) (s : State) : State :=
  if !s.traceOn c || s.stopped || !nbit (s.fld Reg.glbCaps2 31 16) c then s
  else
    let s := traceHold c (traceState s c w) s
    if !capped && decide (16 ≤ (s.traceHeld (c / 4)).length) then traceLine (c / 4) s else s

/-- TRACE_LINE_FLUSH: the oldest line of a Hearth is written, full or not. -/
def traceFlush (h : Nat) (s : State) : State := if s.bit Reg.dbgTraceCfg 0 then traceLine h s else s

/-- TRACE_CFG_WRITE: dropped while EN is 1 unless it clears EN, which writes the partial lines; setting EN needs K of 8 to 20 and resets WR. -/
def traceCfgWrite (fn : Fn) (v : W64) (s : State) : State :=
  dbgWrite fn Reg.dbgTraceCfg (fun s =>
    let x := v.toNat
    let on := nbit x 0
    let was := s.bit Reg.dbgTraceCfg 0
    let k := nbits x 6 2
    if on && (was || decide (k < 8 ∨ 20 < k)) then dropCmd s fn Reg.dbgTraceCfg
    else
      let s := if was then (List.range 4).foldl traceDrain s else s
      let s := s.setReg Reg.dbgTraceCfg (v &&& 0x1FFFFFFFFFFFF07F)
      if on then s.setFld Reg.dbgTraceStat 47 0 0 else s) s

/-! ### Snuff: triggers and stop (R466 to R471) -/

/-- SNUFF_N is driven while Snuff is in force and PIN_OUT is 1; a driven pin does not trigger (R469). -/
def drivePin (s : State) : State :=
  let d := s.stopped && s.bit Reg.dbgSnuff 3
  { s with pins := { s.pins with snuffDrive := d, snuffArmed := s.pins.snuffArmed && !d } }

/-- A write of DBG_SNUFF: PIN_IN and PIN_OUT are stored, RESUME is judged (R472), and GO triggers. -/
def snuffWrite (fn : Fn) (v : W64) (s : State) : State :=
  dbgWrite fn Reg.dbgSnuff (fun s =>
    let d := Reg.dbgSnuff
    let was := s.fld d 9 8
    let s := drivePin (s.setFld d 3 2 (nbits v.toNat 3 2))
    let s := if !nbit v.toNat 1 then s
      else if was = 2 ∧ s.pwrState ≠ 3 then s.setFld d 9 8 3
      else dropCmd s fn d
    if nbit v.toNat 0 && was == 0 then snuffTrigger 1 0xF 0 s else s) s

/-- SNUFF_GO and SNUFF_RESUME: a write with one of the two bits and the pin bits as they stand. -/
def snuffBit (fn : Fn) (b : Nat) (s : State) : State := snuffWrite fn (BitVec.ofNat 64 (4 * s.fld Reg.dbgSnuff 3 2 + 2 ^ b)) s

/-- SNUFF_PIN: sampled low for two AON-clocks while enabled and armed. The wire must go high before it stops the device again. -/
def snuffPin (s : State) : State :=
  if s.bit Reg.dbgSnuff 2 && s.pins.snuffArmed then snuffTrigger 2 0xF 0 { s with pins := { s.pins with snuffArmed := false } } else s

/-- SNUFF_PIN_REARM: sampled high for two AON-clocks after the device has released the pin. -/
def snuffRearm (s : State) : State := if s.pins.snuffDrive then s else { s with pins := { s.pins with snuffArmed := true } }

/-- Each traced core writes one sample with state STOPPED, and every line is written (R467, R471). -/
def traceStopped (s : State) : State :=
  if !s.bit Reg.dbgTraceCfg 0 then s
  else
    let s := ((List.range 16).filter fun c => s.traceOn c && nbit (s.fld Reg.glbCaps2 31 16) c).foldl (fun s c => traceHold c 6 s) s
    (List.range 4).foldl traceDrain s

/-- SNUFF_STOPPED: the drain is over, open capture frames end short, GDDR6 is in self-refresh, and SNUFFED is set. -/
def snuffStopped (s : State) : State :=
  if s.fld Reg.dbgSnuff 9 8 ≠ 1 then s
  else
    let s := traceStopped (capSnuffed s)
    let s := { s with fabric := { s.fabric with selfRefresh := true }, sweep := { s.sweep with resumed := 0xFFFF } }
    setStatus (s.setFld Reg.dbgSnuff 9 8 2) 5 true

/-! ### The scan-out image (R473) -/

/-- Free bytes of the image: `n` words from place `i`. -/
def scanFree (run i : Nat) : Nat → List Byte
  | 0 => []
  | n + 1 => leBytes 4 (Config.scanWord run i).toNat ++ scanFree run (i + 1) n

/-- One section: its header and its data, padded to a multiple of 64 bytes. -/
def scanSection (kind inst : Nat) (data : List Byte) : List Byte :=
  leBytes 1 kind ++ leBytes 1 inst ++ [0, 0] ++ leBytes 4 data.length ++ List.replicate 56 0 ++ padTo (alignUp data.length 64) data

/-- Places of free words: apart for each kind and core. -/
def scanPlace (kind core : Nat) : Nat := (16 * kind + core) * 65536

/-- KIND 1: the EXEC descriptor, its address, the current unit, the step, the trace state, the bank and the instruction. -/
def scanCore (s : State) (run c : Nat) : List Byte :=
  let k := s.core c
  let d := match s.coreRun c with
    | some x => x.item.bytes
    | none => []
  let bank := if k.unit.isNone && k.bank0.isNone && k.bank1.isNone then 0 else k.lastBank1.toNat
  let unit := match k.unit, k.bank0, k.bank1 with
    | some u, _, _ => u
    | none, b, e => ((if k.lastBank1 then e else b).map (·.unit)).getD 0
  padTo 512 (padTo 256 d ++ leBytes 8 ((s.execAt c).getD (0, 0)).2 ++ leBytes 4 unit ++ scanFree run (scanPlace 1 c) 1 ++ [6] ++
    leBytes 1 bank ++ leBytes 1 (Config.scanWord run (scanPlace 1 c + 1)).toNat)

/-- KIND 2: the words of one accumulator bank. -/
def scanBank (s : State) (run i c : Nat) (b : Option Bank) : List Byte :=
  (List.range 16384).flatMap fun j =>
    let w := match s.coreRun c, b with
      | some x, some y => bankWord x.item.bytes x.item.bounds x.run.widened y j
      | _, _ => none
    leBytes 4 (w.getD (Config.scanWord run (i + j))).toNat

/-- KIND 3: one stationary set, 2 bytes for each cell. -/
def scanStat (run i : Nat) (x : StatSet) : List Byte :=
  (List.range 16384).flatMap fun k =>
    leBytes 2 (match tfind x.cells k, x.layout with
      | some p, _ => p.toNat
      | none, some n => (Config.scanWord (run + n) (i + k)).toNat % 65536
      | none, none => 0)

/-- KIND 4: registers v0 to v15 of lanes 0 to 63, then p0 (always 1) to p3 of each element. -/
def scanElem (s : State) (c : Nat) : List Byte :=
  let k := s.core c
  ((List.range 16).flatMap fun r => (List.range 64).flatMap fun l => leBytes 4 (k.vregs.getD (16 * l + r) 0).toNat) ++
    (List.range 256).map fun i => k.preds.getD i 1

/-- KIND 6: the read slots that hold data for NEXT, and the slots of the running descriptor, which are free words (log 29). -/
def scanSlots (run i : Nat) (slots : List Nat) : List Byte :=
  let n := min 256 slots.length
  ((slots.take 256).flatMap fun pa => leBytes 8 (pa / 256 % 2 ^ 32 + 2 ^ 33)) ++ scanFree run (i + 2 * n) (2 * (256 - n))

/-- Units that a core has been granted and has not drained. -/
def unitsHeld (k : CoreSt) : List Nat :=
  (k.unit.toList ++ k.ahead.toList ++ ((k.bank0.map (·.unit)).toList ++ (k.bank1.map (·.unit)).toList ++ (k.arg.map (·.unit)).toList)).dedup

/-- KIND 7: per local core its range, and its units granted and not drained. -/
def scanDispatch (s : State) (h : Nat) : List Byte :=
  (List.range 4).flatMap fun i =>
    let c := 4 * h + i
    let k := s.core c
    let g := match s.coreRun c with
      | some x => x.run.range c
      | none => (0, 0)
    leBytes 4 g.1 ++ leBytes 4 g.2 ++ leBytes 4 (unitsHeld k).length ++
      leBytes 4 0

/-- KIND 8: EXEC, NEXT and the movers of a partition; zeros where a part is empty. -/
def scanWindow (s : State) (p : Nat) : List Byte :=
  let w := s.win p
  let one := fun (x : Option (BitVec 16 × Nat)) => match x with
    | some (q, uid) =>
      match s.item q.toNat uid with
      | some i => leBytes 2 q.toNat ++ leBytes 2 0 ++ leBytes 4 i.idx.toNat ++ leBytes 8 ((s.queue q.toNat).descAddr i.idx)
      | none => List.replicate 16 0
    | none => List.replicate 16 0
  one (w.exec.map fun r => (r.q, r.uid)) ++ one w.next ++ one w.movers[0]? ++ one w.movers[1]?

/-- The per-core sections of one core. -/
def scanCoreSections (s : State) (run c : Nat) : List (List Byte) :=
  let k := s.core c
  [ scanSection 1 c (scanCore s run c),
    scanSection 2 c (scanBank s run (scanPlace 2 c) c k.bank0 ++ scanBank s run (scanPlace 2 c + 16384) c k.bank1),
    scanSection 3 c (scanStat run (scanPlace 3 c) k.primary ++ scanStat run (scanPlace 3 c + 16384) k.shadow),
    scanSection 4 c (scanElem s c),
    scanSection 5 c ((List.range 16).flatMap fun i => padTo 260 (tget [] k.progs i)),
    scanSection 6 c (scanSlots run (scanPlace 6 c) k.slots) ]

/-- Every section in order. -/
def scanSections (s : State) (run : Nat) : List (List Byte) :=
  let cores := (List.range 16).filter (nbit (s.fld Reg.glbCaps2 31 16))
  cores.flatMap (scanCoreSections s run) ++ (List.range 4).map (fun h => scanSection 7 h (scanDispatch s h)) ++
    (List.range 16).map (fun p => scanSection 8 p (scanWindow s p)) ++
    (if s.bit Reg.dbgScan 1 then
      cores.map (fun c => scanSection 9 c (mread s.mem (coreBase c) 0x600000)) ++
        (List.range 4).map fun h => scanSection 10 h (mread s.mem (hearthBase h) 0x400000)
    else [])

/-- The image: a 64-byte header and the sections. -/
def scanImage (s : State) (run : Nat) : List Byte :=
  let ss := scanSections s run
  let body := ss.flatten
  leBytes 4 0x464E5346 ++ leBytes 2 1 ++ leBytes 2 ss.length ++ leBytes 4 (64 + body.length) ++ leBytes 1 (s.fld Reg.dbgSnuff 18 16) ++ [0, 0, 0] ++
    leBytes 8 (s.reg Reg.glbUid).toNat ++ leBytes 8 (s.reg Reg.glbId).toNat ++ leBytes 8 (s.reg Reg.dbgSnuffTime).toNat ++
    leBytes 2 (s.fld Reg.pwrStatus 9 0) ++ leBytes 2 (s.fld Reg.glbCaps2 31 16) ++ List.replicate 20 0 ++ body

/-- M6 is extended with a record of R474. -/
def scanMeasure (source : Byte) (s : State) : State :=
  let cause := if source = 0 then 0 else s.fld Reg.dbgSnuff 18 16
  let r := [7, source] ++ leBytes 1 cause ++ List.replicate 5 0 ++ leBytes 8 s.clock.timeF.toNat ++ List.replicate 48 0
  extendM s 6 (sha r) 7 source (BitVec.ofNat 8 cause) 0

/-- The image is presented: LEN and VALID follow. Its free words are the same up to the resume. -/
def present (s : State) : State :=
  let im := scanImage s s.dbg.scanRun
  let s := { s with dbg := { s.dbg with image := im } }
  (s.setFld Reg.dbgScan 63 32 im.length).setBit Reg.dbgScan 2 true

/-- A write of DBG_SCAN: BUF and PAGE are stored; START extends M6 and, under Snuff, presents the image. -/
def scanWrite (fn : Fn) (v : W64) (s : State) : State :=
  dbgWrite fn Reg.dbgScan (fun s =>
    let s := (s.setFld Reg.dbgScan 1 1 (nbits v.toNat 1 1)).setFld Reg.dbgScan 31 15 (nbits v.toNat 31 15)
    if !nbit v.toNat 0 then s
    else
      let s := scanMeasure 2 s
      if s.fld Reg.dbgSnuff 9 8 = 2 then present s else s) s

/-- SCAN_START: a write of START with BUF and PAGE as they stand. -/
def scanStart (fn : Fn) (s : State) : State :=
  scanWrite fn (BitVec.ofNat 64 (1 + 2 * s.fld Reg.dbgScan 1 1 + 2 ^ 15 * s.fld Reg.dbgScan 31 15)) s

/-! ### The test access port (R486) -/

/-- An instruction is loaded: the balls are the device's again unless it takes them (R486); the first access after a reset extends M6 (R474). -/
def jtagLoad (ir : BitVec 8) (s : State) : State :=
  let s := { s with pins := { s.pins with jtagIr := ir, balls := .device } }
  if s.pins.jtagUsed || s.inReset then s else scanMeasure 0 { s with pins := { s.pins with jtagUsed := true } }

/-- What an instruction shifts out. -/
def jtagShift (bs : List Byte) (s : State) : State := { s with pins := { s.pins with jtagOut := bs } }

/-- EXTEST, CLAMP and HIGHZ take the balls while POR_N is low; at any other time they act as BYPASS. -/
def jtagTake (b : Balls) (s : State) : State := jtagShift [] { s with pins := { s.pins with balls := if s.pins.porLow then b else .device } }

/-- Levels as bytes, eight to a byte, first level in bit 0. -/
def packBits : Nat → List Bool → List Byte
  | 0, _ => []
  | n + 1, l => BitVec.ofNat 8 ((l.take 8).foldr (fun b x => b.toNat + 2 * x) 0) :: packBits n (l.drop 8)

/-- A boundary scan: the levels are captured and shifted out, and the new values shifted in. -/
def jtagScan (scanIn balls : List Bool) (s : State) : State :=
  jtagShift (packBits (cdiv balls.length 8) balls) { s with pins := { s.pins with jtagBoundary := scanIn } }

/-- EXTEST. -/
def jtagExtest (scanIn balls : List Bool) (s : State) : State :=
  let s := jtagTake .boundary (jtagLoad 0x00 s)
  if s.pins.porLow then jtagScan scanIn balls s else s

/-- IDCODE: stepping, part, manufacturer and 1. -/
def jtagIdcode (s : State) : State :=
  let s := jtagLoad 0x02 s
  jtagShift (leBytes 4 (s.fld Reg.glbId 23 20 * 2 ^ 28 + 0x0A09 * 2 ^ 12 + Config.jtagManufacturer.toNat * 2 + 1)) s

/-- SNUFF_SCAN: M6 is extended, and under Snuff the image shifts out from byte 0; zeros outside Snuff. -/
def jtagSnuffScan (s : State) : State :=
  let s := jtagLoad 0x20 s
  if s.inReset then jtagShift [] s
  else
    let s := scanMeasure 1 s
    if s.fld Reg.dbgSnuff 9 8 ≠ 2 then jtagShift [] s
    else if s.bit Reg.dbgScan 2 then jtagShift s.dbg.image s
    else jtagShift (scanImage s s.dbg.scanRun) s

/-- Test-Logic-Reset: IDCODE is loaded and the balls are the device's. -/
def jtagReset (s : State) : State := { s with pins := { s.pins with jtagIr := 0x02, balls := .device } }

/-! ### Meanings -/

/-- CNT_RESET (R462). -/
def execCntReset (fn : Fn) (groups : Byte) (s : State) : Out := bar0 fn 4 s (cntReset fn groups)
/-- DBG_MATCH_ARM (R470). -/
def execDbgMatchArm (fn : Fn) (value : W64) (s : State) : Out := bar0 fn 8 s (matchWrite fn value)
/-- TRACE_CFG_WRITE (R465). -/
def execTraceCfgWrite (fn : Fn) (value : W64) (s : State) : Out := bar0 fn 8 s (traceCfgWrite fn value)
/-- TRACE_SAMPLE (R463). -/
def execTraceSample (core : Fin 16) (wait : UnitWait) (capped : Bool) (s : State) : Out := live s (traceSample core.val wait capped)
/-- TRACE_LINE_FLUSH (R465). -/
def execTraceLineFlush (hearth : Fin 4) (s : State) : Out := live s (traceFlush hearth.val)
/-- SNUFF_GO (R466). -/
def execSnuffGo (fn : Fn) (s : State) : Out := bar0 fn 8 s (snuffBit fn 0)
/-- SNUFF_PIN (R466). -/
def execSnuffPin (s : State) : Out := live s snuffPin
/-- SNUFF_MATCH (R470). -/
def execSnuffMatch (s : State) : Out := live s matchFire
/-- SNUFF_STOPPED (R467). -/
def execSnuffStopped (s : State) : Out := live s snuffStopped
/-- SNUFF_RESUME (R472). -/
def execSnuffResume (fn : Fn) (s : State) : Out := bar0 fn 8 s (snuffBit fn 1)
/-- SNUFF_PIN_REARM (R469). -/
def execSnuffPinRearm (s : State) : Out := live s snuffRearm
/-- SCAN_START (R473). -/
def execScanStart (fn : Fn) (s : State) : Out := bar0 fn 8 s (scanStart fn)

/-- The test access port lives on VDD_AON (R485). -/
def jtag (s : State) (k : State → State) : Out := gated (!s.pins.aonLow) s k

/-- EXTEST (R486). -/
def execExtest (scanIn balls : List Bool) (s : State) : Out := jtag s (jtagExtest scanIn balls)
/-- SAMPLE/PRELOAD (R486). -/
def execSamplePreload (scanIn balls : List Bool) (s : State) : Out := jtag s fun s => jtagScan scanIn balls (jtagLoad 0x01 s)
/-- IDCODE (R486). -/
def execIdcode (s : State) : Out := jtag s jtagIdcode
/-- CLAMP (R486). -/
def execClamp (s : State) : Out := jtag s fun s => jtagTake .boundary (jtagLoad 0x04 s)
/-- HIGHZ (R486). -/
def execHighz (s : State) : Out := jtag s fun s => jtagTake .floating (jtagLoad 0x05 s)
/-- SNUFF_SCAN (R473, R474). -/
def execSnuffScan (s : State) : Out := jtag s jtagSnuffScan
/-- BYPASS (R486). -/
def execBypass (ir : BitVec 8) (s : State) : Out := jtag s fun s => jtagShift [] (jtagLoad ir s)
/-- Test-Logic-Reset (R486). -/
def execTestLogicReset (s : State) : Out := jtag s jtagReset

end Sys2Proof.Machine
end

