-- ==== Sys2Proof/Machine/Shaper.lean ====
section
/-!
DEFINITION. The frame shaper (R280 to R286): rings and doorbells, the checks of an operation and its regions, the resampled and converted
tensor, and the result record.
-/
namespace Sys2Proof.Machine

/-! ### Rings (R280) -/

def State.shapeRing (s : State) (p : Nat) : OpRing := tget {} s.shaper.rings p
def State.modShapeRing (s : State) (p : Nat) (f : OpRing → OpRing) : State :=
  { s with shaper := { s.shaper with rings := tmod {} s.shaper.rings p f } }

/-- Operations on a ring that are neither done nor begun. -/
def OpRing.waiting (r : OpRing) : Bool := r.en && r.head != r.tail

/-- A ring register written: setting EN starts it anew; an operation of the ring as it was does not move the new head. -/
def ringSet (v : W64) (busy : Bool) (r : OpRing) : OpRing :=
  let en := nbit v.toNat 0
  let r := if en && !r.en then { r with head := 0, tail := 0, stopping := busy } else r
  { r with en := en, log := nbits v.toNat 5 1, base := nbits v.toNat 39 12 * 4096 }

/-- The drop rules of R188 for a tail; a ring with EN clear is not active. -/
def tailOk (r : OpRing) (t : W32) : Bool := r.en && decide (dist32 t r.head ≤ 2 ^ r.log) && ahead32 t r.tail

/-- Fields of a ring register that hold a value. -/
def ringMask : W64 := 0xFFFFFFF03F

/-- The shaper runs an operation of a ring. -/
def shapeBusy (s : State) (p : Nat) : Bool := match s.shaper.run with
  | some x => x.part == p && x.ring
  | none => false

/-- The pipelines that a partition runs. -/
def State.pipesOf (s : State) (p : Nat) : List (Nat × Pipe) := s.pipes.filter fun k => nbits (leAt k.2.par 2 1) 3 0 == p

/-- Changes to the pipelines of a partition. -/
def State.mapPipes (s : State) (p : Nat) (f : Pipe → Pipe) : State :=
  { s with pipes := s.pipes.map fun k => (k.1, if nbits (leAt k.2.par 2 1) 3 0 == p then f k.2 else k.2) }

/-- A ring set anew has no place for what the sequencer had written into it: that stands outside the ring from then on (log 43). -/
def shapeRingWrite (fn : Fn) (p : Nat) (v : W64) (s : State) : State :=
  if !s.mayPart fn p then denied s fn (Reg.shapeRing p)
  else
    let s := if nbit v.toNat 0 && !(s.shapeRing p).en then s.mapPipes p fun x => { x with shapeAt := none } else s
    let s := (s.modShapeRing p (ringSet v (shapeBusy s p))).setReg (Reg.shapeRing p) (v &&& ringMask)
    s.setReg (Reg.shapeHead p) (BitVec.ofNat 64 (s.shapeRing p).head.toNat)

def shapeDoorbell (fn : Fn) (p : Nat) (t : W32) (s : State) : State :=
  if !s.mayPart fn p then denied s fn (Reg.shapeDb p)
  else if s.noBells || !tailOk (s.shapeRing p) t then dropCmd s fn (Reg.shapeDb p)
  else s.modShapeRing p fun r => { r with tail := t }

/-! ### Operation headers (R281) -/

def hNreg (h : List Byte) : Nat := nbits (leAt h 0 1) 6 0
def hWaits (h : List Byte) : Bool := nbit (leAt h 1 1) 0
def hSignals (h : List Byte) : Bool := nbit (leAt h 1 1) 1
def hResult (h : List Byte) : Bool := nbit (leAt h 1 1) 2
def hWaitSem (h : List Byte) : Nat := nbits (leAt h 4 2) 13 0
def hSigSem (h : List Byte) : Nat := nbits (leAt h 6 2) 13 0
def hWaitVal (h : List Byte) : W32 := BitVec.ofNat 32 (leAt h 8 4)
def hSigVal (h : List Byte) : W32 := BitVec.ofNat 32 (leAt h 12 4)
def hRegAddr (h : List Byte) : Nat := nbits (leAt h 16 8) 39 6 * 64
def hResAddr (h : List Byte) : Nat := nbits (leAt h 24 8) 39 6 * 64
def hTag (h : List Byte) : Nat := leAt h 32 8

/-- A reserved byte of a header is not zero, or NREG lies beyond 64. -/
def headerBad (h : List Byte) : Bool := !zeros h 2 3 || !zeros h 40 63 || decide (64 < hNreg h)

/-! ### Region entries (R282) -/

def rBuf (r : List Byte) : Nat := nbits (leAt r 0 2) 13 0
def rRelease (r : List Byte) : Bool := nbit (leAt r 0 2) 14
def rLayout (r : List Byte) : Nat := nbits (leAt r 2 1) 3 0
def rCsc (r : List Byte) : Nat := nbits (leAt r 2 1) 5 4
def rOutCh (r : List Byte) : Nat := nbits (leAt r 3 1) 1 0
def rBicubic (r : List Byte) : Bool := nbit (leAt r 3 1) 2
def rOutLayout (r : List Byte) : Nat := nbits (leAt r 3 1) 4 3
def rPitch (r : List Byte) : Nat := leAt r 4 2
def rH64 (r : List Byte) : Nat := leAt r 6 2
def rCropX (r : List Byte) : Nat := leAt r 8 2
def rCropY (r : List Byte) : Nat := leAt r 10 2
def rCropW (r : List Byte) : Nat := leAt r 12 2
def rCropH (r : List Byte) : Nat := leAt r 14 2
def rOutW (r : List Byte) : Nat := leAt r 16 2
def rOutH (r : List Byte) : Nat := leAt r 18 2
def rDstX (r : List Byte) : Nat := leAt r 20 2
def rDstY (r : List Byte) : Nat := leAt r 22 2
def rDstW (r : List Byte) : Nat := leAt r 24 2
def rDstH (r : List Byte) : Nat := leAt r 26 2
def rFmtCode (r : List Byte) : Nat := nbits (leAt r 28 1) 3 0
def rFmt (r : List Byte) : Fmt := (Fmt.ofCode (rFmtCode r)).getD .int8
def rPad (r : List Byte) (c : Nat) : Nat := leAt r (29 + c) 1
def rMean (r : List Byte) (c : Nat) : FVal := f32 (leAt r (32 + 4 * c) 4)
def rScale (r : List Byte) (c : Nat) : FVal := f32 (leAt r (44 + 4 * c) 4)
def rDst (r : List Byte) : Nat := leAt r 56 5
/-- Output channels. -/
def rChans (r : List Byte) : Nat := if rOutCh r = 2 then 1 else 3

/-- Bytes of a luma sample, and the subsampling of a layout; none for chroma that the layout does not hold. -/
def layBps (l : Nat) : Nat := if l = 3 then 3 else if l = 1 ∨ l = 2 ∨ l = 4 then 2 else 1
def laySub (l : Nat) : Option (Nat × Nat) :=
  match l with
  | 0 => some (2, 2)
  | 1 => some (2, 2)
  | 2 => some (2, 1)
  | 5 => some (2, 2)
  | 6 => some (2, 1)
  | 7 => some (1, 1)
  | _ => none

/-- The tensor's bytes (R284). -/
def tensorBytes (r : List Byte) : Nat :=
  let e := (rFmt r).bytes
  if rOutLayout r = 2 then rOutH r * cdiv (rOutW r) (64 / e) * rChans r * 64 else rOutW r * rOutH r * rChans r * e

/-- Rows of R286 that the entry alone decides. -/
def entryBad (r : List Byte) : Bool :=
  let l := rLayout r
  nbit (leAt r 0 2) 15 || nbits (leAt r 2 1) 7 6 != 0 || nbits (leAt r 3 1) 7 5 != 0 || rOutLayout r == 3 || nbits (leAt r 28 1) 7 4 != 0 ||
    !zeros r 61 63 || rDst r % 64 != 0 || !([1, 2, 4, 7, 8, 9].contains (rFmtCode r)) || decide (8 < l) ||
    ((l == 4 || l == 8) && rOutCh r != 2) ||
    (decide (5 ≤ l) && (match laySub l with
      | some (hs, _) => rPitch r / hs % 256 != 0 || rPitch r % hs != 0
      | none => false)) ||
    decide (rCropW r = 0 ∨ rCropH r = 0 ∨ rDstW r = 0 ∨ rDstH r = 0) ||
    decide (rPitch r < (rCropX r + rCropW r) * layBps l ∨ rH64 r < rCropY r + rCropH r) ||
    decide (rOutW r < rDstX r + rDstW r ∨ rOutH r < rDstY r + rDstH r) ||
    decide (rCropW r * 16 < rDstW r ∨ rDstW r * 16 < rCropW r ∨ rCropH r * 16 < rDstH r ∨ rDstH r * 16 < rCropH r)

/-- The source is not of the partition. -/
def sourceForeign (s : State) (p : Nat) (r : List Byte) : Bool :=
  match s.buf? (rBuf r) with
  | some b => b.part != p
  | none => false
def sourceUnmarked (s : State) (r : List Byte) : Bool :=
  match s.buf? (rBuf r) with
  | some b => b.marks == 0
  | none => true

/-- The tensor lies where the partition may have it written. -/
def tensorPlaced (s : State) (p : Nat) (r : List Byte) : Bool :=
  let n := tensorBytes r
  (s.inGddr (rDst r) n && s.inAper p (rDst r) n) || (match s.rangePlace (rDst r) n with
    | .hearth h => (s.coreList p).any fun c => c / 4 == h
    | _ => false)

/-- The sensor whose capture stream owns a buffer. -/
def sensorOfBuf (s : State) (b : Nat) : Option (Nat × Sensor) :=
  match s.buf? b with
  | some y => s.capture.sensors.find? fun k => cHandle k.2.lo == y.owner
  | none => none

/-- A region is stale at a start time (R274). -/
def regionStale (s : State) (t : W64) (r : List Byte) : Bool :=
  match sensorOfBuf s (rBuf r), s.buf? (rBuf r) with
  | some (_, x), some b => cMaxAge x.lo != 0 && decide (cMaxAge x.lo * 1000 < (t - b.arrival).toNat) && decide ((t - b.arrival).toNat < 2 ^ 63)
  | _, _ => false

/-- A region is judged: its number is put among the valid, stale or invalid ones. -/
def judgeRegion (p : Nat) (x : ShapeRun) (i : Nat) (r : List Byte) (s : State) : State × ShapeRun :=
  let foreign := sourceForeign s p r
  let bad := entryBad r
  let away := !tensorPlaced s p r
  let s := if foreign then viol s (rBuf r) 4 p else s
  let s := if away then viol s (rDst r) 4 p else s
  if bad || sourceUnmarked s r || foreign || away then (s, { x with bad := x.bad ++ [i] })
  else if regionStale s x.start r then (s, { x with stale := x.stale ++ [i] })
  else (s, { x with valid := x.valid ++ [i] })

def judgeAll (p : Nat) : Nat → List (List Byte) → State → ShapeRun → State × ShapeRun
  | _, [], s, x => (s, x)
  | i, r :: rs, s, x => let (s, x) := judgeRegion p x i r s; judgeAll p (i + 1) rs s x

/-- Region entries of a run, by number. -/
def ShapeRun.reg (x : ShapeRun) (i : Nat) : List Byte := x.regs.getD i []

/-- STALE of a sensor, once for each buffer of the operation. -/
def countStale (x : ShapeRun) (s : State) : State :=
  ((x.stale.map fun i => rBuf (x.reg i)).dedup).foldl (fun s b => match s.buf? b with
    | some y => count y.owner 20 1 s
    | none => s) s

/-- An operation starts: T_start and the checks of its regions (R285 step 1). -/
def shapeBegin (p : Nat) (header : List Byte) (regs : List (List Byte)) (pipe : Option Nat) (ring : Bool) (s : State) : State :=
  let x : ShapeRun := { part := p, header := header, regs := regs, start := s.clock.timeM, valid := [], stale := [], bad := [], pipe := pipe, ring := ring }
  let (s, x) := judgeAll p 0 regs s x
  let s := countStale x s
  { s with shaper := { s.shaper with run := some x, last := p } }

/-- The region entries of a header. -/
def readRegs (a : Nat) : Nat → State → State × List (List Byte)
  | 0, s => (s, [])
  | n + 1, s =>
    let (s, rs) := readRegs a n s
    let (s, r, _) := engRead s (a + 64 * n) 64
    (s, rs ++ [r])

/-- What the sequencer has written for a pipeline of a partition at an index of its ring, or outside it: the pipeline, the header and the region. -/
def shapePipe (s : State) (p : Nat) (i : Option W32) : Option (Nat × List Byte × List Byte) :=
  (s.pipesOf p).findSome? fun k => match k.2.shape with
    | some (h, r) => if k.2.shapeAt == i then some (k.1, h, r) else none
    | none => none

/-- The header at a ring's head. -/
def headHeader (s : State) (p : Nat) : List Byte :=
  let r := s.shapeRing p
  match shapePipe s p (some r.head) with
  | some (_, h, _) => h
  | none => mread s.mem (r.base + r.head.toNat % 2 ^ r.log * 64) 64

/-- A partition has an operation to serve: one outside its ring, or the ring's head operation, malformed or with its wait satisfied. -/
def shapeReady (s : State) (p : Nat) : Bool :=
  (shapePipe s p none).isSome || ((s.shapeRing p).waiting &&
    (let h := headHeader s p
     headerBad h || !hWaits h || semOk s (hWaitSem h) (hWaitVal h)))

/-- The head of a ring moves on. -/
def shapeAdvance (p : Nat) (s : State) : State :=
  let s := s.modShapeRing p fun r => if r.stopping then { r with stopping := false } else { r with head := r.head + 1 }
  s.setReg (Reg.shapeHead p) (BitVec.ofNat 64 (s.shapeRing p).head.toNat)

/-- An operation of a pipeline starts, from its place in the ring or outside it. -/
def shapeFromPipe (p k : Nat) (h r : List Byte) (ring : Bool) (s : State) : State :=
  shapeBegin p h [r] (some k) ring (match tfind s.pipes k with
    | some x => { s with pipes := tput s.pipes k { x with shape := none, shapeAt := none } }
    | none => s)

/-- SHAPE_OP_START: the next operation in round-robin order. -/
def shapeStart (p : Nat) (s : State) : State :=
  if s.shaper.run.isSome || nextInTurn s.shaper.last ((List.range 16).filter (shapeReady s)) != some p then s
  else
    let r := s.shapeRing p
    match shapePipe s p none, shapePipe s p (some r.head) with
    | some (k, h, g), _ => shapeFromPipe p k h g false s
    | none, some (k, h, g) => shapeFromPipe p k h g true s
    | none, none =>
      let a := r.base + r.head.toNat % 2 ^ r.log * 64
      let (s, h, _) := engRead s a 64
      if headerBad h then shapeAdvance p { viol s a 6 p with shaper := { s.shaper with last := p } }
      else
        let (s, regs) := readRegs (hRegAddr h) (hNreg h) s
        shapeBegin p h regs none true s

/-! ### Sources (R271, R282, R283) -/

/-- A byte of a source: zero where its sector is poisoned. -/
def srcByte (s : State) (a : Nat) : Nat := if (s.badIn a 1).isSome then 0 else (mget s.mem a).toNat

/-- Address and width of sample (x, y) of a plane: 0 luma or red, 1 Cb or green, 2 Cr or blue. -/
def sampleAt (l base pitch h64 plane x y : Nat) : Nat × Nat :=
  let c := base + pitch * h64
  match l with
  | 0 => if plane = 0 then (base + y * pitch + x, 1) else (c + y * pitch + 2 * x + (plane - 1), 1)
  | 1 => if plane = 0 then (base + y * pitch + 2 * x, 2) else (c + y * pitch + 4 * x + 2 * (plane - 1), 2)
  | 2 => if plane = 0 then (base + y * pitch + 2 * x, 1) else (base + y * pitch + 4 * x + 2 * plane - 1, 1)
  | 3 => (base + y * pitch + 3 * x + (2 - plane), 1)
  | 4 => (base + y * pitch + 2 * x, 2)
  | _ =>
    match plane, laySub l with
    | 0, _ => (base + y * pitch + x, 1)
    | k, some (hs, vs) => (c + (k - 1) * (pitch / hs * (h64 / vs)) + y * (pitch / hs) + x, 1)
    | _, none => (base + y * pitch + x, 1)

/-- A sample in 8-bit scale, which FP32 holds exactly. -/
def sampleVal (s : State) (l base pitch h64 plane x y : Nat) : FVal :=
  let (a, n) := sampleAt l base pitch h64 plane x y
  if n = 2 then FVal.ofDy ⟨((srcByte s a + 256 * srcByte s (a + 1) : Nat) : Int), -8⟩ else FVal.ofInt (srcByte s a)

/-- A source position along one axis in FP32: crop start and length divided by the plane's subsampling, clamped to the crop rectangle. -/
def srcPos (crop len dst i dstLen sub : Nat) : Dy :=
  let half : FVal := FVal.ofDy ⟨1, -1⟩
  let c := FVal.ofDy (if sub = 2 then ⟨(crop : Int), -1⟩ else Dy.ofInt crop)
  let w := FVal.ofDy (if sub = 2 then ⟨(len : Int), -1⟩ else Dy.ofInt len)
  let x := div32 (mul32 (add32 (FVal.ofInt ((i : Int) - dst)) half) w) (FVal.ofInt dstLen)
  let x := sub32 (add32 c x) half
  let hi := Dy.sub (Dy.add c.dy w.dy) (Dy.ofInt 1)
  let x := if Dy.lt hi x.dy then hi else x.dy
  if Dy.lt x c.dy then c.dy else x

/-- The integer part and the fraction of a position. -/
def splitPos (x : Dy) : Int × FVal :=
  let f := toIntFloor (FVal.ofDy x)
  (f, FVal.ofDy (Dy.sub x (Dy.ofInt f)))

/-- A sum of products in FP32, each product and each sum rounded, from left to right (log 25). -/
def dot32 (ts : List (FVal × FVal)) : FVal := ts.foldl (fun a t => add32 a (mul32 t.1 t.2)) FVal.zero

/-- A polynomial with halves as coefficients, by Horner's rule in FP32 (log 25). -/
def horner (t : FVal) (cs : List Int) : FVal := cs.foldr (fun c a => add32 (FVal.ofDy ⟨c, -1⟩) (mul32 t a)) FVal.zero

/-- Taps of an axis with their weights: bilinear, or bicubic with a = −0.5. -/
def tapWeights (cubic : Bool) (t : FVal) : List (Int × FVal) :=
  if cubic then [(-1, horner t [0, -1, 2, -1]), (0, horner t [2, 0, -5, 3]), (1, horner t [0, 1, 4, -3]), (2, horner t [0, 0, -1, 1])]
  else [(0, sub32 (FVal.ofInt 1) t), (1, t)]

/-- A value clamped to [0, 255]. -/
def clamp255 (v : FVal) : FVal := fmax FVal.zero (fmin (FVal.ofInt 255) v)

/-- A plane resampled at an output position inside the content rectangle, in FP32: along x, then along y (log 25). -/
def resample (s : State) (r : List Byte) (base plane i j : Nat) : FVal :=
  let l := rLayout r
  let (hs, vs) := if plane = 0 then (1, 1) else (laySub l).getD (1, 1)
  let (x0, tx) := splitPos (srcPos (rCropX r) (rCropW r) (rDstX r) i (rDstW r) hs)
  let (y0, ty) := splitPos (srcPos (rCropY r) (rCropH r) (rDstY r) j (rDstH r) vs)
  let cl := fun (crop len sub : Nat) (v : Int) => (clampI ((crop / sub : Nat) : Int) (((crop + len - 1) / sub : Nat) : Int) v).toNat
  clamp255 (dot32 ((tapWeights (rBicubic r) ty).map fun wy => (wy.2, dot32 ((tapWeights (rBicubic r) tx).map fun wx =>
    (wx.2, sampleVal s l base (rPitch r) (rH64 r) plane (cl (rCropX r) (rCropW r) hs (x0 + wx.1)) (cl (rCropY r) (rCropH r) vs (y0 + wy.1)))))))

/-! ### Colour (R283 step 3; log 25: the standards' weights) -/

/-- The luma weights of a matrix over their sum: red, green, blue. -/
def lumaWeights (csc : Nat) : Int × Int × Int × Int := if csc < 2 then (299, 587, 114, 1000) else (2126, 7152, 722, 10000)
def cscLimited (csc : Nat) : Bool := csc % 2 == 0

/-- A coefficient: an exact quotient rounded once to FP32. -/
def coef (num den : Int) : FVal := div32 (FVal.ofInt num) (FVal.ofInt den)

/-- R, G and B of Y', Cb and Cr. -/
def yuvToRgb (csc : Nat) (y u v : FVal) : List FVal :=
  let (kr, kg, kb, k) := lumaWeights csc
  let u := sub32 u (FVal.ofInt 128)
  let v := sub32 v (FVal.ofInt 128)
  let y := if cscLimited csc then sub32 y (FVal.ofInt 16) else y
  let (n, dy, dc) : Int × Int × Int := if cscLimited csc then (255, 219, 224) else (1, 1, 1)
  let luma := (coef n dy, y)
  [clamp255 (dot32 [luma, (coef (2 * (k - kr) * n) (k * dc), v)]),
   clamp255 (dot32 [luma, (coef (-(2 * kb * (k - kb) * n)) (k * kg * dc), u), (coef (-(2 * kr * (k - kr) * n)) (k * kg * dc), v)]),
   clamp255 (dot32 [luma, (coef (2 * (k - kb) * n) (k * dc), u)])]

/-- Y', Cb and Cr of R, G and B. -/
def rgbToYuv (csc : Nat) (r g b : FVal) : List FVal :=
  let (kr, kg, kb, k) := lumaWeights csc
  let (ny, oy, nc, d) : Int × Int × Int × Int := if cscLimited csc then (219, 16, 224, 255) else (1, 0, 1, 1)
  let chroma := fun (wr wg wb w : Int) =>
    clamp255 (add32 (dot32 [(coef (wr * nc) (w * d), r), (coef (wg * nc) (w * d), g), (coef (wb * nc) (w * d), b)]) (FVal.ofInt 128))
  [clamp255 (add32 (dot32 [(coef (kr * ny) (k * d), r), (coef (kg * ny) (k * d), g), (coef (kb * ny) (k * d), b)]) (FVal.ofInt oy)),
   chroma (-kr) (-kg) (k - kb) (2 * (k - kb)), chroma (k - kr) (-kg) (-kb) (2 * (k - kr))]

/-- The channels of an output position inside the content rectangle (R283 steps 1 to 3). -/
def contentPix (s : State) (r : List Byte) (base i j : Nat) : List FVal :=
  let p := fun k => resample s r base k i j
  let l := rLayout r
  let csc := rCsc r
  let (kr, kg, kb, k) := lumaWeights csc
  if l = 3 then
    match rOutCh r with
    | 0 => [p 0, p 1, p 2]
    | 1 => [p 2, p 1, p 0]
    | 2 => [clamp255 (dot32 [(coef kr k, p 0), (coef kg k, p 1), (coef kb k, p 2)])]
    | _ => rgbToYuv csc (p 0) (p 1) (p 2)
  else
    match rOutCh r with
    | 0 => yuvToRgb csc (p 0) (p 1) (p 2)
    | 1 => (yuvToRgb csc (p 0) (p 1) (p 2)).reverse
    | 2 => [p 0]
    | _ => [p 0, p 1, p 2]

/-- The converted channels of output position (i, j), with their saturation (R283 steps 4 and 5). -/
def outPix (s : State) (r : List Byte) (base i j : Nat) : List (Nat × Bool) :=
  let inside := decide (rDstX r ≤ i ∧ i < rDstX r + rDstW r ∧ rDstY r ≤ j ∧ j < rDstY r + rDstH r)
  let v := if inside then contentPix s r base i j else (List.range (rChans r)).map fun c => FVal.ofInt (rPad r c)
  v.zipIdx.map fun (x, c) => convertOut (rFmt r) 0 (mul32 (sub32 x (rMean r c)) (rScale r c))

/-- The tensor's bytes in its layout (R284). -/
def tensor (s : State) (r : List Byte) (base : Nat) : List Byte :=
  let e := (rFmt r).bytes
  let el := fun (x : Nat × Bool) => leBytes e x.1
  let row := List.range (rOutH r)
  let col := List.range (rOutW r)
  match rOutLayout r with
  | 0 => row.flatMap fun j => col.flatMap fun i => (outPix s r base i j).flatMap el
  | 1 => (List.range (rChans r)).flatMap fun c => row.flatMap fun j => col.flatMap fun i => el ((outPix s r base i j).getD c (0, false))
  | _ =>
    let pb := 64 / e
    row.flatMap fun j => (List.range (cdiv (rOutW r) pb)).flatMap fun q => (List.range (rChans r)).flatMap fun c =>
      (List.range pb).flatMap fun k =>
        if q * pb + k < rOutW r then el ((outPix s r base (q * pb + k) j).getD c (0, false)) else leBytes e 0

/-- Clamped values of the tensor. -/
def tensorSat (s : State) (r : List Byte) (base : Nat) : Nat :=
  ((List.range (rOutH r)).map fun j => ((List.range (rOutW r)).map fun i => ((outPix s r base i j).filter (·.2)).length).sum).sum

/-- The source bytes in the crop rectangle over the planes that are read: start and length of each row. -/
def cropRows (r : List Byte) (base : Nat) : List (Nat × Nat) :=
  let l := rLayout r
  let rows := fun (crop len sub : Nat) => (List.range ((crop + len - 1) / sub + 1 - crop / sub)).map (crop / sub + ·)
  let span := fun (plane hs : Nat) (y : Nat) =>
    let a := sampleAt l base (rPitch r) (rH64 r) plane (rCropX r / hs) y
    let b := sampleAt l base (rPitch r) (rH64 r) plane ((rCropX r + rCropW r - 1) / hs) y
    (min a.1 b.1, max a.1 b.1 + a.2 - min a.1 b.1)
  let luma := (rows (rCropY r) (rCropH r) 1).map fun y =>
    let a := (sampleAt l base (rPitch r) (rH64 r) (if l = 3 then 2 else 0) (rCropX r) y).1
    (a, rCropW r * layBps l)
  let chroma := match laySub l with
    | some (hs, vs) =>
      if rOutCh r = 2 ∨ l = 2 then []
      else (rows (rCropY r) (rCropH r) vs).flatMap fun y => if l < 2 then
          let a := span 1 hs y
          let b := span 2 hs y
          [(a.1, b.1 + b.2 - a.1)]
        else [span 1 hs y, span 2 hs y]
    | none => []
  luma ++ chroma

/-- A valid region is produced: its tensor is written; whether it met poison, and its clamped values. -/
def produce (r : List Byte) (s : State) : State × Bool × Nat :=
  match s.buf? (rBuf r) with
  | none => (s, false, 0)
  | some b =>
    let rows := cropRows r b.addr
    let bytes := tensor s r b.addr
    let sat := tensorSat s r b.addr
    let hit := rows.any fun x => (s.badIn x.1 x.2).isSome
    let keys := (s.poison.filter fun k => k.2 && rows.any fun x => decide (k.1 < x.1 + x.2) && decide (x.1 < k.1 + s.granule k.1)).map (·.1)
    let s := rows.foldl (fun s x => (countAccess .mantel false s x.1 x.2).lostTaken false x.1 x.2) s
    let s := keys.foldl (fun s k => reportUnnamed (errUncorrectable s k) 0x06 1 k (k / 2 ^ 32) 0) s
    (engWrite s (rDst r) bytes, hit, sat)

/-- Valid regions in ascending order: poisoned ones, and the saturation count. -/
def produceAll (x : ShapeRun) : List Nat → State → State × List Nat × Nat
  | [], s => (s, [], 0)
  | i :: is, s =>
    let (s, hit, sat) := produce (x.reg i) s
    let (s, ps, n) := produceAll x is s
    (s, if hit then i :: ps else ps, sat + n)

def maskOf (is : List Nat) : Nat := (is.map (2 ^ ·)).sum

/-- The result record (R285). -/
def resultRecord (x : ShapeRun) (poisoned : List Nat) (sat : Nat) (t : W64) : List Byte :=
  leBytes 8 (hTag x.header) ++ leBytes 8 (maskOf x.valid) ++ leBytes 8 (maskOf x.stale) ++ leBytes 8 (maskOf x.bad) ++
    leBytes 8 (maskOf poisoned) ++ leBytes 4 sat ++ leBytes 8 x.start.toNat ++ leBytes 8 t.toNat ++ leBytes 4 0

/-- SHAPE_OP_DONE: steps 2 to 6 of R285. -/
def shapeDone (s : State) : State :=
  match s.shaper.run with
  | none => s
  | some x =>
    let (s, poisoned, sat) := produceAll x x.valid s
    let s := if hResult x.header then engWrite s (hResAddr x.header) (resultRecord x poisoned sat s.clock.timeM) else s
    let freed := (((x.valid ++ x.stale).filter fun i => rRelease (x.reg i)).map fun i => rBuf (x.reg i)).dedup
    let s := freed.foldl (fun s b => setMark b mkHold false s) s
    let s := if hSignals x.header then semUpdate s (hSigSem x.header) false (hSigVal x.header) else s
    let s := { s with shaper := { s.shaper with run := none } }
    let s := if x.ring then shapeAdvance x.part s else s
    match x.pipe.bind fun k => (tfind s.pipes k).map fun y => (k, y) with
    | some (k, y) => { s with pipes := tput s.pipes k { y with stale := !x.stale.isEmpty } }
    | none => s

/-! ### Meanings -/

/-- SHAPE_RING_WRITE (R280). -/
def execShapeRingWrite (fn : Fn) (p : Fin 16) (value : W64) (s : State) : Out :=
  live s (orRecord (.shapeRingWrite fn p value) (shapeRingWrite fn p.val value))
/-- SHAPE_DOORBELL (R280). -/
def execShapeDoorbell (fn : Fn) (p : Fin 16) (tail : W32) (s : State) : Out :=
  live s (orRecord (.shapeDoorbell fn p tail) (shapeDoorbell fn p.val tail))
/-- SHAPE_OP_START (R285). -/
def execShapeOpStart (p : Fin 16) (s : State) : Out := running s (shapeStart p.val)
/-- SHAPE_OP_DONE (R285). -/
def execShapeOpDone (s : State) : Out := running s shapeDone

end Sys2Proof.Machine
end

