-- ==== Sys2Proof/Machine/Ingest.lean ====
section
/-!
DEFINITION. Record ingest (R290 to R303): channels, record headers, samples and their substitutes, packing into rows, batches, and the
results of the JPEG decoder (R288, R289). What the decoder makes of a JPEG comes as an operand (log 7).
-/
namespace Sys2Proof.Machine

/-! ### The parameter area (R294) -/

def iAt (p : List Byte) (o n : Nat) : Nat := leAt p (128 + o) n
def iZero (p : List Byte) : Bool := nbit (iAt p 0 1) 0
def iHandle (p : List Byte) : Nat := nbits (iAt p 2 2) 9 0
def iToken (p : List Byte) : Nat := iAt p 4 2
def iRowLen (p : List Byte) : Nat := iAt p 6 2
def iMaxLen (p : List Byte) : Nat := iAt p 8 4
def iSlotBytes (p : List Byte) : Nat := iAt p 12 4
def iSlotBase (p : List Byte) : Nat := nbits (iAt p 16 8) 39 8 * 256
def iSlotCount (p : List Byte) : Nat := iAt p 24 2
def iRowCount (p : List Byte) : Nat := iAt p 26 2
def iRowBase (p : List Byte) : Nat := nbits (iAt p 28 8) 39 8 * 256
def iOpenRows (p : List Byte) : Nat := iAt p 36 1
def iBatchRows (p : List Byte) : Nat := iAt p 38 2
def iBatchN (p : List Byte) : Nat := iAt p 40 2
def iSubW (p : List Byte) : Nat := iAt p 42 2
def iSubH (p : List Byte) : Nat := iAt p 44 2
def iSubLen (p : List Byte) : Nat := iAt p 46 2
def iDeadline (p : List Byte) : Nat := iAt p 48 4
def iSubBase (p : List Byte) : Nat := nbits (iAt p 56 8) 39 8 * 256
def iSubTensor (p : List Byte) : List Byte := (p.drop 192).take 16

/-- A tensor header is valid (R292): data bytes, or none. -/
def tensorSize (h : List Byte) : Option Nat :=
  let rank := nbits (leAt h 0 1) 6 4
  let dim := fun i => leAt h (4 + 2 * i) 2
  match Fmt.ofCode (nbits (leAt h 0 1) 3 0) with
  | none => none
  | some f =>
    if f = .int10 ∨ rank < 1 ∨ 4 < rank ∨ nbit (leAt h 0 1) 7 ∨ !zeros h 1 3 ∨ !zeros h 12 15 ∨
        ((List.range 4).any fun i => decide (rank ≤ i) && dim i != 1) then none
    else some (cdiv (dim 0 * dim 1 * dim 2 * dim 3 * f.bits) 8)

def wrongAddr (a : Nat) : Bool := nbits a 7 0 != 0 || nbits a 63 40 != 0
def outside' (x lo hi : Nat) : Bool := decide (x < lo ∨ hi < x)

/-- A field of the parameter area breaks its range. -/
def ingestBad (p : List Byte) : Bool :=
  commonBad (p.take 128) || decide (8192 < pMaxW p ∨ 8192 < pMaxH p) || !zeros p 0 1 || nbits (leAt p 2 1) 7 4 != 0 || !zeros p 3 3 || !zeros p 8 8 ||
    !zeros p 10 31 || !zeros p 40 47 || !zeros p 50 51 || !zeros p 60 83 ||
    nbits (iAt p 0 1) 7 1 != 0 || iAt p 1 1 != 0 || nbits (iAt p 2 2) 15 10 != 0 || outside' (iToken p) 1 4096 || outside' (iRowLen p) 1 65535 ||
    outside' (iMaxLen p) 16 (64 * 2 ^ 20) || decide (iSlotBytes p < 4096) || iSlotBytes p % 256 != 0 || wrongAddr (iAt p 16 8) ||
    outside' (iSlotCount p) 1 8192 || outside' (iRowCount p) 1 32768 || wrongAddr (iAt p 28 8) || outside' (iOpenRows p) 1 8 || iAt p 37 1 != 0 ||
    outside' (iBatchRows p) (iOpenRows p) 1024 || outside' (iBatchN p) 1 65535 || iSubW p % 2 != 0 || iSubH p % 2 != 0 ||
    outside' (iSubW p) 16 (pMaxW p) || outside' (iSubH p) 16 (pMaxH p) || outside' (iSubLen p) 1 (iRowLen p) || iAt p 52 4 != 0 ||
    wrongAddr (iAt p 56 8) || (tensorSize (iSubTensor p)).isNone || !zeros p 208 255

/-! ### Channels -/

def State.chan (s : State) (c : Nat) : Chan := tget {} s.ingest c
def State.modChan (s : State) (c : Nat) (f : Chan → Chan) : State := { s with ingest := tmod {} s.ingest c f }

def Chan.size (x : Chan) : Nat := 2 ^ x.log
def Chan.handle (x : Chan) : Nat := iHandle x.par

/-- CONSUMED: no record from there on has been read whole (R297). -/
def Chan.consumed (x : Chan) : W32 :=
  match x.flight with
  | m :: _ => m.start - 16
  | [] => x.pos

/-- Bytes from a byte index on are in the ring. -/
def Chan.has (x : Chan) (i : W32) (n : Nat) : Bool := ahead32 x.write i && decide (n ≤ dist32 x.write i)

/-- Bytes still to be passed over are, as far as they stand in the ring. -/
def Chan.pass (x : Chan) : Chan :=
  let n := min x.skip (if ahead32 x.write x.pos then dist32 x.write x.pos else 0)
  { x with pos := x.pos + BitVec.ofNat 32 n, skip := x.skip - n }

/-- The parse index goes past a record of `n` payload bytes to the next header, as its bytes come (R290, R297). -/
def Chan.leap (x : Chan) (n : Nat) : Chan := Chan.pass { x with skip := alignUp (x.pos.toNat + 16 + n + 4) 8 - x.pos.toNat }

/-- INGEST_STAT and the stream's STATE follow the channel. -/
def chanSync (c : Nat) (s : State) : State :=
  let x := s.chan c
  let s := (s.setFld (Reg.ingestStat c) 31 0 x.consumed.toNat).setFld (Reg.ingestStat c) 33 32 x.st
  s.modStream x.handle fun y => if y.kind = .ingest c then { y with st := x.st } else y

/-! ### Reading the ring without side effects -/

def ringPeek (s : State) (base size : Nat) (i : W32) (n : Nat) : List Byte :=
  let o := i.toNat % size
  let m := min n (size - o)
  mread s.mem (base + o) m ++ mread s.mem base (n - m)

def ringDirty (s : State) (base size : Nat) (i : W32) (n : Nat) : Option Nat :=
  let o := i.toNat % size
  let m := min n (size - o)
  match s.badIn (base + o) m with
  | some k => if m = 0 then none else some k
  | none => if n = m then none else s.badIn base (n - m)

/-- A poisoned read of the ring is logged (R443). -/
def ingestPoison (k : Option Nat) (s : State) : State :=
  match k with
  | some k => reportUnnamed s 0x07 1 k (k / 2 ^ 32) 0
  | none => s

/-! ### Batches and rows (R301 to R303) -/

def rowStride (p : List Byte) : Nat := alignUp (alignUp (iRowLen p * iToken p) 64 + 2 * iRowLen p) 256
def rowAddr (p : List Byte) (k : W32) : Nat := iRowBase p + k.toNat % iRowCount p * rowStride p

/-- Positions of a row: tokens, and the segment id of each. -/
def putPositions (p : List Byte) (k : W32) (pos n : Nat) (tokens : List Byte) (seg : Nat) (s : State) : State :=
  if n = 0 then s
  else
    let a := rowAddr p k
    let s := engWrite s (a + pos * iToken p) tokens
    engWrite s (a + alignUp (iRowLen p * iToken p) 64 + 2 * pos) ((List.replicate n (leBytes 2 seg)).flatten)

/-- A row is padded. -/
def padRow (p : List Byte) (r : PackRow) (s : State) : State :=
  let n := iRowLen p - r.used
  putPositions p r.row r.used n (List.replicate (n * iToken p) 0) 0xFFFF s

/-- The batch closes. -/
def closeBatch (c : Nat) (deadline eos : Bool) (s : State) : State :=
  let x := s.chan c
  if x.samples = 0 then s
  else
    let h := x.handle
    let s := x.rows.foldl (fun s r => padRow x.par r s) s
    let pad := x.pad + (x.rows.map fun r => iRowLen x.par - r.used).sum
    let (k, s) := s.fresh
    let rec' := leBytes 4 x.batch.toNat ++ leBytes 1 0x80 ++ leBytes 1 (deadline.toNat + 2 * eos.toNat + 4 * (Config.batchSlots k).toNat) ++
      leBytes 2 0 ++ leBytes 4 x.samples ++ leBytes 4 x.rowsUsed ++ leBytes 4 x.firstRow.toNat ++ leBytes 4 pad ++ leBytes 8 s.clock.timeM.toNat
    let s := if rEn (pRing x.par true) then ringIndex h true (ringPut h true rec' s) else s
    let s := semField (pAnaSem x.par) s
    let s := count h 52 pad (count h 44 1 s)
    let s := if deadline then count h 48 1 s else s
    writeStat h (s.modChan c fun x => { x with batch := x.batch + 1, samples := 0, firstAt := none, firstRow := x.nextRow, rows := [], rowsUsed := 0, pad := 0 })

/-- Row `nextRow` may open. -/
def rowFree (x : Chan) : Bool := decide ((x.nextRow.toNat + 2 ^ 16 - x.rowDone % 2 ^ 16) % 2 ^ 16 < iRowCount x.par)

/-- Where a sequence of `n` positions goes (R302): an open row, a new row, or the batch must close first. -/
inductive Placing where
  | here (row : W32)
  | fresh
  | shut
deriving DecidableEq, Repr

def placing (x : Chan) (n : Nat) : Placing :=
  match x.rows.find? fun r => decide (n ≤ iRowLen x.par - r.used) with
  | some r => .here r.row
  | none => if x.rowsUsed < iBatchRows x.par ∧ x.rows.length < iOpenRows x.par then .fresh else .shut

/-- A sequence placed directly after a row's last segment. -/
def placeIn (c : Nat) (row : W32) (n : Nat) (tokens : List Byte) (s : State) : State × (W32 × Nat × Nat) :=
  let x := s.chan c
  match x.rows.find? fun r => r.row == row with
  | none => (s, (row, 0, 0))
  | some r =>
    let s := putPositions x.par row r.used n tokens r.segs s
    let r' := { r with used := r.used + n, segs := r.segs + 1 }
    let rows := if r'.used = iRowLen x.par then x.rows.filter fun q => q.row != row else x.rows.map fun q => if q.row == row then r' else q
    (s.modChan c fun x => { x with rows := rows }, (row, r.segs, r.used))

/-- The next row opens. -/
def openRow (c : Nat) (s : State) : State :=
  s.modChan c fun x => { x with rows := x.rows ++ [⟨x.nextRow, 0, 0⟩], nextRow := x.nextRow + 1, rowsUsed := x.rowsUsed + 1 }

/-! ### Samples in flight -/

def Chan.sample? (x : Chan) (id : W32) : Option Sample := x.flight.find? fun m => m.id == id
def modSample (c : Nat) (id : W32) (f : Sample → Sample) (s : State) : State :=
  s.modChan c fun x => { x with flight := x.flight.map fun m => if m.id == id then f m else m }

/-- Input that can still be parsed. -/
def Chan.moreInput (x : Chan) : Bool := !x.stopping && x.skip == 0 && x.has x.pos 16

/-- The channel has come to its end: EOS closes the batch; a cleared EN closes the stream as well (R295, R303). -/
def chanSettle (c : Nat) (s : State) : State :=
  let x := s.chan c
  if !x.flight.isEmpty || x.moreInput then chanSync c s
  else if x.stopping then
    let h := x.handle
    let s := closeBatch c false true s
    let s := writeStat h (s.modStream h fun y => { y with st := 0 })
    let s := reclaim { s with media := { s.media with streams := terase s.media.streams h } } h
    chanSync c (s.modChan c fun x => { x with st := 0, stopping := false, eos := false })
  else if x.eos then
    let s := (closeBatch c false true s).modChan c fun x => { x with st := 2, eos := false }
    writeStat x.handle (chanSync c s)
  else chanSync c s

/-! ### Enabling and disabling (R294, R295) -/

/-- The buffer of a channel: layout 7 at the largest picture. -/
def ingestPat (p : List Byte) : Buf :=
  let pitch := alignUp (pMaxW p) 512
  let h := alignUp (pMaxH p) 64
  { owner := iHandle p, part := pPart p, segment := false, addr := 0, grans := granules (3 * pitch * h), pitch := pitch, lines := h }

/-- An enable that fails: EN reads 0, RESULT names the reason. -/
def enableFails (fn : Fn) (c code : Nat) (s : State) : State :=
  dropCmd ((s.setBit (Reg.ingestRing c) 0 false).setFld (Reg.ingestStat c) 37 34 code) fn (Reg.ingestRing c)

/-- The function may write a channel's registers: a running channel has a partition. -/
def mayChan (s : State) (fn : Fn) (c : Nat) : Bool :=
  let x := s.chan c
  if x.st = 0 then !s.outside fn else s.mayPart fn (pPart x.par)

def ingestEnable (fn : Fn) (c : Nat) (v : W64) (s : State) : State :=
  let (s, par, poison) := engRead s (s.fld (Reg.ingestParam c) 39 6 * 64) 256
  if !s.mayPart fn (pPart par) then denied s fn (Reg.ingestRing c)
  else
    let s := s.setReg (Reg.ingestRing c) (v &&& ringMask)
    let log := nbits v.toNat 5 1
    let base := nbits v.toNat 39 12 * 4096
    if poison.isSome || ingestBad par || outside' log 16 30 || !s.inGddrStaging base (2 ^ log) then enableFails fn c 1 s
    else if handleBusy s (iHandle par) then enableFails fn c 2 s
    else
      match reserve s (4 + pHold par) (ingestPat par) 0 0 (par.take 128) with
      | .error e => enableFails fn c e s
      | .ok pool =>
        let s := { s with media := { s.media with pool := pool } }
        let s := s.putStream (iHandle par) { kind := .ingest c, par := par.take 128 }
        let s := s.modChan c fun _ => { st := 1, par := par, log := log, base := base }
        writeStat (iHandle par) (chanSync c (s.setFld (Reg.ingestStat c) 37 34 0))

/-- EN is cleared: parsing stops. -/
def ingestDisable (c : Nat) (s : State) : State := chanSettle c (s.modChan c fun x => { x with stopping := true })

/-- A write of INGEST_RING. -/
def ingestRingWrite (fn : Fn) (c : Nat) (v : W64) (s : State) : State :=
  if !mayChan s fn c then denied s fn (Reg.ingestRing c)
  else
    let on := s.bit (Reg.ingestRing c) 0
    let en := nbit v.toNat 0
    if en && !on then (if (s.chan c).st = 0 then ingestEnable fn c v s else enableFails fn c 2 s)
    else
      let s := s.setReg (Reg.ingestRing c) (v &&& ringMask)
      if on && !en then ingestDisable c s else s

/-! ### Doorbells (R293) -/

/-- The slots and rows that have been emitted, as free-running indices: every sample before the first still in flight, and the rows of closed
batches. -/
def Chan.slotsOut (x : Chan) : Nat := match x.flight with
  | m :: _ => m.id.toNat
  | [] => x.id.toNat

/-- An index moves forward, and not beyond a bound, modulo 2^w. -/
def forward (w new old bound : Nat) : Bool :=
  let m := 2 ^ w
  decide ((new + m - old % m) % m ≤ (bound + m - old % m) % m)

def ingestDb (fn : Fn) (c : Nat) (write : W32) (eos : Bool) (slot row : Nat) (s : State) : State :=
  let x := s.chan c
  if !mayChan s fn c then denied s fn (Reg.ingestDb c)
  else if s.noBells || x.st == 0 || decide (x.size < dist32 write x.consumed) || !ahead32 write x.write ||
      !forward 14 slot x.slotDone (x.slotsOut % 2 ^ 14) || !forward 16 row x.rowDone (x.firstRow.toNat % 2 ^ 16) then
    dropCmd s fn (Reg.ingestDb c)
  else
    chanSettle c (s.modChan c fun x => Chan.pass { x with
      write := write, slotDone := slot, rowDone := row, eos := x.eos || eos
      st := if x.st = 2 ∧ write ≠ x.write then 1 else x.st })

/-! ### Record headers (R290, R296, R297) -/

/-- The record's MAGIC and HCRC hold. -/
def headerOk (h : List Byte) : Bool := leAt h 0 4 == 0x31435246 && leAt h 12 4 == crc32c (h.take 12)

/-- A record that yields no sample: it is skipped by its LENGTH. -/
def skipRecord (c len : Nat) (s : State) : State :=
  (count (s.chan c).handle 40 1 s).modChan c fun x => { x.leap len with afterPrimary := false }

/-- The newest sample has all its records. -/
def closeSample (x : Chan) : Chan :=
  match x.flight.getLast? with
  | some m => { x with flight := x.flight.map fun k => if k.id == m.id then { k with whole := true } else k }
  | none => x

/-- RECORD_HEADER: the header at the parse index, once its bytes are there and, for a new sample, a slot is free. The sample before has all its
records as soon as another header follows. -/
def recordHeader (c : Nat) (s : State) : State :=
  let x := s.chan c
  if x.st ≠ 1 ∨ !x.moreInput then s
  else
    let h := x.handle
    let hd := ringPeek s x.base x.size x.pos 16
    let dirty := ringDirty s x.base x.size x.pos 16
    let kind := leAt hd 8 1
    let flags := leAt hd 9 1
    let len := leAt hd 4 4
    let isNew := dirty.isNone && headerOk hd && [1, 2, 4].contains kind && flags == 0 && leAt hd 10 2 == 0
    let s := s.modChan c closeSample
    if isNew && !decide ((x.id.toNat + 2 ^ 14 - x.slotDone % 2 ^ 14) % 2 ^ 14 < iSlotCount x.par) then s
    else
      let (s, _, _) := ringRead s x.base x.size x.pos 16
      if dirty.isSome || !headerOk hd then
        let s := if x.resync then s else count h 32 1 s
        chanSettle c (count h 36 8 ((ingestPoison dirty s).modChan c fun x => { x with pos := x.pos + 8, resync := true, afterPrimary := false }))
      else
        let s := s.modChan c fun x => { x with resync := false }
        if isNew then
          let m : Sample := { id := x.id, kind := kind, arrival := s.clock.timeM, start := x.pos + 16, len := len }
          chanSync c ((count h 4 1 s).modChan c fun x => { x.leap len with id := x.id + 1, afterPrimary := true, flight := x.flight ++ [m] })
        else if kind = 3 ∧ flags = 1 ∧ leAt hd 10 2 = 0 ∧ x.afterPrimary ∧ (x.sample? (x.id - 1)).isSome then
          chanSync c (modSample c (x.id - 1) (fun m => { m with label := some (x.pos + 16, len) })
            (s.modChan c fun x => { x.leap len with afterPrimary := false }))
        else chanSettle c (skipRecord c len s)

/-! ### Dispatch and the JPEG decoder (R288, R289, R298) -/

/-- A record of `n` payload bytes and its CRC fit in the ring at once. -/
def Chan.fits (x : Chan) (n : Nat) : Bool := decide (n + 4 ≤ x.size)

/-- The payload and the label have been written to the ring; what does not fit in it can never stand there whole (log 27). -/
def Chan.ready (x : Chan) (m : Sample) : Bool :=
  (!x.fits m.len || x.has m.start (m.len + 4)) && (match m.label with
    | some (i, n) => !x.fits n || x.has i (n + 4)
    | none => true)

/-- Images that the decoder holds. -/
def jpegsHeld (s : State) : Nat :=
  (s.ingest.map fun k => (k.2.flight.filter fun m => m.kind == 1 && m.sent.isSome && m.jpeg.isNone).length).sum

/-- SAMPLE_DISPATCH. -/
def sampleDispatch (c : Nat) (id : W32) (s : State) : State :=
  let x := s.chan c
  match x.sample? id with
  | none => s
  | some m =>
    if m.sent.isSome || !(x.ready m || x.stopping) then s
    else if m.kind = 1 then
      match s.anyFree x.handle with
      | some b =>
        if 4 ≤ jpegsHeld s then s
        else modSample c id (fun m => { m with sent := some s.clock.timeM, buf := some b }) (s.modBuf b fun y => { y with taken := true })
      | none => s
    else modSample c id (fun m => { m with sent := some s.clock.timeM }) s

/-- Planes of a picture in layouts 5 to 8 in a buffer: luma, then Cb and Cr. -/
def putPlanes (layout addr w h : Nat) (bs : List Byte) (s : State) : State :=
  let pitch := alignUp w 512
  let lines := alignUp h 64
  let s := putRows w pitch h addr (padTo (w * h) bs) s
  match laySub layout with
  | none => s
  | some (hs, vs) =>
    let cw := cdiv w hs
    let ch := cdiv h vs
    let c := addr + pitch * lines
    let s := putRows cw (pitch / hs) ch c (padTo (cw * ch) (bs.drop (w * h))) s
    putRows cw (pitch / hs) ch (c + pitch / hs * (lines / vs)) (padTo (cw * ch) (bs.drop (w * h + cw * ch))) s

/-- The layout of R282 that the components of a supported JPEG are written in (R288). -/
def jpegLayout (h : JpegHeader) : Option Nat :=
  if !h.sequential || !h.huffman || h.bits != 8 then none
  else
    match h.comps with
    | [_] => some 8
    | [(2, 2), (1, 1), (1, 1)] => some 5
    | [(2, 1), (1, 1), (1, 1)] => some 6
    | [(1, 1), (1, 1), (1, 1)] => some 7
    | _ => none

/-- The result code of R289 and the layout of what is written, when something is. -/
def jpegCode (p : List Byte) (r : JpegResult) : Nat × Option (JpegHeader × Nat) :=
  let ends := match r.ends with
    | .complete => 0
    | .syntaxError => 2
    | .truncated => 3
  match r.header with
  | none => (if r.ends = .truncated then 3 else 2, none)
  | some h =>
    match jpegLayout h with
    | none => (1, none)
    | some l => if h.picW = 0 ∨ h.picH = 0 then (1, none) else if pMaxW p < h.picW ∨ pMaxH p < h.picH then (4, none) else (ends, some (h, l))

/-- The planes of a JPEG, with 128 in every component of an MCU that was not decoded (R289). -/
def jpegPlanes (h : JpegHeader) (layout : Nat) (r : JpegResult) : List Byte :=
  let (hs, vs) := (laySub layout).getD (1, 1)
  let wide := cdiv h.picW (8 * hs)
  let fill := fun (w n bw bh : Nat) (bs : List Byte) =>
    patchPlane w n bw bh (fun y c => r.missing.contains (y * wide + c)) (fun _ _ m => grey false m) (padTo (w * n) bs)
  let cw := cdiv h.picW hs
  let ch := cdiv h.picH vs
  let luma := fill h.picW h.picH (8 * hs) (8 * vs) r.planes
  if layout = 8 then luma
  else luma ++ fill cw ch 8 8 (r.planes.drop (h.picW * h.picH)) ++ fill cw ch 8 8 (r.planes.drop (h.picW * h.picH + cw * ch))

/-- JPEG_DONE: the decoder reports a result; dimensions beyond the channel's are TOO_LARGE (R299). -/
def jpegDone (c : Nat) (id : W32) (r : JpegResult) (s : State) : State :=
  let x := s.chan c
  match x.sample? id with
  | none => s
  | some m =>
    match m.buf, m.jpeg with
    | some b, none =>
      let (code, drawn) := jpegCode x.par r
      let addr := match s.buf? b with
        | some y => y.addr
        | none => 0
      let (w, h) := match r.header with
        | some h => (h.picW, h.picH)
        | none => (0, 0)
      let s := match drawn with
        | some (h, l) => putPlanes l addr h.picW h.picH (jpegPlanes h l r) s
        | none => s
      modSample c id (fun m => { m with jpeg := some (code, w, h) }) s
    | _, _ => s

/-! ### Results of a sample (R299) -/

def fReplaced : Nat := 1
def fZero : Nat := 2
def fSlow : Nat := 4
def fCrc : Nat := 8
def fDecode : Nat := 16
def fShort : Nat := 32
def fLabel : Nat := 64

/-- The payload CRC of a record fails, or a read of it is poisoned. -/
def recordBad (s : State) (x : Chan) (i : W32) (n : Nat) : Bool :=
  (ringDirty s x.base x.size i (n + 4)).isSome ||
    crc32c (ringPeek s x.base x.size i n) != leNat (ringPeek s x.base x.size (i + BitVec.ofNat 32 n) 4)

/-- Causes that the payload of a TENSOR or a PATCHSEQ shows. -/
def payloadFlags (x : Chan) (kind len : Nat) (bs : List Byte) : Nat :=
  if kind = 2 then
    if len < 16 then fShort
    else
      match tensorSize (bs.take 16) with
      | none => fDecode
      | some n => (if len = 16 + n then 0 else fShort) + (if iSlotBytes x.par - 4096 < n then fDecode else 0)
  else
    if len < 8 then fShort
    else
      let n := leAt bs 0 4
      let t := leAt bs 4 2
      (if t ≠ iToken x.par ∨ iRowLen x.par < n then fDecode else 0) + (if len = 8 + n * t then 0 else fShort)

/-- Causes that a decoder's result shows. -/
def jpegFlags : Nat → Nat
  | 0 => 0
  | 3 => fShort
  | _ => fDecode

/-- The CRC of a sample's own payload fails, or a read of it is poisoned; a payload that does not fit in the ring has none (log 27). -/
def payloadBad (s : State) (x : Chan) (m : Sample) : Bool := x.fits m.len && recordBad s x m.start m.len

/-- The same of its label. -/
def labelBad (s : State) (x : Chan) (m : Sample) : Bool :=
  match m.label with
  | some (i, n) => x.fits n && recordBad s x i n
  | none => false

/-- All causes of a sample: none while the decoder's result is missing, which counts only where the payload's own CRC holds (R298). -/
def sampleFlags (s : State) (x : Chan) (m : Sample) : Option Nat :=
  let long := decide (iMaxLen x.par < m.len)
  let bigLabel := match m.label with
    | some (_, n) => decide (4096 < n)
    | none => false
  let bad := payloadBad s x m
  let body : Option Nat :=
    if long then some fDecode
    else if m.kind = 1 then
      match m.jpeg with
      | some (code, _, _) => some (if bad then 0 else jpegFlags code)
      | none => if bad then some 0 else none
    else some (payloadFlags x m.kind m.len (ringPeek s x.base x.size m.start m.len))
  body.map fun f => (if bad || labelBad s x m then fCrc else 0) ||| f ||| (if bigLabel then fDecode else 0)

/-- What is delivered under a sample's id. -/
inductive Content where
  | image (w h : Nat)
  | tensor (data : List Byte)
  | patch (n : Nat) (tokens : List Byte)
deriving DecidableEq, Repr

def kindIdx (kind : Nat) : Nat := if kind = 1 then 0 else if kind = 2 then 1 else 2

/-- Address of a copy in the substitute area (log 27): its payload, and its label after MAX_LEN bytes. -/
def subAddr (p : List Byte) (kind copy : Nat) : Nat := iSubBase p + (2 * kindIdx kind + copy) * (iMaxLen p + 4096)

/-- What a payload delivers. -/
def contentOf (kind : Nat) (bs : List Byte) (w h : Nat) : Content :=
  if kind = 1 then .image w h
  else if kind = 2 then .tensor ((bs.drop 16).take ((tensorSize (bs.take 16)).getD 0))
  else .patch (leAt bs 0 4) (bs.drop 8)

/-- The ZERO substitute. -/
def zeroContent (p : List Byte) (kind : Nat) : Content :=
  if kind = 1 then .image (iSubW p) (iSubH p)
  else if kind = 2 then .tensor (List.replicate ((tensorSize (iSubTensor p)).getD 0) 0)
  else .patch (iSubLen p) (List.replicate (iSubLen p * iToken p) 0)

/-- The zero image: Y 0, Cb and Cr 128 in layout 5. -/
def zeroImage (w h : Nat) : List Byte := List.replicate (w * h) 0 ++ List.replicate (2 * (cdiv w 2 * cdiv h 2)) 128

/-- The label of a copy. -/
def copyLabel (s : State) (x : Chan) (kind : Nat) (g : Good) : Option (List Byte) :=
  g.label.map fun n => mread s.mem (subAddr x.par kind g.copy + iMaxLen x.par) n

/-- The copy that substitutes under LAST_GOOD. -/
def lastGood (x : Chan) (kind : Nat) : Option Good := if iZero x.par then none else tfind x.good kind

/-- The decoder has room for a sample's image beside those of other samples (R298). -/
def decoderTakes (s : State) (m : Sample) : Bool :=
  decide (jpegsHeld s < 4) || (m.kind == 1 && m.sent.isSome && m.jpeg.isNone)

/-! ### Emission (R298) -/

/-- Emission of a JPEG waits for HOLD_QUOTA. -/
def jpegWaits (s : State) (x : Chan) : Bool := rEn (pRing x.par true) && decide (pHold x.par ≤ heldAna s x.handle)

/-- The latest good sample is kept (R299). -/
def keepGood (c : Nat) (m : Sample) (s : State) : State :=
  let x := s.chan c
  if iZero x.par then s
  else
    let copy := match tfind x.good m.kind with
      | some g => 1 - g.copy
      | none => 0
    let a := subAddr x.par m.kind copy
    let s := engWrite s a (ringPeek s x.base x.size m.start m.len)
    let s := match m.label with
      | some (i, n) => engWrite s (a + iMaxLen x.par) (ringPeek s x.base x.size i n)
      | none => s
    s.modChan c fun x => { x with good := tput x.good m.kind ⟨copy, m.len, m.label.map (·.2)⟩ }

/-- The sample record, the ring, the batch, and the counters of a finished sample. -/
def emitSample (c : Nat) (m : Sample) (flags code size row seg pos : Nat) (label : Option (List Byte)) (s : State) : State :=
  let x := s.chan c
  let h := x.handle
  let slot := m.id.toNat % iSlotCount x.par
  let s := match label with
    | some bs => if bs = [] then s else engWrite s (iSlotBase x.par + slot * iSlotBytes x.par) bs
    | none => s
  let ana := rEn (pRing x.par true)
  let s := match m.buf with
    | some b => setMark b mkHold ana (s.modBuf b fun y => { y with taken := false, picW := size % 65536, picH := size / 65536, arrival := m.arrival })
    | none => s
  let rec' := leBytes 4 m.id.toNat ++ leBytes 1 m.kind ++ leBytes 1 (flags ||| if label.isSome then fLabel else 0) ++ leBytes 2 (m.buf.getD slot) ++
    leBytes 4 size ++ leBytes 4 row ++ leBytes 2 seg ++ leBytes 2 pos ++ leBytes 2 ((label.map (·.length)).getD 0) ++ leBytes 1 code ++ leBytes 1 0 ++
    leBytes 8 m.arrival.toNat
  let s := if ana then ringIndex h true (ringPut h true rec' s) else s
  let s := s.modChan c fun x => { x with
    flight := x.flight.filter fun k => k.id != m.id
    samples := x.samples + 1
    firstAt := some (x.firstAt.getD m.arrival) }
  let cnt := fun (off f : Nat) (s : State) => if flags &&& f = 0 then s else count h off 1 s
  let s := cnt 28 fReplaced (cnt 24 fSlow (cnt 20 fShort (cnt 16 fDecode (cnt 12 fCrc (count h 8 1 s)))))
  let s := if iBatchN x.par ≤ (s.chan c).samples then closeBatch c false false s else s
  chanSettle c (writeStat h s)

/-- A sample's content is delivered: false when it has to wait for a row or for HOLD_QUOTA. -/
def deliver (c : Nat) (m : Sample) (flags code : Nat) (k : Content) (label : Option (List Byte)) (s : State) : State × Bool :=
  let x := s.chan c
  match k with
  | .image w h =>
    if jpegWaits s x then (s, false)
    else
      let s := match m.buf with
        | some b => if flags &&& fZero = 0 then s else putPlanes 5 (match s.buf? b with
            | some y => y.addr
            | none => 0) w h (zeroImage w h) s
        | none => s
      (emitSample c m flags code (w + 65536 * h) 0 0 0 label s, true)
  | .tensor data =>
    let s := if data = [] then s else engWrite s (iSlotBase x.par + m.id.toNat % iSlotCount x.par * iSlotBytes x.par + 4096) data
    (emitSample c m flags code data.length 0 0 0 label s, true)
  | .patch n tokens =>
    let s := if placing x n = .shut then closeBatch c false false s else s
    let x := s.chan c
    match placing x n with
    | .here row =>
      let (s, (r, seg, pos)) := placeIn c row n tokens s
      (emitSample c m flags code n r.toNat seg pos label s, true)
    | .fresh =>
      if !rowFree x then (s, false)
      else
        let row := x.nextRow
        let (s, (r, seg, pos)) := placeIn c row n tokens (openRow c s)
        (emitSample c m flags code n r.toNat seg pos label s, true)
    | .shut => (s, false)

/-- A corrupt or slow sample gives way to its substitute; a JPEG copy is decoded again first, once the decoder has room. -/
def replaceSample (c : Nat) (m : Sample) (flags code : Nat) (s : State) : State × Bool :=
  let x := s.chan c
  match lastGood x m.kind with
  | none => deliver c m (flags ||| fReplaced ||| fZero) code (zeroContent x.par m.kind) none s
  | some g =>
    let label := copyLabel s x m.kind g
    if m.kind ≠ 1 then deliver c m (flags ||| fReplaced) code (contentOf m.kind (mread s.mem (subAddr x.par m.kind g.copy) g.len) 0 0) label s
    else if !decoderTakes s m then (s, false)
    else (modSample c m.id (fun m => { m with jpeg := none, redo := true, redoLabel := label, flags := flags ||| fReplaced, code := code }) s, false)

/-- The payload of a sample has been read. -/
def payloadRead (x : Chan) (m : Sample) (s : State) : State :=
  if !x.fits m.len then s
  else
    let (s, _, dirty) := ringRead s x.base x.size m.start (m.len + 4)
    ingestPoison dirty s

/-- A sample whose causes are known is delivered or replaced. -/
def sampleEnd (c : Nat) (m : Sample) (flags : Nat) (s : State) : State :=
  let x := s.chan c
  let (code, w, h) := if payloadBad s x m then (0, 0, 0) else m.jpeg.getD (0, 0, 0)
  if flags = 0 then
    let label := m.label.map fun l => ringPeek s x.base x.size l.1 l.2
    let (t, done) := deliver c m 0 code (contentOf m.kind (ringPeek s x.base x.size m.start m.len) w h) label s
    if done then keepGood c m (payloadRead x m t) else t
  else
    let (t, done) := replaceSample c m flags code s
    if done then payloadRead x m t else t

/-- SAMPLE_FINISH. -/
def sampleFinish (c : Nat) (id : W32) (s : State) : State :=
  let x := s.chan c
  match x.sample? id with
  | none => s
  | some m =>
    if m.sent.isNone then s
    else if m.redo then
      match m.jpeg with
      | some (_, w, h) => (deliver c m m.flags m.code (.image w h) m.redoLabel s).1
      | none => s
    else if m.slow then (replaceSample c m fSlow 0 s).1
    else if !x.ready m then
      if x.stopping then (replaceSample c m 0 0 s).1 else s
    else if !(m.whole || m.label.isSome || !x.moreInput) then s
    else
      match sampleFlags s x m with
      | none => s
      | some flags => sampleEnd c m flags s

/-- A sample is slow: ING_SLOW_LIMIT M-clocks of 1 ns have passed since its dispatch, and its last data write, which for a JPEG is the decoder's,
has not been made (log 27). -/
def isSlow (s : State) (m : Sample) : Bool :=
  let limit := s.fld Reg.ingestLimits 31 0
  match m.sent with
  | some t => limit != 0 && !m.redo && m.jpeg.isNone && decide (limit ≤ (s.clock.timeM - t).toNat)
  | none => false

/-- SAMPLE_SLOW (R300): the sample is aborted, and stays so while its substitute waits. -/
def sampleSlow (c : Nat) (id : W32) (s : State) : State :=
  match (s.chan c).sample? id with
  | none => s
  | some m => if !isSlow s m then s else (replaceSample c { m with slow := true } fSlow 0 (modSample c id (fun m => { m with slow := true }) s)).1

/-- BATCH_DEADLINE (R303). -/
def batchDeadline (c : Nat) (s : State) : State :=
  let x := s.chan c
  match x.firstAt with
  | none => s
  | some t =>
    let age := (s.clock.timeM - t).toNat
    if iDeadline x.par = 0 ∨ age < iDeadline x.par * 1000 ∨ 2 ^ 63 ≤ age then s else chanSettle c (closeBatch c true false s)

/-! ### Meanings -/

/-- INGEST_ENABLE (R294). -/
def execIngestEnable (fn : Fn) (c : Fin 16) (value : W64) (s : State) : Out :=
  live s (orRecord (.ingestEnable fn c value) (ingestRingWrite fn c.val (value ||| 1)))
/-- INGEST_DISABLE (R295). -/
def execIngestDisable (fn : Fn) (c : Fin 16) (s : State) : Out :=
  live s (orRecord (.ingestDisable fn c) fun s => ingestRingWrite fn c.val (s.reg (Reg.ingestRing c.val) &&& ~~~1) s)
/-- INGEST_DOORBELL (R293). -/
def execIngestDoorbell (fn : Fn) (c : Fin 16) (write : W32) (s : State) : Out :=
  live s (orRecord (.ingestDoorbell fn c write) fun s => ingestDb fn c.val write false (s.chan c.val).slotDone (s.chan c.val).rowDone s)
/-- INGEST_EOS (R293). -/
def execIngestEos (fn : Fn) (c : Fin 16) (write : W32) (s : State) : Out :=
  live s (orRecord (.ingestEos fn c write) fun s => ingestDb fn c.val write true (s.chan c.val).slotDone (s.chan c.val).rowDone s)
/-- SLOT_DONE (R293). -/
def execSlotDone (fn : Fn) (c : Fin 16) (n : BitVec 14) (s : State) : Out :=
  live s (orRecord (.slotDone fn c n) fun s => ingestDb fn c.val (s.chan c.val).write false n.toNat (s.chan c.val).rowDone s)
/-- ROW_DONE (R293). -/
def execRowDone (fn : Fn) (c : Fin 16) (n : BitVec 16) (s : State) : Out :=
  live s (orRecord (.rowDone fn c n) fun s => ingestDb fn c.val (s.chan c.val).write false (s.chan c.val).slotDone n.toNat s)
/-- RECORD_HEADER (R296, R297). -/
def execRecordHeader (c : Fin 16) (s : State) : Out := running s (recordHeader c.val)
/-- SAMPLE_DISPATCH (R298). -/
def execSampleDispatch (c : Fin 16) (id : W32) (s : State) : Out := running s (sampleDispatch c.val id)
/-- SAMPLE_FINISH (R298). -/
def execSampleFinish (c : Fin 16) (id : W32) (s : State) : Out := running s (sampleFinish c.val id)
/-- SAMPLE_SLOW (R300). -/
def execSampleSlow (c : Fin 16) (id : W32) (s : State) : Out := running s (sampleSlow c.val id)
/-- BATCH_DEADLINE (R303). -/
def execBatchDeadline (c : Fin 16) (s : State) : Out := running s (batchDeadline c.val)
/-- JPEG_DONE (R289). -/
def execJpegDone (c : Fin 16) (id : W32) (r : JpegResult) (s : State) : Out := running s (jpegDone c.val id r)

end Sys2Proof.Machine
end

