-- ==== Sys2Proof/Machine/Track.lean ====
section
/-!
DEFINITION. The tracker (R304 to R328): contexts, binding, rings and operations, the filter's prediction and update in FP32, greedy
association, the lifecycle of tracks, embeddings, and metadata records.
-/
namespace Sys2Proof.Machine

/-! ### Contexts (R304, R305) -/

def ctxAddr (i : Nat) : Nat := trackBase + 64 * i
def ctxCount : Nat := 262144
/-- Byte 62 of a context: LIFE and PREDICTED. -/
def lifeAt : Nat := 62

/-- The contexts of a store whose LIFE is not FREED, ascending. A byte of memory that is not listed is 0, so a live context lists its byte 62. -/
def liveFrom (s : State) (base : Nat) : List Nat :=
  (s.mem.filter fun x => decide (base ≤ x.1) && decide (x.1 < base + 64 * ctxCount) && (x.1 - base) % 64 == lifeAt &&
    x.2.toNat % 4 != 0).map fun x => (x.1 - base) / 64
def State.liveCtxs (s : State) : List Nat := liveFrom s trackBase

/-- The image of a context. -/
def State.ctx (s : State) (i : Nat) : List Byte := mread s.mem (ctxAddr i) 64
/-- Live contexts of a stream, ascending. -/
def State.ctxsOf (s : State) (h : Nat) : List Nat := s.liveCtxs.filter fun i => leAt (s.ctx i) 50 2 == h

/-- Only the tracker writes the context store. -/
def putCtx (i : Nat) (img : List Byte) (s : State) : State := devWrite .mantel s (ctxAddr i) (padTo 64 img)
def freeCtx (i : Nat) (s : State) : State := putCtx i [] s

/-- Bytes `o` onward of a block replaced. -/
def splice (img : List Byte) (o : Nat) (bs : List Byte) : List Byte := img.take o ++ bs ++ img.drop (o + bs.length)

/-- The lowest context from `k` up that is not live, given the live ones in ascending order. -/
def lowestFree : List Nat → Nat → Nat
  | [], k => k
  | i :: is, k => if i = k then lowestFree is (k + 1) else if i < k then lowestFree is k else k

/-! ### The bind block (R307) -/

def bStream (p : List Byte) : Nat := nbits (leAt p 0 2) 9 0
def bPart (p : List Byte) : Nat := nbits (leAt p 2 1) 3 0
def bEmbFmt (p : List Byte) : Nat := nbits (leAt p 3 1) 1 0
def bEmbUpdate (p : List Byte) : Nat := nbits (leAt p 3 1) 3 2
/-- EMIT bit 4, 5 or 6. -/
def bEmit (p : List Byte) (b : Nat) : Bool := nbit (leAt p 3 1) b
def bEmbDim (p : List Byte) : Nat := leAt p 4 2
def bMaxDet (p : List Byte) : Nat := leAt p 6 2
def bMaxTracks (p : List Byte) : Nat := leAt p 8 2
def bIdBase (p : List Byte) : Nat := leAt p 12 4
/-- An FP32 field. -/
def bF (p : List Byte) (o : Nat) : FVal := f32 (leAt p o 4)
def bHigh (p : List Byte) : FVal := bF p 16
def bLow (p : List Byte) : FVal := bF p 20
def bBirth (p : List Byte) : FVal := bF p 24
def bGate (p : List Byte) (stage : Nat) : FVal := bF p (if stage = 1 then 28 else 32)
def bConfirm (p : List Byte) : Nat := nbits (leAt p 36 1) 4 0
def bMaxMiss (p : List Byte) : Nat := leAt p 37 1
def bAlpha (p : List Byte) : FVal := bF p 40
def bDtMax (p : List Byte) : Nat := leAt p 64 4
def bXoff (p : List Byte) : FVal := bF p 68
def bEmbBase (p : List Byte) : Nat := nbits (leAt p 72 8) 39 8 * 256
def bMeta (p : List Byte) : Nat := leAt p 80 8
def bMetaLog (p : List Byte) : Nat := nbits (bMeta p) 5 2
def bMetaPi (p : List Byte) : Nat := nbits (leAt p 88 8) 63 3 * 8
def bStat (p : List Byte) : Nat := leAt p 96 8

/-- Bytes of an embedding. -/
def embBytes (p : List Byte) : Nat :=
  match bEmbFmt p with
  | 1 => 2 * bEmbDim p
  | 2 => bEmbDim p
  | 3 => bEmbDim p / 8
  | _ => 0

/-- A value lies in [0, 1]; at least 0 and finite; above 0. -/
def unitF (x : FVal) : Bool := fle FVal.zero x && fle x (FVal.ofInt 1)
def posFin (x : FVal) : Bool := x.isFin && fle FVal.zero x

/-- A field breaks R307 or R308. -/
def bindBad (p : List Byte) : Bool :=
  let dimBad := match bEmbFmt p with
    | 1 => outside' (bEmbDim p) 1 128
    | 2 => outside' (bEmbDim p) 1 256
    | 3 => outside' (bEmbDim p) 8 2048 || bEmbDim p % 8 != 0
    | _ => false
  let me := nbit (bMeta p) 0
  nbits (leAt p 0 2) 15 10 != 0 || nbits (leAt p 2 1) 7 4 != 0 || nbit (leAt p 3 1) 7 || bEmbUpdate p == 3 || (bEmbUpdate p == 2 && bEmbFmt p != 1) ||
    dimBad || outside' (bMaxDet p) 1 1024 || outside' (bMaxTracks p) 1 4096 || !zeros p 10 11 || !unitF (bHigh p) || !unitF (bLow p) ||
    !unitF (bBirth p) || flt (bHigh p) (bLow p) || !flt FVal.zero (bGate p 1) || !flt FVal.zero (bGate p 2) || nbits (leAt p 36 1) 7 5 != 0 ||
    outside' (bConfirm p) 1 16 || bMaxMiss p == 0 || !zeros p 38 39 || !unitF (bAlpha p) || !([44, 48, 52, 56, 60].all fun o => posFin (bF p o)) ||
    bDtMax p == 0 || wrongAddr (leAt p 72 8) || nbits (bMeta p) 11 6 != 0 || nbits (leAt p 88 8) 2 0 != 0 || nbits (bStat p) 5 2 != 0 || !zeros p 104 127 ||
    (me && (outside' (bMetaLog p) 4 14 || decide (2 ^ bMetaLog p < 1 + bMaxDet p + bMaxTracks p)))

/-! ### Bound streams -/

def State.bound? (s : State) (h : Nat) : Option Bound := tfind s.track.bound h
def State.putBound (s : State) (h : Nat) (x : Bound) : State := { s with track := { s.track with bound := tput s.track.bound h x } }
def State.modBound (s : State) (h : Nat) (f : Bound → Bound) : State :=
  match s.bound? h with
  | some x => s.putBound h (f x)
  | none => s

/-- Contexts that no stream reserves (TRACK_POOL.FREE_CTX). -/
def State.freeCtxCount (s : State) : Nat := ctxCount - (s.track.bound.map fun x => bMaxTracks x.2.par).sum

/-- A counter of the status block of R328. -/
def tcount (h off n : Nat) (s : State) : State := s.modBound h fun x => { x with cnt := tset 0 x.cnt off (satAdd 32 (tget 0 x.cnt off) n) }

/-- Writes the 64-byte status block. -/
def trackStat (h : Nat) (s : State) : State :=
  match s.bound? h with
  | none => s
  | some x =>
    let r := bStat x.par
    if nbit r 0 then
      let live := (s.ctxsOf h).length
      spaceWrite s (nbit r 1) (nbits r 63 6 * 64) ((List.range 16).flatMap fun k => leBytes 4 (if k = 10 then live else tget 0 x.cnt (4 * k)))
    else s

/-- A wait for metadata space is over: the op starts, is skipped, or its stream is cleared; its time is counted (R328). -/
def metaWaitEnd (h : Nat) (s : State) : State :=
  match s.bound? h with
  | some x => (match x.waitAt with
    | some t => (tcount h 44 ((s.clock.timeF - t).toNat / 1000) s).modBound h fun x => { x with waitAt := none }
    | none => s)
  | none => s

/-! ### Commands (R308, R309) -/

def trackEnd (code : Nat) (s : State) : State := ((s.setFld Reg.trackCmdStat 11 8 code).setBit Reg.trackCmdStat 0 false).setBit Reg.trackCmdStat 1 true

/-- A stream is bound by its block: the result. -/
def bindStream (h : Nat) (p : List Byte) (s : State) : State × Nat :=
  if bindBad p || bStream p != h then (s, 1)
  else if (s.bound? h).isSome then (s, 2)
  else if s.freeCtxCount < bMaxTracks p then (s, 3)
  else (s.putBound h { par := p, nextId := BitVec.ofNat 32 (if bIdBase p = 0 then 1 else bIdBase p) }, 0)

/-- Every context of a stream is freed without records. -/
def clearCtxs (h : Nat) (s : State) : State := (s.ctxsOf h).foldl (fun s i => freeCtx i s) s

/-- The streams that a function-level reset unbinds, once no op of theirs is in progress (R369). -/
def trackLeave (s : State) : State :=
  ((s.track.bound.filter fun x => x.2.leaving && x.2.held.isEmpty).map (·.1)).foldl (fun s h =>
    let s := clearCtxs h s
    { s with track := { s.track with bound := terase s.track.bound h } }) s

/-- UNBIND (true) or CLEAR takes effect once no op of the stream is in progress. -/
def trackCmdStep (s : State) : State :=
  let s := trackLeave s
  match s.track.cmd with
  | none => s
  | some (h, unbind) =>
    match s.bound? h with
    | none => trackEnd 0 { s with track := { s.track with cmd := none } }
    | some x =>
      if x.held.isEmpty then
        let freed := s.ctxsOf h
        let s := clearCtxs h { s with track := { s.track with cmd := none } }
        trackEnd 0 (if unbind then { s with track := { s.track with bound := terase s.track.bound h } }
          else (metaWaitEnd h s).modBound h fun y => { y with predicted := false, preds := [], fresh := [], gone := y.gone ++ freed })
      else s

/-- A tracker command is dropped and counted: one is running (R309), or the tracker has not come up yet (step 9 of R24; DEDUCED, log 62). -/
def trackCmdOff (s : State) : Bool := s.bit Reg.trackCmdStat 0 || !s.ready

/-- A BIND command. -/
def trackBind (fn : Fn) (h : Nat) (s : State) : State :=
  if s.outside fn then denied s fn Reg.trackCmd
  else if trackCmdOff s then dropCmd s fn Reg.trackCmd
  else
    let (s, p, poison) := engRead s (s.fld Reg.trackCmdAddr 39 6 * 64) 128
    if !s.mayPart fn (bPart p) then denied s fn Reg.trackCmd
    else
      let (s, code) := if poison.isSome then (s, 1) else bindStream h p s
      trackEnd code s

/-- An UNBIND or CLEAR command. -/
def trackDrop (fn : Fn) (h : Nat) (unbind : Bool) (s : State) : State :=
  if s.outside fn then denied s fn Reg.trackCmd
  else if trackCmdOff s then dropCmd s fn Reg.trackCmd
  else
    match s.bound? h with
    | none => trackEnd 6 s
    | some x =>
      if !s.mayPart fn (bPart x.par) then denied s fn Reg.trackCmd
      else
        let s := ((s.setFld Reg.trackCmdStat 11 8 0).setBit Reg.trackCmdStat 0 true).setBit Reg.trackCmdStat 1 false
        trackCmdStep { s with track := { s.track with cmd := some (h, unbind) } }

/-! ### Rings (R310, R312) -/

def State.trackRing (s : State) (p : Nat) : OpRing := tget {} s.track.rings p
def State.modTrackRing (s : State) (p : Nat) (f : OpRing → OpRing) : State :=
  { s with track := { s.track with rings := tmod {} s.track.rings p f } }

/-- Completed ops move the head on. -/
def headOver : Nat → W32 → List W32 → W32 × List W32
  | 0, h, ds => (h, ds)
  | n + 1, h, ds => if ds.contains h then headOver n (h + 1) (ds.filter (· != h)) else (h, ds)

def trackAdvance (p : Nat) (s : State) : State :=
  let ds := tget [] s.track.doneOps p
  let (h, ds) := headOver ds.length (s.trackRing p).head ds
  let s := s.modTrackRing p fun r => { r with head := h }
  { s with track := { s.track with doneOps := tset [] s.track.doneOps p ds } }.setReg (Reg.trackHead p) (BitVec.ofNat 64 h.toNat)

/-- A ring set anew: what the sequencer had written into it stands outside it from then on (log 43), and an op of its earlier use that still waits for
its acknowledgement moves no head. -/
def ringForgets (p : Nat) (s : State) : State :=
  let s := s.mapPipes p fun x => { x with ops := x.ops.map fun o => (none, o.2) }
  { s with track := { s.track with bound := s.track.bound.map fun x => (x.1, { x.2 with held := x.2.held.map fun r =>
      { r with ring := r.ring.filter fun i => i.1 != p } }) } }

def trackRingWrite (fn : Fn) (p : Nat) (v : W64) (s : State) : State :=
  if !s.mayPart fn p then denied s fn (Reg.trackRing p)
  else
    let rise := nbit v.toNat 0 && !(s.trackRing p).en
    let s := if rise then ringForgets p s else s
    let s := (s.modTrackRing p (ringSet v false)).setReg (Reg.trackRing p) (v &&& ringMask)
    let s := if rise then { s with track := { s.track with doneOps := tset [] s.track.doneOps p [] } } else s
    s.setReg (Reg.trackHead p) (BitVec.ofNat 64 (s.trackRing p).head.toNat)

def trackDoorbell (fn : Fn) (p : Nat) (t : W32) (s : State) : State :=
  if !s.mayPart fn p then denied s fn (Reg.trackDb p)
  else if s.noBells || !tailOk (s.trackRing p) t then dropCmd s fn (Reg.trackDb p)
  else s.modTrackRing p fun r => { r with tail := t }

/-! ### Operation entries (R311) -/

def oOp (o : List Byte) : Nat := nbits (leAt o 0 1) 1 0
def oWaits (o : List Byte) : Bool := nbit (leAt o 1 1) 0
def oSignals (o : List Byte) : Bool := nbit (leAt o 1 1) 1
def oMiss (o : List Byte) : Bool := nbit (leAt o 1 1) 2
def oStream (o : List Byte) : Nat := nbits (leAt o 2 2) 9 0
def oWaitSem (o : List Byte) : Nat := nbits (leAt o 4 2) 13 0
def oSigSem (o : List Byte) : Nat := nbits (leAt o 6 2) 13 0
def oWaitVal (o : List Byte) : W32 := BitVec.ofNat 32 (leAt o 8 4)
def oSigVal (o : List Byte) : W32 := BitVec.ofNat 32 (leAt o 12 4)
/-- ARRIVAL, FRAME_SEQ and FRAME_FLAGS of a PREDICT. -/
def oArrival (o : List Byte) : W64 := BitVec.ofNat 64 (leAt o 16 8)
def oFrameSeq (o : List Byte) : W32 := BitVec.ofNat 32 (leAt o 24 4)
def oFrameFlags (o : List Byte) : Nat := leAt o 28 2
/-- PRED_ADDR or DET_ADDR. -/
def oList (o : List Byte) : Nat := nbits (leAt o 32 8) 39 6 * 64
def oEmbm (o : List Byte) : Nat := nbits (leAt o 40 8) 39 8 * 256
def oCount (o : List Byte) : Nat := nbits (leAt o 48 8) 39 2 * 4
def oCost (o : List Byte) : Nat := nbits (leAt o 40 8) 39 6 * 64
def oPitch (o : List Byte) : Nat := leAt o 48 4
def oPlane (o : List Byte) : Nat := leAt o 52 4
def oDemb (o : List Byte) : Nat := nbits (leAt o 56 8) 39 8 * 256

/-- A field of 64 bits has bits outside hi..lo. -/
def beyond (x hi lo : Nat) : Bool := nbits x (lo - 1) 0 != 0 && lo != 0 || nbits x 63 (hi + 1) != 0

/-- A reserved field of an op is set. -/
def opReserved (o : List Byte) : Bool :=
  nbits (leAt o 0 1) 7 2 != 0 || !(oOp o == 1 || oOp o == 2) || nbits (leAt o 1 1) 7 3 != 0 || nbits (leAt o 2 2) 15 10 != 0 ||
    nbits (leAt o 4 2) 15 14 != 0 || nbits (leAt o 6 2) 15 14 != 0 || !zeros o 30 31 || beyond (leAt o 32 8) 39 6 ||
    (if oOp o = 1 then oMiss o || beyond (leAt o 40 8) 39 8 || beyond (leAt o 48 8) 39 2 || !zeros o 56 63
     else !zeros o 16 29 || beyond (leAt o 40 8) 39 6 || beyond (leAt o 56 8) 39 8)

/-- An op is skipped (R313). -/
def opSkipped (s : State) (p : Nat) (o : List Byte) : Bool :=
  opReserved o || (match s.bound? (oStream o) with
    | none => true
    | some x => bPart x.par != p || (if oOp o = 1 then x.predicted else !x.predicted))

/-- Condition 3 of R312. -/
def metaRoom (x : Bound) : Bool :=
  !nbit (bMeta x.par) 0 || decide (1 + bMaxDet x.par + x.preds.length + dist32 x.pi x.ci ≤ 2 ^ bMetaLog x.par)

/-- The stream of an op has none in progress, and no command waits for it. -/
def streamIdle (s : State) (o : List Byte) : Bool :=
  (match s.bound? (oStream o) with
    | none => true
    | some x => x.held.isEmpty) && (match s.track.cmd with
    | some (h, _) => h != oStream o
    | none => true)

/-- Conditions 1 (as far as ops in progress go) and 2 of R312. -/
def opReady (s : State) (o : List Byte) : Bool := streamIdle s o && (!oWaits o || semOk s (oWaitSem o) (oWaitVal o))

/-- Condition 3, which binds only an ASSOCIATE that is not skipped. -/
def opRoom (s : State) (p : Nat) (o : List Byte) : Bool :=
  oOp o != 2 || opSkipped s p o || (match s.bound? (oStream o) with
    | some x => metaRoom x
    | none => true)

/-- The op that the sequencer has written at an index of a partition's ring. -/
def pipeOpAt (s : State) (p : Nat) (i : W32) : Option (List Byte) :=
  (s.pipesOf p).findSome? fun k => (k.2.ops.find? fun o => o.1 == some i).map (·.2)

/-- The first 64 ops of a ring that have not completed, oldest first. -/
def ringOps (s : State) (p : Nat) : List (W32 × List Byte) :=
  let r := s.trackRing p
  let ds := tget [] s.track.doneOps p
  if !r.en then []
  else
    let n := dist32 r.tail r.head
    (((List.range n).map fun k => r.head + BitVec.ofNat 32 k).filter fun i => !ds.contains i).take 64 |>.map fun i =>
      (i, (pipeOpAt s p i).getD (mread s.mem (r.base + i.toNat % 2 ^ r.log * 64) 64))

/-- Where an op of a partition stands: with a pipeline outside the ring, or at an index of the ring. -/
inductive OpFrom where
  | pipe (k : Nat)
  | ring (i : W32)
deriving DecidableEq, Repr

/-- The oldest op of each pipeline of a partition that stands outside the ring. -/
def trackPipes (s : State) (p : Nat) : List (OpFrom × List Byte) :=
  (s.pipesOf p).filterMap fun k => match k.2.ops with
    | (none, o) :: _ => some (.pipe k.1, o)
    | _ => none

/-- All ops that the tracker considers for a partition: those outside its ring, then the ring's. -/
def partOps (s : State) (p : Nat) : List (OpFrom × List Byte) := trackPipes s p ++ (ringOps s p).map fun x => (.ring x.1, x.2)

/-- The oldest op of each stream. -/
def firstOps : List (OpFrom × List Byte) → List Nat → List (OpFrom × List Byte)
  | [], _ => []
  | x :: xs, seen => if seen.contains (oStream x.2) then firstOps xs seen else x :: firstOps xs (oStream x.2 :: seen)

/-- The op that a partition starts next: the oldest that meets conditions 1 to 3. -/
def nextOp (s : State) (p : Nat) : Option (OpFrom × List Byte) := (firstOps (partOps s p) []).find? fun x => opReady s x.2 && opRoom s p x.2

/-- The streams whose next op waits for metadata space alone. -/
def roomless (s : State) (p : Nat) : List Nat :=
  ((firstOps (partOps s p) []).filter fun x => opReady s x.2 && !opRoom s p x.2).map fun x => oStream x.2

/-- An op leaves its place, and the pipeline that has written it. -/
def opTaken (p : Nat) (src : OpFrom) (s : State) : State :=
  let s := { s with track := { s.track with last := p } }
  match src with
  | .pipe k => (match tfind s.pipes k with
    | some x => { s with pipes := tput s.pipes k { x with ops := x.ops.drop 1 } }
    | none => s)
  | .ring i => s.mapPipes p fun x => { x with ops := x.ops.filter fun o => o.1 != some i }

/-- An op has completed. -/
def opDone (p : Nat) (src : OpFrom) (s : State) : State :=
  match src with
  | .pipe _ => s
  | .ring i => trackAdvance p { s with track := { s.track with doneOps := tmod [] s.track.doneOps p (i :: ·) } }

def opSignal (o : List Byte) (s : State) : State := if oSignals o then semUpdate s (oSigSem o) false (oSigVal o) else s

/-- An op is skipped: its signal is applied, and it is counted. -/
def skipOp (p : Nat) (src : OpFrom) (o : List Byte) (s : State) : State :=
  let foreign := match s.bound? (oStream o) with
    | some x => bPart x.par != p
    | none => false
  let s := if foreign && !opReserved o then viol s (Reg.trackRing p) 4 p else s
  let s := if foreign then s else metaWaitEnd (oStream o) s
  opDone p src (opSignal o (tcount (oStream o) 28 1 (opTaken p src s)))

/-! ### The filter's prediction (R314) -/

/-- A dimension's position, velocity and covariance. -/
structure Dim where
  p : FVal
  v : FVal
  a : FVal
  b : FVal
  c : FVal
deriving DecidableEq, Repr

/-- FP16 fields of an image as dimensions: cx, cy, w, h. -/
def dimsOf (img : List Byte) : List Dim :=
  let f := fun i => fdecode ffFP16 (leAt img (2 * i) 2)
  (List.range 4).map fun d => ⟨f d, f (4 + d), f (8 + 3 * d), f (9 + 3 * d), f (10 + 3 * d)⟩

/-- STATE and COV as FP16 under SAT_MODE 0. -/
def dimBytes (ds : List Dim) : List Byte :=
  let h := fun (x : FVal) => leBytes 2 (convertOut .fp16 0 x).1
  ds.flatMap (fun d => h d.p) ++ ds.flatMap (fun d => h d.v) ++ ds.flatMap fun d => h d.a ++ h d.b ++ h d.c

def one32 : FVal := FVal.ofInt 1
def two32 : FVal := FVal.ofInt 2

/-- dt in seconds. -/
def dtOf (par : List Byte) (last : Option W64) (now : W64) : FVal :=
  match last with
  | none => FVal.zero
  | some t =>
    let d := min (now.toNat - t.toNat) (bDtMax par * 1000)
    mul32 (r32 (FVal.ofInt d)) (div32 one32 (FVal.ofInt 1000000000))

/-- One dimension is predicted: q scales with QP or QS, w and h are clamped. -/
def predictDim (dt h k : FVal) (size : Bool) (d : Dim) : Dim :=
  let t := mul32 k h
  let q := mul32 t t
  let dt2 := mul32 dt dt
  let dt3 := mul32 dt2 dt
  let dt4 := mul32 dt3 dt
  let p := add32 d.p (mul32 d.v dt)
  { p := if size then fmax p one32 else p
    v := d.v
    a := add32 (add32 (add32 d.a (mul32 (mul32 two32 d.b) dt)) (mul32 d.c dt2)) (div32 (mul32 q dt4) (FVal.ofInt 4))
    b := add32 (add32 d.b (mul32 d.c dt)) (div32 (mul32 q dt3) two32)
    c := add32 d.c (mul32 q dt2) }

def predictDims (par : List Byte) (dt : FVal) (ds : List Dim) : List Dim :=
  let h := match ds[3]? with
    | some d => fmax d.p one32
    | none => one32
  ds.zipIdx.map fun (d, i) => predictDim dt h (bF par (if i < 2 then 44 else 48)) (decide (2 ≤ i)) d

/-- FP32 patterns of dimensions, as a predicted track keeps them. -/
def packDims (i : Nat) (ds : List Dim) : Pred :=
  let n := fun (x : FVal) => BitVec.ofNat 32 (p32 x)
  ⟨i, ds.map (fun d => n d.p) ++ ds.map (fun d => n d.v), ds.flatMap fun d => [n d.a, n d.b, n d.c]⟩

def Pred.dims (x : Pred) : List Dim :=
  let f := fun (l : List W32) i => f32 (l.getD i 0).toNat
  (List.range 4).map fun d => ⟨f x.st d, f x.st (4 + d), f x.cov (3 * d), f x.cov (3 * d + 1), f x.cov (3 * d + 2)⟩

/-- X1, Y1, X2 and Y2 of positions cx, cy, w, h. -/
def boxOf (ds : List Dim) : List FVal :=
  let p := fun i => match ds[i]? with
    | some d => d.p
    | none => FVal.zero
  let hw := div32 (p 2) two32
  let hh := div32 (p 3) two32
  [sub32 (p 0) hw, sub32 (p 1) hh, add32 (p 0) hw, add32 (p 1) hh]

/-- The prediction record of a track (R315). -/
def predRecord (i : Nat) (img : List Byte) (ds : List Dim) : List Byte :=
  (boxOf ds).flatMap (fun x => leBytes 4 (p32 x)) ++ leBytes 4 (p32 (div32 (FVal.ofInt (leAt img 56 2)) (FVal.ofInt 65535))) ++
    leBytes 4 (p32 (FVal.ofInt (leAt img 44 2))) ++ leBytes 4 i ++ leBytes 4 (nbits (leAt img lifeAt 1) 1 0)

/-- A context that reads as uncorrectable is freed without a record, and logged with source 0x08 (R433). -/
def dropDirty (h : Nat) (s : State) : State :=
  (s.ctxsOf h).foldl (fun s i =>
    match s.markIn (ctxAddr i) 64 with
    | some k => (freeCtx i (errUncorrectable s k)).modBound h fun x => { x with gone := x.gone ++ [i] }
    | none => s) s

/-- One track is predicted: stored, recorded at column n, and its embedding copied. A poisoned slot is logged, and its row of the matrix is not
written (R322; DESIGN CHOICE, log 43). -/
def predictOne (o : List Byte) (x : Bound) (dt : FVal) (n i : Nat) (s : State) : State × Pred :=
  let (s, img, _) := devRead .mantel s (ctxAddr i) 64
  let ds := predictDims x.par dt (dimsOf img)
  let img' := splice (splice img 0 (dimBytes ds)) lifeAt (leBytes 1 (leAt img lifeAt 1 % 4 + 4))
  let s := engWrite (putCtx i img' s) (oList o + 32 * n) (predRecord i img ds)
  let s := if bEmbFmt x.par = 0 then s
    else
      let (s, e, k) := engRead s (leAt img 52 4 * 256) (embBytes x.par)
      match k with
      | some k => reportUnnamed s 0x08 1 k (k / 2 ^ 32) 0
      | none => engWrite s (oEmbm o + 256 * n) e
  (s, packDims i ds)

def predictAll (o : List Byte) (x : Bound) (dt : FVal) : Nat → List Nat → State → State × List Pred
  | _, [], s => (s, [])
  | n, i :: is, s =>
    let (s, p) := predictOne o x dt n i s
    let (s, ps) := predictAll o x dt (n + 1) is s
    (s, p :: ps)

/-- A PREDICT op that is not skipped. -/
def runPredict (o : List Byte) (s : State) : State :=
  let h := oStream o
  match s.bound? h with
  | none => s
  | some x =>
    let s := dropDirty h s
    let (s, ps) := predictAll o x (dtOf x.par x.last (oArrival o)) 0 (s.ctxsOf h) s
    let s := engWrite s (oCount o) (leBytes 4 ps.length)
    s.modBound h fun x => { x with predicted := true, last := some (oArrival o), arrival := oArrival o, frameSeq := oFrameSeq o,
                                   frameFlags := oFrameFlags o, preds := ps }

/-! ### Detections and costs (R316, R317) -/

/-- A detection: its number, class, confidence, box after the class offset, and whether it is valid. -/
structure Det where
  m : Nat
  cls : Nat
  conf : FVal
  box : List FVal
  ok : Bool
deriving DecidableEq, Repr

def detOf (par : List Byte) (m : Nat) (r : List Byte) : Det :=
  let w := fun i => f32 (leAt r (4 * i) 4)
  let cls := (toIntSat 0 65535 (w 6)).toNat
  let off := mul32 (FVal.ofInt cls) (bXoff par)
  let x1 := sub32 (w 2) off
  let x2 := sub32 (w 4) off
  let fin := (w 0).isFin && (w 2).isFin && (w 3).isFin && (w 4).isFin && (w 5).isFin && (w 6).isFin
  ⟨m, cls, w 0, [x1, w 3, x2, w 5], fin && flt x1 x2 && flt (w 3) (w 5)⟩

/-- Records from index m up to the first end marker, at most `n` of them; whether a marker was met; the first poisoned granule. -/
def readDets (par : List Byte) (a : Nat) : Nat → Nat → State → State × List Det × Bool × Option Nat
  | 0, _, s => (s, [], false, none)
  | n + 1, m, s =>
    let (s, r, k) := engRead s (a + 32 * m) 32
    match k with
    | some k => (s, [], true, some k)
    | none =>
      if leAt r 4 4 = 0xFFFFFFFF then (s, [], true, none)
      else
        let (s, ds, mark, k) := readDets par a n (m + 1) s
        (s, detOf par m r :: ds, mark, k)

/-- Address and value of a cost. -/
def costAddr (o : List Byte) (q m n : Nat) : Nat := oCost o + q * oPlane o + m * oPitch o + 2 * n
def costAt (s : State) (o : List Byte) (q m n : Nat) : FVal := fdecode ffFP16 (mnat s.mem (costAddr o q m n) 2)

/-- COST_PITCH is too small, or the planes overlap. -/
def costShapeBad (o : List Byte) (dets cols : Nat) : Bool :=
  decide (oPitch o < 2 * cols) || (decide (0 < dets) && decide (0 < cols) && decide (oPlane o < (dets - 1) * oPitch o + 2 * cols))

/-- An admissible entry: cost, detection, column. -/
structure Entry where
  cost : FVal
  m : Nat
  n : Nat
deriving DecidableEq, Repr

/-- A list in the order of a relation, by insertion. -/
def insertBy {α : Type} (le : α → α → Bool) (x : α) : List α → List α
  | [] => [x]
  | y :: ys => if le x y then x :: y :: ys else y :: insertBy le x ys
def sortBy {α : Type} (le : α → α → Bool) : List α → List α
  | [] => []
  | x :: xs => insertBy le x (sortBy le xs)

/-- Order by (cost, m, n). -/
def Entry.le (x y : Entry) : Bool :=
  if flt x.cost y.cost then true else if flt y.cost x.cost then false else decide (x.m < y.m) || (x.m == y.m && decide (x.n ≤ y.n))

/-- The admissible entries of a stage in order. -/
def stageEntries (s : State) (o : List Byte) (q : Nat) (gate : FVal) (rows cols : List Nat) : List Entry :=
  ((rows.flatMap fun m => cols.map fun n => (⟨costAt s o q m n, m, n⟩ : Entry)).filter fun e => flt e.cost gate) |> sortBy Entry.le

/-- The first poisoned granule that a stage reads. -/
def stageDirty (s : State) (o : List Byte) (q : Nat) (rows cols : List Nat) : Option Nat :=
  rows.findSome? fun m => cols.findSome? fun n => s.badIn (costAddr o q m n) 2

/-- Greedy walk: pairs (m, n) accepted in order. -/
def greedy : List Entry → List (Nat × Nat) → List (Nat × Nat)
  | [], acc => acc
  | e :: es, acc => if acc.any fun p => p.1 == e.m || p.2 == e.n then greedy es acc else greedy es (acc ++ [(e.m, e.n)])

/-- A stage's reads of the cost tensor are counted. -/
def countStage (o : List Byte) (q : Nat) (rows : List Nat) (cols : List Nat) (s : State) : State :=
  if cols.isEmpty then s
  else rows.foldl (fun s m => (countAccess .mantel false s (costAddr o q m 0) (2 * cols.length)).lostTaken false (costAddr o q m 0) (2 * cols.length)) s

/-- What the two stages find: matches (detection, column, stage 2), stages that discarded entries, and the first poisoned granule. -/
structure Matching where
  pairs : List (Nat × Nat × Bool) := []
  overflow : Nat := 0
  dirty : Option Nat := none
deriving DecidableEq, Repr

/-- Rows and columns of the stages (R318). -/
def stageRows (x : Bound) (dets : List Det) (stage : Nat) : List Nat :=
  (dets.filter fun d => d.ok && (if stage = 1 then fle (bHigh x.par) d.conf else fle (bLow x.par) d.conf && flt d.conf (bHigh x.par))).map (·.m)

def associateStages (s : State) (o : List Byte) (x : Bound) (dets : List Det) : Matching :=
  let cols := (List.range x.preds.length).filter fun n => match x.preds[n]? with
    | some t => leAt (s.ctx t.ctx) lifeAt 1 % 4 != 0
    | none => false
  let rows1 := stageRows x dets 1
  match stageDirty s o 0 rows1 cols with
  | some k => { dirty := some k }
  | none =>
    let e1 := stageEntries s o 0 (bGate x.par 1) rows1 cols
    let p1 := greedy (e1.take 65536) []
    let young := fun n => match x.preds[n]? with
      | some t => let l := leAt (s.ctx t.ctx) lifeAt 1 % 4; l == 1 || l == 2
      | none => false
    let cols2 := cols.filter fun n => young n && !(p1.any fun p => p.2 == n)
    let rows2 := stageRows x dets 2
    match stageDirty s o 1 rows2 cols2 with
    | some k => { dirty := some k }
    | none =>
      let e2 := stageEntries s o 1 (bGate x.par 2) rows2 cols2
      let p2 := greedy (e2.take 65536) []
      { pairs := p1.map (fun p => (p.1, p.2, false)) ++ p2.map fun p => (p.1, p.2, true)
        overflow := (decide (65536 < e1.length)).toNat + (decide (65536 < e2.length)).toNat }

/-! ### Updates (R319) -/

/-- Box centre and size of a detection. -/
def measure (box : List FVal) : List FVal :=
  let b := fun i => box.getD i FVal.zero
  [div32 (add32 (b 0) (b 2)) two32, div32 (add32 (b 1) (b 3)) two32, sub32 (b 2) (b 0), sub32 (b 3) (b 1)]

def updateDim (rm h z : FVal) (size : Bool) (d : Dim) : Dim :=
  let t := mul32 rm h
  let r := mul32 t t
  let s := add32 d.a r
  let k1 := if s.isZero then FVal.zero else div32 d.a s
  let k2 := if s.isZero then FVal.zero else div32 d.b s
  let y := sub32 z d.p
  let p := add32 d.p (mul32 k1 y)
  { p := if size then fmax p one32 else p
    v := add32 d.v (mul32 k2 y)
    c := fmax FVal.zero (sub32 d.c (mul32 k2 d.b))
    b := mul32 (sub32 one32 k1) d.b
    a := fmax FVal.zero (mul32 (sub32 one32 k1) d.a) }

def updateDims (par : List Byte) (box : List FVal) (ds : List Dim) : List Dim :=
  let z := measure box
  let h := match ds[3]? with
    | some d => d.p
    | none => one32
  ds.zipIdx.map fun (d, i) => updateDim (bF par 52) h (z.getD i FVal.zero) (decide (2 ≤ i)) d

/-- The state of a newborn track. -/
def birthDims (par : List Byte) (box : List FVal) : List Dim :=
  let z := measure box
  let h := z.getD 3 FVal.zero
  let a := mul32 (bF par 56) h
  let c := mul32 (bF par 60) h
  z.map fun p => ⟨p, FVal.zero, mul32 a a, FVal.zero, mul32 c c⟩

/-! ### Records (R325 to R327) -/

/-- A u16 confidence. -/
def conf16 (x : FVal) : Nat := (toIntSat 0 65535 (fmul x (FVal.ofInt 65535))).toNat
/-- Quarter pixels, unsigned and signed. -/
def quarter (x : FVal) : Nat := (toIntSat 0 65535 (fmul x (FVal.ofInt 4))).toNat
def quarterS (x : FVal) : Nat := toPat 16 (toIntSat (-32768) 32767 (fmul x (FVal.ofInt 4)))

/-- The object record of a track, from its context image after the frame. -/
def objRecord (img : List Byte) (ctx : Nat) (st cls conf : Nat) (box : List FVal) (vx vy : FVal) (m : Option Nat) : List Byte :=
  leBytes 1 2 ++ leBytes 1 st ++ leBytes 2 cls ++ leBytes 4 (leAt img 40 4) ++ leBytes 2 conf ++ ((List.range 4).flatMap fun i =>
    leBytes 2 (quarter (box.getD i FVal.zero))) ++ leBytes 2 (quarterS vx) ++ leBytes 2 (quarterS vy) ++ leBytes 2 (leAt img 46 2) ++
    leBytes 1 (leAt img 48 1) ++ leBytes 1 (leAt img 49 1) ++ leBytes 2 (m.getD 0xFFFF) ++ leBytes 4 ctx

/-! ### Embeddings (R322) -/

/-- A detection's embedding is copied into a slot; a poisoned read leaves the slot unchanged. -/
def copyEmb (o : List Byte) (par : List Byte) (m slot : Nat) (s : State) : State :=
  let (s, e, k) := engRead s (oDemb o + 256 * m) (embBytes par)
  match k with
  | some k => reportUnnamed s 0x08 1 k (k / 2 ^ 32) 0
  | none => engWrite s slot e

/-- The moving average of a slot and a detection's embedding. -/
def emaEmb (o : List Byte) (par : List Byte) (m slot : Nat) (s : State) : State :=
  let n := embBytes par
  let (s, e, k) := engRead s (oDemb o + 256 * m) n
  let (s, old, k') := engRead s slot n
  match k, k' with
  | none, none =>
    let a := bAlpha par
    let f := fun (l : List Byte) i => fdecode ffFP16 (leAt l (2 * i) 2)
    engWrite s slot ((List.range (bEmbDim par)).flatMap fun i =>
      leBytes 2 (convertOut .fp16 0 (add32 (mul32 a (f old i)) (mul32 (sub32 one32 a) (f e i)))).1)
  | some k, _ => reportUnnamed s 0x08 1 k (k / 2 ^ 32) 0
  | none, some k => reportUnnamed s 0x08 1 k (k / 2 ^ 32) 0

/-- The embedding of a matched track. -/
def matchEmb (o : List Byte) (x : Bound) (ctx m : Nat) (s : State) : State :=
  if bEmbFmt x.par = 0 then s
  else
    let slot := leAt (s.ctx ctx) 52 4 * 256
    if x.fresh.contains ctx || bEmbUpdate x.par = 1 then copyEmb o x.par m slot s
    else if bEmbUpdate x.par = 2 then emaEmb o x.par m slot s else s

/-- The lowest slot of a stream's embedding area that no live context of it points to. -/
def freeSlot (s : State) (h : Nat) (par : List Byte) : Nat :=
  let used := (s.ctxsOf h).map fun i => (leAt (s.ctx i) 52 4 * 256 - bEmbBase par) / 256
  lowestFree (sortBy (fun a b => decide (a ≤ b)) used) 0

/-! ### The lifecycle (R320, R321) -/

/-- What a frame gathers: object records by context, contexts changed, and counts. -/
structure Gather where
  objs : List (Nat × List Byte) := []
  changed : List Nat := []
  freed : Nat := 0
  births : Nat := 0
  refused : Nat := 0
  born : List Nat := []
deriving DecidableEq, Repr

/-- A predicted track that was matched. -/
def trackMatched (o : List Byte) (x : Bound) (t : Pred) (d : Det) (stage2 : Bool) (a : State × Gather) : State × Gather :=
  let (s, g) := a
  let i := t.ctx
  let img := s.ctx i
  let life := leAt img lifeAt 1 % 4
  let hits := min (leAt img 49 1 + 1) 255
  let life' := if life = 1 then (if bConfirm x.par ≤ hits then 2 else 1) else 2
  let misses := if life = 1 then leAt img 48 1 else 0
  let ds := updateDims x.par d.box t.dims
  let img := splice (splice img 0 (dimBytes ds)) 46 (leBytes 2 (min (leAt img 46 2 + 1) 65535) ++ leBytes 1 misses ++ leBytes 1 hits)
  let img := splice (splice img 56 (leBytes 2 (conf16 d.conf) ++ leBytes 4 x.frameSeq.toNat)) lifeAt (leBytes 1 life')
  let s := matchEmb o x i d.m (putCtx i img s)
  let v := fun k => match ds[k]? with
    | some (e : Dim) => e.v
    | none => FVal.zero
  let r := objRecord img i (life' + 4 + if stage2 then 8 else 0) (leAt img 44 2) (conf16 d.conf) (boxOf ds) (v 0) (v 1) (some d.m)
  (s, { g with objs := if life' = 2 || bEmit x.par 4 then g.objs ++ [(i, r)] else g.objs, changed := g.changed ++ [i] })

/-- A predicted track that was not matched. -/
def trackMissed (x : Bound) (t : Pred) (a : State × Gather) : State × Gather :=
  let (s, g) := a
  let i := t.ctx
  let img := s.ctx i
  let life := leAt img lifeAt 1 % 4
  let misses := if life = 2 then 1 else leAt img 48 1 + 1
  let gone := life == 1 || (life == 3 && decide (bMaxMiss x.par < misses))
  if gone then (freeCtx i s, { g with freed := g.freed + 1, changed := g.changed ++ [i] })
  else
    let img := splice (splice img 46 (leBytes 2 (min (leAt img 46 2 + 1) 65535) ++ leBytes 1 misses)) lifeAt (leBytes 1 3)
    let v := fun k => match t.dims[k]? with
      | some (e : Dim) => e.v
      | none => FVal.zero
    let r := objRecord img i 3 (leAt img 44 2) (leAt img 56 2) (boxOf t.dims) (v 0) (v 1) none
    (putCtx i img s, { g with objs := if bEmit x.par 5 then g.objs ++ [(i, r)] else g.objs, changed := g.changed ++ [i] })

/-- Every track that was live when the op began. -/
def trackStep (o : List Byte) (x : Bound) (dets : List Det) (pairs : List (Nat × Nat × Bool)) (a : State × Gather) (nt : Pred × Nat) : State × Gather :=
  match pairs.find? fun p => p.2.1 == nt.2 with
  | some (m, _, s2) =>
    (match dets.find? fun d => d.m == m with
      | some d => trackMatched o x nt.1 d s2 a
      | none => trackMissed x nt.1 a)
  | none => trackMissed x nt.1 a

/-- The id after an id, skipping 0. -/
def idAfter (i : W32) : W32 := if i + 1 = 0 then 1 else i + 1

/-- A birth, or its refusal. -/
def birth (o : List Byte) (h : Nat) (x : Bound) (a : State × Gather) (d : Det) : State × Gather :=
  let (s, g) := a
  match s.bound? h with
  | none => a
  | some y =>
    if bMaxTracks x.par ≤ (s.ctxsOf h).length then (s, { g with refused := g.refused + 1 })
    else
      let i := lowestFree s.liveCtxs 0
      let slot := if bEmbFmt x.par = 0 then 0 else bEmbBase x.par + 256 * freeSlot s h x.par
      let life := if bConfirm x.par = 1 then 2 else 1
      let img := dimBytes (birthDims x.par d.box) ++ leBytes 4 y.nextId.toNat ++ leBytes 2 d.cls ++ leBytes 2 0 ++ leBytes 1 0 ++ leBytes 1 1 ++
        leBytes 2 h ++ leBytes 4 (slot / 256) ++ leBytes 2 (conf16 d.conf) ++ leBytes 4 x.frameSeq.toNat ++ leBytes 1 life ++ leBytes 1 0
      let s := (putCtx i img s).modBound h fun y => { y with nextId := idAfter y.nextId }
      let s := if bEmbFmt x.par = 0 then s else copyEmb o x.par d.m slot s
      let r := objRecord img i (life + 16) d.cls (conf16 d.conf) d.box FVal.zero FVal.zero (some d.m)
      (s, { g with objs := if life = 2 || bEmit x.par 4 then g.objs ++ [(i, r)] else g.objs, changed := g.changed ++ [i], births := g.births + 1,
                   born := g.born ++ [d.m] })

/-- The record of an untracked detection. -/
def untracked (d : Det) : List Byte := objRecord [] 0xFFFFFFFF 0 d.cls (conf16 d.conf) d.box FVal.zero FVal.zero (some d.m)

/-! ### Release (R324) -/

/-- The producer index is written, then the status block, then the signal, and the op completes. -/
def trackRelease (h : Nat) (r : Release) (s : State) : State :=
  match s.bound? h with
  | none => s
  | some x =>
    let s := if nbit (bMeta x.par) 0 then spaceWrite s (nbit (bMeta x.par) 1) (bMetaPi x.par) (leBytes 4 r.pi.toNat) else s
    let s := s.modBound h fun x => { x with out := r.pi, held := x.held.filter fun q => q != r }
    let s := trackStat h s
    let s := match r.sig with
      | some (n, v) => semUpdate s n false v
      | none => s
    let s := match r.ring with
      | some (p, i) => opDone p (.ring i) s
      | none => s
    trackCmdStep s

/-- Records at the ring's producer index, in order. -/
def putRecords (h : Nat) : List (List Byte) → State → State
  | [], s => s
  | r :: rs, s =>
    match s.bound? h with
    | none => s
    | some x =>
      let m := bMeta x.par
      let s := if nbit m 0 then spaceWrite s (nbit m 1) (nbits m 63 12 * 4096 + x.pi.toNat % 2 ^ bMetaLog x.par * 32) r else s
      putRecords h rs (s.modBound h fun x => if nbit m 0 then { x with pi := x.pi + 1 } else x)

/-- The frame record (R325). -/
def frameRecord (h : Nat) (x : Bound) (objs dets births freed live flags : Nat) : List Byte :=
  leBytes 1 1 ++ leBytes 1 0 ++ leBytes 2 h ++ leBytes 4 x.frameSeq.toNat ++ leBytes 8 x.arrival.toNat ++ leBytes 2 objs ++ leBytes 2 dets ++
    leBytes 2 births ++ leBytes 2 freed ++ leBytes 4 x.metaSeq.toNat ++ leBytes 2 live ++ leBytes 2 flags

/-- Byte index of a mirrored frame's end. -/
def frameEndOf (s : State) (h : Nat) (num : W32) : W32 :=
  match s.stream? h with
  | some y => (match y.dec.ends.find? fun e => e.1 == num with
    | some e => e.2
    | none => y.dec.pos)
  | none => 0

/-- The stream is mirrored by this primary. -/
def mirroredNow (s : State) (h : Nat) : Bool := s.primary && match s.stream? h with
  | some y => y.dec.mirrored && y.kind == .decode
  | none => false

/-- The frame's metadata leaves: mirrored and held for its ACKF, or released at once. -/
def sendOff (h p : Nat) (src : OpFrom) (o : List Byte) (changed : List Nat) (s : State) : State :=
  match s.bound? h with
  | none => s
  | some x =>
    let seq := x.metaSeq - 1
    let r : Release := { ring := match src with
                           | .ring i => some (p, i)
                           | .pipe _ => none
                         metaSeq := seq, num := x.frameSeq, pi := x.pi, sig := if oSignals o then some (oSigSem o, oSigVal o) else none }
    let s := s.modBound h fun x => { x with held := x.held ++ [r] }
    if mirroredNow s h then
      let s := changed.foldl (fun s i => sendTrack h i (s.ctx i) s) s
      sendCommit h x.frameSeq seq x.nextId (frameEndOf s h x.frameSeq) x.arrival s
    else trackRelease h r s

/-! ### ASSOCIATE (R318 to R328) -/

/-- An ASSOCIATE op that is not skipped. -/
def runAssociate (p : Nat) (src : OpFrom) (o : List Byte) (s : State) : State :=
  let h := oStream o
  match s.bound? h with
  | none => s
  | some x =>
    let s := dropDirty h s
    let miss := oMiss o
    let (s, dets, marked, dirty) := if miss then (s, [], true, none) else readDets x.par (oList o) (bMaxDet x.par) 0 s
    let badShape := !miss && costShapeBad o dets.length x.preds.length
    let mt := if miss || dirty.isSome || badShape then {} else associateStages s o x dets
    let unread := miss || badShape || dirty.isSome
    let dirty := match dirty with
      | some k => some k
      | none => mt.dirty
    let fault := badShape || dirty.isSome
    let s := if unread then s
      else countStage o 1 (stageRows x dets 2) (List.range x.preds.length) (countStage o 0 (stageRows x dets 1) (List.range x.preds.length) s)
    let s := if fault then reportUnnamed s 0x08 2 (dirty.getD 0) (dirty.getD 0 / 2 ^ 32) h else s
    let dets := if fault then [] else dets
    let (s, g) := (x.preds.zipIdx.filter fun t => leAt (s.ctx t.1.ctx) lifeAt 1 % 4 != 0).foldl (trackStep o x dets mt.pairs) (s, {})
    let left := dets.filter fun d => d.ok && !(mt.pairs.any fun q => q.1 == d.m)
    let (s, g) := (left.filter fun d => fle (bBirth x.par) d.conf).foldl (birth o h x) (s, g)
    let stray := if bEmit x.par 6 then (left.filter fun d => !g.born.contains d.m).map untracked else []
    let objs := (sortBy (fun a b => decide (a.1 ≤ b.1)) g.objs).map (·.2) ++ stray
    let live := (s.ctxsOf h).length
    let flags := x.frameFlags % 8 + (if 0 < g.refused then 8 else 0) + (if marked then 0 else 16) + (if fault then 32 else 0) +
      (if miss || fault then 64 else 0) + (if x.resumed then 128 else 0)
    let rec' := frameRecord h x objs.length dets.length g.births g.freed live flags
    let s := putRecords h (rec' :: objs) s
    let s := s.modBound h fun y => { y with
      predicted := false, preds := [], metaSeq := y.metaSeq + 1, resumed := false
      fresh := y.fresh.filter fun i => !(mt.pairs.any fun q => match x.preds[q.2.1]? with
        | some t => t.ctx == i
        | none => false) }
    let s := tcount h 0 1 (tcount h 4 (mt.pairs.filter fun q => !q.2.2).length (tcount h 8 (mt.pairs.filter fun q => q.2.2).length s))
    let s := tcount h 12 g.births (tcount h 16 g.refused (tcount h 20 g.freed (tcount h 24 mt.overflow s)))
    let s := tcount h 32 fault.toNat (tcount h 36 (dets.filter fun d => !d.ok).length s)
    let gone := ((s.bound? h).map (·.gone)).getD []
    sendOff h p src o (g.changed ++ gone.filter fun i => !g.changed.contains i) (s.modBound h fun y => { y with gone := [] })

/-! ### Events and register writes -/

/-- A metadata-space wait begins to be counted. -/
def metaWait (h : Nat) (s : State) : State := s.modBound h fun x => { x with waitAt := some (x.waitAt.getD s.clock.timeF) }
/-- Every wait for metadata space of a partition's ops is being counted. -/
def metaWaits (p : Nat) (s : State) : State := (roomless s p).foldl (fun s h => metaWait h s) s
/-- The tracker starts a partition's next op, in round-robin order, when it is of the kind asked for. -/
def trackOp (p op : Nat) (s : State) : State :=
  if nextInTurn s.track.last ((List.range 16).filter fun p => (nextOp s p).isSome) != some p then metaWaits p s
  else
    match nextOp s p with
    | none => s
    | some (src, o) =>
      if (oOp o == 2) != (op == 2) then s
      else if opSkipped s p o then skipOp p src o s
      else if op = 2 then runAssociate p src o (metaWaitEnd (oStream o) (opTaken p src s))
      else opDone p src (opSignal o (runPredict o (opTaken p src s)))

/-- A write of TRACK_MDB: slots are returned. -/
def trackMdb (fn : Fn) (h : Nat) (ci : W32) (s : State) : State :=
  match s.bound? h with
  | none => if s.outside fn then denied s fn (Reg.trackMdb h) else dropCmd s fn (Reg.trackMdb h)
  | some x =>
    if !s.mayPart fn (bPart x.par) then denied s fn (Reg.trackMdb h)
    else if s.noBells || !ahead32 ci x.ci || decide (dist32 x.out x.ci < dist32 ci x.ci) then dropCmd s fn (Reg.trackMdb h)
    else s.modBound h fun x => { x with ci := ci }

/-! ### Meanings -/

/-- BIND (R308). -/
def execBind (fn : Fn) (h : Fin 1024) (s : State) : Out := live s (orRecord (.bind fn h) (trackBind fn h.val))
/-- UNBIND (R309). -/
def execUnbind (fn : Fn) (h : Fin 1024) (s : State) : Out := live s (orRecord (.unbind fn h) (trackDrop fn h.val true))
/-- CLEAR (R309). -/
def execClear (fn : Fn) (h : Fin 1024) (s : State) : Out := live s (orRecord (.clear fn h) (trackDrop fn h.val false))
/-- TRACK_RING_WRITE (R310). -/
def execTrackRingWrite (fn : Fn) (p : Fin 16) (value : W64) (s : State) : Out :=
  live s (orRecord (.trackRingWrite fn p value) (trackRingWrite fn p.val value))
/-- TRACK_DOORBELL (R310). -/
def execTrackDoorbell (fn : Fn) (p : Fin 16) (tail : W32) (s : State) : Out :=
  live s (orRecord (.trackDoorbell fn p tail) (trackDoorbell fn p.val tail))
/-- PREDICT (R314, R315). -/
def execPredict (p : Fin 16) (s : State) : Out := running s (trackOp p.val 1)
/-- ASSOCIATE (R318). -/
def execAssociate (p : Fin 16) (s : State) : Out := running s (trackOp p.val 2)
/-- TRACK_MDB (R324). -/
def execTrackMdb (fn : Fn) (h : Fin 1024) (consumed : W32) (s : State) : Out :=
  live s (orRecord (.trackMdb fn h consumed) (trackMdb fn h.val consumed))

end Sys2Proof.Machine
end

