-- ==== Sys2Proof/Machine/Pipe.lean ====
section
/-!
DEFINITION. Autonomous pipelines (R329 to R332): the sequencer that carries a camera frame through the shaper, the tracker and the model
image's queue.
-/
namespace Sys2Proof.Machine

/-! ### Pipeline records (R329) -/

def plEn (p : List Byte) : Bool := nbit (leAt p 0 1) 0
def plSensor (p : List Byte) : Nat := nbits (leAt p 1 1) 3 0
def plPart (p : List Byte) : Nat := nbits (leAt p 2 1) 3 0
def plQueue (p : List Byte) : Nat := leAt p 4 2
def plChain (p : List Byte) : Nat := leAt p 6 2
def plSem (p : List Byte) : Nat := leAt p 8 2
def plTimeout (p : List Byte) : Nat := leAt p 12 4
def plRegion (p : List Byte) : List Byte := (p.drop 16).take 64
def plAddrs (p : List Byte) : List Byte := (p.drop 80).take 56
def plBind (p : List Byte) : List Byte := (p.drop 136).take 128
def plHandle (p : List Byte) : Nat := bStream (plBind p)
def plRes (p : List Byte) : List Byte := (p.drop 264).take 8

def State.modPipe (s : State) (k : Nat) (f : Pipe → Pipe) : State :=
  match tfind s.pipes k with
  | some x => { s with pipes := tput s.pipes k (f x) }
  | none => s

/-! ### What the sequencer writes (R330) -/

/-- The shaper operation of a frame: one region, a result record, and a signal on SEM_BASE. -/
def plShapeOp (p : List Byte) (buf : Nat) : List Byte × List Byte :=
  (leBytes 1 1 ++ leBytes 1 6 ++ leBytes 2 0 ++ leBytes 2 0 ++ leBytes 2 (plSem p) ++ leBytes 4 0 ++ leBytes 4 1 ++ leBytes 8 0 ++ plRes p ++
    leBytes 8 0 ++ leBytes 8 0 ++ leBytes 8 0 ++ leBytes 8 0,
   leBytes 2 (buf + 2 ^ 14) ++ (plRegion p).drop 2)

/-- Fields of a capture record. -/
def recNum (r : List Byte) : Nat := leAt r 0 4
def recBuf (r : List Byte) : Nat := leAt r 4 2
def recFlags (r : List Byte) : Nat := leAt r 6 2
def recArrival (r : List Byte) : Nat := leAt r 16 8

/-- The PREDICT of a frame, with a signal on SEM_BASE + 1. -/
def plPredict (p r : List Byte) : List Byte :=
  let flags := (if nbit (recFlags r) 1 then 1 else 0) + if nbit (recFlags r) 6 then 2 else 0
  leBytes 1 1 ++ leBytes 1 2 ++ leBytes 2 (plHandle p) ++ leBytes 2 0 ++ leBytes 2 (plSem p + 1) ++ leBytes 4 0 ++ leBytes 4 1 ++
    leBytes 8 (recArrival r) ++ leBytes 4 (recNum r) ++ leBytes 2 flags ++ leBytes 2 0 ++ (plAddrs p).take 24 ++ leBytes 8 0

/-- The ASSOCIATE of a frame, with a signal on SEM_BASE + 3. -/
def plAssociate (p : List Byte) (miss : Bool) : List Byte :=
  leBytes 1 2 ++ leBytes 1 (if miss then 6 else 2) ++ leBytes 2 (plHandle p) ++ leBytes 2 0 ++ leBytes 2 (plSem p + 3) ++ leBytes 4 0 ++ leBytes 4 1 ++
    leBytes 8 0 ++ leBytes 8 0 ++ (plAddrs p).drop 24

/-- A counter of TRACK_PIPESTAT raised by `n`: 16 SKIPPED, 32 STALE, 48 TIMEOUTS. -/
def plCount (k lo n : Nat) (s : State) : State := s.addSat (Reg.trackPipestat k) (lo + 15) lo n

/-! ### Steps -/

/-- The sequencer can write an op: the ring is not in use, or has room. -/
def OpRing.takes (r : OpRing) : Bool := !r.en || decide (dist32 r.tail r.head < 2 ^ r.log)

/-- The index that an op of the sequencer gets. -/
def OpRing.place (r : OpRing) : Option W32 := if r.en then some r.tail else none

/-- An op is written for the shaper: at the tail of the partition's ring when that is enabled, else outside it (DESIGN CHOICE, log 43). -/
def putShape (k : Nat) (x : Pipe) (op : List Byte × List Byte) (s : State) : State :=
  let i := (s.shapeRing (plPart x.par)).place
  let s := if i.isSome then s.modShapeRing (plPart x.par) fun r => { r with tail := r.tail + 1 } else s
  s.modPipe k fun y => { y with shape := some op, shapeAt := i }

/-- An op is written for the tracker, in the same way. -/
def putOp (k : Nat) (x : Pipe) (op : List Byte) (s : State) : State :=
  let i := (s.trackRing (plPart x.par)).place
  let s := if i.isSome then s.modTrackRing (plPart x.par) fun r => { r with tail := r.tail + 1 } else s
  s.modPipe k fun y => { y with ops := y.ops ++ [(i, op)] }

/-- The tracker ring of a pipeline's partition takes an op. -/
def opFits (s : State) (x : Pipe) : Bool := (s.trackRing (plPart x.par)).takes

/-- The record of an index of a stream's ANA ring. -/
def anaRecord (s : State) (x : Stream) (i : W32) : List Byte :=
  let r := pRing x.par true
  mread s.mem (rBase r + i.toNat % 2 ^ rLog r * 32) 32

/-- PIPE_FRAME_START: steps 1 to 3. -/
def pipeFrameStart (k : Nat) (s : State) : State :=
  match tfind s.pipes k with
  | none => s
  | some x =>
    match s.stream? (plHandle x.par) with
    | none => s
    | some st =>
      let n := dist32 st.anaPi x.anaAt
      if x.step ≠ 1 ∨ n = 0 ∨ st.kind ≠ .capture (plSensor x.par) ∨ !(s.shapeRing (plPart x.par)).takes then s
      else
        let m := min n (2 ^ rLog (pRing st.par true))
        let older := (List.range (m - 1)).map fun j => anaRecord s st (st.anaPi - BitVec.ofNat 32 (m - j))
        let s := older.foldl (fun s r => setMark (recBuf r) mkHold false s) s
        let s := plCount k 16 (n - 1) s
        let r := anaRecord s st (st.anaPi - 1)
        let s := (List.range 4).foldl (fun s i => semUpdate s (plSem x.par + i) true 0) s
        putShape k x (plShapeOp x.par (recBuf r)) (s.modPipe k fun x => { x with anaAt := st.anaPi, step := 3, frame := r, stale := false })

/-- The queue's doorbell is rung: the tail advanced, and the producer index that stands at CPL_PI written as the consumer index (R332). -/
def pipeRing (k : Nat) (x : Pipe) (s : State) : State :=
  let q := plQueue x.par
  let t := x.tail + BitVec.ofNat 32 (plChain x.par)
  let (s, bs, _) := engRead s (s.queue q).cplPi 4
  queueDoorbell .pf q t (BitVec.ofNat 32 (leNat bs)) (s.modPipe k fun x => { x with tail := t })

/-- The shaper holds nothing of a pipeline any more. -/
def shapeGone (s : State) (k : Nat) (x : Pipe) : Bool :=
  x.shape.isNone && (match s.shaper.run with
    | some r => r.pipe != some k
    | none => true)

/-- PIPE_SHAPED: the rest of step 3, and steps 4 and 5. -/
def pipeShaped (k : Nat) (s : State) : State :=
  match tfind s.pipes k with
  | none => s
  | some x =>
    if x.step ≠ 3 ∨ !shapeGone s k x ∨ !semOk s (plSem x.par) 1 then s
    else if x.stale then plCount k 32 1 (s.modPipe k fun x => { x with step := 1 })
    else if !opFits s x then s
    else pipeRing k x (putOp k x (plPredict x.par x.frame) (s.modPipe k fun y => { y with step := 5 }))

/-- PIPE_CHAIN_DONE: the chain's signal has come; step 6 begins. -/
def pipeChainDone (k : Nat) (s : State) : State :=
  match tfind s.pipes k with
  | none => s
  | some x =>
    if x.step ≠ 5 ∨ !semOk s (plSem x.par + 2) 1 ∨ !opFits s x then s
    else putOp k x (plAssociate x.par false) (s.modPipe k fun y => { y with step := 6 })

/-- PIPE_FRAME_END: the ASSOCIATE has signalled. -/
def pipeFrameEnd (k : Nat) (s : State) : State :=
  match tfind s.pipes k with
  | none => s
  | some x => if x.step ≠ 6 ∨ !x.ops.isEmpty ∨ !semOk s (plSem x.par + 3) 1 then s else s.modPipe k fun y => { y with step := 1 }

/-- The queue is cancelled (R210) and enabled again, so that its indices restart at 0. -/
def pipeRestart (k : Nat) (x : Pipe) (s : State) : State :=
  let q := plQueue x.par
  let s := cancelDrained q (cancelQueue q s)
  enableQueue .pf q (promote (s.queue q).part (s.modPipe k fun y => { y with tail := 0 }))

/-- The frame is missed: its log entry, the queue's restart, the ASSOCIATE with MISS when it is still to be written, and the count. -/
def pipeMiss (k code status : Nat) (x : Pipe) (s : State) : State :=
  let s := pipeRestart k x (report s 0x08 code k (recNum x.frame) status)
  let s := s.modPipe k fun y => { y with step := 6 }
  plCount k 48 1 (if x.step = 5 then putOp k x (plAssociate x.par true) s else s)

/-- PIPE_TIMEOUT (R331). -/
def pipeTimeout (k : Nat) (s : State) : State :=
  match tfind s.pipes k with
  | none => s
  | some x => if x.step ≠ 5 ∨ plTimeout x.par = 0 ∨ semOk s (plSem x.par + 2) 1 ∨ !opFits s x then s else pipeMiss k 0x40 0 x s

/-- PIPE_FAULT (R332). -/
def pipeFault (k : Nat) (s : State) : State :=
  match tfind s.pipes k with
  | none => s
  | some x =>
    let q := s.queue (plQueue x.par)
    if ((x.step = 5 ∧ opFits s x) ∨ x.step = 6) ∧ q.state = .faulted then pipeMiss k 0x42 q.lastStatus.toNat x s else s

/-! ### Meanings -/

/-- PIPE_FRAME_START (R330). -/
def execPipeFrameStart (k : Fin 16) (s : State) : Out := running s (pipeFrameStart k.val)
/-- PIPE_SHAPED (R330). -/
def execPipeShaped (k : Fin 16) (s : State) : Out := running s (pipeShaped k.val)
/-- PIPE_CHAIN_DONE (R330). -/
def execPipeChainDone (k : Fin 16) (s : State) : Out := running s (pipeChainDone k.val)
/-- PIPE_FRAME_END (R330). -/
def execPipeFrameEnd (k : Fin 16) (s : State) : Out := running s (pipeFrameEnd k.val)
/-- PIPE_TIMEOUT (R331). -/
def execPipeTimeout (k : Fin 16) (s : State) : Out := running s (pipeTimeout k.val)
/-- PIPE_FAULT (R332). -/
def execPipeFault (k : Fin 16) (s : State) : Out := running s (pipeFault k.val)

end Sys2Proof.Machine
end

