-- ==== Sys2Proof/Machine/Twin.lean ====
section
/-!
DEFINITION. The twin pair (R449 to R459): acknowledgement and replay, forming the pair, heartbeats, what the secondary stores, release on
the primary, and the loss of a partner with its takeover. Events are received flits, in the fields of R450.
-/
namespace Sys2Proof.Machine

/-! ### Acknowledgement and replay (R449, R451) -/

/-- ACK frees acknowledged flits in the replay buffer, and waiting flits take their room. -/
def takeAck (ack : BitVec 16) (s : State) : State :=
  let t := s.twin
  match t.replay with
  | [] => s
  | f :: _ =>
    let n := (ack - f.seq).toNat
    pumpAll { s with twin := if n = 0 ∨ t.replay.length < n then t else { t with replay := t.replay.drop n, ackAt := s.clock.timeF } }

/-- A flit without a sequence number leaves; like every flit it carries ACK, which in a NAK names the SEQ to replay from (R450, R451). -/
def sendPlain (typ : Nat) (payload : List Byte) (s : State) : State :=
  let f : Flit := { typ := typ, ack := s.twin.rxSeq, payload := payload }
  { s with twin := { s.twin with lastSent := some f, lane := f.image } }
def sendNak (s : State) : State := sendPlain 0x01 [] s

/-- The outstanding flits are sent again out of the replay buffer, each with the ACK of now, counted in REL_CNT6. The 2 µs of R451 begin again with a
replay. DEDUCED, log 45. -/
def replayFlits (s : State) : State :=
  let t := s.twin
  if t.replay.isEmpty then s
  else
    let again := t.replay.map fun f => { f with ack := t.rxSeq, sends := f.sends + 1 }
    let lane := match again.getLast? with
      | some f => f.image
      | none => t.lane
    { s with twin := { t with replay := again, lane := lane, ackAt := s.clock.timeF } }.addSat (Reg.relCnt 6) 31 0 1

/-- The link delivers flits. -/
def linked (k : State → State) (s : State) : State := if s.twin.lock then k s else s

/-- A sequenced flit: delivered once and in order, its LEN bytes counted (R460), else answered with NAK; not taken under Snuff (R468). -/
def sequenced (seq ack : BitVec 16) (len : Nat) (k : State → State) (s : State) : State :=
  s |> linked fun s =>
    if !s.paired || s.stopped then s
    else
      let s := takeAck ack s
      if seq = s.twin.rxSeq then k (bump { s with twin := { s.twin with rxSeq := s.twin.rxSeq + 1 } } 90 len) else sendNak s

/-! ### Forming the pair (R453, R454) -/

def twinState (v : Nat) (s : State) : State := s.setFld Reg.relTwin 1 0 v

/-- TWIN_HELLO_SEND: PAIR_ID, ROLE, GLB_UID and the partner's UID last received. -/
def helloSend (s : State) : State :=
  let st := s.fld Reg.relTwin 1 0
  if (st = 1 ∨ st = 2) ∧ s.twin.on then
    sendPlain 0x02 (leBytes 4 s.twin.pairId.toNat ++ leBytes 1 (s.fld Reg.relTwin 3 2) ++ leBytes 3 0 ++ leBytes 8 (s.reg Reg.glbUid).toNat ++
      leBytes 8 s.twin.peer.toNat) s
  else s

/-- The roles are opposite. -/
def opposite (mine theirs : Nat) : Bool := (mine == 1 && theirs == 2) || (mine == 2 && theirs == 1)

/-- The mirror area of the secondary is too small for a pair (R454). -/
def State.mirrorSmall (s : State) : Bool := s.fld Reg.relTwin 3 2 == 2 && decide (s.twin.mirrorSize < 26 * 2 ^ 20)

/-- The pair forms. -/
def formPair (s : State) : State := report (setStatus (twinState 2 s) 4 true) 0x0B 0x71 0 0 s.twin.pairId.toNat

/-- TWIN_HELLO. -/
def twinHello (pairId : W32) (role : Nat) (uid echo : W64) (s : State) : State :=
  let mine := s.fld Reg.relTwin 3 2
  let s := { s with twin := { s.twin with peer := uid } }
  if s.twin.on && s.fld Reg.relTwin 1 0 == 1 && pairId == s.twin.pairId && opposite mine role && echo == s.reg Reg.glbUid && !s.mirrorSmall then
    formPair s
  else s

/-! ### Heartbeats (R452) -/

/-- HEARTBEAT_SEND. -/
def heartbeatSend (s : State) : State :=
  if !s.paired then s
  else
    let n := s.twin.hb + 1
    let t := s.clock.timeF
    let s := sendPlain 0x03 (leBytes 4 n.toNat ++ leBytes 4 s.twin.hbSeen.toNat ++ leBytes 8 t.toNat) s
    { s with twin := { s.twin with hb := n, sentAt := s.twin.sentAt ++ [(n, t)] } }

/-- HEARTBEAT: the partner's number, and its echo. -/
def heartbeat (hb echo : W32) (s : State) : State :=
  if !s.paired then s
  else { s with twin := { s.twin with hbSeen := hb, echo := some echo, sentAt := s.twin.sentAt.filter fun x => !ahead32 echo x.1 } }

/-! ### The mirror area (R454 to R456) -/

def mirStream (s : State) (h : Nat) : Option Mirror := tfind s.twin.mirrors h
def putMirror (h : Nat) (m : Mirror) (s : State) : State := { s with twin := { s.twin with mirrors := tput s.twin.mirrors h m } }
def modMirror (h : Nat) (f : Mirror → Mirror) (s : State) : State :=
  match mirStream s h with
  | some m => putMirror h (f m) s
  | none => s

/-- Where bitstream mirrors begin, the context mirror, the stream state and the delta log. -/
def mirrorBits (s : State) : Nat := s.twin.mirrorBase + 25 * 2 ^ 20
def mirrorCtx (s : State) : Nat := s.twin.mirrorBase + 2 ^ 20
def mirrorState (s : State) (h : Nat) : Nat := s.twin.mirrorBase + 2 ^ 19 + 128 * h
def deltaPlace (s : State) (k : Nat) : Nat := s.twin.mirrorBase + 17 * 2 ^ 20 + 64 * k
/-- Images that the ring of the delta log holds. -/
def deltaCount : Nat := 131072

/-- The stream state of a handle is written; the manual gives its content no layout (log 44). -/
def noteState (h : Nat) (s : State) : State :=
  let (n, s) := s.fresh
  devWrite .twin s (mirrorState s h) ((List.range 128).map fun i => Config.streamState n i)
/-- A handle's entry in the takeover table. -/
def entryAddr (s : State) (h : Nat) : Nat := s.twin.mirrorBase + 512 * h

/-- The lowest place for `n` bytes of bitstream mirror, in granules of 64 KiB. -/
def mirrorFit (s : State) (n : Nat) : Option Nat :=
  let used := (s.twin.mirrors.filter fun m => m.2.size != 0).map fun m => (m.2.base, alignUp m.2.size 65536)
  let top := s.twin.mirrorBase + s.twin.mirrorSize
  let ok := fun a => decide (a + alignUp n 65536 ≤ top) && used.all fun u => decide (a + alignUp n 65536 ≤ u.1) || decide (u.1 + u.2 ≤ a)
  (mirrorBits s :: used.map fun u => u.1 + u.2).foldl (fun best a =>
    if ok a then (match best with
      | some b => some (min b a)
      | none => some a)
    else best) none

/-- OPEN: the first flit, and the second, which completes the parameter block. -/
def mirrorOpen (cont : Bool) (h : Nat) (data : List Byte) (s : State) : State :=
  if !s.secondary then s
  else if cont then putMirror h { par := data, base := 0, size := 0 } s
  else
    match mirStream s h with
    | none => s
    | some m =>
      let par := padTo 128 (m.par ++ data)
      match mirrorFit s (pBsSize par) with
      | some a => noteState h (putMirror h { par := par, base := a, size := pBsSize par } s)
      | none => sendAckf h 1 0 { s with twin := { s.twin with mirrors := terase s.twin.mirrors h } }

/-- Bytes of the mirror ring, from the twin link. -/
def mirrorStore (m : Mirror) (i : W32) (bs : List Byte) (s : State) : State :=
  let o := i.toNat % m.size
  let k := min bs.length (m.size - o)
  let s := devWrite .twin s (m.base + o) (bs.take k)
  if k = bs.length then s else devWrite .twin s m.base (bs.drop k)

/-- Commits whose bytes have all arrived are acknowledged. -/
def ackWaits (h : Nat) (s : State) : State :=
  match mirStream s h with
  | none => s
  | some m =>
    let (now, later) := m.waits.partition fun w => ahead32 m.fin w.2
    now.foldl (fun s w => sendAckf h 0 w.1 s) (putMirror h { m with waits := later } s)

/-- BITS. -/
def mirrorBytes (h : Nat) (i : W32) (data : List Byte) (s : State) : State :=
  match mirStream s h with
  | none => s
  | some m =>
    if m.size = 0 ∨ !s.secondary then s
    else
      let s := if data = [] then s else mirrorStore m i data s
      ackWaits h (modMirror h (fun m => { m with fin := i + BitVec.ofNat 32 data.length }) s)

/-- POS. -/
def mirrorPos (h : Nat) (rap : Bool) (num start : W32) (s : State) : State :=
  if s.secondary && (mirStream s h).isSome then
    noteState h (modMirror h (fun m => if rap then { m with raps := m.raps ++ [(num, start)] } else m) s)
  else s

/-- TRACK: the image waits for its COMMIT in the ring of the delta log. -/
def mirrorTrack (h : Nat) (ctx : W32) (image : List Byte) (s : State) : State :=
  if s.secondary && (mirStream s h).isSome then
    let k := s.twin.deltaAt
    let s := devWrite .twin s (deltaPlace s k) (padTo 64 image)
    modMirror h (fun m => { m with delta := m.delta ++ [(ctx.toNat, k)] }) { s with twin := { s.twin with deltaAt := (k + 1) % deltaCount } }
  else s

/-- An image of the delta log is applied to the context mirror. -/
def applyDelta (s : State) (d : Nat × Nat) : State :=
  let (s, image, _) := devRead .twin s (deltaPlace s d.2) 64
  devWrite .twin s (mirrorCtx s + 64 * (d.1 % ctxCount)) image

/-- COMMIT: the deltas are applied, and the frame is acknowledged once its bytes have arrived. -/
def mirrorCommit (h : Nat) (frameSeq metaSeq nextId fin : W32) (arrival : W64) (s : State) : State :=
  match mirStream s h with
  | none => s
  | some m =>
    if !s.secondary then s
    else
      let s := noteState h (m.delta.foldl applyDelta s)
      let past := m.raps.filter fun r => ahead32 frameSeq r.1
      let m := { m with
        delta := []
        last := some (frameSeq, metaSeq, nextId, fin, arrival)
        rap := match past.getLast? with
          | some r => some r
          | none => m.rap
        raps := m.raps.filter fun r => !ahead32 frameSeq r.1
        waits := m.waits ++ [(metaSeq, fin)] }
      ackWaits h (putMirror h m s)

/-- CLOSE. -/
def mirrorClose (h : Nat) (s : State) : State :=
  if s.secondary then { s with twin := { s.twin with mirrors := terase s.twin.mirrors h } } else s

/-! ### The primary: acknowledged frames (R240, R324, R456) -/

/-- A stream, open or closed with buffers that still carry marks. -/
def State.everStream (s : State) (h : Nat) : Option Stream :=
  match s.stream? h with
  | some x => some x
  | none => tfind s.media.closed h

/-- The decode state of such a stream changes. -/
def State.modEver (s : State) (h : Nat) (f : Dec → Dec) : State :=
  match s.stream? h, tfind s.media.closed h with
  | none, some x => { s with media := { s.media with closed := tput s.media.closed h { x with dec := f x.dec } } }
  | _, _ => s.modDec h f

/-- MIRROR_HOLD is cleared from every segment of a stream. -/
def unholdAll (h : Nat) (s : State) : State :=
  (s.bufsOf h).foldl (fun s b => if b.2.segment then setMark b.1 mkMirror false s else s) s

/-- MIRROR_HOLD is cleared from the segments that lie wholly before a byte index. -/
def unhold (h : Nat) (i : W32) (s : State) : State :=
  match s.everStream h with
  | none => s
  | some x =>
      let z := 2 ^ pSegLog x.par
      (List.range (pSegCount x.par)).foldl (fun s k =>
        let c := x.dec.cons + BitVec.ofNat 32 (z * k)
        if ahead32 i c && decide (z ≤ dist32 i c) then
          match segOf s h x c with
          | some b => setMark b.1 mkMirror false s
          | none => s
        else s) s

/-- Held frames up to a META_SEQ are released in order; the frame numbers released. -/
def releaseUpTo (h : Nat) (ok : Release → Bool) (s : State) : State × List W32 :=
  match s.bound? h with
  | none => (s, [])
  | some x =>
    let rs := x.held.filter ok
    (rs.foldl (fun s r => trackRelease h r s) s, rs.map (·.num))

/-- The partner has acknowledged a frame: random-access points, segments and BS_CONSUMED move on. -/
def ackedFrame (h : Nat) (num : W32) (s : State) : State :=
  match s.everStream h with
  | none => s
  | some x =>
    let past := x.dec.raps.filter fun r => ahead32 num r.1
    let s := match past.getLast? with
      | some r => unhold h r.2 s
      | none => s
    consume h (s.modEver h fun d => { d with
      raps := match past.getLast? with
        | some r => r :: d.raps.filter fun q => !ahead32 num q.1
        | none => d.raps
      ends := d.ends.filter fun e => !ahead32 num e.1 })

/-- A stream is mirrored no more. -/
def unmirror (h : Nat) (s : State) : State :=
  let s := s.modEver h fun d => { d with mirrored := false, raps := [], ends := [] }
  consume h (unholdAll h (releaseUpTo h (fun _ => true) s).1)

/-- ACKF: 0 the frame is stored, 1 the secondary has no mirror space. -/
def acked (h status : Nat) (metaSeq : W32) (s : State) : State :=
  if !s.primary then s
  else if status = 1 then report (unmirror h s) 0x0B 0x72 h status s.twin.pairId.toNat
  else
    let (s, nums) := releaseUpTo h (fun r => ahead32 metaSeq r.metaSeq) s
    nums.foldl (fun s n => ackedFrame h n s) s

/-! ### Loss and takeover (R457 to R459) -/

/-- The result of a takeover entry. -/
def takeResult (h res code tracks : Nat) (rapIdx restored rapNum lastSeq metaSeq : Nat) (s : State) : State :=
  engWrite s (entryAddr s h + 256) (leBytes 1 res ++ leBytes 1 code ++ leBytes 2 tracks ++ leBytes 4 rapIdx ++ leBytes 4 restored ++
    leBytes 4 rapNum ++ leBytes 4 lastSeq ++ leBytes 4 metaSeq ++ leBytes 8 0)

/-- The open block of an entry does not fit the mirrored one (R458). -/
def entryMismatch (p m : List Byte) : Bool :=
  pStd p != pStd m || pTen p != pTen m || pMaxW p != pMaxW m || pMaxH p != pMaxH m || pDpb p != pDpb m || decide (pBsSize p < pBsSize m)

/-- A mirrored context is restored into the lowest free one, with a zeroed embedding slot. -/
def restoreCtx (h : Nat) (par : List Byte) (s : State) (i : Nat) : State :=
  let img := mread s.mem (mirrorCtx s + 64 * i) 64
  let j := lowestFree s.liveCtxs 0
  let slot := if bEmbFmt par = 0 then 0 else bEmbBase par + 256 * freeSlot s h par
  let img := splice (splice img 52 (leBytes 4 (slot / 256))) lifeAt (leBytes 1 (leAt img lifeAt 1 % 4))
  let s := putCtx j img s
  let s := if bEmbFmt par = 0 then s else engWrite s slot (List.replicate 256 0)
  s.modBound h fun x => { x with fresh := x.fresh ++ [j] }

/-- Mirrored contexts of a stream that are live, by primary index. -/
def mirroredCtxs (s : State) (h : Nat) : List Nat :=
  (liveFrom s (mirrorCtx s)).filter fun i => leAt (mread s.mem (mirrorCtx s + 64 * i) 64) 50 2 == h

/-- Bytes of a mirror from an index on. -/
def mirrorRead (s : State) (m : Mirror) (i : W32) (n : Nat) : List Byte :=
  let o := i.toNat % m.size
  let k := min n (m.size - o)
  mread s.mem (m.base + o) k ++ mread s.mem m.base (n - k)

/-- Steps 2 to 5 of R459 on an opened stream; whether the stream is taken over. -/
def takeResume (h : Nat) (m : Mirror) (par bp : List Byte) (ends : List W32) (s : State) : State × Bool :=
  let (rapNum, rapIdx) := m.rap.getD (m.raps.head?.getD (0, m.fin))
  let (s, code) := bindStream h bp s
  if code ≠ 0 then (report (takeResult h 3 code 0 rapIdx.toNat 0 rapNum.toNat 0 0 s) 0x0B 0x73 h 3 s.twin.pairId.toNat, false)
  else
    let ctxs := mirroredCtxs s h
    let s := ctxs.foldl (restoreCtx h bp) s
    let (lastSeq, metaSeq) := match m.last with
      | some (f, q, _, _, _) => (f, q)
      | none => (0, 0)
    let s := match m.last with
      | some (_, q, nid, _, arr) =>
        let i := nid + 0x80000000
        s.modBound h fun x => { x with nextId := if i = 0 then 1 else i, metaSeq := q + 1, last := some arr, predicted := false, resumed := true }
      | none => s.modBound h fun x => { x with resumed := true }
    let n := dist32 m.fin rapIdx
    let s := engWrite s (pBsBase par) (mirrorRead s m rapIdx n)
    let s := takeResult h 0 0 ctxs.length rapIdx.toNat n rapNum.toNat lastSeq.toNat metaSeq.toNat s
    let s := report s 0x0B 0x73 h 0 s.twin.pairId.toNat
    let s := s.modDec h fun d => { d with num := rapNum, refsTo := m.last.map fun l => l.1 }
    (match s.stream? h with
      | some x => decodeDb .pf h x (BitVec.ofNat 64 n) ends s
      | none => s, true)

/-- One mirrored stream is taken over; whether it was. -/
def takeStream (h : Nat) (m : Mirror) (ends : List W32) (s : State) : State × Bool :=
  let (s, e, _) := engRead s (entryAddr s h) 256
  let par := e.take 128
  let fail := fun (res code : Nat) (s : State) => (report (takeResult h res code 0 0 0 0 0 0 s) 0x0B 0x73 h res s.twin.pairId.toNat, false)
  if zeros par 0 127 then fail 1 0 s
  else if entryMismatch par m.par then fail 2 0 s
  else
    let (s, code) := openDecode h par s
    if code ≠ 0 then fail 3 code s
    else takeResume h m par (e.drop 128) ends s

def takeAll (ends : Nat → List W32) : List (Nat × Mirror) → State → State × Nat
  | [], s => (s, 0)
  | (h, m) :: ms, s =>
    let (s, ok) := takeStream h m (ends h) s
    let (s, n) := takeAll ends ms s
    (s, n + ok.toNat)

/-- The partner is declared lost: what both sides do. -/
def lostBoth (s : State) : State :=
  let s := { s with twin := { s.twin with replay := [], waiting := [], sentAt := [] } }
  report (setStatus (twinState 3 s) 4 false) 0x0B 0x70 0 0 s.twin.pairId.toNat

/-- PARTNER_LOST: 5 µs have passed since the oldest heartbeat without an echo. -/
def partnerLost (ends : Nat → List W32) (s : State) : State :=
  match s.twin.sentAt with
  | [] => s
  | (_, t) :: _ =>
    if !s.paired ∨ (s.clock.timeF - t).toNat < 5000 then s
    else if s.primary then
      let hs := ((s.media.streams ++ s.media.closed).filter fun x => x.2.dec.mirrored).map (·.1) ++
        (s.track.bound.filter fun x => !x.2.held.isEmpty).map (·.1)
      lostBoth (hs.foldl (fun s h => unmirror h s) s)
    else
      let (s, n) := takeAll ends s.twin.mirrors (lostBoth s)
      { s with twin := { s.twin with mirrors := [] } }.setFld Reg.relTwin 26 16 n

/-! ### Meanings -/

/-- TWIN_HELLO_SEND (R453). -/
def execTwinHelloSend (s : State) : Out := live s helloSend
/-- TWIN_HELLO (R453, R454). -/
def execTwinHello (ack : BitVec 16) (pairId : W32) (role : Byte) (uid echo : W64) (s : State) : Out :=
  live s (linked fun s => twinHello pairId role.toNat uid echo (takeAck ack s))
/-- HEARTBEAT_SEND (R452). -/
def execHeartbeatSend (s : State) : Out := live s heartbeatSend
/-- HEARTBEAT (R452). -/
def execHeartbeat (ack : BitVec 16) (hb echo : W32) (tick : W64) (s : State) : Out :=
  live s (linked fun s => let _ := tick; heartbeat hb echo (takeAck ack s))
/-- PARTNER_LOST (R452, R457, R459). -/
def execPartnerLost (ends : List (Fin 1024 × List W32)) (s : State) : Out :=
  live s (partnerLost fun h => match ends.find? fun e => e.1.val == h with
    | some e => e.2
    | none => [])
/-- NAK (R451). -/
def execNak (ack : BitVec 16) (s : State) : Out :=
  live s (linked fun s => if s.stopped then takeAck ack s else replayFlits (takeAck ack s))
/-- REPLAY_TIMEOUT (R451). -/
def execReplayTimeout (s : State) : Out :=
  live s fun s => if s.stopped || decide ((s.clock.timeF - s.twin.ackAt).toNat < 2000) then s else replayFlits s
/-- TWIN_OPEN (R455). -/
def execTwinOpen (seq ack : BitVec 16) (cont : Bool) (h : BitVec 16) (data : List Byte) (s : State) : Out :=
  live s (sequenced seq ack (4 + data.length) (mirrorOpen cont (h.toNat % 1024) data))
/-- BITS (R455). -/
def execBits (seq ack : BitVec 16) (h : BitVec 16) (index : W32) (data : List Byte) (s : State) : Out :=
  live s (sequenced seq ack (8 + data.length) (mirrorBytes (h.toNat % 1024) index data))
/-- POS (R455). -/
def execPos (seq ack : BitVec 16) (h : BitVec 16) (rap : Bool) (num start : W32) (s : State) : Out :=
  live s (sequenced seq ack 12 (mirrorPos (h.toNat % 1024) rap num start))
/-- TRACK_FLIT (R456). -/
def execTrackFlit (seq ack : BitVec 16) (h : BitVec 16) (ctx : W32) (image : List Byte) (s : State) : Out :=
  live s (sequenced seq ack (8 + image.length) (mirrorTrack (h.toNat % 1024) ctx image))
/-- COMMIT (R456). -/
def execCommit (seq ack : BitVec 16) (h : BitVec 16) (frameSeq metaSeq nextId fin : W32) (arrival : W64) (s : State) : Out :=
  live s (sequenced seq ack 28 (mirrorCommit (h.toNat % 1024) frameSeq metaSeq nextId fin arrival))
/-- TWIN_CLOSE (R455). -/
def execTwinClose (seq ack : BitVec 16) (h : BitVec 16) (s : State) : Out := live s (sequenced seq ack 2 (mirrorClose (h.toNat % 1024)))
/-- ACKF (R456). -/
def execAckf (seq ack : BitVec 16) (h : BitVec 16) (status : BitVec 16) (metaSeq : W32) (s : State) : Out :=
  live s (sequenced seq ack 8 (acked (h.toNat % 1024) status.toNat metaSeq))
/-- BAD_FLIT (R451). -/
def execBadFlit (s : State) : Out := live s (linked sendNak)
/-- IDLE_FLIT (R450). -/
def execIdleFlit (ack : BitVec 16) (s : State) : Out := live s (linked (takeAck ack))
/-- TWIN_BLOCK_LOCK (R452). -/
def execTwinBlockLock (up : Bool) (s : State) : Out :=
  live s fun s => { s with twin := { s.twin with lock := up } }.setBit Reg.relTwin 4 up

end Sys2Proof.Machine
end

