-- ==== Sys2Proof/Machine/Bus.lean ====
section
/-!
DEFINITION. BAR0 (R8 to R11, R53, R336, R337, R355, R362): which accesses a function may make, what a register reads as, what a write of it
does, and the two halves of 64-bit registers.
-/
namespace Sys2Proof.Machine

/-- The state that a meaning leaves. -/
def outState (s : State) : Out → State
  | .next t => t
  | _ => s

/-! ### Commands behind registers -/

/-- A write of INGEST_RING or INGEST_DB as the register takes it (R293). -/
def ingestRaw (fn : Fn) (r : Nat) (v : W64) (s : State) : State :=
  let c := (r - Reg.ingestRing 0) / 0x40
  if (r - Reg.ingestRing 0) % 0x40 = 0 then ingestRingWrite fn c v s
  else ingestDb fn c (BitVec.ofNat 32 v.toNat) (nbit v.toNat 32) (nbits v.toNat 47 34) (nbits v.toNat 63 48) s

/-- Key of a register in the register file. -/
def busKey (fn : Fn) (row : RegRow) (r : Nat) : Nat := if row.perFn then fnKey fn.num r else r

/-- A field write by access code (R8): rw bits take the value, w1c bits that are written 1 clear. -/
def plainPut (fn : Fn) (row : RegRow) (r : Nat) (v : W64) (s : State) : State :=
  let o := if row.bytes ≤ 8 then 0 else (r - row.off) % row.bytes
  let rw := BitVec.ofNat 64 (row.rw >>> (8 * o))
  let w1c := BitVec.ofNat 64 (row.w1c >>> (8 * o))
  let k := busKey fn row r
  s.setReg k (((s.reg k &&& ~~~rw) ||| (v &&& rw)) &&& ~~~(w1c &&& v))

/-- The rw bits of the 64 bits at an offset. -/
def rwMask (row : RegRow) (r : Nat) : W64 := BitVec.ofNat 64 (row.rw >>> (8 * (if row.bytes ≤ 8 then 0 else (r - row.off) % row.bytes)))

/-- QM_QTAB is written only while every queue is DISABLED (R189). -/
def qtabWrite (fn : Fn) (row : RegRow) (v : W64) (s : State) : State :=
  if s.qm.queues.any fun x => x.2.state != .disabled then s else plainPut fn row Reg.qmQtab v s

/-- A register write that waits for the resume (R468) as its register takes it: INGEST_RING and INGEST_DB, QM_QTAB, MMU_INV_ADDR and HEARTH_RTAB. -/
def rawWrite (fn : Fn) (r : Nat) (v : W64) (s : State) : State :=
  match regAt r with
  | some (row, _) =>
    if row.name = "INGEST_RINGc" ∨ row.name = "INGEST_DBc" then ingestRaw fn r v s
    else if row.name = "QM_QTAB" then qtabWrite fn row v s
    else plainPut fn row r v s
  | none => s

/-- The meaning of a host write that starts an action. -/
def actOut (s : State) : Instr → Out
  | .fsyncWordA fn n v => execFsyncWordA fn n v s
  | .fsyncWordB fn n v => execFsyncWordB fn n v s
  | .mediaDoorbell fn h v ends => execMediaDoorbell fn h v ends s
  | .encodeSubmit fn h v => execEncodeSubmit fn h v s
  | .mediaOpen fn h => execMediaOpen fn h s
  | .mediaOpenEnc fn h => execMediaOpenEnc fn h s
  | .mediaClose fn h => execMediaClose fn h s
  | .mediaFlush fn h => execMediaFlush fn h s
  | .mediaSkipToRap fn h => execMediaSkipToRap fn h s
  | .mediaForceIdr fn h => execMediaForceIdr fn h s
  | .releaseOut fn b => execReleaseOut fn b s
  | .releaseHold fn b => execReleaseHold fn b s
  | .ingestEnable fn c v => execIngestEnable fn c v s
  | .ingestDisable fn c => execIngestDisable fn c s
  | .ingestDoorbell fn c w => execIngestDoorbell fn c w s
  | .ingestEos fn c w => execIngestEos fn c w s
  | .slotDone fn c n => execSlotDone fn c n s
  | .rowDone fn c n => execRowDone fn c n s
  | .reconReq fn h next num => execReconReq fn h next num s
  | .invPartition fn p => execInvPartition fn p s
  | .invRange fn p => execInvRange fn p s
  | .invSlot fn p slot => execInvSlot fn p slot s
  | .queueDoorbell fn off bs => execQueueDoorbell fn off bs s
  | .enable fn q => execEnable fn q s
  | .disable fn q => execDisable fn q s
  | .cancel fn q => execCancel fn q s
  | .resume fn q => execResume fn q s
  | .resumeSkip fn q => execResumeSkip fn q s
  | .semopAdd fn n v => execSemopAdd fn n v s
  | .semopSet fn n v => execSemopSet fn n v s
  | .shapeRingWrite fn p v => execShapeRingWrite fn p v s
  | .shapeDoorbell fn p t => execShapeDoorbell fn p t s
  | .bind fn h => execBind fn h s
  | .unbind fn h => execUnbind fn h s
  | .clear fn h => execClear fn h s
  | .trackRingWrite fn p v => execTrackRingWrite fn p v s
  | .trackDoorbell fn p t => execTrackDoorbell fn p t s
  | .trackMdb fn h n => execTrackMdb fn h n s
  | .registerWrite fn r bs =>
    live s (orRecord (.registerWrite fn r bs) (rawWrite fn r (BitVec.ofNat 64 (leNat bs))))
  | _ => .next s

/-- A host write that starts an action, as it arrives at its register: done, or recorded under Snuff. Its bytes have been counted by BAR0. -/
def act (i : Instr) (s : State) : State := (outState s (actOut s i)).setReg (Reg.dbgBcnt 88) (s.reg (Reg.dbgBcnt 88))

/-- A recorded write is acted on at the resume; the half that BAR0 holds by then is another write's. -/
def replay (s : State) (i : Instr) : State :=
  let h := s.hif.held
  let t := act i { s with hif := { s.hif with held := [] } }
  { t with hif := { t.hif with held := h } }

/-! ### Access (R53, R336, R337) -/

/-- The offset lies in a block that a virtual function without a partition may not touch (R337). -/
def partBlock (r : Nat) : Bool :=
  (decide (0x20000 ≤ r) && decide (r < 0x80000)) || (decide (0x100000 ≤ r) && decide (r < 0x2C0000))

/-- The core whose block holds an offset. -/
def coreBlock (r : Nat) : Option Nat := if 0x100000 ≤ r ∧ r < 0x200000 then some ((r - 0x100000) / 0x10000) else none

/-- The number of a partition whose own register stands at an offset: QM_LATEp and PWR_ENERGYp. -/
def ownRegister (r : Nat) : Option Nat :=
  if Reg.qmLate 0 ≤ r ∧ r < Reg.qmLate 16 then some ((r - Reg.qmLate 0) / 8)
  else if Reg.pwrEnergy 0 ≤ r ∧ r < Reg.pwrEnergy 16 then some ((r - Reg.pwrEnergy 0) / 8)
  else none

/-- An access of a function to a register is a permission violation. -/
def barred (s : State) (fn : Fn) (row : RegRow) (r : Nat) (write : Bool) : Bool :=
  match fn with
  | .pf => false
  | .vf n =>
    row.vf == .pfOnly || (write && row.vf == .pfWrite) || (partBlock r && s.outside fn) ||
    (match coreBlock r with
      | some c => (s.partOfCore c).isNone || s.partOfCore c != s.partOfVf n.val
      | none => false) ||
    (match ownRegister r with
      | some p => !write && s.partOfVf n.val != some p
      | none => false)

/-! ### Reads -/

/-- QM_CNOW (R350). -/
def cnowWord (s : State) : W64 := BitVec.ofNat 64 (s.qm.cycles.toNat + (if s.cyclic then s.cyclePos / 1000 * 2 ^ 32 else 0))

/-- MEDIA_POOL (R248). Until the media engines have come up in step 9 of R24 it reads its reset value. DEDUCED, log 62. -/
def poolWord (s : State) : W64 :=
  if s.boot.step < 9 then 0 else
  let total := match s.media.areas with
    | some a => a.poolGran
    | none => 0
  BitVec.ofNat 64 (total - (s.media.pool.map fun b => b.2.grans).sum + (16384 - s.media.pool.length) * 2 ^ 32)

/-- MEDIA_BUFINFO of a descriptor (R248). -/
def bufWord (s : State) (b : Nat) : W64 :=
  match s.buf? b with
  | some y => BitVec.ofNat 64 (y.marks.toNat + y.owner * 2 ^ 8 + (if y.segment then 2 ^ 18 else 0) + 2 ^ 19 + y.addr * 2 ^ 24)
  | none => 0

/-- A word of the policy set of the stream that MEDIA_SSEL of a function names: in force, or pending (R243, R384). Where it names no open stream, a
word without a written value reads 0. DESIGN CHOICE, log 62. -/
def policyWord (s : State) (fn : Fn) (second pend : Bool) : W64 :=
  let set := match s.stream? (s.fld (fnKey fn.num Reg.mediaSsel) 9 0) with
    | some x => if pend then acceptedSet x else (x.sp0, x.sp1)
    | none => (0, 0)
  let v := if second then set.2 else set.1
  if pend then (tfind s.media.pend (fnKey fn.num (if second then Reg.mediaSp1Pend else Reg.mediaSp0Pend))).getD v else v

/-- TRACK_POOL (R309). Until the tracker has come up in step 9 of R24 it reads its reset value. DEDUCED, log 62. -/
def trackPoolWord (s : State) : W64 := if s.boot.step < 9 then 0 else BitVec.ofNat 64 (s.freeCtxCount + s.liveCtxs.length * 2 ^ 32)

/-- REL_TWIN with the streams mirrored now (R459). -/
def twinWord (s : State) : W64 :=
  let n := if s.primary then (s.media.streams.filter fun x => x.2.dec.mirrored).length else s.twin.mirrors.length
  if s.paired then BitVec.ofNat 64 (nput (s.reg Reg.relTwin).toNat 26 16 n) else s.reg Reg.relTwin

/-- A semaphore as a function reads it (R336). -/
def semWord (s : State) (fn : Fn) (n : Nat) : W64 :=
  let ok := match fn with
    | .pf => true
    | .vf k => match s.partOfVf k.val with
      | some p => decide (s.fld (Reg.qmPart p) 45 32 ≤ n ∧ n ≤ s.fld (Reg.qmPart p) 61 48)
      | none => false
  if ok then BitVec.ofNat 64 (s.sem n).toNat else 0

/-- What the 64 bits at an offset of a register read as. -/
def regView (s : State) (fn : Fn) (row : RegRow) (r : Nat) : W64 :=
  match row.name with
  | "GLB_TIME" => s.clock.timeF
  | "QM_QINFO" => BitVec.ofNat 64 (s.queue (s.fld Reg.qmQsel 15 0)).infoWord
  | "QM_SEMs" => semWord s fn ((r - Reg.qmSem 0) / 4)
  | "QM_CSLOT" => s.slotEntry (s.fld Reg.qmCsel 9 0)
  | "QM_CNOW" => cnowWord s
  | "MEDIA_POOL" => poolWord s
  | "MEDIA_BUFINFO" => bufWord s (s.fld (fnKey fn.num Reg.mediaBufsel) 13 0)
  | "MEDIA_SP0" => policyWord s fn false false
  | "MEDIA_SP1" => policyWord s fn true false
  | "MEDIA_SP0_PEND" => policyWord s fn false true
  | "MEDIA_SP1_PEND" => policyWord s fn true true
  | "TRACK_POOL" => trackPoolWord s
  | "REL_TWIN" => twinWord s
  | _ => s.reg (busKey fn row r)

/-- Clears bits of a register: the rc fields that a read has returned (R10). -/
def rcClear (fn : Fn) (row : RegRow) (r : Nat) (m : W64) (s : State) : State :=
  let rc := BitVec.ofNat 64 row.rc
  if rc &&& m = 0 then s else s.setReg (busKey fn row r) (s.reg (busKey fn row r) &&& ~~~(rc &&& m))

/-- The windows of BAR0 beside its registers: the MSI-X table and pending bits, and the scan-out image. -/
inductive BarWindow where
  | msix (dword : Nat)
  | pba (word : Nat)
  | scan (o : Nat)
deriving DecidableEq, Repr

def barWindow (fn : Fn) (o : Nat) : Option BarWindow :=
  if 0x18000 ≤ o ∧ o < 0x18000 + 16 * fn.vectors then some (.msix ((o - 0x18000) / 4))
  else if 0x14000 ≤ o ∧ o < 0x14000 + fn.vectors / 8 then some (.pba ((o - 0x14000) / 4))
  else if 0x2E8000 ≤ o ∧ o < 0x2F0000 ∧ fn = .pf then some (.scan (o - 0x2E8000))
  else none

/-- Four bytes of a window. -/
def windowRead (s : State) (fn : Fn) : BarWindow → State × Nat
  | .msix d => (s, (s.msixGet (8192 * fn.num + d)).toNat)
  | .pba w => (s, ((List.range 32).map fun i => if tget false s.hif.pend (2048 * fn.num + 32 * w + i) then 2 ^ i else 0).sum)
  | .scan o =>
    if s.fld Reg.dbgSnuff 9 8 = 2 then (s, leAt s.dbg.image (s.fld Reg.dbgScan 31 15 * 32768 + o) 4)
    else (viol s (0x2E8000 + o) 4 0, 0)

/-- An access that reaches no register of the function. -/
def missed (s : State) (fn : Fn) (o : Nat) : State := viol s o 4 (s.violPart fn)

/-- The 64 bits from an offset as a register of 8 bytes or more holds them, the fields `m` of rc cleared. -/
def read64 (fn : Fn) (row : RegRow) (r : Nat) (m : W64) (s : State) : State × W64 :=
  if barred s fn row r false then (denied s fn r, 0) else (rcClear fn row r m s, regView s fn row r)

/-- The register that starts at an offset, or whose further 64 bits do. -/
def wordAt (o : Nat) : Option RegRow :=
  match regAt o with
  | some (row, b) => if o = b ∨ (8 < row.bytes ∧ (o - b) % 8 = 0) then some row else none
  | none => none

/-- A 32-bit register starts at an offset. -/
def shortAt (o : Nat) : Option RegRow :=
  match wordAt o with
  | some row => if row.bytes = 4 then some row else none
  | none => none

/-- Four bytes at an aligned offset: a 32-bit register, or half of a 64-bit one (R355). -/
def read4 (fn : Fn) (o : Nat) (s : State) : State × Nat :=
  let l := tfind s.hif.latch fn.num
  let s := { s with hif := { s.hif with latch := terase s.hif.latch fn.num } }
  match barWindow fn o with
  | some w => windowRead s fn w
  | none =>
    match shortAt o with
    | some row =>
      let (s, v) := read64 fn row o (BitVec.ofNat 64 (2 ^ 32 - 1)) s
      (s, v.toNat % 2 ^ 32)
    | none =>
      match wordAt (o / 8 * 8) with
      | none => (missed s fn o, 0)
      | some row =>
        if row.bytes = 4 then (missed s fn o, 0)
        else if o % 8 = 0 then
          let (s, v) := read64 fn row o (BitVec.ofNat 64 (2 ^ 64 - 1)) s
          let h : Half := ⟨o, BitVec.ofNat 32 (v.toNat / 2 ^ 32)⟩
          ({ s with hif := { s.hif with latch := tput s.hif.latch fn.num h } }, v.toNat % 2 ^ 32)
        else
          match l with
          | some h => if h.off = o - 4 then (s, h.value.toNat) else
              let (s, v) := read64 fn row (o - 4) (BitVec.ofNat 64 (2 ^ 64 - 2 ^ 32)) s
              (s, v.toNat / 2 ^ 32)
          | none =>
            let (s, v) := read64 fn row (o - 4) (BitVec.ofNat 64 (2 ^ 64 - 2 ^ 32)) s
            (s, v.toNat / 2 ^ 32)

/-- Eight bytes at an aligned offset. -/
def read8 (fn : Fn) (o : Nat) (s : State) : State × Nat :=
  let s := { s with hif := { s.hif with latch := terase s.hif.latch fn.num } }
  match barWindow fn o with
  | some (.scan o) =>
    let (s, a) := windowRead s fn (.scan o)
    (s, if s.fld Reg.dbgSnuff 9 8 = 2 then a + (windowRead s fn (.scan (o + 4))).2 * 2 ^ 32 else 0)
  | some _ =>
    let (s, a) := read4 fn o s
    let (s, b) := read4 fn (o + 4) s
    (s, a + b * 2 ^ 32)
  | none =>
    match shortAt o with
    | some _ =>
      let (s, a) := read4 fn o s
      if (shortAt (o + 4)).isSome then
        let (s, b) := read4 fn (o + 4) s
        (s, a + b * 2 ^ 32)
      else (s, a)
    | none =>
      match wordAt o with
      | some row =>
        let (s, v) := read64 fn row o (BitVec.ofNat 64 (2 ^ 64 - 1)) s
        (s, v.toNat)
      | none => (missed s fn o, 0)

/-- `n` consecutive 8-byte reads. -/
def readRun (fn : Fn) : Nat → Nat → State → State × List Byte
  | 0, _, s => (s, [])
  | n + 1, o, s =>
    let (s, v) := read8 fn o s
    let (s, bs) := readRun fn n (o + 8) s
    (s, leBytes 8 v ++ bs)

/-- A BAR0 access of a size or alignment that R355 does not accept. -/
def malformed (o n : Nat) : Bool := !((n == 4 && o % 4 == 0) || (n != 0 && n % 8 == 0 && o % 8 == 0))

/-- A BAR0 read; what it returned stands in `hif.reply`, and its bytes are counted. -/
def bar0Read (fn : Fn) (o n : Nat) (s : State) : State :=
  let s := bump s 89 n
  if n = 0 then s
  else if malformed o n then
    let s := viol { s with hif := { s.hif with latch := terase s.hif.latch fn.num } } o 7 (s.violPart fn)
    { s with hif := { s.hif with reply := some ⟨List.replicate n 0, false⟩ } }
  else
    let (s, bs) := if n = 4 then
        (let (s, v) := read4 fn o s
         (s, leBytes 4 v))
      else readRun fn (n / 8) o s
    { s with hif := { s.hif with reply := some ⟨bs, false⟩ } }

/-! ### Writes -/

/-- Clearing GLB_PPS.EN ends alignment at once (R360). -/
def ppsWrite (fn : Fn) (row : RegRow) (v : W64) (s : State) : State :=
  let s := plainPut fn row Reg.glbPps v s
  if nbit v.toNat 0 then s
  else { s with clock := { s.clock with hold := 0, ppsQueued := false } }.setBit Reg.glbPpsStat 32 false

/-- QM_QCMD (R189). -/
def qcmdWrite (fn : Fn) (v : Nat) (s : State) : State :=
  let q : BitVec 16 := BitVec.ofNat 16 v
  match nbits v 19 16 with
  | 1 => act (.enable fn q) s
  | 2 => act (.disable fn q) s
  | 3 => act (.cancel fn q) s
  | 4 => act (.resume fn q) s
  | 5 => act (.resumeSkip fn q) s
  | _ => dropCmd s fn Reg.qmQcmd

/-- MMU_INV_CMD (R49). -/
def invWrite (fn : Fn) (v : Nat) (s : State) : State :=
  let p : Fin 16 := Fin.ofNat 16 v
  match nbits v 5 4 with
  | 0 => act (.invPartition fn p) s
  | 1 => act (.invRange fn p) s
  | 2 => act (.invSlot fn p (Fin.ofNat 1024 (nbits v 15 6))) s
  | _ => dropCmd s fn Reg.mmuInvCmd

/-- MEDIA_SCMD (R237). -/
def scmdWrite (fn : Fn) (v : Nat) (s : State) : State :=
  let h : Fin 1024 := Fin.ofNat 1024 v
  match nbits v 15 12 with
  | 1 => act (.mediaOpen fn h) s
  | 2 => act (.mediaOpenEnc fn h) s
  | 3 => act (.mediaClose fn h) s
  | 4 => act (.mediaFlush fn h) s
  | 5 => act (.mediaSkipToRap fn h) s
  | 6 => act (.mediaForceIdr fn h) s
  | _ => dropCmd s fn Reg.mediaScmd

/-- TRACK_CMD (R309). -/
def tcmdWrite (fn : Fn) (v : Nat) (s : State) : State :=
  let h : Fin 1024 := Fin.ofNat 1024 v
  match nbits v 15 12 with
  | 1 => act (.bind fn h) s
  | 2 => act (.unbind fn h) s
  | 3 => act (.clear fn h) s
  | _ => dropCmd s fn Reg.trackCmd

/-- MEDIA_RELEASE (R245). -/
def releaseWrite (fn : Fn) (v : Nat) (s : State) : State :=
  let b : Fin 16384 := Fin.ofNat 16384 v
  let s := if nbit v 16 then act (.releaseOut fn b) s else s
  if nbit v 17 then act (.releaseHold fn b) s else s

/-- A COMMIT register: COMMIT_REJECTED is cleared by a 1, and GO commits. -/
def commitWrite (fn : Fn) (row : RegRow) (r : Nat) (v : W64) (k : State → State) (s : State) : State :=
  let s := plainPut fn row r v s
  if nbit v.toNat 0 then k s else s

/-- A register of the CAP shadow set of a function (R270). -/
def capWrite (fn : Fn) (row : RegRow) (r : Nat) (v : W64) (s : State) : State :=
  { s with capture := { s.capture with pend := tput s.capture.pend (fnKey fn.num r) (v &&& rwMask row r) } }

/-- A write of the 64 bits of a register at an offset, in the form its block takes it. -/
def regPut (fn : Fn) (row : RegRow) (r : Nat) (v : W64) (s : State) : State :=
  let n := v.toNat
  let i := (r - row.off) / row.stride
  match row.name with
  | "GLB_TIME" => glbTimeWrite fn v s
  | "GLB_PPS" => ppsWrite fn row v s
  | "HIF_MAIL_DB" => if nbit n 0 then mailDoorbell fn s else s
  | "QM_QTAB" => act (.registerWrite fn r (leBytes 8 n)) s
  | "MMU_INV_ADDR" => act (.registerWrite fn r (leBytes 8 n)) s
  | "HEARTH_RTABt" => act (.registerWrite fn r (leBytes 8 n)) s
  | "QM_QCMD" => qcmdWrite fn n s
  | "QM_SEMOP" =>
    let x : BitVec 14 := BitVec.ofNat 14 n
    act (if nbit n 15 then .semopSet fn x (BitVec.ofNat 32 (n / 2 ^ 32)) else .semopAdd fn x (BitVec.ofNat 32 (n / 2 ^ 32))) s
  | "MMU_ROOT" => { s with mmu := { s.mmu with pend := tput s.mmu.pend r (v &&& rwMask row r) } }
  | "MMU_SEQROOT" => { s with mmu := { s.mmu with pend := tput s.mmu.pend r (v &&& rwMask row r) } }
  | "MMU_APERa" => { s with mmu := { s.mmu with pend := tput s.mmu.pend r (v &&& rwMask row r) } }
  | "MMU_INV_CMD" => invWrite fn n s
  | "MMU_COMMIT" => commitWrite fn row r v (mmuCommit fn) s
  | "MEDIA_SCMD" => scmdWrite fn n s
  | "MEDIA_RELEASE" => releaseWrite fn n s
  | "MEDIA_RECON_REQ" => act (.reconReq fn (Fin.ofNat 1024 n) (nbit n 31) (BitVec.ofNat 32 (n / 2 ^ 32))) s
  | "MEDIA_SP0_PEND" => { s with media := { s.media with pend := tput s.media.pend (fnKey fn.num r) (v &&& rwMask row r) } }
  | "MEDIA_SP1_PEND" => { s with media := { s.media with pend := tput s.media.pend (fnKey fn.num r) (v &&& rwMask row r) } }
  | "MEDIA_COMMIT" => commitWrite fn row r v (mediaCommit fn) s
  | "MEDIA_DBs" => act (.mediaDoorbell fn (Fin.ofNat 1024 i) v []) s
  | "CAP_PORTn" => capWrite fn row r v s
  | "CAP_SENSORs" => capWrite fn row r v s
  | "CAP_COMMIT" => commitWrite fn row r v (capCommit fn) s
  | "CAP_FSYNCnA" => act (.fsyncWordA fn (Fin.ofNat 4 i) v) s
  | "CAP_FSYNCnB" => act (.fsyncWordB fn (Fin.ofNat 4 i) v) s
  | "SHAPE_RINGp" => act (.shapeRingWrite fn (Fin.ofNat 16 i) v) s
  | "SHAPE_DBp" => act (.shapeDoorbell fn (Fin.ofNat 16 i) (BitVec.ofNat 32 n)) s
  | "INGEST_RINGc" => act (.registerWrite fn r (leBytes 8 n)) s
  | "INGEST_DBc" => act (.registerWrite fn r (leBytes 8 n)) s
  | "INGEST_PARAMc" => if mayChan s fn i then plainPut fn row r v s else denied s fn r
  | "INGEST_STATc" => if mayChan s fn i then s else denied s fn r
  | "SHAPE_HEADp" => if s.mayPart fn i then s else denied s fn r
  | "TRACK_HEADp" => if s.mayPart fn i then s else denied s fn r
  | "TRACK_CMD" => tcmdWrite fn n s
  | "TRACK_RINGp" => act (.trackRingWrite fn (Fin.ofNat 16 i) v) s
  | "TRACK_DBp" => act (.trackDoorbell fn (Fin.ofNat 16 i) (BitVec.ofNat 32 n)) s
  | "TRACK_MDBs" => act (.trackMdb fn (Fin.ofNat 1024 i) (BitVec.ofNat 32 n)) s
  | "DBG_SNUFF" => snuffWrite fn v s
  | "DBG_MATCH" => matchWrite fn v s
  | "DBG_CNTCMD" => cntReset fn (BitVec.ofNat 8 n) s
  | "DBG_TRACE_CFG" => traceCfgWrite fn v s
  | "DBG_SCAN" => scanWrite fn v s
  | "SEC_PUSH" => secPush fn (n % 8) s
  | _ => plainPut fn row r v s

/-- A register written whole, when the function may write it. -/
def write64 (fn : Fn) (row : RegRow) (r : Nat) (v : W64) (s : State) : State :=
  if barred s fn row r true then denied s fn r else regPut fn row r v s

/-- Four bytes of the MSI-X table; the pending bits and the image are read-only. A vector unmasked sends what is pending (R368). -/
def windowWrite (fn : Fn) (v : Nat) (s : State) : BarWindow → State
  | .msix d =>
    let k := 8192 * fn.num + d
    let s := s.msixSet k (BitVec.ofNat 32 (if d % 4 = 3 then v % 2 else v))
    if d % 4 = 3 ∧ v % 2 = 0 then msixUnmask fn (Fin.ofNat 2048 (d / 4)) s else s
  | _ => s

/-- What the high half of a register leaves in its low half when it is written alone (R355): the low half as it stands, which for a register of a
shadow set is the one that the next commit would take (R11, R384). -/
def lowHalf (s : State) (fn : Fn) (row : RegRow) (r : Nat) : Nat :=
  let v := match row.name with
    | "MMU_ROOT" => s.mmuPend r
    | "MMU_SEQROOT" => s.mmuPend r
    | "MMU_APERa" => s.mmuPend r
    | "CAP_SENSORs" => capPend s fn.num r
    | _ => regView s fn row r
  (v &&& rwMask row r).toNat % 2 ^ 32

/-- A 4-byte write at an aligned offset, after BAR0 has let go of a half that it does not complete (R355). -/
def write4 (fn : Fn) (o : Nat) (v : W32) (s : State) : State :=
  let held := match tfind s.hif.held fn.num with
    | some h => if h.off + 4 = o then some h else none
    | none => none
  let s := if held.isSome then { s with hif := { s.hif with held := terase s.hif.held fn.num } } else s.dropHeld fn
  match barWindow fn o with
  | some w => windowWrite fn v.toNat s w
  | none =>
    match shortAt o with
    | some row => write64 fn row o (BitVec.ofNat 64 v.toNat) s
    | none =>
      match wordAt (o / 8 * 8) with
      | none => missed s fn o
      | some row =>
        if row.bytes = 4 then missed s fn o
        else if o % 8 = 0 then { s with hif := { s.hif with held := tput s.hif.held fn.num ⟨o, v⟩ } }
        else
          let lo := match held with
            | some h => h.value.toNat
            | none => lowHalf s fn row (o - 4)
          write64 fn row (o - 4) (BitVec.ofNat 64 (lo + v.toNat * 2 ^ 32)) s

/-- An 8-byte write at an aligned offset. -/
def write8 (fn : Fn) (o : Nat) (v : W64) (s : State) : State :=
  let s := s.dropHeld fn
  let lo : W32 := BitVec.ofNat 32 v.toNat
  let hi : W32 := BitVec.ofNat 32 (v.toNat / 2 ^ 32)
  match barWindow fn o with
  | some w => (match barWindow fn (o + 4) with
      | some w' => windowWrite fn hi.toNat (windowWrite fn lo.toNat s w) w'
      | none => windowWrite fn lo.toNat s w)
  | none =>
    match shortAt o with
    | some _ =>
      let s := write4 fn o lo s
      if (shortAt (o + 4)).isSome then write4 fn (o + 4) hi s else s
    | none =>
      match wordAt o with
      | some row => write64 fn row o v s
      | none => missed s fn o

/-- `n` consecutive 8-byte writes. -/
def writeRun (fn : Fn) : Nat → Nat → List Byte → State → State
  | 0, _, _, s => s
  | n + 1, o, bs, s => writeRun fn n (o + 8) (bs.drop 8) (write8 fn o (BitVec.ofNat 64 (leAt bs 0 8)) s)

/-- A BAR0 write. -/
def bar0Write (fn : Fn) (o : Nat) (bs : List Byte) (s : State) : State :=
  let n := bs.length
  pastFlr fn (fun s =>
  if n = 0 then s
  else if malformed o n then viol (s.dropHeld fn) o 7 (s.violPart fn)
  else if n = 4 then write4 fn o (BitVec.ofNat 32 (leNat bs)) s
  else writeRun fn (n / 8) o bs s) (bump s 88 n)

/-! ### Meanings -/

/-- REGISTER_WRITE (R8). -/
def execRegisterWrite (fn : Fn) (off : Nat) (data : List Byte) (s : State) : Out := live s (bar0Write fn off data)
/-- RC_READ (R10). -/
def execRcRead (fn : Fn) (off len : Nat) (s : State) : Out := live s (bar0Read fn off len)
/-- BAR0_HALF_WRITE (R355). -/
def execBar0HalfWrite (fn : Fn) (off : Nat) (value : W32) (s : State) : Out := live s (bar0Write fn off (leBytes 4 value.toNat))
/-- BAR0_HALF_READ (R355). -/
def execBar0HalfRead (fn : Fn) (off : Nat) (s : State) : Out := live s (bar0Read fn off 4)

end Sys2Proof.Machine
end

