-- ==== Sys2Proof/Machine/Ember.lean ====
section
/-!
DEFINITION. The Ember log writer (R442, R445), a held NOTICE for each new entry (R364, R365), and the SMBus target (R371 to
R373).
-/
namespace Sys2Proof.Machine

/-- Address of entry number `n`. -/
def emberAddr (n : Nat) : Nat := emberBase + 32 * (n % 4096)

/-- The 32 bytes of a new entry (R442). -/
def emberEntry (src : Nat) (r : Report) (dropped seq : Nat) : List Byte :=
  leBytes 8 r.time.toNat ++ leBytes 1 src ++ leBytes 1 (if 65535 < dropped then 2 else 0) ++ leBytes 2 r.code.toNat ++ leBytes 2 1 ++
  leBytes 2 (min dropped 65535) ++ leBytes 4 r.a0.toNat ++ leBytes 4 r.a1.toNat ++ leBytes 4 r.a2.toNat ++ leBytes 4 seq

/-- SEQ of the next entry, and whether entry `n` still exists. -/
def State.nextSeq (s : State) : Nat := s.fld Reg.relLog 31 0
def State.emberHas (s : State) (n : Nat) : Bool :=
  let d := (s.nextSeq + 2 ^ 32 - n) % 2 ^ 32
  decide (1 ≤ d ∧ d ≤ s.ember.count)

/-- The newest entry of a source takes the report (R445 step 3): same code and arguments, less than 1 ms before
the report. -/
def State.coalesces (s : State) (src : Nat) (r : Report) : Option Nat :=
  match tget 0 s.ember.newest src with
  | 0 => none
  | n + 1 =>
    let e := mread s.mem (emberAddr n) 32
    if s.emberHas n && leAt e 10 2 == r.code.toNat && leAt e 16 4 == r.a0.toNat && leAt e 20 4 == r.a1.toNat &&
      leAt e 24 4 == r.a2.toNat && decide (leAt e 0 8 ≤ r.time.toNat ∧ r.time.toNat < leAt e 0 8 + 1000000) then some n else none

/-- Bytes of device memory stored by the log writer. -/
def logStore (s : State) (a : Nat) (bs : List Byte) : State :=
  { s with mem := mwrite s.mem a bs, poison := s.unpoison a bs.length }

/-- REPEAT and DROPPED of an entry raised, saturating at 65,535 with their flags. -/
def bumpEntry (s : State) (n dropped : Nat) : State :=
  let a := emberAddr n
  let rep := s.num (a + 12) 2 + 1
  let dr := s.num (a + 14) 2 + dropped
  let fl := s.num (a + 9) 1
  let fl := if 65535 < rep ∧ fl % 2 = 0 then fl + 1 else fl
  let fl := if 65535 < dr ∧ fl / 2 % 2 = 0 then fl + 2 else fl
  logStore (logStore s (a + 9) (leBytes 1 fl)) (a + 12) (leBytes 2 (min rep 65535) ++ leBytes 2 (min dr 65535))

/-- Firmware holds a NOTICE, at most 16; the oldest is dropped and counted (R365). Only in a session with NOTICE (R367). -/
def holdNotice (src : Nat) (code : BitVec 16) (s : State) : State :=
  if s.mail.up && !s.boot.fwStopped && s.mail.features.toNat.testBit 33 then
    let q := s.mail.notices ++ [(BitVec.ofNat 8 src, code)]
    if q.length ≤ 16 then { s with mail := { s.mail with notices := q } }
    else { s with mail := { s.mail with notices := q.tail, dropped := s.mail.dropped + 1 } }
  else s

/-- The first report of a source since the FIRST registers were cleared leaves a copy of its entry in REL_FIRST (R445 step 5). -/
def keepFirst (src n : Nat) (s : State) : State :=
  let f := Reg.relFirst src
  if s.reg (f + 8) = 0 then
    (List.range 4).foldl (fun s i => s.setReg (f + 8 * i) (BitVec.ofNat 64 (leAt (mread s.mem (emberAddr n) 32) (8 * i) 8))) s
  else s

/-- A new entry: it overwrites the oldest once 4,096 exist, and the first of its source is kept in REL_FIRST. -/
def newEntry (s : State) (src : Nat) (r : Report) (dropped : Nat) : State :=
  let n := s.nextSeq
  let s := logStore s (emberAddr n) (emberEntry src r dropped n)
  let s := if s.ember.count < 4096 then s else s.addSat Reg.relLog 63 32 1
  let s := s.setFld Reg.relLog 31 0 (n + 1)
  let s := { s with ember := { s.ember with count := min 4096 (s.ember.count + 1), newest := tset 0 s.ember.newest src (n + 1) } }
  holdNotice src r.code (keepFirst src n s)

/-- The next source with a pending report after the one served last. -/
def State.nextSource (s : State) : Option Nat :=
  ((List.range 14).map fun i => (s.ember.turn + i) % 14 + 1).find? fun src => !(tget [] s.ember.queues src).isEmpty

/-- EMBER_WRITE: one report, round-robin over the sources, coalesced or in a new entry. -/
def emberWrite (s : State) : State :=
  match s.nextSource with
  | none => s
  | some src =>
    match tget [] s.ember.queues src with
    | [] => s
    | r :: q =>
      let d := tget 0 s.ember.dropped src
      let s := { s with ember := { s.ember with queues := tset [] s.ember.queues src q, dropped := tset 0 s.ember.dropped src 0, turn := src } }
      match s.coalesces src r with
      | some n => keepFirst src n (bumpEntry s n d)
      | none => newEntry s src r d

/-! ### SMBus (R371 to R373) -/

/-- One bit step of the SMBus packet error code, x^8 + x^2 + x + 1. -/
def pecBit : Nat → Nat → Nat
  | 0, c => c
  | n + 1, c => pecBit n (if c ≥ 128 then (2 * c % 256) ^^^ 7 else 2 * c)

/-- The packet error code of a read: address and write bit, command, address and read bit, data. -/
def pecOf (addr cmd : Nat) (bs : List Byte) : Byte :=
  BitVec.ofNat 8 (([2 * addr, cmd, 2 * addr + 1] ++ bs.map (·.toNat)).foldl (fun c b => pecBit 8 (c ^^^ b)) 0)

/-- A read command answered (R371): not at all where the SMBUS TLV turns it off, or requires a valid PEC that does not come (R382). `pec` says whether
the controller clocks a PEC, and whether it holds: a bad one discards a write alone, and every command is a read. -/
def smb (pec : Option Bool) (cmd : Nat) (off : Bool) (k : State → State × List Byte) (s : State) : State :=
  if off || (s.smbus.pecRequired && pec != some true) then { s with smbus := { s.smbus with reply := none } }
  else
    let (s, bs) := k s
    { s with smbus := { s.smbus with reply := some (if pec.isSome then bs ++ [pecOf (0x58 + s.pins.smbAddr.toNat) cmd bs] else bs) } }

/-- An unsupported command code is acknowledged, and the data byte that follows is not: nothing is returned (R371). The table has no row for it
(log 63). -/
def smbUnsupported (s : State) : State := { s with smbus := { s.smbus with reply := none } }

/-- A block read: the byte count, then the bytes. -/
def block (bs : List Byte) : List Byte := leBytes 1 bs.length ++ bs

/-- IDENTITY: GLB_ID, GLB_UID, the firmware version, the mail version. -/
def smbIdentity (s : State) : State × List Byte :=
  (s, block (leBytes 8 (s.reg Reg.glbId).toNat ++ leBytes 8 (s.reg Reg.glbUid).toNat ++ leBytes 4 (s.fld Reg.secVersions 63 32) ++
    leBytes 2 (s.fld Reg.hifMailStat 15 8) ++ leBytes 2 (s.fld Reg.hifMailStat 23 16)))

/-- STATUS: the GLB_STATUS bits and the log flags, which are then cleared. -/
def smbStatus (s : State) : State × List Byte :=
  let w := s.fld Reg.glbStatus 5 0 + 256 * s.smbus.lapped.toNat + 512 * s.smbus.empty.toNat
  ({ s with smbus := { s.smbus with lapped := false, empty := false } }, leBytes 2 w)

/-- EMBER_TAIL: the entry at the cursor, which moves on; a byte count of 0 with LOG_EMPTY, or the oldest survivor with
LOG_LAPPED. -/
def smbEmberTail (s : State) : State × List Byte :=
  let next := s.nextSeq
  let c := match s.smbus.cursor with
    | some c => c
    | none => (next + 2 ^ 32 - 1) % 2 ^ 32
  let d := (next + 2 ^ 32 - c) % 2 ^ 32
  if s.ember.count = 0 ∨ d = 0 then ({ s with smbus := { s.smbus with empty := true } }, [0])
  else
    let lap := decide (s.ember.count < d)
    let c := if lap then (next + 2 ^ 32 - s.ember.count) % 2 ^ 32 else c
    let bs := mread s.mem (emberAddr c) 32
    ({ s with smbus := { s.smbus with cursor := some ((c + 1) % 2 ^ 32), lapped := s.smbus.lapped || lap } }, block bs)

/-- REPLACE: why the device asks to be replaced. -/
def smbReplace (s : State) : State × List Byte :=
  let up := decide (7 ≤ s.boot.step)
  let b := (s.bit Reg.glbStatus 2).toNat + 2 * (s.bit Reg.pwrStatus 45).toNat +
    4 * (up && s.fld Reg.glbCaps2 31 16 != 0xFFFF).toNat +
    8 * (decide (s.fabric.modFailed ≠ 0 ∨ s.fabric.flueFailed ≠ 0)).toNat + 16 * (up && s.chanMask != 0xFFFF).toNat
  (s, leBytes 1 b)

/-! ### Meanings -/

/-- EMBER_WRITE (R445). -/
def execEmberWrite (s : State) : Out := live s emberWrite
/-- IDENTITY (R372). -/
def execSmbIdentity (pec : Option Bool) (s : State) : Out := live s (smb pec 1 false smbIdentity)
/-- STATUS (R373). -/
def execSmbStatus (pec : Option Bool) (s : State) : Out := live s (smb pec 2 false smbStatus)
/-- TEMP (R372). -/
def execSmbTemp (pec : Option Bool) (s : State) : Out :=
  live s (smb pec 3 false fun s => (s, leBytes 2 (s.fld Reg.pwrTemp1 31 16)))
/-- TEMP_ALL (R372). -/
def execSmbTempAll (pec : Option Bool) (s : State) : Out :=
  live s (smb pec 4 false fun s => (s, block (leBytes 8 (s.reg Reg.pwrTemp0).toNat ++ leBytes 2 (s.fld Reg.pwrTemp1 15 0))))
/-- POWER (R372). -/
def execSmbPower (pec : Option Bool) (s : State) : Out :=
  live s fun s => smb pec 5 s.smbus.powerOff (fun s => (s, leBytes 2 (s.fld Reg.pwrPower 15 0))) s
/-- POWER_CAP (R372). -/
def execSmbPowerCap (pec : Option Bool) (s : State) : Out :=
  live s fun s => smb pec 6 s.smbus.powerOff (fun s => (s, leBytes 2 (s.fld Reg.pwrPower 47 32))) s
/-- EMBER_TAIL (R373). -/
def execSmbEmberTail (pec : Option Bool) (s : State) : Out :=
  live s fun s => smb pec 7 s.smbus.tailOff smbEmberTail s
/-- REPLACE (R372). -/
def execSmbReplace (pec : Option Bool) (s : State) : Out := live s (smb pec 8 false smbReplace)

end Sys2Proof.Machine
end

