-- ==== Sys2Proof/Machine/Idle.lean ====
section
/-!
DEFINITION. Entering DEEP_IDLE (R424, R425); IDLE_EXIT and the wake stand in Machine/Mail.lean. And what the block does when no command waits.
-/
namespace Sys2Proof.Machine

/-- The conditions of R424. -/
def State.quiescent (s : State) : Bool :=
  (s.qm.queues.all fun x => x.2.items.isEmpty && (x.2.state == .disabled || x.2.head == x.2.tail)) &&
  s.media.streams.isEmpty && s.capture.sensors.isEmpty && (s.ingest.all fun c => c.2.st == 0) && s.track.bound.isEmpty && s.pipes.isEmpty &&
  s.shaper.run.isNone && (s.shaper.rings.all fun r => !r.2.en || r.2.head == r.2.tail) && (s.track.rings.all fun r => !r.2.en || r.2.head == r.2.tail) &&
  !s.bit Reg.glbStatus 4 && !s.snuffed && !s.stopped

/-- An address of a core buffer or a Hearth buffer. -/
def inHearths (a : Nat) : Bool := decide (bufBase ≤ a) && decide (a < bufBase + 0x10000000)

/-- What is lost with the Hearth rails (R425). -/
def hearthsLost (s : State) : State :=
  let s := { s with
    mem := s.mem.filter fun x => !inHearths x.1
    poison := s.poison.filter fun x => !inHearths x.1
    qm := { s.qm with cores := tmap {} (fun c => { c with progs := [], vregs := [], preds := [], slots := [], bcast := [], lut := [], primary := {}, shadow := {} }) s.qm.cores } }
  (List.range 16).foldl (fun s c => s.setReg (Reg.hearthEpstat c) 0) s

/-- DEEP_IDLE is entered: grant hold, self-refresh, Sweep suspended, rails off, and the link in L1 where the host has enabled ASPM L1 (R423). -/
def deepIdle (s : State) : State :=
  let s := (s.setBit Reg.pwrStatus 44 true).setBit Reg.relSweep 48 true
  let s := hearthsLost (hpwrOff { s with fabric := { s.fabric with selfRefresh := true }, sweep := { s.sweep with resumed := 0xFFFF }
                                         hif := { s.hif with l1 := (s.configOf .pf).aspmL1 }, pwr := { s.pwr with seq := .idle } })
  s.setFld Reg.pwrStatus 41 40 1

/-- IDLE_ENTER: OK when the device is quiescent, else BUSY. -/
def idleEnter (s : State) : State :=
  onRequest 0x203 0 (fun r s =>
    if s.pwrState = 1 then reply 0x203 r.seq 0 [] s
    else if s.pwrState = 0 && s.quiescent then deepIdle (reply 0x203 r.seq 0 [] s)
    else reply 0x203 r.seq 6 [] s) s

/-- The block when no command waits (log 9): one tick of the AON-clock, at which waits of the tracker for metadata space begin to be counted (R328) and
Bellows prefetches for NEXT descriptors (R198). -/
def quietTick (s : State) : State :=
  let t := idle s
  if t.ready && !t.stopped then (List.range 16).foldl prefetchNext ((List.range 16).foldl (fun s p => metaWaits p s) t) else t

/-- IDLE_ENTER (R424). -/
def execIdleEnter (s : State) : Out := live s idleEnter

end Sys2Proof.Machine
end

