-- ==== Sys2Proof/Machine/Reset.lean ====
section
/-!
DEFINITION. Resets (R402, R446, R479, R481, R482) and function-level resets (R369).
-/
namespace Sys2Proof.Machine

/-! ### What a full reset keeps (R402) -/

/-- The boot state after a full reset: on-chip flash, the NVM, and what flash records for the next start; the repair map is read from the journal. -/
def Boot.afterReset (b : Boot) (step : Nat) : Boot :=
  { step := step, flashA := b.flashA, flashB := b.flashB, counters := b.counters, mapRecord := b.mapRecord, marginRecord := b.marginRecord
    repairMap := (recordRead b.mapRecord).getD [], march := b.march, nvm := b.nvm, nvmSize := b.nvmSize
    nextChannels := b.nextChannels, nextHearths := b.nextHearths }

/-- Registers whose value stands in the journal: the anti-rollback counters and M_n. -/
def flashKey (k : Nat) : Bool := k == Reg.secArb0 || k == Reg.secArb1 || k == Reg.pwrMargin

/-- Word `i` of a record of the journal as a reader takes it. -/
def journalWord (r : JournalRecord) (i : Nat) : W64 := BitVec.ofNat 64 (((recordRead r).getD []).getD i 0)

/-- The registers that the journal gives at a start (R435). -/
def flashRegs (b : Boot) (t : Tab W64) : Tab W64 :=
  rset (rset (rset t Reg.secArb0 (journalWord b.counters 0)) Reg.secArb1 (journalWord b.counters 1)) Reg.pwrMargin (journalWord b.marginRecord 0)

/-- The release of the reset that POR_N, VDD_AON or REFCLK held: everything but flash and the outside of the device starts again, with the straps
sampled (R374). -/
def fullReset (bootSrc twinRole : BitVec 2) (smbAddr : BitVec 3) (s : State) : State :=
  { regs := flashRegs s.boot []
    hostMem := s.hostMem
    pins := { porLow := s.pins.porLow, perstLow := s.pins.perstLow, refclkLost := s.pins.refclkLost, aonLow := s.pins.aonLow, bootSrc := bootSrc
              twinRole := twinRole, smbAddr := smbAddr, jtagIr := s.pins.jtagIr, jtagOut := s.pins.jtagOut, jtagBoundary := s.pins.jtagBoundary }
    boot := s.boot.afterReset 0
    free := s.free
    pending := s.pending }

/-- While a reset is held, HPWR_EN is low (R479); a journal write that the reset interrupts is torn (R435). HPWR_EN goes high again at step 5 of R24, which
the times of R24 put more than 2 ms later. -/
def holdReset (s : State) : State := hpwrOff (journalTear s)

/-- A hold of the device's reset has ended: the reset is released once none is left. -/
def release (bootSrc twinRole : BitVec 2) (smbAddr : BitVec 3) (s : State) : State :=
  if s.inReset then { s with pins := { s.pins with bootSrc := bootSrc, twinRole := twinRole, smbAddr := smbAddr } }
  else fullReset bootSrc twinRole smbAddr s

/-- POR_ASSERT: pulses below 1 µs are ignored, from 10 µs on the device enters reset (R482); between the two it is open (log 15). -/
def porAssert (lowNs : Nat) (s : State) : State :=
  if lowNs < 1000 ∨ (lowNs < 10000 ∧ !Config.shortPor lowNs) then s
  else holdReset { s with pins := { s.pins with porLow := true } }

/-- POR_RELEASE. The balls that EXTEST, CLAMP or HIGHZ has taken are the device's again (R486). -/
def porRelease (bootSrc twinRole : BitVec 2) (smbAddr : BitVec 3) (s : State) : State :=
  if s.pins.porLow then release bootSrc twinRole smbAddr { s with pins := { s.pins with porLow := false, balls := .device } } else s

/-- AON_BROWNOUT: from 1 µs on, as if POR_N were low (R481). -/
def aonBrownout (lowNs : Nat) (s : State) : State :=
  if lowNs < 1000 then s else holdReset { s with pins := { s.pins with aonLow := true } }

/-- VDD_AON_RETURN. The strap balls are ignored until POR_N is released (R483). -/
def aonReturn (s : State) : State :=
  if s.pins.aonLow then release s.pins.bootSrc s.pins.twinRole s.pins.smbAddr { s with pins := { s.pins with aonLow := false } } else s

/-- REFCLK_LOSS: no edge for 1 µs resets the device as POR_N does (R482). -/
def refclkLoss (quietNs : Nat) (s : State) : State :=
  if quietNs < 1000 then s else holdReset { s with pins := { s.pins with refclkLost := true } }

/-- REFCLK_RETURN, and the 100 µs after it. The straps stay as the last release of POR_N has sampled them (R483). -/
def refclkReturn (s : State) : State :=
  if s.pins.refclkLost then release s.pins.bootSrc s.pins.twinRole s.pins.smbAddr { s with pins := { s.pins with refclkLost := false } } else s

/-! ### Function-level resets (R369) -/

/-- Writes of a function that wait for the resume are dropped, without being counted (step 1). -/
def forgetWrites (fn : Fn) (s : State) : State :=
  { s with dbg := { s.dbg with recorded := s.dbg.recorded.filter fun i => writerOf i != some fn } }

/-- Step 2: a queue is cancelled (R210). -/
def flrQueue (s : State) (q : Nat) : State :=
  let p := (s.queue q).part
  promote p (cancelDrained q (if (s.queue q).state == .cancelling then s else cancelQueue q s))

/-- Steps 3 and 4: the rings and the ingest channels of a partition stop. -/
def flrRings (p : Nat) (s : State) : State :=
  let off := fun (k : Nat) (s : State) => s.reg k &&& ~~~1
  let s := shapeRingWrite .pf p (off (Reg.shapeRing p) s) s
  let s := trackRingWrite .pf p (off (Reg.trackRing p) s) s
  ((List.range 16).filter fun c => (s.chan c).st != 0 && pPart (s.chan c).par == p).foldl
    (fun s c => ingestRingWrite .pf c (off (Reg.ingestRing c) s) s) s

/-- Step 5: a media stream is closed (R237). -/
def flrStream (s : State) (h : Nat) : State := closeStep h (closeStream h s)

/-- Step 5: a tracker stream is unbound, once the op in progress has finished (R309). -/
def flrBound (s : State) (h : Nat) : State := trackCmdStep (s.modBound h fun x => { x with leaving := true })

/-- Steps 2 to 6 for a partition. -/
def flrPart (p : Nat) (s : State) : State :=
  let s := ((s.queuesOf p).map (·.1)).foldl flrQueue s
  let s := flrRings p s
  let media := s.media.streams.filter fun x => pPart x.2.par == p && (isDecode x.2.kind || isEncode x.2.kind)
  let s := (media.map (·.1)).foldl flrStream s
  let s := ((s.track.bound.filter fun x => bPart x.2.par == p).map (·.1)).foldl flrBound s
  ((s.media.pool.filter fun b => b.2.part == p).map (·.1)).foldl (fun s b => setMark b mkHold false s) s

/-- Step 7: HIF_B2WIN, the MSI-X table, the configuration space and what BAR0 holds of a function's half accesses. -/
def flrFunction (f : Nat) (s : State) : State :=
  let h := s.hif
  let s := { s with hif := { h with held := terase h.held f, latch := terase h.latch f, msix := h.msix.filter (fun x => x.1 / 8192 != f),
                                    pend := h.pend.filter (fun x => x.1 / 2048 != f), config := terase h.config f } }
  s.setReg (fnKey f Reg.hifB2win) 0

/-- Step 1: the reset of a function lasts while its partitions drain. -/
def flrHold (f : Nat) (ps : List Nat) (s : State) : State := flrSettle { s with hif := { s.hif with flr := tput s.hif.flr f ps } }

/-- VF_FLR. -/
def vfFlr (n : Fin 16) (s : State) : State :=
  let s := forgetWrites (.vf n) s
  match s.partOfVf n.val with
  | some p => flrHold (n.val + 1) [p] (flrFunction (n.val + 1) (flrPart p s))
  | none => flrFunction (n.val + 1) s

/-- The mail area starts again (R363): MAGIC is cleared first. -/
def restartMail (s : State) : State :=
  if s.mail.up && !s.boot.fwStopped then
    mailInit { (devWrite .mantel s mailBase (leBytes 4 0)) with mail := { s.mail with features := 0 } }
  else s

/-- A partition carries an enabled autonomous pipeline. -/
def carriesPipe (s : State) (p : Nat) : Bool := s.pipes.any fun x => plPart x.2.par == p

/-- The steps of a VF's reset for a partition, with the function that it is mapped to. -/
def flrMapped (s : State) (p : Nat) : State :=
  match (List.finRange 16).find? fun n => s.partOfVf n.val == some p with
  | some n => flrHold (n.val + 1) [p] (flrFunction (n.val + 1) (flrPart p (forgetWrites (.vf n) s)))
  | none => flrPart p s

/-- PF_FLR. The first drop of an outage stays told while the link is down (R370). -/
def pfFlr (s : State) : State :=
  let ps := (List.range 16).filter fun p => s.partEn p && !carriesPipe s p
  let s := ps.foldl flrMapped (forgetWrites .pf s)
  let s := if s.qm.queues.any fun x => x.2.state != .disabled then s else s.setBit Reg.qmQtab 0 false
  let s := (((s.setReg Reg.hifLink 0).setReg Reg.hifMailStat 0).setReg Reg.hifNote 0).setReg Reg.hifHdrop 0
  flrHold 0 ps (restartMail (flrFunction 0 { s with hif := { s.hif with bar2 := 1 } }))

/-! ### PERST_N (R402) -/

/-- Registers of the always-on logic, of on-chip flash and of the Ember log. -/
def aonKey (k : Nat) : Bool := flashKey k || k == Reg.relLog || (decide (0x2C0000 ≤ k) && decide (k < 0x2D0000))

/-- The Damper after PERST_N with a full scope: its limiter goes on, the A-clock and the rails start again at step 5. -/
def Pwr.afterPerst (p : Pwr) : Pwr :=
  { hist := p.hist, sameWindows := p.sameWindows, hotOnce := p.hotOnce, holdHot := p.holdHot, frac := p.frac }

/-- All dies and the firmware complex start again from step 2 of R24; the always-on logic, the straps, the vault lock, the replacement request, the
Ember log and a thermal trip stay. -/
def perstFull (s : State) : State :=
  let s := journalTear s
  let bits := s.fld Reg.glbStatus 3 1
  let locked := s.bit Reg.secBootstat 11
  let trip := s.dbg.tripped
  let t : State :=
    { regs := flashRegs s.boot (s.regs.filter fun x => aonKey x.1)
      mem := s.mem.filter fun x => decide (emberBase ≤ x.1) && decide (x.1 < emberBase + 0x20000)
      hostMem := s.hostMem
      poison := s.poison.filter fun x => decide (emberBase ≤ x.1) && decide (x.1 < emberBase + 0x20000)
      pins := { porLow := s.pins.porLow, perstLow := true, refclkLost := s.pins.refclkLost, aonLow := s.pins.aonLow, bootSrc := s.pins.bootSrc
                twinRole := s.pins.twinRole, smbAddr := s.pins.smbAddr, replaceLow := s.pins.replaceLow, jtagIr := s.pins.jtagIr
                jtagOut := s.pins.jtagOut, jtagBoundary := s.pins.jtagBoundary, snuffDrive := trip && s.pins.snuffDrive
                snuffArmed := !trip || s.pins.snuffArmed }
      boot := s.boot.afterReset (min s.boot.step 1)
      ember := { newest := s.ember.newest, count := s.ember.count }
      pwr := s.pwr.afterPerst
      dbg := { tripped := trip }
      free := s.free
      pending := s.pending }
  let t := (t.setFld Reg.glbStatus 3 1 bits).setBit Reg.secBootstat 11 locked
  let t := ((((t.setFld Reg.pwrStatus 9 0 0).setFld Reg.pwrStatus 41 40 (if trip then 3 else 0)).setBit Reg.pwrStatus 42 false).setBit Reg.pwrStatus 44
    false).setReg Reg.pwrVolt 0
  if trip then (t.setReg Reg.dbgSnuff (s.reg Reg.dbgSnuff)).setFld Reg.dbgSnuff 9 8 2 |>.setBit Reg.glbStatus 5 true else t

/-- PERST_N with BOOT_SRC 1: the endpoint alone, as a PF FLR followed by link training. -/
def perstEndpoint (s : State) : State :=
  let s := if s.boot.step < 2 then s else report (pfFlr s) 0x0A 0x60 3 s.pins.bootSrc.toNat 0
  { s with hif := { s.hif with linkUp := false }, pins := { s.pins with perstLow := true } }.setReg Reg.hifLink 0

/-- PERST_ASSERT: pulses below 1 µs are ignored, and while POR_N is low there is no effect but the level (R482). -/
def perstAssert (lowNs : Nat) (s : State) : State :=
  if lowNs < 1000 ∨ s.pins.perstLow then s
  else if s.inReset then { s with pins := { s.pins with perstLow := true } }
  else if s.pins.bootSrc = 1 then perstEndpoint s
  else perstFull s

/-- PERST_RELEASE: reset release and link training follow as commands of their own. -/
def perstRelease (s : State) : State := { s with pins := { s.pins with perstLow := false } }

/-! ### Meanings -/

/-- POR_ASSERT (R482). -/
def execPorAssert (lowNs : Nat) (s : State) : Out := always s (porAssert lowNs)
/-- POR_RELEASE (R402). -/
def execPorRelease (bootSrc twinRole : BitVec 2) (smbAddr : BitVec 3) (s : State) : Out := always s (porRelease bootSrc twinRole smbAddr)
/-- PERST_ASSERT (R402). -/
def execPerstAssert (lowNs : Nat) (s : State) : Out := always s (perstAssert lowNs)
/-- PERST_RELEASE (R24). -/
def execPerstRelease (s : State) : Out := always s perstRelease
/-- AON_BROWNOUT (R481). -/
def execAonBrownout (lowNs : Nat) (s : State) : Out := always s (aonBrownout lowNs)
/-- VDD_AON_RETURN (R481). -/
def execVddAonReturn (_bootSrc _twinRole : BitVec 2) (_smbAddr : BitVec 3) (s : State) : Out := always s aonReturn
/-- REFCLK_LOSS (R482). -/
def execRefclkLoss (quietNs : Nat) (s : State) : Out := always s (refclkLoss quietNs)
/-- REFCLK_RETURN (R482). -/
def execRefclkReturn (_bootSrc _twinRole : BitVec 2) (_smbAddr : BitVec 3) (s : State) : Out := always s refclkReturn
/-- HOT_RESET (R369). -/
def execHotReset (s : State) : Out := live s pfFlr
/-- VF_FLR (R369). -/
def execVfFlr (vf : Fin 16) (s : State) : Out := live s (vfFlr vf)
/-- PF_FLR (R369). -/
def execPfFlr (s : State) : Out := live s pfFlr

end Sys2Proof.Machine
end

