-- ==== Sys2Proof/Machine/Resume.lean ====
section
/-!
DEFINITION. The end of Snuff (R472): the device continues, and the writes recorded under Snuff are acted on in arrival order.
-/
namespace Sys2Proof.Machine

/-- Flits that waited go out again (R468). -/
def flitsResume (s : State) : State := pumpFlits 512 s

/-- ING_SLOW_LIMIT stood still under Snuff (R468): a sample that is being decoded counts from later by the time that Snuff has lasted. -/
def slowShift (s : State) : State :=
  let d := s.clock.timeF - s.reg Reg.dbgSnuffTime
  { s with ingest := s.ingest.map fun c => (c.1, { c.2 with flight := c.2.flight.map fun x => { x with sent := x.sent.map (· + d) } }) }

/-- What ends with Snuff: the image, the driven pin, SNUFFED and the self-refresh, but for the one of DEEP_IDLE. -/
def endSnuff (s : State) : State :=
  let d := Reg.dbgSnuff
  let s := setStatus ((s.setFld d 9 8 0).setBit Reg.dbgScan 2 false) 5 false
  let s := if s.hearthsOff then s else { s with fabric := { s.fabric with selfRefresh := false } }
  { s with pins := { s.pins with snuffDrive := false }, dbg := { s.dbg with image := [] } }

/-- SNUFF_RESUMED: STATE was RESUMING. A trip in the meantime keeps the device stopped (R421). -/
def snuffResumed (s : State) : State :=
  let d := Reg.dbgSnuff
  if s.fld d 9 8 ≠ 3 then s
  else if s.pwrState = 3 then s.setFld d 9 8 2
  else
    let rec' := s.dbg.recorded
    let cause := s.fld d 18 16
    let s := report (endSnuff s) 0x0D 0xA1 cause (s.fld d 27 24) (s.fld d 47 32)
    let s := flitsResume (moveTable <| slowShift { s with dbg := { s.dbg with recorded := [] } })
    rec'.foldl replay s

/-- SNUFF_RESUMED (R472). -/
def execSnuffResumed (s : State) : Out := live s snuffResumed

end Sys2Proof.Machine
end

