-- ==== Sys2Proof/Machine/Apply.lean ====
section
/-!
DEFINITION. What the TLVs of the configuration block set (R379 to R382), at step 9 of R24. Fields are numbered from 1 in the order of R382, 0
stands for LEN, the count and reserved bytes (log 31).
-/
namespace Sys2Proof.Machine

/-- The block while it is being applied: the partitions named so far, the CYCLE TLV accepted, and the counts of SEC_CFGINFO. -/
structure Applying where
  s : State
  parts : List Nat := []
  cycle : Option Tlv := none
  applied : Nat := 0
  rejected : Nat := 0

/-- What a TLV leaves, and its first failing field when it is rejected. -/
abbrev Taken := Applying × Option Nat

/-- A TLV that changes the state alone. -/
def Applying.take (a : Applying) (r : State × Option Nat) : Taken := ({ a with s := r.1 }, r.2)

/-- Bits of a number beyond hi..lo are set. -/
def strayBits (x hi lo : Nat) : Bool := x % 2 ^ lo != 0 || decide (2 ^ (hi + 1) ≤ x)

/-! ### Partitions (R333 to R337) -/

/-- PARTITION: 1 PART, 2 CORES, 3 SEM_FIRST, 4 SEM_LAST. -/
def cfgPartition (a : Applying) (v : List Byte) : Taken :=
  let p := leAt v 0 1
  let lo := leAt v 4 2
  let hi := leAt v 6 2
  if leAt v 1 1 ≠ 0 then (a, some 0)
  else match firstBad [decide (15 < p) || a.parts.contains p, false, decide (hi < lo), decide (16383 < hi)] with
    | some f => (a, some f)
    | none =>
      let k := Reg.qmPart p
      let s := (((a.s.setFld k 15 0 (leAt v 2 2)).setBit k 16 true).setFld k 45 32 lo).setFld k 61 48 hi
      ({ a with s := s, parts := a.parts ++ [p] }, none)

/-- A core mask holds a core on each Hearth (R334). -/
def attnMask (m : Nat) : Bool := (List.range 4).all fun h => m / 16 ^ h % 16 != 0

/-- The cores in service of the partitions, in ascending number (R333); `held` are the cores that earlier partitions hold. -/
def coresOf : List Nat → Nat → State → State
  | [], _, s => s
  | p :: ps, held, s =>
    let k := Reg.qmPart p
    let m := s.fld k 15 0 &&& s.fld Reg.glbCaps2 31 16 &&& (0xFFFF ^^^ held)
    let s := ((s.setFld k 15 0 m).setBit k 16 (m != 0)).setBit k 17 (attnMask m)
    coresOf ps (held ||| m) (if m = 0 then reportUnnamed s 0x0C 0 p 0 0 else s)

/-- After the PARTITION TLVs: partition 0 alone when none was accepted (R381), and the cores of each. -/
def settleParts (a : Applying) : Applying :=
  let k := Reg.qmPart 0
  let a := if a.parts.isEmpty then
      { a with parts := [0], s := ((a.s.setFld k 15 0 0xFFFF).setFld k 45 32 0).setFld k 61 48 16383 }
    else a
  { a with s := coresOf ((List.range 16).filter a.parts.contains) 0 a.s }

/-- VF_MAP: 1 VF, 2 PART. -/
def cfgVfMap (a : Applying) (v : List Byte) : Taken :=
  let f := leAt v 0 1
  let p := leAt v 1 1
  let used := (List.range 16).any fun q => a.s.bit (Reg.qmPart q) 18 && a.s.fld (Reg.qmPart q) 22 19 + 1 == f
  if leAt v 2 2 ≠ 0 then (a, some 0)
  else match firstBad [f == 0 || decide (16 < f) || used, !a.parts.contains p || a.s.bit (Reg.qmPart p) 18] with
    | some i => (a, some i)
    | none => a.take ((a.s.setBit (Reg.qmPart p) 18 true).setFld (Reg.qmPart p) 22 19 (f - 1), none)

/-! ### Memory contents (R382) -/

/-- LOAD: 1 DEST, then the bytes. -/
def cfgLoad (s : State) (v : List Byte) : State × Option Nat :=
  let d := leAt v 0 8
  let bs := v.drop 8
  if strayBits d 39 3 || !s.inGddrStaging d bs.length then (s, some 1) else (devWrite .mantel s d bs, none)

/-- MODEL: 1 the NVM directory entry, 2 DEST, 3 the digest: the image is loaded, measured in M3, and a mismatch locks the vault (R394, R403). -/
def cfgModel (s : State) (v : List Byte) : State × Option Nat :=
  let d := leAt v 4 8
  if leAt v 12 4 ≠ 0 then (s, some 0)
  else match s.nvmDir.find? fun x => x.1 == leAt v 0 4 && x.2.kind == 4 with
    | none => (s, some 1)
    | some (_, e) =>
      if strayBits d 39 12 || !s.inGddrStaging d e.len then (s, some 2)
      else
        let bs := mread s.boot.nvm e.off e.len
        let x := sha bs
        let cause : Byte := if x = toB512 (v.drop 16) then 0 else 4
        let s := extendM (devWrite .mantel s d bs) 3 x 4 3 cause 0
        let s := extendM s 4 (sha (verRecord 4 3 cause 0)) 5 3 cause 0
        (if cause = 0 then s else verifyFailed (lockVault s) 4 cause, none)

/-! ### Translation and queues -/

/-- MMU: 1 PART, 2 MMU_ROOT, 3 MMU_SEQROOT, 4 to 7 the apertures; committed as one set (R384). -/
def cfgMmu (s : State) (v : List Byte) : State × Option Nat :=
  let p := leAt v 0 1
  let w := fun i => leAt v (8 + 8 * i) 8
  let root := fun x => strayBits (x - x % 2) 39 12
  let aper := fun j => root (w (2 + 2 * j)) || strayBits (w (3 + 2 * j)) 39 12
  if leAt v 1 7 ≠ 0 then (s, some 0)
  else match firstBad [decide (15 < p), root (w 0), root (w 1), aper 0, aper 1, aper 2, aper 3] with
    | some f => (s, some f)
    | none =>
      let keys := [Reg.mmuRoot p, Reg.mmuSeqroot p] ++ (List.range 4).flatMap fun j => [Reg.mmuAper p j, Reg.mmuAper p j + 8]
      let set := (List.range 10).foldl (fun t i => tput t (keys.getD i 0) (BitVec.ofNat 64 (w i))) ([] : Tab W64)
      let s' := mmuJudge { s with mmu := { s.mmu with pend := set } }
      if s'.bit Reg.mmuCommit 8 then ({ s' with mmu := { s'.mmu with pend := [] } }, some 0) else (s', none)

/-- QTABLE: 1 the QM_QTAB value. -/
def cfgQtable (s : State) (v : List Byte) : State × Option Nat :=
  let x := leAt v 0 8
  if !nbit x 0 || strayBits (x - x % 2) 39 12 || !s.inGddr (nbits x 39 12 * 4096) 0x400000 then (s, some 1)
  else (s.setReg Reg.qmQtab (BitVec.ofNat 64 x), none)

/-- Address of a queue's entry. -/
def State.entryAt (s : State) (q : Nat) : Nat := s.fld Reg.qmQtab 39 12 * 4096 + 64 * q

/-- RING_BASE lies in GDDR6 or shared staging, and CPL_PI is 8-byte aligned (R186). -/
def entryPlaced (s : State) (e : List Byte) : Bool :=
  let x := entryQueue e
  s.inGddrStaging x.ringBase (256 * 2 ^ x.ringLog) && x.cplPi % 8 == 0

/-- QUEUE: 1 QID, 2 ENABLE, 3 the entry. An ENABLE that the state refuses fails as the command does (R186, R335): the entry has been written and
the TLV counts as applied. DEDUCED, log 49. -/
def cfgQueue (s : State) (v : List Byte) : State × Option Nat :=
  let q := leAt v 0 2
  let on := nbit (leAt v 2 1) 0
  let e := v.drop 8
  if leAt v 3 5 ≠ 0 then (s, some 0)
  else match firstBad [!s.bit Reg.qmQtab 0, nbits (leAt v 2 1) 7 1 != 0, !entryOk e || !entryPlaced s e] with
    | some f => (s, some f)
    | none =>
      let s := engWrite s (s.entryAt q) e
      (if on then enableQueue .pf q s else s, none)

/-! ### Media, the cyclic table, power and SMBus -/

/-- Two ranges of bytes share a byte. -/
def overlap (a n b m : Nat) : Bool := n != 0 && m != 0 && meets a n b m

/-- MEDIA_AREAS: 1 CTX_BASE, 2 SYN_BASE, 3 SYN_CHUNKS, 4 POOL_GRAN, 5 POOL_BASE. -/
def cfgAreas (s : State) (v : List Byte) : State × Option Nat :=
  let c := leAt v 0 8
  let y := leAt v 8 8
  let n := leAt v 16 2
  let g := leAt v 20 4
  let b := leAt v 24 8
  if leAt v 18 2 ≠ 0 then (s, some 0)
  else match firstBad [strayBits c 39 12 || !s.inGddr c 0x400000,
      strayBits y 39 16 || !s.inGddr y (n * 65536) || overlap c 0x400000 y (n * 65536),
      n == 0 || decide (1024 < n), g == 0 || decide (2 ^ 20 - 1 < g),
      strayBits b 39 16 || !s.inGddr b (g * 65536) || overlap c 0x400000 b (g * 65536) || overlap y (n * 65536) b (g * 65536)] with
    | some f => (s, some f)
    | none => ({ s with media := { s.media with areas := some ⟨c, y, n, g, b⟩ } }, none)

/-- CYCLE: 1 LEN_10US, 2 PHASE_10US; in force once the table has been judged. -/
def cfgCycle (a : Applying) (t : Tlv) : Taken :=
  let n := leAt t.val 0 4
  let ph := leAt t.val 4 4
  match firstBad [decide (100000 < n), if n = 0 then ph != 0 else decide (n ≤ ph)] with
  | some f => (a, some f)
  | none => ({ a with cycle := some t }, none)

/-- The entries of a CSLOT value. -/
def cslots (v : List Byte) : List W64 := (List.range (v.length / 8)).map fun i => BitVec.ofNat 64 (leAt v (8 * i) 8)

/-- CSLOT: field i + 1 is its entry i. -/
def cfgCslot (s : State) (v : List Byte) : State × Option Nat :=
  let es := cslots v
  match firstBad (es.map fun e => nbits e.toNat 15 10 != 0 || nbits e.toNat 47 33 != 0 || decide (100000 < slotLen e)) with
  | some f => (s, some f)
  | none =>
    let s := { s with qm := { s.qm with slots := s.qm.slots ++ es } }
    (s.setFld Reg.qmCycle 59 49 s.qm.slots.length, none)

/-- The table holds (R345), for a cycle of `len` steps of 10 µs. -/
def tableOk (s : State) (len : Nat) : Bool :=
  (s.qm.slots.all fun e => s.partEn (slotPart e) && slotGroup e != 0 && slotLen e != 0) &&
  (List.range 16).all fun p =>
    let es := s.qm.slots.filter fun e => slotPart e == p
    decide ((es.map slotLen).sum ≤ len) &&
      (List.range es.length).all fun i =>
        decide (slotGuard (es.getD i 0) ≤ 10 * slotLen (es.getD ((i + es.length - 1) % es.length) 0))

/-- After the CYCLE and CSLOT TLVs: the cycle is in force, or CYCLE is rejected and the table disabled. -/
def settleCycle (a : Applying) : Applying :=
  match a.cycle with
  | none => a
  | some t =>
    let n := leAt t.val 0 4
    if n = 0 ∨ tableOk a.s n then { a with s := (a.s.setFld Reg.qmCycle 16 0 n).setFld Reg.qmCycle 48 32 (leAt t.val 4 4) }
    else { a with s := reportUnnamed a.s 0x0C 1 t.typ t.off 1, applied := a.applied - 1, rejected := a.rejected + 1 }

/-- POWER: 1 BOARD_CAP, 2 ACLK_MAX_MHZ (R411, R412). -/
def cfgPower (s : State) (v : List Byte) : State × Option Nat :=
  let c := leAt v 0 2
  let f := leAt v 2 2
  if leAt v 4 4 ≠ 0 then (s, some 0)
  else match firstBad [decide (c < 2500 ∨ 7500 < c), decide (f < 300 ∨ 900 < f) || f % 25 != 0] with
    | some i => (s, some i)
    | none => ({ s with pwr := { s.pwr with fCeil := f } }.setFld Reg.pwrPower 47 32 c, none)

/-- SMBUS: 1 its flags (R371, R372). -/
def cfgSmbus (s : State) (v : List Byte) : State × Option Nat :=
  let b := leAt v 0 1
  if leAt v 1 3 ≠ 0 then (s, some 0)
  else if nbits b 7 3 ≠ 0 then (s, some 1)
  else ({ s with smbus := { s.smbus with pecRequired := nbit b 0, tailOff := nbit b 1, powerOff := nbit b 2 } }, none)

/-! ### Capture, the twin and the pipelines -/

/-- An enabled port whose RATE_MBPS is out of range (R267). -/
def portRateBad (w : Nat) : Bool := nbit w 0 && decide (nbits w 28 16 < 80 ∨ 4500 < nbits w 28 16)

/-- CAPTURE: 1 to 4 the ports, 5 to 20 the sensors; committed through CAP_COMMIT (R270). -/
def cfgCapture (s : State) (v : List Byte) : State × Option Nat :=
  let port := fun i => leAt v (4 * i) 4
  let lo := fun i => leAt v (16 + 16 * i) 8
  let hi := fun i => leAt v (24 + 16 * i) 8
  if leAt v 272 16 ≠ 0 then (s, some 0)
  else match firstBad (((List.range 4).map fun i => decide (0x20000000 ≤ port i) || portRateBad (port i)) ++
      (List.range 16).map fun i => (nbits (lo i) 31 25 != 0) || strayBits (hi i) 39 6) with
    | some f => (s, some f)
    | none =>
      let words := ((List.range 4).map fun i => (Reg.capPort i, port i)) ++
        (List.range 16).flatMap fun i => [(Reg.capSensor i, lo i), (Reg.capSensor i + 8, hi i)]
      let set := words.foldl (fun t w => tput t (fnKey 0 w.1) (BitVec.ofNat 64 w.2)) s.capture.pend
      let s' := capJudge 0 { s with capture := { s.capture with pend := set } }
      if s'.bit Reg.capCommit 8 then ({ s' with capture := { s'.capture with pend := [] } }, some 0) else (s', none)

/-- TWIN: 1 PAIR_ID, 2 MIRROR_BASE, 3 MIRROR_MIB; it has no effect without a role (R453, R454). -/
def cfgTwin (s : State) (v : List Byte) : State × Option Nat :=
  let b := leAt v 8 8
  let n := leAt v 16 4 * 2 ^ 20
  let role := s.pins.twinRole.toNat
  if leAt v 4 4 ≠ 0 ∨ leAt v 20 12 ≠ 0 then (s, some 0)
  else match firstBad [leAt v 0 4 == 0, strayBits b 39 12 || (role == 2 && !s.inGddr b n)] with
    | some f => (s, some f)
    | none =>
      if role = 1 ∨ role = 2 then
        let s := { s with twin := { s.twin with pairId := BitVec.ofNat 32 (leAt v 0 4), mirrorBase := b, mirrorSize := n, on := true } }
        let s := (s.setFld Reg.relTwin 1 0 1).setFld Reg.relTwin 63 32 (leAt v 0 4)
        (if role = 2 ∧ n < 26 * 2 ^ 20 then reportUnnamed s 0x0B 1 0 0 (leAt v 0 4) else s, none)
      else (s, none)

/-- The enabled sensor of a number. -/
def sensorStream (s : State) (i : Nat) : Option (Nat × Stream) :=
  match s.sensor? i with
  | some x => (s.stream? (cHandle x.lo)).map fun y => (cHandle x.lo, y)
  | none => none

/-- A pipeline's sensor is enabled, feeds an ANA ring, has the holds, and feeds no other pipeline. -/
def plSensorOk (s : State) (v : List Byte) : Bool :=
  (match sensorStream s (plSensor v) with
    | some (_, y) => rEn (pRing y.par true) && decide (2 ≤ pHold y.par)
    | none => false) && !(s.pipes.any fun x => plSensor x.2.par == plSensor v)

/-- The queue entry of a pipeline as it stands in the table. -/
def plEntry (s : State) (v : List Byte) : List Byte := mread s.mem (s.entryAt (plQueue v)) 64

/-- The queue of a pipeline is described for it: its own partition, and its completion ring in device memory (R332). -/
def plQueueOk (s : State) (v : List Byte) : Bool :=
  let e := plEntry s v
  let x := entryQueue e
  s.bit Reg.qmQtab 0 && entryOk e && queueFits s x && x.part == plPart v && !x.cplHost &&
    ((s.queue (plQueue v)).state == .disabled || (s.queue (plQueue v)).state == .active)

/-- CHAIN_LEN is a power of two of at most 4,096 and at most the ring size. -/
def plChainOk (s : State) (v : List Byte) : Bool :=
  ((List.range 13).any fun i => plChain v == 2 ^ i) && decide (plChain v ≤ 2 ^ (entryQueue (plEntry s v)).ringLog)

/-- The first field of a pipeline record that fails: 1 EN, 2 SENSOR, 3 PART, 4 QUEUE, 5 CHAIN_LEN, 6 SEM_BASE, 7 TIMEOUT_US, 8 REGION, 9 ADDRS,
10 BIND, 11 RES_ADDR. -/
def plBad (s : State) (v : List Byte) : Option Nat :=
  let r := leBytes 2 0 ++ (plRegion v).drop 2
  let none' := List.replicate 32 (0 : Byte)
  firstBad [nbits (leAt v 0 1) 7 1 != 0, nbits (leAt v 1 1) 7 4 != 0 || !plSensorOk s v, nbits (leAt v 2 1) 7 4 != 0 || !s.partEn (plPart v),
    !plQueueOk s v, !plChainOk s v, decide (16384 ≤ plSem v + 3), false, entryBad r,
    opReserved (plPredict v none') || opReserved (plAssociate v false),
    bindBad (plBind v) || some (plHandle v) != (sensorStream s (plSensor v)).map (·.1), strayBits (leAt v 264 8) 39 6]

/-- The chain fills the queue's ring; a ring in the tracker store is not written (R305). -/
def placeChain (k : Nat) (v : List Byte) (s : State) : State :=
  let x := entryQueue (plEntry s v)
  let bs := mread s.mem (Config.chainAt k) (256 * plChain v)
  (List.range (2 ^ x.ringLog / plChain v)).foldl (fun s i => engWrite s (x.ringBase + 256 * plChain v * i) bs) s

/-- PIPELINE k: it starts, or is recorded as not started (R329). -/
def cfgPipeline (k : Nat) (s : State) (v : List Byte) : State × Option Nat :=
  if leAt v 3 1 ≠ 0 ∨ leAt v 10 2 ≠ 0 ∨ leAt v 272 16 ≠ 0 then (s, some 0)
  else if !plEn v then (s, if nbits (leAt v 0 1) 7 1 ≠ 0 then some 1 else none)
  else match plBad s v with
    | some f => (s, some f)
    | none =>
      if nbit (bMeta (plBind v)) 1 && s.pins.bootSrc == 1 then (s, some 10)
      else
        let s := placeChain k v s
        let s := if (s.queue (plQueue v)).state == .disabled then enableQueue .pf (plQueue v) s else s
        let (s, code) := bindStream (plHandle v) (plBind v) s
        if code ≠ 0 then (s, some 10)
        else ({ s with pipes := tput s.pipes k { par := v } }.setFld (Reg.trackPipestat k) 1 0 1, none)

/-! ### The order of R380 -/

/-- What an accepted TLV sets, by TYPE. MEM_SPLIT is in force already (R380). -/
def cfgTake (ts : List Tlv) (a : Applying) (t : Tlv) : Taken :=
  let v := t.val
  match t.typ with
  | 1 => cfgPartition a v
  | 2 => cfgVfMap a v
  | 3 => (a, splitBad v)
  | 4 => a.take (cfgAreas a.s v)
  | 5 => cfgCycle a t
  | 6 => a.take (cfgCslot a.s v)
  | 7 => a.take (cfgPower a.s v)
  | 8 => a.take (cfgSmbus a.s v)
  | 9 => a.take (cfgLoad a.s v)
  | 10 => a.take (cfgModel a.s v)
  | 11 => a.take (cfgMmu a.s v)
  | 12 => a.take (cfgQtable a.s v)
  | 13 => a.take (cfgQueue a.s v)
  | 14 => a.take (cfgCapture a.s v)
  | 15 => a.take (cfgTwin a.s v)
  | _ => a.take (cfgPipeline (t.before ts) a.s v)

/-- The log entry of a rejected TLV (R379): the source that its chapter names, else 0x0A. MEM_SPLIT was logged by Stage 1. -/
def rejectLog (s : State) (ts : List Tlv) (t : Tlv) (f : Nat) : State :=
  match t.typ with
  | 3 => s
  | 5 => reportUnnamed s 0x0C 1 t.typ t.off f
  | 6 => reportUnnamed s 0x0C 1 t.typ t.off f
  | 16 => report s 0x08 0x41 (t.before ts) 0 0
  | _ => reportUnnamed s 0x0A 2 t.typ t.off f

/-- One TLV applied or rejected. -/
def cfgStep (ts : List Tlv) (a : Applying) (t : Tlv) : Applying :=
  let r := if t.broken ts then (a, some 0) else cfgTake ts a t
  match r.2 with
  | some f => { r.1 with s := rejectLog r.1.s ts t f, rejected := r.1.rejected + 1 }
  | none => { r.1 with applied := r.1.applied + 1 }

/-- The known TLVs of one group, in block order. -/
def cfgGroup (ts : List Tlv) (g : Nat) (a : Applying) : Applying :=
  (ts.filter fun t => tlvKnown t.typ && tlvGroup t.typ == g).foldl (cfgStep ts) a

/-- The TLVs of an accepted block, group by group; unknown TLVs are counted as rejected (R378). -/
def cfgApply (ts : List Tlv) (s : State) : Applying :=
  let a := (List.range 3).foldl (fun a g => cfgGroup ts g a) { s := s, rejected := (ts.filter fun t => !tlvKnown t.typ).length }
  let a := (List.range' 3 3).foldl (fun a g => cfgGroup ts g a) (settleParts a)
  (List.range' 6 4).foldl (fun a g => cfgGroup ts g a) (settleCycle a)

end Sys2Proof.Machine
end

