-- ==== Sys2Proof/Machine/Start.lean ====
section
/-!
DEFINITION. The start of main firmware (step 9 of R24): the configuration block is applied, the loops start, READY is set and posted (R363,
R380, R396, R401).
-/
namespace Sys2Proof.Machine

/-- TWIN_ROLE in force, and the log entry when no TWIN TLV was accepted for it (R382). -/
def twinConfigured (s : State) : State :=
  let r := s.pins.twinRole.toNat
  if r = 1 ∨ r = 2 then
    let s := s.setFld Reg.relTwin 3 2 r
    if s.twin.on then s else reportUnnamed s 0x0B 3 r 0 0
  else s

/-- The configuration in force and SEC_CFGINFO (R382). A block rejected as a whole leaves the defaults only, which is SOURCE 0 (R378). DEDUCED, log 49. -/
def configure (s : State) : State :=
  let k := Reg.secCfginfo
  let s := { s with pwr := { s.pwr with fCeil := 900 } }
  match if s.boot.cfgSource = 0 then none else cfgBlock s.boot.cfgCopy with
  | none => (cfgApply [] s).s.setFld k 1 0 0
  | some ts =>
    let a := cfgApply ts s
    let s := (a.s.setFld k 1 0 s.boot.cfgSource.toNat).setBit k 2 true
    ((s.setFld k 27 16 (min a.applied 4095)).setFld k 39 28 (min a.rejected 4095)).setFld k 63 40 (leAt a.s.boot.cfgCopy 12 4)

/-- The anti-rollback counters follow the running images, once READY is set (R396). -/
def raiseAll (s : State) : State :=
  let up := fun (k : Nat) (i : Option Image) (s : State) => match i with
    | some im => raiseArb k im s
    | none => s
  up 3 s.boot.cfg (up 2 s.boot.running (up 1 s.boot.s1 s))

/-- MAIN_FW_START. F_REQ is F_CEIL from here on, unless an abandoned raise holds it (R412, R479). -/
def mainStart (s : State) : State :=
  if s.boot.step ≠ 8 then s
  else
    let s := twinConfigured (configure s)
    let s := { s with pwr := { s.pwr with fReq := if s.pwr.heldLoops = 0 then s.pwr.fCeil else s.pwr.heldFreq }, boot := { s.boot with step := 9 } }
    let s := match s.boot.running with
      | some im => s.setFld Reg.secVersions 63 32 im.version.toNat
      | none => s
    let s := (s.setFld Reg.secBootstat 2 0 2).setBit Reg.secBootstat 3 false
    raiseAll (mailInit (setStatus s 0 true))

/-- MAIN_FW_START (R401). -/
def execMainFwStart (s : State) : Out := live s mainStart

end Sys2Proof.Machine
end

