-- ==== Sys2Proof/Machine/Dispatch.lean ====
section
/-!
DEFINITION. One arm per command: each calls its meaning.
-/
namespace Sys2Proof.Machine

def exec (i : Instr) (s : State) : Host.Outcome State Fault Refusal :=
  match i with
  | .porAssert lowNs => Sys2Proof.Machine.execPorAssert lowNs s
  | .porRelease bootSrc twinRole smbAddr => Sys2Proof.Machine.execPorRelease bootSrc twinRole smbAddr s
  | .perstAssert lowNs => Sys2Proof.Machine.execPerstAssert lowNs s
  | .perstRelease => Sys2Proof.Machine.execPerstRelease s
  | .aonBrownout lowNs => Sys2Proof.Machine.execAonBrownout lowNs s
  | .refclkLoss quietNs => Sys2Proof.Machine.execRefclkLoss quietNs s
  | .refclkReturn bootSrc twinRole smbAddr => Sys2Proof.Machine.execRefclkReturn bootSrc twinRole smbAddr s
  | .resetRelease => Sys2Proof.Machine.execResetRelease s
  | .stage0Start off found => Sys2Proof.Machine.execStage0Start off found s
  | .stage1Start p => Sys2Proof.Machine.execStage1Start p s
  | .containerBlockLanded => Sys2Proof.Machine.execContainerBlockLanded s
  | .mainFwStart => Sys2Proof.Machine.execMainFwStart s
  | .pushS1 fn => Sys2Proof.Machine.execPushS1 fn s
  | .pushFw fn => Sys2Proof.Machine.execPushFw fn s
  | .pushCfg fn => Sys2Proof.Machine.execPushCfg fn s
  | .linkTrained speed width => Sys2Proof.Machine.execLinkTrained speed width s
  | .linkDown => Sys2Proof.Machine.execLinkDown s
  | .hotReset => Sys2Proof.Machine.execHotReset s
  | .vfFlr vf => Sys2Proof.Machine.execVfFlr vf s
  | .pfFlr => Sys2Proof.Machine.execPfFlr s
  | .bar2Resize gib => Sys2Proof.Machine.execBar2Resize gib s
  | .bar2Read fn off len => Sys2Proof.Machine.execBar2Read fn off len s
  | .bar2Write fn off data => Sys2Proof.Machine.execBar2Write fn off data s
  | .bar0HalfWrite fn off value => Sys2Proof.Machine.execBar0HalfWrite fn off value s
  | .bar0HalfRead fn off => Sys2Proof.Machine.execBar0HalfRead fn off s
  | .registerWrite fn off data => Sys2Proof.Machine.execRegisterWrite fn off data s
  | .rcRead fn off len => Sys2Proof.Machine.execRcRead fn off len s
  | .glbTimeWrite fn ns => Sys2Proof.Machine.execGlbTimeWrite fn ns s
  | .ppsEdge => Sys2Proof.Machine.execPpsEdge s
  | .ppsHoldEnd => Sys2Proof.Machine.execPpsHoldEnd s
  | .ppsLockLost => Sys2Proof.Machine.execPpsLockLost s
  | .msixUnmask fn vector => Sys2Proof.Machine.execMsixUnmask fn vector s
  | .mailDoorbell fn => Sys2Proof.Machine.execMailDoorbell fn s
  | .f2hPost => Sys2Proof.Machine.execF2hPost s
  | .hello => Sys2Proof.Machine.execHello s
  | .ping => Sys2Proof.Machine.execPing s
  | .quote => Sys2Proof.Machine.execQuote s
  | .cert => Sys2Proof.Machine.execCert s
  | .eventLog => Sys2Proof.Machine.execEventLog s
  | .extend => Sys2Proof.Machine.execExtend s
  | .updateLoad => Sys2Proof.Machine.execUpdateLoad s
  | .updateCommit => Sys2Proof.Machine.execUpdateCommit s
  | .updateAbort => Sys2Proof.Machine.execUpdateAbort s
  | .stage1Write => Sys2Proof.Machine.execStage1Write s
  | .nvmWrite => Sys2Proof.Machine.execNvmWrite s
  | .newImageLoopsStarted => Sys2Proof.Machine.execNewImageLoopsStarted s
  | .handoverTimeout => Sys2Proof.Machine.execHandoverTimeout s
  | .setCap => Sys2Proof.Machine.execSetCap s
  | .setAclkMax => Sys2Proof.Machine.execSetAclkMax s
  | .idleEnter => Sys2Proof.Machine.execIdleEnter s
  | .idleExit => Sys2Proof.Machine.execIdleExit s
  | .wakeDone => Sys2Proof.Machine.execWakeDone s
  | .smbIdentity pec => Sys2Proof.Machine.execSmbIdentity pec s
  | .smbStatus pec => Sys2Proof.Machine.execSmbStatus pec s
  | .smbTemp pec => Sys2Proof.Machine.execSmbTemp pec s
  | .smbTempAll pec => Sys2Proof.Machine.execSmbTempAll pec s
  | .smbPower pec => Sys2Proof.Machine.execSmbPower pec s
  | .smbPowerCap pec => Sys2Proof.Machine.execSmbPowerCap pec s
  | .smbEmberTail pec => Sys2Proof.Machine.execSmbEmberTail pec s
  | .smbReplace pec => Sys2Proof.Machine.execSmbReplace pec s
  | .d2dFlitRetry link => Sys2Proof.Machine.execD2dFlitRetry link s
  | .moduleFailed link => Sys2Proof.Machine.execModuleFailed link s
  | .edcFailure addr write failed => Sys2Proof.Machine.execEdcFailure addr write failed s
  | .edcRetrainDone addr trained ok => Sys2Proof.Machine.execEdcRetrainDone addr trained ok s
  | .gddr6Read addr found => Sys2Proof.Machine.execGddr6Read addr found s
  | .splitWindowEnd channel reads writes remotes => Sys2Proof.Machine.execSplitWindowEnd channel reads writes remotes s
  | .walkDone core va => Sys2Proof.Machine.execWalkDone core va s
  | .invPartition fn part => Sys2Proof.Machine.execInvPartition fn part s
  | .invRange fn part => Sys2Proof.Machine.execInvRange fn part s
  | .invSlot fn part slot => Sys2Proof.Machine.execInvSlot fn part slot s
  | .invDone => Sys2Proof.Machine.execInvDone s
  | .mmuCommit fn => Sys2Proof.Machine.execMmuCommit fn s
  | .queueDoorbell fn off data => Sys2Proof.Machine.execQueueDoorbell fn off data s
  | .enable fn q => Sys2Proof.Machine.execEnable fn q s
  | .disable fn q => Sys2Proof.Machine.execDisable fn q s
  | .queueDisabled q => Sys2Proof.Machine.execQueueDisabled q s
  | .cancel fn q => Sys2Proof.Machine.execCancel fn q s
  | .cancelDrained q => Sys2Proof.Machine.execCancelDrained q s
  | .resume fn q => Sys2Proof.Machine.execResume fn q s
  | .resumeSkip fn q => Sys2Proof.Machine.execResumeSkip fn q s
  | .semopAdd fn sem value => Sys2Proof.Machine.execSemopAdd fn sem value s
  | .semopSet fn sem value => Sys2Proof.Machine.execSemopSet fn sem value s
  | .descriptorFetch q => Sys2Proof.Machine.execDescriptorFetch q s
  | .descriptorRefuse q => Sys2Proof.Machine.execDescriptorRefuse q s
  | .dNop q => Sys2Proof.Machine.execDNop q s
  | .dWait q => Sys2Proof.Machine.execDWait q s
  | .dSignal q => Sys2Proof.Machine.execDSignal q s
  | .dFence q => Sys2Proof.Machine.execDFence q s
  | .dBarrier q => Sys2Proof.Machine.execDBarrier q s
  | .dRepeat q => Sys2Proof.Machine.execDRepeat q s
  | .dLoadb q => Sys2Proof.Machine.execDLoadb q s
  | .dCopy q => Sys2Proof.Machine.execDCopy q s
  | .dPrefetch q => Sys2Proof.Machine.execDPrefetch q s
  | .dGather q => Sys2Proof.Machine.execDGather q s
  | .dScatter q => Sys2Proof.Machine.execDScatter q s
  | .dMatmul q => Sys2Proof.Machine.execDMatmul q s
  | .dMatvec q => Sys2Proof.Machine.execDMatvec q s
  | .dConv q => Sys2Proof.Machine.execDConv q s
  | .dConvw q => Sys2Proof.Machine.execDConvw q s
  | .dDwconv q => Sys2Proof.Machine.execDDwconv q s
  | .dDist q => Sys2Proof.Machine.execDDist q s
  | .dElem q => Sys2Proof.Machine.execDElem q s
  | .dPload q => Sys2Proof.Machine.execDPload q s
  | .dReduce q => Sys2Proof.Machine.execDReduce q s
  | .dAttn q => Sys2Proof.Machine.execDAttn q s
  | .aheadRequest core => Sys2Proof.Machine.execAheadRequest core s
  | .localSteal core => Sys2Proof.Machine.execLocalSteal core s
  | .remoteSteal core victim => Sys2Proof.Machine.execRemoteSteal core victim s
  | .tileDrain core bank => Sys2Proof.Machine.execTileDrain core bank s
  | .elemBatch core => Sys2Proof.Machine.execElemBatch core s
  | .widenRerun part => Sys2Proof.Machine.execWidenRerun part s
  | .descriptorFinish part slot => Sys2Proof.Machine.execDescriptorFinish part slot s
  | .descriptorComplete q => Sys2Proof.Machine.execDescriptorComplete q s
  | .waitTimeout q => Sys2Proof.Machine.execWaitTimeout q s
  | .partitionStall part => Sys2Proof.Machine.execPartitionStall part s
  | .attnBlockRead hearth => Sys2Proof.Machine.execAttnBlockRead hearth s
  | .attnBlockArrive hearth => Sys2Proof.Machine.execAttnBlockArrive hearth s
  | .attnBlockAbsorb core => Sys2Proof.Machine.execAttnBlockAbsorb core s
  | .attnMerge core => Sys2Proof.Machine.execAttnMerge core s
  | .cycleStart => Sys2Proof.Machine.execCycleStart s
  | .quietPeriodStart slot => Sys2Proof.Machine.execQuietPeriodStart slot s
  | .slotStart slot => Sys2Proof.Machine.execSlotStart slot s
  | .slotEnd slot => Sys2Proof.Machine.execSlotEnd slot s
  | .mediaOpen fn h => Sys2Proof.Machine.execMediaOpen fn h s
  | .mediaOpenEnc fn h => Sys2Proof.Machine.execMediaOpenEnc fn h s
  | .mediaClose fn h => Sys2Proof.Machine.execMediaClose fn h s
  | .mediaFlush fn h => Sys2Proof.Machine.execMediaFlush fn h s
  | .mediaSkipToRap fn h => Sys2Proof.Machine.execMediaSkipToRap fn h s
  | .mediaForceIdr fn h => Sys2Proof.Machine.execMediaForceIdr fn h s
  | .mediaDoorbell fn h value ends => Sys2Proof.Machine.execMediaDoorbell fn h value ends s
  | .auParseStart h engine => Sys2Proof.Machine.execAuParseStart h engine s
  | .auParseDone h r => Sys2Proof.Machine.execAuParseDone h r s
  | .reconDecision h => Sys2Proof.Machine.execReconDecision h s
  | .pixelFrameStart h pipe buf refs => Sys2Proof.Machine.execPixelFrameStart h pipe buf refs s
  | .reconDone h pipe r => Sys2Proof.Machine.execReconDone h pipe r s
  | .frameEmit h buf => Sys2Proof.Machine.execFrameEmit h buf s
  | .mediaCommit fn => Sys2Proof.Machine.execMediaCommit fn s
  | .releaseOut fn buf => Sys2Proof.Machine.execReleaseOut fn buf s
  | .releaseHold fn buf => Sys2Proof.Machine.execReleaseHold fn buf s
  | .reconReq fn h next num => Sys2Proof.Machine.execReconReq fn h next num s
  | .encodeSubmit fn h value => Sys2Proof.Machine.execEncodeSubmit fn h value s
  | .encodeFrameStart h pipe recon => Sys2Proof.Machine.execEncodeFrameStart h pipe recon s
  | .encodePassDone h bytes luma chroma => Sys2Proof.Machine.execEncodePassDone h bytes luma chroma s
  | .capCommit fn => Sys2Proof.Machine.execCapCommit fn s
  | .frameStartPacket port vc hdr => Sys2Proof.Machine.execFrameStartPacket port vc hdr s
  | .longPacket port vc dt hdr crcOk full payload => Sys2Proof.Machine.execLongPacket port vc dt hdr crcOk full payload s
  | .frameEndPacket port vc hdr => Sys2Proof.Machine.execFrameEndPacket port vc hdr s
  | .ispFrameDone sensor colours medians filtered => Sys2Proof.Machine.execIspFrameDone sensor colours medians filtered s
  | .fsyncWordA fn n value => Sys2Proof.Machine.execFsyncWordA fn n value s
  | .fsyncWordB fn n value => Sys2Proof.Machine.execFsyncWordB fn n value s
  | .fsyncAssert n => Sys2Proof.Machine.execFsyncAssert n s
  | .fsyncDeassert n => Sys2Proof.Machine.execFsyncDeassert n s
  | .shapeRingWrite fn p value => Sys2Proof.Machine.execShapeRingWrite fn p value s
  | .shapeDoorbell fn p tail => Sys2Proof.Machine.execShapeDoorbell fn p tail s
  | .shapeOpStart p => Sys2Proof.Machine.execShapeOpStart p s
  | .shapeOpDone => Sys2Proof.Machine.execShapeOpDone s
  | .jpegDone c id r => Sys2Proof.Machine.execJpegDone c id r s
  | .ingestEnable fn c value => Sys2Proof.Machine.execIngestEnable fn c value s
  | .ingestDisable fn c => Sys2Proof.Machine.execIngestDisable fn c s
  | .ingestDoorbell fn c write => Sys2Proof.Machine.execIngestDoorbell fn c write s
  | .ingestEos fn c write => Sys2Proof.Machine.execIngestEos fn c write s
  | .slotDone fn c n => Sys2Proof.Machine.execSlotDone fn c n s
  | .rowDone fn c n => Sys2Proof.Machine.execRowDone fn c n s
  | .recordHeader c => Sys2Proof.Machine.execRecordHeader c s
  | .sampleDispatch c id => Sys2Proof.Machine.execSampleDispatch c id s
  | .sampleFinish c id => Sys2Proof.Machine.execSampleFinish c id s
  | .sampleSlow c id => Sys2Proof.Machine.execSampleSlow c id s
  | .batchDeadline c => Sys2Proof.Machine.execBatchDeadline c s
  | .bind fn h => Sys2Proof.Machine.execBind fn h s
  | .unbind fn h => Sys2Proof.Machine.execUnbind fn h s
  | .clear fn h => Sys2Proof.Machine.execClear fn h s
  | .trackRingWrite fn p value => Sys2Proof.Machine.execTrackRingWrite fn p value s
  | .trackDoorbell fn p tail => Sys2Proof.Machine.execTrackDoorbell fn p tail s
  | .predict p => Sys2Proof.Machine.execPredict p s
  | .associate p => Sys2Proof.Machine.execAssociate p s
  | .trackMdb fn h consumed => Sys2Proof.Machine.execTrackMdb fn h consumed s
  | .pipeFrameStart k => Sys2Proof.Machine.execPipeFrameStart k s
  | .pipeShaped k => Sys2Proof.Machine.execPipeShaped k s
  | .pipeChainDone k => Sys2Proof.Machine.execPipeChainDone k s
  | .pipeFrameEnd k => Sys2Proof.Machine.execPipeFrameEnd k s
  | .pipeTimeout k => Sys2Proof.Machine.execPipeTimeout k s
  | .pipeFault k => Sys2Proof.Machine.execPipeFault k s
  | .powerWindow r => Sys2Proof.Machine.execPowerWindow r s
  | .grantHoldEnd => Sys2Proof.Machine.execGrantHoldEnd s
  | .capUnmet => Sys2Proof.Machine.execCapUnmet s
  | .thermalSample h0 h1 h2 h3 m => Sys2Proof.Machine.execThermalSample h0 h1 h2 h3 m s
  | .thermalCeilingStep => Sys2Proof.Machine.execThermalCeilingStep s
  | .pllStepAck => Sys2Proof.Machine.execPllStepAck s
  | .railSettled => Sys2Proof.Machine.execRailSettled s
  | .railSettleTimeout hearth => Sys2Proof.Machine.execRailSettleTimeout hearth s
  | .droopFire hearth => Sys2Proof.Machine.execDroopFire hearth s
  | .droopEnd hearth => Sys2Proof.Machine.execDroopEnd hearth s
  | .powerLoop => Sys2Proof.Machine.execPowerLoop s
  | .marginLoop warnings => Sys2Proof.Machine.execMarginLoop warnings s
  | .ageingCheck readings => Sys2Proof.Machine.execAgeingCheck readings s
  | .energyTick counts => Sys2Proof.Machine.execEnergyTick counts s
  | .cal channel => Sys2Proof.Machine.execCal channel s
  | .retrain channel step => Sys2Proof.Machine.execRetrain channel step s
  | .gscrub addr found endsPass => Sys2Proof.Machine.execGscrub addr found endsPass s
  | .sscrub word found endsPass => Sys2Proof.Machine.execSscrub word found endsPass s
  | .wear off found => Sys2Proof.Machine.execWear off found s
  | .telem hearth => Sys2Proof.Machine.execTelem hearth s
  | .emberWrite => Sys2Proof.Machine.execEmberWrite s
  | .twinHelloSend => Sys2Proof.Machine.execTwinHelloSend s
  | .twinHello ack pairId role uid echo => Sys2Proof.Machine.execTwinHello ack pairId role uid echo s
  | .heartbeatSend => Sys2Proof.Machine.execHeartbeatSend s
  | .heartbeat ack hb echo tick => Sys2Proof.Machine.execHeartbeat ack hb echo tick s
  | .partnerLost ends => Sys2Proof.Machine.execPartnerLost ends s
  | .nak ack => Sys2Proof.Machine.execNak ack s
  | .replayTimeout => Sys2Proof.Machine.execReplayTimeout s
  | .twinOpen seq ack cont h data => Sys2Proof.Machine.execTwinOpen seq ack cont h data s
  | .bits seq ack h index data => Sys2Proof.Machine.execBits seq ack h index data s
  | .pos seq ack h rap num start => Sys2Proof.Machine.execPos seq ack h rap num start s
  | .trackFlit seq ack h ctx image => Sys2Proof.Machine.execTrackFlit seq ack h ctx image s
  | .commit seq ack h frameSeq metaSeq nextId fin arrival => Sys2Proof.Machine.execCommit seq ack h frameSeq metaSeq nextId fin arrival s
  | .twinClose seq ack h => Sys2Proof.Machine.execTwinClose seq ack h s
  | .ackf seq ack h status metaSeq => Sys2Proof.Machine.execAckf seq ack h status metaSeq s
  | .cntReset fn groups => Sys2Proof.Machine.execCntReset fn groups s
  | .dbgMatchArm fn value => Sys2Proof.Machine.execDbgMatchArm fn value s
  | .traceCfgWrite fn value => Sys2Proof.Machine.execTraceCfgWrite fn value s
  | .traceSample core wait capped => Sys2Proof.Machine.execTraceSample core wait capped s
  | .traceLineFlush hearth => Sys2Proof.Machine.execTraceLineFlush hearth s
  | .snuffGo fn => Sys2Proof.Machine.execSnuffGo fn s
  | .snuffPin => Sys2Proof.Machine.execSnuffPin s
  | .snuffMatch => Sys2Proof.Machine.execSnuffMatch s
  | .snuffStopped => Sys2Proof.Machine.execSnuffStopped s
  | .snuffResume fn => Sys2Proof.Machine.execSnuffResume fn s
  | .scanStart fn => Sys2Proof.Machine.execScanStart fn s
  | .extest scanIn balls => Sys2Proof.Machine.execExtest scanIn balls s
  | .samplePreload scanIn balls => Sys2Proof.Machine.execSamplePreload scanIn balls s
  | .idcode => Sys2Proof.Machine.execIdcode s
  | .clamp => Sys2Proof.Machine.execClamp s
  | .highz => Sys2Proof.Machine.execHighz s
  | .snuffScan => Sys2Proof.Machine.execSnuffScan s
  | .bypass ir => Sys2Proof.Machine.execBypass ir s
  | .snuffResumed => Sys2Proof.Machine.execSnuffResumed s
  | .vddAonReturn bootSrc twinRole smbAddr => Sys2Proof.Machine.execVddAonReturn bootSrc twinRole smbAddr s
  | .badFlit => Sys2Proof.Machine.execBadFlit s
  | .idleFlit ack => Sys2Proof.Machine.execIdleFlit ack s
  | .twinBlockLock up => Sys2Proof.Machine.execTwinBlockLock up s
  | .snuffPinRearm => Sys2Proof.Machine.execSnuffPinRearm s
  | .testLogicReset => Sys2Proof.Machine.execTestLogicReset s

end Sys2Proof.Machine
end

