-- ==== Sys2Proof/WellFormed.lean ====
section
/-!
DEFINITION. What a command must satisfy beside the ranges of its operands' types: the sizes and alignments that its rule gives. A command
that fails its check is none that can come; no meaning depends on the check.
-/
namespace Sys2Proof

/-- The address of a 32-byte sector (R31, R34). -/
def sectorOk (a : Nat) : Bool := decide (a % 32 = 0) && decide (a < 2 ^ 40)

/-- A byte of on-chip flash (R387). -/
def flashOk (o : Nat) : Bool := decide (o < 2 ^ 23)

/-- A word of a scrubbed memory: 8-byte aligned within its memory's address range (R489). -/
def ScrubWord.wf : ScrubWord → Bool
  | .addr a => decide (a % 8 = 0 ∧ a < 2 ^ 40)
  | .mediaStaging o _ => decide (o % 8 = 0 ∧ o < 2 ^ 32)
  | .fwSram o core => decide (o % 8 = 0 ∧ o < 2 ^ 32) && core.all fun c => decide (c < 2 ^ 32)
  | .inner _ o _ => decide (o < 2 ^ 32)
  | .tlb _ va => decide (va < 2 ^ 48)
  | .walk _ _ level va => decide (1 ≤ level ∧ level ≤ 3 ∧ va < 2 ^ 48)

/-- The check of a command. -/
def Instr.wf (i : Instr) : Bool :=
  match i with
  | .porAssert _ => true
  | .porRelease _ _ _ => true
  | .perstAssert _ => true
  | .perstRelease => true
  | .aonBrownout _ => true
  | .refclkLoss _ => true
  | .refclkReturn _ _ _ => true
  | .resetRelease => true
  | .stage0Start off _ => flashOk off
  | .stage1Start p => p.repairs.all fun a => decide (a < 2 ^ 50)
  | .containerBlockLanded => true
  | .mainFwStart => true
  | .pushS1 _ => true
  | .pushFw _ => true
  | .pushCfg _ => true
  | .linkTrained speed width => decide (1 ≤ speed.toNat ∧ speed.toNat ≤ 5) && decide (width.toNat ∈ [1, 2, 4, 8])
  | .linkDown => true
  | .hotReset => true
  | .vfFlr _ => true
  | .pfFlr => true
  | .bar2Resize gib => decide (gib ∈ [1, 2, 4, 8, 16, 32])
  | .bar2Read _ off len => decide (1 ≤ len ∧ off + len ≤ 2 ^ 35)
  | .bar2Write _ off data => decide (1 ≤ data.bytes.length ∧ off + data.bytes.length ≤ 2 ^ 35)
  | .bar0HalfWrite _ off _ => decide (off % 4 = 0 ∧ off < 2 ^ 26)
  | .bar0HalfRead _ off => decide (off % 4 = 0 ∧ off < 2 ^ 26)
  | .registerWrite _ off data => decide (1 ≤ data.length ∧ off + data.length ≤ 2 ^ 26)
  | .rcRead _ off len => decide (1 ≤ len ∧ off + len ≤ 2 ^ 26)
  | .glbTimeWrite _ _ => true
  | .ppsEdge => true
  | .ppsHoldEnd => true
  | .ppsLockLost => true
  | .msixUnmask _ _ => true
  | .mailDoorbell _ => true
  | .f2hPost => true
  | .hello => true
  | .ping => true
  | .quote => true
  | .cert => true
  | .eventLog => true
  | .extend => true
  | .updateLoad => true
  | .updateCommit => true
  | .updateAbort => true
  | .stage1Write => true
  | .nvmWrite => true
  | .newImageLoopsStarted => true
  | .handoverTimeout => true
  | .setCap => true
  | .setAclkMax => true
  | .idleEnter => true
  | .idleExit => true
  | .wakeDone => true
  | .smbIdentity _ => true
  | .smbStatus _ => true
  | .smbTemp _ => true
  | .smbTempAll _ => true
  | .smbPower _ => true
  | .smbPowerCap _ => true
  | .smbEmberTail _ => true
  | .smbReplace _ => true
  | .d2dFlitRetry _ => true
  | .moduleFailed _ => true
  | .edcFailure addr _ _ => sectorOk addr
  | .edcRetrainDone addr _ _ => sectorOk addr
  | .gddr6Read addr _ => sectorOk addr
  | .splitWindowEnd _ reads writes remotes => decide (reads + writes + remotes ≤ 256)
  | .walkDone _ _ => true
  | .invPartition _ _ => true
  | .invRange _ _ => true
  | .invSlot _ _ _ => true
  | .invDone => true
  | .mmuCommit _ => true
  | .queueDoorbell _ off data => decide (1 ≤ data.length ∧ off + data.length ≤ 2 ^ 19)
  | .enable _ _ => true
  | .disable _ _ => true
  | .queueDisabled _ => true
  | .cancel _ _ => true
  | .cancelDrained _ => true
  | .resume _ _ => true
  | .resumeSkip _ _ => true
  | .semopAdd _ _ _ => true
  | .semopSet _ _ _ => true
  | .descriptorFetch _ => true
  | .descriptorRefuse _ => true
  | .dNop _ => true
  | .dWait _ => true
  | .dSignal _ => true
  | .dFence _ => true
  | .dBarrier _ => true
  | .dRepeat _ => true
  | .dLoadb _ => true
  | .dCopy _ => true
  | .dPrefetch _ => true
  | .dGather _ => true
  | .dScatter _ => true
  | .dMatmul _ => true
  | .dMatvec _ => true
  | .dConv _ => true
  | .dConvw _ => true
  | .dDwconv _ => true
  | .dDist _ => true
  | .dElem _ => true
  | .dPload _ => true
  | .dReduce _ => true
  | .dAttn _ => true
  | .aheadRequest _ => true
  | .localSteal _ => true
  | .remoteSteal _ _ => true
  | .tileDrain _ _ => true
  | .elemBatch _ => true
  | .widenRerun _ => true
  | .descriptorFinish _ _ => true
  | .descriptorComplete _ => true
  | .waitTimeout _ => true
  | .partitionStall _ => true
  | .attnBlockRead _ => true
  | .attnBlockArrive _ => true
  | .attnBlockAbsorb _ => true
  | .attnMerge _ => true
  | .cycleStart => true
  | .quietPeriodStart _ => true
  | .slotStart _ => true
  | .slotEnd _ => true
  | .mediaOpen _ _ => true
  | .mediaOpenEnc _ _ => true
  | .mediaClose _ _ => true
  | .mediaFlush _ _ => true
  | .mediaSkipToRap _ _ => true
  | .mediaForceIdr _ _ => true
  | .mediaDoorbell _ _ _ _ => true
  | .auParseStart _ _ => true
  | .auParseDone _ _ => true
  | .reconDecision _ => true
  | .pixelFrameStart _ _ _ _ => true
  | .reconDone _ _ _ => true
  | .frameEmit _ _ => true
  | .mediaCommit _ => true
  | .releaseOut _ _ => true
  | .releaseHold _ _ => true
  | .reconReq _ _ _ _ => true
  | .encodeSubmit _ _ _ => true
  | .encodeFrameStart _ _ _ => true
  | .encodePassDone _ _ _ _ => true
  | .capCommit _ => true
  | .frameStartPacket _ _ _ => true
  | .longPacket _ _ _ _ _ _ payload => decide (payload.length ≤ 65535)
  | .frameEndPacket _ _ _ => true
  | .ispFrameDone _ _ _ _ => true
  | .fsyncWordA _ _ _ => true
  | .fsyncWordB _ _ _ => true
  | .fsyncAssert _ => true
  | .fsyncDeassert _ => true
  | .shapeRingWrite _ _ _ => true
  | .shapeDoorbell _ _ _ => true
  | .shapeOpStart _ => true
  | .shapeOpDone => true
  | .jpegDone _ _ _ => true
  | .ingestEnable _ _ _ => true
  | .ingestDisable _ _ => true
  | .ingestDoorbell _ _ _ => true
  | .ingestEos _ _ _ => true
  | .slotDone _ _ _ => true
  | .rowDone _ _ _ => true
  | .recordHeader _ => true
  | .sampleDispatch _ _ => true
  | .sampleFinish _ _ => true
  | .sampleSlow _ _ => true
  | .batchDeadline _ => true
  | .bind _ _ => true
  | .unbind _ _ => true
  | .clear _ _ => true
  | .trackRingWrite _ _ _ => true
  | .trackDoorbell _ _ _ => true
  | .predict _ => true
  | .associate _ => true
  | .trackMdb _ _ _ => true
  | .pipeFrameStart _ => true
  | .pipeShaped _ => true
  | .pipeChainDone _ => true
  | .pipeFrameEnd _ => true
  | .pipeTimeout _ => true
  | .pipeFault _ => true
  | .powerWindow r => decide (r.rails.length = 13 ∧ r.gddr.length = 16)
  | .grantHoldEnd => true
  | .capUnmet => true
  | .thermalSample _ _ _ _ _ => true
  | .thermalCeilingStep => true
  | .pllStepAck => true
  | .railSettled => true
  | .railSettleTimeout _ => true
  | .droopFire _ => true
  | .droopEnd _ => true
  | .powerLoop => true
  | .marginLoop _ => true
  | .ageingCheck readings => decide (readings.length = 4)
  | .energyTick counts => counts.all fun x => decide (x.count < 2 ^ 64)
  | .cal _ => true
  | .retrain _ _ => true
  | .gscrub addr found _ => decide (addr % 256 = 0 ∧ found.length = 8) && sectorOk addr
  | .sscrub word found _ => word.wf && decide (found.length ≤ 8)
  | .wear off _ => flashOk off
  | .telem _ => true
  | .emberWrite => true
  | .twinHelloSend => true
  | .twinHello _ _ _ _ _ => true
  | .heartbeatSend => true
  | .heartbeat _ _ _ _ => true
  | .partnerLost _ => true
  | .nak _ => true
  | .replayTimeout => true
  | .twinOpen _ _ _ _ data => decide (data.length ≤ 112)
  | .bits _ _ _ _ data => decide (data.length ≤ 108)
  | .pos _ _ _ _ _ _ => true
  | .trackFlit _ _ _ _ image => decide (image.length = 64)
  | .commit _ _ _ _ _ _ _ _ => true
  | .twinClose _ _ _ => true
  | .ackf _ _ _ _ _ => true
  | .cntReset _ _ => true
  | .dbgMatchArm _ _ => true
  | .traceCfgWrite _ _ => true
  | .traceSample _ _ _ => true
  | .traceLineFlush _ => true
  | .snuffGo _ => true
  | .snuffPin => true
  | .snuffMatch => true
  | .snuffStopped => true
  | .snuffResume _ => true
  | .scanStart _ => true
  | .extest _ _ => true
  | .samplePreload _ _ => true
  | .idcode => true
  | .clamp => true
  | .highz => true
  | .snuffScan => true
  | .bypass ir => !decide (ir.toNat ∈ [0x00, 0x01, 0x02, 0x04, 0x05, 0x20])
  | .snuffResumed => true
  | .vddAonReturn _ _ _ => true
  | .badFlit => true
  | .idleFlit _ => true
  | .twinBlockLock _ => true
  | .snuffPinRearm => true
  | .testLogicReset => true

end Sys2Proof
end

