-- ==== Sys2Proof/Safety.lean ====
section
/-!
DEFINITION. The terms in which claims about the VX9 are stated: which registers a command leaves alone, and the invariants of the machine.
-/
namespace Sys2Proof.Machine

/-- Every register key outside a list reads as before. -/
def OnlyRegs (ks : List Nat) (s t : State) : Prop := ∀ k, k ∉ ks → t.reg k = s.reg k

/-- Every byte of device memory reads as before. -/
def SameMem (s t : State) : Prop := ∀ a, mget t.mem a = mget s.mem a

/-- Device memory, host memory and the register file are in canonical form: addresses and keys strictly rising, and no entry that equals what
an unlisted one reads as. Equal contents are then equal data. -/
def Canon (s : State) : Prop := Memory.wf s.mem = true ∧ Memory.wf s.hostMem = true ∧ rwf s.regs = true

/-- The bytes of device memory that a unit has written, by physical address, and no other byte, are new. -/
def Lands (out : Memory) (s t : State) : Prop := ∀ a, mget t.mem a = (tfind out a).getD (mget s.mem a)

/-- A bound stream whose wait for metadata space is over, if it had one: the time of the wait is in the counter at byte 44 (R328). -/
def waitOver (s : State) (x : Bound) : Bound :=
  match x.waitAt with
  | some t => { x with waitAt := none, cnt := tset 0 x.cnt 44 (satAdd 32 (tget 0 x.cnt 44) ((s.clock.timeF - t).toNat / 1000)) }
  | none => x

/-- No write is lost on its way: no channel has failed, and no transfer of the link. -/
def WritesLand (s : State) : Prop := s.fabric.chFailed = 0 ∧ s.fabric.lost = []

/-- The byte counters of DBG_BCNT. -/
def byteCounters : List Nat := (List.range 90).map Reg.dbgBcnt

/-- Firmware takes a mail request now: it stands at the head of the ring, is of a type and length, and its message is part of the session. -/
def TakesRequest (s : State) (r : Req) (type len : Nat) : Prop :=
  s.up = true ∧ s.request = some r ∧ r.type = type ∧ r.len = len ∧ s.refusal type = none

/-- The reply to a request waits to be posted. -/
def AnswerWaits (t : State) (r : Req) (status : Nat) (rest : List Byte) : Prop :=
  message r.type 1 r.seq (leBytes 2 status ++ rest) ∈ t.mail.waiting

end Sys2Proof.Machine
end

