-- ==== Sys2Proof/Certificates/Slice0/Obligations.lean ====
section
/-!
DEFINITION. The statements of this model, for the provers.
-/
open Sys2Proof Sys2Proof.Machine

/-- O1. For every command c and every state, the step of a state with c at the front of its queue is exec of c on the state with the rest of the queue; with no command waiting, a step lets every copy of the time take its next value while the device is up: a value that a write has brought, else 10 ns more, or its value while the hold of an alignment lasts, and the forward step of an alignment on top; beside the time it touches only the scheduler, the waits that the tracker counts, the lateness registers of the cyclic table, and what the reads ahead for a NEXT descriptor touch: translations, byte and error counters, the fabric's failed transfers, the repair map and the Ember reports; before READY nothing but the time, and the end of a journal write in progress (the queue, and the tick as its idle step, are the model's own: log 9; so are what NEXT reads ahead: log 69, and the span of a journal write: log 13) (R22, R198, R360.) -/
def Obligations.StepRunsFrontCommandOrTicks : Prop :=
  (∀ (c : Instr) (cs : List Instr) (s : State), s.pending = c :: cs → step s = exec c { s with pending := cs }) ∧
  (∀ (s : State), s.pending = [] → ∃ t, step s = .next t ∧
    t = { s with clock := t.clock, qm := t.qm, track := { s.track with bound := t.track.bound }, mmu := t.mmu, boot := t.boot
                 fabric := t.fabric, ember := t.ember, regs := t.regs } ∧
    OnlyRegs ((List.range 16).map Reg.qmLate ++ (List.range 96).map Reg.dbgBcnt ++ (List.range 10).map Reg.relCnt) s t ∧
    (s.ready = false → t = { s with clock := t.clock, boot := { s.boot with writing := t.boot.writing } }) ∧
    (s.up = false → t.clock = s.clock) ∧
    (s.up = true → t.clock.write = none ∧ t.clock.step = 0 ∧ t.clock.hold = s.clock.hold ∧ t.clock.ppsQueued = s.clock.ppsQueued ∧
      (∀ v, s.clock.write = some v → t.clock.timeF = v + s.clock.step ∧ t.clock.timeM = v + s.clock.step ∧ t.clock.timeC = v + s.clock.step) ∧
      (s.clock.write = none → s.clock.hold = 0 → t.clock.timeF = s.clock.timeF + 10 + s.clock.step ∧
        t.clock.timeM = s.clock.timeM + 10 + s.clock.step ∧ t.clock.timeC = s.clock.timeC + 10 + s.clock.step) ∧
      (s.clock.write = none → s.clock.hold ≠ 0 → t.clock.timeF = s.clock.timeF + s.clock.step ∧
        t.clock.timeM = s.clock.timeM + s.clock.step ∧ t.clock.timeC = s.clock.timeC + s.clock.step)))

/-- O2. No command of the VX9 faults or is refused, in any state, and none touches the queue of the commands behind it (that exec never ends in a fault or a refusal is the model's choice: log 5; the queue is the model's own: log 9) (R53, R54.) -/
def Obligations.CommandsNeverStopAndKeepTheQueue : Prop :=
  ∀ (c : Instr) (s : State), ∃ t, exec c s = .next t ∧ t.pending = s.pending

/-- O3. From every state, k steps with at least k commands waiting end in a next state whose queue is the same queue without its first k commands; after as many steps as commands wait, the queue is empty (that no step stops is the model's choice: log 5; the queue is its own: log 9) (R61, R188.) -/
def Obligations.RunDrainsTheQueue : Prop :=
  ∀ (s : State) (k : Nat), k ≤ s.pending.length →
    ∃ t, Host.Core.run Sys2Proof.core k s = .next t ∧ t.pending = s.pending.drop k

/-- O4. From every state whose device memory, host memory and register file list addresses and keys in strictly rising order and no entry that equals what an unlisted one reads as, every step of every command leads to such a state (R30, R8, R354.) -/
def Obligations.StepKeepsCanonicalForm : Prop :=
  ∀ (s t : State), Canon s → step s = .next t → Canon t

/-- O5. The state right after reset has its memories and register file in canonical form (R402.) -/
def Obligations.ResetIsCanonical : Prop :=
  Canon State.reset

/-- O6. After bytes are stored from an address upward, each of those addresses reads its new byte, every other address reads as before, and the canonical form is kept (R30, R34.) -/
def Obligations.MemoryReadsAfterWrites : Prop :=
  ∀ (m : Memory) (a : Nat) (bs : List Byte),
    (∀ i, (h : i < bs.length) → mget (mwrite m a bs) (a + i) = bs[i]) ∧
    (∀ b, b < a ∨ a + bs.length ≤ b → mget (mwrite m a bs) b = mget m b) ∧
    (Memory.wf m = true → Memory.wf (mwrite m a bs) = true)

/-- O7. After reset the A-clock limit and the thermal ceiling are 900 MHz, the shares of the fixed split are 10, 4 and 2, the PPS window is 100,000 ns, the time is 0, no status bit of GLB_STATUS is set, and the measurement registers are zero (R415, R420, R39, R360, R403, R359.) -/
def Obligations.ResetRegisterValues : Prop :=
  State.reset.fld Reg.pwrStatus 19 10 = 900 ∧ State.reset.fld Reg.pwrStatus 29 20 = 900 ∧
  State.reset.fld Reg.memSplit 3 0 = 10 ∧ State.reset.fld Reg.memSplit 7 4 = 4 ∧ State.reset.fld Reg.memSplit 11 8 = 2 ∧
  State.reset.fld Reg.glbPps 63 32 = 100000 ∧ State.reset.clock.timeF = 0 ∧ State.reset.fld Reg.glbStatus 5 0 = 0 ∧
  (∀ n, n < 8 → State.reset.meas n = List.replicate 64 0)

/-- O8. POR_N low for at least 10 us, VDD_AON below its limit for at least 1 us, or REFCLK without an edge for at least 1 us sets the hold of that cause and lowers HPWR_EN, noting when it went low, and changes nothing else but what a journal write in progress leaves (whether its new copy is broken is free: log 13); a pulse below 1 us changes nothing (R435, R481, R482, R479.) -/
def Obligations.ResetHoldsAreTaken : Prop :=
  ∀ (s : State) (n : Nat),
    let held := fun (t : State) (p : Pins) =>
      t = { s with pins := { p with hpwrEn := false, hpwrLowAt := if s.pins.hpwrEn then s.clock.timeF else s.pins.hpwrLowAt }, boot := t.boot, free := t.free } ∧
      (s.boot.writing = none → t.boot = s.boot ∧ t.free = s.free) ∧
      (∀ x, s.boot.writing = some x → t.boot.writing = none ∧ (t = { s with pins := t.pins, boot := { s.boot with writing := none }, free := s.free + 1 } ∨
        t = { modJournal x (recordBreak true) s with pins := t.pins, boot := { (modJournal x (recordBreak true) s).boot with writing := none }, free := s.free + 1 }))
    (10000 ≤ n → ∃ t, exec (.porAssert n) s = .next t ∧ held t { s.pins with porLow := true }) ∧
    (1000 ≤ n → ∃ t, exec (.aonBrownout n) s = .next t ∧ held t { s.pins with aonLow := true }) ∧
    (1000 ≤ n → ∃ t, exec (.refclkLoss n) s = .next t ∧ held t { s.pins with refclkLost := true }) ∧
    (n < 1000 → exec (.porAssert n) s = .next s ∧ exec (.aonBrownout n) s = .next s ∧ exec (.refclkLoss n) s = .next s)

/-- O9. When the last hold of the reset ends (POR_N, VDD_AON or REFCLK), every part of the device is as after power-on: the time, the scheduler, translation, the mailbox, the Ember log, the host interface, SMBus, the fabric, Sweep, the media engines, capture, shaping, ingest, tracking, the pipelines, the twin link, the Damper and the debug unit; no image runs; the Stage 1 slots and the journal of on-chip flash stay, as do the NVM and host memory; the anti-rollback counters, the margins and the repair map read what the journal's valid newer copies hold, and every other register reads its reset value; the straps are sampled at the release of POR_N and kept over a return of VDD_AON or REFCLK (device memory then reads 0, which is the model's choice: log 2; the straps' keeping: log 49) (R402, R374, R435, R481, R482, R483.) -/
def Obligations.ResetReleaseKeepsFlash : Prop :=
  ∀ (s : State) (b r : BitVec 2) (a : BitVec 3),
    let startsAgain := fun (t : State) (b r : BitVec 2) (a : BitVec 3) =>
      (∀ k, t.reg k =
        if k = Reg.secArb0 then BitVec.ofNat 64 (((recordRead s.boot.counters).getD []).getD 0 0)
        else if k = Reg.secArb1 then BitVec.ofNat 64 (((recordRead s.boot.counters).getD []).getD 1 0)
        else if k = Reg.pwrMargin then BitVec.ofNat 64 (((recordRead s.boot.marginRecord).getD []).getD 0 0)
        else regReset k) ∧
      t.mem = [] ∧ t.poison = [] ∧ t.hostMem = s.hostMem ∧ t.pending = s.pending ∧
      t.clock = {} ∧ t.qm = {} ∧ t.mmu = {} ∧ t.attn = none ∧ t.mail = {} ∧ t.ember = {} ∧ t.hif = {} ∧ t.smbus = {} ∧ t.fabric = {} ∧ t.sweep = {} ∧
      t.media = {} ∧ t.capture = {} ∧ t.shaper = {} ∧ t.ingest = [] ∧ t.track = {} ∧ t.pipes = [] ∧ t.twin = {} ∧ t.pwr = {} ∧ t.dbg = {} ∧
      t.boot.flashA = s.boot.flashA ∧ t.boot.flashB = s.boot.flashB ∧ t.boot.nvm = s.boot.nvm ∧ t.boot.counters = s.boot.counters ∧
      t.boot.marginRecord = s.boot.marginRecord ∧ t.boot.mapRecord = s.boot.mapRecord ∧ t.boot.repairMap = (recordRead s.boot.mapRecord).getD [] ∧
      t.boot.step = 0 ∧ t.boot.s1 = none ∧ t.boot.running = none ∧ t.boot.loaded = none ∧ t.boot.cfg = none ∧ t.boot.loader = none ∧
      t.pins.bootSrc = b ∧ t.pins.twinRole = r ∧ t.pins.smbAddr = a ∧ t.pins.hpwrEn = false ∧ t.pins.snuffDrive = false ∧ t.inReset = false
    (s.pins.porLow = true → s.pins.refclkLost = false → s.pins.aonLow = false →
      ∃ t, exec (.porRelease b r a) s = .next t ∧ startsAgain t b r a) ∧
    (s.pins.aonLow = true → s.pins.porLow = false → s.pins.refclkLost = false →
      ∃ t, exec (.vddAonReturn b r a) s = .next t ∧ startsAgain t s.pins.bootSrc s.pins.twinRole s.pins.smbAddr) ∧
    (s.pins.refclkLost = true → s.pins.porLow = false → s.pins.aonLow = false →
      ∃ t, exec (.refclkReturn b r a) s = .next t ∧ startsAgain t s.pins.bootSrc s.pins.twinRole s.pins.smbAddr)

/-- O10. With BOOT_SRC other than 1, a low PERST_N of at least 1 us clears the measurement registers, the time and device memory outside the Ember log, drops the live-updated image, and keeps on-chip flash, the straps, the vault lock, the bits UNTRUSTED, REPLACE_REQUESTED and DEGRADED of GLB_STATUS, REPLACE_N, and a thermal trip; with BOOT_SRC 1 it resets the endpoint only, as a PF FLR, with the link down until it trains again, and reports the reset; below 1 us it changes nothing; the release of PERST_N only lifts the level (that lost memory reads 0 is the model's choice: log 2; the counters and margins are read from the journal, with no write of it in progress: log 13) (R402, R369, R435, R444, R482.) -/
def Obligations.PerstResetScope : Prop :=
  ∀ (s : State) (n : Nat),
    (1000 ≤ n → s.pins.perstLow = false → s.inReset = false → s.pins.bootSrc ≠ 1 →
      ∃ t, exec (.perstAssert n) s = .next t ∧
        (∀ m, m < 8 → t.meas m = List.replicate 64 0) ∧ t.clock = {} ∧
        (∀ a, a < emberBase ∨ emberBase + 0x20000 ≤ a → mget t.mem a = 0) ∧
        (∀ a, emberBase ≤ a → a < emberBase + 0x20000 → mget t.mem a = mget s.mem a) ∧
        t.boot.flashA = s.boot.flashA ∧ t.boot.flashB = s.boot.flashB ∧ t.boot.loaded = none ∧ t.boot.running = none ∧
        t.pins.bootSrc = s.pins.bootSrc ∧ t.pins.twinRole = s.pins.twinRole ∧ t.pins.smbAddr = s.pins.smbAddr ∧
        t.pins.replaceLow = s.pins.replaceLow ∧ t.fld Reg.glbStatus 3 1 = s.fld Reg.glbStatus 3 1 ∧ t.bit Reg.glbStatus 0 = false ∧
        t.bit Reg.secBootstat 11 = s.bit Reg.secBootstat 11 ∧ t.dbg.tripped = s.dbg.tripped ∧
        (s.boot.writing = none → t.arb 1 = nbits (((recordRead s.boot.counters).getD []).getD 0 0 % 2 ^ 64) 31 0 ∧
          t.arb 2 = nbits (((recordRead s.boot.counters).getD []).getD 0 0 % 2 ^ 64) 63 32 ∧
          t.arb 3 = nbits (((recordRead s.boot.counters).getD []).getD 1 0 % 2 ^ 64) 31 0 ∧
          t.reg Reg.pwrMargin = BitVec.ofNat 64 (((recordRead s.boot.marginRecord).getD []).getD 0 0)) ∧
        (s.dbg.tripped = true → t.pwrState = 3 ∧ t.snuffed = true ∧ t.pins.snuffDrive = s.pins.snuffDrive)) ∧
    (1000 ≤ n → s.pins.perstLow = false → s.up = true → s.pins.bootSrc = 1 →
      ∃ u, exec .pfFlr s = .next u ∧
        exec (.perstAssert n) s = .next
          (({ report u 0x0A 0x60 3 1 0 with hif := { u.hif with linkUp := false }, pins := { u.pins with perstLow := true } } : State).setReg Reg.hifLink 0)) ∧
    (n < 1000 → exec (.perstAssert n) s = .next s) ∧
    exec .perstRelease s = .next { s with pins := { s.pins with perstLow := false } }

/-- O11. RESET_RELEASE before step 2 of R24, with no reset held and PERST_N released or BOOT_SRC 1, brings the device to step 2 with the board power cap at 75 W and touches no other register; Stage 0 then enters recovery wait when BOOT_SRC is 3 or no slot is sound, and otherwise starts the Stage 1 image of the slot that R395 chooses, at step 3; link training, at any step from 2 on, brings the endpoint up with the speed and width trained and delays no step; and Stage 1 at step 3 computes F_SUS and runs the A-clocks at the lower of 750 MHz and F_SUS with the four rails at V_n of it, HPWR_EN high unless a thermal trip holds it (R24, R352, R395, R397, R411, R429, R479.) -/
def Obligations.StartOrderSteps2To5 : Prop :=
  ∀ (s : State),
    (s.boot.step < 2 → s.inReset = false → (s.pins.bootSrc = 1 ∨ s.pins.perstLow = false) →
      ∃ t, exec .resetRelease s = .next t ∧ t = { s with regs := t.regs, boot := { s.boot with step := 2 }, ember := t.ember } ∧
        t.fld Reg.pwrPower 47 32 = 7500 ∧ OnlyRegs [Reg.pwrPower] s t) ∧
    (∀ (o : Nat) (found : EccFound), s.up = true → s.boot.step = 2 → s.fld Reg.secBootstat 2 0 = 0 → s.boot.loader = none →
      (s.pins.bootSrc = 3 → exec (.stage0Start o found) s = .next (s.setFld Reg.secBootstat 2 0 3)) ∧
      (∀ b, s.pins.bootSrc ≠ 3 → chooseSlot 1 0x80000 0x80000 s.boot.flashA s.boot.flashB = some b →
        ∃ t, exec (.stage0Start o found) s = .next t ∧ t.boot.step = 3 ∧ t.mem = s.mem ∧
          t.fld Reg.secBootstat 2 0 = 1 ∧ t.fld Reg.secBootstat 5 4 = b.toNat ∧
          t.boot.s1.map (·.version) = some (BitVec.ofNat 32 (hdrVersion (padTo 4096 (if b then s.boot.flashB else s.boot.flashA))))) ∧
      (s.pins.bootSrc ≠ 3 → chooseSlot 1 0x80000 0x80000 s.boot.flashA s.boot.flashB = none →
        exec (.stage0Start o found) s = .next (s.setFld Reg.secBootstat 2 0 3))) ∧
    (∀ (speed : BitVec 3) (width : BitVec 5), s.up = true →
      ∃ t, exec (.linkTrained speed width) s = .next t ∧ t.hif.linkUp = true ∧ t.fld Reg.hifLink 2 0 = speed.toNat ∧ t.fld Reg.hifLink 7 3 = width.toNat ∧
        t.bit Reg.hifLink 8 = decide (speed.toNat < 5 ∨ width.toNat < 8) ∧ OnlyRegs [Reg.hifLink] s t ∧
        t = { s with regs := t.regs, hif := { s.hif with linkUp := true, outage := false }, ember := t.ember }) ∧
    (∀ (p : StartResult), s.up = true → s.boot.step = 3 →
      ∃ t, exec (.stage1Start p) s = .next t ∧
        let sus := t.fSus.getD 300
        t.fld Reg.pwrStatus 39 30 = sus ∧ t.fld Reg.pwrStatus 9 0 = min 750 sus ∧
        (∀ n, n < 4 → t.fld Reg.pwrVolt (10 * n + 9) (10 * n) = t.vOf n (min 750 sus)) ∧
        t.pins.hpwrEn = !s.dbg.tripped ∧ t.pwr.target = min 750 sus ∧ t.pwr.railsFor = min 750 sus ∧ t.pwr.seq = .idle)

/-- O12. Stage 1 at step 3 reaches step 7 with GDDR6 trained, the staging window open, GLB_CAPS reporting the cores and channels that are left, and MEM_CAPACITY the usable bytes and the channels in service (the usable bytes of fewer than 15 channels are deduced: log 52); a payload block that lands before the last is digested and counted by its loader and changes no register and no byte of device memory; the last block ends the load: the image is recorded with its version and CAUSE, its own measurement register and M4 are extended (M0 of Stage 1, M1 of the firmware, M2 of the configuration block), a CAUSE other than 0 sets its bit of FAIL and locks the key vault, and with the configuration block the shares of MEM_SPLIT come into force (R24, R31, R39, R390, R391, R394, R399, R400, R403.) -/
def Obligations.Stage1AndContainerBlocks : Prop :=
  ∀ (s : State), s.up = true →
    (∀ (p : StartResult), s.boot.step = 3 →
      let chans := (~~~(p.untrained ||| p.unrepairable ||| s.boot.nextChannels)).toNat
      let nch := ((List.range 16).filter fun g => chans.testBit g).length
      let cutOff := fun h => (p.failedModules.toNat.testBit (2 * h) && p.failedModules.toNat.testBit (2 * h + 1)) || s.boot.nextHearths.toNat.testBit h
      let inService := fun c => !p.failedCores.toNat.testBit c && !cutOff (c / 4)
      ∃ t, exec (.stage1Start p) s = .next t ∧ t.boot.step = 7 ∧ t.fabric.gddrTrained = true ∧ t.boot.xspi = some p.xspi ∧
        t.boot.march = (s.boot.march + 1) % 16 ∧ (p.vddqMv ≠ 1300 → t.fabric.gddr135 = decide (1300 < p.vddqMv)) ∧
        t.bit Reg.secBootstat 3 = true ∧ t.fld Reg.memCapacity 55 40 = chans ∧ t.fld Reg.memCapacity 39 0 = usableBytes p.build32 nch ∧
        t.fld Reg.glbCaps4 44 40 = nch ∧ t.fld Reg.glbCaps2 8 4 = ((List.range 16).filter inService).length ∧
        (∀ c, c < 16 → (t.fld Reg.glbCaps2 31 16).testBit c = inService c)) ∧
    (∀ (l : Loader), s.boot.loader = some l →
      let d := sha (l.read s (4096 + 65536 * l.landed) (min 65536 (hdrLen l.head - 65536 * l.landed)))
      (l.landed + 1 < hdrBlocks l.head →
        ∃ t l', exec .containerBlockLanded s = .next t ∧ t.boot.loader = some l' ∧ l'.landed = l.landed + 1 ∧ l'.digests = l.digests ++ [d] ∧
          l'.cause = (if l.cause = 0 ∧ d ≠ hdrDigest l.head l.landed then 4 else l.cause) ∧
          t.regs = s.regs ∧ t.mem = s.mem ∧ t = { s with boot := t.boot, fabric := t.fabric }) ∧
      (hdrBlocks l.head ≤ l.landed + 1 → ∃ t c, exec .containerBlockLanded s = .next t ∧
        c = (if l.cause ≠ 0 then l.cause else if d ≠ hdrDigest l.head l.landed then 4
             else if l.poisoned || l.poison s (4096 + 65536 * l.landed) (min 65536 (hdrLen l.head - 65536 * l.landed)) then 5 else 0) ∧
        let measured := fun (r : Nat) (kind : Byte) (im : Image) =>
          t.meas r = ofB512 (sha (s.meas r ++ ofB512 im.measure)) ∧
          t.meas 4 = ofB512 (sha (s.meas 4 ++ ofB512 (sha (verRecord kind im.source c im.version)))) ∧
          (c ≠ 0 → t.bit Reg.secBootstat (7 + kind.toNat) = true ∧ t.bit Reg.secBootstat 11 = true ∧ t.bit Reg.glbStatus 1 = true)
        (l.kind = 1 →
          let im := imageOf l.head 1 l.source c (l.digests ++ [d])
          t.boot.s1 = some im ∧ t.boot.step = 3 ∧ t.boot.loader = none ∧ t.fld Reg.secBootstat 2 0 = 1 ∧ t.fld Reg.secBootstat 5 4 = 2 ∧
          t.fld Reg.secBootstat 15 12 = c.toNat % 16 ∧ t.fld Reg.secVersions 31 0 = im.version.toNat ∧ measured 0 1 im) ∧
        (l.kind = 2 →
          let im := imageOf l.head 0 l.source c (l.digests ++ [d])
          t.boot.running = some im ∧ t.fld Reg.secBootstat 19 16 = c.toNat % 16 ∧ measured 1 2 im) ∧
        (l.kind = 3 →
          let im := imageOf l.head 0 l.source c (l.digests ++ [d])
          t.boot.cfg = some im ∧ t.boot.step = 8 ∧ t.boot.loader = none ∧ t.fld Reg.secBootstat 23 20 = c.toNat % 16 ∧ measured 2 3 im ∧
          (∀ (v : Tlv) (x y z : Byte), cfgBlock t.boot.cfgCopy = some [v] → v.typ = 3 → v.broken [v] = false → v.val = [x, y, z, 0] → splitBad v.val = none →
            t.fld Reg.memSplit 3 0 = x.toNat % 16 ∧ t.fld Reg.memSplit 7 4 = y.toNat % 16 ∧ t.fld Reg.memSplit 11 8 = z.toNat % 16))))

/-- O13. A PF write of SEC_PUSH takes a sound Stage 1 container in recovery wait, a sound firmware container while Stage 1 waits for it, and a configuration block while the staging window is open, no firmware has been loaded and BOOT_SRC is not 1, and reports result 1; an unsound image in its stage is reported as result 2, and any push outside its stage as result 4, and neither starts a load (no function-level reset lasting) (R389, R397, R401.) -/
def Obligations.PushesAreJudgedByStage : Prop :=
  ∀ (s : State), s.up = true → s.hif.flr = [] →
    (s.fld Reg.secBootstat 2 0 = 3 → sound 1 0x1D0000 (mread s.mem 0x2001410000 4096) = true →
      ∃ t l, exec (.pushS1 .pf) s = .next t ∧ t.boot.loader = some l ∧ l.kind = 1 ∧ l.base = 0x2001410000 ∧ t.fld Reg.secBootstat 27 24 = 1) ∧
    (s.fld Reg.secBootstat 2 0 = 4 → sound 2 0x100000 (mread s.mem 0 4096) = true →
      ∃ t l, exec (.pushFw .pf) s = .next t ∧ t.boot.loader = some l ∧ l.kind = 2 ∧ l.base = 0 ∧ t.fld Reg.secBootstat 27 24 = 1) ∧
    (s.bit Reg.secBootstat 3 = true → s.pins.bootSrc ≠ 1 → s.boot.running = none →
      ∃ t, exec (.pushCfg .pf) s = .next t ∧ t.boot.cfgPushed = true ∧ t.fld Reg.secBootstat 27 24 = 1) ∧
    (s.fld Reg.secBootstat 2 0 = 3 → sound 1 0x1D0000 (mread s.mem 0x2001410000 4096) = false →
      ∃ t, exec (.pushS1 .pf) s = .next t ∧ t.boot = s.boot ∧ t.fld Reg.secBootstat 27 24 = 2) ∧
    (s.fld Reg.secBootstat 2 0 = 4 → sound 2 0x100000 (mread s.mem 0 4096) = false →
      ∃ t, exec (.pushFw .pf) s = .next t ∧ t.boot = s.boot ∧ t.fld Reg.secBootstat 27 24 = 2) ∧
    (s.fld Reg.secBootstat 2 0 ≠ 3 → ∃ t, exec (.pushS1 .pf) s = .next t ∧ t.boot = s.boot ∧ t.fld Reg.secBootstat 27 24 = 4) ∧
    (s.fld Reg.secBootstat 2 0 ≠ 4 → ∃ t, exec (.pushFw .pf) s = .next t ∧ t.boot = s.boot ∧ t.fld Reg.secBootstat 27 24 = 4) ∧
    (s.bit Reg.secBootstat 3 = false ∨ s.pins.bootSrc = 1 ∨ s.boot.running ≠ none →
      ∃ t, exec (.pushCfg .pf) s = .next t ∧ t.boot = s.boot ∧ t.fld Reg.secBootstat 27 24 = 4)

/-- O14. MAIN_FW_START at step 8 leads to step 9 with GLB_STATUS.READY set, STAGE 2, WINDOW clear, and the mail rings taken into use with a READY message, and no other, waiting to be posted; without a configuration block partition 0 holds every core in service and all semaphores, the ceiling is 900 MHz and the cap stays; a block of one TLV puts its POWER values, its PARTITION or, with no slots, its CYCLE into QM_PART, QM_CYCLE, PWR_POWER and F_CEIL and is counted in SEC_CFGINFO; at any other step it changes nothing (a block rejected as a whole is SOURCE 0: log 49) (R24, R333, R336, R345, R363, R378, R380, R381, R382, R401, R411, R412.) -/
def Obligations.MainFirmwareSetsReady : Prop :=
  ∀ (s : State), s.up = true →
    (s.boot.step = 8 →
      ∃ t, exec .mainFwStart s = .next t ∧ t.boot.step = 9 ∧ t.ready = true ∧ t.fld Reg.secBootstat 2 0 = 2 ∧ t.bit Reg.secBootstat 3 = false ∧
        t.mail.up = true ∧ t.mail.waiting.length = 1 ∧ (∀ m ∈ t.mail.waiting, leAt m 0 2 = 2) ∧
        (s.boot.cfgSource = 0 ∨ cfgBlock s.boot.cfgCopy = none →
          t.fld Reg.secCfginfo 1 0 = 0 ∧ t.pwr.fCeil = 900 ∧ t.reg Reg.memSplit = s.reg Reg.memSplit ∧ t.reg Reg.qmCycle = s.reg Reg.qmCycle ∧
          t.fld (Reg.qmPart 0) 15 0 = s.fld Reg.glbCaps2 31 16 ∧ t.bit (Reg.qmPart 0) 16 = (s.fld Reg.glbCaps2 31 16 != 0) ∧
          t.fld (Reg.qmPart 0) 45 32 = 0 ∧ t.fld (Reg.qmPart 0) 61 48 = 16383 ∧ (∀ p, 1 ≤ p → p < 16 → t.reg (Reg.qmPart p) = s.reg (Reg.qmPart p)) ∧
          t.fld Reg.pwrPower 47 32 = s.fld Reg.pwrPower 47 32) ∧
        (∀ (v : Tlv), s.boot.cfgSource ≠ 0 → cfgBlock s.boot.cfgCopy = some [v] → v.broken [v] = false →
          let took := t.fld Reg.secCfginfo 1 0 = s.boot.cfgSource.toNat ∧ t.bit Reg.secCfginfo 2 = true ∧ t.fld Reg.secCfginfo 27 16 = 1 ∧
            t.fld Reg.secCfginfo 39 28 = 0
          (∀ c f, v.typ = 7 → v.val = leBytes 2 c ++ leBytes 2 f ++ leBytes 4 0 → 2500 ≤ c → c ≤ 7500 → 300 ≤ f → f ≤ 900 → f % 25 = 0 →
            took ∧ t.fld Reg.pwrPower 47 32 = c ∧ t.pwr.fCeil = f ∧ (s.pwr.heldLoops = 0 → t.pwr.fReq = f)) ∧
          (∀ p m lo hi, v.typ = 1 → v.val = leBytes 1 p ++ leBytes 1 0 ++ leBytes 2 m ++ leBytes 2 lo ++ leBytes 2 hi → p < 16 → m < 2 ^ 16 → lo ≤ hi →
            hi < 16384 →
            took ∧ t.fld (Reg.qmPart p) 15 0 = m &&& s.fld Reg.glbCaps2 31 16 ∧ t.bit (Reg.qmPart p) 16 = (m &&& s.fld Reg.glbCaps2 31 16 != 0) ∧
            t.fld (Reg.qmPart p) 45 32 = lo ∧ t.fld (Reg.qmPart p) 61 48 = hi) ∧
          (∀ n ph, v.typ = 5 → v.val = leBytes 4 n ++ leBytes 4 ph → 0 < n → n ≤ 100000 → ph < n → s.qm.slots = [] →
            took ∧ t.fld Reg.qmCycle 16 0 = n ∧ t.fld Reg.qmCycle 48 32 = ph))) ∧
    (s.boot.step ≠ 8 → exec .mainFwStart s = .next s)

/-- O15. At the end of a window P_W is the mean powers of the rails plus the energies of the GDDR6 counts over its 40 us, in units of 10 mW rounded down, and P_S the mean of the last 250 windows; F_LIM falls by 100 MHz with a grant hold when P_W is above 1.25 times CAP, else falls by 25 MHz when both are above CAP, else rises by 25 MHz when both are below 0.95 times CAP and F_LIM has stood for 25 windows, within 300 to 900 MHz; the window touches only the power, status, throttle and voltage registers (the rounding of the estimate, and the mean over fewer than 250 windows, are deduced: log 52) (R410, R415, R416.) -/
def Obligations.LimiterWindow : Prop :=
  ∀ (s : State) (r : PowerReadings), s.inReset = false →
    let p := ((r.rails.map fun x => x.mv * x.ma * 1000).sum + 25 * (r.gddr.map fun c => c.activates * Config.gddrPj 0 + c.reads * Config.gddrPj 1 +
      c.writes * Config.gddrPj 2 + c.refreshes * Config.gddrPj 3).sum) / 10000000
    let cap := s.fld Reg.pwrPower 47 32
    let lim := s.fld Reg.pwrStatus 19 10
    let hist := (p :: s.pwr.hist).take 250
    let ps := hist.sum / hist.length
    ∃ t, exec (.powerWindow r) s = .next t ∧
      t.fld Reg.pwrStatus 19 10 =
        (if cap * 5 / 4 < p then max 300 (lim - 100)
         else if cap < p ∧ cap < ps then max 300 (lim - 25)
         else if p < cap * 95 / 100 ∧ ps < cap * 95 / 100 ∧ 24 ≤ s.pwr.sameWindows ∧ lim < 900 then min 900 (lim + 25)
         else lim) ∧
      (cap * 5 / 4 < p → t.bit Reg.pwrStatus 44 = true) ∧
      t.pwr.hist = hist ∧ t.fld Reg.pwrPower 31 16 = min p 65535 ∧ t.fld Reg.pwrPower 15 0 = min ps 65535 ∧ t.fld Reg.pwrPower 47 32 = cap ∧
      OnlyRegs [Reg.pwrPower, Reg.pwrStatus, Reg.pwrThrot, Reg.pwrVolt] s t ∧ t = { s with regs := t.regs, pwr := t.pwr }

/-- O16. A sample with T_MAX at 110 degrees or above sets F_TH to 300 MHz at most and arms the grant hold; one below 110 degrees leaves F_TH; the ceiling step lowers F_TH by 25 MHz, down to 300 MHz, from 100 degrees on, raises it by 25 MHz, up to 900 MHz, below 97 degrees, and leaves it between the two; a second sample in a row at 115 degrees or above trips: the Hearth rails go off, TRIPPED stands and Snuff begins, and an IDLE_EXIT on its way is answered BUSY (deduced: log 52) (R420, R421.) -/
def Obligations.ThermalCeilingRows : Prop :=
  ∀ (s : State), s.inReset = false →
    (∀ (a b c d m : BitVec 16), let t_max := max (max a.toInt b.toInt) (max (max c.toInt d.toInt) m.toInt)
      (s.pwr.hotOnce = false ∨ t_max < 920 →
        ∃ t, exec (.thermalSample a b c d m) s = .next t ∧
          t.fld Reg.pwrStatus 29 20 = (if 880 ≤ t_max then min 300 (s.fld Reg.pwrStatus 29 20) else s.fld Reg.pwrStatus 29 20) ∧
          t.pwr.holdHot = decide (880 ≤ t_max) ∧ t.reg Reg.pwrTemp0 = BitVec.ofNat 64 (a.toNat + 2 ^ 16 * b.toNat + 2 ^ 32 * c.toNat + 2 ^ 48 * d.toNat) ∧
          t.fld Reg.pwrTemp1 15 0 = m.toNat ∧ OnlyRegs [Reg.pwrTemp0, Reg.pwrTemp1, Reg.pwrStatus, Reg.pwrThrot] s t ∧
          t = { s with regs := t.regs, pwr := t.pwr }) ∧
      (s.pwr.hotOnce = true → 920 ≤ t_max → s.pwrState ≠ 3 → s.pwrState ≠ 1 → s.stopped = false →
        ∃ t, exec (.thermalSample a b c d m) s = .next t ∧ t.pins.hpwrEn = false ∧ t.dbg.tripped = true ∧ t.pwrState = 3 ∧
          t.fld Reg.dbgSnuff 9 8 = 1 ∧ t.fld Reg.dbgSnuff 18 16 = 6 ∧
          (∀ q, s.mail.busy = some (0x204, q) → message 0x204 1 q (leBytes 2 6 ++ []) ∈ t.mail.waiting))) ∧
    (800 ≤ sext 16 (s.fld Reg.pwrTemp1 31 16) →
      let f := s.fld Reg.pwrStatus 29 20
      ∃ t, exec .thermalCeilingStep s = .next t ∧ t.fld Reg.pwrStatus 29 20 = (if f ≤ 300 then f else max 300 (f - 25)) ∧
        OnlyRegs [Reg.pwrStatus, Reg.pwrThrot] s t ∧ t = { s with regs := t.regs }) ∧
    (776 ≤ sext 16 (s.fld Reg.pwrTemp1 31 16) → sext 16 (s.fld Reg.pwrTemp1 31 16) < 800 → exec .thermalCeilingStep s = .next s) ∧
    (sext 16 (s.fld Reg.pwrTemp1 31 16) < 776 →
      exec .thermalCeilingStep s = .next (s.setFld Reg.pwrStatus 29 20 (min 900 (s.fld Reg.pwrStatus 29 20 + 25))))

/-- O17. An acknowledged step puts the frequency at the step's value; the next step then lies 25 MHz towards the target; an upward step is taken only when the rails are up for the target, else the rails are raised first; settled rails start the steps; a rail that has not settled in time abandons the raise with F_REQ held for 1,000 power loops (R413, R479.) -/
def Obligations.FrequencySequencer : Prop :=
  ∀ (s : State), s.inReset = false →
    (s.pwr.seq = .steps → 25 ≤ s.pwr.stepTo → s.pwr.stepTo < 1024 →
      ∃ t, exec .pllStepAck s = .next t ∧ t.fld Reg.pwrStatus 9 0 = s.pwr.stepTo ∧
        (t.pwr.seq = .steps → t.pwr.stepTo + 25 = s.pwr.stepTo ∨ (t.pwr.stepTo = s.pwr.stepTo + 25 ∧ t.pwr.target ≤ t.pwr.railsFor)) ∧
        (s.pwr.stepTo < s.pwr.target → s.pwr.railsFor < s.pwr.target →
          t.pwr.seq = .rails ∧ ∀ n, n < 4 → t.fld Reg.pwrVolt (10 * n + 9) (10 * n) = s.vOf n s.pwr.target) ∧
        t.pwr.target = s.pwr.target ∧ OnlyRegs [Reg.pwrStatus, Reg.pwrVolt] s t ∧ t = { s with regs := t.regs, pwr := t.pwr }) ∧
    (s.pwr.seq = .rails → s.fld Reg.pwrStatus 9 0 < s.pwr.target →
      ∃ t, exec .railSettled s = .next t ∧ t.pwr.seq = .steps ∧ t.pwr.stepTo = s.fld Reg.pwrStatus 9 0 + 25 ∧ t.regs = s.regs) ∧
    (∀ n, s.pwr.seq = .rails →
      ∃ t, exec (.railSettleTimeout n) s = .next t ∧ t.pwr.seq = .idle ∧ t.pwr.target = s.fld Reg.pwrStatus 9 0 ∧
        t.pwr.fReq = s.fld Reg.pwrStatus 9 0 ∧ t.pwr.heldLoops = 1000 ∧ OnlyRegs [Reg.pwrVolt] s t ∧
        t = { s with regs := t.regs, pwr := t.pwr, ember := t.ember })

/-- O18. A droop detector stretches its Hearth alone and counts one stretch, a Hearth already stretched counts none, and the end of the stretch lifts it for that Hearth alone; each energy tick charges every activity count to one partition or to the device, raises that counter by the whole microjoules of its energies and carried remainder, carries the rest, and leaves the counters that nothing is charged to (R418, R430, R431.) -/
def Obligations.DroopAndEnergy : Prop :=
  ∀ (s : State), s.inReset = false →
    (∀ (n : Fin 4),
      (s.pwr.stretched.toNat.testBit n.val = false →
        ∃ t, exec (.droopFire n) s = .next t ∧ t.pwr.stretched = s.pwr.stretched ||| BitVec.ofNat 4 (2 ^ n.val) ∧
          t.fld Reg.pwrThrot 63 48 = min (s.fld Reg.pwrThrot 63 48 + 1) 65535 ∧ OnlyRegs [Reg.pwrThrot] s t) ∧
      (s.pwr.stretched.toNat.testBit n.val = true → exec (.droopFire n) s = .next s) ∧
      exec (.droopEnd n) s =
        .next { s with pwr := { s.pwr with stretched := s.pwr.stretched &&& ~~~(BitVec.ofNat 4 (2 ^ n.val)) } }) ∧
    (∀ (counts : List ActCount),
      let unit := 562500000000
      let mine := fun i => (counts.filter fun x => actPayer s x == i).map (actEnergy s)
      ∃ t, exec (.energyTick counts) s = .next t ∧
        (∀ i, i < 17 → mine i ≠ [] →
          t.reg (energyReg i) = s.reg (energyReg i) + BitVec.ofNat 64 ((tget 0 s.pwr.frac i + (mine i).sum) / unit) ∧
          tget 0 t.pwr.frac i = (tget 0 s.pwr.frac i + (mine i).sum) % unit) ∧
        (∀ i, mine i = [] → tget 0 t.pwr.frac i = tget 0 s.pwr.frac i ∧ (i < 17 → t.reg (energyReg i) = s.reg (energyReg i))) ∧
        OnlyRegs ((List.range 17).map energyReg) s t ∧ t = { s with regs := t.regs, pwr := { s.pwr with frac := t.pwr.frac } })

/-- O19. While the firmware loops run, every Hearth with a replica warning and a margin below 300 mV rises by one step of 5 mV, every other margin stays, the frequency stays, and the rail setpoint of each raised Hearth rises at once to what its new margin asks for at the frequency that the rails are set for, if it stands lower, while the others stay; the margins are written to the journal (which frequency the rails are set for, and that no rail is lowered, are deduced: log 52) (R427, R435.) -/
def Obligations.MarginLoopRaisesOneStep : Prop :=
  ∀ (s : State) (w : BitVec 4), s.up = true → s.loopsRun = true → w ≠ 0 → (∀ n, n < 4 → s.marginMv n ≤ 300) →
    ∃ t, exec (.marginLoop w) s = .next t ∧
      (∀ n, n < 4 → t.marginMv n = if w.toNat.testBit n = true ∧ s.marginMv n < 300 then s.marginMv n + 5 else s.marginMv n) ∧
      t.fld Reg.pwrStatus 9 0 = s.fld Reg.pwrStatus 9 0 ∧
      (∀ n, n < 4 → t.fld Reg.pwrVolt (10 * n + 9) (10 * n) =
        if w.toNat.testBit n = true ∧ s.marginMv n < 300 then max (s.fld Reg.pwrVolt (10 * n + 9) (10 * n)) (t.vOf n s.railF)
        else s.fld Reg.pwrVolt (10 * n + 9) (10 * n)) ∧
      ((∃ n, n < 4 ∧ w.toNat.testBit n = true ∧ s.marginMv n < 300) → recordRead t.boot.marginRecord = some [(t.reg Reg.pwrMargin).toNat])

/-- O20. While the firmware loops run, the power loop puts the pending cap and ceiling in force and sets F_REQ to the ceiling, or to the value held after a rail timeout; the ageing check reports one entry of source 0x09 for each Hearth whose mean frequency, at the voltage and within 5 degrees of its baseline, has fallen by 5 % or more (one entry a Hearth is deduced and the value that it carries, the fall in percent, is the model's choice: log 52); GRANT_HOLD_END clears the grant hold unless DEEP_IDLE, or the wake from it, holds grants; with F at 300 MHz and P_S above CAP, CAP_UNMET is set and one entry of source 0x09 is reported (R411, R412, R416, R417, R422, R428, R479.) -/
def Obligations.PowerLoopHoldsAndAgeing : Prop :=
  ∀ (s : State), s.inReset = false →
    (s.pwrState ≠ 1 → s.pwrState ≠ 2 → exec .grantHoldEnd s = .next (s.setBit Reg.pwrStatus 44 false)) ∧
    (s.fld Reg.pwrStatus 9 0 = 300 → s.fld Reg.pwrPower 47 32 < s.fld Reg.pwrPower 15 0 → s.bit Reg.pwrStatus 43 = false →
      exec .capUnmet s = .next (report (s.setBit Reg.pwrStatus 43 true) 0x09 0x50 (s.fld Reg.pwrPower 15 0) 0 0)) ∧
    (s.up = true → s.loopsRun = true →
      (∃ t, exec .powerLoop s = .next t ∧ t.pwr.capNext = none ∧ t.pwr.ceilNext = none ∧ t.pwr.fCeil = s.pwr.ceilNext.getD s.pwr.fCeil ∧
        t.pwr.fReq = (if s.pwr.heldLoops = 0 then s.pwr.ceilNext.getD s.pwr.fCeil else s.pwr.heldFreq) ∧ t.pwr.heldLoops = s.pwr.heldLoops - 1 ∧
        (∀ c, s.pwr.capNext = some c → c < 65536 → t.fld Reg.pwrPower 47 32 = c) ∧ (s.pwr.capNext = none → t.regs = s.regs) ∧
        OnlyRegs [Reg.pwrPower] s t) ∧
      (∀ (rs : List AgeReading), exec (.ageingCheck rs) s =
        .next ((List.range 4).foldl (fun s n => match rs[n]? with
          | some x => if x.mv = Config.baseMv n ∧ (x.temp - Config.baseTemp n).natAbs ≤ 40 ∧ x.khz * 100 ≤ Config.baseKhz n * 95 then
              report s 0x09 0x52 ((Config.baseKhz n - x.khz) * 100 / Config.baseKhz n) n 0 else s
          | none => s) s)))

/-- O21. A trained link shows its speed and width in HIF_LINK, with NARROW and one report below 32.0 GT/s or x8; a lost link drops writes to host memory; the PF's BAR2 takes one of its six sizes; PPS_LOCK_LOST clears LOCKED; unmasking a vector that has nothing pending unmasks it and sends no message, and one with a pending event sends one message (no function-level reset lasting) (R352, R353, R360, R368, R370.) -/
def Obligations.LinkTimeAndVectors : Prop :=
  ∀ (s : State), s.up = true →
    (∀ (sp : BitVec 3) (w : BitVec 5),
      let u := { (s.setFld Reg.hifLink 2 0 sp.toNat).setFld Reg.hifLink 7 3 w.toNat with hif := { s.hif with linkUp := true, outage := false } }
      (5 ≤ sp.toNat ∧ 8 ≤ w.toNat → exec (.linkTrained sp w) s = .next (u.setBit Reg.hifLink 8 false)) ∧
      (sp.toNat < 5 ∨ w.toNat < 8 → exec (.linkTrained sp w) s = .next (report (u.setBit Reg.hifLink 8 true) 0x04 0x30 sp.toNat w.toNat 0))) ∧
    exec .linkDown s = .next { s with hif := { s.hif with linkUp := false, outage := false } } ∧
    (∀ (u : State) (a : Nat) (bs : List Byte), exec .linkDown s = .next u → (hostWrite u a bs).hostMem = s.hostMem) ∧
    (∀ n, n ∈ [1, 2, 4, 8, 16, 32] → exec (.bar2Resize n) s = .next { s with hif := { s.hif with bar2 := n } }) ∧
    exec .ppsLockLost s = .next (s.setBit Reg.glbPpsStat 32 false) ∧
    (∀ (fn : Fn) (v : Fin 2048), v.val < fn.vectors → tfind s.hif.held fn.num = none → s.hif.flr = [] →
      let k := msixKey fn.num v.val 3
      let u := (bump s 88 4).msixSet k (BitVec.ofNat 32 (nput ((bump s 88 4).msixGet k).toNat 0 0 0))
      let e := 2048 * fn.num + v.val
      (tget false s.hif.pend e = false → exec (.msixUnmask fn v) s = .next u) ∧
      (tget false s.hif.pend e = true →
        exec (.msixUnmask fn v) s = .next (sendMsix { u with hif := { u.hif with pend := tset false s.hif.pend e false } } fn.num v.val)))

/-- O22. A BAR2 access that R354 and R50 bar reads zeros or is dropped, and is counted as a silent violation with its KIND, whether or not its window answers; else a window that does not answer reads zeros and drops writes, counted as violations only while the Hearths are off; else an access returns the bytes of device memory, or stores its bytes at the address of R354, and leaves every register but the byte counters; a read of a poisoned granule returns a poisoned completion, and a poisoned write poisons every granule that it meets and is recorded by AER (KIND 4 of the writes dropped in DEEP_IDLE, ADDR at the first byte: log 48; WAKING as DEEP_IDLE, windows before step 5 and those of a cut-off Hearth: log 62; AER and the granules of a poisoned write: log 63) (R354, R358, R50, R53, R34, R351, R398, R425.) -/
def Obligations.Bar2Accesses : Prop :=
  ∀ (s : State) (fn : Fn) (o n : Nat), s.up = true → 0 < n → o + n ≤ s.bar2Size fn →
    let x := s.bar2Addr fn o
    let arrived := fun (d : TlpData) => if d.poisoned then aerPoisoned fn (bump s 88 n) else bump s 88 n
    (∀ k, s.bar2Viol fn x n false = some k →
      exec (.bar2Read fn o n) s =
        .next (bump (viol { s with hif := { s.hif with reply := some ⟨List.replicate n 0, false⟩ } } x k (s.violPart fn)) 89 n)) ∧
    (∀ (d : TlpData) (k : Nat), d.bytes.length = n → s.bar2Viol fn x n true = some k →
      exec (.bar2Write fn o d) s = .next (viol (arrived d) x k (s.violPart fn))) ∧
    (s.bar2Quiet fn o = true →
      (s.bar2Viol fn x n false = none →
        exec (.bar2Read fn o n) s = .next (bump { s with hif := { s.hif with reply := some ⟨List.replicate n 0, false⟩ } } 89 n)) ∧
      ∀ d : TlpData, d.bytes.length = n → s.bar2Viol fn x n true = none → exec (.bar2Write fn o d) s =
        .next (if s.hearthsOff then viol (arrived d) x 4 (s.violPart fn) else arrived d)) ∧
    (s.bar2Quiet fn o = false →
    (s.bar2Viol fn x n false = none → s.markIn x n = none → s.lostIn false x n = none → s.deadIn x n = none →
      ∃ t, exec (.bar2Read fn o n) s = .next t ∧ t.hif.reply = some ⟨mread s.mem x n, false⟩ ∧
        OnlyRegs byteCounters s t ∧ t = { s with regs := t.regs, hif := { s.hif with reply := t.hif.reply } }) ∧
    (∀ k, s.bar2Viol fn x n false = none → s.markIn x n = some k →
      ∃ t, exec (.bar2Read fn o n) s = .next t ∧ t.hif.reply = some ⟨mread s.mem x n, true⟩ ∧ t.mem = s.mem) ∧
    (∀ d : TlpData, d.bytes.length = n → s.bar2Viol fn x n true = none → s.fabric.chFailed = 0 → s.fabric.lost = [] →
      (partSectors x n).all (fun k => !tget false s.poison k) = true →
      ∃ t, exec (.bar2Write fn o d) s = .next t ∧ t.mem = mwrite s.mem x d.bytes ∧
        (∀ a, a < x ∨ x + n ≤ a → mget t.mem a = mget s.mem a) ∧
        OnlyRegs byteCounters s t ∧ t = { s with regs := t.regs, mem := t.mem, poison := t.poison, hif := t.hif } ∧
        (d.poisoned = false → t.hif = s.hif) ∧
        (d.poisoned = true → (t.configOf fn).uncStatus = (s.configOf fn).uncStatus ||| 0x1000 ∧
          ∀ i, i < n → tget false t.poison ((x + i) / s.granule x * s.granule x) = true)))

/-- O23. A PF write of GLB_TIME waits for the next tick, in which every copy takes its value, and clears LOCKED, and a forward step that waited with it is dropped; one from a VF is a counted violation; an edge with EN set and no hold steps the copies forward, at the next tick, by the way to the nearest second when that lies ahead within the window, or holds them for the difference when it lies behind, with the measured error and LOCKED in GLB_PPS_STAT, and only counts an edge outside the window; with EN clear an edge does nothing, and during a hold it waits; the end of a hold lets the copies advance again and handles the edge that waited (no function-level reset lasting) (R22, R360, R53.) -/
def Obligations.TimeAlignment : Prop :=
  ∀ (s : State), s.up = true →
    (∀ ns : W64, tfind s.hif.held 0 = none → s.hif.flr = [] →
      ∃ t, exec (.glbTimeWrite .pf ns) s = .next t ∧ t = { (bump s 88 8).setBit Reg.glbPpsStat 32 false with clock := { s.clock with write := some ns, step := 0 } } ∧
        ∀ x : W64, t.clock.next x = ns) ∧
    (∀ (n : Fin 16) (ns : W64), tfind s.hif.held (Fn.vf n).num = none → s.hif.flr = [] →
      exec (.glbTimeWrite (.vf n) ns) s = .next (viol (bump s 88 8) Reg.glbTime 4 (s.violPart (.vf n)))) ∧
    (s.bit Reg.glbPps 0 = true → s.clock.hold = 0 →
      let now := s.clock.timeF.toNat
      let a := nearestSecond now
      let w := min (s.fld Reg.glbPps 63 32) 1000000
      (now ≤ a → a - now ≤ w →
        exec .ppsEdge s = .next { (s.setFld Reg.glbPpsStat 31 0 (toPat 32 ((now : Int) - a))).setBit Reg.glbPpsStat 32 true with
          clock := { s.clock with step := s.clock.step + BitVec.ofNat 64 (a - now) } }) ∧
      (a < now → now - a ≤ w →
        exec .ppsEdge s = .next { (s.setFld Reg.glbPpsStat 31 0 (now - a)).setBit Reg.glbPpsStat 32 true with
          clock := { s.clock with hold := now - a } }) ∧
      (w < a - now ∨ w < now - a → exec .ppsEdge s = .next (s.addSat Reg.glbPpsStat 63 48 1))) ∧
    (s.bit Reg.glbPps 0 = false → exec .ppsEdge s = .next s) ∧
    (s.bit Reg.glbPps 0 = true → s.clock.hold ≠ 0 → exec .ppsEdge s = .next { s with clock := { s.clock with ppsQueued := true } }) ∧
    (s.clock.hold ≠ 0 → s.clock.ppsQueued = false → exec .ppsHoldEnd s = .next { s with clock := { s.clock with hold := 0 } }) ∧
    (s.clock.hold ≠ 0 → s.clock.ppsQueued = true →
      exec .ppsHoldEnd s = exec .ppsEdge { s with clock := { s.clock with hold := 0, ppsQueued := false } })

/-- O24. A whole write of a register without an action puts the written value into its rw bits, clears the w1c bits that are written 1 and keeps every other bit and register; a read returns the register and clears its rc fields alone; a low half is held per function until the high half of the same register completes it, and a low-half read latches the high half for the next read; a function that may not reach the register reads zeros, and its access only counts a violation; QM_QTAB, MMU_INV_ADDR and HEARTH_RTAB take their value likewise, the first only while every queue is DISABLED, and under Snuff their writes are recorded (log 32; no function-level reset lasting) (R8, R10, R53, R189, R355, R468.) -/
def Obligations.Bar0Accesses : Prop :=
  ∀ (s : State) (fn : Fn) (o : Nat) (row : RegRow), s.up = true → s.hif.flr = [] → o % 8 = 0 → regAt o = some (row, o) → row.bytes = 8 → row.off % 8 = 0 →
    barWindow fn o = none → barWindow fn (o + 4) = none → shortAt (o + 4) = none →
    (tfind s.hif.held fn.num = none → ∀ v : W64,
      let u := bump s 88 8
      let k := busKey fn row o
      (barred u fn row o true = true → exec (.registerWrite fn o (leBytes 8 v.toNat)) s = .next (denied u fn o)) ∧
      (barred u fn row o true = false → row.name ∈ ["GLB_ID", "GLB_UID", "GLB_STATUS", "GLB_PPS_STAT", "HIF_LINK", "HIF_B2WIN", "HIF_MAIL_STAT",
          "HIF_NOTE", "HIF_HDROP", "QM_QSEL", "QM_CSEL", "QM_STALL_TIME", "MEM_CAPACITY", "MEM_SPLIT", "HEARTH_EFLAG",
          "MEDIA_SCMD_ADDR", "MEDIA_SSEL", "MEDIA_BUFSEL", "TRACK_CMD_ADDR", "PWR_STATUS", "PWR_POWER", "REL_LOG", "SEC_BOOTSTAT", "SEC_VERSIONS"] →
        exec (.registerWrite fn o (leBytes 8 v.toNat)) s =
          .next (u.setReg k (((u.reg k &&& ~~~(BitVec.ofNat 64 row.rw)) ||| (v &&& BitVec.ofNat 64 row.rw)) &&& ~~~(BitVec.ofNat 64 row.w1c &&& v)))) ∧
      (barred u fn row o true = false → row.name = "MMU_INV_ADDR" ∨ row.name = "HEARTH_RTABt" ∨ row.name = "QM_QTAB" →
        ∃ t, exec (.registerWrite fn o (leBytes 8 v.toNat)) s = .next t ∧
          (s.stopped = false →
            t.reg k = (if row.name = "QM_QTAB" ∧ s.qm.queues.any (fun x => x.2.state != .disabled) then s.reg k
              else (s.reg k &&& ~~~(BitVec.ofNat 64 row.rw)) ||| (v &&& BitVec.ofNat 64 row.rw)) ∧
            OnlyRegs [k, Reg.dbgBcnt 88] s t ∧ t = { s with regs := t.regs }) ∧
          (s.stopped = true → OnlyRegs [Reg.dbgBcnt 88] s t ∧
            t = { s with regs := t.regs, dbg := { s.dbg with recorded := s.dbg.recorded ++ [.registerWrite fn o (leBytes 8 v.toNat)] } }))) ∧
    (let u : State := { bump s 89 8 with hif := { s.hif with latch := terase s.hif.latch fn.num } }
     let k := busKey fn row o
     (barred u fn row o false = true →
      ∃ t, exec (.rcRead fn o 8) s = .next t ∧ t.hif.reply = some ⟨List.replicate 8 0, false⟩ ∧
        OnlyRegs (Reg.dbgViolCount :: Reg.dbgViolLast :: byteCounters) s t) ∧
     (barred u fn row o false = false →
      ∃ t, exec (.rcRead fn o 8) s = .next t ∧ t.hif = { u.hif with reply := some ⟨leBytes 8 (regView u fn row o).toNat, false⟩ } ∧
        t.reg k = u.reg k &&& ~~~(BitVec.ofNat 64 row.rc) ∧ OnlyRegs [k] u t ∧ t = { u with regs := t.regs, hif := t.hif })) ∧
    (tfind s.hif.held fn.num = none → ∀ v : W32,
      exec (.bar0HalfWrite fn o v) s = .next { bump s 88 4 with hif := { s.hif with held := tput s.hif.held fn.num ⟨o, v⟩ } }) ∧
    (∀ lo hi : W32, tfind s.hif.held fn.num = some ⟨o, lo⟩ →
      let u : State := { bump s 88 4 with hif := { s.hif with held := terase s.hif.held fn.num } }
      exec (.bar0HalfWrite fn (o + 4) hi) s = .next (write64 fn row o (BitVec.ofNat 64 (lo.toNat + hi.toNat * 2 ^ 32)) u)) ∧
    (∀ lo : W32, tfind s.hif.held fn.num = some ⟨o, lo⟩ → ∀ v : W64,
      exec (.registerWrite fn o (leBytes 8 v.toNat)) s =
        .next (write64 fn row o v (viol { bump s 88 8 with hif := { s.hif with held := terase s.hif.held fn.num } } o 7 (s.violPart fn)))) ∧
    (row.rc = 0 →
      let u : State := { bump s 89 4 with hif := { s.hif with latch := terase s.hif.latch fn.num } }
      let v := regView u fn row o
      barred u fn row o false = false →
      ∃ t, exec (.bar0HalfRead fn o) s = .next t ∧ t.hif.reply = some ⟨leBytes 4 (v.toNat % 2 ^ 32), false⟩ ∧
        tfind t.hif.latch fn.num = some ⟨o, BitVec.ofNat 32 (v.toNat / 2 ^ 32)⟩ ∧
        ∃ t', exec (.bar0HalfRead fn (o + 4)) t = .next t' ∧ t'.hif.reply = some ⟨leBytes 4 (v.toNat / 2 ^ 32), false⟩ ∧
          tfind t'.hif.latch fn.num = none ∧ OnlyRegs byteCounters s t' ∧ t' = { s with regs := t'.regs, hif := t'.hif })

/-- O25. After the reset of a VF its MSI-X table is masked with nothing pending, its BAR2 base is zero, and BAR0 holds no half of its accesses; of a VF without a partition nothing else changes but its recorded writes; a PF reset, and a hot reset alike, also clear the notes, the link and mail state and the count of dropped host writes and put BAR2 back to 1 GiB; the writes that Snuff has recorded for the function are dropped (deduced: log 32), and while the reset lasts, a BAR0 write of the function is dropped and counts its bytes alone (R369, R337.) -/
def Obligations.FunctionLevelResets : Prop :=
  ∀ (s : State), s.up = true →
    (∀ n : Fin 16, ∃ t, exec (.vfFlr n) s = .next t ∧
      t.reg (fnKey (n.val + 1) Reg.hifB2win) = 0 ∧ tfind t.hif.held (n.val + 1) = none ∧ tfind t.hif.latch (n.val + 1) = none ∧
      (∀ k, k / 8192 = n.val + 1 → t.msixGet k = msixReset k) ∧ (∀ k, k / 2048 = n.val + 1 → tget false t.hif.pend k = false) ∧
      (s.partOfVf n.val = none → OnlyRegs [fnKey (n.val + 1) Reg.hifB2win] s t ∧
        t.dbg.recorded = s.dbg.recorded.filter (fun i => writerOf i != some (.vf n)) ∧
        t = { s with regs := t.regs, hif := t.hif, dbg := t.dbg }) ∧
      (∀ i ∈ t.dbg.recorded, writerOf i ≠ some (.vf n))) ∧
    (∀ (fn : Fn) (o : Nat) (bs : List Byte), (flrSettle s).inFlr fn = true → exec (.registerWrite fn o bs) s = .next (flrSettle (bump s 88 bs.length))) ∧
    (let cleared := fun (t : State) => t.reg Reg.hifNote = 0 ∧ t.reg Reg.hifHdrop = 0 ∧ t.reg Reg.hifMailStat = 0 ∧ t.reg Reg.hifLink = 0 ∧
        t.reg (fnKey 0 Reg.hifB2win) = 0 ∧ t.hif.bar2 = 1 ∧ (∀ k, k < 8192 → t.msixGet k = msixReset k) ∧
        (∀ k, k < 2048 → tget false t.hif.pend k = false) ∧ tfind t.hif.held 0 = none ∧ tfind t.hif.latch 0 = none ∧
        (∀ i ∈ t.dbg.recorded, writerOf i ≠ some .pf)
     (∃ t, exec .pfFlr s = .next t ∧ cleared t) ∧ (∃ t, exec .hotReset s = .next t ∧ cleared t)) ∧
    exec .hotReset s = exec .pfFlr s

/-- O26. Each SMBus command returns the data of R372 and changes nothing but the target's own log flags and cursor: the identity block, the status word with the log flags, which are then cleared, the temperatures, power and cap, the Ember entry at the cursor, and the replacement byte; with a PEC byte the same data is followed by its packet error code; where PEC is required, a command without one or with a bad one is not answered (R371, R372, R373.) -/
def Obligations.SmbusCommands : Prop :=
  ∀ (s : State), s.up = true →
    let put := fun (bs : List Byte) (u : State) => { u with smbus := { u.smbus with reply := some bs } }
    (s.smbus.pecRequired = false →
      exec (.smbIdentity none) s = .next (put ([24] ++ leBytes 8 (s.reg Reg.glbId).toNat ++ leBytes 8 (s.reg Reg.glbUid).toNat ++
        leBytes 4 (s.fld Reg.secVersions 63 32) ++ leBytes 2 (s.fld Reg.hifMailStat 15 8) ++ leBytes 2 (s.fld Reg.hifMailStat 23 16)) s) ∧
      exec (.smbStatus none) s = .next (put (leBytes 2 (s.fld Reg.glbStatus 5 0 + 256 * s.smbus.lapped.toNat + 512 * s.smbus.empty.toNat))
        { s with smbus := { s.smbus with lapped := false, empty := false } }) ∧
      exec (.smbTemp none) s = .next (put (leBytes 2 (s.fld Reg.pwrTemp1 31 16)) s) ∧
      exec (.smbTempAll none) s = .next (put ([10] ++ leBytes 8 (s.reg Reg.pwrTemp0).toNat ++ leBytes 2 (s.fld Reg.pwrTemp1 15 0)) s) ∧
      (s.smbus.powerOff = false →
        exec (.smbPower none) s = .next (put (leBytes 2 (s.fld Reg.pwrPower 15 0)) s) ∧
        exec (.smbPowerCap none) s = .next (put (leBytes 2 (s.fld Reg.pwrPower 47 32)) s)) ∧
      (s.smbus.tailOff = false →
        (s.ember.count = 0 → exec (.smbEmberTail none) s = .next (put [0] { s with smbus := { s.smbus with empty := true } })) ∧
        (∀ c, s.emberHas c = true → c < 2 ^ 32 → s.smbus.cursor = some c ∨ (s.smbus.cursor = none ∧ (c + 1) % 2 ^ 32 = s.nextSeq) →
          exec (.smbEmberTail none) s = .next (put ([32] ++ mread s.mem (emberAddr c) 32)
            { s with smbus := { s.smbus with cursor := some ((c + 1) % 2 ^ 32) } }))) ∧
      (∃ b : Byte, exec (.smbReplace none) s = .next (put [b] s) ∧ (b.toNat.testBit 0 = s.bit Reg.glbStatus 2) ∧
        (b.toNat.testBit 1 = s.bit Reg.pwrStatus 45))) ∧
    (∀ (c : Option Bool → Instr) (n : Nat),
      (c, n) ∈ [(Instr.smbIdentity, 1), (Instr.smbStatus, 2), (Instr.smbTemp, 3), (Instr.smbTempAll, 4), (Instr.smbPower, 5), (Instr.smbPowerCap, 6),
        (Instr.smbEmberTail, 7), (Instr.smbReplace, 8)] →
      (s.smbus.pecRequired = true → exec (c none) s = .next { s with smbus := { s.smbus with reply := none } } ∧
        exec (c (some false)) s = .next { s with smbus := { s.smbus with reply := none } }) ∧
      (s.smbus.pecRequired = false → ∀ (bs : List Byte) (u : State), exec (c none) s = .next u → u.smbus.reply = some bs →
        ∀ good : Bool, exec (c (some good)) s = .next (put (bs ++ [pecOf (0x58 + s.pins.smbAddr.toNat) n bs]) u)))

/-- O27. The writer takes the oldest report of the source whose turn it is: a report that does not coalesce becomes one 32-byte entry at the place of its number, with the dropped count of its source, and SEQ moves on; one that coalesces raises REPEAT and DROPPED of the entry that holds it, up to their ends; no other byte of device memory changes (R442, R445.) -/
def Obligations.EmberWriterTakesOneReport : Prop :=
  ∀ (s : State) (src : Nat) (r : Report) (q : List Report), s.up = true → s.nextSource = some src → tget [] s.ember.queues src = r :: q →
    let d := tget 0 s.ember.dropped src
    (s.coalesces src r = none →
      ∃ t, exec .emberWrite s = .next t ∧ mread t.mem (emberAddr s.nextSeq) 32 = emberEntry src r d s.nextSeq ∧
        (∀ a, a < emberAddr s.nextSeq ∨ emberAddr s.nextSeq + 32 ≤ a → mget t.mem a = mget s.mem a) ∧
        t.nextSeq = (s.nextSeq + 1) % 2 ^ 32 ∧ t.ember.count = min 4096 (s.ember.count + 1) ∧
        t.fld Reg.relLog 63 32 = (if s.ember.count < 4096 then s.fld Reg.relLog 63 32 else satAdd 32 (s.fld Reg.relLog 63 32) 1) ∧
        tget [] t.ember.queues src = q ∧ tget 0 t.ember.dropped src = 0 ∧ t.ember.turn = src ∧
        OnlyRegs [Reg.relLog, Reg.relFirst src, Reg.relFirst src + 8, Reg.relFirst src + 16, Reg.relFirst src + 24] s t ∧
        t = { s with regs := t.regs, mem := t.mem, poison := t.poison, ember := t.ember, mail := t.mail }) ∧
    (∀ n, s.coalesces src r = some n →
      let a := emberAddr n
      ∃ t, exec .emberWrite s = .next t ∧ t.num (a + 12) 2 = min (s.num (a + 12) 2 + 1) 65535 ∧
        t.num (a + 14) 2 = min (s.num (a + 14) 2 + d) 65535 ∧
        (∀ b, b ≠ a + 9 → (b < a + 12 ∨ a + 16 ≤ b) → mget t.mem b = mget s.mem b) ∧
        tget [] t.ember.queues src = q ∧ tget 0 t.ember.dropped src = 0 ∧ (s.reg (Reg.relFirst src + 8) ≠ 0 → t.regs = s.regs) ∧
        OnlyRegs [Reg.relFirst src, Reg.relFirst src + 8, Reg.relFirst src + 16, Reg.relFirst src + 24] s t ∧
        t = { s with regs := t.regs, mem := t.mem, poison := t.poison, ember := t.ember })

/-- O28. A HELLO is answered with the firmware's versions and features: OK, and SESSION reads OPEN with the AND of the feature sets, when MAJOR and the mandatory bits agree, else VERSION_MISMATCH or MANDATORY_MISMATCH with SESSION REFUSED; PING echoes its payload; a doorbell tells firmware the requests up to H2F_PI; F2H_POST takes the oldest waiting message, stores it in the F2H ring, moves F2H_PI on and raises PF vector 0 (a refused HELLO clearing the feature set is deduced: log 52; no function-level reset lasting) (R364, R365, R366, R367.) -/
def Obligations.MailSessions : Prop :=
  ∀ (s : State) (r : Req),
    (TakesRequest s r 1 40 →
      let f := leAt r.payload 8 32
      let st := if leAt r.payload 0 2 ≠ 1 then 4 else if f % 2 ^ 32 ≠ 1 then 5 else 0
      ∃ t, exec .hello s = .next t ∧ AnswerWaits t r st (leBytes 2 1 ++ leBytes 2 0 ++ leBytes 2 0 ++ leBytes 32 fwFeatures) ∧
        t.fld Reg.hifMailStat 1 0 = (if st = 0 then 1 else 2) ∧ t.fld Reg.hifMailStat 7 2 = st ∧
        t.mail.features = (if st = 0 then BitVec.ofNat 256 (f &&& fwFeatures) else 0)) ∧
    (∀ n, n ≤ 54 → TakesRequest s r 4 n →
      ∃ t, exec .ping s = .next t ∧ AnswerWaits t r 0 (r.payload.take n)) ∧
    (s.up = true → tfind s.hif.held 0 = none → s.hif.flr = [] →
      ∃ t, exec (.mailDoorbell .pf) s = .next t ∧ t.mail.known = BitVec.ofNat 32 (s.num (mailBase + 0x40) 4) ∧ t.pwr = s.pwr ∧ t.qm = s.qm) ∧
    (∀ n : Fin 16, s.up = true → tfind s.hif.held (n.val + 1) = none → s.hif.flr = [] →
      exec (.mailDoorbell (.vf n)) s = .next (viol (bump s 88 4) Reg.hifMailDb 4 (s.violPart (.vf n)))) ∧
    (∀ m ms, s.up = true → s.mail.up = true → s.boot.fwStopped = false → s.f2hRoom = true → s.mail.waiting = m :: ms → m.length = 64 →
      s.fabric.chFailed = 0 → s.fabric.lost = [] → s.h2fCi = s.mail.known →
      ∃ u, exec .f2hPost s = .next (raiseMsix u 0 0) ∧ u.mail.waiting = ms ∧
        mread u.mem (mailBase + 0x5000 + 64 * (s.f2hPi.toNat % 256)) 64 = m ∧ u.f2hPi = s.f2hPi + 1)

/-- O29. With the vault unlocked a QUOTE writes the quote of R405 over the nonce, followed by its 512-byte signature, and reports its length, and with the vault locked it answers KEY_LOCKED; CERT and EVENT_LOG write their data at ADDR when MAX allows and report its length, and answer BAD_LENGTH otherwise; a refused QUOTE, CERT or EVENT_LOG writes no byte but the request index; EXTEND extends M7 with the digest at ADDR and adds an event, or answers LOG_FULL with M7 and the log unchanged (the signature and the certificate's bytes are free: log 11; that a refusal carries its STATUS alone is deduced: log 17) (R404, R405, R406.) -/
def Obligations.AttestationMessages : Prop :=
  ∀ (s : State) (r : Req), s.fabric.chFailed = 0 → s.fabric.lost = [] →
    let a := leAt r.payload 0 8
    let u := takeReq s
    let unwritten := fun (t : State) => ∀ x, x < mailBase + 0x80 ∨ mailBase + 0x84 ≤ x → mget t.mem x = mget s.mem x
    (TakesRequest s r 0x101 16 →
      let k := ((List.range 8).filter (nbit (leAt r.payload 8 1))).length
      (s.bit Reg.secBootstat 11 = true → ∃ t, exec .quote s = .next t ∧ AnswerWaits t r 7 [] ∧ unwritten t) ∧
      (s.bit Reg.secBootstat 11 = false → s.inGddrStaging a (624 + 64 * k) = true → (a + 624 + 64 * k ≤ mailBase ∨ mailBase + 0x1000 ≤ a) →
        ∃ t, exec .quote s = .next t ∧ AnswerWaits t r 0 ([0, 0] ++ leBytes 4 (624 + 64 * k)) ∧
          mread t.mem a (112 + 64 * k) = quoteBytes u (leAt r.payload 8 1) (mread u.mem a 64) ∧
          mread t.mem (a + 112 + 64 * k) 512 = (List.range 512).map (Config.signByte s.free))) ∧
    (TakesRequest s r 0x102 16 →
      (leAt r.payload 8 4 < certBytes.length → ∃ t, exec .cert s = .next t ∧ AnswerWaits t r 2 [] ∧ unwritten t) ∧
      (certBytes.length ≤ leAt r.payload 8 4 → s.inGddrStaging a certBytes.length = true → (a + certBytes.length ≤ mailBase ∨ mailBase + 0x1000 ≤ a) →
        ∃ t, exec .cert s = .next t ∧ AnswerWaits t r 0 ([0, 0] ++ leBytes 4 certBytes.length) ∧ mread t.mem a certBytes.length = certBytes)) ∧
    (TakesRequest s r 0x103 16 →
      let log := eventLogBytes s
      (leAt r.payload 8 4 < log.length → ∃ t, exec .eventLog s = .next t ∧ AnswerWaits t r 2 [] ∧ unwritten t) ∧
      (log.length ≤ leAt r.payload 8 4 → s.inGddrStaging a log.length = true → (a + log.length ≤ mailBase ∨ mailBase + 0x1000 ≤ a) →
        ∃ t, exec .eventLog s = .next t ∧ AnswerWaits t r 0 ([0, 0] ++ leBytes 4 log.length) ∧ mread t.mem a log.length = log)) ∧
    (TakesRequest s r 0x104 8 → s.inGddrStaging a 64 = true →
      (256 ≤ s.boot.evLog.length → ∃ t, exec .extend s = .next t ∧ AnswerWaits t r 13 [] ∧ t.meas 7 = s.meas 7 ∧ t.boot.evLog = s.boot.evLog) ∧
      (s.boot.evLog.length < 256 → ∃ t, exec .extend s = .next t ∧ AnswerWaits t r 0 [] ∧
        t.meas 7 = ofB512 (sha (s.meas 7 ++ mread u.mem a 64)) ∧ t.boot.evLog.length = s.boot.evLog.length + 1))

/-- O30. UPDATE_LOAD of a sound and verified container puts its image beside the running one, and a broken one leaves what was loaded; UPDATE_COMMIT without a loaded image answers NOT_LOADED, and otherwise begins the handover with the limiter held and Sweep suspended; the new image then runs, the commit is answered, and the hold ends, or after the time limit the old image goes on and the loaded one is dropped; a new image that refuses the handover blob starts its loops from safe defaults, with no request left to apply and no held frequency (log 14); UPDATE_ABORT drops the loaded image, or finds none, and answers OK (deduced: log 17); STAGE1_WRITE writes the slot not chosen at this start; NVM_WRITE copies its bytes (an UPDATE_LOAD refused for its CAUSE dropping the earlier image while a broken container keeps it, and STAGE1_WRITE to slot A when Stage 1 was pushed: log 52; refused replies of STATUS alone: log 17) (R406, R407, R408, R409.) -/
def Obligations.LiveUpdateMessages : Prop :=
  ∀ (s : State) (r : Req),
    let a := leAt r.payload 0 8
    let u := takeReq s
    (TakesRequest s r 0x110 8 → s.inGddrStaging a 4096 = true → ∀ run, s.boot.running = some run →
      (u.checkContainer 2 a = none → ∃ t, exec .updateLoad s = .next t ∧ AnswerWaits t r 8 [] ∧ t.boot.loaded = s.boot.loaded ∧ t.boot.running = some run) ∧
      (∀ c ds cause, u.checkContainer 2 a = some (c, ds, cause) → let im := imageOf c (run.bank + 1) 2 cause ds
        ∃ t acc, exec .updateLoad s = .next t ∧ t.boot.loaded = (if cause = 0 then some im else none) ∧ t.boot.running = some run ∧
          AnswerWaits t r (causeStatus cause) ([0, 0] ++ leBytes 4 im.version.toNat ++ [cause] ++ leBytes 1 acc) ∧
          (acc = 1 ↔ cause = 0 ∧ im.blobMin.toNat ≤ run.blobOut.toNat ∧ run.blobOut.toNat ≤ im.blobOut.toNat))) ∧
    (TakesRequest s r 0x111 0 →
      (s.boot.loaded = none → ∃ t, exec .updateCommit s = .next t ∧ AnswerWaits t r 10 [] ∧ t.boot.loaded = none ∧ t.boot.handover = s.boot.handover) ∧
      (∀ im run, s.boot.loaded = some im → s.boot.running = some run → s.snuffed = false →
        ∃ t, exec .updateCommit s = .next t ∧ t.boot.handover.isSome = true ∧ t.boot.blob.map (·.1) = some run.blobOut ∧ t.mail.busy = some (0x111, r.seq) ∧
          t.bit Reg.pwrStatus 42 = true ∧ t.bit Reg.relSweep 48 = true)) ∧
    (TakesRequest s r 0x112 0 → ∃ t, exec .updateAbort s = .next t ∧ t.boot.loaded = none ∧ t.boot.running = s.boot.running ∧ AnswerWaits t r 0 []) ∧
    (TakesRequest s r 0x113 8 → s.inGddrStaging a 4096 = true →
      (u.checkContainer 1 a = none → ∃ t, exec .stage1Write s = .next t ∧ t.boot.flashA = s.boot.flashA ∧ t.boot.flashB = s.boot.flashB ∧
        AnswerWaits t r 8 []) ∧
      (∀ c ds cause, u.checkContainer 1 a = some (c, ds, cause) →
        ∃ t, exec .stage1Write s = .next t ∧
          t.boot.flashB = (if cause = 0 ∧ s.fld Reg.secBootstat 5 4 = 0 then c else s.boot.flashB) ∧
          t.boot.flashA = (if cause = 0 ∧ s.fld Reg.secBootstat 5 4 ≠ 0 then c else s.boot.flashA) ∧
          AnswerWaits t r (causeStatus cause)
            (if cause = 0 then leBytes 1 (if s.fld Reg.secBootstat 5 4 = 0 then 1 else 0) else []))) ∧
    (TakesRequest s r 0x114 16 →
      let o := leAt r.payload 8 4
      let n := leAt r.payload 12 4
      s.inGddrStaging a n = true → o % 4096 = 0 → n % 4096 = 0 → o + n ≤ s.boot.nvmSize →
      ∃ t, exec .nvmWrite s = .next t ∧ t.boot.nvm = mwrite s.boot.nvm o (mread u.mem a n) ∧ AnswerWaits t r 0 []) ∧
    (s.up = true → s.boot.fwStopped = false → ∀ h im, s.boot.handover = some h → s.boot.loaded = some im →
      (∃ t, exec .newImageLoopsStarted s = .next t ∧ t.boot.running = some im ∧ t.boot.loaded = none ∧ t.boot.handover = none ∧
        t.bit Reg.pwrStatus 42 = false ∧ t.bit Reg.relSweep 48 = decide (s.pwrState = 1 ∨ s.pwrState = 2) ∧ t.fld Reg.secVersions 63 32 = im.version.toNat ∧
        (h.blob = true → t.pwr = s.pwr) ∧
        (h.blob = false → t.pwr.capNext = none ∧ t.pwr.ceilNext = none ∧ t.pwr.heldLoops = 0 ∧ 300 ≤ t.pwr.fReq ∧ t.pwr.fReq ≤ 900 ∧
          t.pwr.fReq % 25 = 0 ∧ t.pwr = { s.pwr with fReq := t.pwr.fReq, capNext := none, ceilNext := none, heldFreq := 0, heldLoops := 0 }) ∧
        (∀ q, s.mail.busy = some (0x111, q) →
          message 0x111 1 q (leBytes 2 0 ++ ([0, 0] ++ leBytes 4 im.version.toNat ++ leBytes 1 h.blob.toNat)) ∈ t.mail.waiting)) ∧
      (∃ t, exec .handoverTimeout s = .next t ∧ t.boot.loaded = none ∧ t.boot.handover = none ∧ t.boot.running = s.boot.running ∧
        t.bit Reg.pwrStatus 42 = false ∧ t.bit Reg.relSweep 48 = decide (s.pwrState = 1 ∨ s.pwrState = 2) ∧
        (∀ q, s.mail.busy = some (0x111, q) → message 0x111 1 q (leBytes 2 12 ++ []) ∈ t.mail.waiting)))

/-- O31. A cap of 25 to 75 W and a ceiling that is a multiple of 25 MHz from 300 to 900 MHz are answered OK and wait for the power loop, any other value is answered with status 14 and, like a request after a trip, which is answered BUSY, leaves both as they were; IDLE_ENTER of a quiescent device turns the Hearth rails off, puts GDDR6 into self-refresh, holds grants, loses the core and Hearth buffers, takes the link to L1 where ASPM L1 is enabled, and reads DEEP_IDLE, and of a busy one answers BUSY; IDLE_EXIT begins the wake with the link leaving L1 and HPWR_EN high once it has been low for 2 ms, before which WAKE_DONE changes nothing, and WAKE_DONE then ends it with STATE at ACTIVE and the reply (R411, R412, R423, R424, R425, R479.) -/
def Obligations.PowerMessages : Prop :=
  ∀ (s : State) (r : Req),
    (s.pwrState = 3 →
      (TakesRequest s r 0x201 8 → ∃ t, exec .setCap s = .next t ∧ AnswerWaits t r 6 [] ∧ t.pwr = s.pwr) ∧
      (TakesRequest s r 0x202 8 → ∃ t, exec .setAclkMax s = .next t ∧ AnswerWaits t r 6 [] ∧ t.pwr = s.pwr)) ∧
    (TakesRequest s r 0x201 8 → s.pwrState ≠ 3 →
      let c := leAt r.payload 0 2
      ∃ t, exec .setCap s = .next t ∧ AnswerWaits t r (if c < 2500 ∨ 7500 < c then 14 else 0) [] ∧
        t.pwr = (if c < 2500 ∨ 7500 < c then s.pwr else { s.pwr with capNext := some c })) ∧
    (TakesRequest s r 0x202 8 → s.pwrState ≠ 3 →
      let f := leAt r.payload 0 2
      ∃ t, exec .setAclkMax s = .next t ∧ AnswerWaits t r (if f < 300 ∨ 900 < f ∨ f % 25 ≠ 0 then 14 else 0) [] ∧
        t.pwr = (if f < 300 ∨ 900 < f ∨ f % 25 ≠ 0 then s.pwr else { s.pwr with ceilNext := some f })) ∧
    (TakesRequest s r 0x203 0 → s.pwrState = 0 →
      (s.quiescent = true → ∃ t, exec .idleEnter s = .next t ∧ AnswerWaits t r 0 [] ∧ t.pwrState = 1 ∧ t.pins.hpwrEn = false ∧
        t.fabric.selfRefresh = true ∧ t.bit Reg.pwrStatus 44 = true ∧ t.bit Reg.relSweep 48 = true ∧ t.qm.queues = s.qm.queues ∧
        (∀ x, inHearths x = true → mget t.mem x = 0) ∧ (∀ c, c < 16 → t.reg (Reg.hearthEpstat c) = 0) ∧ t.hif.l1 = (s.configOf .pf).aspmL1) ∧
      (s.quiescent = false → ∃ t, exec .idleEnter s = .next t ∧ AnswerWaits t r 6 [] ∧ t.qm = s.qm ∧ t.pins = s.pins ∧ t.fabric.selfRefresh = s.fabric.selfRefresh)) ∧
    (TakesRequest s r 0x204 0 →
      (s.pwrState = 0 → ∃ t, exec .idleExit s = .next t ∧ AnswerWaits t r 0 [] ∧ t.pins = s.pins) ∧
      (s.pwrState = 1 → s.stopped = false → ∃ t, exec .idleExit s = .next t ∧ t.pwrState = 2 ∧ t.pins.hpwrEn = s.hpwrRested ∧ t.hif.l1 = false ∧
        t.mail.busy = some (0x204, r.seq))) ∧
    (s.up = true → s.pwrState = 2 → s.hpwrRested = false → exec .wakeDone s = .next s) ∧
    (s.up = true → s.pwrState = 2 → s.hpwrRested = true →
      ∃ t, exec .wakeDone s = .next t ∧ t.pwrState = 0 ∧ t.pins.hpwrEn = true ∧ t.bit Reg.pwrStatus 44 = false ∧ t.bit Reg.relSweep 48 = s.boot.handover.isSome ∧
        t.fabric.selfRefresh = false ∧
        (∀ q, s.mail.busy = some (0x204, q) → message 0x204 1 q (leBytes 2 0 ++ []) ∈ t.mail.waiting))

/-- O32. A die-to-die retry is counted and reported for its link; a module that fails for the first time is recorded, the device degrades and asks to be replaced, and a Hearth both of whose modules have failed is excluded at the next start; an EDC failure is retried up to four times, then the channel goes offline for retraining; after that a transfer that succeeds leaves the channel in service, one that fails is lost and logged, a read under a code of the model (log 19), and a channel that does not retrain is out of service, excluded at the next start, and degrades the device (R14, R15, R33, R443, R448.) -/
def Obligations.LinkErrors : Prop :=
  ∀ (s : State), s.up = true →
    (∀ (h : Fin 4) (m : Fin 2), exec (.d2dFlitRetry (.mantel h m)) s = .next (reportUnnamed (s.addSat (Reg.relCnt 5) 31 0 1) 0x03 0 h.val m.val 4)) ∧
    (∀ n : Fin 4, exec (.d2dFlitRetry (.flue n)) s = .next (reportUnnamed (s.addSat (Reg.relCnt 5) 31 0 1) 0x03 0 n.val 0 ((n.val + 1) % 4))) ∧
    (∀ (h : Fin 4) (m : Fin 2), s.fabric.modFailed.toNat.testBit (2 * h.val + m.val) = false →
      ∃ t, exec (.moduleFailed (.mantel h m)) s = .next t ∧ t.fabric.modFailed = s.fabric.modFailed ||| BitVec.ofNat 8 (2 ^ (2 * h.val + m.val)) ∧
        t.bit Reg.glbStatus 2 = true ∧ t.bit Reg.glbStatus 3 = true ∧ t.pins.replaceLow = true ∧
        t.boot.nextHearths = (if t.hearthCut h.val then s.boot.nextHearths ||| BitVec.ofNat 4 (2 ^ h.val) else s.boot.nextHearths) ∧
        (t.hearthCut h.val = false → t.qm = s.qm)) ∧
    (∀ (n : Fin 4), s.fabric.flueFailed.toNat.testBit n.val = false →
      ∃ t, exec (.moduleFailed (.flue n)) s = .next t ∧ t.fabric.flueFailed = s.fabric.flueFailed ||| BitVec.ofNat 4 (2 ^ n.val) ∧
        t.bit Reg.glbStatus 2 = true ∧ t.bit Reg.glbStatus 3 = true ∧ t.pins.replaceLow = true ∧ t.boot.nextHearths = s.boot.nextHearths) ∧
    (∀ (a : Nat) (w : Bool) (f : Fin 5), s.fabric.gddrTrained = true → a < s.usable → s.chDown (s.chanOf a) = false →
      f.val = 0 ∨ tfind s.fabric.edc (s.chanOf a) = some ⟨a / 32 * 32, w, f.val⟩ →
      (f.val < 4 → exec (.edcFailure a w f) s = .next { s.addSat (Reg.relCnt 2) 31 0 1 with
        fabric := { s.fabric with edc := tput s.fabric.edc (s.chanOf a) ⟨a / 32 * 32, w, f.val + 1⟩ } }) ∧
      (f.val = 4 → exec (.edcFailure a w f) s =
        .next { s with fabric := { s.fabric with chOffline := s.fabric.chOffline ||| BitVec.ofNat 16 (2 ^ s.chanOf a) } })) ∧
    (∀ (a : Nat) (e : Edc), tfind s.fabric.edc (s.chanOf a) = some e → s.fabric.chOffline.toNat.testBit (s.chanOf a) = true →
      let g := s.chanOf a
      let fab := { s.fabric with edc := terase s.fabric.edc g, chOffline := s.fabric.chOffline &&& ~~~(BitVec.ofNat 16 (2 ^ g)) }
      exec (.edcRetrainDone a true true) s = .next { s with fabric := fab } ∧
      (e.write = false → exec (.edcRetrainDone a true false) s =
        .next (reportUnnamed { s with fabric := { fab with lost := fab.lost ++ [(e.addr / 32 * 32, false)] } } 0x01 1 (e.addr / 32 * 32)
          (e.addr / 32 * 32 / 2 ^ 32) (s.chanOf (e.addr / 32 * 32)))) ∧
      (e.write = true → exec (.edcRetrainDone a true false) s =
        .next (report { s with fabric := { fab with lost := fab.lost ++ [(e.addr / 32 * 32, true)] } } 0x01 0x10 (e.addr / 32 * 32)
          (e.addr / 32 * 32 / 2 ^ 32) (s.chanOf (e.addr / 32 * 32)))) ∧
      ∃ t, exec (.edcRetrainDone a false false) s = .next t ∧ t.fabric.chFailed = s.fabric.chFailed ||| BitVec.ofNat 16 (2 ^ g) ∧
        t.boot.nextChannels = s.boot.nextChannels ||| BitVec.ofNat 16 (2 ^ g) ∧ t.bit Reg.glbStatus 3 = true ∧ t.mem = s.mem)

/-- O33. With shares that fit a window, SPLIT_WINDOW_END records for its channel how many reads, writes, remote requests and idle slots the window held: each class got what it asked for, or at least its credit, no class got more than it asked for, no slot stayed idle while a request waited, and the four counts fill the 248 data slots (R36, R37, R38, R39.) -/
def Obligations.SplitServesEveryCredit : Prop :=
  ∀ (s : State) (g : Fin 16) (r w m : Nat), s.up = true → nbit s.chanMask g.val = true →
    s.fld Reg.memSplit 3 0 + s.fld Reg.memSplit 7 4 + s.fld Reg.memSplit 11 8 ≤ 16 →
    ∃ t, exec (.splitWindowEnd g r w m) s = .next t ∧ t = { s with fabric := { s.fabric with served := t.fabric.served } } ∧
      let n := fun i => tget 0 t.fabric.served (4 * g.val + i)
      n 0 + n 1 + n 2 + n 3 = 248 ∧ n 0 ≤ r ∧ n 1 ≤ w ∧ n 2 ≤ m ∧
      min r (credit (s.fld Reg.memSplit 3 0)) ≤ n 0 ∧ min w (credit (s.fld Reg.memSplit 7 4)) ≤ n 1 ∧
      min m (credit (s.fld Reg.memSplit 11 8)) ≤ n 2 ∧ (0 < n 3 → n 0 = r ∧ n 1 = w ∧ n 2 = m) ∧
      (∀ k, k / 4 ≠ g.val → tget 0 t.fabric.served k = tget 0 s.fabric.served k)

/-- O34. A clean sector read is only counted as traffic; a corrected one is counted, written back and changes no byte; an uncorrectable one is counted, enters the repair map and leaves its sector poisoned; a scrub of a 256-byte unit or of a 64-byte line of SRAM counts its traffic and poisons each sector or word that it finds uncorrectable, and the end of a pass counts; a corrected word of media staging is counted, and an uncorrectable one reaches the stream that uses it; an uncorrectable word inside an engine stops the descriptor in EXEC that meets it with ECC_UNCORRECTABLE and INFO 0xFFFF_FFFF_FFFF; a parity error of a TLB entry drops it; an uncorrectable word of firmware memory that a control core reads stops the firmware and its loops; CAL, the steps of RETRAIN and TELEM run when due and take their channel offline, CAL before RETRAIN before GSCRUB but for a retraining that a suspension has delayed, and a step that is not due changes nothing; every third step of a retraining counts one, and a failed one takes the channel out of service; a step of wear levelling that meets an uncorrectable word of the journal breaks the copy that stands there (due times from T-tick 0, and pass counts that wrap: log 47; the core and the descriptor that meet a word are operands, and the places of the journal are free: logs 12 and 13; a write-back is counted as a write: log 23) (R34, R35, R433, R434, R435, R436, R437, R438, R440, R441, R448.) -/
def Obligations.SectorErrorsAndSweep : Prop :=
  ∀ (s : State), s.up = true →
    (∀ a, a < s.usable →
      let k := a / 32 * 32
      let g := s.chanOf a
      (tget false s.poison k = false → exec (.gddr6Read a .clean) s = .next (bump s (56 + 2 * g) 32)) ∧
      (tget false s.poison k = false → ∃ t, exec (.gddr6Read a .single) s = .next t ∧
        t.fld (Reg.relCnt 0) 31 0 = satAdd 32 (s.fld (Reg.relCnt 0) 31 0) 1 ∧ t.mem = s.mem ∧ t.poison = s.poison ∧
        (∀ i, i < 90 → t.fld (Reg.dbgBcnt i) 47 0 = (s.fld (Reg.dbgBcnt i) 47 0 + (if i = 56 + 2 * g ∨ i = 57 + 2 * g then 32 else 0)) % 2 ^ 48)) ∧
      (∃ t, exec (.gddr6Read a .uncorrectable) s = .next t ∧ t.fld (Reg.relCnt 1) 31 0 = satAdd 32 (s.fld (Reg.relCnt 1) 31 0) 1 ∧
        t.mem = s.mem ∧ tget false t.poison k = true ∧ k ∈ t.boot.repairMap ∧ (∀ j, j ≠ k → tget false t.poison j = tget false s.poison j)) ∧
      (s.sweepChan g = true → s.sweepOff g = false → calDue g s = false → retrainDue g s = false →
        (∀ i, i < 8 → tget false s.poison (a / 256 * 256 + 32 * i) = false) → ∀ fs : List EccFound,
        ∃ t, exec (.gscrub a fs true) s = .next t ∧ t.mem = s.mem ∧ t.fld Reg.relSweep 15 0 = (s.fld Reg.relSweep 15 0 + 1) % 2 ^ 16 ∧
          (∀ i, i < 8 → tget false t.poison (a / 256 * 256 + 32 * i) = decide (fs.getD i .clean = .uncorrectable) ∧
            (fs.getD i .clean = .uncorrectable → a / 256 * 256 + 32 * i ∈ t.boot.repairMap)) ∧
          t.fld (Reg.dbgBcnt (56 + 2 * g)) 47 0 =
            (s.fld (Reg.dbgBcnt (56 + 2 * g)) 47 0 + 256 + 32 * ((List.range 8).filter fun i => fs.getD i .clean == .single).length) % 2 ^ 48) ∧
      (∀ fs e, s.sweepChan g = false ∨ s.sweepOff g = true ∨ calDue g s = true ∨ retrainDue g s = true → exec (.gscrub a fs e) s = .next s)) ∧
    (∀ o core, s.sweepRuns = true →
      (∃ t, exec (.sscrub (.mediaStaging o none) [.single] false) s = .next t ∧
        t.fld (Reg.relCnt 3) 31 0 = satAdd 32 (s.fld (Reg.relCnt 3) 31 0) 1 ∧ t.mem = s.mem ∧ t.poison = s.poison) ∧
      (∀ h : Fin 1024, ∃ t, exec (.sscrub (.mediaStaging o (some h)) [.uncorrectable] false) s = .next t ∧
        t.fld (Reg.relCnt 4) 31 0 = satAdd 32 (s.fld (Reg.relCnt 4) 31 0) 1 ∧ t.media = (stagingMet h.val s).media) ∧
      exec (.sscrub (.fwSram o core) [] true) s = .next (s.setFld Reg.relSweep 31 16 (s.fld Reg.relSweep 31 16 + 1)) ∧
      ∀ c, ∃ t, exec (.sscrub (.fwSram o (some c)) [.uncorrectable] false) s = .next t ∧ t.boot.fwStopped = true ∧ t.bit Reg.pwrStatus 42 = true ∧ t.sweepRuns = false ∧ t.loopsRun = false) ∧
    (∀ (st : InnerStore) (o : Nat) (p : Fin 16) (x : Running), s.running? p.val = some x → innerServes s p.val st = true → x.item.status.toNat < 0x10 →
      ∃ t y, exec (.sscrub (.inner st o (.exec p)) [.uncorrectable] false) s = .next t ∧ t.running? p.val = some y ∧ y.run = { x.run with stopped := true } ∧
        y.item = { x.item with status := 0x20, info := 0xFFFFFFFFFFFF, detail := 0 } ∧ t.poison = s.poison) ∧
    (∀ (c : Fin 16) (va : Nat) (e : TlbEntry), tlbHit s c.val va = some e →
      ∃ t, exec (.sscrub (.tlb c va) [.uncorrectable] false) s = .next t ∧ tlbHit t c.val va = none ∧
        t.fld (Reg.relCnt 3) 31 0 = satAdd 32 (s.fld (Reg.relCnt 3) 31 0) 1 ∧ t.mem = s.mem ∧ t.poison = s.poison ∧ t.ember = s.ember) ∧
    (∀ a, s.sweepRuns = true → s.isSram a = true → (∀ i, i < 8 → tget false s.poison (a / 64 * 64 + 8 * i) = false) →
      exec (.sscrub (.addr a) [] false) s = .next (bankBytes false a 64 s) ∧
      ∀ fs : List EccFound, ∃ t, exec (.sscrub (.addr a) fs false) s = .next t ∧ t.mem = s.mem ∧
        ∀ i, i < 8 → tget false t.poison (a / 64 * 64 + 8 * i) = decide (fs.getD i .clean = .uncorrectable) ∧
          (fs.getD i .clean = .uncorrectable → a / 64 * 64 + 8 * i ∈ t.boot.repairMap)) ∧
    (∀ (g : Fin 16) (x : RetrainStep),
      let n := tget 0 s.fabric.retrain g.val
      let may := s.sweepChan g.val = true ∧ s.sweepOff g.val = false ∧ (retrainDue g.val s = true ∨ x.moved = true ∧ n = 0) ∧
        (calDue g.val s = false ∨ s.sweep.resumed.toNat.testBit g.val = true)
      (¬may → exec (.retrain g x) s = .next s) ∧
      (may → ∃ t, exec (.retrain g x) s = .next t ∧ t.mem = s.mem ∧ tget 0 t.sweep.stepAt g.val = s.clock.timeF ∧
        tget 0 t.sweep.offUntil g.val = s.clock.timeF + (if n < 2 then 16000 else 8000) ∧ t.sweep.resumed.toNat.testBit g.val = false ∧
        (x.trained = true → n < 2 → tget 0 t.fabric.retrain g.val = n + 1 ∧ t.regs = s.regs) ∧
        (x.trained = true → n = 2 → tget 0 t.fabric.retrain g.val = 0 ∧ t.fld Reg.relSweep 47 32 = (s.fld Reg.relSweep 47 32 + 1) % 2 ^ 16 ∧
          tget 0 t.sweep.retrainAt g.val = s.clock.timeF) ∧
        (x.trained = false → t.fabric.chFailed = s.fabric.chFailed ||| BitVec.ofNat 16 (2 ^ g.val) ∧ t.bit Reg.glbStatus 3 = true))) ∧
    (∀ g : Fin 16,
      let may := s.sweepChan g.val = true ∧ s.sweepOff g.val = false ∧ calDue g.val s = true ∧ retrainFirst g.val s = false
      (¬may → exec (.cal g) s = .next s) ∧
      (may → ∃ t, exec (.cal g) s = .next t ∧ t = { s with sweep := t.sweep } ∧ tget 0 t.sweep.calAt g.val = s.clock.timeF ∧ calDue g.val t = false ∧
        tget 0 t.sweep.offUntil g.val = s.clock.timeF + 1000)) ∧
    (∀ o, exec (.wear o .clean) s = .next s) ∧
    (∀ o, s.sweepRuns = true → ∃ t, exec (.wear o .uncorrectable) s = .next t ∧
      t.fld (Reg.relCnt 8) 31 0 = satAdd 32 (s.fld (Reg.relCnt 8) 31 0) 1 ∧
      t.boot.marginRecord = (match Config.journalPlace o with | some (2, newer) => recordBreak newer s.boot.marginRecord | _ => s.boot.marginRecord)) ∧
    (∀ h : Fin 4,
      (s.sweepRuns = true → (tget 0 s.sweep.telemAt h.val).toNat + 1000000000 ≤ s.clock.timeF.toNat →
        exec (.telem h) s = .next { s with sweep := { s.sweep with telemAt := tset 0 s.sweep.telemAt h.val s.clock.timeF } }) ∧
      (s.sweepRuns = false ∨ s.clock.timeF.toNat < (tget 0 s.sweep.telemAt h.val).toNat + 1000000000 → exec (.telem h) s = .next s))

/-- O35. A permitted invalidation while BUSY is 0 sets BUSY, clears DONE and waits behind those that came before; one while BUSY is 1, or of a range of no page, is dropped and counted, and one of a partition that the function may not name is denied; the oldest invalidation ends by dropping its entries and setting DONE; MMU_COMMIT puts a consistent pending set in force and rejects an inconsistent one; a walk of a running descriptor ends with its page in the TLB, or ends the descriptor with TRANSLATION_FAULT or ECC_UNCORRECTABLE (no function-level reset lasting) (R49, R51, R384, R490, R337.) -/
def Obligations.TranslationControl : Prop :=
  ∀ (s : State), s.up = true →
    (∀ (fn : Fn) (p : Fin 16), s.stopped = false → tfind s.hif.held fn.num = none → s.hif.flr = [] →
      let u := bump s 88 4
      let st := fnKey fn.num Reg.mmuInvStatus
      let ad := fnKey fn.num Reg.mmuInvAddr
      let take := fun (v : Inval) => { (u.setBit st 0 true).setBit st 1 false with mmu := { s.mmu with invs := s.mmu.invs ++ [v] } }
      (u.mayPart fn p.val = true → u.bit st 0 = false →
        exec (.invPartition fn p) s = .next (take ⟨fn.num, p.val, 0, 0, 0⟩) ∧
        (u.fld ad 63 48 ≠ 0 → exec (.invRange fn p) s = .next (take ⟨fn.num, p.val, 1, u.fld ad 47 12, u.fld ad 63 48⟩)) ∧
        (u.fld ad 63 48 = 0 → exec (.invRange fn p) s = .next (dropCmd u fn Reg.mmuInvCmd)) ∧
        (∀ q : Fin 1024, exec (.invSlot fn p q) s = .next (take ⟨fn.num, p.val, 2, q.val, 0⟩))) ∧
      (u.mayPart fn p.val = true → u.bit st 0 = true →
        exec (.invPartition fn p) s = .next (dropCmd u fn Reg.mmuInvCmd) ∧ exec (.invRange fn p) s = .next (dropCmd u fn Reg.mmuInvCmd) ∧
        ∀ q : Fin 1024, exec (.invSlot fn p q) s = .next (dropCmd u fn Reg.mmuInvCmd)) ∧
      (u.mayPart fn p.val = false →
        exec (.invPartition fn p) s = .next (denied u fn Reg.mmuInvCmd) ∧ exec (.invRange fn p) s = .next (denied u fn Reg.mmuInvCmd) ∧
        ∀ q : Fin 1024, exec (.invSlot fn p q) s = .next (denied u fn Reg.mmuInvCmd))) ∧
    (∀ v vs, s.mmu.invs = v :: vs →
      let st := fnKey v.fn Reg.mmuInvStatus
      exec .invDone s = .next (((dropEntries v { s with mmu := { s.mmu with invs := vs } }).setBit st 0 false).setBit st 1 true)) ∧
    (tfind s.hif.held 0 = none → s.hif.flr = [] → (bump s 88 4).ready = true →
      let u := bump s 88 4
      (mmuSetBad u = true → exec (.mmuCommit .pf) s = .next (u.setBit Reg.mmuCommit 8 true)) ∧
      (mmuSetBad u = false → exec (.mmuCommit .pf) s =
        .next ({ s.mmu.pend.foldl (fun (s : State) (x : Nat × W64) => s.setReg x.1 x.2) u with mmu := { s.mmu with pend := [] } }.setBit Reg.mmuCommit 8 false))) ∧
    (∀ (c : Fin 16) (va : BitVec 48) (x : Running), s.stopped = false → s.coreRun c.val = some x → isLocal va.toNat = false →
      tlbHit s c.val va.toNat = none → x.run.stopped = false → touches s c.val x va.toNat = true →
      (∀ t l, translate s c.val x.part va.toNat = (t, Walk.leaf l) → exec (.walkDone c va) s = .next (keepQueue s t)) ∧
      (∀ t d, translate s c.val x.part va.toNat = (t, Walk.fault d) → exec (.walkDone c va) s = .next (keepQueue s (stopRun x ⟨0x11, va.toNat, d⟩ t))) ∧
      (∀ t k, translate s c.val x.part va.toNat = (t, Walk.poison k) → exec (.walkDone c va) s = .next (keepQueue s (stopRun x ⟨0x20, k, 0⟩ t))))

/-- O36. ENABLE of a DISABLED queue with a sound entry makes the queue that the entry describes, with its last status as it was, head, tail, completion producer and consumer index and all bound registers 0 and every other queue unchanged; descriptor index i is read at RING_BASE + (i mod 2^RING_LOG2) * 256; the record at producer index j is written at CPL_BASE + (j mod 2^CPL_LOG2) * 32; the indices are 32-bit and free-running (no function-level reset lasting) (R187.) -/
def Obligations.RingIndicesAndEnable : Prop :=
  (∀ (s : State) (fn : Fn) (q : BitVec 16), s.up = true → s.stopped = false → s.hif.flr = [] → tfind s.hif.held fn.num = none →
    let u := bump s 88 4
    let a := nbits (u.reg Reg.qmQtab).toNat 39 12 * 4096 + 64 * q.toNat
    let e := mread s.mem a 64
    (u.queue q.toNat).state = .disabled → (u.reg Reg.qmQtab).toNat.testBit 0 = true → u.markIn a 64 = none → u.lostIn false a 64 = none →
    u.deadIn a 64 = none → u.mayPart fn (entryQueue e).part = true → entryOk e = true → queueFits u (entryQueue e) = true →
    ∃ t, exec (.enable fn q) s = .next t ∧ t.queue q.toNat = { entryQueue e with lastStatus := (s.queue q.toNat).lastStatus } ∧ (t.queue q.toNat).state = .active ∧ (t.queue q.toNat).head = 0 ∧
      (t.queue q.toNat).tail = 0 ∧ (t.queue q.toNat).pi = 0 ∧ (t.queue q.toNat).ci = 0 ∧ (∀ r, tget 0 (t.queue q.toNat).bound r = 0) ∧
      (∀ k, k ≠ q.toNat → t.queue k = s.queue k) ∧ t.mem = s.mem ∧ OnlyRegs byteCounters s t) ∧
  (∀ (s : State) (q : BitVec 16) (i : W32), s.up = true → s.stopped = false → fetchAt s (s.queue q.toNat) = some i →
    let x := s.queue q.toNat
    let a := x.ringBase + i.toNat % 2 ^ x.ringLog * 256
    s.markIn a 256 = none → s.lostIn false a 256 = none → s.deadIn a 256 = none →
    ∃ t, exec (.descriptorFetch q) s = .next t ∧
      t.queue q.toNat = { x with ahead := x.ahead ++ [⟨i, mread s.mem a 256, (readBad (mread s.mem a 256)).map fun o => (0x12, BitVec.ofNat 48 o)⟩] } ∧
      (∀ k, k ≠ q.toNat → t.queue k = s.queue k) ∧ t.mem = s.mem ∧ OnlyRegs byteCounters s t) ∧
  (∀ (s : State) (q tag st op idx mid fl det : Nat),
    let x := s.queue q
    let a := x.cplBase + x.pi.toNat % 2 ^ x.cplLog * 32
    let t := writeRecord s q tag st op idx mid fl det
    let record := recordBytes tag st op q idx s.clock.timeF.toNat mid fl det
    (t.queue q).pi = x.pi + 1 ∧
    (x.cplPi + 4 ≤ a ∨ a + 32 ≤ x.cplPi →
      (x.cplHost = true → s.hif.linkUp = true → mread t.hostMem a 32 = record) ∧
      (x.cplHost = false → s.rangePlace a 32 ≠ .none → readOnlyPlace (s.rangePlace a 32) = false → s.fabric.chFailed = 0 → s.fabric.lost = [] →
        mread t.mem a 32 = record)))

/-- O37. A doorbell that names a tail and a consumer index within the ring sets both, and is dropped and counted before READY or in DEEP_IDLE; a BAR4 write that is not made of whole aligned doorbells is dropped and counted; DISABLE stops fetching and withdraws an open REPEAT, a descriptor that a quiet period has returned and the REPEATs that enclose it, and the queue is DISABLED once nothing is in flight; CANCEL stops the queue and the granting of its units, and its end leaves it DISABLED with HEAD at the tail, nothing in flight, and a record for each descriptor that was issued and one for the queue; RESUME goes on at the faulting descriptor and RESUME_SKIP after it; a semaphore write of the host adds or sets the value of that semaphore alone, and one outside the range of a VF is denied (LAST_STATUS after CANCEL reads CANCELLED only where a descriptor was issued, and is left by the record of the queue: deduced, log 55; no function-level reset lasting at a host write) (R188, R189, R190, R209, R210, R336.) -/
def Obligations.QueueCommands : Prop :=
  ∀ (s : State) (q : BitVec 16), s.up = true → s.stopped = false →
    let x := s.queue q.toNat
    (∀ d : List Byte, d.length = 8 → s.hif.flr = [] →
      let tl := BitVec.ofNat 32 (leAt d 0 4)
      let ci := BitVec.ofNat 32 (leAt d 4 4)
      let u := bump s 88 8
      (u.noBells = false → x.state = .active → dist32 tl x.head ≤ 2 ^ x.ringLog → ahead32 tl x.tail = true → ahead32 ci x.ci = true →
        ahead32 x.pi ci = true → exec (.queueDoorbell .pf (8 * q.toNat) d) s = .next (u.setQueue q.toNat { x with tail := tl, ci := ci })) ∧
      (u.noBells = true → exec (.queueDoorbell .pf (8 * q.toNat) d) s = .next (dropCmd u .pf (8 * q.toNat)))) ∧
    (∀ (fn : Fn) (o : Nat) (d : List Byte), d ≠ [] → s.hif.flr = [] → o + d.length ≤ bar4Size → o % 8 ≠ 0 ∨ d.length % 8 ≠ 0 →
      let u := bump s 88 d.length
      exec (.queueDoorbell fn o d) s = .next (viol u o 7 (s.violPart fn))) ∧
    (∀ fn : Fn, tfind s.hif.held fn.num = none → s.hif.flr = [] →
      let u := bump s 88 4
      u.mayPart fn x.part = true →
      (x.state = .active ∨ x.state = .faulted →
        (∃ t, exec (.disable fn q) s = .next t ∧ (t.queue q.toNat).disabling = true ∧ (t.queue q.toNat).ahead = [] ∧
          (t.queue q.toNat).items = x.items.filter (fun i => !i.isOpen && !i.back && !(x.items.any fun j => j.back && j.frames.any fun f => f.rep == i.uid)) ∧ (t.queue q.toNat).state = x.state ∧
          (∀ k, k ≠ q.toNat → t.queue k = s.queue k) ∧ t = { u with qm := { s.qm with queues := t.qm.queues } }) ∧
        (∃ t, exec (.cancel fn q) s = .next t ∧ t.queue q.toNat = { x with state := .cancelling, ahead := [] } ∧
          (∀ k, k ≠ q.toNat → t.queue k = s.queue k) ∧
          (∀ r, (s.win x.part).exec = some r → r.q = q → ∃ r', (t.win x.part).exec = some r' ∧ r' = { r with stopped := true }))) ∧
      (∀ i fs d, x.state = .faulted → x.fault = some (i, fs, d) →
        exec (.resume fn q) s = .next (u.setQueue q.toNat { x with state := .active, ip := i, frames := fs, ahead := [], fault := none }) ∧
        ∃ t, exec (.resumeSkip fn q) s = .next t ∧ (t.queue q.toNat).state = .active ∧ (t.queue q.toNat).ip = skipTo i fs d ∧
          (t.queue q.toNat).frames = [] ∧ (t.queue q.toNat).fault = none ∧ (∀ k, k ≠ q.toNat → t.queue k = s.queue k))) ∧
    (x.disabling = true → x.items = [] → x.state = .active ∨ x.state = .faulted →
      exec (.queueDisabled q) s = .next (s.setQueue q.toNat { x with state := .disabled, disabling := false, fault := none, ahead := [] })) ∧
    (x.state = .cancelling →
      ∃ t, exec (.cancelDrained q) s = .next t ∧ (t.queue q.toNat).state = .disabled ∧ (t.queue q.toNat).items = [] ∧
        (t.queue q.toNat).ip = x.tail ∧ (t.queue q.toNat).tail = x.tail ∧ (t.queue q.toNat).lastStatus = (if x.items.all (·.back) then x.lastStatus else 0x14) ∧
        (t.queue q.toNat).pi = x.pi + BitVec.ofNat 32 ((x.items.filter fun i => !i.back).length + 1)) ∧
    (∀ (n : BitVec 14) (v : W32),
      let u := bump s 88 8
      (tfind s.hif.held 0 = none → s.hif.flr = [] →
        exec (.semopAdd .pf n v) s = .next (u.setSem n.toNat (s.sem n.toNat + v)) ∧
        exec (.semopSet .pf n v) s = .next (u.setSem n.toNat v)) ∧
      (∀ k : Fin 16, tfind s.hif.held (k.val + 1) = none → s.hif.flr = [] → u.partOfVf k.val = none →
        exec (.semopAdd (.vf k) n v) s = .next (denied u (.vf k) Reg.qmSemop) ∧ exec (.semopSet (.vf k) n v) s = .next (denied u (.vf k) Reg.qmSemop)))

/-- O38. When the next descriptor of a queue has the opcode and every condition of R192 holds, it joins the queue's descriptors in flight with the next number, the queue's place moves past it, and no byte of memory and no other queue changes: a control descriptor has finished at once, a mover stands in the partition's window, a REPEAT with a nonzero count opens its body at its first descriptor; a descriptor that a check refuses, or whose wait times out, joins with its status; a partition whose runnable queues are all held by semaphores is reported as stalled (R156, R176, R185, R191, R192, R200, R202.) -/
def Obligations.ControlAndMoverIssue : Prop :=
  ∀ (s : State) (q : BitVec 16) (f : Fetched) (rest : List Fetched), s.up = true → s.stopped = false →
    let x := s.queue q.toNat
    x.ahead = f :: rest → x.backItem = none →
    (f.bad = none → mayIssue s q.toNat f = true →
      (∀ (c : BitVec 16 → Instr) (op : Op), (c, op) ∈ [(Instr.dNop, Op.nop), (Instr.dWait, Op.wait), (Instr.dSignal, Op.signal),
          (Instr.dFence, Op.fence), (Instr.dBarrier, Op.barrier)] → dOp f.bytes = op → dCode f.bytes ≠ 5 →
        ∃ t i, exec (c q) s = .next t ∧ i ∈ (t.queue q.toNat).items ∧ i.uid = s.qm.issued ∧ i.idx = f.idx ∧ i.bytes = f.bytes ∧
          i.finished = true ∧ i.status = 0 ∧ (t.queue q.toNat).ip = (advance f.idx x.frames).1 ∧ t.qm.issued = s.qm.issued + 1 ∧ t.mem = s.mem ∧
          (∀ k, k ≠ q.toNat → t.queue k = s.queue k)) ∧
      (∀ (c : BitVec 16 → Instr) (op : Op), (c, op) ∈ [(Instr.dLoadb, Op.loadb), (Instr.dCopy, Op.copy), (Instr.dPrefetch, Op.prefetch)] →
          dOp f.bytes = op →
        ∃ t i, exec (c q) s = .next t ∧ i ∈ (t.queue q.toNat).items ∧ i.uid = s.qm.issued ∧ i.bytes = f.bytes ∧ i.finished = false ∧
          (t.win x.part).movers = (s.win x.part).movers ++ [(q, s.qm.issued)] ∧ (t.queue q.toNat).ip = (advance f.idx x.frames).1 ∧
          t.mem = s.mem ∧ (∀ k, k ≠ q.toNat → t.queue k = s.queue k)) ∧
      (dCode f.bytes = 5 →
        ∃ t i, exec (.dRepeat q) s = .next t ∧ i ∈ (t.queue q.toNat).items ∧ i.uid = s.qm.issued ∧ i.finished = true ∧ t.mem = s.mem ∧
          (repCount x f.bytes = 0 → (t.queue q.toNat).ip = (advance (f.idx + BitVec.ofNat 32 (dBody f.bytes)) x.frames).1) ∧
          (repCount x f.bytes ≠ 0 → (t.queue q.toNat).ip = f.idx + 1 ∧ i.isOpen = true ∧
            (t.queue q.toNat).frames = ⟨s.qm.issued, f.idx + 1, f.idx + BitVec.ofNat 32 (dBody f.bytes), repCount x f.bytes, 0,
              dRstrides f.bytes⟩ :: x.frames))) ∧
    (∀ st info,
      (f.bad = some (st, info) ∧ condActive x f = true ∧ condEarlier s x { f with bytes := [] } = true) ∨
      (f.bad = none ∧ ∃ n, issueBad (issueCtx s x f) f.bytes = some (st, n) ∧ info = BitVec.ofNat 48 n ∧
        offered s (partKind f.bytes) x = true ∧ condSelected s q.toNat x (partKind f.bytes) = true) → condSlots x = true →
      ∃ t i, exec (.descriptorRefuse q) s = .next t ∧ (t.queue q.toNat).items = x.items ++ [i] ∧ i.uid = s.qm.issued ∧ i.status = st ∧
        i.info = info ∧ i.finished = true ∧ i.reserves = false ∧ (t.queue q.toNat).ahead = [] ∧ t = { s with qm := t.qm }) ∧
    (f.bad = none → condActive x f = true → condEarlier s x f = true → dWaitEn f.bytes = true → waitOk s f.bytes = false → x.timeoutUs ≠ 0 →
      condSlots x = true →
      ∃ t i, exec (.waitTimeout q) s = .next t ∧ (t.queue q.toNat).items = x.items ++ [i] ∧ i.status = 0x10 ∧
        i.info = BitVec.ofNat 48 (dWaitSem f.bytes) ∧ i.reserves = false ∧ t = { s with qm := t.qm }) ∧
    (∀ p : Fin 16, let rs := (s.queuesOf p.val).filter fun y => y.2.runnable
      s.fld Reg.qmStallTime 31 0 ≠ 0 → rs ≠ [] → rs.all (fun y => heldBySem s y.2) = true → partItems s p.val = [] → (s.win p.val).stallTold = false →
      ∃ t, exec (.partitionStall p) s = .next t ∧ t.bit Reg.qmStall p.val = true ∧ (t.win p.val).stallTold = true ∧
        OnlyRegs [Reg.qmStall] s t ∧ t.qm.queues = s.qm.queues ∧ t.mem = s.mem)

/-- O39. When the next descriptor of a queue is of the command's kind and every condition of R192 holds, it joins the descriptors in flight; when EXEC and NEXT of its partition are empty and no grant hold and no other ATTN keeps it out, it enters EXEC with the units of R194, divided into contiguous ranges over the partition's cores for every opcode but ATTN, and otherwise it enters NEXT; no byte of memory changes but those of the regions that an ATTN entering EXEC works in, and no other partition's window; a descriptor that a quiet period has returned to the unissued state issues again in the same way, with its own number (R191, R192, R194, R195, R214.) -/
def Obligations.ComputeIssue : Prop :=
  ∀ (s : State) (q : BitVec 16) (f : Fetched) (rest : List Fetched) (c : BitVec 16 → Instr) (want : List Byte → Bool),
    s.up = true → s.stopped = false →
    (c, want) ∈ [(Instr.dGather, fun d => dOp d == .gather), (Instr.dScatter, fun d => dOp d == .scatter), (Instr.dMatmul, fun d => dOp d == .matmul),
      (Instr.dMatvec, fun d => dOp d == .matvec), (Instr.dConv, fun d => dOp d == .conv), (Instr.dConvw, fun d => dOp d == .convw),
      (Instr.dDwconv, fun d => dOp d == .dwconv), (Instr.dDist, fun d => dOp d == .dist), (Instr.dElem, fun d => dOp d == .elem && !dPload d),
      (Instr.dPload, fun d => dIsPload d), (Instr.dReduce, fun d => dOp d == .reduce), (Instr.dAttn, fun d => dOp d == .attn)] →
    let x := s.queue q.toNat
    let p := x.part
    let sameBytes := fun (t : State) => (dOp f.bytes ≠ .attn ∨ execFree s p f.bytes = false → t.mem = s.mem) ∧
      (∀ a, (∀ k ∈ s.coreList p, a < coreBase k + 48 * 98304 ∨ coreBase k + 64 * 98304 ≤ a) →
        (∀ h, h < 4 → a < hearthBase h + 24 * 131072 ∨ hearthBase h + 32 * 131072 ≤ a) → mget t.mem a = mget s.mem a)
    (∀ b, x.backItem = some b → f = ⟨b.idx, b.bytes, none⟩ → want f.bytes = true → mayIssue s q.toNat f = true →
      ∃ t i, exec (c q) s = .next t ∧ i ∈ (t.queue q.toNat).items ∧ i.uid = b.uid ∧ i.idx = b.idx ∧ i.bytes = b.bytes ∧ i.back = false ∧
        (t.queue q.toNat).ip = x.ip ∧ t.qm.issued = s.qm.issued ∧ sameBytes t) ∧
    (x.ahead = f :: rest → x.backItem = none → f.bad = none → want f.bytes = true → mayIssue s q.toNat f = true →
    ∃ t i, exec (c q) s = .next t ∧ i ∈ (t.queue q.toNat).items ∧ i.uid = s.qm.issued ∧ i.idx = f.idx ∧ i.bytes = f.bytes ∧ i.finished = false ∧
      i.bounds = dBounds x.bound f.bytes ∧ (t.queue q.toNat).ip = (advance f.idx x.frames).1 ∧ sameBytes t ∧
      (execFree s p f.bytes = true → ∃ r, (t.win p).exec = some r ∧ (t.win p).next = none ∧ r.q = q ∧ r.uid = s.qm.issued ∧
        r.units = unitCount f.bytes (dBounds x.bound f.bytes) false ∧ r.ranges = (if dOp f.bytes = .attn then [] else runRanges s p r.units) ∧
        r.out = 0 ∧ r.widened = false) ∧
      (execFree s p f.bytes = false → (t.win p).next = some (q, s.qm.issued) ∧ (t.win p).exec = (s.win p).exec) ∧
      (∀ k, k ≠ p → t.win k = s.win k) ∧ (∀ k, k ≠ q.toNat → t.queue k = s.queue k))

/-- O40. A core that asks and has N-tiles of its unit left takes up the next of them; one that has none gets the lowest unit of its own range, which then starts after it: a tile accumulates into a free bank, unless a read of its operands fails, which stops the descriptor and leaves the banks; a unit of GATHER or SCATTER is read and its writes are held; a core whose range is empty takes the upper half of the longest range of the Hearth it asks, or notes that Hearth as dry; a drain empties the bank, writes the bytes of its outputs at the addresses of operand C and no other byte, and counts its outputs, unless an access of it fails; a batch of the element engine, whose setup and accesses succeed and which raises no trapped flag, writes the bytes of its outputs and no other byte and moves the core on within its unit, or to the next one, and else writes nothing and stops the descriptor; a widened re-run starts every unit again (the bytes land where no channel and no transfer has failed) (R89, R101, R104, R108, R137, R150, R194, R195, R196.) -/
def Obligations.UnitsGrantedAndDrained : Prop :=
  ∀ (s : State) (c : Fin 16) (x : Running), s.up = true → s.stopped = false → s.coreRun c.val = some x →
    let i := x.item
    let p := x.part
    let tile := fun (s : State) (u n : Nat) => (tileCells c.val p s.free x.run.widened i (tileArea i.bytes i.bounds x.run.widened u n)
      { s := { s with free := s.free + 1 }, seen := slotsSeen (s.core c.val).slots }).2.stop
    let inBank := fun (t : State) (u n : Nat) =>
      ∃ b, ((t.core c.val).bank0 = some b ∨ (t.core c.val).bank1 = some b) ∧ b.uid = x.run.uid ∧ b.unit = u ∧ b.tile = n
    let banks := fun (t : State) => (t.core c.val).bank0 = (s.core c.val).bank0 ∧ (t.core c.val).bank1 = (s.core c.val).bank1
    (∀ g, tilesLeft (s.core c.val) i x.run.widened = true → (s.core c.val).arg = some g → (s.core c.val).freeBank = true → x.run.stopped = false →
      ∃ t r, exec (.aheadRequest c) s = .next t ∧ (t.win p).exec = some r ∧ r.ranges = x.run.ranges ∧ t.mem = s.mem ∧
        (tile s g.unit g.next = none → r.stopped = false ∧ inBank t g.unit g.next) ∧
        (tile s g.unit g.next ≠ none → r.stopped = true ∧ banks t)) ∧
    (∀ lo hi, tilesLeft (s.core c.val) i x.run.widened = false → x.run.range c.val = (lo, hi) → lo < hi → grantsOpen s x = true → wantsUnit s c.val i = true →
      let s1 := (s.modRun p fun r => r.setRange c.val (lo + 1) hi).modRun p fun r => { r with dry := r.dry.filter fun e => e.1 / 4 != c.val }
      let s2 := s1.modRun p fun r => { r with out := r.out + unitTiles i.bytes i.bounds x.run.widened }
      ∃ t r, exec (.aheadRequest c) s = .next t ∧ (t.win p).exec = some r ∧ r.uid = x.run.uid ∧
        r.range c.val = (if lo + 1 < hi then (lo + 1, hi) else (0, 0)) ∧
        ((dOp i.bytes).isArray = true → t.mem = s.mem ∧ (tile s2 lo 0 = none → r.stopped = false ∧ inBank t lo 0) ∧
          (tile s2 lo 0 ≠ none → r.stopped = true ∧ banks t)) ∧
        ((dOp i.bytes).isArray = false → (dOp i.bytes).isElem = true → dIsPload i.bytes = false →
          r.stopped = false ∧ t.mem = s.mem ∧ ((t.core c.val).unit = some lo ∨ (t.core c.val).ahead = some lo)) ∧
        (dOp i.bytes = .gather ∨ dOp i.bytes = .scatter → t.mem = s.mem ∧ r.held = x.run.held ++ [(c.val, (gatherUnit s1 c.val p i lo).out)] ∧
          r.stopped = (gatherUnit s1 c.val p i lo).stop.isSome)) ∧
    (mayThieve s c.val x = true → ∀ h : Fin 4,
      let dryAt := fun (k : Nat) => s.modRun x.part fun r => { r with dry := tset false r.dry (4 * c.val + k) true }
      let took := fun (v : Nat) (t : State) => ∃ r, (t.win x.part).exec = some r ∧
        (let n := (x.run.range v).2 - (x.run.range v).1
         let k := cdiv n 2
         r.range v = (if k < n then ((x.run.range v).1, (x.run.range v).2 - k) else (0, 0)) ∧
         r.range c.val = (if 1 < k then ((x.run.range v).2 - k + 1, (x.run.range v).2) else (0, 0)))
      (tget false x.run.dry (4 * c.val + c.val / 4) = false →
        (∀ v, richest x.run (c.val / 4) c.val = some v → ∃ t, exec (.localSteal c) s = .next t ∧ took v t) ∧
        (richest x.run (c.val / 4) c.val = none → exec (.localSteal c) s = .next (dryAt (c.val / 4)))) ∧
      (nextAsked s c.val h.val x = true →
        (∀ v, richest x.run h.val c.val = some v → ∃ t, exec (.remoteSteal c h) s = .next t ∧ took v t) ∧
        (richest x.run h.val c.val = none → exec (.remoteSteal c h) s = .next (dryAt h.val)))) ∧
    (∀ (b : Fin 2) (y : Bank), drainable (s.core c.val) (b == 1) x.run.uid = some y →
      let w := (drainUnit s c.val p i (coreSlot s c.val x) x.run.widened y (s.core c.val).recs).2
      ∃ t r, exec (.tileDrain c b) s = .next t ∧ (t.win p).exec = some r ∧ r.out = x.run.out - 1 ∧
        (if b = 1 then (t.core c.val).bank1 = none ∧ (t.core c.val).bank0 = (s.core c.val).bank0
         else (t.core c.val).bank0 = none ∧ (t.core c.val).bank1 = (s.core c.val).bank1) ∧
        (WritesLand s → Lands w.a.out s t) ∧
        (w.a.stop = none → r.stopped = x.run.stopped ∧ r.sat = x.run.sat + w.sats ∧ r.outputs = x.run.outputs + w.outputs) ∧
        (w.a.stop ≠ none → r.stopped = true)) ∧
    (∀ u, (s.core c.val).unit = some u →
      let s0 : State := { s with free := s.free + 1 }
      let k0 := s.core c.val
      let ready := k0.started = some x.run.uid ∨
        ((startCore s.free c.val p i k0 { s := s0 }).2.2.stop = none ∧ (startCore s.free c.val p i k0 { s := s0 }).2.1 &&& dTrap i.bytes = 0)
      let s1 := (ensureStarted c.val s.free x s0).1
      let k := s1.core c.val
      let n := (progOf i.bytes (tget [] k.progs (dProg i.bytes))).batch
      let first := (if dOutmode i.bytes = 0 ∨ dOutmode i.bytes = 3 then 4096 * u else 0) + k.pos
      let cnt := if dOp i.bytes = .reduce then min n (bnd i.bounds 0 - k.pos) else min n (unitEnd i.bytes i.bounds u - first)
      let whole := if dOp i.bytes = .reduce then decide (bnd i.bounds 0 ≤ k.pos + cnt) else decide (unitEnd i.bytes i.bounds u ≤ first + cnt)
      let o := if dOp i.bytes = .reduce then reduceBatch s.free c.val p i k x.run u { s := s1 } else elemBatch s.free c.val p i k x.run first cnt { s := s1 }
      ∃ t r, exec (.elemBatch c) s = .next t ∧ (t.win p).exec = some r ∧ t.free = s.free + 1 ∧
        (ready → o.a.stop = none → o.trap = none → r.stopped = x.run.stopped ∧ (t.core c.val).vregs = o.vregs ∧ (t.core c.val).preds = o.preds ∧
          (WritesLand s → Lands o.a.out s t) ∧
          (whole = false → x.run.stopped = false → (t.core c.val).unit = some u ∧ (t.core c.val).pos = k.pos + cnt) ∧
          (whole = true → x.run.stopped = false → (t.core c.val).unit = k.ahead ∧ (t.core c.val).pos = 0 ∧ r.out = x.run.out - 1)) ∧
        (¬ready ∨ o.a.stop ≠ none ∨ o.trap ≠ none → r.stopped = true ∧ (t.core c.val).unit = none ∧ t.mem = s.mem)) ∧
    (∀ p : Fin 16, ∀ y, s.running? p.val = some y → widenDue y = true →
      ∃ t r, exec (.widenRerun p) s = .next t ∧ (t.win p.val).exec = some r ∧ r.widened = true ∧ r.sat = 0 ∧ r.outputs = 0 ∧ r.uid = y.run.uid ∧
        r.units = unitCount y.item.bytes y.item.bounds true ∧ r.ranges = runRanges s p.val r.units ∧ t = { s with qm := t.qm })

/-- O41. The descriptor in EXEC whose work has ended finishes and leaves EXEC, with the writes of its granted units for a GATHER or SCATTER and no other byte written; a mover does so with its accesses made: a COPY or PREFETCH writes the bytes that it copies and no other, after an access that fails each of them or not, which is free (log 20), and a LOADB writes none; the oldest descriptor that may complete leaves its queue, and its completion writes its count register, updates its semaphore, writes a record when it asks for one or has failed, and makes its status the queue's last; a status of 0x10 or above faults the queue (the bytes land where no channel and no transfer has failed) (R108, R193, R203, R204, R206, R208.) -/
def Obligations.FinishAndCompletion : Prop :=
  ∀ (s : State), s.up = true → s.stopped = false →
    (∀ (p : Fin 16) (x : Running), s.running? p.val = some x → s.cancelling x.run.q.toNat = false → execEnded s x = true → (s.win p.val).next = none →
      ∃ t i, exec (.descriptorFinish p 0) s = .next t ∧ (t.win p.val).exec = none ∧ t.item x.run.q.toNat x.run.uid = some i ∧ i.finished = true ∧
        (x.run.stopped = false → dFold x.item.bytes = 0 → x.item.status = 0 →
          i.status = okStatus x.item.bytes x.run ∧ i.count = okCount x.item.bytes x.run) ∧
        (x.run.stopped = false → dOp x.item.bytes = .gather ∨ dOp x.item.bytes = .scatter → s.attn = none → WritesLand s →
          t.mem = x.run.held.foldl (fun m h => (byteRuns h.2).foldl (fun m r => mwrite m r.1 r.2) m) s.mem)) ∧
    (∀ (p : Fin 16) (k : Fin 3) (q : BitVec 16) (uid : Nat) (i : Item), k ≠ 0 → (s.win p.val).movers[k.val - 1]? = some (q, uid) →
      s.item q.toNat uid = some i → s.cancelling q.toNat = false →
      let m := moveAll { s with free := s.free + 1 } p.val i
      let l := loadWords s p.val i
      ∃ t j, exec (.descriptorFinish p k) s = .next t ∧ t.item q.toNat uid = some j ∧ j.finished = true ∧
        (t.win p.val).movers = (s.win p.val).movers.filter (fun y => !(y.1 == q && y.2 == uid)) ∧
        (dOp i.bytes ≠ .loadb →
          (m.stop = none → j = { i with finished := true, loads := [] } ∧ (WritesLand s → Lands m.out s t)) ∧
          (∀ st, m.stop = some st → j.status = st.status ∧ (WritesLand s → Lands (m.out.filter fun y => Config.partialByte s.free y.1) s t))) ∧
        (dOp i.bytes = .loadb → t.mem = s.mem ∧ (l.2.stop = none → j = { i with finished := true, loads := l.1 }) ∧
          (∀ st, l.2.stop = some st → j.status = st.status))) ∧
    (∀ (q : BitVec 16) (i : Item), let x := s.queue q.toNat
      x.state = .active → x.disabling = false → x.items.find? (mayComplete s x) = some i →
      ∃ t, exec (.descriptorComplete q) s = .next t ∧ (t.queue q.toNat).lastStatus = i.status ∧
        (t.queue q.toNat).pi = (if 0x10 ≤ i.status.toNat ∨ dCrec i.bytes = true then x.pi + 1 else x.pi) ∧
        (i.status.toNat < 0x10 →
          (t.queue q.toNat).items = x.items.filter (fun j => j.uid != i.uid) ∧ (t.queue q.toNat).state = .active ∧
          (dWritesCount i.bytes = true → tget 0 (t.queue q.toNat).bound (dCntReg i.bytes) = i.count) ∧
          (dSigEn i.bytes = true →
            t.sem (dSigSem i.bytes) = (if dSigSet i.bytes then dSigValue i.bytes else s.sem (dSigSem i.bytes) + dSigValue i.bytes)) ∧
          (dSigEn i.bytes = false → t.qm.sems = s.qm.sems)) ∧
        (0x10 ≤ i.status.toNat → (t.queue q.toNat).state = .faulted ∧ (t.queue q.toNat).fault = some (i.idx, i.frames, i.bytes) ∧
          t.qm.sems = s.qm.sems))

/-- O42. While a pass has tiles to merge, a home Hearth with space reads its next block, of the lower number when both rotations are ready (on the line there is one), and its counts rise by one; a block that goes on arrives at the next Hearth of its way, and its bytes are counted at the link that it crosses; a core that works a block into its rows has absorbed one more; a core that has absorbed every block merges its lowest tile, which writes the bytes of its rows of the output and no other byte, and after the last tile of a pass the next pass or problem begins, unless a grant hold keeps the next pass; where a read or a write of these fails, by the model's own read of the block, the rows or the output, the descriptor ends instead (a block or a tile with a failing access has no other effect on the ring: log 22) (R215, R216, R217, R218, R220, R222, R226, R416, R460.) -/
def Obligations.AttentionRing : Prop :=
  ∀ (s : State) (a : AttnRun) (x : Running), s.up = true → s.stopped = false → s.attnNow = some (a, x) →
    let i := x.item
    let bs := i.bounds
    let n := tilesNow s a bs
    let size := fun (b : Held) => (b.keys.length + b.vals.length) * (opnd i.bytes 1).format.bytes
    let ends := fun (t : State) => ∃ r, (t.win a.part).exec = some r ∧ r.stopped = true
    let goes := fun (t : State) => (t.win a.part).exec = (s.win a.part).exec
    (∀ (h : Fin 4) (c : Nat) (cs : List Nat), a.merged.length < n → hearthCores s a.part h.val = c :: cs →
      let k := fun (ccw : Bool) => tget 0 a.read (2 * h.val + ccw.toNat)
      let block := fun (ccw : Bool) => kthBlock a.line ccw h.val (k ccw)
      let ready := fun (ccw : Bool) => (a.line = true → ccw = false) ∧ block ccw < attnBlocks bs ∧ hasSpace a h.val ccw = true ∧
        4 * k ccw ≤ tget 0 a.got (2 * h.val + ccw.toNat)
      ∀ ccw : Bool, ready ccw → (ready (!ccw) → block ccw ≤ block (!ccw)) →
        let got := readBlock c i a (block ccw) { s := s }
        (got.2.stop = none → ∃ t a', exec (.attnBlockRead h) s = .next t ∧ t.mem = s.mem ∧ goes t ∧ t.attn = some a' ∧
          tget 0 a'.read (2 * h.val + ccw.toNat) = k ccw + 1 ∧
          tget 0 a'.got (2 * h.val + ccw.toNat) = tget 0 a.got (2 * h.val + ccw.toNat) + 1 ∧
          tget 0 a'.read (2 * h.val + (!ccw).toNat) = k (!ccw) ∧ a'.prob = a.prob ∧ a'.tile0 = a.tile0) ∧
        (got.2.stop ≠ none → ∃ t, exec (.attnBlockRead h) s = .next t ∧ t.mem = s.mem ∧ ends t)) ∧
    (∀ (h : Fin 4) (b : Held) (back : Bool), arrival s a (attnBlocks bs) h.val = some (b, back) →
      ∃ t a', exec (.attnBlockArrive h) s = .next t ∧ t.attn = some a' ∧ t = { s with attn := some a', regs := t.regs } ∧
        OnlyRegs ((List.range' 32 16).map Reg.dbgBcnt) s t ∧
        tget 0 a'.got (2 * h.val + b.ccw.toNat) = tget 0 a.got (2 * h.val + b.ccw.toNat) + 1 ∧ a'.read = a.read ∧ a'.cw = a.cw ∧ a'.ccw = a.ccw ∧
        (a.line = false → s.fabric.flueFailed = 0 → b.hearth < 4 →
          let l := if b.ccw then 41 + 2 * h.val else 40 + 2 * b.hearth
          t.fld (Reg.dbgBcnt l) 47 0 = (s.fld (Reg.dbgBcnt l) 47 0 + size b) % 2 ^ 48)) ∧
    (∀ (c : Fin 16) (b : Held), a.held.find? (fun y => y.hearth == c.val / 4 && !y.done.contains c.val) = some b → rowsOfCore s a bs c.val ≠ [] →
      let u : State := { bump s (32 + 2 * (c.val / 4)) (size b) with free := s.free + 1 }
      let r := (rowsOfCore s a bs c.val).foldl (fun st row => absorbFor c.val s.free i b row st) (a, { s := u })
      (r.2.stop = none → ∃ t a', exec (.attnBlockAbsorb c) s = .next t ∧ t.free = s.free + 1 ∧ t.mem = s.mem ∧ goes t ∧ t.attn = some a' ∧
        tget 0 a'.absorbed c.val = tget 0 a.absorbed c.val + 1 ∧ a'.merged = a.merged ∧ a'.cw = r.1.cw ∧ a'.ccw = r.1.ccw ∧
        ∀ y, y ∈ a'.held → y.hearth = b.hearth → y.block = b.block → c.val ∈ y.done) ∧
      (r.2.stop ≠ none → ∃ t, exec (.attnBlockAbsorb c) s = .next t ∧ t.free = s.free + 1 ∧ t.mem = s.mem ∧ ends t)) ∧
    (∀ (c : Fin 16) (j : Nat), a.merged.length < n → attnBlocks bs ≤ tget 0 a.absorbed c.val →
      (tilesOfCore s a bs c.val).find? (fun y => !a.merged.contains y) = some j →
      let w := (tileQRows a bs j).foldl (fun acc row => writeRow c.val s.free i a row acc) { s := { s with free := s.free + 1 } }
      (w.stop = none → ∃ t a', exec (.attnMerge c) s = .next t ∧ t.free = s.free + 1 ∧ goes t ∧ t.attn = some a' ∧ (WritesLand s → Lands w.out s t) ∧
        (a.merged.length + 1 < n → a' = { a with merged := a.merged ++ [j] }) ∧
        (n ≤ a.merged.length + 1 →
          (a.tile0 + n < attnTiles bs → s.grantHold = false → a'.merged = [] ∧ a'.prob = a.prob ∧ a'.tile0 = a.tile0 + n) ∧
          (attnTiles bs ≤ a.tile0 + n → s.grantHold = false ∨ attnProbs bs ≤ a.prob + 1 → a'.merged = [] ∧ a'.prob = a.prob + 1 ∧ a'.tile0 = 0) ∧
          (s.grantHold = true → a.tile0 + n < attnTiles bs ∨ a.prob + 1 < attnProbs bs → a' = { a with merged := a.merged ++ [j] }))) ∧
      (w.stop ≠ none → ∃ t, exec (.attnMerge c) s = .next t ∧ t.free = s.free + 1 ∧ ends t ∧ (WritesLand s → Lands w.out s t)))

/-- O43. A cycle that starts is counted once; a slot that starts, for the first time in its cycle, is in force on its partition and ends the quiet period; one that is over loses its admission; a quiet period that starts before a slot of another group is in force, and takes a descriptor of another group out of NEXT, which is then unissued again, without reservations, while what its queue has issued after it goes on (a withdrawn descriptor, and the first tick of a cycle, are log 34) (R344, R345, R346.) -/
def Obligations.CyclicTable : Prop :=
  ∀ (s : State), s.up = true → s.stopped = false →
    (s.tableOn = true → s.cyclePos < 10 → s.qm.cycles = 0 ∨ s.qm.cycleAt ≠ s.cycleBegin →
      exec .cycleStart s = .next { s with qm := { s.qm with cycles := s.qm.cycles + 1, cycleAt := s.cycleBegin } }) ∧
    (∀ i : Fin 1024, slotOn s i.val = true →
      let p := slotPart (s.slotEntry i.val)
      let g := slotGroup (s.slotEntry i.val)
      (inSlotNow s i.val = true → slotNew s i.val = true →
        ∃ t, exec (.slotStart i) s = .next t ∧ (t.win p).slot = some i.val ∧ (t.win p).quiet = none ∧ ((s.win p).next = none → t.mem = s.mem) ∧
          OnlyRegs [Reg.qmLate p] s t ∧ (∀ k, k ≠ p → t.win k = s.win k)) ∧
      (inSlotNow s i.val = false → (s.win p).slot = some i.val → exec (.slotEnd i) s = .next (s.modWin p fun w => { w with slot := none })) ∧
      (inGuardNow s i.val = true → groupBefore s i.val ≠ some g → (s.win p).quiet ≠ some i.val →
        ((s.win p).next = none → exec (.quietPeriodStart i) s = .next (s.modWin p fun w => { w with quiet := some i.val })) ∧
        (∀ (q : BitVec 16) (uid : Nat) (it : Item), (s.win p).next = some (q, uid) → s.item q.toNat uid = some it → (s.queue q.toNat).part = p →
          ((s.queue q.toNat).lc = true ∧ (s.queue q.toNat).group = g →
            exec (.quietPeriodStart i) s = .next (s.modWin p fun w => { w with quiet := some i.val })) ∧
          ((s.queue q.toNat).lc = false ∨ (s.queue q.toNat).group ≠ g →
            ∃ t, exec (.quietPeriodStart i) s = .next t ∧ (t.win p).quiet = some i.val ∧ (t.win p).next = none ∧
              (t.queue q.toNat).ip = (s.queue q.toNat).ip ∧ t.item q.toNat uid = some { it with back := true, reserves := false } ∧
              ∀ k, k ≠ uid → t.item q.toNat k = s.item q.toNat k))))

/-- O44. OPEN and OPEN_ENC of a sound parameter block with a free handle and enough pool open the stream of the block with its buffers reserved, and report OK; a bad block opens nothing and reports BAD_PARAM; CLOSE ends at once when no engine holds a frame, and else waits with BUSY; FLUSH ends the input, SKIP_TO_RAP waits for a random-access point, FORCE_IDR makes the next frame an IDR; MEDIA_COMMIT accepts a consistent set for the selected stream and rejects an inconsistent one; MEDIA_RELEASE clears its mark alone, after which a buffer of a closed stream without marks is free; a request for a future frame of a decode stream waits among at most eight; a command of the wrong kind on an open stream reports WRONG_STATE and leaves the stream (no function-level reset lasting; a random-access point is awaited in RUN, and what CLOSE drops is that of log 36) (R236, R237, R243, R245, R247, R255, R384.) -/
def Obligations.MediaStreamCommands : Prop :=
  ∀ (s : State) (fn : Fn) (h : Fin 1024), s.up = true → s.stopped = false → tfind s.hif.held fn.num = none → s.hif.flr = [] →
    let u := bump s 88 4
    let done := fun (code : Nat) (t : State) => t.fld Reg.mediaScmdStat 11 8 = code ∧ t.bit Reg.mediaScmdStat 1 = true
    (u.bit Reg.mediaScmdStat 0 = false → ∀ v par, engRead u (u.fld Reg.mediaScmdAddr 39 6 * 64) 128 = (v, par, none) → v.mayPart fn (pPart par) = true →
      (decodeBad par = true → ∃ t, exec (.mediaOpen fn h) s = .next t ∧ done 1 t ∧ t.media = s.media) ∧
      (encodeBad par = true → ∃ t, exec (.mediaOpenEnc fn h) s = .next t ∧ done 1 t ∧ t.media = s.media) ∧
      (∀ pool, handleBusy v h.val = false → decodeBad par = false →
        reserve v (pDpb par + pOutDepth par + pHold par) (framePat h.val par) (pSegCount par) (pSynChunks par) par = .ok pool →
        ∃ t, exec (.mediaOpen fn h) s = .next t ∧ done 0 t ∧ t.media.pool = pool ∧
          t.stream? h.val = some { kind := .decode, par := par, sp0 := openSp0 par, sp1 := openSp1 par, dec := { mirrored := s.primary } } ∧
          (∀ k, k ≠ h.val → t.stream? k = s.stream? k)) ∧
      (∀ pool, handleBusy v h.val = false → encodeBad par = false →
        reserve v (2 + pOutDepth par) (framePat h.val par) (pSegCount par) 0 par = .ok pool →
        ∃ t, exec (.mediaOpenEnc fn h) s = .next t ∧ done 0 t ∧ t.media.pool = pool ∧
          t.stream? h.val = some { kind := .encode, par := par, sp0 := openSp0 par, sp1 := openSp1 par } ∧
          (∀ k, k ≠ h.val → t.stream? k = s.stream? k))) ∧
    (∀ x : Stream, s.stream? h.val = some x → u.outside fn = false → mayStream u fn x = true → x.closing = false →
      (u.bit Reg.mediaScmdStat 0 = false →
        (x.kind = .decode ∨ x.kind = .encode →
          (x.dec.parsing = none → (∀ p ∈ x.dec.frames, ∀ k b, p.stage ≠ .onPipe k b) → x.enc.run = none →
            ∃ t, exec (.mediaClose fn h) s = .next t ∧ t.stream? h.val = none ∧ done 0 t ∧ t.bit Reg.mediaScmdStat 0 = false) ∧
          (x.dec.parsing.isSome = true ∨ x.enc.run.isSome = true ∨ (∃ p ∈ x.dec.frames, ∃ k b, p.stage = .onPipe k b) →
            ∃ t y, exec (.mediaClose fn h) s = .next t ∧ t.stream? h.val = some y ∧ y.closing = true ∧ y.dec.units = [] ∧ y.dec.due = [] ∧
              y.enc.subs = [] ∧ t.bit Reg.mediaScmdStat 0 = true ∧ t.bit Reg.mediaScmdStat 1 = false)) ∧
        (x.kind = .decode →
          (∃ t y, exec (.mediaFlush fn h) s = .next t ∧ done 0 t ∧ t.stream? h.val = some y ∧ (y.dec.flushing = true ∨ y.st = 3)) ∧
          (∃ t, exec (.mediaSkipToRap fn h) s = .next t ∧ done 0 t ∧
            t.stream? h.val = some { x with dec := { x.dec with needRap := true } })) ∧
        (x.kind = .encode → ∃ t, exec (.mediaForceIdr fn h) s = .next t ∧ done 0 t ∧
          t.stream? h.val = some { x with enc := { x.enc with idrDue := true } }) ∧
        (x.kind ≠ .decode →
          (∃ t, exec (.mediaFlush fn h) s = .next t ∧ done 6 t ∧ t.media = s.media) ∧
          (∃ t, exec (.mediaSkipToRap fn h) s = .next t ∧ done 6 t ∧ t.media = s.media)) ∧
        (x.kind ≠ .encode → ∃ t, exec (.mediaForceIdr fn h) s = .next t ∧ done 6 t ∧ t.media = s.media)) ∧
      (u.ready = true → u.fld (fnKey fn.num Reg.mediaSsel) 9 0 = h.val →
        let a := (tfind s.media.pend (fnKey fn.num Reg.mediaSp0Pend)).getD (acceptedSet x).1
        let b := (tfind s.media.pend (fnKey fn.num Reg.mediaSp1Pend)).getD (acceptedSet x).2
        (mediaSetBad x.kind a b = true → exec (.mediaCommit fn) s = .next (u.setBit Reg.mediaCommit 8 true)) ∧
        (mediaSetBad x.kind a b = false → ∃ t, exec (.mediaCommit fn) s = .next t ∧ t.stream? h.val = some { x with pend := some (a, b) } ∧
          t.bit Reg.mediaCommit 8 = false ∧ tfind t.media.pend (fnKey fn.num Reg.mediaSp0Pend) = none))) ∧
    (∀ (b : Fin 16384) (y : Buf), s.buf? b.val = some y → u.mayPart fn y.part = true →
      let cleared := fun (m : Nat) (t : State) => t = { u with media := { s.media with pool := t.media.pool, closed := t.media.closed } } ∧
        ((s.stream? y.owner).isSome = true → t.media.pool = tput s.media.pool b.val (y.mark m false) ∧ t.media.closed = s.media.closed) ∧
        ((s.stream? y.owner).isSome = false → t.media.pool = (tput s.media.pool b.val (y.mark m false)).filter (fun z =>
          !(z.2.owner == y.owner && z.2.marks == 0 && !z.2.taken)) ∧
          t.media.closed = (if t.media.pool.any fun z => z.2.owner == y.owner then s.media.closed else terase s.media.closed y.owner))
      (∃ t, exec (.releaseOut fn b) s = .next t ∧ cleared mkOut t) ∧ (∃ t, exec (.releaseHold fn b) s = .next t ∧ cleared mkHold t)) ∧
    (∀ (x : Stream) (num : W32), s.stream? h.val = some x → mayStream (bump s 88 8) fn x = true → x.kind = .decode →
      ahead32 num x.dec.num = true → x.dec.reqs.length < 8 →
      exec (.reconReq fn h false num) s =
        .next ((bump s 88 8).putStream h.val { x with dec := { x.dec with reqs := x.dec.reqs ++ [some num] } }))

/-- O45. A doorbell sets WRITE and adds complete access units; a bit engine whose turn it is begins the oldest of them under the policy in force, and its end, when it brings a whole frame, numbers that frame and advances BS_POS; the oldest undecided frame is chosen by its policy or a request, or dropped; a pixel pipe whose turn it is takes the next chosen frame and a free buffer; reconstruction, once the reference samples it reads are written, ends with the frame off the pipe, and a frame to be shown due for output with OUT_PENDING; emission, in output order, before which every shown picture of a lower order has come, one that waits for its second field too, takes it off the list and counts it, or waits (no function-level reset lasting at the doorbell; each is an event of its own: log 5; what the standard finds is an operand: log 7; what a flush does is log 36) (R239, R242, R243, R244, R248, R249, R251, R254.) -/
def Obligations.DecodeFlow : Prop :=
  ∀ (s : State) (h : Fin 1024) (x : Stream), s.up = true → s.stopped = false → s.stream? h.val = some x → x.kind = .decode → x.closing = false →
    (∀ (fn : Fn) (v : W64) (ends : List W32), tfind s.hif.held fn.num = none → s.hif.flr = [] → mayStream (bump s 88 8) fn x = true → (bump s 88 8).noBells = false →
      let w := BitVec.ofNat 32 v.toNat
      dist32 w x.dec.cons ≤ pBsSize x.par → ahead32 w x.dec.write = true →
      ∃ t y es, exec (.mediaDoorbell fn h v ends) s = .next t ∧ t.stream? h.val = some y ∧ y.dec.write = w ∧ y.dec.units = x.dec.units ++ es ∧
        y.par = x.par ∧ y.dec.pos = x.dec.pos) ∧
    (∀ (g : Fin 8) (e : W32) (tm : W64) (us : List (W32 × W64)), x.dec.units = (e, tm) :: us →
      (s.media.streams.any fun y => match y.2.dec.parsing with | some p => p.engine == g.val | none => false) = false →
      turnOf s s.media.bitLast g.val h.val (fun _ y => mayParse y) = true →
      ∃ t y, exec (.auParseStart h g) s = .next t ∧ t.stream? h.val = some y ∧ y.dec.units = us ∧ y.pend = none ∧
        y.dec.parsing = some ⟨g.val, x.dec.pos, e, tm, (adoptSet x).sp0⟩ ∧ (∀ k, k ≠ h.val → t.stream? k = s.stream? k) ∧ t.mem = s.mem) ∧
    (∀ (p : Parsing) (r : AuResult), x.dec.parsing = some p → x.dec.needRap = false → x.dec.rasl = false → r.seq = none → r.noPicture = false →
      r.dpbNeed ≤ pDpb x.par → r.firstField = false → x.dec.half = none →
      ∃ t y pic, exec (.auParseDone h r) s = .next t ∧ t.stream? h.val = some y ∧ y.dec.parsing = none ∧ y.dec.pos = p.fin ∧
        y.dec.num = x.dec.num + 1 ∧ y.dec.frames = x.dec.frames ++ [pic] ∧ pic.num = x.dec.num ∧ pic.arrival = p.arrival) ∧
    (∀ (p : Pic) (ps : List Pic), x.dec.frames = p :: ps → p.stage = .undecided → x.dec.refsTo = none →
      ∃ t y, exec (.reconDecision h) s = .next t ∧ t.stream? h.val = some y ∧
        y.dec.frames = (if pickedNow x p false then { p with stage := .chosen } :: ps else ps) ∧
        y.dec.reqs = x.dec.reqs.filter (fun q => q != none && q != some p.num)) ∧
    (∀ (k b) (a ps : List Pic) (p : Pic), splitRunning x.dec.frames = (a, p :: ps) →
      (s.media.streams.any fun y => y.2.dec.frames.any fun p => match p.stage with | .onPipe j _ => j == k.val | _ => false) = false →
      s.freeBuf h.val b.val = true → turnOf s s.media.pixLast k.val h.val (mayPixel s) = true →
      ∃ t y z, exec (.pixelFrameStart h k b []) s = .next t ∧ t.stream? h.val = some y ∧
        y.dec.frames = a ++ { p with stage := .onPipe k.val b.val } :: ps ∧ t.buf? b.val = some z ∧ z.taken = true ∧ t.mem = s.mem) ∧
    (∀ (k : Fin 16) (r : ReconResult) (p : Pic) (b : Nat) (z : Buf), r.refs = [] → p.stage = .onPipe k.val b → readsRunning x p r = false →
      x.dec.frames.find? (fun q => match q.stage with | .onPipe j _ => j == k.val | _ => false) = some p → s.buf? b = some z →
      ∃ t y z', exec (.reconDone h k r) s = .next t ∧ t.stream? h.val = some y ∧ t.buf? b = some z' ∧ z'.taken = false ∧
        z'.picW = p.picW ∧ z'.picH = p.picH ∧ z'.arrival = p.arrival ∧
        y.dec.frames = x.dec.frames.filter (fun q => !(match q.stage with | .onPipe j _ => j == k.val | _ => false)) ∧
        (p.shown = true → z'.has mkOut = true ∧ ∃ e, y.dec.due = x.dec.due ++ [e] ∧ e.buf = b ∧ e.num = p.num) ∧
        (p.shown = false → y.dec.due = x.dec.due)) ∧
    (∀ (b : Fin 16384) (e : Due), x.dec.due.find? (fun e => e.buf == b.val) = some e → emitTurn x.dec e = true →
      (emitWaits s h.val x = false →
        ∃ t y, exec (.frameEmit h b) s = .next t ∧ t.stream? h.val = some y ∧ y.dec.due = x.dec.due.filter (fun q => q.buf != b.val) ∧
          tget 0 y.cnt 12 = satAdd 32 (tget 0 x.cnt 12) 1 ∧ y.waitAt = none ∧
          y.outPi = (if rEn (pRing x.par false) then x.outPi + 1 else x.outPi) ∧ y.anaPi = (if rEn (pRing x.par true) then x.anaPi + 1 else x.anaPi)) ∧
      (emitWaits s h.val x = true →
        exec (.frameEmit h b) s = .next (s.putStream h.val { x with waitAt := some (x.waitAt.getD s.clock.timeM) })))

/-- O46. A submitted buffer that the session accepts joins its sources and carries ENC_SOURCE; a pipe whose turn it is takes the oldest source with a free buffer for the reconstruction; a first pass that would overflow the bucket is repeated once with the quality index raised by six, up to 51; a kept frame advances OUT_PRODUCED by its bytes, its reconstruction becomes the reference, and the vectors and choices of its search are those of the session; a skipped one produces nothing; either ends the pass with one more frame numbered (no function-level reset lasting at a submission; skipped frames count toward GOP_LEN and a RATE of 0 keeps q: log 37; the search is that of log 64) (R260, R262, R263, R264, R265.) -/
def Obligations.EncodeFlow : Prop :=
  ∀ (s : State) (h : Fin 1024) (x : Stream), s.up = true → s.stopped = false → s.stream? h.val = some x → x.kind = .encode → x.closing = false →
    (∀ (fn : Fn) (v : W64), tfind s.hif.held fn.num = none → s.hif.flr = [] → mayStream (bump s 88 8) fn x = true → (bump s 88 8).noBells = false →
      let b := nbits v.toNat 13 0
      (nbit v.toNat 14 = false → exec (.encodeSubmit fn h v) s =
        .next ((bump s 88 8).putStream h.val { x with enc := { x.enc with consumed := BitVec.ofNat 32 (v.toNat / 2 ^ 32) } })) ∧
      (nbit v.toNat 14 = true → sourceOk s x b = true →
        ∃ t y z, exec (.encodeSubmit fn h v) s = .next t ∧ t.stream? h.val = some y ∧ y.enc.subs = x.enc.subs ++ [b] ∧
          y.enc.consumed = BitVec.ofNat 32 (v.toNat / 2 ^ 32) ∧ t.buf? b = some z ∧ z.has mkEnc = true)) ∧
    (∀ (k : Fin 2) (r : Fin 16384) (b : Nat) (bs : List Nat), x.enc.subs = b :: bs → encReady x = true → encRoom x = true →
      (s.media.streams.any fun y => match y.2.enc.run with | some e => e.pipe == k.val | none => false) = false → s.freeBuf h.val r.val = true →
      turnOf s s.media.encLast k.val h.val (fun _ y => encReady y && encRoom y) = true →
      ∃ t y e z, exec (.encodeFrameStart h k r) s = .next t ∧ t.stream? h.val = some y ∧ y.enc.subs = bs ∧ y.enc.run = some e ∧ e.pipe = k.val ∧
        e.src = b ∧ e.recon = r.val ∧ e.retried = false ∧ e.q ≤ 51 ∧ t.buf? r.val = some z ∧ z.taken = true) ∧
    (∀ (e : EncRun) (bytes luma chroma : List Byte), x.enc.run = some e →
      let u := s.fresh.2
      let found := passSearch u x e s.free
      let full := rateOf x ≠ 0 ∧ bucketBits x < x.enc.fill + 8 * bytes.length ∧ e.forced = false
      (full → e.retried = false → e.q < 51 →
        ∃ t y, exec (.encodePassDone h bytes luma chroma) s = .next t ∧ t.mem = s.mem ∧ t.stream? h.val = some y ∧
          y = { x with cnt := y.cnt, enc := { x.enc with
            run := some { e with vectors := found.1, choices := found.2, q := min (e.q + 6) 51, retried := true } } }) ∧
      (full → (e.retried = true ∨ 51 ≤ e.q) →
        ∃ t y, exec (.encodePassDone h bytes luma chroma) s = .next t ∧ t.stream? h.val = some y ∧ y.enc.run = none ∧ y.enc.num = x.enc.num + 1 ∧
          y.enc.produced = x.enc.produced ∧ y.enc.ref = x.enc.ref ∧ y.enc.fill = x.enc.fill) ∧
      (¬full →
        ∃ t y, exec (.encodePassDone h bytes luma chroma) s = .next t ∧ t.stream? h.val = some y ∧ y.enc.run = none ∧ y.enc.num = x.enc.num + 1 ∧
          y.enc.produced = x.enc.produced + BitVec.ofNat 32 bytes.length ∧ y.enc.ref = some e.recon ∧
          y.enc.fill = (if rateOf x = 0 then 0 else x.enc.fill + 8 * bytes.length) ∧ y.enc.sinceIdr = (if e.idr then 1 else x.enc.sinceIdr + 1) ∧
          y.enc.vectors = found.1 ∧ y.enc.choices = found.2))

/-- O47. CAP_COMMIT rejects an inconsistent set with result 1 and no capture or buffer state changed, and accepts a sound one with every sensor of it enabled; a frame start opens a numbered frame in a free buffer, if there is one, with the M-clock stamp; a frame start or end without a sensor is counted, and one with an uncorrectable header changes nothing; a good line adds one received line, and a line that is lost or fails its CRC takes its place, is flagged and counted; a frame end closes the frame, counted as short where it has fewer lines than the first, and it is emitted at once, or waits for its image pipe, whose end emits it and keeps its tile means for the next frame; a frame start of a sensor that is being disabled is counted as one without a sensor (no function-level reset lasting at a commit; a line that was discarded keeps its place, and the heights, are log 38, and the image pipe where the manual gives no equation is log 65) (R267, R268, R270, R272, R273, R279.) -/
def Obligations.CaptureFlow : Prop :=
  ∀ (s : State), s.up = true →
    (∀ fn : Fn, tfind s.hif.held fn.num = none → s.hif.flr = [] →
      let u := bump s 88 4
      u.outside fn = false → u.ready = true → ∀ v xs poison, capAreas fn.num (List.range 16) u = (v, xs, poison) →
        (poison = true ∨ capSetBad v fn.num xs = true →
          ∃ t, exec (.capCommit fn) s = .next t ∧ t.fld Reg.capCommit 15 12 = 1 ∧ t.bit Reg.capCommit 8 = true ∧ t.capture = s.capture ∧
            t.media = s.media) ∧
        (poison = false → capSetBad v fn.num xs = false → capHandles v (xs.filter fun x => !wasOn v x.idx) = false →
          ∀ pool, capReserve v (xs.filter fun x => !wasOn v x.idx) = .ok pool →
          ∃ t, exec (.capCommit fn) s = .next t ∧ t.fld Reg.capCommit 15 12 = 0 ∧ t.bit Reg.capCommit 8 = false ∧
            ∀ x ∈ xs, (t.sensor? x.idx).isSome = true)) ∧
    (∀ (port : Fin 4) (vc : BitVec 4),
      exec (.frameStartPacket port vc .bad) s = .next s ∧ exec (.frameEndPacket port vc .bad) s = .next s ∧
      (sensorsOn s port.val vc.toNat = [] → portOn s port.val = true →
        exec (.frameStartPacket port vc .clean) s = .next (s.addSat (Reg.capPortstat port.val) 31 0 1) ∧
        exec (.frameEndPacket port vc .clean) s = .next (s.addSat (Reg.capPortstat port.val) 31 0 1)) ∧
      (∀ (k : Nat) (x : Sensor), sensorsOn s port.val vc.toNat = [(k, x)] → s.sensor? k = some x → x.disabling = true → x.cur = none → portOn s port.val = true →
        exec (.frameStartPacket port vc .clean) s = .next (s.addSat (Reg.capPortstat port.val) 31 0 1)) ∧
      (∀ (k : Nat) (x : Sensor) (st : Stream), sensorsOn s port.val vc.toNat = [(k, x)] → s.sensor? k = some x → s.stream? (cHandle x.lo) = some st →
        x.disabling = false → x.idx < 16 → s.stopped = false →
        (x.cur = none → x.next = none →
          ∃ t y c, exec (.frameStartPacket port vc .clean) s = .next t ∧ t.sensor? k = some y ∧ y.num = x.num + 1 ∧ y.cur = some c ∧
            c.num = x.num ∧ c.arrival = s.clock.timeM ∧ c.buf = s.anyFree (cHandle x.lo) ∧ c.line = 0) ∧
        (∀ (c : CapFrame) (b : Nat), x.cur = some c → c.buf = some b → (s.buf? b).isSome = true →
          (c.isp = false → ∃ t y z, exec (.frameEndPacket port vc .clean) s = .next t ∧ t.sensor? k = some y ∧ y.cur = none ∧
            y.height = some (x.height.getD c.line) ∧ t.stream? (cHandle x.lo) = some z ∧ tget 0 z.cnt 8 = satAdd 32 (tget 0 st.cnt 8) 1 ∧
            (x.height.getD c.line ≤ c.line → tget 0 z.cnt 28 = tget 0 st.cnt 28) ∧
            (c.line < x.height.getD c.line → tget 0 z.cnt 28 = satAdd 32 (tget 0 st.cnt 28) 1)) ∧
          (c.isp = true → ∃ t y c', exec (.frameEndPacket port vc .clean) s = .next t ∧ t.sensor? k = some y ∧ y.cur = none ∧
            y.tail = x.tail ++ [c'] ∧ c'.num = c.num ∧ c'.buf = some b)))) ∧
    (∀ (port : Fin 4) (vc : BitVec 4) (dt : BitVec 6) (pl : List Byte) (k : Nat) (x : Sensor) (c : CapFrame) (st : Stream),
      (sensorsOn s port.val vc.toNat).find? (fun y => cDt y.2.lo == dt.toNat && y.2.cur.isSome) = some (k, x) → x.cur = some c →
      c.buf.isSome = true → s.stopped = false → s.stream? (cHandle x.lo) = some st → c.line < pMaxH st.par →
      (∃ t y c', exec (.longPacket port vc dt .clean true false pl) s = .next t ∧ t.sensor? k = some y ∧ y.cur = some c' ∧
        c'.line = c.line + 1 ∧ c'.got = c.got + 1 ∧ c'.num = c.num ∧ c'.buf = c.buf ∧
        c'.width = some (c.width.getD (min (linePixels (cDt x.lo) pl).1 (pMaxW st.par)))) ∧
      (∃ t y c' z, exec (.longPacket port vc dt .bad true false pl) s = .next t ∧ t.sensor? k = some y ∧ y.cur = some c' ∧ c'.line = c.line + 1 ∧
        c'.got = c.got ∧ c'.flags.testBit 7 = true ∧ t.stream? (cHandle x.lo) = some z ∧ tget 0 z.cnt 24 = satAdd 32 (tget 0 st.cnt 24) 1) ∧
      (∃ t y c' z, exec (.longPacket port vc dt .clean false false pl) s = .next t ∧ t.sensor? k = some y ∧ y.cur = some c' ∧ c'.line = c.line + 1 ∧
        c'.got = c.got ∧ c'.flags.testBit 10 = true ∧ t.stream? (cHandle x.lo) = some z ∧ tget 0 z.cnt 36 = satAdd 32 (tget 0 st.cnt 36) 1)) ∧
    (∀ (i : Fin 16) (m : IspMade) (k : Nat) (x : Sensor) (c : CapFrame) (cs : List CapFrame) (st : Stream) (b : Nat),
      (s.capture.sensors.filter fun y => y.2.idx == i.val && !y.2.tail.isEmpty).getLast? = some (k, x) → x.tail = c :: cs →
      s.stream? (cHandle x.lo) = some st → c.buf = some b → (s.buf? b).isSome = true → x.disabling = false → s.stopped = false →
      ∃ t y z, exec (.ispFrameDone i m.colours m.medians m.filtered) s = .next t ∧ t.sensor? k = some y ∧ y.tail = cs ∧
        y.tiles = (ispFrame c.area m (pTen st.par) (c.width.getD (pMaxW st.par)) c.raw (if c.first then [] else x.tiles)).means ∧
        t.stream? (cHandle x.lo) = some z ∧ tget 0 z.cnt 8 = satAdd 32 (tget 0 st.cnt 8) 1)

/-- O48. Word B is held until word A; a word A within the limits pairs with it and waits, with EN set, for the next value of the M-clock copy that the new words assert at, and is in force at once with EN clear, with the pin at its inactive level unless a pulse is asserted, which keeps its width (log 39); one outside the limits is dropped and counted; at that value the words come into force and the pulse begins, with the pin low where POL is set and high where it is not; it ends, with the pin at its other level, when its width has passed, and not before (R275, R53.) -/
def Obligations.FrameSyncOutputs : Prop :=
  ∀ (s : State) (n : Fin 4), s.up = true →
    let f := s.fsync n.val
    (∀ (fn : Fn) (v : W64), s.stopped = false → tfind s.hif.held fn.num = none → s.hif.flr = [] →
      let u := bump s 88 8
      u.outside fn = false →
        exec (.fsyncWordB fn n v) s = .next ((u.setReg (Reg.capFsyncB n.val) v).modFsync n.val fun f => { f with heldB := some v }) ∧
        (∀ b, f.heldB = some b ∨ (f.heldB = none ∧ (f.next.map (·.2)).getD f.b = b) →
          let w := u.setReg (Reg.capFsyncA n.val) (v &&& 0xFFFFFFFF00000003)
          (fsyncOk v b = true → nbit v.toNat 0 = true →
            exec (.fsyncWordA fn n v) s = .next (w.modFsync n.val fun f => { f with heldB := none, next := some (v, b) })) ∧
          (fsyncOk v b = true → nbit v.toNat 0 = false →
            let g : Fsync := { f with heldB := none, next := none, a := v, b := b }
            exec (.fsyncWordA fn n v) s = .next (w.modFsync n.val fun _ => { g with level := if f.since.isSome then f.level else nbit v.toNat 1 })) ∧
          (fsyncOk v b = false → exec (.fsyncWordA fn n v) s = .next (dropCmd u fn (Reg.capFsyncA n.val))))) ∧
    (∀ a b, f.next = some (a, b) → fsyncDue a b s.clock.timeM = true →
      ∃ t, exec (.fsyncAssert n) s = .next t ∧ t.fsync n.val = { f with next := none, a := a, b := b, since := some (s.clock.timeM, fsWidth b), level := !nbit a.toNat 1 } ∧
        (∀ k, k ≠ n.val → t.fsync k = s.fsync k) ∧ t = { s with capture := t.capture }) ∧
    (f.next = none → fsyncDue f.a f.b s.clock.timeM = true →
      ∃ t, exec (.fsyncAssert n) s = .next t ∧ t.fsync n.val = { f with since := some (s.clock.timeM, fsWidth f.b), level := !nbit f.a.toNat 1 } ∧
        t = { s with capture := t.capture }) ∧
    (f.next = none → fsyncDue f.a f.b s.clock.timeM = false → exec (.fsyncAssert n) s = .next s) ∧
    (∀ st w, f.since = some (st, w) →
      (w ≤ (s.clock.timeM - st).toNat → ∃ t, exec (.fsyncDeassert n) s = .next t ∧ t.fsync n.val = { f with since := none, level := nbit f.a.toNat 1 } ∧
        t = { s with capture := t.capture }) ∧
      ((s.clock.timeM - st).toNat < w → exec (.fsyncDeassert n) s = .next s))

/-- O49. The CRC of every list of bytes is the bit-by-bit division by the bit-reversed polynomial 0x1EDC6F41 that starts from 0xFFFFFFFF and ends with an exclusive or of 0xFFFFFFFF, and the check value of the string 123456789 is 0xE3069283 (R291.) -/
def Obligations.Crc32cOfR291 : Prop :=
  let reflected := ((List.range 32).map fun i => if (0x1EDC6F41 : Nat).testBit i then 2 ^ (31 - i) else 0).sum
  (∀ bs : List Byte, crc32c bs =
    (bs.foldl (fun c b => (List.range 8).foldl (fun c _ => if c % 2 = 1 then (c / 2) ^^^ reflected else c / 2) (c ^^^ b.toNat)) 0xFFFFFFFF)
      ^^^ 0xFFFFFFFF) ∧
  crc32c [0x31, 0x32, 0x33, 0x34, 0x35, 0x36, 0x37, 0x38, 0x39] = 0xE3069283

/-- O50. A ring write by a function of the partition sets EN, LOG2 and BASE and resets head and tail when EN rises, a doorbell within the drop rules sets the tail, and others are denied or dropped; the next operation in turn starts at T_start with every region put among the valid, stale or invalid ones, invalid exactly where its entry, source or place breaks a rule, a malformed header is skipped and counted, and an operation that a pipeline has put at the ring head, or outside the ring (log 43), runs for it; the end writes the result record, frees the released buffers of open streams, adds to SIG_SEM and advances the head of a ring unless it was set anew under the operation (no function-level reset lasting at a write; the order of the judgement is log 40) (R280, R281, R285, R286, R274, R188.) -/
def Obligations.ShaperOperations : Prop :=
  ∀ (s : State) (p : Fin 16), s.up = true → s.stopped = false →
    (∀ fn : Fn, tfind s.hif.held fn.num = none → s.hif.flr = [] →
      (∀ v : W64, let u := bump s 88 8
        (u.mayPart fn p.val = false → exec (.shapeRingWrite fn p v) s = .next (denied u fn (Reg.shapeRing p.val))) ∧
        (u.mayPart fn p.val = true →
          ∃ t, exec (.shapeRingWrite fn p v) s = .next t ∧ (t.shapeRing p.val).en = nbit v.toNat 0 ∧
            (t.shapeRing p.val).log = nbits v.toNat 5 1 ∧ (t.shapeRing p.val).base = nbits v.toNat 39 12 * 4096 ∧
            (nbit v.toNat 0 = true → (s.shapeRing p.val).en = false → (t.shapeRing p.val).head = 0 ∧ (t.shapeRing p.val).tail = 0) ∧
            (nbit v.toNat 0 = false ∨ (s.shapeRing p.val).en = true →
              (t.shapeRing p.val).head = (s.shapeRing p.val).head ∧ (t.shapeRing p.val).tail = (s.shapeRing p.val).tail) ∧
            (∀ k, k ≠ p.val → t.shapeRing k = s.shapeRing k) ∧
            OnlyRegs [Reg.shapeRing p.val, Reg.shapeHead p.val, Reg.dbgBcnt 88] s t ∧
            t = { s with
              regs := t.regs
              shaper := t.shaper
              pipes := if nbit v.toNat 0 && !(s.shapeRing p).en then (s.mapPipes p fun x => { x with shapeAt := none }).pipes else s.pipes })) ∧
      (∀ x : W32, let u := bump s 88 4
        (u.mayPart fn p.val = false → exec (.shapeDoorbell fn p x) s = .next (denied u fn (Reg.shapeDb p.val))) ∧
        (u.mayPart fn p.val = true → u.noBells = false → tailOk (s.shapeRing p.val) x = true →
          exec (.shapeDoorbell fn p x) s = .next (u.modShapeRing p.val fun r => { r with tail := x })) ∧
        (u.mayPart fn p.val = true → u.noBells = true ∨ tailOk (s.shapeRing p.val) x = false →
          exec (.shapeDoorbell fn p x) s = .next (dropCmd u fn (Reg.shapeDb p.val))))) ∧
    (s.shaper.run.isSome = true ∨ nextInTurn s.shaper.last ((List.range 16).filter (shapeReady s)) ≠ some p.val →
      exec (.shapeOpStart p) s = .next s) ∧
    (s.shaper.run = none → nextInTurn s.shaper.last ((List.range 16).filter (shapeReady s)) = some p.val →
      (shapePipe s p.val none = none → shapePipe s p.val (some (s.shapeRing p.val).head) = none →
        ∀ u h k, engRead s ((s.shapeRing p.val).base + (s.shapeRing p.val).head.toNat % 2 ^ (s.shapeRing p.val).log * 64) 64 = (u, h, k) →
        (headerBad h = true → ∃ t, exec (.shapeOpStart p) s = .next t ∧ t.shaper.run = none ∧ t.shaper.last = p.val ∧
          ((s.shapeRing p.val).stopping = false → (t.shapeRing p.val).head = (s.shapeRing p.val).head + 1) ∧
          nbits (t.reg Reg.dbgViolLast).toNat 43 40 = 6) ∧
        (headerBad h = false → ∃ t x, exec (.shapeOpStart p) s = .next t ∧ t.shaper.run = some x ∧ t.shaper.last = p.val ∧ x.part = p.val ∧
          x.header = h ∧ x.regs.length = hNreg h ∧ x.start = s.clock.timeM ∧ x.pipe = none ∧ x.ring = true ∧
          (x.valid ++ x.stale ++ x.bad).Perm (List.range (hNreg h)) ∧
          (∀ i, i < hNreg h → (i ∈ x.bad ↔ entryBad (x.reg i) = true ∨ sourceUnmarked s (x.reg i) = true ∨ sourceForeign s p.val (x.reg i) = true ∨
            tensorPlaced s p.val (x.reg i) = false)) ∧
          (∀ i, i ∈ x.stale → regionStale s s.clock.timeM (x.reg i) = true) ∧
          (∀ i, i ∈ x.valid → regionStale s s.clock.timeM (x.reg i) = false) ∧ t.shapeRing p.val = s.shapeRing p.val)) ∧
      (∀ k y h r ring, tfind s.pipes k = some y →
        (shapePipe s p.val none = some (k, h, r) ∧ ring = false ∨
          shapePipe s p.val none = none ∧ shapePipe s p.val (some (s.shapeRing p.val).head) = some (k, h, r) ∧ ring = true) →
        ∃ t x, exec (.shapeOpStart p) s = .next t ∧ t.shaper.run = some x ∧ x.part = p.val ∧ x.header = h ∧ x.regs = [r] ∧ x.pipe = some k ∧
          x.ring = ring ∧ x.start = s.clock.timeM ∧ tfind t.pipes k = some { y with shape := none, shapeAt := none } ∧
          (∀ n, t.shapeRing n = s.shapeRing n))) ∧
    (s.shaper.run = none → exec .shapeOpDone s = .next s) ∧
    (∀ x, s.shaper.run = some x → ∃ t, exec .shapeOpDone s = .next t ∧ t.shaper.run = none ∧
      (∀ n, t.sem n = if hSignals x.header = true ∧ n = hSigSem x.header then s.sem n + hSigVal x.header else s.sem n) ∧
      (∀ u ps sat, produceAll x x.valid s = (u, ps, sat) →
        t.mem = (if hResult x.header then engWrite u (hResAddr x.header) (resultRecord x ps sat s.clock.timeM) else u).mem) ∧
      (∀ i b, i ∈ x.valid ++ x.stale → rRelease (x.reg i) = true → s.buf? (rBuf (x.reg i)) = some b → (s.stream? b.owner).isSome = true →
        ∃ y, t.buf? (rBuf (x.reg i)) = some y ∧ y.has mkHold = false ∧ y.owner = b.owner) ∧
      (x.ring = true → (s.shapeRing x.part).stopping = false → (t.shapeRing x.part).head = (s.shapeRing x.part).head + 1) ∧
      (x.ring = true → (s.shapeRing x.part).stopping = true →
        (t.shapeRing x.part).head = (s.shapeRing x.part).head ∧ (t.shapeRing x.part).stopping = false) ∧
      (x.ring = false → t.shapeRing x.part = s.shapeRing x.part) ∧
      (∀ k y, x.pipe = some k → tfind s.pipes k = some y → tfind t.pipes k = some { y with stale := !x.stale.isEmpty }))

/-- O51. A function that may not write the channel, or may not use the partition that its parameter area names, is denied with nothing stored; an enable checks the parameter block, the ring, the handle and the pool in order, fails with the result code and opens the stream in RUN on success; a disable stops parsing and, with no sample in flight, closes the stream and reads DISABLED; a doorbell within the bounds moves WRITE, SLOT_DONE or ROW_DONE, an EOS with nothing left to parse or to deliver reaches DRAINED, and every other doorbell is dropped and counted (no function-level reset lasting; the bounds of ROW_DONE and what EOS waits for are log 41) (R293, R294, R295, R239.) -/
def Obligations.IngestChannels : Prop :=
  ∀ (s : State) (fn : Fn) (c : Fin 16), s.up = true → s.stopped = false → tfind s.hif.held fn.num = none → s.hif.flr = [] →
    let u := bump s 88 8
    let x := s.chan c.val
    let ring := Reg.ingestRing c.val
    (mayChan u fn c.val = false →
      (∀ v, exec (.ingestEnable fn c v) s = .next (denied u fn ring)) ∧ exec (.ingestDisable fn c) s = .next (denied u fn ring) ∧
      (∀ w, exec (.ingestDoorbell fn c w) s = .next (denied u fn (Reg.ingestDb c.val)) ∧
        exec (.ingestEos fn c w) s = .next (denied u fn (Reg.ingestDb c.val))) ∧
      (∀ n, exec (.slotDone fn c n) s = .next (denied u fn (Reg.ingestDb c.val))) ∧
      (∀ n, exec (.rowDone fn c n) s = .next (denied u fn (Reg.ingestDb c.val)))) ∧
    (mayChan u fn c.val = true →
      (∀ v : W64, let w := u.setReg ring ((v ||| 1) &&& ringMask)
        (u.bit ring 0 = true → exec (.ingestEnable fn c v) s = .next w) ∧
        (u.bit ring 0 = false → x.st ≠ 0 → exec (.ingestEnable fn c v) s = .next (enableFails fn c.val 2 u)) ∧
        (u.bit ring 0 = false → x.st = 0 → ∀ r par poison, engRead u (u.fld (Reg.ingestParam c.val) 39 6 * 64) 256 = (r, par, poison) →
          let z := r.setReg ring ((v ||| 1) &&& ringMask)
          let log := nbits (v ||| 1).toNat 5 1
          let base := nbits (v ||| 1).toNat 39 12 * 4096
          let sound := poison.isNone = true ∧ ingestBad par = false ∧ 16 ≤ log ∧ log ≤ 30 ∧ z.inGddrStaging base (2 ^ log) = true
          (r.mayPart fn (pPart par) = false → exec (.ingestEnable fn c v) s = .next (denied r fn ring)) ∧
          (r.mayPart fn (pPart par) = true →
            (¬ sound → exec (.ingestEnable fn c v) s = .next (enableFails fn c.val 1 z)) ∧
            (sound → handleBusy z (iHandle par) = true → exec (.ingestEnable fn c v) s = .next (enableFails fn c.val 2 z)) ∧
            (sound → handleBusy z (iHandle par) = false →
              (∀ e, reserve z (4 + pHold par) (ingestPat par) 0 0 (par.take 128) = .error e →
                exec (.ingestEnable fn c v) s = .next (enableFails fn c.val e z)) ∧
              (∀ pool, reserve z (4 + pHold par) (ingestPat par) 0 0 (par.take 128) = .ok pool →
                ∃ t y, exec (.ingestEnable fn c v) s = .next t ∧ t.chan c.val = { st := 1, par := par, log := log, base := base } ∧
                  t.stream? (iHandle par) = some y ∧ y.kind = .ingest c.val ∧ y.st = 1 ∧ t.fld (Reg.ingestStat c.val) 37 34 = 0 ∧
                  t.fld (Reg.ingestStat c.val) 33 32 = 1 ∧ t.media.pool = pool))))) ∧
      (u.bit ring 0 = true →
        ∃ t, exec (.ingestDisable fn c) s = .next t ∧ t.bit ring 0 = false ∧
          (x.flight ≠ [] → (t.chan c.val).stopping = true ∧ (t.chan c.val).st = x.st ∧ (t.chan c.val).flight = x.flight) ∧
          (x.flight = [] → (t.chan c.val).st = 0 ∧ t.stream? x.handle = none ∧ t.fld (Reg.ingestStat c.val) 33 32 = 0)) ∧
      (u.bit ring 0 = false → exec (.ingestDisable fn c) s = .next (u.setReg ring (u.reg ring &&& ~~~1 &&& ringMask))) ∧
      (u.noBells = true ∨ x.st = 0 →
        (∀ w, exec (.ingestDoorbell fn c w) s = .next (dropCmd u fn (Reg.ingestDb c.val)) ∧
          exec (.ingestEos fn c w) s = .next (dropCmd u fn (Reg.ingestDb c.val))) ∧
        (∀ n, exec (.slotDone fn c n) s = .next (dropCmd u fn (Reg.ingestDb c.val))) ∧
        (∀ n, exec (.rowDone fn c n) s = .next (dropCmd u fn (Reg.ingestDb c.val)))) ∧
      (u.noBells = false → x.st ≠ 0 →
        (∀ w : W32, x.size < dist32 w x.consumed ∨ ahead32 w x.write = false →
          exec (.ingestDoorbell fn c w) s = .next (dropCmd u fn (Reg.ingestDb c.val)) ∧
          exec (.ingestEos fn c w) s = .next (dropCmd u fn (Reg.ingestDb c.val))) ∧
        (∀ w : W32, dist32 w x.consumed ≤ x.size → ahead32 w x.write = true →
          (∃ t, exec (.ingestDoorbell fn c w) s = .next t ∧ (t.chan c.val).write = w ∧ (t.chan c.val).slotDone = x.slotDone ∧
            (t.chan c.val).rowDone = x.rowDone ∧ (t.chan c.val).flight = x.flight ∧ (x.flight ≠ [] → (t.chan c.val).eos = x.eos)) ∧
          (∃ t, exec (.ingestEos fn c w) s = .next t ∧ (t.chan c.val).write = w ∧ (x.flight ≠ [] → (t.chan c.val).eos = true) ∧
            (x.flight = [] → x.stopping = false → (Chan.pass { x with write := w }).moreInput = false →
              (t.chan c.val).st = 2 ∧ (t.chan c.val).samples = 0))) ∧
        (dist32 x.write x.consumed ≤ x.size →
          (∀ n : BitVec 14, forward 14 n.toNat x.slotDone (x.slotsOut % 2 ^ 14) = true →
            ∃ t, exec (.slotDone fn c n) s = .next t ∧ (t.chan c.val).slotDone = n.toNat ∧ (t.chan c.val).rowDone = x.rowDone) ∧
          (∀ n : BitVec 16, forward 16 n.toNat x.rowDone (x.firstRow.toNat % 2 ^ 16) = true →
            ∃ t, exec (.rowDone fn c n) s = .next t ∧ (t.chan c.val).rowDone = n.toNat ∧ (t.chan c.val).slotDone = x.slotDone) ∧
          (∀ n : BitVec 14, forward 14 n.toNat x.slotDone (x.slotsOut % 2 ^ 14) = false →
            exec (.slotDone fn c n) s = .next (dropCmd u fn (Reg.ingestDb c.val))) ∧
          (∀ n : BitVec 16, forward 16 n.toNat x.rowDone (x.firstRow.toNat % 2 ^ 16) = false →
            exec (.rowDone fn c n) s = .next (dropCmd u fn (Reg.ingestDb c.val))))))

/-- O52. A sound primary header gives the next sample its id, time and place and moves the parse index past the payload as far as its bytes have come, a corrupt one is counted and resynchronises at the next 8 bytes, and a new sample waits for a free slot, the one before being whole; a complete payload is dispatched, a JPEG into a free buffer while fewer than four are held; the decoder records its result and the size of the frame header, and writes the planes of what it has decoded; a finished sample of a JPEG or a tensor without a cause is delivered, counted and leaves the flight; a tensor whose limit has passed since its dispatch gives way to its zero substitute, where that is what substitutes, and is counted as slow and replaced, and before the limit nothing happens; a batch whose oldest sample has reached the deadline closes (each is an event of its own: log 5; the header of a JPEG and its samples are operands: log 7; what dispatch waits for is log 41, and what never fits in a ring log 27) (R289, R290, R296, R297, R298, R299, R300, R303.) -/
def Obligations.IngestSamples : Prop :=
  ∀ (s : State) (c : Fin 16), s.up = true → s.stopped = false →
    let x := s.chan c.val
    (x.st ≠ 1 ∨ x.moreInput = false → exec (.recordHeader c) s = .next s) ∧
    (x.st = 1 → x.moreInput = true → ringDirty s x.base x.size x.pos 16 = none →
      let h := ringPeek s x.base x.size x.pos 16
      let slotFree := (x.id.toNat + 2 ^ 14 - x.slotDone % 2 ^ 14) % 2 ^ 14 < iSlotCount x.par
      (headerOk h = true → leAt h 8 1 ∈ [1, 2, 4] → leAt h 9 1 = 0 → leAt h 10 2 = 0 →
        (slotFree → ∃ t m, exec (.recordHeader c) s = .next t ∧ (t.chan c.val).flight.getLast? = some m ∧ m.id = x.id ∧ m.kind = leAt h 8 1 ∧
          m.arrival = s.clock.timeM ∧ m.start = x.pos + 16 ∧ m.len = leAt h 4 4 ∧ m.sent = none ∧ (t.chan c.val).flight.length = x.flight.length + 1 ∧
          (t.chan c.val).id = x.id + 1 ∧ (t.chan c.val).pos = (x.leap (leAt h 4 4)).pos) ∧
        (¬ slotFree → exec (.recordHeader c) s = .next (s.modChan c.val closeSample))) ∧
      (headerOk h = false → ∃ t, exec (.recordHeader c) s = .next t ∧ (t.chan c.val).pos = x.pos + 8 ∧ (t.chan c.val).resync = true ∧
        (t.chan c.val).id = x.id ∧ (t.chan c.val).flight.length = x.flight.length ∧
        (∀ y, s.stream? x.handle = some y → x.resync = false →
          ∃ z, t.stream? x.handle = some z ∧ tget 0 z.cnt 32 = satAdd 32 (tget 0 y.cnt 32) 1))) ∧
    (∀ (id : W32) (m : Sample), x.sample? id = some m →
      (m.sent = none → x.ready m = true →
        (m.kind ≠ 1 → ∃ t, exec (.sampleDispatch c id) s = .next t ∧ (t.chan c.val).sample? id = some { m with sent := some s.clock.timeM } ∧
          t = { s with ingest := t.ingest }) ∧
        (∀ b, m.kind = 1 → s.anyFree x.handle = some b → jpegsHeld s < 4 →
          ∃ t y, exec (.sampleDispatch c id) s = .next t ∧
            (t.chan c.val).sample? id = some { m with sent := some s.clock.timeM, buf := some b } ∧ t.buf? b = some y ∧ y.taken = true) ∧
        (m.kind = 1 → s.anyFree x.handle = none ∨ 4 ≤ jpegsHeld s → exec (.sampleDispatch c id) s = .next s)) ∧
      (m.sent.isSome = true ∨ (x.ready m = false ∧ x.stopping = false) → exec (.sampleDispatch c id) s = .next s) ∧
      (∀ (r : JpegResult) (b : Nat), m.buf = some b → m.jpeg = none →
        ∃ t, exec (.jpegDone c id r) s = .next t ∧
          (t.chan c.val).sample? id =
            some { m with jpeg := some ((jpegCode x.par r).1, (r.header.map (·.picW)).getD 0, (r.header.map (·.picH)).getD 0) } ∧
          (∀ h l y, (jpegCode x.par r).2 = some (h, l) → s.buf? b = some y →
            t.mem = (putPlanes l y.addr h.picW h.picH (jpegPlanes h l r) s).mem) ∧
          ((jpegCode x.par r).2 = none → t.mem = s.mem)) ∧
      (m.sent.isSome = true → m.redo = false → m.slow = false → x.ready m = true → m.whole = true ∨ m.label.isSome = true ∨ x.moreInput = false →
        sampleFlags s x m = some 0 → m.kind = 2 ∨ (m.kind = 1 ∧ jpegWaits s x = false) → x.stopping = false →
        ∃ t, exec (.sampleFinish c id) s = .next t ∧ (t.chan c.val).sample? id = none ∧
          (∀ k, k ≠ id → ((t.chan c.val).sample? k).isSome = (x.sample? k).isSome) ∧
          (∀ y, s.stream? x.handle = some y →
            ∃ z, t.stream? x.handle = some z ∧ tget 0 z.cnt 8 = satAdd 32 (tget 0 y.cnt 8) 1 ∧ tget 0 z.cnt 28 = tget 0 y.cnt 28)) ∧
      (s.fld Reg.ingestLimits 31 0 = 0 → exec (.sampleSlow c id) s = .next s) ∧
      (∀ t0, m.sent = some t0 → (s.clock.timeM - t0).toNat < s.fld Reg.ingestLimits 31 0 ∨ m.redo = true ∨ m.jpeg.isSome = true →
        exec (.sampleSlow c id) s = .next s) ∧
      (∀ t0, s.fld Reg.ingestLimits 31 0 ≠ 0 → m.sent = some t0 → s.fld Reg.ingestLimits 31 0 ≤ (s.clock.timeM - t0).toNat → m.redo = false →
        m.jpeg = none → m.kind = 2 → iZero x.par = true ∨ tfind x.good 2 = none → x.stopping = false →
        ∃ t, exec (.sampleSlow c id) s = .next t ∧ (t.chan c.val).sample? id = none ∧
          (∀ y, s.stream? x.handle = some y →
            ∃ z, t.stream? x.handle = some z ∧ tget 0 z.cnt 24 = satAdd 32 (tget 0 y.cnt 24) 1 ∧
              tget 0 z.cnt 28 = satAdd 32 (tget 0 y.cnt 28) 1))) ∧
    (x.firstAt = none → exec (.batchDeadline c) s = .next s) ∧
    (∀ t0, x.firstAt = some t0 → let age := (s.clock.timeM - t0).toNat
      (iDeadline x.par = 0 ∨ age < iDeadline x.par * 1000 → exec (.batchDeadline c) s = .next s) ∧
      (iDeadline x.par ≠ 0 → iDeadline x.par * 1000 ≤ age → age < 2 ^ 63 → x.samples ≠ 0 →
        ∃ t, exec (.batchDeadline c) s = .next t ∧ (t.chan c.val).batch = x.batch + 1 ∧ (t.chan c.val).samples = 0 ∧
          (t.chan c.val).firstAt = none ∧ (t.chan c.val).rows = [] ∧ (t.chan c.val).firstRow = x.nextRow))

/-- O53. A command while one runs, or before READY (log 62), is dropped (no function-level reset lasting); a BIND reads its block and ends with its result: parameters, already bound, too few contexts, or bound with the first id; with no function-level reset waiting, UNBIND and CLEAR of a stream without an op in progress free its contexts and end at once, and wait otherwise; ring writes set EN, LOG2 and BASE and reset head and tail when EN rises, doorbells act within the drop rules; a metadata doorbell returns records up to the released ones; CLEAR ends a wait for metadata space, which is counted, and remembers the contexts that it has freed for the partner (what UNBIND and CLEAR wait for is log 42, and a stream that leaves is log 32) (R307, R308, R309, R310, R324, R188.) -/
def Obligations.TrackerCommands : Prop :=
  ∀ (s : State) (fn : Fn), s.up = true → s.stopped = false → tfind s.hif.held fn.num = none → s.hif.flr = [] →
    let u := bump s 88 4
    (∀ (z : State) (code : Nat), code < 16 →
      (trackEnd code z).fld Reg.trackCmdStat 11 8 = code ∧ (trackEnd code z).bit Reg.trackCmdStat 0 = false ∧
      (trackEnd code z).bit Reg.trackCmdStat 1 = true ∧ OnlyRegs [Reg.trackCmdStat] z (trackEnd code z) ∧
      trackEnd code z = { z with regs := (trackEnd code z).regs }) ∧
    (∀ h : Fin 1024,
      (u.outside fn = true → exec (.bind fn h) s = .next (denied u fn Reg.trackCmd) ∧ exec (.unbind fn h) s = .next (denied u fn Reg.trackCmd) ∧
        exec (.clear fn h) s = .next (denied u fn Reg.trackCmd)) ∧
      (u.outside fn = false → u.bit Reg.trackCmdStat 0 = true ∨ u.ready = false → exec (.bind fn h) s = .next (dropCmd u fn Reg.trackCmd) ∧
        exec (.unbind fn h) s = .next (dropCmd u fn Reg.trackCmd) ∧ exec (.clear fn h) s = .next (dropCmd u fn Reg.trackCmd)) ∧
      (u.outside fn = false → u.bit Reg.trackCmdStat 0 = false → u.ready = true →
        (∀ z p poison, engRead u (u.fld Reg.trackCmdAddr 39 6 * 64) 128 = (z, p, poison) →
          (z.mayPart fn (bPart p) = false → exec (.bind fn h) s = .next (denied z fn Reg.trackCmd)) ∧
          (z.mayPart fn (bPart p) = true →
            (poison.isSome = true ∨ bindBad p = true ∨ bStream p ≠ h.val → exec (.bind fn h) s = .next (trackEnd 1 z)) ∧
            (poison = none → bindBad p = false → bStream p = h.val →
              ((s.bound? h.val).isSome = true → exec (.bind fn h) s = .next (trackEnd 2 z)) ∧
              (s.bound? h.val = none → s.freeCtxCount < bMaxTracks p → exec (.bind fn h) s = .next (trackEnd 3 z)) ∧
              (s.bound? h.val = none → bMaxTracks p ≤ s.freeCtxCount → exec (.bind fn h) s =
                .next (trackEnd 0 (z.putBound h.val { par := p, nextId := BitVec.ofNat 32 (if bIdBase p = 0 then 1 else bIdBase p) })))))) ∧
        (s.bound? h.val = none → exec (.unbind fn h) s = .next (trackEnd 6 u) ∧ exec (.clear fn h) s = .next (trackEnd 6 u)) ∧
        (∀ x, s.bound? h.val = some x → u.mayPart fn (bPart x.par) = false →
          exec (.unbind fn h) s = .next (denied u fn Reg.trackCmd) ∧ exec (.clear fn h) s = .next (denied u fn Reg.trackCmd)) ∧
        (∀ x, s.bound? h.val = some x → u.mayPart fn (bPart x.par) = true →
          (x.held = [] →
            (∃ t, exec (.unbind fn h) s = .next t ∧ t.bound? h.val = none ∧ t.track.cmd = none ∧ t.fld Reg.trackCmdStat 11 8 = 0 ∧
              t.bit Reg.trackCmdStat 1 = true ∧
              (s.fabric.chFailed = 0 → s.fabric.lost = [] → ∀ i j, i ∈ s.ctxsOf h.val → j < 64 → mget t.mem (ctxAddr i + j) = 0)) ∧
            ((∀ b ∈ s.track.bound, b.2.leaving = false) → ∃ t, exec (.clear fn h) s = .next t ∧
              t.bound? h.val = some { waitOver s x with predicted := false, preds := [], fresh := [], gone := x.gone ++ s.ctxsOf h.val } ∧ t.track.cmd = none ∧
              t.fld Reg.trackCmdStat 11 8 = 0 ∧ t.bit Reg.trackCmdStat 1 = true ∧
              (s.fabric.chFailed = 0 → s.fabric.lost = [] → ∀ i j, i ∈ s.ctxsOf h.val → j < 64 → mget t.mem (ctxAddr i + j) = 0))) ∧
          (x.held ≠ [] → (∀ b ∈ s.track.bound, b.2.leaving = false) →
            (∃ t, exec (.unbind fn h) s = .next t ∧ t.track = { s.track with cmd := some (h.val, true) } ∧ t.bit Reg.trackCmdStat 0 = true ∧
              t.bit Reg.trackCmdStat 1 = false ∧ t.mem = s.mem) ∧
            (∃ t, exec (.clear fn h) s = .next t ∧ t.track = { s.track with cmd := some (h.val, false) } ∧ t.bit Reg.trackCmdStat 0 = true ∧
              t.bit Reg.trackCmdStat 1 = false ∧ t.mem = s.mem))))) ∧
    (∀ p : Fin 16,
      (∀ v : W64, let w := bump s 88 8
        (w.mayPart fn p.val = false → exec (.trackRingWrite fn p v) s = .next (denied w fn (Reg.trackRing p.val))) ∧
        (w.mayPart fn p.val = true →
          ∃ t, exec (.trackRingWrite fn p v) s = .next t ∧ (t.trackRing p.val).en = nbit v.toNat 0 ∧
            (t.trackRing p.val).log = nbits v.toNat 5 1 ∧ (t.trackRing p.val).base = nbits v.toNat 39 12 * 4096 ∧
            (nbit v.toNat 0 = true → (s.trackRing p.val).en = false → (t.trackRing p.val).head = 0 ∧ (t.trackRing p.val).tail = 0) ∧
            (nbit v.toNat 0 = false ∨ (s.trackRing p.val).en = true →
              (t.trackRing p.val).head = (s.trackRing p.val).head ∧ (t.trackRing p.val).tail = (s.trackRing p.val).tail) ∧
            t.track.bound = (if nbit v.toNat 0 && !(s.trackRing p.val).en then (ringForgets p.val s).track.bound else s.track.bound) ∧
            (∀ k, k ≠ p.val → t.trackRing k = s.trackRing k))) ∧
      (∀ x : W32,
        (u.mayPart fn p.val = true → u.noBells = false → tailOk (s.trackRing p.val) x = true →
          exec (.trackDoorbell fn p x) s = .next (u.modTrackRing p.val fun r => { r with tail := x })) ∧
        (u.mayPart fn p.val = true → u.noBells = true ∨ tailOk (s.trackRing p.val) x = false →
          exec (.trackDoorbell fn p x) s = .next (dropCmd u fn (Reg.trackDb p.val))) ∧
        (u.mayPart fn p.val = false → exec (.trackDoorbell fn p x) s = .next (denied u fn (Reg.trackDb p.val))))) ∧
    (∀ (h : Fin 1024) (ci : W32) (x : Bound), let w := bump s 88 8
      s.bound? h.val = some x → w.mayPart fn (bPart x.par) = true →
        (w.noBells = false → ahead32 ci x.ci = true → dist32 ci x.ci ≤ dist32 x.out x.ci →
          exec (.trackMdb fn h ci) s = .next (w.modBound h.val fun x => { x with ci := ci })) ∧
        (w.noBells = true ∨ ahead32 ci x.ci = false ∨ dist32 x.out x.ci < dist32 ci x.ci →
          exec (.trackMdb fn h ci) s = .next (dropCmd w fn (Reg.trackMdb h.val))))

/-- O54. The op of a partition whose turn it is runs: a PREDICT records the frame and one prediction for each live context, an ASSOCIATE, with no function-level reset waiting, takes the next META_SEQ, counts the frame and is ready for the next PREDICT; an op that is skipped is counted, ends a wait of its stream for metadata space, and changes no track; a command for a partition whose turn it is not leaves everything but the metadata waits of its ASSOCIATEs, which begin; the op that is next is one of the partition, its stream is idle, its wait is satisfied, and an ASSOCIATE has metadata space (R312, R313, R314, R318, R324.) -/
def Obligations.TrackerOps : Prop :=
  ∀ (s : State) (p : Fin 16), s.up = true → s.stopped = false →
    let turn := nextInTurn s.track.last ((List.range 16).filter fun p => (nextOp s p).isSome)
    (turn ≠ some p.val → exec (.predict p) s = .next (metaWaits p.val s) ∧ exec (.associate p) s = .next (metaWaits p.val s) ∧
      (roomless s p.val = [] → exec (.predict p) s = .next s ∧ exec (.associate p) s = .next s) ∧
      (∀ h x, s.bound? h = some x → ∃ y, (metaWaits p.val s).bound? h = some y ∧
        y = { x with waitAt := if (roomless s p.val).contains h then some (x.waitAt.getD s.clock.timeF) else x.waitAt })) ∧
    (∀ src o, nextOp s p.val = some (src, o) →
      (src, o) ∈ partOps s p.val ∧ streamIdle s o = true ∧ (oWaits o = true → semOk s (oWaitSem o) (oWaitVal o) = true) ∧
      (∀ x, oOp o = 2 → opSkipped s p.val o = false → s.bound? (oStream o) = some x → metaRoom x = true)) ∧
    (turn = some p.val → ∀ src o, nextOp s p.val = some (src, o) →
      (oOp o = 2 → exec (.predict p) s = .next s) ∧ (oOp o ≠ 2 → exec (.associate p) s = .next s) ∧
      (opSkipped s p.val o = true →
        ∃ t, (oOp o = 2 → exec (.associate p) s = .next t) ∧ (oOp o ≠ 2 → exec (.predict p) s = .next t) ∧ t.track.last = p.val ∧ t.mem = s.mem ∧
          (∀ x, s.bound? (oStream o) = some x →
            let z := if bPart x.par = p.val then waitOver s x else x
            t.bound? (oStream o) = some { z with cnt := tset 0 z.cnt 28 (satAdd 32 (tget 0 z.cnt 28) 1) }) ∧
          (oSignals o = true → t.sem (oSigSem o) = s.sem (oSigSem o) + oSigVal o)) ∧
      (opSkipped s p.val o = false → oOp o ≠ 2 →
        ∃ t x y, s.bound? (oStream o) = some x ∧ exec (.predict p) s = .next t ∧ t.bound? (oStream o) = some y ∧ y.predicted = true ∧
          y.last = some (oArrival o) ∧ y.arrival = oArrival o ∧ y.frameSeq = oFrameSeq o ∧ y.par = x.par ∧ y.nextId = x.nextId ∧
          y.metaSeq = x.metaSeq ∧ y.preds.map (·.ctx) = (dropDirty (oStream o) s).ctxsOf (oStream o) ∧ t.track.last = p.val ∧
          (oSignals o = true → t.sem (oSigSem o) = s.sem (oSigSem o) + oSigVal o)) ∧
      (opSkipped s p.val o = false → oOp o = 2 → (∀ b ∈ s.track.bound, b.2.leaving = false) →
        ∃ t x y, s.bound? (oStream o) = some x ∧ exec (.associate p) s = .next t ∧ t.bound? (oStream o) = some y ∧ y.predicted = false ∧
          y.preds = [] ∧ y.metaSeq = x.metaSeq + 1 ∧ y.par = x.par ∧ y.resumed = false ∧
          tget 0 y.cnt 0 = satAdd 32 (tget 0 x.cnt 0) 1 ∧ t.track.last = p.val))

/-- O55. With a capture record waiting the newest one becomes the frame, its semaphores are cleared and its shaper operation is written at the tail of an enabled ring, or outside one that is not enabled (log 43); an event whose ring has no room waits; a shaped frame predicts and rings its queue, a stale one is counted and given up; the chain signal hands over the ASSOCIATE, whose signal ends the frame; a chain that times out, or whose queue has faulted, goes on with an ASSOCIATE without detections; every event out of its step changes nothing (R329, R330, R331, R332.) -/
def Obligations.PipelineSteps : Prop :=
  ∀ (s : State) (k : Fin 16), s.up = true → s.stopped = false →
    (tfind s.pipes k.val = none →
      ∀ i ∈ [Instr.pipeFrameStart k, .pipeShaped k, .pipeChainDone k, .pipeFrameEnd k, .pipeTimeout k, .pipeFault k], exec i s = .next s) ∧
    (∀ x, tfind s.pipes k.val = some x → let at' := (s.trackRing (plPart x.par)).place
      (∀ st, s.stream? (plHandle x.par) = some st → st.kind = .capture (plSensor x.par) → x.step = 1 → st.anaPi ≠ x.anaAt →
        (s.shapeRing (plPart x.par)).takes = true →
        ∃ t y, exec (.pipeFrameStart k) s = .next t ∧ tfind t.pipes k.val = some y ∧ y.step = 3 ∧ y.par = x.par ∧ y.anaAt = st.anaPi ∧
          y.frame = anaRecord s st (st.anaPi - 1) ∧ y.shape = some (plShapeOp x.par (recBuf y.frame)) ∧ y.stale = false ∧ y.tail = x.tail ∧
          y.shapeAt = (s.shapeRing (plPart x.par)).place ∧ (t.shapeRing (plPart x.par)).tail =
            (if (s.shapeRing (plPart x.par)).en then (s.shapeRing (plPart x.par)).tail + 1 else (s.shapeRing (plPart x.par)).tail) ∧
          (∀ i, i < 4 → t.sem (plSem x.par + i) = 0)) ∧
      (x.step ≠ 1 ∨ (s.shapeRing (plPart x.par)).takes = false → exec (.pipeFrameStart k) s = .next s) ∧
      (x.step = 3 → shapeGone s k.val x = true → semOk s (plSem x.par) 1 = true →
        (x.stale = true → exec (.pipeShaped k) s = .next (plCount k.val 32 1 (s.modPipe k.val fun x => { x with step := 1 }))) ∧
        (x.stale = false → opFits s x = true → ∃ t y, exec (.pipeShaped k) s = .next t ∧ tfind t.pipes k.val = some y ∧ y.step = 5 ∧
          y.ops = x.ops ++ [(at', plPredict x.par x.frame)] ∧ y.tail = x.tail + BitVec.ofNat 32 (plChain x.par) ∧ y.frame = x.frame) ∧
        (x.stale = false → opFits s x = false → exec (.pipeShaped k) s = .next s)) ∧
      (x.step ≠ 3 ∨ shapeGone s k.val x = false ∨ semOk s (plSem x.par) 1 = false → exec (.pipeShaped k) s = .next s) ∧
      (x.step = 5 → semOk s (plSem x.par + 2) 1 = true → opFits s x = true →
        ∃ t, exec (.pipeChainDone k) s = .next t ∧
          tfind t.pipes k.val = some { x with step := 6, ops := x.ops ++ [(at', plAssociate x.par false)] } ∧ (t.trackRing (plPart x.par)).tail =
            (if (s.trackRing (plPart x.par)).en then (s.trackRing (plPart x.par)).tail + 1 else (s.trackRing (plPart x.par)).tail)) ∧
      (x.step ≠ 5 ∨ semOk s (plSem x.par + 2) 1 = false ∨ opFits s x = false → exec (.pipeChainDone k) s = .next s) ∧
      (x.step = 6 → x.ops = [] → semOk s (plSem x.par + 3) 1 = true →
        exec (.pipeFrameEnd k) s = .next (s.modPipe k.val fun y => { y with step := 1 })) ∧
      (x.step ≠ 6 ∨ x.ops ≠ [] ∨ semOk s (plSem x.par + 3) 1 = false → exec (.pipeFrameEnd k) s = .next s) ∧
      (x.step = 5 → plTimeout x.par ≠ 0 → semOk s (plSem x.par + 2) 1 = false → opFits s x = true →
        ∃ t y, exec (.pipeTimeout k) s = .next t ∧ tfind t.pipes k.val = some y ∧ y.step = 6 ∧ y.tail = 0 ∧ y.frame = x.frame ∧
          y.ops = x.ops ++ [(at', plAssociate x.par true)]) ∧
      (x.step ≠ 5 ∨ plTimeout x.par = 0 ∨ semOk s (plSem x.par + 2) 1 = true ∨ opFits s x = false → exec (.pipeTimeout k) s = .next s) ∧
      ((x.step = 5 ∧ opFits s x = true) ∨ x.step = 6 → (s.queue (plQueue x.par)).state = .faulted →
        ∃ t y, exec (.pipeFault k) s = .next t ∧ tfind t.pipes k.val = some y ∧ y.step = 6 ∧ y.tail = 0 ∧ y.frame = x.frame ∧
          y.ops = if x.step = 5 then x.ops ++ [(at', plAssociate x.par true)] else x.ops) ∧
      ((x.step ≠ 6 ∧ (x.step ≠ 5 ∨ opFits s x = false)) ∨ (s.queue (plQueue x.par)).state ≠ .faulted → exec (.pipeFault k) s = .next s))

/-- O56. Without block lock no flit is taken; an acknowledgement frees the acknowledged flits of the replay buffer, a NAK with flits outstanding, or a replay timeout 2 microseconds after ACK has last moved, sends them all again in order with the ACK of now and counts one replay, but under Snuff, a bad flit is answered with NAK; HELLO goes out while forming or paired and forms the pair only for the expected partner in the opposite role; heartbeats carry the next number and clear the echoed ones; 5 microseconds after the oldest heartbeat without an echo the pair is lost, its flits are dropped, and the device is no longer paired (when HELLO goes out is log 44, and the 2 microseconds that begin again with a replay are log 45) (R449, R450, R451, R452, R453, R454, R457, R459.) -/
def Obligations.TwinLinkAndPairing : Prop :=
  ∀ (s : State), s.up = true →
    (∀ up : Bool, exec (.twinBlockLock up) s = .next (({ s with twin := { s.twin with lock := up } } : State).setBit Reg.relTwin 4 up)) ∧
    (s.twin.lock = false → ∀ (ack : BitVec 16),
      (∀ pid role uid echo, exec (.twinHello ack pid role uid echo) s = .next s) ∧ (∀ hb echo tick, exec (.heartbeat ack hb echo tick) s = .next s) ∧
      exec (.nak ack) s = .next s ∧ exec (.idleFlit ack) s = .next s ∧ exec .badFlit s = .next s) ∧
    let again := fun (u t : State) =>
      t.twin.replay = u.twin.replay.map (fun f => { f with ack := u.twin.rxSeq, sends := f.sends + 1 }) ∧
      t = ({ u with twin := { u.twin with replay := t.twin.replay, lane := (t.twin.replay.getLast?.map Flit.image).getD [], ackAt := s.clock.timeF } } :
        State).addSat (Reg.relCnt 6) 31 0 1
    let plain := fun (f : Flit) (u : State) => ({ u with twin := { u.twin with lastSent := some f, lane := f.image } } : State)
    (s.twin.lock = true → ∀ (ack : BitVec 16), let u := takeAck ack s
      exec (.idleFlit ack) s = .next u ∧
      (s.twin.replay = [] → u = s) ∧
      (∀ f fs, s.twin.replay = f :: fs → s.twin.waiting = [] →
        let n := (ack - f.seq).toNat
        u = (if n = 0 ∨ fs.length + 1 < n then s else { s with twin := { s.twin with replay := (f :: fs).drop n, ackAt := s.clock.timeF } })) ∧
      exec .badFlit s = .next (plain { typ := 1, ack := s.twin.rxSeq, payload := [] } s) ∧
      (s.stopped = true ∨ u.twin.replay = [] → exec (.nak ack) s = .next u) ∧
      (s.stopped = false → u.twin.replay ≠ [] → ∃ t, exec (.nak ack) s = .next t ∧ again u t) ∧
      (s.paired = true → ∀ hb echo tick, exec (.heartbeat ack hb echo tick) s =
        .next { u with twin := { u.twin with hbSeen := hb, echo := some echo, sentAt := u.twin.sentAt.filter fun x => !ahead32 echo x.1 } }) ∧
      (s.paired = false → ∀ hb echo tick, exec (.heartbeat ack hb echo tick) s = .next u) ∧
      (∀ (pid : W32) (role : Byte) (uid echo : W64),
        let mine := s.fld Reg.relTwin 3 2
        let expected := s.twin.on = true ∧ s.fld Reg.relTwin 1 0 = 1 ∧ pid = s.twin.pairId ∧ opposite mine role.toNat = true ∧ echo = s.reg Reg.glbUid
        (¬ expected → exec (.twinHello ack pid role uid echo) s = .next { u with twin := { u.twin with peer := uid } }) ∧
        (expected → ¬ (mine = 2 ∧ s.twin.mirrorSize < 26 * 2 ^ 20) →
          ∃ t, exec (.twinHello ack pid role uid echo) s = .next t ∧ t.twin.peer = uid ∧ t.paired = true ∧ t.bit Reg.glbStatus 4 = true) ∧
        (expected → mine = 2 → s.twin.mirrorSize < 26 * 2 ^ 20 →
          exec (.twinHello ack pid role uid echo) s = .next { u with twin := { u.twin with peer := uid } }))) ∧
    (s.stopped = false → s.twin.replay ≠ [] → 2000 ≤ (s.clock.timeF - s.twin.ackAt).toNat → ∃ t, exec .replayTimeout s = .next t ∧ again s t) ∧
    (s.stopped = true ∨ s.twin.replay = [] ∨ (s.clock.timeF - s.twin.ackAt).toNat < 2000 → exec .replayTimeout s = .next s) ∧
    (s.fld Reg.relTwin 1 0 = 1 ∨ s.fld Reg.relTwin 1 0 = 2 → s.twin.on = true →
      let p := leBytes 4 s.twin.pairId.toNat ++ leBytes 1 (s.fld Reg.relTwin 3 2) ++ leBytes 3 0 ++ leBytes 8 (s.reg Reg.glbUid).toNat ++
        leBytes 8 s.twin.peer.toNat
      exec .twinHelloSend s = .next (plain { typ := 2, ack := s.twin.rxSeq, payload := p } s)) ∧
    ((s.fld Reg.relTwin 1 0 ≠ 1 ∧ s.fld Reg.relTwin 1 0 ≠ 2) ∨ s.twin.on = false → exec .twinHelloSend s = .next s) ∧
    (s.paired = true → let p := leBytes 4 (s.twin.hb + 1).toNat ++ leBytes 4 s.twin.hbSeen.toNat ++ leBytes 8 s.clock.timeF.toNat
      ∃ t, exec .heartbeatSend s = .next t ∧ t.twin.hb = s.twin.hb + 1 ∧ t.twin.sentAt = s.twin.sentAt ++ [(s.twin.hb + 1, s.clock.timeF)] ∧
        t.twin.lastSent = some { typ := 3, ack := s.twin.rxSeq, payload := p } ∧ t.twin.replay = s.twin.replay ∧ t = { s with twin := t.twin }) ∧
    (s.paired = false → exec .heartbeatSend s = .next s) ∧
    (∀ ends, (s.twin.sentAt = [] ∨ s.paired = false → exec (.partnerLost ends) s = .next s) ∧
      (∀ n t0 rest, s.twin.sentAt = (n, t0) :: rest →
        ((s.clock.timeF - t0).toNat < 5000 → exec (.partnerLost ends) s = .next s) ∧
        (s.paired = true → 5000 ≤ (s.clock.timeF - t0).toNat →
          (s.primary = true → ∃ t, exec (.partnerLost ends) s = .next t ∧ t.paired = false ∧ t.twin.replay = [] ∧ t.twin.waiting = [] ∧
            t.twin.sentAt = [] ∧ t.fld Reg.relTwin 1 0 = 3 ∧ t.bit Reg.glbStatus 4 = false) ∧
          (s.primary = false → ∃ t, exec (.partnerLost ends) s = .next t ∧ t.paired = false ∧ t.twin.mirrors = [] ∧
            t.fld Reg.relTwin 1 0 = 3))))

/-- O57. Nothing is taken without block lock, unpaired or under Snuff; a flit out of sequence is answered with NAK; one in sequence advances the expected number, has its bytes counted, and opens a mirror in two parts, stores bitstream bytes, records random-access starts, puts a context image into the ring of the delta log, records commits, closes the mirror; on the primary, with no tracker command and no function-level reset waiting for an op, an ACKF releases the held frames up to its META_SEQ, or ends the mirroring of a stream that the partner has no space for; on another device it does nothing more (the state of a stream stands in its 128 bytes of the mirror area, with free contents: log 44; no byte beside those of the stream state, and of the image, changes at OPEN, POS and TRACK) (R450, R451, R454, R455, R456, R460, R324, R468.) -/
def Obligations.TwinMirroring : Prop :=
  ∀ (s : State) (seq ack h : BitVec 16), s.up = true →
    let n := h.toNat % 1024
    (∀ (cont rap : Bool) (data : List Byte) (a b c d : W32) (arr : W64) (st : BitVec 16),
      ∀ i ∈ [Instr.twinOpen seq ack cont h data, .bits seq ack h a data, .pos seq ack h rap a b, .trackFlit seq ack h a data,
          .commit seq ack h a b c d arr, .twinClose seq ack h, .ackf seq ack h st a],
        (s.twin.lock = false ∨ s.paired = false ∨ s.stopped = true → exec i s = .next s) ∧
        (s.twin.lock = true → s.paired = true → s.stopped = false → seq ≠ s.twin.rxSeq →
          let f : Flit := { typ := 1, ack := s.twin.rxSeq, payload := [] }
          exec i s = .next { takeAck ack s with twin := { (takeAck ack s).twin with lastSent := some f, lane := f.image } })) ∧
    (s.twin.lock = true → s.paired = true → s.stopped = false → seq = s.twin.rxSeq →
      let u := takeAck ack s
      let v := fun (len : Nat) => bump ({ u with twin := { u.twin with rxSeq := s.twin.rxSeq + 1 } } : State) 90 len
      let noted := fun (t : State) (xs : List Nat) => ∀ a, a ∉ xs → a < mirrorState s n ∨ mirrorState s n + 128 ≤ a → mget t.mem a = mget s.mem a
      (s.secondary = true →
        (∀ data, let v := v (4 + data.length)
          exec (.twinOpen seq ack true h data) s =
            .next { v with twin := { v.twin with mirrors := tput s.twin.mirrors n { par := data, base := 0, size := 0 } } }) ∧
        (∀ data m, tfind s.twin.mirrors n = some m → let par := padTo 128 (m.par ++ data)
          (∀ a, mirrorFit s (pBsSize par) = some a → ∃ t, exec (.twinOpen seq ack false h data) s = .next t ∧ noted t [] ∧
            t.twin = { (v 0).twin with mirrors := tput s.twin.mirrors n { par := par, base := a, size := pBsSize par } }) ∧
          (mirrorFit s (pBsSize par) = none →
            ∃ t, exec (.twinOpen seq ack false h data) s = .next t ∧ tfind t.twin.mirrors n = none ∧ t.mem = s.mem)) ∧
        (∀ index data m, tfind s.twin.mirrors n = some m → m.size ≠ 0 →
          ∃ t m', exec (.bits seq ack h index data) s = .next t ∧ tfind t.twin.mirrors n = some m' ∧
            m'.fin = index + BitVec.ofNat 32 data.length ∧ m'.raps = m.raps ∧ m'.delta = m.delta ∧ m'.last = m.last ∧
            m'.waits = m.waits.filter (fun w => !ahead32 m'.fin w.2)) ∧
        (∀ rap num start m, tfind s.twin.mirrors n = some m →
          let m' : Mirror := { m with raps := if rap then m.raps ++ [(num, start)] else m.raps }
          ∃ t, exec (.pos seq ack h rap num start) s = .next t ∧ noted t [] ∧
            t.twin = { (v 0).twin with mirrors := tput s.twin.mirrors n m' }) ∧
        (∀ ctx image m, tfind s.twin.mirrors n = some m →
          let m' : Mirror := { m with delta := m.delta ++ [(ctx.toNat, s.twin.deltaAt)] }
          let at' := deltaPlace s s.twin.deltaAt
          ∃ t, exec (.trackFlit seq ack h ctx image) s = .next t ∧
            t.twin = { (v 0).twin with mirrors := tput s.twin.mirrors n m', deltaAt := (s.twin.deltaAt + 1) % deltaCount } ∧
            (∀ a, a < at' ∨ at' + 64 ≤ a → mget t.mem a = mget s.mem a) ∧
            (s.inGddrStaging at' 64 = true → WritesLand s → ∀ i, i < 64 → mget t.mem (at' + i) = (padTo 64 image).getD i 0)) ∧
        (∀ fs ms ni fin arr m, tfind s.twin.mirrors n = some m →
          ∃ t m', exec (.commit seq ack h fs ms ni fin arr) s = .next t ∧ tfind t.twin.mirrors n = some m' ∧ m'.delta = [] ∧
            m'.last = some (fs, ms, ni, fin, arr) ∧ m'.raps = m.raps.filter (fun r => !ahead32 fs r.1) ∧ m'.fin = m.fin ∧ m'.par = m.par ∧
            m'.waits = (m.waits ++ [(ms, fin)]).filter (fun w => !ahead32 m.fin w.2)) ∧
        (∃ t, exec (.twinClose seq ack h) s = .next t ∧ tfind t.twin.mirrors n = none ∧ t.twin.rxSeq = s.twin.rxSeq + 1 ∧ t.mem = s.mem)) ∧
      (s.primary = false → ∀ st a, exec (.ackf seq ack h st a) s = .next (v 8)) ∧
      (s.primary = true → s.track.cmd = none → (∀ b ∈ s.track.bound, b.2.leaving = false) →
        (∀ st a x, st ≠ 1 → s.bound? n = some x →
          ∃ t y, exec (.ackf seq ack h st a) s = .next t ∧ t.bound? n = some y ∧ y.held = x.held.filter (fun r => !ahead32 a r.metaSeq)) ∧
        (∀ a y, s.stream? n = some y →
          ∃ t z, exec (.ackf seq ack h 1 a) s = .next t ∧ t.stream? n = some z ∧ z.dec.mirrored = false ∧
            (∀ x, s.bound? n = some x → ∃ w, t.bound? n = some w ∧ w.held = []))))

/-- O58. The physical function resets exactly the counters of the selected groups to 0 with their epoch advanced and arms a match again at 0, and every other function is denied; arming takes the counter value and a match that has moved by DELTA triggers Snuff with cause 3 and clears EN; the trace configuration is dropped while EN is 1 unless it clears EN, which empties every holding, and setting EN resets WR; a sample of a traced core joins the line of its Hearth, or is dropped when the holding or the ring is full; a flush writes the oldest line at WR (no function-level reset lasting at a write; a match fires at once with DELTA 0: log 50) (R462, R463, R464, R465, R466, R470, R53.) -/
def Obligations.CountersAndTrace : Prop :=
  ∀ (s : State), s.up = true →
    (∀ fn : Fn, tfind s.hif.held fn.num = none → s.hif.flr = [] →
      (fn ≠ .pf →
        (∀ g, exec (.cntReset fn g) s = .next (denied (bump s 88 4) fn Reg.dbgCntcmd)) ∧
        (∀ v, exec (.dbgMatchArm fn v) s = .next (denied (bump s 88 8) fn Reg.dbgMatch)) ∧
        (∀ v, exec (.traceCfgWrite fn v) s = .next (denied (bump s 88 8) fn Reg.dbgTraceCfg))) ∧
      (fn = .pf →
        (∀ g : Byte, let u := bump s 88 4
          ∃ t, exec (.cntReset fn g) s = .next t ∧
            (∀ i, i < 96 → g.toNat.testBit (cntGroup i) = true →
              t.fld (Reg.dbgBcnt i) 47 0 = 0 ∧ t.fld (Reg.dbgBcnt i) 55 48 = (u.fld (Reg.dbgBcnt i) 55 48 + 1) % 256) ∧
            (∀ i, i < 96 → g.toNat.testBit (cntGroup i) = false → t.reg (Reg.dbgBcnt i) = u.reg (Reg.dbgBcnt i)) ∧
            OnlyRegs ((List.range 96).map Reg.dbgBcnt) s t ∧
            t.dbg.matchBase = (if g.toNat.testBit (cntGroup (s.fld Reg.dbgMatch 7 1)) then 0 else s.dbg.matchBase) ∧
            t = { s with regs := t.regs, dbg := { s.dbg with matchBase := t.dbg.matchBase } }) ∧
        (∀ v : W64, let u := bump s 88 8
          (96 ≤ nbits v.toNat 7 1 → exec (.dbgMatchArm fn v) s = .next (dropCmd u fn Reg.dbgMatch)) ∧
          (nbits v.toNat 7 1 < 96 →
            ∃ t, exec (.dbgMatchArm fn v) s = .next t ∧ t.reg Reg.dbgMatch = v &&& 0xFFFFFFFFFFFF00FF ∧
              (nbit v.toNat 0 = true → t.dbg.matchBase = u.fld (Reg.dbgBcnt (nbits v.toNat 7 1)) 47 0) ∧
              OnlyRegs [Reg.dbgMatch, Reg.dbgBcnt 88] s t ∧ t = { s with regs := t.regs, dbg := { s.dbg with matchBase := t.dbg.matchBase } })) ∧
        (∀ v : W64, let u := bump s 88 8
          let on := nbit v.toNat 0
          let k := nbits v.toNat 6 2
          let w := u.setReg Reg.dbgTraceCfg (v &&& 0x1FFFFFFFFFFFF07F)
          (on = true → s.bit Reg.dbgTraceCfg 0 = true ∨ k < 8 ∨ 20 < k → exec (.traceCfgWrite fn v) s = .next (dropCmd u fn Reg.dbgTraceCfg)) ∧
          (on = true → s.bit Reg.dbgTraceCfg 0 = false → 8 ≤ k → k ≤ 20 →
            exec (.traceCfgWrite fn v) s = .next (w.setFld Reg.dbgTraceStat 47 0 0)) ∧
          (on = false → s.bit Reg.dbgTraceCfg 0 = false → exec (.traceCfgWrite fn v) s = .next w) ∧
          (on = false → s.bit Reg.dbgTraceCfg 0 = true → (∀ h, h < 4 → (s.traceHeld h).length ≤ 64) →
            ∃ t, exec (.traceCfgWrite fn v) s = .next t ∧ t.reg Reg.dbgTraceCfg = v &&& 0x1FFFFFFFFFFFF07F ∧ ∀ h, h < 4 → t.traceHeld h = [])))) ∧
    (∀ moved, moved = (s.fld (Reg.dbgBcnt (s.fld Reg.dbgMatch 7 1)) 47 0 + 2 ^ 48 - s.dbg.matchBase) % 2 ^ 48 →
      (s.bit Reg.dbgMatch 0 = false ∨ moved < s.fld Reg.dbgMatch 63 16 → exec .snuffMatch s = .next s) ∧
      (s.bit Reg.dbgMatch 0 = true → s.fld Reg.dbgMatch 63 16 ≤ moved → s.stopped = false → s.dbg.waiting = false → s.pwrState ≠ 1 → s.pwrState ≠ 2 →
        ∃ t, exec .snuffMatch s = .next t ∧ t.bit Reg.dbgMatch 0 = false ∧ t.fld Reg.dbgSnuff 9 8 = 1 ∧ t.fld Reg.dbgSnuff 18 16 = 3 ∧
          t.fld Reg.dbgSnuff 27 24 = 15 ∧ t.reg Reg.dbgSnuffTime = s.clock.timeF)) ∧
    (∀ (c : Fin 16) (w : UnitWait) (capped : Bool), let h := c.val / 4
      let traced := s.traceOn c.val = true ∧ s.stopped = false ∧ nbit (s.fld Reg.glbCaps2 31 16) c.val = true
      let full := s.bit Reg.dbgTraceCfg 1 = true ∧ s.traceSize ≤ s.fld Reg.dbgTraceStat 47 0
      (¬ traced → exec (.traceSample c w capped) s = .next s) ∧
      (traced → ¬ full → (s.traceHeld h).length < 64 → capped = true ∨ (s.traceHeld h).length < 15 →
        exec (.traceSample c w capped) s = .next (s.setTraceHeld h (s.traceHeld h ++ [traceBytes s c.val (traceState s c.val w)]))) ∧
      (traced → full ∨ 64 ≤ (s.traceHeld h).length → exec (.traceSample c w true) s = .next (traceDrop s 1))) ∧
    (∀ h : Fin 4, let l := (s.traceHeld h.val).take 16
      let wr := s.fld Reg.dbgTraceStat 47 0
      let a := s.fld Reg.dbgTraceCfg 39 12 * 4096 + wr % s.traceSize
      (s.bit Reg.dbgTraceCfg 0 = false ∨ l = [] → exec (.traceLineFlush h) s = .next s) ∧
      (s.bit Reg.dbgTraceCfg 0 = true → l ≠ [] → s.bit Reg.dbgTraceCfg 1 = true → s.traceSize ≤ wr →
        exec (.traceLineFlush h) s = .next (traceDrop (s.setTraceHeld h.val ((s.traceHeld h.val).drop 16)) l.length)) ∧
      (s.bit Reg.dbgTraceCfg 0 = true → l ≠ [] → s.bit Reg.dbgTraceCfg 1 = false ∨ wr < s.traceSize →
        ∃ t, exec (.traceLineFlush h) s = .next t ∧ t.traceHeld h.val = (s.traceHeld h.val).drop 16 ∧
          t.fld Reg.dbgTraceStat 47 0 = (wr + 256) % 2 ^ 48 ∧ (∀ b, b < a ∨ a + max 256 l.flatten.length ≤ b → mget t.mem b = mget s.mem b) ∧
          (s.inGddrStaging a 256 = true → s.fabric.chFailed = 0 → s.fabric.lost = [] →
            ∀ i, i < 256 → mget t.mem (a + i) = (padTo 256 l.flatten).getD i 0)))

/-- O59. GO and an armed low SNUFF_N trigger Snuff with their cause while it runs, and a trigger in force changes nothing but the CAUSE of one of the same F-clock that is lower; in DEEP_IDLE Snuff is in force at once, and in WAKING the trigger is recorded with its time and waits; the end of the drain sets SNUFFED and self-refresh; RESUME is acted on only while snuffed and not tripped; the end of the resume returns to RUNNING; while Snuff is in force every host write that starts an action, but for a doorbell that READY or DEEP_IDLE has dropped, is recorded in order instead of acting (no function-level reset lasting at a write; triggers with the same T-tick are those of one F-clock: log 32; what acts at once under Snuff, and the pin that must go high first, are log 50) (R466, R467, R468, R469, R472, R53.) -/
def Obligations.SnuffTriggersAndResume : Prop :=
  ∀ (s : State), s.up = true →
    (tfind s.hif.held Fn.pf.num = none → s.hif.flr = [] →
      (s.stopped = false → s.dbg.waiting = false → s.pwrState ≠ 1 → s.pwrState ≠ 2 →
        ∃ t, exec (.snuffGo .pf) s = .next t ∧ t.fld Reg.dbgSnuff 9 8 = 1 ∧ t.fld Reg.dbgSnuff 18 16 = 1 ∧ t.fld Reg.dbgSnuff 27 24 = 15 ∧
          t.reg Reg.dbgSnuffTime = s.clock.timeF ∧ t.dbg.recorded = s.dbg.recorded ∧ t.qm = s.qm ∧ t.media = s.media ∧ t.mem = s.mem) ∧
      (s.stopped = true → ∃ t, exec (.snuffGo .pf) s = .next t ∧ t.reg Reg.dbgSnuff = s.reg Reg.dbgSnuff ∧ t.mem = s.mem) ∧
      (s.fld Reg.dbgSnuff 9 8 = 2 → s.pwrState ≠ 3 → ∃ t, exec (.snuffResume .pf) s = .next t ∧ t.fld Reg.dbgSnuff 9 8 = 3 ∧
        t.dbg.recorded = s.dbg.recorded ∧ t.mem = s.mem) ∧
      (s.fld Reg.dbgSnuff 9 8 ≠ 2 ∨ s.pwrState = 3 →
        ∃ t, exec (.snuffResume .pf) s = .next t ∧ t.fld Reg.dbgSnuff 9 8 = s.fld Reg.dbgSnuff 9 8 ∧
          nbits (t.reg Reg.dbgViolLast).toNat 43 40 = 6 ∧ t.mem = s.mem)) ∧
    (∀ n : Fin 16, tfind s.hif.held (Fn.vf n).num = none → s.hif.flr = [] →
      exec (.snuffGo (.vf n)) s = .next (denied (bump s 88 8) (.vf n) Reg.dbgSnuff) ∧
      exec (.snuffResume (.vf n)) s = .next (denied (bump s 88 8) (.vf n) Reg.dbgSnuff)) ∧
    (s.bit Reg.dbgSnuff 2 = false ∨ s.pins.snuffArmed = false → exec .snuffPin s = .next s) ∧
    (s.bit Reg.dbgSnuff 2 = true → s.pins.snuffArmed = true → s.stopped = false → s.dbg.waiting = false →
      ∃ t, exec .snuffPin s = .next t ∧ t.fld Reg.dbgSnuff 9 8 = (if s.pwrState = 1 then 2 else if s.pwrState = 2 then 0 else 1) ∧
        t.fld Reg.dbgSnuff 18 16 = 2 ∧ t.pins.snuffArmed = false ∧ t.reg Reg.dbgSnuffTime = s.clock.timeF ∧
        t.dbg.waiting = decide (s.pwrState = 2)) ∧
    (s.bit Reg.dbgSnuff 2 = true → s.pins.snuffArmed = true → s.stopped = true ∨ s.dbg.waiting = true →
      let lower := s.reg Reg.dbgSnuffTime = s.clock.timeF ∧ 2 < s.fld Reg.dbgSnuff 18 16 ∧ s.fld Reg.dbgSnuff 9 8 ≠ 3
      (lower → ∃ t, exec .snuffPin s = .next t ∧ t.fld Reg.dbgSnuff 9 8 = s.fld Reg.dbgSnuff 9 8 ∧ t.fld Reg.dbgSnuff 18 16 = 2 ∧
        t.reg Reg.dbgSnuffTime = s.reg Reg.dbgSnuffTime ∧ t.mem = s.mem) ∧
      (¬ lower → exec .snuffPin s = .next { s with pins := { s.pins with snuffArmed := false } })) ∧
    (s.pins.snuffDrive = true → exec .snuffPinRearm s = .next s) ∧
    (s.pins.snuffDrive = false → exec .snuffPinRearm s = .next { s with pins := { s.pins with snuffArmed := true } }) ∧
    (s.fld Reg.dbgSnuff 9 8 ≠ 1 → exec .snuffStopped s = .next s) ∧
    (s.fld Reg.dbgSnuff 9 8 = 1 → ∃ t, exec .snuffStopped s = .next t ∧ t.fld Reg.dbgSnuff 9 8 = 2 ∧ t.fabric.selfRefresh = true ∧
      t.bit Reg.glbStatus 5 = true) ∧
    (s.fld Reg.dbgSnuff 9 8 ≠ 3 → exec .snuffResumed s = .next s) ∧
    (s.fld Reg.dbgSnuff 9 8 = 3 → s.pwrState = 3 → exec .snuffResumed s = .next (s.setFld Reg.dbgSnuff 9 8 2)) ∧
    (s.fld Reg.dbgSnuff 9 8 = 3 → s.pwrState ≠ 3 → s.dbg.recorded = [] →
      ∃ t, exec .snuffResumed s = .next t ∧ t.fld Reg.dbgSnuff 9 8 = 0 ∧ t.stopped = false ∧ t.dbg.image = [] ∧ t.pins.snuffDrive = false ∧
        t.bit Reg.glbStatus 5 = false ∧ t.bit Reg.dbgScan 2 = false ∧ (s.hearthsOff = false → t.fabric.selfRefresh = false) ∧ t.mem = s.mem) ∧
    (s.stopped = true → s.hif.flr = [] → ∀ (i : Instr) (fn : Fn), writerOf i = some fn → (∀ f a v, i ≠ .registerWrite f a v) →
      (∀ f off bs, i = .queueDoorbell f off bs → bs ≠ [] ∧ off + bs.length ≤ bar4Size ∧ off % 8 = 0 ∧ bs.length % 8 = 0) →
      isBell i = false ∨ s.noBells = false → exec i s = .next { s.beforeWrite i with dbg := { (s.beforeWrite i).dbg with recorded := (s.beforeWrite i).dbg.recorded ++ [i] } })

/-- O60. Only the physical function starts a scan: under SNUFFED the image is presented with VALID and its length, and every start extends M6; an instruction of the test access port is loaded while VDD_AON stands, IDCODE shifts out the stepping, part and manufacturer, EXTEST, CLAMP and HIGHZ take the balls only while POR_N is low, and every other instruction gives them back, SNUFF_SCAN shifts out the image under SNUFFED and nothing else, every other instruction is BYPASS, and Test-Logic-Reset loads IDCODE and gives the balls back (no function-level reset lasting at a write; an access is the load of an instruction, and the first after a reset extends M6: log 51; the free words of an image are the same up to the resume: log 29) (R473, R474, R486, R403.) -/
def Obligations.ScanOutAndTestPort : Prop :=
  ∀ (s : State),
    (s.up = true → s.hif.flr = [] → ∀ n : Fin 16, tfind s.hif.held (Fn.vf n).num = none →
      exec (.scanStart (.vf n)) s = .next (denied (bump s 88 8) (.vf n) Reg.dbgScan)) ∧
    (s.up = true → tfind s.hif.held Fn.pf.num = none → s.hif.flr = [] →
      (∀ m, m = ofB512 (sha (s.meas 6 ++ ofB512 (sha ([7, 2] ++ leBytes 1 (s.fld Reg.dbgSnuff 18 16) ++ List.replicate 5 0 ++
          leBytes 8 s.clock.timeF.toNat ++ List.replicate 48 0)))) → ∃ t, exec (.scanStart .pf) s = .next t ∧ t.meas 6 = m) ∧
      (s.fld Reg.dbgSnuff 9 8 = 2 → ∃ t, exec (.scanStart .pf) s = .next t ∧ t.bit Reg.dbgScan 2 = true ∧
        t.fld Reg.dbgScan 63 32 = t.dbg.image.length % 2 ^ 32 ∧ t.fld Reg.dbgScan 31 15 = s.fld Reg.dbgScan 31 15 ∧
        t.bit Reg.dbgScan 1 = s.bit Reg.dbgScan 1 ∧ leAt t.dbg.image 0 4 = 0x464E5346 ∧ leAt t.dbg.image 12 1 = s.fld Reg.dbgSnuff 18 16 ∧
        t.mem = s.mem) ∧
      (s.fld Reg.dbgSnuff 9 8 ≠ 2 → ∃ t, exec (.scanStart .pf) s = .next t ∧ t.dbg = s.dbg ∧ t.mem = s.mem)) ∧
    (s.pins.aonLow = true → ∀ (a b : List Bool) (ir : BitVec 8),
      ∀ i ∈ [Instr.extest a b, .samplePreload a b, .idcode, .clamp, .highz, .snuffScan, .bypass ir, .testLogicReset], exec i s = .next s) ∧
    (s.pins.aonLow = false →
      (exec .testLogicReset s = .next { s with pins := { s.pins with jtagIr := 0x02, balls := .device } }) ∧
      (∃ t, exec .idcode s = .next t ∧ t.pins.jtagIr = 0x02 ∧
        t.pins.jtagOut = leBytes 4 (s.fld Reg.glbId 23 20 * 2 ^ 28 + 0x0A09 * 2 ^ 12 + Config.jtagManufacturer.toNat * 2 + 1) ∧ t.pins.balls = .device ∧ t.mem = s.mem) ∧
      (∀ ir, ∃ t, exec (.bypass ir) s = .next t ∧ t.pins.jtagIr = ir ∧ t.pins.jtagOut = [] ∧ t.pins.balls = .device ∧ t.mem = s.mem) ∧
      (∀ a b, ∃ t, exec (.samplePreload a b) s = .next t ∧ t.pins.jtagIr = 0x01 ∧ t.pins.jtagBoundary = a ∧
        t.pins.jtagOut = packBits (cdiv b.length 8) b ∧ t.pins.balls = .device ∧ t.mem = s.mem) ∧
      (∃ t, exec .clamp s = .next t ∧ t.pins.jtagIr = 0x04 ∧ t.pins.balls = (if s.pins.porLow then .boundary else .device) ∧ t.mem = s.mem) ∧
      (∃ t, exec .highz s = .next t ∧ t.pins.jtagIr = 0x05 ∧ t.pins.balls = (if s.pins.porLow then .floating else .device) ∧ t.mem = s.mem) ∧
      (∀ a b, ∃ t, exec (.extest a b) s = .next t ∧ t.pins.jtagIr = 0x00 ∧ t.pins.balls = (if s.pins.porLow then .boundary else .device) ∧
        (s.pins.porLow = true → t.pins.jtagBoundary = a ∧ t.pins.jtagOut = packBits (cdiv b.length 8) b) ∧
        (s.pins.porLow = false → t.pins.jtagBoundary = s.pins.jtagBoundary ∧ t.pins.jtagOut = []) ∧ t.mem = s.mem) ∧
      (∃ t, exec .snuffScan s = .next t ∧ t.pins.jtagIr = 0x20 ∧ t.pins.balls = .device ∧ t.mem = s.mem ∧ t.dbg = s.dbg ∧ t.free = s.free ∧
        (s.inReset = true ∨ s.fld Reg.dbgSnuff 9 8 ≠ 2 → t.pins.jtagOut = []) ∧
        (s.inReset = false → s.fld Reg.dbgSnuff 9 8 = 2 → s.bit Reg.dbgScan 2 = true → t.pins.jtagOut = s.dbg.image) ∧
        (s.inReset = false → s.fld Reg.dbgSnuff 9 8 = 2 → s.bit Reg.dbgScan 2 = false → leAt t.pins.jtagOut 0 4 = 0x464E5346)) ∧
      (s.inReset = false → s.pins.jtagUsed = false → ∀ ir, ∃ t, exec (.bypass ir) s = .next t ∧ t.pins.jtagUsed = true ∧
        t.pins.jtagIr = ir ∧ t.meas 6 = ofB512 (sha (s.meas 6 ++ ofB512 (sha ([7, 0, 0] ++ List.replicate 5 0 ++
          leBytes 8 s.clock.timeF.toNat ++ List.replicate 48 0))))))
end

