-- ==== Sys2Proof/Laws/State.lean ====
section
/-!
SUPPORT. What the shared operations leave alone: for each of them, each field of the state that it does not touch. With these no proof
unfolds a record update.
-/
namespace Sys2Proof.Machine

/-! ### One field replaced -/

theorem with_regs_mem (s : State) (x : Tab W64) : ({ s with regs := x } : State).mem = s.mem := rfl
theorem with_regs_hostMem (s : State) (x : Tab W64) : ({ s with regs := x } : State).hostMem = s.hostMem := rfl
theorem with_regs_poison (s : State) (x : Tab W64) : ({ s with regs := x } : State).poison = s.poison := rfl
theorem with_regs_clock (s : State) (x : Tab W64) : ({ s with regs := x } : State).clock = s.clock := rfl
theorem with_regs_pins (s : State) (x : Tab W64) : ({ s with regs := x } : State).pins = s.pins := rfl
theorem with_regs_boot (s : State) (x : Tab W64) : ({ s with regs := x } : State).boot = s.boot := rfl
theorem with_regs_hif (s : State) (x : Tab W64) : ({ s with regs := x } : State).hif = s.hif := rfl
theorem with_regs_mail (s : State) (x : Tab W64) : ({ s with regs := x } : State).mail = s.mail := rfl
theorem with_regs_smbus (s : State) (x : Tab W64) : ({ s with regs := x } : State).smbus = s.smbus := rfl
theorem with_regs_fabric (s : State) (x : Tab W64) : ({ s with regs := x } : State).fabric = s.fabric := rfl
theorem with_regs_sweep (s : State) (x : Tab W64) : ({ s with regs := x } : State).sweep = s.sweep := rfl
theorem with_regs_ember (s : State) (x : Tab W64) : ({ s with regs := x } : State).ember = s.ember := rfl
theorem with_regs_qm (s : State) (x : Tab W64) : ({ s with regs := x } : State).qm = s.qm := rfl
theorem with_regs_mmu (s : State) (x : Tab W64) : ({ s with regs := x } : State).mmu = s.mmu := rfl
theorem with_regs_attn (s : State) (x : Tab W64) : ({ s with regs := x } : State).attn = s.attn := rfl
theorem with_regs_media (s : State) (x : Tab W64) : ({ s with regs := x } : State).media = s.media := rfl
theorem with_regs_capture (s : State) (x : Tab W64) : ({ s with regs := x } : State).capture = s.capture := rfl
theorem with_regs_shaper (s : State) (x : Tab W64) : ({ s with regs := x } : State).shaper = s.shaper := rfl
theorem with_regs_ingest (s : State) (x : Tab W64) : ({ s with regs := x } : State).ingest = s.ingest := rfl
theorem with_regs_track (s : State) (x : Tab W64) : ({ s with regs := x } : State).track = s.track := rfl
theorem with_regs_pipes (s : State) (x : Tab W64) : ({ s with regs := x } : State).pipes = s.pipes := rfl
theorem with_regs_twin (s : State) (x : Tab W64) : ({ s with regs := x } : State).twin = s.twin := rfl
theorem with_regs_pwr (s : State) (x : Tab W64) : ({ s with regs := x } : State).pwr = s.pwr := rfl
theorem with_regs_dbg (s : State) (x : Tab W64) : ({ s with regs := x } : State).dbg = s.dbg := rfl
theorem with_regs_free (s : State) (x : Tab W64) : ({ s with regs := x } : State).free = s.free := rfl
theorem with_regs_pending (s : State) (x : Tab W64) : ({ s with regs := x } : State).pending = s.pending := rfl
theorem with_hif_regs (s : State) (x : Hif) : ({ s with hif := x } : State).regs = s.regs := rfl
theorem with_hif_mem (s : State) (x : Hif) : ({ s with hif := x } : State).mem = s.mem := rfl
theorem with_hif_hostMem (s : State) (x : Hif) : ({ s with hif := x } : State).hostMem = s.hostMem := rfl
theorem with_hif_poison (s : State) (x : Hif) : ({ s with hif := x } : State).poison = s.poison := rfl
theorem with_hif_clock (s : State) (x : Hif) : ({ s with hif := x } : State).clock = s.clock := rfl
theorem with_hif_pins (s : State) (x : Hif) : ({ s with hif := x } : State).pins = s.pins := rfl
theorem with_hif_boot (s : State) (x : Hif) : ({ s with hif := x } : State).boot = s.boot := rfl
theorem with_hif_mail (s : State) (x : Hif) : ({ s with hif := x } : State).mail = s.mail := rfl
theorem with_hif_smbus (s : State) (x : Hif) : ({ s with hif := x } : State).smbus = s.smbus := rfl
theorem with_hif_fabric (s : State) (x : Hif) : ({ s with hif := x } : State).fabric = s.fabric := rfl
theorem with_hif_sweep (s : State) (x : Hif) : ({ s with hif := x } : State).sweep = s.sweep := rfl
theorem with_hif_ember (s : State) (x : Hif) : ({ s with hif := x } : State).ember = s.ember := rfl
theorem with_hif_qm (s : State) (x : Hif) : ({ s with hif := x } : State).qm = s.qm := rfl
theorem with_hif_mmu (s : State) (x : Hif) : ({ s with hif := x } : State).mmu = s.mmu := rfl
theorem with_hif_attn (s : State) (x : Hif) : ({ s with hif := x } : State).attn = s.attn := rfl
theorem with_hif_media (s : State) (x : Hif) : ({ s with hif := x } : State).media = s.media := rfl
theorem with_hif_capture (s : State) (x : Hif) : ({ s with hif := x } : State).capture = s.capture := rfl
theorem with_hif_shaper (s : State) (x : Hif) : ({ s with hif := x } : State).shaper = s.shaper := rfl
theorem with_hif_ingest (s : State) (x : Hif) : ({ s with hif := x } : State).ingest = s.ingest := rfl
theorem with_hif_track (s : State) (x : Hif) : ({ s with hif := x } : State).track = s.track := rfl
theorem with_hif_pipes (s : State) (x : Hif) : ({ s with hif := x } : State).pipes = s.pipes := rfl
theorem with_hif_twin (s : State) (x : Hif) : ({ s with hif := x } : State).twin = s.twin := rfl
theorem with_hif_pwr (s : State) (x : Hif) : ({ s with hif := x } : State).pwr = s.pwr := rfl
theorem with_hif_dbg (s : State) (x : Hif) : ({ s with hif := x } : State).dbg = s.dbg := rfl
theorem with_hif_free (s : State) (x : Hif) : ({ s with hif := x } : State).free = s.free := rfl
theorem with_hif_pending (s : State) (x : Hif) : ({ s with hif := x } : State).pending = s.pending := rfl
theorem with_ember_regs (s : State) (x : Ember) : ({ s with ember := x } : State).regs = s.regs := rfl
theorem with_ember_mem (s : State) (x : Ember) : ({ s with ember := x } : State).mem = s.mem := rfl
theorem with_ember_hostMem (s : State) (x : Ember) : ({ s with ember := x } : State).hostMem = s.hostMem := rfl
theorem with_ember_poison (s : State) (x : Ember) : ({ s with ember := x } : State).poison = s.poison := rfl
theorem with_ember_clock (s : State) (x : Ember) : ({ s with ember := x } : State).clock = s.clock := rfl
theorem with_ember_pins (s : State) (x : Ember) : ({ s with ember := x } : State).pins = s.pins := rfl
theorem with_ember_boot (s : State) (x : Ember) : ({ s with ember := x } : State).boot = s.boot := rfl
theorem with_ember_hif (s : State) (x : Ember) : ({ s with ember := x } : State).hif = s.hif := rfl
theorem with_ember_mail (s : State) (x : Ember) : ({ s with ember := x } : State).mail = s.mail := rfl
theorem with_ember_smbus (s : State) (x : Ember) : ({ s with ember := x } : State).smbus = s.smbus := rfl
theorem with_ember_fabric (s : State) (x : Ember) : ({ s with ember := x } : State).fabric = s.fabric := rfl
theorem with_ember_sweep (s : State) (x : Ember) : ({ s with ember := x } : State).sweep = s.sweep := rfl
theorem with_ember_qm (s : State) (x : Ember) : ({ s with ember := x } : State).qm = s.qm := rfl
theorem with_ember_mmu (s : State) (x : Ember) : ({ s with ember := x } : State).mmu = s.mmu := rfl
theorem with_ember_attn (s : State) (x : Ember) : ({ s with ember := x } : State).attn = s.attn := rfl
theorem with_ember_media (s : State) (x : Ember) : ({ s with ember := x } : State).media = s.media := rfl
theorem with_ember_capture (s : State) (x : Ember) : ({ s with ember := x } : State).capture = s.capture := rfl
theorem with_ember_shaper (s : State) (x : Ember) : ({ s with ember := x } : State).shaper = s.shaper := rfl
theorem with_ember_ingest (s : State) (x : Ember) : ({ s with ember := x } : State).ingest = s.ingest := rfl
theorem with_ember_track (s : State) (x : Ember) : ({ s with ember := x } : State).track = s.track := rfl
theorem with_ember_pipes (s : State) (x : Ember) : ({ s with ember := x } : State).pipes = s.pipes := rfl
theorem with_ember_twin (s : State) (x : Ember) : ({ s with ember := x } : State).twin = s.twin := rfl
theorem with_ember_pwr (s : State) (x : Ember) : ({ s with ember := x } : State).pwr = s.pwr := rfl
theorem with_ember_dbg (s : State) (x : Ember) : ({ s with ember := x } : State).dbg = s.dbg := rfl
theorem with_ember_free (s : State) (x : Ember) : ({ s with ember := x } : State).free = s.free := rfl
theorem with_ember_pending (s : State) (x : Ember) : ({ s with ember := x } : State).pending = s.pending := rfl
theorem with_hostMem_regs (s : State) (x : Memory) : ({ s with hostMem := x } : State).regs = s.regs := rfl
theorem with_hostMem_mem (s : State) (x : Memory) : ({ s with hostMem := x } : State).mem = s.mem := rfl
theorem with_hostMem_poison (s : State) (x : Memory) : ({ s with hostMem := x } : State).poison = s.poison := rfl
theorem with_hostMem_clock (s : State) (x : Memory) : ({ s with hostMem := x } : State).clock = s.clock := rfl
theorem with_hostMem_pins (s : State) (x : Memory) : ({ s with hostMem := x } : State).pins = s.pins := rfl
theorem with_hostMem_boot (s : State) (x : Memory) : ({ s with hostMem := x } : State).boot = s.boot := rfl
theorem with_hostMem_hif (s : State) (x : Memory) : ({ s with hostMem := x } : State).hif = s.hif := rfl
theorem with_hostMem_mail (s : State) (x : Memory) : ({ s with hostMem := x } : State).mail = s.mail := rfl
theorem with_hostMem_smbus (s : State) (x : Memory) : ({ s with hostMem := x } : State).smbus = s.smbus := rfl
theorem with_hostMem_fabric (s : State) (x : Memory) : ({ s with hostMem := x } : State).fabric = s.fabric := rfl
theorem with_hostMem_sweep (s : State) (x : Memory) : ({ s with hostMem := x } : State).sweep = s.sweep := rfl
theorem with_hostMem_ember (s : State) (x : Memory) : ({ s with hostMem := x } : State).ember = s.ember := rfl
theorem with_hostMem_qm (s : State) (x : Memory) : ({ s with hostMem := x } : State).qm = s.qm := rfl
theorem with_hostMem_mmu (s : State) (x : Memory) : ({ s with hostMem := x } : State).mmu = s.mmu := rfl
theorem with_hostMem_attn (s : State) (x : Memory) : ({ s with hostMem := x } : State).attn = s.attn := rfl
theorem with_hostMem_media (s : State) (x : Memory) : ({ s with hostMem := x } : State).media = s.media := rfl
theorem with_hostMem_capture (s : State) (x : Memory) : ({ s with hostMem := x } : State).capture = s.capture := rfl
theorem with_hostMem_shaper (s : State) (x : Memory) : ({ s with hostMem := x } : State).shaper = s.shaper := rfl
theorem with_hostMem_ingest (s : State) (x : Memory) : ({ s with hostMem := x } : State).ingest = s.ingest := rfl
theorem with_hostMem_track (s : State) (x : Memory) : ({ s with hostMem := x } : State).track = s.track := rfl
theorem with_hostMem_pipes (s : State) (x : Memory) : ({ s with hostMem := x } : State).pipes = s.pipes := rfl
theorem with_hostMem_twin (s : State) (x : Memory) : ({ s with hostMem := x } : State).twin = s.twin := rfl
theorem with_hostMem_pwr (s : State) (x : Memory) : ({ s with hostMem := x } : State).pwr = s.pwr := rfl
theorem with_hostMem_dbg (s : State) (x : Memory) : ({ s with hostMem := x } : State).dbg = s.dbg := rfl
theorem with_hostMem_free (s : State) (x : Memory) : ({ s with hostMem := x } : State).free = s.free := rfl
theorem with_hostMem_pending (s : State) (x : Memory) : ({ s with hostMem := x } : State).pending = s.pending := rfl
theorem with_mem_regs (s : State) (x : Memory) : ({ s with mem := x } : State).regs = s.regs := rfl
theorem with_mem_hostMem (s : State) (x : Memory) : ({ s with mem := x } : State).hostMem = s.hostMem := rfl
theorem with_mem_poison (s : State) (x : Memory) : ({ s with mem := x } : State).poison = s.poison := rfl
theorem with_mem_clock (s : State) (x : Memory) : ({ s with mem := x } : State).clock = s.clock := rfl
theorem with_mem_pins (s : State) (x : Memory) : ({ s with mem := x } : State).pins = s.pins := rfl
theorem with_mem_boot (s : State) (x : Memory) : ({ s with mem := x } : State).boot = s.boot := rfl
theorem with_mem_hif (s : State) (x : Memory) : ({ s with mem := x } : State).hif = s.hif := rfl
theorem with_mem_mail (s : State) (x : Memory) : ({ s with mem := x } : State).mail = s.mail := rfl
theorem with_mem_smbus (s : State) (x : Memory) : ({ s with mem := x } : State).smbus = s.smbus := rfl
theorem with_mem_fabric (s : State) (x : Memory) : ({ s with mem := x } : State).fabric = s.fabric := rfl
theorem with_mem_sweep (s : State) (x : Memory) : ({ s with mem := x } : State).sweep = s.sweep := rfl
theorem with_mem_ember (s : State) (x : Memory) : ({ s with mem := x } : State).ember = s.ember := rfl
theorem with_mem_qm (s : State) (x : Memory) : ({ s with mem := x } : State).qm = s.qm := rfl
theorem with_mem_mmu (s : State) (x : Memory) : ({ s with mem := x } : State).mmu = s.mmu := rfl
theorem with_mem_attn (s : State) (x : Memory) : ({ s with mem := x } : State).attn = s.attn := rfl
theorem with_mem_media (s : State) (x : Memory) : ({ s with mem := x } : State).media = s.media := rfl
theorem with_mem_capture (s : State) (x : Memory) : ({ s with mem := x } : State).capture = s.capture := rfl
theorem with_mem_shaper (s : State) (x : Memory) : ({ s with mem := x } : State).shaper = s.shaper := rfl
theorem with_mem_ingest (s : State) (x : Memory) : ({ s with mem := x } : State).ingest = s.ingest := rfl
theorem with_mem_track (s : State) (x : Memory) : ({ s with mem := x } : State).track = s.track := rfl
theorem with_mem_pipes (s : State) (x : Memory) : ({ s with mem := x } : State).pipes = s.pipes := rfl
theorem with_mem_twin (s : State) (x : Memory) : ({ s with mem := x } : State).twin = s.twin := rfl
theorem with_mem_pwr (s : State) (x : Memory) : ({ s with mem := x } : State).pwr = s.pwr := rfl
theorem with_mem_dbg (s : State) (x : Memory) : ({ s with mem := x } : State).dbg = s.dbg := rfl
theorem with_mem_free (s : State) (x : Memory) : ({ s with mem := x } : State).free = s.free := rfl
theorem with_mem_pending (s : State) (x : Memory) : ({ s with mem := x } : State).pending = s.pending := rfl
theorem with_boot_regs (s : State) (x : Boot) : ({ s with boot := x } : State).regs = s.regs := rfl
theorem with_boot_mem (s : State) (x : Boot) : ({ s with boot := x } : State).mem = s.mem := rfl
theorem with_boot_hostMem (s : State) (x : Boot) : ({ s with boot := x } : State).hostMem = s.hostMem := rfl
theorem with_boot_poison (s : State) (x : Boot) : ({ s with boot := x } : State).poison = s.poison := rfl
theorem with_boot_clock (s : State) (x : Boot) : ({ s with boot := x } : State).clock = s.clock := rfl
theorem with_boot_pins (s : State) (x : Boot) : ({ s with boot := x } : State).pins = s.pins := rfl
theorem with_boot_hif (s : State) (x : Boot) : ({ s with boot := x } : State).hif = s.hif := rfl
theorem with_boot_mail (s : State) (x : Boot) : ({ s with boot := x } : State).mail = s.mail := rfl
theorem with_boot_smbus (s : State) (x : Boot) : ({ s with boot := x } : State).smbus = s.smbus := rfl
theorem with_boot_fabric (s : State) (x : Boot) : ({ s with boot := x } : State).fabric = s.fabric := rfl
theorem with_boot_sweep (s : State) (x : Boot) : ({ s with boot := x } : State).sweep = s.sweep := rfl
theorem with_boot_ember (s : State) (x : Boot) : ({ s with boot := x } : State).ember = s.ember := rfl
theorem with_boot_qm (s : State) (x : Boot) : ({ s with boot := x } : State).qm = s.qm := rfl
theorem with_boot_mmu (s : State) (x : Boot) : ({ s with boot := x } : State).mmu = s.mmu := rfl
theorem with_boot_attn (s : State) (x : Boot) : ({ s with boot := x } : State).attn = s.attn := rfl
theorem with_boot_media (s : State) (x : Boot) : ({ s with boot := x } : State).media = s.media := rfl
theorem with_boot_capture (s : State) (x : Boot) : ({ s with boot := x } : State).capture = s.capture := rfl
theorem with_boot_shaper (s : State) (x : Boot) : ({ s with boot := x } : State).shaper = s.shaper := rfl
theorem with_boot_ingest (s : State) (x : Boot) : ({ s with boot := x } : State).ingest = s.ingest := rfl
theorem with_boot_track (s : State) (x : Boot) : ({ s with boot := x } : State).track = s.track := rfl
theorem with_boot_pipes (s : State) (x : Boot) : ({ s with boot := x } : State).pipes = s.pipes := rfl
theorem with_boot_twin (s : State) (x : Boot) : ({ s with boot := x } : State).twin = s.twin := rfl
theorem with_boot_pwr (s : State) (x : Boot) : ({ s with boot := x } : State).pwr = s.pwr := rfl
theorem with_boot_dbg (s : State) (x : Boot) : ({ s with boot := x } : State).dbg = s.dbg := rfl
theorem with_boot_free (s : State) (x : Boot) : ({ s with boot := x } : State).free = s.free := rfl
theorem with_boot_pending (s : State) (x : Boot) : ({ s with boot := x } : State).pending = s.pending := rfl
theorem with_pins_regs (s : State) (x : Pins) : ({ s with pins := x } : State).regs = s.regs := rfl
theorem with_pins_mem (s : State) (x : Pins) : ({ s with pins := x } : State).mem = s.mem := rfl
theorem with_pins_hostMem (s : State) (x : Pins) : ({ s with pins := x } : State).hostMem = s.hostMem := rfl
theorem with_pins_poison (s : State) (x : Pins) : ({ s with pins := x } : State).poison = s.poison := rfl
theorem with_pins_clock (s : State) (x : Pins) : ({ s with pins := x } : State).clock = s.clock := rfl
theorem with_pins_boot (s : State) (x : Pins) : ({ s with pins := x } : State).boot = s.boot := rfl
theorem with_pins_hif (s : State) (x : Pins) : ({ s with pins := x } : State).hif = s.hif := rfl
theorem with_pins_mail (s : State) (x : Pins) : ({ s with pins := x } : State).mail = s.mail := rfl
theorem with_pins_smbus (s : State) (x : Pins) : ({ s with pins := x } : State).smbus = s.smbus := rfl
theorem with_pins_fabric (s : State) (x : Pins) : ({ s with pins := x } : State).fabric = s.fabric := rfl
theorem with_pins_sweep (s : State) (x : Pins) : ({ s with pins := x } : State).sweep = s.sweep := rfl
theorem with_pins_ember (s : State) (x : Pins) : ({ s with pins := x } : State).ember = s.ember := rfl
theorem with_pins_qm (s : State) (x : Pins) : ({ s with pins := x } : State).qm = s.qm := rfl
theorem with_pins_mmu (s : State) (x : Pins) : ({ s with pins := x } : State).mmu = s.mmu := rfl
theorem with_pins_attn (s : State) (x : Pins) : ({ s with pins := x } : State).attn = s.attn := rfl
theorem with_pins_media (s : State) (x : Pins) : ({ s with pins := x } : State).media = s.media := rfl
theorem with_pins_capture (s : State) (x : Pins) : ({ s with pins := x } : State).capture = s.capture := rfl
theorem with_pins_shaper (s : State) (x : Pins) : ({ s with pins := x } : State).shaper = s.shaper := rfl
theorem with_pins_ingest (s : State) (x : Pins) : ({ s with pins := x } : State).ingest = s.ingest := rfl
theorem with_pins_track (s : State) (x : Pins) : ({ s with pins := x } : State).track = s.track := rfl
theorem with_pins_pipes (s : State) (x : Pins) : ({ s with pins := x } : State).pipes = s.pipes := rfl
theorem with_pins_twin (s : State) (x : Pins) : ({ s with pins := x } : State).twin = s.twin := rfl
theorem with_pins_pwr (s : State) (x : Pins) : ({ s with pins := x } : State).pwr = s.pwr := rfl
theorem with_pins_dbg (s : State) (x : Pins) : ({ s with pins := x } : State).dbg = s.dbg := rfl
theorem with_pins_free (s : State) (x : Pins) : ({ s with pins := x } : State).free = s.free := rfl
theorem with_pins_pending (s : State) (x : Pins) : ({ s with pins := x } : State).pending = s.pending := rfl
theorem with_clock_regs (s : State) (x : Clock) : ({ s with clock := x } : State).regs = s.regs := rfl
theorem with_clock_mem (s : State) (x : Clock) : ({ s with clock := x } : State).mem = s.mem := rfl
theorem with_clock_hostMem (s : State) (x : Clock) : ({ s with clock := x } : State).hostMem = s.hostMem := rfl
theorem with_clock_poison (s : State) (x : Clock) : ({ s with clock := x } : State).poison = s.poison := rfl
theorem with_clock_pins (s : State) (x : Clock) : ({ s with clock := x } : State).pins = s.pins := rfl
theorem with_clock_boot (s : State) (x : Clock) : ({ s with clock := x } : State).boot = s.boot := rfl
theorem with_clock_hif (s : State) (x : Clock) : ({ s with clock := x } : State).hif = s.hif := rfl
theorem with_clock_mail (s : State) (x : Clock) : ({ s with clock := x } : State).mail = s.mail := rfl
theorem with_clock_smbus (s : State) (x : Clock) : ({ s with clock := x } : State).smbus = s.smbus := rfl
theorem with_clock_fabric (s : State) (x : Clock) : ({ s with clock := x } : State).fabric = s.fabric := rfl
theorem with_clock_sweep (s : State) (x : Clock) : ({ s with clock := x } : State).sweep = s.sweep := rfl
theorem with_clock_ember (s : State) (x : Clock) : ({ s with clock := x } : State).ember = s.ember := rfl
theorem with_clock_qm (s : State) (x : Clock) : ({ s with clock := x } : State).qm = s.qm := rfl
theorem with_clock_mmu (s : State) (x : Clock) : ({ s with clock := x } : State).mmu = s.mmu := rfl
theorem with_clock_attn (s : State) (x : Clock) : ({ s with clock := x } : State).attn = s.attn := rfl
theorem with_clock_media (s : State) (x : Clock) : ({ s with clock := x } : State).media = s.media := rfl
theorem with_clock_capture (s : State) (x : Clock) : ({ s with clock := x } : State).capture = s.capture := rfl
theorem with_clock_shaper (s : State) (x : Clock) : ({ s with clock := x } : State).shaper = s.shaper := rfl
theorem with_clock_ingest (s : State) (x : Clock) : ({ s with clock := x } : State).ingest = s.ingest := rfl
theorem with_clock_track (s : State) (x : Clock) : ({ s with clock := x } : State).track = s.track := rfl
theorem with_clock_pipes (s : State) (x : Clock) : ({ s with clock := x } : State).pipes = s.pipes := rfl
theorem with_clock_twin (s : State) (x : Clock) : ({ s with clock := x } : State).twin = s.twin := rfl
theorem with_clock_pwr (s : State) (x : Clock) : ({ s with clock := x } : State).pwr = s.pwr := rfl
theorem with_clock_dbg (s : State) (x : Clock) : ({ s with clock := x } : State).dbg = s.dbg := rfl
theorem with_clock_free (s : State) (x : Clock) : ({ s with clock := x } : State).free = s.free := rfl
theorem with_clock_pending (s : State) (x : Clock) : ({ s with clock := x } : State).pending = s.pending := rfl
theorem with_pwr_regs (s : State) (x : Pwr) : ({ s with pwr := x } : State).regs = s.regs := rfl
theorem with_pwr_mem (s : State) (x : Pwr) : ({ s with pwr := x } : State).mem = s.mem := rfl
theorem with_pwr_hostMem (s : State) (x : Pwr) : ({ s with pwr := x } : State).hostMem = s.hostMem := rfl
theorem with_pwr_poison (s : State) (x : Pwr) : ({ s with pwr := x } : State).poison = s.poison := rfl
theorem with_pwr_clock (s : State) (x : Pwr) : ({ s with pwr := x } : State).clock = s.clock := rfl
theorem with_pwr_pins (s : State) (x : Pwr) : ({ s with pwr := x } : State).pins = s.pins := rfl
theorem with_pwr_boot (s : State) (x : Pwr) : ({ s with pwr := x } : State).boot = s.boot := rfl
theorem with_pwr_hif (s : State) (x : Pwr) : ({ s with pwr := x } : State).hif = s.hif := rfl
theorem with_pwr_mail (s : State) (x : Pwr) : ({ s with pwr := x } : State).mail = s.mail := rfl
theorem with_pwr_smbus (s : State) (x : Pwr) : ({ s with pwr := x } : State).smbus = s.smbus := rfl
theorem with_pwr_fabric (s : State) (x : Pwr) : ({ s with pwr := x } : State).fabric = s.fabric := rfl
theorem with_pwr_sweep (s : State) (x : Pwr) : ({ s with pwr := x } : State).sweep = s.sweep := rfl
theorem with_pwr_ember (s : State) (x : Pwr) : ({ s with pwr := x } : State).ember = s.ember := rfl
theorem with_pwr_qm (s : State) (x : Pwr) : ({ s with pwr := x } : State).qm = s.qm := rfl
theorem with_pwr_mmu (s : State) (x : Pwr) : ({ s with pwr := x } : State).mmu = s.mmu := rfl
theorem with_pwr_attn (s : State) (x : Pwr) : ({ s with pwr := x } : State).attn = s.attn := rfl
theorem with_pwr_media (s : State) (x : Pwr) : ({ s with pwr := x } : State).media = s.media := rfl
theorem with_pwr_capture (s : State) (x : Pwr) : ({ s with pwr := x } : State).capture = s.capture := rfl
theorem with_pwr_shaper (s : State) (x : Pwr) : ({ s with pwr := x } : State).shaper = s.shaper := rfl
theorem with_pwr_ingest (s : State) (x : Pwr) : ({ s with pwr := x } : State).ingest = s.ingest := rfl
theorem with_pwr_track (s : State) (x : Pwr) : ({ s with pwr := x } : State).track = s.track := rfl
theorem with_pwr_pipes (s : State) (x : Pwr) : ({ s with pwr := x } : State).pipes = s.pipes := rfl
theorem with_pwr_twin (s : State) (x : Pwr) : ({ s with pwr := x } : State).twin = s.twin := rfl
theorem with_pwr_dbg (s : State) (x : Pwr) : ({ s with pwr := x } : State).dbg = s.dbg := rfl
theorem with_pwr_free (s : State) (x : Pwr) : ({ s with pwr := x } : State).free = s.free := rfl
theorem with_pwr_pending (s : State) (x : Pwr) : ({ s with pwr := x } : State).pending = s.pending := rfl
theorem with_dbg_regs (s : State) (x : Dbg) : ({ s with dbg := x } : State).regs = s.regs := rfl
theorem with_dbg_mem (s : State) (x : Dbg) : ({ s with dbg := x } : State).mem = s.mem := rfl
theorem with_dbg_hostMem (s : State) (x : Dbg) : ({ s with dbg := x } : State).hostMem = s.hostMem := rfl
theorem with_dbg_poison (s : State) (x : Dbg) : ({ s with dbg := x } : State).poison = s.poison := rfl
theorem with_dbg_clock (s : State) (x : Dbg) : ({ s with dbg := x } : State).clock = s.clock := rfl
theorem with_dbg_pins (s : State) (x : Dbg) : ({ s with dbg := x } : State).pins = s.pins := rfl
theorem with_dbg_boot (s : State) (x : Dbg) : ({ s with dbg := x } : State).boot = s.boot := rfl
theorem with_dbg_hif (s : State) (x : Dbg) : ({ s with dbg := x } : State).hif = s.hif := rfl
theorem with_dbg_mail (s : State) (x : Dbg) : ({ s with dbg := x } : State).mail = s.mail := rfl
theorem with_dbg_smbus (s : State) (x : Dbg) : ({ s with dbg := x } : State).smbus = s.smbus := rfl
theorem with_dbg_fabric (s : State) (x : Dbg) : ({ s with dbg := x } : State).fabric = s.fabric := rfl
theorem with_dbg_sweep (s : State) (x : Dbg) : ({ s with dbg := x } : State).sweep = s.sweep := rfl
theorem with_dbg_ember (s : State) (x : Dbg) : ({ s with dbg := x } : State).ember = s.ember := rfl
theorem with_dbg_qm (s : State) (x : Dbg) : ({ s with dbg := x } : State).qm = s.qm := rfl
theorem with_dbg_mmu (s : State) (x : Dbg) : ({ s with dbg := x } : State).mmu = s.mmu := rfl
theorem with_dbg_attn (s : State) (x : Dbg) : ({ s with dbg := x } : State).attn = s.attn := rfl
theorem with_dbg_media (s : State) (x : Dbg) : ({ s with dbg := x } : State).media = s.media := rfl
theorem with_dbg_capture (s : State) (x : Dbg) : ({ s with dbg := x } : State).capture = s.capture := rfl
theorem with_dbg_shaper (s : State) (x : Dbg) : ({ s with dbg := x } : State).shaper = s.shaper := rfl
theorem with_dbg_ingest (s : State) (x : Dbg) : ({ s with dbg := x } : State).ingest = s.ingest := rfl
theorem with_dbg_track (s : State) (x : Dbg) : ({ s with dbg := x } : State).track = s.track := rfl
theorem with_dbg_pipes (s : State) (x : Dbg) : ({ s with dbg := x } : State).pipes = s.pipes := rfl
theorem with_dbg_twin (s : State) (x : Dbg) : ({ s with dbg := x } : State).twin = s.twin := rfl
theorem with_dbg_pwr (s : State) (x : Dbg) : ({ s with dbg := x } : State).pwr = s.pwr := rfl
theorem with_dbg_free (s : State) (x : Dbg) : ({ s with dbg := x } : State).free = s.free := rfl
theorem with_dbg_pending (s : State) (x : Dbg) : ({ s with dbg := x } : State).pending = s.pending := rfl
theorem with_fabric_regs (s : State) (x : Fabric) : ({ s with fabric := x } : State).regs = s.regs := rfl
theorem with_fabric_mem (s : State) (x : Fabric) : ({ s with fabric := x } : State).mem = s.mem := rfl
theorem with_fabric_hostMem (s : State) (x : Fabric) : ({ s with fabric := x } : State).hostMem = s.hostMem := rfl
theorem with_fabric_poison (s : State) (x : Fabric) : ({ s with fabric := x } : State).poison = s.poison := rfl
theorem with_fabric_clock (s : State) (x : Fabric) : ({ s with fabric := x } : State).clock = s.clock := rfl
theorem with_fabric_pins (s : State) (x : Fabric) : ({ s with fabric := x } : State).pins = s.pins := rfl
theorem with_fabric_boot (s : State) (x : Fabric) : ({ s with fabric := x } : State).boot = s.boot := rfl
theorem with_fabric_hif (s : State) (x : Fabric) : ({ s with fabric := x } : State).hif = s.hif := rfl
theorem with_fabric_mail (s : State) (x : Fabric) : ({ s with fabric := x } : State).mail = s.mail := rfl
theorem with_fabric_smbus (s : State) (x : Fabric) : ({ s with fabric := x } : State).smbus = s.smbus := rfl
theorem with_fabric_sweep (s : State) (x : Fabric) : ({ s with fabric := x } : State).sweep = s.sweep := rfl
theorem with_fabric_ember (s : State) (x : Fabric) : ({ s with fabric := x } : State).ember = s.ember := rfl
theorem with_fabric_qm (s : State) (x : Fabric) : ({ s with fabric := x } : State).qm = s.qm := rfl
theorem with_fabric_mmu (s : State) (x : Fabric) : ({ s with fabric := x } : State).mmu = s.mmu := rfl
theorem with_fabric_attn (s : State) (x : Fabric) : ({ s with fabric := x } : State).attn = s.attn := rfl
theorem with_fabric_media (s : State) (x : Fabric) : ({ s with fabric := x } : State).media = s.media := rfl
theorem with_fabric_capture (s : State) (x : Fabric) : ({ s with fabric := x } : State).capture = s.capture := rfl
theorem with_fabric_shaper (s : State) (x : Fabric) : ({ s with fabric := x } : State).shaper = s.shaper := rfl
theorem with_fabric_ingest (s : State) (x : Fabric) : ({ s with fabric := x } : State).ingest = s.ingest := rfl
theorem with_fabric_track (s : State) (x : Fabric) : ({ s with fabric := x } : State).track = s.track := rfl
theorem with_fabric_pipes (s : State) (x : Fabric) : ({ s with fabric := x } : State).pipes = s.pipes := rfl
theorem with_fabric_twin (s : State) (x : Fabric) : ({ s with fabric := x } : State).twin = s.twin := rfl
theorem with_fabric_pwr (s : State) (x : Fabric) : ({ s with fabric := x } : State).pwr = s.pwr := rfl
theorem with_fabric_dbg (s : State) (x : Fabric) : ({ s with fabric := x } : State).dbg = s.dbg := rfl
theorem with_fabric_free (s : State) (x : Fabric) : ({ s with fabric := x } : State).free = s.free := rfl
theorem with_fabric_pending (s : State) (x : Fabric) : ({ s with fabric := x } : State).pending = s.pending := rfl
theorem with_poison_regs (s : State) (x : Tab Bool) : ({ s with poison := x } : State).regs = s.regs := rfl
theorem with_poison_mem (s : State) (x : Tab Bool) : ({ s with poison := x } : State).mem = s.mem := rfl
theorem with_poison_hostMem (s : State) (x : Tab Bool) : ({ s with poison := x } : State).hostMem = s.hostMem := rfl
theorem with_poison_clock (s : State) (x : Tab Bool) : ({ s with poison := x } : State).clock = s.clock := rfl
theorem with_poison_pins (s : State) (x : Tab Bool) : ({ s with poison := x } : State).pins = s.pins := rfl
theorem with_poison_boot (s : State) (x : Tab Bool) : ({ s with poison := x } : State).boot = s.boot := rfl
theorem with_poison_hif (s : State) (x : Tab Bool) : ({ s with poison := x } : State).hif = s.hif := rfl
theorem with_poison_mail (s : State) (x : Tab Bool) : ({ s with poison := x } : State).mail = s.mail := rfl
theorem with_poison_smbus (s : State) (x : Tab Bool) : ({ s with poison := x } : State).smbus = s.smbus := rfl
theorem with_poison_fabric (s : State) (x : Tab Bool) : ({ s with poison := x } : State).fabric = s.fabric := rfl
theorem with_poison_sweep (s : State) (x : Tab Bool) : ({ s with poison := x } : State).sweep = s.sweep := rfl
theorem with_poison_ember (s : State) (x : Tab Bool) : ({ s with poison := x } : State).ember = s.ember := rfl
theorem with_poison_qm (s : State) (x : Tab Bool) : ({ s with poison := x } : State).qm = s.qm := rfl
theorem with_poison_mmu (s : State) (x : Tab Bool) : ({ s with poison := x } : State).mmu = s.mmu := rfl
theorem with_poison_attn (s : State) (x : Tab Bool) : ({ s with poison := x } : State).attn = s.attn := rfl
theorem with_poison_media (s : State) (x : Tab Bool) : ({ s with poison := x } : State).media = s.media := rfl
theorem with_poison_capture (s : State) (x : Tab Bool) : ({ s with poison := x } : State).capture = s.capture := rfl
theorem with_poison_shaper (s : State) (x : Tab Bool) : ({ s with poison := x } : State).shaper = s.shaper := rfl
theorem with_poison_ingest (s : State) (x : Tab Bool) : ({ s with poison := x } : State).ingest = s.ingest := rfl
theorem with_poison_track (s : State) (x : Tab Bool) : ({ s with poison := x } : State).track = s.track := rfl
theorem with_poison_pipes (s : State) (x : Tab Bool) : ({ s with poison := x } : State).pipes = s.pipes := rfl
theorem with_poison_twin (s : State) (x : Tab Bool) : ({ s with poison := x } : State).twin = s.twin := rfl
theorem with_poison_pwr (s : State) (x : Tab Bool) : ({ s with poison := x } : State).pwr = s.pwr := rfl
theorem with_poison_dbg (s : State) (x : Tab Bool) : ({ s with poison := x } : State).dbg = s.dbg := rfl
theorem with_poison_free (s : State) (x : Tab Bool) : ({ s with poison := x } : State).free = s.free := rfl
theorem with_poison_pending (s : State) (x : Tab Bool) : ({ s with poison := x } : State).pending = s.pending := rfl
theorem with_qm_regs (s : State) (x : Qm) : ({ s with qm := x } : State).regs = s.regs := rfl
theorem with_qm_mem (s : State) (x : Qm) : ({ s with qm := x } : State).mem = s.mem := rfl
theorem with_qm_hostMem (s : State) (x : Qm) : ({ s with qm := x } : State).hostMem = s.hostMem := rfl
theorem with_qm_poison (s : State) (x : Qm) : ({ s with qm := x } : State).poison = s.poison := rfl
theorem with_qm_clock (s : State) (x : Qm) : ({ s with qm := x } : State).clock = s.clock := rfl
theorem with_qm_pins (s : State) (x : Qm) : ({ s with qm := x } : State).pins = s.pins := rfl
theorem with_qm_boot (s : State) (x : Qm) : ({ s with qm := x } : State).boot = s.boot := rfl
theorem with_qm_hif (s : State) (x : Qm) : ({ s with qm := x } : State).hif = s.hif := rfl
theorem with_qm_mail (s : State) (x : Qm) : ({ s with qm := x } : State).mail = s.mail := rfl
theorem with_qm_smbus (s : State) (x : Qm) : ({ s with qm := x } : State).smbus = s.smbus := rfl
theorem with_qm_fabric (s : State) (x : Qm) : ({ s with qm := x } : State).fabric = s.fabric := rfl
theorem with_qm_sweep (s : State) (x : Qm) : ({ s with qm := x } : State).sweep = s.sweep := rfl
theorem with_qm_ember (s : State) (x : Qm) : ({ s with qm := x } : State).ember = s.ember := rfl
theorem with_qm_mmu (s : State) (x : Qm) : ({ s with qm := x } : State).mmu = s.mmu := rfl
theorem with_qm_attn (s : State) (x : Qm) : ({ s with qm := x } : State).attn = s.attn := rfl
theorem with_qm_media (s : State) (x : Qm) : ({ s with qm := x } : State).media = s.media := rfl
theorem with_qm_capture (s : State) (x : Qm) : ({ s with qm := x } : State).capture = s.capture := rfl
theorem with_qm_shaper (s : State) (x : Qm) : ({ s with qm := x } : State).shaper = s.shaper := rfl
theorem with_qm_ingest (s : State) (x : Qm) : ({ s with qm := x } : State).ingest = s.ingest := rfl
theorem with_qm_track (s : State) (x : Qm) : ({ s with qm := x } : State).track = s.track := rfl
theorem with_qm_pipes (s : State) (x : Qm) : ({ s with qm := x } : State).pipes = s.pipes := rfl
theorem with_qm_twin (s : State) (x : Qm) : ({ s with qm := x } : State).twin = s.twin := rfl
theorem with_qm_pwr (s : State) (x : Qm) : ({ s with qm := x } : State).pwr = s.pwr := rfl
theorem with_qm_dbg (s : State) (x : Qm) : ({ s with qm := x } : State).dbg = s.dbg := rfl
theorem with_qm_free (s : State) (x : Qm) : ({ s with qm := x } : State).free = s.free := rfl
theorem with_qm_pending (s : State) (x : Qm) : ({ s with qm := x } : State).pending = s.pending := rfl
theorem with_mmu_regs (s : State) (x : Mmu) : ({ s with mmu := x } : State).regs = s.regs := rfl
theorem with_mmu_mem (s : State) (x : Mmu) : ({ s with mmu := x } : State).mem = s.mem := rfl
theorem with_mmu_hostMem (s : State) (x : Mmu) : ({ s with mmu := x } : State).hostMem = s.hostMem := rfl
theorem with_mmu_poison (s : State) (x : Mmu) : ({ s with mmu := x } : State).poison = s.poison := rfl
theorem with_mmu_clock (s : State) (x : Mmu) : ({ s with mmu := x } : State).clock = s.clock := rfl
theorem with_mmu_pins (s : State) (x : Mmu) : ({ s with mmu := x } : State).pins = s.pins := rfl
theorem with_mmu_boot (s : State) (x : Mmu) : ({ s with mmu := x } : State).boot = s.boot := rfl
theorem with_mmu_hif (s : State) (x : Mmu) : ({ s with mmu := x } : State).hif = s.hif := rfl
theorem with_mmu_mail (s : State) (x : Mmu) : ({ s with mmu := x } : State).mail = s.mail := rfl
theorem with_mmu_smbus (s : State) (x : Mmu) : ({ s with mmu := x } : State).smbus = s.smbus := rfl
theorem with_mmu_fabric (s : State) (x : Mmu) : ({ s with mmu := x } : State).fabric = s.fabric := rfl
theorem with_mmu_sweep (s : State) (x : Mmu) : ({ s with mmu := x } : State).sweep = s.sweep := rfl
theorem with_mmu_ember (s : State) (x : Mmu) : ({ s with mmu := x } : State).ember = s.ember := rfl
theorem with_mmu_qm (s : State) (x : Mmu) : ({ s with mmu := x } : State).qm = s.qm := rfl
theorem with_mmu_attn (s : State) (x : Mmu) : ({ s with mmu := x } : State).attn = s.attn := rfl
theorem with_mmu_media (s : State) (x : Mmu) : ({ s with mmu := x } : State).media = s.media := rfl
theorem with_mmu_capture (s : State) (x : Mmu) : ({ s with mmu := x } : State).capture = s.capture := rfl
theorem with_mmu_shaper (s : State) (x : Mmu) : ({ s with mmu := x } : State).shaper = s.shaper := rfl
theorem with_mmu_ingest (s : State) (x : Mmu) : ({ s with mmu := x } : State).ingest = s.ingest := rfl
theorem with_mmu_track (s : State) (x : Mmu) : ({ s with mmu := x } : State).track = s.track := rfl
theorem with_mmu_pipes (s : State) (x : Mmu) : ({ s with mmu := x } : State).pipes = s.pipes := rfl
theorem with_mmu_twin (s : State) (x : Mmu) : ({ s with mmu := x } : State).twin = s.twin := rfl
theorem with_mmu_pwr (s : State) (x : Mmu) : ({ s with mmu := x } : State).pwr = s.pwr := rfl
theorem with_mmu_dbg (s : State) (x : Mmu) : ({ s with mmu := x } : State).dbg = s.dbg := rfl
theorem with_mmu_free (s : State) (x : Mmu) : ({ s with mmu := x } : State).free = s.free := rfl
theorem with_mmu_pending (s : State) (x : Mmu) : ({ s with mmu := x } : State).pending = s.pending := rfl
theorem with_media_regs (s : State) (x : Media) : ({ s with media := x } : State).regs = s.regs := rfl
theorem with_media_mem (s : State) (x : Media) : ({ s with media := x } : State).mem = s.mem := rfl
theorem with_media_hostMem (s : State) (x : Media) : ({ s with media := x } : State).hostMem = s.hostMem := rfl
theorem with_media_poison (s : State) (x : Media) : ({ s with media := x } : State).poison = s.poison := rfl
theorem with_media_clock (s : State) (x : Media) : ({ s with media := x } : State).clock = s.clock := rfl
theorem with_media_pins (s : State) (x : Media) : ({ s with media := x } : State).pins = s.pins := rfl
theorem with_media_boot (s : State) (x : Media) : ({ s with media := x } : State).boot = s.boot := rfl
theorem with_media_hif (s : State) (x : Media) : ({ s with media := x } : State).hif = s.hif := rfl
theorem with_media_mail (s : State) (x : Media) : ({ s with media := x } : State).mail = s.mail := rfl
theorem with_media_smbus (s : State) (x : Media) : ({ s with media := x } : State).smbus = s.smbus := rfl
theorem with_media_fabric (s : State) (x : Media) : ({ s with media := x } : State).fabric = s.fabric := rfl
theorem with_media_sweep (s : State) (x : Media) : ({ s with media := x } : State).sweep = s.sweep := rfl
theorem with_media_ember (s : State) (x : Media) : ({ s with media := x } : State).ember = s.ember := rfl
theorem with_media_qm (s : State) (x : Media) : ({ s with media := x } : State).qm = s.qm := rfl
theorem with_media_mmu (s : State) (x : Media) : ({ s with media := x } : State).mmu = s.mmu := rfl
theorem with_media_attn (s : State) (x : Media) : ({ s with media := x } : State).attn = s.attn := rfl
theorem with_media_capture (s : State) (x : Media) : ({ s with media := x } : State).capture = s.capture := rfl
theorem with_media_shaper (s : State) (x : Media) : ({ s with media := x } : State).shaper = s.shaper := rfl
theorem with_media_ingest (s : State) (x : Media) : ({ s with media := x } : State).ingest = s.ingest := rfl
theorem with_media_track (s : State) (x : Media) : ({ s with media := x } : State).track = s.track := rfl
theorem with_media_pipes (s : State) (x : Media) : ({ s with media := x } : State).pipes = s.pipes := rfl
theorem with_media_twin (s : State) (x : Media) : ({ s with media := x } : State).twin = s.twin := rfl
theorem with_media_pwr (s : State) (x : Media) : ({ s with media := x } : State).pwr = s.pwr := rfl
theorem with_media_dbg (s : State) (x : Media) : ({ s with media := x } : State).dbg = s.dbg := rfl
theorem with_media_free (s : State) (x : Media) : ({ s with media := x } : State).free = s.free := rfl
theorem with_media_pending (s : State) (x : Media) : ({ s with media := x } : State).pending = s.pending := rfl
theorem with_twin_regs (s : State) (x : Twin) : ({ s with twin := x } : State).regs = s.regs := rfl
theorem with_twin_mem (s : State) (x : Twin) : ({ s with twin := x } : State).mem = s.mem := rfl
theorem with_twin_hostMem (s : State) (x : Twin) : ({ s with twin := x } : State).hostMem = s.hostMem := rfl
theorem with_twin_poison (s : State) (x : Twin) : ({ s with twin := x } : State).poison = s.poison := rfl
theorem with_twin_clock (s : State) (x : Twin) : ({ s with twin := x } : State).clock = s.clock := rfl
theorem with_twin_pins (s : State) (x : Twin) : ({ s with twin := x } : State).pins = s.pins := rfl
theorem with_twin_boot (s : State) (x : Twin) : ({ s with twin := x } : State).boot = s.boot := rfl
theorem with_twin_hif (s : State) (x : Twin) : ({ s with twin := x } : State).hif = s.hif := rfl
theorem with_twin_mail (s : State) (x : Twin) : ({ s with twin := x } : State).mail = s.mail := rfl
theorem with_twin_smbus (s : State) (x : Twin) : ({ s with twin := x } : State).smbus = s.smbus := rfl
theorem with_twin_fabric (s : State) (x : Twin) : ({ s with twin := x } : State).fabric = s.fabric := rfl
theorem with_twin_sweep (s : State) (x : Twin) : ({ s with twin := x } : State).sweep = s.sweep := rfl
theorem with_twin_ember (s : State) (x : Twin) : ({ s with twin := x } : State).ember = s.ember := rfl
theorem with_twin_qm (s : State) (x : Twin) : ({ s with twin := x } : State).qm = s.qm := rfl
theorem with_twin_mmu (s : State) (x : Twin) : ({ s with twin := x } : State).mmu = s.mmu := rfl
theorem with_twin_attn (s : State) (x : Twin) : ({ s with twin := x } : State).attn = s.attn := rfl
theorem with_twin_media (s : State) (x : Twin) : ({ s with twin := x } : State).media = s.media := rfl
theorem with_twin_capture (s : State) (x : Twin) : ({ s with twin := x } : State).capture = s.capture := rfl
theorem with_twin_shaper (s : State) (x : Twin) : ({ s with twin := x } : State).shaper = s.shaper := rfl
theorem with_twin_ingest (s : State) (x : Twin) : ({ s with twin := x } : State).ingest = s.ingest := rfl
theorem with_twin_track (s : State) (x : Twin) : ({ s with twin := x } : State).track = s.track := rfl
theorem with_twin_pipes (s : State) (x : Twin) : ({ s with twin := x } : State).pipes = s.pipes := rfl
theorem with_twin_pwr (s : State) (x : Twin) : ({ s with twin := x } : State).pwr = s.pwr := rfl
theorem with_twin_dbg (s : State) (x : Twin) : ({ s with twin := x } : State).dbg = s.dbg := rfl
theorem with_twin_free (s : State) (x : Twin) : ({ s with twin := x } : State).free = s.free := rfl
theorem with_twin_pending (s : State) (x : Twin) : ({ s with twin := x } : State).pending = s.pending := rfl
theorem with_mail_regs (s : State) (x : Mail) : ({ s with mail := x } : State).regs = s.regs := rfl
theorem with_mail_mem (s : State) (x : Mail) : ({ s with mail := x } : State).mem = s.mem := rfl
theorem with_mail_hostMem (s : State) (x : Mail) : ({ s with mail := x } : State).hostMem = s.hostMem := rfl
theorem with_mail_poison (s : State) (x : Mail) : ({ s with mail := x } : State).poison = s.poison := rfl
theorem with_mail_clock (s : State) (x : Mail) : ({ s with mail := x } : State).clock = s.clock := rfl
theorem with_mail_pins (s : State) (x : Mail) : ({ s with mail := x } : State).pins = s.pins := rfl
theorem with_mail_boot (s : State) (x : Mail) : ({ s with mail := x } : State).boot = s.boot := rfl
theorem with_mail_hif (s : State) (x : Mail) : ({ s with mail := x } : State).hif = s.hif := rfl
theorem with_mail_smbus (s : State) (x : Mail) : ({ s with mail := x } : State).smbus = s.smbus := rfl
theorem with_mail_fabric (s : State) (x : Mail) : ({ s with mail := x } : State).fabric = s.fabric := rfl
theorem with_mail_sweep (s : State) (x : Mail) : ({ s with mail := x } : State).sweep = s.sweep := rfl
theorem with_mail_ember (s : State) (x : Mail) : ({ s with mail := x } : State).ember = s.ember := rfl
theorem with_mail_qm (s : State) (x : Mail) : ({ s with mail := x } : State).qm = s.qm := rfl
theorem with_mail_mmu (s : State) (x : Mail) : ({ s with mail := x } : State).mmu = s.mmu := rfl
theorem with_mail_attn (s : State) (x : Mail) : ({ s with mail := x } : State).attn = s.attn := rfl
theorem with_mail_media (s : State) (x : Mail) : ({ s with mail := x } : State).media = s.media := rfl
theorem with_mail_capture (s : State) (x : Mail) : ({ s with mail := x } : State).capture = s.capture := rfl
theorem with_mail_shaper (s : State) (x : Mail) : ({ s with mail := x } : State).shaper = s.shaper := rfl
theorem with_mail_ingest (s : State) (x : Mail) : ({ s with mail := x } : State).ingest = s.ingest := rfl
theorem with_mail_track (s : State) (x : Mail) : ({ s with mail := x } : State).track = s.track := rfl
theorem with_mail_pipes (s : State) (x : Mail) : ({ s with mail := x } : State).pipes = s.pipes := rfl
theorem with_mail_twin (s : State) (x : Mail) : ({ s with mail := x } : State).twin = s.twin := rfl
theorem with_mail_pwr (s : State) (x : Mail) : ({ s with mail := x } : State).pwr = s.pwr := rfl
theorem with_mail_dbg (s : State) (x : Mail) : ({ s with mail := x } : State).dbg = s.dbg := rfl
theorem with_mail_free (s : State) (x : Mail) : ({ s with mail := x } : State).free = s.free := rfl
theorem with_mail_pending (s : State) (x : Mail) : ({ s with mail := x } : State).pending = s.pending := rfl
theorem with_smbus_regs (s : State) (x : Smbus) : ({ s with smbus := x } : State).regs = s.regs := rfl
theorem with_smbus_mem (s : State) (x : Smbus) : ({ s with smbus := x } : State).mem = s.mem := rfl
theorem with_smbus_hostMem (s : State) (x : Smbus) : ({ s with smbus := x } : State).hostMem = s.hostMem := rfl
theorem with_smbus_poison (s : State) (x : Smbus) : ({ s with smbus := x } : State).poison = s.poison := rfl
theorem with_smbus_clock (s : State) (x : Smbus) : ({ s with smbus := x } : State).clock = s.clock := rfl
theorem with_smbus_pins (s : State) (x : Smbus) : ({ s with smbus := x } : State).pins = s.pins := rfl
theorem with_smbus_boot (s : State) (x : Smbus) : ({ s with smbus := x } : State).boot = s.boot := rfl
theorem with_smbus_hif (s : State) (x : Smbus) : ({ s with smbus := x } : State).hif = s.hif := rfl
theorem with_smbus_mail (s : State) (x : Smbus) : ({ s with smbus := x } : State).mail = s.mail := rfl
theorem with_smbus_fabric (s : State) (x : Smbus) : ({ s with smbus := x } : State).fabric = s.fabric := rfl
theorem with_smbus_sweep (s : State) (x : Smbus) : ({ s with smbus := x } : State).sweep = s.sweep := rfl
theorem with_smbus_ember (s : State) (x : Smbus) : ({ s with smbus := x } : State).ember = s.ember := rfl
theorem with_smbus_qm (s : State) (x : Smbus) : ({ s with smbus := x } : State).qm = s.qm := rfl
theorem with_smbus_mmu (s : State) (x : Smbus) : ({ s with smbus := x } : State).mmu = s.mmu := rfl
theorem with_smbus_attn (s : State) (x : Smbus) : ({ s with smbus := x } : State).attn = s.attn := rfl
theorem with_smbus_media (s : State) (x : Smbus) : ({ s with smbus := x } : State).media = s.media := rfl
theorem with_smbus_capture (s : State) (x : Smbus) : ({ s with smbus := x } : State).capture = s.capture := rfl
theorem with_smbus_shaper (s : State) (x : Smbus) : ({ s with smbus := x } : State).shaper = s.shaper := rfl
theorem with_smbus_ingest (s : State) (x : Smbus) : ({ s with smbus := x } : State).ingest = s.ingest := rfl
theorem with_smbus_track (s : State) (x : Smbus) : ({ s with smbus := x } : State).track = s.track := rfl
theorem with_smbus_pipes (s : State) (x : Smbus) : ({ s with smbus := x } : State).pipes = s.pipes := rfl
theorem with_smbus_twin (s : State) (x : Smbus) : ({ s with smbus := x } : State).twin = s.twin := rfl
theorem with_smbus_pwr (s : State) (x : Smbus) : ({ s with smbus := x } : State).pwr = s.pwr := rfl
theorem with_smbus_dbg (s : State) (x : Smbus) : ({ s with smbus := x } : State).dbg = s.dbg := rfl
theorem with_smbus_free (s : State) (x : Smbus) : ({ s with smbus := x } : State).free = s.free := rfl
theorem with_smbus_pending (s : State) (x : Smbus) : ({ s with smbus := x } : State).pending = s.pending := rfl
theorem with_free_regs (s : State) (x : Nat) : ({ s with free := x } : State).regs = s.regs := rfl
theorem with_free_mem (s : State) (x : Nat) : ({ s with free := x } : State).mem = s.mem := rfl
theorem with_free_hostMem (s : State) (x : Nat) : ({ s with free := x } : State).hostMem = s.hostMem := rfl
theorem with_free_poison (s : State) (x : Nat) : ({ s with free := x } : State).poison = s.poison := rfl
theorem with_free_clock (s : State) (x : Nat) : ({ s with free := x } : State).clock = s.clock := rfl
theorem with_free_pins (s : State) (x : Nat) : ({ s with free := x } : State).pins = s.pins := rfl
theorem with_free_boot (s : State) (x : Nat) : ({ s with free := x } : State).boot = s.boot := rfl
theorem with_free_hif (s : State) (x : Nat) : ({ s with free := x } : State).hif = s.hif := rfl
theorem with_free_mail (s : State) (x : Nat) : ({ s with free := x } : State).mail = s.mail := rfl
theorem with_free_smbus (s : State) (x : Nat) : ({ s with free := x } : State).smbus = s.smbus := rfl
theorem with_free_fabric (s : State) (x : Nat) : ({ s with free := x } : State).fabric = s.fabric := rfl
theorem with_free_sweep (s : State) (x : Nat) : ({ s with free := x } : State).sweep = s.sweep := rfl
theorem with_free_ember (s : State) (x : Nat) : ({ s with free := x } : State).ember = s.ember := rfl
theorem with_free_qm (s : State) (x : Nat) : ({ s with free := x } : State).qm = s.qm := rfl
theorem with_free_mmu (s : State) (x : Nat) : ({ s with free := x } : State).mmu = s.mmu := rfl
theorem with_free_attn (s : State) (x : Nat) : ({ s with free := x } : State).attn = s.attn := rfl
theorem with_free_media (s : State) (x : Nat) : ({ s with free := x } : State).media = s.media := rfl
theorem with_free_capture (s : State) (x : Nat) : ({ s with free := x } : State).capture = s.capture := rfl
theorem with_free_shaper (s : State) (x : Nat) : ({ s with free := x } : State).shaper = s.shaper := rfl
theorem with_free_ingest (s : State) (x : Nat) : ({ s with free := x } : State).ingest = s.ingest := rfl
theorem with_free_track (s : State) (x : Nat) : ({ s with free := x } : State).track = s.track := rfl
theorem with_free_pipes (s : State) (x : Nat) : ({ s with free := x } : State).pipes = s.pipes := rfl
theorem with_free_twin (s : State) (x : Nat) : ({ s with free := x } : State).twin = s.twin := rfl
theorem with_free_pwr (s : State) (x : Nat) : ({ s with free := x } : State).pwr = s.pwr := rfl
theorem with_free_dbg (s : State) (x : Nat) : ({ s with free := x } : State).dbg = s.dbg := rfl
theorem with_free_pending (s : State) (x : Nat) : ({ s with free := x } : State).pending = s.pending := rfl

/-! ### The queue of commands -/

theorem with_pending_regs (s : State) (x : List Instr) : ({ s with pending := x } : State).regs = s.regs := rfl
@[simp] theorem keepQueue_regs (s t : State) : (keepQueue s t).regs = t.regs := with_pending_regs t s.pending
theorem with_pending_mem (s : State) (x : List Instr) : ({ s with pending := x } : State).mem = s.mem := rfl
@[simp] theorem keepQueue_mem (s t : State) : (keepQueue s t).mem = t.mem := with_pending_mem t s.pending
theorem with_pending_hostMem (s : State) (x : List Instr) : ({ s with pending := x } : State).hostMem = s.hostMem := rfl
@[simp] theorem keepQueue_hostMem (s t : State) : (keepQueue s t).hostMem = t.hostMem := with_pending_hostMem t s.pending
theorem with_pending_poison (s : State) (x : List Instr) : ({ s with pending := x } : State).poison = s.poison := rfl
@[simp] theorem keepQueue_poison (s t : State) : (keepQueue s t).poison = t.poison := with_pending_poison t s.pending
theorem with_pending_clock (s : State) (x : List Instr) : ({ s with pending := x } : State).clock = s.clock := rfl
@[simp] theorem keepQueue_clock (s t : State) : (keepQueue s t).clock = t.clock := with_pending_clock t s.pending
theorem with_pending_pins (s : State) (x : List Instr) : ({ s with pending := x } : State).pins = s.pins := rfl
@[simp] theorem keepQueue_pins (s t : State) : (keepQueue s t).pins = t.pins := with_pending_pins t s.pending
theorem with_pending_boot (s : State) (x : List Instr) : ({ s with pending := x } : State).boot = s.boot := rfl
@[simp] theorem keepQueue_boot (s t : State) : (keepQueue s t).boot = t.boot := with_pending_boot t s.pending
theorem with_pending_hif (s : State) (x : List Instr) : ({ s with pending := x } : State).hif = s.hif := rfl
@[simp] theorem keepQueue_hif (s t : State) : (keepQueue s t).hif = t.hif := with_pending_hif t s.pending
theorem with_pending_mail (s : State) (x : List Instr) : ({ s with pending := x } : State).mail = s.mail := rfl
@[simp] theorem keepQueue_mail (s t : State) : (keepQueue s t).mail = t.mail := with_pending_mail t s.pending
theorem with_pending_smbus (s : State) (x : List Instr) : ({ s with pending := x } : State).smbus = s.smbus := rfl
@[simp] theorem keepQueue_smbus (s t : State) : (keepQueue s t).smbus = t.smbus := with_pending_smbus t s.pending
theorem with_pending_fabric (s : State) (x : List Instr) : ({ s with pending := x } : State).fabric = s.fabric := rfl
@[simp] theorem keepQueue_fabric (s t : State) : (keepQueue s t).fabric = t.fabric := with_pending_fabric t s.pending
theorem with_pending_sweep (s : State) (x : List Instr) : ({ s with pending := x } : State).sweep = s.sweep := rfl
@[simp] theorem keepQueue_sweep (s t : State) : (keepQueue s t).sweep = t.sweep := with_pending_sweep t s.pending
theorem with_pending_ember (s : State) (x : List Instr) : ({ s with pending := x } : State).ember = s.ember := rfl
@[simp] theorem keepQueue_ember (s t : State) : (keepQueue s t).ember = t.ember := with_pending_ember t s.pending
theorem with_pending_qm (s : State) (x : List Instr) : ({ s with pending := x } : State).qm = s.qm := rfl
@[simp] theorem keepQueue_qm (s t : State) : (keepQueue s t).qm = t.qm := with_pending_qm t s.pending
theorem with_pending_mmu (s : State) (x : List Instr) : ({ s with pending := x } : State).mmu = s.mmu := rfl
@[simp] theorem keepQueue_mmu (s t : State) : (keepQueue s t).mmu = t.mmu := with_pending_mmu t s.pending
theorem with_pending_attn (s : State) (x : List Instr) : ({ s with pending := x } : State).attn = s.attn := rfl
@[simp] theorem keepQueue_attn (s t : State) : (keepQueue s t).attn = t.attn := with_pending_attn t s.pending
theorem with_pending_media (s : State) (x : List Instr) : ({ s with pending := x } : State).media = s.media := rfl
@[simp] theorem keepQueue_media (s t : State) : (keepQueue s t).media = t.media := with_pending_media t s.pending
theorem with_pending_capture (s : State) (x : List Instr) : ({ s with pending := x } : State).capture = s.capture := rfl
@[simp] theorem keepQueue_capture (s t : State) : (keepQueue s t).capture = t.capture := with_pending_capture t s.pending
theorem with_pending_shaper (s : State) (x : List Instr) : ({ s with pending := x } : State).shaper = s.shaper := rfl
@[simp] theorem keepQueue_shaper (s t : State) : (keepQueue s t).shaper = t.shaper := with_pending_shaper t s.pending
theorem with_pending_ingest (s : State) (x : List Instr) : ({ s with pending := x } : State).ingest = s.ingest := rfl
@[simp] theorem keepQueue_ingest (s t : State) : (keepQueue s t).ingest = t.ingest := with_pending_ingest t s.pending
theorem with_pending_track (s : State) (x : List Instr) : ({ s with pending := x } : State).track = s.track := rfl
@[simp] theorem keepQueue_track (s t : State) : (keepQueue s t).track = t.track := with_pending_track t s.pending
theorem with_pending_pipes (s : State) (x : List Instr) : ({ s with pending := x } : State).pipes = s.pipes := rfl
@[simp] theorem keepQueue_pipes (s t : State) : (keepQueue s t).pipes = t.pipes := with_pending_pipes t s.pending
theorem with_pending_twin (s : State) (x : List Instr) : ({ s with pending := x } : State).twin = s.twin := rfl
@[simp] theorem keepQueue_twin (s t : State) : (keepQueue s t).twin = t.twin := with_pending_twin t s.pending
theorem with_pending_pwr (s : State) (x : List Instr) : ({ s with pending := x } : State).pwr = s.pwr := rfl
@[simp] theorem keepQueue_pwr (s t : State) : (keepQueue s t).pwr = t.pwr := with_pending_pwr t s.pending
theorem with_pending_dbg (s : State) (x : List Instr) : ({ s with pending := x } : State).dbg = s.dbg := rfl
@[simp] theorem keepQueue_dbg (s t : State) : (keepQueue s t).dbg = t.dbg := with_pending_dbg t s.pending
theorem with_pending_free (s : State) (x : List Instr) : ({ s with pending := x } : State).free = s.free := rfl
@[simp] theorem keepQueue_free (s t : State) : (keepQueue s t).free = t.free := with_pending_free t s.pending
theorem with_pending_pending (s : State) (x : List Instr) : ({ s with pending := x } : State).pending = x := rfl
@[simp] theorem keepQueue_pending (s t : State) : (keepQueue s t).pending = s.pending := with_pending_pending t s.pending

/-! ### A register -/

@[simp] theorem setReg_mem (s : State) (k : Nat) (v : W64) : (s.setReg k v).mem = s.mem := with_regs_mem s _
@[simp] theorem setReg_hostMem (s : State) (k : Nat) (v : W64) : (s.setReg k v).hostMem = s.hostMem := with_regs_hostMem s _
@[simp] theorem setReg_poison (s : State) (k : Nat) (v : W64) : (s.setReg k v).poison = s.poison := with_regs_poison s _
@[simp] theorem setReg_clock (s : State) (k : Nat) (v : W64) : (s.setReg k v).clock = s.clock := with_regs_clock s _
@[simp] theorem setReg_pins (s : State) (k : Nat) (v : W64) : (s.setReg k v).pins = s.pins := with_regs_pins s _
@[simp] theorem setReg_boot (s : State) (k : Nat) (v : W64) : (s.setReg k v).boot = s.boot := with_regs_boot s _
@[simp] theorem setReg_hif (s : State) (k : Nat) (v : W64) : (s.setReg k v).hif = s.hif := with_regs_hif s _
@[simp] theorem setReg_mail (s : State) (k : Nat) (v : W64) : (s.setReg k v).mail = s.mail := with_regs_mail s _
@[simp] theorem setReg_smbus (s : State) (k : Nat) (v : W64) : (s.setReg k v).smbus = s.smbus := with_regs_smbus s _
@[simp] theorem setReg_fabric (s : State) (k : Nat) (v : W64) : (s.setReg k v).fabric = s.fabric := with_regs_fabric s _
@[simp] theorem setReg_sweep (s : State) (k : Nat) (v : W64) : (s.setReg k v).sweep = s.sweep := with_regs_sweep s _
@[simp] theorem setReg_ember (s : State) (k : Nat) (v : W64) : (s.setReg k v).ember = s.ember := with_regs_ember s _
@[simp] theorem setReg_qm (s : State) (k : Nat) (v : W64) : (s.setReg k v).qm = s.qm := with_regs_qm s _
@[simp] theorem setReg_mmu (s : State) (k : Nat) (v : W64) : (s.setReg k v).mmu = s.mmu := with_regs_mmu s _
@[simp] theorem setReg_attn (s : State) (k : Nat) (v : W64) : (s.setReg k v).attn = s.attn := with_regs_attn s _
@[simp] theorem setReg_media (s : State) (k : Nat) (v : W64) : (s.setReg k v).media = s.media := with_regs_media s _
@[simp] theorem setReg_capture (s : State) (k : Nat) (v : W64) : (s.setReg k v).capture = s.capture := with_regs_capture s _
@[simp] theorem setReg_shaper (s : State) (k : Nat) (v : W64) : (s.setReg k v).shaper = s.shaper := with_regs_shaper s _
@[simp] theorem setReg_ingest (s : State) (k : Nat) (v : W64) : (s.setReg k v).ingest = s.ingest := with_regs_ingest s _
@[simp] theorem setReg_track (s : State) (k : Nat) (v : W64) : (s.setReg k v).track = s.track := with_regs_track s _
@[simp] theorem setReg_pipes (s : State) (k : Nat) (v : W64) : (s.setReg k v).pipes = s.pipes := with_regs_pipes s _
@[simp] theorem setReg_twin (s : State) (k : Nat) (v : W64) : (s.setReg k v).twin = s.twin := with_regs_twin s _
@[simp] theorem setReg_pwr (s : State) (k : Nat) (v : W64) : (s.setReg k v).pwr = s.pwr := with_regs_pwr s _
@[simp] theorem setReg_dbg (s : State) (k : Nat) (v : W64) : (s.setReg k v).dbg = s.dbg := with_regs_dbg s _
@[simp] theorem setReg_free (s : State) (k : Nat) (v : W64) : (s.setReg k v).free = s.free := with_regs_free s _
@[simp] theorem setReg_pending (s : State) (k : Nat) (v : W64) : (s.setReg k v).pending = s.pending := with_regs_pending s _

/-! ### A field of a register -/

@[simp] theorem setFld_mem (s : State) (k hi lo v : Nat) : (s.setFld k hi lo v).mem = s.mem := setReg_mem s _ _
@[simp] theorem setFld_hostMem (s : State) (k hi lo v : Nat) : (s.setFld k hi lo v).hostMem = s.hostMem := setReg_hostMem s _ _
@[simp] theorem setFld_poison (s : State) (k hi lo v : Nat) : (s.setFld k hi lo v).poison = s.poison := setReg_poison s _ _
@[simp] theorem setFld_clock (s : State) (k hi lo v : Nat) : (s.setFld k hi lo v).clock = s.clock := setReg_clock s _ _
@[simp] theorem setFld_pins (s : State) (k hi lo v : Nat) : (s.setFld k hi lo v).pins = s.pins := setReg_pins s _ _
@[simp] theorem setFld_boot (s : State) (k hi lo v : Nat) : (s.setFld k hi lo v).boot = s.boot := setReg_boot s _ _
@[simp] theorem setFld_hif (s : State) (k hi lo v : Nat) : (s.setFld k hi lo v).hif = s.hif := setReg_hif s _ _
@[simp] theorem setFld_mail (s : State) (k hi lo v : Nat) : (s.setFld k hi lo v).mail = s.mail := setReg_mail s _ _
@[simp] theorem setFld_smbus (s : State) (k hi lo v : Nat) : (s.setFld k hi lo v).smbus = s.smbus := setReg_smbus s _ _
@[simp] theorem setFld_fabric (s : State) (k hi lo v : Nat) : (s.setFld k hi lo v).fabric = s.fabric := setReg_fabric s _ _
@[simp] theorem setFld_sweep (s : State) (k hi lo v : Nat) : (s.setFld k hi lo v).sweep = s.sweep := setReg_sweep s _ _
@[simp] theorem setFld_ember (s : State) (k hi lo v : Nat) : (s.setFld k hi lo v).ember = s.ember := setReg_ember s _ _
@[simp] theorem setFld_qm (s : State) (k hi lo v : Nat) : (s.setFld k hi lo v).qm = s.qm := setReg_qm s _ _
@[simp] theorem setFld_mmu (s : State) (k hi lo v : Nat) : (s.setFld k hi lo v).mmu = s.mmu := setReg_mmu s _ _
@[simp] theorem setFld_attn (s : State) (k hi lo v : Nat) : (s.setFld k hi lo v).attn = s.attn := setReg_attn s _ _
@[simp] theorem setFld_media (s : State) (k hi lo v : Nat) : (s.setFld k hi lo v).media = s.media := setReg_media s _ _
@[simp] theorem setFld_capture (s : State) (k hi lo v : Nat) : (s.setFld k hi lo v).capture = s.capture := setReg_capture s _ _
@[simp] theorem setFld_shaper (s : State) (k hi lo v : Nat) : (s.setFld k hi lo v).shaper = s.shaper := setReg_shaper s _ _
@[simp] theorem setFld_ingest (s : State) (k hi lo v : Nat) : (s.setFld k hi lo v).ingest = s.ingest := setReg_ingest s _ _
@[simp] theorem setFld_track (s : State) (k hi lo v : Nat) : (s.setFld k hi lo v).track = s.track := setReg_track s _ _
@[simp] theorem setFld_pipes (s : State) (k hi lo v : Nat) : (s.setFld k hi lo v).pipes = s.pipes := setReg_pipes s _ _
@[simp] theorem setFld_twin (s : State) (k hi lo v : Nat) : (s.setFld k hi lo v).twin = s.twin := setReg_twin s _ _
@[simp] theorem setFld_pwr (s : State) (k hi lo v : Nat) : (s.setFld k hi lo v).pwr = s.pwr := setReg_pwr s _ _
@[simp] theorem setFld_dbg (s : State) (k hi lo v : Nat) : (s.setFld k hi lo v).dbg = s.dbg := setReg_dbg s _ _
@[simp] theorem setFld_free (s : State) (k hi lo v : Nat) : (s.setFld k hi lo v).free = s.free := setReg_free s _ _
@[simp] theorem setFld_pending (s : State) (k hi lo v : Nat) : (s.setFld k hi lo v).pending = s.pending := setReg_pending s _ _

/-! ### A bit of a register -/

@[simp] theorem setBit_mem (s : State) (k b : Nat) (v : Bool) : (s.setBit k b v).mem = s.mem := setFld_mem s ..
@[simp] theorem setBit_hostMem (s : State) (k b : Nat) (v : Bool) : (s.setBit k b v).hostMem = s.hostMem := setFld_hostMem s ..
@[simp] theorem setBit_poison (s : State) (k b : Nat) (v : Bool) : (s.setBit k b v).poison = s.poison := setFld_poison s ..
@[simp] theorem setBit_clock (s : State) (k b : Nat) (v : Bool) : (s.setBit k b v).clock = s.clock := setFld_clock s ..
@[simp] theorem setBit_pins (s : State) (k b : Nat) (v : Bool) : (s.setBit k b v).pins = s.pins := setFld_pins s ..
@[simp] theorem setBit_boot (s : State) (k b : Nat) (v : Bool) : (s.setBit k b v).boot = s.boot := setFld_boot s ..
@[simp] theorem setBit_hif (s : State) (k b : Nat) (v : Bool) : (s.setBit k b v).hif = s.hif := setFld_hif s ..
@[simp] theorem setBit_mail (s : State) (k b : Nat) (v : Bool) : (s.setBit k b v).mail = s.mail := setFld_mail s ..
@[simp] theorem setBit_smbus (s : State) (k b : Nat) (v : Bool) : (s.setBit k b v).smbus = s.smbus := setFld_smbus s ..
@[simp] theorem setBit_fabric (s : State) (k b : Nat) (v : Bool) : (s.setBit k b v).fabric = s.fabric := setFld_fabric s ..
@[simp] theorem setBit_sweep (s : State) (k b : Nat) (v : Bool) : (s.setBit k b v).sweep = s.sweep := setFld_sweep s ..
@[simp] theorem setBit_ember (s : State) (k b : Nat) (v : Bool) : (s.setBit k b v).ember = s.ember := setFld_ember s ..
@[simp] theorem setBit_qm (s : State) (k b : Nat) (v : Bool) : (s.setBit k b v).qm = s.qm := setFld_qm s ..
@[simp] theorem setBit_mmu (s : State) (k b : Nat) (v : Bool) : (s.setBit k b v).mmu = s.mmu := setFld_mmu s ..
@[simp] theorem setBit_attn (s : State) (k b : Nat) (v : Bool) : (s.setBit k b v).attn = s.attn := setFld_attn s ..
@[simp] theorem setBit_media (s : State) (k b : Nat) (v : Bool) : (s.setBit k b v).media = s.media := setFld_media s ..
@[simp] theorem setBit_capture (s : State) (k b : Nat) (v : Bool) : (s.setBit k b v).capture = s.capture := setFld_capture s ..
@[simp] theorem setBit_shaper (s : State) (k b : Nat) (v : Bool) : (s.setBit k b v).shaper = s.shaper := setFld_shaper s ..
@[simp] theorem setBit_ingest (s : State) (k b : Nat) (v : Bool) : (s.setBit k b v).ingest = s.ingest := setFld_ingest s ..
@[simp] theorem setBit_track (s : State) (k b : Nat) (v : Bool) : (s.setBit k b v).track = s.track := setFld_track s ..
@[simp] theorem setBit_pipes (s : State) (k b : Nat) (v : Bool) : (s.setBit k b v).pipes = s.pipes := setFld_pipes s ..
@[simp] theorem setBit_twin (s : State) (k b : Nat) (v : Bool) : (s.setBit k b v).twin = s.twin := setFld_twin s ..
@[simp] theorem setBit_pwr (s : State) (k b : Nat) (v : Bool) : (s.setBit k b v).pwr = s.pwr := setFld_pwr s ..
@[simp] theorem setBit_dbg (s : State) (k b : Nat) (v : Bool) : (s.setBit k b v).dbg = s.dbg := setFld_dbg s ..
@[simp] theorem setBit_free (s : State) (k b : Nat) (v : Bool) : (s.setBit k b v).free = s.free := setFld_free s ..
@[simp] theorem setBit_pending (s : State) (k b : Nat) (v : Bool) : (s.setBit k b v).pending = s.pending := setFld_pending s ..

/-! ### A counter -/

@[simp] theorem addSat_mem (s : State) (k hi lo n : Nat) : (s.addSat k hi lo n).mem = s.mem := setFld_mem s ..
@[simp] theorem addSat_hostMem (s : State) (k hi lo n : Nat) : (s.addSat k hi lo n).hostMem = s.hostMem := setFld_hostMem s ..
@[simp] theorem addSat_poison (s : State) (k hi lo n : Nat) : (s.addSat k hi lo n).poison = s.poison := setFld_poison s ..
@[simp] theorem addSat_clock (s : State) (k hi lo n : Nat) : (s.addSat k hi lo n).clock = s.clock := setFld_clock s ..
@[simp] theorem addSat_pins (s : State) (k hi lo n : Nat) : (s.addSat k hi lo n).pins = s.pins := setFld_pins s ..
@[simp] theorem addSat_boot (s : State) (k hi lo n : Nat) : (s.addSat k hi lo n).boot = s.boot := setFld_boot s ..
@[simp] theorem addSat_hif (s : State) (k hi lo n : Nat) : (s.addSat k hi lo n).hif = s.hif := setFld_hif s ..
@[simp] theorem addSat_mail (s : State) (k hi lo n : Nat) : (s.addSat k hi lo n).mail = s.mail := setFld_mail s ..
@[simp] theorem addSat_smbus (s : State) (k hi lo n : Nat) : (s.addSat k hi lo n).smbus = s.smbus := setFld_smbus s ..
@[simp] theorem addSat_fabric (s : State) (k hi lo n : Nat) : (s.addSat k hi lo n).fabric = s.fabric := setFld_fabric s ..
@[simp] theorem addSat_sweep (s : State) (k hi lo n : Nat) : (s.addSat k hi lo n).sweep = s.sweep := setFld_sweep s ..
@[simp] theorem addSat_ember (s : State) (k hi lo n : Nat) : (s.addSat k hi lo n).ember = s.ember := setFld_ember s ..
@[simp] theorem addSat_qm (s : State) (k hi lo n : Nat) : (s.addSat k hi lo n).qm = s.qm := setFld_qm s ..
@[simp] theorem addSat_mmu (s : State) (k hi lo n : Nat) : (s.addSat k hi lo n).mmu = s.mmu := setFld_mmu s ..
@[simp] theorem addSat_attn (s : State) (k hi lo n : Nat) : (s.addSat k hi lo n).attn = s.attn := setFld_attn s ..
@[simp] theorem addSat_media (s : State) (k hi lo n : Nat) : (s.addSat k hi lo n).media = s.media := setFld_media s ..
@[simp] theorem addSat_capture (s : State) (k hi lo n : Nat) : (s.addSat k hi lo n).capture = s.capture := setFld_capture s ..
@[simp] theorem addSat_shaper (s : State) (k hi lo n : Nat) : (s.addSat k hi lo n).shaper = s.shaper := setFld_shaper s ..
@[simp] theorem addSat_ingest (s : State) (k hi lo n : Nat) : (s.addSat k hi lo n).ingest = s.ingest := setFld_ingest s ..
@[simp] theorem addSat_track (s : State) (k hi lo n : Nat) : (s.addSat k hi lo n).track = s.track := setFld_track s ..
@[simp] theorem addSat_pipes (s : State) (k hi lo n : Nat) : (s.addSat k hi lo n).pipes = s.pipes := setFld_pipes s ..
@[simp] theorem addSat_twin (s : State) (k hi lo n : Nat) : (s.addSat k hi lo n).twin = s.twin := setFld_twin s ..
@[simp] theorem addSat_pwr (s : State) (k hi lo n : Nat) : (s.addSat k hi lo n).pwr = s.pwr := setFld_pwr s ..
@[simp] theorem addSat_dbg (s : State) (k hi lo n : Nat) : (s.addSat k hi lo n).dbg = s.dbg := setFld_dbg s ..
@[simp] theorem addSat_free (s : State) (k hi lo n : Nat) : (s.addSat k hi lo n).free = s.free := setFld_free s ..
@[simp] theorem addSat_pending (s : State) (k hi lo n : Nat) : (s.addSat k hi lo n).pending = s.pending := setFld_pending s ..

/-! ### A byte counter -/

@[simp] theorem bump_mem (s : State) (i n : Nat) : (bump s i n).mem = s.mem := setFld_mem s ..
@[simp] theorem bump_hostMem (s : State) (i n : Nat) : (bump s i n).hostMem = s.hostMem := setFld_hostMem s ..
@[simp] theorem bump_poison (s : State) (i n : Nat) : (bump s i n).poison = s.poison := setFld_poison s ..
@[simp] theorem bump_clock (s : State) (i n : Nat) : (bump s i n).clock = s.clock := setFld_clock s ..
@[simp] theorem bump_pins (s : State) (i n : Nat) : (bump s i n).pins = s.pins := setFld_pins s ..
@[simp] theorem bump_boot (s : State) (i n : Nat) : (bump s i n).boot = s.boot := setFld_boot s ..
@[simp] theorem bump_hif (s : State) (i n : Nat) : (bump s i n).hif = s.hif := setFld_hif s ..
@[simp] theorem bump_mail (s : State) (i n : Nat) : (bump s i n).mail = s.mail := setFld_mail s ..
@[simp] theorem bump_smbus (s : State) (i n : Nat) : (bump s i n).smbus = s.smbus := setFld_smbus s ..
@[simp] theorem bump_fabric (s : State) (i n : Nat) : (bump s i n).fabric = s.fabric := setFld_fabric s ..
@[simp] theorem bump_sweep (s : State) (i n : Nat) : (bump s i n).sweep = s.sweep := setFld_sweep s ..
@[simp] theorem bump_ember (s : State) (i n : Nat) : (bump s i n).ember = s.ember := setFld_ember s ..
@[simp] theorem bump_qm (s : State) (i n : Nat) : (bump s i n).qm = s.qm := setFld_qm s ..
@[simp] theorem bump_mmu (s : State) (i n : Nat) : (bump s i n).mmu = s.mmu := setFld_mmu s ..
@[simp] theorem bump_attn (s : State) (i n : Nat) : (bump s i n).attn = s.attn := setFld_attn s ..
@[simp] theorem bump_media (s : State) (i n : Nat) : (bump s i n).media = s.media := setFld_media s ..
@[simp] theorem bump_capture (s : State) (i n : Nat) : (bump s i n).capture = s.capture := setFld_capture s ..
@[simp] theorem bump_shaper (s : State) (i n : Nat) : (bump s i n).shaper = s.shaper := setFld_shaper s ..
@[simp] theorem bump_ingest (s : State) (i n : Nat) : (bump s i n).ingest = s.ingest := setFld_ingest s ..
@[simp] theorem bump_track (s : State) (i n : Nat) : (bump s i n).track = s.track := setFld_track s ..
@[simp] theorem bump_pipes (s : State) (i n : Nat) : (bump s i n).pipes = s.pipes := setFld_pipes s ..
@[simp] theorem bump_twin (s : State) (i n : Nat) : (bump s i n).twin = s.twin := setFld_twin s ..
@[simp] theorem bump_pwr (s : State) (i n : Nat) : (bump s i n).pwr = s.pwr := setFld_pwr s ..
@[simp] theorem bump_dbg (s : State) (i n : Nat) : (bump s i n).dbg = s.dbg := setFld_dbg s ..
@[simp] theorem bump_free (s : State) (i n : Nat) : (bump s i n).free = s.free := setFld_free s ..
@[simp] theorem bump_pending (s : State) (i n : Nat) : (bump s i n).pending = s.pending := setFld_pending s ..

/-! ### A report to the Ember log -/

@[simp] theorem report_regs (s : State) (src code a0 a1 a2 : Nat) : (report s src code a0 a1 a2).regs = s.regs := by unfold report; dsimp only; split <;> exact with_ember_regs s _
@[simp] theorem report_mem (s : State) (src code a0 a1 a2 : Nat) : (report s src code a0 a1 a2).mem = s.mem := by unfold report; dsimp only; split <;> exact with_ember_mem s _
@[simp] theorem report_hostMem (s : State) (src code a0 a1 a2 : Nat) : (report s src code a0 a1 a2).hostMem = s.hostMem := by unfold report; dsimp only; split <;> exact with_ember_hostMem s _
@[simp] theorem report_poison (s : State) (src code a0 a1 a2 : Nat) : (report s src code a0 a1 a2).poison = s.poison := by unfold report; dsimp only; split <;> exact with_ember_poison s _
@[simp] theorem report_clock (s : State) (src code a0 a1 a2 : Nat) : (report s src code a0 a1 a2).clock = s.clock := by unfold report; dsimp only; split <;> exact with_ember_clock s _
@[simp] theorem report_pins (s : State) (src code a0 a1 a2 : Nat) : (report s src code a0 a1 a2).pins = s.pins := by unfold report; dsimp only; split <;> exact with_ember_pins s _
@[simp] theorem report_boot (s : State) (src code a0 a1 a2 : Nat) : (report s src code a0 a1 a2).boot = s.boot := by unfold report; dsimp only; split <;> exact with_ember_boot s _
@[simp] theorem report_hif (s : State) (src code a0 a1 a2 : Nat) : (report s src code a0 a1 a2).hif = s.hif := by unfold report; dsimp only; split <;> exact with_ember_hif s _
@[simp] theorem report_mail (s : State) (src code a0 a1 a2 : Nat) : (report s src code a0 a1 a2).mail = s.mail := by unfold report; dsimp only; split <;> exact with_ember_mail s _
@[simp] theorem report_smbus (s : State) (src code a0 a1 a2 : Nat) : (report s src code a0 a1 a2).smbus = s.smbus := by unfold report; dsimp only; split <;> exact with_ember_smbus s _
@[simp] theorem report_fabric (s : State) (src code a0 a1 a2 : Nat) : (report s src code a0 a1 a2).fabric = s.fabric := by unfold report; dsimp only; split <;> exact with_ember_fabric s _
@[simp] theorem report_sweep (s : State) (src code a0 a1 a2 : Nat) : (report s src code a0 a1 a2).sweep = s.sweep := by unfold report; dsimp only; split <;> exact with_ember_sweep s _
@[simp] theorem report_qm (s : State) (src code a0 a1 a2 : Nat) : (report s src code a0 a1 a2).qm = s.qm := by unfold report; dsimp only; split <;> exact with_ember_qm s _
@[simp] theorem report_mmu (s : State) (src code a0 a1 a2 : Nat) : (report s src code a0 a1 a2).mmu = s.mmu := by unfold report; dsimp only; split <;> exact with_ember_mmu s _
@[simp] theorem report_attn (s : State) (src code a0 a1 a2 : Nat) : (report s src code a0 a1 a2).attn = s.attn := by unfold report; dsimp only; split <;> exact with_ember_attn s _
@[simp] theorem report_media (s : State) (src code a0 a1 a2 : Nat) : (report s src code a0 a1 a2).media = s.media := by unfold report; dsimp only; split <;> exact with_ember_media s _
@[simp] theorem report_capture (s : State) (src code a0 a1 a2 : Nat) : (report s src code a0 a1 a2).capture = s.capture := by unfold report; dsimp only; split <;> exact with_ember_capture s _
@[simp] theorem report_shaper (s : State) (src code a0 a1 a2 : Nat) : (report s src code a0 a1 a2).shaper = s.shaper := by unfold report; dsimp only; split <;> exact with_ember_shaper s _
@[simp] theorem report_ingest (s : State) (src code a0 a1 a2 : Nat) : (report s src code a0 a1 a2).ingest = s.ingest := by unfold report; dsimp only; split <;> exact with_ember_ingest s _
@[simp] theorem report_track (s : State) (src code a0 a1 a2 : Nat) : (report s src code a0 a1 a2).track = s.track := by unfold report; dsimp only; split <;> exact with_ember_track s _
@[simp] theorem report_pipes (s : State) (src code a0 a1 a2 : Nat) : (report s src code a0 a1 a2).pipes = s.pipes := by unfold report; dsimp only; split <;> exact with_ember_pipes s _
@[simp] theorem report_twin (s : State) (src code a0 a1 a2 : Nat) : (report s src code a0 a1 a2).twin = s.twin := by unfold report; dsimp only; split <;> exact with_ember_twin s _
@[simp] theorem report_pwr (s : State) (src code a0 a1 a2 : Nat) : (report s src code a0 a1 a2).pwr = s.pwr := by unfold report; dsimp only; split <;> exact with_ember_pwr s _
@[simp] theorem report_dbg (s : State) (src code a0 a1 a2 : Nat) : (report s src code a0 a1 a2).dbg = s.dbg := by unfold report; dsimp only; split <;> exact with_ember_dbg s _
@[simp] theorem report_free (s : State) (src code a0 a1 a2 : Nat) : (report s src code a0 a1 a2).free = s.free := by unfold report; dsimp only; split <;> exact with_ember_free s _
@[simp] theorem report_pending (s : State) (src code a0 a1 a2 : Nat) : (report s src code a0 a1 a2).pending = s.pending := by unfold report; dsimp only; split <;> exact with_ember_pending s _

/-! ### A report without a named code -/

@[simp] theorem reportUnnamed_regs (s : State) (src event a0 a1 a2 : Nat) : (reportUnnamed s src event a0 a1 a2).regs = s.regs := by simp [reportUnnamed]
@[simp] theorem reportUnnamed_mem (s : State) (src event a0 a1 a2 : Nat) : (reportUnnamed s src event a0 a1 a2).mem = s.mem := by simp [reportUnnamed]
@[simp] theorem reportUnnamed_hostMem (s : State) (src event a0 a1 a2 : Nat) : (reportUnnamed s src event a0 a1 a2).hostMem = s.hostMem := by simp [reportUnnamed]
@[simp] theorem reportUnnamed_poison (s : State) (src event a0 a1 a2 : Nat) : (reportUnnamed s src event a0 a1 a2).poison = s.poison := by simp [reportUnnamed]
@[simp] theorem reportUnnamed_clock (s : State) (src event a0 a1 a2 : Nat) : (reportUnnamed s src event a0 a1 a2).clock = s.clock := by simp [reportUnnamed]
@[simp] theorem reportUnnamed_pins (s : State) (src event a0 a1 a2 : Nat) : (reportUnnamed s src event a0 a1 a2).pins = s.pins := by simp [reportUnnamed]
@[simp] theorem reportUnnamed_boot (s : State) (src event a0 a1 a2 : Nat) : (reportUnnamed s src event a0 a1 a2).boot = s.boot := by simp [reportUnnamed]
@[simp] theorem reportUnnamed_hif (s : State) (src event a0 a1 a2 : Nat) : (reportUnnamed s src event a0 a1 a2).hif = s.hif := by simp [reportUnnamed]
@[simp] theorem reportUnnamed_mail (s : State) (src event a0 a1 a2 : Nat) : (reportUnnamed s src event a0 a1 a2).mail = s.mail := by simp [reportUnnamed]
@[simp] theorem reportUnnamed_smbus (s : State) (src event a0 a1 a2 : Nat) : (reportUnnamed s src event a0 a1 a2).smbus = s.smbus := by simp [reportUnnamed]
@[simp] theorem reportUnnamed_fabric (s : State) (src event a0 a1 a2 : Nat) : (reportUnnamed s src event a0 a1 a2).fabric = s.fabric := by simp [reportUnnamed]
@[simp] theorem reportUnnamed_sweep (s : State) (src event a0 a1 a2 : Nat) : (reportUnnamed s src event a0 a1 a2).sweep = s.sweep := by simp [reportUnnamed]
@[simp] theorem reportUnnamed_qm (s : State) (src event a0 a1 a2 : Nat) : (reportUnnamed s src event a0 a1 a2).qm = s.qm := by simp [reportUnnamed]
@[simp] theorem reportUnnamed_mmu (s : State) (src event a0 a1 a2 : Nat) : (reportUnnamed s src event a0 a1 a2).mmu = s.mmu := by simp [reportUnnamed]
@[simp] theorem reportUnnamed_attn (s : State) (src event a0 a1 a2 : Nat) : (reportUnnamed s src event a0 a1 a2).attn = s.attn := by simp [reportUnnamed]
@[simp] theorem reportUnnamed_media (s : State) (src event a0 a1 a2 : Nat) : (reportUnnamed s src event a0 a1 a2).media = s.media := by simp [reportUnnamed]
@[simp] theorem reportUnnamed_capture (s : State) (src event a0 a1 a2 : Nat) : (reportUnnamed s src event a0 a1 a2).capture = s.capture := by simp [reportUnnamed]
@[simp] theorem reportUnnamed_shaper (s : State) (src event a0 a1 a2 : Nat) : (reportUnnamed s src event a0 a1 a2).shaper = s.shaper := by simp [reportUnnamed]
@[simp] theorem reportUnnamed_ingest (s : State) (src event a0 a1 a2 : Nat) : (reportUnnamed s src event a0 a1 a2).ingest = s.ingest := by simp [reportUnnamed]
@[simp] theorem reportUnnamed_track (s : State) (src event a0 a1 a2 : Nat) : (reportUnnamed s src event a0 a1 a2).track = s.track := by simp [reportUnnamed]
@[simp] theorem reportUnnamed_pipes (s : State) (src event a0 a1 a2 : Nat) : (reportUnnamed s src event a0 a1 a2).pipes = s.pipes := by simp [reportUnnamed]
@[simp] theorem reportUnnamed_twin (s : State) (src event a0 a1 a2 : Nat) : (reportUnnamed s src event a0 a1 a2).twin = s.twin := by simp [reportUnnamed]
@[simp] theorem reportUnnamed_pwr (s : State) (src event a0 a1 a2 : Nat) : (reportUnnamed s src event a0 a1 a2).pwr = s.pwr := by simp [reportUnnamed]
@[simp] theorem reportUnnamed_dbg (s : State) (src event a0 a1 a2 : Nat) : (reportUnnamed s src event a0 a1 a2).dbg = s.dbg := by simp [reportUnnamed]
@[simp] theorem reportUnnamed_free (s : State) (src event a0 a1 a2 : Nat) : (reportUnnamed s src event a0 a1 a2).free = s.free := by simp [reportUnnamed]
@[simp] theorem reportUnnamed_pending (s : State) (src event a0 a1 a2 : Nat) : (reportUnnamed s src event a0 a1 a2).pending = s.pending := by simp [reportUnnamed]

/-! ### A violation -/

@[simp] theorem viol_mem (s : State) (addr kind part : Nat) : (viol s addr kind part).mem = s.mem := (setReg_mem (s.addSat ..) ..).trans (addSat_mem s ..)
@[simp] theorem viol_hostMem (s : State) (addr kind part : Nat) : (viol s addr kind part).hostMem = s.hostMem := (setReg_hostMem (s.addSat ..) ..).trans (addSat_hostMem s ..)
@[simp] theorem viol_poison (s : State) (addr kind part : Nat) : (viol s addr kind part).poison = s.poison := (setReg_poison (s.addSat ..) ..).trans (addSat_poison s ..)
@[simp] theorem viol_clock (s : State) (addr kind part : Nat) : (viol s addr kind part).clock = s.clock := (setReg_clock (s.addSat ..) ..).trans (addSat_clock s ..)
@[simp] theorem viol_pins (s : State) (addr kind part : Nat) : (viol s addr kind part).pins = s.pins := (setReg_pins (s.addSat ..) ..).trans (addSat_pins s ..)
@[simp] theorem viol_boot (s : State) (addr kind part : Nat) : (viol s addr kind part).boot = s.boot := (setReg_boot (s.addSat ..) ..).trans (addSat_boot s ..)
@[simp] theorem viol_hif (s : State) (addr kind part : Nat) : (viol s addr kind part).hif = s.hif := (setReg_hif (s.addSat ..) ..).trans (addSat_hif s ..)
@[simp] theorem viol_mail (s : State) (addr kind part : Nat) : (viol s addr kind part).mail = s.mail := (setReg_mail (s.addSat ..) ..).trans (addSat_mail s ..)
@[simp] theorem viol_smbus (s : State) (addr kind part : Nat) : (viol s addr kind part).smbus = s.smbus := (setReg_smbus (s.addSat ..) ..).trans (addSat_smbus s ..)
@[simp] theorem viol_fabric (s : State) (addr kind part : Nat) : (viol s addr kind part).fabric = s.fabric := (setReg_fabric (s.addSat ..) ..).trans (addSat_fabric s ..)
@[simp] theorem viol_sweep (s : State) (addr kind part : Nat) : (viol s addr kind part).sweep = s.sweep := (setReg_sweep (s.addSat ..) ..).trans (addSat_sweep s ..)
@[simp] theorem viol_ember (s : State) (addr kind part : Nat) : (viol s addr kind part).ember = s.ember := (setReg_ember (s.addSat ..) ..).trans (addSat_ember s ..)
@[simp] theorem viol_qm (s : State) (addr kind part : Nat) : (viol s addr kind part).qm = s.qm := (setReg_qm (s.addSat ..) ..).trans (addSat_qm s ..)
@[simp] theorem viol_mmu (s : State) (addr kind part : Nat) : (viol s addr kind part).mmu = s.mmu := (setReg_mmu (s.addSat ..) ..).trans (addSat_mmu s ..)
@[simp] theorem viol_attn (s : State) (addr kind part : Nat) : (viol s addr kind part).attn = s.attn := (setReg_attn (s.addSat ..) ..).trans (addSat_attn s ..)
@[simp] theorem viol_media (s : State) (addr kind part : Nat) : (viol s addr kind part).media = s.media := (setReg_media (s.addSat ..) ..).trans (addSat_media s ..)
@[simp] theorem viol_capture (s : State) (addr kind part : Nat) : (viol s addr kind part).capture = s.capture := (setReg_capture (s.addSat ..) ..).trans (addSat_capture s ..)
@[simp] theorem viol_shaper (s : State) (addr kind part : Nat) : (viol s addr kind part).shaper = s.shaper := (setReg_shaper (s.addSat ..) ..).trans (addSat_shaper s ..)
@[simp] theorem viol_ingest (s : State) (addr kind part : Nat) : (viol s addr kind part).ingest = s.ingest := (setReg_ingest (s.addSat ..) ..).trans (addSat_ingest s ..)
@[simp] theorem viol_track (s : State) (addr kind part : Nat) : (viol s addr kind part).track = s.track := (setReg_track (s.addSat ..) ..).trans (addSat_track s ..)
@[simp] theorem viol_pipes (s : State) (addr kind part : Nat) : (viol s addr kind part).pipes = s.pipes := (setReg_pipes (s.addSat ..) ..).trans (addSat_pipes s ..)
@[simp] theorem viol_twin (s : State) (addr kind part : Nat) : (viol s addr kind part).twin = s.twin := (setReg_twin (s.addSat ..) ..).trans (addSat_twin s ..)
@[simp] theorem viol_pwr (s : State) (addr kind part : Nat) : (viol s addr kind part).pwr = s.pwr := (setReg_pwr (s.addSat ..) ..).trans (addSat_pwr s ..)
@[simp] theorem viol_dbg (s : State) (addr kind part : Nat) : (viol s addr kind part).dbg = s.dbg := (setReg_dbg (s.addSat ..) ..).trans (addSat_dbg s ..)
@[simp] theorem viol_free (s : State) (addr kind part : Nat) : (viol s addr kind part).free = s.free := (setReg_free (s.addSat ..) ..).trans (addSat_free s ..)
@[simp] theorem viol_pending (s : State) (addr kind part : Nat) : (viol s addr kind part).pending = s.pending := (setReg_pending (s.addSat ..) ..).trans (addSat_pending s ..)

/-! ### A write to host memory -/

@[simp] theorem hostWrite_mem (s : State) (a : Nat) (bs : List Byte) : (hostWrite s a bs).mem = s.mem := by
  unfold hostWrite; dsimp only; split
  · exact (bump_mem ..).trans (with_hostMem_mem s _)
  · split
    · exact addSat_mem ..
    · exact (with_hif_mem ..).trans ((report_mem ..).trans (addSat_mem ..))
@[simp] theorem hostWrite_poison (s : State) (a : Nat) (bs : List Byte) : (hostWrite s a bs).poison = s.poison := by
  unfold hostWrite; dsimp only; split
  · exact (bump_poison ..).trans (with_hostMem_poison s _)
  · split
    · exact addSat_poison ..
    · exact (with_hif_poison ..).trans ((report_poison ..).trans (addSat_poison ..))
@[simp] theorem hostWrite_clock (s : State) (a : Nat) (bs : List Byte) : (hostWrite s a bs).clock = s.clock := by
  unfold hostWrite; dsimp only; split
  · exact (bump_clock ..).trans (with_hostMem_clock s _)
  · split
    · exact addSat_clock ..
    · exact (with_hif_clock ..).trans ((report_clock ..).trans (addSat_clock ..))
@[simp] theorem hostWrite_pins (s : State) (a : Nat) (bs : List Byte) : (hostWrite s a bs).pins = s.pins := by
  unfold hostWrite; dsimp only; split
  · exact (bump_pins ..).trans (with_hostMem_pins s _)
  · split
    · exact addSat_pins ..
    · exact (with_hif_pins ..).trans ((report_pins ..).trans (addSat_pins ..))
@[simp] theorem hostWrite_boot (s : State) (a : Nat) (bs : List Byte) : (hostWrite s a bs).boot = s.boot := by
  unfold hostWrite; dsimp only; split
  · exact (bump_boot ..).trans (with_hostMem_boot s _)
  · split
    · exact addSat_boot ..
    · exact (with_hif_boot ..).trans ((report_boot ..).trans (addSat_boot ..))
@[simp] theorem hostWrite_mail (s : State) (a : Nat) (bs : List Byte) : (hostWrite s a bs).mail = s.mail := by
  unfold hostWrite; dsimp only; split
  · exact (bump_mail ..).trans (with_hostMem_mail s _)
  · split
    · exact addSat_mail ..
    · exact (with_hif_mail ..).trans ((report_mail ..).trans (addSat_mail ..))
@[simp] theorem hostWrite_smbus (s : State) (a : Nat) (bs : List Byte) : (hostWrite s a bs).smbus = s.smbus := by
  unfold hostWrite; dsimp only; split
  · exact (bump_smbus ..).trans (with_hostMem_smbus s _)
  · split
    · exact addSat_smbus ..
    · exact (with_hif_smbus ..).trans ((report_smbus ..).trans (addSat_smbus ..))
@[simp] theorem hostWrite_fabric (s : State) (a : Nat) (bs : List Byte) : (hostWrite s a bs).fabric = s.fabric := by
  unfold hostWrite; dsimp only; split
  · exact (bump_fabric ..).trans (with_hostMem_fabric s _)
  · split
    · exact addSat_fabric ..
    · exact (with_hif_fabric ..).trans ((report_fabric ..).trans (addSat_fabric ..))
@[simp] theorem hostWrite_sweep (s : State) (a : Nat) (bs : List Byte) : (hostWrite s a bs).sweep = s.sweep := by
  unfold hostWrite; dsimp only; split
  · exact (bump_sweep ..).trans (with_hostMem_sweep s _)
  · split
    · exact addSat_sweep ..
    · exact (with_hif_sweep ..).trans ((report_sweep ..).trans (addSat_sweep ..))
@[simp] theorem hostWrite_qm (s : State) (a : Nat) (bs : List Byte) : (hostWrite s a bs).qm = s.qm := by
  unfold hostWrite; dsimp only; split
  · exact (bump_qm ..).trans (with_hostMem_qm s _)
  · split
    · exact addSat_qm ..
    · exact (with_hif_qm ..).trans ((report_qm ..).trans (addSat_qm ..))
@[simp] theorem hostWrite_mmu (s : State) (a : Nat) (bs : List Byte) : (hostWrite s a bs).mmu = s.mmu := by
  unfold hostWrite; dsimp only; split
  · exact (bump_mmu ..).trans (with_hostMem_mmu s _)
  · split
    · exact addSat_mmu ..
    · exact (with_hif_mmu ..).trans ((report_mmu ..).trans (addSat_mmu ..))
@[simp] theorem hostWrite_attn (s : State) (a : Nat) (bs : List Byte) : (hostWrite s a bs).attn = s.attn := by
  unfold hostWrite; dsimp only; split
  · exact (bump_attn ..).trans (with_hostMem_attn s _)
  · split
    · exact addSat_attn ..
    · exact (with_hif_attn ..).trans ((report_attn ..).trans (addSat_attn ..))
@[simp] theorem hostWrite_media (s : State) (a : Nat) (bs : List Byte) : (hostWrite s a bs).media = s.media := by
  unfold hostWrite; dsimp only; split
  · exact (bump_media ..).trans (with_hostMem_media s _)
  · split
    · exact addSat_media ..
    · exact (with_hif_media ..).trans ((report_media ..).trans (addSat_media ..))
@[simp] theorem hostWrite_capture (s : State) (a : Nat) (bs : List Byte) : (hostWrite s a bs).capture = s.capture := by
  unfold hostWrite; dsimp only; split
  · exact (bump_capture ..).trans (with_hostMem_capture s _)
  · split
    · exact addSat_capture ..
    · exact (with_hif_capture ..).trans ((report_capture ..).trans (addSat_capture ..))
@[simp] theorem hostWrite_shaper (s : State) (a : Nat) (bs : List Byte) : (hostWrite s a bs).shaper = s.shaper := by
  unfold hostWrite; dsimp only; split
  · exact (bump_shaper ..).trans (with_hostMem_shaper s _)
  · split
    · exact addSat_shaper ..
    · exact (with_hif_shaper ..).trans ((report_shaper ..).trans (addSat_shaper ..))
@[simp] theorem hostWrite_ingest (s : State) (a : Nat) (bs : List Byte) : (hostWrite s a bs).ingest = s.ingest := by
  unfold hostWrite; dsimp only; split
  · exact (bump_ingest ..).trans (with_hostMem_ingest s _)
  · split
    · exact addSat_ingest ..
    · exact (with_hif_ingest ..).trans ((report_ingest ..).trans (addSat_ingest ..))
@[simp] theorem hostWrite_track (s : State) (a : Nat) (bs : List Byte) : (hostWrite s a bs).track = s.track := by
  unfold hostWrite; dsimp only; split
  · exact (bump_track ..).trans (with_hostMem_track s _)
  · split
    · exact addSat_track ..
    · exact (with_hif_track ..).trans ((report_track ..).trans (addSat_track ..))
@[simp] theorem hostWrite_pipes (s : State) (a : Nat) (bs : List Byte) : (hostWrite s a bs).pipes = s.pipes := by
  unfold hostWrite; dsimp only; split
  · exact (bump_pipes ..).trans (with_hostMem_pipes s _)
  · split
    · exact addSat_pipes ..
    · exact (with_hif_pipes ..).trans ((report_pipes ..).trans (addSat_pipes ..))
@[simp] theorem hostWrite_twin (s : State) (a : Nat) (bs : List Byte) : (hostWrite s a bs).twin = s.twin := by
  unfold hostWrite; dsimp only; split
  · exact (bump_twin ..).trans (with_hostMem_twin s _)
  · split
    · exact addSat_twin ..
    · exact (with_hif_twin ..).trans ((report_twin ..).trans (addSat_twin ..))
@[simp] theorem hostWrite_pwr (s : State) (a : Nat) (bs : List Byte) : (hostWrite s a bs).pwr = s.pwr := by
  unfold hostWrite; dsimp only; split
  · exact (bump_pwr ..).trans (with_hostMem_pwr s _)
  · split
    · exact addSat_pwr ..
    · exact (with_hif_pwr ..).trans ((report_pwr ..).trans (addSat_pwr ..))
@[simp] theorem hostWrite_dbg (s : State) (a : Nat) (bs : List Byte) : (hostWrite s a bs).dbg = s.dbg := by
  unfold hostWrite; dsimp only; split
  · exact (bump_dbg ..).trans (with_hostMem_dbg s _)
  · split
    · exact addSat_dbg ..
    · exact (with_hif_dbg ..).trans ((report_dbg ..).trans (addSat_dbg ..))
@[simp] theorem hostWrite_free (s : State) (a : Nat) (bs : List Byte) : (hostWrite s a bs).free = s.free := by
  unfold hostWrite; dsimp only; split
  · exact (bump_free ..).trans (with_hostMem_free s _)
  · split
    · exact addSat_free ..
    · exact (with_hif_free ..).trans ((report_free ..).trans (addSat_free ..))
@[simp] theorem hostWrite_pending (s : State) (a : Nat) (bs : List Byte) : (hostWrite s a bs).pending = s.pending := by
  unfold hostWrite; dsimp only; split
  · exact (bump_pending ..).trans (with_hostMem_pending s _)
  · split
    · exact addSat_pending ..
    · exact (with_hif_pending ..).trans ((report_pending ..).trans (addSat_pending ..))

/-! ### A message -/

@[simp] theorem sendMsix_mem (s : State) (f v : Nat) : (sendMsix s f v).mem = s.mem := (with_hif_mem ..).trans (hostWrite_mem ..)
@[simp] theorem sendMsix_poison (s : State) (f v : Nat) : (sendMsix s f v).poison = s.poison := (with_hif_poison ..).trans (hostWrite_poison ..)
@[simp] theorem sendMsix_clock (s : State) (f v : Nat) : (sendMsix s f v).clock = s.clock := (with_hif_clock ..).trans (hostWrite_clock ..)
@[simp] theorem sendMsix_pins (s : State) (f v : Nat) : (sendMsix s f v).pins = s.pins := (with_hif_pins ..).trans (hostWrite_pins ..)
@[simp] theorem sendMsix_boot (s : State) (f v : Nat) : (sendMsix s f v).boot = s.boot := (with_hif_boot ..).trans (hostWrite_boot ..)
@[simp] theorem sendMsix_mail (s : State) (f v : Nat) : (sendMsix s f v).mail = s.mail := (with_hif_mail ..).trans (hostWrite_mail ..)
@[simp] theorem sendMsix_smbus (s : State) (f v : Nat) : (sendMsix s f v).smbus = s.smbus := (with_hif_smbus ..).trans (hostWrite_smbus ..)
@[simp] theorem sendMsix_fabric (s : State) (f v : Nat) : (sendMsix s f v).fabric = s.fabric := (with_hif_fabric ..).trans (hostWrite_fabric ..)
@[simp] theorem sendMsix_sweep (s : State) (f v : Nat) : (sendMsix s f v).sweep = s.sweep := (with_hif_sweep ..).trans (hostWrite_sweep ..)
@[simp] theorem sendMsix_qm (s : State) (f v : Nat) : (sendMsix s f v).qm = s.qm := (with_hif_qm ..).trans (hostWrite_qm ..)
@[simp] theorem sendMsix_mmu (s : State) (f v : Nat) : (sendMsix s f v).mmu = s.mmu := (with_hif_mmu ..).trans (hostWrite_mmu ..)
@[simp] theorem sendMsix_attn (s : State) (f v : Nat) : (sendMsix s f v).attn = s.attn := (with_hif_attn ..).trans (hostWrite_attn ..)
@[simp] theorem sendMsix_media (s : State) (f v : Nat) : (sendMsix s f v).media = s.media := (with_hif_media ..).trans (hostWrite_media ..)
@[simp] theorem sendMsix_capture (s : State) (f v : Nat) : (sendMsix s f v).capture = s.capture := (with_hif_capture ..).trans (hostWrite_capture ..)
@[simp] theorem sendMsix_shaper (s : State) (f v : Nat) : (sendMsix s f v).shaper = s.shaper := (with_hif_shaper ..).trans (hostWrite_shaper ..)
@[simp] theorem sendMsix_ingest (s : State) (f v : Nat) : (sendMsix s f v).ingest = s.ingest := (with_hif_ingest ..).trans (hostWrite_ingest ..)
@[simp] theorem sendMsix_track (s : State) (f v : Nat) : (sendMsix s f v).track = s.track := (with_hif_track ..).trans (hostWrite_track ..)
@[simp] theorem sendMsix_pipes (s : State) (f v : Nat) : (sendMsix s f v).pipes = s.pipes := (with_hif_pipes ..).trans (hostWrite_pipes ..)
@[simp] theorem sendMsix_twin (s : State) (f v : Nat) : (sendMsix s f v).twin = s.twin := (with_hif_twin ..).trans (hostWrite_twin ..)
@[simp] theorem sendMsix_pwr (s : State) (f v : Nat) : (sendMsix s f v).pwr = s.pwr := (with_hif_pwr ..).trans (hostWrite_pwr ..)
@[simp] theorem sendMsix_dbg (s : State) (f v : Nat) : (sendMsix s f v).dbg = s.dbg := (with_hif_dbg ..).trans (hostWrite_dbg ..)
@[simp] theorem sendMsix_free (s : State) (f v : Nat) : (sendMsix s f v).free = s.free := (with_hif_free ..).trans (hostWrite_free ..)
@[simp] theorem sendMsix_pending (s : State) (f v : Nat) : (sendMsix s f v).pending = s.pending := (with_hif_pending ..).trans (hostWrite_pending ..)

/-! ### An interrupt event -/

@[simp] theorem raiseMsix_mem (s : State) (f v : Nat) : (raiseMsix s f v).mem = s.mem := by
  unfold raiseMsix; split
  · exact with_hif_mem ..
  · exact sendMsix_mem ..
@[simp] theorem raiseMsix_poison (s : State) (f v : Nat) : (raiseMsix s f v).poison = s.poison := by
  unfold raiseMsix; split
  · exact with_hif_poison ..
  · exact sendMsix_poison ..
@[simp] theorem raiseMsix_clock (s : State) (f v : Nat) : (raiseMsix s f v).clock = s.clock := by
  unfold raiseMsix; split
  · exact with_hif_clock ..
  · exact sendMsix_clock ..
@[simp] theorem raiseMsix_pins (s : State) (f v : Nat) : (raiseMsix s f v).pins = s.pins := by
  unfold raiseMsix; split
  · exact with_hif_pins ..
  · exact sendMsix_pins ..
@[simp] theorem raiseMsix_boot (s : State) (f v : Nat) : (raiseMsix s f v).boot = s.boot := by
  unfold raiseMsix; split
  · exact with_hif_boot ..
  · exact sendMsix_boot ..
@[simp] theorem raiseMsix_mail (s : State) (f v : Nat) : (raiseMsix s f v).mail = s.mail := by
  unfold raiseMsix; split
  · exact with_hif_mail ..
  · exact sendMsix_mail ..
@[simp] theorem raiseMsix_smbus (s : State) (f v : Nat) : (raiseMsix s f v).smbus = s.smbus := by
  unfold raiseMsix; split
  · exact with_hif_smbus ..
  · exact sendMsix_smbus ..
@[simp] theorem raiseMsix_fabric (s : State) (f v : Nat) : (raiseMsix s f v).fabric = s.fabric := by
  unfold raiseMsix; split
  · exact with_hif_fabric ..
  · exact sendMsix_fabric ..
@[simp] theorem raiseMsix_sweep (s : State) (f v : Nat) : (raiseMsix s f v).sweep = s.sweep := by
  unfold raiseMsix; split
  · exact with_hif_sweep ..
  · exact sendMsix_sweep ..
@[simp] theorem raiseMsix_qm (s : State) (f v : Nat) : (raiseMsix s f v).qm = s.qm := by
  unfold raiseMsix; split
  · exact with_hif_qm ..
  · exact sendMsix_qm ..
@[simp] theorem raiseMsix_mmu (s : State) (f v : Nat) : (raiseMsix s f v).mmu = s.mmu := by
  unfold raiseMsix; split
  · exact with_hif_mmu ..
  · exact sendMsix_mmu ..
@[simp] theorem raiseMsix_attn (s : State) (f v : Nat) : (raiseMsix s f v).attn = s.attn := by
  unfold raiseMsix; split
  · exact with_hif_attn ..
  · exact sendMsix_attn ..
@[simp] theorem raiseMsix_media (s : State) (f v : Nat) : (raiseMsix s f v).media = s.media := by
  unfold raiseMsix; split
  · exact with_hif_media ..
  · exact sendMsix_media ..
@[simp] theorem raiseMsix_capture (s : State) (f v : Nat) : (raiseMsix s f v).capture = s.capture := by
  unfold raiseMsix; split
  · exact with_hif_capture ..
  · exact sendMsix_capture ..
@[simp] theorem raiseMsix_shaper (s : State) (f v : Nat) : (raiseMsix s f v).shaper = s.shaper := by
  unfold raiseMsix; split
  · exact with_hif_shaper ..
  · exact sendMsix_shaper ..
@[simp] theorem raiseMsix_ingest (s : State) (f v : Nat) : (raiseMsix s f v).ingest = s.ingest := by
  unfold raiseMsix; split
  · exact with_hif_ingest ..
  · exact sendMsix_ingest ..
@[simp] theorem raiseMsix_track (s : State) (f v : Nat) : (raiseMsix s f v).track = s.track := by
  unfold raiseMsix; split
  · exact with_hif_track ..
  · exact sendMsix_track ..
@[simp] theorem raiseMsix_pipes (s : State) (f v : Nat) : (raiseMsix s f v).pipes = s.pipes := by
  unfold raiseMsix; split
  · exact with_hif_pipes ..
  · exact sendMsix_pipes ..
@[simp] theorem raiseMsix_twin (s : State) (f v : Nat) : (raiseMsix s f v).twin = s.twin := by
  unfold raiseMsix; split
  · exact with_hif_twin ..
  · exact sendMsix_twin ..
@[simp] theorem raiseMsix_pwr (s : State) (f v : Nat) : (raiseMsix s f v).pwr = s.pwr := by
  unfold raiseMsix; split
  · exact with_hif_pwr ..
  · exact sendMsix_pwr ..
@[simp] theorem raiseMsix_dbg (s : State) (f v : Nat) : (raiseMsix s f v).dbg = s.dbg := by
  unfold raiseMsix; split
  · exact with_hif_dbg ..
  · exact sendMsix_dbg ..
@[simp] theorem raiseMsix_free (s : State) (f v : Nat) : (raiseMsix s f v).free = s.free := by
  unfold raiseMsix; split
  · exact with_hif_free ..
  · exact sendMsix_free ..
@[simp] theorem raiseMsix_pending (s : State) (f v : Nat) : (raiseMsix s f v).pending = s.pending := by
  unfold raiseMsix; split
  · exact with_hif_pending ..
  · exact sendMsix_pending ..

/-! ### A status bit -/

@[simp] theorem setStatus_mem (s : State) (b : Nat) (v : Bool) : (setStatus s b v).mem = s.mem := by
  unfold setStatus; dsimp only; split
  · rfl
  · split
    · exact setBit_mem ..
    · exact (raiseMsix_mem ..).trans ((setBit_mem ..).trans (setBit_mem ..))
@[simp] theorem setStatus_poison (s : State) (b : Nat) (v : Bool) : (setStatus s b v).poison = s.poison := by
  unfold setStatus; dsimp only; split
  · rfl
  · split
    · exact setBit_poison ..
    · exact (raiseMsix_poison ..).trans ((setBit_poison ..).trans (setBit_poison ..))
@[simp] theorem setStatus_clock (s : State) (b : Nat) (v : Bool) : (setStatus s b v).clock = s.clock := by
  unfold setStatus; dsimp only; split
  · rfl
  · split
    · exact setBit_clock ..
    · exact (raiseMsix_clock ..).trans ((setBit_clock ..).trans (setBit_clock ..))
@[simp] theorem setStatus_pins (s : State) (b : Nat) (v : Bool) : (setStatus s b v).pins = s.pins := by
  unfold setStatus; dsimp only; split
  · rfl
  · split
    · exact setBit_pins ..
    · exact (raiseMsix_pins ..).trans ((setBit_pins ..).trans (setBit_pins ..))
@[simp] theorem setStatus_boot (s : State) (b : Nat) (v : Bool) : (setStatus s b v).boot = s.boot := by
  unfold setStatus; dsimp only; split
  · rfl
  · split
    · exact setBit_boot ..
    · exact (raiseMsix_boot ..).trans ((setBit_boot ..).trans (setBit_boot ..))
@[simp] theorem setStatus_mail (s : State) (b : Nat) (v : Bool) : (setStatus s b v).mail = s.mail := by
  unfold setStatus; dsimp only; split
  · rfl
  · split
    · exact setBit_mail ..
    · exact (raiseMsix_mail ..).trans ((setBit_mail ..).trans (setBit_mail ..))
@[simp] theorem setStatus_smbus (s : State) (b : Nat) (v : Bool) : (setStatus s b v).smbus = s.smbus := by
  unfold setStatus; dsimp only; split
  · rfl
  · split
    · exact setBit_smbus ..
    · exact (raiseMsix_smbus ..).trans ((setBit_smbus ..).trans (setBit_smbus ..))
@[simp] theorem setStatus_fabric (s : State) (b : Nat) (v : Bool) : (setStatus s b v).fabric = s.fabric := by
  unfold setStatus; dsimp only; split
  · rfl
  · split
    · exact setBit_fabric ..
    · exact (raiseMsix_fabric ..).trans ((setBit_fabric ..).trans (setBit_fabric ..))
@[simp] theorem setStatus_sweep (s : State) (b : Nat) (v : Bool) : (setStatus s b v).sweep = s.sweep := by
  unfold setStatus; dsimp only; split
  · rfl
  · split
    · exact setBit_sweep ..
    · exact (raiseMsix_sweep ..).trans ((setBit_sweep ..).trans (setBit_sweep ..))
@[simp] theorem setStatus_qm (s : State) (b : Nat) (v : Bool) : (setStatus s b v).qm = s.qm := by
  unfold setStatus; dsimp only; split
  · rfl
  · split
    · exact setBit_qm ..
    · exact (raiseMsix_qm ..).trans ((setBit_qm ..).trans (setBit_qm ..))
@[simp] theorem setStatus_mmu (s : State) (b : Nat) (v : Bool) : (setStatus s b v).mmu = s.mmu := by
  unfold setStatus; dsimp only; split
  · rfl
  · split
    · exact setBit_mmu ..
    · exact (raiseMsix_mmu ..).trans ((setBit_mmu ..).trans (setBit_mmu ..))
@[simp] theorem setStatus_attn (s : State) (b : Nat) (v : Bool) : (setStatus s b v).attn = s.attn := by
  unfold setStatus; dsimp only; split
  · rfl
  · split
    · exact setBit_attn ..
    · exact (raiseMsix_attn ..).trans ((setBit_attn ..).trans (setBit_attn ..))
@[simp] theorem setStatus_media (s : State) (b : Nat) (v : Bool) : (setStatus s b v).media = s.media := by
  unfold setStatus; dsimp only; split
  · rfl
  · split
    · exact setBit_media ..
    · exact (raiseMsix_media ..).trans ((setBit_media ..).trans (setBit_media ..))
@[simp] theorem setStatus_capture (s : State) (b : Nat) (v : Bool) : (setStatus s b v).capture = s.capture := by
  unfold setStatus; dsimp only; split
  · rfl
  · split
    · exact setBit_capture ..
    · exact (raiseMsix_capture ..).trans ((setBit_capture ..).trans (setBit_capture ..))
@[simp] theorem setStatus_shaper (s : State) (b : Nat) (v : Bool) : (setStatus s b v).shaper = s.shaper := by
  unfold setStatus; dsimp only; split
  · rfl
  · split
    · exact setBit_shaper ..
    · exact (raiseMsix_shaper ..).trans ((setBit_shaper ..).trans (setBit_shaper ..))
@[simp] theorem setStatus_ingest (s : State) (b : Nat) (v : Bool) : (setStatus s b v).ingest = s.ingest := by
  unfold setStatus; dsimp only; split
  · rfl
  · split
    · exact setBit_ingest ..
    · exact (raiseMsix_ingest ..).trans ((setBit_ingest ..).trans (setBit_ingest ..))
@[simp] theorem setStatus_track (s : State) (b : Nat) (v : Bool) : (setStatus s b v).track = s.track := by
  unfold setStatus; dsimp only; split
  · rfl
  · split
    · exact setBit_track ..
    · exact (raiseMsix_track ..).trans ((setBit_track ..).trans (setBit_track ..))
@[simp] theorem setStatus_pipes (s : State) (b : Nat) (v : Bool) : (setStatus s b v).pipes = s.pipes := by
  unfold setStatus; dsimp only; split
  · rfl
  · split
    · exact setBit_pipes ..
    · exact (raiseMsix_pipes ..).trans ((setBit_pipes ..).trans (setBit_pipes ..))
@[simp] theorem setStatus_twin (s : State) (b : Nat) (v : Bool) : (setStatus s b v).twin = s.twin := by
  unfold setStatus; dsimp only; split
  · rfl
  · split
    · exact setBit_twin ..
    · exact (raiseMsix_twin ..).trans ((setBit_twin ..).trans (setBit_twin ..))
@[simp] theorem setStatus_pwr (s : State) (b : Nat) (v : Bool) : (setStatus s b v).pwr = s.pwr := by
  unfold setStatus; dsimp only; split
  · rfl
  · split
    · exact setBit_pwr ..
    · exact (raiseMsix_pwr ..).trans ((setBit_pwr ..).trans (setBit_pwr ..))
@[simp] theorem setStatus_dbg (s : State) (b : Nat) (v : Bool) : (setStatus s b v).dbg = s.dbg := by
  unfold setStatus; dsimp only; split
  · rfl
  · split
    · exact setBit_dbg ..
    · exact (raiseMsix_dbg ..).trans ((setBit_dbg ..).trans (setBit_dbg ..))
@[simp] theorem setStatus_free (s : State) (b : Nat) (v : Bool) : (setStatus s b v).free = s.free := by
  unfold setStatus; dsimp only; split
  · rfl
  · split
    · exact setBit_free ..
    · exact (raiseMsix_free ..).trans ((setBit_free ..).trans (setBit_free ..))
@[simp] theorem setStatus_pending (s : State) (b : Nat) (v : Bool) : (setStatus s b v).pending = s.pending := by
  unfold setStatus; dsimp only; split
  · rfl
  · split
    · exact setBit_pending ..
    · exact (raiseMsix_pending ..).trans ((setBit_pending ..).trans (setBit_pending ..))

/-! ### A held low half dropped -/

@[simp] theorem dropHeld_mem (s : State) (fn : Fn) : (s.dropHeld fn).mem = s.mem := by
  unfold State.dropHeld; split
  · exact (viol_mem ..).trans (with_hif_mem ..)
  · rfl
@[simp] theorem dropHeld_hostMem (s : State) (fn : Fn) : (s.dropHeld fn).hostMem = s.hostMem := by
  unfold State.dropHeld; split
  · exact (viol_hostMem ..).trans (with_hif_hostMem ..)
  · rfl
@[simp] theorem dropHeld_poison (s : State) (fn : Fn) : (s.dropHeld fn).poison = s.poison := by
  unfold State.dropHeld; split
  · exact (viol_poison ..).trans (with_hif_poison ..)
  · rfl
@[simp] theorem dropHeld_clock (s : State) (fn : Fn) : (s.dropHeld fn).clock = s.clock := by
  unfold State.dropHeld; split
  · exact (viol_clock ..).trans (with_hif_clock ..)
  · rfl
@[simp] theorem dropHeld_pins (s : State) (fn : Fn) : (s.dropHeld fn).pins = s.pins := by
  unfold State.dropHeld; split
  · exact (viol_pins ..).trans (with_hif_pins ..)
  · rfl
@[simp] theorem dropHeld_boot (s : State) (fn : Fn) : (s.dropHeld fn).boot = s.boot := by
  unfold State.dropHeld; split
  · exact (viol_boot ..).trans (with_hif_boot ..)
  · rfl
@[simp] theorem dropHeld_mail (s : State) (fn : Fn) : (s.dropHeld fn).mail = s.mail := by
  unfold State.dropHeld; split
  · exact (viol_mail ..).trans (with_hif_mail ..)
  · rfl
@[simp] theorem dropHeld_smbus (s : State) (fn : Fn) : (s.dropHeld fn).smbus = s.smbus := by
  unfold State.dropHeld; split
  · exact (viol_smbus ..).trans (with_hif_smbus ..)
  · rfl
@[simp] theorem dropHeld_fabric (s : State) (fn : Fn) : (s.dropHeld fn).fabric = s.fabric := by
  unfold State.dropHeld; split
  · exact (viol_fabric ..).trans (with_hif_fabric ..)
  · rfl
@[simp] theorem dropHeld_sweep (s : State) (fn : Fn) : (s.dropHeld fn).sweep = s.sweep := by
  unfold State.dropHeld; split
  · exact (viol_sweep ..).trans (with_hif_sweep ..)
  · rfl
@[simp] theorem dropHeld_ember (s : State) (fn : Fn) : (s.dropHeld fn).ember = s.ember := by
  unfold State.dropHeld; split
  · exact (viol_ember ..).trans (with_hif_ember ..)
  · rfl
@[simp] theorem dropHeld_qm (s : State) (fn : Fn) : (s.dropHeld fn).qm = s.qm := by
  unfold State.dropHeld; split
  · exact (viol_qm ..).trans (with_hif_qm ..)
  · rfl
@[simp] theorem dropHeld_mmu (s : State) (fn : Fn) : (s.dropHeld fn).mmu = s.mmu := by
  unfold State.dropHeld; split
  · exact (viol_mmu ..).trans (with_hif_mmu ..)
  · rfl
@[simp] theorem dropHeld_attn (s : State) (fn : Fn) : (s.dropHeld fn).attn = s.attn := by
  unfold State.dropHeld; split
  · exact (viol_attn ..).trans (with_hif_attn ..)
  · rfl
@[simp] theorem dropHeld_media (s : State) (fn : Fn) : (s.dropHeld fn).media = s.media := by
  unfold State.dropHeld; split
  · exact (viol_media ..).trans (with_hif_media ..)
  · rfl
@[simp] theorem dropHeld_capture (s : State) (fn : Fn) : (s.dropHeld fn).capture = s.capture := by
  unfold State.dropHeld; split
  · exact (viol_capture ..).trans (with_hif_capture ..)
  · rfl
@[simp] theorem dropHeld_shaper (s : State) (fn : Fn) : (s.dropHeld fn).shaper = s.shaper := by
  unfold State.dropHeld; split
  · exact (viol_shaper ..).trans (with_hif_shaper ..)
  · rfl
@[simp] theorem dropHeld_ingest (s : State) (fn : Fn) : (s.dropHeld fn).ingest = s.ingest := by
  unfold State.dropHeld; split
  · exact (viol_ingest ..).trans (with_hif_ingest ..)
  · rfl
@[simp] theorem dropHeld_track (s : State) (fn : Fn) : (s.dropHeld fn).track = s.track := by
  unfold State.dropHeld; split
  · exact (viol_track ..).trans (with_hif_track ..)
  · rfl
@[simp] theorem dropHeld_pipes (s : State) (fn : Fn) : (s.dropHeld fn).pipes = s.pipes := by
  unfold State.dropHeld; split
  · exact (viol_pipes ..).trans (with_hif_pipes ..)
  · rfl
@[simp] theorem dropHeld_twin (s : State) (fn : Fn) : (s.dropHeld fn).twin = s.twin := by
  unfold State.dropHeld; split
  · exact (viol_twin ..).trans (with_hif_twin ..)
  · rfl
@[simp] theorem dropHeld_pwr (s : State) (fn : Fn) : (s.dropHeld fn).pwr = s.pwr := by
  unfold State.dropHeld; split
  · exact (viol_pwr ..).trans (with_hif_pwr ..)
  · rfl
@[simp] theorem dropHeld_dbg (s : State) (fn : Fn) : (s.dropHeld fn).dbg = s.dbg := by
  unfold State.dropHeld; split
  · exact (viol_dbg ..).trans (with_hif_dbg ..)
  · rfl
@[simp] theorem dropHeld_free (s : State) (fn : Fn) : (s.dropHeld fn).free = s.free := by
  unfold State.dropHeld; split
  · exact (viol_free ..).trans (with_hif_free ..)
  · rfl
@[simp] theorem dropHeld_pending (s : State) (fn : Fn) : (s.dropHeld fn).pending = s.pending := by
  unfold State.dropHeld; split
  · exact (viol_pending ..).trans (with_hif_pending ..)
  · rfl

end Sys2Proof.Machine
end

