-- ==== Sys2Proof/Laws/Table.lean ====
section
/-!
SUPPORT. Laws of the sparse array: what is read after a write, at the same key and at another, and that writes keep the canonical form.
-/
namespace Sys2Proof.Machine

/-! ### Reading after a write -/

@[simp] theorem tfind_tput_self {α : Type} (t : Tab α) (k : Nat) (v : α) : tfind (tput t k v) k = some v := by
  induction t with
  | nil => simp [tput, tfind]
  | cons x t ih =>
    obtain ⟨j, w⟩ := x
    by_cases h1 : j = k
    · simp [tput, tfind, h1]
    · by_cases h2 : k < j <;> simp [tput, tfind, h1, h2, ih]

theorem tfind_tput_ne {α : Type} (t : Tab α) {k k' : Nat} (v : α) (h : k' ≠ k) : tfind (tput t k v) k' = tfind t k' := by
  induction t with
  | nil => simp [tput, tfind, Ne.symm h]
  | cons x t ih =>
    obtain ⟨j, w⟩ := x
    by_cases h1 : j = k
    · simp [tput, tfind, h1, Ne.symm h]
    · by_cases h2 : k < j
      · simp [tput, tfind, h1, h2, Ne.symm h]
      · simp only [tput, tfind, h1, h2, if_false, ih]

@[simp] theorem tfind_terase_self {α : Type} (t : Tab α) (k : Nat) : tfind (terase t k) k = none := by
  induction t with
  | nil => rfl
  | cons x t ih =>
    obtain ⟨j, w⟩ := x
    by_cases h1 : j = k <;> simp [terase, tfind, h1, ih]

theorem tfind_terase_ne {α : Type} (t : Tab α) {k k' : Nat} (h : k' ≠ k) : tfind (terase t k) k' = tfind t k' := by
  induction t with
  | nil => rfl
  | cons x t ih =>
    obtain ⟨j, w⟩ := x
    by_cases h1 : j = k
    · simp [terase, tfind, h1, ih, Ne.symm h]
    · simp only [terase, tfind, h1, if_false, ih]

theorem tget_eq_tfind {α : Type} (d : α) (t : Tab α) (k : Nat) : tget d t k = (tfind t k).getD d := by
  induction t with
  | nil => rfl
  | cons x t ih =>
    obtain ⟨j, w⟩ := x
    by_cases h1 : j = k <;> simp [tget, tfind, h1, ih]

@[simp] theorem tget_tset_self {α : Type} [DecidableEq α] (d : α) (t : Tab α) (k : Nat) (v : α) : tget d (tset d t k v) k = v := by
  unfold tset
  split
  · simp [tget_eq_tfind, *]
  · simp [tget_eq_tfind]

theorem tget_tset_ne {α : Type} [DecidableEq α] (d : α) (t : Tab α) {k k' : Nat} (v : α) (h : k' ≠ k) :
    tget d (tset d t k v) k' = tget d t k' := by
  unfold tset
  split
  · simp [tget_eq_tfind, tfind_terase_ne t h]
  · simp [tget_eq_tfind, tfind_tput_ne t v h]

@[simp] theorem tget_tmod_self {α : Type} [DecidableEq α] (d : α) (t : Tab α) (k : Nat) (f : α → α) :
    tget d (tmod d t k f) k = f (tget d t k) := by
  simp [tmod]

theorem tget_tmod_ne {α : Type} [DecidableEq α] (d : α) (t : Tab α) {k k' : Nat} (f : α → α) (h : k' ≠ k) :
    tget d (tmod d t k f) k' = tget d t k' := by
  simp [tmod, tget_tset_ne d t _ h]

/-! ### Bytes -/

theorem mget_mset (m : Memory) (a b : Nat) (x : Byte) : mget (mset m a x) b = if b = a then x else mget m b := by
  unfold mget mset
  split
  · simp [*]
  · exact tget_tset_ne _ _ _ (by assumption)

/-- A byte outside a written range is unchanged. -/
theorem mget_mwrite_outside (m : Memory) (a b : Nat) (bs : List Byte) (h : b < a ∨ a + bs.length ≤ b) :
    mget (mwrite m a bs) b = mget m b := by
  induction bs generalizing m a with
  | nil => rfl
  | cons x bs ih =>
    simp only [List.length_cons] at h
    rw [mwrite, ih _ _ (by omega), mget_mset, if_neg (by omega)]

/-- A byte inside a written range is the one written there. -/
theorem mget_mwrite_inside (m : Memory) (a i : Nat) (bs : List Byte) (h : i < bs.length) : mget (mwrite m a bs) (a + i) = bs[i] := by
  induction bs generalizing m a i with
  | nil => simp at h
  | cons x bs ih =>
    cases i with
    | zero => rw [mwrite, mget_mwrite_outside _ _ _ _ (by omega), mget_mset, if_pos (by omega)]; rfl
    | succ i =>
      have := ih (mset m a x) (a + 1) i (by simpa using h)
      rw [mwrite, ← Nat.add_assoc, Nat.add_right_comm, this]; rfl

theorem mread_length (m : Memory) (a n : Nat) : (mread m a n).length = n := by
  induction n generalizing a with
  | zero => rfl
  | succ n ih => simp [mread, ih]

/-- A range read back after it was written. -/
theorem mread_mwrite (m : Memory) (a : Nat) (bs : List Byte) : mread (mwrite m a bs) a bs.length = bs := by
  induction bs generalizing m a with
  | nil => rfl
  | cons x bs ih => simp [mwrite, mread, ih, mget_mwrite_outside, mget_mset]

/-! ### The canonical form -/

/-- Every key of a table lies above `k`. -/
def allAbove {α : Type} (k : Nat) (t : Tab α) : Prop := ∀ x ∈ t, k < x.1

theorem twf_cons {α : Type} [DecidableEq α] (d : α) (j : Nat) (v : α) (t : Tab α) :
    twf d ((j, v) :: t) = true ↔ v ≠ d ∧ allAbove j t ∧ twf d t = true := by
  induction t generalizing j v with
  | nil => simp [twf, allAbove]
  | cons x t ih =>
    obtain ⟨k, w⟩ := x
    rw [twf]
    simp only [Bool.and_eq_true, decide_eq_true_eq, ih k w]
    constructor
    · rintro ⟨⟨h1, h2⟩, h3, h4, h5⟩
      refine ⟨h1, ?_, h3, h4, h5⟩
      intro y hy
      rcases List.mem_cons.mp hy with rfl | hy
      · exact h2
      · exact Nat.lt_trans h2 (h4 y hy)
    · rintro ⟨h1, h2, h3, h4, h5⟩
      exact ⟨⟨h1, h2 _ (List.mem_cons_self ..)⟩, h3, h4, h5⟩

theorem allAbove_terase {α : Type} (j : Nat) (t : Tab α) (k : Nat) (h : allAbove j t) : allAbove j (terase t k) := by
  induction t with
  | nil => exact h
  | cons x t ih =>
    obtain ⟨i, w⟩ := x
    have ht : allAbove j t := fun y hy => h y (List.mem_cons_of_mem _ hy)
    by_cases h1 : i = k
    · simpa [terase, h1] using ih ht
    · simp only [terase, h1, if_false]
      intro y hy
      rcases List.mem_cons.mp hy with rfl | hy
      · exact h _ (List.mem_cons_self ..)
      · exact ih ht y hy

theorem allAbove_tput {α : Type} (j : Nat) (t : Tab α) (k : Nat) (v : α) (h : allAbove j t) (hk : j < k) : allAbove j (tput t k v) := by
  induction t with
  | nil => intro y hy; simp [tput] at hy; simp [hy, hk]
  | cons x t ih =>
    obtain ⟨i, w⟩ := x
    have ht : allAbove j t := fun y hy => h y (List.mem_cons_of_mem _ hy)
    have hi := h (i, w) (List.mem_cons_self ..)
    intro y hy
    simp only [tput] at hy
    split at hy
    · rcases List.mem_cons.mp hy with rfl | hy
      · exact hk
      · exact ht y hy
    · split at hy
      · rcases List.mem_cons.mp hy with rfl | hy
        · exact hk
        · exact h y hy
      · rcases List.mem_cons.mp hy with rfl | hy
        · exact hi
        · exact ih ht y hy

theorem twf_terase {α : Type} [DecidableEq α] (d : α) (t : Tab α) (k : Nat) (h : twf d t = true) : twf d (terase t k) = true := by
  induction t with
  | nil => rfl
  | cons x t ih =>
    obtain ⟨j, w⟩ := x
    rw [twf_cons] at h
    by_cases h1 : j = k
    · simpa [terase, h1] using ih h.2.2
    · simp only [terase, h1, if_false]
      exact (twf_cons ..).mpr ⟨h.1, allAbove_terase _ _ _ h.2.1, ih h.2.2⟩

theorem twf_tput {α : Type} [DecidableEq α] (d : α) (t : Tab α) (k : Nat) (v : α) (hv : v ≠ d) (h : twf d t = true) :
    twf d (tput t k v) = true := by
  induction t with
  | nil => simp [tput, twf, hv]
  | cons x t ih =>
    obtain ⟨j, w⟩ := x
    have h' := (twf_cons ..).mp h
    simp only [tput]
    split
    · next hj => exact (twf_cons ..).mpr ⟨hv, hj ▸ h'.2.1, h'.2.2⟩
    · split
      · next hk =>
        refine (twf_cons ..).mpr ⟨hv, ?_, h⟩
        intro y hy
        rcases List.mem_cons.mp hy with rfl | hy
        · exact hk
        · exact Nat.lt_trans hk (h'.2.1 y hy)
      · exact (twf_cons ..).mpr ⟨h'.1, allAbove_tput _ _ _ _ h'.2.1 (by omega), ih h'.2.2⟩

/-- A write of a table keeps its canonical form. -/
theorem twf_tset {α : Type} [DecidableEq α] (d : α) (t : Tab α) (k : Nat) (v : α) (h : twf d t = true) : twf d (tset d t k v) = true := by
  unfold tset
  split
  · exact twf_terase d t k h
  · exact twf_tput d t k v (by assumption) h

theorem twf_tmod {α : Type} [DecidableEq α] (d : α) (t : Tab α) (k : Nat) (f : α → α) (h : twf d t = true) : twf d (tmod d t k f) = true :=
  twf_tset d t k _ h

theorem wf_mset (m : Memory) (a : Nat) (b : Byte) (h : Memory.wf m = true) : Memory.wf (mset m a b) = true := twf_tset _ m a b h

/-- Memory writes keep the canonical form. -/
theorem wf_mwrite (m : Memory) (a : Nat) (bs : List Byte) (h : Memory.wf m = true) : Memory.wf (mwrite m a bs) = true := by
  induction bs generalizing m a with
  | nil => exact h
  | cons x bs ih => exact ih _ _ (wf_mset m a x h)

theorem wf_mfill (m : Memory) (a n : Nat) (b : Byte) (h : Memory.wf m = true) : Memory.wf (mfill m a b n) = true := by
  induction n generalizing m a with
  | zero => exact h
  | succ n ih => exact ih _ _ (wf_mset m a b h)

/-! ### Bit fields -/

theorem nbits_lt (x hi lo : Nat) : nbits x hi lo < 2 ^ (hi + 1 - lo) := Nat.mod_lt _ (Nat.two_pow_pos _)

theorem nbits_testBit (x hi lo i : Nat) : (nbits x hi lo).testBit i = (decide (i < hi + 1 - lo) && x.testBit (lo + i)) := by
  simp [nbits, Nat.testBit_mod_two_pow, Nat.testBit_shiftRight]

/-- A field's place in a number: what lies above, the field, what lies below. -/
theorem nbits_split (x hi lo : Nat) (h : lo ≤ hi + 1) : x = x / 2 ^ (hi + 1) * 2 ^ (hi + 1) + nbits x hi lo * 2 ^ lo + x % 2 ^ lo := by
  have e : 2 ^ (hi + 1) = 2 ^ lo * 2 ^ (hi + 1 - lo) := by rw [← Nat.pow_add]; congr 1; omega
  have h1 := Nat.div_add_mod x (2 ^ lo)
  have h2 := Nat.div_add_mod (x / 2 ^ lo) (2 ^ (hi + 1 - lo))
  have h3 : x / 2 ^ (hi + 1) = x / 2 ^ lo / 2 ^ (hi + 1 - lo) := by rw [e, Nat.div_div_eq_div_mul]
  rw [h3, e, nbits, Nat.shiftRight_eq_div_pow]
  generalize x / 2 ^ lo = q at *
  generalize q % 2 ^ (hi + 1 - lo) = r at *
  generalize q / 2 ^ (hi + 1 - lo) = t at *
  generalize x % 2 ^ lo = u at *
  subst h2
  rw [← h1]
  ring

theorem nput_eq (x hi lo v : Nat) (h : lo ≤ hi + 1) :
    nput x hi lo v = x / 2 ^ (hi + 1) * 2 ^ (hi + 1) + v % 2 ^ (hi + 1 - lo) * 2 ^ lo + x % 2 ^ lo := by
  have := nbits_split x hi lo h
  unfold nput
  rw [Nat.shiftLeft_eq, Nat.shiftLeft_eq]
  omega

theorem nput_testBit (x hi lo v i : Nat) (h : lo ≤ hi + 1) :
    (nput x hi lo v).testBit i = if lo ≤ i ∧ i ≤ hi then v.testBit (i - lo) else x.testBit i := by
  have e : 2 ^ (hi + 1) = 2 ^ (hi + 1 - lo) * 2 ^ lo := by rw [← Nat.pow_add]; congr 1; omega
  have hn : nput x hi lo v = 2 ^ lo * (2 ^ (hi + 1 - lo) * (x / 2 ^ (hi + 1)) + v % 2 ^ (hi + 1 - lo)) + x % 2 ^ lo := by
    rw [nput_eq x hi lo v h, e]; ring
  rw [hn, Nat.testBit_two_pow_mul_add _ (Nat.mod_lt _ (Nat.two_pow_pos _))]
  split
  · rw [Nat.testBit_mod_two_pow, if_neg (by omega)]; simp [*]
  · rw [Nat.testBit_two_pow_mul_add _ (Nat.mod_lt _ (Nat.two_pow_pos _))]
    split
    · rw [if_pos (by omega), Nat.testBit_mod_two_pow]; simp [*]
    · rw [if_neg (by omega), Nat.testBit_div_two_pow]; congr 1; omega

/-- A field read back after it was replaced. -/
theorem nbits_nput (x hi lo v : Nat) (h : lo ≤ hi + 1) : nbits (nput x hi lo v) hi lo = v % 2 ^ (hi + 1 - lo) := by
  apply Nat.eq_of_testBit_eq
  intro i
  rw [nbits_testBit, nput_testBit _ _ _ _ _ h, Nat.testBit_mod_two_pow]
  by_cases hi' : i < hi + 1 - lo
  · rw [if_pos (by omega)]; simp [hi']
  · simp [hi']

/-- A field apart from a replaced one is unchanged. -/
theorem nbits_nput_ne (x hi lo v hi' lo' : Nat) (h : lo ≤ hi + 1) (hd : hi < lo' ∨ hi' < lo) :
    nbits (nput x hi lo v) hi' lo' = nbits x hi' lo' := by
  apply Nat.eq_of_testBit_eq
  intro i
  rw [nbits_testBit, nbits_testBit, nput_testBit _ _ _ _ _ h]
  by_cases hi'' : i < hi' + 1 - lo'
  · rw [if_neg (by omega)]
  · simp [hi'']

theorem nput_lt (x hi lo v w : Nat) (h : lo ≤ hi + 1) (hw : hi < w) (hx : x < 2 ^ w) : nput x hi lo v < 2 ^ w := by
  apply Nat.lt_pow_two_of_testBit
  intro i hi'
  rw [nput_testBit _ _ _ _ _ h, if_neg (by omega)]
  exact Nat.testBit_eq_false_of_lt (Nat.lt_of_lt_of_le hx (Nat.pow_le_pow_right (by omega) hi'))

end Sys2Proof.Machine
end

