-- ==== Sys2Proof/Laws/Reg.lean ====
section
/-!
SUPPORT. Laws of the register file: what a register and a field read after a write of the same one and of another, and which registers the
shared operations touch.
-/
namespace Sys2Proof.Machine

/-! ### Registers -/

@[simp] theorem rget_rset_self (t : Tab W64) (k : Nat) (v : W64) : rget (rset t k v) k = v := by
  unfold rset
  by_cases h : v = regReset k
  · rw [if_pos h]; unfold rget; rw [tfind_terase_self]; exact h.symm
  · rw [if_neg h]; unfold rget; rw [tfind_tput_self]

theorem rget_rset_ne (t : Tab W64) {k k' : Nat} (v : W64) (h : k' ≠ k) : rget (rset t k v) k' = rget t k' := by
  unfold rset
  by_cases hv : v = regReset k
  · rw [if_pos hv]; unfold rget; rw [tfind_terase_ne t h]
  · rw [if_neg hv]; unfold rget; rw [tfind_tput_ne t v h]

theorem reg_congr {s t : State} (h : t.regs = s.regs) (k : Nat) : t.reg k = s.reg k := congrArg (rget · k) h
theorem fld_congr {s t : State} (h : t.regs = s.regs) (k hi lo : Nat) : t.fld k hi lo = s.fld k hi lo := by
  unfold State.fld; rw [reg_congr h]
theorem bit_congr {s t : State} (h : t.regs = s.regs) (k b : Nat) : t.bit k b = s.bit k b := by
  unfold State.bit; rw [fld_congr h]

theorem setReg_regs (s : State) (k : Nat) (v : W64) : (s.setReg k v).regs = rset s.regs k v := by unfold State.setReg; rfl

@[simp] theorem reg_setReg_self (s : State) (k : Nat) (v : W64) : (s.setReg k v).reg k = v := by
  unfold State.reg; rw [setReg_regs, rget_rset_self]

theorem reg_setReg_ne (s : State) {k k' : Nat} (v : W64) (h : k' ≠ k) : (s.setReg k v).reg k' = s.reg k' := by
  unfold State.reg; rw [setReg_regs, rget_rset_ne _ _ h]

/-! ### Fields -/

/-- The key that holds a field. -/
def fieldKey (k lo : Nat) : Nat := k + lo / 64 * 8

theorem fld_eq (s : State) (k hi lo : Nat) : s.fld k hi lo = nbits (s.reg (fieldKey k lo)).toNat (hi - lo / 64 * 64) (lo % 64) := rfl

theorem fld_of_reg {s t : State} (k hi lo : Nat) (h : t.reg (fieldKey k lo) = s.reg (fieldKey k lo)) : t.fld k hi lo = s.fld k hi lo := by
  rw [fld_eq, fld_eq, h]

theorem bit_of_reg {s t : State} (k b : Nat) (h : t.reg (fieldKey k b) = s.reg (fieldKey k b)) : t.bit k b = s.bit k b := by
  unfold State.bit; rw [fld_of_reg k b b h]

theorem fld_lt (s : State) (k hi lo : Nat) : s.fld k hi lo < 2 ^ (hi - lo / 64 * 64 + 1 - lo % 64) := nbits_lt ..

theorem setFld_eq (s : State) (k hi lo v : Nat) : s.setFld k hi lo v =
    s.setReg (fieldKey k lo) (BitVec.ofNat 64 (nput (s.reg (fieldKey k lo)).toNat (hi - lo / 64 * 64) (lo % 64) v)) := by
  unfold State.setFld fieldKey; rfl

theorem reg_setFld_ne (s : State) {k hi lo v k' : Nat} (h : k' ≠ fieldKey k lo) : (s.setFld k hi lo v).reg k' = s.reg k' := by
  rw [setFld_eq, reg_setReg_ne _ _ h]

theorem reg_setFld_self (s : State) {k hi lo v : Nat} (h1 : lo ≤ hi) (h2 : hi / 64 = lo / 64) :
    ((s.setFld k hi lo v).reg (fieldKey k lo)).toNat = nput (s.reg (fieldKey k lo)).toNat (hi - lo / 64 * 64) (lo % 64) v := by
  rw [setFld_eq, reg_setReg_self, BitVec.toNat_ofNat]
  exact Nat.mod_eq_of_lt (nput_lt _ _ _ _ _ (by omega) (by omega) (BitVec.isLt _))

/-- A field reads what was put there. -/
theorem fld_setFld_self (s : State) {k hi lo v : Nat} (h1 : lo ≤ hi) (h2 : hi / 64 = lo / 64) :
    (s.setFld k hi lo v).fld k hi lo = v % 2 ^ (hi + 1 - lo) := by
  rw [fld_eq, reg_setFld_self s h1 h2, nbits_nput _ _ _ _ (by omega)]
  congr 2; omega

/-- A field apart from the one that was put keeps its value. -/
theorem fld_setFld_ne (s : State) {k hi lo v k' hi' lo' : Nat} (h1 : lo ≤ hi) (h2 : hi / 64 = lo / 64) (_h1' : lo' ≤ hi') (h2' : hi' / 64 = lo' / 64)
    (hd : fieldKey k' lo' ≠ fieldKey k lo ∨ hi % 64 < lo' % 64 ∨ hi' % 64 < lo % 64) :
    (s.setFld k hi lo v).fld k' hi' lo' = s.fld k' hi' lo' := by
  by_cases hk : fieldKey k' lo' = fieldKey k lo
  · rw [fld_eq, fld_eq, hk, reg_setFld_self s h1 h2, nbits_nput_ne _ _ _ _ _ _ (by omega) (by omega)]
  · rw [fld_eq, fld_eq, reg_setFld_ne s hk]

@[simp] theorem bit_setBit_self (s : State) (k b : Nat) (v : Bool) : (s.setBit k b v).bit k b = v := by
  unfold State.setBit State.bit
  rw [fld_setFld_self s (Nat.le_refl b) rfl]
  cases v <;> simp

theorem reg_setBit_ne (s : State) {k b k' : Nat} {v : Bool} (h : k' ≠ fieldKey k b) : (s.setBit k b v).reg k' = s.reg k' := reg_setFld_ne s h
theorem reg_addSat_ne (s : State) {k hi lo n k' : Nat} (h : k' ≠ fieldKey k lo) : (s.addSat k hi lo n).reg k' = s.reg k' := reg_setFld_ne s h

/-- A counter goes up and stops at its largest value. -/
theorem fld_addSat_self (s : State) {k hi lo n : Nat} (h1 : lo ≤ hi) (h2 : hi / 64 = lo / 64) :
    (s.addSat k hi lo n).fld k hi lo = min (s.fld k hi lo + n) (2 ^ (hi + 1 - lo) - 1) := by
  unfold State.addSat
  rw [fld_setFld_self s h1 h2]
  unfold satAdd
  exact Nat.mod_eq_of_lt (by have := Nat.two_pow_pos (hi + 1 - lo); omega)

theorem reg_bump_ne (s : State) {i n k' : Nat} (h : k' ≠ Reg.dbgBcnt i) : (bump s i n).reg k' = s.reg k' := by
  unfold bump; exact reg_setFld_ne s (by simpa [fieldKey] using h)

/-- A byte counter adds modulo 2^48. -/
theorem fld_bump_self (s : State) (i n : Nat) : (bump s i n).fld (Reg.dbgBcnt i) 47 0 = (s.fld (Reg.dbgBcnt i) 47 0 + n) % 2 ^ 48 := by
  unfold bump; exact fld_setFld_self s (by omega) (by omega)

/-! ### Which registers the shared operations touch -/

@[simp] theorem reg_keepQueue (s t : State) (k : Nat) : (keepQueue s t).reg k = t.reg k := reg_congr (keepQueue_regs s t) k
@[simp] theorem fld_keepQueue (s t : State) (k hi lo : Nat) : (keepQueue s t).fld k hi lo = t.fld k hi lo := fld_congr (keepQueue_regs s t) k hi lo
@[simp] theorem bit_keepQueue (s t : State) (k b : Nat) : (keepQueue s t).bit k b = t.bit k b := bit_congr (keepQueue_regs s t) k b
@[simp] theorem reg_report (s : State) (src code a0 a1 a2 k : Nat) : (report s src code a0 a1 a2).reg k = s.reg k := reg_congr (report_regs ..) k
@[simp] theorem fld_report (s : State) (src code a0 a1 a2 k hi lo : Nat) : (report s src code a0 a1 a2).fld k hi lo = s.fld k hi lo :=
  fld_congr (report_regs ..) k hi lo
@[simp] theorem reg_reportUnnamed (s : State) (src e a0 a1 a2 k : Nat) : (reportUnnamed s src e a0 a1 a2).reg k = s.reg k :=
  reg_congr (reportUnnamed_regs ..) k

/-- A report waits in its source's queue while that holds fewer than 4. -/
theorem report_queued (s : State) (src code a0 a1 a2 : Nat) (h : (tget [] s.ember.queues src).length < 4) :
    (report s src code a0 a1 a2).ember.queues =
      tset [] s.ember.queues src (tget [] s.ember.queues src ++ [⟨BitVec.ofNat 16 code, BitVec.ofNat 32 a0, BitVec.ofNat 32 a1, BitVec.ofNat 32 a2, s.clock.timeF⟩]) := by
  unfold report; dsimp only; rw [if_pos h]

theorem reg_viol (s : State) (addr kind part k : Nat) (h1 : k ≠ Reg.dbgViolCount) (h2 : k ≠ Reg.dbgViolLast) :
    (viol s addr kind part).reg k = s.reg k := by
  unfold viol; rw [reg_setReg_ne _ _ h2, reg_addSat_ne _ (by simpa [fieldKey] using h1)]

theorem reg_hostWrite (s : State) (a : Nat) (bs : List Byte) (k : Nat) (h1 : k ≠ Reg.dbgBcnt 89) (h2 : k ≠ Reg.hifHdrop) :
    (hostWrite s a bs).reg k = s.reg k := by
  unfold hostWrite; dsimp only; split
  · exact (reg_bump_ne _ h1).trans (reg_congr (with_hostMem_regs ..) k)
  · split
    · exact reg_addSat_ne _ (by simpa [fieldKey] using h2)
    · exact (reg_congr (with_hif_regs ..) k).trans ((reg_report ..).trans (reg_addSat_ne _ (by simpa [fieldKey] using h2)))

theorem reg_raiseMsix (s : State) (f v k : Nat) (h1 : k ≠ Reg.dbgBcnt 89) (h2 : k ≠ Reg.hifHdrop) : (raiseMsix s f v).reg k = s.reg k := by
  unfold raiseMsix; split
  · exact reg_congr (with_hif_regs ..) k
  · unfold sendMsix; dsimp only
    exact (reg_congr (with_hif_regs ..) k).trans (reg_hostWrite _ _ _ _ h1 h2)

theorem reg_setStatus (s : State) (b : Nat) (v : Bool) (k : Nat) (hb : b < 64) (h1 : k ≠ Reg.dbgBcnt 89) (h2 : k ≠ Reg.hifHdrop)
    (h3 : k ≠ Reg.glbStatus) (h4 : k ≠ Reg.hifNote) : (setStatus s b v).reg k = s.reg k := by
  have h : b / 64 = 0 := by omega
  unfold setStatus; dsimp only; split
  · rfl
  · split
    · exact reg_setBit_ne _ (by simpa [fieldKey, h] using h3)
    · rw [reg_raiseMsix _ _ _ _ h1 h2, reg_setBit_ne _ (by simpa [fieldKey, h] using h4), reg_setBit_ne _ (by simpa [fieldKey, h] using h3)]

end Sys2Proof.Machine
end

