-- ==== Sys2Proof/Laws/Canon0.lean ====
section
/-!
SUPPORT. The canonical form of the memories and of the register file under the primitive updates.
-/
namespace Sys2Proof.Machine

theorem rwf_cons (j : Nat) (v : W64) (t : Tab W64) :
    rwf ((j, v) :: t) = true ↔ v ≠ regReset j ∧ allAbove j t ∧ rwf t = true := by
  induction t generalizing j v with
  | nil => simp [rwf, allAbove]
  | cons x t ih =>
    obtain ⟨k, w⟩ := x
    rw [rwf]
    simp only [Bool.and_eq_true, decide_eq_true_eq, ih k w]
    constructor
    · rintro ⟨⟨h1, h2⟩, h3, h4, h5⟩
      refine ⟨h1, ?_, h3, h4, h5⟩
      intro y hy
      rcases List.mem_cons.mp hy with rfl | hy
      · exact h2
      · exact Nat.lt_trans h2 (h4 y hy)
    · rintro ⟨h1, h2, h3, h4, h5⟩
      exact ⟨⟨h1, h2 _ (List.mem_cons_self ..)⟩, h3, h4, h5⟩

theorem rwf_terase (t : Tab W64) (k : Nat) (h : rwf t = true) : rwf (terase t k) = true := by
  induction t with
  | nil => rfl
  | cons x t ih =>
    obtain ⟨j, w⟩ := x
    rw [rwf_cons] at h
    by_cases h1 : j = k
    · simpa only [terase, h1, if_true] using ih h.2.2
    · simp only [terase, h1, if_false]
      exact (rwf_cons ..).mpr ⟨h.1, allAbove_terase _ _ _ h.2.1, ih h.2.2⟩

theorem rwf_tput (t : Tab W64) (k : Nat) (v : W64) (hv : v ≠ regReset k) (h : rwf t = true) : rwf (tput t k v) = true := by
  induction t with
  | nil => rw [tput, rwf]; exact decide_eq_true hv
  | cons x t ih =>
    obtain ⟨j, w⟩ := x
    have h' := (rwf_cons ..).mp h
    simp only [tput]
    split
    · next hj => exact (rwf_cons ..).mpr ⟨hv, hj ▸ h'.2.1, h'.2.2⟩
    · split
      · next hk =>
        refine (rwf_cons ..).mpr ⟨hv, ?_, h⟩
        intro y hy
        rcases List.mem_cons.mp hy with rfl | hy
        · exact hk
        · exact Nat.lt_trans hk (h'.2.1 y hy)
      · exact (rwf_cons ..).mpr ⟨h'.1, allAbove_tput _ _ _ _ h'.2.1 (by omega), ih h'.2.2⟩

theorem rwf_rset (t : Tab W64) (k : Nat) (v : W64) (h : rwf t = true) : rwf (rset t k v) = true := by
  unfold rset
  by_cases hv : v = regReset k
  · rw [if_pos hv]; exact rwf_terase t k h
  · rw [if_neg hv]; exact rwf_tput t k v hv h

theorem allAbove_filter {α : Type} (j : Nat) (t : Tab α) (p : Nat × α → Bool) (h : allAbove j t) : allAbove j (t.filter p) :=
  fun y hy => h y (List.mem_filter.mp hy).1

theorem rwf_filter (t : Tab W64) (p : Nat × W64 → Bool) (h : rwf t = true) : rwf (t.filter p) = true := by
  induction t with
  | nil => rfl
  | cons x t ih =>
    obtain ⟨j, w⟩ := x
    have h' := (rwf_cons ..).mp h
    rw [List.filter_cons]
    split
    · exact (rwf_cons ..).mpr ⟨h'.1, allAbove_filter _ _ _ h'.2.1, ih h'.2.2⟩
    · exact ih h'.2.2

theorem twf_filter {α : Type} [DecidableEq α] (d : α) (t : Tab α) (p : Nat × α → Bool) (h : twf d t = true) : twf d (t.filter p) = true := by
  induction t with
  | nil => rfl
  | cons x t ih =>
    obtain ⟨j, w⟩ := x
    have h' := (twf_cons ..).mp h
    rw [List.filter_cons]
    split
    · exact (twf_cons ..).mpr ⟨h'.1, allAbove_filter _ _ _ h'.2.1, ih h'.2.2⟩
    · exact ih h'.2.2

theorem wf_filter (m : Memory) (p : Nat × Byte → Bool) (h : Memory.wf m = true) : Memory.wf (m.filter p) = true := twf_filter _ m p h

theorem twf_append {α : Type} [DecidableEq α] (d : α) (t u : Tab α) (ht : twf d t = true) (hu : twf d u = true)
    (h : ∀ x ∈ t, allAbove x.1 u) : twf d (t ++ u) = true := by
  induction t with
  | nil => exact hu
  | cons x t ih =>
    obtain ⟨j, w⟩ := x
    have h' := (twf_cons ..).mp ht
    refine (twf_cons ..).mpr ⟨h'.1, ?_, ih h'.2.2 fun x hx => h x (List.mem_cons_of_mem _ hx)⟩
    intro y hy
    rcases List.mem_append.mp hy with hy | hy
    · exact h'.2.1 y hy
    · exact h _ List.mem_cons_self y hy

/-- The bytes that a picture lists. -/
def painted (f : Nat → Byte) (a n : Nat) : Memory := (List.range' a n).filterMap fun k => if f k = memDefault then none else some (k, f k)

theorem painted_within (f : Nat → Byte) (a n : Nat) (x : Nat × Byte) (h : x ∈ painted f a n) : a ≤ x.1 ∧ x.1 < a + n := by
  obtain ⟨k, hk, hx⟩ := List.mem_filterMap.mp h
  have hk := List.mem_range'_1.mp hk
  split at hx
  · cases hx
  · cases hx; exact hk

theorem wf_painted (f : Nat → Byte) (n a : Nat) : Memory.wf (painted f a n) = true := by
  induction n generalizing a with
  | zero => rfl
  | succ n ih =>
    have ih := ih (a + 1)
    unfold painted at ih ⊢
    rw [List.range'_succ, List.filterMap_cons]
    split
    · exact ih
    · next hx =>
      split at hx
      · cases hx
      · next hf =>
        cases hx
        exact (twf_cons ..).mpr ⟨hf, fun y hy => Nat.lt_of_succ_le (painted_within f _ _ y hy).1, ih⟩

theorem wf_mpaint (m : Memory) (a n : Nat) (f : Nat → Byte) (h : Memory.wf m = true) : Memory.wf (mpaint m a n f) = true := by
  refine twf_append _ _ _ (twf_append _ _ _ (wf_filter _ _ h) (wf_painted f n a) ?_) (wf_filter _ _ h) ?_
  · intro x hx y hy
    have hx := of_decide_eq_true (List.mem_filter.mp hx).2
    exact Nat.lt_of_lt_of_le hx (painted_within f a n y hy).1
  · intro x hx y hy
    have hy := of_decide_eq_true (List.mem_filter.mp hy).2
    rcases List.mem_append.mp hx with hx | hx
    · have hx := of_decide_eq_true (List.mem_filter.mp hx).2
      omega
    · exact Nat.lt_of_lt_of_le (painted_within f a n x hx).2 hy

/-- Folding steps that keep a memory's form keeps it. -/
theorem wf_foldl {β : Type} (g : Memory → β → Memory) (hg : ∀ m b, Memory.wf m = true → Memory.wf (g m b) = true) (l : List β) (m : Memory)
    (h : Memory.wf m = true) : Memory.wf (l.foldl g m) = true := by
  induction l generalizing m with
  | nil => exact h
  | cons b l ih => exact ih _ (hg m b h)

theorem wf_nil : Memory.wf [] = true := rfl
theorem rwf_nil : rwf [] = true := rfl

/-! ### States -/

theorem canon_mem {s : State} (h : Canon s) : Memory.wf s.mem = true := h.1
theorem canon_hostMem {s : State} (h : Canon s) : Memory.wf s.hostMem = true := h.2.1
theorem canon_regs {s : State} (h : Canon s) : rwf s.regs = true := h.2.2

theorem canon_mk {regs : Tab W64} {mem hostMem : Memory} {poison clock pins boot hif mail smbus fabric sweep ember qm mmu attn media capture shaper ingest
    track pipes twin pwr dbg free pending} (h1 : Memory.wf mem = true) (h2 : Memory.wf hostMem = true) (h3 : rwf regs = true) :
    Canon (State.mk regs mem hostMem poison clock pins boot hif mail smbus fabric sweep ember qm mmu attn media capture shaper ingest
      track pipes twin pwr dbg free pending) := ⟨h1, h2, h3⟩

theorem canon_mk_iff {regs : Tab W64} {mem hostMem : Memory} {poison clock pins boot hif mail smbus fabric sweep ember qm mmu attn media capture shaper ingest
    track pipes twin pwr dbg free pending} :
    Canon (State.mk regs mem hostMem poison clock pins boot hif mail smbus fabric sweep ember qm mmu attn media capture shaper ingest
      track pipes twin pwr dbg free pending) ↔ Memory.wf mem = true ∧ Memory.wf hostMem = true ∧ rwf regs = true := Iff.rfl

theorem canon_ite {c : Prop} [Decidable c] {a b : State} (ha : c → Canon a) (hb : ¬c → Canon b) : Canon (if c then a else b) := by
  split
  · next h => exact ha h
  · next h => exact hb h

theorem canon_foldl {α : Type} (f : State → α → State) (l : List α) {s : State} (h : Canon s) (hf : ∀ s a, Canon s → Canon (f s a)) :
    Canon (l.foldl f s) := by
  induction l generalizing s with
  | nil => exact h
  | cons x l ih => exact ih (hf s x h)

/-- A fold keeps what each of its steps keeps, read through a projection. -/
theorem canon_foldl_by {σ α : Type} (g : σ → State) (f : σ → α → σ) (l : List α) {a : σ} (h : Canon (g a))
    (hf : ∀ a x, Canon (g a) → Canon (g (f a x))) : Canon (g (l.foldl f a)) := by
  induction l generalizing a with
  | nil => exact h
  | cons x l ih => exact ih (hf a x h)

theorem canon_foldl_1 {α β : Type} (f : State × β → α → State × β) (l : List α) {a : State × β} (h : Canon a.1)
    (hf : ∀ a x, Canon a.1 → Canon (f a x).1) : Canon (l.foldl f a).1 := canon_foldl_by (·.1) f l h hf
theorem canon_foldl_2 {α β : Type} (f : β × State → α → β × State) (l : List α) {a : β × State} (h : Canon a.2)
    (hf : ∀ a x, Canon a.2 → Canon (f a x).2) : Canon (l.foldl f a).2 := canon_foldl_by (·.2) f l h hf
theorem canon_foldl_22 {α β γ : Type} (f : β × γ × State → α → β × γ × State) (l : List α) {a : β × γ × State} (h : Canon a.2.2)
    (hf : ∀ a x, Canon a.2.2 → Canon (f a x).2.2) : Canon (l.foldl f a).2.2 := canon_foldl_by (·.2.2) f l h hf
theorem canon_foldl_s {α : Type} (f : Acc → α → Acc) (l : List α) {a : Acc} (h : Canon a.s)
    (hf : ∀ a x, Canon a.s → Canon (f a x).s) : Canon (l.foldl f a).s := canon_foldl_by (·.s) f l h hf
theorem canon_foldl_2s {α β : Type} (f : β × Acc → α → β × Acc) (l : List α) {a : β × Acc} (h : Canon a.2.s)
    (hf : ∀ a x, Canon a.2.s → Canon (f a x).2.s) : Canon (l.foldl f a).2.s := canon_foldl_by (·.2.s) f l h hf
theorem canon_foldl_22s {α β γ : Type} (f : β × γ × Acc → α → β × γ × Acc) (l : List α) {a : β × γ × Acc} (h : Canon a.2.2.s)
    (hf : ∀ a x, Canon a.2.2.s → Canon (f a x).2.2.s) : Canon (l.foldl f a).2.2.s := canon_foldl_by (·.2.2.s) f l h hf
theorem canon_foldl_A {α : Type} (f : Applying → α → Applying) (l : List α) {a : Applying} (h : Canon a.s)
    (hf : ∀ a x, Canon a.s → Canon (f a x).s) : Canon (l.foldl f a).s := canon_foldl_by (·.s) f l h hf

theorem canon_foldl_as {α : Type} (f : BatchOut → α → BatchOut) (l : List α) {a : BatchOut} (h : Canon a.a.s)
    (hf : ∀ a x, Canon a.a.s → Canon (f a x).a.s) : Canon (l.foldl f a).a.s := canon_foldl_by (·.a.s) f l h hf

theorem canon_foldl_1as {α β : Type} (f : BatchOut × β → α → BatchOut × β) (l : List α) {a : BatchOut × β} (h : Canon a.1.a.s)
    (hf : ∀ a x, Canon a.1.a.s → Canon (f a x).1.a.s) : Canon (l.foldl f a).1.a.s := canon_foldl_by (·.1.a.s) f l h hf

theorem canon_foldl_das {α : Type} (f : Drain → α → Drain) (l : List α) {a : Drain} (h : Canon a.a.s)
    (hf : ∀ a x, Canon a.a.s → Canon (f a x).a.s) : Canon (l.foldl f a).a.s := canon_foldl_by (·.a.s) f l h hf

theorem canon_foldl_2das {α β : Type} (f : β × Drain → α → β × Drain) (l : List α) {a : β × Drain} (h : Canon a.2.a.s)
    (hf : ∀ a x, Canon a.2.a.s → Canon (f a x).2.a.s) : Canon (l.foldl f a).2.a.s := canon_foldl_by (·.2.a.s) f l h hf

theorem canon_setReg {s : State} {k : Nat} {v : W64} (h : Canon s) : Canon (s.setReg k v) := by
  unfold State.setReg
  exact canon_mk (canon_mem h) (canon_hostMem h) (rwf_rset _ _ _ (canon_regs h))

theorem canon_cut {s : State} {P : Prop} (h : Canon s) (k : Canon s → P) : P := k h

theorem canon_of_eq {α : Type} {p : State × α} {s : State} {x : α} (he : p = (s, x)) (h : Canon p.1) : Canon s := by
  rw [he] at h; exact h

theorem canon_of_eq_2 {α : Type} {p : α × State} {s : State} {x : α} (he : p = (x, s)) (h : Canon p.2) : Canon s := by
  rw [he] at h; exact h
theorem canon_of_eq_2_s {α : Type} {p : α × Acc} {s : Acc} {x : α} (he : p = (x, s)) (h : Canon p.2.s) : Canon s.s := by
  rw [he] at h; exact h

theorem canon_pair {α : Type} {s : State} {x : α} (h : Canon s) : Canon (s, x).1 := h

/-- An outcome whose next state, if any, is canonical. -/
def OutCanon (o : Out) : Prop := ∀ t, o = .next t → Canon t

theorem outCanon_next {s : State} (h : Canon s) : OutCanon (.next s) := fun t ht => by cases ht; exact h

theorem canon_keepQueue {s t : State} (h : Canon t) : Canon (keepQueue s t) := h

theorem canon_reset : Canon State.reset := ⟨rfl, rfl, rfl⟩

end Sys2Proof.Machine
end

