-- ==== Sys2Proof/Laws/Canon/Ops.lean ====
section
/-!
SUPPORT. The operations and meanings of Machine/Ops.lean keep the canonical form of the memories and of the register file.
-/
set_option linter.all false
namespace Sys2Proof.Machine

theorem canon_always (s : State) (k : State → State) (h : Canon (k s)) : OutCanon (always s k) := by
  intro t ht
  cases ht
  exact canon_keepQueue h

theorem canon_gated (c : Bool) (s : State) (k : State → State) (hs : Canon s) (hk : ∀ x, Canon x → Canon (k x)) : OutCanon (gated c s k) :=
  canon_always _ _ (canon_ite (fun _ => hk s hs) fun _ => hs)

theorem canon_live (s : State) (k : State → State) (hs : Canon s) (hk : ∀ a0_, Canon a0_ → Canon (k a0_)) : OutCanon (live s k) := by
  unfold live
  repeat' (first
    | with_reducible assumption | with_reducible apply canon_gated)

theorem canon_setFld (s : State) (k hi lo v : Nat)  (hs : Canon s) : Canon (State.setFld s k hi lo v) := by
  unfold State.setFld
  repeat' (first
    | with_reducible assumption | (fail_if_no_progress extract_lets +onlyGivenNames s_) | with_reducible apply canon_setReg)

theorem canon_setBit (s : State) (k b : Nat) (v : Bool)  (hs : Canon s) : Canon (State.setBit s k b v) := by
  unfold State.setBit
  repeat' (first
    | with_reducible assumption | with_reducible apply canon_setFld)

theorem canon_addSat (s : State) (k hi lo n : Nat)  (hs : Canon s) : Canon (State.addSat s k hi lo n) := by
  unfold State.addSat
  repeat' (first
    | with_reducible assumption | with_reducible apply canon_setFld)

theorem canon_report (s : State) (src code : Nat) (a0 a1 a2 : Nat)  (hs : Canon s) : Canon (report s src code a0 a1 a2) := by
  unfold report
  repeat' (first
    | with_reducible assumption | (fail_if_no_progress extract_lets +onlyGivenNames s_) | with_reducible apply canon_mem
    | with_reducible apply canon_hostMem | with_reducible apply canon_regs | split | (simp only [canon_mk_iff]; refine ⟨?_, ?_, ?_⟩))

theorem canon_reportUnnamed (s : State) (src event : Nat) (a0 a1 a2 : Nat)  (hs : Canon s) : Canon (reportUnnamed s src event a0 a1 a2) := by
  unfold reportUnnamed
  repeat' (first
    | with_reducible assumption | with_reducible apply canon_report)

theorem canon_viol (s : State) (addr kind part : Nat)  (hs : Canon s) : Canon (viol s addr kind part) := by
  unfold viol
  repeat' (first
    | with_reducible assumption
    | ((fail_if_no_progress extract_lets +onlyGivenNames s_); (refine canon_cut (s := s_) ?_ (fun hc_ => ?_); (on_goal 2 => (try clear_value s_)); unfold s_))
    | with_reducible apply canon_addSat | with_reducible apply canon_setReg)

theorem canon_bump (s : State) (i n : Nat)  (hs : Canon s) : Canon (bump s i n) := by
  unfold bump
  repeat' (first
    | with_reducible assumption | with_reducible apply canon_setFld)

theorem canon_countGddr (w : Bool) (f : Nat) (s : State) (a n : Nat) (h : Canon s) : Canon (countGddr w f s a n) := by
  induction f generalizing s a n with
  | zero => exact h
  | succ f ih =>
    unfold countGddr
    by_cases hn : n = 0
    · rw [if_pos hn]; exact h
    · rw [if_neg hn]
      refine ih _ _ _ (canon_ite (fun _ => canon_bump _ _ _ (canon_ite (fun _ => h) fun _ => canon_bump _ _ _ h)) fun _ => canon_bump _ _ _ h)

theorem canon_flueBytes (s : State) (a b n : Nat)  (hs : Canon s) : Canon (flueBytes s a b n) := by
  unfold flueBytes
  repeat' (first
    | with_reducible assumption
    | ((fail_if_no_progress extract_lets +onlyGivenNames s_); first | (refine canon_cut (s := s_) ?_ (fun hc_ => ?_); (on_goal 2 => (try clear_value s_)); unfold s_) | (refine canon_cut (s := s_.s) ?_ (fun hc_ => ?_); (on_goal 2 => (try clear_value s_)); unfold s_) | (refine canon_cut (s := s_.1) ?_ (fun hc_ => ?_); (on_goal 2 => (try clear_value s_)); unfold s_) | (refine canon_cut (s := s_.2) ?_ (fun hc_ => ?_); (on_goal 2 => (try clear_value s_)); unfold s_) | (refine canon_cut (s := s_.2.s) ?_ (fun hc_ => ?_); (on_goal 2 => (try clear_value s_)); unfold s_) | (refine canon_cut (s := s_.2.2) ?_ (fun hc_ => ?_); (on_goal 2 => (try clear_value s_)); unfold s_) | (refine canon_cut (s := s_.2.2.s) ?_ (fun hc_ => ?_); (on_goal 2 => (try clear_value s_)); unfold s_) | (refine canon_cut (s := s_.1.s) ?_ (fun hc_ => ?_); (on_goal 2 => (try clear_value s_)); unfold s_) | (refine canon_cut (s := s_.1.a.s) ?_ (fun hc_ => ?_); (on_goal 2 => (try clear_value s_)); unfold s_) | (refine canon_cut (s := s_.a.s) ?_ (fun hc_ => ?_); (on_goal 2 => (try clear_value s_)); unfold s_) | (refine canon_cut (s := s_.2.a.s) ?_ (fun hc_ => ?_); (on_goal 2 => (try clear_value s_)); unfold s_) | skip)
    | with_reducible apply canon_bump
    | with_reducible apply canon_mem
    | with_reducible apply canon_hostMem
    | with_reducible apply canon_regs
    | with_reducible apply wf_mwrite
    | with_reducible apply wf_mset
    | with_reducible apply wf_mfill
    | with_reducible apply wf_filter
    | with_reducible apply rwf_rset
    | with_reducible apply rwf_filter
    | with_reducible apply wf_nil
    | with_reducible apply rwf_nil
    | with_reducible apply canon_foldl
    | with_reducible apply canon_foldl_s
    | with_reducible apply canon_foldl_1
    | with_reducible apply canon_foldl_2
    | with_reducible apply canon_foldl_2s
    | with_reducible apply canon_foldl_22
    | with_reducible apply canon_foldl_22s
    | with_reducible apply canon_foldl_A
    | with_reducible apply canon_foldl_as
    | with_reducible apply canon_foldl_das
    | with_reducible apply canon_foldl_2das
    | with_reducible apply canon_foldl_1as
    | dsimp only
    | (intro s_ hc_; beta_reduce)
    | intro _
    | split
    | (simp only [canon_mk_iff]; refine ⟨?_, ?_, ?_⟩)
    | ((fail_if_no_progress clear_value *); split)
    | dsimp +zetaDelta only)

theorem canon_flueAccess (s : State) (write : Bool) (a b n : Nat)  (hs : Canon s) : Canon (flueAccess s write a b n) := by
  unfold flueAccess
  repeat' (first
    | with_reducible assumption
    | ((fail_if_no_progress extract_lets +onlyGivenNames s_); first | (refine canon_cut (s := s_) ?_ (fun hc_ => ?_); (on_goal 2 => (try clear_value s_)); unfold s_) | (refine canon_cut (s := s_.s) ?_ (fun hc_ => ?_); (on_goal 2 => (try clear_value s_)); unfold s_) | (refine canon_cut (s := s_.1) ?_ (fun hc_ => ?_); (on_goal 2 => (try clear_value s_)); unfold s_) | (refine canon_cut (s := s_.2) ?_ (fun hc_ => ?_); (on_goal 2 => (try clear_value s_)); unfold s_) | (refine canon_cut (s := s_.2.s) ?_ (fun hc_ => ?_); (on_goal 2 => (try clear_value s_)); unfold s_) | (refine canon_cut (s := s_.2.2) ?_ (fun hc_ => ?_); (on_goal 2 => (try clear_value s_)); unfold s_) | (refine canon_cut (s := s_.2.2.s) ?_ (fun hc_ => ?_); (on_goal 2 => (try clear_value s_)); unfold s_) | (refine canon_cut (s := s_.1.s) ?_ (fun hc_ => ?_); (on_goal 2 => (try clear_value s_)); unfold s_) | (refine canon_cut (s := s_.1.a.s) ?_ (fun hc_ => ?_); (on_goal 2 => (try clear_value s_)); unfold s_) | (refine canon_cut (s := s_.a.s) ?_ (fun hc_ => ?_); (on_goal 2 => (try clear_value s_)); unfold s_) | (refine canon_cut (s := s_.2.a.s) ?_ (fun hc_ => ?_); (on_goal 2 => (try clear_value s_)); unfold s_) | skip)
    | with_reducible apply canon_flueBytes
    | with_reducible apply canon_mem
    | with_reducible apply canon_hostMem
    | with_reducible apply canon_regs
    | with_reducible apply wf_mwrite
    | with_reducible apply wf_mset
    | with_reducible apply wf_mfill
    | with_reducible apply wf_filter
    | with_reducible apply rwf_rset
    | with_reducible apply rwf_filter
    | with_reducible apply wf_nil
    | with_reducible apply rwf_nil
    | with_reducible apply canon_foldl
    | with_reducible apply canon_foldl_s
    | with_reducible apply canon_foldl_1
    | with_reducible apply canon_foldl_2
    | with_reducible apply canon_foldl_2s
    | with_reducible apply canon_foldl_22
    | with_reducible apply canon_foldl_22s
    | with_reducible apply canon_foldl_A
    | with_reducible apply canon_foldl_as
    | with_reducible apply canon_foldl_das
    | with_reducible apply canon_foldl_2das
    | with_reducible apply canon_foldl_1as
    | dsimp only
    | (intro s_ hc_; beta_reduce)
    | intro _
    | split
    | (simp only [canon_mk_iff]; refine ⟨?_, ?_, ?_⟩)
    | ((fail_if_no_progress clear_value *); split)
    | dsimp +zetaDelta only)

theorem canon_countAccess (ag : Agent) (write : Bool) (s : State) (a n : Nat)  (hs : Canon s) : Canon (countAccess ag write s a n) := by
  unfold countAccess
  repeat' (first
    | with_reducible assumption
    | ((fail_if_no_progress extract_lets +onlyGivenNames s_); first | (refine canon_cut (s := s_) ?_ (fun hc_ => ?_); (on_goal 2 => (try clear_value s_)); unfold s_) | skip)
    | with_reducible apply canon_countGddr | with_reducible apply canon_bump | with_reducible apply canon_flueAccess | with_reducible apply canon_mem
    | with_reducible apply canon_hostMem | with_reducible apply canon_regs | with_reducible apply canon_foldl | dsimp only
    | (intro s_ hc_; beta_reduce) | intro _ | split | (simp only [canon_mk_iff]; refine ⟨?_, ?_, ?_⟩))

theorem canon_lostTaken (s : State) (write : Bool) (a n : Nat)  (hs : Canon s) : Canon (State.lostTaken s write a n) := by
  unfold State.lostTaken
  repeat' (first
    | with_reducible assumption | (fail_if_no_progress extract_lets +onlyGivenNames s_) | with_reducible apply canon_mem
    | with_reducible apply canon_hostMem | with_reducible apply canon_regs | (simp only [canon_mk_iff]; refine ⟨?_, ?_, ?_⟩))

theorem canon_modJournal (n : JournalName) (k : JournalRecord → JournalRecord) (s : State)  (hs : Canon s) : Canon (modJournal n k s) := by
  unfold modJournal
  repeat' (first
    | with_reducible assumption
    | ((fail_if_no_progress extract_lets +onlyGivenNames s_); first | (refine canon_cut (s := s_) ?_ (fun hc_ => ?_); (on_goal 2 => (try clear_value s_)); unfold s_) | (refine canon_cut (s := s_.s) ?_ (fun hc_ => ?_); (on_goal 2 => (try clear_value s_)); unfold s_) | (refine canon_cut (s := s_.1) ?_ (fun hc_ => ?_); (on_goal 2 => (try clear_value s_)); unfold s_) | (refine canon_cut (s := s_.2) ?_ (fun hc_ => ?_); (on_goal 2 => (try clear_value s_)); unfold s_) | (refine canon_cut (s := s_.2.s) ?_ (fun hc_ => ?_); (on_goal 2 => (try clear_value s_)); unfold s_) | (refine canon_cut (s := s_.2.2) ?_ (fun hc_ => ?_); (on_goal 2 => (try clear_value s_)); unfold s_) | (refine canon_cut (s := s_.2.2.s) ?_ (fun hc_ => ?_); (on_goal 2 => (try clear_value s_)); unfold s_) | (refine canon_cut (s := s_.1.s) ?_ (fun hc_ => ?_); (on_goal 2 => (try clear_value s_)); unfold s_) | (refine canon_cut (s := s_.1.a.s) ?_ (fun hc_ => ?_); (on_goal 2 => (try clear_value s_)); unfold s_) | (refine canon_cut (s := s_.a.s) ?_ (fun hc_ => ?_); (on_goal 2 => (try clear_value s_)); unfold s_) | (refine canon_cut (s := s_.2.a.s) ?_ (fun hc_ => ?_); (on_goal 2 => (try clear_value s_)); unfold s_) | skip)
    | with_reducible apply canon_mem
    | with_reducible apply canon_hostMem
    | with_reducible apply canon_regs
    | with_reducible apply wf_mwrite
    | with_reducible apply wf_mset
    | with_reducible apply wf_mfill
    | with_reducible apply wf_filter
    | with_reducible apply rwf_rset
    | with_reducible apply rwf_filter
    | with_reducible apply wf_nil
    | with_reducible apply rwf_nil
    | with_reducible apply canon_foldl
    | with_reducible apply canon_foldl_s
    | with_reducible apply canon_foldl_1
    | with_reducible apply canon_foldl_2
    | with_reducible apply canon_foldl_2s
    | with_reducible apply canon_foldl_22
    | with_reducible apply canon_foldl_22s
    | with_reducible apply canon_foldl_A
    | with_reducible apply canon_foldl_as
    | with_reducible apply canon_foldl_das
    | with_reducible apply canon_foldl_2das
    | with_reducible apply canon_foldl_1as
    | dsimp only
    | (intro s_ hc_; beta_reduce)
    | intro _
    | split
    | (simp only [canon_mk_iff]; refine ⟨?_, ?_, ?_⟩)
    | ((fail_if_no_progress clear_value *); split)
    | dsimp +zetaDelta only)

theorem canon_journalWrite (n : JournalName) (words : List Nat) (s : State)  (hs : Canon s) : Canon (journalWrite n words s) := by
  unfold journalWrite
  repeat' (first
    | with_reducible assumption
    | ((fail_if_no_progress extract_lets +onlyGivenNames s_); first | (refine canon_cut (s := s_) ?_ (fun hc_ => ?_); (on_goal 2 => (try clear_value s_)); unfold s_) | (refine canon_cut (s := s_.s) ?_ (fun hc_ => ?_); (on_goal 2 => (try clear_value s_)); unfold s_) | (refine canon_cut (s := s_.1) ?_ (fun hc_ => ?_); (on_goal 2 => (try clear_value s_)); unfold s_) | (refine canon_cut (s := s_.2) ?_ (fun hc_ => ?_); (on_goal 2 => (try clear_value s_)); unfold s_) | (refine canon_cut (s := s_.2.s) ?_ (fun hc_ => ?_); (on_goal 2 => (try clear_value s_)); unfold s_) | (refine canon_cut (s := s_.2.2) ?_ (fun hc_ => ?_); (on_goal 2 => (try clear_value s_)); unfold s_) | (refine canon_cut (s := s_.2.2.s) ?_ (fun hc_ => ?_); (on_goal 2 => (try clear_value s_)); unfold s_) | (refine canon_cut (s := s_.1.s) ?_ (fun hc_ => ?_); (on_goal 2 => (try clear_value s_)); unfold s_) | (refine canon_cut (s := s_.1.a.s) ?_ (fun hc_ => ?_); (on_goal 2 => (try clear_value s_)); unfold s_) | (refine canon_cut (s := s_.a.s) ?_ (fun hc_ => ?_); (on_goal 2 => (try clear_value s_)); unfold s_) | (refine canon_cut (s := s_.2.a.s) ?_ (fun hc_ => ?_); (on_goal 2 => (try clear_value s_)); unfold s_) | skip)
    | with_reducible apply canon_modJournal
    | with_reducible apply canon_mem
    | with_reducible apply canon_hostMem
    | with_reducible apply canon_regs
    | with_reducible apply wf_mwrite
    | with_reducible apply wf_mset
    | with_reducible apply wf_mfill
    | with_reducible apply wf_filter
    | with_reducible apply rwf_rset
    | with_reducible apply rwf_filter
    | with_reducible apply wf_nil
    | with_reducible apply rwf_nil
    | with_reducible apply canon_foldl
    | with_reducible apply canon_foldl_s
    | with_reducible apply canon_foldl_1
    | with_reducible apply canon_foldl_2
    | with_reducible apply canon_foldl_2s
    | with_reducible apply canon_foldl_22
    | with_reducible apply canon_foldl_22s
    | with_reducible apply canon_foldl_A
    | with_reducible apply canon_foldl_as
    | with_reducible apply canon_foldl_das
    | with_reducible apply canon_foldl_2das
    | with_reducible apply canon_foldl_1as
    | dsimp only
    | (intro s_ hc_; beta_reduce)
    | intro _
    | split
    | (simp only [canon_mk_iff]; refine ⟨?_, ?_, ?_⟩)
    | ((fail_if_no_progress clear_value *); split)
    | dsimp +zetaDelta only)

theorem canon_journalTear (s : State)  (hs : Canon s) : Canon (journalTear s) := by
  unfold journalTear
  repeat' (first
    | with_reducible assumption
    | ((fail_if_no_progress extract_lets +onlyGivenNames s_); first | (refine canon_cut (s := s_) ?_ (fun hc_ => ?_); (on_goal 2 => (try clear_value s_)); unfold s_) | (refine canon_cut (s := s_.s) ?_ (fun hc_ => ?_); (on_goal 2 => (try clear_value s_)); unfold s_) | (refine canon_cut (s := s_.1) ?_ (fun hc_ => ?_); (on_goal 2 => (try clear_value s_)); unfold s_) | (refine canon_cut (s := s_.2) ?_ (fun hc_ => ?_); (on_goal 2 => (try clear_value s_)); unfold s_) | (refine canon_cut (s := s_.2.s) ?_ (fun hc_ => ?_); (on_goal 2 => (try clear_value s_)); unfold s_) | (refine canon_cut (s := s_.2.2) ?_ (fun hc_ => ?_); (on_goal 2 => (try clear_value s_)); unfold s_) | (refine canon_cut (s := s_.2.2.s) ?_ (fun hc_ => ?_); (on_goal 2 => (try clear_value s_)); unfold s_) | (refine canon_cut (s := s_.1.s) ?_ (fun hc_ => ?_); (on_goal 2 => (try clear_value s_)); unfold s_) | (refine canon_cut (s := s_.1.a.s) ?_ (fun hc_ => ?_); (on_goal 2 => (try clear_value s_)); unfold s_) | (refine canon_cut (s := s_.a.s) ?_ (fun hc_ => ?_); (on_goal 2 => (try clear_value s_)); unfold s_) | (refine canon_cut (s := s_.2.a.s) ?_ (fun hc_ => ?_); (on_goal 2 => (try clear_value s_)); unfold s_) | skip)
    | with_reducible apply canon_modJournal
    | with_reducible apply canon_mem
    | with_reducible apply canon_hostMem
    | with_reducible apply canon_regs
    | with_reducible apply wf_mwrite
    | with_reducible apply wf_mset
    | with_reducible apply wf_mfill
    | with_reducible apply wf_filter
    | with_reducible apply rwf_rset
    | with_reducible apply rwf_filter
    | with_reducible apply wf_nil
    | with_reducible apply rwf_nil
    | with_reducible apply canon_foldl
    | with_reducible apply canon_foldl_s
    | with_reducible apply canon_foldl_1
    | with_reducible apply canon_foldl_2
    | with_reducible apply canon_foldl_2s
    | with_reducible apply canon_foldl_22
    | with_reducible apply canon_foldl_22s
    | with_reducible apply canon_foldl_A
    | with_reducible apply canon_foldl_as
    | with_reducible apply canon_foldl_das
    | with_reducible apply canon_foldl_2das
    | with_reducible apply canon_foldl_1as
    | dsimp only
    | (intro s_ hc_; beta_reduce)
    | intro _
    | split
    | (simp only [canon_mk_iff]; refine ⟨?_, ?_, ?_⟩)
    | ((fail_if_no_progress clear_value *); split)
    | dsimp +zetaDelta only)

theorem canon_repairAdd (s : State) (k : Nat)  (hs : Canon s) : Canon (repairAdd s k) := by
  unfold repairAdd
  repeat' (first
    | with_reducible assumption
    | ((fail_if_no_progress extract_lets +onlyGivenNames s_); first | (refine canon_cut (s := s_) ?_ (fun hc_ => ?_); (on_goal 2 => (try clear_value s_)); unfold s_) | skip)
    | with_reducible apply canon_journalWrite | with_reducible apply canon_addSat | with_reducible apply canon_mem
    | with_reducible apply canon_hostMem | with_reducible apply canon_regs | with_reducible apply canon_foldl | dsimp only
    | (intro s_ hc_; beta_reduce) | intro _ | split | (simp only [canon_mk_iff]; refine ⟨?_, ?_, ?_⟩))

theorem canon_errUncorrectable (s : State) (k : Nat)  (hs : Canon s) : Canon (errUncorrectable s k) := by
  unfold errUncorrectable
  repeat' (first
    | with_reducible assumption | with_reducible apply canon_addSat | with_reducible apply canon_repairAdd | with_reducible apply canon_report)

theorem canon_thirdInDay (s : State) (k : Nat)  (hs : Canon s) : Canon (thirdInDay s k) := by
  unfold thirdInDay
  repeat' (first
    | with_reducible assumption
    | ((fail_if_no_progress extract_lets +onlyGivenNames s_); first | (refine canon_cut (s := s_) ?_ (fun hc_ => ?_); (on_goal 2 => (try clear_value s_)); unfold s_) | (refine canon_cut (s := s_.s) ?_ (fun hc_ => ?_); (on_goal 2 => (try clear_value s_)); unfold s_) | (refine canon_cut (s := s_.1) ?_ (fun hc_ => ?_); (on_goal 2 => (try clear_value s_)); unfold s_) | (refine canon_cut (s := s_.2) ?_ (fun hc_ => ?_); (on_goal 2 => (try clear_value s_)); unfold s_) | (refine canon_cut (s := s_.2.s) ?_ (fun hc_ => ?_); (on_goal 2 => (try clear_value s_)); unfold s_) | (refine canon_cut (s := s_.2.2) ?_ (fun hc_ => ?_); (on_goal 2 => (try clear_value s_)); unfold s_) | (refine canon_cut (s := s_.2.2.s) ?_ (fun hc_ => ?_); (on_goal 2 => (try clear_value s_)); unfold s_) | (refine canon_cut (s := s_.1.s) ?_ (fun hc_ => ?_); (on_goal 2 => (try clear_value s_)); unfold s_) | (refine canon_cut (s := s_.1.a.s) ?_ (fun hc_ => ?_); (on_goal 2 => (try clear_value s_)); unfold s_) | (refine canon_cut (s := s_.a.s) ?_ (fun hc_ => ?_); (on_goal 2 => (try clear_value s_)); unfold s_) | (refine canon_cut (s := s_.2.a.s) ?_ (fun hc_ => ?_); (on_goal 2 => (try clear_value s_)); unfold s_) | skip)
    | with_reducible apply canon_Applying_take
    | with_reducible refine canon_Applying_take_eq (by assumption) ?_ ?_
    | with_reducible apply canon_repairAdd
    | with_reducible apply canon_mem
    | with_reducible apply canon_hostMem
    | with_reducible apply canon_regs
    | with_reducible apply wf_mwrite
    | with_reducible apply wf_mset
    | with_reducible apply wf_mfill
    | with_reducible apply wf_filter
    | with_reducible apply rwf_rset
    | with_reducible apply rwf_filter
    | with_reducible apply wf_nil
    | with_reducible apply rwf_nil
    | with_reducible apply canon_foldl
    | with_reducible apply canon_foldl_s
    | with_reducible apply canon_foldl_1
    | with_reducible apply canon_foldl_2
    | with_reducible apply canon_foldl_2s
    | with_reducible apply canon_foldl_22
    | with_reducible apply canon_foldl_22s
    | with_reducible apply canon_foldl_A
    | with_reducible apply canon_foldl_as
    | with_reducible apply canon_foldl_das
    | with_reducible apply canon_foldl_2das
    | with_reducible apply canon_foldl_1as
    | dsimp only
    | (intro s_ hc_; beta_reduce)
    | intro _
    | split
    | (simp only [canon_mk_iff]; refine ⟨?_, ?_, ?_⟩)
    | ((fail_if_no_progress clear_value *); split)
    | dsimp +zetaDelta only)

theorem canon_errCorrected (s : State) (k : Nat)  (hs : Canon s) : Canon (errCorrected s k) := by
  unfold errCorrected
  repeat' (first
    | with_reducible assumption | with_reducible apply canon_addSat | with_reducible apply canon_thirdInDay | with_reducible apply canon_report | split)

theorem canon_eccInside (k src code inst off : Nat) (found : EccFound) (s : State)  (hs : Canon s) : Canon (eccInside k src code inst off found s) := by
  unfold eccInside
  repeat' (first
    | with_reducible assumption | with_reducible apply canon_thirdInDay | with_reducible apply canon_report | with_reducible apply canon_addSat
    | with_reducible apply canon_repairAdd | split)

theorem canon_flashFinds (off : Nat) (found : EccFound) (s : State)  (hs : Canon s) : Canon (flashFinds off found s) := by
  unfold flashFinds
  repeat' (first
    | with_reducible assumption | with_reducible apply canon_eccInside)

theorem canon_devRead (ag : Agent) (s : State) (a n : Nat)  (hs : Canon s) : Canon (devRead ag s a n).1 := by
  unfold devRead
  repeat' (first
    | with_reducible assumption
    | ((fail_if_no_progress extract_lets +onlyGivenNames s_); (refine canon_cut (s := s_) ?_ (fun hc_ => ?_); (on_goal 2 => (try clear_value s_)); unfold s_))
    | with_reducible apply canon_countAccess | with_reducible apply canon_errUncorrectable | with_reducible apply canon_lostTaken | split)

theorem canon_devRead_eq {ag : Agent} {s : State} {a n : Nat}  {v0_} {v1_} {v2_} (he_ : devRead ag s a n = (v0_, v1_, v2_)) (hs : Canon s) :
    Canon v0_ := by
  have := canon_devRead ag s a n  hs
  rw [he_] at this
  exact this

theorem canon_storeSectors  (x0 : Nat) (x1 : State) (x2 : Nat) (x3 : List Byte) (hx1 : Canon x1) : Canon (storeSectors x0 x1 x2 x3) := by
  induction x0 generalizing x1 x2 x3 with
  | zero =>
    unfold storeSectors
    repeat' (first
        | with_reducible assumption | with_reducible apply canon_report | with_reducible apply canon_lostTaken | with_reducible apply canon_mem
        | with_reducible apply canon_hostMem | with_reducible apply canon_regs | with_reducible apply wf_mwrite | dsimp only | split
        | (simp only [canon_mk_iff]; refine ⟨?_, ?_, ?_⟩))
  | succ n ih =>
    unfold storeSectors
    repeat' (first
        | with_reducible assumption | with_reducible apply ih | with_reducible apply canon_report | with_reducible apply canon_lostTaken
        | with_reducible apply canon_mem | with_reducible apply canon_hostMem | with_reducible apply canon_regs | with_reducible apply wf_mwrite
        | dsimp only | split | (simp only [canon_mk_iff]; refine ⟨?_, ?_, ?_⟩))

theorem canon_rmwErrors (s : State) (a n : Nat)  (hs : Canon s) : Canon (rmwErrors s a n) := by
  unfold rmwErrors
  repeat' (first
    | with_reducible assumption | with_reducible apply canon_errUncorrectable | with_reducible apply canon_foldl | (intro s_ hc_; beta_reduce) | intro _
    | split)

theorem canon_devWrite (ag : Agent) (s : State) (a : Nat) (bs : List Byte)  (hs : Canon s) : Canon (devWrite ag s a bs) := by
  unfold devWrite
  repeat' (first
    | with_reducible assumption
    | ((fail_if_no_progress extract_lets +onlyGivenNames s_); (refine canon_cut (s := s_) ?_ (fun hc_ => ?_); (on_goal 2 => (try clear_value s_)); unfold s_))
    | with_reducible apply canon_rmwErrors | with_reducible apply canon_countAccess | with_reducible apply canon_storeSectors
    | with_reducible apply canon_mem | with_reducible apply canon_hostMem | with_reducible apply canon_regs | with_reducible apply wf_mwrite | split
    | (simp only [canon_mk_iff]; refine ⟨?_, ?_, ?_⟩))

theorem canon_hostWrite (s : State) (a : Nat) (bs : List Byte)  (hs : Canon s) : Canon (hostWrite s a bs) := by
  unfold hostWrite
  repeat' (first
    | with_reducible assumption
    | ((fail_if_no_progress extract_lets +onlyGivenNames s_); first | (refine canon_cut (s := s_) ?_ (fun hc_ => ?_); (on_goal 2 => (try clear_value s_)); unfold s_) | skip)
    | with_reducible apply canon_bump | with_reducible apply canon_addSat | with_reducible apply canon_report | with_reducible apply canon_mem
    | with_reducible apply canon_hostMem | with_reducible apply canon_regs | with_reducible apply wf_mwrite | split
    | (simp only [canon_mk_iff]; refine ⟨?_, ?_, ?_⟩))

theorem canon_msixSet (s : State) (k : Nat) (v : W32)  (hs : Canon s) : Canon (State.msixSet s k v) := by
  unfold State.msixSet
  repeat' (first
    | with_reducible assumption | (fail_if_no_progress extract_lets +onlyGivenNames s_) | with_reducible apply canon_mem
    | with_reducible apply canon_hostMem | with_reducible apply canon_regs | split | (simp only [canon_mk_iff]; refine ⟨?_, ?_, ?_⟩))

theorem canon_sendMsix (s : State) (f v : Nat)  (hs : Canon s) : Canon (sendMsix s f v) := by
  unfold sendMsix
  repeat' (first
    | with_reducible assumption
    | ((fail_if_no_progress extract_lets +onlyGivenNames s_); first | (refine canon_cut (s := s_) ?_ (fun hc_ => ?_); (on_goal 2 => (try clear_value s_)); unfold s_) | skip)
    | with_reducible apply canon_hostWrite | with_reducible apply canon_mem | with_reducible apply canon_hostMem | with_reducible apply canon_regs
    | (simp only [canon_mk_iff]; refine ⟨?_, ?_, ?_⟩))

theorem canon_raiseMsix (s : State) (f v : Nat)  (hs : Canon s) : Canon (raiseMsix s f v) := by
  unfold raiseMsix
  repeat' (first
    | with_reducible assumption | (fail_if_no_progress extract_lets +onlyGivenNames s_) | with_reducible apply canon_sendMsix
    | with_reducible apply canon_mem | with_reducible apply canon_hostMem | with_reducible apply canon_regs | split
    | (simp only [canon_mk_iff]; refine ⟨?_, ?_, ?_⟩))

theorem canon_engRead (s : State) (a n : Nat)  (hs : Canon s) : Canon (engRead s a n).1 := by
  unfold engRead
  repeat' (first
    | with_reducible assumption | with_reducible apply canon_devRead | split)

theorem canon_engRead_eq {s : State} {a n : Nat}  {v0_} {v1_} {v2_} (he_ : engRead s a n = (v0_, v1_, v2_)) (hs : Canon s) :
    Canon v0_ := by
  have := canon_engRead s a n  hs
  rw [he_] at this
  exact this

theorem canon_engWrite (s : State) (a : Nat) (bs : List Byte)  (hs : Canon s) : Canon (engWrite s a bs) := by
  unfold engWrite
  repeat' (first
    | with_reducible assumption | with_reducible apply canon_viol | with_reducible apply canon_devWrite | split)

theorem canon_spaceWrite (s : State) (host : Bool) (a : Nat) (bs : List Byte)  (hs : Canon s) : Canon (spaceWrite s host a bs) := by
  unfold spaceWrite
  repeat' (first
    | with_reducible assumption | with_reducible apply canon_hostWrite | with_reducible apply canon_engWrite | split)

theorem canon_setStatus (s : State) (b : Nat) (v : Bool)  (hs : Canon s) : Canon (setStatus s b v) := by
  unfold setStatus
  repeat' (first
    | with_reducible assumption
    | ((fail_if_no_progress extract_lets +onlyGivenNames s_); (refine canon_cut (s := s_) ?_ (fun hc_ => ?_); (on_goal 2 => (try clear_value s_)); unfold s_))
    | with_reducible apply canon_setBit | with_reducible apply canon_raiseMsix | split)

theorem canon_degrade (s : State)  (hs : Canon s) : Canon (degrade s) := by
  unfold degrade
  repeat' (first
    | with_reducible assumption
    | ((fail_if_no_progress extract_lets +onlyGivenNames s_); first | (refine canon_cut (s := s_) ?_ (fun hc_ => ?_); (on_goal 2 => (try clear_value s_)); unfold s_) | skip)
    | with_reducible apply canon_setStatus | with_reducible apply canon_mem | with_reducible apply canon_hostMem | with_reducible apply canon_regs
    | (simp only [canon_mk_iff]; refine ⟨?_, ?_, ?_⟩))

theorem canon_fresh (s : State)  (hs : Canon s) : Canon (State.fresh s).2 := by
  unfold State.fresh
  repeat' (first
    | with_reducible assumption | with_reducible apply canon_mem | with_reducible apply canon_hostMem | with_reducible apply canon_regs | dsimp only
    | (simp only [canon_mk_iff]; refine ⟨?_, ?_, ?_⟩))

theorem canon_fresh_eq {s : State}  {v0_} {v1_} (he_ : State.fresh s = (v0_, v1_)) (hs : Canon s) :
    Canon v1_ := by
  have := canon_fresh s  hs
  rw [he_] at this
  exact this

theorem canon_dropHeld (s : State) (fn : Fn)  (hs : Canon s) : Canon (State.dropHeld s fn) := by
  unfold State.dropHeld
  repeat' (first
    | with_reducible assumption | (fail_if_no_progress extract_lets +onlyGivenNames s_) | with_reducible apply canon_viol
    | with_reducible apply canon_mem | with_reducible apply canon_hostMem | with_reducible apply canon_regs | split
    | (simp only [canon_mk_iff]; refine ⟨?_, ?_, ?_⟩))

theorem canon_beforeWrite (s : State) (i : Instr)  (hs : Canon s) : Canon (State.beforeWrite s i) := by
  unfold State.beforeWrite
  repeat' (first
    | with_reducible assumption
    | ((fail_if_no_progress extract_lets +onlyGivenNames s_); (refine canon_cut (s := s_) ?_ (fun hc_ => ?_); (on_goal 2 => (try clear_value s_)); unfold s_))
    | with_reducible apply canon_bump | with_reducible apply canon_dropHeld | split)

theorem canon_flrSettle (s : State)  (hs : Canon s) : Canon (flrSettle s) := by
  unfold flrSettle
  repeat' (first
    | with_reducible assumption
    | ((fail_if_no_progress extract_lets +onlyGivenNames s_); first | (refine canon_cut (s := s_) ?_ (fun hc_ => ?_); (on_goal 2 => (try clear_value s_)); unfold s_) | (refine canon_cut (s := s_.s) ?_ (fun hc_ => ?_); (on_goal 2 => (try clear_value s_)); unfold s_) | (refine canon_cut (s := s_.1) ?_ (fun hc_ => ?_); (on_goal 2 => (try clear_value s_)); unfold s_) | (refine canon_cut (s := s_.2) ?_ (fun hc_ => ?_); (on_goal 2 => (try clear_value s_)); unfold s_) | (refine canon_cut (s := s_.2.s) ?_ (fun hc_ => ?_); (on_goal 2 => (try clear_value s_)); unfold s_) | (refine canon_cut (s := s_.2.2) ?_ (fun hc_ => ?_); (on_goal 2 => (try clear_value s_)); unfold s_) | (refine canon_cut (s := s_.2.2.s) ?_ (fun hc_ => ?_); (on_goal 2 => (try clear_value s_)); unfold s_) | (refine canon_cut (s := s_.1.s) ?_ (fun hc_ => ?_); (on_goal 2 => (try clear_value s_)); unfold s_) | (refine canon_cut (s := s_.1.a.s) ?_ (fun hc_ => ?_); (on_goal 2 => (try clear_value s_)); unfold s_) | (refine canon_cut (s := s_.a.s) ?_ (fun hc_ => ?_); (on_goal 2 => (try clear_value s_)); unfold s_) | (refine canon_cut (s := s_.2.a.s) ?_ (fun hc_ => ?_); (on_goal 2 => (try clear_value s_)); unfold s_) | skip)
    | with_reducible apply canon_mem
    | with_reducible apply canon_hostMem
    | with_reducible apply canon_regs
    | with_reducible apply wf_mwrite
    | with_reducible apply wf_mset
    | with_reducible apply wf_mfill
    | with_reducible apply wf_filter
    | with_reducible apply rwf_rset
    | with_reducible apply rwf_filter
    | with_reducible apply wf_nil
    | with_reducible apply rwf_nil
    | with_reducible apply canon_foldl
    | with_reducible apply canon_foldl_s
    | with_reducible apply canon_foldl_1
    | with_reducible apply canon_foldl_2
    | with_reducible apply canon_foldl_2s
    | with_reducible apply canon_foldl_22
    | with_reducible apply canon_foldl_22s
    | with_reducible apply canon_foldl_A
    | with_reducible apply canon_foldl_as
    | with_reducible apply canon_foldl_das
    | with_reducible apply canon_foldl_2das
    | with_reducible apply canon_foldl_1as
    | dsimp only
    | (intro s_ hc_; beta_reduce)
    | intro _
    | split
    | (simp only [canon_mk_iff]; refine ⟨?_, ?_, ?_⟩)
    | ((fail_if_no_progress clear_value *); split)
    | dsimp +zetaDelta only)

theorem canon_pastFlr (fn : Fn) (k : State → State) (s : State)  (hk : ∀ a0_, Canon a0_ → Canon (k a0_)) (hs : Canon s) : Canon (pastFlr fn k s) := by
  unfold pastFlr
  repeat' (first
    | with_reducible assumption
    | ((fail_if_no_progress extract_lets +onlyGivenNames s_); first | (refine canon_cut (s := s_) ?_ (fun hc_ => ?_); (on_goal 2 => (try clear_value s_)); unfold s_) | (refine canon_cut (s := s_.s) ?_ (fun hc_ => ?_); (on_goal 2 => (try clear_value s_)); unfold s_) | (refine canon_cut (s := s_.1) ?_ (fun hc_ => ?_); (on_goal 2 => (try clear_value s_)); unfold s_) | (refine canon_cut (s := s_.2) ?_ (fun hc_ => ?_); (on_goal 2 => (try clear_value s_)); unfold s_) | (refine canon_cut (s := s_.2.s) ?_ (fun hc_ => ?_); (on_goal 2 => (try clear_value s_)); unfold s_) | (refine canon_cut (s := s_.2.2) ?_ (fun hc_ => ?_); (on_goal 2 => (try clear_value s_)); unfold s_) | (refine canon_cut (s := s_.2.2.s) ?_ (fun hc_ => ?_); (on_goal 2 => (try clear_value s_)); unfold s_) | (refine canon_cut (s := s_.1.s) ?_ (fun hc_ => ?_); (on_goal 2 => (try clear_value s_)); unfold s_) | (refine canon_cut (s := s_.1.a.s) ?_ (fun hc_ => ?_); (on_goal 2 => (try clear_value s_)); unfold s_) | (refine canon_cut (s := s_.a.s) ?_ (fun hc_ => ?_); (on_goal 2 => (try clear_value s_)); unfold s_) | (refine canon_cut (s := s_.2.a.s) ?_ (fun hc_ => ?_); (on_goal 2 => (try clear_value s_)); unfold s_) | skip)
    | with_reducible apply hk
    | with_reducible apply canon_flrSettle
    | with_reducible apply canon_mem
    | with_reducible apply canon_hostMem
    | with_reducible apply canon_regs
    | with_reducible apply wf_mwrite
    | with_reducible apply wf_mset
    | with_reducible apply wf_mfill
    | with_reducible apply wf_filter
    | with_reducible apply rwf_rset
    | with_reducible apply rwf_filter
    | with_reducible apply wf_nil
    | with_reducible apply rwf_nil
    | with_reducible apply canon_foldl
    | with_reducible apply canon_foldl_s
    | with_reducible apply canon_foldl_1
    | with_reducible apply canon_foldl_2
    | with_reducible apply canon_foldl_2s
    | with_reducible apply canon_foldl_22
    | with_reducible apply canon_foldl_22s
    | with_reducible apply canon_foldl_A
    | with_reducible apply canon_foldl_as
    | with_reducible apply canon_foldl_das
    | with_reducible apply canon_foldl_2das
    | with_reducible apply canon_foldl_1as
    | dsimp only
    | (intro s_ hc_; beta_reduce)
    | intro _
    | split
    | (simp only [canon_mk_iff]; refine ⟨?_, ?_, ?_⟩)
    | ((fail_if_no_progress clear_value *); split)
    | dsimp +zetaDelta only)

theorem canon_bar0 (fn : Fn) (n : Nat) (s : State) (k : State → State) (hs : Canon s) (hk : ∀ a0_, Canon a0_ → Canon (k a0_)) : OutCanon (bar0 fn n s k) := by
  unfold bar0
  repeat' (first
    | with_reducible assumption
    | ((fail_if_no_progress extract_lets +onlyGivenNames s_); first | (refine canon_cut (s := s_) ?_ (fun hc_ => ?_); (on_goal 2 => (try clear_value s_)); unfold s_) | skip)
    | with_reducible apply hk | with_reducible apply canon_live | with_reducible apply canon_pastFlr | with_reducible apply canon_dropHeld
    | with_reducible apply canon_bump | with_reducible apply canon_mem | with_reducible apply canon_hostMem | with_reducible apply canon_regs
    | with_reducible apply canon_foldl | dsimp only | (intro s_ hc_; beta_reduce) | intro _ | split | (simp only [canon_mk_iff]; refine ⟨?_, ?_, ?_⟩))

theorem canon_writerPasses (i : Instr) (k : State → State) (s : State)  (hk : ∀ a0_, Canon a0_ → Canon (k a0_)) (hs : Canon s) : Canon (writerPasses i k s) := by
  unfold writerPasses
  repeat' (first
    | with_reducible assumption
    | ((fail_if_no_progress extract_lets +onlyGivenNames s_); first | (refine canon_cut (s := s_) ?_ (fun hc_ => ?_); (on_goal 2 => (try clear_value s_)); unfold s_) | (refine canon_cut (s := s_.s) ?_ (fun hc_ => ?_); (on_goal 2 => (try clear_value s_)); unfold s_) | (refine canon_cut (s := s_.1) ?_ (fun hc_ => ?_); (on_goal 2 => (try clear_value s_)); unfold s_) | (refine canon_cut (s := s_.2) ?_ (fun hc_ => ?_); (on_goal 2 => (try clear_value s_)); unfold s_) | (refine canon_cut (s := s_.2.s) ?_ (fun hc_ => ?_); (on_goal 2 => (try clear_value s_)); unfold s_) | (refine canon_cut (s := s_.2.2) ?_ (fun hc_ => ?_); (on_goal 2 => (try clear_value s_)); unfold s_) | (refine canon_cut (s := s_.2.2.s) ?_ (fun hc_ => ?_); (on_goal 2 => (try clear_value s_)); unfold s_) | (refine canon_cut (s := s_.1.s) ?_ (fun hc_ => ?_); (on_goal 2 => (try clear_value s_)); unfold s_) | (refine canon_cut (s := s_.1.a.s) ?_ (fun hc_ => ?_); (on_goal 2 => (try clear_value s_)); unfold s_) | (refine canon_cut (s := s_.a.s) ?_ (fun hc_ => ?_); (on_goal 2 => (try clear_value s_)); unfold s_) | (refine canon_cut (s := s_.2.a.s) ?_ (fun hc_ => ?_); (on_goal 2 => (try clear_value s_)); unfold s_) | skip)
    | with_reducible apply hk
    | with_reducible apply canon_pastFlr
    | with_reducible apply canon_mem
    | with_reducible apply canon_hostMem
    | with_reducible apply canon_regs
    | with_reducible apply wf_mwrite
    | with_reducible apply wf_mset
    | with_reducible apply wf_mfill
    | with_reducible apply wf_filter
    | with_reducible apply rwf_rset
    | with_reducible apply rwf_filter
    | with_reducible apply wf_nil
    | with_reducible apply rwf_nil
    | with_reducible apply canon_foldl
    | with_reducible apply canon_foldl_s
    | with_reducible apply canon_foldl_1
    | with_reducible apply canon_foldl_2
    | with_reducible apply canon_foldl_2s
    | with_reducible apply canon_foldl_22
    | with_reducible apply canon_foldl_22s
    | with_reducible apply canon_foldl_A
    | with_reducible apply canon_foldl_as
    | with_reducible apply canon_foldl_das
    | with_reducible apply canon_foldl_2das
    | with_reducible apply canon_foldl_1as
    | dsimp only
    | (intro s_ hc_; beta_reduce)
    | intro _
    | split
    | (simp only [canon_mk_iff]; refine ⟨?_, ?_, ?_⟩)
    | ((fail_if_no_progress clear_value *); split)
    | dsimp +zetaDelta only)

theorem canon_orRecord (i : Instr) (k : State → State) (s : State)  (hk : ∀ a0_, Canon a0_ → Canon (k a0_)) (hs : Canon s) : Canon (orRecord i k s) := by
  unfold orRecord
  repeat' (first
    | with_reducible assumption
    | ((fail_if_no_progress extract_lets +onlyGivenNames s_); first | (refine canon_cut (s := s_) ?_ (fun hc_ => ?_); (on_goal 2 => (try clear_value s_)); unfold s_) | skip)
    | with_reducible apply hk | with_reducible apply canon_writerPasses | with_reducible apply canon_beforeWrite | with_reducible apply canon_mem
    | with_reducible apply canon_hostMem | with_reducible apply canon_regs | with_reducible apply canon_foldl | dsimp only
    | (intro s_ hc_; beta_reduce) | intro _ | split | (simp only [canon_mk_iff]; refine ⟨?_, ?_, ?_⟩))

theorem canon_running (s : State) (k : State → State) (hs : Canon s) (hk : ∀ a0_, Canon a0_ → Canon (k a0_)) : OutCanon (running s k) := by
  unfold running
  repeat' (first
    | with_reducible assumption | with_reducible apply hk | with_reducible apply canon_live | (intro s_ hc_; beta_reduce) | split)

theorem canon_snuffCause (cause origin queue : Nat) (s : State)  (hs : Canon s) : Canon (snuffCause cause origin queue s) := by
  unfold snuffCause
  repeat' (first
    | with_reducible assumption
    | ((fail_if_no_progress extract_lets +onlyGivenNames s_); first | (refine canon_cut (s := s_) ?_ (fun hc_ => ?_); (on_goal 2 => (try clear_value s_)); unfold s_) | (refine canon_cut (s := s_.s) ?_ (fun hc_ => ?_); (on_goal 2 => (try clear_value s_)); unfold s_) | (refine canon_cut (s := s_.1) ?_ (fun hc_ => ?_); (on_goal 2 => (try clear_value s_)); unfold s_) | (refine canon_cut (s := s_.2) ?_ (fun hc_ => ?_); (on_goal 2 => (try clear_value s_)); unfold s_) | (refine canon_cut (s := s_.2.s) ?_ (fun hc_ => ?_); (on_goal 2 => (try clear_value s_)); unfold s_) | (refine canon_cut (s := s_.2.2) ?_ (fun hc_ => ?_); (on_goal 2 => (try clear_value s_)); unfold s_) | (refine canon_cut (s := s_.2.2.s) ?_ (fun hc_ => ?_); (on_goal 2 => (try clear_value s_)); unfold s_) | (refine canon_cut (s := s_.1.s) ?_ (fun hc_ => ?_); (on_goal 2 => (try clear_value s_)); unfold s_) | (refine canon_cut (s := s_.1.a.s) ?_ (fun hc_ => ?_); (on_goal 2 => (try clear_value s_)); unfold s_) | (refine canon_cut (s := s_.a.s) ?_ (fun hc_ => ?_); (on_goal 2 => (try clear_value s_)); unfold s_) | (refine canon_cut (s := s_.2.a.s) ?_ (fun hc_ => ?_); (on_goal 2 => (try clear_value s_)); unfold s_) | skip)
    | with_reducible apply canon_setFld
    | with_reducible apply canon_mem
    | with_reducible apply canon_hostMem
    | with_reducible apply canon_regs
    | with_reducible apply wf_mwrite
    | with_reducible apply wf_mset
    | with_reducible apply wf_mfill
    | with_reducible apply wf_filter
    | with_reducible apply rwf_rset
    | with_reducible apply rwf_filter
    | with_reducible apply wf_nil
    | with_reducible apply rwf_nil
    | with_reducible apply canon_foldl
    | with_reducible apply canon_foldl_s
    | with_reducible apply canon_foldl_1
    | with_reducible apply canon_foldl_2
    | with_reducible apply canon_foldl_2s
    | with_reducible apply canon_foldl_22
    | with_reducible apply canon_foldl_22s
    | with_reducible apply canon_foldl_A
    | with_reducible apply canon_foldl_as
    | with_reducible apply canon_foldl_das
    | with_reducible apply canon_foldl_2das
    | with_reducible apply canon_foldl_1as
    | dsimp only
    | (intro s_ hc_; beta_reduce)
    | intro _
    | split
    | (simp only [canon_mk_iff]; refine ⟨?_, ?_, ?_⟩)
    | ((fail_if_no_progress clear_value *); split)
    | dsimp +zetaDelta only)

theorem canon_snuffRecord (cause origin queue : Nat) (s : State)  (hs : Canon s) : Canon (snuffRecord cause origin queue s) := by
  unfold snuffRecord
  repeat' (first
    | with_reducible assumption
    | ((fail_if_no_progress extract_lets +onlyGivenNames s_); first | (refine canon_cut (s := s_) ?_ (fun hc_ => ?_); (on_goal 2 => (try clear_value s_)); unfold s_) | (refine canon_cut (s := s_.s) ?_ (fun hc_ => ?_); (on_goal 2 => (try clear_value s_)); unfold s_) | (refine canon_cut (s := s_.1) ?_ (fun hc_ => ?_); (on_goal 2 => (try clear_value s_)); unfold s_) | (refine canon_cut (s := s_.2) ?_ (fun hc_ => ?_); (on_goal 2 => (try clear_value s_)); unfold s_) | (refine canon_cut (s := s_.2.s) ?_ (fun hc_ => ?_); (on_goal 2 => (try clear_value s_)); unfold s_) | (refine canon_cut (s := s_.2.2) ?_ (fun hc_ => ?_); (on_goal 2 => (try clear_value s_)); unfold s_) | (refine canon_cut (s := s_.2.2.s) ?_ (fun hc_ => ?_); (on_goal 2 => (try clear_value s_)); unfold s_) | (refine canon_cut (s := s_.1.s) ?_ (fun hc_ => ?_); (on_goal 2 => (try clear_value s_)); unfold s_) | (refine canon_cut (s := s_.1.a.s) ?_ (fun hc_ => ?_); (on_goal 2 => (try clear_value s_)); unfold s_) | (refine canon_cut (s := s_.a.s) ?_ (fun hc_ => ?_); (on_goal 2 => (try clear_value s_)); unfold s_) | (refine canon_cut (s := s_.2.a.s) ?_ (fun hc_ => ?_); (on_goal 2 => (try clear_value s_)); unfold s_) | skip)
    | with_reducible apply canon_report
    | with_reducible apply canon_snuffCause
    | with_reducible apply canon_setReg
    | with_reducible apply canon_mem
    | with_reducible apply canon_hostMem
    | with_reducible apply canon_regs
    | with_reducible apply wf_mwrite
    | with_reducible apply wf_mset
    | with_reducible apply wf_mfill
    | with_reducible apply wf_filter
    | with_reducible apply rwf_rset
    | with_reducible apply rwf_filter
    | with_reducible apply wf_nil
    | with_reducible apply rwf_nil
    | with_reducible apply canon_foldl
    | with_reducible apply canon_foldl_s
    | with_reducible apply canon_foldl_1
    | with_reducible apply canon_foldl_2
    | with_reducible apply canon_foldl_2s
    | with_reducible apply canon_foldl_22
    | with_reducible apply canon_foldl_22s
    | with_reducible apply canon_foldl_A
    | with_reducible apply canon_foldl_as
    | with_reducible apply canon_foldl_das
    | with_reducible apply canon_foldl_2das
    | with_reducible apply canon_foldl_1as
    | dsimp only
    | (intro s_ hc_; beta_reduce)
    | intro _
    | split
    | (simp only [canon_mk_iff]; refine ⟨?_, ?_, ?_⟩)
    | ((fail_if_no_progress clear_value *); split)
    | dsimp +zetaDelta only)

theorem canon_snuffAmend (cause origin queue : Nat) (s : State)  (hs : Canon s) : Canon (snuffAmend cause origin queue s) := by
  unfold snuffAmend
  repeat' (first
    | with_reducible assumption
    | ((fail_if_no_progress extract_lets +onlyGivenNames s_); first | (refine canon_cut (s := s_) ?_ (fun hc_ => ?_); (on_goal 2 => (try clear_value s_)); unfold s_) | (refine canon_cut (s := s_.s) ?_ (fun hc_ => ?_); (on_goal 2 => (try clear_value s_)); unfold s_) | (refine canon_cut (s := s_.1) ?_ (fun hc_ => ?_); (on_goal 2 => (try clear_value s_)); unfold s_) | (refine canon_cut (s := s_.2) ?_ (fun hc_ => ?_); (on_goal 2 => (try clear_value s_)); unfold s_) | (refine canon_cut (s := s_.2.s) ?_ (fun hc_ => ?_); (on_goal 2 => (try clear_value s_)); unfold s_) | (refine canon_cut (s := s_.2.2) ?_ (fun hc_ => ?_); (on_goal 2 => (try clear_value s_)); unfold s_) | (refine canon_cut (s := s_.2.2.s) ?_ (fun hc_ => ?_); (on_goal 2 => (try clear_value s_)); unfold s_) | (refine canon_cut (s := s_.1.s) ?_ (fun hc_ => ?_); (on_goal 2 => (try clear_value s_)); unfold s_) | (refine canon_cut (s := s_.1.a.s) ?_ (fun hc_ => ?_); (on_goal 2 => (try clear_value s_)); unfold s_) | (refine canon_cut (s := s_.a.s) ?_ (fun hc_ => ?_); (on_goal 2 => (try clear_value s_)); unfold s_) | (refine canon_cut (s := s_.2.a.s) ?_ (fun hc_ => ?_); (on_goal 2 => (try clear_value s_)); unfold s_) | skip)
    | with_reducible apply canon_snuffCause
    | with_reducible apply canon_mem
    | with_reducible apply canon_hostMem
    | with_reducible apply canon_regs
    | with_reducible apply wf_mwrite
    | with_reducible apply wf_mset
    | with_reducible apply wf_mfill
    | with_reducible apply wf_filter
    | with_reducible apply rwf_rset
    | with_reducible apply rwf_filter
    | with_reducible apply wf_nil
    | with_reducible apply rwf_nil
    | with_reducible apply canon_foldl
    | with_reducible apply canon_foldl_s
    | with_reducible apply canon_foldl_1
    | with_reducible apply canon_foldl_2
    | with_reducible apply canon_foldl_2s
    | with_reducible apply canon_foldl_22
    | with_reducible apply canon_foldl_22s
    | with_reducible apply canon_foldl_A
    | with_reducible apply canon_foldl_as
    | with_reducible apply canon_foldl_das
    | with_reducible apply canon_foldl_2das
    | with_reducible apply canon_foldl_1as
    | dsimp only
    | (intro s_ hc_; beta_reduce)
    | intro _
    | split
    | (simp only [canon_mk_iff]; refine ⟨?_, ?_, ?_⟩)
    | ((fail_if_no_progress clear_value *); split)
    | dsimp +zetaDelta only)

theorem canon_snuffStart (s : State)  (hs : Canon s) : Canon (snuffStart s) := by
  unfold snuffStart
  repeat' (first
    | with_reducible assumption
    | ((fail_if_no_progress extract_lets +onlyGivenNames s_); first | (refine canon_cut (s := s_) ?_ (fun hc_ => ?_); (on_goal 2 => (try clear_value s_)); unfold s_) | (refine canon_cut (s := s_.s) ?_ (fun hc_ => ?_); (on_goal 2 => (try clear_value s_)); unfold s_) | (refine canon_cut (s := s_.1) ?_ (fun hc_ => ?_); (on_goal 2 => (try clear_value s_)); unfold s_) | (refine canon_cut (s := s_.2) ?_ (fun hc_ => ?_); (on_goal 2 => (try clear_value s_)); unfold s_) | (refine canon_cut (s := s_.2.s) ?_ (fun hc_ => ?_); (on_goal 2 => (try clear_value s_)); unfold s_) | (refine canon_cut (s := s_.2.2) ?_ (fun hc_ => ?_); (on_goal 2 => (try clear_value s_)); unfold s_) | (refine canon_cut (s := s_.2.2.s) ?_ (fun hc_ => ?_); (on_goal 2 => (try clear_value s_)); unfold s_) | (refine canon_cut (s := s_.1.s) ?_ (fun hc_ => ?_); (on_goal 2 => (try clear_value s_)); unfold s_) | (refine canon_cut (s := s_.1.a.s) ?_ (fun hc_ => ?_); (on_goal 2 => (try clear_value s_)); unfold s_) | (refine canon_cut (s := s_.a.s) ?_ (fun hc_ => ?_); (on_goal 2 => (try clear_value s_)); unfold s_) | (refine canon_cut (s := s_.2.a.s) ?_ (fun hc_ => ?_); (on_goal 2 => (try clear_value s_)); unfold s_) | skip)
    | with_reducible apply canon_fresh
    | with_reducible refine canon_fresh_eq (by assumption) ?_
    | with_reducible apply canon_setStatus
    | with_reducible apply canon_setFld
    | with_reducible apply canon_mem
    | with_reducible apply canon_hostMem
    | with_reducible apply canon_regs
    | with_reducible apply wf_mwrite
    | with_reducible apply wf_mset
    | with_reducible apply wf_mfill
    | with_reducible apply wf_filter
    | with_reducible apply rwf_rset
    | with_reducible apply rwf_filter
    | with_reducible apply wf_nil
    | with_reducible apply rwf_nil
    | with_reducible apply canon_foldl
    | with_reducible apply canon_foldl_s
    | with_reducible apply canon_foldl_1
    | with_reducible apply canon_foldl_2
    | with_reducible apply canon_foldl_2s
    | with_reducible apply canon_foldl_22
    | with_reducible apply canon_foldl_22s
    | with_reducible apply canon_foldl_A
    | with_reducible apply canon_foldl_as
    | with_reducible apply canon_foldl_das
    | with_reducible apply canon_foldl_2das
    | with_reducible apply canon_foldl_1as
    | dsimp only
    | (intro s_ hc_; beta_reduce)
    | intro _
    | split
    | (simp only [canon_mk_iff]; refine ⟨?_, ?_, ?_⟩)
    | ((fail_if_no_progress clear_value *); split)
    | dsimp +zetaDelta only)

theorem canon_snuffTrigger (cause origin queue : Nat) (s : State)  (hs : Canon s) : Canon (snuffTrigger cause origin queue s) := by
  unfold snuffTrigger
  repeat' (first
    | with_reducible assumption
    | ((fail_if_no_progress extract_lets +onlyGivenNames s_); first | (refine canon_cut (s := s_) ?_ (fun hc_ => ?_); (on_goal 2 => (try clear_value s_)); unfold s_) | skip)
    | with_reducible apply canon_snuffStart | with_reducible apply canon_snuffRecord | with_reducible apply canon_snuffAmend
    | with_reducible apply canon_mem | with_reducible apply canon_hostMem | with_reducible apply canon_regs | with_reducible apply canon_foldl
    | dsimp only | (intro s_ hc_; beta_reduce) | intro _ | split | (simp only [canon_mk_iff]; refine ⟨?_, ?_, ?_⟩))

end Sys2Proof.Machine
end

