-- ==== Sys2Proof/Laws/Canon/Power.lean ====
section
/-!
SUPPORT. The operations and meanings of Machine/Power.lean keep the canonical form of the memories and of the register file.
-/
set_option linter.all false
namespace Sys2Proof.Machine

theorem canon_setRails (f : Nat) (s : State)  (hs : Canon s) : Canon (setRails f s) := by
  unfold setRails
  repeat' (first
    | with_reducible assumption | with_reducible apply canon_setFld | with_reducible apply canon_foldl | (intro s_ hc_; beta_reduce))

theorem canon_recomputeSus (s : State)  (hs : Canon s) : Canon (recomputeSus s) := by
  unfold recomputeSus
  repeat' (first
    | with_reducible assumption
    | ((fail_if_no_progress extract_lets +onlyGivenNames s_); first | (refine canon_cut (s := s_) ?_ (fun hc_ => ?_); (on_goal 2 => (try clear_value s_)); unfold s_) | skip)
    | with_reducible apply canon_setFld | with_reducible apply canon_report | with_reducible apply canon_degrade | with_reducible apply canon_setBit
    | with_reducible apply canon_mem | with_reducible apply canon_hostMem | with_reducible apply canon_regs | split
    | (simp only [canon_mk_iff]; refine ⟨?_, ?_, ?_⟩))

theorem canon_seqNext (s : State)  (hs : Canon s) : Canon (seqNext s) := by
  unfold seqNext
  repeat' (first
    | with_reducible assumption
    | ((fail_if_no_progress extract_lets +onlyGivenNames s_); first | (refine canon_cut (s := s_) ?_ (fun hc_ => ?_); (on_goal 2 => (try clear_value s_)); unfold s_) | skip)
    | with_reducible apply canon_setRails | with_reducible apply canon_mem | with_reducible apply canon_hostMem | with_reducible apply canon_regs
    | split | (simp only [canon_mk_iff]; refine ⟨?_, ?_, ?_⟩))

theorem canon_retarget (s : State)  (hs : Canon s) : Canon (retarget s) := by
  unfold retarget
  repeat' (first
    | with_reducible assumption
    | ((fail_if_no_progress extract_lets +onlyGivenNames s_); first | (refine canon_cut (s := s_) ?_ (fun hc_ => ?_); (on_goal 2 => (try clear_value s_)); unfold s_) | skip)
    | with_reducible apply canon_seqNext | with_reducible apply canon_mem | with_reducible apply canon_hostMem | with_reducible apply canon_regs
    | split | (simp only [canon_mk_iff]; refine ⟨?_, ?_, ?_⟩))

theorem canon_pllStepAck (s : State)  (hs : Canon s) : Canon (pllStepAck s) := by
  unfold pllStepAck
  repeat' (first
    | with_reducible assumption | with_reducible apply canon_seqNext | with_reducible apply canon_setFld | split)

theorem canon_railSettled (s : State)  (hs : Canon s) : Canon (railSettled s) := by
  unfold railSettled
  repeat' (first
    | with_reducible assumption | (fail_if_no_progress extract_lets +onlyGivenNames s_) | with_reducible apply canon_seqNext
    | with_reducible apply canon_mem | with_reducible apply canon_hostMem | with_reducible apply canon_regs | split
    | (simp only [canon_mk_iff]; refine ⟨?_, ?_, ?_⟩))

theorem canon_railTimeout (n : Fin 4) (s : State)  (hs : Canon s) : Canon (railTimeout n s) := by
  unfold railTimeout
  repeat' (first
    | with_reducible assumption
    | ((fail_if_no_progress extract_lets +onlyGivenNames s_); first | (refine canon_cut (s := s_) ?_ (fun hc_ => ?_); (on_goal 2 => (try clear_value s_)); unfold s_) | skip)
    | with_reducible apply canon_setRails | with_reducible apply canon_reportUnnamed | with_reducible apply canon_mem
    | with_reducible apply canon_hostMem | with_reducible apply canon_regs | split | (simp only [canon_mk_iff]; refine ⟨?_, ?_, ?_⟩))

theorem canon_lowerLim (d : Nat) (s : State)  (hs : Canon s) : Canon (lowerLim d s) := by
  unfold lowerLim
  repeat' (first
    | with_reducible assumption
    | ((fail_if_no_progress extract_lets +onlyGivenNames s_); first | (refine canon_cut (s := s_) ?_ (fun hc_ => ?_); (on_goal 2 => (try clear_value s_)); unfold s_) | skip)
    | with_reducible apply canon_setFld | with_reducible apply canon_addSat | with_reducible apply canon_mem | with_reducible apply canon_hostMem
    | with_reducible apply canon_regs | split | (simp only [canon_mk_iff]; refine ⟨?_, ?_, ?_⟩))

theorem canon_limiterWindow (p : Nat) (s : State)  (hs : Canon s) : Canon (limiterWindow p s) := by
  unfold limiterWindow
  repeat' (first
    | with_reducible assumption
    | ((fail_if_no_progress extract_lets +onlyGivenNames s_); first | (refine canon_cut (s := s_) ?_ (fun hc_ => ?_); (on_goal 2 => (try clear_value s_)); unfold s_) | (refine canon_cut (s := s_.s) ?_ (fun hc_ => ?_); (on_goal 2 => (try clear_value s_)); unfold s_) | (refine canon_cut (s := s_.1) ?_ (fun hc_ => ?_); (on_goal 2 => (try clear_value s_)); unfold s_) | (refine canon_cut (s := s_.2) ?_ (fun hc_ => ?_); (on_goal 2 => (try clear_value s_)); unfold s_) | (refine canon_cut (s := s_.2.s) ?_ (fun hc_ => ?_); (on_goal 2 => (try clear_value s_)); unfold s_) | (refine canon_cut (s := s_.2.2) ?_ (fun hc_ => ?_); (on_goal 2 => (try clear_value s_)); unfold s_) | (refine canon_cut (s := s_.2.2.s) ?_ (fun hc_ => ?_); (on_goal 2 => (try clear_value s_)); unfold s_) | (refine canon_cut (s := s_.1.s) ?_ (fun hc_ => ?_); (on_goal 2 => (try clear_value s_)); unfold s_) | (refine canon_cut (s := s_.1.a.s) ?_ (fun hc_ => ?_); (on_goal 2 => (try clear_value s_)); unfold s_) | (refine canon_cut (s := s_.a.s) ?_ (fun hc_ => ?_); (on_goal 2 => (try clear_value s_)); unfold s_) | (refine canon_cut (s := s_.2.a.s) ?_ (fun hc_ => ?_); (on_goal 2 => (try clear_value s_)); unfold s_) | skip)
    | with_reducible apply canon_setFld
    | with_reducible apply canon_lowerLim
    | with_reducible apply canon_setBit
    | with_reducible apply canon_retarget
    | with_reducible apply canon_Applying_take
    | with_reducible refine canon_Applying_take_eq (by assumption) ?_ ?_
    | with_reducible apply canon_addSat
    | with_reducible apply canon_mem
    | with_reducible apply canon_hostMem
    | with_reducible apply canon_regs
    | with_reducible apply wf_mwrite
    | with_reducible apply wf_mset
    | with_reducible apply wf_mfill
    | with_reducible apply wf_filter
    | with_reducible apply rwf_rset
    | with_reducible apply rwf_filter
    | with_reducible apply wf_nil
    | with_reducible apply rwf_nil
    | with_reducible apply canon_foldl
    | with_reducible apply canon_foldl_s
    | with_reducible apply canon_foldl_1
    | with_reducible apply canon_foldl_2
    | with_reducible apply canon_foldl_2s
    | with_reducible apply canon_foldl_22
    | with_reducible apply canon_foldl_22s
    | with_reducible apply canon_foldl_A
    | with_reducible apply canon_foldl_as
    | with_reducible apply canon_foldl_das
    | with_reducible apply canon_foldl_2das
    | with_reducible apply canon_foldl_1as
    | dsimp only
    | (intro s_ hc_; beta_reduce)
    | intro _
    | split
    | (simp only [canon_mk_iff]; refine ⟨?_, ?_, ?_⟩)
    | ((fail_if_no_progress clear_value *); split)
    | dsimp +zetaDelta only)

theorem canon_powerWindow (r : PowerReadings) (s : State)  (hs : Canon s) : Canon (powerWindow r s) := by
  unfold powerWindow
  repeat' (first
    | with_reducible assumption
    | ((fail_if_no_progress extract_lets +onlyGivenNames s_); first | (refine canon_cut (s := s_) ?_ (fun hc_ => ?_); (on_goal 2 => (try clear_value s_)); unfold s_) | skip)
    | with_reducible apply canon_limiterWindow | with_reducible apply canon_mem | with_reducible apply canon_hostMem | with_reducible apply canon_regs
    | with_reducible apply canon_foldl | dsimp only | (intro s_ hc_; beta_reduce) | intro _ | split | (simp only [canon_mk_iff]; refine ⟨?_, ?_, ?_⟩))

theorem canon_grantHoldEnd (s : State)  (hs : Canon s) : Canon (grantHoldEnd s) := by
  unfold grantHoldEnd
  repeat' (first
    | with_reducible assumption | with_reducible apply canon_setBit | split)

theorem canon_capUnmet (s : State)  (hs : Canon s) : Canon (capUnmet s) := by
  unfold capUnmet
  repeat' (first
    | with_reducible assumption | with_reducible apply canon_report | with_reducible apply canon_setBit | split)

theorem canon_droopFire (n : Fin 4) (s : State)  (hs : Canon s) : Canon (droopFire n s) := by
  unfold droopFire
  repeat' (first
    | with_reducible assumption | (fail_if_no_progress extract_lets +onlyGivenNames s_) | with_reducible apply canon_addSat
    | with_reducible apply canon_mem | with_reducible apply canon_hostMem | with_reducible apply canon_regs | split
    | (simp only [canon_mk_iff]; refine ⟨?_, ?_, ?_⟩))

theorem canon_droopEnd (n : Fin 4) (s : State)  (hs : Canon s) : Canon (droopEnd n s) := by
  unfold droopEnd
  repeat' (first
    | with_reducible assumption | (fail_if_no_progress extract_lets +onlyGivenNames s_) | with_reducible apply canon_mem
    | with_reducible apply canon_hostMem | with_reducible apply canon_regs | (simp only [canon_mk_iff]; refine ⟨?_, ?_, ?_⟩))

theorem canon_lowerTh (g : Nat) (s : State)  (hs : Canon s) : Canon (lowerTh g s) := by
  unfold lowerTh
  repeat' (first
    | with_reducible assumption | with_reducible apply canon_setFld | with_reducible apply canon_addSat | split)

theorem canon_thermalStep (s : State)  (hs : Canon s) : Canon (thermalStep s) := by
  unfold thermalStep
  repeat' (first
    | with_reducible assumption | (fail_if_no_progress extract_lets +onlyGivenNames s_) | with_reducible apply canon_lowerTh
    | with_reducible apply canon_setFld | split)

theorem canon_powerLoop (s : State)  (hs : Canon s) : Canon (powerLoop s) := by
  unfold powerLoop
  repeat' (first
    | with_reducible assumption
    | ((fail_if_no_progress extract_lets +onlyGivenNames s_); first | (refine canon_cut (s := s_) ?_ (fun hc_ => ?_); (on_goal 2 => (try clear_value s_)); unfold s_) | skip)
    | with_reducible apply canon_setFld | with_reducible apply canon_mem | with_reducible apply canon_hostMem | with_reducible apply canon_regs
    | split | (simp only [canon_mk_iff]; refine ⟨?_, ?_, ?_⟩))

theorem canon_raiseRail (s : State) (n : Nat)  (hs : Canon s) : Canon (raiseRail s n) := by
  unfold raiseRail
  repeat' (first
    | with_reducible assumption
    | ((fail_if_no_progress extract_lets +onlyGivenNames s_); first | (refine canon_cut (s := s_) ?_ (fun hc_ => ?_); (on_goal 2 => (try clear_value s_)); unfold s_) | (refine canon_cut (s := s_.s) ?_ (fun hc_ => ?_); (on_goal 2 => (try clear_value s_)); unfold s_) | (refine canon_cut (s := s_.1) ?_ (fun hc_ => ?_); (on_goal 2 => (try clear_value s_)); unfold s_) | (refine canon_cut (s := s_.2) ?_ (fun hc_ => ?_); (on_goal 2 => (try clear_value s_)); unfold s_) | (refine canon_cut (s := s_.2.s) ?_ (fun hc_ => ?_); (on_goal 2 => (try clear_value s_)); unfold s_) | (refine canon_cut (s := s_.2.2) ?_ (fun hc_ => ?_); (on_goal 2 => (try clear_value s_)); unfold s_) | (refine canon_cut (s := s_.2.2.s) ?_ (fun hc_ => ?_); (on_goal 2 => (try clear_value s_)); unfold s_) | (refine canon_cut (s := s_.1.s) ?_ (fun hc_ => ?_); (on_goal 2 => (try clear_value s_)); unfold s_) | (refine canon_cut (s := s_.1.a.s) ?_ (fun hc_ => ?_); (on_goal 2 => (try clear_value s_)); unfold s_) | (refine canon_cut (s := s_.a.s) ?_ (fun hc_ => ?_); (on_goal 2 => (try clear_value s_)); unfold s_) | (refine canon_cut (s := s_.2.a.s) ?_ (fun hc_ => ?_); (on_goal 2 => (try clear_value s_)); unfold s_) | skip)
    | with_reducible apply canon_setFld
    | with_reducible apply canon_mem
    | with_reducible apply canon_hostMem
    | with_reducible apply canon_regs
    | with_reducible apply wf_mwrite
    | with_reducible apply wf_mset
    | with_reducible apply wf_mfill
    | with_reducible apply wf_filter
    | with_reducible apply rwf_rset
    | with_reducible apply rwf_filter
    | with_reducible apply wf_nil
    | with_reducible apply rwf_nil
    | with_reducible apply canon_foldl
    | with_reducible apply canon_foldl_s
    | with_reducible apply canon_foldl_1
    | with_reducible apply canon_foldl_2
    | with_reducible apply canon_foldl_2s
    | with_reducible apply canon_foldl_22
    | with_reducible apply canon_foldl_22s
    | with_reducible apply canon_foldl_A
    | with_reducible apply canon_foldl_as
    | with_reducible apply canon_foldl_das
    | with_reducible apply canon_foldl_2das
    | with_reducible apply canon_foldl_1as
    | dsimp only
    | (intro s_ hc_; beta_reduce)
    | intro _
    | split
    | (simp only [canon_mk_iff]; refine ⟨?_, ?_, ?_⟩)
    | ((fail_if_no_progress clear_value *); split)
    | dsimp +zetaDelta only)

theorem canon_marginLoop (warn : BitVec 4) (s : State)  (hs : Canon s) : Canon (marginLoop warn s) := by
  unfold marginLoop
  repeat' (first
    | with_reducible assumption
    | ((fail_if_no_progress extract_lets +onlyGivenNames s_); first | (refine canon_cut (s := s_) ?_ (fun hc_ => ?_); (on_goal 2 => (try clear_value s_)); unfold s_) | skip)
    | with_reducible apply canon_setFld | with_reducible apply canon_recomputeSus | with_reducible apply canon_raiseRail
    | with_reducible apply canon_journalWrite | with_reducible apply canon_mem | with_reducible apply canon_hostMem | with_reducible apply canon_regs
    | with_reducible apply canon_foldl | dsimp only | (intro s_ hc_; beta_reduce) | intro _ | split | (simp only [canon_mk_iff]; refine ⟨?_, ?_, ?_⟩))

theorem canon_ageingCheck (readings : List AgeReading) (s : State)  (hs : Canon s) : Canon (ageingCheck readings s) := by
  unfold ageingCheck
  repeat' (first
    | with_reducible assumption | with_reducible apply canon_report | with_reducible apply canon_foldl | (intro s_ hc_; beta_reduce) | intro _ | split)

theorem canon_energyAdd (s : State) (i e : Nat)  (hs : Canon s) : Canon (energyAdd s i e) := by
  unfold energyAdd
  repeat' (first
    | with_reducible assumption
    | ((fail_if_no_progress extract_lets +onlyGivenNames s_); first | (refine canon_cut (s := s_) ?_ (fun hc_ => ?_); (on_goal 2 => (try clear_value s_)); unfold s_) | (refine canon_cut (s := s_.s) ?_ (fun hc_ => ?_); (on_goal 2 => (try clear_value s_)); unfold s_) | (refine canon_cut (s := s_.1) ?_ (fun hc_ => ?_); (on_goal 2 => (try clear_value s_)); unfold s_) | (refine canon_cut (s := s_.2) ?_ (fun hc_ => ?_); (on_goal 2 => (try clear_value s_)); unfold s_) | (refine canon_cut (s := s_.2.s) ?_ (fun hc_ => ?_); (on_goal 2 => (try clear_value s_)); unfold s_) | (refine canon_cut (s := s_.2.2) ?_ (fun hc_ => ?_); (on_goal 2 => (try clear_value s_)); unfold s_) | (refine canon_cut (s := s_.2.2.s) ?_ (fun hc_ => ?_); (on_goal 2 => (try clear_value s_)); unfold s_) | (refine canon_cut (s := s_.1.s) ?_ (fun hc_ => ?_); (on_goal 2 => (try clear_value s_)); unfold s_) | (refine canon_cut (s := s_.1.a.s) ?_ (fun hc_ => ?_); (on_goal 2 => (try clear_value s_)); unfold s_) | (refine canon_cut (s := s_.a.s) ?_ (fun hc_ => ?_); (on_goal 2 => (try clear_value s_)); unfold s_) | (refine canon_cut (s := s_.2.a.s) ?_ (fun hc_ => ?_); (on_goal 2 => (try clear_value s_)); unfold s_) | skip)
    | with_reducible apply canon_setReg
    | with_reducible apply canon_mem
    | with_reducible apply canon_hostMem
    | with_reducible apply canon_regs
    | with_reducible apply wf_mwrite
    | with_reducible apply wf_mset
    | with_reducible apply wf_mfill
    | with_reducible apply wf_filter
    | with_reducible apply rwf_rset
    | with_reducible apply rwf_filter
    | with_reducible apply wf_nil
    | with_reducible apply rwf_nil
    | with_reducible apply canon_foldl
    | with_reducible apply canon_foldl_s
    | with_reducible apply canon_foldl_1
    | with_reducible apply canon_foldl_2
    | with_reducible apply canon_foldl_2s
    | with_reducible apply canon_foldl_22
    | with_reducible apply canon_foldl_22s
    | with_reducible apply canon_foldl_A
    | with_reducible apply canon_foldl_as
    | with_reducible apply canon_foldl_das
    | with_reducible apply canon_foldl_2das
    | with_reducible apply canon_foldl_1as
    | dsimp only
    | (intro s_ hc_; beta_reduce)
    | intro _
    | split
    | (simp only [canon_mk_iff]; refine ⟨?_, ?_, ?_⟩)
    | ((fail_if_no_progress clear_value *); split)
    | dsimp +zetaDelta only)

theorem canon_energyTick (counts : List ActCount) (s : State)  (hs : Canon s) : Canon (energyTick counts s) := by
  unfold energyTick
  repeat' (first
    | with_reducible assumption
    | ((fail_if_no_progress extract_lets +onlyGivenNames s_); first | (refine canon_cut (s := s_) ?_ (fun hc_ => ?_); (on_goal 2 => (try clear_value s_)); unfold s_) | skip)
    | with_reducible apply canon_energyAdd | with_reducible apply canon_mem | with_reducible apply canon_hostMem | with_reducible apply canon_regs
    | with_reducible apply canon_foldl | dsimp only | (intro s_ hc_; beta_reduce) | intro _ | split | (simp only [canon_mk_iff]; refine ⟨?_, ?_, ?_⟩))

theorem canon_damper (s : State) (k : State → State) (hs : Canon s) (hk : ∀ a0_, Canon a0_ → Canon (k a0_)) : OutCanon (damper s k) := by
  unfold damper
  repeat' (first
    | with_reducible assumption | with_reducible apply canon_gated)

theorem canon_execPowerWindow (r : PowerReadings) (s : State) (hs : Canon s) : OutCanon (execPowerWindow r s) := by
  unfold execPowerWindow
  repeat' (first
    | with_reducible assumption | with_reducible apply canon_damper | with_reducible apply canon_powerWindow)

theorem canon_execGrantHoldEnd (s : State) (hs : Canon s) : OutCanon (execGrantHoldEnd s) := by
  unfold execGrantHoldEnd
  repeat' (first
    | with_reducible assumption | with_reducible apply canon_damper | with_reducible apply canon_grantHoldEnd)

theorem canon_execCapUnmet (s : State) (hs : Canon s) : OutCanon (execCapUnmet s) := by
  unfold execCapUnmet
  repeat' (first
    | with_reducible assumption | with_reducible apply canon_damper | with_reducible apply canon_capUnmet)

theorem canon_execThermalCeilingStep (s : State) (hs : Canon s) : OutCanon (execThermalCeilingStep s) := by
  unfold execThermalCeilingStep
  repeat' (first
    | with_reducible assumption | with_reducible apply canon_damper | with_reducible apply canon_thermalStep)

theorem canon_execPllStepAck (s : State) (hs : Canon s) : OutCanon (execPllStepAck s) := by
  unfold execPllStepAck
  repeat' (first
    | with_reducible assumption | with_reducible apply canon_damper | with_reducible apply canon_pllStepAck)

theorem canon_execRailSettled (s : State) (hs : Canon s) : OutCanon (execRailSettled s) := by
  unfold execRailSettled
  repeat' (first
    | with_reducible assumption | with_reducible apply canon_damper | with_reducible apply canon_railSettled)

theorem canon_execRailSettleTimeout (hearth : Fin 4) (s : State) (hs : Canon s) : OutCanon (execRailSettleTimeout hearth s) := by
  unfold execRailSettleTimeout
  repeat' (first
    | with_reducible assumption | with_reducible apply canon_damper | with_reducible apply canon_railTimeout)

theorem canon_execDroopFire (hearth : Fin 4) (s : State) (hs : Canon s) : OutCanon (execDroopFire hearth s) := by
  unfold execDroopFire
  repeat' (first
    | with_reducible assumption | with_reducible apply canon_damper | with_reducible apply canon_droopFire)

theorem canon_execDroopEnd (hearth : Fin 4) (s : State) (hs : Canon s) : OutCanon (execDroopEnd hearth s) := by
  unfold execDroopEnd
  repeat' (first
    | with_reducible assumption | with_reducible apply canon_damper | with_reducible apply canon_droopEnd)

theorem canon_execPowerLoop (s : State) (hs : Canon s) : OutCanon (execPowerLoop s) := by
  unfold execPowerLoop
  repeat' (first
    | with_reducible assumption | with_reducible apply canon_live | with_reducible apply canon_powerLoop)

theorem canon_execMarginLoop (warnings : BitVec 4) (s : State) (hs : Canon s) : OutCanon (execMarginLoop warnings s) := by
  unfold execMarginLoop
  repeat' (first
    | with_reducible assumption | with_reducible apply canon_live | with_reducible apply canon_marginLoop)

theorem canon_execAgeingCheck (readings : List AgeReading) (s : State) (hs : Canon s) : OutCanon (execAgeingCheck readings s) := by
  unfold execAgeingCheck
  repeat' (first
    | with_reducible assumption | with_reducible apply canon_live | with_reducible apply canon_ageingCheck)

theorem canon_execEnergyTick (counts : List ActCount) (s : State) (hs : Canon s) : OutCanon (execEnergyTick counts s) := by
  unfold execEnergyTick
  repeat' (first
    | with_reducible assumption | with_reducible apply canon_damper | with_reducible apply canon_energyTick)

end Sys2Proof.Machine
end

