-- ==== Sys2Proof/Laws/Canon/Boot.lean ====
section
/-!
SUPPORT. The operations and meanings of Machine/Boot.lean keep the canonical form of the memories and of the register file.
-/
set_option linter.all false
namespace Sys2Proof.Machine

theorem canon_setMeas (s : State) (n : Nat) (x : BitVec 512)  (hs : Canon s) : Canon (setMeas s n x) := by
  unfold setMeas
  repeat' (first
    | with_reducible assumption | with_reducible apply canon_setReg | with_reducible apply canon_foldl | (intro s_ hc_; beta_reduce))

theorem canon_logEvent (s : State) (e : EvEntry)  (hs : Canon s) : Canon (logEvent s e) := by
  unfold logEvent
  repeat' (first
    | with_reducible assumption | (fail_if_no_progress extract_lets +onlyGivenNames s_) | with_reducible apply canon_mem
    | with_reducible apply canon_hostMem | with_reducible apply canon_regs | split | (simp only [canon_mk_iff]; refine ⟨?_, ?_, ?_⟩))

theorem canon_extendM (s : State) (n : Nat) (x : BitVec 512) (kind source cause : Byte) (version : W32)  (hs : Canon s) : Canon (extendM s n x kind source cause version) := by
  unfold extendM
  repeat' (first
    | with_reducible assumption | with_reducible apply canon_logEvent | with_reducible apply canon_setMeas)

theorem canon_measureImage (s : State) (n : Nat) (kind : Byte) (im : Image)  (hs : Canon s) : Canon (measureImage s n kind im) := by
  unfold measureImage
  repeat' (first
    | with_reducible assumption
    | ((fail_if_no_progress extract_lets +onlyGivenNames s_); (refine canon_cut (s := s_) ?_ (fun hc_ => ?_); (on_goal 2 => (try clear_value s_)); unfold s_))
    | with_reducible apply canon_extendM)

theorem canon_lockVault (s : State)  (hs : Canon s) : Canon (lockVault s) := by
  unfold lockVault
  repeat' (first
    | with_reducible assumption | with_reducible apply canon_setStatus | with_reducible apply canon_setBit)

theorem canon_verifyFailed (s : State) (kind : Nat) (cause : Byte)  (hs : Canon s) : Canon (verifyFailed s kind cause) := by
  unfold verifyFailed
  repeat' (first
    | with_reducible assumption
    | ((fail_if_no_progress extract_lets +onlyGivenNames s_); first | (refine canon_cut (s := s_) ?_ (fun hc_ => ?_); (on_goal 2 => (try clear_value s_)); unfold s_) | (refine canon_cut (s := s_.s) ?_ (fun hc_ => ?_); (on_goal 2 => (try clear_value s_)); unfold s_) | (refine canon_cut (s := s_.1) ?_ (fun hc_ => ?_); (on_goal 2 => (try clear_value s_)); unfold s_) | (refine canon_cut (s := s_.2) ?_ (fun hc_ => ?_); (on_goal 2 => (try clear_value s_)); unfold s_) | (refine canon_cut (s := s_.2.s) ?_ (fun hc_ => ?_); (on_goal 2 => (try clear_value s_)); unfold s_) | (refine canon_cut (s := s_.2.2) ?_ (fun hc_ => ?_); (on_goal 2 => (try clear_value s_)); unfold s_) | (refine canon_cut (s := s_.2.2.s) ?_ (fun hc_ => ?_); (on_goal 2 => (try clear_value s_)); unfold s_) | (refine canon_cut (s := s_.1.s) ?_ (fun hc_ => ?_); (on_goal 2 => (try clear_value s_)); unfold s_) | (refine canon_cut (s := s_.1.a.s) ?_ (fun hc_ => ?_); (on_goal 2 => (try clear_value s_)); unfold s_) | (refine canon_cut (s := s_.a.s) ?_ (fun hc_ => ?_); (on_goal 2 => (try clear_value s_)); unfold s_) | (refine canon_cut (s := s_.2.a.s) ?_ (fun hc_ => ?_); (on_goal 2 => (try clear_value s_)); unfold s_) | skip)
    | with_reducible apply canon_reportUnnamed
    | with_reducible apply canon_mem
    | with_reducible apply canon_hostMem
    | with_reducible apply canon_regs
    | with_reducible apply wf_mwrite
    | with_reducible apply wf_mset
    | with_reducible apply wf_mfill
    | with_reducible apply wf_filter
    | with_reducible apply rwf_rset
    | with_reducible apply rwf_filter
    | with_reducible apply wf_nil
    | with_reducible apply rwf_nil
    | with_reducible apply canon_foldl
    | with_reducible apply canon_foldl_s
    | with_reducible apply canon_foldl_1
    | with_reducible apply canon_foldl_2
    | with_reducible apply canon_foldl_2s
    | with_reducible apply canon_foldl_22
    | with_reducible apply canon_foldl_22s
    | with_reducible apply canon_foldl_A
    | with_reducible apply canon_foldl_as
    | with_reducible apply canon_foldl_das
    | with_reducible apply canon_foldl_2das
    | with_reducible apply canon_foldl_1as
    | dsimp only
    | (intro s_ hc_; beta_reduce)
    | intro _
    | split
    | (simp only [canon_mk_iff]; refine ⟨?_, ?_, ?_⟩)
    | ((fail_if_no_progress clear_value *); split)
    | dsimp +zetaDelta only)

theorem canon_noteFailure (s : State) (k : Nat) (cause : Byte)  (hs : Canon s) : Canon (noteFailure s k cause) := by
  unfold noteFailure
  repeat' (first
    | with_reducible assumption
    | ((fail_if_no_progress extract_lets +onlyGivenNames s_); first | (refine canon_cut (s := s_) ?_ (fun hc_ => ?_); (on_goal 2 => (try clear_value s_)); unfold s_) | skip)
    | with_reducible apply canon_verifyFailed | with_reducible apply canon_lockVault | with_reducible apply canon_setBit
    | with_reducible apply canon_mem | with_reducible apply canon_hostMem | with_reducible apply canon_regs | with_reducible apply canon_foldl
    | dsimp only | (intro s_ hc_; beta_reduce) | intro _ | split | (simp only [canon_mk_iff]; refine ⟨?_, ?_, ?_⟩))

theorem canon_nvmReports (s : State)  (hs : Canon s) : Canon (nvmReports s) := by
  unfold nvmReports
  repeat' (first
    | with_reducible assumption | (fail_if_no_progress extract_lets +onlyGivenNames s_) | with_reducible apply canon_reportUnnamed
    | with_reducible apply canon_foldl | (intro s_ hc_; beta_reduce) | split)

theorem canon_loaderTaken (s : State) (l : Loader) (o n : Nat)  (hs : Canon s) : Canon (loaderTaken s l o n) := by
  unfold loaderTaken
  repeat' (first
    | with_reducible assumption
    | ((fail_if_no_progress extract_lets +onlyGivenNames s_); first | (refine canon_cut (s := s_) ?_ (fun hc_ => ?_); (on_goal 2 => (try clear_value s_)); unfold s_) | (refine canon_cut (s := s_.s) ?_ (fun hc_ => ?_); (on_goal 2 => (try clear_value s_)); unfold s_) | (refine canon_cut (s := s_.1) ?_ (fun hc_ => ?_); (on_goal 2 => (try clear_value s_)); unfold s_) | (refine canon_cut (s := s_.2) ?_ (fun hc_ => ?_); (on_goal 2 => (try clear_value s_)); unfold s_) | (refine canon_cut (s := s_.2.s) ?_ (fun hc_ => ?_); (on_goal 2 => (try clear_value s_)); unfold s_) | (refine canon_cut (s := s_.2.2) ?_ (fun hc_ => ?_); (on_goal 2 => (try clear_value s_)); unfold s_) | (refine canon_cut (s := s_.2.2.s) ?_ (fun hc_ => ?_); (on_goal 2 => (try clear_value s_)); unfold s_) | (refine canon_cut (s := s_.1.s) ?_ (fun hc_ => ?_); (on_goal 2 => (try clear_value s_)); unfold s_) | (refine canon_cut (s := s_.1.a.s) ?_ (fun hc_ => ?_); (on_goal 2 => (try clear_value s_)); unfold s_) | (refine canon_cut (s := s_.a.s) ?_ (fun hc_ => ?_); (on_goal 2 => (try clear_value s_)); unfold s_) | (refine canon_cut (s := s_.2.a.s) ?_ (fun hc_ => ?_); (on_goal 2 => (try clear_value s_)); unfold s_) | skip)
    | with_reducible apply canon_lostTaken
    | with_reducible apply canon_mem
    | with_reducible apply canon_hostMem
    | with_reducible apply canon_regs
    | with_reducible apply wf_mwrite
    | with_reducible apply wf_mset
    | with_reducible apply wf_mfill
    | with_reducible apply wf_filter
    | with_reducible apply rwf_rset
    | with_reducible apply rwf_filter
    | with_reducible apply wf_nil
    | with_reducible apply rwf_nil
    | with_reducible apply canon_foldl
    | with_reducible apply canon_foldl_s
    | with_reducible apply canon_foldl_1
    | with_reducible apply canon_foldl_2
    | with_reducible apply canon_foldl_2s
    | with_reducible apply canon_foldl_22
    | with_reducible apply canon_foldl_22s
    | with_reducible apply canon_foldl_A
    | with_reducible apply canon_foldl_as
    | with_reducible apply canon_foldl_das
    | with_reducible apply canon_foldl_2das
    | with_reducible apply canon_foldl_1as
    | dsimp only
    | (intro s_ hc_; beta_reduce)
    | intro _
    | split
    | (simp only [canon_mk_iff]; refine ⟨?_, ?_, ?_⟩)
    | ((fail_if_no_progress clear_value *); split)
    | dsimp +zetaDelta only)

theorem canon_startLoader (s : State) (kind : Nat) (source : Byte) (fromNvm : Bool) (base : Nat)  (hs : Canon s) : Canon (startLoader s kind source fromNvm base) := by
  unfold startLoader
  repeat' (first
    | with_reducible assumption
    | ((fail_if_no_progress extract_lets +onlyGivenNames s_); first | (refine canon_cut (s := s_) ?_ (fun hc_ => ?_); (on_goal 2 => (try clear_value s_)); unfold s_) | skip)
    | with_reducible apply canon_lostTaken | with_reducible apply canon_mem | with_reducible apply canon_hostMem | with_reducible apply canon_regs
    | with_reducible apply canon_foldl | dsimp only | (intro s_ hc_; beta_reduce) | intro _ | split | (simp only [canon_mk_iff]; refine ⟨?_, ?_, ?_⟩))

theorem canon_takeConfig (s : State)  (hs : Canon s) : Canon (takeConfig s) := by
  unfold takeConfig
  repeat' (first
    | with_reducible assumption
    | ((fail_if_no_progress extract_lets +onlyGivenNames s_); first | (refine canon_cut (s := s_) ?_ (fun hc_ => ?_); (on_goal 2 => (try clear_value s_)); unfold s_) | skip)
    | with_reducible apply canon_setFld | with_reducible apply canon_startLoader | with_reducible apply canon_mem | with_reducible apply canon_hostMem
    | with_reducible apply canon_regs | dsimp only | split | (simp only [canon_mk_iff]; refine ⟨?_, ?_, ?_⟩))

theorem canon_splitTlv (ts : List Tlv) (s : State) (t : Tlv)  (hs : Canon s) : Canon (splitTlv ts s t) := by
  unfold splitTlv
  repeat' (first
    | with_reducible assumption | with_reducible apply canon_reportUnnamed | with_reducible apply canon_setFld | split)

theorem canon_applySplit (s : State)  (hs : Canon s) : Canon (applySplit s) := by
  unfold applySplit
  repeat' (first
    | with_reducible assumption | with_reducible apply canon_splitTlv | with_reducible apply canon_foldl | split)

theorem canon_finishLoad (s : State) (l : Loader)  (hs : Canon s) : Canon (finishLoad s l) := by
  unfold finishLoad
  repeat' (first
    | with_reducible assumption
    | ((fail_if_no_progress extract_lets +onlyGivenNames s_); first | (refine canon_cut (s := s_) ?_ (fun hc_ => ?_); (on_goal 2 => (try clear_value s_)); unfold s_) | skip)
    | with_reducible apply canon_setFld | with_reducible apply canon_measureImage | with_reducible apply canon_noteFailure
    | with_reducible apply canon_takeConfig | with_reducible apply canon_applySplit | with_reducible apply canon_mem
    | with_reducible apply canon_hostMem | with_reducible apply canon_regs | split | (simp only [canon_mk_iff]; refine ⟨?_, ?_, ?_⟩))

theorem canon_blockLanded (s : State)  (hs : Canon s) : Canon (blockLanded s) := by
  unfold blockLanded
  repeat' (first
    | with_reducible assumption
    | ((fail_if_no_progress extract_lets +onlyGivenNames s_); first | (refine canon_cut (s := s_) ?_ (fun hc_ => ?_); (on_goal 2 => (try clear_value s_)); unfold s_) | (refine canon_cut (s := s_.s) ?_ (fun hc_ => ?_); (on_goal 2 => (try clear_value s_)); unfold s_) | (refine canon_cut (s := s_.1) ?_ (fun hc_ => ?_); (on_goal 2 => (try clear_value s_)); unfold s_) | (refine canon_cut (s := s_.2) ?_ (fun hc_ => ?_); (on_goal 2 => (try clear_value s_)); unfold s_) | (refine canon_cut (s := s_.2.s) ?_ (fun hc_ => ?_); (on_goal 2 => (try clear_value s_)); unfold s_) | (refine canon_cut (s := s_.2.2) ?_ (fun hc_ => ?_); (on_goal 2 => (try clear_value s_)); unfold s_) | (refine canon_cut (s := s_.2.2.s) ?_ (fun hc_ => ?_); (on_goal 2 => (try clear_value s_)); unfold s_) | (refine canon_cut (s := s_.1.s) ?_ (fun hc_ => ?_); (on_goal 2 => (try clear_value s_)); unfold s_) | (refine canon_cut (s := s_.1.a.s) ?_ (fun hc_ => ?_); (on_goal 2 => (try clear_value s_)); unfold s_) | (refine canon_cut (s := s_.a.s) ?_ (fun hc_ => ?_); (on_goal 2 => (try clear_value s_)); unfold s_) | (refine canon_cut (s := s_.2.a.s) ?_ (fun hc_ => ?_); (on_goal 2 => (try clear_value s_)); unfold s_) | skip)
    | with_reducible apply canon_loaderTaken
    | with_reducible apply canon_finishLoad
    | with_reducible apply canon_mem
    | with_reducible apply canon_hostMem
    | with_reducible apply canon_regs
    | with_reducible apply wf_mwrite
    | with_reducible apply wf_mset
    | with_reducible apply wf_mfill
    | with_reducible apply wf_filter
    | with_reducible apply rwf_rset
    | with_reducible apply rwf_filter
    | with_reducible apply wf_nil
    | with_reducible apply rwf_nil
    | with_reducible apply canon_foldl
    | with_reducible apply canon_foldl_s
    | with_reducible apply canon_foldl_1
    | with_reducible apply canon_foldl_2
    | with_reducible apply canon_foldl_2s
    | with_reducible apply canon_foldl_22
    | with_reducible apply canon_foldl_22s
    | with_reducible apply canon_foldl_A
    | with_reducible apply canon_foldl_as
    | with_reducible apply canon_foldl_das
    | with_reducible apply canon_foldl_2das
    | with_reducible apply canon_foldl_1as
    | dsimp only
    | (intro s_ hc_; beta_reduce)
    | intro _
    | split
    | (simp only [canon_mk_iff]; refine ⟨?_, ?_, ?_⟩)
    | ((fail_if_no_progress clear_value *); split)
    | dsimp +zetaDelta only)

theorem canon_resetRelease (s : State)  (hs : Canon s) : Canon (resetRelease s) := by
  unfold resetRelease
  repeat' (first
    | with_reducible assumption
    | ((fail_if_no_progress extract_lets +onlyGivenNames s_); first | (refine canon_cut (s := s_) ?_ (fun hc_ => ?_); (on_goal 2 => (try clear_value s_)); unfold s_) | skip)
    | with_reducible apply canon_report | with_reducible apply canon_reportUnnamed | with_reducible apply canon_setFld
    | with_reducible apply canon_mem | with_reducible apply canon_hostMem | with_reducible apply canon_regs | split
    | (simp only [canon_mk_iff]; refine ⟨?_, ?_, ?_⟩))

theorem canon_stage0 (off : Nat) (found : EccFound) (s : State)  (hs : Canon s) : Canon (stage0 off found s) := by
  unfold stage0
  repeat' (first
    | with_reducible assumption
    | ((fail_if_no_progress extract_lets +onlyGivenNames s_); first | (refine canon_cut (s := s_) ?_ (fun hc_ => ?_); (on_goal 2 => (try clear_value s_)); unfold s_) | (refine canon_cut (s := s_.s) ?_ (fun hc_ => ?_); (on_goal 2 => (try clear_value s_)); unfold s_) | (refine canon_cut (s := s_.1) ?_ (fun hc_ => ?_); (on_goal 2 => (try clear_value s_)); unfold s_) | (refine canon_cut (s := s_.2) ?_ (fun hc_ => ?_); (on_goal 2 => (try clear_value s_)); unfold s_) | (refine canon_cut (s := s_.2.s) ?_ (fun hc_ => ?_); (on_goal 2 => (try clear_value s_)); unfold s_) | (refine canon_cut (s := s_.2.2) ?_ (fun hc_ => ?_); (on_goal 2 => (try clear_value s_)); unfold s_) | (refine canon_cut (s := s_.2.2.s) ?_ (fun hc_ => ?_); (on_goal 2 => (try clear_value s_)); unfold s_) | (refine canon_cut (s := s_.1.s) ?_ (fun hc_ => ?_); (on_goal 2 => (try clear_value s_)); unfold s_) | (refine canon_cut (s := s_.1.a.s) ?_ (fun hc_ => ?_); (on_goal 2 => (try clear_value s_)); unfold s_) | (refine canon_cut (s := s_.a.s) ?_ (fun hc_ => ?_); (on_goal 2 => (try clear_value s_)); unfold s_) | (refine canon_cut (s := s_.2.a.s) ?_ (fun hc_ => ?_); (on_goal 2 => (try clear_value s_)); unfold s_) | skip)
    | with_reducible apply canon_setFld
    | with_reducible apply canon_flashFinds
    | with_reducible apply canon_measureImage
    | with_reducible apply canon_noteFailure
    | with_reducible apply canon_Applying_take
    | with_reducible refine canon_Applying_take_eq (by assumption) ?_ ?_
    | with_reducible apply canon_mem
    | with_reducible apply canon_hostMem
    | with_reducible apply canon_regs
    | with_reducible apply wf_mwrite
    | with_reducible apply wf_mset
    | with_reducible apply wf_mfill
    | with_reducible apply wf_filter
    | with_reducible apply rwf_rset
    | with_reducible apply rwf_filter
    | with_reducible apply wf_nil
    | with_reducible apply rwf_nil
    | with_reducible apply canon_foldl
    | with_reducible apply canon_foldl_s
    | with_reducible apply canon_foldl_1
    | with_reducible apply canon_foldl_2
    | with_reducible apply canon_foldl_2s
    | with_reducible apply canon_foldl_22
    | with_reducible apply canon_foldl_22s
    | with_reducible apply canon_foldl_A
    | with_reducible apply canon_foldl_as
    | with_reducible apply canon_foldl_das
    | with_reducible apply canon_foldl_2das
    | with_reducible apply canon_foldl_1as
    | dsimp only
    | (intro s_ hc_; beta_reduce)
    | intro _
    | split
    | (simp only [canon_mk_iff]; refine ⟨?_, ?_, ?_⟩)
    | ((fail_if_no_progress clear_value *); split)
    | dsimp +zetaDelta only)

theorem canon_startFirmware (s : State)  (hs : Canon s) : Canon (startFirmware s) := by
  unfold startFirmware
  repeat' (first
    | with_reducible assumption
    | ((fail_if_no_progress extract_lets +onlyGivenNames s_); first | (refine canon_cut (s := s_) ?_ (fun hc_ => ?_); (on_goal 2 => (try clear_value s_)); unfold s_) | skip)
    | with_reducible apply canon_nvmReports | with_reducible apply canon_setFld | with_reducible apply canon_reportUnnamed
    | with_reducible apply canon_startLoader | dsimp only | split)

theorem canon_startReports (s : State) (p : StartResult)  (hs : Canon s) : Canon (startReports s p) := by
  unfold startReports
  repeat' (first
    | with_reducible assumption
    | ((fail_if_no_progress extract_lets +onlyGivenNames s_); (refine canon_cut (s := s_) ?_ (fun hc_ => ?_); (on_goal 2 => (try clear_value s_)); unfold s_))
    | with_reducible apply canon_report | with_reducible apply canon_foldl | (intro s_ hc_; beta_reduce) | intro _ | split)

theorem canon_startClock (s : State)  (hs : Canon s) : Canon (startClock s) := by
  unfold startClock
  repeat' (first
    | with_reducible assumption
    | ((fail_if_no_progress extract_lets +onlyGivenNames s_); first | (refine canon_cut (s := s_) ?_ (fun hc_ => ?_); (on_goal 2 => (try clear_value s_)); unfold s_) | skip)
    | with_reducible apply canon_recomputeSus | with_reducible apply canon_setRails | with_reducible apply canon_setFld
    | with_reducible apply canon_mem | with_reducible apply canon_hostMem | with_reducible apply canon_regs
    | (simp only [canon_mk_iff]; refine ⟨?_, ?_, ?_⟩))

theorem canon_stage1 (s : State) (p : StartResult)  (hs : Canon s) : Canon (stage1 s p) := by
  unfold stage1
  repeat' (first
    | with_reducible assumption
    | ((fail_if_no_progress extract_lets +onlyGivenNames s_); first | (refine canon_cut (s := s_) ?_ (fun hc_ => ?_); (on_goal 2 => (try clear_value s_)); unfold s_) | skip)
    | with_reducible apply canon_startReports | with_reducible apply canon_journalWrite | with_reducible apply canon_addSat
    | with_reducible apply canon_setFld | with_reducible apply canon_startClock | with_reducible apply canon_startFirmware
    | with_reducible apply canon_degrade | with_reducible apply canon_setBit | with_reducible apply canon_mem | with_reducible apply canon_hostMem
    | with_reducible apply canon_regs | with_reducible apply canon_foldl | dsimp only | (intro s_ hc_; beta_reduce) | intro _ | split
    | (simp only [canon_mk_iff]; refine ⟨?_, ?_, ?_⟩))

theorem canon_secPush (fn : Fn) (bits : Nat) (s : State)  (hs : Canon s) : Canon (secPush fn bits s) := by
  unfold secPush
  repeat' (first
    | with_reducible assumption
    | ((fail_if_no_progress extract_lets +onlyGivenNames s_); first | (refine canon_cut (s := s_) ?_ (fun hc_ => ?_); (on_goal 2 => (try clear_value s_)); unfold s_) | skip)
    | with_reducible apply canon_viol | with_reducible apply canon_setFld | with_reducible apply canon_startLoader | with_reducible apply canon_mem
    | with_reducible apply canon_hostMem | with_reducible apply canon_regs | split | (simp only [canon_mk_iff]; refine ⟨?_, ?_, ?_⟩))

theorem canon_execResetRelease (s : State) (hs : Canon s) : OutCanon (execResetRelease s) := by
  unfold execResetRelease
  repeat' (first
    | with_reducible assumption | with_reducible apply canon_always | with_reducible apply canon_resetRelease)

theorem canon_execStage0Start (off : Nat) (found : EccFound) (s : State) (hs : Canon s) : OutCanon (execStage0Start off found s) := by
  unfold execStage0Start
  repeat' (first
    | with_reducible assumption | with_reducible apply canon_live | with_reducible apply canon_stage0 | (intro s_ hc_; beta_reduce))

theorem canon_execStage1Start (p : StartResult) (s : State) (hs : Canon s) : OutCanon (execStage1Start p s) := by
  unfold execStage1Start
  repeat' (first
    | with_reducible assumption | with_reducible apply canon_live | with_reducible apply canon_stage1 | (intro s_ hc_; beta_reduce))

theorem canon_execContainerBlockLanded (s : State) (hs : Canon s) : OutCanon (execContainerBlockLanded s) := by
  unfold execContainerBlockLanded
  repeat' (first
    | with_reducible assumption | with_reducible apply canon_live | with_reducible apply canon_blockLanded)

theorem canon_execPushS1 (fn : Fn) (s : State) (hs : Canon s) : OutCanon (execPushS1 fn s) := by
  unfold execPushS1
  repeat' (first
    | with_reducible assumption | with_reducible apply canon_bar0 | with_reducible apply canon_secPush)

theorem canon_execPushFw (fn : Fn) (s : State) (hs : Canon s) : OutCanon (execPushFw fn s) := by
  unfold execPushFw
  repeat' (first
    | with_reducible assumption | with_reducible apply canon_bar0 | with_reducible apply canon_secPush)

theorem canon_execPushCfg (fn : Fn) (s : State) (hs : Canon s) : OutCanon (execPushCfg fn s) := by
  unfold execPushCfg
  repeat' (first
    | with_reducible assumption | with_reducible apply canon_bar0 | with_reducible apply canon_secPush)

end Sys2Proof.Machine
end

