-- ==== Sys2Proof/Laws/Canon/Hif.lean ====
section
/-!
SUPPORT. The operations and meanings of Machine/Hif.lean keep the canonical form of the memories and of the register file.
-/
set_option linter.all false
namespace Sys2Proof.Machine

theorem canon_linkTrained (speed : BitVec 3) (width : BitVec 5) (s : State)  (hs : Canon s) : Canon (linkTrained speed width s) := by
  unfold linkTrained
  repeat' (first
    | with_reducible assumption
    | ((fail_if_no_progress extract_lets +onlyGivenNames s_); first | (refine canon_cut (s := s_) ?_ (fun hc_ => ?_); (on_goal 2 => (try clear_value s_)); unfold s_) | skip)
    | with_reducible apply canon_setFld | with_reducible apply canon_report | with_reducible apply canon_setBit | with_reducible apply canon_mem
    | with_reducible apply canon_hostMem | with_reducible apply canon_regs | split | (simp only [canon_mk_iff]; refine ⟨?_, ?_, ?_⟩))

theorem canon_linkDown (s : State)  (hs : Canon s) : Canon (linkDown s) := by
  unfold linkDown
  repeat' (first
    | with_reducible assumption | (fail_if_no_progress extract_lets +onlyGivenNames s_) | with_reducible apply canon_mem
    | with_reducible apply canon_hostMem | with_reducible apply canon_regs | (simp only [canon_mk_iff]; refine ⟨?_, ?_, ?_⟩))

theorem canon_bar2Resize (gib : Nat) (s : State)  (hs : Canon s) : Canon (bar2Resize gib s) := by
  unfold bar2Resize
  repeat' (first
    | with_reducible assumption | (fail_if_no_progress extract_lets +onlyGivenNames s_) | with_reducible apply canon_mem
    | with_reducible apply canon_hostMem | with_reducible apply canon_regs | split | (simp only [canon_mk_iff]; refine ⟨?_, ?_, ?_⟩))

theorem canon_bar2Read (fn : Fn) (o n : Nat) (s : State)  (hs : Canon s) : Canon (bar2Read fn o n s) := by
  unfold bar2Read
  repeat' (first
    | with_reducible assumption | (fail_if_no_progress extract_lets +onlyGivenNames s_) | with_reducible apply canon_bump
    | with_reducible apply canon_viol | with_reducible apply canon_devRead | with_reducible apply canon_mem | with_reducible apply canon_hostMem
    | with_reducible apply canon_regs | dsimp only | split | (simp only [canon_mk_iff]; refine ⟨?_, ?_, ?_⟩))

theorem canon_aerPoisoned (fn : Fn) (s : State)  (hs : Canon s) : Canon (aerPoisoned fn s) := by
  unfold aerPoisoned
  repeat' (first
    | with_reducible assumption
    | ((fail_if_no_progress extract_lets +onlyGivenNames s_); first | (refine canon_cut (s := s_) ?_ (fun hc_ => ?_); (on_goal 2 => (try clear_value s_)); unfold s_) | (refine canon_cut (s := s_.s) ?_ (fun hc_ => ?_); (on_goal 2 => (try clear_value s_)); unfold s_) | (refine canon_cut (s := s_.1) ?_ (fun hc_ => ?_); (on_goal 2 => (try clear_value s_)); unfold s_) | (refine canon_cut (s := s_.2) ?_ (fun hc_ => ?_); (on_goal 2 => (try clear_value s_)); unfold s_) | (refine canon_cut (s := s_.2.s) ?_ (fun hc_ => ?_); (on_goal 2 => (try clear_value s_)); unfold s_) | (refine canon_cut (s := s_.2.2) ?_ (fun hc_ => ?_); (on_goal 2 => (try clear_value s_)); unfold s_) | (refine canon_cut (s := s_.2.2.s) ?_ (fun hc_ => ?_); (on_goal 2 => (try clear_value s_)); unfold s_) | (refine canon_cut (s := s_.1.s) ?_ (fun hc_ => ?_); (on_goal 2 => (try clear_value s_)); unfold s_) | (refine canon_cut (s := s_.1.a.s) ?_ (fun hc_ => ?_); (on_goal 2 => (try clear_value s_)); unfold s_) | (refine canon_cut (s := s_.a.s) ?_ (fun hc_ => ?_); (on_goal 2 => (try clear_value s_)); unfold s_) | (refine canon_cut (s := s_.2.a.s) ?_ (fun hc_ => ?_); (on_goal 2 => (try clear_value s_)); unfold s_) | skip)
    | with_reducible apply canon_mem
    | with_reducible apply canon_hostMem
    | with_reducible apply canon_regs
    | with_reducible apply wf_mwrite
    | with_reducible apply wf_mset
    | with_reducible apply wf_mfill
    | with_reducible apply wf_filter
    | with_reducible apply rwf_rset
    | with_reducible apply rwf_filter
    | with_reducible apply wf_nil
    | with_reducible apply rwf_nil
    | with_reducible apply canon_foldl
    | with_reducible apply canon_foldl_s
    | with_reducible apply canon_foldl_1
    | with_reducible apply canon_foldl_2
    | with_reducible apply canon_foldl_2s
    | with_reducible apply canon_foldl_22
    | with_reducible apply canon_foldl_22s
    | with_reducible apply canon_foldl_A
    | with_reducible apply canon_foldl_as
    | with_reducible apply canon_foldl_das
    | with_reducible apply canon_foldl_2das
    | with_reducible apply canon_foldl_1as
    | dsimp only
    | (intro s_ hc_; beta_reduce)
    | intro _
    | split
    | (simp only [canon_mk_iff]; refine ⟨?_, ?_, ?_⟩)
    | ((fail_if_no_progress clear_value *); split)
    | dsimp +zetaDelta only)

theorem canon_poisonRange (a n : Nat) (s : State)  (hs : Canon s) : Canon (poisonRange a n s) := by
  unfold poisonRange
  repeat' (first
    | with_reducible assumption
    | ((fail_if_no_progress extract_lets +onlyGivenNames s_); first | (refine canon_cut (s := s_) ?_ (fun hc_ => ?_); (on_goal 2 => (try clear_value s_)); unfold s_) | (refine canon_cut (s := s_.s) ?_ (fun hc_ => ?_); (on_goal 2 => (try clear_value s_)); unfold s_) | (refine canon_cut (s := s_.1) ?_ (fun hc_ => ?_); (on_goal 2 => (try clear_value s_)); unfold s_) | (refine canon_cut (s := s_.2) ?_ (fun hc_ => ?_); (on_goal 2 => (try clear_value s_)); unfold s_) | (refine canon_cut (s := s_.2.s) ?_ (fun hc_ => ?_); (on_goal 2 => (try clear_value s_)); unfold s_) | (refine canon_cut (s := s_.2.2) ?_ (fun hc_ => ?_); (on_goal 2 => (try clear_value s_)); unfold s_) | (refine canon_cut (s := s_.2.2.s) ?_ (fun hc_ => ?_); (on_goal 2 => (try clear_value s_)); unfold s_) | (refine canon_cut (s := s_.1.s) ?_ (fun hc_ => ?_); (on_goal 2 => (try clear_value s_)); unfold s_) | (refine canon_cut (s := s_.1.a.s) ?_ (fun hc_ => ?_); (on_goal 2 => (try clear_value s_)); unfold s_) | (refine canon_cut (s := s_.a.s) ?_ (fun hc_ => ?_); (on_goal 2 => (try clear_value s_)); unfold s_) | (refine canon_cut (s := s_.2.a.s) ?_ (fun hc_ => ?_); (on_goal 2 => (try clear_value s_)); unfold s_) | skip)
    | with_reducible apply canon_mem
    | with_reducible apply canon_hostMem
    | with_reducible apply canon_regs
    | with_reducible apply wf_mwrite
    | with_reducible apply wf_mset
    | with_reducible apply wf_mfill
    | with_reducible apply wf_filter
    | with_reducible apply rwf_rset
    | with_reducible apply rwf_filter
    | with_reducible apply wf_nil
    | with_reducible apply rwf_nil
    | with_reducible apply canon_foldl
    | with_reducible apply canon_foldl_s
    | with_reducible apply canon_foldl_1
    | with_reducible apply canon_foldl_2
    | with_reducible apply canon_foldl_2s
    | with_reducible apply canon_foldl_22
    | with_reducible apply canon_foldl_22s
    | with_reducible apply canon_foldl_A
    | with_reducible apply canon_foldl_as
    | with_reducible apply canon_foldl_das
    | with_reducible apply canon_foldl_2das
    | with_reducible apply canon_foldl_1as
    | dsimp only
    | (intro s_ hc_; beta_reduce)
    | intro _
    | split
    | (simp only [canon_mk_iff]; refine ⟨?_, ?_, ?_⟩)
    | ((fail_if_no_progress clear_value *); split)
    | dsimp +zetaDelta only)

theorem canon_bar2Write (fn : Fn) (o : Nat) (data : TlpData) (s : State)  (hs : Canon s) : Canon (bar2Write fn o data s) := by
  unfold bar2Write
  repeat' (first
    | with_reducible assumption
    | ((fail_if_no_progress extract_lets +onlyGivenNames s_); first | (refine canon_cut (s := s_) ?_ (fun hc_ => ?_); (on_goal 2 => (try clear_value s_)); unfold s_) | skip)
    | with_reducible apply canon_bump | with_reducible apply canon_aerPoisoned | with_reducible apply canon_viol | with_reducible apply canon_devWrite
    | with_reducible apply canon_poisonRange | with_reducible apply canon_mem | with_reducible apply canon_hostMem | with_reducible apply canon_regs
    | with_reducible apply canon_foldl | dsimp only | (intro s_ hc_; beta_reduce) | intro _ | split | (simp only [canon_mk_iff]; refine ⟨?_, ?_, ?_⟩))

theorem canon_bar4Read (n : Nat) (s : State)  (hs : Canon s) : Canon (bar4Read n s) := by
  unfold bar4Read
  repeat' (first
    | with_reducible assumption
    | ((fail_if_no_progress extract_lets +onlyGivenNames s_); first | (refine canon_cut (s := s_) ?_ (fun hc_ => ?_); (on_goal 2 => (try clear_value s_)); unfold s_) | (refine canon_cut (s := s_.s) ?_ (fun hc_ => ?_); (on_goal 2 => (try clear_value s_)); unfold s_) | (refine canon_cut (s := s_.1) ?_ (fun hc_ => ?_); (on_goal 2 => (try clear_value s_)); unfold s_) | (refine canon_cut (s := s_.2) ?_ (fun hc_ => ?_); (on_goal 2 => (try clear_value s_)); unfold s_) | (refine canon_cut (s := s_.2.s) ?_ (fun hc_ => ?_); (on_goal 2 => (try clear_value s_)); unfold s_) | (refine canon_cut (s := s_.2.2) ?_ (fun hc_ => ?_); (on_goal 2 => (try clear_value s_)); unfold s_) | (refine canon_cut (s := s_.2.2.s) ?_ (fun hc_ => ?_); (on_goal 2 => (try clear_value s_)); unfold s_) | (refine canon_cut (s := s_.1.s) ?_ (fun hc_ => ?_); (on_goal 2 => (try clear_value s_)); unfold s_) | (refine canon_cut (s := s_.1.a.s) ?_ (fun hc_ => ?_); (on_goal 2 => (try clear_value s_)); unfold s_) | (refine canon_cut (s := s_.a.s) ?_ (fun hc_ => ?_); (on_goal 2 => (try clear_value s_)); unfold s_) | (refine canon_cut (s := s_.2.a.s) ?_ (fun hc_ => ?_); (on_goal 2 => (try clear_value s_)); unfold s_) | skip)
    | with_reducible apply canon_bump
    | with_reducible apply canon_reply
    | with_reducible apply canon_mem
    | with_reducible apply canon_hostMem
    | with_reducible apply canon_regs
    | with_reducible apply wf_mwrite
    | with_reducible apply wf_mset
    | with_reducible apply wf_mfill
    | with_reducible apply wf_filter
    | with_reducible apply rwf_rset
    | with_reducible apply rwf_filter
    | with_reducible apply wf_nil
    | with_reducible apply rwf_nil
    | with_reducible apply canon_foldl
    | with_reducible apply canon_foldl_s
    | with_reducible apply canon_foldl_1
    | with_reducible apply canon_foldl_2
    | with_reducible apply canon_foldl_2s
    | with_reducible apply canon_foldl_22
    | with_reducible apply canon_foldl_22s
    | with_reducible apply canon_foldl_A
    | with_reducible apply canon_foldl_as
    | with_reducible apply canon_foldl_das
    | with_reducible apply canon_foldl_2das
    | with_reducible apply canon_foldl_1as
    | dsimp only
    | (intro s_ hc_; beta_reduce)
    | intro _
    | split
    | (simp only [canon_mk_iff]; refine ⟨?_, ?_, ?_⟩)
    | ((fail_if_no_progress clear_value *); split)
    | dsimp +zetaDelta only)

theorem canon_glbTimeWrite (fn : Fn) (t : W64) (s : State)  (hs : Canon s) : Canon (glbTimeWrite fn t s) := by
  unfold glbTimeWrite
  repeat' (first
    | with_reducible assumption
    | ((fail_if_no_progress extract_lets +onlyGivenNames s_); first | (refine canon_cut (s := s_) ?_ (fun hc_ => ?_); (on_goal 2 => (try clear_value s_)); unfold s_) | skip)
    | with_reducible apply canon_viol | with_reducible apply canon_setBit | with_reducible apply canon_mem | with_reducible apply canon_hostMem
    | with_reducible apply canon_regs | split | (simp only [canon_mk_iff]; refine ⟨?_, ?_, ?_⟩))

theorem canon_ppsAlign (s : State)  (hs : Canon s) : Canon (ppsAlign s) := by
  unfold ppsAlign
  repeat' (first
    | with_reducible assumption
    | ((fail_if_no_progress extract_lets +onlyGivenNames s_); first | (refine canon_cut (s := s_) ?_ (fun hc_ => ?_); (on_goal 2 => (try clear_value s_)); unfold s_) | skip)
    | with_reducible apply canon_addSat | with_reducible apply canon_setFld | with_reducible apply canon_setBit | with_reducible apply canon_mem
    | with_reducible apply canon_hostMem | with_reducible apply canon_regs | split | (simp only [canon_mk_iff]; refine ⟨?_, ?_, ?_⟩))

theorem canon_ppsEdge (s : State)  (hs : Canon s) : Canon (ppsEdge s) := by
  unfold ppsEdge
  repeat' (first
    | with_reducible assumption | (fail_if_no_progress extract_lets +onlyGivenNames s_) | with_reducible apply canon_ppsAlign
    | with_reducible apply canon_mem | with_reducible apply canon_hostMem | with_reducible apply canon_regs | split
    | (simp only [canon_mk_iff]; refine ⟨?_, ?_, ?_⟩))

theorem canon_ppsHoldEnd (s : State)  (hs : Canon s) : Canon (ppsHoldEnd s) := by
  unfold ppsHoldEnd
  repeat' (first
    | with_reducible assumption
    | ((fail_if_no_progress extract_lets +onlyGivenNames s_); first | (refine canon_cut (s := s_) ?_ (fun hc_ => ?_); (on_goal 2 => (try clear_value s_)); unfold s_) | skip)
    | with_reducible apply canon_ppsAlign | with_reducible apply canon_mem | with_reducible apply canon_hostMem | with_reducible apply canon_regs
    | split | (simp only [canon_mk_iff]; refine ⟨?_, ?_, ?_⟩))

theorem canon_tick (s : State)  (hs : Canon s) : Canon (tick s) := by
  unfold tick
  repeat' (first
    | with_reducible assumption | (fail_if_no_progress extract_lets +onlyGivenNames s_) | with_reducible apply canon_mem
    | with_reducible apply canon_hostMem | with_reducible apply canon_regs | split | (simp only [canon_mk_iff]; refine ⟨?_, ?_, ?_⟩))

theorem canon_ppsLockLost (s : State)  (hs : Canon s) : Canon (ppsLockLost s) := by
  unfold ppsLockLost
  repeat' (first
    | with_reducible assumption | with_reducible apply canon_setBit)

theorem canon_msixUnmask (fn : Fn) (v : Fin 2048) (s : State)  (hs : Canon s) : Canon (msixUnmask fn v s) := by
  unfold msixUnmask
  repeat' (first
    | with_reducible assumption
    | ((fail_if_no_progress extract_lets +onlyGivenNames s_); first | (refine canon_cut (s := s_) ?_ (fun hc_ => ?_); (on_goal 2 => (try clear_value s_)); unfold s_) | skip)
    | with_reducible apply canon_msixSet | with_reducible apply canon_sendMsix | with_reducible apply canon_mem | with_reducible apply canon_hostMem
    | with_reducible apply canon_regs | split | (simp only [canon_mk_iff]; refine ⟨?_, ?_, ?_⟩))

theorem canon_execLinkTrained (speed : BitVec 3) (width : BitVec 5) (s : State) (hs : Canon s) : OutCanon (execLinkTrained speed width s) := by
  unfold execLinkTrained
  repeat' (first
    | with_reducible assumption | with_reducible apply canon_live | with_reducible apply canon_linkTrained)

theorem canon_execLinkDown (s : State) (hs : Canon s) : OutCanon (execLinkDown s) := by
  unfold execLinkDown
  repeat' (first
    | with_reducible assumption | with_reducible apply canon_live | with_reducible apply canon_linkDown)

theorem canon_execBar2Resize (gib : Nat) (s : State) (hs : Canon s) : OutCanon (execBar2Resize gib s) := by
  unfold execBar2Resize
  repeat' (first
    | with_reducible assumption | with_reducible apply canon_live | with_reducible apply canon_bar2Resize)

theorem canon_execBar2Read (fn : Fn) (off len : Nat) (s : State) (hs : Canon s) : OutCanon (execBar2Read fn off len s) := by
  unfold execBar2Read
  repeat' (first
    | with_reducible assumption | with_reducible apply canon_live | with_reducible apply canon_bar2Read)

theorem canon_execBar2Write (fn : Fn) (off : Nat) (data : TlpData) (s : State) (hs : Canon s) : OutCanon (execBar2Write fn off data s) := by
  unfold execBar2Write
  repeat' (first
    | with_reducible assumption | with_reducible apply canon_live | with_reducible apply canon_bar2Write)

theorem canon_execPpsLockLost (s : State) (hs : Canon s) : OutCanon (execPpsLockLost s) := by
  unfold execPpsLockLost
  repeat' (first
    | with_reducible assumption | with_reducible apply canon_live | with_reducible apply canon_ppsLockLost)

theorem canon_execMsixUnmask (fn : Fn) (vector : Fin 2048) (s : State) (hs : Canon s) : OutCanon (execMsixUnmask fn vector s) := by
  unfold execMsixUnmask
  repeat' (first
    | with_reducible assumption | with_reducible apply canon_bar0 | with_reducible apply canon_msixUnmask)

end Sys2Proof.Machine
end

