-- ==== Sys2Proof/Laws/Canon/Ember.lean ====
section
/-!
SUPPORT. The operations and meanings of Machine/Ember.lean keep the canonical form of the memories and of the register file.
-/
set_option linter.all false
namespace Sys2Proof.Machine

theorem canon_logStore (s : State) (a : Nat) (bs : List Byte)  (hs : Canon s) : Canon (logStore s a bs) := by
  unfold logStore
  repeat' (first
    | with_reducible assumption | with_reducible apply canon_mem | with_reducible apply canon_hostMem | with_reducible apply canon_regs
    | with_reducible apply wf_mwrite | (simp only [canon_mk_iff]; refine ⟨?_, ?_, ?_⟩))

theorem canon_bumpEntry (s : State) (n dropped : Nat)  (hs : Canon s) : Canon (bumpEntry s n dropped) := by
  unfold bumpEntry
  repeat' (first
    | with_reducible assumption | (fail_if_no_progress extract_lets +onlyGivenNames s_) | with_reducible apply canon_logStore)

theorem canon_holdNotice (src : Nat) (code : BitVec 16) (s : State)  (hs : Canon s) : Canon (holdNotice src code s) := by
  unfold holdNotice
  repeat' (first
    | with_reducible assumption | (fail_if_no_progress extract_lets +onlyGivenNames s_) | with_reducible apply canon_mem
    | with_reducible apply canon_hostMem | with_reducible apply canon_regs | split | (simp only [canon_mk_iff]; refine ⟨?_, ?_, ?_⟩))

theorem canon_keepFirst (src n : Nat) (s : State)  (hs : Canon s) : Canon (keepFirst src n s) := by
  unfold keepFirst
  repeat' (first
    | with_reducible assumption
    | ((fail_if_no_progress extract_lets +onlyGivenNames s_); first | (refine canon_cut (s := s_) ?_ (fun hc_ => ?_); (on_goal 2 => (try clear_value s_)); unfold s_) | (refine canon_cut (s := s_.s) ?_ (fun hc_ => ?_); (on_goal 2 => (try clear_value s_)); unfold s_) | (refine canon_cut (s := s_.1) ?_ (fun hc_ => ?_); (on_goal 2 => (try clear_value s_)); unfold s_) | (refine canon_cut (s := s_.2) ?_ (fun hc_ => ?_); (on_goal 2 => (try clear_value s_)); unfold s_) | (refine canon_cut (s := s_.2.s) ?_ (fun hc_ => ?_); (on_goal 2 => (try clear_value s_)); unfold s_) | (refine canon_cut (s := s_.2.2) ?_ (fun hc_ => ?_); (on_goal 2 => (try clear_value s_)); unfold s_) | (refine canon_cut (s := s_.2.2.s) ?_ (fun hc_ => ?_); (on_goal 2 => (try clear_value s_)); unfold s_) | (refine canon_cut (s := s_.1.s) ?_ (fun hc_ => ?_); (on_goal 2 => (try clear_value s_)); unfold s_) | (refine canon_cut (s := s_.1.a.s) ?_ (fun hc_ => ?_); (on_goal 2 => (try clear_value s_)); unfold s_) | (refine canon_cut (s := s_.a.s) ?_ (fun hc_ => ?_); (on_goal 2 => (try clear_value s_)); unfold s_) | (refine canon_cut (s := s_.2.a.s) ?_ (fun hc_ => ?_); (on_goal 2 => (try clear_value s_)); unfold s_) | skip)
    | with_reducible apply canon_setReg
    | with_reducible apply canon_mem
    | with_reducible apply canon_hostMem
    | with_reducible apply canon_regs
    | with_reducible apply wf_mwrite
    | with_reducible apply wf_mset
    | with_reducible apply wf_mfill
    | with_reducible apply wf_filter
    | with_reducible apply rwf_rset
    | with_reducible apply rwf_filter
    | with_reducible apply wf_nil
    | with_reducible apply rwf_nil
    | with_reducible apply canon_foldl
    | with_reducible apply canon_foldl_s
    | with_reducible apply canon_foldl_1
    | with_reducible apply canon_foldl_2
    | with_reducible apply canon_foldl_2s
    | with_reducible apply canon_foldl_22
    | with_reducible apply canon_foldl_22s
    | with_reducible apply canon_foldl_A
    | with_reducible apply canon_foldl_as
    | with_reducible apply canon_foldl_das
    | with_reducible apply canon_foldl_2das
    | with_reducible apply canon_foldl_1as
    | dsimp only
    | (intro s_ hc_; beta_reduce)
    | intro _
    | split
    | (simp only [canon_mk_iff]; refine ⟨?_, ?_, ?_⟩)
    | ((fail_if_no_progress clear_value *); split)
    | dsimp +zetaDelta only)

theorem canon_newEntry (s : State) (src : Nat) (r : Report) (dropped : Nat)  (hs : Canon s) : Canon (newEntry s src r dropped) := by
  unfold newEntry
  repeat' (first
    | with_reducible assumption
    | ((fail_if_no_progress extract_lets +onlyGivenNames s_); first | (refine canon_cut (s := s_) ?_ (fun hc_ => ?_); (on_goal 2 => (try clear_value s_)); unfold s_) | skip)
    | with_reducible apply canon_logStore | with_reducible apply canon_addSat | with_reducible apply canon_setFld | with_reducible apply canon_count
    | with_reducible apply canon_holdNotice | with_reducible apply canon_keepFirst | with_reducible apply canon_mem
    | with_reducible apply canon_hostMem | with_reducible apply canon_regs | with_reducible apply canon_foldl | dsimp only
    | (intro s_ hc_; beta_reduce) | intro _ | split | (simp only [canon_mk_iff]; refine ⟨?_, ?_, ?_⟩))

theorem canon_emberWrite (s : State)  (hs : Canon s) : Canon (emberWrite s) := by
  unfold emberWrite
  repeat' (first
    | with_reducible assumption
    | ((fail_if_no_progress extract_lets +onlyGivenNames s_); first | (refine canon_cut (s := s_) ?_ (fun hc_ => ?_); (on_goal 2 => (try clear_value s_)); unfold s_) | skip)
    | with_reducible apply canon_keepFirst | with_reducible apply canon_bumpEntry | with_reducible apply canon_newEntry
    | with_reducible apply canon_mem | with_reducible apply canon_hostMem | with_reducible apply canon_regs | with_reducible apply canon_foldl
    | dsimp only | (intro s_ hc_; beta_reduce) | intro _ | split | (simp only [canon_mk_iff]; refine ⟨?_, ?_, ?_⟩))

theorem canon_smb (pec : Option Bool) (cmd : Nat) (off : Bool) (k : State → State × List Byte) (s : State)  (hk : ∀ a0_, Canon a0_ → Canon (k a0_).1) (hs : Canon s) : Canon (smb pec cmd off k s) := by
  unfold smb
  repeat' (first
    | with_reducible assumption
    | ((fail_if_no_progress extract_lets +onlyGivenNames s_); first | (refine canon_cut (s := s_) ?_ (fun hc_ => ?_); (on_goal 2 => (try clear_value s_)); unfold s_) | skip)
    | with_reducible apply hk | with_reducible apply canon_mem | with_reducible apply canon_hostMem | with_reducible apply canon_regs | dsimp only
    | split | (simp only [canon_mk_iff]; refine ⟨?_, ?_, ?_⟩))

theorem canon_smbUnsupported (s : State)  (hs : Canon s) : Canon (smbUnsupported s) := by
  unfold smbUnsupported
  repeat' (first
    | with_reducible assumption
    | ((fail_if_no_progress extract_lets +onlyGivenNames s_); first | (refine canon_cut (s := s_) ?_ (fun hc_ => ?_); (on_goal 2 => (try clear_value s_)); unfold s_) | (refine canon_cut (s := s_.s) ?_ (fun hc_ => ?_); (on_goal 2 => (try clear_value s_)); unfold s_) | (refine canon_cut (s := s_.1) ?_ (fun hc_ => ?_); (on_goal 2 => (try clear_value s_)); unfold s_) | (refine canon_cut (s := s_.2) ?_ (fun hc_ => ?_); (on_goal 2 => (try clear_value s_)); unfold s_) | (refine canon_cut (s := s_.2.s) ?_ (fun hc_ => ?_); (on_goal 2 => (try clear_value s_)); unfold s_) | (refine canon_cut (s := s_.2.2) ?_ (fun hc_ => ?_); (on_goal 2 => (try clear_value s_)); unfold s_) | (refine canon_cut (s := s_.2.2.s) ?_ (fun hc_ => ?_); (on_goal 2 => (try clear_value s_)); unfold s_) | (refine canon_cut (s := s_.1.s) ?_ (fun hc_ => ?_); (on_goal 2 => (try clear_value s_)); unfold s_) | (refine canon_cut (s := s_.1.a.s) ?_ (fun hc_ => ?_); (on_goal 2 => (try clear_value s_)); unfold s_) | (refine canon_cut (s := s_.a.s) ?_ (fun hc_ => ?_); (on_goal 2 => (try clear_value s_)); unfold s_) | (refine canon_cut (s := s_.2.a.s) ?_ (fun hc_ => ?_); (on_goal 2 => (try clear_value s_)); unfold s_) | skip)
    | with_reducible apply canon_reply
    | with_reducible apply canon_mem
    | with_reducible apply canon_hostMem
    | with_reducible apply canon_regs
    | with_reducible apply wf_mwrite
    | with_reducible apply wf_mset
    | with_reducible apply wf_mfill
    | with_reducible apply wf_filter
    | with_reducible apply rwf_rset
    | with_reducible apply rwf_filter
    | with_reducible apply wf_nil
    | with_reducible apply rwf_nil
    | with_reducible apply canon_foldl
    | with_reducible apply canon_foldl_s
    | with_reducible apply canon_foldl_1
    | with_reducible apply canon_foldl_2
    | with_reducible apply canon_foldl_2s
    | with_reducible apply canon_foldl_22
    | with_reducible apply canon_foldl_22s
    | with_reducible apply canon_foldl_A
    | with_reducible apply canon_foldl_as
    | with_reducible apply canon_foldl_das
    | with_reducible apply canon_foldl_2das
    | with_reducible apply canon_foldl_1as
    | dsimp only
    | (intro s_ hc_; beta_reduce)
    | intro _
    | split
    | (simp only [canon_mk_iff]; refine ⟨?_, ?_, ?_⟩)
    | ((fail_if_no_progress clear_value *); split)
    | dsimp +zetaDelta only)

theorem canon_smbIdentity (s : State)  (hs : Canon s) : Canon (smbIdentity s).1 := by
  unfold smbIdentity
  repeat' (first
    | with_reducible assumption)

theorem canon_smbIdentity_eq {s : State}  {v0_} {v1_} (he_ : smbIdentity s = (v0_, v1_)) (hs : Canon s) :
    Canon v0_ := by
  have := canon_smbIdentity s  hs
  rw [he_] at this
  exact this

theorem canon_smbStatus (s : State)  (hs : Canon s) : Canon (smbStatus s).1 := by
  unfold smbStatus
  repeat' (first
    | with_reducible assumption | (fail_if_no_progress extract_lets +onlyGivenNames s_) | with_reducible apply canon_mem
    | with_reducible apply canon_hostMem | with_reducible apply canon_regs | dsimp only | (simp only [canon_mk_iff]; refine ⟨?_, ?_, ?_⟩))

theorem canon_smbStatus_eq {s : State}  {v0_} {v1_} (he_ : smbStatus s = (v0_, v1_)) (hs : Canon s) :
    Canon v0_ := by
  have := canon_smbStatus s  hs
  rw [he_] at this
  exact this

theorem canon_smbEmberTail (s : State)  (hs : Canon s) : Canon (smbEmberTail s).1 := by
  unfold smbEmberTail
  repeat' (first
    | with_reducible assumption | (fail_if_no_progress extract_lets +onlyGivenNames s_) | with_reducible apply canon_mem
    | with_reducible apply canon_hostMem | with_reducible apply canon_regs | dsimp only | split | (simp only [canon_mk_iff]; refine ⟨?_, ?_, ?_⟩))

theorem canon_smbEmberTail_eq {s : State}  {v0_} {v1_} (he_ : smbEmberTail s = (v0_, v1_)) (hs : Canon s) :
    Canon v0_ := by
  have := canon_smbEmberTail s  hs
  rw [he_] at this
  exact this

theorem canon_smbReplace (s : State)  (hs : Canon s) : Canon (smbReplace s).1 := by
  unfold smbReplace
  repeat' (first
    | with_reducible assumption)

theorem canon_smbReplace_eq {s : State}  {v0_} {v1_} (he_ : smbReplace s = (v0_, v1_)) (hs : Canon s) :
    Canon v0_ := by
  have := canon_smbReplace s  hs
  rw [he_] at this
  exact this

theorem canon_execEmberWrite (s : State) (hs : Canon s) : OutCanon (execEmberWrite s) := by
  unfold execEmberWrite
  repeat' (first
    | with_reducible assumption | with_reducible apply canon_live | with_reducible apply canon_emberWrite)

theorem canon_execSmbIdentity (pec : Option Bool) (s : State) (hs : Canon s) : OutCanon (execSmbIdentity pec s) := by
  unfold execSmbIdentity
  repeat' (first
    | with_reducible assumption | with_reducible apply canon_live | with_reducible apply canon_smb | with_reducible apply canon_smbIdentity
    | (intro s_ hc_; beta_reduce))

theorem canon_execSmbStatus (pec : Option Bool) (s : State) (hs : Canon s) : OutCanon (execSmbStatus pec s) := by
  unfold execSmbStatus
  repeat' (first
    | with_reducible assumption | with_reducible apply canon_live | with_reducible apply canon_smb | with_reducible apply canon_smbStatus
    | (intro s_ hc_; beta_reduce))

theorem canon_execSmbTemp (pec : Option Bool) (s : State) (hs : Canon s) : OutCanon (execSmbTemp pec s) := by
  unfold execSmbTemp
  repeat' (first
    | with_reducible assumption | with_reducible apply canon_live | with_reducible apply canon_smb | dsimp only | (intro s_ hc_; beta_reduce))

theorem canon_execSmbTempAll (pec : Option Bool) (s : State) (hs : Canon s) : OutCanon (execSmbTempAll pec s) := by
  unfold execSmbTempAll
  repeat' (first
    | with_reducible assumption | with_reducible apply canon_live | with_reducible apply canon_smb | dsimp only | (intro s_ hc_; beta_reduce))

theorem canon_execSmbPower (pec : Option Bool) (s : State) (hs : Canon s) : OutCanon (execSmbPower pec s) := by
  unfold execSmbPower
  repeat' (first
    | with_reducible assumption | with_reducible apply canon_live | with_reducible apply canon_smb | dsimp only | (intro s_ hc_; beta_reduce))

theorem canon_execSmbPowerCap (pec : Option Bool) (s : State) (hs : Canon s) : OutCanon (execSmbPowerCap pec s) := by
  unfold execSmbPowerCap
  repeat' (first
    | with_reducible assumption | with_reducible apply canon_live | with_reducible apply canon_smb | dsimp only | (intro s_ hc_; beta_reduce))

theorem canon_execSmbEmberTail (pec : Option Bool) (s : State) (hs : Canon s) : OutCanon (execSmbEmberTail pec s) := by
  unfold execSmbEmberTail
  repeat' (first
    | with_reducible assumption | with_reducible apply canon_live | with_reducible apply canon_smb | with_reducible apply canon_smbEmberTail
    | (intro s_ hc_; beta_reduce))

theorem canon_execSmbReplace (pec : Option Bool) (s : State) (hs : Canon s) : OutCanon (execSmbReplace pec s) := by
  unfold execSmbReplace
  repeat' (first
    | with_reducible assumption | with_reducible apply canon_live | with_reducible apply canon_smb | with_reducible apply canon_smbReplace
    | (intro s_ hc_; beta_reduce))

end Sys2Proof.Machine
end

