-- ==== Sys2Proof/Laws/Canon/Mail.lean ====
section
/-!
SUPPORT. The operations and meanings of Machine/Mail.lean keep the canonical form of the memories and of the register file.
-/
set_option linter.all false
namespace Sys2Proof.Machine

theorem canon_takeReq (s : State)  (hs : Canon s) : Canon (takeReq s) := by
  unfold takeReq
  repeat' (first
    | with_reducible assumption | with_reducible apply canon_devWrite)

theorem canon_queueMsg (m : List Byte) (s : State)  (hs : Canon s) : Canon (queueMsg m s) := by
  unfold queueMsg
  repeat' (first
    | with_reducible assumption | (fail_if_no_progress extract_lets +onlyGivenNames s_) | with_reducible apply canon_mem
    | with_reducible apply canon_hostMem | with_reducible apply canon_regs | (simp only [canon_mk_iff]; refine ⟨?_, ?_, ?_⟩))

theorem canon_helloReason (type status : Nat) (s : State)  (hs : Canon s) : Canon (helloReason type status s) := by
  unfold helloReason
  repeat' (first
    | with_reducible assumption
    | ((fail_if_no_progress extract_lets +onlyGivenNames s_); first | (refine canon_cut (s := s_) ?_ (fun hc_ => ?_); (on_goal 2 => (try clear_value s_)); unfold s_) | (refine canon_cut (s := s_.s) ?_ (fun hc_ => ?_); (on_goal 2 => (try clear_value s_)); unfold s_) | (refine canon_cut (s := s_.1) ?_ (fun hc_ => ?_); (on_goal 2 => (try clear_value s_)); unfold s_) | (refine canon_cut (s := s_.2) ?_ (fun hc_ => ?_); (on_goal 2 => (try clear_value s_)); unfold s_) | (refine canon_cut (s := s_.2.s) ?_ (fun hc_ => ?_); (on_goal 2 => (try clear_value s_)); unfold s_) | (refine canon_cut (s := s_.2.2) ?_ (fun hc_ => ?_); (on_goal 2 => (try clear_value s_)); unfold s_) | (refine canon_cut (s := s_.2.2.s) ?_ (fun hc_ => ?_); (on_goal 2 => (try clear_value s_)); unfold s_) | (refine canon_cut (s := s_.1.s) ?_ (fun hc_ => ?_); (on_goal 2 => (try clear_value s_)); unfold s_) | (refine canon_cut (s := s_.1.a.s) ?_ (fun hc_ => ?_); (on_goal 2 => (try clear_value s_)); unfold s_) | (refine canon_cut (s := s_.a.s) ?_ (fun hc_ => ?_); (on_goal 2 => (try clear_value s_)); unfold s_) | (refine canon_cut (s := s_.2.a.s) ?_ (fun hc_ => ?_); (on_goal 2 => (try clear_value s_)); unfold s_) | skip)
    | with_reducible apply canon_setFld
    | with_reducible apply canon_mem
    | with_reducible apply canon_hostMem
    | with_reducible apply canon_regs
    | with_reducible apply wf_mwrite
    | with_reducible apply wf_mset
    | with_reducible apply wf_mfill
    | with_reducible apply wf_filter
    | with_reducible apply rwf_rset
    | with_reducible apply rwf_filter
    | with_reducible apply wf_nil
    | with_reducible apply rwf_nil
    | with_reducible apply canon_foldl
    | with_reducible apply canon_foldl_s
    | with_reducible apply canon_foldl_1
    | with_reducible apply canon_foldl_2
    | with_reducible apply canon_foldl_2s
    | with_reducible apply canon_foldl_22
    | with_reducible apply canon_foldl_22s
    | with_reducible apply canon_foldl_A
    | with_reducible apply canon_foldl_as
    | with_reducible apply canon_foldl_das
    | with_reducible apply canon_foldl_2das
    | with_reducible apply canon_foldl_1as
    | dsimp only
    | (intro s_ hc_; beta_reduce)
    | intro _
    | split
    | (simp only [canon_mk_iff]; refine ⟨?_, ?_, ?_⟩)
    | ((fail_if_no_progress clear_value *); split)
    | dsimp +zetaDelta only)

theorem canon_reply (type : Nat) (seq : W32) (status : Nat) (rest : List Byte) (s : State)  (hs : Canon s) : Canon (reply type seq status rest s) := by
  unfold reply
  repeat' (first
    | with_reducible assumption | with_reducible apply canon_queueMsg)

theorem canon_answerRefused  (x0 : Nat) (x1 : State) (hx1 : Canon x1) : Canon (answerRefused x0 x1) := by
  induction x0 generalizing x1 with
  | zero =>
    unfold answerRefused
    repeat' (first
        | with_reducible assumption | with_reducible apply canon_reply | with_reducible apply canon_takeReq | split)
  | succ n ih =>
    unfold answerRefused
    repeat' (first
        | with_reducible assumption | with_reducible apply ih | with_reducible apply canon_reply | with_reducible apply canon_takeReq | split)

theorem canon_onRequest (type len : Nat) (k : Req → State → State) (s : State)  (hk : ∀ a0_ a1_, Canon a1_ → Canon (k a0_ a1_)) (hs : Canon s) : Canon (onRequest type len k s) := by
  unfold onRequest
  repeat' (first
    | with_reducible assumption
    | ((fail_if_no_progress extract_lets +onlyGivenNames s_); first | (refine canon_cut (s := s_) ?_ (fun hc_ => ?_); (on_goal 2 => (try clear_value s_)); unfold s_) | skip)
    | with_reducible apply hk | with_reducible apply canon_takeReq | with_reducible apply canon_answerRefused | with_reducible apply canon_reply
    | with_reducible apply canon_helloReason | with_reducible apply canon_mem | with_reducible apply canon_hostMem | with_reducible apply canon_regs
    | with_reducible apply canon_foldl | dsimp only | (intro s_ hc_; beta_reduce) | intro _ | split | (simp only [canon_mk_iff]; refine ⟨?_, ?_, ?_⟩))

theorem canon_mailDoorbell (fn : Fn) (s : State)  (hs : Canon s) : Canon (mailDoorbell fn s) := by
  unfold mailDoorbell
  repeat' (first
    | with_reducible assumption
    | ((fail_if_no_progress extract_lets +onlyGivenNames s_); first | (refine canon_cut (s := s_) ?_ (fun hc_ => ?_); (on_goal 2 => (try clear_value s_)); unfold s_) | skip)
    | with_reducible apply canon_viol | with_reducible apply canon_answerRefused | with_reducible apply canon_mem | with_reducible apply canon_hostMem
    | with_reducible apply canon_regs | split | (simp only [canon_mk_iff]; refine ⟨?_, ?_, ?_⟩))

theorem canon_post (m : List Byte) (s : State)  (hs : Canon s) : Canon (post m s) := by
  unfold post
  repeat' (first
    | with_reducible assumption
    | ((fail_if_no_progress extract_lets +onlyGivenNames s_); (refine canon_cut (s := s_) ?_ (fun hc_ => ?_); (on_goal 2 => (try clear_value s_)); unfold s_))
    | with_reducible apply canon_devWrite | with_reducible apply canon_raiseMsix)

theorem canon_f2hPost (s : State)  (hs : Canon s) : Canon (f2hPost s) := by
  unfold f2hPost
  repeat' (first
    | with_reducible assumption | (fail_if_no_progress extract_lets +onlyGivenNames s_) | with_reducible apply canon_answerRefused
    | with_reducible apply canon_post | with_reducible apply canon_mem | with_reducible apply canon_hostMem | with_reducible apply canon_regs | split
    | (simp only [canon_mk_iff]; refine ⟨?_, ?_, ?_⟩))

theorem canon_mailInit (s : State)  (hs : Canon s) : Canon (mailInit s) := by
  unfold mailInit
  repeat' (first
    | with_reducible assumption
    | ((fail_if_no_progress extract_lets +onlyGivenNames s_); first | (refine canon_cut (s := s_) ?_ (fun hc_ => ?_); (on_goal 2 => (try clear_value s_)); unfold s_) | skip)
    | with_reducible apply canon_devWrite | with_reducible apply canon_mem | with_reducible apply canon_hostMem | with_reducible apply canon_regs
    | (simp only [canon_mk_iff]; refine ⟨?_, ?_, ?_⟩))

theorem canon_hello (s : State)  (hs : Canon s) : Canon (hello s) := by
  unfold hello
  repeat' (first
    | with_reducible assumption
    | ((fail_if_no_progress extract_lets +onlyGivenNames s_); first | (refine canon_cut (s := s_) ?_ (fun hc_ => ?_); (on_goal 2 => (try clear_value s_)); unfold s_) | skip)
    | with_reducible apply canon_onRequest | with_reducible apply canon_reply | with_reducible apply canon_helloReason
    | with_reducible apply canon_setFld | with_reducible apply canon_mem | with_reducible apply canon_hostMem | with_reducible apply canon_regs
    | with_reducible apply canon_foldl | dsimp only | (intro s_ hc_; beta_reduce) | intro _ | split | (simp only [canon_mk_iff]; refine ⟨?_, ?_, ?_⟩))

theorem canon_ping (s : State)  (hs : Canon s) : Canon (ping s) := by
  unfold ping
  repeat' (first
    | with_reducible assumption | with_reducible apply canon_onRequest | with_reducible apply canon_reply | (intro s_ hc_; beta_reduce) | split)

theorem canon_quote (s : State)  (hs : Canon s) : Canon (quote s) := by
  unfold quote
  repeat' (first
    | with_reducible assumption | with_reducible apply canon_onRequest | with_reducible apply canon_reply | with_reducible apply canon_fresh
    | with_reducible apply canon_devWrite | dsimp only | (intro s_ hc_; beta_reduce) | intro _ | split)

theorem canon_writeOut (type : Nat) (data : State → List Byte) (s : State)  (hs : Canon s) : Canon (writeOut type data s) := by
  unfold writeOut
  repeat' (first
    | with_reducible assumption | with_reducible apply canon_onRequest | with_reducible apply canon_reply | with_reducible apply canon_devWrite
    | dsimp only | (intro s_ hc_; beta_reduce) | intro _ | split)

theorem canon_extendMsg (s : State)  (hs : Canon s) : Canon (extendMsg s) := by
  unfold extendMsg
  repeat' (first
    | with_reducible assumption | with_reducible apply canon_onRequest | with_reducible apply canon_reply | with_reducible apply canon_extendM
    | dsimp only | (intro s_ hc_; beta_reduce) | intro _ | split)

theorem canon_updateLoad (s : State)  (hs : Canon s) : Canon (updateLoad s) := by
  unfold updateLoad
  repeat' (first
    | with_reducible assumption
    | ((fail_if_no_progress extract_lets +onlyGivenNames s_); first | (refine canon_cut (s := s_) ?_ (fun hc_ => ?_); (on_goal 2 => (try clear_value s_)); unfold s_) | skip)
    | with_reducible apply canon_onRequest | with_reducible apply canon_reply | with_reducible apply canon_verifyFailed
    | with_reducible apply canon_lostTaken | with_reducible apply canon_Applying_take
    | with_reducible refine canon_Applying_take_eq (by assumption) ?_ ?_ | with_reducible apply canon_mem | with_reducible apply canon_hostMem
    | with_reducible apply canon_regs | with_reducible apply canon_foldl | dsimp only | (intro s_ hc_; beta_reduce) | intro _ | split
    | (simp only [canon_mk_iff]; refine ⟨?_, ?_, ?_⟩))

theorem canon_updateCommit (s : State)  (hs : Canon s) : Canon (updateCommit s) := by
  unfold updateCommit
  repeat' (first
    | with_reducible assumption
    | ((fail_if_no_progress extract_lets +onlyGivenNames s_); first | (refine canon_cut (s := s_) ?_ (fun hc_ => ?_); (on_goal 2 => (try clear_value s_)); unfold s_) | skip)
    | with_reducible apply canon_onRequest | with_reducible apply canon_reply | with_reducible apply canon_setBit | with_reducible apply canon_fresh
    | with_reducible refine canon_fresh_eq (by assumption) ?_ | with_reducible apply canon_mem | with_reducible apply canon_hostMem
    | with_reducible apply canon_regs | with_reducible apply canon_foldl | dsimp only | (intro s_ hc_; beta_reduce) | intro _ | split
    | (simp only [canon_mk_iff]; refine ⟨?_, ?_, ?_⟩))

theorem canon_raiseArb (kind : Nat) (im : Image) (s : State)  (hs : Canon s) : Canon (raiseArb kind im s) := by
  unfold raiseArb
  repeat' (first
    | with_reducible assumption
    | ((fail_if_no_progress extract_lets +onlyGivenNames s_); first | (refine canon_cut (s := s_) ?_ (fun hc_ => ?_); (on_goal 2 => (try clear_value s_)); unfold s_) | skip)
    | with_reducible apply canon_setFld | with_reducible apply canon_journalWrite | with_reducible apply canon_mem
    | with_reducible apply canon_hostMem | with_reducible apply canon_regs | with_reducible apply canon_foldl | dsimp only
    | (intro s_ hc_; beta_reduce) | intro _ | split | (simp only [canon_mk_iff]; refine ⟨?_, ?_, ?_⟩))

theorem canon_commitReply (status : Nat) (rest : List Byte) (s : State)  (hs : Canon s) : Canon (commitReply status rest s) := by
  unfold commitReply
  repeat' (first
    | with_reducible assumption | (fail_if_no_progress extract_lets +onlyGivenNames s_) | with_reducible apply canon_answerRefused
    | with_reducible apply canon_reply | with_reducible apply canon_mem | with_reducible apply canon_hostMem | with_reducible apply canon_regs | split
    | (simp only [canon_mk_iff]; refine ⟨?_, ?_, ?_⟩))

theorem canon_safeDefaults (s : State)  (hs : Canon s) : Canon (safeDefaults s) := by
  unfold safeDefaults
  repeat' (first
    | with_reducible assumption
    | ((fail_if_no_progress extract_lets +onlyGivenNames s_); first | (refine canon_cut (s := s_) ?_ (fun hc_ => ?_); (on_goal 2 => (try clear_value s_)); unfold s_) | (refine canon_cut (s := s_.s) ?_ (fun hc_ => ?_); (on_goal 2 => (try clear_value s_)); unfold s_) | (refine canon_cut (s := s_.1) ?_ (fun hc_ => ?_); (on_goal 2 => (try clear_value s_)); unfold s_) | (refine canon_cut (s := s_.2) ?_ (fun hc_ => ?_); (on_goal 2 => (try clear_value s_)); unfold s_) | (refine canon_cut (s := s_.2.s) ?_ (fun hc_ => ?_); (on_goal 2 => (try clear_value s_)); unfold s_) | (refine canon_cut (s := s_.2.2) ?_ (fun hc_ => ?_); (on_goal 2 => (try clear_value s_)); unfold s_) | (refine canon_cut (s := s_.2.2.s) ?_ (fun hc_ => ?_); (on_goal 2 => (try clear_value s_)); unfold s_) | (refine canon_cut (s := s_.1.s) ?_ (fun hc_ => ?_); (on_goal 2 => (try clear_value s_)); unfold s_) | (refine canon_cut (s := s_.1.a.s) ?_ (fun hc_ => ?_); (on_goal 2 => (try clear_value s_)); unfold s_) | (refine canon_cut (s := s_.a.s) ?_ (fun hc_ => ?_); (on_goal 2 => (try clear_value s_)); unfold s_) | (refine canon_cut (s := s_.2.a.s) ?_ (fun hc_ => ?_); (on_goal 2 => (try clear_value s_)); unfold s_) | skip)
    | with_reducible apply canon_fresh
    | with_reducible refine canon_fresh_eq (by assumption) ?_
    | with_reducible apply canon_mem
    | with_reducible apply canon_hostMem
    | with_reducible apply canon_regs
    | with_reducible apply wf_mwrite
    | with_reducible apply wf_mset
    | with_reducible apply wf_mfill
    | with_reducible apply wf_filter
    | with_reducible apply rwf_rset
    | with_reducible apply rwf_filter
    | with_reducible apply wf_nil
    | with_reducible apply rwf_nil
    | with_reducible apply canon_foldl
    | with_reducible apply canon_foldl_s
    | with_reducible apply canon_foldl_1
    | with_reducible apply canon_foldl_2
    | with_reducible apply canon_foldl_2s
    | with_reducible apply canon_foldl_22
    | with_reducible apply canon_foldl_22s
    | with_reducible apply canon_foldl_A
    | with_reducible apply canon_foldl_as
    | with_reducible apply canon_foldl_das
    | with_reducible apply canon_foldl_2das
    | with_reducible apply canon_foldl_1as
    | dsimp only
    | (intro s_ hc_; beta_reduce)
    | intro _
    | split
    | (simp only [canon_mk_iff]; refine ⟨?_, ?_, ?_⟩)
    | ((fail_if_no_progress clear_value *); split)
    | dsimp +zetaDelta only)

theorem canon_newImageStarted (s : State)  (hs : Canon s) : Canon (newImageStarted s) := by
  unfold newImageStarted
  repeat' (first
    | with_reducible assumption
    | ((fail_if_no_progress extract_lets +onlyGivenNames s_); first | (refine canon_cut (s := s_) ?_ (fun hc_ => ?_); (on_goal 2 => (try clear_value s_)); unfold s_) | skip)
    | with_reducible apply canon_setBit | with_reducible apply canon_running | with_reducible apply canon_safeDefaults
    | with_reducible apply canon_raiseArb | with_reducible apply canon_measureImage | with_reducible apply canon_setFld
    | with_reducible apply canon_commitReply | with_reducible apply canon_mem | with_reducible apply canon_hostMem | with_reducible apply canon_regs
    | with_reducible apply canon_foldl | dsimp only | (intro s_ hc_; beta_reduce) | intro _ | split | (simp only [canon_mk_iff]; refine ⟨?_, ?_, ?_⟩))

theorem canon_handoverTimeout (s : State)  (hs : Canon s) : Canon (handoverTimeout s) := by
  unfold handoverTimeout
  repeat' (first
    | with_reducible assumption
    | ((fail_if_no_progress extract_lets +onlyGivenNames s_); first | (refine canon_cut (s := s_) ?_ (fun hc_ => ?_); (on_goal 2 => (try clear_value s_)); unfold s_) | skip)
    | with_reducible apply canon_setBit | with_reducible apply canon_commitReply | with_reducible apply canon_report | with_reducible apply canon_mem
    | with_reducible apply canon_hostMem | with_reducible apply canon_regs | split | (simp only [canon_mk_iff]; refine ⟨?_, ?_, ?_⟩))

theorem canon_updateAbort (s : State)  (hs : Canon s) : Canon (updateAbort s) := by
  unfold updateAbort
  repeat' (first
    | with_reducible assumption | with_reducible apply canon_onRequest | with_reducible apply canon_reply | with_reducible apply canon_mem
    | with_reducible apply canon_hostMem | with_reducible apply canon_regs | dsimp only | (intro s_ hc_; beta_reduce) | intro _
    | (simp only [canon_mk_iff]; refine ⟨?_, ?_, ?_⟩))

theorem canon_stage1Write (s : State)  (hs : Canon s) : Canon (stage1Write s) := by
  unfold stage1Write
  repeat' (first
    | with_reducible assumption
    | ((fail_if_no_progress extract_lets +onlyGivenNames s_); first | (refine canon_cut (s := s_) ?_ (fun hc_ => ?_); (on_goal 2 => (try clear_value s_)); unfold s_) | skip)
    | with_reducible apply canon_onRequest | with_reducible apply canon_reply | with_reducible apply canon_verifyFailed
    | with_reducible apply canon_lostTaken | with_reducible apply canon_mem | with_reducible apply canon_hostMem | with_reducible apply canon_regs
    | with_reducible apply canon_foldl | dsimp only | (intro s_ hc_; beta_reduce) | intro _ | split | (simp only [canon_mk_iff]; refine ⟨?_, ?_, ?_⟩))

theorem canon_nvmWrite (s : State)  (hs : Canon s) : Canon (nvmWrite s) := by
  unfold nvmWrite
  repeat' (first
    | with_reducible assumption | with_reducible apply canon_onRequest | with_reducible apply canon_reply | with_reducible apply canon_mem
    | with_reducible apply canon_hostMem | with_reducible apply canon_regs | dsimp only | (intro s_ hc_; beta_reduce) | intro _ | split
    | (simp only [canon_mk_iff]; refine ⟨?_, ?_, ?_⟩))

theorem canon_setCap (s : State)  (hs : Canon s) : Canon (setCap s) := by
  unfold setCap
  repeat' (first
    | with_reducible assumption | with_reducible apply canon_onRequest | with_reducible apply canon_reply | with_reducible apply canon_mem
    | with_reducible apply canon_hostMem | with_reducible apply canon_regs | dsimp only | (intro s_ hc_; beta_reduce) | intro _ | split
    | (simp only [canon_mk_iff]; refine ⟨?_, ?_, ?_⟩))

theorem canon_setAclkMax (s : State)  (hs : Canon s) : Canon (setAclkMax s) := by
  unfold setAclkMax
  repeat' (first
    | with_reducible assumption | with_reducible apply canon_onRequest | with_reducible apply canon_reply | with_reducible apply canon_mem
    | with_reducible apply canon_hostMem | with_reducible apply canon_regs | dsimp only | (intro s_ hc_; beta_reduce) | intro _ | split
    | (simp only [canon_mk_iff]; refine ⟨?_, ?_, ?_⟩))

theorem canon_hpwrOff (s : State)  (hs : Canon s) : Canon (hpwrOff s) := by
  unfold hpwrOff
  repeat' (first
    | with_reducible assumption
    | ((fail_if_no_progress extract_lets +onlyGivenNames s_); first | (refine canon_cut (s := s_) ?_ (fun hc_ => ?_); (on_goal 2 => (try clear_value s_)); unfold s_) | (refine canon_cut (s := s_.s) ?_ (fun hc_ => ?_); (on_goal 2 => (try clear_value s_)); unfold s_) | (refine canon_cut (s := s_.1) ?_ (fun hc_ => ?_); (on_goal 2 => (try clear_value s_)); unfold s_) | (refine canon_cut (s := s_.2) ?_ (fun hc_ => ?_); (on_goal 2 => (try clear_value s_)); unfold s_) | (refine canon_cut (s := s_.2.s) ?_ (fun hc_ => ?_); (on_goal 2 => (try clear_value s_)); unfold s_) | (refine canon_cut (s := s_.2.2) ?_ (fun hc_ => ?_); (on_goal 2 => (try clear_value s_)); unfold s_) | (refine canon_cut (s := s_.2.2.s) ?_ (fun hc_ => ?_); (on_goal 2 => (try clear_value s_)); unfold s_) | (refine canon_cut (s := s_.1.s) ?_ (fun hc_ => ?_); (on_goal 2 => (try clear_value s_)); unfold s_) | (refine canon_cut (s := s_.1.a.s) ?_ (fun hc_ => ?_); (on_goal 2 => (try clear_value s_)); unfold s_) | (refine canon_cut (s := s_.a.s) ?_ (fun hc_ => ?_); (on_goal 2 => (try clear_value s_)); unfold s_) | (refine canon_cut (s := s_.2.a.s) ?_ (fun hc_ => ?_); (on_goal 2 => (try clear_value s_)); unfold s_) | skip)
    | with_reducible apply canon_mem
    | with_reducible apply canon_hostMem
    | with_reducible apply canon_regs
    | with_reducible apply wf_mwrite
    | with_reducible apply wf_mset
    | with_reducible apply wf_mfill
    | with_reducible apply wf_filter
    | with_reducible apply rwf_rset
    | with_reducible apply rwf_filter
    | with_reducible apply wf_nil
    | with_reducible apply rwf_nil
    | with_reducible apply canon_foldl
    | with_reducible apply canon_foldl_s
    | with_reducible apply canon_foldl_1
    | with_reducible apply canon_foldl_2
    | with_reducible apply canon_foldl_2s
    | with_reducible apply canon_foldl_22
    | with_reducible apply canon_foldl_22s
    | with_reducible apply canon_foldl_A
    | with_reducible apply canon_foldl_as
    | with_reducible apply canon_foldl_das
    | with_reducible apply canon_foldl_2das
    | with_reducible apply canon_foldl_1as
    | dsimp only
    | (intro s_ hc_; beta_reduce)
    | intro _
    | split
    | (simp only [canon_mk_iff]; refine ⟨?_, ?_, ?_⟩)
    | ((fail_if_no_progress clear_value *); split)
    | dsimp +zetaDelta only)

theorem canon_idleExit (s : State)  (hs : Canon s) : Canon (idleExit s) := by
  unfold idleExit
  repeat' (first
    | with_reducible assumption | with_reducible apply canon_onRequest | with_reducible apply canon_reply | with_reducible apply canon_setFld
    | with_reducible apply canon_mem | with_reducible apply canon_hostMem | with_reducible apply canon_regs | dsimp only | (intro s_ hc_; beta_reduce)
    | intro _ | split | (simp only [canon_mk_iff]; refine ⟨?_, ?_, ?_⟩))

theorem canon_exitReply (status : Nat) (s : State)  (hs : Canon s) : Canon (exitReply status s) := by
  unfold exitReply
  repeat' (first
    | with_reducible assumption
    | ((fail_if_no_progress extract_lets +onlyGivenNames s_); first | (refine canon_cut (s := s_) ?_ (fun hc_ => ?_); (on_goal 2 => (try clear_value s_)); unfold s_) | (refine canon_cut (s := s_.s) ?_ (fun hc_ => ?_); (on_goal 2 => (try clear_value s_)); unfold s_) | (refine canon_cut (s := s_.1) ?_ (fun hc_ => ?_); (on_goal 2 => (try clear_value s_)); unfold s_) | (refine canon_cut (s := s_.2) ?_ (fun hc_ => ?_); (on_goal 2 => (try clear_value s_)); unfold s_) | (refine canon_cut (s := s_.2.s) ?_ (fun hc_ => ?_); (on_goal 2 => (try clear_value s_)); unfold s_) | (refine canon_cut (s := s_.2.2) ?_ (fun hc_ => ?_); (on_goal 2 => (try clear_value s_)); unfold s_) | (refine canon_cut (s := s_.2.2.s) ?_ (fun hc_ => ?_); (on_goal 2 => (try clear_value s_)); unfold s_) | (refine canon_cut (s := s_.1.s) ?_ (fun hc_ => ?_); (on_goal 2 => (try clear_value s_)); unfold s_) | (refine canon_cut (s := s_.1.a.s) ?_ (fun hc_ => ?_); (on_goal 2 => (try clear_value s_)); unfold s_) | (refine canon_cut (s := s_.a.s) ?_ (fun hc_ => ?_); (on_goal 2 => (try clear_value s_)); unfold s_) | (refine canon_cut (s := s_.2.a.s) ?_ (fun hc_ => ?_); (on_goal 2 => (try clear_value s_)); unfold s_) | skip)
    | with_reducible apply canon_answerRefused
    | with_reducible apply canon_reply
    | with_reducible apply canon_mem
    | with_reducible apply canon_hostMem
    | with_reducible apply canon_regs
    | with_reducible apply wf_mwrite
    | with_reducible apply wf_mset
    | with_reducible apply wf_mfill
    | with_reducible apply wf_filter
    | with_reducible apply rwf_rset
    | with_reducible apply rwf_filter
    | with_reducible apply wf_nil
    | with_reducible apply rwf_nil
    | with_reducible apply canon_foldl
    | with_reducible apply canon_foldl_s
    | with_reducible apply canon_foldl_1
    | with_reducible apply canon_foldl_2
    | with_reducible apply canon_foldl_2s
    | with_reducible apply canon_foldl_22
    | with_reducible apply canon_foldl_22s
    | with_reducible apply canon_foldl_A
    | with_reducible apply canon_foldl_as
    | with_reducible apply canon_foldl_das
    | with_reducible apply canon_foldl_2das
    | with_reducible apply canon_foldl_1as
    | dsimp only
    | (intro s_ hc_; beta_reduce)
    | intro _
    | split
    | (simp only [canon_mk_iff]; refine ⟨?_, ?_, ?_⟩)
    | ((fail_if_no_progress clear_value *); split)
    | dsimp +zetaDelta only)

theorem canon_wakeDone (s : State)  (hs : Canon s) : Canon (wakeDone s) := by
  unfold wakeDone
  repeat' (first
    | with_reducible assumption
    | ((fail_if_no_progress extract_lets +onlyGivenNames s_); first | (refine canon_cut (s := s_) ?_ (fun hc_ => ?_); (on_goal 2 => (try clear_value s_)); unfold s_) | skip)
    | with_reducible apply canon_setRails | with_reducible apply canon_setFld | with_reducible apply canon_idle
    | with_reducible apply canon_answerRefused | with_reducible apply canon_exitReply | with_reducible apply canon_snuffStart
    | with_reducible apply canon_setBit | with_reducible apply canon_mem | with_reducible apply canon_hostMem | with_reducible apply canon_regs
    | with_reducible apply canon_foldl | dsimp only | (intro s_ hc_; beta_reduce) | intro _ | split | (simp only [canon_mk_iff]; refine ⟨?_, ?_, ?_⟩))

theorem canon_thermalTrip (tMax die : Nat) (s : State)  (hs : Canon s) : Canon (thermalTrip tMax die s) := by
  unfold thermalTrip
  repeat' (first
    | with_reducible assumption
    | ((fail_if_no_progress extract_lets +onlyGivenNames s_); first | (refine canon_cut (s := s_) ?_ (fun hc_ => ?_); (on_goal 2 => (try clear_value s_)); unfold s_) | skip)
    | with_reducible apply canon_hpwrOff | with_reducible apply canon_snuffTrigger | with_reducible apply canon_idle
    | with_reducible apply canon_exitReply | with_reducible apply canon_report | with_reducible apply canon_setFld | with_reducible apply canon_mem
    | with_reducible apply canon_hostMem | with_reducible apply canon_regs | with_reducible apply canon_foldl | dsimp only
    | (intro s_ hc_; beta_reduce) | intro _ | split | (simp only [canon_mk_iff]; refine ⟨?_, ?_, ?_⟩))

theorem canon_thermalSample (h0 h1 h2 h3 m : BitVec 16) (s : State)  (hs : Canon s) : Canon (thermalSample h0 h1 h2 h3 m s) := by
  unfold thermalSample
  repeat' (first
    | with_reducible assumption
    | ((fail_if_no_progress extract_lets +onlyGivenNames s_); first | (refine canon_cut (s := s_) ?_ (fun hc_ => ?_); (on_goal 2 => (try clear_value s_)); unfold s_) | skip)
    | with_reducible apply canon_setReg | with_reducible apply canon_setFld | with_reducible apply canon_lowerTh
    | with_reducible apply canon_thermalTrip | with_reducible apply canon_mem | with_reducible apply canon_hostMem | with_reducible apply canon_regs
    | split | (simp only [canon_mk_iff]; refine ⟨?_, ?_, ?_⟩))

theorem canon_execMailDoorbell (fn : Fn) (s : State) (hs : Canon s) : OutCanon (execMailDoorbell fn s) := by
  unfold execMailDoorbell
  repeat' (first
    | with_reducible assumption | with_reducible apply canon_bar0 | with_reducible apply canon_mailDoorbell)

theorem canon_execF2hPost (s : State) (hs : Canon s) : OutCanon (execF2hPost s) := by
  unfold execF2hPost
  repeat' (first
    | with_reducible assumption | with_reducible apply canon_live | with_reducible apply canon_f2hPost)

theorem canon_execHello (s : State) (hs : Canon s) : OutCanon (execHello s) := by
  unfold execHello
  repeat' (first
    | with_reducible assumption | with_reducible apply canon_live | with_reducible apply canon_hello)

theorem canon_execPing (s : State) (hs : Canon s) : OutCanon (execPing s) := by
  unfold execPing
  repeat' (first
    | with_reducible assumption | with_reducible apply canon_live | with_reducible apply canon_ping)

theorem canon_execQuote (s : State) (hs : Canon s) : OutCanon (execQuote s) := by
  unfold execQuote
  repeat' (first
    | with_reducible assumption | with_reducible apply canon_live | with_reducible apply canon_quote)

theorem canon_execCert (s : State) (hs : Canon s) : OutCanon (execCert s) := by
  unfold execCert
  repeat' (first
    | with_reducible assumption | with_reducible apply canon_live | with_reducible apply canon_writeOut)

theorem canon_execEventLog (s : State) (hs : Canon s) : OutCanon (execEventLog s) := by
  unfold execEventLog
  repeat' (first
    | with_reducible assumption | with_reducible apply canon_live | with_reducible apply canon_writeOut)

theorem canon_execExtend (s : State) (hs : Canon s) : OutCanon (execExtend s) := by
  unfold execExtend
  repeat' (first
    | with_reducible assumption | with_reducible apply canon_live | with_reducible apply canon_extendMsg)

theorem canon_execUpdateLoad (s : State) (hs : Canon s) : OutCanon (execUpdateLoad s) := by
  unfold execUpdateLoad
  repeat' (first
    | with_reducible assumption | with_reducible apply canon_live | with_reducible apply canon_updateLoad)

theorem canon_execUpdateCommit (s : State) (hs : Canon s) : OutCanon (execUpdateCommit s) := by
  unfold execUpdateCommit
  repeat' (first
    | with_reducible assumption | with_reducible apply canon_live | with_reducible apply canon_updateCommit)

theorem canon_execUpdateAbort (s : State) (hs : Canon s) : OutCanon (execUpdateAbort s) := by
  unfold execUpdateAbort
  repeat' (first
    | with_reducible assumption | with_reducible apply canon_live | with_reducible apply canon_updateAbort)

theorem canon_execStage1Write (s : State) (hs : Canon s) : OutCanon (execStage1Write s) := by
  unfold execStage1Write
  repeat' (first
    | with_reducible assumption | with_reducible apply canon_live | with_reducible apply canon_stage1Write)

theorem canon_execNvmWrite (s : State) (hs : Canon s) : OutCanon (execNvmWrite s) := by
  unfold execNvmWrite
  repeat' (first
    | with_reducible assumption | with_reducible apply canon_live | with_reducible apply canon_nvmWrite)

theorem canon_execNewImageLoopsStarted (s : State) (hs : Canon s) : OutCanon (execNewImageLoopsStarted s) := by
  unfold execNewImageLoopsStarted
  repeat' (first
    | with_reducible assumption | with_reducible apply canon_live | with_reducible apply canon_newImageStarted)

theorem canon_execHandoverTimeout (s : State) (hs : Canon s) : OutCanon (execHandoverTimeout s) := by
  unfold execHandoverTimeout
  repeat' (first
    | with_reducible assumption | with_reducible apply canon_live | with_reducible apply canon_handoverTimeout)

theorem canon_execThermalSample (h0 h1 h2 h3 m : BitVec 16) (s : State) (hs : Canon s) : OutCanon (execThermalSample h0 h1 h2 h3 m s) := by
  unfold execThermalSample
  repeat' (first
    | with_reducible assumption | with_reducible apply canon_damper | with_reducible apply canon_thermalSample)

theorem canon_execSetCap (s : State) (hs : Canon s) : OutCanon (execSetCap s) := by
  unfold execSetCap
  repeat' (first
    | with_reducible assumption | with_reducible apply canon_live | with_reducible apply canon_setCap)

theorem canon_execSetAclkMax (s : State) (hs : Canon s) : OutCanon (execSetAclkMax s) := by
  unfold execSetAclkMax
  repeat' (first
    | with_reducible assumption | with_reducible apply canon_live | with_reducible apply canon_setAclkMax)

theorem canon_execIdleExit (s : State) (hs : Canon s) : OutCanon (execIdleExit s) := by
  unfold execIdleExit
  repeat' (first
    | with_reducible assumption | with_reducible apply canon_live | with_reducible apply canon_idleExit)

theorem canon_execWakeDone (s : State) (hs : Canon s) : OutCanon (execWakeDone s) := by
  unfold execWakeDone
  repeat' (first
    | with_reducible assumption | with_reducible apply canon_live | with_reducible apply canon_wakeDone)

end Sys2Proof.Machine
end

