-- ==== Sys2Proof/Laws/Canon/Access.lean ====
section
/-!
SUPPORT. The operations and meanings of Machine/Access.lean keep the canonical form of the memories and of the register file.
-/
set_option linter.all false
namespace Sys2Proof.Machine

theorem canon_walkFrom (c part : Nat) (seq : Bool) (va : Nat) (x0 : Nat) (x1 : Nat) (x2 : State) (hx2 : Canon x2) : Canon (walkFrom c part seq va x0 x1 x2).1 := by
  induction x0 generalizing x1 x2 with
  | zero =>
    unfold walkFrom
    repeat' (first
        | with_reducible assumption | (fail_if_no_progress extract_lets +onlyGivenNames s_) | with_reducible apply canon_devRead
        | with_reducible apply canon_mem | with_reducible apply canon_hostMem | with_reducible apply canon_regs | dsimp only | split
        | (simp only [canon_mk_iff]; refine ⟨?_, ?_, ?_⟩))
  | succ n ih =>
    unfold walkFrom
    repeat' (first
        | with_reducible assumption | (fail_if_no_progress extract_lets +onlyGivenNames s_) | with_reducible apply ih | with_reducible apply canon_devRead
        | with_reducible apply canon_mem | with_reducible apply canon_hostMem | with_reducible apply canon_regs | dsimp only | split
        | (simp only [canon_mk_iff]; refine ⟨?_, ?_, ?_⟩))

theorem canon_walkFrom_eq {c part : Nat} {seq : Bool} {va : Nat} {x0 : Nat} {x1 : Nat} {x2 : State} {v0_} {v1_} (he_ : walkFrom c part seq va x0 x1 x2 = (v0_, v1_)) (hx2 : Canon x2) :
    Canon v0_ := by
  have := canon_walkFrom c part seq va x0 x1 x2 hx2
  rw [he_] at this
  exact this

theorem canon_walk (s : State) (c part va : Nat)  (hs : Canon s) : Canon (walk s c part va).1 := by
  unfold walk
  repeat' (first
    | with_reducible assumption | (fail_if_no_progress extract_lets +onlyGivenNames s_) | with_reducible apply canon_walkFrom | split)

theorem canon_walk_eq {s : State} {c part va : Nat}  {v0_} {v1_} (he_ : walk s c part va = (v0_, v1_)) (hs : Canon s) :
    Canon v0_ := by
  have := canon_walk s c part va  hs
  rw [he_] at this
  exact this

theorem canon_tlbUse (s : State) (c : Nat) (e : TlbEntry)  (hs : Canon s) : Canon (tlbUse s c e) := by
  unfold tlbUse
  repeat' (first
    | with_reducible assumption | (fail_if_no_progress extract_lets +onlyGivenNames s_) | with_reducible apply canon_mem
    | with_reducible apply canon_hostMem | with_reducible apply canon_regs | (simp only [canon_mk_iff]; refine ⟨?_, ?_, ?_⟩))

theorem canon_translate (s : State) (c part va : Nat)  (hs : Canon s) : Canon (translate s c part va).1 := by
  unfold translate
  repeat' (first
    | with_reducible assumption | with_reducible apply canon_tlbUse | with_reducible apply canon_walk | dsimp only | split)

theorem canon_translate_eq {s : State} {c part va : Nat}  {v0_} {v1_} (he_ : translate s c part va = (v0_, v1_)) (hs : Canon s) :
    Canon v0_ := by
  have := canon_translate s c part va  hs
  rw [he_] at this
  exact this

theorem canon_Acc_fail (a : Acc) (st : Nat) (info detail : Nat)  (ha : Canon a.s) : Canon (Acc.fail a st info detail).s := by
  unfold Acc.fail
  repeat' (first
    | with_reducible assumption | split)

theorem canon_Acc_viol (a : Acc) (addr kind part : Nat)  (ha : Canon a.s) : Canon (Acc.viol a addr kind part).s := by
  unfold Acc.viol
  repeat' (first
    | with_reducible assumption | with_reducible apply canon_viol | with_reducible apply canon_addSat | with_reducible apply canon_regs | dsimp only
    | split | (simp only [canon_mk_iff]; refine ⟨?_, ?_, ?_⟩))

theorem canon_resolve (c part : Nat) (copy write : Bool) (va : Nat) (a : Acc)  (ha : Canon a.s) : Canon (resolve c part copy write va a).2.s := by
  unfold resolve
  repeat' (first
    | with_reducible assumption
    | ((fail_if_no_progress extract_lets +onlyGivenNames s_); first | (refine canon_cut (s := s_) ?_ (fun hc_ => ?_); (on_goal 2 => (try clear_value s_)); unfold s_) | skip)
    | with_reducible apply canon_Acc_viol | with_reducible apply canon_translate | with_reducible refine canon_translate_eq (by assumption) ?_
    | with_reducible apply canon_viol | with_reducible apply canon_Acc_fail | with_reducible apply canon_mem | with_reducible apply canon_hostMem
    | with_reducible apply canon_regs | with_reducible apply canon_foldl | dsimp only | (intro s_ hc_; beta_reduce) | intro _ | split
    | (simp only [canon_mk_iff]; refine ⟨?_, ?_, ?_⟩))

theorem canon_resolve_eq {c part : Nat} {copy write : Bool} {va : Nat} {a : Acc}  {v0_} {v1_} (he_ : resolve c part copy write va a = (v0_, v1_)) (ha : Canon a.s) :
    Canon v1_.s := by
  have := canon_resolve c part copy write va a  ha
  rw [he_] at this
  exact this

theorem canon_countSectors (c : Nat) (x0 : Nat) (x1 : Nat) (x2 : Nat) (x3 : Acc) (hx3 : Canon x3.s) : Canon (countSectors c x0 x1 x2 x3).s := by
  induction x0 generalizing x1 x2 x3 with
  | zero =>
    unfold countSectors
    repeat' (first
        | with_reducible assumption
        | ((fail_if_no_progress extract_lets +onlyGivenNames s_); first | (refine canon_cut (s := s_.s) ?_ (fun hc_ => ?_); (on_goal 2 => (try clear_value s_)); unfold s_) | skip)
        | with_reducible apply canon_countAccess | split)
  | succ n ih =>
    unfold countSectors
    repeat' (first
        | with_reducible assumption
        | ((fail_if_no_progress extract_lets +onlyGivenNames s_); first | (refine canon_cut (s := s_.s) ?_ (fun hc_ => ?_); (on_goal 2 => (try clear_value s_)); unfold s_) | skip)
        | with_reducible apply ih | with_reducible apply canon_countAccess | split)

theorem canon_readPage (c part : Nat) (copy : Bool) (va n : Nat) (a : Acc)  (ha : Canon a.s) : Canon (readPage c part copy va n a).2.s := by
  unfold readPage
  repeat' (first
    | with_reducible assumption
    | ((fail_if_no_progress extract_lets +onlyGivenNames s_); first | (refine canon_cut (s := s_) ?_ (fun hc_ => ?_); (on_goal 2 => (try clear_value s_)); unfold s_) | skip)
    | with_reducible apply canon_resolve | with_reducible refine canon_resolve_eq (by assumption) ?_ | with_reducible apply canon_errUncorrectable
    | with_reducible apply canon_countSectors | with_reducible apply canon_lostTaken | with_reducible apply canon_countAccess
    | with_reducible apply canon_Acc_fail | with_reducible apply canon_mem | with_reducible apply canon_hostMem | with_reducible apply canon_regs
    | with_reducible apply canon_foldl | dsimp only | (intro s_ hc_; beta_reduce) | intro _ | split | (simp only [canon_mk_iff]; refine ⟨?_, ?_, ?_⟩))

theorem canon_readPage_eq {c part : Nat} {copy : Bool} {va n : Nat} {a : Acc}  {v0_} {v1_} (he_ : readPage c part copy va n a = (v0_, v1_)) (ha : Canon a.s) :
    Canon v1_.s := by
  have := canon_readPage c part copy va n a  ha
  rw [he_] at this
  exact this

theorem canon_readPages (c part : Nat) (copy : Bool) (x0 : Nat) (x1 : Nat) (x2 : Nat) (x3 : Acc) (hx3 : Canon x3.s) : Canon (readPages c part copy x0 x1 x2 x3).2.s := by
  induction x0 generalizing x1 x2 x3 with
  | zero =>
    unfold readPages
    repeat' (first
        | with_reducible assumption | (fail_if_no_progress extract_lets +onlyGivenNames s_) | with_reducible apply canon_readPage | dsimp only | split)
  | succ n ih =>
    unfold readPages
    repeat' (first
        | with_reducible assumption | (fail_if_no_progress extract_lets +onlyGivenNames s_) | with_reducible apply ih | with_reducible apply canon_readPage
        | dsimp only | split)

theorem canon_readPages_eq {c part : Nat} {copy : Bool} {x0 : Nat} {x1 : Nat} {x2 : Nat} {x3 : Acc} {v0_} {v1_} (he_ : readPages c part copy x0 x1 x2 x3 = (v0_, v1_)) (hx3 : Canon x3.s) :
    Canon v1_.s := by
  have := canon_readPages c part copy x0 x1 x2 x3 hx3
  rw [he_] at this
  exact this

theorem canon_coreRead (c part : Nat) (copy : Bool) (va n : Nat) (a : Acc)  (ha : Canon a.s) : Canon (coreRead c part copy va n a).2.s := by
  unfold coreRead
  repeat' (first
    | with_reducible assumption | with_reducible apply canon_readPages)

theorem canon_coreRead_eq {c part : Nat} {copy : Bool} {va n : Nat} {a : Acc}  {v0_} {v1_} (he_ : coreRead c part copy va n a = (v0_, v1_)) (ha : Canon a.s) :
    Canon v1_.s := by
  have := canon_coreRead c part copy va n a  ha
  rw [he_] at this
  exact this

theorem canon_writePages (c part : Nat) (copy : Bool) (x0 : Nat) (x1 : Nat) (x2 : List Byte) (x3 : Acc) (hx3 : Canon x3.s) : Canon (writePages c part copy x0 x1 x2 x3).s := by
  induction x0 generalizing x1 x2 x3 with
  | zero =>
    unfold writePages
    repeat' (first
        | with_reducible assumption | with_reducible apply canon_resolve | dsimp only | split)
  | succ n ih =>
    unfold writePages
    repeat' (first
        | with_reducible assumption | with_reducible apply ih | with_reducible apply canon_resolve | dsimp only | split)

theorem canon_coreWrite (c part : Nat) (copy : Bool) (va : Nat) (bs : List Byte) (a : Acc)  (ha : Canon a.s) : Canon (coreWrite c part copy va bs a).s := by
  unfold coreWrite
  repeat' (first
    | with_reducible assumption | with_reducible apply canon_writePages)

theorem canon_Acc_land (c : Nat) (a : Acc)  (ha : Canon a.s) : Canon (Acc.land c a) := by
  unfold Acc.land
  repeat' (first
    | with_reducible assumption | with_reducible apply canon_devWrite | with_reducible apply canon_foldl | (intro s_ hc_; beta_reduce))

theorem canon_readElem (c part : Nat) (copy : Bool) (f : Fmt) (va : Int) (pos : Nat) (a : Acc)  (ha : Canon a.s) : Canon (readElem c part copy f va pos a).2.s := by
  unfold readElem
  repeat' (first
    | with_reducible assumption | with_reducible apply canon_coreRead)

theorem canon_readElem_eq {c part : Nat} {copy : Bool} {f : Fmt} {va : Int} {pos : Nat} {a : Acc}  {v0_} {v1_} (he_ : readElem c part copy f va pos a = (v0_, v1_)) (ha : Canon a.s) :
    Canon v1_.s := by
  have := canon_readElem c part copy f va pos a  ha
  rw [he_] at this
  exact this

end Sys2Proof.Machine
end

