-- ==== Sys2Proof/Laws/Canon/Movers.lean ====
section
/-!
SUPPORT. The operations and meanings of Machine/Movers.lean keep the canonical form of the memories and of the register file.
-/
set_option linter.all false
namespace Sys2Proof.Machine

theorem canon_writeElem (c part : Nat) (copy : Bool) (f : Fmt) (va : Int) (pos : Nat) (clear : Bool) (x : Nat) (a : Acc)  (ha : Canon a.s) : Canon (writeElem c part copy f va pos clear x a).s := by
  unfold writeElem
  repeat' (first
    | with_reducible assumption | (fail_if_no_progress extract_lets +onlyGivenNames s_) | with_reducible apply canon_coreWrite
    | with_reducible apply canon_resolve | dsimp only | split)

theorem canon_fetchIndex (c part : Nat) (copy : Bool) (d : Desc) (frames : List Frame) (is : List Nat) (a : Acc)  (ha : Canon a.s) : Canon (fetchIndex c part copy d frames is a).2.s := by
  unfold fetchIndex
  repeat' (first
    | with_reducible assumption | with_reducible apply canon_readElem | with_reducible apply canon_Acc_fail | dsimp only | split)

theorem canon_fetchIndex_eq {c part : Nat} {copy : Bool} {d : Desc} {frames : List Frame} {is : List Nat} {a : Acc}  {v0_} {v1_} (he_ : fetchIndex c part copy d frames is a = (v0_, v1_)) (ha : Canon a.s) :
    Canon v1_.s := by
  have := canon_fetchIndex c part copy d frames is a  ha
  rw [he_] at this
  exact this

theorem canon_copyElem (c part : Nat) (d : Desc) (frames : List Frame) (bs is : List Nat) (a : Acc)  (ha : Canon a.s) : Canon (copyElem c part d frames bs is a).s := by
  unfold copyElem
  repeat' (first
    | with_reducible assumption | (fail_if_no_progress extract_lets +onlyGivenNames s_) | with_reducible apply canon_fetchIndex
    | with_reducible apply canon_writeElem | with_reducible apply canon_readElem | dsimp only | split)

theorem canon_copyRange (c part : Nat) (i : Item) (lo n : Nat) (a : Acc)  (ha : Canon a.s) : Canon (copyRange c part i lo n a).s := by
  unfold copyRange
  repeat' (first
    | with_reducible assumption | with_reducible apply canon_copyElem | with_reducible apply canon_foldl_s | (intro s_ hc_; beta_reduce))

theorem canon_prefetchAll (part : Nat) (i : Item) (x0 : List Nat) (x1 : List Nat) (x2 : Acc) (hx2 : Canon x2.s) : Canon (prefetchAll part i x0 x1 x2).s := by
  induction x0 generalizing x1 x2 with
  | nil =>
    unfold prefetchAll
    repeat' (first
        | with_reducible assumption
        | ((fail_if_no_progress extract_lets +onlyGivenNames s_); first | (refine canon_cut (s := s_.s) ?_ (fun hc_ => ?_); (on_goal 2 => (try clear_value s_)); unfold s_) | skip)
        | with_reducible apply canon_copyRange)
  | cons a l ih =>
    unfold prefetchAll
    repeat' (first
        | with_reducible assumption
        | ((fail_if_no_progress extract_lets +onlyGivenNames s_); first | (refine canon_cut (s := s_.s) ?_ (fun hc_ => ?_); (on_goal 2 => (try clear_value s_)); unfold s_) | skip)
        | with_reducible apply ih | with_reducible apply canon_copyRange)

theorem canon_moveAll (s : State) (part : Nat) (i : Item)  (hs : Canon s) : Canon (moveAll s part i).s := by
  unfold moveAll
  repeat' (first
    | with_reducible assumption | (fail_if_no_progress extract_lets +onlyGivenNames s_) | with_reducible apply canon_prefetchAll
    | with_reducible apply canon_copyRange | split)

theorem canon_loadWords (s : State) (part : Nat) (i : Item)  (hs : Canon s) : Canon (loadWords s part i).2.s := by
  unfold loadWords
  repeat' (first
    | with_reducible assumption | (fail_if_no_progress extract_lets +onlyGivenNames s_) | with_reducible apply canon_coreRead)

theorem canon_loadWords_eq {s : State} {part : Nat} {i : Item}  {v0_} {v1_} (he_ : loadWords s part i = (v0_, v1_)) (hs : Canon s) :
    Canon v1_.s := by
  have := canon_loadWords s part i  hs
  rw [he_] at this
  exact this

theorem canon_movePartial (s : State) (part : Nat) (i : Item)  (hs : Canon s) : Canon (movePartial s part i) := by
  unfold movePartial
  repeat' (first
    | with_reducible assumption | with_reducible apply canon_fresh | with_reducible apply canon_moveAll | with_reducible apply canon_Acc_land
    | dsimp only | split)

theorem canon_gatherUnit (s : State) (c part : Nat) (i : Item) (u : Nat)  (hs : Canon s) : Canon (gatherUnit s c part i u).s := by
  unfold gatherUnit
  repeat' (first
    | with_reducible assumption | (fail_if_no_progress extract_lets +onlyGivenNames s_) | with_reducible apply canon_copyRange)

theorem canon_gatherPartial (part : Nat) (i : Item) (s : State) (c u : Nat)  (hs : Canon s) : Canon (gatherPartial part i s c u) := by
  unfold gatherPartial
  repeat' (first
    | with_reducible assumption
    | ((fail_if_no_progress extract_lets +onlyGivenNames s_); first | (refine canon_cut (s := s_) ?_ (fun hc_ => ?_); (on_goal 2 => (try clear_value s_)); unfold s_) | (refine canon_cut (s := s_.s) ?_ (fun hc_ => ?_); (on_goal 2 => (try clear_value s_)); unfold s_) | (refine canon_cut (s := s_.1) ?_ (fun hc_ => ?_); (on_goal 2 => (try clear_value s_)); unfold s_) | (refine canon_cut (s := s_.2) ?_ (fun hc_ => ?_); (on_goal 2 => (try clear_value s_)); unfold s_) | (refine canon_cut (s := s_.2.s) ?_ (fun hc_ => ?_); (on_goal 2 => (try clear_value s_)); unfold s_) | (refine canon_cut (s := s_.2.2) ?_ (fun hc_ => ?_); (on_goal 2 => (try clear_value s_)); unfold s_) | (refine canon_cut (s := s_.2.2.s) ?_ (fun hc_ => ?_); (on_goal 2 => (try clear_value s_)); unfold s_) | (refine canon_cut (s := s_.1.s) ?_ (fun hc_ => ?_); (on_goal 2 => (try clear_value s_)); unfold s_) | (refine canon_cut (s := s_.1.a.s) ?_ (fun hc_ => ?_); (on_goal 2 => (try clear_value s_)); unfold s_) | (refine canon_cut (s := s_.a.s) ?_ (fun hc_ => ?_); (on_goal 2 => (try clear_value s_)); unfold s_) | (refine canon_cut (s := s_.2.a.s) ?_ (fun hc_ => ?_); (on_goal 2 => (try clear_value s_)); unfold s_) | skip)
    | with_reducible apply canon_fresh
    | with_reducible refine canon_fresh_eq (by assumption) ?_
    | with_reducible apply canon_gatherUnit
    | with_reducible apply canon_Acc_land
    | with_reducible apply canon_mem
    | with_reducible apply canon_hostMem
    | with_reducible apply canon_regs
    | with_reducible apply wf_mwrite
    | with_reducible apply wf_mset
    | with_reducible apply wf_mfill
    | with_reducible apply wf_filter
    | with_reducible apply rwf_rset
    | with_reducible apply rwf_filter
    | with_reducible apply wf_nil
    | with_reducible apply rwf_nil
    | with_reducible apply canon_foldl
    | with_reducible apply canon_foldl_s
    | with_reducible apply canon_foldl_1
    | with_reducible apply canon_foldl_2
    | with_reducible apply canon_foldl_2s
    | with_reducible apply canon_foldl_22
    | with_reducible apply canon_foldl_22s
    | with_reducible apply canon_foldl_A
    | with_reducible apply canon_foldl_as
    | with_reducible apply canon_foldl_das
    | with_reducible apply canon_foldl_2das
    | with_reducible apply canon_foldl_1as
    | dsimp only
    | (intro s_ hc_; beta_reduce)
    | intro _
    | split
    | (simp only [canon_mk_iff]; refine ⟨?_, ?_, ?_⟩)
    | ((fail_if_no_progress clear_value *); split)
    | dsimp +zetaDelta only)

end Sys2Proof.Machine
end

