-- ==== Sys2Proof/Laws/Canon/Queue.lean ====
section
/-!
SUPPORT. The operations and meanings of Machine/Queue.lean keep the canonical form of the memories and of the register file.
-/
set_option linter.all false
namespace Sys2Proof.Machine

theorem canon_setQueue (s : State) (q : Nat) (x : Queue)  (hs : Canon s) : Canon (State.setQueue s q x) := by
  unfold State.setQueue
  repeat' (first
    | with_reducible assumption | (fail_if_no_progress extract_lets +onlyGivenNames s_) | with_reducible apply canon_mem
    | with_reducible apply canon_hostMem | with_reducible apply canon_regs | (simp only [canon_mk_iff]; refine ⟨?_, ?_, ?_⟩))

theorem canon_modQueue (s : State) (q : Nat) (f : Queue → Queue)  (hs : Canon s) : Canon (State.modQueue s q f) := by
  unfold State.modQueue
  repeat' (first
    | with_reducible assumption | with_reducible apply canon_setQueue)

theorem canon_modWin (s : State) (p : Nat) (f : Window → Window)  (hs : Canon s) : Canon (State.modWin s p f) := by
  unfold State.modWin
  repeat' (first
    | with_reducible assumption | (fail_if_no_progress extract_lets +onlyGivenNames s_) | with_reducible apply canon_mem
    | with_reducible apply canon_hostMem | with_reducible apply canon_regs | (simp only [canon_mk_iff]; refine ⟨?_, ?_, ?_⟩))

theorem canon_modCore (s : State) (c : Nat) (f : CoreSt → CoreSt)  (hs : Canon s) : Canon (State.modCore s c f) := by
  unfold State.modCore
  repeat' (first
    | with_reducible assumption | (fail_if_no_progress extract_lets +onlyGivenNames s_) | with_reducible apply canon_mem
    | with_reducible apply canon_hostMem | with_reducible apply canon_regs | (simp only [canon_mk_iff]; refine ⟨?_, ?_, ?_⟩))

theorem canon_setSem (s : State) (n : Nat) (v : W32)  (hs : Canon s) : Canon (State.setSem s n v) := by
  unfold State.setSem
  repeat' (first
    | with_reducible assumption | (fail_if_no_progress extract_lets +onlyGivenNames s_) | with_reducible apply canon_mem
    | with_reducible apply canon_hostMem | with_reducible apply canon_regs | (simp only [canon_mk_iff]; refine ⟨?_, ?_, ?_⟩))

theorem canon_semUpdate (s : State) (n : Nat) (set : Bool) (v : W32)  (hs : Canon s) : Canon (semUpdate s n set v) := by
  unfold semUpdate
  repeat' (first
    | with_reducible assumption | with_reducible apply canon_setSem)

theorem canon_dropCmd (s : State) (fn : Fn) (addr : Nat)  (hs : Canon s) : Canon (dropCmd s fn addr) := by
  unfold dropCmd
  repeat' (first
    | with_reducible assumption | with_reducible apply canon_viol)

theorem canon_denied (s : State) (fn : Fn) (addr : Nat)  (hs : Canon s) : Canon (denied s fn addr) := by
  unfold denied
  repeat' (first
    | with_reducible assumption | with_reducible apply canon_viol)

theorem canon_modItem (s : State) (q uid : Nat) (f : Item → Item)  (hs : Canon s) : Canon (State.modItem s q uid f) := by
  unfold State.modItem
  repeat' (first
    | with_reducible assumption | with_reducible apply canon_modQueue)

theorem canon_clearCores (s : State) (p uid : Nat)  (hs : Canon s) : Canon (clearCores s p uid) := by
  unfold clearCores
  repeat' (first
    | with_reducible assumption | with_reducible apply canon_modCore | with_reducible apply canon_foldl | dsimp only | (intro s_ hc_; beta_reduce))

theorem canon_dropMovers (s : State) (p q : Nat) (uids : List Nat)  (hs : Canon s) : Canon (dropMovers s p q uids) := by
  unfold dropMovers
  repeat' (first
    | with_reducible assumption | with_reducible apply canon_movePartial | with_reducible apply canon_foldl | (intro s_ hc_; beta_reduce) | intro _
    | split)

theorem canon_countLate (s : State) (p : Nat) (start : W64)  (hs : Canon s) : Canon (countLate s p start) := by
  unfold countLate
  repeat' (first
    | with_reducible assumption
    | ((fail_if_no_progress extract_lets +onlyGivenNames s_); first | (refine canon_cut (s := s_) ?_ (fun hc_ => ?_); (on_goal 2 => (try clear_value s_)); unfold s_) | skip)
    | with_reducible apply canon_addSat | with_reducible apply canon_setFld | split)

theorem canon_lateCheck (p : Nat) (s : State)  (hs : Canon s) : Canon (lateCheck p s) := by
  unfold lateCheck
  repeat' (first
    | with_reducible assumption
    | ((fail_if_no_progress extract_lets +onlyGivenNames s_); first | (refine canon_cut (s := s_) ?_ (fun hc_ => ?_); (on_goal 2 => (try clear_value s_)); unfold s_) | skip)
    | with_reducible apply canon_countLate | with_reducible apply canon_modWin | with_reducible apply canon_foldl | (intro s_ hc_; beta_reduce))

theorem canon_landHeld (r : Run) (keep : Nat → Bool) (s : State)  (hs : Canon s) : Canon (landHeld r keep s) := by
  unfold landHeld
  repeat' (first
    | with_reducible assumption
    | ((fail_if_no_progress extract_lets +onlyGivenNames s_); first | (refine canon_cut (s := s_) ?_ (fun hc_ => ?_); (on_goal 2 => (try clear_value s_)); unfold s_) | (refine canon_cut (s := s_.s) ?_ (fun hc_ => ?_); (on_goal 2 => (try clear_value s_)); unfold s_) | (refine canon_cut (s := s_.1) ?_ (fun hc_ => ?_); (on_goal 2 => (try clear_value s_)); unfold s_) | (refine canon_cut (s := s_.2) ?_ (fun hc_ => ?_); (on_goal 2 => (try clear_value s_)); unfold s_) | (refine canon_cut (s := s_.2.s) ?_ (fun hc_ => ?_); (on_goal 2 => (try clear_value s_)); unfold s_) | (refine canon_cut (s := s_.2.2) ?_ (fun hc_ => ?_); (on_goal 2 => (try clear_value s_)); unfold s_) | (refine canon_cut (s := s_.2.2.s) ?_ (fun hc_ => ?_); (on_goal 2 => (try clear_value s_)); unfold s_) | (refine canon_cut (s := s_.1.s) ?_ (fun hc_ => ?_); (on_goal 2 => (try clear_value s_)); unfold s_) | (refine canon_cut (s := s_.1.a.s) ?_ (fun hc_ => ?_); (on_goal 2 => (try clear_value s_)); unfold s_) | (refine canon_cut (s := s_.a.s) ?_ (fun hc_ => ?_); (on_goal 2 => (try clear_value s_)); unfold s_) | (refine canon_cut (s := s_.2.a.s) ?_ (fun hc_ => ?_); (on_goal 2 => (try clear_value s_)); unfold s_) | skip)
    | with_reducible apply canon_Acc_land
    | with_reducible apply canon_mem
    | with_reducible apply canon_hostMem
    | with_reducible apply canon_regs
    | with_reducible apply wf_mwrite
    | with_reducible apply wf_mset
    | with_reducible apply wf_mfill
    | with_reducible apply wf_filter
    | with_reducible apply rwf_rset
    | with_reducible apply rwf_filter
    | with_reducible apply wf_nil
    | with_reducible apply rwf_nil
    | with_reducible apply canon_foldl
    | with_reducible apply canon_foldl_s
    | with_reducible apply canon_foldl_1
    | with_reducible apply canon_foldl_2
    | with_reducible apply canon_foldl_2s
    | with_reducible apply canon_foldl_22
    | with_reducible apply canon_foldl_22s
    | with_reducible apply canon_foldl_A
    | with_reducible apply canon_foldl_as
    | with_reducible apply canon_foldl_das
    | with_reducible apply canon_foldl_2das
    | with_reducible apply canon_foldl_1as
    | dsimp only
    | (intro s_ hc_; beta_reduce)
    | intro _
    | split
    | (simp only [canon_mk_iff]; refine ⟨?_, ?_, ?_⟩)
    | ((fail_if_no_progress clear_value *); split)
    | dsimp +zetaDelta only)

theorem canon_gatherStopped (p : Nat) (r : Run) (i : Item) (s : State)  (hs : Canon s) : Canon (gatherStopped p r i s) := by
  unfold gatherStopped
  repeat' (first
    | with_reducible assumption
    | ((fail_if_no_progress extract_lets +onlyGivenNames s_); first | (refine canon_cut (s := s_) ?_ (fun hc_ => ?_); (on_goal 2 => (try clear_value s_)); unfold s_) | (refine canon_cut (s := s_.s) ?_ (fun hc_ => ?_); (on_goal 2 => (try clear_value s_)); unfold s_) | (refine canon_cut (s := s_.1) ?_ (fun hc_ => ?_); (on_goal 2 => (try clear_value s_)); unfold s_) | (refine canon_cut (s := s_.2) ?_ (fun hc_ => ?_); (on_goal 2 => (try clear_value s_)); unfold s_) | (refine canon_cut (s := s_.2.s) ?_ (fun hc_ => ?_); (on_goal 2 => (try clear_value s_)); unfold s_) | (refine canon_cut (s := s_.2.2) ?_ (fun hc_ => ?_); (on_goal 2 => (try clear_value s_)); unfold s_) | (refine canon_cut (s := s_.2.2.s) ?_ (fun hc_ => ?_); (on_goal 2 => (try clear_value s_)); unfold s_) | (refine canon_cut (s := s_.1.s) ?_ (fun hc_ => ?_); (on_goal 2 => (try clear_value s_)); unfold s_) | (refine canon_cut (s := s_.1.a.s) ?_ (fun hc_ => ?_); (on_goal 2 => (try clear_value s_)); unfold s_) | (refine canon_cut (s := s_.a.s) ?_ (fun hc_ => ?_); (on_goal 2 => (try clear_value s_)); unfold s_) | (refine canon_cut (s := s_.2.a.s) ?_ (fun hc_ => ?_); (on_goal 2 => (try clear_value s_)); unfold s_) | skip)
    | with_reducible apply canon_fresh
    | with_reducible refine canon_fresh_eq (by assumption) ?_
    | with_reducible apply canon_gatherPartial
    | with_reducible apply canon_landHeld
    | with_reducible apply canon_mem
    | with_reducible apply canon_hostMem
    | with_reducible apply canon_regs
    | with_reducible apply wf_mwrite
    | with_reducible apply wf_mset
    | with_reducible apply wf_mfill
    | with_reducible apply wf_filter
    | with_reducible apply rwf_rset
    | with_reducible apply rwf_filter
    | with_reducible apply wf_nil
    | with_reducible apply rwf_nil
    | with_reducible apply canon_foldl
    | with_reducible apply canon_foldl_s
    | with_reducible apply canon_foldl_1
    | with_reducible apply canon_foldl_2
    | with_reducible apply canon_foldl_2s
    | with_reducible apply canon_foldl_22
    | with_reducible apply canon_foldl_22s
    | with_reducible apply canon_foldl_A
    | with_reducible apply canon_foldl_as
    | with_reducible apply canon_foldl_das
    | with_reducible apply canon_foldl_2das
    | with_reducible apply canon_foldl_1as
    | dsimp only
    | (intro s_ hc_; beta_reduce)
    | intro _
    | split
    | (simp only [canon_mk_iff]; refine ⟨?_, ?_, ?_⟩)
    | ((fail_if_no_progress clear_value *); split)
    | dsimp +zetaDelta only)

theorem canon_execStopped (p : Nat) (r : Run) (s : State)  (hs : Canon s) : Canon (execStopped p r s) := by
  unfold execStopped
  repeat' (first
    | with_reducible assumption
    | ((fail_if_no_progress extract_lets +onlyGivenNames s_); first | (refine canon_cut (s := s_) ?_ (fun hc_ => ?_); (on_goal 2 => (try clear_value s_)); unfold s_) | (refine canon_cut (s := s_.s) ?_ (fun hc_ => ?_); (on_goal 2 => (try clear_value s_)); unfold s_) | (refine canon_cut (s := s_.1) ?_ (fun hc_ => ?_); (on_goal 2 => (try clear_value s_)); unfold s_) | (refine canon_cut (s := s_.2) ?_ (fun hc_ => ?_); (on_goal 2 => (try clear_value s_)); unfold s_) | (refine canon_cut (s := s_.2.s) ?_ (fun hc_ => ?_); (on_goal 2 => (try clear_value s_)); unfold s_) | (refine canon_cut (s := s_.2.2) ?_ (fun hc_ => ?_); (on_goal 2 => (try clear_value s_)); unfold s_) | (refine canon_cut (s := s_.2.2.s) ?_ (fun hc_ => ?_); (on_goal 2 => (try clear_value s_)); unfold s_) | (refine canon_cut (s := s_.1.s) ?_ (fun hc_ => ?_); (on_goal 2 => (try clear_value s_)); unfold s_) | (refine canon_cut (s := s_.1.a.s) ?_ (fun hc_ => ?_); (on_goal 2 => (try clear_value s_)); unfold s_) | (refine canon_cut (s := s_.a.s) ?_ (fun hc_ => ?_); (on_goal 2 => (try clear_value s_)); unfold s_) | (refine canon_cut (s := s_.2.a.s) ?_ (fun hc_ => ?_); (on_goal 2 => (try clear_value s_)); unfold s_) | skip)
    | with_reducible apply canon_gatherStopped
    | with_reducible apply canon_modItem
    | with_reducible apply canon_mem
    | with_reducible apply canon_hostMem
    | with_reducible apply canon_regs
    | with_reducible apply wf_mwrite
    | with_reducible apply wf_mset
    | with_reducible apply wf_mfill
    | with_reducible apply wf_filter
    | with_reducible apply rwf_rset
    | with_reducible apply rwf_filter
    | with_reducible apply wf_nil
    | with_reducible apply rwf_nil
    | with_reducible apply canon_foldl
    | with_reducible apply canon_foldl_s
    | with_reducible apply canon_foldl_1
    | with_reducible apply canon_foldl_2
    | with_reducible apply canon_foldl_2s
    | with_reducible apply canon_foldl_22
    | with_reducible apply canon_foldl_22s
    | with_reducible apply canon_foldl_A
    | with_reducible apply canon_foldl_as
    | with_reducible apply canon_foldl_das
    | with_reducible apply canon_foldl_2das
    | with_reducible apply canon_foldl_1as
    | dsimp only
    | (intro s_ hc_; beta_reduce)
    | intro _
    | split
    | (simp only [canon_mk_iff]; refine ⟨?_, ?_, ?_⟩)
    | ((fail_if_no_progress clear_value *); split)
    | dsimp +zetaDelta only)

theorem canon_dropSlots (p : Nat) (s : State)  (hs : Canon s) : Canon (dropSlots p s) := by
  unfold dropSlots
  repeat' (first
    | with_reducible assumption
    | ((fail_if_no_progress extract_lets +onlyGivenNames s_); first | (refine canon_cut (s := s_) ?_ (fun hc_ => ?_); (on_goal 2 => (try clear_value s_)); unfold s_) | (refine canon_cut (s := s_.s) ?_ (fun hc_ => ?_); (on_goal 2 => (try clear_value s_)); unfold s_) | (refine canon_cut (s := s_.1) ?_ (fun hc_ => ?_); (on_goal 2 => (try clear_value s_)); unfold s_) | (refine canon_cut (s := s_.2) ?_ (fun hc_ => ?_); (on_goal 2 => (try clear_value s_)); unfold s_) | (refine canon_cut (s := s_.2.s) ?_ (fun hc_ => ?_); (on_goal 2 => (try clear_value s_)); unfold s_) | (refine canon_cut (s := s_.2.2) ?_ (fun hc_ => ?_); (on_goal 2 => (try clear_value s_)); unfold s_) | (refine canon_cut (s := s_.2.2.s) ?_ (fun hc_ => ?_); (on_goal 2 => (try clear_value s_)); unfold s_) | (refine canon_cut (s := s_.1.s) ?_ (fun hc_ => ?_); (on_goal 2 => (try clear_value s_)); unfold s_) | (refine canon_cut (s := s_.1.a.s) ?_ (fun hc_ => ?_); (on_goal 2 => (try clear_value s_)); unfold s_) | (refine canon_cut (s := s_.a.s) ?_ (fun hc_ => ?_); (on_goal 2 => (try clear_value s_)); unfold s_) | (refine canon_cut (s := s_.2.a.s) ?_ (fun hc_ => ?_); (on_goal 2 => (try clear_value s_)); unfold s_) | skip)
    | with_reducible apply canon_modCore
    | with_reducible apply canon_mem
    | with_reducible apply canon_hostMem
    | with_reducible apply canon_regs
    | with_reducible apply wf_mwrite
    | with_reducible apply wf_mset
    | with_reducible apply wf_mfill
    | with_reducible apply wf_filter
    | with_reducible apply rwf_rset
    | with_reducible apply rwf_filter
    | with_reducible apply wf_nil
    | with_reducible apply rwf_nil
    | with_reducible apply canon_foldl
    | with_reducible apply canon_foldl_s
    | with_reducible apply canon_foldl_1
    | with_reducible apply canon_foldl_2
    | with_reducible apply canon_foldl_2s
    | with_reducible apply canon_foldl_22
    | with_reducible apply canon_foldl_22s
    | with_reducible apply canon_foldl_A
    | with_reducible apply canon_foldl_as
    | with_reducible apply canon_foldl_das
    | with_reducible apply canon_foldl_2das
    | with_reducible apply canon_foldl_1as
    | dsimp only
    | (intro s_ hc_; beta_reduce)
    | intro _
    | split
    | (simp only [canon_mk_iff]; refine ⟨?_, ?_, ?_⟩)
    | ((fail_if_no_progress clear_value *); split)
    | dsimp +zetaDelta only)

theorem canon_dropFromWindow (s : State) (q : Nat) (uids : List Nat)  (hs : Canon s) : Canon (dropFromWindow s q uids) := by
  unfold dropFromWindow
  repeat' (first
    | with_reducible assumption
    | ((fail_if_no_progress extract_lets +onlyGivenNames s_); first | (refine canon_cut (s := s_) ?_ (fun hc_ => ?_); (on_goal 2 => (try clear_value s_)); unfold s_) | skip)
    | with_reducible apply canon_dropMovers | with_reducible apply canon_clearCores | with_reducible apply canon_execStopped
    | with_reducible apply canon_lateCheck | with_reducible apply canon_dropSlots | with_reducible apply canon_modWin | with_reducible apply canon_mem
    | with_reducible apply canon_hostMem | with_reducible apply canon_regs | with_reducible apply canon_foldl | dsimp only
    | (intro s_ hc_; beta_reduce) | intro _ | split | (simp only [canon_mk_iff]; refine ⟨?_, ?_, ?_⟩))

theorem canon_writeRecord (s : State) (q tag status opcode index mid flags detail : Nat)  (hs : Canon s) : Canon (writeRecord s q tag status opcode index mid flags detail) := by
  unfold writeRecord
  repeat' (first
    | with_reducible assumption
    | ((fail_if_no_progress extract_lets +onlyGivenNames s_); first | (refine canon_cut (s := s_) ?_ (fun hc_ => ?_); (on_goal 2 => (try clear_value s_)); unfold s_) | skip)
    | with_reducible apply canon_spaceWrite | with_reducible apply canon_modQueue)

theorem canon_itemRecord (s : State) (q : Nat) (i : Item)  (hs : Canon s) : Canon (itemRecord s q i) := by
  unfold itemRecord
  repeat' (first
    | with_reducible assumption | (fail_if_no_progress extract_lets +onlyGivenNames s_) | with_reducible apply canon_writeRecord)

theorem canon_queueDoorbell (fn : Fn) (q : Nat) (tail ci : W32) (s : State)  (hs : Canon s) : Canon (queueDoorbell fn q tail ci s) := by
  unfold queueDoorbell
  repeat' (first
    | with_reducible assumption | (fail_if_no_progress extract_lets +onlyGivenNames s_) | with_reducible apply canon_denied
    | with_reducible apply canon_dropCmd | with_reducible apply canon_setQueue | split)

theorem canon_queueDoorbells (fn : Fn) (o : Nat) (bs : List Byte) (s : State)  (hs : Canon s) : Canon (queueDoorbells fn o bs s) := by
  unfold queueDoorbells
  repeat' (first
    | with_reducible assumption | with_reducible apply canon_queueDoorbell | with_reducible apply canon_foldl | (intro s_ hc_; beta_reduce) | intro _)

theorem canon_enableQueue (fn : Fn) (q : Nat) (s : State)  (hs : Canon s) : Canon (enableQueue fn q s) := by
  unfold enableQueue
  repeat' (first
    | with_reducible assumption | (fail_if_no_progress extract_lets +onlyGivenNames s_) | with_reducible apply canon_dropCmd
    | with_reducible apply canon_devRead | with_reducible apply canon_denied | with_reducible apply canon_setQueue | dsimp only | split)

theorem canon_queueCmd (fn : Fn) (q : Nat) (ok : QState → Bool) (k : State → State) (s : State)  (hk : ∀ a0_, Canon a0_ → Canon (k a0_)) (hs : Canon s) : Canon (queueCmd fn q ok k s) := by
  unfold queueCmd
  repeat' (first
    | with_reducible assumption | (fail_if_no_progress extract_lets +onlyGivenNames s_) | with_reducible apply hk | with_reducible apply canon_dropCmd
    | with_reducible apply canon_denied | split)

theorem canon_disableQueue (q : Nat) (s : State)  (hs : Canon s) : Canon (disableQueue q s) := by
  unfold disableQueue
  repeat' (first
    | with_reducible assumption | with_reducible apply canon_modQueue)

theorem canon_queueDisabled (q : Nat) (s : State)  (hs : Canon s) : Canon (queueDisabled q s) := by
  unfold queueDisabled
  repeat' (first
    | with_reducible assumption | (fail_if_no_progress extract_lets +onlyGivenNames s_) | with_reducible apply canon_setQueue | split)

theorem canon_resumeQueue (q : Nat) (s : State)  (hs : Canon s) : Canon (resumeQueue q s) := by
  unfold resumeQueue
  repeat' (first
    | with_reducible assumption | with_reducible apply canon_modQueue)

theorem canon_resumeSkipQueue (q : Nat) (s : State)  (hs : Canon s) : Canon (resumeSkipQueue q s) := by
  unfold resumeSkipQueue
  repeat' (first
    | with_reducible assumption | with_reducible apply canon_modQueue)

theorem canon_cancelQueue (q : Nat) (s : State)  (hs : Canon s) : Canon (cancelQueue q s) := by
  unfold cancelQueue
  repeat' (first
    | with_reducible assumption
    | ((fail_if_no_progress extract_lets +onlyGivenNames s_); (refine canon_cut (s := s_) ?_ (fun hc_ => ?_); (on_goal 2 => (try clear_value s_)); unfold s_))
    | with_reducible apply canon_modQueue | with_reducible apply canon_modWin)

theorem canon_cancelRecord (q : Nat) (s : State) (i : Item)  (hs : Canon s) : Canon (cancelRecord q s i) := by
  unfold cancelRecord
  repeat' (first
    | with_reducible assumption | with_reducible apply canon_writeRecord)

theorem canon_cancelDrained (q : Nat) (s : State)  (hs : Canon s) : Canon (cancelDrained q s) := by
  unfold cancelDrained
  repeat' (first
    | with_reducible assumption
    | ((fail_if_no_progress extract_lets +onlyGivenNames s_); first | (refine canon_cut (s := s_) ?_ (fun hc_ => ?_); (on_goal 2 => (try clear_value s_)); unfold s_) | skip)
    | with_reducible apply canon_dropFromWindow | with_reducible apply canon_cancelRecord | with_reducible apply canon_writeRecord
    | with_reducible apply canon_modQueue | with_reducible apply canon_foldl | split)

theorem canon_hostSem (fn : Fn) (n : Nat) (set : Bool) (v : W32) (s : State)  (hs : Canon s) : Canon (hostSem fn n set v s) := by
  unfold hostSem
  repeat' (first
    | with_reducible assumption | (fail_if_no_progress extract_lets +onlyGivenNames s_) | with_reducible apply canon_semUpdate
    | with_reducible apply canon_denied | split)

theorem canon_fetchDesc (q : Nat) (s : State)  (hs : Canon s) : Canon (fetchDesc q s) := by
  unfold fetchDesc
  repeat' (first
    | with_reducible assumption | (fail_if_no_progress extract_lets +onlyGivenNames s_) | with_reducible apply canon_devRead
    | with_reducible apply canon_setQueue | dsimp only | split)

theorem canon_faultQueue (q : Nat) (i : Item) (s : State)  (hs : Canon s) : Canon (faultQueue q i s) := by
  unfold faultQueue
  repeat' (first
    | with_reducible assumption
    | ((fail_if_no_progress extract_lets +onlyGivenNames s_); first | (refine canon_cut (s := s_) ?_ (fun hc_ => ?_); (on_goal 2 => (try clear_value s_)); unfold s_) | skip)
    | with_reducible apply canon_dropFromWindow | with_reducible apply canon_modQueue)

end Sys2Proof.Machine
end

