-- ==== Sys2Proof/Laws/Canon/Issue.lean ====
section
/-!
SUPPORT. The operations and meanings of Machine/Issue.lean keep the canonical form of the memories and of the register file.
-/
set_option linter.all false
namespace Sys2Proof.Machine

theorem canon_attnScratch (p : Nat) (s : State) (hs : Canon s) : Canon (attnScratch p s) :=
  canon_mk (wf_foldl _ (fun _ _ h => wf_mpaint _ _ _ _ h) _ _ (wf_foldl _ (fun _ _ h => wf_mpaint _ _ _ _ h) _ _ (canon_mem (canon_fresh _ hs))))
    (canon_hostMem (canon_fresh _ hs)) (canon_regs (canon_fresh _ hs))

theorem canon_enterExec (s : State) (p q : Nat) (i : Item)  (hs : Canon s) : Canon (enterExec s p q i) := by
  unfold enterExec
  repeat' (first
    | with_reducible assumption
    | ((fail_if_no_progress extract_lets +onlyGivenNames s_); first | (refine canon_cut (s := s_) ?_ (fun hc_ => ?_); (on_goal 2 => (try clear_value s_)); unfold s_) | skip)
    | with_reducible apply canon_modWin | with_reducible apply canon_attnScratch | with_reducible apply canon_modItem | with_reducible apply canon_mem
    | with_reducible apply canon_hostMem | with_reducible apply canon_regs | with_reducible apply canon_foldl | dsimp only
    | (intro s_ hc_; beta_reduce) | intro _ | split | (simp only [canon_mk_iff]; refine ⟨?_, ?_, ?_⟩))

theorem canon_promote (p : Nat) (s : State)  (hs : Canon s) : Canon (promote p s) := by
  unfold promote
  repeat' (first
    | with_reducible assumption | (fail_if_no_progress extract_lets +onlyGivenNames s_) | with_reducible apply canon_modWin
    | with_reducible apply canon_enterExec | dsimp only | split)

theorem canon_descSnuff (cause p q : Nat) (s : State)  (hs : Canon s) : Canon (descSnuff cause p q s) := by
  unfold descSnuff
  repeat' (first
    | with_reducible assumption | with_reducible apply canon_snuffTrigger)

theorem canon_noteIssue (q : Nat) (k : Part) (s : State)  (hs : Canon s) : Canon (noteIssue q k s) := by
  unfold noteIssue
  repeat' (first
    | with_reducible assumption | (fail_if_no_progress extract_lets +onlyGivenNames s_) | with_reducible apply canon_modWin)

theorem canon_placeItem (s : State) (q : Nat) (g : Fetched) (f : Item → Item) (past : Queue → Item → Queue)  (hs : Canon s) : Canon (placeItem s q g f past).2 := by
  unfold placeItem
  repeat' (first
    | with_reducible assumption
    | ((fail_if_no_progress extract_lets +onlyGivenNames s_); first | (refine canon_cut (s := s_) ?_ (fun hc_ => ?_); (on_goal 2 => (try clear_value s_)); unfold s_) | (refine canon_cut (s := s_.s) ?_ (fun hc_ => ?_); (on_goal 2 => (try clear_value s_)); unfold s_) | (refine canon_cut (s := s_.1) ?_ (fun hc_ => ?_); (on_goal 2 => (try clear_value s_)); unfold s_) | (refine canon_cut (s := s_.2) ?_ (fun hc_ => ?_); (on_goal 2 => (try clear_value s_)); unfold s_) | (refine canon_cut (s := s_.2.s) ?_ (fun hc_ => ?_); (on_goal 2 => (try clear_value s_)); unfold s_) | (refine canon_cut (s := s_.2.2) ?_ (fun hc_ => ?_); (on_goal 2 => (try clear_value s_)); unfold s_) | (refine canon_cut (s := s_.2.2.s) ?_ (fun hc_ => ?_); (on_goal 2 => (try clear_value s_)); unfold s_) | (refine canon_cut (s := s_.1.s) ?_ (fun hc_ => ?_); (on_goal 2 => (try clear_value s_)); unfold s_) | (refine canon_cut (s := s_.1.a.s) ?_ (fun hc_ => ?_); (on_goal 2 => (try clear_value s_)); unfold s_) | (refine canon_cut (s := s_.a.s) ?_ (fun hc_ => ?_); (on_goal 2 => (try clear_value s_)); unfold s_) | (refine canon_cut (s := s_.2.a.s) ?_ (fun hc_ => ?_); (on_goal 2 => (try clear_value s_)); unfold s_) | skip)
    | with_reducible apply canon_setQueue
    | with_reducible apply canon_mem
    | with_reducible apply canon_hostMem
    | with_reducible apply canon_regs
    | with_reducible apply wf_mwrite
    | with_reducible apply wf_mset
    | with_reducible apply wf_mfill
    | with_reducible apply wf_filter
    | with_reducible apply rwf_rset
    | with_reducible apply rwf_filter
    | with_reducible apply wf_nil
    | with_reducible apply rwf_nil
    | with_reducible apply canon_foldl
    | with_reducible apply canon_foldl_s
    | with_reducible apply canon_foldl_1
    | with_reducible apply canon_foldl_2
    | with_reducible apply canon_foldl_2s
    | with_reducible apply canon_foldl_22
    | with_reducible apply canon_foldl_22s
    | with_reducible apply canon_foldl_A
    | with_reducible apply canon_foldl_as
    | with_reducible apply canon_foldl_das
    | with_reducible apply canon_foldl_2das
    | with_reducible apply canon_foldl_1as
    | dsimp only
    | (intro s_ hc_; beta_reduce)
    | intro _
    | split
    | (simp only [canon_mk_iff]; refine ⟨?_, ?_, ?_⟩)
    | ((fail_if_no_progress clear_value *); split)
    | dsimp +zetaDelta only)

theorem canon_placeItem_eq {s : State} {q : Nat} {g : Fetched} {f : Item → Item} {past : Queue → Item → Queue}  {v0_} {v1_} (he_ : placeItem s q g f past = (v0_, v1_)) (hs : Canon s) :
    Canon v1_ := by
  have := canon_placeItem s q g f past  hs
  rw [he_] at this
  exact this

theorem canon_doIssue (s : State) (q : Nat) (g : Fetched) (f : Item → Item) (past : Queue → Item → Queue) (put : Item → State → State)  (hs : Canon s) (hput : ∀ a0_ a1_, Canon a1_ → Canon (put a0_ a1_)) : Canon (doIssue s q g f past put) := by
  unfold doIssue
  repeat' (first
    | with_reducible assumption
    | ((fail_if_no_progress extract_lets +onlyGivenNames s_); first | (refine canon_cut (s := s_) ?_ (fun hc_ => ?_); (on_goal 2 => (try clear_value s_)); unfold s_) | skip)
    | with_reducible apply hput | with_reducible apply canon_placeItem | with_reducible refine canon_placeItem_eq (by assumption) ?_
    | with_reducible apply canon_noteIssue | with_reducible apply canon_descSnuff | with_reducible apply canon_mem
    | with_reducible apply canon_hostMem | with_reducible apply canon_regs | with_reducible apply canon_foldl | dsimp only
    | (intro s_ hc_; beta_reduce) | intro _ | split | (simp only [canon_mk_iff]; refine ⟨?_, ?_, ?_⟩))

theorem canon_issueIf (q : Nat) (want : Desc → Bool) (k : Fetched → State → State) (s : State)  (hk : ∀ a0_ a1_, Canon a1_ → Canon (k a0_ a1_)) (hs : Canon s) : Canon (issueIf q want k s) := by
  unfold issueIf
  repeat' (first
    | with_reducible assumption | with_reducible apply hk | split)

theorem canon_issueControl (q : Nat) (op : Op) (s : State)  (hs : Canon s) : Canon (issueControl q op s) := by
  unfold issueControl
  repeat' (first
    | with_reducible assumption | with_reducible apply canon_issueIf | with_reducible apply canon_doIssue | (intro s_ hc_; beta_reduce) | intro _)

theorem canon_issueMover (q : Nat) (op : Op) (s : State)  (hs : Canon s) : Canon (issueMover q op s) := by
  unfold issueMover
  repeat' (first
    | with_reducible assumption | with_reducible apply canon_issueIf | with_reducible apply canon_doIssue | with_reducible apply canon_modWin
    | (intro s_ hc_; beta_reduce) | intro _)

theorem canon_issueCompute (q : Nat) (want : Desc → Bool) (s : State)  (hs : Canon s) : Canon (issueCompute q want s) := by
  unfold issueCompute
  repeat' (first
    | with_reducible assumption | with_reducible apply canon_issueIf | with_reducible apply canon_doIssue | with_reducible apply canon_enterExec
    | with_reducible apply canon_modWin | dsimp only | (intro s_ hc_; beta_reduce) | intro _ | split)

theorem canon_issueRepeat (q : Nat) (s : State)  (hs : Canon s) : Canon (issueRepeat q s) := by
  unfold issueRepeat
  repeat' (first
    | with_reducible assumption | with_reducible apply canon_issueIf | with_reducible apply canon_doIssue | (intro s_ hc_; beta_reduce) | intro _)

theorem canon_refuseWith (q : Nat) (f : Fetched) (status : Byte) (info : BitVec 48) (s : State)  (hs : Canon s) : Canon (refuseWith q f status info s) := by
  unfold refuseWith
  repeat' (first
    | with_reducible assumption
    | ((fail_if_no_progress extract_lets +onlyGivenNames s_); first | (refine canon_cut (s := s_) ?_ (fun hc_ => ?_); (on_goal 2 => (try clear_value s_)); unfold s_) | skip)
    | with_reducible apply canon_setQueue | with_reducible apply canon_mem | with_reducible apply canon_hostMem | with_reducible apply canon_regs
    | with_reducible apply canon_foldl | dsimp only | (intro s_ hc_; beta_reduce) | intro _ | split | (simp only [canon_mk_iff]; refine ⟨?_, ?_, ?_⟩))

theorem canon_passOver (q : Nat) (s : State)  (hs : Canon s) : Canon (passOver q s) := by
  unfold passOver
  repeat' (first
    | with_reducible assumption
    | ((fail_if_no_progress extract_lets +onlyGivenNames s_); first | (refine canon_cut (s := s_) ?_ (fun hc_ => ?_); (on_goal 2 => (try clear_value s_)); unfold s_) | (refine canon_cut (s := s_.s) ?_ (fun hc_ => ?_); (on_goal 2 => (try clear_value s_)); unfold s_) | (refine canon_cut (s := s_.1) ?_ (fun hc_ => ?_); (on_goal 2 => (try clear_value s_)); unfold s_) | (refine canon_cut (s := s_.2) ?_ (fun hc_ => ?_); (on_goal 2 => (try clear_value s_)); unfold s_) | (refine canon_cut (s := s_.2.s) ?_ (fun hc_ => ?_); (on_goal 2 => (try clear_value s_)); unfold s_) | (refine canon_cut (s := s_.2.2) ?_ (fun hc_ => ?_); (on_goal 2 => (try clear_value s_)); unfold s_) | (refine canon_cut (s := s_.2.2.s) ?_ (fun hc_ => ?_); (on_goal 2 => (try clear_value s_)); unfold s_) | (refine canon_cut (s := s_.1.s) ?_ (fun hc_ => ?_); (on_goal 2 => (try clear_value s_)); unfold s_) | (refine canon_cut (s := s_.1.a.s) ?_ (fun hc_ => ?_); (on_goal 2 => (try clear_value s_)); unfold s_) | (refine canon_cut (s := s_.a.s) ?_ (fun hc_ => ?_); (on_goal 2 => (try clear_value s_)); unfold s_) | (refine canon_cut (s := s_.2.a.s) ?_ (fun hc_ => ?_); (on_goal 2 => (try clear_value s_)); unfold s_) | skip)
    | with_reducible apply canon_modWin
    | with_reducible apply canon_mem
    | with_reducible apply canon_hostMem
    | with_reducible apply canon_regs
    | with_reducible apply wf_mwrite
    | with_reducible apply wf_mset
    | with_reducible apply wf_mfill
    | with_reducible apply wf_filter
    | with_reducible apply rwf_rset
    | with_reducible apply rwf_filter
    | with_reducible apply wf_nil
    | with_reducible apply rwf_nil
    | with_reducible apply canon_foldl
    | with_reducible apply canon_foldl_s
    | with_reducible apply canon_foldl_1
    | with_reducible apply canon_foldl_2
    | with_reducible apply canon_foldl_2s
    | with_reducible apply canon_foldl_22
    | with_reducible apply canon_foldl_22s
    | with_reducible apply canon_foldl_A
    | with_reducible apply canon_foldl_as
    | with_reducible apply canon_foldl_das
    | with_reducible apply canon_foldl_2das
    | with_reducible apply canon_foldl_1as
    | dsimp only
    | (intro s_ hc_; beta_reduce)
    | intro _
    | split
    | (simp only [canon_mk_iff]; refine ⟨?_, ?_, ?_⟩)
    | ((fail_if_no_progress clear_value *); split)
    | dsimp +zetaDelta only)

theorem canon_refuseDesc (q : Nat) (s : State)  (hs : Canon s) : Canon (refuseDesc q s) := by
  unfold refuseDesc
  repeat' (first
    | with_reducible assumption
    | ((fail_if_no_progress extract_lets +onlyGivenNames s_); first | (refine canon_cut (s := s_) ?_ (fun hc_ => ?_); (on_goal 2 => (try clear_value s_)); unfold s_) | skip)
    | with_reducible apply canon_refuseWith | with_reducible apply canon_passOver | with_reducible apply canon_mem
    | with_reducible apply canon_hostMem | with_reducible apply canon_regs | with_reducible apply canon_foldl | dsimp only
    | (intro s_ hc_; beta_reduce) | intro _ | split | (simp only [canon_mk_iff]; refine ⟨?_, ?_, ?_⟩))

theorem canon_waitTimeout (q : Nat) (s : State)  (hs : Canon s) : Canon (waitTimeout q s) := by
  unfold waitTimeout
  repeat' (first
    | with_reducible assumption | (fail_if_no_progress extract_lets +onlyGivenNames s_) | with_reducible apply canon_refuseWith | split)

theorem canon_partStall (p : Nat) (s : State)  (hs : Canon s) : Canon (partStall p s) := by
  unfold partStall
  repeat' (first
    | with_reducible assumption
    | ((fail_if_no_progress extract_lets +onlyGivenNames s_); first | (refine canon_cut (s := s_) ?_ (fun hc_ => ?_); (on_goal 2 => (try clear_value s_)); unfold s_) | skip)
    | with_reducible apply canon_setBit | with_reducible apply canon_report | with_reducible apply canon_modWin | split)

end Sys2Proof.Machine
end

