-- ==== Sys2Proof/Laws/Canon/ArrayUnit.lean ====
section
/-!
SUPPORT. The operations and meanings of Machine/ArrayUnit.lean keep the canonical form of the memories and of the register file.
-/
set_option linter.all false
namespace Sys2Proof.Machine

theorem canon_readA (c part : Nat) (i : Item) (row : Option Nat) (bt g m n k : Nat) (a : Acc)  (ha : Canon a.s) : Canon (readA c part i row bt g m n k a).2.s := by
  unfold readA
  repeat' (first
    | with_reducible assumption | (fail_if_no_progress extract_lets +onlyGivenNames s_) | with_reducible apply canon_readElem | dsimp only | split)

theorem canon_readA_eq {c part : Nat} {i : Item} {row : Option Nat} {bt g m n k : Nat} {a : Acc}  {v0_} {v1_} (he_ : readA c part i row bt g m n k a = (v0_, v1_)) (ha : Canon a.s) :
    Canon v1_.s := by
  have := canon_readA c part i row bt g m n k a  ha
  rw [he_] at this
  exact this

theorem canon_readB (c part : Nat) (i : Item) (bt g m n k : Nat) (a : Acc)  (ha : Canon a.s) : Canon (readB c part i bt g m n k a).2.s := by
  unfold readB
  repeat' (first
    | with_reducible assumption | (fail_if_no_progress extract_lets +onlyGivenNames s_) | with_reducible apply canon_readElem)

theorem canon_readB_eq {c part : Nat} {i : Item} {bt g m n k : Nat} {a : Acc}  {v0_} {v1_} (he_ : readB c part i bt g m n k a = (v0_, v1_)) (ha : Canon a.s) :
    Canon v1_.s := by
  have := canon_readB c part i bt g m n k a  ha
  rw [he_] at this
  exact this

theorem canon_readPairs (c part : Nat) (i : Item) (row : Option Nat) (bt g m n : Nat) (a : Acc)  (ha : Canon a.s) : Canon (readPairs c part i row bt g m n a).2.s := by
  unfold readPairs
  repeat' (first
    | with_reducible assumption | with_reducible apply canon_readA | with_reducible apply canon_readB | with_reducible apply canon_foldl_2s | dsimp only
    | (intro s_ hc_; beta_reduce) | intro _ | split)

theorem canon_readPairs_eq {c part : Nat} {i : Item} {row : Option Nat} {bt g m n : Nat} {a : Acc}  {v0_} {v1_} (he_ : readPairs c part i row bt g m n a = (v0_, v1_)) (ha : Canon a.s) :
    Canon v1_.s := by
  have := canon_readPairs c part i row bt g m n a  ha
  rw [he_] at this
  exact this

theorem canon_rowIndex (c part : Nat) (i : Item) (bt m : Nat) (a : Acc)  (ha : Canon a.s) : Canon (rowIndex c part i bt m a).2.s := by
  unfold rowIndex
  repeat' (first
    | with_reducible assumption | with_reducible apply canon_fetchIndex | split)

theorem canon_rowIndex_eq {c part : Nat} {i : Item} {bt m : Nat} {a : Acc}  {v0_} {v1_} (he_ : rowIndex c part i bt m a = (v0_, v1_)) (ha : Canon a.s) :
    Canon v1_.s := by
  have := canon_rowIndex c part i bt m a  ha
  rw [he_] at this
  exact this

theorem canon_readBlockScales (c part : Nat) (i : Item) (ch : Nat) (a : Acc)  (ha : Canon a.s) : Canon (readBlockScales c part i ch a).2.s := by
  unfold readBlockScales
  repeat' (first
    | with_reducible assumption | (fail_if_no_progress extract_lets +onlyGivenNames s_) | with_reducible apply canon_coreRead | dsimp only | split)

theorem canon_readBlockScales_eq {c part : Nat} {i : Item} {ch : Nat} {a : Acc}  {v0_} {v1_} (he_ : readBlockScales c part i ch a = (v0_, v1_)) (ha : Canon a.s) :
    Canon v1_.s := by
  have := canon_readBlockScales c part i ch a  ha
  rw [he_] at this
  exact this

theorem canon_readRowScale (c part : Nat) (i : Item) (bt m : Nat) (a : Acc)  (ha : Canon a.s) : Canon (readRowScale c part i bt m a).2.s := by
  unfold readRowScale
  repeat' (first
    | with_reducible assumption | with_reducible apply canon_readElem)

theorem canon_readRowScale_eq {c part : Nat} {i : Item} {bt m : Nat} {a : Acc}  {v0_} {v1_} (he_ : readRowScale c part i bt m a = (v0_, v1_)) (ha : Canon a.s) :
    Canon v1_.s := by
  have := canon_readRowScale c part i bt m a  ha
  rw [he_] at this
  exact this

theorem canon_readGroupScales (c part : Nat) (i : Item) (bt m : Nat) (a : Acc)  (ha : Canon a.s) : Canon (readGroupScales c part i bt m a).2.s := by
  unfold readGroupScales
  repeat' (first
    | with_reducible assumption | (fail_if_no_progress extract_lets +onlyGivenNames s_) | with_reducible apply canon_coreRead)

theorem canon_readGroupScales_eq {c part : Nat} {i : Item} {bt m : Nat} {a : Acc}  {v0_} {v1_} (he_ : readGroupScales c part i bt m a = (v0_, v1_)) (ha : Canon a.s) :
    Canon v1_.s := by
  have := canon_readGroupScales c part i bt m a  ha
  rw [he_] at this
  exact this

theorem canon_readPatch (c part : Nat) (i : Item) (by' bx cc : Nat) (a : Acc)  (ha : Canon a.s) : Canon (readPatch c part i by' bx cc a).2.s := by
  unfold readPatch
  repeat' (first
    | with_reducible assumption | (fail_if_no_progress extract_lets +onlyGivenNames s_) | with_reducible apply canon_readElem
    | with_reducible apply canon_foldl_2s | dsimp only | (intro s_ hc_; beta_reduce) | intro _ | split)

theorem canon_readPatch_eq {c part : Nat} {i : Item} {by' bx cc : Nat} {a : Acc}  {v0_} {v1_} (he_ : readPatch c part i by' bx cc a = (v0_, v1_)) (ha : Canon a.s) :
    Canon v1_.s := by
  have := canon_readPatch c part i by' bx cc a  ha
  rw [he_] at this
  exact this

theorem canon_readWin (c part : Nat) (i : Item) (cc n : Nat) (a : Acc)  (ha : Canon a.s) : Canon (readWin c part i cc n a).2.s := by
  unfold readWin
  repeat' (first
    | with_reducible assumption | (fail_if_no_progress extract_lets +onlyGivenNames s_) | with_reducible apply canon_readElem
    | with_reducible apply canon_foldl_2s | dsimp only | (intro s_ hc_; beta_reduce))

theorem canon_readWin_eq {c part : Nat} {i : Item} {cc n : Nat} {a : Acc}  {v0_} {v1_} (he_ : readWin c part i cc n a = (v0_, v1_)) (ha : Canon a.s) :
    Canon v1_.s := by
  have := canon_readWin c part i cc n a  ha
  rw [he_] at this
  exact this

theorem canon_readWinTerms (c part : Nat) (i : Item) (blk n : Nat) (a : Acc)  (ha : Canon a.s) : Canon (readWinTerms c part i blk n a).2.s := by
  unfold readWinTerms
  repeat' (first
    | with_reducible assumption | (fail_if_no_progress extract_lets +onlyGivenNames s_) | with_reducible apply canon_readPatch
    | with_reducible apply canon_readWin | with_reducible apply canon_foldl_2s | dsimp only | (intro s_ hc_; beta_reduce) | intro _ | split)

theorem canon_readWinTerms_eq {c part : Nat} {i : Item} {blk n : Nat} {a : Acc}  {v0_} {v1_} (he_ : readWinTerms c part i blk n a = (v0_, v1_)) (ha : Canon a.s) :
    Canon v1_.s := by
  have := canon_readWinTerms c part i blk n a  ha
  rw [he_] at this
  exact this

theorem canon_rowCells (c part run : Nat) (wide : Bool) (i : Item) (ar : Area) (m : Nat) (a : Acc)  (ha : Canon a.s) : Canon (rowCells c part run wide i ar m a).2.s := by
  unfold rowCells
  repeat' (first
    | with_reducible assumption | (fail_if_no_progress extract_lets +onlyGivenNames s_) | with_reducible apply canon_rowIndex
    | with_reducible apply canon_readGroupScales | with_reducible apply canon_readRowScale | with_reducible apply canon_readPairs
    | with_reducible apply canon_readBlockScales | with_reducible apply canon_foldl_2s | dsimp only | (intro s_ hc_; beta_reduce) | intro _ | split)

theorem canon_rowCells_eq {c part run : Nat} {wide : Bool} {i : Item} {ar : Area} {m : Nat} {a : Acc}  {v0_} {v1_} (he_ : rowCells c part run wide i ar m a = (v0_, v1_)) (ha : Canon a.s) :
    Canon v1_.s := by
  have := canon_rowCells c part run wide i ar m a  ha
  rw [he_] at this
  exact this

theorem canon_blockCells (c part run : Nat) (wide : Bool) (i : Item) (ar : Area) (blk : Nat) (a : Acc)  (ha : Canon a.s) : Canon (blockCells c part run wide i ar blk a).2.s := by
  unfold blockCells
  repeat' (first
    | with_reducible assumption | (fail_if_no_progress extract_lets +onlyGivenNames s_) | with_reducible apply canon_readWinTerms
    | with_reducible apply canon_readGroupScales | with_reducible apply canon_foldl_2s | dsimp only | (intro s_ hc_; beta_reduce) | intro _ | split)

theorem canon_blockCells_eq {c part run : Nat} {wide : Bool} {i : Item} {ar : Area} {blk : Nat} {a : Acc}  {v0_} {v1_} (he_ : blockCells c part run wide i ar blk a = (v0_, v1_)) (ha : Canon a.s) :
    Canon v1_.s := by
  have := canon_blockCells c part run wide i ar blk a  ha
  rw [he_] at this
  exact this

theorem canon_tileCells (c part run : Nat) (wide : Bool) (i : Item) (ar : Area) (a : Acc)  (ha : Canon a.s) : Canon (tileCells c part run wide i ar a).2.s := by
  unfold tileCells
  repeat' (first
    | with_reducible assumption
    | ((fail_if_no_progress extract_lets +onlyGivenNames s_); first | (refine canon_cut (s := s_) ?_ (fun hc_ => ?_); (on_goal 2 => (try clear_value s_)); unfold s_) | (refine canon_cut (s := s_.s) ?_ (fun hc_ => ?_); (on_goal 2 => (try clear_value s_)); unfold s_) | (refine canon_cut (s := s_.1) ?_ (fun hc_ => ?_); (on_goal 2 => (try clear_value s_)); unfold s_) | (refine canon_cut (s := s_.2) ?_ (fun hc_ => ?_); (on_goal 2 => (try clear_value s_)); unfold s_) | (refine canon_cut (s := s_.2.s) ?_ (fun hc_ => ?_); (on_goal 2 => (try clear_value s_)); unfold s_) | (refine canon_cut (s := s_.2.2) ?_ (fun hc_ => ?_); (on_goal 2 => (try clear_value s_)); unfold s_) | (refine canon_cut (s := s_.2.2.s) ?_ (fun hc_ => ?_); (on_goal 2 => (try clear_value s_)); unfold s_) | (refine canon_cut (s := s_.1.s) ?_ (fun hc_ => ?_); (on_goal 2 => (try clear_value s_)); unfold s_) | (refine canon_cut (s := s_.1.a.s) ?_ (fun hc_ => ?_); (on_goal 2 => (try clear_value s_)); unfold s_) | (refine canon_cut (s := s_.a.s) ?_ (fun hc_ => ?_); (on_goal 2 => (try clear_value s_)); unfold s_) | (refine canon_cut (s := s_.2.a.s) ?_ (fun hc_ => ?_); (on_goal 2 => (try clear_value s_)); unfold s_) | skip)
    | with_reducible apply canon_blockCells
    | with_reducible refine canon_blockCells_eq (by assumption) ?_
    | with_reducible apply canon_rowCells
    | with_reducible refine canon_rowCells_eq (by assumption) ?_
    | with_reducible apply canon_mem
    | with_reducible apply canon_hostMem
    | with_reducible apply canon_regs
    | with_reducible apply wf_mwrite
    | with_reducible apply wf_mset
    | with_reducible apply wf_mfill
    | with_reducible apply wf_filter
    | with_reducible apply rwf_rset
    | with_reducible apply rwf_filter
    | with_reducible apply wf_nil
    | with_reducible apply rwf_nil
    | with_reducible apply canon_foldl
    | with_reducible apply canon_foldl_s
    | with_reducible apply canon_foldl_1
    | with_reducible apply canon_foldl_2
    | with_reducible apply canon_foldl_2s
    | with_reducible apply canon_foldl_22
    | with_reducible apply canon_foldl_22s
    | with_reducible apply canon_foldl_A
    | with_reducible apply canon_foldl_as
    | with_reducible apply canon_foldl_das
    | with_reducible apply canon_foldl_2das
    | with_reducible apply canon_foldl_1as
    | dsimp only
    | (intro s_ hc_; beta_reduce)
    | intro _
    | split
    | (simp only [canon_mk_iff]; refine ⟨?_, ?_, ?_⟩)
    | ((fail_if_no_progress clear_value *); split)
    | dsimp +zetaDelta only)

theorem canon_tileCells_eq {c part run : Nat} {wide : Bool} {i : Item} {ar : Area} {a : Acc}  {v0_} {v1_} (he_ : tileCells c part run wide i ar a = (v0_, v1_)) (ha : Canon a.s) :
    Canon v1_.s := by
  have := canon_tileCells c part run wide i ar a  ha
  rw [he_] at this
  exact this

theorem canon_readRescale (c part : Nat) (i : Item) (slot : W64) (ch : Nat) (a : Acc)  (ha : Canon a.s) : Canon (readRescale c part i slot ch a).2.s := by
  unfold readRescale
  repeat' (first
    | with_reducible assumption | with_reducible apply canon_coreRead | dsimp only | split)

theorem canon_readRescale_eq {c part : Nat} {i : Item} {slot : W64} {ch : Nat} {a : Acc}  {v0_} {v1_} (he_ : readRescale c part i slot ch a = (v0_, v1_)) (ha : Canon a.s) :
    Canon v1_.s := by
  have := canon_readRescale c part i slot ch a  ha
  rw [he_] at this
  exact this

theorem canon_drainOut (i : Item) (wide : Bool) (bt g m n : Nat) (x : Accu) (t : FVal) (mode : Nat) (w : Drain)  (hw : Canon w.a.s) : Canon (drainOut i wide bt g m n x t mode w).a.s := by
  unfold drainOut
  repeat' (first
    | with_reducible assumption)

theorem canon_drainArg (i : Item) (bt m : Nat) (rec : Nat × FVal) (w : Drain)  (hw : Canon w.a.s) : Canon (drainArg i bt m rec w).a.s := by
  unfold drainArg
  repeat' (first
    | with_reducible assumption)

theorem canon_drainRow (c part : Nat) (i : Item) (slot : W64) (wide : Bool) (ar : Area) (m : Nat) (cells : List Accu) (rec : Nat × FVal) (w : Drain)  (hw : Canon w.a.s) : Canon (drainRow c part i slot wide ar m cells rec w).2.a.s := by
  unfold drainRow
  repeat' (first
    | with_reducible assumption | (fail_if_no_progress extract_lets +onlyGivenNames s_) | with_reducible apply canon_readRowScale
    | with_reducible apply canon_readRescale | with_reducible apply canon_drainOut | with_reducible apply canon_foldl_2das | dsimp only
    | (intro s_ hc_; beta_reduce) | intro _ | split)

theorem canon_drainRow_eq {c part : Nat} {i : Item} {slot : W64} {wide : Bool} {ar : Area} {m : Nat} {cells : List Accu} {rec : Nat × FVal} {w : Drain}  {v0_} {v1_} (he_ : drainRow c part i slot wide ar m cells rec w = (v0_, v1_)) (hw : Canon w.a.s) :
    Canon v1_.a.s := by
  have := canon_drainRow c part i slot wide ar m cells rec w  hw
  rw [he_] at this
  exact this

theorem canon_drainWrites (c part : Nat) (w : Drain)  (hw : Canon w.a.s) : Canon (drainWrites c part w).a.s := by
  unfold drainWrites
  repeat' (first
    | with_reducible assumption
    | ((fail_if_no_progress extract_lets +onlyGivenNames s_); (refine canon_cut (s := s_.s) ?_ (fun hc_ => ?_); (on_goal 2 => (try clear_value s_)); unfold s_))
    | with_reducible apply canon_coreWrite | with_reducible apply canon_foldl_s | dsimp only | (intro s_ hc_; beta_reduce) | intro _)

theorem canon_drainRows (s : State) (c part : Nat) (i : Item) (slot : W64) (wide : Bool) (ar : Area) (rows : List Nat) (cells : List Accu) (recs : List (Nat × W32))  (hs : Canon s) : Canon (drainRows s c part i slot wide ar rows cells recs).2.a.s := by
  unfold drainRows
  repeat' (first
    | with_reducible assumption
    | ((fail_if_no_progress extract_lets +onlyGivenNames s_); first | (refine canon_cut (s := s_) ?_ (fun hc_ => ?_); (on_goal 2 => (try clear_value s_)); unfold s_) | (refine canon_cut (s := s_.s) ?_ (fun hc_ => ?_); (on_goal 2 => (try clear_value s_)); unfold s_) | (refine canon_cut (s := s_.1) ?_ (fun hc_ => ?_); (on_goal 2 => (try clear_value s_)); unfold s_) | (refine canon_cut (s := s_.2) ?_ (fun hc_ => ?_); (on_goal 2 => (try clear_value s_)); unfold s_) | (refine canon_cut (s := s_.2.s) ?_ (fun hc_ => ?_); (on_goal 2 => (try clear_value s_)); unfold s_) | (refine canon_cut (s := s_.2.2) ?_ (fun hc_ => ?_); (on_goal 2 => (try clear_value s_)); unfold s_) | (refine canon_cut (s := s_.2.2.s) ?_ (fun hc_ => ?_); (on_goal 2 => (try clear_value s_)); unfold s_) | (refine canon_cut (s := s_.1.s) ?_ (fun hc_ => ?_); (on_goal 2 => (try clear_value s_)); unfold s_) | (refine canon_cut (s := s_.1.a.s) ?_ (fun hc_ => ?_); (on_goal 2 => (try clear_value s_)); unfold s_) | (refine canon_cut (s := s_.a.s) ?_ (fun hc_ => ?_); (on_goal 2 => (try clear_value s_)); unfold s_) | (refine canon_cut (s := s_.2.a.s) ?_ (fun hc_ => ?_); (on_goal 2 => (try clear_value s_)); unfold s_) | skip)
    | with_reducible apply canon_drainRow
    | with_reducible refine canon_drainRow_eq (by assumption) ?_
    | with_reducible apply canon_Applying_take
    | with_reducible refine canon_Applying_take_eq (by assumption) ?_ ?_
    | with_reducible apply canon_mem
    | with_reducible apply canon_hostMem
    | with_reducible apply canon_regs
    | with_reducible apply wf_mwrite
    | with_reducible apply wf_mset
    | with_reducible apply wf_mfill
    | with_reducible apply wf_filter
    | with_reducible apply rwf_rset
    | with_reducible apply rwf_filter
    | with_reducible apply wf_nil
    | with_reducible apply rwf_nil
    | with_reducible apply canon_foldl
    | with_reducible apply canon_foldl_s
    | with_reducible apply canon_foldl_1
    | with_reducible apply canon_foldl_2
    | with_reducible apply canon_foldl_2s
    | with_reducible apply canon_foldl_22
    | with_reducible apply canon_foldl_22s
    | with_reducible apply canon_foldl_A
    | with_reducible apply canon_foldl_as
    | with_reducible apply canon_foldl_das
    | with_reducible apply canon_foldl_2das
    | with_reducible apply canon_foldl_1as
    | dsimp only
    | (intro s_ hc_; beta_reduce)
    | intro _
    | split
    | (simp only [canon_mk_iff]; refine ⟨?_, ?_, ?_⟩)
    | ((fail_if_no_progress clear_value *); split)
    | dsimp +zetaDelta only)

theorem canon_drainRows_eq {s : State} {c part : Nat} {i : Item} {slot : W64} {wide : Bool} {ar : Area} {rows : List Nat} {cells : List Accu} {recs : List (Nat × W32)}  {v0_} {v1_} (he_ : drainRows s c part i slot wide ar rows cells recs = (v0_, v1_)) (hs : Canon s) :
    Canon v1_.a.s := by
  have := canon_drainRows s c part i slot wide ar rows cells recs  hs
  rw [he_] at this
  exact this

theorem canon_drainRecs (i : Item) (ar : Area) (rows : List Nat) (recs : List (Nat × W32)) (w : Drain)  (hw : Canon w.a.s) : Canon (drainRecs i ar rows recs w).a.s := by
  unfold drainRecs
  repeat' (first
    | with_reducible assumption
    | ((fail_if_no_progress extract_lets +onlyGivenNames s_); first | (refine canon_cut (s := s_) ?_ (fun hc_ => ?_); (on_goal 2 => (try clear_value s_)); unfold s_) | (refine canon_cut (s := s_.s) ?_ (fun hc_ => ?_); (on_goal 2 => (try clear_value s_)); unfold s_) | (refine canon_cut (s := s_.1) ?_ (fun hc_ => ?_); (on_goal 2 => (try clear_value s_)); unfold s_) | (refine canon_cut (s := s_.2) ?_ (fun hc_ => ?_); (on_goal 2 => (try clear_value s_)); unfold s_) | (refine canon_cut (s := s_.2.s) ?_ (fun hc_ => ?_); (on_goal 2 => (try clear_value s_)); unfold s_) | (refine canon_cut (s := s_.2.2) ?_ (fun hc_ => ?_); (on_goal 2 => (try clear_value s_)); unfold s_) | (refine canon_cut (s := s_.2.2.s) ?_ (fun hc_ => ?_); (on_goal 2 => (try clear_value s_)); unfold s_) | (refine canon_cut (s := s_.1.s) ?_ (fun hc_ => ?_); (on_goal 2 => (try clear_value s_)); unfold s_) | (refine canon_cut (s := s_.1.a.s) ?_ (fun hc_ => ?_); (on_goal 2 => (try clear_value s_)); unfold s_) | (refine canon_cut (s := s_.a.s) ?_ (fun hc_ => ?_); (on_goal 2 => (try clear_value s_)); unfold s_) | (refine canon_cut (s := s_.2.a.s) ?_ (fun hc_ => ?_); (on_goal 2 => (try clear_value s_)); unfold s_) | skip)
    | with_reducible apply canon_drainArg
    | with_reducible apply canon_mem
    | with_reducible apply canon_hostMem
    | with_reducible apply canon_regs
    | with_reducible apply wf_mwrite
    | with_reducible apply wf_mset
    | with_reducible apply wf_mfill
    | with_reducible apply wf_filter
    | with_reducible apply rwf_rset
    | with_reducible apply rwf_filter
    | with_reducible apply wf_nil
    | with_reducible apply rwf_nil
    | with_reducible apply canon_foldl
    | with_reducible apply canon_foldl_s
    | with_reducible apply canon_foldl_1
    | with_reducible apply canon_foldl_2
    | with_reducible apply canon_foldl_2s
    | with_reducible apply canon_foldl_22
    | with_reducible apply canon_foldl_22s
    | with_reducible apply canon_foldl_A
    | with_reducible apply canon_foldl_as
    | with_reducible apply canon_foldl_das
    | with_reducible apply canon_foldl_2das
    | with_reducible apply canon_foldl_1as
    | dsimp only
    | (intro s_ hc_; beta_reduce)
    | intro _
    | split
    | (simp only [canon_mk_iff]; refine ⟨?_, ?_, ?_⟩)
    | ((fail_if_no_progress clear_value *); split)
    | dsimp +zetaDelta only)

theorem canon_drainUnit (s : State) (c part : Nat) (i : Item) (slot : W64) (wide : Bool) (b : Bank) (recs : List (Nat × W32))  (hs : Canon s) : Canon (drainUnit s c part i slot wide b recs).2.a.s := by
  unfold drainUnit
  repeat' (first
    | with_reducible assumption
    | ((fail_if_no_progress extract_lets +onlyGivenNames s_); first | (refine canon_cut (s := s_) ?_ (fun hc_ => ?_); (on_goal 2 => (try clear_value s_)); unfold s_) | (refine canon_cut (s := s_.1.s) ?_ (fun hc_ => ?_); (on_goal 2 => (try clear_value s_)); unfold s_) | skip)
    | with_reducible apply canon_drainRows | with_reducible refine canon_drainRows_eq (by assumption) ?_ | with_reducible apply canon_drainRecs
    | with_reducible apply canon_drainWrites | with_reducible apply canon_mem | with_reducible apply canon_hostMem | with_reducible apply canon_regs
    | with_reducible apply canon_foldl | with_reducible apply canon_foldl_das | dsimp only | (intro s_ hc_; beta_reduce) | intro _ | split
    | (simp only [canon_mk_iff]; refine ⟨?_, ?_, ?_⟩))

theorem canon_drainUnit_eq {s : State} {c part : Nat} {i : Item} {slot : W64} {wide : Bool} {b : Bank} {recs : List (Nat × W32)}  {v0_} {v1_} (he_ : drainUnit s c part i slot wide b recs = (v0_, v1_)) (hs : Canon s) :
    Canon v1_.a.s := by
  have := canon_drainUnit s c part i slot wide b recs  hs
  rw [he_] at this
  exact this

end Sys2Proof.Machine
end

