-- ==== Sys2Proof/Laws/Canon/Element.lean ====
section
/-!
SUPPORT. The operations and meanings of Machine/Element.lean keep the canonical form of the memories and of the register file.
-/
set_option linter.all false
namespace Sys2Proof.Machine

theorem canon_readComps (c part : Nat) (i : Item) (x : Nat) (is : List Nat) (a : Acc)  (ha : Canon a.s) : Canon (readComps c part i x is a).2.s := by
  unfold readComps
  repeat' (first
    | with_reducible assumption | (fail_if_no_progress extract_lets +onlyGivenNames s_) | with_reducible apply canon_readElem
    | with_reducible apply canon_foldl_2s | dsimp only | (intro s_ hc_; beta_reduce))

theorem canon_readComps_eq {c part : Nat} {i : Item} {x : Nat} {is : List Nat} {a : Acc}  {v0_} {v1_} (he_ : readComps c part i x is a = (v0_, v1_)) (ha : Canon a.s) :
    Canon v1_.s := by
  have := canon_readComps c part i x is a  ha
  rw [he_] at this
  exact this

theorem canon_readStreamA (c part : Nat) (i : Item) (is : List Nat) (a : Acc)  (ha : Canon a.s) : Canon (readStreamA c part i is a).2.s := by
  unfold readStreamA
  repeat' (first
    | with_reducible assumption | with_reducible apply canon_fetchIndex | with_reducible apply canon_readComps | dsimp only | split)

theorem canon_readStreamA_eq {c part : Nat} {i : Item} {is : List Nat} {a : Acc}  {v0_} {v1_} (he_ : readStreamA c part i is a = (v0_, v1_)) (ha : Canon a.s) :
    Canon v1_.s := by
  have := canon_readStreamA c part i is a  ha
  rw [he_] at this
  exact this

theorem canon_runElem (run c part : Nat) (i : Item) (p : Prog) (core : CoreSt) (b : BatchIn) (e : Nat) (a : Acc)  (ha : Canon a.s) : Canon (runElem run c part i p core b e a).2.s := by
  unfold runElem
  repeat' (first
    | with_reducible assumption | (fail_if_no_progress extract_lets +onlyGivenNames s_) | with_reducible apply canon_readStreamA
    | with_reducible apply canon_readComps | with_reducible apply canon_foldl_2s | dsimp only | (intro s_ hc_; beta_reduce) | intro _ | split)

theorem canon_runElem_eq {run c part : Nat} {i : Item} {p : Prog} {core : CoreSt} {b : BatchIn} {e : Nat} {a : Acc}  {v0_} {v1_} (he_ : runElem run c part i p core b e a = (v0_, v1_)) (ha : Canon a.s) :
    Canon v1_.s := by
  have := canon_runElem run c part i p core b e a  ha
  rw [he_] at this
  exact this

theorem canon_runBatch (run c part : Nat) (i : Item) (p : Prog) (core : CoreSt) (b : BatchIn) (a : Acc)  (ha : Canon a.s) : Canon (runBatch run c part i p core b a).2.s := by
  unfold runBatch
  repeat' (first
    | with_reducible assumption | with_reducible apply canon_runElem | with_reducible apply canon_foldl_2s | dsimp only | (intro s_ hc_; beta_reduce))

theorem canon_runBatch_eq {run c part : Nat} {i : Item} {p : Prog} {core : CoreSt} {b : BatchIn} {a : Acc}  {v0_} {v1_} (he_ : runBatch run c part i p core b a = (v0_, v1_)) (ha : Canon a.s) :
    Canon v1_.s := by
  have := canon_runBatch run c part i p core b a  ha
  rw [he_] at this
  exact this

theorem canon_startCore (run c part : Nat) (i : Item) (core : CoreSt) (a : Acc)  (ha : Canon a.s) : Canon (startCore run c part i core a).2.2.s := by
  unfold startCore
  repeat' (first
    | with_reducible assumption | (fail_if_no_progress extract_lets +onlyGivenNames s_) | with_reducible apply canon_readComps
    | with_reducible apply canon_coreRead | with_reducible apply canon_foldl_2s | dsimp only | (intro s_ hc_; beta_reduce) | intro _ | split)

theorem canon_startCore_eq {run c part : Nat} {i : Item} {core : CoreSt} {a : Acc}  {v0_} {v1_} {v2_} (he_ : startCore run c part i core a = (v0_, v1_, v2_)) (ha : Canon a.s) :
    Canon v2_.s := by
  have := canon_startCore run c part i core a  ha
  rw [he_] at this
  exact this

theorem canon_storeComps (c part : Nat) (i : Item) (is : List Nat) (clear : Bool) (vals : List FVal) (a : Acc)  (ha : Canon a.s) : Canon (storeComps c part i is clear vals a).2.s := by
  unfold storeComps
  repeat' (first
    | with_reducible assumption | (fail_if_no_progress extract_lets +onlyGivenNames s_) | with_reducible apply canon_writeElem
    | with_reducible apply canon_foldl_2s | dsimp only | (intro s_ hc_; beta_reduce))

theorem canon_storeComps_eq {c part : Nat} {i : Item} {is : List Nat} {clear : Bool} {vals : List FVal} {a : Acc}  {v0_} {v1_} (he_ : storeComps c part i is clear vals a = (v0_, v1_)) (ha : Canon a.s) :
    Canon v1_.s := by
  have := canon_storeComps c part i is clear vals a  ha
  rw [he_] at this
  exact this

theorem canon_BatchOut_flag (b : BatchOut) (d : Desc) (idx g : Nat)  (hb : Canon b.a.s) : Canon (BatchOut.flag b d idx g).a.s := by
  unfold BatchOut.flag
  repeat' (first
    | with_reducible assumption)

theorem canon_elemOut (c part : Nat) (i : Item) (b : BatchIn) (e : Nat) (l : Lane) (o : BatchOut)  (ho : Canon o.a.s) : Canon (elemOut c part i b e l o).a.s := by
  unfold elemOut
  repeat' (first
    | with_reducible assumption
    | ((fail_if_no_progress extract_lets +onlyGivenNames s_); first | (refine canon_cut (s := s_.1.s) ?_ (fun hc_ => ?_); (on_goal 2 => (try clear_value s_)); unfold s_) | skip)
    | with_reducible apply canon_BatchOut_flag | with_reducible apply canon_storeComps | with_reducible apply canon_writeElem | dsimp only | split
    | ((fail_if_no_progress clear_value *); split))

theorem canon_readMask (c part : Nat) (i : Item) (first cnt : Nat) (a : Acc)  (ha : Canon a.s) : Canon (readMask c part i first cnt a).2.s := by
  unfold readMask
  repeat' (first
    | with_reducible assumption | (fail_if_no_progress extract_lets +onlyGivenNames s_) | with_reducible apply canon_readElem
    | with_reducible apply canon_foldl_2s | dsimp only | (intro s_ hc_; beta_reduce))

theorem canon_readMask_eq {c part : Nat} {i : Item} {first cnt : Nat} {a : Acc}  {v0_} {v1_} (he_ : readMask c part i first cnt a = (v0_, v1_)) (ha : Canon a.s) :
    Canon v1_.s := by
  have := canon_readMask c part i first cnt a  ha
  rw [he_] at this
  exact this

theorem canon_elemBatch (run c part : Nat) (i : Item) (core : CoreSt) (r : Run) (first cnt : Nat) (a : Acc)  (ha : Canon a.s) : Canon (elemBatch run c part i core r first cnt a).a.s := by
  unfold elemBatch
  repeat' (first
    | with_reducible assumption | (fail_if_no_progress extract_lets +onlyGivenNames s_) | with_reducible apply canon_readMask
    | with_reducible apply canon_runBatch | with_reducible apply canon_elemOut | with_reducible apply canon_foldl_as | (intro s_ hc_; beta_reduce)
    | intro _ | split)

theorem canon_readSeg (c part : Nat) (i : Item) (is : List Nat) (last : Nat) (a : Acc)  (ha : Canon a.s) : Canon (readSeg c part i is last a).2.s := by
  unfold readSeg
  repeat' (first
    | with_reducible assumption | (fail_if_no_progress extract_lets +onlyGivenNames s_) | with_reducible apply canon_coreRead
    | with_reducible apply canon_Acc_fail | dsimp only | split)

theorem canon_readSeg_eq {c part : Nat} {i : Item} {is : List Nat} {last : Nat} {a : Acc}  {v0_} {v1_} (he_ : readSeg c part i is last a = (v0_, v1_)) (ha : Canon a.s) :
    Canon v1_.s := by
  have := canon_readSeg c part i is last a  ha
  rw [he_] at this
  exact this

theorem canon_rowElem (c part : Nat) (i : Item) (idx pos : Nat) (rest : List Nat) (l : Lane) (x : BatchOut) (hx : Canon x.a.s) :
    Canon (rowElem c part i idx pos rest l x).a.s := by
  unfold rowElem
  extract_lets d o
  have ho : Canon o.a.s := canon_BatchOut_flag _ _ _ _ hx
  clear_value o
  split
  next seg a he =>
  have ha : Canon a.s := by
    split at he
    · exact canon_readSeg_eq he ho
    · cases he; exact ho
  clear he
  extract_lets o'
  have ho' : Canon o'.a.s := ha
  clear_value o'
  split
  · exact ho'
  · split
    · exact ho'
    · split
      exact canon_BatchOut_flag _ _ _ _ ho'

theorem canon_writeResult (c part : Nat) (i : Item) (slots k : Nat) (rest : List Nat) (bs : List Byte) (a : Acc)  (ha : Canon a.s) : Canon (writeResult c part i slots k rest bs a).s := by
  unfold writeResult
  repeat' (first
    | with_reducible assumption
    | ((fail_if_no_progress extract_lets +onlyGivenNames s_); first | (refine canon_cut (s := s_) ?_ (fun hc_ => ?_); (on_goal 2 => (try clear_value s_)); unfold s_) | (refine canon_cut (s := s_.s) ?_ (fun hc_ => ?_); (on_goal 2 => (try clear_value s_)); unfold s_) | (refine canon_cut (s := s_.1) ?_ (fun hc_ => ?_); (on_goal 2 => (try clear_value s_)); unfold s_) | (refine canon_cut (s := s_.2) ?_ (fun hc_ => ?_); (on_goal 2 => (try clear_value s_)); unfold s_) | (refine canon_cut (s := s_.2.s) ?_ (fun hc_ => ?_); (on_goal 2 => (try clear_value s_)); unfold s_) | (refine canon_cut (s := s_.2.2) ?_ (fun hc_ => ?_); (on_goal 2 => (try clear_value s_)); unfold s_) | (refine canon_cut (s := s_.2.2.s) ?_ (fun hc_ => ?_); (on_goal 2 => (try clear_value s_)); unfold s_) | (refine canon_cut (s := s_.1.s) ?_ (fun hc_ => ?_); (on_goal 2 => (try clear_value s_)); unfold s_) | (refine canon_cut (s := s_.1.a.s) ?_ (fun hc_ => ?_); (on_goal 2 => (try clear_value s_)); unfold s_) | (refine canon_cut (s := s_.a.s) ?_ (fun hc_ => ?_); (on_goal 2 => (try clear_value s_)); unfold s_) | (refine canon_cut (s := s_.2.a.s) ?_ (fun hc_ => ?_); (on_goal 2 => (try clear_value s_)); unfold s_) | skip)
    | with_reducible apply canon_coreWrite
    | with_reducible apply canon_writeElem
    | with_reducible apply canon_mem
    | with_reducible apply canon_hostMem
    | with_reducible apply canon_regs
    | with_reducible apply wf_mwrite
    | with_reducible apply wf_mset
    | with_reducible apply wf_mfill
    | with_reducible apply wf_filter
    | with_reducible apply rwf_rset
    | with_reducible apply rwf_filter
    | with_reducible apply wf_nil
    | with_reducible apply rwf_nil
    | with_reducible apply canon_foldl
    | with_reducible apply canon_foldl_s
    | with_reducible apply canon_foldl_1
    | with_reducible apply canon_foldl_2
    | with_reducible apply canon_foldl_2s
    | with_reducible apply canon_foldl_22
    | with_reducible apply canon_foldl_22s
    | with_reducible apply canon_foldl_A
    | with_reducible apply canon_foldl_as
    | with_reducible apply canon_foldl_das
    | with_reducible apply canon_foldl_2das
    | with_reducible apply canon_foldl_1as
    | dsimp only
    | (intro s_ hc_; beta_reduce)
    | intro _
    | split
    | (simp only [canon_mk_iff]; refine ⟨?_, ?_, ?_⟩)
    | ((fail_if_no_progress clear_value *); split)
    | dsimp +zetaDelta only)

theorem canon_rowResults (run c part : Nat) (i : Item) (row : Nat) (b : BatchOut) (hb : Canon b.a.s) :
    Canon (rowResults run c part i row b).a.s := by
  unfold rowResults
  extract_lets d rest segs per
  refine canon_foldl_as _ _ hb fun o sg ho => ?_
  extract_lets els
  split
  extract_lets o'
  have ho' : Canon o'.a.s := canon_BatchOut_flag _ _ _ _ ho
  clear_value o'
  exact canon_foldl_as _ _ ho' fun o k hk => canon_writeResult _ _ _ _ _ _ _ _ hk

theorem canon_reduceBatch (run c part : Nat) (i : Item) (core : CoreSt) (r : Run) (row : Nat) (a : Acc) (ha : Canon a.s) :
    Canon (reduceBatch run c part i core r row a).a.s := by
  unfold reduceBatch
  extract_lets d rest n p cnt isO
  split
  next ls a' he =>
  have ha' : Canon a'.s := canon_runBatch_eq he ha
  clear he
  extract_lets b
  have hb : Canon b.a.s := canon_foldl_as _ _ ha' fun o e ho => canon_rowElem _ _ _ _ _ _ _ _ ho
  clear_value b
  split
  · exact hb
  · exact canon_rowResults _ _ _ _ _ _ hb

theorem canon_readImage (c part : Nat) (i : Item) (a : Acc)  (ha : Canon a.s) : Canon (readImage c part i a).2.s := by
  unfold readImage
  repeat' (first
    | with_reducible assumption | (fail_if_no_progress extract_lets +onlyGivenNames s_) | with_reducible apply canon_coreRead | dsimp only | split)

theorem canon_readImage_eq {c part : Nat} {i : Item} {a : Acc}  {v0_} {v1_} (he_ : readImage c part i a = (v0_, v1_)) (ha : Canon a.s) :
    Canon v1_.s := by
  have := canon_readImage c part i a  ha
  rw [he_] at this
  exact this

end Sys2Proof.Machine
end

