-- ==== Sys2Proof/Laws/Canon/Attn.lean ====
section
/-!
SUPPORT. The operations and meanings of Machine/Attn.lean keep the canonical form of the memories and of the register file.
-/
set_option linter.all false
namespace Sys2Proof.Machine

theorem canon_readList (c part : Nat) (o : Opnd) (frames : List Frame) (is : List (List Nat)) (a : Acc)  (ha : Canon a.s) : Canon (readList c part o frames is a).2.s := by
  unfold readList
  repeat' (first
    | with_reducible assumption | with_reducible apply canon_readElem | with_reducible apply canon_foldl_2s | dsimp only | (intro s_ hc_; beta_reduce)
    | intro _ | split)

theorem canon_readList_eq {c part : Nat} {o : Opnd} {frames : List Frame} {is : List (List Nat)} {a : Acc}  {v0_} {v1_} (he_ : readList c part o frames is a = (v0_, v1_)) (ha : Canon a.s) :
    Canon v1_.s := by
  have := canon_readList c part o frames is a  ha
  rw [he_] at this
  exact this

theorem canon_readSegs (c part : Nat) (i : Item) (ar : AttnRun) (ts : List Nat) (a : Acc)  (ha : Canon a.s) : Canon (readSegs c part i ar ts a).2.s := by
  unfold readSegs
  repeat' (first
    | with_reducible assumption | (fail_if_no_progress extract_lets +onlyGivenNames s_) | with_reducible apply canon_coreRead
    | with_reducible apply canon_foldl_2s | dsimp only | (intro s_ hc_; beta_reduce) | intro _ | split)

theorem canon_readSegs_eq {c part : Nat} {i : Item} {ar : AttnRun} {ts : List Nat} {a : Acc}  {v0_} {v1_} (he_ : readSegs c part i ar ts a = (v0_, v1_)) (ha : Canon a.s) :
    Canon v1_.s := by
  have := canon_readSegs c part i ar ts a  ha
  rw [he_] at this
  exact this

theorem canon_openPass (s : State)  (hs : Canon s) : Canon (openPass s) := by
  unfold openPass
  repeat' (first
    | with_reducible assumption
    | ((fail_if_no_progress extract_lets +onlyGivenNames s_); first | (refine canon_cut (s := s_) ?_ (fun hc_ => ?_); (on_goal 2 => (try clear_value s_)); unfold s_) | (refine canon_cut (s := s_.s) ?_ (fun hc_ => ?_); (on_goal 2 => (try clear_value s_)); unfold s_) | (refine canon_cut (s := s_.1) ?_ (fun hc_ => ?_); (on_goal 2 => (try clear_value s_)); unfold s_) | (refine canon_cut (s := s_.2) ?_ (fun hc_ => ?_); (on_goal 2 => (try clear_value s_)); unfold s_) | (refine canon_cut (s := s_.2.s) ?_ (fun hc_ => ?_); (on_goal 2 => (try clear_value s_)); unfold s_) | (refine canon_cut (s := s_.2.2) ?_ (fun hc_ => ?_); (on_goal 2 => (try clear_value s_)); unfold s_) | (refine canon_cut (s := s_.2.2.s) ?_ (fun hc_ => ?_); (on_goal 2 => (try clear_value s_)); unfold s_) | (refine canon_cut (s := s_.1.s) ?_ (fun hc_ => ?_); (on_goal 2 => (try clear_value s_)); unfold s_) | (refine canon_cut (s := s_.1.a.s) ?_ (fun hc_ => ?_); (on_goal 2 => (try clear_value s_)); unfold s_) | (refine canon_cut (s := s_.a.s) ?_ (fun hc_ => ?_); (on_goal 2 => (try clear_value s_)); unfold s_) | (refine canon_cut (s := s_.2.a.s) ?_ (fun hc_ => ?_); (on_goal 2 => (try clear_value s_)); unfold s_) | skip)
    | with_reducible apply canon_mem
    | with_reducible apply canon_hostMem
    | with_reducible apply canon_regs
    | with_reducible apply wf_mwrite
    | with_reducible apply wf_mset
    | with_reducible apply wf_mfill
    | with_reducible apply wf_filter
    | with_reducible apply rwf_rset
    | with_reducible apply rwf_filter
    | with_reducible apply wf_nil
    | with_reducible apply rwf_nil
    | with_reducible apply canon_foldl
    | with_reducible apply canon_foldl_s
    | with_reducible apply canon_foldl_1
    | with_reducible apply canon_foldl_2
    | with_reducible apply canon_foldl_2s
    | with_reducible apply canon_foldl_22
    | with_reducible apply canon_foldl_22s
    | with_reducible apply canon_foldl_A
    | with_reducible apply canon_foldl_as
    | with_reducible apply canon_foldl_das
    | with_reducible apply canon_foldl_2das
    | with_reducible apply canon_foldl_1as
    | dsimp only
    | (intro s_ hc_; beta_reduce)
    | intro _
    | split
    | (simp only [canon_mk_iff]; refine ⟨?_, ?_, ?_⟩)
    | ((fail_if_no_progress clear_value *); split)
    | dsimp +zetaDelta only)

theorem canon_readBlock (c : Nat) (i : Item) (a : AttnRun) (b : Nat) (acc : Acc)  (hacc : Canon acc.s) : Canon (readBlock c i a b acc).2.s := by
  unfold readBlock
  repeat' (first
    | with_reducible assumption
    | ((fail_if_no_progress extract_lets +onlyGivenNames s_); first | (refine canon_cut (s := s_) ?_ (fun hc_ => ?_); (on_goal 2 => (try clear_value s_)); unfold s_) | (refine canon_cut (s := s_.s) ?_ (fun hc_ => ?_); (on_goal 2 => (try clear_value s_)); unfold s_) | (refine canon_cut (s := s_.1) ?_ (fun hc_ => ?_); (on_goal 2 => (try clear_value s_)); unfold s_) | (refine canon_cut (s := s_.2) ?_ (fun hc_ => ?_); (on_goal 2 => (try clear_value s_)); unfold s_) | (refine canon_cut (s := s_.2.s) ?_ (fun hc_ => ?_); (on_goal 2 => (try clear_value s_)); unfold s_) | (refine canon_cut (s := s_.2.2) ?_ (fun hc_ => ?_); (on_goal 2 => (try clear_value s_)); unfold s_) | (refine canon_cut (s := s_.2.2.s) ?_ (fun hc_ => ?_); (on_goal 2 => (try clear_value s_)); unfold s_) | (refine canon_cut (s := s_.1.s) ?_ (fun hc_ => ?_); (on_goal 2 => (try clear_value s_)); unfold s_) | (refine canon_cut (s := s_.1.a.s) ?_ (fun hc_ => ?_); (on_goal 2 => (try clear_value s_)); unfold s_) | (refine canon_cut (s := s_.a.s) ?_ (fun hc_ => ?_); (on_goal 2 => (try clear_value s_)); unfold s_) | (refine canon_cut (s := s_.2.a.s) ?_ (fun hc_ => ?_); (on_goal 2 => (try clear_value s_)); unfold s_) | skip)
    | with_reducible apply canon_readList
    | with_reducible refine canon_readList_eq (by assumption) ?_
    | with_reducible apply canon_readSegs
    | with_reducible refine canon_readSegs_eq (by assumption) ?_
    | with_reducible apply canon_mem
    | with_reducible apply canon_hostMem
    | with_reducible apply canon_regs
    | with_reducible apply wf_mwrite
    | with_reducible apply wf_mset
    | with_reducible apply wf_mfill
    | with_reducible apply wf_filter
    | with_reducible apply rwf_rset
    | with_reducible apply rwf_filter
    | with_reducible apply wf_nil
    | with_reducible apply rwf_nil
    | with_reducible apply canon_foldl
    | with_reducible apply canon_foldl_s
    | with_reducible apply canon_foldl_1
    | with_reducible apply canon_foldl_2
    | with_reducible apply canon_foldl_2s
    | with_reducible apply canon_foldl_22
    | with_reducible apply canon_foldl_22s
    | with_reducible apply canon_foldl_A
    | with_reducible apply canon_foldl_as
    | with_reducible apply canon_foldl_das
    | with_reducible apply canon_foldl_2das
    | with_reducible apply canon_foldl_1as
    | dsimp only
    | (intro s_ hc_; beta_reduce)
    | intro _
    | split
    | (simp only [canon_mk_iff]; refine ⟨?_, ?_, ?_⟩)
    | ((fail_if_no_progress clear_value *); split)
    | dsimp +zetaDelta only)

theorem canon_readBlock_eq {c : Nat} {i : Item} {a : AttnRun} {b : Nat} {acc : Acc}  {v0_} {v1_} (he_ : readBlock c i a b acc = (v0_, v1_)) (hacc : Canon acc.s) :
    Canon v1_.s := by
  have := canon_readBlock c i a b acc  hacc
  rw [he_] at this
  exact this

theorem canon_attnBlockRead (h : Nat) (s : State)  (hs : Canon s) : Canon (attnBlockRead h s) := by
  unfold attnBlockRead
  repeat' (first
    | with_reducible assumption
    | ((fail_if_no_progress extract_lets +onlyGivenNames s_); first | (refine canon_cut (s := s_) ?_ (fun hc_ => ?_); (on_goal 2 => (try clear_value s_)); unfold s_) | skip)
    | with_reducible apply canon_openPass | with_reducible apply canon_readBlock | with_reducible refine canon_readBlock_eq (by assumption) ?_
    | with_reducible apply canon_stopRun | with_reducible apply canon_bump | with_reducible apply canon_mem | with_reducible apply canon_hostMem
    | with_reducible apply canon_regs | with_reducible apply canon_foldl | dsimp only | (intro s_ hc_; beta_reduce) | intro _ | split
    | (simp only [canon_mk_iff]; refine ⟨?_, ?_, ?_⟩))

theorem canon_countBlock (s : State) (src dst n : Nat)  (hs : Canon s) : Canon (countBlock s src dst n) := by
  unfold countBlock
  repeat' (first
    | with_reducible assumption
    | ((fail_if_no_progress extract_lets +onlyGivenNames s_); first | (refine canon_cut (s := s_) ?_ (fun hc_ => ?_); (on_goal 2 => (try clear_value s_)); unfold s_) | (refine canon_cut (s := s_.s) ?_ (fun hc_ => ?_); (on_goal 2 => (try clear_value s_)); unfold s_) | (refine canon_cut (s := s_.1) ?_ (fun hc_ => ?_); (on_goal 2 => (try clear_value s_)); unfold s_) | (refine canon_cut (s := s_.2) ?_ (fun hc_ => ?_); (on_goal 2 => (try clear_value s_)); unfold s_) | (refine canon_cut (s := s_.2.s) ?_ (fun hc_ => ?_); (on_goal 2 => (try clear_value s_)); unfold s_) | (refine canon_cut (s := s_.2.2) ?_ (fun hc_ => ?_); (on_goal 2 => (try clear_value s_)); unfold s_) | (refine canon_cut (s := s_.2.2.s) ?_ (fun hc_ => ?_); (on_goal 2 => (try clear_value s_)); unfold s_) | (refine canon_cut (s := s_.1.s) ?_ (fun hc_ => ?_); (on_goal 2 => (try clear_value s_)); unfold s_) | (refine canon_cut (s := s_.1.a.s) ?_ (fun hc_ => ?_); (on_goal 2 => (try clear_value s_)); unfold s_) | (refine canon_cut (s := s_.a.s) ?_ (fun hc_ => ?_); (on_goal 2 => (try clear_value s_)); unfold s_) | (refine canon_cut (s := s_.2.a.s) ?_ (fun hc_ => ?_); (on_goal 2 => (try clear_value s_)); unfold s_) | skip)
    | with_reducible apply canon_bump
    | with_reducible apply canon_flueBytes
    | with_reducible apply canon_mem
    | with_reducible apply canon_hostMem
    | with_reducible apply canon_regs
    | with_reducible apply wf_mwrite
    | with_reducible apply wf_mset
    | with_reducible apply wf_mfill
    | with_reducible apply wf_filter
    | with_reducible apply rwf_rset
    | with_reducible apply rwf_filter
    | with_reducible apply wf_nil
    | with_reducible apply rwf_nil
    | with_reducible apply canon_foldl
    | with_reducible apply canon_foldl_s
    | with_reducible apply canon_foldl_1
    | with_reducible apply canon_foldl_2
    | with_reducible apply canon_foldl_2s
    | with_reducible apply canon_foldl_22
    | with_reducible apply canon_foldl_22s
    | with_reducible apply canon_foldl_A
    | with_reducible apply canon_foldl_as
    | with_reducible apply canon_foldl_das
    | with_reducible apply canon_foldl_2das
    | with_reducible apply canon_foldl_1as
    | dsimp only
    | (intro s_ hc_; beta_reduce)
    | intro _
    | split
    | (simp only [canon_mk_iff]; refine ⟨?_, ?_, ?_⟩)
    | ((fail_if_no_progress clear_value *); split)
    | dsimp +zetaDelta only)

theorem canon_attnBlockArrive (h : Nat) (s : State)  (hs : Canon s) : Canon (attnBlockArrive h s) := by
  unfold attnBlockArrive
  repeat' (first
    | with_reducible assumption
    | ((fail_if_no_progress extract_lets +onlyGivenNames s_); first | (refine canon_cut (s := s_) ?_ (fun hc_ => ?_); (on_goal 2 => (try clear_value s_)); unfold s_) | skip)
    | with_reducible apply canon_countBlock | with_reducible apply canon_mem | with_reducible apply canon_hostMem | with_reducible apply canon_regs
    | with_reducible apply canon_foldl | dsimp only | (intro s_ hc_; beta_reduce) | intro _ | split | (simp only [canon_mk_iff]; refine ⟨?_, ?_, ?_⟩))

theorem canon_readQuery (c : Nat) (i : Item) (a : AttnRun) (row : Nat) (acc : Acc)  (hacc : Canon acc.s) : Canon (readQuery c i a row acc).2.2.s := by
  unfold readQuery
  repeat' (first
    | with_reducible assumption | (fail_if_no_progress extract_lets +onlyGivenNames s_) | with_reducible apply canon_readElem
    | with_reducible apply canon_readSegs | with_reducible apply canon_foldl_2s | dsimp only | (intro s_ hc_; beta_reduce) | intro _ | split)

theorem canon_readQuery_eq {c : Nat} {i : Item} {a : AttnRun} {row : Nat} {acc : Acc}  {v0_} {v1_} {v2_} (he_ : readQuery c i a row acc = (v0_, v1_, v2_)) (hacc : Canon acc.s) :
    Canon v2_.s := by
  have := canon_readQuery c i a row acc  hacc
  rw [he_] at this
  exact this

theorem canon_absorbFor (c run : Nat) (i : Item) (b : Held) (row : Nat) (st : AttnRun × Acc)  (hst : Canon st.2.s) : Canon (absorbFor c run i b row st).2.s := by
  unfold absorbFor
  repeat' (first
    | with_reducible assumption | (fail_if_no_progress extract_lets +onlyGivenNames s_) | with_reducible apply canon_readQuery | dsimp only | split)

theorem canon_absorbFor_eq {c run : Nat} {i : Item} {b : Held} {row : Nat} {st : AttnRun × Acc}  {v0_} {v1_} (he_ : absorbFor c run i b row st = (v0_, v1_)) (hst : Canon st.2.s) :
    Canon v1_.s := by
  have := canon_absorbFor c run i b row st  hst
  rw [he_] at this
  exact this

theorem canon_attnBlockAbsorb (c : Nat) (s : State)  (hs : Canon s) : Canon (attnBlockAbsorb c s) := by
  unfold attnBlockAbsorb
  repeat' (first
    | with_reducible assumption
    | ((fail_if_no_progress extract_lets +onlyGivenNames s_); first | (refine canon_cut (s := s_) ?_ (fun hc_ => ?_); (on_goal 2 => (try clear_value s_)); unfold s_) | skip)
    | with_reducible apply canon_bump | with_reducible apply canon_absorbFor | with_reducible refine canon_absorbFor_eq (by assumption) ?_
    | with_reducible apply canon_stopRun | with_reducible apply canon_fresh | with_reducible refine canon_fresh_eq (by assumption) ?_
    | with_reducible apply canon_mem | with_reducible apply canon_hostMem | with_reducible apply canon_regs | with_reducible apply canon_foldl
    | with_reducible apply canon_foldl_2s | dsimp only | (intro s_ hc_; beta_reduce) | intro _ | split
    | (simp only [canon_mk_iff]; refine ⟨?_, ?_, ?_⟩))

theorem canon_writeRow (c run : Nat) (i : Item) (a : AttnRun) (row : Nat) (acc : Acc)  (hacc : Canon acc.s) : Canon (writeRow c run i a row acc).s := by
  unfold writeRow
  repeat' (first
    | with_reducible assumption | (fail_if_no_progress extract_lets +onlyGivenNames s_) | with_reducible apply canon_coreWrite
    | with_reducible apply canon_foldl_s | (intro s_ hc_; beta_reduce) | intro _ | split)

theorem canon_attnMerge (c : Nat) (s : State)  (hs : Canon s) : Canon (attnMerge c s) := by
  unfold attnMerge
  repeat' (first
    | with_reducible assumption
    | ((fail_if_no_progress extract_lets +onlyGivenNames s_); first | (refine canon_cut (s := s_) ?_ (fun hc_ => ?_); (on_goal 2 => (try clear_value s_)); unfold s_) | skip)
    | with_reducible apply canon_openPass | with_reducible apply canon_fresh | with_reducible refine canon_fresh_eq (by assumption) ?_
    | with_reducible apply canon_writeRow | with_reducible apply canon_Acc_land | with_reducible apply canon_stopRun | with_reducible apply canon_mem
    | with_reducible apply canon_hostMem | with_reducible apply canon_regs | with_reducible apply canon_foldl | with_reducible apply canon_foldl_s
    | dsimp only | (intro s_ hc_; beta_reduce) | intro _ | split | (simp only [canon_mk_iff]; refine ⟨?_, ?_, ?_⟩))

theorem canon_attnFlueFailed (s : State)  (hs : Canon s) : Canon (attnFlueFailed s) := by
  unfold attnFlueFailed
  repeat' (first
    | with_reducible assumption | with_reducible apply canon_stopRun | with_reducible apply canon_mem | with_reducible apply canon_hostMem
    | with_reducible apply canon_regs | dsimp only | split | (simp only [canon_mk_iff]; refine ⟨?_, ?_, ?_⟩))

end Sys2Proof.Machine
end

