-- ==== Sys2Proof/Laws/Canon/Finish.lean ====
section
/-!
SUPPORT. The operations and meanings of Machine/Finish.lean keep the canonical form of the memories and of the register file.
-/
set_option linter.all false
namespace Sys2Proof.Machine

theorem canon_writeFold (x : Running) (s : State)  (hs : Canon s) : Canon (writeFold x s).1 := by
  unfold writeFold
  repeat' (first
    | with_reducible assumption | (fail_if_no_progress extract_lets +onlyGivenNames s_) | with_reducible apply canon_fresh
    | with_reducible apply canon_coreWrite | with_reducible apply canon_Acc_land | dsimp only | split)

theorem canon_writeFold_eq {x : Running} {s : State}  {v0_} {v1_} (he_ : writeFold x s = (v0_, v1_)) (hs : Canon s) :
    Canon v0_ := by
  have := canon_writeFold x s  hs
  rw [he_] at this
  exact this

theorem canon_leaveExec (x : Running) (s : State)  (hs : Canon s) : Canon (leaveExec x s) := by
  unfold leaveExec
  repeat' (first
    | with_reducible assumption
    | ((fail_if_no_progress extract_lets +onlyGivenNames s_); first | (refine canon_cut (s := s_) ?_ (fun hc_ => ?_); (on_goal 2 => (try clear_value s_)); unfold s_) | skip)
    | with_reducible apply canon_clearCores | with_reducible apply canon_attnScratch | with_reducible apply canon_promote
    | with_reducible apply canon_lateCheck | with_reducible apply canon_modWin | with_reducible apply canon_mem | with_reducible apply canon_hostMem
    | with_reducible apply canon_regs | with_reducible apply canon_foldl | dsimp only | (intro s_ hc_; beta_reduce) | intro _ | split
    | (simp only [canon_mk_iff]; refine ⟨?_, ?_, ?_⟩))

theorem canon_finishExec (p : Nat) (s : State)  (hs : Canon s) : Canon (finishExec p s) := by
  unfold finishExec
  repeat' (first
    | with_reducible assumption
    | ((fail_if_no_progress extract_lets +onlyGivenNames s_); first | (refine canon_cut (s := s_) ?_ (fun hc_ => ?_); (on_goal 2 => (try clear_value s_)); unfold s_) | skip)
    | with_reducible apply canon_gatherStopped | with_reducible apply canon_writeFold | with_reducible refine canon_writeFold_eq (by assumption) ?_
    | with_reducible apply canon_landHeld | with_reducible apply canon_leaveExec | with_reducible apply canon_modItem | with_reducible apply canon_mem
    | with_reducible apply canon_hostMem | with_reducible apply canon_regs | with_reducible apply canon_foldl | dsimp only
    | (intro s_ hc_; beta_reduce) | intro _ | split | (simp only [canon_mk_iff]; refine ⟨?_, ?_, ?_⟩))

theorem canon_moverWork (s : State) (p : Nat) (i : Item)  (hs : Canon s) : Canon (moverWork s p i).2.1 := by
  unfold moverWork
  repeat' (first
    | with_reducible assumption | (fail_if_no_progress extract_lets +onlyGivenNames s_) | with_reducible apply canon_loadWords
    | with_reducible apply canon_fresh | with_reducible apply canon_moveAll | with_reducible apply canon_Acc_land | dsimp only | split)

theorem canon_moverWork_eq {s : State} {p : Nat} {i : Item}  {v0_} {v1_} {v2_} (he_ : moverWork s p i = (v0_, v1_, v2_)) (hs : Canon s) :
    Canon v1_ := by
  have := canon_moverWork s p i  hs
  rw [he_] at this
  exact this

theorem canon_finishMover (p k : Nat) (s : State)  (hs : Canon s) : Canon (finishMover p k s) := by
  unfold finishMover
  repeat' (first
    | with_reducible assumption | with_reducible apply canon_moverWork | with_reducible apply canon_modItem | with_reducible apply canon_modWin
    | dsimp only | split)

theorem canon_finishSlot (p : Nat) (slot : Fin 3) (s : State)  (hs : Canon s) : Canon (finishSlot p slot s) := by
  unfold finishSlot
  repeat' (first
    | with_reducible assumption | with_reducible apply canon_finishExec | with_reducible apply canon_finishMover | split)

theorem canon_completeEffects (q : Nat) (i : Item) (s : State)  (hs : Canon s) : Canon (completeEffects q i s) := by
  unfold completeEffects
  repeat' (first
    | with_reducible assumption
    | ((fail_if_no_progress extract_lets +onlyGivenNames s_); first | (refine canon_cut (s := s_) ?_ (fun hc_ => ?_); (on_goal 2 => (try clear_value s_)); unfold s_) | skip)
    | with_reducible apply canon_semUpdate | with_reducible apply canon_itemRecord | with_reducible apply canon_raiseMsix
    | with_reducible apply canon_modQueue | with_reducible apply canon_promote | with_reducible apply canon_faultQueue
    | with_reducible apply canon_descSnuff | split)

theorem canon_completeDesc (q : Nat) (s : State)  (hs : Canon s) : Canon (completeDesc q s) := by
  unfold completeDesc
  repeat' (first
    | with_reducible assumption | (fail_if_no_progress extract_lets +onlyGivenNames s_) | with_reducible apply canon_modQueue
    | with_reducible apply canon_completeEffects | dsimp only | split)

end Sys2Proof.Machine
end

