-- ==== Sys2Proof/Laws/Canon/Cyclic.lean ====
section
/-!
SUPPORT. The operations and meanings of Machine/Cyclic.lean keep the canonical form of the memories and of the register file.
-/
set_option linter.all false
namespace Sys2Proof.Machine

theorem canon_cycleStart (s : State)  (hs : Canon s) : Canon (cycleStart s) := by
  unfold cycleStart
  repeat' (first
    | with_reducible assumption | (fail_if_no_progress extract_lets +onlyGivenNames s_) | with_reducible apply canon_mem
    | with_reducible apply canon_hostMem | with_reducible apply canon_regs | split | (simp only [canon_mk_iff]; refine ⟨?_, ?_, ?_⟩))

theorem canon_enterSlot (i : Nat) (s : State)  (hs : Canon s) : Canon (enterSlot i s) := by
  unfold enterSlot
  repeat' (first
    | with_reducible assumption | (fail_if_no_progress extract_lets +onlyGivenNames s_) | with_reducible apply canon_lateCheck
    | with_reducible apply canon_modWin)

theorem canon_slotStart (i : Nat) (s : State)  (hs : Canon s) : Canon (slotStart i s) := by
  unfold slotStart
  repeat' (first
    | with_reducible assumption | (fail_if_no_progress extract_lets +onlyGivenNames s_) | with_reducible apply canon_promote
    | with_reducible apply canon_enterSlot | split)

theorem canon_slotEnd (i : Nat) (s : State)  (hs : Canon s) : Canon (slotEnd i s) := by
  unfold slotEnd
  repeat' (first
    | with_reducible assumption | (fail_if_no_progress extract_lets +onlyGivenNames s_) | with_reducible apply canon_modWin | split)

theorem canon_withdrawNext (q uid : Nat) (s : State)  (hs : Canon s) : Canon (withdrawNext q uid s) := by
  unfold withdrawNext
  repeat' (first
    | with_reducible assumption
    | ((fail_if_no_progress extract_lets +onlyGivenNames s_); first | (refine canon_cut (s := s_) ?_ (fun hc_ => ?_); (on_goal 2 => (try clear_value s_)); unfold s_) | skip)
    | with_reducible apply canon_dropSlots | with_reducible apply canon_modItem | with_reducible apply canon_modWin | with_reducible apply canon_mem
    | with_reducible apply canon_hostMem | with_reducible apply canon_regs | with_reducible apply canon_foldl | dsimp only
    | (intro s_ hc_; beta_reduce) | intro _ | split | (simp only [canon_mk_iff]; refine ⟨?_, ?_, ?_⟩))

theorem canon_quietStart (i : Nat) (s : State)  (hs : Canon s) : Canon (quietStart i s) := by
  unfold quietStart
  repeat' (first
    | with_reducible assumption
    | ((fail_if_no_progress extract_lets +onlyGivenNames s_); first | (refine canon_cut (s := s_) ?_ (fun hc_ => ?_); (on_goal 2 => (try clear_value s_)); unfold s_) | skip)
    | with_reducible apply canon_modWin | with_reducible apply canon_withdrawNext | split)

theorem canon_moveLine (s : State) (p : Nat)  (hs : Canon s) : Canon (moveLine s p) := by
  unfold moveLine
  repeat' (first
    | with_reducible assumption
    | ((fail_if_no_progress extract_lets +onlyGivenNames s_); first | (refine canon_cut (s := s_) ?_ (fun hc_ => ?_); (on_goal 2 => (try clear_value s_)); unfold s_) | skip)
    | with_reducible apply canon_modWin | with_reducible apply canon_enterSlot | with_reducible apply canon_quietStart
    | with_reducible apply canon_mem | with_reducible apply canon_hostMem | with_reducible apply canon_regs | with_reducible apply canon_foldl
    | dsimp only | (intro s_ hc_; beta_reduce) | intro _ | split | (simp only [canon_mk_iff]; refine ⟨?_, ?_, ?_⟩))

theorem canon_moveTable (s : State)  (hs : Canon s) : Canon (moveTable s) := by
  unfold moveTable
  repeat' (first
    | with_reducible assumption | with_reducible apply canon_moveLine | with_reducible apply canon_foldl | split)

theorem canon_passTurn (k : Part) (s : State) (p : Nat)  (hs : Canon s) : Canon (passTurn k s p) := by
  unfold passTurn
  repeat' (first
    | with_reducible assumption
    | ((fail_if_no_progress extract_lets +onlyGivenNames s_); first | (refine canon_cut (s := s_) ?_ (fun hc_ => ?_); (on_goal 2 => (try clear_value s_)); unfold s_) | (refine canon_cut (s := s_.s) ?_ (fun hc_ => ?_); (on_goal 2 => (try clear_value s_)); unfold s_) | (refine canon_cut (s := s_.1) ?_ (fun hc_ => ?_); (on_goal 2 => (try clear_value s_)); unfold s_) | (refine canon_cut (s := s_.2) ?_ (fun hc_ => ?_); (on_goal 2 => (try clear_value s_)); unfold s_) | (refine canon_cut (s := s_.2.s) ?_ (fun hc_ => ?_); (on_goal 2 => (try clear_value s_)); unfold s_) | (refine canon_cut (s := s_.2.2) ?_ (fun hc_ => ?_); (on_goal 2 => (try clear_value s_)); unfold s_) | (refine canon_cut (s := s_.2.2.s) ?_ (fun hc_ => ?_); (on_goal 2 => (try clear_value s_)); unfold s_) | (refine canon_cut (s := s_.1.s) ?_ (fun hc_ => ?_); (on_goal 2 => (try clear_value s_)); unfold s_) | (refine canon_cut (s := s_.1.a.s) ?_ (fun hc_ => ?_); (on_goal 2 => (try clear_value s_)); unfold s_) | (refine canon_cut (s := s_.a.s) ?_ (fun hc_ => ?_); (on_goal 2 => (try clear_value s_)); unfold s_) | (refine canon_cut (s := s_.2.a.s) ?_ (fun hc_ => ?_); (on_goal 2 => (try clear_value s_)); unfold s_) | skip)
    | with_reducible apply canon_passOver
    | with_reducible apply canon_mem
    | with_reducible apply canon_hostMem
    | with_reducible apply canon_regs
    | with_reducible apply wf_mwrite
    | with_reducible apply wf_mset
    | with_reducible apply wf_mfill
    | with_reducible apply wf_filter
    | with_reducible apply rwf_rset
    | with_reducible apply rwf_filter
    | with_reducible apply wf_nil
    | with_reducible apply rwf_nil
    | with_reducible apply canon_foldl
    | with_reducible apply canon_foldl_s
    | with_reducible apply canon_foldl_1
    | with_reducible apply canon_foldl_2
    | with_reducible apply canon_foldl_2s
    | with_reducible apply canon_foldl_22
    | with_reducible apply canon_foldl_22s
    | with_reducible apply canon_foldl_A
    | with_reducible apply canon_foldl_as
    | with_reducible apply canon_foldl_das
    | with_reducible apply canon_foldl_2das
    | with_reducible apply canon_foldl_1as
    | dsimp only
    | (intro s_ hc_; beta_reduce)
    | intro _
    | split
    | (simp only [canon_mk_iff]; refine ⟨?_, ?_, ?_⟩)
    | ((fail_if_no_progress clear_value *); split)
    | dsimp +zetaDelta only)

theorem canon_idle (s : State)  (hs : Canon s) : Canon (idle s) := by
  unfold idle
  repeat' (first
    | with_reducible assumption
    | ((fail_if_no_progress extract_lets +onlyGivenNames s_); first | (refine canon_cut (s := s_) ?_ (fun hc_ => ?_); (on_goal 2 => (try clear_value s_)); unfold s_) | (refine canon_cut (s := s_.s) ?_ (fun hc_ => ?_); (on_goal 2 => (try clear_value s_)); unfold s_) | (refine canon_cut (s := s_.1) ?_ (fun hc_ => ?_); (on_goal 2 => (try clear_value s_)); unfold s_) | (refine canon_cut (s := s_.2) ?_ (fun hc_ => ?_); (on_goal 2 => (try clear_value s_)); unfold s_) | (refine canon_cut (s := s_.2.s) ?_ (fun hc_ => ?_); (on_goal 2 => (try clear_value s_)); unfold s_) | (refine canon_cut (s := s_.2.2) ?_ (fun hc_ => ?_); (on_goal 2 => (try clear_value s_)); unfold s_) | (refine canon_cut (s := s_.2.2.s) ?_ (fun hc_ => ?_); (on_goal 2 => (try clear_value s_)); unfold s_) | (refine canon_cut (s := s_.1.s) ?_ (fun hc_ => ?_); (on_goal 2 => (try clear_value s_)); unfold s_) | (refine canon_cut (s := s_.1.a.s) ?_ (fun hc_ => ?_); (on_goal 2 => (try clear_value s_)); unfold s_) | (refine canon_cut (s := s_.a.s) ?_ (fun hc_ => ?_); (on_goal 2 => (try clear_value s_)); unfold s_) | (refine canon_cut (s := s_.2.a.s) ?_ (fun hc_ => ?_); (on_goal 2 => (try clear_value s_)); unfold s_) | skip)
    | with_reducible apply canon_tick
    | with_reducible apply canon_moveTable
    | with_reducible apply canon_passTurn
    | with_reducible apply canon_mem
    | with_reducible apply canon_hostMem
    | with_reducible apply canon_regs
    | with_reducible apply wf_mwrite
    | with_reducible apply wf_mset
    | with_reducible apply wf_mfill
    | with_reducible apply wf_filter
    | with_reducible apply rwf_rset
    | with_reducible apply rwf_filter
    | with_reducible apply wf_nil
    | with_reducible apply rwf_nil
    | with_reducible apply canon_foldl
    | with_reducible apply canon_foldl_s
    | with_reducible apply canon_foldl_1
    | with_reducible apply canon_foldl_2
    | with_reducible apply canon_foldl_2s
    | with_reducible apply canon_foldl_22
    | with_reducible apply canon_foldl_22s
    | with_reducible apply canon_foldl_A
    | with_reducible apply canon_foldl_as
    | with_reducible apply canon_foldl_das
    | with_reducible apply canon_foldl_2das
    | with_reducible apply canon_foldl_1as
    | dsimp only
    | (intro s_ hc_; beta_reduce)
    | intro _
    | split
    | (simp only [canon_mk_iff]; refine ⟨?_, ?_, ?_⟩)
    | ((fail_if_no_progress clear_value *); split)
    | dsimp +zetaDelta only)

theorem canon_execGlbTimeWrite (fn : Fn) (ns : W64) (s : State) (hs : Canon s) : OutCanon (execGlbTimeWrite fn ns s) := by
  unfold execGlbTimeWrite
  repeat' (first
    | with_reducible assumption | with_reducible apply canon_bar0 | with_reducible apply canon_glbTimeWrite | (intro s_ hc_; beta_reduce))

theorem canon_execPpsEdge (s : State) (hs : Canon s) : OutCanon (execPpsEdge s) := by
  unfold execPpsEdge
  repeat' (first
    | with_reducible assumption | with_reducible apply canon_live | with_reducible apply canon_ppsEdge | (intro s_ hc_; beta_reduce))

theorem canon_execPpsHoldEnd (s : State) (hs : Canon s) : OutCanon (execPpsHoldEnd s) := by
  unfold execPpsHoldEnd
  repeat' (first
    | with_reducible assumption | with_reducible apply canon_live | with_reducible apply canon_ppsHoldEnd | (intro s_ hc_; beta_reduce))

theorem canon_execCycleStart (s : State) (hs : Canon s) : OutCanon (execCycleStart s) := by
  unfold execCycleStart
  repeat' (first
    | with_reducible assumption | with_reducible apply canon_running | with_reducible apply canon_cycleStart)

theorem canon_execQuietPeriodStart (slot : Fin 1024) (s : State) (hs : Canon s) : OutCanon (execQuietPeriodStart slot s) := by
  unfold execQuietPeriodStart
  repeat' (first
    | with_reducible assumption | with_reducible apply canon_running | with_reducible apply canon_quietStart)

theorem canon_execSlotStart (slot : Fin 1024) (s : State) (hs : Canon s) : OutCanon (execSlotStart slot s) := by
  unfold execSlotStart
  repeat' (first
    | with_reducible assumption | with_reducible apply canon_running | with_reducible apply canon_slotStart)

theorem canon_execSlotEnd (slot : Fin 1024) (s : State) (hs : Canon s) : OutCanon (execSlotEnd slot s) := by
  unfold execSlotEnd
  repeat' (first
    | with_reducible assumption | with_reducible apply canon_running | with_reducible apply canon_slotEnd)

end Sys2Proof.Machine
end

