-- ==== Sys2Proof/Laws/Canon/Mmu.lean ====
section
/-!
SUPPORT. The operations and meanings of Machine/Mmu.lean keep the canonical form of the memories and of the register file.
-/
set_option linter.all false
namespace Sys2Proof.Machine

theorem canon_invCmd (fn : Fn) (p scope first count : Nat) (s : State)  (hs : Canon s) : Canon (invCmd fn p scope first count s) := by
  unfold invCmd
  repeat' (first
    | with_reducible assumption
    | ((fail_if_no_progress extract_lets +onlyGivenNames s_); first | (refine canon_cut (s := s_) ?_ (fun hc_ => ?_); (on_goal 2 => (try clear_value s_)); unfold s_) | skip)
    | with_reducible apply canon_denied | with_reducible apply canon_dropCmd | with_reducible apply canon_setBit | with_reducible apply canon_mem
    | with_reducible apply canon_hostMem | with_reducible apply canon_regs | split | (simp only [canon_mk_iff]; refine ⟨?_, ?_, ?_⟩))

theorem canon_invRange (fn : Fn) (p : Nat) (s : State)  (hs : Canon s) : Canon (invRange fn p s) := by
  unfold invRange
  repeat' (first
    | with_reducible assumption | (fail_if_no_progress extract_lets +onlyGivenNames s_) | with_reducible apply canon_invCmd)

theorem canon_dropEntries (v : Inval) (s : State)  (hs : Canon s) : Canon (dropEntries v s) := by
  unfold dropEntries
  repeat' (first
    | with_reducible assumption
    | ((fail_if_no_progress extract_lets +onlyGivenNames s_); (refine canon_cut (s := s_) ?_ (fun hc_ => ?_); (on_goal 2 => (try clear_value s_)); unfold s_))
    | with_reducible apply canon_mem | with_reducible apply canon_hostMem | with_reducible apply canon_regs | with_reducible apply canon_foldl
    | dsimp only | (intro s_ hc_; beta_reduce) | intro _ | (simp only [canon_mk_iff]; refine ⟨?_, ?_, ?_⟩))

theorem canon_invDone (s : State)  (hs : Canon s) : Canon (invDone s) := by
  unfold invDone
  repeat' (first
    | with_reducible assumption | (fail_if_no_progress extract_lets +onlyGivenNames s_) | with_reducible apply canon_dropEntries
    | with_reducible apply canon_setBit | with_reducible apply canon_mem | with_reducible apply canon_hostMem | with_reducible apply canon_regs
    | dsimp only | split | (simp only [canon_mk_iff]; refine ⟨?_, ?_, ?_⟩))

theorem canon_mmuJudge (s : State)  (hs : Canon s) : Canon (mmuJudge s) := by
  unfold mmuJudge
  repeat' (first
    | with_reducible assumption
    | ((fail_if_no_progress extract_lets +onlyGivenNames s_); first | (refine canon_cut (s := s_) ?_ (fun hc_ => ?_); (on_goal 2 => (try clear_value s_)); unfold s_) | skip)
    | with_reducible apply canon_setBit | with_reducible apply canon_setReg | with_reducible apply canon_mem | with_reducible apply canon_hostMem
    | with_reducible apply canon_regs | with_reducible apply canon_foldl | (intro s_ hc_; beta_reduce) | split
    | (simp only [canon_mk_iff]; refine ⟨?_, ?_, ?_⟩))

theorem canon_mmuCommit (fn : Fn) (s : State)  (hs : Canon s) : Canon (mmuCommit fn s) := by
  unfold mmuCommit
  repeat' (first
    | with_reducible assumption | with_reducible apply canon_denied | with_reducible apply canon_dropCmd | with_reducible apply canon_mmuJudge | split)

theorem canon_walkDone (c va : Nat) (s : State)  (hs : Canon s) : Canon (walkDone c va s) := by
  unfold walkDone
  repeat' (first
    | with_reducible assumption | with_reducible refine canon_translate_eq (by assumption) ?_ | with_reducible apply canon_stopRun | split)

theorem canon_execInvPartition (fn : Fn) (part : Fin 16) (s : State) (hs : Canon s) : OutCanon (execInvPartition fn part s) := by
  unfold execInvPartition
  repeat' (first
    | with_reducible assumption | with_reducible apply canon_live | with_reducible apply canon_orRecord | with_reducible apply canon_invCmd
    | (intro s_ hc_; beta_reduce))

theorem canon_execInvRange (fn : Fn) (part : Fin 16) (s : State) (hs : Canon s) : OutCanon (execInvRange fn part s) := by
  unfold execInvRange
  repeat' (first
    | with_reducible assumption | with_reducible apply canon_live | with_reducible apply canon_orRecord | with_reducible apply canon_invRange
    | (intro s_ hc_; beta_reduce))

theorem canon_execInvSlot (fn : Fn) (part : Fin 16) (slot : Fin 1024) (s : State) (hs : Canon s) : OutCanon (execInvSlot fn part slot s) := by
  unfold execInvSlot
  repeat' (first
    | with_reducible assumption | with_reducible apply canon_live | with_reducible apply canon_orRecord | with_reducible apply canon_invCmd
    | (intro s_ hc_; beta_reduce))

theorem canon_execInvDone (s : State) (hs : Canon s) : OutCanon (execInvDone s) := by
  unfold execInvDone
  repeat' (first
    | with_reducible assumption | with_reducible apply canon_live | with_reducible apply canon_invDone)

theorem canon_execMmuCommit (fn : Fn) (s : State) (hs : Canon s) : OutCanon (execMmuCommit fn s) := by
  unfold execMmuCommit
  repeat' (first
    | with_reducible assumption | with_reducible apply canon_bar0 | with_reducible apply canon_mmuCommit)

theorem canon_execWalkDone (core : Fin 16) (va : BitVec 48) (s : State) (hs : Canon s) : OutCanon (execWalkDone core va s) := by
  unfold execWalkDone
  repeat' (first
    | with_reducible assumption | with_reducible apply canon_running | with_reducible apply canon_walkDone)

end Sys2Proof.Machine
end

