-- ==== Sys2Proof/Laws/Canon/QmCmds.lean ====
section
/-!
SUPPORT. The operations and meanings of Machine/QmCmds.lean keep the canonical form of the memories and of the register file.
-/
set_option linter.all false
namespace Sys2Proof.Machine

theorem canon_execQueueDoorbell (fn : Fn) (off : Nat) (data : List Byte) (s : State) (hs : Canon s) : OutCanon (execQueueDoorbell fn off data s) := by
  unfold execQueueDoorbell
  repeat' (first
    | with_reducible assumption | with_reducible apply canon_live | with_reducible apply canon_viol | with_reducible apply canon_beforeWrite
    | with_reducible apply canon_orRecord | with_reducible apply canon_queueDoorbells | (intro s_ hc_; beta_reduce) | split)

theorem canon_execEnable (fn : Fn) (q : BitVec 16) (s : State) (hs : Canon s) : OutCanon (execEnable fn q s) := by
  unfold execEnable
  repeat' (first
    | with_reducible assumption | with_reducible apply canon_live | with_reducible apply canon_orRecord | with_reducible apply canon_enableQueue
    | (intro s_ hc_; beta_reduce))

theorem canon_execDisable (fn : Fn) (q : BitVec 16) (s : State) (hs : Canon s) : OutCanon (execDisable fn q s) := by
  unfold execDisable
  repeat' (first
    | with_reducible assumption | with_reducible apply canon_live | with_reducible apply canon_orRecord | with_reducible apply canon_queueCmd
    | with_reducible apply canon_disableQueue | (intro s_ hc_; beta_reduce))

theorem canon_execCancel (fn : Fn) (q : BitVec 16) (s : State) (hs : Canon s) : OutCanon (execCancel fn q s) := by
  unfold execCancel
  repeat' (first
    | with_reducible assumption | with_reducible apply canon_live | with_reducible apply canon_orRecord | with_reducible apply canon_queueCmd
    | with_reducible apply canon_cancelQueue | (intro s_ hc_; beta_reduce))

theorem canon_execResume (fn : Fn) (q : BitVec 16) (s : State) (hs : Canon s) : OutCanon (execResume fn q s) := by
  unfold execResume
  repeat' (first
    | with_reducible assumption | with_reducible apply canon_live | with_reducible apply canon_orRecord | with_reducible apply canon_queueCmd
    | with_reducible apply canon_resumeQueue | (intro s_ hc_; beta_reduce))

theorem canon_execResumeSkip (fn : Fn) (q : BitVec 16) (s : State) (hs : Canon s) : OutCanon (execResumeSkip fn q s) := by
  unfold execResumeSkip
  repeat' (first
    | with_reducible assumption | with_reducible apply canon_live | with_reducible apply canon_orRecord | with_reducible apply canon_queueCmd
    | with_reducible apply canon_resumeSkipQueue | (intro s_ hc_; beta_reduce))

theorem canon_execSemopAdd (fn : Fn) (sem : BitVec 14) (value : W32) (s : State) (hs : Canon s) : OutCanon (execSemopAdd fn sem value s) := by
  unfold execSemopAdd
  repeat' (first
    | with_reducible assumption | with_reducible apply canon_live | with_reducible apply canon_orRecord | with_reducible apply canon_hostSem
    | (intro s_ hc_; beta_reduce))

theorem canon_execSemopSet (fn : Fn) (sem : BitVec 14) (value : W32) (s : State) (hs : Canon s) : OutCanon (execSemopSet fn sem value s) := by
  unfold execSemopSet
  repeat' (first
    | with_reducible assumption | with_reducible apply canon_live | with_reducible apply canon_orRecord | with_reducible apply canon_hostSem
    | (intro s_ hc_; beta_reduce))

theorem canon_execQueueDisabled (q : BitVec 16) (s : State) (hs : Canon s) : OutCanon (execQueueDisabled q s) := by
  unfold execQueueDisabled
  repeat' (first
    | with_reducible assumption | with_reducible apply canon_running | with_reducible apply canon_queueDisabled)

theorem canon_execCancelDrained (q : BitVec 16) (s : State) (hs : Canon s) : OutCanon (execCancelDrained q s) := by
  unfold execCancelDrained
  repeat' (first
    | with_reducible assumption | with_reducible apply canon_running | with_reducible apply canon_promote | with_reducible apply canon_cancelDrained
    | (intro s_ hc_; beta_reduce))

theorem canon_execDescriptorFetch (q : BitVec 16) (s : State) (hs : Canon s) : OutCanon (execDescriptorFetch q s) := by
  unfold execDescriptorFetch
  repeat' (first
    | with_reducible assumption | with_reducible apply canon_running | with_reducible apply canon_fetchDesc)

theorem canon_execDescriptorRefuse (q : BitVec 16) (s : State) (hs : Canon s) : OutCanon (execDescriptorRefuse q s) := by
  unfold execDescriptorRefuse
  repeat' (first
    | with_reducible assumption | with_reducible apply canon_running | with_reducible apply canon_refuseDesc)

theorem canon_execDNop (q : BitVec 16) (s : State) (hs : Canon s) : OutCanon (execDNop q s) := by
  unfold execDNop
  repeat' (first
    | with_reducible assumption | with_reducible apply canon_running | with_reducible apply canon_issueControl)

theorem canon_execDWait (q : BitVec 16) (s : State) (hs : Canon s) : OutCanon (execDWait q s) := by
  unfold execDWait
  repeat' (first
    | with_reducible assumption | with_reducible apply canon_running | with_reducible apply canon_issueControl)

theorem canon_execDSignal (q : BitVec 16) (s : State) (hs : Canon s) : OutCanon (execDSignal q s) := by
  unfold execDSignal
  repeat' (first
    | with_reducible assumption | with_reducible apply canon_running | with_reducible apply canon_issueControl)

theorem canon_execDFence (q : BitVec 16) (s : State) (hs : Canon s) : OutCanon (execDFence q s) := by
  unfold execDFence
  repeat' (first
    | with_reducible assumption | with_reducible apply canon_running | with_reducible apply canon_issueControl)

theorem canon_execDBarrier (q : BitVec 16) (s : State) (hs : Canon s) : OutCanon (execDBarrier q s) := by
  unfold execDBarrier
  repeat' (first
    | with_reducible assumption | with_reducible apply canon_running | with_reducible apply canon_issueControl)

theorem canon_execDRepeat (q : BitVec 16) (s : State) (hs : Canon s) : OutCanon (execDRepeat q s) := by
  unfold execDRepeat
  repeat' (first
    | with_reducible assumption | with_reducible apply canon_running | with_reducible apply canon_issueRepeat)

theorem canon_execDLoadb (q : BitVec 16) (s : State) (hs : Canon s) : OutCanon (execDLoadb q s) := by
  unfold execDLoadb
  repeat' (first
    | with_reducible assumption | with_reducible apply canon_running | with_reducible apply canon_issueMover)

theorem canon_execDCopy (q : BitVec 16) (s : State) (hs : Canon s) : OutCanon (execDCopy q s) := by
  unfold execDCopy
  repeat' (first
    | with_reducible assumption | with_reducible apply canon_running | with_reducible apply canon_issueMover)

theorem canon_execDPrefetch (q : BitVec 16) (s : State) (hs : Canon s) : OutCanon (execDPrefetch q s) := by
  unfold execDPrefetch
  repeat' (first
    | with_reducible assumption | with_reducible apply canon_running | with_reducible apply canon_issueMover)

theorem canon_execDGather (q : BitVec 16) (s : State) (hs : Canon s) : OutCanon (execDGather q s) := by
  unfold execDGather
  repeat' (first
    | with_reducible assumption | with_reducible apply canon_running | with_reducible apply canon_issueCompute)

theorem canon_execDScatter (q : BitVec 16) (s : State) (hs : Canon s) : OutCanon (execDScatter q s) := by
  unfold execDScatter
  repeat' (first
    | with_reducible assumption | with_reducible apply canon_running | with_reducible apply canon_issueCompute)

theorem canon_execDMatmul (q : BitVec 16) (s : State) (hs : Canon s) : OutCanon (execDMatmul q s) := by
  unfold execDMatmul
  repeat' (first
    | with_reducible assumption | with_reducible apply canon_running | with_reducible apply canon_issueCompute)

theorem canon_execDMatvec (q : BitVec 16) (s : State) (hs : Canon s) : OutCanon (execDMatvec q s) := by
  unfold execDMatvec
  repeat' (first
    | with_reducible assumption | with_reducible apply canon_running | with_reducible apply canon_issueCompute)

theorem canon_execDConv (q : BitVec 16) (s : State) (hs : Canon s) : OutCanon (execDConv q s) := by
  unfold execDConv
  repeat' (first
    | with_reducible assumption | with_reducible apply canon_running | with_reducible apply canon_issueCompute)

theorem canon_execDConvw (q : BitVec 16) (s : State) (hs : Canon s) : OutCanon (execDConvw q s) := by
  unfold execDConvw
  repeat' (first
    | with_reducible assumption | with_reducible apply canon_running | with_reducible apply canon_issueCompute)

theorem canon_execDDwconv (q : BitVec 16) (s : State) (hs : Canon s) : OutCanon (execDDwconv q s) := by
  unfold execDDwconv
  repeat' (first
    | with_reducible assumption | with_reducible apply canon_running | with_reducible apply canon_issueCompute)

theorem canon_execDDist (q : BitVec 16) (s : State) (hs : Canon s) : OutCanon (execDDist q s) := by
  unfold execDDist
  repeat' (first
    | with_reducible assumption | with_reducible apply canon_running | with_reducible apply canon_issueCompute)

theorem canon_execDElem (q : BitVec 16) (s : State) (hs : Canon s) : OutCanon (execDElem q s) := by
  unfold execDElem
  repeat' (first
    | with_reducible assumption | with_reducible apply canon_running | with_reducible apply canon_issueCompute)

theorem canon_execDPload (q : BitVec 16) (s : State) (hs : Canon s) : OutCanon (execDPload q s) := by
  unfold execDPload
  repeat' (first
    | with_reducible assumption | with_reducible apply canon_running | with_reducible apply canon_issueCompute)

theorem canon_execDReduce (q : BitVec 16) (s : State) (hs : Canon s) : OutCanon (execDReduce q s) := by
  unfold execDReduce
  repeat' (first
    | with_reducible assumption | with_reducible apply canon_running | with_reducible apply canon_issueCompute)

theorem canon_execDAttn (q : BitVec 16) (s : State) (hs : Canon s) : OutCanon (execDAttn q s) := by
  unfold execDAttn
  repeat' (first
    | with_reducible assumption | with_reducible apply canon_running | with_reducible apply canon_issueCompute)

theorem canon_execAheadRequest (core : Fin 16) (s : State) (hs : Canon s) : OutCanon (execAheadRequest core s) := by
  unfold execAheadRequest
  repeat' (first
    | with_reducible assumption | with_reducible apply canon_running | with_reducible apply canon_aheadRequest)

theorem canon_execLocalSteal (core : Fin 16) (s : State) (hs : Canon s) : OutCanon (execLocalSteal core s) := by
  unfold execLocalSteal
  repeat' (first
    | with_reducible assumption | with_reducible apply canon_running | with_reducible apply canon_localSteal)

theorem canon_execRemoteSteal (core : Fin 16) (victim : Fin 4) (s : State) (hs : Canon s) : OutCanon (execRemoteSteal core victim s) := by
  unfold execRemoteSteal
  repeat' (first
    | with_reducible assumption | with_reducible apply canon_running | with_reducible apply canon_remoteSteal)

theorem canon_execTileDrain (core : Fin 16) (bank : Fin 2) (s : State) (hs : Canon s) : OutCanon (execTileDrain core bank s) := by
  unfold execTileDrain
  repeat' (first
    | with_reducible assumption | with_reducible apply canon_running | with_reducible apply canon_tileDrain)

theorem canon_execElemBatch (core : Fin 16) (s : State) (hs : Canon s) : OutCanon (execElemBatch core s) := by
  unfold execElemBatch
  repeat' (first
    | with_reducible assumption | with_reducible apply canon_running | with_reducible apply canon_elemStep)

theorem canon_execWidenRerun (part : Fin 16) (s : State) (hs : Canon s) : OutCanon (execWidenRerun part s) := by
  unfold execWidenRerun
  repeat' (first
    | with_reducible assumption | with_reducible apply canon_running | with_reducible apply canon_widenRerun)

theorem canon_execDescriptorFinish (part : Fin 16) (slot : Fin 3) (s : State) (hs : Canon s) : OutCanon (execDescriptorFinish part slot s) := by
  unfold execDescriptorFinish
  repeat' (first
    | with_reducible assumption | with_reducible apply canon_running | with_reducible apply canon_finishSlot)

theorem canon_execDescriptorComplete (q : BitVec 16) (s : State) (hs : Canon s) : OutCanon (execDescriptorComplete q s) := by
  unfold execDescriptorComplete
  repeat' (first
    | with_reducible assumption | with_reducible apply canon_running | with_reducible apply canon_completeDesc)

theorem canon_execWaitTimeout (q : BitVec 16) (s : State) (hs : Canon s) : OutCanon (execWaitTimeout q s) := by
  unfold execWaitTimeout
  repeat' (first
    | with_reducible assumption | with_reducible apply canon_running | with_reducible apply canon_waitTimeout)

theorem canon_execPartitionStall (part : Fin 16) (s : State) (hs : Canon s) : OutCanon (execPartitionStall part s) := by
  unfold execPartitionStall
  repeat' (first
    | with_reducible assumption | with_reducible apply canon_running | with_reducible apply canon_partStall)

theorem canon_execAttnBlockRead (hearth : Fin 4) (s : State) (hs : Canon s) : OutCanon (execAttnBlockRead hearth s) := by
  unfold execAttnBlockRead
  repeat' (first
    | with_reducible assumption | with_reducible apply canon_running | with_reducible apply canon_attnBlockRead)

theorem canon_execAttnBlockArrive (hearth : Fin 4) (s : State) (hs : Canon s) : OutCanon (execAttnBlockArrive hearth s) := by
  unfold execAttnBlockArrive
  repeat' (first
    | with_reducible assumption | with_reducible apply canon_running | with_reducible apply canon_attnBlockArrive)

theorem canon_execAttnBlockAbsorb (core : Fin 16) (s : State) (hs : Canon s) : OutCanon (execAttnBlockAbsorb core s) := by
  unfold execAttnBlockAbsorb
  repeat' (first
    | with_reducible assumption | with_reducible apply canon_running | with_reducible apply canon_attnBlockAbsorb)

theorem canon_execAttnMerge (core : Fin 16) (s : State) (hs : Canon s) : OutCanon (execAttnMerge core s) := by
  unfold execAttnMerge
  repeat' (first
    | with_reducible assumption | with_reducible apply canon_running | with_reducible apply canon_attnMerge)

end Sys2Proof.Machine
end

