-- ==== Sys2Proof/Laws/Canon/Pool.lean ====
section
/-!
SUPPORT. The operations and meanings of Machine/Pool.lean keep the canonical form of the memories and of the register file.
-/
set_option linter.all false
namespace Sys2Proof.Machine

theorem canon_putStream (s : State) (h : Nat) (x : Stream)  (hs : Canon s) : Canon (State.putStream s h x) := by
  unfold State.putStream
  repeat' (first
    | with_reducible assumption | (fail_if_no_progress extract_lets +onlyGivenNames s_) | with_reducible apply canon_mem
    | with_reducible apply canon_hostMem | with_reducible apply canon_regs | (simp only [canon_mk_iff]; refine ⟨?_, ?_, ?_⟩))

theorem canon_modStream (s : State) (h : Nat) (f : Stream → Stream)  (hs : Canon s) : Canon (State.modStream s h f) := by
  unfold State.modStream
  repeat' (first
    | with_reducible assumption | with_reducible apply canon_putStream | split)

theorem canon_modDec (s : State) (h : Nat) (f : Dec → Dec)  (hs : Canon s) : Canon (State.modDec s h f) := by
  unfold State.modDec
  repeat' (first
    | with_reducible assumption | with_reducible apply canon_modStream)

theorem canon_modEnc (s : State) (h : Nat) (f : Enc → Enc)  (hs : Canon s) : Canon (State.modEnc s h f) := by
  unfold State.modEnc
  repeat' (first
    | with_reducible assumption | with_reducible apply canon_modStream)

theorem canon_modBuf (s : State) (b : Nat) (f : Buf → Buf)  (hs : Canon s) : Canon (State.modBuf s b f) := by
  unfold State.modBuf
  repeat' (first
    | with_reducible assumption | (fail_if_no_progress extract_lets +onlyGivenNames s_) | with_reducible apply canon_mem
    | with_reducible apply canon_hostMem | with_reducible apply canon_regs | split | (simp only [canon_mk_iff]; refine ⟨?_, ?_, ?_⟩))

theorem canon_reclaim (s : State) (h : Nat)  (hs : Canon s) : Canon (reclaim s h) := by
  unfold reclaim
  repeat' (first
    | with_reducible assumption | (fail_if_no_progress extract_lets +onlyGivenNames s_) | with_reducible apply canon_mem
    | with_reducible apply canon_hostMem | with_reducible apply canon_regs | split | (simp only [canon_mk_iff]; refine ⟨?_, ?_, ?_⟩))

theorem canon_setMark (b m : Nat) (v : Bool) (s : State)  (hs : Canon s) : Canon (setMark b m v s) := by
  unfold setMark
  repeat' (first
    | with_reducible assumption
    | ((fail_if_no_progress extract_lets +onlyGivenNames s_); (refine canon_cut (s := s_) ?_ (fun hc_ => ?_); (on_goal 2 => (try clear_value s_)); unfold s_))
    | with_reducible apply canon_modBuf | with_reducible apply canon_reclaim | split)

theorem canon_count (h off n : Nat) (s : State)  (hs : Canon s) : Canon (count h off n s) := by
  unfold count
  repeat' (first
    | with_reducible assumption | with_reducible apply canon_modStream)

theorem canon_writeStat (h : Nat) (s : State)  (hs : Canon s) : Canon (writeStat h s) := by
  unfold writeStat
  repeat' (first
    | with_reducible assumption | with_reducible apply canon_spaceWrite | dsimp only | split)

theorem canon_ringPut (h : Nat) (ana : Bool) (bs : List Byte) (s : State)  (hs : Canon s) : Canon (ringPut h ana bs s) := by
  unfold ringPut
  repeat' (first
    | with_reducible assumption | with_reducible apply canon_spaceWrite | with_reducible apply canon_modStream | dsimp only | split)

theorem canon_ringIndex (h : Nat) (ana : Bool) (s : State)  (hs : Canon s) : Canon (ringIndex h ana s) := by
  unfold ringIndex
  repeat' (first
    | with_reducible assumption | with_reducible apply canon_spaceWrite | dsimp only | split)

theorem canon_semField (f : Nat) (s : State)  (hs : Canon s) : Canon (semField f s) := by
  unfold semField
  repeat' (first
    | with_reducible assumption | with_reducible apply canon_semUpdate | split)

theorem canon_emitFrame (h b : Nat) (rec : List Byte) (s : State)  (hs : Canon s) : Canon (emitFrame h b rec s) := by
  unfold emitFrame
  repeat' (first
    | with_reducible assumption | with_reducible apply canon_ringPut | with_reducible apply canon_setMark | with_reducible apply canon_semField
    | with_reducible apply canon_ringIndex | dsimp only | split)

theorem canon_ringRead (s : State) (base size : Nat) (i : W32) (n : Nat)  (hs : Canon s) : Canon (ringRead s base size i n).1 := by
  unfold ringRead
  repeat' (first
    | with_reducible assumption | (fail_if_no_progress extract_lets +onlyGivenNames s_) | with_reducible apply canon_engRead | dsimp only | split)

theorem canon_ringRead_eq {s : State} {base size : Nat} {i : W32} {n : Nat}  {v0_} {v1_} {v2_} (he_ : ringRead s base size i n = (v0_, v1_, v2_)) (hs : Canon s) :
    Canon v0_ := by
  have := canon_ringRead s base size i n  hs
  rw [he_] at this
  exact this

theorem canon_ringStore (s : State) (base size : Nat) (i : W32) (bs : List Byte)  (hs : Canon s) : Canon (ringStore s base size i bs) := by
  unfold ringStore
  repeat' (first
    | with_reducible assumption
    | ((fail_if_no_progress extract_lets +onlyGivenNames s_); first | (refine canon_cut (s := s_) ?_ (fun hc_ => ?_); (on_goal 2 => (try clear_value s_)); unfold s_) | skip)
    | with_reducible apply canon_engWrite | split)

end Sys2Proof.Machine
end

