-- ==== Sys2Proof/Laws/Canon/TwinTx.lean ====
section
/-!
SUPPORT. The operations and meanings of Machine/TwinTx.lean keep the canonical form of the memories and of the register file.
-/
set_option linter.all false
namespace Sys2Proof.Machine

theorem canon_sendFlit (f : Flit) (s : State)  (hs : Canon s) : Canon (sendFlit f s) := by
  unfold sendFlit
  repeat' (first
    | with_reducible assumption
    | ((fail_if_no_progress extract_lets +onlyGivenNames s_); first | (refine canon_cut (s := s_) ?_ (fun hc_ => ?_); (on_goal 2 => (try clear_value s_)); unfold s_) | (refine canon_cut (s := s_.s) ?_ (fun hc_ => ?_); (on_goal 2 => (try clear_value s_)); unfold s_) | (refine canon_cut (s := s_.1) ?_ (fun hc_ => ?_); (on_goal 2 => (try clear_value s_)); unfold s_) | (refine canon_cut (s := s_.2) ?_ (fun hc_ => ?_); (on_goal 2 => (try clear_value s_)); unfold s_) | (refine canon_cut (s := s_.2.s) ?_ (fun hc_ => ?_); (on_goal 2 => (try clear_value s_)); unfold s_) | (refine canon_cut (s := s_.2.2) ?_ (fun hc_ => ?_); (on_goal 2 => (try clear_value s_)); unfold s_) | (refine canon_cut (s := s_.2.2.s) ?_ (fun hc_ => ?_); (on_goal 2 => (try clear_value s_)); unfold s_) | (refine canon_cut (s := s_.1.s) ?_ (fun hc_ => ?_); (on_goal 2 => (try clear_value s_)); unfold s_) | (refine canon_cut (s := s_.1.a.s) ?_ (fun hc_ => ?_); (on_goal 2 => (try clear_value s_)); unfold s_) | (refine canon_cut (s := s_.a.s) ?_ (fun hc_ => ?_); (on_goal 2 => (try clear_value s_)); unfold s_) | (refine canon_cut (s := s_.2.a.s) ?_ (fun hc_ => ?_); (on_goal 2 => (try clear_value s_)); unfold s_) | skip)
    | with_reducible apply canon_bump
    | with_reducible apply canon_replay
    | with_reducible apply canon_mem
    | with_reducible apply canon_hostMem
    | with_reducible apply canon_regs
    | with_reducible apply wf_mwrite
    | with_reducible apply wf_mset
    | with_reducible apply wf_mfill
    | with_reducible apply wf_filter
    | with_reducible apply rwf_rset
    | with_reducible apply rwf_filter
    | with_reducible apply wf_nil
    | with_reducible apply rwf_nil
    | with_reducible apply canon_foldl
    | with_reducible apply canon_foldl_s
    | with_reducible apply canon_foldl_1
    | with_reducible apply canon_foldl_2
    | with_reducible apply canon_foldl_2s
    | with_reducible apply canon_foldl_22
    | with_reducible apply canon_foldl_22s
    | with_reducible apply canon_foldl_A
    | with_reducible apply canon_foldl_as
    | with_reducible apply canon_foldl_das
    | with_reducible apply canon_foldl_2das
    | with_reducible apply canon_foldl_1as
    | dsimp only
    | (intro s_ hc_; beta_reduce)
    | intro _
    | split
    | (simp only [canon_mk_iff]; refine ⟨?_, ?_, ?_⟩)
    | ((fail_if_no_progress clear_value *); split)
    | dsimp +zetaDelta only)

theorem canon_pumpFlits  (x0 : Nat) (x1 : State) (hx1 : Canon x1) : Canon (pumpFlits x0 x1) := by
  induction x0 generalizing x1 with
  | zero =>
    unfold pumpFlits
    repeat' (first
        | with_reducible assumption
        | ((fail_if_no_progress extract_lets +onlyGivenNames s_); first | (refine canon_cut (s := s_) ?_ (fun hc_ => ?_); (on_goal 2 => (try clear_value s_)); unfold s_) | (refine canon_cut (s := s_.s) ?_ (fun hc_ => ?_); (on_goal 2 => (try clear_value s_)); unfold s_) | (refine canon_cut (s := s_.1) ?_ (fun hc_ => ?_); (on_goal 2 => (try clear_value s_)); unfold s_) | (refine canon_cut (s := s_.2) ?_ (fun hc_ => ?_); (on_goal 2 => (try clear_value s_)); unfold s_) | (refine canon_cut (s := s_.2.s) ?_ (fun hc_ => ?_); (on_goal 2 => (try clear_value s_)); unfold s_) | (refine canon_cut (s := s_.2.2) ?_ (fun hc_ => ?_); (on_goal 2 => (try clear_value s_)); unfold s_) | (refine canon_cut (s := s_.2.2.s) ?_ (fun hc_ => ?_); (on_goal 2 => (try clear_value s_)); unfold s_) | (refine canon_cut (s := s_.1.s) ?_ (fun hc_ => ?_); (on_goal 2 => (try clear_value s_)); unfold s_) | (refine canon_cut (s := s_.1.a.s) ?_ (fun hc_ => ?_); (on_goal 2 => (try clear_value s_)); unfold s_) | (refine canon_cut (s := s_.a.s) ?_ (fun hc_ => ?_); (on_goal 2 => (try clear_value s_)); unfold s_) | (refine canon_cut (s := s_.2.a.s) ?_ (fun hc_ => ?_); (on_goal 2 => (try clear_value s_)); unfold s_) | skip)
        | with_reducible apply canon_sendFlit
        | with_reducible apply canon_mem
        | with_reducible apply canon_hostMem
        | with_reducible apply canon_regs
        | with_reducible apply wf_mwrite
        | with_reducible apply wf_mset
        | with_reducible apply wf_mfill
        | with_reducible apply wf_filter
        | with_reducible apply rwf_rset
        | with_reducible apply rwf_filter
        | with_reducible apply wf_nil
        | with_reducible apply rwf_nil
        | with_reducible apply canon_foldl
        | with_reducible apply canon_foldl_s
        | with_reducible apply canon_foldl_1
        | with_reducible apply canon_foldl_2
        | with_reducible apply canon_foldl_2s
        | with_reducible apply canon_foldl_22
        | with_reducible apply canon_foldl_22s
        | with_reducible apply canon_foldl_A
        | with_reducible apply canon_foldl_as
        | with_reducible apply canon_foldl_das
        | with_reducible apply canon_foldl_2das
        | with_reducible apply canon_foldl_1as
        | dsimp only
        | (intro s_ hc_; beta_reduce)
        | intro _
        | split
        | (simp only [canon_mk_iff]; refine ⟨?_, ?_, ?_⟩)
        | ((fail_if_no_progress clear_value *); split)
        | dsimp +zetaDelta only)
  | succ n ih =>
    unfold pumpFlits
    repeat' (first
        | with_reducible assumption
        | ((fail_if_no_progress extract_lets +onlyGivenNames s_); first | (refine canon_cut (s := s_) ?_ (fun hc_ => ?_); (on_goal 2 => (try clear_value s_)); unfold s_) | (refine canon_cut (s := s_.s) ?_ (fun hc_ => ?_); (on_goal 2 => (try clear_value s_)); unfold s_) | (refine canon_cut (s := s_.1) ?_ (fun hc_ => ?_); (on_goal 2 => (try clear_value s_)); unfold s_) | (refine canon_cut (s := s_.2) ?_ (fun hc_ => ?_); (on_goal 2 => (try clear_value s_)); unfold s_) | (refine canon_cut (s := s_.2.s) ?_ (fun hc_ => ?_); (on_goal 2 => (try clear_value s_)); unfold s_) | (refine canon_cut (s := s_.2.2) ?_ (fun hc_ => ?_); (on_goal 2 => (try clear_value s_)); unfold s_) | (refine canon_cut (s := s_.2.2.s) ?_ (fun hc_ => ?_); (on_goal 2 => (try clear_value s_)); unfold s_) | (refine canon_cut (s := s_.1.s) ?_ (fun hc_ => ?_); (on_goal 2 => (try clear_value s_)); unfold s_) | (refine canon_cut (s := s_.1.a.s) ?_ (fun hc_ => ?_); (on_goal 2 => (try clear_value s_)); unfold s_) | (refine canon_cut (s := s_.a.s) ?_ (fun hc_ => ?_); (on_goal 2 => (try clear_value s_)); unfold s_) | (refine canon_cut (s := s_.2.a.s) ?_ (fun hc_ => ?_); (on_goal 2 => (try clear_value s_)); unfold s_) | skip)
        | with_reducible apply ih
        | with_reducible apply canon_sendFlit
        | with_reducible apply canon_mem
        | with_reducible apply canon_hostMem
        | with_reducible apply canon_regs
        | with_reducible apply wf_mwrite
        | with_reducible apply wf_mset
        | with_reducible apply wf_mfill
        | with_reducible apply wf_filter
        | with_reducible apply rwf_rset
        | with_reducible apply rwf_filter
        | with_reducible apply wf_nil
        | with_reducible apply rwf_nil
        | with_reducible apply canon_foldl
        | with_reducible apply canon_foldl_s
        | with_reducible apply canon_foldl_1
        | with_reducible apply canon_foldl_2
        | with_reducible apply canon_foldl_2s
        | with_reducible apply canon_foldl_22
        | with_reducible apply canon_foldl_22s
        | with_reducible apply canon_foldl_A
        | with_reducible apply canon_foldl_as
        | with_reducible apply canon_foldl_das
        | with_reducible apply canon_foldl_2das
        | with_reducible apply canon_foldl_1as
        | dsimp only
        | (intro s_ hc_; beta_reduce)
        | intro _
        | split
        | (simp only [canon_mk_iff]; refine ⟨?_, ?_, ?_⟩)
        | ((fail_if_no_progress clear_value *); split)
        | dsimp +zetaDelta only)

theorem canon_pumpAll (s : State)  (hs : Canon s) : Canon (pumpAll s) := by
  unfold pumpAll
  repeat' (first
    | with_reducible assumption
    | ((fail_if_no_progress extract_lets +onlyGivenNames s_); first | (refine canon_cut (s := s_) ?_ (fun hc_ => ?_); (on_goal 2 => (try clear_value s_)); unfold s_) | (refine canon_cut (s := s_.s) ?_ (fun hc_ => ?_); (on_goal 2 => (try clear_value s_)); unfold s_) | (refine canon_cut (s := s_.1) ?_ (fun hc_ => ?_); (on_goal 2 => (try clear_value s_)); unfold s_) | (refine canon_cut (s := s_.2) ?_ (fun hc_ => ?_); (on_goal 2 => (try clear_value s_)); unfold s_) | (refine canon_cut (s := s_.2.s) ?_ (fun hc_ => ?_); (on_goal 2 => (try clear_value s_)); unfold s_) | (refine canon_cut (s := s_.2.2) ?_ (fun hc_ => ?_); (on_goal 2 => (try clear_value s_)); unfold s_) | (refine canon_cut (s := s_.2.2.s) ?_ (fun hc_ => ?_); (on_goal 2 => (try clear_value s_)); unfold s_) | (refine canon_cut (s := s_.1.s) ?_ (fun hc_ => ?_); (on_goal 2 => (try clear_value s_)); unfold s_) | (refine canon_cut (s := s_.1.a.s) ?_ (fun hc_ => ?_); (on_goal 2 => (try clear_value s_)); unfold s_) | (refine canon_cut (s := s_.a.s) ?_ (fun hc_ => ?_); (on_goal 2 => (try clear_value s_)); unfold s_) | (refine canon_cut (s := s_.2.a.s) ?_ (fun hc_ => ?_); (on_goal 2 => (try clear_value s_)); unfold s_) | skip)
    | with_reducible apply canon_pumpFlits
    | with_reducible apply canon_mem
    | with_reducible apply canon_hostMem
    | with_reducible apply canon_regs
    | with_reducible apply wf_mwrite
    | with_reducible apply wf_mset
    | with_reducible apply wf_mfill
    | with_reducible apply wf_filter
    | with_reducible apply rwf_rset
    | with_reducible apply rwf_filter
    | with_reducible apply wf_nil
    | with_reducible apply rwf_nil
    | with_reducible apply canon_foldl
    | with_reducible apply canon_foldl_s
    | with_reducible apply canon_foldl_1
    | with_reducible apply canon_foldl_2
    | with_reducible apply canon_foldl_2s
    | with_reducible apply canon_foldl_22
    | with_reducible apply canon_foldl_22s
    | with_reducible apply canon_foldl_A
    | with_reducible apply canon_foldl_as
    | with_reducible apply canon_foldl_das
    | with_reducible apply canon_foldl_2das
    | with_reducible apply canon_foldl_1as
    | dsimp only
    | (intro s_ hc_; beta_reduce)
    | intro _
    | split
    | (simp only [canon_mk_iff]; refine ⟨?_, ?_, ?_⟩)
    | ((fail_if_no_progress clear_value *); split)
    | dsimp +zetaDelta only)

theorem canon_twinSend (typ : Nat) (cont : Bool) (payload : List Byte) (s : State)  (hs : Canon s) : Canon (twinSend typ cont payload s) := by
  unfold twinSend
  repeat' (first
    | with_reducible assumption
    | ((fail_if_no_progress extract_lets +onlyGivenNames s_); first | (refine canon_cut (s := s_) ?_ (fun hc_ => ?_); (on_goal 2 => (try clear_value s_)); unfold s_) | skip)
    | with_reducible apply canon_pumpAll | with_reducible apply canon_mem | with_reducible apply canon_hostMem | with_reducible apply canon_regs
    | with_reducible apply canon_foldl | dsimp only | (intro s_ hc_; beta_reduce) | intro _ | split | (simp only [canon_mk_iff]; refine ⟨?_, ?_, ?_⟩))

theorem canon_sendOpen (h : Nat) (par : List Byte) (s : State)  (hs : Canon s) : Canon (sendOpen h par s) := by
  unfold sendOpen
  repeat' (first
    | with_reducible assumption | with_reducible apply canon_twinSend)

theorem canon_sendBits (h : Nat) (x0 : Nat) (x1 : W32) (x2 : List Byte) (x3 : State) (hx3 : Canon x3) : Canon (sendBits h x0 x1 x2 x3) := by
  induction x0 generalizing x1 x2 x3 with
  | zero =>
    unfold sendBits
    repeat' (first
        | with_reducible assumption | with_reducible apply canon_twinSend | split)
  | succ n ih =>
    unfold sendBits
    repeat' (first
        | with_reducible assumption | with_reducible apply ih | with_reducible apply canon_twinSend | split)

theorem canon_sendPos (h : Nat) (rap : Bool) (num start : W32) (s : State)  (hs : Canon s) : Canon (sendPos h rap num start s) := by
  unfold sendPos
  repeat' (first
    | with_reducible assumption | with_reducible apply canon_twinSend)

theorem canon_sendTrack (h ctx : Nat) (img : List Byte) (s : State)  (hs : Canon s) : Canon (sendTrack h ctx img s) := by
  unfold sendTrack
  repeat' (first
    | with_reducible assumption | with_reducible apply canon_twinSend)

theorem canon_sendCommit (h : Nat) (frameSeq metaSeq nextId fin : W32) (arrival : W64) (s : State)  (hs : Canon s) : Canon (sendCommit h frameSeq metaSeq nextId fin arrival s) := by
  unfold sendCommit
  repeat' (first
    | with_reducible assumption | with_reducible apply canon_twinSend)

theorem canon_sendClose (h : Nat) (s : State)  (hs : Canon s) : Canon (sendClose h s) := by
  unfold sendClose
  repeat' (first
    | with_reducible assumption | with_reducible apply canon_twinSend)

theorem canon_sendAckf (h status : Nat) (metaSeq : W32) (s : State)  (hs : Canon s) : Canon (sendAckf h status metaSeq s) := by
  unfold sendAckf
  repeat' (first
    | with_reducible assumption | with_reducible apply canon_twinSend)

end Sys2Proof.Machine
end

