-- ==== Sys2Proof/Laws/Canon/Media.lean ====
section
/-!
SUPPORT. The operations and meanings of Machine/Media.lean keep the canonical form of the memories and of the register file.
-/
set_option linter.all false
namespace Sys2Proof.Machine

theorem canon_consume (h : Nat) (s : State)  (hs : Canon s) : Canon (consume h s) := by
  unfold consume
  repeat' (first
    | with_reducible assumption | with_reducible apply canon_modDec | split)

theorem canon_holdSegs (h : Nat) (x : Stream) (i j : W32) (s : State)  (hs : Canon s) : Canon (holdSegs h x i j s) := by
  unfold holdSegs
  repeat' (first
    | with_reducible assumption | (fail_if_no_progress extract_lets +onlyGivenNames s_) | with_reducible apply canon_setMark
    | with_reducible apply canon_foldl | (intro s_ hc_; beta_reduce) | intro _ | split)

theorem canon_mirrorInput (h : Nat) (x : Stream) (i j : W32) (s : State)  (hs : Canon s) : Canon (mirrorInput h x i j s) := by
  unfold mirrorInput
  repeat' (first
    | with_reducible assumption | (fail_if_no_progress extract_lets +onlyGivenNames s_) | with_reducible apply canon_ringRead
    | with_reducible apply canon_holdSegs | with_reducible apply canon_sendBits | dsimp only | split)

theorem canon_settle (h : Nat) (s : State)  (hs : Canon s) : Canon (settle h s) := by
  unfold settle
  repeat' (first
    | with_reducible assumption | with_reducible apply canon_modStream)

theorem canon_writeMap (h : Nat) (par : List Byte) (p : Pic) (picked : Bool) (blocks : List MapBlock) (s : State)  (hs : Canon s) : Canon (writeMap h par p picked blocks s) := by
  unfold writeMap
  repeat' (first
    | with_reducible assumption | (fail_if_no_progress extract_lets +onlyGivenNames s_) | with_reducible apply canon_semField
    | with_reducible apply canon_engWrite | split)

theorem canon_frameParsed (h : Nat) (f : HalfFrame) (s : State)  (hs : Canon s) : Canon (frameParsed h f s) := by
  unfold frameParsed
  repeat' (first
    | with_reducible assumption
    | ((fail_if_no_progress extract_lets +onlyGivenNames s_); first | (refine canon_cut (s := s_) ?_ (fun hc_ => ?_); (on_goal 2 => (try clear_value s_)); unfold s_) | (refine canon_cut (s := s_.s) ?_ (fun hc_ => ?_); (on_goal 2 => (try clear_value s_)); unfold s_) | (refine canon_cut (s := s_.1) ?_ (fun hc_ => ?_); (on_goal 2 => (try clear_value s_)); unfold s_) | (refine canon_cut (s := s_.2) ?_ (fun hc_ => ?_); (on_goal 2 => (try clear_value s_)); unfold s_) | (refine canon_cut (s := s_.2.s) ?_ (fun hc_ => ?_); (on_goal 2 => (try clear_value s_)); unfold s_) | (refine canon_cut (s := s_.2.2) ?_ (fun hc_ => ?_); (on_goal 2 => (try clear_value s_)); unfold s_) | (refine canon_cut (s := s_.2.2.s) ?_ (fun hc_ => ?_); (on_goal 2 => (try clear_value s_)); unfold s_) | (refine canon_cut (s := s_.1.s) ?_ (fun hc_ => ?_); (on_goal 2 => (try clear_value s_)); unfold s_) | (refine canon_cut (s := s_.1.a.s) ?_ (fun hc_ => ?_); (on_goal 2 => (try clear_value s_)); unfold s_) | (refine canon_cut (s := s_.a.s) ?_ (fun hc_ => ?_); (on_goal 2 => (try clear_value s_)); unfold s_) | (refine canon_cut (s := s_.2.a.s) ?_ (fun hc_ => ?_); (on_goal 2 => (try clear_value s_)); unfold s_) | skip)
    | with_reducible apply canon_writeMap
    | with_reducible apply canon_modDec
    | with_reducible apply canon_count
    | with_reducible apply canon_mem
    | with_reducible apply canon_hostMem
    | with_reducible apply canon_regs
    | with_reducible apply wf_mwrite
    | with_reducible apply wf_mset
    | with_reducible apply wf_mfill
    | with_reducible apply wf_filter
    | with_reducible apply rwf_rset
    | with_reducible apply rwf_filter
    | with_reducible apply wf_nil
    | with_reducible apply rwf_nil
    | with_reducible apply canon_foldl
    | with_reducible apply canon_foldl_s
    | with_reducible apply canon_foldl_1
    | with_reducible apply canon_foldl_2
    | with_reducible apply canon_foldl_2s
    | with_reducible apply canon_foldl_22
    | with_reducible apply canon_foldl_22s
    | with_reducible apply canon_foldl_A
    | with_reducible apply canon_foldl_as
    | with_reducible apply canon_foldl_das
    | with_reducible apply canon_foldl_2das
    | with_reducible apply canon_foldl_1as
    | dsimp only
    | (intro s_ hc_; beta_reduce)
    | intro _
    | split
    | (simp only [canon_mk_iff]; refine ⟨?_, ?_, ?_⟩)
    | ((fail_if_no_progress clear_value *); split)
    | dsimp +zetaDelta only)

theorem canon_halfParsed (h : Nat) (s : State)  (hs : Canon s) : Canon (halfParsed h s) := by
  unfold halfParsed
  repeat' (first
    | with_reducible assumption
    | ((fail_if_no_progress extract_lets +onlyGivenNames s_); first | (refine canon_cut (s := s_) ?_ (fun hc_ => ?_); (on_goal 2 => (try clear_value s_)); unfold s_) | (refine canon_cut (s := s_.s) ?_ (fun hc_ => ?_); (on_goal 2 => (try clear_value s_)); unfold s_) | (refine canon_cut (s := s_.1) ?_ (fun hc_ => ?_); (on_goal 2 => (try clear_value s_)); unfold s_) | (refine canon_cut (s := s_.2) ?_ (fun hc_ => ?_); (on_goal 2 => (try clear_value s_)); unfold s_) | (refine canon_cut (s := s_.2.s) ?_ (fun hc_ => ?_); (on_goal 2 => (try clear_value s_)); unfold s_) | (refine canon_cut (s := s_.2.2) ?_ (fun hc_ => ?_); (on_goal 2 => (try clear_value s_)); unfold s_) | (refine canon_cut (s := s_.2.2.s) ?_ (fun hc_ => ?_); (on_goal 2 => (try clear_value s_)); unfold s_) | (refine canon_cut (s := s_.1.s) ?_ (fun hc_ => ?_); (on_goal 2 => (try clear_value s_)); unfold s_) | (refine canon_cut (s := s_.1.a.s) ?_ (fun hc_ => ?_); (on_goal 2 => (try clear_value s_)); unfold s_) | (refine canon_cut (s := s_.a.s) ?_ (fun hc_ => ?_); (on_goal 2 => (try clear_value s_)); unfold s_) | (refine canon_cut (s := s_.2.a.s) ?_ (fun hc_ => ?_); (on_goal 2 => (try clear_value s_)); unfold s_) | skip)
    | with_reducible apply canon_frameParsed
    | with_reducible apply canon_modDec
    | with_reducible apply canon_mem
    | with_reducible apply canon_hostMem
    | with_reducible apply canon_regs
    | with_reducible apply wf_mwrite
    | with_reducible apply wf_mset
    | with_reducible apply wf_mfill
    | with_reducible apply wf_filter
    | with_reducible apply rwf_rset
    | with_reducible apply rwf_filter
    | with_reducible apply wf_nil
    | with_reducible apply rwf_nil
    | with_reducible apply canon_foldl
    | with_reducible apply canon_foldl_s
    | with_reducible apply canon_foldl_1
    | with_reducible apply canon_foldl_2
    | with_reducible apply canon_foldl_2s
    | with_reducible apply canon_foldl_22
    | with_reducible apply canon_foldl_22s
    | with_reducible apply canon_foldl_A
    | with_reducible apply canon_foldl_as
    | with_reducible apply canon_foldl_das
    | with_reducible apply canon_foldl_2das
    | with_reducible apply canon_foldl_1as
    | dsimp only
    | (intro s_ hc_; beta_reduce)
    | intro _
    | split
    | (simp only [canon_mk_iff]; refine ⟨?_, ?_, ?_⟩)
    | ((fail_if_no_progress clear_value *); split)
    | dsimp +zetaDelta only)

theorem canon_flushHalf (h : Nat) (s : State)  (hs : Canon s) : Canon (flushHalf h s) := by
  unfold flushHalf
  repeat' (first
    | with_reducible assumption
    | ((fail_if_no_progress extract_lets +onlyGivenNames s_); first | (refine canon_cut (s := s_) ?_ (fun hc_ => ?_); (on_goal 2 => (try clear_value s_)); unfold s_) | (refine canon_cut (s := s_.s) ?_ (fun hc_ => ?_); (on_goal 2 => (try clear_value s_)); unfold s_) | (refine canon_cut (s := s_.1) ?_ (fun hc_ => ?_); (on_goal 2 => (try clear_value s_)); unfold s_) | (refine canon_cut (s := s_.2) ?_ (fun hc_ => ?_); (on_goal 2 => (try clear_value s_)); unfold s_) | (refine canon_cut (s := s_.2.s) ?_ (fun hc_ => ?_); (on_goal 2 => (try clear_value s_)); unfold s_) | (refine canon_cut (s := s_.2.2) ?_ (fun hc_ => ?_); (on_goal 2 => (try clear_value s_)); unfold s_) | (refine canon_cut (s := s_.2.2.s) ?_ (fun hc_ => ?_); (on_goal 2 => (try clear_value s_)); unfold s_) | (refine canon_cut (s := s_.1.s) ?_ (fun hc_ => ?_); (on_goal 2 => (try clear_value s_)); unfold s_) | (refine canon_cut (s := s_.1.a.s) ?_ (fun hc_ => ?_); (on_goal 2 => (try clear_value s_)); unfold s_) | (refine canon_cut (s := s_.a.s) ?_ (fun hc_ => ?_); (on_goal 2 => (try clear_value s_)); unfold s_) | (refine canon_cut (s := s_.2.a.s) ?_ (fun hc_ => ?_); (on_goal 2 => (try clear_value s_)); unfold s_) | skip)
    | with_reducible apply canon_halfParsed
    | with_reducible apply canon_mem
    | with_reducible apply canon_hostMem
    | with_reducible apply canon_regs
    | with_reducible apply wf_mwrite
    | with_reducible apply wf_mset
    | with_reducible apply wf_mfill
    | with_reducible apply wf_filter
    | with_reducible apply rwf_rset
    | with_reducible apply rwf_filter
    | with_reducible apply wf_nil
    | with_reducible apply rwf_nil
    | with_reducible apply canon_foldl
    | with_reducible apply canon_foldl_s
    | with_reducible apply canon_foldl_1
    | with_reducible apply canon_foldl_2
    | with_reducible apply canon_foldl_2s
    | with_reducible apply canon_foldl_22
    | with_reducible apply canon_foldl_22s
    | with_reducible apply canon_foldl_A
    | with_reducible apply canon_foldl_as
    | with_reducible apply canon_foldl_das
    | with_reducible apply canon_foldl_2das
    | with_reducible apply canon_foldl_1as
    | dsimp only
    | (intro s_ hc_; beta_reduce)
    | intro _
    | split
    | (simp only [canon_mk_iff]; refine ⟨?_, ?_, ?_⟩)
    | ((fail_if_no_progress clear_value *); split)
    | dsimp +zetaDelta only)

theorem canon_flushStream (h : Nat) (s : State)  (hs : Canon s) : Canon (flushStream h s) := by
  unfold flushStream
  repeat' (first
    | with_reducible assumption
    | ((fail_if_no_progress extract_lets +onlyGivenNames s_); first | (refine canon_cut (s := s_) ?_ (fun hc_ => ?_); (on_goal 2 => (try clear_value s_)); unfold s_) | skip)
    | with_reducible apply canon_settle | with_reducible apply canon_flushHalf | with_reducible apply canon_modDec | with_reducible apply canon_mem
    | with_reducible apply canon_hostMem | with_reducible apply canon_regs | with_reducible apply canon_foldl | dsimp only
    | (intro s_ hc_; beta_reduce) | intro _ | split | (simp only [canon_mk_iff]; refine ⟨?_, ?_, ?_⟩))

theorem canon_decodeDb (fn : Fn) (h : Nat) (x : Stream) (v : W64) (ends : List W32) (s : State)  (hs : Canon s) : Canon (decodeDb fn h x v ends s) := by
  unfold decodeDb
  repeat' (first
    | with_reducible assumption
    | ((fail_if_no_progress extract_lets +onlyGivenNames s_); first | (refine canon_cut (s := s_) ?_ (fun hc_ => ?_); (on_goal 2 => (try clear_value s_)); unfold s_) | skip)
    | with_reducible apply canon_dropCmd | with_reducible apply canon_mirrorInput | with_reducible apply canon_modStream
    | with_reducible apply canon_writeStat | with_reducible apply canon_flushStream | with_reducible apply canon_mem
    | with_reducible apply canon_hostMem | with_reducible apply canon_regs | with_reducible apply canon_foldl | dsimp only
    | (intro s_ hc_; beta_reduce) | intro _ | split | (simp only [canon_mk_iff]; refine ⟨?_, ?_, ?_⟩))

theorem canon_parseStart (h engine : Nat) (s : State)  (hs : Canon s) : Canon (parseStart h engine s) := by
  unfold parseStart
  repeat' (first
    | with_reducible assumption
    | ((fail_if_no_progress extract_lets +onlyGivenNames s_); first | (refine canon_cut (s := s_) ?_ (fun hc_ => ?_); (on_goal 2 => (try clear_value s_)); unfold s_) | skip)
    | with_reducible apply canon_modStream | with_reducible apply canon_mem | with_reducible apply canon_hostMem | with_reducible apply canon_regs
    | split | (simp only [canon_mk_iff]; refine ⟨?_, ?_, ?_⟩))

theorem canon_dropRefs (h : Nat) (s : State)  (hs : Canon s) : Canon (dropRefs h s) := by
  unfold dropRefs
  repeat' (first
    | with_reducible assumption | with_reducible apply canon_setMark | with_reducible apply canon_foldl | (intro s_ hc_; beta_reduce) | intro _)

theorem canon_exceedContext (h : Nat) (log : Bool) (s : State)  (hs : Canon s) : Canon (exceedContext h log s) := by
  unfold exceedContext
  repeat' (first
    | with_reducible assumption
    | ((fail_if_no_progress extract_lets +onlyGivenNames s_); (refine canon_cut (s := s_) ?_ (fun hc_ => ?_); (on_goal 2 => (try clear_value s_)); unfold s_))
    | with_reducible apply canon_dropRefs | with_reducible apply canon_modStream | with_reducible apply canon_reportUnnamed
    | with_reducible apply canon_count | split)

theorem canon_mediaPoison (h off : Nat) (ks : List Nat) (s : State)  (hs : Canon s) : Canon (mediaPoison h off ks s) := by
  unfold mediaPoison
  repeat' (first
    | with_reducible assumption
    | ((fail_if_no_progress extract_lets +onlyGivenNames s_); first | (refine canon_cut (s := s_) ?_ (fun hc_ => ?_); (on_goal 2 => (try clear_value s_)); unfold s_) | skip)
    | with_reducible apply canon_count | with_reducible apply canon_reportUnnamed | with_reducible apply canon_errUncorrectable
    | with_reducible apply canon_lostTaken | with_reducible apply canon_mem | with_reducible apply canon_hostMem | with_reducible apply canon_regs
    | with_reducible apply canon_foldl | dsimp only | (intro s_ hc_; beta_reduce) | intro _ | split | (simp only [canon_mk_iff]; refine ⟨?_, ?_, ?_⟩))

theorem canon_mediaRead (h off : Nat) (a n : Nat) (s : State)  (hs : Canon s) : Canon (mediaRead h off a n s).1 := by
  unfold mediaRead
  repeat' (first
    | with_reducible assumption
    | ((fail_if_no_progress extract_lets +onlyGivenNames s_); first | (refine canon_cut (s := s_) ?_ (fun hc_ => ?_); (on_goal 2 => (try clear_value s_)); unfold s_) | (refine canon_cut (s := s_.s) ?_ (fun hc_ => ?_); (on_goal 2 => (try clear_value s_)); unfold s_) | (refine canon_cut (s := s_.1) ?_ (fun hc_ => ?_); (on_goal 2 => (try clear_value s_)); unfold s_) | (refine canon_cut (s := s_.2) ?_ (fun hc_ => ?_); (on_goal 2 => (try clear_value s_)); unfold s_) | (refine canon_cut (s := s_.2.s) ?_ (fun hc_ => ?_); (on_goal 2 => (try clear_value s_)); unfold s_) | (refine canon_cut (s := s_.2.2) ?_ (fun hc_ => ?_); (on_goal 2 => (try clear_value s_)); unfold s_) | (refine canon_cut (s := s_.2.2.s) ?_ (fun hc_ => ?_); (on_goal 2 => (try clear_value s_)); unfold s_) | (refine canon_cut (s := s_.1.s) ?_ (fun hc_ => ?_); (on_goal 2 => (try clear_value s_)); unfold s_) | (refine canon_cut (s := s_.1.a.s) ?_ (fun hc_ => ?_); (on_goal 2 => (try clear_value s_)); unfold s_) | (refine canon_cut (s := s_.a.s) ?_ (fun hc_ => ?_); (on_goal 2 => (try clear_value s_)); unfold s_) | (refine canon_cut (s := s_.2.a.s) ?_ (fun hc_ => ?_); (on_goal 2 => (try clear_value s_)); unfold s_) | skip)
    | with_reducible apply canon_mediaPoison
    | with_reducible apply canon_countAccess
    | with_reducible apply canon_lostTaken
    | with_reducible apply canon_mem
    | with_reducible apply canon_hostMem
    | with_reducible apply canon_regs
    | with_reducible apply wf_mwrite
    | with_reducible apply wf_mset
    | with_reducible apply wf_mfill
    | with_reducible apply wf_filter
    | with_reducible apply rwf_rset
    | with_reducible apply rwf_filter
    | with_reducible apply wf_nil
    | with_reducible apply rwf_nil
    | with_reducible apply canon_foldl
    | with_reducible apply canon_foldl_s
    | with_reducible apply canon_foldl_1
    | with_reducible apply canon_foldl_2
    | with_reducible apply canon_foldl_2s
    | with_reducible apply canon_foldl_22
    | with_reducible apply canon_foldl_22s
    | with_reducible apply canon_foldl_A
    | with_reducible apply canon_foldl_as
    | with_reducible apply canon_foldl_das
    | with_reducible apply canon_foldl_2das
    | with_reducible apply canon_foldl_1as
    | dsimp only
    | (intro s_ hc_; beta_reduce)
    | intro _
    | split
    | (simp only [canon_mk_iff]; refine ⟨?_, ?_, ?_⟩)
    | ((fail_if_no_progress clear_value *); split)
    | dsimp +zetaDelta only)

theorem canon_mediaRead_eq {h off : Nat} {a n : Nat} {s : State}  {v0_} {v1_} (he_ : mediaRead h off a n s = (v0_, v1_)) (hs : Canon s) :
    Canon v0_ := by
  have := canon_mediaRead h off a n s  hs
  rw [he_] at this
  exact this

theorem canon_unitRead (h : Nat) (par : List Byte) (i : W32) (n : Nat) (s : State)  (hs : Canon s) : Canon (unitRead h par i n s).1 := by
  unfold unitRead
  repeat' (first
    | with_reducible assumption
    | ((fail_if_no_progress extract_lets +onlyGivenNames s_); first | (refine canon_cut (s := s_) ?_ (fun hc_ => ?_); (on_goal 2 => (try clear_value s_)); unfold s_) | (refine canon_cut (s := s_.s) ?_ (fun hc_ => ?_); (on_goal 2 => (try clear_value s_)); unfold s_) | (refine canon_cut (s := s_.1) ?_ (fun hc_ => ?_); (on_goal 2 => (try clear_value s_)); unfold s_) | (refine canon_cut (s := s_.2) ?_ (fun hc_ => ?_); (on_goal 2 => (try clear_value s_)); unfold s_) | (refine canon_cut (s := s_.2.s) ?_ (fun hc_ => ?_); (on_goal 2 => (try clear_value s_)); unfold s_) | (refine canon_cut (s := s_.2.2) ?_ (fun hc_ => ?_); (on_goal 2 => (try clear_value s_)); unfold s_) | (refine canon_cut (s := s_.2.2.s) ?_ (fun hc_ => ?_); (on_goal 2 => (try clear_value s_)); unfold s_) | (refine canon_cut (s := s_.1.s) ?_ (fun hc_ => ?_); (on_goal 2 => (try clear_value s_)); unfold s_) | (refine canon_cut (s := s_.1.a.s) ?_ (fun hc_ => ?_); (on_goal 2 => (try clear_value s_)); unfold s_) | (refine canon_cut (s := s_.a.s) ?_ (fun hc_ => ?_); (on_goal 2 => (try clear_value s_)); unfold s_) | (refine canon_cut (s := s_.2.a.s) ?_ (fun hc_ => ?_); (on_goal 2 => (try clear_value s_)); unfold s_) | skip)
    | with_reducible apply canon_mediaRead
    | with_reducible refine canon_mediaRead_eq (by assumption) ?_
    | with_reducible apply canon_mem
    | with_reducible apply canon_hostMem
    | with_reducible apply canon_regs
    | with_reducible apply wf_mwrite
    | with_reducible apply wf_mset
    | with_reducible apply wf_mfill
    | with_reducible apply wf_filter
    | with_reducible apply rwf_rset
    | with_reducible apply rwf_filter
    | with_reducible apply wf_nil
    | with_reducible apply rwf_nil
    | with_reducible apply canon_foldl
    | with_reducible apply canon_foldl_s
    | with_reducible apply canon_foldl_1
    | with_reducible apply canon_foldl_2
    | with_reducible apply canon_foldl_2s
    | with_reducible apply canon_foldl_22
    | with_reducible apply canon_foldl_22s
    | with_reducible apply canon_foldl_A
    | with_reducible apply canon_foldl_as
    | with_reducible apply canon_foldl_das
    | with_reducible apply canon_foldl_2das
    | with_reducible apply canon_foldl_1as
    | dsimp only
    | (intro s_ hc_; beta_reduce)
    | intro _
    | split
    | (simp only [canon_mk_iff]; refine ⟨?_, ?_, ?_⟩)
    | ((fail_if_no_progress clear_value *); split)
    | dsimp +zetaDelta only)

theorem canon_unitRead_eq {h : Nat} {par : List Byte} {i : W32} {n : Nat} {s : State}  {v0_} {v1_} (he_ : unitRead h par i n s = (v0_, v1_)) (hs : Canon s) :
    Canon v0_ := by
  have := canon_unitRead h par i n s  hs
  rw [he_] at this
  exact this

theorem canon_unitPos (h : Nat) (rap : Bool) (start : W32) (s : State)  (hs : Canon s) : Canon (unitPos h rap start s) := by
  unfold unitPos
  repeat' (first
    | with_reducible assumption
    | ((fail_if_no_progress extract_lets +onlyGivenNames s_); first | (refine canon_cut (s := s_) ?_ (fun hc_ => ?_); (on_goal 2 => (try clear_value s_)); unfold s_) | (refine canon_cut (s := s_.s) ?_ (fun hc_ => ?_); (on_goal 2 => (try clear_value s_)); unfold s_) | (refine canon_cut (s := s_.1) ?_ (fun hc_ => ?_); (on_goal 2 => (try clear_value s_)); unfold s_) | (refine canon_cut (s := s_.2) ?_ (fun hc_ => ?_); (on_goal 2 => (try clear_value s_)); unfold s_) | (refine canon_cut (s := s_.2.s) ?_ (fun hc_ => ?_); (on_goal 2 => (try clear_value s_)); unfold s_) | (refine canon_cut (s := s_.2.2) ?_ (fun hc_ => ?_); (on_goal 2 => (try clear_value s_)); unfold s_) | (refine canon_cut (s := s_.2.2.s) ?_ (fun hc_ => ?_); (on_goal 2 => (try clear_value s_)); unfold s_) | (refine canon_cut (s := s_.1.s) ?_ (fun hc_ => ?_); (on_goal 2 => (try clear_value s_)); unfold s_) | (refine canon_cut (s := s_.1.a.s) ?_ (fun hc_ => ?_); (on_goal 2 => (try clear_value s_)); unfold s_) | (refine canon_cut (s := s_.a.s) ?_ (fun hc_ => ?_); (on_goal 2 => (try clear_value s_)); unfold s_) | (refine canon_cut (s := s_.2.a.s) ?_ (fun hc_ => ?_); (on_goal 2 => (try clear_value s_)); unfold s_) | skip)
    | with_reducible apply canon_sendPos
    | with_reducible apply canon_modDec
    | with_reducible apply canon_mem
    | with_reducible apply canon_hostMem
    | with_reducible apply canon_regs
    | with_reducible apply wf_mwrite
    | with_reducible apply wf_mset
    | with_reducible apply wf_mfill
    | with_reducible apply wf_filter
    | with_reducible apply rwf_rset
    | with_reducible apply rwf_filter
    | with_reducible apply wf_nil
    | with_reducible apply rwf_nil
    | with_reducible apply canon_foldl
    | with_reducible apply canon_foldl_s
    | with_reducible apply canon_foldl_1
    | with_reducible apply canon_foldl_2
    | with_reducible apply canon_foldl_2s
    | with_reducible apply canon_foldl_22
    | with_reducible apply canon_foldl_22s
    | with_reducible apply canon_foldl_A
    | with_reducible apply canon_foldl_as
    | with_reducible apply canon_foldl_das
    | with_reducible apply canon_foldl_2das
    | with_reducible apply canon_foldl_1as
    | dsimp only
    | (intro s_ hc_; beta_reduce)
    | intro _
    | split
    | (simp only [canon_mk_iff]; refine ⟨?_, ?_, ?_⟩)
    | ((fail_if_no_progress clear_value *); split)
    | dsimp +zetaDelta only)

theorem canon_pictureParsed (h : Nat) (f : HalfFrame) (r : AuResult) (s : State)  (hs : Canon s) : Canon (pictureParsed h f r s) := by
  unfold pictureParsed
  repeat' (first
    | with_reducible assumption
    | ((fail_if_no_progress extract_lets +onlyGivenNames s_); first | (refine canon_cut (s := s_) ?_ (fun hc_ => ?_); (on_goal 2 => (try clear_value s_)); unfold s_) | (refine canon_cut (s := s_.s) ?_ (fun hc_ => ?_); (on_goal 2 => (try clear_value s_)); unfold s_) | (refine canon_cut (s := s_.1) ?_ (fun hc_ => ?_); (on_goal 2 => (try clear_value s_)); unfold s_) | (refine canon_cut (s := s_.2) ?_ (fun hc_ => ?_); (on_goal 2 => (try clear_value s_)); unfold s_) | (refine canon_cut (s := s_.2.s) ?_ (fun hc_ => ?_); (on_goal 2 => (try clear_value s_)); unfold s_) | (refine canon_cut (s := s_.2.2) ?_ (fun hc_ => ?_); (on_goal 2 => (try clear_value s_)); unfold s_) | (refine canon_cut (s := s_.2.2.s) ?_ (fun hc_ => ?_); (on_goal 2 => (try clear_value s_)); unfold s_) | (refine canon_cut (s := s_.1.s) ?_ (fun hc_ => ?_); (on_goal 2 => (try clear_value s_)); unfold s_) | (refine canon_cut (s := s_.1.a.s) ?_ (fun hc_ => ?_); (on_goal 2 => (try clear_value s_)); unfold s_) | (refine canon_cut (s := s_.a.s) ?_ (fun hc_ => ?_); (on_goal 2 => (try clear_value s_)); unfold s_) | (refine canon_cut (s := s_.2.a.s) ?_ (fun hc_ => ?_); (on_goal 2 => (try clear_value s_)); unfold s_) | skip)
    | with_reducible apply canon_unitPos
    | with_reducible apply canon_frameParsed
    | with_reducible apply canon_modDec
    | with_reducible apply canon_mem
    | with_reducible apply canon_hostMem
    | with_reducible apply canon_regs
    | with_reducible apply wf_mwrite
    | with_reducible apply wf_mset
    | with_reducible apply wf_mfill
    | with_reducible apply wf_filter
    | with_reducible apply rwf_rset
    | with_reducible apply rwf_filter
    | with_reducible apply wf_nil
    | with_reducible apply rwf_nil
    | with_reducible apply canon_foldl
    | with_reducible apply canon_foldl_s
    | with_reducible apply canon_foldl_1
    | with_reducible apply canon_foldl_2
    | with_reducible apply canon_foldl_2s
    | with_reducible apply canon_foldl_22
    | with_reducible apply canon_foldl_22s
    | with_reducible apply canon_foldl_A
    | with_reducible apply canon_foldl_as
    | with_reducible apply canon_foldl_das
    | with_reducible apply canon_foldl_2das
    | with_reducible apply canon_foldl_1as
    | dsimp only
    | (intro s_ hc_; beta_reduce)
    | intro _
    | split
    | (simp only [canon_mk_iff]; refine ⟨?_, ?_, ?_⟩)
    | ((fail_if_no_progress clear_value *); split)
    | dsimp +zetaDelta only)

theorem canon_parsePicture (h : Nat) (p : Parsing) (r : AuResult) (ecc : Bool) (s : State)  (hs : Canon s) : Canon (parsePicture h p r ecc s) := by
  unfold parsePicture
  repeat' (first
    | with_reducible assumption
    | ((fail_if_no_progress extract_lets +onlyGivenNames s_); first | (refine canon_cut (s := s_) ?_ (fun hc_ => ?_); (on_goal 2 => (try clear_value s_)); unfold s_) | skip)
    | with_reducible apply canon_halfParsed | with_reducible apply canon_exceedContext | with_reducible apply canon_unitPos
    | with_reducible apply canon_count | with_reducible apply canon_modStream | with_reducible apply canon_pictureParsed
    | with_reducible apply canon_mem | with_reducible apply canon_hostMem | with_reducible apply canon_regs | with_reducible apply canon_foldl
    | dsimp only | (intro s_ hc_; beta_reduce) | intro _ | split | (simp only [canon_mk_iff]; refine ⟨?_, ?_, ?_⟩))

theorem canon_parseRows (h : Nat) (x : Stream) (p : Parsing) (r : AuResult) (ecc : Bool) (s : State)  (hs : Canon s) : Canon (parseRows h x p r ecc s) := by
  unfold parseRows
  repeat' (first
    | with_reducible assumption
    | ((fail_if_no_progress extract_lets +onlyGivenNames s_); first | (refine canon_cut (s := s_) ?_ (fun hc_ => ?_); (on_goal 2 => (try clear_value s_)); unfold s_) | skip)
    | with_reducible apply canon_unitPos | with_reducible apply canon_count | with_reducible apply canon_exceedContext
    | with_reducible apply canon_parsePicture | with_reducible apply canon_mem | with_reducible apply canon_hostMem | with_reducible apply canon_regs
    | with_reducible apply canon_foldl | dsimp only | (intro s_ hc_; beta_reduce) | intro _ | split | (simp only [canon_mk_iff]; refine ⟨?_, ?_, ?_⟩))

theorem canon_closeStep (h : Nat) (s : State)  (hs : Canon s) : Canon (closeStep h s) := by
  unfold closeStep
  repeat' (first
    | with_reducible assumption
    | ((fail_if_no_progress extract_lets +onlyGivenNames s_); (refine canon_cut (s := s_) ?_ (fun hc_ => ?_); (on_goal 2 => (try clear_value s_)); unfold s_))
    | with_reducible apply canon_writeStat | with_reducible apply canon_modStream | with_reducible apply canon_sendClose
    | with_reducible apply canon_reclaim | with_reducible apply canon_setBit | with_reducible apply canon_mem | with_reducible apply canon_hostMem
    | with_reducible apply canon_regs | dsimp only | split | (simp only [canon_mk_iff]; refine ⟨?_, ?_, ?_⟩))

theorem canon_parseDone (h : Nat) (r : AuResult) (s : State)  (hs : Canon s) : Canon (parseDone h r s) := by
  unfold parseDone
  repeat' (first
    | with_reducible assumption
    | ((fail_if_no_progress extract_lets +onlyGivenNames s_); first | (refine canon_cut (s := s_) ?_ (fun hc_ => ?_); (on_goal 2 => (try clear_value s_)); unfold s_) | skip)
    | with_reducible apply canon_unitRead | with_reducible refine canon_unitRead_eq (by assumption) ?_ | with_reducible apply canon_parseRows
    | with_reducible apply canon_mediaPoison | with_reducible apply canon_modDec | with_reducible apply canon_flushHalf
    | with_reducible apply canon_closeStep | with_reducible apply canon_writeStat | with_reducible apply canon_settle
    | with_reducible apply canon_consume | with_reducible apply canon_mem | with_reducible apply canon_hostMem | with_reducible apply canon_regs
    | with_reducible apply canon_foldl | dsimp only | (intro s_ hc_; beta_reduce) | intro _ | split | (simp only [canon_mk_iff]; refine ⟨?_, ?_, ?_⟩))

theorem canon_reconDecision (h : Nat) (s : State)  (hs : Canon s) : Canon (reconDecision h s) := by
  unfold reconDecision
  repeat' (first
    | with_reducible assumption
    | ((fail_if_no_progress extract_lets +onlyGivenNames s_); first | (refine canon_cut (s := s_) ?_ (fun hc_ => ?_); (on_goal 2 => (try clear_value s_)); unfold s_) | skip)
    | with_reducible apply canon_modDec | with_reducible apply canon_count | with_reducible apply canon_writeStat | with_reducible apply canon_settle
    | with_reducible apply canon_mem | with_reducible apply canon_hostMem | with_reducible apply canon_regs | with_reducible apply canon_foldl
    | dsimp only | (intro s_ hc_; beta_reduce) | intro _ | split | (simp only [canon_mk_iff]; refine ⟨?_, ?_, ?_⟩))

theorem canon_reconReq (fn : Fn) (h : Nat) (next : Bool) (num : W32) (s : State)  (hs : Canon s) : Canon (reconReq fn h next num s) := by
  unfold reconReq
  repeat' (first
    | with_reducible assumption | (fail_if_no_progress extract_lets +onlyGivenNames s_) | with_reducible apply canon_dropCmd
    | with_reducible apply canon_denied | with_reducible apply canon_count | with_reducible apply canon_modDec | dsimp only | split)

theorem canon_applyRefs (h : Nat) (rs : List RefChange) (s : State)  (hs : Canon s) : Canon (applyRefs h rs s) := by
  unfold applyRefs
  repeat' (first
    | with_reducible assumption | with_reducible apply canon_setMark | with_reducible apply canon_foldl | dsimp only | (intro s_ hc_; beta_reduce)
    | intro _ | split)

theorem canon_pixelStart (h pipe b : Nat) (rs : List RefChange) (s : State)  (hs : Canon s) : Canon (pixelStart h pipe b rs s) := by
  unfold pixelStart
  repeat' (first
    | with_reducible assumption
    | ((fail_if_no_progress extract_lets +onlyGivenNames s_); first | (refine canon_cut (s := s_) ?_ (fun hc_ => ?_); (on_goal 2 => (try clear_value s_)); unfold s_) | skip)
    | with_reducible apply canon_applyRefs | with_reducible apply canon_modBuf | with_reducible apply canon_modDec | with_reducible apply canon_mem
    | with_reducible apply canon_hostMem | with_reducible apply canon_regs | split | (simp only [canon_mk_iff]; refine ⟨?_, ?_, ?_⟩))

theorem canon_putRows (n pitch : Nat) (x0 : Nat) (x1 : Nat) (x2 : List Byte) (x3 : State) (hx3 : Canon x3) : Canon (putRows n pitch x0 x1 x2 x3) := by
  induction x0 generalizing x1 x2 x3 with
  | zero =>
    unfold putRows
    repeat' (first
        | with_reducible assumption | with_reducible apply canon_engWrite)
  | succ n ih =>
    unfold putRows
    repeat' (first
        | with_reducible assumption | with_reducible apply ih | with_reducible apply canon_engWrite)

theorem canon_putPicture (par : List Byte) (addr w h : Nat) (luma chroma : List Byte) (s : State)  (hs : Canon s) : Canon (putPicture par addr w h luma chroma s) := by
  unfold putPicture
  repeat' (first
    | with_reducible assumption
    | ((fail_if_no_progress extract_lets +onlyGivenNames s_); first | (refine canon_cut (s := s_) ?_ (fun hc_ => ?_); (on_goal 2 => (try clear_value s_)); unfold s_) | skip)
    | with_reducible apply canon_putRows)

theorem canon_reconDone (h pipe : Nat) (r : ReconResult) (s : State)  (hs : Canon s) : Canon (reconDone h pipe r s) := by
  unfold reconDone
  repeat' (first
    | with_reducible assumption
    | ((fail_if_no_progress extract_lets +onlyGivenNames s_); first | (refine canon_cut (s := s_) ?_ (fun hc_ => ?_); (on_goal 2 => (try clear_value s_)); unfold s_) | skip)
    | with_reducible apply canon_mediaPoison | with_reducible apply canon_putPicture | with_reducible apply canon_modBuf
    | with_reducible apply canon_applyRefs | with_reducible apply canon_setMark | with_reducible apply canon_modDec
    | with_reducible apply canon_closeStep | with_reducible apply canon_writeStat | with_reducible apply canon_settle | dsimp only | split)

theorem canon_startWait (h : Nat) (s : State)  (hs : Canon s) : Canon (startWait h s) := by
  unfold startWait
  repeat' (first
    | with_reducible assumption | with_reducible apply canon_modStream)

theorem canon_endWait (h : Nat) (s : State)  (hs : Canon s) : Canon (endWait h s) := by
  unfold endWait
  repeat' (first
    | with_reducible assumption | with_reducible apply canon_count | with_reducible apply canon_modStream | split)

theorem canon_frameEmit (h b : Nat) (s : State)  (hs : Canon s) : Canon (frameEmit h b s) := by
  unfold frameEmit
  repeat' (first
    | with_reducible assumption
    | ((fail_if_no_progress extract_lets +onlyGivenNames s_); first | (refine canon_cut (s := s_) ?_ (fun hc_ => ?_); (on_goal 2 => (try clear_value s_)); unfold s_) | skip)
    | with_reducible apply canon_startWait | with_reducible apply canon_endWait | with_reducible apply canon_emitFrame
    | with_reducible apply canon_modDec | with_reducible apply canon_writeStat | with_reducible apply canon_settle | with_reducible apply canon_count
    | dsimp only | split)

theorem canon_execAuParseStart (h : Fin 1024) (engine : Fin 8) (s : State) (hs : Canon s) : OutCanon (execAuParseStart h engine s) := by
  unfold execAuParseStart
  repeat' (first
    | with_reducible assumption | with_reducible apply canon_running | with_reducible apply canon_parseStart)

theorem canon_execAuParseDone (h : Fin 1024) (r : AuResult) (s : State) (hs : Canon s) : OutCanon (execAuParseDone h r s) := by
  unfold execAuParseDone
  repeat' (first
    | with_reducible assumption | with_reducible apply canon_running | with_reducible apply canon_parseDone)

theorem canon_execReconDecision (h : Fin 1024) (s : State) (hs : Canon s) : OutCanon (execReconDecision h s) := by
  unfold execReconDecision
  repeat' (first
    | with_reducible assumption | with_reducible apply canon_running | with_reducible apply canon_reconDecision)

theorem canon_execPixelFrameStart (h : Fin 1024) (pipe : Fin 16) (buf : Fin 16384) (refs : List RefChange) (s : State) (hs : Canon s) : OutCanon (execPixelFrameStart h pipe buf refs s) := by
  unfold execPixelFrameStart
  repeat' (first
    | with_reducible assumption | with_reducible apply canon_running | with_reducible apply canon_pixelStart)

theorem canon_execReconDone (h : Fin 1024) (pipe : Fin 16) (r : ReconResult) (s : State) (hs : Canon s) : OutCanon (execReconDone h pipe r s) := by
  unfold execReconDone
  repeat' (first
    | with_reducible assumption | with_reducible apply canon_running | with_reducible apply canon_reconDone)

theorem canon_execFrameEmit (h : Fin 1024) (buf : Fin 16384) (s : State) (hs : Canon s) : OutCanon (execFrameEmit h buf s) := by
  unfold execFrameEmit
  repeat' (first
    | with_reducible assumption | with_reducible apply canon_running | with_reducible apply canon_frameEmit)

theorem canon_execReconReq (fn : Fn) (h : Fin 1024) (next : Bool) (num : W32) (s : State) (hs : Canon s) : OutCanon (execReconReq fn h next num s) := by
  unfold execReconReq
  repeat' (first
    | with_reducible assumption | with_reducible apply canon_live | with_reducible apply canon_orRecord | with_reducible apply canon_reconReq
    | (intro s_ hc_; beta_reduce))

end Sys2Proof.Machine
end

