-- ==== Sys2Proof/Laws/Canon/Encode.lean ====
section
/-!
SUPPORT. The operations and meanings of Machine/Encode.lean keep the canonical form of the memories and of the register file.
-/
set_option linter.all false
namespace Sys2Proof.Machine

theorem canon_encodeDb (fn : Fn) (h : Nat) (x : Stream) (v : W64) (s : State)  (hs : Canon s) : Canon (encodeDb fn h x v s) := by
  unfold encodeDb
  repeat' (first
    | with_reducible assumption
    | ((fail_if_no_progress extract_lets +onlyGivenNames s_); first | (refine canon_cut (s := s_) ?_ (fun hc_ => ?_); (on_goal 2 => (try clear_value s_)); unfold s_) | skip)
    | with_reducible apply canon_modEnc | with_reducible apply canon_setMark | with_reducible apply canon_count | with_reducible apply canon_dropCmd
    | split)

theorem canon_mediaDb (fn : Fn) (h : Nat) (v : W64) (ends : List W32) (s : State)  (hs : Canon s) : Canon (mediaDb fn h v ends s) := by
  unfold mediaDb
  repeat' (first
    | with_reducible assumption | with_reducible apply canon_dropCmd | with_reducible apply canon_denied | with_reducible apply canon_decodeDb
    | with_reducible apply canon_encodeDb | split)

theorem canon_encStart (h pipe recon : Nat) (s : State)  (hs : Canon s) : Canon (encStart h pipe recon s) := by
  unfold encStart
  repeat' (first
    | with_reducible assumption
    | ((fail_if_no_progress extract_lets +onlyGivenNames s_); first | (refine canon_cut (s := s_) ?_ (fun hc_ => ?_); (on_goal 2 => (try clear_value s_)); unfold s_) | skip)
    | with_reducible apply canon_startWait | with_reducible apply canon_endWait | with_reducible apply canon_modBuf
    | with_reducible apply canon_modStream | with_reducible apply canon_mem | with_reducible apply canon_hostMem | with_reducible apply canon_regs
    | split | (simp only [canon_mk_iff]; refine ⟨?_, ?_, ?_⟩))

theorem canon_sourceRead (h : Nat) (y : Buf) (w lines : Nat) (s : State)  (hs : Canon s) : Canon (sourceRead h y w lines s).1 := by
  unfold sourceRead
  repeat' (first
    | with_reducible assumption
    | ((fail_if_no_progress extract_lets +onlyGivenNames s_); first | (refine canon_cut (s := s_) ?_ (fun hc_ => ?_); (on_goal 2 => (try clear_value s_)); unfold s_) | (refine canon_cut (s := s_.s) ?_ (fun hc_ => ?_); (on_goal 2 => (try clear_value s_)); unfold s_) | (refine canon_cut (s := s_.1) ?_ (fun hc_ => ?_); (on_goal 2 => (try clear_value s_)); unfold s_) | (refine canon_cut (s := s_.2) ?_ (fun hc_ => ?_); (on_goal 2 => (try clear_value s_)); unfold s_) | (refine canon_cut (s := s_.2.s) ?_ (fun hc_ => ?_); (on_goal 2 => (try clear_value s_)); unfold s_) | (refine canon_cut (s := s_.2.2) ?_ (fun hc_ => ?_); (on_goal 2 => (try clear_value s_)); unfold s_) | (refine canon_cut (s := s_.2.2.s) ?_ (fun hc_ => ?_); (on_goal 2 => (try clear_value s_)); unfold s_) | (refine canon_cut (s := s_.1.s) ?_ (fun hc_ => ?_); (on_goal 2 => (try clear_value s_)); unfold s_) | (refine canon_cut (s := s_.1.a.s) ?_ (fun hc_ => ?_); (on_goal 2 => (try clear_value s_)); unfold s_) | (refine canon_cut (s := s_.a.s) ?_ (fun hc_ => ?_); (on_goal 2 => (try clear_value s_)); unfold s_) | (refine canon_cut (s := s_.2.a.s) ?_ (fun hc_ => ?_); (on_goal 2 => (try clear_value s_)); unfold s_) | skip)
    | with_reducible apply canon_mediaRead
    | with_reducible refine canon_mediaRead_eq (by assumption) ?_
    | with_reducible apply canon_mem
    | with_reducible apply canon_hostMem
    | with_reducible apply canon_regs
    | with_reducible apply wf_mwrite
    | with_reducible apply wf_mset
    | with_reducible apply wf_mfill
    | with_reducible apply wf_filter
    | with_reducible apply rwf_rset
    | with_reducible apply rwf_filter
    | with_reducible apply wf_nil
    | with_reducible apply rwf_nil
    | with_reducible apply canon_foldl
    | with_reducible apply canon_foldl_s
    | with_reducible apply canon_foldl_1
    | with_reducible apply canon_foldl_2
    | with_reducible apply canon_foldl_2s
    | with_reducible apply canon_foldl_22
    | with_reducible apply canon_foldl_22s
    | with_reducible apply canon_foldl_A
    | with_reducible apply canon_foldl_as
    | with_reducible apply canon_foldl_das
    | with_reducible apply canon_foldl_2das
    | with_reducible apply canon_foldl_1as
    | dsimp only
    | (intro s_ hc_; beta_reduce)
    | intro _
    | split
    | (simp only [canon_mk_iff]; refine ⟨?_, ?_, ?_⟩)
    | ((fail_if_no_progress clear_value *); split)
    | dsimp +zetaDelta only)

theorem canon_sourceRead_eq {h : Nat} {y : Buf} {w lines : Nat} {s : State}  {v0_} {v1_} (he_ : sourceRead h y w lines s = (v0_, v1_)) (hs : Canon s) :
    Canon v0_ := by
  have := canon_sourceRead h y w lines s  hs
  rw [he_] at this
  exact this

theorem canon_encRecord (h : Nat) (x : Stream) (r : EncRun) (flags len : Nat) (s : State)  (hs : Canon s) : Canon (encRecord h x r flags len s) := by
  unfold encRecord
  repeat' (first
    | with_reducible assumption | (fail_if_no_progress extract_lets +onlyGivenNames s_) | with_reducible apply canon_ringIndex
    | with_reducible apply canon_ringPut | split)

theorem canon_encEnd (h : Nat) (r : EncRun) (s : State)  (hs : Canon s) : Canon (encEnd h r s) := by
  unfold encEnd
  repeat' (first
    | with_reducible assumption
    | ((fail_if_no_progress extract_lets +onlyGivenNames s_); (refine canon_cut (s := s_) ?_ (fun hc_ => ?_); (on_goal 2 => (try clear_value s_)); unfold s_))
    | with_reducible apply canon_setMark | with_reducible apply canon_closeStep | with_reducible apply canon_writeStat
    | with_reducible apply canon_modBuf)

theorem canon_encSkip (h : Nat) (x : Stream) (r : EncRun) (damaged : Bool) (s : State)  (hs : Canon s) : Canon (encSkip h x r damaged s) := by
  unfold encSkip
  repeat' (first
    | with_reducible assumption
    | ((fail_if_no_progress extract_lets +onlyGivenNames s_); (refine canon_cut (s := s_) ?_ (fun hc_ => ?_); (on_goal 2 => (try clear_value s_)); unfold s_))
    | with_reducible apply canon_encRecord | with_reducible apply canon_modEnc | with_reducible apply canon_encEnd | with_reducible apply canon_count)

theorem canon_encKeep (h : Nat) (x : Stream) (r : EncRun) (damaged : Bool) (bytes luma chroma : List Byte) (s : State)  (hs : Canon s) : Canon (encKeep h x r damaged bytes luma chroma s) := by
  unfold encKeep
  repeat' (first
    | with_reducible assumption
    | ((fail_if_no_progress extract_lets +onlyGivenNames s_); first | (refine canon_cut (s := s_) ?_ (fun hc_ => ?_); (on_goal 2 => (try clear_value s_)); unfold s_) | skip)
    | with_reducible apply canon_ringStore | with_reducible apply canon_putPicture | with_reducible apply canon_encRecord
    | with_reducible apply canon_modEnc | with_reducible apply canon_setMark | with_reducible apply canon_count | with_reducible apply canon_encEnd
    | split)

theorem canon_encodePass (h : Nat) (bytes luma chroma : List Byte) (s : State)  (hs : Canon s) : Canon (encodePass h bytes luma chroma s) := by
  unfold encodePass
  repeat' (first
    | with_reducible assumption
    | ((fail_if_no_progress extract_lets +onlyGivenNames s_); first | (refine canon_cut (s := s_) ?_ (fun hc_ => ?_); (on_goal 2 => (try clear_value s_)); unfold s_) | skip)
    | with_reducible apply canon_fresh | with_reducible refine canon_fresh_eq (by assumption) ?_ | with_reducible apply canon_sourceRead
    | with_reducible refine canon_sourceRead_eq (by assumption) ?_ | with_reducible apply canon_modEnc | with_reducible apply canon_encSkip
    | with_reducible apply canon_encKeep | with_reducible apply canon_mem | with_reducible apply canon_hostMem | with_reducible apply canon_regs
    | with_reducible apply canon_foldl | dsimp only | (intro s_ hc_; beta_reduce) | intro _ | split | (simp only [canon_mk_iff]; refine ⟨?_, ?_, ?_⟩))

theorem canon_scmdEnd (code : Nat) (s : State)  (hs : Canon s) : Canon (scmdEnd code s) := by
  unfold scmdEnd
  repeat' (first
    | with_reducible assumption | with_reducible apply canon_setFld | with_reducible apply canon_setBit)

theorem canon_openStream (h : Nat) (kind : StreamKind) (par : List Byte) (frames segs syn : Nat) (pat : Buf) (s : State)  (hs : Canon s) : Canon (openStream h kind par frames segs syn pat s).1 := by
  unfold openStream
  repeat' (first
    | with_reducible assumption | (fail_if_no_progress extract_lets +onlyGivenNames s_) | with_reducible apply canon_putStream
    | with_reducible apply canon_mem | with_reducible apply canon_hostMem | with_reducible apply canon_regs | dsimp only | split
    | (simp only [canon_mk_iff]; refine ⟨?_, ?_, ?_⟩))

theorem canon_openStream_eq {h : Nat} {kind : StreamKind} {par : List Byte} {frames segs syn : Nat} {pat : Buf} {s : State}  {v0_} {v1_} (he_ : openStream h kind par frames segs syn pat s = (v0_, v1_)) (hs : Canon s) :
    Canon v0_ := by
  have := canon_openStream h kind par frames segs syn pat s  hs
  rw [he_] at this
  exact this

theorem canon_openDecode (h : Nat) (par : List Byte) (s : State)  (hs : Canon s) : Canon (openDecode h par s).1 := by
  unfold openDecode
  repeat' (first
    | with_reducible assumption | with_reducible apply canon_openStream | split)

theorem canon_openDecode_eq {h : Nat} {par : List Byte} {s : State}  {v0_} {v1_} (he_ : openDecode h par s = (v0_, v1_)) (hs : Canon s) :
    Canon v0_ := by
  have := canon_openDecode h par s  hs
  rw [he_] at this
  exact this

theorem canon_openEncode (h : Nat) (par : List Byte) (s : State)  (hs : Canon s) : Canon (openEncode h par s).1 := by
  unfold openEncode
  repeat' (first
    | with_reducible assumption | with_reducible apply canon_openStream | split)

theorem canon_openEncode_eq {h : Nat} {par : List Byte} {s : State}  {v0_} {v1_} (he_ : openEncode h par s = (v0_, v1_)) (hs : Canon s) :
    Canon v0_ := by
  have := canon_openEncode h par s  hs
  rw [he_] at this
  exact this

theorem canon_scmdOpen (fn : Fn) (h : Nat) (enc : Bool) (s : State)  (hs : Canon s) : Canon (scmdOpen fn h enc s) := by
  unfold scmdOpen
  repeat' (first
    | with_reducible assumption | with_reducible apply canon_dropCmd | with_reducible apply canon_engRead | with_reducible apply canon_denied
    | with_reducible apply canon_openEncode | with_reducible apply canon_openDecode | with_reducible apply canon_sendOpen
    | with_reducible apply canon_modDec | with_reducible apply canon_scmdEnd | with_reducible apply canon_writeStat | dsimp only | split)

theorem canon_scmdOn (fn : Fn) (h : Nat) (want : StreamKind → Bool) (k : State → State) (s : State)  (hk : ∀ a0_, Canon a0_ → Canon (k a0_)) (hs : Canon s) : Canon (scmdOn fn h want k s) := by
  unfold scmdOn
  repeat' (first
    | with_reducible assumption
    | ((fail_if_no_progress extract_lets +onlyGivenNames s_); first | (refine canon_cut (s := s_) ?_ (fun hc_ => ?_); (on_goal 2 => (try clear_value s_)); unfold s_) | skip)
    | with_reducible apply hk | with_reducible apply canon_denied | with_reducible apply canon_dropCmd | with_reducible apply canon_scmdEnd
    | with_reducible apply canon_writeStat | with_reducible apply canon_mem | with_reducible apply canon_hostMem | with_reducible apply canon_regs
    | with_reducible apply canon_foldl | dsimp only | (intro s_ hc_; beta_reduce) | intro _ | split | (simp only [canon_mk_iff]; refine ⟨?_, ?_, ?_⟩))

theorem canon_closeStream (h : Nat) (s : State)  (hs : Canon s) : Canon (closeStream h s) := by
  unfold closeStream
  repeat' (first
    | with_reducible assumption | with_reducible apply canon_setMark | with_reducible apply canon_dropRefs | with_reducible apply canon_modStream
    | with_reducible apply canon_foldl | dsimp only | (intro s_ hc_; beta_reduce) | split)

theorem canon_scmdClose (h : Nat) (s : State)  (hs : Canon s) : Canon (scmdClose h s) := by
  unfold scmdClose
  repeat' (first
    | with_reducible assumption
    | ((fail_if_no_progress extract_lets +onlyGivenNames s_); first | (refine canon_cut (s := s_) ?_ (fun hc_ => ?_); (on_goal 2 => (try clear_value s_)); unfold s_) | skip)
    | with_reducible apply canon_setFld | with_reducible apply canon_closeStep | with_reducible apply canon_closeStream
    | with_reducible apply canon_setBit | with_reducible apply canon_mem | with_reducible apply canon_hostMem | with_reducible apply canon_regs
    | (simp only [canon_mk_iff]; refine ⟨?_, ?_, ?_⟩))

theorem canon_mediaCommit (fn : Fn) (s : State)  (hs : Canon s) : Canon (mediaCommit fn s) := by
  unfold mediaCommit
  repeat' (first
    | with_reducible assumption | (fail_if_no_progress extract_lets +onlyGivenNames s_) | with_reducible apply canon_denied
    | with_reducible apply canon_dropCmd | with_reducible apply canon_setBit | with_reducible apply canon_modStream | with_reducible apply canon_mem
    | with_reducible apply canon_hostMem | with_reducible apply canon_regs | dsimp only | split | (simp only [canon_mk_iff]; refine ⟨?_, ?_, ?_⟩))

theorem canon_releaseMark (fn : Fn) (b m : Nat) (s : State)  (hs : Canon s) : Canon (releaseMark fn b m s) := by
  unfold releaseMark
  repeat' (first
    | with_reducible assumption | with_reducible apply canon_setMark | with_reducible apply canon_denied | split)

theorem canon_execMediaDoorbell (fn : Fn) (h : Fin 1024) (value : W64) (ends : List W32) (s : State) (hs : Canon s) : OutCanon (execMediaDoorbell fn h value ends s) := by
  unfold execMediaDoorbell
  repeat' (first
    | with_reducible assumption | with_reducible apply canon_live | with_reducible apply canon_orRecord | with_reducible apply canon_mediaDb
    | (intro s_ hc_; beta_reduce))

theorem canon_execEncodeSubmit (fn : Fn) (h : Fin 1024) (value : W64) (s : State) (hs : Canon s) : OutCanon (execEncodeSubmit fn h value s) := by
  unfold execEncodeSubmit
  repeat' (first
    | with_reducible assumption | with_reducible apply canon_live | with_reducible apply canon_orRecord | with_reducible apply canon_mediaDb
    | (intro s_ hc_; beta_reduce))

theorem canon_execEncodeFrameStart (h : Fin 1024) (pipe : Fin 2) (recon : Fin 16384) (s : State) (hs : Canon s) : OutCanon (execEncodeFrameStart h pipe recon s) := by
  unfold execEncodeFrameStart
  repeat' (first
    | with_reducible assumption | with_reducible apply canon_running | with_reducible apply canon_encStart)

theorem canon_execEncodePassDone (h : Fin 1024) (bytes luma chroma : List Byte) (s : State) (hs : Canon s) : OutCanon (execEncodePassDone h bytes luma chroma s) := by
  unfold execEncodePassDone
  repeat' (first
    | with_reducible assumption | with_reducible apply canon_running | with_reducible apply canon_encodePass)

theorem canon_execMediaOpen (fn : Fn) (h : Fin 1024) (s : State) (hs : Canon s) : OutCanon (execMediaOpen fn h s) := by
  unfold execMediaOpen
  repeat' (first
    | with_reducible assumption | with_reducible apply canon_live | with_reducible apply canon_orRecord | with_reducible apply canon_scmdOpen
    | (intro s_ hc_; beta_reduce))

theorem canon_execMediaOpenEnc (fn : Fn) (h : Fin 1024) (s : State) (hs : Canon s) : OutCanon (execMediaOpenEnc fn h s) := by
  unfold execMediaOpenEnc
  repeat' (first
    | with_reducible assumption | with_reducible apply canon_live | with_reducible apply canon_orRecord | with_reducible apply canon_scmdOpen
    | (intro s_ hc_; beta_reduce))

theorem canon_execMediaClose (fn : Fn) (h : Fin 1024) (s : State) (hs : Canon s) : OutCanon (execMediaClose fn h s) := by
  unfold execMediaClose
  repeat' (first
    | with_reducible assumption | with_reducible apply canon_live | with_reducible apply canon_orRecord | with_reducible apply canon_scmdOn
    | with_reducible apply canon_scmdClose | (intro s_ hc_; beta_reduce))

theorem canon_execMediaFlush (fn : Fn) (h : Fin 1024) (s : State) (hs : Canon s) : OutCanon (execMediaFlush fn h s) := by
  unfold execMediaFlush
  repeat' (first
    | with_reducible assumption | with_reducible apply canon_live | with_reducible apply canon_orRecord | with_reducible apply canon_scmdOn
    | with_reducible apply canon_scmdEnd | with_reducible apply canon_writeStat | with_reducible apply canon_flushStream | (intro s_ hc_; beta_reduce))

theorem canon_execMediaSkipToRap (fn : Fn) (h : Fin 1024) (s : State) (hs : Canon s) : OutCanon (execMediaSkipToRap fn h s) := by
  unfold execMediaSkipToRap
  repeat' (first
    | with_reducible assumption | with_reducible apply canon_live | with_reducible apply canon_orRecord | with_reducible apply canon_scmdOn
    | with_reducible apply canon_scmdEnd | with_reducible apply canon_writeStat | with_reducible apply canon_modDec | (intro s_ hc_; beta_reduce))

theorem canon_execMediaForceIdr (fn : Fn) (h : Fin 1024) (s : State) (hs : Canon s) : OutCanon (execMediaForceIdr fn h s) := by
  unfold execMediaForceIdr
  repeat' (first
    | with_reducible assumption | with_reducible apply canon_live | with_reducible apply canon_orRecord | with_reducible apply canon_scmdOn
    | with_reducible apply canon_scmdEnd | with_reducible apply canon_writeStat | with_reducible apply canon_modEnc | (intro s_ hc_; beta_reduce))

theorem canon_execMediaCommit (fn : Fn) (s : State) (hs : Canon s) : OutCanon (execMediaCommit fn s) := by
  unfold execMediaCommit
  repeat' (first
    | with_reducible assumption | with_reducible apply canon_bar0 | with_reducible apply canon_mediaCommit)

theorem canon_execReleaseOut (fn : Fn) (buf : Fin 16384) (s : State) (hs : Canon s) : OutCanon (execReleaseOut fn buf s) := by
  unfold execReleaseOut
  repeat' (first
    | with_reducible assumption | with_reducible apply canon_live | with_reducible apply canon_orRecord | with_reducible apply canon_releaseMark
    | (intro s_ hc_; beta_reduce))

theorem canon_execReleaseHold (fn : Fn) (buf : Fin 16384) (s : State) (hs : Canon s) : OutCanon (execReleaseHold fn buf s) := by
  unfold execReleaseHold
  repeat' (first
    | with_reducible assumption | with_reducible apply canon_live | with_reducible apply canon_orRecord | with_reducible apply canon_releaseMark
    | (intro s_ hc_; beta_reduce))

end Sys2Proof.Machine
end

