-- ==== Sys2Proof/Laws/Canon/Capture.lean ====
section
/-!
SUPPORT. The operations and meanings of Machine/Capture.lean keep the canonical form of the memories and of the register file.
-/
set_option linter.all false
namespace Sys2Proof.Machine

theorem canon_capAreas (f : Nat) (x0 : List Nat) (x1 : State) (hx1 : Canon x1) : Canon (capAreas f x0 x1).1 := by
  induction x0 generalizing x1 with
  | nil =>
    unfold capAreas
    repeat' (first
        | with_reducible assumption | (fail_if_no_progress extract_lets +onlyGivenNames s_) | with_reducible apply canon_engRead | dsimp only | split)
  | cons a l ih =>
    unfold capAreas
    repeat' (first
        | with_reducible assumption | (fail_if_no_progress extract_lets +onlyGivenNames s_) | with_reducible apply ih | with_reducible apply canon_engRead
        | dsimp only | split)

theorem canon_capAreas_eq {f : Nat} {x0 : List Nat} {x1 : State} {v0_} {v1_} {v2_} (he_ : capAreas f x0 x1 = (v0_, v1_, v2_)) (hx1 : Canon x1) :
    Canon v0_ := by
  have := canon_capAreas f x0 x1 hx1
  rw [he_] at this
  exact this

theorem canon_putSensor (s : State) (k : Nat) (x : Sensor)  (hs : Canon s) : Canon (State.putSensor s k x) := by
  unfold State.putSensor
  repeat' (first
    | with_reducible assumption | (fail_if_no_progress extract_lets +onlyGivenNames s_) | with_reducible apply canon_mem
    | with_reducible apply canon_hostMem | with_reducible apply canon_regs | (simp only [canon_mk_iff]; refine ⟨?_, ?_, ?_⟩))

theorem canon_giveContexts (s : State)  (hs : Canon s) : Canon (giveContexts s) := by
  unfold giveContexts
  repeat' (first
    | with_reducible assumption | with_reducible apply canon_putSensor | with_reducible apply canon_foldl | (intro s_ hc_; beta_reduce) | intro _ | split)

theorem canon_putLine (x : Sensor) (c : CapFrame) (row o : Nat) (bs : List Byte) (s : State)  (hs : Canon s) : Canon (putLine x c row o bs s) := by
  unfold putLine
  repeat' (first
    | with_reducible assumption | (fail_if_no_progress extract_lets +onlyGivenNames s_) | with_reducible apply canon_engWrite | split)

theorem canon_missLine (x : Sensor) (c : CapFrame) (s : State)  (hs : Canon s) : Canon (missLine x c s).1 := by
  unfold missLine
  repeat' (first
    | with_reducible assumption | (fail_if_no_progress extract_lets +onlyGivenNames s_) | with_reducible apply canon_putLine)

theorem canon_missLine_eq {x : Sensor} {c : CapFrame} {s : State}  {v0_} {v1_} (he_ : missLine x c s = (v0_, v1_)) (hs : Canon s) :
    Canon v0_ := by
  have := canon_missLine x c s  hs
  rw [he_] at this
  exact this

theorem canon_goodLine (x : Sensor) (c : CapFrame) (maxW : Nat) (payload : List Byte) (s : State)  (hs : Canon s) : Canon (goodLine x c maxW payload s).1 := by
  unfold goodLine
  repeat' (first
    | with_reducible assumption | (fail_if_no_progress extract_lets +onlyGivenNames s_) | with_reducible apply canon_count
    | with_reducible apply canon_putLine | dsimp only | split)

theorem canon_goodLine_eq {x : Sensor} {c : CapFrame} {maxW : Nat} {payload : List Byte} {s : State}  {v0_} {v1_} (he_ : goodLine x c maxW payload s = (v0_, v1_)) (hs : Canon s) :
    Canon v0_ := by
  have := canon_goodLine x c maxW payload s  hs
  rw [he_] at this
  exact this

theorem canon_lostLine (x : Sensor) (c : CapFrame) (flag off : Nat) (s : State)  (hs : Canon s) : Canon (lostLine x c flag off s).1 := by
  unfold lostLine
  repeat' (first
    | with_reducible assumption | with_reducible apply canon_missLine | with_reducible apply canon_count)

theorem canon_lostLine_eq {x : Sensor} {c : CapFrame} {flag off : Nat} {s : State}  {v0_} {v1_} (he_ : lostLine x c flag off s = (v0_, v1_)) (hs : Canon s) :
    Canon v0_ := by
  have := canon_lostLine x c flag off s  hs
  rw [he_] at this
  exact this

theorem canon_capLine (k : Nat) (x : Sensor) (hdr : HdrErr) (crcOk full : Bool) (payload : List Byte) (s : State)  (hs : Canon s) : Canon (capLine k x hdr crcOk full payload s) := by
  unfold capLine
  repeat' (first
    | with_reducible assumption
    | ((fail_if_no_progress extract_lets +onlyGivenNames s_); first | (refine canon_cut (s := s_) ?_ (fun hc_ => ?_); (on_goal 2 => (try clear_value s_)); unfold s_) | skip)
    | with_reducible apply canon_count | with_reducible apply canon_lostLine | with_reducible apply canon_goodLine
    | with_reducible apply canon_putSensor | dsimp only | split)

theorem canon_capEmit (x : Sensor) (c : CapFrame) (s : State)  (hs : Canon s) : Canon (capEmit x c s) := by
  unfold capEmit
  repeat' (first
    | with_reducible assumption | (fail_if_no_progress extract_lets +onlyGivenNames s_) | with_reducible apply canon_modBuf
    | with_reducible apply canon_setMark | with_reducible apply canon_emitFrame | with_reducible apply canon_count
    | with_reducible apply canon_writeStat | dsimp only | split)

theorem canon_capGone (k : Nat) (x : Sensor) (s : State)  (hs : Canon s) : Canon (capGone k x s) := by
  unfold capGone
  repeat' (first
    | with_reducible assumption
    | ((fail_if_no_progress extract_lets +onlyGivenNames s_); first | (refine canon_cut (s := s_) ?_ (fun hc_ => ?_); (on_goal 2 => (try clear_value s_)); unfold s_) | (refine canon_cut (s := s_.s) ?_ (fun hc_ => ?_); (on_goal 2 => (try clear_value s_)); unfold s_) | (refine canon_cut (s := s_.1) ?_ (fun hc_ => ?_); (on_goal 2 => (try clear_value s_)); unfold s_) | (refine canon_cut (s := s_.2) ?_ (fun hc_ => ?_); (on_goal 2 => (try clear_value s_)); unfold s_) | (refine canon_cut (s := s_.2.s) ?_ (fun hc_ => ?_); (on_goal 2 => (try clear_value s_)); unfold s_) | (refine canon_cut (s := s_.2.2) ?_ (fun hc_ => ?_); (on_goal 2 => (try clear_value s_)); unfold s_) | (refine canon_cut (s := s_.2.2.s) ?_ (fun hc_ => ?_); (on_goal 2 => (try clear_value s_)); unfold s_) | (refine canon_cut (s := s_.1.s) ?_ (fun hc_ => ?_); (on_goal 2 => (try clear_value s_)); unfold s_) | (refine canon_cut (s := s_.1.a.s) ?_ (fun hc_ => ?_); (on_goal 2 => (try clear_value s_)); unfold s_) | (refine canon_cut (s := s_.a.s) ?_ (fun hc_ => ?_); (on_goal 2 => (try clear_value s_)); unfold s_) | (refine canon_cut (s := s_.2.a.s) ?_ (fun hc_ => ?_); (on_goal 2 => (try clear_value s_)); unfold s_) | skip)
    | with_reducible apply canon_writeStat
    | with_reducible apply canon_modStream
    | with_reducible apply canon_reclaim
    | with_reducible apply canon_mem
    | with_reducible apply canon_hostMem
    | with_reducible apply canon_regs
    | with_reducible apply wf_mwrite
    | with_reducible apply wf_mset
    | with_reducible apply wf_mfill
    | with_reducible apply wf_filter
    | with_reducible apply rwf_rset
    | with_reducible apply rwf_filter
    | with_reducible apply wf_nil
    | with_reducible apply rwf_nil
    | with_reducible apply canon_foldl
    | with_reducible apply canon_foldl_s
    | with_reducible apply canon_foldl_1
    | with_reducible apply canon_foldl_2
    | with_reducible apply canon_foldl_2s
    | with_reducible apply canon_foldl_22
    | with_reducible apply canon_foldl_22s
    | with_reducible apply canon_foldl_A
    | with_reducible apply canon_foldl_as
    | with_reducible apply canon_foldl_das
    | with_reducible apply canon_foldl_2das
    | with_reducible apply canon_foldl_1as
    | dsimp only
    | (intro s_ hc_; beta_reduce)
    | intro _
    | split
    | (simp only [canon_mk_iff]; refine ⟨?_, ?_, ?_⟩)
    | ((fail_if_no_progress clear_value *); split)
    | dsimp +zetaDelta only)

theorem canon_capLeave (k : Nat) (s : State)  (hs : Canon s) : Canon (capLeave k s) := by
  unfold capLeave
  repeat' (first
    | with_reducible assumption
    | ((fail_if_no_progress extract_lets +onlyGivenNames s_); first | (refine canon_cut (s := s_) ?_ (fun hc_ => ?_); (on_goal 2 => (try clear_value s_)); unfold s_) | skip)
    | with_reducible apply canon_giveContexts | with_reducible apply canon_capGone | with_reducible apply canon_mem
    | with_reducible apply canon_hostMem | with_reducible apply canon_regs | with_reducible apply canon_foldl | dsimp only
    | (intro s_ hc_; beta_reduce) | intro _ | split | (simp only [canon_mk_iff]; refine ⟨?_, ?_, ?_⟩))

theorem canon_fillRest (x : Sensor) (x0 : Nat) (x1 : State × CapFrame) (hx1 : Canon x1.1) : Canon (fillRest x x0 x1).1 := by
  induction x0 generalizing x1 with
  | zero =>
    unfold fillRest
    repeat' (first
        | with_reducible assumption | with_reducible apply canon_missLine)
  | succ n ih =>
    unfold fillRest
    repeat' (first
        | with_reducible assumption | with_reducible apply ih | with_reducible apply canon_missLine)

theorem canon_fillRest_eq {x : Sensor} {x0 : Nat} {x1 : State × CapFrame} {v0_} {v1_} (he_ : fillRest x x0 x1 = (v0_, v1_)) (hx1 : Canon x1.1) :
    Canon v0_ := by
  have := canon_fillRest x x0 x1 hx1
  rw [he_] at this
  exact this

theorem canon_capClose (k : Nat) (cut : Bool) (s : State)  (hs : Canon s) : Canon (capClose k cut s) := by
  unfold capClose
  repeat' (first
    | with_reducible assumption | with_reducible apply canon_capLeave | with_reducible apply canon_putSensor | with_reducible apply canon_count
    | with_reducible apply canon_fillRest | with_reducible apply canon_capEmit | dsimp only | split)

theorem canon_capOpen (k : Nat) (s : State)  (hs : Canon s) : Canon (capOpen k s) := by
  unfold capOpen
  repeat' (first
    | with_reducible assumption | with_reducible apply canon_setReg | with_reducible apply canon_putSensor | with_reducible apply canon_count
    | with_reducible apply canon_writeStat | with_reducible apply canon_modBuf | dsimp only | split)

theorem canon_capStart (k : Nat) (hdr : HdrErr) (s : State)  (hs : Canon s) : Canon (capStart k hdr s) := by
  unfold capStart
  repeat' (first
    | with_reducible assumption | with_reducible apply canon_count | with_reducible apply canon_capClose | with_reducible apply canon_capOpen
    | dsimp only | split)

theorem canon_unmatched (port : Nat) (s : State)  (hs : Canon s) : Canon (unmatched port s) := by
  unfold unmatched
  repeat' (first
    | with_reducible assumption | with_reducible apply canon_addSat | split)

theorem canon_frameStart (port vc : Nat) (hdr : HdrErr) (s : State)  (hs : Canon s) : Canon (frameStart port vc hdr s) := by
  unfold frameStart
  repeat' (first
    | with_reducible assumption | (fail_if_no_progress extract_lets +onlyGivenNames s_) | with_reducible apply canon_capStart
    | with_reducible apply canon_unmatched | with_reducible apply canon_foldl | (intro s_ hc_; beta_reduce) | split)

theorem canon_frameEnd (port vc : Nat) (hdr : HdrErr) (s : State)  (hs : Canon s) : Canon (frameEnd port vc hdr s) := by
  unfold frameEnd
  repeat' (first
    | with_reducible assumption | (fail_if_no_progress extract_lets +onlyGivenNames s_) | with_reducible apply canon_unmatched
    | with_reducible apply canon_capClose | with_reducible apply canon_count | with_reducible apply canon_foldl | (intro s_ hc_; beta_reduce)
    | intro _ | split)

theorem canon_longPacket (port vc dt : Nat) (hdr : HdrErr) (crcOk full : Bool) (payload : List Byte) (s : State)  (hs : Canon s) : Canon (longPacket port vc dt hdr crcOk full payload s) := by
  unfold longPacket
  repeat' (first
    | with_reducible assumption
    | ((fail_if_no_progress extract_lets +onlyGivenNames s_); first | (refine canon_cut (s := s_) ?_ (fun hc_ => ?_); (on_goal 2 => (try clear_value s_)); unfold s_) | skip)
    | with_reducible apply canon_bump | with_reducible apply canon_capLine | with_reducible apply canon_unmatched | with_reducible apply canon_mem
    | with_reducible apply canon_hostMem | with_reducible apply canon_regs | with_reducible apply canon_foldl | dsimp only
    | (intro s_ hc_; beta_reduce) | intro _ | split | (simp only [canon_mk_iff]; refine ⟨?_, ?_, ?_⟩))

theorem canon_ispDone (i : Nat) (m : IspMade) (s : State)  (hs : Canon s) : Canon (ispDone i m s) := by
  unfold ispDone
  repeat' (first
    | with_reducible assumption | with_reducible apply canon_putSensor | with_reducible apply canon_putPicture | with_reducible apply canon_engWrite
    | with_reducible apply canon_capLeave | with_reducible apply canon_capEmit | dsimp only | split)

theorem canon_capSnuffed (s : State)  (hs : Canon s) : Canon (capSnuffed s) := by
  unfold capSnuffed
  repeat' (first
    | with_reducible assumption | with_reducible apply canon_capClose | with_reducible apply canon_foldl | (intro s_ hc_; beta_reduce))

theorem canon_capResult (code : Nat) (s : State)  (hs : Canon s) : Canon (capResult code s) := by
  unfold capResult
  repeat' (first
    | with_reducible assumption | with_reducible apply canon_setBit | with_reducible apply canon_setFld)

theorem canon_capDisable (i : Nat) (s : State)  (hs : Canon s) : Canon (capDisable i s) := by
  unfold capDisable
  repeat' (first
    | with_reducible assumption
    | ((fail_if_no_progress extract_lets +onlyGivenNames s_); first | (refine canon_cut (s := s_) ?_ (fun hc_ => ?_); (on_goal 2 => (try clear_value s_)); unfold s_) | skip)
    | with_reducible apply canon_capGone | with_reducible apply canon_putSensor | with_reducible apply canon_mem | with_reducible apply canon_hostMem
    | with_reducible apply canon_regs | with_reducible apply canon_foldl | dsimp only | (intro s_ hc_; beta_reduce) | intro _ | split
    | (simp only [canon_mk_iff]; refine ⟨?_, ?_, ?_⟩))

theorem canon_capEnable (x : SensorSet) (s : State)  (hs : Canon s) : Canon (capEnable x s) := by
  unfold capEnable
  repeat' (first
    | with_reducible assumption
    | ((fail_if_no_progress extract_lets +onlyGivenNames s_); first | (refine canon_cut (s := s_) ?_ (fun hc_ => ?_); (on_goal 2 => (try clear_value s_)); unfold s_) | skip)
    | with_reducible apply canon_putSensor | with_reducible apply canon_putStream | with_reducible apply canon_writeStat
    | with_reducible apply canon_mem | with_reducible apply canon_hostMem | with_reducible apply canon_regs | dsimp only | split
    | (simp only [canon_mk_iff]; refine ⟨?_, ?_, ?_⟩))

theorem canon_capAccept (f : Nat) (xs : List SensorSet) (pool : Tab Buf) (s : State)  (hs : Canon s) : Canon (capAccept f xs pool s) := by
  unfold capAccept
  repeat' (first
    | with_reducible assumption
    | ((fail_if_no_progress extract_lets +onlyGivenNames s_); first | (refine canon_cut (s := s_) ?_ (fun hc_ => ?_); (on_goal 2 => (try clear_value s_)); unfold s_) | skip)
    | with_reducible apply canon_setReg | with_reducible apply canon_capDisable | with_reducible apply canon_giveContexts
    | with_reducible apply canon_capEnable | with_reducible apply canon_mem | with_reducible apply canon_hostMem | with_reducible apply canon_regs
    | with_reducible apply canon_foldl | (intro s_ hc_; beta_reduce) | intro _ | split | (simp only [canon_mk_iff]; refine ⟨?_, ?_, ?_⟩))

theorem canon_capJudge (f : Nat) (s : State)  (hs : Canon s) : Canon (capJudge f s) := by
  unfold capJudge
  repeat' (first
    | with_reducible assumption | with_reducible apply canon_capAreas | with_reducible apply canon_capResult | with_reducible apply canon_capAccept
    | dsimp only | split)

theorem canon_capCommit (fn : Fn) (s : State)  (hs : Canon s) : Canon (capCommit fn s) := by
  unfold capCommit
  repeat' (first
    | with_reducible assumption | with_reducible apply canon_denied | with_reducible apply canon_dropCmd | with_reducible apply canon_capJudge | split)

theorem canon_modFsync (s : State) (n : Nat) (f : Fsync → Fsync)  (hs : Canon s) : Canon (State.modFsync s n f) := by
  unfold State.modFsync
  repeat' (first
    | with_reducible assumption | (fail_if_no_progress extract_lets +onlyGivenNames s_) | with_reducible apply canon_mem
    | with_reducible apply canon_hostMem | with_reducible apply canon_regs | (simp only [canon_mk_iff]; refine ⟨?_, ?_, ?_⟩))

theorem canon_fsyncA (fn : Fn) (n : Nat) (v : W64) (s : State)  (hs : Canon s) : Canon (fsyncA fn n v s) := by
  unfold fsyncA
  repeat' (first
    | with_reducible assumption
    | ((fail_if_no_progress extract_lets +onlyGivenNames s_); first | (refine canon_cut (s := s_) ?_ (fun hc_ => ?_); (on_goal 2 => (try clear_value s_)); unfold s_) | skip)
    | with_reducible apply canon_denied | with_reducible apply canon_dropCmd | with_reducible apply canon_setReg | with_reducible apply canon_modFsync
    | split)

theorem canon_fsyncB (fn : Fn) (n : Nat) (v : W64) (s : State)  (hs : Canon s) : Canon (fsyncB fn n v s) := by
  unfold fsyncB
  repeat' (first
    | with_reducible assumption | with_reducible apply canon_denied | with_reducible apply canon_setReg | with_reducible apply canon_modFsync | split)

theorem canon_fsyncAssert (n : Nat) (s : State)  (hs : Canon s) : Canon (fsyncAssert n s) := by
  unfold fsyncAssert
  repeat' (first
    | with_reducible assumption | (fail_if_no_progress extract_lets +onlyGivenNames s_) | with_reducible apply canon_modFsync | split)

theorem canon_fsyncDeassert (n : Nat) (s : State)  (hs : Canon s) : Canon (fsyncDeassert n s) := by
  unfold fsyncDeassert
  repeat' (first
    | with_reducible assumption | with_reducible apply canon_modFsync | split)

theorem canon_execCapCommit (fn : Fn) (s : State) (hs : Canon s) : OutCanon (execCapCommit fn s) := by
  unfold execCapCommit
  repeat' (first
    | with_reducible assumption | with_reducible apply canon_bar0 | with_reducible apply canon_capCommit)

theorem canon_execFrameStartPacket (port : Fin 4) (vc : BitVec 4) (hdr : HdrErr) (s : State) (hs : Canon s) : OutCanon (execFrameStartPacket port vc hdr s) := by
  unfold execFrameStartPacket
  repeat' (first
    | with_reducible assumption | with_reducible apply canon_live | with_reducible apply canon_frameStart)

theorem canon_execLongPacket (port : Fin 4) (vc : BitVec 4) (dt : BitVec 6) (hdr : HdrErr) (crcOk full : Bool) (payload : List Byte) (s : State) (hs : Canon s) : OutCanon (execLongPacket port vc dt hdr crcOk full payload s) := by
  unfold execLongPacket
  repeat' (first
    | with_reducible assumption | with_reducible apply canon_live | with_reducible apply canon_longPacket)

theorem canon_execFrameEndPacket (port : Fin 4) (vc : BitVec 4) (hdr : HdrErr) (s : State) (hs : Canon s) : OutCanon (execFrameEndPacket port vc hdr s) := by
  unfold execFrameEndPacket
  repeat' (first
    | with_reducible assumption | with_reducible apply canon_live | with_reducible apply canon_frameEnd)

theorem canon_execIspFrameDone (sensor : Fin 16) (colours medians filtered : List (BitVec 16)) (s : State) (hs : Canon s) : OutCanon (execIspFrameDone sensor colours medians filtered s) := by
  unfold execIspFrameDone
  repeat' (first
    | with_reducible assumption | with_reducible apply canon_running | with_reducible apply canon_ispDone)

theorem canon_execFsyncWordA (fn : Fn) (n : Fin 4) (value : W64) (s : State) (hs : Canon s) : OutCanon (execFsyncWordA fn n value s) := by
  unfold execFsyncWordA
  repeat' (first
    | with_reducible assumption | with_reducible apply canon_live | with_reducible apply canon_orRecord | with_reducible apply canon_fsyncA
    | (intro s_ hc_; beta_reduce))

theorem canon_execFsyncWordB (fn : Fn) (n : Fin 4) (value : W64) (s : State) (hs : Canon s) : OutCanon (execFsyncWordB fn n value s) := by
  unfold execFsyncWordB
  repeat' (first
    | with_reducible assumption | with_reducible apply canon_live | with_reducible apply canon_orRecord | with_reducible apply canon_fsyncB
    | (intro s_ hc_; beta_reduce))

theorem canon_execFsyncAssert (n : Fin 4) (s : State) (hs : Canon s) : OutCanon (execFsyncAssert n s) := by
  unfold execFsyncAssert
  repeat' (first
    | with_reducible assumption | with_reducible apply canon_live | with_reducible apply canon_fsyncAssert)

theorem canon_execFsyncDeassert (n : Fin 4) (s : State) (hs : Canon s) : OutCanon (execFsyncDeassert n s) := by
  unfold execFsyncDeassert
  repeat' (first
    | with_reducible assumption | with_reducible apply canon_live | with_reducible apply canon_fsyncDeassert)

end Sys2Proof.Machine
end

