-- ==== Sys2Proof/Laws/Canon/Shaper.lean ====
section
/-!
SUPPORT. The operations and meanings of Machine/Shaper.lean keep the canonical form of the memories and of the register file.
-/
set_option linter.all false
namespace Sys2Proof.Machine

theorem canon_modShapeRing (s : State) (p : Nat) (f : OpRing → OpRing)  (hs : Canon s) : Canon (State.modShapeRing s p f) := by
  unfold State.modShapeRing
  repeat' (first
    | with_reducible assumption | (fail_if_no_progress extract_lets +onlyGivenNames s_) | with_reducible apply canon_mem
    | with_reducible apply canon_hostMem | with_reducible apply canon_regs | (simp only [canon_mk_iff]; refine ⟨?_, ?_, ?_⟩))

theorem canon_mapPipes (s : State) (p : Nat) (f : Pipe → Pipe)  (hs : Canon s) : Canon (State.mapPipes s p f) := by
  unfold State.mapPipes
  repeat' (first
    | with_reducible assumption
    | ((fail_if_no_progress extract_lets +onlyGivenNames s_); first | (refine canon_cut (s := s_) ?_ (fun hc_ => ?_); (on_goal 2 => (try clear_value s_)); unfold s_) | (refine canon_cut (s := s_.s) ?_ (fun hc_ => ?_); (on_goal 2 => (try clear_value s_)); unfold s_) | (refine canon_cut (s := s_.1) ?_ (fun hc_ => ?_); (on_goal 2 => (try clear_value s_)); unfold s_) | (refine canon_cut (s := s_.2) ?_ (fun hc_ => ?_); (on_goal 2 => (try clear_value s_)); unfold s_) | (refine canon_cut (s := s_.2.s) ?_ (fun hc_ => ?_); (on_goal 2 => (try clear_value s_)); unfold s_) | (refine canon_cut (s := s_.2.2) ?_ (fun hc_ => ?_); (on_goal 2 => (try clear_value s_)); unfold s_) | (refine canon_cut (s := s_.2.2.s) ?_ (fun hc_ => ?_); (on_goal 2 => (try clear_value s_)); unfold s_) | (refine canon_cut (s := s_.1.s) ?_ (fun hc_ => ?_); (on_goal 2 => (try clear_value s_)); unfold s_) | (refine canon_cut (s := s_.1.a.s) ?_ (fun hc_ => ?_); (on_goal 2 => (try clear_value s_)); unfold s_) | (refine canon_cut (s := s_.a.s) ?_ (fun hc_ => ?_); (on_goal 2 => (try clear_value s_)); unfold s_) | (refine canon_cut (s := s_.2.a.s) ?_ (fun hc_ => ?_); (on_goal 2 => (try clear_value s_)); unfold s_) | skip)
    | with_reducible apply canon_mem
    | with_reducible apply canon_hostMem
    | with_reducible apply canon_regs
    | with_reducible apply wf_mwrite
    | with_reducible apply wf_mset
    | with_reducible apply wf_mfill
    | with_reducible apply wf_filter
    | with_reducible apply rwf_rset
    | with_reducible apply rwf_filter
    | with_reducible apply wf_nil
    | with_reducible apply rwf_nil
    | with_reducible apply canon_foldl
    | with_reducible apply canon_foldl_s
    | with_reducible apply canon_foldl_1
    | with_reducible apply canon_foldl_2
    | with_reducible apply canon_foldl_2s
    | with_reducible apply canon_foldl_22
    | with_reducible apply canon_foldl_22s
    | with_reducible apply canon_foldl_A
    | with_reducible apply canon_foldl_as
    | with_reducible apply canon_foldl_das
    | with_reducible apply canon_foldl_2das
    | with_reducible apply canon_foldl_1as
    | dsimp only
    | (intro s_ hc_; beta_reduce)
    | intro _
    | split
    | (simp only [canon_mk_iff]; refine ⟨?_, ?_, ?_⟩)
    | ((fail_if_no_progress clear_value *); split)
    | dsimp +zetaDelta only)

theorem canon_shapeRingWrite (fn : Fn) (p : Nat) (v : W64) (s : State)  (hs : Canon s) : Canon (shapeRingWrite fn p v s) := by
  unfold shapeRingWrite
  repeat' (first
    | with_reducible assumption
    | ((fail_if_no_progress extract_lets +onlyGivenNames s_); first | (refine canon_cut (s := s_) ?_ (fun hc_ => ?_); (on_goal 2 => (try clear_value s_)); unfold s_) | skip)
    | with_reducible apply canon_denied | with_reducible apply canon_mapPipes | with_reducible apply canon_modShapeRing
    | with_reducible apply canon_setReg | with_reducible apply canon_mem | with_reducible apply canon_hostMem | with_reducible apply canon_regs
    | with_reducible apply canon_foldl | dsimp only | (intro s_ hc_; beta_reduce) | intro _ | split | (simp only [canon_mk_iff]; refine ⟨?_, ?_, ?_⟩))

theorem canon_shapeDoorbell (fn : Fn) (p : Nat) (t : W32) (s : State)  (hs : Canon s) : Canon (shapeDoorbell fn p t s) := by
  unfold shapeDoorbell
  repeat' (first
    | with_reducible assumption | with_reducible apply canon_denied | with_reducible apply canon_dropCmd | with_reducible apply canon_modShapeRing
    | split)

theorem canon_judgeRegion (p : Nat) (x : ShapeRun) (i : Nat) (r : List Byte) (s : State)  (hs : Canon s) : Canon (judgeRegion p x i r s).1 := by
  unfold judgeRegion
  repeat' (first
    | with_reducible assumption
    | ((fail_if_no_progress extract_lets +onlyGivenNames s_); first | (refine canon_cut (s := s_) ?_ (fun hc_ => ?_); (on_goal 2 => (try clear_value s_)); unfold s_) | skip)
    | with_reducible apply canon_viol | split)

theorem canon_judgeRegion_eq {p : Nat} {x : ShapeRun} {i : Nat} {r : List Byte} {s : State}  {v0_} {v1_} (he_ : judgeRegion p x i r s = (v0_, v1_)) (hs : Canon s) :
    Canon v0_ := by
  have := canon_judgeRegion p x i r s  hs
  rw [he_] at this
  exact this

theorem canon_judgeAll (p : Nat) (x0 : Nat) (x1 : List (List Byte)) (x2 : State) (x3 : ShapeRun) (hx2 : Canon x2) : Canon (judgeAll p x0 x1 x2 x3).1 := by
  induction x1 generalizing x0 x2 x3 with
  | nil =>
    unfold judgeAll
    repeat' (first
        | with_reducible assumption | with_reducible apply canon_judgeRegion)
  | cons a l ih =>
    unfold judgeAll
    repeat' (first
        | with_reducible assumption | with_reducible apply ih | with_reducible apply canon_judgeRegion)

theorem canon_judgeAll_eq {p : Nat} {x0 : Nat} {x1 : List (List Byte)} {x2 : State} {x3 : ShapeRun} {v0_} {v1_} (he_ : judgeAll p x0 x1 x2 x3 = (v0_, v1_)) (hx2 : Canon x2) :
    Canon v0_ := by
  have := canon_judgeAll p x0 x1 x2 x3 hx2
  rw [he_] at this
  exact this

theorem canon_countStale (x : ShapeRun) (s : State)  (hs : Canon s) : Canon (countStale x s) := by
  unfold countStale
  repeat' (first
    | with_reducible assumption | with_reducible apply canon_count | with_reducible apply canon_foldl | (intro s_ hc_; beta_reduce) | intro _ | split)

theorem canon_shapeBegin (p : Nat) (header : List Byte) (regs : List (List Byte)) (pipe : Option Nat) (ring : Bool) (s : State)  (hs : Canon s) : Canon (shapeBegin p header regs pipe ring s) := by
  unfold shapeBegin
  repeat' (first
    | with_reducible assumption | (fail_if_no_progress extract_lets +onlyGivenNames s_) | with_reducible apply canon_judgeAll
    | with_reducible apply canon_countStale | with_reducible apply canon_mem | with_reducible apply canon_hostMem | with_reducible apply canon_regs
    | dsimp only | (simp only [canon_mk_iff]; refine ⟨?_, ?_, ?_⟩))

theorem canon_readRegs (a : Nat) (x0 : Nat) (x1 : State) (hx1 : Canon x1) : Canon (readRegs a x0 x1).1 := by
  induction x0 generalizing x1 with
  | zero =>
    unfold readRegs
    repeat' (first
        | with_reducible assumption | with_reducible apply canon_engRead)
  | succ n ih =>
    unfold readRegs
    repeat' (first
        | with_reducible assumption | with_reducible apply ih | with_reducible apply canon_engRead)

theorem canon_readRegs_eq {a : Nat} {x0 : Nat} {x1 : State} {v0_} {v1_} (he_ : readRegs a x0 x1 = (v0_, v1_)) (hx1 : Canon x1) :
    Canon v0_ := by
  have := canon_readRegs a x0 x1 hx1
  rw [he_] at this
  exact this

theorem canon_shapeAdvance (p : Nat) (s : State)  (hs : Canon s) : Canon (shapeAdvance p s) := by
  unfold shapeAdvance
  repeat' (first
    | with_reducible assumption
    | ((fail_if_no_progress extract_lets +onlyGivenNames s_); (refine canon_cut (s := s_) ?_ (fun hc_ => ?_); (on_goal 2 => (try clear_value s_)); unfold s_))
    | with_reducible apply canon_modShapeRing | with_reducible apply canon_setReg)

theorem canon_shapeFromPipe (p k : Nat) (h r : List Byte) (ring : Bool) (s : State)  (hs : Canon s) : Canon (shapeFromPipe p k h r ring s) := by
  unfold shapeFromPipe
  repeat' (first
    | with_reducible assumption
    | ((fail_if_no_progress extract_lets +onlyGivenNames s_); first | (refine canon_cut (s := s_) ?_ (fun hc_ => ?_); (on_goal 2 => (try clear_value s_)); unfold s_) | (refine canon_cut (s := s_.s) ?_ (fun hc_ => ?_); (on_goal 2 => (try clear_value s_)); unfold s_) | (refine canon_cut (s := s_.1) ?_ (fun hc_ => ?_); (on_goal 2 => (try clear_value s_)); unfold s_) | (refine canon_cut (s := s_.2) ?_ (fun hc_ => ?_); (on_goal 2 => (try clear_value s_)); unfold s_) | (refine canon_cut (s := s_.2.s) ?_ (fun hc_ => ?_); (on_goal 2 => (try clear_value s_)); unfold s_) | (refine canon_cut (s := s_.2.2) ?_ (fun hc_ => ?_); (on_goal 2 => (try clear_value s_)); unfold s_) | (refine canon_cut (s := s_.2.2.s) ?_ (fun hc_ => ?_); (on_goal 2 => (try clear_value s_)); unfold s_) | (refine canon_cut (s := s_.1.s) ?_ (fun hc_ => ?_); (on_goal 2 => (try clear_value s_)); unfold s_) | (refine canon_cut (s := s_.1.a.s) ?_ (fun hc_ => ?_); (on_goal 2 => (try clear_value s_)); unfold s_) | (refine canon_cut (s := s_.a.s) ?_ (fun hc_ => ?_); (on_goal 2 => (try clear_value s_)); unfold s_) | (refine canon_cut (s := s_.2.a.s) ?_ (fun hc_ => ?_); (on_goal 2 => (try clear_value s_)); unfold s_) | skip)
    | with_reducible apply canon_shapeBegin
    | with_reducible apply canon_mem
    | with_reducible apply canon_hostMem
    | with_reducible apply canon_regs
    | with_reducible apply wf_mwrite
    | with_reducible apply wf_mset
    | with_reducible apply wf_mfill
    | with_reducible apply wf_filter
    | with_reducible apply rwf_rset
    | with_reducible apply rwf_filter
    | with_reducible apply wf_nil
    | with_reducible apply rwf_nil
    | with_reducible apply canon_foldl
    | with_reducible apply canon_foldl_s
    | with_reducible apply canon_foldl_1
    | with_reducible apply canon_foldl_2
    | with_reducible apply canon_foldl_2s
    | with_reducible apply canon_foldl_22
    | with_reducible apply canon_foldl_22s
    | with_reducible apply canon_foldl_A
    | with_reducible apply canon_foldl_as
    | with_reducible apply canon_foldl_das
    | with_reducible apply canon_foldl_2das
    | with_reducible apply canon_foldl_1as
    | dsimp only
    | (intro s_ hc_; beta_reduce)
    | intro _
    | split
    | (simp only [canon_mk_iff]; refine ⟨?_, ?_, ?_⟩)
    | ((fail_if_no_progress clear_value *); split)
    | dsimp +zetaDelta only)

theorem canon_shapeStart (p : Nat) (s : State)  (hs : Canon s) : Canon (shapeStart p s) := by
  unfold shapeStart
  repeat' (first
    | with_reducible assumption
    | ((fail_if_no_progress extract_lets +onlyGivenNames s_); first | (refine canon_cut (s := s_) ?_ (fun hc_ => ?_); (on_goal 2 => (try clear_value s_)); unfold s_) | skip)
    | with_reducible apply canon_shapeFromPipe | with_reducible apply canon_engRead | with_reducible refine canon_engRead_eq (by assumption) ?_
    | with_reducible apply canon_shapeAdvance | with_reducible apply canon_viol | with_reducible apply canon_readRegs
    | with_reducible refine canon_readRegs_eq (by assumption) ?_ | with_reducible apply canon_shapeBegin | with_reducible apply canon_mem
    | with_reducible apply canon_hostMem | with_reducible apply canon_regs | with_reducible apply canon_foldl | dsimp only
    | (intro s_ hc_; beta_reduce) | intro _ | split | (simp only [canon_mk_iff]; refine ⟨?_, ?_, ?_⟩))

theorem canon_produce (r : List Byte) (s : State)  (hs : Canon s) : Canon (produce r s).1 := by
  unfold produce
  repeat' (first
    | with_reducible assumption
    | ((fail_if_no_progress extract_lets +onlyGivenNames s_); first | (refine canon_cut (s := s_) ?_ (fun hc_ => ?_); (on_goal 2 => (try clear_value s_)); unfold s_) | skip)
    | with_reducible apply canon_countAccess | with_reducible apply canon_reportUnnamed | with_reducible apply canon_errUncorrectable
    | with_reducible apply canon_engWrite | with_reducible apply canon_lostTaken | with_reducible apply canon_mem | with_reducible apply canon_hostMem
    | with_reducible apply canon_regs | with_reducible apply canon_foldl | dsimp only | (intro s_ hc_; beta_reduce) | intro _ | split
    | (simp only [canon_mk_iff]; refine ⟨?_, ?_, ?_⟩))

theorem canon_produce_eq {r : List Byte} {s : State}  {v0_} {v1_} {v2_} (he_ : produce r s = (v0_, v1_, v2_)) (hs : Canon s) :
    Canon v0_ := by
  have := canon_produce r s  hs
  rw [he_] at this
  exact this

theorem canon_produceAll (x : ShapeRun) (x0 : List Nat) (x1 : State) (hx1 : Canon x1) : Canon (produceAll x x0 x1).1 := by
  induction x0 generalizing x1 with
  | nil =>
    unfold produceAll
    repeat' (first
        | with_reducible assumption | with_reducible apply canon_produce)
  | cons a l ih =>
    unfold produceAll
    repeat' (first
        | with_reducible assumption | with_reducible apply ih | with_reducible apply canon_produce)

theorem canon_produceAll_eq {x : ShapeRun} {x0 : List Nat} {x1 : State} {v0_} {v1_} {v2_} (he_ : produceAll x x0 x1 = (v0_, v1_, v2_)) (hx1 : Canon x1) :
    Canon v0_ := by
  have := canon_produceAll x x0 x1 hx1
  rw [he_] at this
  exact this

theorem canon_shapeDone (s : State)  (hs : Canon s) : Canon (shapeDone s) := by
  unfold shapeDone
  repeat' (first
    | with_reducible assumption | with_reducible apply canon_produceAll | with_reducible apply canon_engWrite | with_reducible apply canon_setMark
    | with_reducible apply canon_semUpdate | with_reducible apply canon_shapeAdvance | with_reducible apply canon_mem
    | with_reducible apply canon_hostMem | with_reducible apply canon_regs | with_reducible apply canon_foldl | dsimp only
    | (intro s_ hc_; beta_reduce) | split | (simp only [canon_mk_iff]; refine ⟨?_, ?_, ?_⟩))

theorem canon_execShapeRingWrite (fn : Fn) (p : Fin 16) (value : W64) (s : State) (hs : Canon s) : OutCanon (execShapeRingWrite fn p value s) := by
  unfold execShapeRingWrite
  repeat' (first
    | with_reducible assumption | with_reducible apply canon_live | with_reducible apply canon_orRecord | with_reducible apply canon_shapeRingWrite
    | (intro s_ hc_; beta_reduce))

theorem canon_execShapeDoorbell (fn : Fn) (p : Fin 16) (tail : W32) (s : State) (hs : Canon s) : OutCanon (execShapeDoorbell fn p tail s) := by
  unfold execShapeDoorbell
  repeat' (first
    | with_reducible assumption | with_reducible apply canon_live | with_reducible apply canon_orRecord | with_reducible apply canon_shapeDoorbell
    | (intro s_ hc_; beta_reduce))

theorem canon_execShapeOpStart (p : Fin 16) (s : State) (hs : Canon s) : OutCanon (execShapeOpStart p s) := by
  unfold execShapeOpStart
  repeat' (first
    | with_reducible assumption | with_reducible apply canon_running | with_reducible apply canon_shapeStart)

theorem canon_execShapeOpDone (s : State) (hs : Canon s) : OutCanon (execShapeOpDone s) := by
  unfold execShapeOpDone
  repeat' (first
    | with_reducible assumption | with_reducible apply canon_running | with_reducible apply canon_shapeDone)

end Sys2Proof.Machine
end

