-- ==== Sys2Proof/Laws/Canon/Ingest.lean ====
section
/-!
SUPPORT. The operations and meanings of Machine/Ingest.lean keep the canonical form of the memories and of the register file.
-/
set_option linter.all false
namespace Sys2Proof.Machine

theorem canon_modChan (s : State) (c : Nat) (f : Chan → Chan)  (hs : Canon s) : Canon (State.modChan s c f) := by
  unfold State.modChan
  repeat' (first
    | with_reducible assumption | with_reducible apply canon_mem | with_reducible apply canon_hostMem | with_reducible apply canon_regs
    | (simp only [canon_mk_iff]; refine ⟨?_, ?_, ?_⟩))

theorem canon_chanSync (c : Nat) (s : State)  (hs : Canon s) : Canon (chanSync c s) := by
  unfold chanSync
  repeat' (first
    | with_reducible assumption
    | ((fail_if_no_progress extract_lets +onlyGivenNames s_); first | (refine canon_cut (s := s_) ?_ (fun hc_ => ?_); (on_goal 2 => (try clear_value s_)); unfold s_) | skip)
    | with_reducible apply canon_setFld | with_reducible apply canon_modStream)

theorem canon_ingestPoison (k : Option Nat) (s : State)  (hs : Canon s) : Canon (ingestPoison k s) := by
  unfold ingestPoison
  repeat' (first
    | with_reducible assumption | with_reducible apply canon_reportUnnamed | split)

theorem canon_putPositions (p : List Byte) (k : W32) (pos n : Nat) (tokens : List Byte) (seg : Nat) (s : State)  (hs : Canon s) : Canon (putPositions p k pos n tokens seg s) := by
  unfold putPositions
  repeat' (first
    | with_reducible assumption
    | ((fail_if_no_progress extract_lets +onlyGivenNames s_); first | (refine canon_cut (s := s_) ?_ (fun hc_ => ?_); (on_goal 2 => (try clear_value s_)); unfold s_) | skip)
    | with_reducible apply canon_engWrite | split)

theorem canon_padRow (p : List Byte) (r : PackRow) (s : State)  (hs : Canon s) : Canon (padRow p r s) := by
  unfold padRow
  repeat' (first
    | with_reducible assumption | (fail_if_no_progress extract_lets +onlyGivenNames s_) | with_reducible apply canon_putPositions)

theorem canon_closeBatch (c : Nat) (deadline eos : Bool) (s : State)  (hs : Canon s) : Canon (closeBatch c deadline eos s) := by
  unfold closeBatch
  repeat' (first
    | with_reducible assumption
    | ((fail_if_no_progress extract_lets +onlyGivenNames s_); first | (refine canon_cut (s := s_) ?_ (fun hc_ => ?_); (on_goal 2 => (try clear_value s_)); unfold s_) | skip)
    | with_reducible apply canon_padRow | with_reducible apply canon_fresh | with_reducible apply canon_ringIndex | with_reducible apply canon_ringPut
    | with_reducible apply canon_semField | with_reducible apply canon_count | with_reducible apply canon_writeStat
    | with_reducible apply canon_modChan | with_reducible apply canon_foldl | dsimp only | (intro s_ hc_; beta_reduce) | split)

theorem canon_placeIn (c : Nat) (row : W32) (n : Nat) (tokens : List Byte) (s : State)  (hs : Canon s) : Canon (placeIn c row n tokens s).1 := by
  unfold placeIn
  repeat' (first
    | with_reducible assumption | (fail_if_no_progress extract_lets +onlyGivenNames s_) | with_reducible apply canon_putPositions
    | with_reducible apply canon_modChan | dsimp only | split)

theorem canon_placeIn_eq {c : Nat} {row : W32} {n : Nat} {tokens : List Byte} {s : State}  {v0_} {v1_} (he_ : placeIn c row n tokens s = (v0_, v1_)) (hs : Canon s) :
    Canon v0_ := by
  have := canon_placeIn c row n tokens s  hs
  rw [he_] at this
  exact this

theorem canon_openRow (c : Nat) (s : State)  (hs : Canon s) : Canon (openRow c s) := by
  unfold openRow
  repeat' (first
    | with_reducible assumption | with_reducible apply canon_modChan)

theorem canon_modSample (c : Nat) (id : W32) (f : Sample → Sample) (s : State)  (hs : Canon s) : Canon (modSample c id f s) := by
  unfold modSample
  repeat' (first
    | with_reducible assumption | with_reducible apply canon_modChan)

theorem canon_chanSettle (c : Nat) (s : State)  (hs : Canon s) : Canon (chanSettle c s) := by
  unfold chanSettle
  repeat' (first
    | with_reducible assumption
    | ((fail_if_no_progress extract_lets +onlyGivenNames s_); first | (refine canon_cut (s := s_) ?_ (fun hc_ => ?_); (on_goal 2 => (try clear_value s_)); unfold s_) | skip)
    | with_reducible apply canon_chanSync | with_reducible apply canon_closeBatch | with_reducible apply canon_writeStat
    | with_reducible apply canon_modStream | with_reducible apply canon_reclaim | with_reducible apply canon_modChan | with_reducible apply canon_mem
    | with_reducible apply canon_hostMem | with_reducible apply canon_regs | split | (simp only [canon_mk_iff]; refine ⟨?_, ?_, ?_⟩))

theorem canon_enableFails (fn : Fn) (c code : Nat) (s : State)  (hs : Canon s) : Canon (enableFails fn c code s) := by
  unfold enableFails
  repeat' (first
    | with_reducible assumption | with_reducible apply canon_dropCmd | with_reducible apply canon_setBit | with_reducible apply canon_setFld)

theorem canon_ingestEnable (fn : Fn) (c : Nat) (v : W64) (s : State)  (hs : Canon s) : Canon (ingestEnable fn c v s) := by
  unfold ingestEnable
  repeat' (first
    | with_reducible assumption
    | ((fail_if_no_progress extract_lets +onlyGivenNames s_); first | (refine canon_cut (s := s_) ?_ (fun hc_ => ?_); (on_goal 2 => (try clear_value s_)); unfold s_) | skip)
    | with_reducible apply canon_engRead | with_reducible apply canon_denied | with_reducible apply canon_setReg
    | with_reducible apply canon_enableFails | with_reducible apply canon_putStream | with_reducible apply canon_modChan
    | with_reducible apply canon_writeStat | with_reducible apply canon_chanSync | with_reducible apply canon_setFld | with_reducible apply canon_mem
    | with_reducible apply canon_hostMem | with_reducible apply canon_regs | dsimp only | split | (simp only [canon_mk_iff]; refine ⟨?_, ?_, ?_⟩))

theorem canon_ingestDisable (c : Nat) (s : State)  (hs : Canon s) : Canon (ingestDisable c s) := by
  unfold ingestDisable
  repeat' (first
    | with_reducible assumption | with_reducible apply canon_chanSettle | with_reducible apply canon_modChan)

theorem canon_ingestRingWrite (fn : Fn) (c : Nat) (v : W64) (s : State)  (hs : Canon s) : Canon (ingestRingWrite fn c v s) := by
  unfold ingestRingWrite
  repeat' (first
    | with_reducible assumption
    | ((fail_if_no_progress extract_lets +onlyGivenNames s_); first | (refine canon_cut (s := s_) ?_ (fun hc_ => ?_); (on_goal 2 => (try clear_value s_)); unfold s_) | skip)
    | with_reducible apply canon_denied | with_reducible apply canon_ingestEnable | with_reducible apply canon_enableFails
    | with_reducible apply canon_setReg | with_reducible apply canon_ingestDisable | split)

theorem canon_ingestDb (fn : Fn) (c : Nat) (write : W32) (eos : Bool) (slot row : Nat) (s : State)  (hs : Canon s) : Canon (ingestDb fn c write eos slot row s) := by
  unfold ingestDb
  repeat' (first
    | with_reducible assumption | (fail_if_no_progress extract_lets +onlyGivenNames s_) | with_reducible apply canon_denied
    | with_reducible apply canon_dropCmd | with_reducible apply canon_chanSettle | with_reducible apply canon_modChan | split)

theorem canon_skipRecord (c len : Nat) (s : State)  (hs : Canon s) : Canon (skipRecord c len s) := by
  unfold skipRecord
  repeat' (first
    | with_reducible assumption | with_reducible apply canon_count | with_reducible apply canon_modChan)

theorem canon_recordHeader (c : Nat) (s : State)  (hs : Canon s) : Canon (recordHeader c s) := by
  unfold recordHeader
  repeat' (first
    | with_reducible assumption | (fail_if_no_progress extract_lets +onlyGivenNames s_) | with_reducible apply canon_modChan
    | with_reducible apply canon_ringRead | with_reducible apply canon_count | with_reducible apply canon_chanSettle
    | with_reducible apply canon_ingestPoison | with_reducible apply canon_chanSync | with_reducible apply canon_modSample
    | with_reducible apply canon_skipRecord | dsimp only | split)

theorem canon_sampleDispatch (c : Nat) (id : W32) (s : State)  (hs : Canon s) : Canon (sampleDispatch c id s) := by
  unfold sampleDispatch
  repeat' (first
    | with_reducible assumption | (fail_if_no_progress extract_lets +onlyGivenNames s_) | with_reducible apply canon_modSample
    | with_reducible apply canon_modBuf | split)

theorem canon_putPlanes (layout addr w h : Nat) (bs : List Byte) (s : State)  (hs : Canon s) : Canon (putPlanes layout addr w h bs s) := by
  unfold putPlanes
  repeat' (first
    | with_reducible assumption
    | ((fail_if_no_progress extract_lets +onlyGivenNames s_); first | (refine canon_cut (s := s_) ?_ (fun hc_ => ?_); (on_goal 2 => (try clear_value s_)); unfold s_) | skip)
    | with_reducible apply canon_putRows | dsimp only | split)

theorem canon_jpegDone (c : Nat) (id : W32) (r : JpegResult) (s : State)  (hs : Canon s) : Canon (jpegDone c id r s) := by
  unfold jpegDone
  repeat' (first
    | with_reducible assumption | (fail_if_no_progress extract_lets +onlyGivenNames s_) | with_reducible apply canon_putPlanes
    | with_reducible apply canon_modSample | dsimp only | split)

theorem canon_keepGood (c : Nat) (m : Sample) (s : State)  (hs : Canon s) : Canon (keepGood c m s) := by
  unfold keepGood
  repeat' (first
    | with_reducible assumption
    | ((fail_if_no_progress extract_lets +onlyGivenNames s_); first | (refine canon_cut (s := s_) ?_ (fun hc_ => ?_); (on_goal 2 => (try clear_value s_)); unfold s_) | skip)
    | with_reducible apply canon_engWrite | with_reducible apply canon_modChan | split)

theorem canon_emitSample (c : Nat) (m : Sample) (flags code size row seg pos : Nat) (label : Option (List Byte)) (s : State)  (hs : Canon s) : Canon (emitSample c m flags code size row seg pos label s) := by
  unfold emitSample
  repeat' (first
    | with_reducible assumption
    | ((fail_if_no_progress extract_lets +onlyGivenNames s_); first | (refine canon_cut (s := s_) ?_ (fun hc_ => ?_); (on_goal 2 => (try clear_value s_)); unfold s_) | skip)
    | with_reducible apply canon_engWrite | with_reducible apply canon_setMark | with_reducible apply canon_modBuf
    | with_reducible apply canon_ringIndex | with_reducible apply canon_ringPut | with_reducible apply canon_modChan
    | with_reducible apply canon_count | with_reducible apply canon_closeBatch | with_reducible apply canon_chanSettle
    | with_reducible apply canon_writeStat | split | dsimp +zetaDelta only)

theorem canon_deliver (c : Nat) (m : Sample) (flags code : Nat) (k : Content) (label : Option (List Byte)) (s : State)  (hs : Canon s) : Canon (deliver c m flags code k label s).1 := by
  unfold deliver
  repeat' (first
    | with_reducible assumption | (fail_if_no_progress extract_lets +onlyGivenNames s_) | with_reducible apply canon_putPlanes
    | with_reducible apply canon_emitSample | with_reducible apply canon_engWrite | with_reducible apply canon_closeBatch
    | with_reducible apply canon_placeIn | with_reducible apply canon_openRow | dsimp only | split)

theorem canon_deliver_eq {c : Nat} {m : Sample} {flags code : Nat} {k : Content} {label : Option (List Byte)} {s : State}  {v0_} {v1_} (he_ : deliver c m flags code k label s = (v0_, v1_)) (hs : Canon s) :
    Canon v0_ := by
  have := canon_deliver c m flags code k label s  hs
  rw [he_] at this
  exact this

theorem canon_replaceSample (c : Nat) (m : Sample) (flags code : Nat) (s : State)  (hs : Canon s) : Canon (replaceSample c m flags code s).1 := by
  unfold replaceSample
  repeat' (first
    | with_reducible assumption
    | ((fail_if_no_progress extract_lets +onlyGivenNames s_); first | (refine canon_cut (s := s_) ?_ (fun hc_ => ?_); (on_goal 2 => (try clear_value s_)); unfold s_) | skip)
    | with_reducible apply canon_deliver | with_reducible refine canon_deliver_eq (by assumption) ?_ | with_reducible apply canon_modSample
    | with_reducible apply canon_mem | with_reducible apply canon_hostMem | with_reducible apply canon_regs | with_reducible apply canon_foldl
    | dsimp only | (intro s_ hc_; beta_reduce) | intro _ | split | (simp only [canon_mk_iff]; refine ⟨?_, ?_, ?_⟩))

theorem canon_replaceSample_eq {c : Nat} {m : Sample} {flags code : Nat} {s : State}  {v0_} {v1_} (he_ : replaceSample c m flags code s = (v0_, v1_)) (hs : Canon s) :
    Canon v0_ := by
  have := canon_replaceSample c m flags code s  hs
  rw [he_] at this
  exact this

theorem canon_payloadRead (x : Chan) (m : Sample) (s : State)  (hs : Canon s) : Canon (payloadRead x m s) := by
  unfold payloadRead
  repeat' (first
    | with_reducible assumption
    | ((fail_if_no_progress extract_lets +onlyGivenNames s_); first | (refine canon_cut (s := s_) ?_ (fun hc_ => ?_); (on_goal 2 => (try clear_value s_)); unfold s_) | (refine canon_cut (s := s_.s) ?_ (fun hc_ => ?_); (on_goal 2 => (try clear_value s_)); unfold s_) | (refine canon_cut (s := s_.1) ?_ (fun hc_ => ?_); (on_goal 2 => (try clear_value s_)); unfold s_) | (refine canon_cut (s := s_.2) ?_ (fun hc_ => ?_); (on_goal 2 => (try clear_value s_)); unfold s_) | (refine canon_cut (s := s_.2.s) ?_ (fun hc_ => ?_); (on_goal 2 => (try clear_value s_)); unfold s_) | (refine canon_cut (s := s_.2.2) ?_ (fun hc_ => ?_); (on_goal 2 => (try clear_value s_)); unfold s_) | (refine canon_cut (s := s_.2.2.s) ?_ (fun hc_ => ?_); (on_goal 2 => (try clear_value s_)); unfold s_) | (refine canon_cut (s := s_.1.s) ?_ (fun hc_ => ?_); (on_goal 2 => (try clear_value s_)); unfold s_) | (refine canon_cut (s := s_.1.a.s) ?_ (fun hc_ => ?_); (on_goal 2 => (try clear_value s_)); unfold s_) | (refine canon_cut (s := s_.a.s) ?_ (fun hc_ => ?_); (on_goal 2 => (try clear_value s_)); unfold s_) | (refine canon_cut (s := s_.2.a.s) ?_ (fun hc_ => ?_); (on_goal 2 => (try clear_value s_)); unfold s_) | skip)
    | with_reducible apply canon_ringRead
    | with_reducible refine canon_ringRead_eq (by assumption) ?_
    | with_reducible apply canon_ingestPoison
    | with_reducible apply canon_mem
    | with_reducible apply canon_hostMem
    | with_reducible apply canon_regs
    | with_reducible apply wf_mwrite
    | with_reducible apply wf_mset
    | with_reducible apply wf_mfill
    | with_reducible apply wf_filter
    | with_reducible apply rwf_rset
    | with_reducible apply rwf_filter
    | with_reducible apply wf_nil
    | with_reducible apply rwf_nil
    | with_reducible apply canon_foldl
    | with_reducible apply canon_foldl_s
    | with_reducible apply canon_foldl_1
    | with_reducible apply canon_foldl_2
    | with_reducible apply canon_foldl_2s
    | with_reducible apply canon_foldl_22
    | with_reducible apply canon_foldl_22s
    | with_reducible apply canon_foldl_A
    | with_reducible apply canon_foldl_as
    | with_reducible apply canon_foldl_das
    | with_reducible apply canon_foldl_2das
    | with_reducible apply canon_foldl_1as
    | dsimp only
    | (intro s_ hc_; beta_reduce)
    | intro _
    | split
    | (simp only [canon_mk_iff]; refine ⟨?_, ?_, ?_⟩)
    | ((fail_if_no_progress clear_value *); split)
    | dsimp +zetaDelta only)

theorem canon_sampleEnd (c : Nat) (m : Sample) (flags : Nat) (s : State)  (hs : Canon s) : Canon (sampleEnd c m flags s) := by
  unfold sampleEnd
  repeat' (first
    | with_reducible assumption
    | ((fail_if_no_progress extract_lets +onlyGivenNames s_); first | (refine canon_cut (s := s_) ?_ (fun hc_ => ?_); (on_goal 2 => (try clear_value s_)); unfold s_) | (refine canon_cut (s := s_.s) ?_ (fun hc_ => ?_); (on_goal 2 => (try clear_value s_)); unfold s_) | (refine canon_cut (s := s_.1) ?_ (fun hc_ => ?_); (on_goal 2 => (try clear_value s_)); unfold s_) | (refine canon_cut (s := s_.2) ?_ (fun hc_ => ?_); (on_goal 2 => (try clear_value s_)); unfold s_) | (refine canon_cut (s := s_.2.s) ?_ (fun hc_ => ?_); (on_goal 2 => (try clear_value s_)); unfold s_) | (refine canon_cut (s := s_.2.2) ?_ (fun hc_ => ?_); (on_goal 2 => (try clear_value s_)); unfold s_) | (refine canon_cut (s := s_.2.2.s) ?_ (fun hc_ => ?_); (on_goal 2 => (try clear_value s_)); unfold s_) | (refine canon_cut (s := s_.1.s) ?_ (fun hc_ => ?_); (on_goal 2 => (try clear_value s_)); unfold s_) | (refine canon_cut (s := s_.1.a.s) ?_ (fun hc_ => ?_); (on_goal 2 => (try clear_value s_)); unfold s_) | (refine canon_cut (s := s_.a.s) ?_ (fun hc_ => ?_); (on_goal 2 => (try clear_value s_)); unfold s_) | (refine canon_cut (s := s_.2.a.s) ?_ (fun hc_ => ?_); (on_goal 2 => (try clear_value s_)); unfold s_) | skip)
    | with_reducible apply canon_deliver
    | with_reducible refine canon_deliver_eq (by assumption) ?_
    | with_reducible apply canon_keepGood
    | with_reducible apply canon_payloadRead
    | with_reducible apply canon_replaceSample
    | with_reducible refine canon_replaceSample_eq (by assumption) ?_
    | with_reducible apply canon_mem
    | with_reducible apply canon_hostMem
    | with_reducible apply canon_regs
    | with_reducible apply wf_mwrite
    | with_reducible apply wf_mset
    | with_reducible apply wf_mfill
    | with_reducible apply wf_filter
    | with_reducible apply rwf_rset
    | with_reducible apply rwf_filter
    | with_reducible apply wf_nil
    | with_reducible apply rwf_nil
    | with_reducible apply canon_foldl
    | with_reducible apply canon_foldl_s
    | with_reducible apply canon_foldl_1
    | with_reducible apply canon_foldl_2
    | with_reducible apply canon_foldl_2s
    | with_reducible apply canon_foldl_22
    | with_reducible apply canon_foldl_22s
    | with_reducible apply canon_foldl_A
    | with_reducible apply canon_foldl_as
    | with_reducible apply canon_foldl_das
    | with_reducible apply canon_foldl_2das
    | with_reducible apply canon_foldl_1as
    | dsimp only
    | (intro s_ hc_; beta_reduce)
    | intro _
    | split
    | (simp only [canon_mk_iff]; refine ⟨?_, ?_, ?_⟩)
    | ((fail_if_no_progress clear_value *); split)
    | dsimp +zetaDelta only)

theorem canon_sampleFinish (c : Nat) (id : W32) (s : State)  (hs : Canon s) : Canon (sampleFinish c id s) := by
  unfold sampleFinish
  repeat' (first
    | with_reducible assumption
    | ((fail_if_no_progress extract_lets +onlyGivenNames s_); first | (refine canon_cut (s := s_) ?_ (fun hc_ => ?_); (on_goal 2 => (try clear_value s_)); unfold s_) | (refine canon_cut (s := s_.s) ?_ (fun hc_ => ?_); (on_goal 2 => (try clear_value s_)); unfold s_) | (refine canon_cut (s := s_.1) ?_ (fun hc_ => ?_); (on_goal 2 => (try clear_value s_)); unfold s_) | (refine canon_cut (s := s_.2) ?_ (fun hc_ => ?_); (on_goal 2 => (try clear_value s_)); unfold s_) | (refine canon_cut (s := s_.2.s) ?_ (fun hc_ => ?_); (on_goal 2 => (try clear_value s_)); unfold s_) | (refine canon_cut (s := s_.2.2) ?_ (fun hc_ => ?_); (on_goal 2 => (try clear_value s_)); unfold s_) | (refine canon_cut (s := s_.2.2.s) ?_ (fun hc_ => ?_); (on_goal 2 => (try clear_value s_)); unfold s_) | (refine canon_cut (s := s_.1.s) ?_ (fun hc_ => ?_); (on_goal 2 => (try clear_value s_)); unfold s_) | (refine canon_cut (s := s_.1.a.s) ?_ (fun hc_ => ?_); (on_goal 2 => (try clear_value s_)); unfold s_) | (refine canon_cut (s := s_.a.s) ?_ (fun hc_ => ?_); (on_goal 2 => (try clear_value s_)); unfold s_) | (refine canon_cut (s := s_.2.a.s) ?_ (fun hc_ => ?_); (on_goal 2 => (try clear_value s_)); unfold s_) | skip)
    | with_reducible apply canon_deliver
    | with_reducible refine canon_deliver_eq (by assumption) ?_
    | with_reducible apply canon_replaceSample
    | with_reducible refine canon_replaceSample_eq (by assumption) ?_
    | with_reducible apply canon_sampleEnd
    | with_reducible apply canon_mem
    | with_reducible apply canon_hostMem
    | with_reducible apply canon_regs
    | with_reducible apply wf_mwrite
    | with_reducible apply wf_mset
    | with_reducible apply wf_mfill
    | with_reducible apply wf_filter
    | with_reducible apply rwf_rset
    | with_reducible apply rwf_filter
    | with_reducible apply wf_nil
    | with_reducible apply rwf_nil
    | with_reducible apply canon_foldl
    | with_reducible apply canon_foldl_s
    | with_reducible apply canon_foldl_1
    | with_reducible apply canon_foldl_2
    | with_reducible apply canon_foldl_2s
    | with_reducible apply canon_foldl_22
    | with_reducible apply canon_foldl_22s
    | with_reducible apply canon_foldl_A
    | with_reducible apply canon_foldl_as
    | with_reducible apply canon_foldl_das
    | with_reducible apply canon_foldl_2das
    | with_reducible apply canon_foldl_1as
    | dsimp only
    | (intro s_ hc_; beta_reduce)
    | intro _
    | split
    | (simp only [canon_mk_iff]; refine ⟨?_, ?_, ?_⟩)
    | ((fail_if_no_progress clear_value *); split)
    | dsimp +zetaDelta only)

theorem canon_sampleSlow (c : Nat) (id : W32) (s : State)  (hs : Canon s) : Canon (sampleSlow c id s) := by
  unfold sampleSlow
  repeat' (first
    | with_reducible assumption
    | ((fail_if_no_progress extract_lets +onlyGivenNames s_); first | (refine canon_cut (s := s_) ?_ (fun hc_ => ?_); (on_goal 2 => (try clear_value s_)); unfold s_) | skip)
    | with_reducible apply canon_replaceSample | with_reducible refine canon_replaceSample_eq (by assumption) ?_
    | with_reducible apply canon_modSample | with_reducible apply canon_mem | with_reducible apply canon_hostMem | with_reducible apply canon_regs
    | with_reducible apply canon_foldl | dsimp only | (intro s_ hc_; beta_reduce) | intro _ | split | (simp only [canon_mk_iff]; refine ⟨?_, ?_, ?_⟩))

theorem canon_batchDeadline (c : Nat) (s : State)  (hs : Canon s) : Canon (batchDeadline c s) := by
  unfold batchDeadline
  repeat' (first
    | with_reducible assumption | (fail_if_no_progress extract_lets +onlyGivenNames s_) | with_reducible apply canon_chanSettle
    | with_reducible apply canon_closeBatch | dsimp only | split)

theorem canon_execIngestEnable (fn : Fn) (c : Fin 16) (value : W64) (s : State) (hs : Canon s) : OutCanon (execIngestEnable fn c value s) := by
  unfold execIngestEnable
  repeat' (first
    | with_reducible assumption | with_reducible apply canon_live | with_reducible apply canon_orRecord | with_reducible apply canon_ingestRingWrite
    | (intro s_ hc_; beta_reduce))

theorem canon_execIngestDisable (fn : Fn) (c : Fin 16) (s : State) (hs : Canon s) : OutCanon (execIngestDisable fn c s) := by
  unfold execIngestDisable
  repeat' (first
    | with_reducible assumption | with_reducible apply canon_live | with_reducible apply canon_orRecord | with_reducible apply canon_ingestRingWrite
    | (intro s_ hc_; beta_reduce))

theorem canon_execIngestDoorbell (fn : Fn) (c : Fin 16) (write : W32) (s : State) (hs : Canon s) : OutCanon (execIngestDoorbell fn c write s) := by
  unfold execIngestDoorbell
  repeat' (first
    | with_reducible assumption | with_reducible apply canon_live | with_reducible apply canon_orRecord | with_reducible apply canon_ingestDb
    | (intro s_ hc_; beta_reduce))

theorem canon_execIngestEos (fn : Fn) (c : Fin 16) (write : W32) (s : State) (hs : Canon s) : OutCanon (execIngestEos fn c write s) := by
  unfold execIngestEos
  repeat' (first
    | with_reducible assumption | with_reducible apply canon_live | with_reducible apply canon_orRecord | with_reducible apply canon_ingestDb
    | (intro s_ hc_; beta_reduce))

theorem canon_execSlotDone (fn : Fn) (c : Fin 16) (n : BitVec 14) (s : State) (hs : Canon s) : OutCanon (execSlotDone fn c n s) := by
  unfold execSlotDone
  repeat' (first
    | with_reducible assumption | with_reducible apply canon_live | with_reducible apply canon_orRecord | with_reducible apply canon_ingestDb
    | (intro s_ hc_; beta_reduce))

theorem canon_execRowDone (fn : Fn) (c : Fin 16) (n : BitVec 16) (s : State) (hs : Canon s) : OutCanon (execRowDone fn c n s) := by
  unfold execRowDone
  repeat' (first
    | with_reducible assumption | with_reducible apply canon_live | with_reducible apply canon_orRecord | with_reducible apply canon_ingestDb
    | (intro s_ hc_; beta_reduce))

theorem canon_execRecordHeader (c : Fin 16) (s : State) (hs : Canon s) : OutCanon (execRecordHeader c s) := by
  unfold execRecordHeader
  repeat' (first
    | with_reducible assumption | with_reducible apply canon_running | with_reducible apply canon_recordHeader)

theorem canon_execSampleDispatch (c : Fin 16) (id : W32) (s : State) (hs : Canon s) : OutCanon (execSampleDispatch c id s) := by
  unfold execSampleDispatch
  repeat' (first
    | with_reducible assumption | with_reducible apply canon_running | with_reducible apply canon_sampleDispatch)

theorem canon_execSampleFinish (c : Fin 16) (id : W32) (s : State) (hs : Canon s) : OutCanon (execSampleFinish c id s) := by
  unfold execSampleFinish
  repeat' (first
    | with_reducible assumption | with_reducible apply canon_running | with_reducible apply canon_sampleFinish)

theorem canon_execSampleSlow (c : Fin 16) (id : W32) (s : State) (hs : Canon s) : OutCanon (execSampleSlow c id s) := by
  unfold execSampleSlow
  repeat' (first
    | with_reducible assumption | with_reducible apply canon_running | with_reducible apply canon_sampleSlow)

theorem canon_execBatchDeadline (c : Fin 16) (s : State) (hs : Canon s) : OutCanon (execBatchDeadline c s) := by
  unfold execBatchDeadline
  repeat' (first
    | with_reducible assumption | with_reducible apply canon_running | with_reducible apply canon_batchDeadline)

theorem canon_execJpegDone (c : Fin 16) (id : W32) (r : JpegResult) (s : State) (hs : Canon s) : OutCanon (execJpegDone c id r s) := by
  unfold execJpegDone
  repeat' (first
    | with_reducible assumption | with_reducible apply canon_running | with_reducible apply canon_jpegDone)

end Sys2Proof.Machine
end

