-- ==== Sys2Proof/Laws/Canon/Track.lean ====
section
/-!
SUPPORT. The operations and meanings of Machine/Track.lean keep the canonical form of the memories and of the register file.
-/
set_option linter.all false
namespace Sys2Proof.Machine

theorem canon_putCtx (i : Nat) (img : List Byte) (s : State)  (hs : Canon s) : Canon (putCtx i img s) := by
  unfold putCtx
  repeat' (first
    | with_reducible assumption | with_reducible apply canon_devWrite)

theorem canon_freeCtx (i : Nat) (s : State)  (hs : Canon s) : Canon (freeCtx i s) := by
  unfold freeCtx
  repeat' (first
    | with_reducible assumption | with_reducible apply canon_putCtx)

theorem canon_putBound (s : State) (h : Nat) (x : Bound)  (hs : Canon s) : Canon (State.putBound s h x) := by
  unfold State.putBound
  repeat' (first
    | with_reducible assumption | (fail_if_no_progress extract_lets +onlyGivenNames s_) | with_reducible apply canon_mem
    | with_reducible apply canon_hostMem | with_reducible apply canon_regs | (simp only [canon_mk_iff]; refine ⟨?_, ?_, ?_⟩))

theorem canon_modBound (s : State) (h : Nat) (f : Bound → Bound)  (hs : Canon s) : Canon (State.modBound s h f) := by
  unfold State.modBound
  repeat' (first
    | with_reducible assumption | with_reducible apply canon_putBound | split)

theorem canon_tcount (h off n : Nat) (s : State)  (hs : Canon s) : Canon (tcount h off n s) := by
  unfold tcount
  repeat' (first
    | with_reducible assumption | with_reducible apply canon_modBound)

theorem canon_trackStat (h : Nat) (s : State)  (hs : Canon s) : Canon (trackStat h s) := by
  unfold trackStat
  repeat' (first
    | with_reducible assumption | (fail_if_no_progress extract_lets +onlyGivenNames s_) | with_reducible apply canon_spaceWrite | dsimp only | split)

theorem canon_metaWaitEnd (h : Nat) (s : State)  (hs : Canon s) : Canon (metaWaitEnd h s) := by
  unfold metaWaitEnd
  repeat' (first
    | with_reducible assumption | with_reducible apply canon_tcount | with_reducible apply canon_modBound | split)

theorem canon_trackEnd (code : Nat) (s : State)  (hs : Canon s) : Canon (trackEnd code s) := by
  unfold trackEnd
  repeat' (first
    | with_reducible assumption | with_reducible apply canon_setFld | with_reducible apply canon_setBit)

theorem canon_bindStream (h : Nat) (p : List Byte) (s : State)  (hs : Canon s) : Canon (bindStream h p s).1 := by
  unfold bindStream
  repeat' (first
    | with_reducible assumption | with_reducible apply canon_putBound | split)

theorem canon_bindStream_eq {h : Nat} {p : List Byte} {s : State}  {v0_} {v1_} (he_ : bindStream h p s = (v0_, v1_)) (hs : Canon s) :
    Canon v0_ := by
  have := canon_bindStream h p s  hs
  rw [he_] at this
  exact this

theorem canon_clearCtxs (h : Nat) (s : State)  (hs : Canon s) : Canon (clearCtxs h s) := by
  unfold clearCtxs
  repeat' (first
    | with_reducible assumption | with_reducible apply canon_freeCtx | with_reducible apply canon_foldl | (intro s_ hc_; beta_reduce))

theorem canon_trackLeave (s : State)  (hs : Canon s) : Canon (trackLeave s) := by
  unfold trackLeave
  repeat' (first
    | with_reducible assumption
    | ((fail_if_no_progress extract_lets +onlyGivenNames s_); first | (refine canon_cut (s := s_) ?_ (fun hc_ => ?_); (on_goal 2 => (try clear_value s_)); unfold s_) | (refine canon_cut (s := s_.s) ?_ (fun hc_ => ?_); (on_goal 2 => (try clear_value s_)); unfold s_) | (refine canon_cut (s := s_.1) ?_ (fun hc_ => ?_); (on_goal 2 => (try clear_value s_)); unfold s_) | (refine canon_cut (s := s_.2) ?_ (fun hc_ => ?_); (on_goal 2 => (try clear_value s_)); unfold s_) | (refine canon_cut (s := s_.2.s) ?_ (fun hc_ => ?_); (on_goal 2 => (try clear_value s_)); unfold s_) | (refine canon_cut (s := s_.2.2) ?_ (fun hc_ => ?_); (on_goal 2 => (try clear_value s_)); unfold s_) | (refine canon_cut (s := s_.2.2.s) ?_ (fun hc_ => ?_); (on_goal 2 => (try clear_value s_)); unfold s_) | (refine canon_cut (s := s_.1.s) ?_ (fun hc_ => ?_); (on_goal 2 => (try clear_value s_)); unfold s_) | (refine canon_cut (s := s_.1.a.s) ?_ (fun hc_ => ?_); (on_goal 2 => (try clear_value s_)); unfold s_) | (refine canon_cut (s := s_.a.s) ?_ (fun hc_ => ?_); (on_goal 2 => (try clear_value s_)); unfold s_) | (refine canon_cut (s := s_.2.a.s) ?_ (fun hc_ => ?_); (on_goal 2 => (try clear_value s_)); unfold s_) | skip)
    | with_reducible apply canon_clearCtxs
    | with_reducible apply canon_mem
    | with_reducible apply canon_hostMem
    | with_reducible apply canon_regs
    | with_reducible apply wf_mwrite
    | with_reducible apply wf_mset
    | with_reducible apply wf_mfill
    | with_reducible apply wf_filter
    | with_reducible apply rwf_rset
    | with_reducible apply rwf_filter
    | with_reducible apply wf_nil
    | with_reducible apply rwf_nil
    | with_reducible apply canon_foldl
    | with_reducible apply canon_foldl_s
    | with_reducible apply canon_foldl_1
    | with_reducible apply canon_foldl_2
    | with_reducible apply canon_foldl_2s
    | with_reducible apply canon_foldl_22
    | with_reducible apply canon_foldl_22s
    | with_reducible apply canon_foldl_A
    | with_reducible apply canon_foldl_as
    | with_reducible apply canon_foldl_das
    | with_reducible apply canon_foldl_2das
    | with_reducible apply canon_foldl_1as
    | dsimp only
    | (intro s_ hc_; beta_reduce)
    | intro _
    | split
    | (simp only [canon_mk_iff]; refine ⟨?_, ?_, ?_⟩)
    | ((fail_if_no_progress clear_value *); split)
    | dsimp +zetaDelta only)

theorem canon_trackCmdStep (s : State)  (hs : Canon s) : Canon (trackCmdStep s) := by
  unfold trackCmdStep
  repeat' (first
    | with_reducible assumption
    | ((fail_if_no_progress extract_lets +onlyGivenNames s_); first | (refine canon_cut (s := s_) ?_ (fun hc_ => ?_); (on_goal 2 => (try clear_value s_)); unfold s_) | skip)
    | with_reducible apply canon_trackLeave | with_reducible apply canon_trackEnd | with_reducible apply canon_clearCtxs
    | with_reducible apply canon_metaWaitEnd | with_reducible apply canon_modBound | with_reducible apply canon_mem
    | with_reducible apply canon_hostMem | with_reducible apply canon_regs | with_reducible apply canon_foldl | dsimp only
    | (intro s_ hc_; beta_reduce) | intro _ | split | (simp only [canon_mk_iff]; refine ⟨?_, ?_, ?_⟩))

theorem canon_trackBind (fn : Fn) (h : Nat) (s : State)  (hs : Canon s) : Canon (trackBind fn h s) := by
  unfold trackBind
  repeat' (first
    | with_reducible assumption | with_reducible apply canon_denied | with_reducible apply canon_dropCmd | with_reducible apply canon_engRead
    | with_reducible apply canon_bindStream | with_reducible apply canon_trackEnd | dsimp only | split)

theorem canon_trackDrop (fn : Fn) (h : Nat) (unbind : Bool) (s : State)  (hs : Canon s) : Canon (trackDrop fn h unbind s) := by
  unfold trackDrop
  repeat' (first
    | with_reducible assumption
    | ((fail_if_no_progress extract_lets +onlyGivenNames s_); first | (refine canon_cut (s := s_) ?_ (fun hc_ => ?_); (on_goal 2 => (try clear_value s_)); unfold s_) | skip)
    | with_reducible apply canon_denied | with_reducible apply canon_dropCmd | with_reducible apply canon_trackEnd | with_reducible apply canon_setFld
    | with_reducible apply canon_trackCmdStep | with_reducible apply canon_setBit | with_reducible apply canon_mem
    | with_reducible apply canon_hostMem | with_reducible apply canon_regs | split | (simp only [canon_mk_iff]; refine ⟨?_, ?_, ?_⟩))

theorem canon_modTrackRing (s : State) (p : Nat) (f : OpRing → OpRing)  (hs : Canon s) : Canon (State.modTrackRing s p f) := by
  unfold State.modTrackRing
  repeat' (first
    | with_reducible assumption | (fail_if_no_progress extract_lets +onlyGivenNames s_) | with_reducible apply canon_mem
    | with_reducible apply canon_hostMem | with_reducible apply canon_regs | (simp only [canon_mk_iff]; refine ⟨?_, ?_, ?_⟩))

theorem canon_trackAdvance (p : Nat) (s : State)  (hs : Canon s) : Canon (trackAdvance p s) := by
  unfold trackAdvance
  repeat' (first
    | with_reducible assumption | (fail_if_no_progress extract_lets +onlyGivenNames s_) | with_reducible apply canon_modTrackRing
    | with_reducible apply canon_setReg | with_reducible apply canon_mem | with_reducible apply canon_hostMem | with_reducible apply canon_regs
    | (simp only [canon_mk_iff]; refine ⟨?_, ?_, ?_⟩))

theorem canon_ringForgets (p : Nat) (s : State)  (hs : Canon s) : Canon (ringForgets p s) := by
  unfold ringForgets
  repeat' (first
    | with_reducible assumption
    | ((fail_if_no_progress extract_lets +onlyGivenNames s_); first | (refine canon_cut (s := s_) ?_ (fun hc_ => ?_); (on_goal 2 => (try clear_value s_)); unfold s_) | (refine canon_cut (s := s_.s) ?_ (fun hc_ => ?_); (on_goal 2 => (try clear_value s_)); unfold s_) | (refine canon_cut (s := s_.1) ?_ (fun hc_ => ?_); (on_goal 2 => (try clear_value s_)); unfold s_) | (refine canon_cut (s := s_.2) ?_ (fun hc_ => ?_); (on_goal 2 => (try clear_value s_)); unfold s_) | (refine canon_cut (s := s_.2.s) ?_ (fun hc_ => ?_); (on_goal 2 => (try clear_value s_)); unfold s_) | (refine canon_cut (s := s_.2.2) ?_ (fun hc_ => ?_); (on_goal 2 => (try clear_value s_)); unfold s_) | (refine canon_cut (s := s_.2.2.s) ?_ (fun hc_ => ?_); (on_goal 2 => (try clear_value s_)); unfold s_) | (refine canon_cut (s := s_.1.s) ?_ (fun hc_ => ?_); (on_goal 2 => (try clear_value s_)); unfold s_) | (refine canon_cut (s := s_.1.a.s) ?_ (fun hc_ => ?_); (on_goal 2 => (try clear_value s_)); unfold s_) | (refine canon_cut (s := s_.a.s) ?_ (fun hc_ => ?_); (on_goal 2 => (try clear_value s_)); unfold s_) | (refine canon_cut (s := s_.2.a.s) ?_ (fun hc_ => ?_); (on_goal 2 => (try clear_value s_)); unfold s_) | skip)
    | with_reducible apply canon_mapPipes
    | with_reducible apply canon_mem
    | with_reducible apply canon_hostMem
    | with_reducible apply canon_regs
    | with_reducible apply wf_mwrite
    | with_reducible apply wf_mset
    | with_reducible apply wf_mfill
    | with_reducible apply wf_filter
    | with_reducible apply rwf_rset
    | with_reducible apply rwf_filter
    | with_reducible apply wf_nil
    | with_reducible apply rwf_nil
    | with_reducible apply canon_foldl
    | with_reducible apply canon_foldl_s
    | with_reducible apply canon_foldl_1
    | with_reducible apply canon_foldl_2
    | with_reducible apply canon_foldl_2s
    | with_reducible apply canon_foldl_22
    | with_reducible apply canon_foldl_22s
    | with_reducible apply canon_foldl_A
    | with_reducible apply canon_foldl_as
    | with_reducible apply canon_foldl_das
    | with_reducible apply canon_foldl_2das
    | with_reducible apply canon_foldl_1as
    | dsimp only
    | (intro s_ hc_; beta_reduce)
    | intro _
    | split
    | (simp only [canon_mk_iff]; refine ⟨?_, ?_, ?_⟩)
    | ((fail_if_no_progress clear_value *); split)
    | dsimp +zetaDelta only)

theorem canon_trackRingWrite (fn : Fn) (p : Nat) (v : W64) (s : State)  (hs : Canon s) : Canon (trackRingWrite fn p v s) := by
  unfold trackRingWrite
  repeat' (first
    | with_reducible assumption
    | ((fail_if_no_progress extract_lets +onlyGivenNames s_); first | (refine canon_cut (s := s_) ?_ (fun hc_ => ?_); (on_goal 2 => (try clear_value s_)); unfold s_) | skip)
    | with_reducible apply canon_denied | with_reducible apply canon_ringForgets | with_reducible apply canon_modTrackRing
    | with_reducible apply canon_setReg | with_reducible apply canon_mem | with_reducible apply canon_hostMem | with_reducible apply canon_regs
    | with_reducible apply canon_foldl | dsimp only | (intro s_ hc_; beta_reduce) | intro _ | split | (simp only [canon_mk_iff]; refine ⟨?_, ?_, ?_⟩))

theorem canon_trackDoorbell (fn : Fn) (p : Nat) (t : W32) (s : State)  (hs : Canon s) : Canon (trackDoorbell fn p t s) := by
  unfold trackDoorbell
  repeat' (first
    | with_reducible assumption | with_reducible apply canon_denied | with_reducible apply canon_dropCmd | with_reducible apply canon_modTrackRing
    | split)

theorem canon_opTaken (p : Nat) (src : OpFrom) (s : State)  (hs : Canon s) : Canon (opTaken p src s) := by
  unfold opTaken
  repeat' (first
    | with_reducible assumption
    | ((fail_if_no_progress extract_lets +onlyGivenNames s_); first | (refine canon_cut (s := s_) ?_ (fun hc_ => ?_); (on_goal 2 => (try clear_value s_)); unfold s_) | skip)
    | with_reducible apply canon_mapPipes | with_reducible apply canon_mem | with_reducible apply canon_hostMem | with_reducible apply canon_regs
    | with_reducible apply canon_foldl | dsimp only | (intro s_ hc_; beta_reduce) | intro _ | split | (simp only [canon_mk_iff]; refine ⟨?_, ?_, ?_⟩))

theorem canon_opDone (p : Nat) (src : OpFrom) (s : State)  (hs : Canon s) : Canon (opDone p src s) := by
  unfold opDone
  repeat' (first
    | with_reducible assumption | (fail_if_no_progress extract_lets +onlyGivenNames s_) | with_reducible apply canon_trackAdvance
    | with_reducible apply canon_mem | with_reducible apply canon_hostMem | with_reducible apply canon_regs | split
    | (simp only [canon_mk_iff]; refine ⟨?_, ?_, ?_⟩))

theorem canon_opSignal (o : List Byte) (s : State)  (hs : Canon s) : Canon (opSignal o s) := by
  unfold opSignal
  repeat' (first
    | with_reducible assumption | with_reducible apply canon_semUpdate | split)

theorem canon_skipOp (p : Nat) (src : OpFrom) (o : List Byte) (s : State)  (hs : Canon s) : Canon (skipOp p src o s) := by
  unfold skipOp
  repeat' (first
    | with_reducible assumption
    | ((fail_if_no_progress extract_lets +onlyGivenNames s_); first | (refine canon_cut (s := s_) ?_ (fun hc_ => ?_); (on_goal 2 => (try clear_value s_)); unfold s_) | skip)
    | with_reducible apply canon_viol | with_reducible apply canon_metaWaitEnd | with_reducible apply canon_opDone
    | with_reducible apply canon_opSignal | with_reducible apply canon_tcount | with_reducible apply canon_opTaken | with_reducible apply canon_mem
    | with_reducible apply canon_hostMem | with_reducible apply canon_regs | with_reducible apply canon_foldl | dsimp only
    | (intro s_ hc_; beta_reduce) | intro _ | split | (simp only [canon_mk_iff]; refine ⟨?_, ?_, ?_⟩))

theorem canon_dropDirty (h : Nat) (s : State)  (hs : Canon s) : Canon (dropDirty h s) := by
  unfold dropDirty
  repeat' (first
    | with_reducible assumption
    | ((fail_if_no_progress extract_lets +onlyGivenNames s_); first | (refine canon_cut (s := s_) ?_ (fun hc_ => ?_); (on_goal 2 => (try clear_value s_)); unfold s_) | skip)
    | with_reducible apply canon_freeCtx | with_reducible apply canon_errUncorrectable | with_reducible apply canon_modBound
    | with_reducible apply canon_mem | with_reducible apply canon_hostMem | with_reducible apply canon_regs | with_reducible apply canon_foldl
    | dsimp only | (intro s_ hc_; beta_reduce) | intro _ | split | (simp only [canon_mk_iff]; refine ⟨?_, ?_, ?_⟩))

theorem canon_predictOne (o : List Byte) (x : Bound) (dt : FVal) (n i : Nat) (s : State)  (hs : Canon s) : Canon (predictOne o x dt n i s).1 := by
  unfold predictOne
  repeat' (first
    | with_reducible assumption
    | ((fail_if_no_progress extract_lets +onlyGivenNames s_); first | (refine canon_cut (s := s_) ?_ (fun hc_ => ?_); (on_goal 2 => (try clear_value s_)); unfold s_) | skip)
    | with_reducible apply canon_devRead | with_reducible refine canon_devRead_eq (by assumption) ?_ | with_reducible apply canon_engWrite
    | with_reducible apply canon_putCtx | with_reducible apply canon_engRead | with_reducible refine canon_engRead_eq (by assumption) ?_
    | with_reducible apply canon_reportUnnamed | with_reducible apply canon_mem | with_reducible apply canon_hostMem | with_reducible apply canon_regs
    | with_reducible apply canon_foldl | dsimp only | (intro s_ hc_; beta_reduce) | intro _ | split | (simp only [canon_mk_iff]; refine ⟨?_, ?_, ?_⟩))

theorem canon_predictOne_eq {o : List Byte} {x : Bound} {dt : FVal} {n i : Nat} {s : State}  {v0_} {v1_} (he_ : predictOne o x dt n i s = (v0_, v1_)) (hs : Canon s) :
    Canon v0_ := by
  have := canon_predictOne o x dt n i s  hs
  rw [he_] at this
  exact this

theorem canon_predictAll (o : List Byte) (x : Bound) (dt : FVal) (x0 : Nat) (x1 : List Nat) (x2 : State) (hx2 : Canon x2) : Canon (predictAll o x dt x0 x1 x2).1 := by
  induction x1 generalizing x0 x2 with
  | nil =>
    unfold predictAll
    repeat' (first
        | with_reducible assumption | with_reducible apply canon_predictOne)
  | cons a l ih =>
    unfold predictAll
    repeat' (first
        | with_reducible assumption | with_reducible apply ih | with_reducible apply canon_predictOne)

theorem canon_predictAll_eq {o : List Byte} {x : Bound} {dt : FVal} {x0 : Nat} {x1 : List Nat} {x2 : State} {v0_} {v1_} (he_ : predictAll o x dt x0 x1 x2 = (v0_, v1_)) (hx2 : Canon x2) :
    Canon v0_ := by
  have := canon_predictAll o x dt x0 x1 x2 hx2
  rw [he_] at this
  exact this

theorem canon_runPredict (o : List Byte) (s : State)  (hs : Canon s) : Canon (runPredict o s) := by
  unfold runPredict
  repeat' (first
    | with_reducible assumption
    | ((fail_if_no_progress extract_lets +onlyGivenNames s_); first | (refine canon_cut (s := s_) ?_ (fun hc_ => ?_); (on_goal 2 => (try clear_value s_)); unfold s_) | skip)
    | with_reducible apply canon_dropDirty | with_reducible apply canon_predictAll | with_reducible apply canon_engWrite
    | with_reducible apply canon_modBound | dsimp only | split)

theorem canon_readDets (par : List Byte) (a : Nat) (x0 : Nat) (x1 : Nat) (x2 : State) (hx2 : Canon x2) : Canon (readDets par a x0 x1 x2).1 := by
  induction x0 generalizing x1 x2 with
  | zero =>
    unfold readDets
    repeat' (first
        | with_reducible assumption | with_reducible apply canon_engRead | dsimp only | split)
  | succ n ih =>
    unfold readDets
    repeat' (first
        | with_reducible assumption | with_reducible apply ih | with_reducible apply canon_engRead | dsimp only | split)

theorem canon_readDets_eq {par : List Byte} {a : Nat} {x0 : Nat} {x1 : Nat} {x2 : State} {v0_} {v1_} {v2_} {v3_} (he_ : readDets par a x0 x1 x2 = (v0_, v1_, v2_, v3_)) (hx2 : Canon x2) :
    Canon v0_ := by
  have := canon_readDets par a x0 x1 x2 hx2
  rw [he_] at this
  exact this

theorem canon_countStage (o : List Byte) (q : Nat) (rows : List Nat) (cols : List Nat) (s : State)  (hs : Canon s) : Canon (countStage o q rows cols s) := by
  unfold countStage
  repeat' (first
    | with_reducible assumption
    | ((fail_if_no_progress extract_lets +onlyGivenNames s_); first | (refine canon_cut (s := s_) ?_ (fun hc_ => ?_); (on_goal 2 => (try clear_value s_)); unfold s_) | skip)
    | with_reducible apply canon_countAccess | with_reducible apply canon_lostTaken | with_reducible apply canon_mem
    | with_reducible apply canon_hostMem | with_reducible apply canon_regs | with_reducible apply canon_foldl | dsimp only
    | (intro s_ hc_; beta_reduce) | intro _ | split | (simp only [canon_mk_iff]; refine ⟨?_, ?_, ?_⟩))

theorem canon_copyEmb (o : List Byte) (par : List Byte) (m slot : Nat) (s : State)  (hs : Canon s) : Canon (copyEmb o par m slot s) := by
  unfold copyEmb
  repeat' (first
    | with_reducible assumption | with_reducible apply canon_engRead | with_reducible apply canon_reportUnnamed | with_reducible apply canon_engWrite
    | dsimp only | split)

theorem canon_emaEmb (o : List Byte) (par : List Byte) (m slot : Nat) (s : State)  (hs : Canon s) : Canon (emaEmb o par m slot s) := by
  unfold emaEmb
  repeat' (first
    | with_reducible assumption | (fail_if_no_progress extract_lets +onlyGivenNames s_) | with_reducible apply canon_engRead
    | with_reducible apply canon_engWrite | with_reducible apply canon_reportUnnamed | dsimp only | split)

theorem canon_matchEmb (o : List Byte) (x : Bound) (ctx m : Nat) (s : State)  (hs : Canon s) : Canon (matchEmb o x ctx m s) := by
  unfold matchEmb
  repeat' (first
    | with_reducible assumption | (fail_if_no_progress extract_lets +onlyGivenNames s_) | with_reducible apply canon_copyEmb
    | with_reducible apply canon_emaEmb | split)

theorem canon_trackMatched (o : List Byte) (x : Bound) (t : Pred) (d : Det) (stage2 : Bool) (a : State × Gather)  (ha : Canon a.1) : Canon (trackMatched o x t d stage2 a).1 := by
  unfold trackMatched
  repeat' (first
    | with_reducible assumption | (fail_if_no_progress extract_lets +onlyGivenNames s_) | with_reducible apply canon_matchEmb
    | with_reducible apply canon_putCtx)

theorem canon_trackMatched_eq {o : List Byte} {x : Bound} {t : Pred} {d : Det} {stage2 : Bool} {a : State × Gather}  {v0_} {v1_} (he_ : trackMatched o x t d stage2 a = (v0_, v1_)) (ha : Canon a.1) :
    Canon v0_ := by
  have := canon_trackMatched o x t d stage2 a  ha
  rw [he_] at this
  exact this

theorem canon_trackMissed (x : Bound) (t : Pred) (a : State × Gather)  (ha : Canon a.1) : Canon (trackMissed x t a).1 := by
  unfold trackMissed
  repeat' (first
    | with_reducible assumption | (fail_if_no_progress extract_lets +onlyGivenNames s_) | with_reducible apply canon_freeCtx
    | with_reducible apply canon_putCtx | dsimp only | split)

theorem canon_trackMissed_eq {x : Bound} {t : Pred} {a : State × Gather}  {v0_} {v1_} (he_ : trackMissed x t a = (v0_, v1_)) (ha : Canon a.1) :
    Canon v0_ := by
  have := canon_trackMissed x t a  ha
  rw [he_] at this
  exact this

theorem canon_trackStep (o : List Byte) (x : Bound) (dets : List Det) (pairs : List (Nat × Nat × Bool)) (a : State × Gather) (nt : Pred × Nat)  (ha : Canon a.1) : Canon (trackStep o x dets pairs a nt).1 := by
  unfold trackStep
  repeat' (first
    | with_reducible assumption | with_reducible apply canon_trackMatched | with_reducible apply canon_trackMissed | split)

theorem canon_trackStep_eq {o : List Byte} {x : Bound} {dets : List Det} {pairs : List (Nat × Nat × Bool)} {a : State × Gather} {nt : Pred × Nat}  {v0_} {v1_} (he_ : trackStep o x dets pairs a nt = (v0_, v1_)) (ha : Canon a.1) :
    Canon v0_ := by
  have := canon_trackStep o x dets pairs a nt  ha
  rw [he_] at this
  exact this

theorem canon_birth (o : List Byte) (h : Nat) (x : Bound) (a : State × Gather) (d : Det)  (ha : Canon a.1) : Canon (birth o h x a d).1 := by
  unfold birth
  repeat' (first
    | with_reducible assumption | (fail_if_no_progress extract_lets +onlyGivenNames s_) | with_reducible apply canon_putCtx
    | with_reducible apply canon_copyEmb | with_reducible apply canon_modBound | dsimp only | split)

theorem canon_birth_eq {o : List Byte} {h : Nat} {x : Bound} {a : State × Gather} {d : Det}  {v0_} {v1_} (he_ : birth o h x a d = (v0_, v1_)) (ha : Canon a.1) :
    Canon v0_ := by
  have := canon_birth o h x a d  ha
  rw [he_] at this
  exact this

theorem canon_trackRelease (h : Nat) (r : Release) (s : State)  (hs : Canon s) : Canon (trackRelease h r s) := by
  unfold trackRelease
  repeat' (first
    | with_reducible assumption | with_reducible apply canon_spaceWrite | with_reducible apply canon_modBound | with_reducible apply canon_trackStat
    | with_reducible apply canon_semUpdate | with_reducible apply canon_opDone | with_reducible apply canon_trackCmdStep | dsimp only | split)

theorem canon_putRecords (h : Nat) (x0 : List (List Byte)) (x1 : State) (hx1 : Canon x1) : Canon (putRecords h x0 x1) := by
  induction x0 generalizing x1 with
  | nil =>
    unfold putRecords
    repeat' (first
        | with_reducible assumption | with_reducible apply canon_spaceWrite | with_reducible apply canon_modBound | dsimp only | split)
  | cons a l ih =>
    unfold putRecords
    repeat' (first
        | with_reducible assumption | with_reducible apply ih | with_reducible apply canon_spaceWrite | with_reducible apply canon_modBound | dsimp only
        | split)

theorem canon_sendOff (h p : Nat) (src : OpFrom) (o : List Byte) (changed : List Nat) (s : State)  (hs : Canon s) : Canon (sendOff h p src o changed s) := by
  unfold sendOff
  repeat' (first
    | with_reducible assumption | with_reducible apply canon_modBound | with_reducible apply canon_sendTrack | with_reducible apply canon_sendCommit
    | with_reducible apply canon_trackRelease | with_reducible apply canon_foldl | dsimp only | (intro s_ hc_; beta_reduce) | split)

theorem canon_runAssociate (p : Nat) (src : OpFrom) (o : List Byte) (s : State)  (hs : Canon s) : Canon (runAssociate p src o s) := by
  unfold runAssociate
  repeat' (first
    | with_reducible assumption
    | ((fail_if_no_progress extract_lets +onlyGivenNames s_); first | (refine canon_cut (s := s_) ?_ (fun hc_ => ?_); (on_goal 2 => (try clear_value s_)); unfold s_) | skip)
    | with_reducible apply canon_dropDirty | with_reducible apply canon_readDets | with_reducible apply canon_countStage
    | with_reducible apply canon_reportUnnamed | with_reducible apply canon_trackStep | with_reducible apply canon_birth
    | with_reducible apply canon_putRecords | with_reducible apply canon_modBound | with_reducible apply canon_tcount
    | with_reducible apply canon_sendOff | with_reducible apply canon_foldl_1 | dsimp only | split)

theorem canon_metaWait (h : Nat) (s : State)  (hs : Canon s) : Canon (metaWait h s) := by
  unfold metaWait
  repeat' (first
    | with_reducible assumption | with_reducible apply canon_modBound)

theorem canon_metaWaits (p : Nat) (s : State)  (hs : Canon s) : Canon (metaWaits p s) := by
  unfold metaWaits
  repeat' (first
    | with_reducible assumption
    | ((fail_if_no_progress extract_lets +onlyGivenNames s_); first | (refine canon_cut (s := s_) ?_ (fun hc_ => ?_); (on_goal 2 => (try clear_value s_)); unfold s_) | (refine canon_cut (s := s_.s) ?_ (fun hc_ => ?_); (on_goal 2 => (try clear_value s_)); unfold s_) | (refine canon_cut (s := s_.1) ?_ (fun hc_ => ?_); (on_goal 2 => (try clear_value s_)); unfold s_) | (refine canon_cut (s := s_.2) ?_ (fun hc_ => ?_); (on_goal 2 => (try clear_value s_)); unfold s_) | (refine canon_cut (s := s_.2.s) ?_ (fun hc_ => ?_); (on_goal 2 => (try clear_value s_)); unfold s_) | (refine canon_cut (s := s_.2.2) ?_ (fun hc_ => ?_); (on_goal 2 => (try clear_value s_)); unfold s_) | (refine canon_cut (s := s_.2.2.s) ?_ (fun hc_ => ?_); (on_goal 2 => (try clear_value s_)); unfold s_) | (refine canon_cut (s := s_.1.s) ?_ (fun hc_ => ?_); (on_goal 2 => (try clear_value s_)); unfold s_) | (refine canon_cut (s := s_.1.a.s) ?_ (fun hc_ => ?_); (on_goal 2 => (try clear_value s_)); unfold s_) | (refine canon_cut (s := s_.a.s) ?_ (fun hc_ => ?_); (on_goal 2 => (try clear_value s_)); unfold s_) | (refine canon_cut (s := s_.2.a.s) ?_ (fun hc_ => ?_); (on_goal 2 => (try clear_value s_)); unfold s_) | skip)
    | with_reducible apply canon_metaWait
    | with_reducible apply canon_mem
    | with_reducible apply canon_hostMem
    | with_reducible apply canon_regs
    | with_reducible apply wf_mwrite
    | with_reducible apply wf_mset
    | with_reducible apply wf_mfill
    | with_reducible apply wf_filter
    | with_reducible apply rwf_rset
    | with_reducible apply rwf_filter
    | with_reducible apply wf_nil
    | with_reducible apply rwf_nil
    | with_reducible apply canon_foldl
    | with_reducible apply canon_foldl_s
    | with_reducible apply canon_foldl_1
    | with_reducible apply canon_foldl_2
    | with_reducible apply canon_foldl_2s
    | with_reducible apply canon_foldl_22
    | with_reducible apply canon_foldl_22s
    | with_reducible apply canon_foldl_A
    | with_reducible apply canon_foldl_as
    | with_reducible apply canon_foldl_das
    | with_reducible apply canon_foldl_2das
    | with_reducible apply canon_foldl_1as
    | dsimp only
    | (intro s_ hc_; beta_reduce)
    | intro _
    | split
    | (simp only [canon_mk_iff]; refine ⟨?_, ?_, ?_⟩)
    | ((fail_if_no_progress clear_value *); split)
    | dsimp +zetaDelta only)

theorem canon_trackOp (p op : Nat) (s : State)  (hs : Canon s) : Canon (trackOp p op s) := by
  unfold trackOp
  repeat' (first
    | with_reducible assumption
    | ((fail_if_no_progress extract_lets +onlyGivenNames s_); first | (refine canon_cut (s := s_) ?_ (fun hc_ => ?_); (on_goal 2 => (try clear_value s_)); unfold s_) | skip)
    | with_reducible apply canon_metaWaits | with_reducible apply canon_skipOp | with_reducible apply canon_runAssociate
    | with_reducible apply canon_metaWaitEnd | with_reducible apply canon_opTaken | with_reducible apply canon_opDone
    | with_reducible apply canon_opSignal | with_reducible apply canon_runPredict | with_reducible apply canon_mem
    | with_reducible apply canon_hostMem | with_reducible apply canon_regs | with_reducible apply canon_foldl | dsimp only
    | (intro s_ hc_; beta_reduce) | intro _ | split | (simp only [canon_mk_iff]; refine ⟨?_, ?_, ?_⟩))

theorem canon_trackMdb (fn : Fn) (h : Nat) (ci : W32) (s : State)  (hs : Canon s) : Canon (trackMdb fn h ci s) := by
  unfold trackMdb
  repeat' (first
    | with_reducible assumption | with_reducible apply canon_denied | with_reducible apply canon_dropCmd | with_reducible apply canon_modBound | split)

theorem canon_execBind (fn : Fn) (h : Fin 1024) (s : State) (hs : Canon s) : OutCanon (execBind fn h s) := by
  unfold execBind
  repeat' (first
    | with_reducible assumption | with_reducible apply canon_live | with_reducible apply canon_orRecord | with_reducible apply canon_trackBind
    | (intro s_ hc_; beta_reduce))

theorem canon_execUnbind (fn : Fn) (h : Fin 1024) (s : State) (hs : Canon s) : OutCanon (execUnbind fn h s) := by
  unfold execUnbind
  repeat' (first
    | with_reducible assumption | with_reducible apply canon_live | with_reducible apply canon_orRecord | with_reducible apply canon_trackDrop
    | (intro s_ hc_; beta_reduce))

theorem canon_execClear (fn : Fn) (h : Fin 1024) (s : State) (hs : Canon s) : OutCanon (execClear fn h s) := by
  unfold execClear
  repeat' (first
    | with_reducible assumption | with_reducible apply canon_live | with_reducible apply canon_orRecord | with_reducible apply canon_trackDrop
    | (intro s_ hc_; beta_reduce))

theorem canon_execTrackRingWrite (fn : Fn) (p : Fin 16) (value : W64) (s : State) (hs : Canon s) : OutCanon (execTrackRingWrite fn p value s) := by
  unfold execTrackRingWrite
  repeat' (first
    | with_reducible assumption | with_reducible apply canon_live | with_reducible apply canon_orRecord | with_reducible apply canon_trackRingWrite
    | (intro s_ hc_; beta_reduce))

theorem canon_execTrackDoorbell (fn : Fn) (p : Fin 16) (tail : W32) (s : State) (hs : Canon s) : OutCanon (execTrackDoorbell fn p tail s) := by
  unfold execTrackDoorbell
  repeat' (first
    | with_reducible assumption | with_reducible apply canon_live | with_reducible apply canon_orRecord | with_reducible apply canon_trackDoorbell
    | (intro s_ hc_; beta_reduce))

theorem canon_execPredict (p : Fin 16) (s : State) (hs : Canon s) : OutCanon (execPredict p s) := by
  unfold execPredict
  repeat' (first
    | with_reducible assumption | with_reducible apply canon_running | with_reducible apply canon_trackOp)

theorem canon_execAssociate (p : Fin 16) (s : State) (hs : Canon s) : OutCanon (execAssociate p s) := by
  unfold execAssociate
  repeat' (first
    | with_reducible assumption | with_reducible apply canon_running | with_reducible apply canon_trackOp)

theorem canon_execTrackMdb (fn : Fn) (h : Fin 1024) (consumed : W32) (s : State) (hs : Canon s) : OutCanon (execTrackMdb fn h consumed s) := by
  unfold execTrackMdb
  repeat' (first
    | with_reducible assumption | with_reducible apply canon_live | with_reducible apply canon_orRecord | with_reducible apply canon_trackMdb
    | (intro s_ hc_; beta_reduce))

end Sys2Proof.Machine
end

