-- ==== Sys2Proof/Laws/Canon/Pipe.lean ====
section
/-!
SUPPORT. The operations and meanings of Machine/Pipe.lean keep the canonical form of the memories and of the register file.
-/
set_option linter.all false
namespace Sys2Proof.Machine

theorem canon_modPipe (s : State) (k : Nat) (f : Pipe → Pipe)  (hs : Canon s) : Canon (State.modPipe s k f) := by
  unfold State.modPipe
  repeat' (first
    | with_reducible assumption | with_reducible apply canon_mem | with_reducible apply canon_hostMem | with_reducible apply canon_regs | split
    | (simp only [canon_mk_iff]; refine ⟨?_, ?_, ?_⟩))

theorem canon_plCount (k lo n : Nat) (s : State)  (hs : Canon s) : Canon (plCount k lo n s) := by
  unfold plCount
  repeat' (first
    | with_reducible assumption | with_reducible apply canon_addSat)

theorem canon_putShape (k : Nat) (x : Pipe) (op : List Byte × List Byte) (s : State)  (hs : Canon s) : Canon (putShape k x op s) := by
  unfold putShape
  repeat' (first
    | with_reducible assumption
    | ((fail_if_no_progress extract_lets +onlyGivenNames s_); first | (refine canon_cut (s := s_) ?_ (fun hc_ => ?_); (on_goal 2 => (try clear_value s_)); unfold s_) | (refine canon_cut (s := s_.s) ?_ (fun hc_ => ?_); (on_goal 2 => (try clear_value s_)); unfold s_) | (refine canon_cut (s := s_.1) ?_ (fun hc_ => ?_); (on_goal 2 => (try clear_value s_)); unfold s_) | (refine canon_cut (s := s_.2) ?_ (fun hc_ => ?_); (on_goal 2 => (try clear_value s_)); unfold s_) | (refine canon_cut (s := s_.2.s) ?_ (fun hc_ => ?_); (on_goal 2 => (try clear_value s_)); unfold s_) | (refine canon_cut (s := s_.2.2) ?_ (fun hc_ => ?_); (on_goal 2 => (try clear_value s_)); unfold s_) | (refine canon_cut (s := s_.2.2.s) ?_ (fun hc_ => ?_); (on_goal 2 => (try clear_value s_)); unfold s_) | (refine canon_cut (s := s_.1.s) ?_ (fun hc_ => ?_); (on_goal 2 => (try clear_value s_)); unfold s_) | (refine canon_cut (s := s_.1.a.s) ?_ (fun hc_ => ?_); (on_goal 2 => (try clear_value s_)); unfold s_) | (refine canon_cut (s := s_.a.s) ?_ (fun hc_ => ?_); (on_goal 2 => (try clear_value s_)); unfold s_) | (refine canon_cut (s := s_.2.a.s) ?_ (fun hc_ => ?_); (on_goal 2 => (try clear_value s_)); unfold s_) | skip)
    | with_reducible apply canon_modShapeRing
    | with_reducible apply canon_modPipe
    | with_reducible apply canon_mem
    | with_reducible apply canon_hostMem
    | with_reducible apply canon_regs
    | with_reducible apply wf_mwrite
    | with_reducible apply wf_mset
    | with_reducible apply wf_mfill
    | with_reducible apply wf_filter
    | with_reducible apply rwf_rset
    | with_reducible apply rwf_filter
    | with_reducible apply wf_nil
    | with_reducible apply rwf_nil
    | with_reducible apply canon_foldl
    | with_reducible apply canon_foldl_s
    | with_reducible apply canon_foldl_1
    | with_reducible apply canon_foldl_2
    | with_reducible apply canon_foldl_2s
    | with_reducible apply canon_foldl_22
    | with_reducible apply canon_foldl_22s
    | with_reducible apply canon_foldl_A
    | with_reducible apply canon_foldl_as
    | with_reducible apply canon_foldl_das
    | with_reducible apply canon_foldl_2das
    | with_reducible apply canon_foldl_1as
    | dsimp only
    | (intro s_ hc_; beta_reduce)
    | intro _
    | split
    | (simp only [canon_mk_iff]; refine ⟨?_, ?_, ?_⟩)
    | ((fail_if_no_progress clear_value *); split)
    | dsimp +zetaDelta only)

theorem canon_putOp (k : Nat) (x : Pipe) (op : List Byte) (s : State)  (hs : Canon s) : Canon (putOp k x op s) := by
  unfold putOp
  repeat' (first
    | with_reducible assumption
    | ((fail_if_no_progress extract_lets +onlyGivenNames s_); first | (refine canon_cut (s := s_) ?_ (fun hc_ => ?_); (on_goal 2 => (try clear_value s_)); unfold s_) | (refine canon_cut (s := s_.s) ?_ (fun hc_ => ?_); (on_goal 2 => (try clear_value s_)); unfold s_) | (refine canon_cut (s := s_.1) ?_ (fun hc_ => ?_); (on_goal 2 => (try clear_value s_)); unfold s_) | (refine canon_cut (s := s_.2) ?_ (fun hc_ => ?_); (on_goal 2 => (try clear_value s_)); unfold s_) | (refine canon_cut (s := s_.2.s) ?_ (fun hc_ => ?_); (on_goal 2 => (try clear_value s_)); unfold s_) | (refine canon_cut (s := s_.2.2) ?_ (fun hc_ => ?_); (on_goal 2 => (try clear_value s_)); unfold s_) | (refine canon_cut (s := s_.2.2.s) ?_ (fun hc_ => ?_); (on_goal 2 => (try clear_value s_)); unfold s_) | (refine canon_cut (s := s_.1.s) ?_ (fun hc_ => ?_); (on_goal 2 => (try clear_value s_)); unfold s_) | (refine canon_cut (s := s_.1.a.s) ?_ (fun hc_ => ?_); (on_goal 2 => (try clear_value s_)); unfold s_) | (refine canon_cut (s := s_.a.s) ?_ (fun hc_ => ?_); (on_goal 2 => (try clear_value s_)); unfold s_) | (refine canon_cut (s := s_.2.a.s) ?_ (fun hc_ => ?_); (on_goal 2 => (try clear_value s_)); unfold s_) | skip)
    | with_reducible apply canon_modTrackRing
    | with_reducible apply canon_modPipe
    | with_reducible apply canon_mem
    | with_reducible apply canon_hostMem
    | with_reducible apply canon_regs
    | with_reducible apply wf_mwrite
    | with_reducible apply wf_mset
    | with_reducible apply wf_mfill
    | with_reducible apply wf_filter
    | with_reducible apply rwf_rset
    | with_reducible apply rwf_filter
    | with_reducible apply wf_nil
    | with_reducible apply rwf_nil
    | with_reducible apply canon_foldl
    | with_reducible apply canon_foldl_s
    | with_reducible apply canon_foldl_1
    | with_reducible apply canon_foldl_2
    | with_reducible apply canon_foldl_2s
    | with_reducible apply canon_foldl_22
    | with_reducible apply canon_foldl_22s
    | with_reducible apply canon_foldl_A
    | with_reducible apply canon_foldl_as
    | with_reducible apply canon_foldl_das
    | with_reducible apply canon_foldl_2das
    | with_reducible apply canon_foldl_1as
    | dsimp only
    | (intro s_ hc_; beta_reduce)
    | intro _
    | split
    | (simp only [canon_mk_iff]; refine ⟨?_, ?_, ?_⟩)
    | ((fail_if_no_progress clear_value *); split)
    | dsimp +zetaDelta only)

theorem canon_pipeFrameStart (k : Nat) (s : State)  (hs : Canon s) : Canon (pipeFrameStart k s) := by
  unfold pipeFrameStart
  repeat' (first
    | with_reducible assumption
    | ((fail_if_no_progress extract_lets +onlyGivenNames s_); first | (refine canon_cut (s := s_) ?_ (fun hc_ => ?_); (on_goal 2 => (try clear_value s_)); unfold s_) | skip)
    | with_reducible apply canon_setMark | with_reducible apply canon_plCount | with_reducible apply canon_semUpdate
    | with_reducible apply canon_putShape | with_reducible apply canon_modPipe | with_reducible apply canon_mem | with_reducible apply canon_hostMem
    | with_reducible apply canon_regs | with_reducible apply canon_foldl | dsimp only | (intro s_ hc_; beta_reduce) | intro _ | split
    | (simp only [canon_mk_iff]; refine ⟨?_, ?_, ?_⟩))

theorem canon_pipeRing (k : Nat) (x : Pipe) (s : State)  (hs : Canon s) : Canon (pipeRing k x s) := by
  unfold pipeRing
  repeat' (first
    | with_reducible assumption
    | ((fail_if_no_progress extract_lets +onlyGivenNames s_); first | (refine canon_cut (s := s_) ?_ (fun hc_ => ?_); (on_goal 2 => (try clear_value s_)); unfold s_) | skip)
    | with_reducible apply canon_engRead | with_reducible refine canon_engRead_eq (by assumption) ?_ | with_reducible apply canon_queueDoorbell
    | with_reducible apply canon_modPipe | with_reducible apply canon_mem | with_reducible apply canon_hostMem | with_reducible apply canon_regs
    | with_reducible apply canon_foldl | dsimp only | (intro s_ hc_; beta_reduce) | intro _ | split | (simp only [canon_mk_iff]; refine ⟨?_, ?_, ?_⟩))

theorem canon_pipeShaped (k : Nat) (s : State)  (hs : Canon s) : Canon (pipeShaped k s) := by
  unfold pipeShaped
  repeat' (first
    | with_reducible assumption
    | ((fail_if_no_progress extract_lets +onlyGivenNames s_); first | (refine canon_cut (s := s_) ?_ (fun hc_ => ?_); (on_goal 2 => (try clear_value s_)); unfold s_) | skip)
    | with_reducible apply canon_plCount | with_reducible apply canon_modPipe | with_reducible apply canon_pipeRing | with_reducible apply canon_putOp
    | with_reducible apply canon_mem | with_reducible apply canon_hostMem | with_reducible apply canon_regs | with_reducible apply canon_foldl
    | dsimp only | (intro s_ hc_; beta_reduce) | intro _ | split | (simp only [canon_mk_iff]; refine ⟨?_, ?_, ?_⟩))

theorem canon_pipeChainDone (k : Nat) (s : State)  (hs : Canon s) : Canon (pipeChainDone k s) := by
  unfold pipeChainDone
  repeat' (first
    | with_reducible assumption
    | ((fail_if_no_progress extract_lets +onlyGivenNames s_); first | (refine canon_cut (s := s_) ?_ (fun hc_ => ?_); (on_goal 2 => (try clear_value s_)); unfold s_) | skip)
    | with_reducible apply canon_putOp | with_reducible apply canon_modPipe | with_reducible apply canon_mem | with_reducible apply canon_hostMem
    | with_reducible apply canon_regs | with_reducible apply canon_foldl | dsimp only | (intro s_ hc_; beta_reduce) | intro _ | split
    | (simp only [canon_mk_iff]; refine ⟨?_, ?_, ?_⟩))

theorem canon_pipeFrameEnd (k : Nat) (s : State)  (hs : Canon s) : Canon (pipeFrameEnd k s) := by
  unfold pipeFrameEnd
  repeat' (first
    | with_reducible assumption | with_reducible apply canon_modPipe | split)

theorem canon_pipeRestart (k : Nat) (x : Pipe) (s : State)  (hs : Canon s) : Canon (pipeRestart k x s) := by
  unfold pipeRestart
  repeat' (first
    | with_reducible assumption
    | ((fail_if_no_progress extract_lets +onlyGivenNames s_); first | (refine canon_cut (s := s_) ?_ (fun hc_ => ?_); (on_goal 2 => (try clear_value s_)); unfold s_) | skip)
    | with_reducible apply canon_cancelDrained | with_reducible apply canon_cancelQueue | with_reducible apply canon_enableQueue
    | with_reducible apply canon_promote | with_reducible apply canon_modPipe)

theorem canon_pipeMiss (k code status : Nat) (x : Pipe) (s : State)  (hs : Canon s) : Canon (pipeMiss k code status x s) := by
  unfold pipeMiss
  repeat' (first
    | with_reducible assumption
    | ((fail_if_no_progress extract_lets +onlyGivenNames s_); first | (refine canon_cut (s := s_) ?_ (fun hc_ => ?_); (on_goal 2 => (try clear_value s_)); unfold s_) | skip)
    | with_reducible apply canon_pipeRestart | with_reducible apply canon_report | with_reducible apply canon_modPipe
    | with_reducible apply canon_plCount | with_reducible apply canon_putOp | with_reducible apply canon_mem | with_reducible apply canon_hostMem
    | with_reducible apply canon_regs | with_reducible apply canon_foldl | dsimp only | (intro s_ hc_; beta_reduce) | intro _ | split
    | (simp only [canon_mk_iff]; refine ⟨?_, ?_, ?_⟩))

theorem canon_pipeTimeout (k : Nat) (s : State)  (hs : Canon s) : Canon (pipeTimeout k s) := by
  unfold pipeTimeout
  repeat' (first
    | with_reducible assumption | with_reducible apply canon_pipeMiss | split)

theorem canon_pipeFault (k : Nat) (s : State)  (hs : Canon s) : Canon (pipeFault k s) := by
  unfold pipeFault
  repeat' (first
    | with_reducible assumption | with_reducible apply canon_pipeMiss | dsimp only | split)

theorem canon_execPipeFrameStart (k : Fin 16) (s : State) (hs : Canon s) : OutCanon (execPipeFrameStart k s) := by
  unfold execPipeFrameStart
  repeat' (first
    | with_reducible assumption | with_reducible apply canon_running | with_reducible apply canon_pipeFrameStart)

theorem canon_execPipeShaped (k : Fin 16) (s : State) (hs : Canon s) : OutCanon (execPipeShaped k s) := by
  unfold execPipeShaped
  repeat' (first
    | with_reducible assumption | with_reducible apply canon_running | with_reducible apply canon_pipeShaped)

theorem canon_execPipeChainDone (k : Fin 16) (s : State) (hs : Canon s) : OutCanon (execPipeChainDone k s) := by
  unfold execPipeChainDone
  repeat' (first
    | with_reducible assumption | with_reducible apply canon_running | with_reducible apply canon_pipeChainDone)

theorem canon_execPipeFrameEnd (k : Fin 16) (s : State) (hs : Canon s) : OutCanon (execPipeFrameEnd k s) := by
  unfold execPipeFrameEnd
  repeat' (first
    | with_reducible assumption | with_reducible apply canon_running | with_reducible apply canon_pipeFrameEnd)

theorem canon_execPipeTimeout (k : Fin 16) (s : State) (hs : Canon s) : OutCanon (execPipeTimeout k s) := by
  unfold execPipeTimeout
  repeat' (first
    | with_reducible assumption | with_reducible apply canon_running | with_reducible apply canon_pipeTimeout)

theorem canon_execPipeFault (k : Fin 16) (s : State) (hs : Canon s) : OutCanon (execPipeFault k s) := by
  unfold execPipeFault
  repeat' (first
    | with_reducible assumption | with_reducible apply canon_running | with_reducible apply canon_pipeFault)

end Sys2Proof.Machine
end

