-- ==== Sys2Proof/Laws/Canon/Twin.lean ====
section
/-!
SUPPORT. The operations and meanings of Machine/Twin.lean keep the canonical form of the memories and of the register file.
-/
set_option linter.all false
namespace Sys2Proof.Machine

theorem canon_takeAck (ack : BitVec 16) (s : State)  (hs : Canon s) : Canon (takeAck ack s) := by
  unfold takeAck
  repeat' (first
    | with_reducible assumption
    | ((fail_if_no_progress extract_lets +onlyGivenNames s_); first | (refine canon_cut (s := s_) ?_ (fun hc_ => ?_); (on_goal 2 => (try clear_value s_)); unfold s_) | skip)
    | with_reducible apply canon_pumpAll | with_reducible apply canon_replay | with_reducible apply canon_mem | with_reducible apply canon_hostMem
    | with_reducible apply canon_regs | with_reducible apply canon_foldl | dsimp only | (intro s_ hc_; beta_reduce) | intro _ | split
    | (simp only [canon_mk_iff]; refine ⟨?_, ?_, ?_⟩))

theorem canon_sendPlain (typ : Nat) (payload : List Byte) (s : State)  (hs : Canon s) : Canon (sendPlain typ payload s) := by
  unfold sendPlain
  repeat' (first
    | with_reducible assumption | (fail_if_no_progress extract_lets +onlyGivenNames s_) | with_reducible apply canon_mem
    | with_reducible apply canon_hostMem | with_reducible apply canon_regs | (simp only [canon_mk_iff]; refine ⟨?_, ?_, ?_⟩))

theorem canon_sendNak (s : State)  (hs : Canon s) : Canon (sendNak s) := by
  unfold sendNak
  repeat' (first
    | with_reducible assumption | with_reducible apply canon_sendPlain)

theorem canon_replayFlits (s : State)  (hs : Canon s) : Canon (replayFlits s) := by
  unfold replayFlits
  repeat' (first
    | with_reducible assumption
    | ((fail_if_no_progress extract_lets +onlyGivenNames s_); first | (refine canon_cut (s := s_) ?_ (fun hc_ => ?_); (on_goal 2 => (try clear_value s_)); unfold s_) | skip)
    | with_reducible apply canon_replay | with_reducible apply canon_addSat | with_reducible apply canon_mem | with_reducible apply canon_hostMem
    | with_reducible apply canon_regs | with_reducible apply canon_foldl | dsimp only | (intro s_ hc_; beta_reduce) | intro _ | split
    | (simp only [canon_mk_iff]; refine ⟨?_, ?_, ?_⟩))

theorem canon_linked (k : State → State) (s : State)  (hk : ∀ a0_, Canon a0_ → Canon (k a0_)) (hs : Canon s) : Canon (linked k s) := by
  unfold linked
  repeat' (first
    | with_reducible assumption | with_reducible apply hk | split)

theorem canon_sequenced (seq ack : BitVec 16) (len : Nat) (k : State → State) (s : State)  (hk : ∀ a0_, Canon a0_ → Canon (k a0_)) (hs : Canon s) : Canon (sequenced seq ack len k s) := by
  unfold sequenced
  repeat' (first
    | with_reducible assumption
    | ((fail_if_no_progress extract_lets +onlyGivenNames s_); first | (refine canon_cut (s := s_) ?_ (fun hc_ => ?_); (on_goal 2 => (try clear_value s_)); unfold s_) | skip)
    | with_reducible apply hk | with_reducible apply canon_linked | with_reducible apply canon_takeAck | with_reducible apply canon_bump
    | with_reducible apply canon_sendNak | with_reducible apply canon_mem | with_reducible apply canon_hostMem | with_reducible apply canon_regs
    | with_reducible apply canon_foldl | dsimp only | (intro s_ hc_; beta_reduce) | intro _ | split | (simp only [canon_mk_iff]; refine ⟨?_, ?_, ?_⟩))

theorem canon_twinState (v : Nat) (s : State)  (hs : Canon s) : Canon (twinState v s) := by
  unfold twinState
  repeat' (first
    | with_reducible assumption | with_reducible apply canon_setFld)

theorem canon_helloSend (s : State)  (hs : Canon s) : Canon (helloSend s) := by
  unfold helloSend
  repeat' (first
    | with_reducible assumption | (fail_if_no_progress extract_lets +onlyGivenNames s_) | with_reducible apply canon_sendPlain | split)

theorem canon_formPair (s : State)  (hs : Canon s) : Canon (formPair s) := by
  unfold formPair
  repeat' (first
    | with_reducible assumption | with_reducible apply canon_report | with_reducible apply canon_setStatus | with_reducible apply canon_twinState)

theorem canon_twinHello (pairId : W32) (role : Nat) (uid echo : W64) (s : State)  (hs : Canon s) : Canon (twinHello pairId role uid echo s) := by
  unfold twinHello
  repeat' (first
    | with_reducible assumption
    | ((fail_if_no_progress extract_lets +onlyGivenNames s_); first | (refine canon_cut (s := s_) ?_ (fun hc_ => ?_); (on_goal 2 => (try clear_value s_)); unfold s_) | skip)
    | with_reducible apply canon_formPair | with_reducible apply canon_mem | with_reducible apply canon_hostMem | with_reducible apply canon_regs
    | split | (simp only [canon_mk_iff]; refine ⟨?_, ?_, ?_⟩))

theorem canon_heartbeatSend (s : State)  (hs : Canon s) : Canon (heartbeatSend s) := by
  unfold heartbeatSend
  repeat' (first
    | with_reducible assumption
    | ((fail_if_no_progress extract_lets +onlyGivenNames s_); first | (refine canon_cut (s := s_) ?_ (fun hc_ => ?_); (on_goal 2 => (try clear_value s_)); unfold s_) | skip)
    | with_reducible apply canon_sendPlain | with_reducible apply canon_mem | with_reducible apply canon_hostMem | with_reducible apply canon_regs
    | split | (simp only [canon_mk_iff]; refine ⟨?_, ?_, ?_⟩))

theorem canon_heartbeat (hb echo : W32) (s : State)  (hs : Canon s) : Canon (heartbeat hb echo s) := by
  unfold heartbeat
  repeat' (first
    | with_reducible assumption | (fail_if_no_progress extract_lets +onlyGivenNames s_) | with_reducible apply canon_mem
    | with_reducible apply canon_hostMem | with_reducible apply canon_regs | split | (simp only [canon_mk_iff]; refine ⟨?_, ?_, ?_⟩))

theorem canon_putMirror (h : Nat) (m : Mirror) (s : State)  (hs : Canon s) : Canon (putMirror h m s) := by
  unfold putMirror
  repeat' (first
    | with_reducible assumption | (fail_if_no_progress extract_lets +onlyGivenNames s_) | with_reducible apply canon_mem
    | with_reducible apply canon_hostMem | with_reducible apply canon_regs | (simp only [canon_mk_iff]; refine ⟨?_, ?_, ?_⟩))

theorem canon_modMirror (h : Nat) (f : Mirror → Mirror) (s : State)  (hs : Canon s) : Canon (modMirror h f s) := by
  unfold modMirror
  repeat' (first
    | with_reducible assumption | with_reducible apply canon_putMirror | split)

theorem canon_noteState (h : Nat) (s : State)  (hs : Canon s) : Canon (noteState h s) := by
  unfold noteState
  repeat' (first
    | with_reducible assumption
    | ((fail_if_no_progress extract_lets +onlyGivenNames s_); first | (refine canon_cut (s := s_) ?_ (fun hc_ => ?_); (on_goal 2 => (try clear_value s_)); unfold s_) | (refine canon_cut (s := s_.s) ?_ (fun hc_ => ?_); (on_goal 2 => (try clear_value s_)); unfold s_) | (refine canon_cut (s := s_.1) ?_ (fun hc_ => ?_); (on_goal 2 => (try clear_value s_)); unfold s_) | (refine canon_cut (s := s_.2) ?_ (fun hc_ => ?_); (on_goal 2 => (try clear_value s_)); unfold s_) | (refine canon_cut (s := s_.2.s) ?_ (fun hc_ => ?_); (on_goal 2 => (try clear_value s_)); unfold s_) | (refine canon_cut (s := s_.2.2) ?_ (fun hc_ => ?_); (on_goal 2 => (try clear_value s_)); unfold s_) | (refine canon_cut (s := s_.2.2.s) ?_ (fun hc_ => ?_); (on_goal 2 => (try clear_value s_)); unfold s_) | (refine canon_cut (s := s_.1.s) ?_ (fun hc_ => ?_); (on_goal 2 => (try clear_value s_)); unfold s_) | (refine canon_cut (s := s_.1.a.s) ?_ (fun hc_ => ?_); (on_goal 2 => (try clear_value s_)); unfold s_) | (refine canon_cut (s := s_.a.s) ?_ (fun hc_ => ?_); (on_goal 2 => (try clear_value s_)); unfold s_) | (refine canon_cut (s := s_.2.a.s) ?_ (fun hc_ => ?_); (on_goal 2 => (try clear_value s_)); unfold s_) | skip)
    | with_reducible apply canon_fresh
    | with_reducible refine canon_fresh_eq (by assumption) ?_
    | with_reducible apply canon_devWrite
    | with_reducible apply canon_mem
    | with_reducible apply canon_hostMem
    | with_reducible apply canon_regs
    | with_reducible apply wf_mwrite
    | with_reducible apply wf_mset
    | with_reducible apply wf_mfill
    | with_reducible apply wf_filter
    | with_reducible apply rwf_rset
    | with_reducible apply rwf_filter
    | with_reducible apply wf_nil
    | with_reducible apply rwf_nil
    | with_reducible apply canon_foldl
    | with_reducible apply canon_foldl_s
    | with_reducible apply canon_foldl_1
    | with_reducible apply canon_foldl_2
    | with_reducible apply canon_foldl_2s
    | with_reducible apply canon_foldl_22
    | with_reducible apply canon_foldl_22s
    | with_reducible apply canon_foldl_A
    | with_reducible apply canon_foldl_as
    | with_reducible apply canon_foldl_das
    | with_reducible apply canon_foldl_2das
    | with_reducible apply canon_foldl_1as
    | dsimp only
    | (intro s_ hc_; beta_reduce)
    | intro _
    | split
    | (simp only [canon_mk_iff]; refine ⟨?_, ?_, ?_⟩)
    | ((fail_if_no_progress clear_value *); split)
    | dsimp +zetaDelta only)

theorem canon_mirrorOpen (cont : Bool) (h : Nat) (data : List Byte) (s : State)  (hs : Canon s) : Canon (mirrorOpen cont h data s) := by
  unfold mirrorOpen
  repeat' (first
    | with_reducible assumption
    | ((fail_if_no_progress extract_lets +onlyGivenNames s_); first | (refine canon_cut (s := s_) ?_ (fun hc_ => ?_); (on_goal 2 => (try clear_value s_)); unfold s_) | skip)
    | with_reducible apply canon_putMirror | with_reducible apply canon_noteState | with_reducible apply canon_sendAckf
    | with_reducible apply canon_mem | with_reducible apply canon_hostMem | with_reducible apply canon_regs | with_reducible apply canon_foldl
    | dsimp only | (intro s_ hc_; beta_reduce) | intro _ | split | (simp only [canon_mk_iff]; refine ⟨?_, ?_, ?_⟩))

theorem canon_mirrorStore (m : Mirror) (i : W32) (bs : List Byte) (s : State)  (hs : Canon s) : Canon (mirrorStore m i bs s) := by
  unfold mirrorStore
  repeat' (first
    | with_reducible assumption
    | ((fail_if_no_progress extract_lets +onlyGivenNames s_); first | (refine canon_cut (s := s_) ?_ (fun hc_ => ?_); (on_goal 2 => (try clear_value s_)); unfold s_) | skip)
    | with_reducible apply canon_devWrite | split)

theorem canon_ackWaits (h : Nat) (s : State)  (hs : Canon s) : Canon (ackWaits h s) := by
  unfold ackWaits
  repeat' (first
    | with_reducible assumption | with_reducible apply canon_sendAckf | with_reducible apply canon_putMirror | with_reducible apply canon_foldl
    | dsimp only | (intro s_ hc_; beta_reduce) | split)

theorem canon_mirrorBytes (h : Nat) (i : W32) (data : List Byte) (s : State)  (hs : Canon s) : Canon (mirrorBytes h i data s) := by
  unfold mirrorBytes
  repeat' (first
    | with_reducible assumption | with_reducible apply canon_mirrorStore | with_reducible apply canon_ackWaits | with_reducible apply canon_modMirror
    | dsimp only | split)

theorem canon_mirrorPos (h : Nat) (rap : Bool) (num start : W32) (s : State)  (hs : Canon s) : Canon (mirrorPos h rap num start s) := by
  unfold mirrorPos
  repeat' (first
    | with_reducible assumption
    | ((fail_if_no_progress extract_lets +onlyGivenNames s_); first | (refine canon_cut (s := s_) ?_ (fun hc_ => ?_); (on_goal 2 => (try clear_value s_)); unfold s_) | skip)
    | with_reducible apply canon_noteState | with_reducible apply canon_modMirror | with_reducible apply canon_mem
    | with_reducible apply canon_hostMem | with_reducible apply canon_regs | with_reducible apply canon_foldl | dsimp only
    | (intro s_ hc_; beta_reduce) | intro _ | split | (simp only [canon_mk_iff]; refine ⟨?_, ?_, ?_⟩))

theorem canon_mirrorTrack (h : Nat) (ctx : W32) (image : List Byte) (s : State)  (hs : Canon s) : Canon (mirrorTrack h ctx image s) := by
  unfold mirrorTrack
  repeat' (first
    | with_reducible assumption
    | ((fail_if_no_progress extract_lets +onlyGivenNames s_); first | (refine canon_cut (s := s_) ?_ (fun hc_ => ?_); (on_goal 2 => (try clear_value s_)); unfold s_) | skip)
    | with_reducible apply canon_devWrite | with_reducible apply canon_modMirror | with_reducible apply canon_mem | with_reducible apply canon_hostMem
    | with_reducible apply canon_regs | with_reducible apply canon_foldl | dsimp only | (intro s_ hc_; beta_reduce) | intro _ | split
    | (simp only [canon_mk_iff]; refine ⟨?_, ?_, ?_⟩))

theorem canon_applyDelta (s : State) (d : Nat × Nat)  (hs : Canon s) : Canon (applyDelta s d) := by
  unfold applyDelta
  repeat' (first
    | with_reducible assumption
    | ((fail_if_no_progress extract_lets +onlyGivenNames s_); first | (refine canon_cut (s := s_) ?_ (fun hc_ => ?_); (on_goal 2 => (try clear_value s_)); unfold s_) | (refine canon_cut (s := s_.s) ?_ (fun hc_ => ?_); (on_goal 2 => (try clear_value s_)); unfold s_) | (refine canon_cut (s := s_.1) ?_ (fun hc_ => ?_); (on_goal 2 => (try clear_value s_)); unfold s_) | (refine canon_cut (s := s_.2) ?_ (fun hc_ => ?_); (on_goal 2 => (try clear_value s_)); unfold s_) | (refine canon_cut (s := s_.2.s) ?_ (fun hc_ => ?_); (on_goal 2 => (try clear_value s_)); unfold s_) | (refine canon_cut (s := s_.2.2) ?_ (fun hc_ => ?_); (on_goal 2 => (try clear_value s_)); unfold s_) | (refine canon_cut (s := s_.2.2.s) ?_ (fun hc_ => ?_); (on_goal 2 => (try clear_value s_)); unfold s_) | (refine canon_cut (s := s_.1.s) ?_ (fun hc_ => ?_); (on_goal 2 => (try clear_value s_)); unfold s_) | (refine canon_cut (s := s_.1.a.s) ?_ (fun hc_ => ?_); (on_goal 2 => (try clear_value s_)); unfold s_) | (refine canon_cut (s := s_.a.s) ?_ (fun hc_ => ?_); (on_goal 2 => (try clear_value s_)); unfold s_) | (refine canon_cut (s := s_.2.a.s) ?_ (fun hc_ => ?_); (on_goal 2 => (try clear_value s_)); unfold s_) | skip)
    | with_reducible apply canon_devRead
    | with_reducible refine canon_devRead_eq (by assumption) ?_
    | with_reducible apply canon_devWrite
    | with_reducible apply canon_mem
    | with_reducible apply canon_hostMem
    | with_reducible apply canon_regs
    | with_reducible apply wf_mwrite
    | with_reducible apply wf_mset
    | with_reducible apply wf_mfill
    | with_reducible apply wf_filter
    | with_reducible apply rwf_rset
    | with_reducible apply rwf_filter
    | with_reducible apply wf_nil
    | with_reducible apply rwf_nil
    | with_reducible apply canon_foldl
    | with_reducible apply canon_foldl_s
    | with_reducible apply canon_foldl_1
    | with_reducible apply canon_foldl_2
    | with_reducible apply canon_foldl_2s
    | with_reducible apply canon_foldl_22
    | with_reducible apply canon_foldl_22s
    | with_reducible apply canon_foldl_A
    | with_reducible apply canon_foldl_as
    | with_reducible apply canon_foldl_das
    | with_reducible apply canon_foldl_2das
    | with_reducible apply canon_foldl_1as
    | dsimp only
    | (intro s_ hc_; beta_reduce)
    | intro _
    | split
    | (simp only [canon_mk_iff]; refine ⟨?_, ?_, ?_⟩)
    | ((fail_if_no_progress clear_value *); split)
    | dsimp +zetaDelta only)

theorem canon_mirrorCommit (h : Nat) (frameSeq metaSeq nextId fin : W32) (arrival : W64) (s : State)  (hs : Canon s) : Canon (mirrorCommit h frameSeq metaSeq nextId fin arrival s) := by
  unfold mirrorCommit
  repeat' (first
    | with_reducible assumption
    | ((fail_if_no_progress extract_lets +onlyGivenNames s_); first | (refine canon_cut (s := s_) ?_ (fun hc_ => ?_); (on_goal 2 => (try clear_value s_)); unfold s_) | skip)
    | with_reducible apply canon_noteState | with_reducible apply canon_applyDelta | with_reducible apply canon_ackWaits
    | with_reducible apply canon_putMirror | with_reducible apply canon_mem | with_reducible apply canon_hostMem | with_reducible apply canon_regs
    | with_reducible apply canon_foldl | dsimp only | (intro s_ hc_; beta_reduce) | intro _ | split | (simp only [canon_mk_iff]; refine ⟨?_, ?_, ?_⟩))

theorem canon_mirrorClose (h : Nat) (s : State)  (hs : Canon s) : Canon (mirrorClose h s) := by
  unfold mirrorClose
  repeat' (first
    | with_reducible assumption | (fail_if_no_progress extract_lets +onlyGivenNames s_) | with_reducible apply canon_mem
    | with_reducible apply canon_hostMem | with_reducible apply canon_regs | split | (simp only [canon_mk_iff]; refine ⟨?_, ?_, ?_⟩))

theorem canon_modEver (s : State) (h : Nat) (f : Dec → Dec)  (hs : Canon s) : Canon (State.modEver s h f) := by
  unfold State.modEver
  repeat' (first
    | with_reducible assumption
    | ((fail_if_no_progress extract_lets +onlyGivenNames s_); first | (refine canon_cut (s := s_) ?_ (fun hc_ => ?_); (on_goal 2 => (try clear_value s_)); unfold s_) | (refine canon_cut (s := s_.s) ?_ (fun hc_ => ?_); (on_goal 2 => (try clear_value s_)); unfold s_) | (refine canon_cut (s := s_.1) ?_ (fun hc_ => ?_); (on_goal 2 => (try clear_value s_)); unfold s_) | (refine canon_cut (s := s_.2) ?_ (fun hc_ => ?_); (on_goal 2 => (try clear_value s_)); unfold s_) | (refine canon_cut (s := s_.2.s) ?_ (fun hc_ => ?_); (on_goal 2 => (try clear_value s_)); unfold s_) | (refine canon_cut (s := s_.2.2) ?_ (fun hc_ => ?_); (on_goal 2 => (try clear_value s_)); unfold s_) | (refine canon_cut (s := s_.2.2.s) ?_ (fun hc_ => ?_); (on_goal 2 => (try clear_value s_)); unfold s_) | (refine canon_cut (s := s_.1.s) ?_ (fun hc_ => ?_); (on_goal 2 => (try clear_value s_)); unfold s_) | (refine canon_cut (s := s_.1.a.s) ?_ (fun hc_ => ?_); (on_goal 2 => (try clear_value s_)); unfold s_) | (refine canon_cut (s := s_.a.s) ?_ (fun hc_ => ?_); (on_goal 2 => (try clear_value s_)); unfold s_) | (refine canon_cut (s := s_.2.a.s) ?_ (fun hc_ => ?_); (on_goal 2 => (try clear_value s_)); unfold s_) | skip)
    | with_reducible apply canon_modDec
    | with_reducible apply canon_mem
    | with_reducible apply canon_hostMem
    | with_reducible apply canon_regs
    | with_reducible apply wf_mwrite
    | with_reducible apply wf_mset
    | with_reducible apply wf_mfill
    | with_reducible apply wf_filter
    | with_reducible apply rwf_rset
    | with_reducible apply rwf_filter
    | with_reducible apply wf_nil
    | with_reducible apply rwf_nil
    | with_reducible apply canon_foldl
    | with_reducible apply canon_foldl_s
    | with_reducible apply canon_foldl_1
    | with_reducible apply canon_foldl_2
    | with_reducible apply canon_foldl_2s
    | with_reducible apply canon_foldl_22
    | with_reducible apply canon_foldl_22s
    | with_reducible apply canon_foldl_A
    | with_reducible apply canon_foldl_as
    | with_reducible apply canon_foldl_das
    | with_reducible apply canon_foldl_2das
    | with_reducible apply canon_foldl_1as
    | dsimp only
    | (intro s_ hc_; beta_reduce)
    | intro _
    | split
    | (simp only [canon_mk_iff]; refine ⟨?_, ?_, ?_⟩)
    | ((fail_if_no_progress clear_value *); split)
    | dsimp +zetaDelta only)

theorem canon_unholdAll (h : Nat) (s : State)  (hs : Canon s) : Canon (unholdAll h s) := by
  unfold unholdAll
  repeat' (first
    | with_reducible assumption
    | ((fail_if_no_progress extract_lets +onlyGivenNames s_); first | (refine canon_cut (s := s_) ?_ (fun hc_ => ?_); (on_goal 2 => (try clear_value s_)); unfold s_) | (refine canon_cut (s := s_.s) ?_ (fun hc_ => ?_); (on_goal 2 => (try clear_value s_)); unfold s_) | (refine canon_cut (s := s_.1) ?_ (fun hc_ => ?_); (on_goal 2 => (try clear_value s_)); unfold s_) | (refine canon_cut (s := s_.2) ?_ (fun hc_ => ?_); (on_goal 2 => (try clear_value s_)); unfold s_) | (refine canon_cut (s := s_.2.s) ?_ (fun hc_ => ?_); (on_goal 2 => (try clear_value s_)); unfold s_) | (refine canon_cut (s := s_.2.2) ?_ (fun hc_ => ?_); (on_goal 2 => (try clear_value s_)); unfold s_) | (refine canon_cut (s := s_.2.2.s) ?_ (fun hc_ => ?_); (on_goal 2 => (try clear_value s_)); unfold s_) | (refine canon_cut (s := s_.1.s) ?_ (fun hc_ => ?_); (on_goal 2 => (try clear_value s_)); unfold s_) | (refine canon_cut (s := s_.1.a.s) ?_ (fun hc_ => ?_); (on_goal 2 => (try clear_value s_)); unfold s_) | (refine canon_cut (s := s_.a.s) ?_ (fun hc_ => ?_); (on_goal 2 => (try clear_value s_)); unfold s_) | (refine canon_cut (s := s_.2.a.s) ?_ (fun hc_ => ?_); (on_goal 2 => (try clear_value s_)); unfold s_) | skip)
    | with_reducible apply canon_setMark
    | with_reducible apply canon_mem
    | with_reducible apply canon_hostMem
    | with_reducible apply canon_regs
    | with_reducible apply wf_mwrite
    | with_reducible apply wf_mset
    | with_reducible apply wf_mfill
    | with_reducible apply wf_filter
    | with_reducible apply rwf_rset
    | with_reducible apply rwf_filter
    | with_reducible apply wf_nil
    | with_reducible apply rwf_nil
    | with_reducible apply canon_foldl
    | with_reducible apply canon_foldl_s
    | with_reducible apply canon_foldl_1
    | with_reducible apply canon_foldl_2
    | with_reducible apply canon_foldl_2s
    | with_reducible apply canon_foldl_22
    | with_reducible apply canon_foldl_22s
    | with_reducible apply canon_foldl_A
    | with_reducible apply canon_foldl_as
    | with_reducible apply canon_foldl_das
    | with_reducible apply canon_foldl_2das
    | with_reducible apply canon_foldl_1as
    | dsimp only
    | (intro s_ hc_; beta_reduce)
    | intro _
    | split
    | (simp only [canon_mk_iff]; refine ⟨?_, ?_, ?_⟩)
    | ((fail_if_no_progress clear_value *); split)
    | dsimp +zetaDelta only)

theorem canon_unhold (h : Nat) (i : W32) (s : State)  (hs : Canon s) : Canon (unhold h i s) := by
  unfold unhold
  repeat' (first
    | with_reducible assumption | with_reducible apply canon_setMark | with_reducible apply canon_foldl | dsimp only | (intro s_ hc_; beta_reduce)
    | intro _ | split)

theorem canon_releaseUpTo (h : Nat) (ok : Release → Bool) (s : State)  (hs : Canon s) : Canon (releaseUpTo h ok s).1 := by
  unfold releaseUpTo
  repeat' (first
    | with_reducible assumption | with_reducible apply canon_trackRelease | with_reducible apply canon_foldl | dsimp only | (intro s_ hc_; beta_reduce)
    | split)

theorem canon_releaseUpTo_eq {h : Nat} {ok : Release → Bool} {s : State}  {v0_} {v1_} (he_ : releaseUpTo h ok s = (v0_, v1_)) (hs : Canon s) :
    Canon v0_ := by
  have := canon_releaseUpTo h ok s  hs
  rw [he_] at this
  exact this

theorem canon_ackedFrame (h : Nat) (num : W32) (s : State)  (hs : Canon s) : Canon (ackedFrame h num s) := by
  unfold ackedFrame
  repeat' (first
    | with_reducible assumption
    | ((fail_if_no_progress extract_lets +onlyGivenNames s_); first | (refine canon_cut (s := s_) ?_ (fun hc_ => ?_); (on_goal 2 => (try clear_value s_)); unfold s_) | skip)
    | with_reducible apply canon_unhold | with_reducible apply canon_consume | with_reducible apply canon_modEver | with_reducible apply canon_mem
    | with_reducible apply canon_hostMem | with_reducible apply canon_regs | with_reducible apply canon_foldl | dsimp only
    | (intro s_ hc_; beta_reduce) | intro _ | split | (simp only [canon_mk_iff]; refine ⟨?_, ?_, ?_⟩))

theorem canon_unmirror (h : Nat) (s : State)  (hs : Canon s) : Canon (unmirror h s) := by
  unfold unmirror
  repeat' (first
    | with_reducible assumption
    | ((fail_if_no_progress extract_lets +onlyGivenNames s_); first | (refine canon_cut (s := s_) ?_ (fun hc_ => ?_); (on_goal 2 => (try clear_value s_)); unfold s_) | skip)
    | with_reducible apply canon_modEver | with_reducible apply canon_consume | with_reducible apply canon_unholdAll
    | with_reducible apply canon_releaseUpTo | with_reducible refine canon_releaseUpTo_eq (by assumption) ?_ | with_reducible apply canon_mem
    | with_reducible apply canon_hostMem | with_reducible apply canon_regs | with_reducible apply canon_foldl | dsimp only
    | (intro s_ hc_; beta_reduce) | intro _ | split | (simp only [canon_mk_iff]; refine ⟨?_, ?_, ?_⟩))

theorem canon_acked (h status : Nat) (metaSeq : W32) (s : State)  (hs : Canon s) : Canon (acked h status metaSeq s) := by
  unfold acked
  repeat' (first
    | with_reducible assumption | with_reducible apply canon_report | with_reducible apply canon_unmirror | with_reducible apply canon_releaseUpTo
    | with_reducible apply canon_ackedFrame | with_reducible apply canon_foldl | dsimp only | (intro s_ hc_; beta_reduce) | split)

theorem canon_takeResult (h res code tracks : Nat) (rapIdx restored rapNum lastSeq metaSeq : Nat) (s : State)  (hs : Canon s) : Canon (takeResult h res code tracks rapIdx restored rapNum lastSeq metaSeq s) := by
  unfold takeResult
  repeat' (first
    | with_reducible assumption | with_reducible apply canon_engWrite)

theorem canon_restoreCtx (h : Nat) (par : List Byte) (s : State) (i : Nat)  (hs : Canon s) : Canon (restoreCtx h par s i) := by
  unfold restoreCtx
  repeat' (first
    | with_reducible assumption
    | ((fail_if_no_progress extract_lets +onlyGivenNames s_); first | (refine canon_cut (s := s_) ?_ (fun hc_ => ?_); (on_goal 2 => (try clear_value s_)); unfold s_) | skip)
    | with_reducible apply canon_putCtx | with_reducible apply canon_engWrite | with_reducible apply canon_modBound | split)

theorem canon_takeResume (h : Nat) (m : Mirror) (par bp : List Byte) (ends : List W32) (s : State)  (hs : Canon s) : Canon (takeResume h m par bp ends s).1 := by
  unfold takeResume
  repeat' (first
    | with_reducible assumption | with_reducible apply canon_bindStream | with_reducible apply canon_report | with_reducible apply canon_takeResult
    | with_reducible apply canon_restoreCtx | with_reducible apply canon_modBound | with_reducible apply canon_engWrite
    | with_reducible apply canon_modDec | with_reducible apply canon_decodeDb | with_reducible apply canon_foldl | dsimp only | split)

theorem canon_takeResume_eq {h : Nat} {m : Mirror} {par bp : List Byte} {ends : List W32} {s : State}  {v0_} {v1_} (he_ : takeResume h m par bp ends s = (v0_, v1_)) (hs : Canon s) :
    Canon v0_ := by
  have := canon_takeResume h m par bp ends s  hs
  rw [he_] at this
  exact this

theorem canon_takeStream (h : Nat) (m : Mirror) (ends : List W32) (s : State)  (hs : Canon s) : Canon (takeStream h m ends s).1 := by
  unfold takeStream
  repeat' (first
    | with_reducible assumption | (fail_if_no_progress extract_lets +onlyGivenNames s_) | with_reducible apply canon_engRead
    | with_reducible apply canon_report | with_reducible apply canon_takeResult | with_reducible apply canon_openDecode
    | with_reducible apply canon_takeResume | dsimp only | split)

theorem canon_takeStream_eq {h : Nat} {m : Mirror} {ends : List W32} {s : State}  {v0_} {v1_} (he_ : takeStream h m ends s = (v0_, v1_)) (hs : Canon s) :
    Canon v0_ := by
  have := canon_takeStream h m ends s  hs
  rw [he_] at this
  exact this

theorem canon_takeAll (ends : Nat → List W32) (x0 : List (Nat × Mirror)) (x1 : State) (hx1 : Canon x1) : Canon (takeAll ends x0 x1).1 := by
  induction x0 generalizing x1 with
  | nil =>
    unfold takeAll
    repeat' (first
        | with_reducible assumption | with_reducible apply canon_takeStream)
  | cons a l ih =>
    unfold takeAll
    repeat' (first
        | with_reducible assumption | with_reducible apply ih | with_reducible apply canon_takeStream)

theorem canon_takeAll_eq {ends : Nat → List W32} {x0 : List (Nat × Mirror)} {x1 : State} {v0_} {v1_} (he_ : takeAll ends x0 x1 = (v0_, v1_)) (hx1 : Canon x1) :
    Canon v0_ := by
  have := canon_takeAll ends x0 x1 hx1
  rw [he_] at this
  exact this

theorem canon_lostBoth (s : State)  (hs : Canon s) : Canon (lostBoth s) := by
  unfold lostBoth
  repeat' (first
    | with_reducible assumption
    | ((fail_if_no_progress extract_lets +onlyGivenNames s_); first | (refine canon_cut (s := s_) ?_ (fun hc_ => ?_); (on_goal 2 => (try clear_value s_)); unfold s_) | skip)
    | with_reducible apply canon_report | with_reducible apply canon_setStatus | with_reducible apply canon_twinState | with_reducible apply canon_mem
    | with_reducible apply canon_hostMem | with_reducible apply canon_regs | (simp only [canon_mk_iff]; refine ⟨?_, ?_, ?_⟩))

theorem canon_partnerLost (ends : Nat → List W32) (s : State)  (hs : Canon s) : Canon (partnerLost ends s) := by
  unfold partnerLost
  repeat' (first
    | with_reducible assumption | (fail_if_no_progress extract_lets +onlyGivenNames s_) | with_reducible apply canon_lostBoth
    | with_reducible apply canon_unmirror | with_reducible apply canon_takeAll | with_reducible apply canon_setFld | with_reducible apply canon_mem
    | with_reducible apply canon_hostMem | with_reducible apply canon_regs | with_reducible apply canon_foldl | dsimp only
    | (intro s_ hc_; beta_reduce) | split | (simp only [canon_mk_iff]; refine ⟨?_, ?_, ?_⟩))

theorem canon_execTwinHelloSend (s : State) (hs : Canon s) : OutCanon (execTwinHelloSend s) := by
  unfold execTwinHelloSend
  repeat' (first
    | with_reducible assumption | with_reducible apply canon_live | with_reducible apply canon_helloSend)

theorem canon_execTwinHello (ack : BitVec 16) (pairId : W32) (role : Byte) (uid echo : W64) (s : State) (hs : Canon s) : OutCanon (execTwinHello ack pairId role uid echo s) := by
  unfold execTwinHello
  repeat' (first
    | with_reducible assumption | with_reducible apply canon_live | with_reducible apply canon_linked | with_reducible apply canon_twinHello
    | with_reducible apply canon_takeAck | (intro s_ hc_; beta_reduce))

theorem canon_execHeartbeatSend (s : State) (hs : Canon s) : OutCanon (execHeartbeatSend s) := by
  unfold execHeartbeatSend
  repeat' (first
    | with_reducible assumption | with_reducible apply canon_live | with_reducible apply canon_heartbeatSend)

theorem canon_execHeartbeat (ack : BitVec 16) (hb echo : W32) (tick : W64) (s : State) (hs : Canon s) : OutCanon (execHeartbeat ack hb echo tick s) := by
  unfold execHeartbeat
  repeat' (first
    | with_reducible assumption | (fail_if_no_progress extract_lets +onlyGivenNames s_) | with_reducible apply canon_live
    | with_reducible apply canon_linked | with_reducible apply canon_heartbeat | with_reducible apply canon_takeAck | (intro s_ hc_; beta_reduce))

theorem canon_execPartnerLost (ends : List (Fin 1024 × List W32)) (s : State) (hs : Canon s) : OutCanon (execPartnerLost ends s) := by
  unfold execPartnerLost
  repeat' (first
    | with_reducible assumption | with_reducible apply canon_live | with_reducible apply canon_partnerLost)

theorem canon_execNak (ack : BitVec 16) (s : State) (hs : Canon s) : OutCanon (execNak ack s) := by
  unfold execNak
  repeat' (first
    | with_reducible assumption
    | ((fail_if_no_progress extract_lets +onlyGivenNames s_); first | (refine canon_cut (s := s_) ?_ (fun hc_ => ?_); (on_goal 2 => (try clear_value s_)); unfold s_) | skip)
    | with_reducible apply canon_live | with_reducible apply canon_linked | with_reducible apply canon_takeAck
    | with_reducible apply canon_replayFlits | with_reducible apply canon_mem | with_reducible apply canon_hostMem | with_reducible apply canon_regs
    | with_reducible apply canon_foldl | dsimp only | (intro s_ hc_; beta_reduce) | intro _ | split | (simp only [canon_mk_iff]; refine ⟨?_, ?_, ?_⟩))

theorem canon_execReplayTimeout (s : State) (hs : Canon s) : OutCanon (execReplayTimeout s) := by
  unfold execReplayTimeout
  repeat' (first
    | with_reducible assumption | with_reducible apply canon_live | with_reducible apply canon_replayFlits | (intro s_ hc_; beta_reduce) | split)

theorem canon_execTwinOpen (seq ack : BitVec 16) (cont : Bool) (h : BitVec 16) (data : List Byte) (s : State) (hs : Canon s) : OutCanon (execTwinOpen seq ack cont h data s) := by
  unfold execTwinOpen
  repeat' (first
    | with_reducible assumption | with_reducible apply canon_live | with_reducible apply canon_sequenced | with_reducible apply canon_mirrorOpen
    | (intro s_ hc_; beta_reduce))

theorem canon_execBits (seq ack : BitVec 16) (h : BitVec 16) (index : W32) (data : List Byte) (s : State) (hs : Canon s) : OutCanon (execBits seq ack h index data s) := by
  unfold execBits
  repeat' (first
    | with_reducible assumption | with_reducible apply canon_live | with_reducible apply canon_sequenced | with_reducible apply canon_mirrorBytes
    | (intro s_ hc_; beta_reduce))

theorem canon_execPos (seq ack : BitVec 16) (h : BitVec 16) (rap : Bool) (num start : W32) (s : State) (hs : Canon s) : OutCanon (execPos seq ack h rap num start s) := by
  unfold execPos
  repeat' (first
    | with_reducible assumption | with_reducible apply canon_live | with_reducible apply canon_sequenced | with_reducible apply canon_mirrorPos
    | (intro s_ hc_; beta_reduce))

theorem canon_execTrackFlit (seq ack : BitVec 16) (h : BitVec 16) (ctx : W32) (image : List Byte) (s : State) (hs : Canon s) : OutCanon (execTrackFlit seq ack h ctx image s) := by
  unfold execTrackFlit
  repeat' (first
    | with_reducible assumption | with_reducible apply canon_live | with_reducible apply canon_sequenced | with_reducible apply canon_mirrorTrack
    | (intro s_ hc_; beta_reduce))

theorem canon_execCommit (seq ack : BitVec 16) (h : BitVec 16) (frameSeq metaSeq nextId fin : W32) (arrival : W64) (s : State) (hs : Canon s) : OutCanon (execCommit seq ack h frameSeq metaSeq nextId fin arrival s) := by
  unfold execCommit
  repeat' (first
    | with_reducible assumption | with_reducible apply canon_live | with_reducible apply canon_sequenced | with_reducible apply canon_mirrorCommit
    | (intro s_ hc_; beta_reduce))

theorem canon_execTwinClose (seq ack : BitVec 16) (h : BitVec 16) (s : State) (hs : Canon s) : OutCanon (execTwinClose seq ack h s) := by
  unfold execTwinClose
  repeat' (first
    | with_reducible assumption | with_reducible apply canon_live | with_reducible apply canon_sequenced | with_reducible apply canon_mirrorClose
    | (intro s_ hc_; beta_reduce))

theorem canon_execAckf (seq ack : BitVec 16) (h : BitVec 16) (status : BitVec 16) (metaSeq : W32) (s : State) (hs : Canon s) : OutCanon (execAckf seq ack h status metaSeq s) := by
  unfold execAckf
  repeat' (first
    | with_reducible assumption | with_reducible apply canon_live | with_reducible apply canon_sequenced | with_reducible apply canon_acked
    | (intro s_ hc_; beta_reduce))

theorem canon_execBadFlit (s : State) (hs : Canon s) : OutCanon (execBadFlit s) := by
  unfold execBadFlit
  repeat' (first
    | with_reducible assumption | with_reducible apply canon_live | with_reducible apply canon_linked | with_reducible apply canon_sendNak
    | (intro s_ hc_; beta_reduce))

theorem canon_execIdleFlit (ack : BitVec 16) (s : State) (hs : Canon s) : OutCanon (execIdleFlit ack s) := by
  unfold execIdleFlit
  repeat' (first
    | with_reducible assumption | with_reducible apply canon_live | with_reducible apply canon_linked | with_reducible apply canon_takeAck
    | (intro s_ hc_; beta_reduce))

theorem canon_execTwinBlockLock (up : Bool) (s : State) (hs : Canon s) : OutCanon (execTwinBlockLock up s) := by
  unfold execTwinBlockLock
  repeat' (first
    | with_reducible assumption | with_reducible apply canon_live | with_reducible apply canon_setBit | with_reducible apply canon_mem
    | with_reducible apply canon_hostMem | with_reducible apply canon_regs | dsimp only | (intro s_ hc_; beta_reduce)
    | (simp only [canon_mk_iff]; refine ⟨?_, ?_, ?_⟩))

end Sys2Proof.Machine
end

