-- ==== Sys2Proof/Laws/Canon/Observe.lean ====
section
/-!
SUPPORT. The operations and meanings of Machine/Observe.lean keep the canonical form of the memories and of the register file.
-/
set_option linter.all false
namespace Sys2Proof.Machine

theorem canon_dbgWrite (fn : Fn) (addr : Nat) (k : State → State) (s : State)  (hk : ∀ a0_, Canon a0_ → Canon (k a0_)) (hs : Canon s) : Canon (dbgWrite fn addr k s) := by
  unfold dbgWrite
  repeat' (first
    | with_reducible assumption | with_reducible apply hk | with_reducible apply canon_denied | split)

theorem canon_cntZero (s : State) (i : Nat)  (hs : Canon s) : Canon (cntZero s i) := by
  unfold cntZero
  repeat' (first
    | with_reducible assumption | with_reducible apply canon_setFld)

theorem canon_cntReset (fn : Fn) (groups : Byte) (s : State)  (hs : Canon s) : Canon (cntReset fn groups s) := by
  unfold cntReset
  repeat' (first
    | with_reducible assumption | with_reducible apply canon_dbgWrite | with_reducible apply canon_cntZero | with_reducible apply canon_mem
    | with_reducible apply canon_hostMem | with_reducible apply canon_regs | with_reducible apply canon_foldl | dsimp only
    | (intro s_ hc_; beta_reduce) | split | (simp only [canon_mk_iff]; refine ⟨?_, ?_, ?_⟩))

theorem canon_matchWrite (fn : Fn) (v : W64) (s : State)  (hs : Canon s) : Canon (matchWrite fn v s) := by
  unfold matchWrite
  repeat' (first
    | with_reducible assumption | (fail_if_no_progress extract_lets +onlyGivenNames s_) | with_reducible apply canon_dbgWrite
    | with_reducible apply canon_dropCmd | with_reducible apply canon_setReg | with_reducible apply canon_mem | with_reducible apply canon_hostMem
    | with_reducible apply canon_regs | dsimp only | (intro s_ hc_; beta_reduce) | split | (simp only [canon_mk_iff]; refine ⟨?_, ?_, ?_⟩))

theorem canon_matchFire (s : State)  (hs : Canon s) : Canon (matchFire s) := by
  unfold matchFire
  repeat' (first
    | with_reducible assumption | (fail_if_no_progress extract_lets +onlyGivenNames s_) | with_reducible apply canon_snuffTrigger
    | with_reducible apply canon_setBit | split)

theorem canon_setTraceHeld (s : State) (h : Nat) (l : List (List Byte))  (hs : Canon s) : Canon (State.setTraceHeld s h l) := by
  unfold State.setTraceHeld
  repeat' (first
    | with_reducible assumption | (fail_if_no_progress extract_lets +onlyGivenNames s_) | with_reducible apply canon_mem
    | with_reducible apply canon_hostMem | with_reducible apply canon_regs | (simp only [canon_mk_iff]; refine ⟨?_, ?_, ?_⟩))

theorem canon_traceDrop (s : State) (n : Nat)  (hs : Canon s) : Canon (traceDrop s n) := by
  unfold traceDrop
  repeat' (first
    | with_reducible assumption | with_reducible apply canon_addSat)

theorem canon_traceLine (h : Nat) (s : State)  (hs : Canon s) : Canon (traceLine h s) := by
  unfold traceLine
  repeat' (first
    | with_reducible assumption
    | ((fail_if_no_progress extract_lets +onlyGivenNames s_); first | (refine canon_cut (s := s_) ?_ (fun hc_ => ?_); (on_goal 2 => (try clear_value s_)); unfold s_) | skip)
    | with_reducible apply canon_setTraceHeld | with_reducible apply canon_traceDrop | with_reducible apply canon_devWrite
    | with_reducible apply canon_setFld | split)

theorem canon_traceDrain (s : State) (h : Nat)  (hs : Canon s) : Canon (traceDrain s h) := by
  unfold traceDrain
  repeat' (first
    | with_reducible assumption | with_reducible apply canon_traceLine)

theorem canon_traceHold (c state : Nat) (s : State)  (hs : Canon s) : Canon (traceHold c state s) := by
  unfold traceHold
  repeat' (first
    | with_reducible assumption | (fail_if_no_progress extract_lets +onlyGivenNames s_) | with_reducible apply canon_traceDrop
    | with_reducible apply canon_setTraceHeld | split)

theorem canon_traceSample (c : Nat) (w : UnitWait) (capped : Bool) (s : State)  (hs : Canon s) : Canon (traceSample c w capped s) := by
  unfold traceSample
  repeat' (first
    | with_reducible assumption
    | ((fail_if_no_progress extract_lets +onlyGivenNames s_); (refine canon_cut (s := s_) ?_ (fun hc_ => ?_); (on_goal 2 => (try clear_value s_)); unfold s_))
    | with_reducible apply canon_traceHold | with_reducible apply canon_traceLine | split)

theorem canon_traceFlush (h : Nat) (s : State)  (hs : Canon s) : Canon (traceFlush h s) := by
  unfold traceFlush
  repeat' (first
    | with_reducible assumption | with_reducible apply canon_traceLine | split)

theorem canon_traceCfgWrite (fn : Fn) (v : W64) (s : State)  (hs : Canon s) : Canon (traceCfgWrite fn v s) := by
  unfold traceCfgWrite
  repeat' (first
    | with_reducible assumption | (fail_if_no_progress extract_lets +onlyGivenNames s_) | with_reducible apply canon_dbgWrite
    | with_reducible apply canon_dropCmd | with_reducible apply canon_traceDrain | with_reducible apply canon_setReg
    | with_reducible apply canon_setFld | with_reducible apply canon_foldl | dsimp only | (intro s_ hc_; beta_reduce) | split)

theorem canon_drivePin (s : State)  (hs : Canon s) : Canon (drivePin s) := by
  unfold drivePin
  repeat' (first
    | with_reducible assumption | (fail_if_no_progress extract_lets +onlyGivenNames s_) | with_reducible apply canon_mem
    | with_reducible apply canon_hostMem | with_reducible apply canon_regs | (simp only [canon_mk_iff]; refine ⟨?_, ?_, ?_⟩))

theorem canon_snuffWrite (fn : Fn) (v : W64) (s : State)  (hs : Canon s) : Canon (snuffWrite fn v s) := by
  unfold snuffWrite
  repeat' (first
    | with_reducible assumption | (fail_if_no_progress extract_lets +onlyGivenNames s_) | with_reducible apply canon_dbgWrite
    | with_reducible apply canon_drivePin | with_reducible apply canon_setFld | with_reducible apply canon_dropCmd
    | with_reducible apply canon_snuffTrigger | dsimp only | (intro s_ hc_; beta_reduce) | split)

theorem canon_snuffBit (fn : Fn) (b : Nat) (s : State)  (hs : Canon s) : Canon (snuffBit fn b s) := by
  unfold snuffBit
  repeat' (first
    | with_reducible assumption | with_reducible apply canon_snuffWrite)

theorem canon_snuffPin (s : State)  (hs : Canon s) : Canon (snuffPin s) := by
  unfold snuffPin
  repeat' (first
    | with_reducible assumption | (fail_if_no_progress extract_lets +onlyGivenNames s_) | with_reducible apply canon_snuffTrigger
    | with_reducible apply canon_mem | with_reducible apply canon_hostMem | with_reducible apply canon_regs | split
    | (simp only [canon_mk_iff]; refine ⟨?_, ?_, ?_⟩))

theorem canon_snuffRearm (s : State)  (hs : Canon s) : Canon (snuffRearm s) := by
  unfold snuffRearm
  repeat' (first
    | with_reducible assumption | (fail_if_no_progress extract_lets +onlyGivenNames s_) | with_reducible apply canon_mem
    | with_reducible apply canon_hostMem | with_reducible apply canon_regs | split | (simp only [canon_mk_iff]; refine ⟨?_, ?_, ?_⟩))

theorem canon_traceStopped (s : State)  (hs : Canon s) : Canon (traceStopped s) := by
  unfold traceStopped
  repeat' (first
    | with_reducible assumption
    | ((fail_if_no_progress extract_lets +onlyGivenNames s_); (refine canon_cut (s := s_) ?_ (fun hc_ => ?_); (on_goal 2 => (try clear_value s_)); unfold s_))
    | with_reducible apply canon_traceHold | with_reducible apply canon_traceDrain | with_reducible apply canon_foldl | (intro s_ hc_; beta_reduce)
    | split)

theorem canon_snuffStopped (s : State)  (hs : Canon s) : Canon (snuffStopped s) := by
  unfold snuffStopped
  repeat' (first
    | with_reducible assumption
    | ((fail_if_no_progress extract_lets +onlyGivenNames s_); first | (refine canon_cut (s := s_) ?_ (fun hc_ => ?_); (on_goal 2 => (try clear_value s_)); unfold s_) | skip)
    | with_reducible apply canon_traceStopped | with_reducible apply canon_capSnuffed | with_reducible apply canon_setStatus
    | with_reducible apply canon_setFld | with_reducible apply canon_mem | with_reducible apply canon_hostMem | with_reducible apply canon_regs
    | split | (simp only [canon_mk_iff]; refine ⟨?_, ?_, ?_⟩))

theorem canon_scanMeasure (source : Byte) (s : State)  (hs : Canon s) : Canon (scanMeasure source s) := by
  unfold scanMeasure
  repeat' (first
    | with_reducible assumption | (fail_if_no_progress extract_lets +onlyGivenNames s_) | with_reducible apply canon_extendM)

theorem canon_present (s : State)  (hs : Canon s) : Canon (present s) := by
  unfold present
  repeat' (first
    | with_reducible assumption
    | ((fail_if_no_progress extract_lets +onlyGivenNames s_); first | (refine canon_cut (s := s_) ?_ (fun hc_ => ?_); (on_goal 2 => (try clear_value s_)); unfold s_) | skip)
    | with_reducible apply canon_setFld | with_reducible apply canon_setBit | with_reducible apply canon_mem | with_reducible apply canon_hostMem
    | with_reducible apply canon_regs | with_reducible apply canon_foldl | dsimp only | (intro s_ hc_; beta_reduce) | intro _ | split
    | (simp only [canon_mk_iff]; refine ⟨?_, ?_, ?_⟩))

theorem canon_scanWrite (fn : Fn) (v : W64) (s : State)  (hs : Canon s) : Canon (scanWrite fn v s) := by
  unfold scanWrite
  repeat' (first
    | with_reducible assumption | with_reducible apply canon_dbgWrite | with_reducible apply canon_setFld | with_reducible apply canon_scanMeasure
    | with_reducible apply canon_present | dsimp only | (intro s_ hc_; beta_reduce) | split)

theorem canon_scanStart (fn : Fn) (s : State)  (hs : Canon s) : Canon (scanStart fn s) := by
  unfold scanStart
  repeat' (first
    | with_reducible assumption | with_reducible apply canon_scanWrite)

theorem canon_jtagLoad (ir : BitVec 8) (s : State)  (hs : Canon s) : Canon (jtagLoad ir s) := by
  unfold jtagLoad
  repeat' (first
    | with_reducible assumption
    | ((fail_if_no_progress extract_lets +onlyGivenNames s_); first | (refine canon_cut (s := s_) ?_ (fun hc_ => ?_); (on_goal 2 => (try clear_value s_)); unfold s_) | skip)
    | with_reducible apply canon_scanMeasure | with_reducible apply canon_mem | with_reducible apply canon_hostMem | with_reducible apply canon_regs
    | split | (simp only [canon_mk_iff]; refine ⟨?_, ?_, ?_⟩))

theorem canon_jtagShift (bs : List Byte) (s : State)  (hs : Canon s) : Canon (jtagShift bs s) := by
  unfold jtagShift
  repeat' (first
    | with_reducible assumption | (fail_if_no_progress extract_lets +onlyGivenNames s_) | with_reducible apply canon_mem
    | with_reducible apply canon_hostMem | with_reducible apply canon_regs | (simp only [canon_mk_iff]; refine ⟨?_, ?_, ?_⟩))

theorem canon_jtagTake (b : Balls) (s : State)  (hs : Canon s) : Canon (jtagTake b s) := by
  unfold jtagTake
  repeat' (first
    | with_reducible assumption | (fail_if_no_progress extract_lets +onlyGivenNames s_) | with_reducible apply canon_jtagShift
    | with_reducible apply canon_mem | with_reducible apply canon_hostMem | with_reducible apply canon_regs | split
    | (simp only [canon_mk_iff]; refine ⟨?_, ?_, ?_⟩))

theorem canon_jtagScan (scanIn balls : List Bool) (s : State)  (hs : Canon s) : Canon (jtagScan scanIn balls s) := by
  unfold jtagScan
  repeat' (first
    | with_reducible assumption | (fail_if_no_progress extract_lets +onlyGivenNames s_) | with_reducible apply canon_jtagShift
    | with_reducible apply canon_mem | with_reducible apply canon_hostMem | with_reducible apply canon_regs
    | (simp only [canon_mk_iff]; refine ⟨?_, ?_, ?_⟩))

theorem canon_jtagExtest (scanIn balls : List Bool) (s : State)  (hs : Canon s) : Canon (jtagExtest scanIn balls s) := by
  unfold jtagExtest
  repeat' (first
    | with_reducible assumption
    | ((fail_if_no_progress extract_lets +onlyGivenNames s_); (refine canon_cut (s := s_) ?_ (fun hc_ => ?_); (on_goal 2 => (try clear_value s_)); unfold s_))
    | with_reducible apply canon_jtagTake | with_reducible apply canon_jtagLoad | with_reducible apply canon_jtagScan | split)

theorem canon_jtagIdcode (s : State)  (hs : Canon s) : Canon (jtagIdcode s) := by
  unfold jtagIdcode
  repeat' (first
    | with_reducible assumption
    | ((fail_if_no_progress extract_lets +onlyGivenNames s_); (refine canon_cut (s := s_) ?_ (fun hc_ => ?_); (on_goal 2 => (try clear_value s_)); unfold s_))
    | with_reducible apply canon_jtagLoad | with_reducible apply canon_jtagShift)

theorem canon_jtagSnuffScan (s : State)  (hs : Canon s) : Canon (jtagSnuffScan s) := by
  unfold jtagSnuffScan
  repeat' (first
    | with_reducible assumption
    | ((fail_if_no_progress extract_lets +onlyGivenNames s_); (refine canon_cut (s := s_) ?_ (fun hc_ => ?_); (on_goal 2 => (try clear_value s_)); unfold s_))
    | with_reducible apply canon_jtagLoad | with_reducible apply canon_jtagShift | with_reducible apply canon_scanMeasure | dsimp only | split)

theorem canon_jtagReset (s : State)  (hs : Canon s) : Canon (jtagReset s) := by
  unfold jtagReset
  repeat' (first
    | with_reducible assumption | (fail_if_no_progress extract_lets +onlyGivenNames s_) | with_reducible apply canon_mem
    | with_reducible apply canon_hostMem | with_reducible apply canon_regs | (simp only [canon_mk_iff]; refine ⟨?_, ?_, ?_⟩))

theorem canon_execCntReset (fn : Fn) (groups : Byte) (s : State) (hs : Canon s) : OutCanon (execCntReset fn groups s) := by
  unfold execCntReset
  repeat' (first
    | with_reducible assumption | with_reducible apply canon_bar0 | with_reducible apply canon_cntReset)

theorem canon_execDbgMatchArm (fn : Fn) (value : W64) (s : State) (hs : Canon s) : OutCanon (execDbgMatchArm fn value s) := by
  unfold execDbgMatchArm
  repeat' (first
    | with_reducible assumption | with_reducible apply canon_bar0 | with_reducible apply canon_matchWrite)

theorem canon_execTraceCfgWrite (fn : Fn) (value : W64) (s : State) (hs : Canon s) : OutCanon (execTraceCfgWrite fn value s) := by
  unfold execTraceCfgWrite
  repeat' (first
    | with_reducible assumption | with_reducible apply canon_bar0 | with_reducible apply canon_traceCfgWrite)

theorem canon_execTraceSample (core : Fin 16) (wait : UnitWait) (capped : Bool) (s : State) (hs : Canon s) : OutCanon (execTraceSample core wait capped s) := by
  unfold execTraceSample
  repeat' (first
    | with_reducible assumption | with_reducible apply canon_live | with_reducible apply canon_traceSample)

theorem canon_execTraceLineFlush (hearth : Fin 4) (s : State) (hs : Canon s) : OutCanon (execTraceLineFlush hearth s) := by
  unfold execTraceLineFlush
  repeat' (first
    | with_reducible assumption | with_reducible apply canon_live | with_reducible apply canon_traceFlush)

theorem canon_execSnuffGo (fn : Fn) (s : State) (hs : Canon s) : OutCanon (execSnuffGo fn s) := by
  unfold execSnuffGo
  repeat' (first
    | with_reducible assumption | with_reducible apply canon_bar0 | with_reducible apply canon_snuffBit)

theorem canon_execSnuffPin (s : State) (hs : Canon s) : OutCanon (execSnuffPin s) := by
  unfold execSnuffPin
  repeat' (first
    | with_reducible assumption | with_reducible apply canon_live | with_reducible apply canon_snuffPin)

theorem canon_execSnuffMatch (s : State) (hs : Canon s) : OutCanon (execSnuffMatch s) := by
  unfold execSnuffMatch
  repeat' (first
    | with_reducible assumption | with_reducible apply canon_live | with_reducible apply canon_matchFire)

theorem canon_execSnuffStopped (s : State) (hs : Canon s) : OutCanon (execSnuffStopped s) := by
  unfold execSnuffStopped
  repeat' (first
    | with_reducible assumption | with_reducible apply canon_live | with_reducible apply canon_snuffStopped)

theorem canon_execSnuffResume (fn : Fn) (s : State) (hs : Canon s) : OutCanon (execSnuffResume fn s) := by
  unfold execSnuffResume
  repeat' (first
    | with_reducible assumption | with_reducible apply canon_bar0 | with_reducible apply canon_snuffBit)

theorem canon_execSnuffPinRearm (s : State) (hs : Canon s) : OutCanon (execSnuffPinRearm s) := by
  unfold execSnuffPinRearm
  repeat' (first
    | with_reducible assumption | with_reducible apply canon_live | with_reducible apply canon_snuffRearm)

theorem canon_execScanStart (fn : Fn) (s : State) (hs : Canon s) : OutCanon (execScanStart fn s) := by
  unfold execScanStart
  repeat' (first
    | with_reducible assumption | with_reducible apply canon_bar0 | with_reducible apply canon_scanStart)

theorem canon_jtag (s : State) (k : State → State) (hs : Canon s) (hk : ∀ a0_, Canon a0_ → Canon (k a0_)) : OutCanon (jtag s k) := by
  unfold jtag
  repeat' (first
    | with_reducible assumption | with_reducible apply canon_gated)

theorem canon_execExtest (scanIn balls : List Bool) (s : State) (hs : Canon s) : OutCanon (execExtest scanIn balls s) := by
  unfold execExtest
  repeat' (first
    | with_reducible assumption | with_reducible apply canon_jtag | with_reducible apply canon_jtagExtest)

theorem canon_execSamplePreload (scanIn balls : List Bool) (s : State) (hs : Canon s) : OutCanon (execSamplePreload scanIn balls s) := by
  unfold execSamplePreload
  repeat' (first
    | with_reducible assumption | with_reducible apply canon_jtag | with_reducible apply canon_jtagScan | with_reducible apply canon_jtagLoad
    | (intro s_ hc_; beta_reduce))

theorem canon_execIdcode (s : State) (hs : Canon s) : OutCanon (execIdcode s) := by
  unfold execIdcode
  repeat' (first
    | with_reducible assumption | with_reducible apply canon_jtag | with_reducible apply canon_jtagIdcode)

theorem canon_execClamp (s : State) (hs : Canon s) : OutCanon (execClamp s) := by
  unfold execClamp
  repeat' (first
    | with_reducible assumption | with_reducible apply canon_jtag | with_reducible apply canon_jtagTake | with_reducible apply canon_jtagLoad
    | (intro s_ hc_; beta_reduce))

theorem canon_execHighz (s : State) (hs : Canon s) : OutCanon (execHighz s) := by
  unfold execHighz
  repeat' (first
    | with_reducible assumption | with_reducible apply canon_jtag | with_reducible apply canon_jtagTake | with_reducible apply canon_jtagLoad
    | (intro s_ hc_; beta_reduce))

theorem canon_execSnuffScan (s : State) (hs : Canon s) : OutCanon (execSnuffScan s) := by
  unfold execSnuffScan
  repeat' (first
    | with_reducible assumption | with_reducible apply canon_jtag | with_reducible apply canon_jtagSnuffScan)

theorem canon_execBypass (ir : BitVec 8) (s : State) (hs : Canon s) : OutCanon (execBypass ir s) := by
  unfold execBypass
  repeat' (first
    | with_reducible assumption | with_reducible apply canon_jtag | with_reducible apply canon_jtagShift | with_reducible apply canon_jtagLoad
    | (intro s_ hc_; beta_reduce))

theorem canon_execTestLogicReset (s : State) (hs : Canon s) : OutCanon (execTestLogicReset s) := by
  unfold execTestLogicReset
  repeat' (first
    | with_reducible assumption | with_reducible apply canon_jtag | with_reducible apply canon_jtagReset)

end Sys2Proof.Machine
end

