-- ==== Sys2Proof/Laws/Canon/Apply.lean ====
section
/-!
SUPPORT. The operations and meanings of Machine/Apply.lean keep the canonical form of the memories and of the register file.
-/
set_option linter.all false
namespace Sys2Proof.Machine

theorem canon_Applying_take (a : Applying) (r : State × Option Nat)  (ha : Canon a.s) (hr : Canon r.1) : Canon (Applying.take a r).1.s := by
  unfold Applying.take
  repeat' (first
    | with_reducible assumption)

theorem canon_Applying_take_eq {a : Applying} {r : State × Option Nat}  {v0_} {v1_} (he_ : Applying.take a r = (v0_, v1_)) (ha : Canon a.s) (hr : Canon r.1) :
    Canon v0_.s := by
  have := canon_Applying_take a r  ha hr
  rw [he_] at this
  exact this

theorem canon_cfgPartition (a : Applying) (v : List Byte)  (ha : Canon a.s) : Canon (cfgPartition a v).1.s := by
  unfold cfgPartition
  repeat' (first
    | with_reducible assumption
    | ((fail_if_no_progress extract_lets +onlyGivenNames s_); first | (refine canon_cut (s := s_) ?_ (fun hc_ => ?_); (on_goal 2 => (try clear_value s_)); unfold s_) | skip)
    | with_reducible apply canon_setFld | with_reducible apply canon_setBit | split)

theorem canon_cfgPartition_eq {a : Applying} {v : List Byte}  {v0_} {v1_} (he_ : cfgPartition a v = (v0_, v1_)) (ha : Canon a.s) :
    Canon v0_.s := by
  have := canon_cfgPartition a v  ha
  rw [he_] at this
  exact this

theorem canon_coresOf  (x0 : List Nat) (x1 : Nat) (x2 : State) (hx2 : Canon x2) : Canon (coresOf x0 x1 x2) := by
  induction x0 generalizing x1 x2 with
  | nil =>
    unfold coresOf
    repeat' (first
        | with_reducible assumption
        | ((fail_if_no_progress extract_lets +onlyGivenNames s_); first | (refine canon_cut (s := s_) ?_ (fun hc_ => ?_); (on_goal 2 => (try clear_value s_)); unfold s_) | skip)
        | with_reducible apply canon_setFld | with_reducible apply canon_reportUnnamed | with_reducible apply canon_setBit | split)
  | cons a l ih =>
    unfold coresOf
    repeat' (first
        | with_reducible assumption
        | ((fail_if_no_progress extract_lets +onlyGivenNames s_); first | (refine canon_cut (s := s_) ?_ (fun hc_ => ?_); (on_goal 2 => (try clear_value s_)); unfold s_) | skip)
        | with_reducible apply ih | with_reducible apply canon_setFld | with_reducible apply canon_reportUnnamed | with_reducible apply canon_setBit
        | split)

theorem canon_settleParts (a : Applying)  (ha : Canon a.s) : Canon (settleParts a).s := by
  unfold settleParts
  repeat' (first
    | with_reducible assumption
    | ((fail_if_no_progress extract_lets +onlyGivenNames s_); first | (refine canon_cut (s := s_.s) ?_ (fun hc_ => ?_); (on_goal 2 => (try clear_value s_)); unfold s_) | skip)
    | with_reducible apply canon_setFld | with_reducible apply canon_coresOf | split)

theorem canon_cfgVfMap (a : Applying) (v : List Byte)  (ha : Canon a.s) : Canon (cfgVfMap a v).1.s := by
  unfold cfgVfMap
  repeat' (first
    | with_reducible assumption | (fail_if_no_progress extract_lets +onlyGivenNames s_) | with_reducible apply canon_Applying_take
    | with_reducible apply canon_setBit | with_reducible apply canon_setFld | split)

theorem canon_cfgVfMap_eq {a : Applying} {v : List Byte}  {v0_} {v1_} (he_ : cfgVfMap a v = (v0_, v1_)) (ha : Canon a.s) :
    Canon v0_.s := by
  have := canon_cfgVfMap a v  ha
  rw [he_] at this
  exact this

theorem canon_cfgLoad (s : State) (v : List Byte)  (hs : Canon s) : Canon (cfgLoad s v).1 := by
  unfold cfgLoad
  repeat' (first
    | with_reducible assumption | (fail_if_no_progress extract_lets +onlyGivenNames s_) | with_reducible apply canon_devWrite | split)

theorem canon_cfgLoad_eq {s : State} {v : List Byte}  {v0_} {v1_} (he_ : cfgLoad s v = (v0_, v1_)) (hs : Canon s) :
    Canon v0_ := by
  have := canon_cfgLoad s v  hs
  rw [he_] at this
  exact this

theorem canon_cfgModel (s : State) (v : List Byte)  (hs : Canon s) : Canon (cfgModel s v).1 := by
  unfold cfgModel
  repeat' (first
    | with_reducible assumption
    | ((fail_if_no_progress extract_lets +onlyGivenNames s_); first | (refine canon_cut (s := s_) ?_ (fun hc_ => ?_); (on_goal 2 => (try clear_value s_)); unfold s_) | skip)
    | with_reducible apply canon_extendM | with_reducible apply canon_devWrite | with_reducible apply canon_verifyFailed
    | with_reducible apply canon_lockVault | with_reducible apply canon_mem | with_reducible apply canon_hostMem | with_reducible apply canon_regs
    | with_reducible apply canon_foldl | dsimp only | (intro s_ hc_; beta_reduce) | intro _ | split | (simp only [canon_mk_iff]; refine ⟨?_, ?_, ?_⟩))

theorem canon_cfgModel_eq {s : State} {v : List Byte}  {v0_} {v1_} (he_ : cfgModel s v = (v0_, v1_)) (hs : Canon s) :
    Canon v0_ := by
  have := canon_cfgModel s v  hs
  rw [he_] at this
  exact this

theorem canon_cfgMmu (s : State) (v : List Byte)  (hs : Canon s) : Canon (cfgMmu s v).1 := by
  unfold cfgMmu
  repeat' (first
    | with_reducible assumption
    | ((fail_if_no_progress extract_lets +onlyGivenNames s_); first | (refine canon_cut (s := s_) ?_ (fun hc_ => ?_); (on_goal 2 => (try clear_value s_)); unfold s_) | skip)
    | with_reducible apply canon_mmuJudge | with_reducible apply canon_mem | with_reducible apply canon_hostMem | with_reducible apply canon_regs
    | dsimp only | split | (simp only [canon_mk_iff]; refine ⟨?_, ?_, ?_⟩))

theorem canon_cfgMmu_eq {s : State} {v : List Byte}  {v0_} {v1_} (he_ : cfgMmu s v = (v0_, v1_)) (hs : Canon s) :
    Canon v0_ := by
  have := canon_cfgMmu s v  hs
  rw [he_] at this
  exact this

theorem canon_cfgQtable (s : State) (v : List Byte)  (hs : Canon s) : Canon (cfgQtable s v).1 := by
  unfold cfgQtable
  repeat' (first
    | with_reducible assumption | (fail_if_no_progress extract_lets +onlyGivenNames s_) | with_reducible apply canon_setReg | split)

theorem canon_cfgQtable_eq {s : State} {v : List Byte}  {v0_} {v1_} (he_ : cfgQtable s v = (v0_, v1_)) (hs : Canon s) :
    Canon v0_ := by
  have := canon_cfgQtable s v  hs
  rw [he_] at this
  exact this

theorem canon_cfgQueue (s : State) (v : List Byte)  (hs : Canon s) : Canon (cfgQueue s v).1 := by
  unfold cfgQueue
  repeat' (first
    | with_reducible assumption
    | ((fail_if_no_progress extract_lets +onlyGivenNames s_); first | (refine canon_cut (s := s_) ?_ (fun hc_ => ?_); (on_goal 2 => (try clear_value s_)); unfold s_) | skip)
    | with_reducible apply canon_engWrite | with_reducible apply canon_enableQueue | with_reducible apply canon_mem
    | with_reducible apply canon_hostMem | with_reducible apply canon_regs | with_reducible apply canon_foldl | dsimp only
    | (intro s_ hc_; beta_reduce) | intro _ | split | (simp only [canon_mk_iff]; refine ⟨?_, ?_, ?_⟩))

theorem canon_cfgQueue_eq {s : State} {v : List Byte}  {v0_} {v1_} (he_ : cfgQueue s v = (v0_, v1_)) (hs : Canon s) :
    Canon v0_ := by
  have := canon_cfgQueue s v  hs
  rw [he_] at this
  exact this

theorem canon_cfgAreas (s : State) (v : List Byte)  (hs : Canon s) : Canon (cfgAreas s v).1 := by
  unfold cfgAreas
  repeat' (first
    | with_reducible assumption | (fail_if_no_progress extract_lets +onlyGivenNames s_) | with_reducible apply canon_mem
    | with_reducible apply canon_hostMem | with_reducible apply canon_regs | dsimp only | split | (simp only [canon_mk_iff]; refine ⟨?_, ?_, ?_⟩))

theorem canon_cfgAreas_eq {s : State} {v : List Byte}  {v0_} {v1_} (he_ : cfgAreas s v = (v0_, v1_)) (hs : Canon s) :
    Canon v0_ := by
  have := canon_cfgAreas s v  hs
  rw [he_] at this
  exact this

theorem canon_cfgCycle (a : Applying) (t : Tlv)  (ha : Canon a.s) : Canon (cfgCycle a t).1.s := by
  unfold cfgCycle
  repeat' (first
    | with_reducible assumption | (fail_if_no_progress extract_lets +onlyGivenNames s_) | split)

theorem canon_cfgCycle_eq {a : Applying} {t : Tlv}  {v0_} {v1_} (he_ : cfgCycle a t = (v0_, v1_)) (ha : Canon a.s) :
    Canon v0_.s := by
  have := canon_cfgCycle a t  ha
  rw [he_] at this
  exact this

theorem canon_cfgCslot (s : State) (v : List Byte)  (hs : Canon s) : Canon (cfgCslot s v).1 := by
  unfold cfgCslot
  repeat' (first
    | with_reducible assumption
    | ((fail_if_no_progress extract_lets +onlyGivenNames s_); first | (refine canon_cut (s := s_) ?_ (fun hc_ => ?_); (on_goal 2 => (try clear_value s_)); unfold s_) | skip)
    | with_reducible apply canon_setFld | with_reducible apply canon_mem | with_reducible apply canon_hostMem | with_reducible apply canon_regs
    | split | (simp only [canon_mk_iff]; refine ⟨?_, ?_, ?_⟩))

theorem canon_cfgCslot_eq {s : State} {v : List Byte}  {v0_} {v1_} (he_ : cfgCslot s v = (v0_, v1_)) (hs : Canon s) :
    Canon v0_ := by
  have := canon_cfgCslot s v  hs
  rw [he_] at this
  exact this

theorem canon_settleCycle (a : Applying)  (ha : Canon a.s) : Canon (settleCycle a).s := by
  unfold settleCycle
  repeat' (first
    | with_reducible assumption | with_reducible apply canon_setFld | with_reducible apply canon_reportUnnamed | dsimp only | split)

theorem canon_cfgPower (s : State) (v : List Byte)  (hs : Canon s) : Canon (cfgPower s v).1 := by
  unfold cfgPower
  repeat' (first
    | with_reducible assumption | (fail_if_no_progress extract_lets +onlyGivenNames s_) | with_reducible apply canon_setFld
    | with_reducible apply canon_mem | with_reducible apply canon_hostMem | with_reducible apply canon_regs | split
    | (simp only [canon_mk_iff]; refine ⟨?_, ?_, ?_⟩))

theorem canon_cfgPower_eq {s : State} {v : List Byte}  {v0_} {v1_} (he_ : cfgPower s v = (v0_, v1_)) (hs : Canon s) :
    Canon v0_ := by
  have := canon_cfgPower s v  hs
  rw [he_] at this
  exact this

theorem canon_cfgSmbus (s : State) (v : List Byte)  (hs : Canon s) : Canon (cfgSmbus s v).1 := by
  unfold cfgSmbus
  repeat' (first
    | with_reducible assumption | (fail_if_no_progress extract_lets +onlyGivenNames s_) | with_reducible apply canon_mem
    | with_reducible apply canon_hostMem | with_reducible apply canon_regs | dsimp only | split | (simp only [canon_mk_iff]; refine ⟨?_, ?_, ?_⟩))

theorem canon_cfgSmbus_eq {s : State} {v : List Byte}  {v0_} {v1_} (he_ : cfgSmbus s v = (v0_, v1_)) (hs : Canon s) :
    Canon v0_ := by
  have := canon_cfgSmbus s v  hs
  rw [he_] at this
  exact this

theorem canon_cfgCapture (s : State) (v : List Byte)  (hs : Canon s) : Canon (cfgCapture s v).1 := by
  unfold cfgCapture
  repeat' (first
    | with_reducible assumption
    | ((fail_if_no_progress extract_lets +onlyGivenNames s_); first | (refine canon_cut (s := s_) ?_ (fun hc_ => ?_); (on_goal 2 => (try clear_value s_)); unfold s_) | skip)
    | with_reducible apply canon_capJudge | with_reducible apply canon_mem | with_reducible apply canon_hostMem | with_reducible apply canon_regs
    | dsimp only | split | (simp only [canon_mk_iff]; refine ⟨?_, ?_, ?_⟩))

theorem canon_cfgCapture_eq {s : State} {v : List Byte}  {v0_} {v1_} (he_ : cfgCapture s v = (v0_, v1_)) (hs : Canon s) :
    Canon v0_ := by
  have := canon_cfgCapture s v  hs
  rw [he_] at this
  exact this

theorem canon_cfgTwin (s : State) (v : List Byte)  (hs : Canon s) : Canon (cfgTwin s v).1 := by
  unfold cfgTwin
  repeat' (first
    | with_reducible assumption
    | ((fail_if_no_progress extract_lets +onlyGivenNames s_); first | (refine canon_cut (s := s_) ?_ (fun hc_ => ?_); (on_goal 2 => (try clear_value s_)); unfold s_) | skip)
    | with_reducible apply canon_setFld | with_reducible apply canon_reportUnnamed | with_reducible apply canon_mem
    | with_reducible apply canon_hostMem | with_reducible apply canon_regs | with_reducible apply canon_foldl | dsimp only
    | (intro s_ hc_; beta_reduce) | intro _ | split | (simp only [canon_mk_iff]; refine ⟨?_, ?_, ?_⟩))

theorem canon_cfgTwin_eq {s : State} {v : List Byte}  {v0_} {v1_} (he_ : cfgTwin s v = (v0_, v1_)) (hs : Canon s) :
    Canon v0_ := by
  have := canon_cfgTwin s v  hs
  rw [he_] at this
  exact this

theorem canon_placeChain (k : Nat) (v : List Byte) (s : State)  (hs : Canon s) : Canon (placeChain k v s) := by
  unfold placeChain
  repeat' (first
    | with_reducible assumption
    | ((fail_if_no_progress extract_lets +onlyGivenNames s_); first | (refine canon_cut (s := s_) ?_ (fun hc_ => ?_); (on_goal 2 => (try clear_value s_)); unfold s_) | skip)
    | with_reducible apply canon_engWrite | with_reducible apply canon_mem | with_reducible apply canon_hostMem | with_reducible apply canon_regs
    | with_reducible apply canon_foldl | dsimp only | (intro s_ hc_; beta_reduce) | intro _ | split | (simp only [canon_mk_iff]; refine ⟨?_, ?_, ?_⟩))

theorem canon_cfgPipeline (k : Nat) (s : State) (v : List Byte)  (hs : Canon s) : Canon (cfgPipeline k s v).1 := by
  unfold cfgPipeline
  repeat' (first
    | with_reducible assumption
    | ((fail_if_no_progress extract_lets +onlyGivenNames s_); (refine canon_cut (s := s_) ?_ (fun hc_ => ?_); (on_goal 2 => (try clear_value s_)); unfold s_))
    | with_reducible apply canon_placeChain | with_reducible apply canon_enableQueue | with_reducible apply canon_bindStream
    | with_reducible apply canon_setFld | with_reducible apply canon_mem | with_reducible apply canon_hostMem | with_reducible apply canon_regs
    | dsimp only | split | (simp only [canon_mk_iff]; refine ⟨?_, ?_, ?_⟩))

theorem canon_cfgPipeline_eq {k : Nat} {s : State} {v : List Byte}  {v0_} {v1_} (he_ : cfgPipeline k s v = (v0_, v1_)) (hs : Canon s) :
    Canon v0_ := by
  have := canon_cfgPipeline k s v  hs
  rw [he_] at this
  exact this

theorem canon_cfgTake (ts : List Tlv) (a : Applying) (t : Tlv)  (ha : Canon a.s) : Canon (cfgTake ts a t).1.s := by
  unfold cfgTake
  repeat' (first
    | with_reducible assumption | (fail_if_no_progress extract_lets +onlyGivenNames s_) | with_reducible apply canon_cfgPartition
    | with_reducible apply canon_cfgVfMap | with_reducible apply canon_Applying_take | with_reducible apply canon_cfgAreas
    | with_reducible apply canon_cfgCycle | with_reducible apply canon_cfgCslot | with_reducible apply canon_cfgPower
    | with_reducible apply canon_cfgSmbus | with_reducible apply canon_cfgLoad | with_reducible apply canon_cfgModel
    | with_reducible apply canon_cfgMmu | with_reducible apply canon_cfgQtable | with_reducible apply canon_cfgQueue
    | with_reducible apply canon_cfgCapture | with_reducible apply canon_cfgTwin | with_reducible apply canon_cfgPipeline | split)

theorem canon_cfgTake_eq {ts : List Tlv} {a : Applying} {t : Tlv}  {v0_} {v1_} (he_ : cfgTake ts a t = (v0_, v1_)) (ha : Canon a.s) :
    Canon v0_.s := by
  have := canon_cfgTake ts a t  ha
  rw [he_] at this
  exact this

theorem canon_rejectLog (s : State) (ts : List Tlv) (t : Tlv) (f : Nat)  (hs : Canon s) : Canon (rejectLog s ts t f) := by
  unfold rejectLog
  repeat' (first
    | with_reducible assumption | with_reducible apply canon_reportUnnamed | with_reducible apply canon_report | split)

theorem canon_cfgStep (ts : List Tlv) (a : Applying) (t : Tlv)  (ha : Canon a.s) : Canon (cfgStep ts a t).s := by
  unfold cfgStep
  repeat' (first
    | with_reducible assumption
    | ((fail_if_no_progress extract_lets +onlyGivenNames s_); first | (refine canon_cut (s := s_.s) ?_ (fun hc_ => ?_); (on_goal 2 => (try clear_value s_)); unfold s_) | (refine canon_cut (s := s_.1.s) ?_ (fun hc_ => ?_); (on_goal 2 => (try clear_value s_)); unfold s_))
    | with_reducible apply canon_cfgTake | with_reducible apply canon_rejectLog | split)

theorem canon_cfgGroup (ts : List Tlv) (g : Nat) (a : Applying)  (ha : Canon a.s) : Canon (cfgGroup ts g a).s := by
  unfold cfgGroup
  repeat' (first
    | with_reducible assumption | with_reducible apply canon_cfgStep | with_reducible apply canon_foldl_A)

theorem canon_cfgApply (ts : List Tlv) (s : State)  (hs : Canon s) : Canon (cfgApply ts s).s := by
  unfold cfgApply
  repeat' (first
    | with_reducible assumption
    | ((fail_if_no_progress extract_lets +onlyGivenNames s_); (refine canon_cut (s := s_.s) ?_ (fun hc_ => ?_); (on_goal 2 => (try clear_value s_)); unfold s_))
    | with_reducible apply canon_cfgGroup | with_reducible apply canon_settleParts | with_reducible apply canon_settleCycle
    | with_reducible apply canon_foldl_A | (intro s_ hc_; beta_reduce))

end Sys2Proof.Machine
end

