-- ==== Sys2Proof/Laws/Canon/Start.lean ====
section
/-!
SUPPORT. The operations and meanings of Machine/Start.lean keep the canonical form of the memories and of the register file.
-/
set_option linter.all false
namespace Sys2Proof.Machine

theorem canon_twinConfigured (s : State)  (hs : Canon s) : Canon (twinConfigured s) := by
  unfold twinConfigured
  repeat' (first
    | with_reducible assumption
    | ((fail_if_no_progress extract_lets +onlyGivenNames s_); first | (refine canon_cut (s := s_) ?_ (fun hc_ => ?_); (on_goal 2 => (try clear_value s_)); unfold s_) | skip)
    | with_reducible apply canon_setFld | with_reducible apply canon_reportUnnamed | split)

theorem canon_configure (s : State)  (hs : Canon s) : Canon (configure s) := by
  unfold configure
  repeat' (first
    | with_reducible assumption
    | ((fail_if_no_progress extract_lets +onlyGivenNames s_); first | (refine canon_cut (s := s_) ?_ (fun hc_ => ?_); (on_goal 2 => (try clear_value s_)); unfold s_) | skip)
    | with_reducible apply canon_cfgApply | with_reducible apply canon_setFld | with_reducible apply canon_setBit | with_reducible apply canon_mem
    | with_reducible apply canon_hostMem | with_reducible apply canon_regs | dsimp only | split | (simp only [canon_mk_iff]; refine ⟨?_, ?_, ?_⟩))

theorem canon_raiseAll (s : State)  (hs : Canon s) : Canon (raiseAll s) := by
  unfold raiseAll
  repeat' (first
    | with_reducible assumption | (fail_if_no_progress extract_lets +onlyGivenNames s_) | with_reducible apply canon_raiseArb | split
    | dsimp +zetaDelta only)

theorem canon_mainStart (s : State)  (hs : Canon s) : Canon (mainStart s) := by
  unfold mainStart
  repeat' (first
    | with_reducible assumption
    | ((fail_if_no_progress extract_lets +onlyGivenNames s_); first | (refine canon_cut (s := s_) ?_ (fun hc_ => ?_); (on_goal 2 => (try clear_value s_)); unfold s_) | skip)
    | with_reducible apply canon_twinConfigured | with_reducible apply canon_configure | with_reducible apply canon_setFld
    | with_reducible apply canon_raiseAll | with_reducible apply canon_mailInit | with_reducible apply canon_setStatus
    | with_reducible apply canon_setBit | with_reducible apply canon_mem | with_reducible apply canon_hostMem | with_reducible apply canon_regs
    | split | (simp only [canon_mk_iff]; refine ⟨?_, ?_, ?_⟩))

theorem canon_execMainFwStart (s : State) (hs : Canon s) : OutCanon (execMainFwStart s) := by
  unfold execMainFwStart
  repeat' (first
    | with_reducible assumption | with_reducible apply canon_live | with_reducible apply canon_mainStart)

end Sys2Proof.Machine
end

