-- ==== Sys2Proof/Laws/Canon/Reset.lean ====
section
/-!
SUPPORT. The operations and meanings of Machine/Reset.lean keep the canonical form of the memories and of the register file.
-/
set_option linter.all false
namespace Sys2Proof.Machine

theorem canon_fullReset (bootSrc twinRole : BitVec 2) (smbAddr : BitVec 3) (s : State)  (hs : Canon s) : Canon (fullReset bootSrc twinRole smbAddr s) := by
  unfold fullReset
  repeat' (first
    | with_reducible assumption
    | ((fail_if_no_progress extract_lets +onlyGivenNames s_); first | (refine canon_cut (s := s_) ?_ (fun hc_ => ?_); (on_goal 2 => (try clear_value s_)); unfold s_) | skip)
    | unfold flashRegs | with_reducible apply canon_mem | with_reducible apply canon_hostMem | with_reducible apply canon_regs
    | with_reducible apply wf_filter | with_reducible apply rwf_rset | with_reducible apply rwf_filter | with_reducible apply wf_nil
    | with_reducible apply rwf_nil | with_reducible apply canon_foldl | dsimp only | (intro s_ hc_; beta_reduce) | intro _ | split
    | (simp only [canon_mk_iff]; refine ⟨?_, ?_, ?_⟩))

theorem canon_holdReset (s : State)  (hs : Canon s) : Canon (holdReset s) := by
  unfold holdReset
  repeat' (first
    | with_reducible assumption
    | ((fail_if_no_progress extract_lets +onlyGivenNames s_); first | (refine canon_cut (s := s_) ?_ (fun hc_ => ?_); (on_goal 2 => (try clear_value s_)); unfold s_) | skip)
    | with_reducible apply canon_hpwrOff | with_reducible apply canon_journalTear | with_reducible apply canon_mem
    | with_reducible apply canon_hostMem | with_reducible apply canon_regs | with_reducible apply canon_foldl | dsimp only
    | (intro s_ hc_; beta_reduce) | intro _ | split | (simp only [canon_mk_iff]; refine ⟨?_, ?_, ?_⟩))

theorem canon_release (bootSrc twinRole : BitVec 2) (smbAddr : BitVec 3) (s : State)  (hs : Canon s) : Canon (release bootSrc twinRole smbAddr s) := by
  unfold release
  repeat' (first
    | with_reducible assumption | (fail_if_no_progress extract_lets +onlyGivenNames s_) | with_reducible apply canon_fullReset
    | with_reducible apply canon_mem | with_reducible apply canon_hostMem | with_reducible apply canon_regs | split
    | (simp only [canon_mk_iff]; refine ⟨?_, ?_, ?_⟩))

theorem canon_porAssert (lowNs : Nat) (s : State)  (hs : Canon s) : Canon (porAssert lowNs s) := by
  unfold porAssert
  repeat' (first
    | with_reducible assumption | (fail_if_no_progress extract_lets +onlyGivenNames s_) | with_reducible apply canon_holdReset
    | with_reducible apply canon_mem | with_reducible apply canon_hostMem | with_reducible apply canon_regs | split
    | (simp only [canon_mk_iff]; refine ⟨?_, ?_, ?_⟩))

theorem canon_porRelease (bootSrc twinRole : BitVec 2) (smbAddr : BitVec 3) (s : State)  (hs : Canon s) : Canon (porRelease bootSrc twinRole smbAddr s) := by
  unfold porRelease
  repeat' (first
    | with_reducible assumption | (fail_if_no_progress extract_lets +onlyGivenNames s_) | with_reducible apply canon_release
    | with_reducible apply canon_mem | with_reducible apply canon_hostMem | with_reducible apply canon_regs | split
    | (simp only [canon_mk_iff]; refine ⟨?_, ?_, ?_⟩))

theorem canon_aonBrownout (lowNs : Nat) (s : State)  (hs : Canon s) : Canon (aonBrownout lowNs s) := by
  unfold aonBrownout
  repeat' (first
    | with_reducible assumption | (fail_if_no_progress extract_lets +onlyGivenNames s_) | with_reducible apply canon_holdReset
    | with_reducible apply canon_mem | with_reducible apply canon_hostMem | with_reducible apply canon_regs | split
    | (simp only [canon_mk_iff]; refine ⟨?_, ?_, ?_⟩))

theorem canon_aonReturn (s : State)  (hs : Canon s) : Canon (aonReturn s) := by
  unfold aonReturn
  repeat' (first
    | with_reducible assumption | (fail_if_no_progress extract_lets +onlyGivenNames s_) | with_reducible apply canon_release
    | with_reducible apply canon_mem | with_reducible apply canon_hostMem | with_reducible apply canon_regs | split
    | (simp only [canon_mk_iff]; refine ⟨?_, ?_, ?_⟩))

theorem canon_refclkLoss (quietNs : Nat) (s : State)  (hs : Canon s) : Canon (refclkLoss quietNs s) := by
  unfold refclkLoss
  repeat' (first
    | with_reducible assumption | (fail_if_no_progress extract_lets +onlyGivenNames s_) | with_reducible apply canon_holdReset
    | with_reducible apply canon_mem | with_reducible apply canon_hostMem | with_reducible apply canon_regs | split
    | (simp only [canon_mk_iff]; refine ⟨?_, ?_, ?_⟩))

theorem canon_refclkReturn (s : State)  (hs : Canon s) : Canon (refclkReturn s) := by
  unfold refclkReturn
  repeat' (first
    | with_reducible assumption | (fail_if_no_progress extract_lets +onlyGivenNames s_) | with_reducible apply canon_release
    | with_reducible apply canon_mem | with_reducible apply canon_hostMem | with_reducible apply canon_regs | split
    | (simp only [canon_mk_iff]; refine ⟨?_, ?_, ?_⟩))

theorem canon_forgetWrites (fn : Fn) (s : State)  (hs : Canon s) : Canon (forgetWrites fn s) := by
  unfold forgetWrites
  repeat' (first
    | with_reducible assumption | (fail_if_no_progress extract_lets +onlyGivenNames s_) | with_reducible apply canon_mem
    | with_reducible apply canon_hostMem | with_reducible apply canon_regs | (simp only [canon_mk_iff]; refine ⟨?_, ?_, ?_⟩))

theorem canon_flrQueue (s : State) (q : Nat)  (hs : Canon s) : Canon (flrQueue s q) := by
  unfold flrQueue
  repeat' (first
    | with_reducible assumption | (fail_if_no_progress extract_lets +onlyGivenNames s_) | with_reducible apply canon_promote
    | with_reducible apply canon_cancelDrained | with_reducible apply canon_cancelQueue | split)

theorem canon_flrRings (p : Nat) (s : State)  (hs : Canon s) : Canon (flrRings p s) := by
  unfold flrRings
  repeat' (first
    | with_reducible assumption
    | ((fail_if_no_progress extract_lets +onlyGivenNames s_); first | (refine canon_cut (s := s_) ?_ (fun hc_ => ?_); (on_goal 2 => (try clear_value s_)); unfold s_) | skip)
    | with_reducible apply canon_shapeRingWrite | with_reducible apply canon_trackRingWrite | with_reducible apply canon_ingestRingWrite
    | with_reducible apply canon_foldl | (intro s_ hc_; beta_reduce))

theorem canon_flrStream (s : State) (h : Nat)  (hs : Canon s) : Canon (flrStream s h) := by
  unfold flrStream
  repeat' (first
    | with_reducible assumption | with_reducible apply canon_closeStep | with_reducible apply canon_closeStream)

theorem canon_flrBound (s : State) (h : Nat)  (hs : Canon s) : Canon (flrBound s h) := by
  unfold flrBound
  repeat' (first
    | with_reducible assumption
    | ((fail_if_no_progress extract_lets +onlyGivenNames s_); first | (refine canon_cut (s := s_) ?_ (fun hc_ => ?_); (on_goal 2 => (try clear_value s_)); unfold s_) | skip)
    | with_reducible apply canon_trackCmdStep | with_reducible apply canon_modBound | with_reducible apply canon_mem
    | with_reducible apply canon_hostMem | with_reducible apply canon_regs | with_reducible apply canon_foldl | dsimp only
    | (intro s_ hc_; beta_reduce) | intro _ | split | (simp only [canon_mk_iff]; refine ⟨?_, ?_, ?_⟩))

theorem canon_flrPart (p : Nat) (s : State)  (hs : Canon s) : Canon (flrPart p s) := by
  unfold flrPart
  repeat' (first
    | with_reducible assumption
    | ((fail_if_no_progress extract_lets +onlyGivenNames s_); first | (refine canon_cut (s := s_) ?_ (fun hc_ => ?_); (on_goal 2 => (try clear_value s_)); unfold s_) | skip)
    | with_reducible apply canon_flrQueue | with_reducible apply canon_flrRings | with_reducible apply canon_flrStream
    | with_reducible apply canon_flrBound | with_reducible apply canon_setMark | with_reducible apply canon_foldl | (intro s_ hc_; beta_reduce))

theorem canon_flrFunction (f : Nat) (s : State)  (hs : Canon s) : Canon (flrFunction f s) := by
  unfold flrFunction
  repeat' (first
    | with_reducible assumption
    | ((fail_if_no_progress extract_lets +onlyGivenNames s_); first | (refine canon_cut (s := s_) ?_ (fun hc_ => ?_); (on_goal 2 => (try clear_value s_)); unfold s_) | skip)
    | with_reducible apply canon_setReg | with_reducible apply canon_mem | with_reducible apply canon_hostMem | with_reducible apply canon_regs
    | (simp only [canon_mk_iff]; refine ⟨?_, ?_, ?_⟩))

theorem canon_flrHold (f : Nat) (ps : List Nat) (s : State)  (hs : Canon s) : Canon (flrHold f ps s) := by
  unfold flrHold
  repeat' (first
    | with_reducible assumption
    | ((fail_if_no_progress extract_lets +onlyGivenNames s_); first | (refine canon_cut (s := s_) ?_ (fun hc_ => ?_); (on_goal 2 => (try clear_value s_)); unfold s_) | (refine canon_cut (s := s_.s) ?_ (fun hc_ => ?_); (on_goal 2 => (try clear_value s_)); unfold s_) | (refine canon_cut (s := s_.1) ?_ (fun hc_ => ?_); (on_goal 2 => (try clear_value s_)); unfold s_) | (refine canon_cut (s := s_.2) ?_ (fun hc_ => ?_); (on_goal 2 => (try clear_value s_)); unfold s_) | (refine canon_cut (s := s_.2.s) ?_ (fun hc_ => ?_); (on_goal 2 => (try clear_value s_)); unfold s_) | (refine canon_cut (s := s_.2.2) ?_ (fun hc_ => ?_); (on_goal 2 => (try clear_value s_)); unfold s_) | (refine canon_cut (s := s_.2.2.s) ?_ (fun hc_ => ?_); (on_goal 2 => (try clear_value s_)); unfold s_) | (refine canon_cut (s := s_.1.s) ?_ (fun hc_ => ?_); (on_goal 2 => (try clear_value s_)); unfold s_) | (refine canon_cut (s := s_.1.a.s) ?_ (fun hc_ => ?_); (on_goal 2 => (try clear_value s_)); unfold s_) | (refine canon_cut (s := s_.a.s) ?_ (fun hc_ => ?_); (on_goal 2 => (try clear_value s_)); unfold s_) | (refine canon_cut (s := s_.2.a.s) ?_ (fun hc_ => ?_); (on_goal 2 => (try clear_value s_)); unfold s_) | skip)
    | with_reducible apply canon_flrSettle
    | with_reducible apply canon_mem
    | with_reducible apply canon_hostMem
    | with_reducible apply canon_regs
    | with_reducible apply wf_mwrite
    | with_reducible apply wf_mset
    | with_reducible apply wf_mfill
    | with_reducible apply wf_filter
    | with_reducible apply rwf_rset
    | with_reducible apply rwf_filter
    | with_reducible apply wf_nil
    | with_reducible apply rwf_nil
    | with_reducible apply canon_foldl
    | with_reducible apply canon_foldl_s
    | with_reducible apply canon_foldl_1
    | with_reducible apply canon_foldl_2
    | with_reducible apply canon_foldl_2s
    | with_reducible apply canon_foldl_22
    | with_reducible apply canon_foldl_22s
    | with_reducible apply canon_foldl_A
    | with_reducible apply canon_foldl_as
    | with_reducible apply canon_foldl_das
    | with_reducible apply canon_foldl_2das
    | with_reducible apply canon_foldl_1as
    | dsimp only
    | (intro s_ hc_; beta_reduce)
    | intro _
    | split
    | (simp only [canon_mk_iff]; refine ⟨?_, ?_, ?_⟩)
    | ((fail_if_no_progress clear_value *); split)
    | dsimp +zetaDelta only)

theorem canon_vfFlr (n : Fin 16) (s : State)  (hs : Canon s) : Canon (vfFlr n s) := by
  unfold vfFlr
  repeat' (first
    | with_reducible assumption
    | ((fail_if_no_progress extract_lets +onlyGivenNames s_); first | (refine canon_cut (s := s_) ?_ (fun hc_ => ?_); (on_goal 2 => (try clear_value s_)); unfold s_) | skip)
    | with_reducible apply canon_forgetWrites | with_reducible apply canon_flrHold | with_reducible apply canon_flrFunction
    | with_reducible apply canon_flrPart | with_reducible apply canon_mem | with_reducible apply canon_hostMem | with_reducible apply canon_regs
    | with_reducible apply canon_foldl | dsimp only | (intro s_ hc_; beta_reduce) | intro _ | split | (simp only [canon_mk_iff]; refine ⟨?_, ?_, ?_⟩))

theorem canon_restartMail (s : State)  (hs : Canon s) : Canon (restartMail s) := by
  unfold restartMail
  repeat' (first
    | with_reducible assumption
    | ((fail_if_no_progress extract_lets +onlyGivenNames s_); first | (refine canon_cut (s := s_) ?_ (fun hc_ => ?_); (on_goal 2 => (try clear_value s_)); unfold s_) | skip)
    | with_reducible apply canon_mailInit | with_reducible apply canon_devWrite | with_reducible apply canon_mem | with_reducible apply canon_hostMem
    | with_reducible apply canon_regs | split | (simp only [canon_mk_iff]; refine ⟨?_, ?_, ?_⟩))

theorem canon_flrMapped (s : State) (p : Nat)  (hs : Canon s) : Canon (flrMapped s p) := by
  unfold flrMapped
  repeat' (first
    | with_reducible assumption
    | ((fail_if_no_progress extract_lets +onlyGivenNames s_); first | (refine canon_cut (s := s_) ?_ (fun hc_ => ?_); (on_goal 2 => (try clear_value s_)); unfold s_) | (refine canon_cut (s := s_.s) ?_ (fun hc_ => ?_); (on_goal 2 => (try clear_value s_)); unfold s_) | (refine canon_cut (s := s_.1) ?_ (fun hc_ => ?_); (on_goal 2 => (try clear_value s_)); unfold s_) | (refine canon_cut (s := s_.2) ?_ (fun hc_ => ?_); (on_goal 2 => (try clear_value s_)); unfold s_) | (refine canon_cut (s := s_.2.s) ?_ (fun hc_ => ?_); (on_goal 2 => (try clear_value s_)); unfold s_) | (refine canon_cut (s := s_.2.2) ?_ (fun hc_ => ?_); (on_goal 2 => (try clear_value s_)); unfold s_) | (refine canon_cut (s := s_.2.2.s) ?_ (fun hc_ => ?_); (on_goal 2 => (try clear_value s_)); unfold s_) | (refine canon_cut (s := s_.1.s) ?_ (fun hc_ => ?_); (on_goal 2 => (try clear_value s_)); unfold s_) | (refine canon_cut (s := s_.1.a.s) ?_ (fun hc_ => ?_); (on_goal 2 => (try clear_value s_)); unfold s_) | (refine canon_cut (s := s_.a.s) ?_ (fun hc_ => ?_); (on_goal 2 => (try clear_value s_)); unfold s_) | (refine canon_cut (s := s_.2.a.s) ?_ (fun hc_ => ?_); (on_goal 2 => (try clear_value s_)); unfold s_) | skip)
    | with_reducible apply canon_flrHold
    | with_reducible apply canon_flrFunction
    | with_reducible apply canon_flrPart
    | with_reducible apply canon_forgetWrites
    | with_reducible apply canon_mem
    | with_reducible apply canon_hostMem
    | with_reducible apply canon_regs
    | with_reducible apply wf_mwrite
    | with_reducible apply wf_mset
    | with_reducible apply wf_mfill
    | with_reducible apply wf_filter
    | with_reducible apply rwf_rset
    | with_reducible apply rwf_filter
    | with_reducible apply wf_nil
    | with_reducible apply rwf_nil
    | with_reducible apply canon_foldl
    | with_reducible apply canon_foldl_s
    | with_reducible apply canon_foldl_1
    | with_reducible apply canon_foldl_2
    | with_reducible apply canon_foldl_2s
    | with_reducible apply canon_foldl_22
    | with_reducible apply canon_foldl_22s
    | with_reducible apply canon_foldl_A
    | with_reducible apply canon_foldl_as
    | with_reducible apply canon_foldl_das
    | with_reducible apply canon_foldl_2das
    | with_reducible apply canon_foldl_1as
    | dsimp only
    | (intro s_ hc_; beta_reduce)
    | intro _
    | split
    | (simp only [canon_mk_iff]; refine ⟨?_, ?_, ?_⟩)
    | ((fail_if_no_progress clear_value *); split)
    | dsimp +zetaDelta only)

theorem canon_pfFlr (s : State)  (hs : Canon s) : Canon (pfFlr s) := by
  unfold pfFlr
  repeat' (first
    | with_reducible assumption
    | ((fail_if_no_progress extract_lets +onlyGivenNames s_); first | (refine canon_cut (s := s_) ?_ (fun hc_ => ?_); (on_goal 2 => (try clear_value s_)); unfold s_) | skip)
    | with_reducible apply canon_flrMapped | with_reducible apply canon_forgetWrites | with_reducible apply canon_setBit
    | with_reducible apply canon_setReg | with_reducible apply canon_flrHold | with_reducible apply canon_restartMail
    | with_reducible apply canon_flrFunction | with_reducible apply canon_mem | with_reducible apply canon_hostMem | with_reducible apply canon_regs
    | with_reducible apply canon_foldl | dsimp only | (intro s_ hc_; beta_reduce) | intro _ | split | (simp only [canon_mk_iff]; refine ⟨?_, ?_, ?_⟩))

theorem canon_perstFull (s : State)  (hs : Canon s) : Canon (perstFull s) := by
  unfold perstFull
  repeat' (first
    | with_reducible assumption
    | ((fail_if_no_progress extract_lets +onlyGivenNames s_); first | (refine canon_cut (s := s_) ?_ (fun hc_ => ?_); (on_goal 2 => (try clear_value s_)); unfold s_) | skip)
    | unfold flashRegs | with_reducible apply canon_journalTear | with_reducible apply canon_count | with_reducible apply canon_setFld
    | with_reducible apply canon_setReg | with_reducible apply canon_setBit | with_reducible apply canon_mem | with_reducible apply canon_hostMem
    | with_reducible apply canon_regs | with_reducible apply wf_filter | with_reducible apply rwf_rset | with_reducible apply rwf_filter
    | with_reducible apply wf_nil | with_reducible apply rwf_nil | with_reducible apply canon_foldl | dsimp only | (intro s_ hc_; beta_reduce)
    | intro _ | split | (simp only [canon_mk_iff]; refine ⟨?_, ?_, ?_⟩))

theorem canon_perstEndpoint (s : State)  (hs : Canon s) : Canon (perstEndpoint s) := by
  unfold perstEndpoint
  repeat' (first
    | with_reducible assumption
    | ((fail_if_no_progress extract_lets +onlyGivenNames s_); first | (refine canon_cut (s := s_) ?_ (fun hc_ => ?_); (on_goal 2 => (try clear_value s_)); unfold s_) | skip)
    | with_reducible apply canon_report | with_reducible apply canon_pfFlr | with_reducible apply canon_setReg | with_reducible apply canon_mem
    | with_reducible apply canon_hostMem | with_reducible apply canon_regs | split | (simp only [canon_mk_iff]; refine ⟨?_, ?_, ?_⟩))

theorem canon_perstAssert (lowNs : Nat) (s : State)  (hs : Canon s) : Canon (perstAssert lowNs s) := by
  unfold perstAssert
  repeat' (first
    | with_reducible assumption | (fail_if_no_progress extract_lets +onlyGivenNames s_) | with_reducible apply canon_perstEndpoint
    | with_reducible apply canon_perstFull | with_reducible apply canon_mem | with_reducible apply canon_hostMem | with_reducible apply canon_regs
    | split | (simp only [canon_mk_iff]; refine ⟨?_, ?_, ?_⟩))

theorem canon_perstRelease (s : State)  (hs : Canon s) : Canon (perstRelease s) := by
  unfold perstRelease
  repeat' (first
    | with_reducible assumption | (fail_if_no_progress extract_lets +onlyGivenNames s_) | with_reducible apply canon_mem
    | with_reducible apply canon_hostMem | with_reducible apply canon_regs | (simp only [canon_mk_iff]; refine ⟨?_, ?_, ?_⟩))

theorem canon_execPorAssert (lowNs : Nat) (s : State) (hs : Canon s) : OutCanon (execPorAssert lowNs s) := by
  unfold execPorAssert
  repeat' (first
    | with_reducible assumption | with_reducible apply canon_always | with_reducible apply canon_porAssert)

theorem canon_execPorRelease (bootSrc twinRole : BitVec 2) (smbAddr : BitVec 3) (s : State) (hs : Canon s) : OutCanon (execPorRelease bootSrc twinRole smbAddr s) := by
  unfold execPorRelease
  repeat' (first
    | with_reducible assumption | with_reducible apply canon_always | with_reducible apply canon_porRelease)

theorem canon_execPerstAssert (lowNs : Nat) (s : State) (hs : Canon s) : OutCanon (execPerstAssert lowNs s) := by
  unfold execPerstAssert
  repeat' (first
    | with_reducible assumption | with_reducible apply canon_always | with_reducible apply canon_perstAssert)

theorem canon_execPerstRelease (s : State) (hs : Canon s) : OutCanon (execPerstRelease s) := by
  unfold execPerstRelease
  repeat' (first
    | with_reducible assumption | with_reducible apply canon_always | with_reducible apply canon_perstRelease)

theorem canon_execAonBrownout (lowNs : Nat) (s : State) (hs : Canon s) : OutCanon (execAonBrownout lowNs s) := by
  unfold execAonBrownout
  repeat' (first
    | with_reducible assumption | with_reducible apply canon_always | with_reducible apply canon_aonBrownout)

theorem canon_execVddAonReturn (_bootSrc _twinRole : BitVec 2) (_smbAddr : BitVec 3) (s : State) (hs : Canon s) : OutCanon (execVddAonReturn _bootSrc _twinRole _smbAddr s) := by
  unfold execVddAonReturn
  repeat' (first
    | with_reducible assumption | with_reducible apply canon_always | with_reducible apply canon_aonReturn)

theorem canon_execRefclkLoss (quietNs : Nat) (s : State) (hs : Canon s) : OutCanon (execRefclkLoss quietNs s) := by
  unfold execRefclkLoss
  repeat' (first
    | with_reducible assumption | with_reducible apply canon_always | with_reducible apply canon_refclkLoss)

theorem canon_execRefclkReturn (_bootSrc _twinRole : BitVec 2) (_smbAddr : BitVec 3) (s : State) (hs : Canon s) : OutCanon (execRefclkReturn _bootSrc _twinRole _smbAddr s) := by
  unfold execRefclkReturn
  repeat' (first
    | with_reducible assumption | with_reducible apply canon_always | with_reducible apply canon_refclkReturn)

theorem canon_execHotReset (s : State) (hs : Canon s) : OutCanon (execHotReset s) := by
  unfold execHotReset
  repeat' (first
    | with_reducible assumption | with_reducible apply canon_live | with_reducible apply canon_pfFlr)

theorem canon_execVfFlr (vf : Fin 16) (s : State) (hs : Canon s) : OutCanon (execVfFlr vf s) := by
  unfold execVfFlr
  repeat' (first
    | with_reducible assumption | with_reducible apply canon_live | with_reducible apply canon_vfFlr)

theorem canon_execPfFlr (s : State) (hs : Canon s) : OutCanon (execPfFlr s) := by
  unfold execPfFlr
  repeat' (first
    | with_reducible assumption | with_reducible apply canon_live | with_reducible apply canon_pfFlr)

end Sys2Proof.Machine
end

