-- ==== Sys2Proof/Laws/Canon/Bus.lean ====
section
/-!
SUPPORT. The operations and meanings of Machine/Bus.lean keep the canonical form of the memories and of the register file.
-/
set_option linter.all false
namespace Sys2Proof.Machine

theorem canon_ingestRaw (fn : Fn) (r : Nat) (v : W64) (s : State)  (hs : Canon s) : Canon (ingestRaw fn r v s) := by
  unfold ingestRaw
  repeat' (first
    | with_reducible assumption | (fail_if_no_progress extract_lets +onlyGivenNames s_) | with_reducible apply canon_ingestRingWrite
    | with_reducible apply canon_ingestDb | split)

theorem canon_plainPut (fn : Fn) (row : RegRow) (r : Nat) (v : W64) (s : State)  (hs : Canon s) : Canon (plainPut fn row r v s) := by
  unfold plainPut
  repeat' (first
    | with_reducible assumption | (fail_if_no_progress extract_lets +onlyGivenNames s_) | with_reducible apply canon_setReg)

theorem canon_qtabWrite (fn : Fn) (row : RegRow) (v : W64) (s : State)  (hs : Canon s) : Canon (qtabWrite fn row v s) := by
  unfold qtabWrite
  repeat' (first
    | with_reducible assumption | with_reducible apply canon_plainPut | split)

theorem canon_rawWrite (fn : Fn) (r : Nat) (v : W64) (s : State)  (hs : Canon s) : Canon (rawWrite fn r v s) := by
  unfold rawWrite
  repeat' (first
    | with_reducible assumption
    | ((fail_if_no_progress extract_lets +onlyGivenNames s_); first | (refine canon_cut (s := s_) ?_ (fun hc_ => ?_); (on_goal 2 => (try clear_value s_)); unfold s_) | (refine canon_cut (s := s_.s) ?_ (fun hc_ => ?_); (on_goal 2 => (try clear_value s_)); unfold s_) | (refine canon_cut (s := s_.1) ?_ (fun hc_ => ?_); (on_goal 2 => (try clear_value s_)); unfold s_) | (refine canon_cut (s := s_.2) ?_ (fun hc_ => ?_); (on_goal 2 => (try clear_value s_)); unfold s_) | (refine canon_cut (s := s_.2.s) ?_ (fun hc_ => ?_); (on_goal 2 => (try clear_value s_)); unfold s_) | (refine canon_cut (s := s_.2.2) ?_ (fun hc_ => ?_); (on_goal 2 => (try clear_value s_)); unfold s_) | (refine canon_cut (s := s_.2.2.s) ?_ (fun hc_ => ?_); (on_goal 2 => (try clear_value s_)); unfold s_) | (refine canon_cut (s := s_.1.s) ?_ (fun hc_ => ?_); (on_goal 2 => (try clear_value s_)); unfold s_) | (refine canon_cut (s := s_.1.a.s) ?_ (fun hc_ => ?_); (on_goal 2 => (try clear_value s_)); unfold s_) | (refine canon_cut (s := s_.a.s) ?_ (fun hc_ => ?_); (on_goal 2 => (try clear_value s_)); unfold s_) | (refine canon_cut (s := s_.2.a.s) ?_ (fun hc_ => ?_); (on_goal 2 => (try clear_value s_)); unfold s_) | skip)
    | with_reducible apply canon_ingestRaw
    | with_reducible apply canon_qtabWrite
    | with_reducible apply canon_plainPut
    | with_reducible apply canon_mem
    | with_reducible apply canon_hostMem
    | with_reducible apply canon_regs
    | with_reducible apply wf_mwrite
    | with_reducible apply wf_mset
    | with_reducible apply wf_mfill
    | with_reducible apply wf_filter
    | with_reducible apply rwf_rset
    | with_reducible apply rwf_filter
    | with_reducible apply wf_nil
    | with_reducible apply rwf_nil
    | with_reducible apply canon_foldl
    | with_reducible apply canon_foldl_s
    | with_reducible apply canon_foldl_1
    | with_reducible apply canon_foldl_2
    | with_reducible apply canon_foldl_2s
    | with_reducible apply canon_foldl_22
    | with_reducible apply canon_foldl_22s
    | with_reducible apply canon_foldl_A
    | with_reducible apply canon_foldl_as
    | with_reducible apply canon_foldl_das
    | with_reducible apply canon_foldl_2das
    | with_reducible apply canon_foldl_1as
    | dsimp only
    | (intro s_ hc_; beta_reduce)
    | intro _
    | split
    | (simp only [canon_mk_iff]; refine ⟨?_, ?_, ?_⟩)
    | ((fail_if_no_progress clear_value *); split)
    | dsimp +zetaDelta only)

theorem canon_outState (s : State) (o : Out) (hs : Canon s) (ho : OutCanon o) : Canon (outState s o) := by
  unfold outState
  split
  · exact ho _ rfl
  · exact hs

theorem canon_actOut (s : State) (i : Instr) (hs : Canon s) : OutCanon (actOut s i) := by
  unfold actOut
  split
  all_goals (first
    | with_reducible exact canon_live _ _ hs fun x hx => canon_orRecord _ _ _ (fun y hy => canon_rawWrite _ _ _ _ hy) hx
    | (with_reducible apply canon_execFsyncWordA; assumption)
    | (with_reducible apply canon_execFsyncWordB; assumption)
    | (with_reducible apply canon_execMediaDoorbell; assumption)
    | (with_reducible apply canon_execEncodeSubmit; assumption)
    | (with_reducible apply canon_execMediaOpen; assumption)
    | (with_reducible apply canon_execMediaOpenEnc; assumption)
    | (with_reducible apply canon_execMediaClose; assumption)
    | (with_reducible apply canon_execMediaFlush; assumption)
    | (with_reducible apply canon_execMediaSkipToRap; assumption)
    | (with_reducible apply canon_execMediaForceIdr; assumption)
    | (with_reducible apply canon_execReleaseOut; assumption)
    | (with_reducible apply canon_execReleaseHold; assumption)
    | (with_reducible apply canon_ingestEnable; assumption)
    | (with_reducible apply canon_execIngestEnable; assumption)
    | (with_reducible apply canon_ingestDisable; assumption)
    | (with_reducible apply canon_execIngestDisable; assumption)
    | (with_reducible apply canon_execIngestDoorbell; assumption)
    | (with_reducible apply canon_execIngestEos; assumption)
    | (with_reducible apply canon_execSlotDone; assumption)
    | (with_reducible apply canon_execRowDone; assumption)
    | (with_reducible apply canon_reconReq; assumption)
    | (with_reducible apply canon_execReconReq; assumption)
    | (with_reducible apply canon_execInvPartition; assumption)
    | (with_reducible apply canon_invRange; assumption)
    | (with_reducible apply canon_execInvRange; assumption)
    | (with_reducible apply canon_execInvSlot; assumption)
    | (with_reducible apply canon_queueDoorbell; assumption)
    | (with_reducible apply canon_execQueueDoorbell; assumption)
    | (with_reducible apply canon_execEnable; assumption)
    | (with_reducible apply canon_execDisable; assumption)
    | (with_reducible apply canon_execCancel; assumption)
    | (with_reducible apply canon_execResume; assumption)
    | (with_reducible apply canon_execResumeSkip; assumption)
    | (with_reducible apply canon_execSemopAdd; assumption)
    | (with_reducible apply canon_execSemopSet; assumption)
    | (with_reducible apply canon_shapeRingWrite; assumption)
    | (with_reducible apply canon_execShapeRingWrite; assumption)
    | (with_reducible apply canon_shapeDoorbell; assumption)
    | (with_reducible apply canon_execShapeDoorbell; assumption)
    | (with_reducible apply canon_execBind; assumption)
    | (with_reducible apply canon_execUnbind; assumption)
    | (with_reducible apply canon_execClear; assumption)
    | (with_reducible apply canon_trackRingWrite; assumption)
    | (with_reducible apply canon_execTrackRingWrite; assumption)
    | (with_reducible apply canon_trackDoorbell; assumption)
    | (with_reducible apply canon_execTrackDoorbell; assumption)
    | (with_reducible apply canon_trackMdb; assumption)
    | (with_reducible apply canon_execTrackMdb; assumption)
    | (with_reducible apply canon_live; assumption)
    | (with_reducible apply canon_orRecord; assumption)
    | (with_reducible apply canon_rawWrite; assumption)
    | exact outCanon_next hs)

theorem canon_act (i : Instr) (s : State) (hs : Canon s) : Canon (act i s) :=
  canon_setReg (canon_outState _ _ hs (canon_actOut s i hs))

theorem canon_replay (s : State) (i : Instr)  (hs : Canon s) : Canon (replay s i) := by
  unfold replay
  repeat' (first
    | with_reducible assumption
    | ((fail_if_no_progress extract_lets +onlyGivenNames s_); first | (refine canon_cut (s := s_) ?_ (fun hc_ => ?_); (on_goal 2 => (try clear_value s_)); unfold s_) | skip)
    | with_reducible apply canon_act | with_reducible apply canon_mem | with_reducible apply canon_hostMem | with_reducible apply canon_regs
    | (simp only [canon_mk_iff]; refine ⟨?_, ?_, ?_⟩))

theorem canon_rcClear (fn : Fn) (row : RegRow) (r : Nat) (m : W64) (s : State)  (hs : Canon s) : Canon (rcClear fn row r m s) := by
  unfold rcClear
  repeat' (first
    | with_reducible assumption | (fail_if_no_progress extract_lets +onlyGivenNames s_) | with_reducible apply canon_setReg | split)

theorem canon_windowRead (s : State) (fn : Fn) (x0 : BarWindow) (hs : Canon s) : Canon (windowRead s fn x0).1 := by
  unfold windowRead
  repeat' (first
    | with_reducible assumption | with_reducible apply canon_viol | split)

theorem canon_windowRead_eq {s : State} {fn : Fn} {x0 : BarWindow} {v0_} {v1_} (he_ : windowRead s fn x0 = (v0_, v1_)) (hs : Canon s) :
    Canon v0_ := by
  have := canon_windowRead s fn x0 hs
  rw [he_] at this
  exact this

theorem canon_missed (s : State) (fn : Fn) (o : Nat)  (hs : Canon s) : Canon (missed s fn o) := by
  unfold missed
  repeat' (first
    | with_reducible assumption | with_reducible apply canon_viol)

theorem canon_read64 (fn : Fn) (row : RegRow) (r : Nat) (m : W64) (s : State)  (hs : Canon s) : Canon (read64 fn row r m s).1 := by
  unfold read64
  repeat' (first
    | with_reducible assumption | with_reducible apply canon_denied | with_reducible apply canon_rcClear | split)

theorem canon_read64_eq {fn : Fn} {row : RegRow} {r : Nat} {m : W64} {s : State}  {v0_} {v1_} (he_ : read64 fn row r m s = (v0_, v1_)) (hs : Canon s) :
    Canon v0_ := by
  have := canon_read64 fn row r m s  hs
  rw [he_] at this
  exact this

theorem canon_read4 (fn : Fn) (o : Nat) (s : State)  (hs : Canon s) : Canon (read4 fn o s).1 := by
  unfold read4
  repeat' (first
    | with_reducible assumption
    | ((fail_if_no_progress extract_lets +onlyGivenNames s_); first | (refine canon_cut (s := s_) ?_ (fun hc_ => ?_); (on_goal 2 => (try clear_value s_)); unfold s_) | skip)
    | with_reducible apply canon_windowRead | with_reducible apply canon_read64 | with_reducible apply canon_missed | with_reducible apply canon_mem
    | with_reducible apply canon_hostMem | with_reducible apply canon_regs | dsimp only | split | (simp only [canon_mk_iff]; refine ⟨?_, ?_, ?_⟩)
    | ((fail_if_no_progress clear_value *); split))

theorem canon_read4_eq {fn : Fn} {o : Nat} {s : State}  {v0_} {v1_} (he_ : read4 fn o s = (v0_, v1_)) (hs : Canon s) :
    Canon v0_ := by
  have := canon_read4 fn o s  hs
  rw [he_] at this
  exact this

theorem canon_read8 (fn : Fn) (o : Nat) (s : State)  (hs : Canon s) : Canon (read8 fn o s).1 := by
  unfold read8
  extract_lets s0 s1
  have h1 : Canon s1 := canon_mk (canon_mem hs) (canon_hostMem hs) (canon_regs hs)
  clear_value s1
  split
  · split
    next h2 =>
    exact canon_windowRead_eq h2 h1
  · split
    next h2 =>
    split
    next h3 =>
    exact canon_read4_eq h3 (canon_read4_eq h2 h1)
  · split
    · split
      next h2 =>
      split
      · split
        next h3 =>
        exact canon_read4_eq h3 (canon_read4_eq h2 h1)
      · exact canon_read4_eq h2 h1
    · split
      · split
        next h2 =>
        exact canon_read64_eq h2 h1
      · exact canon_missed _ _ _ h1

theorem canon_read8_eq {fn : Fn} {o : Nat} {s : State}  {v0_} {v1_} (he_ : read8 fn o s = (v0_, v1_)) (hs : Canon s) :
    Canon v0_ := by
  have := canon_read8 fn o s  hs
  rw [he_] at this
  exact this

theorem canon_readRun (fn : Fn) (x0 : Nat) (x1 : Nat) (x2 : State) (hx2 : Canon x2) : Canon (readRun fn x0 x1 x2).1 := by
  induction x0 generalizing x1 x2 with
  | zero =>
    unfold readRun
    repeat' (first
        | with_reducible assumption | with_reducible apply canon_read8)
  | succ n ih =>
    unfold readRun
    repeat' (first
        | with_reducible assumption | with_reducible apply ih | with_reducible apply canon_read8)

theorem canon_readRun_eq {fn : Fn} {x0 : Nat} {x1 : Nat} {x2 : State} {v0_} {v1_} (he_ : readRun fn x0 x1 x2 = (v0_, v1_)) (hx2 : Canon x2) :
    Canon v0_ := by
  have := canon_readRun fn x0 x1 x2 hx2
  rw [he_] at this
  exact this

theorem canon_bar0Read (fn : Fn) (o n : Nat) (s : State)  (hs : Canon s) : Canon (bar0Read fn o n s) := by
  unfold bar0Read
  repeat' (first
    | with_reducible assumption
    | ((fail_if_no_progress extract_lets +onlyGivenNames s_); first | (refine canon_cut (s := s_) ?_ (fun hc_ => ?_); (on_goal 2 => (try clear_value s_)); unfold s_) | skip)
    | with_reducible apply canon_bump | with_reducible apply canon_viol | with_reducible apply canon_read4 | with_reducible apply canon_readRun
    | with_reducible apply canon_mem | with_reducible apply canon_hostMem | with_reducible apply canon_regs | dsimp only | split
    | (simp only [canon_mk_iff]; refine ⟨?_, ?_, ?_⟩))

theorem canon_ppsWrite (fn : Fn) (row : RegRow) (v : W64) (s : State)  (hs : Canon s) : Canon (ppsWrite fn row v s) := by
  unfold ppsWrite
  repeat' (first
    | with_reducible assumption
    | ((fail_if_no_progress extract_lets +onlyGivenNames s_); first | (refine canon_cut (s := s_) ?_ (fun hc_ => ?_); (on_goal 2 => (try clear_value s_)); unfold s_) | skip)
    | with_reducible apply canon_plainPut | with_reducible apply canon_setBit | with_reducible apply canon_mem | with_reducible apply canon_hostMem
    | with_reducible apply canon_regs | split | (simp only [canon_mk_iff]; refine ⟨?_, ?_, ?_⟩))

theorem canon_qcmdWrite (fn : Fn) (v : Nat) (s : State)  (hs : Canon s) : Canon (qcmdWrite fn v s) := by
  unfold qcmdWrite
  repeat' (first
    | with_reducible assumption | (fail_if_no_progress extract_lets +onlyGivenNames s_) | with_reducible apply canon_act
    | with_reducible apply canon_dropCmd | split)

theorem canon_invWrite (fn : Fn) (v : Nat) (s : State)  (hs : Canon s) : Canon (invWrite fn v s) := by
  unfold invWrite
  repeat' (first
    | with_reducible assumption | (fail_if_no_progress extract_lets +onlyGivenNames s_) | with_reducible apply canon_act
    | with_reducible apply canon_dropCmd | split)

theorem canon_scmdWrite (fn : Fn) (v : Nat) (s : State)  (hs : Canon s) : Canon (scmdWrite fn v s) := by
  unfold scmdWrite
  repeat' (first
    | with_reducible assumption | (fail_if_no_progress extract_lets +onlyGivenNames s_) | with_reducible apply canon_act
    | with_reducible apply canon_dropCmd | split)

theorem canon_tcmdWrite (fn : Fn) (v : Nat) (s : State)  (hs : Canon s) : Canon (tcmdWrite fn v s) := by
  unfold tcmdWrite
  repeat' (first
    | with_reducible assumption | (fail_if_no_progress extract_lets +onlyGivenNames s_) | with_reducible apply canon_act
    | with_reducible apply canon_dropCmd | split)

theorem canon_releaseWrite (fn : Fn) (v : Nat) (s : State)  (hs : Canon s) : Canon (releaseWrite fn v s) := by
  unfold releaseWrite
  repeat' (first
    | with_reducible assumption
    | ((fail_if_no_progress extract_lets +onlyGivenNames s_); first | (refine canon_cut (s := s_) ?_ (fun hc_ => ?_); (on_goal 2 => (try clear_value s_)); unfold s_) | skip)
    | with_reducible apply canon_act | split)

theorem canon_commitWrite (fn : Fn) (row : RegRow) (r : Nat) (v : W64) (k : State → State) (s : State)  (hk : ∀ a0_, Canon a0_ → Canon (k a0_)) (hs : Canon s) : Canon (commitWrite fn row r v k s) := by
  unfold commitWrite
  repeat' (first
    | with_reducible assumption
    | ((fail_if_no_progress extract_lets +onlyGivenNames s_); (refine canon_cut (s := s_) ?_ (fun hc_ => ?_); (on_goal 2 => (try clear_value s_)); unfold s_))
    | with_reducible apply hk | with_reducible apply canon_plainPut | split)

theorem canon_capWrite (fn : Fn) (row : RegRow) (r : Nat) (v : W64) (s : State)  (hs : Canon s) : Canon (capWrite fn row r v s) := by
  unfold capWrite
  repeat' (first
    | with_reducible assumption | (fail_if_no_progress extract_lets +onlyGivenNames s_) | with_reducible apply canon_mem
    | with_reducible apply canon_hostMem | with_reducible apply canon_regs | (simp only [canon_mk_iff]; refine ⟨?_, ?_, ?_⟩))

theorem canon_regPut (fn : Fn) (row : RegRow) (r : Nat) (v : W64) (s : State)  (hs : Canon s) : Canon (regPut fn row r v s) := by
  unfold regPut
  repeat' (first
    | with_reducible assumption | (fail_if_no_progress extract_lets +onlyGivenNames s_) | with_reducible apply canon_glbTimeWrite
    | with_reducible apply canon_ppsWrite | with_reducible apply canon_mailDoorbell | with_reducible apply canon_act
    | with_reducible apply canon_qcmdWrite | with_reducible apply canon_invWrite | with_reducible apply canon_commitWrite
    | with_reducible apply canon_mmuCommit | with_reducible apply canon_scmdWrite | with_reducible apply canon_releaseWrite
    | with_reducible apply canon_mediaCommit | with_reducible apply canon_capWrite | with_reducible apply canon_capCommit
    | with_reducible apply canon_plainPut | with_reducible apply canon_denied | with_reducible apply canon_tcmdWrite
    | with_reducible apply canon_snuffWrite | with_reducible apply canon_matchWrite | with_reducible apply canon_cntReset
    | with_reducible apply canon_traceCfgWrite | with_reducible apply canon_scanWrite | with_reducible apply canon_secPush
    | with_reducible apply canon_mem | with_reducible apply canon_hostMem | with_reducible apply canon_regs | split
    | (simp only [canon_mk_iff]; refine ⟨?_, ?_, ?_⟩))

theorem canon_write64 (fn : Fn) (row : RegRow) (r : Nat) (v : W64) (s : State)  (hs : Canon s) : Canon (write64 fn row r v s) := by
  unfold write64
  repeat' (first
    | with_reducible assumption | with_reducible apply canon_denied | with_reducible apply canon_regPut | split)

theorem canon_windowWrite (fn : Fn) (v : Nat) (s : State) (x0 : BarWindow) (hs : Canon s) : Canon (windowWrite fn v s x0) := by
  unfold windowWrite
  repeat' (first
    | with_reducible assumption | with_reducible apply canon_msixSet | with_reducible apply canon_msixUnmask | dsimp only | split)

theorem canon_write4 (fn : Fn) (o : Nat) (v : W32) (s : State)  (hs : Canon s) : Canon (write4 fn o v s) := by
  unfold write4
  repeat' (first
    | with_reducible assumption
    | ((fail_if_no_progress extract_lets +onlyGivenNames s_); first | (refine canon_cut (s := s_) ?_ (fun hc_ => ?_); (on_goal 2 => (try clear_value s_)); unfold s_) | skip)
    | with_reducible apply canon_dropHeld | with_reducible apply canon_windowWrite | with_reducible apply canon_write64
    | with_reducible apply canon_missed | with_reducible apply canon_mem | with_reducible apply canon_hostMem | with_reducible apply canon_regs
    | dsimp only | split | (simp only [canon_mk_iff]; refine ⟨?_, ?_, ?_⟩))

theorem canon_write8 (fn : Fn) (o : Nat) (v : W64) (s : State)  (hs : Canon s) : Canon (write8 fn o v s) := by
  unfold write8
  repeat' (first
    | with_reducible assumption
    | ((fail_if_no_progress extract_lets +onlyGivenNames s_); first | (refine canon_cut (s := s_) ?_ (fun hc_ => ?_); (on_goal 2 => (try clear_value s_)); unfold s_) | skip)
    | with_reducible apply canon_dropHeld | with_reducible apply canon_windowWrite | with_reducible apply canon_write4
    | with_reducible apply canon_write64 | with_reducible apply canon_missed | split)

theorem canon_writeRun (fn : Fn) (x0 : Nat) (x1 : Nat) (x2 : List Byte) (x3 : State) (hx3 : Canon x3) : Canon (writeRun fn x0 x1 x2 x3) := by
  induction x0 generalizing x1 x2 x3 with
  | zero =>
    unfold writeRun
    repeat' (first
        | with_reducible assumption | with_reducible apply canon_write8)
  | succ n ih =>
    unfold writeRun
    repeat' (first
        | with_reducible assumption | with_reducible apply ih | with_reducible apply canon_write8)

theorem canon_bar0Write (fn : Fn) (o : Nat) (bs : List Byte) (s : State)  (hs : Canon s) : Canon (bar0Write fn o bs s) := by
  unfold bar0Write
  repeat' (first
    | with_reducible assumption
    | ((fail_if_no_progress extract_lets +onlyGivenNames s_); first | (refine canon_cut (s := s_) ?_ (fun hc_ => ?_); (on_goal 2 => (try clear_value s_)); unfold s_) | skip)
    | with_reducible apply canon_pastFlr | with_reducible apply canon_viol | with_reducible apply canon_dropHeld | with_reducible apply canon_write4
    | with_reducible apply canon_writeRun | with_reducible apply canon_bump | with_reducible apply canon_mem | with_reducible apply canon_hostMem
    | with_reducible apply canon_regs | with_reducible apply canon_foldl | dsimp only | (intro s_ hc_; beta_reduce) | intro _ | split
    | (simp only [canon_mk_iff]; refine ⟨?_, ?_, ?_⟩))

theorem canon_execRegisterWrite (fn : Fn) (off : Nat) (data : List Byte) (s : State) (hs : Canon s) : OutCanon (execRegisterWrite fn off data s) := by
  unfold execRegisterWrite
  repeat' (first
    | with_reducible assumption | with_reducible apply canon_live | with_reducible apply canon_bar0Write)

theorem canon_execRcRead (fn : Fn) (off len : Nat) (s : State) (hs : Canon s) : OutCanon (execRcRead fn off len s) := by
  unfold execRcRead
  repeat' (first
    | with_reducible assumption | with_reducible apply canon_live | with_reducible apply canon_bar0Read)

theorem canon_execBar0HalfWrite (fn : Fn) (off : Nat) (value : W32) (s : State) (hs : Canon s) : OutCanon (execBar0HalfWrite fn off value s) := by
  unfold execBar0HalfWrite
  repeat' (first
    | with_reducible assumption | with_reducible apply canon_live | with_reducible apply canon_bar0Write)

theorem canon_execBar0HalfRead (fn : Fn) (off : Nat) (s : State) (hs : Canon s) : OutCanon (execBar0HalfRead fn off s) := by
  unfold execBar0HalfRead
  repeat' (first
    | with_reducible assumption | with_reducible apply canon_live | with_reducible apply canon_bar0Read)

end Sys2Proof.Machine
end

