-- ==== Sys2Proof/Laws/Frame.lean ====
section
/-!
SUPPORT. What an access to device memory can do, said once: it moves byte counters alone when no mark, failed transfer or failed channel lies in
its way, and reads and stores exactly its bytes.
-/
namespace Sys2Proof.Machine

/-- Only byte counters moved. -/
def OnlyCounted (s t : State) : Prop := OnlyRegs byteCounters s t ∧ t = { s with regs := t.regs }

theorem onlyCounted_refl (s : State) : OnlyCounted s s := ⟨fun _ _ => rfl, rfl⟩

theorem onlyCounted_trans {s t u : State} (h : OnlyCounted s t) (h' : OnlyCounted t u) : OnlyCounted s u := by
  refine ⟨fun k hk => (h'.1 k hk).trans (h.1 k hk), ?_⟩
  have e := h'.2
  rw [h.2] at e
  exact e

theorem onlyCounted_bump (s : State) {i : Nat} (n : Nat) (h : i < 90) : OnlyCounted s (bump s i n) := by
  refine ⟨fun k hk => reg_bump_ne s ?_, rfl⟩
  intro e
  exact hk (List.mem_map.2 ⟨i, List.mem_range.2 h, e.symm⟩)

theorem onlyCounted_ite {c : Prop} [Decidable c] {s a b : State} (ha : OnlyCounted s a) (hb : OnlyCounted s b) : OnlyCounted s (if c then a else b) := by
  split
  · exact ha
  · exact hb

theorem chanOf_lt (s : State) (a : Nat) : s.chanOf a < 16 := by
  unfold State.chanOf
  split
  · have h : ∀ hi lo, hi + 1 - lo = 4 → nbits a hi lo < 2 ^ 4 := fun hi lo e => e ▸ nbits_lt ..
    exact Nat.xor_lt_two_pow (Nat.xor_lt_two_pow (Nat.xor_lt_two_pow (h 11 8 rfl) (h 15 12 rfl)) (h 19 16 rfl)) (h 23 20 rfl)
  · dsimp only
    rw [List.getD_eq_getElem?_getD]
    cases e : ((List.range 16).filter (nbit s.chanMask))[a / 256 % max 1 ((List.range 16).filter (nbit s.chanMask)).length]? with
    | none => exact Nat.zero_lt_succ _
    | some x => exact List.mem_range.1 (List.mem_of_mem_filter (List.mem_of_getElem? e))

theorem onlyCounted_countGddr (w : Bool) (f : Nat) (s : State) (a n : Nat) : OnlyCounted s (countGddr w f s a n) := by
  induction f generalizing s a n with
  | zero => exact onlyCounted_refl s
  | succ f ih =>
    unfold countGddr
    split
    · exact onlyCounted_refl s
    · dsimp only
      have hc := chanOf_lt s a
      refine onlyCounted_trans ?_ (ih _ _ _)
      have h56 : 56 + 2 * s.chanOf a < 90 := by omega
      have h57 : 57 + 2 * s.chanOf a < 90 := by omega
      exact onlyCounted_ite (onlyCounted_trans (onlyCounted_ite (onlyCounted_refl s) (onlyCounted_bump _ _ h56)) (onlyCounted_bump _ _ h57))
        (onlyCounted_bump _ _ h56)

/-- An agent is one of the device's: a core has a number below 16. -/
def Agent.known : Agent → Prop
  | .core c => c < 16
  | _ => True

theorem placeOf_inner (s : State) (a : Nat) : (∀ c, s.placeOf a = .core c → c < 16) ∧ (∀ c, s.placeOf a = .hearth c → c < 4) := by
  unfold State.placeOf
  by_cases h1 : a < s.usable
  · rw [if_pos h1]; exact ⟨fun _ e => (nomatch e), fun _ e => (nomatch e)⟩
  · rw [if_neg h1]
    by_cases h2 : (bufBase ≤ a && a < bufBase + 0x10000000) = true
    · rw [if_pos h2]
      have hb : a - bufBase < 0x10000000 := by
        have := (Bool.and_eq_true _ _ ▸ h2 : _ ∧ _)
        have x := of_decide_eq_true this.1
        have y := of_decide_eq_true this.2
        omega
      generalize a - bufBase = o at hb
      dsimp only
      by_cases h3 : o % 0x4000000 < 0x2000000
      · rw [if_pos h3]
        by_cases h4 : o % 0x4000000 % 0x800000 < 0x600000
        · rw [if_pos h4]
          refine ⟨fun c e => ?_, fun _ e => (nomatch e)⟩
          have := Place.core.inj e
          omega
        · rw [if_neg h4]; exact ⟨fun _ e => (nomatch e), fun _ e => (nomatch e)⟩
      · rw [if_neg h3]
        by_cases h4 : o % 0x4000000 < 0x2400000
        · rw [if_pos h4]
          refine ⟨fun _ e => (nomatch e), fun c e => ?_⟩
          have := Place.hearth.inj e
          omega
        · rw [if_neg h4]; exact ⟨fun _ e => (nomatch e), fun _ e => (nomatch e)⟩
    · rw [if_neg h2]
      generalize (trackBase ≤ a && a < trackBase + 0x1000000) = p
      generalize (stagingBase ≤ a && a < stagingBase + stagingSize) = q
      generalize (emberBase ≤ a && a < emberBase + 0x20000) = r
      cases p <;> cases q <;> cases r <;> exact ⟨fun _ e => (nomatch e), fun _ e => (nomatch e)⟩

theorem placeOf_core {s : State} {a c : Nat} (h : s.placeOf a = .core c) : c < 16 := (placeOf_inner s a).1 c h
theorem placeOf_hearth {s : State} {a c : Nat} (h : s.placeOf a = .hearth c) : c < 4 := (placeOf_inner s a).2 c h

/-- A fold of steps that move byte counters alone. -/
theorem onlyCounted_foldl {α : Type} (f : State → α → State) (hf : ∀ s a, OnlyCounted s (f s a)) (l : List α) (s : State) : OnlyCounted s (l.foldl f s) := by
  induction l generalizing s with
  | nil => exact onlyCounted_refl s
  | cons a l ih => exact onlyCounted_trans (hf s a) (ih _)

/-- Payload on the Flue moves byte counters alone. -/
theorem onlyCounted_flueBytes (s : State) (a b n : Nat) : OnlyCounted s (flueBytes s a b n) := by
  unfold flueBytes
  dsimp only
  split
  · exact onlyCounted_refl s
  · split
    · exact onlyCounted_foldl _ (fun s k => onlyCounted_bump _ _ (by omega)) _ _
    · split
      · exact onlyCounted_foldl _ (fun s k => onlyCounted_bump _ _ (by omega)) _ _
      · exact onlyCounted_refl s

/-- An access along the Flue moves byte counters alone. -/
theorem onlyCounted_flueAccess (s : State) (w : Bool) (a b n : Nat) : OnlyCounted s (flueAccess s w a b n) := by
  unfold flueAccess
  split <;> exact onlyCounted_flueBytes ..

/-- Counting an access moves byte counters alone. -/
theorem onlyCounted_countAccess {ag : Agent} (h : ag.known) (w : Bool) (s : State) (a n : Nat) : OnlyCounted s (countAccess ag w s a n) := by
  have hw : (if w = true then 1 else 0) ≤ 1 := by split <;> omega
  unfold countAccess
  dsimp only
  generalize (if w = true then 1 else 0) = x at hw
  split
  · cases ag with
    | core c =>
      have hc : c < 16 := h
      exact onlyCounted_trans (onlyCounted_countGddr ..) (onlyCounted_bump _ _ (by omega))
    | _ => exact onlyCounted_countGddr ..
  · rename_i c e
    have hc := placeOf_core e
    cases ag with
    | core c => exact onlyCounted_trans (onlyCounted_bump _ _ (by omega)) (onlyCounted_flueAccess ..)
    | _ => exact onlyCounted_trans (onlyCounted_bump _ _ (by omega)) (onlyCounted_bump _ _ (by omega))
  · rename_i c e
    have hc := placeOf_hearth e
    cases ag with
    | core c => exact onlyCounted_trans (onlyCounted_bump _ _ (by omega)) (onlyCounted_flueAccess ..)
    | _ => exact onlyCounted_trans (onlyCounted_bump _ _ (by omega)) (onlyCounted_bump _ _ (by omega))
  · exact onlyCounted_refl s
  · cases ag with
    | core c =>
      have hc : c < 16 := h
      exact onlyCounted_bump _ _ (by omega)
    | _ => exact onlyCounted_refl s

/-- A read that meets no mark, no failed transfer and no failed channel: its bytes, and only byte counters moved. -/
theorem devRead_clean {ag : Agent} (h : ag.known) {s : State} {a n : Nat} (h1 : s.markIn a n = none) (h2 : s.lostIn false a n = none)
    (h3 : s.deadIn a n = none) : ∃ t, devRead ag s a n = (t, mread s.mem a n, none) ∧ OnlyCounted s t := by
  refine ⟨countAccess ag false s a n, ?_, onlyCounted_countAccess h ..⟩
  unfold devRead
  rw [h1, h2, h3]

/-- The bytes that a read returns are those of memory, whatever it meets. -/
theorem devRead_bytes (ag : Agent) (s : State) (a n : Nat) : (devRead ag s a n).2.1 = mread s.mem a n := by
  unfold devRead
  dsimp only
  split
  · rfl
  · split <;> rfl

/-- A read that meets a marked granule names it. -/
theorem devRead_mark (ag : Agent) {s : State} {a n k : Nat} (h : s.markIn a n = some k) : (devRead ag s a n).2.2 = some k := by
  unfold devRead
  rw [h]

/-- The read of a read-modify-write meets nothing when no sector that the write covers in part is poisoned. -/
theorem rmwErrors_clean {s : State} {a n : Nat} (h : (partSectors a n).all (fun k => !tget false s.poison k) = true) : rmwErrors s a n = s := by
  unfold rmwErrors
  split
  · have g : ∀ (l : List Nat), l.all (fun k => !tget false s.poison k) = true →
        l.foldl (fun s k => if tget false s.poison k then errUncorrectable s k else s) s = s := by
      intro l
      induction l with
      | nil => intro _; rfl
      | cons k l ih =>
        intro hl
        rw [List.all_cons, Bool.and_eq_true] at hl
        have hk : ¬ tget false s.poison k = true := by simpa using hl.1
        rw [List.foldl_cons, if_neg hk]
        exact ih hl.2
    exact g _ h
  · rfl

/-- A write with no failed channel, no failed transfer and no poisoned sector that it covers in part: it stores its bytes, lifts the poison of the
granules it covers whole, and moves byte counters alone. -/
theorem devWrite_clean {ag : Agent} (h : ag.known) {s : State} {a : Nat} {bs : List Byte} (h1 : s.fabric.chFailed = 0) (h2 : s.fabric.lost = [])
    (h3 : (partSectors a bs.length).all (fun k => !tget false s.poison k) = true) :
    ∃ u, OnlyCounted s u ∧ devWrite ag s a bs = { u with mem := mwrite s.mem a bs, poison := u.unpoison a bs.length } := by
  have hc := onlyCounted_countAccess h true s a bs.length
  refine ⟨countAccess ag true s a bs.length, hc, ?_⟩
  generalize hu : countAccess ag true s a bs.length = u at hc
  have e := hc.2
  have ep : u.poison = s.poison := by rw [e]
  have ef : u.fabric = s.fabric := by rw [e]
  have em : u.mem = s.mem := by rw [e]
  unfold devWrite
  rw [hu, rmwErrors_clean (by rw [ep]; exact h3), ← em]
  exact if_pos ⟨(congrArg Fabric.chFailed ef).trans h1, (congrArg Fabric.lost ef).trans h2⟩

end Sys2Proof.Machine
end

