-- ==== Sys2Proof/Tests/Slice0.lean ====
section
/-!
SUPPORT. Tests: well-formedness, and for every statement states that meet its hypotheses, each with one step and what comes of it. Expected
values are read from the rules of the manual or follow from the small state by hand.
-/
namespace Sys2Proof.Machine

set_option Elab.async false

/-! ### Helpers: small states -/

/-- A device that has finished its start. -/
def tUp : State := { State.reset with boot := { step := 9 } }
/-- The state after a command. -/
def tAfter (i : Instr) (s : State) : State := match exec i s with
  | .next t => t
  | _ => s
/-- A command ends in a given state. -/
def tIs (i : Instr) (s t : State) : Bool := match exec i s with
  | .next u => u == t
  | _ => false
/-- A device with GDDR6 in use and READY. -/
def tRun : State :=
  (({ tUp with fabric := { gddrTrained := true } } : State).setFld Reg.glbStatus 0 0 1).setReg Reg.memCapacity (BitVec.ofNat 64 (2 ^ 34 + 65535 * 2 ^ 40))
/-- Under Snuff. -/
def tSnuffed : State := tUp.setFld Reg.dbgSnuff 9 8 2
/-- An open session with a request at the head of the ring. -/
def tMail (type len : Nat) (payload : List Byte) (s : State) : State :=
  { s.setFld Reg.hifMailStat 1 0 1 with
    mail := { up := true, known := 1, features := BitVec.ofNat 256 fwFeatures }
    mem := mwrite s.mem (mailBase + 0x1000) (leBytes 2 type ++ leBytes 1 len ++ leBytes 1 0 ++ leBytes 4 7 ++ padTo 56 payload) }
/-- Firmware takes the request, and it is of a message of the session. -/
def tTakes (s : State) (type len : Nat) : Bool :=
  s.up && (match s.request with
    | some r => r.type == type && r.len == len && r.seq == 7
    | none => false) && s.refusal type == none
/-- The reply with a status waits. -/
def tAnswers (t : State) (type status : Nat) (rest : List Byte) : Bool := t.mail.waiting.contains (message type 1 7 (leBytes 2 status ++ rest))
/-- An operand block: base and format. -/
def tOp (base fmt : Nat) : List Byte := padTo 32 (leBytes 6 base ++ leBytes 1 (fmt + 128))
/-- No operand. -/
def tNo : List Byte := List.replicate 32 0
/-- A descriptor: code and mode, four operand blocks, bounds, operation block. -/
def tDesc (op mode : Nat) (ops : List Byte) (bounds : List Nat) (blk : List Byte) : List Byte :=
  padTo 256 (padTo 64 (leBytes 1 op ++ leBytes 1 mode) ++ padTo 128 ops ++ padTo 16 (bounds.flatMap (leBytes 2)) ++ blk)
/-- Queue 0 of partition 0 is active, with a descriptor next. -/
def tQ (d : List Byte) : State :=
  { tRun.setReg (Reg.qmPart 0) 0x1FFFF with qm := { queues := [(0, { state := .active, ringLog := 4, cplLog := 4, tail := 16, ahead := [⟨0, d, none⟩] })] } }

/-! ### Well-formedness: an ill-formed term for each check -/

theorem wf_stage1Start : (Instr.stage1Start ⟨0, 0, 0, 0, 0, false, [2 ^ 50], 1350, .octalDtr⟩).wf = false := by decide +kernel
theorem wf_linkTrained : (Instr.linkTrained 6 8).wf = false ∧ (Instr.linkTrained 5 3).wf = false ∧ (Instr.linkTrained 5 8).wf = true := by decide +kernel
theorem wf_bar2Resize : (Instr.bar2Resize 3).wf = false ∧ (Instr.bar2Resize 32).wf = true := by decide +kernel
theorem wf_bar2Read : (Instr.bar2Read .pf 0 0).wf = false ∧ (Instr.bar2Read .pf (2 ^ 35 - 1) 2).wf = false := by decide +kernel
theorem wf_queueDoorbell : (Instr.queueDoorbell .pf 0x7FFFC (List.replicate 8 0)).wf = false ∧ (Instr.queueDoorbell .pf 0x7FFF8 (List.replicate 8 0)).wf = true := by decide +kernel
theorem wf_flash : (Instr.stage0Start (2 ^ 23) .clean).wf = false ∧ (Instr.wear (2 ^ 23) .clean).wf = false := by decide +kernel
theorem wf_bar2Write : (Instr.bar2Write .pf 0 ⟨[], false⟩).wf = false := by decide +kernel
theorem wf_bar0HalfWrite : (Instr.bar0HalfWrite .pf 2 0).wf = false ∧ (Instr.bar0HalfRead .pf (2 ^ 26)).wf = false := by decide +kernel
theorem wf_registerWrite : (Instr.registerWrite .pf 8 []).wf = false ∧ (Instr.rcRead .pf 8 0).wf = false := by decide +kernel
theorem wf_sector : (Instr.edcFailure 16 false 0).wf = false ∧ (Instr.edcRetrainDone 8 true true).wf = false ∧ (Instr.gddr6Read 1 .clean).wf = false ∧
    (Instr.gscrub 64 (List.replicate 8 .clean) false).wf = false ∧
    (Instr.gscrub 256 [.clean] false).wf = false ∧ (Instr.gscrub 256 (List.replicate 8 .clean) false).wf = true := by decide +kernel
theorem wf_sscrub : (Instr.sscrub (.fwSram 4 none) [.clean] false).wf = false ∧ (Instr.sscrub (.inner .queueState (2 ^ 32) .none) [.clean] false).wf = false ∧
    (Instr.sscrub (.walk 0 0 4 0) [.single] false).wf = false ∧ (Instr.sscrub (.fwSram 8 none) (List.replicate 9 .clean) false).wf = false := by decide +kernel
theorem wf_splitWindowEnd : (Instr.splitWindowEnd 0 100 100 57).wf = false ∧ (Instr.splitWindowEnd 0 100 100 56).wf = true := by decide +kernel
theorem wf_longPacket : (Instr.longPacket 0 0 0x2A .clean true false (List.replicate 65536 0)).wf = false := by decide +kernel
theorem wf_energyTick : (Instr.energyTick [⟨.steps4, .core 0, 2 ^ 64⟩]).wf = false ∧ (Instr.powerWindow ⟨[], []⟩).wf = false ∧ (Instr.ageingCheck []).wf = false := by decide +kernel
theorem wf_twinFlits : (Instr.twinOpen 0 0 true 0 (List.replicate 113 0)).wf = false ∧ (Instr.bits 0 0 0 0 (List.replicate 109 0)).wf = false ∧
    (Instr.trackFlit 0 0 0 0 []).wf = false := by decide +kernel
theorem wf_bypass : (Instr.bypass 0x20).wf = false ∧ (Instr.bypass 0xFF).wf = true := by decide +kernel

/-! ### The step, the memories and the resets: witnesses of the hypotheses, and what comes of them -/

theorem test_step_front : step { tUp with pending := [.linkDown, .cal 3] } = exec .linkDown { tUp with pending := [.cal 3] } := rfl
theorem test_idle_tick : tUp.pending = [] ∧ tUp.up = true ∧ tUp.clock.hold = 0 ∧ State.reset.up = false ∧
    (match step tUp with
      | .next t => t.clock.timeF == 10 && t.regs == tUp.regs
      | _ => false) = true := by decide +kernel
theorem test_run : ∃ t, Host.Core.run Sys2Proof.core 2 { tUp with pending := [.linkDown, .cal 3, .wear 0 .clean] } = .next t ∧ t.pending = [.wear 0 .clean] := ⟨_, rfl, rfl⟩
theorem test_canon : (Memory.wf tUp.mem = true ∧ Memory.wf tUp.hostMem = true ∧ rwf tUp.regs = true) ∧ ∃ t, step tUp = .next t :=
  ⟨by decide +kernel, _, rfl⟩
theorem test_memory : mget (mwrite [(3, 9)] 2 [1, 0, 5]) 2 = 1 ∧ mget (mwrite [(3, 9)] 2 [1, 0, 5]) 3 = 0 ∧ mget (mwrite [(3, 9)] 2 [1, 0, 5]) 4 = 5 ∧
    mwrite [(3, 9)] 2 [1, 0, 5] = [(2, 1), (4, 5)] := by decide +kernel
theorem test_resetHolds : (tAfter (.porAssert 10000) tUp).pins.porLow = true ∧ (tAfter (.aonBrownout 1000) tUp).pins.aonLow = true ∧
    (tAfter (.refclkLoss 1000) tUp).pins.refclkLost = true ∧ tIs (.porAssert 999) tUp tUp = true := by decide +kernel
theorem test_porRelease : let s := { tUp with pins := { porLow := true } }
    (tAfter (.porRelease 2 1 5) s).pins.bootSrc = 2 ∧ (tAfter (.porRelease 2 1 5) s).pins.smbAddr = 5 ∧ (tAfter (.porRelease 2 1 5) s).boot.step = 0 := by
  decide +kernel
theorem test_otherReleases : (tAfter (.vddAonReturn 2 1 5) { tUp with pins := { aonLow := true } }).inReset = false ∧
    (tAfter (.refclkReturn 2 1 5) { tUp with pins := { refclkLost := true } }).inReset = false := by decide +kernel
theorem test_perst : tUp.pins.perstLow = false ∧ tUp.inReset = false ∧ tUp.pins.bootSrc ≠ 1 ∧ (tAfter (.perstAssert 1000) tUp).boot.step = 1 ∧
    tIs (.perstAssert 999) tUp tUp = true ∧ tIs .perstRelease tUp tUp = true := by decide +kernel
theorem test_resetRelease : State.reset.boot.step < 2 ∧ State.reset.inReset = false ∧ State.reset.pins.perstLow = false ∧
    (tAfter .resetRelease State.reset).boot.step = 2 ∧ (tAfter .resetRelease State.reset).fld Reg.pwrPower 47 32 = 7500 := by decide +kernel
/-- A header of KIND `k` whose CRC holds, with one byte of payload. -/
def tHeader (k : Nat) : List Byte :=
  let h := padTo 124 (leBytes 4 0x4D495746 ++ leBytes 2 1 ++ leBytes 1 k ++ leBytes 1 0 ++ leBytes 4 3 ++ leBytes 4 0 ++ leBytes 4 1)
  padTo 4096 (h ++ leBytes 4 (crc32c h))
/-- Stage 0 is about to choose. -/
def tStage0 (b : List Byte) : State := { State.reset with boot := { step := 2, flashB := b } }
theorem test_stage0 : (tStage0 []).up = true ∧ (tStage0 []).boot.loader = none ∧ (tStage0 []).fld Reg.secBootstat 2 0 = 0 ∧ chooseSlot 1 0 0 [] [] = none := by decide +kernel
theorem test_stage0_none : (tAfter (.stage0Start 0 .clean) (tStage0 [])).fld Reg.secBootstat 2 0 = 3 := by decide +kernel
theorem test_stage0_push : (tAfter (.stage0Start 0 .clean) { tStage0 [] with pins := { bootSrc := 3 } }).fld Reg.secBootstat 2 0 = 3 := by decide +kernel
theorem test_stage0_slot : chooseSlot 1 0 4097 [] (tHeader 1 ++ [7]) = some true := by decide +kernel
theorem test_stage0_length : (tHeader 1 ++ [7]).length = 4097 := by decide +kernel
theorem test_stage1 : ({ State.reset with boot := { step := 3 } } : State).up = true := by decide +kernel
theorem test_blockLanded : let l : Loader := { kind := 2, source := 0, head := padTo 4096 (List.replicate 16 0 ++ leBytes 4 65537), fromNvm := false
                                               base := 0, landed := 0, cause := 0, digests := [], poisoned := false }
    ({ tUp with boot := { step := 9, loader := some l } } : State).up = true ∧ l.landed + 1 < hdrBlocks l.head := by decide +kernel
theorem test_pushS1 : let s := { tUp with mem := mwrite [] 0x2001410000 ((tHeader 1).take 128) }
    sound 1 0x1D0000 (mread s.mem 0x2001410000 4096) = true ∧ (s.setFld Reg.secBootstat 2 0 3).fld Reg.secBootstat 2 0 = 3 ∧
    (tAfter (.pushS1 .pf) (s.setFld Reg.secBootstat 2 0 3)).fld Reg.secBootstat 27 24 = 1 ∧
    (tAfter (.pushS1 .pf) (s.setFld Reg.secBootstat 2 0 3)).fld Reg.secBootstat 2 0 = 0 ∧
    (tAfter (.pushS1 .pf) s).fld Reg.secBootstat 27 24 = 4 := by decide +kernel
theorem test_pushFw : let s := { tUp with mem := mwrite [] 0 ((tHeader 2).take 128) }
    sound 2 0x100000 (mread s.mem 0 4096) = true ∧ (tAfter (.pushFw .pf) (s.setFld Reg.secBootstat 2 0 4)).fld Reg.secBootstat 27 24 = 1 ∧
    (tAfter (.pushFw .pf) s).fld Reg.secBootstat 27 24 = 4 := by decide +kernel
theorem test_pushCfg : let s := tUp.setBit Reg.secBootstat 3 true
    s.pins.bootSrc ≠ 1 ∧ s.boot.running = none ∧ (tAfter (.pushCfg .pf) s).boot.cfgPushed = true := by decide +kernel
theorem test_mainFwStart : let s := { State.reset with boot := { step := 8 } }
    s.up = true ∧ (tAfter .mainFwStart s).ready = true ∧ (tAfter .mainFwStart s).mail.waiting.length = 1 ∧ tIs .mainFwStart tUp tUp = true := by
  decide +kernel

/-! ### Power -/

theorem test_powerWindow : tUp.inReset = false ∧ ∃ t, exec (.powerWindow ⟨List.replicate 13 ⟨850, 1000⟩, []⟩) tUp = .next t := ⟨by decide +kernel, _, rfl⟩
theorem test_thermalSample : tUp.pwr.hotOnce = false ∧ (tAfter (.thermalSample 880 0 0 0 0) tUp).fld Reg.pwrStatus 29 20 = 300 ∧
    (tAfter (.thermalSample 879 0 0 0 0) tUp).fld Reg.pwrStatus 29 20 = 900 := by decide +kernel
theorem test_thermalTrip : let s := { tUp with pwr := { tUp.pwr with hotOnce := true } }
    s.pwrState ≠ 3 ∧ s.pwrState ≠ 1 ∧ s.stopped = false ∧ (tAfter (.thermalSample 0 0 0 0 920) s).dbg.tripped = true ∧
    (tAfter (.thermalSample 0 0 0 0 920) s).pwrState = 3 ∧ (tAfter (.thermalSample 0 0 0 0 919) s).dbg.tripped = false := by decide +kernel
theorem test_ceilingStep_down : let s := tUp.setFld Reg.pwrTemp1 31 16 800
    800 ≤ sext 16 (s.fld Reg.pwrTemp1 31 16) ∧ 325 ≤ s.fld Reg.pwrStatus 29 20 ∧ (tAfter .thermalCeilingStep s).fld Reg.pwrStatus 29 20 = 875 := by
  decide +kernel
theorem test_ceilingStep_up : let s := (tUp.setFld Reg.pwrTemp1 31 16 775).setFld Reg.pwrStatus 29 20 880
    sext 16 (s.fld Reg.pwrTemp1 31 16) < 776 ∧ (tAfter .thermalCeilingStep s).fld Reg.pwrStatus 29 20 = 900 := by decide +kernel
theorem test_pllStepAck : let s := { tUp with pwr := { tUp.pwr with seq := .steps, stepTo := 1023 } }
    s.inReset = false ∧ s.pwr.seq = .steps ∧ 25 ≤ s.pwr.stepTo ∧ s.pwr.stepTo < 1024 := by decide +kernel
theorem test_railSettled : let s := { tUp with pwr := { tUp.pwr with seq := .rails, target := 900 } }
    s.pwr.seq = .rails ∧ s.fld Reg.pwrStatus 9 0 < s.pwr.target ∧ (tAfter .railSettled s).pwr.seq = .steps ∧
    (tAfter .railSettled s).pwr.stepTo = s.fld Reg.pwrStatus 9 0 + 25 := by decide +kernel
theorem test_railSettleTimeout : let s := { tUp with pwr := { tUp.pwr with seq := .rails, target := 900 } }
    s.pwr.seq = .rails ∧ ∃ t, exec (.railSettleTimeout 2) s = .next t := ⟨rfl, _, rfl⟩
theorem test_droop : tUp.pwr.stretched.toNat.testBit 3 = false ∧ (tAfter (.droopFire 3) tUp).pwr.stretched = 8 ∧
    (tAfter (.droopFire 3) tUp).fld Reg.pwrThrot 63 48 = 1 ∧ tIs (.droopFire 3) { tUp with pwr := { tUp.pwr with stretched := 8 } }
      { tUp with pwr := { tUp.pwr with stretched := 8 } } = true ∧
    tIs (.droopEnd 3) { tUp with pwr := { tUp.pwr with stretched := 9 } } { tUp with pwr := { tUp.pwr with stretched := 1 } } = true := by decide +kernel
theorem test_energyTick : (∃ t, exec (.energyTick [⟨.gddrTransfer, .core 0, 1⟩]) tUp = .next t) ∧ actPayer tUp ⟨.gddrTransfer, .core 0, 1⟩ = 16 ∧
    actPayer (tUp.setReg (Reg.qmPart 0) 0x1FFFF) ⟨.gddrTransfer, .core 0, 1⟩ = 0 ∧ actPayer (tUp.setReg (Reg.qmPart 0) 0x1FFFF) ⟨.firmware, .core 0, 1⟩ = 16 ∧
    (energyAdd tUp 3 1125000000000).reg (Reg.pwrEnergy 3) = 2 := ⟨⟨_, rfl⟩, by decide +kernel⟩
theorem test_marginLoop : tUp.loopsRun = true ∧ (∀ n ∈ List.range 4, tUp.marginMv n ≤ 300) ∧ (1 : BitVec 4) ≠ 0 ∧ tUp.marginMv 0 < 300 ∧
    (tUp.setFld Reg.pwrMargin 15 0 60).up = true := by decide +kernel
theorem test_grantHoldEnd : tUp.pwrState = 0 ∧ (tAfter .grantHoldEnd (tUp.setBit Reg.pwrStatus 44 true)).bit Reg.pwrStatus 44 = false := by decide +kernel
theorem test_capUnmet : let s := (tUp.setFld Reg.pwrStatus 9 0 300).setFld Reg.pwrPower 15 0 7600
    s.fld Reg.pwrStatus 9 0 = 300 ∧ s.fld Reg.pwrPower 47 32 < s.fld Reg.pwrPower 15 0 ∧ s.bit Reg.pwrStatus 43 = false ∧
    (tAfter .capUnmet s).bit Reg.pwrStatus 43 = true := by decide +kernel
theorem test_powerLoop : let s := { tUp with pwr := { tUp.pwr with capNext := some 2500, ceilNext := some 600 } }
    s.loopsRun = true ∧ (tAfter .powerLoop s).fld Reg.pwrPower 47 32 = 2500 ∧ (tAfter .powerLoop s).pwr.fCeil = 600 := by decide +kernel
theorem test_ageingCheck : tUp.loopsRun = true ∧ tIs (.ageingCheck []) tUp tUp = true ∧
    (∀ n, ageComparable n ⟨0, Config.baseMv n, Config.baseTemp n⟩ = true ∧ ageFallen n ⟨0, 0, 0⟩ = true) :=
  ⟨by decide +kernel, by decide +kernel, fun n => by simp [ageComparable, ageFallen]⟩

/-! ### The host interface -/

theorem test_linkTrained : (tAfter (.linkTrained 5 8) tUp).bit Reg.hifLink 8 = false ∧ (tAfter (.linkTrained 4 8) tUp).bit Reg.hifLink 8 = true ∧
    (tAfter (.linkTrained 5 4) tUp).bit Reg.hifLink 8 = true ∧ (tAfter .linkDown (tAfter (.linkTrained 5 8) tUp)).hif.linkUp = false := by decide +kernel
theorem test_bar2Resize : (tAfter (.bar2Resize 32) tUp).hif.bar2 = 32 ∧ (tAfter (.bar2Resize 1) tUp).hif.bar2 = 1 := by decide +kernel
theorem test_msixUnmask : (5 : Fin 2048).val < Fn.pf.vectors ∧ tfind tUp.hif.held Fn.pf.num = none ∧ tget false tUp.hif.pend 5 = false ∧
    (tAfter (.msixUnmask .pf 5) tUp).msixGet (msixKey 0 5 3) = 0 ∧
    tget 0 (tAfter (.msixUnmask .pf 5) { tUp with hif := { linkUp := true, pend := [(5, true)] } }).hif.sent 5 = 1 := by decide +kernel
theorem test_bar2 : 0x2000000 + 4 ≤ tRun.bar2Size .pf ∧ tRun.bar2Quiet .pf 0x2000000 = false ∧
    (let x := tRun.bar2Addr .pf 0x2000000
     tRun.bar2Viol .pf x 4 false = none ∧ tRun.markIn x 4 = none ∧ tRun.lostIn false x 4 = none ∧ tRun.deadIn x 4 = none ∧
     tRun.bar2Viol .pf x 4 true = none ∧ (partSectors x 4).all (fun k => !tget false tRun.poison k) = true) := by decide +kernel
theorem test_bar2_write_read : let t := tAfter (.bar2Write .pf 0x2000000 ⟨[1, 2, 3, 4], false⟩) tRun
    (tAfter (.bar2Read .pf 0x2000001 2) t).hif.reply = some ⟨[2, 3], false⟩ := by decide +kernel
theorem test_bar2_poison : let x := tRun.bar2Addr .pf 0x2000000
    let s := { tRun with poison := [(x, true)] }
    s.bar2Viol .pf x 4 false = none ∧ s.markIn x 4 = some x ∧ ((tAfter (.bar2Read .pf 0x2000000 4) s).hif.reply.map (·.poisoned)) = some true := by
  decide +kernel
theorem test_bar2_violation : let x := tRun.bar2Addr (.vf 3) 0
    0 + 4 ≤ tRun.bar2Size (.vf 3) ∧ (tRun.bar2Viol (.vf 3) x 4 false).isSome = true ∧ (tRun.bar2Viol (.vf 3) x 4 true).isSome = true ∧
    tRun.bar2Quiet (.vf 3) 0 = false ∧ tUp.bar2Quiet (.vf 3) 0 = true := by decide +kernel
theorem test_glbTimeWrite : tfind tUp.hif.held 0 = none ∧ tUp.tableOn = false ∧ (tAfter (.glbTimeWrite .pf 77) tUp).clock.write = some 77 ∧
    (match step (tAfter (.glbTimeWrite .pf 77) tUp) with
      | .next t => t.clock.timeM == 77 && t.clock.write == none
      | _ => false) = true ∧
    tfind tUp.hif.held (Fn.vf 15).num = none ∧ (tAfter (.glbTimeWrite (.vf 15) 77) tUp).clock.write = none := by decide +kernel
/-- PPS alignment is on, at a time near one second. -/
def tPps (ns : Nat) : State := { tUp.setBit Reg.glbPps 0 true with clock := { timeF := BitVec.ofNat 64 ns, timeM := BitVec.ofNat 64 ns, timeC := BitVec.ofNat 64 ns } }
theorem test_ppsEdge : (tPps 999900000).bit Reg.glbPps 0 = true ∧ nearestSecond 999900000 = 1000000000 ∧
    (tAfter .ppsEdge (tPps 999900000)).clock.step = 100000 ∧ (tAfter .ppsEdge (tPps 1000100000)).clock.hold = 100000 ∧
    (tAfter .ppsEdge (tPps 999899999)).fld Reg.glbPpsStat 63 48 = 1 ∧ (tAfter .ppsEdge (tPps 1000100001)).fld Reg.glbPpsStat 63 48 = 1 := by
  decide +kernel
theorem test_ppsOff : tUp.bit Reg.glbPps 0 = false ∧ tIs .ppsEdge tUp tUp = true := by decide +kernel
theorem test_ppsHoldEnd : let s := { tUp with clock := { hold := 5 } }
    s.clock.hold ≠ 0 ∧ s.clock.ppsQueued = false ∧ tIs .ppsHoldEnd s tUp = true := by decide +kernel
theorem test_bar0_row : (regAt 0x18 |>.map fun x => (x.1.name, x.2, x.1.bytes)) = some ("GLB_UID", 0x18, 8) ∨ (regAt Reg.memSplit).isSome = true := by
  decide +kernel
/-- A register of 8 bytes at its own offset, reached through BAR0. -/
def tRow (o : Nat) (name : String) : Bool := match regAt o with
  | some (r, b) => b == o && r.bytes == 8 && r.off % 8 == 0 && o % 8 == 0 && r.name == name && barWindow .pf o == none && barWindow .pf (o + 4) == none &&
      shortAt (o + 4) == none
  | none => false
theorem test_bar0_b2win : tRow Reg.hifB2win "HIF_B2WIN" = true := by decide +kernel
theorem test_bar0_write : (tAfter (.registerWrite .pf Reg.hifB2win (leBytes 8 0x40000000)) tUp).reg Reg.hifB2win = 0x40000000 := by decide +kernel
theorem test_bar0_halves : let t := tAfter (.bar0HalfWrite .pf Reg.qmQtab 0x1001) tUp
    tfind t.hif.held 0 = some ⟨Reg.qmQtab, 0x1001⟩ ∧ (tAfter (.bar0HalfWrite .pf (Reg.qmQtab + 4) 2) t).reg Reg.qmQtab = 0x200001001 := by decide +kernel
theorem test_rcRead : let s := tUp.setReg Reg.hifHdrop 9
    (tAfter (.rcRead .pf Reg.relLog 8) s).hif.reply = some ⟨leBytes 8 (s.reg Reg.relLog).toNat, false⟩ := by decide +kernel
theorem test_halfRead : (tAfter (.bar0HalfRead .pf Reg.hifB2win) tUp).hif.reply = some ⟨leBytes 4 ((tUp.reg Reg.hifB2win).toNat % 2 ^ 32), false⟩ ∧
    tfind (tAfter (.bar0HalfRead .pf Reg.hifB2win) tUp).hif.latch 0 = some ⟨Reg.hifB2win, BitVec.ofNat 32 ((tUp.reg Reg.hifB2win).toNat / 2 ^ 32)⟩ := by
  decide +kernel
theorem test_vfFlr : tUp.partOfVf 2 = none ∧ (tAfter (.vfFlr 2) (tUp.setReg (fnKey 3 Reg.hifB2win) 5)).reg (fnKey 3 Reg.hifB2win) = 0 := by decide +kernel
theorem test_pfFlr : (tAfter .pfFlr { tUp with hif := { bar2 := 8 } }).hif.bar2 = 1 ∧ (tAfter .hotReset { tUp with hif := { bar2 := 8 } }).hif.bar2 = 1 := by
  decide +kernel

/-! ### SMBus, the Ember log and the mailbox -/

/-- One report of the power source waits (R442). -/
def tReport : State := { tUp with ember := { queues := [(9, [⟨0x14, 1, 2, 3, 0⟩])] } }
theorem test_smbus : tUp.smbus.pecRequired = false ∧ tUp.smbus.powerOff = false ∧ tUp.smbus.tailOff = false ∧ tUp.ember.count = 0 ∧
    ((tAfter (.smbTemp none) (tUp.setFld Reg.pwrTemp1 31 16 0x123)).smbus.reply = some [0x23, 1]) ∧
    (tAfter (.smbStatus none) { tUp with smbus := { lapped := true } }).smbus.reply = some [0, 1] ∧
    (tAfter (.smbEmberTail none) tUp).smbus.empty = true ∧ ((tAfter (.smbReplace none) (tUp.setFld Reg.glbStatus 2 2 1)).smbus.reply.map (fun b => b.map fun x => x.toNat % 4)) = some [1] := by
  decide +kernel
theorem test_smbus_pec : ((tAfter (.smbTemp (some false)) tUp).smbus.reply.map (·.length)) = some 3 ∧
    (tAfter (.smbTemp (some false)) { tUp with smbus := { pecRequired := true } }).smbus.reply = none ∧
    (tAfter (.smbTemp none) { tUp with smbus := { pecRequired := true } }).smbus.reply = none ∧
    ((tAfter (.smbTemp (some true)) tUp).smbus.reply.map (·.length)) = some 3 := by decide +kernel
theorem test_emberTail : let t := tAfter .emberWrite tReport
    t.emberHas 0 = true ∧ (0 + 1) % 2 ^ 32 = t.nextSeq ∧ ((tAfter (.smbEmberTail none) t).smbus.reply.map (·.length)) = some 33 ∧
    (tAfter (.smbEmberTail none) t).smbus.cursor = some 1 := by decide +kernel
theorem test_emberWrite : tReport.nextSource = some 9 ∧ tReport.coalesces 9 ⟨0x14, 1, 2, 3, 0⟩ = none ∧
    leAt (mread (tAfter .emberWrite tReport).mem 0x2001600000 32) 10 2 = 0x14 ∧ (tAfter .emberWrite tReport).nextSeq = 1 := by decide +kernel
theorem test_emberCoalesce : let s := { tAfter .emberWrite tReport with ember := { (tAfter .emberWrite tReport).ember with queues := tReport.ember.queues } }
    s.nextSource = some 9 ∧ s.coalesces 9 ⟨0x14, 1, 2, 3, 0⟩ = some 0 ∧ (tAfter .emberWrite s).num (0x2001600000 + 12) 2 = 2 ∧
    (tAfter .emberWrite s).nextSeq = 1 := by decide +kernel
theorem test_hello : let h := leBytes 2 1 ++ leBytes 2 0 ++ leBytes 4 0 ++ leBytes 32 (1 + 2 ^ 33)
    tTakes (tMail 1 40 h tUp) 1 40 = true ∧ (tAfter .hello (tMail 1 40 h tUp)).mail.features = BitVec.ofNat 256 (1 + 2 ^ 33) ∧
    (tAfter .hello (tMail 1 40 h tUp)).fld Reg.hifMailStat 7 0 = 1 ∧
    (tAfter .hello (tMail 1 40 (leBytes 2 2 ++ h.drop 2) tUp)).fld Reg.hifMailStat 7 0 = 18 := by decide +kernel
theorem test_ping : tTakes (tMail 4 3 [1, 2, 3] tUp) 4 3 = true ∧ tAnswers (tAfter .ping (tMail 4 3 [1, 2, 3] tUp)) 4 0 [1, 2, 3] = true ∧
    tTakes (tMail 4 54 [1] tUp) 4 54 = true := by decide +kernel
theorem test_mailDoorbell : (tAfter (.mailDoorbell .pf) { tUp with mem := [(0x2001400040, 9)] }).mail.known = 9 ∧
    (tAfter (.mailDoorbell (.vf 0)) tUp).fld Reg.dbgViolCount 31 0 = 1 := by decide +kernel
theorem test_f2hPost : let s := { tUp with mail := { up := true, waiting := [message 4 1 7 []] } }
    s.f2hRoom = true ∧ (message 4 1 7 []).length = 64 ∧ s.h2fCi = s.mail.known ∧ (tAfter .f2hPost s).mail.waiting = [] ∧
    (tAfter .f2hPost s).f2hPi = 1 := by decide +kernel

/-! ### Attestation, live update and power messages -/

/-- The payload ADDR, then one number. -/
def tAddr (a n k : Nat) : List Byte := leBytes 8 a ++ leBytes n k
theorem test_quote_locked : let s := (tMail 0x101 16 (tAddr 0 1 255) tRun).setBit Reg.secBootstat 11 true
    tTakes s 0x101 16 = true ∧ tAnswers (tAfter .quote s) 0x101 7 [] = true := by decide +kernel
theorem test_quote : let s := tMail 0x101 16 (tAddr 0 1 1) tRun
    tTakes s 0x101 16 = true ∧ s.bit Reg.secBootstat 11 = false ∧ s.inGddrStaging 0 688 = true ∧ (0 + 688 ≤ mailBase) ∧
    ∃ t, exec .quote s = .next t := ⟨by decide +kernel, by decide +kernel, by decide +kernel, by decide +kernel, _, rfl⟩
theorem test_eventLog : let s := tMail 0x103 16 (tAddr 0 4 64) tRun
    tTakes s 0x103 16 = true ∧ (eventLogBytes s).length = 64 ∧ tAnswers (tAfter .eventLog s) 0x103 0 [0, 0, 64, 0, 0, 0] = true := by decide +kernel
theorem test_eventLog_short : let s := tMail 0x103 16 (tAddr 0 4 63) tRun
    63 < (eventLogBytes s).length ∧ tAnswers (tAfter .eventLog s) 0x103 2 [] = true := by decide +kernel
theorem test_cert : let s := tMail 0x102 16 (tAddr 0 4 (2 ^ 32 - 1)) tRun
    tTakes s 0x102 16 = true ∧ ∃ t, exec .cert s = .next t := ⟨by decide +kernel, _, rfl⟩
theorem test_extend : let s := tMail 0x104 8 (tAddr 0 1 0) tRun
    tTakes s 0x104 8 = true ∧ s.inGddrStaging 0 64 = true ∧ s.boot.evLog.length < 256 ∧ (tAfter .extend s).boot.evLog.length = 1 := by decide +kernel
theorem test_extend_full : let s := { tMail 0x104 8 (tAddr 0 1 0) tRun with boot := { tRun.boot with evLog := List.replicate 256 ⟨0, 0, 0, 0, 0, 0, 0⟩ } }
    tTakes s 0x104 8 = true ∧ 256 ≤ s.boot.evLog.length ∧ tAnswers (tAfter .extend s) 0x104 13 [] = true := by decide +kernel
/-- Main firmware runs, from bank 0. -/
def tImage (v : W32) (bank : BitVec 1) : Image :=
  { version := v, arbSet := 0, entry := 0, blobOut := 1, blobMin := 1, bank := bank, source := 1, cause := 0, measure := 0 }
/-- A request about a container at address 0 of a KIND, with a counter above its version. -/
def tUpdate (type k : Nat) (counter : Nat) : State :=
  let s := tMail type 8 (tAddr 0 1 0) ((tRun.setFld Reg.secArb0 31 0 counter).setFld Reg.secArb0 63 32 counter)
  { s with boot := { s.boot with running := some (tImage 2 0) }, mem := mwrite s.mem 0 ((tHeader k).take 128) }
theorem test_updateLoad : let s := tUpdate 0x110 2 9
    tTakes s 0x110 8 = true ∧ s.boot.running.isSome = true ∧ s.inGddrStaging 0 4096 = true ∧
    ((takeReq s).checkContainer 2 0).map (·.2.2) = some 1 ∧ (tAfter .updateLoad s).boot.loaded = none ∧
    tAnswers (tAfter .updateLoad s) 0x110 9 ([0, 0] ++ leBytes 4 3 ++ [1, 0]) = true := by decide +kernel
theorem test_updateLoad_broken : let s := tUpdate 0x110 1 9
    (takeReq s).checkContainer 2 0 = none ∧ tAnswers (tAfter .updateLoad s) 0x110 8 [] = true := by decide +kernel
/-- A loaded image waits beside the running one. -/
def tLoaded (type len : Nat) : State :=
  let s := tMail type len [] tRun
  { s with boot := { s.boot with running := some (tImage 2 0), loaded := some (tImage 3 1) } }
theorem test_updateCommit : tTakes (tLoaded 0x111 0) 0x111 0 = true ∧ (tLoaded 0x111 0).snuffed = false ∧
    (tAfter .updateCommit (tLoaded 0x111 0)).boot.handover.isSome = true ∧
    tAnswers (tAfter .updateCommit (tMail 0x111 0 [] tRun)) 0x111 10 [] = true := by decide +kernel
theorem test_updateAbort : tTakes (tLoaded 0x112 0) 0x112 0 = true ∧ (tAfter .updateAbort (tLoaded 0x112 0)).boot.loaded = none := by decide +kernel
theorem test_handover : let s := tAfter .updateCommit (tLoaded 0x111 0)
    s.up = true ∧ s.boot.fwStopped = false ∧ s.boot.blob.map (·.1) = some 1 ∧
    (tAfter .newImageLoopsStarted s).boot.running = some (tImage 3 1) ∧ (tAfter .handoverTimeout s).boot.running = some (tImage 2 0) := by
  decide +kernel
theorem test_stage1Write : let s := tUpdate 0x113 1 9
    tTakes s 0x113 8 = true ∧ ((takeReq s).checkContainer 1 0).map (·.2.2) = some 1 ∧ (tAfter .stage1Write s).boot.flashB = [] := by decide +kernel
theorem test_stage1Write_broken : let s := tUpdate 0x113 2 9
    (takeReq s).checkContainer 1 0 = none ∧ tAnswers (tAfter .stage1Write s) 0x113 8 [] = true := by decide +kernel
theorem test_nvmWrite : let s := { tMail 0x114 16 (tAddr 0 4 4096 ++ leBytes 4 0) tRun with boot := { tRun.boot with nvmSize := 8192 } }
    tTakes s 0x114 16 = true ∧ s.inGddrStaging 0 0 = true ∧ tAnswers (tAfter .nvmWrite s) 0x114 0 [] = true := by decide +kernel
theorem test_setCap : let s := fun c => tMail 0x201 8 (leBytes 2 c) tRun
    tTakes (s 2500) 0x201 8 = true ∧ (s 2500).pwrState ≠ 3 ∧ (tAfter .setCap (s 2500)).pwr.capNext = some 2500 ∧
    (tAfter .setCap (s 7500)).pwr.capNext = some 7500 ∧ (tAfter .setCap (s 2499)).pwr.capNext = none ∧
    tAnswers (tAfter .setCap (s 7501)) 0x201 14 [] = true := by decide +kernel
theorem test_setAclkMax : let s := fun c => tMail 0x202 8 (leBytes 2 c) tRun
    tTakes (s 300) 0x202 8 = true ∧ (tAfter .setAclkMax (s 300)).pwr.ceilNext = some 300 ∧ (tAfter .setAclkMax (s 900)).pwr.ceilNext = some 900 ∧
    tAnswers (tAfter .setAclkMax (s 310)) 0x202 14 [] = true ∧ tAnswers (tAfter .setAclkMax (s 925)) 0x202 14 [] = true := by decide +kernel
theorem test_idleEnter : let s := tMail 0x203 0 [] tRun
    tTakes s 0x203 0 = true ∧ s.pwrState = 0 ∧ s.quiescent = true ∧ (tAfter .idleEnter s).pwrState = 1 ∧ (tAfter .idleEnter s).fabric.selfRefresh = true ∧
    (s.setFld Reg.glbStatus 4 4 1).quiescent = false ∧ tAnswers (tAfter .idleEnter (s.setFld Reg.glbStatus 4 4 1)) 0x203 6 [] = true := by decide +kernel
theorem test_idleExit : let s := tMail 0x204 0 [] tRun
    let d := s.setFld Reg.pwrStatus 41 40 1
    tTakes s 0x204 0 = true ∧ s.pwrState = 0 ∧ tAnswers (tAfter .idleExit s) 0x204 0 [] = true ∧ tTakes d 0x204 0 = true ∧ d.pwrState = 1 ∧
    d.stopped = false ∧ (tAfter .idleExit d).pwrState = 2 := by decide +kernel
theorem test_wakeDone : let s := { tRun.setFld Reg.pwrStatus 41 40 2 with clock := { timeF := 2000000 } }
    s.up = true ∧ s.pwrState = 2 ∧ s.hpwrRested = true ∧ s.dbg.waiting = false ∧ ({ s with pins := { s.pins with hpwrEn := false } } : State).hpwrRested = true ∧
    ∃ t, exec .wakeDone s = .next t := ⟨by decide +kernel, by decide +kernel, by decide +kernel, by decide +kernel, by decide +kernel, _, rfl⟩

/-! ### Translation, queues and issue -/

theorem test_inval : let u := bump tUp 88 4
    tUp.stopped = false ∧ u.mayPart .pf 3 = true ∧ u.bit (fnKey 0 Reg.mmuInvStatus) 0 = false ∧
    (tAfter (.invPartition .pf 3) tUp).mmu.invs = [⟨0, 3, 0, 0, 0⟩] ∧ (tAfter (.invSlot .pf 3 1023) tUp).mmu.invs = [⟨0, 3, 2, 1023, 0⟩] ∧
    (tAfter (.invRange .pf 3) tUp).mmu.invs = [] ∧
    (tAfter (.invRange .pf 3) (tUp.setReg Reg.mmuInvAddr 0x1000000005000)).mmu.invs = [⟨0, 3, 1, 5, 1⟩] ∧
    (tAfter (.invPartition .pf 3) (tUp.setBit Reg.mmuInvStatus 0 true)).mmu.invs = [] ∧
    (bump tUp 88 4).mayPart (.vf 2) 3 = false ∧ (tAfter (.invPartition (.vf 2) 3) tUp).mmu.invs = [] := by decide +kernel
theorem test_invDone : let s := { tUp.setReg (Reg.qmPart 3) 0x10001 with mmu := { invs := [⟨0, 3, 0, 0, 0⟩], tlb := [(0, [⟨0x1000, 4096, 0, true⟩]), (1, [⟨0x1000, 4096, 0, true⟩])] } }
    (tAfter .invDone s).bit Reg.mmuInvStatus 1 = true ∧ tget [] (tAfter .invDone s).mmu.tlb 0 = [] ∧
    (tget [] (tAfter .invDone s).mmu.tlb 1).length = 1 := by decide +kernel
theorem test_mmuCommit : (bump tRun 88 4).ready = true ∧ mmuSetBad (bump tRun 88 4) = false ∧
    (tAfter (.mmuCommit .pf) { tRun with mmu := { pend := [(Reg.mmuRoot 1, 0x5001)] } }).mmu.pend = [] := by decide +kernel
/-- An entry of a queue of partition 0 with rings of 16 slots. -/
def tEntry : List Byte := padTo 64 (leBytes 8 4 ++ leBytes 8 8 ++ leBytes 8 0 ++ leBytes 4 0 ++ leBytes 4 0 ++ leBytes 8 0x10000)
/-- The queue table stands at address 0 with one entry for queue 0. -/
def tTab : State := { (tRun.setReg (Reg.qmPart 0) 0x1FFFF).setReg Reg.qmQtab 1 with mem := mwrite [] 0 tEntry }
theorem test_enable : let u := bump tTab 88 4
    u.reg Reg.qmQtab = 1 ∧ mread tTab.mem 0 64 = tEntry ∧ u.markIn 0 64 = none ∧ u.lostIn false 0 64 = none ∧ u.deadIn 0 64 = none ∧
    entryOk tEntry = true ∧ queueFits u (entryQueue tEntry) = true ∧ ((tAfter (.enable .pf 0) tTab).queue 0).state = .active := by decide +kernel
theorem test_fetch : let s := tAfter (.enable .pf 0) tTab
    let q := { s with qm := { queues := [(0, { s.queue 0 with tail := 1 })] } }
    fetchAt q (q.queue 0) = some 0 ∧ ((tAfter (.descriptorFetch 0) q).queue 0).ahead.map (·.idx) = [0] := by decide +kernel
theorem test_writeRecord : let s := { tUp with hif := { linkUp := true }, qm := { queues := [(0, { cplHost := true, cplLog := 4, cplBase := 0x1000 })] } }
    (s.queue 0).cplPi + 4 ≤ 0x1000 ∧ ((writeRecord s 0 5 1 2 3 0 0 0).queue 0).pi = 1 ∧ leAt (mread (writeRecord s 0 5 1 2 3 0 0 0).hostMem 0x1000 32) 0 8 = 5 := by
  decide +kernel
/-- The bytes of a doorbell. -/
def tBell (tail ci : Nat) : List Byte := leBytes 4 tail ++ leBytes 4 ci
theorem test_doorbell : let s := tQ []
    let u := bump s 88 8
    u.noBells = false ∧ dist32 5 (s.queue 0).head ≤ 16 ∧ ahead32 16 (s.queue 0).tail = true ∧ ((tAfter (.queueDoorbell .pf 0 (tBell 16 0)) s).queue 0).tail = 16 ∧
    ((tAfter (.queueDoorbell .pf 0 (tBell 17 0)) s).queue 0).tail = 16 ∧ (bump (tUp) 88 8).noBells = true ∧ (tBell 16 0).length = 8 ∧
    (tAfter (.queueDoorbell .pf 4 (tBell 16 0)) s).fld Reg.dbgViolLast 43 40 = 7 := by decide +kernel
theorem test_disable : ((tAfter (.disable .pf 0) (tQ (tDesc 0 0 [] [] []))).queue 0).disabling = true ∧
    (tAfter (.queueDisabled 0) (tAfter (.disable .pf 0) (tQ (tDesc 0 0 [] [] [])))).queue 0 =
      { (tQ []).queue 0 with state := .disabled, ahead := [] } := by decide +kernel
theorem test_cancel : let s := tAfter (.cancel .pf 0) (tQ (tDesc 0 0 [] [] []))
    (s.queue 0).state = .cancelling ∧ ((tAfter (.cancelDrained 0) s).queue 0).state = .disabled ∧ ((tAfter (.cancelDrained 0) s).queue 0).pi = 1 ∧
    ((tAfter (.cancelDrained 0) s).queue 0).ip = 16 := by decide +kernel
theorem test_resume : let s := { tQ [] with qm := { queues := [(0, { state := .faulted, ringLog := 4, cplLog := 4, tail := 16, fault := some (3, [], tDesc 0 0 [] [] []) })] } }
    ((tAfter (.resume .pf 0) s).queue 0).ip = 3 ∧ ((tAfter (.resumeSkip .pf 0) s).queue 0).ip = 4 := by decide +kernel
theorem test_sems : (tAfter (.semopAdd .pf 16383 4294967295) (tRun.setSem 16383 3)).sem 16383 = 2 ∧ (tAfter (.semopSet .pf 0 7) tRun).sem 0 = 7 ∧
    (bump tRun 88 8).partOfVf 4 = none ∧ (tAfter (.semopSet (.vf 4) 0 7) tRun).sem 0 = 0 := by decide +kernel
/-- A descriptor is good and may issue, and the command puts it into flight. -/
def tIssues (c : BitVec 16 → Instr) (d : List Byte) : Bool :=
  (readBad d).isNone && mayIssue (tQ d) 0 ⟨0, d, none⟩ && ((tAfter (c 0) (tQ d)).queue 0).items.map (fun i => (i.uid, i.bytes == d)) == [(0, true)]
theorem test_control : tIssues .dNop (tDesc 0 0 [] [] []) = true ∧ tIssues .dFence (tDesc 3 0 [] [] []) = true ∧ tIssues .dBarrier (tDesc 4 0 [] [] []) = true ∧
    tIssues .dWait ((tDesc 1 0 [] [] []).set 49 64) = true ∧ tIssues .dSignal ((tDesc 2 0 [] [] []).set 51 64) = true := by decide +kernel
theorem test_repeat : tIssues .dRepeat (tDesc 5 0 [] [] [1, 0, 2, 0]) = true ∧ ((tAfter (.dRepeat 0) (tQ (tDesc 5 0 [] [] [1, 0, 2, 0]))).queue 0).ip = 1 ∧
    ((tAfter (.dRepeat 0) (tQ (tDesc 5 0 [] [] [1, 0, 0, 0]))).queue 0).ip = 2 := by decide +kernel
theorem test_movers : tIssues .dLoadb (tDesc 6 0 (tOp 0 10) [1, 1, 1, 1, 1, 1] [0, 1]) = true ∧
    tIssues .dCopy (tDesc 8 0 (tOp 0 0 ++ tNo ++ tOp 4096 0) [4, 1, 1, 1, 1, 1] []) = true ∧
    tIssues .dPrefetch ((tDesc 9 0 (tOp 0 0 ++ tNo ++ tOp (255 * 2 ^ 40) 0) [4, 1, 1, 1, 1, 1] []).set 32 1) = true := by decide +kernel
theorem test_refuse : let d := tDesc 9 0 (tOp 0 0 ++ tNo ++ tOp (255 * 2 ^ 40) 0) [4, 1, 1, 1, 1, 1] []
    let s := tQ d
    issueBad (issueCtx s (s.queue 0) ⟨0, d, none⟩) d = some (0x12, 0xFFFF) ∧ offered s (partKind d) (s.queue 0) = true ∧
    condSelected s 0 (s.queue 0) (partKind d) = true ∧ condSlots (s.queue 0) = true ∧
    ((tAfter (.descriptorRefuse 0) s).queue 0).items.map (·.status) = [0x12] := by decide +kernel
theorem test_refuse_read : let s := { tQ [] with qm := { queues := [(0, { state := .active, ringLog := 4, cplLog := 4, tail := 16, ahead := [⟨0, [], some (0x12, 2)⟩] })] } }
    condActive (s.queue 0) ⟨0, [], some (0x12, 2)⟩ = true ∧ condEarlier s (s.queue 0) ⟨0, [], some (0x12, 2)⟩ = true ∧
    ((tAfter (.descriptorRefuse 0) s).queue 0).items.map (fun i => (i.status, i.info)) = [(0x12, 2)] := by decide +kernel
/-- A WAIT for semaphore 0 to reach 1, in a queue with a time limit. -/
def tWaits : State :=
  let d := ((tDesc 1 0 [] [] []).set 49 64).set 52 1
  let s := tQ d
  { s with qm := { queues := [(0, { s.queue 0 with timeoutUs := 5 })] } }
theorem test_waitTimeout : let f := ((tWaits.queue 0).ahead.headD ⟨0, [], none⟩)
    condActive (tWaits.queue 0) f = true ∧ condEarlier tWaits (tWaits.queue 0) f = true ∧ dWaitEn f.bytes = true ∧ waitOk tWaits f.bytes = false ∧
    ((tAfter (.waitTimeout 0) tWaits).queue 0).items.map (·.status) = [0x10] := by decide +kernel
theorem test_partitionStall : let s := tWaits.setReg Reg.qmStallTime 1
    ((s.queuesOf 0).filter fun y => y.2.runnable).length = 1 ∧ heldBySem s (s.queue 0) = true ∧ partItems s 0 = [] ∧
    (tAfter (.partitionStall 0) s).bit Reg.qmStall 0 = true := by decide +kernel
/-- A MATMUL of one output in the local buffer, with every region in its masks. -/
def tMatmul : List Byte :=
  let w := 0xFF * 2 ^ 40
  let d := tDesc 0x10 0 (tOp w 1 ++ tOp (w + 4096) 1 ++ tOp (w + 8192) 10) [1, 1, 1, 1, 1, 1] (List.replicate 20 0 ++ leBytes 4 0xFF800000 ++ leBytes 4 0x7F800000)
  d.take 16 ++ List.replicate 12 255 ++ leBytes 4 0 ++ List.replicate 12 255 ++ d.drop 44
/-- The same with a program slot filled on core 0, the one core of the partition. -/
def tIssuesElem (d : List Byte) : Bool :=
  let s := { (tQ d).setReg (Reg.qmPart 0) 0x10001 with qm := { (tQ d).qm with cores := [(0, { progs := [(0, [2, 1, 0, 0])] })] } }
  (readBad d).isNone && mayIssue s 0 ⟨0, d, none⟩ && ((tAfter (.dElem 0) s).queue 0).items.map (fun i => (i.uid, i.bytes == d)) == [(0, true)]
/-- The same of a partition that may run attention. -/
def tIssuesAttn (d : List Byte) : Bool :=
  let s := (tQ d).setReg (Reg.qmPart 0) 0x3FFFF
  (readBad d).isNone && mayIssue s 0 ⟨0, d, none⟩ && ((tAfter (.dAttn 0) s).queue 0).items.map (fun i => (i.uid, i.bytes == d)) == [(0, true)]
/-- The block of a convolution with stride, dilation and groups 1. -/
def tConv : List Byte := List.replicate 28 0 ++ [4, 0, 4, 0, 0, 0, 0x11, 0x11, 1, 0]
/-- Operands A, B and C of three formats. -/
def tAbc (a b c : Nat) : List Byte := tOp 0 a ++ tOp 4096 b ++ tOp 8192 c
/-- An index tensor in place of B. -/
def tIdx : List Byte := tOp 0 1 ++ tNo ++ tOp 8192 1 ++ tOp 4096 10
theorem test_convs : tIssues .dConv (tDesc 0x12 0 (tAbc 1 1 10) [1, 1, 1, 1, 1, 1] tConv) = true ∧
    tIssues .dConvw (tDesc 0x13 0 (tAbc 1 11 10) [1, 3, 3, 1, 1, 1] tConv) = true ∧
    tIssues .dDwconv (tDesc 0x14 0 (tAbc 1 1 10) [1, 1, 1, 1, 1, 1] tConv) = true ∧
    tIssues .dDist (tDesc 0x15 2 (tAbc 1 1 10) [1, 1, 1, 1, 1, 1] []) = true := by decide +kernel
theorem test_indexed : tIssues .dGather ((tDesc 0x0A 0 tIdx [1, 1, 1, 1, 1, 1] []).set 2 16) = true ∧
    tIssues .dScatter ((tDesc 0x0B 0 tIdx [1, 1, 1, 1, 1, 1] []).set 2 16) = true ∧
    tIssues .dPload ((tDesc 0x18 0 (tOp 0 1) [1, 1, 1, 1, 1, 1] []).set 4 64) = true := by decide +kernel
theorem test_elem : tIssuesElem (tDesc 0x18 0 (tOp 0 1 ++ tNo ++ tOp 8192 1) [1, 1, 1, 1, 1, 1] [0, 0, 8, 0, 0, 0, 0, 0, 0, 1, 0x55, 0x55]) = true := by
  decide +kernel
theorem test_attn_issue : tIssuesAttn ((((tDesc 0x20 0 (tOp 0 7 ++ tOp (2 ^ 47) 7 ++ tOp 8192 7) [1, 1, 1, 1, 1, 1] (leBytes 6 (2 ^ 47))).set 38 255).set 39
    255).set 43 255) = true := by decide +kernel
theorem test_compute : tIssues .dMatmul tMatmul = true ∧ execFree (tQ tMatmul) 0 tMatmul = true ∧ ((tAfter (.dMatmul 0) (tQ tMatmul)).win 0).exec.isSome = true := by
  decide +kernel
theorem test_matvec : tIssues .dMatvec (tDesc 0x11 0 (tAbc 1 1 10) [1, 1, 1, 1, 1, 1] []) = true := by decide +kernel
theorem test_reduce : tIssues .dReduce (tDesc 0x19 0 (tOp 0 1 ++ tNo ++ tOp 8192 1) [1, 1, 1, 1, 1, 1] []) = true := by decide +kernel
theorem test_compute_next : let s := { tQ tMatmul with qm := { (tQ tMatmul).qm with wins := [(0, { exec := some ⟨9, 9, 0, [], [], 0, 0, 0, false, {}, 0, none, 0, false, []⟩ })] } }
    mayIssue s 0 ⟨0, tMatmul, none⟩ = true ∧ execFree s 0 tMatmul = false ∧ ((tAfter (.dMatmul 0) s).win 0).next = some (0, 0) := by decide +kernel

/-! ### Units, drains, completion, the attention ring and the cyclic table -/

/-- An item of a descriptor in flight. -/
def tItem (d : List Byte) : Item := ⟨0, 0, d, [], dBounds [] d, [], true, false, false, false, 0, 0, 0, 0, 0, []⟩
/-- A run of it. -/
def tRunOf (rs : Tab (Nat × Nat)) : Run := { q := 0, uid := 0, units := 4, ranges := rs }
/-- A descriptor in EXEC with its units in ranges, with cores of a mask. -/
def tExec (d : List Byte) (rs : Tab (Nat × Nat)) (mask : Nat) : State :=
  { (tQ d).setReg (Reg.qmPart 0) (BitVec.ofNat 64 (0x10000 + mask)) with
    qm := { queues := [(0, { state := .active, ringLog := 4, cplLog := 4, tail := 16, ip := 1, items := [tItem d] })], issued := 1
            wins := [(0, { exec := some (tRunOf rs) })] } }
theorem test_ahead : let s := { tExec tMatmul [(0, (0, 1))] 1 with mem := mwrite (mwrite [] bufBase [3]) (bufBase + 4096) [5] }
    (s.coreRun 0).isSome = true ∧ ((s.coreRun 0).map fun x => grantsOpen s x && wantsUnit s 0 x.item) = some true ∧
    ((tAfter (.aheadRequest 0) s).core 0).bank0.isSome = true ∧
    (mread (tAfter (.tileDrain 0 0) (tAfter (.aheadRequest 0) s)).mem (bufBase + 8192) 4 = [15, 0, 0, 0]) := by decide +kernel
theorem test_steal : let s := tExec tMatmul [(1, (0, 4))] 3
    ((s.coreRun 0).map fun x => (mayThieve s 0 x, richest x.run 0 0, tget false x.run.dry 0)) = some (true, some 1, false) ∧
    (((tAfter (.localSteal 0) s).win 0).exec.map fun r => (r.range 0, r.range 1)) = some ((3, 4), (0, 2)) := by decide +kernel
theorem test_steal_none : let s := tExec tMatmul [(4, (0, 4))] 0x11
    ((s.coreRun 0).map fun x => (mayThieve s 0 x, richest x.run 0 0)) = some (true, none) ∧
    (((tAfter (.localSteal 0) s).win 0).exec.map fun r => r.dry) = some [(0, true)] := by decide +kernel
theorem test_remoteSteal : let s := tAfter (.localSteal 0) (tExec tMatmul [(4, (0, 4))] 0x11)
    ((s.coreRun 0).map fun x => (nextAsked s 0 1 x, richest x.run 1 0)) = some (true, some 4) ∧
    (((tAfter (.remoteSteal 0 1) s).win 0).exec.map fun r => (r.range 0, r.range 4)) = some ((3, 4), (0, 2)) := by decide +kernel
/-- A REDUCE of two elements to a maximum, in the local buffer. -/
def tReduce : List Byte :=
  let w := 0xFF * 2 ^ 40
  let d := tDesc 0x19 0 (tOp w 1 ++ tNo ++ tOp (w + 8192) 1) [1, 1, 1, 1, 1, 1] []
  d.take 16 ++ List.replicate 12 255 ++ leBytes 4 0 ++ List.replicate 12 255 ++ d.drop 44
theorem test_elemBatch : let s := { tExec tReduce [] 1 with qm := { (tExec tReduce [] 1).qm with cores := [(0, { unit := some 0 })] } }
    (s.core 0).unit = some 0 ∧ (s.coreRun 0).isSome = true ∧ (tAfter (.elemBatch 0) s).free = s.free + 1 := by decide +kernel
/-- A MATMUL with WIDEN and an INT8 output whose one output has saturated. -/
def tWiden : State :=
  let w := 0xFF * 2 ^ 40
  let d := (tDesc 0x10 0 (tOp w 1 ++ tOp (w + 4096) 1 ++ tOp (w + 8192) 1) [1, 1, 1, 1, 1, 1] []).set 4 2
  let e := (d.set 16 1).set 32 4
  let s := tExec e [] 1
  { s with qm := { s.qm with wins := [(0, { exec := some { tRunOf [] with sat := 1, outputs := 1 } })] } }
theorem test_widen : ((tWiden.running? 0).map widenDue) = some true ∧
    (((tAfter (.widenRerun 0) tWiden).win 0).exec.map fun r => (r.widened, r.outputs)) = some (true, 0) := by decide +kernel
theorem test_finish : let s := tExec tMatmul [] 1
    ((s.running? 0).map fun x => execEnded s x && !s.cancelling 0) = some true ∧ (s.win 0).next = none ∧
    ((tAfter (.descriptorFinish 0 0) s).queue 0).items.map (fun i => (i.finished, i.status)) = [(true, 0)] := by decide +kernel
/-- A mover in flight. -/
def tMover : State :=
  let s := tExec (tDesc 6 0 (tOp (0xFF * 2 ^ 40) 10) [1, 1, 1, 1, 1, 1] [0, 1]) [] 1
  { s with qm := { s.qm with wins := [(0, { movers := [(0, 0)] })] } }
theorem test_finish_mover : (tMover.win 0).movers[0]? = some (0, 0) ∧ (tMover.item 0 0).isSome = true ∧ tMover.cancelling 0 = false ∧
    ((tAfter (.descriptorFinish 0 1) tMover).queue 0).items.map (·.finished) = [true] := by decide +kernel
/-- A finished descriptor of a status. -/
def tDone (st : Byte) : State :=
  let s := tExec ((tDesc 0 0 [] [] []).set 51 64) [] 1
  { s with qm := { s.qm with wins := [], queues := [(0, { s.queue 0 with items := [{ tItem ((tDesc 0 0 [] [] []).set 51 64) with finished := true, status := st }] })] } }
theorem test_complete : ((tDone 0).queue 0).items.find? (mayComplete (tDone 0) ((tDone 0).queue 0)) = ((tDone 0).queue 0).items.head? ∧
    ((tAfter (.descriptorComplete 0) (tDone 0)).queue 0).items = [] ∧ ((tAfter (.descriptorComplete 0) (tDone 0)).queue 0).state = .active ∧
    (tDone 0x20).stopped = false := by decide +kernel
theorem test_complete_fault : ((tAfter (.descriptorComplete 0) (tDone 0x20)).queue 0).state = .faulted ∧
    ((tAfter (.descriptorComplete 0) (tDone 0x20)).queue 0).lastStatus = 0x20 ∧ ((tAfter (.descriptorComplete 0) (tDone 0x20)).queue 0).pi = 1 := by
  decide +kernel
/-- An ATTN of one head of one component over two blocks, with one core in each Hearth. -/
def tAttnDesc : List Byte :=
  tDesc 0x20 0 (tOp 0 7 ++ tOp (2 ^ 47) 7 ++ tOp 8192 7) [1, 1, 512, 1, 1, 1] (leBytes 6 (2 ^ 47))
def tAttn (a : AttnRun) : State :=
  let s := tExec tAttnDesc [] 0x1111
  { s with attn := some a }
/-- The attention run at its start. -/
def tA : AttnRun := { part := 0, q := 0, uid := 0, prob := 0, tile0 := 0, line := false }
/-- A block held in a Hearth. -/
def tHeld (h b : Nat) : Held := ⟨h, b, false, [], [], [], [], false, false⟩
theorem test_attnRead : (tAttn tA).attnNow.isSome = true ∧ hearthCores (tAttn tA) 0 0 = [0] ∧ kthBlock false false 0 0 < 2 ∧ hasSpace tA 0 false = true ∧
    ∃ t, exec (.attnBlockRead 0) (tAttn tA) = .next t := ⟨by decide +kernel, by decide +kernel, by decide +kernel, by decide +kernel, _, rfl⟩
theorem test_attnArrive : let a := { tA with held := [tHeld 0 0], got := [(2, 1)] }
    ((arrival (tAttn a) a 2 1).map (·.2)) = some false ∧ ((tAfter (.attnBlockArrive 1) (tAttn a)).attn.map fun x => tget 0 x.got 2) = some 2 ∧
    (arrival (tAttn { a with got := [] }) { a with got := [] } 2 1).isNone = true := by decide +kernel
theorem test_attnAbsorb : let a := { tA with held := [tHeld 0 0] }
    a.held.find? (fun y => y.hearth == 0 && !y.done.contains 0) = some (tHeld 0 0) ∧ rowsOfCore (tAttn a) a (dBounds [] tAttnDesc) 0 = [0] ∧
    ∃ t, exec (.attnBlockAbsorb 0) (tAttn a) = .next t := ⟨by decide +kernel, by decide +kernel, _, rfl⟩
theorem test_attnMerge : let a := { tA with absorbed := [(0, 2)] }
    attnBlocks (dBounds [] tAttnDesc) = 2 ∧ tilesOfCore (tAttn a) a (dBounds [] tAttnDesc) 0 = [0] ∧
    ∃ t, exec (.attnMerge 0) (tAttn a) = .next t := ⟨by decide +kernel, by decide +kernel, _, rfl⟩
/-- A cycle of 100 µs with two slots of partition 0, of groups 1 and 2 with a guard of 20 µs, at a time. -/
def tCyc (ns : Nat) : State :=
  let e := fun (g : Nat) => BitVec.ofNat 64 (g * 16 + 5 * 2 ^ 16 + 20 * 2 ^ 48)
  { tRun.setReg Reg.qmCycle 10 with clock := { timeF := BitVec.ofNat 64 ns }, qm := { slots := [e 1, e 2] } }
theorem test_cycleStart : (tCyc 0).tableOn = true ∧ (tCyc 0).cyclePos < 10 ∧ (tCyc 0).qm.cycles = 0 ∧ (tAfter .cycleStart (tCyc 100009)).qm.cycles = 1 ∧
    (tAfter .cycleStart (tCyc 100010)).qm.cycles = 0 := by decide +kernel
theorem test_slot : slotOn (tCyc 50000) 1 = true ∧ inSlotNow (tCyc 50000) 1 = true ∧ ((tCyc 50000).win 0).slot = none ∧
    ((tAfter (.slotStart 1) (tCyc 50000)).win 0).slot = some 1 ∧
    (let s := (tCyc 100000).modWin 0 fun w => { w with slot := some 1 }
     inSlotNow s 1 = false ∧ ((tAfter (.slotEnd 1) s).win 0).slot = none) := by decide +kernel
theorem test_quiet : slotPart ((tCyc 0).slotEntry 1) = 0 ∧ slotGroup ((tCyc 0).slotEntry 1) = 2 ∧ inGuardNow (tCyc 40000) 1 = true ∧
    groupBefore (tCyc 40000) 1 = some 1 ∧ ((tAfter (.quietPeriodStart 1) (tCyc 40000)).win 0).quiet = some 1 := by decide +kernel
theorem test_quiet_withdraws :
    let s := { tCyc 40000 with qm := { (tCyc 40000).qm with wins := [(0, { next := some (0, 0) })], queues := (tExec tMatmul [] 1).qm.queues } }
    (s.item 0 0).isSome = true ∧ (s.queue 0).lc = false ∧ ((tAfter (.quietPeriodStart 1) s).queue 0).items.map (fun i => (i.back, i.reserves)) = [(true, false)] ∧
    ((tAfter (.quietPeriodStart 1) s).win 0).next = none := by decide +kernel

/-! ### Streams, decode, encode, capture and frame sync -/

/-- A sound decode block: H.264 level 4.0, 64 by 64, one pipe, one DPB buffer, two segments of 4 KiB. -/
def tPar : List Byte := padTo 128 ([0, 40, 0x10, 1, 64, 0, 64, 0, 0, 0, 2, 12, 1, 0, 1, 0])
/-- A sound encode block of one frame a second. -/
def tEncPar : List Byte := padTo 128 ([0, 40, 0x10, 0, 64, 0, 64, 0, 0, 0, 2, 12] ++ List.replicate 68 0 ++ [1, 0, 1, 0])
/-- The pool is set up, and a parameter block stands at address 0. -/
def tMed (p : List Byte) : State := { tRun with media := { areas := some ⟨0, 0, 16, 4096, 0x10000000⟩ }, mem := mwrite [] 0 p }
/-- Handle 5 is open. -/
def tStr (x : Stream) (pool : Tab Buf) : State :=
  { tRun with media := { areas := some ⟨0, 0, 16, 4096, 0x10000000⟩, streams := [(5, x)], pool := pool } }
/-- A free buffer of handle 5. -/
def tBuf : Buf := { owner := 5, part := 0, segment := false, addr := 0x10000000, grans := 1, pitch := 256, lines := 64 }
/-- What a CLOSE, OPEN or another stream command reports. -/
def tStat (t : State) : Nat × Bool := (t.fld Reg.mediaScmdStat 11 8, t.bit Reg.mediaScmdStat 1)
/-- An open decode stream and an open session. -/
def tDec : Stream := { kind := .decode, par := tPar }
def tEnc : Stream := { kind := .encode, par := tEncPar }
theorem test_open : decodeBad tPar = false ∧ encodeBad tEncPar = false ∧ handleBusy (tMed tPar) 5 = false ∧ (bump tRun 88 4).bit Reg.mediaScmdStat 0 = false ∧
    tStat (tAfter (.mediaOpen .pf 5) (tMed tPar)) = (0, true) ∧ ((tAfter (.mediaOpen .pf 5) (tMed tPar)).stream? 5).isSome = true := by decide +kernel
theorem test_openEnc : tStat (tAfter (.mediaOpenEnc .pf 5) (tMed tEncPar)) = (0, true) ∧
    ((tAfter (.mediaOpenEnc .pf 5) (tMed tEncPar)).stream? 5).isSome = true := by decide +kernel
theorem test_open_bad : decodeBad tEncPar = true ∧ encodeBad tPar = true ∧ tStat (tAfter (.mediaOpen .pf 5) (tMed tEncPar)) = (1, true) ∧
    tStat (tAfter (.mediaOpenEnc .pf 5) (tMed tPar)) = (1, true) := by decide +kernel
theorem test_close : (tStr tDec []).stream? 5 = some tDec ∧ mayStream (bump (tStr tDec []) 88 4) .pf tDec = true ∧
    (bump (tStr tDec []) 88 4).outside .pf = false ∧ (tAfter (.mediaClose .pf 5) (tStr tDec [])).stream? 5 = none ∧
    (tAfter (.mediaClose .pf 5) (tStr { tDec with dec := { parsing := some ⟨0, 0, 1, 0, 0⟩ } } [])).bit Reg.mediaScmdStat 0 = true := by decide +kernel
theorem test_flush : ((tAfter (.mediaFlush .pf 5) (tStr tDec [])).stream? 5).isSome = true ∧
    tStat (tAfter (.mediaFlush .pf 5) (tStr tDec [])) = (0, true) ∧ tStat (tAfter (.mediaSkipToRap .pf 5) (tStr tDec [])) = (0, true) ∧
    tStat (tAfter (.mediaForceIdr .pf 5) (tStr tEnc [])) = (0, true) := by decide +kernel
theorem test_mediaCommit : let s := (tStr tDec []).setFld Reg.mediaSsel 9 0 5
    (bump s 88 4).fld (fnKey 0 Reg.mediaSsel) 9 0 = 5 ∧ mediaSetBad .decode 0 0 = false ∧ mediaSetBad .decode 1 0 = true ∧ mediaSetBad .encode 1 0 = false ∧
    ((tAfter (.mediaCommit .pf) s).stream? 5).map (·.pend) = some (some (0, 0)) ∧
    ((tAfter (.mediaCommit .pf) { s with media := { s.media with pend := [(Reg.mediaSp0Pend, 1)] } }).bit Reg.mediaCommit 8) = true := by decide +kernel
theorem test_release : ((tAfter (.releaseOut .pf 3) (tStr tDec [(3, { tBuf with marks := 0xC })])).buf? 3).map (·.marks) = some 8 ∧
    ((tAfter (.releaseHold .pf 3) (tStr tDec [(3, { tBuf with marks := 0xC })])).buf? 3).map (·.marks) = some 4 ∧
    (tAfter (.releaseHold .pf 3) { tStr tDec [(3, { tBuf with owner := 6, marks := 8 })] with free := 0 }).buf? 3 = none := by decide +kernel
theorem test_reconReq : ahead32 0 tDec.dec.num = true ∧ ((tAfter (.reconReq .pf 5 false 7) (tStr tDec [])).stream? 5).map (·.dec.reqs) = some [some 7] := by
  decide +kernel
theorem test_bitstreamDoorbell : let s := bump (tStr tDec []) 88 8
    s.noBells = false ∧ dist32 8192 tDec.dec.cons ≤ pBsSize tDec.par ∧
    ((tAfter (.mediaDoorbell .pf 5 8192 [100]) (tStr tDec [])).stream? 5).map (fun y => (y.dec.write, y.dec.units.map (·.1))) = some (8192, [100]) := by
  decide +kernel
theorem test_auParseStart : let x := { tDec with dec := { write := 200, units := [(100, 9), (200, 9)] } }
    turnOf (tStr x []) [] 0 5 (fun _ y => mayParse y) = true ∧
    ((tAfter (.auParseStart 5 0) (tStr x [])).stream? 5).map (fun y => (y.dec.units, y.dec.parsing.isSome)) = some ([(200, 9)], true) := by decide +kernel
/-- A clean access unit with a picture that is shown and no reference. -/
def tAu : AuResult := ⟨true, false, false, true, 0, false, none, false, 0, 0, 1, false, false, false, false, 0, 64, 64, 4096, [], [], [], []⟩
theorem test_auParseDone : let x := { tDec with dec := { parsing := some ⟨0, 0, 100, 9, 0⟩, needRap := false } }
    tAu.dpbNeed ≤ pDpb x.par ∧ ((tAfter (.auParseDone 5 tAu) (tStr x [])).stream? 5).map (fun y => (y.dec.pos, y.dec.num, y.dec.frames.map (·.arrival))) =
      some (100, 1, [9]) := by decide +kernel
/-- A frame at a stage. -/
def tPic (policy : W64) (st : PicStage) : Pic := ⟨0, 0, 16, 16, 9, policy, 0, 0, 0, true, 0, [], st⟩
theorem test_reconDecision : let x := fun (p : W64) => { tDec with dec := { frames := [tPic p .undecided] } }
    pickedNow (x 0) (tPic 0 .undecided) false = true ∧ pickedNow (x 2) (tPic 2 .undecided) false = false ∧
    ((tAfter (.reconDecision 5) (tStr (x 0) [])).stream? 5).map (fun y => y.dec.frames.map (·.stage)) = some [.chosen] ∧
    ((tAfter (.reconDecision 5) (tStr (x 2) [])).stream? 5).map (fun y => y.dec.frames.map (·.stage)) = some [] := by decide +kernel
theorem test_pixelStart : let x := { tDec with dec := { frames := [tPic 0 .chosen] } }
    splitRunning x.dec.frames = ([], [tPic 0 .chosen]) ∧ (tStr x [(3, tBuf)]).freeBuf 5 3 = true ∧
    turnOf (tStr x [(3, tBuf)]) [] 0 5 (mayPixel (tStr x [(3, tBuf)])) = true ∧
    ((tAfter (.pixelFrameStart 5 0 3 []) (tStr x [(3, tBuf)])).buf? 3).map (·.taken) = some true := by decide +kernel
/-- A frame on pipe 0 in buffer 3. -/
def tPipeX : Stream := { tDec with dec := { frames := [tPic 0 (.onPipe 0 3)] } }
theorem test_reconDone : let r : ReconResult := ⟨[], [], false, false, .none, [], [], []⟩
    let t := tAfter (.reconDone 5 0 r) (tStr tPipeX [(3, { tBuf with taken := true })])
    (t.stream? 5).map (fun y => (y.dec.frames.length, y.dec.due.map (·.buf))) = some (0, [3]) ∧ (t.buf? 3).map (·.taken) = some false := by decide +kernel
theorem test_frameEmit : let x := { tDec with dec := { due := [⟨3, 0, 0, 64, 64, 9, 0⟩] } }
    emitWaits (tStr x []) 5 x = false ∧ ((tAfter (.frameEmit 5 3) (tStr x [(3, { tBuf with marks := 4 })])).stream? 5).map (fun y => (y.dec.due, tget 0 y.cnt 12)) =
      some ([], 1) := by decide +kernel
theorem test_frameEmit_waits : let p := (tPar.set 24 0x11).set 8 1
    let x := { tDec with par := p, dec := { due := [⟨3, 0, 0, 64, 64, 9, 0⟩] } }
    let s := tStr x [(3, { tBuf with marks := 4 }), (4, { tBuf with marks := 4 })]
    emitWaits s 5 x = true ∧ ((tAfter (.frameEmit 5 3) s).stream? 5).map (fun y => (y.dec.due.length, y.waitAt)) = some (1, some 0) := by decide +kernel
theorem test_encodeSubmit : let s := tStr tEnc [(3, { tBuf with marks := 8, picW := 64, picH := 64 })]
    sourceOk s tEnc 3 = true ∧ (bump s 88 8).noBells = false ∧ ((tAfter (.encodeSubmit .pf 5 0x4003) s).stream? 5).map (fun y => y.enc.subs) = some [3] ∧
    ((tAfter (.encodeSubmit .pf 5 0x900000003) s).stream? 5).map (fun y => (y.enc.subs, y.enc.consumed)) = some ([], 9) := by decide +kernel
theorem test_encodeStart : let x := { tEnc with enc := { subs := [3] } }
    let s := tStr x [(3, { tBuf with marks := 0x18, picW := 64, picH := 64 }), (4, tBuf)]
    encReady x = true ∧ encRoom x = true ∧ s.freeBuf 5 4 = true ∧ turnOf s [] 0 5 (fun _ y => encReady y && encRoom y) = true ∧
    ((tAfter (.encodeFrameStart 5 0 4) s).stream? 5).map (fun y => y.enc.run.map (fun e => (e.src, e.recon, e.idr))) = some (some (3, 4, true)) := by
  decide +kernel
/-- A session whose bucket of 1,000 bits is full, with a pass running. -/
def tPass (retried : Bool) (q : Nat) : Stream :=
  { tEnc with sp1 := 0x100000001, enc := { fill := 1000, run := some ⟨0, 3, 4, true, false, q, retried, false, [], []⟩ } }
/-- After the pass has made 4 bytes. -/
def tPassed (x : Stream) : Option Stream :=
  (tAfter (.encodePassDone 5 [1, 2, 3, 4] [] []) (tStr x [(3, { tBuf with marks := 0x18 }), (4, { tBuf with taken := true })])).stream? 5
theorem test_encodeDone : rateOf (tPass false 20) = 1 ∧ bucketBits (tPass false 20) = 1000 ∧
    (tPassed (tPass false 20)).map (fun y => y.enc.run.map (fun e => (e.q, e.retried))) = some (some (26, true)) ∧
    (tPassed (tPass false 50)).map (fun y => y.enc.run.map (fun e => (e.q, e.retried))) = some (some (51, true)) ∧
    (tPassed (tPass true 26)).map (fun y => (y.enc.run.isNone, y.enc.num, y.enc.produced)) = some (true, 1, 0) ∧
    (tPassed { tPass false 20 with sp1 := 0 }).map (fun y => (y.enc.num, y.enc.produced, y.enc.ref)) = some (1, 4, some 4) := by decide +kernel
/-- A sound capture block: 64 by 64, 8-bit, one frame a second. -/
def tCapPar : List Byte := padTo 384 ([0, 0, 0, 0, 64, 0, 64, 0] ++ List.replicate 72 0 ++ [1, 0, 1, 0])
/-- Sensor 0 on port 0, virtual channel 0, RAW8, handle 5. -/
def tLo : W64 := BitVec.ofNat 64 (1 + 0x2A * 2 ^ 7 + 5 * 2 ^ 13)
/-- Function 0 has sensor 0 and its port in the shadow set. -/
def tCapSet : State := { tMed tCapPar with capture := { pend := [(Reg.capPort 0, 1), (Reg.capSensor 0, tLo)] } }
theorem test_capCommit : let u := bump tCapSet 88 4
    u.ready = true ∧ (capAreas 0 (List.range 16) u).2.2 = false ∧ ((capAreas 0 (List.range 16) u).2.1.map (·.idx)) = [0] ∧
    (tAfter (.capCommit .pf) tCapSet).fld Reg.capCommit 15 12 = 0 ∧ ((tAfter (.capCommit .pf) tCapSet).sensor? 0).isSome = true := by decide +kernel
theorem test_capCommit_bad : (tAfter (.capCommit .pf) { tCapSet with capture := { pend := [(Reg.capSensor 0, tLo)] } }).fld Reg.capCommit 15 12 = 1 := by
  decide +kernel
/-- Sensor 0 is enabled, with a frame in hand or none. -/
def tCap (cur : Option CapFrame) (tail : List CapFrame) : State :=
  let s := (tStr { kind := .capture 0, par := tCapPar.take 128 } [(3, { tBuf with taken := cur.isSome || !tail.isEmpty })]).setReg (Reg.capPort 0) 1
  { s with capture := { sensors := [(0, { idx := 0, lo := tLo, hi := 0, area := tCapPar, cur := cur, tail := tail })] } }
/-- A frame in buffer 3. -/
def tFrame (isp : Bool) : CapFrame := ⟨some 3, 0, 9, isp, tCapPar, none, 0, 0, 0, false, []⟩
theorem test_frameStart : (sensorsOn (tCap none []) 0 0).map (·.1) = [0] ∧ (tCap none []).anyFree 5 = some 3 ∧
    ((tAfter (.frameStartPacket 0 0 .clean) (tCap none [])).sensor? 0).map (fun y => (y.num, y.cur.map (·.buf))) = some (1, some (some 3)) := by decide +kernel
theorem test_unmatched : sensorsOn (tCap none []) 0 1 = [] ∧ portOn (tCap none []) 0 = true ∧
    (tAfter (.frameEndPacket 0 1 .clean) (tCap none [])).fld (Reg.capPortstat 0) 31 0 = 1 := by decide +kernel
theorem test_frameEnd : ((tAfter (.frameEndPacket 0 0 .clean) (tCap (some (tFrame false)) [])).sensor? 0).map (fun y => (y.cur, y.tail)) = some (none, []) ∧
    ((tAfter (.frameEndPacket 0 0 .clean) (tCap (some (tFrame false)) [])).stream? 5).map (fun y => tget 0 y.cnt 8) = some 1 ∧
    ((tAfter (.frameEndPacket 0 0 .clean) (tCap (some (tFrame true)) [])).sensor? 0).map (fun y => y.tail.length) = some 1 := by decide +kernel
theorem test_line : let s := tCap (some (tFrame false)) []
    (sensorsOn s 0 0).map (fun y => (cDt y.2.lo, y.2.cur.isSome)) = [(0x2A, true)] ∧
    ((tAfter (.longPacket 0 0 0x2A .clean true false [1, 2]) s).sensor? 0).map (fun y => y.cur.map (fun c => (c.line, c.got, c.width))) =
      some (some (1, 1, some 2)) ∧
    ((tAfter (.longPacket 0 0 0x2A .bad true false [1, 2]) s).stream? 5).map (fun y => tget 0 y.cnt 24) = some 1 ∧
    ((tAfter (.longPacket 0 0 0x2A .clean false false [1, 2]) s).stream? 5).map (fun y => tget 0 y.cnt 36) = some 1 := by decide +kernel
theorem test_isp : let s := tCap none [tFrame true]
    ((tAfter (.ispFrameDone 0 [] [] []) s).sensor? 0).map (·.tail) = some [] ∧
    ((tAfter (.ispFrameDone 0 [] [] []) s).stream? 5).map (fun y => tget 0 y.cnt 8) = some 1 := by decide +kernel
/-- Words of a frame sync: period 10,000 ns, EN, and width 10 ns. -/
def tWordA : W64 := BitVec.ofNat 64 (1 + 10000 * 2 ^ 32)
def tWordB : W64 := BitVec.ofNat 64 (10 * 2 ^ 32)
theorem test_fsync : let s := tAfter (.fsyncWordB .pf 0 tWordB) tRun
    fsyncOk tWordA tWordB = true ∧ (s.fsync 0).heldB = some tWordB ∧ ((tAfter (.fsyncWordA .pf 0 tWordA) s).fsync 0).next = some (tWordA, tWordB) ∧
    fsyncOk (tWordA - 0xA00000000) tWordB = false ∧ ((tAfter (.fsyncWordA .pf 0 (tWordA - 0xA00000000)) s).fsync 0).next = none ∧
    ((tAfter (.fsyncWordA .pf 0 (tWordA - 1)) s).fsync 0).a = tWordA - 1 := by decide +kernel
/-- The words wait, at a time. -/
def tSync (now : Nat) (next : Option (W64 × W64)) (since : Option (W64 × Nat)) : State :=
  { tRun with clock := { timeM := BitVec.ofNat 64 now }, capture := { fsync := [(0, { next := next, a := tWordA, b := tWordB, since := since })] } }
theorem test_fsyncAssert : fsyncDue tWordA tWordB 20000 = true ∧ ((tAfter (.fsyncAssert 0) (tSync 20000 (some (tWordA, tWordB)) none)).fsync 0).since = some (20000, 10) ∧
    ((tAfter (.fsyncAssert 0) (tSync 20000 none none)).fsync 0).since = some (20000, 10) ∧ fsyncDue tWordA tWordB 20001 = false ∧
    ((tAfter (.fsyncAssert 0) (tSync 20001 none none)).fsync 0).since = none := by decide +kernel
theorem test_fsyncDeassert : ((tAfter (.fsyncDeassert 0) (tSync 20010 none (some (20000, 10)))).fsync 0).since = none ∧
    ((tAfter (.fsyncDeassert 0) (tSync 20009 none (some (20000, 10)))).fsync 0).since = some (20000, 10) := by decide +kernel
theorem test_crc32c : crc32c [] = 0 ∧ crc32c [0x31, 0x32, 0x33, 0x34, 0x35, 0x36, 0x37, 0x38, 0x39] = 0xE3069283 := by decide +kernel

/-! ### The frame shaper, ingest, the tracker and the pipelines -/

/-- Ring 0 of the shaper is enabled at address 0 with one operation. -/
def tShape (h : List Byte) (x : OpRing) : State := { tRun with mem := mwrite [] 0 h, shaper := { rings := [(0, x)] } }
/-- A ring of 16 slots with one operation. -/
def tRing : OpRing := { en := true, log := 4, base := 0, head := 0, tail := 1 }
theorem test_shapeRing : (bump tRun 88 8).mayPart .pf 0 = true ∧ (bump tRun 88 8).mayPart (.vf 0) 0 = false ∧
    (tAfter (.shapeRingWrite .pf 0 0x1009) (tShape [] { tRing with en := false })).shapeRing 0 = { tRing with base := 4096, head := 0, tail := 0 } ∧
    (tAfter (.shapeRingWrite .pf 0 0x1009) (tShape [] tRing)).shapeRing 0 = { tRing with base := 4096 } := by decide +kernel
theorem test_shapeDoorbell : tailOk tRing 16 = true ∧ tailOk tRing 17 = false ∧
    ((tAfter (.shapeDoorbell .pf 0 16) (tShape [] tRing)).shapeRing 0).tail = 16 ∧
    ((tAfter (.shapeDoorbell .pf 0 17) (tShape [] tRing)).shapeRing 0).tail = 1 ∧ (bump tUp 88 4).noBells = true := by decide +kernel
/-- A header of one region at address 0 whose semaphore is 9. -/
def tShapeHdr : List Byte := padTo 64 [1, 2, 0, 0, 0, 0, 9, 0, 0, 0, 0, 0, 5]
theorem test_shapeStart : let s := tShape tShapeHdr tRing
    nextInTurn s.shaper.last ((List.range 16).filter (shapeReady s)) = some 0 ∧ shapePipe s 0 none = none ∧ shapePipe s 0 (some 0) = none ∧ headerBad tShapeHdr = false ∧
    (tAfter (.shapeOpStart 0) s).shaper.run.map (fun x => (x.part, x.valid, x.stale, x.bad)) = some (0, [], [], [0]) ∧
    (tAfter .shapeOpDone (tAfter (.shapeOpStart 0) s)).shaper.run = none ∧ (tAfter .shapeOpDone (tAfter (.shapeOpStart 0) s)).sem 9 = 5 ∧
    ((tAfter .shapeOpDone (tAfter (.shapeOpStart 0) s)).shapeRing 0).head = 1 := by decide +kernel
theorem test_shapeStart_bad : let s := tShape (padTo 64 [65]) tRing
    headerBad (padTo 64 [65]) = true ∧ ((tAfter (.shapeOpStart 0) s).shapeRing 0).head = 1 ∧ (tAfter (.shapeOpStart 0) s).shaper.run = none := by
  decide +kernel
/-- A pipeline of partition 0 at a step. -/
def tPipe (x : Pipe) : State := { tRun with pipes := [(2, x)] }
theorem test_shapeStart_pipe : let s := tPipe { par := padTo 272 [1], shape := some (tShapeHdr, padTo 64 []) }
    (shapePipe s 0 none).isSome = true ∧ (tAfter (.shapeOpStart 0) s).shaper.run.map (·.pipe) = some (some 2) := by decide +kernel
/-- A sound ingest area: handle 5, one slot, one row, a batch of one, a deadline of 10 µs. -/
def tIngPar : List Byte :=
  padTo 384 (padTo 128 [0, 0, 0, 0, 64, 0, 64, 0] ++ padTo 64 ([1, 0, 5, 0, 1, 0, 1, 0] ++ leBytes 4 4096 ++ leBytes 4 4096 ++ leBytes 8 0 ++ [1, 0, 1, 0] ++
    leBytes 8 0 ++ [1, 0, 1, 0, 1, 0, 16, 0, 16, 0, 1, 0] ++ leBytes 4 10) ++ [0x11, 0, 0, 0, 1, 0, 1, 0, 1, 0, 1, 0])
theorem test_ingestEnable : let s := { tMed [] with mem := mwrite (mwrite [] 0 (tIngPar.take 128)) 128 ((tIngPar.drop 128).take 128) }
    mayChan (bump s 88 8) .pf 3 = true ∧ ingestBad (tIngPar.take 256) = false ∧ s.inGddrStaging 0x100000 65536 = true ∧
    ((tAfter (.ingestEnable .pf 3 0x100021) s).chan 3).st = 1 ∧ ((tAfter (.ingestEnable .pf 3 0x100021) s).stream? 5).map (·.kind) = some (.ingest 3) ∧
    (tAfter (.ingestEnable .pf 3 0x10001F) s).fld (Reg.ingestStat 3) 37 34 = 1 := by decide +kernel
/-- Channel 3 runs with a ring of 64 KiB at 1 MiB. -/
def tChan (x : Chan) (pool : Tab Buf) : State :=
  let s := (tStr { kind := .ingest 3, par := tIngPar.take 256 } pool).setBit (Reg.ingestRing 3) 0 true
  { s with ingest := [(3, x)] }
def tC : Chan := { st := 1, par := tIngPar.take 256, log := 16, base := 0x100000 }
theorem test_ingestDisable : ((tAfter (.ingestDisable .pf 3) (tChan tC [])).chan 3).st = 0 ∧ (tAfter (.ingestDisable .pf 3) (tChan tC [])).stream? 5 = none ∧
    (let s := tChan { tC with flight := [⟨0, 2, 0, 16, 4, none, false, none, none, none, 0, 0, false, none, false⟩] } []
     ((tAfter (.ingestDisable .pf 3) s).chan 3).stopping = true) := by decide +kernel
theorem test_ingestDoorbell : let s := tChan tC []
    (bump s 88 8).noBells = false ∧ dist32 65536 tC.consumed ≤ tC.size ∧ ((tAfter (.ingestDoorbell .pf 3 65536) s).chan 3).write = 65536 ∧
    ((tAfter (.ingestDoorbell .pf 3 65537) s).chan 3).write = 0 ∧ ((tAfter (.ingestEos .pf 3 0) s).chan 3).st = 2 := by decide +kernel
theorem test_slotDone : let x := { tC with id := 4, nextRow := 4, firstRow := 4 }
    forward 14 0 x.slotDone (x.slotsOut % 2 ^ 14) = true ∧ forward 14 1 0 (x.slotsOut % 2 ^ 14) = true ∧
    ((tAfter (.rowDone .pf 3 4) (tChan x [])).chan 3).rowDone = 4 ∧ ((tAfter (.rowDone .pf 3 5) (tChan x [])).chan 3).rowDone = 0 := by decide +kernel
/-- A header of a KIND and LENGTH whose CRC holds. -/
def tRec (kind len : Nat) : List Byte :=
  let h := leBytes 4 0x31435246 ++ leBytes 4 len ++ leBytes 1 kind ++ leBytes 3 0
  h ++ leBytes 4 (crc32c h)
/-- Records stand in the ring. -/
def tFed (x : Chan) (bs : List Byte) (pool : Tab Buf) : State :=
  { tChan { x with write := BitVec.ofNat 32 bs.length } pool with mem := mwrite [] 0x100000 bs }
theorem test_recordHeader : let s := tFed tC (tRec 2 8) []
    (s.chan 3).moreInput = true ∧ ringDirty s 0x100000 65536 0 16 = none ∧ headerOk (tRec 2 8) = true ∧
    ((tAfter (.recordHeader 3) s).chan 3).flight.map (fun m => (m.id, m.kind, m.start, m.len)) = [(0, 2, 16, 8)] ∧
    ((tAfter (.recordHeader 3) s).chan 3).pos = 16 ∧ ((tAfter (.recordHeader 3) s).chan 3).skip = 16 := by decide +kernel
theorem test_recordHeader_bad : let s := tFed tC ((tRec 2 8).set 0 0) []
    headerOk ((tRec 2 8).set 0 0) = false ∧ ((tAfter (.recordHeader 3) s).chan 3).pos = 8 ∧
    ((tAfter (.recordHeader 3) s).stream? 5).map (fun y => tget 0 y.cnt 32) = some 1 := by decide +kernel
theorem test_recordHeader_full : let s := tFed { tC with id := 1 } (tRec 2 8) []
    ((tAfter (.recordHeader 3) s).chan 3).flight = [] := by decide +kernel
/-- A sample of a kind with 8 bytes of payload and a good CRC, dispatched or not. -/
def tSample (kind : Nat) (sent : Option W64) (buf : Option Nat) : Sample := ⟨0, kind, 0, 16, 8, none, true, sent, buf, none, 0, 0, false, none, false⟩
/-- The sample is in flight, with its bytes in the ring. -/
def tFlight (m : Sample) (pool : Tab Buf) : State :=
  let p := List.replicate 8 (0 : Byte)
  tFed { tC with pos := 32, flight := [m], id := 1 } (tRec 2 8 ++ p ++ leBytes 4 (crc32c p)) pool
theorem test_dispatch : ((tFlight (tSample 2 none none) []).chan 3).ready (tSample 2 none none) = true ∧
    ((tAfter (.sampleDispatch 3 0) (tFlight (tSample 2 none none) [])).chan 3).flight.map (·.sent) = [some 0] ∧
    ((tAfter (.sampleDispatch 3 0) (tFlight (tSample 1 none none) [(3, tBuf)])).chan 3).flight.map (·.buf) = [some 3] ∧
    ((tAfter (.sampleDispatch 3 0) (tFlight (tSample 1 none none) [])).chan 3).flight.map (·.sent) = [none] ∧
    jpegsHeld (tFlight (tSample 1 none none) []) = 0 := by decide +kernel
/-- What the decoder makes of a picture of 4:2:0 components with a width, all of it decoded or not. -/
def tJpeg (w : Nat) (ends : JpegEnd) : JpegResult := ⟨some ⟨true, true, 8, [(2, 2), (1, 1), (1, 1)], w, 16⟩, ends, [0], []⟩
theorem test_jpegDone : ((tAfter (.jpegDone 3 0 (tJpeg 16 .complete)) (tFlight (tSample 1 (some 0) (some 3)) [(3, { tBuf with taken := true })])).chan 3).flight.map (·.jpeg) =
      [some (0, 16, 16)] ∧
    ((tAfter (.jpegDone 3 0 (tJpeg 65 .complete)) (tFlight (tSample 1 (some 0) (some 3)) [(3, { tBuf with taken := true })])).chan 3).flight.map (·.jpeg) =
      [some (4, 65, 16)] := by decide +kernel
theorem test_jpegCode : (jpegCode tC.par (tJpeg 16 .truncated)).1 = 3 ∧ (jpegCode tC.par ⟨some ⟨false, true, 8, [(1, 1)], 16, 16⟩, .complete, [], []⟩).1 = 1 ∧
    (jpegPlanes ⟨true, true, 8, [(2, 2), (1, 1), (1, 1)], 16, 16⟩ 5 (tJpeg 16 .truncated)) = List.replicate 384 128 := by decide +kernel
theorem test_sampleFinish : let m := tSample 1 (some 0) (some 3)
    let m' := { m with jpeg := some (0, 16, 16) }
    let s := tFlight m' [(3, { tBuf with taken := true })]
    sampleFlags s (s.chan 3) m' = some 0 ∧ jpegWaits s (s.chan 3) = false ∧ ((tAfter (.sampleFinish 3 0) s).chan 3).flight = [] ∧
    ((tAfter (.sampleFinish 3 0) s).stream? 5).map (fun y => (tget 0 y.cnt 8, tget 0 y.cnt 28)) = some (1, 0) := by decide +kernel
theorem test_sampleSlow : let s := { (tFlight (tSample 2 (some 0) none) []).setReg Reg.ingestLimits 7 with clock := { timeM := 7 } }
    tIs (.sampleSlow 3 0) { s with clock := { timeM := 6 } } { s with clock := { timeM := 6 } } = true ∧
    s.fld Reg.ingestLimits 31 0 = 7 ∧ iZero tC.par = true ∧ ((tAfter (.sampleSlow 3 0) s).chan 3).flight = [] ∧
    ((tAfter (.sampleSlow 3 0) s).stream? 5).map (fun y => (tget 0 y.cnt 24, tget 0 y.cnt 28)) = some (1, 1) := by decide +kernel
theorem test_batchDeadline : let s := fun (t : W64) => { tChan { tC with firstAt := some 0, samples := 1 } [] with clock := { timeM := t } }
    ((tAfter (.batchDeadline 3) (s 10000)).chan 3).batch = 1 ∧ ((tAfter (.batchDeadline 3) (s 9999)).chan 3).batch = 0 := by decide +kernel
/-- A sound bind block of handle 5 without embeddings, with one detection and one track. -/
def tBindPar : List Byte :=
  padTo 128 ([5, 0, 0, 0, 0, 0, 1, 0, 1, 0] ++ List.replicate 18 0 ++ leBytes 4 0x3F800000 ++ leBytes 4 0x3F800000 ++ [1, 1] ++ List.replicate 26 0 ++
    leBytes 4 1)
theorem test_bind : let s := { tRun with mem := mwrite [] 0 tBindPar }
    bindBad tBindPar = false ∧ bMaxTracks tBindPar = 1 ∧ ((tAfter (.bind .pf 5) s).bound? 5).map (·.nextId) = some 1 ∧
    (tAfter (.bind .pf 5) s).fld Reg.trackCmdStat 11 8 = 0 ∧ (tAfter (.bind .pf 6) s).fld Reg.trackCmdStat 11 8 = 1 ∧
    (tAfter (.bind .pf 5) (tAfter (.bind .pf 5) s)).fld Reg.trackCmdStat 11 8 = 2 := by decide +kernel
/-- Handle 5 is bound. -/
def tBound (x : Bound) : State := { tRun with track := { bound := [(5, x)] } }
def tB : Bound := { par := tBindPar, nextId := 1 }
theorem test_bind_full : let p := (tBindPar.set 8 0).set 9 0x10
    let s := { tRun with mem := mwrite [] 0 tBindPar, track := { bound := (List.range 64).map fun i => (i + 10, { tB with par := p }) } }
    s.freeCtxCount = 0 ∧ s.bound? 5 = none ∧ (tAfter (.bind .pf 5) s).fld Reg.trackCmdStat 11 8 = 3 := by decide +kernel
theorem test_unbind : (tAfter (.unbind .pf 5) (tBound tB)).bound? 5 = none ∧ (tAfter (.clear .pf 5) (tBound { tB with predicted := true })).bound? 5 = some tB ∧
    (tAfter (.unbind .pf 6) (tBound tB)).fld Reg.trackCmdStat 11 8 = 6 ∧
    (tAfter (.unbind .pf 5) (tBound { tB with held := [⟨none, 1, 0, 0, none⟩] })).track.cmd = some (5, true) ∧
    (tAfter (.clear .pf 5) (tBound { tB with held := [⟨none, 1, 0, 0, none⟩] })).track.cmd = some (5, false) := by decide +kernel
theorem test_trackRing : ((tAfter (.trackRingWrite .pf 1 0x1009) tRun).trackRing 1).base = 4096 ∧
    ((tAfter (.trackDoorbell .pf 0 16) { tRun with track := { rings := [(0, tRing)] } }).trackRing 0).tail = 16 ∧
    ((tAfter (.trackDoorbell .pf 0 17) { tRun with track := { rings := [(0, tRing)] } }).trackRing 0).tail = 1 := by decide +kernel
theorem test_metaDoorbell : ahead32 2 tB.ci = true ∧ ((tAfter (.trackMdb .pf 5 2) (tBound { tB with out := 2 })).bound? 5).map (·.ci) = some 2 ∧
    ((tAfter (.trackMdb .pf 5 3) (tBound { tB with out := 2 })).bound? 5).map (·.ci) = some 0 := by decide +kernel
/-- An op of handle 5 on ring 0. -/
def tOpOn (o : List Byte) (x : Bound) : State := { tRun with mem := mwrite [] 0 (padTo 64 o), track := { bound := [(5, x)], rings := [(0, tRing)] } }
theorem test_predict : let s := tOpOn [1, 2, 5, 0, 0, 0, 9, 0, 0, 0, 0, 0, 4, 0, 0, 0, 77] tB
    nextInTurn s.track.last ((List.range 16).filter fun p => (nextOp s p).isSome) = some 0 ∧ ((nextOp s 0).map fun o => (oOp o.2, opSkipped s 0 o.2)) = some (1, false) ∧
    ((tAfter (.predict 0) s).bound? 5).map (fun y => (y.predicted, y.arrival)) = some (true, 77) ∧ (tAfter (.predict 0) s).sem 9 = 4 := by decide +kernel
theorem test_predict_skipped : let s := tOpOn [1, 2, 6, 0, 0, 0, 9, 0, 0, 0, 0, 0, 4] tB
    ((nextOp s 0).map fun o => opSkipped s 0 o.2) = some true ∧ (tAfter (.predict 0) s).sem 9 = 4 ∧ (tAfter (.predict 0) s).bound? 5 = some tB := by decide +kernel
theorem test_associate : let s := tOpOn [2, 4, 5, 0] { tB with predicted := true }
    ((nextOp s 0).map fun o => (oOp o.2, opSkipped s 0 o.2)) = some (2, false) ∧
    ((tAfter (.associate 0) s).bound? 5).map (fun y => (y.predicted, y.metaSeq, tget 0 y.cnt 0)) = some (false, 1, 1) ∧ tIs (.predict 0) s s = true := by
  decide +kernel
theorem test_associate_waits : let p := tBindPar.set 80 0x11
    let s := tOpOn [2, 4, 5, 0] { tB with par := p, predicted := true, pi := 16 }
    roomless s 0 = [5] ∧ nextOp s 0 = none ∧ ((tAfter (.associate 0) s).bound? 5).map (·.waitAt) = some (some 0) := by
  decide +kernel
/-- A pipeline of sensor 0, queue 0 with a chain of 2, semaphores from 20, handle 5 and a limit of 9 µs. -/
def tPl : List Byte := padTo 272 ([1, 0, 0, 0, 0, 0, 2, 0, 20, 0, 0, 0, 9, 0, 0, 0] ++ List.replicate 120 0 ++ [5])
theorem test_pipeStart : let s := { tStr { kind := .capture 0, par := padTo 128 [], anaPi := 3 } [] with pipes := [(2, { par := tPl })] }
    plHandle tPl = 5 ∧ plSensor tPl = 0 ∧ (tfind (tAfter (.pipeFrameStart 2) s).pipes 2).map (fun y => (y.step, y.anaAt)) = some (3, 3) := by decide +kernel
theorem test_pipeShaped : let x : Pipe := { par := tPl, step := 3, frame := padTo 32 [] }
    let s := (tPipe x).setSem 20 1
    shapeGone s 2 x = true ∧ semOk s (plSem tPl) 1 = true ∧
    (tfind (tAfter (.pipeShaped 2) s).pipes 2).map (fun y => (y.step, y.tail, y.ops.length)) = some (5, 2, 1) ∧
    (tfind (tAfter (.pipeShaped 2) ((tPipe { x with stale := true }).setSem 20 1)).pipes 2).map (·.step) = some 1 := by decide +kernel
theorem test_pipeChain : let x : Pipe := { par := tPl, step := 5 }
    (tfind (tAfter (.pipeChainDone 2) ((tPipe x).setSem 22 1)).pipes 2).map (fun y => (y.step, y.ops.length)) = some (6, 1) ∧
    (tfind (tAfter (.pipeFrameEnd 2) ((tPipe { x with step := 6 }).setSem 23 1)).pipes 2).map (·.step) = some 1 ∧
    (tfind (tAfter (.pipeTimeout 2) (tPipe { x with tail := 7 })).pipes 2).map (fun y => (y.step, y.tail)) = some (6, 0) ∧
    (tfind (tAfter (.pipeFault 2) { tPipe x with qm := { queues := [(0, { state := .faulted })] } }).pipes 2).map (·.step) = some 6 := by decide +kernel

/-! ### The twin pair, observation, Snuff, scan-out and the test port -/

/-- Block lock, in a state and role of the pair. -/
def tTwin (state role : Nat) (x : Twin) : State := { (tRun.setFld Reg.relTwin 1 0 state).setFld Reg.relTwin 3 2 role with twin := { x with lock := true } }
theorem test_blockLock : (tAfter (.twinBlockLock true) tRun).twin.lock = true ∧ (tAfter (.twinBlockLock true) tRun).bit Reg.relTwin 4 = true := by decide +kernel
theorem test_ack : let s := tTwin 2 1 { replay := [{ typ := 8, seq := 4, payload := [] }, { typ := 8, seq := 5, payload := [] }] }
    (tAfter (.idleFlit 5) s).twin.replay.map (·.seq) = [5] ∧ (tAfter (.idleFlit 6) s).twin.replay = [] ∧ (tAfter (.idleFlit 7) s).twin.replay.length = 2 ∧
    (tAfter (.nak 5) s).fld (Reg.relCnt 6) 31 0 = 1 ∧ (tAfter (.nak 5) s).twin.replay.map (·.sends) = [2] ∧ tIs .replayTimeout s s = true ∧
    (tAfter .replayTimeout { s with clock := { timeF := 2000 } }).fld (Reg.relCnt 6) 31 0 = 1 ∧ (takeAck 5 s).twin.replay ≠ [] ∧
    (tAfter .badFlit s).twin.lastSent.map (·.typ) = some 1 ∧ s.paired = true := by decide +kernel
theorem test_hello_forms : let s := tTwin 1 1 { on := true, pairId := 7 }
    s.reg Reg.glbUid = 1 ∧ (tAfter (.twinHello 0 7 2 99 1) s).paired = true ∧ (tAfter (.twinHello 0 8 2 99 1) s).paired = false ∧
    (tAfter (.twinHello 0 8 2 99 1) s).twin.peer = 99 ∧ (tAfter .twinHelloSend s).twin.lastSent.map (·.typ) = some 2 ∧
    (tAfter (.twinHello 0 7 1 99 1) (tTwin 1 2 { on := true, pairId := 7, mirrorSize := 26 * 2 ^ 20 })).paired = true ∧
    (tAfter (.twinHello 0 7 1 99 1) (tTwin 1 2 { on := true, pairId := 7, mirrorSize := 26 * 2 ^ 20 - 1 })).paired = false := by decide +kernel
theorem test_heartbeat : let s := tTwin 2 1 { sentAt := [(1, 0), (2, 10)] }
    (tAfter (.heartbeat 0 5 1 0) s).twin.sentAt = [(2, 10)] ∧ (tAfter .heartbeatSend s).twin.sentAt.length = 3 ∧ (tAfter .heartbeatSend s).twin.hb = 1 ∧
    (tAfter (.heartbeat 0 5 1 0) (tTwin 1 1 {})).twin.hbSeen = 0 := by decide +kernel
theorem test_partnerLost : let s := fun (role : Nat) (t : W64) => { tTwin 2 role { sentAt := [(1, 0)] } with clock := { timeF := t } }
    (tAfter (.partnerLost []) (s 1 5000)).fld Reg.relTwin 1 0 = 3 ∧ (s 1 5000).primary = true ∧ (tAfter (.partnerLost []) (s 1 4999)).paired = true ∧
    (tAfter (.partnerLost []) (s 2 5000)).fld Reg.relTwin 1 0 = 3 ∧ (s 2 5000).primary = false := by decide +kernel
/-- The secondary with a mirror of handle 5. -/
def tMirror (m : Mirror) : State := tTwin 2 2 { mirrors := [(5, m)], mirrorBase := 0x10000000, mirrorSize := 64 * 2 ^ 20 }
theorem test_twinOpen : (tAfter (.twinOpen 0 0 true 5 [1]) (tTwin 2 2 {})).twin.mirrors.map (fun m => m.2.par) = [[1]] ∧
    (tAfter (.twinOpen 1 0 true 5 [1]) (tTwin 2 2 {})).twin.mirrors = [] ∧
    (let par := padTo 64 (tPar.take 64)
     let s := tMirror { par := par, base := 0, size := 0 }
     (mirrorFit s (pBsSize (padTo 128 (par ++ [])))).isSome = true ∧ (tAfter (.twinOpen 0 0 false 5 []) s).twin.mirrors.map (fun m => m.2.size) = [8192]) ∧
    (let s := { tMirror { par := padTo 64 (tPar.take 64), base := 0, size := 0 } with twin := { lock := true, mirrors := [(5, { par := padTo 64 (tPar.take 64), base := 0, size := 0 })] } }
     (tAfter (.twinOpen 0 0 false 5 []) s).twin.mirrors = []) := by decide +kernel
/-- The mirror of handle 5. -/
def tM : State := tMirror { par := tPar, base := 0x11A00000, size := 8192, fin := 4, waits := [(3, 6)] }
theorem test_mirror : tM.secondary = true ∧ (tAfter (.bits 0 0 5 4 [1, 2]) tM).twin.mirrors.map (fun x => (x.2.fin, x.2.waits)) = [(6, [])] ∧
    (tAfter (.pos 0 0 5 true 9 2) tM).twin.mirrors.map (fun x => x.2.raps) = [[(9, 2)]] ∧
    (tAfter (.trackFlit 0 0 5 7 [1]) tM).twin.mirrors.map (fun x => x.2.delta.map (·.1)) = [[7]] ∧
    (tAfter (.commit 0 0 5 1 2 3 4 9) tM).twin.mirrors.map (fun x => x.2.last.map (fun y => y.1)) = [some 1] ∧
    (tAfter (.commit 0 0 5 1 2 3 4 9) tM).twin.mirrors.map (fun x => x.2.waits) = [[(3, 6)]] ∧
    (tAfter (.twinClose 0 0 5) tM).twin.mirrors = [] := by decide +kernel
theorem test_ackf : let s := { tTwin 2 1 {} with track := { bound := [(5, { tB with held := [⟨none, 1, 0, 0, none⟩, ⟨none, 2, 0, 0, none⟩] })] } }
    s.primary = true ∧ s.track.cmd = none ∧ ((tAfter (.ackf 0 0 5 0 1) s).bound? 5).map (fun x => x.held.map (·.metaSeq)) = some [2] ∧
    (let u := { s with media := { streams := [(5, { tDec with dec := { mirrored := true } })] } }
     ((tAfter (.ackf 0 0 5 1 0) u).stream? 5).map (fun x => x.dec.mirrored) = some false ∧ ((tAfter (.ackf 0 0 5 1 0) u).bound? 5).map (·.held) = some []) := by
  decide +kernel
theorem test_counters : let s := (tRun.setReg (Reg.dbgBcnt 90) 5).setReg (Reg.dbgBcnt 40) 6
    (tAfter (.cntReset .pf 0x40) s).reg (Reg.dbgBcnt 90) = 0x1000000000000 ∧ (tAfter (.cntReset .pf 0x40) s).reg (Reg.dbgBcnt 40) = 6 ∧
    (tAfter (.cntReset .pf 0xFF) s).reg (Reg.dbgBcnt 40) = 0x1000000000000 ∧ (tAfter (.cntReset (.vf 0) 0x40) s).reg (Reg.dbgBcnt 90) = 5 := by decide +kernel
theorem test_match : let s := tAfter (.dbgMatchArm .pf 0x300B5) ((tRun.setReg (Reg.dbgBcnt 90) 5).setReg Reg.dbgMatch 0)
    s.dbg.matchBase = 5 ∧ (tAfter (.dbgMatchArm .pf 0xC0) tRun).reg Reg.dbgMatch = tRun.reg Reg.dbgMatch ∧
    tIs .snuffMatch (s.setReg (Reg.dbgBcnt 90) 7) (s.setReg (Reg.dbgBcnt 90) 7) = true ∧
    (tAfter .snuffMatch (s.setReg (Reg.dbgBcnt 90) 8)).fld Reg.dbgSnuff 18 16 = 3 ∧ s.stopped = false ∧ s.pwrState = 0 := by decide +kernel
/-- TRACE_CFG for core 0 with a ring of 256 bytes at address 0, WRAP clear or set. -/
def tTraceCfg (stop : Nat) : W64 := BitVec.ofNat 64 (1 + stop * 2 + 2 ^ 40 + 8 * 2 ^ 56)
theorem test_traceCfg : (tAfter (.traceCfgWrite .pf 0x21) tRun).reg Reg.dbgTraceCfg = 0x21 ∧ (tAfter (.traceCfgWrite .pf 0x1D) tRun).reg Reg.dbgTraceCfg = 0 ∧
    (tAfter (.traceCfgWrite .pf 0x55) tRun).reg Reg.dbgTraceCfg = 0 ∧
    (tAfter (.traceCfgWrite .pf 0) ({ tRun with dbg := { lines := [(0, ⟨[[1]]⟩)] } } : State)).reg Reg.dbgTraceCfg = 0 ∧
    (tAfter (.traceCfgWrite .pf 0) (({ tRun with dbg := { lines := [(0, ⟨[[1]]⟩)] } } : State).setReg Reg.dbgTraceCfg 0x21)).traceHeld 0 = [] := by decide +kernel
theorem test_trace : let s := (tRun.setReg Reg.dbgTraceCfg (tTraceCfg 0)).setReg Reg.glbCaps2 0x10000
    s.traceOn 0 = true ∧ s.stopped = false ∧ nbit (s.fld Reg.glbCaps2 31 16) 0 = true ∧
    ((tAfter (.traceSample 0 UnitWait.run false) s).traceHeld 0).length = 1 := by decide +kernel
theorem test_traceFlush : let s := ({ tRun with dbg := { lines := [(0, ⟨[List.replicate 16 7]⟩)] } } : State).setReg Reg.dbgTraceCfg (tTraceCfg 0)
    s.traceHeld 0 = [List.replicate 16 7] ∧ (tAfter (.traceLineFlush 0) s).traceHeld 0 = [] ∧ (tAfter (.traceLineFlush 0) s).fld Reg.dbgTraceStat 47 0 = 256 ∧
    mget (tAfter (.traceLineFlush 0) s).mem 15 = 7 := by decide +kernel
theorem test_snuffGo : (tAfter (.snuffGo .pf) tRun).fld Reg.dbgSnuff 9 8 = 1 ∧ (tAfter (.snuffGo .pf) tRun).fld Reg.dbgSnuff 18 16 = 1 ∧ tRun.pwrState = 0 ∧
    (tAfter (.snuffGo .pf) (tRun.setFld Reg.dbgSnuff 9 8 2)).fld Reg.dbgSnuff 9 8 = 2 ∧ (tAfter (.snuffResume .pf) (tRun.setFld Reg.dbgSnuff 9 8 2)).fld Reg.dbgSnuff 9 8 = 3 ∧
    (tAfter (.snuffResume .pf) tRun).fld Reg.dbgSnuff 9 8 = 0 := by decide +kernel
theorem test_snuffPin : let s := tRun.setBit Reg.dbgSnuff 2 true
    let u := { s with pins := { s.pins with snuffArmed := true } }
    (tAfter .snuffPin u).fld Reg.dbgSnuff 18 16 = 2 ∧ (tAfter .snuffPin u).pins.snuffArmed = false ∧
    (tAfter .snuffPinRearm { s with pins := { s.pins with snuffArmed := false, snuffDrive := false } }).pins.snuffArmed = true := by decide +kernel
theorem test_snuffEnds : (tAfter .snuffStopped (tRun.setFld Reg.dbgSnuff 9 8 1)).fld Reg.dbgSnuff 9 8 = 2 ∧
    (tAfter .snuffResumed (tRun.setFld Reg.dbgSnuff 9 8 3)).fld Reg.dbgSnuff 9 8 = 0 ∧ tRun.dbg.recorded = [] := by decide +kernel
theorem test_recorded : let s := tRun.setFld Reg.dbgSnuff 9 8 2
    s.stopped = true ∧ writerOf (.queueDoorbell .pf 0 (tBell 1 0)) = some .pf ∧ (tAfter (.queueDoorbell .pf 0 (tBell 1 0)) s).dbg.recorded = [.queueDoorbell .pf 0 (tBell 1 0)] := by
  decide +kernel
theorem test_scanStart : let s := tRun.setFld Reg.dbgSnuff 9 8 2
    tfind s.hif.held Fn.pf.num = none ∧ s.fld Reg.dbgSnuff 9 8 = 2 ∧ ∃ t, exec (.scanStart .pf) s = .next t := ⟨by decide +kernel, by decide +kernel, _, rfl⟩
theorem test_jtag : tRun.pins.aonLow = false ∧ (tAfter .testLogicReset tRun).pins.jtagIr = 2 ∧ (tAfter .highz { tRun with pins := { porLow := true } }).pins.balls = .floating ∧
    (tAfter .clamp { tRun with pins := { porLow := true } }).pins.balls = .boundary ∧ tIs .clamp { tRun with pins := { aonLow := true } } { tRun with pins := { aonLow := true } } = true ∧
    (tAfter (.extest [true] [true, false, true]) { tRun with pins := { porLow := true } }).pins.jtagOut = [5] := by decide +kernel
theorem test_wideRegisters : (regAt 0x2D0238).map (·.2) = some 0x2D0220 ∧ (regAt 0x2F0438).map (·.2) = some 0x2F0400 ∧
    (regAt 0x2F0448).map (·.2) = some 0x2F0440 := by decide +kernel
theorem test_beginWord : let img := fun (b : Nat) => leBytes 4 0x200 ++ leBytes 4 (2 * 2 ^ 26 + b) ++ leBytes 4 (2 ^ 26)
    (progWords (img 0)).map iOp = [2, 1] ∧ progOk (img 0) = true ∧ progOk (img 1) = false := by decide +kernel
theorem test_innerWord : let s := tExec (tDesc 0x10 0 (tAbc 1 1 10) [1, 1, 1, 1, 1, 1] []) [] 1
    let t := tAfter (.sscrub (.inner (.accumulator 0 true) 8 (.exec 0)) [.clean, .uncorrectable] false) s
    (s.running? 0).map (·.item.status) = some 0 ∧ innerServes s 0 (.accumulator 0 true) = true ∧
    (t.running? 0).map (fun x => (x.item.status, x.item.info, x.run.stopped)) = some (0x20, 0xFFFFFFFFFFFF, true) ∧
    t.fld (Reg.relCnt 4) 31 0 = 1 := by decide +kernel
theorem test_flashWord : (tAfter (.wear 64 .single) tRun).fld (Reg.relCnt 7) 31 0 = 1 ∧ (flashFinds 64 .uncorrectable tRun).fld (Reg.relCnt 8) 31 0 = 1 := by
  decide +kernel

/-! ### Links, sectors, walks and the rest -/

theorem test_flitRetry : (tAfter (.d2dFlitRetry (.flue 2)) tRun).fld (Reg.relCnt 5) 31 0 = 1 := by decide +kernel
theorem test_module : (tAfter (.moduleFailed (.mantel 3 1)) tRun).fabric.modFailed = 0x80 ∧ (tAfter (.moduleFailed (.mantel 3 1)) tRun).boot.nextHearths = 0 ∧
    (tAfter (.moduleFailed (.mantel 3 1)) { tRun with fabric := { tRun.fabric with modFailed := 0x40 } }).boot.nextHearths = 8 ∧
    (tAfter (.moduleFailed (.flue 1)) tRun).fabric.flueFailed = 2 ∧ (tAfter (.moduleFailed (.flue 1)) tRun).bit Reg.glbStatus 3 = true := by decide +kernel
theorem test_edc : tRun.fabric.gddrTrained = true ∧ 0 < tRun.usable ∧ tRun.chDown (tRun.chanOf 0) = false ∧
    (tAfter (.edcFailure 0 true 0) tRun).fabric.edc = [(tRun.chanOf 0, ⟨0, true, 1⟩)] ∧
    (let s := { tRun with fabric := { tRun.fabric with edc := [(tRun.chanOf 0, ⟨0, true, 4⟩)] } }
     (tAfter (.edcFailure 0 true 4) s).fabric.chOffline ≠ 0) := by decide +kernel
/-- A channel is offline with a write in retry, or a read. -/
def tOffline (w : Bool) : State := { tRun with fabric := { tRun.fabric with edc := [(tRun.chanOf 0, ⟨0, w, 4⟩)], chOffline := BitVec.ofNat 16 (2 ^ tRun.chanOf 0) } }
theorem test_edcRetrain : (tAfter (.edcRetrainDone 0 true true) (tOffline true)).fabric.chOffline = 0 ∧
    (tAfter (.edcRetrainDone 0 true false) (tOffline false)).fabric.lost = [(0, false)] ∧
    (tAfter (.edcRetrainDone 0 true false) (tOffline true)).fabric.lost = [(0, true)] ∧
    (tAfter (.edcRetrainDone 0 false false) (tOffline true)).bit Reg.glbStatus 3 = true := by decide +kernel
theorem test_split : let s := tRun.setReg Reg.memSplit 0x448
    let t := tAfter (.splitWindowEnd 0 200 100 100) s
    nbit s.chanMask 0 = true ∧ s.fld Reg.memSplit 3 0 + s.fld Reg.memSplit 7 4 + s.fld Reg.memSplit 11 8 = 16 ∧
    tget 0 t.fabric.served 0 = 124 ∧ tget 0 t.fabric.served 1 = 62 ∧ tget 0 t.fabric.served 2 = 62 ∧ tget 0 t.fabric.served 3 = 0 := by decide +kernel
theorem test_sector : 96 < tRun.usable ∧ tIs (.gddr6Read 96 .clean) tRun (bump tRun (56 + 2 * tRun.chanOf 96) 32) = true ∧
    (tAfter (.gddr6Read 96 .single) tRun).fld (Reg.relCnt 0) 31 0 = 1 ∧ tget false (tAfter (.gddr6Read 96 .uncorrectable) tRun).poison 96 = true ∧
    (tAfter (.gddr6Read 96 .uncorrectable) tRun).boot.repairMap = [96] := by decide +kernel
theorem test_scrub : tRun.sweepRuns = true ∧ tRun.sweepChan (tRun.chanOf 0) = true ∧ (tAfter (.gscrub 0 (List.replicate 8 .clean) true) tRun).fld Reg.relSweep 15 0 = 1 ∧
    (tAfter (.sscrub (.fwSram 0 none) [] true) tRun).fld Reg.relSweep 31 16 = 1 ∧ (tAfter (.sscrub (.mediaStaging 0 none) [.single] false) tRun).fld (Reg.relCnt 3) 31 0 = 1 ∧
    (tAfter (.sscrub (.fwSram 8 (some 1)) [.clean, .uncorrectable] false) tRun).boot.fwStopped = true ∧ tRun.isSram bufBase = true ∧ tget false (tAfter (.sscrub (.addr bufBase) [.uncorrectable] false) tRun).poison bufBase = true := by decide +kernel
theorem test_retrain : let s := { tRun with fabric := { tRun.fabric with retrain := [(4, 2)] }, clock := { timeF := 2000000 } }
    s.sweepChan 4 = true ∧ retrainMay 4 false s = true ∧ (tAfter (.retrain 4 ⟨true, false⟩) s).fld Reg.relSweep 47 32 = 1 ∧ retrainMay 4 false tRun = false ∧
    (tAfter (.retrain 4 ⟨true, true⟩) tRun).fabric.retrain = [(4, 1)] ∧ (tAfter (.retrain 4 ⟨false, true⟩) tRun).fabric.chFailed = 16 ∧
    tIs (.telem 2) tRun tRun = true ∧ calDue 4 tRun = false ∧ calDue 4 { tRun with clock := { timeF := 128000000 } } = true := by decide +kernel
/-- Core 0 runs a MATMUL whose A operand is at virtual address 0 of partition 0, with a root or none. -/
def tWalk (root : W64) : State :=
  { (tExec (tDesc 0x10 0 (tAbc 1 1 10) [1, 1, 1, 1, 1, 1] []) [] 1).setReg (Reg.mmuRoot 0) root with
    mem := mwrite (mwrite (mwrite (mwrite [] 0x1000 (leBytes 8 0x2001)) 0x2000 (leBytes 8 0x3001)) 0x3000 (leBytes 8 0x4001)) 0x4000 (leBytes 8 0x7007) }
theorem test_walk : ((tWalk 0x1001).coreRun 0).map (fun x => (isLocal 0, (tlbHit (tWalk 0x1001) 0 0).isNone, x.run.stopped, touches (tWalk 0x1001) 0 x 0)) =
      some (false, true, false, true) ∧ (tget [] (tAfter (.walkDone 0 0) (tWalk 0x1001)).mmu.tlb 0).map (·.pa) = [0x7000] := by decide +kernel
theorem test_walk_fault : (((tAfter (.walkDone 0 0) (tWalk 0)).win 0).exec.map (·.stopped)) = some true := by decide +kernel
theorem test_walk_poison : (((tAfter (.walkDone 0 0) { tWalk 0x1001 with poison := [(0x4000, true)] }).win 0).exec.map (·.stopped)) = some true := by decide +kernel
theorem test_ppsLockLost : let s := tUp.setBit Reg.glbPpsStat 0 true
    ∃ t, exec .ppsLockLost s = .next t := ⟨_, rfl⟩
theorem test_smbOthers : ((tAfter (.smbIdentity none) tUp).smbus.reply.map (·.length)) = some 25 ∧ ((tAfter (.smbTempAll none) tUp).smbus.reply.map (·.length)) = some 11 ∧
    (tAfter (.smbPower none) tUp).smbus.reply.isSome = true ∧ (tAfter (.smbPowerCap none) tUp).smbus.reply.isSome = true := by decide +kernel
theorem test_jtag_out : (tAfter (.samplePreload [true] [false, true]) tRun).pins.jtagOut = [2] ∧ (tAfter .snuffScan tRun).pins.jtagOut = [] ∧
    (tAfter (.bypass 0x7F) tRun).pins.jtagIr = 0x7F ∧ ∃ t, exec .idcode tRun = .next t := ⟨by decide +kernel, by decide +kernel, by decide +kernel, _, rfl⟩

/-! ### What else the hypotheses of the statements ask for -/

theorem test_ppsQueued : let s := { tPps 999900000 with clock := { (tPps 999900000).clock with hold := 5, ppsQueued := true } }
    (tAfter .ppsEdge { s with clock := { s.clock with ppsQueued := false } }).clock.ppsQueued = true ∧
    (tAfter .ppsHoldEnd s).clock.ppsQueued = false ∧ (tAfter .ppsHoldEnd s).clock.step = 100000 := by decide +kernel
/-- Partition 1 is enabled and served by VF 0. -/
def tVf : State := tRun.setReg (Reg.qmPart 1) (BitVec.ofNat 64 (0x10001 + 2 ^ 18))
theorem test_barred : ((regAt Reg.pwrThrot).map fun x => barred (bump tVf 88 0) (.vf 0) x.1 Reg.pwrThrot false) = some true ∧
    (tAfter (.rcRead (.vf 0) Reg.pwrThrot 8) (tVf.setReg Reg.pwrThrot 5)).hif.reply = some ⟨List.replicate 8 0, false⟩ ∧ tVf.partOfVf 0 = some 1 := by
  decide +kernel
theorem test_tripped_busy : let s := (tMail 0x201 8 (leBytes 2 2500) tRun).setFld Reg.pwrStatus 41 40 3
    tTakes s 0x201 8 = true ∧ s.pwrState = 3 ∧ tAnswers (tAfter .setCap s) 0x201 6 [] = true ∧
    (let u := (tMail 0x202 8 (leBytes 2 300) tRun).setFld Reg.pwrStatus 41 40 3
     tTakes u 0x202 8 = true ∧ tAnswers (tAfter .setAclkMax u) 0x202 6 [] = true) := by decide +kernel
theorem test_writeBack : (tAfter (.gddr6Read 96 .single) tRun).fld (Reg.dbgBcnt (57 + 2 * tRun.chanOf 96)) 47 0 = 32 := by decide +kernel
/-- A MATMUL that a quiet period has returned to the unissued state. -/
def tBack : State :=
  let s := tExec tMatmul [] 1
  { s with qm := { s.qm with wins := [], queues := [(0, { s.queue 0 with items := [{ tItem tMatmul with back := true, reserves := false }] })] } }
theorem test_reissue : (tBack.queue 0).backItem.isSome = true ∧ mayIssue tBack 0 ⟨0, tMatmul, none⟩ = true ∧
    ((tAfter (.dMatmul 0) tBack).queue 0).items.map (fun i => (i.uid, i.back)) = [(0, false)] ∧ ((tAfter (.dMatmul 0) tBack).queue 0).ip = 1 := by
  decide +kernel
theorem test_backNoRecord : let s := { tBack with qm := { tBack.qm with queues := [(0, { tBack.queue 0 with state := .cancelling })] } }
    ((tAfter (.cancelDrained 0) s).queue 0).pi = 1 := by decide +kernel
theorem test_slotNew : slotNew (tCyc 50000) 1 = true ∧ ((tCyc 50000).win 0).next = none := by decide +kernel
theorem test_emitTurn : emitTurn { due := [⟨3, 0, 0, 64, 64, 9, 0⟩] } ⟨3, 0, 0, 64, 64, 9, 0⟩ = true ∧
    emitTurn { due := [⟨3, 0, 0, 64, 64, 9, 1⟩, ⟨4, 1, 0, 64, 64, 9, 0⟩] } ⟨3, 0, 0, 64, 64, 9, 1⟩ = false := by decide +kernel
/-- Frame 1 reads the buffer of frame 0, which is still on its pipe. -/
theorem test_readsRunning : let p := { tPic 0 (.onPipe 1 4) with num := 1 }
    let x := { tDec with dec := { frames := [tPic 0 (.onPipe 0 3), p] } }
    readsRunning x p ⟨[], [], false, false, .none, [3], [], []⟩ = true ∧ readsRunning x p ⟨[], [], false, false, .none, [], [], []⟩ = false ∧
    ((tAfter (.reconDone 5 1 ⟨[], [], false, false, .none, [3], [], []⟩) (tStr x [])).stream? 5).map (·.dec.frames.length) = some 2 := by decide +kernel
theorem test_fsyncLevel : ((tAfter (.fsyncAssert 0) (tSync 20000 none none)).fsync 0).level = true ∧
    ((tAfter (.fsyncDeassert 0) (tSync 20010 none (some (20000, 10)))).fsync 0).level = false ∧
    ((tAfter (.fsyncWordA .pf 0 (tWordA + 1)) (tAfter (.fsyncWordB .pf 0 tWordB) tRun)).fsync 0).level = true := by decide +kernel
theorem test_shapeStart_ring : let s := { tShape [] tRing with pipes := [(2, { par := padTo 272 [1], shape := some (tShapeHdr, padTo 64 []), shapeAt := some 0 })] }
    shapePipe s 0 none = none ∧ (shapePipe s 0 (some 0)).map (·.1) = some 2 ∧ (tAfter (.shapeOpStart 0) s).shaper.run.map (fun x => (x.pipe, x.ring)) = some (some 2, true) ∧
    ((tAfter .shapeOpDone (tAfter (.shapeOpStart 0) s)).shapeRing 0).head = 1 := by decide +kernel
theorem test_shapeRing_anew : let s := { tShape [] { tRing with en := false } with pipes := [(2, { par := padTo 272 [1], shape := some ([], []), shapeAt := some 0 })] }
    (tAfter (.shapeRingWrite .pf 0 0x1009) s).pipes.map (·.2.shapeAt) = [none] := by decide +kernel
theorem test_ingestEnable_denied : let s := { (tMed []).setReg (Reg.qmPart 1) (BitVec.ofNat 64 (0x10001 + 2 ^ 18)) with mem := mwrite [] 0 (tIngPar.take 128) }
    mayChan (bump s 88 8) (.vf 0) 3 = true ∧ (bump s 88 8).mayPart (.vf 0) 0 = false ∧ (tAfter (.ingestEnable (.vf 0) 3 0x100021) s).reg (Reg.ingestRing 3) = 0 := by
  decide +kernel
theorem test_bell_stopping : let s := tChan { tC with stopping := true, flight := [tSample 2 none none], id := 1, slotDone := 0, firstRow := 4 } []
    ((tAfter (.rowDone .pf 3 4) s).chan 3).rowDone = 4 := by decide +kernel
theorem test_bind_early : tUp.ready = false ∧ (tAfter (.bind .pf 5) tUp).fld Reg.dbgViolLast 43 40 = 6 := by decide +kernel
theorem test_trackRing_anew : let s := { tBound { tB with held := [⟨some (0, 3), 1, 0, 0, none⟩] } with pipes := [(2, { par := padTo 272 [1], ops := [(some 3, [])] })] }
    ((tAfter (.trackRingWrite .pf 0 0x1009) s).bound? 5).map (fun x => x.held.map (·.ring)) = some [none] ∧
    (tAfter (.trackRingWrite .pf 0 0x1009) s).pipes.map (fun x => x.2.ops.map (·.1)) = [[none]] ∧ (∀ b ∈ s.track.bound, b.2.leaving = false) := by decide +kernel
theorem test_pipe_rings : let x : Pipe := { par := tPl, step := 5 }
    let s := fun (t : W32) => { (tPipe x).setSem 22 1 with track := { rings := [(0, { tRing with tail := t })] } }
    opFits (s 1) x = true ∧ opFits (s 16) x = false ∧ (tfind (tAfter (.pipeChainDone 2) (s 1)).pipes 2).map (fun y => y.ops.map (·.1)) = some [some 1] ∧
    ((tAfter (.pipeChainDone 2) (s 1)).trackRing 0).tail = 2 ∧ tIs (.pipeChainDone 2) (s 16) (s 16) = true := by decide +kernel
theorem test_bell_under_snuff : let s := tUp.setFld Reg.dbgSnuff 9 8 2
    s.stopped = true ∧ s.noBells = true ∧ isBell (.trackDoorbell .pf 0 1) = true ∧ isBell (.enable .pf 0) = false ∧
    (tAfter (.trackDoorbell .pf 0 1) s).dbg.recorded = [] ∧ (tAfter (.enable .pf 0) s).dbg.recorded = [.enable .pf 0] := by decide +kernel
/-- An argument reduction over 300 channels: the second of its tiles is to come. -/
theorem test_tilesLeft : let d := tDesc 0x10 0 (tAbc 1 1 10) [1, 300, 1, 1, 1, 1] (List.replicate 16 0 ++ [0x20])
    let k : CoreSt := { arg := some ⟨0, 0, 1⟩ }
    dArg d ≠ 0 ∧ 1 < unitTiles d (dBounds [] d) false ∧ tilesLeft k (tItem d) false = true ∧ k.freeBank = true := by decide +kernel

/-! ### Resets that last, the start, and what a failing access leaves -/

theorem test_noFlr : State.reset.hif.flr = [] ∧ tUp.hif.flr = [] ∧ tRun.hif.flr = [] ∧ tSnuffed.hif.flr = [] := by decide +kernel
theorem test_inFlr : let s := { tStr { tDec with closing := true } [] with hif := { linkUp := true, flr := [(0, [0])] } }
    (flrSettle s).inFlr .pf = true ∧ (tAfter (.registerWrite .pf Reg.hifB2win (leBytes 8 0x40000000)) s).reg Reg.hifB2win = 0 ∧
    (flrSettle { s with media := {} }).inFlr .pf = false := by decide +kernel
theorem test_perst_endpoint : let s := { tUp with pins := { bootSrc := 1 } }
    (tAfter (.perstAssert 1000) s).boot.step = 9 ∧ (tAfter (.perstAssert 1000) s).pins.perstLow = true ∧ (tAfter (.perstAssert 1000) s).hif.linkUp = false ∧
    ∃ u, exec .pfFlr s = .next u := ⟨by decide +kernel, by decide +kernel, by decide +kernel, _, rfl⟩
/-- A configuration block of one TLV. -/
def tCfg (typ : Nat) (val : List Byte) : List Byte :=
  let body := leBytes 2 typ ++ leBytes 2 val.length ++ leBytes 4 0 ++ padTo (alignUp val.length 8) val
  let h := leBytes 4 0x47464346 ++ leBytes 4 1 ++ leBytes 4 (32 + body.length) ++ leBytes 4 0 ++ leBytes 4 (crc32c body)
  h ++ leBytes 4 (crc32c h) ++ List.replicate 8 0 ++ body
/-- The TLVs of the block are one, and sound. -/
def tOneTlv (typ : Nat) (val : List Byte) : Bool := (cfgBlock (tCfg typ val)).map (·.map fun v => (v.typ, v.val, v.broken [v])) == some [(typ, val, false)]
/-- Main firmware is about to start with the block, from the NVM. -/
def tStart (typ : Nat) (val : List Byte) : State := tAfter .mainFwStart { State.reset with boot := { step := 8, cfgSource := 3, cfgCopy := tCfg typ val } }
theorem test_cfg_power : let v := leBytes 2 3000 ++ leBytes 2 600 ++ leBytes 4 0
    tOneTlv 7 v = true ∧ (tStart 7 v).fld Reg.pwrPower 47 32 = 3000 ∧ (tStart 7 v).pwr.fCeil = 600 ∧ (tStart 7 v).fld Reg.secCfginfo 1 0 = 3 := by decide +kernel
theorem test_cfg_part : let v := leBytes 1 3 ++ leBytes 1 0 ++ leBytes 2 15 ++ leBytes 2 4 ++ leBytes 2 9
    tOneTlv 1 v = true ∧ (tStart 1 v).fld (Reg.qmPart 3) 45 32 = 4 ∧ (tStart 1 v).fld (Reg.qmPart 3) 61 48 = 9 := by decide +kernel
theorem test_cfg_cycle : let v := leBytes 4 100 ++ leBytes 4 7
    tOneTlv 5 v = true ∧ (tStart 5 v).fld Reg.qmCycle 16 0 = 100 ∧ (tStart 5 v).fld Reg.qmCycle 48 32 = 7 := by decide +kernel
/-- The last block of a container of a kind is landing; of KIND 3, its payload is a block with a MEM_SPLIT. -/
def tLast (kind : Nat) : State :=
  let l : Loader := { kind := kind, source := 3, head := [], fromNvm := true, base := 0, landed := 0, cause := 0, digests := [], poisoned := false }
  { State.reset with boot := { step := 7, loader := some l, cfgCopy := tCfg 3 [4, 4, 8, 0] } }
theorem test_lastBlock : hdrBlocks [] ≤ 1 ∧ tOneTlv 3 [4, 4, 8, 0] = true ∧ splitBad [4, 4, 8, 0] = none ∧ hdrLen [] = 0 := by decide +kernel
theorem test_lastBlock_lands : (∃ t, exec .containerBlockLanded (tLast 1) = .next t) ∧ (∃ t, exec .containerBlockLanded (tLast 2) = .next t) ∧
    (∃ t, exec .containerBlockLanded (tLast 3) = .next t) := ⟨⟨_, rfl⟩, ⟨_, rfl⟩, ⟨_, rfl⟩⟩
theorem test_bar2_poisonedWrite : let t := tAfter (.bar2Write .pf 0x2000000 ⟨[1], true⟩) tRun
    (t.configOf .pf).uncStatus = 0x1000 ∧ tget false t.poison (tRun.bar2Addr .pf 0x2000000 / 8 * 8) = true := by decide +kernel
theorem test_tlbParity : let s := tAfter (.walkDone 0 0) (tWalk 0x1001)
    (tlbHit s 0 0).isSome = true ∧ (tlbHit (tAfter (.sscrub (.tlb 0 0) [.uncorrectable] false) s) 0 0).isNone = true := by decide +kernel
theorem test_stagingWord : let s := tStr { tEnc with enc := { run := some ⟨0, 3, 4, true, false, 20, false, false, [], []⟩ } } []
    ((tAfter (.sscrub (.mediaStaging 0 (some 5)) [.uncorrectable] false) s).stream? 5).map (fun x => (tget 0 x.cnt 32, x.enc.run.map (·.staged))) =
      some (1, some true) := by decide +kernel
theorem test_writesLand : tRun.fabric.chFailed = 0 ∧ tRun.fabric.lost = [] ∧ tRun.inGddrStaging 4096 256 = true := by decide +kernel

/-! ### Units and the attention ring, with every access good -/

theorem test_ahead_runs : let s := tExec tMatmul [(0, (0, 1))] 1
    (((tAfter (.aheadRequest 0) s).win 0).exec.map fun r => (r.stopped, r.out)) = some (false, 1) ∧
    (((tAfter (.tileDrain 0 0) (tAfter (.aheadRequest 0) s)).win 0).exec.map fun r => (r.stopped, r.out)) = some (false, 0) := by decide +kernel
theorem test_elemBatch_runs : let s := { tExec tReduce [] 1 with qm := { (tExec tReduce [] 1).qm with cores := [(0, { unit := some 0 })] } }
    (((tAfter (.elemBatch 0) s).win 0).exec.map (·.stopped)) = some false ∧ ((tAfter (.elemBatch 0) s).core 0).pos = 0 := by decide +kernel
/-- The same with the operands translated. -/
def tAttnMapped (a : AttnRun) : State :=
  { ((tAttn a).setReg (Reg.mmuSeqroot 0) 1).setReg (Reg.mmuRoot 0) 1 with mmu := { tlb := (List.range 16).map fun c => (c, [⟨0, 2 ^ 20, 0, true⟩, ⟨2 ^ 47, 2 ^ 20, 2 ^ 20, true⟩]) } }
theorem test_attnRead_good : let s := tAttnMapped tA
    ((s.win 0).exec.map fun r => (readBlock 0 (tItem tAttnDesc) tA 0 { s := s }).2.stop == none && r.uid == 0) = some true ∧
    ((tAfter (.attnBlockRead 0) s).attn.map fun a => tget 0 a.read 0) = some 1 := by decide +kernel
theorem test_attnRead_line : let a := { tA with line := true }
    ((tAfter (.attnBlockRead 1) (tAttnMapped a)).attn.map fun a => (tget 0 a.read 2, a.held.map (·.block))) = some (1, [1]) := by decide +kernel
theorem test_attnMerge_good : let a := { tA with absorbed := [(0, 2)] }
    ((tAfter (.attnMerge 0) (tAttnMapped a)).attn.map (·.prob)) = some 1 ∧ (((tAfter (.attnMerge 0) (tAttnMapped a)).win 0).exec.map (·.stopped)) = some false := by
  decide +kernel

/-! ### Streams, capture, the twin pair and Snuff -/

theorem test_wrongState : tStat (tAfter (.mediaFlush .pf 5) (tStr tEnc [])) = (6, true) ∧ tStat (tAfter (.mediaForceIdr .pf 5) (tStr tDec [])) = (6, true) := by decide +kernel
theorem test_disabling : let s := tCap none [tFrame true]
    let s := { s with capture := { sensors := s.capture.sensors.map fun x => (x.1, { x.2 with disabling := true }) } }
    (tAfter (.frameStartPacket 0 0 .clean) s).fld (Reg.capPortstat 0) 31 0 = 1 ∧ ((sensorsOn s 0 0).map fun x => (x.2.disabling, x.2.cur)) = [(true, none)] := by
  decide +kernel
theorem test_waitOver : let x := { tB with waitAt := some 1000 }
    (waitOver { tRun with clock := { timeF := 6000 } } x).waitAt = none ∧ tget 0 (waitOver { tRun with clock := { timeF := 6000 } } x).cnt 44 = 5 := by decide +kernel
theorem test_clearKeepsGone : let s := tBound { tB with waitAt := some 0 }
    ((tAfter (.clear .pf 5) s).bound? 5).map (fun x => (x.waitAt, x.gone)) = some (none, []) := by decide +kernel
theorem test_closedMirror : let x := { tDec with dec := { mirrored := true } }
    let s := { tTwin 2 1 {} with media := { closed := [(5, x)], pool := [(3, { tBuf with segment := true, marks := 2 ^ mkMirror })] } }
    (tAfter (.ackf 0 0 5 1 0) s).media.pool = [] ∧ (tAfter (.ackf 0 0 5 1 0) s).media.closed = [] := by decide +kernel
theorem test_snuffLower : let s := (((tRun.setFld Reg.dbgSnuff 9 8 1).setFld Reg.dbgSnuff 18 16 5).setBit Reg.dbgSnuff 2 true)
    s.pins.snuffArmed = true ∧ (tAfter .snuffPin s).fld Reg.dbgSnuff 18 16 = 2 ∧ (tAfter .snuffPin s).fld Reg.dbgSnuff 9 8 = 1 ∧
    (tAfter .snuffPin { s with clock := { timeF := 10 } }).fld Reg.dbgSnuff 18 16 = 5 := by decide +kernel
theorem test_snuffWaits : let s := fun (st : Nat) => (tRun.setBit Reg.dbgSnuff 2 true).setFld Reg.pwrStatus 41 40 st
    (tAfter .snuffPin (s 2)).dbg.waiting = true ∧ (tAfter .snuffPin (s 2)).stopped = false ∧ (tAfter .snuffPin (s 1)).fld Reg.dbgSnuff 9 8 = 2 := by decide +kernel

end Sys2Proof.Machine
end

section
/-!
SUPPORT. The commands that wait: no operation behind a BAR0 register changes them (log 9).
-/
namespace Sys2Proof.Machine

/-! ### Shared operations -/

theorem ite_pending {c : Prop} [Decidable c] {a b s : State} (ha : a.pending = s.pending) (hb : b.pending = s.pending) :
    (if c then a else b).pending = s.pending := by
  split
  · exact ha
  · exact hb

theorem foldl_pending {α : Type} {f : State → α → State} (hf : ∀ s a, (f s a).pending = s.pending) (l : List α) (s : State) :
    (l.foldl f s).pending = s.pending := by
  induction l generalizing s with
  | nil => rfl
  | cons a l ih => exact (ih (f s a)).trans (hf s a)

@[simp] theorem denied_pending (s : State) (fn : Fn) (a : Nat) : (denied s fn a).pending = s.pending := viol_pending ..
@[simp] theorem dropCmd_pending (s : State) (fn : Fn) (a : Nat) : (dropCmd s fn a).pending = s.pending := viol_pending ..
@[simp] theorem lostTaken_pending (s : State) (w : Bool) (a n : Nat) : (s.lostTaken w a n).pending = s.pending := rfl

theorem countGddr_pending (w : Bool) (f : Nat) (s : State) (a n : Nat) : (countGddr w f s a n).pending = s.pending := by
  rw [(onlyCounted_countGddr w f s a n).2]

theorem flueAccess_pending (s : State) (w : Bool) (a b n : Nat) : (flueAccess s w a b n).pending = s.pending := by
  rw [(onlyCounted_flueAccess s w a b n).2]

theorem countAccess_pending (ag : Agent) (w : Bool) (s : State) (a n : Nat) : (countAccess ag w s a n).pending = s.pending := by
  unfold countAccess
  cases s.placeOf a <;> cases ag <;> simp [countGddr_pending, flueAccess_pending]

theorem journalWrite_pending (n : JournalName) (ws : List Nat) (s : State) : (journalWrite n ws s).pending = s.pending := by
  cases n <;> rfl

theorem repairAdd_pending (s : State) (k : Nat) : (repairAdd s k).pending = s.pending := by
  unfold repairAdd
  split
  · rfl
  · simp [journalWrite_pending]

theorem errUncorrectable_pending (s : State) (k : Nat) : (errUncorrectable s k).pending = s.pending := by
  simp [errUncorrectable, repairAdd_pending]

theorem rmwErrors_pending (s : State) (a n : Nat) : (rmwErrors s a n).pending = s.pending := by
  unfold rmwErrors
  split
  · refine foldl_pending (fun s k => ?_) _ s
    split
    · exact errUncorrectable_pending s k
    · rfl
  · rfl

theorem storeSectors_pending (f : Nat) (s : State) (a : Nat) (bs : List Byte) : (storeSectors f s a bs).pending = s.pending := by
  induction f generalizing s a bs with
  | zero => rfl
  | succ f ih =>
    cases bs with
    | nil => rfl
    | cons b t =>
      simp only [storeSectors, ih]
      split
      · simp
      · split <;> simp

@[simp] theorem devWrite_pending (ag : Agent) (s : State) (a : Nat) (bs : List Byte) : (devWrite ag s a bs).pending = s.pending := by
  unfold devWrite
  dsimp only
  split
  · exact (rmwErrors_pending ..).trans (countAccess_pending ..)
  · exact (storeSectors_pending ..).trans ((rmwErrors_pending ..).trans (countAccess_pending ..))

theorem devRead_pending (ag : Agent) (s : State) (a n : Nat) : (devRead ag s a n).1.pending = s.pending := by
  unfold devRead
  dsimp only
  split
  · exact (errUncorrectable_pending ..).trans (countAccess_pending ..)
  · split
    · exact (lostTaken_pending ..).trans (countAccess_pending ..)
    · exact countAccess_pending ..

@[simp] theorem engRead_pending (s : State) (a n : Nat) : (engRead s a n).1.pending = s.pending := by
  unfold engRead
  split
  · rfl
  · exact devRead_pending ..

@[simp] theorem engWrite_pending (s : State) (a : Nat) (bs : List Byte) : (engWrite s a bs).pending = s.pending := by
  unfold engWrite
  split
  · exact viol_pending ..
  · split
    · exact viol_pending ..
    · exact devWrite_pending ..

@[simp] theorem spaceWrite_pending (s : State) (host : Bool) (a : Nat) (bs : List Byte) : (spaceWrite s host a bs).pending = s.pending := by
  cases host <;> simp [spaceWrite]

/-! ### Mail, Snuff and boot -/

theorem answerRefused_pending (n : Nat) (s : State) : (answerRefused n s).pending = s.pending := by
  induction n generalizing s with
  | zero => rfl
  | succ n ih =>
    unfold answerRefused
    split
    · rfl
    · split
      · exact (ih _).trans (devWrite_pending ..)
      · rfl

theorem mailDoorbell_pending (fn : Fn) (s : State) : (mailDoorbell fn s).pending = s.pending := by
  unfold mailDoorbell
  split
  · exact viol_pending ..
  · exact answerRefused_pending ..

theorem glbTimeWrite_pending (fn : Fn) (v : W64) (s : State) : (glbTimeWrite fn v s).pending = s.pending := by
  unfold glbTimeWrite
  split <;> simp

@[simp] theorem snuffCause_pending (c o q : Nat) (s : State) : (snuffCause c o q s).pending = s.pending := by simp [snuffCause]
@[simp] theorem snuffRecord_pending (c o q : Nat) (s : State) : (snuffRecord c o q s).pending = s.pending := by simp [snuffRecord]
@[simp] theorem snuffAmend_pending (c o q : Nat) (s : State) : (snuffAmend c o q s).pending = s.pending :=
  (with_ember_pending ..).trans (snuffCause_pending ..)

@[simp] theorem snuffStart_pending (s : State) : (snuffStart s).pending = s.pending := by
  unfold snuffStart State.fresh
  dsimp only
  split <;> split <;> simp

@[simp] theorem snuffTrigger_pending (c o q : Nat) (s : State) : (snuffTrigger c o q s).pending = s.pending := by
  unfold snuffTrigger
  split
  · simp
  · split
    · split <;> simp
    · dsimp only
      split <;> simp

/-- A write of a DBG register keeps what its own operation keeps. -/
theorem dbgWrite_pending {fn : Fn} {a : Nat} {k : State → State} {s : State} (hk : (k s).pending = s.pending) :
    (dbgWrite fn a k s).pending = s.pending := by
  unfold dbgWrite
  split
  · exact hk
  · exact denied_pending ..

theorem snuffWrite_pending (fn : Fn) (v : W64) (s : State) : (snuffWrite fn v s).pending = s.pending := by
  refine dbgWrite_pending ?_
  dsimp only [drivePin]
  repeat' split
  all_goals simp

theorem matchWrite_pending (fn : Fn) (v : W64) (s : State) : (matchWrite fn v s).pending = s.pending := by
  refine dbgWrite_pending ?_
  dsimp only
  repeat' split
  all_goals simp

theorem cntReset_pending (fn : Fn) (g : Byte) (s : State) : (cntReset fn g s).pending = s.pending := by
  refine dbgWrite_pending ?_
  have h := foldl_pending (f := cntZero) (fun s i => by simp [cntZero]) ((List.range 96).filter fun i => g.toNat.testBit (cntGroup i)) s
  dsimp only
  split
  · exact h
  · exact h

theorem traceLine_pending (h : Nat) (s : State) : (traceLine h s).pending = s.pending := by
  unfold traceLine traceDrop State.setTraceHeld
  dsimp only
  repeat' split
  all_goals simp

theorem traceCfgWrite_pending (fn : Fn) (v : W64) (s : State) : (traceCfgWrite fn v s).pending = s.pending := by
  refine dbgWrite_pending ?_
  have h := foldl_pending (f := traceDrain) (fun s h => by simp [traceDrain, traceLine_pending]) (List.range 4) s
  dsimp only
  repeat' split
  all_goals simp [h]

theorem logEvent_pending (s : State) (e : EvEntry) : (logEvent s e).pending = s.pending := by
  unfold logEvent
  dsimp only
  repeat' split
  all_goals rfl

theorem scanMeasure_pending (src : Byte) (s : State) : (scanMeasure src s).pending = s.pending := by
  refine (logEvent_pending ..).trans ?_
  exact foldl_pending (fun s i => setReg_pending ..) _ s

theorem scanWrite_pending (fn : Fn) (v : W64) (s : State) : (scanWrite fn v s).pending = s.pending := by
  refine dbgWrite_pending ?_
  dsimp only [present]
  repeat' split
  all_goals simp [scanMeasure_pending]

@[simp] theorem startLoader_pending (s : State) (kind : Nat) (src : Byte) (nvm : Bool) (base : Nat) :
    (startLoader s kind src nvm base).pending = s.pending := by
  cases nvm <;> rfl

theorem secPush_pending (fn : Fn) (bits : Nat) (s : State) : (secPush fn bits s).pending = s.pending := by
  unfold secPush
  split
  · exact viol_pending ..
  · extract_lets stage okS1 okFw okCfg res u b cfg v h1 s1 w h2
    have hres : ∀ t ok d, (res t ok d).pending = t.pending := fun _ _ _ => setFld_pending ..
    have hu : u.pending = s.pending := hres ..
    have hcfg : cfg.pending = s.pending := ite_pending (ite_pending ((with_boot_pending u _).trans hu) hu) rfl
    have hv : v.pending = s.pending := (hres ..).trans hcfg
    have hs1 : s1.pending = s.pending :=
      ite_pending (ite_pending (ite_pending (by simp [hv]) (by simp [hv])) hv) hcfg
    have hw : w.pending = s.pending := (hres ..).trans hs1
    exact ite_pending (ite_pending (ite_pending (by simp [hw]) (by simp [hw])) hw) hs1

/-! ### Commits of shadow sets -/

theorem mmuCommit_pending (fn : Fn) (s : State) : (mmuCommit fn s).pending = s.pending := by
  unfold mmuCommit mmuJudge
  split
  · exact denied_pending ..
  · split
    · exact dropCmd_pending ..
    · split
      · exact setBit_pending ..
      · exact (setBit_pending ..).trans (foldl_pending (fun s x => setReg_pending ..) s.mmu.pend s)

@[simp] theorem modStream_pending (s : State) (h : Nat) (f : Stream → Stream) : (s.modStream h f).pending = s.pending := by
  unfold State.modStream
  split <;> rfl

theorem mediaCommit_pending (fn : Fn) (s : State) : (mediaCommit fn s).pending = s.pending := by
  unfold mediaCommit
  dsimp only
  repeat' split
  all_goals simp

theorem writeStat_pending (h : Nat) (s : State) : (writeStat h s).pending = s.pending := by
  unfold writeStat
  dsimp only
  repeat' split
  all_goals simp

theorem reclaim_pending (s : State) (h : Nat) : (reclaim s h).pending = s.pending := by
  unfold reclaim
  split <;> rfl

theorem capGone_pending (k : Nat) (x : Sensor) (s : State) : (capGone k x s).pending = s.pending := by
  unfold capGone
  exact (reclaim_pending ..).trans ((writeStat_pending ..).trans (modStream_pending ..))

theorem capDisable_pending (i : Nat) (s : State) : (capDisable i s).pending = s.pending := by
  unfold capDisable
  split
  · rfl
  · dsimp only
    split
    · exact capGone_pending ..
    · rfl

theorem capEnable_pending (x : SensorSet) (s : State) : (capEnable x s).pending = s.pending := by
  unfold capEnable
  split
  · rfl
  · exact writeStat_pending ..

theorem giveContexts_pending (s : State) : (giveContexts s).pending = s.pending := by
  refine foldl_pending (fun s i => ?_) _ s
  repeat' split
  all_goals rfl

theorem capAccept_pending (f : Nat) (xs : List SensorSet) (pool : Tab Buf) (s : State) : (capAccept f xs pool s).pending = s.pending := by
  unfold capAccept
  dsimp only
  refine (giveContexts_pending _).trans ((foldl_pending (fun s x => capEnable_pending x s) xs _).trans
    ((foldl_pending (fun s i => capDisable_pending i s) _ _).trans ((foldl_pending (fun s w => ?_) (capWords.map _) _).trans rfl)))
  split
  · rfl
  · exact setReg_pending ..

theorem capAreas_pending (f : Nat) (is : List Nat) (s : State) : (capAreas f is s).1.pending = s.pending := by
  induction is generalizing s with
  | nil => rfl
  | cons i is ih =>
    unfold capAreas
    dsimp only
    split
    · exact (ih _).trans (engRead_pending ..)
    · exact ih s

theorem capResult_pending (c : Nat) (s : State) : (capResult c s).pending = s.pending := by simp [capResult]

theorem capCommit_pending (fn : Fn) (s : State) : (capCommit fn s).pending = s.pending := by
  unfold capCommit capJudge
  dsimp only
  repeat' split
  all_goals simp [capResult_pending, capAccept_pending, capAreas_pending]

/-! ### Writes behind registers -/

/-- A host write that starts an action has a next state and keeps the queue. -/
theorem actOut_next (s : State) (i : Instr) : ∃ t, actOut s i = .next t ∧ t.pending = s.pending := by
  unfold actOut
  split <;> exact ⟨_, rfl, rfl⟩

@[simp] theorem act_pending (i : Instr) (s : State) : (act i s).pending = s.pending := by
  obtain ⟨t, ht, hp⟩ := actOut_next s i
  unfold act
  rw [ht]
  exact (setReg_pending ..).trans hp

@[simp] theorem plainPut_pending (fn : Fn) (row : RegRow) (r : Nat) (v : W64) (s : State) : (plainPut fn row r v s).pending = s.pending :=
  setReg_pending ..

theorem ppsWrite_pending (fn : Fn) (row : RegRow) (v : W64) (s : State) : (ppsWrite fn row v s).pending = s.pending := by
  unfold ppsWrite
  dsimp only
  split <;> simp

theorem commitWrite_pending {fn : Fn} {row : RegRow} {r : Nat} {v : W64} {k : State → State} {s : State} (hk : ∀ s, (k s).pending = s.pending) :
    (commitWrite fn row r v k s).pending = s.pending := by
  unfold commitWrite
  dsimp only
  split <;> simp [hk]

theorem qcmdWrite_pending (fn : Fn) (v : Nat) (s : State) : (qcmdWrite fn v s).pending = s.pending := by
  unfold qcmdWrite
  split <;> simp

theorem invWrite_pending (fn : Fn) (v : Nat) (s : State) : (invWrite fn v s).pending = s.pending := by
  unfold invWrite
  split <;> simp

theorem scmdWrite_pending (fn : Fn) (v : Nat) (s : State) : (scmdWrite fn v s).pending = s.pending := by
  unfold scmdWrite
  split <;> simp

theorem tcmdWrite_pending (fn : Fn) (v : Nat) (s : State) : (tcmdWrite fn v s).pending = s.pending := by
  unfold tcmdWrite
  split <;> simp

theorem releaseWrite_pending (fn : Fn) (v : Nat) (s : State) : (releaseWrite fn v s).pending = s.pending := by
  unfold releaseWrite
  dsimp only
  split <;> split <;> simp

/-- Whatever a register does with a write, the commands that wait stay. -/
theorem regPut_pending (fn : Fn) (row : RegRow) (r : Nat) (v : W64) (s : State) : (regPut fn row r v s).pending = s.pending := by
  unfold regPut
  split
  all_goals simp [glbTimeWrite_pending, ppsWrite_pending, qcmdWrite_pending, invWrite_pending, commitWrite_pending, mmuCommit_pending,
    scmdWrite_pending, releaseWrite_pending, mediaCommit_pending, capWrite, capCommit_pending, tcmdWrite_pending, snuffWrite_pending,
    matchWrite_pending, cntReset_pending, traceCfgWrite_pending, scanWrite_pending, secPush_pending]
  -- what is left: the arms that act only on a set bit, or only for a function that may
  all_goals split <;> simp [mailDoorbell_pending]

@[simp] theorem write64_pending (fn : Fn) (row : RegRow) (r : Nat) (v : W64) (s : State) : (write64 fn row r v s).pending = s.pending := by
  unfold write64
  split
  · exact denied_pending ..
  · exact regPut_pending ..

end Sys2Proof.Machine
end

section
/-!
SUPPORT. Commands that need the fabric up, host writes past a function-level reset, and numbers as bytes.
-/
namespace Sys2Proof.Machine

/-! ### A command with the fabric up -/

theorem keepQueue_of_pending {s t : State} (h : t.pending = s.pending) : keepQueue s t = t := by
  unfold keepQueue
  rw [← h]

/-- With the fabric up, a command whose work keeps the queue ends in what its work leaves. -/
theorem live_eq {s : State} (hup : s.up = true) {k : State → State} (h : (k s).pending = s.pending) : live s k = .next (k s) := by
  unfold live gated always
  dsimp only
  rw [if_pos hup, keepQueue_of_pending h]

theorem up_congr {s t : State} (hp : t.pins = s.pins) (hb : t.boot = s.boot) : t.up = s.up := by
  unfold State.up State.inReset
  rw [hp, hb]

@[simp] theorem bump_up (s : State) (i n : Nat) : (bump s i n).up = s.up := up_congr (bump_pins ..) (bump_boot ..)

@[simp] theorem bump_stopped (s : State) (i n : Nat) (h : i < 96) : (bump s i n).stopped = s.stopped := by
  unfold State.stopped
  rw [fld_of_reg _ _ _ (reg_bump_ne s (by simp only [fieldKey, Reg.dbgSnuff, Reg.dbgBcnt]; omega))]

theorem partOfVf_congr {s t : State} (h : ∀ p, p < 16 → t.reg (Reg.qmPart p) = s.reg (Reg.qmPart p)) (n : Nat) : t.partOfVf n = s.partOfVf n := by
  unfold State.partOfVf
  refine List.find?_congr fun p hp => ?_
  have hk := h p (List.mem_range.1 hp)
  unfold State.partEn
  rw [bit_of_reg (Reg.qmPart p) 16 hk, bit_of_reg (Reg.qmPart p) 18 hk, fld_of_reg (Reg.qmPart p) 22 19 hk]

@[simp] theorem bump_violPart (s : State) (i n : Nat) (fn : Fn) : (bump s i n).violPart fn = s.violPart fn := by
  unfold State.violPart
  cases fn with
  | pf => rfl
  | vf k =>
    dsimp only
    rw [partOfVf_congr fun p hp => reg_bump_ne s (by simp only [Reg.qmPart, Reg.dbgBcnt]; omega)]

/-! ### No function-level reset lasts -/

theorem flrSettle_of_none {s : State} (h : s.hif.flr = []) : flrSettle s = s := by
  unfold flrSettle
  rw [h, List.filter_nil, ← h]

theorem pastFlr_of_none {s : State} (h : s.hif.flr = []) (fn : Fn) (k : State → State) : pastFlr fn k s = k s := by
  unfold pastFlr State.inFlr
  rw [flrSettle_of_none h, h]
  rfl

theorem dropHeld_of_none {s : State} {fn : Fn} (h : tfind s.hif.held fn.num = none) : s.dropHeld fn = s := by
  unfold State.dropHeld
  rw [h]

theorem dropHeld_of_some {s : State} {fn : Fn} {x : Half} (h : tfind s.hif.held fn.num = some x) :
    s.dropHeld fn = viol { s with hif := { s.hif with held := terase s.hif.held fn.num } } x.off 7 (s.violPart fn) := by
  unfold State.dropHeld
  rw [h]

/-! ### Numbers as bytes -/

@[simp] theorem leBytes_length (n x : Nat) : (leBytes n x).length = n := by
  induction n generalizing x with
  | zero => rfl
  | succ n ih => simp [leBytes, ih]

theorem leNat_leBytes (n x : Nat) : leNat (leBytes n x) = x % 256 ^ n := by
  induction n generalizing x with
  | zero => simp [leBytes, leNat, Nat.mod_one]
  | succ n ih => 
    rw [leBytes, leNat, ih, BitVec.toNat_ofNat, Nat.pow_succ' (m := 256)]
    exact Nat.mod_mul.symm

theorem ofNat_leNat_leBytes {w : Nat} (n : Nat) (h : 2 ^ w = 256 ^ n) (v : BitVec w) : BitVec.ofNat w (leNat (leBytes n v.toNat)) = v := by
  rw [leNat_leBytes, ← h, Nat.mod_eq_of_lt v.isLt, BitVec.ofNat_toNat, BitVec.setWidth_eq]

theorem leBytes_zero (n : Nat) : leBytes n 0 = List.replicate n 0 := by
  induction n with
  | zero => rfl
  | succ n ih => rw [leBytes, Nat.zero_div, ih]; rfl

end Sys2Proof.Machine
end

section
/-!
SUPPORT. The register map: where the registers of a row stand, and what the map says of the rows that BAR0 writes are stated about.
-/
namespace Sys2Proof.Machine

/-- The register of a row that holds an offset is one of its copies. -/
theorem base?_bounds {row : RegRow} {o b : Nat} (h : row.base? o = some b) :
    row.off ≤ b ∧ b ≤ row.off + row.stride * (row.count - 1) + row.stride2 * (row.count2 - 1) := by
  unfold RegRow.base? at h
  split at h
  · cases h
  · extract_lets i j b' at h
    split at h
    case isFalse => cases h
    case isTrue hc =>
      simp only [Bool.and_eq_true, decide_eq_true_eq] at hc
      obtain ⟨⟨hi, hj⟩, -⟩ := hc
      rw [← Option.some.inj h]
      have h1 : row.stride * i ≤ row.stride * (row.count - 1) := Nat.mul_le_mul_left _ (by omega)
      have h2 : row.stride2 * j ≤ row.stride2 * (row.count2 - 1) := Nat.mul_le_mul_left _ (by omega)
      change _ ≤ row.off + row.stride * i + row.stride2 * j ∧ row.off + row.stride * i + row.stride2 * j ≤ _
      omega

theorem findRow_some {rows : List RegRow} {o b : Nat} {row : RegRow} (h : findRow rows o = some (row, b)) : row ∈ rows ∧ row.base? o = some b := by
  induction rows with
  | nil => cases h
  | cons r rs ih =>
    unfold findRow at h
    split at h
    next b' hb =>
      cases h
      exact ⟨List.mem_cons_self, hb⟩
    next =>
      obtain ⟨hm, hb⟩ := ih h
      exact ⟨List.mem_cons_of_mem _ hm, hb⟩

/-- The registers without an action whose writes wait for the resume under Snuff (R468). -/
def recordedNames : List String := ["MMU_INV_ADDR", "HEARTH_RTABt", "QM_QTAB"]

/-- Their rows have no w1c bits and stand below the Hearths' end, so below INGEST and the byte counters. -/
theorem recordedRows_shape : ∀ row ∈ regRows, row.name ∈ recordedNames →
    row.w1c = 0 ∧ row.off + row.stride * (row.count - 1) + row.stride2 * (row.count2 - 1) < 0x200000 := by decide +kernel

/-- QM_QTAB is one register. -/
theorem qtabRow_shape : ∀ row ∈ regRows, row.name = "QM_QTAB" →
    row.off = Reg.qmQtab ∧ row.off + row.stride * (row.count - 1) + row.stride2 * (row.count2 - 1) = Reg.qmQtab := by decide +kernel

theorem recorded_off {row : RegRow} {o b : Nat} (h : regAt o = some (row, b)) (hn : row.name ∈ recordedNames) : row.w1c = 0 ∧ b < 0x200000 := by
  obtain ⟨hm, hb⟩ := findRow_some h
  obtain ⟨hw, hlt⟩ := recordedRows_shape row hm hn
  exact ⟨hw, Nat.lt_of_le_of_lt (base?_bounds hb).2 hlt⟩

theorem qtab_off {row : RegRow} {o b : Nat} (h : regAt o = some (row, b)) (hn : row.name = "QM_QTAB") : b = Reg.qmQtab := by
  obtain ⟨hm, hb⟩ := findRow_some h
  obtain ⟨h1, h2⟩ := qtabRow_shape row hm hn
  have := base?_bounds hb
  omega

/-- A register below the byte counters is none of them, whatever function's copy it is. -/
theorem busKey_ne_dbgBcnt (fn : Fn) (row : RegRow) {o i : Nat} (ho : o < 0x200000) (hi : i < 96) : busKey fn row o ≠ Reg.dbgBcnt i := by
  unfold busKey fnKey Reg.dbgBcnt
  split <;> omega

end Sys2Proof.Machine
end

section
/-!
SUPPORT. BAR0 accesses of a whole 64-bit register and of its halves (R355): what each of them comes to at its register.
-/
namespace Sys2Proof.Machine

/-! ### Registers changed, and nothing else -/

/-- Only registers of a list changed, and nothing but registers. -/
def Touches (ks : List Nat) (s t : State) : Prop := OnlyRegs ks s t ∧ t = { s with regs := t.regs }

theorem touches_refl (ks : List Nat) (s : State) : Touches ks s s := ⟨fun _ _ => rfl, rfl⟩

theorem touches_trans {ks : List Nat} {s t u : State} (h : Touches ks s t) (h' : Touches ks t u) : Touches ks s u := by
  obtain ⟨hregs, hrest⟩ := h
  obtain ⟨hregs', hrest'⟩ := h'
  exact ⟨fun k hk => (hregs' k hk).trans (hregs k hk), hrest'.trans (congrArg (fun x : State => { x with regs := u.regs }) hrest)⟩

theorem touches_setReg {ks : List Nat} {s t : State} (h : Touches ks s t) {k : Nat} (hk : k ∈ ks) (v : W64) : Touches ks s (t.setReg k v) := by
  obtain ⟨hregs, hrest⟩ := h
  refine ⟨fun j hj => (reg_setReg_ne t v fun e => hj (by rw [e]; exact hk)).trans (hregs j hj), ?_⟩
  exact congrArg (fun u : State => { u with regs := rset t.regs k v }) hrest

theorem touches_bump {ks : List Nat} {s t : State} (h : Touches ks s t) {i : Nat} (hi : Reg.dbgBcnt i ∈ ks) (n : Nat) : Touches ks s (bump t i n) :=
  touches_setReg h hi _

/-! ### Registers read and written -/

theorem plainPut_whole {row : RegRow} (hb : row.bytes = 8) (fn : Fn) (r : Nat) (v : W64) (s : State) :
    plainPut fn row r v s = s.setReg (busKey fn row r)
      (((s.reg (busKey fn row r) &&& ~~~(BitVec.ofNat 64 row.rw)) ||| (v &&& BitVec.ofNat 64 row.rw)) &&& ~~~(BitVec.ofNat 64 row.w1c &&& v)) := by
  simp [plainPut, hb]

theorem read64_barred {s : State} {fn : Fn} {row : RegRow} {r : Nat} (h : barred s fn row r false = true) (m : W64) :
    read64 fn row r m s = (denied s fn r, 0) := if_pos h

theorem read64_open {s : State} {fn : Fn} {row : RegRow} {r : Nat} (h : barred s fn row r false = false) (m : W64) :
    read64 fn row r m s = (rcClear fn row r m s, regView s fn row r) := if_neg (by simp [h])

theorem rcClear_whole (fn : Fn) (row : RegRow) (r : Nat) (s : State) :
    Touches [busKey fn row r] s (rcClear fn row r (BitVec.ofNat 64 (2 ^ 64 - 1)) s) ∧
      (rcClear fn row r (BitVec.ofNat 64 (2 ^ 64 - 1)) s).reg (busKey fn row r) = s.reg (busKey fn row r) &&& ~~~(BitVec.ofNat 64 row.rc) := by
  have hall : BitVec.ofNat 64 row.rc &&& BitVec.ofNat 64 (2 ^ 64 - 1) = BitVec.ofNat 64 row.rc := BitVec.and_allOnes
  unfold rcClear
  dsimp only
  rw [hall]
  split
  next h => 
    refine ⟨touches_refl .., ?_⟩
    rw [h]
    exact BitVec.and_allOnes.symm
  next => exact ⟨touches_setReg (touches_refl ..) List.mem_cons_self _, reg_setReg_self ..⟩

theorem rcClear_of_none {row : RegRow} (h : row.rc = 0) (fn : Fn) (r : Nat) (m : W64) (s : State) : rcClear fn row r m s = s := by
  simp [rcClear, h]

theorem read64_pending (fn : Fn) (row : RegRow) (r : Nat) (m : W64) (s : State) : (read64 fn row r m s).1.pending = s.pending := by
  unfold read64 rcClear
  dsimp only
  split
  · exact denied_pending ..
  · split
    · rfl
    · exact setReg_pending ..

/-- Four bytes written at an aligned offset. -/
theorem bar0Write_half {o : Nat} (ho : o % 4 = 0) {s : State} (hf : s.hif.flr = []) (fn : Fn) (v : W32) :
    bar0Write fn o (leBytes 4 v.toNat) s = write4 fn o v (bump s 88 4) := by
  have hm : malformed o 4 = false := by simp [malformed, ho]
  unfold bar0Write
  simp only [leBytes_length]
  rw [pastFlr_of_none (by simpa using hf)]
  simp [hm, ofNat_leNat_leBytes 4 (w := 32) (by decide)]

/-- A read has returned its bytes. -/
def answered (bs : List Byte) (s : State) : State := { s with hif := { s.hif with reply := some ⟨bs, false⟩ } }

/-- BAR0 holds no latched half of a function. -/
def unlatched (fn : Fn) (s : State) : State := { s with hif := { s.hif with latch := terase s.hif.latch fn.num } }

/-- BAR0 holds a latched high half of a function. -/
def latched (fn : Fn) (x : Half) (s : State) : State := { s with hif := { s.hif with latch := tput s.hif.latch fn.num x } }

theorem answered_reg (bs : List Byte) (s : State) (k : Nat) : (answered bs s).reg k = s.reg k := rfl
theorem answered_pending (bs : List Byte) (s : State) : (answered bs s).pending = s.pending := rfl
theorem unlatched_reg (fn : Fn) (s : State) (k : Nat) : (unlatched fn s).reg k = s.reg k := rfl
theorem unlatched_pending (fn : Fn) (s : State) : (unlatched fn s).pending = s.pending := rfl
theorem latched_reg (fn : Fn) (x : Half) (s : State) (k : Nat) : (latched fn x s).reg k = s.reg k := rfl

/-- Four bytes read at an aligned offset. -/
theorem bar0Read_half {o : Nat} (ho : o % 4 = 0) (fn : Fn) (s : State) :
    bar0Read fn o 4 s = answered (leBytes 4 (read4 fn o (bump s 89 4)).2) (read4 fn o (bump s 89 4)).1 := by
  have hm : malformed o 4 = false := by simp [malformed, ho]
  simp [bar0Read, hm, answered]

/-! ### Where a whole register stands -/

/-- A register of 8 bytes stands at an aligned offset, and neither a window of BAR0 nor a 32-bit register takes its place or that of its high half. -/
structure WholeReg (fn : Fn) (o : Nat) (row : RegRow) : Prop where
  aligned : o % 8 = 0
  reg : regAt o = some (row, o)
  bytes : row.bytes = 8
  window : barWindow fn o = none
  windowHigh : barWindow fn (o + 4) = none
  shortHigh : shortAt (o + 4) = none

namespace WholeReg
variable {fn : Fn} {o : Nat} {row : RegRow} (h : WholeReg fn o row)
include h

theorem word : wordAt o = some row := by
  unfold wordAt
  rw [h.reg]
  exact if_pos (.inl rfl)

theorem short : shortAt o = none := by
  unfold shortAt
  rw [h.word]
  exact if_neg (by rw [h.bytes]; decide)

theorem not_short : row.bytes ≠ 4 := by rw [h.bytes]; decide

theorem div_mul : o / 8 * 8 = o := Nat.div_mul_cancel (Nat.dvd_of_mod_eq_zero h.aligned)

theorem high_div_mul : (o + 4) / 8 * 8 = o := by have := h.aligned; omega

/-! ### Writes -/

theorem write8_eq (v : W64) (s : State) : write8 fn o v s = write64 fn row o v (s.dropHeld fn) := by
  simp only [write8, h.window, h.short, h.word]

theorem write4_low {s : State} (hs : tfind s.hif.held fn.num = none) (v : W32) :
    write4 fn o v s = { s with hif := { s.hif with held := tput s.hif.held fn.num ⟨o, v⟩ } } := by
  simp [write4, hs, dropHeld_of_none hs, h.window, h.short, h.div_mul, h.word, h.not_short, h.aligned]

theorem write4_high {s : State} {lo : W32} (hs : tfind s.hif.held fn.num = some ⟨o, lo⟩) (hi : W32) :
    write4 fn (o + 4) hi s = write64 fn row o (BitVec.ofNat 64 (lo.toNat + hi.toNat * 2 ^ 32))
      { s with hif := { s.hif with held := terase s.hif.held fn.num } } := by
  have hodd : ¬ (o + 4) % 8 = 0 := by have := h.aligned; omega
  simp [write4, hs, h.windowHigh, h.shortHigh, h.high_div_mul, h.word, h.not_short, hodd]

theorem bar0Write_whole {s : State} (hf : s.hif.flr = []) (v : W64) :
    bar0Write fn o (leBytes 8 v.toNat) s = write64 fn row o v ((bump s 88 8).dropHeld fn) := by
  have hm : malformed o 8 = false := by simp [malformed, h.aligned]
  have hv : BitVec.ofNat 64 (leAt (leBytes 8 v.toNat) 0 8) = v := by
    rw [leAt, List.drop_zero, List.take_of_length_le (by simp), ofNat_leNat_leBytes 8 (by decide)]
  unfold bar0Write
  simp only [leBytes_length]
  rw [pastFlr_of_none (by simpa using hf)]
  simp [hm, writeRun, hv, h.write8_eq]

/-! ### Reads -/

theorem read8_eq (s : State) : read8 fn o s =
    ((read64 fn row o (BitVec.ofNat 64 (2 ^ 64 - 1)) (unlatched fn s)).1, (read64 fn row o (BitVec.ofNat 64 (2 ^ 64 - 1)) (unlatched fn s)).2.toNat) := by
  simp only [read8, h.window, h.short, h.word, unlatched]

theorem bar0Read_whole (s : State) : bar0Read fn o 8 s =
    answered (leBytes 8 (read64 fn row o (BitVec.ofNat 64 (2 ^ 64 - 1)) (unlatched fn (bump s 89 8))).2.toNat)
      (read64 fn row o (BitVec.ofNat 64 (2 ^ 64 - 1)) (unlatched fn (bump s 89 8))).1 := by
  have hm : malformed o 8 = false := by simp [malformed, h.aligned]
  simp [bar0Read, hm, readRun, h.read8_eq, answered]

/-- Low half: the register is read whole, and its high half is latched. -/
theorem read4_low (s : State) : read4 fn o s =
    (latched fn ⟨o, BitVec.ofNat 32 ((read64 fn row o (BitVec.ofNat 64 (2 ^ 64 - 1)) (unlatched fn s)).2.toNat / 2 ^ 32)⟩
      (read64 fn row o (BitVec.ofNat 64 (2 ^ 64 - 1)) (unlatched fn s)).1,
    (read64 fn row o (BitVec.ofNat 64 (2 ^ 64 - 1)) (unlatched fn s)).2.toNat % 2 ^ 32) := by
  simp [read4, h.window, h.short, h.div_mul, h.word, h.not_short, h.aligned, unlatched, latched]

/-- High half after the low one: what was latched. -/
theorem read4_high {s : State} {x : W32} (hs : tfind s.hif.latch fn.num = some ⟨o, x⟩) : read4 fn (o + 4) s = (unlatched fn s, x.toNat) := by
  have hodd : ¬ (o + 4) % 8 = 0 := by have := h.aligned; omega
  simp [read4, hs, h.windowHigh, h.shortHigh, h.high_div_mul, h.word, h.not_short, hodd, unlatched]

end WholeReg
end Sys2Proof.Machine
end

section
/-!
SUPPORT. Writes of registers without an action: at once by their access codes, or through the writes that Snuff records (R468).
-/
namespace Sys2Proof.Machine

/-- The registers of 8 bytes or less that a write by their access codes is stated about. -/
def plainNames : List String :=
  ["GLB_ID", "GLB_UID", "GLB_STATUS", "GLB_PPS_STAT", "HIF_LINK", "HIF_B2WIN", "HIF_MAIL_STAT",
    "HIF_NOTE", "HIF_HDROP", "QM_QSEL", "QM_CSEL", "QM_STALL_TIME", "MEM_CAPACITY", "MEM_SPLIT", "HEARTH_EFLAG",
    "MEDIA_SCMD_ADDR", "MEDIA_SSEL", "MEDIA_BUFSEL", "TRACK_CMD_ADDR", "PWR_STATUS", "PWR_POWER", "REL_LOG", "SEC_BOOTSTAT", "SEC_VERSIONS"]

/-- No arm of `regPut` but its last is for one of these. -/
theorem regPut_plain {row : RegRow} (hn : row.name ∈ plainNames) (fn : Fn) (r : Nat) (v : W64) (s : State) :
    regPut fn row r v s = plainPut fn row r v s := by
  unfold regPut
  split
  case h_44 => rfl
  all_goals
    next hname =>
      rw [hname] at hn
      exact absurd hn (by decide)

theorem regPut_recorded {row : RegRow} (hn : row.name ∈ recordedNames) (fn : Fn) (r : Nat) (v : W64) (s : State) :
    regPut fn row r v s = act (.registerWrite fn r (leBytes 8 v.toNat)) s := by
  unfold regPut
  simp only [recordedNames, List.mem_cons, List.not_mem_nil, or_false] at hn
  rcases hn with hn | hn | hn <;> simp only [hn]

/-! ### Writes that wait for the resume -/

/-- QM_QTAB keeps its value while a queue is enabled (R189). -/
abbrev QtabHeld (row : RegRow) (s : State) : Prop := row.name = "QM_QTAB" ∧ s.qm.queues.any (fun x => x.2.state != .disabled) = true

theorem qtabHeld_bump (row : RegRow) (s : State) (i n : Nat) : QtabHeld row (bump s i n) ↔ QtabHeld row s := by rw [QtabHeld, bump_qm]

theorem rawWrite_held {s : State} {row : RegRow} {r b : Nat} (h : regAt r = some (row, b)) (hq : QtabHeld row s) (fn : Fn) (v : W64) :
    rawWrite fn r v s = s := by
  obtain ⟨hname, hany⟩ := hq
  simp [rawWrite, h, hname, qtabWrite, hany]

theorem rawWrite_recorded {s : State} {row : RegRow} {r : Nat} (h : regAt r = some (row, r)) (hn : row.name ∈ recordedNames)
    (hq : ¬ QtabHeld row s) (fn : Fn) (v : W64) : rawWrite fn r v s = plainPut fn row r v s := by
  by_cases hname : row.name = "QM_QTAB"
  · have hany : ¬ s.qm.queues.any (fun x => x.2.state != .disabled) = true := fun e => hq ⟨hname, e⟩
    have hr := qtab_off h hname
    subst hr
    simp only [rawWrite, h, hname, qtabWrite, if_neg hany]
    rfl
  · have hi : ¬ (row.name = "INGEST_RINGc" ∨ row.name = "INGEST_DBc") := by
      rintro (e | e) <;> (rw [e] at hn; exact absurd hn (by decide))
    simp only [rawWrite, h, if_neg hi, if_neg hname]

/-- A register write below INGEST is no doorbell. -/
theorem isBell_registerWrite (fn : Fn) {r : Nat} (hr : r < 0x200000) (bs : List Byte) : isBell (.registerWrite fn r bs) = false := by
  have hlow : ¬ Reg.ingestRing 0 ≤ r := by unfold Reg.ingestRing; omega
  simp [isBell, hlow]

/-- Whole register writes recorded under Snuff. -/
def recordedWrite (fn : Fn) (r : Nat) (bs : List Byte) (s : State) : State :=
  { s with dbg := { s.dbg with recorded := s.dbg.recorded ++ [.registerWrite fn r bs] } }

theorem recordedWrite_pending (fn : Fn) (r : Nat) (bs : List Byte) (s : State) : (recordedWrite fn r bs s).pending = s.pending := with_dbg_pending ..

/-- A register write that is no doorbell is recorded under Snuff, and else reaches its register. -/
theorem orRecord_registerWrite {s : State} {fn : Fn} {r : Nat} {bs : List Byte} (hr : r < 0x200000) (hf : s.hif.flr = [])
    (hh : tfind s.hif.held fn.num = none) (k : State → State) : orRecord (.registerWrite fn r bs) k s =
      if s.stopped = true then recordedWrite fn r bs (bump s 88 8) else k (bump s 88 8) := by
  have hb : s.beforeWrite (.registerWrite fn r bs) = bump s 88 8 := dropHeld_of_none (s := bump s 88 8) (by simpa using hh)
  unfold orRecord writerPasses writerOf
  dsimp only
  rw [hb, pastFlr_of_none (by simpa using hf)]
  simp [isBell_registerWrite fn hr bs, recordedWrite]

/-- A register write as it arrives at a register without an action: recorded, or done, and its bytes not counted again. -/
theorem act_registerWrite {s : State} {fn : Fn} {r : Nat} (hr : r < 0x200000) (hup : s.up = true) (hf : s.hif.flr = [])
    (hh : tfind s.hif.held fn.num = none) (v : W64) : act (.registerWrite fn r (leBytes 8 v.toNat)) s =
      (keepQueue s (if s.stopped = true then recordedWrite fn r (leBytes 8 v.toNat) (bump s 88 8) else rawWrite fn r v (bump s 88 8))).setReg
        (Reg.dbgBcnt 88) (s.reg (Reg.dbgBcnt 88)) := by
  have hlive : actOut s (.registerWrite fn r (leBytes 8 v.toNat)) =
      .next (keepQueue s (if s.stopped = true then recordedWrite fn r (leBytes 8 v.toNat) (bump s 88 8) else rawWrite fn r v (bump s 88 8))) := by
    unfold actOut live gated always
    dsimp only
    rw [if_pos hup, orRecord_registerWrite hr hf hh, ofNat_leNat_leBytes 8 (by decide)]
  unfold act
  rw [hlive]
  rfl

/-- Recorded registers outside Snuff: the rw bits take the value, but QM_QTAB keeps its own while a queue is enabled. -/
theorem act_recorded_running {s : State} {fn : Fn} {row : RegRow} {r : Nat} (h : regAt r = some (row, r)) (hn : row.name ∈ recordedNames)
    (hb : row.bytes = 8) (hup : s.up = true) (hf : s.hif.flr = []) (hh : tfind s.hif.held fn.num = none) (hs : s.stopped = false) (v : W64) :
    let t := act (.registerWrite fn r (leBytes 8 v.toNat)) s
    let k := busKey fn row r
    Touches [k, Reg.dbgBcnt 88] s t ∧
      t.reg k = if QtabHeld row s then s.reg k else (s.reg k &&& ~~~(BitVec.ofNat 64 row.rw)) ||| (v &&& BitVec.ofNat 64 row.rw) := by
  obtain ⟨hw, hr⟩ := recorded_off h hn
  have hk : busKey fn row r ≠ Reg.dbgBcnt 88 := busKey_ne_dbgBcnt fn row hr (by decide)
  have hbump : Touches [busKey fn row r, Reg.dbgBcnt 88] s (bump s 88 8) := touches_bump (touches_refl ..) (by simp) 8
  dsimp only
  rw [act_registerWrite hr hup hf hh, if_neg (by simp [hs])]
  by_cases hq : QtabHeld row s
  · rw [rawWrite_held h ((qtabHeld_bump ..).2 hq), keepQueue_of_pending (bump_pending ..), if_pos hq]
    refine ⟨touches_setReg hbump (by simp) _, ?_⟩
    rw [reg_setReg_ne _ _ hk, reg_bump_ne _ hk]
  · rw [rawWrite_recorded h hn (fun e => hq ((qtabHeld_bump ..).1 e)), plainPut_whole hb,
      keepQueue_of_pending ((setReg_pending ..).trans (bump_pending ..)), if_neg hq]
    refine ⟨touches_setReg (touches_setReg hbump (by simp) _) (by simp) _, ?_⟩
    rw [reg_setReg_ne _ _ hk, reg_setReg_self, reg_bump_ne _ hk, hw, BitVec.zero_and]
    exact BitVec.and_allOnes

/-- Recorded registers under Snuff: the write waits for the resume. -/
theorem act_recorded_stopped {s : State} {fn : Fn} {r : Nat} (hr : r < 0x200000) (hup : s.up = true) (hf : s.hif.flr = [])
    (hh : tfind s.hif.held fn.num = none) (hs : s.stopped = true) (v : W64) :
    let t := act (.registerWrite fn r (leBytes 8 v.toNat)) s
    OnlyRegs [Reg.dbgBcnt 88] s t ∧ t = { recordedWrite fn r (leBytes 8 v.toNat) s with regs := t.regs } := by
  dsimp only
  rw [act_registerWrite hr hup hf hh, if_pos hs, keepQueue_of_pending ((recordedWrite_pending ..).trans (bump_pending ..))]
  refine ⟨fun j hj => ?_, rfl⟩
  have hj : j ≠ Reg.dbgBcnt 88 := by simpa using hj
  exact (reg_setReg_ne _ _ hj).trans (reg_bump_ne s hj)

end Sys2Proof.Machine
end


section
/-!
O24. BAR0 accesses of a register of 8 bytes, whole and by its halves (R8, R10, R355).
-/
namespace Sys2Proof.Machine

/-! ### The four commands -/

theorem exec_registerWrite (fn : Fn) (o : Nat) (bs : List Byte) (s : State) : exec (.registerWrite fn o bs) s = live s (bar0Write fn o bs) := rfl
theorem exec_rcRead (fn : Fn) (o n : Nat) (s : State) : exec (.rcRead fn o n) s = live s (bar0Read fn o n) := rfl
theorem exec_bar0HalfWrite (fn : Fn) (o : Nat) (v : W32) (s : State) :
    exec (.bar0HalfWrite fn o v) s = live s (bar0Write fn o (leBytes 4 v.toNat)) := rfl
theorem exec_bar0HalfRead (fn : Fn) (o : Nat) (s : State) : exec (.bar0HalfRead fn o) s = live s (bar0Read fn o 4) := rfl

/-- A command of BAR0 whose work comes to a state that keeps the queue ends in that state. -/
theorem live_next {s t : State} (hup : s.up = true) {k : State → State} (h : k s = t) (hp : t.pending = s.pending) : live s k = .next t := by
  rw [live_eq hup (by rw [h]; exact hp), h]

/-- Registers and the host interface aside, a register operation of a read changes nothing. -/
theorem answered_frame {ks : List Nat} {u r : State} (h : Touches ks u r) (bs : List Byte) :
    (answered bs r).hif = { u.hif with reply := some ⟨bs, false⟩ } ∧ OnlyRegs ks u (answered bs r) ∧
      answered bs r = { u with regs := (answered bs r).regs, hif := (answered bs r).hif } := by
  obtain ⟨hregs, hrest⟩ := h
  have hhif : r.hif = u.hif := by rw [hrest]
  refine ⟨?_, hregs, ?_⟩
  · unfold answered
    rw [hhif]
  · exact congrArg (fun x : State => { x with regs := r.regs, hif := (answered bs r).hif }) hrest

/-- Registers and the host interface aside, nothing changed. -/
def HostSide (s t : State) : Prop := t = { s with regs := t.regs, hif := t.hif }

theorem hostSide_refl (s : State) : HostSide s s := rfl

theorem HostSide.hif {s t : State} (h : HostSide s t) (x : Hif) : HostSide s { t with hif := x } := by
  unfold HostSide at *
  exact congrArg (fun u : State => { u with regs := t.regs, hif := x }) h

theorem HostSide.bump {s t : State} (h : HostSide s t) (i n : Nat) : HostSide s (bump t i n) := by
  unfold HostSide at *
  exact congrArg (fun u : State => { u with regs := (Machine.bump t i n).regs, hif := t.hif }) h

namespace WholeReg
variable {s : State} {fn : Fn} {o : Nat} {row : RegRow} (h : WholeReg fn o row) (hup : s.up = true)
include h hup

/-! ### Whole writes -/

/-- A whole write counts its bytes, discards a held half, and reaches its register. -/
theorem registerWrite_eq (hf : s.hif.flr = []) (v : W64) :
    exec (.registerWrite fn o (leBytes 8 v.toNat)) s = .next (write64 fn row o v ((bump s 88 8).dropHeld fn)) := by
  rw [exec_registerWrite]
  exact live_next hup (h.bar0Write_whole hf v) (by simp)

/-- With no half held, a whole write that the function may make. -/
theorem registerWrite_open (hf : s.hif.flr = []) (hh : tfind s.hif.held fn.num = none) (v : W64)
    (hb : barred (bump s 88 8) fn row o true = false) :
    exec (.registerWrite fn o (leBytes 8 v.toNat)) s = .next (regPut fn row o v (bump s 88 8)) := by
  rw [h.registerWrite_eq hup hf, dropHeld_of_none (by simpa using hh), write64, if_neg (by simp [hb])]

theorem registerWrite_barred (hf : s.hif.flr = []) (hh : tfind s.hif.held fn.num = none) (v : W64)
    (hb : barred (bump s 88 8) fn row o true = true) :
    exec (.registerWrite fn o (leBytes 8 v.toNat)) s = .next (denied (bump s 88 8) fn o) := by
  rw [h.registerWrite_eq hup hf, dropHeld_of_none (by simpa using hh), write64, if_pos hb]

theorem registerWrite_recorded (hf : s.hif.flr = []) (hh : tfind s.hif.held fn.num = none) (v : W64)
    (hb : barred (bump s 88 8) fn row o true = false) (hn : row.name ∈ recordedNames) :
    ∃ t, exec (.registerWrite fn o (leBytes 8 v.toNat)) s = .next t ∧
      (s.stopped = false → Touches [busKey fn row o, Reg.dbgBcnt 88] s t ∧ t.reg (busKey fn row o) =
        if QtabHeld row s then s.reg (busKey fn row o)
        else (s.reg (busKey fn row o) &&& ~~~(BitVec.ofNat 64 row.rw)) ||| (v &&& BitVec.ofNat 64 row.rw)) ∧
      (s.stopped = true → OnlyRegs [Reg.dbgBcnt 88] s t ∧ t = { recordedWrite fn o (leBytes 8 v.toNat) s with regs := t.regs }) := by
  have hup' : (bump s 88 8).up = true := by rw [bump_up, hup]
  have hf' : (bump s 88 8).hif.flr = [] := by rw [bump_hif, hf]
  have hh' : tfind (bump s 88 8).hif.held fn.num = none := by rw [bump_hif, hh]
  have hs' : (bump s 88 8).stopped = s.stopped := bump_stopped s 88 8 (by decide)
  obtain ⟨-, ho⟩ := recorded_off h.reg hn
  refine ⟨_, (h.registerWrite_open hup hf hh v hb).trans (by rw [regPut_recorded hn]), fun hs => ?_, fun hs => ?_⟩
  · obtain ⟨htouch, hval⟩ := act_recorded_running h.reg hn h.bytes hup' hf' hh' (hs'.trans hs) v
    refine ⟨touches_trans (touches_bump (touches_refl ..) (by simp) 8) htouch, hval.trans ?_⟩
    rw [reg_bump_ne s (busKey_ne_dbgBcnt fn row ho (by decide))]
    simp only [qtabHeld_bump]
  · obtain ⟨honly, hrest⟩ := act_recorded_stopped ho hup' hf' hh' (hs'.trans hs) v
    refine ⟨fun k hk => (honly k hk).trans (reg_bump_ne s (by simpa using hk)), hrest.trans ?_⟩
    rw [recordedWrite, recordedWrite, bump_dbg]
    rfl

/-- A held half is discarded by a whole write, a violation of its own. -/
theorem registerWrite_over_held (hf : s.hif.flr = []) {lo : W32} (hh : tfind s.hif.held fn.num = some ⟨o, lo⟩) (v : W64) :
    exec (.registerWrite fn o (leBytes 8 v.toNat)) s =
      .next (write64 fn row o v (viol { bump s 88 8 with hif := { s.hif with held := terase s.hif.held fn.num } } o 7 (s.violPart fn))) := by
  rw [h.registerWrite_eq hup hf, dropHeld_of_some (x := ⟨o, lo⟩) (by simpa using hh), bump_violPart, bump_hif]

/-! ### Halves written -/

theorem halfWrite_low (hf : s.hif.flr = []) (hh : tfind s.hif.held fn.num = none) (v : W32) :
    exec (.bar0HalfWrite fn o v) s = .next { bump s 88 4 with hif := { s.hif with held := tput s.hif.held fn.num ⟨o, v⟩ } } := by
  have ho : o % 4 = 0 := by have := h.aligned; omega
  rw [exec_bar0HalfWrite]
  refine live_next hup ?_ (by simp)
  rw [bar0Write_half ho hf, h.write4_low (by simpa using hh), bump_hif]

theorem halfWrite_high (hf : s.hif.flr = []) {lo : W32} (hh : tfind s.hif.held fn.num = some ⟨o, lo⟩) (hi : W32) :
    exec (.bar0HalfWrite fn (o + 4) hi) s = .next (write64 fn row o (BitVec.ofNat 64 (lo.toNat + hi.toNat * 2 ^ 32))
      { bump s 88 4 with hif := { s.hif with held := terase s.hif.held fn.num } }) := by
  have ho : (o + 4) % 4 = 0 := by have := h.aligned; omega
  rw [exec_bar0HalfWrite]
  refine live_next hup ?_ (by simp)
  rw [bar0Write_half ho hf, h.write4_high (lo := lo) (by simpa using hh), bump_hif]

/-! ### Reads -/

theorem rcRead_eq {p : State × W64} (hp : read64 fn row o (BitVec.ofNat 64 (2 ^ 64 - 1)) (unlatched fn (bump s 89 8)) = p) :
    exec (.rcRead fn o 8) s = .next (answered (leBytes 8 p.2.toNat) p.1) := by
  subst hp
  rw [exec_rcRead]
  exact live_next hup (h.bar0Read_whole s) (by
    rw [answered_pending, read64_pending, unlatched_pending, bump_pending])

/-- A read that the function may not make returns zeros, and moves only counters. -/
theorem rcRead_barred (hb : barred (unlatched fn (bump s 89 8)) fn row o false = true) :
    ∃ t, exec (.rcRead fn o 8) s = .next t ∧ t.hif.reply = some ⟨List.replicate 8 0, false⟩ ∧
      OnlyRegs (Reg.dbgViolCount :: Reg.dbgViolLast :: byteCounters) s t := by
  refine ⟨_, h.rcRead_eq hup (read64_barred hb _), ?_, fun k hk => ?_⟩
  · exact congrArg (fun bs => some (⟨bs, false⟩ : Reply)) (leBytes_zero 8)
  · simp only [List.mem_cons, not_or] at hk
    obtain ⟨hc, hl, hbytes⟩ := hk
    rw [answered_reg, denied, reg_viol _ _ _ _ _ hc hl, unlatched_reg]
    exact (onlyCounted_bump s 8 (by decide)).1 k hbytes

/-- A read returns the register and clears its rc fields alone. -/
theorem rcRead_open (hb : barred (unlatched fn (bump s 89 8)) fn row o false = false) :
    let u := unlatched fn (bump s 89 8)
    let k := busKey fn row o
    ∃ t, exec (.rcRead fn o 8) s = .next t ∧ t.hif = { u.hif with reply := some ⟨leBytes 8 (regView u fn row o).toNat, false⟩ } ∧
      t.reg k = u.reg k &&& ~~~(BitVec.ofNat 64 row.rc) ∧ OnlyRegs [k] u t ∧ t = { u with regs := t.regs, hif := t.hif } := by
  intro u k
  obtain ⟨htouch, hreg⟩ := rcClear_whole fn row o u
  obtain ⟨hhif, honly, hrest⟩ := answered_frame htouch (leBytes 8 (regView u fn row o).toNat)
  exact ⟨_, h.rcRead_eq hup (read64_open hb _), hhif, hreg, honly, hrest⟩

/-- The low half of a register without rc fields is read, and its high half waits for the next read, which returns it. -/
theorem halfRead_low_high (hrc : row.rc = 0) (hb : barred (unlatched fn (bump s 89 4)) fn row o false = false) :
    let v := regView (unlatched fn (bump s 89 4)) fn row o
    ∃ t, exec (.bar0HalfRead fn o) s = .next t ∧ t.hif.reply = some ⟨leBytes 4 (v.toNat % 2 ^ 32), false⟩ ∧
      tfind t.hif.latch fn.num = some ⟨o, BitVec.ofNat 32 (v.toNat / 2 ^ 32)⟩ ∧
      ∃ t', exec (.bar0HalfRead fn (o + 4)) t = .next t' ∧ t'.hif.reply = some ⟨leBytes 4 (v.toNat / 2 ^ 32), false⟩ ∧
        tfind t'.hif.latch fn.num = none ∧ OnlyRegs byteCounters s t' ∧ t' = { s with regs := t'.regs, hif := t'.hif } := by
  intro v
  have hcount : ∀ (x : State) k, k ∉ byteCounters → (bump x 89 4).reg k = x.reg k := fun x => (onlyCounted_bump x 4 (by decide)).1
  have ho : o % 4 = 0 ∧ (o + 4) % 4 = 0 := by have := h.aligned; omega
  have hv : (BitVec.ofNat 32 (v.toNat / 2 ^ 32)).toNat = v.toNat / 2 ^ 32 := by
    have := v.isLt
    rw [BitVec.toNat_ofNat]
    omega
  let t := answered (leBytes 4 (v.toNat % 2 ^ 32)) (latched fn ⟨o, BitVec.ofNat 32 (v.toNat / 2 ^ 32)⟩ (unlatched fn (bump s 89 4)))
  have hlatch : tfind t.hif.latch fn.num = some ⟨o, BitVec.ofNat 32 (v.toNat / 2 ^ 32)⟩ := tfind_tput_self ..
  have hlow : exec (.bar0HalfRead fn o) s = .next t := by
    rw [exec_bar0HalfRead]
    refine live_next hup ?_ (bump_pending s 89 4)
    rw [bar0Read_half ho.1, h.read4_low, read64_open hb, rcClear_of_none hrc]
  have hupt : t.up = true := (up_congr rfl rfl).trans ((bump_up s 89 4).trans hup)
  let t' := answered (leBytes 4 (v.toNat / 2 ^ 32)) (unlatched fn (bump t 89 4))
  have hhigh : exec (.bar0HalfRead fn (o + 4)) t = .next t' := by
    rw [exec_bar0HalfRead]
    refine live_next hupt ?_ (bump_pending t 89 4)
    rw [bar0Read_half ho.2, h.read4_high (x := BitVec.ofNat 32 (v.toNat / 2 ^ 32)) (by rw [bump_hif]; exact hlatch), hv]
  have hregs : OnlyRegs byteCounters s t' := fun k hk => by
    rw [answered_reg, unlatched_reg, hcount t k hk, answered_reg, latched_reg, unlatched_reg, hcount s k hk]
  have hrest : HostSide s t' := ((hostSide_refl s).bump 89 4).hif _ |>.hif _ |>.hif _ |>.bump 89 4 |>.hif _ |>.hif _
  exact ⟨t, hlow, rfl, hlatch, t', hhigh, rfl, tfind_terase_self .., hregs, hrest⟩

end WholeReg
end Sys2Proof.Machine
end

section
open Sys2Proof Sys2Proof.Machine

/-- Settles O24: each access of a whole register comes to one write or read of it at its offset, and keeps the queue of commands. -/
theorem bar0Accesses : Obligations.Bar0Accesses := by
  unfold Obligations.Bar0Accesses
  intro s fn o row hup hf hal hreg hbytes _ hwin hwinHigh hshort
  have h : WholeReg fn o row := ⟨hal, hreg, hbytes, hwin, hwinHigh, hshort⟩
  refine ⟨fun hh v => ⟨?_, ?_, ?_⟩, ⟨?_, ?_⟩, fun hh v => ?_, fun lo hi hh => ?_, fun lo hh v => ?_, fun hrc hb => ?_⟩
  · exact h.registerWrite_barred hup hf hh v
  · intro hb hn
    rw [h.registerWrite_open hup hf hh v hb, regPut_plain hn, plainPut_whole hbytes]
  · intro hb hn
    obtain ⟨t, ht, hrun, hstop⟩ := h.registerWrite_recorded hup hf hh v hb (by simpa [recordedNames] using hn)
    refine ⟨t, ht, fun hs => ?_, hstop⟩
    obtain ⟨⟨honly, hrest⟩, hval⟩ := hrun hs
    exact ⟨hval, honly, hrest⟩
  · exact h.rcRead_barred hup
  · exact h.rcRead_open hup
  · exact h.halfWrite_low hup hf hh v
  · exact h.halfWrite_high hup hf hh hi
  · exact h.registerWrite_over_held hup hf hh v
  · exact h.halfRead_low_high hup hrc hb

end

section
/-!
SUPPORT. Commands of the host and of the pins with the fabric up: what the work of a command leaves is what the command ends in.
-/
namespace Sys2Proof.Machine

/-- A BAR0 write that acts at once, with no half held and no function-level reset lasting, counts its bytes and does its work. -/
theorem bar0_next {s : State} {fn : Fn} {n : Nat} {k : State → State} (hup : s.up = true) (hh : tfind s.hif.held fn.num = none)
    (hf : s.hif.flr = []) (hp : (k (bump s 88 n)).pending = s.pending) : bar0 fn n s k = .next (k (bump s 88 n)) := by
  refine live_next hup ?_ hp
  rw [pastFlr_of_none (by simpa using hf), dropHeld_of_none (by simpa using hh)]

end Sys2Proof.Machine
end

section
/-!
O23. The time is set and aligned (R22, R360).
-/
namespace Sys2Proof.Machine

/-- A difference of at most 1 ms is its own 32-bit pattern. -/
theorem toPat_sub {t a : Nat} (hle : a ≤ t) (hlt : t - a < 2 ^ 32) : toPat 32 ((t : Int) - a) = t - a := by
  unfold toPat
  omega

@[simp] theorem ppsAlign_pending (s : State) : (ppsAlign s).pending = s.pending := by
  unfold ppsAlign
  extract_lets t a w d u
  have hu : u.pending = s.pending := (setBit_pending ..).trans (setFld_pending ..)
  exact ite_pending (addSat_pending ..) (ite_pending ((with_clock_pending u _).trans hu) ((with_clock_pending u _).trans hu))

@[simp] theorem ppsEdge_pending (s : State) : (ppsEdge s).pending = s.pending := by
  unfold ppsEdge
  repeat' split
  all_goals simp

section
variable {s : State} (hup : s.up = true)

theorem ppsEdge_off (hen : s.bit Reg.glbPps 0 = false) : ppsEdge s = s := by simp [ppsEdge, hen]

theorem ppsEdge_held (hen : s.bit Reg.glbPps 0 = true) (hh : s.clock.hold ≠ 0) :
    ppsEdge s = { s with clock := { s.clock with ppsQueued := true } } := by simp [ppsEdge, hen, hh]

theorem ppsEdge_free (hen : s.bit Reg.glbPps 0 = true) (hh : s.clock.hold = 0) : ppsEdge s = ppsAlign s := by simp [ppsEdge, hen, hh]

theorem ppsAlign_ahead {a : Nat} (ha : nearestSecond s.clock.timeF.toNat = a) (hle : s.clock.timeF.toNat ≤ a)
    (hw : a - s.clock.timeF.toNat ≤ min (s.fld Reg.glbPps 63 32) 1000000) :
    ppsAlign s = { (s.setFld Reg.glbPpsStat 31 0 (toPat 32 ((s.clock.timeF.toNat : Int) - a))).setBit Reg.glbPpsStat 32 true with
      clock := { s.clock with step := s.clock.step + BitVec.ofNat 64 (a - s.clock.timeF.toNat) } } := by
  have hd : ¬ min (s.fld Reg.glbPps 63 32) 1000000 < (if a ≤ s.clock.timeF.toNat then s.clock.timeF.toNat - a else a - s.clock.timeF.toNat) := by
    split <;> omega
  unfold ppsAlign
  dsimp only
  rw [ha, if_neg hd, if_pos hle, setBit_clock, setFld_clock]

theorem ppsAlign_behind {a : Nat} (ha : nearestSecond s.clock.timeF.toNat = a) (hlt : a < s.clock.timeF.toNat)
    (hw : s.clock.timeF.toNat - a ≤ min (s.fld Reg.glbPps 63 32) 1000000) :
    ppsAlign s = { (s.setFld Reg.glbPpsStat 31 0 (s.clock.timeF.toNat - a)).setBit Reg.glbPpsStat 32 true with
      clock := { s.clock with hold := s.clock.timeF.toNat - a } } := by
  have hmax : min (s.fld Reg.glbPps 63 32) 1000000 ≤ 1000000 := Nat.min_le_right ..
  have hd : ¬ min (s.fld Reg.glbPps 63 32) 1000000 < (if a ≤ s.clock.timeF.toNat then s.clock.timeF.toNat - a else a - s.clock.timeF.toNat) := by
    split <;> omega
  unfold ppsAlign
  dsimp only
  rw [ha, if_neg hd, if_neg (by omega), toPat_sub hlt.le (by omega), setBit_clock, setFld_clock]

theorem ppsAlign_outside {a : Nat} (ha : nearestSecond s.clock.timeF.toNat = a)
    (hw : min (s.fld Reg.glbPps 63 32) 1000000 < a - s.clock.timeF.toNat ∨ min (s.fld Reg.glbPps 63 32) 1000000 < s.clock.timeF.toNat - a) :
    ppsAlign s = s.addSat Reg.glbPpsStat 63 48 1 := by
  have hd : min (s.fld Reg.glbPps 63 32) 1000000 < (if a ≤ s.clock.timeF.toNat then s.clock.timeF.toNat - a else a - s.clock.timeF.toNat) := by
    split <;> omega
  unfold ppsAlign
  dsimp only
  rw [ha]
  exact if_pos hd

include hup

theorem exec_ppsEdge : exec .ppsEdge s = .next (ppsEdge s) := live_next hup rfl (ppsEdge_pending s)

theorem exec_ppsHoldEnd : exec .ppsHoldEnd s = .next (ppsHoldEnd s) := by
  refine live_next hup rfl ?_
  unfold ppsHoldEnd
  dsimp only
  repeat' split
  all_goals simp

/-- The end of a hold with no edge waiting. -/
theorem exec_ppsHoldEnd_alone (hh : s.clock.hold ≠ 0) (hq : s.clock.ppsQueued = false) :
    exec .ppsHoldEnd s = .next { s with clock := { s.clock with hold := 0 } } := by
  rw [exec_ppsHoldEnd hup]
  unfold ppsHoldEnd
  simp [hh, hq]

/-- The end of a hold handles the edge that waited. -/
theorem exec_ppsHoldEnd_queued (hh : s.clock.hold ≠ 0) (hq : s.clock.ppsQueued = true) :
    exec .ppsHoldEnd s = exec .ppsEdge { s with clock := { s.clock with hold := 0, ppsQueued := false } } := by
  rw [exec_ppsHoldEnd hup, exec_ppsEdge (s := { s with clock := { s.clock with hold := 0, ppsQueued := false } }) hup]
  unfold ppsHoldEnd
  simp only [hh, if_false, hq, Bool.true_and, ppsEdge]
  cases hen : ({ s with clock := { s.clock with hold := 0, ppsQueued := false } } : State).bit Reg.glbPps 0 <;> simp

end

/-- A bit of a register and the time are set independently. -/
theorem setBit_with_clock (s : State) (x : Clock) (k b : Nat) (v : Bool) :
    ({ s with clock := x } : State).setBit k b v = { s.setBit k b v with clock := x } := by
  unfold State.setBit State.setFld State.setReg
  rfl

theorem exec_glbTimeWrite_pf {s : State} (hup : s.up = true) (ns : W64) (hh : tfind s.hif.held Fn.pf.num = none) (hf : s.hif.flr = []) :
    exec (.glbTimeWrite .pf ns) s = .next { (bump s 88 8).setBit Reg.glbPpsStat 32 false with clock := { s.clock with write := some ns, step := 0 } } := by
  refine (bar0_next hup hh hf ?_).trans ?_
  · rw [glbTimeWrite_pending, bump_pending]
  · rw [glbTimeWrite, if_neg (by simp), setBit_with_clock, bump_clock]

theorem exec_glbTimeWrite_vf {s : State} (hup : s.up = true) (n : Fin 16) (ns : W64) (hh : tfind s.hif.held (Fn.vf n).num = none)
    (hf : s.hif.flr = []) : exec (.glbTimeWrite (.vf n) ns) s = .next (viol (bump s 88 8) Reg.glbTime 4 (s.violPart (.vf n))) := by
  refine (bar0_next hup hh hf ?_).trans ?_
  · rw [glbTimeWrite_pending, bump_pending]
  · rw [glbTimeWrite, if_pos (by simp), bump_violPart]

/-- The value of a write is what every copy takes at the next tick. -/
theorem Clock.next_of_write {c : Clock} {v : W64} (hw : c.write = some v) (hs : c.step = 0) (x : W64) : c.next x = v := by
  simp [Clock.next, hw, hs]

end Sys2Proof.Machine
end

section
open Sys2Proof Sys2Proof.Machine

/-- Settles O23: each command comes to one case of the alignment, and keeps the queue of commands. -/
theorem timeAlignment : Obligations.TimeAlignment := by
  unfold Obligations.TimeAlignment
  intro s hup
  refine ⟨fun ns hh hf => ?_, fun n ns hh hf => ?_, fun hen hh => ⟨fun hle hw => ?_, fun hlt hw => ?_, fun hw => ?_⟩, fun hen => ?_,
    fun hen hh => ?_, fun hh hq => ?_, fun hh hq => ?_⟩
  · exact ⟨_, exec_glbTimeWrite_pf hup ns hh hf, rfl, Clock.next_of_write rfl rfl⟩
  · exact exec_glbTimeWrite_vf hup n ns hh hf
  · rw [exec_ppsEdge hup, ppsEdge_free hen hh, ppsAlign_ahead rfl hle hw]
  · rw [exec_ppsEdge hup, ppsEdge_free hen hh, ppsAlign_behind rfl hlt hw]
  · rw [exec_ppsEdge hup, ppsEdge_free hen hh, ppsAlign_outside rfl hw]
  · rw [exec_ppsEdge hup, ppsEdge_off hen]
  · rw [exec_ppsEdge hup, ppsEdge_held hen hh]
  · exact exec_ppsHoldEnd_alone hup hh hq
  · exact exec_ppsHoldEnd_queued hup hh hq

end

section
/-!
SUPPORT. Frames: what an operation keeps is said by a function of the state that forgets what the operation may change, and by the registers that
it may move. Two frames serve the accesses of descriptors: what reads (and the scheduler) may change, and what writes may change beside.
-/
namespace Sys2Proof.Machine

/-! ### Frames in general -/

/-- Only registers of a kind moved, and what `f` keeps of a state is as it was. -/
def Framed (P : Nat → Prop) (f : State → State) (s t : State) : Prop := (∀ k, ¬ P k → t.reg k = s.reg k) ∧ f t = f s

section
variable {P : Nat → Prop} {f : State → State}

theorem Framed.refl (s : State) : Framed P f s s := ⟨fun _ _ => rfl, rfl⟩

theorem Framed.trans {s t u : State} (h : Framed P f s t) (h' : Framed P f t u) : Framed P f s u :=
  ⟨fun k hk => (h'.1 k hk).trans (h.1 k hk), h'.2.trans h.2⟩

theorem Framed.ite {c : Prop} [Decidable c] {s a b : State} (ha : Framed P f s a) (hb : Framed P f s b) : Framed P f s (if c then a else b) := by
  split
  · exact ha
  · exact hb

theorem Framed.foldl {α : Type} {g : State → α → State} (l : List α) (hg : ∀ s, ∀ a ∈ l, Framed P f s (g s a)) (s : State) :
    Framed P f s (l.foldl g s) := by
  induction l generalizing s with
  | nil => exact .refl s
  | cons a l ih => exact .trans (hg s a List.mem_cons_self) (ih (fun s b hb => hg s b (List.mem_cons_of_mem a hb)) _)

/-- A fold whose accumulator carries a state. -/
theorem Framed.foldlBy {α σ : Type} {g : σ → α → σ} (st : σ → State) (hg : ∀ x a, Framed P f (st x) (st (g x a))) (l : List α) (x : σ) :
    Framed P f (st x) (st (l.foldl g x)) := by
  induction l generalizing x with
  | nil => exact .refl _
  | cons a l ih => exact .trans (hg x a) (ih _)

/-- A function of the state that does not see the register file. -/
abbrev IgnoresRegs (f : State → State) : Prop := ∀ s r, f { s with regs := r } = f s

/-- A function of the state that does not see the Ember log. -/
abbrev IgnoresEmber (f : State → State) : Prop := ∀ s e, f { s with ember := e } = f s

theorem Framed.setReg (hf : IgnoresRegs f) {k : Nat} (h : P k) (s : State) (v : W64) : Framed P f s (s.setReg k v) := by
  refine ⟨fun j hj => reg_setReg_ne s v fun e => hj (e ▸ h), ?_⟩
  unfold State.setReg
  exact hf s _

theorem Framed.setFld (hf : IgnoresRegs f) {k lo : Nat} (h : P (fieldKey k lo)) (s : State) (hi v : Nat) : Framed P f s (s.setFld k hi lo v) := by
  rw [setFld_eq]
  exact .setReg hf h s _

theorem Framed.report (hf : IgnoresEmber f) (s : State) (src code a0 a1 a2 : Nat) : Framed P f s (report s src code a0 a1 a2) := by
  refine ⟨fun k _ => reg_report .., ?_⟩
  unfold Machine.report
  dsimp only
  split <;> exact hf s _

end

/-! ### The two frames of accesses -/

/-- The state without what reads of device memory and the scheduler change. -/
def State.sansReads (s : State) : State :=
  { s with regs := [], qm := {}, mmu := {}, ember := {}, fabric := { s.fabric with lost := [] }
           boot := { s.boot with mapRecord := {}, repairMap := [], writing := none } }

/-- The state without what the work of descriptors changes. -/
def State.sansWork (s : State) : State := { s.sansReads with mem := [], poison := [], attn := none, free := 0 }

/-- Nothing changed but what reads of device memory and the scheduler may change, and of the registers those of a kind. -/
abbrev Reads (P : Nat → Prop) (s t : State) : Prop := Framed P State.sansReads s t

/-- Nothing changed but what the work of descriptors may change, and of the registers those of a kind. -/
abbrev Works (P : Nat → Prop) (s t : State) : Prop := Framed P State.sansWork s t

/-- The registers of a kind hold the counters of an agent's accesses. -/
structure Counters (P : Nat → Prop) (ag : Agent) : Prop where
  bytes : ∀ i, i < 90 → P (Reg.dbgBcnt i)
  port : ∀ c, ag = .core c → ∀ b, b ≤ 1 → P (Reg.dbgBcnt (48 + 2 * (c / 4) + b))
  errors : ∀ i, i < 10 → P (Reg.relCnt i)

section
variable {P : Nat → Prop} {s t : State}

theorem Framed.works (h : Reads P s t) : Works P s t :=
  ⟨h.1, congrArg (fun x : State => { x with mem := [], poison := [], attn := none, free := 0 }) h.2⟩

theorem Framed.pins_eq (h : Works P s t) : t.pins = s.pins := (congrArg State.pins h.2 :)
theorem Framed.modFailed_eq (h : Works P s t) : t.fabric.modFailed = s.fabric.modFailed := (congrArg (fun x : State => x.fabric.modFailed) h.2 :)
theorem Framed.flueFailed_eq (h : Works P s t) : t.fabric.flueFailed = s.fabric.flueFailed := (congrArg (fun x : State => x.fabric.flueFailed) h.2 :)
theorem Framed.nextHearths_eq (h : Works P s t) : t.boot.nextHearths = s.boot.nextHearths := (congrArg (fun x : State => x.boot.nextHearths) h.2 :)

/-! ### Registers and reports -/

theorem reads_setReg {k : Nat} (h : P k) (s : State) (v : W64) : Reads P s (s.setReg k v) := .setReg (fun _ _ => rfl) h s v
theorem reads_setFld {k lo : Nat} (h : P (fieldKey k lo)) (s : State) (hi v : Nat) : Reads P s (s.setFld k hi lo v) := .setFld (fun _ _ => rfl) h s hi v
theorem reads_addSat {k lo : Nat} (h : P (fieldKey k lo)) (s : State) (hi n : Nat) : Reads P s (s.addSat k hi lo n) := reads_setFld h s hi _
theorem reads_bump {i : Nat} (h : P (Reg.dbgBcnt i)) (s : State) (n : Nat) : Reads P s (bump s i n) := reads_setFld (lo := 0) h s 47 _
theorem reads_report (s : State) (src code a0 a1 a2 : Nat) : Reads P s (report s src code a0 a1 a2) := .report (fun _ _ => rfl) s ..

theorem works_viol (h1 : P Reg.dbgViolCount) (h2 : P Reg.dbgViolLast) (s : State) (addr kind part : Nat) : Works P s (viol s addr kind part) :=
  (Framed.trans (reads_addSat (lo := 0) h1 s 31 1) (reads_setReg h2 _ _)).works

/-! ### Accesses of device memory: what counts and what errors leave -/

/-- Byte counters alone moved. -/
theorem OnlyCounted.reads {ag : Agent} (hP : Counters P ag) (h : OnlyCounted s t) : Reads P s t := by
  obtain ⟨hregs, hrest⟩ := h
  refine ⟨fun k hk => hregs k fun hmem => hk ?_, by rw [hrest]; rfl⟩
  obtain ⟨i, hi, rfl⟩ := List.mem_map.1 hmem
  exact hP.bytes i (List.mem_range.1 hi)

theorem reads_countAccess {ag : Agent} (hP : Counters P ag) (w : Bool) (s : State) (a n : Nat) : Reads P s (countAccess ag w s a n) := by
  have hw : (if w = true then 1 else 0) ≤ 1 := by split <;> omega
  have hport : ∀ c, ag = .core c → ∀ b, b ≤ 1 → ∀ s n, Reads P s (bump s (48 + 2 * (c / 4) + b) n) := fun c hc b hb => reads_bump (hP.port c hc b hb)
  have hbyte : ∀ i, i < 90 → ∀ s n, Reads P s (bump s i n) := fun i hi => reads_bump (hP.bytes i hi)
  have hflue : ∀ (s : State) (a b n : Nat), Reads P s (flueAccess s w a b n) := fun s a b n => (onlyCounted_flueAccess s w a b n).reads hP
  unfold countAccess
  dsimp only
  generalize (if w = true then 1 else 0) = x at hw
  split
  · have hg := (onlyCounted_countGddr w (n / 256 + 2) s a n).reads hP
    cases ag with
    | core c => exact hg.trans (hport c rfl _ (by omega) _ _)
    | _ => exact hg
  · rename_i c e
    have hc := placeOf_core e
    cases ag with
    | core k => exact .trans (hbyte _ (by omega) _ _) (hflue ..)
    | _ => exact .trans (hbyte _ (by omega) _ _) (hbyte _ (by omega) _ _)
  · rename_i c e
    have hc := placeOf_hearth e
    cases ag with
    | core k => exact .trans (hbyte _ (by omega) _ _) (hflue ..)
    | _ => exact .trans (hbyte _ (by omega) _ _) (hbyte _ (by omega) _ _)
  · exact .refl s
  · cases ag with
    | core c => exact hport c rfl _ (by omega) _ _
    | _ => exact .refl s

theorem reads_lostTaken (s : State) (w : Bool) (a n : Nat) : Reads P s (s.lostTaken w a n) := ⟨fun _ _ => rfl, rfl⟩

theorem works_storeSectors (f : Nat) (s : State) (a : Nat) (bs : List Byte) : Works P s (storeSectors f s a bs) := by
  induction f generalizing s a bs with
  | zero => exact .refl s
  | succ f ih =>
    cases bs with
    | nil => exact .refl s
    | cons b t =>
      refine .trans ?_ (ih ..)
      split
      · exact (reads_report ..).works
      · split
        · exact (reads_lostTaken ..).works
        · exact ⟨fun _ _ => rfl, rfl⟩

section
variable {ag : Agent} (hP : Counters P ag)
include hP

theorem reads_repairAdd (s : State) (k : Nat) : Reads P s (repairAdd s k) := by
  have hc : ∀ x : State, Reads P x (x.addSat (Reg.relCnt 9) 31 0 1) := fun x => reads_addSat (lo := 0) (hP.errors 9 (by decide)) x 31 1
  have hj : ∀ (x : State) ws, Reads P x (journalWrite .repairMap ws x) := fun x ws => ⟨fun _ _ => rfl, rfl⟩
  unfold repairAdd
  split
  · exact .refl s
  · exact .trans (.trans (t := { s with boot := { s.boot with repairMap := s.boot.repairMap ++ [k] } }) ⟨fun _ _ => rfl, rfl⟩ (hc _)) (hj _ _)

theorem reads_errUncorrectable (s : State) (k : Nat) : Reads P s (errUncorrectable s k) := by
  unfold errUncorrectable
  dsimp only
  refine .trans (.trans ?_ (reads_report ..)) (reads_repairAdd hP ..)
  exact reads_addSat (lo := 0) (by simp only [fieldKey, Nat.zero_div, Nat.zero_mul, Nat.add_zero]; split <;> exact hP.errors _ (by decide)) s 31 1

theorem reads_devRead (s : State) (a n : Nat) : Reads P s (devRead ag s a n).1 := by
  have hc := reads_countAccess hP false s a n
  unfold devRead
  dsimp only
  split
  · exact hc.trans (reads_errUncorrectable hP ..)
  · split
    · exact hc.trans (reads_lostTaken ..)
    · exact hc

theorem reads_rmwErrors (s : State) (a n : Nat) : Reads P s (rmwErrors s a n) := by
  unfold rmwErrors
  split
  · exact .foldl _ (fun s k _ => .ite (reads_errUncorrectable hP s k) (.refl s)) s
  · exact .refl s

theorem works_devWrite (s : State) (a : Nat) (bs : List Byte) : Works P s (devWrite ag s a bs) := by
  have h : Works P s (rmwErrors (countAccess ag true s a bs.length) a bs.length) :=
    ((reads_countAccess hP true s a bs.length).trans (reads_rmwErrors hP ..)).works
  unfold devWrite
  dsimp only
  split
  · exact h.trans ⟨fun _ _ => rfl, rfl⟩
  · exact h.trans (works_storeSectors ..)

end
end
end Sys2Proof.Machine
end

section
/-!
SUPPORT. Frames of the scheduler and of a core's accesses: the window, lateness, translation, and the work of descriptors that copy.
-/
namespace Sys2Proof.Machine

section
variable {P : Nat → Prop}

/-! ### The queue manager -/

theorem reads_with_qm (s : State) (x : Qm) : Reads P s { s with qm := x } := ⟨fun _ _ => rfl, rfl⟩
theorem reads_with_mmu (s : State) (x : Mmu) : Reads P s { s with mmu := x } := ⟨fun _ _ => rfl, rfl⟩
theorem works_with_attn (s : State) (x : Option AttnRun) : Works P s { s with attn := x } := ⟨fun _ _ => rfl, rfl⟩
theorem reads_modWin (s : State) (p : Nat) (f : Window → Window) : Reads P s (s.modWin p f) := reads_with_qm ..
theorem reads_modCore (s : State) (c : Nat) (f : CoreSt → CoreSt) : Reads P s (s.modCore c f) := reads_with_qm ..
theorem reads_modItem (s : State) (q uid : Nat) (f : Item → Item) : Reads P s (s.modItem q uid f) := reads_with_qm ..
theorem reads_passOver (q : Nat) (s : State) : Reads P s (passOver q s) := reads_modWin ..
theorem reads_modRun (s : State) (p : Nat) (f : Run → Run) : Reads P s (s.modRun p f) := reads_modWin ..

theorem reads_dropSlots (p : Nat) (s : State) : Reads P s (dropSlots p s) := .foldl _ (fun s c _ => reads_modCore s c _) s
theorem reads_clearCores (s : State) (p uid : Nat) : Reads P s (clearCores s p uid) := .foldl _ (fun s c _ => reads_modCore s c _) s

theorem reads_countLate {p : Nat} (h : P (Reg.qmLate p)) (s : State) (start : W64) : Reads P s (countLate s p start) := by
  have hc : Reads P s (s.addSat (Reg.qmLate p) 31 0 1) := reads_addSat (lo := 0) h s 31 1
  unfold countLate
  dsimp only
  split
  · exact .refl s
  · split
    · exact hc.trans (reads_setFld (lo := 32) h _ 63 _)
    · exact hc

theorem reads_lateCheck {p : Nat} (h : P (Reg.qmLate p)) (s : State) : Reads P s (lateCheck p s) :=
  .trans (.foldl _ (fun s x _ => reads_countLate h s x.1) s) (reads_modWin ..)

theorem reads_withdrawNext (q uid : Nat) (s : State) : Reads P s (withdrawNext q uid s) :=
  .trans (.trans (reads_modItem ..) (reads_dropSlots ..)) (reads_modWin ..)

/-! ### Translation -/

section
variable {c : Nat} (hP : Counters P (.core c))

theorem reads_tlbUse (s : State) (c : Nat) (e : TlbEntry) : Reads P s (tlbUse s c e) := reads_with_mmu ..

include hP

theorem reads_walkFrom (part : Nat) (seq : Bool) (va level table : Nat) (s : State) : Reads P s (walkFrom c part seq va level table s).1 := by
  induction level generalizing table s with
  | zero => exact .refl s
  | succ level ih =>
    have hr := reads_devRead hP s (table + 8 * levelIdx seq (level + 1) va) 8
    unfold walkFrom
    dsimp only
    split
    · exact hr
    split
    · exact hr
    split
    · exact hr
    split
    · exact hr
    · exact (hr.trans (reads_with_mmu ..)).trans (ih ..)

theorem reads_walk (s : State) (part va : Nat) : Reads P s (walk s c part va).1 := by
  unfold walk
  dsimp only
  split
  · exact .refl s
  · split <;> exact reads_walkFrom hP ..

theorem reads_translate (s : State) (part va : Nat) : Reads P s (translate s c part va).1 := by
  have hw := reads_walk hP s part va
  unfold translate
  split
  · exact .refl s
  · split
    · exact reads_tlbUse ..
    · dsimp only
      split
      · exact hw.trans (reads_tlbUse ..)
      · exact hw

theorem reads_countSectors (f pa n : Nat) (a : Acc) : Reads P a.s (countSectors c f pa n a).s := by
  induction f generalizing pa n a with
  | zero => exact .refl _
  | succ f ih =>
    unfold countSectors
    split
    · exact .refl _
    · refine .trans ?_ (ih ..)
      split
      · exact .refl _
      · exact reads_countAccess hP ..

end

/-! ### The accesses of a unit -/

theorem Acc.fail_s (a : Acc) (st info detail : Nat) : (a.fail st info detail).s = a.s := by
  unfold Acc.fail
  split <;> rfl

/-- The registers of a kind hold what the work of a core's descriptors moves: its counters, and those of violations. -/
structure WorkCounters (P : Nat → Prop) (c : Nat) : Prop where
  counters : Counters P (.core c)
  violCount : P Reg.dbgViolCount
  violLast : P Reg.dbgViolLast

section
variable {c : Nat} (hP : WorkCounters P c)
include hP

theorem works_accViol (a : Acc) (addr kind part : Nat) : Works P a.s (a.viol addr kind part).s := by
  unfold Acc.viol
  split
  · exact (reads_addSat (lo := 0) hP.violCount a.s 31 1).works
  · exact works_viol hP.violCount hP.violLast ..

theorem works_resolve (part : Nat) (copy write : Bool) (va : Nat) (a : Acc) : Works P a.s (resolve c part copy write va a).2.s := by
  have ht := (reads_translate hP.counters a.s part va).works
  unfold resolve
  dsimp only
  split
  · split
    · exact works_accViol hP ..
    · exact .refl _
  · split
    · rw [Acc.fail_s]
      exact ht
    · rw [Acc.fail_s]
      exact ht
    · split
      · exact ht.trans (works_accViol hP { a with s := (translate a.s c part va).1 } ..)
      · exact ht

theorem works_readPage (part : Nat) (copy : Bool) (va n : Nat) (a : Acc) : Works P a.s (readPage c part copy va n a).2.s := by
  have hr := works_resolve hP part copy false va a
  have hs : ∀ f pa n (a : Acc), Works P a.s (countSectors c f pa n a).s := fun f pa n a => (reads_countSectors hP.counters f pa n a).works
  unfold readPage
  dsimp only
  split
  · exact hr
  · split
    · rw [Acc.fail_s]
      dsimp only
      split
      · exact hr.trans (reads_errUncorrectable hP.counters ..).works
      · exact hr
    · split
      · rw [Acc.fail_s]
        exact (hr.trans (hs ..)).trans (reads_lostTaken ..).works
      · split
        · exact hr.trans (hs ..)
        · split
          · exact hr
          · exact hr.trans (reads_countAccess hP.counters ..).works

theorem works_readPages (part : Nat) (copy : Bool) (f va n : Nat) (a : Acc) : Works P a.s (readPages c part copy f va n a).2.s := by
  induction f generalizing va n a with
  | zero => exact .refl _
  | succ f ih =>
    unfold readPages
    dsimp only
    split
    · exact .refl _
    · split
      · exact .refl _
      · exact (works_readPage hP ..).trans (ih ..)

theorem works_coreRead (part : Nat) (copy : Bool) (va n : Nat) (a : Acc) : Works P a.s (coreRead c part copy va n a).2.s := works_readPages hP ..

theorem works_writePages (part : Nat) (copy : Bool) (f va : Nat) (bs : List Byte) (a : Acc) :
    Works P a.s (writePages c part copy f va bs a).s := by
  induction f generalizing va bs a with
  | zero => exact .refl _
  | succ f ih =>
    cases bs with
    | nil => exact .refl _
    | cons b t =>
      unfold writePages
      dsimp only
      split
      · exact .refl _
      · refine .trans ?_ (ih ..)
        have hr := works_resolve hP part copy true va a
        split <;> exact hr

theorem works_coreWrite (part : Nat) (copy : Bool) (va : Nat) (bs : List Byte) (a : Acc) : Works P a.s (coreWrite c part copy va bs a).s :=
  works_writePages hP ..

theorem works_readElem (part : Nat) (copy : Bool) (f : Fmt) (va : Int) (pos : Nat) (a : Acc) : Works P a.s (readElem c part copy f va pos a).2.s :=
  works_coreRead hP ..

theorem works_land (a : Acc) : Works P a.s (a.land c) := .foldl _ (fun s r _ => works_devWrite hP.counters s r.1 r.2) a.s

/-! ### Descriptors that copy -/

theorem works_writeElem (part : Nat) (copy : Bool) (f : Fmt) (va : Int) (pos : Nat) (clear : Bool) (x : Nat) (a : Acc) :
    Works P a.s (writeElem c part copy f va pos clear x a).s := by
  have hr := works_resolve hP part copy true va.toNat a
  unfold writeElem
  dsimp only
  split
  · exact works_coreWrite hP ..
  · split <;> exact hr

theorem works_fetchIndex (part : Nat) (copy : Bool) (d : Desc) (frames : List Machine.Frame) (is : List Nat) (a : Acc) :
    Works P a.s (fetchIndex c part copy d frames is a).2.s := by
  have hr := works_readElem hP part copy .int32 (elemAddr (opnd d 3) 3 frames is) 0 a
  unfold fetchIndex
  dsimp only
  split
  · exact hr
  · split
    · exact hr
    · rw [Acc.fail_s]
      exact hr

theorem works_copyElem (part : Nat) (d : Desc) (frames : List Machine.Frame) (bs is : List Nat) (a : Acc) :
    Works P a.s (copyElem c part d frames bs is a).s := by
  unfold copyElem
  extract_lets src dst copy f
  split
  · exact .refl _
  · split
    rename_i a' hrow
    have ha' : Works P a.s a'.s := by
      split at hrow
      · have := works_fetchIndex hP part copy d frames is a
        rwa [hrow] at this
      · cases hrow
        exact .refl _
    split
    · exact ha'
    · split
      · split
        · exact ha'
        · exact ha'.trans (works_writeElem hP ..)
      · extract_lets ia ic
        split
        rename_i x a'' hread
        have ha'' : Works P a'.s a''.s := by
          have := works_readElem hP part copy f (elemAddr src 0 frames ia) (elemPos src ia) a'
          rwa [hread] at this
        split
        · exact ha'.trans ha''
        · exact (ha'.trans ha'').trans (works_writeElem hP ..)

theorem works_copyRange (part : Nat) (i : Item) (lo n : Nat) (a : Acc) : Works P a.s (copyRange c part i lo n a).s :=
  .foldlBy Acc.s (fun a _ => works_copyElem hP part i.bytes i.frames i.bounds _ a) _ a

theorem works_gatherUnit (s : State) (part : Nat) (i : Item) (u : Nat) : Works P s (gatherUnit s c part i u).s := works_copyRange hP (a := { s := s }) ..

theorem works_gatherPartial (part : Nat) (i : Item) (s : State) (u : Nat) : Works P s (gatherPartial part i s c u) :=
  .trans (t := s.fresh.2) ⟨fun _ _ => rfl, rfl⟩ (.trans (works_gatherUnit hP ..) (works_land hP { gatherUnit s.fresh.2 c part i u with out := _ }))

end

/-! ### Work that is stopped, whatever cores it ran on -/

section
variable (hP : ∀ c, WorkCounters P c)
include hP

theorem works_prefetchAll (part : Nat) (i : Item) (cs seen : List Nat) (a : Acc) : Works P a.s (prefetchAll part i cs seen a).s := by
  induction cs generalizing seen a with
  | nil => exact .refl _
  | cons c cs ih => exact .trans (works_copyRange (hP c) part i 0 _ { a with out := [] }) (ih _ { copyRange c part i 0 _ _ with out := _ })

theorem works_moveAll (s : State) (part : Nat) (i : Item) : Works P s (moveAll s part i).s := by
  unfold moveAll
  dsimp only
  split
  · exact works_prefetchAll hP part i _ [] { s := s }
  · exact works_copyRange (hP _) part i 0 _ { s := s }

theorem works_movePartial (s : State) (part : Nat) (i : Item) : Works P s (movePartial s part i) := by
  unfold movePartial
  split
  · exact .refl s
  · exact .trans (t := s.fresh.2) ⟨fun _ _ => rfl, rfl⟩
      (.trans (works_moveAll hP ..) (works_land (hP _) { moveAll s.fresh.2 part i with out := _ }))

theorem works_dropMovers (s : State) (p q : Nat) (uids : List Nat) : Works P s (dropMovers s p q uids) := by
  refine .foldl _ (fun s x _ => .ite ?_ (.refl s)) s
  split
  · exact .ite (.refl s) (works_movePartial hP ..)
  · exact .refl s

theorem works_landHeld (r : Run) (keep : Nat → Bool) (s : State) : Works P s (landHeld r keep s) :=
  .foldl _ (fun s x _ => works_land (hP x.1) { s := s, out := x.2.filter fun y => keep y.1 }) s

theorem works_gatherStopped (p : Nat) (r : Run) (i : Item) (s : State) : Works P s (gatherStopped p r i s) := by
  unfold gatherStopped
  split
  · exact .refl s
  · refine .trans (t := s.fresh.2) ⟨fun _ _ => rfl, rfl⟩ (.trans (works_landHeld hP ..) (.foldl _ (fun s x _ => ?_) _))
    exact .ite (works_gatherPartial (hP x.1) ..) (.refl s)

theorem works_execStopped (p : Nat) (r : Run) (s : State) : Works P s (execStopped p r s) := by
  unfold execStopped
  split
  · exact (works_gatherStopped hP ..).trans (reads_modItem ..).works
  · exact .refl s

variable (hL : ∀ p, P (Reg.qmLate p))
include hL

theorem works_dropFromWindow (s : State) (q : Nat) (uids : List Nat) : Works P s (dropFromWindow s q uids) := by
  unfold dropFromWindow
  extract_lets p u w mine x y
  have hu : Works P s u := works_dropMovers hP ..
  have hx : Works P s x := by
    unfold x
    split
    · refine hu.trans (.ite ?_ (.refl u))
      refine .trans ?_ (reads_lateCheck (hL p) _).works
      have hstop : ∀ r f, Works P u ((clearCores (execStopped p r u) p r.uid).modWin p f) := fun r f =>
        (works_execStopped hP p r u).trans ((reads_clearCores _ p r.uid).trans (reads_modWin _ p f)).works
      exact .ite ((hstop _ _).trans (works_with_attn _ _)) (hstop _ _)
    · exact hu
  have hy : Works P s y := by
    unfold y
    split
    · exact hx.trans (.ite (reads_dropSlots p x).works (.refl x))
    · exact hx
  exact hy.trans (reads_modWin y p _).works

theorem works_endAs (st : Stop) (s : State) (x : Nat × Nat) : Works P s (endAs st s x) :=
  .trans (works_dropFromWindow hP hL ..) (reads_modItem ..).works

end
end

end Sys2Proof.Machine
end

section
/-!
SUPPORT. Status bits and their registers, and the request to be replaced (R359, R448).
-/
namespace Sys2Proof.Machine

theorem bit_setBit_ne (s : State) {k b c : Nat} (v : Bool) (h : c ≠ b) (hb : b < 64) (hc : c < 64) : (s.setBit k b v).bit k c = s.bit k c := by
  unfold State.bit
  rw [State.setBit, fld_setFld_ne s le_rfl rfl le_rfl rfl (by omega)]

/-- A status bit takes its value, and the others keep theirs. -/
theorem bit_setStatus (s : State) {b c : Nat} (v : Bool) (hb : b < 64) (hc : c < 64) :
    (setStatus s b v).bit Reg.glbStatus c = if c = b then v else s.bit Reg.glbStatus c := by
  have hset : (s.setBit Reg.glbStatus b v).bit Reg.glbStatus c = if c = b then v else s.bit Reg.glbStatus c := by
    split
    · next e => rw [e, bit_setBit_self]
    · next e => exact bit_setBit_ne s v e hb hc
  have hkey : fieldKey Reg.glbStatus c = Reg.glbStatus := by simp [fieldKey, Nat.div_eq_of_lt hc]
  unfold setStatus
  split
  · next e =>
    split
    · next e' => rw [e', e]
    · rfl
  · dsimp only
    split
    · exact hset
    · rw [bit_of_reg _ _ ?_, hset]
      rw [hkey, reg_raiseMsix _ _ _ _ (by decide) (by decide), reg_setBit_ne _ ?_]
      simp only [fieldKey, Nat.div_eq_of_lt hb]
      decide

/-- A device that asks to be replaced is degraded, requests it, and drives REPLACE_N low. -/
theorem degrade_asks (s : State) : (degrade s).bit Reg.glbStatus 2 = true ∧ (degrade s).bit Reg.glbStatus 3 = true ∧ (degrade s).pins.replaceLow = true := by
  have h : ∀ b, b = 2 ∨ b = 3 → (setStatus (setStatus s 3 true) 2 true).bit Reg.glbStatus b = true := fun b hb => by
    rcases hb with rfl | rfl <;> simp [bit_setStatus]
  exact ⟨h 2 (.inl rfl), h 3 (.inr rfl), rfl⟩

@[simp] theorem degrade_pending (s : State) : (degrade s).pending = s.pending := by simp [degrade]
@[simp] theorem degrade_fabric (s : State) : (degrade s).fabric = s.fabric := by simp [degrade]
@[simp] theorem degrade_boot (s : State) : (degrade s).boot = s.boot := by simp [degrade]
@[simp] theorem degrade_qm (s : State) : (degrade s).qm = s.qm := by simp [degrade]
@[simp] theorem degrade_mem (s : State) : (degrade s).mem = s.mem := by simp [degrade]

end Sys2Proof.Machine
end

section
/-!
O32. Errors of the die-to-die links and of the GDDR6 channels (R14, R15, R33, R448).
-/
namespace Sys2Proof.Machine

/-! ### Modules -/

/-- Every register but GLB_STATUS. -/
def notStatus (k : Nat) : Prop := k ≠ Reg.glbStatus

theorem workCounters_notStatus (c : Nat) : WorkCounters notStatus c where
  counters :=
    { bytes := fun i _ => by unfold notStatus Reg.dbgBcnt Reg.glbStatus; omega
      port := fun c _ b _ => by unfold notStatus Reg.dbgBcnt Reg.glbStatus; omega
      errors := fun i _ => by unfold notStatus Reg.relCnt Reg.glbStatus; omega }
  violCount := by unfold notStatus; decide
  violLast := by unfold notStatus; decide

theorem qmLate_notStatus (p : Nat) : notStatus (Reg.qmLate p) := by unfold notStatus Reg.qmLate Reg.glbStatus; omega

/-- The descriptors of a Hearth that is cut off end, and the Hearth goes at the next start. -/
theorem works_cutOff (h : Nat) (s : State) :
    ∃ u, Works notStatus s u ∧ cutOff h s = { u with boot := { u.boot with nextHearths := u.boot.nextHearths ||| BitVec.ofNat 4 (2 ^ h) } } := by
  unfold cutOff
  extract_lets ps u
  refine ⟨u, .foldl _ (fun s p _ => .foldl _ (fun s x _ => ?_) s) s, rfl⟩
  exact works_endAs workCounters_notStatus qmLate_notStatus ..

theorem works_stopRun {P : Nat → Prop} (x : Running) (st : Stop) (s : State) : Works P s (stopRun x st s) :=
  (Framed.trans (reads_modItem ..) (reads_modRun ..)).works

theorem works_attnFlueFailed {P : Nat → Prop} (s : State) : Works P s (attnFlueFailed s) := by
  unfold attnFlueFailed
  dsimp only
  split
  · exact .refl s
  · split
    · exact .trans (works_with_attn ..) (works_stopRun ..)
    · exact .ite (.refl s) (works_with_attn ..)

theorem Framed.pending_eq {P : Nat → Prop} {s t : State} (h : Works P s t) : t.pending = s.pending := (congrArg State.pending h.2 :)

theorem Framed.status_eq {s t : State} (h : Works notStatus s t) {b : Nat} (hb : b < 64) : t.bit Reg.glbStatus b = s.bit Reg.glbStatus b := by
  refine bit_of_reg _ _ (h.1 _ ?_)
  simp [notStatus, fieldKey, Nat.div_eq_of_lt hb]

/-- What follows the failure of a module, once it has been recorded. -/
def moduleCut (h : Nat) (s : State) : State := if s.hearthCut h then cutOff h s else s

theorem moduleCut_keeps (h : Nat) (s : State) :
    (moduleCut h s).pending = s.pending ∧ (moduleCut h s).fabric.modFailed = s.fabric.modFailed ∧ (moduleCut h s).pins = s.pins ∧
      (∀ b, b < 64 → (moduleCut h s).bit Reg.glbStatus b = s.bit Reg.glbStatus b) ∧
      (moduleCut h s).boot.nextHearths = (if s.hearthCut h then s.boot.nextHearths ||| BitVec.ofNat 4 (2 ^ h) else s.boot.nextHearths) ∧
      (s.hearthCut h = false → moduleCut h s = s) := by
  unfold moduleCut
  split
  next hc =>
    obtain ⟨u, hu, he⟩ := works_cutOff h s
    rw [he]
    refine ⟨hu.pending_eq, hu.modFailed_eq, hu.pins_eq, fun b hb => hu.status_eq hb, ?_, fun hn => ?_⟩
    · rw [← hu.nextHearths_eq]
    · simp [hc] at hn
  next => exact ⟨rfl, rfl, rfl, fun _ _ => rfl, rfl, fun _ => rfl⟩

section
variable {s : State} (hup : s.up = true)
include hup

theorem exec_d2dFlitRetry (l : D2d) : exec (.d2dFlitRetry l) s =
    .next (reportUnnamed (s.addSat (Reg.relCnt 5) 31 0 1) 0x03 0 (linkArgs l).1 (linkArgs l).2.1 (linkArgs l).2.2) :=
  live_next hup rfl ((reportUnnamed_pending ..).trans (addSat_pending ..))

theorem exec_moduleFailed_mantel (h : Fin 4) (m : Fin 2) (hm : s.fabric.modFailed.toNat.testBit (2 * h.val + m.val) = false) :
    ∃ t, exec (.moduleFailed (.mantel h m)) s = .next t ∧ t.fabric.modFailed = s.fabric.modFailed ||| BitVec.ofNat 8 (2 ^ (2 * h.val + m.val)) ∧
      t.bit Reg.glbStatus 2 = true ∧ t.bit Reg.glbStatus 3 = true ∧ t.pins.replaceLow = true ∧
      t.boot.nextHearths = (if t.hearthCut h.val then s.boot.nextHearths ||| BitVec.ofNat 4 (2 ^ h.val) else s.boot.nextHearths) ∧
      (t.hearthCut h.val = false → t.qm = s.qm) := by
  let u := report { s with fabric := { s.fabric with modFailed := s.fabric.modFailed ||| BitVec.ofNat 8 (2 ^ (2 * h.val + m.val)) } } 0x03 0x20 h.val m.val 4
  obtain ⟨hb2, hb3, hlow⟩ := degrade_asks u
  obtain ⟨hpend, hmod, hpins, hbit, hnext, hsame⟩ := moduleCut_keeps h.val (degrade u)
  have hufab : u.fabric = { s.fabric with modFailed := s.fabric.modFailed ||| BitVec.ofNat 8 (2 ^ (2 * h.val + m.val)) } := report_fabric ..
  have huboot : u.boot = s.boot := report_boot ..
  have huqm : u.qm = s.qm := report_qm ..
  have hcut : (moduleCut h.val (degrade u)).hearthCut h.val = (degrade u).hearthCut h.val := by unfold State.hearthCut; rw [hmod]
  have hwork : moduleFailed (.mantel h m) s = moduleCut h.val (degrade u) := by
    unfold moduleFailed
    dsimp only
    rw [if_neg (by simp [hm])]
    rfl
  refine ⟨moduleCut h.val (degrade u), live_next hup hwork ?_, ?_, ?_, ?_, ?_, ?_, fun hc => ?_⟩
  · rw [hpend, degrade_pending]
    exact report_pending ..
  · rw [hmod, degrade_fabric, hufab]
  · rw [hbit 2 (by decide), hb2]
  · rw [hbit 3 (by decide), hb3]
  · rw [hpins, hlow]
  · rw [hnext, hcut, degrade_boot, huboot]
  · rw [hsame (hcut ▸ hc), degrade_qm, huqm]

theorem exec_moduleFailed_flue (n : Fin 4) (hn : s.fabric.flueFailed.toNat.testBit n.val = false) :
    ∃ t, exec (.moduleFailed (.flue n)) s = .next t ∧ t.fabric.flueFailed = s.fabric.flueFailed ||| BitVec.ofNat 4 (2 ^ n.val) ∧
      t.bit Reg.glbStatus 2 = true ∧ t.bit Reg.glbStatus 3 = true ∧ t.pins.replaceLow = true ∧ t.boot.nextHearths = s.boot.nextHearths := by
  let u := report { s with fabric := { s.fabric with flueFailed := s.fabric.flueFailed ||| BitVec.ofNat 4 (2 ^ n.val) } } 0x03 0x20 n.val 0 ((n.val + 1) % 4)
  obtain ⟨hb2, hb3, hlow⟩ := degrade_asks u
  have hw : Works notStatus (degrade u) (attnFlueFailed (degrade u)) := works_attnFlueFailed _
  have hufab : u.fabric = { s.fabric with flueFailed := s.fabric.flueFailed ||| BitVec.ofNat 4 (2 ^ n.val) } := report_fabric ..
  have huboot : u.boot = s.boot := report_boot ..
  have hwork : moduleFailed (.flue n) s = attnFlueFailed (degrade u) := by
    unfold moduleFailed
    dsimp only
    rw [if_neg (by simp [hn])]
  refine ⟨attnFlueFailed (degrade u), live_next hup hwork ?_, ?_, ?_, ?_, ?_, ?_⟩
  · rw [hw.pending_eq, degrade_pending]
    exact report_pending ..
  · rw [hw.flueFailed_eq, degrade_fabric, hufab]
  · rw [hw.status_eq (by decide), hb2]
  · rw [hw.status_eq (by decide), hb3]
  · rw [hw.pins_eq, hlow]
  · rw [hw.nextHearths_eq, degrade_boot, huboot]

end

/-! ### GDDR6 transfers -/

/-- An EDC failure of a transfer in turn: a retry, or the channel goes offline. -/
theorem edcFailure_due {s : State} {a f : Nat} {w : Bool} (ht : s.fabric.gddrTrained = true) (ha : a < s.usable) (hd : s.chDown (s.chanOf a) = false)
    (hf : f = 0 ∨ tfind s.fabric.edc (s.chanOf a) = some ⟨a / 32 * 32, w, f⟩) : edcFailure a w f s =
      if f < 4 then { s.addSat (Reg.relCnt 2) 31 0 1 with
        fabric := { s.fabric with edc := tput s.fabric.edc (s.chanOf a) ⟨a / 32 * 32, w, f + 1⟩ } }
      else { s with fabric := { s.fabric with chOffline := s.fabric.chOffline ||| BitVec.ofNat 16 (2 ^ s.chanOf a) } } := by
  unfold edcFailure
  dsimp only
  rw [addSat_fabric]
  rcases hf with rfl | hf
  · exact if_neg (by simp [ht, hd, ha])
  · rw [hf]
    exact if_neg (by simp [ht, hd, ha])

/-- The channel of a transfer in retry is in service again. -/
def edcEnded (s : State) (g : Nat) : State :=
  { s with fabric := { s.fabric with edc := terase s.fabric.edc g, chOffline := s.fabric.chOffline &&& ~~~(BitVec.ofNat 16 (2 ^ g)) } }

theorem edcRetrainDone_offline {s : State} {a : Nat} {e : Edc} (he : tfind s.fabric.edc (s.chanOf a) = some e)
    (ho : s.fabric.chOffline.toNat.testBit (s.chanOf a) = true) (trained ok : Bool) : edcRetrainDone a trained ok s =
      if !trained then channelFailed (s.chanOf a) (edcEnded s (s.chanOf a))
      else if ok then edcEnded s (s.chanOf a) else transferLost e.addr e.write (edcEnded s (s.chanOf a)) := by
  unfold edcRetrainDone
  dsimp only
  rw [he]
  exact if_neg (by simp [ho])

theorem transferLost_pending (a : Nat) (w : Bool) (s : State) : (transferLost a w s).pending = s.pending := by
  unfold transferLost
  dsimp only
  split
  · exact report_pending ..
  · exact reportUnnamed_pending ..

/-- A channel that fails retraining is out of service, excluded at the next start, and degrades the device. -/
theorem channelFailed_outcome (g : Nat) (s : State) :
    (channelFailed g s).pending = s.pending ∧ (channelFailed g s).fabric.chFailed = s.fabric.chFailed ||| BitVec.ofNat 16 (2 ^ g) ∧
      (channelFailed g s).boot.nextChannels = s.boot.nextChannels ||| BitVec.ofNat 16 (2 ^ g) ∧
      (channelFailed g s).bit Reg.glbStatus 3 = true ∧ (channelFailed g s).mem = s.mem := by
  unfold channelFailed
  dsimp only
  obtain ⟨-, hb3, -⟩ := degrade_asks (report { s with
    fabric := { s.fabric with chFailed := s.fabric.chFailed ||| BitVec.ofNat 16 (2 ^ g), chOffline := s.fabric.chOffline &&& ~~~(BitVec.ofNat 16 (2 ^ g)) }
    boot := { s.boot with nextChannels := s.boot.nextChannels ||| BitVec.ofNat 16 (2 ^ g) } } 0x01 0x11 g 3 0)
  rw [degrade_pending, degrade_fabric, degrade_boot, degrade_mem, report_pending, report_fabric, report_boot, report_mem]
  exact ⟨rfl, rfl, rfl, hb3, rfl⟩

section
variable {s : State} (hup : s.up = true)
include hup

theorem exec_edcFailure {a : Nat} {w : Bool} {f : Fin 5} (ht : s.fabric.gddrTrained = true) (ha : a < s.usable) (hd : s.chDown (s.chanOf a) = false)
    (hf : f.val = 0 ∨ tfind s.fabric.edc (s.chanOf a) = some ⟨a / 32 * 32, w, f.val⟩) : exec (.edcFailure a w f) s = .next
      (if f.val < 4 then { s.addSat (Reg.relCnt 2) 31 0 1 with
        fabric := { s.fabric with edc := tput s.fabric.edc (s.chanOf a) ⟨a / 32 * 32, w, f.val + 1⟩ } }
      else { s with fabric := { s.fabric with chOffline := s.fabric.chOffline ||| BitVec.ofNat 16 (2 ^ s.chanOf a) } }) := by
  refine live_next hup (edcFailure_due ht ha hd hf) (ite_pending ?_ rfl)
  rw [with_fabric_pending, addSat_pending]

theorem exec_edcRetrainDone {a : Nat} {e : Edc} (he : tfind s.fabric.edc (s.chanOf a) = some e)
    (ho : s.fabric.chOffline.toNat.testBit (s.chanOf a) = true) (trained ok : Bool) : exec (.edcRetrainDone a trained ok) s = .next
      (if !trained then channelFailed (s.chanOf a) (edcEnded s (s.chanOf a))
      else if ok then edcEnded s (s.chanOf a) else transferLost e.addr e.write (edcEnded s (s.chanOf a))) := by
  refine live_next hup (edcRetrainDone_offline he ho trained ok) ?_
  refine ite_pending ?_ (ite_pending rfl (transferLost_pending ..))
  exact (channelFailed_outcome _ _).1

end
end Sys2Proof.Machine
end

section
open Sys2Proof Sys2Proof.Machine

/-- Settles O32: the outcome of each command, with the frame of the work that a Hearth or a Flue link that is cut off leaves. -/
theorem linkErrors : Obligations.LinkErrors := by
  unfold Obligations.LinkErrors
  intro s hup
  refine ⟨fun h m => exec_d2dFlitRetry hup _, fun n => exec_d2dFlitRetry hup _, fun h m hm => exec_moduleFailed_mantel hup h m hm,
    fun n hn => exec_moduleFailed_flue hup n hn, fun a w f ht ha hd hf => ⟨fun hlt => ?_, fun heq => ?_⟩, fun a e he ho => ?_⟩
  · rw [exec_edcFailure hup ht ha hd hf, if_pos hlt]
  · rw [exec_edcFailure hup ht ha hd hf, if_neg (by omega)]
  · have hdone := exec_edcRetrainDone hup he ho
    refine ⟨hdone true true, fun hw => ?_, fun hw => ?_, ?_⟩
    · rw [hdone true false, hw]
      rfl
    · rw [hdone true false, hw]
      rfl
    · obtain ⟨-, hfail, hnext, hbit, hmem⟩ := channelFailed_outcome (s.chanOf a) (edcEnded s (s.chanOf a))
      exact ⟨_, hdone false false, hfail, hnext, hbit, hmem⟩

end

section
/-!
O1. A step: the front command, or a tick (R22, R198, R349; log 9). What a tick touches is said stage by stage: the time, the cyclic table and the
turns, the tracker's waits, and the reads ahead for NEXT descriptors.
-/
namespace Sys2Proof.Machine

theorem step_cons {s : State} {c : Instr} {cs : List Instr} (h : s.pending = c :: cs) : step s = exec c { s with pending := cs } := by
  unfold step
  rw [h]

theorem step_nil {s : State} (h : s.pending = []) : step s = .next (quietTick s) := by
  unfold step
  rw [h]

/-! ### The time -/

theorem tick_down {s : State} (h : s.up = false) : tick s = s := by simp [tick, h]

theorem tick_up {s : State} (h : s.up = true) : tick s = { s with
    clock := { s.clock with timeF := s.clock.next s.clock.timeF, timeM := s.clock.next s.clock.timeM, timeC := s.clock.next s.clock.timeC
                            write := none, step := 0 }
    boot := { s.boot with writing := none } } := by
  simp [tick, h]

/-- A tick touches the time and the end of a journal write alone. -/
theorem tick_rest (s : State) : tick s = { s with clock := (tick s).clock, boot := { s.boot with writing := (tick s).boot.writing } } := by
  cases h : s.up
  · rw [tick_down h]
  · rw [tick_up h]

theorem Clock.next_advance {c : Clock} (hw : c.write = none) (hh : c.hold = 0) (x : W64) : c.next x = x + 10 + c.step := by
  simp [Clock.next, hw, hh]

theorem Clock.next_hold {c : Clock} (hw : c.write = none) (hh : c.hold ≠ 0) (x : W64) : c.next x = x + c.step := by
  simp [Clock.next, hw, hh]

theorem Clock.next_write {c : Clock} {v : W64} (hw : c.write = some v) (x : W64) : c.next x = v + c.step := by
  simp [Clock.next, hw]

/-! ### The cyclic table and the turns -/

section
variable {P : Nat → Prop} (hL : ∀ p, p < 16 → P (Reg.qmLate p))

theorem slotPart_lt (e : W64) : slotPart e < 16 := nbits_lt e.toNat 3 0

theorem reads_quietStart (i : Nat) (s : State) : Reads P s (quietStart i s) := by
  unfold quietStart
  extract_lets p g u
  split
  · have hu : Reads P s u := reads_modWin ..
    split
    · exact hu.trans (.ite (reads_withdrawNext ..) (.refl u))
    · exact hu
  · exact .refl s

theorem reads_passTurn (k : Part) (s : State) (p : Nat) : Reads P s (passTurn k s p) := by
  unfold passTurn
  split
  · exact .refl s
  · exact .ite (reads_passOver ..) (.refl s)

include hL

theorem reads_enterSlot (i : Nat) (s : State) : Reads P s (enterSlot i s) :=
  .trans (reads_modWin ..) (reads_lateCheck (hL _ (slotPart_lt _)) _)

theorem reads_moveLine (s : State) (p : Nat) : Reads P s (moveLine s p) := by
  unfold moveLine
  extract_lets u v
  have hu : Reads P s u := reads_modWin ..
  have hv : Reads P s v := by
    unfold v
    split
    · exact hu.trans (.ite (reads_enterSlot hL ..) (.refl u))
    · exact hu.trans (reads_modWin ..)
  split
  · exact hv.trans (reads_quietStart ..)
  · exact hv

theorem reads_moveTable (s : State) : Reads P s (moveTable s) :=
  .ite (.foldl _ (fun s p _ => reads_moveLine hL s p) s) (.refl s)

/-- Beside the time, an idle step of the clocks is the table's and the turns' alone. -/
theorem reads_idle (s : State) : Reads P (tick s) (idle s) := by
  unfold idle
  extract_lets u v
  have hv : Reads P u v := .ite (reads_moveTable hL u) (.refl u)
  exact hv.trans (.ite (.foldl _ (fun s p _ => (reads_passTurn .compute s p).trans (reads_passTurn .mover _ p)) v) (.refl v))

end

/-! ### The reads ahead for NEXT descriptors -/

theorem coreList_lt {s : State} {p c : Nat} (h : c ∈ s.coreList p) : c < 16 := List.mem_range.1 (List.mem_of_mem_filter h)

section
variable {P : Nat → Prop}

theorem reads_slotRead {c : Nat} (hP : Counters P (.core c)) (p : Nat) (x : State × List Nat × Bool) (va : Nat) :
    Reads P x.1 (slotRead c p x va).1 := by
  have ht := reads_translate hP x.1 p va
  unfold slotRead
  dsimp only
  split
  · exact .refl _
  · split
    · split
      · exact ht
      · exact ht.trans (reads_countSectors hP 10 _ 256 { s := (translate x.1 c p va).1 })
    · exact ht

theorem reads_prefetchCore {c : Nat} (hP : Counters P (.core c)) (p : Nat) (i : Item) (ranges : Tab (Nat × Nat)) (s : State) :
    Reads P s (prefetchCore p i ranges s c) := by
  unfold prefetchCore
  split
  · exact .ite (.trans (.foldlBy Prod.fst (reads_slotRead hP p) _ (s, [], true)) (reads_modCore ..)) (.refl s)
  · exact .refl s

theorem reads_prefetchNext (hP : ∀ c, c < 16 → Counters P (.core c)) (s : State) (p : Nat) : Reads P s (prefetchNext s p) := by
  unfold prefetchNext
  dsimp only
  split
  · split
    · exact .ite (.foldl _ (fun s c hc => reads_prefetchCore (hP c (coreList_lt hc)) p _ _ s) s) (.refl s)
    · exact .refl s
  · exact .refl s

end

/-! ### The whole tick -/

/-- The state without what a tick touches beside the time. -/
def State.sansIdle (s : State) : State :=
  { s with regs := [], qm := {}, mmu := {}, ember := {}, fabric := {}, boot := {}, track := { s.track with bound := [] } }

theorem Framed.sansIdle {P : Nat → Prop} {s t : State} (h : Reads P s t) : Framed P State.sansIdle s t :=
  ⟨h.1, congrArg (fun x : State => { x with fabric := {}, boot := {}, track := { x.track with bound := [] } }) h.2⟩

theorem sansIdle_modBound {P : Nat → Prop} (s : State) (h : Nat) (f : Bound → Bound) : Framed P State.sansIdle s (s.modBound h f) := by
  unfold State.modBound
  split
  · exact ⟨fun _ _ => rfl, rfl⟩
  · exact .refl s

theorem sansIdle_metaWaits {P : Nat → Prop} (p : Nat) (s : State) : Framed P State.sansIdle s (metaWaits p s) :=
  .foldl _ (fun s h _ => sansIdle_modBound s h _) s

/-- The registers of O1: lateness, byte counters and error counters. -/
def tickRegs : List Nat := (List.range 16).map Reg.qmLate ++ (List.range 96).map Reg.dbgBcnt ++ (List.range 10).map Reg.relCnt

theorem qmLate_mem_tickRegs (p : Nat) (h : p < 16) : Reg.qmLate p ∈ tickRegs := by
  unfold tickRegs
  exact List.mem_append_left _ (List.mem_append_left _ (List.mem_map_of_mem (List.mem_range.2 h)))

theorem dbgBcnt_mem_tickRegs {i : Nat} (h : i < 96) : Reg.dbgBcnt i ∈ tickRegs := by
  unfold tickRegs
  exact List.mem_append_left _ (List.mem_append_right _ (List.mem_map_of_mem (List.mem_range.2 h)))

theorem relCnt_mem_tickRegs {i : Nat} (h : i < 10) : Reg.relCnt i ∈ tickRegs := by
  unfold tickRegs
  exact List.mem_append_right _ (List.mem_map_of_mem (List.mem_range.2 h))

theorem counters_tickRegs (c : Nat) (hc : c < 16) : Counters (· ∈ tickRegs) (.core c) where
  bytes _ hi := dbgBcnt_mem_tickRegs (by omega)
  port _ e b hb := by
    cases e
    exact dbgBcnt_mem_tickRegs (by omega)
  errors _ hi := relCnt_mem_tickRegs hi

theorem quietTick_frame (s : State) : Framed (· ∈ tickRegs) State.sansIdle (tick s) (quietTick s) := by
  unfold quietTick
  extract_lets u
  have hu : Framed (· ∈ tickRegs) State.sansIdle (tick s) u := (reads_idle qmLate_mem_tickRegs s).sansIdle
  refine hu.trans (.ite (.trans (.foldl _ (fun s p _ => sansIdle_metaWaits p s) u) (.foldl _ (fun s p _ => ?_) _)) (.refl u))
  exact (reads_prefetchNext counters_tickRegs s p).sansIdle

theorem quietTick_clock (s : State) : (quietTick s).clock = (tick s).clock := (congrArg State.clock (quietTick_frame s).2 :)

/-- Beside the time, a tick touches only what O1 names. -/
theorem quietTick_rest (s : State) : quietTick s = { s with
    clock := (quietTick s).clock, qm := (quietTick s).qm, track := { s.track with bound := (quietTick s).track.bound }, mmu := (quietTick s).mmu
    boot := (quietTick s).boot, fabric := (quietTick s).fabric, ember := (quietTick s).ember, regs := (quietTick s).regs } := by
  have h : (quietTick s).sansIdle = { s.sansIdle with clock := (quietTick s).clock } := by
    rw [(quietTick_frame s).2, quietTick_clock]
    conv_lhs => rw [tick_rest]
    rfl
  exact congrArg (fun x : State => { x with
    qm := (quietTick s).qm, track := { x.track with bound := (quietTick s).track.bound }, mmu := (quietTick s).mmu
    boot := (quietTick s).boot, fabric := (quietTick s).fabric, ember := (quietTick s).ember, regs := (quietTick s).regs }) h

theorem quietTick_regs (s : State) : OnlyRegs tickRegs s (quietTick s) := fun k hk =>
  ((quietTick_frame s).1 k hk).trans (by rw [tick_rest]; rfl)

/-- Before READY a tick is the time's alone. -/
theorem quietTick_early {s : State} (h : s.ready = false) : quietTick s = tick s := by
  have hr : (tick s).ready = false := by
    rw [tick_rest]
    exact h
  have hidle : idle s = tick s := by
    unfold idle moveTable State.tableOn
    simp [hr]
  unfold quietTick
  simp [hidle, hr]

end Sys2Proof.Machine
end

section
open Sys2Proof Sys2Proof.Machine

/-- Settles O1: the front command is exec's, and a tick is framed stage by stage. -/
theorem stepRunsFrontCommandOrTicks : Obligations.StepRunsFrontCommandOrTicks := by
  unfold Obligations.StepRunsFrontCommandOrTicks
  refine ⟨fun c cs s h => step_cons h, fun s h => ⟨quietTick s, step_nil h, quietTick_rest s, quietTick_regs s, fun hr => ?_, fun hd => ?_, fun hup => ?_⟩⟩
  · rw [quietTick_early hr]
    exact tick_rest s
  · rw [quietTick_clock, tick_down hd]
  · rw [quietTick_clock, tick_up hup]
    refine ⟨rfl, rfl, rfl, rfl, fun v hw => ?_, fun hw hh => ?_, fun hw hh => ?_⟩
    · exact ⟨Clock.next_write hw _, Clock.next_write hw _, Clock.next_write hw _⟩
    · exact ⟨Clock.next_advance hw hh _, Clock.next_advance hw hh _, Clock.next_advance hw hh _⟩
    · exact ⟨Clock.next_hold hw hh _, Clock.next_hold hw hh _, Clock.next_hold hw hh _⟩

end

section
/-!
SUPPORT. Frames of the start: status bits, verifications that fail, measurements, and the loading of firmware; and which fields of the registers they
leave (R359, R394, R403).
-/
namespace Sys2Proof.Machine

/-! ### The frames -/

/-- The state without what status bits, failures and measurements change. -/
def State.sansNote (s : State) : State :=
  { s with regs := [], hostMem := [], hif := {}, ember := {}, pins := { s.pins with replaceLow := false }
           boot := { s.boot with evLog := [], hostLost := 0, devLost := 0 } }

/-- The state without what else the start of an image changes: loaders and banks, the repair map, exclusions, and the link errors of the fabric. -/
def State.sansStart (s : State) : State :=
  { s.sansNote with
    fabric := { s.fabric with corrected := [], lost := [] }
    boot := { s.sansNote.boot with loader := none, bank0 := [], bank1 := [], cfgCopy := [], nextHearths := 0, repairMap := [], mapRecord := {}, counters := {}
                                   writing := none } }

abbrev Notes (P : Nat → Prop) (s t : State) : Prop := Framed P State.sansNote s t
abbrev Starts (P : Nat → Prop) (s t : State) : Prop := Framed P State.sansStart s t

section
variable {P : Nat → Prop} {s t : State}

theorem Framed.starts (h : Notes P s t) : Starts P s t :=
  ⟨h.1, congrArg (fun x : State => { x with
    fabric := { x.fabric with corrected := [], lost := [] }
    boot := { x.boot with loader := none, bank0 := [], bank1 := [], cfgCopy := [], nextHearths := 0, repairMap := [], mapRecord := {}, counters := {}
                          writing := none } }) h.2⟩

theorem Framed.mono {Q : Nat → Prop} {f : State → State} (h : Framed P f s t) (hPQ : ∀ k, P k → Q k) : Framed Q f s t :=
  ⟨fun k hk => h.1 k fun hp => hk (hPQ k hp), h.2⟩

/-! ### Status bits -/

/-- The registers that a change of a status bit and its notice move. -/
def statusRegs : List Nat := [Reg.glbStatus, Reg.hifNote, Reg.dbgBcnt 89, Reg.hifHdrop]

/-- The registers of a kind hold those of status bits. -/
abbrev HasStatus (P : Nat → Prop) : Prop := ∀ k ∈ statusRegs, P k

theorem notes_setFld {k lo : Nat} (h : P (fieldKey k lo)) (s : State) (hi v : Nat) : Notes P s (s.setFld k hi lo v) := .setFld (fun _ _ => rfl) h s hi v
theorem notes_setBit {k b : Nat} (h : P (fieldKey k b)) (s : State) (v : Bool) : Notes P s (s.setBit k b v) := notes_setFld h s b _
theorem notes_setReg {k : Nat} (h : P k) (s : State) (v : W64) : Notes P s (s.setReg k v) := .setReg (fun _ _ => rfl) h s v
theorem notes_report (s : State) (src code a0 a1 a2 : Nat) : Notes P s (report s src code a0 a1 a2) := .report (fun _ _ => rfl) s ..
theorem notes_reportUnnamed (s : State) (src e a0 a1 a2 : Nat) : Notes P s (reportUnnamed s src e a0 a1 a2) := notes_report ..

section
variable (hP : HasStatus P)
include hP

theorem notes_hostWrite (s : State) (a : Nat) (bs : List Byte) : Notes P s (hostWrite s a bs) := by
  have hcnt : P (fieldKey (Reg.dbgBcnt 89) 0) := hP _ (by decide)
  have hdrop : P (fieldKey Reg.hifHdrop 0) := hP _ (by decide)
  unfold hostWrite
  dsimp only
  split
  · exact .trans (t := { s with hostMem := _ }) ⟨fun _ _ => rfl, rfl⟩ (notes_setFld hcnt _ 47 _)
  · have hd : Notes P s (s.addSat Reg.hifHdrop 31 0 1) := notes_setFld hdrop s 31 _
    split
    · exact hd
    · exact (hd.trans (notes_report ..)).trans ⟨fun _ _ => rfl, rfl⟩

theorem notes_raiseMsix (s : State) (f v : Nat) : Notes P s (raiseMsix s f v) := by
  unfold raiseMsix
  split
  · exact ⟨fun _ _ => rfl, rfl⟩
  · exact (notes_hostWrite hP s _ _).trans ⟨fun _ _ => rfl, rfl⟩

theorem notes_setStatus (s : State) {b : Nat} (hb : b < 64) (v : Bool) : Notes P s (setStatus s b v) := by
  have hkey : ∀ k, fieldKey k b = k := fun k => by simp [fieldKey, Nat.div_eq_of_lt hb]
  have hst : P (fieldKey Reg.glbStatus b) := hkey _ ▸ hP _ (by decide)
  have hno : P (fieldKey Reg.hifNote b) := hkey _ ▸ hP _ (by decide)
  unfold setStatus
  dsimp only
  split
  · exact .refl s
  · refine .trans (notes_setBit hst s v) (.ite (.refl _) ?_)
    exact (notes_setBit hno _ _).trans (notes_raiseMsix hP ..)

theorem notes_degrade (s : State) : Notes P s (degrade s) :=
  .trans (.trans (notes_setStatus hP s (by decide) true) (notes_setStatus hP _ (by decide) true)) ⟨fun _ _ => rfl, rfl⟩

end

/-! ### Failures and measurements -/

/-- The registers that a failed verification moves. -/
def failureRegs : List Nat := Reg.secBootstat :: statusRegs

/-- A verification noted: nothing, or bit `k` of FAIL and the vault lock. -/
theorem notes_noteFailure {k : Nat} (hk : k < 3) (s : State) (cause : Byte) : Notes (· ∈ failureRegs) s (noteFailure s k cause) := by
  have hst : HasStatus (· ∈ failureRegs) := fun j hj => List.mem_cons_of_mem _ hj
  have hboot : ∀ b, b < 64 → fieldKey Reg.secBootstat b ∈ failureRegs := fun b hb => by
    simp [fieldKey, Nat.div_eq_of_lt hb, failureRegs]
  unfold noteFailure verifyFailed lockVault
  refine .ite (.refl s) (.trans ?_ (.ite (.refl _) (notes_reportUnnamed ..)))
  exact .trans (.trans (notes_setBit (hboot _ (by omega)) s true) (notes_setStatus hst _ (by decide) true)) (notes_setBit (hboot 11 (by decide)) _ true)

/-- The registers of the measurements. -/
def isMeas (k : Nat) : Prop := Reg.secMeas 0 ≤ k

theorem notes_logEvent (s : State) (e : EvEntry) : Notes P s (logEvent s e) := by
  unfold logEvent
  dsimp only
  split
  · exact ⟨fun _ _ => rfl, rfl⟩
  · split <;> exact ⟨fun _ _ => rfl, rfl⟩

theorem notes_setMeas (s : State) (n : Nat) (x : BitVec 512) : Notes isMeas s (setMeas s n x) :=
  .foldl _ (fun s i _ => notes_setReg (by unfold isMeas Reg.secMeas; omega) s _) s

theorem notes_extendM (s : State) (n : Nat) (x : BitVec 512) (kind source cause : Byte) (version : W32) :
    Notes isMeas s (extendM s n x kind source cause version) := .trans (notes_setMeas ..) (notes_logEvent ..)

theorem notes_measureImage (s : State) (n : Nat) (kind : Byte) (im : Image) : Notes isMeas s (measureImage s n kind im) :=
  .trans (notes_extendM ..) (notes_extendM ..)

end

/-! ### Fields that a frame leaves -/

theorem Framed.fld_eq {P : Nat → Prop} {f : State → State} {s t : State} (h : Framed P f s t) {k lo : Nat} (hk : ¬ P (fieldKey k lo)) (hi : Nat) :
    t.fld k hi lo = s.fld k hi lo := fld_of_reg k hi lo (h.1 _ hk)

theorem Framed.bit_eq {P : Nat → Prop} {f : State → State} {s t : State} (h : Framed P f s t) {k b : Nat} (hk : ¬ P (fieldKey k b)) :
    t.bit k b = s.bit k b := bit_of_reg k b (h.1 _ hk)

/-- A failure keeps the fields of SEC_BOOTSTAT below FAIL and above the vault lock. -/
theorem fld_noteFailure {k : Nat} (hk : k < 3) (s : State) (cause : Byte) {hi lo : Nat} (hl : lo ≤ hi) (hh : hi < 64) (h : hi < 8 ∨ 12 ≤ lo) :
    (noteFailure s k cause).fld Reg.secBootstat hi lo = s.fld Reg.secBootstat hi lo := by
  have hst : Notes (· ∈ statusRegs) (s.setBit Reg.secBootstat (8 + k) true) (setStatus (s.setBit Reg.secBootstat (8 + k) true) 1 true) :=
    notes_setStatus (fun _ h => h) _ (by decide) true
  have hkey : fieldKey Reg.secBootstat lo ∉ statusRegs := by
    simp only [fieldKey, Nat.div_eq_of_lt (by omega : lo < 64)]
    decide
  unfold noteFailure verifyFailed lockVault
  split
  · rfl
  · rw [fld_congr (reportUnnamed_regs ..), State.setBit, fld_setFld_ne _ le_rfl rfl hl (by omega) (by omega), hst.fld_eq hkey,
      State.setBit, fld_setFld_ne _ le_rfl rfl hl (by omega) (by omega)]

end Sys2Proof.Machine
end

section
/-!
SUPPORT. The start up to the A-clocks: reset release, Stage 0, the trained link, F_SUS and the rails (R24, R352, R397, R429).
-/
namespace Sys2Proof.Machine

/-! ### Registers and the log alone -/

/-- The state without the registers and the Ember log. -/
def State.sansLog (s : State) : State := { s with regs := [], ember := {} }

abbrev Logs (P : Nat → Prop) (s t : State) : Prop := Framed P State.sansLog s t

theorem Framed.log_eq {P : Nat → Prop} {s t : State} (h : Logs P s t) : t = { s with regs := t.regs, ember := t.ember } :=
  congrArg (fun x : State => { x with regs := t.regs, ember := t.ember }) h.2

theorem logs_setFld {P : Nat → Prop} {k lo : Nat} (h : P (fieldKey k lo)) (s : State) (hi v : Nat) : Logs P s (s.setFld k hi lo v) :=
  .setFld (fun _ _ => rfl) h s hi v
theorem logs_report {P : Nat → Prop} (s : State) (src code a0 a1 a2 : Nat) : Logs P s (report s src code a0 a1 a2) := .report (fun _ _ => rfl) s ..
theorem logs_reportUnnamed {P : Nat → Prop} (s : State) (src e a0 a1 a2 : Nat) : Logs P s (reportUnnamed s src e a0 a1 a2) := logs_report ..

/-- A command of the pins whose work comes to a state that keeps the queue ends in that state. -/
theorem always_next {s t : State} {k : State → State} (h : k s = t) (hp : t.pending = s.pending) : always s k = .next t := by
  unfold always
  rw [h, keepQueue_of_pending hp]

/-! ### Reset release -/

/-- What RESET_RELEASE does before it names step 2. -/
def releaseLog (s : State) : State :=
  let por := s.boot.step == 0
  let u := report s 0x0A 0x60 (if por then 1 else 2) s.pins.bootSrc.toNat 0
  if por && u.pins.twinRole == 3 then reportUnnamed u 0x0B 2 0 0 0 else u

theorem logs_releaseLog {P : Nat → Prop} (s : State) : Logs P s (releaseLog s) :=
  .trans (logs_report ..) (.ite (logs_reportUnnamed ..) (.refl _))

theorem resetRelease_eq {s : State} (h1 : s.boot.step < 2) (h2 : s.inReset = false) (h3 : s.pins.bootSrc = 1 ∨ s.pins.perstLow = false) :
    ∃ u, resetRelease s = { u with boot := { u.boot with step := 2 } } ∧ Logs (· ∈ [Reg.pwrPower]) s u ∧ u.fld Reg.pwrPower 47 32 = 7500 := by
  refine ⟨(releaseLog s).setFld Reg.pwrPower 47 32 7500, ?_, .trans (logs_releaseLog s) (logs_setFld (by decide) _ 47 _), ?_⟩
  · unfold resetRelease releaseLog
    rw [if_pos ⟨h1, by simp [h2], h3.imp id (by simp)⟩]
  · rw [fld_setFld_self _ (by decide) (by decide)]
    exact Nat.mod_eq_of_lt (by decide)

theorem exec_resetRelease {s : State} (h1 : s.boot.step < 2) (h2 : s.inReset = false) (h3 : s.pins.bootSrc = 1 ∨ s.pins.perstLow = false) :
    ∃ t, exec .resetRelease s = .next t ∧ t = { s with regs := t.regs, boot := { s.boot with step := 2 }, ember := t.ember } ∧
      t.fld Reg.pwrPower 47 32 = 7500 ∧ OnlyRegs [Reg.pwrPower] s t := by
  obtain ⟨u, heq, hlog, hcap⟩ := resetRelease_eq h1 h2 h3
  refine ⟨{ u with boot := { u.boot with step := 2 } }, always_next heq (congrArg State.pending hlog.2 :), ?_, hcap, hlog.1⟩
  exact congrArg (fun x : State => { x with boot := { x.boot with step := 2 } }) hlog.log_eq

/-! ### The trained link -/

/-- The speed and width in HIF_LINK. -/
def linkFields (speed : BitVec 3) (width : BitVec 5) (s : State) : State := (s.setFld Reg.hifLink 2 0 speed.toNat).setFld Reg.hifLink 7 3 width.toNat

/-- The link is up, and no write of this outage has been logged. -/
def linkUp (s : State) : State := { s with hif := { s.hif with linkUp := true, outage := false } }

/-- NARROW, and its log entry. -/
def linkNarrow (speed : BitVec 3) (width : BitVec 5) (s : State) : State :=
  if speed.toNat < 5 ∨ width.toNat < 8 then report (s.setBit Reg.hifLink 8 true) 0x04 0x30 speed.toNat width.toNat 0
  else s.setBit Reg.hifLink 8 false

theorem logs_linkFields (speed : BitVec 3) (width : BitVec 5) (s : State) : Logs (· ∈ [Reg.hifLink]) s (linkFields speed width s) :=
  .trans (logs_setFld (by decide) s 2 _) (logs_setFld (by decide) _ 7 _)

theorem logs_linkNarrow (speed : BitVec 3) (width : BitVec 5) (s : State) : Logs (· ∈ [Reg.hifLink]) s (linkNarrow speed width s) :=
  .ite (.trans (logs_setFld (by decide) s 8 _) (logs_report ..)) (logs_setFld (by decide) s 8 _)

theorem bit_linkNarrow (speed : BitVec 3) (width : BitVec 5) (s : State) :
    (linkNarrow speed width s).bit Reg.hifLink 8 = decide (speed.toNat < 5 ∨ width.toNat < 8) := by
  unfold linkNarrow
  split
  next h => rw [bit_congr (report_regs ..), bit_setBit_self, decide_eq_true h]
  next h => rw [bit_setBit_self, decide_eq_false h]

theorem fld_linkNarrow (speed : BitVec 3) (width : BitVec 5) (s : State) {hi lo : Nat} (hl : lo ≤ hi) (hh : hi < 8) :
    (linkNarrow speed width s).fld Reg.hifLink hi lo = s.fld Reg.hifLink hi lo := by
  have hbit : ∀ v, (s.setBit Reg.hifLink 8 v).fld Reg.hifLink hi lo = s.fld Reg.hifLink hi lo := fun v =>
    fld_setFld_ne s le_rfl rfl hl (by omega) (by omega)
  unfold linkNarrow
  split
  · rw [fld_congr (report_regs ..), hbit]
  · exact hbit false

theorem exec_linkTrained {s : State} (hup : s.up = true) (speed : BitVec 3) (width : BitVec 5) :
    ∃ t, exec (.linkTrained speed width) s = .next t ∧ t.hif.linkUp = true ∧ t.fld Reg.hifLink 2 0 = speed.toNat ∧ t.fld Reg.hifLink 7 3 = width.toNat ∧
      t.bit Reg.hifLink 8 = decide (speed.toNat < 5 ∨ width.toNat < 8) ∧ OnlyRegs [Reg.hifLink] s t ∧
      t = { s with regs := t.regs, hif := { s.hif with linkUp := true, outage := false }, ember := t.ember } := by
  have hf := logs_linkFields speed width s
  have hn := logs_linkNarrow speed width (linkUp (linkFields speed width s))
  have hup' : (linkUp (linkFields speed width s)).sansLog = (linkUp s).sansLog := congrArg linkUp hf.2
  have hrest : Logs (fun _ => True) (linkUp s) (linkNarrow speed width (linkUp (linkFields speed width s))) :=
    ⟨fun _ h => absurd trivial h, hn.2.trans hup'⟩
  have hs := speed.isLt
  have hw := width.isLt
  refine ⟨linkNarrow speed width (linkUp (linkFields speed width s)), live_next hup rfl ?_, ?_, ?_, ?_, bit_linkNarrow .., ?_, hrest.log_eq⟩
  · exact (congrArg State.pending hrest.2 :)
  · exact (congrArg (fun x : State => x.hif.linkUp) hrest.2 :)
  · rw [fld_linkNarrow _ _ _ (by decide) (by decide)]
    unfold linkUp linkFields
    rw [fld_congr (with_hif_regs ..), fld_setFld_ne _ (by decide) (by decide) (by decide) (by decide) (by decide),
      fld_setFld_self _ (by decide) (by decide)]
    omega
  · rw [fld_linkNarrow _ _ _ (by decide) (by decide)]
    unfold linkUp linkFields
    rw [fld_congr (with_hif_regs ..), fld_setFld_self _ (by decide) (by decide)]
    omega
  · exact fun k hk => (hn.1 k hk).trans (hf.1 k hk)

/-! ### Stage 0 -/

theorem starts_repairAdd {P : Nat → Prop} (h : P (Reg.relCnt 9)) (s : State) (k : Nat) : Starts P s (repairAdd s k) := by
  have hc : ∀ x : State, Starts P x (x.addSat (Reg.relCnt 9) 31 0 1) := fun x => .setFld (fun _ _ => rfl) (lo := 0) h x 31 _
  have hj : ∀ (x : State) ws, Starts P x (journalWrite .repairMap ws x) := fun x ws => ⟨fun _ _ => rfl, rfl⟩
  unfold repairAdd
  split
  · exact .refl s
  · exact .trans (.trans (t := { s with boot := { s.boot with repairMap := s.boot.repairMap ++ [k] } }) ⟨fun _ _ => rfl, rfl⟩ (hc _)) (hj _ _)

theorem starts_thirdInDay {P : Nat → Prop} (h : P (Reg.relCnt 9)) (s : State) (k : Nat) : Starts P s (thirdInDay s k) := by
  have hfab : ∀ x : Fabric, Starts P s { s with fabric := { s.fabric with corrected := x.corrected } } := fun x => ⟨fun _ _ => rfl, rfl⟩
  unfold thirdInDay
  dsimp only
  exact .trans (hfab { s.fabric with corrected := _ }) (.ite (starts_repairAdd h ..) (.refl _))

/-- The counters of errors in structures that no address reaches. -/
def innerErrorRegs : List Nat := [Reg.relCnt 7, Reg.relCnt 8, Reg.relCnt 9]

theorem starts_flashFinds (off : Nat) (found : EccFound) (s : State) : Starts (· ∈ innerErrorRegs) s (flashFinds off found s) := by
  have hc : ∀ k, k ∈ innerErrorRegs → ∀ x : State, Starts (· ∈ innerErrorRegs) x (x.addSat k 31 0 1) := fun k hk x => .setFld (fun _ _ => rfl) (lo := 0) hk x 31 _
  have hr : ∀ (x : State) c a0 a1 a2, Starts (· ∈ innerErrorRegs) x (report x 0x0A c a0 a1 a2) := fun x c a0 a1 a2 => .report (fun _ _ => rfl) x ..
  have hmap : ∀ x k, Starts (· ∈ innerErrorRegs) x (repairAdd x k) := starts_repairAdd (by decide)
  unfold flashFinds eccInside
  cases found with
  | clean => exact .refl s
  | single =>
    dsimp only
    refine .trans (u := thirdInDay _ _) (.trans (hc (Reg.relCnt 7) (by decide) s) (hr _ 1 off 0 14)) ?_
    exact starts_thirdInDay (by decide) _ _
  | uncorrectable => exact .trans (.trans (hc (Reg.relCnt 8) (by decide) s) (hr _ 2 off 0 14)) (hmap _ _)

/-- Stage 0 in recovery wait. -/
theorem stage0_none {s : State} (h1 : s.boot.step = 2) (h2 : s.fld Reg.secBootstat 2 0 = 0) (h3 : s.boot.loader = none) (off : Nat) (found : EccFound)
    (h : s.pins.bootSrc = 3 ∨ chooseSlot 1 0x80000 0x80000 s.boot.flashA s.boot.flashB = none) :
    stage0 off found s = s.setFld Reg.secBootstat 2 0 3 := by
  have hslot : (if s.pins.bootSrc = 3 then none else chooseSlot 1 slotSize slotSize s.boot.flashA s.boot.flashB) = none := by
    split
    · rfl
    · next hn => exact h.resolve_left hn
  unfold stage0
  rw [if_neg (by simp [h1, h2, h3])]
  dsimp only
  rw [hslot]

/-- An image of Stage 1 is started: its version, its slot, and its verification in SEC_BOOTSTAT and SEC_VERSIONS, before it is measured. -/
def stage1Noted (slot : Nat) (im : Image) (s : State) : State :=
  (((s.setFld Reg.secBootstat 2 0 1).setFld Reg.secBootstat 5 4 slot).setFld Reg.secBootstat 15 12 im.cause.toNat).setFld Reg.secVersions 31 0 im.version.toNat

/-- What a verification of Stage 1 leaves once it is noted. -/
def stage1Measured (slot : Nat) (im : Image) (s : State) : State := measureImage (noteFailure (stage1Noted slot im s) 0 im.cause) 0 1 im

/-- The registers that a verification of an image moves. -/
def verifyRegs (k : Nat) : Prop := k ∈ failureRegs ∨ k = Reg.secVersions ∨ isMeas k

theorem notes_stage1Measured (slot : Nat) (im : Image) (s : State) : Notes verifyRegs s (stage1Measured slot im s) := by
  have hset : ∀ (x : State) hi lo v, lo < 64 → Notes verifyRegs x (x.setFld Reg.secBootstat hi lo v) := fun x hi lo v hlo =>
    notes_setFld (by simp [fieldKey, Nat.div_eq_of_lt hlo, verifyRegs, failureRegs]) x hi v
  have hnoted : Notes verifyRegs s (stage1Noted slot im s) :=
    .trans (.trans (.trans (hset s 2 0 1 (by decide)) (hset _ 5 4 slot (by decide))) (hset _ 15 12 _ (by decide)))
      (notes_setFld (.inr (.inl rfl)) _ 31 _)
  exact .trans (hnoted.trans ((notes_noteFailure (by decide) ..).mono fun k h => .inl h)) ((notes_measureImage ..).mono fun k h => .inr (.inr h))

theorem not_isMeas_bootstat {lo : Nat} (h : lo < 64) : ¬ isMeas (fieldKey Reg.secBootstat lo) := by
  simp only [fieldKey, Nat.div_eq_of_lt h]
  unfold isMeas
  decide

theorem fld_stage1Measured (slot : Nat) (im : Image) (s : State) :
    (stage1Measured slot im s).fld Reg.secBootstat 2 0 = 1 ∧ (stage1Measured slot im s).fld Reg.secBootstat 5 4 = slot % 4 ∧
      (stage1Measured slot im s).fld Reg.secBootstat 15 12 = im.cause.toNat % 16 ∧
      (stage1Measured slot im s).fld Reg.secVersions 31 0 = im.version.toNat := by
  have hboot : ∀ {hi lo : Nat}, lo ≤ hi → hi < 64 → hi < 8 ∨ 12 ≤ lo →
      (stage1Measured slot im s).fld Reg.secBootstat hi lo = (stage1Noted slot im s).fld Reg.secBootstat hi lo := fun hl hh h => by
    rw [stage1Measured, (notes_measureImage ..).fld_eq (not_isMeas_bootstat (by omega)), fld_noteFailure (by decide) _ _ hl hh h]
  have hver : (stage1Measured slot im s).fld Reg.secVersions 31 0 = (stage1Noted slot im s).fld Reg.secVersions 31 0 := by
    rw [stage1Measured, (notes_measureImage ..).fld_eq (by unfold isMeas; decide), (notes_noteFailure (by decide) ..).fld_eq (by decide)]
  have hlt := im.version.isLt
  rw [hboot (by decide) (by decide) (by decide), hboot (by decide) (by decide) (by decide), hboot (by decide) (by decide) (by decide), hver]
  unfold stage1Noted
  refine ⟨?_, ?_, ?_, ?_⟩
  · rw [fld_setFld_ne _ (by decide) (by decide) (by decide) (by decide) (by decide), fld_setFld_ne _ (by decide) (by decide) (by decide) (by decide) (by decide),
      fld_setFld_ne _ (by decide) (by decide) (by decide) (by decide) (by decide), fld_setFld_self _ (by decide) (by decide)]
    rfl
  · rw [fld_setFld_ne _ (by decide) (by decide) (by decide) (by decide) (by decide), fld_setFld_ne _ (by decide) (by decide) (by decide) (by decide) (by decide),
      fld_setFld_self _ (by decide) (by decide)]
    rfl
  · rw [fld_setFld_ne _ (by decide) (by decide) (by decide) (by decide) (by decide), fld_setFld_self _ (by decide) (by decide)]
    rfl
  · rw [fld_setFld_self _ (by decide) (by decide)]
    exact Nat.mod_eq_of_lt hlt

/-- The image of a slot, as Stage 0 verifies it. -/
def slotImage (s : State) (b : Bool) (found : EccFound) : Image :=
  let c := if b then s.boot.flashB else s.boot.flashA
  let v := verifyWhole (s.arb 1) (found == .uncorrectable) c
  imageOf (padTo 4096 c) 1 (if b then 1 else 0) v.2 v.1

/-- Stage 0 starts the image of a chosen slot. -/
theorem stage0_some {s : State} (h1 : s.boot.step = 2) (h2 : s.fld Reg.secBootstat 2 0 = 0) (h3 : s.boot.loader = none) (off : Nat) (found : EccFound)
    {b : Bool} (hb : s.pins.bootSrc ≠ 3) (h : chooseSlot 1 0x80000 0x80000 s.boot.flashA s.boot.flashB = some b) :
    ∃ u, stage0 off found s = stage1Measured b.toNat (slotImage s b found) u ∧ u.pending = s.pending ∧ u.mem = s.mem ∧ u.boot.step = 3 ∧
      u.boot.s1 = some (slotImage s b found) := by
  have hslot : (if s.pins.bootSrc = 3 then none else chooseSlot 1 slotSize slotSize s.boot.flashA s.boot.flashB) = some b := by rw [if_neg hb]; exact h
  have hflash := (starts_flashFinds off found s).2
  have hpend : (flashFinds off found s).pending = s.pending := (congrArg State.pending hflash :)
  have hmem : (flashFinds off found s).mem = s.mem := (congrArg State.mem hflash :)
  unfold stage0
  rw [if_neg (by simp [h1, h2, h3])]
  dsimp only
  rw [hslot]
  generalize flashFinds off found s = v at hpend hmem
  cases b <;>
    exact ⟨{ v with boot := { v.boot with s1 := some (slotImage s _ found), step := 3, bank1 := _ } }, rfl, hpend, hmem, rfl, rfl⟩

theorem exec_stage0Start_some {s : State} (hup : s.up = true) (h1 : s.boot.step = 2) (h2 : s.fld Reg.secBootstat 2 0 = 0) (h3 : s.boot.loader = none)
    (off : Nat) (found : EccFound) {b : Bool} (hb : s.pins.bootSrc ≠ 3) (h : chooseSlot 1 0x80000 0x80000 s.boot.flashA s.boot.flashB = some b) :
    ∃ t, exec (.stage0Start off found) s = .next t ∧ t.boot.step = 3 ∧ t.mem = s.mem ∧
      t.fld Reg.secBootstat 2 0 = 1 ∧ t.fld Reg.secBootstat 5 4 = b.toNat ∧
      t.boot.s1.map (·.version) = some (BitVec.ofNat 32 (hdrVersion (padTo 4096 (if b then s.boot.flashB else s.boot.flashA)))) := by
  obtain ⟨u, heq, hpend, hmem, hstep, hs1⟩ := stage0_some h1 h2 h3 off found hb h
  have hn := (notes_stage1Measured b.toNat (slotImage s b found) u).2
  obtain ⟨hstage, hslot, -, -⟩ := fld_stage1Measured b.toNat (slotImage s b found) u
  generalize stage1Measured b.toNat (slotImage s b found) u = t at heq hn hstage hslot
  have hs1' : t.boot.s1 = u.boot.s1 := (congrArg (fun x : State => x.boot.s1) hn :)
  have hstep' : t.boot.step = u.boot.step := (congrArg (fun x : State => x.boot.step) hn :)
  have hmem' : t.mem = u.mem := (congrArg State.mem hn :)
  have hpend' : t.pending = u.pending := (congrArg State.pending hn :)
  refine ⟨t, live_next hup heq (hpend'.trans hpend), hstep'.trans hstep, hmem'.trans hmem, hstage,
    hslot.trans (Nat.mod_eq_of_lt (b.toNat_lt.trans (by decide))), ?_⟩
  rw [hs1', hs1]
  rfl

theorem exec_stage0Start_none {s : State} (hup : s.up = true) (h1 : s.boot.step = 2) (h2 : s.fld Reg.secBootstat 2 0 = 0) (h3 : s.boot.loader = none)
    (off : Nat) (found : EccFound) (h : s.pins.bootSrc = 3 ∨ chooseSlot 1 0x80000 0x80000 s.boot.flashA s.boot.flashB = none) :
    exec (.stage0Start off found) s = .next (s.setFld Reg.secBootstat 2 0 3) :=
  live_next hup (stage0_none h1 h2 h3 off found h) (setFld_pending ..)

end Sys2Proof.Machine
end

section
/-!
SUPPORT. Stage 1: the A-clocks and the rails, the loading of the main firmware, and the parts in service (R24, R31, R399, R400, R429).
-/
namespace Sys2Proof.Machine

/-! ### F_SUS and the rails -/

theorem fieldKey_of_lt {lo : Nat} (h : lo < 64) (k : Nat) : fieldKey k lo = k := by rw [fieldKey, Nat.div_eq_of_lt h, Nat.zero_mul, Nat.add_zero]

theorem marginMv_of_reg {s t : State} (h : t.reg Reg.pwrMargin = s.reg Reg.pwrMargin) {n : Nat} (hn : n < 4) : t.marginMv n = s.marginMv n := by
  unfold State.marginMv
  rw [fld_of_reg (s := s) (t := t) Reg.pwrMargin (8 * n + 7) (8 * n) (by rwa [fieldKey_of_lt (by omega)])]

theorem vOf_of_reg {s t : State} (h : t.reg Reg.pwrMargin = s.reg Reg.pwrMargin) {n : Nat} (hn : n < 4) (f : Nat) : t.vOf n f = s.vOf n f := by
  unfold State.vOf
  rw [marginMv_of_reg h hn]

theorem hearthsIn_of_reg {s t : State} (h : t.reg Reg.glbCaps2 = s.reg Reg.glbCaps2) : t.hearthsIn = s.hearthsIn := by
  refine List.filter_congr fun n hn => ?_
  rw [List.mem_range] at hn
  rw [fld_of_reg (s := s) (t := t) Reg.glbCaps2 (31 - 4 * (3 - n)) (16 + 4 * n) (by rwa [fieldKey_of_lt (by omega)])]

theorem fSus_of_reg {s t : State} (h1 : t.reg Reg.glbCaps2 = s.reg Reg.glbCaps2) (h2 : t.reg Reg.pwrMargin = s.reg Reg.pwrMargin) : t.fSus = s.fSus := by
  have hmargin : ∀ n ∈ s.hearthsIn, t.marginMv n = s.marginMv n := fun n hn => marginMv_of_reg h2 (List.mem_range.1 (List.mem_of_mem_filter hn))
  unfold State.fSus
  rw [hearthsIn_of_reg h1]
  refine congrArg (List.find? · aclkMenu) (funext fun f => ?_)
  rw [Bool.eq_iff_iff, List.all_eq_true, List.all_eq_true]
  exact forall₂_congr fun n hn => by rw [hmargin n hn]

theorem fSus_lt (s : State) : s.fSus.getD 300 < 1024 := by
  cases h : s.fSus with
  | none => decide
  | some f =>
    have hmem := List.mem_of_find?_eq_some h
    obtain ⟨i, -, rfl⟩ := List.mem_map.1 hmem
    rw [Option.getD_some]
    omega

/-- The registers that a new F_SUS moves. -/
def susRegs : List Nat := Reg.pwrStatus :: statusRegs

theorem starts_degrade {P : Nat → Prop} (hP : HasStatus P) (s : State) : Starts P s (degrade s) := (notes_degrade hP s).starts

theorem hasStatus_susRegs : HasStatus (· ∈ susRegs) := fun _ h => List.mem_cons_of_mem _ h

theorem starts_recomputeSus (s : State) : Starts (· ∈ susRegs) s (recomputeSus s) := by
  have hset : ∀ x : State, ∀ hi v, Starts (· ∈ susRegs) x (x.setFld Reg.pwrStatus hi 30 v) := fun x hi v => (notes_setFld (by decide) x hi v).starts
  have hbit : ∀ x : State, Starts (· ∈ susRegs) x (degrade (x.setBit Reg.pwrStatus 45 true)) := fun x =>
    .trans (notes_setBit (by decide) x true).starts (starts_degrade hasStatus_susRegs _)
  have hnext : ∀ (x : State) m, Starts (· ∈ susRegs) x { x with boot := { x.boot with nextHearths := m } } := fun x m => ⟨fun _ _ => rfl, rfl⟩
  unfold recomputeSus
  dsimp only
  exact .ite (.refl s) (.trans (hset s 39 _) (.ite (.refl _) (.trans (notes_report ..).starts (.ite (.refl _) (.trans (hbit _) (hnext _ _))))))

theorem fld_recomputeSus (s : State) : (recomputeSus s).fld Reg.pwrStatus 39 30 = s.fSus.getD 300 := by
  have hset : (s.setFld Reg.pwrStatus 39 30 (s.fSus.getD 300)).fld Reg.pwrStatus 39 30 = s.fSus.getD 300 := by
    rw [fld_setFld_self _ (by decide) (by decide)]
    exact Nat.mod_eq_of_lt (fSus_lt s)
  have hbit : ∀ x : State, (degrade (x.setBit Reg.pwrStatus 45 true)).fld Reg.pwrStatus 39 30 = x.fld Reg.pwrStatus 39 30 := fun x => by
    rw [(notes_degrade (P := (· ∈ statusRegs)) (fun _ h => h) _).fld_eq (by decide), State.setBit,
      fld_setFld_ne _ (by decide) (by decide) (by decide) (by decide) (by decide)]
  unfold recomputeSus
  dsimp only
  split
  next h => exact h.1
  split
  · exact hset
  split
  · rw [fld_report, hset]
  · rw [fld_congr (with_boot_regs ..), hbit, fld_report, hset]

/-- The setpoints of the first `m` rails. -/
theorem fld_setRails_upto (s : State) (f : Nat) {m : Nat} (hm : m ≤ 4) :
    (∀ k, k ≠ Reg.pwrVolt → ((List.range m).foldl (fun s n => s.setFld Reg.pwrVolt (10 * n + 9) (10 * n) (s.vOf n f)) s).reg k = s.reg k) ∧
    ∀ n, n < m → ((List.range m).foldl (fun s n => s.setFld Reg.pwrVolt (10 * n + 9) (10 * n) (s.vOf n f)) s).fld Reg.pwrVolt (10 * n + 9) (10 * n) = s.vOf n f := by
  induction m with
  | zero => exact ⟨fun _ _ => rfl, fun n hn => absurd hn (by omega)⟩
  | succ m ih =>
    obtain ⟨hreg, hfld⟩ := ih (by omega)
    rw [List.range_succ, List.foldl_append]
    generalize (List.range m).foldl _ s = u at hreg hfld
    simp only [List.foldl_cons, List.foldl_nil]
    have hv : u.vOf m f = s.vOf m f := vOf_of_reg (hreg _ (by decide)) (by omega) f
    have hlt : s.vOf m f < 1024 := lt_of_le_of_lt (Nat.min_le_left ..) (by decide)
    have hword : ∀ i, i < 40 → i / 64 = 0 ∧ i % 64 = i := fun i hi => ⟨Nat.div_eq_of_lt (by omega), Nat.mod_eq_of_lt (by omega)⟩
    obtain ⟨hm0, hmm⟩ := hword (10 * m) (by omega)
    obtain ⟨hm9, -⟩ := hword (10 * m + 9) (by omega)
    refine ⟨fun k hk => ?_, fun n hn => ?_⟩
    · rw [reg_setFld_ne _ (by rwa [fieldKey_of_lt (by omega)]), hreg k hk]
    · rcases Nat.lt_succ_iff_lt_or_eq.1 hn with hlt' | rfl
      · obtain ⟨hn0, -⟩ := hword (10 * n) (by omega)
        obtain ⟨hn9, hnm⟩ := hword (10 * n + 9) (by omega)
        rw [fld_setFld_ne _ (by omega) (hm9.trans hm0.symm) (by omega) (hn9.trans hn0.symm) (.inr (.inr (by omega))), hfld n hlt']
      · rw [fld_setFld_self _ (by omega) (hm9.trans hm0.symm), hv, show 10 * n + 9 + 1 - 10 * n = 10 by omega]
        exact Nat.mod_eq_of_lt hlt

theorem fld_setRails (s : State) (f : Nat) {n : Nat} (hn : n < 4) : (setRails f s).fld Reg.pwrVolt (10 * n + 9) (10 * n) = s.vOf n f :=
  (fld_setRails_upto s f le_rfl).2 n hn

theorem starts_setRails {P : Nat → Prop} (h : P Reg.pwrVolt) (f : Nat) (s : State) : Starts P s (setRails f s) :=
  .foldl _ (fun s n hn => .setFld (fun _ _ => rfl) (by rwa [fieldKey_of_lt (by rw [List.mem_range] at hn; omega)]) s _ _) s

/-! ### The start of the A-clocks -/

/-- The registers that the start of the A-clocks moves. -/
def clockRegs : List Nat := Reg.pwrVolt :: susRegs

/-- The A-clocks of a state run at a frequency, at an F_SUS, with the rails at their setpoints. -/
structure ClocksAt (f : Nat) (s : State) : Prop where
  sus : s.fld Reg.pwrStatus 39 30 = f
  freq : s.fld Reg.pwrStatus 9 0 = min 750 f
  volts : ∀ n, n < 4 → s.fld Reg.pwrVolt (10 * n + 9) (10 * n) = s.vOf n (min 750 f)

theorem ClocksAt.of_regs {sus : Nat} {s t : State} (h : ClocksAt sus s)
    (hr : ∀ k, k = Reg.pwrStatus ∨ k = Reg.pwrVolt ∨ k = Reg.pwrMargin → t.reg k = s.reg k) : ClocksAt sus t := by
  refine ⟨(fld_of_reg _ _ _ (hr _ (.inl rfl))).trans h.sus, (fld_of_reg _ _ _ (hr _ (.inl rfl))).trans h.freq, fun n hn => ?_⟩
  rw [vOf_of_reg (hr _ (.inr (.inr rfl))) hn, ← h.volts n hn]
  exact fld_of_reg _ _ _ (hr _ (.inr (.inl (fieldKey_of_lt (by omega) _))))

/-- The sequencer rests at a frequency. -/
def restAt (f : Nat) (s : State) : State := { s with pwr := { s.pwr with target := f, stepTo := f, railsFor := f, seq := .idle } }

theorem startClock_eq (s : State) : ∃ u, startClock s = restAt (min 750 (s.fSus.getD 300)) u ∧ Starts (· ∈ clockRegs) s u ∧ ClocksAt (s.fSus.getD 300) u := by
  have hsus := starts_recomputeSus s
  have hfld := fld_recomputeSus s
  have hlt := fSus_lt s
  unfold startClock
  dsimp only
  rw [hfld]
  generalize recomputeSus s = r at hsus hfld
  generalize s.fSus.getD 300 = sus at hfld hlt
  have hfreq : Starts (· ∈ clockRegs) r (r.setFld Reg.pwrStatus 9 0 (min 750 sus)) := .setFld (fun _ _ => rfl) (by decide) r 9 _
  have hpw : ∀ hi lo, lo ≤ hi → hi < 64 → (setRails (min 750 sus) (r.setFld Reg.pwrStatus 9 0 (min 750 sus))).fld Reg.pwrStatus hi lo =
      (r.setFld Reg.pwrStatus 9 0 (min 750 sus)).fld Reg.pwrStatus hi lo := fun hi lo hl hh =>
    (starts_setRails (P := (· = Reg.pwrVolt)) rfl ..).fld_eq (by rw [fieldKey_of_lt (by omega)]; decide) hi
  have hmargin : (setRails (min 750 sus) (r.setFld Reg.pwrStatus 9 0 (min 750 sus))).reg Reg.pwrMargin = (r.setFld Reg.pwrStatus 9 0 (min 750 sus)).reg Reg.pwrMargin :=
    (starts_setRails (P := (· = Reg.pwrVolt)) rfl ..).1 _ (by decide)
  refine ⟨_, rfl, .trans (hsus.mono fun k h => List.mem_cons_of_mem _ h) (hfreq.trans (starts_setRails (by decide) ..)), ?_, ?_, fun n hn => ?_⟩
  · rw [hpw 39 30 (by decide) (by decide), fld_setFld_ne _ (by decide) (by decide) (by decide) (by decide) (by decide), hfld]
  · rw [hpw 9 0 (by decide) (by decide), fld_setFld_self _ (by decide) (by decide)]
    exact Nat.mod_eq_of_lt (lt_of_le_of_lt (Nat.min_le_left ..) (by decide))
  · rw [fld_setRails _ _ hn, vOf_of_reg hmargin hn]

/-! ### The loading of the main firmware begins -/

theorem starts_lostTaken {P : Nat → Prop} (s : State) (w : Bool) (a n : Nat) : Starts P s (s.lostTaken w a n) := ⟨fun _ _ => rfl, rfl⟩

theorem starts_startLoader {P : Nat → Prop} (s : State) (kind : Nat) (source : Byte) (fromNvm : Bool) (base : Nat) :
    Starts P s (startLoader s kind source fromNvm base) := by
  unfold startLoader
  dsimp only
  exact .trans (.ite (.refl s) (starts_lostTaken s false base 4096)) ⟨fun _ _ => rfl, rfl⟩

theorem starts_nvmReports {P : Nat → Prop} (s : State) : Starts P s (nvmReports s) := by
  unfold nvmReports
  exact .ite (.foldl _ (fun s e _ => (notes_reportUnnamed ..).starts) s) (.refl s)

/-- The loading begins: with the registers as they are, but STAGE and the source of the firmware in SEC_BOOTSTAT. -/
theorem startFirmware_eq (s : State) : ∃ u, Starts (fun _ => False) s u ∧ (startFirmware s = u.setFld Reg.secBootstat 2 0 4 ∨
    ∃ v, startFirmware s = u.setFld Reg.secBootstat 7 6 v) := by
  have hnvm := starts_nvmReports (P := fun _ => False) s
  unfold startFirmware
  dsimp only
  split
  · exact ⟨_, hnvm, .inl rfl⟩
  split
  · exact ⟨_, hnvm.trans (notes_reportUnnamed ..).starts, .inl rfl⟩
  · exact ⟨_, hnvm.trans (starts_startLoader ..), .inr ⟨_, rfl⟩⟩

theorem starts_startFirmware (s : State) : Starts (· = Reg.secBootstat) s (startFirmware s) := by
  have hset : ∀ (u : State) hi lo v, lo < 64 → Starts (· = Reg.secBootstat) u (u.setFld Reg.secBootstat hi lo v) := fun u hi lo v hlo =>
    .setFld (fun _ _ => rfl) (fieldKey_of_lt hlo Reg.secBootstat) u hi v
  obtain ⟨u, hu, h | ⟨v, h⟩⟩ := startFirmware_eq s
  · exact h ▸ .trans (hu.mono fun _ h => h.elim) (hset u 2 0 4 (by decide))
  · exact h ▸ .trans (hu.mono fun _ h => h.elim) (hset u 7 6 v (by decide))

theorem bit3_startFirmware (s : State) : (startFirmware s).bit Reg.secBootstat 3 = s.bit Reg.secBootstat 3 := by
  unfold State.bit
  obtain ⟨u, hu, h | ⟨v, h⟩⟩ := startFirmware_eq s <;>
    rw [h, fld_setFld_ne _ (by decide) (by decide) (by decide) (by decide) (by decide), hu.fld_eq (fun h => h)]

end Sys2Proof.Machine
end

section
/-!
SUPPORT. What Stage 1 finds in service, and the state in which it leaves the device (R15, R24, R31, R399).
-/
namespace Sys2Proof.Machine

/-! ### The parts in service -/

/-- The channels that a start leaves out. -/
def outChannels (s : State) (p : StartResult) : BitVec 16 := p.untrained ||| p.unrepairable ||| s.boot.nextChannels

/-- The mask and the number of the channels that are left. -/
def partChans (s : State) (p : StartResult) : Nat := (~~~outChannels s p).toNat
def partCount (s : State) (p : StartResult) : Nat := ((List.range 16).filter (nbit (partChans s p))).length

/-- The Hearths that a start leaves out. -/
def partCut (s : State) (p : StartResult) : List Nat :=
  (List.range 4).filter fun h => (cutHearths p.failedModules).contains h || s.boot.nextHearths.toNat.testBit h

/-- The cores that are left, and their mask. -/
def partCores (s : State) (p : StartResult) : List Nat := (List.range 16).filter fun c => !p.failedCores.toNat.testBit c && !(partCut s p).contains (c / 4)
def foldMask (l : List Nat) : Nat := l.foldl (fun m c => m + 2 ^ c) 0

/-- A core is in service unless it or its Hearth is left out. -/
def coreServes (s : State) (p : StartResult) (c : Nat) : Bool :=
  !p.failedCores.toNat.testBit c &&
    !((p.failedModules.toNat.testBit (2 * (c / 4)) && p.failedModules.toNat.testBit (2 * (c / 4) + 1)) || s.boot.nextHearths.toNat.testBit (c / 4))

theorem nbits_two_eq_three (m h : Nat) : (nbits m (2 * h + 1) (2 * h) == 3) = (m.testBit (2 * h) && m.testBit (2 * h + 1)) := by
  have hm : nbits m (2 * h + 1) (2 * h) = (m >>> (2 * h)) % 4 := by rw [nbits, show 2 * h + 1 + 1 - 2 * h = 2 by omega]; rfl
  have h0 : m.testBit (2 * h) = (m >>> (2 * h)).testBit 0 := by rw [Nat.testBit_shiftRight, Nat.add_zero]
  have h1 : m.testBit (2 * h + 1) = (m >>> (2 * h)).testBit 1 := by rw [Nat.testBit_shiftRight]
  rw [hm, h0, h1, Nat.testBit_eq_decide_div_mod_eq, Nat.testBit_eq_decide_div_mod_eq, Bool.eq_iff_iff]
  simp only [beq_iff_eq, Bool.and_eq_true, decide_eq_true_eq]
  omega

theorem contains_partCut (s : State) (p : StartResult) {h : Nat} (hh : h < 4) : (partCut s p).contains h =
    ((p.failedModules.toNat.testBit (2 * h) && p.failedModules.toNat.testBit (2 * h + 1)) || s.boot.nextHearths.toNat.testBit h) := by
  have hcut : (cutHearths p.failedModules).contains h = (p.failedModules.toNat.testBit (2 * h) && p.failedModules.toNat.testBit (2 * h + 1)) := by
    rw [← nbits_two_eq_three, Bool.eq_iff_iff, List.contains_iff_mem, cutHearths, List.mem_filter, List.mem_range]
    exact and_iff_right hh
  rw [← hcut, Bool.eq_iff_iff, List.contains_iff_mem, partCut, List.mem_filter, List.mem_range]
  exact and_iff_right hh

theorem partCores_eq (s : State) (p : StartResult) : partCores s p = (List.range 16).filter (coreServes s p) :=
  List.filter_congr fun c hc => by
    rw [List.mem_range] at hc
    rw [contains_partCut s p (by omega), coreServes]

/-- The mask of the numbers below `n` that meet a condition. -/
theorem foldMask_filter (q : Nat → Bool) (n : Nat) : foldMask ((List.range n).filter q) < 2 ^ n ∧
    ∀ c, (foldMask ((List.range n).filter q)).testBit c = (decide (c < n) && q c) := by
  induction n with
  | zero => exact ⟨by simp [foldMask], fun c => by simp [foldMask]⟩
  | succ n ih =>
    obtain ⟨hlt, hbit⟩ := ih
    have hstep : foldMask ((List.range (n + 1)).filter q) = foldMask ((List.range n).filter q) + if q n then 2 ^ n else 0 := by
      rw [List.range_succ, List.filter_append, foldMask, List.foldl_append, ← foldMask]
      cases hq : q n <;> simp [hq]
    rw [hstep]
    generalize foldMask ((List.range n).filter q) = m at hlt hbit
    have hpow : 2 ^ (n + 1) = 2 ^ n + 2 ^ n := by omega
    refine ⟨by split <;> omega, fun c => ?_⟩
    have hbelow : ∀ c, n ≤ c → m.testBit c = false := fun c hc => Nat.testBit_lt_two_pow (lt_of_lt_of_le hlt (Nat.pow_le_pow_right (by decide) hc))
    rcases Nat.lt_trichotomy c n with hc | rfl | hc
    · have hadd : (m + if q n then 2 ^ n else 0).testBit c = m.testBit c := by
        split
        · rw [Nat.add_comm, Nat.testBit_two_pow_add_gt hc]
        · rfl
      rw [hadd, hbit, decide_eq_true hc, decide_eq_true (by omega)]
    · cases hq : q c
      · simp [hbelow c le_rfl]
      · simp [Nat.add_comm m, Nat.testBit_two_pow_add_eq, hbelow c le_rfl]
    · have hlt' : (m + if q n then 2 ^ n else 0) < 2 ^ c := by
        have := Nat.pow_le_pow_right (n := 2) (by decide) (show n + 1 ≤ c from hc)
        split <;> omega
      rw [Nat.testBit_lt_two_pow hlt', decide_eq_false (by omega), Bool.false_and]

theorem testBit_foldMask_partCores (s : State) (p : StartResult) {c : Nat} (hc : c < 16) : (foldMask (partCores s p)).testBit c = coreServes s p c := by
  rw [partCores_eq, (foldMask_filter _ 16).2, decide_eq_true hc, Bool.true_and]

theorem foldMask_partCores_lt (s : State) (p : StartResult) : foldMask (partCores s p) < 2 ^ 16 := by
  rw [partCores_eq]
  exact (foldMask_filter _ 16).1

theorem length_filter_range_le (q : Nat → Bool) (n : Nat) : ((List.range n).filter q).length ≤ n := by
  simpa using List.length_filter_le q (List.range n)

theorem usableBytes_lt (b : Bool) {n : Nat} (hn : n ≤ 16) : usableBytes b n < 2 ^ 40 := by
  unfold usableBytes
  cases b <;> simp only [if_true, Bool.false_eq_true, if_false] <;> omega

/-! ### Stage 1 -/

/-- Repairs that this start finds. -/
def partRepairs (s : State) (p : StartResult) : List Nat :=
  (p.repairs.filter (marchFinds (startReports s p) (usableBytes p.build32 (partCount s p)))).dedup

/-- Step 7, with the results of the start noted. -/
def stage1Parts (s : State) (p : StartResult) : State :=
  let r := startReports s p
  { r with pins := { r.pins with hpwrEn := !r.dbg.tripped }
           fabric := { r.fabric with modFailed := p.failedModules, flueFailed := p.failedFlue, gddrTrained := true, chFailed := 0, gddr135 := near135 p.vddqMv }
           boot := { r.boot with step := 7, nextChannels := 0, nextHearths := 0, repairMap := r.boot.repairMap ++ partRepairs s p
                                 march := (r.boot.march + 1) % 16, xspi := some p.xspi } }

/-- New repairs go into the journal and are counted. -/
def stage1Repairs (new : List Nat) (s : State) : State :=
  (if new.isEmpty then s else journalWrite .repairMap s.boot.repairMap s).addSat (Reg.relCnt 9) 31 0 new.length

/-- The capabilities of what is left. -/
def stage1Caps (cores : List Nat) (chans nch usable : Nat) (s : State) : State :=
  ((((s.setFld Reg.glbCaps2 8 4 cores.length).setFld Reg.glbCaps2 31 16 (foldMask cores)).setFld Reg.glbCaps4 44 40 nch).setFld Reg.memCapacity 39 0 usable).setFld
    Reg.memCapacity 55 40 chans

/-- Something is left out of service. -/
def stage1Bad (s : State) (p : StartResult) : Bool :=
  decide (p.failedCores ≠ 0 ∨ outChannels s p ≠ 0 ∨ p.failedModules ≠ 0 ∨ p.failedFlue ≠ 0 ∨ s.boot.nextHearths ≠ 0)

/-- The end of Stage 1: the window opens, a device with less in service degrades, and the loading of the main firmware begins. -/
def stage1End (bad : Bool) (s : State) : State :=
  startFirmware (if bad then degrade (s.setBit Reg.secBootstat 3 true) else s.setBit Reg.secBootstat 3 true)

theorem stage1_eq {s : State} (h : s.boot.step = 3) (p : StartResult) :
    stage1 s p = stage1End (stage1Bad s p) (startClock (stage1Caps (partCores s p) (partChans s p) (partCount s p)
      (usableBytes p.build32 (partCount s p)) (stage1Repairs (partRepairs s p) (stage1Parts s p)))) := by
  unfold stage1
  rw [if_neg (by simp [h])]
  unfold stage1End stage1Caps stage1Repairs stage1Parts stage1Bad
  rfl

/-- The capability registers report what is left. -/
structure CapsAt (cores : List Nat) (chans nch usable : Nat) (s : State) : Prop where
  count : s.fld Reg.glbCaps2 8 4 = cores.length
  mask : s.fld Reg.glbCaps2 31 16 = foldMask cores
  channels : s.fld Reg.glbCaps4 44 40 = nch
  bytes : s.fld Reg.memCapacity 39 0 = usable
  chans : s.fld Reg.memCapacity 55 40 = chans

/-- The registers of the capabilities. -/
def capsRegs : List Nat := [Reg.glbCaps2, Reg.glbCaps4, Reg.memCapacity]

section
variable {cores : List Nat} {chans nch usable : Nat}

theorem CapsAt.of_regs {s t : State} (h : CapsAt cores chans nch usable s) (hr : ∀ k ∈ capsRegs, t.reg k = s.reg k) : CapsAt cores chans nch usable t := by
  have h2 : t.reg Reg.glbCaps2 = s.reg Reg.glbCaps2 := hr _ (by decide)
  have h4 : t.reg Reg.glbCaps4 = s.reg Reg.glbCaps4 := hr _ (by decide)
  have hm : t.reg Reg.memCapacity = s.reg Reg.memCapacity := hr _ (by decide)
  exact ⟨(fld_of_reg _ 8 4 h2).trans h.count, (fld_of_reg _ 31 16 h2).trans h.mask, (fld_of_reg _ 44 40 h4).trans h.channels,
    (fld_of_reg _ 39 0 hm).trans h.bytes, (fld_of_reg _ 55 40 hm).trans h.chans⟩

theorem capsAt_stage1Caps (s : State) (h1 : cores.length < 32) (h2 : foldMask cores < 2 ^ 16) (h3 : chans < 2 ^ 16) (h4 : nch < 32) (h5 : usable < 2 ^ 40) :
    CapsAt cores chans nch usable (stage1Caps cores chans nch usable s) := by
  have hne : ∀ {u : State} {k hi lo v k' hi' lo' : Nat}, lo ≤ hi → hi < 64 → lo' ≤ hi' → hi' < 64 → (k' ≠ k ∨ hi < lo' ∨ hi' < lo) →
      (u.setFld k hi lo v).fld k' hi' lo' = u.fld k' hi' lo' := fun hl hh hl' hh' hd => by
    refine fld_setFld_ne _ hl (by omega) hl' (by omega) ?_
    rw [fieldKey_of_lt (by omega), fieldKey_of_lt (by omega)]
    omega
  unfold stage1Caps
  refine ⟨?_, ?_, ?_, ?_, ?_⟩
  · rw [hne (by decide) (by decide) (by decide) (by decide) (by decide), hne (by decide) (by decide) (by decide) (by decide) (by decide),
      hne (by decide) (by decide) (by decide) (by decide) (by decide), hne (by decide) (by decide) (by decide) (by decide) (by decide),
      fld_setFld_self _ (by decide) (by decide)]
    exact Nat.mod_eq_of_lt h1
  · rw [hne (by decide) (by decide) (by decide) (by decide) (by decide), hne (by decide) (by decide) (by decide) (by decide) (by decide),
      hne (by decide) (by decide) (by decide) (by decide) (by decide), fld_setFld_self _ (by decide) (by decide)]
    exact Nat.mod_eq_of_lt h2
  · rw [hne (by decide) (by decide) (by decide) (by decide) (by decide), hne (by decide) (by decide) (by decide) (by decide) (by decide),
      fld_setFld_self _ (by decide) (by decide)]
    exact Nat.mod_eq_of_lt h4
  · rw [hne (by decide) (by decide) (by decide) (by decide) (by decide), fld_setFld_self _ (by decide) (by decide)]
    exact Nat.mod_eq_of_lt h5
  · rw [fld_setFld_self _ (by decide) (by decide)]
    exact Nat.mod_eq_of_lt h3

theorem starts_stage1Caps (s : State) : Starts (· ∈ capsRegs) s (stage1Caps cores chans nch usable s) := by
  have hset : ∀ (u : State) k hi lo v, fieldKey k lo ∈ capsRegs → Starts (· ∈ capsRegs) u (u.setFld k hi lo v) := fun u k hi lo v hk =>
    .setFld (fun _ _ => rfl) hk u hi v
  exact .trans (.trans (.trans (.trans (hset s _ 8 4 _ (by decide)) (hset _ _ 31 16 _ (by decide))) (hset _ _ 44 40 _ (by decide))) (hset _ _ 39 0 _ (by decide)))
    (hset _ _ 55 40 _ (by decide))

end

theorem starts_stage1Repairs (new : List Nat) (s : State) : Starts (· = Reg.relCnt 9) s (stage1Repairs new s) := by
  have hj : ∀ ws, Starts (· = Reg.relCnt 9) s (journalWrite .repairMap ws s) := fun ws => ⟨fun _ _ => rfl, rfl⟩
  have hcount : ∀ u : State, Starts (· = Reg.relCnt 9) u (u.addSat (Reg.relCnt 9) 31 0 new.length) := fun u =>
    .setFld (fun _ _ => rfl) (fieldKey_of_lt (by decide) (Reg.relCnt 9)) u 31 _
  exact .trans (.ite (.refl s) (hj _)) (hcount _)

/-- The registers of the end of Stage 1. -/
def endRegs : List Nat := Reg.secBootstat :: statusRegs

theorem hasStatus_endRegs : HasStatus (· ∈ endRegs) := fun _ h => List.mem_cons_of_mem _ h

theorem starts_stage1End (bad : Bool) (s : State) : Starts (· ∈ endRegs) s (stage1End bad s) := by
  have hbit : Starts (· ∈ endRegs) s (s.setBit Reg.secBootstat 3 true) := (notes_setBit (by decide) s true).starts
  exact .trans (.ite (hbit.trans (starts_degrade hasStatus_endRegs _)) hbit) ((starts_startFirmware _).mono fun k h => h ▸ List.mem_cons_self)

theorem bit3_stage1End (bad : Bool) (s : State) : (stage1End bad s).bit Reg.secBootstat 3 = true := by
  unfold stage1End
  rw [bit3_startFirmware]
  split
  · rw [(notes_degrade (P := (· ∈ statusRegs)) (fun _ h => h) _).bit_eq (by decide), bit_setBit_self]
  · rw [bit_setBit_self]

theorem starts_restAt {P : Nat → Prop} {s t : State} (h : Starts P s t) (f : Nat) : Starts P (restAt f s) (restAt f t) :=
  ⟨h.1, congrArg (restAt f) h.2⟩

/-- What Stage 1 comes to: the results noted, the clocks at rest, the capabilities, the rails, and the window open. -/
theorem stage1_result {s : State} (h : s.boot.step = 3) (p : StartResult) :
    Starts (fun _ => True) (restAt (min 750 ((stage1 s p).fSus.getD 300)) (stage1Parts s p)) (stage1 s p) ∧
      CapsAt (partCores s p) (partChans s p) (partCount s p) (usableBytes p.build32 (partCount s p)) (stage1 s p) ∧
      ClocksAt ((stage1 s p).fSus.getD 300) (stage1 s p) ∧ (stage1 s p).bit Reg.secBootstat 3 = true := by
  have hcount : partCount s p ≤ 16 := length_filter_range_le _ 16
  have hcores : (partCores s p).length ≤ 16 := length_filter_range_le _ 16
  have hcaps := capsAt_stage1Caps (cores := partCores s p) (chans := partChans s p) (stage1Repairs (partRepairs s p) (stage1Parts s p)) (by omega) (foldMask_partCores_lt s p)
    (~~~outChannels s p).isLt (by omega : partCount s p < 32) (usableBytes_lt p.build32 hcount)
  have hframe := ((starts_stage1Repairs (partRepairs s p) (stage1Parts s p)).mono fun _ _ => trivial).trans
    ((starts_stage1Caps (cores := partCores s p) (chans := partChans s p) (nch := partCount s p) (usable := usableBytes p.build32 (partCount s p)) _).mono
      (Q := fun _ => True) fun _ _ => trivial)
  rw [stage1_eq h]
  generalize stage1Caps (partCores s p) (partChans s p) (partCount s p) (usableBytes p.build32 (partCount s p)) _ = c at hcaps hframe ⊢
  obtain ⟨u, hu, hclock, hat⟩ := startClock_eq c
  have hend := starts_stage1End (stage1Bad s p) (startClock c)
  have hbit := bit3_stage1End (stage1Bad s p) (startClock c)
  rw [hu] at hend hbit ⊢
  generalize stage1End _ _ = t at hend hbit ⊢
  have hreg : ∀ k, k ∉ clockRegs → k ∉ endRegs → t.reg k = c.reg k := fun k h1 h2 => (hend.1 k h2).trans (hclock.1 k h1)
  have hsus : t.fSus = c.fSus := fSus_of_reg (hreg _ (by decide) (by decide)) (hreg _ (by decide) (by decide))
  rw [hsus]
  refine ⟨.trans (starts_restAt (hframe.trans (hclock.mono fun _ _ => trivial)) _) (hend.mono fun _ _ => trivial), hcaps.of_regs fun k hk => ?_, ?_, hbit⟩
  · have : ∀ k ∈ capsRegs, k ∉ clockRegs ∧ k ∉ endRegs := by decide
    exact hreg k (this k hk).1 (this k hk).2
  · refine hat.of_regs fun k hk => hend.1 k ?_
    rcases hk with rfl | rfl | rfl <;> decide

theorem logs_startReports {P : Nat → Prop} (s : State) (p : StartResult) : Logs P s (startReports s p) := by
  have hr : ∀ (u : State) (src code a0 a1 a2 : Nat), Logs P u (report u src code a0 a1 a2) := fun u src code a0 a1 a2 => logs_report u ..
  unfold startReports
  dsimp only
  refine .trans (.trans (.foldl _ (fun u g _ => ?_) s) (.foldl _ (fun u m _ => .ite (hr ..) (.refl u)) _)) (.foldl _ (fun u n _ => .ite (hr ..) (.refl u)) _)
  exact .ite (hr ..) (.ite (hr ..) (.ite (hr ..) (.refl u)))

/-- What Stage 1 leaves beside the registers. -/
theorem stage1_rest {s : State} (h : s.boot.step = 3) (p : StartResult) :
    (stage1 s p).pending = s.pending ∧ (stage1 s p).pins.hpwrEn = (!s.dbg.tripped) ∧
      (stage1 s p).pwr = { s.pwr with target := min 750 ((stage1 s p).fSus.getD 300), stepTo := min 750 ((stage1 s p).fSus.getD 300)
                                      railsFor := min 750 ((stage1 s p).fSus.getD 300), seq := .idle } ∧
      (stage1 s p).fabric.gddrTrained = true ∧ (stage1 s p).fabric.gddr135 = near135 p.vddqMv ∧
      (stage1 s p).boot.step = 7 ∧ (stage1 s p).boot.march = (s.boot.march + 1) % 16 ∧ (stage1 s p).boot.xspi = some p.xspi := by
  have hframe := (stage1_result h p).1.2
  have hlog := (logs_startReports (P := fun _ => False) s p).2
  generalize (stage1 s p).fSus.getD 300 = f at hframe ⊢
  generalize stage1 s p = t at hframe ⊢
  unfold stage1Parts at hframe
  dsimp only at hframe
  generalize startReports s p = r at hframe hlog
  have hpend : r.pending = s.pending := (congrArg State.pending hlog :)
  have hdbg : r.dbg = s.dbg := (congrArg State.dbg hlog :)
  have hpwr : r.pwr = s.pwr := (congrArg State.pwr hlog :)
  have hmarch : r.boot.march = s.boot.march := (congrArg (fun x : State => x.boot.march) hlog :)
  rw [← hpend, ← hdbg, ← hpwr, ← hmarch]
  exact ⟨(congrArg State.pending hframe :), (congrArg (fun x : State => x.pins.hpwrEn) hframe :), (congrArg State.pwr hframe :),
    (congrArg (fun x : State => x.fabric.gddrTrained) hframe :), (congrArg (fun x : State => x.fabric.gddr135) hframe :),
    (congrArg (fun x : State => x.boot.step) hframe :), (congrArg (fun x : State => x.boot.march) hframe :), (congrArg (fun x : State => x.boot.xspi) hframe :)⟩

theorem exec_stage1Start {s : State} (hup : s.up = true) (h : s.boot.step = 3) (p : StartResult) : exec (.stage1Start p) s = .next (stage1 s p) :=
  live_next (k := fun s => stage1 s p) hup rfl (stage1_rest h p).1

end Sys2Proof.Machine
end

section
open Sys2Proof Sys2Proof.Machine

/-- Settles O11: each step of the order is one meaning of the model, and what it leaves follows from its frame. Stage 1 computes F_SUS over registers
that nothing after it moves, so the clocks run at the F_SUS of the state that it reaches. -/
theorem startOrderSteps2To5 : Obligations.StartOrderSteps2To5 := by
  unfold Obligations.StartOrderSteps2To5
  refine fun s => ⟨exec_resetRelease, fun o found hup h1 h2 h3 => ⟨fun hsrc => ?_, fun b hb h => ?_, fun _ h => ?_⟩, fun speed width hup => ?_, fun p hup h => ?_⟩
  · exact exec_stage0Start_none hup h1 h2 h3 o found (.inl hsrc)
  · exact exec_stage0Start_some hup h1 h2 h3 o found hb h
  · exact exec_stage0Start_none hup h1 h2 h3 o found (.inr h)
  · exact exec_linkTrained hup speed width
  · obtain ⟨-, -, hclocks, -⟩ := stage1_result h p
    obtain ⟨-, hen, hpwr, -⟩ := stage1_rest h p
    exact ⟨stage1 s p, exec_stage1Start hup h p, hclocks.sus, hclocks.freq, hclocks.volts, hen, congrArg Pwr.target hpwr, congrArg Pwr.railsFor hpwr,
      congrArg Pwr.seq hpwr⟩

end

section
/-!
SUPPORT. Containers: the blocks that land, the measurements that they extend, and what follows the last block (R390 to R400, R403).
-/
namespace Sys2Proof.Machine

/-! ### Measurements -/

theorem leBytes_append (m n x : Nat) : leBytes (m + n) x = leBytes m x ++ leBytes n (x / 256 ^ m) := by
  induction m generalizing x with
  | zero => simp [leBytes]
  | succ m ih =>
    rw [Nat.succ_add, leBytes, leBytes, ih, List.cons_append, Nat.div_div_eq_div_mul, ← Nat.pow_succ']

theorem leBytes_mod (n x : Nat) : leBytes n (x % 256 ^ n) = leBytes n x := by
  induction n generalizing x with
  | zero => rfl
  | succ n ih =>
    have hhead : BitVec.ofNat 8 (x % 256 ^ (n + 1)) = BitVec.ofNat 8 x := by
      refine BitVec.eq_of_toNat_eq ?_
      rw [BitVec.toNat_ofNat, BitVec.toNat_ofNat]
      exact Nat.mod_mod_of_dvd x ⟨256 ^ n, Nat.pow_succ'⟩
    rw [leBytes, leBytes, hhead, Nat.pow_succ', Nat.mod_mul_right_div_self, ih]

/-- The bytes of a number, eight at a time. -/
theorem flatMap_leBytes (x m : Nat) : ((List.range m).flatMap fun i => leBytes 8 (x / 2 ^ (64 * i) % 2 ^ 64)) = leBytes (8 * m) x := by
  induction m with
  | zero => rfl
  | succ m ih =>
    have hword : leBytes 8 (x / 2 ^ (64 * m) % 2 ^ 64) = leBytes 8 (x / 256 ^ (8 * m)) := by
      rw [show 256 ^ (8 * m) = 2 ^ (64 * m) by rw [show 256 = 2 ^ 8 by rfl, ← Nat.pow_mul, ← Nat.mul_assoc], ← leBytes_mod 8 (x / _)]
      rfl
    rw [List.range_succ, List.flatMap_append, ih, List.flatMap_singleton, hword, Nat.mul_succ, leBytes_append]

/-- The first `m` words of a measurement. -/
theorem reg_setMeas_upto (s : State) (n : Nat) (x : BitVec 512) (m : Nat) :
    (∀ i, i < m → ((List.range m).foldl (fun s i => s.setReg (Reg.secMeas n + 8 * i) (x.extractLsb' (64 * i) 64)) s).reg (Reg.secMeas n + 8 * i) =
      x.extractLsb' (64 * i) 64) ∧
    ∀ k, (∀ i, i < m → k ≠ Reg.secMeas n + 8 * i) →
      ((List.range m).foldl (fun s i => s.setReg (Reg.secMeas n + 8 * i) (x.extractLsb' (64 * i) 64)) s).reg k = s.reg k := by
  induction m with
  | zero => exact ⟨fun i hi => absurd hi (Nat.not_lt_zero i), fun _ _ => rfl⟩
  | succ m ih =>
    obtain ⟨hset, hkeep⟩ := ih
    rw [List.range_succ, List.foldl_append]
    generalize (List.range m).foldl _ s = u at hset hkeep ⊢
    simp only [List.foldl_cons, List.foldl_nil]
    refine ⟨fun i hi => ?_, fun k hk => ?_⟩
    · rcases Nat.lt_succ_iff_lt_or_eq.1 hi with hlt | rfl
      · rw [reg_setReg_ne _ _ (by omega), hset i hlt]
      · rw [reg_setReg_self]
    · rw [reg_setReg_ne _ _ (hk m (by omega)), hkeep k fun i hi => hk i (by omega)]

theorem meas_of_regs {s t : State} {n : Nat} (h : ∀ i, i < 8 → t.reg (Reg.secMeas n + 8 * i) = s.reg (Reg.secMeas n + 8 * i)) : t.meas n = s.meas n := by
  unfold State.meas
  exact List.flatMap_congr fun i hi => by rw [h i (List.mem_range.1 hi)]

theorem meas_setMeas_self (s : State) (n : Nat) (x : BitVec 512) : (setMeas s n x).meas n = ofB512 x := by
  have hword : ∀ i ∈ List.range 8, leBytes 8 ((setMeas s n x).reg (Reg.secMeas n + 8 * i)).toNat = leBytes 8 (x.toNat / 2 ^ (64 * i) % 2 ^ 64) := fun i hi => by
    rw [setMeas, (reg_setMeas_upto s n x 8).1 i (List.mem_range.1 hi), BitVec.extractLsb'_toNat, Nat.shiftRight_eq_div_pow]
  unfold State.meas ofB512
  rw [← flatMap_leBytes x.toNat 8]
  exact List.flatMap_congr hword

theorem meas_setMeas_ne (s : State) {n m : Nat} (x : BitVec 512) (h : m ≠ n) : (setMeas s n x).meas m = s.meas m :=
  meas_of_regs fun i hi => (reg_setMeas_upto s n x 8).2 _ fun j hj => by unfold Reg.secMeas; omega

theorem meas_logEvent (s : State) (e : EvEntry) (n : Nat) : (logEvent s e).meas n = s.meas n :=
  meas_of_regs fun _ _ => (notes_logEvent (P := fun _ => False) s e).1 _ (fun h => h)

theorem meas_extendM_self (s : State) (n : Nat) (x : BitVec 512) (kind source cause : Byte) (version : W32) :
    (extendM s n x kind source cause version).meas n = ofB512 (sha (s.meas n ++ ofB512 x)) := by
  rw [extendM, meas_logEvent, meas_setMeas_self]

theorem meas_extendM_ne (s : State) {n m : Nat} (x : BitVec 512) (kind source cause : Byte) (version : W32) (h : m ≠ n) :
    (extendM s n x kind source cause version).meas m = s.meas m := by
  rw [extendM, meas_logEvent, meas_setMeas_ne _ _ h]

/-- An image extends its own measurement and M4. -/
theorem meas_measureImage (s : State) {n : Nat} (hn : n ≠ 4) (kind : Byte) (im : Image) :
    (measureImage s n kind im).meas n = ofB512 (sha (s.meas n ++ ofB512 im.measure)) ∧
      (measureImage s n kind im).meas 4 = ofB512 (sha (s.meas 4 ++ ofB512 (sha (verRecord kind im.source im.cause im.version)))) := by
  unfold measureImage
  dsimp only
  rw [meas_extendM_ne _ _ _ _ _ _ hn, meas_extendM_self, meas_extendM_self, meas_extendM_ne _ _ _ _ _ _ hn.symm]
  exact ⟨rfl, rfl⟩

theorem Framed.meas_eq {P : Nat → Prop} {f : State → State} {s t : State} (h : Framed P f s t) (hP : ∀ k, P k → k < Reg.secMeas 0) (n : Nat) :
    t.meas n = s.meas n := meas_of_regs fun _ _ => h.1 _ fun hp => by
  have := hP _ hp
  unfold Reg.secMeas at this
  omega

/-! ### Verifications that fail -/

/-- A failure sets its bit of FAIL, locks the vault, and says so in GLB_STATUS. -/
theorem bits_noteFailure {k : Nat} (hk : k < 3) (s : State) {cause : Byte} (h : cause ≠ 0) :
    (noteFailure s k cause).bit Reg.secBootstat (8 + k) = true ∧ (noteFailure s k cause).bit Reg.secBootstat 11 = true ∧
      (noteFailure s k cause).bit Reg.glbStatus 1 = true := by
  have hst : Notes (· ∈ statusRegs) (s.setBit Reg.secBootstat (8 + k) true) (setStatus (s.setBit Reg.secBootstat (8 + k) true) 1 true) :=
    notes_setStatus (fun _ h => h) _ (by decide) true
  have hkey : fieldKey Reg.secBootstat (8 + k) ∉ statusRegs := by
    rw [fieldKey_of_lt (by omega)]
    decide
  have hbits : ∀ r b, (noteFailure s k cause).bit r b = ((setStatus (s.setBit Reg.secBootstat (8 + k) true) 1 true).setBit Reg.secBootstat 11 true).bit r b := fun r b => by
    unfold noteFailure verifyFailed lockVault
    rw [if_neg h, if_neg h, bit_congr (reportUnnamed_regs ..)]
  rw [hbits, hbits, hbits]
  refine ⟨?_, bit_setBit_self .., ?_⟩
  · rw [bit_setBit_ne _ _ (by omega) (by decide) (by omega), hst.bit_eq hkey, bit_setBit_self]
  · rw [bit_of_reg _ _ (reg_setBit_ne _ (by decide)), bit_setStatus _ _ (by decide) (by decide), if_pos rfl]

end Sys2Proof.Machine
end

section
/-!
SUPPORT. The landing of a container's blocks, and the ends of the three kinds of loads (R391, R397, R399, R400).
-/
namespace Sys2Proof.Machine

/-! ### Blocks -/

/-- The bytes of a loader's next block. -/
def nextBlock (s : State) (l : Loader) : List Byte := l.read s (4096 + 65536 * l.landed) (min 65536 (hdrLen l.head - 65536 * l.landed))

/-- The loader once that block has landed. -/
def landedLoader (s : State) (l : Loader) : Loader :=
  { l with landed := l.landed + 1, digests := l.digests ++ [sha (nextBlock s l)]
           poisoned := l.poisoned || l.poison s (4096 + 65536 * l.landed) (min 65536 (hdrLen l.head - 65536 * l.landed))
           cause := if l.cause = 0 ∧ sha (nextBlock s l) ≠ hdrDigest l.head l.landed then 4 else l.cause }

/-- The device once the block has landed. -/
def landBlock (s : State) (l : Loader) : State :=
  let u := loaderTaken s l (4096 + 65536 * l.landed) (min 65536 (hdrLen l.head - 65536 * l.landed))
  { u with boot := { u.boot with loader := some (landedLoader s l)
                                 bank0 := if l.kind = 2 then u.boot.bank0 ++ nextBlock s l else u.boot.bank0
                                 bank1 := if l.kind = 1 then u.boot.bank1 ++ nextBlock s l else u.boot.bank1
                                 cfgCopy := if l.kind = 3 then u.boot.cfgCopy ++ nextBlock s l else u.boot.cfgCopy } }

theorem blockLanded_eq {s : State} {l : Loader} (h : s.boot.loader = some l) :
    blockLanded s = if l.landed + 1 < hdrBlocks l.head then landBlock s l else finishLoad (landBlock s l) (landedLoader s l) := by
  unfold blockLanded
  rw [h]
  rfl

theorem landBlock_rest (s : State) (l : Loader) : landBlock s l = { s with boot := (landBlock s l).boot, fabric := (landBlock s l).fabric } := by
  unfold landBlock loaderTaken State.lostTaken
  cases l.fromNvm <;> rfl

theorem starts_landBlock {P : Nat → Prop} (s : State) (l : Loader) : Starts P s (landBlock s l) := by
  unfold landBlock loaderTaken
  dsimp only
  exact .trans (.ite (.refl s) (starts_lostTaken ..)) ⟨fun _ _ => rfl, rfl⟩

theorem landBlock_pending (s : State) (l : Loader) : (landBlock s l).pending = s.pending := (congrArg State.pending (landBlock_rest s l) :)

theorem meas_landBlock (s : State) (l : Loader) (n : Nat) : (landBlock s l).meas n = s.meas n :=
  (starts_landBlock (P := fun _ => False) s l).meas_eq (fun _ h => h.elim) n

/-- The cause of a load: that of its checks, else poisoned data, else none. -/
def finishCause (l : Loader) : Byte := if l.cause ≠ 0 then l.cause else if l.poisoned then 5 else 0

theorem finishCause_landedLoader (s : State) (l : Loader) : finishCause (landedLoader s l) =
    if l.cause ≠ 0 then l.cause else if sha (nextBlock s l) ≠ hdrDigest l.head l.landed then 4
    else if l.poisoned || l.poison s (4096 + 65536 * l.landed) (min 65536 (hdrLen l.head - 65536 * l.landed)) then 5 else 0 := by
  have h4 : (4 : Byte) ≠ 0 := by decide
  unfold finishCause landedLoader
  dsimp only
  by_cases hc : l.cause = 0
  · rw [if_neg (c := l.cause ≠ 0) (not_not_intro hc)]
    by_cases hd : sha (nextBlock s l) = hdrDigest l.head l.landed
    · rw [if_neg (c := l.cause = 0 ∧ sha (nextBlock s l) ≠ hdrDigest l.head l.landed) (fun h => h.2 hd), if_neg (c := l.cause ≠ 0) (not_not_intro hc), if_neg (not_not_intro hd)]
    · rw [if_pos (c := l.cause = 0 ∧ _) ⟨hc, hd⟩, if_pos h4, if_pos hd]
  · rw [if_neg (c := l.cause = 0 ∧ _) (fun h => hc h.1), if_pos hc, if_pos hc]

/-! ### What a verified image leaves -/

/-- From a state to another, an image has extended its measurement and M4, and a failure has been noted. -/
structure Measured (s t : State) (n : Nat) (kind : Byte) (im : Image) : Prop where
  own : t.meas n = ofB512 (sha (s.meas n ++ ofB512 im.measure))
  all : t.meas 4 = ofB512 (sha (s.meas 4 ++ ofB512 (sha (verRecord kind im.source im.cause im.version))))
  failed : im.cause ≠ 0 → t.bit Reg.secBootstat (7 + kind.toNat) = true ∧ t.bit Reg.secBootstat 11 = true ∧ t.bit Reg.glbStatus 1 = true

theorem measured_measureImage (s : State) {k n : Nat} {kind : Byte} (hk : k < 3) (hkind : 7 + kind.toNat = 8 + k) (hn : n ≠ 4) (im : Image) :
    Measured s (measureImage (noteFailure s k im.cause) n kind im) n kind im := by
  have hlow : ∀ r ∈ failureRegs, r < Reg.secMeas 0 := by decide
  have hmeas : ∀ m, (noteFailure s k im.cause).meas m = s.meas m := (notes_noteFailure hk s im.cause).meas_eq hlow
  obtain ⟨hown, hall⟩ := meas_measureImage (noteFailure s k im.cause) hn kind im
  refine ⟨by rw [hown, hmeas], by rw [hall, hmeas], fun hc => ?_⟩
  obtain ⟨h8, h11, hst⟩ := bits_noteFailure hk s hc
  have hm := notes_measureImage (noteFailure s k im.cause) n kind im
  rw [hkind, hm.bit_eq (not_isMeas_bootstat (by omega)), hm.bit_eq (not_isMeas_bootstat (by decide)), hm.bit_eq (by unfold isMeas; decide)]
  exact ⟨h8, h11, hst⟩

theorem Measured.of_earlier {r s t : State} {n : Nat} {kind : Byte} {im : Image} (h : Measured s t n kind im) (hr : ∀ m, s.meas m = r.meas m) :
    Measured r t n kind im := ⟨by rw [h.own, hr], by rw [h.all, hr], h.failed⟩

theorem Measured.of_later {s t u : State} {n : Nat} {kind : Byte} {im : Image} (h : Measured s t n kind im) (hmeas : ∀ m, u.meas m = t.meas m)
    (hboot : ∀ b, b < 24 → u.bit Reg.secBootstat b = t.bit Reg.secBootstat b) (hst : u.bit Reg.glbStatus 1 = t.bit Reg.glbStatus 1) (hkind : kind.toNat < 16) :
    Measured s u n kind im :=
  ⟨by rw [hmeas, h.own], by rw [hmeas, h.all], fun hc => by rw [hboot _ (by omega), hboot _ (by decide), hst]; exact h.failed hc⟩

/-! ### The end of a load of Stage 1 -/

theorem finishLoad_stage1 (s : State) {l : Loader} (h : l.kind = 1) :
    finishLoad s l = stage1Measured 2 (imageOf l.head 1 l.source (finishCause l) l.digests)
      { s with boot := { s.boot with loader := none, s1 := some (imageOf l.head 1 l.source (finishCause l) l.digests), step := 3 } } := by
  unfold finishLoad
  rw [h]
  rfl

theorem measured_stage1Measured (slot : Nat) (im : Image) (s : State) : Measured s (stage1Measured slot im s) 0 1 im := by
  have hset : ∀ (u : State) hi lo v m, lo < 64 → (u.setFld Reg.secBootstat hi lo v).meas m = u.meas m := fun u hi lo v m hlo =>
    (logs_setFld (P := (· = Reg.secBootstat)) (fieldKey_of_lt hlo Reg.secBootstat) u hi v).meas_eq (fun k hk => hk ▸ by decide) m
  have hver : ∀ (u : State) v m, (u.setFld Reg.secVersions 31 0 v).meas m = u.meas m := fun u v m =>
    (logs_setFld (P := (· = Reg.secVersions)) (fieldKey_of_lt (by decide) Reg.secVersions) u 31 v).meas_eq (fun k hk => hk ▸ by decide) m
  refine (measured_measureImage (stage1Noted slot im s) (k := 0) (by decide) (by decide) (by decide) im).of_earlier fun m => ?_
  unfold stage1Noted
  rw [hver, hset _ _ _ _ _ (by decide), hset _ _ _ _ _ (by decide), hset _ _ _ _ _ (by decide)]

/-! ### The end of a load of the main firmware -/

/-- The state without what the taking of the configuration changes. -/
def State.sansConfig (s : State) : State := { s.sansStart with boot := { s.sansStart.boot with step := 0, cfgSource := 0 } }

theorem Framed.configs {P : Nat → Prop} {s t : State} (h : Starts P s t) : Framed P State.sansConfig s t :=
  ⟨h.1, congrArg (fun x : State => { x with boot := { x.boot with step := 0, cfgSource := 0 } }) h.2⟩

/-- The configuration is taken: PUSH_RESULT aside, no register moves. -/
theorem takeConfig_eq (s : State) : ∃ u, Framed (fun _ => False) State.sansConfig u (takeConfig s) ∧ (u = s ∨ u = s.setFld Reg.secBootstat 27 24 2) := by
  have hsource : ∀ (u : State) c, Framed (fun _ => False) State.sansConfig u { u with boot := { u.boot with cfgSource := c } } := fun u c => ⟨fun _ _ => rfl, rfl⟩
  have hend : ∀ u : State, Framed (fun _ => False) State.sansConfig u (match u.cfgPlace with
      | some (nvm, a) => let v := startLoader u 3 (if nvm then 3 else 2) nvm a; { v with boot := { v.boot with cfgSource := if nvm then 1 else 2 } }
      | none => { u with boot := { u.boot with step := 8, cfgSource := 0 } }) := fun u => by
    split
    · exact .trans (starts_startLoader ..).configs (hsource _ _)
    · exact ⟨fun _ _ => rfl, rfl⟩
  unfold takeConfig
  by_cases h : (s.boot.cfgPushed && !sound 3 266240 (mread s.mem 0x100000 4096)) = true
  · rw [if_pos h]
    exact ⟨_, hend _, .inr rfl⟩
  · rw [if_neg h]
    exact ⟨_, hend _, .inl rfl⟩

/-- What taking the configuration keeps: measurements, and SEC_BOOTSTAT below PUSH_RESULT. -/
theorem takeConfig_keeps (s : State) : Framed (· = Reg.secBootstat) State.sansConfig s (takeConfig s) ∧
    ∀ hi lo, lo ≤ hi → hi < 24 → (takeConfig s).fld Reg.secBootstat hi lo = s.fld Reg.secBootstat hi lo := by
  have hset : Framed (· = Reg.secBootstat) State.sansConfig s (s.setFld Reg.secBootstat 27 24 2) :=
    .setFld (fun _ _ => rfl) (fieldKey_of_lt (by decide) Reg.secBootstat) s 27 2
  obtain ⟨u, hu, heq⟩ := takeConfig_eq s
  have hkeep : ∀ hi lo, (takeConfig s).fld Reg.secBootstat hi lo = u.fld Reg.secBootstat hi lo := fun hi lo => hu.fld_eq (fun h => h) hi
  have hframe := hu.mono (Q := (· = Reg.secBootstat)) fun _ h => h.elim
  rcases heq with rfl | rfl
  · exact ⟨hframe, fun hi lo _ _ => hkeep hi lo⟩
  · refine ⟨hset.trans hframe, fun hi lo hl hh => ?_⟩
    rw [hkeep, fld_setFld_ne _ (by decide) (by decide) hl (by omega) (by omega)]

/-- A verified image is noted in SEC_BOOTSTAT, and measured. -/
def imageNoted (k n hi lo : Nat) (kind : Byte) (im : Image) (s : State) : State :=
  measureImage (noteFailure (s.setFld Reg.secBootstat hi lo im.cause.toNat) k im.cause) n kind im

section
variable {k n lo : Nat} {kind : Byte} {im : Image} (hk : k < 3)
include hk

theorem notes_imageNoted (h : lo < 64) (s : State) : Notes verifyRegs s (imageNoted k n (lo + 3) lo kind im s) := by
  have hset : Notes verifyRegs s (s.setFld Reg.secBootstat (lo + 3) lo im.cause.toNat) :=
    notes_setFld (by rw [fieldKey_of_lt h]; exact .inl (by decide)) s _ _
  exact .trans (hset.trans ((notes_noteFailure hk ..).mono fun k h => .inl h)) ((notes_measureImage ..).mono fun k h => .inr (.inr h))

theorem fld_imageNoted (h12 : 12 ≤ lo) (h : lo + 3 < 64) (s : State) :
    (imageNoted k n (lo + 3) lo kind im s).fld Reg.secBootstat (lo + 3) lo = im.cause.toNat % 16 := by
  rw [imageNoted, (notes_measureImage ..).fld_eq (not_isMeas_bootstat (by omega)), fld_noteFailure hk _ _ (by omega) h (.inr h12),
    fld_setFld_self _ (by omega) (by omega), show lo + 3 + 1 - lo = 4 by omega]
  rfl

theorem measured_imageNoted (hkind : 7 + kind.toNat = 8 + k) (hn : n ≠ 4) (h : lo < 64) (s : State) :
    Measured s (imageNoted k n (lo + 3) lo kind im s) n kind im :=
  (measured_measureImage _ hk hkind hn im).of_earlier fun m =>
    (logs_setFld (P := (· = Reg.secBootstat)) (fieldKey_of_lt h Reg.secBootstat) s _ _).meas_eq (fun k hk => hk ▸ by decide) m

/-- What noting and measuring an image leaves. -/
theorem imageNoted_spec (hkind : 7 + kind.toNat = 8 + k) (hn : n ≠ 4) (h12 : 12 ≤ lo) (h : lo + 3 < 64) (s : State) :
    Notes verifyRegs s (imageNoted k n (lo + 3) lo kind im s) ∧ (imageNoted k n (lo + 3) lo kind im s).fld Reg.secBootstat (lo + 3) lo = im.cause.toNat % 16 ∧
      Measured s (imageNoted k n (lo + 3) lo kind im s) n kind im :=
  ⟨notes_imageNoted hk (by omega) s, fld_imageNoted hk h12 h s, measured_imageNoted hk hkind hn (by omega) s⟩

end

theorem finishLoad_firmware (s : State) {l : Loader} (h : l.kind = 2) :
    finishLoad s l = takeConfig (imageNoted 1 1 19 16 2 (imageOf l.head 0 l.source (finishCause l) l.digests)
      { s with boot := { s.boot with loader := none, running := some (imageOf l.head 0 l.source (finishCause l) l.digests) } }) := by
  unfold finishLoad
  rw [h]
  rfl

/-! ### The end of a load of the configuration block -/

theorem finishLoad_config (s : State) {l : Loader} (h1 : l.kind ≠ 1) (h2 : l.kind ≠ 2) :
    finishLoad s l = applySplit (imageNoted 2 2 23 20 3 (imageOf l.head 0 l.source (finishCause l) l.digests)
      { s with boot := { s.boot with loader := none, cfg := some (imageOf l.head 0 l.source (finishCause l) l.digests), step := 8 } }) := by
  unfold finishLoad
  dsimp only
  split
  next h => exact absurd h h1
  next h => exact absurd h h2
  next => rfl

theorem logs_splitTlv (ts : List Tlv) (s : State) (t : Tlv) : Logs (· = Reg.memSplit) s (splitTlv ts s t) := by
  have hset : ∀ (u : State) hi lo v, lo < 64 → Logs (· = Reg.memSplit) u (u.setFld Reg.memSplit hi lo v) := fun u hi lo v hlo =>
    logs_setFld (fieldKey_of_lt hlo Reg.memSplit) u hi v
  unfold splitTlv
  split
  · exact logs_reportUnnamed ..
  · exact .trans (.trans (hset s 3 0 _ (by decide)) (hset _ 7 4 _ (by decide))) (hset _ 11 8 _ (by decide))

theorem logs_applySplit (s : State) : Logs (· = Reg.memSplit) s (applySplit s) := by
  unfold applySplit
  split
  · exact .foldl _ (fun u t _ => logs_splitTlv _ u t) s
  · exact .refl s

/-- A block of one sound MEM_SPLIT brings its shares into force. -/
theorem fld_applySplit {s : State} {v : Tlv} {x y z : Byte} (h : cfgBlock s.boot.cfgCopy = some [v]) (htyp : v.typ = 3) (hok : v.broken [v] = false)
    (hval : v.val = [x, y, z, 0]) (hbad : splitBad v.val = none) :
    (applySplit s).fld Reg.memSplit 3 0 = x.toNat % 16 ∧ (applySplit s).fld Reg.memSplit 7 4 = y.toNat % 16 ∧
      (applySplit s).fld Reg.memSplit 11 8 = z.toNat % 16 := by
  have heq : applySplit s = ((s.setFld Reg.memSplit 3 0 x.toNat).setFld Reg.memSplit 7 4 y.toNat).setFld Reg.memSplit 11 8 z.toNat := by
    have hfilter : [v].filter (fun t => t.typ == 3) = [v] := by rw [List.filter_cons_of_pos (by rw [htyp]; rfl), List.filter_nil]
    unfold applySplit
    rw [h]
    dsimp only
    rw [hfilter, List.foldl_cons, List.foldl_nil, splitTlv, hok, if_neg Bool.false_ne_true, hbad]
    dsimp only
    rw [hval]
    simp [leAt, leNat]
  rw [heq]
  refine ⟨?_, ?_, ?_⟩
  · rw [fld_setFld_ne _ (by decide) (by decide) (by decide) (by decide) (by decide), fld_setFld_ne _ (by decide) (by decide) (by decide) (by decide) (by decide),
      fld_setFld_self _ (by decide) (by decide)]
    rfl
  · rw [fld_setFld_ne _ (by decide) (by decide) (by decide) (by decide) (by decide), fld_setFld_self _ (by decide) (by decide)]
    rfl
  · rw [fld_setFld_self _ (by decide) (by decide)]
    rfl

end Sys2Proof.Machine
end

section
/-!
SUPPORT. What the three kinds of loads come to, from the state before the last block (R391, R397, R399, R400).
-/
namespace Sys2Proof.Machine

section
variable {s : State} {l : Loader} (hup : s.up = true) (h : s.boot.loader = some l)
include hup h

/-- A block before the last. -/
theorem exec_blockLanded_before (hlast : l.landed + 1 < hdrBlocks l.head) : exec .containerBlockLanded s = .next (landBlock s l) :=
  live_next (k := blockLanded) hup (by rw [blockLanded_eq h, if_pos hlast]) (landBlock_pending s l)

variable (hlast : hdrBlocks l.head ≤ l.landed + 1)
include hlast

theorem exec_blockLanded_last (hp : (finishLoad (landBlock s l) (landedLoader s l)).pending = s.pending) :
    exec .containerBlockLanded s = .next (finishLoad (landBlock s l) (landedLoader s l)) :=
  live_next (k := blockLanded) hup (by rw [blockLanded_eq h, if_neg (by omega)]) hp

/-- The last block of an image of Stage 1. -/
theorem exec_stage1Block {im : Image} (hkind : l.kind = 1) (him : im = imageOf l.head 1 l.source (finishCause (landedLoader s l)) (landedLoader s l).digests) :
    ∃ t, exec .containerBlockLanded s = .next t ∧ t.boot.s1 = some im ∧ t.boot.step = 3 ∧ t.boot.loader = none ∧ t.fld Reg.secBootstat 2 0 = 1 ∧
      t.fld Reg.secBootstat 5 4 = 2 ∧ t.fld Reg.secBootstat 15 12 = im.cause.toNat % 16 ∧ t.fld Reg.secVersions 31 0 = im.version.toNat ∧ Measured s t 0 1 im := by
  have hpend := landBlock_pending s l
  have hmeas := meas_landBlock s l
  have heq := finishLoad_stage1 (landBlock s l) (l := landedLoader s l) hkind
  rw [show (landedLoader s l).head = l.head by rfl, show (landedLoader s l).source = l.source by rfl, ← him] at heq
  have hex := exec_blockLanded_last hup h hlast
  rw [heq] at hex
  generalize landBlock s l = u at hpend hmeas hex
  have hn := (notes_stage1Measured 2 im { u with boot := { u.boot with loader := none, s1 := some im, step := 3 } }).2
  have hm := measured_stage1Measured 2 im { u with boot := { u.boot with loader := none, s1 := some im, step := 3 } }
  have hf := fld_stage1Measured 2 im { u with boot := { u.boot with loader := none, s1 := some im, step := 3 } }
  generalize stage1Measured 2 im _ = t at hn hm hf hex
  obtain ⟨hstage, hslot, hcause, hver⟩ := hf
  exact ⟨t, hex ((congrArg State.pending hn :).trans hpend), (congrArg (fun x : State => x.boot.s1) hn :), (congrArg (fun x : State => x.boot.step) hn :),
    (congrArg (fun x : State => x.boot.loader) hn :), hstage, hslot, hcause, hver, hm.of_earlier hmeas⟩

/-- The last block of the main firmware. -/
theorem exec_firmwareBlock {im : Image} (hkind : l.kind = 2) (him : im = imageOf l.head 0 l.source (finishCause (landedLoader s l)) (landedLoader s l).digests) :
    ∃ t, exec .containerBlockLanded s = .next t ∧ t.boot.running = some im ∧ t.fld Reg.secBootstat 19 16 = im.cause.toNat % 16 ∧ Measured s t 1 2 im := by
  have hpend := landBlock_pending s l
  have hmeas := meas_landBlock s l
  have heq := finishLoad_firmware (landBlock s l) (l := landedLoader s l) hkind
  rw [show (landedLoader s l).head = l.head by rfl, show (landedLoader s l).source = l.source by rfl, ← him] at heq
  have hex := exec_blockLanded_last hup h hlast
  rw [heq] at hex
  generalize landBlock s l = u at hpend hmeas hex
  obtain ⟨⟨-, hn⟩, hf, hm⟩ := imageNoted_spec (k := 1) (n := 1) (lo := 16) (kind := 2) (im := im) (by decide) (by decide) (by decide) (by decide) (by decide)
    { u with boot := { u.boot with loader := none, running := some im } }
  generalize imageNoted 1 1 19 16 2 im _ = v at hn hm hf hex
  obtain ⟨hframe, hfld⟩ := takeConfig_keeps v
  have hlater := (hm.of_earlier (r := s) hmeas).of_later (hframe.meas_eq fun k hk => hk ▸ by decide)
    (fun b hb => by unfold State.bit; rw [hfld b b le_rfl hb]) (hframe.bit_eq (by decide)) (by decide)
  have hcause := (hfld 19 16 (by decide) (by decide)).trans hf
  have hrest := hframe.2
  generalize takeConfig v = t at hrest hlater hcause hex
  have hpv : v.pending = u.pending := (congrArg State.pending hn :)
  have hrv : v.boot.running = some im := (congrArg (fun x : State => x.boot.running) hn :)
  exact ⟨t, hex ((congrArg State.pending hrest :).trans (hpv.trans hpend)), (congrArg (fun x : State => x.boot.running) hrest :).trans hrv, hcause, hlater⟩

/-- The last block of a configuration block. -/
theorem exec_configBlock {im : Image} (h1 : l.kind ≠ 1) (h2 : l.kind ≠ 2) (him : im = imageOf l.head 0 l.source (finishCause (landedLoader s l)) (landedLoader s l).digests) :
    ∃ t, exec .containerBlockLanded s = .next t ∧ t.boot.cfg = some im ∧ t.boot.step = 8 ∧ t.boot.loader = none ∧
      t.fld Reg.secBootstat 23 20 = im.cause.toNat % 16 ∧ Measured s t 2 3 im ∧
      ∀ (v : Tlv) (x y z : Byte), cfgBlock t.boot.cfgCopy = some [v] → v.typ = 3 → v.broken [v] = false → v.val = [x, y, z, 0] → splitBad v.val = none →
        t.fld Reg.memSplit 3 0 = x.toNat % 16 ∧ t.fld Reg.memSplit 7 4 = y.toNat % 16 ∧ t.fld Reg.memSplit 11 8 = z.toNat % 16 := by
  have hpend := landBlock_pending s l
  have hmeas := meas_landBlock s l
  have heq := finishLoad_config (landBlock s l) (l := landedLoader s l) h1 h2
  rw [show (landedLoader s l).head = l.head by rfl, show (landedLoader s l).source = l.source by rfl, ← him] at heq
  have hex := exec_blockLanded_last hup h hlast
  rw [heq] at hex
  generalize landBlock s l = u at hpend hmeas hex
  obtain ⟨⟨-, hn⟩, hf, hm⟩ := imageNoted_spec (k := 2) (n := 2) (lo := 20) (kind := 3) (im := im) (by decide) (by decide) (by decide) (by decide) (by decide)
    { u with boot := { u.boot with loader := none, cfg := some im, step := 8 } }
  generalize imageNoted 2 2 23 20 3 im _ = w at hn hm hf hex
  have hframe := logs_applySplit w
  have hlater := (hm.of_earlier (r := s) hmeas).of_later (hframe.meas_eq fun k hk => hk ▸ by decide)
    (fun b hb => hframe.bit_eq (by rw [fieldKey_of_lt (by omega)]; decide)) (hframe.bit_eq (by decide)) (by decide)
  have hcause := (hframe.fld_eq (by decide) 23).trans hf
  have hsplit := @fld_applySplit w
  have hrest := hframe.2
  generalize applySplit w = t at hrest hlater hcause hsplit hex
  have hboot : t.boot = w.boot := (congrArg State.boot hrest :)
  have hpw : w.pending = u.pending := (congrArg State.pending hn :)
  have hcfg : w.boot.cfg = some im := (congrArg (fun x : State => x.boot.cfg) hn :)
  have hstep : w.boot.step = 8 := (congrArg (fun x : State => x.boot.step) hn :)
  have hload : w.boot.loader = none := (congrArg (fun x : State => x.boot.loader) hn :)
  refine ⟨t, hex ((congrArg State.pending hrest :).trans (hpw.trans hpend)), ?_, ?_, ?_, hcause, hlater, fun v x y z hb => ?_⟩
  · rw [hboot, hcfg]
  · rw [hboot, hstep]
  · rw [hboot, hload]
  · rw [hboot] at hb
    exact hsplit hb

end

/-! ### The parts that Stage 1 reports -/

/-- The setting of VDDQ_G away from the middle. -/
theorem near135_of_ne {mv : Nat} (h : mv ≠ 1300) : near135 mv = decide (1300 < mv) := if_neg h

end Sys2Proof.Machine
end

section
open Sys2Proof Sys2Proof.Machine

/-- Settles O12: Stage 1 reports the parts that it leaves in service and nothing after it moves those registers; a block before the last only moves
the loader; and the last block's image is noted, measured, and followed by what its kind brings. -/
theorem stage1AndContainerBlocks : Obligations.Stage1AndContainerBlocks := by
  unfold Obligations.Stage1AndContainerBlocks
  refine fun s hup => ⟨fun p h => ?_, fun l h => ⟨fun hlast => ?_, fun hlast => ?_⟩⟩
  · obtain ⟨-, hcaps, -, hwindow⟩ := stage1_result h p
    obtain ⟨-, -, -, htrained, h135, hstep, hmarch, hxspi⟩ := stage1_rest h p
    refine ⟨stage1 s p, exec_stage1Start hup h p, hstep, htrained, hxspi, hmarch, fun hmv => h135.trans (near135_of_ne hmv), hwindow, hcaps.chans, hcaps.bytes,
      hcaps.channels, hcaps.count.trans (congrArg List.length (partCores_eq s p)), fun c hc => ?_⟩
    rw [hcaps.mask]
    exact testBit_foldMask_partCores s p hc
  · refine ⟨landBlock s l, landedLoader s l, exec_blockLanded_before hup h hlast, rfl, rfl, rfl, rfl, ?_, ?_, landBlock_rest s l⟩
    · rw [landBlock_rest]
    · rw [landBlock_rest]
  · have hcause := finishCause_landedLoader s l
    generalize hc : finishCause (landedLoader s l) = c at hcause
    have hd : (landedLoader s l).digests = l.digests ++ [sha (nextBlock s l)] := rfl
    by_cases h1 : l.kind = 1
    · obtain ⟨t, hex, hs1, hstep, hload, hstage, hslot, hfld, hver, hm⟩ := exec_stage1Block hup h hlast (im := imageOf l.head 1 l.source c (l.digests ++ [sha (nextBlock s l)]))
        h1 (by rw [hc, hd])
      exact ⟨t, c, hex, hcause, fun _ => ⟨hs1, hstep, hload, hstage, hslot, hfld, hver, hm.own, hm.all, hm.failed⟩, fun h2 => absurd (h1.symm.trans h2) (by decide),
        fun h3 => absurd (h1.symm.trans h3) (by decide)⟩
    by_cases h2 : l.kind = 2
    · obtain ⟨t, hex, hrun, hfld, hm⟩ := exec_firmwareBlock hup h hlast (im := imageOf l.head 0 l.source c (l.digests ++ [sha (nextBlock s l)])) h2 (by rw [hc, hd])
      exact ⟨t, c, hex, hcause, fun h => absurd h h1, fun _ => ⟨hrun, hfld, hm.own, hm.all, hm.failed⟩, fun h3 => absurd (h2.symm.trans h3) (by decide)⟩
    · obtain ⟨t, hex, hcfg, hstep, hload, hfld, hm, hsplit⟩ := exec_configBlock hup h hlast (im := imageOf l.head 0 l.source c (l.digests ++ [sha (nextBlock s l)])) h1 h2
        (by rw [hc, hd])
      exact ⟨t, c, hex, hcause, fun h => absurd h h1, fun h => absurd h h2, fun _ => ⟨hcfg, hstep, hload, hfld, ⟨hm.own, hm.all, hm.failed⟩, hsplit⟩⟩

end

section
/-!
SUPPORT. The end of the start: what the start of main firmware does once the configuration is in force (R24, R363, R396, R401, R412).
-/
namespace Sys2Proof.Machine

/-! ### The frame -/

/-- The state without what the end of the start changes, the mail rings aside. -/
def State.sansMain (s : State) : State := { s.sansStart with mem := [], poison := [], attn := none, free := 0, qm := {}, mmu := {} }

abbrev Mains (P : Nat → Prop) (s t : State) : Prop := Framed P State.sansMain s t

section
variable {P : Nat → Prop} {s t : State}

theorem Framed.mains (h : Starts P s t) : Mains P s t :=
  ⟨h.1, congrArg (fun x : State => { x with mem := [], poison := [], attn := none, free := 0, qm := {}, mmu := {} }) h.2⟩

theorem Framed.mains_of_works (h : Works P s t) : Mains P s t :=
  ⟨h.1, congrArg (fun x : State => { x.sansStart with mem := [], poison := [], attn := none, free := 0, qm := {}, mmu := {} }) h.2⟩

end

/-- The counters that the writes of the mail area move. -/
def mailRegs : List Nat := (List.range 90).map Reg.dbgBcnt ++ (List.range 10).map Reg.relCnt

theorem counters_mailRegs : Counters (· ∈ mailRegs) .mantel where
  bytes i hi := List.mem_append_left _ (List.mem_map_of_mem (List.mem_range.2 hi))
  port _ h := by cases h
  errors _ hi := List.mem_append_right _ (List.mem_map_of_mem (List.mem_range.2 hi))

/-- The registers that the end of the start moves. -/
def mainRegs : List Nat := [Reg.secVersions, Reg.secBootstat, Reg.secArb0, Reg.secArb1] ++ statusRegs ++ mailRegs

/-! ### The end of the start, step by step -/

/-- The loops start, and the device is at step 9. -/
def startLoops (s : State) : State :=
  { s with pwr := { s.pwr with fReq := if s.pwr.heldLoops = 0 then s.pwr.fCeil else s.pwr.heldFreq }, boot := { s.boot with step := 9 } }

/-- The version of the firmware, STAGE and WINDOW. -/
def showFirmware (s : State) : State :=
  ((match s.boot.running with
    | some im => s.setFld Reg.secVersions 63 32 im.version.toNat
    | none => s).setFld Reg.secBootstat 2 0 2).setBit Reg.secBootstat 3 false

/-- The end of the start. -/
def mainEnd (s : State) : State := raiseAll (mailInit (setStatus (showFirmware (startLoops s)) 0 true))

theorem mainStart_eq {s : State} (h : s.boot.step = 8) : mainStart s = mainEnd (twinConfigured (configure s)) := by
  unfold mainStart
  rw [if_neg (not_not_intro h)]
  rfl

theorem mains_showFirmware (s : State) : Mains (· ∈ mainRegs) s (showFirmware s) := by
  have hset : ∀ (u : State) k hi lo v, fieldKey k lo ∈ mainRegs → Mains (· ∈ mainRegs) u (u.setFld k hi lo v) := fun u k hi lo v hk =>
    .setFld (fun _ _ => rfl) hk u hi v
  unfold showFirmware
  refine .trans (.trans ?_ (hset _ Reg.secBootstat 2 0 2 (by decide))) (hset _ Reg.secBootstat 3 3 _ (by decide))
  split
  · exact hset s _ 63 32 _ (by decide)
  · exact .refl s

theorem fld_showFirmware (s : State) : (showFirmware s).fld Reg.secBootstat 2 0 = 2 ∧ (showFirmware s).bit Reg.secBootstat 3 = false := by
  unfold showFirmware
  refine ⟨?_, bit_setBit_self ..⟩
  rw [State.setBit, fld_setFld_ne _ (by decide) (by decide) (by decide) (by decide) (by decide), fld_setFld_self _ (by decide) (by decide)]
  rfl

/-- The READY message. -/
def readyMessage (s : State) : List Byte := message 2 0 0 (leBytes 8 (s.reg Reg.glbStatus).toNat ++ leBytes 4 (s.fld Reg.secVersions 63 32))

theorem leAt_append_left {a : List Byte} {n : Nat} (h : a.length = n) (b : List Byte) : leAt (a ++ b) 0 n = leNat a := by
  rw [leAt, List.drop_zero, ← h, List.take_left]

theorem type_readyMessage (s : State) : leAt (readyMessage s) 0 2 = 2 := by
  unfold readyMessage message
  rw [List.append_assoc, List.append_assoc, List.append_assoc, leAt_append_left (leBytes_length 2 2), leNat_leBytes]
  rfl

/-- The device once the mail area has been written: the indices, LAYOUT, then MAGIC. -/
def mailArea (s : State) : State :=
  [(0x40, 0), (0x80, 0), (0xC0, 0), (0x100, 0), (4, 1), (0, 0x4C49414D)].foldl (fun u x => devWrite .mantel u (mailBase + x.1) (leBytes 4 x.2)) s

theorem mains_mailArea (s : State) : Mains (· ∈ mailRegs) s (mailArea s) :=
  .foldl _ (fun u _ _ => Framed.mains_of_works (works_devWrite counters_mailRegs u _ _)) s

/-- The rings in use, with READY waiting. -/
def mailUp (u : State) : State :=
  { u with mail := { u.mail with up := true, known := 0, waiting := [readyMessage u], notices := [], dropped := 0, busy := none } }

theorem mailInit_eq (s : State) : mailInit s = mailUp (mailArea s) := by
  unfold mailInit mailUp mailArea readyMessage
  simp only [List.foldl_cons, List.foldl_nil]

theorem mains_raiseArb (kind : Nat) (im : Image) (s : State) : Mains (· ∈ [Reg.secArb0, Reg.secArb1]) s (raiseArb kind im s) := by
  have hset : ∀ (u : State) k hi lo v, fieldKey k lo ∈ [Reg.secArb0, Reg.secArb1] → Mains (· ∈ [Reg.secArb0, Reg.secArb1]) u (u.setFld k hi lo v) := fun u k hi lo v hk =>
    .setFld (fun _ _ => rfl) hk u hi v
  have hj : ∀ (u : State) ws, Mains (· ∈ [Reg.secArb0, Reg.secArb1]) u (journalWrite .counters ws u) := fun u ws => ⟨fun _ _ => rfl, rfl⟩
  unfold raiseArb
  refine .ite (.trans ?_ (hj _ _)) (.refl s)
  exact .ite (hset s _ 31 0 _ (by decide)) (.ite (hset s _ 63 32 _ (by decide)) (hset s _ 31 0 _ (by decide)))

theorem mains_raiseAll (s : State) : Mains (· ∈ [Reg.secArb0, Reg.secArb1]) s (raiseAll s) := by
  have hup : ∀ (u : State) k i, Mains (· ∈ [Reg.secArb0, Reg.secArb1]) u (match i with | some im => raiseArb k im u | none => u) := fun u k i => by
    cases i with
    | none => exact .refl u
    | some im => exact mains_raiseArb k im u
  exact .trans (.trans (hup ..) (hup ..)) (hup ..)

/-- What the end of the start leaves. -/
structure MainEnded (s t : State) : Prop where
  step : t.boot.step = 9
  ready : t.ready = true
  stage : t.fld Reg.secBootstat 2 0 = 2
  window : t.bit Reg.secBootstat 3 = false
  mail : t.mail.up = true
  waiting : t.mail.waiting.length = 1
  message : ∀ m ∈ t.mail.waiting, leAt m 0 2 = 2
  regs : ∀ k, k ∉ mainRegs → t.reg k = s.reg k
  pwr : t.pwr = (startLoops s).pwr

theorem mainEnded_mainEnd (s : State) : MainEnded s (mainEnd s) := by
  have hshow := mains_showFirmware (startLoops s)
  obtain ⟨hstage, hwindow⟩ := fld_showFirmware (startLoops s)
  unfold mainEnd
  generalize showFirmware (startLoops s) = v at hshow hstage hwindow
  have hset : Mains (· ∈ statusRegs) v (setStatus v 0 true) := (notes_setStatus (fun _ h => h) v (by decide) true).starts.mains
  have hready : (setStatus v 0 true).bit Reg.glbStatus 0 = true := by rw [bit_setStatus _ _ (by decide) (by decide), if_pos rfl]
  generalize setStatus v 0 true = w at hset hready
  have harea := mains_mailArea w
  have hraise := mains_raiseAll (mailUp (mailArea w))
  rw [mailInit_eq]
  generalize mailArea w = x at harea hraise
  generalize raiseAll (mailUp x) = t at hraise
  have hmail : t.mail = (mailUp x).mail := (congrArg State.mail hraise.2 :)
  have hpwr : t.pwr = (startLoops s).pwr := by
    have h1 : t.pwr = x.pwr := (congrArg State.pwr hraise.2 :)
    have h2 : x.pwr = w.pwr := (congrArg State.pwr harea.2 :)
    have h3 : w.pwr = v.pwr := (congrArg State.pwr hset.2 :)
    have h4 : v.pwr = (startLoops s).pwr := (congrArg State.pwr hshow.2 :)
    rw [h1, h2, h3, h4]
  have hstep : t.boot.step = 9 := by
    have h1 : t.boot.step = x.boot.step := (congrArg (fun y : State => y.boot.step) hraise.2 :)
    have h2 : x.boot.step = w.boot.step := (congrArg (fun y : State => y.boot.step) harea.2 :)
    have h3 : w.boot.step = v.boot.step := (congrArg (fun y : State => y.boot.step) hset.2 :)
    have h4 : v.boot.step = 9 := (congrArg (fun y : State => y.boot.step) hshow.2 :)
    rw [h1, h2, h3, h4]
  have hlate : ∀ k, k ∉ [Reg.secArb0, Reg.secArb1] → k ∉ mailRegs → t.reg k = w.reg k := fun k h1 h2 => (hraise.1 k h1).trans (harea.1 k h2)
  have hboot : t.reg Reg.secBootstat = v.reg Reg.secBootstat := (hlate _ (by decide) (by decide)).trans (hset.1 _ (by decide))
  refine ⟨hstep, (bit_of_reg _ 0 (hlate _ (by decide) (by decide))).trans hready, (fld_of_reg _ 2 0 hboot).trans hstage, (bit_of_reg _ 3 hboot).trans hwindow,
    by rw [hmail]; rfl, by rw [hmail]; rfl, fun m hm => ?_, fun k hk => ?_, hpwr⟩
  · rw [hmail] at hm
    rw [List.mem_singleton.1 hm]
    exact type_readyMessage x
  · have hsub : ∀ l : List Nat, (∀ j ∈ l, j ∈ mainRegs) → k ∉ l := fun l hl h => hk (hl k h)
    rw [hlate k (hsub _ (by decide)) (hsub _ fun j hj => List.mem_append_right _ hj), hset.1 k (hsub _ (by decide)), hshow.1 k hk]
    rfl

theorem exec_mainFwStart {s : State} (hup : s.up = true) : exec .mainFwStart s = .next (keepQueue s (mainStart s)) := by
  change live s mainStart = _
  unfold live gated always
  dsimp only
  rw [if_pos hup]

theorem exec_mainFwStart_other {s : State} (hup : s.up = true) (h : s.boot.step ≠ 8) : exec .mainFwStart s = .next s :=
  live_next (k := mainStart) hup (if_pos h) rfl

theorem MainEnded.keepQueue {s t : State} (h : MainEnded s t) (q : State) : MainEnded s (keepQueue q t) := by
  obtain ⟨h1, h2, h3, h4, h5, h6, h7, h8, h9⟩ := h
  refine ⟨?_, ?_, ?_, ?_, ?_, ?_, ?_, fun k hk => ?_, ?_⟩
  · rwa [keepQueue_boot]
  · exact (bit_keepQueue ..).trans h2
  · rwa [fld_keepQueue]
  · rwa [bit_keepQueue]
  · rwa [keepQueue_mail]
  · rwa [keepQueue_mail]
  · rwa [keepQueue_mail]
  · rw [reg_congr (keepQueue_regs ..), h8 k hk]
  · rwa [keepQueue_pwr]

end Sys2Proof.Machine
end

section
/-!
SUPPORT. The configuration in force: the defaults, and blocks of one PARTITION, CYCLE or POWER TLV (R333, R336, R345, R378 to R382, R411).
-/
namespace Sys2Proof.Machine

/-! ### Partitions -/

/-- A partition holds a core mask and a range of semaphores, and is enabled when it holds a core. -/
structure PartitionIs (p m lo hi : Nat) (s : State) : Prop where
  cores : s.fld (Reg.qmPart p) 15 0 = m
  enabled : s.bit (Reg.qmPart p) 16 = (m != 0)
  first : s.fld (Reg.qmPart p) 45 32 = lo
  last : s.fld (Reg.qmPart p) 61 48 = hi

theorem PartitionIs.of_reg {p m lo hi : Nat} {s t : State} (h : PartitionIs p m lo hi s) (hr : t.reg (Reg.qmPart p) = s.reg (Reg.qmPart p)) :
    PartitionIs p m lo hi t :=
  ⟨(fld_of_reg _ 15 0 hr).trans h.cores, (bit_of_reg _ 16 hr).trans h.enabled, (fld_of_reg _ 45 32 hr).trans h.first, (fld_of_reg _ 61 48 hr).trans h.last⟩

/-- A write of a field of a register leaves a field beside it. -/
theorem fld_setFld_beside (s : State) {k hi lo hi' lo' : Nat} (v : Nat) (h1 : lo ≤ hi) (h2 : hi < 64) (h1' : lo' ≤ hi') (h2' : hi' < 64) (hd : hi < lo' ∨ hi' < lo) :
    (s.setFld k hi lo v).fld k hi' lo' = s.fld k hi' lo' := fld_setFld_ne s h1 (by omega) h1' (by omega) (by omega)

theorem logs_setPart {p : Nat} (s : State) (hi v : Nat) {lo : Nat} (h : lo < 64) : Logs (· = Reg.qmPart p) s (s.setFld (Reg.qmPart p) hi lo v) :=
  logs_setFld (fieldKey_of_lt h (Reg.qmPart p)) s hi v

/-- The settling of one partition: it holds those of its cores that are in service. -/
theorem coresOf_singleton (p : Nat) (s : State) : Logs (· = Reg.qmPart p) s (coresOf [p] 0 s) ∧
    PartitionIs p (s.fld (Reg.qmPart p) 15 0 &&& s.fld Reg.glbCaps2 31 16) (s.fld (Reg.qmPart p) 45 32) (s.fld (Reg.qmPart p) 61 48) (coresOf [p] 0 s) := by
  have hcaps : s.fld Reg.glbCaps2 31 16 < 2 ^ 16 := fld_lt s Reg.glbCaps2 31 16
  have hmask : s.fld (Reg.qmPart p) 15 0 &&& s.fld Reg.glbCaps2 31 16 &&& (0xFFFF ^^^ 0) = s.fld (Reg.qmPart p) 15 0 &&& s.fld Reg.glbCaps2 31 16 := by
    rw [Nat.xor_zero, show 0xFFFF = 2 ^ 16 - 1 by rfl, Nat.and_two_pow_sub_one_of_lt_two_pow (Nat.and_lt_two_pow _ hcaps)]
  have hlt : s.fld (Reg.qmPart p) 15 0 &&& s.fld Reg.glbCaps2 31 16 < 2 ^ 16 := Nat.and_lt_two_pow _ hcaps
  unfold coresOf
  dsimp only
  rw [hmask, coresOf]
  generalize s.fld (Reg.qmPart p) 15 0 &&& s.fld Reg.glbCaps2 31 16 = m at hlt
  have hset : Logs (· = Reg.qmPart p) s (((s.setFld (Reg.qmPart p) 15 0 m).setBit (Reg.qmPart p) 16 (m != 0)).setBit (Reg.qmPart p) 17 (attnMask m)) :=
    .trans (.trans (logs_setPart s 15 m (by decide)) (logs_setPart _ 16 _ (by decide))) (logs_setPart _ 17 _ (by decide))
  have hpart : PartitionIs p m (s.fld (Reg.qmPart p) 45 32) (s.fld (Reg.qmPart p) 61 48)
      (((s.setFld (Reg.qmPart p) 15 0 m).setBit (Reg.qmPart p) 16 (m != 0)).setBit (Reg.qmPart p) 17 (attnMask m)) := by
    have hhigh : ∀ hi lo, 17 < lo → lo ≤ hi → hi < 64 →
        (((s.setFld (Reg.qmPart p) 15 0 m).setBit (Reg.qmPart p) 16 (m != 0)).setBit (Reg.qmPart p) 17 (attnMask m)).fld (Reg.qmPart p) hi lo =
          s.fld (Reg.qmPart p) hi lo := fun hi lo h17 hl hh => by
      rw [State.setBit, fld_setFld_beside _ _ (by decide) (by decide) hl hh (by omega), State.setBit,
        fld_setFld_beside _ _ (by decide) (by decide) hl hh (by omega), fld_setFld_beside _ _ (by decide) (by decide) hl hh (by omega)]
    refine ⟨?_, ?_, hhigh 45 32 (by decide) (by decide) (by decide), hhigh 61 48 (by decide) (by decide) (by decide)⟩
    · rw [State.setBit, fld_setFld_beside _ _ (by decide) (by decide) (by decide) (by decide) (by decide), State.setBit,
        fld_setFld_beside _ _ (by decide) (by decide) (by decide) (by decide) (by decide), fld_setFld_self _ (by decide) (by decide)]
      exact Nat.mod_eq_of_lt hlt
    · rw [bit_setBit_ne _ _ (by decide) (by decide) (by decide), bit_setBit_self]
  generalize ((s.setFld (Reg.qmPart p) 15 0 m).setBit (Reg.qmPart p) 16 (m != 0)).setBit (Reg.qmPart p) 17 (attnMask m) = u at hset hpart
  split
  · exact ⟨hset.trans (logs_reportUnnamed ..), hpart.of_reg (reg_reportUnnamed ..)⟩
  · exact ⟨hset, hpart⟩

/-- With no PARTITION accepted, partition 0 holds all cores in service and all semaphores. -/
theorem settleParts_default (s : State) : ∃ u, settleParts { s := s } = { s := u, parts := [0] } ∧ Logs (· = Reg.qmPart 0) s u ∧
    PartitionIs 0 (s.fld Reg.glbCaps2 31 16) 0 16383 u := by
  have hcaps : s.fld Reg.glbCaps2 31 16 < 2 ^ 16 := fld_lt s Reg.glbCaps2 31 16
  have hset : Logs (· = Reg.qmPart 0) s (((s.setFld (Reg.qmPart 0) 15 0 0xFFFF).setFld (Reg.qmPart 0) 45 32 0).setFld (Reg.qmPart 0) 61 48 16383) :=
    .trans (.trans (logs_setPart s 15 _ (by decide)) (logs_setPart _ 45 _ (by decide))) (logs_setPart _ 61 _ (by decide))
  have h15 : (((s.setFld (Reg.qmPart 0) 15 0 0xFFFF).setFld (Reg.qmPart 0) 45 32 0).setFld (Reg.qmPart 0) 61 48 16383).fld (Reg.qmPart 0) 15 0 = 2 ^ 16 - 1 := by
    rw [fld_setFld_beside _ _ (by decide) (by decide) (by decide) (by decide) (by decide),
      fld_setFld_beside _ _ (by decide) (by decide) (by decide) (by decide) (by decide), fld_setFld_self _ (by decide) (by decide)]
    decide
  have h45 : (((s.setFld (Reg.qmPart 0) 15 0 0xFFFF).setFld (Reg.qmPart 0) 45 32 0).setFld (Reg.qmPart 0) 61 48 16383).fld (Reg.qmPart 0) 45 32 = 0 := by
    rw [fld_setFld_beside _ _ (by decide) (by decide) (by decide) (by decide) (by decide), fld_setFld_self _ (by decide) (by decide)]
    decide
  have h61 : (((s.setFld (Reg.qmPart 0) 15 0 0xFFFF).setFld (Reg.qmPart 0) 45 32 0).setFld (Reg.qmPart 0) 61 48 16383).fld (Reg.qmPart 0) 61 48 = 16383 := by
    rw [fld_setFld_self _ (by decide) (by decide)]
    decide
  have heq : settleParts { s := s } = { s := coresOf [0] 0 (((s.setFld (Reg.qmPart 0) 15 0 0xFFFF).setFld (Reg.qmPart 0) 45 32 0).setFld (Reg.qmPart 0) 61 48 16383)
                                        parts := [0] } := by
    have hzero : (List.range 16).filter [0].contains = [0] := by decide
    unfold settleParts
    dsimp only
    rw [List.isEmpty_nil, if_pos rfl]
    dsimp only
    rw [hzero]
  rw [heq]
  generalize ((s.setFld (Reg.qmPart 0) 15 0 0xFFFF).setFld (Reg.qmPart 0) 45 32 0).setFld (Reg.qmPart 0) 61 48 16383 = u at hset h15 h45 h61
  obtain ⟨hlog, hpart⟩ := coresOf_singleton 0 u
  have hu : u.fld Reg.glbCaps2 31 16 = s.fld Reg.glbCaps2 31 16 := hset.fld_eq (by decide) 31
  rw [h15, h45, h61, hu, Nat.and_comm, Nat.and_two_pow_sub_one_of_lt_two_pow hcaps] at hpart
  exact ⟨_, rfl, hset.trans hlog, hpart⟩

/-! ### TLVs group by group -/

/-- The one TLV of a block stands in the group of its TYPE alone. -/
theorem cfgGroup_singleton {v : Tlv} (h : tlvKnown v.typ = true) (g : Nat) (a : Applying) :
    cfgGroup [v] g a = if g = tlvGroup v.typ then cfgStep [v] a v else a := by
  unfold cfgGroup
  rw [List.filter_cons, h, Bool.true_and, List.filter_nil, beq_eq_decide]
  by_cases hg : g = tlvGroup v.typ
  · rw [if_pos hg, decide_eq_true hg.symm, if_pos rfl, List.foldl_cons, List.foldl_nil]
  · rw [if_neg hg, decide_eq_false (Ne.symm hg), if_neg Bool.false_ne_true, List.foldl_nil]

/-- A block of one known TLV. -/
theorem cfgApply_singleton {v : Tlv} (h : tlvKnown v.typ = true) (s : State) : cfgApply [v] s =
    [6, 7, 8, 9].foldl (fun a g => if g = tlvGroup v.typ then cfgStep [v] a v else a) (settleCycle
      ([3, 4, 5].foldl (fun a g => if g = tlvGroup v.typ then cfgStep [v] a v else a) (settleParts
        ([0, 1, 2].foldl (fun a g => if g = tlvGroup v.typ then cfgStep [v] a v else a) { s := s })))) := by
  have hunknown : ([v].filter fun t => !tlvKnown t.typ).length = 0 := by
    rw [List.filter_cons, h, Bool.not_true, if_neg Bool.false_ne_true, List.filter_nil, List.length_nil]
  have hgroup : (fun a g => cfgGroup [v] g a) = fun a g => if g = tlvGroup v.typ then cfgStep [v] a v else a := by
    funext a g
    exact cfgGroup_singleton h g a
  unfold cfgApply
  rw [hunknown, hgroup]
  rfl

/-- An empty block leaves the defaults. -/
theorem cfgApply_nil (s : State) : cfgApply [] s = settleCycle (settleParts { s := s }) := rfl

section
variable {v : Tlv} (s : State)

/-- A PARTITION comes before the partitions settle. -/
theorem cfgApply_partition (h : v.typ = 1) : cfgApply [v] s = settleCycle (settleParts (cfgStep [v] { s := s } v)) := by
  rw [cfgApply_singleton (by rw [h]; rfl), h]
  rfl

/-- A CYCLE comes before the table is judged. -/
theorem cfgApply_cycle (h : v.typ = 5) : cfgApply [v] s = settleCycle (cfgStep [v] (settleParts { s := s }) v) := by
  rw [cfgApply_singleton (by rw [h]; rfl), h]
  rfl

/-- A POWER comes after the table has been judged. -/
theorem cfgApply_power (h : v.typ = 7) : cfgApply [v] s = cfgStep [v] (settleCycle (settleParts { s := s })) v := by
  rw [cfgApply_singleton (by rw [h]; rfl), h]
  rfl

end

/-- A sound TLV without a failing field is applied. -/
theorem cfgStep_applied {ts : List Tlv} {a b : Applying} {t : Tlv} (h : t.broken ts = false) (htake : cfgTake ts a t = (b, none)) :
    cfgStep ts a t = { b with applied := b.applied + 1 } := by
  unfold cfgStep
  rw [h, if_neg Bool.false_ne_true, htake]

/-! ### Fields of a value -/

/-- A little-endian number in its place. -/
theorem leAt_field {v a c : List Byte} {o n x : Nat} (hv : v = a ++ leBytes n x ++ c) (ho : a.length = o) : leAt v o n = x % 256 ^ n := by
  rw [hv, leAt, List.append_assoc, ← ho, List.drop_left, List.take_left' (leBytes_length n x), leNat_leBytes]

theorem firstBad_none {l : List Bool} (h : ∀ b ∈ l, b = false) : firstBad l = none := by
  unfold firstBad
  rw [List.findIdx?_eq_none_iff (p := id) |>.2 h]

/-! ### The three TLVs -/

theorem cfgTake_cycle (ts : List Tlv) (a : Applying) {t : Tlv} (h : t.typ = 5) : cfgTake ts a t = cfgCycle a t := by
  unfold cfgTake
  rw [h]
  rfl

theorem cfgTake_power (ts : List Tlv) (a : Applying) {t : Tlv} (h : t.typ = 7) : cfgTake ts a t = a.take (cfgPower a.s t.val) := by
  unfold cfgTake
  rw [h]
  rfl

theorem settleCycle_none {a : Applying} (h : a.cycle = none) : settleCycle a = a := by
  unfold settleCycle
  rw [h]

/-- With an empty block the cyclic table, the split and the cap stay, and partition 0 holds what there is. -/
theorem cfgApply_nil_result (s : State) : Logs (· = Reg.qmPart 0) s (cfgApply [] s).s ∧
    PartitionIs 0 (s.fld Reg.glbCaps2 31 16) 0 16383 (cfgApply [] s).s := by
  obtain ⟨u, heq, hlog, hpart⟩ := settleParts_default s
  rw [cfgApply_nil, heq, settleCycle_none rfl]
  exact ⟨hlog, hpart⟩

/-- A sound PARTITION alone. -/
theorem cfgApply_partition_result (s : State) {v : Tlv} {p m lo hi : Nat} (hok : v.broken [v] = false) (htyp : v.typ = 1)
    (hval : v.val = leBytes 1 p ++ leBytes 1 0 ++ leBytes 2 m ++ leBytes 2 lo ++ leBytes 2 hi) (hp : p < 16) (hm : m < 2 ^ 16) (hlo : lo ≤ hi) (hhi : hi < 16384) :
    (cfgApply [v] s).applied = 1 ∧ (cfgApply [v] s).rejected = 0 ∧ Logs (· = Reg.qmPart p) s (cfgApply [v] s).s ∧
      PartitionIs p (m &&& s.fld Reg.glbCaps2 31 16) lo hi (cfgApply [v] s).s := by
  have h0 : leAt v.val 0 1 = p := (leAt_field (a := []) (by simp only [hval, List.nil_append, List.append_assoc]; rfl) rfl).trans (Nat.mod_eq_of_lt (by omega))
  have h1 : leAt v.val 1 1 = 0 := leAt_field (a := leBytes 1 p) (x := 0) (by simp only [hval, List.append_assoc]; rfl) rfl
  have h2 : leAt v.val 2 2 = m :=
    (leAt_field (a := leBytes 1 p ++ leBytes 1 0) (by simp only [hval, List.append_assoc]; rfl) rfl).trans (Nat.mod_eq_of_lt (by omega))
  have h4 : leAt v.val 4 2 = lo :=
    (leAt_field (a := leBytes 1 p ++ leBytes 1 0 ++ leBytes 2 m) (by simp only [hval, List.append_assoc]; rfl) rfl).trans (Nat.mod_eq_of_lt (by omega))
  have h6 : leAt v.val 6 2 = hi :=
    (leAt_field (a := leBytes 1 p ++ leBytes 1 0 ++ leBytes 2 m ++ leBytes 2 lo) (c := []) (by simp only [hval, List.append_nil]) rfl).trans
      (Nat.mod_eq_of_lt (by omega))
  have hset : ∃ w, cfgTake [v] { s := s } v = ({ s := w, parts := [p] }, none) ∧ Logs (· = Reg.qmPart p) s w ∧ w.fld (Reg.qmPart p) 15 0 = m ∧
      w.fld (Reg.qmPart p) 45 32 = lo ∧ w.fld (Reg.qmPart p) 61 48 = hi := by
    refine ⟨(((s.setFld (Reg.qmPart p) 15 0 m).setBit (Reg.qmPart p) 16 true).setFld (Reg.qmPart p) 45 32 lo).setFld (Reg.qmPart p) 61 48 hi, ?_, ?_, ?_, ?_, ?_⟩
    · have hbad : firstBad [decide (15 < p) || [].contains p, false, decide (hi < lo), decide (16383 < hi)] = none := firstBad_none fun b hb => by
        rw [decide_eq_false (by omega), decide_eq_false (by omega), decide_eq_false (by omega)] at hb
        simpa using hb
      unfold cfgTake cfgPartition
      rw [htyp]
      dsimp only
      rw [h0, h1, h2, h4, h6, hbad, if_neg (not_not_intro rfl)]
      rfl
    · exact .trans (.trans (.trans (logs_setPart s 15 m (by decide)) (logs_setPart _ 16 _ (by decide))) (logs_setPart _ 45 lo (by decide)))
        (logs_setPart _ 61 hi (by decide))
    · rw [fld_setFld_beside _ _ (by decide) (by decide) (by decide) (by decide) (by decide),
        fld_setFld_beside _ _ (by decide) (by decide) (by decide) (by decide) (by decide), State.setBit,
        fld_setFld_beside _ _ (by decide) (by decide) (by decide) (by decide) (by decide), fld_setFld_self _ (by decide) (by decide)]
      exact Nat.mod_eq_of_lt hm
    · rw [fld_setFld_beside _ _ (by decide) (by decide) (by decide) (by decide) (by decide), fld_setFld_self _ (by decide) (by decide)]
      exact Nat.mod_eq_of_lt (lt_of_le_of_lt hlo hhi)
    · rw [fld_setFld_self _ (by decide) (by decide)]
      exact Nat.mod_eq_of_lt hhi
  obtain ⟨w, htake, hlog, h15, h45, h61⟩ := hset
  have honly : ∀ p < 16, (List.range 16).filter [p].contains = [p] := by decide
  have hsettle : settleParts { s := w, parts := [p], applied := 0 + 1 } = { s := coresOf [p] 0 w, parts := [p], applied := 0 + 1 } := by
    unfold settleParts
    dsimp only
    rw [List.isEmpty_cons, if_neg Bool.false_ne_true]
    dsimp only
    rw [honly p hp]
  obtain ⟨hcores, hpart⟩ := coresOf_singleton p w
  have hcaps : w.fld Reg.glbCaps2 31 16 = s.fld Reg.glbCaps2 31 16 := hlog.fld_eq (by show ¬ Reg.glbCaps2 = Reg.qmPart p; unfold Reg.glbCaps2 Reg.qmPart; omega) 31
  rw [cfgApply_partition s htyp, cfgStep_applied hok htake]
  dsimp only
  rw [hsettle, settleCycle_none rfl]
  rw [h15, h45, h61, hcaps] at hpart
  exact ⟨rfl, rfl, hlog.trans hcores, hpart⟩

/-- An empty table holds for every cycle. -/
theorem tableOk_nil {s : State} (h : s.qm.slots = []) (n : Nat) : tableOk s n = true := by
  unfold tableOk
  rw [h]
  simp

/-- A sound CYCLE alone, with no slots. -/
theorem cfgApply_cycle_result (s : State) {v : Tlv} {n ph : Nat} (hok : v.broken [v] = false) (htyp : v.typ = 5) (hval : v.val = leBytes 4 n ++ leBytes 4 ph)
    (hn0 : 0 < n) (hn : n ≤ 100000) (hph : ph < n) (hslots : s.qm.slots = []) :
    (cfgApply [v] s).applied = 1 ∧ (cfgApply [v] s).rejected = 0 ∧ (cfgApply [v] s).s.fld Reg.qmCycle 16 0 = n ∧
      (cfgApply [v] s).s.fld Reg.qmCycle 48 32 = ph := by
  have h0 : leAt v.val 0 4 = n := (leAt_field (a := []) (by simp only [hval, List.nil_append]; rfl) rfl).trans (Nat.mod_eq_of_lt (by omega))
  have h4 : leAt v.val 4 4 = ph := (leAt_field (a := leBytes 4 n) (c := []) (by simp only [hval, List.append_nil]) rfl).trans (Nat.mod_eq_of_lt (by omega))
  have hbad : firstBad [decide (100000 < n), if n = 0 then ph != 0 else decide (n ≤ ph)] = none := firstBad_none fun b hb => by
    rw [decide_eq_false (by omega), if_neg (by omega), decide_eq_false (by omega)] at hb
    simpa using hb
  obtain ⟨u, heq, hlog, -⟩ := settleParts_default s
  have hslots' : u.qm.slots = [] := (congrArg (fun x : State => x.qm.slots) hlog.2 :).trans hslots
  have htake : cfgTake [v] { s := u, parts := [0] } v = ({ s := u, parts := [0], cycle := some v }, none) := by
    rw [cfgTake_cycle _ _ htyp]
    unfold cfgCycle
    dsimp only
    rw [h0, h4, hbad]
  have hcycle : settleCycle { s := u, parts := [0], cycle := some v, applied := 0 + 1 } =
      { s := (u.setFld Reg.qmCycle 16 0 n).setFld Reg.qmCycle 48 32 ph, parts := [0], cycle := some v, applied := 0 + 1 } := by
    unfold settleCycle
    dsimp only
    rw [h0, h4, if_pos (.inr (tableOk_nil hslots' n))]
  rw [cfgApply_cycle s htyp, heq, cfgStep_applied hok htake, hcycle]
  dsimp only
  refine ⟨rfl, rfl, ?_, ?_⟩
  · rw [fld_setFld_beside _ _ (by decide) (by decide) (by decide) (by decide) (by decide), fld_setFld_self _ (by decide) (by decide)]
    exact Nat.mod_eq_of_lt (Nat.lt_of_le_of_lt hn (by norm_num))
  · rw [fld_setFld_self _ (by decide) (by decide)]
    exact Nat.mod_eq_of_lt (Nat.lt_trans hph (Nat.lt_of_le_of_lt hn (by norm_num)))

/-- A sound POWER alone. -/
theorem cfgApply_power_result (s : State) {v : Tlv} {c f : Nat} (hok : v.broken [v] = false) (htyp : v.typ = 7)
    (hval : v.val = leBytes 2 c ++ leBytes 2 f ++ leBytes 4 0) (hc1 : 2500 ≤ c) (hc2 : c ≤ 7500) (hf1 : 300 ≤ f) (hf2 : f ≤ 900) (hf : f % 25 = 0) :
    (cfgApply [v] s).applied = 1 ∧ (cfgApply [v] s).rejected = 0 ∧ (cfgApply [v] s).s.fld Reg.pwrPower 47 32 = c ∧
      (cfgApply [v] s).s.pwr = { s.pwr with fCeil := f } := by
  have h0 : leAt v.val 0 2 = c := (leAt_field (a := []) (by simp only [hval, List.nil_append, List.append_assoc]; rfl) rfl).trans (Nat.mod_eq_of_lt (by omega))
  have h2 : leAt v.val 2 2 = f := (leAt_field (a := leBytes 2 c) (by simp only [hval, List.append_assoc]; rfl) rfl).trans (Nat.mod_eq_of_lt (by omega))
  have h4 : leAt v.val 4 4 = 0 := leAt_field (a := leBytes 2 c ++ leBytes 2 f) (x := 0) (c := []) (by simp only [hval, List.append_nil]) rfl
  have hbad : firstBad [decide (c < 2500 ∨ 7500 < c), decide (f < 300 ∨ 900 < f) || f % 25 != 0] = none := firstBad_none fun b hb => by
    rw [decide_eq_false (by omega), decide_eq_false (by omega), hf] at hb
    simpa using hb
  obtain ⟨u, heq, hlog, -⟩ := settleParts_default s
  have hpwr : u.pwr = s.pwr := (congrArg State.pwr hlog.2 :)
  have htake : cfgTake [v] { s := u, parts := [0] } v =
      ({ s := { u with pwr := { u.pwr with fCeil := f } }.setFld Reg.pwrPower 47 32 c, parts := [0] }, none) := by
    rw [cfgTake_power _ _ htyp]
    unfold cfgPower Applying.take
    dsimp only
    rw [h0, h2, h4, hbad, if_neg (not_not_intro rfl)]
  rw [cfgApply_power s htyp, heq, settleCycle_none rfl, cfgStep_applied hok htake]
  dsimp only
  refine ⟨rfl, rfl, ?_, ?_⟩
  · rw [fld_setFld_self _ (by decide) (by decide)]
    exact Nat.mod_eq_of_lt (Nat.lt_of_le_of_lt hc2 (by norm_num))
  · rw [setFld_pwr, hpwr]

/-! ### SEC_CFGINFO -/

/-- The ceiling of the start. -/
def ceil900 (s : State) : State := { s with pwr := { s.pwr with fCeil := 900 } }

/-- SEC_CFGINFO of a block that was taken. -/
def cfgInfo (src applied rejected id : Nat) (s : State) : State :=
  ((((s.setFld Reg.secCfginfo 1 0 src).setBit Reg.secCfginfo 2 true).setFld Reg.secCfginfo 27 16 (min applied 4095)).setFld Reg.secCfginfo 39 28 (min rejected 4095)).setFld
    Reg.secCfginfo 63 40 id

theorem configure_none {s : State} (h : s.boot.cfgSource = 0 ∨ cfgBlock s.boot.cfgCopy = none) :
    configure s = (cfgApply [] (ceil900 s)).s.setFld Reg.secCfginfo 1 0 0 := by
  have hblock : (if s.boot.cfgSource = 0 then none else cfgBlock s.boot.cfgCopy) = none := by
    split
    · rfl
    next hn => exact h.resolve_left hn
  unfold configure
  dsimp only
  rw [hblock]
  rfl

theorem configure_some {s : State} {ts : List Tlv} (h0 : s.boot.cfgSource ≠ 0) (h : cfgBlock s.boot.cfgCopy = some ts) :
    ∃ id, configure s = cfgInfo s.boot.cfgSource.toNat (cfgApply ts (ceil900 s)).applied (cfgApply ts (ceil900 s)).rejected id (cfgApply ts (ceil900 s)).s := by
  refine ⟨leAt (cfgApply ts (ceil900 s)).s.boot.cfgCopy 12 4, ?_⟩
  unfold configure
  dsimp only
  rw [if_neg h0, h]
  rfl

/-- SEC_CFGINFO says that a block of one TLV was taken from a source. -/
structure TookOne (src : Nat) (s : State) : Prop where
  source : s.fld Reg.secCfginfo 1 0 = src
  valid : s.bit Reg.secCfginfo 2 = true
  applied : s.fld Reg.secCfginfo 27 16 = 1
  rejected : s.fld Reg.secCfginfo 39 28 = 0

theorem TookOne.of_reg {src : Nat} {s t : State} (h : TookOne src s) (hr : t.reg Reg.secCfginfo = s.reg Reg.secCfginfo) : TookOne src t :=
  ⟨(fld_of_reg _ 1 0 hr).trans h.source, (bit_of_reg _ 2 hr).trans h.valid, (fld_of_reg _ 27 16 hr).trans h.applied, (fld_of_reg _ 39 28 hr).trans h.rejected⟩

theorem tookOne_cfgInfo (s : State) {src : Nat} (h : src < 4) (id : Nat) : TookOne src (cfgInfo src 1 0 id s) := by
  unfold cfgInfo
  refine ⟨?_, ?_, ?_, ?_⟩
  · rw [fld_setFld_beside _ _ (by decide) (by decide) (by decide) (by decide) (by decide),
      fld_setFld_beside _ _ (by decide) (by decide) (by decide) (by decide) (by decide),
      fld_setFld_beside _ _ (by decide) (by decide) (by decide) (by decide) (by decide), State.setBit,
      fld_setFld_beside _ _ (by decide) (by decide) (by decide) (by decide) (by decide), fld_setFld_self _ (by decide) (by decide)]
    exact Nat.mod_eq_of_lt h
  · unfold State.bit
    rw [fld_setFld_beside _ _ (by decide) (by decide) (by decide) (by decide) (by decide),
      fld_setFld_beside _ _ (by decide) (by decide) (by decide) (by decide) (by decide),
      fld_setFld_beside _ _ (by decide) (by decide) (by decide) (by decide) (by decide)]
    exact bit_setBit_self ..
  · rw [fld_setFld_beside _ _ (by decide) (by decide) (by decide) (by decide) (by decide),
      fld_setFld_beside _ _ (by decide) (by decide) (by decide) (by decide) (by decide), fld_setFld_self _ (by decide) (by decide)]
    rfl
  · rw [fld_setFld_beside _ _ (by decide) (by decide) (by decide) (by decide) (by decide), fld_setFld_self _ (by decide) (by decide)]
    rfl

theorem logs_cfgInfo (src applied rejected id : Nat) (s : State) : Logs (· = Reg.secCfginfo) s (cfgInfo src applied rejected id s) := by
  have hset : ∀ (u : State) hi lo v, lo < 64 → Logs (· = Reg.secCfginfo) u (u.setFld Reg.secCfginfo hi lo v) := fun u hi lo v hlo =>
    logs_setFld (fieldKey_of_lt hlo Reg.secCfginfo) u hi v
  exact .trans (.trans (.trans (.trans (hset s 1 0 _ (by decide)) (hset _ 2 2 _ (by decide))) (hset _ 27 16 _ (by decide))) (hset _ 39 28 _ (by decide)))
    (hset _ 63 40 _ (by decide))

theorem logs_twinConfigured (s : State) : Logs (· = Reg.relTwin) s (twinConfigured s) := by
  have hset : ∀ v, Logs (· = Reg.relTwin) s (s.setFld Reg.relTwin 3 2 v) := fun v => logs_setFld (fieldKey_of_lt (by decide) Reg.relTwin) s 3 v
  unfold twinConfigured
  dsimp only
  exact .ite (.trans (hset _) (.ite (.refl _) (logs_reportUnnamed ..))) (.refl s)

/-! ### From the configuration to the end of the start -/

/-- The registers that move after the TLVs. -/
def lateRegs : List Nat := Reg.secCfginfo :: Reg.relTwin :: mainRegs

/-- After the TLVs other registers stay, and the loops start. -/
theorem mainStart_of_configure {s c y : State} (h : s.boot.step = 8) (hc : configure s = c) (hlog : Logs (· = Reg.secCfginfo) y c) :
    (∀ k, k ∉ lateRegs → (mainStart s).reg k = y.reg k) ∧ (mainStart s).reg Reg.secCfginfo = c.reg Reg.secCfginfo ∧ (mainStart s).pwr = (startLoops y).pwr := by
  have hend := mainEnded_mainEnd (twinConfigured c)
  have htwin := logs_twinConfigured c
  rw [mainStart_eq h, hc]
  generalize mainEnd (twinConfigured c) = t at hend
  generalize twinConfigured c = u at hend htwin
  have hpwr : u.pwr = y.pwr := (congrArg State.pwr htwin.2 :).trans (congrArg State.pwr hlog.2 :)
  refine ⟨fun k hk => ?_, (hend.regs _ (by decide)).trans (htwin.1 _ (by decide)), ?_⟩
  · obtain ⟨h1, h2, h3⟩ : k ≠ Reg.secCfginfo ∧ k ≠ Reg.relTwin ∧ k ∉ mainRegs := by simpa [lateRegs] using hk
    rw [hend.regs k h3, htwin.1 k h2, hlog.1 k h1]
  · rw [hend.pwr]
    unfold startLoops
    rw [hpwr]

theorem qmPart_not_late {p : Nat} (h : p < 16) : Reg.qmPart p ∉ lateRegs := by
  have hrange : ∀ k ∈ lateRegs, k < 0x20100 ∨ 0x20180 ≤ k := by decide
  intro hk
  have := hrange _ hk
  unfold Reg.qmPart at this
  omega

/-- A start whose block has one TLV, which was applied. -/
theorem mainStart_of_one {s : State} {v : Tlv} (h : s.boot.step = 8) (h0 : s.boot.cfgSource ≠ 0) (hblock : cfgBlock s.boot.cfgCopy = some [v])
    (happ : (cfgApply [v] (ceil900 s)).applied = 1) (hrej : (cfgApply [v] (ceil900 s)).rejected = 0) :
    TookOne s.boot.cfgSource.toNat (mainStart s) ∧ (∀ k, k ∉ lateRegs → (mainStart s).reg k = (cfgApply [v] (ceil900 s)).s.reg k) ∧
      (mainStart s).pwr = (startLoops (cfgApply [v] (ceil900 s)).s).pwr := by
  obtain ⟨id, heq⟩ := configure_some h0 hblock
  rw [happ, hrej] at heq
  obtain ⟨hreg, hinfo, hpwr⟩ := mainStart_of_configure h heq (logs_cfgInfo ..)
  exact ⟨(tookOne_cfgInfo _ s.boot.cfgSource.isLt id).of_reg hinfo, hreg, hpwr⟩

end Sys2Proof.Machine
end

section
/-!
SUPPORT. What the start of main firmware leaves with no block, and with a block of one TLV (R378, R381, R382, R411).
-/
namespace Sys2Proof.Machine

theorem pwr_of_logs {P : Nat → Prop} {s t : State} (h : Logs P s t) : t.pwr = s.pwr := (congrArg State.pwr h.2 :)

theorem fld_ceil900 (s : State) (k hi lo : Nat) : (ceil900 s).fld k hi lo = s.fld k hi lo := fld_congr (with_pwr_regs ..) k hi lo
theorem reg_ceil900 (s : State) (k : Nat) : (ceil900 s).reg k = s.reg k := reg_congr (with_pwr_regs ..) k
theorem fCeil_startLoops (s : State) : (startLoops s).pwr.fCeil = s.pwr.fCeil := rfl
theorem fCeil_ceil900 (s : State) : (ceil900 s).pwr.fCeil = 900 := rfl

section
variable {s : State} (h : s.boot.step = 8)
include h

/-- With no block the defaults are in force. -/
theorem mainStart_default (hnone : s.boot.cfgSource = 0 ∨ cfgBlock s.boot.cfgCopy = none) :
    (mainStart s).fld Reg.secCfginfo 1 0 = 0 ∧ (mainStart s).pwr.fCeil = 900 ∧ PartitionIs 0 (s.fld Reg.glbCaps2 31 16) 0 16383 (mainStart s) ∧
      ∀ k, k ∉ lateRegs → k ≠ Reg.qmPart 0 → (mainStart s).reg k = s.reg k := by
  obtain ⟨hlog, hpart⟩ := cfgApply_nil_result (ceil900 s)
  rw [fld_ceil900] at hpart
  have heq := configure_none hnone
  generalize (cfgApply [] (ceil900 s)).s = y at hlog hpart heq
  obtain ⟨hreg, hinfo, hpwr⟩ := mainStart_of_configure h heq (logs_setFld (fieldKey_of_lt (by decide) Reg.secCfginfo) y 1 0)
  have hy : y.pwr = (ceil900 s).pwr := pwr_of_logs hlog
  refine ⟨?_, ?_, hpart.of_reg (hreg _ (qmPart_not_late (by decide))), fun k hk hk0 => (hreg k hk).trans ((hlog.1 k hk0).trans (reg_ceil900 s k))⟩
  · rw [fld_of_reg Reg.secCfginfo 1 0 hinfo, fld_setFld_self _ (by decide) (by decide)]
    rfl
  · rw [hpwr, fCeil_startLoops, hy, fCeil_ceil900]

variable {v : Tlv} (h0 : s.boot.cfgSource ≠ 0) (hblock : cfgBlock s.boot.cfgCopy = some [v]) (hok : v.broken [v] = false)
include h0 hblock hok

/-- POWER brings its cap and its ceiling. -/
theorem mainStart_power {c f : Nat} (htyp : v.typ = 7) (hval : v.val = leBytes 2 c ++ leBytes 2 f ++ leBytes 4 0) (hc1 : 2500 ≤ c) (hc2 : c ≤ 7500)
    (hf1 : 300 ≤ f) (hf2 : f ≤ 900) (hf : f % 25 = 0) :
    TookOne s.boot.cfgSource.toNat (mainStart s) ∧ (mainStart s).fld Reg.pwrPower 47 32 = c ∧ (mainStart s).pwr.fCeil = f ∧
      (s.pwr.heldLoops = 0 → (mainStart s).pwr.fReq = f) := by
  obtain ⟨happ, hrej, hcap, hpwr⟩ := cfgApply_power_result (ceil900 s) hok htyp hval hc1 hc2 hf1 hf2 hf
  obtain ⟨htook, hreg, hend⟩ := mainStart_of_one h h0 hblock happ hrej
  refine ⟨htook, (fld_of_reg _ 47 32 (hreg _ (by decide))).trans hcap, ?_, fun hheld => ?_⟩
  · rw [hend, startLoops, hpwr]
  · rw [hend, startLoops, hpwr]
    exact if_pos hheld

/-- PARTITION brings its cores in service and its semaphores. -/
theorem mainStart_partition {p m lo hi : Nat} (htyp : v.typ = 1)
    (hval : v.val = leBytes 1 p ++ leBytes 1 0 ++ leBytes 2 m ++ leBytes 2 lo ++ leBytes 2 hi) (hp : p < 16) (hm : m < 2 ^ 16) (hlo : lo ≤ hi) (hhi : hi < 16384) :
    TookOne s.boot.cfgSource.toNat (mainStart s) ∧ PartitionIs p (m &&& s.fld Reg.glbCaps2 31 16) lo hi (mainStart s) := by
  obtain ⟨happ, hrej, -, hpart⟩ := cfgApply_partition_result (ceil900 s) hok htyp hval hp hm hlo hhi
  rw [fld_ceil900] at hpart
  obtain ⟨htook, hreg, -⟩ := mainStart_of_one h h0 hblock happ hrej
  exact ⟨htook, hpart.of_reg (hreg _ (qmPart_not_late hp))⟩

/-- CYCLE brings its length and its phase. -/
theorem mainStart_cycle {n ph : Nat} (htyp : v.typ = 5) (hval : v.val = leBytes 4 n ++ leBytes 4 ph) (hn0 : 0 < n) (hn : n ≤ 100000) (hph : ph < n)
    (hslots : s.qm.slots = []) :
    TookOne s.boot.cfgSource.toNat (mainStart s) ∧ (mainStart s).fld Reg.qmCycle 16 0 = n ∧ (mainStart s).fld Reg.qmCycle 48 32 = ph := by
  obtain ⟨happ, hrej, h16, h48⟩ := cfgApply_cycle_result (ceil900 s) hok htyp hval hn0 hn hph hslots
  obtain ⟨htook, hreg, -⟩ := mainStart_of_one h h0 hblock happ hrej
  exact ⟨htook, (fld_of_reg _ 16 0 (hreg _ (by decide))).trans h16, (fld_of_reg _ 48 32 (hreg _ (by decide))).trans h48⟩

end

end Sys2Proof.Machine
end

section
open Sys2Proof Sys2Proof.Machine

/-- Settles O14: whatever the block holds, the end of the start sets READY and queues the message; the registers of the configuration are not among
those that it moves, so they hold what the defaults, or the one TLV, brought. -/
theorem mainFirmwareSetsReady : Obligations.MainFirmwareSetsReady := by
  unfold Obligations.MainFirmwareSetsReady
  refine fun s hup => ⟨fun h => ⟨keepQueue s (mainStart s), exec_mainFwStart hup, ?_⟩, exec_mainFwStart_other hup⟩
  have hend := mainEnded_mainEnd (twinConfigured (configure s))
  rw [← mainStart_eq h] at hend
  have hended := hend.keepQueue s
  refine ⟨hended.step, hended.ready, hended.stage, hended.window, hended.mail, hended.waiting, hended.message, fun hnone => ?_, fun v h0 hblock hok => ?_⟩
  · obtain ⟨hsrc, hceil, hpart, hreg⟩ := mainStart_default h hnone
    simp only [fld_keepQueue, bit_keepQueue, keepQueue_pwr, reg_keepQueue]
    refine ⟨hsrc, hceil, hreg _ (by decide) (by decide), hreg _ (by decide) (by decide), hpart.cores, hpart.enabled, hpart.first, hpart.last,
      fun p h1 hp => hreg _ (qmPart_not_late hp) ?_, fld_of_reg _ 47 32 (hreg _ (by decide) (by decide))⟩
    unfold Reg.qmPart
    omega
  · simp only [fld_keepQueue, bit_keepQueue, keepQueue_pwr]
    refine ⟨fun c f htyp hval hc1 hc2 hf1 hf2 hf => ?_, fun p m lo hi htyp hval hp hm hlo hhi => ?_, fun n ph htyp hval hn0 hn hph hslots => ?_⟩
    · obtain ⟨htook, hrest⟩ := mainStart_power h h0 hblock hok htyp hval hc1 hc2 hf1 hf2 hf
      exact ⟨⟨htook.source, htook.valid, htook.applied, htook.rejected⟩, hrest⟩
    · obtain ⟨htook, hpart⟩ := mainStart_partition h h0 hblock hok htyp hval hp hm hlo hhi
      exact ⟨⟨htook.source, htook.valid, htook.applied, htook.rejected⟩, hpart.cores, hpart.enabled, hpart.first, hpart.last⟩
    · obtain ⟨htook, hrest⟩ := mainStart_cycle h h0 hblock hok htyp hval hn0 hn hph hslots
      exact ⟨⟨htook.source, htook.valid, htook.applied, htook.rejected⟩, hrest⟩

end

section
/-!
Every command ends in a next state, keeps the commands behind it and the canonical form; so does every step (log 5, log 9). Reads after writes
of device memory.
-/
namespace Sys2Proof.Machine

/-! ### The queue of commands -/

/-- Whatever a command does, it is done by `always`, so it ends in a next state with the queue put back. -/
theorem exec_next (c : Instr) (s : State) : ∃ t, exec c s = .next (keepQueue s t) := by
  cases c <;> exact ⟨_, rfl⟩

theorem exec_keeps_pending (c : Instr) (s : State) : ∃ t, exec c s = .next t ∧ t.pending = s.pending := by
  obtain ⟨t, ht⟩ := exec_next c s
  exact ⟨_, ht, rfl⟩

/-- With a command at the front, a step takes it from the queue and leaves the rest. -/
theorem step_pops {s : State} {c : Instr} {cs : List Instr} (h : s.pending = c :: cs) : ∃ t, step s = .next t ∧ t.pending = cs := by
  unfold step
  rw [h]
  exact exec_keeps_pending c { s with pending := cs }

theorem run_succ_of_step {M : Host.Core} {s t : M.State} (h : M.step s = .next t) (k : Nat) : M.run (k + 1) s = M.run k t := by
  rw [Host.Core.run, h]

/-- As many steps as commands wait, or fewer, take one command each. -/
theorem run_drops (k : Nat) (s : State) (h : k ≤ s.pending.length) :
    ∃ t, Host.Core.run Sys2Proof.core k s = .next t ∧ t.pending = s.pending.drop k := by
  induction k generalizing s with
  | zero => exact ⟨s, rfl, rfl⟩
  | succ k ih =>
    match hp : s.pending with
    | [] => simp [hp] at h
    | c :: cs =>
      obtain ⟨u, hstep, hu⟩ := step_pops hp
      obtain ⟨t, hrun, ht⟩ := ih u (by simpa [hp, hu] using h)
      exact ⟨t, (run_succ_of_step (M := Sys2Proof.core) hstep k).trans hrun, by rw [ht, hu, List.drop_succ_cons]⟩

/-! ### The canonical form -/

/-- Each command keeps the canonical form, as its meaning does. -/
theorem canon_exec {s : State} (hs : Canon s) : ∀ c : Instr, OutCanon (exec c s)
  | .porAssert lowNs => canon_execPorAssert lowNs s hs
  | .porRelease bootSrc twinRole smbAddr => canon_execPorRelease bootSrc twinRole smbAddr s hs
  | .perstAssert lowNs => canon_execPerstAssert lowNs s hs
  | .perstRelease => canon_execPerstRelease s hs
  | .aonBrownout lowNs => canon_execAonBrownout lowNs s hs
  | .refclkLoss quietNs => canon_execRefclkLoss quietNs s hs
  | .refclkReturn bootSrc twinRole smbAddr => canon_execRefclkReturn bootSrc twinRole smbAddr s hs
  | .resetRelease => canon_execResetRelease s hs
  | .stage0Start off found => canon_execStage0Start off found s hs
  | .stage1Start p => canon_execStage1Start p s hs
  | .containerBlockLanded => canon_execContainerBlockLanded s hs
  | .mainFwStart => canon_execMainFwStart s hs
  | .pushS1 fn => canon_execPushS1 fn s hs
  | .pushFw fn => canon_execPushFw fn s hs
  | .pushCfg fn => canon_execPushCfg fn s hs
  | .linkTrained speed width => canon_execLinkTrained speed width s hs
  | .linkDown => canon_execLinkDown s hs
  | .hotReset => canon_execHotReset s hs
  | .vfFlr vf => canon_execVfFlr vf s hs
  | .pfFlr => canon_execPfFlr s hs
  | .bar2Resize gib => canon_execBar2Resize gib s hs
  | .bar2Read fn off len => canon_execBar2Read fn off len s hs
  | .bar2Write fn off data => canon_execBar2Write fn off data s hs
  | .bar0HalfWrite fn off value => canon_execBar0HalfWrite fn off value s hs
  | .bar0HalfRead fn off => canon_execBar0HalfRead fn off s hs
  | .registerWrite fn off data => canon_execRegisterWrite fn off data s hs
  | .rcRead fn off len => canon_execRcRead fn off len s hs
  | .glbTimeWrite fn ns => canon_execGlbTimeWrite fn ns s hs
  | .ppsEdge => canon_execPpsEdge s hs
  | .ppsHoldEnd => canon_execPpsHoldEnd s hs
  | .ppsLockLost => canon_execPpsLockLost s hs
  | .msixUnmask fn vector => canon_execMsixUnmask fn vector s hs
  | .mailDoorbell fn => canon_execMailDoorbell fn s hs
  | .f2hPost => canon_execF2hPost s hs
  | .hello => canon_execHello s hs
  | .ping => canon_execPing s hs
  | .quote => canon_execQuote s hs
  | .cert => canon_execCert s hs
  | .eventLog => canon_execEventLog s hs
  | .extend => canon_execExtend s hs
  | .updateLoad => canon_execUpdateLoad s hs
  | .updateCommit => canon_execUpdateCommit s hs
  | .updateAbort => canon_execUpdateAbort s hs
  | .stage1Write => canon_execStage1Write s hs
  | .nvmWrite => canon_execNvmWrite s hs
  | .newImageLoopsStarted => canon_execNewImageLoopsStarted s hs
  | .handoverTimeout => canon_execHandoverTimeout s hs
  | .setCap => canon_execSetCap s hs
  | .setAclkMax => canon_execSetAclkMax s hs
  | .idleEnter => canon_execIdleEnter s hs
  | .idleExit => canon_execIdleExit s hs
  | .wakeDone => canon_execWakeDone s hs
  | .smbIdentity pec => canon_execSmbIdentity pec s hs
  | .smbStatus pec => canon_execSmbStatus pec s hs
  | .smbTemp pec => canon_execSmbTemp pec s hs
  | .smbTempAll pec => canon_execSmbTempAll pec s hs
  | .smbPower pec => canon_execSmbPower pec s hs
  | .smbPowerCap pec => canon_execSmbPowerCap pec s hs
  | .smbEmberTail pec => canon_execSmbEmberTail pec s hs
  | .smbReplace pec => canon_execSmbReplace pec s hs
  | .d2dFlitRetry link => canon_execD2dFlitRetry link s hs
  | .moduleFailed link => canon_execModuleFailed link s hs
  | .edcFailure addr write failed => canon_execEdcFailure addr write failed s hs
  | .edcRetrainDone addr trained ok => canon_execEdcRetrainDone addr trained ok s hs
  | .gddr6Read addr found => canon_execGddr6Read addr found s hs
  | .splitWindowEnd channel reads writes remotes => canon_execSplitWindowEnd channel reads writes remotes s hs
  | .walkDone core va => canon_execWalkDone core va s hs
  | .invPartition fn part => canon_execInvPartition fn part s hs
  | .invRange fn part => canon_execInvRange fn part s hs
  | .invSlot fn part slot => canon_execInvSlot fn part slot s hs
  | .invDone => canon_execInvDone s hs
  | .mmuCommit fn => canon_execMmuCommit fn s hs
  | .queueDoorbell fn off data => canon_execQueueDoorbell fn off data s hs
  | .enable fn q => canon_execEnable fn q s hs
  | .disable fn q => canon_execDisable fn q s hs
  | .queueDisabled q => canon_execQueueDisabled q s hs
  | .cancel fn q => canon_execCancel fn q s hs
  | .cancelDrained q => canon_execCancelDrained q s hs
  | .resume fn q => canon_execResume fn q s hs
  | .resumeSkip fn q => canon_execResumeSkip fn q s hs
  | .semopAdd fn sem value => canon_execSemopAdd fn sem value s hs
  | .semopSet fn sem value => canon_execSemopSet fn sem value s hs
  | .descriptorFetch q => canon_execDescriptorFetch q s hs
  | .descriptorRefuse q => canon_execDescriptorRefuse q s hs
  | .dNop q => canon_execDNop q s hs
  | .dWait q => canon_execDWait q s hs
  | .dSignal q => canon_execDSignal q s hs
  | .dFence q => canon_execDFence q s hs
  | .dBarrier q => canon_execDBarrier q s hs
  | .dRepeat q => canon_execDRepeat q s hs
  | .dLoadb q => canon_execDLoadb q s hs
  | .dCopy q => canon_execDCopy q s hs
  | .dPrefetch q => canon_execDPrefetch q s hs
  | .dGather q => canon_execDGather q s hs
  | .dScatter q => canon_execDScatter q s hs
  | .dMatmul q => canon_execDMatmul q s hs
  | .dMatvec q => canon_execDMatvec q s hs
  | .dConv q => canon_execDConv q s hs
  | .dConvw q => canon_execDConvw q s hs
  | .dDwconv q => canon_execDDwconv q s hs
  | .dDist q => canon_execDDist q s hs
  | .dElem q => canon_execDElem q s hs
  | .dPload q => canon_execDPload q s hs
  | .dReduce q => canon_execDReduce q s hs
  | .dAttn q => canon_execDAttn q s hs
  | .aheadRequest core => canon_execAheadRequest core s hs
  | .localSteal core => canon_execLocalSteal core s hs
  | .remoteSteal core victim => canon_execRemoteSteal core victim s hs
  | .tileDrain core bank => canon_execTileDrain core bank s hs
  | .elemBatch core => canon_execElemBatch core s hs
  | .widenRerun part => canon_execWidenRerun part s hs
  | .descriptorFinish part slot => canon_execDescriptorFinish part slot s hs
  | .descriptorComplete q => canon_execDescriptorComplete q s hs
  | .waitTimeout q => canon_execWaitTimeout q s hs
  | .partitionStall part => canon_execPartitionStall part s hs
  | .attnBlockRead hearth => canon_execAttnBlockRead hearth s hs
  | .attnBlockArrive hearth => canon_execAttnBlockArrive hearth s hs
  | .attnBlockAbsorb core => canon_execAttnBlockAbsorb core s hs
  | .attnMerge core => canon_execAttnMerge core s hs
  | .cycleStart => canon_execCycleStart s hs
  | .quietPeriodStart slot => canon_execQuietPeriodStart slot s hs
  | .slotStart slot => canon_execSlotStart slot s hs
  | .slotEnd slot => canon_execSlotEnd slot s hs
  | .mediaOpen fn h => canon_execMediaOpen fn h s hs
  | .mediaOpenEnc fn h => canon_execMediaOpenEnc fn h s hs
  | .mediaClose fn h => canon_execMediaClose fn h s hs
  | .mediaFlush fn h => canon_execMediaFlush fn h s hs
  | .mediaSkipToRap fn h => canon_execMediaSkipToRap fn h s hs
  | .mediaForceIdr fn h => canon_execMediaForceIdr fn h s hs
  | .mediaDoorbell fn h value ends => canon_execMediaDoorbell fn h value ends s hs
  | .auParseStart h engine => canon_execAuParseStart h engine s hs
  | .auParseDone h r => canon_execAuParseDone h r s hs
  | .reconDecision h => canon_execReconDecision h s hs
  | .pixelFrameStart h pipe buf refs => canon_execPixelFrameStart h pipe buf refs s hs
  | .reconDone h pipe r => canon_execReconDone h pipe r s hs
  | .frameEmit h buf => canon_execFrameEmit h buf s hs
  | .mediaCommit fn => canon_execMediaCommit fn s hs
  | .releaseOut fn buf => canon_execReleaseOut fn buf s hs
  | .releaseHold fn buf => canon_execReleaseHold fn buf s hs
  | .reconReq fn h next num => canon_execReconReq fn h next num s hs
  | .encodeSubmit fn h value => canon_execEncodeSubmit fn h value s hs
  | .encodeFrameStart h pipe recon => canon_execEncodeFrameStart h pipe recon s hs
  | .encodePassDone h bytes luma chroma => canon_execEncodePassDone h bytes luma chroma s hs
  | .capCommit fn => canon_execCapCommit fn s hs
  | .frameStartPacket port vc hdr => canon_execFrameStartPacket port vc hdr s hs
  | .longPacket port vc dt hdr crcOk full payload => canon_execLongPacket port vc dt hdr crcOk full payload s hs
  | .frameEndPacket port vc hdr => canon_execFrameEndPacket port vc hdr s hs
  | .ispFrameDone sensor colours medians filtered => canon_execIspFrameDone sensor colours medians filtered s hs
  | .fsyncWordA fn n value => canon_execFsyncWordA fn n value s hs
  | .fsyncWordB fn n value => canon_execFsyncWordB fn n value s hs
  | .fsyncAssert n => canon_execFsyncAssert n s hs
  | .fsyncDeassert n => canon_execFsyncDeassert n s hs
  | .shapeRingWrite fn p value => canon_execShapeRingWrite fn p value s hs
  | .shapeDoorbell fn p tail => canon_execShapeDoorbell fn p tail s hs
  | .shapeOpStart p => canon_execShapeOpStart p s hs
  | .shapeOpDone => canon_execShapeOpDone s hs
  | .jpegDone c id r => canon_execJpegDone c id r s hs
  | .ingestEnable fn c value => canon_execIngestEnable fn c value s hs
  | .ingestDisable fn c => canon_execIngestDisable fn c s hs
  | .ingestDoorbell fn c write => canon_execIngestDoorbell fn c write s hs
  | .ingestEos fn c write => canon_execIngestEos fn c write s hs
  | .slotDone fn c n => canon_execSlotDone fn c n s hs
  | .rowDone fn c n => canon_execRowDone fn c n s hs
  | .recordHeader c => canon_execRecordHeader c s hs
  | .sampleDispatch c id => canon_execSampleDispatch c id s hs
  | .sampleFinish c id => canon_execSampleFinish c id s hs
  | .sampleSlow c id => canon_execSampleSlow c id s hs
  | .batchDeadline c => canon_execBatchDeadline c s hs
  | .bind fn h => canon_execBind fn h s hs
  | .unbind fn h => canon_execUnbind fn h s hs
  | .clear fn h => canon_execClear fn h s hs
  | .trackRingWrite fn p value => canon_execTrackRingWrite fn p value s hs
  | .trackDoorbell fn p tail => canon_execTrackDoorbell fn p tail s hs
  | .predict p => canon_execPredict p s hs
  | .associate p => canon_execAssociate p s hs
  | .trackMdb fn h consumed => canon_execTrackMdb fn h consumed s hs
  | .pipeFrameStart k => canon_execPipeFrameStart k s hs
  | .pipeShaped k => canon_execPipeShaped k s hs
  | .pipeChainDone k => canon_execPipeChainDone k s hs
  | .pipeFrameEnd k => canon_execPipeFrameEnd k s hs
  | .pipeTimeout k => canon_execPipeTimeout k s hs
  | .pipeFault k => canon_execPipeFault k s hs
  | .powerWindow r => canon_execPowerWindow r s hs
  | .grantHoldEnd => canon_execGrantHoldEnd s hs
  | .capUnmet => canon_execCapUnmet s hs
  | .thermalSample h0 h1 h2 h3 m => canon_execThermalSample h0 h1 h2 h3 m s hs
  | .thermalCeilingStep => canon_execThermalCeilingStep s hs
  | .pllStepAck => canon_execPllStepAck s hs
  | .railSettled => canon_execRailSettled s hs
  | .railSettleTimeout hearth => canon_execRailSettleTimeout hearth s hs
  | .droopFire hearth => canon_execDroopFire hearth s hs
  | .droopEnd hearth => canon_execDroopEnd hearth s hs
  | .powerLoop => canon_execPowerLoop s hs
  | .marginLoop warnings => canon_execMarginLoop warnings s hs
  | .ageingCheck readings => canon_execAgeingCheck readings s hs
  | .energyTick counts => canon_execEnergyTick counts s hs
  | .cal channel => canon_execCal channel s hs
  | .retrain channel step => canon_execRetrain channel step s hs
  | .gscrub addr found endsPass => canon_execGscrub addr found endsPass s hs
  | .sscrub word found endsPass => canon_execSscrub word found endsPass s hs
  | .wear off found => canon_execWear off found s hs
  | .telem hearth => canon_execTelem hearth s hs
  | .emberWrite => canon_execEmberWrite s hs
  | .twinHelloSend => canon_execTwinHelloSend s hs
  | .twinHello ack pairId role uid echo => canon_execTwinHello ack pairId role uid echo s hs
  | .heartbeatSend => canon_execHeartbeatSend s hs
  | .heartbeat ack hb echo tick => canon_execHeartbeat ack hb echo tick s hs
  | .partnerLost ends => canon_execPartnerLost ends s hs
  | .nak ack => canon_execNak ack s hs
  | .replayTimeout => canon_execReplayTimeout s hs
  | .twinOpen seq ack cont h data => canon_execTwinOpen seq ack cont h data s hs
  | .bits seq ack h index data => canon_execBits seq ack h index data s hs
  | .pos seq ack h rap num start => canon_execPos seq ack h rap num start s hs
  | .trackFlit seq ack h ctx image => canon_execTrackFlit seq ack h ctx image s hs
  | .commit seq ack h frameSeq metaSeq nextId fin arrival => canon_execCommit seq ack h frameSeq metaSeq nextId fin arrival s hs
  | .twinClose seq ack h => canon_execTwinClose seq ack h s hs
  | .ackf seq ack h status metaSeq => canon_execAckf seq ack h status metaSeq s hs
  | .cntReset fn groups => canon_execCntReset fn groups s hs
  | .dbgMatchArm fn value => canon_execDbgMatchArm fn value s hs
  | .traceCfgWrite fn value => canon_execTraceCfgWrite fn value s hs
  | .traceSample core wait capped => canon_execTraceSample core wait capped s hs
  | .traceLineFlush hearth => canon_execTraceLineFlush hearth s hs
  | .snuffGo fn => canon_execSnuffGo fn s hs
  | .snuffPin => canon_execSnuffPin s hs
  | .snuffMatch => canon_execSnuffMatch s hs
  | .snuffStopped => canon_execSnuffStopped s hs
  | .snuffResume fn => canon_execSnuffResume fn s hs
  | .scanStart fn => canon_execScanStart fn s hs
  | .extest scanIn balls => canon_execExtest scanIn balls s hs
  | .samplePreload scanIn balls => canon_execSamplePreload scanIn balls s hs
  | .idcode => canon_execIdcode s hs
  | .clamp => canon_execClamp s hs
  | .highz => canon_execHighz s hs
  | .snuffScan => canon_execSnuffScan s hs
  | .bypass ir => canon_execBypass ir s hs
  | .snuffResumed => canon_execSnuffResumed s hs
  | .vddAonReturn bootSrc twinRole smbAddr => canon_execVddAonReturn bootSrc twinRole smbAddr s hs
  | .badFlit => canon_execBadFlit s hs
  | .idleFlit ack => canon_execIdleFlit ack s hs
  | .twinBlockLock up => canon_execTwinBlockLock up s hs
  | .snuffPinRearm => canon_execSnuffPinRearm s hs
  | .testLogicReset => canon_execTestLogicReset s hs

theorem canon_step {s : State} (hs : Canon s) : OutCanon (step s) := by
  unfold step
  split
  next => exact outCanon_next (canon_quietTick s hs)
  next c cs _ => exact canon_exec (s := { s with pending := cs }) hs c

end Sys2Proof.Machine
end

section
open Sys2Proof Sys2Proof.Machine

/-- Settles O4: a step is one command or one tick, and each of them keeps the canonical form. -/
theorem stepKeepsCanonicalForm : Obligations.StepKeepsCanonicalForm := by
  unfold Obligations.StepKeepsCanonicalForm
  exact fun s t hs hstep => canon_step hs t hstep

/-- Settles O3, by induction on the number of steps. -/
theorem runDrainsTheQueue : Obligations.RunDrainsTheQueue := by
  unfold Obligations.RunDrainsTheQueue
  exact fun s k hk => run_drops k s hk

/-- Settles O6: by induction on the bytes stored, in the laws of the sparse array. -/
theorem memoryReadsAfterWrites : Obligations.MemoryReadsAfterWrites := by
  unfold Obligations.MemoryReadsAfterWrites
  exact fun m a bs => ⟨fun i hi => mget_mwrite_inside m a i bs hi, fun b hb => mget_mwrite_outside m a b bs hb, wf_mwrite m a bs⟩

/-- Settles O2: every command ends as `always` does. -/
theorem commandsNeverStopAndKeepTheQueue : Obligations.CommandsNeverStopAndKeepTheQueue := by
  unfold Obligations.CommandsNeverStopAndKeepTheQueue
  exact exec_keeps_pending

end

section
/-!
O33. The fixed split of a window's 248 data slots (R36 to R39).
-/
namespace Sys2Proof.Machine

/-- Shares that fit a window have credits that fit its data slots. -/
theorem credits_fit {a b c : Nat} (h : a + b + c ≤ 16) : credit a + credit b + credit c ≤ 248 := by
  unfold credit
  omega

/-- What the fixed split serves to reads, writes and remote requests of shares that fit, and what it leaves idle. -/
structure SplitOf (sr sw sm r w m : Nat) (v : Nat × Nat × Nat × Nat) : Prop where
  fills : v.1 + v.2.1 + v.2.2.1 + v.2.2.2 = 248
  reads_asked : v.1 ≤ r
  writes_asked : v.2.1 ≤ w
  remotes_asked : v.2.2.1 ≤ m
  reads_credit : min r (credit sr) ≤ v.1
  writes_credit : min w (credit sw) ≤ v.2.1
  remotes_credit : min m (credit sm) ≤ v.2.2.1
  idle_only_done : 0 < v.2.2.2 → v.1 = r ∧ v.2.1 = w ∧ v.2.2.1 = m

/-- Slots lent to reads, then to writes, then to remote requests, and those that nothing asks for. -/
def lend (left r w m : Nat) : Nat × Nat × Nat × Nat :=
  (min r left, min w (left - min r left), min m (left - min r left - min w (left - min r left)),
    left - min r left - min w (left - min r left) - min m (left - min r left - min w (left - min r left)))

/-- No class is lent more than it asks for, every slot is lent or idle, and a slot is idle only when each class has what it asks for. -/
theorem lend_spec (left r w m : Nat) :
    let v := lend left r w m
    v.1 + v.2.1 + v.2.2.1 + v.2.2.2 = left ∧ v.1 ≤ r ∧ v.2.1 ≤ w ∧ v.2.2.1 ≤ m ∧ (0 < v.2.2.2 → v.1 = r ∧ v.2.1 = w ∧ v.2.2.1 = m) := by
  unfold lend
  dsimp only
  generalize hr : min r left = r1
  generalize hw : min w (left - r1) = w1
  generalize hm : min m (left - r1 - w1) = m1
  omega

theorem splitServe_eq (sr sw sm r w m : Nat) : splitServe sr sw sm r w m =
    let r0 := min r (credit sr)
    let w0 := min w (credit sw)
    let m0 := min m (credit sm)
    let v := lend (248 - (r0 + w0 + m0)) (r - r0) (w - w0) (m - m0)
    (r0 + v.1, w0 + v.2.1, m0 + v.2.2.1, v.2.2.2) := rfl

/-- Credited slots go first; as they fit the window, what is left is lent without loss. -/
theorem splitServe_splitOf {sr sw sm : Nat} (h : sr + sw + sm ≤ 16) (r w m : Nat) : SplitOf sr sw sm r w m (splitServe sr sw sm r w m) := by
  have hfit := credits_fit h
  have hr := Nat.min_le_left r (credit sr)
  have hw := Nat.min_le_left w (credit sw)
  have hm := Nat.min_le_left m (credit sm)
  have hr' := Nat.min_le_right r (credit sr)
  have hw' := Nat.min_le_right w (credit sw)
  have hm' := Nat.min_le_right m (credit sm)
  rw [splitServe_eq]
  dsimp only
  obtain ⟨hfill, hr1, hw1, hm1, hidle⟩ := lend_spec (248 - (min r (credit sr) + min w (credit sw) + min m (credit sm))) (r - min r (credit sr))
    (w - min w (credit sw)) (m - min m (credit sm))
  generalize lend _ _ _ _ = v at *
  constructor
  case reads_credit => exact Nat.le_add_right ..
  case writes_credit => exact Nat.le_add_right ..
  case remotes_credit => exact Nat.le_add_right ..
  all_goals
    dsimp only
    generalize min r (credit sr) = r0 at *
    generalize min w (credit sw) = w0 at *
    generalize min m (credit sm) = m0 at *
    omega

/-- What a window's end leaves in the record of served slots, by channel and class. -/
def servedAfter (t : Tab Nat) (g : Nat) (v : Nat × Nat × Nat × Nat) : Tab Nat :=
  tset 0 (tset 0 (tset 0 (tset 0 t (4 * g) v.1) (4 * g + 1) v.2.1) (4 * g + 2) v.2.2.1) (4 * g + 3) v.2.2.2

theorem tget_servedAfter (t : Tab Nat) (g : Nat) (v : Nat × Nat × Nat × Nat) :
    tget 0 (servedAfter t g v) (4 * g) = v.1 ∧ tget 0 (servedAfter t g v) (4 * g + 1) = v.2.1 ∧
      tget 0 (servedAfter t g v) (4 * g + 2) = v.2.2.1 ∧ tget 0 (servedAfter t g v) (4 * g + 3) = v.2.2.2 := by
  simp [servedAfter, tget_tset_ne]

theorem tget_servedAfter_ne (t : Tab Nat) {g k : Nat} (v : Nat × Nat × Nat × Nat) (h : k / 4 ≠ g) : tget 0 (servedAfter t g v) k = tget 0 t k := by
  unfold servedAfter
  rw [tget_tset_ne _ _ _ (by omega), tget_tset_ne _ _ _ (by omega), tget_tset_ne _ _ _ (by omega), tget_tset_ne _ _ _ (by omega)]

/-- What the shares in force serve of a window's requests. -/
def State.splitServed (s : State) (r w m : Nat) : Nat × Nat × Nat × Nat :=
  splitServe (s.fld Reg.memSplit 3 0) (s.fld Reg.memSplit 7 4) (s.fld Reg.memSplit 11 8) r w m

/-- The service of a window that ends on a channel in service is recorded. -/
theorem exec_splitWindowEnd {s : State} (hup : s.up = true) {g : Fin 16} (hg : nbit s.chanMask g.val = true) (r w m : Nat) :
    exec (.splitWindowEnd g r w m) s =
      .next { s with fabric := { s.fabric with served := servedAfter s.fabric.served g.val (s.splitServed r w m) } } :=
  live_next hup (k := splitWindowEnd g.val r w m) (if_neg (by simp [hg])) rfl

end Sys2Proof.Machine
end

section
open Sys2Proof Sys2Proof.Machine

/-- Settles O33: the split serves each credit first, and the record of the window holds what it served. -/
theorem splitServesEveryCredit : Obligations.SplitServesEveryCredit := by
  unfold Obligations.SplitServesEveryCredit
  intro s g r w m hup hg hfit
  have hv : SplitOf _ _ _ r w m (s.splitServed r w m) := splitServe_splitOf hfit r w m
  obtain ⟨h0, h1, h2, h3⟩ := tget_servedAfter s.fabric.served g.val (s.splitServed r w m)
  refine ⟨_, exec_splitWindowEnd hup hg r w m, rfl, ?_⟩
  simp only [Nat.add_zero, h0, h1, h2, h3]
  exact ⟨hv.fills, hv.reads_asked, hv.writes_asked, hv.remotes_asked, hv.reads_credit, hv.writes_credit, hv.remotes_credit, hv.idle_only_done,
    fun k hk => tget_servedAfter_ne s.fabric.served _ hk⟩

end

section
/-!
O35. Invalidations, the commit of the MMU set, and walks (R48, R49, R51, R337, R384, R490).
-/
namespace Sys2Proof.Machine

/-! ### Host writes while the engines run -/

/-- A write that discards no half and meets no function-level reset acts at once while the engines run. -/
theorem orRecord_running {s : State} {i : Instr} {fn : Fn} (hw : writerOf i = some fn) (hbell : isBell i = false) (hs : s.stopped = false)
    (hh : tfind s.hif.held fn.num = none) (hf : s.hif.flr = []) (k : State → State) : orRecord i k s = k (bump s 88 (writeBytes i)) := by
  have hb : s.beforeWrite i = bump s 88 (writeBytes i) := by
    unfold State.beforeWrite
    dsimp only
    split
    · rfl
    · rw [hw]
      exact dropHeld_of_none (by simpa using hh)
  unfold orRecord writerPasses
  rw [hb, hw]
  dsimp only
  rw [pastFlr_of_none (by simpa using hf)]
  exact if_neg (by simp [hs])

/-- A write of BAR0 that discards no half and meets no function-level reset acts at once. -/
theorem bar0_open {s t : State} (hup : s.up = true) {fn : Fn} (hh : tfind s.hif.held fn.num = none) (hf : s.hif.flr = []) {n : Nat}
    {k : State → State} (h : k (bump s 88 n) = t) (hp : t.pending = s.pending) : bar0 fn n s k = .next t := by
  refine live_next hup ?_ hp
  rw [pastFlr_of_none (by simpa using hf), dropHeld_of_none (by simpa using hh), h]

/-! ### Invalidations (R49) -/

/-- An invalidation of a function is accepted: BUSY is set, DONE is cleared, and it waits behind those that came before. -/
def invTaken (s : State) (v : Inval) : State :=
  { (s.setBit (fnKey v.fn Reg.mmuInvStatus) 0 true).setBit (fnKey v.fn Reg.mmuInvStatus) 1 false with mmu := { s.mmu with invs := s.mmu.invs ++ [v] } }

section
variable {s : State} {fn : Fn} {p : Nat}

theorem invCmd_denied (h : s.mayPart fn p = false) (scope first count : Nat) : invCmd fn p scope first count s = denied s fn Reg.mmuInvCmd :=
  if_pos (by simp [h])

theorem invCmd_busy (h : s.mayPart fn p = true) (hb : s.bit (fnKey fn.num Reg.mmuInvStatus) 0 = true) (scope first count : Nat) :
    invCmd fn p scope first count s = dropCmd s fn Reg.mmuInvCmd := by
  simp [invCmd, h, hb]

theorem invCmd_empty (h : s.mayPart fn p = true) (first : Nat) : invCmd fn p 1 first 0 s = dropCmd s fn Reg.mmuInvCmd := by
  simp [invCmd, h]

theorem invCmd_taken (h : s.mayPart fn p = true) (hb : s.bit (fnKey fn.num Reg.mmuInvStatus) 0 = false) {scope count : Nat}
    (hc : ¬(scope = 1 ∧ count = 0)) (first : Nat) : invCmd fn p scope first count s = invTaken s ⟨fn.num, p, scope, first, count⟩ := by
  simp [invCmd, h, hb, hc, invTaken]

theorem invCmd_pending (scope first count : Nat) : (invCmd fn p scope first count s).pending = s.pending := by
  unfold invCmd
  dsimp only
  repeat' split
  all_goals simp

end

section
variable {s : State} {fn : Fn} (hup : s.up = true) (hs : s.stopped = false) (hh : tfind s.hif.held fn.num = none) (hf : s.hif.flr = [])
include hup hs hh hf

theorem exec_invPartition (p : Fin 16) : exec (.invPartition fn p) s = .next (invCmd fn p.val 0 0 0 (bump s 88 4)) :=
  live_next hup (orRecord_running rfl rfl hs hh hf _) ((invCmd_pending ..).trans (bump_pending ..))

theorem exec_invRange (p : Fin 16) : exec (.invRange fn p) s = .next (invCmd fn p.val 1 ((bump s 88 4).fld (fnKey fn.num Reg.mmuInvAddr) 47 12)
    ((bump s 88 4).fld (fnKey fn.num Reg.mmuInvAddr) 63 48) (bump s 88 4)) :=
  live_next hup (orRecord_running rfl rfl hs hh hf _) ((invCmd_pending ..).trans (bump_pending ..))

theorem exec_invSlot (p : Fin 16) (q : Fin 1024) : exec (.invSlot fn p q) s = .next (invCmd fn p.val 2 q.val 0 (bump s 88 4)) :=
  live_next hup (orRecord_running rfl rfl hs hh hf _) ((invCmd_pending ..).trans (bump_pending ..))

end

theorem dropEntries_pending (v : Inval) (s : State) : (dropEntries v s).pending = s.pending := by
  unfold dropEntries
  dsimp only
  rw [foldl_pending fun _ _ => by rfl, foldl_pending fun _ _ => by rfl]

/-- The oldest invalidation drops its entries, and its function reads DONE. -/
theorem exec_invDone {s : State} (hup : s.up = true) {v : Inval} {vs : List Inval} (h : s.mmu.invs = v :: vs) : exec .invDone s =
    .next (((dropEntries v { s with mmu := { s.mmu with invs := vs } }).setBit (fnKey v.fn Reg.mmuInvStatus) 0 false).setBit
      (fnKey v.fn Reg.mmuInvStatus) 1 true) := by
  refine live_next hup (k := invDone) ?_ ?_
  · unfold invDone
    rw [h]
  · rw [setBit_pending, setBit_pending, dropEntries_pending]

/-! ### MMU_COMMIT (R384, R490) -/

/-- The registers of a set take their values. -/
theorem foldl_setReg_mmu (l : List (Nat × W64)) (s : State) : (l.foldl (fun (s : State) (x : Nat × W64) => s.setReg x.1 x.2) s).mmu = s.mmu := by
  induction l generalizing s with
  | nil => rfl
  | cons x l ih => exact (ih _).trans (setReg_mmu ..)

theorem exec_mmuCommit {s : State} (hup : s.up = true) (hh : tfind s.hif.held 0 = none) (hf : s.hif.flr = []) (hr : (bump s 88 4).ready = true) :
    exec (.mmuCommit .pf) s = .next (mmuJudge (bump s 88 4)) := by
  have hwork : mmuCommit .pf (bump s 88 4) = mmuJudge (bump s 88 4) := by simp [mmuCommit, hr]
  refine bar0_open hup (fn := .pf) hh hf hwork ?_
  rw [← hwork, mmuCommit_pending, bump_pending]

theorem mmuJudge_bad {s : State} (h : mmuSetBad s = true) : mmuJudge s = s.setBit Reg.mmuCommit 8 true := if_pos h

theorem mmuJudge_good {s : State} (h : mmuSetBad s = false) : mmuJudge s =
    { s.mmu.pend.foldl (fun (s : State) (x : Nat × W64) => s.setReg x.1 x.2) s with mmu := { s.mmu with pend := [] } }.setBit Reg.mmuCommit 8 false := by
  unfold mmuJudge
  rw [if_neg (by simp [h])]
  dsimp only
  rw [foldl_setReg_mmu]

/-! ### Walks (R48, R51) -/

theorem exec_walkDone {s : State} (hup : s.up = true) (hs : s.stopped = false) (c : Fin 16) (va : BitVec 48) :
    exec (.walkDone c va) s = .next (keepQueue s (walkDone c.val va.toNat s)) := by
  have hrun : exec (.walkDone c va) s = .next (keepQueue s (if s.up = true then if s.stopped = true then s else walkDone c.val va.toNat s else s)) := rfl
  rw [hrun, if_pos hup, if_neg (by simp [hs])]

/-- A walk of a running descriptor for a byte that it can touch ends as the translation does. -/
theorem walkDone_running {s : State} {c va : Nat} {x : Running} (hx : s.coreRun c = some x) (hl : isLocal va = false) (ht : tlbHit s c va = none)
    (hr : x.run.stopped = false) (htouch : touches s c x va = true) : walkDone c va s =
      match translate s c x.part va with
      | (s, .leaf _) => s
      | (s, .fault d) => stopRun x ⟨0x11, va, d⟩ s
      | (s, .poison k) => stopRun x ⟨0x20, k, 0⟩ s := by
  unfold walkDone
  rw [hx]
  exact if_neg (by simp [hl, ht, hr, htouch])

end Sys2Proof.Machine
end

section
open Sys2Proof Sys2Proof.Machine

/-- Settles O35: each command comes to one case of the invalidations, of the commit, or of the translation that its walk ends in. -/
theorem translationControl : Obligations.TranslationControl := by
  unfold Obligations.TranslationControl
  intro s hup
  refine ⟨fun fn p hs hh hf => ?_, fun v vs h => exec_invDone hup h, fun hh hf hr => ?_, fun c va x hs hx hl ht hr htouch => ?_⟩
  · have hpart := exec_invPartition hup hs hh hf p
    have hrange := exec_invRange hup hs hh hf p
    have hslot := exec_invSlot hup hs hh hf p
    refine ⟨fun hm hb => ⟨?_, fun hc => ?_, fun hc => ?_, fun q => ?_⟩, fun hm hb => ⟨?_, ?_, fun q => ?_⟩, fun hm => ⟨?_, ?_, fun q => ?_⟩⟩
    · rw [hpart, invCmd_taken hm hb (by decide)]
      rfl
    · rw [hrange, invCmd_taken hm hb (by simp [hc])]
      rfl
    · rw [hrange, hc, invCmd_empty hm]
    · rw [hslot q, invCmd_taken hm hb (by decide)]
      rfl
    · rw [hpart, invCmd_busy hm hb]
    · rw [hrange, invCmd_busy hm hb]
    · rw [hslot q, invCmd_busy hm hb]
    · rw [hpart, invCmd_denied hm]
    · rw [hrange, invCmd_denied hm]
    · rw [hslot q, invCmd_denied hm]
  · refine ⟨fun hbad => ?_, fun hgood => ?_⟩
    · rw [exec_mmuCommit hup hh hf hr, mmuJudge_bad hbad]
    · rw [exec_mmuCommit hup hh hf hr, mmuJudge_good hgood, bump_mmu]
  · have hwalk := walkDone_running hx hl ht hr htouch
    refine ⟨fun t l hw => ?_, fun t d hw => ?_, fun t k hw => ?_⟩ <;> rw [exec_walkDone hup hs, hwalk, hw]

end

section
/-!
SUPPORT. What the check codes find (R34, R433, R435, R436): the counters of errors, the repair map and the log are all that a finding moves.
-/
namespace Sys2Proof.Machine

/-! ### The frame of a finding -/

/-- The state without what findings of the check codes change. -/
def State.sansEcc (s : State) : State :=
  { s with regs := [], ember := {}, fabric := { s.fabric with corrected := [] }
           boot := { s.boot with mapRecord := {}, repairMap := [], writing := none } }

/-- Nothing changed but what findings may change, and of the registers those of a kind. -/
abbrev Finds (P : Nat → Prop) (s t : State) : Prop := Framed P State.sansEcc s t

/-- The counters of errors. -/
def errRegs (k : Nat) : Prop := Reg.relCnt 0 ≤ k ∧ k ≤ Reg.relCnt 9

theorem errRegs_relCnt {i : Nat} (h : i < 10) : errRegs (Reg.relCnt i) := by
  unfold errRegs Reg.relCnt
  omega

section
variable {P : Nat → Prop} {s t : State} (h : Finds P s t)
include h

theorem Finds.mem_eq : t.mem = s.mem := (congrArg State.mem h.2 :)
theorem Finds.poison_eq : t.poison = s.poison := (congrArg State.poison h.2 :)
theorem Finds.pending_eq : t.pending = s.pending := (congrArg State.pending h.2 :)
theorem Finds.qm_eq : t.qm = s.qm := (congrArg State.qm h.2 :)
theorem Finds.media_eq : t.media = s.media := (congrArg State.media h.2 :)
theorem Finds.marginRecord_eq : t.boot.marginRecord = s.boot.marginRecord := (congrArg (fun x : State => x.boot.marginRecord) h.2 :)

end

/-! ### Counters, the log and the repair map -/

section
variable {P : Nat → Prop}

theorem finds_setFld {k lo : Nat} (h : P (fieldKey k lo)) (s : State) (hi v : Nat) : Finds P s (s.setFld k hi lo v) := .setFld (fun _ _ => rfl) h s hi v
theorem finds_addSat {k lo : Nat} (h : P (fieldKey k lo)) (s : State) (hi n : Nat) : Finds P s (s.addSat k hi lo n) := finds_setFld h s hi _
theorem finds_bump {i : Nat} (h : P (Reg.dbgBcnt i)) (s : State) (n : Nat) : Finds P s (bump s i n) := finds_setFld (lo := 0) h s 47 _
theorem finds_report (s : State) (src code a0 a1 a2 : Nat) : Finds P s (report s src code a0 a1 a2) := .report (fun _ _ => rfl) s ..

/-- An error is counted and reported. -/
def errCounted (i src code a0 a1 a2 : Nat) (s : State) : State := report (s.addSat (Reg.relCnt i) 31 0 1) src code a0 a1 a2

theorem fld_errCounted (i src code a0 a1 a2 : Nat) (s : State) :
    (errCounted i src code a0 a1 a2 s).fld (Reg.relCnt i) 31 0 = satAdd 32 (s.fld (Reg.relCnt i) 31 0) 1 := by
  unfold errCounted
  rw [fld_report, fld_addSat_self _ (by decide) (by decide)]
  rfl

theorem finds_errCounted {i : Nat} (h : P (Reg.relCnt i)) (src code a0 a1 a2 : Nat) (s : State) : Finds P s (errCounted i src code a0 a1 a2 s) :=
  .trans (finds_addSat (lo := 0) h s 31 1) (finds_report ..)

theorem errCounted_repairMap (i src code a0 a1 a2 : Nat) (s : State) : (errCounted i src code a0 a1 a2 s).boot.repairMap = s.boot.repairMap := by
  unfold errCounted
  rw [report_boot, addSat_boot]

theorem finds_journalWrite_map (ws : List Nat) (s : State) : Finds P s (journalWrite .repairMap ws s) := ⟨fun _ _ => rfl, rfl⟩

theorem finds_repairAdd (h : P (Reg.relCnt 9)) (s : State) (k : Nat) : Finds P s (repairAdd s k) := by
  have hcount : ∀ x : State, Finds P x (x.addSat (Reg.relCnt 9) 31 0 1) := fun x => finds_addSat (lo := 0) h x 31 1
  unfold repairAdd
  split
  · exact .refl s
  · refine .trans (t := { s with boot := { s.boot with repairMap := s.boot.repairMap ++ [k] } }) ⟨fun _ _ => rfl, rfl⟩ ?_
    exact (hcount _).trans (finds_journalWrite_map ..)

theorem repairAdd_repairMap (s : State) (k : Nat) :
    (repairAdd s k).boot.repairMap = if s.boot.repairMap.contains k then s.boot.repairMap else s.boot.repairMap ++ [k] := by
  unfold repairAdd
  split <;> rfl

theorem mem_repairAdd (s : State) (k : Nat) : k ∈ (repairAdd s k).boot.repairMap := by
  rw [repairAdd_repairMap]
  split
  · exact List.contains_iff_mem.1 (by assumption)
  · simp

theorem subset_repairAdd (s : State) (k : Nat) : s.boot.repairMap ⊆ (repairAdd s k).boot.repairMap := by
  rw [repairAdd_repairMap]
  split
  · exact List.Subset.refl _
  · exact List.subset_append_left ..

theorem finds_thirdInDay (h : P (Reg.relCnt 9)) (s : State) (k : Nat) : Finds P s (thirdInDay s k) := by
  unfold thirdInDay
  dsimp only
  split
  · exact .trans ⟨fun _ _ => rfl, rfl⟩ (finds_repairAdd h ..)
  · exact ⟨fun _ _ => rfl, rfl⟩

theorem subset_thirdInDay (s : State) (k : Nat) : s.boot.repairMap ⊆ (thirdInDay s k).boot.repairMap := by
  unfold thirdInDay
  dsimp only
  split
  · exact fun x hx => subset_repairAdd _ k hx
  · exact List.Subset.refl _

theorem relCnt_ne_nine {i : Nat} (hi : i ≠ 9) : fieldKey (Reg.relCnt i) 0 ≠ Reg.relCnt 9 := by
  simp only [fieldKey, Reg.relCnt]
  omega

/-- A counter of errors but that of the repair map keeps its value while the map is written. -/
theorem relCnt_repairAdd {i : Nat} (hi : i ≠ 9) (s : State) (k : Nat) : (repairAdd s k).fld (Reg.relCnt i) 31 0 = s.fld (Reg.relCnt i) 31 0 :=
  (finds_repairAdd (P := (· = Reg.relCnt 9)) rfl s k).fld_eq (relCnt_ne_nine hi) 31

theorem relCnt_thirdInDay {i : Nat} (hi : i ≠ 9) (s : State) (k : Nat) : (thirdInDay s k).fld (Reg.relCnt i) 31 0 = s.fld (Reg.relCnt i) 31 0 :=
  (finds_thirdInDay (P := (· = Reg.relCnt 9)) rfl s k).fld_eq (relCnt_ne_nine hi) 31

/-! ### Errors of words and sectors -/

theorem errCorrected_eq (s : State) (k : Nat) : errCorrected s k =
    thirdInDay (errCounted (if (errCodes (s.placeOf k)).1 = 1 then 0 else 3) (errCodes (s.placeOf k)).1 1 (k % 2 ^ 32) (k / 2 ^ 32) (errCodes (s.placeOf k)).2 s)
      k := rfl

theorem errUncorrectable_eq (s : State) (k : Nat) : errUncorrectable s k =
    repairAdd (errCounted (if (errCodes (s.placeOf k)).1 = 1 then 1 else 4) (errCodes (s.placeOf k)).1 2 (k % 2 ^ 32) (k / 2 ^ 32) (errCodes (s.placeOf k)).2 s)
      k := rfl

theorem finds_errCorrected (h : ∀ i, i < 10 → P (Reg.relCnt i)) (s : State) (k : Nat) : Finds P s (errCorrected s k) := by
  rw [errCorrected_eq]
  exact .trans (finds_errCounted (by split <;> exact h _ (by decide)) ..) (finds_thirdInDay (h 9 (by decide)) ..)

theorem finds_errUncorrectable (h : ∀ i, i < 10 → P (Reg.relCnt i)) (s : State) (k : Nat) : Finds P s (errUncorrectable s k) := by
  rw [errUncorrectable_eq]
  exact .trans (finds_errCounted (by split <;> exact h _ (by decide)) ..) (finds_repairAdd (h 9 (by decide)) ..)

theorem mem_errUncorrectable (s : State) (k : Nat) : k ∈ (errUncorrectable s k).boot.repairMap := mem_repairAdd ..

theorem subset_errUncorrectable (s : State) (k : Nat) : s.boot.repairMap ⊆ (errUncorrectable s k).boot.repairMap := by
  rw [errUncorrectable_eq, ← errCounted_repairMap _ _ _ _ _ _ s]
  exact subset_repairAdd ..

theorem subset_errCorrected (s : State) (k : Nat) : s.boot.repairMap ⊆ (errCorrected s k).boot.repairMap := by
  rw [errCorrected_eq, ← errCounted_repairMap _ _ _ _ _ _ s]
  exact subset_thirdInDay ..

section
variable {s : State} {k : Nat} (hk : k < s.usable)
include hk

theorem placeOf_gddr : s.placeOf k = .gddr := if_pos hk

/-- A corrected sector of GDDR6 counts at REL_CNT 0. -/
theorem relCnt_errCorrected : (errCorrected s k).fld (Reg.relCnt 0) 31 0 = satAdd 32 (s.fld (Reg.relCnt 0) 31 0) 1 := by
  rw [errCorrected_eq, placeOf_gddr hk, relCnt_thirdInDay (by decide)]
  exact fld_errCounted ..

/-- An uncorrectable sector of GDDR6 counts at REL_CNT 1. -/
theorem relCnt_errUncorrectable : (errUncorrectable s k).fld (Reg.relCnt 1) 31 0 = satAdd 32 (s.fld (Reg.relCnt 1) 31 0) 1 := by
  rw [errUncorrectable_eq, placeOf_gddr hk, relCnt_repairAdd (by decide)]
  exact fld_errCounted ..

end

/-! ### Words that no address reaches -/

theorem eccInside_single (i src code inst off : Nat) (s : State) :
    eccInside i src code inst off .single s = thirdInDay (errCounted i src 1 off inst code s) (insideKey code inst off) := rfl

theorem eccInside_uncorrectable (i src code inst off : Nat) (s : State) :
    eccInside i src code inst off .uncorrectable s = repairAdd (errCounted (i + 1) src 2 off inst code s) (insideKey code inst off) := rfl

theorem finds_eccInside (h : ∀ i, i < 10 → P (Reg.relCnt i)) {i : Nat} (hi : i < 9) (src code inst off : Nat) (f : EccFound) (s : State) :
    Finds P s (eccInside i src code inst off f s) := by
  cases f with
  | clean => exact .refl s
  | single => exact .trans (finds_errCounted (h i (by omega)) ..) (finds_thirdInDay (h 9 (by decide)) ..)
  | uncorrectable => exact .trans (finds_errCounted (h (i + 1) (by omega)) ..) (finds_repairAdd (h 9 (by decide)) ..)

theorem relCnt_eccInside_single {i : Nat} (hi : i ≠ 9) (src code inst off : Nat) (s : State) :
    (eccInside i src code inst off .single s).fld (Reg.relCnt i) 31 0 = satAdd 32 (s.fld (Reg.relCnt i) 31 0) 1 := by
  rw [eccInside_single, relCnt_thirdInDay hi]
  exact fld_errCounted ..

theorem relCnt_eccInside_uncorrectable {i : Nat} (hi : i + 1 ≠ 9) (src code inst off : Nat) (s : State) :
    (eccInside i src code inst off .uncorrectable s).fld (Reg.relCnt (i + 1)) 31 0 = satAdd 32 (s.fld (Reg.relCnt (i + 1)) 31 0) 1 := by
  rw [eccInside_uncorrectable, relCnt_repairAdd hi]
  exact fld_errCounted ..

end

end Sys2Proof.Machine
end

section
/-!
SUPPORT. Reads of protected words and sectors, and runs of them (R34, R35, R440): what is marked, entered in the repair map, and written back.
-/
namespace Sys2Proof.Machine

/-! ### Channels and places -/

section
variable {s t : State}

theorem usable_congr (h : t.reg Reg.memCapacity = s.reg Reg.memCapacity) : t.usable = s.usable := fld_of_reg Reg.memCapacity 39 0 h

theorem chanMask_congr (h : t.reg Reg.memCapacity = s.reg Reg.memCapacity) : t.chanMask = s.chanMask := fld_of_reg Reg.memCapacity 55 40 h

theorem chanOf_congr (h : t.reg Reg.memCapacity = s.reg Reg.memCapacity) (a : Nat) : t.chanOf a = s.chanOf a := by
  unfold State.chanOf
  rw [chanMask_congr h]

/-- The bytes of a 256-byte unit lie on one channel (R32). -/
theorem chanOf_unit (s : State) {a b : Nat} (h : b / 256 = a / 256) : s.chanOf b = s.chanOf a := by
  have hbits : ∀ hi lo, 8 ≤ lo → nbits b hi lo = nbits a hi lo := fun hi lo hlo => by
    obtain ⟨n, rfl⟩ := Nat.exists_eq_add_of_le hlo
    simp only [nbits, Nat.shiftRight_eq_div_pow, Nat.pow_add, ← Nat.div_div_eq_div_mul]
    rw [show (2 : Nat) ^ 8 = 256 from rfl, h]
  unfold State.chanOf
  rw [hbits 11 8 (by decide), hbits 15 12 (by decide), hbits 19 16 (by decide), hbits 23 20 (by decide), h]

theorem chanOf_sector (s : State) (a : Nat) : s.chanOf (a / 32 * 32) = s.chanOf a := chanOf_unit s (by omega)

end

/-! ### Bytes of banks, and what is written back -/

/-- The counters of errors, and the byte counters of writes: those of odd numbers. -/
def writeBackRegs (k : Nat) : Prop := errRegs k ∨ ∃ i, k = Reg.dbgBcnt (2 * i + 1)

theorem writeBackRegs_relCnt (i : Nat) (h : i < 10) : writeBackRegs (Reg.relCnt i) := .inl (errRegs_relCnt h)
theorem writeBackRegs_write (i : Nat) : writeBackRegs (Reg.dbgBcnt (2 * i + 1)) := .inr ⟨i, rfl⟩

theorem not_writeBackRegs_read (i : Nat) : ¬ writeBackRegs (Reg.dbgBcnt (2 * i)) := by
  unfold writeBackRegs errRegs Reg.relCnt Reg.dbgBcnt
  omega

theorem not_writeBackRegs_low {k : Nat} (h : k < Reg.relCnt 0) : ¬ writeBackRegs k := by
  unfold writeBackRegs errRegs Reg.dbgBcnt
  unfold Reg.relCnt at *
  omega

/-- Bytes of a bank count at one byte counter below those of the ports, or nowhere. -/
theorem finds_bankBytes {P : Nat → Prop} {w : Bool} (h : ∀ i, i < 24 → P (Reg.dbgBcnt (2 * i + w.toNat))) (a n : Nat) (s : State) :
    Finds P s (bankBytes w a n s) := by
  unfold bankBytes
  split
  · next c e =>
    have hc := placeOf_core e
    exact finds_bump (h c (by omega)) s n
  · next c e =>
    have hc := placeOf_hearth e
    have := h (16 + c) (by omega)
    rw [Nat.mul_add] at this
    exact finds_bump this s n
  · exact .refl s

theorem bankBytes_boot (w : Bool) (a n : Nat) (s : State) : (bankBytes w a n s).boot = s.boot := by
  unfold bankBytes
  split <;> simp

theorem finds_writeBack (k : Nat) (s : State) : Finds writeBackRegs s (writeBack k s) := by
  unfold writeBack
  split
  · have := writeBackRegs_write (28 + s.chanOf k)
    rw [Nat.mul_add, Nat.add_right_comm] at this
    exact finds_bump this s 32
  · exact finds_bankBytes (fun i _ => writeBackRegs_write i) k 8 s

theorem writeBack_boot (k : Nat) (s : State) : (writeBack k s).boot = s.boot := by
  unfold writeBack
  split
  · exact bump_boot ..
  · exact bankBytes_boot ..

/-! ### One word or sector -/

/-- What a read leaves of the marks: an uncorrectable word or sector is marked. -/
def markedIf (f : EccFound) (poison : Tab Bool) (k : Nat) : Tab Bool := if f = .uncorrectable then tset false poison k true else poison

theorem tget_markedIf_ne (f : EccFound) (poison : Tab Bool) {k j : Nat} (h : j ≠ k) : tget false (markedIf f poison k) j = tget false poison j := by
  unfold markedIf
  split
  · exact tget_tset_ne _ _ _ h
  · rfl

theorem tget_markedIf_self (f : EccFound) {poison : Tab Bool} {k : Nat} (h : tget false poison k = false) :
    tget false (markedIf f poison k) k = decide (f = .uncorrectable) := by
  unfold markedIf
  split
  · next hf => simp [hf]
  · next hf => simp [hf, h]

/-- A word or sector without a mark is read, and `f` is found: it is marked and in the repair map where that is uncorrectable, and nothing else is
moved but what findings move, and registers of a kind. -/
structure MetWord (P : Nat → Prop) (k : Nat) (f : EccFound) (s t : State) : Prop where
  frame : Finds P { s with poison := markedIf f s.poison k } t
  entered : f = .uncorrectable → k ∈ t.boot.repairMap
  kept : s.boot.repairMap ⊆ t.boot.repairMap

section
variable {P : Nat → Prop} {k : Nat} {f : EccFound} {s t : State}

theorem MetWord.poison_eq (h : MetWord P k f s t) : t.poison = markedIf f s.poison k := h.frame.poison_eq
theorem MetWord.reg_eq (h : MetWord P k f s t) {j : Nat} (hj : ¬ P j) : t.reg j = s.reg j := h.frame.1 j hj

theorem MetWord.poison_ne (h : MetWord P k f s t) {j : Nat} (hj : j ≠ k) : tget false t.poison j = tget false s.poison j := by
  rw [h.poison_eq, tget_markedIf_ne _ _ hj]

theorem MetWord.poison_self (h : MetWord P k f s t) (hk : tget false s.poison k = false) : tget false t.poison k = decide (f = .uncorrectable) := by
  rw [h.poison_eq, tget_markedIf_self f hk]

end

section
variable {s : State} {k : Nat} (hk : tget false s.poison k = false)
include hk

theorem eccRead_clean : eccRead k .clean s = s := by
  unfold eccRead
  simp [hk]

theorem eccRead_single : eccRead k .single s = writeBack k (errCorrected s k) := by
  unfold eccRead
  simp [hk]

theorem eccRead_uncorrectable : eccRead k .uncorrectable s = errUncorrectable { s with poison := tset false s.poison k true } k := by
  unfold eccRead
  simp [hk]

theorem metWord_eccRead (f : EccFound) : MetWord writeBackRegs k f s (eccRead k f s) := by
  cases f with
  | clean =>
    rw [eccRead_clean hk]
    exact ⟨.refl s, nofun, List.Subset.refl _⟩
  | single =>
    rw [eccRead_single hk]
    refine ⟨.trans (finds_errCorrected writeBackRegs_relCnt s k) (finds_writeBack k _), nofun, ?_⟩
    rw [writeBack_boot]
    exact subset_errCorrected s k
  | uncorrectable =>
    rw [eccRead_uncorrectable hk]
    exact ⟨finds_errUncorrectable writeBackRegs_relCnt _ k, fun _ => mem_errUncorrectable _ k,
      subset_errUncorrectable { s with poison := tset false s.poison k true } k⟩

end

/-! ### A run of words or sectors -/

/-- No word of a run is marked. -/
def Unmarked (s : State) (l : List (Nat × EccFound)) : Prop := ∀ x ∈ l, tget false s.poison x.1 = false

theorem Unmarked.step {P : Nat → Prop} {s t : State} {x : Nat × EccFound} {l : List (Nat × EccFound)} (h : Unmarked s (x :: l))
    (hd : x.1 ∉ l.map (·.1)) (hm : MetWord P x.1 x.2 s t) : Unmarked t l := fun y hy => by
  rw [hm.poison_ne fun e => hd (List.mem_map.2 ⟨y, hy, e⟩)]
  exact h y (List.mem_cons_of_mem _ hy)

/-- A run of different words without a mark has been read, and each of them met what was found of it. -/
structure MetRun (P : Nat → Prop) (l : List (Nat × EccFound)) (s t : State) : Prop where
  frame : Finds P { s with poison := t.poison } t
  others : ∀ k, k ∉ l.map (·.1) → tget false t.poison k = tget false s.poison k
  marked : ∀ x ∈ l, tget false t.poison x.1 = decide (x.2 = .uncorrectable)
  entered : ∀ x ∈ l, x.2 = .uncorrectable → x.1 ∈ t.boot.repairMap
  kept : s.boot.repairMap ⊆ t.boot.repairMap

section
variable {P : Nat → Prop} {l : List (Nat × EccFound)} {s t : State}

theorem MetRun.mem_eq (h : MetRun P l s t) : t.mem = s.mem := h.frame.mem_eq
theorem MetRun.pending_eq (h : MetRun P l s t) : t.pending = s.pending := h.frame.pending_eq
theorem MetRun.reg_eq (h : MetRun P l s t) {j : Nat} (hj : ¬ P j) : t.reg j = s.reg j := h.frame.1 j hj

theorem MetRun.nil (s : State) : MetRun P [] s s := ⟨.refl s, fun _ _ => rfl, nofun, nofun, List.Subset.refl _⟩

theorem MetRun.cons {u : State} {k : Nat} {f : EccFound} (hk : tget false s.poison k = false) (hd : k ∉ l.map (·.1)) (hm : MetWord P k f s u)
    (hr : MetRun P l u t) : MetRun P ((k, f) :: l) s t where
  frame := .trans (t := { u with poison := t.poison })
    ⟨hm.frame.1, congrArg (fun x : State => { x with poison := t.poison }) hm.frame.2⟩ hr.frame
  others j hj := by
    rw [List.map_cons, List.mem_cons, not_or] at hj
    rw [hr.others j hj.2, hm.poison_ne hj.1]
  marked x hx := by
    rcases List.mem_cons.1 hx with rfl | hx
    · rw [hr.others _ hd, hm.poison_self hk]
    · exact hr.marked x hx
  entered x hx hf := by
    rcases List.mem_cons.1 hx with rfl | hx
    · exact hr.kept (hm.entered hf)
    · exact hr.entered x hx hf
  kept := List.Subset.trans hm.kept hr.kept

/-- Words read one after the other, each as `MetWord` says. -/
theorem metRun_foldl {op : Nat → EccFound → State → State} (hop : ∀ k f s, tget false s.poison k = false → MetWord P k f s (op k f s))
    (l : List (Nat × EccFound)) (s : State) (hd : (l.map (·.1)).Nodup) (hl : Unmarked s l) : MetRun P l s (l.foldl (fun s x => op x.1 x.2 s) s) := by
  induction l generalizing s with
  | nil => exact .nil s
  | cons x l ih =>
    rw [List.map_cons, List.nodup_cons] at hd
    have hx := hl x List.mem_cons_self
    have hm := hop x.1 x.2 s hx
    exact .cons hx hd.1 hm (ih _ hd.2 (hl.step hd.1 hm))

theorem foldl_fixed {α : Type} {g : State → α → State} {l : List α} (h : ∀ x ∈ l, g s x = s) : l.foldl g s = s := by
  induction l with
  | nil => rfl
  | cons x l ih =>
    rw [List.foldl_cons, h x List.mem_cons_self]
    exact ih fun y hy => h y (List.mem_cons_of_mem _ hy)

end

/-- The eight words or sectors of `n` bytes from `b` on, with what is found in each. -/
def eightFound (b n : Nat) (found : List EccFound) : List (Nat × EccFound) := (List.range 8).map fun i => (b + n * i, found.getD i .clean)

theorem lineWords_eq (o : Nat) (found : List EccFound) : lineWords o found = eightFound (o / 64 * 64) 8 found := rfl

theorem eightFound_nodup {n : Nat} (hn : 0 < n) (b : Nat) (found : List EccFound) : ((eightFound b n found).map (·.1)).Nodup := by
  unfold eightFound
  rw [List.map_map]
  refine List.Nodup.map (fun i j h => ?_) List.nodup_range
  exact Nat.eq_of_mul_eq_mul_left hn (Nat.add_left_cancel h)

theorem eightFound_unmarked {s : State} {b n : Nat} (h : ∀ i, i < 8 → tget false s.poison (b + n * i) = false) (found : List EccFound) :
    Unmarked s (eightFound b n found) := fun x hx => by
  obtain ⟨i, hi, rfl⟩ := List.mem_map.1 hx
  exact h i (List.mem_range.1 hi)

theorem mem_eightFound {i : Nat} (h : i < 8) (b n : Nat) (found : List EccFound) : (b + n * i, found.getD i .clean) ∈ eightFound b n found :=
  List.mem_map.2 ⟨i, List.mem_range.2 h, rfl⟩

/-- Each of the eight is marked and in the repair map where it is uncorrectable. -/
theorem MetRun.eight {P : Nat → Prop} {b n : Nat} {found : List EccFound} {s t : State} (h : MetRun P (eightFound b n found) s t) {i : Nat} (hi : i < 8) :
    tget false t.poison (b + n * i) = decide (found.getD i .clean = .uncorrectable) ∧
      (found.getD i .clean = .uncorrectable → b + n * i ∈ t.boot.repairMap) :=
  have hmem := mem_eightFound hi b n found
  ⟨h.marked (b + n * i, found.getD i .clean) hmem, h.entered (b + n * i, found.getD i .clean) hmem⟩

end Sys2Proof.Machine
end

section
/-!
O34. Sector reads and scrubs (R34, R35, R440).
-/
namespace Sys2Proof.Machine

/-! ### Byte counters -/

theorem fld_byte_mod (s : State) (i : Nat) : s.fld (Reg.dbgBcnt i) 47 0 % 2 ^ 48 = s.fld (Reg.dbgBcnt i) 47 0 :=
  Nat.mod_eq_of_lt (fld_lt s (Reg.dbgBcnt i) 47 0)

theorem fld_bump_byte (s : State) (i j n : Nat) :
    (bump s j n).fld (Reg.dbgBcnt i) 47 0 = if i = j then (s.fld (Reg.dbgBcnt i) 47 0 + n) % 2 ^ 48 else s.fld (Reg.dbgBcnt i) 47 0 := by
  split
  · next h => rw [h, fld_bump_self]
  · next h => exact fld_of_reg _ 47 0 (reg_bump_ne s (by simp only [fieldKey, Reg.dbgBcnt]; omega))

theorem fld_bump_relCnt (s : State) (i n : Nat) {j : Nat} (hj : j < 10) : (bump s i n).fld (Reg.relCnt j) 31 0 = s.fld (Reg.relCnt j) 31 0 :=
  fld_of_reg _ 31 0 (reg_bump_ne s (by simp only [fieldKey, Reg.dbgBcnt, Reg.relCnt]; omega))

theorem not_errRegs_byte (i : Nat) : ¬ errRegs (fieldKey (Reg.dbgBcnt i) 0) := by
  unfold errRegs fieldKey Reg.relCnt Reg.dbgBcnt
  omega

/-! ### GDDR6_READ (R34) -/

/-- What a read that finds its sector uncorrectable leaves of the marks. -/
def lostMark (poison : Tab Bool) (k : Nat) : Tab Bool := if tget false poison k then poison else tset false poison k true

theorem tget_lostMark_self (poison : Tab Bool) (k : Nat) : tget false (lostMark poison k) k = true := by
  unfold lostMark
  split
  · assumption
  · exact tget_tset_self ..

theorem tget_lostMark_ne (poison : Tab Bool) {k j : Nat} (h : j ≠ k) : tget false (lostMark poison k) j = tget false poison j := by
  unfold lostMark
  split
  · rfl
  · exact tget_tset_ne _ _ _ h

theorem eccRead_lost (k : Nat) (s : State) : eccRead k .uncorrectable s = errUncorrectable { s with poison := lostMark s.poison k } k := by
  unfold eccRead lostMark
  split <;> rfl

section
variable {s : State} (hup : s.up = true) {a : Nat} (ha : a < s.usable)
include hup ha

/-- A sector read counts as traffic of its channel, after what it finds. -/
theorem exec_gddr6Read {f : EccFound} (hp : (eccRead (a / 32 * 32) f s).pending = s.pending) :
    exec (.gddr6Read a f) s = .next (bump (eccRead (a / 32 * 32) f s) (56 + 2 * s.chanOf a) 32) :=
  live_next hup (k := gddr6Read a f) (if_neg (Nat.not_le.2 ha)) ((bump_pending ..).trans hp)

theorem gddr6Read_clean (hk : tget false s.poison (a / 32 * 32) = false) : exec (.gddr6Read a .clean) s = .next (bump s (56 + 2 * s.chanOf a) 32) := by
  have hclean : eccRead (a / 32 * 32) .clean s = s := eccRead_clean hk
  rw [exec_gddr6Read hup ha (by rw [hclean]), hclean]

/-- A corrected sector is counted, written back, and changes no byte. -/
theorem gddr6Read_single (hk : tget false s.poison (a / 32 * 32) = false) :
    ∃ t, exec (.gddr6Read a .single) s = .next t ∧ t.fld (Reg.relCnt 0) 31 0 = satAdd 32 (s.fld (Reg.relCnt 0) 31 0) 1 ∧ t.mem = s.mem ∧
      t.poison = s.poison ∧ (∀ i, i < 90 → t.fld (Reg.dbgBcnt i) 47 0 =
        (s.fld (Reg.dbgBcnt i) 47 0 + (if i = 56 + 2 * s.chanOf a ∨ i = 57 + 2 * s.chanOf a then 32 else 0)) % 2 ^ 48) := by
  have hsec : a / 32 * 32 < s.usable := Nat.lt_of_le_of_lt (Nat.div_mul_le_self a 32) ha
  have hfind : Finds errRegs s (errCorrected s (a / 32 * 32)) := finds_errCorrected (fun i hi => errRegs_relCnt hi) ..
  have hcap : (errCorrected s (a / 32 * 32)).reg Reg.memCapacity = s.reg Reg.memCapacity := hfind.1 _ (by unfold errRegs; decide)
  have hread : eccRead (a / 32 * 32) .single s = bump (errCorrected s (a / 32 * 32)) (57 + 2 * s.chanOf a) 32 := by
    rw [eccRead_single hk, writeBack, if_pos (by rw [usable_congr hcap]; exact hsec), chanOf_congr hcap, chanOf_sector]
  have hexec := exec_gddr6Read hup ha (f := .single) (by rw [hread, bump_pending, hfind.pending_eq])
  rw [hread] at hexec
  refine ⟨_, hexec, ?_, ?_, ?_, fun i _ => ?_⟩
  · rw [fld_bump_relCnt _ _ _ (by decide), fld_bump_relCnt _ _ _ (by decide), relCnt_errCorrected hsec]
  · rw [bump_mem, bump_mem, hfind.mem_eq]
  · rw [bump_poison, bump_poison, hfind.poison_eq]
  · have hsame : (errCorrected s (a / 32 * 32)).fld (Reg.dbgBcnt i) 47 0 = s.fld (Reg.dbgBcnt i) 47 0 := hfind.fld_eq (not_errRegs_byte i) 47
    rw [fld_bump_byte, fld_bump_byte, hsame]
    split
    · next h =>
      rw [if_neg (by omega), if_pos (.inl h)]
    · next h =>
      split
      · next h' => rw [if_pos (.inr h')]
      · next h' => rw [if_neg (by omega), Nat.add_zero, fld_byte_mod]

/-- An uncorrectable sector is counted, enters the repair map, and stays marked. -/
theorem gddr6Read_uncorrectable :
    ∃ t, exec (.gddr6Read a .uncorrectable) s = .next t ∧ t.fld (Reg.relCnt 1) 31 0 = satAdd 32 (s.fld (Reg.relCnt 1) 31 0) 1 ∧ t.mem = s.mem ∧
      tget false t.poison (a / 32 * 32) = true ∧ a / 32 * 32 ∈ t.boot.repairMap ∧
      (∀ j, j ≠ a / 32 * 32 → tget false t.poison j = tget false s.poison j) := by
  have hsec : a / 32 * 32 < s.usable := Nat.lt_of_le_of_lt (Nat.div_mul_le_self a 32) ha
  have hlost := eccRead_lost (a / 32 * 32) s
  have hfind : Finds errRegs { s with poison := lostMark s.poison (a / 32 * 32) } (eccRead (a / 32 * 32) .uncorrectable s) := by
    rw [hlost]
    exact finds_errUncorrectable (fun i hi => errRegs_relCnt hi) ..
  refine ⟨_, exec_gddr6Read hup ha hfind.pending_eq, ?_, ?_, ?_, ?_, fun j hj => ?_⟩
  · rw [fld_bump_relCnt _ _ _ (by decide), hlost]
    exact relCnt_errUncorrectable (s := { s with poison := lostMark s.poison (a / 32 * 32) }) hsec
  · rw [bump_mem, hfind.mem_eq]
  · rw [bump_poison, hfind.poison_eq, tget_lostMark_self]
  · rw [bump_boot, hlost]
    exact mem_errUncorrectable ..
  · rw [bump_poison, hfind.poison_eq, tget_lostMark_ne _ hj]

end

/-! ### GSCRUB (R438, R440) -/

/-- The counters of errors and of bytes. -/
def scrubRegs (k : Nat) : Prop := errRegs k ∨ ∃ i, k = Reg.dbgBcnt i

theorem scrubRegs_of_writeBack (k : Nat) (h : writeBackRegs k) : scrubRegs k := h.imp_right fun ⟨i, hi⟩ => ⟨2 * i + 1, hi⟩

theorem not_scrubRegs_low {k : Nat} (h : k < Reg.relCnt 0) : ¬ scrubRegs k := by
  unfold scrubRegs errRegs Reg.dbgBcnt
  unfold Reg.relCnt at *
  omega

theorem not_scrubRegs_relSweep : ¬ scrubRegs (fieldKey Reg.relSweep 0) := by
  unfold scrubRegs errRegs fieldKey Reg.dbgBcnt Reg.relSweep Reg.relCnt
  omega

/-- Bytes that a scrub reads of a sector: once more where it is corrected. -/
def scrubBytes (f : EccFound) : Nat := if f = .single then 64 else 32

section
variable {s : State} {k : Nat} (hk : tget false s.poison k = false) (f : EccFound)
include hk

theorem scrubSector_unmarked : scrubSector k f s = bump (eccRead k f s) (56 + 2 * (eccRead k f s).chanOf k) (scrubBytes f) := by
  unfold scrubSector scrubBytes
  simp [hk, chanOf_congr ((metWord_eccRead hk f).reg_eq (not_writeBackRegs_low (by decide)))]

theorem metWord_scrubSector : MetWord scrubRegs k f s (scrubSector k f s) := by
  have hm := metWord_eccRead hk f
  rw [scrubSector_unmarked hk]
  refine ⟨(hm.frame.mono scrubRegs_of_writeBack).trans (finds_bump (.inr ⟨_, rfl⟩) ..), ?_, ?_⟩
  · rw [bump_boot]
    exact hm.entered
  · rw [bump_boot]
    exact hm.kept

/-- What a scrub reads of a sector counts at the reads of its channel. -/
theorem fld_scrubSector : (scrubSector k f s).fld (Reg.dbgBcnt (56 + 2 * s.chanOf k)) 47 0 =
    (s.fld (Reg.dbgBcnt (56 + 2 * s.chanOf k)) 47 0 + scrubBytes f) % 2 ^ 48 := by
  have hm := metWord_eccRead hk f
  have hsame : (eccRead k f s).fld (Reg.dbgBcnt (56 + 2 * s.chanOf k)) 47 0 = s.fld (Reg.dbgBcnt (56 + 2 * s.chanOf k)) 47 0 :=
    fld_of_reg _ 47 0 (hm.reg_eq (by rw [show 56 + 2 * s.chanOf k = 2 * (28 + s.chanOf k) by omega]; exact not_writeBackRegs_read _))
  rw [scrubSector_unmarked hk, chanOf_congr (hm.reg_eq (not_writeBackRegs_low (by decide))), fld_bump_self, hsame]

end

/-- A run of sectors of one channel counts what the scrub reads of each. -/
theorem fld_scrubRun {g : Nat} (l : List (Nat × EccFound)) (s : State) (hg : ∀ x ∈ l, s.chanOf x.1 = g) (hd : (l.map (·.1)).Nodup) (hl : Unmarked s l) :
    (l.foldl (fun s x => scrubSector x.1 x.2 s) s).fld (Reg.dbgBcnt (56 + 2 * g)) 47 0 =
      (s.fld (Reg.dbgBcnt (56 + 2 * g)) 47 0 + (l.map fun x => scrubBytes x.2).sum) % 2 ^ 48 := by
  induction l generalizing s with
  | nil => exact (fld_byte_mod s _).symm
  | cons x l ih =>
    rw [List.map_cons, List.nodup_cons] at hd
    have hx := hl x List.mem_cons_self
    have hm := metWord_scrubSector hx x.2
    have hchan := chanOf_congr (hm.reg_eq (not_scrubRegs_low (k := Reg.memCapacity) (by decide)))
    have hfirst := fld_scrubSector hx x.2
    rw [hg x List.mem_cons_self] at hfirst
    rw [List.foldl_cons, ih _ (fun y hy => (hchan y.1).trans (hg y (List.mem_cons_of_mem _ hy))) hd.2 (hl.step hd.1 hm), hfirst, Nat.mod_add_mod,
      List.map_cons, List.sum_cons, Nat.add_assoc]

theorem sum_scrubBytes (l : List EccFound) : (l.map scrubBytes).sum = 32 * l.length + 32 * (l.filter (· == .single)).length := by
  induction l with
  | nil => rfl
  | cons f l ih => cases f <;> simp [scrubBytes, ih] <;> omega

/-- A unit's eight sectors are read, and those corrected once more. -/
theorem sum_scrubBytes_eight (b n : Nat) (fs : List EccFound) : ((eightFound b n fs).map fun x => scrubBytes x.2).sum =
    256 + 32 * ((List.range 8).filter fun i => fs.getD i .clean == .single).length := by
  have h := sum_scrubBytes ((List.range 8).map fun i => fs.getD i .clean)
  rw [List.filter_map, List.length_map, List.length_map, List.length_range, List.map_map] at h
  unfold eightFound
  rw [List.map_map]
  exact h

/-- The state after a unit's sectors have been scrubbed. -/
def unitScrubbed (a : Nat) (fs : List EccFound) (s : State) : State :=
  (eightFound (a / 256 * 256) 32 fs).foldl (fun s x => scrubSector x.1 x.2 s) s

section
variable {s : State} (hup : s.up = true) {a : Nat}
include hup

theorem gscrub_not_due
    (h : s.sweepChan (s.chanOf a) = false ∨ s.sweepOff (s.chanOf a) = true ∨ calDue (s.chanOf a) s = true ∨ retrainDue (s.chanOf a) s = true) (fs : List EccFound) (e : Bool) : exec (.gscrub a fs e) s = .next s := by
  refine live_next hup (k := gscrub a fs e) (if_pos ?_) rfl
  simp only [Bool.or_eq_true, Bool.not_eq_true']
  tauto

/-- A unit that is due is scrubbed, and the pass that it ends is counted. -/
theorem exec_gscrub_end (ha : a < s.usable) (hch : s.sweepChan (s.chanOf a) = true) (hoff : s.sweepOff (s.chanOf a) = false)
    (hcal : calDue (s.chanOf a) s = false) (hre : retrainDue (s.chanOf a) s = false) (fs : List EccFound) (hp : (unitScrubbed a fs s).pending = s.pending) :
    exec (.gscrub a fs true) s =
      .next ((unitScrubbed a fs s).setFld Reg.relSweep 15 0 ((unitScrubbed a fs s).fld Reg.relSweep 15 0 + 1)) := by
  refine live_next hup (k := gscrub a fs true) ?_ ((setFld_pending ..).trans hp)
  unfold gscrub unitScrubbed eightFound
  rw [List.foldl_map]
  exact if_neg (by simp [Nat.not_le.2 ha, hch, hoff, hcal, hre])

theorem gscrub_end (ha : a < s.usable) (hch : s.sweepChan (s.chanOf a) = true) (hoff : s.sweepOff (s.chanOf a) = false)
    (hcal : calDue (s.chanOf a) s = false) (hre : retrainDue (s.chanOf a) s = false)
    (hun : ∀ i, i < 8 → tget false s.poison (a / 256 * 256 + 32 * i) = false) (fs : List EccFound) :
    ∃ t, exec (.gscrub a fs true) s = .next t ∧ t.mem = s.mem ∧ t.fld Reg.relSweep 15 0 = (s.fld Reg.relSweep 15 0 + 1) % 2 ^ 16 ∧
      (∀ i, i < 8 → tget false t.poison (a / 256 * 256 + 32 * i) = decide (fs.getD i .clean = .uncorrectable) ∧
        (fs.getD i .clean = .uncorrectable → a / 256 * 256 + 32 * i ∈ t.boot.repairMap)) ∧
      t.fld (Reg.dbgBcnt (56 + 2 * s.chanOf a)) 47 0 = (s.fld (Reg.dbgBcnt (56 + 2 * s.chanOf a)) 47 0 + 256 +
        32 * ((List.range 8).filter fun i => fs.getD i .clean == .single).length) % 2 ^ 48 := by
  have hd := eightFound_nodup (n := 32) (by decide) (a / 256 * 256) fs
  have hl := eightFound_unmarked hun fs
  have hrun : MetRun scrubRegs (eightFound (a / 256 * 256) 32 fs) s (unitScrubbed a fs s) :=
    metRun_foldl (fun k f s hk => metWord_scrubSector hk f) _ s hd hl
  have hg : ∀ x ∈ eightFound (a / 256 * 256) 32 fs, s.chanOf x.1 = s.chanOf a := fun x hx => by
    obtain ⟨i, hi, rfl⟩ := List.mem_map.1 hx
    have := List.mem_range.1 hi
    exact chanOf_unit s (by dsimp only; omega)
  have hsweep : (unitScrubbed a fs s).fld Reg.relSweep 15 0 = s.fld Reg.relSweep 15 0 := fld_of_reg _ 15 0 (hrun.reg_eq not_scrubRegs_relSweep)
  refine ⟨_, exec_gscrub_end hup ha hch hoff hcal hre fs hrun.pending_eq, ?_, ?_, fun i hi => ?_, ?_⟩
  · rw [setFld_mem, hrun.mem_eq]
  · rw [fld_setFld_self _ (by decide) (by decide), hsweep]
  · rw [setFld_poison, setFld_boot]
    exact hrun.eight hi
  · rw [fld_of_reg _ 47 0 (reg_setFld_ne _ (by simp only [fieldKey, Reg.dbgBcnt, Reg.relSweep]; omega)), unitScrubbed, fld_scrubRun _ s hg hd hl,
      sum_scrubBytes_eight, Nat.add_assoc]

end

end Sys2Proof.Machine
end

section
/-!
O34. Scrubs of SRAM, and words that no address reaches (R433, R434, R440).
-/
namespace Sys2Proof.Machine

/-! ### A line and its words -/

/-- A line of which nothing is found changes nothing, where a clean word does not. -/
theorem foldl_line_clean {op : Nat → EccFound → State → State} (hop : ∀ o s, op o .clean s = s) (o : Nat) (s : State) :
    (lineWords o []).foldl (fun s x => op x.1 x.2 s) s = s :=
  foldl_fixed fun x hx => by
    obtain ⟨i, -, rfl⟩ := List.mem_map.1 hx
    exact hop ..

/-- A line of which only the first word is found anything of. -/
theorem foldl_line_first {op : Nat → EccFound → State → State} (hop : ∀ o s, op o .clean s = s) (o : Nat) (f : EccFound) (s : State) :
    (lineWords o [f]).foldl (fun s x => op x.1 x.2 s) s = op (o / 64 * 64) f s := by
  simp [lineWords, List.range, List.range.loop, hop]

/-! ### Lines of addressable SRAM (R440) -/

/-- The eight words of a line of addressable SRAM have been read. -/
def lineRead (a : Nat) (fs : List EccFound) (s : State) : State := (lineWords a fs).foldl (fun s x => eccRead x.1 x.2 s) s

theorem sscrub_addr {s : State} (hr : s.sweepRuns = true) {a : Nat} (ha : s.isSram a = true) (fs : List EccFound) : sscrub (.addr a) fs false s =
    bankBytes false a 64 (lineRead a fs s) := by
  unfold sscrub
  rw [if_neg (by simp [hr])]
  dsimp only
  rw [if_pos ha]
  exact if_neg (by simp)

section
variable {s : State} {a : Nat} (hun : ∀ i, i < 8 → tget false s.poison (a / 64 * 64 + 8 * i) = false)
include hun

theorem lineRead_clean : lineRead a [] s = s := foldl_fixed fun x hx => by
  obtain ⟨i, hi, rfl⟩ := List.mem_map.1 hx
  exact eccRead_clean (hun i (List.mem_range.1 hi))

theorem metRun_lineRead (fs : List EccFound) : MetRun writeBackRegs (eightFound (a / 64 * 64) 8 fs) s (lineRead a fs s) := by
  rw [lineRead, lineWords_eq]
  exact metRun_foldl (fun k f s hk => metWord_eccRead hk f) _ s (eightFound_nodup (by decide) ..) (eightFound_unmarked hun fs)

variable (hup : s.up = true) (hr : s.sweepRuns = true) (ha : s.isSram a = true)
include hup hr ha

theorem exec_sscrub_addr_clean : exec (.sscrub (.addr a) [] false) s = .next (bankBytes false a 64 s) := by
  refine live_next hup (k := sscrub (.addr a) [] false) (by rw [sscrub_addr hr ha, lineRead_clean hun]) ?_
  exact (finds_bankBytes (P := fun _ => True) (fun _ _ => trivial) a 64 s).pending_eq

theorem exec_sscrub_addr (fs : List EccFound) :
    ∃ t, exec (.sscrub (.addr a) fs false) s = .next t ∧ t.mem = s.mem ∧
      ∀ i, i < 8 → tget false t.poison (a / 64 * 64 + 8 * i) = decide (fs.getD i .clean = .uncorrectable) ∧
        (fs.getD i .clean = .uncorrectable → a / 64 * 64 + 8 * i ∈ t.boot.repairMap) := by
  have hrun := metRun_lineRead hun fs
  have hbank : Finds (fun _ => True) (lineRead a fs s) (bankBytes false a 64 (lineRead a fs s)) := finds_bankBytes (fun _ _ => trivial) ..
  refine ⟨bankBytes false a 64 (lineRead a fs s), live_next hup (k := sscrub (.addr a) fs false) (sscrub_addr hr ha fs) ?_, ?_, fun i hi => ?_⟩
  · rw [hbank.pending_eq, hrun.pending_eq]
  · rw [hbank.mem_eq, hrun.mem_eq]
  · rw [hbank.poison_eq, bankBytes_boot]
    exact hrun.eight hi

end

/-! ### Media staging -/

theorem modStream_eq (s : State) (h : Nat) (f : Stream → Stream) : s.modStream h f = { s with media := (s.modStream h f).media } := by
  unfold State.modStream
  split <;> rfl

theorem modStream_media_congr {s t : State} (hm : t.media = s.media) (h : Nat) (f : Stream → Stream) :
    (t.modStream h f).media = (s.modStream h f).media := by
  unfold State.modStream State.stream?
  rw [hm]
  split
  · unfold State.putStream
    rw [hm]
  · exact hm

/-- A stream that meets an uncorrectable word changes, as it stands in the media blocks, and nothing else. -/
theorem stagingMet_eq {s t : State} (hm : t.media = s.media) (h : Nat) : stagingMet h t = { t with media := (stagingMet h s).media } := by
  unfold stagingMet count State.modEnc State.modDec
  rw [show t.stream? h = s.stream? h by unfold State.stream?; rw [hm]]
  split
  · rw [← hm]
  · split
    · rw [modStream_eq, modStream_media_congr (modStream_media_congr hm h _) h, modStream_eq t h]
    · split
      · rw [modStream_eq, modStream_media_congr (modStream_media_congr hm h _) h, modStream_eq t h]
      · rw [← hm]

/-- What a line of media staging leaves when its first word is found to be `f`. -/
theorem sscrub_staging {s : State} (hr : s.sweepRuns = true) (o : Nat) (u : Option (Fin 1024)) (f : EccFound) : sscrub (.mediaStaging o u) [f] false s =
    match u with
    | some h => if anyLost [f] then stagingMet h.val (eccInside 3 0x05 10 0 (o / 64 * 64) f s) else eccInside 3 0x05 10 0 (o / 64 * 64) f s
    | none => eccInside 3 0x05 10 0 (o / 64 * 64) f s := by
  unfold sscrub
  rw [if_neg (by simp [hr])]
  dsimp only
  rw [foldl_line_first fun _ _ => rfl]
  exact if_neg (by simp)

section
variable {s : State} (hup : s.up = true) (hr : s.sweepRuns = true) (o : Nat)
include hup hr

theorem exec_sscrub_staging_single :
    ∃ t, exec (.sscrub (.mediaStaging o none) [.single] false) s = .next t ∧
      t.fld (Reg.relCnt 3) 31 0 = satAdd 32 (s.fld (Reg.relCnt 3) 31 0) 1 ∧ t.mem = s.mem ∧ t.poison = s.poison := by
  have hfind : Finds errRegs s (eccInside 3 0x05 10 0 (o / 64 * 64) .single s) := finds_eccInside (fun i hi => errRegs_relCnt hi) (by decide) ..
  exact ⟨_, live_next hup (k := sscrub (.mediaStaging o none) [.single] false) (sscrub_staging hr o none .single) hfind.pending_eq,
    relCnt_eccInside_single (by decide) .., hfind.mem_eq, hfind.poison_eq⟩

theorem exec_sscrub_staging_uncorrectable (h : Fin 1024) :
    ∃ t, exec (.sscrub (.mediaStaging o (some h)) [.uncorrectable] false) s = .next t ∧
      t.fld (Reg.relCnt 4) 31 0 = satAdd 32 (s.fld (Reg.relCnt 4) 31 0) 1 ∧ t.media = (stagingMet h.val s).media := by
  have hfind : Finds errRegs s (eccInside 3 0x05 10 0 (o / 64 * 64) .uncorrectable s) :=
    finds_eccInside (fun i hi => errRegs_relCnt hi) (by decide) ..
  have hcount := relCnt_eccInside_uncorrectable (i := 3) (by decide) 0x05 10 0 (o / 64 * 64) s
  have hword : sscrub (.mediaStaging o (some h)) [.uncorrectable] false s =
      stagingMet h.val (eccInside 3 0x05 10 0 (o / 64 * 64) .uncorrectable s) := sscrub_staging hr o (some h) .uncorrectable
  generalize eccInside 3 0x05 10 0 (o / 64 * 64) .uncorrectable s = u at hfind hcount hword
  rw [stagingMet_eq hfind.media_eq h.val] at hword
  exact ⟨_, live_next hup hword hfind.pending_eq, hcount, rfl⟩

end

/-! ### Firmware complex SRAM (R434) -/

/-- A word of firmware complex SRAM is read. -/
def fwWord (core : Option Nat) (off : Nat) (f : EccFound) (s : State) : State := fwMeets off f core (eccInside 3 0x0E 13 0 off f s)

theorem fwWord_clean (core : Option Nat) (off : Nat) (s : State) : fwWord core off .clean s = s := rfl

theorem sscrub_fwSram {s : State} (hr : s.sweepRuns = true) (o : Nat) (core : Option Nat) (found : List EccFound) (e : Bool) {t : State}
    (ht : (lineWords o found).foldl (fun s x => fwWord core x.1 x.2 s) s = t) : sscrub (.fwSram o core) found e s =
      if e && t.sweepRuns then t.setFld Reg.relSweep 31 16 (t.fld Reg.relSweep 31 16 + 1) else t := by
  subst ht
  unfold sscrub
  exact if_neg (by simp [hr])

/-- Firmware stops: core `c` has read an uncorrectable word. -/
def fwLost (c off : Nat) (s : State) : State :=
  report ({ s with boot := { s.boot with fwStopped := true } }.setBit Reg.pwrStatus 42 true) 0x0E 0x90 c off 0

theorem fwMeets_uncorrectable (c off : Nat) (s : State) : fwMeets off .uncorrectable (some c) s = fwLost c off s := rfl

theorem fwLost_stopped (c off : Nat) (s : State) : (fwLost c off s).boot.fwStopped = true := by
  unfold fwLost
  rw [report_boot, setBit_boot]

theorem fwLost_hold (c off : Nat) (s : State) : (fwLost c off s).bit Reg.pwrStatus 42 = true :=
  (bit_congr (report_regs ..) _ _).trans (bit_setBit_self ..)

theorem fwLost_pending (c off : Nat) (s : State) : (fwLost c off s).pending = s.pending := (report_pending ..).trans (setBit_pending ..)

section
variable {s : State} (hup : s.up = true) (hr : s.sweepRuns = true) (o : Nat)
include hup hr

theorem exec_sscrub_fw_pass (core : Option Nat) :
    exec (.sscrub (.fwSram o core) [] true) s = .next (s.setFld Reg.relSweep 31 16 (s.fld Reg.relSweep 31 16 + 1)) := by
  refine live_next hup (k := sscrub (.fwSram o core) [] true) ?_ (setFld_pending ..)
  rw [sscrub_fwSram hr o core [] true (foldl_line_clean (fwWord_clean core) o s), if_pos (by simp [hr])]

/-- The core that reads an uncorrectable word stops, and with it firmware and its loops. -/
theorem exec_sscrub_fw_lost (c : Nat) :
    ∃ t, exec (.sscrub (.fwSram o (some c)) [.uncorrectable] false) s = .next t ∧ t.boot.fwStopped = true ∧ t.bit Reg.pwrStatus 42 = true ∧
      t.sweepRuns = false ∧ t.loopsRun = false := by
  have hfind : Finds errRegs s (eccInside 3 0x0E 13 0 (o / 64 * 64) .uncorrectable s) := finds_eccInside (fun i hi => errRegs_relCnt hi) (by decide) ..
  have hline := foldl_line_first (fwWord_clean (some c)) o .uncorrectable s
  rw [fwWord, fwMeets_uncorrectable] at hline
  have hstop := fwLost_stopped c (o / 64 * 64) (eccInside 3 0x0E 13 0 (o / 64 * 64) .uncorrectable s)
  refine ⟨_, live_next hup (k := sscrub (.fwSram o (some c)) [.uncorrectable] false) ((sscrub_fwSram hr o (some c) _ false hline).trans (if_neg (by simp))) ?_,
    hstop, fwLost_hold .., by simp [State.sweepRuns, hstop], by simp [State.loopsRun, hstop]⟩
  rw [fwLost_pending, hfind.pending_eq]

end

/-! ### Words inside engines (R433) -/

theorem running?_congr {s t : State} (h : t.qm = s.qm) (p : Nat) : t.running? p = s.running? p := by
  unfold State.running? State.win State.item State.queue
  rw [h]

theorem innerServes_congr {s t : State} {p : Nat} (h : t.coreList p = s.coreList p) (st : InnerStore) : innerServes t p st = innerServes s p st := by
  cases st <;> simp [innerServes, h]

theorem coreList_congr {s t : State} {p : Nat} (h : t.reg (Reg.qmPart p) = s.reg (Reg.qmPart p)) : t.coreList p = s.coreList p := by
  unfold State.coreList State.partCores
  rw [fld_of_reg (Reg.qmPart p) 15 0 h]

/-- The item of a descriptor that has changed, with its number kept. -/
theorem item_modItem {s : State} {q uid : Nat} {i : Item} (h : s.item q uid = some i) {f : Item → Item} (hf : ∀ j, (f j).uid = j.uid) :
    (s.modItem q uid f).item q uid = some (f i) := by
  have huid : i.uid = uid := eq_of_beq (List.find?_some (p := fun j : Item => j.uid == uid) h)
  unfold State.modItem State.modQueue State.setQueue State.item State.queue at *
  dsimp only
  rw [tget_tset_self]
  dsimp only
  rw [List.find?_map, show ((fun j : Item => j.uid == uid) ∘ fun j => if j.uid == uid then f j else j) = fun j => j.uid == uid from ?_, h]
  · simp [huid]
  · funext j
    dsimp only [Function.comp_apply]
    split
    · rw [hf]
    · rfl

/-- A descriptor that runs, with no error so far, stops with the error that it meets. -/
theorem running?_stopRun {s : State} {p : Nat} {x : Running} (h : s.running? p = some x) (hx : x.item.status.toNat < 0x10) (st : Stop) :
    (stopRun x st s).running? p = some { x with
      run := { x.run with stopped := true }
      item := { x.item with status := st.status, info := BitVec.ofNat 48 st.info, detail := BitVec.ofNat 8 st.detail } } := by
  unfold State.running? at h
  split at h
  · cases h
  · next r hr =>
    obtain ⟨i, hi, rfl⟩ := Option.map_eq_some_iff.1 h
    have hitem := item_modItem hi (f := fun i => if 0x10 ≤ i.status.toNat then i
      else { i with status := st.status, info := BitVec.ofNat 48 st.info, detail := BitVec.ofNat 8 st.detail }) (fun j => by split <;> rfl)
    rw [if_neg (by simpa using hx)] at hitem
    have hwin : ((stopRun ⟨p, r, i⟩ st s).win p).exec = some { r with stopped := true } := by
      unfold stopRun State.modRun State.modWin State.win
      dsimp only
      rw [tget_tset_self]
      exact congrArg (Option.map _) hr
    unfold State.running?
    rw [hwin]
    exact congrArg (Option.map _) hitem

/-- The descriptor in EXEC that meets the word stops. -/
theorem innerMeets_exec {s : State} {st : InnerStore} {p : Fin 16} {x : Running} (hx : s.running? p.val = some x)
    (hserve : innerServes s p.val st = true) : innerMeets st (.exec p) s = stopRun x innerStop s := by
  unfold innerMeets
  dsimp only
  rw [hx]
  exact if_pos hserve

/-- A line of a structure inside an engine of which the first word is uncorrectable. -/
def innerLost (st : InnerStore) (o : Nat) (s : State) : State :=
  eccInside 3 (innerCodes st).2.2 (innerCodes st).1 (innerCodes st).2.1 (o / 64 * 64) .uncorrectable s

theorem sscrub_inner_lost (st : InnerStore) (o : Nat) (p : Fin 16) (s : State) :
    sscrub (.inner st o (.exec p)) [.uncorrectable] false s = innerMeets st (.exec p) (innerLost st o s) := by
  unfold sscrub
  rw [if_neg (by simp [wordInUse])]
  dsimp only
  rw [foldl_line_first fun _ _ => rfl]
  exact if_neg (by simp)

theorem finds_innerLost (st : InnerStore) (o : Nat) (s : State) : Finds errRegs s (innerLost st o s) :=
  finds_eccInside (fun i hi => errRegs_relCnt hi) (by decide) ..

theorem exec_sscrub_inner {s : State} (hup : s.up = true) {st : InnerStore} (o : Nat) {p : Fin 16} {x : Running} (hx : s.running? p.val = some x)
    (hserve : innerServes s p.val st = true) (hok : x.item.status.toNat < 0x10) :
    ∃ t y, exec (.sscrub (.inner st o (.exec p)) [.uncorrectable] false) s = .next t ∧ t.running? p.val = some y ∧
      y.run = { x.run with stopped := true } ∧ y.item = { x.item with status := 0x20, info := 0xFFFFFFFFFFFF, detail := 0 } ∧ t.poison = s.poison := by
  have hfind := finds_innerLost st o s
  have hwork := sscrub_inner_lost st o p s
  generalize innerLost st o s = u at hfind hwork
  have hrun : u.running? p.val = some x := (running?_congr hfind.qm_eq p.val).trans hx
  have hpart : u.reg (Reg.qmPart p.val) = s.reg (Reg.qmPart p.val) := hfind.1 _ (by unfold errRegs Reg.relCnt Reg.qmPart; omega)
  rw [innerMeets_exec hrun ((innerServes_congr (coreList_congr hpart) st).trans hserve)] at hwork
  exact ⟨_, _, live_next hup hwork hfind.pending_eq, running?_stopRun hrun hok innerStop, rfl, rfl, hfind.poison_eq⟩

/-! ### Translation entries (R433) -/

/-- An entry of a TLB covers an address. -/
def TlbEntry.covers (va : Nat) (e : TlbEntry) : Bool := decide (e.va ≤ va) && decide (va < e.va + e.size)

theorem tlbHit_eq (s : State) (c va : Nat) : tlbHit s c va = (tget [] s.mmu.tlb c).find? (TlbEntry.covers va) := rfl

/-- The TLB of a core without the entries that cover an address, counted as a parity error. -/
def tlbDropped (c va : Nat) (s : State) : State :=
  { s with mmu := { s.mmu with tlb := tset [] s.mmu.tlb c ((tget [] s.mmu.tlb c).filter fun e => !e.covers va) } }.addSat (Reg.relCnt 3) 31 0 1

/-- A parity error of an entry that is there drops it. -/
theorem tlbParity_hit {s : State} {c va : Nat} {e : TlbEntry} (h : tlbHit s c va = some e) : tlbParity c va s = tlbDropped c va s := by
  refine if_neg fun hlen => ?_
  have hall := List.length_filter_eq_length_iff.1 hlen e (List.mem_of_find?_eq_some h)
  have hcov : e.covers va = true := List.find?_some h
  have hno : (!e.covers va) = true := hall
  rw [hcov] at hno
  cases hno

theorem tlbHit_tlbDropped (s : State) (c va : Nat) : tlbHit (tlbDropped c va s) c va = none := by
  rw [tlbHit_eq, tlbDropped, addSat_mmu, tget_tset_self, List.find?_eq_none]
  intro x hx
  simpa using (List.mem_filter.1 hx).2

theorem exec_sscrub_tlb {s : State} (hup : s.up = true) {c : Fin 16} {va : Nat} {e : TlbEntry} (h : tlbHit s c.val va = some e) :
    ∃ t, exec (.sscrub (.tlb c va) [.uncorrectable] false) s = .next t ∧ tlbHit t c.val va = none ∧
      t.fld (Reg.relCnt 3) 31 0 = satAdd 32 (s.fld (Reg.relCnt 3) 31 0) 1 ∧ t.mem = s.mem ∧ t.poison = s.poison ∧ t.ember = s.ember := by
  have hwork : sscrub (.tlb c va) [.uncorrectable] false s = tlbDropped c.val va s := by
    rw [← tlbParity_hit h]
    unfold sscrub
    rw [if_neg (by simp [wordInUse])]
    exact if_neg (by simp)
  exact ⟨_, live_next hup hwork (addSat_pending ..), tlbHit_tlbDropped .., fld_addSat_self _ (by decide) (by decide), addSat_mem .., addSat_poison ..,
    addSat_ember ..⟩

end Sys2Proof.Machine
end

section
/-!
O34. The activities of Sweep on a channel, wear levelling, and telemetry (R435, R437, R438, R441, R448).
-/
namespace Sys2Proof.Machine

/-! ### An activity starts -/

/-- The suspension of a channel is behind it once an activity has started on it. -/
theorem resumed_cleared (x : BitVec 16) {g : Nat} (hg : g < 16) : (x &&& ~~~(BitVec.ofNat 16 (2 ^ g))).toNat.testBit g = false := by
  rw [BitVec.testBit_toNat, BitVec.getLsbD_and, BitVec.getLsbD_not, BitVec.getLsbD_ofNat]
  simp [hg, Nat.testBit_two_pow_self]

theorem sweepStart_offUntil (g ns : Nat) (s : State) :
    tget 0 (sweepStart g ns s).sweep.offUntil g = s.clock.timeF + BitVec.ofNat 64 ns := tget_tset_self ..

theorem sweepStart_resumed {g : Nat} (hg : g < 16) (ns : Nat) (s : State) : (sweepStart g ns s).sweep.resumed.toNat.testBit g = false :=
  resumed_cleared s.sweep.resumed hg

/-! ### RETRAIN (R437, R448) -/

theorem retrainMay_iff (g : Nat) (moved : Bool) (s : State) : retrainMay g moved s = true ↔
    s.sweepChan g = true ∧ s.sweepOff g = false ∧ (retrainDue g s = true ∨ moved = true ∧ tget 0 s.fabric.retrain g = 0) ∧
      (calDue g s = false ∨ s.sweep.resumed.toNat.testBit g = true) := by
  simp [retrainMay, and_assoc]

/-- A step of a retraining has begun: its time is kept, and the channel is offline for it. -/
def retrainBegun (g : Nat) (s : State) : State :=
  sweepStart g (if tget 0 s.fabric.retrain g + 1 < 3 then 16000 else 8000)
    { s with sweep := { s.sweep with stepAt := tset 0 s.sweep.stepAt g s.clock.timeF } }

theorem retrainBegun_resumed {g : Nat} (hg : g < 16) (s : State) : (retrainBegun g s).sweep.resumed.toNat.testBit g = false := by
  unfold retrainBegun
  exact sweepStart_resumed hg ..

/-- The steps that a channel's retraining has behind it. -/
def retrainSteps (g n : Nat) (s : State) : State := { s with fabric := { s.fabric with retrain := tset 0 s.fabric.retrain g n } }

/-- The last step of a retraining counts one. -/
def retrainEnded (g : Nat) (s : State) : State :=
  { s with sweep := { s.sweep with retrainAt := tset 0 s.sweep.retrainAt g s.clock.timeF } }.setFld Reg.relSweep 47 32 (s.fld Reg.relSweep 47 32 + 1)

theorem retrainSteps_self (g n : Nat) (s : State) : tget 0 (retrainSteps g n s).fabric.retrain g = n := tget_tset_self ..

section
variable {g : Nat} {x : RetrainStep} {s : State} (hmay : retrainMay g x.moved s = true)
include hmay

/-- What a step that may start leaves. -/
theorem retrainStep_may : retrainStep g x s =
    if x.trained = false then channelFailed g (retrainSteps g 0 (retrainBegun g s))
    else if tget 0 s.fabric.retrain g < 2 then retrainSteps g (tget 0 s.fabric.retrain g + 1) (retrainBegun g s)
    else retrainEnded g (retrainSteps g ((tget 0 s.fabric.retrain g + 1) % 3) (retrainBegun g s)) := by
  unfold retrainStep
  rw [if_neg (by simp [hmay])]
  cases x.trained with
  | false => rfl
  | true =>
    by_cases hn : tget 0 s.fabric.retrain g < 2
    · have hmod : (tget 0 s.fabric.retrain g + 1) % 3 = tget 0 s.fabric.retrain g + 1 := Nat.mod_eq_of_lt (by omega)
      have hlt : tget 0 s.fabric.retrain g + 1 < 3 := by omega
      simp [hn, hlt, hmod, retrainSteps, retrainBegun]
    · have hlt : ¬ tget 0 s.fabric.retrain g + 1 < 3 := by omega
      simp [hn, hlt, retrainSteps, retrainBegun, retrainEnded]

theorem retrainStep_failed (ht : x.trained = false) : retrainStep g x s = channelFailed g (retrainSteps g 0 (retrainBegun g s)) := by
  rw [retrainStep_may hmay, if_pos ht]

theorem retrainStep_next (ht : x.trained = true) (hn : tget 0 s.fabric.retrain g < 2) :
    retrainStep g x s = retrainSteps g (tget 0 s.fabric.retrain g + 1) (retrainBegun g s) := by
  rw [retrainStep_may hmay, if_neg (by simp [ht]), if_pos hn]

theorem retrainStep_last (ht : x.trained = true) (hn : tget 0 s.fabric.retrain g = 2) :
    retrainStep g x s = retrainEnded g (retrainSteps g 0 (retrainBegun g s)) := by
  rw [retrainStep_may hmay, if_neg (by simp [ht]), if_neg (by omega), hn]

/-- Whatever becomes of it, the step has begun, and no byte of memory changes. -/
theorem retrainStep_begun : (retrainStep g x s).mem = s.mem ∧ (retrainStep g x s).pending = s.pending ∧
    (retrainStep g x s).sweep = { (retrainBegun g s).sweep with retrainAt := (retrainStep g x s).sweep.retrainAt } := by
  rw [retrainStep_may hmay]
  split
  · obtain ⟨hp, -, -, -, hm⟩ := channelFailed_outcome g (retrainSteps g 0 (retrainBegun g s))
    refine ⟨hm, hp, ?_⟩
    rw [channelFailed, degrade, with_pins_sweep, setStatus_sweep, setStatus_sweep, report_sweep]
    rfl
  · split
    · exact ⟨rfl, rfl, rfl⟩
    · exact ⟨setFld_mem .., setFld_pending .., by rw [retrainEnded, setFld_sweep]; rfl⟩

end

theorem exec_retrain_not {s : State} (hup : s.up = true) {g : Fin 16} {x : RetrainStep} (h : ¬ retrainMay g.val x.moved s = true) :
    exec (.retrain g x) s = .next s :=
  live_next hup (k := retrainStep g.val x) (if_pos (by simpa using h)) rfl

theorem exec_retrain {s : State} (hup : s.up = true) {g : Fin 16} {x : RetrainStep} (hmay : retrainMay g.val x.moved s = true) :
    let n := tget 0 s.fabric.retrain g.val
    ∃ t, exec (.retrain g x) s = .next t ∧ t.mem = s.mem ∧ tget 0 t.sweep.stepAt g.val = s.clock.timeF ∧
      tget 0 t.sweep.offUntil g.val = s.clock.timeF + (if n < 2 then 16000 else 8000) ∧ t.sweep.resumed.toNat.testBit g.val = false ∧
      (x.trained = true → n < 2 → tget 0 t.fabric.retrain g.val = n + 1 ∧ t.regs = s.regs) ∧
      (x.trained = true → n = 2 → tget 0 t.fabric.retrain g.val = 0 ∧ t.fld Reg.relSweep 47 32 = (s.fld Reg.relSweep 47 32 + 1) % 2 ^ 16 ∧
        tget 0 t.sweep.retrainAt g.val = s.clock.timeF) ∧
      (x.trained = false → t.fabric.chFailed = s.fabric.chFailed ||| BitVec.ofNat 16 (2 ^ g.val) ∧ t.bit Reg.glbStatus 3 = true) := by
  intro n
  obtain ⟨hmem, hpend, hsweep⟩ := retrainStep_begun hmay
  refine ⟨_, live_next hup (k := retrainStep g.val x) rfl hpend, hmem, ?_, ?_, ?_, fun ht hn => ?_, fun ht hn => ?_, fun ht => ?_⟩
  · rw [hsweep]
    exact tget_tset_self ..
  · rw [hsweep]
    refine (sweepStart_offUntil ..).trans ?_
    by_cases hn : n < 2
    · rw [if_pos hn, if_pos (Nat.succ_lt_succ hn)]
      rfl
    · rw [if_neg hn, if_neg fun h => hn (Nat.lt_of_succ_lt_succ h)]
      rfl
  · rw [hsweep]
    exact retrainBegun_resumed g.isLt s
  · rw [retrainStep_next hmay ht hn]
    exact ⟨retrainSteps_self .., rfl⟩
  · rw [retrainStep_last hmay ht hn]
    refine ⟨?_, ?_, ?_⟩
    · rw [retrainEnded, setFld_fabric]
      exact retrainSteps_self ..
    · exact fld_setFld_self _ (by decide) (by decide)
    · rw [retrainEnded, setFld_sweep]
      exact tget_tset_self ..
  · rw [retrainStep_failed hmay ht]
    obtain ⟨-, hfail, -, hbit, -⟩ := channelFailed_outcome g.val (retrainSteps g.val 0 (retrainBegun g.val s))
    exact ⟨hfail, hbit⟩

/-! ### CAL (R437, R438) -/

/-- A calibration step of a channel has begun. -/
def calBegun (g : Nat) (s : State) : State := sweepStart g 1000 { s with sweep := { s.sweep with calAt := tset 0 s.sweep.calAt g s.clock.timeF } }

theorem calBegun_calAt (g : Nat) (s : State) : tget 0 (calBegun g s).sweep.calAt g = s.clock.timeF := tget_tset_self ..

theorem calDue_calBegun (g : Nat) (s : State) : calDue g (calBegun g s) = false := by
  unfold calDue since
  rw [calBegun_calAt]
  exact decide_eq_false (Nat.not_le.2 (Nat.lt_add_of_pos_right (by decide)))

theorem exec_cal_not {s : State} (hup : s.up = true) {g : Fin 16}
    (h : ¬(s.sweepChan g.val = true ∧ s.sweepOff g.val = false ∧ calDue g.val s = true ∧ retrainFirst g.val s = false)) : exec (.cal g) s = .next s := by
  refine live_next hup (k := calStep g.val) (if_pos ?_) rfl
  simp only [Bool.or_eq_true, Bool.not_eq_true']
  grind

theorem exec_cal {s : State} (hup : s.up = true) {g : Fin 16}
    (h : s.sweepChan g.val = true ∧ s.sweepOff g.val = false ∧ calDue g.val s = true ∧ retrainFirst g.val s = false) :
    exec (.cal g) s = .next (calBegun g.val s) := by
  obtain ⟨hch, hoff, hcal, hre⟩ := h
  exact live_next hup (k := calStep g.val) (if_neg (by simp [hch, hoff, hcal, hre])) rfl

/-! ### WEAR (R433, R435) -/

theorem exec_wear_clean {s : State} (hup : s.up = true) (o : Nat) : exec (.wear o .clean) s = .next s := by
  refine live_next hup (k := wearStep o .clean) ?_ rfl
  unfold wearStep
  split <;> rfl

theorem journalFinds_regs (o : Nat) (f : EccFound) (s : State) : (journalFinds o f s).regs = s.regs := by
  unfold journalFinds modJournal
  split <;> rfl

theorem journalFinds_pending (o : Nat) (f : EccFound) (s : State) : (journalFinds o f s).pending = s.pending := by
  unfold journalFinds modJournal
  split <;> rfl

/-- Where a copy of the record of margins stands, it breaks. -/
theorem journalFinds_marginRecord (o : Nat) (s : State) : (journalFinds o .uncorrectable s).boot.marginRecord =
    match Config.journalPlace o with
    | some (2, newer) => recordBreak newer s.boot.marginRecord
    | _ => s.boot.marginRecord := by
  unfold journalFinds modJournal
  grind

theorem exec_wear_uncorrectable {s : State} (hup : s.up = true) (hr : s.sweepRuns = true) (o : Nat) :
    ∃ t, exec (.wear o .uncorrectable) s = .next t ∧ t.fld (Reg.relCnt 8) 31 0 = satAdd 32 (s.fld (Reg.relCnt 8) 31 0) 1 ∧
      t.boot.marginRecord = (match Config.journalPlace o with | some (2, newer) => recordBreak newer s.boot.marginRecord | _ => s.boot.marginRecord) := by
  have hfind : Finds errRegs s (flashFinds o .uncorrectable s) := finds_eccInside (fun i hi => errRegs_relCnt hi) (by decide) ..
  refine ⟨journalFinds o .uncorrectable (flashFinds o .uncorrectable s), live_next hup (k := wearStep o .uncorrectable) (if_pos hr) ?_, ?_, ?_⟩
  · rw [journalFinds_pending, hfind.pending_eq]
  · rw [fld_congr (journalFinds_regs ..)]
    exact relCnt_eccInside_uncorrectable (i := 7) (by decide) 0x0A 14 0 o s
  · rw [journalFinds_marginRecord, hfind.marginRecord_eq]

/-! ### TELEM (R437) -/

theorem exec_telem {s : State} (hup : s.up = true) {h : Fin 4} (hr : s.sweepRuns = true)
    (hdue : (tget 0 s.sweep.telemAt h.val).toNat + 1000000000 ≤ s.clock.timeF.toNat) :
    exec (.telem h) s = .next { s with sweep := { s.sweep with telemAt := tset 0 s.sweep.telemAt h.val s.clock.timeF } } :=
  live_next hup (k := telemStep h.val) (if_pos (Bool.and_eq_true_iff.2 ⟨hr, decide_eq_true hdue⟩)) rfl

theorem exec_telem_not {s : State} (hup : s.up = true) {h : Fin 4}
    (hnot : s.sweepRuns = false ∨ s.clock.timeF.toNat < (tget 0 s.sweep.telemAt h.val).toNat + 1000000000) : exec (.telem h) s = .next s := by
  refine live_next hup (k := telemStep h.val) (if_neg fun e => ?_) rfl
  obtain ⟨hr', hdue⟩ := Bool.and_eq_true_iff.1 e
  rcases hnot with hr | hlt
  · exact absurd hr' (by simp [hr])
  · exact Nat.not_le.2 hlt (of_decide_eq_true hdue)

end Sys2Proof.Machine
end

section
open Sys2Proof Sys2Proof.Machine

/-- Settles O34: each command comes to one of its cases, and what the check codes find moves no more than its frame says. -/
theorem sectorErrorsAndSweep : Obligations.SectorErrorsAndSweep := by
  unfold Obligations.SectorErrorsAndSweep
  intro s hup
  refine ⟨fun a ha => ⟨gddr6Read_clean hup ha, gddr6Read_single hup ha, gddr6Read_uncorrectable hup ha, ?_, ?_⟩, fun o core hr => ⟨?_, ?_, ?_, ?_⟩,
    fun st o p x hx hserve hok => exec_sscrub_inner hup o hx hserve hok, fun c va e he => exec_sscrub_tlb hup he,
    fun a hr ha hun => ⟨exec_sscrub_addr_clean hun hup hr ha, exec_sscrub_addr hun hup hr ha⟩, fun g x => ⟨fun hmay => ?_, fun hmay => ?_⟩,
    fun g => ⟨exec_cal_not hup, fun hmay => ?_⟩, exec_wear_clean hup, fun o hr => exec_wear_uncorrectable hup hr o,
    fun h => ⟨exec_telem hup, exec_telem_not hup⟩⟩
  · exact gscrub_end hup ha
  · exact fun fs e hnot => gscrub_not_due hup hnot fs e
  · exact exec_sscrub_staging_single hup hr o
  · exact exec_sscrub_staging_uncorrectable hup hr o
  · exact exec_sscrub_fw_pass hup hr o core
  · exact exec_sscrub_fw_lost hup hr o
  · exact exec_retrain_not hup fun h => hmay ((retrainMay_iff ..).1 h)
  · exact exec_retrain hup ((retrainMay_iff ..).2 hmay)
  · exact ⟨_, exec_cal hup hmay, rfl, calBegun_calAt .., calDue_calBegun .., sweepStart_offUntil ..⟩

end

section
/-!
SUPPORT. The accesses of a unit before its writes arrive (R53, R108): device memory and the queue manager stay as they are, and the bytes to be
written stand in rising order of their addresses, so that what lands is what each address was given last. The frames
`Reads` and `Works` say less: both let the queue manager change, and `Works` memory too.
-/
namespace Sys2Proof.Machine

/-! ### Bytes in rising order, and where they land -/

/-- Bytes by physical address, addresses strictly rising. -/
abbrev Rising (m : Memory) : Prop := m.Pairwise fun x y => x.1 < y.1

theorem rising_tput {m : Memory} (h : Rising m) (k : Nat) (b : Byte) : Rising (tput m k b) := by
  induction m with
  | nil => exact List.pairwise_singleton ..
  | cons x t ih =>
    obtain ⟨j, w⟩ := x
    obtain ⟨hj, ht⟩ := List.pairwise_cons.1 h
    unfold tput
    split
    · next e => exact List.pairwise_cons.2 ⟨e ▸ hj, ht⟩
    · split
      · next hk =>
        refine List.pairwise_cons.2 ⟨fun y hy => ?_, h⟩
        rcases List.mem_cons.1 hy with rfl | hy
        · exact hk
        · exact hk.trans (hj y hy)
      · exact List.pairwise_cons.2 ⟨allAbove_tput j t k b hj (by omega), ih ht⟩

theorem rising_putBytes {m : Memory} (h : Rising m) (pa : Nat) (bs : List Byte) : Rising (putBytes m pa bs) := by
  induction bs generalizing m pa with
  | nil => exact h
  | cons b bs ih => exact ih (rising_tput h pa b) (pa + 1)

theorem tfind_of_allAbove {m : Memory} {k : Nat} (h : allAbove k m) : tfind m k = none := by
  induction m with
  | nil => rfl
  | cons x t ih =>
    obtain ⟨j, w⟩ := x
    have hj : k < j := h (j, w) List.mem_cons_self
    rw [tfind, if_neg (by omega)]
    exact ih fun y hy => h y (List.mem_cons_of_mem _ hy)

/-- The runs of a table, written one after the other, are its bytes written one after the other. -/
theorem foldl_byteRuns (out m : Memory) :
    (byteRuns out).foldl (fun m (r : Nat × List Byte) => mwrite m r.1 r.2) m = out.foldl (fun m x => mset m x.1 x.2) m := by
  induction out generalizing m with
  | nil => rfl
  | cons x t ih =>
    obtain ⟨k, b⟩ := x
    rw [List.foldl_cons, ← ih]
    cases e : byteRuns t with
    | nil => simp [byteRuns, e, mwrite]
    | cons r rs =>
      simp only [byteRuns, e]
      split
      · next hj => rw [List.foldl_cons, List.foldl_cons, hj, mwrite]
      · rfl

/-- Bytes in rising order, written one after the other: each address reads its byte, and every other reads as before. -/
theorem mget_foldl_mset {out : Memory} (h : Rising out) (m : Memory) (a : Nat) :
    mget (out.foldl (fun m x => mset m x.1 x.2) m) a = (tfind out a).getD (mget m a) := by
  induction out generalizing m with
  | nil => rfl
  | cons x t ih =>
    obtain ⟨k, b⟩ := x
    obtain ⟨hk, ht⟩ := List.pairwise_cons.1 h
    rw [List.foldl_cons, ih ht, mget_mset, tfind]
    by_cases e : k = a
    · subst e
      rw [if_pos rfl, if_pos rfl, tfind_of_allAbove hk]
      rfl
    · rw [if_neg e, if_neg fun e' => e e'.symm]

/-! ### What accesses keep -/

/-- What neither the scheduler's work nor a core's accesses or landing writes touch: the running number of free values, and that writes land. -/
structure Keeps (s t : State) : Prop where
  free : t.free = s.free
  land : WritesLand s → WritesLand t

/-- What the scheduler's work keeps: device memory too. -/
structure Calm (s t : State) : Prop extends Keeps s t where
  mem : t.mem = s.mem

/-- What a core's accesses and the landing of its writes keep: the queue manager too. -/
structure Carries (s t : State) : Prop extends Keeps s t where
  qm : t.qm = s.qm

/-- What a core's accesses keep until its writes arrive: device memory too. -/
structure Accesses (s t : State) : Prop extends Carries s t where
  mem : t.mem = s.mem

theorem Keeps.trans {s t u : State} (h : Keeps s t) (h' : Keeps t u) : Keeps s u := ⟨h'.free.trans h.free, fun hs => h'.land (h.land hs)⟩

theorem Carries.refl (s : State) : Carries s s := ⟨⟨rfl, id⟩, rfl⟩
theorem Accesses.refl (s : State) : Accesses s s := ⟨.refl s, rfl⟩

theorem Carries.trans {s t u : State} (h : Carries s t) (h' : Carries t u) : Carries s u :=
  ⟨h.toKeeps.trans h'.toKeeps, h'.qm.trans h.qm⟩

theorem Accesses.trans {s t u : State} (h : Accesses s t) (h' : Accesses t u) : Accesses s u :=
  ⟨h.toCarries.trans h'.toCarries, h'.mem.trans h.mem⟩

theorem Accesses.ite {c : Prop} [Decidable c] {s a b : State} (ha : Accesses s a) (hb : Accesses s b) : Accesses s (if c then a else b) := by
  split
  · exact ha
  · exact hb

theorem Accesses.foldl {α : Type} {g : State → α → State} (hg : ∀ s a, Accesses s (g s a)) (l : List α) (s : State) : Accesses s (l.foldl g s) := by
  induction l generalizing s with
  | nil => exact .refl s
  | cons a l ih => exact (hg s a).trans (ih _)

theorem Carries.foldl {α : Type} {g : State → α → State} (hg : ∀ s a, Carries s (g s a)) (l : List α) (s : State) : Carries s (l.foldl g s) := by
  induction l generalizing s with
  | nil => exact .refl s
  | cons a l ih => exact (hg s a).trans (ih _)

/-! ### Counters, reports and errors -/

theorem accesses_with_regs (s : State) (x : Tab W64) : Accesses s { s with regs := x } := ⟨⟨⟨rfl, id⟩, rfl⟩, rfl⟩
theorem accesses_with_mmu (s : State) (x : Mmu) : Accesses s { s with mmu := x } := ⟨⟨⟨rfl, id⟩, rfl⟩, rfl⟩
theorem accesses_setFld (s : State) (k hi lo v : Nat) : Accesses s (s.setFld k hi lo v) := accesses_with_regs ..
theorem accesses_addSat (s : State) (k hi lo n : Nat) : Accesses s (s.addSat k hi lo n) := accesses_with_regs ..
theorem accesses_bump (s : State) (i n : Nat) : Accesses s (bump s i n) := accesses_with_regs ..
theorem accesses_viol (s : State) (addr kind part : Nat) : Accesses s (viol s addr kind part) := (accesses_addSat ..).trans (accesses_with_regs ..)

theorem OnlyCounted.accesses {s t : State} (h : OnlyCounted s t) : Accesses s t := by
  rw [h.2]
  exact accesses_with_regs ..

theorem accesses_report (s : State) (src code a0 a1 a2 : Nat) : Accesses s (report s src code a0 a1 a2) := by
  unfold report
  dsimp only
  split <;> exact ⟨⟨⟨rfl, id⟩, rfl⟩, rfl⟩

theorem accesses_countAccess (ag : Agent) (w : Bool) (s : State) (a n : Nat) : Accesses s (countAccess ag w s a n) := by
  have hflue : ∀ s a b, Accesses s (flueAccess s w a b n) := fun s a b => (onlyCounted_flueAccess s w a b n).accesses
  unfold countAccess
  dsimp only
  generalize (if w = true then 1 else 0) = b
  split
  · have hg := (onlyCounted_countGddr w (n / 256 + 2) s a n).accesses
    cases ag with
    | core c => exact hg.trans (accesses_bump ..)
    | _ => exact hg
  · cases ag with
    | core c => exact (accesses_bump ..).trans (hflue ..)
    | _ => exact (accesses_bump ..).trans (accesses_bump ..)
  · cases ag with
    | core c => exact (accesses_bump ..).trans (hflue ..)
    | _ => exact (accesses_bump ..).trans (accesses_bump ..)
  · exact .refl s
  · cases ag with
    | core c => exact accesses_bump ..
    | _ => exact .refl s

theorem accesses_lostTaken (s : State) (w : Bool) (a n : Nat) : Accesses s (s.lostTaken w a n) :=
  ⟨⟨⟨rfl, fun ⟨hch, hlost⟩ => ⟨hch, by simp [State.lostTaken, hlost]⟩⟩, rfl⟩, rfl⟩

theorem accesses_repairAdd (s : State) (k : Nat) : Accesses s (repairAdd s k) := by
  unfold repairAdd
  split
  · exact .refl s
  · exact ⟨⟨⟨rfl, id⟩, rfl⟩, rfl⟩

theorem accesses_errUncorrectable (s : State) (k : Nat) : Accesses s (errUncorrectable s k) :=
  ((accesses_addSat ..).trans (accesses_report ..)).trans (accesses_repairAdd ..)

theorem accesses_devRead (ag : Agent) (s : State) (a n : Nat) : Accesses s (devRead ag s a n).1 := by
  have hc := accesses_countAccess ag false s a n
  unfold devRead
  dsimp only
  split
  · exact hc.trans (accesses_errUncorrectable ..)
  · split
    · exact hc.trans (accesses_lostTaken ..)
    · exact hc

/-! ### Writes that arrive -/

theorem carries_storeSectors (f : Nat) (s : State) (a : Nat) (bs : List Byte) : Carries s (storeSectors f s a bs) := by
  induction f generalizing s a bs with
  | zero => exact .refl s
  | succ f ih =>
    cases bs with
    | nil => exact .refl s
    | cons b t =>
      refine .trans ?_ (ih ..)
      split
      · exact (accesses_report ..).toCarries
      · split
        · exact (accesses_lostTaken ..).toCarries
        · exact ⟨⟨rfl, id⟩, rfl⟩

/-- What comes before the bytes of a write are stored: it is counted, and its partial sectors are read. -/
theorem accesses_beforeStore (ag : Agent) (s : State) (a n : Nat) : Accesses s (rmwErrors (countAccess ag true s a n) a n) := by
  refine (accesses_countAccess ag true s a n).trans ?_
  unfold rmwErrors
  exact .ite (.foldl (fun s k => .ite (accesses_errUncorrectable s k) (.refl s)) _ _) (.refl _)

theorem carries_devWrite (ag : Agent) (s : State) (a : Nat) (bs : List Byte) : Carries s (devWrite ag s a bs) := by
  have h := (accesses_beforeStore ag s a bs.length).toCarries
  unfold devWrite
  dsimp only
  split
  · exact h.trans ⟨⟨rfl, id⟩, rfl⟩
  · exact h.trans (carries_storeSectors ..)

theorem devWrite_mem {s : State} (h : WritesLand s) (ag : Agent) (a : Nat) (bs : List Byte) : (devWrite ag s a bs).mem = mwrite s.mem a bs := by
  have hb := accesses_beforeStore ag s a bs.length
  unfold devWrite
  dsimp only
  rw [← hb.mem]
  exact congrArg State.mem (if_pos (hb.land h))

theorem carries_land (c : Nat) (a : Acc) : Carries a.s (a.land c) := .foldl (fun s (r : Nat × List Byte) => carries_devWrite _ s r.1 r.2) _ _

/-- Runs of bytes that arrive one after the other are stored one after the other. -/
theorem foldl_devWrite_mem (ag : Agent) (l : List (Nat × List Byte)) {s : State} (h : WritesLand s) :
    (l.foldl (fun s r => devWrite ag s r.1 r.2) s).mem = l.foldl (fun m (r : Nat × List Byte) => mwrite m r.1 r.2) s.mem := by
  induction l generalizing s with
  | nil => rfl
  | cons r l ih => rw [List.foldl_cons, ih ((carries_devWrite ..).land h), devWrite_mem h, List.foldl_cons]

theorem land_mem {a : Acc} (h : WritesLand a.s) (c : Nat) : (a.land c).mem = a.out.foldl (fun m x => mset m x.1 x.2) a.s.mem :=
  (foldl_devWrite_mem _ _ h).trans (foldl_byteRuns ..)

/-! ### The accesses of one unit -/

/-- One access after another: the state keeps what accesses keep, and the bytes to be written stay in rising order. -/
structure Acc.Goes (a b : Acc) : Prop where
  state : Accesses a.s b.s
  rising : Rising a.out → Rising b.out

theorem Acc.Goes.refl (a : Acc) : a.Goes a := ⟨.refl _, id⟩
theorem Acc.Goes.trans {a b c : Acc} (h : a.Goes b) (h' : b.Goes c) : a.Goes c := ⟨h.state.trans h'.state, fun ha => h'.rising (h.rising ha)⟩

/-- A fold whose accumulator carries the accesses. -/
theorem Acc.Goes.foldlBy {α σ : Type} {g : σ → α → σ} (acc : σ → Acc) (hg : ∀ x k, (acc x).Goes (acc (g x k))) (l : List α) (x : σ) :
    (acc x).Goes (acc (l.foldl g x)) := by
  induction l generalizing x with
  | nil => exact .refl _
  | cons k l ih => exact (hg x k).trans (ih _)

/-- An access that writes nothing: the state moves as accesses may, and what has been read or refused is noted. -/
theorem Acc.Goes.state_only {a : Acc} {t : State} (h : Accesses a.s t) (seen : Tab Bool) (stop : Option Stop) (low : Option Nat) :
    a.Goes { s := t, seen := seen, out := a.out, stop := stop, low := low } := ⟨h, id⟩

/-- What a unit has gathered from its start in a state lands when it arrives, and the queue manager stays as it was. -/
theorem Acc.Goes.lands {s : State} {a : Acc} (h : Acc.Goes { s := s } a) (c : Nat) (hs : WritesLand s) : Lands a.out s (a.land c) := by
  intro k
  rw [land_mem (h.state.land hs), mget_foldl_mset (h.rising List.Pairwise.nil), h.state.mem]

theorem goes_fail (a : Acc) (st info detail : Nat) : a.Goes (a.fail st info detail) := by
  unfold Acc.fail
  split
  · exact .refl a
  · exact .state_only (.refl _) ..

theorem goes_viol (a : Acc) (addr kind part : Nat) : a.Goes (a.viol addr kind part) := by
  unfold Acc.viol
  split
  · exact .state_only (accesses_addSat ..) ..
  · exact .state_only (accesses_viol ..) ..

theorem accesses_walkFrom (c part : Nat) (seq : Bool) (va level table : Nat) (s : State) : Accesses s (walkFrom c part seq va level table s).1 := by
  induction level generalizing table s with
  | zero => exact .refl s
  | succ level ih =>
    have hr := accesses_devRead (.core c) s (table + 8 * levelIdx seq (level + 1) va) 8
    unfold walkFrom
    dsimp only
    split
    · exact hr
    split
    · exact hr
    split
    · exact hr
    split
    · exact hr
    · exact (hr.trans (accesses_with_mmu ..)).trans (ih ..)

theorem accesses_translate (s : State) (c part va : Nat) : Accesses s (translate s c part va).1 := by
  have hw : Accesses s (walk s c part va).1 := by
    unfold walk
    dsimp only
    split
    · exact .refl s
    · split <;> exact accesses_walkFrom ..
  unfold translate
  split
  · exact .refl s
  · split
    · exact accesses_with_mmu ..
    · dsimp only
      split
      · exact hw.trans (accesses_with_mmu ..)
      · exact hw

theorem goes_resolve (c part : Nat) (copy write : Bool) (va : Nat) (a : Acc) : a.Goes (resolve c part copy write va a).2 := by
  have ht : a.Goes { a with s := (translate a.s c part va).1 } := .state_only (accesses_translate ..) ..
  unfold resolve
  dsimp only
  split
  · split
    · exact goes_viol ..
    · exact .refl a
  · split
    · exact ht.trans (goes_fail ..)
    · exact ht.trans (goes_fail ..)
    · split
      · exact ht.trans (goes_viol ..)
      · exact ht

theorem goes_countSectors (c f pa n : Nat) (a : Acc) : a.Goes (countSectors c f pa n a) := by
  induction f generalizing pa n a with
  | zero => exact .refl a
  | succ f ih =>
    unfold countSectors
    split
    · exact .refl a
    · refine .trans ?_ (ih ..)
      split
      · exact .refl a
      · exact .state_only (accesses_countAccess ..) ..

theorem goes_readPage (c part : Nat) (copy : Bool) (va n : Nat) (a : Acc) : a.Goes (readPage c part copy va n a).2 := by
  have hr := goes_resolve c part copy false va a
  unfold readPage
  dsimp only
  split
  · exact hr
  · split
    · refine .trans ?_ (goes_fail ..)
      exact hr.trans <| .state_only (.ite (accesses_errUncorrectable ..) (.refl _)) ..
    · split
      · refine .trans ?_ (goes_fail ..)
        exact hr.trans (.trans (goes_countSectors ..) (.state_only (accesses_lostTaken ..) ..))
      · split
        · exact hr.trans (goes_countSectors ..)
        · split
          · exact hr
          · exact hr.trans (.state_only (accesses_countAccess ..) ..)

theorem goes_readPages (c part : Nat) (copy : Bool) (f va n : Nat) (a : Acc) : a.Goes (readPages c part copy f va n a).2 := by
  induction f generalizing va n a with
  | zero => exact .refl a
  | succ f ih =>
    unfold readPages
    dsimp only
    split
    · exact .refl a
    · split
      · exact .refl a
      · exact (goes_readPage ..).trans (ih ..)

theorem goes_coreRead (c part : Nat) (copy : Bool) (va n : Nat) (a : Acc) : a.Goes (coreRead c part copy va n a).2 := goes_readPages ..

theorem goes_readElem (c part : Nat) (copy : Bool) (f : Fmt) (va : Int) (pos : Nat) (a : Acc) : a.Goes (readElem c part copy f va pos a).2 :=
  goes_coreRead ..

theorem goes_writePages (c part : Nat) (copy : Bool) (f va : Nat) (bs : List Byte) (a : Acc) : a.Goes (writePages c part copy f va bs a) := by
  induction f generalizing va bs a with
  | zero => exact .refl a
  | succ f ih =>
    cases bs with
    | nil => exact .refl a
    | cons b t =>
      have hr := goes_resolve c part copy true va a
      unfold writePages
      dsimp only
      split
      · exact .refl a
      · refine .trans ?_ (ih ..)
        split
        · exact hr
        · exact hr.trans ⟨.refl _, fun h => rising_putBytes h ..⟩

theorem goes_coreWrite (c part : Nat) (copy : Bool) (va : Nat) (bs : List Byte) (a : Acc) : a.Goes (coreWrite c part copy va bs a) := goes_writePages ..

theorem goes_writeElem (c part : Nat) (copy : Bool) (f : Fmt) (va : Int) (pos : Nat) (clear : Bool) (x : Nat) (a : Acc) :
    a.Goes (writeElem c part copy f va pos clear x a) := by
  have hr := goes_resolve c part copy true va.toNat a
  unfold writeElem
  dsimp only
  split
  · exact goes_coreWrite ..
  · split
    · exact hr
    · exact hr.trans ⟨.refl _, fun h => rising_tput h ..⟩

theorem goes_fetchIndex (c part : Nat) (copy : Bool) (d : Desc) (frames : List Machine.Frame) (is : List Nat) (a : Acc) :
    a.Goes (fetchIndex c part copy d frames is a).2 := by
  have hr := goes_readElem c part copy .int32 (elemAddr (opnd d 3) 3 frames is) 0 a
  unfold fetchIndex
  dsimp only
  split
  · exact hr
  · split
    · exact hr
    · exact hr.trans (goes_fail ..)

end Sys2Proof.Machine
end

section
/-!
SUPPORT. The accesses of the units of every opcode, from the reads of one element up to a tile, a drain, a batch and a row of REDUCE: each is one
access after another.
-/
namespace Sys2Proof.Machine

/-! ### Accesses that come with a result -/

theorem Acc.Goes.of_eq {α : Type} {a b : Acc} {e : α × Acc} {x : α} (h : a.Goes e.2) (he : e = (x, b)) : a.Goes b := by
  rw [he] at h
  exact h

theorem Acc.Goes.ite {p : Prop} [Decidable p] {a x y : Acc} (hx : a.Goes x) (hy : a.Goes y) : a.Goes (if p then x else y) := by
  split
  · exact hx
  · exact hy

theorem Acc.Goes.ite_snd {α : Type} {p : Prop} [Decidable p] {a : Acc} {x y : α × Acc} (hx : a.Goes x.2) (hy : a.Goes y.2) :
    a.Goes (if p then x else y).2 := by
  split
  · exact hx
  · exact hy

/-- A fold that gathers results beside the accesses. -/
theorem Acc.Goes.foldl_snd {α β : Type} {g : β × Acc → α → β × Acc} (hg : ∀ (x : β × Acc) k, x.2.Goes (g x k).2) (l : List α) (y : β) (a : Acc) :
    a.Goes (l.foldl g (y, a)).2 := .foldlBy Prod.snd hg l (y, a)

/-- A fold over the outputs of a batch. -/
theorem Acc.Goes.foldl_batch {α : Type} {g : BatchOut → α → BatchOut} {a : Acc} {o : BatchOut} (ho : o.a = a) (hg : ∀ (o : BatchOut) k, o.a.Goes (g o k).a)
    (l : List α) : a.Goes (l.foldl g o).a := ho ▸ .foldlBy BatchOut.a hg l o

/-! ### Units that copy -/

theorem goes_copyElem (c part : Nat) (d : Desc) (frames : List Machine.Frame) (bs is : List Nat) (a : Acc) :
    a.Goes (copyElem c part d frames bs is a) := by
  unfold copyElem
  extract_lets src dst copy f
  split
  · exact .refl a
  · split
    next row a' hrow =>
    have ha' : a.Goes a' := .of_eq (.ite_snd (goes_fetchIndex ..) (.refl a)) hrow
    refine ha'.trans ?_
    split
    · exact .refl a'
    · split
      · exact .ite (.refl a') (goes_writeElem ..)
      · extract_lets ia ic
        split
        next x b hread =>
        refine .trans (.of_eq (goes_readElem ..) hread) ?_
        exact .ite (.refl b) (goes_writeElem ..)

theorem goes_copyRange (c part : Nat) (i : Item) (lo n : Nat) (a : Acc) : a.Goes (copyRange c part i lo n a) :=
  .foldlBy id (fun a _ => goes_copyElem c part i.bytes i.frames i.bounds _ a) _ a

theorem goes_gatherUnit (s : State) (c part : Nat) (i : Item) (u : Nat) : Acc.Goes { s := s } (gatherUnit s c part i u) := goes_copyRange ..

/-! ### Operands of an output of the array -/

theorem goes_readA (c part : Nat) (i : Item) (row : Option Nat) (bt g m n k : Nat) (a : Acc) : a.Goes (readA c part i row bt g m n k a).2 := by
  unfold readA
  dsimp only
  split
  · exact .refl a
  · split
    · split
      · exact goes_coreRead ..
      · exact .refl a
    · exact goes_coreRead ..

theorem goes_readB (c part : Nat) (i : Item) (bt g m n k : Nat) (a : Acc) : a.Goes (readB c part i bt g m n k a).2 := goes_readElem ..

theorem goes_readPairs (c part : Nat) (i : Item) (row : Option Nat) (bt g m n : Nat) (a : Acc) : a.Goes (readPairs c part i row bt g m n a).2 := by
  refine .foldl_snd (fun x k => ?_) ..
  dsimp only
  split
  · exact .refl _
  · have hA := goes_readA c part i row bt g m n k x.2
    split
    · exact hA
    · exact hA.trans (goes_readB ..)

theorem goes_rowIndex (c part : Nat) (i : Item) (bt m : Nat) (a : Acc) : a.Goes (rowIndex c part i bt m a).2 := .ite_snd (goes_fetchIndex ..) (.refl a)

theorem goes_readBlockScales (c part : Nat) (i : Item) (ch : Nat) (a : Acc) : a.Goes (readBlockScales c part i ch a).2 :=
  .ite_snd (goes_coreRead ..) (.refl a)

theorem goes_readRowScale (c part : Nat) (i : Item) (bt m : Nat) (a : Acc) : a.Goes (readRowScale c part i bt m a).2 := by
  unfold readRowScale
  dsimp only
  exact goes_readElem ..

theorem goes_readGroupScales (c part : Nat) (i : Item) (bt m : Nat) (a : Acc) : a.Goes (readGroupScales c part i bt m a).2 := goes_coreRead ..

theorem goes_readPatch (c part : Nat) (i : Item) (y x cc : Nat) (a : Acc) : a.Goes (readPatch c part i y x cc a).2 := by
  refine .foldl_snd (fun st k => ?_) ..
  dsimp only
  split
  · exact .refl _
  · exact goes_coreRead ..

theorem goes_readWin (c part : Nat) (i : Item) (cc n : Nat) (a : Acc) : a.Goes (readWin c part i cc n a).2 := by
  refine .foldl_snd (fun x k => ?_) ..
  dsimp only
  exact goes_readElem ..

theorem goes_readWinTerms (c part : Nat) (i : Item) (blk n : Nat) (a : Acc) : a.Goes (readWinTerms c part i blk n a).2 := by
  refine .foldl_snd (fun st cc => ?_) ..
  dsimp only
  split
  · exact .refl _
  · exact (goes_readPatch ..).trans (goes_readWin ..)

/-! ### A tile -/

theorem goes_rowCells (c part run : Nat) (wide : Bool) (i : Item) (ar : Area) (m : Nat) (a : Acc) :
    a.Goes (rowCells c part run wide i ar m a).2 := by
  unfold rowCells
  extract_lets d bs k
  split
  next row b hrow =>
  split
  next gs b' hgs =>
  split
  next srow b'' hsrow =>
  have hb : a.Goes b := .of_eq (.ite_snd (.refl a) (goes_rowIndex ..)) hrow
  have hb' : b.Goes b' := .of_eq (.ite_snd (goes_readGroupScales ..) (.refl b)) hgs
  have hb'' : b'.Goes b'' := .of_eq (.ite_snd (by exact goes_readRowScale ..) (.refl b')) hsrow
  refine ((hb.trans hb').trans hb'').trans (.foldl_snd (fun st ch => ?_) ..)
  dsimp only
  split
  · exact .refl _
  · exact (goes_readPairs ..).trans (goes_readBlockScales ..)

theorem goes_blockCells (c part run : Nat) (wide : Bool) (i : Item) (ar : Area) (blk : Nat) (a : Acc) :
    a.Goes (blockCells c part run wide i ar blk a).2 := by
  unfold blockCells
  extract_lets d bs k
  split
  next ts b hts =>
  have hb : a.Goes b := by
    refine .of_eq (.foldl_snd (fun st ch => ?_) ..) hts
    dsimp only
    split
    · exact .refl _
    · exact goes_readWinTerms ..
  refine hb.trans (.foldl_snd (fun st px => ?_) ..)
  exact .ite_snd (goes_readGroupScales ..) (.refl _)

theorem goes_tileCells (c part run : Nat) (wide : Bool) (i : Item) (ar : Area) (a : Acc) : a.Goes (tileCells c part run wide i ar a).2 := by
  refine .foldl_snd (fun st r => ?_) ..
  dsimp only
  split
  · exact .refl _
  · exact .ite_snd (goes_blockCells ..) (goes_rowCells ..)

/-! ### A drain -/

theorem goes_readRescale (c part : Nat) (i : Item) (slot : W64) (ch : Nat) (a : Acc) : a.Goes (readRescale c part i slot ch a).2 :=
  .ite_snd (goes_coreRead ..) (.refl a)

theorem goes_drainRow (c part : Nat) (i : Item) (slot : W64) (wide : Bool) (ar : Area) (m : Nat) (cells : List Accu) (rec : Nat × FVal) (w : Drain) :
    w.a.Goes (drainRow c part i slot wide ar m cells rec w).2.a := by
  unfold drainRow
  extract_lets d bs k useRow
  split
  next srow b hsrow =>
  have hb : w.a.Goes b := .of_eq (.ite_snd (by exact goes_readRowScale ..) (.refl w.a)) hsrow
  refine hb.trans (.foldlBy (x := (rec, { w with a := b })) (fun st => st.2.a) (fun st j => ?_) _)
  dsimp only
  split
  · exact .refl _
  · have hr := goes_readRescale c part i slot
      (if dOp d = .conv then chanOfGroup bs (ar.chans.getD j (0, 0)).1 (ar.chans.getD j (0, 0)).2 else (ar.chans.getD j (0, 0)).2) st.2.a
    split <;> exact hr

theorem goes_drainRows (s : State) (c part : Nat) (i : Item) (slot : W64) (wide : Bool) (ar : Area) (rows : List Nat) (cells : List Accu)
    (recs : List (Nat × W32)) : Acc.Goes { s := s } (drainRows s c part i slot wide ar rows cells recs).2.a := by
  refine .foldlBy (x := ([], ⟨{ s := s }, [], 0, 0⟩)) (fun st : List (Nat × W32) × Drain => st.2.a) (fun st r => ?_) _
  dsimp only
  split
  · exact .refl _
  · exact goes_drainRow ..

/-- The records of an argument reduction are no accesses: their writes are made with the others. -/
theorem drainRecs_a (i : Item) (ar : Area) (rows : List Nat) (recs : List (Nat × W32)) (w : Drain) : (drainRecs i ar rows recs w).a = w.a := by
  unfold drainRecs
  induction List.range rows.length generalizing w with
  | nil => rfl
  | cons r l ih => exact ih _

theorem goes_drainWrites (c part : Nat) (w : Drain) : w.a.Goes (drainWrites c part w).a := by
  refine .foldlBy id (fun a x => ?_) _ w.a
  have h := goes_coreWrite c part false x.1.toNat x.2 { a with stop := none }
  exact ⟨h.state, h.rising⟩

theorem goes_drainUnit (s : State) (c part : Nat) (i : Item) (slot : W64) (wide : Bool) (b : Bank) (recs : List (Nat × W32)) :
    Acc.Goes { s := s } (drainUnit s c part i slot wide b recs).2.a := by
  unfold drainUnit
  extract_lets ar rows
  split
  next recs' w hw =>
  have hrows : Acc.Goes { s := s } w.a := by
    have h := goes_drainRows s c part i slot wide ar rows b.cells (if b.tile = 0 then [] else recs)
    rwa [hw] at h
  split
  · exact hrows
  · refine hrows.trans (.trans ?_ (goes_drainWrites ..))
    split
    · rw [drainRecs_a]
      exact .refl _
    · exact .refl _

/-! ### A batch of the element engine -/

theorem goes_readComps (c part : Nat) (i : Item) (x : Nat) (is : List Nat) (a : Acc) : a.Goes (readComps c part i x is a).2 := by
  refine .foldl_snd (fun x k => ?_) ..
  dsimp only
  exact goes_readElem ..

theorem goes_readStreamA (c part : Nat) (i : Item) (is : List Nat) (a : Acc) : a.Goes (readStreamA c part i is a).2 := by
  have hf := goes_fetchIndex c part false i.bytes i.frames is a
  unfold readStreamA
  dsimp only
  split
  · split
    · exact hf.trans (.ite_snd (.refl _) (goes_readComps ..))
    · exact hf
  · exact goes_readComps ..

theorem goes_runElem (run c part : Nat) (i : Item) (p : Prog) (core : CoreSt) (b : BatchIn) (e : Nat) (a : Acc) :
    a.Goes (runElem run c part i p core b e a).2 := by
  unfold runElem
  dsimp only
  split
  · exact .refl a
  · split
    · exact .refl a
    · refine .foldl_snd (fun st t => ?_) ..
      split
      · exact .refl _
      · exact .ite_snd (goes_readStreamA ..) (goes_readComps ..)

theorem goes_runBatch (run c part : Nat) (i : Item) (p : Prog) (core : CoreSt) (b : BatchIn) (a : Acc) : a.Goes (runBatch run c part i p core b a).2 := by
  refine .foldl_snd (fun x k => ?_) ..
  dsimp only
  exact goes_runElem ..

theorem goes_startCore (run c part : Nat) (i : Item) (core : CoreSt) (a : Acc) : a.Goes (startCore run c part i core a).2.2 := by
  unfold startCore
  extract_lets d p zero
  split
  next bc b hbc =>
  split
  next lut b' hlut =>
  have hb : a.Goes b := by
    refine .of_eq (.foldl_snd (fun st t => ?_) ..) hbc
    exact .ite_snd (.refl _) (goes_readComps ..)
  exact hb.trans (.of_eq (.ite_snd (goes_coreRead ..) (.refl b)) hlut)

theorem goes_storeComps (c part : Nat) (i : Item) (is : List Nat) (clear : Bool) (vals : List FVal) (a : Acc) :
    a.Goes (storeComps c part i is clear vals a).2 :=
  .foldl_snd (fun _ _ => goes_writeElem ..) ..

/-- Flags are no accesses. -/
theorem goes_elemOut (c part : Nat) (i : Item) (b : BatchIn) (e : Nat) (l : Lane) (o : BatchOut) : o.a.Goes (elemOut c part i b e l o).a := by
  unfold elemOut
  extract_lets d idx is on p1 om o1 o2 x o3 n o4
  have h1 : o.a.Goes o1.a := by
    unfold o1
    split <;> exact .refl _
  have h2 : o1.a.Goes o2.a := by
    unfold o2
    clear_value o1
    rcases om with _ | _ | _ | _
    · exact goes_storeComps ..
    · simp only [Nat.zero_add]
      split
      · exact goes_storeComps ..
      · exact .refl _
    · simp only [Nat.zero_add, Nat.reduceAdd]
      split <;> exact goes_storeComps ..
    · exact .refl _
  have h3 : o2.a.Goes o3.a := by
    unfold o3
    split
    · dsimp only
      exact goes_writeElem ..
    · exact .refl _
  have h4 : o3.a.Goes o4.a := by
    unfold o4
    split <;> exact .refl _
  refine (((h1.trans h2).trans h3).trans h4).trans ?_
  split <;> exact .refl _

theorem goes_readMask (c part : Nat) (i : Item) (first cnt : Nat) (a : Acc) : a.Goes (readMask c part i first cnt a).2 := by
  refine .foldl_snd (fun x k => ?_) ..
  dsimp only
  exact goes_readElem ..

theorem goes_elemBatch (run c part : Nat) (i : Item) (core : CoreSt) (r : Run) (first cnt : Nat) (a : Acc) :
    a.Goes (elemBatch run c part i core r first cnt a).a := by
  unfold elemBatch
  extract_lets d p
  split
  next on b hon =>
  extract_lets isO isA bi
  split
  next ls b' hls =>
  have hb : a.Goes b := .of_eq (.ite_snd (goes_readMask ..) (.refl a)) hon
  have hb' : b.Goes b' := .of_eq (goes_runBatch ..) hls
  refine (hb.trans hb').trans (.foldl_batch ?_ (fun o e => ?_) _)
  · rfl
  · split
    · exact .refl _
    · exact goes_elemOut ..

/-! ### A batch of a REDUCE row -/

theorem goes_readSeg (c part : Nat) (i : Item) (is : List Nat) (last : Nat) (a : Acc) : a.Goes (readSeg c part i is last a).2 := by
  unfold readSeg
  dsimp only
  split
  · exact goes_coreRead ..
  · split
    · exact (goes_coreRead ..).trans (goes_fail ..)
    · exact goes_coreRead ..

theorem goes_rowElem (c part : Nat) (i : Item) (idx pos : Nat) (rest : List Nat) (l : Lane) (x : BatchOut) :
    x.a.Goes (rowElem c part i idx pos rest l x).a := by
  unfold rowElem
  extract_lets d o
  split
  next seg b hseg =>
  have hb : x.a.Goes b := .of_eq (.ite_snd (by exact goes_readSeg ..) (.refl x.a)) hseg
  dsimp only
  split
  · exact hb
  · split <;> exact hb

theorem goes_writeResult (c part : Nat) (i : Item) (slots k : Nat) (rest : List Nat) (bs : List Byte) (a : Acc) :
    a.Goes (writeResult c part i slots k rest bs a) := .ite (goes_coreWrite ..) (goes_writeElem ..)

theorem goes_rowResults (run c part : Nat) (i : Item) (row : Nat) (b : BatchOut) : b.a.Goes (rowResults run c part i row b).a := by
  refine .foldlBy BatchOut.a (fun b sg => ?_) _ b
  dsimp only
  exact .foldlBy BatchOut.a (fun b k => goes_writeResult ..) _ (b.flag ..)

theorem goes_reduceBatch (run c part : Nat) (i : Item) (core : CoreSt) (r : Run) (row : Nat) (a : Acc) :
    a.Goes (reduceBatch run c part i core r row a).a := by
  unfold reduceBatch
  extract_lets d rest n p cnt isO
  split
  next ls b hls =>
  extract_lets o
  have ho : a.Goes o.a := by
    refine .trans (.of_eq (goes_runBatch ..) hls) (.foldl_batch ?_ (fun o e => ?_) _)
    · rfl
    · exact goes_rowElem ..
  split
  · exact ho
  · exact ho.trans (goes_rowResults ..)

/-! ### A program load -/

theorem goes_readImage (c part : Nat) (i : Item) (a : Acc) : a.Goes (readImage c part i a).2 := by
  unfold readImage
  dsimp only
  split
  · exact goes_coreRead ..
  · exact (goes_coreRead ..).trans (goes_coreRead ..)

end Sys2Proof.Machine
end

section
/-!
SUPPORT. What the scheduler's operations leave in a partition's window and on a core, one rule for each: the run that stands in EXEC, the core, and what
they keep of the state.
-/
namespace Sys2Proof.Machine

/-! ### Windows and cores -/

theorem win_congr {s t : State} (h : t.qm = s.qm) (p : Nat) : t.win p = s.win p := by
  unfold State.win
  rw [h]

theorem core_congr {s t : State} (h : t.qm = s.qm) (c : Nat) : t.core c = s.core c := by
  unfold State.core
  rw [h]

theorem win_modWin (s : State) (p : Nat) (f : Window → Window) : (s.modWin p f).win p = f (s.win p) := tget_tset_self ..
@[simp] theorem core_modCore (s : State) (c : Nat) (f : CoreSt → CoreSt) : (s.modCore c f).core c = f (s.core c) := tget_tset_self ..
@[simp] theorem win_modItem (s : State) (q uid : Nat) (f : Item → Item) (p : Nat) : (s.modItem q uid f).win p = s.win p := rfl
@[simp] theorem core_modItem (s : State) (q uid : Nat) (f : Item → Item) (c : Nat) : (s.modItem q uid f).core c = s.core c := rfl
@[simp] theorem core_modRun (s : State) (p : Nat) (f : Run → Run) (c : Nat) : (s.modRun p f).core c = s.core c := rfl
@[simp] theorem core_setFld (s : State) (k hi lo v c : Nat) : (s.setFld k hi lo v).core c = s.core c := rfl

@[simp] theorem core_stopRun (x : Running) (st : Stop) (s : State) (c : Nat) : (stopRun x st s).core c = s.core c := core_modRun (s.modItem ..) ..
@[simp] theorem core_noteFlags (p h g : Nat) (s : State) (c : Nat) : (noteFlags p h g s).core c = s.core c := core_setFld (s.modRun ..) ..

/-! ### The descriptor in EXEC -/

section
variable {s : State} {p : Nat} {r : Run} (h : (s.win p).exec = some r)
include h

theorem exec_modRun (f : Run → Run) : ((s.modRun p f).win p).exec = some (f r) := by
  rw [State.modRun, win_modWin, h]
  rfl

theorem exec_noteFlags (c g : Nat) : ((noteFlags p c g s).win p).exec = some { r with flags := r.flags ||| BitVec.ofNat 5 g } :=
  exec_modRun h ..

theorem exec_nextUnit (c : Nat) : ((nextUnit s c p).win p).exec = some { r with out := r.out - 1 } := exec_modRun h ..

theorem core_nextUnit (c : Nat) : (nextUnit s c p).core c =
    { s.core c with unit := if r.stopped then none else (s.core c).ahead, ahead := none, pos := 0, row := {} } := by
  unfold nextUnit
  rw [h]
  exact core_modCore ..

end

section
variable {s : State} {x : Running} {r : Run} (h : (s.win x.part).exec = some r)
include h

theorem exec_stopRun (st : Stop) : ((stopRun x st s).win x.part).exec = some { r with stopped := true } :=
  exec_modRun (s := s.modItem ..) h _

theorem exec_trapRun (idx : Nat) : ∃ r', ((trapRun x idx s).win x.part).exec = some r' ∧ r'.stopped = true := by
  unfold trapRun
  dsimp only
  rw [win_modItem]
  exact ⟨_, exec_stopRun (exec_modRun h _) _, rfl⟩

end

/-- What a core takes part in is the descriptor in EXEC of its partition. -/
theorem running?_exec {s : State} {p : Nat} {x : Running} (h : s.running? p = some x) : x.part = p ∧ (s.win p).exec = some x.run := by
  unfold State.running? at h
  split at h
  · cases h
  · next r hr =>
    obtain ⟨i, -, rfl⟩ := Option.map_eq_some_iff.1 h
    exact ⟨rfl, hr⟩

theorem coreRun_exec {s : State} {c : Nat} {x : Running} (h : s.coreRun c = some x) :
    s.partOfCore c = some x.part ∧ (s.win x.part).exec = some x.run := by
  unfold State.coreRun at h
  split at h
  · cases h
  · next p hp =>
    obtain ⟨rfl, hr⟩ := running?_exec h
    exact ⟨hp, hr⟩

/-! ### What the operations keep -/

theorem calm_of_accesses {s t : State} (h : Accesses s t) : Calm s t := ⟨h.toKeeps, h.mem⟩
theorem Calm.trans {s t u : State} (h : Calm s t) (h' : Calm t u) : Calm s u := ⟨h.toKeeps.trans h'.toKeeps, h'.mem.trans h.mem⟩

theorem calm_with_qm (s : State) (x : Qm) : Calm s { s with qm := x } := ⟨⟨rfl, id⟩, rfl⟩
theorem calm_modRun (s : State) (p : Nat) (f : Run → Run) : Calm s (s.modRun p f) := calm_with_qm ..
theorem calm_modCore (s : State) (c : Nat) (f : CoreSt → CoreSt) : Calm s (s.modCore c f) := calm_with_qm ..
theorem calm_stopRun (x : Running) (st : Stop) (s : State) : Calm s (stopRun x st s) := (calm_with_qm ..).trans (calm_modRun ..)
theorem calm_noteFlags (p c g : Nat) (s : State) : Calm s (noteFlags p c g s) :=
  (calm_modRun ..).trans (calm_of_accesses (accesses_setFld ..))
theorem calm_nextUnit (s : State) (c p : Nat) : Calm s (nextUnit s c p) := by
  unfold nextUnit
  exact (calm_modRun ..).trans (calm_modCore ..)
theorem calm_trapRun (x : Running) (idx : Nat) (s : State) : Calm s (trapRun x idx s) :=
  ((calm_modRun ..).trans (calm_stopRun ..)).trans (calm_with_qm ..)

/-! ### Commands of the cores -/

theorem exec_aheadRequest (c : Fin 16) (s : State) : exec (.aheadRequest c) s = running s (aheadRequest c.val) := rfl
theorem exec_localSteal (c : Fin 16) (s : State) : exec (.localSteal c) s = running s (localSteal c.val) := rfl
theorem exec_remoteSteal (c : Fin 16) (h : Fin 4) (s : State) : exec (.remoteSteal c h) s = running s (remoteSteal c.val h.val) := rfl
theorem exec_tileDrain (c : Fin 16) (b : Fin 2) (s : State) : exec (.tileDrain c b) s = running s (tileDrain c.val (b == 1)) := rfl
theorem exec_elemBatch (c : Fin 16) (s : State) : exec (.elemBatch c) s = running s (elemStep c.val) := rfl
theorem exec_widenRerun (p : Fin 16) (s : State) : exec (.widenRerun p) s = running s (widenRerun p.val) := rfl

/-- A command of a device that is up and not stopped does its work, and the commands that wait stay. -/
theorem running_eq {s : State} (hup : s.up = true) (hst : s.stopped = false) (k : State → State) : running s k = .next (keepQueue s (k s)) := by
  unfold running live gated always
  simp [hup, hst]

/-- The outcome of a command's work, seen where the work shows. -/
theorem running_next {s u : State} (hup : s.up = true) (hst : s.stopped = false) {k : State → State} (h : k s = u) :
    ∃ t, running s k = .next t ∧ t.qm = u.qm ∧ t.mem = u.mem ∧ t.free = u.free :=
  h ▸ ⟨_, running_eq hup hst k, keepQueue_qm .., keepQueue_mem .., keepQueue_free ..⟩

end Sys2Proof.Machine
end

section
/-!
O40, grants (R101, R195, R196): tiles, units and ranges.
-/
namespace Sys2Proof.Machine

/-! ### A tile accumulates -/

/-- The reads of N-tile `n` of a unit on a core, and the accumulators that they give. -/
def tileRead (c u n : Nat) (x : Running) (s : State) : List Accu × Acc :=
  tileCells c x.part s.free x.run.widened x.item (tileArea x.item.bytes x.item.bounds x.run.widened u n)
    { s := { s with free := s.free + 1 }, seen := slotsSeen (s.core c).slots }

/-- What the reads of a tile leave: the accumulators in a bank, or a descriptor that has stopped. -/
def tileTaken (c u n run : Nat) (x : Running) (y : List Accu × Acc) : State :=
  match y.2.stop with
  | some st => stopRun x st y.2.s
  | none =>
    (y.2.s.modRun x.part fun r => { r with flags := r.flags ||| BitVec.ofNat 5 (cellFlags y.1) }).modCore c fun k =>
      let sets := swapSets c x.part run x.run.widened x.item (tileArea x.item.bytes x.item.bounds x.run.widened u n) y.2 k.primary k.shadow
      let k := { k with slots := [], primary := sets.1, shadow := sets.2, arg := if dArg x.item.bytes = 0 then k.arg else some ⟨x.run.uid, u, n + 1⟩ }
      k.fill ⟨x.run.uid, u, n, y.1⟩

theorem accumTile_eq (c u n : Nat) (x : Running) (s : State) : accumTile c u n x s = tileTaken c u n s.free x (tileRead c u n x s) := rfl

theorem accesses_tileRead (c u n : Nat) (x : Running) (s : State) : Accesses { s with free := s.free + 1 } (tileRead c u n x s).2.s :=
  (goes_tileCells c x.part s.free x.run.widened x.item _ { s := { s with free := s.free + 1 }, seen := slotsSeen (s.core c).slots }).state

/-- A tile of a unit stands in a bank. -/
def InBank (k : CoreSt) (uid u n : Nat) : Prop := ∃ b, (k.bank0 = some b ∨ k.bank1 = some b) ∧ b.uid = uid ∧ b.unit = u ∧ b.tile = n

theorem fill_inBank (k : CoreSt) (b : Bank) : InBank (k.fill b) b.uid b.unit b.tile := by
  refine ⟨b, ?_, rfl, rfl, rfl⟩
  unfold CoreSt.fill
  split
  · exact .inl rfl
  · exact .inr rfl

/-- A tile accumulates into a bank, or the descriptor stops and the banks stay. -/
theorem accumTile_run {c : Nat} {x : Running} {s : State} {r : Run} (h : (s.win x.part).exec = some r) (u n : Nat) :
    ∃ r', ((accumTile c u n x s).win x.part).exec = some r' ∧ r'.ranges = r.ranges ∧ r'.uid = r.uid ∧ (accumTile c u n x s).mem = s.mem ∧
      ((tileRead c u n x s).2.stop = none → r'.stopped = r.stopped ∧ InBank ((accumTile c u n x s).core c) x.run.uid u n) ∧
      ((tileRead c u n x s).2.stop ≠ none → r'.stopped = true ∧
        ((accumTile c u n x s).core c).bank0 = (s.core c).bank0 ∧ ((accumTile c u n x s).core c).bank1 = (s.core c).bank1) := by
  have hgo := accesses_tileRead c u n x s
  rw [accumTile_eq]
  generalize tileRead c u n x s = y at hgo ⊢
  have hexec : (y.2.s.win x.part).exec = some r := (congrArg Window.exec (win_congr hgo.qm x.part)).trans h
  have hcore : y.2.s.core c = s.core c := core_congr hgo.qm c
  unfold tileTaken
  cases y.2.stop with
  | none =>
    refine ⟨_, exec_modRun hexec _, rfl, rfl, hgo.mem, fun _ => ⟨rfl, ?_⟩, fun hn => absurd rfl hn⟩
    dsimp only
    rw [core_modCore]
    exact fill_inBank ..
  | some st =>
    refine ⟨_, exec_stopRun hexec st, rfl, rfl, hgo.mem, nofun, fun _ => ⟨rfl, ?_⟩⟩
    dsimp only
    rw [core_stopRun, hcore]
    exact ⟨rfl, rfl⟩

/-! ### A unit is granted -/

/-- A core that has been granted a unit asks every Hearth again. -/
def undried (c : Nat) (x : Running) (s : State) : State := s.modRun x.part fun r => { r with dry := r.dry.filter fun e => e.1 / 4 != c }

/-- The tiles of a granted unit of the array are still to drain. -/
def unitOwed (c : Nat) (x : Running) (s : State) : State :=
  (undried c x s).modRun x.part fun r => { r with out := r.out + unitTiles x.item.bytes x.item.bounds x.run.widened }

theorem grantUnit_array {x : Running} (h : (dOp x.item.bytes).isArray = true) (c u : Nat) (s : State) :
    grantUnit c u x s = accumTile c u 0 x (unitOwed c x s) := if_pos h

theorem grantUnit_load {x : Running} (h : (dOp x.item.bytes).isArray = false) (h' : dIsPload x.item.bytes = true) (c u : Nat) (s : State) :
    grantUnit c u x s = grantLoad c x (undried c x s) := by
  unfold grantUnit
  simp only [h, h', Bool.false_eq_true, if_false, if_true]
  rfl

theorem grantUnit_elem {x : Running} (h : (dOp x.item.bytes).isArray = false) (h' : dIsPload x.item.bytes = false)
    (h'' : (dOp x.item.bytes).isElem = true) (c u : Nat) (s : State) :
    grantUnit c u x s = ((undried c x s).modRun x.part fun r => { r with out := r.out + 1 }).modCore c fun k =>
      if k.unit.isNone then { k with unit := some u, pos := 0 } else { k with ahead := some u } := by
  unfold grantUnit
  simp only [h, h', h'', Bool.false_eq_true, if_false, if_true]
  rfl

theorem grantUnit_rows {x : Running} (h : (dOp x.item.bytes).isArray = false) (h' : dIsPload x.item.bytes = false)
    (h'' : (dOp x.item.bytes).isElem = false) (c u : Nat) (s : State) : grantUnit c u x s = grantRows c u x (undried c x s) := by
  unfold grantUnit
  simp only [h, h', h'', Bool.false_eq_true, if_false]
  rfl

theorem fillSlot_win (p slot : Nat) (img : List Byte) (s : State) (k : Nat) : (fillSlot p slot img s).win k = s.win k := by
  unfold fillSlot
  generalize s.coreList p = l
  induction l generalizing s with
  | nil => rfl
  | cons c l ih => exact ih _

section
variable {c : Nat} {x : Running} {s : State} {r : Run} (h : (s.win x.part).exec = some r)
include h

theorem exec_undried : ((undried c x s).win x.part).exec = some { r with dry := r.dry.filter fun e => e.1 / 4 != c } := exec_modRun h _

/-- A unit of GATHER or SCATTER is read and its writes are held. -/
theorem grantRows_run (u : Nat) :
    ∃ r', ((grantRows c u x s).win x.part).exec = some r' ∧ r'.ranges = r.ranges ∧ r'.uid = r.uid ∧ (grantRows c u x s).mem = s.mem ∧
      r'.held = r.held ++ [(c, (gatherUnit s c x.part x.item u).out)] ∧
      r'.stopped = (r.stopped || (gatherUnit s c x.part x.item u).stop.isSome) := by
  have hgo := (goes_gatherUnit s c x.part x.item u).state
  unfold grantRows
  dsimp only
  generalize gatherUnit s c x.part x.item u = a at hgo ⊢
  have hexec : (a.s.win x.part).exec = some r := (congrArg Window.exec (win_congr hgo.qm x.part)).trans h
  cases a.stop with
  | none => exact ⟨_, exec_modRun hexec _, rfl, rfl, hgo.mem, rfl, (Bool.or_false _).symm⟩
  | some st => exact ⟨_, exec_stopRun (exec_modRun hexec _) st, rfl, rfl, hgo.mem, rfl, (Bool.or_true _).symm⟩

/-- A program load leaves the ranges. -/
theorem grantLoad_run : ∃ r', ((grantLoad c x s).win x.part).exec = some r' ∧ r'.ranges = r.ranges ∧ r'.uid = r.uid := by
  have hgo := (goes_readImage c x.part x.item { s := s }).state
  unfold grantLoad
  dsimp only
  generalize readImage c x.part x.item { s := s } = y at hgo ⊢
  have hexec : (y.2.s.win x.part).exec = some r := (congrArg Window.exec (win_congr hgo.qm x.part)).trans h
  have hfill : ∀ img, ((fillSlot x.part (dProg x.item.bytes) img y.2.s).win x.part).exec = some r := fun img =>
    (congrArg Window.exec (fillSlot_win ..)).trans hexec
  split
  · exact ⟨_, exec_stopRun hexec _, rfl, rfl⟩
  · split
    · exact ⟨_, hfill _, rfl, rfl⟩
    · exact ⟨_, exec_stopRun (hfill _) _, rfl, rfl⟩

/-- Whatever the opcode, a grant leaves the ranges. -/
theorem grantUnit_run (u : Nat) : ∃ r', ((grantUnit c u x s).win x.part).exec = some r' ∧ r'.ranges = r.ranges ∧ r'.uid = r.uid := by
  have hdry := exec_undried (c := c) h
  cases harr : (dOp x.item.bytes).isArray with
  | true =>
    rw [grantUnit_array harr]
    obtain ⟨r', hexec, hranges, huid, -⟩ := accumTile_run (c := c) (exec_modRun hdry _) u 0
    exact ⟨r', hexec, hranges, huid⟩
  | false =>
    cases hload : dIsPload x.item.bytes with
    | true =>
      rw [grantUnit_load harr hload]
      obtain ⟨r', hexec, hranges, huid⟩ := grantLoad_run (c := c) hdry
      exact ⟨r', hexec, hranges, huid⟩
    | false =>
      cases helem : (dOp x.item.bytes).isElem with
      | true =>
        rw [grantUnit_elem harr hload helem]
        exact ⟨_, exec_modRun hdry _, rfl, rfl⟩
      | false =>
        rw [grantUnit_rows harr hload helem]
        obtain ⟨r', hexec, hranges, huid, -⟩ := grantRows_run hdry u
        exact ⟨r', hexec, hranges, huid⟩

end

/-! ### Ranges -/

theorem range_setRange_self (r : Run) (c lo hi : Nat) : (r.setRange c lo hi).range c = if lo < hi then (lo, hi) else (0, 0) := by
  unfold Run.setRange Run.range
  dsimp only
  split <;> simp [tget_eq_tfind]

theorem range_setRange_ne (r : Run) {c v : Nat} (h : v ≠ c) (lo hi : Nat) : (r.setRange c lo hi).range v = r.range v := by
  unfold Run.setRange Run.range
  dsimp only
  split <;> simp [tget_eq_tfind, tfind_tput_ne _ _ h, tfind_terase_ne _ h]

theorem range_congr {r r' : Run} (h : r'.ranges = r.ranges) (c : Nat) : r'.range c = r.range c := congrArg (fun t => tget (0, 0) t c) h

/-- A fold that picks, or keeps what it has picked. -/
theorem foldl_picks {α : Type} {P : α → Prop} {f : Option α → α → Option α}
    (hf : ∀ best k, (∀ b, best = some b → P b) → ∀ b, f best k = some b → P b) (l : List α) (best : Option α) (hbest : ∀ b, best = some b → P b) :
    ∀ b, l.foldl f best = some b → P b := by
  induction l generalizing best with
  | nil => exact hbest
  | cons k l ih => exact ih _ (hf best k hbest)

/-- The core of the richest range is another one, and its range is not empty. -/
theorem richest_some {r : Run} {h c v : Nat} (hv : richest r h c = some v) : v ≠ c ∧ (r.range v).2 - (r.range v).1 ≠ 0 := by
  refine foldl_picks (P := fun v => v ≠ c ∧ (r.range v).2 - (r.range v).1 ≠ 0) (fun best k hbest b hb => ?_) _ none nofun v hv
  dsimp only at hb
  split at hb
  · exact hbest b hb
  · next hk =>
    have hpick : some k = some b → b ≠ c ∧ (r.range b).2 - (r.range b).1 ≠ 0 := fun e => Option.some.inj e ▸ not_or.1 hk
    split at hb
    · exact hpick hb
    · split at hb
      · exact hpick hb
      · exact hbest b hb

end Sys2Proof.Machine
end

section
/-!
O40, the requests of the cores (R194, R195, R196) and the re-run of a descriptor (R89).
-/
namespace Sys2Proof.Machine

/-! ### AHEAD_REQUEST -/

theorem promote_of_exec {s : State} {p : Nat} {r : Run} (h : (s.win p).exec = some r) : promote p s = s := by
  unfold promote
  dsimp only
  rw [h]

section
variable {s : State} {c : Nat} {x : Running} (hx : s.coreRun c = some x)
include hx

theorem aheadRequest_eq : aheadRequest c s =
    if tilesLeft (s.core c) x.item x.run.widened then (if (s.core c).freeBank && !x.run.stopped then nextTile c x s else s)
    else if grantsOpen s x && decide ((x.run.range c).1 < (x.run.range c).2) && wantsUnit s c x.item then
      grantUnit c (x.run.range c).1 x (s.modRun x.part fun r => r.setRange c ((x.run.range c).1 + 1) (x.run.range c).2)
    else s := by
  obtain ⟨hp, hexec⟩ := coreRun_exec hx
  unfold aheadRequest
  rw [hp]
  dsimp only
  rw [promote_of_exec hexec, hx]

theorem aheadRequest_nextTile {g : ArgRun} (ht : tilesLeft (s.core c) x.item x.run.widened = true) (hg : (s.core c).arg = some g)
    (hb : (s.core c).freeBank = true) (hr : x.run.stopped = false) : aheadRequest c s = accumTile c g.unit g.next x s := by
  rw [aheadRequest_eq hx, if_pos ht, if_pos (by simp [hb, hr]), nextTile, hg]

theorem aheadRequest_grant {lo hi : Nat} (ht : tilesLeft (s.core c) x.item x.run.widened = false) (hrange : x.run.range c = (lo, hi)) (hlt : lo < hi)
    (hopen : grantsOpen s x = true) (hw : wantsUnit s c x.item = true) :
    aheadRequest c s = grantUnit c lo x (s.modRun x.part fun r => r.setRange c (lo + 1) hi) := by
  rw [aheadRequest_eq hx, if_neg (by simp [ht]), hrange, if_pos (by simp [hopen, hlt, hw])]

end

theorem grantsOpen_stopped {s : State} {x : Running} (h : grantsOpen s x = true) : x.run.stopped = false := by
  simp only [grantsOpen, Bool.and_eq_true, Bool.not_eq_true'] at h
  exact h.1

/-- GATHER and SCATTER are neither opcodes of the array nor of the element engine, and load no program. -/
theorem copies_class {d : Desc} (h : dOp d = .gather ∨ dOp d = .scatter) : (dOp d).isArray = false ∧ dIsPload d = false ∧ (dOp d).isElem = false := by
  unfold dIsPload
  rcases h with h | h <;> rw [h] <;> exact ⟨rfl, rfl, rfl⟩

section
variable {s : State} (hup : s.up = true) (hst : s.stopped = false) {c : Fin 16} {x : Running} (hx : s.coreRun c.val = some x)
include hup hst hx

theorem exec_aheadRequest_nextTile {g : ArgRun} (ht : tilesLeft (s.core c.val) x.item x.run.widened = true) (hg : (s.core c.val).arg = some g)
    (hb : (s.core c.val).freeBank = true) (hr : x.run.stopped = false) :
    ∃ t r, exec (.aheadRequest c) s = .next t ∧ (t.win x.part).exec = some r ∧ r.ranges = x.run.ranges ∧ t.mem = s.mem ∧
      ((tileRead c.val g.unit g.next x s).2.stop = none → r.stopped = false ∧ InBank (t.core c.val) x.run.uid g.unit g.next) ∧
      ((tileRead c.val g.unit g.next x s).2.stop ≠ none → r.stopped = true ∧
        (t.core c.val).bank0 = (s.core c.val).bank0 ∧ (t.core c.val).bank1 = (s.core c.val).bank1) := by
  obtain ⟨r, hexec, hranges, -, hmem, hok, hstop⟩ := accumTile_run (c := c.val) (coreRun_exec hx).2 g.unit g.next
  obtain ⟨t, hnext, hqm, htmem, -⟩ := running_next hup hst (aheadRequest_nextTile hx ht hg hb hr)
  rw [exec_aheadRequest]
  refine ⟨t, r, hnext, ?_⟩
  rw [win_congr hqm, core_congr hqm, htmem]
  exact ⟨hexec, hranges, hmem, fun h => ⟨(hok h).1.trans hr, (hok h).2⟩, hstop⟩

variable {lo hi : Nat} (ht : tilesLeft (s.core c.val) x.item x.run.widened = false) (hrange : x.run.range c.val = (lo, hi)) (hlt : lo < hi)
  (hopen : grantsOpen s x = true) (hw : wantsUnit s c.val x.item = true)
include ht hrange hlt hopen hw

theorem exec_aheadRequest_grant :
    ∃ t r, exec (.aheadRequest c) s = .next t ∧ (t.win x.part).exec = some r ∧ r.uid = x.run.uid ∧
      r.range c.val = (if lo + 1 < hi then (lo + 1, hi) else (0, 0)) ∧
      ((dOp x.item.bytes).isArray = true → t.mem = s.mem ∧
        ((tileRead c.val lo 0 x (unitOwed c.val x (s.modRun x.part fun r => r.setRange c.val (lo + 1) hi))).2.stop = none →
          r.stopped = false ∧ InBank (t.core c.val) x.run.uid lo 0) ∧
        ((tileRead c.val lo 0 x (unitOwed c.val x (s.modRun x.part fun r => r.setRange c.val (lo + 1) hi))).2.stop ≠ none →
          r.stopped = true ∧ (t.core c.val).bank0 = (s.core c.val).bank0 ∧ (t.core c.val).bank1 = (s.core c.val).bank1)) ∧
      ((dOp x.item.bytes).isArray = false → (dOp x.item.bytes).isElem = true → dIsPload x.item.bytes = false →
        r.stopped = false ∧ t.mem = s.mem ∧ ((t.core c.val).unit = some lo ∨ (t.core c.val).ahead = some lo)) ∧
      (dOp x.item.bytes = .gather ∨ dOp x.item.bytes = .scatter → t.mem = s.mem ∧
        r.held = x.run.held ++ [(c.val,
          (gatherUnit (undried c.val x (s.modRun x.part fun r => r.setRange c.val (lo + 1) hi)) c.val x.part x.item lo).out)] ∧
        r.stopped = (gatherUnit (undried c.val x (s.modRun x.part fun r => r.setRange c.val (lo + 1) hi)) c.val x.part x.item lo).stop.isSome) := by
  have hopen' := grantsOpen_stopped hopen
  obtain ⟨t, hnext, hqm, htmem, -⟩ := running_next hup hst (aheadRequest_grant hx ht hrange hlt hopen hw)
  have hset := exec_modRun (coreRun_exec hx).2 fun r => r.setRange c.val (lo + 1) hi
  have hmem' : (s.modRun x.part fun r => r.setRange c.val (lo + 1) hi).mem = s.mem := rfl
  have hcore' : (s.modRun x.part fun r => r.setRange c.val (lo + 1) hi).core c.val = s.core c.val := core_modRun ..
  generalize (s.modRun x.part fun r => r.setRange c.val (lo + 1) hi) = s' at hqm htmem hset hmem' hcore' ⊢
  obtain ⟨r, hexec, hranges, huid⟩ := grantUnit_run (c := c.val) hset lo
  rw [exec_aheadRequest]
  refine ⟨t, r, hnext, ?_⟩
  rw [win_congr hqm, core_congr hqm, htmem, ← hmem', ← hcore']
  refine ⟨hexec, huid, (range_congr hranges _).trans (range_setRange_self ..), fun harr => ?_, fun harr helem hload => ?_, fun hcopy => ?_⟩
  · rw [grantUnit_array harr] at hexec ⊢
    obtain ⟨r', hexec', -, -, hmem, hok, hstop⟩ :=
      accumTile_run (c := c.val) (s := unitOwed c.val x s') (exec_modRun (exec_undried hset) _) lo 0
    obtain rfl : r = r' := Option.some.inj (hexec.symm.trans hexec')
    exact ⟨hmem, fun h => ⟨(hok h).1.trans hopen', (hok h).2⟩, hstop⟩
  · rw [grantUnit_elem harr hload helem] at hexec ⊢
    obtain rfl := Option.some.inj (hexec.symm.trans (exec_modRun (exec_undried hset) _))
    refine ⟨hopen', rfl, ?_⟩
    rw [core_modCore]
    split
    · exact .inl rfl
    · exact .inr rfl
  · obtain ⟨harr, hload, helem⟩ := copies_class hcopy
    rw [grantUnit_rows harr hload helem] at hexec ⊢
    obtain ⟨r', hexec', -, -, hmem, hheld, hstop⟩ := grantRows_run (c := c.val) (exec_undried (c := c.val) hset) lo
    obtain rfl : r = r' := Option.some.inj (hexec.symm.trans hexec')
    exact ⟨hmem, hheld, hstop.trans (congrArg (· || _) hopen')⟩

end

/-! ### Steals -/

/-- After a steal a victim keeps the lower half of its range, and the thief holds the upper half without the unit that it is granted. -/
def RangeSplit (x : Running) (c v : Nat) (t : State) : Prop :=
  ∃ r, (t.win x.part).exec = some r ∧
    (let n := (x.run.range v).2 - (x.run.range v).1
     let k := cdiv n 2
     r.range v = (if k < n then ((x.run.range v).1, (x.run.range v).2 - k) else (0, 0)) ∧
     r.range c = (if 1 < k then ((x.run.range v).2 - k + 1, (x.run.range v).2) else (0, 0)))

theorem rangeSplit_stealFrom {s : State} {c v : Nat} {x : Running} (h : (s.win x.part).exec = some x.run) (hne : v ≠ c)
    (hlen : (x.run.range v).2 - (x.run.range v).1 ≠ 0) : RangeSplit x c v (stealFrom c v x s) := by
  unfold RangeSplit stealFrom
  generalize x.run.range v = y at hlen ⊢
  obtain ⟨lo, hi⟩ := y
  dsimp only at hlen ⊢
  obtain ⟨r, hexec, hranges, -⟩ := grantUnit_run (c := c) (exec_modRun h fun r =>
    (r.setRange v lo (hi - cdiv (hi - lo) 2)).setRange c (hi - cdiv (hi - lo) 2 + 1) hi) (hi - cdiv (hi - lo) 2)
  have hk : 0 < cdiv (hi - lo) 2 ∧ cdiv (hi - lo) 2 ≤ hi - lo := by unfold cdiv; omega
  refine ⟨r, hexec, ?_, ?_⟩
  · rw [range_congr hranges, range_setRange_ne _ hne, range_setRange_self]
    exact if_congr (by omega) rfl rfl
  · rw [range_congr hranges, range_setRange_self]
    exact if_congr (by omega) rfl rfl

theorem rangeSplit_congr {s t : State} (h : t.qm = s.qm) (x : Running) (c v : Nat) : RangeSplit x c v t ↔ RangeSplit x c v s := by
  unfold RangeSplit
  rw [win_congr h]

/-- What a core leaves that has asked Hearth `h`: the richest range split, or the Hearth noted as dry. -/
def asked (c h : Nat) (x : Running) (s : State) : State :=
  match richest x.run h c with
  | some v => stealFrom c v x s
  | none => s.modRun x.part fun r => { r with dry := tset false r.dry (4 * c + h) true }

theorem asked_none {x : Running} {c h : Nat} (hv : richest x.run h c = none) (s : State) :
    asked c h x s = s.modRun x.part fun r => { r with dry := tset false r.dry (4 * c + h) true } := by
  unfold asked
  rw [hv]

section
variable {s : State} {c : Nat} {x : Running} (hx : s.coreRun c = some x)
include hx

theorem rangeSplit_asked {h v : Nat} (hv : richest x.run h c = some v) : RangeSplit x c v (asked c h x s) := by
  obtain ⟨hne, hlen⟩ := richest_some hv
  unfold asked
  rw [hv]
  exact rangeSplit_stealFrom (coreRun_exec hx).2 hne hlen

variable (hthief : mayThieve s c x = true)
include hthief

theorem localSteal_eq (hdry : tget false x.run.dry (4 * c + c / 4) = false) : localSteal c s = asked c (c / 4) x s := by
  unfold localSteal
  rw [hx]
  exact if_pos (by simp [hthief, hdry])

theorem remoteSteal_eq {h : Nat} (hask : nextAsked s c h x = true) : remoteSteal c h s = asked c h x s := by
  unfold remoteSteal
  rw [hx]
  exact if_pos (by simp [hthief, hask])

end

section
variable {s : State} (hup : s.up = true) (hst : s.stopped = false) {c : Fin 16} {x : Running} (hx : s.coreRun c.val = some x)
include hup hst hx

/-- A command by which a core asks a Hearth that has a range to take. -/
theorem running_takes {k : State → State} {h v : Nat} (hk : k s = asked c.val h x s) (hv : richest x.run h c.val = some v) :
    ∃ t, running s k = .next t ∧ RangeSplit x c.val v t := by
  obtain ⟨t, hnext, hqm, -⟩ := running_next hup hst hk
  exact ⟨t, hnext, (rangeSplit_congr hqm ..).2 (rangeSplit_asked hx hv)⟩

omit hx in
/-- A command by which a core asks a Hearth that has none. -/
theorem running_dry {k : State → State} {h : Nat} (hk : k s = asked c.val h x s) (hv : richest x.run h c.val = none) :
    running s k = .next (s.modRun x.part fun r => { r with dry := tset false r.dry (4 * c.val + h) true }) := by
  rw [running_eq hup hst, hk, asked_none hv]
  rfl

end

/-! ### WIDEN_RERUN -/

theorem widenRerun_due {s : State} {p : Nat} {y : Running} (hy : s.running? p = some y) (hdue : widenDue y = true) :
    widenRerun p s = s.modRun p fun r => { q := r.q, uid := r.uid, units := unitCount y.item.bytes y.item.bounds true
                                           ranges := runRanges s p (unitCount y.item.bytes y.item.bounds true), widened := true, flags := r.flags } := by
  unfold widenRerun
  rw [hy]
  exact if_pos hdue

theorem exec_widenRerun_restarts {s : State} (hup : s.up = true) (hst : s.stopped = false) {p : Fin 16} {y : Running} (hy : s.running? p.val = some y)
    (hdue : widenDue y = true) : ∃ t r, exec (.widenRerun p) s = .next t ∧ (t.win p.val).exec = some r ∧ r.widened = true ∧ r.sat = 0 ∧
      r.outputs = 0 ∧ r.uid = y.run.uid ∧ r.units = unitCount y.item.bytes y.item.bounds true ∧ r.ranges = runRanges s p.val r.units ∧
      t = { s with qm := t.qm } := by
  rw [exec_widenRerun, running_eq hup hst, widenRerun_due hy hdue]
  exact ⟨_, _, rfl, exec_modRun (running?_exec hy).2 _, rfl, rfl, rfl, rfl, rfl, rfl, rfl⟩

end Sys2Proof.Machine
end

section
/-!
O40, drains and batches (R101, R104, R108, R137, R150).
-/
namespace Sys2Proof.Machine

/-! ### The drain of a bank -/

/-- What a drain's accesses leave: its writes have arrived, the bank is free, and its outputs are counted or the descriptor has stopped. -/
def drainEnd (c : Nat) (second : Bool) (x : Running) (y : Bank) (w : List (Nat × W32) × Drain) : State :=
  let s := (w.2.a.land c).modCore c fun k =>
    k.drained second y.unit (decide (y.tile + 1 = unitTiles x.item.bytes x.item.bounds x.run.widened)) w.1
  match w.2.a.stop with
  | some st => stopRun x st (s.modRun x.part fun r => { r with out := r.out - 1 })
  | none => s.modRun x.part fun r => { r with out := r.out - 1, sat := r.sat + w.2.sats, outputs := r.outputs + w.2.outputs }

theorem tileDrain_eq {s : State} {c : Nat} {second : Bool} {x : Running} {y : Bank} (hx : s.coreRun c = some x)
    (hy : drainable (s.core c) second x.run.uid = some y) :
    tileDrain c second s = drainEnd c second x y (drainUnit s c x.part x.item (coreSlot s c x) x.run.widened y (s.core c).recs) := by
  unfold tileDrain
  rw [hx]
  dsimp only
  rw [hy]
  rfl

theorem core_drainEnd (c : Nat) (second : Bool) (x : Running) (y : Bank) (w : List (Nat × W32) × Drain) :
    (drainEnd c second x y w).core c = ((w.2.a.land c).core c).drained second y.unit
      (decide (y.tile + 1 = unitTiles x.item.bytes x.item.bounds x.run.widened)) w.1 := by
  unfold drainEnd
  dsimp only
  split
  · rw [core_stopRun, core_modRun, core_modCore]
  · rw [core_modRun, core_modCore]

theorem mem_drainEnd (c : Nat) (second : Bool) (x : Running) (y : Bank) (w : List (Nat × W32) × Drain) :
    (drainEnd c second x y w).mem = (w.2.a.land c).mem := by
  unfold drainEnd
  dsimp only
  split
  · exact (((calm_modCore ..).trans (calm_modRun ..)).trans (calm_stopRun ..)).mem
  · exact ((calm_modCore ..).trans (calm_modRun ..)).mem

theorem exec_drainEnd {c : Nat} {x : Running} {w : List (Nat × W32) × Drain} (h : ((w.2.a.land c).win x.part).exec = some x.run) (second : Bool)
    (y : Bank) : ∃ r, ((drainEnd c second x y w).win x.part).exec = some r ∧ r.out = x.run.out - 1 ∧
      (w.2.a.stop = none → r.stopped = x.run.stopped ∧ r.sat = x.run.sat + w.2.sats ∧ r.outputs = x.run.outputs + w.2.outputs) ∧
      (w.2.a.stop ≠ none → r.stopped = true) := by
  unfold drainEnd
  dsimp only
  split
  · next st hst => exact ⟨_, exec_stopRun (exec_modRun (s := (w.2.a.land c).modCore ..) h _) st, rfl, by simp [hst], fun _ => rfl⟩
  · next hst => exact ⟨_, exec_modRun (s := (w.2.a.land c).modCore ..) h _, rfl, fun _ => ⟨rfl, rfl, rfl⟩, fun hn => absurd hst hn⟩

/-- A drain empties its bank, its bytes land and no others, and it counts its outputs unless an access of it fails. -/
theorem exec_tileDrain_drains {s : State} (hup : s.up = true) (hst : s.stopped = false) {c : Fin 16} {x : Running} (hx : s.coreRun c.val = some x)
    {b : Fin 2} {y : Bank} (hy : drainable (s.core c.val) (b == 1) x.run.uid = some y) :
    let w := (drainUnit s c.val x.part x.item (coreSlot s c.val x) x.run.widened y (s.core c.val).recs).2
    ∃ t r, exec (.tileDrain c b) s = .next t ∧ (t.win x.part).exec = some r ∧ r.out = x.run.out - 1 ∧
      (if b = 1 then (t.core c.val).bank1 = none ∧ (t.core c.val).bank0 = (s.core c.val).bank0
       else (t.core c.val).bank0 = none ∧ (t.core c.val).bank1 = (s.core c.val).bank1) ∧
      (WritesLand s → Lands w.a.out s t) ∧
      (w.a.stop = none → r.stopped = x.run.stopped ∧ r.sat = x.run.sat + w.sats ∧ r.outputs = x.run.outputs + w.outputs) ∧
      (w.a.stop ≠ none → r.stopped = true) := by
  have hgo := goes_drainUnit s c.val x.part x.item (coreSlot s c.val x) x.run.widened y (s.core c.val).recs
  obtain ⟨t, hnext, hqm, htmem, -⟩ := running_next hup hst (tileDrain_eq hx hy)
  rw [exec_tileDrain]
  generalize drainUnit s c.val x.part x.item (coreSlot s c.val x) x.run.widened y (s.core c.val).recs = w at hgo hqm htmem ⊢
  have hland := (carries_land c.val w.2.a).qm.trans hgo.state.qm
  obtain ⟨r, hexec, hout, hok, hstop⟩ :=
    exec_drainEnd ((congrArg Window.exec (win_congr hland x.part)).trans (coreRun_exec hx).2) (b == 1) y
  refine ⟨t, r, hnext, ?_⟩
  rw [win_congr hqm, core_congr hqm, core_drainEnd, core_congr hland]
  refine ⟨hexec, hout, ?_, fun hs a => ?_, hok, hstop⟩
  · split
    · next hb => exact ⟨if_pos (by simp [hb]), if_pos (by simp [hb])⟩
    · next hb => exact ⟨if_neg (by simp [hb]), if_neg (by simp [hb])⟩
  · rw [htmem, mem_drainEnd]
    exact hgo.lands c.val hs a

/-! ### A batch of the element engine -/

/-- Elements of a batch of the program that a core runs for a descriptor. -/
def batchSize (k : CoreSt) (i : Item) : Nat := (progOf i.bytes (tget [] k.progs (dProg i.bytes))).batch

/-- The first element of a core's next ELEM batch. -/
def batchFirst (k : CoreSt) (i : Item) (u : Nat) : Nat := (if dOutmode i.bytes = 0 ∨ dOutmode i.bytes = 3 then 4096 * u else 0) + k.pos

/-- How many elements or positions a core's next batch takes. -/
def batchCount (k : CoreSt) (i : Item) (u : Nat) : Nat :=
  if dOp i.bytes = .reduce then min (batchSize k i) (bnd i.bounds 0 - k.pos)
  else min (batchSize k i) (unitEnd i.bytes i.bounds u - batchFirst k i u)

/-- A core's next batch is the last one of its unit. -/
def batchLast (k : CoreSt) (i : Item) (u : Nat) : Bool :=
  if dOp i.bytes = .reduce then decide (bnd i.bounds 0 ≤ k.pos + batchCount k i u)
  else decide (unitEnd i.bytes i.bounds u ≤ batchFirst k i u + batchCount k i u)

/-- A core's next batch. -/
def nextBatch (run c u : Nat) (x : Running) (s : State) : BatchOut :=
  if dOp x.item.bytes = .reduce then reduceBatch run c x.part x.item (s.core c) x.run u { s := s }
  else elemBatch run c x.part x.item (s.core c) x.run (batchFirst (s.core c) x.item u) (batchCount (s.core c) x.item u) { s := s }

theorem goes_nextBatch (run c u : Nat) (x : Running) (s : State) : Acc.Goes { s := s } (nextBatch run c u x s).a := by
  unfold nextBatch
  split
  · exact goes_reduceBatch ..
  · exact goes_elemBatch ..

/-- What a batch leaves behind its setup, where the setup lets it go on. -/
def batchStep (run c u : Nat) (x : Running) (y : State × Bool) : State :=
  if !y.2 then y.1 else finishBatch c x (nextBatch run c u x y.1) (batchLast (y.1.core c) x.item u) (batchCount (y.1.core c) x.item u)

theorem elemStep_eq {s : State} {c u : Nat} {x : Running} (hx : s.coreRun c = some x) (hu : (s.core c).unit = some u) :
    elemStep c s = batchStep s.free c u x (ensureStarted c s.free x { s with free := s.free + 1 }) := by
  unfold elemStep
  rw [hx]
  dsimp only
  rw [hu]
  dsimp only [State.fresh]
  by_cases hgo : (!(ensureStarted c s.free x { s with free := s.free + 1 }).2) = true
  · exact (if_pos hgo).trans (if_pos hgo).symm
  · refine (if_neg hgo).trans (.trans ?_ (if_neg hgo).symm)
    unfold nextBatch batchLast batchCount
    split <;> rfl

/-! #### The setup of a descriptor on a core -/

/-- The setup on a core has run, or runs without an access that fails or a trapped flag. -/
def SetupOk (c run : Nat) (x : Running) (s : State) : Prop :=
  (s.core c).started = some x.run.uid ∨
    ((startCore run c x.part x.item (s.core c) { s := s }).2.2.stop = none ∧
      (startCore run c x.part x.item (s.core c) { s := s }).2.1 &&& dTrap x.item.bytes = 0)

/-- What the setup's accesses leave, and whether the batch goes on. -/
def setupEnd (c : Nat) (x : Running) (y : CoreSt × Nat × Acc) : State × Bool :=
  let s := y.2.2.s.modCore c fun _ => y.1
  match y.2.2.stop with
  | some st => (nextUnit (stopRun x st s) c x.part, false)
  | none =>
    let s := noteFlags x.part c y.2.1 s
    if y.2.1 &&& dTrap x.item.bytes = 0 then (s, true) else (nextUnit (trapRun x 0xFFFFFFFF s) c x.part, false)

theorem ensureStarted_eq {s : State} {c : Nat} {x : Running} (h : (s.core c).started ≠ some x.run.uid) (run : Nat) :
    ensureStarted c run x s = setupEnd c x (startCore run c x.part x.item (s.core c) { s := s }) := if_neg h

/-- A core whose descriptor stops gives up its units. -/
theorem nextUnit_stopped {s : State} {c p : Nat} {r : Run} (h : (s.win p).exec = some r) (hr : r.stopped = true) :
    (∃ r', ((nextUnit s c p).win p).exec = some r' ∧ r'.stopped = true) ∧ ((nextUnit s c p).core c).unit = none := by
  refine ⟨⟨_, exec_nextUnit h c, hr⟩, ?_⟩
  rw [core_nextUnit h]
  exact if_pos hr

section
variable {c : Nat} {x : Running} {y : CoreSt × Nat × Acc} (h : (y.2.2.s.win x.part).exec = some x.run)
include h

theorem setupEnd_ok (hstop : y.2.2.stop = none) (htrap : y.2.1 &&& dTrap x.item.bytes = 0) :
    (setupEnd c x y).2 = true ∧ Calm y.2.2.s (setupEnd c x y).1 ∧ ((setupEnd c x y).1.core c).unit = y.1.unit ∧
      ∃ r, ((setupEnd c x y).1.win x.part).exec = some r ∧ r.stopped = x.run.stopped ∧ r.out = x.run.out := by
  have he : setupEnd c x y = (noteFlags x.part c y.2.1 (y.2.2.s.modCore c fun _ => y.1), true) := by
    unfold setupEnd
    dsimp only
    rw [hstop]
    exact if_pos htrap
  rw [he]
  dsimp only
  rw [core_noteFlags, core_modCore]
  exact ⟨rfl, (calm_modCore ..).trans (calm_noteFlags ..), rfl, _, exec_noteFlags (s := y.2.2.s.modCore ..) h .., rfl, rfl⟩

theorem setupEnd_fails (hbad : ¬(y.2.2.stop = none ∧ y.2.1 &&& dTrap x.item.bytes = 0)) :
    (setupEnd c x y).2 = false ∧ Calm y.2.2.s (setupEnd c x y).1 ∧ ((setupEnd c x y).1.core c).unit = none ∧
      ∃ r, ((setupEnd c x y).1.win x.part).exec = some r ∧ r.stopped = true := by
  unfold setupEnd
  dsimp only
  split
  · next st _ =>
    obtain ⟨hexec, hunit⟩ := nextUnit_stopped (c := c) (exec_stopRun (s := y.2.2.s.modCore c fun _ => y.1) h st) rfl
    exact ⟨rfl, ((calm_modCore ..).trans (calm_stopRun ..)).trans (calm_nextUnit ..), hunit, hexec⟩
  · next hstop =>
    rw [if_neg fun htrap => hbad ⟨hstop, htrap⟩]
    obtain ⟨r, hr, hr'⟩ := exec_trapRun (exec_noteFlags (s := y.2.2.s.modCore c fun _ => y.1) h c y.2.1) 0xFFFFFFFF
    obtain ⟨hexec, hunit⟩ := nextUnit_stopped (c := c) hr hr'
    exact ⟨rfl, (((calm_modCore ..).trans (calm_noteFlags ..)).trans (calm_trapRun ..)).trans (calm_nextUnit ..), hunit, hexec⟩

end

section
variable {s : State} {c run : Nat} {x : Running} (h : (s.win x.part).exec = some x.run)
include h

theorem exec_startCore : ((startCore run c x.part x.item (s.core c) { s := s }).2.2.s.win x.part).exec = some x.run :=
  (congrArg Window.exec (win_congr (goes_startCore ..).state.qm x.part)).trans h

theorem ensureStarted_ok (hok : SetupOk c run x s) :
    (ensureStarted c run x s).2 = true ∧ Calm s (ensureStarted c run x s).1 ∧ ((ensureStarted c run x s).1.core c).unit = (s.core c).unit ∧
      ∃ r, ((ensureStarted c run x s).1.win x.part).exec = some r ∧ r.stopped = x.run.stopped ∧ r.out = x.run.out := by
  by_cases hs : (s.core c).started = some x.run.uid
  · have he : ensureStarted c run x s = (s, true) := if_pos hs
    rw [he]
    exact ⟨rfl, ⟨⟨rfl, id⟩, rfl⟩, rfl, _, h, rfl, rfl⟩
  · obtain ⟨hstop, htrap⟩ := hok.resolve_left hs
    rw [ensureStarted_eq hs]
    obtain ⟨hgo, hcalm, hunit, hexec⟩ := setupEnd_ok (c := c) (exec_startCore h) hstop htrap
    exact ⟨hgo, (calm_of_accesses (goes_startCore ..).state).trans hcalm, hunit, hexec⟩

theorem ensureStarted_fails (hbad : ¬SetupOk c run x s) :
    (ensureStarted c run x s).2 = false ∧ Calm s (ensureStarted c run x s).1 ∧ ((ensureStarted c run x s).1.core c).unit = none ∧
      ∃ r, ((ensureStarted c run x s).1.win x.part).exec = some r ∧ r.stopped = true := by
  obtain ⟨hs, hbad⟩ := not_or.1 hbad
  rw [ensureStarted_eq hs]
  obtain ⟨hgo, hcalm, hunit, hexec⟩ := setupEnd_fails (c := c) (exec_startCore h) hbad
  exact ⟨hgo, (calm_of_accesses (goes_startCore ..).state).trans hcalm, hunit, hexec⟩

end

/-! #### The end of a batch -/

/-- What a batch without a fault or a trap leaves before the core goes on. -/
def batchKept (c : Nat) (x : Running) (b : BatchOut) (cnt : Nat) : State :=
  ((noteFlags x.part c b.flags (b.a.land c)).modCore c fun k =>
    { k with vregs := b.vregs, preds := b.preds, pos := k.pos + cnt, row := b.row }).modRun x.part fun r => { r with fold := b.fold, kept := b.kept }

section
variable {c : Nat} {x : Running} {b : BatchOut}

theorem finishBatch_eq (hstop : b.a.stop = none) (htrap : b.trap = none) (whole : Bool) (cnt : Nat) :
    finishBatch c x b whole cnt = if whole || x.run.stopped then nextUnit (batchKept c x b cnt) c x.part else batchKept c x b cnt := by
  unfold finishBatch
  rw [hstop, htrap]
  rfl

theorem core_batchKept (cnt : Nat) : (batchKept c x b cnt).core c =
    { b.a.s.core c with vregs := b.vregs, preds := b.preds, pos := (b.a.s.core c).pos + cnt, row := b.row } := by
  unfold batchKept
  rw [core_modRun, core_modCore, core_noteFlags, core_congr (carries_land ..).qm]

theorem calm_batchKept (cnt : Nat) : Calm (b.a.land c) (batchKept c x b cnt) :=
  ((calm_noteFlags ..).trans (calm_modCore ..)).trans (calm_modRun ..)

end

section
variable {c : Nat} {x : Running} {b : BatchOut} {r : Run} (h : (b.a.s.win x.part).exec = some r)
include h

/-- A batch that faults or raises a trapped flag writes nothing and stops the descriptor. -/
theorem finishBatch_stops (hbad : b.a.stop ≠ none ∨ b.trap ≠ none) (whole : Bool) (cnt : Nat) :
    Calm b.a.s (finishBatch c x b whole cnt) ∧ ((finishBatch c x b whole cnt).core c).unit = none ∧
      ∃ r', ((finishBatch c x b whole cnt).win x.part).exec = some r' ∧ r'.stopped = true := by
  unfold finishBatch
  split
  · next st _ =>
    obtain ⟨hexec, hunit⟩ := nextUnit_stopped (c := c) (exec_stopRun h st) rfl
    exact ⟨(calm_stopRun ..).trans (calm_nextUnit ..), hunit, hexec⟩
  · next hstop =>
    split
    · next t _ =>
      obtain ⟨r', hr, hr'⟩ := exec_trapRun (exec_noteFlags h c b.flags) t
      obtain ⟨hexec, hunit⟩ := nextUnit_stopped (c := c) hr hr'
      exact ⟨((calm_noteFlags ..).trans (calm_trapRun ..)).trans (calm_nextUnit ..), hunit, hexec⟩
    · next htrap => exact absurd htrap (hbad.resolve_left (fun hn => hn hstop))

theorem exec_batchKept (cnt : Nat) :
    ∃ r', ((batchKept c x b cnt).win x.part).exec = some r' ∧ r'.stopped = r.stopped ∧ r'.out = r.out := by
  have hland : ((b.a.land c).win x.part).exec = some r := (congrArg Window.exec (win_congr (carries_land ..).qm x.part)).trans h
  exact ⟨_, exec_modRun (s := (noteFlags x.part c b.flags (b.a.land c)).modCore c _) (exec_noteFlags hland c b.flags) _, rfl, rfl⟩

/-- A batch without a fault or a trap: its writes arrive, and the core moves on within its unit or to the next one. -/
theorem finishBatch_lands (hstop : b.a.stop = none) (htrap : b.trap = none) (whole : Bool) (cnt : Nat) :
    Calm (b.a.land c) (finishBatch c x b whole cnt) ∧ ((finishBatch c x b whole cnt).core c).vregs = b.vregs ∧
      ((finishBatch c x b whole cnt).core c).preds = b.preds ∧
      ∃ r', ((finishBatch c x b whole cnt).win x.part).exec = some r' ∧ r'.stopped = r.stopped ∧
        (whole = false → x.run.stopped = false → ((finishBatch c x b whole cnt).core c).unit = (b.a.s.core c).unit ∧
          ((finishBatch c x b whole cnt).core c).pos = (b.a.s.core c).pos + cnt) ∧
        (whole = true → r.stopped = false → ((finishBatch c x b whole cnt).core c).unit = (b.a.s.core c).ahead ∧
          ((finishBatch c x b whole cnt).core c).pos = 0 ∧ r'.out = r.out - 1) := by
  obtain ⟨r', hexec, hr', hout⟩ := exec_batchKept (c := c) h cnt
  rw [finishBatch_eq hstop htrap]
  split
  · next hnext =>
    rw [core_nextUnit hexec, core_batchKept]
    refine ⟨(calm_batchKept cnt).trans (calm_nextUnit ..), rfl, rfl, _, exec_nextUnit hexec c, hr', fun hw hs => ?_, fun _ hr => ?_⟩
    · simp [hw, hs] at hnext
    · exact ⟨if_neg (by simp [hr', hr]), rfl, congrArg (· - 1) hout⟩
  · next hnext =>
    rw [core_batchKept]
    exact ⟨calm_batchKept cnt, rfl, rfl, r', hexec, hr', fun _ _ => ⟨rfl, rfl⟩, fun hw => absurd hw (by simp_all)⟩

end

/-! #### ELEM_BATCH -/

theorem exec_nextBatch {run c u : Nat} {x : Running} {t : State} {r : Run} (ht : (t.win x.part).exec = some r) :
    ((nextBatch run c u x t).a.s.win x.part).exec = some r :=
  (congrArg Window.exec (win_congr (goes_nextBatch ..).state.qm x.part)).trans ht

section
variable {s : State} {c run u : Nat} {x : Running} (h : (s.win x.part).exec = some x.run)
include h

/-- A step whose setup or batch fails or raises a trapped flag writes nothing and stops the descriptor. -/
theorem batchStep_stops (hbad : ¬SetupOk c run x s ∨ (nextBatch run c u x (ensureStarted c run x s).1).a.stop ≠ none ∨
      (nextBatch run c u x (ensureStarted c run x s).1).trap ≠ none) :
    Calm s (batchStep run c u x (ensureStarted c run x s)) ∧ ((batchStep run c u x (ensureStarted c run x s)).core c).unit = none ∧
      ∃ r, ((batchStep run c u x (ensureStarted c run x s)).win x.part).exec = some r ∧ r.stopped = true := by
  by_cases hok : SetupOk c run x s
  · obtain ⟨hgo, hcalm, -, r, hr, -⟩ := ensureStarted_ok h hok
    rw [batchStep, if_neg (by simp [hgo])]
    obtain ⟨hcalm', hunit, hexec⟩ := finishBatch_stops (c := c) (exec_nextBatch hr) (hbad.resolve_left (· hok))
      (batchLast ((ensureStarted c run x s).1.core c) x.item u) (batchCount ((ensureStarted c run x s).1.core c) x.item u)
    exact ⟨(hcalm.trans (calm_of_accesses (goes_nextBatch ..).state)).trans hcalm', hunit, hexec⟩
  · obtain ⟨hgo, hcalm, hunit, hexec⟩ := ensureStarted_fails h hok
    rw [batchStep, if_pos (by simp [hgo])]
    exact ⟨hcalm, hunit, hexec⟩

/-- A step whose setup and batch succeed: its bytes land, and the core moves on. -/
theorem batchStep_lands (hu : (s.core c).unit = some u) (hok : SetupOk c run x s)
    (hstop : (nextBatch run c u x (ensureStarted c run x s).1).a.stop = none) (htrap : (nextBatch run c u x (ensureStarted c run x s).1).trap = none) :
    let k := (ensureStarted c run x s).1.core c
    let o := nextBatch run c u x (ensureStarted c run x s).1
    let t := batchStep run c u x (ensureStarted c run x s)
    t.free = s.free ∧ (t.core c).vregs = o.vregs ∧ (t.core c).preds = o.preds ∧ (WritesLand s → Lands o.a.out s t) ∧
      ∃ r, (t.win x.part).exec = some r ∧ r.stopped = x.run.stopped ∧
        (batchLast k x.item u = false → x.run.stopped = false → (t.core c).unit = some u ∧ (t.core c).pos = k.pos + batchCount k x.item u) ∧
        (batchLast k x.item u = true → x.run.stopped = false → (t.core c).unit = k.ahead ∧ (t.core c).pos = 0 ∧ r.out = x.run.out - 1) := by
  obtain ⟨hgo, hcalm, hunit, r, hr, hrstop, hrout⟩ := ensureStarted_ok h hok
  intro k o t
  have ht : t = finishBatch c x o (batchLast k x.item u) (batchCount k x.item u) := if_neg (by simp [hgo])
  have hbatch : Acc.Goes { s := (ensureStarted c run x s).1 } o.a := goes_nextBatch ..
  have hcore : o.a.s.core c = k := core_congr hbatch.state.qm c
  obtain ⟨hcalm', hvregs, hpreds, r', hr', hrstop', hin, hend⟩ :=
    finishBatch_lands (c := c) (exec_nextBatch hr) hstop htrap (batchLast k x.item u) (batchCount k x.item u)
  rw [hcore, ← ht] at hin hend
  rw [← ht] at hcalm' hvregs hpreds hr'
  refine ⟨((hcalm'.free.trans (carries_land ..).free).trans hbatch.state.free).trans hcalm.free, hvregs, hpreds, fun hw a => ?_,
    r', hr', hrstop'.trans hrstop, fun hl hrun => ?_, fun hl hrun => ?_⟩
  · rw [hcalm'.mem, hbatch.lands c (hcalm.land hw) a, hcalm.mem]
  · obtain ⟨hunit', hpos⟩ := hin hl hrun
    exact ⟨hunit'.trans (hunit.trans hu), hpos⟩
  · rw [← hrout]
    exact hend hl (hrstop.trans hrun)

end

/-- A batch of the element engine: the bytes of its outputs land and the core moves on, or the descriptor stops and nothing is written. -/
theorem exec_elemBatch_steps {s : State} (hup : s.up = true) (hst : s.stopped = false) {c : Fin 16} {x : Running} (hx : s.coreRun c.val = some x)
    {u : Nat} (hu : (s.core c.val).unit = some u) :
    let s0 : State := { s with free := s.free + 1 }
    let s1 := (ensureStarted c.val s.free x s0).1
    let k := s1.core c.val
    let o := nextBatch s.free c.val u x s1
    ∃ t r, exec (.elemBatch c) s = .next t ∧ (t.win x.part).exec = some r ∧ t.free = s.free + 1 ∧
      (SetupOk c.val s.free x s0 → o.a.stop = none → o.trap = none → r.stopped = x.run.stopped ∧ (t.core c.val).vregs = o.vregs ∧
        (t.core c.val).preds = o.preds ∧ (WritesLand s → Lands o.a.out s t) ∧
        (batchLast k x.item u = false → x.run.stopped = false → (t.core c.val).unit = some u ∧ (t.core c.val).pos = k.pos + batchCount k x.item u) ∧
        (batchLast k x.item u = true → x.run.stopped = false → (t.core c.val).unit = k.ahead ∧ (t.core c.val).pos = 0 ∧ r.out = x.run.out - 1)) ∧
      (¬SetupOk c.val s.free x s0 ∨ o.a.stop ≠ none ∨ o.trap ≠ none → r.stopped = true ∧ (t.core c.val).unit = none ∧ t.mem = s.mem) := by
  intro s0 s1 k o
  have hexec : (s0.win x.part).exec = some x.run := (coreRun_exec hx).2
  obtain ⟨t, hnext, hqm, hmem, hfree⟩ := running_next hup hst (elemStep_eq hx hu)
  rw [exec_elemBatch]
  refine ⟨t, ?_⟩
  rw [win_congr hqm, core_congr hqm, hmem, hfree]
  by_cases hbad : ¬SetupOk c.val s.free x s0 ∨ o.a.stop ≠ none ∨ o.trap ≠ none
  · obtain ⟨hcalm, hunit, r, hr, hrstop⟩ := batchStep_stops hexec hbad
    exact ⟨r, hnext, hr, hcalm.free, fun hok hs ht => absurd hbad (by simp [hok, hs, ht]), fun _ => ⟨hrstop, hunit, hcalm.mem⟩⟩
  · obtain ⟨hok, hs, ht⟩ : SetupOk c.val s.free x s0 ∧ o.a.stop = none ∧ o.trap = none := by simpa using hbad
    obtain ⟨hfree', hvregs, hpreds, hlands, r, hr, hrstop, hin, hend⟩ := batchStep_lands hexec hu hok hs ht
    refine ⟨r, hnext, hr, hfree', fun _ _ _ => ⟨hrstop, hvregs, hpreds, fun hw a => ?_, hin, hend⟩, fun hn => absurd hn hbad⟩
    rw [hmem]
    exact hlands hw a

end Sys2Proof.Machine
end

section
open Sys2Proof Sys2Proof.Machine

/-- Settles O40: grants, steals, drains, batches and the widened re-run, each by the rule of its command; the bytes that land are those that the unit's
accesses have gathered, in rising order. -/
theorem unitsGrantedAndDrained : Obligations.UnitsGrantedAndDrained := by
  unfold Obligations.UnitsGrantedAndDrained
  intro s c x hup hst hx
  refine ⟨fun g ht hg hb hr => exec_aheadRequest_nextTile hup hst hx ht hg hb hr,
    fun lo hi ht hrange hlt hopen hw => exec_aheadRequest_grant hup hst hx ht hrange hlt hopen hw,
    fun hthief h => ⟨fun hdry => ⟨fun v hv => ?_, fun hnone => ?_⟩, fun hask => ⟨fun v hv => ?_, fun hnone => ?_⟩⟩,
    fun b y hy => exec_tileDrain_drains hup hst hx hy, fun u hu => exec_elemBatch_steps hup hst hx hu,
    fun p y hy hdue => exec_widenRerun_restarts hup hst hy hdue⟩
  · exact running_takes hup hst hx (localSteal_eq hx hthief hdry) hv
  · exact running_dry hup hst (localSteal_eq hx hthief hdry) hnone
  · exact running_takes hup hst hx (remoteSteal_eq hx hthief hask) hv
  · exact running_dry hup hst (remoteSteal_eq hx hthief hask) hnone

end

section
/-!
SUPPORT. The queue manager under the work of the scheduler: what leaves all of it alone, what leaves its queues and semaphores alone, and what moves
nothing of a queue but its descriptors in flight.
-/
namespace Sys2Proof.Machine

/-! ### Queues and descriptors in flight -/

theorem queue_congr {s t : State} (h : t.qm.queues = s.qm.queues) (q : Nat) : t.queue q = s.queue q := by
  unfold State.queue
  rw [h]

theorem item_congr {s t : State} (h : t.qm.queues = s.qm.queues) (q uid : Nat) : t.item q uid = s.item q uid := by
  unfold State.item
  rw [queue_congr h]

@[simp] theorem queue_modQueue (s : State) (q : Nat) (f : Queue → Queue) : (s.modQueue q f).queue q = f (s.queue q) := tget_tset_self ..

theorem queue_modQueue_ne (s : State) {q k : Nat} (f : Queue → Queue) (h : k ≠ q) : (s.modQueue q f).queue k = s.queue k := tget_tset_ne _ _ _ h

/-! ### Bytes that arrive, and Snuff -/

/-- A fold whose steps leave the queue manager leaves it. -/
theorem qm_foldl {α : Type} {g : State → α → State} (hg : ∀ s a, (g s a).qm = s.qm) (l : List α) (s : State) : (l.foldl g s).qm = s.qm :=
  List.foldlRecOn l g (motive := fun t => t.qm = s.qm) rfl fun t ht a _ => (hg t a).trans ht

theorem carries_landHeld (r : Run) (keep : Nat → Bool) (s : State) : Carries s (landHeld r keep s) :=
  List.foldlRecOn _ _ (motive := Carries s) (.refl s) fun t ht x _ =>
    ht.trans (carries_land x.1 { s := t, out := x.2.filter fun y => keep y.1 })

theorem gatherPartial_qm (p : Nat) (i : Item) (s : State) (c u : Nat) : (gatherPartial p i s c u).qm = s.qm :=
  (carries_land c { gatherUnit s.fresh.2 c p i u with out := _ }).qm.trans (goes_gatherUnit ..).state.qm

@[simp] theorem gatherStopped_qm (p : Nat) (r : Run) (i : Item) (s : State) : (gatherStopped p r i s).qm = s.qm := by
  unfold gatherStopped
  split
  · rfl
  · refine (qm_foldl (fun s x => ?_) _ _).trans (carries_landHeld ..).qm
    split
    · exact gatherPartial_qm ..
    · rfl

@[simp] theorem snuffCause_qm (c o q : Nat) (s : State) : (snuffCause c o q s).qm = s.qm := by simp [snuffCause]
@[simp] theorem snuffRecord_qm (c o q : Nat) (s : State) : (snuffRecord c o q s).qm = s.qm := by simp [snuffRecord]
@[simp] theorem snuffAmend_qm (c o q : Nat) (s : State) : (snuffAmend c o q s).qm = s.qm := (with_ember_qm ..).trans (snuffCause_qm ..)

@[simp] theorem snuffStart_qm (s : State) : (snuffStart s).qm = s.qm := by
  unfold snuffStart State.fresh
  dsimp only
  split <;> split <;> simp

@[simp] theorem snuffTrigger_qm (c o q : Nat) (s : State) : (snuffTrigger c o q s).qm = s.qm := by
  unfold snuffTrigger
  split
  · simp
  · split
    · split <;> simp
    · dsimp only
      split <;> simp

@[simp] theorem descSnuff_qm (c p q : Nat) (s : State) : (descSnuff c p q s).qm = s.qm := snuffTrigger_qm ..

/-- A record or an index written to a ring, in host memory or in device memory. -/
@[simp] theorem spaceWrite_qm (s : State) (host : Bool) (a : Nat) (bs : List Byte) : (spaceWrite s host a bs).qm = s.qm := by
  unfold spaceWrite
  split
  · exact hostWrite_qm ..
  · unfold engWrite
    split
    · exact viol_qm ..
    · split
      · exact viol_qm ..
      · exact (carries_devWrite ..).qm

/-! ### Cores and lateness -/

/-- What is done to one core after another moves nothing but the cores. -/
theorem foldl_modCore_eq (f : CoreSt → CoreSt) (l : List Nat) (s : State) :
    ∃ cs, l.foldl (fun s c => s.modCore c f) s = { s with qm := { s.qm with cores := cs } } :=
  List.foldlRecOn _ _ (motive := fun t => ∃ cs, t = { s with qm := { s.qm with cores := cs } }) ⟨_, rfl⟩
    fun t ⟨cs, ht⟩ c _ => ⟨_, by rw [ht]; rfl⟩

theorem clearCores_eq (s : State) (p uid : Nat) : ∃ cs, clearCores s p uid = { s with qm := { s.qm with cores := cs } } := foldl_modCore_eq ..
theorem dropSlots_eq (p : Nat) (s : State) : ∃ cs, dropSlots p s = { s with qm := { s.qm with cores := cs } } := foldl_modCore_eq ..

/-- A slot's lateness is counted in a register. -/
theorem countLate_eq (s : State) (p : Nat) (start : W64) : ∃ r, countLate s p start = { s with regs := r } := by
  unfold countLate
  dsimp only
  split
  · exact ⟨_, rfl⟩
  · split <;> exact ⟨_, rfl⟩

theorem lateCheck_eq (p : Nat) (s : State) :
    ∃ r l, lateCheck p s = ({ s with regs := r } : State).modWin p fun w => { w with late := l } := by
  obtain ⟨r, hr⟩ : ∃ r, ((s.win p).late.filter fun x => onlyGroup s (s.win p) x.2).foldl (fun s x => countLate s p x.1) s = { s with regs := r } :=
    List.foldlRecOn _ _ (motive := fun t => ∃ r, t = { s with regs := r }) ⟨_, rfl⟩
      fun t ⟨r, ht⟩ x _ => by
        obtain ⟨r', hr'⟩ := countLate_eq t p x.1
        exact ⟨r', by rw [hr', ht]⟩
  unfold lateCheck
  dsimp only
  rw [hr]
  exact ⟨r, _, rfl⟩

/-! ### Entries of queues -/

/-- A queue apart from its descriptors in flight. -/
def Queue.entry (x : Queue) : Queue := { x with items := [] }

/-- Nothing of the queues has moved but their descriptors in flight, and no semaphore. -/
structure SameEntries (s t : State) : Prop where
  entry : ∀ k, (t.queue k).entry = (s.queue k).entry
  sems : t.qm.sems = s.qm.sems

theorem SameEntries.refl (s : State) : SameEntries s s := ⟨fun _ => rfl, rfl⟩
theorem SameEntries.trans {s t u : State} (h : SameEntries s t) (h' : SameEntries t u) : SameEntries s u :=
  ⟨fun k => (h'.entry k).trans (h.entry k), h'.sems.trans h.sems⟩

theorem SameEntries.ite {c : Prop} [Decidable c] {s a b : State} (ha : SameEntries s a) (hb : SameEntries s b) :
    SameEntries s (if c then a else b) := by
  split
  · exact ha
  · exact hb

theorem sameEntries_of_queues {s t : State} (hq : t.qm.queues = s.qm.queues) (hs : t.qm.sems = s.qm.sems) : SameEntries s t :=
  ⟨fun k => congrArg Queue.entry (queue_congr hq k), hs⟩

theorem sameEntries_of_qm {s t : State} (h : t.qm = s.qm) : SameEntries s t :=
  sameEntries_of_queues (congrArg Qm.queues h) (congrArg Qm.sems h)

theorem sameEntries_modWin (s : State) (p : Nat) (f : Window → Window) : SameEntries s (s.modWin p f) := sameEntries_of_queues rfl rfl

theorem sameEntries_modItem (s : State) (q uid : Nat) (f : Item → Item) : SameEntries s (s.modItem q uid f) := by
  refine ⟨fun k => ?_, rfl⟩
  unfold State.modItem
  by_cases hk : k = q
  · rw [hk, queue_modQueue]
    rfl
  · rw [queue_modQueue_ne _ _ hk]

theorem sameEntries_clearCores (s : State) (p uid : Nat) : SameEntries s (clearCores s p uid) := by
  obtain ⟨cs, h⟩ := clearCores_eq s p uid
  rw [h]
  exact sameEntries_of_queues rfl rfl

theorem sameEntries_dropSlots (p : Nat) (s : State) : SameEntries s (dropSlots p s) := by
  obtain ⟨cs, h⟩ := dropSlots_eq p s
  rw [h]
  exact sameEntries_of_queues rfl rfl

theorem sameEntries_lateCheck (p : Nat) (s : State) : SameEntries s (lateCheck p s) := by
  obtain ⟨r, l, h⟩ := lateCheck_eq p s
  rw [h]
  exact sameEntries_of_queues rfl rfl

section
variable {s t : State} (h : SameEntries s t) (q : Nat)
include h

theorem SameEntries.state : (t.queue q).state = (s.queue q).state := (congrArg Queue.state (h.entry q) :)
theorem SameEntries.disabling : (t.queue q).disabling = (s.queue q).disabling := (congrArg Queue.disabling (h.entry q) :)
theorem SameEntries.fault : (t.queue q).fault = (s.queue q).fault := (congrArg Queue.fault (h.entry q) :)
theorem SameEntries.pi : (t.queue q).pi = (s.queue q).pi := (congrArg Queue.pi (h.entry q) :)
theorem SameEntries.lastStatus : (t.queue q).lastStatus = (s.queue q).lastStatus := (congrArg Queue.lastStatus (h.entry q) :)

end

end Sys2Proof.Machine
end

section
/-!
O41, the descriptor in EXEC finishes (R108, R193, R203).
-/
namespace Sys2Proof.Machine

theorem exec_descriptorFinish (p : Fin 16) (k : Fin 3) (s : State) : exec (.descriptorFinish p k) s = running s (finishSlot p.val k) := rfl

/-! ### The writes of the granted units -/

theorem Framed.attn_eq {P : Nat → Prop} {s t : State} (h : Reads P s t) : t.attn = s.attn := (congrArg State.attn h.2 :)

theorem storeSectors_attn (f : Nat) (s : State) (a : Nat) (bs : List Byte) : (storeSectors f s a bs).attn = s.attn := by
  induction f generalizing s a bs with
  | zero => rfl
  | succ f ih =>
    cases bs with
    | nil => rfl
    | cons b t =>
      refine (ih ..).trans ?_
      split
      · exact report_attn ..
      · split <;> rfl

theorem devWrite_attn (ag : Agent) (s : State) (a : Nat) (bs : List Byte) : (devWrite ag s a bs).attn = s.attn := by
  have hP : Counters (fun _ => True) ag := ⟨fun _ _ => trivial, fun _ _ _ _ => trivial, fun _ _ => trivial⟩
  have hb : (rmwErrors (countAccess ag true s a bs.length) a bs.length).attn = s.attn :=
    Framed.attn_eq ((reads_countAccess hP true s a bs.length).trans (reads_rmwErrors hP ..))
  unfold devWrite
  dsimp only
  split
  · exact hb
  · exact (storeSectors_attn ..).trans hb

theorem land_attn (c : Nat) (a : Acc) : (a.land c).attn = a.s.attn :=
  List.foldlRecOn _ _ (motive := fun t : State => t.attn = a.s.attn) rfl fun _ ht _ _ => (devWrite_attn ..).trans ht

theorem landHeld_attn (r : Run) (keep : Nat → Bool) (s : State) : (landHeld r keep s).attn = s.attn :=
  List.foldlRecOn _ _ (motive := fun t : State => t.attn = s.attn) rfl fun _ ht _ _ => (land_attn ..).trans ht

/-- The writes of the granted units, all of them, are stored one after the other. -/
theorem landHeld_mem (r : Run) {s : State} (h : WritesLand s) :
    (landHeld r (fun _ => true) s).mem = r.held.foldl (fun m x => (byteRuns x.2).foldl (fun m y => mwrite m y.1 y.2) m) s.mem := by
  unfold landHeld
  induction r.held generalizing s with
  | nil => rfl
  | cons x l ih =>
    have hland := carries_land x.1 { s := s, out := x.2.filter fun _ => true }
    rw [List.foldl_cons, ih (hland.land h), List.foldl_cons]
    refine congrArg (fun m => l.foldl _ m) ?_
    rw [Acc.land, foldl_devWrite_mem _ _ h, List.filter_true]

/-! ### The work of the end -/

/-- What the end of a descriptor writes, and the error that its last write meets. -/
def execWork (x : Running) (s : State) : State × Option Stop :=
  if x.run.stopped then (gatherStopped x.part x.run x.item s, none) else writeFold x (landHeld x.run (fun _ => true) s)

theorem writeFold_none {x : Running} (h : dOp x.item.bytes ≠ .elem ∨ dFold x.item.bytes = 0) (s : State) : writeFold x s = (s, none) :=
  if_pos (h.imp_right fun h => .inr (.inl h))

theorem writeFold_qm (x : Running) (s : State) : (writeFold x s).1.qm = s.qm := by
  unfold writeFold
  dsimp only [State.fresh]
  split
  · rfl
  · exact (carries_land ..).qm.trans (goes_coreWrite ..).state.qm

theorem execWork_qm (x : Running) (s : State) : (execWork x s).1.qm = s.qm := by
  unfold execWork
  split
  · exact gatherStopped_qm ..
  · exact (writeFold_qm ..).trans (carries_landHeld ..).qm

theorem execWork_landHeld {x : Running} (hrun : x.run.stopped = false) (h : dOp x.item.bytes ≠ .elem ∨ dFold x.item.bytes = 0) (s : State) :
    execWork x s = (landHeld x.run (fun _ => true) s, none) :=
  (if_neg (by simp [hrun])).trans (writeFold_none h _)

/-! ### EXEC is left -/

theorem promote_of_next {s : State} {p : Nat} (h : (s.win p).next = none) : promote p s = s := by
  unfold promote
  dsimp only
  rw [h]
  cases (s.win p).exec <;> rfl

/-- The ring runs the descriptor. -/
def ringMine (x : Running) (s : State) : Bool :=
  match s.attn with
  | some a => a.uid == x.run.uid
  | none => false

/-- The ring is free again when its own ATTN leaves EXEC. -/
def ringLeft (x : Running) (s : State) : State :=
  if ringMine x s && x.run.units != 0 then attnScratch x.part { s with attn := none } else if ringMine x s then { s with attn := none } else s

theorem ringLeft_qm (x : Running) (s : State) : (ringLeft x s).qm = s.qm := by
  unfold ringLeft
  split
  · rfl
  · split <;> rfl

theorem ringLeft_none {x : Running} {s : State} (h : s.attn = none) : ringLeft x s = s := by
  have hmine : ringMine x s = false := by rw [ringMine, h]
  simp [ringLeft, hmine]

/-- The cores give up their units, and EXEC is empty. -/
def execEmptied (x : Running) (s : State) : State := (clearCores s x.part x.run.uid).modWin x.part fun w => { w with exec := none }

theorem leaveExec_eq (x : Running) (s : State) :
    leaveExec x s = promote x.part (lateCheck x.part (ringLeft x (execEmptied x s))) := rfl

theorem execEmptied_eq (x : Running) (s : State) : ∃ cs, execEmptied x s =
    ({ s with qm := { s.qm with cores := cs } } : State).modWin x.part fun w => { w with exec := none } := by
  obtain ⟨cs, h⟩ := clearCores_eq s x.part x.run.uid
  exact ⟨cs, by rw [execEmptied, h]⟩

/-- EXEC is left with NEXT empty: the queues stay, and memory too unless an ATTN runs. -/
theorem leaveExec_keeps {x : Running} {s : State} (h : (s.win x.part).next = none) :
    ((leaveExec x s).win x.part).exec = none ∧ (leaveExec x s).qm.queues = s.qm.queues ∧ (s.attn = none → (leaveExec x s).mem = s.mem) := by
  obtain ⟨cs, hcs⟩ := execEmptied_eq x s
  have hwin : (ringLeft x (execEmptied x s)).win x.part = { s.win x.part with exec := none } := by
    rw [win_congr (ringLeft_qm ..), hcs, win_modWin]
    rfl
  obtain ⟨r, l, hlate⟩ := lateCheck_eq x.part (ringLeft x (execEmptied x s))
  have hwin' : (lateCheck x.part (ringLeft x (execEmptied x s))).win x.part = { s.win x.part with exec := none, late := l } := by
    rw [hlate, win_modWin]
    exact congrArg (fun w : Window => { w with late := l }) hwin
  rw [leaveExec_eq, promote_of_next (by rw [hwin']; exact h), hwin', hlate]
  refine ⟨rfl, (congrArg Qm.queues (ringLeft_qm x (execEmptied x s))).trans (by rw [hcs]; rfl), fun ha => ?_⟩
  rw [ringLeft_none (by rw [hcs]; exact ha), hcs]
  rfl

/-! ### DESCRIPTOR_FINISH of the descriptor in EXEC -/

theorem finishSlot_zero (p : Nat) (s : State) : finishSlot p 0 s = finishExec p s := rfl

theorem running?_item {s : State} {p : Nat} {x : Running} (h : s.running? p = some x) : s.item x.run.q.toNat x.run.uid = some x.item := by
  unfold State.running? at h
  split at h
  · cases h
  · obtain ⟨i, hi, rfl⟩ := Option.map_eq_some_iff.1 h
    exact hi

theorem finishExec_eq {s : State} {p : Nat} {x : Running} (hx : s.running? p = some x) (hc : s.cancelling x.run.q.toNat = false)
    (he : execEnded s x = true) :
    finishExec p s = leaveExec x ((execWork x s).1.modItem x.run.q.toNat x.run.uid (finishItem x (execWork x s).2)) := by
  obtain ⟨rfl, -⟩ := running?_exec hx
  unfold finishExec
  rw [hx]
  exact if_neg (by simp [hc, he])

theorem finishItem_uid (x : Running) (stop : Option Stop) (i : Item) : (finishItem x stop i).uid = i.uid := by
  unfold finishItem
  cases stop with
  | none => dsimp only; split <;> rfl
  | some st => rfl

/-- A descriptor that has met no error finishes with the status and the count of its run. -/
theorem finishItem_ok (x : Running) {i : Item} (h : i.status = 0) :
    (finishItem x none i).status = okStatus i.bytes x.run ∧ (finishItem x none i).count = okCount i.bytes x.run := by
  unfold finishItem
  dsimp only
  rw [if_pos (by simp [h])]
  exact ⟨rfl, rfl⟩

/-- The descriptor in EXEC finishes: EXEC is empty, its item carries the outcome, and the writes of a GATHER or SCATTER have arrived. -/
theorem exec_finish_exec {s : State} (hup : s.up = true) (hst : s.stopped = false) {p : Fin 16} {x : Running} (hx : s.running? p.val = some x)
    (hc : s.cancelling x.run.q.toNat = false) (he : execEnded s x = true) (hn : (s.win p.val).next = none) :
    ∃ t i, exec (.descriptorFinish p 0) s = .next t ∧ (t.win p.val).exec = none ∧ t.item x.run.q.toNat x.run.uid = some i ∧ i.finished = true ∧
      (x.run.stopped = false → dFold x.item.bytes = 0 → x.item.status = 0 →
        i.status = okStatus x.item.bytes x.run ∧ i.count = okCount x.item.bytes x.run) ∧
      (x.run.stopped = false → dOp x.item.bytes = .gather ∨ dOp x.item.bytes = .scatter → s.attn = none → WritesLand s →
        t.mem = x.run.held.foldl (fun m h => (byteRuns h.2).foldl (fun m r => mwrite m r.1 r.2) m) s.mem) := by
  obtain ⟨hpart, -⟩ := running?_exec hx
  obtain ⟨t, hnext, hqm, hmem, -⟩ := running_next hup hst ((finishSlot_zero p.val s).trans (finishExec_eq hx hc he))
  have hwork := execWork_qm x s
  have hitem : ((execWork x s).1.modItem x.run.q.toNat x.run.uid (finishItem x (execWork x s).2)).item x.run.q.toNat x.run.uid =
      some (finishItem x (execWork x s).2 x.item) :=
    item_modItem ((item_congr (congrArg Qm.queues hwork) ..).trans (running?_item hx)) fun _ => finishItem_uid ..
  obtain ⟨hexec, hqueues, hkeep⟩ := leaveExec_keeps (x := x)
    (s := (execWork x s).1.modItem x.run.q.toNat x.run.uid (finishItem x (execWork x s).2)) (by rw [win_modItem, win_congr hwork, hpart]; exact hn)
  refine ⟨t, finishItem x (execWork x s).2 x.item, hnext, ?_, ?_, rfl, fun hrun hfold hok => ?_, fun hrun hop ha hland => ?_⟩
  · rw [win_congr hqm, ← hpart]
    exact hexec
  · rw [item_congr (congrArg Qm.queues hqm), item_congr hqueues, hitem]
  · rw [execWork_landHeld hrun (.inr hfold)]
    exact finishItem_ok x hok
  · have hw := execWork_landHeld hrun (.inl (by rcases hop with h | h <;> simp [h])) s
    rw [hmem, hkeep (by rw [hw]; exact (landHeld_attn ..).trans ha), hw, ← landHeld_mem _ hland]
    rfl

end Sys2Proof.Machine
end

section
/-!
O41, a mover finishes (R108, R171, R177, R178).
-/
namespace Sys2Proof.Machine

/-! ### The accesses of a mover -/

theorem goes_prefetchAll (part : Nat) (i : Item) (cs seen : List Nat) (a : Acc) : a.Goes (prefetchAll part i cs seen a) := by
  induction cs generalizing seen a with
  | nil => exact .refl a
  | cons c cs ih =>
    unfold prefetchAll
    refine .trans ?_ (ih ..)
    exact ⟨(goes_copyRange c part i 0 (prodBounds i.bounds) { a with out := [] }).state,
      fun ha => List.foldlRecOn _ _ (motive := Rising) ha fun _ hm _ _ => rising_tput hm ..⟩

theorem goes_moveAll (s : State) (part : Nat) (i : Item) : Acc.Goes { s := s } (moveAll s part i) := .ite (goes_prefetchAll ..) (goes_copyRange ..)

theorem goes_loadWords (s : State) (part : Nat) (i : Item) : Acc.Goes { s := s } (loadWords s part i).2 := goes_coreRead ..

/-- Some of the bytes that a unit would write, and no others. -/
theorem Acc.Goes.filterOut {a b : Acc} (h : a.Goes b) (keep : Nat × Byte → Bool) : a.Goes { b with out := b.out.filter keep } :=
  ⟨h.state, fun ha => (h.rising ha).filter keep⟩

/-! ### The work of a mover -/

/-- The state in which a mover that copies makes its accesses: it has taken a free value. -/
def moverStart (s : State) : State := { s with free := s.free + 1 }

theorem moverWork_loadb {s : State} {p : Nat} {i : Item} (h : dOp i.bytes = .loadb) :
    moverWork s p i = ((loadWords s p i).1, (loadWords s p i).2.s, (loadWords s p i).2.stop) := if_pos h

/-- A mover that copies and meets no error: all of its bytes arrive. -/
theorem moverWork_copied {s : State} {p : Nat} {i : Item} (h : dOp i.bytes ≠ .loadb) (hstop : (moveAll (moverStart s) p i).stop = none) :
    moverWork s p i = ([], (moveAll (moverStart s) p i).land ((s.coreList p).headD 0), none) := by
  unfold moverWork State.fresh
  rw [if_neg h]
  dsimp only
  rw [show (moveAll { s with free := s.free + 1 } p i).stop = none from hstop]
  rfl

/-- A mover that copies and meets an error: each of its bytes has arrived or not. -/
theorem moverWork_stopped {s : State} {p : Nat} {i : Item} (h : dOp i.bytes ≠ .loadb) {st : Stop}
    (hstop : (moveAll (moverStart s) p i).stop = some st) :
    moverWork s p i = ([], { moveAll (moverStart s) p i with
      out := (moveAll (moverStart s) p i).out.filter fun y => Config.partialByte s.free y.1 }.land ((s.coreList p).headD 0), some st) := by
  unfold moverWork State.fresh
  rw [if_neg h]
  dsimp only
  rw [show (moveAll { s with free := s.free + 1 } p i).stop = some st from hstop]
  rfl

theorem moverWork_qm (s : State) (p : Nat) (i : Item) : (moverWork s p i).2.1.qm = s.qm := by
  have hgo := goes_moveAll (moverStart s) p i
  by_cases h : dOp i.bytes = .loadb
  · rw [moverWork_loadb h]
    exact (goes_loadWords ..).state.qm
  · cases hstop : (moveAll (moverStart s) p i).stop with
    | none =>
      rw [moverWork_copied h hstop]
      exact (carries_land ..).qm.trans hgo.state.qm
    | some st =>
      rw [moverWork_stopped h hstop]
      exact (carries_land ..).qm.trans (hgo.filterOut _).state.qm

/-! ### DESCRIPTOR_FINISH of a mover -/

theorem finishSlot_mover {k : Fin 3} (h : k ≠ 0) (p : Nat) (s : State) : finishSlot p k s = finishMover p (k.val - 1) s :=
  if_neg fun e => h (Fin.ext e)

/-- What a mover leaves with the outcome of its work. -/
def moverLeft (p : Nat) (q : BitVec 16) (uid : Nat) (y : List W32 × State × Option Stop) : State :=
  (y.2.1.modItem q.toNat uid (moverItem y.2.2 y.1)).modWin p fun w => { w with movers := w.movers.filter fun y => !(y.1 == q && y.2 == uid) }

theorem finishMover_eq {s : State} {p k : Nat} {q : BitVec 16} {uid : Nat} {i : Item} (hm : (s.win p).movers[k]? = some (q, uid))
    (hi : s.item q.toNat uid = some i) (hc : s.cancelling q.toNat = false) : finishMover p k s = moverLeft p q uid (moverWork s p i) := by
  unfold finishMover
  rw [hm]
  dsimp only
  rw [hi]
  exact if_neg (by simp [hc])

theorem moverItem_uid (stop : Option Stop) (ws : List W32) (i : Item) : (moverItem stop ws i).uid = i.uid := by cases stop <;> rfl
theorem moverItem_finished (stop : Option Stop) (ws : List W32) (i : Item) : (moverItem stop ws i).finished = true := by cases stop <;> rfl

theorem item_moverLeft {s : State} {p : Nat} {q : BitVec 16} {uid : Nat} {i : Item} (hi : s.item q.toNat uid = some i)
    {y : List W32 × State × Option Stop} (hy : y.2.1.qm = s.qm) : (moverLeft p q uid y).item q.toNat uid = some (moverItem y.2.2 y.1 i) :=
  item_modItem ((item_congr (congrArg Qm.queues hy) ..).trans hi) fun _ => moverItem_uid ..

theorem movers_moverLeft {s : State} {y : List W32 × State × Option Stop} (hy : y.2.1.qm = s.qm) (p : Nat) (q : BitVec 16) (uid : Nat) :
    ((moverLeft p q uid y).win p).movers = (s.win p).movers.filter fun y => !(y.1 == q && y.2 == uid) := by
  unfold moverLeft
  rw [win_modWin, win_modItem, win_congr hy]

/-- A mover finishes: it leaves the window, its item carries the outcome, and the bytes that it copies have arrived, or some of them after an error. -/
theorem exec_finish_mover {s : State} (hup : s.up = true) (hst : s.stopped = false) {p : Fin 16} {k : Fin 3} {q : BitVec 16} {uid : Nat} {i : Item}
    (hk : k ≠ 0) (hm : (s.win p.val).movers[k.val - 1]? = some (q, uid)) (hi : s.item q.toNat uid = some i) (hc : s.cancelling q.toNat = false) :
    let m := moveAll (moverStart s) p.val i
    let l := loadWords s p.val i
    ∃ t j, exec (.descriptorFinish p k) s = .next t ∧ t.item q.toNat uid = some j ∧ j.finished = true ∧
      (t.win p.val).movers = (s.win p.val).movers.filter (fun y => !(y.1 == q && y.2 == uid)) ∧
      (dOp i.bytes ≠ .loadb →
        (m.stop = none → j = { i with finished := true, loads := [] } ∧ (WritesLand s → Lands m.out s t)) ∧
        (∀ st, m.stop = some st → j.status = st.status ∧ (WritesLand s → Lands (m.out.filter fun y => Config.partialByte s.free y.1) s t))) ∧
      (dOp i.bytes = .loadb → t.mem = s.mem ∧ (l.2.stop = none → j = { i with finished := true, loads := l.1 }) ∧
        (∀ st, l.2.stop = some st → j.status = st.status)) := by
  intro m l
  have hwork := moverWork_qm s p.val i
  have hgo : Acc.Goes { s := moverStart s } m := goes_moveAll ..
  obtain ⟨t, hnext, hqm, hmem, -⟩ := running_next hup hst ((finishSlot_mover hk p.val s).trans (finishMover_eq hm hi hc))
  change t.mem = (moverWork s p.val i).2.1.mem at hmem
  refine ⟨t, moverItem (moverWork s p.val i).2.2 (moverWork s p.val i).1 i, hnext, ?_, moverItem_finished .., ?_,
    fun hop => ⟨fun hstop => ?_, fun st hstop => ?_⟩, fun hop => ?_⟩
  · rw [item_congr (congrArg Qm.queues hqm), item_moverLeft hi hwork]
  · rw [win_congr hqm, movers_moverLeft hwork]
  · rw [moverWork_copied hop hstop] at hmem ⊢
    refine ⟨rfl, fun hland a => ?_⟩
    rw [hmem]
    exact hgo.lands _ hland a
  · rw [moverWork_stopped hop hstop] at hmem ⊢
    refine ⟨rfl, fun hland a => ?_⟩
    rw [hmem]
    exact (hgo.filterOut _).lands _ hland a
  · rw [moverWork_loadb hop] at hmem ⊢
    refine ⟨hmem.trans (goes_loadWords ..).state.mem, fun hstop => ?_, fun st hstop => ?_⟩
    · dsimp only
      rw [hstop]
      rfl
    · dsimp only
      rw [hstop]
      rfl

end Sys2Proof.Machine
end

section
/-!
O41, the oldest descriptor that may complete does (R193, R203, R204, R206, R208).
-/
namespace Sys2Proof.Machine

theorem exec_descriptorComplete (q : BitVec 16) (s : State) : exec (.descriptorComplete q) s = running s (completeDesc q.toNat) := rfl

/-! ### Step 1: the bound registers, and the place in the queue -/

/-- A completion moves nothing of its queue but the bound registers, and the count register takes the count. -/
theorem regEffect_eq (i : Item) (x : Queue) : ∃ b, regEffect i x = { x with bound := b } ∧
    (i.status.toNat < 0x10 → dWritesCount i.bytes = true → tget 0 b (dCntReg i.bytes) = i.count) := by
  unfold regEffect
  split
  · next h => exact ⟨x.bound, rfl, fun h' => absurd h' (by omega)⟩
  · split
    · exact ⟨_, rfl, fun _ _ => tget_tset_self ..⟩
    · next h =>
      split
      · exact ⟨_, rfl, fun _ h' => absurd h' h⟩
      · exact ⟨x.bound, rfl, fun _ h' => absurd h' h⟩

/-- The descriptor has left its queue. -/
def itemLeft (q : Nat) (i : Item) (s : State) : State :=
  (s.modQueue q (regEffect i)).modQueue q fun x => { x with items := x.items.filter fun j => j.uid != i.uid }

theorem completeDesc_eq {s : State} {q : Nat} {i : Item} (hact : (s.queue q).state = .active)
    (hi : (s.queue q).items.find? (mayComplete s (s.queue q)) = some i) : completeDesc q s = completeEffects q i (itemLeft q i s) := by
  unfold completeDesc
  dsimp only
  rw [if_neg (by rw [hact]; decide), hi]
  rfl

theorem queue_itemLeft (q : Nat) (i : Item) (s : State) : ∃ b,
    (itemLeft q i s).queue q = { s.queue q with bound := b, items := (s.queue q).items.filter fun j => j.uid != i.uid } ∧
      (i.status.toNat < 0x10 → dWritesCount i.bytes = true → tget 0 b (dCntReg i.bytes) = i.count) := by
  obtain ⟨b, hb, hcount⟩ := regEffect_eq i (s.queue q)
  refine ⟨b, ?_, hcount⟩
  rw [itemLeft, queue_modQueue, queue_modQueue, hb]

/-! ### Steps 3 to 5: the semaphore, the record, the interrupt and the last status -/

/-- A record moves the producer index of its queue. -/
theorem itemRecord_qm (s : State) (q : Nat) (i : Item) : (itemRecord s q i).qm = (s.modQueue q fun x => { x with pi := x.pi + 1 }).qm := by
  unfold itemRecord writeRecord
  dsimp only
  rw [spaceWrite_qm]
  unfold State.modQueue State.setQueue
  dsimp only
  rw [spaceWrite_qm, queue_congr (congrArg Qm.queues (spaceWrite_qm ..))]

/-- The semaphore of a descriptor that signals one and has met no error. -/
def signalled (i : Item) (s : State) : State :=
  if decide (i.status.toNat < 0x10) && dSigEn i.bytes then semUpdate s (dSigSem i.bytes) (dSigSet i.bytes) (dSigValue i.bytes) else s

/-- The record of a descriptor that asks for one or has failed. -/
def recorded (q : Nat) (i : Item) (s : State) : State :=
  if !decide (i.status.toNat < 0x10) || dCrec i.bytes then itemRecord s q i else s

/-- The interrupt of a descriptor that asks for one, and its status as the queue's last. -/
def told (q p : Nat) (i : Item) (s : State) : State :=
  (if dIrq i.bytes then raiseMsix s (s.fnOfPart p) (s.queue q).vector else s).modQueue q fun x => { x with lastStatus := i.status }

section
variable (q p : Nat) (i : Item) (s : State)

theorem queues_signalled : (signalled i s).qm.queues = s.qm.queues := by
  unfold signalled
  split <;> rfl

theorem queue_recorded : (recorded q i s).queue q =
    { s.queue q with pi := if 0x10 ≤ i.status.toNat ∨ dCrec i.bytes = true then (s.queue q).pi + 1 else (s.queue q).pi } := by
  have h : (!decide (i.status.toNat < 0x10) || dCrec i.bytes) = true ↔ 0x10 ≤ i.status.toNat ∨ dCrec i.bytes = true := by simp
  unfold recorded
  by_cases hrec : 0x10 ≤ i.status.toNat ∨ dCrec i.bytes = true
  · rw [if_pos (h.2 hrec), if_pos hrec, queue_congr (congrArg Qm.queues (itemRecord_qm s q i)), queue_modQueue]
  · rw [if_neg (mt h.1 hrec), if_neg hrec]

theorem sems_recorded : (recorded q i s).qm.sems = s.qm.sems := by
  unfold recorded
  split
  · rw [itemRecord_qm]
    rfl
  · rfl

theorem told_qm : (told q p i s).qm = (s.modQueue q fun x => { x with lastStatus := i.status }).qm := by
  unfold told
  split
  · unfold State.modQueue State.setQueue
    dsimp only
    rw [raiseMsix_qm, queue_congr (congrArg Qm.queues (raiseMsix_qm ..))]
  · rfl

end

/-- A descriptor that signals and has met no error updates its semaphore. -/
theorem sem_signalled {i : Item} (hok : i.status.toNat < 0x10) (hsig : dSigEn i.bytes = true) (s : State) :
    (signalled i s).sem (dSigSem i.bytes) = if dSigSet i.bytes then dSigValue i.bytes else s.sem (dSigSem i.bytes) + dSigValue i.bytes := by
  rw [signalled, if_pos (by simp [hok, hsig])]
  exact tget_tset_self ..

theorem signalled_silent {i : Item} (h : dSigEn i.bytes = false ∨ 0x10 ≤ i.status.toNat) (s : State) : signalled i s = s :=
  if_neg (by rcases h with h | h <;> simp [h])

/-- Steps 3 to 5 of R193. -/
def effectsMade (q : Nat) (i : Item) (s : State) : State := told q (s.queue q).part i (recorded q i (signalled i s))

/-- What they leave of the queue. -/
theorem queue_effectsMade (q : Nat) (i : Item) (s : State) : (effectsMade q i s).queue q = { s.queue q with
    pi := if 0x10 ≤ i.status.toNat ∨ dCrec i.bytes = true then (s.queue q).pi + 1 else (s.queue q).pi, lastStatus := i.status } := by
  rw [effectsMade, queue_congr (congrArg Qm.queues (told_qm ..)), queue_modQueue, queue_recorded, queue_congr (queues_signalled ..)]

theorem sems_effectsMade (q : Nat) (i : Item) (s : State) : (effectsMade q i s).qm.sems = (signalled i s).qm.sems := by
  rw [effectsMade, told_qm]
  exact sems_recorded ..

/-! ### The fault -/

theorem movePartial_qm (s : State) (p : Nat) (i : Item) : (movePartial s p i).qm = s.qm := by
  unfold movePartial
  split
  · rfl
  · exact (carries_land ..).qm.trans ((goes_moveAll (moverStart s) p i).filterOut _).state.qm

theorem sameEntries_execStopped (p : Nat) (r : Run) (s : State) : SameEntries s (execStopped p r s) := by
  unfold execStopped
  split
  · exact (sameEntries_of_qm (gatherStopped_qm ..)).trans (sameEntries_modItem ..)
  · exact .refl s

theorem dropMovers_qm (s : State) (p q : Nat) (uids : List Nat) : (dropMovers s p q uids).qm = s.qm := by
  refine qm_foldl (fun s x => ?_) _ s
  split
  · split
    · split
      · rfl
      · exact movePartial_qm ..
    · rfl
  · rfl

theorem sameEntries_dropFromWindow (s : State) (q : Nat) (uids : List Nat) : SameEntries s (dropFromWindow s q uids) := by
  unfold dropFromWindow
  extract_lets p u w mine x y
  have hu : SameEntries s u := sameEntries_of_qm (dropMovers_qm ..)
  have hx : SameEntries s x := by
    unfold x
    split
    · next r hr =>
      refine hu.trans (.ite ?_ (.refl u))
      have hleft : SameEntries u ((clearCores (execStopped p r u) p r.uid).modWin p fun w => { w with exec := none }) :=
        ((sameEntries_execStopped ..).trans (sameEntries_clearCores ..)).trans (sameEntries_modWin ..)
      refine .trans ?_ (sameEntries_lateCheck ..)
      exact .ite (hleft.trans (sameEntries_of_qm rfl)) hleft
    · exact hu
  have hy : SameEntries s y := by
    unfold y
    split
    · exact hx.trans (.ite (sameEntries_dropSlots ..) (.refl x))
    · exact hx
  exact hy.trans (sameEntries_modWin ..)

theorem sameEntries_enterExec (s : State) (p q : Nat) (i : Item) : SameEntries s (enterExec s p q i) := by
  unfold enterExec
  extract_lets n attn r u v w
  have hu : SameEntries s u := sameEntries_modWin ..
  have hw : SameEntries s w := hu.trans (sameEntries_of_qm (by unfold w v; split <;> rfl))
  split
  · exact hu
  · split
    · exact hw
    · exact (hw.trans (sameEntries_modItem ..)).trans (sameEntries_modWin ..)

theorem sameEntries_promote (p : Nat) (s : State) : SameEntries s (promote p s) := by
  unfold promote
  dsimp only
  split
  · split
    · exact sameEntries_modWin ..
    · exact .ite (.refl s) ((sameEntries_modWin ..).trans (sameEntries_enterExec ..))
  · exact .refl s

/-- A fault of an active queue that is not being disabled. -/
theorem faultQueue_faults {s : State} {q : Nat} (hact : (s.queue q).state = .active) (hdis : (s.queue q).disabling = false) (i : Item) :
    ((faultQueue q i s).queue q).state = .faulted ∧ ((faultQueue q i s).queue q).fault = some (i.idx, i.frames, i.bytes) ∧
      ((faultQueue q i s).queue q).lastStatus = (s.queue q).lastStatus ∧ ((faultQueue q i s).queue q).pi = (s.queue q).pi ∧
      (faultQueue q i s).qm.sems = s.qm.sems := by
  unfold faultQueue
  extract_lets x later u
  have hu : SameEntries s u := sameEntries_dropFromWindow ..
  rw [queue_modQueue]
  exact ⟨by simp [hu.state, hu.disabling, hact, hdis], rfl, hu.lastStatus q, hu.pi q, hu.sems⟩

/-! ### DESCRIPTOR_COMPLETE -/

/-- The effects, and the fault of a descriptor that has failed. -/
def effectsEnded (q : Nat) (i : Item) (s : State) : State :=
  if decide (i.status.toNat < 0x10) then effectsMade q i s else promote (s.queue q).part (faultQueue q i (effectsMade q i s))

theorem completeEffects_eq (q : Nat) (i : Item) (s : State) : completeEffects q i s =
    if dSnuffDone i.bytes then descSnuff 5 (s.queue q).part q (effectsEnded q i s) else effectsEnded q i s := rfl

theorem completeEffects_qm (q : Nat) (i : Item) (s : State) : (completeEffects q i s).qm = (effectsEnded q i s).qm := by
  rw [completeEffects_eq]
  split
  · exact descSnuff_qm ..
  · rfl

/-- The oldest descriptor that may complete does: its effects show in the entry of its queue and in its semaphore, and a failed one faults the queue. -/
theorem exec_complete {s : State} (hup : s.up = true) (hst : s.stopped = false) {q : BitVec 16} {i : Item}
    (hact : (s.queue q.toNat).state = .active) (hdis : (s.queue q.toNat).disabling = false)
    (hi : (s.queue q.toNat).items.find? (mayComplete s (s.queue q.toNat)) = some i) :
    let x := s.queue q.toNat
    ∃ t, exec (.descriptorComplete q) s = .next t ∧ (t.queue q.toNat).lastStatus = i.status ∧
      (t.queue q.toNat).pi = (if 0x10 ≤ i.status.toNat ∨ dCrec i.bytes = true then x.pi + 1 else x.pi) ∧
      (i.status.toNat < 0x10 →
        (t.queue q.toNat).items = x.items.filter (fun j => j.uid != i.uid) ∧ (t.queue q.toNat).state = .active ∧
        (dWritesCount i.bytes = true → tget 0 (t.queue q.toNat).bound (dCntReg i.bytes) = i.count) ∧
        (dSigEn i.bytes = true →
          t.sem (dSigSem i.bytes) = (if dSigSet i.bytes then dSigValue i.bytes else s.sem (dSigSem i.bytes) + dSigValue i.bytes)) ∧
        (dSigEn i.bytes = false → t.qm.sems = s.qm.sems)) ∧
      (0x10 ≤ i.status.toNat → (t.queue q.toNat).state = .faulted ∧ (t.queue q.toNat).fault = some (i.idx, i.frames, i.bytes) ∧
        t.qm.sems = s.qm.sems) := by
  intro x
  obtain ⟨b, hqueue, hcount⟩ := queue_itemLeft q.toNat i s
  obtain ⟨t, hnext, hqm, -⟩ := running_next hup hst (completeDesc_eq hact hi)
  replace hqm := hqm.trans (completeEffects_qm ..)
  rw [exec_descriptorComplete]
  refine ⟨t, hnext, ?_⟩
  have hu := queue_effectsMade q.toNat i (itemLeft q.toNat i s)
  have hsems := sems_effectsMade q.toNat i (itemLeft q.toNat i s)
  unfold effectsEnded at hqm
  generalize effectsMade q.toNat i (itemLeft q.toNat i s) = u at hqm hu hsems
  rw [hqueue] at hu
  by_cases hok : i.status.toNat < 0x10
  · rw [if_pos (decide_eq_true hok)] at hqm
    rw [queue_congr (congrArg Qm.queues hqm), hu]
    refine ⟨rfl, rfl, fun _ => ⟨rfl, hact, hcount hok, fun hsig => ?_, fun hsig => ?_⟩, fun h => absurd h (by omega)⟩
    · rw [State.sem, hqm, hsems]
      exact sem_signalled hok hsig _
    · rw [hqm, hsems, signalled_silent (.inl hsig)]
      rfl
  · rw [if_neg (by simpa using hok)] at hqm
    have hp := sameEntries_promote ((itemLeft q.toNat i s).queue q.toNat).part (faultQueue q.toNat i u)
    obtain ⟨hstate, hfault, hlast, hpi, hsame⟩ := faultQueue_faults (s := u) (q := q.toNat) (by rw [hu]; exact hact) (by rw [hu]; exact hdis) i
    rw [queue_congr (congrArg Qm.queues hqm), hp.lastStatus, hp.pi, hp.state, hp.fault, hlast, hpi, hu]
    refine ⟨rfl, rfl, fun h => absurd h hok, fun _ => ⟨hstate, hfault, ?_⟩⟩
    rw [hqm, hp.sems, hsame, hsems, signalled_silent (.inr (by omega))]
    rfl

end Sys2Proof.Machine
end

section
open Sys2Proof Sys2Proof.Machine

/-- Settles O41: a descriptor in EXEC or a mover finishes by its own rule, with what its accesses have gathered landed, and a completion by the fields
that its effects move in the entry of its queue. -/
theorem finishAndCompletion : Obligations.FinishAndCompletion := by
  unfold Obligations.FinishAndCompletion
  intro s hup hst
  exact ⟨fun p x hx hc he hn => exec_finish_exec hup hst hx hc he hn, fun p k q uid i hk hm hi hc => exec_finish_mover hup hst hk hm hi hc,
    fun q i hact hdis hi => exec_complete hup hst hact hdis hi⟩

end

section
/-!
SUPPORT. The issue of a new descriptor (R191, R192): what shows of it in its queue, whatever the descriptor then does in the window.
-/
namespace Sys2Proof.Machine

/-! ### Snuff leaves memory -/

@[simp] theorem snuffStart_mem (s : State) : (snuffStart s).mem = s.mem := by
  unfold snuffStart State.fresh
  dsimp only
  split <;> split <;> simp

@[simp] theorem snuffTrigger_mem (c o q : Nat) (s : State) : (snuffTrigger c o q s).mem = s.mem := by
  have hrecord : ∀ c s, (snuffRecord c o q s).mem = s.mem := fun c s => by simp [snuffRecord, snuffCause]
  have hamend : (snuffAmend c o q s).mem = s.mem := by simp [snuffAmend, snuffCause]
  unfold snuffTrigger
  split
  · simp [hrecord]
  · split
    · split <;> simp [hamend]
    · dsimp only
      split <;> simp [hrecord]

@[simp] theorem descSnuff_mem (c p q : Nat) (s : State) : (descSnuff c p q s).mem = s.mem := snuffTrigger_mem ..

/-! ### Queues -/

@[simp] theorem queue_setQueue (s : State) (q : Nat) (x : Queue) : (s.setQueue q x).queue q = x := tget_tset_self ..
theorem queue_setQueue_ne (s : State) {q k : Nat} (x : Queue) (h : k ≠ q) : (s.setQueue q x).queue k = s.queue k := tget_tset_ne _ _ _ h

/-- A queue with one more descriptor in flight. -/
def Queue.joinedBy (x : Queue) (i : Item) : Queue := { x with items := x.items ++ [i] }

/-- A queue stands as a new descriptor has left it, and the next one has the next number. -/
def joined (q : Nat) (y : Queue) (s : State) : State := ({ s with qm := { s.qm with issued := s.qm.issued + 1 } } : State).setQueue q y

theorem queue_of_joined {q : Nat} {y : Queue} {s t : State} (h : t.qm.queues = (joined q y s).qm.queues) :
    t.queue q = y ∧ ∀ k, k ≠ q → t.queue k = s.queue k :=
  ⟨(queue_congr h q).trans (queue_setQueue ..), fun _ hk => (queue_congr h _).trans (queue_setQueue_ne _ _ hk)⟩

/-! ### The next descriptor -/

section
variable {x : Queue} {f : Fetched} {rest : List Fetched} (ha : x.ahead = f :: rest) (hb : x.backItem = none)
include ha hb

theorem nextUp_read : nextUp x = some f := by
  unfold nextUp
  rw [hb, ha]
  rfl

theorem nextGood_read (hbad : f.bad = none) : nextGood x = some f := by
  unfold nextGood
  rw [nextUp_read ha hb]
  exact if_pos (by rw [hbad]; rfl)

end

/-! ### Issue -/

theorem placeItem_new {s : State} {q : Nat} (hb : (s.queue q).backItem = none) (f : Fetched) (make : Item → Item) (past : Queue → Item → Queue) :
    placeItem s q f make past = (make (newItem s (s.queue q) f true),
      joined q (past ((s.queue q).joinedBy (make (newItem s (s.queue q) f true))) (make (newItem s (s.queue q) f true))) s) := by
  unfold placeItem
  dsimp only
  rw [hb]
  rfl

theorem queues_noteIssue (q : Nat) (k : Part) (s : State) : (noteIssue q k s).qm.queues = s.qm.queues := rfl

/-- The scheduler's memory of an issue leaves the movers of the window. -/
theorem movers_noteIssue (q : Nat) (k : Part) (s : State) :
    ((noteIssue q k s).win (s.queue q).part).movers = (s.win (s.queue q).part).movers := by
  unfold noteIssue
  rw [win_modWin]
  dsimp only
  split
  · rfl
  · split
    · rfl
    · exact (apply_ite Window.movers ..).trans (ite_self _)

section
variable {s : State} (hup : s.up = true) (hst : s.stopped = false) {q : Nat} {f : Fetched} {rest : List Fetched}
  (ha : (s.queue q).ahead = f :: rest) (hb : (s.queue q).backItem = none)
include hup hst ha hb

/-- A new descriptor issues: it joins its queue, the scheduler notes it, and `put` places it in the window; SNUFF_ISSUE shows in neither the queue manager
nor memory. -/
theorem running_issue (hbad : f.bad = none) (hmay : mayIssue s q f = true) {want : Desc → Bool} (hwant : want f.bytes = true)
    {k : Fetched → State → State} {make : Item → Item} {past : Queue → Item → Queue} {put : Item → State → State}
    (hk : k f s = doIssue s q f make past put) :
    let i := make (newItem s (s.queue q) f true)
    let u := put i (noteIssue q (partKind f.bytes) (joined q (past ((s.queue q).joinedBy i) i) s))
    ∃ t, running s (issueIf q want k) = .next t ∧ t.qm = u.qm ∧ t.mem = u.mem := by
  intro i u
  have hissue : issueIf q want k s = if dSnuffIssue f.bytes then descSnuff 4 (s.queue q).part q u else u := by
    unfold issueIf
    rw [nextUp_read ha hb]
    dsimp only
    rw [if_pos (by simp [hbad, hwant, hmay]), hk]
    unfold doIssue
    rw [placeItem_new hb]
  obtain ⟨t, hnext, hqm, hmem, -⟩ := running_next hup hst hissue
  refine ⟨t, hnext, ?_, ?_⟩
  · rw [hqm]
    split
    · exact descSnuff_qm ..
    · rfl
  · rw [hmem]
    split
    · exact descSnuff_mem ..
    · rfl

end

/-! ### The place of the queue -/

/-- A descriptor that is no open REPEAT stays as it is when the queue goes past it. -/
theorem mem_stepPast {x : Queue} {i : Item} (hi : i ∈ x.items) (hopen : i.isOpen = false) (idx : W32) (drop : Nat) :
    i ∈ (stepPast x idx drop).items := by
  refine List.mem_map.2 ⟨i, hi, ?_⟩
  rw [← hopen]
  exact ite_self ..

theorem mem_joinedBy (x : Queue) (i : Item) : i ∈ (x.joinedBy i).items := List.mem_append_right _ (List.mem_singleton_self i)

/-- A REPEAT in flight whose count is 0 is past its body, and any other one has opened its body at its first descriptor. -/
theorem enterBody_joinedBy (x : Queue) {i : Item} (hopen : i.isOpen = decide (repCount x i.bytes ≠ 0)) :
    let y := enterBody (x.joinedBy i) i
    i ∈ y.items ∧ (repCount x i.bytes = 0 → y.ip = (advance (i.idx + BitVec.ofNat 32 (dBody i.bytes)) x.frames).1) ∧
      (repCount x i.bytes ≠ 0 → y.ip = i.idx + 1 ∧ y.frames =
        ⟨i.uid, i.idx + 1, i.idx + BitVec.ofNat 32 (dBody i.bytes), repCount x i.bytes, 0, dRstrides i.bytes⟩ :: x.frames) := by
  intro y
  have hcount : repCount (x.joinedBy i) i.bytes = repCount x i.bytes := rfl
  by_cases hzero : repCount x i.bytes = 0
  · have hy : y = stepPast (x.joinedBy i) (i.idx + BitVec.ofNat 32 (dBody i.bytes)) (dBody i.bytes + 1) := if_pos hzero
    rw [hy]
    exact ⟨mem_stepPast (mem_joinedBy x i) (by simp [hopen, hzero]) _ _, fun _ => rfl, fun h => absurd hzero h⟩
  · unfold y enterBody
    dsimp only
    rw [hcount, if_neg hzero]
    exact ⟨mem_joinedBy x i, fun h => absurd h hzero, fun _ => ⟨rfl, rfl⟩⟩

end Sys2Proof.Machine
end

section
/-!
O38, issue of control descriptors, movers and REPEATs, refusals, time-outs and stalls (R156, R176, R185, R191, R192, R200, R202).
-/
namespace Sys2Proof.Machine

theorem exec_dRepeat (q : BitVec 16) (s : State) : exec (.dRepeat q) s = running s (issueRepeat q.toNat) := rfl
theorem exec_descriptorRefuse (q : BitVec 16) (s : State) : exec (.descriptorRefuse q) s = running s (refuseDesc q.toNat) := rfl
theorem exec_waitTimeout (q : BitVec 16) (s : State) : exec (.waitTimeout q) s = running s (waitTimeout q.toNat) := rfl
theorem exec_partitionStall (p : Fin 16) (s : State) : exec (.partitionStall p) s = running s (partStall p.val) := rfl

theorem exec_control {c : BitVec 16 → Instr} {op : Op} (h : (c, op) ∈ [(Instr.dNop, Op.nop), (Instr.dWait, Op.wait), (Instr.dSignal, Op.signal),
    (Instr.dFence, Op.fence), (Instr.dBarrier, Op.barrier)]) (q : BitVec 16) (s : State) : exec (c q) s = running s (issueControl q.toNat op) := by
  simp only [List.mem_cons, Prod.mk.injEq, List.not_mem_nil, or_false] at h
  rcases h with ⟨rfl, rfl⟩ | ⟨rfl, rfl⟩ | ⟨rfl, rfl⟩ | ⟨rfl, rfl⟩ | ⟨rfl, rfl⟩ <;> rfl

theorem exec_moverIssue {c : BitVec 16 → Instr} {op : Op} (h : (c, op) ∈ [(Instr.dLoadb, Op.loadb), (Instr.dCopy, Op.copy),
    (Instr.dPrefetch, Op.prefetch)]) (q : BitVec 16) (s : State) : exec (c q) s = running s (issueMover q.toNat op) := by
  simp only [List.mem_cons, Prod.mk.injEq, List.not_mem_nil, or_false] at h
  rcases h with ⟨rfl, rfl⟩ | ⟨rfl, rfl⟩ | ⟨rfl, rfl⟩ <;> rfl

/-! ### Issue -/

/-- A mover stands in the window. -/
def moverPlaced (q : Nat) (i : Item) (s : State) : State :=
  s.modWin (s.queue q).part fun w => { w with movers := w.movers ++ [(BitVec.ofNat 16 q, i.uid)] }

/-- What stands in flight of a REPEAT. -/
def repeatItem (s : State) (x : Queue) (f : Fetched) : Item :=
  { newItem s x f true with finished := true, isOpen := decide (repCount x f.bytes ≠ 0) }

theorem queues_moverPlaced (q : Nat) (i : Item) (s : State) : (moverPlaced q i s).qm.queues = s.qm.queues := rfl

theorem movers_moverPlaced {q : BitVec 16} {y : Queue} {s : State} (hy : s.queue q.toNat = y) (i : Item) (k : Part) :
    ((moverPlaced q.toNat i (noteIssue q.toNat k s)).win y.part).movers = (s.win y.part).movers ++ [(q, i.uid)] := by
  have hqueue : (noteIssue q.toNat k s).queue q.toNat = y := hy
  have hmovers := movers_noteIssue q.toNat k s
  rw [hy] at hmovers
  unfold moverPlaced
  rw [hqueue, win_modWin, hmovers, BitVec.ofNat_toNat, BitVec.setWidth_eq]

section
variable {s : State} (hup : s.up = true) (hst : s.stopped = false) {q : BitVec 16} {f : Fetched} {rest : List Fetched}
  (ha : (s.queue q.toNat).ahead = f :: rest) (hb : (s.queue q.toNat).backItem = none) (hbad : f.bad = none) (hmay : mayIssue s q.toNat f = true)
include hup hst ha hb hbad hmay

/-- A control descriptor has finished as it issues. -/
theorem exec_issueControl {op : Op} (hop : dOp f.bytes = op) (hcode : dCode f.bytes ≠ 5) :
    let x := s.queue q.toNat
    ∃ t i, running s (issueControl q.toNat op) = .next t ∧ i ∈ (t.queue q.toNat).items ∧ i.uid = s.qm.issued ∧ i.idx = f.idx ∧ i.bytes = f.bytes ∧
      i.finished = true ∧ i.status = 0 ∧ (t.queue q.toNat).ip = (advance f.idx x.frames).1 ∧ t.qm.issued = s.qm.issued + 1 ∧ t.mem = s.mem ∧
      (∀ k, k ≠ q.toNat → t.queue k = s.queue k) := by
  intro x
  obtain ⟨t, hnext, hqm, hmem⟩ := running_issue hup hst ha hb hbad hmay (want := fun d => dOp d == op && dCode d != 5)
    (k := fun f s => doIssue s q.toNat f (fun i => { i with finished := true }) (fun x i => stepPast x i.idx 1) fun _ s => s)
    (by simp [hop, hcode]) rfl
  obtain ⟨hqueue, hothers⟩ := queue_of_joined ((congrArg Qm.queues hqm).trans (queues_noteIssue ..))
  refine ⟨t, { newItem s x f true with finished := true }, hnext, ?_, rfl, rfl, rfl, rfl, rfl, ?_, congrArg Qm.issued hqm, hmem, hothers⟩
  · rw [hqueue]
    exact mem_stepPast (mem_joinedBy ..) rfl _ _
  · rw [hqueue]
    rfl

/-- A mover stands in its partition's window, behind those that came before. -/
theorem exec_issueMover {op : Op} (hop : dOp f.bytes = op) :
    let x := s.queue q.toNat
    ∃ t i, running s (issueMover q.toNat op) = .next t ∧ i ∈ (t.queue q.toNat).items ∧ i.uid = s.qm.issued ∧ i.bytes = f.bytes ∧ i.finished = false ∧
      (t.win x.part).movers = (s.win x.part).movers ++ [(q, s.qm.issued)] ∧ (t.queue q.toNat).ip = (advance f.idx x.frames).1 ∧
      t.mem = s.mem ∧ (∀ k, k ≠ q.toNat → t.queue k = s.queue k) := by
  intro x
  obtain ⟨t, hnext, hqm, hmem⟩ := running_issue hup hst ha hb hbad hmay (want := fun d => dOp d == op)
    (k := fun f s => doIssue s q.toNat f id (fun x i => stepPast x i.idx 1) (moverPlaced q.toNat))
    (by simp [hop]) rfl
  obtain ⟨hqueue, hothers⟩ := queue_of_joined ((congrArg Qm.queues hqm).trans ((queues_moverPlaced ..).trans (queues_noteIssue ..)))
  refine ⟨t, newItem s x f true, hnext, ?_, rfl, rfl, rfl, ?_, ?_, hmem, hothers⟩
  · rw [hqueue]
    exact mem_stepPast (mem_joinedBy ..) rfl _ _
  · rw [win_congr hqm]
    exact movers_moverPlaced (queue_of_joined rfl).1 ..
  · rw [hqueue]
    rfl

/-- A REPEAT reads its count: it opens its body, or the queue's place moves past the body. -/
theorem exec_issueRepeat (hcode : dCode f.bytes = 5) :
    let x := s.queue q.toNat
    ∃ t i, running s (issueRepeat q.toNat) = .next t ∧ i ∈ (t.queue q.toNat).items ∧ i.uid = s.qm.issued ∧ i.finished = true ∧ t.mem = s.mem ∧
      (repCount x f.bytes = 0 → (t.queue q.toNat).ip = (advance (f.idx + BitVec.ofNat 32 (dBody f.bytes)) x.frames).1) ∧
      (repCount x f.bytes ≠ 0 → (t.queue q.toNat).ip = f.idx + 1 ∧ i.isOpen = true ∧
        (t.queue q.toNat).frames = ⟨s.qm.issued, f.idx + 1, f.idx + BitVec.ofNat 32 (dBody f.bytes), repCount x f.bytes, 0,
          dRstrides f.bytes⟩ :: x.frames) := by
  intro x
  obtain ⟨t, hnext, hqm, hmem⟩ := running_issue hup hst ha hb hbad hmay (want := fun d => dCode d == 5)
    (k := fun f s => doIssue s q.toNat f (fun i => { i with finished := true, isOpen := decide (repCount (s.queue q.toNat) f.bytes ≠ 0) }) enterBody
      fun _ s => s)
    (by simp [hcode]) rfl
  have hqueue : t.queue q.toNat = enterBody (x.joinedBy (repeatItem s x f)) (repeatItem s x f) :=
    (queue_of_joined ((congrArg Qm.queues hqm).trans (queues_noteIssue ..))).1
  obtain ⟨hin, hzero, hopen⟩ := enterBody_joinedBy x (i := repeatItem s x f) rfl
  rw [← hqueue] at hin hzero hopen
  exact ⟨t, repeatItem s x f, hnext, hin, rfl, rfl, hmem, hzero, fun h => ⟨(hopen h).1, decide_eq_true h, (hopen h).2⟩⟩

end

/-! ### Refusals and time-outs -/

/-- A command whose work leaves the commands that wait does all of it and nothing else. -/
theorem running_exact {s u : State} (hup : s.up = true) (hst : s.stopped = false) {k : State → State} (h : k s = u) (hp : u.pending = s.pending) :
    running s k = .next u := by
  rw [running_eq hup hst, h, keepQueue_of_pending hp]

/-- What stands in flight of a descriptor that is refused or timed out. -/
def refusedItem (s : State) (q : Nat) (f : Fetched) (status : Byte) (info : BitVec 48) : Item :=
  { newItem s (s.queue q) f false with finished := true, status := status, info := info }

/-- A descriptor that is refused or timed out joins its queue with its status, finished and without reservation, whatever the windows have noted. -/
theorem running_refuse {s : State} (hup : s.up = true) (hst : s.stopped = false) {q : Nat} (hb : (s.queue q).backItem = none) {k : State → State}
    {f : Fetched} {st : Byte} {info : BitVec 48} (w : Tab Window) (hk : k s = refuseWith q f st info { s with qm := { s.qm with wins := w } }) :
    ∃ t i, running s k = .next t ∧ (t.queue q).items = (s.queue q).items ++ [i] ∧ i.uid = s.qm.issued ∧ i.status = st ∧ i.info = info ∧
      i.finished = true ∧ i.reserves = false ∧ (t.queue q).ahead = [] ∧ t = { s with qm := t.qm } := by
  have hnew : refuseWith q f st info { s with qm := { s.qm with wins := w } } =
      joined q { (s.queue q).joinedBy (refusedItem s q f st info) with ahead := [] } { s with qm := { s.qm with wins := w } } := by
    have hb' : (({ s with qm := { s.qm with wins := w } } : State).queue q).backItem = none := hb
    unfold refuseWith
    dsimp only
    rw [hb']
    rfl
  obtain ⟨hqueue, -⟩ := queue_of_joined (congrArg (fun u : State => u.qm.queues) hnew)
  refine ⟨_, refusedItem s q f st info, running_exact hup hst hk (hnew ▸ rfl), ?_, rfl, rfl, rfl, rfl, rfl, ?_, ?_⟩
  · rw [hqueue]
    rfl
  · rw [hqueue]
  · rw [hnew]
    rfl

section
variable {s : State} {q : Nat} {f : Fetched} {rest : List Fetched} (ha : (s.queue q).ahead = f :: rest) (hb : (s.queue q).backItem = none)
include ha hb

/-- A descriptor that failed a check as it was read is refused in its turn. -/
theorem refuseDesc_read {st : Byte} {info : BitVec 48} (hbad : f.bad = some (st, info)) (hactive : condActive (s.queue q) f = true)
    (hearlier : condEarlier s (s.queue q) { f with bytes := [] } = true) (hslots : condSlots (s.queue q) = true) :
    refuseDesc q s = refuseWith q f st info s := by
  unfold refuseDesc
  dsimp only
  rw [nextUp_read ha hb]
  dsimp only
  rw [hbad] at hearlier ⊢
  exact if_pos (by simp [hactive, hearlier, hslots])

/-- A descriptor that fails a check of its issue is refused, and a best-effort queue gives up its turn. -/
theorem refuseDesc_issue {st : Byte} {n : Nat} (hbad : f.bad = none) (hissue : issueBad (issueCtx s (s.queue q) f) f.bytes = some (st, n))
    (hoffered : offered s (partKind f.bytes) (s.queue q) = true) (hselected : condSelected s q (s.queue q) (partKind f.bytes) = true)
    (hslots : condSlots (s.queue q) = true) :
    refuseDesc q s = refuseWith q f st (BitVec.ofNat 48 n) (if (s.queue q).lc || partKind f.bytes == .control then s else passOver q s) := by
  unfold refuseDesc
  dsimp only
  rw [nextUp_read ha hb]
  dsimp only
  rw [hbad]
  dsimp only
  rw [hissue]
  exact if_pos (by simp [hoffered, hselected, hslots])

theorem waitTimeout_eq (hbad : f.bad = none) (hactive : condActive (s.queue q) f = true) (hearlier : condEarlier s (s.queue q) f = true)
    (hen : dWaitEn f.bytes = true) (hwait : waitOk s f.bytes = false) (hlimit : (s.queue q).timeoutUs ≠ 0) (hslots : condSlots (s.queue q) = true) :
    waitTimeout q s = refuseWith q f 0x10 (BitVec.ofNat 48 (dWaitSem f.bytes)) s := by
  unfold waitTimeout
  dsimp only
  rw [nextGood_read ha hb hbad]
  exact if_pos (by simp [hactive, hearlier, hen, hwait, hlimit, hslots])

end

/-- The turn passes on, or not, in the windows alone. -/
theorem passOver_ite (c : Prop) [Decidable c] (q : Nat) (s : State) : ∃ w, (if c then s else passOver q s) = { s with qm := { s.qm with wins := w } } := by
  split
  · exact ⟨s.qm.wins, rfl⟩
  · exact ⟨_, rfl⟩

/-! ### Stalls -/

/-- A partition whose runnable queues are all held by semaphores is reported, once. -/
theorem exec_partStall {s : State} (hup : s.up = true) (hst : s.stopped = false) (p : Fin 16) :
    let rs := (s.queuesOf p.val).filter fun y => y.2.runnable
    s.fld Reg.qmStallTime 31 0 ≠ 0 → rs ≠ [] → rs.all (fun y => heldBySem s y.2) = true → partItems s p.val = [] → (s.win p.val).stallTold = false →
      ∃ t, exec (.partitionStall p) s = .next t ∧ t.bit Reg.qmStall p.val = true ∧ (t.win p.val).stallTold = true ∧
        OnlyRegs [Reg.qmStall] s t ∧ t.qm.queues = s.qm.queues ∧ t.mem = s.mem := by
  intro rs htime hrs hheld hitems htold
  let u := report (s.setBit Reg.qmStall p.val true) 0x0C 0x80 p.val rs.length ((rs.map (·.1)).headD 0)
  have hqm : u.qm = s.qm := by simp [u]
  have hstall : partStall p.val s = u.modWin p.val fun w => { w with stallTold := true } := by
    have hcond : (s.fld Reg.qmStallTime 31 0 != 0 && !rs.isEmpty && rs.all (fun y => heldBySem s y.2) && (partItems s p.val).isEmpty &&
        !(s.win p.val).stallTold) = true := by
      rw [hheld, hitems, htold]
      simp [htime, hrs]
    exact if_pos hcond
  refine ⟨_, (exec_partitionStall p s).trans (running_exact hup hst hstall ?_), ?_, ?_, fun k hk => ?_, (congrArg Qm.queues hqm :), ?_⟩
  · exact (report_pending ..).trans (setBit_pending ..)
  · exact (bit_congr (report_regs ..) ..).trans (bit_setBit_self ..)
  · rw [win_modWin]
  · refine (reg_report ..).trans (reg_setBit_ne s ?_)
    have hkey : fieldKey Reg.qmStall p.val = Reg.qmStall := by simp [fieldKey, Nat.div_eq_of_lt (show p.val < 64 by omega)]
    simpa [hkey] using hk
  · exact (report_mem ..).trans (setBit_mem ..)

end Sys2Proof.Machine
end

section
open Sys2Proof Sys2Proof.Machine

/-- Settles O38: what shows of an issue is the queue that the descriptor has joined and what it puts in the window; refusals and time-outs join it
in the same way, and a stall is a bit and a report. -/
theorem controlAndMoverIssue : Obligations.ControlAndMoverIssue := by
  unfold Obligations.ControlAndMoverIssue
  intro s q f rest hup hst x ha hb
  refine ⟨fun hbad hmay => ⟨fun c op hc hop hcode => ?_, fun c op hc hop => ?_, fun hcode => ?_⟩, fun st info hcheck hslots => ?_,
    fun hbad hactive hearlier hen hwait hlimit hslots => ?_, fun p => exec_partStall hup hst p⟩
  · rw [exec_control hc]
    exact exec_issueControl hup hst ha hb hbad hmay hop hcode
  · rw [exec_moverIssue hc]
    exact exec_issueMover hup hst ha hb hbad hmay hop
  · rw [exec_dRepeat]
    exact exec_issueRepeat hup hst ha hb hbad hmay hcode
  · rw [exec_descriptorRefuse]
    rcases hcheck with ⟨hbad, hactive, hearlier⟩ | ⟨hbad, n, hissue, rfl, hoffered, hselected⟩
    · exact running_refuse hup hst hb s.qm.wins (refuseDesc_read ha hb hbad hactive hearlier hslots)
    · have hrefuse := refuseDesc_issue ha hb hbad hissue hoffered hselected hslots
      obtain ⟨w, hw⟩ := passOver_ite ((x.lc || partKind f.bytes == .control) = true) q.toNat s
      exact running_refuse hup hst hb w (hrefuse.trans (congrArg _ hw))
  · rw [exec_waitTimeout]
    obtain ⟨t, i, hnext, hitems, -, hstatus, hinfo, -, hres, -, hrest⟩ :=
      running_refuse hup hst hb s.qm.wins (waitTimeout_eq ha hb hbad hactive hearlier hen hwait hlimit hslots)
    exact ⟨t, i, hnext, hitems, hstatus, hinfo, hres, hrest⟩

end

section
/-!
SUPPORT. Accesses that meet nothing, in the terms of the queue manager: what byte counters leave of partitions and queues, and bytes written beside others.
-/
namespace Sys2Proof.Machine

/-! ### Byte counters aside -/

theorem qmPart_not_byteCounter {p : Nat} (hp : p < 16) : Reg.qmPart p ∉ byteCounters := by
  simp only [byteCounters, List.mem_map, Reg.qmPart, Reg.dbgBcnt, not_exists, not_and]
  omega

section
variable {s t : State} (h : OnlyCounted s t)
include h

theorem OnlyCounted.mem_eq : t.mem = s.mem := by rw [h.2]
theorem OnlyCounted.qm_eq : t.qm = s.qm := by rw [h.2]
theorem OnlyCounted.pending_eq : t.pending = s.pending := by rw [h.2]

theorem OnlyCounted.mayPart_eq (fn : Fn) (p : Nat) : t.mayPart fn p = s.mayPart fn p := by
  unfold State.mayPart
  rw [funext fun n => partOfVf_congr (fun _ hp => h.1 _ (qmPart_not_byteCounter hp)) n]

theorem OnlyCounted.queueFits_eq {x : Queue} (hx : x.part < 16) : queueFits t x = queueFits s x := by
  have hreg := h.1 _ (qmPart_not_byteCounter hx)
  unfold queueFits State.partEn
  rw [bit_of_reg (Reg.qmPart x.part) 16 hreg, bit_of_reg (Reg.qmPart x.part) 18 hreg]

end

/-! ### Bytes beside others -/

/-- Bytes written outside a range leave what it reads as. -/
theorem mread_mwrite_outside (m : Memory) {a b n : Nat} {bs : List Byte} (h : b + bs.length ≤ a ∨ a + n ≤ b) :
    mread (mwrite m b bs) a n = mread m a n := by
  induction n generalizing a with
  | zero => rfl
  | succ n ih => rw [mread, mread, mget_mwrite_outside _ _ _ _ (by omega), ih (by omega)]

/-! ### Writes to host memory and to device memory -/

/-- A write to host memory over a link that is up stores its bytes, and the link stays up. -/
theorem hostWrite_linkUp {s : State} (h : s.hif.linkUp = true) (a : Nat) (bs : List Byte) :
    (hostWrite s a bs).hostMem = mwrite s.hostMem a bs ∧ (hostWrite s a bs).hif = s.hif := by
  have hw : hostWrite s a bs = bump { s with hostMem := mwrite s.hostMem a bs } 89 bs.length := if_pos h
  rw [hw]
  exact ⟨bump_hostMem .., bump_hif ..⟩

/-- A write of an engine to bytes that are implemented and not read-only stores them where writes land. -/
theorem engWrite_lands {s : State} {a : Nat} {bs : List Byte} (hland : WritesLand s) (hplace : s.rangePlace a bs.length ≠ .none)
    (hwrite : readOnlyPlace (s.rangePlace a bs.length) = false) : (engWrite s a bs).mem = mwrite s.mem a bs ∧ WritesLand (engWrite s a bs) := by
  have hw : engWrite s a bs = devWrite .mantel s a bs := by
    unfold engWrite
    split
    · exact absurd ‹_› hplace
    · exact if_neg (by simp [hwrite])
  rw [hw]
  exact ⟨devWrite_mem hland .., (carries_devWrite ..).land hland⟩

/-- A write of an engine that lands or is dropped moves no byte outside its range. -/
theorem engWrite_outside {s : State} (hland : WritesLand s) {a b n : Nat} {bs : List Byte} (h : b + bs.length ≤ a ∨ a + n ≤ b) :
    mread (engWrite s b bs).mem a n = mread s.mem a n := by
  unfold engWrite
  split
  · rw [viol_mem]
  · split
    · rw [viol_mem]
    · rw [devWrite_mem hland, mread_mwrite_outside _ h]

end Sys2Proof.Machine
end

section
/-!
O36, ENABLE, the reading of a descriptor and the writing of a record (R186, R187).
-/
namespace Sys2Proof.Machine

theorem exec_enable (fn : Fn) (q : BitVec 16) (s : State) : exec (.enable fn q) s = live s (orRecord (.enable fn q) (enableQueue fn q.toNat)) := rfl
theorem exec_descriptorFetch (q : BitVec 16) (s : State) : exec (.descriptorFetch q) s = running s (fetchDesc q.toNat) := rfl

/-! ### ENABLE -/

/-- A sound entry that is read without an error becomes the queue, with the last status as it was. -/
theorem enableQueue_sound {u : State} {fn : Fn} {q : Nat} (hdis : (u.queue q).state = .disabled)
    (hset : (u.reg Reg.qmQtab).toNat.testBit 0 = true) :
    let a := nbits (u.reg Reg.qmQtab).toNat 39 12 * 4096 + 64 * q
    let x := entryQueue (mread u.mem a 64)
    u.markIn a 64 = none → u.lostIn false a 64 = none → u.deadIn a 64 = none → u.mayPart fn x.part = true → entryOk (mread u.mem a 64) = true →
      queueFits u x = true → ∃ v, OnlyCounted u v ∧ enableQueue fn q u = v.setQueue q { x with lastStatus := (u.queue q).lastStatus } := by
  intro a x hmark hlost hdead hmay hok hfits
  obtain ⟨v, hread, hcounted⟩ := devRead_clean (ag := .mantel) trivial hmark hlost hdead
  have hpart : x.part < 16 := nbits_lt _ 3 0
  have hopen : ¬((u.queue q).state != .disabled || !(u.reg Reg.qmQtab).toNat.testBit 0) = true := by simp [hdis, hset]
  refine ⟨v, hcounted, ?_⟩
  unfold enableQueue
  dsimp only
  rw [if_neg hopen, hread]
  dsimp only
  rw [hcounted.mayPart_eq, hcounted.queueFits_eq hpart, queue_congr (congrArg Qm.queues hcounted.qm_eq)]
  simp [x, hmay, hok, hfits]

/-- The queue of a sound entry, at the beginning of its ring. -/
theorem exec_enable_sound {s : State} (hup : s.up = true) (hst : s.stopped = false) {fn : Fn} (hf : s.hif.flr = [])
    (hh : tfind s.hif.held fn.num = none) (q : BitVec 16) :
    let u := bump s 88 4
    let a := nbits (u.reg Reg.qmQtab).toNat 39 12 * 4096 + 64 * q.toNat
    let e := mread s.mem a 64
    (u.queue q.toNat).state = .disabled → (u.reg Reg.qmQtab).toNat.testBit 0 = true → u.markIn a 64 = none → u.lostIn false a 64 = none →
    u.deadIn a 64 = none → u.mayPart fn (entryQueue e).part = true → entryOk e = true → queueFits u (entryQueue e) = true →
    ∃ t, exec (.enable fn q) s = .next t ∧ t.queue q.toNat = { entryQueue e with lastStatus := (s.queue q.toNat).lastStatus } ∧
      (∀ k, k ≠ q.toNat → t.queue k = s.queue k) ∧ t.mem = s.mem ∧ OnlyRegs byteCounters s t := by
  intro u a e hdis hset hmark hlost hdead hmay hok hfits
  have hu : OnlyCounted s u := onlyCounted_bump s 4 (by decide)
  have he : mread u.mem a 64 = e := by rw [hu.mem_eq]
  rw [← he] at hmay hok hfits ⊢
  obtain ⟨v, huv, hwork⟩ := enableQueue_sound hdis hset hmark hlost hdead hmay hok hfits
  have hv : OnlyCounted s v := onlyCounted_trans hu huv
  rw [queue_congr (congrArg Qm.queues hu.qm_eq)] at hwork
  refine ⟨_, live_next hup ((orRecord_running rfl rfl hst hh hf _).trans hwork) hv.pending_eq, queue_setQueue .., fun k hk => ?_, hv.mem_eq, hv.1⟩
  exact (queue_setQueue_ne v _ hk).trans (queue_congr (congrArg Qm.queues hv.qm_eq) k)

/-! ### DESCRIPTOR_FETCH -/

/-- A descriptor that is read without an error joins those read ahead, with what its read-time checks find. -/
theorem exec_fetch_clean {s : State} (hup : s.up = true) (hst : s.stopped = false) {q : BitVec 16} {i : W32}
    (hfetch : fetchAt s (s.queue q.toNat) = some i) :
    let x := s.queue q.toNat
    let a := x.ringBase + i.toNat % 2 ^ x.ringLog * 256
    s.markIn a 256 = none → s.lostIn false a 256 = none → s.deadIn a 256 = none →
    ∃ t, exec (.descriptorFetch q) s = .next t ∧
      t.queue q.toNat = { x with ahead := x.ahead ++ [⟨i, mread s.mem a 256, (readBad (mread s.mem a 256)).map fun o => (0x12, BitVec.ofNat 48 o)⟩] } ∧
      (∀ k, k ≠ q.toNat → t.queue k = s.queue k) ∧ t.mem = s.mem ∧ OnlyRegs byteCounters s t := by
  intro x a hmark hlost hdead
  obtain ⟨v, hread, hv⟩ := devRead_clean (ag := .mantel) trivial hmark hlost hdead
  have hwork : fetchDesc q.toNat s = v.setQueue q.toNat { x with ahead := x.ahead ++
      [⟨i, mread s.mem a 256, (readBad (mread s.mem a 256)).map fun o => (0x12, BitVec.ofNat 48 o)⟩] } := by
    unfold fetchDesc
    dsimp only
    rw [hfetch]
    dsimp only
    rw [hread]
  refine ⟨_, (exec_descriptorFetch q s).trans (running_exact hup hst hwork hv.pending_eq), queue_setQueue .., fun k hk => ?_, hv.mem_eq, hv.1⟩
  exact (queue_setQueue_ne v _ hk).trans (queue_congr (congrArg Qm.queues hv.qm_eq) k)

/-! ### Completion records -/

theorem writesLand_modQueue {s : State} (h : WritesLand s) (q : Nat) (f : Queue → Queue) : WritesLand (s.modQueue q f) := h

theorem recordBytes_length (tag st op q idx time mid fl det : Nat) : (recordBytes tag st op q idx time mid fl det).length = 32 := by
  simp [recordBytes]

/-- The state in which the record is written and the producer index has moved on, before the index is written. -/
def recordStored (s : State) (q : Nat) (bytes : List Byte) : State :=
  let x := s.queue q
  (spaceWrite s x.cplHost (x.cplBase + x.pi.toNat % 2 ^ x.cplLog * 32) bytes).modQueue q fun x => { x with pi := x.pi + 1 }

theorem writeRecord_eq (s : State) (q tag st op idx mid fl det : Nat) :
    let x := s.queue q
    writeRecord s q tag st op idx mid fl det =
      spaceWrite (recordStored s q (recordBytes tag st op q idx s.clock.timeF.toNat mid fl det)) x.cplHost x.cplPi (leBytes 4 (x.pi + 1).toNat) := rfl

theorem writeRecord_pi (s : State) (q tag st op idx mid fl det : Nat) :
    ((writeRecord s q tag st op idx mid fl det).queue q).pi = (s.queue q).pi + 1 := by
  rw [writeRecord_eq, queue_congr (congrArg Qm.queues (spaceWrite_qm ..)), recordStored, queue_modQueue,
    queue_congr (congrArg Qm.queues (spaceWrite_qm ..))]

section
variable {s : State} {q : Nat} (tag st op idx mid fl det : Nat)

/-- A record in host memory, beside the producer index. -/
theorem writeRecord_host (hhost : (s.queue q).cplHost = true) (hlink : s.hif.linkUp = true) :
    let x := s.queue q
    let a := x.cplBase + x.pi.toNat % 2 ^ x.cplLog * 32
    x.cplPi + 4 ≤ a ∨ a + 32 ≤ x.cplPi →
      mread (writeRecord s q tag st op idx mid fl det).hostMem a 32 = recordBytes tag st op q idx s.clock.timeF.toNat mid fl det := by
  intro x a hapart
  let bytes := recordBytes tag st op q idx s.clock.timeF.toNat mid fl det
  have hstored : recordStored s q bytes = (hostWrite s a bytes).modQueue q fun x => { x with pi := x.pi + 1 } := by
    simp [recordStored, spaceWrite, hhost, a, x]
  obtain ⟨hmem, hhif⟩ := hostWrite_linkUp hlink a bytes
  have hup : (recordStored s q bytes).hif.linkUp = true := by
    rw [hstored]
    exact (congrArg Hif.linkUp hhif).trans hlink
  have hbytes : (recordStored s q bytes).hostMem = mwrite s.hostMem a bytes := by rw [hstored]; exact hmem
  rw [writeRecord_eq, spaceWrite, hhost, if_pos rfl, (hostWrite_linkUp hup ..).1, mread_mwrite_outside _ (by simpa using hapart), hbytes,
    ← recordBytes_length tag st op q idx s.clock.timeF.toNat mid fl det, mread_mwrite]

/-- A record in device memory, beside the producer index, where writes land. -/
theorem writeRecord_device (hdev : (s.queue q).cplHost = false) (hland : WritesLand s) :
    let x := s.queue q
    let a := x.cplBase + x.pi.toNat % 2 ^ x.cplLog * 32
    x.cplPi + 4 ≤ a ∨ a + 32 ≤ x.cplPi → s.rangePlace a 32 ≠ .none → readOnlyPlace (s.rangePlace a 32) = false →
      mread (writeRecord s q tag st op idx mid fl det).mem a 32 = recordBytes tag st op q idx s.clock.timeF.toNat mid fl det := by
  intro x a hapart hplace hwrite
  let bytes := recordBytes tag st op q idx s.clock.timeF.toNat mid fl det
  have hlength : bytes.length = 32 := recordBytes_length ..
  have hstored : recordStored s q bytes = (engWrite s a bytes).modQueue q fun x => { x with pi := x.pi + 1 } := by
    simp [recordStored, spaceWrite, hdev, a, x]
  rw [← hlength] at hplace hwrite
  obtain ⟨hmem, hland'⟩ := engWrite_lands hland hplace hwrite
  have hlands : WritesLand (recordStored s q bytes) := hstored ▸ writesLand_modQueue hland' q _
  have hbytes : (recordStored s q bytes).mem = mwrite s.mem a bytes := by rw [hstored]; exact hmem
  rw [writeRecord_eq, spaceWrite, hdev, if_neg Bool.false_ne_true, engWrite_outside hlands (by simpa using hapart), hbytes, ← hlength, mread_mwrite]

end

end Sys2Proof.Machine
end

section
open Sys2Proof Sys2Proof.Machine

/-- Settles O36: ENABLE and DESCRIPTOR_FETCH are each one read that meets nothing and one queue put in its place; a record and the producer index are two
writes that do not meet. -/
theorem ringIndicesAndEnable : Obligations.RingIndicesAndEnable := by
  unfold Obligations.RingIndicesAndEnable
  refine ⟨?_, fun s q i hup hst hfetch => exec_fetch_clean hup hst hfetch,
    fun s q tag st op idx mid fl det => ⟨writeRecord_pi .., fun hapart => ⟨fun hhost hlink => writeRecord_host _ _ _ _ _ _ _ hhost hlink hapart,
      fun hdev hplace hwrite hch hlost => writeRecord_device _ _ _ _ _ _ _ hdev ⟨hch, hlost⟩ hapart hplace hwrite⟩⟩⟩
  intro s fn q hup hst hf hh u a e hdis hset hmark hlost hdead hmay hok hfits
  obtain ⟨t, hnext, hqueue, hothers, hmem, hregs⟩ := exec_enable_sound hup hst hf hh q hdis hset hmark hlost hdead hmay hok hfits
  refine ⟨t, hnext, hqueue, ?_, ?_, ?_, ?_, ?_, fun r => ?_, hothers, hmem, hregs⟩ <;> rw [hqueue] <;> rfl

end

section
/-!
SUPPORT. Tables and memory, for what a descriptor that enters the window leaves as it was: an entry replaced by one that serves as well, and bytes beside
those that are painted.
-/
namespace Sys2Proof.Machine

/-! ### Tables -/

/-- What holds of every entry does so with one entry written, when it holds of the entry before and after. -/
theorem all_tput {α : Type} (P : Nat × α → Bool) (d : α) (t : Tab α) {k : Nat} {v : α} (hnew : P (k, v) = true) (hold : P (k, tget d t k) = true) :
    (tput t k v).all P = t.all P := by
  induction t with
  | nil => simp [tput, hnew]
  | cons x t ih =>
    obtain ⟨j, w⟩ := x
    by_cases hj : j = k
    · subst hj
      have hw : P (j, w) = true := by simpa [tget] using hold
      simp [tput, hnew, hw]
    · have htail : P (k, tget d t k) = true := by simpa [tget, hj] using hold
      by_cases hk : k < j
      · simp [tput, hj, hk, hnew]
      · simp [tput, hj, hk, ih htail]

section
variable {α : Type} (d : α) {t u : Tab α} {k : Nat}

theorem tget_append_left_absent (h : ∀ x ∈ t, x.1 ≠ k) : tget d (t ++ u) k = tget d u k := by
  induction t with
  | nil => rfl
  | cons x t ih =>
    have hx : x.1 ≠ k := h x List.mem_cons_self
    simp [tget, hx, ih fun y hy => h y (List.mem_cons_of_mem _ hy)]

theorem tget_append_right_absent (h : ∀ x ∈ u, x.1 ≠ k) : tget d (t ++ u) k = tget d t k := by
  induction t with
  | nil => simpa using tget_append_left_absent d (u := []) h
  | cons x t ih =>
    by_cases hx : x.1 = k <;> simp [tget, hx, ih]

theorem tget_filter_key {P : Nat → Bool} (h : P k = true) : tget d (t.filter fun x => P x.1) k = tget d t k := by
  induction t with
  | nil => rfl
  | cons x t ih =>
    by_cases hx : x.1 = k
    · simp [tget, hx, h]
    · by_cases hp : P x.1 = true <;> simp [tget, hx, hp, ih]

end

/-! ### Painted bytes -/

theorem mget_mpaint_outside (m : Memory) {a n b : Nat} (f : Nat → Byte) (h : b < a ∨ a + n ≤ b) : mget (mpaint m a n f) b = mget m b := by
  have hbelow : ∀ x ∈ m.filter fun x => decide (x.1 < a), x.1 < a := fun x hx => of_decide_eq_true (List.mem_filter.1 hx).2
  have habove : ∀ x ∈ m.filter fun x => decide (a + n ≤ x.1), a + n ≤ x.1 := fun x hx => of_decide_eq_true (List.mem_filter.1 hx).2
  have hinside := painted_within f a n
  show tget memDefault ((_ ++ painted f a n) ++ _) b = _
  rcases h with h | h
  · rw [tget_append_right_absent _ fun x hx => by have := habove x hx; omega, tget_append_right_absent _ fun x hx => by have := hinside x hx; omega]
    exact tget_filter_key (P := fun k => decide (k < a)) _ (decide_eq_true h)
  · rw [tget_append_left_absent _ fun x hx => (List.mem_append.1 hx).elim (fun hx => by have := hbelow x hx; omega) fun hx => by
      have := hinside x hx; omega]
    exact tget_filter_key (P := fun k => decide (a + n ≤ k)) _ (decide_eq_true h)

/-- A byte that lies beside every one of several painted ranges. -/
theorem mget_foldl_mpaint_outside (l : List Nat) (base : Nat → Nat) {o n e b : Nat} (f : Nat → Byte) (he : o + n = e)
    (h : ∀ k ∈ l, b < base k + o ∨ base k + e ≤ b) (m : Memory) : mget (l.foldl (fun m k => mpaint m (base k + o) n f) m) b = mget m b :=
  List.foldlRecOn l _ (motive := fun m' => mget m' b = mget m b) rfl fun m' hm k hk =>
    (mget_mpaint_outside m' f ((h k hk).imp_right fun hb => by omega)).trans hm

/-- The regions that an ATTN works in hold free bytes, and no other byte of memory moves. -/
theorem mget_attnScratch_outside (p : Nat) (s : State) {b : Nat}
    (hcores : ∀ c ∈ s.coreList p, b < coreBase c + 48 * 98304 ∨ coreBase c + 64 * 98304 ≤ b)
    (hhearths : ∀ h, h < 4 → b < hearthBase h + 24 * 131072 ∨ hearthBase h + 32 * 131072 ≤ b) : mget (attnScratch p s).mem b = mget s.mem b := by
  unfold attnScratch State.fresh
  dsimp only
  rw [mget_foldl_mpaint_outside _ hearthBase _ (by decide) fun h hh => hhearths h (List.mem_range.1 hh)]
  exact mget_foldl_mpaint_outside _ coreBase _ (by decide) hcores _

end Sys2Proof.Machine
end

section
/-!
SUPPORT. A descriptor enters EXEC (R191, R194, R195, R214): the run that stands there, its item, and the bytes of an ATTN's regions.
-/
namespace Sys2Proof.Machine

/-! ### Windows -/

theorem win_modWin_ne (s : State) {p k : Nat} (f : Window → Window) (h : k ≠ p) : (s.modWin p f).win k = s.win k := tget_tset_ne _ _ _ h

/-- The scheduler's memory of an issue moves nothing of the windows but that memory. -/
theorem win_noteIssue (q : Nat) (k : Part) (s : State) (p : Nat) : ∃ told la bt bl,
    (noteIssue q k s).win p = { s.win p with stallTold := told, lastAt := la, beTurn := bt, beLeft := bl } := by
  unfold noteIssue
  dsimp only
  by_cases hp : p = (s.queue q).part
  · subst hp
    rw [win_modWin]
    split
    · exact ⟨_, _, _, _, rfl⟩
    · split
      · exact ⟨_, _, _, _, rfl⟩
      · split <;> split <;> exact ⟨_, _, _, _, rfl⟩
  · rw [win_modWin_ne _ _ hp]
    exact ⟨_, _, _, _, rfl⟩

theorem win_noteIssue_ne (q : Nat) (k : Part) (s : State) {p : Nat} (h : p ≠ (s.queue q).part) : (noteIssue q k s).win p = s.win p :=
  win_modWin_ne _ _ h

theorem exec_noteIssue (q : Nat) (k : Part) (s : State) (p : Nat) : ((noteIssue q k s).win p).exec = (s.win p).exec := by
  obtain ⟨_, _, _, _, h⟩ := win_noteIssue q k s p
  rw [h]

theorem next_noteIssue (q : Nat) (k : Part) (s : State) (p : Nat) : ((noteIssue q k s).win p).next = (s.win p).next := by
  obtain ⟨_, _, _, _, h⟩ := win_noteIssue q k s p
  rw [h]

/-! ### The run of a descriptor that enters EXEC -/

/-- The run of a descriptor as it enters EXEC: its units, and their ranges but for an ATTN. -/
def firstRun (s : State) (p q : Nat) (i : Item) : Run :=
  let n := unitCount i.bytes i.bounds false
  { q := BitVec.ofNat 16 q, uid := i.uid, units := n, ranges := if dOp i.bytes == .attn then [] else runRanges s p n }

/-- A run stands in EXEC. -/
def withExec (r : Run) (w : Window) : Window := { w with exec := some r }

/-- An item whose partition the Flue does not join (R227). -/
def stranded (info : BitVec 48) (i : Item) : Item := { i with status := 0x21, info := info }

/-- A descriptor that enters EXEC works with its first run, or is stopped there because its Hearths are not connected. -/
theorem enterExec_qm (s : State) (p q : Nat) (i : Item) :
    (enterExec s p q i).qm = (s.modWin p (withExec (firstRun s p q i))).qm ∨
      ∃ info, (enterExec s p q i).qm = (((s.modWin p (withExec (firstRun s p q i))).modItem q i.uid (stranded info)).modWin p
        (withExec { firstRun s p q i with stopped := true })).qm := by
  unfold enterExec
  extract_lets n attn r u v w
  have hw : w.qm = (s.modWin p (withExec (firstRun s p q i))).qm := by
    unfold w v
    split <;> rfl
  split
  · exact .inl rfl
  · split
    · exact .inl hw
    · next h _ =>
      refine .inr ⟨BitVec.ofNat 48 h, ?_⟩
      unfold State.modItem State.modQueue State.setQueue State.modWin State.queue State.win at *
      rw [hw]
      rfl

theorem exec_enterExec (s : State) (p q : Nat) (i : Item) :
    ∃ stopped, ((enterExec s p q i).win p).exec = some { firstRun s p q i with stopped := stopped } := by
  rcases enterExec_qm s p q i with h | ⟨_, h⟩
  · exact ⟨false, by rw [win_congr h, win_modWin]; rfl⟩
  · exact ⟨true, by rw [win_congr h, win_modWin]; rfl⟩

theorem next_enterExec (s : State) (p q : Nat) (i : Item) : ((enterExec s p q i).win p).next = (s.win p).next := by
  rcases enterExec_qm s p q i with h | ⟨_, h⟩
  · rw [win_congr h, win_modWin]
    rfl
  · rw [win_congr h, win_modWin, win_modItem, win_modWin]
    rfl

theorem win_enterExec_ne (s : State) {p k : Nat} (q : Nat) (i : Item) (hk : k ≠ p) : (enterExec s p q i).win k = s.win k := by
  rcases enterExec_qm s p q i with h | ⟨_, h⟩
  · rw [win_congr h, win_modWin_ne _ _ hk]
  · rw [win_congr h, win_modWin_ne _ _ hk, win_modItem, win_modWin_ne _ _ hk]

theorem issued_enterExec (s : State) (p q : Nat) (i : Item) : (enterExec s p q i).qm.issued = s.qm.issued := by
  rcases enterExec_qm s p q i with h | ⟨_, h⟩ <;> exact (congrArg Qm.issued h :)

theorem queues_enterExec (s : State) (p q : Nat) (i : Item) : (enterExec s p q i).qm.queues = s.qm.queues ∨
    ∃ info, (enterExec s p q i).qm.queues = (s.modItem q i.uid (stranded info)).qm.queues := by
  rcases enterExec_qm s p q i with h | ⟨info, h⟩
  · exact .inl (congrArg Qm.queues h :)
  · exact .inr ⟨info, (congrArg Qm.queues h :)⟩

theorem queue_enterExec_ne (s : State) {q k : Nat} (p : Nat) (i : Item) (hk : k ≠ q) : (enterExec s p q i).queue k = s.queue k := by
  rcases queues_enterExec s p q i with h | ⟨_, h⟩
  · exact queue_congr h k
  · exact (queue_congr h k).trans (queue_modQueue_ne s _ hk)

/-- The descriptor stays in its queue, but for the status of one that is stopped as it enters. -/
theorem mem_enterExec {s : State} {q : Nat} {i : Item} (hi : i ∈ (s.queue q).items) (p : Nat) :
    ∃ status info, { i with status := status, info := info } ∈ ((enterExec s p q i).queue q).items := by
  rcases queues_enterExec s p q i with h | ⟨info, h⟩
  · exact ⟨i.status, i.info, queue_congr h q ▸ hi⟩
  · refine ⟨0x21, info, ?_⟩
    rw [queue_congr h, State.modItem, queue_modQueue]
    exact List.mem_map.2 ⟨i, hi, if_pos (beq_self_eq_true _)⟩

theorem ip_enterExec (s : State) (p q : Nat) (i : Item) : ((enterExec s p q i).queue q).ip = (s.queue q).ip :=
  (congrArg Queue.ip ((sameEntries_enterExec s p q i).entry q) :)

/-- Only an ATTN with units moves bytes as it enters EXEC, those of its regions. -/
theorem enterExec_mem (s : State) (p q : Nat) (i : Item) :
    (enterExec s p q i).mem = s.mem ∨ dOp i.bytes = .attn ∧ (enterExec s p q i).mem = (attnScratch p s).mem := by
  unfold enterExec
  extract_lets n attn r u v w
  by_cases hattn : attn = true
  · rw [if_neg (by simp [hattn])]
    have hw : w.mem = s.mem ∨ dOp i.bytes = .attn ∧ w.mem = (attnScratch p s).mem := by
      unfold w v
      split
      · exact .inl rfl
      · exact .inr ⟨eq_of_beq hattn, rfl⟩
    split
    · exact hw
    · exact hw
  · rw [if_pos (by simp [hattn])]
    exact .inl rfl

end Sys2Proof.Machine
end

section
/-!
O39, a compute descriptor enters EXEC or NEXT (R191, R192, R194, R195, R214, R346).
-/
namespace Sys2Proof.Machine

theorem exec_compute {c : BitVec 16 → Instr} {want : Desc → Bool} (h : (c, want) ∈ [(Instr.dGather, fun d => dOp d == .gather),
    (Instr.dScatter, fun d => dOp d == .scatter), (Instr.dMatmul, fun d => dOp d == .matmul), (Instr.dMatvec, fun d => dOp d == .matvec),
    (Instr.dConv, fun d => dOp d == .conv), (Instr.dConvw, fun d => dOp d == .convw), (Instr.dDwconv, fun d => dOp d == .dwconv),
    (Instr.dDist, fun d => dOp d == .dist), (Instr.dElem, fun d => dOp d == .elem && !dPload d), (Instr.dPload, fun d => dIsPload d),
    (Instr.dReduce, fun d => dOp d == .reduce), (Instr.dAttn, fun d => dOp d == .attn)]) (q : BitVec 16) (s : State) :
    exec (c q) s = running s (issueCompute q.toNat want) := by
  simp only [List.mem_cons, Prod.mk.injEq, List.not_mem_nil, or_false] at h
  rcases h with ⟨rfl, rfl⟩ | ⟨rfl, rfl⟩ | ⟨rfl, rfl⟩ | ⟨rfl, rfl⟩ | ⟨rfl, rfl⟩ | ⟨rfl, rfl⟩ | ⟨rfl, rfl⟩ | ⟨rfl, rfl⟩ | ⟨rfl, rfl⟩ |
    ⟨rfl, rfl⟩ | ⟨rfl, rfl⟩ | ⟨rfl, rfl⟩ <;> rfl

/-! ### The place of an issued descriptor -/

/-- A queue stands as an issue has left it, with the number of the next new descriptor. -/
def requeued (q : Nat) (y : Queue) (n : Nat) (s : State) : State := { s with qm := { s.qm with queues := tset {} s.qm.queues q y, issued := n } }

theorem queue_requeued (q : Nat) (y : Queue) (n : Nat) (s : State) : (requeued q y n s).queue q = y := tget_tset_self ..
theorem queue_requeued_ne {q k : Nat} (y : Queue) (n : Nat) (s : State) (h : k ≠ q) : (requeued q y n s).queue k = s.queue k := tget_tset_ne _ _ _ h

/-- Compute descriptor `i` of queue `q` goes into the window: into EXEC when it may enter, else into NEXT. -/
def intoWindow (q : Nat) (i : Item) (s : State) : State :=
  let p := (s.queue q).part
  if execFree s p i.bytes then enterExec s p q i else s.modWin p fun w => { w with next := some (BitVec.ofNat 16 q, i.uid) }

/-- A queue that has a descriptor more in flight, on the same partition, keeps no ATTN of that partition out. -/
theorem attnMayStart_requeued {s : State} {q : Nat} {y : Queue} {i : Item} (hi : i ∈ y.items) (hpart : y.part = (s.queue q).part) (n : Nat) :
    attnMayStart (requeued q y n s) (s.queue q).part = attnMayStart s (s.queue q).part := by
  have hset : tset {} s.qm.queues q y = tput s.qm.queues q y := if_neg fun h => by simp [h] at hi
  have hall := all_tput (fun x => x.2.part == (s.queue q).part || x.2.items.all fun i => !(i.reserves && namesRing i.bytes)) {} s.qm.queues
    (k := q) (v := y) (by simp [hpart]) (by simp [State.queue])
  unfold attnMayStart requeued
  dsimp only
  rw [hset, hall]

theorem execFree_requeued {s : State} {q : Nat} {y : Queue} {i : Item} (hi : i ∈ y.items) (hpart : y.part = (s.queue q).part) (n : Nat) (k : Part)
    (d : Desc) : execFree (noteIssue q k (requeued q y n s)) (s.queue q).part d = execFree s (s.queue q).part d := by
  have hattn : attnMayStart (noteIssue q k (requeued q y n s)) (s.queue q).part = attnMayStart s (s.queue q).part := attnMayStart_requeued hi hpart n
  have hhold : (noteIssue q k (requeued q y n s)).grantHold = s.grantHold := rfl
  unfold execFree
  rw [exec_noteIssue, next_noteIssue, hattn, hhold]
  rfl

/-! ### What an issue shows -/

/-- The bytes of memory that the issue of a descriptor on a partition leaves: all but those of the regions that an ATTN works in as it enters EXEC. -/
def SparesMemory (s : State) (p : Nat) (d : Desc) (t : State) : Prop :=
  (dOp d ≠ .attn ∨ execFree s p d = false → t.mem = s.mem) ∧
    ∀ a, (∀ k ∈ s.coreList p, a < coreBase k + 48 * 98304 ∨ coreBase k + 64 * 98304 ≤ a) →
      (∀ h, h < 4 → a < hearthBase h + 24 * 131072 ∨ hearthBase h + 32 * 131072 ≤ a) → mget t.mem a = mget s.mem a

theorem sparesMemory_enterExec {s v : State} {p : Nat} {i : Item} (hfree : execFree s p i.bytes = true) (hmem : v.mem = s.mem)
    (hcores : v.coreList p = s.coreList p) (q : Nat) : SparesMemory s p i.bytes (enterExec v p q i) := by
  rcases enterExec_mem v p q i with hm | ⟨hattn, hm⟩
  · have hsame : (enterExec v p q i).mem = s.mem := hm.trans hmem
    exact ⟨fun _ => hsame, fun a _ _ => congrArg (mget · a) hsame⟩
  · refine ⟨fun h => h.elim (absurd hattn) fun h => Bool.noConfusion (hfree.symm.trans h), fun a hc hh => ?_⟩
    rw [hm, mget_attnScratch_outside _ _ (hcores ▸ hc) hh, hmem]

/-- Descriptor `i` stands in queue `q`, which is as `y` else, and in EXEC or in NEXT of its partition, with its units divided; nothing else of the
queues and the windows has moved. -/
structure InWindow (q : Nat) (y : Queue) (n : Nat) (i : Item) (s t : State) : Prop where
  item : ∃ status info, { i with status := status, info := info } ∈ (t.queue q).items
  ip : (t.queue q).ip = y.ip
  issued : t.qm.issued = n
  memory : SparesMemory s (s.queue q).part i.bytes t
  exec : execFree s (s.queue q).part i.bytes = true →
    (∃ stopped, (t.win (s.queue q).part).exec = some { firstRun s (s.queue q).part q i with stopped := stopped }) ∧ (t.win (s.queue q).part).next = none
  next : execFree s (s.queue q).part i.bytes = false → (t.win (s.queue q).part).next = some (BitVec.ofNat 16 q, i.uid) ∧
    (t.win (s.queue q).part).exec = (s.win (s.queue q).part).exec
  wins : ∀ k, k ≠ (s.queue q).part → t.win k = s.win k
  queues : ∀ k, k ≠ q → t.queue k = s.queue k

/-- A descriptor that goes into the window, once its queue and the scheduler have noted its issue. -/
theorem inWindow_intoWindow {s : State} {q : Nat} {y : Queue} {i : Item} (hi : i ∈ y.items) (hpart : y.part = (s.queue q).part) (n : Nat) (k : Part) :
    InWindow q y n i s (intoWindow q i (noteIssue q k (requeued q y n s))) := by
  let p := (s.queue q).part
  have hfree := execFree_requeued hi hpart n k i.bytes
  generalize hv : noteIssue q k (requeued q y n s) = v at hfree ⊢
  have hqueue : v.queue q = y := hv ▸ queue_requeued q y n s
  have hqueues : ∀ j, j ≠ q → v.queue j = s.queue j := fun j hj => hv ▸ queue_requeued_ne y n s hj
  have hwins : ∀ j, j ≠ p → v.win j = s.win j := fun j hj => hv ▸ win_noteIssue_ne q k _ (by rwa [queue_requeued, hpart])
  have hexec : (v.win p).exec = (s.win p).exec := hv ▸ exec_noteIssue ..
  have hnext : (v.win p).next = (s.win p).next := hv ▸ next_noteIssue ..
  have hissued : v.qm.issued = n := hv ▸ rfl
  have hmem : v.mem = s.mem := hv ▸ rfl
  have hcores : v.coreList p = s.coreList p := hv ▸ rfl
  have hrun : firstRun v p q i = firstRun s p q i := hv ▸ rfl
  have hitem : i ∈ (v.queue q).items := hqueue ▸ hi
  by_cases hf : execFree s p i.bytes = true
  · have hinto : intoWindow q i v = enterExec v p q i := by
      unfold intoWindow
      dsimp only
      rw [hqueue, hpart, if_pos (hfree.trans hf)]
    have hempty : (s.win p).next = none := by
      simp only [execFree, Bool.and_eq_true, Option.isNone_iff_eq_none] at hf
      obtain ⟨⟨⟨-, hnone⟩, -⟩, -⟩ := hf
      exact hnone
    rw [hinto]
    exact ⟨mem_enterExec hitem _, (ip_enterExec ..).trans (congrArg Queue.ip hqueue), (issued_enterExec ..).trans hissued,
      sparesMemory_enterExec hf hmem hcores q,
      fun _ => ⟨hrun ▸ exec_enterExec .., (next_enterExec ..).trans (hnext.trans hempty)⟩, fun h => Bool.noConfusion (hf.symm.trans h),
      fun j hj => (win_enterExec_ne _ _ _ hj).trans (hwins j hj), fun j hj => (queue_enterExec_ne _ _ _ hj).trans (hqueues j hj)⟩
  · have hinto : intoWindow q i v = v.modWin p fun w => { w with next := some (BitVec.ofNat 16 q, i.uid) } := by
      unfold intoWindow
      dsimp only
      rw [hqueue, hpart, if_neg (hfree ▸ hf)]
    rw [hinto]
    refine ⟨⟨i.status, i.info, hitem⟩, congrArg Queue.ip hqueue, hissued, ⟨fun _ => hmem, fun a _ _ => congrArg (mget · a) hmem⟩, fun h => absurd h hf,
      fun _ => ?_, fun j hj => (win_modWin_ne _ _ hj).trans (hwins j hj), hqueues⟩
    rw [win_modWin]
    exact ⟨rfl, hexec⟩

/-! ### The issue of a compute descriptor -/

/-- What shows of a descriptor in the window does so of any state with the same queue manager and memory. -/
theorem InWindow.congr {q : Nat} {y : Queue} {n : Nat} {i : Item} {s t u : State} (h : InWindow q y n i s u) (hqm : t.qm = u.qm) (hmem : t.mem = u.mem) :
    InWindow q y n i s t := by
  have hqueue : ∀ k, t.queue k = u.queue k := queue_congr (congrArg Qm.queues hqm)
  have hwin : ∀ k, t.win k = u.win k := win_congr hqm
  obtain ⟨hitem, hip, hissued, ⟨hsame, hbytes⟩, hexec, hnext, hwins, hqueues⟩ := h
  refine ⟨?_, ?_, ?_, ⟨?_, ?_⟩, ?_, ?_, ?_, ?_⟩ <;> simp only [hqueue, hwin, hqm, hmem] <;> assumption

/-- The next descriptor issues: placed in its queue, it goes into the window; SNUFF_ISSUE shows in neither the queue manager nor memory. -/
theorem running_issueCompute {s : State} (hup : s.up = true) (hst : s.stopped = false) {q : Nat} {f : Fetched} (hnext : nextUp (s.queue q) = some f)
    (hbad : f.bad = none) {want : Desc → Bool} (hwant : want f.bytes = true) (hmay : mayIssue s q f = true) {i : Item} {y : Queue} {n : Nat}
    (hplace : placeItem s q f id (fun x i => stepPast x i.idx 1) = (i, requeued q y n s)) (hi : i ∈ y.items) (hpart : y.part = (s.queue q).part) :
    ∃ t, running s (issueCompute q want) = .next t ∧ InWindow q y n i s t := by
  let u := intoWindow q i (noteIssue q (partKind f.bytes) (requeued q y n s))
  have hissue : issueCompute q want s = if dSnuffIssue f.bytes then descSnuff 4 (s.queue q).part q u else u := by
    unfold issueCompute issueIf
    rw [hnext]
    dsimp only
    rw [if_pos (by simp [hbad, hwant, hmay])]
    unfold doIssue
    rw [hplace]
    rfl
  have hqm' : (if dSnuffIssue f.bytes then descSnuff 4 (s.queue q).part q u else u).qm = u.qm := by split <;> simp
  have hmem' : (if dSnuffIssue f.bytes then descSnuff 4 (s.queue q).part q u else u).mem = u.mem := by split <;> simp
  obtain ⟨t, ht, hqm, hmem, -⟩ := running_next hup hst hissue
  exact ⟨t, ht, (inWindow_intoWindow hi hpart n _).congr (hqm.trans hqm') (hmem.trans hmem')⟩

/-- What stands in flight of a descriptor that issues again: its own number, its reservations and its rescale slots. -/
def itemAgain (s : State) (x : Queue) (f : Fetched) (b : Item) : Item := { b with back := false, reserves := true, rtab := (newItem s x f true).rtab }

/-- A queue whose returned descriptor has issued again. -/
def Queue.rejoinedBy (x : Queue) (b i : Item) : Queue := { x with items := x.items.map fun j => if j.uid == b.uid then i else j }

/-- The returned descriptor takes its own place in its queue again, and no number is used up. -/
theorem placeItem_back {s : State} {q : Nat} {b : Item} (hb : (s.queue q).backItem = some b) (f : Fetched) (past : Queue → Item → Queue) :
    let i := itemAgain s (s.queue q) f b
    placeItem s q f id past = (i, requeued q ((s.queue q).rejoinedBy b i) s.qm.issued s) := by
  unfold placeItem
  dsimp only
  rw [hb]
  rfl

theorem mem_rejoinedBy {x : Queue} {b : Item} (hb : x.backItem = some b) (i : Item) : i ∈ (x.rejoinedBy b i).items :=
  List.mem_map.2 ⟨b, List.mem_of_find?_eq_some hb, if_pos (beq_self_eq_true _)⟩

end Sys2Proof.Machine
end

section
open Sys2Proof Sys2Proof.Machine

/-- Settles O39: a new descriptor joins its queue and one that a quiet period has returned takes its own place again; either goes into the window by one
rule. -/
theorem computeIssue : Obligations.ComputeIssue := by
  unfold Obligations.ComputeIssue
  intro s q f rest c want hup hst hc x p sameBytes
  rw [exec_compute hc]
  refine ⟨fun b hback hf hwant hmay => ?_, fun hahead hback hbad hwant hmay => ?_⟩
  · have hnext : nextUp x = some f := by simp [nextUp, hback, hf]
    obtain ⟨t, ht, ⟨status, info, hitem⟩, hip, hissued, hmem, -⟩ := running_issueCompute hup hst hnext (by simp [hf]) hwant hmay
      (placeItem_back hback f _) (mem_rejoinedBy hback _) rfl
    exact ⟨t, _, ht, hitem, rfl, rfl, rfl, rfl, hip, hissued, by subst hf; exact hmem⟩
  · let i := newItem s x f true
    have hpast : i ∈ (stepPast (x.joinedBy i) f.idx 1).items := mem_stepPast (mem_joinedBy ..) rfl _ _
    obtain ⟨t, ht, ⟨status, info, hitem⟩, hip, -, hmem, hexec, hnext, hwins, hqueues⟩ := running_issueCompute (i := i) hup hst
      (nextUp_read hahead hback) hbad hwant hmay (placeItem_new hback f id _) hpast rfl
    refine ⟨t, _, ht, hitem, rfl, rfl, rfl, rfl, rfl, hip, hmem, fun hfree => ?_, fun hfree => ?_, hwins, hqueues⟩
    · obtain ⟨⟨stopped, hrun⟩, hempty⟩ := hexec hfree
      exact ⟨_, hrun, hempty, BitVec.ofNat_toNat .., rfl, rfl, by simp [firstRun, i, newItem, x, p], rfl, rfl⟩
    · obtain ⟨hplaced, hstays⟩ := hnext hfree
      exact ⟨hplaced.trans (by rw [BitVec.ofNat_toNat, BitVec.setWidth_eq]; rfl), hstays⟩

end

section
/-!
SUPPORT. The accesses of the attention ring (R217, R220, R222), and the ATTN in execution: what shows it, what ends it, and when its pass gives way.
-/
namespace Sys2Proof.Machine

/-! ### Accesses -/

theorem goes_readList (c part : Nat) (o : Opnd) (frames : List Machine.Frame) (is : List (List Nat)) (a : Acc) :
    a.Goes (readList c part o frames is a).2 := by
  refine .foldl_snd (fun x k => ?_) ..
  exact .ite_snd (.refl _) (goes_readElem (pos := 0) ..)

theorem goes_readSegs (c part : Nat) (i : Item) (ar : AttnRun) (ts : List Nat) (a : Acc) : a.Goes (readSegs c part i ar ts a).2 := by
  refine .ite_snd (.foldl_snd (fun x t => ?_) ..) (.refl a)
  exact .ite_snd (.refl _) (goes_coreRead ..)

theorem goes_readBlock (c : Nat) (i : Item) (ar : AttnRun) (b : Nat) (a : Acc) : a.Goes (readBlock c i ar b a).2 :=
  ((goes_readList ..).trans (goes_readList ..)).trans (goes_readSegs ..)

theorem goes_readQuery (c : Nat) (i : Item) (ar : AttnRun) (row : Nat) (a : Acc) : a.Goes (readQuery c i ar row a).2.2 := by
  refine .trans (.foldl_snd (fun x j => ?_) ..) (goes_readSegs ..)
  exact .ite_snd (.refl _) (goes_readElem (pos := 0) ..)

theorem goes_writeRow (c run : Nat) (i : Item) (ar : AttnRun) (row : Nat) (a : Acc) : a.Goes (writeRow c run i ar row a) := by
  refine .foldlBy id (fun a j => ?_) _ a
  exact .ite (.refl a) (goes_coreWrite ..)

theorem works_writeRow {P : Nat → Prop} {c : Nat} (hP : WorkCounters P c) (run : Nat) (i : Item) (ar : AttnRun) (row : Nat) (a : Acc) :
    Works P a.s (writeRow c run i ar row a).s := by
  refine .foldlBy Acc.s (fun a j => ?_) _ a
  split
  · exact .refl _
  · exact works_coreWrite hP ..

/-! ### Rows that absorb a block -/

/-- Only the softmax state of the rows differs, with the queries and segment ids that the cores hold (R220). -/
def SoftmaxOnly (a b : AttnRun) : Prop := b = { a with cw := b.cw, ccw := b.ccw, odd := b.odd, rows := b.rows, ids := b.ids }

theorem SoftmaxOnly.merged {a b : AttnRun} (h : SoftmaxOnly a b) : b.merged = a.merged := (congrArg AttnRun.merged h :)
theorem SoftmaxOnly.absorbed {a b : AttnRun} (h : SoftmaxOnly a b) : b.absorbed = a.absorbed := (congrArg AttnRun.absorbed h :)

/-- One row after another: accesses are made, and of the run the softmax state moves. -/
structure Absorbs (p q : AttnRun × Acc) : Prop where
  goes : p.2.Goes q.2
  softmax : SoftmaxOnly p.1 q.1

theorem Absorbs.refl (p : AttnRun × Acc) : Absorbs p p := ⟨.refl _, rfl⟩

theorem Absorbs.trans {p q r : AttnRun × Acc} (h : Absorbs p q) (h' : Absorbs q r) : Absorbs p r := by
  refine ⟨h.goes.trans h'.goes, ?_⟩
  have e := h'.softmax
  rw [h.softmax] at e
  exact e

theorem Absorbs.ite {c : Prop} [Decidable c] {p q r : AttnRun × Acc} (hq : Absorbs p q) (hr : Absorbs p r) : Absorbs p (if c then q else r) := by
  split
  · exact hq
  · exact hr

/-- The query row and its segment id, read when the row meets its first block. -/
def rowQuery (c : Nat) (i : Item) (a : AttnRun) (row : Nat) (acc : Acc) : List W32 × Nat × Acc :=
  match tfind a.rows row with
  | some q => (q, tget 0xFFFF a.ids row, acc)
  | none => readQuery c i a row acc

theorem goes_rowQuery (c : Nat) (i : Item) (a : AttnRun) (row : Nat) (acc : Acc) : acc.Goes (rowQuery c i a row acc).2.2 := by
  unfold rowQuery
  split
  · exact .refl acc
  · exact goes_readQuery ..

theorem absorbs_absorbFor (c run : Nat) (i : Item) (b : Held) (row : Nat) (p : AttnRun × Acc) : Absorbs p (absorbFor c run i b row p) := by
  obtain ⟨a, acc⟩ := p
  unfold absorbFor
  dsimp -zeta only
  split
  · exact .refl _
  · extract_lets d dim asked pl cnt adm odd old exact new seen both
    have hquery : acc.Goes (rowQuery c i a row acc).2.2 := goes_rowQuery ..
    have hboth : SoftmaxOnly a both := by
      unfold both
      split <;> rfl
    refine .ite ⟨hquery, rfl⟩ ⟨hquery, ?_⟩
    dsimp only
    split
    · rw [hboth]
      rfl
    · exact hboth

theorem absorbs_foldl (c run : Nat) (i : Item) (b : Held) (rows : List Nat) (p : AttnRun × Acc) :
    Absorbs p (rows.foldl (fun st row => absorbFor c run i b row st) p) := by
  induction rows generalizing p with
  | nil => exact .refl p
  | cons row rows ih => exact (absorbs_absorbFor ..).trans (ih _)

/-! ### The ATTN in execution -/

theorem tget_bumpTab_self (t : Tab Nat) (k : Nat) : tget 0 (bumpTab t k) k = tget 0 t k + 1 := tget_tmod_self ..
theorem tget_bumpTab_ne (t : Tab Nat) {j k : Nat} (h : j ≠ k) : tget 0 (bumpTab t k) j = tget 0 t j := tget_tmod_ne 0 t _ h

/-- The descriptor of the run has stopped. -/
def AttnRun.EndsIn (a : AttnRun) (t : State) : Prop := ∃ r, (t.win a.part).exec = some r ∧ r.stopped = true

/-- The descriptor of the run stands in EXEC as before. -/
def AttnRun.StaysIn (a : AttnRun) (s t : State) : Prop := (t.win a.part).exec = (s.win a.part).exec

theorem AttnRun.EndsIn.congr {a : AttnRun} {t u : State} (h : a.EndsIn u) (hqm : t.qm = u.qm) : a.EndsIn t := by
  unfold AttnRun.EndsIn
  rw [win_congr hqm]
  exact h

theorem AttnRun.staysIn_congr {s t : State} (h : t.qm = s.qm) (a : AttnRun) : a.StaysIn s t := congrArg Window.exec (win_congr h a.part)

theorem attnNow_eq_some {s : State} {a : AttnRun} {x : Running} : s.attnNow = some (a, x) ↔ s.attn = some a ∧ s.running? a.part = some x ∧
    (x.run.uid = a.uid && !x.run.stopped && x.run.units != 0 && decide (a.prob < attnProbs x.item.bounds)) = true := by
  unfold State.attnNow
  constructor
  · intro h
    split at h
    · cases h
    · next hattn =>
      split at h
      · cases h
      · next hrun =>
        split at h
        · next hgo =>
          cases h
          exact ⟨hattn, hrun, hgo⟩
        · cases h
  · rintro ⟨hattn, hrun, hgo⟩
    rw [hattn]
    dsimp only
    rw [hrun]
    exact if_pos hgo

/-- A command whose work leaves a run: that run is seen, beside what else the work leaves. -/
theorem running_attn {s u : State} (hup : s.up = true) (hst : s.stopped = false) {k : State → State} {a' : AttnRun}
    (h : k s = { u with attn := some a' }) :
    ∃ t, running s k = .next t ∧ t.attn = some a' ∧ t.qm = u.qm ∧ t.mem = u.mem ∧ t.free = u.free :=
  ⟨_, running_eq hup hst k, by rw [keepQueue_attn, h], by rw [keepQueue_qm, h], by rw [keepQueue_mem, h], by rw [keepQueue_free, h]⟩

/-! ### Passes (R215) -/

theorem tilesNow_congr {s t : State} {a : AttnRun} (h : t.coreList a.part = s.coreList a.part) (bs : List Nat) : tilesNow t a bs = tilesNow s a bs := by
  unfold tilesNow passTiles hearthCores
  rw [h]

section
variable {s : State} {a : AttnRun} {bs : List Nat}

theorem nextPass_unmerged (h : a.merged.length < tilesNow s a bs) : nextPass s a bs = a := if_pos h

/-- The next pass of the problem. -/
theorem nextPass_tile (h : ¬a.merged.length < tilesNow s a bs) (htile : a.tile0 + tilesNow s a bs < attnTiles bs) :
    nextPass s a bs = attnPass a a.prob (a.tile0 + tilesNow s a bs) (s.fabric.flueFailed != 0) := (if_neg h).trans (if_pos htile)

/-- The first pass of the next problem. -/
theorem nextPass_problem (h : ¬a.merged.length < tilesNow s a bs) (htile : ¬a.tile0 + tilesNow s a bs < attnTiles bs) :
    nextPass s a bs = attnPass a (a.prob + 1) 0 (s.fabric.flueFailed != 0) := (if_neg h).trans (if_neg htile)

end

section
variable {s : State} {a : AttnRun} {x : Running} (hnow : s.attnNow = some (a, x))
include hnow

/-- A failing access ends the descriptor (R204, R224). -/
theorem endsIn_stopRun {u : State} (hqm : u.qm = s.qm) (st : Stop) : a.EndsIn (stopRun x st u) := by
  obtain ⟨hpart, hexec⟩ := running?_exec (attnNow_eq_some.1 hnow).2.1
  rw [← hpart] at hexec
  refine ⟨{ x.run with stopped := true }, ?_, rfl⟩
  rw [← hpart]
  exact exec_stopRun ((congrArg Window.exec (win_congr hqm x.part)).trans hexec) st

/-- The run goes on from the tiles merged so far. -/
theorem attnNow_merged {u : State} (hqm : u.qm = s.qm) (merged : List Nat) :
    ({ u with attn := some { a with merged := merged } } : State).attnNow = some ({ a with merged := merged }, x) := by
  obtain ⟨-, hrun, hgo⟩ := attnNow_eq_some.1 hnow
  exact attnNow_eq_some.2 ⟨rfl, (running?_congr (t := { u with attn := _ }) hqm a.part).trans hrun, hgo⟩

/-! ### Passes that give way (R416) -/

theorem attnNow_prob : a.prob < attnProbs x.item.bounds := by
  have hgo := (attnNow_eq_some.1 hnow).2.2
  simp only [Bool.and_eq_true, decide_eq_true_eq] at hgo
  exact hgo.2

theorem openPass_eq : openPass s = if s.grantHold && decide ((nextPass s a x.item.bounds).prob < attnProbs x.item.bounds) then s
    else { s with attn := some (nextPass s a x.item.bounds) } := by
  unfold openPass
  rw [hnow]

theorem openPass_unmerged (hmore : a.merged.length < tilesNow s a x.item.bounds) : openPass s = s := by
  rw [openPass_eq hnow, nextPass_unmerged hmore, ← (attnNow_eq_some.1 hnow).1]
  exact ite_self s

end

end Sys2Proof.Machine
end

section
/-!
O42, the four commands of the attention ring (R215, R216, R217, R218, R220, R222, R226, R416, R460). Each clause of the obligation has a name here, and
`attentionRing_iff` ties the names to it.
-/
namespace Sys2Proof.Machine

theorem exec_attnBlockRead (h : Fin 4) (s : State) : exec (.attnBlockRead h) s = running s (attnBlockRead h.val) := rfl
theorem exec_attnBlockArrive (h : Fin 4) (s : State) : exec (.attnBlockArrive h) s = running s (attnBlockArrive h.val) := rfl
theorem exec_attnBlockAbsorb (c : Fin 16) (s : State) : exec (.attnBlockAbsorb c) s = running s (attnBlockAbsorb c.val) := rfl
theorem exec_attnMerge (c : Fin 16) (s : State) : exec (.attnMerge c) s = running s (attnMerge c.val) := rfl

/-! ### ATTN_BLOCK_READ -/

/-- The block that a home Hearth reads next on a rotation (R216). -/
def homeBlock (a : AttnRun) (h : Nat) (ccw : Bool) : Nat := kthBlock a.line ccw h (tget 0 a.read (2 * h + ccw.toNat))

/-- A rotation is ready for its home's next block: the block exists, there is space, and the earlier rounds are through (R216, R217). -/
def HomeReady (a : AttnRun) (bs : List Nat) (h : Nat) (ccw : Bool) : Prop :=
  (a.line = true → ccw = false) ∧ homeBlock a h ccw < attnBlocks bs ∧ hasSpace a h ccw = true ∧
    4 * tget 0 a.read (2 * h + ccw.toNat) ≤ tget 0 a.got (2 * h + ccw.toNat)

/-- A home Hearth with space reads the block of the lower number, or the descriptor ends. -/
def ReadsBlocks (s : State) (a : AttnRun) (x : Running) : Prop :=
  ∀ (h : Fin 4) (c : Nat) (cs : List Nat), a.merged.length < tilesNow s a x.item.bounds → hearthCores s a.part h.val = c :: cs →
    ∀ ccw : Bool, HomeReady a x.item.bounds h.val ccw →
      (HomeReady a x.item.bounds h.val (!ccw) → homeBlock a h.val ccw ≤ homeBlock a h.val (!ccw)) →
      let got := readBlock c x.item a (homeBlock a h.val ccw) { s := s }
      (got.2.stop = none → ∃ t a', exec (.attnBlockRead h) s = .next t ∧ t.mem = s.mem ∧ a.StaysIn s t ∧ t.attn = some a' ∧
        tget 0 a'.read (2 * h.val + ccw.toNat) = tget 0 a.read (2 * h.val + ccw.toNat) + 1 ∧
        tget 0 a'.got (2 * h.val + ccw.toNat) = tget 0 a.got (2 * h.val + ccw.toNat) + 1 ∧
        tget 0 a'.read (2 * h.val + (!ccw).toNat) = tget 0 a.read (2 * h.val + (!ccw).toNat) ∧ a'.prob = a.prob ∧ a'.tile0 = a.tile0) ∧
      (got.2.stop ≠ none → ∃ t, exec (.attnBlockRead h) s = .next t ∧ t.mem = s.mem ∧ a.EndsIn t)

/-- A rotation's next block of its home, where the rotation is ready for it. -/
def homeNext (a : AttnRun) (bs : List Nat) (h : Nat) (ccw : Bool) : Option Nat :=
  if decide (homeBlock a h ccw < attnBlocks bs) && hasSpace a h ccw &&
    decide (4 * tget 0 a.read (2 * h + ccw.toNat) ≤ tget 0 a.got (2 * h + ccw.toNat)) then some (homeBlock a h ccw) else none

/-- The block that a home reads: of the lower number when both rotations are ready. -/
def homePick (a : AttnRun) (bs : List Nat) (h : Nat) : Option Nat :=
  match homeNext a bs h false, (if a.line then none else homeNext a bs h true) with
  | some b, some b' => some (min b b')
  | some b, none => some b
  | none, r => r

/-- The run once a home has read a block on a rotation. -/
def AttnRun.takes (a : AttnRun) (h : Nat) (ccw : Bool) (y : Held) : AttnRun :=
  { a with read := bumpTab a.read (2 * h + ccw.toNat), got := bumpTab a.got (2 * h + ccw.toNat), held := a.held ++ [y] }

/-- What the reading of block `b` leaves. -/
def blockTaken (h b : Nat) (x : Running) (a : AttnRun) (got : (List W32 × List W32 × List (BitVec 16)) × Acc) : State :=
  match got.2.stop with
  | some st => stopRun x st { got.2.s with attn := some { a with held := [] } }
  | none =>
    let y : Held := ⟨h, b, blockCcw a.line b, got.1.1, got.1.2.1, got.1.2.2, [], false, false⟩
    let u := bump got.2.s (33 + 2 * h) (blockBytes (opnd x.item.bytes 1).format y)
    { u with attn := some (sweepBlocks u (a.takes h (blockCcw a.line b) y) x.item.bounds) }

section
variable {h b : Nat} {x : Running} {a : AttnRun} {got : (List W32 × List W32 × List (BitVec 16)) × Acc}

theorem blockTaken_ok (hok : got.2.stop = none) : ∃ y n, let u := bump got.2.s (33 + 2 * h) n
    blockTaken h b x a got = { u with attn := some (sweepBlocks u (a.takes h (blockCcw a.line b) y) x.item.bounds) } := by
  unfold blockTaken
  rw [hok]
  exact ⟨_, _, rfl⟩

theorem blockTaken_stops {st : Stop} (hstop : got.2.stop = some st) :
    blockTaken h b x a got = stopRun x st { got.2.s with attn := some { a with held := [] } } := by
  unfold blockTaken
  rw [hstop]

end

theorem homeNext_ready {a : AttnRun} {bs : List Nat} {h : Nat} {ccw : Bool} (hr : HomeReady a bs h ccw) :
    homeNext a bs h ccw = some (homeBlock a h ccw) := by
  obtain ⟨-, hblock, hspace, hround⟩ := hr
  exact if_pos (by simp [hblock, hspace, hround])

theorem homeNext_not_ready {a : AttnRun} {bs : List Nat} {h : Nat} {ccw : Bool} (hl : a.line = true → ccw = false) (hr : ¬HomeReady a bs h ccw) :
    homeNext a bs h ccw = none :=
  if_neg fun hb => hr ⟨hl, by simpa [and_assoc] using hb⟩

theorem homePick_lower {a : AttnRun} {bs : List Nat} {h : Nat} {ccw : Bool} (hr : HomeReady a bs h ccw)
    (hlow : HomeReady a bs h (!ccw) → homeBlock a h ccw ≤ homeBlock a h (!ccw)) : homePick a bs h = some (homeBlock a h ccw) := by
  unfold homePick
  cases ccw with
  | false =>
    rw [homeNext_ready hr]
    by_cases hline : a.line = true
    · rw [if_pos hline]
    · rw [if_neg hline]
      by_cases hr' : HomeReady a bs h true
      · rw [homeNext_ready hr']
        exact congrArg some (Nat.min_eq_left (hlow hr'))
      · rw [homeNext_not_ready (fun hl => absurd hl hline) hr']
  | true =>
    have hline : ¬a.line = true := fun hl => Bool.noConfusion (hr.1 hl)
    rw [if_neg hline, homeNext_ready hr]
    by_cases hr' : HomeReady a bs h false
    · rw [homeNext_ready hr']
      exact congrArg some (Nat.min_eq_right (hlow hr'))
    · rw [homeNext_not_ready (fun _ => rfl) hr']

/-- The rotation of a block that its home reads: on the ring the rounds alternate (R216). -/
theorem blockCcw_kthBlock {line ccw : Bool} {h : Nat} (hh : h < 4) (hl : line = true → ccw = false) (k : Nat) :
    blockCcw line (kthBlock line ccw h k) = ccw := by
  unfold blockCcw kthBlock
  cases line with
  | true => exact (hl rfl).symm
  | false => cases ccw <;> simp <;> omega

theorem attnBlockRead_eq {s : State} {a : AttnRun} {x : Running} (hnow : s.attnNow = some (a, x)) (hmore : a.merged.length < tilesNow s a x.item.bounds)
    {h c b : Nat} {cs : List Nat} (hcores : hearthCores s a.part h = c :: cs) (hpick : homePick a x.item.bounds h = some b) :
    attnBlockRead h s = blockTaken h b x a (readBlock c x.item a b { s := s }) := by
  have heq : attnBlockRead h s = match homePick a x.item.bounds h, hearthCores s a.part h with
      | some b, c :: _ => blockTaken h b x a (readBlock c x.item a b { s := s })
      | _, _ => s := by
    unfold attnBlockRead
    rw [openPass_unmerged hnow hmore]
    dsimp only
    rw [hnow]
    rfl
  rw [heq, hpick, hcores]

theorem readsBlocks {s : State} {a : AttnRun} {x : Running} (hup : s.up = true) (hst : s.stopped = false) (hnow : s.attnNow = some (a, x)) :
    ReadsBlocks s a x := by
  intro h c cs hmore hcores ccw hr hlow got
  have hwork : attnBlockRead h.val s = blockTaken h.val (homeBlock a h.val ccw) x a got := attnBlockRead_eq hnow hmore hcores (homePick_lower hr hlow)
  have hgot : Accesses s got.2.s := (goes_readBlock c x.item a (homeBlock a h.val ccw) { s := s }).state
  have hccw : blockCcw a.line (homeBlock a h.val ccw) = ccw := blockCcw_kthBlock h.isLt hr.1 _
  clear_value got
  rw [exec_attnBlockRead]
  refine ⟨fun hok => ?_, fun hbad => ?_⟩
  · obtain ⟨y, n, htaken⟩ := blockTaken_ok (h := h.val) (b := homeBlock a h.val ccw) (x := x) (a := a) hok
    obtain ⟨t, hnext, hattn, hqm, hmem, -⟩ := running_attn hup hst (hwork.trans htaken)
    have hbump := hgot.trans (accesses_bump got.2.s (33 + 2 * h.val) n)
    rw [hccw] at hattn
    refine ⟨t, _, hnext, hmem.trans hbump.mem, a.staysIn_congr (hqm.trans hbump.qm), hattn, tget_bumpTab_self .., tget_bumpTab_self ..,
      tget_bumpTab_ne _ ?_, rfl, rfl⟩
    cases ccw <;> simp
  · obtain ⟨st, hstop⟩ := Option.ne_none_iff_exists'.1 hbad
    obtain ⟨t, hnext, hqm, hmem, -⟩ := running_next hup hst (hwork.trans (blockTaken_stops hstop))
    exact ⟨t, hnext, hmem.trans ((calm_stopRun ..).mem.trans hgot.mem), (endsIn_stopRun hnow hgot.qm st).congr hqm⟩

/-! ### ATTN_BLOCK_ARRIVE -/

/-- The byte counters of the Hearth buffers and of the Flue links (R460). -/
def ringCounters : List Nat := (List.range' 32 16).map Reg.dbgBcnt

/-- A block that goes on comes into the next Hearth, and its bytes are counted there and at the link that it crosses. -/
def BlocksArrive (s : State) (a : AttnRun) (x : Running) : Prop :=
  ∀ (h : Fin 4) (b : Held) (back : Bool), arrival s a (attnBlocks x.item.bounds) h.val = some (b, back) →
    ∃ t a', exec (.attnBlockArrive h) s = .next t ∧ t.attn = some a' ∧ t = { s with attn := some a', regs := t.regs } ∧
      OnlyRegs ringCounters s t ∧
      tget 0 a'.got (2 * h.val + b.ccw.toNat) = tget 0 a.got (2 * h.val + b.ccw.toNat) + 1 ∧ a'.read = a.read ∧ a'.cw = a.cw ∧ a'.ccw = a.ccw ∧
      (a.line = false → s.fabric.flueFailed = 0 → b.hearth < 4 →
        let l := if b.ccw then 41 + 2 * h.val else 40 + 2 * b.hearth
        t.fld (Reg.dbgBcnt l) 47 0 = (s.fld (Reg.dbgBcnt l) 47 0 + blockBytes (opnd x.item.bytes 1).format b) % 2 ^ 48)

/-- The run once block `b` has come into Hearth `h`. -/
def arrivedRun (h : Nat) (b : Held) (back : Bool) (a : AttnRun) : AttnRun :=
  let held := a.held.map fun y => if y == b then (if back then { y with sentBack := true } else { y with sent := true }) else y
  { a with held := held ++ [{ b with hearth := h, done := [], sent := false, sentBack := false }], got := bumpTab a.got (2 * h + b.ccw.toNat) }

/-- What the arrival of block `b` in Hearth `h` leaves. -/
def blockArrived (h : Nat) (b : Held) (back : Bool) (x : Running) (a : AttnRun) (s : State) : State :=
  let u := countBlock s b.hearth h (blockBytes (opnd x.item.bytes 1).format b)
  { u with attn := some (sweepBlocks u (arrivedRun h b back a) x.item.bounds) }

theorem exec_attnBlockArrive_eq {s : State} {a : AttnRun} {x : Running} (hup : s.up = true) (hst : s.stopped = false) (hnow : s.attnNow = some (a, x))
    {h : Fin 4} {b : Held} {back : Bool} (harr : arrival s a (attnBlocks x.item.bounds) h.val = some (b, back)) :
    exec (.attnBlockArrive h) s = .next (keepQueue s (blockArrived h.val b back x a s)) := by
  have hwork : attnBlockArrive h.val s = blockArrived h.val b back x a s := by
    unfold attnBlockArrive
    rw [hnow]
    dsimp only
    rw [harr]
    rfl
  rw [exec_attnBlockArrive, running_eq hup hst, hwork]

/-- The state without its registers. -/
def State.sansRegs (s : State) : State := { s with regs := [] }

/-- An arrival leaves all but the registers and the run. -/
theorem keepQueue_arrived {s u : State} (h : u.sansRegs = s.sansRegs) (a : AttnRun) :
    keepQueue s { u with attn := some a } = { s with attn := some a, regs := u.regs } :=
  (congrArg (fun v : State => ({ v with attn := some a, regs := u.regs, pending := s.pending } : State)) h :)

/-- A block that passes between two of the four Hearths moves the counters of the ring alone. -/
theorem framed_countBlock (s : State) {src dst : Nat} (hsrc : src < 4) (hdst : dst < 4) (n : Nat) :
    Framed (· ∈ ringCounters) State.sansRegs s (countBlock s src dst n) := by
  have hbump : ∀ i, 32 ≤ i → i < 48 → ∀ s n, Framed (· ∈ ringCounters) State.sansRegs s (bump s i n) := fun i hlo hhi s n =>
    .setFld (lo := 0) (fun _ _ => rfl) (List.mem_map.2 ⟨i, List.mem_range'_1.2 ⟨hlo, by omega⟩, rfl⟩) s 47 _
  have hflue : ∀ s, Framed (· ∈ ringCounters) State.sansRegs s (flueBytes s src dst n) := fun s => by
    unfold flueBytes
    exact .ite (.refl s) (.ite (.foldl _ (fun s k _ => hbump _ (by omega) (by omega) s n) s)
      (.ite (.foldl _ (fun s k _ => hbump _ (by omega) (by omega) s n) s) (.refl s)))
  exact ((hbump _ (by omega) (by omega) s n).trans (hflue _)).trans (hbump _ (by omega) (by omega) _ n)

/-- On a whole ring a block crosses one link, that of its rotation. -/
theorem flueBytes_ring {s : State} (hf : s.fabric.flueFailed = 0) {src : Nat} (hsrc : src < 4) (n : Nat) :
    flueBytes s src ((src + 1) % 4) n = bump s (40 + 2 * src) n ∧ flueBytes s src ((src + 3) % 4) n = bump s (41 + 2 * ((src + 3) % 4)) n := by
  have hall : ∀ k, flueUp s k = true := fun k => by simp [flueUp, hf]
  unfold flueBytes
  simp only [hall]
  have h : src = 0 ∨ src = 1 ∨ src = 2 ∨ src = 3 := by omega
  rcases h with rfl | rfl | rfl | rfl <;> exact ⟨rfl, rfl⟩

/-- A block that arrives is one of those held, on the ring by the next Hearth back. -/
theorem arrival_from {s : State} {a : AttnRun} {blocks h : Nat} {b : Held} {back : Bool} (harr : arrival s a blocks h = some (b, back)) :
    b ∈ a.held ∧ (a.line = false → h = (b.hearth + (if b.ccw then 3 else 1)) % 4) := by
  unfold arrival at harr
  split at harr
  · next hfind =>
    cases harr
    refine ⟨List.mem_of_find?_eq_some hfind, fun hline => ?_⟩
    have hgo := List.find?_some hfind
    simp only [Bool.and_eq_true, beq_iff_eq, nextHearth, hline, Bool.false_eq_true, if_false] at hgo
    exact hgo.1.1.2.symm
  · obtain ⟨y, hfind, hy⟩ := Option.map_eq_some_iff.1 harr
    cases hy
    refine ⟨List.mem_of_find?_eq_some hfind, fun hline => ?_⟩
    have hgo := List.find?_some hfind
    simp [goesBack, hline] at hgo

/-- The link that an arriving block crosses counts its bytes. -/
theorem fld_countBlock_link {s : State} (hf : s.fabric.flueFailed = 0) {src h : Nat} {ccw : Bool} (hsrc : src < 4)
    (hh : h = (src + (if ccw then 3 else 1)) % 4) (n : Nat) :
    let l := if ccw then 41 + 2 * h else 40 + 2 * src
    (countBlock s src h n).fld (Reg.dbgBcnt l) 47 0 = (s.fld (Reg.dbgBcnt l) 47 0 + n) % 2 ^ 48 := by
  intro l
  have hl : 40 ≤ l := by unfold l; split <;> omega
  have hring := flueBytes_ring (s := bump s (32 + 2 * src) n) (by rw [bump_fabric]; exact hf) hsrc n
  have hlink : flueBytes (bump s (32 + 2 * src) n) src h n = bump (bump s (32 + 2 * src) n) l n := by
    subst hh
    cases ccw with
    | false => exact hring.1
    | true => exact hring.2
  have hh4 : h < 4 := by omega
  unfold countBlock
  rw [hlink, fld_bump_byte, if_neg (by omega), fld_bump_self, fld_bump_byte, if_neg (by omega)]

theorem blocksArrive {s : State} {a : AttnRun} {x : Running} (hup : s.up = true) (hst : s.stopped = false) (hnow : s.attnNow = some (a, x))
    (hheld : ∀ b ∈ a.held, b.hearth < 4) : BlocksArrive s a x := by
  intro h b back harr
  obtain ⟨hmem, hfrom⟩ := arrival_from harr
  obtain ⟨hregs, hrest⟩ := framed_countBlock s (hheld b hmem) h.isLt (blockBytes (opnd x.item.bytes 1).format b)
  refine ⟨_, _, exec_attnBlockArrive_eq hup hst hnow harr, rfl, keepQueue_arrived hrest _, hregs, tget_bumpTab_self .., rfl, rfl, rfl,
    fun hline hf hsrc => ?_⟩
  intro l
  rw [fld_keepQueue, fld_congr (t := blockArrived h.val b back x a s) rfl]
  exact fld_countBlock_link hf hsrc (hfrom hline) _

/-! ### ATTN_BLOCK_ABSORB -/

/-- A core works the oldest block that it has not met into its rows, or the descriptor ends. -/
def AbsorbsBlocks (s : State) (a : AttnRun) (x : Running) : Prop :=
  ∀ (c : Fin 16) (b : Held), a.held.find? (fun y => y.hearth == c.val / 4 && !y.done.contains c.val) = some b →
    rowsOfCore s a x.item.bounds c.val ≠ [] →
    let u : State := { bump s (32 + 2 * (c.val / 4)) (blockBytes (opnd x.item.bytes 1).format b) with free := s.free + 1 }
    let r := (rowsOfCore s a x.item.bounds c.val).foldl (fun st row => absorbFor c.val s.free x.item b row st) (a, { s := u })
    (r.2.stop = none → ∃ t a', exec (.attnBlockAbsorb c) s = .next t ∧ t.free = s.free + 1 ∧ t.mem = s.mem ∧ a.StaysIn s t ∧ t.attn = some a' ∧
      tget 0 a'.absorbed c.val = tget 0 a.absorbed c.val + 1 ∧ a'.merged = a.merged ∧ a'.cw = r.1.cw ∧ a'.ccw = r.1.ccw ∧
      ∀ y, y ∈ a'.held → y.hearth = b.hearth → y.block = b.block → c.val ∈ y.done) ∧
    (r.2.stop ≠ none → ∃ t, exec (.attnBlockAbsorb c) s = .next t ∧ t.free = s.free + 1 ∧ t.mem = s.mem ∧ a.EndsIn t)

/-- The block held in a Hearth has been processed by core `c` too. -/
def markDone (c : Nat) (b y : Held) : Held := if y.hearth == b.hearth && y.block == b.block then { y with done := y.done ++ [c] } else y

/-- What a core leaves that has worked block `b` into its rows. -/
def blockAbsorbed (c : Nat) (b : Held) (x : Running) (r : AttnRun × Acc) : State :=
  match r.2.stop with
  | some st => stopRun x st { r.2.s with attn := some { r.1 with held := [] } }
  | none =>
    { r.2.s with attn := some (sweepBlocks r.2.s { r.1 with held := r.1.held.map (markDone c b), absorbed := bumpTab r.1.absorbed c } x.item.bounds) }

section
variable {c : Nat} {b : Held} {x : Running} {r : AttnRun × Acc}

theorem blockAbsorbed_ok (hok : r.2.stop = none) : blockAbsorbed c b x r =
    { r.2.s with attn := some (sweepBlocks r.2.s { r.1 with held := r.1.held.map (markDone c b), absorbed := bumpTab r.1.absorbed c } x.item.bounds) } := by
  unfold blockAbsorbed
  rw [hok]

theorem blockAbsorbed_stops {st : Stop} (hstop : r.2.stop = some st) :
    blockAbsorbed c b x r = stopRun x st { r.2.s with attn := some { r.1 with held := [] } } := by
  unfold blockAbsorbed
  rw [hstop]

end

theorem attnBlockAbsorb_eq {s : State} {a : AttnRun} {x : Running} (hnow : s.attnNow = some (a, x)) {c : Nat} {b : Held}
    (hb : a.held.find? (fun y => y.hearth == c / 4 && !y.done.contains c) = some b) (hrows : rowsOfCore s a x.item.bounds c ≠ []) :
    attnBlockAbsorb c s = blockAbsorbed c b x ((rowsOfCore s a x.item.bounds c).foldl (fun st row => absorbFor c s.free x.item b row st)
      (a, { s := { bump s (32 + 2 * (c / 4)) (blockBytes (opnd x.item.bytes 1).format b) with free := s.free + 1 } })) := by
  unfold attnBlockAbsorb
  rw [hnow]
  dsimp only
  rw [hb]
  dsimp only
  rw [if_neg (by simpa using hrows)]
  dsimp only [State.fresh]
  rw [bump_free]
  generalize List.foldl _ _ _ = r
  rfl

theorem mem_done_of_markDone {c : Nat} {b y : Held} {l : List Held} (hy : y ∈ l.map (markDone c b)) (hh : y.hearth = b.hearth) (hk : y.block = b.block) :
    c ∈ y.done := by
  obtain ⟨z, -, rfl⟩ := List.mem_map.1 hy
  unfold markDone at hh hk ⊢
  split
  · simp
  · next hne =>
    rw [if_neg hne] at hh hk
    exact absurd (by simp [hh, hk]) hne

theorem absorbsBlocks {s : State} {a : AttnRun} {x : Running} (hup : s.up = true) (hst : s.stopped = false) (hnow : s.attnNow = some (a, x)) :
    AbsorbsBlocks s a x := by
  intro c b hb hrows u r
  have hwork : attnBlockAbsorb c.val s = blockAbsorbed c.val b x r := attnBlockAbsorb_eq hnow hb hrows
  obtain ⟨hgoes, hsoft⟩ : Absorbs (a, { s := u }) r := absorbs_foldl ..
  have hfree : r.2.s.free = s.free + 1 := hgoes.state.free
  have hmem : r.2.s.mem = s.mem := hgoes.state.mem.trans (by simp [u])
  have hqm : r.2.s.qm = s.qm := hgoes.state.qm.trans (by simp [u])
  clear_value r
  rw [exec_attnBlockAbsorb]
  refine ⟨fun hok => ?_, fun hbad => ?_⟩
  · obtain ⟨t, hnext, hattn, htqm, htmem, htfree⟩ := running_attn hup hst (hwork.trans (blockAbsorbed_ok hok))
    refine ⟨t, _, hnext, htfree.trans hfree, htmem.trans hmem, a.staysIn_congr (htqm.trans hqm), hattn, ?_, hsoft.merged, rfl, rfl,
      fun y hy => mem_done_of_markDone (List.mem_of_mem_filter hy)⟩
    exact (tget_bumpTab_self ..).trans (by rw [hsoft.absorbed])
  · obtain ⟨st, hstop⟩ := Option.ne_none_iff_exists'.1 hbad
    obtain ⟨t, hnext, htqm, htmem, htfree⟩ := running_next hup hst (hwork.trans (blockAbsorbed_stops hstop))
    have hcalm := calm_stopRun x st { r.2.s with attn := some { r.1 with held := [] } }
    exact ⟨t, hnext, htfree.trans (hcalm.free.trans hfree), htmem.trans (hcalm.mem.trans hmem), (endsIn_stopRun hnow hqm st).congr htqm⟩

/-! ### ATTN_MERGE -/

/-- A core that has absorbed every block merges its lowest tile, and the last tile of a pass opens the next one, or the descriptor ends. -/
def MergesTiles (s : State) (a : AttnRun) (x : Running) : Prop :=
  ∀ (c : Fin 16) (j : Nat), let bs := x.item.bounds
    let n := tilesNow s a bs
    a.merged.length < n → attnBlocks bs ≤ tget 0 a.absorbed c.val → (tilesOfCore s a bs c.val).find? (fun y => !a.merged.contains y) = some j →
    let w := (tileQRows a bs j).foldl (fun acc row => writeRow c.val s.free x.item a row acc) { s := { s with free := s.free + 1 } }
    (w.stop = none → ∃ t a', exec (.attnMerge c) s = .next t ∧ t.free = s.free + 1 ∧ a.StaysIn s t ∧ t.attn = some a' ∧
      (WritesLand s → Lands w.out s t) ∧
      (a.merged.length + 1 < n → a' = { a with merged := a.merged ++ [j] }) ∧
      (n ≤ a.merged.length + 1 →
        (a.tile0 + n < attnTiles bs → s.grantHold = false → a'.merged = [] ∧ a'.prob = a.prob ∧ a'.tile0 = a.tile0 + n) ∧
        (attnTiles bs ≤ a.tile0 + n → s.grantHold = false ∨ attnProbs bs ≤ a.prob + 1 → a'.merged = [] ∧ a'.prob = a.prob + 1 ∧ a'.tile0 = 0) ∧
        (s.grantHold = true → a.tile0 + n < attnTiles bs ∨ a.prob + 1 < attnProbs bs → a' = { a with merged := a.merged ++ [j] }))) ∧
    (w.stop ≠ none → ∃ t, exec (.attnMerge c) s = .next t ∧ t.free = s.free + 1 ∧ a.EndsIn t ∧ (WritesLand s → Lands w.out s t))

/-- What a core leaves that has merged tile `j`. -/
def tileMerged (c j : Nat) (x : Running) (a : AttnRun) (w : Acc) : State :=
  match w.stop with
  | some st => stopRun x st (w.land c)
  | none => openPass { w.land c with attn := some { a with merged := a.merged ++ [j] } }

section
variable {c j : Nat} {x : Running} {a : AttnRun} {w : Acc}

theorem tileMerged_ok (hok : w.stop = none) :
    tileMerged c j x a w = openPass { w.land c with attn := some { a with merged := a.merged ++ [j] } } := by
  unfold tileMerged
  rw [hok]

theorem tileMerged_stops {st : Stop} (hstop : w.stop = some st) : tileMerged c j x a w = stopRun x st (w.land c) := by
  unfold tileMerged
  rw [hstop]

end

theorem attnMerge_eq {s : State} {a : AttnRun} {x : Running} (hnow : s.attnNow = some (a, x)) (hmore : a.merged.length < tilesNow s a x.item.bounds)
    {c j : Nat} (habs : attnBlocks x.item.bounds ≤ tget 0 a.absorbed c)
    (hj : (tilesOfCore s a x.item.bounds c).find? (fun y => !a.merged.contains y) = some j) :
    attnMerge c s = tileMerged c j x a ((tileQRows a x.item.bounds j).foldl (fun acc row => writeRow c s.free x.item a row acc)
      { s := { s with free := s.free + 1 } }) := by
  unfold attnMerge
  rw [openPass_unmerged hnow hmore]
  dsimp only
  rw [hnow]
  dsimp only
  rw [if_neg (by omega), hj]
  rfl

/-- Every register but those that say which cores a partition has and whether a grant hold is in force. -/
def besidePass (p k : Nat) : Prop := k ≠ Reg.qmPart p ∧ k ≠ Reg.pwrStatus

theorem workCounters_besidePass {p : Nat} (hp : p < 16) (c : Nat) : WorkCounters (besidePass p) c where
  counters :=
    { bytes := fun i _ => by unfold besidePass Reg.dbgBcnt Reg.qmPart Reg.pwrStatus; omega
      port := fun c _ b _ => by unfold besidePass Reg.dbgBcnt Reg.qmPart Reg.pwrStatus; omega
      errors := fun i _ => by unfold besidePass Reg.relCnt Reg.qmPart Reg.pwrStatus; omega }
  violCount := by unfold besidePass Reg.dbgViolCount Reg.qmPart Reg.pwrStatus; omega
  violLast := by unfold besidePass Reg.dbgViolLast Reg.qmPart Reg.pwrStatus; omega

section
variable {s u : State} {a : AttnRun} {x : Running} (hnow : s.attnNow = some (a, x)) (hqm : u.qm = s.qm)
  (hcores : u.coreList a.part = s.coreList a.part) (hhold : u.grantHold = s.grantHold)
include hnow hqm hcores hhold

/-- What follows a merged tile: the pass goes on, or gives way to the next pass or problem, or a grant hold keeps that (R215, R416). -/
theorem openPass_merged (j : Nat) :
    let bs := x.item.bounds
    let n := tilesNow s a bs
    ∃ a', openPass { u with attn := some { a with merged := a.merged ++ [j] } } = { u with attn := some a' } ∧
      (a.merged.length + 1 < n → a' = { a with merged := a.merged ++ [j] }) ∧
      (n ≤ a.merged.length + 1 →
        (a.tile0 + n < attnTiles bs → s.grantHold = false → a'.merged = [] ∧ a'.prob = a.prob ∧ a'.tile0 = a.tile0 + n) ∧
        (attnTiles bs ≤ a.tile0 + n → s.grantHold = false ∨ attnProbs bs ≤ a.prob + 1 → a'.merged = [] ∧ a'.prob = a.prob + 1 ∧ a'.tile0 = 0) ∧
        (s.grantHold = true → a.tile0 + n < attnTiles bs ∨ a.prob + 1 < attnProbs bs → a' = { a with merged := a.merged ++ [j] })) := by
  intro bs n
  let b : AttnRun := { a with merged := a.merged ++ [j] }
  let v : State := { u with attn := some b }
  have hnow' : v.attnNow = some (b, x) := attnNow_merged hnow hqm _
  have htiles : tilesNow v b bs = n := tilesNow_congr (t := v) (a := b) hcores bs
  have hlength : b.merged.length = a.merged.length + 1 := List.length_append
  have hprob : a.prob < attnProbs bs := attnNow_prob hnow
  refine ⟨if s.grantHold && decide ((nextPass v b bs).prob < attnProbs bs) then b else nextPass v b bs, ?_, fun hmore => ?_, fun hlast => ?_⟩
  · rw [openPass_eq hnow', show v.grantHold = s.grantHold from hhold]
    split <;> rfl
  · rw [nextPass_unmerged (by omega), ite_self]
  · by_cases htile : a.tile0 + n < attnTiles bs
    · rw [nextPass_tile (by omega) (show b.tile0 + tilesNow v b bs < attnTiles bs by rw [htiles]; exact htile), htiles]
      refine ⟨fun _ hfree => ?_, fun hnone => absurd htile (by omega), fun hheld _ => if_pos ?_⟩
      · rw [hfree]
        exact ⟨rfl, rfl, rfl⟩
      · rw [hheld]
        exact decide_eq_true hprob
    · rw [nextPass_problem (by omega) (show ¬b.tile0 + tilesNow v b bs < attnTiles bs by rw [htiles]; exact htile)]
      refine ⟨fun h => absurd h htile, fun _ hfree => ?_, fun hheld hmore => if_pos ?_⟩
      · rw [if_neg fun h => ?_]
        · exact ⟨rfl, rfl, rfl⟩
        · obtain ⟨hheld, hmore⟩ := (Bool.and_eq_true ..).mp h
          have hmore' : a.prob + 1 < attnProbs bs := of_decide_eq_true hmore
          rcases hfree with hfree | hdone
          · rw [hfree] at hheld
            cases hheld
          · omega
      · rw [hheld]
        exact decide_eq_true (hmore.resolve_left htile)

end

theorem mergesTiles {s : State} {a : AttnRun} {x : Running} (hup : s.up = true) (hst : s.stopped = false) (hnow : s.attnNow = some (a, x))
    (hpart : a.part < 16) : MergesTiles s a x := by
  intro c j bs n hmore habs hj w
  have hwork : attnMerge c.val s = tileMerged c.val j x a w := attnMerge_eq hnow hmore habs hj
  have hgoes : Acc.Goes { s := { s with free := s.free + 1 } } w := .foldlBy id (fun acc row => goes_writeRow ..) _ _
  have hworks : Works (besidePass a.part) s (w.land c.val) :=
    .trans (t := { s with free := s.free + 1 }) ⟨fun _ _ => rfl, rfl⟩ (.trans
      (.foldlBy Acc.s (fun acc row => works_writeRow (workCounters_besidePass hpart c.val) ..) _ _) (works_land (workCounters_besidePass hpart c.val) w))
  clear_value w
  have hland := carries_land c.val w
  have hqm : (w.land c.val).qm = s.qm := hland.qm.trans hgoes.state.qm
  have hfree : (w.land c.val).free = s.free + 1 := hland.free.trans hgoes.state.free
  have hlands : ∀ t : State, t.mem = (w.land c.val).mem → WritesLand s → Lands w.out s t := fun t ht hs k => by
    rw [ht]
    exact hgoes.lands c.val hs k
  rw [exec_attnMerge]
  refine ⟨fun hok => ?_, fun hbad => ?_⟩
  · obtain ⟨a', hopen, hpass⟩ := openPass_merged hnow hqm
      (coreList_congr (hworks.1 _ fun h => h.1 rfl)) (bit_of_reg Reg.pwrStatus 44 (hworks.1 _ fun h => h.2 (by decide))) j
    obtain ⟨t, hnext, hattn, htqm, htmem, htfree⟩ := running_attn hup hst (hwork.trans ((tileMerged_ok hok).trans hopen))
    exact ⟨t, a', hnext, htfree.trans hfree, a.staysIn_congr (htqm.trans hqm), hattn, hlands t htmem, hpass⟩
  · obtain ⟨st, hstop⟩ := Option.ne_none_iff_exists'.1 hbad
    obtain ⟨t, hnext, htqm, htmem, htfree⟩ := running_next hup hst (hwork.trans (tileMerged_stops hstop))
    have hcalm := calm_stopRun x st (w.land c.val)
    exact ⟨t, hnext, htfree.trans (hcalm.free.trans hfree), (endsIn_stopRun hnow hqm st).congr htqm, hlands t (htmem.trans hcalm.mem)⟩

end Sys2Proof.Machine
end

section
/-!
O42 is refuted by a block that stands on Hearth 8, which its frame of an arrival does not exclude; for a run on the device it holds.
-/
namespace Sys2Proof.Machine

/-- The names of the clauses say what O42 says. -/
theorem attentionRing_iff : Obligations.AttentionRing ↔ ∀ (s : State) (a : AttnRun) (x : Running), s.up = true → s.stopped = false →
    s.attnNow = some (a, x) → ReadsBlocks s a x ∧ BlocksArrive s a x ∧ AbsorbsBlocks s a x ∧ MergesTiles s a x := Iff.rfl

/-- A run on the device: its partition is one of the 16, so that no counter of its accesses shares a register with QM_PART, and its blocks stand in
buffers of the four Hearths. -/
structure AttnRun.OnDevice (a : AttnRun) : Prop where
  part : a.part < 16
  held : ∀ b ∈ a.held, b.hearth < 4

/-- O42 holds of every run on the device. -/
theorem attentionRing_of_onDevice {s : State} {a : AttnRun} {x : Running} (hup : s.up = true) (hst : s.stopped = false)
    (hnow : s.attnNow = some (a, x)) (hdev : a.OnDevice) : ReadsBlocks s a x ∧ BlocksArrive s a x ∧ AbsorbsBlocks s a x ∧ MergesTiles s a x :=
  ⟨readsBlocks hup hst hnow, blocksArrive hup hst hnow hdev.held, absorbsBlocks hup hst hnow, mergesTiles hup hst hnow hdev.part⟩

/-! ### A run that holds one block -/

/-- Block 0, of one key, in the buffer of Hearth `h`. -/
def soleBlock (h : Nat) : Held :=
  { hearth := h, block := 0, ccw := false, keys := [0], vals := [], segs := [], done := [], sent := false, sentBack := false }

/-- A run on partition 0 that holds it. -/
def soleRun (h : Nat) : AttnRun := { part := 0, q := 0, uid := 0, prob := 0, tile0 := 0, line := false, held := [soleBlock h] }

/-- Its descriptor in EXEC, with bounds of 1. -/
def soleExec : Running where
  part := 0
  run := { q := 0, uid := 0, units := 1 }
  item :=
    { uid := 0, idx := 0, bytes := [], frames := [], bounds := [1, 1, 1, 1, 1, 1], rtab := [], reserves := true, finished := false, isOpen := false
      status := 0, info := 0, detail := 0, count := 0, flags := 0, loads := [] }

/-- A device that is up and runs it. -/
def soleState (h : Nat) : State :=
  { State.reset with
    boot := { step := 2 }
    attn := some (soleRun h)
    qm := { queues := [(0, { items := [soleExec.item] })], wins := [(0, { exec := some soleExec.run })] } }

theorem soleState_runs (h : Nat) : (soleState h).up = true ∧ (soleState h).stopped = false ∧ (soleState h).attnNow = some (soleRun h, soleExec) :=
  ⟨rfl, (by decide : State.reset.stopped = false), rfl⟩

/-- On Hearth 0 the block is on the device: what `attentionRing_of_onDevice` asks for is met. -/
theorem attentionRing_soleState : ReadsBlocks (soleState 0) (soleRun 0) soleExec ∧ BlocksArrive (soleState 0) (soleRun 0) soleExec ∧
    AbsorbsBlocks (soleState 0) (soleRun 0) soleExec ∧ MergesTiles (soleState 0) (soleRun 0) soleExec :=
  have ⟨hup, hst, hnow⟩ := soleState_runs 0
  attentionRing_of_onDevice hup hst hnow ⟨by decide, by decide⟩

/-- From Hearth 8 the block would go on to Hearth 1. -/
theorem soleBlock_arrives : arrival (soleState 8) (soleRun 8) (attnBlocks soleExec.item.bounds) 1 = some (soleBlock 8, false) := by decide

/-- Its byte is counted at DBG_BCNT 32 + 2 · 8, which is no counter of a Hearth buffer or of a Flue link. -/
theorem soleBlock_counted : (blockArrived 1 (soleBlock 8) false soleExec (soleRun 8) (soleState 8)).fld (Reg.dbgBcnt 48) 47 0 =
    ((soleState 8).fld (Reg.dbgBcnt 48) 47 0 + 1) % 2 ^ 48 := by
  have hcount : countBlock (soleState 8) 8 1 1 = bump (bump (soleState 8) 48 1) 35 1 := rfl
  rw [fld_congr (t := blockArrived 1 (soleBlock 8) false soleExec (soleRun 8) (soleState 8)) (s := countBlock (soleState 8) 8 1 1) rfl, hcount,
    fld_bump_byte, if_neg (by decide), fld_bump_self]

end Sys2Proof.Machine
end

section
open Sys2Proof Sys2Proof.Machine

/-- Refutes O42: the clause on arrivals lets only counters 32 to 47 of DBG_BCNT move, without asking that the block stands on one of the four Hearths.
From Hearth 8 a block of one byte moves counter 48. For a run on the device the statement holds: `attentionRing_of_onDevice`. -/
theorem not_attentionRing : ¬ Obligations.AttentionRing := by
  rw [attentionRing_iff]
  intro h
  obtain ⟨hup, hst, hnow⟩ := soleState_runs 8
  obtain ⟨-, harrive, -⟩ := h (soleState 8) (soleRun 8) soleExec hup hst hnow
  obtain ⟨t, a', hnext, -, -, honly, -⟩ := harrive 1 (soleBlock 8) false soleBlock_arrives
  rw [exec_attnBlockArrive_eq hup hst hnow soleBlock_arrives] at hnext
  injection hnext with ht
  have hsame : t.fld (Reg.dbgBcnt 48) 47 0 = (soleState 8).fld (Reg.dbgBcnt 48) 47 0 := fld_of_reg _ 47 0 (honly _ (by decide))
  rw [← ht, fld_keepQueue, show ((1 : Fin 4) : Nat) = 1 from rfl, soleBlock_counted] at hsame
  have hlt := fld_lt (soleState 8) (Reg.dbgBcnt 48) 47 0
  omega

end


section
/-!
SUPPORT. What the media engines do beside the pool and the streams: accesses of memory, reports, messages of the twin and semaphores. None of it moves
the status of the stream commands or the state of the twin.
-/
namespace Sys2Proof.Machine

/-! ### The frame -/

/-- The registers that work beside the streams may move. -/
def besideRegs (k : Nat) : Prop := k ≠ Reg.mediaScmdStat ∧ k ≠ Reg.relTwin

/-- The pool and the streams alone. -/
def State.mediaAlone (s : State) : State := { media := s.media }

/-- The pool and the streams, the status of the stream commands and the state of the twin are as they were. -/
abbrev Beside (s t : State) : Prop := Framed besideRegs State.mediaAlone s t

theorem besideRegs_bump (i : Nat) : besideRegs (Reg.dbgBcnt i) := by
  unfold besideRegs Reg.dbgBcnt Reg.mediaScmdStat Reg.relTwin
  omega

theorem counters_besideRegs : Counters besideRegs .mantel where
  bytes i _ := besideRegs_bump i
  port _ hc := nomatch hc
  errors i hi := by
    unfold besideRegs Reg.relCnt Reg.mediaScmdStat Reg.relTwin
    omega

section
variable {s t : State}

theorem Framed.media_eq (h : Beside s t) : t.media = s.media := (congrArg State.media h.2 :)

theorem stream?_of_media (h : t.media = s.media) (k : Nat) : t.stream? k = s.stream? k := congrArg (fun m : Media => tfind m.streams k) h

theorem buf?_of_media (h : t.media = s.media) (b : Nat) : t.buf? b = s.buf? b := congrArg (fun m : Media => tfind m.pool b) h

theorem Framed.stream?_eq (h : Beside s t) (k : Nat) : t.stream? k = s.stream? k := stream?_of_media h.media_eq k

theorem Framed.buf?_eq (h : Beside s t) (b : Nat) : t.buf? b = s.buf? b := buf?_of_media h.media_eq b

theorem Framed.scmdStat_eq (h : Beside s t) {lo : Nat} (hl : lo < 64) (hi : Nat) : t.fld Reg.mediaScmdStat hi lo = s.fld Reg.mediaScmdStat hi lo :=
  h.fld_eq (by simp [besideRegs, fieldKey, Nat.div_eq_of_lt hl]) hi

theorem Framed.primary_eq (h : Beside s t) : t.primary = s.primary := by
  have hfld : ∀ {lo}, lo < 64 → ∀ hi, t.fld Reg.relTwin hi lo = s.fld Reg.relTwin hi lo := fun hl hi =>
    h.fld_eq (by simp [besideRegs, fieldKey, Nat.div_eq_of_lt hl]) hi
  unfold State.primary State.paired
  rw [hfld (by decide), hfld (by decide)]

theorem Framed.beside (h : Works besideRegs s t) : Beside s t := ⟨h.1, (congrArg State.mediaAlone h.2 :)⟩

theorem Framed.besideNotes (h : Notes besideRegs s t) : Beside s t := ⟨h.1, (congrArg State.mediaAlone h.2 :)⟩

theorem beside_of_fields (hr : t.regs = s.regs) (hm : t.media = s.media) : Beside s t :=
  ⟨fun k _ => reg_congr hr k, congrArg (fun m : Media => ({ media := m } : State)) hm⟩

end

/-! ### Counters, reports and accesses -/

theorem beside_bump (s : State) (i n : Nat) : Beside s (bump s i n) := (reads_bump (besideRegs_bump i) s n).works.beside

theorem beside_reportUnnamed (s : State) (src e a0 a1 a2 : Nat) : Beside s (reportUnnamed s src e a0 a1 a2) :=
  (notes_reportUnnamed s src e a0 a1 a2).besideNotes

theorem beside_viol (s : State) (addr kind part : Nat) : Beside s (viol s addr kind part) :=
  (works_viol (by unfold besideRegs; decide) (by unfold besideRegs; decide) s addr kind part).beside

theorem beside_lostTaken (s : State) (w : Bool) (a n : Nat) : Beside s (s.lostTaken w a n) := (reads_lostTaken s w a n).works.beside

theorem beside_errUncorrectable (s : State) (k : Nat) : Beside s (errUncorrectable s k) := (reads_errUncorrectable counters_besideRegs s k).works.beside

theorem beside_countAccess (w : Bool) (s : State) (a n : Nat) : Beside s (countAccess .mantel w s a n) :=
  (reads_countAccess counters_besideRegs w s a n).works.beside

theorem beside_engRead (s : State) (a n : Nat) : Beside s (engRead s a n).1 := by
  unfold engRead
  split
  · exact .refl s
  · exact (reads_devRead counters_besideRegs s a n).works.beside

theorem beside_engWrite (s : State) (a : Nat) (bs : List Byte) : Beside s (engWrite s a bs) := by
  unfold engWrite
  split
  · exact beside_viol ..
  · exact .ite (beside_viol ..) (works_devWrite counters_besideRegs s a bs).beside

theorem beside_hostWrite (s : State) (a : Nat) (bs : List Byte) : Beside s (hostWrite s a bs) :=
  (notes_hostWrite (by unfold HasStatus besideRegs; decide) s a bs).besideNotes

theorem beside_spaceWrite (s : State) (host : Bool) (a : Nat) (bs : List Byte) : Beside s (spaceWrite s host a bs) :=
  .ite (beside_hostWrite ..) (beside_engWrite ..)

theorem beside_semField (f : Nat) (s : State) : Beside s (semField f s) := .ite (beside_of_fields rfl rfl) (.refl s)

/-! ### Rings, blocks and pictures -/

theorem beside_ringRead (s : State) (base size : Nat) (i : W32) (n : Nat) : Beside s (ringRead s base size i n).1 := by
  unfold ringRead
  dsimp only
  split
  · exact beside_engRead ..
  · exact .trans (beside_engRead ..) (beside_engRead ..)

theorem beside_ringStore (s : State) (base size : Nat) (i : W32) (bs : List Byte) : Beside s (ringStore s base size i bs) := by
  unfold ringStore
  dsimp only
  exact .ite (beside_engWrite ..) (.trans (beside_engWrite ..) (beside_engWrite ..))

theorem beside_writeStat (h : Nat) (s : State) : Beside s (writeStat h s) := by
  unfold writeStat
  split
  · exact .refl s
  · exact .ite (beside_spaceWrite ..) (.refl s)

theorem beside_ringIndex (h : Nat) (ana : Bool) (s : State) : Beside s (ringIndex h ana s) := by
  unfold ringIndex
  split
  · exact .refl s
  · exact beside_spaceWrite ..

theorem beside_writeMap (h : Nat) (par : List Byte) (p : Pic) (picked : Bool) (blocks : List MapBlock) (s : State) :
    Beside s (writeMap h par p picked blocks s) := by
  unfold writeMap
  exact .ite (.refl s) (.trans (beside_engWrite ..) (beside_semField ..))

theorem beside_putRows (n pitch k a : Nat) (bs : List Byte) (s : State) : Beside s (putRows n pitch k a bs s) := by
  induction k generalizing a bs s with
  | zero => exact .refl s
  | succ k ih => exact .trans (beside_engWrite ..) (ih ..)

theorem beside_putPicture (par : List Byte) (addr w h : Nat) (luma chroma : List Byte) (s : State) : Beside s (putPicture par addr w h luma chroma s) :=
  .trans (beside_putRows ..) (beside_putRows ..)

/-! ### The twin -/

theorem beside_sendFlit (f : Flit) (s : State) : Beside s (sendFlit f s) :=
  .trans (t := { s with twin := _ }) (beside_of_fields rfl rfl) (beside_bump ..)

theorem beside_pumpFlits (n : Nat) (s : State) : Beside s (pumpFlits n s) := by
  induction n generalizing s with
  | zero => exact .refl s
  | succ n ih =>
    unfold pumpFlits
    split
    · exact .refl s
    · exact .ite (.trans (.trans (t := { s with twin := _ }) (beside_of_fields rfl rfl) (beside_sendFlit ..)) (ih _)) (.refl s)

theorem beside_twinSend (typ : Nat) (cont : Bool) (payload : List Byte) (s : State) : Beside s (twinSend typ cont payload s) := by
  unfold twinSend pumpAll
  exact .trans (t := { s with twin := _ }) (beside_of_fields rfl rfl) (.ite (.refl _) (beside_pumpFlits ..))

theorem beside_sendOpen (h : Nat) (par : List Byte) (s : State) : Beside s (sendOpen h par s) := .trans (beside_twinSend ..) (beside_twinSend ..)

theorem beside_sendBits (h n : Nat) (i : W32) (bs : List Byte) (s : State) : Beside s (sendBits h n i bs s) := by
  induction n generalizing i bs s with
  | zero => exact .refl s
  | succ n ih =>
    cases bs with
    | nil => exact .refl s
    | cons b t => exact .trans (beside_twinSend ..) (ih ..)

theorem beside_sendPos (h : Nat) (rap : Bool) (num start : W32) (s : State) : Beside s (sendPos h rap num start s) := beside_twinSend ..

theorem beside_sendClose (h : Nat) (s : State) : Beside s (sendClose h s) := beside_twinSend ..

end Sys2Proof.Machine
end


section
/-!
SUPPORT. The rules of the pool and the streams: what a stream and a buffer are after each operation on them.
-/
namespace Sys2Proof.Machine

/-! ### Commands -/

@[simp] theorem stream?_keepQueue (s t : State) (k : Nat) : (keepQueue s t).stream? k = t.stream? k := rfl
@[simp] theorem buf?_keepQueue (s t : State) (b : Nat) : (keepQueue s t).buf? b = t.buf? b := rfl
@[simp] theorem stream?_bump (s : State) (i n k : Nat) : (bump s i n).stream? k = s.stream? k := (beside_bump s i n).stream?_eq k
@[simp] theorem buf?_bump (s : State) (i n b : Nat) : (bump s i n).buf? b = s.buf? b := (beside_bump s i n).buf?_eq b
@[simp] theorem primary_bump (s : State) (i n : Nat) : (bump s i n).primary = s.primary := (beside_bump s i n).primary_eq

/-- A host write that discards no half and meets no function-level reset acts at once while the engines run, be it a doorbell or not. -/
theorem live_orRecord {s : State} {i : Instr} {fn : Fn} (hw : writerOf i = some fn) (hup : s.up = true) (hs : s.stopped = false)
    (hh : tfind s.hif.held fn.num = none) (hf : s.hif.flr = []) (k : State → State) :
    live s (orRecord i k) = .next (keepQueue s (k (bump s 88 (writeBytes i)))) := by
  have hb : s.beforeWrite i = bump s 88 (writeBytes i) := by
    unfold State.beforeWrite
    dsimp only
    split
    · rfl
    · rw [hw]
      exact dropHeld_of_none (by simpa using hh)
  have hk : orRecord i k s = k (bump s 88 (writeBytes i)) := by
    unfold orRecord writerPasses
    rw [hb, hw]
    dsimp only
    rw [pastFlr_of_none (by simpa using hf), bump_stopped _ _ _ (by decide), hs]
    rfl
  unfold live gated always
  dsimp only
  rw [hup, if_pos rfl, hk]

/-! ### Streams -/

section
variable {s : State} {h : Nat} {x : Stream}

@[simp] theorem stream?_putStream_self (s : State) (h : Nat) (x : Stream) : (s.putStream h x).stream? h = some x := tfind_tput_self ..
theorem stream?_putStream_ne (s : State) {h k : Nat} (hk : k ≠ h) (x : Stream) : (s.putStream h x).stream? k = s.stream? k := tfind_tput_ne _ x hk
@[simp] theorem buf?_putStream (s : State) (h : Nat) (x : Stream) (b : Nat) : (s.putStream h x).buf? b = s.buf? b := rfl

theorem modStream_of (hx : s.stream? h = some x) (f : Stream → Stream) : s.modStream h f = s.putStream h (f x) := by
  unfold State.modStream
  rw [hx]

theorem modDec_of (hx : s.stream? h = some x) (f : Dec → Dec) : s.modDec h f = s.putStream h { x with dec := f x.dec } := modStream_of hx _
theorem modEnc_of (hx : s.stream? h = some x) (f : Enc → Enc) : s.modEnc h f = s.putStream h { x with enc := f x.enc } := modStream_of hx _

theorem stream?_modStream (hx : s.stream? h = some x) (f : Stream → Stream) : (s.modStream h f).stream? h = some (f x) := by
  rw [modStream_of hx, stream?_putStream_self]

theorem stream?_modDec (hx : s.stream? h = some x) (f : Dec → Dec) : (s.modDec h f).stream? h = some { x with dec := f x.dec } := stream?_modStream hx _
theorem stream?_modEnc (hx : s.stream? h = some x) (f : Enc → Enc) : (s.modEnc h f).stream? h = some { x with enc := f x.enc } := stream?_modStream hx _

theorem stream?_count (hx : s.stream? h = some x) (off n : Nat) :
    (count h off n s).stream? h = some { x with cnt := tset 0 x.cnt off (satAdd 32 (tget 0 x.cnt off) n) } := stream?_modStream hx _

theorem stream?_modStream_ne (s : State) {h k : Nat} (hk : k ≠ h) (f : Stream → Stream) : (s.modStream h f).stream? k = s.stream? k := by
  unfold State.modStream
  split
  · exact stream?_putStream_ne s hk _
  · rfl

@[simp] theorem buf?_modStream (s : State) (h : Nat) (f : Stream → Stream) (b : Nat) : (s.modStream h f).buf? b = s.buf? b := by
  unfold State.modStream
  split <;> rfl

@[simp] theorem modStream_regs (s : State) (h : Nat) (f : Stream → Stream) : (s.modStream h f).regs = s.regs := by
  unfold State.modStream
  split <;> rfl

@[simp] theorem modStream_mem (s : State) (h : Nat) (f : Stream → Stream) : (s.modStream h f).mem = s.mem := by
  unfold State.modStream
  split <;> rfl

@[simp] theorem buf?_modDec (s : State) (h : Nat) (f : Dec → Dec) (b : Nat) : (s.modDec h f).buf? b = s.buf? b := buf?_modStream ..
@[simp] theorem buf?_modEnc (s : State) (h : Nat) (f : Enc → Enc) (b : Nat) : (s.modEnc h f).buf? b = s.buf? b := buf?_modStream ..
@[simp] theorem buf?_count (h off n : Nat) (s : State) (b : Nat) : (count h off n s).buf? b = s.buf? b := buf?_modStream ..

end

/-! ### Buffers and marks -/

section
variable {s : State} {b : Nat} {z : Buf}

/-- The pool replaced. -/
def State.withPool (s : State) (p : Tab Buf) : State := { s with media := { s.media with pool := p } }

@[simp] theorem stream?_withPool (s : State) (p : Tab Buf) (k : Nat) : (s.withPool p).stream? k = s.stream? k := rfl

theorem modBuf_of (hz : s.buf? b = some z) (f : Buf → Buf) : s.modBuf b f = s.withPool (tput s.media.pool b (f z)) := by
  unfold State.modBuf
  rw [hz]
  rfl

theorem buf?_modBuf (hz : s.buf? b = some z) (f : Buf → Buf) : (s.modBuf b f).buf? b = some (f z) := by
  rw [modBuf_of hz]
  exact tfind_tput_self ..

@[simp] theorem stream?_modBuf (s : State) (b : Nat) (f : Buf → Buf) (k : Nat) : (s.modBuf b f).stream? k = s.stream? k := by
  unfold State.modBuf
  split <;> rfl

@[simp] theorem modBuf_regs (s : State) (b : Nat) (f : Buf → Buf) : (s.modBuf b f).regs = s.regs := by
  unfold State.modBuf
  split <;> rfl

/-- Buffers of an open stream are not reclaimed. -/
theorem reclaim_open {h : Nat} (ho : (s.stream? h).isSome = true) : reclaim s h = s := if_pos ho

/-- Buffers of a stream that is not open are free once they carry no mark. -/
theorem reclaim_gone {h : Nat} (ho : (s.stream? h).isSome = false) : reclaim s h =
    let pool := s.media.pool.filter fun x => !(x.2.owner == h && x.2.marks == 0 && !x.2.taken)
    { s with media := { s.media with
      pool := pool
      closed := if pool.any fun x => x.2.owner == h then s.media.closed else terase s.media.closed h } } := if_neg (by simp [ho])

@[simp] theorem stream?_reclaim (s : State) (h k : Nat) : (reclaim s h).stream? k = s.stream? k := by
  unfold reclaim
  split <;> rfl

@[simp] theorem reclaim_regs (s : State) (h : Nat) : (reclaim s h).regs = s.regs := by
  unfold reclaim
  split <;> rfl

@[simp] theorem stream?_setMark (b m : Nat) (v : Bool) (s : State) (k : Nat) : (setMark b m v s).stream? k = s.stream? k := by
  unfold setMark
  dsimp only
  split
  · split
    · exact stream?_modBuf ..
    · exact (stream?_reclaim ..).trans (stream?_modBuf ..)
  · rfl

@[simp] theorem setMark_regs (b m : Nat) (v : Bool) (s : State) : (setMark b m v s).regs = s.regs := by
  unfold setMark
  dsimp only
  split
  · split
    · exact modBuf_regs ..
    · exact (reclaim_regs ..).trans (modBuf_regs ..)
  · rfl

theorem setMark_true_of (hz : s.buf? b = some z) (m : Nat) :
    setMark b m true s = s.withPool (tput s.media.pool b (z.mark m true)) := by
  unfold setMark
  rw [hz]
  exact modBuf_of hz _

theorem buf?_setMark_true (hz : s.buf? b = some z) (m : Nat) : (setMark b m true s).buf? b = some (z.mark m true) := by
  rw [setMark_true_of hz]
  exact tfind_tput_self ..

theorem setMark_false_of (hz : s.buf? b = some z) (m : Nat) : setMark b m false s =
    reclaim (s.withPool (tput s.media.pool b (z.mark m false))) z.owner := by
  unfold setMark
  rw [hz]
  dsimp only
  rw [modBuf_of hz]
  rfl

theorem has_mark_true (z : Buf) {m : Nat} (hm : m < 8) : (z.mark m true).has m = true := by
  unfold Buf.has Buf.mark
  rw [BitVec.toNat_ofNat, Nat.testBit_mod_two_pow, nput_testBit _ _ _ _ _ (by omega)]
  simp [hm]

theorem freeBuf_some {h : Nat} (hb : s.freeBuf h b = true) : ∃ z, s.buf? b = some z := by
  unfold State.freeBuf at hb
  split at hb
  · exact ⟨_, by assumption⟩
  · exact nomatch hb

/-- A fold that leaves a stream alone in every step leaves it alone. -/
theorem stream?_foldl {α : Type} {g : State → α → State} {k : Nat} (hg : ∀ s a, (g s a).stream? k = s.stream? k) (l : List α) (s : State) :
    (l.foldl g s).stream? k = s.stream? k := by
  induction l generalizing s with
  | nil => rfl
  | cons a l ih => exact (ih _).trans (hg s a)

theorem regs_foldl {α : Type} {g : State → α → State} (hg : ∀ s a, (g s a).regs = s.regs) (l : List α) (s : State) : (l.foldl g s).regs = s.regs := by
  induction l generalizing s with
  | nil => rfl
  | cons a l ih => exact (ih _).trans (hg s a)

@[simp] theorem stream?_dropRefs (h : Nat) (s : State) (k : Nat) : (dropRefs h s).stream? k = s.stream? k :=
  stream?_foldl (fun _ _ => (stream?_setMark ..).trans (stream?_setMark ..)) _ s

@[simp] theorem dropRefs_regs (h : Nat) (s : State) : (dropRefs h s).regs = s.regs :=
  regs_foldl (fun _ _ => (setMark_regs ..).trans (setMark_regs ..)) _ s

end

/-! ### What is counted on the way -/

/-- Of the streams and the pool, only counters in the status block of one stream may have moved. -/
structure Tallies (h : Nat) (s t : State) : Prop where
  stream : ∀ x, s.stream? h = some x → ∃ c, t.stream? h = some { x with cnt := c }
  buf : ∀ b, t.buf? b = s.buf? b

section
variable {h : Nat} {s t u : State}

theorem Tallies.trans (p : Tallies h s t) (q : Tallies h t u) : Tallies h s u where
  stream x hx := by
    obtain ⟨c, hc⟩ := p.stream x hx
    obtain ⟨c', hc'⟩ := q.stream _ hc
    exact ⟨c', hc'⟩
  buf b := (q.buf b).trans (p.buf b)

theorem Framed.tallies (p : Beside s t) (h : Nat) : Tallies h s t where
  stream x hx := ⟨x.cnt, (p.stream?_eq h).trans hx⟩
  buf := p.buf?_eq

theorem Tallies.refl (h : Nat) (s : State) : Tallies h s s := Framed.tallies (.refl s) h

theorem Tallies.ite {c : Prop} [Decidable c] (p : Tallies h s t) (q : Tallies h s u) : Tallies h s (if c then t else u) := by
  split
  · exact p
  · exact q

theorem Tallies.foldl {α : Type} {g : State → α → State} (hg : ∀ s a, Tallies h s (g s a)) (l : List α) (s : State) : Tallies h s (l.foldl g s) := by
  induction l generalizing s with
  | nil => exact .refl h s
  | cons a l ih => exact (hg s a).trans (ih _)

theorem tallies_count (h off n : Nat) (s : State) : Tallies h s (count h off n s) where
  stream _ hx := ⟨_, stream?_count hx off n⟩
  buf := buf?_count h off n s

theorem tallies_mediaPoison (h off : Nat) (ks : List Nat) (s : State) : Tallies h s (mediaPoison h off ks s) := by
  refine .foldl (fun s k => .trans (.trans ?_ ((beside_reportUnnamed ..).tallies h)) (tallies_count ..)) ks s
  exact (Framed.ite (beside_errUncorrectable ..) (beside_lostTaken ..)).tallies h

theorem tallies_mediaRead (h off a n : Nat) (s : State) : Tallies h s (mediaRead h off a n s).1 := by
  unfold mediaRead
  split
  · exact .refl h s
  · exact .trans ((Framed.trans (beside_countAccess ..) (beside_lostTaken ..)).tallies h) (tallies_mediaPoison ..)

theorem tallies_unitRead (h : Nat) (par : List Byte) (i : W32) (n : Nat) (s : State) : Tallies h s (unitRead h par i n s).1 := by
  unfold unitRead
  dsimp only
  split
  · exact tallies_mediaRead ..
  · exact .trans (tallies_mediaRead ..) (tallies_mediaRead ..)

end

/-! ### The status block and the end of a stream -/

section
variable {s : State} {h : Nat} {x : Stream}

@[simp] theorem stream?_writeStat (h : Nat) (s : State) (k : Nat) : (writeStat h s).stream? k = s.stream? k := (beside_writeStat h s).stream?_eq k
@[simp] theorem buf?_writeStat (h : Nat) (s : State) (b : Nat) : (writeStat h s).buf? b = s.buf? b := (beside_writeStat h s).buf?_eq b
@[simp] theorem writeStat_media (h : Nat) (s : State) : (writeStat h s).media = s.media := (beside_writeStat h s).media_eq

/-- A stream of which everything has been decoded and emitted stops flushing. -/
def Stream.settled (x : Stream) : Stream :=
  let d := x.dec
  if d.flushing && d.units.isEmpty && d.parsing.isNone && d.half.isNone && d.frames.isEmpty && d.due.isEmpty then
    { x with st := 3, dec := { d with flushing := false } }
  else x

/-- Settling moves the state and the flushing of a stream alone, and a stream that no longer flushes is in FLUSHED. -/
theorem settled_eq (x : Stream) : ∃ st fl, x.settled = { x with st := st, dec := { x.dec with flushing := fl } } ∧ (fl = x.dec.flushing ∨ st = 3) := by
  unfold Stream.settled
  dsimp only
  split
  · exact ⟨3, false, rfl, .inr rfl⟩
  · exact ⟨x.st, x.dec.flushing, rfl, .inl rfl⟩

theorem stream?_settle (hx : s.stream? h = some x) : (settle h s).stream? h = some x.settled := stream?_modStream hx _
@[simp] theorem buf?_settle (h : Nat) (s : State) (b : Nat) : (settle h s).buf? b = s.buf? b := buf?_modStream ..

/-- A stream that is not being closed stays. -/
theorem closeStep_open (hx : s.stream? h = some x) (hc : x.closing = false) : closeStep h s = s := by
  unfold closeStep
  rw [hx]
  simp [hc]

/-- A stream that is not being closed settles, and its status block is written. -/
theorem stream?_settled_written (hx : s.stream? h = some x) : (writeStat h (settle h s)).stream? h = some x.settled := by
  rw [stream?_writeStat, stream?_settle hx]

theorem closing_settled (x : Stream) : x.settled.closing = x.closing := by
  obtain ⟨st, fl, he, -⟩ := settled_eq x
  rw [he]

/-- The end of an event on a stream that is not being closed. -/
theorem stream?_eventEnd (hx : s.stream? h = some x) (hc : x.closing = false) : (closeStep h (writeStat h (settle h s))).stream? h = some x.settled := by
  have hw := stream?_settled_written hx
  rw [closeStep_open hw ((closing_settled x).trans hc), hw]

end

end Sys2Proof.Machine
end


section
/-!
SUPPORT. The input of a decode stream and the frames that its parser makes whole (R231, R238 to R243, R254).
-/
namespace Sys2Proof.Machine

/-! ### Frames that are whole -/

/-- A decode stream that takes a parsed frame: its number, its count, its place among the frames, and what the twin needs of it. -/
def Dec.withFrame (d : Dec) (f : HalfFrame) : Dec :=
  { d with
    num := f.pic.num + 1
    count := f.pic.count + (if nbit f.pic.flags 0 then 0 else 1)
    frames := d.frames ++ [f.pic]
    raps := if f.rap then d.raps ++ [(f.pic.num, f.start)] else d.raps
    ends := if d.mirrored then d.ends ++ [(f.pic.num, f.fin)] else [] }

section
variable {s : State} {h : Nat} {x : Stream}

theorem stream?_frameParsed (hx : s.stream? h = some x) (f : HalfFrame) :
    (frameParsed h f s).stream? h = some { x with dec := x.dec.withFrame f } := by
  unfold frameParsed
  rw [hx]
  have hmap : Beside s (if x.dec.refsOnly f.pic.num then s else writeMap h x.par f.pic (pickedNow x f.pic (x.dec.refsOnly f.pic.num)) f.map s) :=
    .ite (.refl s) (beside_writeMap ..)
  exact stream?_modDec ((hmap.stream?_eq h).trans hx) _

theorem halfParsed_whole (hx : s.stream? h = some x) (hh : x.dec.half = none) : halfParsed h s = s := by
  unfold halfParsed
  rw [hx]
  dsimp only
  rw [hh]

theorem stream?_halfParsed (hx : s.stream? h = some x) {f : HalfFrame} (hh : x.dec.half = some f) :
    (halfParsed h s).stream? h = some { x with dec := { x.dec with half := none }.withFrame f } := by
  unfold halfParsed
  rw [hx]
  dsimp only
  rw [hh]
  exact stream?_frameParsed (stream?_modDec hx _) f

/-! ### Input -/

/-- The input of a stream has grown by complete access units alone, and nothing of it has been parsed. -/
structure Fed (x y : Stream) : Prop where
  par : y.par = x.par
  write : y.dec.write = x.dec.write
  pos : y.dec.pos = x.dec.pos
  units : ∃ es, y.dec.units = x.dec.units ++ es

theorem Fed.of_same {x y : Stream} (hp : y.par = x.par) (hw : y.dec.write = x.dec.write) (ho : y.dec.pos = x.dec.pos) (hu : y.dec.units = x.dec.units) :
    Fed x y := ⟨hp, hw, ho, [], hu.trans (List.append_nil _).symm⟩

theorem Fed.refl (x : Stream) : Fed x x := .of_same rfl rfl rfl rfl

theorem Fed.trans {x y z : Stream} (p : Fed x y) (q : Fed y z) : Fed x z := by
  obtain ⟨hp, hw, ho, es, hu⟩ := p
  obtain ⟨hp', hw', ho', es', hu'⟩ := q
  exact ⟨hp'.trans hp, hw'.trans hw, ho'.trans ho, es ++ es', by rw [hu', hu, List.append_assoc]⟩

theorem fed_settled (x : Stream) : Fed x x.settled := by
  obtain ⟨st, fl, he, -⟩ := settled_eq x
  rw [he]
  exact .of_same rfl rfl rfl rfl

/-- Ends of access units are added behind those that are known, and nothing else changes. -/
theorem addEnds_units (w : W32) (t : W64) (ends : List W32) (d : Dec) : ∃ es, addEnds w t ends d = { d with units := d.units ++ es } := by
  induction ends generalizing d with
  | nil => exact ⟨[], by rw [List.append_nil]; rfl⟩
  | cons e ends ih =>
    unfold addEnds
    dsimp only
    split
    · obtain ⟨es, he⟩ := ih { d with units := d.units ++ [(e, t)] }
      exact ⟨(e, t) :: es, by rw [he, List.append_assoc, List.singleton_append]⟩
    · exact ih d

theorem closeUnit_units (t : W64) (d : Dec) : ∃ es, closeUnit t d = { d with units := d.units ++ es } := by
  unfold closeUnit
  split
  · exact ⟨[], by rw [List.append_nil]⟩
  · exact ⟨_, rfl⟩

/-- The last frame of a stream that flushes is whole: the input is as it was. -/
theorem stream?_flushHalf (hx : s.stream? h = some x) :
    ∃ y, (flushHalf h s).stream? h = some y ∧ Fed x y ∧ y.dec.flushing = x.dec.flushing := by
  unfold flushHalf
  rw [hx]
  dsimp only
  split
  · cases hh : x.dec.half with
    | none => exact ⟨x, by rw [halfParsed_whole hx hh, hx], .refl x, rfl⟩
    | some f => exact ⟨_, stream?_halfParsed hx hh, .of_same rfl rfl rfl rfl, rfl⟩
  · exact ⟨x, hx, .refl x, rfl⟩

theorem flushHalf_whole (hx : s.stream? h = some x) (hh : x.dec.half = none) : flushHalf h s = s := by
  unfold flushHalf
  rw [hx]
  dsimp only
  rw [halfParsed_whole hx hh, ite_self]

/-- The end of input: the stream flushes, or all of it has been decoded and emitted. -/
theorem stream?_flushStream (hx : s.stream? h = some x) :
    ∃ y, (flushStream h s).stream? h = some y ∧ Fed x y ∧ (y.dec.flushing = true ∨ y.st = 3) := by
  obtain ⟨es, hu⟩ := closeUnit_units s.clock.timeF x.dec
  have hfl := stream?_modDec hx fun d => { closeUnit s.clock.timeF d with flushing := true }
  obtain ⟨y, hy, hfed, hflush⟩ := stream?_flushHalf hfl
  obtain ⟨st, fl, he, hfl'⟩ := settled_eq y
  refine ⟨y.settled, stream?_settle hy, .trans (.trans ?_ hfed) (fed_settled y), ?_⟩
  · exact ⟨rfl, by rw [hu], by rw [hu], es, by rw [hu]⟩
  · rw [he]
    exact hfl'.imp_left fun hf => hf.trans hflush

end
end Sys2Proof.Machine
end


section
/-!
O44. The commands of streams: OPEN, OPEN_ENC, CLOSE, FLUSH, SKIP_TO_RAP, FORCE_IDR, MEDIA_COMMIT, MEDIA_RELEASE and the requests of frames (R236, R237,
R243, R245, R247, R255, R384).
-/
namespace Sys2Proof.Machine

theorem exec_mediaOpen (fn : Fn) (h : Fin 1024) (s : State) :
    exec (.mediaOpen fn h) s = live s (orRecord (.mediaOpen fn h) (scmdOpen fn h.val false)) := rfl
theorem exec_mediaOpenEnc (fn : Fn) (h : Fin 1024) (s : State) :
    exec (.mediaOpenEnc fn h) s = live s (orRecord (.mediaOpenEnc fn h) (scmdOpen fn h.val true)) := rfl
theorem exec_mediaClose (fn : Fn) (h : Fin 1024) (s : State) : exec (.mediaClose fn h) s =
    live s (orRecord (.mediaClose fn h) (scmdOn fn h.val (fun k => isDecode k || isEncode k) (scmdClose h.val))) := rfl
theorem exec_mediaFlush (fn : Fn) (h : Fin 1024) (s : State) : exec (.mediaFlush fn h) s =
    live s (orRecord (.mediaFlush fn h) (scmdOn fn h.val isDecode fun s => scmdEnd 0 (writeStat h.val (flushStream h.val s)))) := rfl
theorem exec_mediaSkipToRap (fn : Fn) (h : Fin 1024) (s : State) : exec (.mediaSkipToRap fn h) s =
    live s (orRecord (.mediaSkipToRap fn h) (scmdOn fn h.val isDecode fun s =>
      scmdEnd 0 (writeStat h.val (s.modDec h.val fun d => { d with needRap := true })))) := rfl
theorem exec_mediaForceIdr (fn : Fn) (h : Fin 1024) (s : State) : exec (.mediaForceIdr fn h) s =
    live s (orRecord (.mediaForceIdr fn h) (scmdOn fn h.val isEncode fun s =>
      scmdEnd 0 (writeStat h.val (s.modEnc h.val fun e => { e with idrDue := true })))) := rfl
theorem exec_releaseOut (fn : Fn) (b : Fin 16384) (s : State) :
    exec (.releaseOut fn b) s = live s (orRecord (.releaseOut fn b) (releaseMark fn b.val mkOut)) := rfl
theorem exec_releaseHold (fn : Fn) (b : Fin 16384) (s : State) :
    exec (.releaseHold fn b) s = live s (orRecord (.releaseHold fn b) (releaseMark fn b.val mkHold)) := rfl
theorem exec_reconReq (fn : Fn) (h : Fin 1024) (next : Bool) (num : W32) (s : State) :
    exec (.reconReq fn h next num) s = live s (orRecord (.reconReq fn h next num) (reconReq fn h.val next num)) := rfl
theorem exec_mediaCommit (fn : Fn) (s : State) : exec (.mediaCommit fn) s = bar0 fn 4 s (mediaCommit fn) := rfl

/-! ### The end of a command -/

/-- The status of the stream commands shows the end of one with a result code. -/
def Reported (code : Nat) (t : State) : Prop := t.fld Reg.mediaScmdStat 11 8 = code ∧ t.bit Reg.mediaScmdStat 1 = true

theorem reported_scmdEnd {code : Nat} (hc : code < 16) (s : State) : Reported code (scmdEnd code s) := by
  refine ⟨?_, bit_setBit_self ..⟩
  have hne : (scmdEnd code s).fld Reg.mediaScmdStat 11 8 = (s.setFld Reg.mediaScmdStat 11 8 code).fld Reg.mediaScmdStat 11 8 :=
    fld_setFld_ne _ (by decide) (by decide) (by decide) (by decide) (.inr (by decide))
  rw [hne, fld_setFld_self _ (by decide) (by decide)]
  exact Nat.mod_eq_of_lt hc

theorem reported_keepQueue {code : Nat} {s t : State} (h : Reported code t) : Reported code (keepQueue s t) := by
  simpa [Reported] using h

@[simp] theorem scmdEnd_media (code : Nat) (s : State) : (scmdEnd code s).media = s.media := by simp [scmdEnd]
@[simp] theorem stream?_scmdEnd (code : Nat) (s : State) (k : Nat) : (scmdEnd code s).stream? k = s.stream? k := stream?_of_media (scmdEnd_media code s) k

/-! ### OPEN and OPEN_ENC -/

/-- How an open ends: an opened decode stream goes to the partner of a pair, and the result is reported. -/
def openEnds (fn : Fn) (h : Nat) (enc : Bool) (par : List Byte) (p : State × Nat) : State :=
  let s := if p.2 = 0 && !enc && p.1.primary then sendOpen h par (p.1.modDec h fun d => { d with mirrored := true }) else p.1
  scmdEnd p.2 (if p.2 = 0 || (s.stream? h).any (mayStream s fn) then writeStat h s else s)

section
variable {u v : State} {fn : Fn} {h : Nat} {par : List Byte}

/-- An open whose block is read without poison, by a function of its partition. -/
theorem scmdOpen_read (hb : u.bit Reg.mediaScmdStat 0 = false) (hr : engRead u (u.fld Reg.mediaScmdAddr 39 6 * 64) 128 = (v, par, none))
    (hp : v.mayPart fn (pPart par) = true) (enc : Bool) :
    scmdOpen fn h enc u = openEnds fn h enc par (if enc then openEncode h par v else openDecode h par v) := by
  unfold scmdOpen
  rw [hb, hr]
  dsimp only
  rw [hp]
  rfl

theorem openEnds_failed {code : Nat} (hc : code ≠ 0) (h16 : code < 16) (enc : Bool) (s : State) :
    Reported code (openEnds fn h enc par (s, code)) ∧ (openEnds fn h enc par (s, code)).media = s.media := by
  refine ⟨reported_scmdEnd h16 _, ?_⟩
  unfold openEnds
  simp only [hc, decide_false, Bool.false_and, Bool.false_eq_true, if_false, Bool.false_or, scmdEnd_media]
  split
  · exact writeStat_media ..
  · rfl

/-- A stream opened with its buffers. -/
def openedState (h : Nat) (x : Stream) (pool : Tab Buf) (s : State) : State := (s.withPool pool).putStream h x

theorem openStream_ok {kind : StreamKind} {frames segs syn : Nat} {pat : Buf} {pool : Tab Buf} (hb : handleBusy v h = false)
    (hr : reserve v frames pat segs syn par = .ok pool) : openStream h kind par frames segs syn pat v =
      (openedState h { kind := kind, par := par, sp0 := openSp0 par, sp1 := openSp1 par } pool v, 0) := by
  unfold openStream
  rw [hb, hr]
  rfl

theorem openedState_primary (h : Nat) (x : Stream) (pool : Tab Buf) (s : State) : (openedState h x pool s).primary = s.primary := rfl

theorem modDec_pool {s : State} {x : Stream} (hx : s.stream? h = some x) (f : Dec → Dec) : (s.modDec h f).media.pool = s.media.pool := by
  rw [modDec_of hx]
  rfl

/-- What an opened stream is, and what else stands. -/
structure Opened (h : Nat) (x : Stream) (pool : Tab Buf) (v t : State) : Prop where
  pool : t.media.pool = pool
  stream : t.stream? h = some x
  others : ∀ k, k ≠ h → t.stream? k = v.stream? k

theorem opened_openedState (h : Nat) (x : Stream) (pool : Tab Buf) (v : State) : Opened h x pool v (openedState h x pool v) :=
  ⟨rfl, stream?_putStream_self .., fun _ hk => stream?_putStream_ne _ hk x⟩

theorem Opened.beside {x : Stream} {pool : Tab Buf} {s t : State} (ho : Opened h x pool v s) (hb : Beside s t) : Opened h x pool v t :=
  ⟨(congrArg Media.pool hb.media_eq).trans ho.pool, (hb.stream?_eq h).trans ho.stream, fun k hk => (hb.stream?_eq k).trans (ho.others k hk)⟩

theorem Opened.media {x : Stream} {pool : Tab Buf} {s t : State} (ho : Opened h x pool v s) (hm : t.media = s.media) : Opened h x pool v t :=
  ⟨(congrArg Media.pool hm).trans ho.pool, (stream?_of_media hm h).trans ho.stream, fun k hk => (stream?_of_media hm k).trans (ho.others k hk)⟩

theorem Opened.mirrored {x : Stream} {pool : Tab Buf} {s : State} (ho : Opened h x pool v s) :
    Opened h { x with dec := { x.dec with mirrored := true } } pool v (s.modDec h fun d => { d with mirrored := true }) :=
  ⟨(modDec_pool ho.stream _).trans ho.pool, stream?_modDec ho.stream _, fun k hk => (stream?_modStream_ne s hk _).trans (ho.others k hk)⟩

theorem openEnds_encode {x : Stream} {pool : Tab Buf} {s : State} (ho : Opened h x pool v s) :
    Reported 0 (openEnds fn h true par (s, 0)) ∧ Opened h x pool v (openEnds fn h true par (s, 0)) := by
  refine ⟨reported_scmdEnd (by decide) _, ho.media ?_⟩
  simp [openEnds]

theorem openEnds_decode {x : Stream} {pool : Tab Buf} {s : State} (ho : Opened h x pool v s) (hx : x.dec.mirrored = false) :
    Reported 0 (openEnds fn h false par (s, 0)) ∧
      Opened h { x with dec := { x.dec with mirrored := s.primary } } pool v (openEnds fn h false par (s, 0)) := by
  refine ⟨reported_scmdEnd (by decide) _, ?_⟩
  unfold openEnds
  cases hp : s.primary with
  | true => exact (ho.mirrored.beside (beside_sendOpen h par _)).media (by simp)
  | false =>
    rw [← hx]
    exact ho.media (by simp)

end

theorem openDecode_bad {par : List Byte} (hbad : decodeBad par = true) (h : Nat) (v : State) : openDecode h par v = (v, 1) := if_pos hbad

theorem openEncode_bad {par : List Byte} (hbad : encodeBad par = true) (h : Nat) (v : State) : openEncode h par v = (v, 1) := if_pos hbad

theorem openDecode_ok {v : State} {h : Nat} {par : List Byte} {pool : Tab Buf} (hok : decodeBad par = false) (hfree : handleBusy v h = false)
    (hres : reserve v (pDpb par + pOutDepth par + pHold par) (framePat h par) (pSegCount par) (pSynChunks par) par = .ok pool) :
    openDecode h par v = (openedState h { kind := .decode, par := par, sp0 := openSp0 par, sp1 := openSp1 par } pool v, 0) := by
  unfold openDecode
  rw [hok]
  exact openStream_ok hfree hres

theorem openEncode_ok {v : State} {h : Nat} {par : List Byte} {pool : Tab Buf} (hok : encodeBad par = false) (hfree : handleBusy v h = false)
    (hres : reserve v (2 + pOutDepth par) (framePat h par) (pSegCount par) 0 par = .ok pool) :
    openEncode h par v = (openedState h { kind := .encode, par := par, sp0 := openSp0 par, sp1 := openSp1 par } pool v, 0) := by
  unfold openEncode
  rw [hok]
  exact openStream_ok hfree hres

theorem beside_of_engRead {u v : State} {a n : Nat} {bs : List Byte} {p : Option Nat} (hr : engRead u a n = (v, bs, p)) : Beside u v := by
  have hread := beside_engRead u a n
  rwa [hr] at hread

/-- A bad block changes neither the pool nor a stream. -/
theorem openEnds_bad {s v : State} (hv : Beside (bump s 88 4) v) (fn : Fn) (h : Nat) (enc : Bool) (par : List Byte) :
    Reported 1 (keepQueue s (openEnds fn h enc par (v, 1))) ∧ (keepQueue s (openEnds fn h enc par (v, 1))).media = s.media := by
  obtain ⟨hrep, hm⟩ := openEnds_failed (fn := fn) (h := h) (par := par) (by decide : 1 ≠ 0) (by decide) enc v
  exact ⟨reported_keepQueue hrep, by rw [keepQueue_media, hm, hv.media_eq, bump_media]⟩

theorem Opened.command {s v t : State} {h : Nat} {x : Stream} {pool : Tab Buf} (hv : Beside (bump s 88 4) v) (ho : Opened h x pool v t) :
    Opened h x pool s (keepQueue s t) :=
  ⟨ho.pool, ho.stream, fun k hk => (ho.others k hk).trans ((hv.stream?_eq k).trans (stream?_bump s 88 4 k))⟩

section
variable {s v : State} {fn : Fn} {h : Fin 1024} {par : List Byte} (hup : s.up = true) (hst : s.stopped = false)
  (hh : tfind s.hif.held fn.num = none) (hf : s.hif.flr = []) (hb : (bump s 88 4).bit Reg.mediaScmdStat 0 = false)
  (hr : engRead (bump s 88 4) ((bump s 88 4).fld Reg.mediaScmdAddr 39 6 * 64) 128 = (v, par, none)) (hp : v.mayPart fn (pPart par) = true)
include hup hst hh hf hb hr hp

theorem exec_mediaOpen_read : exec (.mediaOpen fn h) s = .next (keepQueue s (openEnds fn h.val false par (openDecode h.val par v))) := by
  rw [exec_mediaOpen, live_orRecord rfl hup hst hh hf]
  exact congrArg (fun t => Host.Outcome.next (keepQueue s t)) (scmdOpen_read hb hr hp false)

theorem exec_mediaOpenEnc_read : exec (.mediaOpenEnc fn h) s = .next (keepQueue s (openEnds fn h.val true par (openEncode h.val par v))) := by
  rw [exec_mediaOpenEnc, live_orRecord rfl hup hst hh hf]
  exact congrArg (fun t => Host.Outcome.next (keepQueue s t)) (scmdOpen_read hb hr hp true)

theorem mediaOpen_bad (hbad : decodeBad par = true) : ∃ t, exec (.mediaOpen fn h) s = .next t ∧ Reported 1 t ∧ t.media = s.media := by
  rw [exec_mediaOpen_read hup hst hh hf hb hr hp, openDecode_bad hbad]
  exact ⟨_, rfl, openEnds_bad (beside_of_engRead hr) ..⟩

theorem mediaOpenEnc_bad (hbad : encodeBad par = true) : ∃ t, exec (.mediaOpenEnc fn h) s = .next t ∧ Reported 1 t ∧ t.media = s.media := by
  rw [exec_mediaOpenEnc_read hup hst hh hf hb hr hp, openEncode_bad hbad]
  exact ⟨_, rfl, openEnds_bad (beside_of_engRead hr) ..⟩

theorem mediaOpen_sound {pool : Tab Buf} (hfree : handleBusy v h.val = false) (hok : decodeBad par = false)
    (hres : reserve v (pDpb par + pOutDepth par + pHold par) (framePat h.val par) (pSegCount par) (pSynChunks par) par = .ok pool) :
    ∃ t, exec (.mediaOpen fn h) s = .next t ∧ Reported 0 t ∧
      Opened h.val { kind := .decode, par := par, sp0 := openSp0 par, sp1 := openSp1 par, dec := { mirrored := s.primary } } pool s t := by
  have hv := beside_of_engRead hr
  have hprim : v.primary = s.primary := hv.primary_eq.trans (primary_bump ..)
  obtain ⟨hrep, hopen⟩ := openEnds_decode (fn := fn) (par := par) (opened_openedState h.val
    { kind := .decode, par := par, sp0 := openSp0 par, sp1 := openSp1 par } pool v) rfl
  rw [openedState_primary, hprim] at hopen
  rw [exec_mediaOpen_read hup hst hh hf hb hr hp, openDecode_ok hok hfree hres]
  exact ⟨_, rfl, reported_keepQueue hrep, hopen.command hv⟩

theorem mediaOpenEnc_sound {pool : Tab Buf} (hfree : handleBusy v h.val = false) (hok : encodeBad par = false)
    (hres : reserve v (2 + pOutDepth par) (framePat h.val par) (pSegCount par) 0 par = .ok pool) :
    ∃ t, exec (.mediaOpenEnc fn h) s = .next t ∧ Reported 0 t ∧
      Opened h.val { kind := .encode, par := par, sp0 := openSp0 par, sp1 := openSp1 par } pool s t := by
  obtain ⟨hrep, hopen⟩ := openEnds_encode (fn := fn) (par := par) (opened_openedState h.val
    { kind := .encode, par := par, sp0 := openSp0 par, sp1 := openSp1 par } pool v)
  rw [exec_mediaOpenEnc_read hup hst hh hf hb hr hp, openEncode_ok hok hfree hres]
  exact ⟨_, rfl, reported_keepQueue hrep, hopen.command (beside_of_engRead hr)⟩

end
end Sys2Proof.Machine
end


section
/-!
O44. Commands on open streams, the commit of a set, releases and requests of frames (R237, R243, R245, R255, R384).
-/
namespace Sys2Proof.Machine

section
variable {s : State} {fn : Fn} {h : Nat} {x : Stream}

theorem scmdOn_wanted (ho : s.outside fn = false) (hb : s.bit Reg.mediaScmdStat 0 = false) (hx : s.stream? h = some x) (hm : mayStream s fn x = true)
    (hc : x.closing = false) {want : StreamKind → Bool} (hw : want x.kind = true) (k : State → State) : scmdOn fn h want k s = k s := by
  unfold scmdOn
  rw [ho, hb, hx]
  simp [hm, hw, hc]

theorem scmdOn_wrong (ho : s.outside fn = false) (hb : s.bit Reg.mediaScmdStat 0 = false) (hx : s.stream? h = some x) (hm : mayStream s fn x = true)
    {want : StreamKind → Bool} (hw : want x.kind = false) (k : State → State) : scmdOn fn h want k s = scmdEnd 6 (writeStat h s) := by
  unfold scmdOn
  rw [ho, hb, hx]
  simp [hm, hw]

/-! ### CLOSE -/

/-- A stream whose CLOSE has begun. -/
def Stream.closed (x : Stream) : Stream :=
  { x with closing := true, dec := { dropParsed x.dec with units := [], due := [], reqs := [] }, enc := { x.enc with subs := [] } }

theorem stream?_closeStream (hx : s.stream? h = some x) : (closeStream h s).stream? h = some x.closed := by
  unfold closeStream
  rw [hx]
  refine (stream?_modStream (x := x) ?_ _).trans rfl
  rw [stream?_foldl (fun _ _ => stream?_setMark ..), stream?_foldl (fun _ _ => stream?_setMark ..), stream?_dropRefs, hx]

theorem closeStream_regs (h : Nat) (s : State) : (closeStream h s).regs = s.regs := by
  unfold closeStream
  split
  · rfl
  · dsimp only
    rw [modStream_regs, regs_foldl (fun _ _ => setMark_regs ..), regs_foldl (fun _ _ => setMark_regs ..), dropRefs_regs]

/-- The status of the stream commands while a CLOSE runs. -/
def closeStatus (s : State) : State := ((s.setFld Reg.mediaScmdStat 11 8 0).setBit Reg.mediaScmdStat 0 true).setBit Reg.mediaScmdStat 1 false

/-- A CLOSE has begun on a stream. -/
def closeBegun (h : Nat) (s : State) : State :=
  { closeStream h (closeStatus s) with media := { (closeStream h (closeStatus s)).media with busy := some h } }

theorem scmdClose_eq (h : Nat) (s : State) : scmdClose h s = closeStep h (closeBegun h s) := rfl

theorem closeStatus_shows (s : State) : (closeStatus s).fld Reg.mediaScmdStat 11 8 = 0 ∧ (closeStatus s).bit Reg.mediaScmdStat 0 = true ∧
    (closeStatus s).bit Reg.mediaScmdStat 1 = false := by
  refine ⟨?_, ?_, bit_setBit_self ..⟩
  · unfold closeStatus State.setBit
    rw [fld_setFld_ne _ (by decide) (by decide) (by decide) (by decide) (.inr (by decide)),
      fld_setFld_ne _ (by decide) (by decide) (by decide) (by decide) (.inr (by decide)), fld_setFld_self _ (by decide) (by decide)]
    rfl
  · unfold closeStatus
    rw [bit_setBit_ne _ _ (by decide) (by decide) (by decide), bit_setBit_self]

theorem stream?_closeBegun (hx : s.stream? h = some x) : (closeBegun h s).stream? h = some x.closed := by
  have hst : (closeStatus s).stream? h = some x := (stream?_of_media (by simp [closeStatus]) h).trans hx
  exact stream?_closeStream hst

theorem closeBegun_regs (h : Nat) (s : State) : (closeBegun h s).regs = (closeStatus s).regs := closeStream_regs ..

/-- While an engine holds a frame of a stream, its CLOSE goes on. -/
theorem closeStep_held (hx : s.stream? h = some x) (hheld : x.dec.parsing.isSome = true ∨ x.dec.frames ≠ [] ∨ x.enc.run.isSome = true) :
    closeStep h s = s := by
  unfold closeStep
  rw [hx]
  refine if_neg fun hall => ?_
  simp only [Bool.and_eq_true, List.isEmpty_iff, Option.isNone_iff_eq_none] at hall
  obtain ⟨⟨⟨-, hp⟩, hfr⟩, hr⟩ := hall
  rcases hheld with hsome | hsome | hsome
  · rw [hp] at hsome
    exact nomatch hsome
  · exact hsome hfr
  · rw [hr] at hsome
    exact nomatch hsome

/-- The stream, its status written and its end sent to the partner, leaves the streams. -/
def streamGone (h : Nat) (closed : Tab Stream) (s : State) : State :=
  reclaim { s with media := { s.media with streams := terase s.media.streams h, closed := closed } } h

theorem stream?_streamGone (h : Nat) (closed : Tab Stream) (s : State) : (streamGone h closed s).stream? h = none :=
  (stream?_reclaim ..).trans (tfind_terase_self ..)

theorem reclaim_busy (s : State) (h : Nat) : (reclaim s h).media.busy = s.media.busy := by
  unfold reclaim
  split <;> rfl

theorem modStream_busy (s : State) (h : Nat) (f : Stream → Stream) : (s.modStream h f).media.busy = s.media.busy := by
  unfold State.modStream
  split <;> rfl

/-- The status of the stream commands when the CLOSE that runs has ended. -/
def closeReported (s : State) : State := ({ s with media := { s.media with busy := none } }.setBit Reg.mediaScmdStat 0 false).setBit Reg.mediaScmdStat 1 true

/-- Once no engine holds a frame of a stream that is being closed, it goes. -/
theorem closeStep_gone (hx : s.stream? h = some x) (hc : x.closing = true) (hp : x.dec.parsing = none) (hfr : x.dec.frames = []) (hr : x.enc.run = none)
    (hbusy : s.media.busy = some h) : ∃ u closed, Beside (s.modStream h fun x => { x with st := 0 }) u ∧ closeStep h s = closeReported (streamGone h closed u) := by
  let w := writeStat h (s.modStream h fun x => { x with st := 0 })
  let u := if (w.primary && x.dec.mirrored) = true then sendClose h w else w
  let closed := if (w.primary && x.dec.mirrored) = true then tput u.media.closed h x else u.media.closed
  have hu : Beside (s.modStream h fun x => { x with st := 0 }) u := .trans (beside_writeStat ..) (.ite (beside_sendClose ..) (.refl _))
  have hbusy' : (streamGone h closed u).media.busy = some h := by
    rw [streamGone, reclaim_busy]
    exact (congrArg Media.busy hu.media_eq).trans ((modStream_busy ..).trans hbusy)
  refine ⟨u, closed, hu, ?_⟩
  unfold closeStep
  rw [hx]
  simp only [hc, hp, hfr, hr, Option.isNone_none, List.isEmpty_nil, Bool.and_self, if_true]
  exact if_pos hbusy'

theorem fld_closeReported (s : State) : (closeReported s).fld Reg.mediaScmdStat 11 8 = s.fld Reg.mediaScmdStat 11 8 := by
  unfold closeReported State.setBit
  rw [fld_setFld_ne _ (by decide) (by decide) (by decide) (by decide) (.inr (by decide)),
    fld_setFld_ne _ (by decide) (by decide) (by decide) (by decide) (.inr (by decide))]
  rfl

theorem stream?_closeReported (s : State) (k : Nat) : (closeReported s).stream? k = s.stream? k := by
  refine (stream?_of_media (s := { s with media := { s.media with busy := none } }) ?_ k).trans rfl
  simp [closeReported]

theorem bits_closeReported (s : State) : (closeReported s).bit Reg.mediaScmdStat 0 = false ∧ (closeReported s).bit Reg.mediaScmdStat 1 = true := by
  refine ⟨?_, bit_setBit_self ..⟩
  unfold closeReported
  rw [bit_setBit_ne _ _ (by decide) (by decide) (by decide), bit_setBit_self]

/-- A frame list holds one on a pipe exactly when it is not dropped whole. -/
theorem dropParsed_frames_eq_nil (d : Dec) : (dropParsed d).frames = [] ↔ ∀ p ∈ d.frames, ∀ k b, p.stage ≠ .onPipe k b := by
  unfold dropParsed
  simp only [List.filter_eq_nil_iff]
  refine forall₂_congr fun p _ => ?_
  cases p.stage <;> simp

/-- CLOSE of a stream of which no engine holds a frame ends at once. -/
theorem scmdClose_ends (hx : s.stream? h = some x) (hp : x.dec.parsing = none) (hfr : ∀ p ∈ x.dec.frames, ∀ k b, p.stage ≠ .onPipe k b)
    (hr : x.enc.run = none) :
    (scmdClose h s).stream? h = none ∧ Reported 0 (scmdClose h s) ∧ (scmdClose h s).bit Reg.mediaScmdStat 0 = false := by
  obtain ⟨u, closed, hu, he⟩ := closeStep_gone (stream?_closeBegun hx) rfl hp ((dropParsed_frames_eq_nil x.dec).2 hfr) hr rfl
  have hregs : (streamGone h closed u).regs = u.regs := reclaim_regs ..
  obtain ⟨hfld, -, -⟩ := closeStatus_shows s
  obtain ⟨hb0, hb1⟩ := bits_closeReported (streamGone h closed u)
  rw [scmdClose_eq, he]
  refine ⟨?_, ⟨?_, hb1⟩, hb0⟩
  · rw [stream?_closeReported, stream?_streamGone]
  · rw [fld_closeReported, fld_congr hregs, hu.scmdStat_eq (by decide), fld_congr (modStream_regs ..), fld_congr (closeBegun_regs ..), hfld]

/-- CLOSE of a stream of which an engine holds a frame waits. -/
theorem scmdClose_waits (hx : s.stream? h = some x)
    (hheld : x.dec.parsing.isSome = true ∨ x.enc.run.isSome = true ∨ ∃ p ∈ x.dec.frames, ∃ k b, p.stage = .onPipe k b) :
    (scmdClose h s).stream? h = some x.closed ∧ (scmdClose h s).bit Reg.mediaScmdStat 0 = true ∧ (scmdClose h s).bit Reg.mediaScmdStat 1 = false := by
  have hbegun := stream?_closeBegun hx
  have hstay : closeStep h (closeBegun h s) = closeBegun h s := by
    refine closeStep_held hbegun ?_
    rcases hheld with hp | hr | ⟨p, hp, k, b, hs⟩
    · exact .inl hp
    · exact .inr (.inr hr)
    · exact .inr (.inl fun hn => (dropParsed_frames_eq_nil x.dec).1 hn p hp k b hs)
  obtain ⟨-, hb0, hb1⟩ := closeStatus_shows s
  rw [scmdClose_eq, hstay, hbegun, bit_congr (closeBegun_regs ..), bit_congr (closeBegun_regs ..)]
  exact ⟨rfl, hb0, hb1⟩

end

/-! ### Commands on an open stream -/

section
variable {s : State} {fn : Fn} {h : Fin 1024} {x : Stream} (hup : s.up = true) (hst : s.stopped = false)
  (hh : tfind s.hif.held fn.num = none) (hf : s.hif.flr = []) (hx : s.stream? h.val = some x) (ho : (bump s 88 4).outside fn = false)
  (hm : mayStream (bump s 88 4) fn x = true) (hb : (bump s 88 4).bit Reg.mediaScmdStat 0 = false)
include hup hst hh hf hx ho hm hb

/-- A command of a wanted kind on an open stream does its work. -/
theorem scmd_wanted (hc : x.closing = false) {i : Instr} (hw : writerOf i = some fn) (h4 : writeBytes i = 4) {want : StreamKind → Bool}
    (hwant : want x.kind = true) (k : State → State) : live s (orRecord i (scmdOn fn h.val want k)) = .next (keepQueue s (k (bump s 88 4))) := by
  rw [live_orRecord hw hup hst hh hf, h4, scmdOn_wanted ho hb ((stream?_bump ..).trans hx) hm hc hwant]

/-- A command of the wrong kind reports WRONG_STATE, and the stream is as it was. -/
theorem scmd_wrong {i : Instr} (hw : writerOf i = some fn) (h4 : writeBytes i = 4) {want : StreamKind → Bool}
    (hwant : want x.kind = false) (k : State → State) :
    ∃ t, live s (orRecord i (scmdOn fn h.val want k)) = .next t ∧ Reported 6 t ∧ t.media = s.media := by
  rw [live_orRecord hw hup hst hh hf, h4, scmdOn_wrong ho hb ((stream?_bump ..).trans hx) hm hwant]
  exact ⟨_, rfl, reported_keepQueue (reported_scmdEnd (by decide) _), by simp⟩

theorem mediaClose_ends (hc : x.closing = false) (hkind : x.kind = .decode ∨ x.kind = .encode) (hp : x.dec.parsing = none)
    (hfr : ∀ p ∈ x.dec.frames, ∀ k b, p.stage ≠ .onPipe k b) (hr : x.enc.run = none) :
    ∃ t, exec (.mediaClose fn h) s = .next t ∧ t.stream? h.val = none ∧ Reported 0 t ∧ t.bit Reg.mediaScmdStat 0 = false := by
  obtain ⟨hgone, hrep, hbusy⟩ := scmdClose_ends ((stream?_bump s 88 4 h.val).trans hx) hp hfr hr
  rw [exec_mediaClose, scmd_wanted hup hst hh hf hx ho hm hb hc rfl rfl (by rcases hkind with e | e <;> rw [e] <;> rfl)]
  exact ⟨_, rfl, hgone, reported_keepQueue hrep, by rw [bit_keepQueue, hbusy]⟩

theorem mediaClose_waits (hc : x.closing = false) (hkind : x.kind = .decode ∨ x.kind = .encode)
    (hheld : x.dec.parsing.isSome = true ∨ x.enc.run.isSome = true ∨ ∃ p ∈ x.dec.frames, ∃ k b, p.stage = .onPipe k b) :
    ∃ t, exec (.mediaClose fn h) s = .next t ∧ t.stream? h.val = some x.closed ∧ t.bit Reg.mediaScmdStat 0 = true ∧
      t.bit Reg.mediaScmdStat 1 = false := by
  obtain ⟨hstr, hb0, hb1⟩ := scmdClose_waits ((stream?_bump s 88 4 h.val).trans hx) hheld
  rw [exec_mediaClose, scmd_wanted hup hst hh hf hx ho hm hb hc rfl rfl (by rcases hkind with e | e <;> rw [e] <;> rfl)]
  exact ⟨_, rfl, hstr, by rw [bit_keepQueue, hb0], by rw [bit_keepQueue, hb1]⟩

theorem mediaFlush_flushes (hc : x.closing = false) (hkind : x.kind = .decode) :
    ∃ t y, exec (.mediaFlush fn h) s = .next t ∧ Reported 0 t ∧ t.stream? h.val = some y ∧ (y.dec.flushing = true ∨ y.st = 3) := by
  obtain ⟨y, hy, -, hflush⟩ := stream?_flushStream ((stream?_bump s 88 4 h.val).trans hx)
  rw [exec_mediaFlush, scmd_wanted hup hst hh hf hx ho hm hb hc rfl rfl (by rw [hkind]; rfl)]
  exact ⟨_, y, rfl, reported_keepQueue (reported_scmdEnd (by decide) _), by simpa using hy, hflush⟩

theorem mediaSkipToRap_awaits (hc : x.closing = false) (hkind : x.kind = .decode) :
    ∃ t, exec (.mediaSkipToRap fn h) s = .next t ∧ Reported 0 t ∧ t.stream? h.val = some { x with dec := { x.dec with needRap := true } } := by
  have hy := stream?_modDec ((stream?_bump s 88 4 h.val).trans hx) fun d => { d with needRap := true }
  rw [exec_mediaSkipToRap, scmd_wanted hup hst hh hf hx ho hm hb hc rfl rfl (by rw [hkind]; rfl)]
  exact ⟨_, rfl, reported_keepQueue (reported_scmdEnd (by decide) _), by simpa using hy⟩

theorem mediaForceIdr_due (hc : x.closing = false) (hkind : x.kind = .encode) :
    ∃ t, exec (.mediaForceIdr fn h) s = .next t ∧ Reported 0 t ∧ t.stream? h.val = some { x with enc := { x.enc with idrDue := true } } := by
  have hy := stream?_modEnc ((stream?_bump s 88 4 h.val).trans hx) fun e => { e with idrDue := true }
  rw [exec_mediaForceIdr, scmd_wanted hup hst hh hf hx ho hm hb hc rfl rfl (by rw [hkind]; rfl)]
  exact ⟨_, rfl, reported_keepQueue (reported_scmdEnd (by decide) _), by simpa using hy⟩

end

/-! ### MEDIA_COMMIT -/

section
variable {s : State} {fn : Fn} {h : Nat} {x : Stream}

/-- A set of a stream that is accepted: it waits for its adoption, and the pending values of the function are gone. -/
def setAccepted (n h : Nat) (a b : W64) (s : State) : State :=
  let t := s.modStream h fun x => { x with pend := some (a, b) }
  { t with media := { t.media with pend := terase (terase t.media.pend (fnKey n Reg.mediaSp0Pend)) (fnKey n Reg.mediaSp1Pend) } }.setBit Reg.mediaCommit 8
    false

/-- A set is judged for the stream that MEDIA_SSEL names. -/
theorem mediaCommit_judges (ho : s.outside fn = false) (hr : s.ready = true) (hsel : s.fld (fnKey fn.num Reg.mediaSsel) 9 0 = h)
    (hx : s.stream? h = some x) (hm : mayStream s fn x = true) {a b : W64}
    (ha : (tfind s.media.pend (fnKey fn.num Reg.mediaSp0Pend)).getD (acceptedSet x).1 = a)
    (hb : (tfind s.media.pend (fnKey fn.num Reg.mediaSp1Pend)).getD (acceptedSet x).2 = b) :
    mediaCommit fn s = if mediaSetBad x.kind a b then s.setBit Reg.mediaCommit 8 true else setAccepted fn.num h a b s := by
  subst ha hb
  unfold mediaCommit
  dsimp only
  rw [ho, hr, hsel, hx]
  simp only [hm]
  rfl

theorem mediaPend_keys_ne (n : Nat) : fnKey n Reg.mediaSp0Pend ≠ fnKey n Reg.mediaSp1Pend := by
  unfold fnKey
  intro e
  exact absurd (Nat.add_left_cancel e) (by decide)

theorem setAccepted_pending (n h : Nat) (a b : W64) (s : State) : (setAccepted n h a b s).pending = s.pending := by
  unfold setAccepted
  dsimp only
  rw [setBit_pending, modStream_pending]

theorem stream?_setAccepted (hx : s.stream? h = some x) (n : Nat) (a b : W64) :
    (setAccepted n h a b s).stream? h = some { x with pend := some (a, b) } := by
  have ht := stream?_modStream hx fun x => { x with pend := some (a, b) }
  unfold setAccepted
  dsimp only
  rw [stream?_of_media (setBit_media ..)]
  exact ht

theorem pend_setAccepted (n h : Nat) (a b : W64) (s : State) : tfind (setAccepted n h a b s).media.pend (fnKey n Reg.mediaSp0Pend) = none := by
  unfold setAccepted
  dsimp only
  rw [setBit_media]
  exact (tfind_terase_ne _ (mediaPend_keys_ne n)).trans (tfind_terase_self ..)

variable (hup : s.up = true) (hh : tfind s.hif.held fn.num = none) (hf : s.hif.flr = []) (hx : s.stream? h = some x)
  (ho : (bump s 88 4).outside fn = false) (hm : mayStream (bump s 88 4) fn x = true) (hr : (bump s 88 4).ready = true)
  (hsel : (bump s 88 4).fld (fnKey fn.num Reg.mediaSsel) 9 0 = h) {a b : W64}
  (ha : (tfind s.media.pend (fnKey fn.num Reg.mediaSp0Pend)).getD (acceptedSet x).1 = a)
  (hb : (tfind s.media.pend (fnKey fn.num Reg.mediaSp1Pend)).getD (acceptedSet x).2 = b)
include hup hh hf hx ho hm hr hsel ha hb

theorem exec_mediaCommit_rejects (hbad : mediaSetBad x.kind a b = true) :
    exec (.mediaCommit fn) s = .next ((bump s 88 4).setBit Reg.mediaCommit 8 true) := by
  rw [exec_mediaCommit]
  refine bar0_open hup hh hf ?_ (by simp)
  have hjudge := mediaCommit_judges (s := bump s 88 4) (a := a) (b := b) ho hr hsel ((stream?_bump ..).trans hx) hm (by rw [bump_media]; exact ha)
    (by rw [bump_media]; exact hb)
  rw [hjudge, if_pos hbad]

theorem exec_mediaCommit_accepts (hok : mediaSetBad x.kind a b = false) :
    ∃ t, exec (.mediaCommit fn) s = .next t ∧ t.stream? h = some { x with pend := some (a, b) } ∧ t.bit Reg.mediaCommit 8 = false ∧
      tfind t.media.pend (fnKey fn.num Reg.mediaSp0Pend) = none := by
  have hx' : (bump s 88 4).stream? h = some x := (stream?_bump ..).trans hx
  have hjudge := mediaCommit_judges (a := a) (b := b) ho hr hsel hx' hm (by rw [bump_media]; exact ha)
    (by rw [bump_media]; exact hb)
  rw [if_neg (by simp [hok])] at hjudge
  rw [exec_mediaCommit]
  exact ⟨_, bar0_open hup hh hf hjudge (setAccepted_pending ..), stream?_setAccepted hx' .., bit_setBit_self .., pend_setAccepted ..⟩

end

/-! ### MEDIA_RELEASE -/

/-- What a release of a mark leaves: the mark is off, and the buffers of a stream that is not open go to the free list with their last mark. -/
structure Released (s : State) (b m : Nat) (y : Buf) (t : State) : Prop where
  rest : t = { bump s 88 4 with media := { s.media with pool := t.media.pool, closed := t.media.closed } }
  owned : (s.stream? y.owner).isSome = true → t.media.pool = tput s.media.pool b (y.mark m false) ∧ t.media.closed = s.media.closed
  orphan : (s.stream? y.owner).isSome = false →
    t.media.pool = (tput s.media.pool b (y.mark m false)).filter (fun z => !(z.2.owner == y.owner && z.2.marks == 0 && !z.2.taken)) ∧
      t.media.closed = (if t.media.pool.any fun z => z.2.owner == y.owner then s.media.closed else terase s.media.closed y.owner)

section
variable {s : State} {b : Nat} {y : Buf}

theorem releaseMark_may {fn : Fn} (hy : s.buf? b = some y) (hm : s.mayPart fn y.part = true) (m : Nat) : releaseMark fn b m s = setMark b m false s := by
  unfold releaseMark
  rw [hy]
  simp [hm]

theorem released_setMark (hy : s.buf? b = some y) (m : Nat) : Released s b m y (setMark b m false (bump s 88 4)) := by
  have hmark := setMark_false_of (s := bump s 88 4) ((buf?_bump ..).trans hy) m
  have hstr : ∀ p, ((bump s 88 4).withPool p).stream? y.owner = s.stream? y.owner := fun p => stream?_bump s 88 4 y.owner
  rw [bump_media] at hmark
  cases ho : (s.stream? y.owner).isSome with
  | true =>
    rw [hmark, reclaim_open (by rw [hstr, ho])]
    exact ⟨rfl, fun _ => ⟨rfl, rfl⟩, fun hn => nomatch ho.symm.trans hn⟩
  | false =>
    rw [hmark, reclaim_gone (by rw [hstr, ho])]
    exact ⟨rfl, fun hs => (nomatch ho.symm.trans hs), fun _ => ⟨rfl, rfl⟩⟩

theorem exec_release {fn : Fn} (hup : s.up = true) (hst : s.stopped = false) (hh : tfind s.hif.held fn.num = none) (hf : s.hif.flr = [])
    (hy : s.buf? b = some y) (hm : (bump s 88 4).mayPart fn y.part = true) {i : Instr} (hw : writerOf i = some fn) (h4 : writeBytes i = 4) (m : Nat) :
    ∃ t, live s (orRecord i (releaseMark fn b m)) = .next t ∧ Released s b m y t := by
  have hrel := released_setMark hy m
  have hpend : (setMark b m false (bump s 88 4)).pending = s.pending :=
    (congrArg State.pending hrel.rest).trans (bump_pending s 88 4)
  rw [live_orRecord hw hup hst hh hf, h4, releaseMark_may ((buf?_bump ..).trans hy) hm, keepQueue_of_pending hpend]
  exact ⟨_, rfl, hrel⟩

end

/-! ### Requests of frames -/

section
variable {s : State} {fn : Fn} {h : Fin 1024} {x : Stream}

/-- A request for a future frame waits while fewer than eight do. -/
theorem reconReq_future {h : Nat} (hx : s.stream? h = some x) (hm : mayStream s fn x = true) (hk : x.kind = .decode) {num : W32}
    (ha : ahead32 num x.dec.num = true) (hl : x.dec.reqs.length < 8) :
    reconReq fn h false num s = s.putStream h { x with dec := { x.dec with reqs := x.dec.reqs ++ [some num] } } := by
  unfold reconReq
  rw [hx]
  dsimp only
  rw [if_neg (by simp [hm]), if_neg (by simp [hk]), ha, if_neg (by simp), if_pos hl]
  exact modDec_of hx _

theorem exec_reconReq_future (hup : s.up = true) (hst : s.stopped = false) (hh : tfind s.hif.held fn.num = none) (hf : s.hif.flr = [])
    (hx : s.stream? h.val = some x) (hm : mayStream (bump s 88 8) fn x = true) (hk : x.kind = .decode) {num : W32}
    (ha : ahead32 num x.dec.num = true) (hl : x.dec.reqs.length < 8) : exec (.reconReq fn h false num) s =
      .next ((bump s 88 8).putStream h.val { x with dec := { x.dec with reqs := x.dec.reqs ++ [some num] } }) := by
  have h8 : writeBytes (.reconReq fn h false num) = 8 := rfl
  rw [exec_reconReq, live_orRecord rfl hup hst hh hf, h8, reconReq_future ((stream?_bump ..).trans hx) hm hk ha hl]
  exact congrArg Host.Outcome.next (keepQueue_of_pending (bump_pending s 88 8))

end
end Sys2Proof.Machine
end


section
open Sys2Proof Sys2Proof.Machine

/-- Settles O44: each command comes to one case of its meaning, and the stream, the pool and the status of the commands are read off there. -/
theorem mediaStreamCommands : Obligations.MediaStreamCommands := by
  unfold Obligations.MediaStreamCommands
  intro s fn h hup hst hh hf
  refine ⟨fun hb v par hr hp => ⟨?_, ?_, ?_, ?_⟩, fun x hx ho hm hc => ⟨fun hb => ⟨fun hkind => ⟨?_, ?_⟩, fun hk => ⟨?_, ?_⟩, ?_, fun hk => ⟨?_, ?_⟩, ?_⟩,
    fun hr hsel => ⟨?_, ?_⟩⟩, fun b y hy hm => ⟨?_, ?_⟩, fun x num hx hm hk ha hl => ?_⟩
  · exact mediaOpen_bad hup hst hh hf hb hr hp
  · exact mediaOpenEnc_bad hup hst hh hf hb hr hp
  · intro pool hfree hok hres
    obtain ⟨t, ht, hrep, hpool, hstr, hoth⟩ := mediaOpen_sound hup hst hh hf hb hr hp hfree hok hres
    exact ⟨t, ht, hrep, hpool, hstr, hoth⟩
  · intro pool hfree hok hres
    obtain ⟨t, ht, hrep, hpool, hstr, hoth⟩ := mediaOpenEnc_sound hup hst hh hf hb hr hp hfree hok hres
    exact ⟨t, ht, hrep, hpool, hstr, hoth⟩
  · exact mediaClose_ends hup hst hh hf hx ho hm hb hc hkind
  · intro hheld
    obtain ⟨t, ht, hstr, hb0, hb1⟩ := mediaClose_waits hup hst hh hf hx ho hm hb hc hkind hheld
    exact ⟨t, x.closed, ht, hstr, rfl, rfl, rfl, rfl, hb0, hb1⟩
  · exact mediaFlush_flushes hup hst hh hf hx ho hm hb hc hk
  · exact mediaSkipToRap_awaits hup hst hh hf hx ho hm hb hc hk
  · exact mediaForceIdr_due hup hst hh hf hx ho hm hb hc
  · exact scmd_wrong hup hst hh hf hx ho hm hb rfl rfl (by simpa [isDecode] using hk) _
  · exact scmd_wrong hup hst hh hf hx ho hm hb rfl rfl (by simpa [isDecode] using hk) _
  · exact fun hk => scmd_wrong hup hst hh hf hx ho hm hb rfl rfl (by simpa [isEncode] using hk) _
  · exact exec_mediaCommit_rejects hup hh hf hx ho hm hr hsel rfl rfl
  · exact exec_mediaCommit_accepts hup hh hf hx ho hm hr hsel rfl rfl
  · obtain ⟨t, ht, hrest, howned, horphan⟩ := exec_release hup hst hh hf hy hm (i := .releaseOut fn b) rfl rfl mkOut
    exact ⟨t, (exec_releaseOut ..).trans ht, hrest, howned, horphan⟩
  · obtain ⟨t, ht, hrest, howned, horphan⟩ := exec_release hup hst hh hf hy hm (i := .releaseHold fn b) rfl rfl mkHold
    exact ⟨t, (exec_releaseHold ..).trans ht, hrest, howned, horphan⟩
  · exact exec_reconReq_future hup hst hh hf hx hm hk ha hl

end


section
/-!
O45. A decode stream takes input, and a bit engine parses it (R238 to R243, R251, R256).
-/
namespace Sys2Proof.Machine

theorem exec_mediaDoorbell (fn : Fn) (h : Fin 1024) (v : W64) (ends : List W32) (s : State) :
    exec (.mediaDoorbell fn h v ends) s = live s (orRecord (.mediaDoorbell fn h v ends) (mediaDb fn h.val v ends)) := rfl
theorem exec_auParseStart (h : Fin 1024) (g : Fin 8) (s : State) : exec (.auParseStart h g) s = running s (parseStart h.val g.val) := rfl
theorem exec_auParseDone (h : Fin 1024) (r : AuResult) (s : State) : exec (.auParseDone h r) s = running s (parseDone h.val r) := rfl

/-! ### A doorbell -/

section
variable {s : State} {fn : Fn} {h : Nat} {x : Stream}

theorem stream?_holdSegs (h : Nat) (x : Stream) (i j : W32) (s : State) (k : Nat) : (holdSegs h x i j s).stream? k = s.stream? k := by
  unfold holdSegs
  refine stream?_foldl (fun s n => ?_) _ s
  split
  · exact stream?_setMark ..
  · rfl

theorem stream?_mirrorInput (h : Nat) (x : Stream) (i j : W32) (s : State) (k : Nat) : (mirrorInput h x i j s).stream? k = s.stream? k := by
  unfold mirrorInput
  split
  · exact ((Framed.trans (beside_ringRead ..) (beside_sendBits ..)).stream?_eq k).trans (stream?_holdSegs ..)
  · rfl

theorem mediaDb_decode (hx : s.stream? h = some x) (hm : mayStream s fn x = true) (hbell : s.noBells = false) (hc : x.closing = false)
    (hk : x.kind = .decode) (v : W64) (ends : List W32) : mediaDb fn h v ends s = decodeDb fn h x v ends s := by
  unfold mediaDb
  rw [hx]
  dsimp only
  rw [hm, hbell, hc, hk]
  rfl

/-- A stream whose doorbell has been rung: WRITE, the ends of access units before it, and WRITE as an end where the doorbell says so. -/
def Stream.rung (w : W32) (t : W64) (ends : List W32) (again last : Bool) (x : Stream) : Stream :=
  let d := addEnds w t ends x.dec
  let d := { d with write := w, needRap := d.needRap || again }
  { x with st := if again then 1 else x.st, dec := if last then closeUnit t d else d }

theorem rung_fed (w : W32) (t : W64) (ends : List W32) (again last : Bool) (x : Stream) :
    Fed { x with dec := { x.dec with write := w } } (x.rung w t ends again last) := by
  obtain ⟨es, he⟩ := addEnds_units w t ends x.dec
  unfold Stream.rung
  rw [he]
  cases last with
  | false => exact ⟨rfl, rfl, rfl, es, rfl⟩
  | true =>
    obtain ⟨es', he'⟩ := closeUnit_units t
      { x.dec with units := x.dec.units ++ es, write := w, needRap := x.dec.needRap || again }
    dsimp only
    rw [if_pos rfl, he']
    exact ⟨rfl, rfl, rfl, es ++ es', List.append_assoc ..⟩

/-- A doorbell within the ring and ahead of WRITE is taken. -/
theorem decodeDb_takes (hx : s.stream? h = some x) {v : W64} (hroom : dist32 (BitVec.ofNat 32 v.toNat) x.dec.cons ≤ pBsSize x.par)
    (hahead : ahead32 (BitVec.ofNat 32 v.toNat) x.dec.write = true) (ends : List W32) :
    ∃ y, (decodeDb fn h x v ends s).stream? h = some y ∧ Fed { x with dec := { x.dec with write := BitVec.ofNat 32 v.toNat } } y := by
  let again := decide (BitVec.ofNat 32 v.toNat ≠ x.dec.write) && x.st == 3
  let u := (mirrorInput h x x.dec.write (BitVec.ofNat 32 v.toNat) s).modStream h
    (Stream.rung (BitVec.ofNat 32 v.toNat) s.clock.timeF ends again (nbit v.toNat 32))
  have hu : u.stream? h = some (x.rung (BitVec.ofNat 32 v.toNat) s.clock.timeF ends again (nbit v.toNat 32)) :=
    stream?_modStream ((stream?_mirrorInput ..).trans hx) _
  have hfed := rung_fed (BitVec.ofNat 32 v.toNat) s.clock.timeF ends again (nbit v.toNat 32) x
  have hdb : decodeDb fn h x v ends s = if nbit v.toNat 33 then writeStat h (flushStream h u) else u :=
    if_neg fun hbad => hbad.elim (Nat.not_lt.2 hroom) (by rw [hahead]; decide)
  rw [hdb]
  split
  · obtain ⟨y, hy, hfed', -⟩ := stream?_flushStream hu
    exact ⟨y, (stream?_writeStat ..).trans hy, hfed.trans hfed'⟩
  · exact ⟨_, hu, hfed⟩

end

theorem mediaDoorbell_takes {s : State} {fn : Fn} {h : Fin 1024} {x : Stream} (hup : s.up = true) (hst : s.stopped = false)
    (hh : tfind s.hif.held fn.num = none) (hf : s.hif.flr = []) (hx : s.stream? h.val = some x) (hk : x.kind = .decode) (hc : x.closing = false)
    (hm : mayStream (bump s 88 8) fn x = true) (hbell : (bump s 88 8).noBells = false) {v : W64}
    (hroom : dist32 (BitVec.ofNat 32 v.toNat) x.dec.cons ≤ pBsSize x.par) (hahead : ahead32 (BitVec.ofNat 32 v.toNat) x.dec.write = true)
    (ends : List W32) : ∃ t y es, exec (.mediaDoorbell fn h v ends) s = .next t ∧ t.stream? h.val = some y ∧
      y.dec.write = BitVec.ofNat 32 v.toNat ∧ y.dec.units = x.dec.units ++ es ∧ y.par = x.par ∧ y.dec.pos = x.dec.pos := by
  have h8 : writeBytes (.mediaDoorbell fn h v ends) = 8 := rfl
  have hx' : (bump s 88 8).stream? h.val = some x := (stream?_bump ..).trans hx
  obtain ⟨y, hy, hpar, hwrite, hpos, es, hunits⟩ := decodeDb_takes (fn := fn) hx' hroom hahead ends
  rw [exec_mediaDoorbell, live_orRecord rfl hup hst hh hf, h8, mediaDb_decode hx' hm hbell hc hk]
  exact ⟨_, y, es, rfl, hy, hwrite, hunits, hpar, hpos⟩

/-! ### An access unit begins -/

/-- A bit engine holds an access unit. -/
def State.bitBusy (s : State) (g : Nat) : Bool :=
  s.media.streams.any fun y => match y.2.dec.parsing with
    | some p => p.engine == g
    | none => false

theorem adoptSet_dec (x : Stream) : (adoptSet x).dec = x.dec := by
  unfold adoptSet
  split <;> rfl

theorem adoptSet_enc (x : Stream) : (adoptSet x).enc = x.enc := by
  unfold adoptSet
  split <;> rfl

theorem adoptSet_pend (x : Stream) : (adoptSet x).pend = none := by
  unfold adoptSet
  split
  · rfl
  · assumption

/-- A stream whose oldest access unit, which ends at `e`, has gone to an engine under the policy in force. -/
def Stream.parseBegun (g : Nat) (e : W32) (t : W64) (us : List (W32 × W64)) (x : Stream) : Stream :=
  { adoptSet x with dec := { (adoptSet x).dec with units := us, parsing := some ⟨g, (adoptSet x).dec.pos, e, t, (adoptSet x).sp0⟩ } }

section
variable {s : State} {h g : Nat} {x : Stream}

theorem parseStart_begins (hx : s.stream? h = some x) (hfree : s.bitBusy g = false)
    (hturn : turnOf s s.media.bitLast g h (fun _ y => mayParse y) = true) {e : W32} {t : W64} {us : List (W32 × W64)}
    (hu : x.dec.units = (e, t) :: us) : parseStart h g s =
      { s.putStream h (x.parseBegun g e t us) with
        media := { (s.putStream h (x.parseBegun g e t us)).media with bitLast := tput s.media.bitLast g h } } := by
  have hgo : ¬ (s.bitBusy g || !turnOf s s.media.bitLast g h (fun _ y => mayParse y)) = true := by simp [hfree, hturn]
  have hu' : (adoptSet x).dec.units = (e, t) :: us := by rw [adoptSet_dec, hu]
  refine (if_neg hgo).trans ?_
  rw [modStream_of hx]
  dsimp only
  rw [hu']
  rfl

end

theorem auParseStart_begins {s : State} {h : Fin 1024} {g : Fin 8} {x : Stream} (hup : s.up = true) (hst : s.stopped = false)
    (hx : s.stream? h.val = some x) (hfree : s.bitBusy g.val = false)
    (hturn : turnOf s s.media.bitLast g.val h.val (fun _ y => mayParse y) = true) {e : W32} {tm : W64} {us : List (W32 × W64)}
    (hu : x.dec.units = (e, tm) :: us) : ∃ t, exec (.auParseStart h g) s = .next t ∧
      t.stream? h.val = some (x.parseBegun g.val e tm us) ∧ (∀ k, k ≠ h.val → t.stream? k = s.stream? k) ∧ t.mem = s.mem := by
  rw [exec_auParseStart, running_eq hup hst, parseStart_begins hx hfree hturn hu]
  exact ⟨_, rfl, stream?_putStream_self .., fun k hk => stream?_putStream_ne s hk _, rfl⟩

/-! ### An access unit ends -/

section
variable {s : State} {h : Nat} {x : Stream}

/-- Of a stream, only what the twin has seen of its random-access points may have changed. -/
theorem stream?_unitPos (hx : s.stream? h = some x) (rap : Bool) (start : W32) :
    ∃ seen, (unitPos h rap start s).stream? h = some { x with dec := { x.dec with rapSeen := seen } } := by
  unfold unitPos
  rw [hx]
  dsimp only
  split
  · exact ⟨true, ((beside_sendPos ..).stream?_eq h).trans (stream?_modDec hx _)⟩
  · exact ⟨x.dec.rapSeen, hx⟩

/-- A picture that is a whole frame by itself joins the frames of its stream. -/
theorem stream?_pictureParsed (hx : s.stream? h = some x) (hh : x.dec.half = none) (f : HalfFrame) {r : AuResult} (hr : r.firstField = false) :
    ∃ seen, (pictureParsed h f r s).stream? h = some { x with dec := { x.dec with rapSeen := seen }.withFrame f } := by
  obtain ⟨seen, hpos⟩ := stream?_unitPos hx f.rap f.start
  refine ⟨seen, .trans ?_ (stream?_frameParsed hpos f)⟩
  unfold pictureParsed
  dsimp only
  rw [hpos]
  dsimp only
  rw [hh, hr]
  rfl

/-- A picture for which the DPB is large enough meets no overrun. -/
theorem pictureRow_fits {par : List Byte} {r : AuResult} (hd : r.dpbNeed ≤ pDpb par) (p : Parsing) (ecc : Bool) : (pictureRow par p r ecc).1 ≠ 40 := by
  unfold pictureRow
  repeat' split
  all_goals simp
  omega

/-- What a stream has become when an access unit has brought a frame `pic`. -/
structure Parsed (x : Stream) (p : Parsing) (pic : Pic) (y : Stream) : Prop where
  num : y.dec.num = x.dec.num + 1
  frames : y.dec.frames = x.dec.frames ++ [pic]
  half : y.dec.half = none
  closing : y.closing = x.closing
  picNum : pic.num = x.dec.num
  picArrival : pic.arrival = p.arrival

/-- A picture that is no field, and for which the DPB is large enough, becomes a frame. -/
theorem stream?_parsePicture (hx : s.stream? h = some x) (hh : x.dec.half = none) {r : AuResult} (hd : r.dpbNeed ≤ pDpb x.par)
    (hr : r.firstField = false) (p : Parsing) (ecc : Bool) : ∃ y pic, (parsePicture h p r ecc s).stream? h = some y ∧ Parsed x p pic y := by
  have hstay : (if r.secondField = true then s else halfParsed h s) = s := by rw [halfParsed_whole hx hh, ite_self]
  obtain ⟨row, n, hrow⟩ : ∃ row n, pictureRow x.par p r ecc = (row, n) := ⟨_, _, rfl⟩
  have h40 : row ≠ 40 := by
    have hfit := pictureRow_fits hd p ecc
    rwa [hrow] at hfit
  obtain ⟨c, hc⟩ := (Tallies.ite (c := row = 0) (.refl h s) (tallies_count h row n s)).stream x hx
  obtain ⟨seen, hy⟩ := stream?_pictureParsed (stream?_modStream hc fun x =>
    { x with st := 1, dec := { x.dec with needRap := false, rasl := if r.rap then x.dec.needRap else x.dec.rasl } }) hh
    ⟨newPic x p r (row != 0), mapOf r, r.rap, p.start, p.fin⟩ hr
  refine ⟨_, newPic x p r (row != 0), .trans ?_ hy, rfl, rfl, hh, rfl, rfl, rfl⟩
  unfold parsePicture
  rw [hstay]
  dsimp only
  rw [hx]
  dsimp only
  rw [hrow]
  dsimp only
  rw [if_neg h40]

/-- An access unit that no row of R256 discards brings its frame. -/
theorem stream?_parseRows (hx : s.stream? h = some x) (hh : x.dec.half = none) {z : Stream} (hneed : z.dec.needRap = false) (hrasl : z.dec.rasl = false)
    {r : AuResult} (hseq : r.seq = none) (hpic : r.noPicture = false) (hd : r.dpbNeed ≤ pDpb x.par) (hr : r.firstField = false) (p : Parsing)
    (ecc : Bool) : ∃ y pic, (parseRows h z p r ecc s).stream? h = some y ∧ Parsed x p pic y := by
  obtain ⟨c, hc⟩ := (tallies_count h 44 r.badUnits s).stream x hx
  obtain ⟨y, pic, hy, hnum, hfr, hhalf, hcl, hpn, hpa⟩ := stream?_parsePicture hc hh hd hr p ecc
  refine ⟨y, pic, ?_, hnum, hfr, hhalf, hcl, hpn, hpa⟩
  unfold parseRows
  dsimp only
  rw [hneed, hrasl, hseq, hpic]
  exact hy

theorem stream?_consume (hx : s.stream? h = some x) : ∃ c, (consume h s).stream? h = some { x with dec := { x.dec with cons := c } } := by
  unfold consume
  rw [hx]
  exact ⟨_, stream?_modDec hx _⟩

/-- The end of an access unit on a stream that is not being closed: the unit is read, its frame taken, and the engine is free. -/
theorem stream?_parseDone (hx : s.stream? h = some x) {p : Parsing} (hp : x.dec.parsing = some p) (hc : x.closing = false)
    (hneed : x.dec.needRap = false) (hrasl : x.dec.rasl = false) (hh : x.dec.half = none) {r : AuResult} (hseq : r.seq = none)
    (hpic : r.noPicture = false) (hd : r.dpbNeed ≤ pDpb x.par) (hr : r.firstField = false) :
    ∃ y pic, (parseDone h r s).stream? h = some y ∧ y.dec.parsing = none ∧ y.dec.pos = p.fin ∧ Parsed x p pic y := by
  obtain ⟨u, bad, hread⟩ : ∃ u bad, unitRead h x.par p.start (min (dist32 p.fin p.start) (pMaxAu x.par)) s = (u, bad) := ⟨_, _, rfl⟩
  have htally : Tallies h s u := by
    have hall := tallies_unitRead h x.par p.start (min (dist32 p.fin p.start) (pMaxAu x.par)) s
    rwa [hread] at hall
  obtain ⟨c, hu⟩ := (htally.trans (tallies_mediaPoison h 48 (u.poisonedAmong r.poisoned) u)).stream x hx
  obtain ⟨y, pic, hy, hnum, hfr, hhalf, hcl, hpn, hpa⟩ := stream?_parseRows hu hh hneed hrasl hseq hpic hd hr p
    (bad || !(u.poisonedAmong r.poisoned).isEmpty)
  have hy' := stream?_modDec hy fun d => { d with parsing := none, pos := p.fin }
  obtain ⟨cons, hcons⟩ := stream?_consume hy'
  obtain ⟨st, fl, hset, -⟩ := settled_eq { y with dec := { y.dec with parsing := none, pos := p.fin, cons := cons } }
  refine ⟨_, pic, .trans ?_ (stream?_eventEnd hcons (hcl.trans hc)), congrArg (fun x : Stream => x.dec.parsing) hset,
    congrArg (fun x : Stream => x.dec.pos) hset, ?_⟩
  · unfold parseDone
    rw [hx]
    dsimp only
    rw [hp]
    dsimp only
    rw [hread, hc]
    dsimp only
    rw [if_neg Bool.false_ne_true, flushHalf_whole hy' hhalf]
  · rw [hset]
    exact ⟨hnum, hfr, hhalf, hcl, hpn, hpa⟩

end

end Sys2Proof.Machine
end


section
/-!
O45. The frames of a decode stream are decided, reconstructed and emitted (R244, R248, R249, R254).
-/
namespace Sys2Proof.Machine

theorem exec_reconDecision (h : Fin 1024) (s : State) : exec (.reconDecision h) s = running s (reconDecision h.val) := rfl
theorem exec_pixelFrameStart (h : Fin 1024) (k : Fin 16) (b : Fin 16384) (refs : List RefChange) (s : State) :
    exec (.pixelFrameStart h k b refs) s = running s (pixelStart h.val k.val b.val refs) := rfl
theorem exec_reconDone (h : Fin 1024) (k : Fin 16) (r : ReconResult) (s : State) :
    exec (.reconDone h k r) s = running s (reconDone h.val k.val r) := rfl
theorem exec_frameEmit (h : Fin 1024) (b : Fin 16384) (s : State) : exec (.frameEmit h b) s = running s (frameEmit h.val b.val) := rfl

/-! ### The decision -/

section
variable {s : State} {h : Nat} {x : Stream} {p : Pic} {ps : List Pic}

/-- The oldest frame, undecided, is chosen or leaves the frames, and its requests are over. -/
theorem stream?_reconDecision (hx : s.stream? h = some x) (hfr : x.dec.frames = p :: ps) (hstage : p.stage = .undecided) (href : x.dec.refsTo = none) :
    ∃ y, (reconDecision h s).stream? h = some y ∧
      y.dec.frames = (if pickedNow x p false then { p with stage := .chosen } :: ps else ps) ∧
      y.dec.reqs = x.dec.reqs.filter (fun q => q != none && q != some p.num) := by
  have hrefs : x.dec.refsOnly p.num = false := by
    unfold Dec.refsOnly
    rw [href]
  unfold reconDecision
  rw [hx]
  dsimp only
  rw [hfr]
  dsimp only
  rw [if_neg (by simp [hstage]), hrefs]
  cases pickedNow x p false with
  | true =>
    have hchosen := stream?_modDec hx fun d =>
      { d with frames := { p with stage := .chosen } :: ps, reqs := x.dec.reqs.filter fun q => q != none && q != some p.num }
    exact ⟨_, hchosen, rfl, rfl⟩
  | false =>
    have hleft := stream?_modDec (stream?_count hx 52 1) fun d =>
      { d with frames := ps, reqs := x.dec.reqs.filter fun q => q != none && q != some p.num }
    obtain ⟨st, fl, hset, -⟩ := settled_eq
      { x with
        cnt := tset 0 x.cnt 52 (satAdd 32 (tget 0 x.cnt 52) 1)
        dec := { x.dec with frames := ps, reqs := x.dec.reqs.filter fun q => q != none && q != some p.num } }
    exact ⟨_, stream?_settled_written hleft, congrArg (fun x : Stream => x.dec.frames) hset, congrArg (fun x : Stream => x.dec.reqs) hset⟩

end

/-! ### A pixel pipe starts -/

/-- A pixel pipe holds a frame. -/
def State.pixBusy (s : State) (k : Nat) : Bool :=
  s.media.streams.any fun y => y.2.dec.frames.any fun p => match p.stage with
    | .onPipe j _ => j == k
    | _ => false

section
variable {s : State} {h k b : Nat} {x : Stream} {a ps : List Pic} {p : Pic}

/-- The next chosen frame goes on its pipe, and takes its buffer. -/
theorem pixelStart_begins (hx : s.stream? h = some x) (hsplit : splitRunning x.dec.frames = (a, p :: ps)) (hidle : s.pixBusy k = false)
    (hfree : s.freeBuf h b = true) (hturn : turnOf s s.media.pixLast k h (mayPixel s) = true) :
    ∃ y z, (pixelStart h k b [] s).stream? h = some y ∧ y.dec.frames = a ++ { p with stage := .onPipe k b } :: ps ∧
      (pixelStart h k b [] s).buf? b = some z ∧ z.taken = true ∧ (pixelStart h k b [] s).mem = s.mem := by
  obtain ⟨z, hz⟩ := freeBuf_some hfree
  have hgo : ¬ (s.pixBusy k || !s.freeBuf h b || !turnOf s s.media.pixLast k h (mayPixel s)) = true := by simp [hidle, hfree, hturn]
  have hx' : (s.modBuf b fun z => { z with taken := true }).stream? h = some x := (stream?_modBuf ..).trans hx
  have hz' := buf?_modBuf hz fun z => { z with taken := true }
  let u := (s.modBuf b fun z => { z with taken := true }).modDec h fun d => match splitRunning d.frames with
    | (a, p :: ps) => { d with frames := a ++ { p with stage := .onPipe k b } :: ps }
    | _ => d
  have hstart : pixelStart h k b [] s = { u with media := { u.media with pixLast := tput u.media.pixLast k h } } := if_neg hgo
  have hu : u.stream? h = some { x with dec := { x.dec with frames := a ++ { p with stage := .onPipe k b } :: ps } } := by
    refine (stream?_modDec hx' _).trans ?_
    rw [hsplit]
  have hmem : u.mem = s.mem := (modStream_mem ..).trans (by rw [modBuf_of hz]; rfl)
  rw [hstart]
  exact ⟨_, _, hu, rfl, (buf?_modDec ..).trans hz', rfl, hmem⟩

end

/-! ### A frame is reconstructed -/

/-- A frame is on a pipe. -/
def Pic.isOn (k : Nat) (p : Pic) : Bool :=
  match p.stage with
  | .onPipe j _ => j == k
  | _ => false

section
variable {s : State} {h k b : Nat} {x : Stream} {p : Pic} {z : Buf}

/-- A buffer that holds the reconstruction of a frame, which waits for its output when it is to be shown. -/
def reconBuf (p : Pic) (z : Buf) : Buf :=
  let z := { z with taken := false, picW := p.picW, picH := p.picH, arrival := p.arrival }
  if p.shown then z.mark mkOut true else z

theorem reconBuf_picture (p : Pic) (z : Buf) : (reconBuf p z).taken = false ∧ (reconBuf p z).picW = p.picW ∧ (reconBuf p z).picH = p.picH ∧
    (reconBuf p z).arrival = p.arrival := by
  unfold reconBuf
  dsimp only
  split <;> exact ⟨rfl, rfl, rfl, rfl⟩

theorem reconBuf_pending (hs : p.shown = true) (z : Buf) : (reconBuf p z).has mkOut = true := by
  unfold reconBuf
  dsimp only
  rw [if_pos hs]
  exact has_mark_true _ (by decide)

/-- A frame that is due for output. -/
def reconDue (b : Nat) (flags : Nat) (p : Pic) : Due :=
  { buf := b, num := p.num, flags := flags, picW := p.picW, picH := p.picH, arrival := p.arrival, order := p.order }

/-- The flags of a frame whose reconstruction has met poisoned words of staging. -/
def reconFlags (p : Pic) (r : ReconResult) (s : State) : Nat :=
  if !(s.poisonedAmong (r.poisoned.map (·.2))).isEmpty && p.flags / 2 % 2 = 0 then p.flags + 2 else p.flags

/-- The picture of a frame stands in its buffer, which waits for its output when it is to be shown. -/
def pictureStored (h b : Nat) (x : Stream) (p : Pic) (r : ReconResult) (s : State) : State :=
  let t := mediaPoison h 48 (s.poisonedAmong (r.poisoned.map (·.2))) s
  let addr := match t.buf? b with
    | some y => y.addr
    | none => 0
  let u := putPicture x.par addr p.picW p.picH (reconPlanes s x p r).1 (reconPlanes s x p r).2 t
  let v := u.modBuf b fun y => { y with taken := false, picW := p.picW, picH := p.picH, arrival := p.arrival }
  if p.shown then setMark b mkOut true v else v

theorem pictureStored_shows (hx : s.stream? h = some x) (hz : s.buf? b = some z) (p : Pic) (r : ReconResult) :
    (∃ c, (pictureStored h b x p r s).stream? h = some { x with cnt := c }) ∧ (pictureStored h b x p r s).buf? b = some (reconBuf p z) := by
  unfold pictureStored
  extract_lets t addr u v
  have htally : Tallies h s u := (tallies_mediaPoison ..).trans ((beside_putPicture ..).tallies h)
  obtain ⟨c, hu⟩ := htally.stream x hx
  have hv : v.stream? h = some { x with cnt := c } := (stream?_modBuf ..).trans hu
  have hzv := buf?_modBuf ((htally.buf b).trans hz) fun y => { y with taken := false, picW := p.picW, picH := p.picH, arrival := p.arrival }
  unfold reconBuf
  cases p.shown with
  | true => exact ⟨⟨c, (stream?_setMark ..).trans hv⟩, buf?_setMark_true hzv mkOut⟩
  | false => exact ⟨⟨c, hv⟩, hzv⟩

/-- The decode state of a stream whose frame on a pipe has ended in its buffer. -/
def Dec.reconEnded (k b flags : Nat) (p : Pic) (d : Dec) : Dec :=
  { d with
    frames := d.frames.filter fun q => !q.isOn k
    lastRecon := some b
    due := if p.shown then d.due ++ [reconDue b flags p] else d.due }

/-- Reconstruction whose reference samples have been written ends: the picture stands in its buffer, and its frame is off the pipe. -/
theorem reconDone_ends (hx : s.stream? h = some x) (hc : x.closing = false) {r : ReconResult} (hr : r.refs = []) (hp : p.stage = .onPipe k b)
    (hreads : readsRunning x p r = false) (hfind : x.dec.frames.find? (Pic.isOn k) = some p) : reconDone h k r s =
      closeStep h (writeStat h (settle h ((pictureStored h b x p r s).modDec h (Dec.reconEnded k b (reconFlags p r s) p)))) := by
  unfold reconDone
  rw [hx]
  dsimp only
  split
  · next hnone => exact nomatch hfind.symm.trans hnone
  · next q hsome =>
    cases hfind.symm.trans hsome
    rw [hp]
    dsimp only
    rw [if_neg (by simp [hreads]), hr, hc, Bool.not_false, Bool.and_true]
    rfl

end

theorem exec_reconDone_ends {s : State} {h : Fin 1024} {k : Fin 16} {b : Nat} {x : Stream} {p : Pic} {z : Buf} {r : ReconResult} (hup : s.up = true)
    (hst : s.stopped = false) (hx : s.stream? h.val = some x) (hc : x.closing = false) (hr : r.refs = []) (hp : p.stage = .onPipe k.val b)
    (hreads : readsRunning x p r = false) (hfind : x.dec.frames.find? (Pic.isOn k.val) = some p) (hz : s.buf? b = some z) :
    ∃ t y, exec (.reconDone h k r) s = .next t ∧ t.stream? h.val = some y ∧ t.buf? b = some (reconBuf p z) ∧
      y.dec.frames = x.dec.frames.filter (fun q => !q.isOn k.val) ∧
      y.dec.due = (if p.shown then x.dec.due ++ [reconDue b (reconFlags p r s) p] else x.dec.due) := by
  obtain ⟨⟨c, hstr⟩, hbuf⟩ := pictureStored_shows hx hz p r
  have hend := stream?_modDec hstr (Dec.reconEnded k.val b (reconFlags p r s) p)
  have hsettled := stream?_settled_written hend
  have hopen := (closing_settled { x with cnt := c, dec := x.dec.reconEnded k.val b (reconFlags p r s) p }).trans hc
  obtain ⟨st, fl, he, -⟩ := settled_eq { x with cnt := c, dec := x.dec.reconEnded k.val b (reconFlags p r s) p }
  rw [exec_reconDone, running_eq hup hst, reconDone_ends hx hc hr hp hreads hfind, closeStep_open hsettled hopen]
  refine ⟨_, _, rfl, hsettled, ?_, congrArg (fun x : Stream => x.dec.frames) he, congrArg (fun x : Stream => x.dec.due) he⟩
  rw [buf?_keepQueue, buf?_writeStat, buf?_settle, buf?_modDec, hbuf]

/-! ### Emission -/

section
variable {s : State} {h b : Nat} {x : Stream}

/-- The end of a wait moves the counter at byte 60 alone. -/
theorem stream?_endWait (hx : s.stream? h = some x) :
    ∃ c, (endWait h s).stream? h = some { x with cnt := c, waitAt := none } ∧ ∀ k, k ≠ 60 → tget 0 c k = tget 0 x.cnt k := by
  unfold endWait
  rw [hx]
  dsimp only
  split
  · next w hw => exact ⟨_, stream?_modStream (stream?_count hx 60 _) _, fun k hk => tget_tset_ne 0 x.cnt _ hk⟩
  · next hw => exact ⟨x.cnt, by rw [hx, ← hw], fun _ _ => rfl⟩

@[simp] theorem buf?_endWait (h : Nat) (s : State) (b : Nat) : (endWait h s).buf? b = s.buf? b := by
  unfold endWait
  split
  · split
    · exact (buf?_modStream ..).trans (buf?_count ..)
    · rfl
  · rfl

/-- A record takes the next place of its ring. -/
theorem stream?_ringPut_out (hx : s.stream? h = some x) (bs : List Byte) :
    (ringPut h false bs s).stream? h = some { x with outPi := x.outPi + 1 } := by
  unfold ringPut
  rw [hx]
  exact stream?_modStream (((beside_spaceWrite ..).stream?_eq h).trans hx) _

theorem stream?_ringPut_ana (hx : s.stream? h = some x) (bs : List Byte) :
    (ringPut h true bs s).stream? h = some { x with anaPi := x.anaPi + 1 } := by
  unfold ringPut
  rw [hx]
  exact stream?_modStream (((beside_spaceWrite ..).stream?_eq h).trans hx) _

@[simp] theorem stream?_ringIndex (h : Nat) (ana : Bool) (s : State) (k : Nat) : (ringIndex h ana s).stream? k = s.stream? k :=
  (beside_ringIndex h ana s).stream?_eq k

/-- A picture that leaves takes one place in each ring that is in use. -/
theorem stream?_emitFrame (hx : s.stream? h = some x) (b : Nat) (bs : List Byte) : (emitFrame h b bs s).stream? h = some { x with
    outPi := if rEn (pRing x.par false) then x.outPi + 1 else x.outPi
    anaPi := if rEn (pRing x.par true) then x.anaPi + 1 else x.anaPi } := by
  have hsem : ∀ (f : Nat) (t : State), (semField f t).stream? h = t.stream? h := fun f t => (beside_semField f t).stream?_eq h
  have hana : ∀ {t : State} {y : Stream}, t.stream? h = some y →
      (ringPut h true bs (setMark b mkHold true t)).stream? h = some { y with anaPi := y.anaPi + 1 } := fun ht =>
    stream?_ringPut_ana ((stream?_setMark ..).trans ht) bs
  have hout := stream?_ringPut_out hx bs
  have hoff := (stream?_setMark b mkOut false s h).trans hx
  unfold emitFrame
  rw [hx]
  dsimp only
  cases rEn (pRing x.par false) <;> cases rEn (pRing x.par true)
  · simp [hoff]
  · simp [hsem, hana hoff]
  · simp [hout]
  · simp [hsem, hana hout]

theorem frameEmit_waits (hx : s.stream? h = some x) (hc : x.closing = false) {e : Due} (he : x.dec.due.find? (fun e => e.buf == b) = some e)
    (hturn : emitTurn x.dec e = true) (hw : emitWaits s h x = true) :
    frameEmit h b s = s.putStream h { x with waitAt := some (x.waitAt.getD s.clock.timeM) } := by
  unfold frameEmit
  rw [hx]
  dsimp only
  rw [he]
  dsimp only
  rw [if_neg (by simp [hc, hturn]), if_pos hw]
  exact modStream_of hx _

/-- A picture whose turn has come, and whose rings have room, leaves and is counted. -/
theorem stream?_frameEmit (hx : s.stream? h = some x) (hc : x.closing = false) {e : Due} (he : x.dec.due.find? (fun e => e.buf == b) = some e)
    (hturn : emitTurn x.dec e = true) (hw : emitWaits s h x = false) : ∃ y, (frameEmit h b s).stream? h = some y ∧
      y.dec.due = x.dec.due.filter (fun q => q.buf != b) ∧ tget 0 y.cnt 12 = satAdd 32 (tget 0 x.cnt 12) 1 ∧ y.waitAt = none ∧
      y.outPi = (if rEn (pRing x.par false) then x.outPi + 1 else x.outPi) ∧
      y.anaPi = (if rEn (pRing x.par true) then x.anaPi + 1 else x.anaPi) := by
  obtain ⟨c, hwait, hcnt⟩ := stream?_endWait hx
  have hdue := stream?_modDec hwait fun d => { d with due := d.due.filter fun y => y.buf != b }
  let addr := match (endWait h s).buf? b with
    | some y => y.addr
    | none => 0
  have hemit := stream?_emitFrame hdue b
    (outRecord e.num.toNat b e.flags e.picW e.picH (pitchOf x.par) h e.arrival addr (planeH x.par) 0)
  have hend := stream?_count hemit 12 1
  obtain ⟨st, fl, hset, -⟩ := settled_eq _
  refine ⟨_, .trans (congrArg (fun t : State => t.stream? h) ?_) (stream?_settled_written hend), ?_⟩
  · unfold frameEmit
    rw [hx]
    dsimp only
    rw [he]
    dsimp only
    exact Eq.trans (if_neg (by simp [hc, hturn])) (if_neg (by simp [hw]))
  · rw [hset]
    refine ⟨rfl, ?_, rfl, rfl, rfl⟩
    dsimp only
    rw [tget_tset_self, hcnt 12 (by decide)]

end

end Sys2Proof.Machine
end

section
open Sys2Proof Sys2Proof.Machine

/-- Settles O45: each event comes to one case of its meaning, and the stream and its buffers are read off there. -/
theorem decodeFlow : Obligations.DecodeFlow := by
  unfold Obligations.DecodeFlow
  intro s h x hup hst hx hk hc
  refine ⟨fun fn v ends hh hf hm hbell hroom hahead => ?_, fun g e tm us hu hfree hturn => ?_, fun p r hp hneed hrasl hseq hpic hd hfirst hh => ?_,
    fun p ps hfr hstage href => ?_, fun k b a ps p hsplit hidle hfree hturn => ?_, fun k r p b z hr hp hreads hfind hz => ?_,
    fun b e he hturn => ⟨fun hw => ?_, fun hw => ?_⟩⟩
  · exact mediaDoorbell_takes hup hst hh hf hx hk hc hm hbell hroom hahead ends
  · obtain ⟨t, ht, hstr, hoth, hmem⟩ := auParseStart_begins hup hst hx hfree hturn hu
    refine ⟨t, _, ht, hstr, rfl, adoptSet_pend x, ?_, hoth, hmem⟩
    unfold Stream.parseBegun
    rw [adoptSet_dec]
  · obtain ⟨y, pic, hy, hparse, hpos, hdone⟩ := stream?_parseDone hx hp hc hneed hrasl hh hseq hpic hd hfirst
    rw [exec_auParseDone, running_eq hup hst]
    exact ⟨_, y, pic, rfl, hy, hparse, hpos, hdone.num, hdone.frames, hdone.picNum, hdone.picArrival⟩
  · obtain ⟨y, hy, hframes, hreqs⟩ := stream?_reconDecision hx hfr hstage href
    rw [exec_reconDecision, running_eq hup hst]
    exact ⟨_, y, rfl, hy, hframes, hreqs⟩
  · obtain ⟨y, z, hy, hframes, hz, htaken, hmem⟩ := pixelStart_begins hx hsplit hidle hfree hturn
    rw [exec_pixelFrameStart, running_eq hup hst]
    exact ⟨_, y, z, rfl, hy, hframes, hz, htaken, hmem⟩
  · obtain ⟨t, y, ht, hy, hbuf, hframes, hdue⟩ := exec_reconDone_ends hup hst hx hc hr hp hreads hfind hz
    obtain ⟨htaken, hw, hh, harr⟩ := reconBuf_picture p z
    refine ⟨t, y, _, ht, hy, hbuf, htaken, hw, hh, harr, hframes, fun hs => ?_, fun hs => ?_⟩
    · exact ⟨reconBuf_pending hs z, reconDue b (reconFlags p r s) p, hdue.trans (if_pos hs), rfl, rfl⟩
    · exact hdue.trans (if_neg (by simp [hs]))
  · obtain ⟨y, hy, hdue, hcnt, hwait, hout, hana⟩ := stream?_frameEmit hx hc he hturn hw
    rw [exec_frameEmit, running_eq hup hst]
    exact ⟨_, y, rfl, hy, hdue, hcnt, hwait, hout, hana⟩
  · rw [exec_frameEmit]
    exact running_exact hup hst (frameEmit_waits hx hc he hturn hw) rfl

end


section
/-!
O46. An encode session takes sources, encodes them in order, and keeps, repeats or skips each frame (R260, R262 to R265).
-/
namespace Sys2Proof.Machine

theorem exec_encodeSubmit (fn : Fn) (h : Fin 1024) (v : W64) (s : State) :
    exec (.encodeSubmit fn h v) s = live s (orRecord (.encodeSubmit fn h v) (mediaDb fn h.val v [])) := rfl
theorem exec_encodeFrameStart (h : Fin 1024) (k : Fin 2) (r : Fin 16384) (s : State) :
    exec (.encodeFrameStart h k r) s = running s (encStart h.val k.val r.val) := rfl
theorem exec_encodePassDone (h : Fin 1024) (bytes luma chroma : List Byte) (s : State) :
    exec (.encodePassDone h bytes luma chroma) s = running s (encodePass h.val bytes luma chroma) := rfl

/-! ### A submission -/

section
variable {s : State} {fn : Fn} {h : Nat} {x : Stream}

theorem mediaDb_encode (hx : s.stream? h = some x) (hm : mayStream s fn x = true) (hbell : s.noBells = false) (hc : x.closing = false)
    (hk : x.kind = .encode) (v : W64) (ends : List W32) : mediaDb fn h v ends s = encodeDb fn h x v s := by
  unfold mediaDb
  rw [hx]
  dsimp only
  rw [hm, hbell, hc, hk]
  rfl

/-- A session that has been told how far its output has been taken. -/
def Stream.taken (v : W64) (x : Stream) : Stream := { x with enc := { x.enc with consumed := BitVec.ofNat 32 (v.toNat / 2 ^ 32) } }

theorem encodeDb_taken (hx : s.stream? h = some x) {v : W64} (hv : nbit v.toNat 14 = false) :
    encodeDb fn h x v s = s.putStream h (x.taken v) := by
  unfold encodeDb
  dsimp only
  rw [hv, modEnc_of hx]
  rfl

/-- Of a state, the acceptance of a source sees the buffers alone. -/
theorem sourceOk_congr {t : State} {b : Nat} (hb : t.buf? b = s.buf? b) : sourceOk t x b = sourceOk s x b := by
  unfold sourceOk
  rw [hb]

theorem sourceOk_some {b : Nat} (h : sourceOk s x b = true) : ∃ z, s.buf? b = some z := by
  unfold sourceOk at h
  split at h
  · exact ⟨_, by assumption⟩
  · exact nomatch h

/-- A source that the session accepts joins the others, and carries its mark. -/
theorem encodeDb_submitted (hx : s.stream? h = some x) {v : W64} {b : Nat} (hb : nbits v.toNat 13 0 = b) (hv : nbit v.toNat 14 = true)
    (hok : sourceOk s x b = true) : ∃ y z, (encodeDb fn h x v s).stream? h = some y ∧ y.enc.subs = x.enc.subs ++ [b] ∧
      y.enc.consumed = BitVec.ofNat 32 (v.toNat / 2 ^ 32) ∧ (encodeDb fn h x v s).buf? b = some z ∧ z.has mkEnc = true := by
  obtain ⟨z, hz⟩ := sourceOk_some hok
  have hok' : sourceOk (s.putStream h (x.taken v)) x b = true := (sourceOk_congr (buf?_putStream ..)).trans hok
  have hmark : (setMark b mkEnc true (s.putStream h (x.taken v))).stream? h = some (x.taken v) :=
    (stream?_setMark ..).trans (stream?_putStream_self ..)
  have hdb : encodeDb fn h x v s = (setMark b mkEnc true (s.putStream h (x.taken v))).modEnc h fun e => { e with subs := e.subs ++ [b] } := by
    unfold encodeDb
    dsimp only
    rw [hv, modEnc_of hx, hb]
    exact if_pos hok'
  rw [hdb]
  exact ⟨_, _, stream?_modEnc hmark _, rfl, rfl, (buf?_modEnc ..).trans (buf?_setMark_true ((buf?_putStream ..).trans hz) mkEnc), has_mark_true z (by decide)⟩

end

section
variable {s : State} {fn : Fn} {h : Fin 1024} {x : Stream} (hup : s.up = true) (hst : s.stopped = false) (hh : tfind s.hif.held fn.num = none)
  (hf : s.hif.flr = []) (hx : s.stream? h.val = some x) (hk : x.kind = .encode) (hc : x.closing = false)
  (hm : mayStream (bump s 88 8) fn x = true) (hbell : (bump s 88 8).noBells = false) (v : W64)
include hup hst hh hf hx hk hc hm hbell

theorem exec_encodeSubmit_rings : exec (.encodeSubmit fn h v) s = .next (keepQueue s (encodeDb fn h.val x v (bump s 88 8))) := by
  have h8 : writeBytes (.encodeSubmit fn h v) = 8 := rfl
  rw [exec_encodeSubmit, live_orRecord rfl hup hst hh hf, h8, mediaDb_encode ((stream?_bump ..).trans hx) hm hbell hc hk]

theorem exec_encodeSubmit_taken (hv : nbit v.toNat 14 = false) :
    exec (.encodeSubmit fn h v) s = .next ((bump s 88 8).putStream h.val (x.taken v)) := by
  rw [exec_encodeSubmit_rings hup hst hh hf hx hk hc hm hbell, encodeDb_taken ((stream?_bump ..).trans hx) hv]
  exact congrArg Host.Outcome.next (keepQueue_of_pending (bump_pending s 88 8))

end

/-! ### A frame goes on a pipe -/

/-- An encode pipe holds a frame. -/
def State.encBusy (s : State) (k : Nat) : Bool :=
  s.media.streams.any fun y => match y.2.enc.run with
    | some e => e.pipe == k
    | none => false

theorem rateStep_q_le (x : Stream) : (rateStep x).2.2 ≤ 51 := by
  unfold rateStep
  exact Nat.min_le_right ..

/-- The oldest source goes on the pipe with a quality index in range. -/
theorem encBegin_shows {x : Stream} {b : Nat} {bs : List Nat} (hb : x.enc.subs = b :: bs) (k r : Nat) :
    ∃ e, (encBegin k r x).enc.subs = bs ∧ (encBegin k r x).enc.run = some e ∧ e.pipe = k ∧ e.src = b ∧ e.recon = r ∧ e.retried = false ∧ e.q ≤ 51 := by
  have hb' : (adoptSet x).enc.subs = b :: bs := by rw [adoptSet_enc, hb]
  have hq := rateStep_q_le (adoptSet x)
  unfold encBegin
  dsimp only
  rw [hb']
  dsimp only
  refine ⟨_, rfl, rfl, rfl, rfl, rfl, rfl, ?_⟩
  dsimp only
  split
  · exact Nat.le_refl _
  · exact hq

section
variable {s : State} {h k r : Nat} {x : Stream}

theorem encStart_begins (hx : s.stream? h = some x) (hready : encReady x = true) (hroom : encRoom x = true) (hidle : s.encBusy k = false)
    (hfree : s.freeBuf h r = true) (hturn : turnOf s s.media.encLast k h (fun _ y => encReady y && encRoom y) = true) {b : Nat} {bs : List Nat}
    (hb : x.enc.subs = b :: bs) : ∃ y e z, (encStart h k r s).stream? h = some y ∧ y.enc.subs = bs ∧ y.enc.run = some e ∧ e.pipe = k ∧ e.src = b ∧
      e.recon = r ∧ e.retried = false ∧ e.q ≤ 51 ∧ (encStart h k r s).buf? r = some z ∧ z.taken = true := by
  obtain ⟨z, hz⟩ := freeBuf_some hfree
  obtain ⟨c, hwait, -⟩ := stream?_endWait hx
  have hgo : ¬ (s.encBusy k || !s.freeBuf h r || !turnOf s s.media.encLast k h (fun _ y => encReady y && encRoom y)) = true := by
    simp [hidle, hfree, hturn]
  let t := (endWait h s).modBuf r fun y => { y with taken := true }
  have ht : t.stream? h = some { x with cnt := c, waitAt := none } := (stream?_modBuf ..).trans hwait
  have hzt : t.buf? r = some { z with taken := true } := buf?_modBuf ((buf?_endWait ..).trans hz) _
  obtain ⟨e, hsubs, hrun, hpipe, hsrc, hrecon, hretried, hq⟩ := encBegin_shows (x := { x with cnt := c, waitAt := none }) hb k r
  let u := t.modStream h (encBegin k r)
  have hstart : encStart h k r s = { u with media := { u.media with encLast := tput u.media.encLast k h } } := by
    unfold encStart
    dsimp only
    rw [hx]
    dsimp only
    rw [if_neg (by simp [hready]), if_neg (by simp [hroom])]
    exact if_neg hgo
  rw [hstart]
  exact ⟨_, e, _, stream?_modStream ht _, hsubs, hrun, hpipe, hsrc, hrecon, hretried, hq, (buf?_modStream ..).trans hzt, rfl⟩

end

/-! ### The source is read -/

/-- A relation of states that every read of a range keeps is kept by the reads of a source, row by row. -/
theorem sourceRead_keeps {R : State → State → Prop} (hrefl : ∀ s, R s s) (htrans : ∀ {s t u}, R s t → R t u → R s u) {h : Nat}
    (hread : ∀ a n s, R s (mediaRead h 32 a n s).1) (y : Buf) (w lines : Nat) (s : State) : R s (sourceRead h y w lines s).1 := by
  unfold sourceRead
  dsimp only
  generalize (List.range lines).map (fun r => y.addr + r * y.pitch) ++
    (List.range (lines / 2)).map (fun r => y.addr + y.pitch * y.lines + r * y.pitch) = rows
  generalize false = p
  induction rows generalizing s p with
  | nil => exact hrefl s
  | cons a rows ih => exact htrans (hread a _ s) (ih _ _)

theorem mediaPoison_mem (h off : Nat) (ks : List Nat) (s : State) : (mediaPoison h off ks s).mem = s.mem := by
  unfold mediaPoison
  induction ks generalizing s with
  | nil => rfl
  | cons k ks ih =>
    refine (ih _).trans ((modStream_mem ..).trans ((reportUnnamed_mem ..).trans ?_))
    split
    · exact (accesses_errUncorrectable ..).mem
    · rfl

theorem mediaRead_mem (h off a n : Nat) (s : State) : (mediaRead h off a n s).1.mem = s.mem := by
  unfold mediaRead
  split
  · rfl
  · exact (mediaPoison_mem ..).trans (accesses_countAccess ..).mem

/-- The source of a frame as a pass reads it; whether any of it was poisoned. -/
def sourceDrawn (h : Nat) (x : Stream) (src : Nat) (s : State) : State × Bool :=
  match s.buf? src with
  | some y => sourceRead h y (pMaxW x.par) (pMaxH x.par) s
  | none => (s, false)

theorem tallies_sourceDrawn (h : Nat) (x : Stream) (src : Nat) (s : State) : Tallies h s (sourceDrawn h x src s).1 := by
  unfold sourceDrawn
  split
  · exact sourceRead_keeps (.refl h) .trans (tallies_mediaRead h 32) ..
  · exact .refl h s

theorem sourceDrawn_mem (h : Nat) (x : Stream) (src : Nat) (s : State) : (sourceDrawn h x src s).1.mem = s.mem := by
  unfold sourceDrawn
  split
  · exact sourceRead_keeps (R := fun s t => t.mem = s.mem) (fun _ => rfl) (fun p q => q.trans p) (mediaRead_mem h 32) ..
  · rfl

/-! ### A pass ends -/

/-- A pass has overflowed the bucket, and its frame is not forced. -/
def passOverflows (x : Stream) (e : EncRun) (bytes : List Byte) : Bool :=
  decide (rateOf x ≠ 0) && decide (bucketBits x < x.enc.fill + 8 * bytes.length) && !e.forced

theorem passOverflows_iff (x : Stream) (e : EncRun) (bytes : List Byte) :
    passOverflows x e bytes = true ↔ rateOf x ≠ 0 ∧ bucketBits x < x.enc.fill + 8 * bytes.length ∧ e.forced = false := by
  simp [passOverflows, and_assoc]

/-- A frame on its pipe with what a pass has found. -/
def EncRun.searched (e : EncRun) (found : List Vectors × List Choice) : EncRun := { e with vectors := found.1, choices := found.2 }

section
variable {s : State} {h : Nat} {x : Stream} {e : EncRun} {bytes luma chroma : List Byte}

/-- A pass searches and reads its source; then the frame is encoded again, skipped or kept. -/
theorem encodePass_eq (hx : s.stream? h = some x) (hrun : x.enc.run = some e) : encodePass h bytes luma chroma s =
    let r := e.searched (passSearch s.fresh.2 x e s.free)
    let p := sourceDrawn h x e.src s.fresh.2
    if passOverflows x e bytes && !e.retried && decide (e.q < 51) then
      p.1.modEnc h fun c => { c with run := some { r with q := min (e.q + 6) 51, retried := true } }
    else if passOverflows x e bytes then encSkip h x r (p.2 || e.staged) p.1
    else encKeep h x r (p.2 || e.staged) bytes luma chroma p.1 := by
  unfold encodePass
  rw [hx]
  dsimp only
  rw [hrun]
  rfl

/-- The record of a frame moves the producer index of the output ring alone. -/
theorem stream?_encRecord (hx : s.stream? h = some x) (z : Stream) (r : EncRun) (flags len : Nat) :
    ∃ pi, (encRecord h z r flags len s).stream? h = some { x with outPi := pi } := by
  unfold encRecord
  dsimp only
  split
  · exact ⟨_, (stream?_ringIndex ..).trans (stream?_ringPut_out hx _)⟩
  · exact ⟨x.outPi, hx⟩

/-- A frame of a session that is not being closed leaves its pipe. -/
theorem stream?_encEnd (hx : s.stream? h = some x) (hc : x.closing = false) (r : EncRun) : (encEnd h r s).stream? h = some x := by
  have hw : (writeStat h ((setMark r.src mkEnc false s).modBuf r.recon fun y => { y with taken := false })).stream? h = some x := by
    rw [stream?_writeStat, stream?_modBuf, stream?_setMark, hx]
  unfold encEnd
  dsimp only
  rw [closeStep_open hw hc, hw]

/-- A session whose frame has been skipped. -/
def Enc.skipped (r : EncRun) (e : Enc) : Enc :=
  { e with run := none, num := e.num + 1, sinceIdr := e.sinceIdr + 1, idrDue := e.idrDue || r.idr, skips := if r.idr then e.skips + 1 else e.skips }

theorem stream?_encSkip (hx : s.stream? h = some x) (hc : x.closing = false) (z : Stream) (r : EncRun) (damaged : Bool) :
    ∃ y, (encSkip h z r damaged s).stream? h = some y ∧ y.enc = x.enc.skipped r := by
  obtain ⟨pi, hrec⟩ := stream?_encRecord hx z r ((if r.retried then 2 else 0) + 4 + (if damaged then 16 else 0)) 0
  exact ⟨_, stream?_encEnd (stream?_count (stream?_modEnc hrec (Enc.skipped r)) 16 1) hc r, rfl⟩

/-- A session whose frame has been kept. -/
def Enc.kept (rate len : Nat) (r : EncRun) (e : Enc) : Enc :=
  { e with
    run := none
    num := e.num + 1
    produced := e.produced + BitVec.ofNat 32 len
    fill := if rate = 0 then 0 else e.fill + 8 * len
    sinceIdr := if r.idr then 1 else e.sinceIdr + 1
    skips := if r.idr then 0 else e.skips
    vectors := r.vectors
    choices := r.choices
    ref := some r.recon }

theorem stream?_encKeep (hx : s.stream? h = some x) (hc : x.closing = false) (z : Stream) (r : EncRun) (damaged : Bool) :
    ∃ y, (encKeep h z r damaged bytes luma chroma s).stream? h = some y ∧ y.enc = x.enc.kept (rateOf z) bytes.length r := by
  let t := ringStore s (pBsBase z.par) (pBsSize z.par) z.enc.produced bytes
  let addr := match t.buf? r.recon with
    | some y => y.addr
    | none => 0
  let flags := r.idr.toNat + (if r.retried then 2 else 0) + (if r.forced then 8 else 0) + (if damaged then 16 else 0)
  have hput : Beside s (putPicture z.par addr (pMaxW z.par) (pMaxH z.par) luma chroma t) := .trans (beside_ringStore ..) (beside_putPicture ..)
  obtain ⟨pi, hrec⟩ := stream?_encRecord ((hput.stream?_eq h).trans hx) z r flags bytes.length
  have hkept := stream?_modEnc hrec (Enc.kept (rateOf z) bytes.length r)
  let u := (encRecord h z r flags bytes.length (putPicture z.par addr (pMaxW z.par) (pMaxH z.par) luma chroma t)).modEnc h
    (Enc.kept (rateOf z) bytes.length r)
  let v := setMark r.recon mkShort (!z.closing) (match z.enc.ref with
    | some b => setMark b mkShort false u
    | none => u)
  have hv : v.stream? h = u.stream? h := by
    refine (stream?_setMark ..).trans ?_
    split
    · exact stream?_setMark ..
    · rfl
  have htally : Tallies h v (count h 4 1 (if r.retried then count h 12 1 v else v)) :=
    .trans (.ite (tallies_count ..) (.refl h v)) (tallies_count ..)
  have htally' := htally.trans (.ite (c := r.forced = true) (tallies_count h 20 1 _) (.refl h _))
  obtain ⟨c, hc'⟩ := htally'.stream _ (hv.trans hkept)
  exact ⟨_, stream?_encEnd hc' hc r, rfl⟩

variable (hx : s.stream? h = some x) (hrun : x.enc.run = some e)
include hx hrun

/-- A first pass that overflows the bucket is repeated with a higher quality index. -/
theorem encodePass_repeats (hover : passOverflows x e bytes = true) (hfirst : e.retried = false) (hq : e.q < 51) :
    (encodePass h bytes luma chroma s).mem = s.mem ∧ ∃ c, (encodePass h bytes luma chroma s).stream? h = some { x with
      cnt := c
      enc := { x.enc with run := some { e.searched (passSearch s.fresh.2 x e s.free) with q := min (e.q + 6) 51, retried := true } } } := by
  obtain ⟨c, hc⟩ := (tallies_sourceDrawn h x e.src s.fresh.2).stream x hx
  rw [encodePass_eq hx hrun]
  dsimp only
  rw [if_pos (by simp [hover, hfirst, hq])]
  exact ⟨(modStream_mem ..).trans (sourceDrawn_mem ..), c, stream?_modEnc hc _⟩

/-- A pass that overflows the bucket, and may not be repeated, skips its frame. -/
theorem encodePass_skips (hc : x.closing = false) (hover : passOverflows x e bytes = true) (hlast : e.retried = true ∨ 51 ≤ e.q) :
    ∃ y, (encodePass h bytes luma chroma s).stream? h = some y ∧ y.enc = x.enc.skipped (e.searched (passSearch s.fresh.2 x e s.free)) := by
  obtain ⟨c, hdrawn⟩ := (tallies_sourceDrawn h x e.src s.fresh.2).stream x hx
  rw [encodePass_eq hx hrun]
  dsimp only
  rw [if_neg (by rcases hlast with hr | hq <;> simp [*]), if_pos hover]
  exact stream?_encSkip hdrawn hc ..

/-- A pass that stays within the bucket, or is forced, keeps its frame. -/
theorem encodePass_keeps (hc : x.closing = false) (hfits : passOverflows x e bytes = false) :
    ∃ y, (encodePass h bytes luma chroma s).stream? h = some y ∧
      y.enc = x.enc.kept (rateOf x) bytes.length (e.searched (passSearch s.fresh.2 x e s.free)) := by
  obtain ⟨c, hdrawn⟩ := (tallies_sourceDrawn h x e.src s.fresh.2).stream x hx
  rw [encodePass_eq hx hrun]
  dsimp only
  rw [if_neg (by simp [hfits]), if_neg (by simp [hfits])]
  exact stream?_encKeep hdrawn hc ..

end
end Sys2Proof.Machine
end

section
open Sys2Proof Sys2Proof.Machine

/-- Settles O46: each event comes to one case of its meaning, and the session and its buffers are read off there. -/
theorem encodeFlow : Obligations.EncodeFlow := by
  unfold Obligations.EncodeFlow
  intro s h x hup hst hx hk hc
  refine ⟨fun fn v hh hf hm hbell => ⟨fun hv => ?_, fun hv hok => ?_⟩, fun k r b bs hb hready hroom hidle hfree hturn => ?_,
    fun e bytes luma chroma hrun => ?_⟩
  · exact exec_encodeSubmit_taken hup hst hh hf hx hk hc hm hbell v hv
  · obtain ⟨y, z, hy, hsubs, hcons, hz, hmark⟩ := encodeDb_submitted (s := bump s 88 8) (fn := fn) ((stream?_bump ..).trans hx) rfl hv
      ((sourceOk_congr (buf?_bump ..)).trans hok)
    rw [exec_encodeSubmit_rings hup hst hh hf hx hk hc hm hbell]
    exact ⟨_, y, z, rfl, hy, hsubs, hcons, hz, hmark⟩
  · obtain ⟨y, e, z, hy, hsubs, hrun, hpipe, hsrc, hrecon, hretried, hq, hz, htaken⟩ := encStart_begins hx hready hroom hidle hfree hturn hb
    rw [exec_encodeFrameStart, running_eq hup hst]
    exact ⟨_, y, e, z, rfl, hy, hsubs, hrun, hpipe, hsrc, hrecon, hretried, hq, hz, htaken⟩
  · rw [exec_encodePassDone, running_eq hup hst]
    refine ⟨fun hfull hfirst hq => ?_, fun hfull hlast => ?_, fun hfits => ?_⟩
    · obtain ⟨hmem, c, hy⟩ := encodePass_repeats (luma := luma) (chroma := chroma) hx hrun ((passOverflows_iff ..).2 hfull) hfirst hq
      exact ⟨_, _, rfl, hmem, hy, rfl⟩
    · obtain ⟨y, hy, he⟩ := encodePass_skips (luma := luma) (chroma := chroma) hx hrun hc ((passOverflows_iff ..).2 hfull) hlast
      refine ⟨_, y, rfl, hy, ?_⟩
      rw [he]
      exact ⟨rfl, rfl, rfl, rfl, rfl⟩
    · have hno : passOverflows x e bytes = false := Bool.eq_false_iff.2 fun hover => hfits ((passOverflows_iff ..).1 hover)
      obtain ⟨y, hy, he⟩ := encodePass_keeps (luma := luma) (chroma := chroma) hx hrun hc hno
      refine ⟨_, y, rfl, hy, ?_⟩
      rw [he]
      exact ⟨rfl, rfl, rfl, rfl, rfl, rfl, rfl, rfl⟩

end

section
/-!
SUPPORT. What capture, the frame shaper and ingest rely on while their engines read and write memory: two frames, of accesses, which leave the blocks
and the streams alone, and of deliveries, which work on the pool and the streams beside; and the counters of a status block, read one at a time.
-/
namespace Sys2Proof.Machine

/-! ### Frames -/

/-- The registers that the accesses of an engine may move: counters, those of status bits, and the last violation. -/
def engineRegs (k : Nat) : Prop :=
  k ∈ (List.range 96).map Reg.dbgBcnt ++ (List.range 10).map Reg.relCnt ++ [Reg.dbgViolCount, Reg.dbgViolLast] ++ statusRegs

/-- Capture, the shaper, ingest and the pipelines alone, with the clock. -/
def State.enginesAlone (s : State) : State :=
  { clock := s.clock, capture := s.capture, shaper := s.shaper, ingest := s.ingest, pipes := s.pipes }

/-- The same with the pool and the streams. -/
def State.blocksAlone (s : State) : State := { s.enginesAlone with media := s.media }

/-- What the accesses of an engine keep: the registers of the blocks, capture, the shaper, ingest, the pipelines, the pool and the streams. -/
abbrev Apart (s t : State) : Prop := Framed engineRegs State.blocksAlone s t

/-- What a delivery keeps, which works on the pool and the streams. -/
abbrev Delivers (s t : State) : Prop := Framed engineRegs State.enginesAlone s t

theorem engineRegs_bump {i : Nat} (h : i < 96) : engineRegs (Reg.dbgBcnt i) := by
  simp only [engineRegs, List.mem_append]
  exact .inl (.inl (.inl (List.mem_map.2 ⟨i, List.mem_range.2 h, rfl⟩)))

theorem engineRegs_errors {i : Nat} (h : i < 10) : engineRegs (Reg.relCnt i) := by
  simp only [engineRegs, List.mem_append]
  exact .inl (.inl (.inr (List.mem_map.2 ⟨i, List.mem_range.2 h, rfl⟩)))

theorem engineRegs_status : HasStatus engineRegs := fun _ hk => List.mem_append_right _ hk

/-- Where the registers of an engine's accesses stand. -/
theorem engineRegs_places {k : Nat} (h : engineRegs k) :
    k = Reg.glbStatus ∨ k = Reg.hifNote ∨ k = Reg.hifHdrop ∨ Reg.relCnt 0 ≤ k ∧ k < Reg.dbgSnuff ∨ Reg.dbgViolCount ≤ k := by
  simp only [engineRegs, statusRegs, List.mem_append, List.mem_map, List.mem_range, List.mem_cons, List.not_mem_nil, or_false] at h
  unfold Reg.glbStatus Reg.hifNote Reg.hifHdrop Reg.relCnt Reg.dbgSnuff Reg.dbgViolCount Reg.dbgViolLast Reg.dbgBcnt at *
  rcases h with ((⟨i, hi, rfl⟩ | ⟨i, hi, rfl⟩) | h) | h <;> omega

theorem counters_engineRegs : Counters engineRegs .mantel where
  bytes _ hi := engineRegs_bump (by omega)
  port _ hc := nomatch hc
  errors _ hi := engineRegs_errors hi

section
variable {s t : State}

theorem Framed.apart (h : Works engineRegs s t) : Apart s t := ⟨h.1, (congrArg State.blocksAlone h.2 :)⟩
theorem Framed.apartNotes (h : Notes engineRegs s t) : Apart s t := ⟨h.1, (congrArg State.blocksAlone h.2 :)⟩
theorem Framed.delivers (h : Apart s t) : Delivers s t := ⟨h.1, (congrArg State.enginesAlone h.2 :)⟩

theorem Framed.streams_eq (h : Apart s t) : t.media = s.media := (congrArg State.media h.2 :)
theorem Framed.clock_eq (h : Delivers s t) : t.clock = s.clock := (congrArg State.clock h.2 :)
theorem Framed.capture_eq (h : Delivers s t) : t.capture = s.capture := (congrArg State.capture h.2 :)
theorem Framed.shaper_eq (h : Delivers s t) : t.shaper = s.shaper := (congrArg State.shaper h.2 :)
theorem Framed.ingest_eq (h : Delivers s t) : t.ingest = s.ingest := (congrArg State.ingest h.2 :)
theorem Framed.pipes_eq (h : Delivers s t) : t.pipes = s.pipes := (congrArg State.pipes h.2 :)

theorem Framed.sensor?_eq (h : Delivers s t) (k : Nat) : t.sensor? k = s.sensor? k := congrArg (fun c : Capture => tfind c.sensors k) h.capture_eq
theorem Framed.chan_eq (h : Delivers s t) (c : Nat) : t.chan c = s.chan c := congrArg (fun i : Tab Chan => tget ({} : Chan) i c) h.ingest_eq
theorem Framed.shapeRing_eq (h : Delivers s t) (p : Nat) : t.shapeRing p = s.shapeRing p := congrArg (fun r : Shaper => tget ({} : OpRing) r.rings p) h.shaper_eq

theorem apart_of_fields (hr : t.regs = s.regs) (hb : t.blocksAlone = s.blocksAlone) : Apart s t := ⟨fun k _ => reg_congr hr k, hb⟩
theorem delivers_of_fields (hr : t.regs = s.regs) (hb : t.enginesAlone = s.enginesAlone) : Delivers s t := ⟨fun k _ => reg_congr hr k, hb⟩

end

/-! ### Accesses -/

theorem apart_bump {i : Nat} (h : i < 96) (s : State) (n : Nat) : Apart s (bump s i n) := (reads_bump (engineRegs_bump h) s n).works.apart
theorem apart_viol (s : State) (addr kind part : Nat) : Apart s (viol s addr kind part) :=
  (works_viol (by simp [engineRegs]) (by simp [engineRegs]) s addr kind part).apart
theorem apart_reportUnnamed (s : State) (src e a0 a1 a2 : Nat) : Apart s (reportUnnamed s src e a0 a1 a2) :=
  (notes_reportUnnamed s src e a0 a1 a2).apartNotes
theorem apart_lostTaken (s : State) (w : Bool) (a n : Nat) : Apart s (s.lostTaken w a n) := (reads_lostTaken s w a n).works.apart
theorem apart_errUncorrectable (s : State) (k : Nat) : Apart s (errUncorrectable s k) := (reads_errUncorrectable counters_engineRegs s k).works.apart
theorem apart_countAccess (w : Bool) (s : State) (a n : Nat) : Apart s (countAccess .mantel w s a n) :=
  (reads_countAccess counters_engineRegs w s a n).works.apart

theorem apart_engRead (s : State) (a n : Nat) : Apart s (engRead s a n).1 := by
  unfold engRead
  split
  · exact .refl s
  · exact (reads_devRead counters_engineRegs s a n).works.apart

theorem apart_of_engRead {s u : State} {a n : Nat} {bs : List Byte} {p : Option Nat} (h : engRead s a n = (u, bs, p)) : Apart s u := by
  have hread := apart_engRead s a n
  rwa [h] at hread

theorem apart_engWrite (s : State) (a : Nat) (bs : List Byte) : Apart s (engWrite s a bs) := by
  unfold engWrite
  split
  · exact apart_viol ..
  · exact .ite (apart_viol ..) (works_devWrite counters_engineRegs s a bs).apart

theorem apart_spaceWrite (s : State) (host : Bool) (a : Nat) (bs : List Byte) : Apart s (spaceWrite s host a bs) :=
  .ite (notes_hostWrite engineRegs_status s a bs).apartNotes (apart_engWrite ..)

theorem apart_semField (f : Nat) (s : State) : Apart s (semField f s) := .ite (apart_of_fields rfl rfl) (.refl s)

theorem apart_ringRead (s : State) (base size : Nat) (i : W32) (n : Nat) : Apart s (ringRead s base size i n).1 := by
  unfold ringRead
  dsimp only
  split
  · exact apart_engRead ..
  · exact .trans (apart_engRead ..) (apart_engRead ..)

theorem apart_writeStat (h : Nat) (s : State) : Apart s (writeStat h s) := by
  unfold writeStat
  split
  · exact .refl s
  · exact .ite (apart_spaceWrite ..) (.refl s)

theorem apart_ringIndex (h : Nat) (ana : Bool) (s : State) : Apart s (ringIndex h ana s) := by
  unfold ringIndex
  split
  · exact .refl s
  · exact apart_spaceWrite ..

theorem apart_putRows (n pitch k a : Nat) (bs : List Byte) (s : State) : Apart s (putRows n pitch k a bs s) := by
  induction k generalizing a bs s with
  | zero => exact .refl s
  | succ k ih => exact .trans (apart_engWrite ..) (ih ..)

theorem apart_putPicture (par : List Byte) (addr w h : Nat) (luma chroma : List Byte) (s : State) : Apart s (putPicture par addr w h luma chroma s) :=
  .trans (apart_putRows ..) (apart_putRows ..)

/-! ### Work on the pool and the streams -/

theorem delivers_modStream (s : State) (h : Nat) (f : Stream → Stream) : Delivers s (s.modStream h f) := by
  rw [modStream_eq]
  exact delivers_of_fields rfl rfl

theorem delivers_count (h off n : Nat) (s : State) : Delivers s (count h off n s) := delivers_modStream ..

theorem delivers_modBuf (s : State) (b : Nat) (f : Buf → Buf) : Delivers s (s.modBuf b f) := by
  unfold State.modBuf
  split
  · exact delivers_of_fields rfl rfl
  · exact .refl s

theorem delivers_reclaim (s : State) (h : Nat) : Delivers s (reclaim s h) := .ite (.refl s) (delivers_of_fields rfl rfl)

theorem delivers_setMark (b m : Nat) (v : Bool) (s : State) : Delivers s (setMark b m v s) := by
  unfold setMark
  dsimp only
  split
  · split
    · exact delivers_modBuf ..
    · exact (delivers_modBuf ..).trans (delivers_reclaim ..)
  · exact .refl s

theorem delivers_ringPut (h : Nat) (ana : Bool) (bs : List Byte) (s : State) : Delivers s (ringPut h ana bs s) := by
  unfold ringPut
  split
  · exact .refl s
  · exact (apart_spaceWrite ..).delivers.trans (delivers_modStream ..)

theorem delivers_emitFrame (h b : Nat) (bs : List Byte) (s : State) : Delivers s (emitFrame h b bs s) := by
  have hidx : ∀ ana t, Delivers t (ringIndex h ana t) := fun ana t => (apart_ringIndex h ana t).delivers
  unfold emitFrame
  split
  · exact .refl s
  · dsimp only
    have hout : ∀ c : Bool, Delivers s (if c = true then ringPut h false bs s else setMark b mkOut false s) := fun c =>
      .ite (delivers_ringPut ..) (delivers_setMark ..)
    refine .ite (.trans (.ite (.trans (.ite ?_ (hout _)) (hidx ..)) (.ite ?_ (hout _))) (hidx ..)) (.ite (.trans (.ite ?_ (hout _)) (hidx ..)) (.ite ?_ (hout _)))
    all_goals exact (hout _).trans (((delivers_setMark ..).trans (delivers_ringPut ..)).trans (apart_semField ..).delivers)

/-! ### Counters of a status block -/

/-- A counter of the status block of an open stream. -/
def State.tally (s : State) (h off : Nat) : Option Nat := (s.stream? h).map fun y => tget 0 y.cnt off

section
variable {s t : State} {h off : Nat}

theorem tally_congr (hs : t.stream? h = s.stream? h) (off : Nat) : t.tally h off = s.tally h off := congrArg (Option.map _) hs

theorem tally_of (hs : s.stream? h = some y) (off : Nat) : s.tally h off = some (tget 0 y.cnt off) := congrArg (Option.map _) hs

/-- An open stream and its counters, from its tallies. -/
theorem stream?_of_tally {n : Nat} (ht : s.tally h off = some n) : ∃ z, s.stream? h = some z ∧ ∀ o k, s.tally h o = some k → tget 0 z.cnt o = k := by
  unfold State.tally at *
  cases hz : s.stream? h with
  | none => simp [hz] at ht
  | some z => exact ⟨z, rfl, fun o k hk => by simpa [hz] using hk⟩

theorem Framed.tally_eq (hf : Apart s t) (h off : Nat) : t.tally h off = s.tally h off := tally_congr (stream?_of_media hf.streams_eq h) off

@[simp] theorem tally_writeStat (k : Nat) (s : State) (h off : Nat) : (writeStat k s).tally h off = s.tally h off := (apart_writeStat k s).tally_eq h off
@[simp] theorem tally_ringIndex (k : Nat) (ana : Bool) (s : State) (h off : Nat) : (ringIndex k ana s).tally h off = s.tally h off :=
  (apart_ringIndex k ana s).tally_eq h off
@[simp] theorem tally_semField (f : Nat) (s : State) (h off : Nat) : (semField f s).tally h off = s.tally h off := (apart_semField f s).tally_eq h off
@[simp] theorem tally_engWrite (s : State) (a : Nat) (bs : List Byte) (h off : Nat) : (engWrite s a bs).tally h off = s.tally h off :=
  (apart_engWrite s a bs).tally_eq h off
@[simp] theorem tally_modBuf (s : State) (b : Nat) (f : Buf → Buf) (h off : Nat) : (s.modBuf b f).tally h off = s.tally h off :=
  tally_congr (stream?_modBuf s b f h) off
@[simp] theorem tally_setMark (b m : Nat) (v : Bool) (s : State) (h off : Nat) : (setMark b m v s).tally h off = s.tally h off :=
  tally_congr (stream?_setMark b m v s h) off

/-- A change of a stream that is no count. -/
theorem tally_modStream (s : State) (k : Nat) {f : Stream → Stream} (hf : ∀ y, (f y).cnt = y.cnt) (h off : Nat) :
    (s.modStream k f).tally h off = s.tally h off := by
  by_cases e : h = k
  · subst e
    cases hy : s.stream? h with
    | none =>
      unfold State.modStream
      rw [hy]
    | some y => rw [tally_of (stream?_modStream hy f), tally_of hy, hf]
  · exact tally_congr (stream?_modStream_ne s e f) off

@[simp] theorem tally_count_self (h off n : Nat) (s : State) : (count h off n s).tally h off = (s.tally h off).map fun k => satAdd 32 k n := by
  cases hy : s.stream? h with
  | none => simp [State.tally, count, State.modStream, hy]
  | some y => rw [tally_of (stream?_count hy off n), tally_of hy, tget_tset_self, Option.map_some]

theorem tally_count_ne {o : Nat} (ho : o ≠ off) (h n : Nat) (s : State) : (count h off n s).tally h o = s.tally h o := by
  cases hy : s.stream? h with
  | none => simp [State.tally, count, State.modStream, hy]
  | some y => rw [tally_of (stream?_count hy off n), tally_of hy, tget_tset_ne _ _ _ ho]

@[simp] theorem tally_ringPut (k : Nat) (ana : Bool) (bs : List Byte) (s : State) (h off : Nat) : (ringPut k ana bs s).tally h off = s.tally h off := by
  unfold ringPut
  split
  · rfl
  · refine (tally_modStream _ _ (fun y => ?_) h off).trans ((apart_spaceWrite ..).tally_eq h off)
    split <;> rfl

@[simp] theorem tally_emitFrame (k b : Nat) (bs : List Byte) (s : State) (h off : Nat) : (emitFrame k b bs s).tally h off = s.tally h off := by
  unfold emitFrame
  split
  · rfl
  · dsimp only
    split <;> split <;> simp

end
end Sys2Proof.Machine
end

section
/-!
O48. The frame-sync outputs (R275): their words, the pulses that these begin, and the ends of the pulses.
-/
namespace Sys2Proof.Machine

theorem exec_fsyncWordA (fn : Fn) (n : Fin 4) (v : W64) (s : State) :
    exec (.fsyncWordA fn n v) s = live s (orRecord (.fsyncWordA fn n v) (fsyncA fn n.val v)) := rfl
theorem exec_fsyncWordB (fn : Fn) (n : Fin 4) (v : W64) (s : State) :
    exec (.fsyncWordB fn n v) s = live s (orRecord (.fsyncWordB fn n v) (fsyncB fn n.val v)) := rfl
theorem exec_fsyncAssert (n : Fin 4) (s : State) : exec (.fsyncAssert n) s = live s (fsyncAssert n.val) := rfl
theorem exec_fsyncDeassert (n : Fin 4) (s : State) : exec (.fsyncDeassert n) s = live s (fsyncDeassert n.val) := rfl

/-! ### Outputs -/

@[simp] theorem fsync_modFsync_self (s : State) (n : Nat) (f : Fsync → Fsync) : (s.modFsync n f).fsync n = f (s.fsync n) := tget_tmod_self ..
theorem fsync_modFsync_ne (s : State) {n k : Nat} (hk : k ≠ n) (f : Fsync → Fsync) : (s.modFsync n f).fsync k = s.fsync k := tget_tmod_ne _ _ _ hk
@[simp] theorem modFsync_pending (s : State) (n : Nat) (f : Fsync → Fsync) : (s.modFsync n f).pending = s.pending := rfl
@[simp] theorem fsync_bump (s : State) (i n k : Nat) : (bump s i n).fsync k = s.fsync k := congrArg (fun c : Capture => tget ({} : Fsync) c.fsync k) (bump_capture ..)
@[simp] theorem fsync_setReg (s : State) (k : Nat) (v : W64) (n : Nat) : (s.setReg k v).fsync n = s.fsync n := rfl

/-- Two changes that do the same to an output as it is are the same change. -/
theorem modFsync_congr {s : State} {n : Nat} {f g : Fsync → Fsync} (h : f (s.fsync n) = g (s.fsync n)) : s.modFsync n f = s.modFsync n g := by
  unfold State.modFsync tmod
  exact congrArg (fun x => { s with capture := { s.capture with fsync := tset {} s.capture.fsync n x } }) h

/-- Word B that a word A pairs with: the one held, or the one accepted last. -/
def Fsync.wordB (f : Fsync) : W64 := f.heldB.getD ((f.next.map (·.2)).getD f.b)

theorem wordB_eq_iff {f : Fsync} {b : W64} (h : f.heldB = some b ∨ f.heldB = none ∧ (f.next.map (·.2)).getD f.b = b) : f.wordB = b := by
  unfold Fsync.wordB
  rcases h with h | ⟨h, hb⟩
  · rw [h, Option.getD_some]
  · rw [h, Option.getD_none, hb]

/-! ### Words -/

section
variable {s : State} {fn : Fn} {n : Nat} {v : W64} (ho : s.outside fn = false)
include ho

theorem fsyncB_held : fsyncB fn n v s = (s.setReg (Reg.capFsyncB n) v).modFsync n fun f => { f with heldB := some v } := if_neg (by simp [ho])

/-- A word A of a function that may write it, with the word B that it pairs with. -/
theorem fsyncA_eq : fsyncA fn n v s =
    if !fsyncOk v (s.fsync n).wordB then dropCmd s fn (Reg.capFsyncA n)
    else
      let w := s.setReg (Reg.capFsyncA n) (v &&& 0xFFFFFFFF00000003)
      if nbit v.toNat 0 then w.modFsync n fun f => { f with heldB := none, next := some (v, (s.fsync n).wordB) }
      else w.modFsync n fun f =>
        { f with heldB := none, next := none, a := v, b := (s.fsync n).wordB, level := if f.since.isSome then f.level else nbit v.toNat 1 } := by
  unfold fsyncA Fsync.wordB
  rw [ho, if_neg Bool.false_ne_true]
  cases hheld : (s.fsync n).heldB with
  | some b => simp only [hheld, Option.getD_some]
  | none => cases hnext : (s.fsync n).next <;> simp [hheld, hnext]

theorem fsyncA_drops (hbad : fsyncOk v (s.fsync n).wordB = false) : fsyncA fn n v s = dropCmd s fn (Reg.capFsyncA n) := by
  rw [fsyncA_eq ho, if_pos (by simp [hbad])]

theorem fsyncA_waits (hok : fsyncOk v (s.fsync n).wordB = true) (hen : nbit v.toNat 0 = true) : fsyncA fn n v s =
    (s.setReg (Reg.capFsyncA n) (v &&& 0xFFFFFFFF00000003)).modFsync n fun f => { f with heldB := none, next := some (v, (s.fsync n).wordB) } := by
  rw [fsyncA_eq ho, if_neg (by simp [hok])]
  exact if_pos hen

theorem fsyncA_acts (hok : fsyncOk v (s.fsync n).wordB = true) (hen : nbit v.toNat 0 = false) : fsyncA fn n v s =
    (s.setReg (Reg.capFsyncA n) (v &&& 0xFFFFFFFF00000003)).modFsync n fun f =>
      { f with heldB := none, next := none, a := v, b := (s.fsync n).wordB, level := if f.since.isSome then f.level else nbit v.toNat 1 } := by
  rw [fsyncA_eq ho, if_neg (by simp [hok])]
  exact if_neg (by simp [hen])

end

/-! ### Pulses -/

section
variable {s : State} {n : Nat}

theorem fsyncAssert_next {a b : W64} (hn : (s.fsync n).next = some (a, b)) (hdue : fsyncDue a b s.clock.timeM = true) :
    fsyncAssert n s = s.modFsync n fun f => pulseOf { f with next := none } a b s.clock.timeM := by
  simp [fsyncAssert, hn, Option.filter, hdue]

theorem fsyncAssert_due (hn : (s.fsync n).next = none) (hdue : fsyncDue (s.fsync n).a (s.fsync n).b s.clock.timeM = true) :
    fsyncAssert n s = s.modFsync n fun f => pulseOf f f.a f.b s.clock.timeM := by
  simp [fsyncAssert, hn, hdue]

theorem fsyncAssert_not_due (hn : (s.fsync n).next = none) (hdue : fsyncDue (s.fsync n).a (s.fsync n).b s.clock.timeM = false) :
    fsyncAssert n s = s := by
  simp [fsyncAssert, hn, hdue]

variable {st : W64} {w : Nat} (hs : (s.fsync n).since = some (st, w))
include hs

theorem fsyncDeassert_over (h : w ≤ (s.clock.timeM - st).toNat) :
    fsyncDeassert n s = s.modFsync n fun f => { f with since := none, level := nbit f.a.toNat 1 } := by
  unfold fsyncDeassert
  rw [hs]
  exact if_pos h

theorem fsyncDeassert_early (h : (s.clock.timeM - st).toNat < w) : fsyncDeassert n s = s := by
  unfold fsyncDeassert
  rw [hs]
  exact if_neg (by omega)

end

/-! ### The commands -/

theorem exec_fsyncWordA_running {s : State} {fn : Fn} (hup : s.up = true) (hst : s.stopped = false) (hh : tfind s.hif.held fn.num = none)
    (hf : s.hif.flr = []) (n : Fin 4) (v : W64) : exec (.fsyncWordA fn n v) s = .next (keepQueue s (fsyncA fn n.val v (bump s 88 8))) := by
  rw [exec_fsyncWordA, live_orRecord rfl hup hst hh hf]
  rfl

/-- What a write changes beside the queue of commands, with the byte count before it. -/
theorem keepQueue_modFsync (s : State) (i m k : Nat) (v : W64) (n : Nat) (f : Fsync → Fsync) :
    keepQueue s (((bump s i m).setReg k v).modFsync n f) = ((bump s i m).setReg k v).modFsync n f :=
  keepQueue_of_pending (by simp)

end Sys2Proof.Machine
end

section
open Sys2Proof Sys2Proof.Machine

/-- Settles O48: a write of a word comes to one case of its meaning, and an assertion and the end of a pulse to one change of the output. -/
theorem frameSyncOutputs : Obligations.FrameSyncOutputs := by
  unfold Obligations.FrameSyncOutputs
  intro s n hup
  refine ⟨fun fn v hst hh hf ho => ⟨?_, fun b hb => ?_⟩, fun a b hn hdue => ?_, fun hn hdue => ?_, fun hn hdue => ?_, fun st w hs => ⟨fun h => ?_, fun h => ?_⟩⟩
  · rw [exec_fsyncWordB, live_orRecord rfl hup hst hh hf]
    exact congrArg Host.Outcome.next ((congrArg (keepQueue s) (fsyncB_held ho)).trans (keepQueue_modFsync ..))
  · rw [exec_fsyncWordA_running hup hst hh hf]
    have hword : ((bump s 88 8).fsync n.val).wordB = b := wordB_eq_iff (by rw [fsync_bump]; exact hb)
    refine ⟨fun hok hen => ?_, fun hok hen => ?_, fun hbad => ?_⟩
    · rw [fsyncA_waits ho (by rwa [hword]) hen, keepQueue_modFsync, hword]
    · rw [fsyncA_acts ho (by rwa [hword]) hen, keepQueue_modFsync, hword]
      exact congrArg Host.Outcome.next (modFsync_congr (by simp))
    · rw [fsyncA_drops ho (by rwa [hword]), keepQueue_of_pending (by simp)]
  · rw [exec_fsyncAssert, live_eq hup (by rw [fsyncAssert_next hn hdue]; rfl), fsyncAssert_next hn hdue]
    exact ⟨_, rfl, fsync_modFsync_self .., fun k hk => fsync_modFsync_ne s hk _, rfl⟩
  · rw [exec_fsyncAssert, live_eq hup (by rw [fsyncAssert_due hn hdue]; rfl), fsyncAssert_due hn hdue]
    exact ⟨_, rfl, fsync_modFsync_self .., rfl⟩
  · rw [exec_fsyncAssert, live_eq hup (by rw [fsyncAssert_not_due hn hdue]), fsyncAssert_not_due hn hdue]
  · rw [exec_fsyncDeassert, live_eq hup (by rw [fsyncDeassert_over hs h]; rfl), fsyncDeassert_over hs h]
    exact ⟨_, rfl, fsync_modFsync_self .., rfl⟩
  · rw [exec_fsyncDeassert, live_eq hup (by rw [fsyncDeassert_early hs h]), fsyncDeassert_early hs h]

end

section
/-!
O47. Capture (R267 to R279): what its operations leave of sensors and of the counters of their streams.
-/
namespace Sys2Proof.Machine

theorem live_up {s : State} (hup : s.up = true) (k : State → State) : live s k = .next (keepQueue s (k s)) := by
  unfold live gated always
  dsimp only
  rw [if_pos hup]

/-! ### Sensors -/

section
variable {s t : State} {k : Nat}

@[simp] theorem sensor?_putSensor_self (s : State) (k : Nat) (x : Sensor) : (s.putSensor k x).sensor? k = some x := tfind_tput_self ..
@[simp] theorem tally_putSensor (s : State) (k : Nat) (x : Sensor) (h off : Nat) : (s.putSensor k x).tally h off = s.tally h off := rfl

theorem sensorsOn_congr (h : t.capture = s.capture) (port vc : Nat) : sensorsOn t port vc = sensorsOn s port vc := by
  unfold sensorsOn
  rw [h]

/-- A sensor that stays enabled does not leave. -/
theorem capLeave_stays {x : Sensor} (hx : s.sensor? k = some x) (hd : x.disabling = false) : capLeave k s = s := by
  unfold capLeave
  rw [hx]
  simp [hd]

end

/-! ### Lines -/

section
variable {s : State}

theorem apart_putLine (x : Sensor) (c : CapFrame) (row o : Nat) (bs : List Byte) (s : State) : Apart s (putLine x c row o bs s) := by
  unfold putLine
  split
  · exact .refl s
  · dsimp only
    split
    · exact .ite (.refl s) (apart_engWrite ..)
    · exact .refl s

theorem apart_missLine (x : Sensor) (c : CapFrame) (s : State) : Apart s (missLine x c s).1 := apart_putLine ..

theorem apart_fillRest (x : Sensor) (n : Nat) (a : State × CapFrame) : Apart a.1 (fillRest x n a).1 := by
  induction n generalizing a with
  | zero => exact .refl _
  | succ n ih => exact .trans (apart_missLine ..) (ih _)

theorem fillRest_frame (x : Sensor) (n : Nat) (s : State) (c : CapFrame) : ∃ l r, (fillRest x n (s, c)).2 = { c with line := l, raw := r } := by
  induction n generalizing s c with
  | zero => exact ⟨_, _, rfl⟩
  | succ n ih => exact ih ..

theorem testBit_setFlag (f b : Nat) : (setFlag f b).testBit b = true := by
  unfold setFlag nbit
  split
  · assumption
  next h => rw [Nat.add_comm, Nat.testBit_two_pow_add_eq]; simpa using h

/-- A good line is one more received, and it gives a frame without a width its own. -/
theorem goodLine_frame (x : Sensor) (c : CapFrame) (maxW : Nat) (pl : List Byte) (s : State) : ∃ f r, (goodLine x c maxW pl s).2 =
    { c with width := some (c.width.getD (min (linePixels (cDt x.lo) pl).1 maxW)), line := c.line + 1, got := c.got + 1, flags := f, raw := r } := by
  unfold goodLine
  dsimp only
  split <;> dsimp only <;> split <;> exact ⟨_, _, rfl⟩

theorem lostLine_frame (x : Sensor) (c : CapFrame) (flag off : Nat) (s : State) :
    ∃ r, (lostLine x c flag off s).2 = { c with flags := setFlag c.flags flag, line := c.line + 1, raw := r } := ⟨_, rfl⟩

theorem tally_lostLine (x : Sensor) (c : CapFrame) (flag off : Nat) (s : State) :
    (lostLine x c flag off s).1.tally (cHandle x.lo) off = (s.tally (cHandle x.lo) off).map fun k => satAdd 32 k 1 :=
  ((apart_missLine ..).tally_eq ..).trans (tally_count_self ..)

/-- What a long packet does to a frame with a buffer, within the height of the stream. -/
def lineTaken (x : Sensor) (c : CapFrame) (maxW : Nat) (hdr : HdrErr) (crcOk full : Bool) (pl : List Byte) (s : State) : State × CapFrame :=
  if hdr = .bad ∨ full then lostLine x c flLoss 24 s
  else if !crcOk then lostLine x c flCrc 36 s
  else goodLine x c maxW pl s

theorem capLine_taken {k : Nat} {x : Sensor} {c : CapFrame} {st : Stream} (hc : x.cur = some c) (hst : s.stream? (cHandle x.lo) = some st)
    (hb : c.buf.isSome = true) (hs : s.stopped = false) (hl : c.line < pMaxH st.par) {hdr : HdrErr} (hh : hdr ≠ .single) (crcOk full : Bool) (pl : List Byte) :
    capLine k x hdr crcOk full pl s = (lineTaken x c (pMaxW st.par) hdr crcOk full pl s).1.putSensor k
      { x with cur := some (lineTaken x c (pMaxW st.par) hdr crcOk full pl s).2 } := by
  have hbn : c.buf.isNone = false := by simpa using hb
  unfold capLine lineTaken
  rw [hc, hst]
  simp [hh, hbn, hs, Nat.not_le.2 hl]

end

/-! ### Emission -/

/-- The frame in a buffer has been delivered, with its record. -/
def capDelivered (x : Sensor) (c : CapFrame) (b : Nat) (r : List Byte) (s : State) : State :=
  count (cHandle x.lo) 8 1 (emitFrame (cHandle x.lo) b r (setMark b mkOut true (s.modBuf b fun y =>
    { y with taken := false, picW := c.width.getD 0, picH := c.got, arrival := c.arrival })))

theorem delivers_capDelivered (x : Sensor) (c : CapFrame) (b : Nat) (r : List Byte) (s : State) : Delivers s (capDelivered x c b r s) :=
  (((delivers_modBuf ..).trans (delivers_setMark ..)).trans (delivers_emitFrame ..)).trans (delivers_count ..)

theorem delivers_capEmit (x : Sensor) (c : CapFrame) (s : State) : Delivers s (capEmit x c s) := by
  unfold capEmit
  dsimp only
  split
  · refine .trans (.ite (.trans ?_ (delivers_count ..)) ?_) (apart_writeStat ..).delivers
    · exact delivers_capDelivered x c _ _ s
    · exact delivers_capDelivered x c _ _ s
  · exact .refl s

section
variable {s : State} {x : Sensor} {c : CapFrame} {b : Nat} {st : Stream} (hb : c.buf = some b) (hst : s.stream? (cHandle x.lo) = some st)
include hb hst

/-- Emission delivers the frame, counts one of layout 1 a second time, and writes the status block. -/
theorem capEmit_eq : ∃ r, capEmit x c s = writeStat (cHandle x.lo)
    (if layoutOf (cDt x.lo) c.isp = 1 then count (cHandle x.lo) 12 1 (capDelivered x c b r s) else capDelivered x c b r s) := by
  unfold capEmit
  dsimp only
  rw [hb, hst]
  exact ⟨_, rfl⟩

/-- A frame emitted is one more delivered. -/
theorem tally_capEmit_delivered : (capEmit x c s).tally (cHandle x.lo) 8 = (s.tally (cHandle x.lo) 8).map fun k => satAdd 32 k 1 := by
  obtain ⟨r, he⟩ := capEmit_eq hb hst
  rw [he, tally_writeStat]
  split
  · simp [capDelivered, tally_count_ne (show (8 : Nat) ≠ 12 by decide)]
  · simp [capDelivered]

/-- Emission counts nothing in another counter. -/
theorem tally_capEmit_ne {off : Nat} (h8 : off ≠ 8) (h12 : off ≠ 12) : (capEmit x c s).tally (cHandle x.lo) off = s.tally (cHandle x.lo) off := by
  obtain ⟨r, he⟩ := capEmit_eq hb hst
  rw [he, tally_writeStat]
  split <;> simp [capDelivered, tally_count_ne h8, tally_count_ne h12]

end
end Sys2Proof.Machine
end

section
/-!
O47. The commands of capture: CAP_COMMIT, frame starts, long packets, frame ends, and the end of a frame in its image pipe (R267, R268, R270, R272, R273,
R277).
-/
namespace Sys2Proof.Machine

theorem exec_capCommit (fn : Fn) (s : State) : exec (.capCommit fn) s = bar0 fn 4 s (capCommit fn) := rfl
theorem exec_frameStartPacket (port : Fin 4) (vc : BitVec 4) (hdr : HdrErr) (s : State) :
    exec (.frameStartPacket port vc hdr) s = live s (frameStart port.val vc.toNat hdr) := rfl
theorem exec_longPacket (port : Fin 4) (vc : BitVec 4) (dt : BitVec 6) (hdr : HdrErr) (crcOk full : Bool) (pl : List Byte) (s : State) :
    exec (.longPacket port vc dt hdr crcOk full pl) s = live s (longPacket port.val vc.toNat dt.toNat hdr crcOk full pl) := rfl
theorem exec_frameEndPacket (port : Fin 4) (vc : BitVec 4) (hdr : HdrErr) (s : State) :
    exec (.frameEndPacket port vc hdr) s = live s (frameEnd port.val vc.toNat hdr) := rfl
theorem exec_ispFrameDone (i : Fin 16) (colours medians filtered : List (BitVec 16)) (s : State) :
    exec (.ispFrameDone i colours medians filtered) s = running s (ispDone i.val ⟨colours, medians, filtered⟩) := rfl

/-! ### The commit of a set -/

theorem apart_capAreas (f : Nat) (is : List Nat) (s : State) : Apart s (capAreas f is s).1 := by
  induction is generalizing s with
  | nil => exact .refl s
  | cons i is ih =>
    unfold capAreas
    dsimp only
    split
    · exact .trans (apart_engRead ..) (ih _)
    · exact ih s

theorem capResult_shows {code : Nat} (hc : code < 16) (s : State) :
    (capResult code s).fld Reg.capCommit 15 12 = code ∧ (capResult code s).bit Reg.capCommit 8 = (code != 0) := by
  unfold capResult
  constructor
  · have hcode := fld_setFld_self (s.setBit Reg.capCommit 8 (code != 0)) (k := Reg.capCommit) (hi := 15) (lo := 12) (v := code) (by decide) (by decide)
    exact hcode.trans (Nat.mod_eq_of_lt hc)
  · unfold State.bit
    rw [fld_setFld_ne _ (by decide) (by decide) (by decide) (by decide) (.inr (by decide))]
    exact bit_setBit_self ..

@[simp] theorem capResult_capture (code : Nat) (s : State) : (capResult code s).capture = s.capture := by simp [capResult]
@[simp] theorem capResult_media (code : Nat) (s : State) : (capResult code s).media = s.media := by simp [capResult]

/-- A sensor is enabled, or finishes. -/
def State.hasSensor (s : State) (k : Nat) : Prop := (s.sensor? k).isSome = true

section
variable {s : State} {k : Nat} (h : s.hasSensor k)
include h

theorem hasSensor_putSensor (i : Nat) (x : Sensor) : (s.putSensor i x).hasSensor k := by
  unfold State.hasSensor at *
  by_cases e : k = i
  · rw [e, sensor?_putSensor_self, Option.isSome_some]
  · exact (congrArg Option.isSome (tfind_tput_ne _ x e)).trans h

theorem hasSensor_giveContexts : (giveContexts s).hasSensor k := by
  unfold giveContexts
  refine List.foldlRecOn (motive := fun t : State => t.hasSensor k) _ _ h fun t ht i _ => ?_
  split
  · split
    · split
      · exact hasSensor_putSensor ht ..
      · exact ht
    · exact ht
  · exact ht

theorem hasSensor_capEnable (x : SensorSet) : (capEnable x s).hasSensor k := by
  unfold capEnable
  split
  · exact hasSensor_putSensor h ..
  · dsimp only
    unfold State.hasSensor
    rw [(apart_writeStat ..).delivers.sensor?_eq]
    exact hasSensor_putSensor (s := s.putStream (cHandle x.lo) _) h ..

end

theorem capEnable_hasSensor (x : SensorSet) (s : State) : (capEnable x s).hasSensor x.idx := by
  unfold capEnable State.hasSensor
  split
  · rw [sensor?_putSensor_self, Option.isSome_some]
  · dsimp only
    rw [(apart_writeStat ..).delivers.sensor?_eq]
    exact congrArg Option.isSome (sensor?_putSensor_self ..)

/-- Every sensor of an accepted set is enabled. -/
theorem foldl_capEnable_hasSensor (xs : List SensorSet) (s : State) : ∀ x ∈ xs, (xs.foldl (fun s x => capEnable x s) s).hasSensor x.idx := by
  induction xs generalizing s with
  | nil => exact fun _ h => nomatch h
  | cons y ys ih =>
    intro x hx
    rcases List.mem_cons.1 hx with rfl | hx
    · exact List.foldlRecOn (motive := fun t : State => t.hasSensor x.idx) ys _ (capEnable_hasSensor x s) fun t ht z _ => hasSensor_capEnable ht z
    · exact ih _ x hx

theorem capAccept_hasSensor (f : Nat) (xs : List SensorSet) (pool : Tab Buf) (s : State) : ∀ x ∈ xs, (capAccept f xs pool s).hasSensor x.idx :=
  fun x hx => hasSensor_giveContexts (foldl_capEnable_hasSensor xs _ x hx)

section
variable {u v : State} {fn : Fn} {xs : List SensorSet} {poison : Bool} (hareas : capAreas fn.num (List.range 16) u = (v, xs, poison))
include hareas

theorem capJudge_rejects (hbad : poison = true ∨ capSetBad v fn.num xs = true) : capJudge fn.num u = capResult 1 v := by
  unfold capJudge
  rw [hareas]
  exact if_pos (by simpa using hbad)

theorem capJudge_accepts (hp : poison = false) (hok : capSetBad v fn.num xs = false)
    (hh : capHandles v (xs.filter fun x => !wasOn v x.idx) = false) {pool : Tab Buf}
    (hpool : capReserve v (xs.filter fun x => !wasOn v x.idx) = .ok pool) : capJudge fn.num u = capResult 0 (capAccept fn.num xs pool v) := by
  unfold capJudge
  rw [hareas]
  dsimp only
  rw [if_neg (by simp [hp, hok]), if_neg (by simp [hh]), hpool]

end

theorem exec_capCommit_judges {s : State} {fn : Fn} (hup : s.up = true) (hh : tfind s.hif.held fn.num = none) (hf : s.hif.flr = [])
    (ho : (bump s 88 4).outside fn = false) (hr : (bump s 88 4).ready = true) :
    exec (.capCommit fn) s = .next (capJudge fn.num (bump s 88 4)) := by
  rw [exec_capCommit, bar0_next hup hh hf ((capCommit_pending ..).trans (bump_pending ..))]
  unfold capCommit
  rw [if_neg (by simp [ho]), if_neg (by simp [hr])]

/-! ### Frame starts -/

section
variable {s : State} {port vc : Nat}

theorem unmatched_on (h : portOn s port = true) : unmatched port s = s.addSat (Reg.capPortstat port) 31 0 1 := if_pos h

theorem frameStart_none (h : sensorsOn s port vc = []) : frameStart port vc .clean s = unmatched port s := by
  simp [frameStart, h]

theorem frameEnd_none (h : sensorsOn s port vc = []) : frameEnd port vc .clean s = unmatched port s := by
  simp [frameEnd, h]

section
variable {k : Nat} {x : Sensor}

theorem frameStart_one (h : sensorsOn s port vc = [(k, x)]) :
    frameStart port vc .clean s = capStart k .clean (if x.disabling then unmatched port s else s) := by
  simp [frameStart, h]

/-- A start on a sensor with no open frame. -/
theorem capStart_idle (hx : s.sensor? k = some x) (hc : x.cur = none) : capStart k .clean s = if x.disabling then s else capOpen k s := by
  have hclose : capClose k true s = s := by
    unfold capClose
    rw [hx]
    dsimp only
    rw [hc]
  unfold capStart
  rw [hx]
  simp [hclose]

theorem frameStart_disabling (h : sensorsOn s port vc = [(k, x)]) (hx : s.sensor? k = some x) (hd : x.disabling = true) (hc : x.cur = none)
    (hon : portOn s port = true) : frameStart port vc .clean s = s.addSat (Reg.capPortstat port) 31 0 1 := by
  rw [frameStart_one h, if_pos hd, unmatched_on hon, capStart_idle (x := x) _ hc, if_pos hd]
  exact hx

theorem stopped_setReg {r : Nat} (s : State) (h : r ≠ Reg.dbgSnuff) (v : W64) : (s.setReg r v).stopped = s.stopped := by
  unfold State.stopped
  rw [fld_of_reg _ _ _ (reg_setReg_ne s v (by simpa [fieldKey] using h.symm))]

/-- The frame that a start opens on a sensor with nothing to adopt: in a free buffer, if there is one, under the sensor's number and the clock's stamp. -/
theorem sensor?_capOpen (hx : s.sensor? k = some x) (hn : x.next = none) (hi : x.idx < 16) (hs : s.stopped = false) :
    ∃ isp flags first, (capOpen k s).sensor? k = some { x with
      num := x.num + 1
      cur := some { buf := s.anyFree (cHandle x.lo), num := x.num, arrival := s.clock.timeM, isp := isp, area := x.area, flags := flags, first := first } } := by
  have hstop : ((s.setReg (Reg.capSensor x.idx) x.lo).setReg (Reg.capSensor x.idx + 8) x.hi).stopped = false := by
    rw [stopped_setReg _ (by unfold Reg.capSensor Reg.dbgSnuff; omega), stopped_setReg _ (by unfold Reg.capSensor Reg.dbgSnuff; omega), hs]
  unfold capOpen
  rw [hx]
  simp only [hn]
  rw [hstop, (apart_writeStat ..).delivers.sensor?_eq, if_neg Bool.false_ne_true]
  split
  · rw [(delivers_modBuf ..).sensor?_eq, (delivers_count ..).sensor?_eq]
    exact ⟨_, _, _, sensor?_putSensor_self ..⟩
  · rw [(delivers_count ..).sensor?_eq, (delivers_count ..).sensor?_eq]
    exact ⟨_, _, _, sensor?_putSensor_self ..⟩

end
end

/-! ### Long packets -/

section
variable {s : State} {port vc dt : Nat} {pl : List Byte} {k : Nat} {x : Sensor} {c : CapFrame} {st : Stream} (hp : port < 4)
  (hx : (sensorsOn s port vc).find? (fun y => cDt y.2.lo == dt && y.2.cur.isSome) = some (k, x)) (hc : x.cur = some c) (hb : c.buf.isSome = true)
  (hs : s.stopped = false) (hst : s.stream? (cHandle x.lo) = some st) (hl : c.line < pMaxH st.par)
include hp hx hc hb hs hst hl

/-- A long packet of an open frame reaches its sensor, once its payload has been counted. -/
theorem longPacket_taken {hdr : HdrErr} (hh : hdr ≠ .single) (crcOk full : Bool) : ∃ u, Apart s u ∧
    longPacket port vc dt hdr crcOk full pl s = (lineTaken x c (pMaxW st.par) hdr crcOk full pl u).1.putSensor k
      { x with cur := some (lineTaken x c (pMaxW st.par) hdr crcOk full pl u).2 } := by
  have hi : 92 + port < 96 := by omega
  have hu : Apart s (if hdr ≠ .bad ∧ portOn s port then bump s (92 + port) pl.length else s) := .ite (apart_bump hi ..) (.refl s)
  have hstop : (if hdr ≠ .bad ∧ portOn s port then bump s (92 + port) pl.length else s).stopped = false := by
    split
    · rw [bump_stopped _ _ _ hi, hs]
    · exact hs
  refine ⟨_, hu, ?_⟩
  unfold longPacket
  dsimp only
  rw [sensorsOn_congr hu.delivers.capture_eq, hx]
  exact capLine_taken hc ((stream?_of_media hu.streams_eq _).trans hst) hb hstop hl hh crcOk full pl

theorem longPacket_good : ∃ y c', (longPacket port vc dt .clean true false pl s).sensor? k = some y ∧ y.cur = some c' ∧ c'.line = c.line + 1 ∧
    c'.got = c.got + 1 ∧ c'.num = c.num ∧ c'.buf = c.buf ∧
    c'.width = some (c.width.getD (min (linePixels (cDt x.lo) pl).1 (pMaxW st.par))) := by
  obtain ⟨u, -, he⟩ := longPacket_taken (pl := pl) hp hx hc hb hs hst hl (hdr := .clean) (by decide) true false
  obtain ⟨f, r, hframe⟩ := goodLine_frame x c (pMaxW st.par) pl u
  have htaken : lineTaken x c (pMaxW st.par) .clean true false pl u = goodLine x c (pMaxW st.par) pl u := by simp [lineTaken]
  rw [he, htaken, hframe]
  exact ⟨_, _, sensor?_putSensor_self .., rfl, rfl, rfl, rfl, rfl, rfl⟩

/-- A line that is lost, by `flag` and the counter at `off`, takes its place in the frame. -/
theorem longPacket_lost {hdr : HdrErr} (hh : hdr ≠ .single) {crcOk full : Bool} {flag off : Nat}
    (htaken : ∀ u, lineTaken x c (pMaxW st.par) hdr crcOk full pl u = lostLine x c flag off u) :
    ∃ y c' z, (longPacket port vc dt hdr crcOk full pl s).sensor? k = some y ∧ y.cur = some c' ∧ c'.line = c.line + 1 ∧ c'.got = c.got ∧
      c'.flags.testBit flag = true ∧ (longPacket port vc dt hdr crcOk full pl s).stream? (cHandle x.lo) = some z ∧
      tget 0 z.cnt off = satAdd 32 (tget 0 st.cnt off) 1 := by
  obtain ⟨u, hu, he⟩ := longPacket_taken (pl := pl) hp hx hc hb hs hst hl hh crcOk full
  obtain ⟨r, hframe⟩ := lostLine_frame x c flag off u
  have hcount : (longPacket port vc dt hdr crcOk full pl s).tally (cHandle x.lo) off = some (satAdd 32 (tget 0 st.cnt off) 1) := by
    rw [he, tally_putSensor, htaken, tally_lostLine, hu.tally_eq, tally_of hst, Option.map_some]
  obtain ⟨z, hz, hcnt⟩ := stream?_of_tally hcount
  have hsensor : (longPacket port vc dt hdr crcOk full pl s).sensor? k = some { x with cur := some (lostLine x c flag off u).2 } := by
    rw [he, htaken, sensor?_putSensor_self]
  exact ⟨_, _, z, hsensor, rfl, by rw [hframe], by rw [hframe], by rw [hframe]; exact testBit_setFlag .., hz, hcnt _ _ hcount⟩

end

/-! ### Frame ends -/

/-- Lines of the first frame of a sensor since its adoption, where one is open. -/
def Sensor.lines (x : Sensor) (c : CapFrame) : Nat := x.height.getD c.line

/-- An open frame that ends, counted and flagged where it has fewer lines than the first. -/
def shortNoted (x : Sensor) (c : CapFrame) (s : State) : State × CapFrame :=
  (if c.line < x.lines c then count (cHandle x.lo) 28 1 s else s, if c.line < x.lines c then { c with flags := setFlag c.flags flShort } else c)

/-- An open frame that ends, with its missing lines filled. -/
def frameClosed (x : Sensor) (c : CapFrame) (s : State) : State × CapFrame :=
  fillRest x (x.lines c - (shortNoted x c s).2.line) (shortNoted x c s)

/-- A sensor whose open frame has ended as `c`. -/
def Sensor.ended (x : Sensor) (lines : Nat) (c : CapFrame) : Sensor :=
  { x with cur := none, height := some lines, tail := if c.isp then x.tail ++ [c] else x.tail }

theorem shortNoted_frame (x : Sensor) (c : CapFrame) (s : State) : ∃ f, (shortNoted x c s).2 = { c with flags := f } := by
  unfold shortNoted
  dsimp only
  split <;> exact ⟨_, rfl⟩

theorem frameClosed_frame (x : Sensor) (c : CapFrame) (s : State) : ∃ f l r, (frameClosed x c s).2 = { c with flags := f, line := l, raw := r } := by
  obtain ⟨f, hf⟩ := shortNoted_frame x c s
  obtain ⟨l, r, h⟩ := fillRest_frame x (x.lines c - (shortNoted x c s).2.line) (shortNoted x c s).1 (shortNoted x c s).2
  exact ⟨f, l, r, by rw [frameClosed, h, hf]⟩

theorem apart_frameClosed (x : Sensor) (c : CapFrame) (s : State) :
    Apart (if c.line < x.lines c then count (cHandle x.lo) 28 1 s else s) (frameClosed x c s).1 := apart_fillRest ..

/-- An open frame that ends: the sensor holds it no more. -/
def frameLeft (k : Nat) (x : Sensor) (c : CapFrame) (s : State) : State :=
  (frameClosed x c s).1.putSensor k (x.ended (x.lines c) (frameClosed x c s).2)

theorem isp_frameClosed (x : Sensor) (c : CapFrame) (s : State) : (frameClosed x c s).2.isp = c.isp := by
  obtain ⟨f, l, r, hframe⟩ := frameClosed_frame x c s
  rw [hframe]

theorem buf_frameClosed (x : Sensor) (c : CapFrame) (s : State) : (frameClosed x c s).2.buf = c.buf := by
  obtain ⟨f, l, r, hframe⟩ := frameClosed_frame x c s
  rw [hframe]

theorem num_frameClosed (x : Sensor) (c : CapFrame) (s : State) : (frameClosed x c s).2.num = c.num := by
  obtain ⟨f, l, r, hframe⟩ := frameClosed_frame x c s
  rw [hframe]

/-- The end of an open frame with a buffer: it waits for its image pipe, or is emitted. -/
theorem capClose_ends {s : State} {k : Nat} {x : Sensor} {c : CapFrame} (hx : s.sensor? k = some x) (hd : x.disabling = false)
    (hc : x.cur = some c) (hb : c.buf.isNone = false) :
    capClose k false s = if c.isp then frameLeft k x c s else capEmit x (frameClosed x c s).2 (frameLeft k x c s) := by
  have hclose : capClose k false s =
      capLeave k (if (frameClosed x c s).2.isp then frameLeft k x c s else capEmit x (frameClosed x c s).2 (frameLeft k x c s)) := by
    unfold capClose
    rw [hx]
    dsimp only
    rw [hc]
    dsimp only
    rw [if_neg (show ¬c.buf.isNone = true by simp [hb])]
    simp only [Bool.false_or, decide_eq_true_eq]
    rfl
  have hleft : (frameLeft k x c s).sensor? k = some (x.ended (x.lines c) (frameClosed x c s).2) := sensor?_putSensor_self ..
  rw [hclose, isp_frameClosed]
  split
  · exact capLeave_stays hleft hd
  · exact capLeave_stays (((delivers_capEmit ..).sensor?_eq k).trans hleft) hd

section
variable {s : State} {k : Nat} {x : Sensor} {c : CapFrame} {st : Stream} (hst : s.stream? (cHandle x.lo) = some st)
include hst

/-- A frame that ends short of the first is counted, and no other is. -/
theorem tally_frameLeft_short : (frameLeft k x c s).tally (cHandle x.lo) 28 =
    some (if c.line < x.lines c then satAdd 32 (tget 0 st.cnt 28) 1 else tget 0 st.cnt 28) := by
  unfold frameLeft
  rw [tally_putSensor, (apart_frameClosed x c s).tally_eq]
  split
  · rw [tally_count_self, tally_of hst, Option.map_some]
  · exact tally_of hst 28

theorem tally_frameLeft_ne {off : Nat} (h : off ≠ 28) : (frameLeft k x c s).tally (cHandle x.lo) off = some (tget 0 st.cnt off) := by
  unfold frameLeft
  rw [tally_putSensor, (apart_frameClosed x c s).tally_eq]
  split
  · rw [tally_count_ne h, tally_of hst]
  · exact tally_of hst off

end

section
variable {s : State} {port vc k : Nat} {x : Sensor} {c : CapFrame} {st : Stream} {b : Nat} (hon : sensorsOn s port vc = [(k, x)])
  (hx : s.sensor? k = some x) (hd : x.disabling = false) (hs : s.stopped = false)
  (hc : x.cur = some c) (hb : c.buf = some b)
include hon hx hd hs hc hb

theorem frameEnd_one : frameEnd port vc .clean s =
    if c.isp then frameLeft k x c s else capEmit x (frameClosed x c s).2 (frameLeft k x c s) := by
  rw [← capClose_ends hx hd hc (by simp [hb])]
  simp [frameEnd, hon, hc, hs]

/-- A frame that ends outside an image pipe is emitted at once. -/
theorem frameEnd_emits (hst : s.stream? (cHandle x.lo) = some st) (hisp : c.isp = false) : ∃ y z, (frameEnd port vc .clean s).sensor? k = some y ∧ y.cur = none ∧
    y.height = some (x.lines c) ∧ (frameEnd port vc .clean s).stream? (cHandle x.lo) = some z ∧ tget 0 z.cnt 8 = satAdd 32 (tget 0 st.cnt 8) 1 ∧
    tget 0 z.cnt 28 = if c.line < x.lines c then satAdd 32 (tget 0 st.cnt 28) 1 else tget 0 st.cnt 28 := by
  have hend := frameEnd_one hon hx hd hs hc hb
  rw [if_neg (by simp [hisp])] at hend
  obtain ⟨st', hst', -⟩ := stream?_of_tally (tally_frameLeft_ne (k := k) (c := c) hst (show (8 : Nat) ≠ 28 by decide))
  have hbuf : (frameClosed x c s).2.buf = some b := (buf_frameClosed ..).trans hb
  have hdelivered := tally_capEmit_delivered hbuf hst'
  rw [tally_frameLeft_ne hst (by decide), Option.map_some, ← hend] at hdelivered
  have hshort := tally_capEmit_ne hbuf hst' (off := 28) (by decide) (by decide)
  rw [tally_frameLeft_short hst, ← hend] at hshort
  have hsensor : (frameEnd port vc .clean s).sensor? k = some (x.ended (x.lines c) (frameClosed x c s).2) := by
    rw [hend, (delivers_capEmit ..).sensor?_eq]
    exact sensor?_putSensor_self ..
  obtain ⟨z, hz, hcnt⟩ := stream?_of_tally hdelivered
  exact ⟨_, z, hsensor, rfl, rfl, hz, hcnt _ _ hdelivered, hcnt _ _ hshort⟩

/-- A frame that ends in an image pipe waits behind those that have ended before. -/
theorem frameEnd_waits (hisp : c.isp = true) : ∃ y c', (frameEnd port vc .clean s).sensor? k = some y ∧ y.cur = none ∧ y.tail = x.tail ++ [c'] ∧
    c'.num = c.num ∧ c'.buf = some b := by
  have hsensor : (frameEnd port vc .clean s).sensor? k = some (x.ended (x.lines c) (frameClosed x c s).2) := by
    rw [frameEnd_one hon hx hd hs hc hb, if_pos hisp]
    exact sensor?_putSensor_self ..
  exact ⟨_, _, hsensor, rfl, if_pos ((isp_frameClosed ..).trans hisp), num_frameClosed .., (buf_frameClosed ..).trans hb⟩

end

/-! ### The image pipe -/

/-- A sensor whose oldest ended frame has left its image pipe: the tile means of the frame stay with it. -/
def Sensor.piped (x : Sensor) (m : IspMade) (st : Stream) (c : CapFrame) (cs : List CapFrame) : Sensor :=
  { x with
    tail := cs
    tiles := (ispFrame c.area m (pTen st.par) (c.width.getD (pMaxW st.par)) c.raw (if c.first then [] else x.tiles)).means }

/-- The oldest frame of a sensor leaves its image pipe: its tile means stay with the sensor, and it is emitted. -/
theorem ispDone_emits {s : State} {i k : Nat} {m : IspMade} {x : Sensor} {c : CapFrame} {cs : List CapFrame} {st : Stream} {b : Nat}
    (hlast : (s.capture.sensors.filter fun y => y.2.idx == i && !y.2.tail.isEmpty).getLast? = some (k, x)) (ht : x.tail = c :: cs)
    (hst : s.stream? (cHandle x.lo) = some st) (hb : c.buf = some b) (hd : x.disabling = false) :
    ∃ y z, (ispDone i m s).sensor? k = some y ∧ y.tail = cs ∧
      y.tiles = (ispFrame c.area m (pTen st.par) (c.width.getD (pMaxW st.par)) c.raw (if c.first then [] else x.tiles)).means ∧
      (ispDone i m s).stream? (cHandle x.lo) = some z ∧ tget 0 z.cnt 8 = satAdd 32 (tget 0 st.cnt 8) 1 := by
  have hdone : ∃ v, Apart (s.putSensor k (x.piped m st c cs)) v ∧ ispDone i m s = capLeave k (capEmit x c v) := by
    unfold ispDone
    rw [hlast]
    dsimp only
    rw [ht, hst]
    refine ⟨_, ?_, rfl⟩
    split
    · exact .trans (apart_putPicture ..) (apart_engWrite ..)
    · exact apart_putPicture ..
  obtain ⟨v, hv, hdone⟩ := hdone
  have hstv : v.stream? (cHandle x.lo) = some st := (stream?_of_media hv.streams_eq _).trans hst
  have hsensor : (capEmit x c v).sensor? k = some (x.piped m st c cs) := by
    rw [(delivers_capEmit ..).sensor?_eq, hv.delivers.sensor?_eq]
    exact sensor?_putSensor_self ..
  rw [hdone, capLeave_stays hsensor hd]
  have hcount := tally_capEmit_delivered hb hstv
  rw [tally_of hstv, Option.map_some] at hcount
  obtain ⟨z, hz, hcnt⟩ := stream?_of_tally hcount
  exact ⟨x.piped m st c cs, z, hsensor, rfl, by rw [Sensor.piped], hz, hcnt _ _ hcount⟩

end Sys2Proof.Machine
end

section
open Sys2Proof Sys2Proof.Machine

/-- Settles O47: a commit comes to one end of its judgement, and each packet and the end of a frame in its image pipe to one change of the sensor and of the
counters of its stream. -/
theorem captureFlow : Obligations.CaptureFlow := by
  unfold Obligations.CaptureFlow
  intro s hup
  refine ⟨fun fn hh hf ho hr v xs poison hareas => ?_, fun port vc => ?_, fun port vc dt pl k x c st hx hc hb hs hst hl => ?_,
    fun i m k x c cs st b hlast ht hst hb _ hd hs => ?_⟩
  · have hv : Apart (bump s 88 4) v := by
      have := apart_capAreas fn.num (List.range 16) (bump s 88 4)
      rwa [hareas] at this
    rw [exec_capCommit_judges hup hh hf ho hr]
    refine ⟨fun hbad => ?_, fun hp hok hh' pool hpool => ?_⟩
    · obtain ⟨hcode, herr⟩ := capResult_shows (code := 1) (by decide) v
      rw [capJudge_rejects hareas hbad]
      exact ⟨_, rfl, hcode, herr, by rw [capResult_capture, hv.delivers.capture_eq, bump_capture],
        by rw [capResult_media, hv.streams_eq, bump_media]⟩
    · obtain ⟨hcode, herr⟩ := capResult_shows (code := 0) (by decide) (capAccept fn.num xs pool v)
      rw [capJudge_accepts hareas hp hok hh' hpool]
      refine ⟨_, rfl, hcode, herr, fun x hx => ?_⟩
      unfold State.sensor?
      rw [capResult_capture]
      exact capAccept_hasSensor fn.num xs pool v x hx
  · simp only [exec_frameStartPacket, exec_frameEndPacket]
    refine ⟨live_eq hup rfl, live_eq hup rfl, fun hnone hon => ?_, fun k x hone hx hd hc hon => ?_, fun k x st hone hx hst hd hi hs => ⟨fun hc hn => ?_, ?_⟩⟩
    · rw [live_up hup, live_up hup, frameStart_none hnone, frameEnd_none hnone, unmatched_on hon, keepQueue_of_pending (addSat_pending ..)]
      exact ⟨rfl, rfl⟩
    · rw [live_up hup, frameStart_disabling hone hx hd hc hon, keepQueue_of_pending (addSat_pending ..)]
    · obtain ⟨isp, flags, first, hopen⟩ := sensor?_capOpen hx hn hi hs
      rw [live_up hup, frameStart_one hone, if_neg (by simp [hd]), capStart_idle hx hc, if_neg (by simp [hd])]
      exact ⟨_, _, _, rfl, hopen, rfl, rfl, rfl, rfl, rfl, rfl⟩
    · intro c b hc hb _
      rw [live_up hup]
      refine ⟨fun hisp => ?_, fun hisp => ?_⟩
      · obtain ⟨y, z, hy, hcur, hheight, hz, hdelivered, hshort⟩ := frameEnd_emits hone hx hd hs hc hb hst hisp
        refine ⟨_, y, z, rfl, hy, hcur, hheight, hz, hdelivered, fun hl => ?_, fun hl => ?_⟩
        · exact hshort.trans (if_neg (Nat.not_lt.2 hl))
        · exact hshort.trans (if_pos hl)
      · obtain ⟨y, c', hy, hcur, htail, hnum, hbuf⟩ := frameEnd_waits hone hx hd hs hc hb hisp
        exact ⟨_, y, c', rfl, hy, hcur, htail, hnum, hbuf⟩
  · simp only [exec_longPacket, live_up hup]
    refine ⟨?_, ?_, ?_⟩
    · obtain ⟨y, c', h⟩ := longPacket_good (pl := pl) port.isLt hx hc hb hs hst hl
      exact ⟨_, y, c', rfl, h⟩
    · obtain ⟨y, c', z, h⟩ := longPacket_lost (pl := pl) port.isLt hx hc hb hs hst hl (hdr := .bad) (crcOk := true) (full := false)
        (flag := flLoss) (off := 24) (by decide) fun u => by simp [lineTaken]
      exact ⟨_, y, c', z, rfl, h⟩
    · obtain ⟨y, c', z, h⟩ := longPacket_lost (pl := pl) port.isLt hx hc hb hs hst hl (hdr := .clean) (crcOk := false) (full := false)
        (flag := flCrc) (off := 36) (by decide) fun u => by simp [lineTaken]
      exact ⟨_, y, c', z, rfl, h⟩
  · obtain ⟨y, z, h⟩ := ispDone_emits (m := m) hlast ht hst hb hd
    rw [exec_ispFrameDone, running_eq hup hs]
    exact ⟨_, y, z, rfl, h⟩

end

section
/-!
O50. The frame shaper (R280 to R286): rings, the judgement of regions, and what an operation that starts leaves alone.
-/
namespace Sys2Proof.Machine

theorem exec_shapeRingWrite (fn : Fn) (p : Fin 16) (v : W64) (s : State) :
    exec (.shapeRingWrite fn p v) s = live s (orRecord (.shapeRingWrite fn p v) (shapeRingWrite fn p.val v)) := rfl
theorem exec_shapeDoorbell (fn : Fn) (p : Fin 16) (x : W32) (s : State) :
    exec (.shapeDoorbell fn p x) s = live s (orRecord (.shapeDoorbell fn p x) (shapeDoorbell fn p.val x)) := rfl
theorem exec_shapeOpStart (p : Fin 16) (s : State) : exec (.shapeOpStart p) s = running s (shapeStart p.val) := rfl
theorem exec_shapeOpDone (s : State) : exec .shapeOpDone s = running s shapeDone := rfl

/-! ### Rings -/

@[simp] theorem shapeRing_modShapeRing_self (s : State) (p : Nat) (f : OpRing → OpRing) : (s.modShapeRing p f).shapeRing p = f (s.shapeRing p) :=
  tget_tmod_self ..
theorem shapeRing_modShapeRing_ne (s : State) {p k : Nat} (h : k ≠ p) (f : OpRing → OpRing) : (s.modShapeRing p f).shapeRing k = s.shapeRing k :=
  tget_tmod_ne _ _ _ h
@[simp] theorem shapeRing_bump (s : State) (i n p : Nat) : (bump s i n).shapeRing p = s.shapeRing p := rfl

/-- A ring register written shows its fields, and a ring that is enabled anew starts at 0. -/
theorem ringSet_fields (v : W64) (busy : Bool) (r : OpRing) :
    (ringSet v busy r).en = nbit v.toNat 0 ∧ (ringSet v busy r).log = nbits v.toNat 5 1 ∧ (ringSet v busy r).base = nbits v.toNat 39 12 * 4096 ∧
      (nbit v.toNat 0 = true → r.en = false → (ringSet v busy r).head = 0 ∧ (ringSet v busy r).tail = 0) ∧
      (nbit v.toNat 0 = false ∨ r.en = true → (ringSet v busy r).head = r.head ∧ (ringSet v busy r).tail = r.tail) := by
  refine ⟨rfl, rfl, rfl, fun hv hr => ?_, fun h => ?_⟩
  · simp [ringSet, hv, hr]
  · have hno : (nbit v.toNat 0 && !r.en) = false := by rcases h with h | h <;> simp [h]
    simp [ringSet, hno]

/-- The pipelines of a partition whose ring starts anew have no place in it any more. -/
def shapeUnplaced (p : Nat) (v : W64) (s : State) : State :=
  if nbit v.toNat 0 && !(s.shapeRing p).en then s.mapPipes p fun x => { x with shapeAt := none } else s

theorem shapeUnplaced_eq (p : Nat) (v : W64) (s : State) : shapeUnplaced p v s = { s with
    pipes := if nbit v.toNat 0 && !(s.shapeRing p).en then (s.mapPipes p fun x => { x with shapeAt := none }).pipes else s.pipes } := by
  unfold shapeUnplaced
  split <;> rfl

theorem shapeRingWrite_may {s : State} {fn : Fn} {p : Nat} (h : s.mayPart fn p = true) (v : W64) : shapeRingWrite fn p v s =
    let w := ((shapeUnplaced p v s).modShapeRing p (ringSet v (shapeBusy (shapeUnplaced p v s) p))).setReg (Reg.shapeRing p) (v &&& ringMask)
    w.setReg (Reg.shapeHead p) (BitVec.ofNat 64 (w.shapeRing p).head.toNat) := if_neg (by simp [h])

theorem shapeRing_shapeRingWrite {s : State} {fn : Fn} {p : Nat} (h : s.mayPart fn p = true) (v : W64) :
    (shapeRingWrite fn p v s).shapeRing p = ringSet v (shapeBusy s p) (s.shapeRing p) := by
  rw [shapeRingWrite_may h, shapeUnplaced_eq]
  exact shapeRing_modShapeRing_self ..

theorem shapeRing_shapeRingWrite_ne {s : State} {fn : Fn} {p k : Nat} (h : s.mayPart fn p = true) (v : W64) (hk : k ≠ p) :
    (shapeRingWrite fn p v s).shapeRing k = s.shapeRing k := by
  rw [shapeRingWrite_may h, shapeUnplaced_eq]
  exact shapeRing_modShapeRing_ne _ hk _

/-- A ring write moves the registers of its ring alone. -/
theorem onlyRegs_shapeRingWrite {s : State} {fn : Fn} {p : Nat} (h : s.mayPart fn p = true) (v : W64) :
    OnlyRegs [Reg.shapeRing p, Reg.shapeHead p] s (shapeRingWrite fn p v s) := by
  intro k hk
  obtain ⟨hring, hhead⟩ : k ≠ Reg.shapeRing p ∧ k ≠ Reg.shapeHead p := by simpa using hk
  rw [shapeRingWrite_may h, shapeUnplaced_eq]
  exact (reg_setReg_ne _ _ hhead).trans (reg_setReg_ne _ _ hring)

/-- Beside registers, a ring write changes the shaper and the pipelines alone. -/
theorem shapeRingWrite_eq {s : State} {fn : Fn} {p : Nat} (h : s.mayPart fn p = true) (v : W64) : shapeRingWrite fn p v s = { s with
    regs := (shapeRingWrite fn p v s).regs
    shaper := (shapeRingWrite fn p v s).shaper
    pipes := if nbit v.toNat 0 && !(s.shapeRing p).en then (s.mapPipes p fun x => { x with shapeAt := none }).pipes else s.pipes } := by
  rw [shapeRingWrite_may h, shapeUnplaced_eq]
  rfl

theorem shapeRingWrite_denied {s : State} {fn : Fn} {p : Nat} (h : s.mayPart fn p = false) (v : W64) :
    shapeRingWrite fn p v s = denied s fn (Reg.shapeRing p) := if_pos (by simp [h])

theorem shapeDoorbell_denied {s : State} {fn : Fn} {p : Nat} (h : s.mayPart fn p = false) (x : W32) :
    shapeDoorbell fn p x s = denied s fn (Reg.shapeDb p) := if_pos (by simp [h])

theorem shapeDoorbell_may {s : State} {fn : Fn} {p : Nat} (h : s.mayPart fn p = true) (x : W32) : shapeDoorbell fn p x s =
    if s.noBells || !tailOk (s.shapeRing p) x then dropCmd s fn (Reg.shapeDb p) else s.modShapeRing p fun r => { r with tail := x } :=
  if_neg (by simp [h])

/-! ### What the judgement of a region rests on -/

/-- A region that an operation cannot produce: its entry, its source or its place breaks a rule. -/
def regionBad (s : State) (p : Nat) (r : List Byte) : Bool :=
  entryBad r || sourceUnmarked s r || sourceForeign s p r || !tensorPlaced s p r

theorem regionBad_iff (s : State) (p : Nat) (r : List Byte) : regionBad s p r = true ↔
    entryBad r = true ∨ sourceUnmarked s r = true ∨ sourceForeign s p r = true ∨ tensorPlaced s p r = false := by
  simp [regionBad, or_assoc]

section
variable {s t : State} (h : Apart s t)
include h

theorem Framed.usable_eq : t.usable = s.usable := h.fld_eq (fun hk => by
  have := engineRegs_places hk
  unfold fieldKey Reg.memCapacity Reg.glbStatus Reg.hifNote Reg.hifHdrop Reg.relCnt Reg.dbgSnuff Reg.dbgViolCount at this
  omega) 39

theorem Framed.placeOf_eq (a : Nat) : t.placeOf a = s.placeOf a := by
  unfold State.placeOf
  rw [h.usable_eq]

theorem Framed.inAper_eq {p : Nat} (hp : p < 16) (x n : Nat) : t.inAper p x n = s.inAper p x n := by
  have hkey : ∀ a < 4, ∀ lo, lo < 128 → ¬engineRegs (fieldKey (Reg.mmuAper p a) lo) := fun a ha lo hlo hk => by
    have := engineRegs_places hk
    unfold fieldKey Reg.mmuAper Reg.glbStatus Reg.hifNote Reg.hifHdrop Reg.relCnt Reg.dbgSnuff Reg.dbgViolCount at this
    omega
  have haper : ∀ a < 4, ∀ y, t.aperHas p a y = s.aperHas p a y := fun a ha y => by
    unfold State.aperHas
    dsimp only
    rw [h.bit_eq (hkey a ha 0 (by omega)), h.fld_eq (hkey a ha 12 (by omega)), h.fld_eq (hkey a ha 76 (by omega))]
  unfold State.inAper
  congr 1
  funext i
  rw [Bool.eq_iff_iff, List.any_eq_true, List.any_eq_true]
  exact exists_congr fun a => and_congr_right fun ha => by rw [haper a (List.mem_range.1 ha)]

theorem Framed.coreList_eq {p : Nat} (hp : p < 16) : t.coreList p = s.coreList p := by
  unfold State.coreList State.partCores
  rw [h.fld_eq (fun hk => by
    have := engineRegs_places hk
    unfold fieldKey Reg.qmPart Reg.glbStatus Reg.hifNote Reg.hifHdrop Reg.relCnt Reg.dbgSnuff Reg.dbgViolCount at this
    omega)]

theorem Framed.tensorPlaced_eq {p : Nat} (hp : p < 16) (r : List Byte) : tensorPlaced t p r = tensorPlaced s p r := by
  unfold tensorPlaced State.inGddr State.rangePlace
  simp only [h.usable_eq, h.inAper_eq hp, h.coreList_eq hp, h.placeOf_eq]

theorem Framed.regionBad_eq {p : Nat} (hp : p < 16) (r : List Byte) : regionBad t p r = regionBad s p r := by
  unfold regionBad sourceUnmarked sourceForeign
  rw [h.tensorPlaced_eq hp, buf?_of_media h.streams_eq]

theorem Framed.regionStale_eq (t0 : W64) (r : List Byte) : regionStale t t0 r = regionStale s t0 r := by
  unfold regionStale sensorOfBuf
  rw [buf?_of_media h.streams_eq, h.delivers.capture_eq]

end

/-! ### The judgement of regions -/

/-- Numbers put among the valid, the stale and the invalid ones, each once. -/
structure Judged (bad stale : Nat → Bool) (is valid old wrong : List Nat) : Prop where
  perm : (valid ++ old ++ wrong).Perm is
  valid : ∀ i ∈ valid, bad i = false ∧ stale i = false
  old : ∀ i ∈ old, bad i = false ∧ stale i = true
  wrong : ∀ i ∈ wrong, bad i = true

section
variable {bad stale : Nat → Bool} {is vs ss bs : List Nat}

theorem Judged.nil : Judged bad stale [] [] [] [] := ⟨.nil, by simp, by simp, by simp⟩

theorem Judged.cons_valid (h : Judged bad stale is vs ss bs) {i : Nat} (hb : bad i = false) (hs : stale i = false) :
    Judged bad stale (i :: is) (i :: vs) ss bs :=
  ⟨h.perm.cons i, List.forall_mem_cons.2 ⟨⟨hb, hs⟩, h.valid⟩, h.old, h.wrong⟩

theorem Judged.cons_old (h : Judged bad stale is vs ss bs) {i : Nat} (hb : bad i = false) (hs : stale i = true) :
    Judged bad stale (i :: is) vs (i :: ss) bs := by
  refine ⟨?_, h.valid, List.forall_mem_cons.2 ⟨⟨hb, hs⟩, h.old⟩, h.wrong⟩
  rw [List.append_assoc]
  exact List.perm_middle.trans (((List.append_assoc ..).symm ▸ h.perm).cons i)

theorem Judged.cons_wrong (h : Judged bad stale is vs ss bs) {i : Nat} (hb : bad i = true) : Judged bad stale (i :: is) vs ss (i :: bs) :=
  ⟨List.perm_middle.trans (h.perm.cons i), h.valid, h.old, List.forall_mem_cons.2 ⟨hb, h.wrong⟩⟩

/-- The invalid ones are exactly the bad ones. -/
theorem Judged.mem_wrong_iff (h : Judged bad stale is vs ss bs) {i : Nat} (hi : i ∈ is) : i ∈ bs ↔ bad i = true := by
  refine ⟨h.wrong i, fun hb => ?_⟩
  have hmem := h.perm.mem_iff.2 hi
  simp only [List.mem_append] at hmem
  rcases hmem with (hv | ho) | hw
  · exact absurd ((h.valid i hv).1.symm.trans hb) Bool.false_ne_true
  · exact absurd ((h.old i ho).1.symm.trans hb) Bool.false_ne_true
  · exact hw

end

/-- What the judgement of a region reports: a source of another partition, and a tensor that the partition may not have written. -/
def regionNoted (p : Nat) (r : List Byte) (s : State) : State :=
  let s' := if sourceForeign s p r then viol s (rBuf r) 4 p else s
  if !tensorPlaced s p r then viol s' (rDst r) 4 p else s'

theorem apart_regionNoted (p : Nat) (r : List Byte) (s : State) : Apart s (regionNoted p r s) := by
  have hf : Apart s (if sourceForeign s p r then viol s (rBuf r) 4 p else s) := .ite (apart_viol ..) (.refl s)
  exact .ite (hf.trans (apart_viol ..)) hf

/-- The number of a region is put where the region belongs. -/
def ShapeRun.sorted (x : ShapeRun) (bad stale : Bool) (i : Nat) : ShapeRun :=
  if bad then { x with bad := x.bad ++ [i] } else if stale then { x with stale := x.stale ++ [i] } else { x with valid := x.valid ++ [i] }

theorem judgeRegion_eq (p : Nat) (x : ShapeRun) (i : Nat) (r : List Byte) (s : State) :
    judgeRegion p x i r s = (regionNoted p r s, x.sorted (regionBad s p r) (regionStale s x.start r) i) := by
  have happ := apart_regionNoted p r s
  have hmark : sourceUnmarked (regionNoted p r s) r = sourceUnmarked s r := by
    unfold sourceUnmarked
    rw [buf?_of_media happ.streams_eq]
  have hjudge : judgeRegion p x i r s =
      if entryBad r || sourceUnmarked (regionNoted p r s) r || sourceForeign s p r || !tensorPlaced s p r then
        (regionNoted p r s, { x with bad := x.bad ++ [i] })
      else if regionStale (regionNoted p r s) x.start r then (regionNoted p r s, { x with stale := x.stale ++ [i] })
      else (regionNoted p r s, { x with valid := x.valid ++ [i] }) := rfl
  rw [hjudge, hmark, happ.regionStale_eq]
  unfold ShapeRun.sorted regionBad
  split
  · rfl
  · split <;> rfl

theorem judgeAll_cons (p i : Nat) (r : List Byte) (rs : List (List Byte)) (s : State) (x : ShapeRun) : judgeAll p i (r :: rs) s x =
    judgeAll p (i + 1) rs (regionNoted p r s) (x.sorted (regionBad s p r) (regionStale s x.start r) i) := by
  have hcons : judgeAll p i (r :: rs) s x = judgeAll p (i + 1) rs (judgeRegion p x i r s).1 (judgeRegion p x i r s).2 := rfl
  rw [hcons, judgeRegion_eq]

theorem apart_judgeAll (p i : Nat) (rs : List (List Byte)) (s : State) (x : ShapeRun) : Apart s (judgeAll p i rs s x).1 := by
  induction rs generalizing i s x with
  | nil => exact .refl s
  | cons r rs ih =>
    rw [judgeAll_cons]
    exact .trans (apart_regionNoted ..) (ih ..)

/-- Every region is put where it belongs, by the state before the judgement. -/
theorem judgeAll_run {p : Nat} (hp : p < 16) {s0 : State} (g : Nat → List Byte) (rs : List (List Byte)) (i : Nat) {s : State} (hs : Apart s0 s)
    (x : ShapeRun) (hg : ∀ j (h : j < rs.length), g (i + j) = rs[j]) : ∃ vs ss bs,
    Judged (fun j => regionBad s0 p (g j)) (fun j => regionStale s0 x.start (g j)) (List.range' i rs.length) vs ss bs ∧
      (judgeAll p i rs s x).2 = { x with valid := x.valid ++ vs, stale := x.stale ++ ss, bad := x.bad ++ bs } := by
  induction rs generalizing i s x with
  | nil =>
    rw [List.length_nil, List.range'_zero]
    exact ⟨[], [], [], .nil, by simp only [List.append_nil]; rfl⟩
  | cons r rs ih =>
    have hr : g i = r := hg 0 (Nat.zero_lt_succ _)
    have hrest : ∀ j (h : j < rs.length), g (i + 1 + j) = rs[j] := fun j h => by
      rw [Nat.add_assoc, Nat.add_comm 1 j]
      exact hg (j + 1) (Nat.succ_lt_succ h)
    have hone : (judgeAll p i (r :: rs) s x).2 =
        (judgeAll p (i + 1) rs (regionNoted p r s) (x.sorted (regionBad s0 p (g i)) (regionStale s0 x.start (g i)) i)).2 := by
      rw [judgeAll_cons, hs.regionBad_eq hp, hs.regionStale_eq, hr]
    have hnext : Apart s0 (regionNoted p r s) := hs.trans (apart_regionNoted ..)
    rw [hone, List.length_cons, List.range'_succ]
    unfold ShapeRun.sorted
    cases hb : regionBad s0 p (g i) with
    | true =>
      obtain ⟨vs, ss, bs, hj, he⟩ := ih (i + 1) hnext { x with bad := x.bad ++ [i] } hrest
      exact ⟨vs, ss, i :: bs, hj.cons_wrong hb, by simpa using he⟩
    | false =>
      cases hst : regionStale s0 x.start (g i) with
      | true =>
        obtain ⟨vs, ss, bs, hj, he⟩ := ih (i + 1) hnext { x with stale := x.stale ++ [i] } hrest
        exact ⟨vs, i :: ss, bs, hj.cons_old hb hst, by simpa using he⟩
      | false =>
        obtain ⟨vs, ss, bs, hj, he⟩ := ih (i + 1) hnext { x with valid := x.valid ++ [i] } hrest
        exact ⟨i :: vs, ss, bs, hj.cons_valid hb hst, by simpa using he⟩

end Sys2Proof.Machine
end

section
/-!
O50. Operations of the frame shaper: their start, from a ring or for a pipeline, and their end (R274, R281, R285, R286).
-/
namespace Sys2Proof.Machine

/-! ### The start of an operation -/

theorem apart_readRegs (a n : Nat) (s : State) : Apart s (readRegs a n s).1 := by
  induction n with
  | zero => exact .refl s
  | succ n ih => exact ih.trans (apart_engRead ..)

theorem readRegs_length (a n : Nat) (s : State) : (readRegs a n s).2.length = n := by
  induction n with
  | zero => rfl
  | succ n ih =>
    have hsucc : (readRegs a (n + 1) s).2 = (readRegs a n s).2 ++ [(engRead (readRegs a n s).1 (a + 64 * n) 64).2.1] := rfl
    rw [hsucc, List.length_append, ih, List.length_singleton]

theorem delivers_countStale (x : ShapeRun) (s : State) : Delivers s (countStale x s) :=
  .foldl _ (fun s b _ => by
    split
    · exact delivers_count ..
    · exact .refl s) s

/-- A partition has been served. -/
def State.shapeServed (s : State) (p : Nat) : State := { s with shaper := { s.shaper with last := p } }

/-- An operation runs, and its partition has been served. -/
def State.withRun (s : State) (x : ShapeRun) (p : Nat) : State := { s with shaper := { s.shaper with run := some x, last := p } }

/-- An operation that starts runs with every region judged by the state before it, and nothing of the blocks moves. -/
theorem shapeBegin_runs {p : Nat} (hp : p < 16) {s0 s : State} (hs : Apart s0 s) (h : List Byte) (regs : List (List Byte)) (pipe : Option Nat)
    (ring : Bool) : ∃ u x, Delivers s u ∧ shapeBegin p h regs pipe ring s = u.withRun x p ∧ x.part = p ∧ x.header = h ∧ x.regs = regs ∧
      x.start = s.clock.timeM ∧ x.pipe = pipe ∧ x.ring = ring ∧
      Judged (fun i => regionBad s0 p (x.reg i)) (fun i => regionStale s0 s.clock.timeM (x.reg i)) (List.range regs.length) x.valid x.stale x.bad := by
  let x0 : ShapeRun := { part := p, header := h, regs := regs, start := s.clock.timeM, valid := [], stale := [], bad := [], pipe := pipe, ring := ring }
  have hg : ∀ j (hj : j < regs.length), (fun i => regs.getD i []) (0 + j) = regs[j] := fun j hj => by simp [hj]
  obtain ⟨vs, ss, bs, hj, hrun⟩ := judgeAll_run hp (fun i => regs.getD i []) regs 0 hs x0 hg
  have hbegin : shapeBegin p h regs pipe ring s = (countStale (judgeAll p 0 regs s x0).2 (judgeAll p 0 regs s x0).1).withRun (judgeAll p 0 regs s x0).2 p :=
    rfl
  refine ⟨_, _, (apart_judgeAll p 0 regs s x0).delivers.trans (delivers_countStale ..), hbegin, ?_⟩
  rw [hrun]
  rw [← List.range_eq_range'] at hj
  exact ⟨rfl, rfl, rfl, rfl, rfl, rfl, hj⟩

section
variable {s : State} {p : Nat}

theorem shapeStart_other (h : s.shaper.run.isSome = true ∨ nextInTurn s.shaper.last ((List.range 16).filter (shapeReady s)) ≠ some p) :
    shapeStart p s = s := if_pos (by simpa using h)

section
variable (hrun : s.shaper.run = none) (hturn : nextInTurn s.shaper.last ((List.range 16).filter (shapeReady s)) = some p)
include hrun hturn

/-- The next operation of a partition in turn: one outside its ring, one of a pipeline at the head of its ring, or the one that the ring holds there. -/
theorem shapeStart_turn : shapeStart p s =
    match shapePipe s p none, shapePipe s p (some (s.shapeRing p).head) with
    | some (k, h, g), _ => shapeFromPipe p k h g false s
    | none, some (k, h, g) => shapeFromPipe p k h g true s
    | none, none =>
      let a := (s.shapeRing p).base + (s.shapeRing p).head.toNat % 2 ^ (s.shapeRing p).log * 64
      let (s, h, _) := engRead s a 64
      if headerBad h then shapeAdvance p { viol s a 6 p with shaper := { s.shaper with last := p } }
      else
        let (s, regs) := readRegs (hRegAddr h) (hNreg h) s
        shapeBegin p h regs none true s := if_neg (by simp [hrun, hturn])

theorem shapeStart_pipe {k : Nat} {h r : List Byte} {ring : Bool} (hp : shapePipe s p none = some (k, h, r) ∧ ring = false ∨
    shapePipe s p none = none ∧ shapePipe s p (some (s.shapeRing p).head) = some (k, h, r) ∧ ring = true) :
    shapeStart p s = shapeFromPipe p k h r ring s := by
  rw [shapeStart_turn hrun hturn]
  rcases hp with ⟨hout, rfl⟩ | ⟨hout, hin, rfl⟩
  · rw [hout]
  · rw [hout, hin]

variable (hout : shapePipe s p none = none) (hin : shapePipe s p (some (s.shapeRing p).head) = none) {u : State} {h : List Byte} {k : Option Nat}
  (hread : engRead s ((s.shapeRing p).base + (s.shapeRing p).head.toNat % 2 ^ (s.shapeRing p).log * 64) 64 = (u, h, k))
include hout hin hread

theorem shapeStart_malformed (hbad : headerBad h = true) : shapeStart p s = shapeAdvance p
    ((viol u ((s.shapeRing p).base + (s.shapeRing p).head.toNat % 2 ^ (s.shapeRing p).log * 64) 6 p).shapeServed p) := by
  rw [shapeStart_turn hrun hturn, hout, hin]
  dsimp only
  rw [hread]
  unfold State.shapeServed
  rw [viol_shaper]
  exact if_pos hbad

theorem shapeStart_ring (hok : headerBad h = false) :
    shapeStart p s = shapeBegin p h (readRegs (hRegAddr h) (hNreg h) u).2 none true (readRegs (hRegAddr h) (hNreg h) u).1 := by
  rw [shapeStart_turn hrun hturn, hout, hin]
  dsimp only
  rw [hread]
  exact if_neg (by simp [hok])

end
end

/-! ### The head of a ring -/

/-- The head of a ring moves on, unless the ring was set anew under the operation. -/
def OpRing.advanced (r : OpRing) : OpRing := if r.stopping then { r with stopping := false } else { r with head := r.head + 1 }

theorem shapeRing_shapeAdvance (p : Nat) (s : State) : (shapeAdvance p s).shapeRing p = (s.shapeRing p).advanced :=
  shapeRing_modShapeRing_self s p OpRing.advanced

@[simp] theorem shapeAdvance_run (p : Nat) (s : State) : (shapeAdvance p s).shaper.run = s.shaper.run := rfl
@[simp] theorem shapeAdvance_last (p : Nat) (s : State) : (shapeAdvance p s).shaper.last = s.shaper.last := rfl

theorem reg_shapeAdvance (p : Nat) (s : State) {k : Nat} (h : k ≠ Reg.shapeHead p) : (shapeAdvance p s).reg k = s.reg k := reg_setReg_ne _ _ h

theorem violLast_kind (s : State) (addr part : Nat) {kind : Nat} (h : kind < 16) :
    nbits ((viol s addr kind part).reg Reg.dbgViolLast).toNat 43 40 = kind := by
  have hreg : (viol s addr kind part).reg Reg.dbgViolLast = BitVec.ofNat 64 (addr % 2 ^ 40 + kind % 16 * 2 ^ 40 + part % 16 * 2 ^ 44) :=
    reg_setReg_self ..
  rw [hreg, BitVec.toNat_ofNat, nbits, Nat.shiftRight_eq_div_pow]
  omega

end Sys2Proof.Machine
end

section
/-!
O50. The end of an operation of the frame shaper, stage by stage: the tensors and the result record, the released buffers, the semaphore, the ring, and the
pipeline (R285 steps 2 to 6).
-/
namespace Sys2Proof.Machine

/-! ### Tensors and the result record -/

@[simp] theorem engWrite_qm (s : State) (a : Nat) (bs : List Byte) : (engWrite s a bs).qm = s.qm := spaceWrite_qm s false a bs

theorem foldl_qm {α : Type} {f : State → α → State} (hf : ∀ s a, (f s a).qm = s.qm) (l : List α) (s : State) : (l.foldl f s).qm = s.qm := by
  induction l generalizing s with
  | nil => rfl
  | cons a l ih => exact (ih _).trans (hf s a)

/-- The accesses of a region that is produced, before its tensor is written. -/
def cropRead (rows : List (Nat × Nat)) (keys : List Nat) (s : State) : State :=
  keys.foldl (fun s k => reportUnnamed (errUncorrectable s k) 0x06 1 k (k / 2 ^ 32) 0)
    (rows.foldl (fun s x => (countAccess .mantel false s x.1 x.2).lostTaken false x.1 x.2) s)

theorem apart_cropRead (rows : List (Nat × Nat)) (keys : List Nat) (s : State) : Apart s (cropRead rows keys s) :=
  .trans (.foldl _ (fun _ _ _ => (apart_countAccess ..).trans (apart_lostTaken ..)) s)
    (.foldl _ (fun _ _ _ => (apart_errUncorrectable ..).trans (apart_reportUnnamed ..)) _)

theorem cropRead_qm (rows : List (Nat × Nat)) (keys : List Nat) (s : State) : (cropRead rows keys s).qm = s.qm := by
  unfold cropRead
  rw [foldl_qm fun s k => (reportUnnamed_qm ..).trans (accesses_errUncorrectable ..).qm,
    foldl_qm fun s x => ((accesses_countAccess ..).trans (accesses_lostTaken ..)).qm]

theorem produce_state (r : List Byte) (s : State) : (produce r s).1 = s ∨ ∃ rows keys bs, (produce r s).1 = engWrite (cropRead rows keys s) (rDst r) bs := by
  unfold produce
  split
  · exact .inl rfl
  · exact .inr ⟨_, _, _, rfl⟩

/-- Producing regions leaves the blocks and the queue manager alone. -/
theorem produceAll_frame (x : ShapeRun) (is : List Nat) (s : State) : Apart s (produceAll x is s).1 ∧ (produceAll x is s).1.qm = s.qm := by
  induction is generalizing s with
  | nil => exact ⟨.refl s, rfl⟩
  | cons i is ih =>
    have hone : Apart s (produce (x.reg i) s).1 ∧ (produce (x.reg i) s).1.qm = s.qm := by
      rcases produce_state (x.reg i) s with h | ⟨rows, keys, bs, h⟩
      · rw [h]
        exact ⟨.refl s, rfl⟩
      · rw [h]
        exact ⟨(apart_cropRead ..).trans (apart_engWrite ..), (engWrite_qm ..).trans (cropRead_qm ..)⟩
    obtain ⟨hrest, hqm⟩ := ih (produce (x.reg i) s).1
    exact ⟨hone.1.trans hrest, hqm.trans hone.2⟩

/-- The tensors of an operation and its result record are written. -/
def shapeWritten (x : ShapeRun) (s : State) : State :=
  let (s, poisoned, sat) := produceAll x x.valid s
  if hResult x.header then engWrite s (hResAddr x.header) (resultRecord x poisoned sat s.clock.timeM) else s

theorem shapeWritten_frame (x : ShapeRun) (s : State) : Apart s (shapeWritten x s) ∧ (shapeWritten x s).qm = s.qm := by
  obtain ⟨hall, hqm⟩ := produceAll_frame x x.valid s
  unfold shapeWritten
  dsimp only
  split
  · exact ⟨hall.trans (apart_engWrite ..), (engWrite_qm ..).trans hqm⟩
  · exact ⟨hall, hqm⟩

theorem shapeWritten_mem {x : ShapeRun} {s u : State} {ps : List Nat} {sat : Nat} (h : produceAll x x.valid s = (u, ps, sat)) : (shapeWritten x s).mem =
    (if hResult x.header then engWrite u (hResAddr x.header) (resultRecord x ps sat s.clock.timeM) else u).mem := by
  have hclock : u.clock = s.clock := by
    have hall := (produceAll_frame x x.valid s).1.delivers.clock_eq
    rwa [h] at hall
  unfold shapeWritten
  rw [h]
  dsimp only
  rw [hclock]

/-! ### Released buffers -/

/-- A mark that is set or cleared changes the pool alone. -/
theorem setMark_eq (b m : Nat) (v : Bool) (s : State) : setMark b m v s = { s with media := (setMark b m v s).media } := by
  have hbuf : ∀ f : Buf → Buf, s.modBuf b f = { s with media := (s.modBuf b f).media } := fun f => by
    unfold State.modBuf
    split <;> rfl
  have hreclaim : ∀ (t : State) h, reclaim t h = { t with media := (reclaim t h).media } := fun t h => by
    unfold reclaim
    split <;> rfl
  unfold setMark
  dsimp only
  split
  · split
    · exact hbuf _
    · rw [hreclaim, hbuf]
  · rfl

theorem tfind_filter {α : Type} {t : Tab α} {k : Nat} {v : α} {P : Nat × α → Bool} (h : tfind t k = some v) (hP : P (k, v) = true) :
    tfind (t.filter P) k = some v := by
  induction t with
  | nil => exact nomatch h
  | cons e t ih =>
    obtain ⟨j, w⟩ := e
    unfold tfind at h
    split at h
    next hj =>
      obtain rfl : w = v := Option.some.inj h
      subst hj
      rw [List.filter_cons_of_pos hP, tfind, if_pos rfl]
    next hj =>
      by_cases hw : P (j, w) = true
      · rw [List.filter_cons_of_pos hw, tfind, if_neg hj]
        exact ih h
      · rw [List.filter_cons_of_neg hw]
        exact ih h

/-- Buffers of an open stream stay when those of a handle are reclaimed. -/
theorem buf?_reclaim_open {s : State} {b : Nat} {z : Buf} (hz : s.buf? b = some z) (ho : (s.stream? z.owner).isSome = true) (h : Nat) :
    (reclaim s h).buf? b = some z := by
  cases hh : (s.stream? h).isSome with
  | true =>
    rw [reclaim_open hh]
    exact hz
  | false =>
    have hne : z.owner ≠ h := fun e => by simp [← e, ho] at hh
    rw [reclaim_gone hh]
    exact tfind_filter hz (by simp [hne])

theorem has_mark_false (z : Buf) (m : Nat) : (z.mark m false).has m = false := by
  unfold Buf.has Buf.mark
  rw [BitVec.toNat_ofNat, Nat.testBit_mod_two_pow, nput_testBit _ _ _ _ _ (by omega)]
  simp

/-- A buffer of an open stream once a mark has been cleared somewhere: its own mark is gone where it was that buffer's. -/
theorem buf?_setMark_false {s : State} {b : Nat} {z : Buf} (hz : s.buf? b = some z) (ho : (s.stream? z.owner).isSome = true) (k m : Nat) :
    (setMark k m false s).buf? b = some (if b = k then z.mark m false else z) := by
  by_cases hk : b = k
  · subst hk
    have hput : (s.withPool (tput s.media.pool b (z.mark m false))).buf? b = some (z.mark m false) := tfind_tput_self ..
    rw [setMark_false_of hz, if_pos rfl]
    exact buf?_reclaim_open hput ho _
  · cases hy : s.buf? k with
    | none =>
      unfold setMark
      rw [hy, if_neg hk]
      exact hz
    | some y =>
      have hput : (s.withPool (tput s.media.pool k (y.mark m false))).buf? b = some z := (tfind_tput_ne _ _ hk).trans hz
      rw [setMark_false_of hy, if_neg hk]
      exact buf?_reclaim_open hput ho _

/-- The buffers that an operation releases. -/
def shapeFreed (x : ShapeRun) : List Nat := (((x.valid ++ x.stale).filter fun i => rRelease (x.reg i)).map fun i => rBuf (x.reg i)).dedup

/-- Holds of buffers are released. -/
def holdsReleased (bs : List Nat) (s : State) : State := bs.foldl (fun s b => setMark b mkHold false s) s

theorem holdsReleased_eq (bs : List Nat) (s : State) : holdsReleased bs s = { s with media := (holdsReleased bs s).media } := by
  induction bs generalizing s with
  | nil => rfl
  | cons b bs ih =>
    have hcons : holdsReleased (b :: bs) s = holdsReleased bs (setMark b mkHold false s) := rfl
    rw [hcons, ih, setMark_eq]

/-- A buffer of an open stream that is released, or is not held, is held no more. -/
theorem buf?_holdsReleased (bs : List Nat) {s : State} {b : Nat} {z : Buf} (hz : s.buf? b = some z) (ho : (s.stream? z.owner).isSome = true)
    (hh : b ∈ bs ∨ z.has mkHold = false) : ∃ y, (holdsReleased bs s).buf? b = some y ∧ y.has mkHold = false ∧ y.owner = z.owner := by
  induction bs generalizing s z with
  | nil => exact ⟨z, hz, hh.resolve_left (List.not_mem_nil), rfl⟩
  | cons k bs ih =>
    have hstep := buf?_setMark_false hz ho k mkHold
    have howner : (if b = k then z.mark mkHold false else z).owner = z.owner := by split <;> rfl
    have hopen : ((setMark k mkHold false s).stream? (if b = k then z.mark mkHold false else z).owner).isSome = true := by
      rw [howner, stream?_setMark]
      exact ho
    obtain ⟨y, hy, hhold, hown⟩ := ih hstep hopen (by
      by_cases hk : b = k
      · rw [if_pos hk]
        exact .inr (has_mark_false z mkHold)
      · rw [if_neg hk]
        exact hh.imp_left fun hm => (List.mem_cons.1 hm).resolve_left hk)
    exact ⟨y, hy, hhold, hown.trans howner⟩

/-! ### The semaphore, the ring and the pipeline -/

/-- The semaphore of an operation is signalled. -/
def shapeSignalled (x : ShapeRun) (s : State) : State :=
  if hSignals x.header then semUpdate s (hSigSem x.header) false (hSigVal x.header) else s

theorem shapeSignalled_eq (x : ShapeRun) (s : State) : shapeSignalled x s = { s with qm := (shapeSignalled x s).qm } := by
  unfold shapeSignalled
  split <;> rfl

theorem sem_shapeSignalled (x : ShapeRun) (s : State) (n : Nat) : (shapeSignalled x s).sem n =
    if hSignals x.header = true ∧ n = hSigSem x.header then s.sem n + hSigVal x.header else s.sem n := by
  unfold shapeSignalled
  by_cases hs : hSignals x.header = true
  · rw [if_pos hs]
    by_cases hn : n = hSigSem x.header
    · rw [if_pos ⟨hs, hn⟩, hn]
      exact tget_tset_self ..
    · rw [if_neg fun h => hn h.2]
      exact tget_tset_ne _ _ _ hn
  · rw [if_neg hs, if_neg fun h => hs h.1]

/-- The shaper is idle, and the head of the ring of the operation has moved on. -/
def shapeLeft (x : ShapeRun) (s : State) : State :=
  let s := { s with shaper := { s.shaper with run := none } }
  if x.ring then shapeAdvance x.part s else s

theorem shapeLeft_run (x : ShapeRun) (s : State) : (shapeLeft x s).shaper.run = none := by
  unfold shapeLeft
  dsimp only
  split <;> rfl

theorem shapeRing_shapeLeft (x : ShapeRun) (s : State) :
    (shapeLeft x s).shapeRing x.part = if x.ring then (s.shapeRing x.part).advanced else s.shapeRing x.part := by
  unfold shapeLeft
  dsimp only
  split
  · exact shapeRing_shapeAdvance ..
  · rfl

theorem shapeLeft_eq (x : ShapeRun) (s : State) : shapeLeft x s = { s with regs := (shapeLeft x s).regs, shaper := (shapeLeft x s).shaper } := by
  unfold shapeLeft
  dsimp only
  split <;> rfl

/-- The pipeline of an operation learns whether its region was stale. -/
def pipeTold (x : ShapeRun) (s : State) : State :=
  match x.pipe.bind fun k => (tfind s.pipes k).map fun y => (k, y) with
  | some (k, y) => { s with pipes := tput s.pipes k { y with stale := !x.stale.isEmpty } }
  | none => s

theorem pipeTold_eq (x : ShapeRun) (s : State) : pipeTold x s = { s with pipes := (pipeTold x s).pipes } := by
  unfold pipeTold
  split <;> rfl

theorem pipeTold_pipe {x : ShapeRun} {s : State} {k : Nat} {y : Pipe} (hk : x.pipe = some k) (hy : tfind s.pipes k = some y) :
    tfind (pipeTold x s).pipes k = some { y with stale := !x.stale.isEmpty } := by
  unfold pipeTold
  rw [hk, Option.bind_some, hy]
  exact tfind_tput_self ..

theorem shapeDone_idle {s : State} (h : s.shaper.run = none) : shapeDone s = s := by
  unfold shapeDone
  rw [h]

theorem shapeDone_eq {s : State} {x : ShapeRun} (h : s.shaper.run = some x) :
    shapeDone s = pipeTold x (shapeLeft x (shapeSignalled x (holdsReleased (shapeFreed x) (shapeWritten x s)))) := by
  unfold shapeDone
  rw [h]
  rfl

section
variable {s : State} {x : ShapeRun} (h : s.shaper.run = some x)
include h

/-- The shaper as an operation leaves it: idle, with its ring moved on. -/
theorem shapeDone_shaper : (shapeDone s).shaper = (shapeLeft x s).shaper := by
  have hw : (shapeWritten x s).shaper = s.shaper := (shapeWritten_frame x s).1.delivers.shaper_eq
  have hcongr : ∀ t u : State, t.shaper = u.shaper → (shapeLeft x t).shaper = (shapeLeft x u).shaper := fun t u htu => by
    unfold shapeLeft shapeAdvance State.modShapeRing State.shapeRing
    dsimp only
    rw [htu]
    split <;> rfl
  rw [shapeDone_eq h, pipeTold_eq]
  refine hcongr _ _ ?_
  rw [shapeSignalled_eq, holdsReleased_eq]
  exact hw

theorem shapeDone_run : (shapeDone s).shaper.run = none := by rw [shapeDone_shaper h, shapeLeft_run]

theorem shapeRing_shapeDone : (shapeDone s).shapeRing x.part = if x.ring then (s.shapeRing x.part).advanced else s.shapeRing x.part := by
  have hring : (shapeDone s).shapeRing x.part = (shapeLeft x s).shapeRing x.part :=
    congrArg (fun r : Shaper => tget ({} : OpRing) r.rings x.part) (shapeDone_shaper h)
  rw [hring, shapeRing_shapeLeft]

theorem sem_shapeDone (n : Nat) : (shapeDone s).sem n =
    if hSignals x.header = true ∧ n = hSigSem x.header then s.sem n + hSigVal x.header else s.sem n := by
  have hkept : ∀ t : State, t.qm = s.qm → t.sem n = s.sem n := fun t ht => by
    unfold State.sem
    rw [ht]
  have hlast : (shapeDone s).sem n = (shapeSignalled x (holdsReleased (shapeFreed x) (shapeWritten x s))).sem n := by
    rw [shapeDone_eq h, pipeTold_eq, shapeLeft_eq]
    rfl
  rw [hlast, sem_shapeSignalled, hkept]
  rw [holdsReleased_eq]
  exact (shapeWritten_frame x s).2

theorem shapeDone_mem : (shapeDone s).mem = (shapeWritten x s).mem := by
  rw [shapeDone_eq h, pipeTold_eq, shapeLeft_eq, shapeSignalled_eq, holdsReleased_eq]

theorem shapeDone_media : (shapeDone s).media = (holdsReleased (shapeFreed x) (shapeWritten x s)).media := by
  rw [shapeDone_eq h, pipeTold_eq, shapeLeft_eq, shapeSignalled_eq]

/-- A buffer of an open stream that an operation releases is held no more. -/
theorem buf?_shapeDone {i : Nat} {b : Buf} (hi : i ∈ x.valid ++ x.stale) (hr : rRelease (x.reg i) = true) (hb : s.buf? (rBuf (x.reg i)) = some b)
    (ho : (s.stream? b.owner).isSome = true) : ∃ y, (shapeDone s).buf? (rBuf (x.reg i)) = some y ∧ y.has mkHold = false ∧ y.owner = b.owner := by
  have hmedia := (shapeWritten_frame x s).1.streams_eq
  rw [buf?_of_media (shapeDone_media h)]
  refine buf?_holdsReleased _ ((buf?_of_media hmedia _).trans hb) ?_ (.inl ?_)
  · rw [stream?_of_media hmedia]
    exact ho
  · exact List.mem_dedup.2 (List.mem_map.2 ⟨i, List.mem_filter.2 ⟨hi, hr⟩, rfl⟩)

theorem shapeDone_pipe {k : Nat} {y : Pipe} (hk : x.pipe = some k) (hy : tfind s.pipes k = some y) :
    tfind (shapeDone s).pipes k = some { y with stale := !x.stale.isEmpty } := by
  rw [shapeDone_eq h]
  refine pipeTold_pipe hk ?_
  rw [shapeLeft_eq, shapeSignalled_eq, holdsReleased_eq]
  exact (congrArg (tfind · k) (shapeWritten_frame x s).1.delivers.pipes_eq).trans hy

end
end Sys2Proof.Machine
end

section
/-!
O50. The commands of the frame shaper as a step sees them.
-/
namespace Sys2Proof.Machine

section
variable {s : State} {fn : Fn} (hup : s.up = true) (hst : s.stopped = false) (hh : tfind s.hif.held fn.num = none) (hf : s.hif.flr = [])
include hup hst hh hf

theorem exec_shapeRingWrite_running (p : Fin 16) (v : W64) :
    exec (.shapeRingWrite fn p v) s = .next (keepQueue s (shapeRingWrite fn p.val v (bump s 88 8))) := by
  rw [exec_shapeRingWrite, live_orRecord rfl hup hst hh hf]
  rfl

theorem exec_shapeDoorbell_running (p : Fin 16) (x : W32) :
    exec (.shapeDoorbell fn p x) s = .next (keepQueue s (shapeDoorbell fn p.val x (bump s 88 4))) := by
  rw [exec_shapeDoorbell, live_orRecord rfl hup hst hh hf]
  rfl

end

/-- A ring write after its bytes have been counted changes registers, the shaper and the pipelines alone. -/
theorem shapeRingWrite_bump_eq {s : State} {fn : Fn} {p : Nat} (h : (bump s 88 8).mayPart fn p = true) (v : W64) :
    keepQueue s (shapeRingWrite fn p v (bump s 88 8)) = { s with
      regs := (shapeRingWrite fn p v (bump s 88 8)).regs
      shaper := (shapeRingWrite fn p v (bump s 88 8)).shaper
      pipes := if nbit v.toNat 0 && !(s.shapeRing p).en then (s.mapPipes p fun x => { x with shapeAt := none }).pipes else s.pipes } := by
  rw [shapeRingWrite_eq h]
  rfl

theorem onlyRegs_shapeRingWrite_bump {s : State} {fn : Fn} {p : Nat} (h : (bump s 88 8).mayPart fn p = true) (v : W64) :
    OnlyRegs [Reg.shapeRing p, Reg.shapeHead p, Reg.dbgBcnt 88] s (shapeRingWrite fn p v (bump s 88 8)) := by
  intro k hk
  obtain ⟨hring, hhead, hcnt⟩ : k ≠ Reg.shapeRing p ∧ k ≠ Reg.shapeHead p ∧ k ≠ Reg.dbgBcnt 88 := by simpa using hk
  exact (onlyRegs_shapeRingWrite h v k (by simp [hring, hhead])).trans (reg_bump_ne s hcnt)

theorem shapeFromPipe_some {s : State} {k : Nat} {y : Pipe} (hy : tfind s.pipes k = some y) (p : Nat) (h r : List Byte) (ring : Bool) :
    shapeFromPipe p k h r ring s = shapeBegin p h [r] (some k) ring { s with pipes := tput s.pipes k { y with shape := none, shapeAt := none } } := by
  unfold shapeFromPipe
  rw [hy]

/-- The head of a ring that was not set anew moves on. -/
theorem OpRing.advanced_moves {r : OpRing} (h : r.stopping = false) : r.advanced.head = r.head + 1 := by
  unfold OpRing.advanced
  rw [if_neg (by simp [h])]

/-- The head of a ring set anew under the operation stays. -/
theorem OpRing.advanced_stays {r : OpRing} (h : r.stopping = true) : r.advanced.head = r.head ∧ r.advanced.stopping = false := by
  unfold OpRing.advanced
  rw [if_pos h]
  exact ⟨rfl, rfl⟩

@[simp] theorem shapeServed_run (s : State) (p : Nat) : (s.shapeServed p).shaper.run = s.shaper.run := rfl
@[simp] theorem shapeServed_last (s : State) (p : Nat) : (s.shapeServed p).shaper.last = p := rfl
@[simp] theorem shapeRing_shapeServed (s : State) (p k : Nat) : (s.shapeServed p).shapeRing k = s.shapeRing k := rfl
@[simp] theorem reg_shapeServed (s : State) (p k : Nat) : (s.shapeServed p).reg k = s.reg k := rfl

/-- A malformed header is skipped and counted. -/
theorem shapeStart_skips {s : State} {p : Nat} (hp : p < 16) (hrun : s.shaper.run = none)
    (hturn : nextInTurn s.shaper.last ((List.range 16).filter (shapeReady s)) = some p)
    (hout : shapePipe s p none = none) (hin : shapePipe s p (some (s.shapeRing p).head) = none) {u : State} {h : List Byte} {k : Option Nat}
    (hhead : engRead s ((s.shapeRing p).base + (s.shapeRing p).head.toNat % 2 ^ (s.shapeRing p).log * 64) 64 = (u, h, k)) (hbad : headerBad h = true) :
    (shapeStart p s).shaper.run = none ∧ (shapeStart p s).shaper.last = p ∧ (shapeStart p s).shapeRing p = (s.shapeRing p).advanced ∧
      nbits ((shapeStart p s).reg Reg.dbgViolLast).toNat 43 40 = 6 := by
  have hread := apart_of_engRead hhead
  have hviol := (hread.trans (apart_viol u ((s.shapeRing p).base + (s.shapeRing p).head.toNat % 2 ^ (s.shapeRing p).log * 64) 6 p)).delivers
  have hplace : Reg.dbgViolLast ≠ Reg.shapeHead p := by
    unfold Reg.dbgViolLast Reg.shapeHead
    omega
  rw [shapeStart_malformed hrun hturn hout hin hhead hbad, shapeAdvance_run, shapeAdvance_last, shapeRing_shapeAdvance, reg_shapeAdvance _ _ hplace,
    shapeServed_run, shapeServed_last, shapeRing_shapeServed, reg_shapeServed, hviol.shaper_eq, hviol.shapeRing_eq]
  exact ⟨hrun, rfl, rfl, violLast_kind _ _ _ (by decide)⟩

end Sys2Proof.Machine
end

section
open Sys2Proof Sys2Proof.Machine

/-- Settles O50: a ring write and a doorbell come to one case of their meaning, an operation that starts is judged region by region by the state before it,
and its end is taken stage by stage. -/
theorem shaperOperations : Obligations.ShaperOperations := by
  unfold Obligations.ShaperOperations
  intro s p hup hst
  refine ⟨fun fn hh hf => ⟨fun v => ⟨fun hmay => ?_, fun hmay => ?_⟩, fun x => ⟨fun hmay => ?_, fun hmay hb ht => ?_, fun hmay hdrop => ?_⟩⟩,
    fun hother => ?_, fun hrun hturn => ⟨fun hout hin u h k hread => ⟨fun hbad => ?_, fun hok => ?_⟩, fun k y h r ring hy hpipe => ?_⟩,
    fun hrun => ?_, fun x hrun => ?_⟩
  · rw [exec_shapeRingWrite_running hup hst hh hf, shapeRingWrite_denied hmay, keepQueue_of_pending (by simp)]
  · obtain ⟨hen, hlog, hbase, hnew, hkept⟩ := ringSet_fields v (shapeBusy (bump s 88 8) p.val) (s.shapeRing p.val)
    have hring : (shapeRingWrite fn p.val v (bump s 88 8)).shapeRing p.val = ringSet v (shapeBusy (bump s 88 8) p.val) (s.shapeRing p.val) :=
      shapeRing_shapeRingWrite hmay v
    rw [exec_shapeRingWrite_running hup hst hh hf]
    refine ⟨_, rfl, ?_⟩
    have hsame : ∀ k, (keepQueue s (shapeRingWrite fn p.val v (bump s 88 8))).shapeRing k = (shapeRingWrite fn p.val v (bump s 88 8)).shapeRing k :=
      fun k => rfl
    rw [hsame, hring]
    exact ⟨hen, hlog, hbase, hnew, hkept, fun k hk => shapeRing_shapeRingWrite_ne hmay v hk, onlyRegs_shapeRingWrite_bump hmay v,
      shapeRingWrite_bump_eq hmay v⟩
  · rw [exec_shapeDoorbell_running hup hst hh hf, shapeDoorbell_denied hmay, keepQueue_of_pending (by simp)]
  · rw [exec_shapeDoorbell_running hup hst hh hf, shapeDoorbell_may hmay, shapeRing_bump, if_neg (by simp [hb, ht])]
    rfl
  · rw [exec_shapeDoorbell_running hup hst hh hf, shapeDoorbell_may hmay, shapeRing_bump, if_pos (by simpa using hdrop),
      keepQueue_of_pending (by simp)]
  · rw [exec_shapeOpStart, running_eq hup hst, shapeStart_other hother, keepQueue_of_pending rfl]
  · obtain ⟨hidle, hlast, hring, hkind⟩ := shapeStart_skips p.isLt hrun hturn hout hin hread hbad
    rw [exec_shapeOpStart, running_eq hup hst]
    refine ⟨_, rfl, hidle, hlast, fun hstop => ?_, hkind⟩
    exact (congrArg OpRing.head hring).trans (OpRing.advanced_moves hstop)
  · have hread' : Apart s (readRegs (hRegAddr h) (hNreg h) u).1 := (apart_of_engRead hread).trans (apart_readRegs ..)
    obtain ⟨w, x, hw, hbegin, hpart, hheader, hregs, hstart, hpipe, hring, hj⟩ :=
      shapeBegin_runs p.isLt hread' h (readRegs (hRegAddr h) (hNreg h) u).2 none true
    rw [hread'.delivers.clock_eq] at hstart hj
    rw [readRegs_length] at hj
    rw [exec_shapeOpStart, running_eq hup hst, shapeStart_ring hrun hturn hout hin hread hok, hbegin]
    refine ⟨_, x, rfl, rfl, rfl, hpart, hheader, by rw [hregs, readRegs_length], hstart, hpipe, hring, hj.perm, fun i hi => ?_,
      fun i hi => (hj.old i hi).2, fun i hi => (hj.valid i hi).2, (hread'.delivers.trans hw).shapeRing_eq p.val⟩
    exact (hj.mem_wrong_iff (List.mem_range.2 hi)).trans (regionBad_iff ..)
  · obtain ⟨w, x, hw, hbegin, hpart, hheader, hregs, hstart, hpipes, hring, -⟩ := shapeBegin_runs p.isLt
      (Framed.refl { s with pipes := tput s.pipes k { y with shape := none, shapeAt := none } }) h [r] (some k) ring
    rw [exec_shapeOpStart, running_eq hup hst, shapeStart_pipe hrun hturn hpipe, shapeFromPipe_some hy, hbegin]
    refine ⟨_, x, rfl, rfl, hpart, hheader, hregs, hpipes, hring, hstart, ?_, fun n => hw.shapeRing_eq n⟩
    exact (congrArg (tfind · k) hw.pipes_eq).trans (tfind_tput_self ..)
  · rw [exec_shapeOpDone, running_eq hup hst, shapeDone_idle hrun, keepQueue_of_pending rfl]
  · have hring := shapeRing_shapeDone hrun
    rw [exec_shapeOpDone, running_eq hup hst]
    refine ⟨_, rfl, shapeDone_run hrun, sem_shapeDone hrun, fun u ps sat hall => ?_, fun i b hi hr hb ho => buf?_shapeDone hrun hi hr hb ho,
      fun hx hstop => ?_, fun hx hstop => ?_, fun hx => ?_, fun k y hk hy => shapeDone_pipe hrun hk hy⟩
    · exact (shapeDone_mem hrun).trans (shapeWritten_mem hall)
    · rw [if_pos hx] at hring
      exact (congrArg OpRing.head hring).trans (OpRing.advanced_moves hstop)
    · obtain ⟨hhead, hstopping⟩ := OpRing.advanced_stays hstop
      rw [if_pos hx] at hring
      exact ⟨(congrArg OpRing.head hring).trans hhead, (congrArg OpRing.stopping hring).trans hstopping⟩
    · exact hring.trans (if_neg (by simp [hx]))

end

section
/-!
O52. An ingest channel (R293 to R303): its records, its batches and its settling, by what each leaves in the channel and in the counters of a stream.
-/
namespace Sys2Proof.Machine

theorem exec_recordHeader (c : Fin 16) (s : State) : exec (.recordHeader c) s = running s (recordHeader c.val) := rfl
theorem exec_sampleDispatch (c : Fin 16) (id : W32) (s : State) : exec (.sampleDispatch c id) s = running s (sampleDispatch c.val id) := rfl
theorem exec_sampleFinish (c : Fin 16) (id : W32) (s : State) : exec (.sampleFinish c id) s = running s (sampleFinish c.val id) := rfl
theorem exec_sampleSlow (c : Fin 16) (id : W32) (s : State) : exec (.sampleSlow c id) s = running s (sampleSlow c.val id) := rfl
theorem exec_batchDeadline (c : Fin 16) (s : State) : exec (.batchDeadline c) s = running s (batchDeadline c.val) := rfl
theorem exec_jpegDone (c : Fin 16) (id : W32) (r : JpegResult) (s : State) : exec (.jpegDone c id r) s = running s (jpegDone c.val id r) := rfl

/-! ### Channels -/

@[simp] theorem chan_modChan_self (s : State) (c : Nat) (f : Chan → Chan) : (s.modChan c f).chan c = f (s.chan c) := tget_tmod_self ..
@[simp] theorem tally_modChan (s : State) (c : Nat) (f : Chan → Chan) (h off : Nat) : (s.modChan c f).tally h off = s.tally h off := rfl

theorem chan_congr {s t : State} (h : t.ingest = s.ingest) (c : Nat) : t.chan c = s.chan c := congrArg (fun i : Tab Chan => tget ({} : Chan) i c) h

@[simp] theorem chan_count (h off n : Nat) (s : State) (c : Nat) : (count h off n s).chan c = s.chan c := (delivers_count h off n s).chan_eq c
@[simp] theorem chan_writeStat (h : Nat) (s : State) (c : Nat) : (writeStat h s).chan c = s.chan c := (apart_writeStat h s).delivers.chan_eq c

@[simp] theorem chanSync_ingest (c : Nat) (s : State) : (chanSync c s).ingest = s.ingest := by
  unfold chanSync
  dsimp only
  rw [(delivers_modStream ..).ingest_eq, setFld_ingest, setFld_ingest]

@[simp] theorem chan_chanSync (c k : Nat) (s : State) : (chanSync c s).chan k = s.chan k := chan_congr (chanSync_ingest c s) k

@[simp] theorem tally_setFld (s : State) (k hi lo v h off : Nat) : (s.setFld k hi lo v).tally h off = s.tally h off :=
  tally_congr (stream?_of_media (setFld_media ..) h) off

@[simp] theorem tally_chanSync (c : Nat) (s : State) (h off : Nat) : (chanSync c s).tally h off = s.tally h off := by
  unfold chanSync
  dsimp only
  rw [tally_modStream _ _ fun y => by split <;> rfl, tally_setFld, tally_setFld]

/-! ### The end of a batch -/

/-- The rows of a batch are padded, and its record, signals and counters are given out. -/
def batchOut (c : Nat) (deadline eos : Bool) (s : State) : State :=
  let x := s.chan c
  let h := x.handle
  let s := x.rows.foldl (fun s r => padRow x.par r s) s
  let pad := x.pad + (x.rows.map fun r => iRowLen x.par - r.used).sum
  let (k, s) := s.fresh
  let rec' := leBytes 4 x.batch.toNat ++ leBytes 1 0x80 ++ leBytes 1 (deadline.toNat + 2 * eos.toNat + 4 * (Config.batchSlots k).toNat) ++
    leBytes 2 0 ++ leBytes 4 x.samples ++ leBytes 4 x.rowsUsed ++ leBytes 4 x.firstRow.toNat ++ leBytes 4 pad ++ leBytes 8 s.clock.timeM.toNat
  let s := if rEn (pRing x.par true) then ringIndex h true (ringPut h true rec' s) else s
  let s := semField (pAnaSem x.par) s
  let s := count h 52 pad (count h 44 1 s)
  if deadline then count h 48 1 s else s

/-- A channel whose batch has closed. -/
def Chan.closed (x : Chan) : Chan :=
  { x with batch := x.batch + 1, samples := 0, firstAt := none, firstRow := x.nextRow, rows := [], rowsUsed := 0, pad := 0 }

theorem closeBatch_eq (c : Nat) (deadline eos : Bool) (s : State) : closeBatch c deadline eos s =
    if (s.chan c).samples = 0 then s else writeStat (s.chan c).handle ((batchOut c deadline eos s).modChan c Chan.closed) := rfl

theorem apart_putPositions (p : List Byte) (k : W32) (pos n : Nat) (tokens : List Byte) (seg : Nat) (s : State) :
    Apart s (putPositions p k pos n tokens seg s) := .ite (.refl s) (.trans (apart_engWrite ..) (apart_engWrite ..))

theorem apart_rowsPadded (p : List Byte) (rows : List PackRow) (s : State) : Apart s (rows.foldl (fun s r => padRow p r s) s) :=
  .foldl _ (fun _ _ _ => apart_putPositions ..) s

theorem delivers_batchOut (c : Nat) (deadline eos : Bool) (s : State) : Delivers s (batchOut c deadline eos s) := by
  have hrows := (apart_rowsPadded (s.chan c).par (s.chan c).rows s).delivers
  have hfresh : ∀ t : State, Delivers t t.fresh.2 := fun t => delivers_of_fields rfl rfl
  unfold batchOut
  dsimp only
  refine .trans (.trans (.trans (hrows.trans (hfresh _)) (.ite ?_ (.refl _))) ((apart_semField ..).delivers.trans
    ((delivers_count ..).trans (delivers_count ..)))) (.ite (delivers_count ..) (.refl _))
  exact (delivers_ringPut ..).trans (apart_ringIndex ..).delivers

/-- Counters that the end of a batch leaves alone. -/
def NoBatchCounter (off : Nat) : Prop := off ≠ 44 ∧ off ≠ 48 ∧ off ≠ 52

theorem tally_batchOut {off : Nat} (ho : NoBatchCounter off) (c : Nat) (deadline eos : Bool) (s : State) (h : Nat) :
    (batchOut c deadline eos s).tally h off = s.tally h off := by
  obtain ⟨hrecord, hlate, hpad⟩ := ho
  have hcount : ∀ {o : Nat} (k n : Nat) (t : State), off ≠ o → (count k o n t).tally h off = t.tally h off := fun {o} k n t hne => by
    by_cases hk : h = k
    · subst hk
      exact tally_count_ne hne h n t
    · exact tally_congr (stream?_modStream_ne t hk _) off
  have hrows := (apart_rowsPadded (s.chan c).par (s.chan c).rows s).tally_eq h off
  have hfresh : ∀ t : State, t.fresh.2.tally h off = t.tally h off := fun _ => rfl
  unfold batchOut
  dsimp only
  split <;> split <;> simp [hcount, hrecord, hlate, hpad, hrows, hfresh]

theorem chan_closeBatch (c : Nat) (deadline eos : Bool) (s : State) :
    (closeBatch c deadline eos s).chan c = if (s.chan c).samples = 0 then s.chan c else (s.chan c).closed := by
  rw [closeBatch_eq]
  split
  · rfl
  · rw [chan_writeStat, chan_modChan_self, (delivers_batchOut ..).chan_eq]

theorem tally_closeBatch {off : Nat} (ho : NoBatchCounter off) (c : Nat) (deadline eos : Bool) (s : State) (h : Nat) :
    (closeBatch c deadline eos s).tally h off = s.tally h off := by
  rw [closeBatch_eq]
  split
  · rfl
  · rw [tally_writeStat, tally_modChan, tally_batchOut ho]

/-! ### The end of a channel's input -/

/-- A channel whose open batch, where there is one, has closed. -/
def Chan.drained (x : Chan) : Chan := if x.samples = 0 then x else x.closed

/-- A channel that settles is as it was, or its batch has closed, with its state, EN and EOS set anew. -/
theorem chan_chanSettle (c : Nat) (s : State) : ∃ y, (y = s.chan c ∨ y = (s.chan c).drained) ∧ ∃ st stopping eos,
    (chanSettle c s).chan c = { y with st := st, stopping := stopping, eos := eos } := by
  have hdrained : (closeBatch c false true s).chan c = (s.chan c).drained := chan_closeBatch c false true s
  unfold chanSettle
  dsimp only
  split
  · exact ⟨_, .inl rfl, _, _, _, chan_chanSync ..⟩
  · split
    · refine ⟨_, .inr rfl, 0, false, false, ?_⟩
      have hclosed : ∀ h, Delivers (closeBatch c false true s) (reclaim
          { writeStat h ((closeBatch c false true s).modStream h fun y => { y with st := 0 }) with
            media := { (writeStat h ((closeBatch c false true s).modStream h fun y => { y with st := 0 })).media with
              streams := terase (writeStat h ((closeBatch c false true s).modStream h fun y => { y with st := 0 })).media.streams h } } h) := fun h =>
        ((delivers_modStream ..).trans (apart_writeStat ..).delivers).trans (.trans (delivers_of_fields rfl rfl) (delivers_reclaim ..))
      rw [chan_chanSync, chan_modChan_self, (hclosed _).chan_eq, hdrained]
    · split
      · refine ⟨_, .inr rfl, 2, (s.chan c).drained.stopping, false, ?_⟩
        rw [chan_writeStat, chan_chanSync, chan_modChan_self, hdrained]
      · exact ⟨_, .inl rfl, _, _, _, chan_chanSync ..⟩

theorem drained_parse (x : Chan) : x.drained.pos = x.pos ∧ x.drained.resync = x.resync ∧ x.drained.id = x.id ∧ x.drained.flight = x.flight := by
  unfold Chan.drained
  split <;> exact ⟨rfl, rfl, rfl, rfl⟩

/-- A channel that settles keeps its parse index and its samples. -/
theorem chanSettle_parse (c : Nat) (s : State) : ((chanSettle c s).chan c).pos = (s.chan c).pos ∧ ((chanSettle c s).chan c).resync = (s.chan c).resync ∧
    ((chanSettle c s).chan c).id = (s.chan c).id ∧ ((chanSettle c s).chan c).flight = (s.chan c).flight := by
  obtain ⟨y, hy, st, stopping, eos, h⟩ := chan_chanSettle c s
  rw [h]
  rcases hy with rfl | rfl
  · exact ⟨rfl, rfl, rfl, rfl⟩
  · exact drained_parse _

/-- A channel that settles with no batch open keeps what the last one left. -/
theorem chanSettle_batch {c : Nat} {s : State} (hn : (s.chan c).samples = 0) : ∃ st stopping eos,
    (chanSettle c s).chan c = { s.chan c with st := st, stopping := stopping, eos := eos } := by
  obtain ⟨y, hy, h⟩ := chan_chanSettle c s
  have hsame : y = s.chan c := hy.elim id fun h => h.trans (if_pos hn)
  rwa [hsame] at h

/-- A channel that is not being disabled keeps the counters of its stream when it settles, beside those of its batch. -/
theorem tally_chanSettle {c : Nat} {s : State} (hstop : (s.chan c).stopping = false) {off : Nat} (ho : NoBatchCounter off) (h : Nat) :
    (chanSettle c s).tally h off = s.tally h off := by
  unfold chanSettle
  dsimp only
  rw [hstop]
  split
  · exact tally_chanSync ..
  · rw [if_neg Bool.false_ne_true]
    split
    · rw [tally_writeStat, tally_chanSync, tally_modChan, tally_closeBatch ho]
    · exact tally_chanSync ..

theorem batchDeadline_none {s : State} {c : Nat} (h : (s.chan c).firstAt = none) : batchDeadline c s = s := by
  unfold batchDeadline
  dsimp only
  rw [h]

theorem batchDeadline_early {s : State} {c : Nat} {t : W64} (h : (s.chan c).firstAt = some t)
    (hage : iDeadline (s.chan c).par = 0 ∨ (s.clock.timeM - t).toNat < iDeadline (s.chan c).par * 1000) : batchDeadline c s = s := by
  unfold batchDeadline
  dsimp only
  rw [h]
  exact if_pos (hage.imp_right .inl)

theorem batchDeadline_due {s : State} {c : Nat} {t : W64} (h : (s.chan c).firstAt = some t) (hd : iDeadline (s.chan c).par ≠ 0)
    (hage : iDeadline (s.chan c).par * 1000 ≤ (s.clock.timeM - t).toNat) (hmax : (s.clock.timeM - t).toNat < 2 ^ 63) :
    batchDeadline c s = chanSettle c (closeBatch c true false s) := by
  unfold batchDeadline
  dsimp only
  rw [h]
  exact if_neg (by omega)

/-- A batch that closes at its deadline leaves its channel ready for the next. -/
theorem chan_deadline {s : State} {c : Nat} (hn : (s.chan c).samples ≠ 0) : ∃ st stopping eos,
    (chanSettle c (closeBatch c true false s)).chan c = { (s.chan c).closed with st := st, stopping := stopping, eos := eos } := by
  have hclosed : (closeBatch c true false s).chan c = (s.chan c).closed := (chan_closeBatch ..).trans (if_neg hn)
  have hnone : ((closeBatch c true false s).chan c).samples = 0 := by
    rw [hclosed]
    rfl
  have hsettled := chanSettle_batch hnone
  rwa [hclosed] at hsettled

/-! ### Record headers (R290, R296, R297) -/

theorem closeSample_length (x : Chan) : (closeSample x).flight.length = x.flight.length := by
  unfold closeSample
  split
  · exact List.length_map ..
  · rfl

/-- The end of a sample's records moves the samples in flight alone. -/
theorem closeSample_eq (x : Chan) : closeSample x = { x with flight := (closeSample x).flight } := by
  unfold closeSample
  split <;> rfl

theorem recordHeader_idle {s : State} {c : Nat} (h : (s.chan c).st ≠ 1 ∨ (s.chan c).moreInput = false) : recordHeader c s = s :=
  if_pos (by simpa using h)

/-- The fields of a record header at the parse index of a channel. -/
def Chan.header (x : Chan) (s : State) : List Byte := ringPeek s x.base x.size x.pos 16

/-- A slot is free for the next sample. -/
def Chan.slotFree (x : Chan) : Prop := (x.id.toNat + 2 ^ 14 - x.slotDone % 2 ^ 14) % 2 ^ 14 < iSlotCount x.par

/-- The state once a record header has been read. -/
def headerRead (c : Nat) (s : State) : State :=
  (ringRead (s.modChan c closeSample) (s.chan c).base (s.chan c).size (s.chan c).pos 16).1

theorem apart_headerRead (c : Nat) (s : State) : Apart (s.modChan c closeSample) (headerRead c s) := apart_ringRead ..

theorem chan_headerRead (c : Nat) (s : State) : (headerRead c s).chan c = closeSample (s.chan c) := by
  rw [(apart_headerRead c s).delivers.chan_eq, chan_modChan_self]

theorem tally_headerRead (c : Nat) (s : State) (h off : Nat) : (headerRead c s).tally h off = s.tally h off := by
  rw [(apart_headerRead c s).tally_eq, tally_modChan]

/-- The next sample of a channel, from the header of its record. -/
def Chan.arrived (x : Chan) (h : List Byte) (t : W64) : Sample :=
  { id := x.id, kind := leAt h 8 1, arrival := t, start := x.pos + 16, len := leAt h 4 4 }

section
variable {s : State} {c : Nat} (hst : (s.chan c).st = 1) (hmore : (s.chan c).moreInput = true)
  (hclean : ringDirty s (s.chan c).base (s.chan c).size (s.chan c).pos 16 = none)
include hst hmore hclean

/-- A corrupt header: the next 8 bytes are tried. -/
theorem recordHeader_corrupt (hbad : headerOk ((s.chan c).header s) = false) : recordHeader c s = chanSettle c (count (s.chan c).handle 36 8
    ((if (s.chan c).resync then headerRead c s else count (s.chan c).handle 32 1 (headerRead c s)).modChan c fun x =>
      { x with pos := x.pos + 8, resync := true, afterPrimary := false })) := by
  unfold Chan.header at hbad
  unfold recordHeader
  dsimp only
  rw [if_neg (by simp [hst, hmore]), hclean, hbad]
  rfl

variable (hok : headerOk ((s.chan c).header s) = true) (hkind : leAt ((s.chan c).header s) 8 1 ∈ [1, 2, 4])
  (hflags : leAt ((s.chan c).header s) 9 1 = 0) (hzero : leAt ((s.chan c).header s) 10 2 = 0)
include hok hkind hflags hzero

/-- A new sample waits for a free slot; the one before is whole. -/
theorem recordHeader_waits (hslot : ¬(s.chan c).slotFree) : recordHeader c s = s.modChan c closeSample := by
  have hnew : [1, 2, 4].contains (leAt ((s.chan c).header s) 8 1) = true := by simpa using hkind
  unfold Chan.header at hok hnew hflags hzero
  unfold Chan.slotFree at hslot
  unfold recordHeader
  dsimp only
  rw [if_neg (by simp [hst, hmore]), hclean, hok, hnew, hflags, hzero, decide_eq_false hslot]
  rfl

/-- A new sample is taken in. -/
theorem recordHeader_takes (hslot : (s.chan c).slotFree) : recordHeader c s = chanSync c ((count (s.chan c).handle 4 1
    ((headerRead c s).modChan c fun x => { x with resync := false })).modChan c fun x => { x.leap (leAt ((s.chan c).header s) 4 4) with
      id := x.id + 1, afterPrimary := true
      flight := x.flight ++ [(s.chan c).arrived ((s.chan c).header s) (headerRead c s).clock.timeM] }) := by
  have hnew : [1, 2, 4].contains (leAt ((s.chan c).header s) 8 1) = true := by simpa using hkind
  unfold Chan.arrived
  unfold Chan.header at hok hnew hflags hzero ⊢
  unfold Chan.slotFree at hslot
  unfold recordHeader
  dsimp only
  rw [if_neg (by simp [hst, hmore]), hclean, hok, hnew, hflags, hzero, decide_eq_true hslot]
  rfl

end

theorem leap_pos_congr {x y : Chan} (hp : y.pos = x.pos) (hw : y.write = x.write) (n : Nat) : (y.leap n).pos = (x.leap n).pos := by
  unfold Chan.leap Chan.pass
  dsimp only
  rw [hp, hw]

end Sys2Proof.Machine
end

section
/-!
O52. Samples of an ingest channel: dispatch, the JPEG decoder, emission, and what substitutes (R289, R298, R299, R300).
-/
namespace Sys2Proof.Machine

/-! ### Samples in flight -/

theorem sample?_id {x : Chan} {id : W32} {m : Sample} (h : x.sample? id = some m) : m.id = id := by
  simpa using List.find?_some h

/-- A sample that has changed, with its id kept. -/
theorem sample?_modSample {s : State} {c : Nat} {id : W32} {m : Sample} (h : (s.chan c).sample? id = some m) {f : Sample → Sample}
    (hf : ∀ m, (f m).id = m.id) : ((modSample c id f s).chan c).sample? id = some (f m) := by
  have hid : ∀ k : Sample, ((if k.id == id then f k else k).id == id) = (k.id == id) := fun k => by
    split
    · rw [hf]
    · rfl
  have hchan : ((modSample c id f s).chan c).sample? id = ((s.chan c).flight.map fun k => if k.id == id then f k else k).find? fun k => k.id == id := by
    unfold modSample
    rw [chan_modChan_self]
    rfl
  have hmap : ((s.chan c).flight.map fun k => if k.id == id then f k else k).find? (fun k => k.id == id) =
      ((s.chan c).sample? id).map fun k => if k.id == id then f k else k := by
    rw [List.find?_map]
    exact congrArg (Option.map _) (congrArg (fun q => (s.chan c).flight.find? q) (funext hid))
  rw [hchan, hmap, h, Option.map_some, if_pos (by simp [sample?_id h])]

/-- A sample has left the flight of a channel, and the others are there as before. -/
structure Left (x y : Chan) (id : W32) : Prop where
  gone : y.sample? id = none
  others : ∀ k, k ≠ id → (y.sample? k).isSome = (x.sample? k).isSome

theorem left_of_filter {x y : Chan} {id : W32} (h : y.flight = x.flight.filter fun k => k.id != id) : Left x y id := by
  constructor
  · unfold Chan.sample?
    rw [h, List.find?_eq_none]
    intro k hk
    simpa using (List.mem_filter.1 hk).2
  · intro k hk
    unfold Chan.sample?
    rw [h, List.find?_filter]
    congr 2
    funext m
    by_cases hm : m.id = k
    · simp [hm, hk]
    · simp [hm]

theorem chan_modSample (c : Nat) (id : W32) (f : Sample → Sample) (s : State) : (modSample c id f s).chan c =
    { s.chan c with flight := (s.chan c).flight.map fun m => if m.id == id then f m else m } := chan_modChan_self ..

theorem tfind_of_mem {α : Type} {t : Tab α} {k : Nat} {v : α} (h : (k, v) ∈ t) : ∃ w, tfind t k = some w := by
  induction t with
  | nil => exact nomatch h
  | cons e t ih =>
    obtain ⟨j, w⟩ := e
    unfold tfind
    by_cases hj : j = k
    · exact ⟨w, if_pos hj⟩
    · rw [if_neg hj]
      refine ih ((List.mem_cons.1 h).resolve_left fun he => hj ?_)
      exact (congrArg Prod.fst he).symm

/-- A free buffer is one of the pool. -/
theorem buf?_of_anyFree {s : State} {h b : Nat} (hb : s.anyFree h = some b) : ∃ y, s.buf? b = some y := by
  obtain ⟨e, he, rfl⟩ := Option.map_eq_some_iff.1 hb
  exact tfind_of_mem (List.mem_filter.1 (List.mem_of_find?_eq_some he)).1

/-! ### Dispatch -/

section
variable {s : State} {c : Nat} {id : W32} {m : Sample} (hm : (s.chan c).sample? id = some m)
include hm

theorem sampleDispatch_waits (h : m.sent.isSome = true ∨ (s.chan c).ready m = false ∧ (s.chan c).stopping = false) : sampleDispatch c id s = s := by
  unfold sampleDispatch
  dsimp only
  rw [hm]
  exact if_pos (by simpa using h)

theorem sampleDispatch_full (hk : m.kind = 1) (h : s.anyFree (s.chan c).handle = none ∨ 4 ≤ jpegsHeld s) : sampleDispatch c id s = s := by
  unfold sampleDispatch
  dsimp only
  rw [hm]
  dsimp only
  rw [if_pos hk]
  split
  · rfl
  · split
    · next hfree => exact if_pos (h.resolve_left (by simp [hfree]))
    · rfl

variable (hs : m.sent = none) (hr : (s.chan c).ready m = true)
include hs hr

theorem sampleDispatch_raw (hk : m.kind ≠ 1) : sampleDispatch c id s = modSample c id (fun m => { m with sent := some s.clock.timeM }) s := by
  unfold sampleDispatch
  dsimp only
  rw [hm]
  dsimp only
  rw [if_neg (by simp [hs, hr]), if_neg hk]

theorem sampleDispatch_jpeg (hk : m.kind = 1) {b : Nat} (hb : s.anyFree (s.chan c).handle = some b) (hheld : jpegsHeld s < 4) : sampleDispatch c id s =
    modSample c id (fun m => { m with sent := some s.clock.timeM, buf := some b }) (s.modBuf b fun y => { y with taken := true }) := by
  unfold sampleDispatch
  dsimp only
  rw [hm]
  dsimp only
  rw [if_neg (by simp [hs, hr]), if_pos hk, hb]
  exact if_neg (Nat.not_le.2 hheld)

end

/-! ### The JPEG decoder -/

/-- The planes of what the decoder has decoded are written to a buffer. -/
def jpegDrawn (x : Chan) (b : Nat) (r : JpegResult) (s : State) : State :=
  match (jpegCode x.par r).2 with
  | some (h, l) => putPlanes l (match s.buf? b with
    | some y => y.addr
    | none => 0) h.picW h.picH (jpegPlanes h l r) s
  | none => s

theorem apart_putPlanes (l addr w h : Nat) (bs : List Byte) (s : State) : Apart s (putPlanes l addr w h bs s) := by
  unfold putPlanes
  dsimp only
  split
  · exact apart_putRows ..
  · exact .trans (apart_putRows ..) (.trans (apart_putRows ..) (apart_putRows ..))

theorem apart_jpegDrawn (x : Chan) (b : Nat) (r : JpegResult) (s : State) : Apart s (jpegDrawn x b r s) := by
  unfold jpegDrawn
  split
  · exact apart_putPlanes ..
  · exact .refl s

theorem jpegDone_eq {s : State} {c : Nat} {id : W32} {m : Sample} (hm : (s.chan c).sample? id = some m) {b : Nat} (hb : m.buf = some b)
    (hj : m.jpeg = none) (r : JpegResult) : jpegDone c id r s = modSample c id (fun m =>
      { m with jpeg := some ((jpegCode (s.chan c).par r).1, (r.header.map (·.picW)).getD 0, (r.header.map (·.picH)).getD 0) })
      (jpegDrawn (s.chan c) b r s) := by
  unfold jpegDone jpegDrawn
  dsimp only
  rw [hm]
  dsimp only
  rw [hb, hj]
  cases r.header <;> rfl

theorem jpegDrawn_none {x : Chan} {r : JpegResult} (h : (jpegCode x.par r).2 = none) (b : Nat) (s : State) : jpegDrawn x b r s = s := by
  unfold jpegDrawn
  rw [h]

theorem jpegDrawn_some {x : Chan} {r : JpegResult} {h : JpegHeader} {l : Nat} (hd : (jpegCode x.par r).2 = some (h, l)) {s : State} {b : Nat} {y : Buf}
    (hy : s.buf? b = some y) : jpegDrawn x b r s = putPlanes l y.addr h.picW h.picH (jpegPlanes h l r) s := by
  unfold jpegDrawn
  rw [hd]
  dsimp only
  rw [hy]

/-! ### Emission -/

/-- The label of a sample goes to its slot. -/
def labelPut (x : Chan) (m : Sample) (label : Option (List Byte)) (s : State) : State :=
  match label with
  | some bs => if bs = [] then s else engWrite s (iSlotBase x.par + m.id.toNat % iSlotCount x.par * iSlotBytes x.par) bs
  | none => s

/-- The buffer of an image is handed on, held where there is a ring to name it in. -/
def bufferPut (x : Chan) (m : Sample) (size : Nat) (s : State) : State :=
  match m.buf with
  | some b => setMark b mkHold (rEn (pRing x.par true))
      (s.modBuf b fun y => { y with taken := false, picW := size % 65536, picH := size / 65536, arrival := m.arrival })
  | none => s

/-- The record of a sample goes to the ring of its channel, where there is one. -/
def recordPut (x : Chan) (m : Sample) (flags code size row seg pos : Nat) (label : Option (List Byte)) (s : State) : State :=
  let rec' := leBytes 4 m.id.toNat ++ leBytes 1 m.kind ++ leBytes 1 (flags ||| if label.isSome then fLabel else 0) ++
    leBytes 2 (m.buf.getD (m.id.toNat % iSlotCount x.par)) ++ leBytes 4 size ++ leBytes 4 row ++ leBytes 2 seg ++ leBytes 2 pos ++
    leBytes 2 ((label.map (·.length)).getD 0) ++ leBytes 1 code ++ leBytes 1 0 ++ leBytes 8 m.arrival.toNat
  if rEn (pRing x.par true) then ringIndex x.handle true (ringPut x.handle true rec' s) else s

/-- The label, the buffer and the record of a sample that is delivered. -/
def sampleOut (c : Nat) (m : Sample) (flags code size row seg pos : Nat) (label : Option (List Byte)) (s : State) : State :=
  recordPut (s.chan c) m flags code size row seg pos label (bufferPut (s.chan c) m size (labelPut (s.chan c) m label s))

/-- A channel whose sample has been delivered into its open batch. -/
def Chan.gave (x : Chan) (m : Sample) : Chan :=
  { x with flight := x.flight.filter fun k => k.id != m.id, samples := x.samples + 1, firstAt := some (x.firstAt.getD m.arrival) }

/-- The counters of a sample with its flags. -/
def sampleCounted (h flags : Nat) (s : State) : State :=
  let cnt := fun (off f : Nat) (s : State) => if flags &&& f = 0 then s else count h off 1 s
  cnt 28 fReplaced (cnt 24 fSlow (cnt 20 fShort (cnt 16 fDecode (cnt 12 fCrc (count h 8 1 s)))))

/-- The batch closes when it has its samples. -/
def batchFilled (c n : Nat) (s : State) : State := if n ≤ (s.chan c).samples then closeBatch c false false s else s

theorem emitSample_eq (c : Nat) (m : Sample) (flags code size row seg pos : Nat) (label : Option (List Byte)) (s : State) :
    emitSample c m flags code size row seg pos label s = chanSettle c (writeStat (s.chan c).handle (batchFilled c (iBatchN (s.chan c).par)
      (sampleCounted (s.chan c).handle flags ((sampleOut c m flags code size row seg pos label s).modChan c fun x => x.gave m)))) := rfl

theorem apart_labelPut (x : Chan) (m : Sample) (label : Option (List Byte)) (s : State) : Apart s (labelPut x m label s) := by
  unfold labelPut
  split
  · exact .ite (.refl s) (apart_engWrite ..)
  · exact .refl s

theorem delivers_bufferPut (x : Chan) (m : Sample) (size : Nat) (s : State) : Delivers s (bufferPut x m size s) := by
  unfold bufferPut
  split
  · exact (delivers_modBuf ..).trans (delivers_setMark ..)
  · exact .refl s

theorem tally_bufferPut (x : Chan) (m : Sample) (size : Nat) (s : State) (h off : Nat) : (bufferPut x m size s).tally h off = s.tally h off := by
  unfold bufferPut
  split
  · rw [tally_setMark, tally_modBuf]
  · rfl

section
variable (m : Sample) (flags code size row seg pos : Nat) (label : Option (List Byte)) (s : State)

theorem delivers_recordPut (x : Chan) : Delivers s (recordPut x m flags code size row seg pos label s) :=
  .ite ((delivers_ringPut ..).trans (apart_ringIndex ..).delivers) (.refl s)

theorem tally_recordPut (x : Chan) (h off : Nat) : (recordPut x m flags code size row seg pos label s).tally h off = s.tally h off := by
  unfold recordPut
  dsimp only
  split
  · rw [tally_ringIndex, tally_ringPut]
  · rfl

theorem delivers_sampleOut (c : Nat) : Delivers s (sampleOut c m flags code size row seg pos label s) :=
  (apart_labelPut ..).delivers.trans ((delivers_bufferPut ..).trans (delivers_recordPut ..))

theorem tally_sampleOut (c h off : Nat) : (sampleOut c m flags code size row seg pos label s).tally h off = s.tally h off := by
  unfold sampleOut
  rw [tally_recordPut, tally_bufferPut, (apart_labelPut ..).tally_eq]

end

theorem chan_sampleCounted (h flags : Nat) (s : State) (c : Nat) : (sampleCounted h flags s).chan c = s.chan c := by
  have hone : ∀ off f t, Delivers t (if flags &&& f = 0 then t else count h off 1 t) := fun off f t => .ite (.refl t) (delivers_count ..)
  have hall : Delivers s (sampleCounted h flags s) := .trans (.trans (.trans (.trans (.trans (delivers_count ..) (hone ..)) (hone ..)) (hone ..)) (hone ..))
    (hone ..)
  exact hall.chan_eq c

/-- A sample without a cause counts as delivered alone. -/
theorem sampleCounted_good (h : Nat) (s : State) : sampleCounted h 0 s = count h 8 1 s := rfl

/-- A slow sample that its zero substitute replaces counts as delivered, slow and replaced. -/
theorem sampleCounted_slow (h : Nat) (s : State) : sampleCounted h (fSlow ||| fReplaced ||| fZero) s = count h 28 1 (count h 24 1 (count h 8 1 s)) := rfl

theorem batchFilled_or (c n : Nat) (s : State) : batchFilled c n s = s ∨ batchFilled c n s = closeBatch c false false s := by
  unfold batchFilled
  split
  · exact .inr rfl
  · exact .inl rfl

theorem closed_flight (c : Nat) (s : State) : ((closeBatch c false false s).chan c).flight = (s.chan c).flight ∧
    ((closeBatch c false false s).chan c).stopping = (s.chan c).stopping := by
  rw [chan_closeBatch]
  split <;> exact ⟨rfl, rfl⟩

theorem batchFilled_flight (c n : Nat) (s : State) : ((batchFilled c n s).chan c).flight = (s.chan c).flight ∧
    ((batchFilled c n s).chan c).stopping = (s.chan c).stopping := by
  rcases batchFilled_or c n s with h | h <;> rw [h]
  · exact ⟨rfl, rfl⟩
  · exact closed_flight c s

theorem tally_batchFilled {off : Nat} (ho : NoBatchCounter off) (c n : Nat) (s : State) (h : Nat) : (batchFilled c n s).tally h off = s.tally h off := by
  rcases batchFilled_or c n s with e | e <;> rw [e]
  exact tally_closeBatch ho ..

section
variable (c : Nat) (m : Sample) (flags code size row seg pos : Nat) (label : Option (List Byte)) (s : State)

theorem chan_counted : (sampleCounted (s.chan c).handle flags ((sampleOut c m flags code size row seg pos label s).modChan c fun x => x.gave m)).chan c =
    (s.chan c).gave m := by
  rw [chan_sampleCounted, chan_modChan_self, (delivers_sampleOut ..).chan_eq]

/-- A sample that is delivered leaves the flight. -/
theorem emitSample_flight : ((emitSample c m flags code size row seg pos label s).chan c).flight =
    (s.chan c).flight.filter fun k => k.id != m.id := by
  obtain ⟨-, -, -, hsettled⟩ := chanSettle_parse c (writeStat (s.chan c).handle (batchFilled c (iBatchN (s.chan c).par)
    (sampleCounted (s.chan c).handle flags ((sampleOut c m flags code size row seg pos label s).modChan c fun x => x.gave m))))
  rw [emitSample_eq, hsettled, chan_writeStat, (batchFilled_flight ..).1, chan_counted]
  rfl

/-- The counters of a sample that is delivered, beside those of its batch. -/
theorem tally_emitSample (hstop : (s.chan c).stopping = false) {off : Nat} (ho : NoBatchCounter off) (h : Nat) :
    (emitSample c m flags code size row seg pos label s).tally h off =
      (sampleCounted (s.chan c).handle flags ((sampleOut c m flags code size row seg pos label s).modChan c fun x => x.gave m)).tally h off := by
  rw [emitSample_eq, tally_chanSettle _ ho, tally_writeStat, tally_batchFilled ho]
  rw [chan_writeStat, (batchFilled_flight ..).2, chan_counted]
  exact hstop

end

/-! ### What is delivered -/

/-- A sample is out: it has left the flight, and its stream has counted it by its flags. -/
structure Emitted (c : Nat) (flags : Nat) (id : W32) (s t : State) : Prop where
  left : Left (s.chan c) (t.chan c) id
  counted : ∀ off, NoBatchCounter off → ∃ u : State, (∀ h o, u.tally h o = s.tally h o) ∧
    t.tally (s.chan c).handle off = (sampleCounted (s.chan c).handle flags u).tally (s.chan c).handle off

theorem emitted_emitSample {s u : State} (hu : Apart s u) {c : Nat} (hstop : (s.chan c).stopping = false) (m : Sample)
    (flags code size row seg pos : Nat) (label : Option (List Byte)) :
    Emitted c flags m.id s (emitSample c m flags code size row seg pos label u) := by
  have hchan : u.chan c = s.chan c := hu.delivers.chan_eq c
  constructor
  · exact left_of_filter ((emitSample_flight ..).trans (by rw [hchan]))
  · intro off ho
    refine ⟨(sampleOut c m flags code size row seg pos label u).modChan c fun x => x.gave m, fun h o => ?_, ?_⟩
    · rw [tally_modChan, tally_sampleOut, hu.tally_eq]
    · rw [tally_emitSample c m flags code size row seg pos label u (by rwa [hchan]) ho, hchan]

/-- Work that keeps the flight and the counters keeps what has been emitted. -/
theorem Emitted.keeps {c flags : Nat} {id : W32} {s t w : State} (h : Emitted c flags id s t) (hf : (w.chan c).flight = (t.chan c).flight)
    (ht : ∀ k off, w.tally k off = t.tally k off) : Emitted c flags id s w := by
  have hsample : ∀ k, (w.chan c).sample? k = (t.chan c).sample? k := fun k => congrArg (List.find? _) hf
  constructor
  · exact ⟨(hsample id).trans h.left.gone, fun k hk => (congrArg Option.isSome (hsample k)).trans (h.left.others k hk)⟩
  · intro off ho
    obtain ⟨u, hu, hcount⟩ := h.counted off ho
    exact ⟨u, hu, (ht ..).trans hcount⟩

theorem keepGood_keeps (c : Nat) (m : Sample) (s : State) : ((keepGood c m s).chan c).flight = (s.chan c).flight ∧
    ∀ h off, (keepGood c m s).tally h off = s.tally h off := by
  unfold keepGood
  dsimp only
  split
  · exact ⟨rfl, fun _ _ => rfl⟩
  · split
    · exact ⟨by rw [chan_modChan_self, (apart_engWrite ..).delivers.chan_eq, (apart_engWrite ..).delivers.chan_eq],
        fun h off => by rw [tally_modChan, tally_engWrite, tally_engWrite]⟩
    · exact ⟨by rw [chan_modChan_self, (apart_engWrite ..).delivers.chan_eq], fun h off => by rw [tally_modChan, tally_engWrite]⟩

theorem apart_ingestPoison (k : Option Nat) (s : State) : Apart s (ingestPoison k s) := by
  unfold ingestPoison
  split
  · exact apart_reportUnnamed ..
  · exact .refl s

theorem apart_payloadRead (x : Chan) (m : Sample) (s : State) : Apart s (payloadRead x m s) :=
  .ite (.refl s) (.trans (apart_ringRead ..) (apart_ingestPoison ..))

/-- A sample that is out stays out while its payload is read and kept. -/
theorem Emitted.readAndKept {c flags : Nat} {id : W32} {s t : State} (h : Emitted c flags id s t) (x : Chan) (m : Sample) :
    Emitted c flags id s (keepGood c m (payloadRead x m t)) := by
  have hread := apart_payloadRead x m t
  obtain ⟨hflight, htally⟩ := keepGood_keeps c m (payloadRead x m t)
  exact h.keeps (hflight.trans (congrArg Chan.flight (hread.delivers.chan_eq c))) fun k off => (htally k off).trans (hread.tally_eq k off)

/-- A tensor is delivered at once. -/
theorem deliver_tensor (c : Nat) (m : Sample) (flags code : Nat) (data : List Byte) (label : Option (List Byte)) (s : State) : ∃ u, Apart s u ∧
    deliver c m flags code (.tensor data) label s = (emitSample c m flags code data.length 0 0 0 label u, true) := by
  refine ⟨_, ?_, rfl⟩
  exact .ite (.refl s) (apart_engWrite ..)

/-- An image without a cause is delivered once HOLD_QUOTA lets it. -/
theorem deliver_image {c : Nat} {s : State} (h : jpegWaits s (s.chan c) = false) (m : Sample) (code w p : Nat) (label : Option (List Byte)) :
    deliver c m 0 code (.image w p) label s = (emitSample c m 0 code (w + 65536 * p) 0 0 0 label s, true) := by
  have himage : deliver c m 0 code (.image w p) label s = if jpegWaits s (s.chan c) then (s, false) else
      (emitSample c m 0 code (w + 65536 * p) 0 0 0 label (match m.buf with
        | some _ => s
        | none => s), true) := rfl
  rw [himage, if_neg (by simp [h])]
  cases m.buf <;> rfl

/-- What a sample without a cause delivers at once. -/
theorem deliver_whole {c : Nat} {s : State} {m : Sample} (hk : m.kind = 2 ∨ m.kind = 1 ∧ jpegWaits s (s.chan c) = false) (code w p : Nat)
    (bs : List Byte) (label : Option (List Byte)) : ∃ u size, Apart s u ∧
      deliver c m 0 code (contentOf m.kind bs w p) label s = (emitSample c m 0 code size 0 0 0 label u, true) := by
  rcases hk with hk | ⟨hk, hwait⟩
  · obtain ⟨u, hu, h⟩ := deliver_tensor c m 0 code ((bs.drop 16).take ((tensorSize (bs.take 16)).getD 0)) label s
    rw [hk]
    exact ⟨u, _, hu, h⟩
  · rw [hk]
    exact ⟨s, _, .refl s, deliver_image hwait ..⟩

/-- The decoder's result of a sample, where its payload's own CRC holds: the code, the width and the height. -/
def decoded (s : State) (x : Chan) (m : Sample) : Nat × Nat × Nat := if payloadBad s x m then (0, 0, 0) else m.jpeg.getD (0, 0, 0)

/-- The label of a sample as it stands in the ring. -/
def labelPeek (s : State) (x : Chan) (m : Sample) : Option (List Byte) := m.label.map fun l => ringPeek s x.base x.size l.1 l.2

/-- A sample without a cause is delivered from its payload in the ring, and kept as the latest good one. -/
theorem sampleEnd_good {c : Nat} {s t : State} {m : Sample} (h : deliver c m 0 (decoded s (s.chan c) m).1 (contentOf m.kind
    (ringPeek s (s.chan c).base (s.chan c).size m.start m.len) (decoded s (s.chan c) m).2.1 (decoded s (s.chan c) m).2.2)
    (labelPeek s (s.chan c) m) s = (t, true)) : sampleEnd c m 0 s = keepGood c m (payloadRead (s.chan c) m t) := by
  unfold decoded labelPeek at h
  unfold sampleEnd
  dsimp only
  rw [if_pos rfl, h]
  rfl

/-- A sample without a cause is delivered. -/
theorem sampleEnd_emits {c : Nat} {s : State} {m : Sample} (hk : m.kind = 2 ∨ m.kind = 1 ∧ jpegWaits s (s.chan c) = false)
    (hstop : (s.chan c).stopping = false) : Emitted c 0 m.id s (sampleEnd c m 0 s) := by
  obtain ⟨u, size, hu, hdeliver⟩ := deliver_whole hk (decoded s (s.chan c) m).1 (decoded s (s.chan c) m).2.1 (decoded s (s.chan c) m).2.2
    (ringPeek s (s.chan c).base (s.chan c).size m.start m.len) (labelPeek s (s.chan c) m)
  rw [sampleEnd_good hdeliver]
  exact (emitted_emitSample hu hstop m ..).readAndKept ..

theorem sampleFinish_ends {s : State} {c : Nat} {id : W32} {m : Sample} {flags : Nat} (hm : (s.chan c).sample? id = some m) (hsent : m.sent.isSome = true)
    (hredo : m.redo = false) (hslow : m.slow = false) (hready : (s.chan c).ready m = true)
    (hwhole : m.whole = true ∨ m.label.isSome = true ∨ (s.chan c).moreInput = false) (hflags : sampleFlags s (s.chan c) m = some flags) :
    sampleFinish c id s = sampleEnd c m flags s := by
  obtain ⟨t, ht⟩ := Option.isSome_iff_exists.1 hsent
  unfold sampleFinish
  dsimp only
  rw [hm]
  dsimp only
  rw [if_neg (by simp [ht]), if_neg (by simp [hredo]), if_neg (by simp [hslow]), if_neg (by simp [hready]),
    if_neg (by rcases hwhole with h | h | h <;> simp [h]), hflags]

/-! ### Slow samples (R300) -/

section
variable {s : State} {c : Nat} {id : W32} {m : Sample} (hm : (s.chan c).sample? id = some m)
include hm

theorem sampleSlow_quick (h : isSlow s m = false) : sampleSlow c id s = s := by
  unfold sampleSlow
  rw [hm]
  exact if_pos (by simp [h])

theorem sampleSlow_late (h : isSlow s m = true) : sampleSlow c id s =
    (replaceSample c { m with slow := true } fSlow 0 (modSample c id (fun m => { m with slow := true }) s)).1 := by
  unfold sampleSlow
  rw [hm]
  exact if_neg (by simp [h])

end

theorem isSlow_unlimited {s : State} (h : s.fld Reg.ingestLimits 31 0 = 0) (m : Sample) : isSlow s m = false := by
  unfold isSlow
  dsimp only
  split
  · simp [h]
  · rfl

theorem isSlow_quick {s : State} {m : Sample} {t : W64} (ht : m.sent = some t)
    (h : (s.clock.timeM - t).toNat < s.fld Reg.ingestLimits 31 0 ∨ m.redo = true ∨ m.jpeg.isSome = true) : isSlow s m = false := by
  unfold isSlow
  dsimp only
  rw [ht]
  dsimp only
  rcases h with h | h | h
  · rw [decide_eq_false (Nat.not_le.2 h), Bool.and_false]
  · rw [h]
    simp
  · obtain ⟨j, hj⟩ := Option.isSome_iff_exists.1 h
    rw [hj]
    simp

theorem isSlow_late {s : State} {m : Sample} {t : W64} (ht : m.sent = some t) (hlimit : s.fld Reg.ingestLimits 31 0 ≠ 0)
    (h : s.fld Reg.ingestLimits 31 0 ≤ (s.clock.timeM - t).toNat) (hredo : m.redo = false) (hj : m.jpeg = none) : isSlow s m = true := by
  unfold isSlow
  dsimp only
  rw [ht]
  dsimp only
  rw [decide_eq_true h, hredo, hj]
  simpa using hlimit

/-- A slow tensor that nothing but zeros can replace gives way to them. -/
theorem replaceSample_zero {c : Nat} {s : State} {m : Sample} (hk : m.kind = 2) (hg : lastGood (s.chan c) m.kind = none)
    (hstop : (s.chan c).stopping = false) : Emitted c (fSlow ||| fReplaced ||| fZero) m.id s (replaceSample c m fSlow 0 s).1 := by
  obtain ⟨u, hu, hdeliver⟩ := deliver_tensor c m (fSlow ||| fReplaced ||| fZero) 0
    (List.replicate ((tensorSize (iSubTensor (s.chan c).par)).getD 0) 0) none s
  have hzero : replaceSample c m fSlow 0 s =
      deliver c m (fSlow ||| fReplaced ||| fZero) 0 (.tensor (List.replicate ((tensorSize (iSubTensor (s.chan c).par)).getD 0) 0)) none s := by
    unfold replaceSample
    dsimp only
    rw [hg, hk]
    rfl
  rw [hzero, hdeliver]
  exact emitted_emitSample hu hstop m ..

theorem lastGood_none {x : Chan} {kind : Nat} (h : iZero x.par = true ∨ tfind x.good kind = none) : lastGood x kind = none := by
  unfold lastGood
  split
  · rfl
  · next hz => exact h.resolve_left hz

/-! ### Counters of a stream that has emitted a sample -/

section
variable {c : Nat} {id : W32} {s t : State} {y : Stream} (hy : s.stream? (s.chan c).handle = some y)
include hy

/-- A sample without a cause is counted as delivered, and not as replaced. -/
theorem Emitted.counts_good (h : Emitted c 0 id s t) : ∃ z, t.stream? (s.chan c).handle = some z ∧ tget 0 z.cnt 8 = satAdd 32 (tget 0 y.cnt 8) 1 ∧
    tget 0 z.cnt 28 = tget 0 y.cnt 28 := by
  have hdelivered : t.tally (s.chan c).handle 8 = some (satAdd 32 (tget 0 y.cnt 8) 1) := by
    obtain ⟨u, hu, hcount⟩ := h.counted 8 (by unfold NoBatchCounter; decide)
    rw [hcount, sampleCounted_good, tally_count_self, hu, tally_of hy, Option.map_some]
  have hreplaced : t.tally (s.chan c).handle 28 = some (tget 0 y.cnt 28) := by
    obtain ⟨u, hu, hcount⟩ := h.counted 28 (by unfold NoBatchCounter; decide)
    rw [hcount, sampleCounted_good, tally_count_ne (by decide), hu, tally_of hy]
  obtain ⟨z, hz, hcnt⟩ := stream?_of_tally hdelivered
  exact ⟨z, hz, hcnt _ _ hdelivered, hcnt _ _ hreplaced⟩

/-- A slow sample is counted as slow and as replaced. -/
theorem Emitted.counts_slow (h : Emitted c (fSlow ||| fReplaced ||| fZero) id s t) : ∃ z, t.stream? (s.chan c).handle = some z ∧
    tget 0 z.cnt 24 = satAdd 32 (tget 0 y.cnt 24) 1 ∧ tget 0 z.cnt 28 = satAdd 32 (tget 0 y.cnt 28) 1 := by
  have hslow : t.tally (s.chan c).handle 24 = some (satAdd 32 (tget 0 y.cnt 24) 1) := by
    obtain ⟨u, hu, hcount⟩ := h.counted 24 (by unfold NoBatchCounter; decide)
    rw [hcount, sampleCounted_slow, tally_count_ne (by decide), tally_count_self, tally_count_ne (by decide), hu, tally_of hy, Option.map_some]
  have hreplaced : t.tally (s.chan c).handle 28 = some (satAdd 32 (tget 0 y.cnt 28) 1) := by
    obtain ⟨u, hu, hcount⟩ := h.counted 28 (by unfold NoBatchCounter; decide)
    rw [hcount, sampleCounted_slow, tally_count_self, tally_count_ne (by decide), tally_count_ne (by decide), hu, tally_of hy, Option.map_some]
  obtain ⟨z, hz, hcnt⟩ := stream?_of_tally hslow
  exact ⟨z, hz, hcnt _ _ hslow, hcnt _ _ hreplaced⟩

end

/-- A sample is slow, and stays so. -/
def markSlow (c : Nat) (id : W32) (s : State) : State := modSample c id (fun m => { m with slow := true }) s

theorem markSlow_kept (c : Nat) (id : W32) (s : State) : ((markSlow c id s).chan c).par = (s.chan c).par ∧
    ((markSlow c id s).chan c).good = (s.chan c).good ∧ ((markSlow c id s).chan c).stopping = (s.chan c).stopping := by
  unfold markSlow
  rw [chan_modSample]
  exact ⟨rfl, rfl, rfl⟩

/-- A slow tensor that has only its zero substitute leaves the flight, and is counted as slow and replaced. -/
theorem sampleSlow_zero {s : State} {c : Nat} {id : W32} {m : Sample} (hm : (s.chan c).sample? id = some m) (hslow : isSlow s m = true)
    (hk : m.kind = 2) (hgood : iZero (s.chan c).par = true ∨ tfind (s.chan c).good 2 = none) (hstop : (s.chan c).stopping = false) :
    ((sampleSlow c id s).chan c).sample? id = none ∧ ∀ y, s.stream? (s.chan c).handle = some y →
      ∃ z, (sampleSlow c id s).stream? (s.chan c).handle = some z ∧ tget 0 z.cnt 24 = satAdd 32 (tget 0 y.cnt 24) 1 ∧
        tget 0 z.cnt 28 = satAdd 32 (tget 0 y.cnt 28) 1 := by
  obtain ⟨hpar, hkept, hstops⟩ := markSlow_kept c id s
  have hhandle : ((markSlow c id s).chan c).handle = (s.chan c).handle := congrArg iHandle hpar
  have hlate : sampleSlow c id s = (replaceSample c { m with slow := true } fSlow 0 (markSlow c id s)).1 := sampleSlow_late hm hslow
  have hout : Emitted c (fSlow ||| fReplaced ||| fZero) m.id (markSlow c id s) (sampleSlow c id s) := by
    rw [hlate]
    refine replaceSample_zero (m := { m with slow := true }) hk (lastGood_none ?_) (hstops.trans hstop)
    rw [hpar, hkept]
    exact hk ▸ hgood
  rw [sample?_id hm] at hout
  refine ⟨hout.left.gone, fun y hy => ?_⟩
  rw [← hhandle] at hy ⊢
  exact hout.counts_slow hy

end Sys2Proof.Machine
end

section
/-!
O52. What a record header leaves in its channel and in the counters of its stream (R290, R296, R297).
-/
namespace Sys2Proof.Machine

section
variable {s : State} {c : Nat} (hst : (s.chan c).st = 1) (hmore : (s.chan c).moreInput = true)
  (hclean : ringDirty s (s.chan c).base (s.chan c).size (s.chan c).pos 16 = none)
include hst hmore hclean

/-- A channel takes its next sample in, past whose payload the parse index goes. -/
theorem recordHeader_sample (hok : headerOk ((s.chan c).header s) = true) (hkind : leAt ((s.chan c).header s) 8 1 ∈ [1, 2, 4])
    (hflags : leAt ((s.chan c).header s) 9 1 = 0) (hzero : leAt ((s.chan c).header s) 10 2 = 0) (hslot : (s.chan c).slotFree) :
    ((recordHeader c s).chan c).flight = (closeSample (s.chan c)).flight ++ [(s.chan c).arrived ((s.chan c).header s) s.clock.timeM] ∧
      ((recordHeader c s).chan c).id = (s.chan c).id + 1 ∧
      ((recordHeader c s).chan c).pos = ((s.chan c).leap (leAt ((s.chan c).header s) 4 4)).pos := by
  have hclock : (headerRead c s).clock = s.clock := (apart_headerRead c s).delivers.clock_eq
  have hclosed := closeSample_eq (s.chan c)
  rw [recordHeader_takes hst hmore hclean hok hkind hflags hzero hslot, chan_chanSync, chan_modChan_self, chan_count, chan_modChan_self,
    chan_headerRead, hclock]
  refine ⟨rfl, ?_, leap_pos_congr ?_ ?_ _⟩ <;> rw [hclosed]

variable (hbad : headerOk ((s.chan c).header s) = false)
include hbad

/-- A corrupt header moves the parse index by 8 bytes and keeps the samples. -/
theorem recordHeader_resync : ((recordHeader c s).chan c).pos = (s.chan c).pos + 8 ∧ ((recordHeader c s).chan c).resync = true ∧
    ((recordHeader c s).chan c).id = (s.chan c).id ∧ ((recordHeader c s).chan c).flight.length = (s.chan c).flight.length := by
  have hread : ∀ h, (if (s.chan c).resync then headerRead c s else count h 32 1 (headerRead c s)).chan c = closeSample (s.chan c) := fun h => by
    split
    · exact chan_headerRead c s
    · rw [chan_count, chan_headerRead]
  have hclosed := closeSample_eq (s.chan c)
  rw [recordHeader_corrupt hst hmore hclean hbad]
  obtain ⟨hpos, hresync, hid, hflight⟩ := chanSettle_parse c (count (s.chan c).handle 36 8
    ((if (s.chan c).resync then headerRead c s else count (s.chan c).handle 32 1 (headerRead c s)).modChan c fun x =>
      { x with pos := x.pos + 8, resync := true, afterPrimary := false }))
  rw [hpos, hresync, hid, hflight, chan_count, chan_modChan_self, hread]
  refine ⟨?_, rfl, ?_, closeSample_length _⟩ <;> rw [hclosed]

/-- The first of a row of corrupt headers is counted. -/
theorem tally_recordHeader_corrupt (hsync : (s.chan c).resync = false) : (recordHeader c s).tally (s.chan c).handle 32 =
    (s.tally (s.chan c).handle 32).map fun k => satAdd 32 k 1 := by
  have hstop : (s.chan c).stopping = false := by
    unfold Chan.moreInput at hmore
    simp only [Bool.and_eq_true, Bool.not_eq_true'] at hmore
    obtain ⟨⟨hstop, -⟩, -⟩ := hmore
    exact hstop
  have hclosed := closeSample_eq (s.chan c)
  rw [recordHeader_corrupt hst hmore hclean hbad, if_neg (by simp [hsync]), tally_chanSettle _ (by unfold NoBatchCounter; decide),
    tally_count_ne (by decide), tally_modChan, tally_count_self, tally_headerRead]
  rw [chan_count, chan_modChan_self, chan_count, chan_headerRead, hclosed]
  exact hstop

end
end Sys2Proof.Machine
end

section
open Sys2Proof Sys2Proof.Machine

/-- Settles O52: a record header, a dispatch, a result of the decoder, the end of a sample and a deadline come each to one change of the channel, and
the counters of the stream follow the flags of the sample. -/
theorem ingestSamples : Obligations.IngestSamples := by
  unfold Obligations.IngestSamples
  intro s c hup hst
  simp only [exec_recordHeader, exec_sampleDispatch, exec_jpegDone, exec_sampleFinish, exec_sampleSlow, exec_batchDeadline, running_eq hup hst]
  refine ⟨fun hidle => ?_, fun hrun hmore hclean => ⟨fun hok hkind hflags hzero => ⟨fun hslot => ?_, fun hslot => ?_⟩, fun hbad => ?_⟩,
    fun id m hm => ⟨fun hsent hready => ⟨fun hk => ?_, fun b hk hb hheld => ?_, fun hk hfull => ?_⟩, fun hwait => ?_, fun r b hb hj => ?_,
      fun hsent hredo hslow hready hwhole hflags hk hstop => ?_, fun hlimit => ?_, fun t0 ht hquick => ?_,
      fun t0 hlimit ht hage hredo hj hk hgood hstop => ?_⟩,
    fun hnone => ?_, fun t0 ht => ⟨fun hearly => ?_, fun hd hage hmax hn => ?_⟩⟩
  · rw [recordHeader_idle hidle, keepQueue_of_pending rfl]
  · obtain ⟨hflight, hid, hpos⟩ := recordHeader_sample hrun hmore hclean hok hkind hflags hzero hslot
    refine ⟨_, (s.chan c.val).arrived ((s.chan c.val).header s) s.clock.timeM, rfl, ?_, rfl, rfl, rfl, rfl, rfl, rfl, ?_, hid, hpos⟩
    · exact (congrArg List.getLast? hflight).trans List.getLast?_concat
    · refine (congrArg List.length hflight).trans ?_
      rw [List.length_append, closeSample_length, List.length_singleton]
  · have hpending : (s.modChan c.val closeSample).pending = s.pending := rfl
    rw [recordHeader_waits hrun hmore hclean hok hkind hflags hzero hslot, keepQueue_of_pending hpending]
  · obtain ⟨hpos, hresync, hid, hflight⟩ := recordHeader_resync hrun hmore hclean hbad
    refine ⟨_, rfl, hpos, hresync, hid, hflight, fun y hy hsync => ?_⟩
    have hcount := tally_recordHeader_corrupt hrun hmore hclean hbad hsync
    rw [tally_of hy, Option.map_some] at hcount
    obtain ⟨z, hz, hcnt⟩ := stream?_of_tally hcount
    exact ⟨z, hz, hcnt _ _ hcount⟩
  · rw [sampleDispatch_raw hm hsent hready hk]
    exact ⟨_, rfl, sample?_modSample hm fun _ => rfl, rfl⟩
  · obtain ⟨y, hy⟩ := buf?_of_anyFree hb
    have hchan : ∀ f, (s.modBuf b f).chan c.val = s.chan c.val := fun f => (delivers_modBuf s b f).chan_eq c.val
    rw [sampleDispatch_jpeg hm hsent hready hk hb hheld]
    refine ⟨_, { y with taken := true }, rfl, sample?_modSample ?_ fun _ => rfl, buf?_modBuf hy _, rfl⟩
    rw [hchan]
    exact hm
  · rw [sampleDispatch_full hm hk hfull, keepQueue_of_pending rfl]
  · rw [sampleDispatch_waits hm hwait, keepQueue_of_pending rfl]
  · have hdrawn := apart_jpegDrawn (s.chan c.val) b r s
    rw [jpegDone_eq hm hb hj]
    refine ⟨_, rfl, ?_, fun h l y hd hy => ?_, fun hd => ?_⟩
    · refine sample?_modSample ?_ fun _ => rfl
      rw [hdrawn.delivers.chan_eq]
      exact hm
    · exact (congrArg State.mem (jpegDrawn_some hd hy) :)
    · exact (congrArg State.mem (jpegDrawn_none hd b s) :)
  · have hout := sampleEnd_emits hk hstop
    rw [sample?_id hm] at hout
    rw [sampleFinish_ends hm hsent hredo hslow hready hwhole hflags]
    exact ⟨_, rfl, hout.left.gone, hout.left.others, fun y hy => (hout.counts_good hy :)⟩
  · rw [sampleSlow_quick hm (isSlow_unlimited hlimit m), keepQueue_of_pending rfl]
  · rw [sampleSlow_quick hm (isSlow_quick ht hquick), keepQueue_of_pending rfl]
  · obtain ⟨hgone, hcounts⟩ := sampleSlow_zero hm (isSlow_late ht hlimit hage hredo hj) hk hgood hstop
    exact ⟨_, rfl, hgone, hcounts⟩
  · rw [batchDeadline_none hnone, keepQueue_of_pending rfl]
  · rw [batchDeadline_early ht hearly, keepQueue_of_pending rfl]
  · obtain ⟨st, stopping, eos, hchan⟩ := chan_deadline hn
    rw [batchDeadline_due ht hd hage hmax]
    refine ⟨_, rfl, ?_⟩
    have hsame : (keepQueue s (chanSettle c.val (closeBatch c.val true false s))).chan c.val =
        { (s.chan c.val).closed with st := st, stopping := stopping, eos := eos } := hchan
    rw [hsame]
    exact ⟨rfl, rfl, rfl, rfl, rfl⟩

end
